-- ==== Sys2Proof/Word.lean ====
section
/-!
DEFINITION. Sys2Proof/Word.lean: the machine's plainest types.

`Byte` is the smallest addressable unit of every memory of the part (R65).
`Word64` is a register or an 8-byte lane of a bus (R75).
Sparse tables by number (`Tbl`) hold records whose absent entries read as the record's reset value.
-/
namespace Sys2Proof

/-- A byte of memory. -/
abbrev Byte := BitVec 8

/-- A 64-bit register value (R75). -/
abbrev Word64 := BitVec 64

/-- A sparse table by number: an absent key reads as the record's reset value.
The operations stand in `Machine/Operands.lean`. -/
abbrev Tbl (α : Type) := List (Nat × α)

end Sys2Proof
end

