-- ==== Sys2Proof/Syntax.lean ====
section
/-!
DEFINITION. Sys2Proof/Syntax.lean: the commands of the block, one constructor per row of spec/opcode_table.json,
and the operands they carry.

The table gives no row any bits, so a command is a constructor and its operands: what the spec lets vary in that
step. Where the spec gives no layout for a descriptor (the vector unit's operation fields, R97), the fields are the
command's operands (notes/assumptions/6.md).
-/
namespace Sys2Proof

/-! ## Operands of the Trellis and of the address map (02) -/

/-- The four classes of Trellis packets (R61). -/
inductive TClass where
  | request | response | bulk | control
  deriving DecidableEq, Repr

/-- Who makes an access that crosses the Trellis or the links (R57, R63, R283, R290). -/
inductive Agent where
  /-- a tile thread; the register takes a load's data -/
  | core (t : Fin 48) (th : Fin 32) (rd : Fin 32)
  /-- a control core, for firmware -/
  | control (hart : Fin 8)
  /-- the commit unit of HD, for deferred operations (R111) -/
  | commit
  /-- a RING channel of a DMA engine -/
  | dma (eng : Fin 5) (ch : Fin 64)
  /-- a TILE channel's transfer: the operation of a tile command -/
  | tileDma (t : Fin 48) (h : Nat)
  deriving DecidableEq, Repr

/-- A Trellis packet as a router sees it: the header's own CRC-16 verdict is computed from `hdr` and `crc` (R62). -/
structure TPkt where
  /-- header bytes, the CRC excluded -/
  hdr : List Byte
  /-- the CRC-16 the header carries -/
  crc : BitVec 16
  /-- class, one virtual channel each (R61) -/
  cls : TClass
  /-- source DIE_SITE (R53) -/
  src : Nat
  /-- destination DIE_SITE (R53) -/
  dst : Nat
  /-- the request this packet makes or answers; requests and responses match by it (R63) -/
  txn : Nat
  /-- a read request: its issuer waits for data (R63) -/
  isRead : Bool
  /-- the thread or engine that makes the request, if it is one whose access waits for it (R63) -/
  issuer : Option Agent
  /-- payload; no check crosses the Trellis with it (R62) -/
  payload : List Byte
  /-- UCIe link-layer retries its crossing took (R62, R82) -/
  retries : Nat
  deriving DecidableEq, Repr

/-- The masters of R71, one per column of its table. -/
inductive Master where
  /-- a tile core or engine -/
  | tile (t : Nat)
  /-- a tile's DMA channel, or the HD engine's; `fw` when firmware issued the transfer -/
  | dma (eng : Nat) (fw : Bool)
  /-- fabric inbound on a link die -/
  | fabric (die : Nat)
  /-- a control core -/
  | control
  /-- host CXL.mem -/
  | hostMem (ld : Nat)
  /-- host CXL.io -/
  | hostIo (ld : Nat)
  deriving DecidableEq, Repr

/-! ## Operands of tile commands (03) -/

/-- The forms of TOP.FADD: FP32 or packed BF16, 4-byte or 8-byte (R100, R110). -/
inductive FaddForm where
  | s | s8 | bf | bf8
  deriving DecidableEq, Repr

/-- What a core's memory access does (R100, R101). -/
inductive CoreAccKind where
  | load | store
  | amoAdd | amoSwap
  /-- the AMOs supported only on the own scratchpad (R100) -/
  | amoXor | amoAnd | amoOr | amoMin | amoMax | amoMinu | amoMaxu
  | lr | sc
  deriving DecidableEq, Repr

/-- One memory access of a tile core: base register `rs1` plus `imm`, value from `rs2`, result to `rd`. -/
structure CoreAcc where
  kind : CoreAccKind
  rd : Fin 32
  rs1 : Fin 32
  rs2 : Fin 32
  /-- sign-extended immediate of the load or store; 0 for atomics -/
  imm : Int
  /-- log2 of the width in bytes: 1, 2, 4 or 8 -/
  lg : Fin 4
  /-- a load that zero-extends -/
  zext : Bool
  /-- the register is a floating-point register (F, Zfh, Zfbfmin: R100) -/
  fp : Bool
  /-- the instruction's length in bytes, 2 when compressed -/
  ilen : Nat
  deriving DecidableEq, Repr

/-- Elementwise operations (R97 OPC 0x10). -/
inductive VewOp where
  | add | sub | mul | fma | max | min | convert
  deriving DecidableEq, Repr

/-- VEW operands: offsets in the own window, input format FP32 or BF16, any output format of R85. -/
structure VewArgs where
  op : VewOp
  n : Nat
  a : Nat
  b : Nat
  c : Nat
  /-- second input is one broadcast scalar -/
  bScalar : Bool
  /-- third input is one broadcast scalar -/
  cScalar : Bool
  inBf16 : Bool
  dst : Nat
  outFmt : Nat
  /-- the scale array of an MX output (R87) -/
  dstScale : Nat
  deriving DecidableEq, Repr

/-- Transcendental functions (R97 OPC 0x11). -/
inductive VfnOp where
  | exp | reciprocal | rsqrt
  deriving DecidableEq, Repr

structure VfnArgs where
  op : VfnOp
  n : Nat
  src : Nat
  inBf16 : Bool
  dst : Nat
  outBf16 : Bool
  deriving DecidableEq, Repr

/-- Reductions (R97 OPC 0x12). -/
inductive VredOp where
  | sum | max | argmax
  deriving DecidableEq, Repr

structure VredArgs where
  op : VredOp
  rows : Nat
  n : Nat
  src : Nat
  inBf16 : Bool
  dst : Nat
  deriving DecidableEq, Repr

/-- SOFTMAX_ONLINE operands (R97 OPC 0x13): score row, running (max, sum) pair, output accumulator row, all FP32. -/
structure SoftmaxArgs where
  n : Nat
  score : Nat
  pair : Nat
  acc : Nat
  accN : Nat
  deriving DecidableEq, Repr

/-- NORM operands (R97 OPC 0x14): RMS or LAYER. -/
structure NormArgs where
  layer : Bool
  rows : Nat
  n : Nat
  src : Nat
  inBf16 : Bool
  gain : Nat
  bias : Option Nat
  eps : BitVec 32
  dst : Nat
  outBf16 : Bool
  deriving DecidableEq, Repr

/-- QUANT_MX operands (R97 OPC 0x15). -/
structure QuantArgs where
  rows : Nat
  n : Nat
  src : Nat
  inBf16 : Bool
  fmt : Nat
  dst : Nat
  dstScale : Nat
  deriving DecidableEq, Repr

/-- The sampling parameters of R98. -/
structure SampleParams where
  temp : BitVec 32
  topK : Nat
  topP : BitVec 32
  minP : BitVec 32
  deriving DecidableEq, Repr

/-- SAMPLE operands (R97 OPC 0x16, R98): a row of `v` FP32 logits and any logit-bias rows. -/
structure SampleArgs where
  v : Nat
  logits : Nat
  bias : List Nat
  p : SampleParams
  dstTok : Nat
  dstLp : Nat
  deriving DecidableEq, Repr

/-- ACCEPT operands (R97 OPC 0x17, R99): node i's parent and draft token at position i - 1. -/
structure AcceptArgs where
  parents : List Nat
  tokens : List Nat
  treeMax : Nat
  greedy : Bool
  v : Nat
  logits : Nat
  bias : List Nat
  /-- BF16 draft distribution rows, one per parent node -/
  draft : Nat
  p : SampleParams
  outTok : Nat
  outPath : Nat
  deriving DecidableEq, Repr

/-- COMPARE operands (R97 OPC 0x18, R92). -/
structure CompareArgs where
  n : Nat
  a : Nat
  b : Nat
  /-- the scale arrays of an MX format (R87) -/
  aScale : Nat
  bScale : Nat
  fmt : Nat
  bound : BitVec 32
  dst : Nat
  deriving DecidableEq, Repr

/-! ## Operands of memory events (05, 06) -/

/-- A link packet: its 32-byte header flit and its data (R267, R269). -/
structure Pkt where
  hdr : BitVec 256
  data : List Byte
  /-- link it was received on, noted by the unit that takes it from its receive buffer; 36 before -/
  via : Nat := 36
  deriving DecidableEq, Repr

/-- READ data still to be sent to a requester (R316): its MSN, packets minus one, the next packet, local address and bytes,
the region's tenant, and the requester's QUEUE (R314). -/
structure ReadData where
  msn : Nat
  npktM1 : Nat
  next : Nat := 0
  loc : Nat
  len : Nat
  tn : Nat
  queue : Nat
  deriving DecidableEq, Repr

/-- Who waits for an ordinary access that a channel holds (R169). -/
inductive HeldFor where
  /-- nobody -/
  | nobody
  /-- a tile thread, and the access it made -/
  | thread (t : Fin 48) (th : Fin 32) (a : CoreAcc)
  /-- a remote request received by a link die's MSF (R300) -/
  | msf (die : Fin 2) (p : Pkt)
  /-- a remote-queue packet received by a link die's RAE (R315) -/
  | rae (p : Pkt)
  /-- packet `k` of a message of this end, to leave on a link once its source has been read (R310) -/
  | raeOut (conn msn k lk : Nat)
  /-- the next packet of a READ's data, to leave on a link once it has been read (R316) -/
  | raeResp (conn lk : Nat) (d : ReadData)
  /-- a DMA transfer, at a transfer-order position; a read's data goes on to `dst` (R215) -/
  | dma (ag : Agent) (pos dst : Nat)
  deriving DecidableEq, Repr

/-- How the units a BAU program read came out of their code (R183): units corrected, and whether one was uncorrectable. -/
inductive EccOutcome where
  | good (corrected : Nat)
  | bad (corrected : Nat)
  deriving DecidableEq, Repr

/-- A run of the program on a channel (R183): the channel, and how the units it reads come out of their code. -/
structure BauRun where
  ch : Fin 128
  ecc : EccOutcome
  deriving DecidableEq, Repr

/-- How a T2 read with a link error ended (R221): a single-bit error corrected, a retry that succeeded, or one that
failed again, with the agent that made the read. -/
inductive LinkOutcome where
  | corrected
  | retried
  | poisoned (who : Option Agent)
  deriving DecidableEq, Repr

/-- An ordinary access that reaches a channel controller (R165, R169). -/
structure HeldAcc where
  /-- who issued it -/
  m : Master
  /-- a read returns data, a write or atomic stores -/
  write : Bool
  /-- channel-local byte offset -/
  off : Nat
  /-- bytes read -/
  len : Nat
  /-- bytes written -/
  data : List Byte
  who : HeldFor
  deriving DecidableEq, Repr

/-- The tiers a plot can be moved to (R198, R202). -/
inductive Tier where
  | t1 | t2 | t3
  deriving DecidableEq, Repr

/-- How a flash read decodes (R226): hard-decision, after retries, soft-decision, or not at all. -/
inductive LdpcOutcome where
  | hard (over70 : Bool) | retry (n : Nat) | soft | uncorrectable
  deriving DecidableEq, Repr

/-- The end of a plot's copy (R205, R226): its status, and how the read of a T3 source decodes. -/
structure CopyEnd where
  status : Nat
  read : LdpcOutcome
  deriving DecidableEq, Repr

/-- A page to be placed by a pull (R211, R226): its index, and how the read of a T3 plot decodes. -/
structure PulledPage where
  page : Nat
  read : LdpcOutcome
  deriving DecidableEq, Repr

/-- What follows the request id in an OWNER_CLAIM (R271, R279): the claim's epoch, and the packet's CRC-32C. -/
structure ClaimTail where
  epoch : BitVec 16
  crc : BitVec 32
  deriving DecidableEq, Repr

/-- What the FEC made of a packet's codewords (R267): nothing to correct, so many corrected, so many uncorrectable. -/
inductive FecOutcome where
  | clean | corrected (n : Nat) | uncorrectable (n : Nat)
  deriving DecidableEq, Repr

/-- Why a block is relocated (R226). -/
inductive RelocWhy where
  | staticWear | readDisturb | refresh | badBlock | reclaim
  deriving DecidableEq, Repr

/-! ## Operands of the fabric (08, 09) -/

/-- Whose HELLO exchange timed out (R273): a link's, or a peer's on the fabric. -/
inductive HelloTarget where
  | link (lk : Fin 36)
  | peer (fid : BitVec 12)
  deriving DecidableEq, Repr

/-- A graft control record as received (R327, R328): its header and the fields of its kind, and the verdict of its
CRC. `entry` is the request table entry the open carries (R25, R376): model slot, lengths, request flags, TREE_MAX and
the sampling fields are read from it. -/
structure GRec where
  crcOk : Bool := true
  /-- GMODE of an OPEN: 1 PUSH, 2 HANDOVER, 3 PARK -/
  gmode : Nat := 0
  status : Nat := 0
  gtag : Nat := 0
  epoch : Nat := 0
  reqId : BitVec 64 := 0#64
  tenant : BitVec 16 := 0#16
  dreq : Nat := 0
  entry : BitVec 2048 := 0#2048
  pruneFloor : Nat := 0
  /-- deadline remainder in ticks (R31, R385) -/
  remain : BitVec 64 := 0#64
  journalLen : Nat := 0
  layers : Nat := 0
  kvHeads : Nat := 0
  headDim : Nat := 0
  kvFmt : Nat := 0
  pageBits : Nat := 0
  plots : Nat := 0
  ttlMs : Nat := 0
  holder : Nat := 0
  landCredits : Nat := 0
  token : Nat := 0
  tokenIdx : Nat := 0
  vlen : List Nat := []
  reprefill : Bool := false
  deriving DecidableEq, Repr

/-! ## Operands of the host side (12, 13) -/

/-- A mailbox: mailbox m of LD l, or the fabric mailbox (R406, R416). -/
inductive MbId where
  | ld (l : Fin 16) (m : Fin 9)
  | fabric
  deriving DecidableEq, Repr

/-- The QoS commands of the Fabric Manager (R408). -/
inductive QosCmd where
  | getControl | setControl (v : Nat) | getStatus | getAlloc (l : Fin 16) | setAlloc (l : Fin 16) (v : BitVec 8)
  | getLimit (l : Fin 16) | setLimit (l : Fin 16) (v : BitVec 8)
  deriving DecidableEq, Repr

/-- A CXL.mem request of a host (R71, R400). -/
inductive MemReq where
  | read (len : Nat) | write (data : List Byte)
  deriving DecidableEq, Repr

/-- What the partner answers for each slot of RMP_PARTNER_LOAD (R469): when it holds the slot LOADED, the 256-byte entry
and what is pulled, the sections of R427 in the container of that rule. -/
structure PartnerOffer where
  slots : List (Nat × Option (BitVec 2048 × List Byte))
  deriving DecidableEq, Repr

/-! ## Operands of the Cloche, security and start-up (14 to 16) -/

/-- Why the Cloche restarts (R487, R490). -/
inductive RestartWhy where
  | supply | pin | activation
  deriving DecidableEq, Repr

/-- What NEGOTIATE_ALGORITHMS offers (R499). -/
structure SpdmAlgs where
  ed448 : Bool
  sha3 : Bool
  deriving DecidableEq, Repr

/-- How the CXL port trained: rate in GT/s, lanes, and whether the partner enabled MLD operation (R398, R403, R442). -/
structure CxlTrain where
  rate : Nat
  width : Nat
  mld : Bool
  deriving DecidableEq, Repr

/-- What start-up finds outside the machine's own state (R546). -/
structure StartupIn where
  /-- STRAP[3:0] as sampled (R539) -/
  straps : BitVec 4
  /-- LTU count when start-up ends (R546) -/
  ticks : Nat
  /-- REFCLK in kHz as measured (R532) -/
  refKhz : Nat
  /-- how the CXL port trains; none while no partner answers (R399, R544) -/
  cxl : Option CxlTrain
  /-- Trellis modules that did not train: (DIE_SITE, port, how many) (R64) -/
  modulesLost : List (Nat × Nat × Nat)
  /-- LPDDR5X packages that failed training (R546) -/
  lpddrFailed : List Nat
  /-- HBM channels that failed training after repair (R546) -/
  hbmFailed : List Nat
  /-- flash channels that answered: (channel, chip enables, LUNs per enable, failed) (R222, R233) -/
  onfi : List (Nat × Nat × Nat × Bool)
  /-- parameter pages agree: the packages are identical (R223) -/
  flashOk : Bool
  /-- blocks of the medium and sectors in a block (R222); marks and erase counts of blocks the device has no record of (R225) -/
  blocks : Nat
  blockSectors : Nat
  bad : List Nat
  erases : List (Nat × Nat)
  /-- delays of every tile's sweep by TILE_ID (R525) -/
  sweeps : List (List (List Nat))
  deriving DecidableEq, Repr

/-- How an access of the control cores overlaps a sideband transfer on one SBW word (R551). -/
structure SbOverlap where
  /-- which 8-byte word of the transfer -/
  word : Nat
  /-- what port A writes there, when the transfer reads -/
  val : BitVec 64
  /-- the address phase of port A, of port B is the later; both when they fall in one PCLK -/
  aWarned : Bool
  bWarned : Bool
  deriving DecidableEq, Repr

/-- A DMI operation of the debug transport (R553, R555). -/
inductive DmiOp where
  | nop | read (addr : BitVec 7) | write (addr : BitVec 7) (v : BitVec 32)
  deriving DecidableEq, Repr

/-! ## The commands -/

/-- The commands of the block, in the order of spec/opcode_table.json. -/
inductive Instr where
  /-- ADMIT (R24): The ADMIT operation runs its ordered checks, creates the request entry and, for a graft destination, sends the graft open. -/
  | admitOp (ring : Nat) (e : BitVec 1024)
  /-- PARK (R38): The PARK operation moves all of a request's key-value plots to T2, T3 or a cache-pool device. -/
  | park (ring : Nat) (e : BitVec 1024)
  /-- RESUME (R42): The RESUME operation hands the record over if needed, then pulls the plots or re-prefills until the request is back in DECODE. -/
  | resume (ring : Nat) (e : BitVec 1024)
  /-- CANCEL (R45): The CANCEL operation ends a request, killing its commands and freeing its plots, journal and entry. -/
  | cancel (ring : Nat) (e : BitVec 1024)
  /-- REDIRECT (R32): The REDIRECT operation gives a request stalled in HANDOVER a new destination list and opens a graft to it. -/
  | redirect (ring : Nat) (e : BitVec 1024)
  /-- GRAFT_DEST_FAILED (R32): The destination of a push fails; the source opens a graft to the next DEST entry and re-sends every committed layer. -/
  | graftDestFailed (req : Nat) (status : Nat)
  /-- PARK_EXPIRY (R212): The time to live of a parked request runs out; the holder frees the plots, and the owner moves the request to EXPIRED. -/
  | parkExpiry (req : Nat)
  /-- RECORD_HANDOVER (R43): A record handover carries the request table entry and the journal to a new owner, leaving any plots with the old owner as holder. -/
  | recordHandover (req : Nat) (dest : Nat)
  /-- REPREFILL (R44): A request that has expired or lost its plots is re-prefilled over its whole journal. -/
  | reprefill (req : Nat)
  /-- TRELLIS_PACKET (R62): A router receives a Trellis packet, checks its header CRC, and forwards it or discards it. -/
  | trellisPacket (site : Fin 7) (inPort : Option (Fin 4)) (p : TPkt)
  /-- TRELLIS_TIMEOUT (R63): A Trellis request gets no response within TRELLIS_TIMEOUT; the read returns all ones and faults its issuer. -/
  | trellisTimeout (txn : Nat)
  /-- TRELLIS_MODULE_FAIL (R64): A UCIe module fails training or retraining and is left out, so its port shows DEGRADED. -/
  | trellisModuleFail (site : Fin 7) (port : Fin 4)
  /-- PORT_RETRAIN (R83): A write of PORT_CTRL.RETRAIN retrains every left-out module of the port. -/
  | portRetrain (site : Fin 7) (port : Fin 4)
  /-- PORT_CNT_CLR (R83): A write of PORT_CTRL.CNT_CLR clears the PORT_CNT counters. -/
  | portCntClr (site : Fin 7) (port : Fin 4)
  /-- TRELLIS_TIMEOUT_WRITE (R79): A write to TRELLIS_TIMEOUT sets the timeout, or is ignored when out of range. -/
  | trellisTimeoutWrite (v : BitVec 32)
  /-- DIE_ERRCLR (R80): A write to DIE_ERRCLR clears DIE_ERRCNT. -/
  | dieErrclr (site : Fin 7) (v : BitVec 32)
  /-- REGISTER_ACCESS (R75): A write to a register with no behaviour of its own, performed or refused under the access rules. -/
  | registerAccess (m : Master) (addr : Nat) (size : Nat) (v : BitVec 64)
  /-- TOP_ISSUE (R100): TOP.ISSUE issues an operation descriptor to its unit's queue and returns its handle. -/
  | topIssue (tile : Fin 48) (th : Fin 32) (rd rs1 : Fin 32)
  /-- TOP_WAIT (R100): TOP.WAIT waits until the operation with the given handle has completed. -/
  | topWait (tile : Fin 48) (th : Fin 32) (rs1 : Fin 32)
  /-- TOP_FENCE (R100): TOP.FENCE waits until every earlier access of the thread has completed at its destination. -/
  | topFence (tile : Fin 48) (th : Fin 32)
  /-- TOP_FENCET (R100): TOP.FENCET waits until every access and operation of the whole command has completed. -/
  | topFencet (tile : Fin 48) (th : Fin 32)
  /-- TOP_PUB (R112): TOP.PUB appends a publication entry to the command's publication buffer, checking its CRC. -/
  | topPub (tile : Fin 48) (th : Fin 32) (rs1 : Fin 32)
  /-- TOP_FADD (R110): TOP.FADD.S or TOP.FADD.BF performs a bank atomic add of FP32 or packed BF16 values. -/
  | topFadd (tile : Fin 48) (th : Fin 32) (form : FaddForm) (rd rs1 rs2 : Fin 32)
  /-- TOP_CRC16 (R100): TOP.CRC16 computes the CRC-16 of a range of the tile's own window. -/
  | topCrc16 (tile : Fin 48) (th : Fin 32) (rd rs1 rs2 : Fin 32)
  /-- TOP_END (R102): TOP.END ends the thread's part in the command. -/
  | topEnd (tile : Fin 48) (th : Fin 32)
  /-- CORE_MEMORY_ACCESS (R101): A core load, store or atomic, translated or local, is performed or deferred to commit. -/
  | coreMemoryAccess (tile : Fin 48) (th : Fin 32) (a : CoreAcc)
  /-- MM (R94): The MM operation multiplies A by a stationary B in the matrix engine, optionally accumulating. -/
  | mm (tile : Fin 48) (h : Nat)
  /-- VEW (R97): The VEW vector operation performs an elementwise add, sub, mul, fma, max, min or convert. -/
  | vew (tile : Fin 48) (h : Nat) (a : VewArgs)
  /-- VFN (R97): The VFN vector operation computes exp, reciprocal or rsqrt. -/
  | vfn (tile : Fin 48) (h : Nat) (a : VfnArgs)
  /-- VRED (R97): The VRED vector operation reduces each row by sum, max or argmax. -/
  | vred (tile : Fin 48) (h : Nat) (a : VredArgs)
  /-- SOFTMAX_ONLINE (R97): The SOFTMAX_ONLINE operation updates the running max and sum and rescales the accumulator. -/
  | softmaxOnline (tile : Fin 48) (h : Nat) (a : SoftmaxArgs)
  /-- NORM (R97): The NORM operation performs RMS or layer normalisation. -/
  | norm (tile : Fin 48) (h : Nat) (a : NormArgs)
  /-- QUANT_MX (R97): The QUANT_MX operation quantises rows into MX element and scale arrays. -/
  | quantMx (tile : Fin 48) (h : Nat) (a : QuantArgs)
  /-- SAMPLE (R98): The SAMPLE operation selects a token from a logit row under the sampling parameters. -/
  | sample (tile : Fin 48) (h : Nat) (a : SampleArgs)
  /-- ACCEPT (R99): The ACCEPT operation verifies a draft tree and returns the committed tokens and the accepted path. -/
  | accept (tile : Fin 48) (h : Nat) (a : AcceptArgs)
  /-- COMPARE (R97): The COMPARE operation counts the elements of two arrays that disagree under a BOUND. -/
  | compare (tile : Fin 48) (h : Nat) (a : CompareArgs)
  /-- ATTN_BIAS (R146): The ATTN_BIAS operation adds distance and ancestry biases to a score block. -/
  | attnBias (tile : Fin 48) (h : Nat)
  /-- OPERATION_COMPLETE (R105): An operation completes, releasing operations that depend on it and any thread waiting on it. -/
  | operationComplete (tile : Fin 48) (h : Nat)
  /-- COMMAND_START (R114): At the head of the queue, the tile checks the descriptor, zeroes the working region if needed, sets RES_LOCK and starts the threads. -/
  | commandStart (tile : Fin 48)
  /-- COMMAND_ENDED (R115): Every thread, operation and direct write of a command has completed, and it enters ENDED. -/
  | commandEnded (tile : Fin 48)
  /-- COMMIT (R116): When every member of a group is ENDED, the group commits: it copies its queues, checks them, writes the commit record, performs deferred operations and publishes. -/
  | commit (group : Fin 1024)
  /-- COMMAND_KILL (R117): A kill stops a running command, discards its results and releases the tile, counting its in-flight writes in the drain count. -/
  | commandKill (tag : Fin 1024)
  /-- COMMAND_FAIL (R117): A fault ends a command with FAILED and kills the rest of its group. -/
  | commandFail (tile : Fin 48) (status : Nat)
  /-- CMD_OVERRUN (R118): A command runs LIMIT_ACLK without reaching ENDED and fails with CMD_OVERRUN. -/
  | cmdOverrun (tile : Fin 48)
  /-- DRAIN_WRITE_COMPLETE (R117): A write of a killed run lands, and the tag's drain count falls by one. -/
  | drainWriteComplete (tag : Fin 1024)
  /-- TILE_CFG_WRITE (R120): A write to TILE_CFG.RES_MIB changes the resident size, or is ignored and sets CFG_REJECT. -/
  | tileCfgWrite (tile : Fin 48) (v : BitVec 32)
  /-- CMDCNT_CLR (R122): A write of TILE_CTRL.CMDCNT_CLR clears TILE_CMDCNT. -/
  | cmdcntClr (tile : Fin 48)
  /-- CONF_CLR (R122): A write of TILE_CTRL.CONF_CLR clears every BANK_CONF counter. -/
  | confClr (tile : Fin 48)
  /-- INV_ONE_ASID (R161): INV_CMD with SCOPE 0x0 invalidates every translation of one ASID. -/
  | invOneAsid (asid : BitVec 16)
  /-- INV_RANGE (R161): INV_CMD with SCOPE 0x1 invalidates a range of pages within one ASID. -/
  | invRange (asid : BitVec 16) (count : BitVec 16)
  /-- INV_ALL (R161): INV_CMD with SCOPE 0x2 invalidates the translations of every ASID. -/
  | invAll
  /-- INVALIDATION_DONE (R161): Every slice has dropped the named translations and earlier walks have finished, so INV_STATUS.DONE sets. -/
  | invalidationDone
  /-- ATU_CTRL_WRITE (R159): A write to ATU_CTRL.ENABLE turns translation on or off. -/
  | atuCtrlWrite (v : BitVec 32)
  /-- ATU_CTRL_CLR (R162): A write to ATU_CTRL_CLR clears ATU_CNT. -/
  | atuCtrlClr (slice : Fin 5)
  /-- CHANNEL_ENTER (R166): A BAU program at the head of its queue puts the channel into ENTERING, drains accepted accesses and enters PROCESSOR. -/
  | channelEnter (ch : Fin 128)
  /-- CHANNEL_EXIT (R167): After a program ends, the channel chains the next program or exits to MEMORY and serves its hold queue. -/
  | channelExit (ch : Fin 128)
  /-- HOLD_ACCESS (R169): An ordinary access arriving at a channel that is not in MEMORY is placed in the hold queue. -/
  | holdAccess (ch : Fin 128) (a : HeldAcc)
  /-- HOLD_WATCHDOG (R170): An access held for 100 µs is completed poisoned, and the channel's BAU is fenced. -/
  | holdWatchdog (ch : Fin 128)
  /-- BAU_OVERRUN (R171): A BAU program running 64 µs is stopped and fails with BAU_OVERRUN. -/
  | bauOverrun (ch : Fin 128)
  /-- ATTEND (R177): The BAU ATTEND operation scores query rows against each channel's page list and returns partial results. -/
  | attend (run : BauRun)
  /-- BAU_COPY (R182): The BAU COPY operation copies bytes within each channel of the mask. -/
  | bauCopy (run : BauRun)
  /-- BAU_QUANTISE (R182): The BAU QUANTISE operation converts elements within each channel to a narrower format. -/
  | bauQuantise (run : BauRun)
  /-- BAU_ZERO (R182): The BAU ZERO operation zeroes bytes within each channel of the mask. -/
  | bauZero (run : BauRun)
  /-- BAU_PROGRAM_STOP (R185): A kill, overrun or fence stops a BAU program without a return record, and the channel exits. -/
  | bauProgramStop (ch : Fin 128)
  /-- OWN_CMD_GO (R196): A write of OWN_CMD.GO writes OWN_VALUE to a range of owner-table entries once any running program ends. -/
  | ownCmdGo (ch : Fin 128)
  /-- OWN_WRITE_DONE (R196): An owner-table range write completes and sets OWN_STATUS.DONE. -/
  | ownWriteDone (ch : Fin 128)
  /-- BAU_UNFENCE (R189): A write of HBMC_BAU.UNFENCE clears a channel's BAU fence when the channel is in MEMORY. -/
  | bauUnfence (stack : Fin 8) (mask : BitVec 16)
  /-- HBMC_STAT_CLR (R190): A write of HBMC_CTRL.STAT_CLR clears HOLD_STAT and PROG_CNT. -/
  | hbmcStatClr (stack : Fin 8)
  /-- BAU_CNT_CLR (R196): A write of BAU_CTRL.CNT_CLR clears BAU_ACLK and BAU_ECC. -/
  | bauCntClr (ch : Fin 128)
  /-- HBMC_BAU_DISABLE_WRITE (R189): A write to HBMC_BAU.DISABLE enables or disables channels' BAUs. -/
  | hbmcBauDisableWrite (stack : Fin 8) (mask : BitVec 16)
  /-- FREE (R202): The tier manager unmaps a leaf, invalidates it, returns the plot and credits the quota. -/
  | tierFree (asid : BitVec 16) (vpn : Nat)
  /-- MOVE (R205): The tier manager marks a leaf MOVING, copies the plot to another tier, remaps the leaf and frees the source. -/
  | tierMove (asid : BitVec 16) (vpn : Nat) (tier : Tier)
  /-- MOVE_COPY_DONE (R205): The copy of a MOVE completes, so the leaf is remapped, or restored on failure, and the source is freed. -/
  | moveCopyDone (asid : BitVec 16) (vpn : Nat) (fin : CopyEnd)
  /-- PIN (R202): The tier manager copies weight plots into a tile's resident region while RES_LOCK is clear. -/
  | pin (tile : Fin 48) (slot : Nat) (off : Nat) (src : Nat)
  /-- LOCAL_PARK (R210): A park to the owner's T2 or T3 reserves room, copies the plots and commits when the last copy completes. -/
  | localPark (req : Nat)
  /-- PULL_PLACE (R211): A pull on resume places each plot in T1 or T2 and enters DECODE when all are placed. -/
  | pullPlace (req : Nat) (page : PulledPage)
  /-- DMA_TILE_TRANSFER (R217): A tile DMA operation copies or fills rows between a tile window and memory. -/
  | dmaTileTransfer (tile : Fin 48) (h : Nat)
  /-- DMA_RING_COPY (R218): A RING channel performs a COPY descriptor. -/
  | dmaRingCopy (eng : Fin 5) (ch : Fin 64)
  /-- DMA_RING_FILL (R218): A RING channel performs a FILL descriptor. -/
  | dmaRingFill (eng : Fin 5) (ch : Fin 64)
  /-- DMA_HALF_ENTRY (R219): When the first half of a transfer has completed, the half entry is posted. -/
  | dmaHalfEntry (eng : Fin 5) (ch : Fin 64)
  /-- DMA_TRANSFER_END (R219): A transfer ends and posts its full entry, raising an interrupt if asked. -/
  | dmaTransferEnd (eng : Fin 5) (ch : Fin 64)
  /-- DMA_SQ_TAIL_WRITE (R218): A write of CH_PTR.SQ_TAIL gives a RING channel new descriptors to fetch. -/
  | dmaSqTailWrite (eng : Fin 5) (ch : Fin 64) (v : BitVec 16)
  /-- DMA_CPL_HEAD_WRITE (R219): A write of CH_PTR.CPL_HEAD frees completion-ring room so the channel fetches again. -/
  | dmaCplHeadWrite (eng : Fin 5) (ch : Fin 64) (v : BitVec 16)
  /-- DMA_STOP (R231): A write of CH_CTRL.STOP ends the current transfer with ABORTED and halts the channel. -/
  | dmaStop (eng : Fin 5) (ch : Fin 64)
  /-- DMA_RESUME (R231): A write of CH_CTRL.RESUME moves a HALTED channel to IDLE. -/
  | dmaResume (eng : Fin 5) (ch : Fin 64)
  /-- DMA_CNT_CLR (R231): A write of CH_CTRL.CNT_CLR clears CH_STATUS.BURSTS. -/
  | dmaCntClr (eng : Fin 5) (ch : Fin 64)
  /-- LPDDR_READ_RETRY (R221): An uncorrectable link error on a T2 read is retried once, and a second failure returns poison. -/
  | lpddrReadRetry (pkg : Fin 16) (o : LinkOutcome)
  /-- ODECC_POLL (R221): Every 1 s, on-die ECC corrections are read from the packages' mode registers. -/
  | odeccPoll (pkg : Fin 16) (n : Nat)
  /-- LPC_CNT_CLR (R232): A write of LPC_CTRL.CNT_CLR clears LPC_ECC and LPC_ODECC. -/
  | lpcCntClr (pkg : Fin 16)
  /-- FTL_CNT_CLR (R233): A write of FTL_CTRL.CNT_CLR clears FTL_LDPC. -/
  | ftlCntClr
  /-- FTL_READ (R226): The flash translation layer reads a plot, decoding LDPC with retries and marking the handle LOST if uncorrectable. -/
  | ftlRead (handle : BitVec 28) (dst : Nat) (o : LdpcOutcome)
  /-- FTL_RELOCATION (R227): A block is relocated for wear, read disturb, refresh, bad block or reclaim, and the map is switched. -/
  | ftlRelocation (block : Nat) (why : RelocWhy)
  /-- COMPRESS (R243): The compressor codes plots into frames in two passes and writes their lengths. -/
  | compress (tile : Fin 48) (h : Nat)
  /-- DECOMPRESS (R245): The compressor checks frames and restores the requested blocks of each plot. -/
  | decompress (tile : Fin 48) (h : Nat)
  /-- RING_COMPRESS (R242): A RING descriptor of KIND 0x3 runs COMPRESS on a firmware DMA channel. -/
  | ringCompress (eng : Fin 5) (ch : Fin 64)
  /-- RING_DECOMPRESS (R242): A RING descriptor of KIND 0x4 runs DECOMPRESS on a firmware DMA channel. -/
  | ringDecompress (eng : Fin 5) (ch : Fin 64)
  /-- COMP_CNT_CLR (R264): A write of COMP_CTRL.CNT_CLR clears the compressor counters. -/
  | compCntClr (cd : Fin 4)
  /-- SIEVE_UNIQUE (R257): The Sieve UNIQUE operation sorts and de-duplicates an index array and writes the five arrays. -/
  | sieveUnique (tile : Fin 48) (h : Nat)
  /-- SIEVE_GATHER (R258): The Sieve GATHER operation fetches each unique table row once and fans it out to the output rows. -/
  | sieveGather (tile : Fin 48) (h : Nat)
  /-- SCATTER_ADD (R259): The Sieve SCATTER_ADD operation adds value rows into target rows with bank atomics. -/
  | scatterAdd (tile : Fin 48) (h : Nat)
  /-- SCATTER_WRITE (R260): The Sieve SCATTER_WRITE operation writes the last occurrence of each unique index's value row. -/
  | scatterWrite (tile : Fin 48) (h : Nat)
  /-- TABLE_OLD_FREE (R254): When the last command that pinned an old table version has ended and drained, its plots are freed. -/
  | tableOldFree (slot : Fin 16384) (version : BitVec 16)
  /-- SIEVE_CNT_CLR (R265): A write of SIEVE_CTRL.CNT_CLR clears SIEVE_CNT and SIEVE_REPL. -/
  | sieveCntClr (cd : Fin 4)
  /-- LINK_ENABLE (R273): A write of LINK_CFG.ENABLE starts link bring-up through training, INIT and HELLO; writing 0 takes the link DOWN. -/
  | linkEnable (lk : Fin 36) (on : Bool)
  /-- LINK_BRINGUP_RETRY (R273): A bring-up not complete within 250 ms retries from PMD training. -/
  | linkBringupRetry (lk : Fin 36)
  /-- LINK_INIT (R273): A LINK_CTRL INIT or INIT_SWITCH is received, resetting LSEQ and credits and bringing the link to LINK_UP. -/
  | linkInit (lk : Fin 36) (switch : Bool) (credit : BitVec 64)
  /-- LINK_PACKET_RECEIVE (R272): The link receives a sequenced packet and accepts it in order, or discards it and sends a NAK. -/
  | linkPacketReceive (lk : Fin 36) (p : Pkt) (fec : FecOutcome)
  /-- LINK_ACK (R272): A LINK_CTRL ACK releases acknowledged packets from the replay buffer and returns credits. -/
  | linkAck (lk : Fin 36) (seq : BitVec 12) (credit : BitVec 64)
  /-- LINK_NAK (R272): A LINK_CTRL NAK makes the sender send REPLAY_START and resend from the NAKed LSEQ. -/
  | linkNak (lk : Fin 36) (seq : BitVec 12) (credit : BitVec 64)
  /-- REPLAY_START (R272): A received REPLAY_START lets the receiver accept the replayed packets again. -/
  | replayStart (lk : Fin 36)
  /-- LINK_ACK_TIMER (R272): An ACK is sent after 64 accepted packets or 1 µs. -/
  | linkAckTimer (lk : Fin 36)
  /-- LINK_RETRAIN (R273): After eight NAKs or 100 µs without an ACK, the link retrains, keeping its replay buffer. -/
  | linkRetrain (lk : Fin 36)
  /-- LINK_RETRAIN_TIMEOUT (R272): A retrain that misses LINK_UP within 10 ms leaves the link FAILED and raises LINK_FAILED. -/
  | linkRetrainTimeout (lk : Fin 36)
  /-- LINK_CTRL_HELLO (R301): A write of LINK_CTRL.HELLO sends HELLO UPDATE on the link. -/
  | linkCtrlHello (lk : Fin 36)
  /-- LINK_CTRL_RETRAIN (R301): A write of LINK_CTRL.RETRAIN retrains the link. -/
  | linkCtrlRetrain (lk : Fin 36)
  /-- LINK_CNT_CLR (R301): A write of LINK_CTRL.CNT_CLR clears LINK_FEC and LINK_CNT. -/
  | linkCntClr (lk : Fin 36)
  /-- HELLO_REQUEST (R274): A HELLO REQUEST is received and answered with a REPLY carrying the local record. -/
  | helloRequest (lk : Fin 36) (src : BitVec 12) (r : BitVec 768)
  /-- HELLO_REPLY (R275): A HELLO REPLY is received and checked, making the peer ACTIVE or MANAGEMENT_ONLY. -/
  | helloReply (lk : Fin 36) (src : BitVec 12) (r : BitVec 768)
  /-- HELLO_UPDATE (R277): A HELLO UPDATE is received and the peer's state is re-judged. -/
  | helloUpdate (lk : Fin 36) (src : BitVec 12) (r : BitVec 768)
  /-- HELLO_TIMEOUT (R273): A HELLO unanswered for 10 ms is resent; after the third, the link becomes MANAGEMENT_ONLY or the peer UNREACHABLE. -/
  | helloTimeout (t : HelloTarget)
  /-- MGMT_MESSAGE (R270): A MGMT packet carrying a firmware-to-firmware message is received. -/
  | mgmtMessage (lk : Fin 36) (src : BitVec 12) (msg : List Byte) (crc : BitVec 32)
  /-- OWNER_CLAIM (R279): An OWNER_CLAIM meets a device's own claim, and the lower claim yields. -/
  | ownerClaim (src : BitVec 12) (reqId : BitVec 64) (tail : ClaimTail)
  /-- MSF_LOAD (R289): An MSF LOAD reads 8 bytes of a remote region. -/
  | msfLoad (ag : Agent) (addr : Nat)
  /-- MSF_STORE (R289): An MSF STORE writes 8 bytes of a remote region. -/
  | msfStore (ag : Agent) (addr : Nat) (v : BitVec 64)
  /-- MSF_ADD (R289): An MSF ADD performs a remote 64-bit add and returns the old value. -/
  | msfAdd (ag : Agent) (addr : Nat) (v : BitVec 64)
  /-- MSF_SWAP (R289): An MSF SWAP performs a remote swap and returns the old value. -/
  | msfSwap (ag : Agent) (addr : Nat) (v : BitVec 64)
  /-- MSF_CAS (R289): An MSF CAS performs a remote compare-and-swap. -/
  | msfCas (ag : Agent) (addr : Nat) (cmp new : BitVec 64)
  /-- READ_BURST (R289): An MSF READ_BURST reads up to 256 bytes of a remote region. -/
  | readBurst (ag : Agent) (addr : Nat) (len : Nat)
  /-- WRITE_BURST (R289): An MSF WRITE_BURST writes up to 256 bytes of a remote region. -/
  | writeBurst (ag : Agent) (addr : Nat) (len : Nat)
  /-- MSF_REQUEST_RECEIVE (R291): The receiving MSF checks a request and performs it, or refuses it with an RSTATUS. -/
  | msfRequestReceive (die : Fin 2) (p : Pkt) (poison : Bool)
  /-- MSF_RESPONSE_RECEIVE (R298): An MSF response is matched to its TXN slot, or discarded as late. -/
  | msfResponseReceive (die : Fin 2) (p : Pkt)
  /-- MSF_TIMEOUT (R292): An MSF request gets no response within TIMEOUT_US and completes with TIMEOUT. -/
  | msfTimeout (die : Fin 2) (slot : Fin 4096)
  /-- MSF_ABANDON (R299): A write to MSF_ABANDON completes every outstanding anchored request to a destination with ABANDONED. -/
  | msfAbandon (die : Fin 2) (dest : BitVec 12)
  /-- MSF_CFG_WRITE (R302): A write to MSF_CFG sets the MSF timeout, or is ignored when out of range. -/
  | msfCfgWrite (die : Fin 2) (v : BitVec 32)
  /-- MSF_CNT_CLR (R302): A write of MSF_CTRL.CNT_CLR clears MSF_CNT and MSF_REFUSED. -/
  | msfCntClr (die : Fin 2)
  /-- MSF_TBL_READ (R302): TBL_CMD with WRITE 0 reads a window, region, peer or local entry into TBL_DATA. -/
  | msfTblRead (die : Fin 2) (table : Fin 4) (idx : BitVec 14)
  /-- MSF_TBL_WRITE (R302): TBL_CMD with WRITE 1 writes TBL_DATA to a window, region, peer or local entry. -/
  | msfTblWrite (die : Fin 2) (table : Fin 4) (idx : BitVec 14)
  /-- CONN_ACTIVATE (R306): RAE_CONN_CMD ACTIVATE checks a connection's descriptor and moves it from RESET to READY. -/
  | connActivate (die : Fin 2) (conn : BitVec 20)
  /-- CONN_RESET (R306): RAE_CONN_CMD RESET flushes a connection and returns it to RESET. -/
  | connReset (die : Fin 2) (conn : BitVec 20)
  /-- CONN_FORCE_ERROR (R320): RAE_CONN_CMD FORCE_ERROR puts a connection in ERROR. -/
  | connForceError (die : Fin 2) (conn : BitVec 20)
  /-- CONN_ERROR (R320): A connection enters ERROR, stops, flushes its work with statuses and sends RQ_ERR. -/
  | connError (conn : BitVec 20) (status : Nat)
  /-- CONTEXT_FILL (R308): A packet or work entry for an uncached context loads its slot, spilling the least recently used context. -/
  | contextFill (die : Fin 2) (conn : BitVec 20)
  /-- SQ_TAIL_WRITE (R309): A write of SQ_PTR.TAIL posts work entries for the RAE to take. -/
  | sqTailWrite (die : Fin 2) (q : Fin 256) (v : BitVec 16)
  /-- WRITE (R310): A WRITE work entry sends local data to a remote region. -/
  | raeWrite (die : Fin 2) (q : Fin 256)
  /-- WRITE_IMM (R310): A WRITE_IMM work entry sends data and then delivers an immediate to the peer. -/
  | raeWriteImm (die : Fin 2) (q : Fin 256)
  /-- READ (R316): A READ work entry reads a remote region into local memory. -/
  | raeRead (die : Fin 2) (q : Fin 256)
  /-- NOTIFY (R310): A NOTIFY work entry delivers an immediate to the peer. -/
  | raeNotify (die : Fin 2) (q : Fin 256)
  /-- GRAFT_DATA (R324): A GRAFT_DATA work entry sends plots or journal pages for placement by sequence-range address. -/
  | graftData (die : Fin 2) (q : Fin 256)
  /-- GRAFT_FRAME (R326): A GRAFT_FRAME work entry sends one compressed frame to a landing slot. -/
  | graftFrame (die : Fin 2) (q : Fin 256)
  /-- CONTROL (R327): A CONTROL work entry sends a graft control record on the control connection. -/
  | control (die : Fin 2) (q : Fin 256)
  /-- RQ_WRITE_RECEIVE (R315): A data packet is checked and placed at its own address, and its message is completed when whole. -/
  | rqWriteReceive (p : Pkt)
  /-- RQ_READ_REQ_RECEIVE (R316): A READ request is checked, read and answered with RQ_READ_RESP packets. -/
  | rqReadReqReceive (p : Pkt) (poison : Bool)
  /-- RQ_READ_RESP_RECEIVE (R316): A read response packet is placed at the requester's local address. -/
  | rqReadRespReceive (p : Pkt)
  /-- RQ_ACK_RECEIVE (R316): An RQ_ACK advances the sender's window of complete messages and adjusts its congestion window. -/
  | rqAckReceive (p : Pkt)
  /-- RQ_ERR_RECEIVE (R320): An RQ_ERR puts the connection in ERROR with the refusal's status. -/
  | rqErrReceive (p : Pkt)
  /-- RQ_ACK_TIMER (R316): Once per microsecond, while packets have arrived since the last acknowledgement, an RQ_ACK is sent. -/
  | rqAckTimer (conn : BitVec 20)
  /-- GRAFT_DATA_RECEIVE (R324): A GRAFT_DATA packet is checked and placed in the destination request's range or journal. -/
  | graftDataReceive (p : Pkt)
  /-- GRAFT_FRAME_RECEIVE (R326): A GRAFT_FRAME packet lands in a slot, and the completed frame is decompressed or stored. -/
  | graftFrameReceive (p : Pkt)
  /-- RTO_EXPIRY (R317): An incomplete message's retransmission timeout expires; its holes are resent, or the connection enters ERROR with RETRY_EXCEEDED. -/
  | rtoExpiry (conn : BitVec 20) (msn : BitVec 16)
  /-- PATH_LOSS_RESEND (R317): When a link leaves ACTIVE, its unplaced packets are resent at once on the remaining links. -/
  | pathLossResend (lk : Fin 36)
  /-- RAE_REVOKE (R321): A write of RAE_REVOKE advances KEY_EPOCH and makes a region REVOKING on both link dies. -/
  | raeRevoke (die : Fin 2) (region : BitVec 14)
  /-- REVOKE_DONE (R321): A revoked region's validated writes drain, so it becomes FREE and DONE sets. -/
  | revokeDone
  /-- RAE_CNT_CLR (R334): A write of RAE_CTRL.CNT_CLR clears the RAE counters. -/
  | raeCntClr (die : Fin 2)
  /-- OPEN (R328): A graft OPEN record is received; the receiver checks it and reserves entry, journal, ring and plots. -/
  | openRec (src : BitVec 12) (mapEpoch : BitVec 16) (r : GRec)
  /-- OPEN_ACK (R328): An OPEN_ACK is received, letting the sender start the graft or try the next destination. -/
  | openAck (src : BitVec 12) (mapEpoch : BitVec 16) (r : GRec)
  /-- GRAFT_COMMIT (R30): A graft COMMIT record is received; the receiver sets the valid lengths and acknowledges. -/
  | graftCommit (src : BitVec 12) (mapEpoch : BitVec 16) (r : GRec)
  /-- COMMIT_ACK (R30): A COMMIT_ACK is received; the receiver becomes owner or holder, and the sender frees its copy. -/
  | commitAck (src : BitVec 12) (mapEpoch : BitVec 16) (r : GRec)
  /-- ABORT (R328): An ABORT record is received; the receiver frees its reservation and placed plots. -/
  | abortRec (src : BitVec 12) (mapEpoch : BitVec 16) (r : GRec)
  /-- PULL (R328): A PULL record asks the holder to send every parked frame to the owner. -/
  | pull (src : BitVec 12) (mapEpoch : BitVec 16) (r : GRec)
  /-- PULL_DONE (R328): A PULL_DONE record reports every frame sent, or EXPIRED. -/
  | pullDone (src : BitVec 12) (mapEpoch : BitVec 16) (r : GRec)
  /-- PULL_DONE_ACK (R328): A PULL_DONE_ACK record lets the holder free the parked plots. -/
  | pullDoneAck (src : BitVec 12) (mapEpoch : BitVec 16) (r : GRec)
  /-- RELEASE (R328): A RELEASE record makes the holder free a parked request. -/
  | releaseRec (src : BitVec 12) (mapEpoch : BitVec 16) (r : GRec)
  /-- EXPIRED (R40): An expiry notice moves the owner's request to EXPIRED. -/
  | expiredRec (src : BitVec 12) (mapEpoch : BitVec 16) (r : GRec)
  /-- GRAFT_CNT_CLR (R335): A write of GRAFT_CTRL.CNT_CLR clears GRAFT_CNT and GRAFT_BYTES. -/
  | graftCntClr
  /-- EGRESS_SELECT (R339): At a packet boundary, the link sends Q0, a replay, Q1 or the weighted pick. -/
  | egressSelect (lk : Fin 36)
  /-- GATE_ARM (R347): A write of GATE_CFG.ARM checks the administrative list and sets PENDING, or rejects it. -/
  | gateArm (lk : Fin 36)
  /-- GATE_DISARM (R349): A write of GATE_CFG.DISARM clears PENDING without a takeover. -/
  | gateDisarm (lk : Fin 36)
  /-- GATE_TAKEOVER (R348): A pending list takes over at its TIME or SYNC moment, swapping banks. -/
  | gateTakeover (lk : Fin 36)
  /-- GATE_INTERVAL (R345): A gate entry's interval ends and the next one starts, changing gate states. -/
  | gateInterval (lk : Fin 36)
  /-- EGR_TBL_READ (R357): EGR_TBL_CMD with WRITE 0 reads a policer, tenant map or gate entry, or policer statistics. -/
  | egrTblRead (die : Fin 2) (table : Fin 4) (idx : BitVec 16)
  /-- EGR_TBL_WRITE (R357): EGR_TBL_CMD with WRITE 1 writes a policer, tenant map or gate entry, or clears statistics. -/
  | egrTblWrite (die : Fin 2) (table : Fin 4) (idx : BitVec 16)
  /-- EGR_CNT_CLR (R357): A write of EGR_CTRL.CNT_CLR clears EGR_LCNT of every link. -/
  | egrCntClr (die : Fin 2)
  /-- DOORBELL (R362): A doorbell write moves a ring's submission TAIL or consumer HEAD, or halts or ignores it. -/
  | doorbell (ld : Fin 16) (v : BitVec 64)
  /-- RING_ENTRY_TAKE (R364): The ring engine takes a submission entry, checks it and applies its operation. -/
  | ringEntryTake (ring : Nat) (host : Option (BitVec 1024))
  /-- RING_LOAD (R397): RING_CMD LOAD rereads a ring descriptor into the ring engine. -/
  | ringLoad (ring : BitVec 18)
  /-- RING_CMD_RESUME (R397): RING_CMD RESUME moves a HALTED ring to ACTIVE. -/
  | ringCmdResume (ring : BitVec 18)
  /-- RING_DISABLE (R397): RING_CMD DISABLE stops a ring taking entries. -/
  | ringDisable (ring : BitVec 18)
  /-- RING_CNT_CLR (R397): A write of RING_CTRL.CNT_CLR clears RING_CNT and RING_CNT2. -/
  | ringCntClr
  /-- KILL_CMD (R388): A write of KILL_CMD kills the group holding a tag and records its plan position for re-run. -/
  | killCmd (tag : Fin 1024)
  /-- RERUN_DELIVERY (R388): A killed group is re-delivered once its drain count is zero and tiles are available. -/
  | rerunDelivery (group : Fin 1024) (tiles : List (Fin 48))
  /-- REQ_CNT_CLR (R396): A write of REQ_CTRL.CNT_CLR clears REQ_CNT, CMD_CNT and DEADLINE_CNT. -/
  | reqCntClr
  /-- TAG_DRAIN_WRITE (R396): A write of TAG_DRAIN.TAG selects the tag whose drain count is shown. -/
  | tagDrainWrite (tag : Fin 1024)
  /-- TILE_COMPLETION (R379): A tile command completion reaches firmware and is matched by tag to its step and group. -/
  | tileCompletion (tag : Fin 1024)
  /-- STEP_BOUNDARY (R381): Firmware composes the next step: it commits configuration, moves tiles, applies state changes, checks deadlines, selects work, sizes chunks, allocates and delivers. -/
  | stepBoundary
  /-- STEP_END (R380): Every command of a step has committed or failed, so the step ends and frees room for composition. -/
  | stepEnd (step : Nat)
  /-- SLOWDOWN_PERIOD (R394): Every 100 ms, each tenant's slow-down ratio is judged and SLOWDOWN or SLOWDOWN_CLEAR is posted. -/
  | slowdownPeriod
  /-- ACCT_REWRITE (R393): Firmware rewrites each active tenant's accounting record at least every 10 ms. -/
  | acctRewrite (tenant : BitVec 16)
  /-- MB_GO (R418): A write of MB_CTRL.GO submits a mailbox message, or is rejected. -/
  | mbGo (mb : MbId)
  /-- MESSAGE_TAKE (R421): Firmware takes a waiting message between step boundaries and runs the common checks. -/
  | messageTake
  /-- RMP_IDENTIFY (R423): RMP_IDENTIFY returns the device's identity and state. -/
  | rmpIdentify (mb : MbId)
  /-- RMP_CFG_STAGE (R433): RMP_CFG_STAGE checks a configuration image and holds it as the staged version. -/
  | rmpCfgStage (mb : MbId)
  /-- RMP_CFG_COMMIT (R434): RMP_CFG_COMMIT sets the commit condition of the staged version. -/
  | rmpCfgCommit (mb : MbId)
  /-- RMP_CFG_DISCARD (R422): RMP_CFG_DISCARD drops the staged version and sends HELLO UPDATE. -/
  | rmpCfgDiscard (mb : MbId)
  /-- RMP_CFG_READ (R423): RMP_CFG_READ copies part of the current or staged image to the window. -/
  | rmpCfgRead (mb : MbId)
  /-- IDLE_BOUNDARY (R434): While no step is in flight, each LTU millisecond counts as a step boundary for commit conditions. -/
  | idleBoundary
  /-- RMP_MAP_SET (R411): RMP_MAP_SET adopts a new composition map, unbinding and rebinding LDs and dispositioning affected requests. -/
  | rmpMapSet (mb : MbId)
  /-- RMP_MAP_GET (R422): RMP_MAP_GET returns the current map and the old epoch. -/
  | rmpMapGet (mb : MbId)
  /-- RMP_RING_CREATE (R422): RMP_RING_CREATE creates an ACTIVE ring of this LD. -/
  | rmpRingCreate (mb : MbId)
  /-- RMP_RING_DESTROY (R422): RMP_RING_DESTROY stops a ring and frees it once its writes or taken operations are done. -/
  | rmpRingDestroy (mb : MbId)
  /-- SUBMISSION_RING_FREED (R422): A destroyed submission ring becomes FREE once every operation taken from it has posted its completion. -/
  | submissionRingFreed (ring : BitVec 18)
  /-- RMP_RING_RESUME (R423): RMP_RING_RESUME moves a ring from HALTED to ACTIVE, optionally moving HEAD. -/
  | rmpRingResume (mb : MbId)
  /-- RMP_RING_QUERY (R422): RMP_RING_QUERY returns a copy of a ring descriptor. -/
  | rmpRingQuery (mb : MbId)
  /-- RMP_TOKEN_FETCH (R439): RMP_TOKEN_FETCH copies token IDs from a request's journal to the window. -/
  | rmpTokenFetch (mb : MbId)
  /-- RMP_MODEL_LOAD (R427): RMP_MODEL_LOAD replies, then firmware loads and checks a Usian object into a slot. -/
  | rmpModelLoad (mb : MbId)
  /-- MODEL_LOADED (R427): A model load ends, the slot becomes LOADED or returns to EMPTY, and MODEL_LOADED is posted. -/
  | modelLoaded (slot : Fin 16384)
  /-- RMP_MODEL_UNLOAD (R422): RMP_MODEL_UNLOAD puts a LOADED slot into UNLOADING. -/
  | rmpModelUnload (mb : MbId)
  /-- MODEL_UNLOADED (R422): When no command uses an unloading slot, its plots are freed and MODEL_UNLOADED is posted. -/
  | modelUnloaded (slot : Fin 16384)
  /-- RMP_ACCT_READ (R422): RMP_ACCT_READ returns the last rewrite of a tenant's accounting record. -/
  | rmpAcctRead (mb : MbId)
  /-- RMP_REQ_QUERY (R422): RMP_REQ_QUERY returns a copy of a request table entry. -/
  | rmpReqQuery (mb : MbId)
  /-- RMP_REG_READ (R422): RMP_REG_READ relays register reads for the host. -/
  | rmpRegRead (mb : MbId)
  /-- FUNCTION_LEVEL_RESET (R407): A Function Level Reset stops an LD's ring intake, frees its rings, abandons its messages and moves its requests. -/
  | functionLevelReset (ld : Fin 16)
  /-- GET_LD_INFO (R408): The Fabric Manager command Get LD Info returns logical-device information. -/
  | getLdInfo
  /-- GET_LD_ALLOCATIONS (R408): The Fabric Manager command Get LD Allocations returns the LDs' window ranges. -/
  | getLdAllocations
  /-- SET_LD_ALLOCATIONS (R408): The Fabric Manager command Set LD Allocations assigns window ranges, refused while a decoder is committed. -/
  | setLdAllocations (first : Fin 16) (ranges : List (Nat × Nat))
  /-- FM_QOS_COMMAND (R408): A Fabric Manager QoS command controls or reports LD bandwidth and limits. -/
  | fmQosCommand (c : QosCmd)
  /-- FM_VENDOR_RMP (R408): The vendor-specific Fabric Manager command carries one RMP message to the fabric mailbox and returns its reply. -/
  | fmVendorRmp (msg : List Byte)
  /-- CXL_CNT_CLR (R442): A write of CXL_CTRL.CNT_CLR clears CXL_CNT. -/
  | cxlCntClr
  /-- FCL_LATCH (R445): A newly asserted error pair is latched, counted and marked pending, and a reaction starts. -/
  | fclLatch (ext : List (Fin 1024))
  /-- BROKEN_PAIR (R446): A pair read equal at four samples is declared broken, counted once and then ignored. -/
  | brokenPair (src : Fin 1024)
  /-- REACTION_END (R450): A reaction window ends and sampling resumes. -/
  | reactionEnd
  /-- FCL_KICK (R457): A write of 0xA5 to FCL_KICK.KEY kicks the alive timer; other values count as bad kicks. -/
  | fclKick (key : BitVec 8)
  /-- KICK_LAPSE (R458): 10 ms without a kick latches KICK_LAPSE and halts the device. -/
  | kickLapse
  /-- BEAT_TOGGLE (R457): Every 50 µs, while kicks are recent and no DEVICE source is latched, BEAT changes level. -/
  | beatToggle
  /-- FCL_FENCE (R453): FCL_FENCE_CMD with OP FENCE fences a tile, die, link, BAU or ONFI channel. -/
  | fclFence (kind : BitVec 3) (idx : BitVec 8)
  /-- FCL_UNFENCE (R453): FCL_FENCE_CMD with OP UNFENCE unfences a unit, starting qualification for a tile. -/
  | fclUnfence (kind : BitVec 3) (idx : BitVec 8)
  /-- FCL_INJECT_NOW (R460): FCL_INJECT with MODE NOW asserts a source's pair for WIDTH PCLK. -/
  | fclInjectNow (src : Fin 1024) (width : BitVec 16)
  /-- FCL_INJECT_SYNC (R460): FCL_INJECT with MODE SYNC asserts a source's pair from the next SYNC_IN edge. -/
  | fclInjectSync (src : Fin 1024) (width : BitVec 16)
  /-- FCL_INJECT_WIRE (R460): FCL_INJECT with MODE WIRE drives a source's pair equal until reset. -/
  | fclInjectWire (src : Fin 1024)
  /-- FCL_STICKY_CLEAR (R452): A W1C write to FCL_STICKY clears sticky bits, which are set again while their pair stays asserted. -/
  | fclStickyClear (w : Fin 16) (mask : BitVec 64)
  /-- FCL_CNT_CLR (R474): A write of FCL_CTRL.CNT_CLR clears every FCL_CNT. -/
  | fclCntClr
  /-- GROUP_REPLAY (R462): After a fence, firmware re-runs every dispatched, uncommitted group that names a fenced tile. -/
  | groupReplay (group : Fin 1024)
  /-- QUALIFICATION_COMPARE (R464): A shadow result is compared with its reference, passing the tile after RUNS agreements or fencing it again. -/
  | qualificationCompare (tile : Fin 48) (disagree : Nat)
  /-- RMP_FAULT_READ (R473): RMP_FAULT_READ returns the sticky, wire and counter state of the FCL. -/
  | rmpFaultRead (mb : MbId)
  /-- RMP_FAULT_CLEAR (R473): RMP_FAULT_CLEAR clears the masked sticky bits. -/
  | rmpFaultClear (mb : MbId)
  /-- RMP_UNIT_FENCE_FENCE (R473): RMP_UNIT_FENCE with OP FENCE fences a unit. -/
  | rmpUnitFenceFence (mb : MbId)
  /-- RMP_UNIT_FENCE_UNFENCE (R473): RMP_UNIT_FENCE with OP UNFENCE unfences a unit, qualifying tiles. -/
  | rmpUnitFenceUnfence (mb : MbId)
  /-- RMP_UNIT_FENCE_QUALIFY (R464): RMP_UNIT_FENCE with OP QUALIFY fences and qualifies the named tiles and reports the outcome. -/
  | rmpUnitFenceQualify (mb : MbId)
  /-- RMP_CKPT_TAKE (R465): RMP_CKPT_TAKE writes a checkpoint image taken at the next step boundary. -/
  | rmpCkptTake (mb : MbId)
  /-- RMP_CKPT_RESTORE (R468): RMP_CKPT_RESTORE restores requests from an image and appendix for re-prefill. -/
  | rmpCkptRestore (mb : MbId)
  /-- RMP_PARTNER_LOAD (R469): RMP_PARTNER_LOAD pulls model slots from a partner that holds them LOADED. -/
  | rmpPartnerLoad (mb : MbId) (o : PartnerOffer)
  /-- RMP_INJECT (R473): RMP_INJECT writes FCL_INJECT on the host's behalf. -/
  | rmpInject (mb : MbId)
  /-- FEED_WINDOW_CLOSE (R479): Every 100 µs, the feed concentrator closes a window and sends its entries as frames. -/
  | feedWindowClose
  /-- FEED_FRAME_RECEIVE (R480): The Cloche checks a feed frame and adds its records to the counters, or counts it lost. -/
  | feedFrameReceive (frame : List Byte) (energy : List Nat) (elapsedNs : Nat)
  /-- FEED_DOWN (R483): No LAST frame for 1 ms puts the feed down and sends energy to the unattributed bucket. -/
  | feedDown (energy : List Nat)
  /-- RECORD_SIGN (R485): Every 60 s, the Cloche snapshots its counters and signs a record. -/
  | recordSign
  /-- CLOCHE_RESTART (R487): The Cloche restarts on supply return, CL_RESET_N or firmware activation, restoring counters from the latest snapshot. -/
  | clocheRestart (why : RestartWhy)
  /-- SEAL_BROKEN (R491): The Cloche's seal loop opens, SEAL_BROKEN is logged and flagged in later records. -/
  | sealBroken
  /-- CL_IDENTIFY (R492): The Cloche IDENTIFY command returns its identity, firmware, counts and public key. -/
  | clIdentify
  /-- CERT_READ (R492): CERT_READ returns bytes of the Cloche's certificate chain. -/
  | certRead (off : BitVec 32) (len : BitVec 16)
  /-- RECORD_READ (R492): RECORD_READ returns a signed record. -/
  | recordRead (no : BitVec 64)
  /-- SNAPSHOT_READ (R486): SNAPSHOT_READ returns counter sets of a named record's snapshot, or GONE. -/
  | snapshotRead (no : BitVec 64) (first count : BitVec 16)
  /-- LIVE_READ (R492): LIVE_READ returns a tenant's live, unsigned counter set. -/
  | liveRead (tenant : BitVec 16)
  /-- LOG_READ (R492): LOG_READ returns an audit entry. -/
  | logRead (seq : BitVec 16)
  /-- NONCE_GET (R492): NONCE_GET issues a nonce good for the next signed command. -/
  | nonceGet
  /-- PARAM_SET (R488): The signed PARAM_SET command changes a calibration parameter and logs it. -/
  | paramSet (c : BitVec 2080)
  /-- LABEL_SET (R488): The signed LABEL_SET command sets a tenant's label and logs it. -/
  | labelSet (c : BitVec 2080)
  /-- KEY_SET (R488): The signed KEY_SET command replaces the operator key and logs it. -/
  | keySet (c : BitVec 2080)
  /-- ARCHIVE (R489): The signed ARCHIVE command begins a new audit-log generation. -/
  | archive (c : BitVec 2080)
  /-- RESEAL (R491): The signed RESEAL command clears SEAL_BROKEN while the loop reads closed. -/
  | reseal (c : BitVec 2080) (loopClosed : Bool)
  /-- FW_CHUNK (R490): FW_CHUNK loads part of a new Cloche firmware image into the inactive half. -/
  | fwChunk (off : BitVec 32) (data : List Byte)
  /-- FW_COMMIT (R490): The signed FW_COMMIT checks the image, advances METRO_FW_COUNT, logs, signs a record and restarts into it. -/
  | fwCommit (c : BitVec 2080)
  /-- GET_VERSION (R499): The SPDM responder answers GET_VERSION. -/
  | getVersion (ld : Fin 17)
  /-- GET_CAPABILITIES (R499): The SPDM responder answers GET_CAPABILITIES. -/
  | getCapabilities (ld : Fin 17)
  /-- NEGOTIATE_ALGORITHMS (R499): The SPDM responder answers NEGOTIATE_ALGORITHMS. -/
  | negotiateAlgorithms (ld : Fin 17) (a : SpdmAlgs)
  /-- GET_DIGESTS (R499): The SPDM responder answers GET_DIGESTS. -/
  | getDigests (ld : Fin 17)
  /-- GET_CERTIFICATE (R499): The SPDM responder returns its certificate chain. -/
  | getCertificate (ld : Fin 17) (slot : Nat) (off len : Nat)
  /-- CHALLENGE (R499): The SPDM responder answers CHALLENGE, signing with the alias key. -/
  | challenge (ld : Fin 17) (slot : Nat) (nonce : BitVec 256)
  /-- GET_MEASUREMENTS (R499): The SPDM responder returns the measurement registers and configuration digest. -/
  | getMeasurements (ld : Fin 17) (index : Nat) (signed : Bool) (nonce : BitVec 256)
  /-- KEY_EXCHANGE (R499): The SPDM responder runs KEY_EXCHANGE to open a session. -/
  | keyExchange (ld : Fin 17) (slot : Nat) (sid : BitVec 16) (share : BitVec 768)
  /-- FINISH (R499): The SPDM responder completes session establishment on FINISH. -/
  | finish (ld : Fin 17) (sid : BitVec 32) (verify : BitVec 512)
  /-- HEARTBEAT (R499): The SPDM responder answers HEARTBEAT within a session. -/
  | heartbeat (ld : Fin 17) (sid : BitVec 32)
  /-- KEY_UPDATE (R499): The SPDM responder updates session keys. -/
  | keyUpdate (ld : Fin 17) (sid : BitVec 32)
  /-- END_SESSION (R499): The SPDM responder ends a session. -/
  | endSession (ld : Fin 17) (sid : BitVec 32)
  /-- IDE_KM_QUERY (R500): IDE_KM QUERY reports the port's IDE stream. -/
  | ideKmQuery (ld : Fin 17) (sid : BitVec 32)
  /-- KEY_PROG (R500): IDE_KM KEY_PROG programs an IDE key set. -/
  | keyProg (ld : Fin 17) (sid : BitVec 32) (sub : Fin 8) (set : Fin 2) (key : BitVec 256)
  /-- K_SET_GO (R500): IDE_KM K_SET_GO activates a programmed key set. -/
  | kSetGo (ld : Fin 17) (sid : BitVec 32) (sub : Fin 8) (set : Fin 2)
  /-- K_SET_STOP (R500): IDE_KM K_SET_STOP stops a key set. -/
  | kSetStop (ld : Fin 17) (sid : BitVec 32) (sub : Fin 8) (set : Fin 2)
  /-- TAMPER_TRIP (R503): A tamper sensor trips, wiping secure SRAM and halting the device. -/
  | tamperTrip (src : Fin 5)
  /-- SEC_WIPE_WRITE (R507): A write of 0x5A to SEC_WIPE starts a wipe without halting. -/
  | secWipeWrite (key : BitVec 8)
  /-- RMP_SEC_QUERY (R505): RMP_SEC_QUERY returns the life cycle, slot, SVNs, nonce and measurements. -/
  | rmpSecQuery (mb : MbId)
  /-- RMP_FW_STAGE (R505): RMP_FW_STAGE verifies a firmware image and writes it to the inactive slot. -/
  | rmpFwStage (mb : MbId)
  /-- RMP_FW_ACTIVATE (R505): RMP_FW_ACTIVATE rewrites the boot-select block to take effect at the next reset. -/
  | rmpFwActivate (mb : MbId)
  /-- RMP_ROLLBACK_ADVANCE (R505): RMP_ROLLBACK_ADVANCE raises a stage's OTP rollback counter to the running SVN. -/
  | rmpRollbackAdvance (mb : MbId)
  /-- RMP_LC_TRANSITION (R502): RMP_LC_TRANSITION programs a life-cycle word, wipes secure SRAM and resets the device. -/
  | rmpLcTransition (mb : MbId)
  /-- JTAG_LC_TRANSITION (R502): A life-cycle transition requested over JTAG programs the fuse word and resets the device. -/
  | jtagLcTransition (target : BitVec 8) (token : BitVec 1536)
  /-- POWER_REPORT (R511): Every 10 µs the converters report input power, and the clamp is applied when the 100 µs average exceeds 2,400 W. -/
  | powerReport (mw100us mw1ms mw1s : Nat)
  /-- VIN_RANGE (R509): The input enters or leaves 44–48 V or 60–64 V, raising VIN_RANGE and applying or keeping the clamp. -/
  | vinRange (mv : Nat)
  /-- CLAMP_CLR (R511): A write of PWR_CLAMP.CLAMP_CLR releases the clamp when power is below PCAP and no other cause is present. -/
  | clampClr
  /-- PWR_CAP_WRITE (R532): A write to PWR_CAP sets PCAP, or is ignored when out of range. -/
  | pwrCapWrite (v : BitVec 32)
  /-- TILE_PWR_REQ (R513): A write of TILE_PWR.REQ moves an idle tile to RUN, IDLE, RETAIN or OFF. -/
  | tilePwrReq (tile : Fin 48) (req : BitVec 3)
  /-- TILE_WAKE (R513): A command delivered to a tile in RETAIN or OFF wakes it and starts after the exit time. -/
  | tileWake (tile : Fin 48)
  /-- TILE_DIV_WRITE (R512): A write to TILE_DIV changes FW_DIV or AGE_DIV, taking effect within 64 ACLK. -/
  | tileDivWrite (tile : Fin 48) (v : BitVec 32)
  /-- TILE_VSET_WRITE (R534): A write to TILE_VSET sets the tile's planned voltage, which slews to the new value. -/
  | tileVsetWrite (tile : Fin 48) (v : BitVec 32)
  /-- COMPARATOR_FIRE (R517): An LTU comparator fires, performs its action and re-arms or disarms. -/
  | comparatorFire (k : Fin 64)
  /-- LTU_BOOT_WRITE (R516): The first write to LTU_BOOT after reset sets the boot count; later writes are ignored. -/
  | ltuBootWrite (v : BitVec 16)
  /-- STAGE_SPLIT_WRITE (R520): The first write to STAGE_SPLIT divides the staging SRAM between compressors and DMA. -/
  | stageSplitWrite (v : BitVec 32)
  /-- THERMAL_SAMPLE (R523): A die temperature crosses WARN, THROTTLE or TRIP, latching the level and acting on it. -/
  | thermalSample (site : Fin 32) (temp : Int)
  /-- PDM_SWEEP (R525): A write of PDM_CTRL.SWEEP measures every path-delay monitor of an idle tile at nine voltages. -/
  | pdmSweep (tile : Fin 48)
  /-- SWEEP_DONE (R526): A sweep ends and firmware plans the tile's voltage and divider, fencing it when no point exists. -/
  | sweepDone (tile : Fin 48) (delays : List (List Nat))
  /-- AGE_SCHEDULER (R525): The ageing comparator schedules sweeps, leaving a tile out of a step if no window has arisen for 23 h. -/
  | ageScheduler
  /-- INSITU_SLACK_CHECK (R527): Every 1 ms each PDM checks slack in place, latching AGE_ALARM below 20 ps. -/
  | insituSlackCheck (tile : Fin 48) (slack : List Int)
  /-- RMP_POWER_QUERY (R531): RMP_POWER_QUERY returns power, cap, clamp cause and temperatures. -/
  | rmpPowerQuery (mb : MbId)
  /-- RMP_POWER_CAP (R531): RMP_POWER_CAP sets PCAP. -/
  | rmpPowerCap (mb : MbId)
  /-- RMP_TIMER_ALLOC (R518): RMP_TIMER_ALLOC grants a free comparator to the LD. -/
  | rmpTimerAlloc (mb : MbId)
  /-- RMP_TIMER_FREE (R531): RMP_TIMER_FREE frees one of the LD's comparators. -/
  | rmpTimerFree (mb : MbId)
  /-- RMP_AGE_REPORT (R531): RMP_AGE_REPORT returns each tile's operating point and margin. -/
  | rmpAgeReport (mb : MbId)
  /-- RMP_BOOT_PARAM_SET (R520): RMP_BOOT_PARAM_SET changes COMP_UNITS for the next boot. -/
  | rmpBootParamSet (mb : MbId)
  /-- SYNC_IN_EDGE (R519): A rising edge of SYNC_IN triggers a SYNC gate takeover, or a fault injection in FACTORY. -/
  | syncInEdge
  /-- POWER_UP (R541): VIN56 rises; the converters start, rails regulate and PWR_GOOD is released. -/
  | powerUp
  /-- RAIL_FAULT (R542): A die rail leaves regulation, so PWR_GOOD falls and the device holds itself in reset. -/
  | railFault (beyond15 : Bool)
  /-- RESET_N_ASSERT (R543): RESET_N low resets the device except the Cloche, OTP, SEC_TAMPER, SBW and sideband bridge. -/
  | resetNAssert
  /-- STARTUP (R546): Release of RESET_N runs start-up from the ROM through training and verification to READY. -/
  | startup (inp : StartupIn)
  /-- PERST_N (R544): PERST_N resets the CXL port and gives every LD the effects of a Function Level Reset. -/
  | perstN
  /-- POWER_DOWN (R545): VIN56 falls, after RESET_N if the order is kept, or with a TAMPER_VOLT trip otherwise. -/
  | powerDown (ordered : Bool)
  /-- REC_GO (R549): A write of REC_GO makes the recovery ROM check and start a first-stage image from BAR4–5. -/
  | recGo (len : BitVec 32)
  /-- SB_STATUS (R550): The sideband SB_STATUS command returns status, clears COLLIDE and BAD_CMD and releases SBW_BUSY_N. -/
  | sbStatus
  /-- SB_READ (R550): The sideband SB_READ command reads SBW bytes. -/
  | sbRead (off : BitVec 24) (len : BitVec 16) (ov : Option SbOverlap)
  /-- SB_WRITE (R550): The sideband SB_WRITE command writes SBW bytes, except the protected records. -/
  | sbWrite (off : BitVec 24) (data : List Byte) (ov : Option SbOverlap)
  /-- SB_IDENT (R550): The sideband SB_IDENT command returns the UID, life cycle and phase. -/
  | sbIdent
  /-- SBW_CNT_CLR (R558): A write of SBW_CTRL.CNT_CLR clears SBW_CNT. -/
  | sbwCntClr
  /-- BOOT_PROGRESS_WRITE (R547): A write of BOOT_PROGRESS records a start-up phase and error in the progress record. -/
  | bootProgressWrite (v : BitVec 32)
  /-- BYPASS (R553): The JTAG BYPASS instruction selects the bypass register. -/
  | bypass
  /-- IDCODE (R553): The JTAG IDCODE instruction selects the device identification register. -/
  | idcode
  /-- SAMPLE_PRELOAD (R553): The JTAG SAMPLE/PRELOAD instruction samples and preloads the boundary cells. -/
  | samplePreload (pins preload : List Bool)
  /-- EXTEST (R554): The JTAG EXTEST instruction drives boundary cells while RESET_N is low, or selects BYPASS otherwise. -/
  | extest (pins : List Bool)
  /-- CLAMP (R554): The JTAG CLAMP instruction holds outputs from the boundary register while RESET_N is low. -/
  | clamp
  /-- HIGHZ (R554): The JTAG HIGHZ instruction floats outputs while RESET_N is low. -/
  | highz
  /-- EXTEST_PULSE (R553): The IEEE 1149.6 EXTEST_PULSE instruction tests AC-coupled lanes. -/
  | extestPulse (pins : List Bool)
  /-- EXTEST_TRAIN (R553): The IEEE 1149.6 EXTEST_TRAIN instruction tests AC-coupled lanes with a pulse train. -/
  | extestTrain (pins : List Bool)
  /-- DBG_DTMCS (R555): The DBG_DTMCS instruction selects the debug transport's DTMCS register, or BYPASS in locked states. -/
  | dbgDtmcs
  /-- DBG_DMI (R555): The DBG_DMI instruction reaches the debug module for halt, resume, register and system-bus access. -/
  | dbgDmi (op : DmiOp)
  /-- LINK_RETRAIN_DONE (R273): A retrain of a link that was up finishes PMD training and lane alignment, and the link returns to LINK_UP and replays its buffer. -/
  | linkRetrainDone (lk : Fin 36)
  /-- PORT_RETRAIN_DONE (R83): Training of a Trellis port's left-out modules ends, restoring modules and clearing DEGRADED, or restoring none, and hardware clears RETRAIN. -/
  | portRetrainDone (site : Fin 7) (port : Fin 4) (restored : Nat)
  /-- TXN_SLOT_REISSUE (R298): A TXN slot retired by MSF timeout becomes free for reissue once another TIMEOUT_US has passed. -/
  | txnSlotReissue (die : Fin 2) (slot : Fin 4096)
  /-- RING_COALESCE_TIMER (R440): COALESCE_US after a ring's previous interrupt, entries written since then and not yet announced raise the ring's MSI-X vector. -/
  | ringCoalesceTimer (ring : BitVec 18)
  /-- CQ_HEAD_WRITE (R313): A write of CQ_PTR.HEAD frees room in an RAE completion queue, letting stopped send queues take entries and withheld inbound completions be delivered. -/
  | cqHeadWrite (die : Fin 2) (q : Fin 256) (v : BitVec 16)
  /-- PERST_N_RELEASE (R544): Release of PERST_N after RESET_N starts CXL link training, with configuration reads then retried until Rinix has set up configuration space. -/
  | perstNRelease (tr : Option CxlTrain)
  /-- CXL_MEM_REQUEST (R415): A host CXL.mem read or write of its LD's T2 host-window range is served, or completes with poison when the LD is unbound. -/
  | cxlMemRequest (ld : Fin 16) (off : Nat) (r : MemReq)
  /-- HDM_DECODER_COMMIT (R408): The host commits or uncommits an LD's HDM decoder, changing LD_BIND.DECODER and whether Set LD Allocations may change that LD's range. -/
  | hdmDecoderCommit (ld : Fin 16) (on : Bool)
  /-- CL_VAUX_LOSS (R475): The Cloche's auxiliary supply is lost, so the Cloche stops counting and answering, and the counts since its last record are lost. -/
  | clVauxLoss
  /-- SB_DYNAMIC_ADDRESS (R550): The sideband bridge is given an I3C dynamic address, setting SBW_STATUS.BRIDGE_UP and SBW_I3C.DYN_ADDR. -/
  | sbDynamicAddress (addr : BitVec 7)
  /-- CL_DYNAMIC_ADDRESS (R492): The Cloche takes its I3C dynamic address by SETDASA from static address 0x4C or by ENTDAA. -/
  | clDynamicAddress (setdasa : Bool) (addr : BitVec 7)
  deriving DecidableEq, Repr

end Sys2Proof
end

