-- ==== Sys2Proof/Decode.lean ====
section
/-!
DEFINITION. Sys2Proof/Decode.lean: commands spelled by table words.
-/
namespace Sys2Proof

/-- The command that a word of spec/opcode_table.json's bits spells. No row of the table gives bits (spec/95: the steps
are named, not encoded), so no word spells a command. -/
def decodeTableWord (_nbits _w : Nat) : Option Instr := none

end Sys2Proof
end

