-- ==== Sys2Proof/Config.lean ====
section
/-!
DEFINITION. Sys2Proof/Config.lean: the values the spec leaves open, as constants without a body.

Nothing in Lean can evaluate one or prove a value of one: a statement about the machine holds for every value.
A function of one `Nat` that the docstring calls fresh is applied to the model's counter `State.fresh`, which every
use advances; the others are applied to what they depend on. Each names its log entry of notes/assumptions.
-/
namespace Sys2Proof.Config

/-- Payload and sign of a NaN a conversion produces, by exponent and mantissa width (R88 names only "NaN"; log 7). -/
opaque nanBits : Nat → Nat → Nat

/-- Whether max and min of a NaN and a number give the NaN (R97 states no rule; log 7). -/
opaque maxNan : Bool

/-- A NaN converted to INT8 or INT4 (R88 states no result; log 7). -/
opaque nanToInt : Nat → Int

/-- The FP32 code the vector unit gives for e^x, reciprocal or rsqrt of an FP32 code, before the bound of R97 is
applied to it (log 8). -/
opaque vfnCandidate : Nat → Nat → Nat

/-- The result of reciprocal or rsqrt where no finite result exists (R97 states none; log 8). -/
opaque vfnOpen : Nat → Nat → Nat

/-- A reduction, norm or softmax result before its agreement with the spec's sequence is tested (R91; log 9). -/
opaque approx : Nat → Nat

/-- The uniform draws of the sampler: 64 bits each, fresh (R98; log 10). -/
opaque uniform : Nat → BitVec 64

/-- The log-probability SAMPLE reports, fresh: R98 states no accuracy (log 10). -/
opaque logProb : Nat → BitVec 32

/-- Attention results the hardware computes plot by plot, fresh (R180, R92; log 9). -/
opaque attend : Nat → Nat → Nat

/-- Writes of a killed command still under way at the kill, fresh (R117; log 11). -/
opaque drainAtKill : Nat → Nat

/-- Units of its output that a stopped BAU program wrote, and those of them still under way at the stop, fresh (R185;
log 11). -/
opaque bauWritten : Nat → Nat
opaque bauFlying : Nat → Nat

/-- Bytes of a tile's working region after a command, fresh (R108 leaves them unspecified; log 30). -/
opaque deadWork : Nat → List (Nat × Byte)

/-- Contents of memory after RESET_N, fresh (R543 keeps none; log 12). -/
opaque memAfterReset : Nat → List (Nat × Byte)

/-- Bytes a transfer leaves where source and destination overlap, fresh (R216; log 13). -/
opaque overlapByte : Nat → Nat → Byte

/-- Order in which contributions of a scatter reach the bank, fresh (R259 defines none; log 32). -/
opaque arrival : Nat → Nat → Nat

/-- Which free plot the tier manager takes, among those free, fresh (R151 names only tier and channel; log 14). -/
opaque pick : Nat → Nat

/-- SRTT after a sample, from SRTT before it: R318 names no smoothing (log 19). -/
opaque srtt : Nat → Nat → Nat

/-- An Ed448 signature over bytes holds under a key of the given digest: the spec names the algorithm (R496, log 23). -/
opaque sigOk : Nat → List Byte → List Byte → Bool

/-- An Ed448 signature over bytes under a private key (R485, R497, R499; log 23). -/
opaque sign : Nat → List Byte → List Byte

/-- The public key of an Ed448 private key (R497; log 23). -/
opaque publicKey : Nat → Nat

/-- AES-256-GCM and secp384r1 steps of SPDM: session keys, verify data and responses' secrets, by what they
are computed from (R499; log 23). -/
opaque spdmKey : List Nat → Nat

/-- SHAKE256 digest of the mask ROM, whose contents the spec does not give (R497; log 23). -/
opaque romDigest : Nat

/-- The nonce of a boot, or of the Cloche, fresh (R493, R502; log 24). -/
opaque nonce : Nat → BitVec 128

/-- Voltage of a tile in RETAIN in mV (R513 names none; log 25). -/
opaque retentionMv : Nat

/-- Energy in microjoules that a rewrite adds to firmware's estimate, fresh: R391 and R484 apply R482 to rail telemetry
that the spec gives no register or row for (log 90). -/
opaque energyEst : Nat → BitVec 64

/-- Accumulators of a tile after RETAIN or OFF, fresh (R513 keeps none; log 25). -/
opaque accAfterOff : Nat → List (Nat × Nat)

/-- A word an SBW collision returns, fresh (R551; log 26). -/
opaque sbwWord : Nat → BitVec 64

/-- Contents of the SBW after PWR_GOOD rises, fresh (R552; log 26). -/
opaque sbwAfterPower : Nat → List (Nat × Byte)

/-- MARGIN_USED of a tile whose first plan was 0.850 V (R528 divides by zero; log 25). -/
opaque marginOpen : Nat → Nat

/-- The plan encodings that firmware supports, by PLAN_ABI (R427 names none; log 38). -/
opaque planAbiOk : Nat → Bool

/-- STEPPING of a die by DIE_SITE: "silicon stepping", per die, no value stated (R77; log 43). -/
opaque stepping : Nat → BitVec 8

/-- A mode register of an LPDDR5X package as read at training, by DIE_SITE and offset in the M site's DIE block (R76
gives no layout; log 43). -/
opaque modeReg : Nat → Nat → BitVec 64

end Sys2Proof.Config
end

