-- ==== Sys2Proof/Machine/Operands.lean ====
section
/-!
DEFINITION. Sys2Proof/Machine/Operands.lean: reading operands out of words: bit fields, little-endian bytes, fields
of a descriptor at a byte offset, signed values, and sparse tables by number.

The spec numbers bit 0 as the least significant bit and lays multi-byte fields little-endian (R12 and the tables'
own bracketed bits).
-/
namespace Sys2Proof.Machine

/-- Bits [lo + n - 1 : lo] of a word. -/
def bits (w lo n : Nat) : Nat := (w >>> lo) % 2 ^ n

/-- Bit i of a word. -/
def bit (w i : Nat) : Bool := w.testBit i

/-- The field of `size` bytes at byte offset `off` of a little-endian record. -/
def fld (raw off size : Nat) : Nat := bits raw (8 * off) (8 * size)

/-- `w` with bits [lo + n - 1 : lo] replaced by `v`. -/
def setBits (w lo n v : Nat) : Nat :=
  w - (bits w lo n) * 2 ^ lo + (v % 2 ^ n) * 2 ^ lo

/-- A record with the field of `size` bytes at `off` replaced. -/
def setFld (raw off size v : Nat) : Nat := setBits raw (8 * off) (8 * size) v

/-- 1 or 0. -/
def b2n (b : Bool) : Nat := if b then 1 else 0

/-- Two's-complement reading of the low `n` bits. -/
def toSigned (n w : Nat) : Int :=
  let v := w % 2 ^ n
  if v < 2 ^ (n - 1) then (v : Int) else (v : Int) - ((2 ^ n : Nat) : Int)

/-- The low `n` bits of an integer. -/
def ofInt (n : Nat) (v : Int) : Nat := (v % ((2 ^ n : Nat) : Int)).toNat

/-- The `n` low bytes of a word, least significant first. -/
def toBytes : Nat → Nat → List Byte
  | 0, _ => []
  | n + 1, w => BitVec.ofNat 8 w :: toBytes n (w / 256)

/-- The little-endian word of a byte list. -/
def ofBytes : List Byte → Nat
  | [] => 0
  | b :: bs => b.toNat + 256 * ofBytes bs

/-- The number read from a signed or unsigned sum, wrapped to 64 bits. -/
def wrap64 (n : Nat) : Nat := n % 2 ^ 64

/-- Ceiling division. -/
def cdiv (a b : Nat) : Nat := (a + b - 1) / b

/-- `a` rounded up to a multiple of `b`. -/
def roundUp (a b : Nat) : Nat := cdiv a b * b

/-- Floor of the binary logarithm, 0 for 0. -/
def flog2 (n : Nat) : Nat := Nat.log2 n

/-- The first `n` naturals from `a`. -/
def rangeFrom (a n : Nat) : List Nat := (List.range n).map (a + ·)

/-! ## Sparse tables -/

/-- The record at a key, if one was written. -/
def Tbl.find? {α : Type} : Tbl α → Nat → Option α
  | [], _ => none
  | (k, v) :: t, i => if k = i then some v else Tbl.find? t i

/-- The record at a key, or its reset value. -/
def Tbl.getD {α : Type} (t : Tbl α) (i : Nat) (d : α) : α := (Tbl.find? t i).getD d

/-- The table without a key. -/
def Tbl.del {α : Type} : Tbl α → Nat → Tbl α
  | [], _ => []
  | (k, v) :: t, i => if k = i then Tbl.del t i else (k, v) :: Tbl.del t i

/-- The table with a key's record written. -/
def Tbl.put {α : Type} (t : Tbl α) (i : Nat) (v : α) : Tbl α := (i, v) :: Tbl.del t i

/-- The table with a key's record (or its reset value) changed. -/
def Tbl.upd {α : Type} (t : Tbl α) (i : Nat) (d : α) (f : α → α) : Tbl α := Tbl.put t i (f (Tbl.getD t i d))

/-- An element put in its place in an ordered list. -/
def insertBy {α : Type} (le : α → α → Bool) (a : α) : List α → List α
  | [] => [a]
  | b :: t => if le a b then a :: b :: t else b :: insertBy le a t

/-- The list in order, equal elements as they stood. -/
def sortBy {α : Type} (le : α → α → Bool) : List α → List α
  | [] => []
  | a :: t => insertBy le a (sortBy le t)

/-- Numbers in ascending order. -/
def sortNat (l : List Nat) : List Nat := sortBy (fun a b => decide (a ≤ b)) l

/-- The keys that hold a record, ascending. -/
def Tbl.keys {α : Type} (t : Tbl α) : List Nat := sortNat (t.map (·.1))

/-- The table with every record changed. -/
def Tbl.mapAll {α : Type} (t : Tbl α) (f : α → α) : Tbl α := t.map (fun e => (e.1, f e.2))

/-- The first `k` up to `n` for which `p` holds, counting from `i`. -/
def firstFrom (p : Nat → Bool) : Nat → Nat → Option Nat
  | 0, _ => none
  | n + 1, i => if p i then some i else firstFrom p n (i + 1)

/-- The first natural below `n` for which `p` holds. -/
def firstBelow (n : Nat) (p : Nat → Bool) : Option Nat := firstFrom p n 0

/-- The element of a list at a position, or a default. -/
def nth {α : Type} (l : List α) (i : Nat) (d : α) : α := l.getD i d

/-- The list with the element at a position replaced (unchanged when there is none). -/
def setNth {α : Type} : List α → Nat → α → List α
  | [], _, _ => []
  | _ :: t, 0, v => v :: t
  | a :: t, i + 1, v => a :: setNth t i v

/-- Little-endian fields one after the other: (bytes, value). -/
def packFields : List (Nat × Nat) → List Byte
  | [] => []
  | e :: es => toBytes e.1 e.2 ++ packFields es

end Sys2Proof.Machine
end

