-- ==== Sys2Proof/Machine/Flags.lean ====
section
/-!
DEFINITION. Sys2Proof/Machine/Flags.lean: check codes and counters: the CRCs, the SEC-DED code of a page-table entry
and saturating counters.

CRC-16 is unreflected with polynomial 0x1021 and initial value 0xFFFF, CRC-8 unreflected with polynomial 0x07 and
initial value 0x00 (R62, R103, R173). CRC-32C and the SEC-DED column order are the usual ones, which the spec names
without parameters (notes/assumptions/5.md, PRESUMED).
-/
namespace Sys2Proof.Machine

/-- One bit step of an unreflected CRC of `w` bits: shift left, subtract the polynomial on carry. -/
def crcShift (w poly crc : Nat) : Nat :=
  let d := (crc <<< 1) % 2 ^ w
  if crc.testBit (w - 1) then d ^^^ poly else d

/-- Eight bit steps. -/
def crcByte (w poly crc : Nat) (b : Byte) : Nat :=
  let c := crc ^^^ (b.toNat <<< (w - 8))
  (List.range 8).foldl (fun a _ => crcShift w poly a) c

/-- CRC-16 over bytes (R62, R100, R103). -/
def crc16 (bs : List Byte) : Nat := bs.foldl (crcByte 16 0x1021) 0xFFFF

/-- CRC-8 over bytes (R173, R250). -/
def crc8 (bs : List Byte) : Nat := bs.foldl (crcByte 8 0x07) 0

/-- One bit step of the reflected CRC-32C. -/
def crcCShift (crc : Nat) : Nat :=
  if crc.testBit 0 then (crc >>> 1) ^^^ 0x82F63B78 else crc >>> 1

/-- One byte of CRC-32C. -/
def crcCByte (crc : Nat) (b : Byte) : Nat :=
  (List.range 8).foldl (fun a _ => crcCShift a) (crc ^^^ b.toNat)

/-- CRC-32C over bytes (PRESUMED parameters, log 5). -/
def crc32c (bs : List Byte) : Nat := (bs.foldl crcCByte 0xFFFFFFFF) ^^^ 0xFFFFFFFF

/-- CRC-32C of the first `n` bytes of a record. -/
def crcOf (raw n : Nat) : Nat := crc32c (toBytes n raw)

/-- A record whose last 4 of `n` bytes hold the CRC-32C of the rest. -/
def crcOk (raw n : Nat) : Bool := fld raw (n - 4) 4 == crcOf raw (n - 4)

/-- The record with its CRC-32C written into the last 4 of `n` bytes. -/
def withCrc (raw n : Nat) : Nat := setFld raw (n - 4) 4 (crcOf raw (n - 4))

/-- An operation descriptor's CHECK holds (R103). -/
def opCheckOk (raw : Nat) : Bool := fld raw 0x3E 2 == crc16 (toBytes 0x3E raw)

/-- A counter of `w` bits that saturates. -/
def satAdd (w a k : Nat) : Nat := Nat.min (2 ^ w - 1) (a + k)

/-! ## The SEC-DED code of R128 over bits [56:0] -/

/-- Positions of a Hamming code word that hold data: 1 to 63 without the powers of two, the first 57 of them. -/
def hamPos : List Nat := (rangeFrom 1 63).filter (fun p => !(p == 1 || p == 2 || p == 4 || p == 8 || p == 16 || p == 32))

/-- The six Hamming check bits: the exclusive-or of the positions of the data bits that are set. -/
def hamSyn (data : Nat) : Nat :=
  (List.zip hamPos (List.range 57)).foldl (fun a pi => if data.testBit pi.2 then a ^^^ pi.1 else a) 0

/-- Parity of the low `n` bits. -/
def parity (n w : Nat) : Bool := (List.range n).foldl (fun a i => a ^^ w.testBit i) false

/-- The 7-bit CHECK of an entry: six Hamming bits, then the overall parity bit. -/
def secdedCheck (data : Nat) : Nat :=
  let h := hamSyn data
  h + (if parity 57 data ^^ parity 6 h then 64 else 0)

/-- The verdict of an entry's CHECK (R129). -/
inductive EccRead where
  | clean (data : Nat)
  | corrected (data : Nat)
  | uncorrectable
  deriving DecidableEq, Repr

/-- Read an entry of 57 data bits and 7 check bits. -/
def secdedRead (e : Nat) : EccRead :=
  let data := bits e 0 57
  let h := bits e 57 6
  let syn := hamSyn data ^^^ h
  let odd := parity 57 data ^^ parity 6 h ^^ e.testBit 63
  if syn == 0 then (if odd then .corrected data else .clean data)
  else if odd then
    match (List.zip hamPos (List.range 57)).find? (fun pi => pi.1 == syn) with
    | some pi => .corrected (data ^^^ (1 <<< pi.2))
    | none => if syn == 1 || syn == 2 || syn == 4 || syn == 8 || syn == 16 || syn == 32 then .corrected data
              else .uncorrectable
  else .uncorrectable

/-- A page-table entry with its CHECK (R128). -/
def secdedWrite (data : Nat) : Nat := bits data 0 57 + secdedCheck (bits data 0 57) * 2 ^ 57

end Sys2Proof.Machine
end

