-- ==== Sys2Proof/Machine/TileState.lean ====
section
/-!
DEFINITION. Sys2Proof/Machine/TileState.lean: the state of the dies' own units: Trellis ports, tiles, address
translation, HBM channels and their bank-adjacent units, DMA engines, LPDDR5X, flash, compressors and Sieves.

Every structure's default value is its reset value; the bracket of each field's docstring names the rule, the width
and the reset value. Where the spec gives no reset value the bracket names a log entry of notes/assumptions.
-/
namespace Sys2Proof.Machine

/-! ## Dies and Trellis ports (02) -/

/-- States of a Trellis port (R81). -/
inductive PortState where
  | down | training | up | failed
  deriving DecidableEq, Repr

/-- One Trellis port (R59, R81 to R83). -/
structure Port where
  /-- STATE [R81; 2 bits; reset DOWN] -/
  state : PortState := .down
  /-- MODULES_UP [R81; 8 bits; reset 0] -/
  modulesUp : Nat := 0
  /-- HDR_CHECK [R82; 32 bits saturating; reset 0] -/
  hdrCheck : Nat := 0
  /-- RETRY [R82; 32 bits saturating; reset 0] -/
  retry : Nat := 0
  /-- PORT_CTRL.RETRAIN [R83; 1 bit; reset 0] -/
  retrain : Bool := false
  deriving DecidableEq, Repr

/-- What one die keeps for itself (R77 to R80), by DIE_SITE. -/
structure Die where
  /-- the die's ports by number [R59; per die; reset as `Port`] -/
  ports : Tbl Port := []
  /-- DIE_FENCED [R78; 1 bit; reset 0] -/
  fenced : Bool := false
  /-- a CD_CLOCK fence holds: the Sieve and the compressor are stopped [R73; reset no] -/
  clockLost : Bool := false
  /-- TABLE_CHECK [R80; 16 bits saturating; reset 0] -/
  tableCheck : Nat := 0
  /-- TRELLIS_TIMEOUT count [R80; 16 bits saturating; reset 0] -/
  trellisTimeouts : Nat := 0
  /-- ADDR_VIOLATION count [R80; 16 bits saturating; reset 0] -/
  addrViolations : Nat := 0
  deriving DecidableEq, Repr

/-- A Trellis request that waits for its response (R63). -/
structure TrellisReq where
  txn : Nat
  src : Nat
  dst : Nat
  isRead : Bool
  /-- the thread or engine that made it -/
  issuer : Option Agent
  /-- LTU time it was sent -/
  sent : Nat
  deriving DecidableEq, Repr

/-- A packet in one class's virtual channel of a port, sent and not yet arrived at the other end (R61). -/
structure TrellisHeld where
  /-- die and port it left by -/
  site : Nat
  port : Nat
  cls : TClass
  src : Nat
  dst : Nat
  txn : Nat
  deriving DecidableEq, Repr

/-- The Trellis as a whole (R59 to R64, R79). -/
structure Trellis where
  /-- TIMEOUT_US [R79; 14 bits; reset 500] -/
  timeoutUs : Nat := 500
  /-- LATE_RESP [R63; count; DESIGN CHOICE 0 (log 1)] -/
  lateResp : Nat := 0
  /-- requests without a response yet [R63; list; reset empty] -/
  waiting : List TrellisReq := []
  /-- packets between two routers, in the order sent [R61; virtual channels; reset empty] -/
  vcs : List TrellisHeld := []
  deriving DecidableEq, Repr

/-! ## Tiles (03) -/

/-- Why a hardware thread does not run (R102). -/
inductive Wait where
  /-- TOP.WAIT on an operation -/
  | op (h : Nat)
  /-- TOP.ISSUE to a full unit queue -/
  | room (unit : Nat)
  /-- a fence with accesses of this thread outstanding -/
  | fence
  /-- a fence with accesses of the command, or operations up to a handle, outstanding -/
  | fencet (h : Nat)
  /-- a load of the remote aperture that its MSF has not issued -/
  | issue (addr : Nat) (a : CoreAcc)
  /-- a load of the remote aperture in flight, by link die and transaction slot, and the lane of its first byte -/
  | remote (die slot lane : Nat) (a : CoreAcc)
  /-- an access held in a channel's hold queue (R169) -/
  | held (ch : Nat)
  /-- the core's 16-entry store buffer is full -/
  | storeBuf
  deriving DecidableEq, Repr

/-- One hardware thread of a running command (R100 to R102). -/
structure Thread where
  /-- integer registers x1 to x31 [R100; 31 x 64 bits; DESIGN CHOICE 0 (log 1), a0 is ARGS] -/
  x : Tbl Nat := []
  /-- floating-point registers f0 to f31 [R100; 32 x 32 bits; DESIGN CHOICE 0 (log 1)] -/
  f : Tbl Nat := []
  /-- program counter, an own-window offset [R101, R113; 26 bits; PROGRAM at start] -/
  pc : Nat := 0
  /-- TOP.END executed [R100; 1 bit; 0 at start] -/
  ended : Bool := false
  /-- what the thread waits for [R102; option; none at start] -/
  wait : Option Wait := none
  /-- stores of this thread not yet at their destination [R102; count; 0 at start] -/
  outst : Nat := 0
  /-- LR reservation, an own-window offset [R100; option; none at start] -/
  resv : Option Nat := none
  deriving DecidableEq, Repr

/-- Where an issued operation stands (R105). -/
inductive OpPhase where
  /-- in its unit's queue -/
  | queued
  /-- left its queue, its transfer under way -/
  | active
  /-- its work is done, its completion is not yet seen -/
  | executed
  /-- complete: waiters may go on -/
  | complete
  deriving DecidableEq, Repr

/-- How far a compressor or Sieve operation has come (R241, R243, R258). -/
structure CompProg where
  /-- frames done -/
  frames : Nat := 0
  /-- where the next packed frame lies -/
  place : Nat := 0
  /-- remote ranges of its source fetched so far -/
  fetched : List (Nat × Nat) := []
  /-- COMPRESS: the length still to be written of a frame that has been -/
  lenDue : Option Nat := none
  /-- GATHER: the indices as read, and the unique rows fetched so far, each by its class and bytes -/
  idx : List Nat := []
  rows : List (Nat × List Byte) := []
  deriving DecidableEq, Repr

/-- One operation of a command (R103, R105). Units: 0 matrix engine, 1 vector unit, 2 DMA requests, 3 BAU. -/
structure Op where
  handle : Nat
  unit : Nat
  /-- the 64-byte descriptor read at issue -/
  desc : Nat
  phase : OpPhase := .queued
  /-- BAU operations: channels of CH_MASK whose program has ended (R176) -/
  chDone : BitVec 8 := 0#8
  /-- compressor operations: how far they have come -/
  prog : CompProg := {}
  deriving DecidableEq, Repr

/-- What a deferred operation does at commit (R111). -/
inductive DeferKind where
  | store
  | addInt
  | addFp32
  | addBf16
  | swap
  deriving DecidableEq, Repr

/-- One entry of the deferred queue (R111). -/
structure Deferred where
  kind : DeferKind
  /-- physical address, the remote aperture included -/
  addr : Nat
  /-- bytes: 1, 2, 4 or 8 -/
  size : Nat
  val : Nat
  deriving DecidableEq, Repr

/-- The states a delivered command passes through on a tile (R115, R119). -/
inductive CmdPhase where
  | running | ended | committing
  deriving DecidableEq, Repr

/-- The command a tile is running (R113 to R117). -/
structure TileCmd where
  /-- the 64-byte descriptor [R113; 512 bits; none at reset] -/
  desc : Nat
  phase : CmdPhase := .running
  /-- LTU time RUNNING began (R118, R391) -/
  start : Nat := 0
  /-- sevenths of an ACLK run before `start`, under other dividers (R512) -/
  run7 : Nat := 0
  /-- started threads by number 8k + h -/
  threads : Tbl Thread := []
  /-- operations by handle, in issue order -/
  ops : List Op := []
  /-- last handle issued (R105) -/
  lastHandle : Nat := 0
  /-- deferred queue, at most 4,096 (R111) -/
  deferred : List Deferred := []
  /-- publication buffer, at most 4,096 entries of 16 bytes (R112) -/
  pubs : List Nat := []
  /-- tokens SAMPLE and ACCEPT gave, with their log-probability, from the draft tree or not (R98, R99, R371) -/
  lps : List (Nat × Nat × Bool) := []
  deriving DecidableEq, Repr

/-- EMB_PIN (R253, R265). -/
structure EmbPin where
  /-- VERSION [R265; 16 bits; reset 0] -/
  version : Nat := 0
  /-- DESC, the physical address of the pinned descriptor [R265; 48 bits; reset 0] -/
  desc : Nat := 0
  /-- VALID [R265; 1 bit; reset 0] -/
  valid : Bool := false
  /-- the model slot the pin counts for [R254] -/
  slot : Nat := 0
  deriving DecidableEq, Repr

/-- One tile (R84, R105 to R123, R253). -/
structure Tile where
  /-- RES_MIB [R120; 6 bits; reset 0x00] -/
  resMib : Nat := 0
  /-- CFG_REJECT [R120; 1 bit W1C; reset 0] -/
  cfgReject : Bool := false
  /-- WORK_TENANT [R119; 16 bits; reset 0x0000] -/
  workTenant : Nat := 0
  /-- WORK_VALID [R119; 1 bit; reset 0] -/
  workValid : Bool := false
  /-- RES_LOCK [R119, R107; 1 bit; reset 0] -/
  resLock : Bool := false
  /-- FENCED [R119; 1 bit; reset 0] -/
  fenced : Bool := false
  /-- the 32-entry command queue, descriptors oldest first [R113; reset empty] -/
  queue : List Nat := []
  /-- the command running or ending [R115, R119; reset none: STATE IDLE, CUR_TAG 0] -/
  cur : Option TileCmd := none
  /-- current hardware thread of each core [R102; DESIGN CHOICE none (log 1)] -/
  core : Tbl (Option Nat) := []
  /-- COMMITTED [R121; 32 bits saturating; reset 0] -/
  committed : Nat := 0
  /-- KILLED [R121; 16 bits saturating; reset 0] -/
  killed : Nat := 0
  /-- FAILED [R121; 16 bits saturating; reset 0] -/
  failed : Nat := 0
  /-- BANK_CONF by master 0 to 10 [R123; 32 bits saturating; reset 0] -/
  conf : Tbl Nat := []
  /-- EMB_PIN [R253, R265; reset 0] -/
  emb : EmbPin := {}
  /-- accumulator sets 0 and 1, 32-bit entries by row x N + column [R84, R95; DESIGN CHOICE 0 (log 1)] -/
  acc0 : Tbl Nat := []
  acc1 : Tbl Nat := []
  /-- the set the previous MM used [R95; DESIGN CHOICE set 1, so that the first MM uses set 0 (log 1)] -/
  accLast : Bool := true
  /-- the tile is in qualification: it takes only SHADOW commands [R464; reset no] -/
  qual : Option (Nat × Nat × Nat) := none
  /-- the working tile of the comparison under way on this candidate [R464; option; reset none] -/
  against : Option Nat := none
  /-- lent to decode by swing [R50; reset no] -/
  lent : Bool := false
  /-- its last move between prefill and decode: 64 x the step number, plus its place among the boundary's moves
  [R50; option; reset none] -/
  lastMoved : Option Nat := none
  deriving DecidableEq, Repr

/-! ## Address translation (04) -/

/-- One ATU slice: CD0 to CD3 by number, HD is 4 (R125, R131, R162, R163). -/
structure AtuSlice where
  /-- cached translations: (ASID, virtual page, leaf level, entry), newest first, at most 16,384 on a CD and 8,192 on HD
  [R131; reset empty] -/
  tlb : List (Nat × Nat × Nat × Nat) := []
  /-- WALKS [R162; 32 bits saturating; reset 0] -/
  walks : Nat := 0
  /-- CORRECTED [R162; 16 bits saturating; reset 0] -/
  corrected : Nat := 0
  /-- UNCORRECTED [R162; 16 bits saturating; reset 0] -/
  uncorrected : Nat := 0
  /-- FAULT_VA.VALID [R163; 1 bit W1C; reset 0] -/
  faultValid : Bool := false
  /-- FAULT_VA.VA, the page number [R163; 40 bits; reset 0] -/
  faultVpn : Nat := 0
  /-- FAULT_VA.CAUSE [R163; 4 bits; reset 0] -/
  faultCause : Nat := 0
  /-- FAULT_ASID.TILE [R163; 6 bits; reset 0x00] -/
  faultTile : Nat := 0
  /-- FAULT_ASID.ASID [R163; 16 bits; reset 0x0000] -/
  faultAsid : Nat := 0
  deriving DecidableEq, Repr

/-- What an invalidation names (R161). -/
inductive InvScope where
  | asid (a : Nat)
  | range (a vpn count : Nat)
  | all
  deriving DecidableEq, Repr

/-- The ATU registers of HD and the five slices (R159 to R163). -/
structure Atu where
  /-- ATU_CTRL.ENABLE [R159; 1 bit; reset 0] -/
  enable : Bool := false
  /-- ASID_TBL.BASE, the address [R160; 48 bits; reset 0] -/
  asidTbl : Nat := 0
  /-- INV_VA.VA, the address [R161; 56 bits; reset 0] -/
  invVa : Nat := 0
  /-- INV_STATUS.REJECT [R161; W1C; reset 0] -/
  invReject : Bool := false
  /-- INV_STATUS.DONE [R161; W1C; reset 0] -/
  invDone : Bool := false
  /-- INV_STATUS.BUSY, with what the invalidation in progress names [R161; reset not busy] -/
  invBusy : Option InvScope := none
  /-- slices by number [R125; reset as `AtuSlice`] -/
  slices : Tbl AtuSlice := []
  deriving DecidableEq, Repr

/-! ## HBM channels and BAUs (05) -/

/-- Modes of a channel (R165, R188). -/
inductive ChMode where
  | memory | entering | processor | exiting
  deriving DecidableEq, Repr

/-- An ordinary access in a channel's hold queue (R169). -/
structure Held where
  acc : HeldAcc
  /-- LTU time it was held -/
  since : Nat
  deriving DecidableEq, Repr

/-- The program that owns a channel (R166, R171, R193). -/
structure BauProg where
  tile : Nat
  handle : Nat
  tag : Nat
  tenant : Nat
  /-- LTU time of the end of entry, or of the previous chained program (R171) -/
  start : Nat
  /-- killed, overrun or fenced: the BAU abandons it [R185, R193; STATE STOPPING] -/
  stopping : Bool := false
  /-- its command is a shadow run, charged to the system (R464) -/
  shadow : Bool := false
  /-- operation descriptor [R176, R177, R182; 512 bits] -/
  desc : Nat := 0
  /-- operand buffer: the parameter block [R164, R178; 100 KiB with the page list] -/
  param : List Byte := []
  /-- operand buffer: the page list's entries [R164, R179] -/
  pages : List Nat := []
  /-- 32-byte units of its output: in all, written when it was stopped, and of these still under way then [R183, R185] -/
  units : Nat := 0
  written : Nat := 0
  flying : Nat := 0
  deriving DecidableEq, Repr

/-- One HBM3E channel and its BAU (R165 to R196). -/
structure Chan where
  /-- MODE [R188; 2 bits; reset MEMORY] -/
  mode : ChMode := .memory
  /-- hold queue, oldest first, at most 64 [R169; reset empty] -/
  hold : List Held := []
  /-- the program that runs [R193; reset none: STATE IDLE, TAG 0, TENANT 0] -/
  prog : Option BauProg := none
  /-- FENCED [R189; 1 bit; reset 0] -/
  fenced : Bool := false
  /-- DISABLE [R189; 1 bit; reset 1] -/
  disable : Bool := true
  /-- HELD [R191; 32 bits saturating; reset 0] -/
  held : Nat := 0
  /-- MAX_WAIT in 100 ns [R191; 16 bits saturating; reset 0] -/
  maxWait : Nat := 0
  /-- PROGRAMS [R192; 32 bits saturating; reset 0] -/
  programs : Nat := 0
  /-- OVERRUN [R192; 16 bits saturating; reset 0] -/
  overrun : Nat := 0
  /-- HOLD_TIMEOUT [R192; 16 bits saturating; reset 0] -/
  holdTimeout : Nat := 0
  /-- BUSY [R194; 64 bits saturating; reset 0] -/
  busyAclk : Nat := 0
  /-- ECC CORRECTED [R194; 32 bits saturating; reset 0] -/
  eccCorrected : Nat := 0
  /-- ECC UNCORRECTED [R194; 32 bits saturating; reset 0] -/
  eccUncorrected : Nat := 0
  /-- OWN_RANGE.COUNT_M1 [R195; 16 bits; reset 0] -/
  ownCountM1 : Nat := 0
  /-- OWN_RANGE.FIRST [R195; 16 bits; reset 0] -/
  ownFirst : Nat := 0
  /-- OWN_VALUE.ENTRY [R195; 18 bits; reset 0] -/
  ownValue : Nat := 0
  /-- OWN_STATUS.REJECT [R196; W1C; reset 0] -/
  ownReject : Bool := false
  /-- OWN_STATUS.DONE [R196; W1C; reset 0] -/
  ownDone : Bool := false
  /-- OWN_STATUS.BUSY [R196; 1 bit; reset 0] -/
  ownBusy : Bool := false
  /-- plot owner table, 65,536 entries of 32 bits; an absent entry is not valid [R173; reset not valid] -/
  owner : Tbl Nat := []
  deriving DecidableEq, Repr

/-! ## DMA engines, LPDDR5X, flash (06) -/

/-- CH_STATUS.STATE (R231). -/
inductive DmaState where
  | idle | active | stopping | halted
  deriving DecidableEq, Repr

/-- A transfer that has been taken and has not posted its full entry (R218 to R220). -/
structure Xfer where
  /-- the 64-byte descriptor, of a RING channel's ring or of the tile operation -/
  desc : Nat
  /-- of a TILE channel: the operation's handle -/
  handle : Nat := 0
  /-- outcome so far -/
  status : Nat := 0
  /-- transfer-order bytes that no failure or stop has cut off -/
  cap : Nat
  /-- tenant its bytes are counted against (R391) -/
  tn : Nat := 0
  /-- sources of its local pieces, with their lengths (R216) -/
  srcs : List (Nat × Nat) := []
  /-- transfer-order positions of accesses that a channel holds (R169) -/
  held : List Nat := []
  /-- the half entry is posted -/
  half : Bool := false
  /-- the work of a compressor descriptor is not finished, and how far it has come (R242, R243) -/
  todo : Bool := false
  prog : CompProg := {}
  deriving DecidableEq, Repr

/-- One DMA channel (R213, R219, R231). -/
structure DmaCh where
  /-- CH_CFG.RING_BASE, the address [R231; 48 bits; reset 0] -/
  ringBase : Nat := 0
  /-- CH_CFG.RING_LOG2 [R231; 4 bits; reset 4] -/
  ringLog2 : Nat := 4
  /-- CH_CFG.PRIO [R231; 2 bits; reset 3] -/
  prio : Nat := 3
  /-- CH_CFG.ENABLE [R231; 1 bit; reset 0] -/
  enable : Bool := false
  /-- CH_CPL.CPL_BASE, the address [R231; 48 bits; reset 0] -/
  cplBase : Nat := 0
  /-- CH_CPL.CPL_LOG2 [R231; 4 bits; reset 4] -/
  cplLog2 : Nat := 4
  /-- SQ_HEAD [R231; 16 bits; reset 0] -/
  sqHead : Nat := 0
  /-- SQ_TAIL [R231; 16 bits; reset 0] -/
  sqTail : Nat := 0
  /-- CPL_HEAD [R231; 16 bits; reset 0] -/
  cplHead : Nat := 0
  /-- CPL_TAIL [R231; 16 bits; reset 0] -/
  cplTail : Nat := 0
  /-- CH_STATUS.BURSTS [R231; 32 bits saturating; reset 0] -/
  bursts : Nat := 0
  /-- CH_STATUS.CHECK_ERR [R231; W1C; reset 0] -/
  checkErr : Bool := false
  /-- CH_STATUS.STATE [R231; 3 bits; reset IDLE] -/
  state : DmaState := .idle
  /-- the transfer that has not ended [R219, R220; reset none] -/
  xfer : Option Xfer := none
  deriving DecidableEq, Repr

/-- One DMA engine: CD0 to CD3 by number, HD is 4 (R213, R231). -/
structure DmaEng where
  /-- DMA_IRQ_PEND [R231; 64 bits W1C; reset 0] -/
  irqPend : BitVec 64 := 0#64
  /-- channels by number [R231; reset as `DmaCh`] -/
  chans : Tbl DmaCh := []
  deriving DecidableEq, Repr

/-- One LPDDR5X controller, M0 to M15 (R221, R232). -/
structure Lpc where
  /-- RATE [R232; 8 bits; reset 0] -/
  rate : Nat := 0
  /-- STATE [R232; 2 bits; reset UNTRAINED 0] -/
  state : Nat := 0
  /-- LINK_CORRECTED [R232; 32 bits saturating; reset 0] -/
  linkCorrected : Nat := 0
  /-- LINK_RETRIED [R232; 16 bits saturating; reset 0] -/
  linkRetried : Nat := 0
  /-- POISONED [R232; 16 bits saturating; reset 0] -/
  poisoned : Nat := 0
  /-- ON_DIE [R232; 32 bits saturating; reset 0] -/
  onDie : Nat := 0
  deriving DecidableEq, Repr

/-- One flash block (R226, R227). -/
structure FlashBlock where
  /-- erase count [R225; survives reset with the bad-block table; DESIGN CHOICE 0 (log 1)] -/
  erases : Nat := 0
  /-- marked bad [R225; DESIGN CHOICE no (log 1)] -/
  bad : Bool := false
  /-- reads since the block was opened [R226; reset 0] -/
  reads : Nat := 0
  /-- sectors written in the open or full block [R226; reset 0] -/
  used : Nat := 0
  /-- erased since its last use [R225; reset no: every block is erased before its first use] -/
  clean : Bool := false
  /-- a read needed more than 70 % of the hard-decision capability [R226; reset no] -/
  weak : Bool := false
  deriving DecidableEq, Repr

/-- One T3 handle (R201, R226). -/
structure FlashPlot where
  /-- sectors of the plot's run, 1 to 16 -/
  sectors : Nat
  /-- block that holds the run -/
  block : Nat
  /-- first sector of the run in the block -/
  first : Nat
  /-- marked LOST -/
  lost : Bool := false
  /-- stored as a compressed frame -/
  frame : Bool := false
  /-- LTU time its data was written (R226) -/
  written : Nat := 0
  /-- room is reserved, and nothing written yet (R210) -/
  held : Bool := false
  deriving DecidableEq, Repr

/-- The flash translation layer and the ONFI block (R222 to R227, R233). -/
structure Ftl where
  /-- USER_PLOTS [R233, R224; 32 bits; reset 0] -/
  userPlots : Nat := 0
  /-- blocks of the medium, good and bad, block b in LUN b mod `luns` [R224, R226; DESIGN CHOICE 0 before start-up (log 1)] -/
  blocks : Nat := 0
  /-- sectors in one block, from the parameter page [R222; DESIGN CHOICE 0 before start-up (log 1)] -/
  blockSectors : Nat := 0
  /-- LUNs over all channels and chip enables [R222] -/
  luns : Nat := 0
  /-- the LUN the next plot goes to, in rotation [R226] -/
  nextLun : Nat := 0
  /-- open block of each LUN [R226] -/
  openBlock : Tbl Nat := []
  /-- blocks by number [R225] -/
  blk : Tbl FlashBlock := []
  /-- the flash map: handles in use [R228; discarded at start-up, R225] -/
  map : Tbl FlashPlot := []
  /-- BAD_BLOCKS [R233; 32 bits; reset 0] -/
  badBlocks : Nat := 0
  /-- SOFT_DECODES [R233; 32 bits saturating; reset 0] -/
  soft : Nat := 0
  /-- RETRIED [R233; 16 bits saturating; reset 0] -/
  retried : Nat := 0
  /-- UNCORRECTABLE [R233; 16 bits saturating; reset 0] -/
  uncorrectable : Nat := 0
  /-- ONFI_CH_STATUS.STATE by channel [R233; reset DOWN 0] -/
  chState : Tbl Nat := []
  /-- ONFI_CH_STATUS.CE_FITTED by channel [R233; reset 0] -/
  ce : Tbl Nat := []
  /-- ONFI_CH_STATUS.LUNS by channel [R233; reset 0] -/
  chLuns : Tbl Nat := []
  /-- spare area fell below 3 %: T3 takes no new plots [R226; reset no] -/
  worn : Bool := false
  /-- T3 unusable, or an ONFI channel lost: T3 takes no new plots [R223, R453; reset no] -/
  unusable : Bool := false
  deriving DecidableEq, Repr

/-- Where one key-value page lies, as the tier manager's manifest and the leaf say (R128, R230). -/
inductive Place where
  /-- a T1 plot: channel and plot index in the channel -/
  | t1 (ch plot : Nat)
  /-- a T2 plot, by its physical address -/
  | t2 (addr : Nat)
  /-- a T3 handle -/
  | t3 (handle : Nat)
  /-- on the holder named by PEER: nothing is mapped here (R43) -/
  | holder
  deriving DecidableEq, Repr

/-! ## Compressors and Sieves (07) -/

/-- One compressor (R244, R264). -/
structure Comp where
  /-- SHARE [R264; 8 bits; per boot: DESIGN CHOICE 0 before start-up (log 1)] -/
  share : Nat := 0
  /-- COMP_IN [R264; 64 bits saturating; reset 0] -/
  bytesIn : Nat := 0
  /-- COMP_OUT [R264; 64 bits saturating; reset 0] -/
  bytesOut : Nat := 0
  /-- FRAMES [R264; 32 bits saturating; reset 0] -/
  frames : Nat := 0
  /-- UNCHANGED [R264; 16 bits saturating; reset 0] -/
  unchanged : Nat := 0
  /-- REFUSED [R264; 16 bits saturating; reset 0] -/
  refused : Nat := 0
  deriving DecidableEq, Repr

/-- One Sieve (R265). -/
structure Sieve where
  /-- the operation it is in, which waits for remote rows: tile and handle [R256, R265; reset none] -/
  run : Option (Nat × Nat) := none
  /-- OPS [R265; 32 bits saturating; reset 0] -/
  ops : Nat := 0
  /-- ROWS [R265; 32 bits saturating; reset 0] -/
  rows : Nat := 0
  /-- REPL_HIT [R265; 32 bits saturating; reset 0] -/
  replHit : Nat := 0
  /-- REPL_MISS [R265; 32 bits saturating; reset 0] -/
  replMiss : Nat := 0
  deriving DecidableEq, Repr

end Sys2Proof.Machine
end

