-- ==== Sys2Proof/Machine/FabricState.lean ====
section
/-!
DEFINITION. Sys2Proof/Machine/FabricState.lean: the state of the links, the egress schedulers, the memory-semantic
fabric, the remote access engines and the graft engine (08 to 10).

Every structure's default value is its reset value; the bracket of each field's docstring names the rule, the width
and the reset value.
-/
namespace Sys2Proof.Machine

/-! ## Egress queues and links -/

/-- Colours a policer gives (R354). -/
inductive Colour where
  | green | yellow | red
  deriving DecidableEq, Repr

/-- A packet in an egress queue (R336 to R338). -/
structure Queued where
  p : Pkt
  /-- the tenant of the packet; none: never policed (R352) -/
  tenant : Option Nat := none
  /-- the connection, message and packet index it carries, for R317 and R320 -/
  rae : Option (Nat × Nat × Nat) := none
  /-- its connection even when it carries no message of its own (R320) -/
  conn : Option Nat := none
  /-- the policer's last outcome, once it has become its queue's candidate (R354) -/
  colour : Option Colour := none
  /-- the policer that gave it -/
  pol : Option Nat := none
  deriving DecidableEq, Repr

/-- LINK_STATUS.STATE (R301). -/
inductive LinkState where
  | down | training | linkUp | active | managementOnly | failed
  deriving DecidableEq, Repr

/-- The gate list of a link (R344 to R350, R357). -/
structure Gates where
  /-- both banks of 64 entries, by bank x 64 + entry [R344; 64 bits each; DESIGN CHOICE 0 (log 1)] -/
  bank : Tbl Nat := []
  /-- GATE_CFG.ADMIN_LEN [R357; 7 bits; reset 0] -/
  adminLen : Nat := 0
  /-- GATE_CFG.TAKEOVER is SYNC [R357; 1 bit; reset 0] -/
  sync : Bool := false
  /-- GATE_ADMIN_BASE [R357; 64 bits; reset 0] -/
  adminBase : Nat := 0
  /-- GATE_STATUS.CUR_ENTRY [R357; 6 bits; reset 0] -/
  curEntry : Nat := 0
  /-- GATE_STATUS.OPER_LEN [R357; 7 bits; reset 0] -/
  operLen : Nat := 0
  /-- GATE_STATUS.REJECT_CAUSE [R357; 4 bits; reset 0] -/
  rejectCause : Nat := 0
  /-- GATE_STATUS.OPER_VALID [R357; 1 bit; reset 0] -/
  operValid : Bool := false
  /-- GATE_STATUS.FALLBACK [R357; 1 bit; reset 0] -/
  fallback : Bool := false
  /-- GATE_STATUS.ARM_REJECT [R357; W1C; reset 0] -/
  armReject : Bool := false
  /-- GATE_STATUS.PENDING [R357; 1 bit; reset 0] -/
  pending : Bool := false
  /-- GATE_STATUS.OPER_BANK [R357; 1 bit; reset 0] -/
  operBank : Bool := false
  /-- GATE_OPER_BASE [R357; 64 bits; reset 0] -/
  operBase : Nat := 0
  /-- LTU time the running entry began [R345] -/
  curStart : Nat := 0
  /-- takeover tick of a pending TIME list, or of a SYNC list once its edge has come [R348; reset none] -/
  takeAt : Option Nat := none
  deriving DecidableEq, Repr

/-- One Tendril link and its egress scheduler (R266 to R277, R301, R336 to R343, R357). -/
structure Link where
  /-- STATE [R301; 3 bits; reset DOWN] -/
  state : LinkState := .down
  /-- PARTNER_ID [R301; 12 bits; reset 0x000] -/
  partnerId : Nat := 0
  /-- MISMATCH [R301; 4 bits; reset 0x0] -/
  mismatch : Nat := 0
  /-- RETRAINS [R301; 8 bits saturating; reset 0x00] -/
  retrains : Nat := 0
  /-- PARTNER_SWITCH [R301; 1 bit; reset 0] -/
  partnerSwitch : Bool := false
  /-- LINK_UID.PARTNER_UID [R301; 64 bits; reset 0x0] -/
  partnerUid : Nat := 0
  /-- LINK_FEC.CORRECTED [R301; 32 bits saturating; reset 0x0] -/
  fecCorrected : Nat := 0
  /-- LINK_FEC.UNCORRECTED [R301; 32 bits saturating; reset 0x0] -/
  fecUncorrected : Nat := 0
  /-- LINK_CNT.REPLAYS [R301; 32 bits saturating; reset 0x0] -/
  replays : Nat := 0
  /-- LINK_CNT.HDR_CHECK [R301; 16 bits saturating; reset 0x0] -/
  hdrCheck : Nat := 0
  /-- LINK_CNT.DROPPED [R301; 16 bits saturating; reset 0x0] -/
  dropped : Nat := 0
  /-- LINK_CFG.EXPECT_ID [R301; 12 bits; reset 0x000] -/
  expectId : Nat := 0
  /-- LINK_CFG.ENABLE [R301; 1 bit; reset 0] -/
  enable : Bool := false
  /-- LINK_CTRL.RETRAIN [R301; 1 bit; reset 0] -/
  retrainBit : Bool := false
  /-- the link is fenced: DOWN until UNFENCE [R272, R453; reset no] -/
  fenced : Bool := false
  /-- LTU time of the present bring-up attempt or retrain [R273] -/
  since : Nat := 0
  /-- a retrain is under way, and the state it returns to [R273; reset none] -/
  prev : Option LinkState := none
  /-- LSEQ of the next new packet [R272; 12 bits; 0 at INIT] -/
  txSeq : Nat := 0
  /-- replay buffer: unacknowledged packets by LSEQ, oldest first, at most 2,048 packets and 4,096 flits
  [R272; reset empty] -/
  replay : List (Nat × Pkt) := []
  /-- go-back-N replay under way: LSEQ of the next packet to resend [R272; reset none] -/
  replayAt : Option Nat := none
  /-- LSEQ expected next from the partner [R272; 12 bits; 0 at INIT] -/
  rxSeq : Nat := 0
  /-- discarding until a REPLAY_START, the NAK sent [R272; reset no] -/
  nakSent : Bool := false
  /-- NAKs received in a row for one LSEQ, and that LSEQ [R272; reset none] -/
  naks : Nat := 0
  nakSeq : Nat := 0
  /-- LTU time of the last ACK, or since packets are unacknowledged [R272] -/
  lastAck : Nat := 0
  /-- packets accepted since the last ACK sent, and LTU time of the first [R272; reset 0] -/
  accepted : Nat := 0
  acceptedAt : Nat := 0
  /-- link credit of Q0 to Q7 in flits, as the partner advertises it [R272; reset 0] -/
  credit : Tbl Nat := []
  /-- flits freed here since the last CREDIT, by queue [R272; reset 0] -/
  freed : Tbl Nat := []
  /-- receive buffer: packets accepted and not yet consumed, oldest first [R272; 512 flits a queue; reset empty] -/
  rx : List Pkt := []
  /-- HELLO REQUESTs sent without a REPLY, and LTU time of the last [R273; reset none] -/
  helloTries : Nat := 0
  helloAt : Option Nat := none
  /-- last HELLO record of the partner [R277; 768 bits; reset none] -/
  helloRec : Option Nat := none
  /-- egress queues Q0 to Q7, oldest first, at most 1,024 flits each [R337; reset empty] -/
  q : Tbl (List Queued) := []
  /-- packets whose producers wait for room, in order [R337; reset none] -/
  wait : List Queued := []
  /-- Q_QUANT of Q2 to Q7 in flits [R357; 16 bits each; reset 516, 516, 258, 129, 129, 129] -/
  quantum : List Nat := [516, 516, 258, 129, 129, 129]
  /-- Q_MARK of Q1 to Q7 in units of 16 flits [R357; 8 bits each; reset 0, 32, 32, 32, 32, 32, 0] -/
  mark : List Nat := [0, 32, 32, 32, 32, 32, 0]
  /-- deficits of Q2 to Q7 in flits [R341; reset 0] -/
  deficit : List Nat := [0, 0, 0, 0, 0, 0]
  /-- queue of the visit in progress, 2 to 7 [R341; reset none] -/
  visit : Option Nat := none
  /-- the packet on the wire: its queue and the time it ends, in 0.01 ns [R339, R346; reset none] -/
  sending : Option (Nat × Nat) := none
  /-- gate list [R344; reset as `Gates`] -/
  gates : Gates := {}
  /-- EGR_LCNT.ECN_MARKED [R357; 32 bits saturating; reset 0x0] -/
  ecnMarked : Nat := 0
  /-- EGR_LCNT.HOLD_FIT [R357; 16 bits saturating; reset 0x0] -/
  holdFit : Nat := 0
  /-- EGR_LCNT.OVERRUN [R357; 16 bits saturating; reset 0x0] -/
  overrun : Nat := 0
  deriving DecidableEq, Repr

/-- One policer (R353, R354). -/
structure Policer where
  /-- the 32-byte entry [R353; 256 bits; DESIGN CHOICE 0, not VALID (log 1)] -/
  raw : Nat := 0
  /-- committed and peak bucket in 0.01 byte, as of LTU time `at_` [R354] -/
  c : Nat := 0
  p : Nat := 0
  at_ : Nat := 0
  /-- POL_STAT: green, yellow and red bytes, packets held [R357; 64, 64, 64, 32 bits; DESIGN CHOICE 0 (log 1)] -/
  green : Nat := 0
  yellow : Nat := 0
  red : Nat := 0
  heldPkts : Nat := 0
  deriving DecidableEq, Repr

/-! ## The MSF -/

/-- A TXN slot in use or retired (R298). -/
structure Txn where
  /-- generation [R298; 4 bits] -/
  gen : Nat := 0
  /-- outstanding, for this agent [none: retired by timeout or free] -/
  ag : Option Agent := none
  /-- the AGENT field sent [R290; 24 bits] -/
  agent : Nat := 0
  /-- operation [R289; 8 bits] -/
  mop : Nat := 0
  /-- aperture address [48 bits] -/
  addr : Nat := 0
  /-- bytes -/
  len : Nat := 0
  dest : Nat := 0
  /-- TENANT of its window [R284; 16 bits] -/
  tenant : Nat := 0
  /-- link it left on -/
  link : Nat := 0
  anchored : Bool := false
  /-- LTU time the request left the MSF [R292] -/
  sent : Nat := 0
  /-- LTU time its timeout retired it [R298; none unless retired] -/
  retired : Option Nat := none
  deriving DecidableEq, Repr

/-- A burst of a DMA transfer to or from the aperture (R215, R294). -/
structure Burst where
  ag : Agent
  addr : Nat
  len : Nat
  /-- local physical address -/
  loc : Nat
  write : Bool
  /-- first byte of a read that is used, and how many: a read is widened to 64-byte alignment (R215) -/
  skip : Nat := 0
  used : Nat := 0
  /-- transfer-order position of its first byte -/
  pos : Nat := 0
  /-- the bytes of a write that come from no local place: a FILL's, or those a remote read brought -/
  data : Option (List Byte) := none
  /-- remote address a read's bytes go on to -/
  fwd : Option Nat := none
  /-- issued, and in its slot -/
  issued : Bool := false
  deriving DecidableEq, Repr

/-- A deferred remote operation of a committed command, not yet issued (R111, R293). -/
structure CommitOp where
  /-- tag of the command -/
  tag : Nat
  /-- MOP: STORE, ADD or SWAP -/
  mop : Nat
  addr : Nat
  val : Nat
  tenant : Nat
  deriving DecidableEq, Repr

/-- What one link die keeps for the MSF, the RAE and the EGR (R284, R302, R334, R357). -/
structure LinkDie where
  /-- window table, 2,048 entries of 256 bits [R284; DESIGN CHOICE 0, not VALID (log 1)] -/
  windows : Tbl Nat := []
  /-- MSF_CFG.TIMEOUT_US [R302; 17 bits; reset 2,000] -/
  timeoutUs : Nat := 2000
  /-- TXN slots 0 to 4,095 [R298, R302; reset free] -/
  txn : Tbl Txn := []
  /-- MSF_CNT.TIMEOUTS [R302; 32 bits saturating; reset 0x0] -/
  timeouts : Nat := 0
  /-- MSF_CNT.LATE_RESP [R302; 32 bits saturating; reset 0x0] -/
  lateResp : Nat := 0
  /-- MSF_REFUSED.REFUSED_OUT [R302; 32 bits saturating; reset 0x0] -/
  refusedOut : Nat := 0
  /-- MSF_REFUSED.REFUSED_IN [R302; 32 bits saturating; reset 0x0] -/
  refusedIn : Nat := 0
  /-- MSF_FAULT.VALID [R302; W1C; reset 0] -/
  faultValid : Bool := false
  /-- MSF_FAULT.CAUSE [R302; 8 bits; reset 0x00] -/
  faultCause : Nat := 0
  /-- MSF_FAULT.DEST [R302; 12 bits; reset 0x000] -/
  faultDest : Nat := 0
  /-- MSF_FAULT.AGENT [R302; 24 bits; reset 0x0] -/
  faultAgent : Nat := 0
  /-- MSF_FAULT_ADDR [R302; 48 bits; reset 0x0] -/
  faultAddr : Nat := 0
  /-- TBL_DATA0 to 3 of the MSF as one word [R302; 256 bits; reset 0x0] -/
  tblData : Nat := 0
  /-- TBL_STATUS.REJECT, DONE of the MSF [R302; W1C; reset 0] -/
  tblReject : Bool := false
  tblDone : Bool := false
  /-- received requests that wait for an earlier write of their source [R295; reset none] -/
  msfIn : List Pkt := []
  /-- RAE_CNT.DUP [R334; 32 bits saturating; reset 0x0] -/
  dup : Nat := 0
  /-- RAE_CNT.RETRANS [R334; 32 bits saturating; reset 0x0] -/
  retrans : Nat := 0
  /-- RAE_CNT2.FILLS [R334; 32 bits saturating; reset 0x0] -/
  fills : Nat := 0
  /-- RAE_CNT2.SPILLS [R334; 16 bits saturating; reset 0x0] -/
  spills : Nat := 0
  /-- RAE_CNT2.MISS_DROP [R334; 16 bits saturating; reset 0x0] -/
  missDrop : Nat := 0
  /-- RAE_ERR.CONN_ERRORS [R334; 16 bits saturating; reset 0x0] -/
  connErrors : Nat := 0
  /-- RAE_ERR.NOT_READY [R334; 16 bits saturating; reset 0x0] -/
  notReady : Nat := 0
  /-- RAE_ERR.CQ_HOLD [R334; 16 bits saturating; reset 0x0] -/
  cqHold : Nat := 0
  /-- RAE_ERR.LATE_RESP [R334; 16 bits saturating; reset 0x0] -/
  raeLate : Nat := 0
  /-- RAE_CONN_STATUS.REJECT, DONE [R334; W1C; reset 0] -/
  connReject : Bool := false
  connDone : Bool := false
  /-- connection whose RESET waits for its flush completions: RAE_CONN_STATUS.BUSY [R334; reset none] -/
  resetting : Option Nat := none
  /-- RAE_REVOKE_STATUS.REJECT, DONE [R334; W1C; reset 0] -/
  revReject : Bool := false
  revDone : Bool := false
  /-- miss queue, at most 256 packets [R308; reset empty] -/
  miss : List Pkt := []
  /-- policers 0 to 4,095 [R352; reset as `Policer`] -/
  pols : Tbl Policer := []
  /-- tenant map, 65,536 entries of 32 bits [R352; DESIGN CHOICE 0, not VALID (log 1)] -/
  tmap : Tbl Nat := []
  /-- EGR_CHECKS.FAILS [R357; 32 bits saturating; reset 0x0] -/
  egrFails : Nat := 0
  /-- TBL_DATA0 to 3 of the EGR [R357; 256 bits; reset 0x0] -/
  egrData : Nat := 0
  /-- TBL_STATUS.REJECT, DONE of the EGR [R357; W1C; reset 0] -/
  egrReject : Bool := false
  egrDone : Bool := false
  deriving DecidableEq, Repr

/-! ## The RAE -/

/-- CSTATE (R305). -/
inductive CState where
  | reset | ready | error
  deriving DecidableEq, Repr

/-- A work entry taken and not completed (R309 to R312). -/
structure WorkEntry where
  /-- serial number in its connection -/
  id : Nat
  /-- send queue, die x 256 + q -/
  sq : Nat
  /-- the 64-byte entry -/
  raw : Nat
  /-- messages not yet complete -/
  left : Nat
  /-- bytes whose messages completed -/
  bytes : Nat := 0
  deriving DecidableEq, Repr

/-- A message sent and not known complete (R311, R315, R317). -/
structure OutMsg where
  msn : Nat
  /-- work entry it belongs to -/
  entry : Nat
  ptype : Nat
  /-- packets minus one -/
  npktM1 : Nat
  imm : Option Nat := none
  journal : Bool := false
  /-- bytes 0x14 to 0x1D of the body -/
  body : Nat := 0
  /-- local address of its first byte, and its data bytes -/
  loc : Nat
  len : Nat
  /-- MAP_EPOCH its packets carry (R412) -/
  epoch : Nat
  /-- next packet never sent before -/
  nextP : Nat := 0
  /-- packets to send again, in order -/
  resend : List Nat := []
  /-- packets now in an egress queue -/
  inQ : List Nat := []
  /-- packets sent: index, link, LTU time -/
  sent : List (Nat × Nat × Nat) := []
  /-- packets shown as placed in the latest RQ_ACK, or read data placed here [bit map] -/
  placed : Nat := 0
  /-- an RQ_ACK has reported the message -/
  reported : Bool := false
  /-- LTU time its RTO runs from -/
  rtoFrom : Option Nat := none
  retries : Nat := 0
  deriving DecidableEq, Repr

/-- An inbound message that is open, or complete and above BASE (R315). -/
structure InMsg where
  msn : Nat
  npktM1 : Nat
  bitmap : Nat := 0
  done : Bool := false
  imm : Option Nat := none
  /-- a NOTIFY: its one packet is the immediate's -/
  bytes : Nat := 0
  /-- its completion is withheld for a full RCQ (R313) -/
  held : Bool := false
  /-- the GTAG of a graft message -/
  gtag : Option Nat := none
  journal : Bool := false
  /-- landing slot of a GRAFT_FRAME message, and the page it restores (R326) -/
  slot : Option Nat := none
  page : Nat := 0
  deriving DecidableEq, Repr

/-- One connection: its descriptor as activated and its hardware state (R304 to R320). -/
structure Conn where
  /-- CSTATE [R305; 8 bits; reset RESET] -/
  state : CState := .reset
  /-- DEST [R305; 12 bits] -/
  dest : Nat := 0
  /-- TENANT [R305; 16 bits] -/
  tenant : Nat := 0
  /-- RCONN [R305; 20 bits] -/
  rconn : Nat := 0
  /-- QUEUE [R305; 3 bits] -/
  queue : Nat := 0
  /-- CFLAGS.HOME [R305; 1 bit] -/
  home : Nat := 0
  /-- CFLAGS.CONTROL [R305; 1 bit] -/
  control : Bool := false
  /-- RETRY_MAX [R305; 8 bits] -/
  retryMax : Nat := 7
  /-- WIN_INIT, WIN_MAX [R305; 16 bits each] -/
  winInit : Nat := 64
  winMax : Nat := 64
  /-- PATHS [R305; 36 bits] -/
  paths : Nat := 0
  /-- RTO_US [R305; 32 bits] -/
  rtoUs : Nat := 1000
  /-- RCQ [R305; 9 bits] -/
  rcq : Nat := 0
  /-- the context stands in its link die's cache (R308) -/
  cached : Bool := false
  /-- LTU time of its last use (R308) -/
  used : Nat := 0
  /-- next MSN to send [R311; 16 bits; 0 at activation] -/
  nextMsn : Nat := 0
  /-- serial number of the next work entry -/
  nextEntry : Nat := 0
  /-- work entries taken and not completed, oldest first -/
  entries : List WorkEntry := []
  /-- messages waiting for a place among the 64, oldest first (R317) -/
  backlog : List OutMsg := []
  /-- unacknowledged messages, oldest first, at most 64 (R317) -/
  out : List OutMsg := []
  /-- READ data to send, oldest first (R316) -/
  resp : List ReadData := []
  /-- window in 1/65,536 packet [R318; WIN_INIT at activation] -/
  window : Nat := 0
  /-- SRTT in ticks [R318] -/
  srtt : Nat := 0
  /-- hold_until [R318] -/
  holdUntil : Nat := 0
  /-- the link the last packet took, for the rotation (R317) -/
  lastLink : Nat := 35
  /-- BASE of the inbound window [R315; 16 bits; 0 at activation] -/
  base : Nat := 0
  /-- inbound messages open, or complete above BASE -/
  inm : List InMsg := []
  /-- packets received with ECN set since the last acknowledgement (R316) -/
  ecn : Nat := 0
  /-- LTU time of the first packet received since the last acknowledgement (R316) -/
  ackFrom : Option Nat := none
  /-- status with which it entered ERROR (R25, R320) -/
  errStatus : Nat := 0
  deriving DecidableEq, Repr

/-- One send queue (R309, R334). -/
structure SendQ where
  /-- SQ_CFG.BASE, the address [R334; 48 bits; reset 0x0] -/
  base : Nat := 0
  /-- SQ_CFG.LOG2 [R334; 4 bits; reset 4] -/
  log2 : Nat := 4
  /-- SQ_CFG.CQ [R334; 8 bits; reset 0x00] -/
  cq : Nat := 0
  /-- SQ_PTR.HEAD [R334; 16 bits; reset 0x0] -/
  head : Nat := 0
  /-- SQ_PTR.TAIL [R334; 16 bits; reset 0x0] -/
  tail : Nat := 0
  /-- SQ_EN.ENABLE [R334; 1 bit; reset 0] -/
  enable : Bool := false
  /-- entries taken from it and not completed (R319) -/
  open_ : Nat := 0
  deriving DecidableEq, Repr

/-- One completion queue (R309, R334). -/
structure CplQ where
  /-- CQ_CFG.BASE, the address [R334; 48 bits; reset 0x0] -/
  base : Nat := 0
  /-- CQ_CFG.LOG2 [R334; 4 bits; reset 4] -/
  log2 : Nat := 4
  /-- CQ_CFG.IRQ [R334; 1 bit; reset 0] -/
  irq : Bool := false
  /-- CQ_PTR.HEAD [R334; 16 bits; reset 0x0] -/
  head : Nat := 0
  /-- CQ_PTR.TAIL [R334; 16 bits; reset 0x0] -/
  tail : Nat := 0
  /-- completions of entries taken before the queue filled, in order [R313; reset none] -/
  due : List Nat := []
  deriving DecidableEq, Repr

/-! ## The graft engine -/

/-- Where a graft stands (R328 to R333). -/
inductive GPhase where
  /-- OPEN sent, no answer yet -/
  | opening
  /-- open: data moves -/
  | moving
  /-- COMMIT sent, or received and waiting for open messages -/
  | committing
  /-- committed or acknowledged -/
  | done
  /-- its connection failed, its peer went or it was refused: firmware's reaction is due (R32) -/
  | failed
  deriving DecidableEq, Repr

/-- The kinds of graft (R328): PULL is the owner's or the holder's side of a pull. -/
inductive GMode where
  | push | handover | park | pull
  deriving DecidableEq, Repr

/-- Work of a graft still to be posted (R324 to R326). -/
inductive GWork where
  /-- a plot as GRAFT_DATA, by its page number in the range -/
  | page (page : Nat) (p : Place)
  /-- journal bytes: offset / 4,096, physical address, bytes -/
  | journal (page addr len : Nat)
  /-- a plot as one GRAFT_FRAME; its stored bytes as they stand, when `len` is not 0 -/
  | frame (page : Nat) (p : Place) (len : Nat)
  deriving DecidableEq, Repr

/-- A graft this device sends or receives (R324 to R335). -/
structure Graft where
  /-- this device sends -/
  send : Bool
  mode : GMode
  /-- request index here; a holder's record is named by REQ_ID -/
  req : Nat := 0
  reqId : Nat := 0
  tenant : Nat := 0
  peer : Nat := 0
  /-- GTAG [R327; 16 bits] -/
  gtag : Nat := 0
  /-- DREQ: the receiver's request index [R327; 17 bits] -/
  dreq : Nat := 0
  /-- ownership epoch it was opened under [R18] -/
  epoch : Nat := 0
  /-- map epoch it was opened under [R412] -/
  mapEpoch : Nat := 0
  phase : GPhase := .opening
  /-- landing credits left to the sender; slots granted by the receiver [R326] -/
  credits : Nat := 0
  /-- data connection -/
  conn : Option Nat := none
  /-- work still to be posted, oldest first -/
  todo : List GWork := []
  /-- its frames pass the compressor (R326) -/
  compress : Bool := false
  /-- landing slots granted, at a receiver [R326] -/
  slots : List Nat := []
  /-- whole frames that wait in their slots for room: page, slot, bytes [R211, R326] -/
  waiting : List (Nat × Nat × Nat) := []
  /-- work entries posted and not completed -/
  flying : Nat := 0
  /-- journal bytes whose messages have completed here [R331] -/
  jgot : Nat := 0
  /-- pages whose frames or data have arrived, by page number -/
  got : List Nat := []
  /-- a received COMMIT that waits for open messages [R330] -/
  commit : Option GRec := none
  /-- LTU time at which that COMMIT was received [R31] -/
  commitAt : Nat := 0
  /-- a handover for re-prefill on this device or the peer [R47] -/
  reprefill : Bool := false
  /-- the answer sent, for a duplicate OPEN or COMMIT [R333] -/
  answered : Option Nat := none
  /-- COMMIT may be sent once everything has been acknowledged -/
  lastPosted : Bool := false
  /-- fields of the OPEN that opened it, at a receiver [R328] -/
  rec_ : Option GRec := none
  /-- LTU time of the graft's start, for its deadline remainder [R31] -/
  started : Nat := 0
  deriving DecidableEq, Repr

/-- The fabric as a whole (R287, R303, R321, R335). -/
structure Fabric where
  /-- links L0 to L35 [R266; reset as `Link`] -/
  links : Tbl Link := []
  /-- LD0 and LD1 [R302, R334, R357; reset as `LinkDie`] -/
  lds : Tbl LinkDie := []
  /-- region table, 16,384 entries of 256 bits, both dies' copies alike [R287; DESIGN CHOICE 0, FREE (log 1)] -/
  regions : Tbl Nat := []
  /-- peer entries by FABRIC_ID, 256 bits [R303; DESIGN CHOICE 0, UNKNOWN (log 1)] -/
  peers : Tbl Nat := []
  /-- the local HELLO record, three parts of 256 bits [R274, R302; DESIGN CHOICE 0 (log 1)] -/
  local_ : Nat := 0
  /-- last HELLO record received from a peer, by FABRIC_ID [R277; reset none] -/
  helloRec : Tbl Nat := []
  /-- HELLO REQUESTs to a peer behind a switch without a REPLY: tries and LTU time of the last [R273; reset none] -/
  helloPeer : Tbl (Nat × Nat) := []
  /-- management messages received for firmware, oldest first: source and bytes [R270, R271; reset none] -/
  mgmtIn : List (Nat × List Byte) := []
  /-- KEY_EPOCH [R321, R334; 16 bits; reset 0x0] -/
  keyEpoch : Nat := 0
  /-- region being revoked: RAE_REVOKE_STATUS.BUSY [R321, R334; reset not busy] -/
  revoking : Option Nat := none
  /-- connections by CONN [R304; reset RESET] -/
  conns : Tbl Conn := []
  /-- send queues, die x 256 + q [R309; reset as `SendQ`] -/
  sqs : Tbl SendQ := []
  /-- completion queues, die x 256 + q [R309; reset as `CplQ`] -/
  cqs : Tbl CplQ := []
  /-- bursts of DMA transfers [R215, R294; reset none] -/
  bursts : List Burst := []
  /-- deferred remote operations not yet issued, in order [R111, R293; reset none] -/
  commitOps : List CommitOp := []
  /-- value the last control-core operation returned [R293, R294; 64 bits; DESIGN CHOICE 0 (log 1)] -/
  ctlResult : Nat := 0
  /-- harts whose last remote load or atomic took a precise access fault [R293; reset none] -/
  ctlFault : BitVec 8 := 0#8
  /-- harts with the MSF interrupt of a store that failed, until MSF_FAULT is cleared [R293; reset none] -/
  msfIrq : BitVec 8 := 0#8
  /-- grafts open, sending or receiving [R335; reset none] -/
  grafts : List Graft := []
  /-- next GTAG [R327; DESIGN CHOICE 1 (log 1)] -/
  nextGtag : Nat := 1
  /-- landing slots free, LAND_FREE [R335; 8 bits; reset 0x00] -/
  landFree : Nat := 0
  /-- GRAFT_CFG.LAND_CREDITS [R335; 8 bits; reset 16] -/
  landCredits : Nat := 16
  /-- GRAFT_CFG.LAND_SLOTS [R335; 8 bits; reset 64] -/
  landSlots : Nat := 64
  /-- GRAFT_CNT.COMMITTED [R335; 32 bits saturating; reset 0x0] -/
  gCommitted : Nat := 0
  /-- GRAFT_CNT.ABORTED [R335; 16 bits saturating; reset 0x0] -/
  gAborted : Nat := 0
  /-- GRAFT_CNT.REFUSED [R335; 16 bits saturating; reset 0x0] -/
  gRefused : Nat := 0
  /-- GRAFT_BYTES [R335; 64 bits saturating; reset 0x0] -/
  gBytes : Nat := 0
  /-- control records that wait for a send queue: (peer, map epoch, record, GKIND), oldest first [R327; reset none] -/
  ctlOut : List (Nat × Nat × GRec × Nat) := []
  /-- buffers used so far for records and for frames (the model's own; DESIGN CHOICE 0 (log 36)) -/
  nextRec : Nat := 0
  nextFrame : Nat := 0
  deriving DecidableEq, Repr

end Sys2Proof.Machine
end

