-- ==== Sys2Proof/Machine/HostState.lean ====
section
/-!
DEFINITION. Sys2Proof/Machine/HostState.lean: the state of the rings, the request engine, the host port, the map, the
configuration versions and the fault collector.

Every structure's default value is its reset value; the bracket of each field's docstring names the rule, the width
and the reset value.
-/
namespace Sys2Proof.Machine

/-! ## Rings (11) -/

/-- Ring kinds (R358). -/
inductive RingKind where
  | submission | completion | token | event
  deriving DecidableEq, Repr

/-- RSTATE (R359). -/
inductive RState where
  | free | active | halted | bound | draining
  deriving DecidableEq, Repr

/-- A ring as its descriptor holds it, and what the ring engine knows beside it (R359, R364 to R366, R440). -/
structure Ring where
  /-- KIND [R359; 8 bits; reset none: an unused number is FREE] -/
  kind : RingKind := .submission
  /-- RSTATE [R359; 8 bits; reset FREE] -/
  rstate : RState := .free
  /-- LD [R359; 4 bits] -/
  ld : Nat := 0
  /-- LOG2 [R359; 8 bits] -/
  log2 : Nat := 4
  /-- VECTOR [R359; 11 bits] -/
  vector : Nat := 0
  /-- VECTOR.IRQ [R359; 1 bit] -/
  irq : Bool := false
  /-- RFLAGS.LOC is WINDOW [R359; 1 bit] -/
  window : Bool := false
  /-- BASE [R359; 64 bits] -/
  base : Nat := 0
  /-- HEAD [R359, R360; 32 bits] -/
  head : Nat := 0
  /-- TAIL [R359, R360; 32 bits] -/
  tail : Nat := 0
  /-- BIND [R359; 18 bits] -/
  bind : Nat := 0
  /-- TENANT [R359; 16 bits] -/
  tenant : Nat := 0xFFFF
  /-- COALESCE_US [R359; 16 bits] -/
  coalesceUs : Nat := 0
  /-- RESV [R359; 32 bits] -/
  resv : Nat := 0
  /-- the state a HALTED ring was in, to which a resume returns it (R364; DEDUCED, log 16) -/
  was : RState := .active
  /-- takes no more entries: RING_CMD DISABLE, RMP_RING_DESTROY or a binding change (R397, R411, R422) -/
  disabled : Bool := false
  /-- an RMP_RING_DESTROY waits for the operations taken from the ring (R422) -/
  destroying : Bool := false
  /-- operations taken from the ring whose completion is not posted (R422) -/
  taken : Nat := 0
  /-- entries due on a full or HALTED completion ring, in order, PHASE and CRC apart (R365) -/
  due : List Nat := []
  /-- events dropped since the last EVENT_LOST entry (R365) -/
  lost : Nat := 0
  /-- LTU time of the last interrupt (R440) -/
  lastIrq : Option Nat := none
  /-- entries written and not announced (R440) -/
  unannounced : Bool := false
  deriving DecidableEq, Repr

/-- The registers of the RING block and the engine's turn (R364, R397). -/
structure RingRegs where
  /-- RING_HALT.VALID [R397; W1C; reset 0] -/
  haltValid : Bool := false
  /-- RING_HALT.CAUSE [R397; 4 bits; reset 0] -/
  haltCause : Nat := 0
  /-- RING_HALT.RING [R397; 18 bits; reset 0] -/
  haltRing : Nat := 0
  /-- SUB_TAKEN [R397; 32 bits saturating; reset 0] -/
  subTaken : Nat := 0
  /-- CPL_POSTED [R397; 32 bits saturating; reset 0] -/
  cplPosted : Nat := 0
  /-- TOKENS [R397; 32 bits saturating; reset 0] -/
  tokens : Nat := 0
  /-- EVENTS_LOST [R397; 16 bits saturating; reset 0] -/
  eventsLost : Nat := 0
  /-- BAD_DOORBELL [R397; 8 bits saturating; reset 0] -/
  badDoorbell : Nat := 0
  /-- CPL_STALLS [R397; 8 bits saturating; reset 0] -/
  cplStalls : Nat := 0
  /-- RING_CMD_STATUS.REJECT [R397; W1C; reset 0] -/
  cmdReject : Bool := false
  /-- RING_CMD_STATUS.DONE [R397; W1C; reset 0] -/
  cmdDone : Bool := false
  /-- submission rings served in the present turn of the round robin [R364; reset none] -/
  turn : List Nat := []
  deriving DecidableEq, Repr

/-! ## Tags, groups and steps (11) -/

/-- The states of R115 as the request engine sees them. -/
inductive TagSt where
  | queued | running | ended | committing | committed | killed | failed
  deriving DecidableEq, Repr

/-- One of the 1,024 command tags (R378, R117, R388). -/
structure Tag where
  /-- the tag is held [R378; reset free] -/
  held : Bool := false
  /-- tag of the group's first member -/
  group : Nat := 0
  /-- tile the command was delivered to -/
  tile : Nat := 0
  /-- its tile command descriptor -/
  desc : Nat := 0
  st : TagSt := .queued
  /-- completion status (R118, R375) -/
  status : Nat := 0
  /-- drain count [R117, R396; 16 bits; reset 0] -/
  drain : Nat := 0
  /-- killed and to be re-run (R388) -/
  rerun : Bool := false
  /-- LTU time it entered RUNNING (R394) -/
  start : Nat := 0
  /-- the model slot and table descriptor its tile pinned (R253, R254) -/
  pin : Option (Nat × Nat) := none
  /-- its completion is posted and firmware has not matched it (R116, R379) -/
  posted : Bool := false
  /-- the argument block of its instance, which goes to ARGS in the resident region (R428) -/
  args : List Byte := []
  deriving DecidableEq, Repr

/-- The kinds of batch (R380, R428). -/
inductive BatchKind where
  | decode | verify | prefill | recompute
  deriving DecidableEq, Repr

/-- One request's part in a batch: positions `first` to `first + len - 1` are written (R148), `w` ring entries are
reserved (R382). -/
structure Work where
  req : Nat
  first : Nat
  len : Nat
  w : Nat
  /-- the token ring the room is reserved on -/
  ring : Nat
  /-- its request has gone: its publications are discarded at commit (R387) -/
  dead : Bool := false
  deriving DecidableEq, Repr

/-- What the commit unit copied from a group's tiles and found at its check (R116, R386). -/
structure CommitCopy where
  /-- deferred operations with the member's tag and tile, in the order they are performed -/
  defs : List (Nat × Nat × Deferred)
  /-- publication entries, member by member -/
  pubs : List Nat
  /-- tokens that SAMPLE and ACCEPT gave, with their log-probabilities (R371) -/
  lps : List (Nat × Nat × Bool)
  /-- requests whose deadline had passed (R386) -/
  missed : List Nat
  deriving DecidableEq, Repr

/-- A group of commands, keyed by its first member's tag (R113, R116, R388). -/
structure Group where
  members : List Nat := []
  kind : BatchKind := .decode
  works : List Work := []
  slot : Nat := 0
  tenant : Nat := 0
  cfg : Nat := 0
  step : Nat := 0
  /-- position of its commands in the batch's plan (R388) -/
  planPos : Nat := 0
  /-- times it was pre-empted (R389) -/
  preempts : Nat := 0
  /-- a DISPATCH record has no COMMIT or END record yet (R461, R462) -/
  open_ : Bool := true
  status : Nat := 0
  /-- a prompt chunk of the requests' draft model (R35) -/
  draft : Bool := false
  /-- GROUP_REPLAYED is posted for the present stop (R462, R472) -/
  replayed : Bool := false
  /-- between its commit record and the end of step 5 (R116) -/
  copy : Option CommitCopy := none
  deriving DecidableEq, Repr

/-- The kinds of command-journal record (R461). -/
inductive JKind where
  | dispatch | commit | ended
  deriving DecidableEq, Repr

/-- One command-journal record (R461): header fields and what its body names. -/
structure JRec where
  kind : JKind
  group : Nat
  step : Nat
  /-- PLAN_POS: plan position, deferred operations performed, or status -/
  planPos : Nat
  members : List Nat
  reqs : List Nat
  /-- DISPATCH: the members' descriptors (R113) -/
  descs : List Nat
  /-- COMMIT: the copied publication entries (R116) -/
  pubs : List Nat
  /-- COMMIT: the copied deferred queues with the members' tags and tiles (R116, R461) -/
  defs : List (Nat × Nat × Deferred)
  deriving DecidableEq, Repr

/-- The registers of the REQ block (R396) and the scheduler's own counts (R380, R394). -/
structure ReqRegs where
  /-- STEP_NUM [R396; 64 bits; reset 0] -/
  step : Nat := 0
  /-- steps in flight, oldest first [R380; reset none] -/
  inFlight : List Nat := []
  /-- ADMITTED [R396; 32 bits saturating; reset 0] -/
  admitted : Nat := 0
  /-- ENDED [R396; 32 bits saturating; reset 0] -/
  ended : Nat := 0
  /-- COMMITS [R396; 32 bits saturating; reset 0] -/
  commits : Nat := 0
  /-- KILLS [R396; 16 bits saturating; reset 0] -/
  kills : Nat := 0
  /-- PREEMPTS [R396; 16 bits saturating; reset 0] -/
  preempts : Nat := 0
  /-- LATE [R396; 32 bits saturating; reset 0] -/
  late : Nat := 0
  /-- MISSED [R396; 32 bits saturating; reset 0] -/
  missed : Nat := 0
  /-- KILL_STATUS.REJECT [R396; W1C; reset 0] -/
  killReject : Bool := false
  /-- KILL_STATUS.DONE [R396; W1C; reset 0] -/
  killDone : Bool := false
  /-- KILL_STATUS.BUSY: the group being killed, and whether R389 chose it [R396, R388; reset not busy] -/
  killBusy : Option (Nat × Bool) := none
  /-- TAG_DRAIN.TAG [R396; 10 bits; reset 0] -/
  drainTag : Nat := 0
  /-- number of the running slow-down period [R394; reset 0] -/
  slowPeriod : Nat := 0
  /-- LTU time the period began [R394; reset 0] -/
  slowStart : Nat := 0
  deriving DecidableEq, Repr

/-- One tenant's accounting counters (R391, R392). -/
structure Acct where
  /-- SEQ [R392; 32 bits wrapping; DESIGN CHOICE 0 (log 1)] -/
  seq : Nat := 0
  /-- CT_ACLK, BT_ACLK, BAU_ACLK, PREEMPT_ACLK [R392; 64 bits wrapping; DESIGN CHOICE 0 (log 1)] -/
  ctAclk : Nat := 0
  btAclk : Nat := 0
  bauAclk : Nat := 0
  preemptAclk : Nat := 0
  /-- COMMITTED, KILLED, FAILED, TOKENS, RECOMPUTED [R392; 64 bits; DESIGN CHOICE 0 (log 1)] -/
  committed : Nat := 0
  killed : Nat := 0
  failed : Nat := 0
  tokens : Nat := 0
  recomputed : Nat := 0
  /-- T1_RD, T1_WR, T2_RD, T2_WR, T3_RD, T3_WR by 0 to 5 [R392; 64 bits; DESIGN CHOICE 0 (log 1)] -/
  bytes : Tbl Nat := []
  /-- ENERGY_UJ [R392; 64 bits; DESIGN CHOICE 0 (log 1)] -/
  energy : Nat := 0
  /-- LINK_TX and LINK_RX by link [R392; 64 bits; DESIGN CHOICE 0 (log 1)] -/
  tx : Tbl Nat := []
  rx : Tbl Nat := []
  /-- SLOW_RATIO, SLOW_PERIODS, SLOW_ACT, SLOW_EST of the last period [R392; DESIGN CHOICE 0 (log 1)] -/
  slowRatio : Nat := 0
  slowPeriods : Nat := 0
  slowAct : Nat := 0
  slowEst : Nat := 0
  /-- sums of the running period (R394) -/
  curAct : Nat := 0
  curEst : Nat := 0
  curCmds : Nat := 0
  /-- the slow flag [R395; reset clear] -/
  slow : Bool := false
  /-- the last rewrite of the 1,024-byte record [R393; DESIGN CHOICE 0 (log 1)] -/
  record : Nat := 0
  deriving DecidableEq, Repr

/-! ## Logical devices, mailboxes and the map (12) -/

/-- One mailbox (R405, R416, R418). -/
structure Mailbox where
  /-- MB_CTRL.GO [R405; 1 bit; reset 0] -/
  go : Bool := false
  /-- MB_STATUS.REJECT [R405; W1C; reset 0] -/
  reject : Bool := false
  /-- MB_STATUS.DONE [R405; W1C; reset 0] -/
  done : Bool := false
  /-- MB_STATUS.BUSY [R405; 1 bit; reset 0] -/
  busy : Bool := false
  /-- the message firmware took, whole, while BUSY [R418, R419; reset none] -/
  msg : Nat := 0
  /-- the LD was unbound or reset while BUSY: the reply is discarded (R407, R438) -/
  abandoned : Bool := false
  /-- the message is begun and its reply waits: a checkpoint for its boundary, a qualification for its runs
  [R464, R465; reset no] -/
  waits : Bool := false
  deriving DecidableEq, Repr

/-- One logical device (R403 to R408, R442). -/
structure LDev where
  /-- mailboxes 0 to 8 [R405; reset as `Mailbox`] -/
  mbs : Tbl Mailbox := []
  /-- MB_VECTOR.ENABLE [R405; 1 bit; reset 0] -/
  mbVecEn : Bool := false
  /-- MB_VECTOR.VECTOR [R405; 11 bits; reset 0] -/
  mbVec : Nat := 0
  /-- MSIX_PBA, pending vectors [R405; 2,048 bits; reset 0] -/
  pba : List Nat := []
  /-- MSI-X table, 128 bits by vector; an absent entry is masked [R404; PRESUMED masked, the rest 0 (log 17)] -/
  msix : Tbl Nat := []
  /-- BOUND [R442, R405; 1 bit; reset 1] -/
  bound : Bool := true
  /-- HOST_ID of the current map [R408; 64 bits; reset 0] -/
  host : Nat := 0
  /-- WIN_BASE in 256 MiB units [R442; 8 bits; reset 0] -/
  winBase : Nat := 0
  /-- WIN_UNITS [R442; 9 bits; reset 0] -/
  winUnits : Nat := 0
  /-- DECODER [R442; 1 bit; reset 0] -/
  decoder : Bool := false
  /-- QoS allocated-bandwidth fraction and limit [R408; 8 bits each; DESIGN CHOICE 0 (log 1)] -/
  qosAlloc : Nat := 0
  qosLimit : Nat := 0
  deriving DecidableEq, Repr

/-- One peer of the composition map (R410). -/
structure MapPeer where
  fabricId : Nat
  prompt : Bool
  generation : Bool
  cache : Bool
  deriving DecidableEq, Repr

/-- The composition map and its epochs (R408 to R414). -/
structure CMap where
  /-- CUR [R442; 16 bits; reset 0] -/
  cur : Nat := 0
  /-- OLD, while an old epoch is retained [R442; 16 bits; reset none] -/
  old : Option Nat := none
  /-- peers of the current map; none under epoch 0, when every peer counts as present [R408] -/
  peers : List MapPeer := []
  /-- peers of the old map -/
  oldPeers : List MapPeer := []
  /-- the payload of the map as it was set, for RMP_MAP_GET [R410; reset 0] -/
  payload : Nat := 0
  deriving DecidableEq, Repr

/-- A configuration image held in a version slot (R429 to R432). -/
structure CfgImg where
  version : Nat
  /-- image bytes, little-endian -/
  bytes : List Byte
  deriving DecidableEq, Repr

/-- A commit condition (R434). -/
inductive CommitWhen where
  | step | time (at_ : Nat)
  deriving DecidableEq, Repr

/-- The fields of the DEVICE section in force (R432); before the first version, the defaults of the rules named. -/
structure DevCfg where
  /-- PERSONALITY [R432, R3; 4 bits; reset 0: none] -/
  personality : Nat := 0
  /-- COMPAT_5100 [R432; 1 bit; reset 0] -/
  compat : Bool := false
  /-- FABRIC_ID [R405; 12 bits; reset 0] -/
  fabricId : Nat := 0
  /-- ADMIN_LD [R384; 4 bits; default 0] -/
  adminLd : Nat := 0
  /-- STEPS_IN_FLIGHT [R384; default 2] -/
  stepsInFlight : Nat := 2
  /-- PREEMPT_ENABLE [R384; default 1] -/
  preemptEnable : Bool := true
  /-- KILL_MAX [R384; default 3] -/
  killMax : Nat := 3
  /-- STEP_TARGET_US [R384; default 250] -/
  stepTargetUs : Nat := 250
  /-- SLOW_THRESHOLD [R384; default 0x00018000] -/
  slowThreshold : Nat := 0x18000
  /-- SLOW_CLEAR [R384; default 0x00014000] -/
  slowClear : Nat := 0x14000
  /-- SLOW_MIN_ACLK [R384; default 800,000] -/
  slowMinAclk : Nat := 800000
  /-- SWING_ENABLE, SWING_MIN_PREFILL, SWING_STEP_MAX, SWING_HOLD_STEPS, SWING_LEND_BELOW, SWING_RECLAIM_ABOVE
  [R49; defaults of R49] -/
  swingEnable : Bool := true
  swingMinPrefill : Nat := 4
  swingStepMax : Nat := 4
  swingHoldSteps : Nat := 32
  swingLendBelow : Nat := 4096
  swingReclaimAbove : Nat := 16384
  /-- PRUNE_GRACE_STEPS [R155; default 64] -/
  pruneGrace : Nat := 64
  /-- REBALANCE_PLOTS [R208; default 256] -/
  rebalance : Nat := 256
  /-- WEAR_SPREAD [R226; default 1,000] -/
  wearSpread : Nat := 1000
  /-- READ_DISTURB_LIMIT [R226; default 50,000] -/
  readDisturb : Nat := 50000
  /-- REFRESH_HOURS [R226; default 720] -/
  refreshHours : Nat := 720
  /-- PROMPT_PEERS [R432; eight IDs; default none] -/
  promptPeers : List Nat := []
  /-- CHSET_SHORT_MAX [R432; default 32,768] -/
  chsetShortMax : Nat := 32768
  deriving DecidableEq, Repr

/-- Configuration versions (R429 to R437). -/
structure CfgState where
  /-- current version and its image [R442; reset 0: none] -/
  current : Option CfgImg := none
  /-- staged version [R442; reset 0: none] -/
  staged : Option CfgImg := none
  /-- previous version while DRAINING [R442; reset 0: none] -/
  prev : Option CfgImg := none
  /-- commit condition of the staged version [R442, R434; reset none] -/
  cond : Option CommitWhen := none
  /-- the FABRIC section in force [R431; reset none] -/
  fabric : Option (List Byte) := none
  /-- DEVICE fields of the current version -/
  dev : DevCfg := {}
  /-- DEVICE fields of the previous version, for requests bound to it (R436) -/
  prevDev : DevCfg := {}
  /-- the version slot, 0 or 1, of the current version; the other one takes the next (R429) -/
  slot : Nat := 1
  /-- DEF_CQ and EVENT_RING by LD [R384; default none] -/
  defCq : Tbl Nat := []
  eventRing : Tbl Nat := []
  deriving DecidableEq, Repr

/-- DEV_STATE.STATE (R405). -/
inductive DevState where
  | booting | ready | halted | recovery
  deriving DecidableEq, Repr

/-- The CXL port and its counters (R399, R403, R442). -/
structure CxlPort where
  /-- RATE [R442; 8 bits; reset 0] -/
  rate : Nat := 0
  /-- WIDTH [R442; 5 bits; reset 0] -/
  width : Nat := 0
  /-- MLD [R442; 1 bit; reset 0] -/
  mld : Bool := false
  /-- STATE [R442; 2 bits; reset DOWN 0] -/
  state : Nat := 0
  /-- Memory_Active of the DVSEC [R399; 1 bit; reset 0] -/
  memActive : Bool := false
  /-- configuration space is set up: CRS ends [R399; reset no] -/
  cfgReady : Bool := false
  /-- CACHE_READS [R442; 32 bits saturating; reset 0] -/
  cacheReads : Nat := 0
  /-- HOST_WR_FAIL [R442; 16 bits saturating; reset 0] -/
  hostWrFail : Nat := 0
  /-- FLR [R442; 16 bits saturating; reset 0] -/
  flr : Nat := 0
  /-- what the last CXL.mem read returned: its bytes, or poison [R400, R415; DESIGN CHOICE poison (log 1)] -/
  memRead : Option (List Byte) := none
  /-- QoS control word of the Fabric Manager [R408; DESIGN CHOICE 0 (log 1)] -/
  qosControl : Nat := 0
  /-- what the last Fabric Manager command returned: a return code and bytes [R408; DESIGN CHOICE empty (log 1)] -/
  fmResp : Nat × List Byte := (0, [])
  deriving DecidableEq, Repr

/-! ## Fault collector (13) -/

/-- The fault collector (R443 to R460, R474). -/
structure Fcl where
  /-- HALTED [R474; 1 bit; reset 0] -/
  halted : Bool := false
  /-- REACTING: the class of the reaction under way [R474, R450; reset none] -/
  reacting : Option Nat := none
  /-- INJECT_REJECT [R474; W1C; reset 0] -/
  injectReject : Bool := false
  /-- LAST_SOURCE [R474; 10 bits; reset 0] -/
  lastSource : Nat := 0
  /-- LATCHES [R474; 32 bits saturating; reset 0] -/
  latches : Nat := 0
  /-- FCL_PEND.WORD [R474; 16 bits W1C; reset 0] -/
  pend : Nat := 0
  /-- BAD_KICK [R474; 8 bits saturating; reset 0] -/
  badKick : Nat := 0
  /-- RUNNING [R474; 1 bit; reset 0] -/
  running : Bool := false
  /-- LEVEL of BEAT [R474, R457; 1 bit; reset 0: low] -/
  level : Bool := false
  /-- LTU time of the last kick, none before the first [R457, R474 SINCE_KICK; reset 0] -/
  lastKick : Option Nat := none
  /-- LTU time of the last change of BEAT's level [R457] -/
  lastBeat : Nat := 0
  /-- FCL_FENCE_STATUS.REJECT [R474; W1C; reset 0] -/
  fenceReject : Bool := false
  /-- FCL_FENCE_STATUS.DONE [R474; W1C; reset 0] -/
  fenceDone : Bool := false
  /-- FCL_DIE_FENCE by DIE_SITE [R474; 7 bits; reset 0] -/
  dieFence : Tbl Bool := []
  /-- FCL_STICKY [R474; 1,024 bits W1C; reset 0] -/
  sticky : BitVec 1024 := 0#1024
  /-- FCL_WIRE [R474; 1,024 bits; reset 0] -/
  wire : BitVec 1024 := 0#1024
  /-- FCL_CNT by source [R474; 32 bits saturating; reset 0] -/
  cnt : Tbl Nat := []
  /-- pairs held asserted: (source, LTU time the pair returns to idle, none while held until reset)
  [R443, R444; reset none] -/
  asserted : List (Nat × Option Nat) := []
  /-- pairs asserted at the previous sample taken [R445; reset none] -/
  prev : List Nat := []
  /-- an injection that waits for SYNC_IN: (source, width) [R460; reset none] -/
  injectSync : Option (Nat × Nat) := none
  /-- pairs an injection drives equal [R460; reset none] -/
  wireInj : List Nat := []
  /-- qualification asked for by RMP_UNIT_FENCE: mailbox, and as masks the tiles left, passed, failed
  [R464, R473; reset none] -/
  qualRun : Option (Nat × Nat × Nat × Nat) := none
  deriving DecidableEq, Repr

/-! ## Checkpoints (13) -/

/-- What firmware keeps of the last checkpoint image, for an incremental one (R465, R466). -/
structure Ckpt where
  /-- STEP of the last image [R465; 64 bits; reset 0: none] -/
  step : Nat := 0
  /-- its requests: (REQ_ID, TENANT, journal length) [R466; reset none] -/
  reqs : List (Nat × Nat × Nat) := []
  deriving DecidableEq, Repr

end Sys2Proof.Machine
end

