-- ==== Sys2Proof/Machine/PowerState.lean ====
section
/-!
DEFINITION. Sys2Proof/Machine/PowerState.lean: the state of power, clocks, timers, cooling and ageing (15), and of pins,
start-up, the sideband window, JTAG and core debug (16).

Every structure's default value is its reset value; the bracket of each field's docstring names the rule, the width
and the reset value.
-/
namespace Sys2Proof.Machine

/-! ## Power, clocks, cooling and ageing -/

/-- Power states of a tile (R513). -/
inductive TPwr where
  | run | idle | retain | off
  deriving DecidableEq, Repr

/-- A tile's power and ageing (R513, R525 to R528, R534). -/
structure TilePwr where
  /-- TILE_PWR.STATE [R534; 3 bits; reset 0x1 IDLE] -/
  st : TPwr := .idle
  /-- TILE_PWR.REQ [R534; 3 bits; reset 0x1] -/
  req : Nat := 1
  /-- voltage the slew began from, and when [R526, R534 VDD_MV; 12 bits; reset 0x0] -/
  vFrom : Nat := 0
  vAt : Nat := 0
  /-- the tile has been brought to its planned voltage: VDD_MV slews towards VSET_MV [R526; reset no] -/
  vOn : Bool := false
  /-- TILE_DIV.FW_DIV [R534; 3 bits; reset 6] -/
  fwDiv : Nat := 6
  /-- TILE_DIV.AGE_DIV [R534; 3 bits; reset 6] -/
  ageDiv : Nat := 6
  /-- TILE_VSET.VSET_MV [R534; 12 bits; reset 700] -/
  vset : Nat := 700
  /-- PDM_CTRL.SEL [R534; 4 bits; reset 0x0] -/
  sel : Nat := 0
  /-- PDM_CTRL.INSITU [R534; 1 bit; reset 1] -/
  insitu : Bool := true
  /-- PDM_CTRL.SWEEP [R534; 1 bit; reset 0] -/
  sweep : Bool := false
  /-- corrected delays in ps of the last sweep: nine points of sixteen PDMs [R525, R534 DELAY_PS; reset 0x0] -/
  delays : List (List Nat) := []
  /-- last in-place slack by PDM in ps [R527, R534 SLACK_PS; 16 bits signed; reset 0x0] -/
  slack : List Int := []
  /-- voltage of the first plan, in HD's OTP; 0 while none is written [R528; DESIGN CHOICE 0 (log 1)] -/
  v0 : Nat := 0
  /-- present plan in mV and divider; 0 before the first [R526; reset none] -/
  plan : Nat × Nat := (0, 0)
  /-- a plan that waits for a step boundary with the tile IDLE [R526; reset none] -/
  next : Option (Nat × Nat) := none
  /-- AGE_DIV to set once the slew has ended [R526; reset none] -/
  divNext : Option Nat := none
  /-- LTU time of the last sweep [R525; reset 0] -/
  sweptAt : Nat := 0
  /-- an AGE_ALARM since the last sweep: no UNFENCE before the next one [R527; reset no] -/
  alarm : Bool := false
  /-- left out of the next step's composition [R525; reset no] -/
  leftOut : Bool := false
  /-- LTU time a woken tile can start its command [R513; reset none] -/
  wakeAt : Option Nat := none
  deriving DecidableEq, Repr

/-- One comparator of the LTU (R517, R518, R533). -/
structure Cmp where
  /-- CMP_MATCH [R533; 64 bits; reset 0x0] -/
  mtch : Nat := 0
  /-- CMP_PERIOD [R533; 32 bits; reset 0x0] -/
  period : Nat := 0
  /-- CMP_CTRL.ACTION [R533; 2 bits; reset 0x0] -/
  action : Nat := 0
  /-- CMP_CTRL.ENABLE [R533; 1 bit; reset 0] -/
  enable : Bool := false
  /-- CMP_STATUS.FIRED [R533; W1C; reset 0] -/
  fired : Bool := false
  /-- the LD it is granted to [R518; reset none] -/
  owner : Option Nat := none
  deriving DecidableEq, Repr

/-- One site's temperature (R523, R532). -/
structure Therm where
  /-- THERM.LEVEL [R532; 2 bits; reset 0x0] -/
  level : Nat := 0
  /-- THERM.TEMP_C [R532; 8 bits signed; reset 0x00] -/
  temp : Int := 0
  deriving DecidableEq, Repr

/-- Power, clocks and timers of the device (R508 to R535). -/
structure Pwr where
  /-- CLK_STATUS.REF_KHZ [R532; 18 bits; reset 0x0] -/
  refKhz : Nat := 0
  /-- CLK_STATUS.PLL_LOCK [R532; 1 bit; reset 0] -/
  pllLock : Bool := false
  /-- CLK_STATUS.REF_OK [R532; 1 bit; reset 0] -/
  refOk : Bool := false
  /-- PWR_IN.AVG_1S_MW [R532; 32 bits; reset 0x0] -/
  avg1s : Nat := 0
  /-- PWR_IN.AVG_1MS_MW [R532; 32 bits; reset 0x0] -/
  avg1ms : Nat := 0
  /-- the last 100 µs average, for the events [R511; reset 0] -/
  avg100us : Nat := 0
  /-- PWR_CAP.PCAP_W [R532; 12 bits; reset 2,100] -/
  pcap : Nat := 2100
  /-- PWR_CLAMP.CAUSE bit 1: power [R532; reset 0] -/
  clampPower : Bool := false
  /-- PWR_CLAMP.CAUSE bit 2: input voltage [R532; reset 0] -/
  clampVin : Bool := false
  /-- sites whose THROTTLE holds the clamp, PWR_CLAMP.CAUSE bit 3 [R521, R532; reset none] -/
  clampTherm : List Nat := []
  /-- THERM by DIE_SITE [R532; reset as `Therm`] -/
  therm : Tbl Therm := []
  /-- tiles by TILE_ID [R534; reset as `TilePwr`] -/
  tiles : Tbl TilePwr := []
  /-- comparators 0 to 63 [R533; reset as `Cmp`] -/
  cmps : Tbl Cmp := []
  /-- LTU_BOOT.BOOT [R533; 16 bits; reset 0x0] -/
  boot : Nat := 0
  /-- LTU_BOOT has been written since reset [R516; reset no] -/
  bootSet : Bool := false
  /-- SYNC_OUT is high until this LTU time [R519; reset low] -/
  syncOut : Nat := 0
  /-- STAGE_SPLIT.DMA_UNITS [R535; 9 bits; reset 0x0] -/
  dmaUnits : Nat := 0
  /-- STAGE_SPLIT.LOCKED [R535; 1 bit; reset 0] -/
  splitLocked : Bool := false
  /-- STAGE_SPLIT.COMP_UNITS [R535; 5 bits; reset 0x00] -/
  compUnits : Nat := 0
  /-- CCX_STATUS.HARTS [R535; 8 bits; reset 0x00] -/
  harts : Nat := 0
  /-- prompt chunks are shortened for the power cap [R510; reset no] -/
  shorten : Bool := false
  deriving DecidableEq, Repr

/-! ## Pins, start-up, sideband -/

/-- What the sideband bridge is asked about a refused command, and what a read returns. -/
structure Bridge where
  /-- the bridge answers: PWR_GOOD has been released [R541; DESIGN CHOICE yes at reset (log 1)] -/
  up : Bool := true
  /-- SBW_I3C.DYN_ADDR, none before it is assigned: SBW_STATUS.BRIDGE_UP [R558; 7 bits; reset 0x00] -/
  addr : Option Nat := none
  /-- SBW_STATUS.COLLIDE_B: SBW_BUSY_N is low [R558; 1 bit; reset 0] -/
  collideB : Bool := false
  /-- BAD_CMD of SB_STATUS [R550; 1 bit; reset 0] -/
  badCmd : Bool := false
  /-- bytes the last read part returned [R550; DESIGN CHOICE empty (log 1)] -/
  resp : List Byte := []
  deriving DecidableEq, Repr

/-- The BOOT and SBW registers and the recovery loader (R547, R549, R557, R558). -/
structure Boot where
  /-- the supply is in regulation and PWR_GOOD is released [R541, R542; DESIGN CHOICE yes at reset (log 1)] -/
  good : Bool := true
  /-- a rail left regulation: held until the rail is back and the board cycles RESET_N [R542; reset no] -/
  railHeld : Bool := false
  /-- RESET_N is high [R541; DESIGN CHOICE high at reset, the moment of its release (log 1)] -/
  released : Bool := true
  /-- start-up has run since the release [R546; reset no] -/
  started : Bool := false
  /-- PERST_N is high [R544; DESIGN CHOICE high at reset (log 1)] -/
  perst : Bool := true
  /-- BOOT_STRAP.STRAP [R557; 4 bits; sampled: DESIGN CHOICE 0 before sampling (log 1)] -/
  strap : Nat := 0
  /-- BOOT_STRAP.STRAP_BAD [R557; 1 bit; reset 0] -/
  strapBad : Bool := false
  /-- BOOT_PROGRESS.ERROR [R557; 16 bits; reset 0x0] -/
  error : Nat := 0
  /-- BOOT_PROGRESS.PHASE [R557; 8 bits; reset 0x01] -/
  phase : Nat := 1
  /-- BOOT_CAUSE.CAUSE [R557; 3 bits; per reset: DESIGN CHOICE power-on 0x1 (log 1)] -/
  cause : Nat := 1
  /-- BOOT_READY.TICK [R557; 64 bits; reset 0x0] -/
  readyTick : Nat := 0
  /-- SBW_STATUS.COLLIDE_A [R558; W1C; reset 0] -/
  collideA : Bool := false
  /-- SBW_CNT.COLLIDE_A [R558; 32 bits saturating; reset 0x0] -/
  cntA : Nat := 0
  /-- SBW_CNT.COLLIDE_B [R558; 32 bits saturating; reset 0x0] -/
  cntB : Nat := 0
  /-- the last word the control cores read from the SBW [R551; DESIGN CHOICE 0 (log 1)] -/
  portA : Nat := 0
  /-- REC_GO.LENGTH as last written [R549; 32 bits; reset 0x0] -/
  recLen : Nat := 0
  /-- REC_STATUS.STATUS [R549; 16 bits; reset 0x0] -/
  recStatus : Nat := 0
  /-- REC_STATUS.WINDOW [R549; 1 bit; reset 0] -/
  recWindow : Bool := false
  /-- REC_STATUS.STATE [R549; 2 bits; reset WAITING 0x0] -/
  recState : Nat := 0
  deriving DecidableEq, Repr

/-! ## JTAG and core debug -/

/-- The instructions of R553. -/
inductive JIr where
  | bypass | idcode | sample | extest | clamp | highz | extestPulse | extestTrain | dtmcs | dmi
  deriving DecidableEq, Repr

/-- What the output pins follow (R553, R554). -/
inductive PinDrive where
  /-- the device's own logic -/
  | system
  /-- the boundary register -/
  | boundary
  /-- nothing: outputs float -/
  | float
  /-- the boundary register's value, pulsed on the AC-coupled lanes -/
  | pulse
  /-- the boundary register's value, with a pulse train on the AC-coupled lanes -/
  | train
  deriving DecidableEq, Repr

/-- A control core as the debug module sees it (R54, R555). -/
structure CHart where
  /-- registers x1 to x31 [R54; 64 bits each; DESIGN CHOICE 0 (log 1)] -/
  x : Tbl Nat := []
  /-- program counter [64 bits; DESIGN CHOICE 0 (log 1)] -/
  pc : Nat := 0
  deriving DecidableEq, Repr

/-- The debug module (R555; register numbers and fields of The RISC-V Debug Specification 1.0, PRESUMED log 21). -/
structure Dbg where
  /-- dmcontrol.dmactive [1 bit; reset 0] -/
  active : Bool := false
  /-- dmcontrol.hartsel [20 bits; reset 0] -/
  sel : Nat := 0
  /-- halted harts by index [R555; reset none] -/
  halted : List Nat := []
  /-- harts that resumed since their last resume request: resumeack [reset none] -/
  resumed : List Nat := []
  /-- data0 to data1 [32 bits each; reset 0] -/
  data : Tbl Nat := []
  /-- abstractcs.cmderr [3 bits; reset 0] -/
  cmderr : Nat := 0
  /-- command [32 bits; reset 0] -/
  command : Nat := 0
  /-- sbcs: sbreadonaddr, sbaccess, sbautoincrement, sbreadondata, sberror [reset 0, access 2] -/
  sbRoA : Bool := false
  sbAccess : Nat := 2
  sbAuto : Bool := false
  sbRoD : Bool := false
  sbError : Nat := 0
  /-- sbaddress0 and 1 as one address [64 bits; reset 0] -/
  sbAddr : Nat := 0
  /-- sbdata0 and 1 as one word [64 bits; reset 0] -/
  sbData : Nat := 0
  /-- dpc and dcsr.cause of control harts are theirs; tile threads keep their pc -/
  harts : Tbl CHart := []
  deriving DecidableEq, Repr

/-- The JTAG port (R553 to R555). -/
structure Jtag where
  /-- instruction selected [R553; 8 bits; reset IDCODE, as IEEE 1149.1 requires] -/
  ir : JIr := .idcode
  /-- boundary register, update stage [R553; DESIGN CHOICE empty (log 1)] -/
  cells : List Bool := []
  /-- data register captured for TDO [R553; DESIGN CHOICE 0 (log 1)] -/
  capture : Nat := 0
  /-- boundary cells captured for TDO [R553; DESIGN CHOICE empty (log 1)] -/
  sampled : List Bool := []
  /-- what the output pins follow [R554; reset the device's own logic] -/
  drive : PinDrive := .system
  /-- debug module [R555; reset as `Dbg`] -/
  dbg : Dbg := {}
  deriving DecidableEq, Repr

end Sys2Proof.Machine
end

