-- ==== Sys2Proof/Machine/ReqState.lean ====
section
/-!
DEFINITION. Sys2Proof/Machine/ReqState.lean: the state of requests, tenants, model slots and the tier manager.

The request table, the tenant table, the model-slot table and the tier manifests lie in the T2 system region (R228),
which only firmware reads: they are held here by index, and encoded by the rules' layouts where a message or an image
carries them (notes/assumptions/15.md).
-/
namespace Sys2Proof.Machine

/-- Request states (R22). -/
inductive ReqSt where
  | free | admitted | prefill | handover | decode | parking | parked | expired | resuming | reprefill
  deriving DecidableEq, Repr

/-- An operation that has not posted its completion: SUB_ID and the submission ring it came from (R23, R369). -/
structure PendOp where
  subId : Nat
  ring : Nat
  deriving DecidableEq, Repr

/-- A RESUME whose request is with a prompt peer, which grafts it back (R23, R47). -/
structure AwayOp where
  reqId : Nat
  tenant : Nat
  op : PendOp
  deriving DecidableEq, Repr

/-- The sequence descriptor with its valid lengths (R136). -/
structure Seq where
  /-- SEQ_BASE [R136; 56 bits] -/
  base : Nat := 0
  /-- ASID [R136; 16 bits] -/
  asid : Nat := 0
  /-- RANGE_LOG2 [R136; 8 bits] -/
  rangeLog2 : Nat := 32
  /-- PAGE_BITS [R136; 8 bits] -/
  pageBits : Nat := 0
  /-- LAYERS [R136; 8 bits] -/
  layers : Nat := 1
  /-- KV_HEADS [R136; 8 bits] -/
  kvHeads : Nat := 1
  /-- HEAD_DIM code [R136; 8 bits] -/
  headDim : Nat := 1
  /-- KV_FMT [R136; 8 bits] -/
  kvFmt : Nat := 1
  /-- CHANNEL_SET [R136; 128 bits] -/
  chset : BitVec 128 := 0#128
  /-- RESERVED_LEN [R136; 32 bits] -/
  reservedLen : Nat := 0
  /-- PRUNE_FLOOR [R136; 32 bits] -/
  pruneFloor : Nat := 0
  /-- LAST_ACTIVE [R136; 64 bits] -/
  lastActive : Nat := 0
  /-- SINK_N [R136; 8 bits] -/
  sinkN : Nat := 0
  /-- SEQ_FLAGS.REPREFILL_PENDING [R136; 1 bit] -/
  reprefillPending : Bool := false
  /-- GRACE [R136; 16 bits] -/
  grace : Nat := 0
  /-- the valid-length array, one entry per layer [R136; 32 bits each] -/
  vlen : List Nat := []
  deriving DecidableEq, Repr

/-- A request table entry and what firmware keeps for it (R18, R22, R376). -/
structure Req where
  /-- REQ_ID [R376; 64 bits] -/
  reqId : Nat := 0
  /-- TENANT [R376; 16 bits] -/
  tenant : Nat := 0
  /-- MODEL_SLOT [R376; 16 bits] -/
  slot : Nat := 0
  /-- DRAFT_SLOT [R376; 16 bits] -/
  draftSlot : Nat := 0xFFFF
  /-- STATE [R376, R22; 8 bits; reset FREE] -/
  st : ReqSt := .free
  /-- RQFLAGS: LATE_OK, SPECULATE, STOCHASTIC, DRAFT_READY, CANCEL_HELD [R376; 5 bits] -/
  lateOk : Bool := false
  speculate : Bool := false
  stochastic : Bool := false
  draftReady : Bool := false
  cancelHeld : Bool := false
  /-- EPOCH [R376, R18; 16 bits] -/
  epoch : Nat := 0
  /-- CFG_VERSION [R376, R21; 16 bits] -/
  cfg : Nat := 0
  /-- TREE_MAX [R376; 8 bits] -/
  treeMax : Nat := 0
  /-- PRIO [R376; 2 bits] -/
  prio : Nat := 0
  /-- BIAS_ROW [R376; 8 bits] -/
  biasRow : Nat := 0xFF
  /-- LD [R376; 4 bits] -/
  ld : Nat := 0
  /-- PROMPT_LEN [R376; 32 bits] -/
  promptLen : Nat := 0
  /-- MAX_NEW [R376; 32 bits] -/
  maxNew : Nat := 0
  /-- NEXT_INDEX [R376; 32 bits] -/
  nextIndex : Nat := 0
  /-- PREFILLED [R376; 32 bits] -/
  prefilled : Nat := 0
  /-- DEADLINE, 0 for none [R376, R385; 64 bits] -/
  deadline : Nat := 0
  /-- TOKEN_RING [R376; 18 bits] -/
  tokenRing : Nat := 0
  /-- CPL_RING [R376, R370; 18 bits] -/
  cplRing : Nat := 0
  /-- DEST0 to DEST3 [R376; 12 bits each] -/
  dest : List Nat := []
  /-- destinations of DEST already tried (R25, R32) -/
  destTried : Nat := 0
  /-- TEMP, TOP_P, MIN_P, TOP_K [R376] -/
  temp : Nat := 0
  topP : Nat := 0
  minP : Nat := 0
  topK : Nat := 0
  /-- PEER [R376; 12 bits] -/
  peer : Nat := 0
  /-- SUB_ID [R376; 64 bits] -/
  subId : Nat := 0
  /-- TTL_MS [R376; 32 bits] -/
  ttlMs : Nat := 0
  /-- GTAG [R376; 16 bits] -/
  gtag : Nat := 0
  /-- LAST_STEP [R376; 64 bits] -/
  lastStep : Nat := 0
  /-- plots of the token journal pool [R229, R376 JOURNAL] -/
  jplots : List Nat := []
  /-- the token journal, prompt first [R20] -/
  journal : List Nat := []
  /-- sequence descriptor [R136] -/
  seq : Seq := {}
  /-- key-value pages held, by page number from SEQ_BASE [R135, R230] -/
  pages : Tbl Place := []
  /-- pages whose leaf is PRUNED [R128, R154] -/
  pruned : List Nat := []
  /-- ADMIT, PARK, RESUME and REDIRECT still pending [R23] -/
  opAdmit : Option PendOp := none
  opPark : Option PendOp := none
  opResume : Option PendOp := none
  opRedirect : Option PendOp := none
  /-- a CANCEL held until ADMIT completes or a MOVE ends [R374, R209] -/
  opCancel : Option PendOp := none
  /-- park target of the current park: 2, 3 or 4 [R38]; 0 for none -/
  parkTarget : Nat := 0
  /-- LTU time of the park commit [R212] -/
  parkAt : Nat := 0
  /-- the time to live runs (R41, R212) -/
  ttlOn : Bool := false
  /-- copies of the current local park: page and place reserved for it, done or not [R210] -/
  parkCopies : List (Nat × Place × Bool) := []
  /-- resume device of a RESUME being served [R42]; 0 for this device -/
  resumeDev : Nat := 0
  /-- pages still to be placed by the pull [R211] -/
  pull : List Nat := []
  /-- the last page is placed: DECODE at the next step boundary [R42] -/
  pullDone : Bool := false
  /-- the graft's commit was acknowledged here: DECODE at the next step boundary [R30] -/
  arrived : Bool := false
  /-- final chunk committed with no destination: DECODE at the next boundary [R29] -/
  firstDone : Bool := false
  /-- span to recompute: positions from and up to [R155, R44] -/
  recomputeTo : Nat := 0
  /-- state it returns to after REPREFILL [R155] -/
  backTo : ReqSt := .decode
  /-- prune order among requests waiting in REPREFILL [R155] -/
  prunedAt : Nat := 0
  /-- journal length at the previous checkpoint image, when that image holds it [R466; option; reset none] -/
  ckptLen : Option Nat := none
  /-- journalled tokens already sent to the graft destination [R330] -/
  sentJournal : Nat := 0
  /-- layers pushed to the destination, in positions per layer [R28] -/
  pushed : List Nat := []
  /-- GRAFT_STALLED posted for the present stall [R32] -/
  stalled : Bool := false
  /-- next prompt peer to try [R47] and whether the fallback handover is under way -/
  peerTry : Nat := 0
  fallback : Bool := false
  /-- the device that handed the record over for re-prefill, to graft back to [R47] -/
  graftBack : Nat := 0
  /-- first token index this device may write [R36, R369] -/
  firstIdx : Nat := 0
  /-- positions its draft model has prefilled [R35] -/
  draftPos : Nat := 0
  /-- its plots are lost to a failure; it waits for its re-prefill [R44] -/
  lost : Bool := false
  /-- it has ended, and its END entry waits for room [R365] -/
  ending : Bool := false
  deriving DecidableEq, Repr

/-- A tenant's entry (R206). -/
structure Tenant where
  /-- QUOTA_T0 to QUOTA_T3 [R206; 32 bits each; reset 0: no version] -/
  quota : List Nat := [0, 0, 0, 0]
  /-- USED_T0 to USED_T3 [R206; 32 bits each; DESIGN CHOICE 0 (log 1)] -/
  used : List Nat := [0, 0, 0, 0]
  /-- LOWEST_TIER [R206, R432; 8 bits; 2] -/
  lowest : Nat := 2
  /-- TFLAGS.T3_COMPRESS [R206; 1 bit; 0] -/
  t3Compress : Bool := false
  /-- ASID, 0 while none is assigned [R206, R125; 16 bits] -/
  asid : Nat := 0
  /-- TENANT_LD [R384, R432; 4 bits; default 0] -/
  ld : Nat := 0
  /-- VALID [R432; 1 bit; reset 0] -/
  valid : Bool := false
  deriving DecidableEq, Repr

/-- MSTATE (R377). -/
inductive MState where
  | empty | loading | loaded | unloading
  deriving DecidableEq, Repr

/-- One group template of a plan (R428). -/
structure Template where
  kind : BatchKind
  maxBatch : Nat
  /-- member descriptors, zeroed fields zero -/
  members : List Nat
  /-- argument-block image -/
  args : List Byte
  /-- patches: (ARG_OFF, PKIND, WIDTH, SLOT) -/
  patches : List (Nat × Nat × Nat × Nat)
  deriving DecidableEq, Repr

/-- A model-slot entry and what firmware keeps for the slot (R377, R427). -/
structure Slot where
  /-- TENANT [R377; 16 bits; reset 0] -/
  tenant : Nat := 0
  /-- MSTATE [R377; 8 bits; reset EMPTY] -/
  st : MState := .empty
  /-- CFG_VERSION [R377; 16 bits] -/
  cfg : Nat := 0
  /-- EMB_DESC [R377; 48 bits] -/
  embDesc : Nat := 0
  /-- LAYERS, KV_HEADS, HEAD_DIM, KV_FMT, Q_HEADS, SINK_N, PAGE_BITS, STOP_N [R377; 8 bits each] -/
  layers : Nat := 0
  kvHeads : Nat := 0
  headDim : Nat := 0
  kvFmt : Nat := 0
  qHeads : Nat := 0
  sinkN : Nat := 0
  pageBits : Nat := 0
  /-- VOCAB [R377; 32 bits] -/
  vocab : Nat := 0
  /-- STOP, the STOP_N first [R377; 32 bits each] -/
  stop : List Nat := []
  /-- PLAN_TABLE [R377; 48 bits] -/
  planTable : Nat := 0
  /-- BIAS_TBL [R377; 56 bits] -/
  biasTbl : Nat := 0
  /-- KV_SCALES [R377; 56 bits] -/
  kvScales : Nat := 0
  /-- EST_DECODE_BASE, EST_DECODE_PER, EST_PREFILL_512 [R377; 32 bits each] -/
  estBase : Nat := 0
  estPer : Nat := 0
  estPrefill : Nat := 0
  /-- the compiled plans by C-tile count served, 0xFFFF for every count [R51, R428] -/
  plans : List (Nat × List Template) := []
  /-- resident plots to pin: (C-tile count, tile, offset, bytes in memory) [R427] -/
  resident : List (Nat × Nat × Nat × Nat) := []
  /-- plots placed for the slot: (virtual page, place) [R230] -/
  plots : List (Nat × Place) := []
  /-- resident plots pinned for the slot: (tile, resident-region offset) [R202] -/
  pinned : List (Nat × Nat) := []
  /-- the load under way: window address, length, digest [R427] -/
  object : Nat × Nat × Nat := (0, 0, 0)
  /-- commands that pinned a table version and have not ended, by descriptor address [R254] -/
  pins : Tbl Nat := []
  /-- superseded descriptors whose plots are not yet freed, by version [R254] -/
  oldTables : List (Nat × Nat) := []
  /-- a QUAL section is held [R427, R464] -/
  qual : Bool := false
  deriving DecidableEq, Repr

/-- A park or handover this device holds for another owner (R43, R328). -/
structure HolderRec where
  /-- its request table entry's index, the DREQ of its graft [R328] -/
  idx : Nat
  reqId : Nat
  tenant : Nat
  /-- recorded device and epoch [R43] -/
  dev : Nat
  epoch : Nat
  /-- plots held, by page number -/
  pages : Tbl Place := []
  /-- bytes of frames stored as they arrived, by page number (R326); none for a plot in its own form -/
  lens : Tbl Nat := []
  /-- room reserved for frames that have not arrived (R328) -/
  spare : List Place := []
  /-- valid length of each layer and REPREFILL_PENDING, as handed over -/
  vlen : List Nat := []
  /-- LTU time the time to live began, and TTL_MS; none: not running -/
  ttl : Option (Nat × Nat) := none
  seq : Seq := {}
  /-- the park has committed (R39); before it, frames are arriving -/
  parked : Bool := true
  deriving DecidableEq, Repr

/-- Where a MOVE stands (R205): the first invalidation, the copy, the leaf remapped, the second invalidation. -/
inductive MoveStage where
  | first | copy | remapped | second
  deriving DecidableEq, Repr

/-- A MOVE under way (R205). -/
structure MoveRec where
  stage : MoveStage := .first
  asid : Nat
  vpn : Nat
  /-- request index -/
  req : Nat
  page : Nat
  src : Place
  dst : Place
  deriving DecidableEq, Repr

/-- An OPEN whose plots wait for room: source, map epoch and record (R152, R328). -/
structure OpenWait where
  src : Nat
  epoch : Nat
  rec_ : GRec
  deriving DecidableEq, Repr

/-- The physical plots of the tiers (R151, R198, R229). -/
structure Pools where
  /-- T1 plots in use: channel x 65,536 + index [R198; reset none] -/
  t1 : List Nat := []
  /-- T2 tenant-space plots in use, by plot number from 0x0118_0000_0000 [R198; reset none] -/
  t2 : List Nat := []
  /-- token journal plots in use [R229; reset none] -/
  journal : List Nat := []
  /-- page-table pool: next unused byte [R228; reset 0] -/
  pt : Nat := 0
  /-- command journal: where the next record goes, and records written [R228, R461; reset 0] -/
  jpos : Nat := 0
  jdone : Nat := 0
  /-- OPENs that wait for space [R152; reset none] -/
  opens : List OpenWait := []
  /-- MOVEs under way [R205; reset none] -/
  moves : List MoveRec := []
  /-- RESUMEs whose requests are with a prompt peer [R23, R47; reset none] -/
  away : List AwayOp := []
  /-- plots moved by rebalancing since the last step boundary [R208; reset 0] -/
  rebalanced : Nat := 0
  deriving DecidableEq, Repr

end Sys2Proof.Machine
end

