-- ==== Sys2Proof/Machine/SecState.lean ====
section
/-!
DEFINITION. Sys2Proof/Machine/SecState.lean: the state of the Cloche, the meter feed, identity, boot storage, life
cycle, tamper logic, attestation and link encryption (14).

Every structure's default value is its reset value; the bracket of each field's docstring names the rule, the width
and the reset value. The Cloche, OTP and QSPI keep theirs across RESET_N and power.
-/
namespace Sys2Proof.Machine

/-! ## The meter feed (R477 to R480) -/

/-- The feed concentrator of HD (R479, R507). -/
structure Feed where
  /-- sums of the running window: (KIND, DOMAIN, TENANT, QUANTITY), at most 4,096 entries [R479; reset empty] -/
  table : List (Nat × Nat × Nat × Nat) := []
  /-- reports that taps hold while the table is full, oldest first [R479; reset none] -/
  held : List (Nat × Nat × Nat × Nat) := []
  /-- number of the running window [R479; 32 bits; reset 0] -/
  window : Nat := 0
  /-- LTU time it began [R479; reset 0] -/
  since : Nat := 0
  /-- the running window is the first after a device reset: RESET_SEEN [R479; reset yes] -/
  first : Bool := true
  /-- frames on the feed line, oldest first [R479; reset none] -/
  line : List (List Byte) := []
  /-- SEC_FEED.FEED_STALL [R507; 32 bits saturating; reset 0x0] -/
  stall : Nat := 0
  deriving DecidableEq, Repr

/-! ## The Cloche (R475 to R494) -/

/-- A counter set (R481). Energy is held in nanojoules: ENERGY_UJ and its remainder. -/
structure CSet where
  /-- ENGINE_ACLK, T1_BYTES, T2_BYTES, T3_BYTES, FAB_TX, FAB_RX [R481; 64 bits wrapping; DESIGN CHOICE 0 (log 1)] -/
  engine : Nat := 0
  t1 : Nat := 0
  t2 : Nat := 0
  t3 : Nat := 0
  tx : Nat := 0
  rx : Nat := 0
  /-- ENERGY_UJ with its remainder of 0 to 999 nJ [R481; 64 bits wrapping; DESIGN CHOICE 0 (log 1)] -/
  energyNj : Nat := 0
  /-- LABEL [R481; 64 bits; DESIGN CHOICE 0 (log 1)] -/
  label : Nat := 0
  deriving DecidableEq, Repr

/-- The Cloche (R475 to R494). -/
structure Cloche where
  /-- the auxiliary supply is present [R475; DESIGN CHOICE present (log 1)] -/
  on : Bool := true
  /-- DEVICE_UID of its own OTP [R480, R485; 64 bits; DESIGN CHOICE 0 (log 1)] -/
  uid : Nat := 0
  /-- SHAKE256 digest of the authority key, in OTP [R488; 256 bits; DESIGN CHOICE 0 (log 1)] -/
  authDigest : Nat := 0
  /-- METRO_FW_COUNT, in OTP [R490; 8 bits; DESIGN CHOICE 0 (log 1)] -/
  fwCount : Nat := 0
  /-- its own Ed448 public key [R492; 456 bits; DESIGN CHOICE 0 (log 1)] -/
  pubKey : Nat := 0
  /-- its Ed448 private key [R485; 456 bits; DESIGN CHOICE 0 (log 1)] -/
  key : Nat := 0
  /-- certificate chain [R492; bytes; DESIGN CHOICE empty (log 1)] -/
  cert : List Byte := []
  /-- CLOCHE_FW, the active half's version [R485; 32 bits; DESIGN CHOICE 0 (log 1)] -/
  fw : Nat := 0
  /-- firmware bytes written to the inactive half [R490; DESIGN CHOICE empty (log 1)] -/
  half : List Host.Cell := []
  /-- the other half's version, for the fall back of R490 [32 bits; DESIGN CHOICE 0 (log 1)] -/
  otherFw : Nat := 0
  /-- Cloche time in nanoseconds since its first power-up [R485; CLOCHE_SECONDS; DESIGN CHOICE 0 (log 1)] -/
  time : Nat := 0
  /-- counter sets by tenant [R481; reset as `CSet`] -/
  sets : Tbl CSet := []
  /-- GAIN by domain, unsigned 2.30 [R488; 32 bits; DESIGN CHOICE 1.0 (log 1)] -/
  gain : Tbl Nat := []
  /-- OFFSET by domain in signed mW [R488; DESIGN CHOICE 0 (log 1)] -/
  offset : Tbl Int := []
  /-- IDLE_MW by domain [R488; DESIGN CHOICE 0 (log 1)] -/
  idle : Tbl Nat := []
  /-- operator key [R488; 456 bits; DESIGN CHOICE 0 (log 1)] -/
  opKey : Nat := 0
  /-- audit log of this generation, oldest first, 64 bytes each [R489; at most 4,096; DESIGN CHOICE empty (log 1)] -/
  log : List Nat := []
  /-- LOG_GEN [R485; 32 bits; DESIGN CHOICE 0 (log 1)] -/
  logGen : Nat := 0
  /-- chain digest of the log [R489; 256 bits; zero for the first] -/
  digest : Nat := 0
  /-- LOG_OVERFLOW of this generation [R489; 1 bit; clear] -/
  overflow : Bool := false
  /-- signed records, newest first, at most 1,440: number and 256 bytes [R486; DESIGN CHOICE none (log 1)] -/
  records : List (Nat × Nat) := []
  /-- snapshots of the last two records [R486; DESIGN CHOICE none (log 1)] -/
  snaps : List (Nat × Tbl CSet) := []
  /-- RECORD_NO of the last record [R485; 64 bits; DESIGN CHOICE 0 (log 1)] -/
  recordNo : Nat := 0
  /-- Cloche time of the next 60 s mark [R485; 60 s after power-up] -/
  mark : Nat := 60000000000
  /-- the mark has passed and no snapshot is taken yet [R485] -/
  due : Bool := false
  /-- the snapshot taken for the next record [R485; none] -/
  snap : Option (Tbl CSet) := none
  /-- FRAMES_OK, FRAMES_LOST, WINDOWS_UNATTRIB since the previous record [R485; 32 bits; 0] -/
  framesOk : Nat := 0
  framesLost : Nat := 0
  unattrib : Nat := 0
  /-- metered energy in nanojoules, TOTAL_UJ [R484; DESIGN CHOICE 0 (log 1)] -/
  totalNj : Nat := 0
  /-- FEED_DOWN_SEEN, RESTARTED, PARAM_CHANGED, FW_CHANGE for the next record [R485; clear] -/
  feedDownSeen : Bool := false
  restarted : Bool := false
  paramChanged : Bool := false
  fwChange : Bool := false
  /-- SEAL_BROKEN, in every record until RESEAL [R491; clear] -/
  sealBroken : Bool := false
  /-- the Cloche's seal loop reads open [R491; DESIGN CHOICE closed (log 1)] -/
  loopOpen : Bool := false
  /-- window number of the last LAST frame accepted [R483; none before the first] -/
  lastWindow : Option Nat := none
  /-- Cloche time of the last LAST frame accepted [R483; 0] -/
  lastAt : Nat := 0
  /-- the feed is down [R483; no] -/
  down : Bool := false
  /-- number of the window whose frames are being received [R482; 0] -/
  winNo : Nat := 0
  /-- quantities of the running window's frames: (KIND, DOMAIN, TENANT, QUANTITY) [R482; none] -/
  win : List (Nat × Nat × Nat × Nat) := []
  /-- a frame of the running window was rejected [R483; no] -/
  rejected : Bool := false
  /-- LIFE_CYCLE of the last accepted frame [R485; 8 bits; DESIGN CHOICE 0 (log 1)] -/
  lc : Nat := 0
  /-- nonce good for the next signed command [R492, R493; 128 bits; none] -/
  nonce : Option Nat := none
  /-- dynamic address of its I3C port [R492; 7 bits; none] -/
  addr : Option Nat := none
  /-- status byte and response that the next private read returns [R492; empty] -/
  resp : List Byte := []
  deriving DecidableEq, Repr

/-! ## Identity, boot storage and life cycle (R495 to R502, R507) -/

/-- HD's OTP (R495, R501). Fuses only ever gain. -/
structure Otp where
  /-- DEVICE_UID [R495; 64 bits; DESIGN CHOICE 0 (log 1)] -/
  uid : Nat := 0
  /-- UDS [R495; 256 bits; DESIGN CHOICE 0 (log 1)] -/
  uds : Nat := 0
  /-- UDS and keys are programmed [R502; DESIGN CHOICE no (log 1)] -/
  keysDone : Bool := false
  /-- the UDS is locked for good [R502; DESIGN CHOICE no (log 1)] -/
  udsGone : Bool := false
  /-- SHAKE256 digests of the RELEASE and PRE_RELEASE keys [R495; 256 bits each; DESIGN CHOICE 0 (log 1)] -/
  relDigest : Nat := 0
  preDigest : Nat := 0
  /-- LIFE_CYCLE, the highest complete word [R501; 8 bits; DESIGN CHOICE BLANK 0x01 (log 1)] -/
  lc : Nat := 1
  /-- FIRST_SVN, MAIN_SVN [R495; 63 fuses each; DESIGN CHOICE 0 (log 1)] -/
  firstSvn : Nat := 0
  mainSvn : Nat := 0
  deriving DecidableEq, Repr

/-- An SPDM session (R499). -/
structure Session where
  sid : Nat
  /-- FINISH has succeeded -/
  up : Bool := false
  /-- key updates so far -/
  updates : Nat := 0
  /-- the secret of the session, in secure SRAM [R498] -/
  secret : Nat := 0
  deriving DecidableEq, Repr

/-- The SPDM responder of one DOE (R499). -/
structure Spdm where
  /-- how far version, capabilities and algorithms are agreed, 0 to 3 [R499; reset 0] -/
  stage : Nat := 0
  /-- sessions, at most four [R499; reset none] -/
  sessions : List Session := []
  /-- the last response: code and bytes [R499; reset none] -/
  resp : Nat × List Byte := (0, [])
  deriving DecidableEq, Repr

/-- Security: storage, measurements, tamper, attestation, IDE (R495 to R507). -/
structure Sec where
  /-- HD's OTP [R495] -/
  otp : Otp := {}
  /-- QSPI bytes, written ones [R496; DESIGN CHOICE an unlisted byte reads 0x00 (log 2)] -/
  qspi : List Host.Cell := []
  /-- the ROM has locked the UDS from reading [R495; 1 bit; reset no] -/
  udsLocked : Bool := false
  /-- BOOT_SLOT [R507; 1 bit; per boot: DESIGN CHOICE A before start-up (log 1)] -/
  bootSlot : Nat := 0
  /-- MAIN_KEY and the first stage's KEY_ID [R507, R497; 2 bits; per boot: DESIGN CHOICE 0 (log 1)] -/
  mainKey : Nat := 0
  firstKey : Nat := 0
  /-- SVN of the running images [R505; per boot: DESIGN CHOICE 0 (log 1)] -/
  runFirst : Nat := 0
  runMain : Nat := 0
  /-- FW_VERSION of the running main image [R274, R422; per boot: DESIGN CHOICE 0 (log 1)] -/
  fwVersion : Nat := 0
  /-- WIPES [R507; 16 bits saturating; reset 0x0] -/
  wipes : Nat := 0
  /-- WIPE_DONE [R507; 1 bit; reset 0] -/
  wipeDone : Bool := false
  /-- SEC_TAMPER.CAUSE [R507; 5 bits; cleared only at power-on] -/
  tamper : Nat := 0
  /-- MR0 to MR3 [R497, R507; 256 bits each; per boot: DESIGN CHOICE 0 (log 1)] -/
  mr : Tbl Nat := []
  /-- alias private key, in secure SRAM [R497, R498; zeroed by a wipe] -/
  alias_ : Nat := 0
  /-- the alias certificate of this boot: the alias public key and the DeviceID key's signature of it [R497; reset none] -/
  aliasCert : List Byte := []
  /-- DeviceID and alias certificates exist [R497, R501] -/
  certs : Bool := false
  /-- NONCE of the current boot [R502, R505; 128 bits; per boot: DESIGN CHOICE 0 (log 1)] -/
  nonce : Nat := 0
  /-- SPDM responders by LD, 16 the FM-owned one [R499; reset as `Spdm`] -/
  spdm : Tbl Spdm := []
  /-- IDE keys by sub-stream x 2 + set [R500; 256 bits; reset none] -/
  ideKeys : Tbl Nat := []
  /-- IDE key set in use by sub-stream [R500; reset none] -/
  ideSet : Tbl Nat := []
  deriving DecidableEq, Repr

end Sys2Proof.Machine
end

