-- ==== Sys2Proof/Machine/State.lean ====
section
/-!
DEFINITION. Sys2Proof/Machine/State.lean: the machine's state as plain data, the reasons a step can stop, and reset.
-/
namespace Sys2Proof.Machine

/-- Reasons the machine stops. No command of this hardware stops the block: every meaning answers a next state. -/
inductive Fault where
  /-- The part has no supply and cannot be stepped. Raised by nothing in this model; kept so that the type names the
  one condition under which the part does nothing at all. Safe. -/
  | unpowered
  deriving DecidableEq, Repr

/-- Reasons a command has no meaning. -/
inductive Refusal where
  /-- The command's arm is not written. Raised only by an arm of `exec`. Safe. -/
  | notModelled (mnemonic : String)
  deriving DecidableEq, Repr

/-- Everything the spec gives the machine. -/
structure State where
  /-- commands that wait, first in, first out (the model's own queue; reset empty) -/
  pending : List Instr := []
  /-- counter of free values drawn (the model's own; DESIGN CHOICE 0 (log 4)) -/
  fresh : Nat := 0
  /-- LTU_COUNT [R533, R516; 64 bits; reset 0] -/
  ltu : Nat := 0
  /-- byte memory of the device physical map: T1 by channel-local alias, T2, T0, HD SRAMs
  [R65; 48-bit addresses; an unlisted byte reads 0x00, DESIGN CHOICE (log 2)] -/
  mem : List Host.Cell := []
  /-- T3 plot contents: handle x 65,536 + offset [R201; reset empty] -/
  t3 : List Host.Cell := []
  /-- host memory the device has written [R402; reset nothing written] -/
  hostMem : List Host.Cell := []
  /-- dies by DIE_SITE [R53; reset as `Die`] -/
  dies : Tbl Die := []
  /-- the Trellis [R59; reset as `Trellis`] -/
  trellis : Trellis := {}
  /-- tiles by TILE_ID [R55; reset as `Tile`] -/
  tiles : Tbl Tile := []
  /-- address translation [R125; reset as `Atu`] -/
  atu : Atu := {}
  /-- HBM channels 0 to 127 [R55; reset as `Chan`] -/
  chans : Tbl Chan := []
  /-- DMA engines CD0 to CD3, HD [R213; reset as `DmaEng`] -/
  dma : Tbl DmaEng := []
  /-- LPDDR5X controllers 0 to 15 [R58; reset as `Lpc`] -/
  lpc : Tbl Lpc := []
  /-- flash [R222; reset as `Ftl`] -/
  ftl : Ftl := {}
  /-- compressors CD0 to CD3 [R239; reset as `Comp`] -/
  comp : Tbl Comp := []
  /-- Sieves CD0 to CD3 [R256; reset as `Sieve`] -/
  sieve : Tbl Sieve := []
  /-- rings by number [R358; reset FREE] -/
  rings : Tbl Ring := []
  /-- RING block [R397] -/
  ringRegs : RingRegs := {}
  /-- command tags [R378; reset free] -/
  tags : Tbl Tag := []
  /-- groups by first tag [R113] -/
  groups : Tbl Group := []
  /-- the command journal, newest first [R461; reset empty] -/
  cjournal : List JRec := []
  /-- REQ block [R396] -/
  reqRegs : ReqRegs := {}
  /-- accounting by tenant [R391] -/
  acct : Tbl Acct := []
  /-- request table, 131,072 entries [R376; reset FREE] -/
  reqs : Tbl Req := []
  /-- tenant table [R206] -/
  tenants : Tbl Tenant := []
  /-- model-slot table, 16,384 entries [R377; reset EMPTY] -/
  slots : Tbl Slot := []
  /-- parks and handovers held for other owners [R43; reset none] -/
  holders : List HolderRec := []
  /-- physical plots in use [R198] -/
  pools : Pools := {}
  /-- logical devices 0 to 15 [R403] -/
  lds : Tbl LDev := []
  /-- the fabric mailbox [R406] -/
  fabricMb : Mailbox := {}
  /-- the last operational mailbox taken, for the round robin [R416; reset none] -/
  mbTurn : Nat := 0
  /-- links, MSF, RAE, EGR and graft engine [R266 to R357; reset as `Fabric`] -/
  fab : Fabric := {}
  /-- the composition map [R408] -/
  cmap : CMap := {}
  /-- configuration versions [R429] -/
  cfg : CfgState := {}
  /-- CXL port [R442] -/
  cxl : CxlPort := {}
  /-- DEV_STATE.STATE [R405; 3 bits; reset BOOTING] -/
  devState : DevState := .booting
  /-- meter feed [R479; reset as `Feed`] -/
  feed : Feed := {}
  /-- the Cloche [R475; reset as `Cloche`] -/
  cloche : Cloche := {}
  /-- identity, boot storage, tamper, attestation [R495; reset as `Sec`] -/
  sec : Sec := {}
  /-- fault collector [R474] -/
  fcl : Fcl := {}
  /-- the last checkpoint image [R465; reset none] -/
  ckpt : Ckpt := {}
  /-- power, clocks, timers, cooling and ageing [R508; reset as `Pwr`] -/
  pwr : Pwr := {}
  /-- start-up and the sideband window [R541, R557; reset as `Boot`] -/
  boot : Boot := {}
  /-- the sideband bridge, which keeps its state across RESET_N [R543, R550] -/
  bridge : Bridge := {}
  /-- the JTAG port [R553; reset as `Jtag`] -/
  jtag : Jtag := {}
  deriving DecidableEq, Repr

/-- The machine right after reset: every field at its reset value. -/
def State.reset : State := {}

end Sys2Proof.Machine
end

