-- ==== Sys2Proof/Machine/Status.lean ====
section
/-!
DEFINITION. Sys2Proof/Machine/Status.lean: the status codes of R375, R425 and R471 by the spec's names.
-/
namespace Sys2Proof.Machine.Stat

/-- OK -/
def ok : Nat := 0
/-- OK_STOP -/
def okStop : Nat := 1
/-- OK_LENGTH -/
def okLength : Nat := 2
/-- CANCELLED -/
def cancelled : Nat := 3
/-- DEADLINE_MISSED -/
def deadlineMissed : Nat := 4
/-- OWNER_YIELDED -/
def ownerYielded : Nat := 5
/-- KILLED_BY_RESUME -/
def killedByResume : Nat := 6
/-- EXPIRED -/
def expired : Nat := 7
/-- NOT_CONFIGURED -/
def notConfigured : Nat := 0x101
/-- WRONG_PERSONALITY -/
def wrongPersonality : Nat := 0x102
/-- INVALID_FIELD -/
def invalidField : Nat := 0x103
/-- SEQ_TOO_LONG -/
def seqTooLong : Nat := 0x104
/-- MODEL_NOT_LOADED -/
def modelNotLoaded : Nat := 0x105
/-- DUPLICATE_ID -/
def duplicateId : Nat := 0x106
/-- NO_REQUEST_SLOT -/
def noRequestSlot : Nat := 0x107
/-- NO_KV_SPACE -/
def noKvSpace : Nat := 0x108
/-- GRAFT_REFUSED -/
def graftRefused : Nat := 0x109
/-- GRAFT_FAILED -/
def graftFailed : Nat := 0x10A
/-- QUOTA_EXCEEDED -/
def quotaExceeded : Nat := 0x10B
/-- WRONG_STATE -/
def wrongState : Nat := 0x10C
/-- NO_RESOURCE -/
def noResource : Nat := 0x10D
/-- CHECK_FAILED -/
def checkFailed : Nat := 0x10E
/-- KILLED -/
def killed : Nat := 0x201
/-- PLAN_MISMATCH -/
def planMismatch : Nat := 0x202
/-- TILE_FENCED -/
def tileFenced : Nat := 0x203
/-- RESIDENT_WRITE -/
def residentWrite : Nat := 0x204
/-- OP_INVALID -/
def opInvalid : Nat := 0x205
/-- PROGRAM_FAULT -/
def programFault : Nat := 0x206
/-- TRANSLATION_FAULT -/
def translationFault : Nat := 0x207
/-- TRELLIS_TIMEOUT -/
def trellisTimeout : Nat := 0x208
/-- REMOTE_FAULT -/
def remoteFault : Nat := 0x209
/-- ATOMIC_RETURN_DENIED -/
def atomicReturnDenied : Nat := 0x20A
/-- DEFER_FULL -/
def deferFull : Nat := 0x20B
/-- PUBLISH_FULL -/
def publishFull : Nat := 0x20C
/-- PUBLISH_INVALID -/
def publishInvalid : Nat := 0x20D
/-- CMD_OVERRUN -/
def cmdOverrun : Nat := 0x20E
/-- BAU_OVERRUN -/
def bauOverrun : Nat := 0x20F
/-- BAU_FENCED -/
def bauFenced : Nat := 0x210
/-- ADDR_UNMAPPED -/
def addrUnmapped : Nat := 0x211
/-- ACCESS_DENIED -/
def accessDenied : Nat := 0x212
/-- ABORTED -/
def aborted : Nat := 0x213
/-- FRAME_INVALID -/
def frameInvalid : Nat := 0x214
/-- INDEX_RANGE -/
def indexRange : Nat := 0x215
/-- TABLE_INVALID -/
def tableInvalid : Nat := 0x216
/-- KEY_MISMATCH -/
def keyMismatch : Nat := 0x301
/-- KEY_REVOKED -/
def keyRevoked : Nat := 0x302
/-- REGION_INVALID -/
def regionInvalid : Nat := 0x303
/-- REGION_BOUNDS -/
def regionBounds : Nat := 0x304
/-- REGION_PERM -/
def regionPerm : Nat := 0x305
/-- OP_UNSUPPORTED -/
def opUnsupported : Nat := 0x306
/-- POISONED -/
def poisoned : Nat := 0x307
/-- TARGET_FENCED -/
def targetFenced : Nat := 0x308
/-- PEER_MISMATCH -/
def peerMismatch : Nat := 0x309
/-- TIMEOUT -/
def timeout : Nat := 0x310
/-- NO_ROUTE -/
def noRoute : Nat := 0x311
/-- ABANDONED -/
def abandoned : Nat := 0x312
/-- WINDOW_INVALID -/
def windowInvalid : Nat := 0x314
/-- WINDOW_DENIED -/
def windowDenied : Nat := 0x315
/-- FLUSHED -/
def flushed : Nat := 0x320
/-- RETRY_EXCEEDED -/
def retryExceeded : Nat := 0x321
/-- REMOTE_ERROR -/
def remoteError : Nat := 0x322
/-- GRAFT_INVALID -/
def graftInvalid : Nat := 0x323
/-- BUSY -/
def busy : Nat := 0xF01
/-- UNKNOWN_OPCODE -/
def unknownOpcode : Nat := 0xF02
/-- WRONG_MAILBOX -/
def wrongMailbox : Nat := 0xF03
/-- NOT_READY -/
def notReady : Nat := 0xF04
/-- VERSION_STALE -/
def versionStale : Nat := 0xF05
/-- EPOCH_STALE -/
def epochStale : Nat := 0xF06
/-- MAP_STALE -/
def mapStale : Nat := 0xF07
/-- HOST_REMOVED -/
def hostRemoved : Nat := 0xF08
/-- CKPT_INVALID -/
def ckptInvalid : Nat := 0xE01
/-- CKPT_MISMATCH -/
def ckptMismatch : Nat := 0xE02
/-- CKPT_SPACE -/
def ckptSpace : Nat := 0xE03
/-- QUAL_FAILED -/
def qualFailed : Nat := 0xE04
/-- NOT_FENCED -/
def notFenced : Nat := 0xE05
/-- INJECT_DENIED -/
def injectDenied : Nat := 0xE06

end Sys2Proof.Machine.Stat
end

