-- ==== Sys2Proof/Machine/Ops.lean ====
section
/-!
DEFINITION. Sys2Proof/Machine/Ops.lean: the named operations over the state: records by number, byte memory in its
canonical form, the device physical map and who may reach what (R65 to R73), fault sources (R444 to R449), interrupts
and event entries (R372, R402, R440).
-/
namespace Sys2Proof.Machine

/-! ## Records by number -/

def State.die (s : State) (i : Nat) : Die := Tbl.getD s.dies i {}
def State.updDie (s : State) (i : Nat) (f : Die → Die) : State := { s with dies := Tbl.upd s.dies i {} f }
def State.tile (s : State) (i : Nat) : Tile := Tbl.getD s.tiles i {}
def State.updTile (s : State) (i : Nat) (f : Tile → Tile) : State := { s with tiles := Tbl.upd s.tiles i {} f }
def State.chan (s : State) (i : Nat) : Chan := Tbl.getD s.chans i {}
def State.updChan (s : State) (i : Nat) (f : Chan → Chan) : State := { s with chans := Tbl.upd s.chans i {} f }
def State.slice (s : State) (i : Nat) : AtuSlice := Tbl.getD s.atu.slices i {}
def State.updSlice (s : State) (i : Nat) (f : AtuSlice → AtuSlice) : State :=
  { s with atu := { s.atu with slices := Tbl.upd s.atu.slices i {} f } }
def State.eng (s : State) (i : Nat) : DmaEng := Tbl.getD s.dma i {}
def State.updEng (s : State) (i : Nat) (f : DmaEng → DmaEng) : State := { s with dma := Tbl.upd s.dma i {} f }
def State.dch (s : State) (e c : Nat) : DmaCh := Tbl.getD (s.eng e).chans c {}
def State.updDch (s : State) (e c : Nat) (f : DmaCh → DmaCh) : State :=
  s.updEng e (fun g => { g with chans := Tbl.upd g.chans c {} f })
def State.lpcOf (s : State) (i : Nat) : Lpc := Tbl.getD s.lpc i {}
def State.updLpc (s : State) (i : Nat) (f : Lpc → Lpc) : State := { s with lpc := Tbl.upd s.lpc i {} f }
def State.compOf (s : State) (i : Nat) : Comp := Tbl.getD s.comp i {}
def State.updComp (s : State) (i : Nat) (f : Comp → Comp) : State := { s with comp := Tbl.upd s.comp i {} f }
def State.sieveOf (s : State) (i : Nat) : Sieve := Tbl.getD s.sieve i {}
def State.updSieve (s : State) (i : Nat) (f : Sieve → Sieve) : State := { s with sieve := Tbl.upd s.sieve i {} f }
def State.ring (s : State) (i : Nat) : Ring := Tbl.getD s.rings i {}
def State.updRing (s : State) (i : Nat) (f : Ring → Ring) : State := { s with rings := Tbl.upd s.rings i {} f }
def State.tag (s : State) (i : Nat) : Tag := Tbl.getD s.tags i {}
def State.updTag (s : State) (i : Nat) (f : Tag → Tag) : State := { s with tags := Tbl.upd s.tags i {} f }
def State.group (s : State) (i : Nat) : Group := Tbl.getD s.groups i {}
def State.updGroup (s : State) (i : Nat) (f : Group → Group) : State := { s with groups := Tbl.upd s.groups i {} f }
def State.req (s : State) (i : Nat) : Req := Tbl.getD s.reqs i {}
def State.updReq (s : State) (i : Nat) (f : Req → Req) : State := { s with reqs := Tbl.upd s.reqs i {} f }
def State.tenant (s : State) (i : Nat) : Tenant := Tbl.getD s.tenants i {}
def State.updTenant (s : State) (i : Nat) (f : Tenant → Tenant) : State :=
  { s with tenants := Tbl.upd s.tenants i {} f }
def State.slot (s : State) (i : Nat) : Slot := Tbl.getD s.slots i {}
def State.updSlot (s : State) (i : Nat) (f : Slot → Slot) : State := { s with slots := Tbl.upd s.slots i {} f }
def State.ld (s : State) (i : Nat) : LDev := Tbl.getD s.lds i {}
def State.updLd (s : State) (i : Nat) (f : LDev → LDev) : State := { s with lds := Tbl.upd s.lds i {} f }
def State.tpwr (s : State) (t : Nat) : TilePwr := Tbl.getD s.pwr.tiles t {}
def State.updTpwr (s : State) (t : Nat) (f : TilePwr → TilePwr) : State :=
  { s with pwr := { s.pwr with tiles := Tbl.upd s.pwr.tiles t {} f } }
def State.cmp (s : State) (k : Nat) : Cmp := Tbl.getD s.pwr.cmps k {}
def State.updCmp (s : State) (k : Nat) (f : Cmp → Cmp) : State :=
  { s with pwr := { s.pwr with cmps := Tbl.upd s.pwr.cmps k {} f } }
def State.therm (s : State) (k : Nat) : Therm := Tbl.getD s.pwr.therm k {}
def State.acctOf (s : State) (i : Nat) : Acct := Tbl.getD s.acct i {}
def State.updAcct (s : State) (i : Nat) (f : Acct → Acct) : State := { s with acct := Tbl.upd s.acct i {} f }

def State.link (s : State) (i : Nat) : Link := Tbl.getD s.fab.links i {}
def State.updLink (s : State) (i : Nat) (f : Link → Link) : State :=
  { s with fab := { s.fab with links := Tbl.upd s.fab.links i {} f } }
def State.lnd (s : State) (d : Nat) : LinkDie := Tbl.getD s.fab.lds d {}
def State.updLnd (s : State) (d : Nat) (f : LinkDie → LinkDie) : State :=
  { s with fab := { s.fab with lds := Tbl.upd s.fab.lds d {} f } }
def State.conn (s : State) (c : Nat) : Conn := Tbl.getD s.fab.conns c {}
def State.updConn (s : State) (c : Nat) (f : Conn → Conn) : State :=
  { s with fab := { s.fab with conns := Tbl.upd s.fab.conns c {} f } }
def State.sq (s : State) (i : Nat) : SendQ := Tbl.getD s.fab.sqs i {}
def State.updSq (s : State) (i : Nat) (f : SendQ → SendQ) : State :=
  { s with fab := { s.fab with sqs := Tbl.upd s.fab.sqs i {} f } }
def State.cq (s : State) (i : Nat) : CplQ := Tbl.getD s.fab.cqs i {}
def State.updCq (s : State) (i : Nat) (f : CplQ → CplQ) : State :=
  { s with fab := { s.fab with cqs := Tbl.upd s.fab.cqs i {} f } }

/-- One free value is drawn: the counter moves on (log 4). -/
def State.draw (s : State) : State := { s with fresh := s.fresh + 1 }

/-! ## Byte memory in canonical form -/

/-- The byte at a key; an unlisted key reads 0x00 (log 2). -/
def memGet : List Host.Cell → Nat → Byte
  | [], _ => 0#8
  | (k, v) :: t, a => if k = a then v else memGet t a

/-- Write one byte, keeping addresses rising and listing no 0x00. -/
def memSet : List Host.Cell → Nat → Byte → List Host.Cell
  | [], a, v => if v = 0#8 then [] else [(a, v)]
  | (k, w) :: t, a, v =>
    if a < k then (if v = 0#8 then (k, w) :: t else (a, v) :: (k, w) :: t)
    else if a = k then (if v = 0#8 then t else (a, v) :: t)
    else (k, w) :: memSet t a v

/-- The keys from `a` to `a + n - 1` become 0x00. -/
def memZero (m : List Host.Cell) (a n : Nat) : List Host.Cell := m.filter (fun c => c.1 < a || a + n ≤ c.1)

/-- Cells in any order, brought into canonical form. -/
def memCanon (cs : List Host.Cell) : List Host.Cell := cs.foldl (fun m c => memSet m c.1 c.2) []

/-- The canonical form: addresses strictly rising, no listed 0x00. -/
def Memory.wfFrom : Option Nat → List Host.Cell → Bool
  | _, [] => true
  | lo, (k, v) :: t =>
    (match lo with
      | none => true
      | some l => decide (l < k)) && decide (v ≠ 0#8) && Memory.wfFrom (some k) t

/-- Memory is in canonical form. -/
def Memory.wf (m : List Host.Cell) : Bool := Memory.wfFrom none m

/-- Write bytes at rising keys given by `key`. -/
def memPut (key : Nat → Nat) : List Host.Cell → Nat → List Byte → List Host.Cell
  | m, _, [] => m
  | m, a, b :: bs => memPut key (memSet m (key a) b) (a + 1) bs

/-! ## The device physical map (R65 to R70) -/

/-- The regions of R65. -/
inductive Region where
  | t1 | t2sys | t2host | t2tenant
  | tileWin (t off : Nat)
  | ssram | mbSram | sbw | rom | staging | regs | remote | unmapped
  deriving DecidableEq, Repr

/-- Bytes of a tile's scratchpad: 48 MiB for a C-tile, 24 MiB for a B-tile (R70, R84). -/
def scratchBytes (t : Nat) : Nat := if t < 32 then 48 * 2 ^ 20 else 24 * 2 ^ 20

/-- First address of a tile's window (R70). -/
def tileBase (t : Nat) : Nat := 0x20000000000 + t * 0x4000000

/-- The region of a physical address. -/
def regionOf (a : Nat) : Region :=
  if a < 0x10000000000 then .t1
  else if a < 0x10800000000 then .t2sys
  else if a < 0x11800000000 then .t2host
  else if a < 0x20000000000 then .t2tenant
  else if a < 0x200C0000000 then
    let t := (a - 0x20000000000) / 0x4000000
    let off := (a - 0x20000000000) % 0x4000000
    if off < scratchBytes t then .tileWin t off else .unmapped
  else if 0x28000000000 ≤ a && a < 0x28000400000 then .ssram
  else if 0x28000400000 ≤ a && a < 0x28000500000 then .mbSram
  else if 0x28000500000 ≤ a && a < 0x28000600000 then .sbw
  else if 0x28000600000 ≤ a && a < 0x28000640000 then .rom
  else if 0x28001000000 ≤ a && a < 0x28002000000 then .staging
  else if 0x30000000000 ≤ a && a < 0x30010000000 then .regs
  else if 0x800000000000 ≤ a && a < 0x1000000000000 then .remote
  else .unmapped

/-- The channel an interleaved T1 address names (R66). -/
def t1Chan (a : Nat) : Nat := bits a 12 7 ^^^ bits a 19 7

/-- The one key under which a byte is held: both views of T1 give the channel-local alias (R66, R67). -/
def memKey (a : Nat) : Nat :=
  if a < 0x8000000000 then
    0x8000000000 + t1Chan a * 0x100000000 + bits a 19 20 * 4096 + bits a 0 12
  else a

/-- The alias address of channel c, offset o (R67). -/
def aliasAddr (c o : Nat) : Nat := 0x8000000000 + c * 0x100000000 + o

/-- The interleaved address of channel c, offset o (R67). -/
def interleaved (c o : Nat) : Nat := (o >>> 12) * 2 ^ 19 + (c ^^^ bits o 12 7) * 4096 + bits o 0 12

/-- The channel a T1 address lies in, if it is a T1 address. -/
def chanOf (a : Nat) : Option Nat :=
  if a < 0x8000000000 then some (t1Chan a)
  else if a < 0x10000000000 then some ((a - 0x8000000000) / 0x100000000)
  else none

/-- The LPDDR5X package of a T2 address (R69). -/
def t2Pkg (a : Nat) : Nat := let b := a - 0x10000000000; bits b 12 4 ^^^ bits b 16 4

/-- One byte of the physical map. -/
def State.byte (s : State) (a : Nat) : Byte := memGet s.mem (memKey a)

/-- `n` bytes from an address. -/
def State.bytes (s : State) (a : Nat) : Nat → List Byte
  | 0 => []
  | n + 1 => s.byte a :: s.bytes (a + 1) n

/-- The little-endian word of `n` bytes at an address. -/
def State.rd (s : State) (a n : Nat) : Nat := ofBytes (s.bytes a n)

/-- Store bytes from an address on. -/
def State.wrBytes (s : State) (a : Nat) (bs : List Byte) : State := { s with mem := memPut memKey s.mem a bs }

/-- Store a little-endian word of `n` bytes. -/
def State.wr (s : State) (a n v : Nat) : State := s.wrBytes a (toBytes n v)

/-- Zero a range that lies outside T1's interleaved view. -/
def State.zero (s : State) (a n : Nat) : State := { s with mem := memZero s.mem a n }

/-- An own-window offset of a tile. -/
def State.wrd (s : State) (t off n : Nat) : Nat := s.rd (tileBase t + off) n
def State.wwr (s : State) (t off n v : Nat) : State := s.wr (tileBase t + off) n v
def State.wbytes (s : State) (t off n : Nat) : List Byte := s.bytes (tileBase t + off) n
def State.wwrBytes (s : State) (t off : Nat) (bs : List Byte) : State := s.wrBytes (tileBase t + off) bs

/-- T3 contents of a handle. -/
def State.t3Bytes (s : State) (h : Nat) (n : Nat) : List Byte := (List.range n).map (fun i => memGet s.t3 (h * 65536 + i))
def State.t3Put (s : State) (h : Nat) (bs : List Byte) : State :=
  { s with t3 := memPut id (memZero s.t3 (h * 65536) 65536) (h * 65536) bs }
def State.t3Zero (s : State) (h : Nat) : State := { s with t3 := memZero s.t3 (h * 65536) 65536 }

/-- Host memory written by the device: each LD's host has its own addresses (R402). -/
def hostKey (ld a : Nat) : Nat := ld * 2 ^ 64 + a % 2 ^ 64
def State.hostPut (s : State) (ld a : Nat) (bs : List Byte) : State :=
  { s with hostMem := memPut (hostKey ld) s.hostMem a bs }

/-! ## Who may reach what (R71 to R73) -/

inductive Acc where
  | read | write | atomic
  deriving DecidableEq, Repr

/-- The DIE_SITE of a compute tile's die (R55). -/
def dieOfTile (t : Nat) : Nat := if t < 32 then t / 8 else (t - 32) / 4

/-- Local index of a tile on its die (R55). -/
def localOfTile (t : Nat) : Nat := if t < 32 then t % 8 else 8 + (t - 32) % 4

/-- The tile of a compute die's local index (R55). -/
def tileOfLocal (d i : Nat) : Nat := if i < 8 then 8 * d + i else 32 + 4 * d + (i - 8)

/-- The B-tile that owns a channel (R56). -/
def btileOfChan (c : Nat) : Nat := 32 + c / 8

/-- The compute die of a channel (R56). -/
def dieOfChan (c : Nat) : Nat := c / 32

/-- The DIE_SITE where a master's accesses are decoded (R72). -/
def Master.site : Master → Nat
  | .tile t => dieOfTile t
  | .dma e _ => e
  | .fabric d => 5 + d
  | _ => 4

/-- R71: whether a master may make an access to a region at all; region keys, resident locks and fences apart. Fabric
inbound reaches the system region and the staging SRAM only where R304, R324 and R326 place something: an access under a
region's key reaches neither (`State.keyedStatus`). -/
def allowed (m : Master) (r : Region) (a : Acc) : Bool :=
  match m, r, a with
  | _, .unmapped, _ => false
  | .tile _, .t1, _ => true
  | .tile _, .t2tenant, _ => true
  | .tile _, .t2host, .atomic => false
  | .tile _, .t2host, _ => true
  | .tile _, .tileWin _ _, _ => true
  | .tile _, .remote, _ => true
  | .tile _, _, _ => false
  | .dma _ _, _, .atomic => false
  | .dma _ _, .t1, _ => true
  | .dma _ fw, .t2sys, _ => fw
  | .dma _ _, .t2host, _ => true
  | .dma _ _, .t2tenant, _ => true
  | .dma _ _, .tileWin _ _, _ => true
  | .dma _ _, .staging, _ => true
  | .dma _ fw, .remote, a => fw || a == .read
  | .dma _ _, _, _ => false
  | .fabric _, .t1, _ => true
  | .fabric _, .t2sys, .atomic => false
  | .fabric _, .t2sys, _ => true
  | .fabric _, .t2tenant, _ => true
  | .fabric _, .tileWin _ _, _ => true
  | .fabric _, .staging, .write => true
  | .fabric _, _, _ => false
  | .control, .t1, _ => true
  | .control, .t2sys, _ => true
  | .control, .t2host, _ => true
  | .control, .t2tenant, _ => true
  | .control, .remote, _ => true
  | .control, .rom, .read => true
  | .control, .rom, _ => false
  | .control, _, .atomic => false
  | .control, _, _ => true
  | .hostMem _, .t2host, .atomic => false
  | .hostMem _, .t2host, _ => true
  | .hostMem _, _, _ => false
  | .hostIo _, .mbSram, .atomic => false
  | .hostIo _, .mbSram, _ => true
  | .hostIo _, _, _ => false

/-- The resident bytes of a tile (R106). -/
def Tile.resBytes (t : Tile) : Nat := t.resMib * 2 ^ 20

/-- The status of one access of `n` bytes under R71 to R73 and R107: OK or the status of the first thing that
forbids it. -/
def State.accStatus (s : State) (m : Master) (acc : Acc) (a n : Nat) : Nat :=
  let last := a + n - 1
  match regionOf a, regionOf last with
  | .unmapped, _ => Stat.addrUnmapped
  | _, .unmapped => Stat.addrUnmapped
  | .tileWin t off, .tileWin t' _ =>
    if t ≠ t' then Stat.addrUnmapped
    else if !(allowed m (.tileWin t off) acc) then Stat.accessDenied
    else if (s.tile t).fenced then Stat.tileFenced
    else if acc ≠ .read && (s.tile t).resLock && decide (off < (s.tile t).resBytes) then Stat.residentWrite
    else Stat.ok
  | r, r' => if r = r' && allowed m r acc then Stat.ok else Stat.accessDenied

/-! ## Fault sources (R444 to R449) -/

/-- Class of a source, 0 CORRECTED to 3 DEVICE; none for a reserved source, whose pair is tied idle
(R447 to R449, R503, R529). -/
def sourceClass (src : Nat) : Option Nat :=
  if src < 0x100 then
    let o := src % 0x40
    if o ≤ 0x0B then some 1
    else if o == 0x10 || o == 0x11 || o == 0x12 || o == 0x14 || o == 0x15 || o == 0x17 || o == 0x18 then some 0
    else if o == 0x13 || o == 0x1B then some 3
    else if o == 0x16 then some 1
    else if o == 0x19 || o == 0x1A then some 2
    else none
  else if src < 0x180 then
    let o := src - 0x100
    if o ≤ 2 || o == 4 || o == 5 || o == 7 || o == 8 || o == 0x17 || o == 0x18 then some 0
    else if o == 3 || (0x11 ≤ o && o ≤ 0x16) then some 3
    else if o == 6 || (9 ≤ o && o ≤ 0x10) then some 1
    else none
  else if src < 0x240 then
    let o := (src - 0x180) % 0x60
    if o ≤ 0x11 then some 1
    else if o == 0x12 || o == 0x13 || o == 0x14 || o == 0x16 || o == 0x17 then some 0
    else if o == 0x15 then some 3
    else if o == 0x18 then some 2
    else none
  else if src < 0x340 then
    let o := (src - 0x240) % 0x20
    if o ≤ 0x0F then some 1
    else if o == 0x10 || o == 0x11 then some 0
    else if o == 0x12 then some 3
    else none
  else if src < 0x380 then
    let o := src % 4
    if o == 0 then some 0 else if o == 1 then some 3 else none
  else if src ≤ 0x384 then some 3
  else if src < 0x3C0 then none
  else if src ≤ 0x3C4 then some 0
  else if src == 0x3C5 then some 3
  else if 0x3D0 ≤ src && src < 0x400 then some 1
  else none

/-- Source of an offset on a site: CD, HD or LD (R447). -/
def srcOf (site off : Nat) : Nat :=
  if site < 4 then 0x40 * site + off
  else if site == 4 then 0x100 + off
  else 0x180 + 0x60 * (site - 5) + off

/-- A unit asserts its pair: for 8 PCLK, or until reset when its class is DEVICE (R444). An LTU tick is two PCLK. -/
def State.raise (s : State) (src : Nat) : State :=
  match sourceClass src with
  | none => s
  | some c =>
    let till := if c == 3 then none else some (s.ltu + 4)
    { s with fcl := { s.fcl with
        asserted := (src, till) :: s.fcl.asserted.filter (fun p => p.1 ≠ src || p.2 = none) } }

/-- An access refused under R72 or R174: the die counts it and raises ADDR_VIOLATION. -/
def State.violate (s : State) (site : Nat) : State :=
  let s := s.updDie site (fun d => { d with addrViolations := satAdd 16 d.addrViolations 1 })
  s.raise (srcOf site (if site < 4 then 0x14 else 0x04))

/-- A check-code failure of a table on a die (R80). -/
def State.tableCheck (s : State) (site : Nat) : State :=
  s.updDie site (fun d => { d with tableCheck := satAdd 16 d.tableCheck 1 })

/-- The die whose memory an address is (R53, R56, R70): its channel's or its tile's compute die, else HD. -/
def dieOfAddr (a : Nat) : Nat :=
  match chanOf a with
  | some c => dieOfChan c
  | none => match regionOf a with
    | .tileWin t _ => dieOfTile t
    | _ => 4

/-- A refused access of a master, on the die where it is decoded (R72): the master's own compute die or HD; the die
that holds the address for what a link die sends on, since link dies have no ADDR_VIOLATION (R448; DEDUCED, log 69). -/
def State.violateAt (s : State) (m : Master) (a : Nat) : State :=
  s.violate (if Master.site m < 5 then Master.site m else dieOfAddr a)

/-! ## Interrupts and rings the device writes (R360, R402, R440) -/

/-- An MSI-X message of an LD: a masked vector becomes pending, an unmasked one is a host write (R402, R405). -/
def State.msix (s : State) (ld vec : Nat) : State :=
  match Tbl.find? (s.ld ld).msix vec with
  | none => s.updLd ld (fun l => { l with pba := if l.pba.contains vec then l.pba else vec :: l.pba })
  | some e =>
    if e.testBit 96 then s.updLd ld (fun l => { l with pba := if l.pba.contains vec then l.pba else vec :: l.pba })
    else s.hostPut ld (bits e 0 64) (toBytes 4 (bits e 64 32))

/-- Entries a ring holds that its consumer has not taken (R360). -/
def Ring.used (r : Ring) : Nat := (r.tail + 2 ^ 32 - r.head) % 2 ^ 32

/-- No slot is free (R360). -/
def Ring.full (r : Ring) : Bool := decide (2 ^ r.log2 ≤ r.used)

/-- PHASE of entry i (R360). -/
def Ring.phase (r : Ring) (i : Nat) : Nat := 1 - bits i r.log2 1

/-- Entry size of a kind (R358). -/
def RingKind.size : RingKind → Nat
  | .submission => 128
  | _ => 32

/-- Bit of a 32-byte entry that holds PHASE (R369, R371, R372). -/
def RingKind.phaseBit : RingKind → Nat
  | .token => 8 * 0x18
  | .event => 8 * 0x01
  | _ => 8 * 0x13

/-- A ring halts with a cause; RING_HALT keeps the first (R364, R397). The RING_CHECK event is posted by
`haltRing` of `Machine/Rings.lean`. -/
def State.markHalt (s : State) (r cause : Nat) : State :=
  let s := s.updRing r (fun g => if g.rstate = .halted then g else { g with rstate := .halted, was := g.rstate })
  if s.ringRegs.haltValid then s
  else { s with ringRegs := { s.ringRegs with haltValid := true, haltCause := cause, haltRing := r } }

/-- The interrupt that announces entries just written (R440). COALESCE_US counts 100 ticks to the microsecond. -/
def State.announce (s : State) (r : Nat) : State :=
  let g := s.ring r
  if !g.irq then s
  else
    let due := match g.lastIrq with
      | none => true
      | some t => decide (t + 100 * g.coalesceUs ≤ s.ltu)
    if due then (s.updRing r (fun g => { g with lastIrq := some s.ltu, unannounced := false })).msix g.ld g.vector
    else s.updRing r (fun g => { g with unannounced := true })

/-- Write one 32-byte entry at TAIL with its PHASE and CRC, advance TAIL and announce it. The ring is not full.
A LOC HOST ring needs the port up: otherwise the write fails and the ring is marked HALTED with cause HOST_ACCESS. -/
def State.putEntry (s : State) (r raw : Nat) : State :=
  let g := s.ring r
  let e := withCrc (setBits raw g.kind.phaseBit 1 (g.phase g.tail)) 32
  let off := 32 * (g.tail % 2 ^ g.log2)
  if g.window then
    ((s.wr (0x10800000000 + g.base + off) 32 e).updRing r
      (fun g => { g with tail := (g.tail + 1) % 2 ^ 32 })).announce r
  else if s.cxl.state == 2 then
    ((s.hostPut g.ld (g.base + off) (toBytes 32 e)).updRing r
      (fun g => { g with tail := (g.tail + 1) % 2 ^ 32 })).announce r
  else
    { s with cxl := { s.cxl with hostWrFail := satAdd 16 s.cxl.hostWrFail 1 } }.markHalt r 4

/-- An event entry of R372, PHASE and CRC apart. -/
def eventRaw (kind tenant arg0 reqId arg1 arg2 : Nat) : Nat :=
  kind % 256 + tenant % 2 ^ 16 * 2 ^ 16 + arg0 % 2 ^ 32 * 2 ^ 32 + reqId % 2 ^ 64 * 2 ^ 64 + arg1 % 2 ^ 64 * 2 ^ 128
    + arg2 % 2 ^ 32 * 2 ^ 192

/-- A dropped event is counted, and owed to its ring when it has one (R365, R372). -/
def State.dropEvent (s : State) (r : Option Nat) : State :=
  let s := { s with ringRegs := { s.ringRegs with eventsLost := satAdd 16 s.ringRegs.eventsLost 1 } }
  match r with
  | none => s
  | some r => s.updRing r (fun g => { g with lost := g.lost + 1 })

/-- Post an entry on the event ring of an LD (R365, R372). -/
def State.eventTo (s : State) (ld raw : Nat) : State :=
  if s.fcl.halted then s
  else match Tbl.find? s.cfg.eventRing ld with
    | none => s.dropEvent none
    | some r =>
      let g := s.ring r
      if g.rstate ≠ .active || g.full || g.disabled then s.dropEvent (some r) else s.putEntry r raw

/-- A device event goes to ADMIN_LD's event ring (R372). -/
def State.devEvent (s : State) (kind arg0 arg1 arg2 : Nat) : State :=
  s.eventTo s.cfg.dev.adminLd (eventRaw kind 0xFFFF arg0 0 arg1 arg2)

/-- A tenant's event goes to the event ring of its TENANT_LD (R372). -/
def State.tenantEvent (s : State) (tn kind arg0 reqId arg1 arg2 : Nat) : State :=
  s.eventTo (s.tenant tn).ld (eventRaw kind tn arg0 reqId arg1 arg2)

/-- A ring halts, and one RING_CHECK event names it: to its LD's event ring, or to ADMIN_LD's when that LD has none
or it is the halted ring itself (R364, R372). -/
def State.haltRing (s : State) (r cause : Nat) : State :=
  if (s.ring r).rstate = .halted then s
  else
    let ld := (s.ring r).ld
    let s := s.markHalt r cause
    let raw := eventRaw 0x0B 0xFFFF r 0 cause 0
    match Tbl.find? s.cfg.eventRing ld with
    | some e => if e = r then s.eventTo s.cfg.dev.adminLd raw else s.eventTo ld raw
    | none => s.eventTo s.cfg.dev.adminLd raw

/-- A write of an entry on a ring, with the halt event when the host write fails. -/
def State.postEntry (s : State) (r raw : Nat) : State :=
  let s' := s.putEntry r raw
  if (s'.ring r).rstate = .halted && (s.ring r).rstate ≠ .halted then
    let was := (s.ring r).rstate
    { s' with rings := Tbl.upd s'.rings r {} (fun g => { g with rstate := was }) }.haltRing r 4
  else s'

/-! ## Tenants, tiles and accounting -/

/-- Add to the entry of a feed table that has the same KIND, DOMAIN and TENANT (R479). -/
def feedAdd : List (Nat × Nat × Nat × Nat) → Nat × Nat × Nat × Nat → Option (List (Nat × Nat × Nat × Nat))
  | [], _ => none
  | e :: t, r =>
    if e.1 = r.1 && e.2.1 = r.2.1 && e.2.2.1 = r.2.2.1 then some ((e.1, e.2.1, e.2.2.1, wrap64 (e.2.2.2 + r.2.2.2)) :: t)
    else (feedAdd t r).map (e :: ·)

/-- A tap's report enters the concentrator's table, or is held while the table is full (R479). -/
def Feed.report (f : Feed) (r : Nat × Nat × Nat × Nat) : Feed :=
  match feedAdd f.table r with
  | some t => { f with table := t }
  | none => if f.table.length < 4096 then { f with table := f.table ++ [r] } else { f with held := f.held ++ [r] }

/-- A hardware tap reports a quantity against a tenant (R477, R478). -/
def State.tap (s : State) (kind domain tn n : Nat) : State :=
  if n = 0 then s else { s with feed := s.feed.report (kind, domain, tn, n) }

/-- Counted bytes by tier: 0 T1_RD to 5 T3_WR (R391). -/
def State.countBytes (s : State) (tn i n : Nat) : State :=
  (s.updAcct tn (fun a => { a with bytes := Tbl.upd a.bytes i 0 (fun v => wrap64 (v + n)) })).tap (2 + i / 2) 0 tn n

/-- Bytes sent and received by link, against a tenant (R391, R477). -/
def State.countTx (s : State) (tn lk n : Nat) : State :=
  (s.updAcct tn (fun a => { a with tx := Tbl.upd a.tx lk 0 (fun v => wrap64 (v + n)) })).tap 5 (5 + lk / 18) tn n
def State.countRx (s : State) (tn lk n : Nat) : State :=
  (s.updAcct tn (fun a => { a with rx := Tbl.upd a.rx lk 0 (fun v => wrap64 (v + n)) })).tap 6 (5 + lk / 18) tn n

/-! ## Dividers (R512, R521) -/

/-- The compute die whose tiles a site's heat slows: a CD's own; the owning CD's for an S or M site (R523). -/
def heatDie (site : Nat) : Option Nat :=
  if site < 4 then some site
  else if 8 ≤ site && site < 16 then some ((site - 8) / 2)
  else if 16 ≤ site && site < 32 then some ((site - 16) / 4)
  else none

/-- The hardware clamp holds a tile (R511, R521). -/
def State.clamped (s : State) (t : Nat) : Bool :=
  s.pwr.clampPower || s.pwr.clampVin || s.pwr.clampTherm.any (fun site => heatDie site == some (dieOfTile t))

/-- The divider in force on a tile: the largest of its three (R521). -/
def State.divOf (s : State) (t : Nat) : Nat :=
  Nat.max (Nat.max (s.tpwr t).ageDiv (s.tpwr t).fwDiv) (if s.clamped t then 8 else 6)

/-- Sevenths of an ACLK in one LTU tick at a divider: 8, 48/7 or 6 ACLK (R512, R514). -/
def rate7 (d : Nat) : Nat := 336 / d

/-- ACLK a running command has run, in the tile's own ACLK (R118, R512). -/
def State.runAclk (s : State) (t : Nat) (c : TileCmd) : Nat := (c.run7 + (s.ltu - c.start) * rate7 (s.divOf t)) / 7

/-- A change of dividers: what ran so far counts at the old ones. -/
def State.redivide (s : State) (f : State → State) : State :=
  let s := (List.range 48).foldl (fun s t => match (s.tile t).cur with
    | none => s
    | some c => s.updTile t (fun x =>
        { x with cur := some { c with run7 := c.run7 + (s.ltu - c.start) * rate7 (s.divOf t), start := s.ltu } })) s
  f s

/-- A tile's state: IDLE when no command runs (R119). -/
def Tile.idle (t : Tile) : Bool := t.cur.isNone

/-- The device runs: its rails are in regulation, RESET_N is high, the collector has not halted it (R456, R542, R543). -/
def State.live (s : State) : Bool := !s.fcl.halted && s.boot.released && s.boot.good

/-- The port presents a logical device: LD 0 always, the others as an MLD (R403). -/
def State.presents (s : State) (l : Nat) : Bool := l = 0 || s.cxl.mld

/-- The life-cycle state is FACTORY (R501). -/
def State.inFactory (s : State) : Bool := s.sec.otp.lc = 2

end Sys2Proof.Machine
end

