-- ==== Sys2Proof/Machine/Atu.lean ====
section
/-!
DEFINITION. Sys2Proof/Machine/Atu.lean: translation (R125 to R132), the page tables firmware writes, and the commands
on the ATU registers (R159 to R163).
-/
namespace Sys2Proof.Machine

/-! ## Leaves and entries (R128) -/

/-- A leaf mapping a physical block. -/
def leafValid (pa : Nat) (writable atomic : Bool) : Nat :=
  secdedWrite (1 + 2 + (if writable then 4 else 0) + (if atomic then 8 else 0) + bits pa 16 32 * 2 ^ 16)

/-- A leaf that is not valid, with its STATE (0 EMPTY, 1 IN_T3 with a handle, 2 PRUNED, 3 MOVING). -/
def leafState (st handle : Nat) : Nat := secdedWrite (st * 32 + (if st = 1 then handle * 2 ^ 16 else 0))

/-- An entry that points to the next table. -/
def entryTable (pa : Nat) : Nat := secdedWrite (1 + bits pa 16 32 * 2 ^ 16)

/-- Bits the entry layout reserves (R128). -/
def entryReserved (e : Nat) : Bool := bits e 48 9 ≠ 0 || bits e 8 8 ≠ 0 || bit e 4

/-- Level of a walk: index into its table and bytes an entry at it maps (R127). -/
def walkIdx (va : Nat) : Nat → Nat
  | 3 => bits va 39 17
  | 2 => bits va 30 9
  | 1 => bits va 21 9
  | _ => bits va 16 5
def leafLog2 : Nat → Nat
  | 3 => 39
  | 2 => 30
  | 1 => 21
  | _ => 16

/-- What a table entry says. -/
inductive EntryRead where
  | table (pa : Nat)
  | leaf (e : Nat)
  | fault (cause : Nat)
  deriving DecidableEq, Repr

/-- The verdict on an entry's data bits at a level (R128 to R130). A pointer at level 0, a leaf with address bits below its
size, and a STATE above 3 count as uncorrectable entries, cause 4 (DESIGN CHOICE, log 76). -/
def readEntry (level e : Nat) : EntryRead :=
  if entryReserved e || (level = 3 && bit e 1) then .fault 4
  else if !(bit e 0) then
    match bits e 5 3 with
    | 0 => .fault 1
    | 1 => .fault 2
    | 2 => .fault 3
    | 3 => .fault 5
    | _ => .fault 4
  else if bit e 1 then
    if bits e 16 32 * 2 ^ 16 % 2 ^ leafLog2 level ≠ 0 then .fault 4 else .leaf e
  else if level = 0 then .fault 4
  else .table (bits e 16 32 * 2 ^ 16)

/-- Site of a slice: CD0 to CD3, HD. -/
def sliceSource (sl off : Nat) : Nat := if sl < 4 then 0x40 * sl + 0x10 + off else 0x100 + off

/-- Correctable report of a slice: ATU_CHECK.C. -/
def State.atuC (s : State) (sl : Nat) : State := s.raise (if sl < 4 then 0x40 * sl + 0x15 else 0x105)
/-- Uncorrectable report of a slice: ATU_CHECK.U. -/
def State.atuU (s : State) (sl : Nat) : State := s.raise (if sl < 4 then 0x40 * sl + 0x16 else 0x106)

/-- Read, correct and judge one entry (R129). -/
def State.walkEntry (s : State) (sl level table va : Nat) : State × EntryRead :=
    match secdedRead (s.rd (table + 8 * walkIdx va level) 8) with
    | .clean d =>
      let e := readEntry level d
      (if e = .fault 4 then (s.updSlice sl (fun a => { a with uncorrected := satAdd 16 a.uncorrected 1 })).atuU sl else s, e)
    | .corrected d =>
      let s := (s.updSlice sl (fun a => { a with corrected := satAdd 16 a.corrected 1 })).atuC sl
      let e := readEntry level d
      (if e = .fault 4 then (s.updSlice sl (fun a => { a with uncorrected := satAdd 16 a.uncorrected 1 })).atuU sl else s, e)
    | .uncorrectable =>
      ((s.updSlice sl (fun a => { a with uncorrected := satAdd 16 a.uncorrected 1 })).atuU sl, .fault 4)

/-- One level of a walk, and the levels below it: the entry that ends it, with its level (R127, R129). -/
def State.walk (s : State) (sl va : Nat) : Nat → Nat → State × (Nat × EntryRead)
  | 0, table =>
    let (s, e) := s.walkEntry sl 0 table va
    (s, 0, e)
  | l + 1, table =>
    let (s, e) := s.walkEntry sl (l + 1) table va
    match e with
    | .table pa => s.walk sl va l pa
    | e => (s, l + 1, e)
/-- The first translation fault after VALID was cleared is recorded (R163). -/
def State.recordFault (s : State) (sl va cause tile asid : Nat) : State :=
  s.updSlice sl (fun a => if a.faultValid then a else
    { a with faultValid := true, faultVpn := bits va 16 40, faultCause := cause, faultTile := tile, faultAsid := asid })

/-- Cached translations a slice can hold (R131). -/
def tlbSize (sl : Nat) : Nat := if sl < 4 then 16384 else 8192

/-- A cached leaf that covers an address. -/
def AtuSlice.lookup (a : AtuSlice) (asid va : Nat) : Option (Nat × Nat) :=
  (a.tlb.find? (fun t => t.1 = asid && t.2.1 = va / 2 ^ leafLog2 t.2.2.1)).map (fun t => (t.2.2.1, t.2.2.2))

/-- The permission check and the physical address of a leaf (R130). -/
def leafAccess (level e va : Nat) (acc : Acc) : Except Nat Nat :=
  if acc = .write && !(bit e 2) then .error 8
  else if acc = .atomic && !(bit e 3) then .error 8
  else .ok (bits e 16 32 * 2 ^ 16 + va % 2 ^ leafLog2 level)

/-- Translate one address for an access. The error is the status of R130; the cause is in FAULT_VA. A full cache drops the
translation it took first (DESIGN CHOICE, log 77). -/
def State.translate (s : State) (sl asid tenant va : Nat) (acc : Acc) (tile : Nat) : State × Except Nat Nat :=
  let fail := fun (s : State) (cause : Nat) =>
    (s.recordFault sl va cause tile asid, (Except.error (if cause = 8 then Stat.accessDenied else Stat.translationFault) : Except Nat Nat))
  if !s.atu.enable then fail s 7
  else
    let raw := s.rd (s.atu.asidTbl + 16 * asid) 16
    if !(crcOk raw 16) then fail (s.atuC sl) 7
    else if !(bit raw 8) || fld raw 8 2 ≠ tenant then fail s 7
    else
      match (s.slice sl).lookup asid va with
      | some (level, e) =>
        match leafAccess level e va acc with
        | .ok pa => (s, .ok pa)
        | .error c => fail s c
      | none =>
        if 2 ^ bits raw 0 5 ≤ bits va 39 17 then fail s 6
        else
          let s := s.updSlice sl (fun a => { a with walks := satAdd 32 a.walks 1 })
          let (s, level, r) := s.walk sl va 3 (bits raw 12 36 * 2 ^ 12)
          match r with
          | .leaf e =>
            let s := s.updSlice sl (fun a => { a with tlb := ((asid, va / 2 ^ leafLog2 level, level, e) :: a.tlb).take (tlbSize sl) })
            match leafAccess level e va acc with
            | .ok pa => (s, .ok pa)
            | .error c => fail s c
          | .fault c => fail s c
          | .table _ => fail s 4

/-- Translate a range page by page: physical pieces in order, or the status of the first page that fails. -/
def State.translateRange (s : State) (sl asid tenant : Nat) (acc : Acc) (tile : Nat) :
    Nat → Nat → Nat → State × Except Nat (List (Nat × Nat))
  | 0, _, _ => (s, .ok [])
  | f + 1, va, len =>
    if len = 0 then (s, .ok [])
    else
      let n := Nat.min len (65536 - va % 65536)
      match s.translate sl asid tenant va acc tile with
      | (s, .error e) => (s, .error e)
      | (s, .ok pa) =>
        match s.translateRange sl asid tenant acc tile f (va + n) (len - n) with
        | (s, .error e) => (s, .error e)
        | (s, .ok ps) => (s, .ok ((pa, n) :: ps))

/-! ## Page tables as firmware writes them (R127, R132, R228) -/

/-- The page-table pool (R228). -/
def ptPool : Nat := 0x10200000000

/-- Take `n` bytes, aligned to `n`, from the page-table pool, and zero them. -/
def State.ptAlloc (s : State) (n : Nat) : State × Nat :=
  let a := roundUp s.pools.pt n
  ({ s with pools := { s.pools with pt := a + n } }.zero (ptPool + a) n, ptPool + a)

/-- ROOT_LOG2 that firmware gives every ASID it assigns (DESIGN CHOICE, log 18). -/
def rootLog2 : Nat := 17

/-- The root table of an ASID. -/
def State.rootOf (s : State) (asid : Nat) : Nat := bits (s.rd (s.atu.asidTbl + 16 * asid) 8) 12 36 * 2 ^ 12

/-- Write an ASID entry for a tenant with a fresh root table (R125, R126). -/
def State.openAsid (s : State) (asid tenant : Nat) : State :=
  let (s, root) := s.ptAlloc (2 ^ rootLog2 * 8)
  s.wr (s.atu.asidTbl + 16 * asid) 16 (withCrc (root + 0x100 + rootLog2 + tenant * 2 ^ 64) 16)

/-- Bytes of a table at a level below the root (R127); a table entry holds address bits [47:16], so every table is
placed at a multiple of 64 KiB. -/
def tableBytes : Nat := 65536

/-- The address of the level-0 entry of a page, making the tables on the way. -/
def State.leafAddr (s : State) (va : Nat) : Nat → Nat → State × Nat
  | 0, table => (s, table + 8 * walkIdx va 0)
  | l + 1, table =>
    let ea := table + 8 * walkIdx va (l + 1)
    let e := s.rd ea 8
    if bit e 0 then s.leafAddr va l (bits e 16 32 * 2 ^ 16)
    else
      let (s, t) := s.ptAlloc tableBytes
      (s.wr ea 8 (entryTable t)).leafAddr va l t

/-- Write the leaf of one 64 KiB page of an ASID. -/
def State.setLeaf (s : State) (asid vpn entry : Nat) : State :=
  let (s, a) := s.leafAddr (vpn * 65536) 3 (s.rootOf asid)
  s.wr a 8 entry

/-- The pages an invalidation names. -/
def InvScope.names (sc : InvScope) (asid va : Nat) (level : Nat) : Bool :=
  match sc with
  | .all => true
  | .asid a => asid = a
  | .range a vpn n => asid = a && decide (va * 2 ^ (leafLog2 level - 16) < vpn + n) &&
      decide (vpn < (va + 1) * 2 ^ (leafLog2 level - 16))

/-- Every slice drops the named translations (R131, R161). -/
def State.dropTlb (s : State) (sc : InvScope) : State :=
  let f := fun (a : AtuSlice) => { a with tlb := a.tlb.filter (fun t => !(sc.names t.1 t.2.1 t.2.2.1)) }
  { s with atu := { s.atu with slices := Tbl.mapAll s.atu.slices f } }

/-! ## Commands -/

/-- A write of INV_CMD (R161): refused while BUSY. -/
def State.invCmd (s : State) (sc : InvScope) : State :=
  if !s.live then s
  else if s.atu.invBusy.isSome then { s with atu := { s.atu with invReject := true } }
  else { s with atu := { s.atu with invBusy := some sc } }

def execInvOneAsid (asid : BitVec 16) (s : State) : Host.Outcome State Fault Refusal :=
  .next (s.invCmd (.asid asid.toNat))

def execInvRange (asid count : BitVec 16) (s : State) : Host.Outcome State Fault Refusal :=
  .next (s.invCmd (.range asid.toNat (s.atu.invVa / 65536) (count.toNat + 1)))

def execInvAll (s : State) : Host.Outcome State Fault Refusal := .next (s.invCmd .all)

/-- ATU_CTRL_WRITE (R159): ENABLE on HD. -/
def execAtuCtrlWrite (v : BitVec 32) (s : State) : Host.Outcome State Fault Refusal :=
  if !s.live then .next s else .next { s with atu := { s.atu with enable := v.getLsbD 0 } }

/-- ATU_CTRL_CLR (R162): clears the slice's ATU_CNT. -/
def execAtuCtrlClr (slice : Fin 5) (s : State) : Host.Outcome State Fault Refusal :=
  if !s.live then .next s
  else .next (s.updSlice slice.val (fun a => { a with walks := 0, corrected := 0, uncorrected := 0 }))

end Sys2Proof.Machine
end

