-- ==== Sys2Proof/Machine/TileOps.lean ====
section
/-!
DEFINITION. Sys2Proof/Machine/TileOps.lean: the operations the tile commands share: fields of a tile command
descriptor (R113), hardware threads (R100 to R102), the release of a tile, and the failure or kill of a group (R117,
R387, R462).
-/
namespace Sys2Proof.Machine

/-! ## Fields of the tile command descriptor (R113) -/

def cdTag (d : Nat) : Nat := bits d 0 10
def cdGroup (d : Nat) : Nat := bits d 16 10
def cdSize (d : Nat) : Nat := fld d 0x04 1
def cdTile (d : Nat) : Nat := bits d 40 6
def cdShadow (d : Nat) : Bool := bit d 48
def cdResMib (d : Nat) : Nat := fld d 0x07 1
def cdTenant (d : Nat) : Nat := fld d 0x08 2
def cdSlot (d : Nat) : Nat := fld d 0x0A 2
def cdCfg (d : Nat) : Nat := fld d 0x0C 2
def cdAsid (d : Nat) : Nat := fld d 0x0E 2
def cdProgram (d : Nat) : Nat := bits d 128 26
def cdArgs (d : Nat) : Nat := bits d 160 26
def cdThreads (d : Nat) : Nat := fld d 0x18 4
def cdEst (d : Nat) : Nat := fld d 0x1C 4
def cdBound (d : Nat) : Nat := fld d 0x20 4
def cdStep (d : Nat) : Nat := fld d 0x24 4
def cdLimit (d : Nat) : Nat := fld d 0x28 4

/-- Every reserved bit of the descriptor is 0 (R113, R15). -/
def cdReservedOk (d : Nat) : Bool :=
  bits d 10 6 = 0 && bits d 26 6 = 0 && bits d 46 2 = 0 && bits d 49 7 = 0 && bits d 154 6 = 0 && bits d 186 6 = 0 &&
    fld d 0x2C 16 = 0

/-- R114: the status of the first check that a descriptor fails at a tile, or OK. -/
def startStatus (t : Nat) (x : Tile) (d : Nat) : Nat :=
  if !(crcOk d 64) then Stat.checkFailed
  else if !(cdReservedOk d) || cdTile d ≠ t || cdThreads d = 0 || cdSize d = 0 || 48 < cdSize d then Stat.invalidField
  else if cdResMib d ≠ x.resMib then Stat.planMismatch
  else if x.fenced then Stat.tileFenced
  else Stat.ok

/-! ## Threads -/

/-- A thread that can run now (R102). -/
def Thread.ready (t : Thread) : Bool := !t.ended && t.wait.isNone

/-- Register x0 reads 0. -/
def Thread.xr (t : Thread) (r : Fin 32) : Nat := if r.val = 0 then 0 else Tbl.getD t.x r.val 0

/-- Writes of x0 are discarded. -/
def Thread.xw (t : Thread) (r : Fin 32) (v : Nat) : Thread :=
  if r.val = 0 then t else { t with x := Tbl.put t.x r.val (wrap64 v) }

/-- The register value of a load of 2^lg bytes: sign- or zero-extended (R100). -/
def extendLoad (a : CoreAcc) (v : Nat) : Nat :=
  let w := 8 * 2 ^ a.lg.val
  if a.zext then v % 2 ^ w else ofInt 64 (toSigned w v)

/-- A load's data reaches its register (R100); a 16-bit load is boxed in the 32-bit register. -/
def Thread.loaded (t : Thread) (a : CoreAcc) (v : Nat) : Thread :=
  if a.fp then { t with f := Tbl.put t.f a.rd.val (if a.lg.val = 1 then 0xFFFF0000 + v % 2 ^ 16 else v % 2 ^ 32) }
  else t.xw a.rd (extendLoad a v)

def TileCmd.thread? (c : TileCmd) (th : Nat) : Option Thread := Tbl.find? c.threads th

/-- Readiness of a thread by number; a thread that was not started is never ready. -/
def TileCmd.isReady (c : TileCmd) (th : Nat) : Bool :=
  match c.thread? th with
  | some t => t.ready
  | none => false

/-- The next ready thread of core `k` after thread `h` of the core, in round-robin order (R102). -/
def TileCmd.nextReady (c : TileCmd) (k h : Nat) : Option Nat :=
  ((rangeFrom (h + 1) 8).find? (fun i => c.isReady (8 * k + i % 8))).map (· % 8)

/-- The thread core `k` runs: the present one while it is ready, else the next ready one (R102). -/
def TileCmd.choose (c : TileCmd) (k : Nat) (cur : Option Nat) : Option Nat :=
  match cur with
  | some h => if c.isReady (8 * k + h) then some h else c.nextReady k h
  | none => c.nextReady k 7

/-- Every core of a tile switches as R102 lays down. -/
def Tile.settle (x : Tile) : Tile :=
  match x.cur with
  | none => { x with core := [] }
  | some c => { x with core := (List.range 4).map (fun k => (k, c.choose k (Tbl.getD x.core k none))) }

/-- The command a tile is running, while it is RUNNING or ENDED. -/
def State.cmd? (s : State) (t : Nat) : Option TileCmd := (s.tile t).cur

/-- The tile's command changed, and its cores settled. -/
def State.updCmd (s : State) (t : Nat) (f : TileCmd → TileCmd) : State :=
  s.updTile t (fun x => Tile.settle { x with cur := x.cur.map f })

def State.updThread (s : State) (t th : Nat) (f : Thread → Thread) : State :=
  s.updCmd t (fun c => { c with threads := Tbl.upd c.threads th {} f })

/-- Hart index of a tile's hardware thread (R555). -/
def tileHart (t th : Nat) : Nat := 8 + 32 * t + th

/-- The thread an instruction of which is about to be performed: its command is RUNNING, it is ready, its core runs it,
and the debug module has not halted it (R555). -/
def State.running? (s : State) (t th : Nat) : Option (TileCmd × Thread) :=
  if !s.live || s.jtag.dbg.halted.contains (tileHart t th) then none
  else match s.cmd? t with
    | none => none
    | some c =>
      match c.thread? th with
      | none => none
      | some h =>
        if c.phase = .running && h.ready && Tbl.getD (s.tile t).core (th / 8) none = some (th % 8) then some (c, h)
        else none

/-! ## Operations -/

/-- An operation by handle. -/
def TileCmd.op? (c : TileCmd) (h : Nat) : Option Op := c.ops.find? (fun o => o.handle = h)

/-- The operation has completed. -/
def TileCmd.isDone (c : TileCmd) (h : Nat) : Bool :=
  match c.op? h with
  | some o => o.phase = .complete
  | none => false

/-- A dependency handle is satisfied: none, or complete (R103, R105). -/
def TileCmd.depOk (c : TileCmd) (h : Nat) : Bool := h = 0 || c.isDone h

/-- The operation at the head of its unit's queue, with its dependencies complete (R105). -/
def TileCmd.atHead (c : TileCmd) (h : Nat) : Option Op :=
  match c.op? h with
  | none => none
  | some o =>
    if o.phase = .queued && (c.ops.find? (fun p => p.unit = o.unit && p.phase = .queued)).map (·.handle) = some h &&
        c.depOk (fld o.desc 4 4) && c.depOk (fld o.desc 8 4) then some o
    else none

/-- Change one operation. -/
def TileCmd.setOp (c : TileCmd) (h : Nat) (f : Op → Op) : TileCmd :=
  { c with ops := c.ops.map (fun o => if o.handle = h then f o else o) }

/-- Operations waiting in a unit's queue (R105). -/
def TileCmd.queuedIn (c : TileCmd) (u : Nat) : Nat := (c.ops.filter (fun o => o.unit = u && o.phase = .queued)).length

/-- Every operation issued so far, up to a handle, has completed. -/
def TileCmd.opsDoneTo (c : TileCmd) (h : Nat) : Bool := c.ops.all (fun o => h < o.handle || o.phase = .complete)

/-- A load of the thread has not returned (R100, R102). -/
def Thread.loading (t : Thread) : Bool :=
  match t.wait with
  | some (.issue _ _) => true
  | some (.remote _ _ _ _) => true
  | some (.held _) => true
  | _ => false

/-- No access of any thread is outstanding. -/
def TileCmd.quiet (c : TileCmd) : Bool := c.threads.all (fun e => e.2.outst = 0 && !e.2.loading)

/-- Stores in the store buffer of a thread's core (R102). -/
def TileCmd.buffered (c : TileCmd) (th : Nat) : Nat :=
  ((c.threads.filter (fun e => e.1 / 8 = th / 8)).map (·.2.outst)).sum

/-- Wait conditions that have cleared let their threads go on (R102). -/
def TileCmd.wake (c : TileCmd) : TileCmd :=
  let clear := fun (th : Nat) (t : Thread) => match t.wait with
    | some (.op h) => c.isDone h
    | some (.room u) => decide (c.queuedIn u < 16)
    | some .fence => t.outst = 0
    | some (.fencet h) => c.quiet && c.opsDoneTo h
    | some .storeBuf => decide (c.buffered th < 16)
    | _ => false
  { c with threads := c.threads.map (fun e => if clear e.1 e.2 then (e.1, { e.2 with wait := none }) else e) }

/-- LR reservations on the aligned 8-byte words of a written range are lost (R100). -/
def TileCmd.dropResv (c : TileCmd) (off n : Nat) : TileCmd :=
  { c with threads := Tbl.mapAll c.threads (fun t => match t.resv with
      | some r => if r / 8 * 8 < off + n && off < r / 8 * 8 + 8 then { t with resv := none } else t
      | none => t) }

/-- A write to a tile window takes the reservations it meets. -/
def State.killResv (s : State) (a n : Nat) : State :=
  match regionOf a with
  | .tileWin t off => s.updTile t (fun x => { x with cur := x.cur.map (fun c => c.dropResv off n) })
  | _ => s

/-- Bytes placed in memory by a master other than the engines of a tile. -/
def State.placeBytes (s : State) (a : Nat) (bs : List Byte) : State := (s.wrBytes a bs).killResv a bs.length

/-! ## Release of a tile, failure and kill of a group -/

/-- Charge engine time of a run that ends, in the tile's own ACLK (R118, R391, R512); a shadow run is system time
(R464, R477). -/
def State.chargeRun (s : State) (t : Nat) (c : TileCmd) : State :=
  let n := s.runAclk t c
  if cdShadow c.desc then s.tap 1 (dieOfTile t) 0xFFFF n
  else (s.updAcct (cdTenant c.desc) (fun a =>
    if t < 32 then { a with ctAclk := wrap64 (a.ctAclk + n) } else { a with btAclk := wrap64 (a.btAclk + n) })).tap 1
      (dieOfTile t) (cdTenant c.desc) n

/-- A channel's program is to be stopped (R185); BAU_PROGRAM_STOP abandons it. -/
def State.stopProg (s : State) (ch : Nat) : State :=
  let w := Config.bauWritten s.fresh
  let f := Config.bauFlying s.fresh
  (s.updChan ch (fun k => { k with prog := k.prog.map (fun p =>
    if p.stopping then p
    else { p with stopping := true, written := w % (p.units + 1), flying := f % (Nat.min (w % (p.units + 1)) 255 + 1) }) })).draw

/-- Writes under way of the programs that a tile's command had, when they were stopped (R117, R185). -/
def State.bauFlying (s : State) (t tag : Nat) : Nat :=
  ((List.range 128).map (fun ch => match (s.chan ch).prog with
    | some p => if p.tile = t && p.tag = tag && p.stopping then p.flying else 0
    | none => 0)).sum

/-- Stop every BAU program of a B-tile (R185). -/
def State.stopProgs (s : State) (t : Nat) : State :=
  (List.range 128).foldl (fun s ch =>
    match (s.chan ch).prog with
    | some p => if p.tile = t then s.stopProg ch else s
    | none => s) s

/-- The working region is dead: its bytes are unspecified until something is placed there (R108, log 30). -/
def State.killWork (s : State) (t : Nat) : State :=
  let lo := tileBase t + (s.tile t).resBytes
  let hi := tileBase t + scratchBytes t
  let free := (Config.deadWork s.fresh).filter (fun c => lo ≤ c.1 && c.1 < hi)
  { s with mem := free.foldl (fun m (e : Host.Cell) => memSet m e.1 e.2) (memZero s.mem lo (hi - lo)) }.draw

/-- Held accesses of a command that has ended: their data is discarded, their writes continue (R117). -/
def State.detachHeld (s : State) (t : Nat) : State :=
  { s with chans := Tbl.mapAll s.chans (fun k => { k with hold := k.hold.map (fun h => match h.acc.who with
      | .thread u _ _ => if u.val = t then { h with acc := { h.acc with who := .nobody } } else h
      | .dma (.tileDma u _) _ _ => if u.val = t then { h with acc := { h.acc with who := .nobody } } else h
      | _ => h) }) }

/-- Bursts of an agent that have not completed. -/
def State.waiting (s : State) (ag : Agent) : List Burst := s.fab.bursts.filter (fun b => b.ag = ag)

/-- The least transfer-order position among bursts, `n` when there is none. -/
def leastPos (n : Nat) (bs : List Burst) : Nat := bs.foldl (fun a b => Nat.min a b.pos) n

/-- The longest prefix whose bytes are at the destination (R219). -/
def State.xferDone (s : State) (ag : Agent) (f : Xfer) : Nat := f.held.foldl Nat.min (leastPos f.cap (s.waiting ag))

/-- A 16-byte entry of R219: KIND 1 HALF, 2 FULL. -/
def dmaEntry (id status kind done16 : Nat) : Nat :=
  withCrc (id % 2 ^ 32 + status % 2 ^ 16 * 2 ^ 32 + kind * 2 ^ 48 + bits done16 32 8 * 2 ^ 56 + bits done16 0 32 * 2 ^ 64) 16

/-- The entry of a tile transfer at CPL_ADDR, or 16 bytes above it (R217, R219). -/
def State.tileEntry (s : State) (t kind status done : Nat) (f : Xfer) : State :=
  let a := fld f.desc 0x30 4 + (if kind = 1 then 16 else 0)
  s.placeBytes (tileBase t + a) (toBytes 16 (dmaEntry f.handle status kind (done / 16)))

/-- A tile's transfer ends KILLED with its command: its full entry is posted, and a channel that firmware has stopped
halts (R219, R220, R231). -/
def State.killXfer (s : State) (tile : Fin 48) (c : Nat) : State :=
  let e := dieOfTile tile.val
  let s := match (s.dch e c).xfer with
    | some f => s.tileEntry tile.val 2 Stat.killed (s.xferDone (.tileDma tile f.handle) f) f
    | none => s
  s.updDch e c (fun x => { x with xfer := none, state := if x.state = .stopping || x.state = .halted then .halted else .idle })

/-- The transfers of a tile's two channels end with its command; responses to reads under way are discarded (R117,
R220). -/
def State.dropTileDma (s : State) (t : Nat) : State :=
  let tile : Fin 48 := ⟨t % 48, Nat.mod_lt _ (by decide)⟩
  let mine := fun (b : Burst) => match b.ag with
    | .tileDma u _ => u.val = t
    | _ => false
  let s := (s.killXfer tile (2 * localOfTile t)).killXfer tile (2 * localOfTile t + 1)
  { s with fab := { s.fab with bursts := s.fab.bursts.filter (fun b => !(mine b)) } }

/-- The Sieve leaves an operation that ends with its command (R256). -/
def State.leaveSieve (s : State) (t : Nat) : State :=
  s.updSieve (dieOfTile t) (fun v => { v with run := v.run.filter (fun r => r.1 ≠ t) })

/-- The tile is released: RES_LOCK clears, EMB_PIN clears, nothing runs, the working region is dead
(R107, R108, R116, R117, R253). -/
def State.releaseTile (s : State) (t : Nat) : State :=
  let s := match s.cmd? t with
    | none => s
    | some c => s.chargeRun t c
  (((((s.updTile t (fun x => { x with cur := none, core := [], resLock := false, emb := {} })).stopProgs t).detachHeld t).dropTileDma t).leaveSieve t).killWork t

/-- A command that has ended with a drain count of zero no longer counts for the table version it pinned (R254). -/
def State.unpin (s : State) (g : Nat) : State :=
  match (s.tag g).pin with
  | some (sl, d) => (s.updTag g (fun x => { x with pin := none })).updSlot sl (fun m => { m with pins := Tbl.upd m.pins d 0 (· - 1) })
  | none => s

/-- A command is final and its drain count zero (R117, R378). -/
def Tag.over (x : Tag) : Bool := x.held && x.drain = 0 && (x.st = .committed || x.st = .failed || x.st = .killed)

/-- A command that is final with nothing to drain gives up its table pin, and its tag is freed unless it is to be re-run
(R254, R378). -/
def State.freeTag (s : State) (g : Nat) : State :=
  let x := s.tag g
  if !x.over then s
  else if x.rerun then s.unpin g
  else (s.unpin g).updTag g (fun x => { x with held := false })

/-- A DRAINING token ring whose HEAD has reached TAIL and whose RESV is 0 is free again (R366). -/
def Ring.drained (r : Ring) : Ring :=
  if r.rstate = .draining && r.head = r.tail && r.resv = 0 then { r with rstate := .active, bind := 0 } else r

/-- Free the token-ring room a group's works reserved (R382). -/
def State.freeRoom (s : State) (ws : List Work) : State :=
  ws.foldl (fun s w => if w.w = 0 then s else s.updRing w.ring (fun r => Ring.drained { r with resv := r.resv - w.w })) s

/-- One member of a group leaves the tile as FAILED or KILLED (R117): a queued one is removed, a running one is
stopped, with the writes it had issued still draining, those in a hold queue among them; one that has ENDED has none
(R115); a committing one is untouched. -/
def State.stopMember (s : State) (g : Nat) (failed : Bool) (status : Nat) : State :=
  let x := s.tag g
  let count := fun (s : State) =>
    let s := s.updTile x.tile (fun y =>
      if failed then { y with failed := satAdd 16 y.failed 1 } else { y with killed := satAdd 16 y.killed 1 })
    s.updAcct (cdTenant x.desc) (fun a =>
      if failed then { a with failed := wrap64 (a.failed + 1) } else { a with killed := wrap64 (a.killed + 1) })
  let mark := fun (s : State) (drain : Nat) =>
    s.updTag g (fun x => { x with st := if failed then .failed else .killed, status := status, drain := drain })
  match x.st with
  | .queued =>
    count (mark (s.updTile x.tile (fun y => { y with queue := y.queue.filter (fun d => cdTag d ≠ g) })) x.drain)
  | .running =>
    let held := match s.cmd? x.tile with
      | some c => (c.threads.map (·.2.outst)).sum
      | none => 0
    let s' := s.releaseTile x.tile
    count (mark s'.draw (Nat.min 65535 (held + s'.bauFlying x.tile g + Config.drainAtKill s'.fresh % 65536)))
  | .ended => count (mark (s.releaseTile x.tile) 0)
  | _ => s

/-- A record of the command journal (R461). -/
def State.journalRec (s : State) (kind : JKind) (g planPos : Nat) (descs pubs : List Nat) (defs : List (Nat × Nat × Deferred)) : State :=
  let x := s.group g
  { s with cjournal := ⟨kind, g, x.step, planPos, x.members, x.works.map (·.req), descs, pubs, defs⟩ :: s.cjournal }

/-- A deferred operation as the commit record holds it, 16 bytes: its address, kind and size, and its value (R111; log 15). -/
def Deferred.enc (d : Deferred) : List Byte :=
  toBytes 6 d.addr ++ toBytes 1 (match d.kind with
    | .store => 0
    | .addInt => 1
    | .addFp32 => 2
    | .addBf16 => 3
    | .swap => 4) ++ toBytes 1 d.size ++ toBytes 8 d.val

/-- JKIND (R461). -/
def JKind.code : JKind → Nat
  | .dispatch => 1
  | .commit => 2
  | .ended => 3

/-- A record's bytes: the body padded to 32, after the header (R461; log 15). -/
def JRec.enc (r : JRec) : List Byte :=
  let body := packFields (r.descs.map (fun d => (64, d))) ++ (if r.kind = .dispatch then packFields (r.reqs.map (fun i => (4, i))) else []) ++
    r.defs.flatMap (fun e => e.2.2.enc) ++ packFields (r.pubs.map (fun e => (16, e)))
  let body := body ++ List.replicate (roundUp body.length 32 - body.length) 0#8
  let head := packFields [(1, r.kind.code), (1, 0), (2, r.group), (4, 32 + body.length), (8, r.step), (8, r.planPos), (4, crc32c body)]
  head ++ toBytes 4 (crc32c head) ++ body

/-- Bytes of the command journal (R228). -/
def journalBytes : Nat := 0x40000000

/-- One record written at the ring's position, which moves on (R228, R461). -/
def State.putJRec (s : State) (r : JRec) : State :=
  let bs := r.enc
  let at_ := s.pools.jpos
  let n := journalBytes - at_
  let s := (s.wrBytes (0x10040000000 + at_) (bs.take n)).wrBytes 0x10040000000 (bs.drop n)
  { s with pools := { s.pools with jpos := (at_ + bs.length) % journalBytes, jdone := s.pools.jdone + 1 } }

/-- Every record that is not yet in the command journal is written, the oldest first. -/
def State.flushJournal (s : State) : State :=
  ((s.cjournal.take (s.cjournal.length - s.pools.jdone)).reverse).foldl (fun (s : State) r => s.putJRec r) s

/-- A group leaves the tiles: the failing member, when there is one, with FAILED and its status, every other with
KILLED (R117). -/
def State.stopGroup (s : State) (g : Nat) (failing : Option Nat) (status : Nat) : State :=
  let ms := (s.group g).members
  let s := ms.foldl (fun s m =>
    if failing = some m then s.stopMember m true status else s.stopMember m false Stat.killed) s
  let s := s.updGroup g (fun x => { x with status := status })
  if failing.isSome && decide (ms.length ≤ 1) then s
  else { s with reqRegs := { s.reqRegs with kills := satAdd 16 s.reqRegs.kills 1 } }

/-- A stopped group is to be re-run: its tags are kept and marked (R388). -/
def State.markRerun (s : State) (g : Nat) : State :=
  (s.group g).members.foldl (fun s m => (s.updTag m (fun x => { x with rerun := true })).freeTag m) s

/-- A stopped group ends without a re-run: an END record, its room released, its tags freed (R378, R382, R461). -/
def State.closeGroup (s : State) (g status : Nat) : State :=
  let s := s.journalRec .ended g status [] [] []
  let s := s.freeRoom (s.group g).works
  let s := s.updGroup g (fun x => { x with open_ := false, status := status })
  (s.group g).members.foldl (fun s m => (s.updTag m (fun x => { x with rerun := false, posted := true })).freeTag m) s

/-- A fenced tile is among a group's (R462). -/
def State.groupFenced (s : State) (g : Nat) : Bool := (s.group g).members.any (fun m => (s.tile (s.tag m).tile).fenced)

/-- A fault in one member: the group fails; it is re-run when it names a fenced tile, else it ends (R117, R387, R462). -/
def State.failGroup (s : State) (g : Nat) (failing : Nat) (status : Nat) : State :=
  let s := s.stopGroup g (some failing) status
  if s.groupFenced g then s.markRerun g else s.closeGroup g status

/-- The command a tile runs fails with a status (R117, R118). -/
def State.failCmd (s : State) (t status : Nat) : State :=
  match s.cmd? t with
  | none => s
  | some c => if c.phase = .committing then s else s.failGroup (cdGroup c.desc) (cdTag c.desc) status

/-- A command that took an access violation (R72): the die raises ADDR_VIOLATION when the map refused it. -/
def State.failAccess (s : State) (t status : Nat) : State :=
  let s := if status = Stat.addrUnmapped || status = Stat.accessDenied || status = Stat.tileFenced || status = Stat.residentWrite
    then s.violate (dieOfTile t) else s
  s.failCmd t status

end Sys2Proof.Machine
end

