-- ==== Sys2Proof/Machine/Links.lean ====
section
/-!
DEFINITION. Sys2Proof/Machine/Links.lean: Tendril links: packets, egress queues as their producers see them, retry,
bring-up, HELLO and the agreement between devices (R266 to R279, R301, R303).
-/
namespace Sys2Proof
open Machine

/-! ## Packets (R269) -/

def Pkt.h (p : Pkt) : Nat := p.hdr.toNat
def Pkt.ptype (p : Pkt) : Nat := fld p.h 0 1
def Pkt.queue (p : Pkt) : Nat := bits p.h 8 3
def Pkt.ecn (p : Pkt) : Bool := bit p.h 11
def Pkt.dflits (p : Pkt) : Nat := fld p.h 2 1
def Pkt.blen (p : Pkt) : Nat := fld p.h 3 1
def Pkt.lseq (p : Pkt) : Nat := bits p.h 32 12
def Pkt.src (p : Pkt) : Nat := bits p.h 48 12
def Pkt.dst (p : Pkt) : Nat := bits p.h 64 12
def Pkt.mapEpoch (p : Pkt) : Nat := fld p.h 0x0A 2
/-- Flits of a packet: its header flit and its data flits. -/
def Pkt.flits (p : Pkt) : Nat := 1 + p.dflits

/-- HCRC covers bytes 0x00 to 0x1D (R269, R271). -/
def Pkt.hcrcOk (p : Pkt) : Bool := fld p.h 0x1E 2 == crc16 (toBytes 0x1E p.h)

/-- The packet with LSEQ and HCRC as the link assigns them (R342); the CRC covers the LSEQ. -/
def Pkt.stamp (p : Pkt) (lseq : Nat) : Pkt :=
  let h := setBits p.h 32 12 lseq
  { p with hdr := BitVec.ofNat 256 (setFld h 0x1E 2 (crc16 (toBytes 0x1E h))) }

/-- The packet with its ECN bit set; the device never clears it (R343). -/
def Pkt.mark (p : Pkt) : Pkt := { p with hdr := BitVec.ofNat 256 (setBits p.h 11 1 1) }

end Sys2Proof

namespace Sys2Proof.Machine

/-- Data padded with zeros to whole flits (R289). -/
def padFlits (bs : List Byte) : List Byte := bs ++ List.replicate (32 * cdiv bs.length 32 - bs.length) 0#8

/-- A packet of this device; LSEQ and HCRC come when it is sent. -/
def mkPkt (ptype queue blen src dst epoch body : Nat) (data : List Byte) : Pkt :=
  let d := padFlits data
  let h := ptype % 256 + queue % 8 * 2 ^ 8 + (d.length / 32) % 256 * 2 ^ 16 + blen % 256 * 2 ^ 24
    + src % 4096 * 2 ^ 48 + dst % 4096 * 2 ^ 64 + epoch % 65536 * 2 ^ 80 + body % 2 ^ 144 * 2 ^ 96
  { hdr := BitVec.ofNat 256 h, data := d }

/-- This device's FABRIC_ID (R269, R405). -/
def State.fid (s : State) : Nat := s.cfg.dev.fabricId

/-- The link die of a global link index (R301). -/
def dieOfLink (lk : Nat) : Nat := lk / 18

/-! ## Egress queues as producers see them (R336, R337) -/

def Link.queueOf (l : Link) (k : Nat) : List Queued := Tbl.getD l.q k []
def Link.flitsIn (l : Link) (k : Nat) : Nat := ((l.queueOf k).map (·.p.flits)).sum

/-- The queue has room for a packet: 1,024 flits (R337). -/
def Link.room (l : Link) (k flits : Nat) : Bool := decide (l.flitsIn k + flits ≤ 1024)

/-- The packets of a connection leave a link's queues (R320, R356); a queue left empty has a deficit of 0 (R341). -/
def Link.dropConn (l : Link) (c : Nat) : Link :=
  let l := { l with q := Tbl.mapAll l.q (fun xs => xs.filter (fun y => y.conn ≠ some c)), wait := l.wait.filter (fun y => y.conn ≠ some c) }
  { l with deficit := (List.range 6).map (fun j => if (l.queueOf (2 + j)).isEmpty then 0 else nth l.deficit j 0) }

/-- A policer entry checks: CRC and VALID (R353). -/
def Policer.check (p : Policer) : Bool := crcOk p.raw 32
def Policer.valid (p : Policer) : Bool := bit p.raw 136

/-- The buckets of a policer at an LTU time: each gains its rate in 0.01 byte a tick, up to its burst (R354). -/
def Policer.refill (p : Policer) (now : Nat) : Policer :=
  let dt := now - p.at_
  { p with c := Nat.min (100 * bits p.raw 64 24) (p.c + bits p.raw 0 21 * dt),
           p := Nat.min (100 * bits p.raw 96 24) (p.p + bits p.raw 32 21 * dt), at_ := now }

/-- R354: the colour of a packet of `b` bytes. -/
def Policer.colour (p : Policer) (b : Nat) : Colour :=
  if p.p < 100 * b then .red else if p.c < 100 * b then .yellow else .green

/-- The policer of a packet, and how many entries failed their check on use. Tenant 0xFFFF and the queues but Q2 to Q6
pass unpoliced, their entries unused (R352, R353). -/
def LinkDie.polOf (d : LinkDie) (tenant queue : Nat) : Option Nat × Nat :=
  let m := Tbl.getD d.tmap tenant 0
  if m = 0 || tenant = 0xFFFF || queue < 2 || 6 < queue then (none, 0)
  else if bits m 24 8 ≠ crc8 (toBytes 3 m) then (none, 1)
  else if !(bit m 16) then (none, 0)
  else
    let k := bits m 0 12
    let p := Tbl.getD d.pols k {}
    if !p.check then (none, 1)
    else if p.valid && bit p.raw (144 + (queue - 2)) then (some k, 0)
    else (none, 0)

/-- EGR_CHECK: an entry failed its check on use (R350, R353, R357). -/
def State.egrCheck (s : State) (d n : Nat) : State :=
  if n = 0 then s
  else (s.updLnd d (fun x => { x with egrFails := satAdd 32 x.egrFails n })).raise (0x180 + 0x60 * d + 0x17)

/-- A packet is evaluated by its policer, if it has one (R352, R354). -/
def State.evalPkt (s : State) (lk : Nat) (x : Queued) : State × Queued :=
  let d := dieOfLink lk
  match x.tenant with
  | none => (s, { x with colour := some .green, pol := none })
  | some tn =>
    let r := (s.lnd d).polOf tn x.p.queue
    let s := s.egrCheck d r.2
    match r.1 with
    | none => (s, { x with colour := some .green, pol := none })
    | some k =>
      let p := (Tbl.getD (s.lnd d).pols k {}).refill s.ltu
      let col := p.colour (32 * x.p.flits)
      let hold := bits p.raw 128 8 = 1
      let p := if col = .red && hold && x.colour ≠ some .red then { p with heldPkts := satAdd 32 p.heldPkts 1 } else p
      (s.updLnd d (fun y => { y with pols := Tbl.put y.pols k p }), { x with colour := some col, pol := some k })

/-- A packet is held: its policer found it red and its action is HOLD (R354). -/
def State.isHeld (s : State) (lk : Nat) (x : Queued) : Bool :=
  match x.colour, x.pol with
  | some .red, some k => bits (Tbl.getD (s.lnd (dieOfLink lk)).pols k {}).raw 128 8 = 1
  | _, _ => false

/-- The candidate of a queue: its oldest packet that is not held and does not wait behind a held one of its tenant
(R338). Packets met on the way that no policer has seen are evaluated; the position in the queue is given. -/
def State.findCand (s : State) (lk : Nat) : Nat → List (Option Nat) → List Queued → List Queued → State × List Queued × Option Nat
  | _, _, done, [] => (s, done, none)
  | i, stuck, done, x :: rest =>
    if x.tenant.isSome && stuck.contains x.tenant then s.findCand lk (i + 1) stuck (done ++ [x]) rest
    else
      let r := match x.colour with
        | none => s.evalPkt lk x
        | some _ => (s, x)
      if r.1.isHeld lk r.2 then r.1.findCand lk (i + 1) (r.2.tenant :: stuck) (done ++ [r.2]) rest
      else (r.1, done ++ r.2 :: rest, some i)

/-- Every queue of a link has its candidate evaluated (R354). -/
def State.evalQueue (s : State) (lk k : Nat) : State :=
  let r := s.findCand lk 0 [] [] ((s.link lk).queueOf k)
  r.1.updLink lk (fun l => { l with q := Tbl.put l.q k r.2.1 })

/-- Put a packet at the end of its queue. -/
def State.push (s : State) (lk : Nat) (x : Queued) : State :=
  let k := x.p.queue
  (s.updLink lk (fun l => { l with q := Tbl.put l.q k (l.queueOf k ++ [x]) })).evalQueue lk k

/-- A producer's packet enters its queue, or waits for room (R337). -/
def State.enq (s : State) (lk : Nat) (x : Queued) : State :=
  let l := s.link lk
  if l.room x.p.queue x.p.flits && (l.wait.all (fun y => y.p.queue ≠ x.p.queue)) then s.push lk x
  else s.updLink lk (fun l => { l with wait := l.wait ++ [x] })

/-- Packets that wait enter queues that have room, in order (R337). -/
def State.refillQueues (s : State) (lk : Nat) : State :=
  let ws := (s.link lk).wait
  let s := s.updLink lk (fun l => { l with wait := [] })
  ws.foldl (fun s x => s.enq lk x) s

/-- A LINK_CTRL packet of this end (R272). -/
def State.linkCtl (s : State) (lk kind seq credit : Nat) : State :=
  let body := kind % 256 + seq % 4096 * 2 ^ 16 + credit % 2 ^ 64 * 2 ^ 32
  s.enq lk { p := mkPkt 0x01 0 0 s.fid 0 s.cmap.cur body [] }

/-! ## HELLO (R273 to R277, R303) -/

/-- The local HELLO record as this link sends it, with the link's EXPECT_ID (R274, R301). -/
def State.helloOut (s : State) (lk : Nat) : Nat :=
  let r := setFld s.fab.local_ 0x14 2 (s.link lk).expectId
  setFld r 0x1C 4 (crc32c (toBytes 0x1C r ++ (toBytes 0x60 r).drop 0x20))

/-- R274: the CRC of a HELLO record. -/
def helloCrcOk (r : Nat) : Bool := fld r 0x1C 4 == crc32c (toBytes 0x1C r ++ (toBytes 0x60 r).drop 0x20)

/-- Send a HELLO on a link: kind 1 REQUEST, 2 REPLY, 3 UPDATE. -/
def State.sendHello (s : State) (lk dst kind : Nat) : State :=
  let body := kind % 256 + lk % 256 * 2 ^ 8
  s.enq lk { p := mkPkt 0x02 7 0 s.fid dst s.cmap.cur body (toBytes 96 (s.helloOut lk)) }

def peerState (e : Nat) : Nat := fld e 0x11 1
def peerLinks (e : Nat) : Nat := bits e 64 36
def peerMsfLink (e : Nat) : Nat := bits e 128 6
def State.peer (s : State) (f : Nat) : Nat := Tbl.getD s.fab.peers f 0
def State.peerActive (s : State) (f : Nat) : Bool := peerState (s.peer f) == 1

/-- The FABRIC_ID of a HELLO record (R274). -/
def helloFid (r : Nat) : Nat := bits r (8 * 0x12) 12

/-- R275: the first failing check, 0 when every check holds. `own` is this end's record, `r` the other's, `held` the peer
entry of the other's FABRIC_ID, which has no DEVICE_UID while no HELLO has taught one. -/
def helloVerdict (own r held : Nat) : Nat :=
  let uid := fun x => fld x 0 8
  let fid := helloFid
  let expect := fun x => bits x (8 * 0x14) 12
  let lc := fun x => fld x 0x0C 1
  let dig := fun x => [fld x 0x20 32, fld x 0x40 32]
  if !(helloCrcOk r) then 1
  else if uid r = uid own || (fid r ≠ 0 && fid own ≠ 0 &&
      (fid r = fid own || (fld held 0 8 ≠ 0 && fld held 0 8 ≠ uid r))) then 2
  else if bits r (8 * 0x08 + 24) 8 ≠ bits own (8 * 0x08 + 24) 8 then 3
  else if !(((lc r = 3 || lc r = 4) && (lc own = 3 || lc own = 4)) || (lc r = 2 && lc own = 2)) then 4
  else if !((dig own).any (fun d => d ≠ 0 && (dig r).contains d)) then 5
  else if !((expect r = 0 || expect r = fid own) && (expect own = 0 || expect own = fid r)) then 6
  else 0

/-- A peer entry with what HELLO teaches, its CRC rewritten (R303). -/
def peerLearn (e r verdict : Nat) : Nat :=
  let e := setFld e 0x00 8 (fld r 0 8)
  let e := setFld e 0x11 1 (if verdict = 0 then 1 else 2)
  let e := setFld e 0x12 1 verdict
  let e := setFld e 0x14 4 (fld r 0x08 4)
  withCrc (setFld e 0x18 2 (fld r 0x0E 2)) 32

/-- Only the state of a peer entry changes, its CRC rewritten. -/
def peerMark (e st verdict : Nat) : Nat := withCrc (setFld (setFld e 0x11 1 st) 0x12 1 verdict) 32

def State.setPeer (s : State) (f e : Nat) : State := { s with fab := { s.fab with peers := Tbl.put s.fab.peers f e } }

/-! ## Retry (R272) -/

/-- The link carries packets: after step 2 of its bring-up and not while a retrain runs. -/
def Link.carries (l : Link) : Bool := l.state = .linkUp || l.state = .active || l.state = .managementOnly

/-- What a link loses when it becomes FAILED or DOWN (R272, R356). -/
def Link.discard (l : Link) : Link :=
  { l with replay := [], replayAt := none, q := [], wait := [], rx := [], nakSent := false, naks := 0, accepted := 0,
           prev := none, visit := none, deficit := [0, 0, 0, 0, 0, 0], helloAt := none, helloTries := 0,
           retrainBit := false, sending := none }

/-- A packet that a lost queue held waits to be sent again on another path (R317, R356). -/
def Conn.unqueued (c : Conn) (msn pidx : Nat) : Conn :=
  { c with out := c.out.map (fun m => if m.msn = msn && m.inQ.contains pidx then
      { m with inQ := m.inQ.erase pidx, resend := m.resend ++ [pidx] } else m) }

/-- A link loses its buffers and queues; packets of messages go back to their connections (R317, R356). -/
def State.discardLink (s : State) (lk : Nat) : State :=
  let l := s.link lk
  ((l.q.flatMap (·.2) ++ l.wait).filterMap (·.rae)).foldl (fun s e => s.updConn e.1 (fun y => y.unqueued e.2.1 e.2.2))
    (s.updLink lk Link.discard)

/-- LSEQ distance from a to b, modulo 4,096. -/
def seqDist (a b : Nat) : Nat := (b + 4096 - a) % 4096

/-- Credits that a LINK_CTRL packet returns: byte q counts units of 8 flits (R272). -/
def Link.addCredit (l : Link) (credit : Nat) : Link :=
  { l with credit := (List.range 8).foldl (fun c k => Tbl.upd c k 0 (· + 8 * fld credit k 1)) l.credit }

/-- The receive buffer gives up a packet, and its room is owed to the partner as credit. -/
def State.freeRx (s : State) (lk : Nat) (p : Pkt) : State :=
  s.updLink lk (fun l => { l with rx := l.rx.erase p, freed := Tbl.upd l.freed p.queue 0 (· + p.flits) })

/-- A unit consumes a received packet: if it stands in a link's receive buffer its room is freed. The link it came
on is given. -/
def State.takeRx (s : State) (p : Pkt) : State × Option Nat :=
  match firstBelow 36 (fun lk => (s.link lk).rx.contains { p with via := 36 }) with
  | none => (s, none)
  | some lk => (s.freeRx lk { p with via := 36 }, some lk)

/-- A unit consumes a received packet, noting the link it came on: that of its receive buffer, or its sender's MSF link
(R391). -/
def State.arrive (s : State) (p : Pkt) : State × Pkt :=
  let r := s.takeRx p
  (r.1, { p with via := r.2.getD (peerMsfLink (s.peer p.src)) })

/-- A unit consumes the oldest received packet that fits a description. -/
def State.takeRxLike (s : State) (f : Pkt → Bool) : State × Option Pkt :=
  match firstBelow 36 (fun lk => (s.link lk).rx.any f) with
  | none => (s, none)
  | some lk =>
    match (s.link lk).rx.find? f with
    | none => (s, none)
    | some p => (s.freeRx lk p, some p)

/-- The packet's PTYPE is one that R270 or R314 names. -/
def ptypeKnown (t : Nat) : Bool := (1 ≤ t && t ≤ 5) || (0x10 ≤ t && t ≤ 0x17)

/-- R268, R270, R276: an accepted packet is delivered, or dropped and counted. -/
def State.deliver (s : State) (lk : Nat) (p : Pkt) : State :=
  let l := s.link lk
  let away := p.dst ≠ s.fid && !(p.ptype = 2 && p.dst = 0)
  let mgmt := p.ptype = 2 || p.ptype = 3
  let msf := p.ptype = 4 || p.ptype = 5
  let shut := (l.state = .managementOnly || !(s.peerActive p.src)) && !mgmt && !msf
  if away || !(ptypeKnown p.ptype) || shut then
    s.updLink lk (fun l => { l with dropped := satAdd 16 l.dropped 1, freed := Tbl.upd l.freed p.queue 0 (· + p.flits) })
  else s.updLink lk (fun l => { l with rx := l.rx ++ [p] })

/-- The link fails a check on a packet: it discards, and sends one NAK with the LSEQ it expects (R272). -/
def State.nak (s : State) (lk : Nat) : State :=
  let l := s.link lk
  if l.nakSent then s
  else (s.updLink lk (fun l => { l with nakSent := true })).linkCtl lk 0x2 l.rxSeq 0

/-- The codewords the FEC corrected or flagged are counted (R267, R301). -/
def Link.fecCount (l : Link) : FecOutcome → Link
  | .clean => l
  | .corrected n => { l with fecCorrected := satAdd 32 l.fecCorrected n }
  | .uncorrectable n => { l with fecUncorrected := satAdd 32 l.fecUncorrected n }

/-- The FEC marked the packet's flits bad (R267). -/
def fecBad : FecOutcome → Bool
  | .uncorrectable _ => true
  | _ => false

/-- LINK_PACKET_RECEIVE (R267, R271, R272): the link accepts a packet in order, or discards it and sends a NAK. A LINK_CTRL
packet that checks is outside the numbering, and what it does is a step of its own. -/
def execLinkPacketReceive (lk : Fin 36) (p : Pkt) (fec : FecOutcome) (s : State) : Host.Outcome State Fault Refusal :=
  let l := s.link lk.val
  if !s.live || !l.carries then .next s
  else
    let s := s.updLink lk.val (fun l => l.fecCount fec)
    let s := if p.hcrcOk then s else s.updLink lk.val (fun l => { l with hdrCheck := satAdd 16 l.hdrCheck 1 })
    if l.nakSent || (p.ptype = 1 && p.hcrcOk && !(fecBad fec)) then .next s
    else if !p.hcrcOk || fecBad fec || p.lseq ≠ l.rxSeq then .next (s.nak lk.val)
    else
      let s := s.updLink lk.val (fun l =>
        { l with rxSeq := (l.rxSeq + 1) % 4096, accepted := l.accepted + 1,
                 acceptedAt := if l.accepted = 0 then s.ltu else l.acceptedAt })
      .next (s.deliver lk.val p)

/-- A LINK_CTRL packet is handled, and its flit of Q0's receive buffer freed (R272). -/
def Link.tookCtl (l : Link) : Link := { l with freed := Tbl.upd l.freed 0 0 (· + 1) }

/-- LINK_ACK (R272): packets up to the acknowledged LSEQ leave the replay buffer, and credit returns. -/
def execLinkAck (lk : Fin 36) (seq : BitVec 12) (credit : BitVec 64) (s : State) : Host.Outcome State Fault Refusal :=
  let l := s.link lk.val
  if !s.live || !l.carries then .next s
  else
    let n := match l.replay with
      | [] => 0
      | (k, _) :: _ => if seqDist k seq.toNat < l.replay.length then seqDist k seq.toNat + 1 else 0
    .next (s.updLink lk.val (fun l =>
      let l := l.tookCtl.addCredit credit.toNat
      let rest := l.replay.drop n
      { l with replay := rest, lastAck := s.ltu, naks := if n = 0 then l.naks else 0,
               replayAt := match l.replayAt with
                 | some a => if rest.any (fun e => e.1 = a) then some a else rest.head?.map (·.1)
                 | none => none }))

/-- A go-back-N replay: REPLAY_START, then what the replay buffer holds from an LSEQ on (R272). -/
def State.startReplay (s : State) (lk seq : Nat) : State :=
  (s.updLink lk (fun l => { l with replayAt := if l.replay.any (fun e => e.1 = seq) then some seq else none,
                                   replays := satAdd 32 l.replays 1 })).linkCtl lk 0x3 0 0

/-- LINK_NAK (R272): REPLAY_START is sent, then the packets from the LSEQ the partner expects. -/
def execLinkNak (lk : Fin 36) (seq : BitVec 12) (credit : BitVec 64) (s : State) : Host.Outcome State Fault Refusal :=
  let l := s.link lk.val
  if !s.live || !l.carries then .next s
  else
    let s := s.updLink lk.val (fun l =>
      let l := l.tookCtl.addCredit credit.toNat
      { l with naks := if l.nakSeq = seq.toNat then l.naks + 1 else 1, nakSeq := seq.toNat })
    .next (s.startReplay lk.val seq.toNat)

/-- REPLAY_START (R272): the receiver takes packets again. -/
def execReplayStart (lk : Fin 36) (s : State) : Host.Outcome State Fault Refusal :=
  if !s.live || !(s.link lk.val).carries then .next s
  else .next (s.updLink lk.val (fun l => { l.tookCtl with nakSent := false }))

/-- CREDIT of an ACK: units of 8 flits freed by queue; what is left stays owed (R272). -/
def Link.creditOut (l : Link) : Nat × Link :=
  let u := fun k => Nat.min 255 (Tbl.getD l.freed k 0 / 8)
  ((List.range 8).foldl (fun c k => c + u k * 256 ^ k) 0,
   { l with freed := (List.range 8).map (fun k => (k, Tbl.getD l.freed k 0 - 8 * u k)) })

/-- LINK_ACK_TIMER (R272): an ACK after 64 accepted packets or 1 µs, whichever comes first. -/
def execLinkAckTimer (lk : Fin 36) (s : State) : Host.Outcome State Fault Refusal :=
  let l := s.link lk.val
  if !s.live || !l.carries || l.accepted = 0 || (l.accepted < 64 && s.ltu < l.acceptedAt + 100) then .next s
  else
    let c := l.creditOut
    let s := s.updLink lk.val (fun _ => { c.2 with accepted := 0 })
    .next (s.linkCtl lk.val 0x1 ((l.rxSeq + 4095) % 4096) c.1)

/-- The link enters a retrain: it leaves the state it had, keeping LSEQ, credits and the replay buffer (R273). -/
def State.retrain (s : State) (lk : Nat) : State :=
  s.updLink lk (fun l =>
    { l with prev := some l.state, state := .training, since := s.ltu, retrains := satAdd 8 l.retrains 1, replayAt := none,
             sending := none })

/-- LINK_RETRAIN (R272): after eight NAKs for one LSEQ, or 100 µs without an ACK while packets are unacknowledged. -/
def execLinkRetrain (lk : Fin 36) (s : State) : Host.Outcome State Fault Refusal :=
  let l := s.link lk.val
  if !s.live || !l.carries || !(8 ≤ l.naks || (!l.replay.isEmpty && l.lastAck + 10000 < s.ltu)) then .next s
  else .next (s.retrain lk.val)

/-- LINK_CTRL_RETRAIN (R301): the bit stays set until LINK_UP or FAILED. -/
def execLinkCtrlRetrain (lk : Fin 36) (s : State) : Host.Outcome State Fault Refusal :=
  if !s.live || !(s.link lk.val).carries then .next s
  else .next ((s.retrain lk.val).updLink lk.val (fun l => { l with retrainBit := true }))

/-- LINK_RETRAIN_DONE (R273): the link is up again in the state it left, and its replay buffer is replayed (R272). -/
def execLinkRetrainDone (lk : Fin 36) (s : State) : Host.Outcome State Fault Refusal :=
  let l := s.link lk.val
  match l.state, l.prev with
  | .training, some st =>
    if !s.live then .next s
    else
      let s := s.updLink lk.val (fun l =>
        { l with state := st, prev := none, retrainBit := false, naks := 0, lastAck := s.ltu, nakSent := false })
      match l.replay with
      | [] => .next s
      | (k, _) :: _ => .next (s.startReplay lk.val k)
  | _, _ => .next s

/-- LINK_RETRAIN_TIMEOUT (R272): 10 ms without LINK_UP leaves the link FAILED and raises LINK_FAILED, which fences it. -/
def execLinkRetrainTimeout (lk : Fin 36) (s : State) : Host.Outcome State Fault Refusal :=
  let l := s.link lk.val
  if !s.live || l.state ≠ .training || l.prev.isNone || s.ltu ≤ l.since + 1000000 then .next s
  else
    let s := (s.discardLink lk.val).updLink lk.val (fun l => { l with state := .failed })
    .next (s.raise (0x180 + 0x60 * dieOfLink lk.val + lk.val % 18))

/-- LINK_ENABLE (R273): 1 starts bring-up, 0 takes the link DOWN. A fenced link comes up only after UNFENCE (R453). -/
def execLinkEnable (lk : Fin 36) (on : Bool) (s : State) : Host.Outcome State Fault Refusal :=
  let l := s.link lk.val
  if !s.live then .next s
  else if !on then .next ((s.discardLink lk.val).updLink lk.val (fun l => { l with enable := false, state := if l.fenced then .failed else .down }))
  else
    let s := s.updLink lk.val (fun l => { l with enable := true })
    if l.state ≠ .down || l.fenced then .next s
    else .next (s.updLink lk.val (fun l =>
      { l with state := .training, since := s.ltu, prev := none, retrains := satAdd 8 l.retrains 1 }))

/-- LINK_BRINGUP_RETRY (R273): steps 1 and 2 not complete within 250 ms begin again, while ENABLE is set. -/
def execLinkBringupRetry (lk : Fin 36) (s : State) : Host.Outcome State Fault Refusal :=
  let l := s.link lk.val
  if !s.live || l.state ≠ .training || l.prev.isSome || !l.enable || s.ltu ≤ l.since + 25000000 then .next s
  else .next (s.updLink lk.val (fun l => { l with since := s.ltu, retrains := satAdd 8 l.retrains 1 }))

/-- The lowest-numbered link of a peer's LINK_SET (R273). -/
def lowestLink (e : Nat) : Option Nat := firstBelow 36 (fun k => bit (peerLinks e) k)

/-- A HELLO REQUEST to a peer behind a switch, the first of three (R273). -/
def State.greet (s : State) (lk f : Nat) : State :=
  let s := s.sendHello lk f 1
  { s with fab := { s.fab with helloPeer := Tbl.put s.fab.helloPeer f (1, s.ltu) } }

/-- The partner has turned out to be a switch: the peers whose lowest link this is, and that no HELLO has reached, are
greeted (R273; DEDUCED, log 84). -/
def State.greetBehind (s : State) (lk : Nat) : State :=
  (Tbl.keys s.fab.peers).foldl (fun (s : State) f =>
    if lowestLink (s.peer f) = some lk && peerState (s.peer f) = 0 then s.greet lk f else s) s

/-- LINK_INIT (R273): LSEQ 0, credits as advertised, LINK_UP; this end's INIT, and to a device a HELLO REQUEST 1 µs
after. -/
def execLinkInit (lk : Fin 36) (switch : Bool) (credit : BitVec 64) (s : State) : Host.Outcome State Fault Refusal :=
  let l := s.link lk.val
  if !s.live || l.state ≠ .training || l.prev.isSome then .next s
  else
    let s := (s.discardLink lk.val).updLink lk.val (fun l =>
      { Link.addCredit { l with credit := [] } credit.toNat with
          state := .linkUp, partnerSwitch := switch, txSeq := 0, rxSeq := 0, freed := [(0, 1)], lastAck := s.ltu,
          partnerId := 0 })
    let s := s.linkCtl lk.val 0x4 0 0x4040404040404040
    if switch then .next (s.greetBehind lk.val)
    else .next ((s.sendHello lk.val 0 1).updLink lk.val (fun l => { l with helloTries := 1, helloAt := some (s.ltu + 100) }))

/-- LINK_CNT_CLR (R301): clears LINK_FEC and LINK_CNT. -/
def execLinkCntClr (lk : Fin 36) (s : State) : Host.Outcome State Fault Refusal :=
  if !s.live then .next s
  else .next (s.updLink lk.val (fun l => { l with fecCorrected := 0, fecUncorrected := 0, replays := 0, hdrCheck := 0, dropped := 0 }))

end Sys2Proof.Machine
end

