-- ==== Sys2Proof/Machine/Egress.lean ====
section
/-!
DEFINITION. Sys2Proof/Machine/Egress.lean: the egress scheduler: selection, gate lists, policers and their tables
(R336 to R357).
-/
namespace Sys2Proof.Machine

/-! ## Gate entries (R344) -/

def gateInterval (e : Nat) : Nat := bits e 0 20
def gateOpen (e q : Nat) : Bool := bit e (20 + (q - 1))
def gateCheckOk (e : Nat) : Bool := bits e 56 8 = crc8 (toBytes 7 e)
def Gates.entry (g : Gates) (bank : Bool) (i : Nat) : Nat := Tbl.getD g.bank (64 * b2n bank + i) 0
def Gates.oper (g : Gates) (i : Nat) : Nat := g.entry g.operBank i
def Gates.admin (g : Gates) (i : Nat) : Nat := g.entry (!g.operBank) i

/-- Gate of Q1 to Q7 in the present interval; Q0 is never gated (R340, R345, R350). -/
def Gates.isOpen (g : Gates) (q : Nat) : Bool :=
  q = 0 || !g.operValid || g.fallback || gateOpen (g.oper g.curEntry) q

/-- The first tick from `t` on at which Q2's gate is closed, along a list of entries (its read function and length),
the running one at `i` ending at `t'`; `till` cuts the walk short, and its answer there is `next` (R346). -/
def walkOpen (rd : Nat → Nat) (len : Nat) (till : Option Nat) (next : Option Nat) : Nat → Nat → Nat → Option Nat
  | 0, _, _ => next
  | fuel + 1, i, start =>
    let cut := match till with
      | some u => decide (u ≤ start)
      | none => false
    if cut then next
    else if !(gateCheckOk (rd i)) then next
    else if !(gateOpen (rd i) 2) then some start
    else walkOpen rd len till next fuel ((i + 1) % Nat.max 1 len) (start + Nat.max 1 (gateInterval (rd i)))

/-- The first tick at which Q2's gate is closed, none when it never is (R346). -/
def Gates.q2Close (g : Gates) : Option Nat :=
  let allOpen := fun (rd : Nat → Nat) (len : Nat) => (List.range (Nat.min 64 len)).all (fun i => gateOpen (rd i) 2)
  let after := match g.pending && !g.sync, g.takeAt with
    | true, some t => if allOpen g.admin g.adminLen then none else walkOpen g.admin g.adminLen none none 70 0 t
    | _, _ => none
  let till := if g.pending && !g.sync then g.takeAt else none
  if !g.operValid || g.fallback || allOpen g.oper g.operLen then after
  else walkOpen g.oper g.operLen till after 70 g.curEntry g.curStart

/-! ## Selection (R339 to R343) -/

/-- 0.01 ns of one flit: 0.32 ns (R337). -/
def flitTime : Nat := 32

/-- The moment of a decision in 0.01 ns: the end of the packet on the wire, or the present tick; none while the
packet on the wire ends after this tick. -/
def Link.decision (l : Link) (now : Nat) : Option Nat :=
  match l.sending with
  | none => some (1000 * now)
  | some (_, e) => if 1000 * now + 1000 ≤ e then none else some (Nat.max e (1000 * now))

/-- The candidate of a queue, with its place in it. -/
def State.cand (s : State) (lk k : Nat) : State × Option (Nat × Queued) :=
  let r := s.findCand lk 0 [] [] ((s.link lk).queueOf k)
  let s := r.1.updLink lk (fun l => { l with q := Tbl.put l.q k r.2.1 })
  (s, r.2.2.bind (fun i => (r.2.1[i]?).map (fun x => (i, x))))

/-- Flits in the replay buffer (R272). -/
def Link.replayFlits (l : Link) : Nat := (l.replay.map (·.2.flits)).sum

/-- R346: a Q2 packet fits the open window. -/
def Link.fitsWindow (l : Link) (start flits : Nat) : Bool :=
  match l.gates.q2Close with
  | none => true
  | some t => decide (cdiv (flitTime * flits) 100 ≤ (1000 * t - start) / 100)

/-- Everything of R340 but the fit of Q2; a sequenced packet also needs room in the replay buffer (R272). -/
def Link.open_ (l : Link) (k : Nat) (x : Queued) : Bool :=
  l.gates.isOpen k && decide (x.p.flits ≤ Tbl.getD l.credit k 0) &&
    decide (l.replay.length < 2048) && decide (l.replayFlits + x.p.flits ≤ 4096)

/-- A queue of Q1 to Q7 is eligible (R340). -/
def Link.eligible (l : Link) (start k : Nat) (c : Option (Nat × Queued)) : Bool :=
  match c with
  | none => false
  | some (_, x) => l.open_ k x && (k ≠ 2 || l.fitsWindow start x.p.flits)

/-- R341: the deficit round robin among Q2 to Q7; the link with its deficits and visit, and the queue picked. -/
def Link.weighted (l : Link) (start : Nat) (cs : List (Option (Nat × Queued))) : Link × Option Nat :=
  let ok := fun k => l.eligible start k (nth cs (k - 2) none)
  let flits := fun k => match nth cs (k - 2) none with
    | some (_, x) => x.p.flits
    | none => 0
  let goOn := match l.visit with
    | some k => ok k && decide (flits k ≤ nth l.deficit (k - 2) 0)
    | none => false
  if goOn then (l, l.visit)
  else
    let first := match l.visit with
      | some k => k - 1
      | none => 0
    match ((List.range 6).map (fun i => 2 + (first + i) % 6)).find? ok with
    | none => (l, none)
    | some k =>
      ({ l with visit := some k, deficit := setNth l.deficit (k - 2) (nth l.deficit (k - 2) 0 + nth l.quantum (k - 2) 0) },
        some k)

/-- Debits and statistics of a policer as its packet is sent (R354, R357). -/
def Policer.debit (p : Policer) (col : Colour) (b : Nat) : Policer :=
  match col with
  | .green => { p with c := p.c - 100 * b, p := p.p - 100 * b, green := satAdd 64 p.green b }
  | .yellow => { p with p := p.p - 100 * b, yellow := satAdd 64 p.yellow b }
  | .red => { p with red := satAdd 64 p.red b }

/-- Packets of a message that this end sends: one for a READ, whose data comes back (R311, R316). -/
def OutMsg.count (m : OutMsg) : Nat := if m.ptype = 0x11 then 1 else m.npktM1 + 1

/-- A packet of a message was sent on a link: its retransmission timeout runs once all have been (R317, R342). -/
def Conn.wasSent (c : Conn) (msn pidx lk now : Nat) : Conn :=
  { c with out := c.out.map (fun m =>
      if m.msn = msn then
        let sent := (pidx, lk, now) :: m.sent.filter (fun e => e.1 ≠ pidx)
        let inQ := m.inQ.erase pidx
        { m with sent := sent, inQ := inQ,
                 rtoFrom := if decide (m.count ≤ m.nextP) && m.resend.isEmpty && inQ.isEmpty then some now else m.rtoFrom }
      else m) }

/-- Put the packet on the wire: nothing else starts until it ends. -/
def Link.onWire (l : Link) (k start flits : Nat) : Link := { l with sending := some (k, start + flitTime * flits) }

/-- Send candidate `i` of queue k at a moment (R342, R343): ECN, then LSEQ and HCRC, replay buffer, credit, counts. -/
def State.sendFrom (s : State) (lk k i start : Nat) : State :=
  let l := s.link lk
  let xs := l.queueOf k
  match xs[i]? with
  | none => s
  | some x =>
    let f := x.p.flits
    let m := nth l.mark (k - 1) 0
    let col := x.colour.getD .green
    let ecn := k ≠ 0 && ((m ≠ 0 && decide (16 * m ≤ l.flitsIn k - f)) || (x.pol.isSome && col ≠ .green))
    let p := if ecn then x.p.mark else x.p
    let seq := if k = 0 then 0 else l.txSeq
    let p := p.stamp seq
    let s := match x.pol with
      | none => s
      | some j => s.updLnd (dieOfLink lk) (fun d =>
          { d with pols := Tbl.upd d.pols j {} (fun y => (y.refill s.ltu).debit col (32 * f)) })
    let s := s.updLink lk (fun l =>
      let rest := xs.take i ++ xs.drop (i + 1)
      let l := { l with q := Tbl.put l.q k rest, credit := Tbl.upd l.credit k 0 (· - f) }
      let l := if k = 0 then l
        else { l with txSeq := (l.txSeq + 1) % 4096, replay := l.replay ++ [(seq, p)],
                      lastAck := if l.replay.isEmpty then s.ltu else l.lastAck }
      let l := if k < 2 then l
        else { l with deficit := setNth l.deficit (k - 2) (if rest.isEmpty then 0 else nth l.deficit (k - 2) 0 - f) }
      let l := if ecn then { l with ecnMarked := satAdd 32 l.ecnMarked 1 } else l
      l.onWire k start f)
    let s := match x.tenant with
      | some tn => s.countTx tn lk (32 * f)
      | none => s
    let s := match x.rae with
      | some (c, msn, pidx) => s.updConn c (fun y => y.wasSent msn pidx lk s.ltu)
      | none => s
    (s.refillQueues lk).evalQueue lk k

/-- The next packet of a replay leaves (R272, R339). -/
def State.sendReplay (s : State) (lk seq start : Nat) : State :=
  let l := s.link lk
  match l.replay.find? (fun e => e.1 = seq) with
  | none => s.updLink lk (fun l => { l with replayAt := none })
  | some (_, p) =>
    let nxt := (seq + 1) % 4096
    s.updLink lk (fun l =>
      { l.onWire 8 start p.flits with replayAt := if l.replay.any (fun e => e.1 = nxt) then some nxt else none })

/-- Orders 2 to 4 of R339. -/
def State.selectRest (s : State) (lk start : Nat) : State :=
  match (s.link lk).replayAt with
  | some k => s.sendReplay lk k start
  | none =>
    let r1 := s.cand lk 1
    let l := r1.1.link lk
    match r1.2, l.eligible start 1 r1.2 with
    | some (i, _), true => r1.1.sendFrom lk 1 i start
    | _, _ =>
      let r := (List.range 6).foldl (fun (a : State × List (Option (Nat × Queued))) j =>
        let c := a.1.cand lk (2 + j)
        (c.1, a.2 ++ [c.2])) (r1.1, [])
      let l := r.1.link lk
      let l := match nth r.2 0 none with
        | some (_, x) => if l.open_ 2 x && !(l.fitsWindow start x.p.flits) then { l with holdFit := satAdd 16 l.holdFit 1 } else l
        | none => l
      let w := l.weighted start r.2
      let s := r.1.updLink lk (fun _ => w.1)
      match w.2 with
      | none => s
      | some k => match nth r.2 (k - 2) none with
        | some (i, _) => s.sendFrom lk k i start
        | none => s

/-- EGRESS_SELECT (R339): at a packet boundary the link sends Q0's candidate, the next packet of a replay, Q1's
candidate, or the pick of the weighted group; otherwise idle flits. -/
def execEgressSelect (lk : Fin 36) (s : State) : Host.Outcome State Fault Refusal :=
  let l := s.link lk.val
  if !s.live || !l.carries then .next s
  else match l.decision s.ltu with
    | none => .next s
    | some start =>
      let s := s.updLink lk.val (fun l => { l with sending := none })
      let r0 := s.cand lk.val 0
      match r0.2 with
      | some (i, x) =>
        if x.p.flits ≤ Tbl.getD l.credit 0 0 then .next (r0.1.sendFrom lk.val 0 i start) else .next (r0.1.selectRest lk.val start)
      | none => .next (r0.1.selectRest lk.val start)

/-! ## Gate lists (R344 to R350) -/

/-- Ticks of the longest run of consecutive entries open for Q2, counted cyclically (R347). -/
def q2Run (es : List Nat) : Nat :=
  let step := fun (a : Nat × Nat) (e : Nat) =>
    let c := if gateOpen e 2 then a.1 + gateInterval e else 0
    (c, Nat.max a.2 c)
  if es.all (fun e => gateOpen e 2) then (es.map gateInterval).sum
  else ((es ++ es).foldl step (0, 0)).2

/-- R347: the cause of the first check that an administrative list fails, 0 when every check holds. -/
def gateListCause (len : Nat) (es : List Nat) (sync factory pending : Bool) : Nat :=
  if len = 0 || 64 < len then 1
  else if !(es.all gateCheckOk) then 2
  else if es.any (fun e => bits e 27 29 ≠ 0 || gateInterval e = 0) then 3
  else if !((List.range 7).all (fun q => es.any (fun e => gateOpen e (q + 1)))) then 4
  else if q2Run es < 5 then 5
  else if sync && factory then 6
  else if pending then 7
  else 0

/-- R348: the takeover moment of a TIME list armed now. -/
def takeoverAt (now base cycle : Nat) : Nat :=
  if now < base then base else base + ((now - base) / Nat.max 1 cycle + 1) * Nat.max 1 cycle

/-- R347: the administrative list is checked, and PENDING set or ARM_REJECT with its cause. -/
def Gates.arm (g : Gates) (now : Nat) (factory : Bool) : Gates :=
  let es := (List.range (Nat.min 64 g.adminLen)).map g.admin
  let cause := gateListCause g.adminLen es g.sync factory g.pending
  if cause = 0 then
    { g with pending := true,
             takeAt := if g.sync then none else some (takeoverAt now g.adminBase ((es.map gateInterval).sum)) }
  else { g with armReject := true, rejectCause := cause }

/-- GATE_ARM (R347). -/
def execGateArm (lk : Fin 36) (s : State) : Host.Outcome State Fault Refusal :=
  if !s.live then .next s
  else .next (s.updLink lk.val (fun l => { l with gates := l.gates.arm s.ltu s.inFactory }))

/-- GATE_DISARM (R349): PENDING clears without a takeover. -/
def execGateDisarm (lk : Fin 36) (s : State) : Host.Outcome State Fault Refusal :=
  if !s.live then .next s
  else .next (s.updLink lk.val (fun l => { l with gates := { l.gates with pending := false, takeAt := none } }))

/-- New gates for a link: a packet still being sent whose gate closes is counted (R346, R349). Replays, queue 8, are
sent gates notwithstanding. -/
def Link.setGates (l : Link) (g : Gates) (now : Nat) : Link :=
  let cut := match l.sending with
    | some (k, e) => 1 ≤ k && k ≤ 7 && decide (1000 * now < e) && l.gates.isOpen k && !(g.isOpen k)
    | none => false
  { l with gates := g, overrun := if cut then satAdd 16 l.overrun 1 else l.overrun }

/-- An entry starts: one that fails its CHECK opens every gate until the next takeover (R350). -/
def State.startEntry (s : State) (lk : Nat) (g : Gates) : State :=
  let bad := g.operValid && !g.fallback && !(gateCheckOk (g.oper g.curEntry))
  let g := { g with fallback := g.fallback || bad }
  (s.updLink lk (fun l => l.setGates g s.ltu)).egrCheck (dieOfLink lk) (b2n bad)

/-- GATE_TAKEOVER (R348, R349): the banks swap, the base becomes the takeover tick, entry 0 starts, PENDING clears. -/
def execGateTakeover (lk : Fin 36) (s : State) : Host.Outcome State Fault Refusal :=
  let g := (s.link lk.val).gates
  match g.pending, g.takeAt with
  | true, some t =>
    if !s.live || s.ltu < t then .next s
    else .next (s.startEntry lk.val
      { g with operBank := !g.operBank, operLen := g.adminLen, operBase := t, curEntry := 0, curStart := t,
               pending := false, takeAt := none, operValid := true, fallback := false })
  | _, _ => .next s

/-- GATE_INTERVAL (R345): the running entry's interval ends and the next one starts. -/
def execGateInterval (lk : Fin 36) (s : State) : Host.Outcome State Fault Refusal :=
  let g := (s.link lk.val).gates
  let e := g.curStart + gateInterval (g.oper g.curEntry)
  if !s.live || !g.operValid || g.fallback || s.ltu < e then .next s
  else .next (s.startEntry lk.val { g with curEntry := (g.curEntry + 1) % Nat.max 1 g.operLen, curStart := e })

/-- A rising edge of SYNC_IN: every link pending in SYNC mode whose ADMIN_BASE has come takes over at the next tick
(R348). -/
def State.syncGates (s : State) : State :=
  (List.range 36).foldl (fun s lk =>
    let g := (s.link lk).gates
    if g.pending && g.sync && decide (g.adminBase ≤ s.ltu) && g.takeAt.isNone then
      s.updLink lk (fun l => { l with gates := { l.gates with takeAt := some (s.ltu + 1) } })
    else s) s

/-- The life cycle becomes FACTORY: pending SYNC lists are disarmed with cause 6 (R356). -/
def State.factoryGates (s : State) : State :=
  (List.range 36).foldl (fun s lk =>
    let g := (s.link lk).gates
    if g.pending && g.sync then
      s.updLink lk (fun l => { l with gates :=
        { l.gates with pending := false, takeAt := none, armReject := true, rejectCause := 6 } })
    else s) s

/-! ## Policers held and the tables (R353 to R357) -/

/-- Packets of a queue that a policer holds are evaluated again (R354). -/
def State.reQueue (s : State) (lk : Nat) : List Queued → State × List Queued
  | [] => (s, [])
  | x :: rest =>
    let r := if s.isHeld lk x then s.evalPkt lk x else (s, x)
    let t := r.1.reQueue lk rest
    (t.1, r.2 :: t.2)

/-- Every tick, in ascending link index (R354, R355). -/
def State.tickPolicers (s : State) : State :=
  (Tbl.keys s.fab.links).foldl (fun s lk =>
    (List.range 5).foldl (fun s j =>
      let xs := (s.link lk).queueOf (2 + j)
      if xs.any (fun x => s.isHeld lk x) then
        let r := s.reQueue lk xs
        (r.1.updLink lk (fun l => { l with q := Tbl.put l.q (2 + j) r.2 })).evalQueue lk (2 + j)
      else s) s) s

/-- The ranges of a policer entry (R353). -/
def policerOk (e : Nat) : Bool :=
  let cir := fld e 0x00 4
  let pir := fld e 0x04 4
  let cbs := fld e 0x08 4
  let pbs := fld e 0x0C 4
  decide (1 ≤ cir) && decide (cir ≤ pir) && decide (pir ≤ 1800000) && decide (4128 ≤ cbs) && decide (cbs ≤ pbs) &&
    decide (pbs ≤ 16777215) && (fld e 0x10 1 = 1 || fld e 0x10 1 = 2) && bits (fld e 0x11 1) 1 7 = 0 &&
    bits (fld e 0x12 1) 5 3 = 0 && fld e 0x13 9 = 0

/-- A policer entry is written: buckets start full when it turns VALID, else they are kept and cut down (R354, R355). -/
def Policer.rewrite (p : Policer) (e now : Nat) : Policer :=
  let p := p.refill now
  if bit e 136 && !(p.valid) then { p with raw := e, c := 100 * bits e 64 24, p := 100 * bits e 96 24 }
  else { p with raw := e, c := Nat.min p.c (100 * bits e 64 24), p := Nat.min p.p (100 * bits e 96 24) }

def State.egrDone (s : State) (d : Nat) : State := s.updLnd d (fun x => { x with egrDone := true })
def State.egrReject (s : State) (d : Nat) : State := s.updLnd d (fun x => { x with egrReject := true })

/-- EGR_TBL_READ (R357). -/
def execEgrTblRead (die : Fin 2) (table : Fin 4) (idx : BitVec 16) (s : State) : Host.Outcome State Fault Refusal :=
  let d := die.val
  let i := idx.toNat
  let p := Tbl.getD (s.lnd d).pols i {}
  let v := match table.val with
    | 0 => if i < 4096 then some p.raw else none
    | 1 => some (Tbl.getD (s.lnd d).tmap i 0)
    | 2 => if i < 2304 then some (Tbl.getD (s.link (18 * d + i / 128)).gates.bank (i % 128) 0) else none
    | _ => if i < 4096 then some (p.green + p.yellow * 2 ^ 64 + p.red * 2 ^ 128 + p.heldPkts * 2 ^ 224) else none
  if !s.live then .next s
  else match v with
    | none => .next (s.egrReject d)
    | some v => .next ((s.updLnd d (fun x => { x with egrData := v })).egrDone d)

/-- EGR_TBL_WRITE (R353, R356, R357): ranges, a running bank and an armed bank are refused. -/
def execEgrTblWrite (die : Fin 2) (table : Fin 4) (idx : BitVec 16) (s : State) : Host.Outcome State Fault Refusal :=
  let d := die.val
  let i := idx.toNat
  let v := (s.lnd d).egrData
  if !s.live then .next s
  else match table.val with
    | 0 =>
      if 4096 ≤ i || !(policerOk v) then .next (s.egrReject d)
      else .next ((s.updLnd d (fun x => { x with pols := Tbl.upd x.pols i {} (fun p => p.rewrite v s.ltu) })).egrDone d)
    | 1 =>
      let e := bits v 0 24
      .next ((s.updLnd d (fun x => { x with tmap := Tbl.put x.tmap i (e + crc8 (toBytes 3 e) * 2 ^ 24) })).egrDone d)
    | 2 =>
      let lk := 18 * d + i / 128
      let g := (s.link lk).gates
      let bank := decide (64 ≤ i % 128)
      if 2304 ≤ i || (g.operValid && bank = g.operBank) || (g.pending && bank ≠ g.operBank) then .next (s.egrReject d)
      else
        let e := bits v 0 56
        .next ((s.updLink lk (fun l =>
          { l with gates := { l.gates with bank := Tbl.put l.gates.bank (i % 128) (e + crc8 (toBytes 7 e) * 2 ^ 56) } })).egrDone d)
    | _ =>
      if 4096 ≤ i then .next (s.egrReject d)
      else .next ((s.updLnd d (fun x =>
        { x with pols := Tbl.upd x.pols i {} (fun p => { p with green := 0, yellow := 0, red := 0, heldPkts := 0 }) })).egrDone d)

/-- EGR_CNT_CLR (R357): clears EGR_LCNT of every link of the die. -/
def execEgrCntClr (die : Fin 2) (s : State) : Host.Outcome State Fault Refusal :=
  if !s.live then .next s
  else .next ((List.range 18).foldl (fun s i =>
    s.updLink (18 * die.val + i) (fun l => { l with ecnMarked := 0, holdFit := 0, overrun := 0 })) s)

end Sys2Proof.Machine
end

