-- ==== Sys2Proof/Machine/Access.lean ====
section
/-!
DEFINITION. Sys2Proof/Machine/Access.lean: ordinary accesses that meet a channel outside MEMORY (R165, R169), and
the region checks that fabric inbound shares (R287, R291).
-/
namespace Sys2Proof.Machine

/-- The channel, not in MEMORY, that an access of `n` bytes reaches, if there is one (R165). -/
def State.heldChan (s : State) (a n : Nat) : Option Nat :=
  let busy := fun (c : Option Nat) => match c with
    | some k => if (s.chan k).mode ≠ .memory then some k else none
    | none => none
  ((List.range ((a + n - 1) / 4096 - a / 4096 + 1)).map (fun i => busy (chanOf (Nat.max a (4096 * (a / 4096 + i)))))).findSome? id

/-- Channel-local byte offset of a T1 address (R66, R67). -/
def chanOff (a : Nat) : Nat := (memKey a - 0x8000000000) % 0x100000000

/-- An access joins the hold queue of a channel (R169): the first 64 stand in the queue and count as held (R191), later
ones wait for it in the crossbar, in order. -/
def State.holdAcc (s : State) (ch : Nat) (acc : HeldAcc) : State :=
  s.updChan ch (fun k => { k with hold := k.hold ++ [⟨acc, s.ltu⟩], held := if k.hold.length < 64 then satAdd 32 k.held 1 else k.held })

/-- Bytes written by an ordinary access of no thread: at once, or through the hold queue of a channel outside MEMORY, at
most 4,096 to an access (R165, R169). -/
def State.putMem (s : State) (m : Master) (a : Nat) (bs : List Byte) : State :=
  (List.range (cdiv bs.length 4096)).foldl (fun (s : State) i =>
    let b := (bs.drop (4096 * i)).take 4096
    match s.heldChan (a + 4096 * i) b.length with
    | some ch => s.holdAcc ch ⟨m, true, chanOff (a + 4096 * i), 0, b, .nobody⟩
    | none => s.placeBytes (a + 4096 * i) b) s

/-- No channel that a range reaches is outside MEMORY. -/
def State.memOpen (s : State) (a n : Nat) : Bool := (s.heldChan a n).isNone

/-- Tier whose bytes an address counts under: 0 T1, 1 T2 (R391). -/
def tierOf (a : Nat) : Option Nat :=
  match regionOf a with
  | .t1 => some 0
  | .t2sys => some 1
  | .t2host => some 1
  | .t2tenant => some 1
  | _ => none

/-- Bytes read or written by a transfer, by tier (R391). -/
def State.countTier (s : State) (tn a n : Nat) (write : Bool) : State :=
  match tierOf a with
  | some k => s.countBytes tn (2 * k + b2n write) n
  | none => s

/-- R109: a write on behalf of a tenant to a working region that holds another tenant's work, or none. -/
def State.workDenied (s : State) (tn a : Nat) : Bool :=
  match regionOf a with
  | .tileWin t off => decide ((s.tile t).resBytes ≤ off) && decide (off < scratchBytes t) && decide (tn ≠ 0xFFFF) &&
      (!(s.tile t).workValid || decide ((s.tile t).workTenant ≠ tn))
  | _ => false

/-! ## Regions (R287) -/

def rgBase (r : Nat) : Nat := bits r 0 48
def rgSize (r : Nat) : Nat := bits r 64 40
def rgKey (r : Nat) : Nat := fld r 0x10 4
def rgTenant (r : Nat) : Nat := fld r 0x14 2
def rgState (r : Nat) : Nat := fld r 0x18 1
def rgFlag (r i : Nat) : Bool := bit (fld r 0x19 1) i
def State.region (s : State) (i : Nat) : Nat := Tbl.getD s.fab.regions i 0
def State.setRegion (s : State) (i v : Nat) : State := { s with fab := { s.fab with regions := Tbl.put s.fab.regions i v } }

/-- R291 from REGION_INVALID to REGION_BOUNDS: the RSTATUS of the first check that fails, 0 when none does. `use` is
the RFLAGS bit of the engine (3 MSF, 4 RAE); an engine without anchored operations names none. -/
def State.regionCheck (s : State) (region key off n use : Nat) (w a : Bool) (anchored : Option Bool) : Nat :=
  let r := s.region region
  if 16384 ≤ region || !(crcOk r 32) || rgState r = 0 || !(rgFlag r use) then 0x03
  else if rgKey r ≠ key then 0x01
  else if rgState r = 2 then 0x02
  else if (match anchored with
      | some x => x != rgFlag r 2
      | none => false) || (w && !(rgFlag r 0)) || (a && !(rgFlag r 1)) then 0x05
  else if rgSize r < off + n then 0x04
  else 0

/-- A region entry that fails its CRC raises MSF_CHECK, counted by its die (R80, R291). -/
def State.regionCrc (s : State) (die region : Nat) : State :=
  if region < 16384 && !(crcOk (s.region region) 32) then (s.tableCheck (5 + die)).raise (0x180 + 0x60 * die + 0x16) else s

/-- RSTATUS of an MSF access that the map refuses: R291 has TARGET_FENCED for a fenced tile and no value of its own for
the statuses of R72, R107 and R109, for which REGION_PERM stands (DESIGN CHOICE, log 70). -/
def inboundStatus (st : Nat) : Nat :=
  if st = Stat.ok then 0 else if st = Stat.tileFenced then 0x08 else 0x05

/-- Status that RQ_ERR carries for an access the map refuses: TARGET_FENCED of R291, else the status of R72, R107 or
R109 itself (R320; log 70). -/
def rqRefusal (st : Nat) : Nat := if st = Stat.tileFenced then 0x308 else st

/-- Regions that an access under a region's key may reach (R71). -/
def keyedRegion : Region → Bool
  | .t1 => true
  | .t2tenant => true
  | .tileWin _ _ => true
  | _ => false

/-- The status of an inbound access of `n` bytes under a region's key, on behalf of the region's tenant (R71 to R73, R107,
R109). -/
def State.keyedStatus (s : State) (die tn : Nat) (acc : Acc) (a n : Nat) : Nat :=
  if regionOf a = .unmapped then Stat.addrUnmapped
  else if !(keyedRegion (regionOf a)) || (acc ≠ .read && s.workDenied tn a) then Stat.accessDenied
  else s.accStatus (.fabric die) acc a n

/-- Validated writes of a region that wait in a hold queue on behalf of a link die, or behind one (R321). -/
def State.inflightOn (s : State) (d region : Nat) : Nat :=
  let ofPkt := fun (p : Pkt) => if p.ptype = 4 then bits p.h 128 16 else bits p.h 160 14
  let held := s.chans.foldl (fun n e => n + (e.2.hold.filter (fun h => match h.acc.who with
    | .msf die p => die.val = d && ofPkt p = region && h.acc.write
    | .rae p => (s.conn (bits p.h 96 20)).home = d && ofPkt p = region && p.ptype = 0x10
    | _ => false)).length) 0
  held + ((s.lnd d).msfIn.filter (fun p => ofPkt p = region)).length

/-- Validated writes of a region in flight on both link dies (R321). -/
def State.inflight (s : State) (region : Nat) : Nat := s.inflightOn 0 region + s.inflightOn 1 region

end Sys2Proof.Machine
end

