-- ==== Sys2Proof/Machine/Rae.lean ====
section
/-!
DEFINITION. Sys2Proof/Machine/Rae.lean: the remote access engine: connections, send and completion queues, messages,
placement, acknowledgement, retransmission and ERROR (R304 to R322, R334).
-/
namespace Sys2Proof.Machine

/-! ## Fields of packets and entries (R310, R314) -/

def rqConn (p : Pkt) : Nat := bits p.h 96 20
def rqPidx (p : Pkt) : Nat := bits p.h 116 10
def rqMsn (p : Pkt) : Nat := bits p.h 128 16
def rqNpktM1 (p : Pkt) : Nat := bits p.h 144 10
def rqImm (p : Pkt) : Bool := bit p.h 154
def rqJournal (p : Pkt) : Bool := bit p.h 155
def rqRegion (p : Pkt) : Nat := bits p.h 160 14
def rqKey (p : Pkt) : Nat := fld p.h 0x16 4
def rqPage (p : Pkt) : Nat := bits p.h 208 28
def gDreq (p : Pkt) : Nat := bits p.h 160 17
def gPage (p : Pkt) : Nat := fld p.h 0x18 4
def gTag (p : Pkt) : Nat := fld p.h 0x1C 2
/-- RQ_ERR carries its status in the bytes of MFL (notes/assumptions/20.md). -/
def rqStatus (p : Pkt) : Nat := bits p.h 144 16

def weWop (e : Nat) : Nat := fld e 0x00 1
def weTenant (e : Nat) : Nat := fld e 0x02 2
def weConn (e : Nat) : Nat := bits e 32 20
def weWrId (e : Nat) : Nat := fld e 0x08 8
def weLocal (e : Nat) : Nat := bits e 128 48
def weLen (e : Nat) : Nat := fld e 0x18 4
def weRegion (e : Nat) : Nat := bits e (8 * 0x1C) 14
def weKey (e : Nat) : Nat := fld e 0x20 4
def wePage (e : Nat) : Nat := fld e 0x24 4
def weImm (e : Nat) : Nat := fld e 0x28 4
def weDreq (e : Nat) : Nat := bits e (8 * 0x2C) 17
def weGtag (e : Nat) : Nat := fld e 0x30 2
def weJournal (e : Nat) : Bool := bit e (8 * 0x32)

/-- Distance from MSN a to b, modulo 65,536. -/
def msnDist (a b : Nat) : Nat := (b + 65536 - a) % 65536

/-! ## Connection descriptors (R304 to R306) -/

def connSlot (c : Nat) : Nat := 0x10028000000 + 256 * c

/-- R306: the descriptor's CRC, its field ranges, and PATHS not empty. -/
def connDescOk (e : Nat) : Bool :=
  let q := bits e 72 3
  let ctl := bit e 81
  crcOk e 64 && decide (fld e 0x08 1 ≤ 2) && bits e 12 4 = 0 && bits e 0 12 ≠ 0 && bits e 52 12 = 0 && bits e 75 5 = 0 && bits e 82 6 = 0 &&
    (if ctl then q = 1 else decide (2 ≤ q) && decide (q ≤ 6)) && decide (1 ≤ fld e 0x0B 1) && decide (fld e 0x0B 1 ≤ 15) &&
    decide (64 ≤ fld e 0x0C 2) && decide (fld e 0x0C 2 ≤ fld e 0x0E 2) && decide (fld e 0x0E 2 ≤ 4096) &&
    bits e 128 36 ≠ 0 && bits e 164 28 = 0 && decide (20 ≤ fld e 0x18 4) && decide (fld e 0x18 4 ≤ 100000) &&
    bits e (8 * 0x1C + 9) 7 = 0 && fld e 0x1E 30 = 0

/-- The connection a descriptor describes, at activation: MSN 0 and WIN_INIT (R305, R320). -/
def connOf (e now : Nat) : Conn :=
  { state := .ready, dest := bits e 0 12, tenant := fld e 0x02 2, rconn := bits e 32 20, queue := bits e 72 3,
    home := bits e 80 1, control := bit e 81, retryMax := fld e 0x0B 1, winInit := fld e 0x0C 2, winMax := fld e 0x0E 2,
    paths := bits e 128 36, rtoUs := fld e 0x18 4, rcq := bits e (8 * 0x1C) 9, window := fld e 0x0C 2 * 65536,
    used := now, cached := true }

/-- CSTATE as hardware writes it into the descriptor, with its CRC (R305). -/
def State.writeCstate (s : State) (c v : Nat) : State :=
  s.wr (connSlot c) 64 (withCrc (setFld (s.rd (connSlot c) 64) 0x08 1 v) 64)

/-- Contexts a link die holds in its cache (R308). -/
def State.cachedOn (s : State) (d : Nat) : List Nat :=
  (s.fab.conns.filter (fun e => e.2.cached && e.2.home = d)).map (·.1)

/-- A context without a message open in either direction (R308). -/
def Conn.quiet (c : Conn) : Bool :=
  c.out.isEmpty && c.backlog.isEmpty && c.resp.isEmpty && c.inm.all (fun m => m.done && !m.held)

/-- Completed MSNs from BASE to BASE + 63 (R316). -/
def Conn.doneMask (c : Conn) : Nat :=
  c.inm.foldl (fun w m => if m.done && !m.held then w ||| (1 <<< msnDist c.base m.msn) else w) 0

def CState.code : CState → Nat
  | .reset => 0
  | .ready => 1
  | .error => 2

/-- The connection descriptor of a context (R305). -/
def Conn.descRaw (c : Conn) : Nat :=
  withCrc (ofBytes (packFields
    [(2, c.dest), (2, c.tenant), (4, c.rconn), (1, c.state.code), (1, c.queue), (1, c.home + 2 * b2n c.control), (1, c.retryMax),
     (2, c.winInit), (2, c.winMax), (8, c.paths), (4, c.rtoUs), (2, c.rcq), (34, 0)])) 64

/-- The 192 bytes of hardware state of a context that has no message open (R305, R308; their layout is the model's,
log 87). -/
def Conn.hwBytes (c : Conn) : List Byte :=
  packFields [(2, c.nextMsn), (2, c.base), (8, c.doneMask), (8, c.window), (8, c.srtt), (8, c.holdUntil), (8, c.ackFrom.getD 0), (4, c.nextEntry),
    (4, c.ecn), (2, c.errStatus), (1, c.lastLink), (1, b2n c.ackFrom.isSome), (136, 0)]

/-- A context as its slot holds it: descriptor and hardware state (R305, R308). -/
def connAt (e h now : Nat) : Conn :=
  { connOf e now with
      state := if fld e 0x08 1 = 1 then .ready else if fld e 0x08 1 = 2 then .error else .reset,
      nextMsn := fld h 0 2, base := fld h 2 2, window := fld h 12 8, srtt := fld h 20 8, holdUntil := fld h 28 8,
      ackFrom := if fld h 55 1 = 1 then some (fld h 36 8) else none, nextEntry := fld h 44 4, ecn := fld h 48 4, errStatus := fld h 52 2,
      lastLink := fld h 54 1,
      inm := (List.range 64).filterMap (fun k => if bit (fld h 4 8) k then
          some { msn := (fld h 2 2 + k) % 65536, npktM1 := 0, bitmap := 1, done := true } else none) }

/-- A context is written to its slot (R304, R308). -/
def State.writeContext (s : State) (c : Nat) : State :=
  (s.wr (connSlot c) 64 (s.conn c).descRaw).wrBytes (connSlot c + 64) (s.conn c).hwBytes

/-- A context as its slot gives it (R308). -/
def State.readContext (s : State) (c : Nat) : Conn := connAt (s.rd (connSlot c) 64) (s.rd (connSlot c + 64) 192) s.ltu

/-- A context leaves the cache, its slot written first (R308). -/
def State.spill (s : State) (d c : Nat) : State :=
  ((s.writeContext c).updConn c (fun x => { x with cached := false })).updLnd d (fun x => { x with spills := satAdd 16 x.spills 1 })

/-- Room for one more context: the least recently used one without an open message is spilled; none when every
cached context has one open (R308). -/
def State.makeRoom (s : State) (d : Nat) : Option State :=
  let cs := s.cachedOn d
  if cs.length < 16384 then some s
  else
    let idle := cs.filter (fun c => (s.conn c).quiet)
    (idle.foldl (fun (b : Option Nat) c => match b with
      | none => some c
      | some k => if (s.conn c).used < (s.conn k).used then some c else some k) none).map (s.spill d)

/-! ## Completion queues (R312, R313) -/

def CplQ.usedN (q : CplQ) : Nat := (q.tail + 65536 - q.head) % 65536
def CplQ.full (q : CplQ) : Bool := decide (2 ^ q.log2 ≤ q.usedN) || !q.due.isEmpty

/-- A completion entry of R312, its CRC apart. -/
def cplRaw (wrId conn kind status bytes imm : Nat) : Nat :=
  wrId % 2 ^ 64 + conn % 2 ^ 20 * 2 ^ 64 + kind % 256 * 2 ^ 96 + status % 65536 * 2 ^ 112 + bytes % 2 ^ 32 * 2 ^ 128
    + imm % 2 ^ 32 * 2 ^ 160

/-- Write a completion at TAIL; one for which there is no room waits. -/
def State.postCpl (s : State) (i raw : Nat) : State :=
  let q := s.cq i
  if q.full then s.updCq i (fun q => { q with due := q.due ++ [raw] })
  else (s.wr (q.base + 32 * (q.tail % 2 ^ q.log2)) 32 (withCrc raw 32)).updCq i (fun q => { q with tail := (q.tail + 1) % 65536 })

/-- Completions that waited are written as room returns. -/
def State.flushCq (s : State) (i : Nat) : State :=
  let ds := (s.cq i).due
  let s := s.updCq i (fun q => { q with due := [] })
  ds.foldl (fun s r => s.postCpl i r) s

/-- The completion queue a send queue is bound to, on its own link die (R309). -/
def State.cqOf (s : State) (sq : Nat) : Nat := sq / 256 * 256 + (s.sq sq).cq

/-- A work entry ends with a status: its completion is posted when it asks for one or fails, and a graft's entry
counts for its graft (R312, R326). -/
def State.endEntry (s : State) (c : Nat) (w : WorkEntry) (status : Nat) : State :=
  let s := s.updSq w.sq (fun q => { q with open_ := q.open_ - 1 })
  let g := weWop w.raw
  let s := if g = 5 || g = 6 then
      { s with fab := { s.fab with grafts := s.fab.grafts.map (fun x =>
          if x.send && x.conn = some c && x.gtag = weGtag w.raw && status = Stat.ok then
            { x with flying := x.flying - 1, credits := x.credits + b2n (g = 6) } else x) } }
    else s
  if status ≠ Stat.ok || bit w.raw 8 then s.postCpl (s.cqOf w.sq) (cplRaw (weWrId w.raw) c 1 status w.bytes 0) else s

/-! ## Paths (R317) -/

/-- A link that carries packets reaches a peer, ACTIVE or not: the peer is its partner, or lies behind its switch (R276). -/
def State.reaches (s : State) (lk dest : Nat) : Bool :=
  let l := s.link lk
  l.carries && (if l.partnerSwitch then bit (peerLinks (s.peer dest)) lk else l.partnerId = dest)

/-- A link is ACTIVE toward a peer: the peer is its partner, or the peer is reached through a switch. -/
def State.activeToward (s : State) (lk dest : Nat) : Bool :=
  let l := s.link lk
  (l.state = .active && l.partnerId = dest) ||
    (l.state = .linkUp && l.partnerSwitch && s.peerActive dest && bit (peerLinks (s.peer dest)) lk)

/-- The next link of PATHS, in rotation, that is ACTIVE toward the peer and has credit and room. -/
def State.choosePath (s : State) (c : Conn) (q flits : Nat) : Option Nat :=
  ((List.range 36).map (fun i => (c.lastLink + 1 + i) % 36)).find? (fun lk =>
    bit c.paths lk && s.activeToward lk c.dest && decide (flits ≤ Tbl.getD (s.link lk).credit q 0) &&
      (s.link lk).room q flits)

def State.anyPath (s : State) (c : Conn) : Bool :=
  (List.range 36).any (fun lk => bit c.paths lk && s.activeToward lk c.dest)

/-- A packet that belongs to no message takes the first link that is ACTIVE toward the peer; with none it is lost. -/
def State.sendLoose (s : State) (c : Nat) (ptype body epoch : Nat) (data : List Byte) : State :=
  let x := s.conn c
  match ((List.range 36).map (fun i => (x.lastLink + 1 + i) % 36)).find? (fun lk => bit x.paths lk && s.activeToward lk x.dest) with
  | none => s
  | some lk => s.enq lk { p := mkPkt ptype x.queue 0 s.fid x.dest epoch body data, conn := some c }

/-- RQ_ERR to the peer, once and without retry (R320). -/
def State.sendErr (s : State) (c msn status : Nat) : State :=
  let x := s.conn c
  s.sendLoose c 0x14 (x.rconn % 2 ^ 20 + msn % 65536 * 2 ^ 32 + status % 65536 * 2 ^ 48) s.cmap.cur []

/-! ## ERROR (R320) -/

/-- A graft that fails with a connection: its data connection's, the pair's control connection's, or the one on which a
pull's frames come (R32, R47, R320). -/
def Graft.usesConn (g : Graft) (c : Nat) (x : Conn) : Bool :=
  g.phase ≠ .done && (g.conn = some c || (x.control && g.peer = x.dest) ||
    (!g.send && g.mode = .pull && !x.control && x.queue = 3 && g.peer = x.dest && g.tenant = x.tenant))

/-- What a connection's entry into ERROR does to the work it has taken: it stops, its work is flushed, its inbound messages
are discarded, the peer is told; grafts that used it have failed (R32). -/
def State.connFail (s : State) (c status : Nat) (who : Option Nat) : State :=
  let x := s.conn c
  if x.state ≠ .ready then s
  else
    let s := x.entries.foldl (fun s w => s.endEntry c w (if who = some w.id then status else Stat.flushed)) s
    let s := (List.range 36).foldl (fun s lk => s.updLink lk (fun l => l.dropConn c)) s
    let s := s.sendErr c 0 Stat.remoteError
    let s := s.updConn c (fun y =>
      { y with state := .error, errStatus := status, entries := [], out := [], backlog := [], resp := [], inm := [], ackFrom := none })
    let s := (s.writeCstate c 2).updLnd x.home (fun d => { d with connErrors := satAdd 16 d.connErrors 1 })
    let s := if x.cached then s else s.writeContext c
    { s with fab := { s.fab with grafts := s.fab.grafts.map (fun g => if g.usesConn c x then { g with phase := .failed } else g) } }

/-! ## Posted entries (R309, R310, R313, R320) -/

/-- The work entry at a send queue's head. -/
def State.sqEntry (s : State) (i : Nat) : Nat := let q := s.sq i; s.rd (q.base + 64 * (q.head % 2 ^ q.log2)) 64

/-- A send queue takes entries: enabled, not empty, its completion queue not full (R313). -/
def State.sqReady (s : State) (i : Nat) : Bool :=
  let q := s.sq i
  q.enable && q.head ≠ q.tail && !((s.cq (s.cqOf i)).full)

/-- R309, R310: a reserved value, a queue or connection that may not carry the entry, or a range. -/
def State.entryFieldsOk (s : State) (i e : Nat) : Bool :=
  let wop := weWop e
  let c := s.conn (weConn e)
  let len := weLen e
  decide (1 ≤ wop) && decide (wop ≤ 7) && (decide (wop < 5) || decide (i % 256 < 16)) && bits (fld e 0x01 1) 2 6 = 0 &&
    bits e 52 12 = 0 && bits e 176 16 = 0 && weLocal e % 64 = 0 && bits e (8 * 0x1C + 14) 2 = 0 && fld e 0x1E 2 = 0 &&
    bits e (8 * 0x2C + 17) 15 = 0 && bits (fld e 0x32 1) 1 7 = 0 && fld e 0x33 9 = 0 && c.home = i / 256 &&
    c.tenant = weTenant e && (decide (4 < wop) || wePage e < 2 ^ 28) &&
    (if wop = 4 then len = 0 else len % 32 = 0 && decide (32 ≤ len) && decide (len ≤ 268435456)) &&
    (wop ≠ 7 || (c.control && decide (len ≤ 4096)))

/-- Why an entry at the head cannot start: its CRC, a field, or its connection in ERROR (R313, R320). -/
def State.entryStop (s : State) (i e : Nat) : Option Nat :=
  if !(crcOk e 64) then some Stat.checkFailed
  else if !(s.entryFieldsOk i e) then some Stat.invalidField
  else if (s.conn (weConn e)).state = .error then some Stat.flushed
  else none

/-- Why the entry at a send queue's head completes at once, if it does. -/
def State.sqStop (s : State) (i : Nat) : Option Nat := if s.sqReady i then s.entryStop i (s.sqEntry i) else none

/-- The entry at a send queue's head completes without being performed; one with a bad CRC puts its connection in ERROR
(R313). -/
def State.sqDrop (s : State) (i st : Nat) : State :=
  let e := s.sqEntry i
  let s := s.updSq i (fun q => { q with head := (q.head + 1) % 65536, open_ := q.open_ + 1 })
  let s := s.endEntry (weConn e) { id := 0, sq := i, raw := e, left := 0 } st
  if st = Stat.checkFailed then s.connFail (weConn e) Stat.checkFailed none else s

/-- Entries at the heads of a link die's send queues that cannot start complete at once (R309, R313, R320). -/
def State.sqRun (s : State) (d : Nat) : Nat → State
  | 0 => s
  | n + 1 => match firstBelow 256 (fun q => (s.sqStop (256 * d + q)).isSome) with
    | none => s
    | some q => match s.sqStop (256 * d + q) with
      | none => s
      | some st => (s.sqDrop (256 * d + q) st).sqRun d n

/-- Entries posted on a link die that name a connection, or completions of its entries that wait for room. -/
def State.stillPosted (s : State) (d c : Nat) : Bool :=
  (List.range 256).any (fun q =>
    let i := 256 * d + q
    let x := s.sq i
    (x.enable && (List.range ((x.tail + 65536 - x.head) % 65536)).any (fun k =>
      weConn (s.rd (x.base + 64 * ((x.head + k) % 2 ^ x.log2)) 64) = c)) ||
    (s.cq i).due.any (fun r => bits r 96 8 = 1 && bits r 64 20 = c))

/-- A RESET is complete once every flush completion of its connection is posted (R306, R334). -/
def State.finishReset (s : State) (d : Nat) : State :=
  match (s.lnd d).resetting with
  | none => s
  | some c =>
    if s.stillPosted d c then s
    else
      let s := { s with fab := { s.fab with conns := Tbl.put s.fab.conns c { home := d } } }
      (s.writeCstate c 0).updLnd d (fun x => { x with resetting := none, connDone := true })

/-- A link die's send queues complete what cannot start. -/
def State.sqSweep (s : State) (d : Nat) : State := (s.sqRun d 1048576).finishReset d

/-- A connection enters ERROR (R320): what it has taken ends, and every entry posted is flushed as it reaches the head of
its send queue. -/
def State.connError (s : State) (c status : Nat) (who : Option Nat) : State :=
  if (s.conn c).state ≠ .ready then s else (s.connFail c status who).sqSweep (s.conn c).home

/-- The peer's connections when it turns MANAGEMENT_ONLY (R276, R320). -/
def State.peerConnsError (s : State) (dest : Nat) : State :=
  (Tbl.keys s.fab.conns).foldl (fun s c => if (s.conn c).dest = dest then s.connError c Stat.peerMismatch none else s) s

/-! ## Sending (R311, R317) -/

/-- Unacknowledged packets of a connection (R317). -/
def Conn.inFlight (c : Conn) : Nat :=
  (c.out.map (fun m => m.inQ.length + (m.sent.filter (fun e => !(m.placed.testBit e.1) && !(m.resend.contains e.1) && !(m.inQ.contains e.1))).length)).sum

/-- The next packet of a message to send. -/
def OutMsg.next (m : OutMsg) : Option Nat :=
  match m.resend with
  | k :: _ => some k
  | [] => if m.nextP < m.count then some m.nextP else none

/-- The packet of a message: header body of R314 and its data. -/
def State.packetOf (s : State) (c : Conn) (m : OutMsg) (k : Nat) : Pkt :=
  let mfl := m.npktM1 % 1024 + b2n m.imm.isSome * 1024 + b2n m.journal * 2048
  let body := c.rconn % 2 ^ 20 + k % 1024 * 2 ^ 20 + m.msn % 65536 * 2 ^ 32 + mfl * 2 ^ 48 + m.body % 2 ^ 80 * 2 ^ 64
  let data := match m.imm with
    | some v => if k = m.npktM1 then toBytes 32 (v % 2 ^ 32) else s.bytes (m.loc + 4096 * k) (Nat.min 4096 (m.len - 4096 * k))
    | none => if m.ptype = 0x11 then [] else s.bytes (m.loc + 4096 * k) (Nat.min 4096 (m.len - 4096 * k))
  mkPkt m.ptype c.queue 0 s.fid c.dest m.epoch body data

/-- The packet of a READ's data that is next (R314, R316). -/
def State.respPacket (s : State) (x : Conn) (d : ReadData) : Pkt :=
  let body := x.rconn % 2 ^ 20 + d.next % 1024 * 2 ^ 20 + d.msn % 65536 * 2 ^ 32 + d.npktM1 % 1024 * 2 ^ 48
  mkPkt 0x12 d.queue 0 s.fid x.dest s.cmap.cur body (s.bytes (d.loc + 4096 * d.next) (Nat.min 4096 (d.len - 4096 * d.next)))

/-- A packet of READ data that has been read enters an egress queue, and is counted (R316, R391). -/
def State.sendResp (s : State) (c lk : Nat) (d : ReadData) : State :=
  let x := s.conn c
  let n := Nat.min 4096 (d.len - 4096 * d.next)
  (s.enq lk { p := s.respPacket x d, tenant := some x.tenant, conn := some c }).countTier d.tn (d.loc + 4096 * d.next) n false

/-- Packet `k` of a message that has been read enters an egress queue; graft payload is counted (R317, R335). -/
def State.sendPacket (s : State) (c lk : Nat) (m : OutMsg) (k : Nat) : State :=
  let x := s.conn c
  let p := s.packetOf x m k
  let s := if m.ptype = 0x15 || m.ptype = 0x16 then
      { s with fab := { s.fab with gBytes := satAdd 64 s.fab.gBytes p.data.length } } else s
  s.enq lk { p := p, tenant := some x.tenant, rae := some (c, m.msn, k), conn := some c }

/-- The channel outside MEMORY that holds the source of packet `k` of a message (R169). -/
def State.srcHeld (s : State) (m : OutMsg) (k : Nat) : Option Nat :=
  if m.ptype = 0x11 || (m.imm.isSome && k = m.npktM1) then none
  else s.heldChan (m.loc + 4096 * k) (Nat.min 4096 (m.len - 4096 * k))

/-- A packet of a message leaves for a link, its source read at once or once its channel serves it (R169, R317). -/
def State.launch (s : State) (c lk : Nat) (m : OutMsg) (k : Nat) : State :=
  let upd := fun (o : OutMsg) =>
    if o.msn ≠ m.msn then o
    else { o with inQ := k :: o.inQ, nextP := if o.resend.isEmpty then o.nextP + 1 else o.nextP, resend := o.resend.drop 1 }
  let s := s.updConn c (fun y => { y with lastLink := lk, out := y.out.map upd })
  match s.srcHeld m k with
  | some ch => s.holdAcc ch ⟨.dma (5 + (s.conn c).home) true, false, chanOff (m.loc + 4096 * k), Nat.min 4096 (m.len - 4096 * k), [], .raeOut c m.msn k lk⟩
  | none => s.sendPacket c lk m k

/-- A packet of READ data leaves for a link, read at once or once its channel serves it (R169, R316). -/
def State.launchResp (s : State) (c lk : Nat) (d : ReadData) : State :=
  let n := Nat.min 4096 (d.len - 4096 * d.next)
  let s := s.updConn c (fun y =>
    { y with lastLink := lk, resp := if d.next < d.npktM1 then { d with next := d.next + 1 } :: y.resp.drop 1 else y.resp.drop 1 })
  match s.heldChan (d.loc + 4096 * d.next) n with
  | some ch => s.holdAcc ch ⟨.fabric (s.conn c).home, false, chanOff (d.loc + 4096 * d.next), n, [], .raeResp c lk d⟩
  | none => s.sendResp c lk d

/-- With no link of PATHS ACTIVE toward the peer, the messages that wait for one start their RTO (R317). -/
def State.startRto (s : State) (c : Nat) : Option State :=
  let x := s.conn c
  let due := fun (o : OutMsg) => o.next.isSome && o.rtoFrom.isNone
  if s.anyPath x || !(x.out.any due) then none
  else some (s.updConn c (fun y => { y with out := y.out.map (fun o => if due o then { o with rtoFrom := some s.ltu } else o) }))

/-- Flits of the next packet of READ data (R269). -/
def respFlits (d : ReadData) : Nat := 1 + cdiv (Nat.min 4096 (d.len - 4096 * d.next)) 32

/-- One packet of a connection enters an egress queue, if the window and a path allow (R317). `none` when nothing more can
be sent. -/
def State.pumpOne (s : State) (c : Nat) : Option State :=
  let x := s.conn c
  if x.state ≠ .ready then none
  else match x.resp with
  | d :: _ => (s.choosePath x d.queue (respFlits d)).map (fun lk => s.launchResp c lk d)
  | [] =>
    match x.out.find? (fun m => m.next.isSome) with
    | none => none
    | some m =>
      if x.window / 65536 ≤ x.inFlight then none
      else match m.next with
      | none => none
      | some k => match s.choosePath x x.queue (s.packetOf x m k).flits with
        | none => s.startRto c
        | some lk => some (s.launch c lk m k)

/-- Packets enter the queues while they can; at most as many as `fuel`. -/
def State.pumpN (s : State) (c : Nat) : Nat → State
  | 0 => s
  | n + 1 => match s.pumpOne c with
    | none => s
    | some s => s.pumpN c n

/-- Bitmaps in use on a link die: open inbound messages and READs under way (R315, R316, R334). -/
def State.bitmaps (s : State) (d : Nat) : Nat :=
  s.fab.conns.foldl (fun n e => if e.2.home = d then
    n + (e.2.inm.filter (fun m => !m.done)).length + (e.2.out.filter (fun m => m.ptype = 0x11)).length else n) 0

/-- How many of the messages that wait may take a place: at most `k`, and READs while bitmaps are free (R316, R317). -/
def placesFor : List OutMsg → Nat → Nat → Nat
  | [], _, _ => 0
  | _, 0, _ => 0
  | m :: ms, k + 1, free =>
    if m.ptype = 0x11 then (match free with
      | 0 => 0
      | f + 1 => placesFor ms k f + 1)
    else placesFor ms k free + 1

/-- Messages take their places among the 64, and packets leave (R316, R317). -/
def State.pump (s : State) (c : Nat) : State :=
  let free := 4096 - s.bitmaps (s.conn c).home
  let s := s.updConn c (fun x =>
    let k := placesFor x.backlog (64 - x.out.length) free
    { x with out := x.out ++ x.backlog.take k, backlog := x.backlog.drop k })
  s.pumpN c 8192

/-- Every connection sends what it can (R317). -/
def State.pumpAll (s : State) : State := (Tbl.keys s.fab.conns).foldl (fun s c => s.pump c) s

/-! ## Work entries (R309 to R311, R313) -/

/-- The messages of a data transfer: at most `cap off` packets in the one that starts at `off`, all but WRITE_IMM's last
carrying data only (R311). -/
def splitMsgs (ptype entry loc len : Nat) (cap : Nat → Nat) (epoch : Nat) (imm : Option Nat) (body : Nat → Nat) (journal : Bool) :
    Nat → Nat → Nat → List OutMsg
  | 0, _, _ => []
  | fuel + 1, msn, off =>
    let rest := len - off
    let total := cdiv rest 4096
    let last := decide (total ≤ (match imm with
      | some _ => 1023
      | none => cap off))
    let n := if last then total else Nat.max 1 (Nat.min (cap off) (total - 1))
    let withImm := last && imm.isSome
    let m : OutMsg :=
      { msn := msn % 65536, entry := entry, ptype := ptype, npktM1 := n + b2n withImm - 1, imm := if withImm then imm else none,
        journal := journal, body := body off, loc := loc + off, len := Nat.min rest (4096 * n), epoch := epoch }
    if last then [m] else m :: splitMsgs ptype entry loc len cap epoch imm body journal fuel (msn + 1) (off + 4096 * n)

/-- Packets of a GRAFT_DATA message of plots that starts at packet `k` of the sequence range: to the end of its layer-head,
16 packets to each of its 2^PAGE_BITS pages, and at most 1,024 (R133, R311, R324). -/
def layerHeadLeft (pageBits k : Nat) : Nat := Nat.min 1024 (16 * 2 ^ pageBits - k % (16 * 2 ^ pageBits))

/-- The messages of a work entry (R310, R311, R316, R324, R326, R327). -/
def State.messagesOf (s : State) (e id msn : Nat) : List OutMsg :=
  let wop := weWop e
  let rk := fun off => weRegion e + weKey e * 2 ^ 16 + (wePage e + off / 4096) % 2 ^ 28 * 2 ^ 48
  let gr := fun off => weDreq e + (wePage e + off / 4096) % 2 ^ 32 * 2 ^ 32 + weGtag e * 2 ^ 64
  let g := s.fab.grafts.find? (fun g => g.conn = some (weConn e) && g.gtag = weGtag e)
  let gEpoch := match g with
    | some g => g.mapEpoch
    | none => s.cmap.cur
  let cap := fun off => match g with
    | some g => if weJournal e then 1024 else layerHeadLeft (s.req g.req).seq.pageBits (wePage e + off / 4096)
    | none => 1024
  match wop with
  | 1 => splitMsgs 0x10 id (weLocal e) (weLen e) (fun _ => 1024) s.cmap.cur none rk false 65 msn 0
  | 2 => splitMsgs 0x10 id (weLocal e) (weLen e) (fun _ => 1024) s.cmap.cur (some (weImm e)) rk false 65 msn 0
  | 3 => splitMsgs 0x11 id (weLocal e) (weLen e) (fun _ => 1024) s.cmap.cur none rk false 65 msn 0
  | 4 => [{ msn := msn % 65536, entry := id, ptype := 0x10, npktM1 := 0, imm := some (weImm e), loc := 0, len := 0, epoch := s.cmap.cur }]
  | 5 => splitMsgs 0x15 id (weLocal e) (weLen e) cap gEpoch none gr (weJournal e) 4097 msn 0
  | 6 => splitMsgs 0x16 id (weLocal e) (weLen e) (fun _ => 1024) gEpoch none gr false 65 msn 0
  | _ => [{ msn := msn % 65536, entry := id, ptype := 0x17, npktM1 := 0, loc := weLocal e, len := weLen e, epoch := weImm e % 65536 }]

/-- One WOP's work entry is taken from the head of a send queue and its messages are sent (R309 to R311, R319). -/
def State.takeEntry (s : State) (i wop : Nat) : State :=
  let e := s.sqEntry i
  let c := weConn e
  let x := s.conn c
  if !s.live || !(s.sqReady i) || weWop e ≠ wop || (s.entryStop i e).isSome || x.state ≠ .ready || !x.cached ||
      (bit e 9 && (s.sq i).open_ ≠ 0) then s
  else
    let s := s.updSq i (fun q => { q with head := (q.head + 1) % 65536, open_ := q.open_ + 1 })
    let ms := s.messagesOf e x.nextEntry x.nextMsn
    let w : WorkEntry := { id := x.nextEntry, sq := i, raw := e, left := ms.length }
    let st := if wop = 4 then Stat.ok else s.accStatus (.dma (5 + i / 256) true) (if wop = 3 then .write else .read) (weLocal e) (weLen e)
    let s := s.updConn c (fun y =>
      { y with entries := y.entries ++ [w], nextEntry := y.nextEntry + 1, nextMsn := (y.nextMsn + ms.length) % 65536, used := s.ltu })
    let s := if st ≠ Stat.ok then (s.violateAt (.dma (5 + i / 256) true) (weLocal e)).connError c st (some w.id)
      else (s.updConn c (fun y => { y with backlog := y.backlog ++ ms })).pump c
    s.sqSweep (i / 256)

/-- Index of send queue q of a link die. -/
def sqIdx (die : Fin 2) (q : Fin 256) : Nat := 256 * die.val + q.val

/-- WRITE (R310): local data to a remote region. -/
def execRaeWrite (die : Fin 2) (q : Fin 256) (s : State) : Host.Outcome State Fault Refusal := .next (s.takeEntry (sqIdx die q) 1)

/-- WRITE_IMM (R310): data, then an immediate. -/
def execRaeWriteImm (die : Fin 2) (q : Fin 256) (s : State) : Host.Outcome State Fault Refusal := .next (s.takeEntry (sqIdx die q) 2)

/-- READ (R316): a remote region into local memory. -/
def execRaeRead (die : Fin 2) (q : Fin 256) (s : State) : Host.Outcome State Fault Refusal := .next (s.takeEntry (sqIdx die q) 3)

/-- NOTIFY (R310): an immediate to the peer. -/
def execRaeNotify (die : Fin 2) (q : Fin 256) (s : State) : Host.Outcome State Fault Refusal := .next (s.takeEntry (sqIdx die q) 4)

/-- GRAFT_DATA (R324): plots or journal pages. -/
def execGraftData (die : Fin 2) (q : Fin 256) (s : State) : Host.Outcome State Fault Refusal := .next (s.takeEntry (sqIdx die q) 5)

/-- GRAFT_FRAME (R326): one compressed frame. -/
def execGraftFrame (die : Fin 2) (q : Fin 256) (s : State) : Host.Outcome State Fault Refusal := .next (s.takeEntry (sqIdx die q) 6)

/-- CONTROL (R327): a graft control record. -/
def execControl (die : Fin 2) (q : Fin 256) (s : State) : Host.Outcome State Fault Refusal := .next (s.takeEntry (sqIdx die q) 7)

/-- SQ_TAIL_WRITE (R309, R313): entries are posted; those that cannot start complete. -/
def execSqTailWrite (die : Fin 2) (q : Fin 256) (v : BitVec 16) (s : State) : Host.Outcome State Fault Refusal :=
  if !s.live then .next s
  else .next ((s.updSq (sqIdx die q) (fun x => { x with tail := v.toNat })).sqSweep die.val)

/-! ## Connection commands (R306, R320, R334) -/

def State.connCmd (s : State) (d : Nat) (ok : Bool) : State :=
  s.updLnd d (fun x => if ok then { x with connDone := true } else { x with connReject := true })

/-- CONN_ACTIVATE (R306, R308): RESET to READY when the descriptor checks; REJECT otherwise, and while a command is in
progress. With no room in the cache the context stands in its slot alone. -/
def execConnActivate (die : Fin 2) (conn : BitVec 20) (s : State) : Host.Outcome State Fault Refusal :=
  let c := conn.toNat
  let e := s.rd (connSlot c) 64
  if !s.live then .next s
  else if (s.lnd die.val).resetting.isSome || bits e 80 1 ≠ die.val || (s.conn c).state ≠ .reset || !(connDescOk e) then
    .next (s.connCmd die.val false)
  else
    let room := s.makeRoom die.val
    let s := room.getD s
    let s := { s with fab := { s.fab with conns := Tbl.put s.fab.conns c { connOf e s.ltu with cached := room.isSome } } }
    .next (((s.writeCstate c 1).writeContext c).connCmd die.val true)

/-- CONN_RESET (R306): READY is forced into ERROR first; DONE after every flush completion is posted. -/
def execConnReset (die : Fin 2) (conn : BitVec 20) (s : State) : Host.Outcome State Fault Refusal :=
  let c := conn.toNat
  if !s.live then .next s
  else if (s.lnd die.val).resetting.isSome || (s.conn c).home ≠ die.val || (s.conn c).state = .reset then .next (s.connCmd die.val false)
  else .next (((s.updLnd die.val (fun x => { x with resetting := some c })).connError c Stat.flushed none).sqSweep die.val)

/-- CONN_FORCE_ERROR (R320). -/
def execConnForceError (die : Fin 2) (conn : BitVec 20) (s : State) : Host.Outcome State Fault Refusal :=
  let c := conn.toNat
  if !s.live then .next s
  else if (s.lnd die.val).resetting.isSome || (s.conn c).home ≠ die.val || (s.conn c).state ≠ .ready then .next (s.connCmd die.val false)
  else .next ((s.connError c Stat.flushed none).connCmd die.val true)

/-! ## Receiving (R315, R316) -/

/-- RQ_ACK data (R316): the mask of completed MSNs, the four oldest incomplete messages, packets with ECN. -/
def Conn.ackData (c : Conn) : List Byte :=
  let opens := sortBy (fun (a b : InMsg) => decide (msnDist c.base a.msn ≤ msnDist c.base b.msn)) (c.inm.filter (fun m => !m.done))
  let row := fun i => match opens[i]? with
    | some m => toBytes 2 m.msn ++ toBytes 128 m.bitmap
    | none => toBytes 130 0
  toBytes 8 c.doneMask ++ (List.range 4).flatMap row ++ toBytes 4 c.ecn

/-- Send RQ_ACK (R316). -/
def State.sendAck (s : State) (c : Nat) : State :=
  let x := s.conn c
  let s := s.sendLoose c 0x13 (x.rconn % 2 ^ 20 + x.base * 2 ^ 32) s.cmap.cur x.ackData
  s.updConn c (fun y => { y with ecn := 0, ackFrom := none })

/-- Leading complete messages leave the window; one whose completion is withheld stops it (R313, R315). -/
def Conn.advance (c : Conn) : Nat → Conn
  | 0 => c
  | n + 1 => match c.inm.find? (fun m => m.msn = c.base && m.done && !m.held) with
    | none => c
    | some m => Conn.advance { c with base := (c.base + 1) % 65536, inm := c.inm.erase m } n

/-- Journal bytes of a graft have come whole (R331). -/
def Graft.gotJournal (g : Graft) (gtag peer n : Nat) : Graft :=
  if g.send || g.phase = .done || g.gtag ≠ gtag || g.peer ≠ peer then g else { g with jgot := g.jgot + n }

/-- An inbound message is whole: its immediate is delivered, or withheld while RCQ is full (R313, R315). -/
def State.wholeMsg (s : State) (c : Nat) (m : InMsg) : State :=
  let x := s.conn c
  let full := (s.cq x.rcq).full
  let s := match m.imm with
    | some v =>
      if full then
        (s.updConn c (fun y => { y with inm := y.inm.map (fun (o : InMsg) => if o.msn = m.msn then { o with held := true } else o) })).updLnd x.home
          (fun d => { d with cqHold := satAdd 16 d.cqHold 1 })
      else s.postCpl x.rcq (cplRaw 0 c (if m.npktM1 = 0 then 3 else 2) Stat.ok m.bytes v)
    | none => s
  let s := match m.gtag, m.journal with
    | some t, true => { s with fab := { s.fab with grafts := s.fab.grafts.map (fun (g : Graft) => g.gotJournal t x.dest m.bytes) } }
    | _, _ => s
  (s.updConn c (fun y => y.advance 65)).sendAck c

/-- The bit of a packet is set once its bytes are at their destination; the message may now be whole (R315). -/
def State.placed (s : State) (c : Nat) (p : Pkt) (n : Nat) : State :=
  let msn := rqMsn p
  let s := s.updConn c (fun x => { x with inm := x.inm.map (fun m =>
    if m.msn ≠ msn then m
    else
      let bm := m.bitmap ||| (1 <<< rqPidx p)
      { m with bitmap := bm, bytes := m.bytes + n, done := m.npktM1 + 1 ≤ ((List.range (m.npktM1 + 1)).filter (fun i => bm.testBit i)).length,
               imm := if rqImm p && rqPidx p = m.npktM1 then some (ofBytes (p.data.take 4)) else m.imm }) })
  match (s.conn c).inm.find? (fun m => m.msn = msn) with
  | some m => if m.done then s.wholeMsg c m else s
  | none => s

/-- Count a duplicate. -/
def State.countDup (s : State) (d : Nat) : State := s.updLnd d (fun x => { x with dup := satAdd 32 x.dup 1 })

/-- The connection of a received packet, READY and with its context in the cache: otherwise the packet is dropped and
counted, or waits for a fill (R307, R308). -/
def State.contextFor (s : State) (p : Pkt) : State × Option Nat :=
  let c := rqConn p
  let x := s.conn c
  if x.state ≠ .ready then (s.updLnd x.home (fun y => { y with notReady := satAdd 16 y.notReady 1 }), none)
  else if x.cached then (s.updConn c (fun y => { y with used := s.ltu }), some c)
  else if (s.lnd x.home).miss.length < 256 then (s.updLnd x.home (fun y => { y with miss := y.miss ++ [p] }), none)
  else (s.updLnd x.home (fun y => { y with missDrop := satAdd 16 y.missDrop 1 }), none)

/-- R315: what a received data packet of a READY connection meets before its check and placement; `none` when it is
dropped. -/
def State.openMsg (s : State) (c : Nat) (p : Pkt) : State × Option Nat :=
  let x := s.conn c
  let d := x.home
  let s := s.updConn c (fun y => { y with ecn := y.ecn + b2n p.ecn, ackFrom := some (y.ackFrom.getD s.ltu) })
  let k := msnDist x.base (rqMsn p)
  if 32768 ≤ k then ((s.countDup d).sendAck c, none)
  else if 64 ≤ k then (s.countDup d, none)
  else match x.inm.find? (fun m => m.msn = rqMsn p) with
    | some m => if m.done || m.bitmap.testBit (rqPidx p) then (s.countDup d, none) else (s, some c)
    | none =>
      if 4096 ≤ s.bitmaps d then (s.updLnd d (fun y => { y with missDrop := satAdd 16 y.missDrop 1 }), none)
      else (s.updConn c (fun y => { y with inm := y.inm ++ [{ msn := rqMsn p, npktM1 := rqNpktM1 p }] }), some c)

/-- A received data packet before its check and placement (R315): the state with its message open and the connection's
number, or none when it is dropped or waits. -/
def State.admitData (s : State) (p : Pkt) : State × Option Nat :=
  match s.contextFor p with
  | (s, none) => (s, none)
  | (s, some c) => s.openMsg c p

/-- The packet that carries only the immediate is not placed (R315). -/
def immPacket (p : Pkt) : Bool := rqImm p && rqPidx p = rqNpktM1 p

/-- A NOTIFY: its one packet is the immediate's, and it names no region (R310, R314). -/
def notifyPacket (p : Pkt) : Bool := immPacket p && rqNpktM1 p = 0

/-- Byte offset in the region of an RQ_WRITE packet's data (R315). -/
def rqOffset (p : Pkt) : Nat := 4096 * (rqPage p + rqPidx p)

/-- Inbound data reaches its address, counted to its tenant (R315, R391). -/
def State.putInbound (s : State) (c : Nat) (p : Pkt) (a tn : Nat) : State :=
  let n := p.data.length
  (((s.placeBytes a p.data).countTier tn a n true).countRx tn p.via (32 * p.flits)).placed c p n

/-- Inbound data is placed, or held with the channel that holds its address (R169, R315). -/
def State.putOrHold (s : State) (c : Nat) (p : Pkt) (a tn : Nat) : State :=
  match s.heldChan a p.data.length with
  | some ch => s.holdAcc ch ⟨.fabric (s.conn c).home, true, chanOff a, 0, [], .rae p⟩
  | none => s.putInbound c p a tn

/-- R291 on an RQ_WRITE packet: the bytes it places; for WRITE_IMM's immediate, which has none, the region and key of its
message (R315; DEDUCED, log 88). -/
def State.rqCheck (s : State) (p : Pkt) : Nat :=
  let r := rqRegion p
  if notifyPacket p then 0
  else if immPacket p then s.regionCheck r (rqKey p) (4096 * rqPage p) 0 4 true false none
  else s.regionCheck r (rqKey p) (rqOffset p) p.data.length 4 true false none

/-- RQ_WRITE_RECEIVE (R315): region and key are checked, the packet is placed, its message completed when whole. -/
def State.rqWrite (s : State) (p : Pkt) : State :=
  match s.admitData p with
  | (s, none) => s
  | (s, some c) =>
    let d := (s.conn c).home
    let r := s.region (rqRegion p)
    let s := if notifyPacket p then s else s.regionCrc d (rqRegion p)
    let st := s.rqCheck p
    let a := rgBase r + rqOffset p
    let ms := if immPacket p then Stat.ok else s.keyedStatus d (rgTenant r) .write a p.data.length
    if st ≠ 0 then s.sendErr c (rqMsn p) (0x300 + st)
    else if ms ≠ Stat.ok then (s.violateAt (.fabric d) a).sendErr c (rqMsn p) (rqRefusal ms)
    else if immPacket p then s.placed c p 0
    else s.putOrHold c p a (rgTenant r)

def execRqWriteReceive (p : Pkt) (s : State) : Host.Outcome State Fault Refusal :=
  if !s.live then .next s else .next ((s.arrive p).1.rqWrite (s.arrive p).2)

/-- A READ message of the peer (R316): the region is checked, then its data is sent on the requester's QUEUE (R314); it is
read again whenever asked. -/
def State.rqReadReq (s : State) (p : Pkt) (poison : Bool) : State :=
  match s.contextFor p with
  | (s, none) => s
  | (s, some c) =>
    let d := (s.conn c).home
    let r := s.region (rqRegion p)
    let s := s.regionCrc d (rqRegion p)
    let off := 4096 * rqPage p
    let len := Nat.min (4096 * (rqNpktM1 p + 1)) (rgSize r - off)
    let st := s.regionCheck (rqRegion p) (rqKey p) off (4096 * rqNpktM1 p + 32) 4 false false none
    let ms := s.keyedStatus d (rgTenant r) .read (rgBase r + off) len
    if st ≠ 0 then s.sendErr c (rqMsn p) (0x300 + st)
    else if ms ≠ Stat.ok then (s.violateAt (.fabric d) (rgBase r + off)).sendErr c (rqMsn p) (rqRefusal ms)
    else if poison then s.sendErr c (rqMsn p) 0x307
    else
      let q : ReadData := { msn := rqMsn p, npktM1 := rqNpktM1 p, loc := rgBase r + off, len := len, tn := rgTenant r, queue := p.queue }
      let s := s.updConn c (fun y =>
        let seen := 32768 ≤ msnDist y.base (rqMsn p) || y.inm.any (fun m => m.msn = rqMsn p)
        let y := if seen then y else { y with inm := y.inm ++ [{ msn := rqMsn p, npktM1 := 0, bitmap := 1, done := true }] }
        Conn.advance { y with resp := y.resp ++ [q] } 65)
      s.pump c

def execRqReadReqReceive (p : Pkt) (poison : Bool) (s : State) : Host.Outcome State Fault Refusal :=
  if !s.live then .next s else .next ((s.arrive p).1.rqReadReq (s.arrive p).2 poison)

/-- A message of this end is complete: its entry goes on, and ends with its last message (R312). -/
def State.msgDone (s : State) (c : Nat) (m : OutMsg) : State :=
  let s := s.updConn c (fun x =>
    { x with out := x.out.filter (fun o => o.msn ≠ m.msn),
             entries := x.entries.map (fun w => if w.id = m.entry then { w with left := w.left - 1, bytes := w.bytes + m.len } else w) })
  match (s.conn c).entries.find? (fun w => w.id = m.entry && w.left = 0) with
  | none => s
  | some w => (s.updConn c (fun x => { x with entries := x.entries.filter (fun v => v.id ≠ w.id) })).endEntry c w Stat.ok

/-- Data of a READ of this end has reached its place; the READ is complete when all has come (R316). -/
def State.readPlaced (s : State) (c : Nat) (m : OutMsg) (k : Nat) : State :=
  let m := { m with placed := m.placed ||| (1 <<< k) }
  let s := s.updConn c (fun y => { y with out := y.out.map (fun (o : OutMsg) => if o.msn = m.msn then m else o) })
  if (List.range (m.npktM1 + 1)).all (fun i => m.placed.testBit i) then (s.msgDone c m).pump c else s

/-- The READ of this end whose data a packet brings. -/
def Conn.readOf (x : Conn) (p : Pkt) : Option OutMsg :=
  x.out.find? (fun m => m.ptype = 0x11 && m.msn = rqMsn p && !(m.placed.testBit (rqPidx p)) && decide (rqPidx p ≤ m.npktM1))

/-- Data of a READ is placed, and counted to its tenant (R316, R391). -/
def State.putRead (s : State) (c : Nat) (m : OutMsg) (p : Pkt) (a : Nat) : State :=
  let data := p.data.take (m.len - 4096 * rqPidx p)
  let tn := (s.conn c).tenant
  (((s.placeBytes a data).countTier tn a data.length true).countRx tn p.via (32 * p.flits)).readPlaced c m (rqPidx p)

/-- READ data received (R316): placed at LOCAL + 4,096 x PIDX, at once or through the channel that holds it; data of a
message already complete or closed is counted (R334). -/
def State.rqReadResp (s : State) (p : Pkt) : State :=
  match s.contextFor p with
  | (s, none) => s
  | (s, some c) =>
    match (s.conn c).readOf p with
    | none => s.updLnd (s.conn c).home (fun d => { d with raeLate := satAdd 16 d.raeLate 1 })
    | some m =>
      let a := m.loc + 4096 * rqPidx p
      let s := s.updConn c (fun y => { y with ecn := y.ecn + b2n p.ecn })
      match s.heldChan a (Nat.min 4096 (m.len - 4096 * rqPidx p)) with
      | some ch => s.holdAcc ch ⟨.dma (5 + (s.conn c).home) true, true, chanOff a, 0, [], .rae p⟩
      | none => s.putRead c m p a

/-- RQ_READ_RESP_RECEIVE (R316). -/
def execRqReadRespReceive (p : Pkt) (s : State) : Host.Outcome State Fault Refusal :=
  if !s.live then .next s else .next ((s.arrive p).1.rqReadResp (s.arrive p).2)

/-! ## Acknowledgement, window, retransmission (R316 to R318) -/

/-- R318 on an acknowledgement of k new packets, e of them marked; the window in 1/65,536 packet. -/
def Conn.onAck (c : Conn) (k e now : Nat) : Conn :=
  if k = 0 then c
  else if e = 0 then { c with window := Nat.min (c.winMax * 65536) (c.window + k * 65536 * 65536 / Nat.max 1 c.window) }
  else if c.holdUntil ≤ now then
    { c with window := Nat.max (64 * 65536) (c.window - c.window * e / (2 * k)), holdUntil := now + c.srtt }
  else c

/-- An RQ_ACK's effect on a connection and its messages (R316, R317). -/
def State.raeAck (s : State) (p : Pkt) : State :=
  match s.contextFor p with
  | (s, none) => s
  | (s, some c) =>
    let x := s.conn c
    let base := rqMsn p
    let w := ofBytes p.data
    let mask := bits w 0 64
    let maps := (List.range 4).map (fun i => (bits w (64 + 1040 * i) 16, bits w (80 + 1040 * i) 1024))
    let ecn := bits w (64 + 4160) 32
    let isDone := fun (m : OutMsg) => m.ptype ≠ 0x11 &&
      (32768 ≤ msnDist base m.msn || (msnDist base m.msn < 64 && mask.testBit (msnDist base m.msn)))
    let seen := fun (m : OutMsg) => match maps.find? (fun r => r.1 = m.msn && r.2 ≠ 0) with
      | some r => some r.2
      | none => none
    let fresh := fun (m : OutMsg) => m.sent.filter (fun t => !(m.placed.testBit t.1) &&
      (isDone m || (match seen m with
        | some b => b.testBit t.1
        | none => false)))
    let news := x.out.flatMap fresh
    let x' := x.onAck news.length ecn s.ltu
    let x' := match news.head? with
      | some t => { x' with srtt := Config.srtt x'.srtt (s.ltu - t.2.2) }
      | none => x'
    let s := s.updConn c (fun _ =>
      { x' with out := x'.out.map (fun m => match seen m with
          | some b => { m with placed := m.placed ||| b, reported := true, resend := m.resend.filter (fun k => !(b.testBit k)) }
          | none => m) })
    ((x.out.filter isDone).foldl (fun s m => s.msgDone c m) s).pump c

/-- RQ_ACK_TIMER (R316): once a microsecond while packets have arrived since the last acknowledgement. -/
def execRqAckTimer (conn : BitVec 20) (s : State) : Host.Outcome State Fault Refusal :=
  let x := s.conn conn.toNat
  match x.ackFrom with
  | some t => if !s.live || x.state ≠ .ready || !x.cached || s.ltu < t + 100 then .next s else .next (s.sendAck conn.toNat)
  | none => .next s

/-- PATH_LOSS_RESEND (R317): a link that left ACTIVE: what it sent and is not shown as placed is resent at once. -/
def execPathLossResend (lk : Fin 36) (s : State) : Host.Outcome State Fault Refusal :=
  if !s.live || (s.link lk.val).carries then .next s
  else .next ((Tbl.keys s.fab.conns).foldl (fun s c =>
    let x := s.conn c
    if x.state ≠ .ready || s.activeToward lk.val x.dest then s
    else
      let lost := fun (m : OutMsg) => (m.sent.filter (fun t => t.2.1 = lk.val && !(m.placed.testBit t.1) && !(m.resend.contains t.1) && !(m.inQ.contains t.1))).map (·.1)
      let n := (x.out.map (fun m => (lost m).length)).sum
      if n = 0 then s
      else
        let s := s.updConn c (fun y => { y with out := y.out.map (fun (m : OutMsg) => { m with resend := m.resend ++ lost m }) })
        (s.updLnd x.home (fun d => { d with retrans := satAdd 32 d.retrans n })).pump c) s)

/-! ## Revocation and counters (R321, R334) -/

/-- A region entry as hardware changes it, its CRC rewritten. -/
def rgMark (r st epoch key : Nat) : Nat := withCrc (setFld (setFld (setFld r 0x18 1 st) 0x16 2 epoch) 0x10 4 key) 32

/-- RAE_REVOKE (R321): KEY_EPOCH advances and the region is REVOKING on both link dies; every later check of it
fails. Accepted only on LD0, for a VALID region, one at a time. -/
def execRaeRevoke (die : Fin 2) (region : BitVec 14) (s : State) : Host.Outcome State Fault Refusal :=
  let r := s.region region.toNat
  if !s.live then .next s
  else if die.val = 1 || s.fab.revoking.isSome || rgState r ≠ 1 then .next (s.updLnd die.val (fun d => { d with revReject := true }))
  else
    let k := (s.fab.keyEpoch + 1) % 65536
    let s := { s with fab := { s.fab with keyEpoch := k, revoking := some region.toNat } }
    .next (s.setRegion region.toNat (rgMark r 2 k (rgKey r)))

/-- REVOKE_DONE (R321): no validated write of the region is in flight: it becomes FREE with KEY 0. -/
def execRevokeDone (s : State) : Host.Outcome State Fault Refusal :=
  match s.fab.revoking with
  | none => .next s
  | some i =>
    if !s.live || s.inflight i ≠ 0 then .next s
    else
      let r := s.region i
      let s := s.setRegion i (rgMark r 0 (fld r 0x16 2) 0)
      .next ({ s with fab := { s.fab with revoking := none } }.updLnd 0 (fun d => { d with revDone := true }))

/-- RAE_CNT_CLR (R334). -/
def execRaeCntClr (die : Fin 2) (s : State) : Host.Outcome State Fault Refusal :=
  if !s.live then .next s
  else .next (s.updLnd die.val (fun d =>
    { d with dup := 0, retrans := 0, fills := 0, spills := 0, missDrop := 0, connErrors := 0, notReady := 0, cqHold := 0, raeLate := 0 }))

/-- CQ_HEAD_WRITE (R313): room returns: completions that waited are written, withheld inbound completions delivered,
and stopped send queues take entries. -/
def execCqHeadWrite (die : Fin 2) (q : Fin 256) (v : BitVec 16) (s : State) : Host.Outcome State Fault Refusal :=
  let i := sqIdx die q
  if !s.live then .next s
  else
    let s := (s.updCq i (fun x => { x with head := v.toNat })).flushCq i
    let s := (Tbl.keys s.fab.conns).foldl (fun s c =>
      if (s.conn c).rcq ≠ i then s
      else ((s.conn c).inm.filter (·.held)).foldl (fun s m =>
        if (s.cq i).full then s
        else
          let m := { m with held := false }
          (s.updConn c (fun y => { y with inm := y.inm.map (fun (o : InMsg) => if o.msn = m.msn then m else o) })).wholeMsg c m) s) s
    .next (s.sqSweep die.val)

end Sys2Proof.Machine
end

