-- ==== Sys2Proof/Machine/Msf.lean ====
section
/-!
DEFINITION. Sys2Proof/Machine/Msf.lean: the memory-semantic fabric: windows, requests and their slots, requests
received, timeouts and tables (R283 to R303).
-/
namespace Sys2Proof.Machine

/-! ## Sending (R283 to R286, R289, R290) -/

/-- Operations of R289 by MOP. -/
def mopLoad : Nat := 1
def mopStore : Nat := 2
def mopAdd : Nat := 3
def mopSwap : Nat := 4
def mopCas : Nat := 5
def mopReadBurst : Nat := 6
def mopWriteBurst : Nat := 7

/-- The operation writes: its write part counts among a source's writes (R295). -/
def mopWrites (m : Nat) : Bool := m = 2 || m = 3 || m = 4 || m = 5 || m = 7
def mopAtomic (m : Nat) : Bool := m = 3 || m = 4 || m = 5

/-- The AGENT field of a request (R290): DIE_SITE, UNIT, INDEX. A remote read of a compressor or Sieve operation, which no
channel carries, goes as the tile's first channel (DESIGN CHOICE, log 85). -/
def State.agentCode (s : State) (a : Agent) : Nat :=
  match a with
  | .core t th _ => dieOfTile t.val * 2 ^ 19 + t.val * 2 ^ 13 + th.val * 2 ^ 5
  | .control h => 4 * 2 ^ 19 + 0x3F * 2 ^ 13 + h.val * 2 ^ 5
  | .commit => 4 * 2 ^ 19 + 0x3D * 2 ^ 13
  | .dma e c => e.val * 2 ^ 19 + 0x3E * 2 ^ 13 + c.val * 2 ^ 5
  | .tileDma t h =>
    let k := ([0, 1].find? (fun k => (s.dch (dieOfTile t.val) (2 * localOfTile t.val + k)).xfer.any (fun f => f.handle = h))).getD 0
    dieOfTile t.val * 2 ^ 19 + 0x3E * 2 ^ 13 + (2 * localOfTile t.val + k) * 2 ^ 5

/-- Link die, window and offset of an aperture address (R283). -/
def apDie (a : Nat) : Nat := bits a 46 1
def apWindow (a : Nat) : Nat := bits a 35 12
def apOffset (a : Nat) : Nat := bits a 0 35

def State.window (s : State) (a : Nat) : Nat := Tbl.getD (s.lnd (apDie a)).windows (apWindow a % 2048) 0
def wnTenant (w : Nat) : Nat := fld w 0x18 2
def wnDest (w : Nat) : Nat := bits w (8 * 0x16) 12
def wnFlag (w i : Nat) : Bool := bit (fld w 0x1A 1) i

/-- The tenant an access is made for, when it is made for a tile command (R285). -/
def State.agentTenant (s : State) (a : Agent) : Option Nat :=
  match a with
  | .core t _ _ => (s.cmd? t.val).map (fun c => cdTenant c.desc)
  | .tileDma t _ => (s.cmd? t.val).map (fun c => cdTenant c.desc)
  | .commit => s.fab.commitOps.head?.map (·.tenant)
  | _ => none

/-- A link may carry MSF traffic: ACTIVE, or LINK_UP through a switch (R285). -/
def Link.takesMsf (l : Link) : Bool := l.state = .active || (l.state = .linkUp && l.partnerSwitch)

/-- R285: the status and cause of the first check that an access fails; none when every check holds. -/
def State.windowCheck (s : State) (ag : Agent) (addr n mop : Nat) : Option (Nat × Nat) :=
  let w := s.window addr
  let dest := wnDest w
  let lk := peerMsfLink (s.peer dest)
  if !(crcOk w 32) then some (Stat.accessDenied, 0x14)
  else if !(wnFlag w 0) || bits w 64 36 < apOffset addr + n then some (Stat.addrUnmapped, 0x14)
  else if (match s.agentTenant ag with
      | some t => decide (wnTenant w ≠ t) || decide (wnTenant w = 0xFFFF)
      | none => false) then some (Stat.accessDenied, 0x15)
  else if ((mop = mopStore || mop = mopWriteBurst) && !(wnFlag w 1)) || (mopAtomic mop && !(wnFlag w 2)) ||
      (wnFlag w 3 && (match ag with
        | .control _ => false
        | _ => true)) then some (Stat.accessDenied, 0x15)
  else if !(s.peerActive dest) then some (Stat.remoteFault, 0x09)
  else if lk / 18 ≠ apDie addr || !((s.link lk).takesMsf) then some (Stat.remoteFault, 0x11)
  else none

/-- MSF_FAULT keeps the first fault (R302). -/
def State.msfFault (s : State) (die cause dest agent addr : Nat) : State :=
  s.updLnd die (fun d => if d.faultValid then d
    else { d with faultValid := true, faultCause := cause, faultDest := dest, faultAgent := agent, faultAddr := addr })

/-- A transfer ends early: bursts not yet issued are dropped, the first status stands, and what comes after the first
dropped or failed byte is not done (R219, R220). -/
def State.cutXfer (s : State) (ag : Agent) (e c status : Nat) (failed : Nat) : State :=
  let gone := s.fab.bursts.filter (fun b => b.ag = ag && !b.issued)
  let s := { s with fab := { s.fab with bursts := s.fab.bursts.filter (fun b => b.ag ≠ ag || b.issued) } }
  s.updDch e c (fun x => { x with xfer := x.xfer.map (fun f =>
    { f with status := if f.status = Stat.ok then status else f.status, todo := false,
             cap := leastPos (if failed = 0 then f.cap else Nat.min f.cap (failed - 1)) gone }) })

/-- The channel of an agent's transfer (R213). -/
def State.chanOfAgent (s : State) (ag : Agent) : Option (Nat × Nat) :=
  match ag with
  | .dma e c => some (e.val, c.val)
  | .tileDma t h =>
    let e := dieOfTile t.val
    ([0, 1].find? (fun k => (s.dch e (2 * localOfTile t.val + k)).xfer.any (fun f => f.handle = h))).map (fun k => (e, 2 * localOfTile t.val + k))
  | _ => none

/-- A DMA agent's access failed: its transfer ends early (R220), or the engine operation behind it fails its command. -/
def State.dmaFail (s : State) (ag : Agent) (status failed : Nat) : State :=
  match s.chanOfAgent ag, ag with
  | some (e, c), _ => s.cutXfer ag e c status failed
  | none, .tileDma t _ => { s with fab := { s.fab with bursts := s.fab.bursts.filter (fun b => b.ag ≠ ag) } }.failCmd t.val status
  | none, _ => s

/-- A control core's remote access failed (R293): a load or atomic takes a precise access fault and yields all ones; a
store's failure raises the MSF interrupt to the hart. -/
def State.ctlFail (s : State) (h : Fin 8) (mop : Nat) : State :=
  if mop = mopStore then { s with fab := { s.fab with msfIrq := s.fab.msfIrq ||| (1#8 <<< h.val) } }
  else { s with fab := { s.fab with ctlResult := 2 ^ 64 - 1, ctlFault := s.fab.ctlFault ||| (1#8 <<< h.val) } }

/-- A failed remote access as its issuer sees it (R293). -/
def State.msfFail (s : State) (ag : Agent) (mop status : Nat) : State :=
  match ag with
  | .core t _ _ => s.failCmd t.val status
  | .control h => s.ctlFail h mop
  | .dma _ _ | .tileDma _ _ => s.dmaFail ag Stat.remoteFault 0
  | .commit => s

/-- A deferred operation of a commit failed: the rest of that commit to that destination are not issued, and the
event names tag, destination and their number (R293). -/
def State.deferLost (s : State) (tag tenant dest : Nat) : State :=
  let lost := s.fab.commitOps.filter (fun o => o.tag = tag && wnDest (s.window o.addr) = dest)
  let s := { s with fab := { s.fab with commitOps := s.fab.commitOps.filter (fun o => !(o.tag = tag && wnDest (s.window o.addr) = dest)) } }
  s.tenantEvent tenant 0x08 tag 0 dest lost.length

/-- An outstanding write to a peer left on another link than its present MSF_LINK: new requests wait (R300). -/
def State.linkMoving (s : State) (dest : Nat) : Bool :=
  let lk := peerMsfLink (s.peer dest)
  [0, 1].any (fun d => (s.lnd d).txn.any (fun e => e.2.ag.isSome && e.2.dest = dest && mopWrites e.2.mop && e.2.link ≠ lk))

/-- A request leaves the MSF in a free slot (R290, R292, R298); it waits at its issuer while none is free. `data` is
the operand or the burst's bytes. The slot is given. -/
def State.msfSend (s : State) (ag : Agent) (addr n mop : Nat) (data : List Byte) : State × Option Nat :=
  let die := apDie addr
  let w := s.window addr
  let dest := wnDest w
  if s.linkMoving dest then (s, none)
  else match firstBelow 4096 (fun i => match Tbl.find? (s.lnd die).txn i with
      | some t => t.ag.isNone && t.retired.isNone
      | none => true) with
  | none => (s, none)
  | some i =>
    let old := Tbl.getD (s.lnd die).txn i {}
    let gen := (old.gen + 1) % 16
    let anch := wnFlag w 3
    let off := bits w 0 40 + apOffset addr
    let body := fld w 0x10 4 + fld w 0x14 2 * 2 ^ 32 + mop * 2 ^ 48 + b2n anch * 2 ^ 56 + (i + gen * 2 ^ 12) * 2 ^ 64
      + off % 2 ^ 40 * 2 ^ 80 + s.agentCode ag * 2 ^ 120
    let lk := peerMsfLink (s.peer dest)
    let burst := mop = mopReadBurst || mop = mopWriteBurst
    let p := mkPkt 0x04 (if anch then 1 else 5) (if burst then n - 1 else 0) s.fid dest s.cmap.cur body data
    let t : Txn := { gen := gen, ag := some ag, agent := s.agentCode ag, mop := mop, addr := addr, len := n, dest := dest, link := lk,
                     tenant := wnTenant w, anchored := anch, sent := s.ltu, retired := none }
    let s := s.updLnd die (fun d => { d with txn := Tbl.put d.txn i t })
    (s.enq lk { p := p, tenant := some (wnTenant w) }, some i)

/-- An access to the aperture: checked under R285, then sent, or failed at once. The slot is given when it is sent. -/
def State.msfIssue (s : State) (ag : Agent) (addr n mop : Nat) (data : List Byte) : State × Option Nat :=
  match s.windowCheck ag addr n mop with
  | none => s.msfSend ag addr n mop data
  | some (st, cause) =>
    let w := s.window addr
    let s := if crcOk w 32 then s else (s.tableCheck (5 + apDie addr)).raise (0x180 + 0x60 * apDie addr + 0x16)
    ((s.msfFault (apDie addr) cause (wnDest w) (s.agentCode ag) addr).msfFail ag mop st, none)

/-- The commit unit's next operation: it fails under R293, or is sent. -/
def State.commitIssue (s : State) (addr mop v : Nat) : State :=
  match s.fab.commitOps with
  | [] => s
  | o :: rest =>
    if o.addr ≠ addr || o.mop ≠ mop || o.val ≠ v then s
    else
      let failed := s.windowCheck .commit addr 8 mop
      let r := s.msfIssue .commit addr 8 mop (toBytes 32 v)
      match failed, r.2 with
      | some _, _ => ({ r.1 with fab := { r.1.fab with commitOps := rest } }).deferLost o.tag o.tenant (wnDest (s.window addr))
      | none, some i =>
        let s := { r.1 with fab := { r.1.fab with commitOps := rest } }
        s.updLnd (apDie addr) (fun d => { d with txn := Tbl.upd d.txn i {} (fun t => { t with agent := t.agent + o.tag * 2 ^ 32 + o.tenant * 2 ^ 48 }) })
      | none, none => s

/-- A control core's operation on the aperture (R294). -/
def State.controlIssue (s : State) (h : Fin 8) (addr mop : Nat) (data : List Byte) : State :=
  if addr % 8 ≠ 0 then s
  else ({ s with fab := { s.fab with ctlFault := s.fab.ctlFault &&& ~~~(1#8 <<< h.val) } }.msfIssue (.control h) addr 8 mop data).1

/-- An aperture address (R65). -/
def inAperture (a : Nat) : Bool := decide (0x800000000000 ≤ a) && decide (a < 0x1000000000000)

/-- MSF_LOAD (R289, R294): a thread's load that waits for its MSF, or a control core's. -/
def execMsfLoad (ag : Agent) (addr : Nat) (s : State) : Host.Outcome State Fault Refusal :=
  if !s.live || !(inAperture addr) then .next s
  else match ag with
    | .control h => .next (s.controlIssue h addr mopLoad [])
    | .core t th rd =>
      match (s.cmd? t.val).bind (fun c => c.thread? th.val) with
      | some h =>
        match h.wait with
        | some (.issue a acc) =>
          if a ≠ addr || acc.rd ≠ rd then .next s
          else
            let r := s.msfIssue ag (addr / 8 * 8) 8 mopLoad []
            match r.2 with
            | some i => .next (r.1.updThread t.val th.val (fun x => { x with wait := some (.remote (apDie addr) i (addr % 8) acc) }))
            | none => .next r.1
        | _ => .next s
      | none => .next s
    | _ => .next s

/-- MSF_STORE (R289): a deferred store of a committed command, or a control core's. -/
def execMsfStore (ag : Agent) (addr : Nat) (v : BitVec 64) (s : State) : Host.Outcome State Fault Refusal :=
  if !s.live || !(inAperture addr) then .next s
  else match ag with
    | .control h => .next (s.controlIssue h addr mopStore (toBytes 32 v.toNat))
    | .commit => .next (s.commitIssue addr mopStore v.toNat)
    | _ => .next s

/-- MSF_ADD (R289). -/
def execMsfAdd (ag : Agent) (addr : Nat) (v : BitVec 64) (s : State) : Host.Outcome State Fault Refusal :=
  if !s.live || !(inAperture addr) then .next s
  else match ag with
    | .control h => .next (s.controlIssue h addr mopAdd (toBytes 32 v.toNat))
    | .commit => .next (s.commitIssue addr mopAdd v.toNat)
    | _ => .next s

/-- MSF_SWAP (R289). -/
def execMsfSwap (ag : Agent) (addr : Nat) (v : BitVec 64) (s : State) : Host.Outcome State Fault Refusal :=
  if !s.live || !(inAperture addr) then .next s
  else match ag with
    | .control h => .next (s.controlIssue h addr mopSwap (toBytes 32 v.toNat))
    | .commit => .next (s.commitIssue addr mopSwap v.toNat)
    | _ => .next s

/-- MSF_CAS (R289, R294): only control cores issue it. -/
def execMsfCas (ag : Agent) (addr : Nat) (cmp new : BitVec 64) (s : State) : Host.Outcome State Fault Refusal :=
  if !s.live || !(inAperture addr) then .next s
  else match ag with
    | .control h => .next (s.controlIssue h addr mopCas (toBytes 8 cmp.toNat ++ toBytes 24 new.toNat))
    | _ => .next s

/-- The channel of its die's engine that a tile's DMA operation uses (R213, R217). -/
def State.tileDch (s : State) (t h : Nat) : Nat :=
  2 * localOfTile t + (match (s.cmd? t).bind (fun c => c.op? h) with
    | some o => bits (fld o.desc 0x34 1) 1 1
    | none => 0)

/-- A DMA burst that waits to be issued (R215, R294). -/
def State.burst? (s : State) (ag : Agent) (addr len : Nat) (write : Bool) : Option Burst :=
  s.fab.bursts.find? (fun b => b.ag = ag && b.addr = addr && b.len = len && b.write = write && !b.issued)

/-- A burst is issued (R289): at most 256 bytes, within 256 bytes of region offset. -/
def State.burstIssue (s : State) (ag : Agent) (addr len : Nat) (write : Bool) : State :=
  match s.burst? ag addr len write with
  | none => s
  | some b =>
    if write && b.data.isNone && (s.heldChan b.loc len).isSome then s
    else
      let r := s.msfIssue ag addr len (if write then mopWriteBurst else mopReadBurst) (if write then b.data.getD (s.bytes b.loc len) else [])
      match r.2 with
      | none => r.1
      | some _ =>
        let s := { r.1 with fab := { r.1.fab with bursts := r.1.fab.bursts.map (fun x => if x = b then { x with issued := true } else x) } }
        match s.chanOfAgent ag with
        | some (e, c) => s.updDch e c (fun x => { x with bursts := satAdd 32 x.bursts 1 })
        | none => s

/-- READ_BURST (R289, R294): RING and TILE channels. -/
def execReadBurst (ag : Agent) (addr : Nat) (len : Nat) (s : State) : Host.Outcome State Fault Refusal :=
  if !s.live then .next s else .next (s.burstIssue ag addr len false)

/-- WRITE_BURST (R289, R294): RING channels only, since a command writes no remote memory before its commit (R111). -/
def execWriteBurst (ag : Agent) (addr : Nat) (len : Nat) (s : State) : Host.Outcome State Fault Refusal :=
  if !s.live then .next s else .next (s.burstIssue ag addr len true)

/-! ## Receiving (R289, R291, R295) -/

def mqKey (p : Pkt) : Nat := fld p.h 0x0C 4
def mqRegion (p : Pkt) : Nat := fld p.h 0x10 2
def mqMop (p : Pkt) : Nat := fld p.h 0x12 1
def mqAnchored (p : Pkt) : Bool := bit (fld p.h 0x13 1) 0
def mqTxn (p : Pkt) : Nat := fld p.h 0x14 2
def mqOffset (p : Pkt) : Nat := fld p.h 0x16 5
def mqAgent (p : Pkt) : Nat := fld p.h 0x1B 3
def mqLen (p : Pkt) : Nat := if mqMop p = mopReadBurst || mqMop p = mopWriteBurst then p.blen + 1 else 8

/-- The target address of a request. -/
def State.mqAddr (s : State) (p : Pkt) : Nat := rgBase (s.region (mqRegion p)) + mqOffset p

/-- Answer a request, on the link that carries this device's MSF traffic to the peer, else the one that reaches it
(R286, R290). A response whose RSTATUS is not OK carries no data. -/
def State.msfRespond (s : State) (die : Nat) (p : Pkt) (st : Nat) (data : List Byte) : State :=
  let s := if st = 0 then s else s.updLnd die (fun d => { d with refusedIn := satAdd 32 d.refusedIn 1 })
  let e := s.peer p.src
  let lk := if e ≠ 0 then some (peerMsfLink e) else firstBelow 36 (fun k => (s.link k).carries && (s.link k).partnerId = p.src)
  match lk with
  | none => s
  | some lk =>
    let body := mqTxn p + st * 2 ^ 16 + mqMop p * 2 ^ 24
    let tn := if st = 0x09 || st = 0x03 then none else some (rgTenant (s.region (mqRegion p)))
    let blen := if st = 0 && mqMop p = mopReadBurst then mqLen p - 1 else 0
    s.enq lk { p := mkPkt 0x05 p.queue blen s.fid p.src s.cmap.cur body (if st = 0 then data else []), tenant := tn }

/-- The region is a tile window (R289). -/
def isT0 (a : Nat) : Bool :=
  match regionOf a with
  | .tileWin _ _ => true
  | _ => false

/-- Kind of access of an operation. -/
def mopAcc (m : Nat) : Acc := if mopAtomic m then .atomic else if mopWrites m then .write else .read

/-- What the map says of a request's access (R71 to R73, R107, R109). -/
def State.mqStatus (s : State) (die : Nat) (p : Pkt) : Nat :=
  s.keyedStatus die (rgTenant (s.region (mqRegion p))) (mopAcc (mqMop p)) (s.mqAddr p) (mqLen p)

/-- R291 but for the map: the RSTATUS of the first check a request fails, 0 when none does. -/
def State.mqCheck (s : State) (p : Pkt) : Nat :=
  let m := mqMop p
  let n := mqLen p
  let a := s.mqAddr p
  if !(s.peerActive p.src) then 0x09
  else
    let st := s.regionCheck (mqRegion p) (mqKey p) (mqOffset p) n 3 (m = mopStore || m = mopWriteBurst) (mopAtomic m) (some (mqAnchored p))
    if st ≠ 0 then st
    else if m = 0 || 7 < m || ((m = mopAdd || m = mopCas) && isT0 a) then 0x06
    else if m ≤ mopCas && a % 8 ≠ 0 then 0x06
    else if mopCas < m && 256 < mqOffset p % 256 + n then 0x06
    else 0

/-- R291: the RSTATUS of the first check a request fails, 0 when it may be performed. -/
def State.msfReqStatus (s : State) (die : Nat) (p : Pkt) : Nat :=
  if s.mqCheck p ≠ 0 then s.mqCheck p else inboundStatus (s.mqStatus die p)

/-- Perform a request whose checks have passed and answer it; poisoned reads, and accesses that the hold watchdog
completed, are answered with POISONED (R170, R289, R291). -/
def State.msfPerform (s : State) (die : Nat) (p : Pkt) (poison : Bool) : State :=
  let m := mqMop p
  let n := mqLen p
  let a := s.mqAddr p
  let tn := rgTenant (s.region (mqRegion p))
  let op := ofBytes (p.data.take 8)
  let old := s.rd a 8
  if poison then s.msfRespond die p 0x07 []
  else
    let s := if mopWrites m then ((s.countTier tn a n true).countRx tn p.via (32 * p.flits)) else s.countTier tn a n false
    let flit := toBytes 32 old
    if m = mopLoad then s.msfRespond die p 0 flit
    else if m = mopStore then (s.placeBytes a (toBytes 8 op)).msfRespond die p 0 []
    else if m = mopAdd then (s.placeBytes a (toBytes 8 (wrap64 (old + op)))).msfRespond die p 0 flit
    else if m = mopSwap then (s.placeBytes a (toBytes 8 op)).msfRespond die p 0 flit
    else if m = mopCas then
      (if old = op then s.placeBytes a ((p.data.drop 8).take 8) else s).msfRespond die p 0 flit
    else if m = mopReadBurst then s.msfRespond die p 0 (s.bytes a n)
    else (s.placeBytes a (p.data.take n)).msfRespond die p 0 []

/-- A write of the same source (R295). -/
def sameSource (p q : Pkt) : Bool := q.src = p.src && mqAgent q = mqAgent p && mopWrites (mqMop q)

/-- A source's write that has not been performed, but for those in the queue of channel `ch`, which keeps their order
(R169, R295). -/
def State.earlierHeld (s : State) (p : Pkt) (ch : Option Nat) : Bool :=
  [0, 1].any (fun d => (s.lnd d).msfIn.any (sameSource p)) ||
  s.chans.any (fun e => ch ≠ some e.1 && e.2.hold.any (fun h => match h.acc.who with
    | .msf _ q => sameSource p q
    | _ => false))

/-- A checked request reaches its memory: held with its channel, behind an earlier write of its source, or performed. -/
def State.msfReach (s : State) (die : Nat) (p : Pkt) (poison : Bool) : State :=
  let a := s.mqAddr p
  if mopWrites (mqMop p) && s.earlierHeld p (s.heldChan a (mqLen p)) then s.updLnd die (fun d => { d with msfIn := d.msfIn ++ [p] })
  else match s.heldChan a (mqLen p) with
    | some ch => s.holdAcc ch ⟨.fabric die, mopWrites (mqMop p), chanOff a, mqLen p, [], .msf ⟨die % 2, Nat.mod_lt _ (by decide)⟩ p⟩
    | none => s.msfPerform die p poison

/-- Requests that waited behind an earlier write of their source go on, in order (R295). -/
def State.msfRelease (s : State) : State :=
  [0, 1].foldl (fun s die =>
    let ps := (s.lnd die).msfIn
    let s := s.updLnd die (fun d => { d with msfIn := [] })
    ps.foldl (fun s p => s.msfReach die p false) s) s

/-- MSF_REQUEST_RECEIVE (R291): the first check that fails is answered, and no access is performed. -/
def execMsfRequestReceive (die : Fin 2) (p : Pkt) (poison : Bool) (s : State) : Host.Outcome State Fault Refusal :=
  if !s.live || p.ptype ≠ 4 then .next s
  else
    let p := (s.arrive p).2
    let s := (s.takeRx p).1
    let st := s.msfReqStatus die.val p
    let s := if st = 0x03 then s.regionCrc die.val (mqRegion p) else s
    let s := if s.mqCheck p = 0 && st ≠ 0 then s.violateAt (.fabric die.val) (s.mqAddr p) else s
    if st ≠ 0 then .next (s.msfRespond die.val p st []) else .next (s.msfReach die.val p poison)

/-! ## Responses, timeouts, ABANDON (R292, R293, R298, R299) -/

/-- The bytes a read burst brought: stored, or on their way to a remote destination while the transfer goes on (R215,
R220). -/
def State.burstData (s : State) (ag : Agent) (b : Burst) (bs : List Byte) : State :=
  match b.fwd, s.chanOfAgent ag with
  | some a, some (e, c) =>
    if (s.dch e c).xfer.any (fun f => f.status = Stat.ok) then
      { s with fab := { s.fab with bursts := s.fab.bursts ++ [{ ag := ag, addr := a, len := b.used, loc := a, write := true, used := b.used, pos := b.pos, data := some bs }] } }
    else s.updDch e c (fun k => { k with xfer := k.xfer.map (fun f => { f with cap := Nat.min f.cap b.pos }) })
  | _, _ => s.placeBytes b.loc bs

/-- An outstanding request ends: its slot is free again, its issuer has its result, or its failure (R293). -/
def State.msfEnd (s : State) (die slot : Nat) (t : Txn) (ag : Agent) (st : Nat) (data : List Byte) (retire : Bool) : State :=
  let s := s.updLnd die (fun d =>
    { d with txn := Tbl.put d.txn slot { t with ag := none, retired := if retire then some s.ltu else none } })
  let done := s.fab.bursts.find? (fun b => b.ag = ag && b.addr = t.addr && b.len = t.len && b.issued)
  let s := match done with
    | some b => { s with fab := { s.fab with bursts := s.fab.bursts.erase b } }
    | none => s
  if st ≠ 0 then
    let s := s.msfFault die st t.dest (t.agent % 2 ^ 24) t.addr
    match ag with
    | .commit => s.deferLost (bits t.agent 32 10) (bits t.agent 48 16) t.dest
    | .dma _ _ | .tileDma _ _ => s.dmaFail ag Stat.remoteFault ((done.map (fun b => b.pos + 1)).getD 0)
    | _ => s.msfFail ag t.mop Stat.remoteFault
  else
    let v := ofBytes (data.take 8)
    match ag with
    | .control _ => if t.mop = mopStore then s else { s with fab := { s.fab with ctlResult := v } }
    | .commit => s
    | .core tl th _ =>
      match (s.cmd? tl.val).bind (fun c => c.thread? th.val) with
      | some h => match h.wait with
        | some (.remote d k lane acc) =>
          if d = die && k = slot then
            (s.updThread tl.val th.val (fun x => { x.loaded acc (v >>> (8 * lane)) with wait := none })).updCmd tl.val TileCmd.wake
          else s
        | _ => s
      | none => s
    | _ =>
      match done with
      | none => s
      | some b => if b.write then s else s.burstData ag b ((data.drop b.skip).take b.used)

/-- MSF_RESPONSE_RECEIVE (R298): matched to its slot and generation, or discarded as late. -/
def execMsfResponseReceive (die : Fin 2) (p : Pkt) (s : State) : Host.Outcome State Fault Refusal :=
  if !s.live || p.ptype ≠ 5 then .next s
  else
    let p := (s.arrive p).2
    let s := (s.takeRx p).1
    let x := bits p.h 96 16
    let slot := bits x 0 12
    let st := fld p.h 0x0E 1
    let t := Tbl.getD (s.lnd die.val).txn slot {}
    match t.ag with
    | none => .next (s.updLnd die.val (fun d => { d with lateResp := satAdd 32 d.lateResp 1 }))
    | some ag =>
      if t.gen ≠ bits x 12 4 then .next (s.updLnd die.val (fun d => { d with lateResp := satAdd 32 d.lateResp 1 }))
      else
        let s := if st = 0 then s else s.updLnd die.val (fun d => { d with refusedOut := satAdd 32 d.refusedOut 1 })
        let s := if p.data.isEmpty then s else s.countRx t.tenant p.via (32 * p.flits)
        .next (s.msfEnd die.val slot t ag st p.data false)

/-- MSF_TIMEOUT (R292): no response within TIMEOUT_US; requests to anchored windows never time out. -/
def execMsfTimeout (die : Fin 2) (slot : Fin 4096) (s : State) : Host.Outcome State Fault Refusal :=
  let t := Tbl.getD (s.lnd die.val).txn slot.val {}
  match t.ag with
  | none => .next s
  | some ag =>
    if !s.live || t.anchored || s.ltu ≤ t.sent + 100 * (s.lnd die.val).timeoutUs then .next s
    else
      let s := s.updLnd die.val (fun d => { d with timeouts := satAdd 32 d.timeouts 1 })
      .next (s.msfEnd die.val slot.val t ag 0x10 [] true)

/-- TXN_SLOT_REISSUE (R298): another TIMEOUT_US after its timeout, the slot is free. -/
def execTxnSlotReissue (die : Fin 2) (slot : Fin 4096) (s : State) : Host.Outcome State Fault Refusal :=
  let t := Tbl.getD (s.lnd die.val).txn slot.val {}
  match t.retired with
  | none => .next s
  | some r =>
    if !s.live || s.ltu ≤ r + 100 * (s.lnd die.val).timeoutUs then .next s
    else .next (s.updLnd die.val (fun d => { d with txn := Tbl.put d.txn slot.val { t with retired := none } }))

/-- MSF_ABANDON (R299, R300): every outstanding request to a destination completes with ABANDONED. -/
def execMsfAbandon (die : Fin 2) (dest : BitVec 12) (s : State) : Host.Outcome State Fault Refusal :=
  if !s.live || dest.toNat = 0 then .next s
  else .next ((Tbl.keys (s.lnd die.val).txn).foldl (fun s i =>
    let t := Tbl.getD (s.lnd die.val).txn i {}
    match t.ag with
    | some ag => if t.dest = dest.toNat then s.msfEnd die.val i t ag 0x12 [] false else s
    | none => s) s)

/-- MSF_CFG_WRITE (R302): a value outside 10 to 100,000 is ignored. -/
def execMsfCfgWrite (die : Fin 2) (v : BitVec 32) (s : State) : Host.Outcome State Fault Refusal :=
  let t := bits v.toNat 0 17
  if !s.live || t < 10 || 100000 < t then .next s else .next (s.updLnd die.val (fun d => { d with timeoutUs := t }))

/-- MSF_CNT_CLR (R302). -/
def execMsfCntClr (die : Fin 2) (s : State) : Host.Outcome State Fault Refusal :=
  if !s.live then .next s
  else .next (s.updLnd die.val (fun d => { d with timeouts := 0, lateResp := 0, refusedOut := 0, refusedIn := 0 }))

end Sys2Proof.Machine
end

