-- ==== Sys2Proof/Machine/Hello.lean ====
section
/-!
DEFINITION. Sys2Proof/Machine/Hello.lean: agreement between devices: HELLO, the tables of the MSF, management
messages (R270, R273 to R277, R302, R303).
-/
namespace Sys2Proof.Machine

/-- A link's agreed state: at once, or what a retrain returns to (R273, R277). -/
def Link.agree (l : Link) (verdict : Nat) : Link :=
  let st := if verdict = 0 then LinkState.active else .managementOnly
  let l := { l with mismatch := if verdict = 0 then l.mismatch else verdict }
  match l.prev with
  | some _ => { l with prev := some st }
  | none => { l with state := st }

/-- R275 judges the record of peer `f` against this device's, on a link; the peer entry, and the link when the peer is its
partner, are set to match. A peer that turns MANAGEMENT_ONLY takes its connections into ERROR (R276). -/
def State.judge (s : State) (lk f r : Nat) : State :=
  let own := s.helloOut lk
  let v := helloVerdict own r (s.peer (helloFid r))
  let l := s.link lk
  let s := if l.partnerSwitch then s
    else s.updLink lk (fun l => { l.agree v with partnerId := f, partnerUid := fld r 0 8, helloRec := some r, helloAt := none, helloTries := 0 })
  if f = 0 then s
  else
    let was := s.peerActive f
    let e := s.peer f
    let s := s.setPeer f (if v = 0 || v = 3 || v = 4 || v = 5 || v = 6 then peerLearn e r v else peerMark e 2 v)
    let s := { s with fab := { s.fab with helloRec := Tbl.put s.fab.helloRec f r, helloPeer := Tbl.del s.fab.helloPeer f } }
    if was && v ≠ 0 then s.peerConnsError f else s

/-- The link carries HELLO packets: after step 2 of its bring-up. -/
def State.helloOn (s : State) (lk : Nat) : Bool := s.live && (s.link lk).carries

/-- The received HELLO's room is freed. -/
def State.takeHello (s : State) (src kind : Nat) : State :=
  (s.takeRxLike (fun p => p.ptype = 2 && p.src = src && fld p.h 0x0C 1 = kind)).1

/-- The record is the last HELLO record received from that peer (R277). -/
def State.keepHello (s : State) (lk f r : Nat) : State :=
  let s := if (s.link lk).partnerSwitch then s else s.updLink lk (fun l => { l with helloRec := some r })
  if f = 0 then s else { s with fab := { s.fab with helloRec := Tbl.put s.fab.helloRec f r } }

/-- HELLO_REQUEST (R274, R277): answered with a REPLY carrying the local record. -/
def execHelloRequest (lk : Fin 36) (src : BitVec 12) (r : BitVec 768) (s : State) : Host.Outcome State Fault Refusal :=
  if !(s.helloOn lk.val) then .next s
  else .next (((s.takeHello src.toNat 1).keepHello lk.val src.toNat r.toNat).sendHello lk.val src.toNat 2)

/-- A HELLO REQUEST waits for a REPLY: the link's own, or one to a peer behind its switch (R273). -/
def State.helloAwaited (s : State) (lk f : Nat) : Bool :=
  if (s.link lk).partnerSwitch then (Tbl.find? s.fab.helloPeer f).isSome else (s.link lk).helloAt.isSome

/-- HELLO_REPLY (R273, R275): the peer becomes ACTIVE or MANAGEMENT_ONLY. One that nothing waits for any more is discarded,
and the MSF counts it (R282). -/
def execHelloReply (lk : Fin 36) (src : BitVec 12) (r : BitVec 768) (s : State) : Host.Outcome State Fault Refusal :=
  if !(s.helloOn lk.val) then .next s
  else
    let u := s.takeHello src.toNat 2
    if s.helloAwaited lk.val src.toNat then .next (u.judge lk.val src.toNat r.toNat)
    else .next (u.updLnd (dieOfLink lk.val) (fun d => { d with lateResp := satAdd 32 d.lateResp 1 }))

/-- HELLO_UPDATE (R277): the peer is judged again. -/
def execHelloUpdate (lk : Fin 36) (src : BitVec 12) (r : BitVec 768) (s : State) : Host.Outcome State Fault Refusal :=
  if !(s.helloOn lk.val) then .next s else .next ((s.takeHello src.toNat 3).judge lk.val src.toNat r.toNat)

/-- HELLO_TIMEOUT (R273): 10 ms without a REPLY: the HELLO is sent again, three times in all; then the link is
MANAGEMENT_ONLY with MISMATCH 0x7, or the peer UNREACHABLE. -/
def execHelloTimeout (t : HelloTarget) (s : State) : Host.Outcome State Fault Refusal :=
  match t with
  | .link lk =>
    let l := s.link lk.val
    match l.helloAt with
    | none => .next s
    | some at_ =>
      if !s.live || !l.carries || s.ltu ≤ at_ + 1000000 then .next s
      else if l.helloTries < 3 then
        .next ((s.sendHello lk.val 0 1).updLink lk.val (fun l => { l with helloTries := l.helloTries + 1, helloAt := some s.ltu }))
      else .next (s.updLink lk.val (fun l => { l.agree 7 with helloAt := none, helloTries := 0 }))
  | .peer f =>
    match Tbl.find? s.fab.helloPeer f.toNat with
    | none => .next s
    | some (n, at_) =>
      let e := s.peer f.toNat
      if !s.live || s.ltu ≤ at_ + 1000000 then .next s
      else match decide (n < 3), lowestLink e with
        | true, some lk =>
          let s := s.sendHello lk f.toNat 1
          .next { s with fab := { s.fab with helloPeer := Tbl.put s.fab.helloPeer f.toNat (n + 1, s.ltu) } }
        | _, _ =>
          let s := s.setPeer f.toNat (peerMark e 3 (fld e 0x12 1))
          .next { s with fab := { s.fab with helloPeer := Tbl.del s.fab.helloPeer f.toNat } }

/-- HELLO UPDATE to one peer on a link, and its last record judged again (R277). -/
def State.updatePeer (s : State) (lk f : Nat) (last : Option Nat) : State :=
  let s := s.sendHello lk f 3
  match last with
  | some r => s.judge lk f r
  | none => s

/-- HELLO UPDATE on one link: to its partner, or to the peers behind a switch that are not UNREACHABLE and whose lowest link
it is (R273, R277). -/
def State.updateOn (s : State) (lk : Nat) : State :=
  let l := s.link lk
  if !(l.carries || l.prev.isSome) then s
  else if !l.partnerSwitch then s.updatePeer lk l.partnerId l.helloRec
  else (Tbl.keys s.fab.peers).foldl (fun (s : State) f =>
    if lowestLink (s.peer f) = some lk && peerState (s.peer f) ≠ 3 then s.updatePeer lk f (Tbl.find? s.fab.helloRec f) else s) s

/-- R277: HELLO UPDATE goes to every peer that is not UNREACHABLE, and each is judged again by its last record. -/
def State.helloUpdateAll (s : State) : State := (List.range 36).foldl State.updateOn s

/-- LINK_CTRL_HELLO (R277, R301): the exchange is forced on this link. -/
def execLinkCtrlHello (lk : Fin 36) (s : State) : Host.Outcome State Fault Refusal :=
  if !s.live || !(s.link lk.val).carries then .next s else .next (s.updateOn lk.val)

/-- MGMT_MESSAGE (R270, R271): a firmware-to-firmware message is received and kept for firmware; one whose CRC-32C fails is
discarded. The kinds that have an effect on the machine are steps of their own (R279). -/
def execMgmtMessage (lk : Fin 36) (src : BitVec 12) (msg : List Byte) (crc : BitVec 32) (s : State) : Host.Outcome State Fault Refusal :=
  if !(s.helloOn lk.val) then .next s
  else
    let r := s.takeRxLike (fun p => p.ptype = 3 && p.src = src.toNat)
    if crc32c msg ≠ crc.toNat then .next r.1
    else .next { r.1 with fab := { r.1.fab with mgmtIn := r.1.fab.mgmtIn ++ [(src.toNat, msg)] } }

/-! ## Tables of the MSF (R302, R303) -/

def State.tblDone (s : State) (d : Nat) : State := s.updLnd d (fun x => { x with tblDone := true })
def State.tblReject (s : State) (d : Nat) : State := s.updLnd d (fun x => { x with tblReject := true })

/-- MSF_TBL_READ (R302): an entry is read into TBL_DATA. -/
def execMsfTblRead (die : Fin 2) (table : Fin 4) (idx : BitVec 14) (s : State) : Host.Outcome State Fault Refusal :=
  let i := idx.toNat
  let v := match table.val with
    | 0 => if i < 2048 then some (Tbl.getD (s.lnd die.val).windows i 0) else none
    | 1 => some (s.region i)
    | 2 => if i < 4096 then some (s.peer i) else none
    | _ => if i < 3 then some (bits s.fab.local_ (256 * i) 256) else none
  if !s.live then .next s
  else match v with
    | none => .next (s.tblReject die.val)
    | some v => .next ((s.updLnd die.val (fun d => { d with tblData := v })).tblDone die.val)

/-- A peer behind a switch is sent a HELLO when firmware writes its entry with a LINK_SET that is not empty; while the link
has not come up, when its partner turns out to be a switch (R273; log 84). -/
def State.greetPeer (s : State) (f : Nat) : State :=
  match lowestLink (s.peer f) with
  | none => s
  | some lk =>
    if !(s.link lk).partnerSwitch then s else s.greet lk f

/-- MSF_TBL_WRITE (R302): WINDOW applies to the die written; REGION, PEER and LOCAL go through LD0 to both dies. -/
def execMsfTblWrite (die : Fin 2) (table : Fin 4) (idx : BitVec 14) (s : State) : Host.Outcome State Fault Refusal :=
  let i := idx.toNat
  let v := (s.lnd die.val).tblData
  if !s.live then .next s
  else match table.val with
    | 0 =>
      if 2048 ≤ i then .next (s.tblReject die.val)
      else .next ((s.updLnd die.val (fun d => { d with windows := Tbl.put d.windows i v })).tblDone die.val)
    | 1 => if die.val = 1 then .next (s.tblReject 1) else .next ((s.setRegion i v).tblDone 0)
    | 2 =>
      if die.val = 1 || 4096 ≤ i then .next (s.tblReject die.val)
      else .next (((s.setPeer i v).greetPeer i).tblDone 0)
    | _ =>
      if die.val = 1 || 3 ≤ i then .next (s.tblReject die.val)
      else .next ({ s with fab := { s.fab with local_ := setBits s.fab.local_ (256 * i) 256 v } }.tblDone 0)

end Sys2Proof.Machine
end

