-- ==== Sys2Proof/Machine/Numeric.lean ====
section
/-!
DEFINITION. Sys2Proof/Machine/Numeric.lean: the number formats of R85 to R89, exact arithmetic on the values they
hold, and the functions of the vector unit with the accuracy R97 states.

A value is held exactly as a sign, a natural significand and a power of two, so no corner hides in the middle: every
operation computes exactly and one function rounds.
-/
namespace Sys2Proof.Machine

/-- A value of a floating-point format: (-1)^neg x m x 2^e, an infinity or a NaN. -/
inductive Num where
  | fin (neg : Bool) (m : Nat) (e : Int)
  | inf (neg : Bool)
  | nan
  deriving DecidableEq, Repr

/-- The positive zero. -/
def Num.zero : Num := .fin false 0 0

/-- A natural or integer as a value. -/
def Num.ofInt (i : Int) : Num := .fin (decide (i < 0)) i.natAbs 0

def Num.isNan : Num → Bool
  | .nan => true
  | _ => false

def Num.isZero : Num → Bool
  | .fin _ m _ => m == 0
  | _ => false

def Num.neg : Num → Num
  | .fin s m e => .fin (!s) m e
  | .inf s => .inf (!s)
  | .nan => .nan

def Num.abs : Num → Num
  | .fin _ m e => .fin false m e
  | .inf _ => .inf false
  | .nan => .nan

/-- The signed significand of a finite value at exponent `q`, which is not above its own. -/
def scaled (s : Bool) (m : Nat) (e q : Int) : Int :=
  let v : Int := ((m <<< (e - q).toNat : Nat) : Int)
  if s then -v else v

/-- Exact sum. Zero signs are those of round-to-nearest: -0 only from two negative zeros. -/
def Num.add : Num → Num → Num
  | .nan, _ => .nan
  | _, .nan => .nan
  | .inf a, .inf b => if a == b then .inf a else .nan
  | .inf a, _ => .inf a
  | _, .inf b => .inf b
  | .fin s m e, .fin t n f =>
    if m == 0 && n == 0 then .fin (s && t) 0 0
    else
      let q := min e f
      let v := scaled s m e q + scaled t n f q
      .fin (decide (v < 0)) v.natAbs q

def Num.sub (a b : Num) : Num := a.add b.neg

/-- Exact product. -/
def Num.mul : Num → Num → Num
  | .nan, _ => .nan
  | _, .nan => .nan
  | .inf a, .inf b => .inf (a ^^ b)
  | .inf a, .fin t n _ => if n == 0 then .nan else .inf (a ^^ t)
  | .fin s m _, .inf b => if m == 0 then .nan else .inf (s ^^ b)
  | .fin s m e, .fin t n f => .fin (s ^^ t) (m * n) (e + f)

/-- a < b on values that are not NaN. -/
def Num.lt : Num → Num → Bool
  | .nan, _ => false
  | _, .nan => false
  | .inf a, .inf b => a && !b
  | .inf a, _ => a
  | _, .inf b => !b
  | .fin s m e, .fin t n f =>
    let q := min e f
    decide (scaled s m e q < scaled t n f q)

def Num.le (a b : Num) : Bool := !a.isNan && !b.isNan && !(b.lt a)

/-- Equal as numbers. -/
def Num.eqv (a b : Num) : Bool := a.le b && b.le a

/-- The greater of two values; a NaN beside a number gives what `Config.maxNan` leaves open (log 7). -/
def Num.max (a b : Num) : Num :=
  if a.isNan then (if Config.maxNan then .nan else b)
  else if b.isNan then (if Config.maxNan then .nan else a)
  else if a.lt b then b else a

def Num.min (a b : Num) : Num :=
  if a.isNan then (if Config.maxNan then .nan else b)
  else if b.isNan then (if Config.maxNan then .nan else a)
  else if b.lt a then b else a

/-- m x 2^k rounded to the nearest integer, ties to even. -/
def rneShift (m : Nat) (k : Int) : Nat :=
  if 0 ≤ k then m <<< k.toNat
  else
    let d := (-k).toNat
    let q := m >>> d
    let r := m % 2 ^ d
    let half := 2 ^ (d - 1)
    if half < r || (r == half && q % 2 == 1) then q + 1 else q

/-- A floating-point element format (R85): exponent and mantissa widths, bias, largest finite code, and whether the
top exponent holds infinities and NaNs as in IEEE 754, or one NaN as in E4M3. -/
structure FFmt where
  eb : Nat
  mb : Nat
  bias : Int
  maxCode : Nat
  ieee : Bool
  topNan : Bool
  deriving DecidableEq, Repr

def fE4M3 : FFmt := ⟨4, 3, 7, 0x7E, false, true⟩
def fE5M2 : FFmt := ⟨5, 2, 15, 0x7B, true, false⟩
def fE2M3 : FFmt := ⟨2, 3, 1, 0x1F, false, false⟩
def fE3M2 : FFmt := ⟨3, 2, 3, 0x1F, false, false⟩
def fE2M1 : FFmt := ⟨2, 1, 1, 0x7, false, false⟩
def fBF16 : FFmt := ⟨8, 7, 127, 0x7F7F, true, false⟩
def fFP32 : FFmt := ⟨8, 23, 127, 0x7F7FFFFF, true, false⟩

/-- The value a code stands for. -/
def FFmt.dec (f : FFmt) (c : Nat) : Num :=
  let s := c.testBit (f.eb + f.mb)
  let e := bits c f.mb f.eb
  let m := bits c 0 f.mb
  let top := e == 2 ^ f.eb - 1
  if f.ieee && top then (if m == 0 then .inf s else .nan)
  else if f.topNan && top && m == 2 ^ f.mb - 1 then .nan
  else if e == 0 then .fin s m (1 - f.bias - f.mb)
  else .fin s (2 ^ f.mb + m) ((e : Int) - f.bias - f.mb)

/-- The magnitude code nearest to m x 2^e, ties to even, with no bound above. -/
def FFmt.encMag (f : FFmt) (m : Nat) (e : Int) : Nat :=
  if m == 0 then 0
  else
    let ex := max (e + (Nat.log2 m : Int)) (1 - f.bias)
    (ex + f.bias - 1).toNat * 2 ^ f.mb + rneShift m (e - (ex - f.mb))

/-- A NaN code of the format; which one, and its sign, is open (log 7). -/
def FFmt.nanCode (f : FFmt) : Nat :=
  let n := Config.nanBits f.eb f.mb
  let sgn := (n % 2) * 2 ^ (f.eb + f.mb)
  if f.ieee then sgn + (2 ^ f.eb - 1) * 2 ^ f.mb + (1 + (n / 2) % (2 ^ f.mb - 1))
  else sgn + (2 ^ (f.eb + f.mb) - 1)

/-- Conversion into a format: nearest, ties to even. `sat` saturates to the largest finite magnitude (R88), otherwise
an overflow is an infinity (FP32, IEEE 754). -/
def FFmt.enc (f : FFmt) (sat : Bool) : Num → Nat
  | .fin s m e =>
    let c := f.encMag m e
    let c := if f.maxCode < c then (if sat then f.maxCode else f.maxCode + 1) else c
    b2n s * 2 ^ (f.eb + f.mb) + c
  | .inf s => b2n s * 2 ^ (f.eb + f.mb) + (if f.ieee then f.maxCode + 1 else f.maxCode)
  | .nan => f.nanCode

/-- The value of an FP32 code. -/
def f32 (c : Nat) : Num := fFP32.dec (c % 2 ^ 32)

/-- The FP32 code of a value, correctly rounded. -/
def toF32 (v : Num) : Nat := fFP32.enc false v

/-- A value rounded to FP32. -/
def rnd32 (v : Num) : Num := match v with
  | .nan => .nan
  | w => f32 (toF32 w)

/-- The value of a BF16 code. -/
def bf16 (c : Nat) : Num := fBF16.dec (c % 2 ^ 16)

/-- An FP32 code with a subnormal flushed to a zero of its sign (R90). -/
def flushSub (c : Nat) : Nat := if bits c 23 8 == 0 then bits c 31 1 * 2 ^ 31 else c

/-! ## Element formats by code (R85) -/

/-- The kinds of element a format code names. -/
inductive ElemKind where
  | flt (f : FFmt)
  | mxint8
  | int (w : Nat)
  deriving DecidableEq, Repr

/-- A format code of R85: element kind, element width in bits, whether elements share MX scales, and emax. -/
structure Fmt where
  kind : ElemKind
  w : Nat
  mx : Bool
  emax : Int
  deriving DecidableEq, Repr

/-- The format of a code; the codes not listed are reserved (R15). -/
def fmtOf (code : Nat) : Option Fmt :=
  match code with
  | 0x01 => some ⟨.flt fE4M3, 8, false, 8⟩
  | 0x02 => some ⟨.flt fE5M2, 8, false, 15⟩
  | 0x03 => some ⟨.flt fE4M3, 8, true, 8⟩
  | 0x04 => some ⟨.flt fE5M2, 8, true, 15⟩
  | 0x05 => some ⟨.flt fE2M3, 6, true, 2⟩
  | 0x06 => some ⟨.flt fE3M2, 6, true, 4⟩
  | 0x07 => some ⟨.flt fE2M1, 4, true, 2⟩
  | 0x08 => some ⟨.mxint8, 8, true, 0⟩
  | 0x09 => some ⟨.int 8, 8, false, 0⟩
  | 0x0A => some ⟨.int 4, 4, false, 0⟩
  | 0x0B => some ⟨.flt fBF16, 16, false, 127⟩
  | 0x0C => some ⟨.flt fFP32, 32, false, 127⟩
  | 0x0D => some ⟨.int 32, 32, false, 0⟩
  | _ => none

/-- An integer format (R93). -/
def Fmt.isInt (f : Fmt) : Bool := match f.kind with
  | .int _ => true
  | _ => false

/-- The value of an element read in its own format, scales apart. -/
def Fmt.dec (f : Fmt) (c : Nat) : Num :=
  match f.kind with
  | .flt g => g.dec c
  | .mxint8 => let i := toSigned 8 c; .fin (decide (i < 0)) i.natAbs (-6)
  | .int w => Num.ofInt (toSigned w c)

/-- The value of an E8M0 scale code (R85). -/
def scaleVal (c : Nat) : Num := if c == 0xFF then .nan else .fin false 1 ((c : Int) - 127)

/-- Nearest integer of a value, ties to even, bounded in magnitude. -/
def toIntSat (w : Nat) : Num → Int
  | .fin s m e =>
    let v := Nat.min (rneShift m e) (2 ^ (w - 1) - 1)
    if s then -(v : Int) else (v : Int)
  | .inf s => if s then -((2 ^ (w - 1) - 1 : Nat) : Int) else ((2 ^ (w - 1) - 1 : Nat) : Int)
  | .nan => Config.nanToInt w

/-- The code of a value converted to an element format under R88, block scale apart. -/
def Fmt.enc (f : Fmt) (v : Num) : Nat :=
  match f.kind with
  | .flt g => g.enc (decide (f.w < 32)) v
  | .mxint8 => ofInt 8 (toIntSat 8 (v.mul (.fin false 1 6)))
  | .int w => ofInt w (toIntSat w v)

/-- A format with no NaN element: a NaN sets its block's scale to 0xFF (R88). -/
def Fmt.nanless (f : Fmt) : Bool := f.mx && (f.w < 8 || f.kind == .mxint8)

/-- One MX block of up to 32 values: scale code and element codes (R89). Under a scale of 0xFF every element reads as a
NaN whatever its code: the spec gives the codes none, and the model writes 0 (DESIGN CHOICE, log 72). -/
def quantBlock (f : Fmt) (vs : List Num) : Nat × List Nat :=
  let mags := (vs.filter (fun v => !v.isNan)).map Num.abs
  let amax := mags.foldl (fun a v => if a.lt v then v else a) Num.zero
  if f.nanless && vs.any Num.isNan then (0xFF, vs.map (fun _ => 0))
  else
    let k : Option Int := match amax with
      | .fin _ m e => if m == 0 then none else some (e + (Nat.log2 m : Int) - f.emax)
      | _ => some 127
    match k with
    | none => (0, vs.map (fun v => f.enc v))
    | some k =>
      let k := max (-127) (min 127 k)
      ((k + 127).toNat, vs.map (fun v => f.enc (v.mul (.fin false 1 (-k)))))

/-- Bits of an element array: element i of width `w` in a little-endian stream (R86). -/
def packedAt (rd : Nat → Nat → Nat) (base w i : Nat) : Nat :=
  bits (rd (base + i * w / 8) ((w + 15) / 8)) (i * w % 8) w

/-- Pack element codes of width `w` into bytes, least significant element first (R86). -/
def packAll (w : Nat) (cs : List Nat) : List Byte :=
  let word := (cs.reverse).foldl (fun a c => a * 2 ^ w + c % 2 ^ w) 0
  toBytes (cdiv (cs.length * w) 8) word

/-! ## Functions of the vector unit (R97) -/

/-- 2^-200 steps of ln 2. -/
def ln2Fix : Nat := 1113844574712631719546256151097547306333272293549090750737802

/-- The integer part of m x 2^e, towards zero. -/
def truncShift (m : Nat) (e : Int) : Nat := if 0 ≤ e then m <<< e.toNat else m >>> (-e).toNat

/-- e^x to about 190 significant bits: the reference the 2-ulp bound of R97 is tested against. -/
def expRef : Num → Num
  | .nan => .nan
  | .inf s => if s then Num.zero else .inf false
  | .fin s m e =>
    if m == 0 then .fin false 1 0
    else if 12 ≤ e + (Nat.log2 m : Int) then (if s then .fin false 1 (-6000) else .fin false 1 6000)
    else
      let x : Int := let v : Int := ((truncShift m (e + 200) : Nat) : Int); if s then -v else v
      let k : Int := x / (ln2Fix : Int)
      let r : Nat := (x - k * (ln2Fix : Int)).toNat
      let st := (List.range 60).foldl (fun (p : Nat × Nat) i => let t := (p.1 * r) / (2 ^ 200 * (i + 1)); (t, p.2 + t))
        (2 ^ 200, 2 ^ 200)
      .fin false st.2 (k - 200)

/-- ln x of a positive finite value, to about 190 bits: x = y 2^k with y in [1, 2), and ln y = 2 artanh((y-1)/(y+1)). -/
def lnRef : Num → Num
  | .fin false m e =>
    if m == 0 then .inf true
    else
      let l := Nat.log2 m
      let t := (m - 2 ^ l) * 2 ^ 200 / (m + 2 ^ l)
      let st := (List.range 64).foldl (fun (p : Nat × Nat) i =>
        (p.1 * t / 2 ^ 200 * t / 2 ^ 200, p.2 + 2 * p.1 / (2 * i + 1))) (t, 0)
      let v : Int := (st.2 : Int) + (e + (l : Int)) * (ln2Fix : Int)
      .fin (decide (v < 0)) v.natAbs (-200)
  | _ => .nan

/-- 1/x to about 200 bits, with a sticky bit. -/
def recipRef (s : Bool) (m : Nat) (e : Int) : Num :=
  let n := 2 ^ 300
  .fin s (2 * (n / m) + (if n % m == 0 then 0 else 1)) (-301 - e)

/-- Integer square root, bit by bit from bit `k` down. -/
def isqrtFrom : Nat → Nat → Nat → Nat
  | 0, _, r => r
  | k + 1, n, r => let t := r + 2 ^ k; if t * t ≤ n then isqrtFrom k n t else isqrtFrom k n r

/-- 1/sqrt(m x 2^e) for m > 0. -/
def rsqrtRef (m : Nat) (e : Int) : Num :=
  let m2 := if e % 2 == 0 then m else 2 * m
  let e2 := if e % 2 == 0 then e else e - 1
  let n := 2 ^ 500 / m2
  .fin false (2 * isqrtFrom 252 n 0 + 1) (-251 - e2 / 2)

/-- The spacing of FP32 at a value, as a power of two. -/
def ulpExp : Num → Int
  | .fin _ m e => if m == 0 then -149 else max (e + (Nat.log2 m : Int) - 23) (-149)
  | _ => -149

/-- A code stands within `k` ulp of a reference value. -/
def withinUlp (k : Nat) (c : Nat) (ref : Num) : Bool :=
  match f32 c, ref with
  | .fin s m e, .fin t n f => ((Num.fin s m e).sub (.fin t n f)).abs.le (.fin false k (ulpExp (.fin t n f)))
  | .inf a, .inf b => a == b
  | .inf a, .fin t n f => a == t && f32 (toF32 (.fin t n f)) == .inf a
  | .nan, .nan => true
  | _, _ => false

/-- What the hardware's function gives: its own code when that code keeps the bound, else the rounded reference. -/
def boundedFn (fn k x : Nat) (ref : Num) : Nat :=
  let c := Config.vfnCandidate fn x % 2 ^ 32
  if withinUlp k c ref then c else toF32 ref

/-- exp on FP32 codes, within 2 ulp (R97). -/
def vexp (x : Nat) : Nat := match f32 x with
  | .nan => fFP32.nanCode
  | .inf s => if s then 0 else toF32 (.inf false)
  | v => boundedFn 0 2 x (expRef v)

/-- reciprocal on FP32 codes, within 1 ulp (R97); of zero it is open (log 8). -/
def vrecip (x : Nat) : Nat := match f32 x with
  | .nan => fFP32.nanCode
  | .inf s => toF32 (.fin s 0 0)
  | .fin s m e => if m == 0 then Config.vfnOpen 1 x % 2 ^ 32 else boundedFn 1 1 x (recipRef s m e)

/-- rsqrt on FP32 codes, within 2 ulp (R97); of zero and of negative numbers it is open (log 8). -/
def vrsqrt (x : Nat) : Nat := match f32 x with
  | .nan => fFP32.nanCode
  | .inf s => if s then Config.vfnOpen 2 x % 2 ^ 32 else 0
  | .fin s m e => if s || m == 0 then Config.vfnOpen 2 x % 2 ^ 32 else boundedFn 2 2 x (rsqrtRef m e)

/-- FP32 sum, product and fused multiply-add, correctly rounded (R97). -/
def fadd32 (a b : Nat) : Nat := toF32 ((f32 a).add (f32 b))
def fsub32 (a b : Nat) : Nat := toF32 ((f32 a).sub (f32 b))
def fmul32 (a b : Nat) : Nat := toF32 ((f32 a).mul (f32 b))
def fma32 (a b c : Nat) : Nat := toF32 (((f32 a).mul (f32 b)).add (f32 c))

/-- Two BF16 lanes added in FP32 and rounded to BF16, saturating as every conversion does (R88, R110). -/
def addBf16 (a b : Nat) : Nat := fBF16.enc true (rnd32 ((bf16 a).add (bf16 b)))

/-- -infinity and 1 as FP32 codes. -/
def negInf32 : Nat := 0xFF800000
def one32 : Nat := 0x3F800000

/-- e^(a - b) of FP32 codes as the online softmax uses it. -/
def expDiff (a b : Nat) : Nat := vexp (fsub32 a b)

/-- R92: two results agree under a bound word (REL in [15:0], ABS in [31:16], BF16). -/
def agree (bound : Nat) (a b : Num) : Bool :=
  match a, b with
  | .nan, .nan => true
  | .inf s, .inf t => s == t
  | .fin s m e, .fin t n f =>
    let d := ((Num.fin s m e).sub (.fin t n f)).abs
    let mx := (Num.fin false m e).max (.fin false n f)
    d.le ((bf16 (bits bound 16 16)).add ((bf16 (bits bound 0 16)).mul mx))
  | _, _ => false

/-- bucket(d) of R139. -/
def bucket (d : Nat) : Nat :=
  if d < 32 then d
  else
    let k := Nat.log2 d
    32 + 8 * (k - 5) + ((d >>> (k - 3)) % 8)

end Sys2Proof.Machine
end

