-- ==== Sys2Proof/Machine/Keccak.lean ====
section
/-!
DEFINITION. Sys2Proof/Machine/Keccak.lean: SHAKE256, the hash of measurements, digests and logs, and SHA3-512, SPDM's (R274, R489,
R497, R499).

The spec names the functions of FIPS 202 and does not restate them. Its two tables are generated here by the recurrences
that define them: the walk of the lanes, and the feedback register of the round constants.
-/
namespace Sys2Proof.Machine

/-- The 25 lanes of the sponge; lane (x, y) stands at x + 5 y. -/
abbrev Lanes := List (BitVec 64)

def Lanes.lane (a : Lanes) (x y : Nat) : BitVec 64 := a.getD (x % 5 + y % 5 * 5) 0#64

/-- The walk over the 24 lanes that turn: its place at step t. -/
def lanePath : Nat → Nat × Nat
  | 0 => (1, 0)
  | t + 1 => ((lanePath t).2, (2 * (lanePath t).1 + 3 * (lanePath t).2) % 5)

/-- Column parity. -/
def Lanes.parity (a : Lanes) (x : Nat) : BitVec 64 := [0, 1, 2, 3, 4].foldl (fun p y => p ^^^ a.lane x y) 0#64

/-- Every lane takes in the parities of the two columns beside its own. -/
def Lanes.mixed (a : Lanes) (x y : Nat) : BitVec 64 := a.lane x y ^^^ a.parity (x + 4) ^^^ (a.parity (x + 1)).rotateLeft 1

/-- The lanes move one step along the walk; the lane of step t turns by the t-th triangular number. -/
def Lanes.moved (a : Lanes) : Lanes :=
  (List.range 24).foldl (fun (o : Lanes) t =>
    let p := lanePath t
    let q := lanePath (t + 1)
    o.set (q.1 + 5 * q.2) ((a.mixed p.1 p.2).rotateLeft ((t + 1) * (t + 2) / 2 % 64))) (a.set 0 (a.mixed 0 0))

/-- The feedback register of the round constants after n steps. -/
def constReg : Nat → Nat
  | 0 => 1
  | n + 1 => if constReg n < 128 then 2 * constReg n else (2 * constReg n) ^^^ 0x171

/-- The constant of round i: register bit j + 7 i stands at bit 2^j - 1. -/
def roundConst (i : Nat) : BitVec 64 :=
  [0, 1, 2, 3, 4, 5, 6].foldl (fun w j => if (constReg (j + 7 * i)).testBit 0 then w ||| (1#64 <<< (2 ^ j - 1)) else w) 0#64

/-- Round i. -/
def Lanes.turn (a : Lanes) (i : Nat) : Lanes :=
  let m := a.moved
  let o : Lanes := (List.range 25).map (fun k => m.lane k (k / 5) ^^^ (~~~(m.lane (k + 1) (k / 5)) &&& m.lane (k + 2) (k / 5)))
  o.set 0 (o.lane 0 0 ^^^ roundConst i)

/-- The permutation: 24 rounds. -/
def Lanes.permute (a : Lanes) : Lanes := (List.range 24).foldl Lanes.turn a

/-- Bytes as little-endian lanes, n of them. -/
def lanesOf : Nat → List Byte → Lanes
  | 0, _ => []
  | n + 1, bs => BitVec.ofNat 64 (ofBytes (bs.take 8)) :: lanesOf n (bs.drop 8)

/-- n blocks of r lanes enter the sponge. -/
def Lanes.soak (a : Lanes) (r : Nat) : Nat → List Byte → Lanes
  | 0, _ => a
  | n + 1, bs => Lanes.soak (Lanes.permute (List.zipWith (· ^^^ ·) a (lanesOf r bs ++ List.replicate (25 - r) 0#64))) r n (bs.drop (8 * r))

/-- The message with a suffix, whose byte ends in the first 1 of the padding, and the padding to a whole number of blocks
of r lanes. -/
def padded (r : Nat) (suffix : Byte) (m : List Byte) : List Byte :=
  let z := 8 * r - 1 - m.length % (8 * r)
  m ++ (if z = 0 then [suffix ||| 0x80#8] else suffix :: (List.replicate (z - 1) 0#8 ++ [0x80#8]))

/-- The first k lanes of the sponge after a message, as a little-endian word. -/
def sponge (r : Nat) (suffix : Byte) (k : Nat) (m : List Byte) : Nat :=
  let st := Lanes.soak (List.replicate 25 0#64) r (m.length / (8 * r) + 1) (padded r suffix m)
  (st.take k).foldr (fun w n => w.toNat + 2 ^ 64 * n) 0

/-- SHAKE256 with 32 bytes of output: blocks of 17 lanes, suffix 1111. -/
def shake256 (m : List Byte) : Nat := sponge 17 0x1F#8 4 m

/-- SHA3-512: blocks of 9 lanes, suffix 01 (R499). -/
def sha3_512 (m : List Byte) : Nat := sponge 9 0x06#8 8 m

end Sys2Proof.Machine
end

