-- ==== Sys2Proof/Machine/Fcl.lean ====
section
/-!
DEFINITION. Sys2Proof/Machine/Fcl.lean: the fault collector: sampling, latches, reactions, fences, the halt, BEAT and
injection (R443 to R460, R474).
-/
namespace Sys2Proof.Machine

/-! ## Fences (R453 to R455) -/

/-- C-tiles that run prefill: not fenced, not lent; a slot's plan is the one for their count (R51, R454). -/
def State.prefillTiles (s : State) : List Nat := (List.range 32).filter (fun t => !(s.tile t).fenced && !(s.tile t).lent)

/-- B-tiles whose channels hold a request's pages (R67, R455). -/
def Req.pageTiles (r : Req) : List Nat := r.pages.filterMap (fun e => match e.2 with
  | .t1 ch _ => some (btileOfChan ch)
  | _ => none)

/-- Every B-tile whose channels hold a request's pages is fenced: the request waits (R455). -/
def State.cutOff (s : State) (r : Req) : Bool := !r.pageTiles.isEmpty && r.pageTiles.all (fun t => (s.tile t).fenced)

/-- R455: some model slot's plan can run on no tiles, or some request's pages lie behind fenced B-tiles only. -/
def State.stranded (s : State) : Bool :=
  let n := s.prefillTiles.length
  s.slots.any (fun e => e.2.st = .loaded && !e.2.plans.isEmpty && !(e.2.plans.any (fun p => p.1 = n || p.1 = 0xFFFF))) ||
  s.reqs.any (fun e => e.2.st ≠ .free && s.cutOff e.2)

/-- The lent C-tile that swing moved last. -/
def State.lastLent (s : State) : Option Nat :=
  (List.range 32).foldl (fun (b : Option Nat) t =>
    if !(s.tile t).lent || (s.tile t).fenced then b
    else match b with
      | none => some t
      | some k => if ((s.tile k).lastMoved.getD 0) ≤ ((s.tile t).lastMoved.getD 0) then some t else some k) none

/-- A tile is fenced: its running command fails with TILE_FENCED, it takes part in nothing until it is unfenced and
qualified; the most recently lent C-tile takes a fenced C-tile's place (R453, R454). -/
def State.fenceTileHw (s : State) (t : Nat) : State :=
  if (s.tile t).fenced then s
  else
    let s := (s.updTile t (fun x => { x with fenced := true, qual := none, against := none })).failCmd t Stat.tileFenced
    if t < 32 && !(s.tile t).lent then
      match s.lastLent with
      | some k => s.updTile k (fun x => { x with lent := false })
      | none => s
    else s

/-- A link is fenced: FAILED, its queued packets discarded, until UNFENCE (R272, R356, R453). -/
def State.fenceLinkHw (s : State) (lk : Nat) : State :=
  (s.discardLink lk).updLink lk (fun l => { l with state := .failed, fenced := true })

/-- A channel's BAU is fenced: its program stops without a return record and its command fails with BAU_FENCED; the
channel serves memory only (R170, R185, R453). -/
def State.fenceBauHw (s : State) (ch : Nat) : State :=
  let s := s.updChan ch (fun k => { k with fenced := true })
  match (s.chan ch).prog with
  | none => s
  | some p => if p.stopping then s else (s.stopProg ch).failCmd p.tile Stat.bauFenced

/-- An ONFI channel is fenced: T3 takes no new plots (R223, R453). -/
def State.fenceOnfiHw (s : State) (k : Nat) : State :=
  { s with ftl := { s.ftl with chState := Tbl.put s.ftl.chState k 3, unusable := true } }

/-- A die is fenced whole: every tile of a compute die, every link of a link die (R453). -/
def State.fenceDieHw (s : State) (d : Nat) : State :=
  let s := { s with fcl := { s.fcl with dieFence := Tbl.put s.fcl.dieFence d true } }
  let s := s.updDie d (fun x => { x with fenced := true })
  if d < 4 then (List.range 12).foldl (fun s i => s.fenceTileHw (tileOfLocal d i)) s
  else (List.range 18).foldl (fun s i => s.fenceLinkHw (18 * (d - 5) + i)) s

/-- The unit is fenced already. -/
def State.isFenced (s : State) (kind idx : Nat) : Bool :=
  match kind with
  | 1 => (s.tile idx).fenced
  | 2 => Tbl.getD s.fcl.dieFence idx false
  | 3 => (s.link idx).fenced
  | 4 => (s.chan idx).fenced
  | 5 => Tbl.getD s.ftl.chState idx 0 = 3
  | _ => false

/-- A unit kind and index that FCL_FENCE_CMD takes (R474): a die is a compute die or a link die (R453). -/
def fenceIdxOk (kind idx : Nat) : Bool :=
  match kind with
  | 1 => decide (idx < 48)
  | 2 => decide (idx < 7) && decide (idx ≠ 4)
  | 3 => decide (idx < 36)
  | 4 => decide (idx < 128)
  | 5 => decide (idx < 8)
  | _ => false

/-- A unit is fenced, and FENCED is posted, once per fence (R453, R455, R472). -/
def State.fenceUnit (s : State) (kind idx : Nat) : State :=
  if s.isFenced kind idx then s
  else
    let was := s.stranded
    let s := match kind with
      | 1 => s.fenceTileHw idx
      | 2 => s.fenceDieHw idx
      | 3 => s.fenceLinkHw idx
      | 4 => s.fenceBauHw idx
      | 5 => s.fenceOnfiHw idx
      | _ => s
    s.devEvent 0x41 kind idx (b2n (!was && s.stranded))

/-- Tiles that a fence of a unit fences. -/
def fenceTiles (kind idx : Nat) : List Nat :=
  match kind with
  | 1 => [idx]
  | 2 => if idx < 4 then (List.range 12).map (fun i => tileOfLocal idx i) else []
  | _ => []

/-- Candidates under comparison, each with the number of its run, that a fence of these tiles falls on, or on whose
working tile it falls (R464). -/
def State.comparing (s : State) (ts : List Nat) : List (Nat × Nat) :=
  (List.range 48).filterMap (fun c => match (s.tile c).qual, (s.tile c).against with
    | some (_, _, k), some w => if !(s.tile c).fenced && (ts.contains c || ts.contains w) then some (c, k + 1) else none
    | _, _ => none)

/-- A comparison fails without having been made: QUAL_FAILED, with no element counted, and the candidate is fenced again
(R464, R472; log 41). -/
def State.qualLost (s : State) (c : Nat × Nat) : State :=
  ((s.updTile c.1 (fun x => { x with qual := none, against := none })).devEvent 0x47 c.1 c.2 0).fenceUnit 1 c.1

/-- Fence a unit; comparisons it falls on fail (R453, R464). -/
def State.fence (s : State) (kind idx : Nat) : State :=
  if s.isFenced kind idx then s
  else
    let cs := s.comparing (fenceTiles kind idx)
    cs.foldl State.qualLost (s.fenceUnit kind idx)

/-- Fence target of a source (R448, R503, R529). -/
def fenceTarget (src : Nat) : Option (Nat × Nat) :=
  if src < 0x100 then
    let o := src % 0x40
    if o ≤ 0x0B then some (1, tileOfLocal (src / 0x40) o)
    else if o == 0x19 || o == 0x1A then some (2, src / 0x40) else none
  else if src < 0x180 then
    if 0x109 ≤ src && src ≤ 0x110 then some (5, src - 0x109) else none
  else if src < 0x240 then
    let o := (src - 0x180) % 0x60
    if o ≤ 0x11 then some (3, 18 * ((src - 0x180) / 0x60) + o)
    else if o == 0x18 then some (2, 5 + (src - 0x180) / 0x60) else none
  else if src < 0x340 then
    let o := (src - 0x240) % 0x20
    if o ≤ 0x0F then some (4, 16 * ((src - 0x240) / 0x20) + o) else none
  else if 0x3D0 ≤ src && src < 0x400 then some (1, src - 0x3D0)
  else none

/-! ## The halt (R456) -/

/-- FCL_STATUS as read (R474). -/
def Fcl.status (f : Fcl) : Nat :=
  f.latches + f.lastSource * 2 ^ 32 + b2n f.injectReject * 2 ^ 61 + b2n f.reacting.isSome * 2 ^ 62 + b2n f.halted * 2 ^ 63

/-- SBW byte address of the halt record (R456). -/
def haltRecord : Nat := 0x280005FF000

/-- The halt: BEAT stops, every engine and core stops, links are held DOWN, and the collector copies its state into the
SBW in register order: FCL_STATUS, FCL_STICKY, FCL_WIRE (notes/assumptions/22.md). -/
def State.halt (s : State) : State :=
  let s := { s with fcl := { s.fcl with halted := true, running := false } }
  let s := { s with devState := .halted, pwr := { s.pwr with harts := 0 } }
  let s := (List.range 36).foldl (fun s lk => (s.discardLink lk).updLink lk (fun l => { l with state := .down })) s
  ((s.wr haltRecord 8 s.fcl.status).wr (haltRecord + 8) 128 s.fcl.sticky.toNat).wr (haltRecord + 136) 128 s.fcl.wire.toNat

/-! ## Sampling and reactions (R445, R450, R451) -/

/-- Pairs that read asserted: not broken, not driven equal. -/
def Fcl.pairs (f : Fcl) : List Nat :=
  (f.asserted.map (·.1)).filter (fun x => !(f.wire.getLsbD x) && !(f.wireInj.contains x))

/-- One source is latched or broken: its sticky bit, its counter and its word's FCL_PEND bit (R445, R446). -/
def Fcl.latch (f : Fcl) (src : Nat) : Fcl :=
  { f with sticky := f.sticky ||| (1#1024 <<< src), cnt := Tbl.upd f.cnt src 0 (fun n => satAdd 32 n 1),
           pend := f.pend ||| (1 <<< (src / 64)) }

/-- Class of a source, CORRECTED for one that has none. -/
def classOf (src : Nat) : Nat := (sourceClass src).getD 0

/-- The reaction to sources latched at one sample, for the highest class among them (R450, R472). -/
def State.react (s : State) (news : List Nat) : State :=
  let top := news.foldl (fun m x => Nat.max m (classOf x)) 0
  let s := { s with fcl := { s.fcl with reacting := some top } }
  if top = 3 then s.halt
  else
    let s := news.foldl (fun s x => if classOf x = 0 then s else s.devEvent 0x40 x (classOf x) (Tbl.getD s.fcl.cnt x 0)) s
    news.foldl (fun s x => match fenceTarget x with
      | some (k, i) =>
        let s := s.fence k i
        if k = 2 && x < 0x100 && x % 0x40 = 0x1A then s.updDie i (fun d => { d with clockLost := true }) else s
      | none => s) s

/-- One sample: sources asserted now and not at the previous sample taken are latched, and start one reaction; sticky
bits of pairs that stay asserted are set again (R445, R450, R452). -/
def State.sample (s : State) : State :=
  if s.fcl.reacting.isSome then s
  else
    let now := s.fcl.pairs
    let news := sortNat (now.filter (fun x => !(s.fcl.prev.contains x)))
    let f := now.foldl (fun f x => { f with sticky := f.sticky ||| (1#1024 <<< x) }) { s.fcl with prev := now }
    match news with
    | [] => { s with fcl := f }
    | x :: _ =>
      let f := news.foldl Fcl.latch f
      ({ s with fcl := { f with latches := satAdd 32 f.latches 1, lastSource := x } }).react news

/-- FCL_LATCH (R445): units assert the pairs named; the FCL takes a sample. -/
def execFclLatch (ext : List (Fin 1024)) (s : State) : Host.Outcome State Fault Refusal :=
  if !s.boot.good || !s.boot.released then .next s
  else .next ((ext.foldl (fun s x => s.raise x.val) s).sample)

/-- BROKEN_PAIR (R446): sticky and wire bits, counted once, then ignored until reset; the class's reaction, or
WIRE_BROKEN for a counting source. -/
def execBrokenPair (src : Fin 1024) (s : State) : Host.Outcome State Fault Refusal :=
  let x := src.val
  if !s.live || s.fcl.reacting.isSome || s.fcl.wire.getLsbD x || (sourceClass x).isNone then .next s
  else
    let f := s.fcl.latch x
    let s := { s with fcl := { f with wire := f.wire ||| (1#1024 <<< x), prev := f.prev.filter (· ≠ x) } }
    if classOf x = 0 then .next (s.devEvent 0x43 x 0 0) else .next (s.react [x])

/-- REACTION_END (R450, R451): pairs that have returned to idle are lost; sampling resumes. -/
def execReactionEnd (s : State) : Host.Outcome State Fault Refusal :=
  if !s.live || s.fcl.reacting.isNone then .next s
  else
    let live := s.fcl.asserted.filter (fun p => match p.2 with
      | none => true
      | some t => decide (s.ltu < t))
    .next ({ s with fcl := { s.fcl with reacting := none, asserted := live } }).sample

/-- What the passing of time does to the pairs: one that was sampled, or that fell idle while sampling was suspended,
returns to idle at the end of its width (R444, R451); one that no sample has met waits for its sample. -/
def State.tickFcl (s : State) : State :=
  if s.fcl.asserted.isEmpty then s
  else
    let keep := s.fcl.asserted.filter (fun p => match p.2 with
      | none => true
      | some t => decide (s.ltu < t) || (s.fcl.reacting.isNone && !(s.fcl.prev.contains p.1)))
    let f := { s.fcl with asserted := keep }
    if f.reacting.isSome then { s with fcl := f }
    else { s with fcl := { f with prev := f.prev.filter (fun x => keep.any (fun p => p.1 = x)) } }

/-! ## BEAT (R457, R458) -/

/-- FCL_KICK (R457): 0xA5 kicks; the first kick starts BEAT. -/
def execFclKick (key : BitVec 8) (s : State) : Host.Outcome State Fault Refusal :=
  if !s.live then .next s
  else if key ≠ 0xA5#8 then .next { s with fcl := { s.fcl with badKick := satAdd 8 s.fcl.badKick 1 } }
  else
    let first := s.fcl.lastKick.isNone
    .next { s with fcl := { s.fcl with lastKick := some s.ltu, running := s.fcl.running || first,
                                       lastBeat := if first then s.ltu else s.fcl.lastBeat } }

/-- KICK_LAPSE (R458): 10 ms without a kick latch HD.KICK_LAPSE, which halts the device. -/
def execKickLapse (s : State) : Host.Outcome State Fault Refusal :=
  match s.fcl.lastKick with
  | none => .next s
  | some t => if !s.live || s.ltu ≤ t + 1000000 then .next s else .next ((s.raise 0x115).sample)

/-- BEAT_TOGGLE (R457): BEAT changes level every 50 µs, or stops at the level it has. -/
def execBeatToggle (s : State) : Host.Outcome State Fault Refusal :=
  match s.fcl.lastKick with
  | none => .next s
  | some t =>
    if !s.live || !s.fcl.running || s.ltu < s.fcl.lastBeat + 5000 then .next s
    else if t + 1000000 < s.ltu then .next { s with fcl := { s.fcl with running := false } }
    else .next { s with fcl := { s.fcl with level := !s.fcl.level, lastBeat := s.ltu } }

/-! ## Fence commands (R453, R474) -/

def State.fenceReject (s : State) : State := { s with fcl := { s.fcl with fenceReject := true } }
def State.fenceDone (s : State) : State := { s with fcl := { s.fcl with fenceDone := true } }

/-- FCL_FENCE (R453, R474): FCL_FENCE_CMD with OP FENCE. -/
def execFclFence (kind : BitVec 3) (idx : BitVec 8) (s : State) : Host.Outcome State Fault Refusal :=
  if !s.live then .next s
  else if !(fenceIdxOk kind.toNat idx.toNat) then .next s.fenceReject
  else .next (s.fence kind.toNat idx.toNat).fenceDone

/-- A tile is unfenced and begins its qualification: REF, RUNS, runs that agreed (R464); one with an AGE_ALARM since its last
sweep stays fenced when its die is unfenced (R527). -/
def State.unfenceTile (s : State) (t ref runs : Nat) : State :=
  if !(s.tile t).fenced || (s.tpwr t).alarm then s else s.updTile t (fun x => { x with fenced := false, qual := some (ref, runs, 0) })

/-- R453: the condition of an UNFENCE: an ONFI channel not before reset; a die with none of its DIE sources asserted; a
tile with an AGE_ALARM not before its sweep (R527; log 41). -/
def State.unfenceOk (s : State) (kind idx : Nat) : Bool :=
  match kind with
  | 1 => !(s.tpwr idx).alarm
  | 2 =>
    let srcs := if idx < 4 then [0x40 * idx + 0x19, 0x40 * idx + 0x1A] else [0x180 + 0x60 * (idx - 5) + 0x18]
    !(srcs.any (fun x => s.fcl.asserted.any (fun p => p.1 = x)))
  | 5 => false
  | _ => true

/-- Unfence a unit and post UNFENCED (R453, R464, R472). -/
def State.unfence (s : State) (kind idx ref runs : Nat) : State :=
  if !(s.isFenced kind idx) then s
  else
    let s := match kind with
      | 1 => s.unfenceTile idx ref runs
      | 2 =>
        let s := { s with fcl := { s.fcl with dieFence := Tbl.del s.fcl.dieFence idx } }
        let s := s.updDie idx (fun d => { d with fenced := false, clockLost := false })
        if idx < 4 then (List.range 12).foldl (fun s i => s.unfenceTile (tileOfLocal idx i) ref runs) s
        else (List.range 18).foldl (fun s i => s.updLink (18 * (idx - 5) + i) (fun l => { l with fenced := false })) s
      | 3 => s.updLink idx (fun l => { l with fenced := false })
      | 4 => s.updChan idx (fun k => { k with fenced := false })
      | _ => s
    s.devEvent 0x42 kind idx 0

/-- FCL_UNFENCE (R453, R474): a tile unfenced here qualifies with REF TILE and RUNS 16. -/
def execFclUnfence (kind : BitVec 3) (idx : BitVec 8) (s : State) : Host.Outcome State Fault Refusal :=
  if !s.live then .next s
  else if !(fenceIdxOk kind.toNat idx.toNat) || !(s.unfenceOk kind.toNat idx.toNat) then .next s.fenceReject
  else .next (s.unfence kind.toNat idx.toNat 1 16).fenceDone

/-! ## Injection (R460) -/

/-- Assert a pair at the FCL's input for WIDTH PCLK; smaller widths act as 8 (R460, R474). -/
def State.injectPair (s : State) (src width : Nat) : State :=
  if (sourceClass src).isNone then s
  else
    let till := s.ltu + cdiv (Nat.max 8 width) 2
    { s with fcl := { s.fcl with asserted := (src, some till) :: s.fcl.asserted.filter (fun p => p.1 ≠ src || p.2.isNone) } }

def State.injectDenied (s : State) : State := { s with fcl := { s.fcl with injectReject := true } }

/-- FCL_INJECT_NOW (R460). -/
def execFclInjectNow (src : Fin 1024) (width : BitVec 16) (s : State) : Host.Outcome State Fault Refusal :=
  if !s.live then .next s
  else if !s.inFactory then .next s.injectDenied
  else .next (s.injectPair src.val width.toNat)

/-- FCL_INJECT_SYNC (R460): the injection waits for the first SYNC_IN edge. -/
def execFclInjectSync (src : Fin 1024) (width : BitVec 16) (s : State) : Host.Outcome State Fault Refusal :=
  if !s.live then .next s
  else if !s.inFactory then .next s.injectDenied
  else .next { s with fcl := { s.fcl with injectSync := some (src.val, width.toNat) } }

/-- FCL_INJECT_WIRE (R460): the pair is driven equal until reset; BROKEN_PAIR follows after four samples. -/
def execFclInjectWire (src : Fin 1024) (s : State) : Host.Outcome State Fault Refusal :=
  if !s.live then .next s
  else if !s.inFactory then .next s.injectDenied
  else .next { s with fcl := { s.fcl with wireInj := src.val :: s.fcl.wireInj.filter (· ≠ src.val) } }

/-- FCL_STICKY_CLEAR (R452): each 1 clears its sticky bit; a pair still asserted sets it again at the next sample. -/
def execFclStickyClear (w : Fin 16) (mask : BitVec 64) (s : State) : Host.Outcome State Fault Refusal :=
  if !s.live then .next s
  else .next { s with fcl := { s.fcl with sticky := s.fcl.sticky &&& ~~~((mask.setWidth 1024) <<< (64 * w.val)) } }

/-- FCL_CNT_CLR (R474). -/
def execFclCntClr (s : State) : Host.Outcome State Fault Refusal :=
  if !s.live then .next s else .next { s with fcl := { s.fcl with cnt := [] } }

end Sys2Proof.Machine
end

