-- ==== Sys2Proof/Machine/Reset.lean ====
section
/-!
DEFINITION. Sys2Proof/Machine/Reset.lean: what a device reset leaves (R543), the wipe of secure SRAM and the tamper
logic (R498, R503, R507).
-/
namespace Sys2Proof.Machine

/-- A key at which memory contents are not defined after a reset: every RAM but the SBW (R543, R552). -/
def resetLoses (k : Nat) : Bool :=
  match regionOf k with
  | .t1 => decide (0x8000000000 ≤ k)
  | .t2sys | .t2host | .t2tenant | .tileWin _ _ | .ssram | .mbSram | .staging => true
  | _ => false

/-- Memory after a reset: the SBW and the ROM stand, everything else is undefined (R543; notes/assumptions/12.md). -/
def State.memAfter (s : State) : List Host.Cell :=
  (Config.memAfterReset s.fresh).foldl (fun m c => if resetLoses c.1 then memSet m c.1 c.2 else m)
    (s.mem.filter (fun c => !(resetLoses c.1)))

/-- The reset of the whole device (R543): the Cloche, OTP, QSPI, SEC_TAMPER, the SBW contents and the sideband bridge
survive, and so do the pins' levels, the flash medium, host memory and the JTAG port but for its debug module, which are not
the device's. -/
def State.deviceReset (s : State) (cause : Nat) (released : Bool) : State :=
  { State.reset with
    pending := s.pending, fresh := s.fresh + 1, mem := s.memAfter, hostMem := s.hostMem,
    ftl := { blk := Tbl.mapAll s.ftl.blk (fun b => { b with reads := 0 }) },
    cloche := s.cloche,
    sec := { otp := s.sec.otp, qspi := s.sec.qspi, tamper := s.sec.tamper, wipeDone := s.sec.wipeDone, wipes := s.sec.wipes },
    pwr := { tiles := s.pwr.tiles.map (fun e => (e.1, { v0 := e.2.v0 })) },
    boot := { good := s.boot.good, railHeld := s.boot.railHeld, released := released, perst := s.boot.perst, cause := cause },
    bridge := s.bridge, jtag := { s.jtag with dbg := {} } }

/-- Secure SRAM and the IDE key registers are zeroed; the secrets kept there are gone and sessions end (R498, R504). -/
def State.zeroSecure (s : State) : State :=
  let s := s.zero 0x28000000000 0x400000
  { s with sec := { s.sec with alias_ := 0, ideKeys := [], ideSet := [],
                               spdm := Tbl.mapAll s.sec.spdm (fun r => { r with sessions := [] }) } }

/-- A wipe, counted (R498, R507). -/
def State.wipe (s : State) : State :=
  let s := s.zeroSecure
  { s with sec := { s.sec with wipes := satAdd 16 s.sec.wipes 1, wipeDone := true } }

/-- A tamper trip (R503): the wipe, the bit of SEC_TAMPER, and the source, whose DEVICE class halts the device. -/
def State.trip (s : State) (k : Nat) : State :=
  let s := s.wipe
  ({ s with sec := { s.sec with tamper := s.sec.tamper ||| (1 <<< k) } }.raise (0x380 + k)).sample

/-- TAMPER_TRIP (R503). -/
def execTamperTrip (src : Fin 5) (s : State) : Host.Outcome State Fault Refusal :=
  if !s.boot.good then .next s else .next (s.trip src.val)

/-- SEC_WIPE_WRITE (R507): 0x5A starts a wipe without halting. -/
def execSecWipeWrite (key : BitVec 8) (s : State) : Host.Outcome State Fault Refusal :=
  if !s.live || key ≠ 0x5A#8 then .next s else .next s.wipe

end Sys2Proof.Machine
end

