-- ==== Sys2Proof/Machine/Cloche.lean ====
section
/-!
DEFINITION. Sys2Proof/Machine/Cloche.lean: the meter feed and the Cloche: windows and frames, counters, attribution of
energy, records, parameters, the audit log and its I3C commands (R475 to R494).
-/
namespace Sys2Proof.Machine

/-! ## The meter feed (R478, R479) -/

/-- A feed record (R478). -/
def feedRecord (e : Nat × Nat × Nat × Nat) : List Byte :=
  toBytes 1 e.1 ++ toBytes 1 e.2.1 ++ toBytes 2 e.2.2.1 ++ toBytes 4 0 ++ toBytes 8 e.2.2.2

/-- A frame: header, records, CRC-32C (R479). -/
def feedFrame (window : Nat) (es : List (Nat × Nat × Nat × Nat)) (last first : Bool) (lc uid : Nat) : List Byte :=
  let b := toBytes 4 window ++ toBytes 2 es.length ++ toBytes 1 (b2n last + 2 * b2n first) ++ toBytes 1 lc ++ toBytes 8 uid
    ++ es.flatMap feedRecord
  b ++ toBytes 4 (crc32c b)

/-- The frames of a window: at most 512 records each; one empty frame when it has no entries. -/
def feedFrames (window : Nat) (first : Bool) (lc uid : Nat) : Nat → List (Nat × Nat × Nat × Nat) → List (List Byte)
  | 0, _ => []
  | n + 1, es =>
    if es.length ≤ 512 then [feedFrame window es true first lc uid]
    else feedFrame window (es.take 512) false first lc uid :: feedFrames window first lc uid n (es.drop 512)

/-- FEED_WINDOW_CLOSE (R479): every 10,000 ticks; reports that waited for room then enter the table. -/
def execFeedWindowClose (s : State) : Host.Outcome State Fault Refusal :=
  let f := s.feed
  if !s.live || s.ltu < f.since + 10000 then .next s
  else
    let out := feedFrames f.window f.first s.sec.otp.lc s.sec.otp.uid 9 f.table
    let g : Feed := { f with table := [], held := [], line := f.line ++ out, window := (f.window + 1) % 2 ^ 32, since := s.ltu,
                             first := false }
    .next { s with feed := f.held.foldl Feed.report g }

/-! ## Counters (R480, R481) -/

def Cloche.set (c : Cloche) (tn : Nat) : CSet := Tbl.getD c.sets tn {}
def Cloche.updSet (c : Cloche) (tn : Nat) (f : CSet → CSet) : Cloche := { c with sets := Tbl.upd c.sets tn {} f }

/-- Nanojoules added to an ENERGY_UJ counter and its remainder; the counter wraps modulo 2^64 µJ. -/
def Cloche.addEnergy (c : Cloche) (tn nj : Nat) : Cloche :=
  c.updSet tn (fun s => { s with energyNj := (s.energyNj + nj) % (1000 * 2 ^ 64) })

/-- One accepted record (R480). -/
def Cloche.count (c : Cloche) (e : Nat × Nat × Nat × Nat) : Cloche :=
  let n := e.2.2.2
  c.updSet e.2.2.1 (fun s => match e.1 with
    | 1 => { s with engine := wrap64 (s.engine + n) }
    | 2 => { s with t1 := wrap64 (s.t1 + n) }
    | 3 => { s with t2 := wrap64 (s.t2 + n) }
    | 4 => { s with t3 := wrap64 (s.t3 + n) }
    | 5 => { s with tx := wrap64 (s.tx + n) }
    | 6 => { s with rx := wrap64 (s.rx + n) }
    | _ => s)

/-- The records of a frame's bytes. -/
def feedRecords : Nat → List Byte → List (Nat × Nat × Nat × Nat)
  | 0, _ => []
  | n + 1, bs =>
    let r := ofBytes (bs.take 16)
    (fld r 0 1, fld r 1 1, fld r 2 2, fld r 8 8) :: feedRecords n (bs.drop 16)

/-- A counter set as it lies in a snapshot (R481). -/
def CSet.bytes (s : CSet) : List Byte :=
  [s.engine, s.t1, s.t2, s.t3, s.tx, s.rx, s.energyNj / 1000, s.label].flatMap (toBytes 8)

/-- The 4 MiB of a snapshot, in tenant order (R485). -/
def snapBytes (t : Tbl CSet) : List Byte := (List.range 65536).flatMap (fun i => (Tbl.getD t i {}).bytes)

/-! ## Energy (R482 to R484) -/

/-- Calibrated energy of a domain: GAIN of its samples and OFFSET over the time, never below 0
(notes/assumptions/28.md). -/
def Cloche.calibrated (c : Cloche) (raw : List Nat) (ns d : Nat) : Nat :=
  ((Int.ofNat (nth raw d 0 * Tbl.getD c.gain d (2 ^ 30) / 2 ^ 30)) + Tbl.getD c.offset d 0 * Int.ofNat ns / 1000).toNat

/-- Idle energy of a list of domains in nanojoules. -/
def Cloche.idleNj (c : Cloche) (ds : List Nat) (ns : Nat) : Nat := (ds.map (fun d => Tbl.getD c.idle d 0)).sum * ns / 1000

/-- Window quantities of the records a group is shared by, by tenant (R482). -/
def Cloche.quantities (c : Cloche) (p : Nat × Nat → Bool) : List (Nat × Nat) :=
  (c.win.filter (fun e => p (e.1, e.2.1))).foldl (fun (q : List (Nat × Nat)) e =>
    match q.find? (fun x => x.1 = e.2.2.1) with
    | some x => (x.1, x.2 + e.2.2.2) :: q.filter (fun y => y.1 ≠ x.1)
    | none => (e.2.2.1, e.2.2.2) :: q) []

/-- One group's attribution: the Cloche and the unattributed sum so far (R482). -/
def Cloche.share (c : Cloche) (un e idle : Nat) (q : List (Nat × Nat)) : Cloche × Nat :=
  let dyn := e - idle
  let un := un + (e - dyn)
  let sum := (q.map (·.2)).sum
  if sum = 0 then (c, un + dyn)
  else
    let r := q.foldl (fun (a : Cloche × Nat) x =>
      if x.1 = 0xFFFF then a else let n := dyn * x.2 / sum; (a.1.addEnergy x.1 n, a.2 - n)) (c, dyn)
    (r.1, un + r.2)

/-- Energies of the twenty domains, and the loss (R482). -/
def Cloche.energies (c : Cloche) (raw : List Nat) (ns : Nat) : List Nat := (List.range 20).map (c.calibrated raw ns)
def lossOf (e : List Nat) : Nat := nth e 19 0 - (e.take 19).sum

/-- Metered energy is counted (R484). -/
def Cloche.meter (c : Cloche) (e : List Nat) : Cloche :=
  { c with totalNj := (c.totalNj + (e.take 19).sum + lossOf e) % (1000 * 2 ^ 64) }

/-- Attribution of a window (R482). -/
def Cloche.attribute (c : Cloche) (raw : List Nat) (ns : Nat) : Cloche :=
  let e := c.energies raw ns
  let at_ := fun (ds : List Nat) => (ds.map (fun d => nth e d 0)).sum
  let c := c.meter e
  let un := lossOf e + nth e 16 0
  let step := fun (a : Cloche × Nat) (ds : List Nat) (p : Nat × Nat → Bool) =>
    a.1.share a.2 (at_ ds) (a.1.idleNj ds ns) (a.1.quantities p)
  let a := (List.range 4).foldl (fun a d => step a [d] (fun k => k.1 = 1 && k.2 = d)) (c, un)
  let a := step a (rangeFrom 4 8) (fun k => k.1 = 2)
  let a := step a (rangeFrom 12 4) (fun k => k.1 = 3)
  let a := (List.range 2).foldl (fun a k => step a [17 + k] (fun x => (x.1 = 5 || x.1 = 6) && x.2 = 5 + k)) a
  a.1.addEnergy 0xFFFF a.2

/-- Energy that R483 leaves unattributed. -/
def Cloche.unattributed (c : Cloche) (raw : List Nat) (ns : Nat) : Cloche :=
  let e := c.energies raw ns
  let c := (c.meter e).addEnergy 0xFFFF ((e.take 19).sum + lossOf e)
  { c with unattrib := satAdd 32 c.unattrib 1 }

/-- A snapshot is taken at the first LAST frame accepted after the mark (R485). -/
def Cloche.snapIfDue (c : Cloche) : Cloche := if c.due then { c with due := false, snap := some c.sets } else c

/-- FEED_FRAME_RECEIVE (R480, R482, R483): `energy` is the sample energy of each domain and `elapsedNs` the time, both
since the previous accepted LAST frame or the feed's going down, as the Cloche measured them. -/
def execFeedFrameReceive (frame : List Byte) (energy : List Nat) (elapsedNs : Nat) (s : State) : Host.Outcome State Fault Refusal :=
  let s := { s with feed := { s.feed with line := s.feed.line.drop 1 } }
  let c := s.cloche
  if !c.on then .next s
  else
    let h := ofBytes (frame.take 16)
    let n := fld h 4 2
    let ok := decide (n ≤ 512) && frame.length = 20 + 16 * n &&
      ofBytes (frame.drop (16 + 16 * n)) = crc32c (frame.take (16 + 16 * n)) && fld h 8 8 = c.uid
    if !ok then .next { s with cloche := { c with framesLost := satAdd 32 c.framesLost 1, rejected := true } }
    else
      let rs := feedRecords n (frame.drop 16)
      let w := fld h 0 4
      let last := bit h 48
      let seen := bit h 49
      let c := rs.foldl Cloche.count { c with framesOk := satAdd 32 c.framesOk 1, lc := fld h 7 1 }
      let c := if c.winNo = w then { c with win := c.win ++ rs } else { c with winNo := w, win := rs }
      if !last then .next { s with cloche := c }
      else
        let follows := seen || (match c.lastWindow with
          | some p => decide ((p + 1) % 2 ^ 32 = w)
          | none => false)
        let c := if !follows || c.rejected || c.down then c.unattributed energy elapsedNs else c.attribute energy elapsedNs
        let c := { c with lastWindow := some w, lastAt := c.time, down := false, rejected := false, win := [] }
        .next { s with cloche := c.snapIfDue }

/-- FEED_DOWN (R483): no LAST frame accepted for 1 ms. -/
def execFeedDown (energy : List Nat) (s : State) : Host.Outcome State Fault Refusal :=
  let c := s.cloche
  if !c.on || c.down || c.time ≤ c.lastAt + 1000000 then .next s
  else
    let c := { c.unattributed energy (c.time - c.lastAt) with down := true, feedDownSeen := true }
    .next { s with cloche := c.snapIfDue }

/-- Time passes on the Cloche's oscillator, 10 ns to the tick; at the 60 s mark a snapshot is due, and taken at once
when the feed is down (R485). -/
def Cloche.tick (c : Cloche) : Cloche :=
  if !c.on then c
  else
    let c := { c with time := c.time + 10 }
    if c.time < c.mark then c
    else
      let c := { c with mark := c.mark + 60000000000, due := true }
      if c.down then c.snapIfDue else c

/-! ## Records and the audit log (R485 to R489) -/

/-- Metered energy behind a table of counter sets: every joule lands in exactly one of them (R484). -/
def totalOf (t : Tbl CSet) : Nat := (t.map (fun (e : Nat × CSet) => e.2.energyNj)).sum % (1000 * 2 ^ 64)

/-- Bytes 0x00 to 0x8D of a record (R485). TOTAL_UJ is that of the snapshot, so that R484's check holds for it. -/
def Cloche.recordBody (c : Cloche) (no : Nat) (snap : Tbl CSet) : List Byte :=
  let flags := b2n c.sealBroken + 2 * b2n c.feedDownSeen + 4 * b2n c.restarted + 8 * b2n c.paramChanged + 16 * b2n c.fwChange
    + 32 * b2n c.overflow
  toBytes 2 1 ++ toBytes 1 flags ++ toBytes 1 c.lc ++ toBytes 4 c.fw ++ toBytes 8 no ++ toBytes 8 c.uid
    ++ toBytes 8 (c.time / 1000000000) ++ toBytes 2 c.fwCount ++ toBytes 2 c.log.length ++ toBytes 4 c.logGen
    ++ toBytes 8 (totalOf snap / 1000) ++ toBytes 8 ((Tbl.getD snap 0xFFFF {}).energyNj / 1000) ++ toBytes 4 c.framesOk
    ++ toBytes 4 c.framesLost ++ toBytes 4 c.unattrib ++ toBytes 4 0 ++ toBytes 32 (shake256 (snapBytes snap)) ++ toBytes 32 c.digest
    ++ toBytes 6 0

/-- A record is signed from a snapshot: 1,440 records and two snapshots are held (R485, R486). -/
def Cloche.signRecord (c : Cloche) (snap : Tbl CSet) : Cloche :=
  let no := c.recordNo + 1
  let b := c.recordBody no snap
  let rec_ := ofBytes (b ++ (Config.sign c.key b).take 114)
  { c with recordNo := no, records := ((no, rec_) :: c.records).take 1440, snaps := ((no, snap) :: c.snaps).take 2, snap := none,
           framesOk := 0, framesLost := 0, unattrib := 0, feedDownSeen := false, restarted := false, paramChanged := false,
           fwChange := false }

/-- RECORD_SIGN (R485): once the snapshot of the last 60 s mark is taken. -/
def execRecordSign (s : State) : Host.Outcome State Fault Refusal :=
  match s.cloche.snap with
  | none => .next s
  | some t => if !s.cloche.on then .next s else .next { s with cloche := s.cloche.signRecord t }

/-- An audit entry of R489. -/
def Cloche.auditEntry (c : Cloche) (seq kind signer param old new tag : Nat) : Nat :=
  withCrc (seq + kind * 2 ^ 32 + signer * 2 ^ 40 + param % 65536 * 2 ^ 48 + c.recordNo * 2 ^ 64
    + c.time / 1000000000 * 2 ^ 128 + old % 2 ^ 64 * 2 ^ 192 + new % 2 ^ 64 * 2 ^ 256 + tag % 2 ^ 64 * 2 ^ 320) 64

/-- Append an entry and advance the chain digest (R489). -/
def Cloche.append (c : Cloche) (kind signer param old new tag : Nat) : Cloche :=
  let e := c.auditEntry c.log.length kind signer param old new tag
  { c with log := c.log ++ [e], digest := shake256 (toBytes 32 c.digest ++ toBytes 64 e) }

/-- An unrequested event: not logged when all 4,096 entries are in use (R489). -/
def Cloche.appendEvent (c : Cloche) (kind old new : Nat) : Cloche :=
  if c.log.length < 4096 then c.append kind 0 0 old new 0 else { c with overflow := true }

/-- The counter sets of the latest record's snapshot. -/
def Cloche.savedSets (c : Cloche) : Tbl CSet :=
  match c.snaps with
  | [] => []
  | x :: _ => x.2

/-- A restart (R487): every counter set, and TOTAL_UJ with them (R484), is restored from the snapshot of the latest record,
the loss declared. -/
def Cloche.restart (c : Cloche) (why : Nat) : Cloche :=
  let c := { c with on := true, sets := c.savedSets, totalNj := totalOf c.savedSets, restarted := true, nonce := none, addr := none, resp := [],
                    win := [], lastWindow := none, lastAt := c.time, down := false, rejected := false, due := false, snap := none,
                    framesOk := 0, framesLost := 0, unattrib := 0, mark := c.time + 60000000000 }
  c.appendEvent 8 why 0

/-- CLOCHE_RESTART (R487): on return of the supply, on CL_RESET_N while it runs, or on activation, which FW_COMMIT
performs itself. -/
def execClocheRestart (why : RestartWhy) (s : State) : Host.Outcome State Fault Refusal :=
  match why, s.cloche.on with
  | .supply, false => .next { s with cloche := s.cloche.restart 1 }
  | .pin, true => .next { s with cloche := s.cloche.restart 2 }
  | _, _ => .next s

/-- CL_VAUX_LOSS (R475): the Cloche stops counting and answering. -/
def execClVauxLoss (s : State) : Host.Outcome State Fault Refusal :=
  .next { s with cloche := { s.cloche with on := false, addr := none, resp := [], nonce := none } }

/-- SEAL_BROKEN (R491): logged, and flagged in every later record. -/
def execSealBroken (s : State) : Host.Outcome State Fault Refusal :=
  if !s.cloche.on then .next s
  else .next { s with cloche := { s.cloche.appendEvent 6 0 0 with sealBroken := true, loopOpen := true } }

/-! ## The I3C port (R492, R493) -/

def clOk : Nat := 0
def clBadSignature : Nat := 1
def clBadNonce : Nat := 2
def clBadKey : Nat := 3
def clRange : Nat := 4
def clLogFull : Nat := 5
def clGone : Nat := 6
def clCountExhausted : Nat := 7

/-- The Cloche answers with a status byte and a response. -/
def State.clAnswer (s : State) (st : Nat) (bs : List Byte) : State :=
  { s with cloche := { s.cloche with resp := BitVec.ofNat 8 st :: bs } }

/-- CL_DYNAMIC_ADDRESS (R492): by SETDASA from 0x4C, or by ENTDAA. -/
def execClDynamicAddress (setdasa : Bool) (addr : BitVec 7) (s : State) : Host.Outcome State Fault Refusal :=
  if !s.cloche.on then .next s else .next { s with cloche := { s.cloche with addr := some addr.toNat } }

/-- CL_IDENTIFY (R492). -/
def execClIdentify (s : State) : Host.Outcome State Fault Refusal :=
  let c := s.cloche
  if !c.on then .next s
  else .next (s.clAnswer clOk (toBytes 8 c.uid ++ toBytes 4 c.fw ++ toBytes 2 c.fwCount ++ toBytes 4 c.logGen ++ toBytes 2 c.log.length
    ++ toBytes 8 c.recordNo ++ toBytes 57 c.pubKey))

/-- CERT_READ (R492): 1 to 256 bytes of the certificate chain. -/
def execCertRead (off : BitVec 32) (len : BitVec 16) (s : State) : Host.Outcome State Fault Refusal :=
  let c := s.cloche
  if !c.on then .next s
  else if len = 0#16 || 256 < len.toNat || c.cert.length < off.toNat + len.toNat then .next (s.clAnswer clRange [])
  else .next (s.clAnswer clOk ((c.cert.drop off.toNat).take len.toNat))

/-- RECORD_READ (R486, R492): 0 names the latest; GONE when it is no longer held. -/
def execRecordRead (no : BitVec 64) (s : State) : Host.Outcome State Fault Refusal :=
  let c := s.cloche
  if !c.on then .next s
  else match (if no = 0#64 then c.records.head? else c.records.find? (fun r => r.1 = no.toNat)) with
    | some r => .next (s.clAnswer clOk (toBytes 256 r.2))
    | none => .next (s.clAnswer clGone [])

/-- SNAPSHOT_READ (R486). -/
def execSnapshotRead (no : BitVec 64) (first count : BitVec 16) (s : State) : Host.Outcome State Fault Refusal :=
  let c := s.cloche
  if !c.on then .next s
  else if count = 0#16 || 64 < count.toNat || 65536 < first.toNat + count.toNat then .next (s.clAnswer clRange [])
  else match c.snaps.find? (fun x => x.1 = no.toNat) with
    | some x => .next (s.clAnswer clOk ((rangeFrom first.toNat count.toNat).flatMap (fun i => (Tbl.getD x.2 i {}).bytes)))
    | none => .next (s.clAnswer clGone [])

/-- LIVE_READ (R492). -/
def execLiveRead (tenant : BitVec 16) (s : State) : Host.Outcome State Fault Refusal :=
  if !s.cloche.on then .next s else .next (s.clAnswer clOk (s.cloche.set tenant.toNat).bytes)

/-- LOG_READ (R492): an audit entry of this generation. -/
def execLogRead (seq : BitVec 16) (s : State) : Host.Outcome State Fault Refusal :=
  if !s.cloche.on then .next s
  else match s.cloche.log[seq.toNat]? with
    | some e => .next (s.clAnswer clOk (toBytes 64 e))
    | none => .next (s.clAnswer clRange [])

/-- NONCE_GET (R492): good for the next signed command only. -/
def execNonceGet (s : State) : Host.Outcome State Fault Refusal :=
  if !s.cloche.on then .next s
  else
    let n := (Config.nonce s.fresh).toNat
    .next ({ s.draw with cloche := { s.cloche with nonce := some n } }.clAnswer clOk (toBytes 16 n))

/-! ## Signed commands (R488, R493) -/

def scCmd (c : BitVec 2080) : Nat := fld c.toNat 0 1
def scSigner (c : BitVec 2080) : Nat := fld c.toNat 1 1
def scParam (c : BitVec 2080) : Nat := fld c.toNat 2 2
def scArg (c : BitVec 2080) : Nat := fld c.toNat 8 64
def scNonce (c : BitVec 2080) : Nat := fld c.toNat 0x48 16
def scKey (c : BitVec 2080) : Nat := fld c.toNat 0x58 57
def scSig (c : BitVec 2080) : List Byte := toBytes 114 (fld c.toNat 0x92 114)

/-- SHAKE256 of a public key of 57 bytes. -/
def keyDigest (k : Nat) : Nat := shake256 (toBytes 57 k)
/-- KEY_TAG (R489). -/
def keyTag (k : Nat) : Nat := keyDigest k % 2 ^ 64

/-- The signer's key is permitted: the authority by its digest, the operator by its key (R488). -/
def Cloche.keyOk (c : Cloche) (x : BitVec 2080) (operator authority : Bool) : Bool :=
  (operator && scSigner x = 1 && scKey x = c.opKey) || (authority && scSigner x = 2 && keyDigest (scKey x) = c.authDigest)

/-- The reserved bytes of a signed command, its ARG from byte `used` on, and PARAM where the command has none are zero
(R493). -/
def scZero (x : BitVec 2080) (used : Nat) (param : Bool) : Bool :=
  fld x.toNat 4 4 == 0 && fld x.toNat 0x91 1 == 0 && scArg x / 2 ^ (8 * used) == 0 && (param || scParam x == 0)

/-- R493's checks in their order, then the log's room (R489): the status. -/
def Cloche.signedStatus (c : Cloche) (x : BitVec 2080) (cmd : Nat) (operator authority range needsRoom : Bool) : Nat :=
  if c.nonce ≠ some (scNonce x) then clBadNonce
  else if !(c.keyOk x operator authority) then clBadKey
  else if !(Config.sigOk (keyDigest (scKey x)) (toBytes 8 c.uid ++ toBytes 0x92 x.toNat) (scSig x)) then clBadSignature
  else if !range || scCmd x ≠ cmd then clRange
  else if needsRoom && decide (4032 ≤ c.log.length) then clLogFull
  else clOk

/-- Run a signed command: the nonce is spent; a failure leaves no trace but its status. -/
def State.signed (s : State) (st : Nat) (f : Cloche → Cloche) : State :=
  if !s.cloche.on then s
  else
    let s := { s with cloche := { s.cloche with nonce := none } }
    if st ≠ clOk then s.clAnswer st [] else { s with cloche := f s.cloche }.clAnswer clOk []

/-- Budget of a domain in mW (R476). -/
def budgetMw (d : Nat) : Nat :=
  if d < 4 then 360000 else if d < 12 then 42000 else if d < 16 then 18000 else if d = 16 then 95000
  else if d < 19 then 115000 else 2400000

/-- Value of a parameter as it stands, and the range its new value must lie in (R488). -/
def Cloche.paramOld (c : Cloche) (p : Nat) : Nat :=
  if p < 20 then Tbl.getD c.gain p (2 ^ 30)
  else if 0x100 ≤ p && p < 0x114 then ofInt 64 (Tbl.getD c.offset (p - 0x100) 0)
  else Tbl.getD c.idle (p - 0x200) 0
def paramRange (p v : Nat) : Bool :=
  if p < 20 then decide (9 * 2 ^ 30 ≤ 10 * v) && decide (10 * v ≤ 11 * 2 ^ 30)
  else if 0x100 ≤ p && p < 0x114 then decide (-5000 ≤ toSigned 64 v) && decide (toSigned 64 v ≤ 5000)
  else if 0x200 ≤ p && p < 0x213 then decide (v ≤ budgetMw (p - 0x200))
  else false
def Cloche.paramSet (c : Cloche) (p v : Nat) : Cloche :=
  if p < 20 then { c with gain := Tbl.put c.gain p v }
  else if p < 0x200 then { c with offset := Tbl.put c.offset (p - 0x100) (toSigned 64 v) }
  else { c with idle := Tbl.put c.idle (p - 0x200) v }

/-- PARAM_SET (R488): signed by the authority. -/
def execParamSet (x : BitVec 2080) (s : State) : Host.Outcome State Fault Refusal :=
  let p := scParam x
  let v := scArg x % 2 ^ 64
  .next (s.signed (s.cloche.signedStatus x 0x10 false true (paramRange p v && scZero x 8 true) true) (fun c =>
    { (c.append 1 2 p (c.paramOld p) v (keyTag (scKey x))).paramSet p v with paramChanged := true }))

/-- LABEL_SET (R488): signed by the operator. -/
def execLabelSet (x : BitVec 2080) (s : State) : Host.Outcome State Fault Refusal :=
  let tn := scParam x
  let v := scArg x % 2 ^ 64
  .next (s.signed (s.cloche.signedStatus x 0x11 true false (scZero x 8 true) true) (fun c =>
    (c.append 2 1 tn (c.set tn).label v (keyTag (scKey x))).updSet tn (fun t => { t with label := v })))

/-- KEY_SET (R488): signed by the authority or the current operator. -/
def execKeySet (x : BitVec 2080) (s : State) : Host.Outcome State Fault Refusal :=
  let k := scArg x % 2 ^ 456
  .next (s.signed (s.cloche.signedStatus x 0x12 true true (scZero x 57 false) true) (fun c =>
    { c.append 3 (scSigner x) 0 c.opKey k (keyTag k) with opKey := k }))

/-- ARCHIVE (R489): a new generation whose entry 0 is the ARCHIVE entry. -/
def execArchive (x : BitVec 2080) (s : State) : Host.Outcome State Fault Refusal :=
  .next (s.signed (s.cloche.signedStatus x 0x13 false true (scZero x 0 false) false) (fun c =>
    { c with log := [], logGen := (c.logGen + 1) % 2 ^ 32, overflow := false }.append 4 2 0 0 0 (keyTag (scKey x))))

/-- RESEAL (R491): clears SEAL_BROKEN, only while the loop reads closed. -/
def execReseal (x : BitVec 2080) (loopClosed : Bool) (s : State) : Host.Outcome State Fault Refusal :=
  let s := if s.cloche.on then { s with cloche := { s.cloche with loopOpen := !loopClosed } } else s
  .next (s.signed (s.cloche.signedStatus x 0x14 false true (loopClosed && scZero x 0 false) true) (fun c =>
    { c.append 5 2 0 0 0 (keyTag (scKey x)) with sealBroken := false }))

/-- FW_CHUNK (R490): 1 to 256 bytes into the inactive half. -/
def execFwChunk (off : BitVec 32) (data : List Byte) (s : State) : Host.Outcome State Fault Refusal :=
  if !s.cloche.on then .next s
  else if data.length = 0 || 256 < data.length then .next (s.clAnswer clRange [])
  else .next ({ s with cloche := { s.cloche with half := memPut id s.cloche.half off.toNat data } }.clAnswer clOk [])

/-- FW_COMMIT (R490): digest and signature, the count, the log entry, a record with FW_CHANGE, then the restart. -/
def execFwCommit (x : BitVec 2080) (s : State) : Host.Outcome State Fault Refusal :=
  let c := s.cloche
  let dig := scArg x % 2 ^ 256
  let ver := bits (scArg x) 256 32
  let len := bits (scArg x) 288 32
  let img := (List.range len).map (memGet c.half)
  let st := c.signedStatus x 0x21 false true (scZero x 40 false) true
  let st := if st ≠ clOk then st else if shake256 img ≠ dig then clBadSignature
    else if 255 ≤ c.fwCount then clCountExhausted else clOk
  .next (s.signed st (fun c =>
    let c := { c with fwCount := c.fwCount + 1 }.append 7 2 0 c.fw ver (keyTag (scKey x))
    let c := { c with fwChange := true }.signRecord c.sets
    { c with otherFw := c.fw, fw := ver, half := [] }.restart 3))

end Sys2Proof.Machine
end

