-- ==== Sys2Proof/Machine/Security.lean ====
section
/-!
DEFINITION. Sys2Proof/Machine/Security.lean: boot images, identity, life cycle, SPDM and IDE_KM (R495 to R502, R507).

The codes of SPDM 1.3 requests and responses come from that standard, which the spec names (notes/assumptions/27.md).
-/
namespace Sys2Proof.Machine

/-! ## Boot images (R496) -/

/-- Bytes of the boot flash. -/
def State.qspiBytes (s : State) (a n : Nat) : List Byte := (rangeFrom a n).map (memGet s.sec.qspi)
def State.qspiPut (s : State) (a : Nat) (bs : List Byte) : State :=
  { s with sec := { s.sec with qspi := memPut id s.sec.qspi a bs } }

/-- Flash offset of a slot. -/
def slotBase (slot : Nat) : Nat := slot * 0x2000000
/-- Flash offset of the boot-select block. -/
def bootSelect : Nat := 0x4000000

/-- Fields of a header (R496). -/
def hdKey (h : Nat) : Nat := fld h 0x05 1
def hdVersion (h : Nat) : Nat := fld h 0x08 4
def hdSvn (h : Nat) : Nat := fld h 0x0C 4
def hdLength (h : Nat) : Nat := fld h 0x10 8
def hdLoad (h : Nat) : Nat := fld h 0x18 8
def hdDigest (h : Nat) : Nat := fld h 0x20 32

/-- KEY_ID is permitted in a life-cycle state (R501). -/
def keyPermitted (lc k : Nat) : Bool :=
  if lc = 2 || lc = 3 || lc = 5 then k = 1 || k = 2 else if lc = 4 then k = 1 else false

/-- LENGTH and LOAD lie where the table of R496 allows. -/
def hdPlaced (h stage : Nat) : Bool :=
  if stage = 1 then decide (hdLength h ≤ 0x7FFF00) && decide (0x28001000000 ≤ hdLoad h) && decide (hdLoad h + hdLength h ≤ 0x28002000000)
  else decide (hdLength h ≤ 0x17FFF00) && regionOf (hdLoad h) = .t2sys

/-- The OTP counter of a stage. -/
def Otp.svn (o : Otp) (stage : Nat) : Nat := if stage = 1 then o.firstSvn else o.mainSvn

/-- R496: the status of a stage's first failing check; header and body bytes as they lie in the image. -/
def Otp.stageStatus (o : Otp) (hdr : List Byte) (body : Nat → List Byte) (stage : Nat) : Nat :=
  let h := ofBytes hdr
  let dig := if hdKey h = 1 then o.relDigest else o.preDigest
  if fld h 0 4 ≠ 0x52494E58 || fld h 4 1 ≠ stage || !(hdPlaced h stage) || 63 < hdSvn h then Stat.checkFailed
  else if !(keyPermitted o.lc (hdKey h)) then Stat.checkFailed
  else if !(Config.sigOk dig (hdr.take 0x8E) ((hdr.drop 0x8E).take 114)) then Stat.checkFailed
  else if hdSvn h < o.svn stage then Stat.versionStale
  else if shake256 (body (hdLength h)) ≠ hdDigest h then Stat.checkFailed
  else Stat.ok

/-- Flash offset of a stage's header in a slot. -/
def stageAt (slot stage : Nat) : Nat := slotBase slot + if stage = 1 then 0 else 0x800000

/-- Header of a stage in a slot. -/
def State.slotHdr (s : State) (slot stage : Nat) : Nat := ofBytes (s.qspiBytes (stageAt slot stage) 256)

/-- Status of a stage in a slot. -/
def State.slotStage (s : State) (slot stage : Nat) : Nat :=
  s.sec.otp.stageStatus (s.qspiBytes (stageAt slot stage) 256) (s.qspiBytes (stageAt slot stage + 256)) stage

/-- Status of a slot: both its stages must pass. -/
def State.slotStatus (s : State) (slot : Nat) : Nat :=
  let a := s.slotStage slot 1
  if a ≠ Stat.ok then a else s.slotStage slot 2

/-- The boot-select block (R496; fields placed by notes/assumptions/29.md): active slot, COMP_UNITS, reset count, CRC. -/
def State.bootBlock (s : State) : Nat := ofBytes (s.qspiBytes bootSelect 16)
def State.bootBlockOk (s : State) : Bool := crcOk s.bootBlock 16
/-- A block whose CRC fails names slot A, counts 0 and gives the default COMP_UNITS (R496, R516, R520). -/
def State.activeSlot (s : State) : Nat := if s.bootBlockOk then fld s.bootBlock 0 1 % 2 else 0
def State.bootUnits (s : State) : Nat := if s.bootBlockOk then fld s.bootBlock 1 1 else 4
def State.resetCount (s : State) : Nat := if s.bootBlockOk then fld s.bootBlock 4 8 else 0
/-- Rewrite the block. -/
def State.writeBootBlock (s : State) (slot units count : Nat) : State :=
  s.qspiPut bootSelect (toBytes 16 (withCrc (slot + units * 256 + count % 2 ^ 64 * 2 ^ 32) 16))

/-- The slot that boots: the active one, then the other (R496). -/
def State.bootSlot? (s : State) : Option Nat :=
  let a := s.activeSlot
  if s.slotStatus a = Stat.ok then some a else if s.slotStatus (1 - a) = Stat.ok then some (1 - a) else none

/-! ## Keys and measurements (R497) -/

/-- The alias key pair's seed, from the UDS and the measurements. -/
def aliasOf (uds mr1 mr2 mr3 : Nat) : Nat :=
  let cdi := shake256 (toBytes 32 uds ++ toBytes 32 mr1 ++ toBytes 32 mr3)
  shake256 (toBytes 32 cdi ++ toBytes 32 mr2)

/-- The DeviceID key pair's seed: SHAKE256 of the UDS and "DEVID" (R497). -/
def deviceKey (uds : Nat) : Nat := shake256 (toBytes 32 uds ++ toBytes 5 0x4449564544)

/-- The alias certificate: the alias public key, signed with the DeviceID key (R497). -/
def aliasCertOf (uds alias_ : Nat) : List Byte :=
  let k := toBytes 57 (Config.publicKey alias_)
  k ++ (Config.sign (deviceKey uds) k).take 114

/-- MR3: life cycle, FIRST_SVN, MAIN_SVN, both KEY_IDs and the boot slot, one byte each. -/
def mr3Of (lc first main k1 k2 slot : Nat) : Nat := shake256 ([lc, first, main, k1, k2, slot].flatMap (toBytes 1))

/-- Attestation is possible: the life cycle gives a DeviceID certificate and the alias key stands (R501). -/
def State.attests (s : State) : Bool := (s.sec.otp.lc = 3 || s.sec.otp.lc = 4) && s.sec.certs && s.sec.alias_ ≠ 0

/-! ## Life-cycle transitions (R502) -/

/-- A token of 192 bytes holds for a target on this device in this boot. -/
def State.tokenOk (s : State) (target : Nat) (t : BitVec 1536) : Bool :=
  let w := t.toNat
  let dig := if fld w 32 1 = 1 then s.sec.otp.relDigest else s.sec.otp.preDigest
  fld w 0 2 = 0x4C43 && fld w 2 1 = target && fld w 3 5 = 0 && fld w 8 8 = s.sec.otp.uid && fld w 16 16 = s.sec.nonce &&
    (fld w 32 1 = 1 || fld w 32 1 = 2) && fld w 33 45 = 0 && Config.sigOk dig (toBytes 78 w) (toBytes 114 (fld w 78 114))

/-- R502's table: the status of a transition asked for over JTAG or by RMP. -/
def State.transitionStatus (s : State) (jtag : Bool) (target : Nat) (token : BitVec 1536) : Nat :=
  let lc := s.sec.otp.lc
  if target = 6 && lc ≠ 6 then Stat.ok
  else if lc = 1 && target = 2 && jtag then Stat.ok
  else if lc = 2 && target = 3 then
    if s.tokenOk 3 token && s.sec.otp.keysDone then Stat.ok else Stat.checkFailed
  else if lc = 3 && target = 4 && !jtag then Stat.ok
  else if (lc = 3 || lc = 4) && target = 5 && !jtag then if s.tokenOk 5 token then Stat.ok else Stat.checkFailed
  else Stat.wrongState

/-- The fuse word is programmed, secure SRAM wiped and the device reset; RETURN locks the UDS for good (R501, R502). -/
def State.transition (s : State) (target : Nat) : State :=
  let s := { s with sec := { s.sec with otp := { s.sec.otp with lc := target, udsGone := s.sec.otp.udsGone || decide (target = 5) } } }
  s.wipe.deviceReset 3 true

/-- JTAG_LC_TRANSITION (R502). -/
def execJtagLcTransition (target : BitVec 8) (token : BitVec 1536) (s : State) : Host.Outcome State Fault Refusal :=
  if !s.boot.good || !s.boot.released then .next s
  else if s.transitionStatus true target.toNat token = Stat.ok then .next (s.transition target.toNat)
  else .next s

/-! ## The SPDM responder (R499) -/

def State.spdm (s : State) (ld : Nat) : Spdm := Tbl.getD s.sec.spdm ld {}
def State.updSpdm (s : State) (ld : Nat) (f : Spdm → Spdm) : State :=
  { s with sec := { s.sec with spdm := Tbl.upd s.sec.spdm ld {} f } }

/-- The responder answers with a response code and its payload. -/
def State.spdmAnswer (s : State) (ld code : Nat) (bs : List Byte) : State := s.updSpdm ld (fun r => { r with resp := (code, bs) })
/-- ERROR with an error code. -/
def State.spdmError (s : State) (ld e : Nat) : State := s.spdmAnswer ld 0x7F (toBytes 2 e)

/-- A DOE mailbox is there to be asked: the device runs, the port has its link and configuration space and presents the
LD, and this is no recovery boot, which has no DOE (R399, R403, R456, R499, R549). -/
def State.doe (s : State) (ld : Nat) : Bool :=
  s.live && s.cxl.state = 2 && s.cxl.cfgReady && s.devState ≠ .recovery && s.presents ld

/-- A request before version, capabilities and algorithms are agreed is unexpected. -/
def State.spdmAt (s : State) (ld stage : Nat) (f : State → State) : State :=
  if !s.doe ld then s else if (s.spdm ld).stage < stage then s.spdmError ld 0x04 else f s

/-- GET_VERSION (R499): SPDM 1.3; the agreement starts anew. -/
def execGetVersion (ld : Fin 17) (s : State) : Host.Outcome State Fault Refusal :=
  if !s.doe ld.val then .next s
  else .next ((s.updSpdm ld.val (fun r => { r with stage := 1 })).spdmAnswer ld.val 0x04 (toBytes 1 1 ++ toBytes 2 0x1300))

/-- Capabilities: CERT, CHAL, MEAS with signature, ENCRYPT, MAC, KEY_EX, HBEAT, KEY_UPD (R499), in SPDM's bit places. -/
def spdmCaps : Nat := 2 ^ 1 + 2 ^ 2 + 2 ^ 4 + 2 ^ 6 + 2 ^ 7 + 2 ^ 9 + 2 ^ 13 + 2 ^ 14

/-- GET_CAPABILITIES (R499). -/
def execGetCapabilities (ld : Fin 17) (s : State) : Host.Outcome State Fault Refusal :=
  .next (s.spdmAt ld.val 1 (fun s => (s.updSpdm ld.val (fun r => { r with stage := Nat.max 2 r.stage })).spdmAnswer ld.val 0x61 (toBytes 4 spdmCaps)))

/-- NEGOTIATE_ALGORITHMS (R499): Ed448 and SHA3-512, or none. -/
def execNegotiateAlgorithms (ld : Fin 17) (a : SpdmAlgs) (s : State) : Host.Outcome State Fault Refusal :=
  .next (s.spdmAt ld.val 2 (fun s =>
    if a.ed448 && a.sha3 then (s.updSpdm ld.val (fun r => { r with stage := 3 })).spdmAnswer ld.val 0x63 [1#8, 1#8]
    else s.spdmError ld.val 0x01))

/-- The certificate chain of slot 0: the identity area's certificate and the alias certificate of this boot (R497). -/
def State.certChain (s : State) : List Byte := s.qspiBytes 0x4010000 0x10000 ++ s.sec.aliasCert

/-- GET_DIGESTS (R499). -/
def execGetDigests (ld : Fin 17) (s : State) : Host.Outcome State Fault Refusal :=
  .next (s.spdmAt ld.val 3 (fun s =>
    if !s.attests then s.spdmError ld.val 0x07 else s.spdmAnswer ld.val 0x01 (toBytes 64 (sha3_512 s.certChain))))

/-- GET_CERTIFICATE (R499): slot 0. -/
def execGetCertificate (ld : Fin 17) (slot off len : Nat) (s : State) : Host.Outcome State Fault Refusal :=
  .next (s.spdmAt ld.val 3 (fun s =>
    if !s.attests then s.spdmError ld.val 0x07
    else if slot ≠ 0 || s.certChain.length < off then s.spdmError ld.val 0x01
    else s.spdmAnswer ld.val 0x02 ((s.certChain.drop off).take len)))

/-- CHALLENGE (R499): signed with the alias key. -/
def execChallenge (ld : Fin 17) (slot : Nat) (nonce : BitVec 256) (s : State) : Host.Outcome State Fault Refusal :=
  .next (s.spdmAt ld.val 3 (fun s =>
    if !s.attests then s.spdmError ld.val 0x07
    else if slot ≠ 0 then s.spdmError ld.val 0x01
    else
      let m := toBytes 32 nonce.toNat ++ toBytes 64 (sha3_512 s.certChain)
      s.spdmAnswer ld.val 0x03 (m ++ (Config.sign s.sec.alias_ m).take 114)))

/-- A measurement by index (R499): 1 to 4 are MR0 to MR3, 5 the SHAKE256 digest of the current configuration image. -/
def State.measurement (s : State) (i : Nat) : List Byte :=
  if i = 5 then toBytes 32 (shake256 (match s.cfg.current with
    | some c => c.bytes
    | none => []))
  else toBytes 32 (Tbl.getD s.sec.mr (i - 1) 0)

/-- GET_MEASUREMENTS (R499): index 0 asks how many there are, 0xFF for all. -/
def execGetMeasurements (ld : Fin 17) (index : Nat) (signed : Bool) (nonce : BitVec 256) (s : State) : Host.Outcome State Fault Refusal :=
  .next (s.spdmAt ld.val 3 (fun s =>
    if (5 < index && index ≠ 0xFF) then s.spdmError ld.val 0x01
    else if signed && !s.attests then s.spdmError ld.val 0x07
    else
      let b := if index = 0 then [5#8] else if index = 0xFF then (rangeFrom 1 5).flatMap (fun i => BitVec.ofNat 8 i :: s.measurement i)
        else BitVec.ofNat 8 index :: s.measurement index
      let m := b ++ toBytes 32 nonce.toNat
      s.spdmAnswer ld.val 0x60 (if signed then m ++ (Config.sign s.sec.alias_ m).take 114 else b)))

/-- KEY_EXCHANGE (R499): at most four sessions; this end's half of the session ID is the lowest free number from 1. -/
def execKeyExchange (ld : Fin 17) (slot : Nat) (sid : BitVec 16) (share : BitVec 768) (s : State) : Host.Outcome State Fault Refusal :=
  .next (s.spdmAt ld.val 3 (fun s =>
    let r := s.spdm ld.val
    if !s.attests then s.spdmError ld.val 0x07
    else if slot ≠ 0 then s.spdmError ld.val 0x01
    else match firstFrom (fun h => !(r.sessions.any (fun x => x.sid / 65536 = h))) 4 1 with
      | none => s.spdmError ld.val 0x0A
      | some h =>
        let id := sid.toNat + 65536 * h
        let sec := Config.spdmKey [id, share.toNat, s.fresh]
        let m := toBytes 2 h ++ toBytes 64 sec
        ((s.draw).updSpdm ld.val (fun r => { r with sessions := { sid := id, secret := sec } :: r.sessions })).spdmAnswer ld.val 0x64
          (m ++ (Config.sign s.sec.alias_ m).take 114)))

def Spdm.session? (r : Spdm) (sid : Nat) : Option Session := r.sessions.find? (fun x => x.sid = sid)

/-- Change a session. -/
def State.updSession (s : State) (ld sid : Nat) (f : Session → Session) : State :=
  s.updSpdm ld (fun r => { r with sessions := r.sessions.map (fun x => if x.sid = sid then f x else x) })
def State.dropSession (s : State) (ld sid : Nat) : State :=
  s.updSpdm ld (fun r => { r with sessions := r.sessions.filter (fun x => x.sid ≠ sid) })

/-- FINISH (R499): the session is open when the requester's verify data is right. -/
def execFinish (ld : Fin 17) (sid : BitVec 32) (verify : BitVec 512) (s : State) : Host.Outcome State Fault Refusal :=
  .next (s.spdmAt ld.val 3 (fun s =>
    match (s.spdm ld.val).session? sid.toNat with
    | none => s.spdmError ld.val 0x02
    | some x =>
      if x.up then s.spdmError ld.val 0x04
      else if verify.toNat ≠ Config.spdmKey [x.secret, 1] % 2 ^ 512 then (s.dropSession ld.val sid.toNat).spdmError ld.val 0x06
      else ((s.updSession ld.val sid.toNat (fun x => { x with up := true })).spdmAnswer ld.val 0x65 []).devEvent 0xC3 ld.val sid.toNat 1))

/-- A request that needs an open session. -/
def State.inSession (s : State) (ld sid : Nat) (f : State → Session → State) : State :=
  if !s.doe ld then s
  else match (s.spdm ld).session? sid with
    | some x => if x.up then f s x else s.spdmError ld 0x04
    | none => s.spdmError ld 0x02

/-- HEARTBEAT (R499). -/
def execHeartbeat (ld : Fin 17) (sid : BitVec 32) (s : State) : Host.Outcome State Fault Refusal :=
  .next (s.inSession ld.val sid.toNat (fun s _ => s.spdmAnswer ld.val 0x68 []))

/-- KEY_UPDATE (R499). -/
def execKeyUpdate (ld : Fin 17) (sid : BitVec 32) (s : State) : Host.Outcome State Fault Refusal :=
  .next (s.inSession ld.val sid.toNat (fun s x =>
    (s.updSession ld.val sid.toNat (fun y => { y with updates := y.updates + 1, secret := Config.spdmKey [x.secret, 2] })).spdmAnswer
      ld.val 0x69 []))

/-- END_SESSION (R499, R506). -/
def execEndSession (ld : Fin 17) (sid : BitVec 32) (s : State) : Host.Outcome State Fault Refusal :=
  .next (s.inSession ld.val sid.toNat (fun s _ =>
    ((s.dropSession ld.val sid.toNat).spdmAnswer ld.val 0x6C []).devEvent 0xC3 ld.val sid.toNat 0))

/-! ## IDE_KM (R500) -/

/-- IDE_KM is accepted within a session, on LD 0's DOE, or on the FM-owned LD's when the device is an MLD. -/
def State.ideKm (s : State) (ld sid : Nat) (f : State → State) : State :=
  s.inSession ld sid (fun s _ => if ld = (if s.cxl.mld then 16 else 0) then f s else s.spdmError ld 0x07)

/-- IDE_KM_QUERY (R500): the port's one stream and its sub-streams' key sets. -/
def execIdeKmQuery (ld : Fin 17) (sid : BitVec 32) (s : State) : Host.Outcome State Fault Refusal :=
  .next (s.ideKm ld.val sid.toNat (fun s =>
    s.spdmAnswer ld.val 0x7E ((List.range 8).flatMap (fun k =>
      [BitVec.ofNat 8 (b2n (s.sec.ideKeys.any (fun e => e.1 = 2 * k)) + 2 * b2n (s.sec.ideKeys.any (fun e => e.1 = 2 * k + 1)) +
        4 * (match Tbl.find? s.sec.ideSet k with
          | some v => 1 + v
          | none => 0))]))))

/-- KEY_PROG (R500): a key set is programmed; nothing changes on the line until K_SET_GO. -/
def execKeyProg (ld : Fin 17) (sid : BitVec 32) (sub : Fin 8) (set : Fin 2) (key : BitVec 256) (s : State) : Host.Outcome State Fault Refusal :=
  .next (s.ideKm ld.val sid.toNat (fun s =>
    { s with sec := { s.sec with ideKeys := Tbl.put s.sec.ideKeys (2 * sub.val + set.val) key.toNat } }.spdmAnswer ld.val 0x7E [2#8]))

/-- K_SET_GO (R500, R506): a programmed key set takes effect. -/
def execKSetGo (ld : Fin 17) (sid : BitVec 32) (sub : Fin 8) (set : Fin 2) (s : State) : Host.Outcome State Fault Refusal :=
  .next (s.ideKm ld.val sid.toNat (fun s =>
    if (Tbl.find? s.sec.ideKeys (2 * sub.val + set.val)).isNone then s.spdmError ld.val 0x01
    else ({ s with sec := { s.sec with ideSet := Tbl.put s.sec.ideSet sub.val set.val } }.spdmAnswer ld.val 0x7E [4#8]).devEvent 0xC4
      sub.val set.val 0))

/-- K_SET_STOP (R500): the key set is no longer used. -/
def execKSetStop (ld : Fin 17) (sid : BitVec 32) (sub : Fin 8) (set : Fin 2) (s : State) : Host.Outcome State Fault Refusal :=
  .next (s.ideKm ld.val sid.toNat (fun s =>
    let was := Tbl.find? s.sec.ideSet sub.val
    { s with sec := { s.sec with ideKeys := Tbl.del s.sec.ideKeys (2 * sub.val + set.val),
                                 ideSet := if was = some set.val then Tbl.del s.sec.ideSet sub.val else s.sec.ideSet } }.spdmAnswer
      ld.val 0x7E [4#8]))

end Sys2Proof.Machine
end

