-- ==== Sys2Proof/Machine/Power.lean ====
section
/-!
DEFINITION. Sys2Proof/Machine/Power.lean: power limits, power states, dividers, the local timer unit, the staging
split, temperature and ageing (R508 to R535).
-/
namespace Sys2Proof.Machine

/-! ## The hardware clamp (R509, R511, R521) -/

/-- POWER_CLAMPED (R530): cause, site or 0xFF, 100 µs average. -/
def State.clampEvent (s : State) (cause site : Nat) : State := s.devEvent 0xE0 cause site s.pwr.avg100us

/-- POWER_REPORT (R511): averages of 100 µs, 1 ms and 1 s in mW; above 2,400 W the clamp holds every tile. -/
def execPowerReport (mw100us mw1ms mw1s : Nat) (s : State) : Host.Outcome State Fault Refusal :=
  if !s.live then .next s
  else
    let s := { s with pwr := { s.pwr with avg100us := mw100us, avg1ms := mw1ms, avg1s := mw1s } }
    if mw100us ≤ 2400000 || s.pwr.clampPower then .next s
    else .next (((s.redivide (fun s => { s with pwr := { s.pwr with clampPower := true } })).raise 0x3C1).clampEvent 1 0xFF)

/-- CLAMP_CLR (R511): taken while the 1 ms average is below PCAP and no other cause is present. -/
def execClampClr (s : State) : Host.Outcome State Fault Refusal :=
  if !s.live || !s.pwr.clampPower || s.pwr.clampVin || !s.pwr.clampTherm.isEmpty || 1000 * s.pwr.pcap ≤ s.pwr.avg1ms then .next s
  else .next ((s.redivide (fun s => { s with pwr := { s.pwr with clampPower := false } })).clampEvent 0 0xFF)

/-- VIN_RANGE (R509): the input in mV. Within 44 to 48 V or 60 to 64 V the clamp holds; back in range it goes; beyond,
TAMPER_VOLT trips. -/
def execVinRange (mv : Nat) (s : State) : Host.Outcome State Fault Refusal :=
  if !s.boot.good then .next s
  else if mv < 44000 || 64000 < mv then .next (s.trip 0)
  else if !s.live then .next s
  else if mv < 48000 || 60000 < mv then
    if s.pwr.clampVin then .next s
    else .next (((s.redivide (fun s => { s with pwr := { s.pwr with clampVin := true } })).raise 0x3C0).clampEvent 2 0xFF)
  else if s.pwr.clampVin then .next ((s.redivide (fun s => { s with pwr := { s.pwr with clampVin := false } })).clampEvent 0 0xFF)
  else .next s

/-- PWR_CAP_WRITE (R532): values outside 600 to 2,100 are ignored. -/
def execPwrCapWrite (v : BitVec 32) (s : State) : Host.Outcome State Fault Refusal :=
  let w := bits v.toNat 0 12
  if !s.live || w < 600 || 2100 < w then .next s else .next { s with pwr := { s.pwr with pcap := w } }

/-- Raise FW_DIV of the tiles named by one step. -/
def State.raiseDiv (s : State) (ts : List Nat) : State :=
  s.redivide (fun s => ts.foldl (fun s t => s.updTpwr t (fun p => { p with fwDiv := Nat.min 8 (p.fwDiv + 1) })) s)

/-- A C-tile that runs prefill (R1, R50). -/
def State.prefillTile (s : State) (t : Nat) : Bool :=
  decide (t < 32) && !(s.tile t).lent && (s.cfg.dev.personality = 1 || s.cfg.dev.personality = 4)

/-- R510 at a step boundary while the 1 s average is above PCAP: the prefill C-tiles, then the other tiles, then the
prompt chunks. -/
def State.powerCap (s : State) : State :=
  if s.pwr.avg1s ≤ 1000 * s.pwr.pcap then { s with pwr := { s.pwr with shorten := false } }
  else
    let low := fun (t : Nat) => decide ((s.tpwr t).fwDiv < 8)
    let pre := (List.range 32).filter (fun t => s.prefillTile t && low t)
    let rest := (List.range 48).filter (fun t => !(s.prefillTile t) && low t)
    let s := if !pre.isEmpty then s.raiseDiv pre else if !rest.isEmpty then s.raiseDiv rest
      else { s with pwr := { s.pwr with shorten := true } }
    let n := ((List.range 48).filter (fun t => decide (6 < (s.tpwr t).fwDiv))).length
    s.devEvent 0xE1 n s.pwr.avg1s s.pwr.pcap

/-! ## Power states (R513) -/

/-- The tile is IDLE with an empty command queue. -/
def State.tileEmpty (s : State) (t : Nat) : Bool := (s.tile t).idle && (s.tile t).queue.isEmpty

/-- What a tile loses on entering RETAIN or OFF (R513; notes/assumptions/25.md). -/
def State.powerDownTile (s : State) (t : Nat) (off : Bool) : State :=
  let acc := Config.accAfterOff s.fresh
  let s := s.draw.updTile t (fun x => { x with acc0 := acc, acc1 := acc })
  if !off then s
  else
    let s := s.zero (tileBase t) (scratchBytes t)
    let keep := fun (k : Nat) => decide (tileBase t ≤ k) && decide (k < tileBase t + scratchBytes t)
    { s.draw with mem := (Config.memAfterReset s.fresh).foldl (fun m c => if keep c.1 then memSet m c.1 c.2 else m) s.mem }

/-- Leaving RETAIN or OFF takes 20 µs or 200 µs; leaving OFF sets RES_MIB to 0 and clears WORK_VALID. -/
def State.wakeTile (s : State) (t : Nat) : State :=
  let p := s.tpwr t
  match p.st with
  | .retain => s.updTpwr t (fun p => { p with st := .run, req := 0, wakeAt := some (s.ltu + 2000) })
  | .off => (s.updTpwr t (fun p => { p with st := .run, req := 0, wakeAt := some (s.ltu + 20000) })).updTile t
      (fun x => { x with resMib := 0, workValid := false })
  | _ => s

/-- A tile is brought to a power state. -/
def State.setTpwr (s : State) (t req : Nat) : State :=
  let p := s.tpwr t
  match req with
  | 0 => (s.wakeTile t).updTpwr t (fun p => { p with st := .run, req := 0 })
  | 1 => (s.wakeTile t).updTpwr t (fun p => { p with st := .idle, req := 1 })
  | 2 =>
    if p.st = .retain then s.updTpwr t (fun p => { p with req := 2 })
    else ((s.wakeTile t).powerDownTile t false).updTpwr t (fun p => { p with st := .retain, req := 2, wakeAt := none })
  | _ =>
    if p.st = .off then s.updTpwr t (fun p => { p with req := 3 })
    else (s.powerDownTile t true).updTpwr t (fun p => { p with st := .off, req := 3, wakeAt := none })

/-- TILE_PWR_REQ (R513, R534): only while the tile is IDLE with an empty queue; under CACHE every tile is held OFF. -/
def execTilePwrReq (tile : Fin 48) (req : BitVec 3) (s : State) : Host.Outcome State Fault Refusal :=
  if !s.live || !(s.tileEmpty tile.val) || 3 < req.toNat || s.cfg.dev.personality = 3 || (s.tpwr tile.val).sweep then .next s
  else .next (s.setTpwr tile.val req.toNat)

/-- TILE_WAKE (R513): a command delivered to a tile in RETAIN or OFF wakes it. -/
def execTileWake (tile : Fin 48) (s : State) : Host.Outcome State Fault Refusal :=
  if !s.live || (s.tile tile.val).queue.isEmpty then .next s else .next (s.wakeTile tile.val)

/-- The tile can run commands now (R513). -/
def State.tilePowered (s : State) (t : Nat) : Bool :=
  let p := s.tpwr t
  (p.st = .run || p.st = .idle) && !p.sweep && (match p.wakeAt with
    | none => true
    | some w => decide (w ≤ s.ltu))

/-! ## Dividers and voltage (R512, R521, R534) -/

def divOk (d : Nat) : Bool := d = 6 || d = 7 || d = 8

/-- TILE_DIV_WRITE (R512, R534): each field takes 6, 7 or 8. -/
def execTileDivWrite (tile : Fin 48) (v : BitVec 32) (s : State) : Host.Outcome State Fault Refusal :=
  let fw := bits v.toNat 4 3
  let age := bits v.toNat 0 3
  if !s.live then .next s
  else .next (s.redivide (fun s => s.updTpwr tile.val (fun p =>
    { p with fwDiv := if divOk fw then fw else p.fwDiv, ageDiv := if divOk age then age else p.ageDiv })))

/-- VDD_MV: the voltage slews at 1 mV/µs from where it was (R526). -/
def TilePwr.vdd (p : TilePwr) (now : Nat) : Nat :=
  if p.st = .off || !p.vOn then 0
  else if p.st = .retain then Config.retentionMv
  else
    let n := (now - p.vAt) / 100
    if p.vFrom ≤ p.vset then Nat.min p.vset (p.vFrom + n) else Nat.max p.vset (p.vFrom - n)

/-- A planned voltage is set: 650 to 850 in steps of 5. -/
def TilePwr.setV (p : TilePwr) (mv now : Nat) : TilePwr :=
  { p with vFrom := p.vdd now, vAt := now, vset := mv, vOn := true }

/-- TILE_VSET_WRITE (R534). -/
def execTileVsetWrite (tile : Fin 48) (v : BitVec 32) (s : State) : Host.Outcome State Fault Refusal :=
  let mv := bits v.toNat 0 12
  if !s.live || mv < 650 || 850 < mv || mv % 5 ≠ 0 then .next s
  else .next (s.updTpwr tile.val (fun p => p.setV mv s.ltu))

/-! ## The local timer unit (R516 to R519, R533) -/

/-- Another comparator's ACTION names SYNC_OUT (R519, R533). -/
def State.syncOutTaken (s : State) (k : Nat) : Bool := s.pwr.cmps.any (fun e => e.1 ≠ k && bit e.2.action 1)

/-- COMPARATOR_FIRE (R517): FIRED and the ACTION; a periodic comparator re-arms, a one-shot one clears ENABLE. -/
def execComparatorFire (k : Fin 64) (s : State) : Host.Outcome State Fault Refusal :=
  let c := s.cmp k.val
  if !s.boot.good || !s.boot.released || !c.enable || s.ltu < c.mtch then .next s
  else
    let s := s.updCmp k.val (fun c =>
      if c.period = 0 then { c with fired := true, enable := false } else { c with fired := true, mtch := wrap64 (c.mtch + c.period) })
    let s := if bit c.action 1 then { s with pwr := { s.pwr with syncOut := s.ltu + 10 } } else s
    match bit c.action 0 && s.live, c.owner with
    | true, some ld => .next (s.eventTo ld (eventRaw 0xE5 0xFFFF k.val 0 s.ltu 0))
    | _, _ => .next s

/-- LTU_BOOT_WRITE (R516): the first write after reset. -/
def execLtuBootWrite (v : BitVec 16) (s : State) : Host.Outcome State Fault Refusal :=
  if !s.live || s.pwr.bootSet then .next s else .next { s with pwr := { s.pwr with boot := v.toNat, bootSet := true } }

/-- The 16-byte stamp of a time that leaves the device (R281, R516). -/
def State.stamp (s : State) : Nat :=
  s.ltu % 2 ^ 64 + s.fid % 2 ^ 12 * 2 ^ 64 + s.pwr.boot % 2 ^ 16 * 2 ^ 80 + s.sec.otp.uid % 2 ^ 32 * 2 ^ 96

/-- An LD's comparators are freed (R518). -/
def State.freeCmps (s : State) (ld : Nat) : State :=
  { s with pwr := { s.pwr with cmps := Tbl.mapAll s.pwr.cmps (fun (c : Cmp) => if c.owner = some ld then {} else c) } }

/-- The staging split is made: the compressors' shares, the DMA share and the landing slots carved from it (R520,
R335). -/
def State.splitStaging (s : State) (units : Nat) : State :=
  let dma := 256 - 4 * units
  let s := { s with pwr := { s.pwr with compUnits := units, dmaUnits := dma, splitLocked := true } }
  let s := (List.range 4).foldl (fun s c => s.updComp c (fun x => { x with share := units })) s
  let n := Nat.min s.fab.landSlots dma
  { s with fab := { s.fab with landSlots := n, landFree := n } }

/-- STAGE_SPLIT_WRITE (R520, R535): the first write; values above 16 are ignored. -/
def execStageSplitWrite (v : BitVec 32) (s : State) : Host.Outcome State Fault Refusal :=
  let u := bits v.toNat 0 5
  if !s.live || s.pwr.splitLocked || 16 < u then .next s else .next (s.splitStaging u)

/-- SYNC_IN_EDGE (R519): the injection trigger in FACTORY, the gate-takeover trigger in every other state; ignored while
RESET_N is low (R556). -/
def execSyncInEdge (s : State) : Host.Outcome State Fault Refusal :=
  if !s.live then .next s
  else if s.inFactory then
    match s.fcl.injectSync with
    | some (src, w) => .next ({ s with fcl := { s.fcl with injectSync := none } }.injectPair src w)
    | none => .next s
  else .next s.syncGates

/-! ## Temperature (R523) -/

/-- WARN, THROTTLE and TRIP of a site in °C. -/
def thermLimits (site : Nat) : Int × Int × Int := if site < 7 then (95, 105, 115) else (85, 95, 105)

/-- The level at a temperature, from the level before: 5 °C of hysteresis on the way down. -/
def thermLevel (site was : Nat) (t : Int) : Nat :=
  let (w, h, x) := thermLimits site
  let at_ := fun (k : Nat) (lim : Int) => decide (lim ≤ t) || (decide (k ≤ was) && decide (lim - 5 < t))
  if at_ 3 x then 3 else if at_ 2 h then 2 else if at_ 1 w then 1 else 0

/-- THERMAL_SAMPLE (R523): the level is latched and acted on. -/
def execThermalSample (site : Fin 32) (temp : Int) (s : State) : Host.Outcome State Fault Refusal :=
  let was := (s.therm site.val).level
  if !s.live || site.val = 7 then .next s
  else
    let now := thermLevel site.val was temp
    let s := { s with pwr := { s.pwr with therm := Tbl.put s.pwr.therm site.val ⟨now, temp⟩ } }
    if now = was then .next s
    else
      let tiles := (List.range 48).filter (fun t => heatDie site.val == some (dieOfTile t))
      let s := if was = 0 then (s.raise 0x3C3).raiseDiv tiles else s
      let s := if was < 2 && 2 ≤ now then
          ((s.redivide (fun s => { s with pwr := { s.pwr with clampTherm := site.val :: s.pwr.clampTherm } })).raise 0x3C4).clampEvent 3 site.val
        else if 2 ≤ was && now < 2 then
          (s.redivide (fun s => { s with pwr := { s.pwr with clampTherm := s.pwr.clampTherm.filter (· ≠ site.val) } })).clampEvent 0 site.val
        else s
      if now = 3 then .next ((s.raise 0x3C5).sample)
      else .next (s.devEvent 0xE2 site.val now (ofInt 32 temp))

/-! ## Ageing (R525 to R528) -/

/-- Another tile of the die is being swept (R525). -/
def State.dieSweeping (s : State) (t : Nat) : Bool := (List.range 48).any (fun k => dieOfTile k = dieOfTile t && (s.tpwr k).sweep)

/-- PDM_SWEEP (R525, R534): only while the tile is IDLE with an empty queue, one tile of a die at a time. -/
def execPdmSweep (tile : Fin 48) (s : State) : Host.Outcome State Fault Refusal :=
  if !s.live || !(s.tileEmpty tile.val) || s.dieSweeping tile.val then .next s
  else .next (s.updTpwr tile.val (fun p => { p with sweep := true }))

/-- Worst delay of a sweep at measured point i, 0.650 V + 25 mV x i. -/
def worstAt (d : List (List Nat)) (i : Nat) : Nat := (nth d i []).foldl Nat.max 0

/-- Whether the worst delay, interpolated linearly, leaves 50 ps of a period at a voltage: in 25ths of a ps (R526). -/
def pointOk (d : List (List Nat)) (period mv : Nat) : Bool :=
  let i := (mv - 650) / 25
  let r := (mv - 650) % 25
  let a : Int := worstAt d i
  let b : Int := worstAt d (i + 1)
  decide (25 * a + (if r = 0 then 0 else (b - a) * r) + 25 * 50 ≤ 25 * (period : Int))

/-- ACLK period of a divider in ps (R526). -/
def periodPs (d : Nat) : Nat := if d = 6 then 1250 else if d = 7 then 1458 else 1667

/-- The lowest voltage that serves at a divider. -/
def planAt (d : List (List Nat)) (dv : Nat) : Option (Nat × Nat) :=
  ((List.range 41).find? (fun k => pointOk d (periodPs dv) (650 + 5 * k))).map (fun k => (650 + 5 * k, dv))

/-- The operating point a sweep gives: ÷6, then ÷7, then ÷8 (R526). -/
def planOf (d : List (List Nat)) : Option (Nat × Nat) :=
  match planAt d 6 with
  | some p => some p
  | none => match planAt d 7 with
    | some p => some p
    | none => planAt d 8

/-- MARGIN_USED (R528). -/
def marginUsed (v0 : Nat) (p : Nat × Nat) : Nat :=
  if p.2 ≠ 6 then 100
  else if v0 = 850 then Config.marginOpen p.1
  else ofInt 8 (Int.fdiv (100 * ((p.1 : Int) - v0)) (850 - (v0 : Int)))

/-- The plan firmware makes from a tile's sweep (R526, R528). `now` applies it at once, as start-up does. -/
def State.planTile (s : State) (t : Nat) (d : List (List Nat)) (now : Bool) : State :=
  let s := s.updTpwr t (fun p => { p with delays := d, sweep := false, sweptAt := s.ltu, leftOut := false, alarm := false })
  match planOf d with
  | none =>
    let slack : Int := (periodPs 8 : Int) - (worstAt d 8 : Int)
    (s.fence 1 t).devEvent 0xE4 t 8 (ofInt 32 slack)
  | some pl =>
    let old := (s.tpwr t).plan
    let s := s.updTpwr t (fun p => { p with plan := pl, v0 := if p.v0 = 0 then pl.1 else p.v0 })
    let s := if now then s.updTpwr t (fun p => { p.setV pl.1 s.ltu with vFrom := pl.1, ageDiv := pl.2 })
      else if pl = old then s else s.updTpwr t (fun p => { p with next := some pl })
    if pl = old then s
    else s.devEvent 0xE3 t (pl.1 + pl.2 * 65536) (marginUsed (s.tpwr t).v0 pl)

/-- SWEEP_DONE (R525, R526). -/
def execSweepDone (tile : Fin 48) (delays : List (List Nat)) (s : State) : Host.Outcome State Fault Refusal :=
  if !s.live || !(s.tpwr tile.val).sweep then .next s else .next (s.planTile tile.val delays false)

/-- At a step boundary, plans of IDLE tiles are applied: the voltage begins to slew (R526). -/
def State.applyPlans (s : State) : State :=
  (List.range 48).foldl (fun s t =>
    match (s.tpwr t).next with
    | some (mv, dv) =>
      if (s.tile t).idle then s.updTpwr t (fun p => { p.setV mv s.ltu with next := none, divNext := some dv }) else s
    | none => s) s

/-- AGE_DIV changes once the voltage has slewed (R526). -/
def State.tickPlans (s : State) : State :=
  if s.pwr.tiles.all (fun e => e.2.divNext.isNone) then s
  else (List.range 48).foldl (fun s t =>
    let p := s.tpwr t
    match p.divNext with
    | some d => if p.vdd s.ltu = p.vset then s.redivide (fun s => s.updTpwr t (fun p => { p with ageDiv := d, divNext := none })) else s
    | none => s) s

/-- Ticks in an hour. -/
def hour : Nat := 360000000000

/-- AGE_SCHEDULER (R525, R527): on each compute die, a tile with an AGE_ALARM, else the tile without work that was swept
longest ago, when 12 h have passed (notes/assumptions/25.md), is swept; a tile that found no window for 23 h is left out of one step's composition. -/
def execAgeScheduler (s : State) : Host.Outcome State Fault Refusal :=
  if !s.live then .next s
  else
    let s := (List.range 4).foldl (fun s d =>
      let ts := (List.range 12).map (tileOfLocal d)
      let due := ts.filter (fun t => s.tileEmpty t && ((s.tpwr t).alarm || decide (12 * hour ≤ s.ltu - (s.tpwr t).sweptAt)))
      match due.foldl (fun (b : Option Nat) t => match b with
          | none => some t
          | some k => if (s.tpwr k).alarm then some k else if (s.tpwr t).alarm || (s.tpwr t).sweptAt < (s.tpwr k).sweptAt then some t else some k) none with
      | some t => if s.dieSweeping t then s else s.updTpwr t (fun p => { p with sweep := true })
      | none => s) s
    .next ((List.range 48).foldl (fun s t =>
      if !(s.tpwr t).sweep && decide (23 * hour ≤ s.ltu - (s.tpwr t).sweptAt) then s.updTpwr t (fun p => { p with leftOut := true })
      else s) s)

/-- INSITU_SLACK_CHECK (R527): slack below 20 ps latches AGE_ALARM for the tile. -/
def execInsituSlackCheck (tile : Fin 48) (slack : List Int) (s : State) : Host.Outcome State Fault Refusal :=
  let p := s.tpwr tile.val
  if !s.live || !p.insitu || p.st = .off || p.st = .retain then .next s
  else
    let s := s.updTpwr tile.val (fun p => { p with slack := slack.take 16 })
    if (slack.take 16).any (fun x => decide (x < 20)) then
      .next ((s.updTpwr tile.val (fun p => { p with alarm := true })).raise (0x3D0 + tile.val)) else .next s

end Sys2Proof.Machine
end

