-- ==== Sys2Proof/Machine/Tile.lean ====
section
/-!
DEFINITION. Sys2Proof/Machine/Tile.lean: the tile cores' instructions and memory accesses (R100 to R105, R110 to R112)
and the life of a command on its tile (R114 to R122).
-/
namespace Sys2Proof.Machine

/-! ## Threads and the bank atomics -/

/-- An instruction of `n` bytes has been performed. -/
def Thread.adv (h : Thread) (n : Nat) : Thread := { h with pc := h.pc + n }

/-- The core of a thread switches to its next ready thread (R102). -/
def State.yieldCore (s : State) (t th : Nat) : State :=
  s.updTile t (fun x => match x.cur with
    | none => x
    | some c => { x with core := Tbl.put x.core (th / 8) (c.nextReady (th / 8) (th % 8)) })

/-- An own-window range lies in the tile's scratchpad (R84, R101). -/
def inScratch (t off n : Nat) : Bool := decide (off + n ≤ scratchBytes t)

/-- `k` lanes of `w` bits, each changed by `f`. -/
def lanes (w k : Nat) (f : Nat → Nat → Nat) (old val : Nat) : Nat :=
  (List.range k).foldl (fun acc i => acc + f (bits old (w * i) w) (bits val (w * i) w) % 2 ^ w * 2 ^ (w * i)) 0

/-- What a bank atomic of 4 or 8 bytes leaves (R110). -/
def bankResult (k : DeferKind) (size old val : Nat) : Nat :=
  match k with
  | .store => val % 2 ^ (8 * size)
  | .swap => val % 2 ^ (8 * size)
  | .addInt => lanes 32 (size / 4) (· + ·) old val
  | .addFp32 => lanes 32 (size / 4) fadd32 old val
  | .addBf16 => lanes 16 (size / 2) addBf16 old val

/-- A core's write to memory, which takes the reservations it meets. -/
def State.coreWrite (s : State) (a n v : Nat) : State := s.placeBytes a (toBytes n v)

/-- Defer an operation to commit (R111). -/
def State.deferOp (s : State) (t th ilen : Nat) (d : Deferred) : State :=
  match s.cmd? t with
  | none => s
  | some c =>
    if 4096 ≤ c.deferred.length then s.failCmd t Stat.deferFull
    else (s.updCmd t (fun c => { c with deferred := c.deferred ++ [d] })).updThread t th (fun h => h.adv ilen)

/-- Physical address of a core's access: own window below 0x4000000, else translated (R101). -/
def State.coreAddr (s : State) (t : Nat) (c : TileCmd) (va : Nat) (acc : Acc) : State × Except Nat Nat :=
  if va < 0x4000000 then (s, .ok (tileBase t + va))
  else s.translate (dieOfTile t) (cdAsid c.desc) (cdTenant c.desc) va acc t

/-- A physical address in the tile's own scratchpad, with its offset. -/
def ownOff (t pa : Nat) : Option Nat :=
  match regionOf pa with
  | .tileWin u off => if u = t then some off else none
  | _ => none

/-- The MSF can perform a deferred operation on the aperture: 8 bytes, a store, an integer add or a swap (R289, R294). -/
def remoteForm (k : DeferKind) (size : Nat) : Bool := size = 8 && (k = .store || k = .addInt || k = .swap)

/-- An atomic of R110 at a physical address: performed on the own working region, deferred elsewhere (R111). -/
def State.coreAtomic (s : State) (t th ilen : Nat) (rd : Fin 32) (k : DeferKind) (size pa val : Nat) : State :=
  if inAperture pa then
    if !(remoteForm k size) then s.failCmd t Stat.programFault
    else if rd.val ≠ 0 then s.failCmd t Stat.atomicReturnDenied
    else (s.deferOp t th ilen ⟨k, pa, size, val⟩).yieldCore t th
  else
    let st := s.accStatus (.tile t) .atomic pa size
    if st ≠ Stat.ok then s.failAccess t st
    else match ownOff t pa with
    | some _ =>
      let old := s.rd pa size
      let s := s.coreWrite pa size (bankResult k size old val)
      s.updThread t th (fun h => (h.adv ilen).xw rd (ofInt 64 (toSigned (8 * size) old)))
    | none => if rd.val ≠ 0 then s.failCmd t Stat.atomicReturnDenied else s.deferOp t th ilen ⟨k, pa, size, val⟩

/-- Result of an AMO of RV64A on `w` bits (R100). -/
def amoResult (k : CoreAccKind) (w old val : Nat) : Nat :=
  let o := toSigned w old
  let v := toSigned w val
  match k with
  | .amoXor => old ^^^ val
  | .amoAnd => old &&& val
  | .amoOr => old ||| val
  | .amoMin => if v < o then val else old
  | .amoMax => if o < v then val else old
  | .amoMinu => Nat.min old val
  | .amoMaxu => Nat.max old val
  | _ => val

/-- How translation treats an access. -/
def kindAcc : CoreAccKind → Acc
  | .load | .lr => .read
  | .store | .sc => .write
  | _ => .atomic

/-- Widths an instruction has: atomics 4 or 8 bytes, floating-point loads and stores 2 or 4 (R100). -/
def accLegal (a : CoreAcc) : Bool :=
  match a.kind with
  | .load | .store => if a.fp then a.lg.val = 1 || a.lg.val = 2 else true
  | _ => !a.fp && decide (2 ≤ a.lg.val)

/-- The value an access stores. -/
def accValue (a : CoreAcc) (h : Thread) : Nat :=
  (if a.fp then Tbl.getD h.f a.rs2.val 0 else h.xr a.rs2) % 2 ^ (8 * 2 ^ a.lg.val)

/-- Bytes of an access. -/
def accSize (a : CoreAcc) : Nat := 2 ^ a.lg.val

/-- A load whose address is known (R101, R102): from the own scratchpad at once; from elsewhere the core switches, and
the data returns at once unless a channel holds the access or the MSF must fetch it. -/
def State.coreLoad (s : State) (t : Fin 48) (th : Fin 32) (a : CoreAcc) (pa : Nat) : State :=
  if inAperture pa then
    (s.updThread t.val th.val (fun h => { h.adv a.ilen with wait := some (.issue pa a) })).yieldCore t.val th.val
  else
    let st := s.accStatus (.tile t.val) .read pa (accSize a)
    if st ≠ Stat.ok then s.failAccess t.val st
    else match s.heldChan pa (accSize a) with
    | some ch =>
      (s.updThread t.val th.val (fun h => { h.adv a.ilen with wait := some (.held ch) })).holdAcc ch
        ⟨.tile t.val, false, chanOff pa, (accSize a), [], .thread t th a⟩
    | none =>
      let v := s.rd pa (accSize a)
      let s := s.updThread t.val th.val (fun h => (h.adv a.ilen).loaded a v)
      if (ownOff t.val pa).isSome then s else s.yieldCore t.val th.val

/-- A store whose address is known (R101, R102, R111). -/
def State.coreStore (s : State) (t : Fin 48) (th : Fin 32) (a : CoreAcc) (c : TileCmd) (h : Thread) (pa : Nat) : State :=
  if inAperture pa then
    if !(remoteForm .store (accSize a)) then s.failCmd t.val Stat.programFault
    else (s.deferOp t.val th.val a.ilen ⟨.store, pa, (accSize a), accValue a h⟩).yieldCore t.val th.val
  else
    let st := s.accStatus (.tile t.val) .write pa (accSize a)
    if 16 ≤ c.buffered th.val then s.updThread t.val th.val (fun h => { h with wait := some .storeBuf })
    else if st ≠ Stat.ok then s.failAccess t.val st
    else match s.heldChan pa (accSize a) with
    | some ch =>
        (s.updThread t.val th.val (fun h => { h.adv a.ilen with outst := h.outst + 1 })).holdAcc ch
          ⟨.tile t.val, true, chanOff pa, 0, toBytes (accSize a) (accValue a h), .thread t th a⟩
    | none => (s.coreWrite pa (accSize a) (accValue a h)).updThread t.val th.val (fun h => h.adv a.ilen)

/-- LR, SC and the AMOs that run only on the own scratchpad (R100). -/
def State.coreOwn (s : State) (t th : Nat) (a : CoreAcc) (h : Thread) (pa off : Nat) : State :=
  let st := s.accStatus (.tile t) (if a.kind = .lr then .read else if a.kind = .sc then .write else .atomic) pa (accSize a)
  if st ≠ Stat.ok then s.failAccess t st
  else
    let old := s.rd pa (accSize a)
    let back := ofInt 64 (toSigned (8 * accSize a) old)
    match a.kind with
    | .lr => s.updThread t th (fun h => { (h.adv a.ilen).xw a.rd back with resv := some off })
    | .sc =>
      if h.resv = some off then
        (s.coreWrite pa (accSize a) (accValue a h)).updThread t th (fun h => { (h.adv a.ilen).xw a.rd 0 with resv := none })
      else s.updThread t th (fun h => { (h.adv a.ilen).xw a.rd 1 with resv := none })
    | k => (s.coreWrite pa (accSize a) (amoResult k (8 * accSize a) old (accValue a h))).updThread t th (fun h => (h.adv a.ilen).xw a.rd back)

/-- CORE_MEMORY_ACCESS (R100, R101, R107, R110, R111): one access of a running thread. -/
def execCoreMemoryAccess (tile : Fin 48) (th : Fin 32) (a : CoreAcc) (s : State) : Host.Outcome State Fault Refusal :=
  match s.running? tile.val th.val with
  | none => .next s
  | some (c, h) =>
    let va := ofInt 64 ((h.xr a.rs1 : Int) + a.imm)
    if !(accLegal a) || va % (accSize a) ≠ 0 || bits va 56 8 ≠ 0 then .next (s.failCmd tile.val Stat.programFault)
    else match s.coreAddr tile.val c va (kindAcc a.kind) with
    | (s, .error e) => .next (s.failCmd tile.val e)
    | (s, .ok pa) =>
      match a.kind with
      | .load => .next (s.coreLoad tile th a pa)
      | .store => .next (s.coreStore tile th a c h pa)
      | .amoAdd => .next (s.coreAtomic tile.val th.val a.ilen a.rd .addInt (accSize a) pa (accValue a h))
      | .amoSwap => .next (s.coreAtomic tile.val th.val a.ilen a.rd .swap (accSize a) pa (accValue a h))
      | _ => match ownOff tile.val pa with
        | none => .next (s.failCmd tile.val Stat.programFault)
        | some off => .next (s.coreOwn tile.val th.val a h pa off)

/-! ## The tile-issue instructions (R100, R103, R105) -/

/-- The unit of an operation code: 0 matrix engine, 1 vector unit, 2 DMA requests, 3 BAU (R105, R146, R176, R217,
R240, R256). -/
def unitOf (opc : Nat) : Option Nat :=
  if opc = 0x01 then some 0
  else if 0x10 ≤ opc && opc ≤ 0x19 then some 1
  else if opc = 0x30 || opc = 0x32 || opc = 0x33 then some 2
  else if opc = 0x31 then some 3
  else none

/-- The unit an issued descriptor goes to, when its header passes R105 on this tile: CHECK, reserved fields, dependency
handles, an operation code of a unit the tile has. -/
def issueUnit (t : Nat) (c : TileCmd) (d : Nat) : Option Nat :=
  if !(opCheckOk d) || fld d 1 3 ≠ 0 || fld d 0xC 4 ≠ 0 || c.lastHandle < fld d 4 4 || c.lastHandle < fld d 8 4 then none
  else match unitOf (fld d 0 1) with
    | some 3 => if t < 32 then none else some 3
    | u => u

/-- TOP_ISSUE (R100, R103, R105). -/
def execTopIssue (tile : Fin 48) (th : Fin 32) (rd rs1 : Fin 32) (s : State) : Host.Outcome State Fault Refusal :=
  match s.running? tile.val th.val with
  | none => .next s
  | some (c, h) =>
    let off := h.xr rs1
    if !(inScratch tile.val off 64) then .next (s.failAccess tile.val Stat.addrUnmapped)
    else
      let d := s.wrd tile.val off 64
      match issueUnit tile.val c d with
      | none => .next (s.failCmd tile.val Stat.opInvalid)
      | some u =>
        if 16 ≤ c.queuedIn u then .next (s.updThread tile.val th.val (fun h => { h with wait := some (.room u) }))
        else
          let n := c.lastHandle + 1
          let s := s.updCmd tile.val (fun c => { c with ops := c.ops ++ [{ handle := n, unit := u, desc := d }], lastHandle := n })
          .next (s.updThread tile.val th.val (fun h => (h.adv 4).xw rd n))

/-- TOP_WAIT (R100, R102). -/
def execTopWait (tile : Fin 48) (th : Fin 32) (rs1 : Fin 32) (s : State) : Host.Outcome State Fault Refusal :=
  match s.running? tile.val th.val with
  | none => .next s
  | some (c, h) =>
    let n := h.xr rs1 % 2 ^ 32
    .next (s.updThread tile.val th.val (fun h => { h.adv 4 with wait := if c.depOk n then none else some (.op n) }))

/-- TOP_FENCE (R100, R102). -/
def execTopFence (tile : Fin 48) (th : Fin 32) (s : State) : Host.Outcome State Fault Refusal :=
  match s.running? tile.val th.val with
  | none => .next s
  | some (_, h) =>
    .next (s.updThread tile.val th.val (fun x => { x.adv 4 with wait := if h.outst = 0 then none else some .fence }))

/-- TOP_FENCET (R100, R102). -/
def execTopFencet (tile : Fin 48) (th : Fin 32) (s : State) : Host.Outcome State Fault Refusal :=
  match s.running? tile.val th.val with
  | none => .next s
  | some (c, _) =>
    .next (s.updThread tile.val th.val (fun x =>
      { x.adv 4 with wait := if c.quiet && c.opsDoneTo c.lastHandle then none else some (.fencet c.lastHandle) }))

/-- TOP_PUB (R100, R112, R118). -/
def execTopPub (tile : Fin 48) (th : Fin 32) (rs1 : Fin 32) (s : State) : Host.Outcome State Fault Refusal :=
  match s.running? tile.val th.val with
  | none => .next s
  | some (c, h) =>
    let off := h.xr rs1
    if !(inScratch tile.val off 16) then .next (s.failAccess tile.val Stat.addrUnmapped)
    else
      let e := s.wrd tile.val off 16
      if !(crcOk e 16) then .next (s.failCmd tile.val Stat.publishInvalid)
      else if 4096 ≤ c.pubs.length then .next (s.failCmd tile.val Stat.publishFull)
      else
        let s := s.updCmd tile.val (fun c => { c with pubs := c.pubs ++ [e] })
        .next (s.updThread tile.val th.val (fun h => h.adv 4))

/-- Kind and size of a TOP.FADD form (R100, R110). -/
def faddKind : FaddForm → DeferKind × Nat
  | .s => (.addFp32, 4)
  | .s8 => (.addFp32, 8)
  | .bf => (.addBf16, 4)
  | .bf8 => (.addBf16, 8)

/-- TOP_FADD (R100, R110, R111). -/
def execTopFadd (tile : Fin 48) (th : Fin 32) (form : FaddForm) (rd rs1 rs2 : Fin 32) (s : State) : Host.Outcome State Fault Refusal :=
  match s.running? tile.val th.val with
  | none => .next s
  | some (c, h) =>
    let k := faddKind form
    let va := h.xr rs1
    if va % k.2 ≠ 0 || bits va 56 8 ≠ 0 then .next (s.failCmd tile.val Stat.programFault)
    else match s.coreAddr tile.val c va .atomic with
    | (s, .error e) => .next (s.failCmd tile.val e)
    | (s, .ok pa) => .next (s.coreAtomic tile.val th.val 4 rd k.1 k.2 pa (h.xr rs2))

/-- TOP_CRC16 (R100). -/
def execTopCrc16 (tile : Fin 48) (th : Fin 32) (rd rs1 rs2 : Fin 32) (s : State) : Host.Outcome State Fault Refusal :=
  match s.running? tile.val th.val with
  | none => .next s
  | some (_, h) =>
    let off := h.xr rs1
    let n := h.xr rs2
    if !(inScratch tile.val off n) then .next (s.failAccess tile.val Stat.addrUnmapped)
    else .next (s.updThread tile.val th.val (fun x => (x.adv 4).xw rd (crc16 (s.wbytes tile.val off n))))

/-- TOP_END (R100, R102). -/
def execTopEnd (tile : Fin 48) (th : Fin 32) (s : State) : Host.Outcome State Fault Refusal :=
  match s.running? tile.val th.val with
  | none => .next s
  | some _ => .next (s.updThread tile.val th.val (fun x => { x.adv 4 with ended := true }))

/-- OPERATION_COMPLETE (R102, R105): an operation whose work is done completes, and the threads that waited for it, for
room in its queue or for a fence go on. -/
def execOperationComplete (tile : Fin 48) (h : Nat) (s : State) : Host.Outcome State Fault Refusal :=
  match s.cmd? tile.val with
  | none => .next s
  | some c =>
    match c.op? h with
    | none => .next s
    | some o =>
      if !s.live || o.phase ≠ .executed then .next s
      else .next (s.updCmd tile.val (fun c => (c.setOp h (fun o => { o with phase := .complete })).wake))

/-! ## The life of a command (R113 to R118) -/

/-- The threads a descriptor starts (R113, R114). -/
def startThreads (d : Nat) : Tbl Thread :=
  ((List.range 32).filter (fun i => bit (cdThreads d) i)).map (fun i => (i, { x := [(10, cdArgs d)], pc := cdProgram d }))

/-- The working region is zeroed when it may hold another tenant's work, or nobody's (R109). -/
def State.zeroWork (s : State) (t tenant : Nat) : State :=
  let x := s.tile t
  if x.workValid && decide (x.workTenant = tenant) then s
  else
    (s.zero (tileBase t + x.resBytes) (scratchBytes t - x.resBytes)).updTile t (fun x =>
      { x with workTenant := tenant, workValid := true })

/-- EMB_PIN on entry to RUNNING: the slot's current descriptor is held, and counted for its version (R253, R254). -/
def State.pinTable (s : State) (t : Nat) (d : Nat) : State :=
  let a := (s.slot (cdSlot d)).embDesc
  if a = 0 then s
  else
    let v := fld (s.rd a 64) 0x26 2
    let s := s.unpin (cdTag d)
    let s := s.updTile t (fun x => { x with emb := { version := v, desc := a, valid := true, slot := cdSlot d } })
    let s := s.updSlot (cdSlot d) (fun m => { m with pins := Tbl.upd m.pins a 0 (· + 1) })
    s.updTag (cdTag d) (fun g => { g with pin := some (cdSlot d, a) })

/-- A checked command enters RUNNING (R114, R253). -/
def State.startCmd (s : State) (t : Nat) (d : Nat) : State :=
  let args := (s.tag (cdTag d)).args
  let s := s.zeroWork t (cdTenant d)
  let s := if cdArgs d + args.length ≤ (s.tile t).resBytes then s.wwrBytes t (cdArgs d) args else s
  let c : TileCmd := { desc := d, start := s.ltu, threads := startThreads d }
  let s := s.updTile t (fun x => Tile.settle { x with queue := x.queue.drop 1, cur := some c, resLock := true })
  let s := (s.updTag (cdTag d) (fun g => { g with st := .running, start := s.ltu })).pinTable t d
  let s := s.updTpwr t (fun p => { p with st := .run })
  if (s.tile t).resBytes ≤ cdProgram d then s.failCmd t Stat.programFault else s

/-- COMMAND_START (R101, R109, R114, R253): the head of an idle tile's queue is checked and started, or completed with
the status of the check it fails. -/
def execCommandStart (tile : Fin 48) (s : State) : Host.Outcome State Fault Refusal :=
  let x := s.tile tile.val
  match x.queue with
  | [] => .next s
  | d :: rest =>
    if !s.live || !x.idle || !(s.tilePowered tile.val) then .next s
    else
      let st := startStatus tile.val x d
      if st = Stat.ok then .next (s.startCmd tile.val d)
      else
        let s := s.failGroup (cdGroup d) (cdTag d) st
        .next (s.updTile tile.val (fun x => if x.queue.head? = some d then { x with queue := rest } else x))

/-- R115: every thread has ended, every operation has completed, every direct write is at its destination. -/
def TileCmd.finished (c : TileCmd) : Bool :=
  c.threads.all (fun e => e.2.ended) && c.ops.all (fun o => o.phase = .complete) && c.quiet

/-- Every member of a group is ENDED and no kill reached the group first (R115, R388). -/
def State.allEnded (s : State) (g : Nat) : Bool :=
  (s.group g).members.all (fun m => (s.tag m).st = .ended) && !(s.reqRegs.killBusy.any (fun k => k.1 = g))

/-- The members of a group enter COMMITTING: from here no kill has an effect (R115). -/
def State.enterCommit (s : State) (g : Nat) : State :=
  (s.group g).members.foldl (fun (s : State) m =>
    (s.updTag m (fun x => { x with st := .committing })).updTile (s.tag m).tile (fun x =>
      { x with cur := x.cur.map (fun (c : TileCmd) => if cdTag c.desc = m then { c with phase := .committing } else c) })) s

/-- COMMAND_ENDED (R115): with the last member the group is COMMITTING. -/
def execCommandEnded (tile : Fin 48) (s : State) : Host.Outcome State Fault Refusal :=
  match s.cmd? tile.val with
  | none => .next s
  | some c =>
    if !s.live || c.phase ≠ .running || !c.finished then .next s
    else
      let s := s.updTile tile.val (fun x => { x with cur := some { c with phase := .ended } })
      let s := s.updTag (cdTag c.desc) (fun g => { g with st := .ended })
      .next (if s.allEnded (cdGroup c.desc) then s.enterCommit (cdGroup c.desc) else s)

/-- The statuses with which a fault ends a command (R118). -/
def faultStatus (st : Nat) : Bool :=
  [Stat.programFault, Stat.translationFault, Stat.addrUnmapped, Stat.accessDenied, Stat.residentWrite, Stat.tileFenced,
   Stat.poisoned, Stat.trellisTimeout, Stat.remoteFault, Stat.atomicReturnDenied, Stat.deferFull, Stat.publishFull,
   Stat.publishInvalid, Stat.opInvalid, Stat.cmdOverrun, Stat.bauOverrun, Stat.bauFenced, Stat.aborted, Stat.frameInvalid,
   Stat.indexRange, Stat.tableInvalid, Stat.checkFailed, Stat.noResource].contains st

/-- COMMAND_FAIL (R117, R118): a fault of the hardware or of an instruction ends the command; the group fails with it. -/
def execCommandFail (tile : Fin 48) (status : Nat) (s : State) : Host.Outcome State Fault Refusal :=
  if !s.live || !(faultStatus status) then .next s else .next (s.failCmd tile.val status)

/-- CMD_OVERRUN (R115, R118): LIMIT_ACLK ran out; the wait in ENDED counts. -/
def execCmdOverrun (tile : Fin 48) (s : State) : Host.Outcome State Fault Refusal :=
  match s.cmd? tile.val with
  | none => .next s
  | some c =>
    if !s.live || cdLimit c.desc = 0 || s.runAclk tile.val c < cdLimit c.desc then .next s
    else .next (s.failCmd tile.val Stat.cmdOverrun)

/-- DRAIN_WRITE_COMPLETE (R117, R378): a write of a killed run reached its destination. -/
def execDrainWriteComplete (tag : Fin 1024) (s : State) : Host.Outcome State Fault Refusal :=
  if !s.live || (s.tag tag.val).drain = 0 then .next s
  else .next ((s.updTag tag.val (fun g => { g with drain := g.drain - 1 })).freeTag tag.val)

/-! ## TILE registers -/

/-- Largest RES_MIB of a tile (R106). -/
def resMax (t : Nat) : Nat := if t < 32 then 48 else 24

/-- TILE_CFG_WRITE (R106, R109, R120). -/
def execTileCfgWrite (tile : Fin 48) (v : BitVec 32) (s : State) : Host.Outcome State Fault Refusal :=
  if !s.live then .next s
  else
    let m := bits v.toNat 0 6
    let s := if v.getLsbD 7 then s.updTile tile.val (fun x => { x with cfgReject := false }) else s
    let x := s.tile tile.val
    if !x.idle || !x.queue.isEmpty || resMax tile.val < m then .next (s.updTile tile.val (fun x => { x with cfgReject := true }))
    else .next (s.updTile tile.val (fun x => { x with resMib := m, workValid := if x.resMib = m then x.workValid else false }))

/-- CMDCNT_CLR (R122). -/
def execCmdcntClr (tile : Fin 48) (s : State) : Host.Outcome State Fault Refusal :=
  if !s.live then .next s else .next (s.updTile tile.val (fun x => { x with committed := 0, killed := 0, failed := 0 }))

/-- CONF_CLR (R122). -/
def execConfClr (tile : Fin 48) (s : State) : Host.Outcome State Fault Refusal :=
  if !s.live then .next s else .next (s.updTile tile.val (fun x => { x with conf := [] }))

end Sys2Proof.Machine
end

