-- ==== Sys2Proof/Machine/Engine.lean ====
section
/-!
DEFINITION. Sys2Proof/Machine/Engine.lean: the matrix engine (R90, R93 to R95, R104) and the vector unit (R97 to R99,
R146).

An operation runs when it is at the head of its unit's queue with its dependencies complete (R105); its work is done in
one command, and OPERATION_COMPLETE completes it.
-/
namespace Sys2Proof.Machine

/-! ## Running an operation -/

/-- The command of a tile and the operation about to run: at the head of its queue, of the given code. -/
def State.engine? (s : State) (t h opc : Nat) : Option (TileCmd × Op) :=
  if !s.live then none
  else match s.cmd? t with
    | none => none
    | some c =>
      match c.atHead h with
      | none => none
      | some o => if c.phase = .running && fld o.desc 0 1 = opc then some (c, o) else none

/-- The operation's work is done. -/
def State.opDone (s : State) (t h : Nat) : State := s.updCmd t (fun c => c.setOp h (fun o => { o with phase := .executed }))

/-- The verdict on the own-window ranges an operation reads and writes (R94, R107). -/
def extentStatus (t res : Nat) (rs ws : List (Nat × Nat)) : Nat :=
  if !((rs ++ ws).all (fun r => inScratch t r.1 r.2)) then Stat.opInvalid
  else if ws.any (fun w => decide (w.1 < res) && decide (0 < w.2)) then Stat.residentWrite
  else Stat.ok

/-- An operation with valid fields runs `f`, or its command fails with the status its ranges give. -/
def State.runOp (s : State) (t h : Nat) (ok : Bool) (rs ws : List (Nat × Nat)) (f : State → State) : State :=
  if !ok then s.failCmd t Stat.opInvalid
  else
    let st := extentStatus t (s.tile t).resBytes rs ws
    if st ≠ Stat.ok then s.failAccess t st else (f s).opDone t h

/-- Codes of width `w` in one little-endian word (R86). -/
def packWord (w : Nat) (cs : List Nat) : Nat := cs.reverse.foldl (fun a c => a * 2 ^ w + c % 2 ^ w) 0

/-- Write codes of width `w` at an own-window offset; the rest of a last partial byte keeps its bits. -/
def State.putCodes (s : State) (t off w : Nat) (cs : List Nat) : State :=
  let nb := cdiv (cs.length * w) 8
  let old := s.wrd t off nb
  let v := (old >>> (cs.length * w)) <<< (cs.length * w) + packWord w cs
  s.placeBytes (tileBase t + off) (toBytes nb v)

/-- Value i of an FP32 or BF16 array. -/
def State.vecAt (s : State) (t : Nat) (isBf16 : Bool) (off i : Nat) : Num :=
  if isBf16 then bf16 (s.wrd t (off + 2 * i) 2) else f32 (s.wrd t (off + 4 * i) 4)

/-- Bytes of an array of FP32 or BF16 values. -/
def vecBytes (isBf16 : Bool) (n : Nat) : Nat := if isBf16 then 2 * n else 4 * n

/-- A row of values. -/
def State.vecRow (s : State) (t : Nat) (isBf16 : Bool) (off n : Nat) : List Num :=
  (List.range n).map (fun i => s.vecAt t isBf16 off i)

/-- A result the spec does not promise bit-exactly: one that agrees with the rule's value within the command's bound
(R91, R92; log 9). -/
def nearF32 (bound key seq : Nat) : Nat :=
  let c := Config.approx key % 2 ^ 32
  if agree bound (f32 c) (f32 seq) then c else seq

/-! ## The matrix engine -/

/-- Stationary block columns (R84). -/
def mmN (t : Nat) : Nat := if t < 32 then 256 else 128

/-- K_blk of the rate class of two operand formats (R93). -/
def mmKblk (t : Nat) (fa fb : Fmt) : Nat :=
  if fa.w = 4 && fb.w = 4 then 2 * mmN t else if fa.w = 16 || fb.w = 16 then mmN t / 2 else mmN t

/-- The operand pairing is one R93 allows. -/
def mmPair (ca cb : Nat) (fa fb : Fmt) : Bool := decide (ca ≤ 0x0B) && decide (cb ≤ 0x0B) && (fa.isInt == fb.isInt)

/-- The output format is one R95 allows. -/
def mmOut (cc : Nat) (int : Bool) : Bool :=
  if int then cc = 0x0D || cc = 0x0C else cc = 0x0C || cc = 0x0B || cc = 0x01 || cc = 0x02

/-- What an MM operation needs: its fields, decoded (R104). -/
structure MmOp where
  fa : Fmt
  fb : Fmt
  fc : Fmt
  m : Nat
  kb : Nat
  aAddr : Nat
  bAddr : Nat
  asAddr : Nat
  bsAddr : Nat
  cAddr : Nat
  colsAddr : Nat
  accIn : Bool
  keep : Bool
  colScale : Bool
  deriving DecidableEq, Repr

/-- The fields of an MM descriptor, when they are valid (R93 to R95, R104). -/
def mmFields (d : Nat) : Option MmOp :=
  let fl := fld d 0x2B 1
  match fmtOf (fld d 0x28 1), fmtOf (fld d 0x29 1), fmtOf (fld d 0x2A 1) with
  | some fa, some fb, some fc =>
    let x : MmOp := { fa := fa, fb := fb, fc := fc, m := fld d 0x24 2, kb := fld d 0x26 2, aAddr := fld d 0x10 4,
                      bAddr := fld d 0x14 4, asAddr := fld d 0x18 4, bsAddr := fld d 0x1C 4, cAddr := fld d 0x20 4,
                      colsAddr := fld d 0x2C 4, accIn := bit fl 0, keep := bit fl 1, colScale := bit fl 2 }
    if 1 ≤ x.m && x.m ≤ 1024 && 1 ≤ x.kb && x.kb ≤ 256 && fl < 8 && fld d 0x30 14 = 0 &&
        mmPair (fld d 0x28 1) (fld d 0x29 1) fa fb && mmOut (fld d 0x2A 1) fa.isInt &&
        x.aAddr % 128 = 0 && x.bAddr % 128 = 0 && x.cAddr % 128 = 0 then some x else none
  | _, _, _ => none

/-- The ranges an MM reads and writes (R94, R95). -/
def MmOp.reads (x : MmOp) (t : Nat) : List (Nat × Nat) :=
  let kblk := mmKblk t x.fa x.fb
  let k := x.kb * kblk
  [(x.aAddr, x.m * k * x.fa.w / 8), (x.bAddr, k * mmN t * x.fb.w / 8)]
    ++ (if x.fa.mx then [(x.asAddr, x.m * (k / 32))] else [])
    ++ (if x.fb.mx then [(x.bsAddr, k / 32 * mmN t)] else [])
    ++ (if x.colScale then [(x.colsAddr, 4 * mmN t)] else [])
def MmOp.writes (x : MmOp) (t : Nat) : List (Nat × Nat) :=
  if x.keep then [] else [(x.cAddr, x.m * mmN t * x.fc.w / 8)]

/-- A element (m, k) and B element (k, n) as codes (R94). -/
def State.mmA (s : State) (t : Nat) (x : MmOp) (m k : Nat) : Nat :=
  let kblk := mmKblk t x.fa x.fb
  packedAt (s.wrd t) (x.aAddr + (k / kblk * x.m + m) * (kblk * x.fa.w / 8)) x.fa.w (k % kblk)
def State.mmB (s : State) (t : Nat) (x : MmOp) (k n : Nat) : Nat :=
  let kblk := mmKblk t x.fa x.fb
  packedAt (s.wrd t) (x.bAddr + k / kblk * (kblk * mmN t * x.fb.w / 8)) x.fb.w (k % kblk * mmN t + n)

/-- The scale of an operand's block, 1 when it has none (R94). -/
def State.mmScale (s : State) (t : Nat) (f : Fmt) (a : Nat) : Num := if f.mx then scaleVal (s.wrd t a 1) else .fin false 1 0

/-- INT32 saturation (R90). -/
def sat32 (v : Int) : Int := max (-(2 ^ 31 : Int)) (min (2 ^ 31 - 1 : Int) v)

/-- One accumulator entry after the group of 32 K positions from 32g (R90). -/
def State.mmGroup (s : State) (t : Nat) (x : MmOp) (m n : Nat) (acc g : Nat) : Nat :=
  let ks := rangeFrom (32 * g) 32
  if x.fa.isInt then
    let sum := (ks.map (fun k => toSigned x.fa.w (s.mmA t x m k) * toSigned x.fb.w (s.mmB t x k n))).foldl (· + ·) (0 : Int)
    ofInt 32 (sat32 (toSigned 32 acc + sum))
  else
    let sum := (ks.map (fun k => (x.fa.dec (s.mmA t x m k)).mul (x.fb.dec (s.mmB t x k n)))).foldl Num.add Num.zero
    let groups := x.kb * mmKblk t x.fa x.fb / 32
    let sa := s.mmScale t x.fa (x.asAddr + m * groups + g)
    let sb := s.mmScale t x.fb (x.bsAddr + g * mmN t + n)
    flushSub (toF32 ((f32 acc).add ((sum.mul sa).mul sb)))

/-- One accumulator entry after the whole operation (R90, R94). -/
def State.mmEntry (s : State) (t : Nat) (x : MmOp) (acc : Tbl Nat) (m n : Nat) : Nat :=
  (List.range (x.kb * mmKblk t x.fa x.fb / 32)).foldl (fun a g => s.mmGroup t x m n a g)
    (if x.accIn then Tbl.getD acc (m * mmN t + n) 0 else 0)

/-- An accumulator entry converted for the write-out (R88, R95); the FP32 product with the column's scale is flushed as
every FP32 result of the engine is (R90). How such a product becomes an INT32 is not stated: it is rounded to nearest,
ties to even, and clamped to plus or minus 2^31 - 1 (DESIGN CHOICE, log 73). -/
def State.mmConv (s : State) (t : Nat) (x : MmOp) (n acc : Nat) : Nat :=
  let v : Num := if x.fa.isInt then Num.ofInt (toSigned 32 acc) else f32 acc
  let int32 := x.fc.kind = .int 32
  if x.colScale then
    let p := f32 (flushSub (toF32 ((rnd32 v).mul (f32 (s.wrd t (x.colsAddr + 4 * n) 4)))))
    if int32 then ofInt 32 (toIntSat 32 p) else x.fc.enc p
  else if int32 then acc else x.fc.enc (rnd32 v)

/-- The accumulator set an MM uses: the one the previous MM left when ACC_IN is set, else the other (R95). -/
def Tile.mmSet (y : Tile) (accIn : Bool) : Bool := if accIn then y.accLast else !y.accLast

/-- The matrix engine's work: the accumulator set, and C unless KEEP is set (R94, R95). -/
def State.mmRun (s : State) (t : Nat) (x : MmOp) : State :=
  let y := s.tile t
  let set := y.mmSet x.accIn
  let old := if set then y.acc1 else y.acc0
  let n := mmN t
  let new : Tbl Nat := (List.range (x.m * n)).map (fun i => (i, s.mmEntry t x old (i / n) (i % n)))
  let all := new ++ old.filter (fun e => x.m * n ≤ e.1)
  let out := new.map (fun e => s.mmConv t x (e.1 % n) e.2)
  let s' := s.updTile t (fun y => if set then { y with acc1 := all, accLast := true } else { y with acc0 := all, accLast := false })
  if x.keep then s' else s'.putCodes t x.cAddr x.fc.w out

/-- MM (R90, R93 to R95, R104). -/
def execMm (tile : Fin 48) (h : Nat) (s : State) : Host.Outcome State Fault Refusal :=
  match s.engine? tile.val h 0x01 with
  | none => .next s
  | some (_, o) =>
    match mmFields o.desc with
    | none => .next (s.failCmd tile.val Stat.opInvalid)
    | some x => .next (s.runOp tile.val h true (x.reads tile.val) (x.writes tile.val) (fun s => s.mmRun tile.val x))

/-! ## Elementwise work and functions (R97) -/

/-- One elementwise result, in FP32 (R97). -/
def vewOne (op : VewOp) (a b c : Num) : Num :=
  match op with
  | .add => rnd32 (a.add b)
  | .sub => rnd32 (a.sub b)
  | .mul => rnd32 (a.mul b)
  | .fma => rnd32 ((a.mul b).add c)
  | .max => a.max b
  | .min => a.min b
  | .convert => a

/-- Inputs an elementwise operation has. -/
def vewInputs : VewOp → Nat
  | .convert => 1
  | .fma => 3
  | _ => 2

/-- VEW (R88, R89, R97): the output may have any format that R88 converts to, or FP32. -/
def execVew (tile : Fin 48) (h : Nat) (a : VewArgs) (s : State) : Host.Outcome State Fault Refusal :=
  let t := tile.val
  match s.engine? t h 0x10 with
  | none => .next s
  | some _ =>
    match fmtOf a.outFmt with
    | none => .next (s.failCmd t Stat.opInvalid)
    | some f =>
      let k := vewInputs a.op
      let one := fun (scalar : Bool) => vecBytes a.inBf16 (if scalar then 1 else a.n)
      let rs := [(a.a, one false)] ++ (if 2 ≤ k then [(a.b, one a.bScalar)] else []) ++ (if 3 ≤ k then [(a.c, one a.cScalar)] else [])
      let ws := [(a.dst, cdiv (a.n * f.w) 8)] ++ (if f.mx then [(a.dstScale, a.n / 32)] else [])
      let vs := (List.range a.n).map (fun i =>
        vewOne a.op (s.vecAt t a.inBf16 a.a i) (s.vecAt t a.inBf16 a.b (if a.bScalar then 0 else i))
          (s.vecAt t a.inBf16 a.c (if a.cScalar then 0 else i)))
      .next (s.runOp t h (decide (0 < a.n) && decide (a.outFmt ≠ 0x0D) && (!f.mx || a.n % 32 = 0)) rs ws (fun s =>
        if f.mx then
          let bs := (List.range (a.n / 32)).map (fun b => quantBlock f ((vs.drop (32 * b)).take 32))
          (s.putCodes t a.dst f.w (bs.map (·.2)).flatten).putCodes t a.dstScale 8 (bs.map (·.1))
        else s.putCodes t a.dst f.w (vs.map f.enc)))

/-- The output of a function in FP32 or BF16. -/
def vecOut (isBf16 : Bool) (code : Nat) : Nat := if isBf16 then fBF16.enc true (f32 code) else code

/-- VFN (R97). -/
def execVfn (tile : Fin 48) (h : Nat) (a : VfnArgs) (s : State) : Host.Outcome State Fault Refusal :=
  let t := tile.val
  match s.engine? t h 0x11 with
  | none => .next s
  | some _ =>
    let fn := fun (x : Nat) => match a.op with
      | .exp => vexp x
      | .reciprocal => vrecip x
      | .rsqrt => vrsqrt x
    let cs := (s.vecRow t a.inBf16 a.src a.n).map (fun v => vecOut a.outBf16 (fn (toF32 v)))
    .next (s.runOp t h (decide (0 < a.n)) [(a.src, vecBytes a.inBf16 a.n)] [(a.dst, vecBytes a.outBf16 a.n)] (fun s =>
      s.putCodes t a.dst (if a.outBf16 then 16 else 32) cs))

/-- Index of the greatest value, the lowest on a tie (R97, R98). -/
def argmaxFrom : List Num → Nat → Nat → Num → Nat
  | [], _, best, _ => best
  | v :: vs, i, best, m => if m.lt v then argmaxFrom vs (i + 1) i v else argmaxFrom vs (i + 1) best m
def argmax (vs : List Num) : Nat := argmaxFrom (vs.drop 1) 1 0 (vs.headD Num.zero)

/-- Left-to-right FP32 sum. -/
def sum32 (vs : List Num) : Nat := vs.foldl (fun a v => toF32 ((f32 a).add v)) 0

/-- VRED (R97): one value per row. -/
def execVred (tile : Fin 48) (h : Nat) (a : VredArgs) (s : State) : Host.Outcome State Fault Refusal :=
  let t := tile.val
  match s.engine? t h 0x12 with
  | none => .next s
  | some (c, _) =>
    let row := fun r => s.vecRow t a.inBf16 (a.src + r * vecBytes a.inBf16 a.n) a.n
    let one := fun r => match a.op with
      | .sum => nearF32 (cdBound c.desc) (s.fresh * 2 ^ 24 + r) (sum32 (row r))
      | .max => toF32 ((row r).foldl Num.max (.inf true))
      | .argmax => argmax (row r)
    let cs := (List.range a.rows).map one
    .next (s.runOp t h (decide (0 < a.n) && decide (0 < a.rows)) [(a.src, a.rows * vecBytes a.inBf16 a.n)] [(a.dst, 4 * a.rows)]
      (fun s => (s.putCodes t a.dst 32 cs).draw))

/-- SOFTMAX_ONLINE (R97): m' = max(m, max s); l' = l e^(m-m') + sum of e^(s-m'); the accumulator scaled by e^(m-m'). -/
def execSoftmaxOnline (tile : Fin 48) (h : Nat) (a : SoftmaxArgs) (s : State) : Host.Outcome State Fault Refusal :=
  let t := tile.val
  match s.engine? t h 0x13 with
  | none => .next s
  | some (c, _) =>
    let sc := (s.vecRow t false a.score a.n).map toF32
    let m := s.wrd t a.pair 4
    let l := s.wrd t (a.pair + 4) 4
    let m' := toF32 ((sc.map f32).foldl Num.max (f32 m))
    let k := expDiff m m'
    let l' := (sc.map (fun x => expDiff x m')).foldl fadd32 (fmul32 l k)
    let near := nearF32 (cdBound c.desc)
    let acc := (s.vecRow t false a.acc a.accN).map (fun v => fmul32 (toF32 v) k)
    let acc := acc.mapIdx (fun i v => near (s.fresh * 2 ^ 24 + 1 + i) v)
    .next (s.runOp t h (decide (0 < a.n)) [(a.score, 4 * a.n)] [(a.pair, 8), (a.acc, 4 * a.accN)]
      (fun s => ((s.putCodes t a.pair 32 [m', near (s.fresh * 2 ^ 24) l']).putCodes t a.acc 32 acc).draw))

/-- One normalised row (R97): RMS divides by the root of the mean square plus epsilon, LAYER subtracts the mean first;
gain and bias follow (DEDUCED, log 31). -/
def normRow (layer : Bool) (vs gain bias : List Num) (eps : Nat) : List Nat :=
  let inv := vrecip (toF32 (Num.ofInt vs.length))
  let mean := if layer then f32 (fmul32 (sum32 vs) inv) else Num.zero
  let ds := vs.map (fun v => rnd32 (v.sub mean))
  let ms := fmul32 (sum32 (ds.map (fun v => rnd32 (v.mul v)))) inv
  let k := f32 (vrsqrt (fadd32 ms eps))
  (List.zip ds (List.zip gain bias)).map (fun e => toF32 ((rnd32 ((rnd32 (e.1.mul k)).mul e.2.1)).add e.2.2))

/-- NORM (R97). -/
def execNorm (tile : Fin 48) (h : Nat) (a : NormArgs) (s : State) : Host.Outcome State Fault Refusal :=
  let t := tile.val
  match s.engine? t h 0x14 with
  | none => .next s
  | some (c, _) =>
    let gain := s.vecRow t false a.gain a.n
    let bias := match a.bias with
      | some b => s.vecRow t false b a.n
      | none => List.replicate a.n (.fin true 0 0)
    let rows := (List.range a.rows).map (fun r =>
      normRow a.layer (s.vecRow t a.inBf16 (a.src + r * vecBytes a.inBf16 a.n) a.n) gain bias a.eps.toNat)
    let cs := rows.flatten.mapIdx (fun i v => vecOut a.outBf16 (nearF32 (cdBound c.desc) (s.fresh * 2 ^ 24 + i) v))
    let rs := [(a.src, a.rows * vecBytes a.inBf16 a.n), (a.gain, 4 * a.n)] ++
      (match a.bias with
        | some b => [(b, 4 * a.n)]
        | none => [])
    .next (s.runOp t h (decide (0 < a.n) && decide (0 < a.rows)) rs [(a.dst, a.rows * vecBytes a.outBf16 a.n)]
      (fun s => (s.putCodes t a.dst (if a.outBf16 then 16 else 32) cs).draw))

/-- QUANT_MX (R87 to R89, R97). -/
def execQuantMx (tile : Fin 48) (h : Nat) (a : QuantArgs) (s : State) : Host.Outcome State Fault Refusal :=
  let t := tile.val
  match s.engine? t h 0x15 with
  | none => .next s
  | some _ =>
    match fmtOf a.fmt with
    | none => .next (s.failCmd t Stat.opInvalid)
    | some f =>
      let n := a.rows * a.n
      let vs := s.vecRow t a.inBf16 a.src n
      let bs := (List.range (n / 32)).map (fun b => quantBlock f ((vs.drop (32 * b)).take 32))
      .next (s.runOp t h (f.mx && decide (0 < n) && a.n % 32 = 0) [(a.src, vecBytes a.inBf16 n)]
        [(a.dst, n * f.w / 8), (a.dstScale, n / 32)]
        (fun s => (s.putCodes t a.dst f.w (bs.map (·.2)).flatten).putCodes t a.dstScale 8 (bs.map (·.1))))

/-! ## The sampler and tree acceptance (R98, R99) -/

/-- Logits with the bias rows added, in FP32 (R98, R255). -/
def State.logitRow (s : State) (t v off : Nat) (bias : List Nat) : List Num :=
  (List.range v).map (fun i => bias.foldl (fun z b => rnd32 (z.add (s.vecAt t true b i))) (s.vecAt t false off i))

/-- Sum of weights. -/
def total (ws : List (Nat × Num)) : Num := (ws.map (·.2)).foldl Num.add Num.zero

/-- The shortest prefix whose sum reaches `need`, the entry that reaches it included. -/
def prefixTo (need : Num) : Num → List (Nat × Num) → List (Nat × Num)
  | _, [] => []
  | acc, e :: es => let a := acc.add e.2; if need.le a then [e] else e :: prefixTo need a es

/-- Descending by value, ascending by token on a tie. -/
def descending (ws : List (Nat × Num)) : List (Nat × Num) :=
  ws.mergeSort (fun a b => b.2.lt a.2 || (!(a.2.lt b.2) && decide (a.1 ≤ b.1)))

/-- The target distribution of R98 as weights by ascending token; probabilities are the weights over their total. The
spec does not say how z is divided by TEMP: the vector unit has no division, and the model multiplies by its reciprocal
within 1 ulp and rounds to FP32 (DESIGN CHOICE, log 74). -/
def targetDist (p : SampleParams) (z : List Num) : List (Nat × Num) :=
  if (f32 p.temp.toNat).isZero then [(argmax z, .fin false 1 0)]
  else
    let inv := f32 (vrecip p.temp.toNat)
    let zt := (z.map (fun x => rnd32 (x.mul inv))).mapIdx (fun i x => (i, x))
    let kept := if p.topK = 0 then zt else (descending zt).take p.topK
    let m := kept.foldl (fun a e => if a.lt e.2 then e.2 else a) (.inf true)
    let ws := kept.map (fun e => (e.1, expRef (e.2.sub m)))
    let ws := if (f32 p.topP.toNat).lt (.fin false 1 0) then
        prefixTo ((f32 p.topP.toNat).mul (total ws)) Num.zero (descending ws) else ws
    let mx := ws.foldl (fun a e => if a.lt e.2 then e.2 else a) Num.zero
    let ws := if Num.zero.lt (f32 p.minP.toNat) then ws.filter (fun e => ((f32 p.minP.toNat).mul mx).le e.2) else ws
    ws.mergeSort (fun a b => a.1 ≤ b.1)

/-- The weight of a token. -/
def weightOf (ws : List (Nat × Num)) (x : Nat) : Num := ((ws.find? (fun e => e.1 = x)).map (·.2)).getD Num.zero

/-- A uniform draw in [0, 1) (R98). -/
def uniform (key : Nat) : Num := .fin false (Config.uniform key).toNat (-64)

/-- The first token, ascending, at which the running sum exceeds `lim`. -/
def drawAt (lim : Num) : Num → List (Nat × Num) → Option Nat
  | _, [] => none
  | acc, e :: es => let a := acc.add e.2; if lim.lt a then some e.1 else drawAt lim a es

/-- Draw a token from a distribution (R98); where no token stands out (a NaN among the logits) the spec states no
result (log 10). -/
def drawFrom (key v : Nat) (ws : List (Nat × Num)) : Nat :=
  match drawAt ((uniform key).mul (total ws)) Num.zero ws with
  | some x => x
  | none => Config.approx key % Nat.max 1 v

/-- Sampling parameters in range (R98). -/
def SampleParams.ok (p : SampleParams) (v : Nat) : Bool := decide (0 < v) && decide (v ≤ 262144) && decide (p.topK ≤ 1024)

/-- Tokens an operation gave, with their log-probabilities, for the token entries of the command (R371). -/
def State.addLps (s : State) (t : Nat) (es : List (Nat × Nat × Bool)) : State :=
  s.updTile t (fun x => { x with cur := x.cur.map (fun (c : TileCmd) => { c with lps := c.lps ++ es }) })

/-- The log-probability of a token in the distribution it was drawn from (R97, R98): the logarithm of its probability,
as near as the command's bound asks (R91, R92). Where there is no such distribution (TEMP 0), or no probability in it,
the spec states no result (log 10). -/
def lpOf (bound key : Nat) (p : SampleParams) (ws : List (Nat × Num)) (tok : Nat) : Nat :=
  let w := weightOf ws tok
  if (f32 p.temp.toNat).isZero || !(Num.zero.lt w) || !((total ws).lt (.inf false)) then (Config.logProb key).toNat
  else
    let ref := toF32 ((lnRef w).sub (lnRef (total ws)))
    let c := (Config.logProb key).toNat
    if agree bound (f32 c) (f32 ref) then c else ref

/-- SAMPLE (R97, R98): one token, and its log-probability. -/
def execSample (tile : Fin 48) (h : Nat) (a : SampleArgs) (s : State) : Host.Outcome State Fault Refusal :=
  let t := tile.val
  match s.engine? t h 0x16 with
  | none => .next s
  | some (c, _) =>
    let ws := targetDist a.p (s.logitRow t a.v a.logits a.bias)
    let tok := drawFrom s.fresh a.v ws
    let lp := lpOf (cdBound c.desc) s.fresh a.p ws tok
    .next (s.runOp t h (SampleParams.ok a.p a.v) ((a.logits, 4 * a.v) :: a.bias.map (fun b => (b, 2 * a.v))) [(a.dstTok, 4), (a.dstLp, 4)]
      (fun s => (((s.putCodes t a.dstTok 32 [tok]).putCodes t a.dstLp 32 [lp]).addLps t [(tok, lp, false)]).draw))

/-- The parent rule and size of a tree (R99). -/
def AcceptArgs.treeOk (a : AcceptArgs) : Bool :=
  decide (1 ≤ a.parents.length) && decide (a.parents.length ≤ 16) && decide (a.parents.length ≤ a.treeMax) &&
    a.tokens.length == a.parents.length && (a.parents.mapIdx (fun i q => decide (q ≤ i))).all id

/-- Children of a node, ascending; node i's parent stands at position i - 1. -/
def AcceptArgs.kids (a : AcceptArgs) (node : Nat) : List Nat :=
  ((List.range a.parents.length).filter (fun i => nth a.parents i 0 = node)).map (· + 1)

/-- The draft token of a node. -/
def AcceptArgs.token (a : AcceptArgs) (node : Nat) : Nat := nth a.tokens (node - 1) 0

/-- Weights lowered by a distribution `q` scaled to their total, none below zero (R99). -/
def residual (ws : List (Nat × Num)) (q : Nat → Num) : List (Nat × Num) :=
  let tot := total ws
  ws.map (fun e => let d := e.2.sub ((q e.1).mul tot); (e.1, if d.lt Num.zero then Num.zero else d))

/-- The children of a node tried in turn: the one chosen, the distribution left, the next draw (R99). -/
def tryKids (a : AcceptArgs) (q : Nat → Num) : List Nat → List (Nat × Num) → Nat → Option Nat × List (Nat × Num) × Nat
  | [], ws, key => (none, ws, key)
  | c :: cs, ws, key =>
    let x := AcceptArgs.token a c
    if a.greedy then
      if (ws.headD (0, Num.zero)).1 = x then (some c, ws, key) else tryKids a q cs ws key
    else if (q x).isZero then (some c, ws, key)
    else if ((uniform key).mul ((q x).mul (total ws))).lt (weightOf ws x) then (some c, ws, key + 1)
    else tryKids a q cs (residual ws q) (key + 1)

/-- The walk of R99 from a node: the tokens out and the path. `dist` gives a node's target distribution (its argmax
alone in greedy mode), `q` its draft distribution. -/
def acceptFrom (a : AcceptArgs) (dist : Nat → List (Nat × Num)) (q : Nat → Nat → Num) :
    Nat → Nat → Nat → List Nat × List Nat × Nat
  | 0, node, key => ([drawFrom key a.v (dist node)], [], key + 1)
  | f + 1, node, key =>
    match tryKids a (q node) (AcceptArgs.kids a node) (dist node) key with
    | (none, ws, key) => ([drawFrom key a.v ws], [], key + 1)
    | (some c, _, key) =>
      let r := acceptFrom a dist q f c key
      (AcceptArgs.token a c :: r.1, c :: r.2.1, r.2.2)

/-- The parents that have a child, ascending: the draft rows in the order they stand (R99). -/
def AcceptArgs.draftRow (a : AcceptArgs) (node : Nat) : Nat :=
  ((List.range node).filter (fun i => a.parents.contains i)).length

/-- ACCEPT (R97, R99): each list is written as its INT32 count and its INT32 entries (log 6). A draft token that is no
token of the vocabulary, on which the spec is silent, is an invalid field of R105 (DESIGN CHOICE, log 75). -/
def execAccept (tile : Fin 48) (h : Nat) (a : AcceptArgs) (s : State) : Host.Outcome State Fault Refusal :=
  let t := tile.val
  match s.engine? t h 0x17 with
  | none => .next s
  | some _ =>
    let n := a.parents.length
    let z := fun node => s.logitRow t a.v (a.logits + node * (4 * a.v)) a.bias
    let dist := fun node => if a.greedy then [(argmax (z node), Num.fin false 1 0)] else targetDist a.p (z node)
    let q := fun node x => s.vecAt t true (a.draft + AcceptArgs.draftRow a node * (2 * a.v)) x
    let r := acceptFrom a dist q n 0 (s.fresh * 64)
    let rows := (List.range n).filter (fun i => a.parents.contains i)
    let rs := [(a.logits, (n + 1) * (4 * a.v))] ++ a.bias.map (fun b => (b, 2 * a.v)) ++
      (if a.greedy then [] else [(a.draft, rows.length * (2 * a.v))])
    let ok := AcceptArgs.treeOk a && SampleParams.ok a.p a.v && a.tokens.all (fun x => decide (x < a.v))
    .next (s.runOp t h ok rs [(a.outTok, 4 * (n + 2)), (a.outPath, 4 * (n + 1))]
      (fun s => (((s.putCodes t a.outTok 32 (r.1.length :: r.1)).putCodes t a.outPath 32 (r.2.1.length :: r.2.1)).addLps t
        ((List.range r.1.length).map (fun k => (nth r.1 k 0, (Config.logProb (s.fresh * 64 + 32 + k)).toNat, decide (k < r.2.1.length))))).draw))

/-! ## Comparison and biases -/

/-- Value i of an array in any format, its block's scale applied (R85, R87). -/
def State.elemAt (s : State) (t : Nat) (f : Fmt) (off scale i : Nat) : Num :=
  (f.dec (packedAt (s.wrd t) off f.w i)).mul (s.mmScale t f (scale + i / 32))

/-- COMPARE (R92, R97): the count of disagreeing elements, and the index of the first, all ones when there is none. -/
def execCompare (tile : Fin 48) (h : Nat) (a : CompareArgs) (s : State) : Host.Outcome State Fault Refusal :=
  let t := tile.val
  match s.engine? t h 0x18 with
  | none => .next s
  | some _ =>
    match fmtOf a.fmt with
    | none => .next (s.failCmd t Stat.opInvalid)
    | some f =>
      let bad := (List.range a.n).filter (fun i =>
        !(agree a.bound.toNat (s.elemAt t f a.a a.aScale i) (s.elemAt t f a.b a.bScale i)))
      let rs := [(a.a, cdiv (a.n * f.w) 8), (a.b, cdiv (a.n * f.w) 8)] ++
        (if f.mx then [(a.aScale, cdiv a.n 32), (a.bScale, cdiv a.n 32)] else [])
      .next (s.runOp t h true rs [(a.dst, 8)]
        (fun s => s.putCodes t a.dst 32 [bad.length, bad.headD 0xFFFFFFFF]))

/-- The bias entry of a query at position `qp`, an INT32, for the key at storage position `j` (R140, R143). -/
def biasEntry (treeBase sinkN qp j : Nat) (anc : Nat → Nat) : Nat :=
  if treeBase ≤ j then anc (j - treeBase)
  else if bit qp 31 || decide (qp < j) then 255
  else if j < sinkN then 183
  else bucket (qp - j)

/-- ATTN_BIAS (R139 to R144, R146): each score of the block gains its entry's bias in FP32. Without a matrix TREE_BASE counts
for nothing (DESIGN CHOICE, log 78). -/
def execAttnBias (tile : Fin 48) (h : Nat) (s : State) : Host.Outcome State Fault Refusal :=
  let t := tile.val
  match s.engine? t h 0x19 with
  | none => .next s
  | some (_, o) =>
    let d := o.desc
    let sAddr := fld d 0x10 4
    let qpos := fld d 0x14 4
    let tbl := fld d 0x18 4
    let ovl := fld d 0x1C 4
    let ancA := fld d 0x20 4
    let kpos0 := fld d 0x24 4
    let treeBase := fld d 0x28 4
    let rows := fld d 0x2C 2
    let cols := fld d 0x2E 2
    let stride := fld d 0x30 2
    let head := fld d 0x32 1
    let sinkN := fld d 0x33 1
    let node0 := fld d 0x34 1
    let verify := ancA ≠ 0
    let base := if verify then treeBase else 2 ^ 32
    let lastNode := if base < kpos0 + cols then kpos0 + cols - 1 - base else 0
    let ok := decide (1 ≤ rows) && decide (rows ≤ 1024) && decide (1 ≤ cols) && decide (cols ≤ 8192) &&
      decide (cdiv (cols * 4) 128 ≤ stride) && decide (head < 128) && fld d 0x35 9 = 0 &&
      (!(decide verify) || (decide (node0 + rows ≤ 17) && decide (lastNode ≤ 16)))
    let rs := [(qpos, 4 * rows), (tbl, 65536)] ++ (if ovl = 0 then [] else [(ovl, 65536)]) ++
      (if verify then [(ancA, 289)] else [])
    let val := fun (r c : Nat) =>
      let e := biasEntry base sinkN (s.wrd t (qpos + 4 * r) 4) (kpos0 + c) (fun k => s.wrd t (ancA + 17 * (node0 + r) + k) 1)
      let b : Num := if e = 255 then .inf true
        else s.vecAt t true (if ovl ≠ 0 && 184 ≤ e then ovl + head * 512 else tbl + head * 512) e
      toF32 ((f32 (s.wrd t (sAddr + r * stride * 128 + 4 * c) 4)).add b)
    .next (s.runOp t h ok rs [(sAddr, (rows - 1) * stride * 128 + 4 * cols)] (fun s =>
      (List.range rows).foldl (fun s r => s.putCodes t (sAddr + r * stride * 128) 32 ((List.range cols).map (val r))) s))

end Sys2Proof.Machine
end

