-- ==== Sys2Proof/Machine/Hbm.lean ====
section
/-!
DEFINITION. Sys2Proof/Machine/Hbm.lean: channel modes and the hold queue (R165 to R172), plot ownership (R173 to R175),
the BAU's operations (R176 to R185) and the HBMC and BAU registers (R188 to R196).

CHANNEL_ENTER is the whole of R166 and CHANNEL_EXIT the whole of R167, since each step is indivisible: between steps a
channel with a program is in PROCESSOR, and ENTERING is not seen.
-/
namespace Sys2Proof.Machine

/-! ## Held accesses (R169, R170) -/

/-- The DMA transfer of an agent, with its engine and channel. -/
def State.xferOf (s : State) (ag : Agent) : Option (Nat × Nat × Xfer) :=
  match ag with
  | .dma e c => ((s.dch e.val c.val).xfer).map (fun f => (e.val, c.val, f))
  | .tileDma t h => ((s.dch (dieOfTile t.val) (s.tileDch t.val h)).xfer).map (fun f => (dieOfTile t.val, s.tileDch t.val h, f))
  | _ => none

/-- An access of a transfer is no longer held. -/
def State.dmaUnheld (s : State) (e c pos : Nat) : State :=
  s.updDch e c (fun k => { k with xfer := k.xfer.map (fun f => { f with held := f.held.erase pos }) })

/-- A destination byte is also a source byte of the transfer (R216). -/
def overlaps (srcs : List (Nat × Nat)) (a : Nat) : Bool :=
  srcs.any (fun p => decide (memKey p.1 ≤ memKey a) && decide (memKey a < memKey p.1 + p.2))

/-- The bytes a transfer's read gives for a destination: those of an overlap are open (R216). -/
def State.readFor (s : State) (srcs : List (Nat × Nat)) (src dst n : Nat) : List Byte :=
  (s.bytes src n).mapIdx (fun k b => if overlaps srcs (dst + k) then Config.overlapByte s.fresh (dst + k) else b)

/-- A transfer's write: at once and counted, or held by its channel (R169, R391). -/
def State.dmaPut (s : State) (ag : Agent) (e c pos tn dst : Nat) (bs : List Byte) : State :=
  match s.heldChan dst bs.length with
  | none => (((s.countTier tn dst bs.length true).placeBytes dst bs).dmaUnheld e c pos).draw
  | some ch => s.holdAcc ch ⟨.dma e (match ag with
      | .dma _ _ => true
      | _ => false), true, chanOff dst, 0, bs, .dma ag pos dst⟩

/-- A held access of a DMA transfer is served, or completed poisoned, which ends the transfer with POISONED (R167, R170,
R220). -/
def State.dmaHeld (s : State) (a : HeldAcc) (pa : Nat) (ag : Agent) (pos dst : Nat) (poison : Bool) : State :=
  match s.xferOf ag with
  | none => if a.write && !poison then s.placeBytes pa a.data else s
  | some (e, c, f) =>
    if poison then (s.dmaUnheld e c pos).cutXfer ag e c Stat.poisoned (pos + 1)
    else if a.write then (((s.countTier f.tn dst a.data.length true).placeBytes pa a.data).dmaUnheld e c pos)
    else (s.countTier f.tn pa a.len false).dmaPut ag e c pos f.tn dst (s.readFor f.srcs pa dst a.len)

/-- A received packet whose placement was held: placed unless its message has ended or another copy came first (R315); one
that the watchdog drops is answered with POISONED (R170, R291). -/
def State.raeHeld (s : State) (p : Pkt) (pa : Nat) (poison : Bool) : State :=
  let c := rqConn p
  let x := s.conn c
  if x.state ≠ .ready then s
  else if p.ptype = 0x12 then
    match x.readOf p with
    | none => s
    | some m => if poison then s.connError c Stat.poisoned (some m.entry) else s.putRead c m p pa
  else if !(x.inm.any (fun m => m.msn = rqMsn p && !m.done && !(m.bitmap.testBit (rqPidx p)))) then s
  else if poison then s.sendErr c (rqMsn p) 0x307
  else s.putInbound c p pa (if p.ptype = 0x15 then x.tenant else rgTenant (s.region (rqRegion p)))

/-- A packet of this end whose source was held: it leaves on its link, or goes back to its connection when the link is lost;
a source completed poisoned ends the connection with POISONED (R170, R317, R320). -/
def State.raeSource (s : State) (c msn k lk : Nat) (poison : Bool) : State :=
  let x := s.conn c
  match x.out.find? (fun m => m.msn = msn && m.inQ.contains k) with
  | none => s
  | some m =>
    if x.state ≠ .ready then s
    else if poison then s.connError c Stat.poisoned (some m.entry)
    else if s.activeToward lk x.dest then s.sendPacket c lk m k
    else s.updConn c (fun y => y.unqueued msn k)

/-- A held access is issued to the banks (R167), or completed poisoned by the watchdog (R170). -/
def State.performHeld (s : State) (ch : Nat) (a : HeldAcc) (poison : Bool) : State :=
  let pa := aliasAddr ch a.off
  match a.who with
  | .nobody => if a.write && !poison then s.placeBytes pa a.data else s
  | .thread t th acc =>
    if poison then s.failCmd t.val Stat.poisoned
    else if a.write then
      (s.placeBytes pa a.data).updCmd t.val (fun c =>
        TileCmd.wake { c with threads := Tbl.upd c.threads th.val {} (fun h => { h with outst := h.outst - 1 }) })
    else
      let v := s.rd pa a.len
      (s.updThread t.val th.val (fun h => if h.wait = some (.held ch) then { h.loaded acc v with wait := none } else h)).updCmd t.val TileCmd.wake
  | .msf die p => s.msfPerform die.val p poison
  | .dma ag pos dst => s.dmaHeld a pa ag pos dst poison
  | .rae p => s.raeHeld p pa poison
  | .raeOut c msn k lk => s.raeSource c msn k lk poison
  | .raeResp c lk d => if (s.conn c).state ≠ .ready then s else if poison then s.sendErr c d.msn 0x307 else s.sendResp c lk d

/-- Longest hold in units of 100 ns (R191). -/
def Chan.waited (k : Chan) (since now : Nat) : Chan := { k with maxWait := Nat.min 65535 (Nat.max k.maxWait ((now - since) / 10)) }

/-- The 65th access enters the queue when one of the 64 leaves it (R169). -/
def shiftHold (now : Nat) (hs : List Held) : List Held :=
  hs.mapIdx (fun i h => if i = 63 then { h with since := now } else h)

/-- The controller serves the held accesses, in the order they were held (R167, R169). -/
def State.serveHold (s : State) (ch : Nat) : State :=
  let hs := (s.chan ch).hold
  let s := s.updChan ch (fun k =>
    (hs.take 64).foldl (fun k h => k.waited h.since s.ltu)
      { k with hold := [], held := if 64 < hs.length then satAdd 32 k.held (hs.length - 64) else k.held })
  (hs.foldl (fun s h => s.performHeld ch h.acc false) s).msfRelease

/-- HOLD_ACCESS (R169): an ordinary access that no other command makes, of a control core or a direct port, arrives at
a channel outside MEMORY. -/
def execHoldAccess (ch : Fin 128) (a : HeldAcc) (s : State) : Host.Outcome State Fault Refusal :=
  if !s.live || (s.chan ch.val).mode = .memory || a.who ≠ .nobody || 0x100000000 < a.off + Nat.max a.len a.data.length then .next s
  else .next (s.holdAcc ch.val a)

/-- Source MEM_HOLD_TIMEOUT of a channel (R448). -/
def holdSource (ch : Nat) : Nat := 0x240 + 0x20 * (ch / 16) + ch % 16

/-- HOLD_WATCHDOG (R170, R172): the oldest access has waited more than 100 us in the queue. -/
def execHoldWatchdog (ch : Fin 128) (s : State) : Host.Outcome State Fault Refusal :=
  match (s.chan ch.val).hold with
  | [] => .next s
  | h :: rest =>
    if !s.live || (s.chan ch.val).mode = .memory || s.ltu ≤ h.since + 10000 then .next s
    else
      let s := s.updChan ch.val (fun k =>
        { (k.waited h.since s.ltu) with
            hold := if 64 ≤ rest.length then shiftHold s.ltu rest else rest,
            held := if 64 ≤ rest.length then satAdd 32 k.held 1 else k.held,
            holdTimeout := satAdd 16 k.holdTimeout 1 })
      .next ((s.performHeld ch.val h.acc true).raise (holdSource ch.val))

/-! ## Plot ownership (R173, R174) -/

def ownCheckOk (e : Nat) : Bool := bits e 24 8 = crc8 (toBytes 3 (bits e 0 24))
def State.ownEntry (s : State) (ch plot : Nat) : Nat := Tbl.getD (s.chan ch).owner plot 0

/-- A plot is the tenant's, and writable when it is written (R174). -/
def State.ownOk (s : State) (ch tenant plot : Nat) (write : Bool) : Bool :=
  let e := s.ownEntry ch plot
  ownCheckOk e && bit e 16 && bits e 0 16 = tenant && (!write || bit e 17)

/-- Plots a byte range overlaps. -/
def plotsOf (off len : Nat) : List Nat := rangeFrom (off / 65536) ((off + len - 1) / 65536 - off / 65536 + 1)

/-- R174 over the plots a program reads and writes: an entry that fails its CHECK raises BAU_CHECK. -/
def State.ownerCheck (s : State) (ch tenant : Nat) (rs ws : List Nat) : State × Bool :=
  let bad := (rs ++ ws).any (fun p => !(ownCheckOk (s.ownEntry ch p)))
  let s := if bad then (s.tableCheck (dieOfChan ch)).raise (0x240 + 0x20 * (ch / 16) + 0x10) else s
  (s, rs.all (fun p => s.ownOk ch tenant p false) && ws.all (fun p => s.ownOk ch tenant p true))

/-! ## Fields of BAU operations (R176 to R182) -/

def buOp (d : Nat) : Nat := fld d 0x10 1
def buMask (d : Nat) : Nat := fld d 0x11 1
def atHeads (d : Nat) : Nat := fld d 0x12 1
def atNodes (d : Nat) : Nat := fld d 0x13 1
def atParam (d : Nat) : Nat := fld d 0x14 4
def atList (d i : Nat) : Nat := fld d 0x18 4 + i * fld d 0x1C 2 * 128
def atRet (d i : Nat) : Nat := fld d 0x20 4 + i * fld d 0x1E 2 * 128
def atQpos (d : Nat) : Nat := fld d 0x24 4
def atTree (d : Nat) : Nat := fld d 0x28 4
def atScale (d : Nat) : Nat := fld d 0x2C 4
def atHead0 (d : Nat) : Nat := fld d 0x30 1
def atDim (d : Nat) : Nat := match fld d 0x31 1 with
  | 1 => 64
  | 2 => 128
  | 3 => 256
  | _ => 0
def atFmt (d : Nat) : Nat := fld d 0x32 1
def atSink (d : Nat) : Nat := fld d 0x33 1
def atRows (d : Nat) : Nat := atHeads d * atNodes d
def atVerify (d : Nat) : Bool := decide (atTree d ≠ 0xFFFFFFFF)
/-- Bytes of a key or value element. -/
def atElem (d : Nat) : Nat := if atFmt d = 0x0B then 2 else 1
/-- T_P of the operation's format (R134). -/
def atSlots (d : Nat) : Nat := 65536 / (2 * Nat.max 1 (atDim d) * atElem d)

/-- Bytes of the parameter block that are sent (R178). -/
def atParamBytes (d : Nat) : Nat := if atVerify d then 0x18140 + 17 else 0x10000 + atHeads d * 512

/-- Field rules of ATTEND (R134, R177, R181). -/
def atFieldsOk (t d : Nat) : Bool :=
  buMask d ≠ 0 && decide (1 ≤ atHeads d) && decide (atHeads d ≤ 64) && decide (1 ≤ atNodes d) && decide (atNodes d ≤ 17) &&
    atDim d ≠ 0 && (atFmt d = 1 || atFmt d = 2 || (atFmt d = 0x0B && atDim d ≠ 64)) && fld d 0x34 10 = 0 &&
    decide (atRows d ≤ 256) && decide (atRows d * atDim d ≤ 32768) && decide (atHead0 d + atHeads d ≤ 128) &&
    (atVerify d || atNodes d = 1) && atParam d % 128 = 0 && fld d 0x18 4 % 128 = 0 && fld d 0x20 4 % 128 = 0 &&
    inScratch t (atParam d) (atParamBytes d)

/-- Bytes of a return record (R181). -/
def atRetBytes (d : Nat) : Nat := atRows d * (atDim d * 4 + 8)

/-- COUNT and entry k of a channel's page list (R179). -/
def State.listCount (s : State) (t d i : Nat) : Nat := s.wrd t (atList d i) 2
def State.listEntry (s : State) (t d i k : Nat) : Nat := s.wrd t (atList d i + 8 + 8 * k) 8
def pePlot (e : Nat) : Nat := bits e 0 16
def pePos (e : Nat) : Nat := bits e 16 32
def peSlots (e : Nat) : Nat := bits e 48 10
def State.pageList (s : State) (t d i : Nat) : List Nat := (List.range (s.listCount t d i)).map (fun k => s.listEntry t d i k)

/-- The B-tile's check of a channel's page list (R179). -/
def State.listOk (s : State) (t d i : Nat) : Bool :=
  let n := s.listCount t d i
  inScratch t (atList d i) (8 + 8 * n) && decide (n ≤ 256) &&
    s.wrd t (atList d i + 4) 4 = crc32c (s.wbytes t (atList d i) 4 ++ s.wbytes t (atList d i + 8) (8 * n)) &&
    s.wrd t (atList d i + 2) 2 = 0 &&
    (s.pageList t d i).all (fun e => decide (1 ≤ peSlots e) && decide (peSlots e ≤ atSlots d) && bits e 58 6 = 0 &&
      (!(atVerify d) || decide (pePos e + peSlots e ≤ atTree d + atNodes d)))

def mvSrc (d : Nat) : Nat := fld d 0x14 4
def mvDst (d : Nat) : Nat := fld d 0x18 4
def mvScl (d : Nat) : Nat := fld d 0x1C 4
def mvLen (d : Nat) : Nat := fld d 0x20 4
def mvSrcFmt (d : Nat) : Nat := fld d 0x24 1
def mvDstFmt (d : Nat) : Nat := fld d 0x25 1

/-- Element width and MX of a destination format of QUANTISE. -/
def mvWidth (d : Nat) : Nat := ((fmtOf (mvDstFmt d)).map (·.w)).getD 8
def mvMx (d : Nat) : Bool := ((fmtOf (mvDstFmt d)).map (·.mx)).getD false

/-- Source, destination and scale ranges of COPY, QUANTISE and ZERO (R182). -/
def mvSrcLen (d : Nat) : Nat := if buOp d = 3 then mvLen d * (if mvSrcFmt d = 0x0B then 2 else 4) else mvLen d
def mvDstLen (d : Nat) : Nat := if buOp d = 3 then mvLen d * mvWidth d / 8 else mvLen d
def mvReads (d : Nat) : List (Nat × Nat) := if buOp d = 4 then [] else [(mvSrc d, mvSrcLen d)]
def mvWrites (d : Nat) : List (Nat × Nat) :=
  (mvDst d, mvDstLen d) :: (if buOp d = 3 && mvMx d then [(mvScl d, mvLen d / 32)] else [])

/-- 32-byte units of the output, the scale array after the elements (R183). -/
def mvUnits (d : Nat) : Nat := ((mvWrites d).map (fun w => cdiv w.2 32)).sum

/-- Two ranges share a byte. -/
def overlap (a b : Nat × Nat) : Bool := decide (a.1 < b.1 + b.2) && decide (b.1 < a.1 + a.2)

/-- Field and limit rules of R182. -/
def mvFieldsOk (d : Nat) : Bool :=
  let n := mvLen d
  let rsv := fld d 0x12 2 = 0 && fld d 0x26 24 = 0
  let lim := match buOp d with
    | 2 => decide (1 ≤ n) && decide (n ≤ 8388608)
    | 3 => decide (32 ≤ n) && decide (n ≤ 2097152) && n % 32 = 0 &&
        (mvSrcFmt d = 0x0B || mvSrcFmt d = 0x0C) &&
        ([0x01, 0x02, 0x03, 0x04, 0x07, 0x08].contains (mvDstFmt d) || (mvDstFmt d = 0x0B && mvSrcFmt d = 0x0C))
    | _ => decide (1 ≤ n) && decide (n ≤ 16777216)
  let ws := mvWrites d
  let apart := (mvReads d).all (fun r => ws.all (fun w => !(overlap r w))) &&
    (match ws with
      | [a, b] => !(overlap a b)
      | _ => true)
  buMask d ≠ 0 && rsv && lim && apart && (mvReads d ++ ws).all (fun r => decide (r.1 + r.2 ≤ 0x100000000))

/-- The status with which an operation is refused before a channel enters (R181, R182, R184), OK when it may enter. -/
def State.bauStatus (s : State) (t d ch : Nat) : Nat :=
  let i := ch % 8
  let ok := if buOp d = 1 then atFieldsOk t d && s.listOk t d i else (2 ≤ buOp d && buOp d ≤ 4 && mvFieldsOk d)
  let ret := if buOp d = 1 then extentStatus t (s.tile t).resBytes [] [(atRet d i, atRetBytes d)] else Stat.ok
  if !ok then Stat.opInvalid
  else if ret ≠ Stat.ok then ret
  else if (List.range 8).any (fun k => bit (buMask d) k && ((s.chan (ch / 8 * 8 + k)).disable || (s.chan (ch / 8 * 8 + k)).fenced))
    then Stat.bauFenced
  else Stat.ok

/-! ## Programs -/

/-- The next operation of a B-tile's BAU queue for its channel `i` (R176): the first that names the channel and has not
run there, with the dependencies of all up to it complete (R105). -/
def bauFirst (c : TileCmd) (i : Nat) : List Op → Option Op
  | [] => none
  | o :: os =>
    if o.unit = 3 && o.phase = .queued then
      if c.depOk (fld o.desc 4 4) && c.depOk (fld o.desc 8 4) then
        if bit (buMask o.desc) i && !(o.chDone.getLsbD i) then some o else bauFirst c i os
      else none
    else bauFirst c i os

/-- The command and operation a channel would run next. -/
def State.bauNext (s : State) (ch : Nat) : Option (TileCmd × Op) :=
  match s.cmd? (btileOfChan ch) with
  | none => none
  | some c => if c.phase = .running then (bauFirst c (ch % 8) c.ops).map (fun o => (c, o)) else none

/-- A program has completed on a channel: its operation completes with the last channel of its mask (R176). -/
def State.chanDone (s : State) (t h i : Nat) : State :=
  s.updCmd t (fun c => c.setOp h (fun o =>
    let dn := o.chDone ||| BitVec.ofNat 8 (2 ^ i)
    { o with chDone := dn, phase := if buMask o.desc &&& dn.toNat = buMask o.desc then .executed else o.phase }))

/-- The empty record of a channel with no pages (R181). -/
def emptyRecord (d : Nat) : List Byte :=
  List.replicate (atRows d * atDim d * 4) 0#8 ++ ((List.range (atRows d)).map (fun _ => toBytes 4 negInf32 ++ toBytes 4 0)).flatten

/-- A channel takes its next program: refused, written as an empty record by the B-tile, or entered, its parameter block
and page list loaded into the operand buffer, and its plots checked (R164, R166, R174, R181). -/
def State.bauEnter (s : State) (ch : Nat) (c : TileCmd) (o : Op) : State :=
  let t := btileOfChan ch
  let d := o.desc
  let i := ch % 8
  let st := s.bauStatus t d ch
  if st ≠ Stat.ok then s.failAccess t st
  else if buOp d = 1 && s.listCount t d i = 0 then
    (s.placeBytes (tileBase t + atRet d i) (emptyRecord d)).chanDone t o.handle i
  else
    let p : BauProg := { tile := t, handle := o.handle, tag := cdTag c.desc, tenant := cdTenant c.desc, start := s.ltu,
                         shadow := cdShadow c.desc, desc := d, param := if buOp d = 1 then s.wbytes t (atParam d) (atParamBytes d) else [],
                         pages := if buOp d = 1 then s.pageList t d i else [], units := if buOp d = 1 then 0 else mvUnits d }
    let s := s.updChan ch (fun k => { k with mode := .processor, prog := some p })
    let rs := if buOp d = 1 then p.pages.map pePlot else ((mvReads d).map (fun r => plotsOf r.1 r.2)).flatten
    let ws := if buOp d = 1 then [] else ((mvWrites d).map (fun r => plotsOf r.1 r.2)).flatten
    match s.ownerCheck ch p.tenant rs ws with
    | (s, true) => s
    | (s, false) => s.failAccess t Stat.accessDenied

/-- CHANNEL_ENTER (R165, R166, R167, R174): a channel in MEMORY with nothing held takes the program at the head of its
queue. -/
def execChannelEnter (ch : Fin 128) (s : State) : Host.Outcome State Fault Refusal :=
  let k := s.chan ch.val
  if !s.live || k.mode ≠ .memory || !k.hold.isEmpty then .next s
  else match s.bauNext ch.val with
    | none => .next s
    | some (c, o) => .next (s.bauEnter ch.val c o)

/-- Bytes and time of a program that ends, charged to its tenant (R185, R391, R477). -/
def State.chargeProg (s : State) (ch : Nat) (p : BauProg) : State :=
  let n := 8 * (s.ltu - p.start)
  let s := s.updChan ch (fun k => { k with busyAclk := satAdd 64 k.busyAclk n })
  if p.shadow then s.tap 1 (8 + ch / 16) 0xFFFF n
  else (s.updAcct p.tenant (fun a => { a with bauAclk := wrap64 (a.bauAclk + n) })).tap 1 (8 + ch / 16) p.tenant n

/-- Bytes a program read and wrote in its banks (R391). -/
def State.countBau (s : State) (p : BauProg) (rd wr : Nat) : State :=
  (s.countBytes p.tenant 0 rd).countBytes p.tenant 1 wr

/-- The program of a channel that is about to do its work: of BAU_OP `op`, within 64 us (R171). -/
def State.program? (s : State) (ch op : Nat) : Option (BauProg × TileCmd × Op) :=
  if !s.live then none
  else match (s.chan ch).prog with
    | none => none
    | some p =>
      if p.stopping || p.start + 6400 < s.ltu || buOp p.desc ≠ op then none
      else match s.cmd? p.tile with
        | none => none
        | some c => match c.op? p.handle with
          | none => none
          | some o => if o.desc = p.desc && cdTag c.desc = p.tag then some (p, c, o) else none

/-- A program ends with OK (R167, R192). -/
def State.progOk (s : State) (ch : Nat) (p : BauProg) : State :=
  let s := s.chargeProg ch p
  let s := s.updChan ch (fun k => { k with prog := none, programs := satAdd 32 k.programs 1 })
  s.chanDone p.tile p.handle (ch % 8)

/-- The code's outcome of a program's reads (R183): units corrected are counted; an uncorrectable one is counted, raises
HBM_UNCORRECTED, stops the program and fails its command with POISONED. -/
def State.eccEnd (s : State) (ch : Nat) (p : BauProg) (o : EccOutcome) (f : State → State) : State :=
  match o with
  | .good n => f (s.updChan ch (fun k => { k with eccCorrected := satAdd 32 k.eccCorrected n }))
  | .bad n =>
    let s := s.updChan ch (fun k => { k with eccCorrected := satAdd 32 k.eccCorrected n, eccUncorrected := satAdd 32 k.eccUncorrected 1 })
    ((s.stopProg ch).raise (0x240 + 0x20 * (ch / 16) + 0x11)).failCmd p.tile Stat.poisoned

/-- Key or value element e of slot s in a plot (R134). -/
def State.kvAt (s : State) (ch d plot slot e : Nat) (value : Bool) : Num :=
  let a := aliasAddr ch (plot * 65536 + (if value then 32768 else 0) + (slot * atDim d + e) * atElem d)
  match fmtOf (atFmt d) with
  | some f => f.dec (s.rd a (atElem d))
  | none => .nan

/-- One slot's effect on a row's (m, l, acc) (R180). -/
def attendStep (x : Nat) (vals : List Num) (st : Nat × Nat × List Nat) : Nat × Nat × List Nat :=
  let m := st.1
  let mn := toF32 ((f32 m).max (f32 x))
  let a := expDiff m mn
  let b := expDiff x mn
  (mn, fadd32 (fmul32 st.2.1 a) b, (List.zip st.2.2 vals).map (fun e => fadd32 (fmul32 e.1 a) (fmul32 b (toF32 e.2))))

/-- A little-endian value of the operand buffer's parameter block (R164, R178). -/
def BauProg.par (p : BauProg) (off n : Nat) : Nat := ofBytes ((p.param.drop off).take n)

/-- R180 for row r over the program's list: m, l and the accumulator as FP32 codes. -/
def State.attendRow (s : State) (ch : Nat) (p : BauProg) (r : Nat) : Nat × Nat × List Nat :=
  let d := p.desc
  let i := r % atNodes d
  let dim := atDim d
  let query := (List.range dim).map (fun e => bf16 (p.par (2 * (r * dim + e)) 2))
  let qp := atQpos d + (if atVerify d then p.par (0x18140 + i) 1 else 0)
  let bias := fun e => bf16 (p.par (0x10000 + 512 * (r / atNodes d) + 2 * e) 2)
  let one := fun (st : Nat × Nat × List Nat) (e : Nat) (k : Nat) =>
    let j := pePos e + k
    let b := biasEntry (atTree d) (atSink d) qp j (fun n => p.par (0x18000 + 17 * i + n) 1)
    if b = 255 then st
    else
      let keys := (List.range dim).map (fun x => s.kvAt ch d (pePlot e) k x false)
      let dot := sum32 ((List.zip query keys).map (fun z => z.1.mul z.2))
      let x := toF32 ((rnd32 ((f32 (atScale d)).mul (f32 dot))).add (bias b))
      if x = negInf32 then st
      else attendStep x ((List.range dim).map (fun n => s.kvAt ch d (pePlot e) k n true)) st
  p.pages.foldl (fun st e => (List.range (peSlots e)).foldl (fun st k => one st e k) st)
    (negInf32, 0, List.replicate dim 0)

/-- A result of the BAU: it agrees with the sequence of R180 within the command's bound (R92, R180). -/
def nearAttend (bound key i seq : Nat) : Nat :=
  let c := Config.attend key i % 2 ^ 32
  if agree bound (f32 c) (f32 seq) then c else seq

/-- The return record of a channel (R181). -/
def State.attendRecord (s : State) (ch : Nat) (p : BauProg) (bound : Nat) : List Byte :=
  let d := p.desc
  let rows := (List.range (atRows d)).map (fun r => s.attendRow ch p r)
  let near := fun (m i v : Nat) => if m = negInf32 then v else nearAttend bound s.fresh i v
  let acc := rows.mapIdx (fun r st => (st.2.2.mapIdx (fun e v => toBytes 4 (near st.1 (r * atDim d + e) v))).flatten)
  let n := atRows d * atDim d
  let ml := rows.mapIdx (fun r st => toBytes 4 (near st.1 (n + 2 * r) st.1) ++ toBytes 4 (near st.1 (n + 2 * r + 1) st.2.1))
  acc.flatten ++ ml.flatten

/-- Bytes of keys and values an ATTEND reads (R181). -/
def BauProg.kvBytes (p : BauProg) : Nat := (p.pages.map (fun e => 2 * peSlots e * atDim p.desc * atElem p.desc)).sum

/-- ATTEND's work (R180, R181): the record is returned to the B-tile, and the program ends. -/
def State.attendEnd (s : State) (ch : Nat) (p : BauProg) (bound : Nat) : State :=
  let s := (s.placeBytes (tileBase p.tile + atRet p.desc (ch % 8)) (s.attendRecord ch p bound)).draw
  (s.countBau p p.kvBytes 0).progOk ch p

/-- ATTEND (R177 to R181, R183): the program scores its pages and its record is returned. -/
def execAttend (run : BauRun) (s : State) : Host.Outcome State Fault Refusal :=
  match s.program? run.ch.val 1 with
  | none => .next s
  | some (p, c, _) => .next (s.eccEnd run.ch.val p run.ecc (fun s => s.attendEnd run.ch.val p (cdBound c.desc)))

/-- What QUANTISE writes: packed elements, and scales for an MX format (R88, R89, R182). -/
def State.quantOut (s : State) (ch d : Nat) : List Byte × List Byte :=
  match fmtOf (mvDstFmt d) with
  | none => ([], [])
  | some f =>
    let n := mvLen d
    let src := aliasAddr ch (mvSrc d)
    let vs := (List.range n).map (fun i => if mvSrcFmt d = 0x0B then bf16 (s.rd (src + 2 * i) 2) else f32 (s.rd (src + 4 * i) 4))
    let bs := (List.range (n / 32)).map (fun b => quantBlock f ((vs.drop (32 * b)).take 32))
    (packAll f.w (if f.mx then (bs.map (·.2)).flatten else vs.map f.enc), if f.mx then packAll 8 (bs.map (·.1)) else [])

/-- What COPY, QUANTISE and ZERO write: the elements at DST_OFF and the scales at SCL_OFF (R182). -/
def State.moveOut (s : State) (ch d : Nat) : List Byte × List Byte :=
  match buOp d with
  | 2 => (s.bytes (aliasAddr ch (mvSrc d)) (mvLen d), [])
  | 3 => s.quantOut ch d
  | _ => (List.replicate (mvLen d) 0#8, [])

/-- The first `n` units of the output land in the channel's banks: the elements first, then the scales (R183, R185;
log 11). -/
def State.moveLand (s : State) (ch d n : Nat) : State :=
  let o := s.moveOut ch d
  let k := cdiv o.1.length 32
  (s.wrBytes (aliasAddr ch (mvDst d)) (o.1.take (32 * n))).wrBytes (aliasAddr ch (mvScl d)) (o.2.take (32 * (n - k)))

/-- COPY's, QUANTISE's or ZERO's work: its output stands in the channel, and the program ends (R182). -/
def State.moveEnd (s : State) (ch : Nat) (p : BauProg) : State :=
  let d := p.desc
  let o := s.moveOut ch d
  let s := (s.wrBytes (aliasAddr ch (mvDst d)) o.1).wrBytes (aliasAddr ch (mvScl d)) o.2
  (s.countBau p (if buOp d = 4 then 0 else mvSrcLen d) (o.1.length + o.2.length)).progOk ch p

/-- BAU_COPY (R182, R183): LEN bytes within the channel. -/
def execBauCopy (run : BauRun) (s : State) : Host.Outcome State Fault Refusal :=
  match s.program? run.ch.val 2 with
  | none => .next s
  | some (p, _, _) => .next (s.eccEnd run.ch.val p run.ecc (fun s => s.moveEnd run.ch.val p))

/-- BAU_QUANTISE (R88, R89, R182, R183). -/
def execBauQuantise (run : BauRun) (s : State) : Host.Outcome State Fault Refusal :=
  match s.program? run.ch.val 3 with
  | none => .next s
  | some (p, _, _) => .next (s.eccEnd run.ch.val p run.ecc (fun s => s.moveEnd run.ch.val p))

/-- BAU_ZERO (R182, R183): units written in part are read. -/
def execBauZero (run : BauRun) (s : State) : Host.Outcome State Fault Refusal :=
  match s.program? run.ch.val 4 with
  | none => .next s
  | some (p, _, _) => .next (s.eccEnd run.ch.val p run.ecc (fun s => s.moveEnd run.ch.val p))

/-- BAU_OVERRUN (R171, R172): a program still runs after 64 us. -/
def execBauOverrun (ch : Fin 128) (s : State) : Host.Outcome State Fault Refusal :=
  match (s.chan ch.val).prog with
  | none => .next s
  | some p =>
    if !s.live || p.stopping || s.ltu ≤ p.start + 6400 then .next s
    else
      let s := s.updChan ch.val (fun k => { k with overrun := satAdd 16 k.overrun 1 })
      .next ((s.stopProg ch.val).failCmd p.tile Stat.bauOverrun)

/-- BAU_PROGRAM_STOP (R185): a program that is to be stopped is abandoned, no record is written; what it had written lands,
and the channel exits. -/
def execBauProgramStop (ch : Fin 128) (s : State) : Host.Outcome State Fault Refusal :=
  match (s.chan ch.val).prog with
  | none => .next s
  | some p =>
    if !s.live || !p.stopping then .next s
    else
      let s := if buOp p.desc = 1 then s else s.moveLand ch.val p.desc p.written
      let s := (s.chargeProg ch.val p).updChan ch.val (fun k => { k with prog := none, mode := .exiting })
      .next ((s.updTag p.tag (fun x => { x with drain := x.drain - p.flying })).freeTag p.tag)

/-- CHANNEL_EXIT (R167, R172): the next program chains, or the channel returns to MEMORY and the held accesses are
served. -/
def execChannelExit (ch : Fin 128) (s : State) : Host.Outcome State Fault Refusal :=
  let k := s.chan ch.val
  if !s.live || k.prog.isSome || (k.mode ≠ .processor && k.mode ≠ .exiting) then .next s
  else
    let exit_ := (s.updChan ch.val (fun k => { k with mode := .memory })).serveHold ch.val
    match s.bauNext ch.val with
    | none => .next exit_
    | some (c, o) =>
      if k.mode = .processor && k.hold.isEmpty && !k.fenced && !k.disable then .next (s.bauEnter ch.val c o) else .next exit_

/-! ## Registers (R188 to R196) -/

/-- OWN_CMD_GO (R196). -/
def execOwnCmdGo (ch : Fin 128) (s : State) : Host.Outcome State Fault Refusal :=
  let k := s.chan ch.val
  if !s.live then .next s
  else if k.ownBusy || 65535 < k.ownFirst + k.ownCountM1 then .next (s.updChan ch.val (fun k => { k with ownReject := true }))
  else .next (s.updChan ch.val (fun k => { k with ownBusy := true }))

/-- An owner entry with its CHECK (R173): the code takes the three bytes of bits [23:0] from the lowest (DESIGN CHOICE,
log 81). -/
def ownEntryOf (v : Nat) : Nat := bits v 0 18 + crc8 (toBytes 3 (bits v 0 18)) * 2 ^ 24

/-- OWN_WRITE_DONE (R172, R173, R196): with no program running, the range is written. -/
def execOwnWriteDone (ch : Fin 128) (s : State) : Host.Outcome State Fault Refusal :=
  let k := s.chan ch.val
  if !s.live || !k.ownBusy || k.prog.isSome then .next s
  else
    let e := ownEntryOf k.ownValue
    .next (s.updChan ch.val (fun k =>
      { k with owner := (List.range (k.ownCountM1 + 1)).foldl (fun o i => Tbl.put o (k.ownFirst + i) e) k.owner,
               ownBusy := false, ownDone := true }))

/-- BAU_UNFENCE (R189): FENCED clears on the named channels that are in MEMORY. -/
def execBauUnfence (stack : Fin 8) (mask : BitVec 16) (s : State) : Host.Outcome State Fault Refusal :=
  if !s.live then .next s
  else .next ((List.range 16).foldl (fun s i => s.updChan (16 * stack.val + i) (fun k =>
    if mask.getLsbD i && k.mode = .memory then { k with fenced := false } else k)) s)

/-- HBMC_STAT_CLR (R190). -/
def execHbmcStatClr (stack : Fin 8) (s : State) : Host.Outcome State Fault Refusal :=
  if !s.live then .next s
  else .next ((List.range 16).foldl (fun s i => s.updChan (16 * stack.val + i) (fun k =>
    { k with held := 0, maxWait := 0, programs := 0, overrun := 0, holdTimeout := 0 })) s)

/-- BAU_CNT_CLR (R196). -/
def execBauCntClr (ch : Fin 128) (s : State) : Host.Outcome State Fault Refusal :=
  if !s.live then .next s else .next (s.updChan ch.val (fun k => { k with busyAclk := 0, eccCorrected := 0, eccUncorrected := 0 }))

/-- HBMC_BAU_DISABLE_WRITE (R189). -/
def execHbmcBauDisableWrite (stack : Fin 8) (mask : BitVec 16) (s : State) : Host.Outcome State Fault Refusal :=
  if !s.live then .next s
  else .next ((List.range 16).foldl (fun s i => s.updChan (16 * stack.val + i) (fun k => { k with disable := mask.getLsbD i })) s)

end Sys2Proof.Machine
end

