-- ==== Sys2Proof/Machine/Trellis.lean ====
section
/-!
DEFINITION. Sys2Proof/Machine/Trellis.lean: the Trellis and the DIE and TRELLIS registers (R59 to R64, R77 to R83).
-/
namespace Sys2Proof.Machine

/-- Ports of a site (R53). -/
def portsOf (site : Nat) : Nat := if site < 5 then 4 else 2

/-- Modules fitted on the edge of a port (R59). -/
def modulesFitted (site port : Nat) : Nat :=
  if site < 4 then (if port < 2 then 10 else if port = 2 then 2 else 4)
  else if site = 4 then 2 else 4

/-- The die and port at the other end of an edge (R59). -/
def peerOf (site port : Nat) : Nat × Nat :=
  if site < 4 then
    (if port = 0 then (site ^^^ 1, 0) else if port = 1 then (site ^^^ 2, 1)
      else if port = 2 then (4, site) else (5 + site % 2, site / 2))
  else if site = 4 then (port, 2)
  else ((site - 5) + 2 * port, 3)

/-- The port by which a die sends a packet on towards another die (R60). -/
def routePort (site dst : Nat) : Nat :=
  if site < 4 then
    if dst = 4 then 2
    else
      let via := if dst < 4 then dst else dst - 5
      if site = via then 3
      else if site % 2 ≠ via % 2 then 0 else 1
  else if site = 4 then (if dst < 4 then dst else dst - 5)
  else if dst < 4 then dst / 2
  else 0

def Die.port (d : Die) (p : Nat) : Port := Tbl.getD d.ports p {}

def State.updPort (s : State) (site p : Nat) (f : Port → Port) : State :=
  s.updDie site (fun d => { d with ports := Tbl.upd d.ports p {} f })

/-- An edge's port carries traffic. -/
def State.portUp (s : State) (site p : Nat) : Bool := ((s.die site).port p).state = .up

/-- Sources of the Trellis on a site (R448): header check, timeout, module, edge. -/
def trellisSrc (site k : Nat) : Nat :=
  srcOf site ((if site < 4 then 0x10 else if site = 4 then 0x00 else 0x12) + k)

/-- The packet arrives from where the previous router sent it: it is the first of its class and edge (R61). -/
def Trellis.arrive (t : Trellis) (site port : Nat) (p : TPkt) : Option Trellis :=
  match t.vcs.find? (fun v => v.site = site && v.port = port && v.cls = p.cls) with
  | none => none
  | some v =>
    if v.src = p.src && v.dst = p.dst && v.txn = p.txn then some { t with vcs := t.vcs.erase v } else none

/-- A response meets its request, or came too late and is discarded (R63). The spec gives LATE_RESP of the Trellis no
register and no width: the model keeps one count for the device, without bound (DESIGN CHOICE, log 71). -/
def Trellis.respond (t : Trellis) (p : TPkt) : Trellis :=
  match t.waiting.find? (fun w => w.txn = p.txn) with
  | some w => { t with waiting := t.waiting.erase w }
  | none => { t with lateResp := t.lateResp + 1 }

/-- A request that sets out waits for its response (R63), whatever becomes of its packet. -/
def Trellis.sent (t : Trellis) (site now : Nat) (p : TPkt) : Trellis :=
  if p.cls = .request && p.dst ≠ site then { t with waiting := ⟨p.txn, p.src, p.dst, p.isRead, p.issuer, now⟩ :: t.waiting } else t

/-- TRELLIS_PACKET (R60 to R62): a router checks the header, then delivers the packet or sends it on. -/
def execTrellisPacket (site : Fin 7) (inPort : Option (Fin 4)) (p : TPkt) (s : State) : Host.Outcome State Fault Refusal :=
  let arrived : Option Trellis := match inPort with
    | none => if p.src = site.val then some (s.trellis.sent site.val s.ltu p) else none
    | some q =>
      let pr := peerOf site.val q.val
      if q.val < portsOf site.val then s.trellis.arrive pr.1 pr.2 p else none
  match arrived with
  | none => .next s
  | some tr =>
    let s := match inPort with
      | none => s
      | some q => s.updPort site.val q.val (fun o => { o with retry := satAdd 32 o.retry p.retries })
    if crc16 p.hdr ≠ p.crc.toNat then
      let s := match inPort with
        | none => s
        | some q => s.updPort site.val q.val (fun o => { o with hdrCheck := satAdd 32 o.hdrCheck 1 })
      .next ({ s with trellis := tr }.raise (trellisSrc site.val 0))
    else if p.dst = site.val then
      .next { s with trellis := if p.cls = .response then tr.respond p else tr }
    else
      let out := routePort site.val p.dst
      if 7 ≤ p.dst || !(s.portUp site.val out) then .next { s with trellis := tr }
      else .next { s with trellis := { tr with vcs := tr.vcs ++ [⟨site.val, out, p.cls, p.src, p.dst, p.txn⟩] } }

/-- One module of an edge is lost, as both ends see it. -/
def Port.loseModule (o : Port) : Port :=
  { o with modulesUp := o.modulesUp - 1, state := if o.modulesUp ≤ 1 then .failed else o.state }

/-- TRELLIS_MODULE_FAIL (R64): the edge runs on the modules that remain, or none remains and the device halts. -/
def execTrellisModuleFail (site : Fin 7) (port : Fin 4) (s : State) : Host.Outcome State Fault Refusal :=
  let o := (s.die site.val).port port.val
  if portsOf site.val ≤ port.val || o.modulesUp = 0 then .next s
  else
    let pr := peerOf site.val port.val
    let s := (s.updPort site.val port.val Port.loseModule).updPort pr.1 pr.2 Port.loseModule
    .next (s.raise (trellisSrc site.val (if o.modulesUp ≤ 1 then 3 else 2)))

/-- PORT_RETRAIN (R83): every left-out module of the port begins to train. -/
def execPortRetrain (site : Fin 7) (port : Fin 4) (s : State) : Host.Outcome State Fault Refusal :=
  if !s.live || portsOf site.val ≤ port.val then .next s
  else .next (s.updPort site.val port.val (fun o => { o with retrain := true }))

/-- PORT_RETRAIN_DONE (R83): training ends with some modules restored; RETRAIN clears. -/
def execPortRetrainDone (site : Fin 7) (port : Fin 4) (restored : Nat) (s : State) : Host.Outcome State Fault Refusal :=
  if portsOf site.val ≤ port.val || !((s.die site.val).port port.val).retrain then .next s
  else
    let pr := peerOf site.val port.val
    let back := fun (o : Port) =>
      { o with modulesUp := Nat.min (modulesFitted site.val port.val) (o.modulesUp + restored),
               state := if o.state = .failed && 0 < restored then .up else o.state }
    let s := (s.updPort site.val port.val (fun o => { back o with retrain := false })).updPort pr.1 pr.2 back
    .next s

/-- PORT_CNT_CLR (R83): clears both counters of PORT_CNT. -/
def execPortCntClr (site : Fin 7) (port : Fin 4) (s : State) : Host.Outcome State Fault Refusal :=
  if !s.live || portsOf site.val ≤ port.val then .next s
  else .next (s.updPort site.val port.val (fun o => { o with hdrCheck := 0, retry := 0 }))

/-- TRELLIS_TIMEOUT_WRITE (R79): a value outside 200 to 10,000 is ignored. -/
def execTrellisTimeoutWrite (v : BitVec 32) (s : State) : Host.Outcome State Fault Refusal :=
  let t := bits v.toNat 0 14
  if !s.live || t < 200 || 10000 < t then .next s
  else .next { s with trellis := { s.trellis with timeoutUs := t } }

/-- DIE_ERRCLR (R80): bit 0 clears DIE_ERRCNT. -/
def execDieErrclr (site : Fin 7) (v : BitVec 32) (s : State) : Host.Outcome State Fault Refusal :=
  if !s.live || !(v.getLsbD 0) then .next s
  else .next (s.updDie site.val (fun d => { d with tableCheck := 0, trellisTimeouts := 0, addrViolations := 0 }))

end Sys2Proof.Machine
end

