-- ==== Sys2Proof/Machine/Dma.lean ====
section
/-!
DEFINITION. Sys2Proof/Machine/Dma.lean: the DMA engines (R213 to R220, R231) and the LPDDR5X counters (R221, R232).

A transfer's local bytes are moved when the channel takes it; bytes to or from the remote aperture move with its bursts
(R215, R294). DMA_HALF_ENTRY and DMA_TRANSFER_END post its entries.
-/
namespace Sys2Proof.Machine

/-! ## Transfers (R215, R216) -/

/-- Fields of a transfer, the same for both kinds of channel. -/
structure XferSpec where
  src : Nat
  dst : Nat
  len : Nat
  rows : Nat
  srcStride : Nat
  dstStride : Nat
  /-- the pattern of a FILL -/
  fill : Option Nat
  deriving DecidableEq, Repr

def XferSpec.bytes (x : XferSpec) : Nat := x.rows * x.len

/-- A piece of a transfer: transfer-order position, source, destination, bytes. -/
structure Piece where
  pos : Nat
  src : Nat
  dst : Nat
  n : Nat
  deriving DecidableEq, Repr

/-- Cut a row where its source or destination meets a multiple of `u`. -/
def cutRow (u : Nat) : Nat → Nat → Nat → Nat → Nat → List Piece
  | 0, _, _, _, _ => []
  | f + 1, pos, src, dst, n =>
    if n = 0 then []
    else
      let k := Nat.min n (Nat.min (u - src % u) (u - dst % u))
      ⟨pos, src, dst, k⟩ :: cutRow u f (pos + k) (src + k) (dst + k) (n - k)

/-- The pieces of a transfer in transfer order, within 4 KiB of each side. -/
def XferSpec.pieces (x : XferSpec) : List Piece :=
  ((List.range x.rows).map (fun r =>
    cutRow 4096 (2 * (x.len / 4096) + 4) (r * x.len) (x.src + r * x.srcStride) (x.dst + r * x.dstStride) x.len)).flatten

/-- Pieces with physical addresses up to the first that fails, and the status. `addr` gives an address its place, `m`
makes the accesses, `tn` owns the writes to working regions (R109; none: firmware). -/
def State.placePieces (m : Master) (fill : Bool) (tn : Option Nat) (addr : State → Nat → Acc → State × Except Nat Nat) :
    List Piece → State → State × List Piece × Nat
  | [], s => (s, [], Stat.ok)
  | p :: ps, s =>
    let sr : State × Except Nat Nat := if fill then (s, .ok 0) else addr s p.src .read
    match sr with
    | (s, .error e) => (s, [], e)
    | (s, .ok sa) =>
      match addr s p.dst .write with
      | (s, .error e) => (s, [], e)
      | (s, .ok da) =>
        let st := if fill then Stat.ok else s.accStatus m .read sa p.n
        let st := if st ≠ Stat.ok then st else s.accStatus m .write da p.n
        let st := if st ≠ Stat.ok then st
          else match tn with
            | some t => if s.workDenied t da then Stat.accessDenied else Stat.ok
            | none => Stat.ok
        if st ≠ Stat.ok then (if st = Stat.translationFault then s else s.violateAt m p.dst, [], st)
        else
          let r := State.placePieces m fill tn addr ps s
          (r.1, ⟨p.pos, sa, da, p.n⟩ :: r.2.1, r.2.2)

/-- A piece between two local places. -/
def Piece.isLocal (fill : Bool) (p : Piece) : Bool := !(inAperture p.dst) && (fill || !(inAperture p.src))

/-- The bytes of a fill for a destination (R215). -/
def fillBytes (f dst n : Nat) : List Byte := (List.range n).map (fun k => BitVec.ofNat 8 (fld f ((dst + k) % 8) 1))

/-- The bursts of a piece with an end in the aperture (R215, R216, R289, R294): none crosses 256 bytes of either side, a
read is widened to 64-byte alignment, and what is read remotely for a remote destination goes on there. -/
def Piece.bursts (ag : Agent) (fill : Option Nat) (p : Piece) : List Burst :=
  (cutRow 256 (2 * (p.n / 256) + 4) p.pos p.src p.dst p.n).map (fun q =>
    let lo := q.src / 64 * 64
    let read : Burst := { ag := ag, addr := lo, len := roundUp (q.src + q.n) 64 - lo, loc := q.dst, write := false, skip := q.src - lo, used := q.n, pos := q.pos }
    let write : Burst := { ag := ag, addr := q.dst, len := q.n, loc := q.src, write := true, used := q.n, pos := q.pos }
    match fill with
    | some f => { write with data := some (fillBytes f q.dst q.n) }
    | none => if !(inAperture q.dst) then read else if inAperture q.src then { read with fwd := some q.dst } else write)

/-- Bursts that a piece begins, by the 256-byte boundaries of its destination (R215): pieces also end where their source
meets 4 KiB, and a burst that goes on in the next piece is counted once. -/
def Piece.count (len : Nat) (p : Piece) : Nat :=
  cdiv (p.dst + p.n) 256 - cdiv p.dst 256 + b2n (p.pos % Nat.max 1 len = 0 && p.dst % 256 ≠ 0)

/-- Where a local piece's access is held, if anywhere: its read first, then its write (R165, R169). -/
def State.pieceHeld (s : State) (fill : Bool) (p : Piece) : Option Nat :=
  match (if fill then none else s.heldChan p.src p.n) with
  | some ch => some ch
  | none => s.heldChan p.dst p.n

/-- A local piece whose channels are in MEMORY moves, and is counted against a tenant (R391). -/
def State.movePieces (s : State) (tn : Nat) (x : XferSpec) (ls : List Piece) : State :=
  let srcs := ls.map (fun p => (p.src, p.n))
  let ws := (ls.filter (fun p => (s.pieceHeld x.fill.isSome p).isNone)).map (fun p => (p, match x.fill with
    | some f => fillBytes f p.dst p.n
    | none => s.readFor srcs p.src p.dst p.n))
  (ws.foldl (fun (s : State) e =>
    let s := if x.fill.isSome then s else s.countTier tn e.1.src e.1.n false
    (s.countTier tn e.1.dst e.1.n true).placeBytes e.1.dst e.2) s).draw

/-- A local piece that meets a channel outside MEMORY joins that channel's hold queue (R169). -/
def State.holdPiece (s : State) (ag : Agent) (e tn : Nat) (x : XferSpec) (srcs : List (Nat × Nat)) (p : Piece) : State :=
  let m : Master := .dma e (match ag with
    | .dma _ _ => true
    | _ => false)
  match (if x.fill.isSome then none else s.heldChan p.src p.n), s.heldChan p.dst p.n with
  | some ch, _ => s.holdAcc ch ⟨m, false, chanOff p.src, p.n, [], .dma ag p.pos p.dst⟩
  | none, some ch =>
    let bs := match x.fill with
      | some f => fillBytes f p.dst p.n
      | none => s.readFor srcs p.src p.dst p.n
    (if x.fill.isSome then s else s.countTier tn p.src p.n false).holdAcc ch ⟨m, true, chanOff p.dst, 0, bs, .dma ag p.pos p.dst⟩
  | none, none => s

/-- A channel takes a transfer: what can be moved moves, what meets a channel outside MEMORY is held, bursts are made for
the rest, and the transfer waits for its end (R169, R216, R219, R220). -/
def State.startXfer (s : State) (ag : Agent) (e c : Nat) (tn desc handle : Nat) (x : XferSpec) (ps : List Piece) (st : Nat) : State :=
  let fill := x.fill.isSome
  let done := (ps.map (·.n)).sum
  let ls := ps.filter (Piece.isLocal fill)
  let srcs := if fill then [] else ls.map (fun p => (p.src, p.n))
  let hs := ls.filter (fun p => (s.pieceHeld fill p).isSome)
  let s := hs.foldl (fun (s : State) p => s.holdPiece ag e tn x srcs p) (s.movePieces tn x ls)
  let rs := ps.filter (fun p => !(Piece.isLocal fill p))
  let s := { s with fab := { s.fab with bursts := s.fab.bursts ++ (rs.map (Piece.bursts ag x.fill)).flatten } }
  let n := (ls.map (Piece.count x.len)).sum
  s.updDch e c (fun k => { k with state := .active, bursts := satAdd 32 k.bursts n,
                                  xfer := some { desc := desc, handle := handle, status := st, cap := done, tn := tn, srcs := srcs, held := hs.map (·.pos) } })

/-! ## TILE channels (R217) -/

/-- The fields of a tile transfer, when they are valid. -/
def tileXfer (d : Nat) : Option XferSpec :=
  let fl := fld d 0x34 1
  let fill := bit fl 4
  if fld d 0x26 2 = 0 && fld d 0x3D 1 = 0 && fl < 32 && (fill || fld d 0x35 8 = 0) &&
      decide (1 ≤ fld d 0x20 4) && decide (fld d 0x20 4 ≤ 16777216) && decide (1 ≤ fld d 0x24 2) && decide (fld d 0x24 2 ≤ 4096) &&
      fld d 0x30 4 % 32 = 0 then
    some { src := fld d 0x10 8, dst := fld d 0x18 8, len := fld d 0x20 4, rows := fld d 0x24 2,
           srcStride := fld d 0x28 4, dstStride := fld d 0x2C 4, fill := if fill then some (fld d 0x35 8) else none }
  else none

/-- Where a tile operation's address lies: an own-window offset, or a virtual address (R101, R217). -/
def State.tileAddr (t : Nat) (c : TileCmd) (s : State) (va : Nat) (acc : Acc) : State × Except Nat Nat :=
  if va < 0x4000000 then (s, .ok (tileBase t + va))
  else if 2 ^ 56 ≤ va then (s, .error Stat.programFault)
  else s.translate (dieOfTile t) (cdAsid c.desc) (cdTenant c.desc) va acc t

/-- Some destination of a tile operation lies in the remote aperture (R111). -/
def State.dstRemote (s : State) (t : Nat) (c : TileCmd) (vas : List Nat) : Bool :=
  vas.any (fun va => match (State.tileAddr t c s va .write).2 with
    | .ok a => inAperture a
    | .error _ => false)

/-- DMA_TILE_TRANSFER (R109, R111, R216, R217): the operation leaves its queue for its channel. -/
def execDmaTileTransfer (tile : Fin 48) (h : Nat) (s : State) : Host.Outcome State Fault Refusal :=
  let t := tile.val
  match s.engine? t h 0x30 with
  | none => .next s
  | some (c, o) =>
    match tileXfer o.desc with
    | none => .next (s.failCmd t Stat.opInvalid)
    | some x =>
      let cpl := extentStatus t (s.tile t).resBytes [] [(fld o.desc 0x30 4, 32)]
      let e := dieOfTile t
      let k := s.tileDch t h
      if cpl ≠ Stat.ok then .next (s.failAccess t cpl)
      else if (s.dch e k).xfer.isSome || (s.dch e k).state = .halted then .next s
      else
        let r := State.placePieces (.dma e false) x.fill.isSome (some (cdTenant c.desc)) (State.tileAddr t c) x.pieces s
        if s.dstRemote t c (x.pieces.map (·.dst)) then .next (s.failAccess t Stat.accessDenied)
        else
          let s := r.1.startXfer (.tileDma tile h) e k (cdTenant c.desc) o.desc h x r.2.1 r.2.2
          .next (s.updCmd t (fun c => TileCmd.wake (c.setOp h (fun o => { o with phase := .active }))))

/-- The tile that owns a channel of a compute die's engine (R213); none for a RING channel. -/
def tileOfDch (e c : Nat) : Option Nat := if e < 4 && c < 24 then some (tileOfLocal e (c / 2)) else none

/-! ## RING channels (R218) -/

def rdKind (d : Nat) : Nat := fld d 0 1
def rdFlag (d i : Nat) : Bool := bit (fld d 1 1) i
def rdTenant (d : Nat) : Nat := fld d 2 2
def rdId (d : Nat) : Nat := fld d 4 4
def rdRows (d : Nat) : Nat := fld d 0x1C 4

/-- The reserved values and fields that R218 and R242 give every descriptor. -/
def rdCommonOk (d : Nat) : Bool :=
  decide (1 ≤ rdKind d) && decide (rdKind d ≤ 4) && decide (fld d 1 1 < 8) && fld d 0x0E 2 = 0 && fld d 0x16 2 = 0

/-- The fields of a COPY or FILL descriptor, when they are valid. -/
def ringXfer (d : Nat) : Option XferSpec :=
  let fill := rdKind d = 2
  if rdCommonOk d && rdKind d ≤ 2 && fld d 0x30 12 = 0 &&
      decide (1 ≤ fld d 0x18 4) && decide (fld d 0x18 4 ≤ 16777216) && decide (1 ≤ rdRows d) && decide (rdRows d ≤ 65536) then
    some { src := fld d 0x08 6, dst := fld d 0x10 6, len := fld d 0x18 4, rows := rdRows d,
           srcStride := fld d 0x20 4, dstStride := fld d 0x24 4, fill := if fill then some (fld d 0x28 8) else none }
  else none

/-- Channels of an engine that are RING channels (R213). -/
def isRing (e c : Nat) : Bool := if e < 4 then decide (24 ≤ c) && decide (c < 32) else decide (c < 64)

/-- The completion ring has no free entry (R219). -/
def DmaCh.cplFull (k : DmaCh) : Bool := (k.cplTail + 1) % 2 ^ k.cplLog2 = k.cplHead % 2 ^ k.cplLog2

/-- The descriptor a RING channel would fetch next (R218, R219, R231). -/
def State.nextDesc (s : State) (e c : Nat) : Option Nat :=
  let k := s.dch e c
  let n := 2 ^ k.ringLog2
  if !s.live || !(isRing e c) || !k.enable || k.xfer.isSome || k.state = .halted || k.cplFull || k.sqHead % n = k.sqTail % n then none
  else some (s.rd (k.ringBase + 64 * (k.sqHead % n)) 64)

/-- A channel has fetched a descriptor. -/
def DmaCh.fetched (k : DmaCh) : DmaCh := { k with sqHead := (k.sqHead + 1) % 2 ^ k.ringLog2 }

/-- An entry on a RING channel's completion ring (R219). -/
def State.ringEntry (s : State) (e c entry : Nat) : State :=
  let k := s.dch e c
  (s.wr (k.cplBase + 16 * (k.cplTail % 2 ^ k.cplLog2)) 16 entry).updDch e c (fun k =>
    { k with cplTail := (k.cplTail + 1) % 2 ^ k.cplLog2 })

/-- An interrupt of a RING channel (R219, R231). -/
def State.dmaIrq (s : State) (e c : Nat) : State := s.updEng e (fun g => { g with irqPend := g.irqPend ||| BitVec.ofNat 64 (2 ^ c) })

/-- A descriptor ends at once with a status, nothing moved (R218). -/
def State.endDesc (s : State) (e c d status : Nat) : State :=
  let s := (s.updDch e c DmaCh.fetched).ringEntry e c (dmaEntry (rdId d) status 2 0)
  if rdFlag d 1 then s.dmaIrq e c else s

/-- The verdict of R218 that every row of a RING channel shares: a descriptor that fails its CRC halts the channel, one
of a reserved KIND completes with INVALID_FIELD; another is given to `f` when its KIND is the row's. -/
def State.takeDesc (s : State) (e c kind : Nat) (f : State → Nat → State) : State :=
  match s.nextDesc e c with
  | none => s
  | some d =>
    if !(crcOk d 64) then
      (s.endDesc e c d Stat.checkFailed).updDch e c (fun k => { k with state := .halted, checkErr := true })
    else if rdKind d = 0 || 4 < rdKind d then s.endDesc e c d Stat.invalidField
    else if rdKind d = kind then f s d
    else s

/-- A COPY or FILL descriptor is performed (R215, R216, R218). -/
def State.ringTransfer (s : State) (eng : Fin 5) (ch : Fin 64) (d : Nat) : State :=
  let e := eng.val
  let c := ch.val
  match ringXfer d with
  | none => s.endDesc e c d Stat.invalidField
  | some x =>
    let r := State.placePieces (.dma e true) x.fill.isSome none (fun s a _ => (s, .ok a)) x.pieces s
    (r.1.updDch e c DmaCh.fetched).startXfer (.dma eng ch) e c (rdTenant d) d 0 x r.2.1 r.2.2

/-- DMA_RING_COPY (R218, R219). -/
def execDmaRingCopy (eng : Fin 5) (ch : Fin 64) (s : State) : Host.Outcome State Fault Refusal :=
  .next (s.takeDesc eng.val ch.val 1 (fun s d => s.ringTransfer eng ch d))

/-- DMA_RING_FILL (R216, R218, R219). -/
def execDmaRingFill (eng : Fin 5) (ch : Fin 64) (s : State) : Host.Outcome State Fault Refusal :=
  .next (s.takeDesc eng.val ch.val 2 (fun s d => s.ringTransfer eng ch d))

/-! ## Entries (R219, R220) -/

/-- The agent of a channel's transfer. -/
def chanAgent (e : Fin 5) (c : Fin 64) (f : Xfer) : Agent :=
  match tileOfDch e.val c.val with
  | some t => .tileDma ⟨t % 48, Nat.mod_lt _ (by decide)⟩ f.handle
  | none => .dma e c

/-- Bytes of a transfer in its descriptor's own count (R217, R218, R242): compressor work counts whole plots. -/
def xferBytes (tile : Bool) (d : Nat) : Nat :=
  if tile then fld d 0x20 4 * fld d 0x24 2
  else if 3 ≤ rdKind d then rdRows d * 65536
  else fld d 0x18 4 * rdRows d

/-- The prefix after which the half entry is due (R219, R242). -/
def halfBytes (tile : Bool) (d : Nat) : Nat :=
  if !tile && 3 ≤ rdKind d then rdRows d / 2 * 65536 else xferBytes tile d / 2

/-- A transfer asks for a half entry, and for an interrupt with it. -/
def wantsHalf (tile : Bool) (d : Nat) : Bool := if tile then bit (fld d 0x34 1) 0 else rdFlag d 2
def halfIrq (tile : Bool) (d : Nat) : Bool := !tile && rdFlag d 0

/-- The half entry and its interrupt (R219). -/
def State.postHalf (s : State) (e c done : Nat) (f : Xfer) : State :=
  let s := match tileOfDch e c with
    | some t => s.tileEntry t 1 Stat.ok done f
    | none => if wantsHalf false f.desc then s.ringEntry e c (dmaEntry (rdId f.desc) Stat.ok 1 (done / 16)) else s
  let s := if (tileOfDch e c).isNone && halfIrq false f.desc then s.dmaIrq e c else s
  s.updDch e c (fun k => { k with xfer := k.xfer.map (fun f => { f with half := true }) })

/-- The half entry is due and has not been posted. -/
def State.halfDue (s : State) (e : Fin 5) (c : Fin 64) (f : Xfer) : Bool :=
  let tile := (tileOfDch e.val c.val).isSome
  !f.half && (wantsHalf tile f.desc || halfIrq tile f.desc) && decide (halfBytes tile f.desc ≤ s.xferDone (chanAgent e c f) f)

/-- DMA_HALF_ENTRY (R219). -/
def execDmaHalfEntry (eng : Fin 5) (ch : Fin 64) (s : State) : Host.Outcome State Fault Refusal :=
  match (s.dch eng.val ch.val).xfer with
  | none => .next s
  | some f =>
    if !s.live || !(s.halfDue eng ch f) || ((tileOfDch eng.val ch.val).isNone && (s.dch eng.val ch.val).cplFull) then .next s
    else .next (s.postHalf eng.val ch.val (s.xferDone (chanAgent eng ch f) f) f)

/-- The full entry of a transfer none of whose bursts is under way (R219, R220): the half entry precedes it, a tile
operation's work is done with it, a stopped channel halts. -/
def State.endXfer (s : State) (eng : Fin 5) (ch : Fin 64) (f : Xfer) : State :=
  let e := eng.val
  let c := ch.val
  let done := s.xferDone (chanAgent eng ch f) f
  let s := s.updDch e c (fun k => { k with xfer := none, state := if k.state = .stopping then .halted else .idle })
  match tileOfDch e c with
  | some t =>
    let s := s.tileEntry t 2 f.status done f
    if f.status = Stat.ok then s.opDone t f.handle else s.failCmd t f.status
  | none =>
    let s := s.ringEntry e c (dmaEntry (rdId f.desc) f.status 2 (done / 16))
    if rdFlag f.desc 1 then s.dmaIrq e c else s

/-- DMA_TRANSFER_END (R219, R220). -/
def execDmaTransferEnd (eng : Fin 5) (ch : Fin 64) (s : State) : Host.Outcome State Fault Refusal :=
  let k := s.dch eng.val ch.val
  match k.xfer with
  | none => .next s
  | some f =>
    let ring := (tileOfDch eng.val ch.val).isNone
    if !s.live || f.todo || !f.held.isEmpty || !(s.waiting (chanAgent eng ch f)).isEmpty || (ring && k.cplFull) then .next s
    else if !(s.halfDue eng ch f) then .next (s.endXfer eng ch f)
    else
      let s := s.postHalf eng.val ch.val (s.xferDone (chanAgent eng ch f) f) f
      if ring && (s.dch eng.val ch.val).cplFull then .next s else .next (s.endXfer eng ch { f with half := true })

/-! ## Channel registers (R231) -/

/-- DMA_SQ_TAIL_WRITE (R218, R231). -/
def execDmaSqTailWrite (eng : Fin 5) (ch : Fin 64) (v : BitVec 16) (s : State) : Host.Outcome State Fault Refusal :=
  if !s.live || !(isRing eng.val ch.val) then .next s else .next (s.updDch eng.val ch.val (fun k => { k with sqTail := v.toNat }))

/-- DMA_CPL_HEAD_WRITE (R219, R231). -/
def execDmaCplHeadWrite (eng : Fin 5) (ch : Fin 64) (v : BitVec 16) (s : State) : Host.Outcome State Fault Refusal :=
  if !s.live || !(isRing eng.val ch.val) then .next s else .next (s.updDch eng.val ch.val (fun k => { k with cplHead := v.toNat }))

/-- An engine has the channel (R213). -/
def dchExists (e c : Nat) : Bool := if e < 4 then decide (c < 32) else decide (c < 64)

/-- DMA_STOP (R220, R231): issued bursts complete, the rest are not issued, the channel then halts. -/
def execDmaStop (eng : Fin 5) (ch : Fin 64) (s : State) : Host.Outcome State Fault Refusal :=
  if !s.live || !(dchExists eng.val ch.val) then .next s
  else match (s.dch eng.val ch.val).xfer with
    | none => .next (s.updDch eng.val ch.val (fun k => { k with state := .halted }))
    | some f =>
      let s := s.cutXfer (chanAgent eng ch f) eng.val ch.val Stat.aborted 0
      .next (s.updDch eng.val ch.val (fun k => { k with state := .stopping }))

/-- DMA_RESUME (R231): a HALTED channel goes to IDLE. -/
def execDmaResume (eng : Fin 5) (ch : Fin 64) (s : State) : Host.Outcome State Fault Refusal :=
  if !s.live || (s.dch eng.val ch.val).state ≠ .halted then .next s
  else .next (s.updDch eng.val ch.val (fun k => { k with state := .idle }))

/-- DMA_CNT_CLR (R231). -/
def execDmaCntClr (eng : Fin 5) (ch : Fin 64) (s : State) : Host.Outcome State Fault Refusal :=
  if !s.live || !(dchExists eng.val ch.val) then .next s else .next (s.updDch eng.val ch.val (fun k => { k with bursts := 0 }))

/-- A read that brought no data, as its consumer sees it (R63, R118, R220): the thread or engine that made it fails with
the status, and a control core takes all ones. -/
def State.readFail (s : State) (ag : Agent) (status : Nat) : State :=
  match ag with
  | .core t _ _ => s.failCmd t.val status
  | .control h => s.ctlFail h mopLoad
  | .dma _ _ | .tileDma _ _ => s.dmaFail ag status 0
  | .commit => s

/-! ## LPDDR5X (R221, R232) -/

/-- LPDDR_READ_RETRY (R221): a T2 read meets a link error. A single-bit error is corrected and counted; an uncorrectable one
is retried once, and a second failure returns poisoned data, which fails the read's consumer. -/
def execLpddrReadRetry (pkg : Fin 16) (o : LinkOutcome) (s : State) : Host.Outcome State Fault Refusal :=
  if !s.live || (s.lpcOf pkg.val).state ≠ 2 then .next s
  else match o with
    | .corrected => .next (s.updLpc pkg.val (fun l => { l with linkCorrected := satAdd 32 l.linkCorrected 1 }))
    | .retried => .next (s.updLpc pkg.val (fun l => { l with linkRetried := satAdd 16 l.linkRetried 1 }))
    | .poisoned who =>
      let s := (s.updLpc pkg.val (fun l => { l with linkRetried := satAdd 16 l.linkRetried 1, poisoned := satAdd 16 l.poisoned 1 })).raise (0x340 + 4 * pkg.val)
      match who with
      | some ag => .next (s.readFail ag Stat.poisoned)
      | none => .next s

/-- ODECC_POLL (R221): the corrections a package's mode registers report are added. -/
def execOdeccPoll (pkg : Fin 16) (n : Nat) (s : State) : Host.Outcome State Fault Refusal :=
  if !s.live || (s.lpcOf pkg.val).state ≠ 2 then .next s
  else .next (s.updLpc pkg.val (fun l => { l with onDie := satAdd 32 l.onDie n }))

/-- LPC_CNT_CLR (R232). -/
def execLpcCntClr (pkg : Fin 16) (s : State) : Host.Outcome State Fault Refusal :=
  if !s.live then .next s
  else .next (s.updLpc pkg.val (fun l => { l with linkCorrected := 0, linkRetried := 0, poisoned := 0, onDie := 0 }))

/-! ## Trellis timeouts (R63) -/

/-- TRELLIS_TIMEOUT (R63): a request without a response within TIMEOUT_US ends; its die counts and raises the source,
and a read faults its issuer. A response in the same tick is accepted, so the timer acts after it. -/
def execTrellisTimeout (txn : Nat) (s : State) : Host.Outcome State Fault Refusal :=
  match s.trellis.waiting.find? (fun w => w.txn = txn) with
  | none => .next s
  | some w =>
    if s.ltu ≤ w.sent + 100 * s.trellis.timeoutUs then .next s
    else
      let s := { s with trellis := { s.trellis with waiting := s.trellis.waiting.erase w } }
      let s := (s.updDie w.src (fun d => { d with trellisTimeouts := satAdd 16 d.trellisTimeouts 1 })).raise (trellisSrc w.src 1)
      match w.issuer with
      | some ag => if w.isRead then .next (s.readFail ag Stat.trellisTimeout) else .next s
      | none => .next s

end Sys2Proof.Machine
end

