-- ==== Sys2Proof/Machine/Compress.lean ====
section
/-!
DEFINITION. Sys2Proof/Machine/Compress.lean: the compressor: frames (R234 to R238), tile operations and RING descriptors
(R239 to R245, R248, R264).
-/
namespace Sys2Proof.Machine

/-! ## Blocks and frames (R234 to R237) -/

/-- Bits as bytes, the first bit in bit 0. -/
def packBits : List Bool → List Byte
  | b0 :: b1 :: b2 :: b3 :: b4 :: b5 :: b6 :: b7 :: t =>
    BitVec.ofNat 8 (b2n b0 + 2 * b2n b1 + 4 * b2n b2 + 8 * b2n b3 + 16 * b2n b4 + 32 * b2n b5 + 64 * b2n b6 + 128 * b2n b7) :: packBits t
  | _ => []

/-- Two bytes a word. -/
def words16 : List Byte → List (Byte × Byte)
  | a :: b :: t => (a, b) :: words16 t
  | _ => []

/-- The distinct high nibbles, ascending. -/
def highNibbles (bs : List Byte) : List Nat := (List.range 16).filter (fun n => bs.any (fun b => b.toNat / 16 = n))

/-- Dictionary, codes of `w` bits and low nibbles of a NIB block. -/
def nibBlock (w : Nat) (bs : List Byte) : List Byte :=
  let dict := highNibbles bs
  let code := fun (b : Byte) => (dict.findIdx? (fun n => n = b.toNat / 16)).getD 0
  toBytes (2 ^ w / 2) (packWord 4 dict) ++ toBytes (128 * w) (packWord w (bs.map code)) ++ toBytes 512 (packWord 4 (bs.map (fun b => b.toNat % 16)))

/-- Stored bytes of a block in a mode, when the mode's condition holds (R234). -/
def storedAs (bs : List Byte) : Nat → Option (List Byte)
  | 0 => if bs.all (fun b => b = 0#8) then some [] else none
  | 1 => some (packBits (bs.map (fun b => b ≠ 0#8)) ++ bs.filter (fun b => b ≠ 0#8))
  | 2 =>
    let ws := words16 bs
    some (packBits (ws.map (fun w => w.1 ≠ 0#8 || w.2 ≠ 0#8)) ++
      ((ws.filter (fun w => w.1 ≠ 0#8 || w.2 ≠ 0#8)).map (fun w => [w.1, w.2])).flatten)
  | 3 => if (highNibbles bs).length ≤ 4 then some (nibBlock 2 bs) else none
  | 4 => if (highNibbles bs).length ≤ 8 then some (nibBlock 3 bs) else none
  | 7 => some bs
  | _ => none

/-- Padded with 0x00 to a multiple of 8 (R235). -/
def pad8 (bs : List Byte) : List Byte := bs ++ List.replicate (roundUp bs.length 8 - bs.length) 0#8

/-- The mode of smallest padded size, the lower on a tie, and its padded bytes (R235). -/
def codeBlock (bs : List Byte) : Nat × List Byte :=
  [0, 1, 2, 3, 4, 7].foldl (fun (best : Nat × List Byte) m => match storedAs bs m with
    | some st => if (pad8 st).length < best.2.length then (m, pad8 st) else best
    | none => best) (7, List.replicate 1032 0#8)

/-- The 64 blocks of a plot. -/
def blocksOf (bs : List Byte) : List (List Byte) := (List.range 64).map (fun k => (bs.drop (1024 * k)).take 1024)

/-- Index entries with their offsets in 8-byte units from `o`. -/
def indexFrom : Nat → List (Nat × List Byte) → List Byte
  | _, [] => []
  | o, b :: bs => toBytes 2 (b.1 * 2 ^ 13 + o) ++ indexFrom (o + b.2.length / 8) bs

/-- Header, index and stored blocks of a plot, whatever their length (R236). -/
def codedPlot (bs : List Byte) : List Byte :=
  let cs := (blocksOf bs).map codeBlock
  let body := (cs.map (·.2)).flatten
  let idx := indexFrom 18 cs
  let h := toBytes 12 (1 + (144 + body.length) * 2 ^ 32)
  h ++ toBytes 4 (crc32c (h ++ idx)) ++ idx ++ body

/-- The frame of a plot, none when it would be longer than 61,440 bytes (R237). -/
def compressPlot (bs : List Byte) : Option (List Byte) := if 61440 < (codedPlot bs).length then none else some (codedPlot bs)

def hdFrameBytes (h : List Byte) : Nat := ofBytes ((h.drop 4).take 4)
def hdIndex (h : List Byte) (k : Nat) : Nat := ofBytes ((h.drop (16 + 2 * k)).take 2)
def hdMode (h : List Byte) (k : Nat) : Nat := bits (hdIndex h k) 13 3
/-- First byte of block k in the frame; of block 64, FRAME_BYTES. -/
def hdOff (h : List Byte) (k : Nat) : Nat := if k < 64 then 8 * bits (hdIndex h k) 0 13 else hdFrameBytes h

/-- Checks 1 and 2 of R245 over header and index: OK, CHECK_FAILED or FRAME_INVALID. -/
def frameStatus (h : List Byte) (len : Nat) : Nat :=
  if ofBytes ((h.drop 12).take 4) ≠ crc32c (h.take 12 ++ h.drop 16) then Stat.checkFailed
  else if ofBytes (h.take 1) = 1 && hdFrameBytes h = len && decide (144 ≤ len) && decide (len ≤ 61440) && len % 8 = 0 &&
      hdOff h 0 = 144 && (List.range 64).all (fun k => decide (hdOff h k ≤ hdOff h (k + 1)) && hdMode h k ≠ 5 && hdMode h k ≠ 6) then Stat.ok
  else Stat.frameInvalid

/-- Bits set in a bitmap. -/
def popBits (bs : List Byte) : Nat := (bs.map (fun b => ((List.range 8).filter (fun i => b.getLsbD i)).length)).sum

/-- Padded size of a block's mode, its bitmap counted (R235, R245). -/
def modeSize (mode : Nat) (st : List Byte) : Nat :=
  match mode with
  | 0 => 0
  | 1 => roundUp (128 + popBits (st.take 128)) 8
  | 2 => roundUp (64 + 2 * popBits (st.take 64)) 8
  | 3 => 776
  | 4 => 904
  | _ => 1024

/-- Non-zero items put back at the set bits of a bitmap. -/
def spread (zero : List Byte) : List Bool → List (List Byte) → List Byte
  | [], _ => []
  | true :: m, x :: xs => x ++ spread zero m xs
  | _ :: m, xs => zero ++ spread zero m xs

/-- The bits of bytes. -/
def bitsOf (bs : List Byte) : List Bool := (bs.map (fun b => (List.range 8).map (fun i => b.getLsbD i))).flatten

/-- Bytes in pairs. -/
def pairsOf (bs : List Byte) : List (List Byte) := (words16 bs).map (fun w => [w.1, w.2])

/-- A block's 1,024 bytes from its stored bytes (R234). -/
def decodeBlock (mode : Nat) (st : List Byte) : List Byte :=
  let nib := fun (w : Nat) =>
    let dict := ofBytes (st.take (2 ^ w / 2))
    let codes := ofBytes ((st.drop (2 ^ w / 2)).take (128 * w))
    let low := ofBytes ((st.drop (2 ^ w / 2 + 128 * w)).take 512)
    (List.range 1024).map (fun i => BitVec.ofNat 8 (bits dict (4 * bits codes (w * i) w) 4 * 16 + bits low (4 * i) 4))
  match mode with
  | 0 => List.replicate 1024 0#8
  | 1 => spread [0#8] (bitsOf (st.take 128)) ((st.drop 128).map (fun b => [b]))
  | 2 => spread [0#8, 0#8] (bitsOf (st.take 64)) (pairsOf (st.drop 64))
  | 3 => nib 2
  | 4 => nib 3
  | _ => st

/-! ## Reading and writing where R101 or R242 lets an operation reach -/

/-- Who does a compressor's accesses, for whom, and how its addresses are resolved. -/
structure CompCtx where
  ag : Agent
  eng : Nat
  fw : Bool
  tenant : Nat
  addr : State → Nat → Acc → State × Except Nat Nat

/-- What became of an access. -/
inductive Reach (α : Type) where
  | got (a : α)
  /-- remote ranges to fetch first -/
  | need (ps : List (Nat × Nat))
  /-- a channel it reaches is outside MEMORY -/
  | busy
  | failed (status : Nat)

/-- A byte range in 4 KiB parts. -/
def partsOf (a n : Nat) : List (Nat × Nat) := (cutRow 4096 (n / 4096 + 2) 0 a a n).map (fun p => (p.src, p.n))

/-- The parts of a range with physical addresses, or the status of the first that fails (R72, R109, R130). -/
def State.resolve (x : CompCtx) (acc : Acc) : List (Nat × Nat) → State → State × Except Nat (List (Nat × Nat))
  | [], s => (s, .ok [])
  | p :: ps, s =>
    match x.addr s p.1 acc with
    | (s, .error e) => (s, .error e)
    | (s, .ok a) =>
      let st := s.accStatus (.dma x.eng x.fw) acc a p.2
      let st := if st = Stat.ok && acc = .write && !x.fw && s.workDenied x.tenant a then Stat.accessDenied else st
      if st ≠ Stat.ok then (s.violate x.eng, .error st)
      else match State.resolve x acc ps s with
        | (s, .error e) => (s, .error e)
        | (s, .ok as_) => (s, .ok ((a, p.2) :: as_))

/-- The buffer, beyond the 48-bit address space, that an agent's remote bytes pass through. -/
def remoteBuf (ag : Agent) : Nat :=
  2 ^ 48 * match ag with
    | .tileDma t _ => 2 + t.val
    | .dma e c => 64 + 64 * e.val + c.val
    | _ => 1

/-- A part has been fetched. -/
def fetchedOk (fs : List (Nat × Nat)) (p : Nat × Nat) : Bool := fs.contains p

/-- Read a range. -/
def State.reachRead (s : State) (x : CompCtx) (fs : List (Nat × Nat)) (va n : Nat) : State × Reach (List Byte) :=
  match State.resolve x .read (partsOf va n) s with
  | (s, .error e) => (s, .failed e)
  | (s, .ok ps) =>
    let miss := ps.filter (fun p => inAperture p.1 && !(fetchedOk fs p))
    if !miss.isEmpty then (s, .need miss)
    else if ps.any (fun p => !(inAperture p.1) && (s.heldChan p.1 p.2).isSome) then (s, .busy)
    else (s, .got ((ps.map (fun p => s.bytes (if inAperture p.1 then remoteBuf x.ag + p.1 else p.1) p.2)).flatten))

/-- The bursts that write bytes to a remote range, counted at a transfer-order position (R215, R294). -/
def writeBursts (ag : Agent) (pos a : Nat) (bs : List Byte) : List Burst :=
  (cutRow 256 (bs.length / 256 + 2) 0 a a bs.length).map (fun q =>
    { ag := ag, addr := q.dst, len := q.n, loc := q.dst, write := true, used := q.n, pos := pos, data := some ((bs.drop q.pos).take q.n) })

/-- Write bytes over resolved parts: local ones at once, remote ones by bursts (R294). -/
def State.writeParts (x : CompCtx) (pos : Nat) : List (Nat × Nat) → List Byte → State → State
  | [], _, s => s
  | p :: ps, bs, s =>
    let now := bs.take p.2
    let s := if inAperture p.1 then { s with fab := { s.fab with bursts := s.fab.bursts ++ writeBursts x.ag pos p.1 now } }
      else s.placeBytes p.1 now
    State.writeParts x pos ps (bs.drop p.2) s

/-- Write a range: a command never writes the aperture (R111). -/
def State.reachWrite (s : State) (x : CompCtx) (pos va : Nat) (bs : List Byte) : State × Reach Unit :=
  match State.resolve x .write (partsOf va bs.length) s with
  | (s, .error e) => (s, .failed e)
  | (s, .ok ps) =>
    if !x.fw && ps.any (fun p => inAperture p.1) then (s.violate x.eng, .failed Stat.accessDenied)
    else if ps.any (fun p => !(inAperture p.1) && (s.heldChan p.1 p.2).isSome) then (s, .busy)
    else (State.writeParts x pos ps bs s, .got ())

/-- The first address of a range, for counting bytes by tier (R391). -/
def State.countAt (s : State) (x : CompCtx) (va n : Nat) (write : Bool) : State :=
  match x.addr s va (if write then .write else .read) with
  | (_, .ok a) => s.countTier x.tenant a n write
  | (_, .error _) => s

/-! ## One frame at a time (R241, R243, R245) -/

/-- The fields of a compressor operation. -/
structure CompArgs where
  decomp : Bool
  src : Nat
  dst : Nat
  count : Nat
  pack : Bool
  first : Nat
  last : Nat
  srcStride : Nat
  dstStride : Nat
  lenAddr : Nat
  deriving DecidableEq, Repr

/-- COUNT is in its range (R240, R242). -/
def CompArgs.countOk (a : CompArgs) : Bool := decide (1 ≤ a.count) && decide (a.count ≤ 4096)

/-- The placement rules of R241 and the field ranges of R240 both kinds of source share, but for the count. -/
def CompArgs.placed (a : CompArgs) : Bool :=
  let ss := a.srcStride
  let ds := a.dstStride
  a.src % 64 = 0 && a.dst % 64 = 0 && decide (a.first ≤ a.last) && decide (a.last ≤ 63) &&
    (if a.decomp then (a.pack || decide (65536 ≤ ss)) && decide ((a.last - a.first + 1) * 1024 ≤ ds)
     else a.first = 0 && a.last = 63 && decide (65536 ≤ ss) && (a.pack || decide (65536 ≤ ds)))

/-- What one frame came to. -/
inductive FrameEnd where
  | next (p : CompProg)
  /-- a COMPRESS frame is written, its length not yet -/
  | wrote (p : CompProg)
  | need (ps : List (Nat × Nat))
  | busy
  | failed (status : Nat)
  deriving DecidableEq, Repr

/-- The end an access that did not succeed gives its frame. -/
def Reach.stop {α : Type} : Reach α → FrameEnd
  | .got _ => .busy
  | .need ps => .need ps
  | .busy => .busy
  | .failed e => .failed e

/-- Where a compressor's first-pass slot lies: each die's share follows the DMA share, in order of the dies, and its slots
alternate (R243, R244, R520; the places are a DESIGN CHOICE, log 83). -/
def State.firstPassAddr (s : State) (e i : Nat) : Nat :=
  0x28001000000 + 65536 * (s.pwr.dmaUnits + s.pwr.compUnits * e) + 65680 * (i % 2)

/-- Pass 1 codes plot i into its slot (R243). -/
def State.firstPass (s : State) (e i : Nat) (plot : List Byte) : State := s.wrBytes (s.firstPassAddr e i) (codedPlot plot)

/-- A compressor has written one plot as `n` bytes (R264). -/
def State.countComp (s : State) (die n : Nat) : State :=
  s.updComp die (fun c => { c with bytesIn := satAdd 64 c.bytesIn 65536, bytesOut := satAdd 64 c.bytesOut n,
                                   frames := satAdd 32 c.frames (b2n (n ≠ 65536)), unchanged := satAdd 16 c.unchanged (b2n (n = 65536)) })

/-- COMPRESS of plot i, steps 1 to 3 (R243): the frame, or the plot unchanged. -/
def State.compressFrame (s : State) (x : CompCtx) (a : CompArgs) (p : CompProg) : State × FrameEnd :=
  let i := p.frames
  let src := a.src + i * a.srcStride
  let dst := if a.pack then (if i = 0 then a.dst else p.place) else a.dst + i * a.dstStride
  match s.reachRead x p.fetched src 65536 with
  | (s, .got plot) =>
    let out := (compressPlot plot).getD plot
    match (s.firstPass x.eng i plot).reachWrite x (i * 65536) dst out with
    | (s, .got _) => ((s.countAt x src 65536 false).countAt x dst out.length true,
        .wrote { p with place := roundUp (dst + out.length) 64, lenDue := some out.length })
    | (s, r) => (s, r.stop)
  | (s, r) => (s, r.stop)

/-- COMPRESS of plot i: the frame, then, once its bytes are at their destination, its length (R243, step 4). -/
def State.compressOne (s : State) (x : CompCtx) (a : CompArgs) (p : CompProg) : State × FrameEnd :=
  match p.lenDue with
  | none => s.compressFrame x a p
  | some n =>
    match s.reachWrite x (p.frames * 65536) (a.lenAddr + 4 * p.frames) (toBytes 4 n) with
    | (s, .got _) => (s.countComp x.eng n, .next { frames := p.frames + 1, place := p.place })
    | (s, r) => (s, r.stop)

/-- A frame is refused: counted, and its CRC failure raises COMP_CHECK (R245, R264). -/
def State.countRefused (s : State) (e st : Nat) : State :=
  let s := s.updComp e (fun c => { c with refused := satAdd 16 c.refused 1 })
  if st = Stat.checkFailed then s.raise (0x40 * e + 0x17) else s

def State.refuseFrame (s : State) (x : CompCtx) (st : Nat) : State × FrameEnd := (s.countRefused x.eng st, .failed st)

/-- The wanted blocks of a frame, when each span is its mode's padded size (R245). -/
def wantedBlocks (h body : List Byte) (first last : Nat) : Option (List Byte) :=
  let base := hdOff h first
  let ks := rangeFrom first (last - first + 1)
  let st := fun k => (body.drop (hdOff h k - base)).take (hdOff h (k + 1) - hdOff h k)
  if ks.all (fun k => hdOff h (k + 1) - hdOff h k = modeSize (hdMode h k) (body.drop (hdOff h k - base))) then
    some ((ks.map (fun k => (decodeBlock (hdMode h k) (st k)).take 1024)).flatten)
  else none

/-- DECOMPRESS of frame i (R241, R245). -/
def State.decompressOne (s : State) (x : CompCtx) (a : CompArgs) (p : CompProg) : State × FrameEnd :=
  let i := p.frames
  let src := if a.pack then (if i = 0 then a.src else p.place) else a.src + i * a.srcStride
  let dst := a.dst + i * a.dstStride
  let finish := fun (s : State) (out : List Byte) (len taken : Nat) =>
    match s.reachWrite x (i * 65536) dst out with
    | (s, .got _) =>
      ((s.countAt x src taken false).countAt x dst out.length true,
        FrameEnd.next { frames := i + 1, place := roundUp (src + len) 64, fetched := [] })
    | (s, r) => (s, r.stop)
  match s.reachRead x p.fetched (a.lenAddr + 4 * i) 4 with
  | (s, .got lb) =>
    let len := ofBytes lb
    if len = 65536 then
      let n := (a.last - a.first + 1) * 1024
      match s.reachRead x p.fetched (src + a.first * 1024) n with
      | (s, .got bs) => finish s bs len n
      | (s, r) => (s, r.stop)
    else match s.reachRead x p.fetched src 144 with
      | (s, .got h) =>
        let st := frameStatus h len
        if st ≠ Stat.ok then s.refuseFrame x st
        else
          let n := hdOff h (a.last + 1) - hdOff h a.first
          match s.reachRead x p.fetched (src + hdOff h a.first) n with
          | (s, .got body) =>
            match wantedBlocks h body a.first a.last with
            | some out => finish s out len (144 + n)
            | none => s.refuseFrame x Stat.frameInvalid
          | (s, r) => (s, r.stop)
      | (s, r) => (s, r.stop)
  | (s, r) => (s, r.stop)

/-- Frames one after another until one cannot be finished now, in at most `k` moves; none when all are done. -/
def State.compRun (x : CompCtx) (a : CompArgs) : Nat → CompProg → State → State × CompProg × Option FrameEnd
  | 0, p, s => (s, p, none)
  | k + 1, p, s =>
    if a.count ≤ p.frames then (s, p, none)
    else match (if a.decomp then s.decompressOne x a p else s.compressOne x a p) with
      | (s, .next p) => State.compRun x a k p s
      | (s, .wrote p) => if (s.waiting x.ag).isEmpty then State.compRun x a k p s else (s, p, some .busy)
      | (s, r) => (s, p, some r)

/-- Moves that a compressor operation takes at most: a frame and its length for each. -/
def CompArgs.moves (a : CompArgs) : Nat := 2 * a.count + 1

/-- Bursts that fetch remote ranges into the agent's buffer (R215). -/
def State.fetchRemote (s : State) (ag : Agent) (ps : List (Nat × Nat)) : State :=
  { s with fab := { s.fab with bursts := s.fab.bursts ++
    (ps.map (fun p => Piece.bursts ag none { pos := 2 ^ 60, src := p.1, dst := remoteBuf ag + p.1, n := p.2 })).flatten } }

/-! ## Tile operations (R239, R240) -/

/-- The fields of a tile operation, when they are valid. -/
def tileComp (d : Nat) : Option CompArgs :=
  let cop := fld d 0x24 1
  let a : CompArgs := { decomp := cop = 2, src := fld d 0x10 8, dst := fld d 0x18 8, count := fld d 0x20 4, pack := bit (fld d 0x25 1) 0,
                        first := fld d 0x26 1, last := fld d 0x27 1, srcStride := fld d 0x28 4, dstStride := fld d 0x2C 4,
                        lenAddr := fld d 0x30 8 }
  if (cop = 1 || cop = 2) && fld d 0x25 1 < 2 && fld d 0x3C 2 = 0 && fld d 0x38 4 % 16 = 0 && a.countOk && a.placed then some a else none

/-- Addresses at which a compressor operation writes its frames or plots, and a COMPRESS its lengths: of packed frames
only the first stands before the data is seen. -/
def CompArgs.dsts (a : CompArgs) : List Nat :=
  (if a.pack && !a.decomp then [a.dst] else (List.range a.count).map (fun i => a.dst + i * a.dstStride)) ++ (if a.decomp then [] else [a.lenAddr])

/-- The operation a compressor row works on: at the head of its queue, or begun and waiting for nothing. -/
def State.compOp? (s : State) (t h : Nat) (ag : Agent) : Option (TileCmd × Op) :=
  match s.engine? t h 0x32 with
  | some r => some r
  | none =>
    if !s.live then none
    else match s.cmd? t with
      | none => none
      | some c => match c.op? h with
        | none => none
        | some o => if o.phase = .active && fld o.desc 0 1 = 0x32 && (s.waiting ag).isEmpty then some (c, o) else none

/-- A tile operation goes on (R243, R245): it ends with its full entry, fails its command, or waits. -/
def State.compTile (s : State) (tile : Fin 48) (h cop : Nat) : State :=
  let t := tile.val
  match s.compOp? t h (.tileDma tile h) with
  | none => s
  | some (c, o) =>
    if fld o.desc 0x24 1 ≠ cop && (fld o.desc 0x24 1 = 1 || fld o.desc 0x24 1 = 2) then s
    else match tileComp o.desc with
    | none => s.failCmd t Stat.opInvalid
    | some a =>
      let e := dieOfTile t
      let cpl := extentStatus t (s.tile t).resBytes [] [(fld o.desc 0x38 4, 16)]
      if cpl ≠ Stat.ok then s.failAccess t cpl
      else if o.phase ≠ .active && s.dstRemote t c a.dsts then s.failAccess t Stat.accessDenied
      else if !a.decomp && decide ((s.compOf e).share < 3) then s.failCmd t Stat.noResource
      else
        let x : CompCtx := { ag := .tileDma tile h, eng := e, fw := false, tenant := cdTenant c.desc, addr := State.tileAddr t c }
        let r := State.compRun x a a.moves o.prog s
        let keep := fun (s : State) (p : CompProg) =>
          s.updCmd t (fun c => TileCmd.wake (c.setOp h (fun o => { o with phase := .active, prog := p })))
        match r.2.2 with
        | some (.failed st) => r.1.failCmd t st
        | some (.need ps) => keep (r.1.fetchRemote (.tileDma tile h) ps) { r.2.1 with fetched := r.2.1.fetched ++ ps }
        | some _ => keep r.1 r.2.1
        | none =>
          (r.1.placeBytes (tileBase t + fld o.desc 0x38 4) (toBytes 16 (dmaEntry h Stat.ok 2 (a.count * 4096)))).opDone t h

/-- COMPRESS (R239 to R243). -/
def execCompress (tile : Fin 48) (h : Nat) (s : State) : Host.Outcome State Fault Refusal := .next (s.compTile tile h 1)

/-- DECOMPRESS (R239 to R241, R245). -/
def execDecompress (tile : Fin 48) (h : Nat) (s : State) : Host.Outcome State Fault Refusal := .next (s.compTile tile h 2)

/-! ## RING descriptors (R242) -/

/-- The fields of a compressor descriptor. -/
def ringComp (d : Nat) : CompArgs :=
  { decomp := rdKind d = 4, src := fld d 0x08 6, dst := fld d 0x10 6, count := rdRows d, pack := bit (fld d 0x30 1) 0,
    first := fld d 0x31 1, last := fld d 0x32 1, srcStride := fld d 0x20 4, dstStride := fld d 0x24 4, lenAddr := fld d 0x28 6 }

/-- The verdict on a compressor descriptor's fields (R239, R242, R248): the HD engine has no compressor. -/
def ringCompStatus (e d : Nat) : Nat :=
  if 4 ≤ e then Stat.invalidField
  else if !(ringComp d).placed then Stat.opInvalid
  else if rdCommonOk d && fld d 0x18 4 = 65536 && fld d 0x2E 2 = 0 && fld d 0x30 1 < 2 && fld d 0x33 9 = 0 && (ringComp d).countOk then Stat.ok
  else Stat.invalidField

/-- A taken descriptor goes on; DMA_TRANSFER_END posts its entry when it is done (R219, R242, R243). -/
def State.compChan (s : State) (eng : Fin 5) (ch : Fin 64) (f : Xfer) (a : CompArgs) : State :=
  let e := eng.val
  let c := ch.val
  let x : CompCtx := { ag := .dma eng ch, eng := e, fw := true, tenant := rdTenant f.desc, addr := fun s a _ => (s, .ok a) }
  let r := State.compRun x a a.moves f.prog s
  let put := fun (s : State) (g : Xfer) => s.updDch e c (fun k => { k with state := .active, xfer := some g })
  let f := { f with cap := r.2.1.frames * 65536, prog := r.2.1 }
  match r.2.2 with
  | some (.failed st) => put r.1 { f with todo := false, status := st }
  | some (.need ps) => put (r.1.fetchRemote (.dma eng ch) ps) { f with prog := { r.2.1 with fetched := r.2.1.fetched ++ ps } }
  | some _ => put r.1 f
  | none => put r.1 { f with todo := false }

/-- A RING row of the compressor: it goes on with the descriptor it has begun, or takes the next one. -/
def State.compRing (s : State) (eng : Fin 5) (ch : Fin 64) (kind : Nat) : State :=
  let e := eng.val
  let c := ch.val
  match (s.dch e c).xfer with
  | some f =>
    if !s.live || !f.todo || rdKind f.desc ≠ kind || !(s.waiting (.dma eng ch)).isEmpty || (s.dch e c).state = .stopping then s
    else if (s.die e).clockLost then s.updDch e c (fun k => { k with xfer := some { f with todo := false, status := Stat.tileFenced } })
    else s.compChan eng ch f (ringComp f.desc)
  | none => s.takeDesc e c kind (fun s d =>
      let st := ringCompStatus e d
      if st ≠ Stat.ok then s.endDesc e c d st
      else if (s.die e).clockLost then s.endDesc e c d Stat.tileFenced
      else if kind = 3 && decide ((s.compOf e).share < 3) then s.endDesc e c d Stat.noResource
      else (s.updDch e c DmaCh.fetched).compChan eng ch { desc := d, cap := 0, todo := true } (ringComp d))

/-- RING_COMPRESS (R239, R242, R243). -/
def execRingCompress (eng : Fin 5) (ch : Fin 64) (s : State) : Host.Outcome State Fault Refusal := .next (s.compRing eng ch 3)

/-- RING_DECOMPRESS (R239, R242, R245). -/
def execRingDecompress (eng : Fin 5) (ch : Fin 64) (s : State) : Host.Outcome State Fault Refusal := .next (s.compRing eng ch 4)

/-- COMP_CNT_CLR (R264). -/
def execCompCntClr (cd : Fin 4) (s : State) : Host.Outcome State Fault Refusal :=
  if !s.live then .next s
  else .next (s.updComp cd.val (fun c => { c with bytesIn := 0, bytesOut := 0, frames := 0, unchanged := 0, refused := 0 }))

end Sys2Proof.Machine
end

