-- ==== Sys2Proof/Machine/Sieve.lean ====
section
/-!
DEFINITION. Sys2Proof/Machine/Sieve.lean: the Sieve (R249 to R253, R256 to R261, R263, R265).
-/
namespace Sys2Proof.Machine

/-! ## The ordering pass (R257) -/

/-- What the ordering pass gives: the unique indices, the unique number of each index, and for each unique index its
count and its last place. -/
structure Order where
  u : List Nat
  inv : List Nat
  cnt : List Nat
  last : List Nat
  deriving DecidableEq, Repr

/-- The unique indices, ascending. -/
def uniques (idx : List Nat) : List Nat := (idx.mergeSort (· ≤ ·)).eraseReps

/-- The places of an index, ascending: equal indices keep batch order. -/
def placesOf (idx : List Nat) (u : Nat) : List Nat := (List.range idx.length).filter (fun i => nth idx i 0 = u)

/-- The ordering pass over indices within their limit. -/
def orderOf (idx : List Nat) : Order :=
  let u := uniques idx
  { u := u, inv := idx.map (fun x => (u.findIdx? (fun y => y = x)).getD 0), cnt := u.map (fun x => (placesOf idx x).length),
    last := u.map (fun x => (placesOf idx x).getLastD 0) }

/-- The INT32 array, none when an index is negative or not below the limit (R257). -/
def State.indices (s : State) (t a n limit : Nat) : Option (List Nat) :=
  let l := (List.range n).map (fun i => s.wrd t (a + 4 * i) 4)
  if l.all (fun x => decide (x < 2 ^ 31) && decide (x < limit)) then some l else none

/-! ## The operation's fields (R256) -/

def svSop (d : Nat) : Nat := fld d 0x10 1
def svFmt (d : Nat) : Nat := fld d 0x11 1
def svElems (d : Nat) : Nat := fld d 0x12 2
def svN (d : Nat) : Nat := fld d 0x14 4
def svIdx (d : Nat) : Nat := fld d 0x18 4
def svOut (d : Nat) : Nat := fld d 0x1C 4
def svVal (d : Nat) : Nat := fld d 0x20 4
def svTgt (d : Nat) : Nat := fld d 0x24 4
def svTgtRows (d : Nat) : Nat := fld d 0x28 4
def svStride (d : Nat) : Nat := fld d 0x2C 2 * 128
def svTgtStride (d : Nat) : Nat := fld d 0x2E 2 * 128

/-- Bytes of an element of a vector format. -/
def svWidth (d : Nat) : Nat := if svFmt d = 0x0B then 2 else 4

/-- Bytes of the last row's end from row 0. -/
def rowsSpan (rows stride bytes : Nat) : Nat := (rows - 1) * stride + bytes

/-- The field rules every SOP shares (R256). -/
def svCommonOk (d : Nat) : Bool :=
  decide (1 ≤ svSop d) && decide (svSop d ≤ 4) && decide (1 ≤ svN d) && decide (svN d ≤ 65536) && svIdx d % 128 = 0 && fld d 0x30 14 = 0

/-- The field rules of a scatter (R256). -/
def scatterOk (d : Nat) : Bool :=
  svCommonOk d && (svFmt d = 0x0B || svFmt d = 0x0C || svFmt d = 0x0D) && decide (1 ≤ svElems d) && decide (svElems d ≤ 4096) &&
    decide (1 ≤ svTgtRows d) && decide (svTgtRows d ≤ 262144) && svVal d % 128 = 0 && svTgt d % 128 = 0 &&
    decide (svElems d * svWidth d ≤ svStride d) && decide (svElems d * svWidth d ≤ svTgtStride d)

/-- The die's Sieve is in no operation but this one (R256). -/
def State.sieveFree (s : State) (t h : Nat) : Bool := (s.sieveOf (dieOfTile t)).run.all (fun r => r = (t, h))

/-- The Sieve operation a row works on: at the head of its queue while the Sieve is free, or begun and waiting for nothing
(R256). -/
def State.sieveOp? (s : State) (t h sop : Nat) (ag : Agent) : Option (TileCmd × Op) :=
  let ours := fun (r : TileCmd × Op) => fld r.2.desc 0 1 = 0x33 && (svSop r.2.desc = sop || svSop r.2.desc = 0 || 4 < svSop r.2.desc)
  if !(s.sieveFree t h) then none
  else match s.engine? t h 0x33 with
  | some r => if ours r then some r else none
  | none =>
    if !s.live then none
    else match s.cmd? t with
      | none => none
      | some c => match c.op? h with
        | none => none
        | some o => if o.phase = .active && ours (c, o) && (s.waiting ag).isEmpty then some (c, o) else none

/-- An operation of the die's Sieve has completed (R265). -/
def State.sieveDone (s : State) (t h : Nat) : State :=
  (s.opDone t h).updSieve (dieOfTile t) (fun v => { v with run := none, ops := satAdd 32 v.ops 1 })

/-- SIEVE_UNIQUE (R256, R257, R263). -/
def execSieveUnique (tile : Fin 48) (h : Nat) (s : State) : Host.Outcome State Fault Refusal :=
  let t := tile.val
  match s.sieveOp? t h 1 (.tileDma tile h) with
  | none => .next s
  | some (_, o) =>
    let d := o.desc
    let n := svN d
    if !(svCommonOk d) || svOut d % 128 ≠ 0 then .next (s.failCmd t Stat.opInvalid)
    else
      let st := extentStatus t (s.tile t).resBytes [(svIdx d, 4 * n)] [(svOut d, 16 * n + 4)]
      if st ≠ Stat.ok then .next (s.failAccess t st)
      else match s.indices t (svIdx d) n (2 ^ 31) with
        | none => .next (s.failCmd t Stat.indexRange)
        | some idx =>
          let r := orderOf idx
          let s := s.putCodes t (svOut d) 32 r.u
          let s := s.putCodes t (svOut d + 4 * n) 32 r.inv
          let s := s.putCodes t (svOut d + 8 * n) 32 r.cnt
          let s := s.putCodes t (svOut d + 12 * n) 32 r.last
          .next ((s.putCodes t (svOut d + 16 * n) 32 [r.u.length]).sieveDone t h)

/-! ## Tables (R249 to R252) -/

def tdDir (d : Nat) : Nat := bits d 0 56
/-- Base of a class store: HOT 0, WARM 1, COLD 2. -/
def tdClass (d c : Nat) : Nat := fld d (8 + 8 * c) 7
def tdRows (d : Nat) : Nat := fld d 0x20 4
def tdDim (d : Nat) : Nat := fld d 0x24 2
def tdVersion (d : Nat) : Nat := fld d 0x26 2
def tdBias (d : Nat) : Nat := fld d 0x28 7
def tdVocab (d : Nat) : Nat := fld d 0x30 4
def tdBiasRows (d : Nat) : Nat := fld d 0x34 1
def tdWarmFmt (d : Nat) : Nat := fld d 0x35 1
/-- Nibble n of REPL_TILE. -/
def tdReplTile (d n : Nat) : Nat := bits (fld d 0x36 2) (4 * n) 4
def tdReplOff (d : Nat) : Nat := fld d 0x38 4

/-- A base of R249: a virtual address of 56 bits, a multiple of 128. -/
def baseOk (v : Nat) : Bool := decide (v < 2 ^ 56) && v % 128 = 0

/-- A descriptor that keeps R249; one that does not names no table (DEDUCED, log 33). -/
def tableOk (d : Nat) : Bool :=
  decide (1 ≤ tdRows d) && decide (tdRows d ≤ 262144) && decide (32 ≤ tdDim d) && decide (tdDim d ≤ 4096) && tdDim d % 32 = 0 &&
    (tdWarmFmt d = 1 || tdWarmFmt d = 2) && baseOk (fld d 0 8) && baseOk (fld d 8 8) && baseOk (fld d 0x10 8) && baseOk (fld d 0x18 8) && baseOk (fld d 0x28 8) &&
    (tdBiasRows d ≠ 0 || fld d 0x28 8 = 0) && decide (1 ≤ tdVocab d) && decide (tdVocab d ≤ 262144) &&
    tdReplOff d % 128 = 0 && decide (tdBiasRows d ≤ 64)

/-- Pitch of a class (R251). -/
def classPitch (dim : Nat) : Nat → Nat
  | 0 => 2 * dim
  | 1 => roundUp (dim + 4) 64
  | _ => roundUp (dim / 2 + dim / 32) 64

/-- Bytes of a row that are read: the padding never is (R251). -/
def classBytes (dim : Nat) : Nat → Nat
  | 0 => 2 * dim
  | 1 => dim + 4
  | _ => dim / 2 + dim / 32

/-- The exact values of a row (R251). -/
def rowValues (d c : Nat) (bs : List Byte) : List Num :=
  let dim := tdDim d
  let at1 := fun i => (nth bs i 0#8).toNat
  match c with
  | 0 => (List.range dim).map (fun i => bf16 (at1 (2 * i) + 256 * at1 (2 * i + 1)))
  | 1 =>
    let f := if tdWarmFmt d = 1 then fE4M3 else fE5M2
    let k := f32 (ofBytes ((bs.drop dim).take 4))
    (List.range dim).map (fun i => (f.dec (at1 i)).mul k)
  | _ => (List.range dim).map (fun i =>
      (fE2M1.dec (at1 (i / 2) / 16 ^ (i % 2) % 16)).mul (scaleVal (at1 (dim / 2 + i / 32))))

/-- Directory entry fields (R250). -/
def deCheckOk (e : Nat) : Bool := bits e 56 8 = crc8 (toBytes 7 (bits e 0 56))
def deRepl (e : Nat) : Bool := bit e 49
def deClass (e : Nat) : Nat := bits e 46 2
def deSlot (e : Nat) : Nat := bits e 18 18
def deReplSlot (e : Nat) : Nat := bits e 0 16

/-! ## GATHER (R258) -/

/-- A check code of a table failed: CHECK_FAILED, with EMB_CHECK (R263). -/
def State.embCheck (s : State) (t : Nat) : State :=
  let e := dieOfTile t
  ((s.tableCheck e).raise (srcOf e 0x18)).failCmd t Stat.checkFailed

/-- A row is fetched: from a replica, or from the class store, a replicated row or not (R265). -/
def State.rowFetched (s : State) (t : Nat) (repl hit : Bool) : State :=
  s.updSieve (dieOfTile t) (fun v => { v with rows := satAdd 32 v.rows 1, replHit := satAdd 32 v.replHit (b2n (repl && hit)),
                                              replMiss := satAdd 32 v.replMiss (b2n (repl && !hit)) })

/-- One unique row, by its class and bytes: its directory entry, then the row, from this die's replica when it has one
(R258, R261, R265). The status CHECK_FAILED stands for a failed CHECK. -/
def State.gatherRow (x : CompCtx) (t d : Nat) (fs : List (Nat × Nat)) (row : Nat) (s : State) : State × Reach (Nat × List Byte) :=
  match s.reachRead x fs (tdDir d + 8 * row) 8 with
  | (s, .need ps) => (s, .need ps)
  | (s, .busy) => (s, .busy)
  | (s, .failed st) => (s, .failed st)
  | (s, .got bs) =>
    let e := ofBytes bs
    let c := deClass e
    let die := dieOfTile t
    let k := tdReplTile d die
    let off := tdReplOff d + deReplSlot e * (2 * tdDim d)
    let rt := tileOfLocal die k
    if !(deCheckOk e) then (s, .failed Stat.checkFailed)
    else if c = 3 || (deRepl e && c ≠ 0) then (s, .failed Stat.tableInvalid)
    else if deRepl e && k ≠ 15 && (decide (12 ≤ k) || decide ((s.tile rt).resBytes < off + 2 * tdDim d)) then (s, .failed Stat.tableInvalid)
    else if deRepl e && k ≠ 15 && !(s.tile rt).fenced then (s.rowFetched t true true, .got (0, s.wbytes rt off (2 * tdDim d)))
    else
      let a := tdClass d c + deSlot e * classPitch (tdDim d) c
      let n := classBytes (tdDim d) c
      match s.reachRead x fs a n with
      | (s, .need ps) => (s, .need ps)
      | (s, .busy) => (s, .busy)
      | (s, .failed st) => (s, .failed st)
      | (s, .got bs) => ((s.countAt x a n false).rowFetched t (deRepl e) false, .got (c, bs))

/-- Unique rows one after the other, with those fetched and, when one stops them, why. -/
def State.gatherRows (x : CompCtx) (t d : Nat) (fs : List (Nat × Nat)) :
    List Nat → List (Nat × List Byte) → State → State × List (Nat × List Byte) × Option (Reach Unit)
  | [], got, s => (s, got, none)
  | r :: rs, got, s =>
    match s.gatherRow x t d fs r with
    | (s, .got v) => State.gatherRows x t d fs rs (got ++ [v]) s
    | (s, .need ps) => (s, got, some (.need ps))
    | (s, .busy) => (s, got, some .busy)
    | (s, .failed st) => (s, got, some (.failed st))

/-- The output rows, one per index in batch order (R258). -/
def State.gatherWrite (s : State) (t d : Nat) (f : Fmt) (inv : List Nat) (rows : List (List Num)) : State :=
  (List.range inv.length).foldl (fun (s : State) i =>
    s.putCodes t (svOut d + i * svStride d) f.w ((nth rows (nth inv i 0) []).map f.enc)) s

/-- A GATHER waits: what it has fetched is kept, and the Sieve stays in it (R256). -/
def State.gatherWait (s : State) (t h : Nat) (p : CompProg) : State :=
  (s.updCmd t (fun c => TileCmd.wake (c.setOp h (fun o => { o with phase := .active, prog := p })))).updSieve (dieOfTile t)
    (fun v => { v with run := some (t, h) })

/-- GATHER's work against a table, its indices read (R258, R263). -/
def State.gatherGo (s : State) (tile : Fin 48) (h : Nat) (c : TileCmd) (o : Op) (tbl : Nat) (f : Fmt) (idx : List Nat) : State :=
  let t := tile.val
  let r := orderOf idx
  let p := o.prog
  let x : CompCtx := { ag := .tileDma tile h, eng := dieOfTile t, fw := false, tenant := cdTenant c.desc, addr := State.tileAddr t c }
  match State.gatherRows x t tbl p.fetched (r.u.drop p.rows.length) p.rows s with
  | (s, got, some (.need ps)) => (s.fetchRemote (.tileDma tile h) ps).gatherWait t h { p with idx := idx, rows := got, fetched := p.fetched ++ ps }
  | (s, _, some (.failed e)) => if e = Stat.checkFailed then s.embCheck t else s.failCmd t e
  | (s, got, some _) => s.gatherWait t h { p with idx := idx, rows := got }
  | (s, got, none) => (s.gatherWrite t o.desc f r.inv (got.map (fun v => rowValues tbl v.1 v.2))).sieveDone t h

/-- GATHER against a table: its field and index checks, then its work (R256 to R258, R263). -/
def State.gatherRun (s : State) (tile : Fin 48) (h : Nat) (c : TileCmd) (o : Op) (tbl : Nat) (f : Fmt) : State :=
  let t := tile.val
  let d := o.desc
  let n := svN d
  let bytes := tdDim tbl * f.w / 8
  let st := extentStatus t (s.tile t).resBytes [(svIdx d, 4 * n)] [(svOut d, rowsSpan n (svStride d) bytes)]
  if svStride d < bytes then s.failCmd t Stat.opInvalid
  else if st ≠ Stat.ok then s.failAccess t st
  else match (if o.prog.idx.isEmpty then s.indices t (svIdx d) n (tdRows tbl) else some o.prog.idx) with
    | none => s.failCmd t Stat.indexRange
    | some idx => s.gatherGo tile h c o tbl f idx

/-- SIEVE_GATHER (R252, R253, R256 to R258, R261, R263). -/
def execSieveGather (tile : Fin 48) (h : Nat) (s : State) : Host.Outcome State Fault Refusal :=
  let t := tile.val
  match s.sieveOp? t h 2 (.tileDma tile h) with
  | none => .next s
  | some (c, o) =>
    let pin := (s.tile t).emb
    let tbl := s.rd pin.desc 64
    if !(svCommonOk o.desc) || svOut o.desc % 128 ≠ 0 || (svFmt o.desc ≠ 0x0B && svFmt o.desc ≠ 0x0C) then .next (s.failCmd t Stat.opInvalid)
    else if !pin.valid then .next (s.failCmd t Stat.tableInvalid)
    else if !(crcOk tbl 64) then .next (s.embCheck t)
    else if !(tableOk tbl) then .next (s.failCmd t Stat.tableInvalid)
    else match fmtOf (svFmt o.desc) with
      | none => .next (s.failCmd t Stat.opInvalid)
      | some f => .next (s.gatherRun tile h c o tbl f)

/-! ## SCATTER (R259, R260) -/

/-- What a scatter does once its fields and indices are in order. -/
def State.scatterRun (s : State) (tile : Fin 48) (h sop : Nat) (f : State → Nat → List Nat → State) : State :=
  let t := tile.val
  match s.sieveOp? t h sop (.tileDma tile h) with
  | none => s
  | some (_, o) =>
    let d := o.desc
    let bytes := svElems d * svWidth d
    if !(scatterOk d) then s.failCmd t Stat.opInvalid
    else
      let st := extentStatus t (s.tile t).resBytes [(svIdx d, 4 * svN d), (svVal d, rowsSpan (svN d) (svStride d) bytes)]
        [(svTgt d, rowsSpan (svTgtRows d) (svTgtStride d) bytes)]
      if st ≠ Stat.ok then s.failAccess t st
      else match s.indices t (svIdx d) (svN d) (svTgtRows d) with
        | none => s.failCmd t Stat.indexRange
        | some idx => (f s d idx).sieveDone t h

/-- How a format's elements add (R259). -/
def addKind (fmt : Nat) : DeferKind := if fmt = 0x0B then .addBf16 else if fmt = 0x0C then .addFp32 else .addInt

/-- The atomics of one value row, by first byte and bytes: 8-byte words that are full, then 4-byte ones, and for a lone
BF16 element its own lane, the other being left as it was (R259). -/
def rowAtoms (rowBytes : Nat) : List (Nat × Nat) :=
  let w := rowBytes / 8 * 8
  (List.range (rowBytes / 8)).map (fun k => (8 * k, 8)) ++ (if rowBytes % 8 < 4 then [] else [(w, 4)]) ++
    (if rowBytes % 4 = 2 then [(rowBytes - 2, 2)] else [])

/-- One atomic of contribution i: `n` bytes at byte `b` of value row i into target row `j`. -/
def State.scatterAtom (s : State) (v : State) (t d i j b n : Nat) : State :=
  let a := svTgt d + j * svTgtStride d + b
  let val := v.wrd t (svVal d + i * svStride d + b) n
  s.placeBytes (tileBase t + a) (toBytes n (bankResult (addKind (svFmt d)) n (s.wrd t a n) val))

/-- The contributions in the order their atomics reach the bank, which the spec does not define (log 32). -/
def arrivalOrder (draw n : Nat) (atoms : List (Nat × Nat)) : List (Nat × Nat × Nat) :=
  let all := ((List.range n).map (fun i => atoms.map (fun w => (i, w)))).flatten
  let key := fun (a : Nat × Nat × Nat) => Config.arrival draw (a.1 * 16384 + a.2.1)
  all.mergeSort (fun a b => decide (key a ≤ key b))

/-- SCATTER_ADD (R91, R110, R256, R257, R259, R261). -/
def execScatterAdd (tile : Fin 48) (h : Nat) (s : State) : Host.Outcome State Fault Refusal :=
  .next (s.scatterRun tile h 3 (fun v d idx =>
    ((arrivalOrder v.fresh idx.length (rowAtoms (svElems d * svWidth d))).foldl (fun (s : State) (e : Nat × Nat × Nat) =>
      s.scatterAtom v tile.val d e.1 (nth idx e.1 0) e.2.1 e.2.2) v).draw))

/-- SCATTER_WRITE: the last occurrence in batch order stands (R256, R257, R260). -/
def execScatterWrite (tile : Fin 48) (h : Nat) (s : State) : Host.Outcome State Fault Refusal :=
  .next (s.scatterRun tile h 4 (fun v d idx =>
    let r := orderOf idx
    let bytes := svElems d * svWidth d
    (List.zip r.u r.last).foldl (fun (s : State) (e : Nat × Nat) =>
      s.placeBytes (tileBase tile.val + svTgt d + e.1 * svTgtStride d) (v.wbytes tile.val (svVal d + e.2 * svStride d) bytes)) v))

/-- SIEVE_CNT_CLR: SIEVE_CNT and SIEVE_REPL (R265). -/
def execSieveCntClr (cd : Fin 4) (s : State) : Host.Outcome State Fault Refusal :=
  if !s.live then .next s
  else .next (s.updSieve cd.val (fun v => { run := v.run }))

end Sys2Proof.Machine
end

