-- ==== Sys2Proof/Machine/Ftl.lean ====
section
/-!
DEFINITION. Sys2Proof/Machine/Ftl.lean: the flash translation layer (R201, R222 to R227, R233).
-/
namespace Sys2Proof.Machine

/-! ## The medium -/

def Ftl.block (f : Ftl) (b : Nat) : FlashBlock := Tbl.getD f.blk b {}
def State.updFtl (s : State) (g : Ftl → Ftl) : State := { s with ftl := g s.ftl }
def Ftl.updBlock (f : Ftl) (b : Nat) (g : FlashBlock → FlashBlock) : Ftl := { f with blk := Tbl.upd f.blk b {} g }

/-- Good blocks (R224). -/
def Ftl.good (f : Ftl) : Nat := f.blocks - ((f.blk.filter (fun e => e.2.bad && decide (e.1 < f.blocks))).length)

/-- Sectors in use or reserved, 16 for a plot whose size is not known yet (R201, R207). -/
def Ftl.usedSectors (f : Ftl) : Nat := (f.map.map (fun e => e.2.sectors)).sum

/-- Free sectors (R233). -/
def Ftl.freeSectors (f : Ftl) : Nat := f.userPlots * 16 - f.usedSectors

/-- Sectors of a block that hold a plot of the map (R226). -/
def Ftl.validIn (f : Ftl) (b : Nat) : Nat := ((f.map.filter (fun e => e.2.block = b && !e.2.held)).map (fun e => e.2.sectors)).sum

/-- Free plots T3 takes: 16 free sectors each, none while T3 is unusable or worn (R207, R223, R226). -/
def Ftl.freePlots (f : Ftl) : Nat := if f.unusable || f.worn then 0 else f.freeSectors / 16

/-- Blocks beyond those the user plots fill (R224, R226). -/
def Ftl.spareBlocks (f : Ftl) : Nat := f.good - cdiv (f.userPlots * 16) (Nat.max 1 f.blockSectors)

/-- Spare area below 3 % of good blocks: T3 takes no new plots, and T3_WORN is posted once (R226). -/
def State.wornCheck (s : State) : State :=
  let f := s.ftl
  if !f.worn && decide (0 < f.userPlots) && decide (f.spareBlocks * 100 < 3 * f.good) then
    (s.updFtl (fun f => { f with worn := true })).devEvent 0x07 f.spareBlocks 0 0
  else s

/-- A block is retired (R226). -/
def State.retireBlock (s : State) (b : Nat) : State :=
  if (s.ftl.block b).bad then s
  else (s.updFtl (fun f => { (f.updBlock b (fun k => { k with bad := true })) with
    badBlocks := f.badBlocks + 1, openBlock := f.openBlock.filter (fun e => e.2 ≠ b) })).wornCheck

/-! ## Placement (R226) -/

/-- The block at the start of each LUN is reserved for the bad-block table and the erase counts (R225; one block,
DESIGN CHOICE, log 82). -/
def Ftl.reserved (f : Ftl) (b : Nat) : Bool := decide (b < f.luns)

/-- The free block of a LUN with the lowest erase count, the lowest number on a tie. -/
def Ftl.freeBlock (f : Ftl) (lun : Nat) : Option Nat :=
  let cs := ((List.range (cdiv f.blocks (Nat.max 1 f.luns))).map (fun k => lun + k * f.luns)).filter (fun b =>
    decide (b < f.blocks) && !(f.reserved b) && !(f.block b).bad && (f.block b).used = 0 && !(f.openBlock.any (fun e => e.2 = b)))
  match cs with
  | [] => none
  | c :: cs => some (cs.foldl (fun best b => if (f.block b).erases < (f.block best).erases then b else best) c)

/-- The block of a LUN that takes `n` sectors: its open block, or a free block, opened and erased if it was not. -/
def Ftl.openFor (f : Ftl) (lun n : Nat) : Option (Nat × Ftl) :=
  let fresh := match f.freeBlock lun with
    | none => none
    | some b => some (b, { (f.updBlock b (fun k => { k with erases := if k.clean then k.erases else k.erases + 1, clean := false })) with
        openBlock := Tbl.put f.openBlock lun b })
  match Tbl.find? f.openBlock lun with
  | some b => if (f.block b).used + n ≤ f.blockSectors then some (b, f) else fresh
  | none => fresh

/-- The first LUN in rotation from `lun` that takes `n` sectors; the LUNs are numbered over channels, then chip enables,
then LUNs. -/
def Ftl.findLun (f : Ftl) (n : Nat) : Nat → Nat → Option (Nat × Nat × Ftl)
  | 0, _ => none
  | k + 1, lun =>
    match f.openFor lun n with
    | some (b, g) => some (lun, b, g)
    | none => Ftl.findLun f n k ((lun + 1) % f.luns)

/-- FTL_WRITE: a plot's run goes into one open block (R226). None when no block takes it. -/
def Ftl.place (f : Ftl) (h : Nat) (sectors : Nat) (frame : Bool) (now : Nat) : Option Ftl :=
  if f.luns = 0 || f.blockSectors < sectors then none
  else match f.findLun sectors f.luns (f.nextLun % f.luns) with
    | none => none
    | some (lun, b, g) =>
      let p : FlashPlot := { sectors := sectors, block := b, first := (g.block b).used, frame := frame, written := now }
      some { (g.updBlock b (fun k => { k with used := k.used + sectors })) with
        nextLun := (lun + 1) % f.luns, map := Tbl.put g.map h p }

/-- A free handle, any of those free (R224; log 14). -/
def State.freeHandle (s : State) : Option Nat :=
  let k := Config.pick s.fresh % 2 ^ 28
  (firstBelow (s.ftl.map.length + 1) (fun i => (Tbl.find? s.ftl.map ((k + i) % 2 ^ 28)).isNone)).map (fun i => (k + i) % 2 ^ 28)

/-- Room for one plot reserved in T3, by its handle (R207, R210). -/
def State.holdHandle (s : State) : Option (State × Nat) :=
  if s.ftl.freePlots = 0 then none
  else (s.freeHandle).map (fun h =>
    (s.draw.updFtl (fun f => { f with map := Tbl.put f.map h { sectors := 16, block := 0, first := 0, held := true } }), h))

/-- Sectors of a plot: its frame's when it passes the compressor and the frame is shorter (R201, R236). -/
def plotSectors (compress : Bool) (bs : List Byte) : Nat × Bool :=
  if compress then match compressPlot bs with
    | some fr => (cdiv fr.length 4096, true)
    | none => (16, false)
  else (16, false)

/-- A plot's 65,536 bytes written under a handle that has room; none when the medium does not take it (R201, R226). -/
def State.ftlWrite (s : State) (h : Nat) (compress : Bool) (bs : List Byte) : Option State :=
  let p := plotSectors compress bs
  (s.ftl.place h p.1 p.2 s.ltu).map (fun f => { s with ftl := f }.t3Put h bs)

/-- A handle is given up: its sectors are no longer valid (R227). -/
def State.ftlFree (s : State) (h : Nat) : State := (s.updFtl (fun f => { f with map := Tbl.del f.map h })).t3Zero h

/-! ## Reading -/

/-- A handle that holds readable data. -/
def Ftl.readable (f : Ftl) (h : Nat) : Bool :=
  match Tbl.find? f.map h with
  | some p => !p.held && !p.lost
  | none => false

/-- The counts of a read by how it decoded (R226, R233). -/
def Ftl.decoded (f : Ftl) : LdpcOutcome → Ftl
  | .hard _ => f
  | .retry n => { f with retried := satAdd 16 f.retried n }
  | .soft => { f with retried := satAdd 16 f.retried 1, soft := satAdd 32 f.soft 1 }
  | .uncorrectable => { f with retried := satAdd 16 f.retried 1, soft := satAdd 32 f.soft 1, uncorrectable := satAdd 16 f.uncorrectable 1 }

/-- Tenant that a T3 handle is charged to, through the request, holder record or model slot that holds it (R207). -/
def State.handleTenant (s : State) (h : Nat) : Option Nat :=
  match s.reqs.find? (fun e => e.2.pages.any (fun p => p.2 = .t3 h)) with
  | some e => some e.2.tenant
  | none => match s.holders.find? (fun r => r.pages.any (fun p => p.2 = .t3 h)) with
    | some r => some r.tenant
    | none => (s.slots.find? (fun e => e.2.plots.any (fun p => p.2 = .t3 h))).map (fun e => e.2.tenant)

/-- The bytes of a flash run counted to the tenant (R391). -/
def State.countT3 (s : State) (tn : Option Nat) (h : Nat) (write : Bool) : State :=
  match tn, Tbl.find? s.ftl.map h with
  | some t, some p => s.countBytes t (4 + b2n write) (p.sectors * 4096)
  | _, _ => s

/-- The ONFI channel of a block: the LUNs are numbered over channels first (R226). -/
def Ftl.chanOfBlock (f : Ftl) (b : Nat) : Nat := b % Nat.max 1 f.luns % 8

/-- A read of a handle's run: one on a fenced channel ends POISONED and marks the handle LOST (R453); else counted in its block and by how it decoded; an uncorrectable one marks the handle LOST and
retires the block (R226). -/
def State.t3Read (s : State) (h : Nat) (o : LdpcOutcome) : State :=
  match Tbl.find? s.ftl.map h with
  | none => s
  | some p =>
    if p.held || p.lost then s
    else if Tbl.getD s.ftl.chState (s.ftl.chanOfBlock p.block) 0 = 3 then s.updFtl (fun f => { f with map := Tbl.put f.map h { p with lost := true } })
    else
      let s := s.updFtl (fun f => (f.decoded o).updBlock p.block (fun k => { k with reads := k.reads + 1, weak := k.weak || o = .hard true }))
      if o = .uncorrectable then
        ((s.updFtl (fun f => { f with map := Tbl.put f.map h { p with lost := true } })).raise (srcOf 4 0x08)).retireBlock p.block
      else s

/-- A copy reads a place: a T3 place decodes as given, another has no code of the flash (R226). -/
def State.placeRead (s : State) (p : Place) (o : LdpcOutcome) : State :=
  match p with
  | .t3 h => s.t3Read h o
  | _ => s

/-- FTL_READ (R201, R226, R233): a plot read out whole to `dst`, or its handle marked LOST. -/
def execFtlRead (handle : BitVec 28) (dst : Nat) (o : LdpcOutcome) (s : State) : Host.Outcome State Fault Refusal :=
  let h := handle.toNat
  match Tbl.find? s.ftl.map h with
  | none => .next s
  | some _ =>
    if !s.live || !(s.ftl.readable h) then .next s
    else
      let s := s.t3Read h o
      if !(s.ftl.readable h) then .next s
      else
        let s := s.countT3 (s.handleTenant h) h false
        if s.accStatus (.dma 4 true) .write dst 65536 = Stat.ok && !(inAperture dst) then .next (s.placeBytes dst (s.t3Bytes h 65536)) else .next s

/-! ## Relocation (R226, R227) -/

/-- Free blocks of a LUN. -/
def Ftl.freeIn (f : Ftl) (lun : Nat) : Nat :=
  (((List.range (cdiv f.blocks (Nat.max 1 f.luns))).map (fun k => lun + k * f.luns)).filter (fun b =>
    decide (b < f.blocks) && !(f.reserved b) && !(f.block b).bad && (f.block b).used = 0)).length

/-- A reason to relocate a block that R226 names holds of it now. -/
def State.relocDue (s : State) (b : Nat) (why : RelocWhy) : Bool :=
  let f := s.ftl
  let k := f.block b
  let data := fun (e : Nat × FlashBlock) => decide (0 < e.2.used) && !e.2.bad
  match why with
  | .staticWear =>
    let good := (List.range f.blocks).filter (fun i => !(f.block i).bad)
    let hi := good.foldl (fun m i => Nat.max m (f.block i).erases) 0
    let lo := good.foldl (fun m i => Nat.min m (f.block i).erases) hi
    decide (s.cfg.dev.wearSpread < hi - lo) && f.blk.all (fun e => !(data e) || decide (k.erases ≤ e.2.erases))
  | .readDisturb => decide (s.cfg.dev.readDisturb ≤ k.reads)
  | .refresh => k.weak || f.map.any (fun e => e.2.block = b && !e.2.held && decide (s.cfg.dev.refreshHours * 360000000000 < s.ltu - e.2.written))
  | .badBlock => true
  | .reclaim =>
    let lun := b % Nat.max 1 f.luns
    decide (f.freeIn lun * 50 < cdiv f.blocks (Nat.max 1 f.luns)) &&
      f.blk.all (fun e => !(data e) || e.1 % Nat.max 1 f.luns ≠ lun || decide (f.validIn b ≤ f.validIn e.1))

/-- The valid runs of a block copied elsewhere, a lost one keeping its mark; none when one finds no place. -/
def moveRuns (b now : Nat) : List (Nat × FlashPlot) → Ftl → Option Ftl
  | [], f => some f
  | e :: es, f =>
    if e.2.block ≠ b || e.2.held then moveRuns b now es f
    else match f.place e.1 e.2.sectors e.2.frame now with
      | none => none
      | some g => moveRuns b now es { g with map := Tbl.upd g.map e.1 e.2 (fun p => { p with lost := e.2.lost }) }

/-- FTL_RELOCATION (R226, R227): the valid sectors are copied, the map switched, and the block erased or retired. -/
def execFtlRelocation (block : Nat) (why : RelocWhy) (s : State) : Host.Outcome State Fault Refusal :=
  if !s.live || decide (s.ftl.blocks ≤ block) || s.ftl.reserved block || ((s.ftl.block block).used = 0 && why ≠ .badBlock) || !(s.relocDue block why) then .next s
  else
    let shut : Ftl := { s.ftl with openBlock := s.ftl.openBlock.filter (fun e => e.2 ≠ block) }
    match moveRuns block s.ltu s.ftl.map shut with
    | none => .next s
    | some f =>
      let s := { s with ftl := f }
      let s := if why = .badBlock then s.retireBlock block else s
      .next (s.updFtl (fun f => f.updBlock block (fun k =>
        if k.bad then { k with used := 0, reads := 0, weak := false }
        else { k with erases := k.erases + 1, used := 0, reads := 0, weak := false, clean := true })))

/-- FTL_CNT_CLR: FTL_LDPC (R233). -/
def execFtlCntClr (s : State) : Host.Outcome State Fault Refusal :=
  if !s.live then .next s else .next (s.updFtl (fun f => { f with soft := 0, retried := 0, uncorrectable := 0 }))

end Sys2Proof.Machine
end

