-- ==== Sys2Proof/Machine/Plots.lean ====
section
/-!
DEFINITION. Sys2Proof/Machine/Plots.lean: plots, quotas and leaves: what the tier manager's operations do to one plot
(R132, R135, R137, R151 to R154, R198, R202 to R207, R560).
-/
namespace Sys2Proof.Machine

/-! ## Places -/

/-- Tier of a place; 4 is a holder on another device. -/
def Place.tier : Place → Nat
  | .t1 _ _ => 1
  | .t2 _ => 2
  | .t3 _ => 3
  | .holder => 4

/-- Physical address of a T2 tenant-space plot (R65). -/
def t2Addr (k : Nat) : Nat := 0x11800000000 + k * 65536

/-- Physical address of a place in T1 or T2. -/
def Place.addr : Place → Option Nat
  | .t1 ch plot => some (aliasAddr ch (plot * 65536))
  | .t2 a => some a
  | _ => none

/-- The leaf that maps a place, writes and atomics permitted or not (R128). -/
def Place.leafFor (p : Place) (rw : Bool) : Nat :=
  match p with
  | .t1 ch plot => leafValid (aliasAddr ch (plot * 65536)) rw rw
  | .t2 a => leafValid a rw rw
  | .t3 h => leafState 1 h
  | .holder => leafState 0 0

/-- The leaf of a request's page: writes and atomics permitted (R128; log 34). -/
def Place.leaf (p : Place) : Nat := p.leafFor true

/-- The leaf of a model slot's page: its bias table plot is read-only to commands (R138). -/
def Slot.leaf (m : Slot) (vpn : Nat) (p : Place) : Nat := p.leafFor (m.biasTbl = 0 || vpn ≠ m.biasTbl / 65536)

/-- Leaves with V = 0: EMPTY, PRUNED and MOVING (R128). -/
def leafEmpty : Nat := leafState 0 0
def leafPruned : Nat := leafState 2 0
def leafMoving : Nat := leafState 3 0

/-- A place's 65,536 bytes. -/
def State.placeData (s : State) (p : Place) : List Byte :=
  match p with
  | .t3 h => s.t3Bytes h 65536
  | _ => match p.addr with
    | some a => s.bytes a 65536
    | none => []

/-- The source of a copy can no longer be read: a LOST handle (R205, R226). -/
def State.placeLost (s : State) (p : Place) : Bool :=
  match p with
  | .t3 h => !(s.ftl.readable h)
  | _ => false

/-! ## Quotas (R206, R207) -/

/-- The 64-byte tenant entry (R206). -/
def Tenant.enc (t : Tenant) : Nat :=
  withCrc (ofBytes (packFields ((List.range 4).map (fun k => (4, nth t.quota k 0)) ++ (List.range 4).map (fun k => (4, nth t.used k 0)) ++
    [(1, t.lowest), (1, b2n t.t3Compress), (2, t.asid)]))) 64

/-- Where a tenant's entry lies (R206, R228). -/
def tenantAddr (tn : Nat) : Nat := 0x10014000000 + 64 * tn

/-- A tenant's entry written in the tenant table. -/
def State.writeTenant (s : State) (tn : Nat) : State := s.wr (tenantAddr tn) 64 (s.tenant tn).enc

/-- The CRC of a tenant's entry fails (R206). -/
def State.tenantBad (s : State) (tn : Nat) : Bool := (s.tenant tn).valid && !(crcOk (s.rd (tenantAddr tn) 64) 64)

/-- A failing entry is reported, and firmware rewrites it (R80, R206). -/
def State.tenantCheck (s : State) (tn : Nat) : State :=
  if s.tenantBad tn then ((s.tableCheck 4).raise (srcOf 4 0x07)).writeTenant tn else s

/-- A tenant's quota in a tier: 0 while its entry's CRC fails (R206). -/
def State.quotaOf (s : State) (tn k : Nat) : Nat := if s.tenantBad tn then 0 else nth (s.tenant tn).quota k 0

def State.quotaLeft (s : State) (tn k : Nat) : Nat := s.quotaOf tn k - nth (s.tenant tn).used k 0

/-- A plot is charged, or its charge taken back, in the tenant's entry (R206, R207). -/
def State.charge (s : State) (tn k : Nat) : State :=
  (s.updTenant tn (fun t => { t with used := setNth t.used k (nth t.used k 0 + 1) })).writeTenant tn
def State.credit (s : State) (tn k : Nat) : State :=
  (s.updTenant tn (fun t => { t with used := setNth t.used k (nth t.used k 0 - 1) })).writeTenant tn

/-- A T3 that takes no new plots counts as T2 in LOWEST_TIER (R223, R226). -/
def State.lowestTier (s : State) (tn : Nat) : Nat :=
  if (s.tenant tn).lowest = 3 && !s.ftl.unusable && !s.ftl.worn then 3 else 2

/-- DEVICE fields of the version a request is bound to (R21, R436). -/
def State.devOf (s : State) (version : Nat) : DevCfg :=
  match s.cfg.prev with
  | some p => if p.version = version then s.cfg.prevDev else s.cfg.dev
  | none => s.cfg.dev

/-- The tiers a request's plots may take, highest first: T1 alone in TVM-5100 compatibility mode, which is the
device's (R6, R151, R157, R435). -/
def State.permitted (s : State) (tn : Nat) : List Nat :=
  if s.cfg.dev.compat then [1] else if s.lowestTier tn = 3 then [1, 2, 3] else [1, 2]

/-! ## Free plots (R151, R198) -/

/-- Plots of a channel in use, by their index in it. -/
def State.chanUsed (s : State) (ch : Nat) : List Nat := (s.pools.t1.filter (fun k => k / 65536 = ch)).map (· % 65536)

/-- Free plots of a T1 channel. -/
def State.chanFree (s : State) (ch : Nat) : Nat := 65536 - (s.chanUsed ch).length

/-- Plots of T2 tenant space (R198). -/
def t2Plots : Nat := 15204352

/-- One of the numbers below `n` that are not in use, any of them (log 14). -/
def pickFree (used : List Nat) (n draw : Nat) : Option Nat :=
  let k := Config.pick draw % n
  (firstBelow (Nat.min n (used.length + 1)) (fun i => !(used.contains ((k + i) % n)))).map (fun i => (k + i) % n)

/-- A free plot of a tier taken; in T1 of channel `ch` (R137, R151). -/
def State.takePlot (s : State) (tier ch : Nat) : Option (State × Place) :=
  match tier with
  | 1 => (pickFree (s.chanUsed ch) 65536 s.fresh).map (fun i =>
      ({ s.draw with pools := { s.pools with t1 := (ch * 65536 + i) :: s.pools.t1 } }, .t1 ch i))
  | 2 => (pickFree s.pools.t2 t2Plots s.fresh).map (fun i =>
      ({ s.draw with pools := { s.pools with t2 := i :: s.pools.t2 } }, .t2 (t2Addr i)))
  | _ => s.holdHandle.map (fun r => (r.1, .t3 r.2))

/-- A plot returned to its tier (R202). -/
def State.givePlot (s : State) (p : Place) : State :=
  match p with
  | .t1 ch i => { s with pools := { s.pools with t1 := s.pools.t1.filter (· ≠ ch * 65536 + i) } }
  | .t2 a => { s with pools := { s.pools with t2 := s.pools.t2.filter (· ≠ (a - 0x11800000000) / 65536) } }
  | .t3 h => s.ftlFree h
  | .holder => s

/-- ALLOC without the leaf: a plot of one tier, within the quota, and charged (R202, R207). -/
def State.allocIn (s : State) (tn tier ch : Nat) : Option (State × Place) :=
  if s.quotaLeft tn tier = 0 then none else (s.takePlot tier ch).map (fun r => (r.1.charge tn tier, r.2))

/-- The highest of the tiers that has room (R151). -/
def State.allocTiers (s : State) (tn ch : Nat) : List Nat → Option (State × Place)
  | [] => none
  | k :: ks => match s.allocIn tn k ch with
    | some r => some r
    | none => s.allocTiers tn ch ks

/-- A plot returned and its quota credited (R202, R207). -/
def State.freePlace (s : State) (tn : Nat) (p : Place) : State :=
  if p.tier = 4 then s else (s.givePlot p).credit tn p.tier

/-! ## Leaves -/

/-- A leaf rewritten, and its range invalidated before the plot it mapped is given to any other use (R132, R161). -/
def State.setPage (s : State) (asid vpn leaf : Nat) : State :=
  if asid = 0 then s else (s.setLeaf asid vpn leaf).dropTlb (.range asid vpn 1)

/-! ## A request's pages (R134 to R137, R560) -/

/-- Address of a request's sequence descriptor (R228). -/
def seqAddr (i : Nat) : Nat := 0x10020000000 + 1024 * i

/-- The sequence descriptor's 64 bytes (R136). -/
def Seq.enc (q : Seq) (i : Nat) : Nat :=
  withCrc (ofBytes (packFields [(8, q.base), (2, q.asid), (1, q.rangeLog2), (1, q.pageBits), (1, q.layers), (1, q.kvHeads), (1, q.headDim), (1, q.kvFmt),
    (16, q.chset.toNat), (4, q.reservedLen), (4, q.pruneFloor), (8, q.lastActive), (1, q.sinkN), (1, b2n q.reprefillPending), (2, q.grace), (8, seqAddr i + 64), (4, 0)])) 64

/-- A request's sequence descriptor and valid-length array written in the system region (R136, R228). -/
def State.writeSeq (s : State) (i : Nat) : State :=
  let q := (s.req i).seq
  (s.wr (seqAddr i) 64 (q.enc i)).wrBytes (seqAddr i + 64) (packFields (q.vlen.map (fun v => (4, v))))

/-- T_P (R134). -/
def Seq.tp (q : Seq) : Nat := 65536 / Nat.max 1 (2 * (32 * 2 ^ q.headDim) * (if q.kvFmt = 0x0B then 2 else 1))

def Seq.vpn (q : Seq) (page : Nat) : Nat := q.base / 65536 + page

/-- Page index within its layer-head, and the layer-head, of a page of the range (R135). -/
def Seq.pageIdx (q : Seq) (page : Nat) : Nat := page % 2 ^ q.pageBits
def Seq.lhOf (q : Seq) (page : Nat) : Nat := page / 2 ^ q.pageBits
/-- Page number in the range of page p of layer-head lh. -/
def Seq.pageOf (q : Seq) (lh p : Nat) : Nat := lh * 2 ^ q.pageBits + p

/-- The channel a page takes while it lies in T1 (R137). -/
def Seq.chan (q : Seq) (page : Nat) : Nat :=
  let set := (List.range 128).filter (fun c => q.chset.getLsbD c)
  nth set ((q.lhOf page + q.pageIdx page) % Nat.max 1 set.length) 0

/-- Page numbers that positions from `a` up to but not `b` need, of every layer-head (R135). -/
def Seq.pagesFor (q : Seq) (a b : Nat) : List Nat :=
  let lo := a / Nat.max 1 q.tp
  let hi := cdiv b (Nat.max 1 q.tp)
  ((List.range (q.layers * q.kvHeads)).map (fun lh => (rangeFrom lo (hi - lo)).map (q.pageOf lh))).flatten

/-- CHANNEL_SET of a new descriptor (R560). -/
def State.channelSet (s : State) (positions : Nat) : BitVec 128 :=
  let m := s.cfg.dev.chsetShortMax
  let bt := (rangeFrom 32 16).filter (fun t => !(s.tile t).fenced)
  let free := fun t => ((List.range 8).map (fun i => s.chanFree ((t - 32) * 8 + i))).sum
  match bt with
  | [] => BitVec.allOnes 128
  | t :: ts =>
    if m = 0 || m < positions then BitVec.allOnes 128
    else
      let best := ts.foldl (fun b t => if free b < free t then t else b) t
      BitVec.ofNat 128 (0xFF * 2 ^ (8 * (best - 32)))

/-- Least valid length over the layers (R152). -/
def Seq.minLen (q : Seq) : Nat := match q.vlen with
  | [] => 0
  | v :: vs => vs.foldl Nat.min v

/-- Greatest valid length over the layers. -/
def Seq.maxLen (q : Seq) : Nat := q.vlen.foldl Nat.max 0

/-- ALLOC of one page of a request, with its leaf (R148, R151, R202, R230). -/
def State.allocPage (s : State) (i page : Nat) (tiers : List Nat) : Option State :=
  let r := s.req i
  if (Tbl.find? r.pages page).isSome then some s
  else (s.allocTiers r.tenant (r.seq.chan page) tiers).map (fun x =>
    (x.1.updReq i (fun r => { r with pages := Tbl.put r.pages page x.2, pruned := r.pruned.filter (· ≠ page) })).setPage r.seq.asid (r.seq.vpn page) x.2.leaf)

/-- FREE of one page of a request, its leaf set as given (R202). -/
def State.freePage (s : State) (i page leaf : Nat) : State :=
  let r := s.req i
  match Tbl.find? r.pages page with
  | none => s
  | some p =>
    let s := (s.setPage r.seq.asid (r.seq.vpn page) leaf).updReq i (fun r =>
      { r with pages := Tbl.del r.pages page, pruned := if leaf = leafPruned then page :: r.pruned else r.pruned })
    s.freePlace r.tenant p

/-- Every page of a request freed. -/
def State.freePages (s : State) (i leaf : Nat) : State := (s.req i).pages.foldl (fun s e => s.freePage i e.1 leaf) s

/-! ## What commands name (R153, R204) -/

/-- A tag's command is queued or running. -/
def Tag.live (x : Tag) : Bool := x.held && (x.st = .queued || x.st = .running || x.st = .ended || x.st = .committing)

/-- A command queued or running names the request. -/
def State.reqNamed (s : State) (i : Nat) : Bool :=
  s.tags.any (fun e => e.2.live && (s.group e.2.group).works.any (fun w => w.req = i && !w.dead))

/-- A command of the request, killed and to be re-run, or with writes in flight, still holds its tag. -/
def State.reqHeld (s : State) (i : Nat) : Bool :=
  s.tags.any (fun e => e.2.held && (s.group e.2.group).works.any (fun w => w.req = i && !w.dead))

/-- Writes of killed runs of the request are in flight (R117). -/
def State.reqDraining (s : State) (i : Nat) : Bool :=
  s.tags.any (fun e => e.2.held && decide (0 < e.2.drain) && (s.group e.2.group).works.any (fun w => w.req = i && !w.dead))

/-- A command queued or running uses a model slot. -/
def State.slotNamed (s : State) (k : Nat) : Bool := s.tags.any (fun e => e.2.live && cdSlot e.2.desc = k)

/-- A tier operation of the request is in progress (R203). -/
def State.tierBusy (s : State) (i : Nat) : Bool :=
  !(s.req i).parkCopies.isEmpty || !(s.req i).pull.isEmpty || s.pools.moves.any (fun m => m.req = i)

/-- A graft that is not over. -/
def Graft.live (g : Graft) : Bool := g.phase ≠ .done

/-- A graft of the request is open, as its source or its puller (R158). -/
def State.grafting (s : State) (i : Nat) : Bool :=
  s.fab.grafts.any (fun g => g.live && g.req = i && g.reqId = (s.req i).reqId)

/-! ## Pruning (R152 to R154) -/

/-- How a reservation of space ends: placed, refused, or waiting for the next step boundary (R152, R156). -/
inductive Space where
  | placed | refused | waits
  deriving DecidableEq, Repr

/-- PRUNE_FLOOR rounded up to whole pages (R152). -/
def Seq.floor (q : Seq) : Nat := roundUp q.pruneFloor (Nat.max 1 q.tp)

/-- Pages of a request in this device's tiers at positions from c. -/
def Req.pagesFrom (r : Req) (c : Nat) : List (Nat × Place) :=
  r.pages.filter (fun e => e.2.tier ≠ 4 && decide (c ≤ r.seq.pageIdx e.1 * r.seq.tp))

/-- A request may be a victim of an allocation for request `by_` (R153, R158). -/
def State.eligible (s : State) (by_ : Option Nat) (i : Nat) : Bool :=
  let r := s.req i
  by_ ≠ some i && (r.st = .prefill || r.st = .decode || r.st = .parked || r.st = .reprefill) && !(s.reqNamed i) && !(s.reqDraining i) &&
    r.seq.grace = 0 && !(r.pagesFrom r.seq.floor).isEmpty && !(s.tierBusy i) && !(s.grafting i)

/-- PRUNE of a request to position c (R154): every layer's valid length and RESERVED_LEN become c, whatever they were. -/
def State.prune (s : State) (i c : Nat) : State :=
  let r := s.req i
  let old := r.seq.maxLen
  let lost := decide (c < old)
  let s := s.updReq i (fun r =>
    { r with seq := { r.seq with vlen := r.seq.vlen.map (fun _ => c), reservedLen := c,
                                 reprefillPending := r.seq.reprefillPending || lost },
             recomputeTo := if lost then Nat.max old r.recomputeTo else r.recomputeTo,
             prunedAt := if lost then s.ltu else r.prunedAt })
  ((r.pagesFrom c).foldl (fun s e => s.freePage i e.1 leafPruned) s).writeSeq i

/-- Room of a tenant in a tier (R207). -/
def State.tierRoom (s : State) (tn tier : Nat) : Nat :=
  Nat.min (s.quotaLeft tn tier) (if tier = 2 then t2Plots - s.pools.t2.length else s.ftl.freePlots)

/-- The cut of a victim (R152). -/
def cutOf (r : Req) (tier short : Nat) : Nat :=
  let tp := Nat.max 1 r.seq.tp
  let fl := r.seq.floor
  let hi := r.seq.minLen / tp
  let ok := fun c => decide (short ≤ ((r.pagesFrom c).filter (fun e => e.2.tier = tier)).length)
  match firstBelow (hi + 1 - fl / tp) (fun k => ok ((hi - k) * tp)) with
  | some k => (hi - k) * tp
  | none => fl

/-- The least recently active eligible request of the scope, the lower index on a tie (R152). -/
def State.victim (s : State) (by_ : Option Nat) (tn : Option Nat) : Option Nat :=
  let cs := (Tbl.keys s.reqs).filter (fun i => s.eligible by_ i && (match tn with
    | some t => (s.req i).tenant = t
    | none => true))
  match cs with
  | [] => none
  | c :: cs => some (cs.foldl (fun b i => if (s.req i).seq.lastActive < (s.req b).seq.lastActive then i else b) c)

/-- MAKE_ROOM: `need` plots of `tier` for tenant `tn`, by pruning; false when it must wait (R152). Where the tenant's quota
and physical space both block the tier, the scope is the tenant's own requests (DESIGN CHOICE, log 79). -/
def State.makeSpace (s : State) (by_ : Option Nat) (tn tier need : Nat) : Nat → State × Bool
  | 0 => (s, decide (need ≤ s.tierRoom tn tier))
  | fuel + 1 =>
    let room := s.tierRoom tn tier
    if need ≤ room then (s, true)
    else
      let scope := if s.quotaLeft tn tier < need then some tn else none
      match s.victim by_ scope with
      | none => (s, false)
      | some v => (s.prune v (cutOf (s.req v) tier (need - room))).makeSpace by_ tn tier need fuel

/-- One page allocated, pruning in the lowest tier when no tier has room and pruning is allowed; false when it must
wait (R151, R152, R157, R208). Room is made for one plot at a time (DESIGN CHOICE, log 79). -/
def State.allocOrPrune (s : State) (i page : Nat) (tiers : List Nat) (mayPrune : Bool) : State × Bool :=
  match s.allocPage i page tiers with
  | some s => (s, true)
  | none =>
    let low := tiers.getLastD 1
    if !mayPrune || low < 2 then (s, false)
    else
      match s.makeSpace (some i) (s.req i).tenant low 1 (s.reqs.length + 1) with
      | (s, false) => (s, false)
      | (s, true) => match s.allocPage i page tiers with
        | some s => (s, true)
        | none => (s, false)

/-- Pages allocated one after the other; false when one must wait. Those already got are kept meanwhile (DESIGN CHOICE,
log 80). -/
def State.allocPages (s : State) (i : Nat) (tiers : List Nat) (mayPrune : Bool) : List Nat → State × Bool
  | [] => (s, true)
  | p :: ps => match s.allocOrPrune i p tiers mayPrune with
    | (s, true) => State.allocPages s i tiers mayPrune ps
    | (s, false) => (s, false)

/-! ## Plots lost (R44, R136, R205) -/

/-- Places reserved for a local park are given back. -/
def State.dropCopies (s : State) (i : Nat) : State :=
  let cs := (s.req i).parkCopies
  (cs.foldl (fun s c => s.givePlot c.2.1) s).updReq i (fun r => { r with parkCopies := [] })

/-- A MOVE of a request's plot is given up with the plot: what it holds beside the leaf's own place is given back. -/
def State.dropMoves (s : State) (i : Nat) : State :=
  (s.pools.moves.filter (fun m => m.req = i)).foldl (fun s m =>
    let s := { s with pools := { s.pools with moves := s.pools.moves.erase m } }
    match m.stage with
    | .first => s.givePlot m.dst
    | .copy => s.freePlace (s.req i).tenant m.dst
    | _ => s.freePlace (s.req i).tenant m.src) s

/-- A request's plots are lost, or its time to live has passed: every valid length and RESERVED_LEN become 0 and every
leaf PRUNED (R136, R212). -/
def State.dropPlots (s : State) (i : Nat) : State :=
  ((((s.dropMoves i).dropCopies i).freePages i leafPruned).updReq i (fun r =>
    { r with pages := [], pull := [], parkCopies := [], recomputeTo := 0,
             seq := { r.seq with vlen := r.seq.vlen.map (fun _ => 0), reservedLen := 0, reprefillPending := false } })).writeSeq i

end Sys2Proof.Machine
end

