-- ==== Sys2Proof/Machine/Rings.lean ====
section
/-!
DEFINITION. Sys2Proof/Machine/Rings.lean: rings: descriptors, doorbells, completions, token entries, ring commands (R358 to R372, R397,
R440).
-/
namespace Sys2Proof.Machine

/-! ## Descriptors (R359) -/

def RingKind.code : RingKind → Nat
  | .submission => 1
  | .completion => 2
  | .token => 3
  | .event => 4

def RState.code : RState → Nat
  | .free => 0
  | .active => 1
  | .halted => 2
  | .bound => 3
  | .draining => 4

def kindOf : Nat → Option RingKind
  | 1 => some .submission
  | 2 => some .completion
  | 3 => some .token
  | 4 => some .event
  | _ => none

def rstateOf : Nat → RState
  | 1 => .active
  | 2 => .halted
  | 3 => .bound
  | 4 => .draining
  | _ => .free

/-- Address of a ring's descriptor in the ring table (R228, R359). -/
def ringSlot (r : Nat) : Nat := 0x10012000000 + 64 * r

/-- A ring's descriptor, its CRC included (R359). -/
def Ring.desc (r : Ring) : Nat :=
  withCrc (r.kind.code + r.rstate.code * 2 ^ 8 + r.ld % 16 * 2 ^ 16 + r.log2 % 256 * 2 ^ 24 + r.vector % 2 ^ 11 * 2 ^ 32 + b2n r.irq * 2 ^ 47 +
    b2n r.window * 2 ^ 48 + r.base % 2 ^ 64 * 2 ^ 64 + r.head % 2 ^ 32 * 2 ^ 128 + r.tail % 2 ^ 32 * 2 ^ 160 + r.bind % 2 ^ 18 * 2 ^ 192 +
    r.tenant % 2 ^ 16 * 2 ^ 224 + r.coalesceUs % 2 ^ 16 * 2 ^ 240 + r.resv % 2 ^ 32 * 2 ^ 256) 64

/-- The descriptor written to the ring table. -/
def State.writeRing (s : State) (r : Nat) : State := s.wr (ringSlot r) 64 (s.ring r).desc

/-- The fields of a descriptor that the ring engine keeps: RSTATE, HEAD, TAIL, RESV and a token ring's BIND (R359, R366). -/
def Ring.kept (g : Ring) (d : Nat) : Nat :=
  let d := setFld (setFld (setFld (setFld d 1 1 g.rstate.code) 0x10 4 g.head) 0x14 4 g.tail) 0x20 4 g.resv
  withCrc (if g.kind = .token then setFld d 0x18 4 g.bind else d) 64

/-- What the ring engine keeps of a ring stands in its descriptor; one that fails its CRC is left for firmware (R228, R359;
log 15). -/
def State.syncRing (s : State) (r : Nat) : State :=
  let d := s.rd (ringSlot r) 64
  if (s.ring r).rstate = .free || !(crcOk d 64) then s else s.wr (ringSlot r) 64 ((s.ring r).kept d)

/-- A descriptor holds no reserved value and no non-zero reserved field (R15, R359). -/
def ringDescOk (d : Nat) (k : RingKind) : Bool :=
  decide (fld d 1 1 ≤ 4) && (k = .token || decide (fld d 1 1 ≤ 2)) && bits d 20 4 = 0 && decide (4 ≤ fld d 3 1) && decide (fld d 3 1 ≤ 16) &&
    bits d 43 4 = 0 && bits d 49 7 = 0 && fld d 7 1 = 0 && fld d 8 8 % 4096 = 0 && (!(bit d 48) || decide (fld d 8 8 < 2 ^ 36)) &&
    bits d (8 * 0x18 + 18) 14 = 0 && (k ≠ .completion && k ≠ .event || (bits d (8 * 0x18) 18 = 0 && fld d 0x1C 2 = 0xFFFF)) && bits d (8 * 0x24) 192 = 0

/-- What LOAD takes from a descriptor: every field but the counts and the state the engine keeps of a ring in use
(log 15). -/
def Ring.loaded (g : Ring) (d : Nat) (k : RingKind) : Ring :=
  let fresh := g.rstate = .free
  { g with kind := k, rstate := if fresh then rstateOf (fld d 1 1) else g.rstate, ld := bits d 16 4, log2 := fld d 3 1, vector := bits d 32 11,
           irq := bit d 47, window := bit d 48, base := fld d 8 8, bind := if k = .token && !fresh then g.bind else bits d 192 18,
           disabled := g.destroying, tenant := fld d 0x1C 2, coalesceUs := fld d 0x1E 2, head := if fresh then fld d 0x10 4 else g.head,
           tail := if fresh then fld d 0x14 4 else g.tail, resv := if fresh then fld d 0x20 4 else g.resv }

/-! ## Completions (R365, R369, R370) -/

/-- A completion entry, PHASE and CRC apart (R369). -/
def cplEntry (subId reqId status op detail tokens : Nat) : Nat :=
  subId % 2 ^ 64 + reqId % 2 ^ 64 * 2 ^ 64 + status % 2 ^ 16 * 2 ^ 128 + op % 256 * 2 ^ 144 + detail % 2 ^ 32 * 2 ^ 160 + tokens % 2 ^ 32 * 2 ^ 192

/-- The ring takes a completion now. -/
def Ring.takes (g : Ring) : Bool := g.kind = .completion && g.rstate = .active && !g.full

/-- An END entry has been posted: its request's table entry is FREE (R22, R365). -/
def State.endPosted (s : State) (r raw : Nat) : State :=
  if fld raw 0x12 1 ≠ 0 then s
  else
    let s := { s with reqRegs := { s.reqRegs with ended := satAdd 32 s.reqRegs.ended 1 } }
    { s with reqs := s.reqs.filter (fun e => !(e.2.ending && e.2.cplRing = r && e.2.reqId = fld raw 8 8)) }

/-- One completion written. -/
def State.putCpl (s : State) (r raw : Nat) : State :=
  let s := s.postEntry r raw
  ({ s with ringRegs := { s.ringRegs with cplPosted := satAdd 32 s.ringRegs.cplPosted 1 } }).endPosted r raw

/-- A completion posted, or due while its ring is full or HALTED (R365). -/
def State.postCompletion (s : State) (r raw : Nat) : State :=
  let g := s.ring r
  if g.takes && g.due.isEmpty then s.putCpl r raw
  else if g.rstate = .free then s.endPosted r raw
  else s.updRing r (fun g => { g with due := g.due ++ [raw] })

/-- Entries due on a completion ring are posted in order while there is room (R365). -/
def State.flushDue (s : State) (r : Nat) : State :=
  (s.ring r).due.foldl (fun s raw =>
    if (s.ring r).takes && (s.ring r).due.head? = some raw then
      (s.updRing r (fun g => { g with due := g.due.drop 1 })).putCpl r raw
    else s) s

/-- An operation completes: its entry goes to the completion ring its submission ring is bound to (R23, R369); none is
posted once that ring has gone (R415). -/
def State.completeOp (s : State) (p : PendOp) (reqId op status detail : Nat) : State :=
  if (s.ring p.ring).rstate = .free then s
  else
  let cpl := (s.ring p.ring).bind
  let s := s.updRing p.ring (fun g => { g with taken := g.taken - 1 })
  s.postCompletion cpl (cplEntry p.subId reqId status op detail 0)

/-- A pending operation, if there is one, completes. -/
def State.completeIf (s : State) (p : Option PendOp) (reqId op status detail : Nat) : State :=
  match p with
  | some p => s.completeOp p reqId op status detail
  | none => s

/-! ## Token rings (R365, R366, R371) -/

/-- A token entry, PHASE and CRC apart (R371). -/
def tokenEntry (reqId index token logprob epoch owner : Nat) (final draft late : Bool) : Nat :=
  reqId % 2 ^ 64 + index % 2 ^ 32 * 2 ^ 64 + token % 2 ^ 32 * 2 ^ 96 + logprob % 2 ^ 32 * 2 ^ 128 + epoch % 2 ^ 16 * 2 ^ 160 + owner % 2 ^ 12 * 2 ^ 176 +
    (2 * b2n final + 4 * b2n draft + 8 * b2n late) * 2 ^ 192

/-- A token entry written on a bound or draining ring; none while it is HALTED (R365). -/
def State.putToken (s : State) (r raw : Nat) : State :=
  let g := s.ring r
  if g.kind ≠ .token || g.rstate = .halted || g.rstate = .free || g.full then s
  else
    let s := s.postEntry r raw
    { s with ringRegs := { s.ringRegs with tokens := satAdd 32 s.ringRegs.tokens 1 } }

/-- A free token ring of an LD that may carry a tenant, the lowest number (R366; log 35). -/
def State.freeTokenRing (s : State) (ld tn : Nat) : Option Nat :=
  (Tbl.keys s.rings).find? (fun r =>
    let g := s.ring r
    g.kind = .token && g.rstate = .active && !g.disabled && g.ld = ld && (g.tenant = tn || g.tenant = 0xFFFF))

/-- TOKEN_RING_BIND (R366). -/
def State.bindRing (s : State) (r req : Nat) : State := s.updRing r (fun g => { g with rstate := .bound, bind := req })

/-- A request leaves its ring (R366); a HALTED ring drains once it is resumed. -/
def State.unbindRing (s : State) (r : Nat) : State :=
  s.updRing r (fun g =>
    if g.rstate = .halted then { g with was := if g.was = .bound then .draining else g.was }
    else if g.rstate = .bound then Ring.drained { g with rstate := .draining } else g)

/-! ## Events owed (R365) -/

/-- One EVENT_LOST entry reports what was dropped, when room has returned (R365). -/
def State.reportLost (s : State) (r : Nat) : State :=
  let g := s.ring r
  if g.kind = .event && decide (0 < g.lost) && g.rstate = .active && !g.full && !g.disabled then
    (s.updRing r (fun g => { g with lost := 0 })).postEntry r (eventRaw 0x0D 0xFFFF g.lost 0 0 0)
  else s

/-! ## Doorbells (R362) -/

/-- Room has come about on a ring: entries due, events lost, a token ring drained. -/
def State.ringMoved (s : State) (r : Nat) : State := ((s.updRing r Ring.drained).flushDue r).reportLost r

/-- DOORBELL (R362). -/
def execDoorbell (ld : Fin 16) (v : BitVec 64) (s : State) : Host.Outcome State Fault Refusal :=
  let r := bits v.toNat 0 18
  let x := bits v.toNat 32 32
  let g := s.ring r
  if !s.live || !s.presents ld.val then .next s
  else if g.rstate = .free || g.ld ≠ ld.val then
    .next { s with ringRegs := { s.ringRegs with badDoorbell := satAdd 8 s.ringRegs.badDoorbell 1 } }
  else if g.kind = .submission then
    if 2 ^ g.log2 < (x + 2 ^ 32 - g.head) % 2 ^ 32 then .next (s.haltRing r 3) else .next (s.updRing r (fun g => { g with tail := x }))
  else if g.used < (x + 2 ^ 32 - g.head) % 2 ^ 32 then .next (s.haltRing r 3)
  else .next ((s.updRing r (fun g => { g with head := x })).ringMoved r)

/-! ## Ring commands (R397) -/

def State.ringCmd (s : State) (ok : Bool) : State :=
  { s with ringRegs := if ok then { s.ringRegs with cmdDone := true } else { s.ringRegs with cmdReject := true } }

/-- RING_LOAD: the descriptor is read again; one whose CRC fails halts the ring (R359, R397), one with a reserved value is
refused and has no other effect (R15). -/
def execRingLoad (ring : BitVec 18) (s : State) : Host.Outcome State Fault Refusal :=
  let r := ring.toNat
  let d := s.rd (ringSlot r) 64
  if !s.live then .next s
  else if !(crcOk d 64) then .next ((s.haltRing r 2).ringCmd false)
  else match kindOf (fld d 0 1) with
    | none => .next (s.ringCmd false)
    | some k =>
      if !(ringDescOk d k) || ((s.ring r).rstate = .free && rstateOf (fld d 1 1) = .free) then .next (s.ringCmd false)
      else .next ((s.updRing r (fun g => g.loaded d k)).ringCmd true)

/-- A HALTED ring goes back to the state it was in; what was due on it follows (R364, R365). -/
def State.resumeRing (s : State) (r : Nat) : State :=
  (s.updRing r (fun g => { g with rstate := g.was })).ringMoved r

/-- RING_CMD_RESUME (R364, R397). -/
def execRingCmdResume (ring : BitVec 18) (s : State) : Host.Outcome State Fault Refusal :=
  if !s.live then .next s
  else if (s.ring ring.toNat).rstate ≠ .halted then .next (s.ringCmd false)
  else .next ((s.resumeRing ring.toNat).ringCmd true)

/-- RING_DISABLE: no more entries are taken, then DONE (R397). -/
def execRingDisable (ring : BitVec 18) (s : State) : Host.Outcome State Fault Refusal :=
  if !s.live then .next s
  else if (s.ring ring.toNat).rstate = .free then .next (s.ringCmd false)
  else .next ((s.updRing ring.toNat (fun g => { g with disabled := true })).ringCmd true)

/-- RING_CNT_CLR: RING_CNT and RING_CNT2 (R397). -/
def execRingCntClr (s : State) : Host.Outcome State Fault Refusal :=
  if !s.live then .next s
  else .next { s with ringRegs := { s.ringRegs with subTaken := 0, cplPosted := 0, tokens := 0, eventsLost := 0, badDoorbell := 0, cplStalls := 0 } }

/-- RING_COALESCE_TIMER: entries not announced yet are, COALESCE_US after the last interrupt (R440). -/
def execRingCoalesceTimer (ring : BitVec 18) (s : State) : Host.Outcome State Fault Refusal :=
  let r := ring.toNat
  let g := s.ring r
  let due := match g.lastIrq with
    | none => true
    | some t => decide (t + 100 * g.coalesceUs ≤ s.ltu)
  if !s.live || !g.unannounced || !g.irq || !due then .next s
  else .next ((s.updRing r (fun g => { g with unannounced := false, lastIrq := some s.ltu })).msix g.ld g.vector)

end Sys2Proof.Machine
end

