-- ==== Sys2Proof/Machine/GraftSend.lean ====
section
/-!
DEFINITION. Sys2Proof/Machine/GraftSend.lean: the sending side of the graft engine: request entries and records as bytes, journals in
memory, control records, data and frames (R20, R31, R229, R307, R324 to R328, R330, R376, R412).
-/
namespace Sys2Proof.Machine

/-! ## Request table entries (R376) -/

def ReqSt.code : ReqSt → Nat
  | .free => 0
  | .admitted => 1
  | .prefill => 2
  | .handover => 3
  | .decode => 4
  | .parking => 5
  | .parked => 6
  | .expired => 7
  | .resuming => 8
  | .reprefill => 9

/-- Address of a token journal plot (R228, R229). -/
def journalAddr (plot : Nat) : Nat := 0x10400000000 + plot * 65536

/-- The 256-byte entry of R376, its CRC included. -/
def Req.enc (r : Req) : Nat :=
  withCrc (ofBytes (packFields
    [(8, r.reqId), (2, r.tenant), (2, r.slot), (2, r.draftSlot), (1, r.st.code),
     (1, b2n r.lateOk + 2 * b2n r.speculate + 4 * b2n r.stochastic + 8 * b2n r.draftReady + 16 * b2n r.cancelHeld),
     (2, r.epoch), (2, r.cfg), (1, r.treeMax), (1, r.prio), (1, r.biasRow), (1, r.ld), (4, r.promptLen), (4, r.maxNew),
     (4, r.nextIndex), (4, r.prefilled), (8, r.deadline), (8, match r.jplots with
       | p :: _ => journalAddr p
       | [] => 0), (4, r.tokenRing), (4, r.cplRing),
     (2, nth r.dest 0 0), (2, nth r.dest 1 0), (2, nth r.dest 2 0), (2, nth r.dest 3 0), (4, r.temp), (4, r.topP), (4, r.minP),
     (2, r.topK), (2, r.peer), (8, r.subId), (4, r.ttlMs), (2, r.gtag), (2, 0), (8, r.lastStep)])) 256

/-- The fields of an entry that a graft open carries for the new owner (R25, R328, R376). -/
def Req.ofEntry (e : Nat) : Req :=
  let f := fld e 0x0F 1
  { reqId := fld e 0 8, tenant := fld e 8 2, slot := fld e 0x0A 2, draftSlot := fld e 0x0C 2, lateOk := bit f 0, speculate := bit f 1,
    stochastic := bit f 2, treeMax := fld e 0x14 1, prio := bits e (8 * 0x15) 2, biasRow := fld e 0x16 1, promptLen := fld e 0x18 4,
    maxNew := fld e 0x1C 4, nextIndex := fld e 0x20 4, dest := [fld e 0x40 2, fld e 0x42 2, fld e 0x44 2, fld e 0x46 2],
    temp := fld e 0x48 4, topP := fld e 0x4C 4, minP := fld e 0x50 4, topK := fld e 0x54 2 }

/-- Where a request's table entry lies (R228, R376). -/
def reqAddr (i : Nat) : Nat := 0x10010000000 + 256 * i

/-- A request's table entry, sequence descriptor and valid-length array written in the system region (R136, R228, R376). -/
def State.writeReq (s : State) (i : Nat) : State := (s.wr (reqAddr i) 256 (s.req i).enc).writeSeq i

/-! ## Journals (R20, R229) -/

/-- Journal plots a request needs (R229). -/
def journalPlots (positions : Nat) : Nat := cdiv positions 16384

/-- Journal plots taken from the pool. -/
def State.takeJournal (s : State) : Nat → Option (State × List Nat)
  | 0 => some (s, [])
  | n + 1 => match pickFree s.pools.journal 262144 s.fresh with
    | none => none
    | some k =>
      match State.takeJournal { s.draw with pools := { s.pools with journal := k :: s.pools.journal } } n with
      | none => none
      | some r => some (r.1, k :: r.2)

def State.giveJournal (s : State) (ks : List Nat) : State :=
  { s with pools := { s.pools with journal := s.pools.journal.filter (fun k => !(ks.contains k)) } }

/-- Address of journal entry k. -/
def Req.tokAddr (r : Req) (k : Nat) : Nat := journalAddr (nth r.jplots (k / 16384) 0) + 4 * (k % 16384)

/-- Tokens appended to a request's journal (R20). -/
def State.journalAdd (s : State) (i : Nat) (ts : List Nat) : State :=
  let r := s.req i
  let n := r.journal.length
  ((List.zip (List.range ts.length) ts).foldl (fun s e => s.wr (r.tokAddr (n + e.1)) 4 e.2) s).updReq i (fun r => { r with journal := r.journal ++ ts })

/-- The first n entries of a journal as they stand in memory. -/
def State.journalRead (s : State) (r : Req) (n : Nat) : List Nat := (List.range n).map (fun k => s.rd (r.tokAddr k) 4)

/-- Journal bytes from position `a` to `b` as graft work, by journal plot, from the start of a 4 KiB page (R324). -/
def Req.journalWork (r : Req) (a b : Nat) : List GWork :=
  let lo := 4 * a / 4096 * 4096
  let hi := roundUp (4 * b) 32
  (List.range (cdiv hi 65536)).filterMap (fun k =>
    let x := Nat.max lo (65536 * k)
    let y := Nat.min hi (65536 * (k + 1))
    if x < y then some (.journal (x / 4096) (journalAddr (nth r.jplots k 0) + (x - 65536 * k)) (y - x)) else none)

/-! ## Control records (R327, R328) -/

/-- GKIND. -/
def gkOpen : Nat := 1
def gkOpenAck : Nat := 2
def gkCommit : Nat := 3
def gkCommitAck : Nat := 4
def gkAbort : Nat := 5
def gkPull : Nat := 6
def gkPullDone : Nat := 7
def gkPullDoneAck : Nat := 8
def gkRelease : Nat := 9
def gkExpired : Nat := 10

/-- A record's own fields, in the order R328 names them (log 20). -/
def recFields (kind : Nat) (g : GRec) : List Byte :=
  match kind with
  | 1 => toBytes 256 g.entry.toNat ++ packFields [(4, g.pruneFloor), (8, g.remain.toNat), (4, g.journalLen), (1, g.layers), (1, g.kvHeads),
      (1, g.headDim), (1, g.kvFmt), (1, g.pageBits), (4, g.plots), (4, g.ttlMs), (2, g.holder)]
  | 2 => packFields [(1, g.landCredits)]
  | 3 => packFields [(4, g.token), (4, g.tokenIdx), (4, g.journalLen), (8, g.remain.toNat), (1, b2n g.reprefill), (1, g.vlen.length)] ++
      packFields (g.vlen.map (fun v => (4, v)))
  | 6 => packFields [(1, g.landCredits)]
  | _ => []

/-- A record's bytes: header, fields, padding to 32 bytes, CRC (R310, R327). -/
def recBytes (kind : Nat) (g : GRec) : List Byte :=
  let fs := recFields kind g
  let n := roundUp (0x18 + fs.length + 4) 32
  let h := packFields [(1, kind), (1, g.gmode), (2, g.status), (2, g.gtag), (2, g.epoch), (8, g.reqId.toNat), (2, g.tenant.toNat), (2, n), (4, g.dreq)]
  let body := h ++ fs ++ List.replicate (n - 4 - 0x18 - fs.length) 0#8
  body ++ toBytes 4 (crc32c body)

/-- A control record waits for the pair's control connection (R307, R327). -/
def State.sendCtl (s : State) (peer mapEpoch kind : Nat) (g : GRec) : State :=
  { s with fab := { s.fab with ctlOut := s.fab.ctlOut ++ [(peer, mapEpoch, g, kind)] } }

/-! ## Connections and send queues (R307, R309) -/

/-- The lowest connection that answers a description. -/
def State.connLike (s : State) (f : Conn → Bool) : Option Nat := (Tbl.keys s.fab.conns).find? (fun c => f (s.conn c))

/-- The pair's control connection, READY (R307). -/
def State.ctlConn (s : State) (peer : Nat) : Option Nat := s.connLike (fun c => c.state = .ready && c.control && c.dest = peer)

/-- A data connection to a peer for a tenant: on Q2 for push, handover and park, on Q3 for a pull (R314). -/
def State.dataConn (s : State) (peer tn : Nat) (pull : Bool) : Option Nat :=
  s.connLike (fun c => c.state = .ready && !c.control && c.dest = peer && c.tenant = tn && c.queue = (if pull then 3 else 2))

/-- A send queue of the graft engine on a link die with room for an entry (R309). -/
def State.graftQueue (s : State) (d : Nat) : Option Nat :=
  (firstBelow 16 (fun q => let x := s.sq (256 * d + q); x.enable && decide ((x.tail + 65536 - x.head) % 65536 < 2 ^ x.log2))).map (256 * d + ·)

/-- A work entry posted on a send queue of the graft engine (R310); none while there is no room. -/
def State.postWork (s : State) (c raw : Nat) : Option State :=
  match s.graftQueue (s.conn c).home with
  | none => none
  | some i =>
    let q := s.sq i
    some (((s.wr (q.base + 64 * (q.tail % 2 ^ q.log2)) 64 (withCrc raw 64)).updSq i (fun x => { x with tail := (x.tail + 1) % 65536 })).sqSweep (i / 256))

/-- A work entry's 64 bytes, its CRC apart (R310). -/
def workRaw (wop tn conn loc len page imm dreq gtag : Nat) (journal : Bool) : Nat :=
  wop % 256 + tn % 65536 * 2 ^ 16 + conn % 2 ^ 20 * 2 ^ 32 + loc % 2 ^ 48 * 2 ^ 128 + len % 2 ^ 32 * 2 ^ 192 + page % 2 ^ 32 * 2 ^ 288 +
    imm % 2 ^ 32 * 2 ^ 320 + dreq % 2 ^ 17 * 2 ^ 352 + gtag % 65536 * 2 ^ 384 + b2n journal * 2 ^ 400

/-- Firmware's buffers for records and frames, in its own part of the system region (R228; log 36). -/
def recBuf (k : Nat) : Nat := 0x10008000000 + 4096 * (k % 4096)
def frameBuf (k : Nat) : Nat := 0x1000C000000 + 65536 * (k % 1024)

/-- Deadline remainder (R31, R385). -/
def State.remainder (s : State) (deadline : Nat) : Nat := if deadline = 0 then 2 ^ 64 - 1 else deadline - s.ltu

/-- A deadline from its remainder and the time of its receipt (R31, R385). -/
def deadlineAt (t remain : Nat) : Nat := if remain = 2 ^ 64 - 1 then 0 else Nat.max 1 (t + remain)

/-- OPEN and COMMIT carry the remainder as it stands when they are sent (R31). -/
def State.sentNow (s : State) (kind : Nat) (g : GRec) : GRec :=
  if kind ≠ gkOpen && kind ≠ gkCommit then g
  else match s.fab.grafts.find? (fun x => x.send && x.live && x.reqId = g.reqId.toNat && x.epoch = g.epoch) with
    | some x => { g with remain := BitVec.ofNat 64 (s.remainder (s.req x.req).deadline) }
    | none => g

/-- The oldest record to each peer is posted while its connection and a queue allow. -/
def State.pumpCtl (s : State) : State :=
  s.fab.ctlOut.foldl (fun s e =>
    match s.fab.ctlOut.find? (fun x => x.1 = e.1), s.ctlConn e.1 with
    | some x, some c =>
      if x ≠ e then s
      else
        let bs := recBytes e.2.2.2 (s.sentNow e.2.2.2 e.2.2.1)
        let a := recBuf s.fab.nextRec
        match (s.wrBytes a bs).postWork c (workRaw 7 0xFFFF c a bs.length 0 e.2.1 0 0 false) with
        | none => s
        | some s => { s with fab := { s.fab with ctlOut := s.fab.ctlOut.erase e, nextRec := s.fab.nextRec + 1 } }
    | _, _ => s) s

/-- GTAG of a graft this device receives (R327). -/
def State.newGtag (s : State) : State × Nat :=
  let t := if s.fab.nextGtag % 65536 = 0 then 1 else s.fab.nextGtag % 65536
  ({ s with fab := { s.fab with nextGtag := t + 1 } }, t)

/-! ## Grafts -/

def State.graft (s : State) (k : Nat) : Graft := nth s.fab.grafts k { send := false, mode := .push }
def State.updGraft (s : State) (k : Nat) (f : Graft → Graft) : State :=
  { s with fab := { s.fab with grafts := setNth s.fab.grafts k (f (s.graft k)) } }

/-- The graft that answers a description, by its place in the list. -/
def State.findGraft (s : State) (f : Graft → Bool) : Option Nat := s.fab.grafts.findIdx? f

/-- The graft by which this device sends request i. -/
def State.sending (s : State) (i : Nat) : Option Nat := s.findGraft (fun g => g.send && g.live && g.mode ≠ .pull && g.req = i)

/-- A record about a graft of request i. -/
def Graft.recFor (g : Graft) : GRec :=
  { gtag := g.gtag, epoch := g.epoch, reqId := BitVec.ofNat 64 g.reqId, tenant := BitVec.ofNat 16 g.tenant, dreq := g.dreq }

/-- The OPEN of a request (R25, R31, R328, R332). -/
def State.openRec (s : State) (i : Nat) (g : Graft) (holder : Nat) : GRec :=
  let r := s.req i
  let plots := match g.mode with
    | .push => (r.seq.pagesFor 0 (if r.recomputeTo = 0 then r.promptLen else r.recomputeTo)).length
    | .park => r.pages.length
    | _ => 0
  { g.recFor with gmode := (match g.mode with
                    | .push => 1
                    | .handover => 2
                    | _ => 3), gtag := 0, dreq := 0,
                  entry := BitVec.ofNat 2048 r.enc, pruneFloor := r.seq.pruneFloor, remain := BitVec.ofNat 64 (s.remainder r.deadline),
                  journalLen := r.journal.length, layers := r.seq.layers, kvHeads := r.seq.kvHeads, headDim := r.seq.headDim,
                  kvFmt := r.seq.kvFmt, pageBits := r.seq.pageBits, plots := plots, ttlMs := r.ttlMs, holder := holder }

/-- A graft opened for a request: OPEN is sent (R25, R328, R412). -/
def State.openGraft (s : State) (i : Nat) (mode : GMode) (peer holder : Nat) : State :=
  let r := s.req i
  let g : Graft := { send := true, mode := mode, req := i, reqId := r.reqId, tenant := r.tenant, peer := peer, epoch := r.epoch,
                     mapEpoch := s.cmap.cur, started := s.ltu, compress := mode = .park && (s.tenant r.tenant).t3Compress }
  let s := { s with fab := { s.fab with grafts := s.fab.grafts ++ [g] } }
  (s.sendCtl peer s.cmap.cur gkOpen (s.openRec i g holder)).pumpCtl

/-! ## The end of a graft -/

/-- The old epoch is dropped once no graft opened under it is left (R414). -/
def State.mapRetire (s : State) : State :=
  match s.cmap.old with
  | none => s
  | some e =>
    if s.fab.grafts.any (fun g => g.live && g.mapEpoch = e) then s
    else ({ s with cmap := { s.cmap with old := none, oldPeers := [] } }).devEvent 0x82 e 0 0

/-- Landing slots granted, up to `n` of those free (R326). -/
def State.takeSlots (s : State) (n : Nat) : State × List Nat :=
  let used := s.fab.grafts.flatMap (·.slots)
  let ks := ((List.range 256).filter (fun k => !(used.contains k))).take (Nat.min n s.fab.landFree)
  ({ s with fab := { s.fab with landFree := s.fab.landFree - ks.length } }, ks)

/-- Landing slots returned (R326). -/
def State.giveSlots (s : State) (k : Nat) : State :=
  let n := (s.graft k).slots.length
  let s := s.updGraft k (fun g => { g with slots := [], waiting := [] })
  { s with fab := { s.fab with landFree := s.fab.landFree + n } }

/-- A graft is over: its work not yet posted is dropped, its slots are returned and the counts advance (R335). -/
def State.closeGraft (s : State) (k : Nat) (committed : Bool) : State :=
  if !(s.graft k).live then s
  else
    let s := (s.giveSlots k).updGraft k (fun g => { g with phase := .done, todo := [], commit := none })
    let s := if committed then { s with fab := { s.fab with gCommitted := satAdd 32 s.fab.gCommitted 1 } }
      else { s with fab := { s.fab with gAborted := satAdd 16 s.fab.gAborted 1 } }
    s.mapRetire

/-- A graft dropped by this end: ABORT is sent, without waiting for a reply (R328, R333). -/
def State.abortGraft (s : State) (k : Nat) : State :=
  let g := s.graft k
  if !g.live then s else ((s.sendCtl g.peer g.mapEpoch gkAbort g.recFor).closeGraft k false).pumpCtl

/-! ## Posting a graft's work (R324 to R326, R330) -/

/-- A graft's data connection, taken when it first needs one (R314). -/
def State.graftConn (s : State) (k : Nat) : Option Nat :=
  let g := s.graft k
  match g.conn with
  | some c => if (s.conn c).state = .ready then some c else none
  | none => s.dataConn g.peer g.tenant (g.mode = .pull)

/-- A buffer that holds bytes the RAE is to send. -/
def State.buffer (s : State) (bs : List Byte) : State × Nat :=
  let a := frameBuf s.fab.nextFrame
  ({ s.wrBytes a bs with fab := { s.fab with nextFrame := s.fab.nextFrame + 1 } }, a)

/-- The compute die whose compressor a plot passes: its T1 channel's, else CD0 (R326). -/
def Place.die (p : Place) : Nat :=
  match p with
  | .t1 ch _ => dieOfChan ch
  | _ => 0

/-- The compressor that takes a plot of die `d`: another compute die's while a CD_CLOCK fence holds there (R73); none
when its share is below three units (R244). -/
def State.compFor (s : State) (d : Nat) : Option Nat :=
  let e := if (s.die d).clockLost then [0, 1, 2, 3].find? (fun k => !(s.die k).clockLost) else some d
  e.bind (fun k => if 3 ≤ (s.compOf k).share then some k else none)

/-- A plot through a compressor: its frame when that is shorter; unchanged when it is not, or when no compressor takes it. -/
def State.packPlot (s : State) (d : Nat) (bs : List Byte) : State × List Byte :=
  match s.compFor d with
  | none => (s, bs)
  | some k => ((s.firstPass k 0 bs).countComp k ((compressPlot bs).getD bs).length, (compressPlot bs).getD bs)

/-- Stored bytes of a place as they stand. -/
def State.rawData (s : State) (p : Place) (n : Nat) : List Byte := (s.placeData p).take n

/-- A T3 handle holds a compressed frame (R201). -/
def State.isFrame (s : State) (p : Place) : Bool :=
  match p with
  | .t3 h => (match Tbl.find? s.ftl.map h with
    | some x => x.frame
    | none => false)
  | _ => false

/-- A plot as a frame (R43, R237, R326): a frame stored as it arrived; a stored frame as that frame; else compressed when
asked and shorter, or unchanged; padded to 32 bytes (R310). -/
def State.frameOf (s : State) (compress : Bool) (p : Place) (len : Nat) : State × List Byte :=
  let pad := fun (fr : List Byte) => fr ++ List.replicate (roundUp fr.length 32 - fr.length) 0#8
  if len ≠ 0 then (s, pad (s.rawData p len))
  else
    let bs := s.placeData p
    if s.isFrame p then (s, pad ((compressPlot bs).getD bs))
    else if compress then ((s.packPlot p.die bs).1, pad (s.packPlot p.die bs).2)
    else (s, bs)

/-- No channel that a place lies in is outside MEMORY, so a copy can read it (R165, R169; log 51). -/
def State.placeOpen (s : State) (p : Place) : Bool :=
  match p.addr with
  | some a => s.memOpen a 65536
  | none => true

/-- The oldest work of a graft posted; none when there is none, or it must wait. -/
def State.postOne (s : State) (k : Nat) : Option State :=
  let g := s.graft k
  if !g.send || g.phase ≠ .moving then none
  else match s.graftConn k, g.todo with
    | some c, w :: ws =>
      let took := fun (s : State) (frame : Bool) => s.updGraft k (fun g =>
        { g with conn := some c, todo := ws, flying := g.flying + 1, credits := if frame then g.credits - 1 else g.credits })
      match w with
      | .page page p =>
        let r := match p.addr with
          | some a => (s, a)
          | none => (s.placeRead p (.hard false)).buffer (s.placeData p)
        ((r.1).postWork c (workRaw 5 g.tenant c r.2 65536 (16 * page) 0 g.dreq g.gtag false)).map (fun s => took s false)
      | .journal page a n => (s.postWork c (workRaw 5 g.tenant c a n page 0 g.dreq g.gtag true)).map (fun s => took s false)
      | .frame page p len =>
        if g.credits = 0 || !(s.placeOpen p) then none
        else
          let f := (s.placeRead p (.hard false)).frameOf g.compress p len
          let bs := f.2
          let r := f.1.buffer bs
          ((r.1).postWork c (workRaw 6 g.tenant c r.2 bs.length (16 * page) 0 g.dreq g.gtag false)).map (fun s => took s true)
    | _, _ => none

def State.postAll (s : State) (k : Nat) : Nat → State
  | 0 => s
  | n + 1 => match s.postOne k with
    | none => s
    | some s => s.postAll k n

/-- A park's frames are queued once no command names the request (R204, R326). -/
def State.fillPark (s : State) (k : Nat) : State :=
  let g := s.graft k
  if g.send && g.mode = .park && g.phase = .moving && !g.lastPosted && !(s.reqNamed g.req) then
    s.updGraft k (fun g => { g with lastPosted := true, todo := (s.req g.req).pages.map (fun e => .frame e.1 e.2 0) })
  else s

/-- The COMMIT of a graft (R31, R328, R330). -/
def State.commitRec (s : State) (g : Graft) : GRec :=
  let r := s.req g.req
  { g.recFor with token := r.journal.getLastD 0, tokenIdx := r.nextIndex - 1, journalLen := r.journal.length,
                  remain := BitVec.ofNat 64 (s.remainder r.deadline), vlen := if g.mode = .handover then r.seq.vlen else [],
                  reprefill := g.mode = .handover && r.seq.reprefillPending }

/-- When everything of a graft has been acknowledged, COMMIT follows, or PULL_DONE from a holder (R328, R330, R332). -/
def State.graftAdvance (s : State) (k : Nat) : State :=
  let g := s.graft k
  if g.send && g.phase = .moving && g.lastPosted && g.todo.isEmpty && g.flying = 0 then
    if g.mode = .pull then (s.sendCtl g.peer g.mapEpoch gkPullDone { g.recFor with status := Stat.ok }).updGraft k (fun g => { g with phase := .committing })
    else (s.sendCtl g.peer g.mapEpoch gkCommit (s.commitRec g)).updGraft k (fun g => { g with phase := .committing })
  else s

/-- The graft engine goes on: records, then each graft's work, then the records that this makes due. -/
def State.graftPump (s : State) : State :=
  let s := (List.range s.fab.grafts.length).foldl (fun (s : State) k =>
    let s := s.fillPark k
    (s.postAll k (s.graft k).todo.length).graftAdvance k) s.pumpCtl
  s.pumpCtl

end Sys2Proof.Machine
end

