-- ==== Sys2Proof/Machine/ReqOps.lean ====
section
/-!
DEFINITION. Sys2Proof/Machine/ReqOps.lean: what the operations and steps do to one request: finding and making entries, ending, the
choice of destinations and prompt peers, the start of a re-prefill (R16 to R22, R25, R32, R44 to R48, R366, R415, R436,
R437).
-/
namespace Sys2Proof.Machine

/-! ## Personalities and peers (R1, R2, R415) -/

/-- The prompt and the generation personality, MIXED included (R2). -/
def hasPrompt (p : Nat) : Bool := p = 1 || p = 4
def hasGeneration (p : Nat) : Bool := p = 2 || p = 4

/-- A peer is in the current map; under epoch 0 every peer counts as present (R408, R415). -/
def State.present (s : State) (f : Nat) : Bool := s.cmap.cur = 0 || s.cmap.peers.any (fun p => p.fabricId = f)

/-! ## Entries -/

/-- A request that is live: in its table, not ended (R22). -/
def Req.isLive (r : Req) : Bool := r.st ≠ .free && !r.ending

/-- Indices of live requests. -/
def State.liveReqs (s : State) : List Nat := (Tbl.keys s.reqs).filter (fun i => (s.req i).isLive)

/-- The live request of a tenant with a request ID (R367). -/
def State.reqBy (s : State) (reqId tn : Nat) : Option Nat :=
  s.liveReqs.find? (fun i => (s.req i).reqId = reqId && (s.req i).tenant = tn)

/-- A request ID is live here, as owner or holder (R16, R24, R328). -/
def State.idLive (s : State) (reqId : Nat) : Bool :=
  s.liveReqs.any (fun i => (s.req i).reqId = reqId) ||
    s.holders.any (fun h => h.reqId = reqId) || s.fab.grafts.any (fun g => !g.send && g.live && g.mode ≠ .pull && g.reqId = reqId)

/-- A free request table entry, the lowest index (R24; log 35). -/
def State.freeEntry (s : State) : Option Nat :=
  let used := s.reqs.map (·.1) ++ s.holders.map (·.idx)
  firstBelow (Nat.min 131072 (used.length + 1)) (fun i => !(used.contains i))

/-- DATA bytes of a slot's geometry (R135): RANGE_LOG2 of a sequence range that holds it. -/
def rangeLog2 (layers kvHeads pageBits : Nat) : Nat :=
  Nat.max 32 (Nat.log2 (Nat.max 1 (layers * kvHeads * 2 ^ pageBits * 65536 * 2 - 1)))

/-- A sequence range of the tenant's address space that no live request uses, from 2^55 up (R133; log 18). -/
def State.seqBase (s : State) (asid lg : Nat) : Option Nat :=
  let used := (s.reqs.filter (fun e => e.2.seq.asid = asid)).map (fun e => (e.2.seq.base, e.2.seq.rangeLog2))
  (firstBelow (2 ^ (55 - lg)) (fun k =>
    let a := 2 ^ 55 + k * 2 ^ lg
    !(used.any (fun u => decide (a < u.1 + 2 ^ u.2) && decide (u.1 < a + 2 ^ lg))))).map (fun k => 2 ^ 55 + k * 2 ^ lg)

/-- A new sequence descriptor (R133, R136, R560). -/
def State.newSeq (s : State) (tn : Nat) (m : Slot) (positions floor : Nat) : Option Seq :=
  let asid := (s.tenant tn).asid
  let lg := rangeLog2 m.layers m.kvHeads m.pageBits
  (s.seqBase asid lg).map (fun b =>
    { base := b, asid := asid, rangeLog2 := lg, pageBits := m.pageBits, layers := m.layers, kvHeads := m.kvHeads, headDim := m.headDim,
      kvFmt := m.kvFmt, chset := s.channelSet positions, pruneFloor := floor, lastActive := s.ltu, sinkN := m.sinkN,
      vlen := List.replicate m.layers 0 })

/-- T_P of a slot's geometry (R134). -/
def Slot.tp (m : Slot) : Nat := Seq.tp { headDim := m.headDim, kvFmt := m.kvFmt }

/-- The sequence limit of a slot (R559). -/
def Slot.limit (m : Slot) : Nat :=
  Nat.min (Nat.min 16777216 (2 ^ m.pageBits * m.tp)) (if m.sinkN ≠ 0 then 15728640 else 16777216)

/-- Pages that positions need under a slot's geometry. -/
def Slot.pages (m : Slot) (positions : Nat) : Nat := m.layers * m.kvHeads * cdiv positions (Nat.max 1 m.tp)

/-- BIAS_ROWS of the slot's current table (R24, R255). -/
def State.biasRows (s : State) (m : Slot) : Nat := if m.embDesc = 0 then 0 else tdBiasRows (s.rd m.embDesc 64)

/-- Quotas of a tenant over the tiers from T1 to LOWEST_TIER (R24, R156). -/
def State.quotaSum (s : State) (tn : Nat) : Nat := ((s.permitted tn).map (fun k => s.quotaOf tn k)).sum

/-- The version current on the device (R21). -/
def State.curVersion (s : State) : Nat :=
  match s.cfg.current with
  | some c => c.version
  | none => 0

/-! ## The device's part of an end (R437) -/

/-- COMMIT_DONE: no live request is bound to the previous version (R437). -/
def State.commitDone (s : State) : State :=
  match s.cfg.prev with
  | none => s
  | some p =>
    if s.liveReqs.any (fun i => (s.req i).cfg = p.version) then s
    else ({ s with cfg := { s.cfg with prev := none } }).devEvent 0x0C (match s.cfg.current with
      | some c => c.version
      | none => 0) 0 0

/-- A request's next phase transition, or its entry to PARKED, binds it to the current version (R5, R436). -/
def State.rebind (s : State) (i : Nat) : State :=
  if (s.req i).cfg = s.curVersion then s else (s.updReq i (fun r => { r with cfg := s.curVersion })).commitDone

/-- A request's entry, journal and plots are freed and its ring unbound (R19, R45, R366). -/
def State.releaseReq (s : State) (i : Nat) : State :=
  let r := s.req i
  (((((s.dropMoves i).dropCopies i).freePages i leafEmpty).giveJournal r.jplots).unbindRing r.tokenRing)

/-- A request's commands, when it goes: a group of which it is the only live request is killed and not re-run; in any
other its part counts no more (R387, R390). -/
def State.killWorks (s : State) (i : Nat) : State :=
  (Tbl.keys s.groups).foldl (fun s g =>
    let x := s.group g
    if !x.open_ || !(x.works.any (fun w => w.req = i && !w.dead)) then s
    else
      let dead := fun (s : State) => s.updGroup g (fun x => { x with works := x.works.map (fun w => if w.req = i then { w with dead := true } else w) })
      if x.works.any (fun w => w.req ≠ i && !w.dead) || x.members.any (fun m => (s.tag m).st = .committing) then dead s
      else
        let s := if x.members.any (fun m => (s.tag m).live) then s.stopGroup g none Stat.killed else s
        dead (s.closeGroup g Stat.killed)) s

/-! ## Ending (R45) -/

/-- DETAIL of an END entry: the last token index this device committed (R369). -/
def Req.lastIdx (r : Req) : Nat := if r.firstIdx < r.nextIndex then r.nextIndex - 1 else 0xFFFFFFFF

/-- The grafts of a request are dropped, and a holder of its plots is told (R41, R333). -/
def State.dropGrafts (s : State) (i : Nat) : State :=
  let r := s.req i
  let s := (List.range s.fab.grafts.length).foldl (fun (s : State) k =>
    let g := s.graft k
    if g.live && g.req = i && g.reqId = r.reqId && (g.send && g.mode ≠ .pull || !g.send) then s.abortGraft k else s) s
  if r.pages.any (fun e => e.2 = .holder) || (r.parkTarget = 4 && (r.st = .parked || r.st = .resuming)) then
    (s.sendCtl r.peer s.cmap.cur gkRelease { epoch := r.epoch, reqId := BitVec.ofNat 64 r.reqId, tenant := BitVec.ofNat 16 r.tenant }).pumpCtl
  else s

/-- REQUEST_END (R45): commands killed, plots, journal and entry freed, every pending operation completed with the
final status, and the END entry posted. -/
def State.endRequest (s : State) (i status : Nat) : State :=
  let r := s.req i
  if !r.isLive then s
  else
    let s := ((s.killWorks i).dropGrafts i).releaseReq i
    let s := s.completeIf r.opAdmit r.reqId 1 status 0
    let s := s.completeIf r.opPark r.reqId 2 status 0
    let s := s.completeIf r.opResume r.reqId 3 status 0
    let s := s.completeIf r.opRedirect r.reqId 5 status 0
    let s := s.completeIf r.opCancel r.reqId 4 Stat.ok 0
    let s := s.updReq i (fun r =>
      { r with st := .free, ending := true, opAdmit := none, opPark := none, opResume := none, opRedirect := none, opCancel := none,
               pages := [], pruned := [], jplots := [], pull := [], parkCopies := [], seq := {} })
    let s := s.writeReq i
    let s := if status = Stat.deadlineMissed then { s with reqRegs := { s.reqRegs with missed := satAdd 32 s.reqRegs.missed 1 } } else s
    let s := s.postCompletion r.cplRing (cplEntry 0 r.reqId status 0 r.lastIdx r.nextIndex)
    s.commitDone

/-- A request leaves without an END entry: its ownership has gone, or its ADMIT failed (R19, R25, R366). -/
def State.forget (s : State) (i : Nat) : State := (({ s.releaseReq i with reqs := Tbl.del (s.releaseReq i).reqs i }).writeReq i).commitDone

/-! ## CANCEL held (R209, R374) -/

/-- A request whose plot is in MOVE ends only once the MOVE has completed (R209). -/
def State.moving (s : State) (i : Nat) : Bool := s.pools.moves.any (fun m => m.req = i)

/-- CANCEL on a live request: its completion is posted with OK, and the END entry follows (R370, R374). -/
def State.cancelReq (s : State) (i : Nat) (p : PendOp) : State :=
  if (s.req i).opAdmit.isSome || s.moving i then s.updReq i (fun r => { r with cancelHeld := true, opCancel := some p })
  else
    let r := s.req i
    let s := s.completeIf r.opPark r.reqId 2 Stat.cancelled 0
    let s := (s.updReq i (fun r => { r with opPark := none })).completeOp p r.reqId 4 Stat.ok 0
    s.endRequest i Stat.cancelled

/-- A held CANCEL is applied once nothing holds it. -/
def State.heldCancel (s : State) (i : Nat) : State :=
  match (s.req i).opCancel with
  | some p => if (s.req i).opAdmit.isSome || s.moving i then s
    else (s.updReq i (fun r => { r with cancelHeld := false, opCancel := none })).cancelReq i p
  | none => s

/-! ## Destinations (R25, R32) -/

/-- The next destination not yet tried that the map holds: how many entries are then tried, and the device. -/
def State.nextDest (s : State) (r : Req) : Option (Nat × Nat) :=
  (firstFrom (fun k => nth r.dest k 0 ≠ 0 && s.present (nth r.dest k 0)) (4 - r.destTried) r.destTried).map (fun k => (k + 1, nth r.dest k 0))

/-- No destination is left: ADMIT or REDIRECT completes with GRAFT_REFUSED, else the stall is told once (R25, R32). -/
def State.noDest (s : State) (i status last : Nat) : State :=
  let r := s.req i
  let detail := status % 65536 + last % 4096 * 65536
  match r.opAdmit with
  | some p =>
    let s := (s.updReq i (fun r => { r with opAdmit := none })).completeOp p r.reqId 1 Stat.graftRefused detail
    let s := s.completeIf r.opCancel r.reqId 4 Stat.wrongState 0
    s.forget i
  | none =>
    let s := match r.opRedirect with
      | some p => (s.updReq i (fun r => { r with opRedirect := none })).completeOp p r.reqId 5 Stat.graftRefused detail
      | none => s
    if r.st = .handover && !r.stalled then (s.updReq i (fun r => { r with stalled := true })).tenantEvent r.tenant 0x03 0 r.reqId 0 0 else s

/-- A push is opened to the next destination (R25, R32). -/
def State.tryDest (s : State) (i status last : Nat) : State :=
  match s.nextDest (s.req i) with
  | some (k, d) => (s.updReq i (fun r => { r with destTried := k, peer := d, stalled := false })).openGraft i .push d 0
  | none => s.noDest i status last

/-- A request goes on to DECODE under the current version; where that version does no generation work it leaves its phase
by the route of R29 and R32, a HANDOVER for which no destination is left (R5, R436). -/
def State.enterDecode (s : State) (i : Nat) : State :=
  let s := s.rebind i
  if hasGeneration (s.devOf (s.req i).cfg).personality then s.updReq i (fun r => { r with st := .decode })
  else (s.updReq i (fun r => { r with st := .handover, dest := [0, 0, 0, 0], destTried := 0, stalled := false })).noDest i 0 0

/-! ## Re-prefill and prompt peers (R44, R47) -/

/-- The owner re-prefills the whole journal itself (R44). A request that was handed over for re-prefill is grafted back. -/
def State.startReprefill (s : State) (i : Nat) : State :=
  let r := s.req i
  let j := r.journal.length
  let back := !(s.nextDest r).isNone
  let s := (s.dropPlots i).updReq i (fun r =>
    if j ≤ r.promptLen then { r with st := .prefill, prefilled := 0, lost := false }
    else { r with st := .reprefill, recomputeTo := j - 1, backTo := if back then .handover else .decode, lost := false,
                  seq := { r.seq with reprefillPending := true }, prunedAt := s.ltu })
  if back then s.tryDest i 0 0 else s

/-- The record is handed over for re-prefill to the first prompt peer not yet tried; with none left the request waits
in EXPIRED, and a RESUME being served completes with GRAFT_FAILED (R47). -/
def State.tryPeer (s : State) (i status last : Nat) : State :=
  let r := s.req i
  let peers := (s.devOf r.cfg).promptPeers
  match firstFrom (fun k => nth peers k 0 ≠ 0 && nth peers k 0 ≠ s.fid && s.present (nth peers k 0)) (8 - r.peerTry) r.peerTry with
  | some k =>
    (s.updReq i (fun r => { r with peerTry := k + 1, fallback := true, dest := [s.fid, 0, 0, 0] })).openGraft i .handover (nth peers k 0) 0
  | none =>
    let s := s.updReq i (fun r => { r with st := .expired, fallback := false, peerTry := 0, dest := [0, 0, 0, 0], opResume := none, lost := false })
    s.completeIf r.opResume r.reqId 3 Stat.graftFailed (if last = 0 then 0 else status % 65536 + last % 4096 * 65536)

/-- A request whose plots are gone is re-prefilled here, or handed over for it (R44, R47). -/
def State.recover (s : State) (i : Nat) : State :=
  let s := s.dropPlots i
  if hasPrompt (s.devOf (s.req i).cfg).personality then s.startReprefill i
  else ((s.updReq i (fun r => { r with peerTry := 0 })).tryPeer i 0 0)

/-! ## Rings of a request (R366) -/

/-- REQUEST_ARRIVED (R366, R373). -/
def State.arrivedEvent (s : State) (i previous : Nat) : State :=
  let r := s.req i
  s.eventTo r.ld (eventRaw 0x01 r.tenant r.tokenRing r.reqId previous r.nextIndex)

/-- REQUEST_LEFT (R366, R373). -/
def State.leftEvent (s : State) (i owner epoch : Nat) : State :=
  let r := s.req i
  s.eventTo r.ld (eventRaw 0x02 r.tenant owner r.reqId epoch r.lastIdx)

end Sys2Proof.Machine
end

