-- ==== Sys2Proof/Machine/Requests.lean ====
section
/-!
DEFINITION. Sys2Proof/Machine/Requests.lean: the operations on requests: ADMIT, PARK, RESUME, CANCEL, REDIRECT, and what follows
them on the owner (R16 to R25, R32, R38 to R48, R156, R157, R212, R367, R368, R374).
-/
namespace Sys2Proof.Machine

/-! ## Submission entries (R367, R368) -/

def seOp (e : Nat) : Nat := fld e 0 1
def seTenant (e : Nat) : Nat := fld e 2 2
def seSubId (e : Nat) : Nat := fld e 8 8
def seReqId (e : Nat) : Nat := fld e 0x10 8
def seDests (e : Nat) : List Nat := (List.range 4).map (fun k => bits e (8 * (0x44 + 2 * k)) 12)

/-- Bytes `a` up to but not `b` are 0 (R15). -/
def zeroBytes (e a b : Nat) : Bool := bits e (8 * a) (8 * (b - a)) = 0

/-- Reserved bits of the four destinations. -/
def destsOk (e : Nat) : Bool := (List.range 4).all (fun k => bits e (8 * (0x44 + 2 * k) + 12) 4 = 0)

/-- Byte 1, bytes 4 to 7, and TENANT (R367). -/
def State.headOk (s : State) (ring e : Nat) : Bool :=
  let g := s.ring ring
  zeroBytes e 1 2 && zeroBytes e 4 8 &&
    (if g.tenant = 0xFFFF then (s.tenant (seTenant e)).ld = g.ld else seTenant e = g.tenant)

/-- Bytes of the T2 host window that an LD may name (R408). -/
def State.inWindow (s : State) (ld off n : Nat) : Bool :=
  let l := s.ld ld
  decide (l.winBase * 2 ^ 28 ≤ off) && decide (off + n ≤ (l.winBase + l.winUnits) * 2 ^ 28)

/-- ADMIT's fields that do not depend on the model slot (R24 check 2, R368). -/
def State.admitFieldsOk (s : State) (ring e : Nat) : Bool :=
  let fl := fld e 0x1C 1
  let spec := bit fl 1
  let off := bits e (8 * 0x28) 36
  let n := fld e 0x20 4
  s.headOk ring e && (s.tenant (seTenant e)).valid && decide (fld e 0x18 2 < 16384) && (if spec then decide (fld e 0x1A 2 < 16384) else fld e 0x1A 2 = 0xFFFF) && fl / 8 = 0 &&
    (if spec then decide (1 ≤ fld e 0x1D 1) && decide (fld e 0x1D 1 ≤ 16) else fld e 0x1D 1 = 0) && fld e 0x1E 1 / 4 = 0 && fld e 0x24 4 ≠ 0 &&
    bits e (8 * 0x28 + 36) 28 = 0 && off % 4 = 0 && s.inWindow (s.ring ring).ld off (if n ≤ 16777216 then 4 * n else 0) &&
    decide (fld e 0x40 2 ≤ 1024) && zeroBytes e 0x42 0x44 && destsOk e && decide (fld e 0x4C 4 ≤ 16777216) && zeroBytes e 0x50 0x7C &&
    (s.cfg.dev.personality ≠ 1 || nth (seDests e) 0 0 ≠ 0)

/-- A model slot that counts as loaded for a tenant (R24 check 4). -/
def State.slotLoaded (s : State) (k tn : Nat) : Bool := (s.slot k).st = .loaded && (s.slot k).tenant = tn

/-- The prompt in the host window (R368). -/
def State.promptOf (s : State) (e : Nat) : List Nat :=
  (List.range (fld e 0x20 4)).map (fun k => s.rd (0x10800000000 + bits e (8 * 0x28) 36 + 4 * k) 4)

/-- R24, checks 1 to 5: the status of the first that fails, or OK. -/
def State.admitCheck (s : State) (ring e : Nat) : Nat :=
  let m := s.slot (fld e 0x18 2)
  let n := fld e 0x20 4
  let all := n + fld e 0x24 4
  if s.cfg.dev.personality = 0 then Stat.notConfigured
  else if !(hasPrompt s.cfg.dev.personality) then Stat.wrongPersonality
  else if !(s.admitFieldsOk ring e) then Stat.invalidField
  else if n = 0 || decide (16777216 < all) then Stat.seqTooLong
  else if !(s.slotLoaded (fld e 0x18 2) (seTenant e)) then Stat.modelNotLoaded
  else if bit (fld e 0x1C 1) 1 && !(s.slotLoaded (fld e 0x1A 2) (seTenant e)) then Stat.modelNotLoaded
  else if m.limit < all then Stat.seqTooLong
  else if fld e 0x1F 1 ≠ 0xFF && decide (s.biasRows m ≤ fld e 0x1F 1) then Stat.invalidField
  else if s.idLive (seReqId e) then Stat.duplicateId
  else Stat.ok

/-- R24, check 6: an entry, its journal plots, a token ring and a sequence range taken; none when one is missing. -/
def State.newEntry (s : State) (tn ld positions floor : Nat) (m : Slot) (f : Req → Req) : Option (State × Nat) :=
  match s.freeEntry, s.freeTokenRing ld tn, s.newSeq tn m positions floor with
  | some i, some tr, some q =>
    match s.takeJournal (journalPlots positions) with
    | none => none
    | some (s, js) =>
      let r := f { tenant := tn, ld := ld, cfg := s.curVersion, jplots := js, tokenRing := tr, seq := q }
      some ((({ s with reqs := Tbl.put s.reqs i r }).bindRing tr i).writeReq i, i)
  | _, _, _ => none

/-- The entry ADMIT creates (R24, R366, R370, R376, R385). -/
def State.admitEntry (s : State) (ring e : Nat) : Option (State × Nat) :=
  let fl := fld e 0x1C 1
  let us := fld e 0x30 4
  let prompt := s.promptOf e
  (s.newEntry (seTenant e) (s.ring ring).ld (fld e 0x20 4 + fld e 0x24 4) (fld e 0x4C 4) (s.slot (fld e 0x18 2)) (fun (r : Req) =>
    { r with reqId := seReqId e, slot := fld e 0x18 2, draftSlot := fld e 0x1A 2, st := .admitted, lateOk := bit fl 0, speculate := bit fl 1,
             stochastic := bit fl 2, epoch := 1, treeMax := fld e 0x1D 1, prio := fld e 0x1E 1, biasRow := fld e 0x1F 1,
             promptLen := fld e 0x20 4, maxNew := fld e 0x24 4, deadline := if us = 0 then 0 else s.ltu + 100 * us,
             cplRing := (s.ring ring).bind, dest := seDests e, temp := fld e 0x34 4, topP := fld e 0x38 4, minP := fld e 0x3C 4,
             topK := fld e 0x40 2, subId := seSubId e, opAdmit := some ⟨seSubId e, ring⟩ })).map (fun x => (x.1.journalAdd x.2 prompt, x.2))

/-- R24, check 7: in TVM-5100 compatibility mode the whole prompt is allocated in T1 (R157); else it could ever fit
(R156). -/
def State.kvSpace (s : State) (i positions : Nat) : State × Bool :=
  let r := s.req i
  if s.cfg.dev.compat then
    let x := s.allocPages i [1] false (r.seq.pagesFor 0 positions)
    ((x.1.updReq i (fun r => { r with seq := { r.seq with reservedLen := positions } })).writeSeq i, x.2)
  else (s, decide ((r.seq.pagesFor 0 positions).length ≤ s.quotaSum r.tenant))

/-- A request counts as admitted, or accepted by graft (R396). -/
def State.countAdmitted (s : State) : State := { s with reqRegs := { s.reqRegs with admitted := satAdd 32 s.reqRegs.admitted 1 } }

/-- An operation was taken from a ring (R422). -/
def State.opTaken (s : State) (ring : Nat) : State := s.updRing ring (fun g => { g with taken := g.taken + 1 })

/-- ADMIT completes with OK, and what was held for it follows (R374). -/
def State.admitDone (s : State) (i : Nat) : State :=
  let r := s.req i
  let s := (s.updReq i (fun r => { r with opAdmit := none })).countAdmitted
  (s.completeIf r.opAdmit r.reqId 1 Stat.ok 0).heldCancel i

/-- ADMIT (R24, R25): its checks in order, the entry, and the graft open when it names a destination. -/
def State.admitNew (s0 : State) (ring e : Nat) : State :=
  let s0 := s0.opTaken ring
  let p : PendOp := ⟨seSubId e, ring⟩
  let st := s0.admitCheck ring e
  if st ≠ Stat.ok then s0.completeOp p (seReqId e) 1 st 0
  else match s0.admitEntry ring e with
    | none => s0.completeOp p (seReqId e) 1 Stat.noRequestSlot 0
    | some (s, i) =>
      match s.kvSpace i (fld e 0x20 4) with
      | (_, false) => s0.completeOp p (seReqId e) 1 Stat.noKvSpace 0
      | (s, true) => if (seDests e).all (· = 0) then s.admitDone i else s.tryDest i 0 0

/-! ## Parks under way (R41, R204, R210) -/

/-- A park is killed: its graft or its copies are dropped and the request is back in DECODE (R41). -/
def State.killPark (s : State) (i status detail : Nat) : State :=
  let s := match s.sending i with
    | some k => s.abortGraft k
    | none => s
  let s := s.dropCopies i
  let r := s.req i
  let s := s.updReq i (fun r => { r with st := .decode, opPark := none, parkTarget := 0, peer := 0 })
  s.completeIf r.opPark r.reqId 2 status detail

/-- PARK's fields (R368). -/
def State.parkFieldsOk (s : State) (ring e : Nat) : Bool :=
  let t := fld e 0x18 1
  let h := bits e (8 * 0x1A) 12
  s.headOk ring e && (t = 2 || t = 3 || t = 4) && fld e 0x19 1 = 0 && bits e (8 * 0x1A + 12) 4 = 0 && (if t = 4 then h ≠ 0 else h = 0) &&
    zeroBytes e 0x20 0x7C

/-- The personality an operation is judged by: that of the version its request is bound to (R1, R4, R436). -/
def State.opPersonality (s : State) (e : Nat) : Nat :=
  match s.reqBy (seReqId e) (seTenant e) with
  | some i => (s.devOf (s.req i).cfg).personality
  | none => s.cfg.dev.personality

/-- PARK (R1, R4, R38, R41, R210, R332, R415). -/
def State.parkOp (s : State) (ring e : Nat) : State :=
  let s := s.opTaken ring
  let p : PendOp := ⟨seSubId e, ring⟩
  let h := bits e (8 * 0x1A) 12
  if !(hasGeneration (s.opPersonality e)) then s.completeOp p (seReqId e) 2 Stat.wrongPersonality 0
  else if !(s.parkFieldsOk ring e) then s.completeOp p (seReqId e) 2 Stat.invalidField 0
  else match s.reqBy (seReqId e) (seTenant e) with
    | none => s.completeOp p (seReqId e) 2 Stat.wrongState 0
    | some i =>
      if (s.req i).st ≠ .decode then s.completeOp p (seReqId e) 2 Stat.wrongState 0
      else if fld e 0x18 1 = 4 && !(s.present h) then s.completeOp p (seReqId e) 2 Stat.graftFailed 0
      else
        let s := s.updReq i (fun r => { r with st := .parking, parkTarget := fld e 0x18 1, ttlMs := fld e 0x1C 4, opPark := some p })
        if fld e 0x18 1 = 4 then (s.updReq i (fun r => { r with peer := h })).openGraft i .park h 0 else s

/-! ## Time to live (R40, R41, R212) -/

/-- Ticks of a TTL_MS; 0 means 2^32 ms (R38). -/
def ttlTicks (ms : Nat) : Nat := 100000 * (if ms = 0 then 2 ^ 32 else ms)

/-- A holder's record is given up, its plots freed (R41, R43). -/
def State.dropHolder (s : State) (h : HolderRec) : State :=
  let s := { s with holders := s.holders.filter (fun x => !(x.idx = h.idx && x.reqId = h.reqId)) }
  h.pages.foldl (fun s e => s.freePlace h.tenant e.2) s

/-- The request is EXPIRED: its plots are gone, its journal stays (R212). -/
def State.expire (s : State) (i : Nat) : State :=
  (s.dropPlots i).updReq i (fun r => { r with st := .expired, ttlOn := false, parkTarget := 0, peer := 0 })

/-- The time to live of a request parked here has passed; a pull of its last tick is served first (R41). -/
def State.ttlOver (s : State) (r : Req) : Bool := r.isLive && r.st = .parked && r.ttlOn && decide (r.parkAt + ttlTicks r.ttlMs < s.ltu)

/-- A request whose time to live has passed is EXPIRED before anything else touches it (R40, R41). -/
def State.expireDue (s : State) (i : Nat) : State := if s.ttlOver (s.req i) then s.expire i else s

/-- The time to live of a request held for another owner has passed (R41, R43). -/
def State.holderOver (s : State) (h : HolderRec) : Bool :=
  match h.ttl with
  | some (t, ms) => h.parked && decide (t + ttlTicks ms < s.ltu)
  | none => false

/-- A holder's time to live ends: the plots are freed and the recorded owner is told (R40, R43). -/
def State.expireHolder (s : State) (h : HolderRec) : State :=
  ((s.dropHolder h).sendCtl h.dev s.cmap.cur gkExpired
    { epoch := h.epoch, reqId := BitVec.ofNat 64 h.reqId, tenant := BitVec.ofNat 16 h.tenant }).pumpCtl

/-! ## Pulls (R42, R211, R328) -/

/-- The state a request being resumed goes back to when its resume fails. -/
def Req.resumeFrom (r : Req) : ReqSt := if r.st = .parking then .decode else r.st

/-- PULL is sent to the holder that PEER names, with the landing slots it may use; with none free it waits (R326, R328). -/
def State.sendPull (s : State) (i : Nat) : State :=
  let r := s.req i
  if s.fab.landFree = 0 then s
  else
    let n := s.takeSlots s.fab.landCredits
    let t := n.1.newGtag
    let s := t.1
    let g : Graft := { send := false, mode := .pull, req := i, reqId := r.reqId, tenant := r.tenant, peer := r.peer, epoch := r.epoch, dreq := i,
                       gtag := t.2, mapEpoch := s.cmap.cur, started := s.ltu, slots := n.2 }
    let s := { s with fab := { s.fab with grafts := s.fab.grafts ++ [g] } }
    (s.sendCtl r.peer s.cmap.cur gkPull { g.recFor with landCredits := n.2.length }).pumpCtl

/-- The pull of a request this device owns starts: from its own tiers, or from the holder PEER names (R42, R211, R328).
The time to live stops (R41). -/
def State.startPull (s : State) (i : Nat) : State :=
  let r := s.req i
  let s := s.updReq i (fun r => { r with ttlOn := false, pull := r.pages.map (·.1), pullDone := r.pages.isEmpty })
  if r.pages.any (fun e => e.2 = .holder) then s.sendPull i else s

/-- RESUME's fields (R368). -/
def State.resumeFieldsOk (s : State) (ring e : Nat) : Bool :=
  s.headOk ring e && bits e (8 * 0x18 + 12) 4 = 0 && zeroBytes e 0x1A 0x7C

/-- RESUME (R1, R4, R41, R42): DECODE at once when the park had not committed; a pull or a re-prefill here, which takes the
generation personality; RECORD_HANDOVER when another device is named. A time to live that has passed is acted on first. -/
def State.resumeOp (s : State) (ring e : Nat) : State :=
  let s := s.opTaken ring
  let p : PendOp := ⟨seSubId e, ring⟩
  let d := bits e (8 * 0x18) 12
  let away := d ≠ 0 && d ≠ s.fid
  if !away && !(hasGeneration (s.opPersonality e)) then s.completeOp p (seReqId e) 3 Stat.wrongPersonality 0
  else if !(s.resumeFieldsOk ring e) then s.completeOp p (seReqId e) 3 Stat.invalidField 0
  else match s.reqBy (seReqId e) (seTenant e) with
    | none => s.completeOp p (seReqId e) 3 Stat.wrongState 0
    | some i =>
      let s := s.expireDue i
      let r := s.req i
      if r.st ≠ .parking && r.st ≠ .parked && r.st ≠ .expired then s.completeOp p (seReqId e) 3 Stat.wrongState 0
      else
        let s := if r.st = .parking then s.killPark i Stat.killedByResume 0 else s
        if r.st = .parking && !away then s.completeOp p (seReqId e) 3 Stat.ok 0
        else
          let s := s.updReq i (fun q => { q with st := .resuming, opResume := some p, backTo := r.resumeFrom, resumeDev := if away then d else 0 })
          if away || r.st = .expired then s else s.startPull i

/-! ## CANCEL and REDIRECT -/

/-- CANCEL (R45, R374). -/
def State.cancelOp (s : State) (ring e : Nat) : State :=
  let s := s.opTaken ring
  let p : PendOp := ⟨seSubId e, ring⟩
  if !(s.headOk ring e && zeroBytes e 0x18 0x7C) then s.completeOp p (seReqId e) 4 Stat.invalidField 0
  else match s.reqBy (seReqId e) (seTenant e) with
    | none => s.completeOp p (seReqId e) 4 Stat.wrongState 0
    | some i => if (s.req i).opCancel.isSome then s.completeOp p (seReqId e) 4 Stat.wrongState 0 else s.cancelReq i p

/-- REDIRECT (R32). -/
def State.redirectOp (s : State) (ring e : Nat) : State :=
  let s := s.opTaken ring
  let p : PendOp := ⟨seSubId e, ring⟩
  if !(s.headOk ring e && zeroBytes e 0x18 0x44 && destsOk e && zeroBytes e 0x4C 0x7C) then s.completeOp p (seReqId e) 5 Stat.invalidField 0
  else match s.reqBy (seReqId e) (seTenant e) with
    | none => s.completeOp p (seReqId e) 5 Stat.wrongState 0
    | some i =>
      if (s.req i).st ≠ .handover || (s.req i).opRedirect.isSome then s.completeOp p (seReqId e) 5 Stat.wrongState 0
      else
        let s := match s.sending i with
          | some k => s.abortGraft k
          | none => s
        (s.updReq i (fun r => { r with dest := seDests e, destTried := 0, opRedirect := some p })).tryDest i 0 0

/-! ## Rows -/

/-- An operation applies when the device runs and its ring is a submission ring in use; its OP is the row's (R364, R367). -/
def State.opOn (s : State) (ring e op : Nat) : Bool :=
  s.live && (s.ring ring).kind = .submission && (s.ring ring).rstate ≠ .free && seOp e = op

/-- ADMIT (R24). -/
def execAdmitOp (ring : Nat) (e : BitVec 1024) (s : State) : Host.Outcome State Fault Refusal :=
  if s.opOn ring e.toNat 1 then .next (s.admitNew ring e.toNat) else .next s

/-- PARK (R38). -/
def execPark (ring : Nat) (e : BitVec 1024) (s : State) : Host.Outcome State Fault Refusal :=
  if s.opOn ring e.toNat 2 then .next (s.parkOp ring e.toNat) else .next s

/-- RESUME (R42). -/
def execResume (ring : Nat) (e : BitVec 1024) (s : State) : Host.Outcome State Fault Refusal :=
  if s.opOn ring e.toNat 3 then .next (s.resumeOp ring e.toNat) else .next s

/-- CANCEL (R45). -/
def execCancel (ring : Nat) (e : BitVec 1024) (s : State) : Host.Outcome State Fault Refusal :=
  if s.opOn ring e.toNat 4 then .next (s.cancelOp ring e.toNat) else .next s

/-- REDIRECT (R32). -/
def execRedirect (ring : Nat) (e : BitVec 1024) (s : State) : Host.Outcome State Fault Refusal :=
  if s.opOn ring e.toNat 5 then .next (s.redirectOp ring e.toNat) else .next s

/-- A push's destination has failed: its graft failed after OPEN_ACK (R32). -/
def State.pushFailed (s : State) (i : Nat) : Option Nat :=
  s.findGraft (fun g => g.send && g.mode = .push && g.req = i && g.phase = .failed && g.answered.isSome)

/-- GRAFT_DEST_FAILED (R32, R333): ABORT, and the next destination; every committed layer is sent again after its
OPEN_ACK. -/
def execGraftDestFailed (req : Nat) (status : Nat) (s : State) : Host.Outcome State Fault Refusal :=
  match s.pushFailed req with
  | none => .next s
  | some k => if !s.live || !(s.req req).isLive then .next s else .next ((s.abortGraft k).tryDest req status (s.graft k).peer)

/-- PARK_EXPIRY (R40, R41, R43, R212): of a request parked in the owner's own tiers, or of one this device holds. -/
def execParkExpiry (req : Nat) (s : State) : Host.Outcome State Fault Refusal :=
  if !s.live then .next s
  else if s.ttlOver (s.req req) then .next (s.expire req)
  else match s.holders.find? (fun h => h.idx = req && h.parked) with
    | none => .next s
    | some h => if s.holderOver h then .next (s.expireHolder h) else .next s

/-! ## Record handover and re-prefill (R42 to R44, R47) -/

/-- The holder that a handover names: this device for plots in its own tiers, the pool that holds them, or none (R43). -/
def State.holderOf (s : State) (r : Req) : Nat :=
  if r.pages.isEmpty then 0 else if r.pages.any (fun e => e.2 = .holder) then r.peer else s.fid

/-- RECORD_HANDOVER (R42, R43, R332): the record goes to the resume device; plots stay where they lie. -/
def execRecordHandover (req : Nat) (dest : Nat) (s : State) : Host.Outcome State Fault Refusal :=
  let r := s.req req
  if !s.live || !r.isLive || r.st ≠ .resuming || r.resumeDev = 0 || r.resumeDev ≠ dest || (s.sending req).isSome || s.reqNamed req then .next s
  else .next (s.openGraft req .handover dest (s.holderOf r))

/-- REPREFILL (R44, R47): of a request resumed from EXPIRED, or whose plots are lost. -/
def execReprefill (req : Nat) (s : State) : Host.Outcome State Fault Refusal :=
  let r := s.req req
  let due := (r.st = .resuming && r.resumeDev = 0 && r.backTo = .expired && !r.fallback) || (r.lost && !r.fallback && !(s.reqNamed req) && !(s.moving req))
  if !s.live || !r.isLive || !due then .next s else .next (s.recover req)

end Sys2Proof.Machine
end

