-- ==== Sys2Proof/Machine/GraftRecv.lean ====
section
/-!
DEFINITION. Sys2Proof/Machine/GraftRecv.lean: graft records and data as received, claims of ownership, and what a failed connection
does to grafts (R25, R30 to R32, R39 to R44, R47, R278, R279, R317, R320, R324 to R333, R413).
-/
namespace Sys2Proof.Machine

/-! ## Claims (R278, R279) -/

/-- The claim (epoch, device) a is lower than b (R278). -/
def claimLower (a b : Nat × Nat) : Bool :=
  let d := (b.1 + 65536 - a.1) % 65536
  if d = 0 || d = 32768 then decide (b.2 < a.2) else decide (d < 32768)

/-- The bytes of a management message about a request: OWNER_CLAIM 1, OWNER_YIELD 2 (R279; log 20). -/
def mgmtMsg (kind epoch reqId : Nat) : List Byte := packFields [(1, kind), (1, 0), (2, epoch), (8, reqId), (16, 0)]

/-- A management message about a request to a peer, which MANAGEMENT_ONLY does not stop (R270, R276, R279). -/
def State.sendMgmt (s : State) (dest kind epoch reqId : Nat) : State :=
  let msg := mgmtMsg kind epoch reqId
  match (List.range 36).find? (fun lk => s.reaches lk dest) with
  | none => s
  | some lk => s.enq lk { p := mkPkt 0x03 7 0 s.fid dest s.cmap.cur 0 (msg ++ toBytes 4 (crc32c msg)) }

/-- OWNER_YIELD: this device's claim is lower (R279). -/
def State.yieldReq (s : State) (i src : Nat) : State :=
  let r := s.req i
  (s.endRequest i Stat.ownerYielded).sendMgmt src 2 r.epoch r.reqId

/-- A record about a request that this device owns, with another epoch: the lower claim yields (R279). -/
def State.meetClaim (s : State) (src epoch reqId : Nat) : State :=
  match s.liveReqs.find? (fun i => (s.req i).reqId = reqId) with
  | none => s
  | some i =>
    let r := s.req i
    if r.epoch = epoch then s else if claimLower (r.epoch, s.fid) (epoch, src) then s.yieldReq i src else s

/-- OWNER_CLAIM (R271, R279): the lower claim yields; a higher one is answered with a claim of its own. A previous holder that
owns the request no more has nothing to free, and answers with OWNER_YIELD. -/
def execOwnerClaim (src : BitVec 12) (reqId : BitVec 64) (tail : ClaimTail) (s : State) : Host.Outcome State Fault Refusal :=
  if !s.live then .next s
  else
    let s := (s.takeRxLike (fun p => p.ptype = 3 && p.src = src.toNat)).1
    if crc32c (mgmtMsg 1 tail.epoch.toNat reqId.toNat) ≠ tail.crc.toNat then .next s
    else match s.liveReqs.find? (fun i => (s.req i).reqId = reqId.toNat) with
    | none => .next (s.sendMgmt src.toNat 2 tail.epoch.toNat reqId.toNat)
    | some i =>
      let r := s.req i
      if claimLower (r.epoch, s.fid) (tail.epoch.toNat, src.toNat) then .next (s.yieldReq i src.toNat)
      else .next (s.sendMgmt src.toNat 1 r.epoch r.reqId)

/-! ## Journals received (R331) -/

/-- A received graft is recoverable: the prompt part of a push's journal, the whole of a handover's, has come (R331). -/
def Graft.recoverable (g : Graft) : Bool :=
  match g.rec_ with
  | none => false
  | some r => match g.mode with
    | .push => decide (4 * (Req.ofEntry r.entry.toNat).promptLen ≤ g.jgot)
    | .handover => decide (4 * r.journalLen ≤ g.jgot)
    | _ => false

/-- What a receiver reserved for a graft is freed (R328, R333). -/
def State.dropReceived (s : State) (k : Nat) : State :=
  let g := s.graft k
  let s := (s.closeGraft k false).updGraft k (fun g => { g with answered := none })
  match g.mode with
  | .park => match s.holders.find? (fun h => h.idx = g.dreq && h.reqId = g.reqId) with
    | some h => h.spare.foldl (fun s p => s.freePlace h.tenant p) (s.dropHolder h)
    | none => s
  | .pull => s
  | _ => { s.releaseReq g.dreq with reqs := Tbl.del (s.releaseReq g.dreq).reqs g.dreq }

/-- A request that comes back from a prompt peer brings the RESUME that waits for it (R23, R47). -/
def State.takeAway (s : State) (i : Nat) : State :=
  let r := s.req i
  match s.pools.away.find? (fun a => a.reqId = r.reqId && a.tenant = r.tenant) with
  | none => s
  | some a => { s.updReq i (fun r => { r with opResume := some a.op }) with pools := { s.pools with away := s.pools.away.erase a } }

/-- The entry of a received graft becomes an owned request (R21, R30, R44). -/
def State.becomeOwner (s : State) (i epoch journalLen next : Nat) (deadline : Nat) : State :=
  let r := s.req i
  (s.updReq i (fun r =>
    { r with epoch := epoch % 65536, cfg := s.curVersion, journal := s.journalRead r journalLen, nextIndex := next, firstIdx := next,
             deadline := deadline, prefilled := r.promptLen, draftReady := false })).countAdmitted.takeAway i

/-- The receiver of a recoverable graft whose source is gone claims the request (R47). -/
def State.claim (s : State) (k : Nat) : State :=
  let g := s.graft k
  match g.rec_ with
  | none => s
  | some r =>
    let e := Req.ofEntry r.entry.toNat
    let n := if g.mode = .push then e.promptLen else r.journalLen
    let remain := r.remain.toNat
    let left := if remain = 2 ^ 64 - 1 then remain else remain - (s.ltu - g.started)
    let s := (s.closeGraft k false).becomeOwner g.dreq (g.epoch + 1) n (n - e.promptLen) (deadlineAt s.ltu left)
    let s := s.updReq g.dreq (fun q => { q with st := .reprefill, dest := [0, 0, 0, 0], destTried := 0 })
    (s.sendMgmt g.peer 1 (g.epoch + 1) g.reqId).recover g.dreq

/-! ## Failures (R25, R32, R41, R47) -/

/-- The status with which the pair's control connection failed (R25). -/
def State.ctlStatus (s : State) (peer : Nat) : Nat :=
  match s.connLike (fun c => c.control && c.dest = peer && c.errStatus ≠ 0) with
  | some c => (s.conn c).errStatus
  | none => 0

/-- DETAIL of an operation that a device turned away (R369). -/
def refusal (status dev : Nat) : Nat := status % 65536 + dev % 4096 * 65536

/-- A RESUME that needed another device fails; the request goes back to the state it was in (R23, R42). -/
def State.resumeFailed (s : State) (i status dev : Nat) : State :=
  let r := s.req i
  (s.updReq i (fun r => { r with st := r.backTo, opResume := none, resumeDev := 0 })).completeIf r.opResume r.reqId 3 Stat.graftFailed (refusal status dev)

/-- A graft this device sends has been refused, or its peer gives no answer; a push already under way waits for
GRAFT_DEST_FAILED (R25, R32, R41, R47). -/
def State.sendFailed (s : State) (k status : Nat) : State :=
  let g := s.graft k
  match g.mode with
  | .push => if g.answered.isSome then s.updGraft k (fun g => { g with phase := .failed }) else (s.closeGraft k false).tryDest g.req status g.peer
  | .handover =>
    let s := s.abortGraft k
    if (s.req g.req).fallback then s.tryPeer g.req status g.peer else s.resumeFailed g.req status g.peer
  | .park => s.killPark g.req (if status = Stat.quotaExceeded then status else Stat.graftFailed) (refusal status g.peer)
  | .pull => s.closeGraft k false

/-- A graft this device receives has lost its peer (R41, R47, R331, R415). -/
def State.recvFailed (s : State) (k : Nat) : State :=
  let g := s.graft k
  match g.mode with
  | .pull => (s.abortGraft k).recover g.req
  | .park => s.dropReceived k
  | _ => if g.recoverable then s.claim k else s.dropReceived k

/-- One graft's failure is acted on. -/
def State.settleOne (s : State) (k : Nat) : State :=
  let g := s.graft k
  let mute := (g.phase = .opening || (!g.send && g.mode = .pull && g.phase ≠ .done)) && (s.ctlConn g.peer).isNone
  if g.phase ≠ .failed && !mute then s
  else if !g.send then s.recvFailed k
  else if g.mode = .push && g.answered.isSome then s
  else s.sendFailed k (s.ctlStatus g.peer)

/-- Failures are acted on, and the graft engine goes on. -/
def State.settle (s : State) : State :=
  ((List.range s.fab.grafts.length).foldl (fun (s : State) k => s.settleOne k) s).graftPump

/-! ## Connections (R308, R317, R320) -/

/-- CONN_ERROR (R320): a connection enters ERROR with a status, its oldest entry's cause. -/
def execConnError (conn : BitVec 20) (status : Nat) (s : State) : Host.Outcome State Fault Refusal :=
  if !s.live || (s.conn conn.toNat).state ≠ .ready then .next s
  else .next ((s.connError conn.toNat status ((s.conn conn.toNat).entries.head?.map (·.id))).settle)

/-- A refusal, or notice of ERROR, from the peer (R320). -/
def State.rqErr (s : State) (p : Pkt) : State :=
  match s.contextFor p with
  | (s, none) => s
  | (s, some c) =>
    let x := s.conn c
    let who := if rqStatus p = Stat.remoteError then (x.entries.head?.map (·.id))
      else (x.out.find? (fun m => m.msn = rqMsn p)).map (·.entry)
    (s.connError c (rqStatus p) who).settle

/-- RQ_ERR_RECEIVE (R320): the entry of the named message ends with the refusal's status, the rest are flushed. -/
def execRqErrReceive (p : Pkt) (s : State) : Host.Outcome State Fault Refusal :=
  if !s.live then .next s else .next ((s.arrive p).1.rqErr (s.arrive p).2)

/-- RTO_EXPIRY (R317, R318): holes are resent and the window falls to 64, or RETRY_EXCEEDED ends the connection. -/
def execRtoExpiry (conn : BitVec 20) (msn : BitVec 16) (s : State) : Host.Outcome State Fault Refusal :=
  let c := conn.toNat
  let x := s.conn c
  match x.out.find? (fun m => m.msn = msn.toNat) with
  | none => .next s
  | some m =>
    match m.rtoFrom with
    | none => .next s
    | some t =>
      if !s.live || x.state ≠ .ready || s.ltu ≤ t + 100 * x.rtoUs then .next s
      else if x.retryMax ≤ m.retries then .next ((s.connError c Stat.retryExceeded (some m.entry)).settle)
      else
        let holes := (List.range m.count).filter (fun k => (!m.reported || m.ptype = 0x11 || !(m.placed.testBit k)) && decide (k < m.nextP) && !(m.inQ.contains k))
        let s := s.updConn c (fun y =>
          { y with window := 64 * 65536, out := y.out.map (fun (o : OutMsg) => if o.msn = m.msn then
              { o with retries := o.retries + 1, resend := holes, rtoFrom := if s.anyPath x then none else some s.ltu } else o) })
        let s := s.updLnd x.home (fun d => { d with retrans := satAdd 32 d.retrans holes.length })
        .next (s.pump c)

/-- RQ_ACK_RECEIVE (R316, R317): messages shown complete leave, the window moves, and grafts go on (R330). -/
def execRqAckReceive (p : Pkt) (s : State) : Host.Outcome State Fault Refusal :=
  if !s.live then .next s else .next (((s.arrive p).1.raeAck (s.arrive p).2).graftPump)

/-! ## Records (R327, R328, R413) -/

/-- A map epoch is honoured (R413). -/
def State.honours (s : State) (e : Nat) : Bool :=
  e = s.cmap.cur || s.cmap.old = some e || e = (if s.cmap.cur = 65535 then 1 else s.cmap.cur + 1)

/-- A peer is present in the map of an honoured epoch; a device one epoch behind checks its current map (R413). -/
def State.presentIn (s : State) (e f : Nat) : Bool :=
  if s.cmap.old = some e && e ≠ s.cmap.cur then e = 0 || s.cmap.oldPeers.any (fun p => p.fabricId = f) else s.present f

/-- A record of a control connection's message is judged: its CRC, and its map epoch (R327, R413); with `true` it is acted
on. -/
def State.judgeRecord (s : State) (c : Nat) (p : Option Pkt) (epoch : Nat) (r : GRec) (isOpen : Bool) : State × Bool :=
  let msn := (p.map rqMsn).getD 0
  if !r.crcOk then (((s.sendErr c msn Stat.checkFailed).connError c Stat.checkFailed none).settle, false)
  else if !isOpen && !(s.honours epoch) then (s.sendErr c msn Stat.graftInvalid, false)
  else (match p with
    | some p => s.placed c p 0
    | none => s, true)

/-- A record is received: its packet's message opens (R315), and it is judged; with `true` it is acted on. -/
def State.recordIn (s : State) (src epoch : Nat) (r : GRec) (isOpen : Bool) : State × Bool :=
  match s.takeRxLike (fun p => p.ptype = 0x17 && p.src = src) with
  | (s, none) => match s.ctlConn src with
    | none => (s, r.crcOk && (isOpen || s.honours epoch))
    | some c => s.judgeRecord c none epoch r isOpen
  | (s, some p) => match s.admitData p with
    | (s, none) => (s, false)
    | (s, some c) => s.judgeRecord c (some p) epoch r isOpen

/-- A record received from a peer, and what it does when it is acted on. -/
def State.onRecord (s : State) (src epoch : Nat) (r : GRec) (isOpen : Bool) (act : State → State) : Host.Outcome State Fault Refusal :=
  if !s.live then .next s
  else match s.recordIn src epoch r isOpen with
    | (s, false) => .next s
    | (s, true) => .next (act s)

/-- The geometry an OPEN states is the slot's (R328). -/
def geometryOk (m : Slot) (r : GRec) : Bool :=
  r.layers = m.layers && r.kvHeads = m.kvHeads && r.headDim = m.headDim && r.kvFmt = m.kvFmt && r.pageBits = m.pageBits

/-- The reserved bits of a request table entry are 0, and its STATE is one of R22's (R15, R376). -/
def entryReservedOk (x : Nat) : Bool :=
  decide (fld x 0x0E 1 ≤ 9) && bits x (8 * 0x0F + 5) 3 = 0 && bits x (8 * 0x15 + 2) 6 = 0 && bits x (8 * 0x17 + 4) 4 = 0 &&
    bits x (8 * 0x30 + 48) 16 = 0 && bits x (8 * 0x38 + 18) 14 = 0 && bits x (8 * 0x3C + 18) 14 = 0 &&
    (List.range 4).all (fun k => bits x (8 * (0x40 + 2 * k) + 12) 4 = 0) && bits x (8 * 0x56 + 12) 4 = 0 && fld x 0x66 2 = 0 &&
    bits x (8 * 0x70) (8 * 140) = 0

/-- Ranges of the fields an OPEN carries (R15, R328, R368). -/
def openFieldsOk (r : GRec) (e : Req) : Bool :=
  entryReservedOk r.entry.toNat && (r.gmode = 1 || r.gmode = 2 || r.gmode = 3) && e.reqId = r.reqId.toNat && e.tenant = r.tenant.toNat &&
    (r.gmode = 3 || (e.promptLen ≠ 0 && e.maxNew ≠ 0 && decide (e.slot < 16384) && decide (e.topK ≤ 1024) &&
      (if e.speculate then decide (1 ≤ e.treeMax) && decide (e.treeMax ≤ 16) && decide (e.draftSlot < 16384) else e.treeMax = 0)))

/-- An OPEN with GMODE PUSH or HANDOVER: R24's checks 1, 2, 4 and 5 (R328). -/
def State.openCheck (s : State) (r : GRec) (e : Req) : Nat :=
  let p := s.cfg.dev.personality
  let m := s.slot e.slot
  let all := e.promptLen + e.maxNew
  if p = 0 then Stat.notConfigured
  else if !(if r.gmode = 1 then hasGeneration p else hasGeneration p || hasPrompt p) then Stat.wrongPersonality
  else if !(openFieldsOk r e) || !(s.tenant e.tenant).valid then Stat.invalidField
  else if !(s.slotLoaded e.slot e.tenant) then Stat.modelNotLoaded
  else if e.speculate && !(s.slotLoaded e.draftSlot e.tenant) then Stat.modelNotLoaded
  else if !(geometryOk m r) then Stat.invalidField
  else if m.limit < all then Stat.seqTooLong
  else if e.biasRow ≠ 0xFF && decide (s.biasRows m ≤ e.biasRow) then Stat.invalidField
  else if s.idLive e.reqId then Stat.duplicateId
  else Stat.ok

/-- Pages an OPEN asks the receiver to reserve: the first of every layer-head (R25, R328). -/
def openPages (q : Seq) (plots : Nat) : List Nat := q.pagesFor 0 (cdiv plots (Nat.max 1 (q.layers * q.kvHeads)) * q.tp)

/-- Space for an OPEN's plots (R25, R152, R156, R157, R330): every page is allocated and mapped; in native mode one that
finds no victim waits. -/
def State.openSpace (s : State) (i plots : Nat) : State × Space :=
  let r := s.req i
  let pages := openPages r.seq plots
  if !s.cfg.dev.compat && decide (s.quotaSum r.tenant < pages.length) then (s, .refused)
  else match s.allocPages i (s.permitted r.tenant) (!s.cfg.dev.compat) pages with
    | (s, true) => (s, .placed)
    | (s, false) => (s, if s.cfg.dev.compat then .refused else .waits)

/-- What an OPEN that is accepted sets up: the answer's status, none while it waits for space, and the entry's index (R152,
R328, R366, R370). -/
def State.openTake (s0 : State) (r : GRec) (e : Req) (src : Nat) : State × Option Nat × Nat :=
  let ld := (s0.tenant e.tenant).ld
  match Tbl.find? s0.cfg.defCq ld with
  | none => (s0, some Stat.noRequestSlot, 0)
  | some cq =>
    let m := s0.slot e.slot
    match s0.newEntry e.tenant ld (e.promptLen + e.maxNew) r.pruneFloor m (fun (q : Req) =>
        { e with st := .free, ld := ld, cfg := q.cfg, jplots := q.jplots, tokenRing := q.tokenRing, seq := q.seq, cplRing := cq, peer := src,
                 epoch := r.epoch, ttlMs := r.ttlMs }) with
    | none => (s0, some Stat.noRequestSlot, 0)
    | some (s, i) =>
      match s.openSpace i (if r.gmode = 1 then r.plots else 0) with
      | (_, .refused) => (s0, some Stat.noKvSpace, 0)
      | (s, .waits) => (s.forget i, none, 0)
      | (s, .placed) =>
        let first := if r.gmode = 1 then Nat.max 1 e.nextIndex else e.nextIndex
        ((s.writeReq i).eventTo ld (eventRaw 0x01 e.tenant (s.req i).tokenRing e.reqId src first), some Stat.ok, i)

/-- Room for `n` parked plots, in the highest of T2 and T3 that has it (R207, R328). -/
def State.parkRoom (s : State) (tn : Nat) (tiers : List Nat) : Nat → Option (State × List Place)
  | 0 => some (s, [])
  | n + 1 => match s.allocTiers tn 0 tiers with
    | none => none
    | some (s, p) => match State.parkRoom s tn tiers n with
      | none => none
      | some (s, ps) => some (s, p :: ps)

/-- An OPEN with GMODE PARK (R328): checks 1, 2, 5 and 6, the quotas, and landing slots (R335). -/
def State.openPark (s : State) (r : GRec) (e : Req) (src : Nat) : State × Nat × Nat :=
  let tn := r.tenant.toNat
  let pool := s.fab.landFree + (s.fab.grafts.flatMap (·.slots)).length
  if s.cfg.dev.personality = 0 then (s, Stat.notConfigured, 0)
  else if s.cfg.dev.personality ≠ 3 then (s, Stat.wrongPersonality, 0)
  else if !(openFieldsOk r e) || !(s.tenant tn).valid then (s, Stat.invalidField, 0)
  else if s.idLive r.reqId.toNat then (s, Stat.duplicateId, 0)
  else match s.freeEntry with
    | none => (s, Stat.noRequestSlot, 0)
    | some i =>
      match s.parkRoom tn (if s.lowestTier tn = 3 then [2, 3] else [2]) r.plots with
      | none => (s, Stat.quotaExceeded, 0)
      | some (s', ps) =>
        if pool < 16 || s.fab.landFree = 0 then (s, Stat.noResource, 0)
        else ({ s' with holders := { idx := i, reqId := r.reqId.toNat, tenant := tn, dev := src, epoch := r.epoch, spare := ps, parked := false,
                                     ttl := none } :: s'.holders }, Stat.ok, i)

/-- OPEN_ACK. -/
def State.ackOpen (s : State) (src epoch : Nat) (r : GRec) (status gtag dreq credits : Nat) : State :=
  (s.sendCtl src epoch gkOpenAck
    { gtag := gtag, status := status, epoch := r.epoch, reqId := r.reqId, tenant := r.tenant, dreq := dreq, landCredits := credits }).pumpCtl

/-- GMODE. -/
def gmodeOf : Nat → GMode
  | 1 => .push
  | 2 => .handover
  | _ => .park

/-- An OPEN judged: the checks, the reservation and OPEN_ACK; one whose plots find no victim waits for the next step
boundary (R152, R328, R413). -/
def State.openTry (s : State) (src epoch : Nat) (r : GRec) : State :=
  let e := Req.ofEntry r.entry.toNat
  let some_ := fun (x : State × Nat × Nat) => (x.1, some x.2.1, x.2.2)
  let x := if !(s.honours epoch) || !(s.presentIn epoch src) then (s, some Stat.mapStale, 0)
    else if r.gmode = 3 then some_ (s.openPark r e src)
    else
      let st := s.openCheck r e
      if st ≠ Stat.ok then (s, some st, 0) else s.openTake r e src
  match x.2.1 with
  | none => { x.1 with pools := { x.1.pools with opens := x.1.pools.opens ++ [⟨src, epoch, r⟩] } }
  | some st =>
    if st ≠ Stat.ok then
      let s := { x.1 with fab := { x.1.fab with gRefused := satAdd 16 x.1.fab.gRefused 1 } }
      s.ackOpen src epoch r st 0 0 0
    else
      let t := x.1.newGtag
      let l := if r.gmode = 3 then t.1.takeSlots t.1.fab.landCredits else (t.1, [])
      let g : Graft := { send := false, mode := gmodeOf r.gmode, req := x.2.2, reqId := r.reqId.toNat, tenant := r.tenant.toNat, peer := src,
                         gtag := t.2, dreq := x.2.2, epoch := r.epoch, mapEpoch := epoch, phase := .moving, credits := l.2.length, slots := l.2,
                         answered := some Stat.ok, rec_ := some r, started := s.ltu }
      let s := { l.1 with fab := { l.1.fab with grafts := l.1.fab.grafts ++ [g] } }
      s.ackOpen src epoch r Stat.ok t.2 x.2.2 l.2.length

/-- An OPEN of a source for a request that waits for space. -/
def OpenWait.is (w : OpenWait) (src reqId : Nat) : Bool := w.src = src && w.rec_.reqId.toNat = reqId

/-- OPENs that wait for space are tried again, in the order they came; one whose source can no longer be answered is
dropped (R151, R152). -/
def State.retryOpens (s : State) : State :=
  s.pools.opens.foldl (fun (s : State) w => if (s.ctlConn w.src).isNone then s else s.openTry w.src w.epoch w.rec_)
    { s with pools := { s.pools with opens := [] } }

/-- OPEN (R328, R333): a duplicate is answered again, one that waits goes on waiting; any other is judged. -/
def State.openIn (s : State) (src epoch : Nat) (r : GRec) : State :=
  let s := s.meetClaim src r.epoch r.reqId.toNat
  match s.findGraft (fun g => !g.send && g.mode ≠ .pull && g.peer = src && g.reqId = r.reqId.toNat && g.epoch = r.epoch && g.answered.isSome) with
  | some k =>
    let g := s.graft k
    s.ackOpen src epoch r Stat.ok g.gtag g.dreq g.credits
  | none => if s.pools.opens.any (fun w => w.is src r.reqId.toNat && w.rec_.epoch = r.epoch) then s else s.openTry src epoch r

/-- OPEN (R328). -/
def execOpenRec (src : BitVec 12) (mapEpoch : BitVec 16) (r : GRec) (s : State) : Host.Outcome State Fault Refusal :=
  s.onRecord src.toNat mapEpoch.toNat r true (fun s => s.openIn src.toNat mapEpoch.toNat r)

/-! ## OPEN_ACK (R25, R28, R32, R330, R332) -/

/-- Pages of every layer already committed, up to each layer's valid length (R28, R32). -/
def Req.committedPages (r : Req) : List GWork :=
  r.pages.filterMap (fun e =>
    let layer := r.seq.lhOf e.1 / Nat.max 1 r.seq.kvHeads
    if r.seq.pageIdx e.1 * r.seq.tp < nth r.seq.vlen layer 0 then some (.page e.1 e.2) else none)

/-- A push is acknowledged: the prompt part of the journal, every committed layer, and at HANDOVER the rest (R330). -/
def State.pushOpened (s : State) (k : Nat) : State :=
  let g := s.graft k
  let r := s.req g.req
  let handed := r.st = .handover
  let rest := if handed then r.journalWork r.promptLen r.journal.length else []
  let s := s.updGraft k (fun g => { g with todo := r.journalWork 0 r.promptLen ++ r.committedPages ++ rest, lastPosted := handed })
  let s := s.updReq g.req (fun r => { r with stalled := false, opRedirect := none })
  let s := s.completeIf r.opRedirect r.reqId 5 Stat.ok 0
  if r.opAdmit.isSome then s.admitDone g.req else s

/-- OPEN_ACK (R25, R328): the graft starts, or the next destination, peer or outcome follows. -/
def State.openAckIn (s : State) (src epoch : Nat) (r : GRec) : State :=
  match s.findGraft (fun g => g.send && g.phase = .opening && g.peer = src && g.reqId = r.reqId.toNat && g.epoch = r.epoch) with
  | none => s
  | some k =>
    if r.status ≠ Stat.ok then ((s.sendFailed k r.status).graftPump)
    else
      let g := s.graft k
      let s := s.updGraft k (fun g => { g with phase := .moving, gtag := r.gtag, dreq := r.dreq, credits := r.landCredits, answered := some Stat.ok })
      let s := s.updReq g.req (fun q => { q with peer := if g.mode = .handover then q.peer else src, gtag := r.gtag })
      let q := s.req g.req
      let s := match g.mode with
        | .push => s.pushOpened k
        | .handover => s.updGraft k (fun g => { g with todo := q.journalWork 0 q.journal.length, lastPosted := true })
        | _ => s
      s.graftPump

/-- OPEN_ACK received (R328). -/
def execOpenAck (src : BitVec 12) (mapEpoch : BitVec 16) (r : GRec) (s : State) : Host.Outcome State Fault Refusal :=
  s.onRecord src.toNat mapEpoch.toNat r false (fun s => s.openAckIn src.toNat mapEpoch.toNat r)

/-! ## COMMIT and COMMIT_ACK (R28, R30, R39, R43, R332) -/

/-- Messages of a graft are open (R330). -/
def State.graftOpenMsgs (s : State) (g : Graft) : Bool :=
  s.fab.conns.any (fun e => e.2.dest = g.peer && e.2.inm.any (fun m => !m.done && m.gtag = some g.gtag))

/-- COMMIT takes effect at the receiver (R28, R30, R43, R332), and is acknowledged. -/
def State.takeCommit (s : State) (k : Nat) (r : GRec) : State :=
  let g := s.graft k
  let i := g.dreq
  let reply : GRec := { g.recFor with status := Stat.ok }
  let s := match g.mode with
    | .push =>
      let s := s.becomeOwner i (g.epoch + 1) r.journalLen (r.tokenIdx + 1) (deadlineAt g.commitAt r.remain.toNat)
      (s.updReq i (fun q =>
        { q with st := .admitted, arrived := true, dest := [0, 0, 0, 0],
                 seq := { q.seq with vlen := q.seq.vlen.map (fun _ => r.journalLen - 1), reservedLen := Nat.max q.seq.reservedLen (r.journalLen - 1), lastActive := s.ltu } })).writeReq i
    | .handover =>
      let s := s.becomeOwner i (g.epoch + 1) r.journalLen (s.req i).nextIndex (deadlineAt g.commitAt r.remain.toNat)
      let holder := match g.rec_ with
        | some o => o.holder
        | none => 0
      let s := (s.updReq i (fun q =>
        let vl := if r.vlen.length = q.seq.layers then r.vlen else q.seq.vlen
        let held := ((List.range q.seq.layers).flatMap (fun l => (List.range q.seq.kvHeads).flatMap (fun h =>
          (List.range (cdiv (nth vl l 0) (Nat.max 1 q.seq.tp))).map (fun p => (q.seq.pageOf (l * q.seq.kvHeads + h) p, Place.holder)))))
        { q with st := .resuming, backTo := if holder = 0 then .expired else .parked, resumeDev := 0, peer := holder, fallback := false,
                 parkTarget := if holder = 0 then 0 else 4, pages := if holder = 0 then [] else held,
                 recomputeTo := if r.reprefill then r.journalLen - 1 else 0,
                 seq := { q.seq with vlen := if holder = 0 then q.seq.vlen.map (fun _ => 0) else vl, reprefillPending := r.reprefill && holder ≠ 0,
                                     reservedLen := if holder = 0 then 0 else vl.foldl Nat.max 0 } })).writeReq i
      if holder = 0 then s else s.startPull i
    | _ =>
      let s := s.countAdmitted
      let ms := match g.rec_ with
        | some o => o.ttlMs
        | none => 0
      let hs := s.holders.map (fun (h : HolderRec) => if h.idx = i && h.reqId = g.reqId then { h with parked := true, ttl := some (s.ltu, ms), spare := [] } else h)
      let left := (s.holders.filter (fun (h : HolderRec) => decide (h.idx = i) && decide (h.reqId = g.reqId))).flatMap (fun (h : HolderRec) => h.spare)
      left.foldl (fun s p => s.freePlace g.tenant p) { s with holders := hs }
  (((s.sendCtl g.peer g.mapEpoch gkCommitAck reply).closeGraft k true).updGraft k (fun g => { g with commit := none })).pumpCtl

/-- Commits that waited for open messages, or for records, take effect (R330). -/
def State.tryCommits (s : State) : State :=
  (List.range s.fab.grafts.length).foldl (fun (s : State) k =>
    let g := s.graft k
    match g.commit with
    | some r => if !g.send && g.phase = .committing && !(s.graftOpenMsgs g) then s.takeCommit k r else s
    | none => s) s

/-- GRAFT_COMMIT (R30, R330, R333): it waits for the graft's open messages; a duplicate is acknowledged again. -/
def State.commitIn (s : State) (src epoch : Nat) (r : GRec) : State :=
  match s.findGraft (fun g => !g.send && g.mode ≠ .pull && g.peer = src && g.reqId = r.reqId.toNat && g.gtag = r.gtag && g.answered.isSome) with
  | none => (s.meetClaim src r.epoch r.reqId.toNat)
  | some k =>
    let g := s.graft k
    if g.phase = .done then
      ((s.sendCtl g.peer g.mapEpoch gkCommitAck { g.recFor with status := Stat.ok }).pumpCtl)
    else ((s.updGraft k (fun g =>
      { g with phase := .committing, commit := some r, commitAt := if g.commit.isSome then g.commitAt else s.ltu })).tryCommits)

/-- GRAFT_COMMIT received (R328). -/
def execGraftCommit (src : BitVec 12) (mapEpoch : BitVec 16) (r : GRec) (s : State) : Host.Outcome State Fault Refusal :=
  s.onRecord src.toNat mapEpoch.toNat r false (fun s => s.commitIn src.toNat mapEpoch.toNat r)

/-- The owner's plots go to the record of this device as their holder (R43). -/
def State.keepAsHolder (s : State) (i dev epoch : Nat) : State :=
  let r := s.req i
  let mine := r.pages.filter (fun e => e.2 ≠ .holder)
  let s := mine.foldl (fun s e => s.setPage r.seq.asid (r.seq.vpn e.1) leafEmpty) s
  let s := s.updReq i (fun r => { r with pages := [] })
  if mine.isEmpty then s
  else { s with holders := { idx := i, reqId := r.reqId, tenant := r.tenant, dev := dev, epoch := epoch, pages := mine, vlen := r.seq.vlen,
                             ttl := if r.ttlOn then some (r.parkAt, r.ttlMs) else none, seq := r.seq } :: s.holders }

/-- A park has committed at its holder: the owner frees its plots (R39, R332). -/
def State.parkCommitted (s : State) (i src : Nat) : State :=
  let r := s.req i
  let n := r.pages.length
  let pages := r.pages.map (fun e => (e.1, Place.holder))
  let s := (s.freePages i leafEmpty).updReq i (fun r => { r with st := .parked, pages := pages, opPark := none, peer := src, ttlOn := false })
  (s.completeIf r.opPark r.reqId 2 Stat.ok n).rebind i

/-- The request's ownership has gone to `src` (R30, R42, R366). A RESUME that a prompt peer serves stays pending until the
request is grafted back (R23, R47); of one served by a resume device nothing more is heard here, and it completes
(DEDUCED, log 60). -/
def State.ownerGone (s : State) (i src : Nat) : State :=
  let r := s.req i
  let s := match r.fallback, r.opResume with
    | true, some p =>
      { s.updReq i (fun r => { r with opResume := none }) with pools := { s.pools with away := ⟨r.reqId, r.tenant, p⟩ :: s.pools.away } }
    | _, _ => s
  let r := s.req i
  let s := (s.leftEvent i src ((r.epoch + 1) % 65536)).updReq i (fun r => { r with opResume := none })
  (s.completeIf r.opResume r.reqId 3 Stat.ok 0).forget i

/-- COMMIT_ACK (R30, R39, R43): the receiver is owner or holder. -/
def State.commitAckIn (s : State) (src epoch : Nat) (r : GRec) : State :=
  match s.findGraft (fun g => g.send && g.mode ≠ .pull && g.phase = .committing && g.peer = src && g.gtag = r.gtag && g.reqId = r.reqId.toNat) with
  | none => s
  | some k =>
    let g := s.graft k
    if r.status ≠ Stat.ok then (s.sendFailed k r.status)
    else
      let s := s.closeGraft k true
      (match g.mode with
        | .park => s.parkCommitted g.req src
        | .handover => (s.keepAsHolder g.req src ((g.epoch + 1) % 65536)).ownerGone g.req src
        | _ => s.ownerGone g.req src)

/-- COMMIT_ACK received (R328). -/
def execCommitAck (src : BitVec 12) (mapEpoch : BitVec 16) (r : GRec) (s : State) : Host.Outcome State Fault Refusal :=
  s.onRecord src.toNat mapEpoch.toNat r false (fun s => s.commitAckIn src.toNat mapEpoch.toNat r)

/-! ## ABORT (R328) -/

/-- ABORT: the receiver frees its reservation and what was placed, or forgets an OPEN that waits; a sender takes it as its
peer's failure. -/
def State.abortIn (s : State) (src epoch : Nat) (r : GRec) : State :=
  match s.findGraft (fun g => g.live && g.peer = src && g.reqId = r.reqId.toNat && (g.gtag = r.gtag || (!g.send && r.gtag = 0))) with
  | none => { s with pools := { s.pools with opens := s.pools.opens.filter (fun w => !(w.is src r.reqId.toNat)) } }
  | some k =>
    let g := s.graft k
    if g.send then (s.sendFailed k Stat.aborted)
    else if g.mode = .pull then ((s.closeGraft k false).recover g.req)
    else (s.dropReceived k)

/-- ABORT received (R328). -/
def execAbortRec (src : BitVec 12) (mapEpoch : BitVec 16) (r : GRec) (s : State) : Host.Outcome State Fault Refusal :=
  s.onRecord src.toNat mapEpoch.toNat r false (fun s => s.abortIn src.toNat mapEpoch.toNat r)

/-! ## Pull, release and expiry (R40, R41, R43, R328) -/

/-- The record of a request held here, when PULL or RELEASE from a device at an epoch is accepted; its recorded device
and epoch move on with a higher claim (R43). -/
def State.holderFor (s : State) (src epoch reqId : Nat) : State × Option HolderRec :=
  match s.holders.find? (fun h => h.reqId = reqId && h.parked) with
  | none => (s, none)
  | some h =>
    if h.dev = src && h.epoch = epoch then (s, some h)
    else if claimLower (h.epoch, h.dev) (epoch, src) && h.epoch ≠ epoch then
      let h' := { h with dev := src, epoch := epoch }
      ({ s with holders := s.holders.map (fun x => if x.idx = h.idx && x.reqId = reqId then h' else x) }, some h')
    else (s, none)

/-- PULL (R41, R43, R328): every parked frame is sent; EXPIRED when the plots are gone. -/
def State.pullIn (s : State) (src epoch : Nat) (r : GRec) : State :=
  let s := s.meetClaim src r.epoch r.reqId.toNat
  let s := match s.holders.find? (fun h => h.reqId = r.reqId.toNat && s.holderOver h) with
    | some h => s.expireHolder h
    | none => s
  if !(s.holders.any (fun h => h.reqId = r.reqId.toNat)) then
    ((s.sendCtl src epoch gkPullDone
      { gtag := r.gtag, status := Stat.expired, epoch := r.epoch, reqId := r.reqId, tenant := r.tenant, dreq := r.dreq }).pumpCtl)
  else match s.holderFor src r.epoch r.reqId.toNat with
    | (s, none) => s
    | (s, some h) =>
      let s := { s with holders := s.holders.map (fun (x : HolderRec) => if x.idx = h.idx && x.reqId = h.reqId then { x with ttl := none } else x) }
      if s.fab.grafts.any (fun g => g.send && g.mode = .pull && g.live && g.peer = src && g.gtag = r.gtag) then s
      else
        let g : Graft := { send := true, mode := .pull, req := h.idx, reqId := h.reqId, tenant := h.tenant, peer := src, gtag := r.gtag,
                           dreq := r.dreq, epoch := r.epoch, mapEpoch := epoch, phase := .moving, credits := r.landCredits,
                           todo := h.pages.map (fun e => .frame e.1 e.2 (Tbl.getD h.lens e.1 0)), compress := (s.tenant h.tenant).t3Compress,
                           lastPosted := true, answered := some Stat.ok, started := s.ltu }
        (({ s with fab := { s.fab with grafts := s.fab.grafts ++ [g] } }).graftPump)

/-- PULL received (R328). -/
def execPull (src : BitVec 12) (mapEpoch : BitVec 16) (r : GRec) (s : State) : Host.Outcome State Fault Refusal :=
  s.onRecord src.toNat mapEpoch.toNat r false (fun s => s.pullIn src.toNat mapEpoch.toNat r)

/-- The pull of a request this device owns has brought every plot (R42, R328). -/
def State.pullWhole (s : State) (k : Nat) : State :=
  let g := s.graft k
  if g.send || g.mode ≠ .pull || g.phase ≠ .committing || !(s.req g.req).pull.isEmpty then s
  else ((s.sendCtl g.peer g.mapEpoch gkPullDoneAck g.recFor).closeGraft k true).pumpCtl

/-- The holder's plots of a request are gone: it waits for its re-prefill (R40, R41, R44). -/
def State.plotsGone (s : State) (i : Nat) : State :=
  let r := s.req i
  let s := (s.dropPlots i).updReq i (fun r => { r with pages := [], parkTarget := 0, peer := 0, pullDone := false })
  if r.st = .parked then s.updReq i (fun r => { r with st := .expired }) else s.updReq i (fun r => { r with backTo := .expired })

/-- PULL_DONE (R328): every frame has been sent, or the holder's plots have expired. -/
def State.pullDoneIn (s : State) (src epoch : Nat) (r : GRec) : State :=
  match s.findGraft (fun g => !g.send && g.mode = .pull && g.live && g.peer = src && g.gtag = r.gtag && g.reqId = r.reqId.toNat) with
  | none => s
  | some k =>
    if r.status ≠ Stat.ok then ((s.closeGraft k false).plotsGone (s.graft k).req)
    else ((s.updGraft k (fun g => { g with phase := .committing })).pullWhole k)

/-- PULL_DONE received (R328). -/
def execPullDone (src : BitVec 12) (mapEpoch : BitVec 16) (r : GRec) (s : State) : Host.Outcome State Fault Refusal :=
  s.onRecord src.toNat mapEpoch.toNat r false (fun s => s.pullDoneIn src.toNat mapEpoch.toNat r)

/-- PULL_DONE_ACK (R43, R328): the holder frees the parked plots. -/
def State.pullDoneAckIn (s : State) (src epoch : Nat) (r : GRec) : State :=
  let s := match s.findGraft (fun g => g.send && g.mode = .pull && g.live && g.peer = src && g.gtag = r.gtag) with
    | some k => s.closeGraft k true
    | none => s
  match s.holders.find? (fun h => h.reqId = r.reqId.toNat && h.dev = src && h.epoch = r.epoch) with
  | some h => (s.dropHolder h)
  | none => s

/-- PULL_DONE_ACK received (R328). -/
def execPullDoneAck (src : BitVec 12) (mapEpoch : BitVec 16) (r : GRec) (s : State) : Host.Outcome State Fault Refusal :=
  s.onRecord src.toNat mapEpoch.toNat r false (fun s => s.pullDoneAckIn src.toNat mapEpoch.toNat r)

/-- RELEASE (R41, R43): the holder frees a parked request. -/
def State.releaseIn (s : State) (src epoch : Nat) (r : GRec) : State :=
  match (s.meetClaim src r.epoch r.reqId.toNat).holderFor src r.epoch r.reqId.toNat with
  | (s, none) => s
  | (s, some h) =>
    let s := match s.findGraft (fun g => g.send && g.mode = .pull && g.live && g.reqId = h.reqId) with
      | some k => s.closeGraft k false
      | none => s
    (s.dropHolder h)

/-- RELEASE received (R328). -/
def execReleaseRec (src : BitVec 12) (mapEpoch : BitVec 16) (r : GRec) (s : State) : Host.Outcome State Fault Refusal :=
  s.onRecord src.toNat mapEpoch.toNat r false (fun s => s.releaseIn src.toNat mapEpoch.toNat r)

/-- EXPIRED (R40): the owner's request is EXPIRED; one being pulled is re-prefilled (R41). -/
def State.expiredIn (s : State) (src epoch : Nat) (r : GRec) : State :=
  let s := s.meetClaim src r.epoch r.reqId.toNat
  match s.reqBy r.reqId.toNat r.tenant.toNat with
  | none => s
  | some i =>
    let q := s.req i
    if q.peer ≠ src || !(q.pages.any (fun e => e.2 = .holder)) || (q.st ≠ .parked && q.st ≠ .resuming) then s
    else
      let s := match s.findGraft (fun g => !g.send && g.mode = .pull && g.live && g.req = i) with
        | some k => s.closeGraft k false
        | none => s
      (s.plotsGone i)

/-- EXPIRED received (R328). -/
def execExpiredRec (src : BitVec 12) (mapEpoch : BitVec 16) (r : GRec) (s : State) : Host.Outcome State Fault Refusal :=
  s.onRecord src.toNat mapEpoch.toNat r false (fun s => s.expiredIn src.toNat mapEpoch.toNat r)

/-- GRAFT_CNT_CLR (R335). -/
def execGraftCntClr (s : State) : Host.Outcome State Fault Refusal :=
  if !s.live then .next s
  else .next { s with fab := { s.fab with gCommitted := 0, gAborted := 0, gRefused := 0, gBytes := 0 } }

/-! ## Data and frames (R315, R324, R326, R329) -/

/-- The open graft a packet belongs to (R329, R413). -/
def State.graftFor (s : State) (c : Nat) (p : Pkt) : Option Nat :=
  s.findGraft (fun g => !g.send && g.live && g.peer = p.src && g.dreq = gDreq p && g.gtag = gTag p && g.tenant = (s.conn c).tenant && s.honours g.mapEpoch)

/-- What a graft message carries is kept with it. -/
def State.tagMsg (s : State) (c : Nat) (p : Pkt) (slot : Option Nat) : State :=
  s.updConn c (fun y => { y with inm := y.inm.map (fun (m : InMsg) =>
    if m.msn = rqMsn p then { m with gtag := some (gTag p), journal := rqJournal p, slot := slot, page := gPage p / 16 } else m) })

/-- Where a GRAFT_DATA packet is placed, or why not: in the journal's plots, or where the HD slice maps it (R324). -/
def State.graftAddr (s : State) (p : Pkt) : State × Except Nat Nat :=
  let r := s.req (gDreq p)
  let off := 4096 * (gPage p + rqPidx p)
  if rqJournal p then
    if off + p.data.length ≤ 65536 * r.jplots.length then (s, .ok (journalAddr (nth r.jplots (off / 65536) 0) + off % 65536)) else (s, .error Stat.graftInvalid)
  else match s.translate 4 r.seq.asid r.tenant (r.seq.base + off) .write 63 with
    | (s, .ok a) => (s, .ok a)
    | (s, .error _) => (s, .error Stat.translationFault)

/-- A GRAFT_DATA packet (R315, R324, R329). -/
def State.graftDataIn (s : State) (p : Pkt) : State :=
  match s.admitData p with
  | (s, none) => s
  | (s, some c) =>
    match s.graftFor c p with
    | none => s.sendErr c (rqMsn p) Stat.graftInvalid
    | some _ =>
      match (s.tagMsg c p none).graftAddr p with
      | (s, .error st) => s.sendErr c (rqMsn p) st
      | (s, .ok a) =>
        let st := if rqJournal p then s.accStatus (.fabric (s.conn c).home) .write a p.data.length
          else s.keyedStatus (s.conn c).home 0xFFFF .write a p.data.length
        if st ≠ Stat.ok then (s.violateAt (.fabric (s.conn c).home) a).sendErr c (rqMsn p) Stat.graftInvalid
        else (s.putOrHold c p a (s.conn c).tenant).tryCommits

/-- GRAFT_DATA_RECEIVE (R324). -/
def execGraftDataReceive (p : Pkt) (s : State) : Host.Outcome State Fault Refusal :=
  if !s.live then .next s else .next ((s.arrive p).1.graftDataIn (s.arrive p).2)

/-- Address of a landing slot in the staging SRAM (R326). -/
def slotAddr (k : Nat) : Nat := 0x28001000000 + 65536 * k

/-- A frame's plot, or none when it fails its checks (R245, R333). -/
def expandFrame (bs : List Byte) : Option (List Byte) :=
  if bs.length = 65536 then some bs
  else
    let h := bs.take 144
    let n := hdFrameBytes h
    if n ≤ bs.length && frameStatus h n = Stat.ok then wantedBlocks h (bs.drop 144) 0 63 else none

/-- What is wrong with a frame that cannot be restored (R245). -/
def frameWrong (bs : List Byte) : Nat :=
  let st := frameStatus (bs.take 144) (hdFrameBytes (bs.take 144))
  if bs.length < 144 then Stat.checkFailed else if st = Stat.ok then Stat.frameInvalid else st

/-- Room in T1 or T2 for a pulled page (R208, R211); none when there is none yet. -/
def State.roomPulled (s : State) (i page : Nat) : Option State :=
  let compat := s.cfg.dev.compat
  let s0 := s.updReq i (fun r => { r with pages := Tbl.del r.pages page })
  match s0.allocOrPrune i page (if compat then [1] else [1, 2]) (!compat) with
  | (_, false) => none
  | (s, true) => some s

/-- Where a page of a request lies. -/
def State.pagePlace (s : State) (i page : Nat) : Place := (Tbl.find? (s.req i).pages page).getD .holder

/-- A page of the pull that lies in its place is done. -/
def State.pullKept (s : State) (i page : Nat) : State :=
  s.updReq i (fun r => { r with pull := r.pull.filter (· ≠ page), pullDone := (r.pull.filter (· ≠ page)).isEmpty })

/-- A pulled page's bytes reach the plot placed for it. -/
def State.fillPulled (s : State) (i page : Nat) (data : List Byte) : State :=
  (match (s.pagePlace i page).addr with
    | some a => s.putMem (.dma 4 true) a data
    | none => s).pullKept i page

/-- A pulled page is placed (R208, R211); false when there is no room yet. -/
def State.placePulled (s : State) (i page : Nat) (data : List Byte) : State × Bool :=
  match s.roomPulled i page with
  | none => (s, false)
  | some s => (s.fillPulled i page data, true)

/-- The compute die whose compressor restores a frame: the one that holds the plot's T1 channel, CD0 for T2, another while
that die's clock is lost (R73, R326). -/
def State.unpackDie (s : State) (p : Place) : Nat :=
  if (s.die p.die).clockLost then ([0, 1, 2, 3].find? (fun k => !(s.die k).clockLost)).getD 0 else p.die

/-- A whole frame of a pull: it waits in its slot for room, then it is decompressed into the plot placed for it; one that
fails its check loses the plot, and the request is re-prefilled (R211, R326, R333). -/
def State.framePulled (s : State) (k page slot n : Nat) : State :=
  let g := s.graft k
  let s := s.updGraft k (fun g => { g with waiting := g.waiting.filter (fun w => w.1 ≠ page) })
  let bs := s.bytes (slotAddr slot) n
  match s.roomPulled g.req page with
  | none => s.updGraft k (fun g => { g with waiting := g.waiting ++ [(page, slot, n)] })
  | some s => match expandFrame bs with
    | none => ((s.countRefused (s.unpackDie (s.pagePlace g.req page)) (frameWrong bs)).abortGraft k).recover g.req
    | some plot => (s.fillPulled g.req page plot).pullWhole k

/-- A whole frame of a park is stored as it stands, in the room reserved for it (R201, R326, R328). -/
def State.frameParked (s : State) (k page slot n : Nat) : State :=
  let g := s.graft k
  match s.holders.find? (fun h => h.idx = g.dreq && h.reqId = g.reqId) with
  | none => s
  | some h =>
    let bs := s.bytes (slotAddr slot) n
    let have_ := Tbl.find? h.pages page
    let place := match have_ with
      | some p => some p
      | none => h.spare.head?
    match place with
    | none => s
    | some p =>
      let s := match p with
        | .t3 x => (match s.ftl.place x (cdiv n 4096) false s.ltu with
          | some f => ({ s with ftl := f }.t3Put x bs).countT3 (some g.tenant) x true
          | none => s.updFtl (fun f => { f with map := Tbl.upd f.map x { sectors := 16, block := 0, first := 0 } (fun q => { q with lost := true, held := false }) }))
        | _ => (match p.addr with
          | some a => (s.placeBytes a bs).countTier g.tenant a n true
          | none => s)
      let h' := { h with pages := Tbl.put h.pages page p, lens := Tbl.put h.lens page n, spare := if have_.isSome then h.spare else h.spare.drop 1 }
      { s with holders := s.holders.map (fun x => if x.idx = h.idx && x.reqId = h.reqId then h' else x) }

/-- Landing slots of a graft that no open message and no waiting frame uses. -/
def State.freeSlot (s : State) (g : Graft) : Option Nat :=
  let busy := g.waiting.map (fun w => w.2.1) ++ s.fab.conns.flatMap (fun e => e.2.inm.filterMap (fun m => if m.done then none else m.slot))
  g.slots.find? (fun k => !(busy.contains k))

/-- A GRAFT_FRAME packet (R315, R326, R329). -/
def State.graftFrameIn (s : State) (p : Pkt) : State :=
  match s.admitData p with
  | (s, none) => s
  | (s, some c) =>
    match s.graftFor c p with
    | none => s.sendErr c (rqMsn p) Stat.graftInvalid
    | some k =>
      let g := s.graft k
      let m := (s.conn c).inm.find? (fun m => m.msn = rqMsn p)
      let slot := match m.bind (fun m => m.slot) with
        | some x => some x
        | none => s.freeSlot g
      match slot, m with
      | some x, some m =>
        if (g.mode ≠ .park && g.mode ≠ .pull) || 16 ≤ rqPidx p then s.sendErr c (rqMsn p) Stat.graftInvalid
        else
          let s := (s.tagMsg c p (some x)).placeBytes (slotAddr x + 4096 * rqPidx p) p.data
          let whole := (List.range (m.npktM1 + 1)).all (fun i => m.bitmap.testBit i || i = rqPidx p)
          let n := m.bytes + p.data.length
          let s := (s.countRx g.tenant p.via (32 * p.flits)).placed c p p.data.length
          let s := if !whole then s else if g.mode = .pull then s.framePulled k (gPage p / 16) x n else s.frameParked k (gPage p / 16) x n
          s.tryCommits
      | _, _ => s.sendErr c (rqMsn p) Stat.graftInvalid

/-- GRAFT_FRAME_RECEIVE (R326). -/
def execGraftFrameReceive (p : Pkt) (s : State) : Host.Outcome State Fault Refusal :=
  if !s.live then .next s else .next ((s.arrive p).1.graftFrameIn (s.arrive p).2)

/-! ## Contexts (R308) -/

/-- A record and its GKIND as a packet's bytes give them (R327, R328; the fields' places are log 20's). -/
def recOf (bs : List Byte) : Nat × GRec :=
  let n := ofBytes ((bs.drop 0x12).take 2)
  let w := ofBytes (bs.take n)
  let k := fld w 0 1
  let g : GRec := { crcOk := decide (0x1C ≤ n) && decide (n ≤ bs.length) && crc32c (bs.take (n - 4)) = fld w (n - 4) 4, gmode := fld w 1 1,
                    status := fld w 2 2, gtag := fld w 4 2, epoch := fld w 6 2, reqId := BitVec.ofNat 64 (fld w 8 8),
                    tenant := BitVec.ofNat 16 (fld w 0x10 2), dreq := bits w (8 * 0x14) 17 }
  (k, match k with
    | 1 => { g with entry := BitVec.ofNat 2048 (fld w 0x18 256), pruneFloor := fld w 0x118 4, remain := BitVec.ofNat 64 (fld w 0x11C 8),
                    journalLen := fld w 0x124 4, layers := fld w 0x128 1, kvHeads := fld w 0x129 1, headDim := fld w 0x12A 1,
                    kvFmt := fld w 0x12B 1, pageBits := fld w 0x12C 1, plots := fld w 0x12D 4, ttlMs := fld w 0x131 4, holder := fld w 0x135 2 }
    | 2 => { g with landCredits := fld w 0x18 1 }
    | 3 => { g with token := fld w 0x18 4, tokenIdx := fld w 0x1C 4, journalLen := fld w 0x20 4, remain := BitVec.ofNat 64 (fld w 0x24 8),
                    reprefill := fld w 0x2C 1 = 1, vlen := (List.range (fld w 0x2D 1)).map (fun l => fld w (0x2E + 4 * l) 4) }
    | 6 => { g with landCredits := fld w 0x18 1 }
    | _ => g)

/-- What a record does, by its GKIND (R328). -/
def State.actRecord (s : State) (src epoch : Nat) : Nat × GRec → State
  | (1, r) => s.openIn src epoch r
  | (2, r) => s.openAckIn src epoch r
  | (3, r) => s.commitIn src epoch r
  | (4, r) => s.commitAckIn src epoch r
  | (5, r) => s.abortIn src epoch r
  | (6, r) => s.pullIn src epoch r
  | (7, r) => s.pullDoneIn src epoch r
  | (8, r) => s.pullDoneAckIn src epoch r
  | (9, r) => s.releaseIn src epoch r
  | (10, r) => s.expiredIn src epoch r
  | _ => s

/-- A GRAFT_CTL packet that waited for its context (R308, R327). -/
def State.recordPacket (s : State) (p : Pkt) : State :=
  match s.admitData p with
  | (s, none) => s
  | (s, some c) =>
    let kr := recOf p.data
    match s.judgeRecord c (some p) p.mapEpoch kr.2 (kr.1 = 1) with
    | (s, false) => s
    | (s, true) => s.actRecord p.src p.mapEpoch kr

/-- A packet of the RAE that waited for its context, by its type (R308, R314). -/
def State.raePacket (s : State) (p : Pkt) : State :=
  match p.ptype with
  | 0x10 => s.rqWrite p
  | 0x11 => s.rqReadReq p false
  | 0x12 => s.rqReadResp p
  | 0x13 => (s.raeAck p).graftPump
  | 0x14 => s.rqErr p
  | 0x15 => s.graftDataIn p
  | 0x16 => s.graftFrameIn p
  | 0x17 => s.recordPacket p
  | _ => s

/-- Packets that waited for a context are handled in order (R308). -/
def State.missRun (s : State) (d c : Nat) : State :=
  let ps := (s.lnd d).miss.filter (fun p => rqConn p = c)
  let s := s.updLnd d (fun y => { y with miss := y.miss.filter (fun p => rqConn p ≠ c) })
  ps.foldl (fun s p => s.raePacket p) s

/-- A link die's packets or the heads of its send queues want a context (R308). -/
def State.wantsContext (s : State) (d c : Nat) : Bool :=
  (s.lnd d).miss.any (fun p => rqConn p = c) ||
    (List.range 256).any (fun q => s.sqReady (256 * d + q) && weConn (s.sqEntry (256 * d + q)) = c)

/-- CONTEXT_FILL (R308): a context that a packet or a work entry needs is read from its slot, spilling the least recently
used; with none to spill it waits. -/
def execContextFill (die : Fin 2) (conn : BitVec 20) (s : State) : Host.Outcome State Fault Refusal :=
  let c := conn.toNat
  let x := s.conn c
  let d := die.val
  if !s.live || x.home ≠ d || x.cached || x.state = .reset || !(s.wantsContext d c) then .next s
  else match s.makeRoom d with
    | none => .next s
    | some s => .next (((s.updConn c (fun _ => s.readContext c)).updLnd d (fun y => { y with fills := satAdd 32 y.fills 1 })).missRun d c)

end Sys2Proof.Machine
end

