-- ==== Sys2Proof/Machine/Tiers.lean ====
section
/-!
DEFINITION. Sys2Proof/Machine/Tiers.lean: the tier manager's own operations: FREE, MOVE, PIN, the park in the owner's tiers, the
placing of a pull, and the plots of a superseded table (R202 to R212, R249 to R254).
-/
namespace Sys2Proof.Machine

/-! ## Whose page -/

/-- The request whose page a virtual page is, with the page's number in its range and its place. -/
def State.pageReq (s : State) (asid vpn : Nat) : Option (Nat × Nat × Place) :=
  (Tbl.keys s.reqs).findSome? (fun i =>
    let r := s.req i
    if r.isLive && r.seq.asid = asid && decide (r.seq.base / 65536 ≤ vpn) then
      (Tbl.find? r.pages (vpn - r.seq.base / 65536)).map (fun p => (i, vpn - r.seq.base / 65536, p))
    else none)

/-- The model slot whose plot a virtual page maps, with the plot's place. -/
def State.pageSlot (s : State) (asid vpn : Nat) : Option (Nat × Place) :=
  (Tbl.keys s.slots).findSome? (fun k =>
    let m := s.slot k
    if m.st ≠ .empty && (s.tenant m.tenant).asid = asid then (Tbl.find? m.plots vpn).map (fun p => (k, p)) else none)

/-- A plot of a model slot is freed, its leaf EMPTY (R202). -/
def State.freeSlotPlot (s : State) (k vpn : Nat) : State :=
  let m := s.slot k
  match Tbl.find? m.plots vpn with
  | none => s
  | some p => ((s.setPage (s.tenant m.tenant).asid vpn leafEmpty).updSlot k (fun m => { m with plots := Tbl.del m.plots vpn })).freePlace m.tenant p

/-- A MOVE of the virtual page is under way. -/
def State.inMove (s : State) (asid vpn : Nat) : Bool := s.pools.moves.any (fun m => m.asid = asid && m.vpn = vpn)

/-- FREE (R202, R204): of a plot that no queued or running command can reach and no other operation of the tier manager
touches (R203). -/
def execTierFree (asid : BitVec 16) (vpn : Nat) (s : State) : Host.Outcome State Fault Refusal :=
  let a := asid.toNat
  if !s.live || s.inMove a vpn then .next s
  else match s.pageReq a vpn, s.pageSlot a vpn with
    | some (i, page, p), _ => if s.reqNamed i || s.tierBusy i || p = .holder then .next s else .next (s.freePage i page leafEmpty)
    | none, some (k, _) => if s.slotNamed k then .next s else .next (s.freeSlotPlot k vpn)
    | none, none => .next s

/-! ## MOVE (R205, R208) -/

def tierCode : Tier → Nat
  | .t1 => 1
  | .t2 => 2
  | .t3 => 3

/-- A request that rebalancing may serve: in DECODE, its plots free of other work, with T1 room for its tenant
(R203, R204, R208). -/
def State.movable (s : State) (i : Nat) : Bool :=
  let r := s.req i
  r.isLive && r.st = .decode && !(s.reqNamed i) && !(s.tierBusy i) && decide (0 < s.quotaLeft r.tenant 1)

/-- The page of a request that rebalancing takes next: in T2, its T1 channel has a free plot, the lowest page index first
(R208). -/
def State.rebalancePage (s : State) (i : Nat) : Option Nat :=
  let r := s.req i
  let ps := (r.pages.filter (fun e => e.2.tier = 2 && decide (0 < s.chanFree (r.seq.chan e.1)))).map (·.1)
  match ps with
  | [] => none
  | p :: ps => some (ps.foldl (fun b q => if r.seq.pageIdx q < r.seq.pageIdx b then q else b) p)

/-- The request that rebalancing serves next: the most recently active, the lower index on a tie (R208). -/
def State.rebalanceReq (s : State) : Option Nat :=
  match (Tbl.keys s.reqs).filter (fun i => s.movable i && (s.rebalancePage i).isSome) with
  | [] => none
  | i :: is => some (is.foldl (fun b j => if (s.req b).seq.lastActive < (s.req j).seq.lastActive then j else b) i)

/-- The place a MOVE of a request's page goes to: T1 for rebalancing; for a page in T3, where R151 places it with T2 as
the lowest tier, made room for by pruning (R208). -/
def State.moveDst (s : State) (i page : Nat) (p : Place) : Option (State × Place) :=
  let r := s.req i
  let ch := r.seq.chan page
  let t1 := fun (s : State) => if s.quotaLeft r.tenant 1 = 0 then none else s.takePlot 1 ch
  if p.tier = 2 then
    if s.rebalanceReq = some i && s.rebalancePage i = some page && decide (s.pools.rebalanced < s.cfg.dev.rebalance) then
      (t1 s).map (fun x => ({ x.1 with pools := { x.1.pools with rebalanced := x.1.pools.rebalanced + 1 } }, x.2))
    else none
  else if p.tier = 3 && (r.st = .decode || r.st = .prefill || r.st = .reprefill) && !(s.reqNamed i) && !(s.tierBusy i) && decide (r.seq.pageIdx page * r.seq.tp < r.seq.maxLen) then
    match t1 s with
    | some x => some x
    | none => match s.makeSpace (some i) r.tenant 2 1 (s.reqs.length + 1) with
      | (s, true) => s.takePlot 2 ch
      | (_, false) => none
  else none

/-- Firmware writes INV_VA and INV_CMD for one page (R161). -/
def State.startInv (s : State) (asid vpn : Nat) : State :=
  { s with atu := { s.atu with invVa := vpn * 65536 } }.invCmd (.range asid vpn 1)

/-- Step 1 of a MOVE (R205): the leaf is MOVING, and the range is invalidated. -/
def State.beginMove (s : State) (m : MoveRec) : State :=
  (({ s with pools := { s.pools with moves := m :: s.pools.moves } }.setLeaf m.asid m.vpn leafMoving)).startInv m.asid m.vpn

/-- MOVE of a request's page (R202, R205, R208). No case of R208 moves a model slot's plot. Firmware waits for
INV_STATUS.BUSY to clear first (R161). -/
def execTierMove (asid : BitVec 16) (vpn : Nat) (tier : Tier) (s : State) : Host.Outcome State Fault Refusal :=
  let a := asid.toNat
  if !s.live || s.atu.invBusy.isSome || s.inMove a vpn then .next s
  else match s.pageReq a vpn with
    | some (i, page, p) => match s.moveDst i page p with
      | some (s', d) => if d.tier = tierCode tier then .next (s'.beginMove ⟨.first, a, vpn, i, page, p, d⟩) else .next s
      | none => .next s
    | none => .next s

/-- The tenant a MOVE's plot is charged to (R207). -/
def State.moveTenant (s : State) (m : MoveRec) : Nat := (s.req m.req).tenant

def State.setMove (s : State) (m : MoveRec) (stage : MoveStage) : State :=
  { s with pools := { s.pools with moves := s.pools.moves.map (fun x => if x.asid = m.asid && x.vpn = m.vpn then { x with stage := stage } else x) } }

def State.endMove (s : State) (m : MoveRec) : State :=
  { s with pools := { s.pools with moves := s.pools.moves.filter (fun x => !(x.asid = m.asid && x.vpn = m.vpn)) } }.heldCancel m.req

/-- What an invalidation's end lets a MOVE do: the copy starts, charged in both tiers (R207), or the source is freed. -/
def State.moveInvalidated (s : State) (m : MoveRec) : State :=
  match m.stage with
  | .first => (s.charge (s.moveTenant m) m.dst.tier).setMove m .copy
  | .second => (s.freePlace (s.moveTenant m) m.src).endMove m
  | _ => s

/-- The second invalidation of a MOVE starts when the unit is free (R161, R205). -/
def State.secondInv (s : State) : State :=
  if s.atu.invBusy.isSome then s
  else match s.pools.moves.find? (fun m => m.stage = .remapped) with
    | some m => (s.setMove m .second).startInv m.asid m.vpn
    | none => s

/-- INVALIDATION_DONE (R131, R161): every slice has dropped the named translations; DONE sets and BUSY clears, and the
MOVEs that waited for it go on (R205). -/
def execInvalidationDone (s : State) : Host.Outcome State Fault Refusal :=
  match s.atu.invBusy with
  | none => .next s
  | some sc =>
    if !s.live then .next s
    else
      let s := s.dropTlb sc
      let s := { s with atu := { s.atu with invBusy := none, invDone := true } }
      .next ((s.pools.moves.foldl (fun (s : State) (m : MoveRec) => if sc.names m.asid m.vpn 0 then s.moveInvalidated m else s) s).secondInv)

/-- A plot's bytes written to a place, through the hold queue of a channel outside MEMORY, and counted to the tenant; none
when flash does not take them (R169, R201, R205, R391). -/
def State.fillPlace (s : State) (tn : Nat) (p : Place) (bs : List Byte) : Option State :=
  match p with
  | .t3 h =>
    let compress := (s.tenant tn).t3Compress && (s.compFor 0).isSome
    (s.ftlWrite h compress bs).map (fun s =>
      let s := if compress then (s.packPlot 0 bs).1 else s
      s.countT3 (some tn) h true)
  | _ => match p.addr with
    | some a => some ((s.putMem (.dma 4 true) a bs).countTier tn a 65536 true)
    | none => none

/-- A plot's bytes read for a copy, counted (R391). -/
def State.countRead (s : State) (tn : Nat) (p : Place) : State :=
  match p with
  | .t3 h => s.countT3 (some tn) h false
  | _ => match p.addr with
    | some a => s.countTier tn a 65536 false
    | none => s

/-- TIER_MOVE_FAILED (R205, R373). -/
def State.moveFailed (s : State) (m : MoveRec) (status : Nat) : State :=
  s.tenantEvent (s.req m.req).tenant 0x05 0xFFFFFFFF (s.req m.req).reqId 0 status

/-- The leaf of a MOVE and the place its owner records for the plot. -/
def State.remap (s : State) (m : MoveRec) (p : Place) : State :=
  (s.setLeaf m.asid m.vpn p.leaf).updReq m.req (fun r => { r with pages := Tbl.put r.pages m.page p })

/-- The source of a MOVE is lost (R205): the plot goes, and the request waits for its re-prefill (R44). -/
def State.moveLost (s : State) (m : MoveRec) : State :=
  ((s.freePage m.req m.page leafEmpty).updReq m.req (fun r => { r with lost := true })).endMove m

/-- A copy of a MOVE ends (R205, steps 3 and 4). -/
def State.moveCopied (s : State) (m : MoveRec) (status : Nat) : State :=
  let tn := s.moveTenant m
  let back := fun (s : State) => (((s.freePlace tn m.dst).remap m m.src).moveFailed m status).endMove m
  if status = Stat.poisoned || s.placeLost m.src then (s.freePlace tn m.dst).moveLost m
  else if status ≠ Stat.ok then back s
  else match (s.countRead tn m.src).fillPlace tn m.dst (s.placeData m.src) with
    | none => back s
    | some s =>
      let s := s.remap m m.dst
      if m.src.tier = 3 then (s.freePlace tn m.src).endMove m else (s.setMove m .remapped).secondInv

/-! ## Parks in the owner's tiers (R39, R210) -/

/-- Tiers whose plots a park moves. -/
def parkFrom (target : Nat) : List Nat := if target = 2 then [1] else [1, 2]

/-- A local park commits (R210, R212). -/
def State.commitPark (s : State) (i : Nat) : State :=
  let r := s.req i
  let s := r.parkCopies.foldl (fun (s : State) c =>
    match Tbl.find? (s.req i).pages c.1 with
    | none => s
    | some old =>
      let s := (s.updReq i (fun r => { r with pages := Tbl.put r.pages c.1 c.2.1 })).setPage r.seq.asid (r.seq.vpn c.1) c.2.1.leaf
      (s.freePlace r.tenant old).charge r.tenant c.2.1.tier) s
  let s := s.updReq i (fun r => { r with st := .parked, parkCopies := [], opPark := none, parkAt := s.ltu, ttlOn := true })
  (s.completeIf r.opPark r.reqId 2 Stat.ok r.pages.length).rebind i

/-- Room for every plot that must move, without charge (R210); none when a plot finds none. -/
def State.reservePark (s : State) (tier : Nat) : List Nat → Option (State × List (Nat × Place × Bool))
  | [] => some (s, [])
  | p :: ps => match s.takePlot tier 0 with
    | none => none
    | some (s, d) => (State.reservePark s tier ps).map (fun x => (x.1, (p, d, false) :: x.2))

/-- LOCAL_PARK (R210): room is reserved and the copies start; with nothing to move the park commits at once. -/
def execLocalPark (req : Nat) (s : State) : Host.Outcome State Fault Refusal :=
  let r := s.req req
  if !s.live || !r.isLive || r.st ≠ .parking || (r.parkTarget ≠ 2 && r.parkTarget ≠ 3) || !r.parkCopies.isEmpty || s.reqNamed req || s.tierBusy req then .next s
  else
    let ps := (r.pages.filter (fun e => (parkFrom r.parkTarget).contains e.2.tier)).map (·.1)
    if ps.isEmpty then .next (s.commitPark req)
    else if s.quotaLeft r.tenant r.parkTarget < ps.length then .next (s.killPark req Stat.quotaExceeded 0)
    else match s.reservePark r.parkTarget ps with
      | none => .next (s.killPark req Stat.quotaExceeded 0)
      | some (s, cs) => .next (s.updReq req (fun r => { r with parkCopies := cs }))

/-- A copy of a park ends; the last one commits it, and a failed one ends it (R41, R210). -/
def State.parkCopied (s : State) (i page : Nat) (dst : Place) (status : Nat) : State :=
  let r := s.req i
  match Tbl.find? r.pages page with
  | none => s
  | some src =>
    if status = Stat.poisoned || s.placeLost src then (s.killPark i Stat.graftFailed 0).updReq i (fun r => { r with lost := true })
    else if status ≠ Stat.ok then s.killPark i Stat.graftFailed 0
    else match (s.countRead r.tenant src).fillPlace r.tenant dst (s.placeData src) with
      | none => s.killPark i Stat.graftFailed 0
      | some s =>
        let s := s.updReq i (fun r => { r with parkCopies := r.parkCopies.map (fun c => if c.1 = page then (c.1, c.2.1, true) else c) })
        if (s.req i).parkCopies.all (fun c => c.2.2) then s.commitPark i else s

/-- The park copy of a virtual page that has not completed. -/
def State.parkCopyOf (s : State) (asid vpn : Nat) : Option (Nat × Nat × Place) :=
  match s.pageReq asid vpn with
  | none => none
  | some (i, page, _) => ((s.req i).parkCopies.find? (fun c => c.1 = page && !c.2.2)).map (fun c => (i, page, c.2.1))

/-- MOVE_COPY_DONE (R205, R210): the copy of one plot, of a MOVE or of a park, has completed with a status; the read of a T3
source decoded as given (R226). -/
def execMoveCopyDone (asid : BitVec 16) (vpn : Nat) (fin : CopyEnd) (s : State) : Host.Outcome State Fault Refusal :=
  let a := asid.toNat
  if !s.live then .next s
  else match s.pools.moves.find? (fun m => m.asid = a && m.vpn = vpn && m.stage = .copy), s.parkCopyOf a vpn with
    | some m, _ => if s.placeOpen m.src then .next ((s.placeRead m.src fin.read).moveCopied m fin.status) else .next s
    | none, some (i, page, d) => if ((Tbl.find? (s.req i).pages page).all s.placeOpen) then .next (s.parkCopied i page d fin.status) else .next s
    | none, none => .next s

/-! ## Pulls (R211) -/

/-- T1 has room for a page of a request. -/
def State.roomT1 (s : State) (i page : Nat) : Bool :=
  let r := s.req i
  decide (0 < s.quotaLeft r.tenant 1) && decide (0 < s.chanFree (r.seq.chan page))

/-- A page in the owner's own tiers is placed (R211); one that can no longer be read loses the plots (R44). A T3 page's
read decodes as given (R226). -/
def State.pullLocal (s : State) (i page : Nat) (old : Place) (o : LdpcOutcome) : State :=
  let tn := (s.req i).tenant
  if s.placeLost old then s.recover i
  else if !(s.placeOpen old) then s
  else if old.tier = 1 || (old.tier = 2 && !(s.roomT1 i page) && !s.cfg.dev.compat) then s.pullKept i page
  else if (s.placeRead old o).placeLost old then (s.placeRead old o).recover i
  else match s.placePulled i page (s.placeData old) with
    | (s, true) => ((s.countRead tn old).placeRead old o).freePlace tn old
    | (s, false) => s

/-- A page on a holder is placed once its frame has come; until then the pull is opened when it is not (R326, R328). -/
def State.pullRemote (s : State) (i page : Nat) : State :=
  match s.findGraft (fun g => !g.send && g.mode = .pull && g.live && g.req = i) with
  | none => s.sendPull i
  | some k => match (s.graft k).waiting.find? (fun w => w.1 = page) with
    | some w => s.framePulled k page w.2.1 w.2.2
    | none => s

/-- PULL_PLACE (R42, R208, R211): one page of a request being resumed. -/
def execPullPlace (req : Nat) (page : PulledPage) (s : State) : Host.Outcome State Fault Refusal :=
  let r := s.req req
  if !s.live || !r.isLive || r.st ≠ .resuming || r.resumeDev ≠ 0 || !(r.pull.contains page.page) then .next s
  else match Tbl.find? r.pages page.page with
    | some .holder => .next ((s.pullRemote req page.page).graftPump)
    | some p => .next (s.pullLocal req page.page p page.read)
    | none => .next (s.pullKept req page.page)

/-! ## PIN (R107, R202) -/

/-- One plot copied into a tile's resident region, charged in T0 unless its room already holds a plot of the slot. -/
def State.pinPlot (s : State) (tile slot off src : Nat) : State :=
  let m := s.slot slot
  let others := (Tbl.keys s.slots).filter (fun k => k ≠ slot && (s.slot k).pinned.contains (tile, off))
  let s := others.foldl (fun (s : State) k => (s.credit (s.slot k).tenant 0).updSlot k (fun x => { x with pinned := x.pinned.filter (· ≠ (tile, off)) })) s
  let s := if m.pinned.contains (tile, off) then s else (s.charge m.tenant 0).updSlot slot (fun x => { x with pinned := (tile, off) :: x.pinned })
  s.placeBytes (tileBase tile + off) (s.bytes src 65536)

/-- A plot may be pinned there now: whole, inside the resident region, the tile's RES_LOCK clear and its fence open
(R107, R202). -/
def State.pinOk (s : State) (tile off : Nat) : Bool :=
  off % 65536 = 0 && decide (off + 65536 ≤ (s.tile tile).resBytes) && s.accStatus .control .write (tileBase tile + off) 65536 = Stat.ok

/-- PIN (R202, R209, R427). -/
def execPin (tile : Fin 48) (slot : Nat) (off : Nat) (src : Nat) (s : State) : Host.Outcome State Fault Refusal :=
  let m := s.slot slot
  let room := m.pinned.contains (tile.val, off) || decide (0 < s.quotaLeft m.tenant 0)
  if !s.live || (m.st ≠ .loading && m.st ≠ .loaded) || !room || !(s.pinOk tile.val off) || s.accStatus .control .read src 65536 ≠ Stat.ok || !(s.memOpen src 65536) then .next s
  else .next (s.pinPlot tile.val slot off src)

/-! ## Superseded tables (R249 to R254) -/

/-- Virtual pages of a range. -/
def pagesOf (va n : Nat) : List Nat := if n = 0 then [] else rangeFrom (va / 65536) ((va + n - 1) / 65536 + 1 - va / 65536)

/-- A directory entry of a table, read through the slot's plots; 0 where no plot maps it. -/
def State.dirEntry (s : State) (m : Slot) (d r : Nat) : Nat :=
  let va := tdDir d + 8 * r
  match (Tbl.find? m.plots (va / 65536)).bind Place.addr with
  | some a => s.rd (a + va % 65536) 8
  | none => 0

/-- Bytes from one row of a class to the next (R251). -/
def rowPitch (d c : Nat) : Nat :=
  let n := tdDim d
  if c = 0 then 2 * n else if c = 1 then roundUp (n + 4) 64 else roundUp (n / 2 + n / 32) 64

/-- Rows of a class store that the directory names (R250). -/
def State.classRows (s : State) (m : Slot) (d c : Nat) : Nat :=
  (List.range (tdRows d)).foldl (fun n r =>
    let e := s.dirEntry m d r
    if bits e 46 2 = c then Nat.max n (bits e 18 18 + 1) else n) 0

/-- Virtual pages a table version names: directory, class stores, bias rows, and the plot its descriptor lies in. -/
def State.tablePages (s : State) (m : Slot) (desc : Nat) : List Nat :=
  let d := s.rd desc 64
  pagesOf (tdDir d) (8 * tdRows d) ++
    ([0, 1, 2].map (fun c => pagesOf (tdClass d c) (s.classRows m d c * rowPitch d c))).flatten ++
    pagesOf (tdBias d) (tdBiasRows d * roundUp (2 * tdVocab d) 64) ++
    (m.plots.filter (fun e => match e.2.addr with
      | some a => decide (a ≤ desc) && decide (desc < a + 65536)
      | none => false)).map (·.1)

/-- TABLE_OLD_FREE (R254): no command that pinned the version is left, so its plots are freed, but for those the current
version also names. -/
def execTableOldFree (slot : Fin 16384) (version : BitVec 16) (s : State) : Host.Outcome State Fault Refusal :=
  let m := s.slot slot.val
  match m.oldTables.find? (fun o => o.1 = version.toNat) with
  | none => .next s
  | some o =>
    if !s.live || Tbl.getD m.pins o.2 0 ≠ 0 then .next s
    else
      let kept := if m.embDesc = 0 then [] else s.tablePages m m.embDesc
      let gone := (s.tablePages m o.2).filter (fun v => !(kept.contains v))
      let s := gone.foldl (fun (s : State) v => s.freeSlotPlot slot.val v) s
      .next (s.updSlot slot.val (fun m => { m with oldTables := m.oldTables.erase o, pins := Tbl.del m.pins o.2 }))

end Sys2Proof.Machine
end

