-- ==== Sys2Proof/Machine/Versions.lean ====
section
/-!
DEFINITION. Sys2Proof/Machine/Versions.lean: configuration versions: the image, its checks, and what a commit applies
(R384, R429 to R437).
-/
namespace Sys2Proof.Machine

/-! ## The image (R430, R431) -/

/-- A field of an image. -/
def imgAt (img : List Byte) (off n : Nat) : Nat := ofBytes ((img.drop off).take n)

/-- `n` records of `size` bytes. -/
def records (size : Nat) : Nat → List Byte → List Nat
  | 0, _ => []
  | n + 1, bs => ofBytes (bs.take size) :: records size n (bs.drop size)

/-- Offset and length of section k, 1 to 5. -/
def secSpan (img : List Byte) (k : Nat) : Nat × Nat := (imgAt img (8 * k) 4, imgAt img (8 * k + 4) 4)

/-- The bytes of a section that is present. -/
def imgSection (img : List Byte) (k : Nat) : Option (List Byte) :=
  let sp := secSpan img k
  if sp.2 = 0 then none else some ((img.drop sp.1).take sp.2)

/-- The last four bytes hold the CRC-32C of the rest. -/
def sectionCrcOk (bs : List Byte) : Bool := ofBytes (bs.drop (bs.length - 4)) == crc32c (bs.take (bs.length - 4))

/-- The places of the FABRIC section's arrays: the offset of each count. -/
structure FabricAt where
  peers : Nat
  link : Nat
  gate : Nat
  queue : Nat
  pol : Nat
  tmap : Nat
  fin : Nat

def fabricAt (bs : List Byte) : FabricAt :=
  let n := imgAt bs 0 4
  let l := 4 + 16 * n
  let g := l + 4 + 288
  let q := g + 4 + 36 * 528
  let p := q + 4 + 36 * 24
  let t := p + 4 + 8192 * 32
  ⟨n, l, g, q, p, t, t + 4 + 131072 * 4⟩

/-- A gate list of the section: ADMIN_BASE, TAKEOVER, LEN, entries with the CHECK hardware gives them (R344). -/
def gateEntries (bs : List Byte) (off : Nat) : List Nat :=
  (records 8 64 (bs.drop (off + 16))).map (fun e => bits e 0 56 + crc8 (toBytes 7 e) * 2 ^ 56)

/-! ## Checks (R432, R433) -/

/-- The first field that is not as it must be, by its offset. -/
def firstBad (l : List (Bool × Nat)) : Option Nat := (l.find? (fun e => !e.1)).map (·.2)

/-- The DEVICE section's fields, in their order (R432, R384, R49); `fid` is the FABRIC_ID in force, 0 before the first
version. -/
def deviceFields (bs : List Byte) (fid : Nat) : List (Bool × Nat) :=
  let f := imgAt bs
  let rng := fun (off n lo hi : Nat) => (decide (lo ≤ f off n) && decide (f off n ≤ hi), off)
  [rng 0 1 1 4, rng 1 1 0 1, (decide (1 ≤ f 2 2) && decide (f 2 2 ≤ 4095) && (fid = 0 || f 2 2 = fid), 2), rng 4 1 0 15, rng 5 1 1 2,
   rng 6 1 0 1, rng 7 1 0 15, rng 8 4 10 100000, rng 0x0C 4 0x10000 0xFFFFFF,
   (decide (1 ≤ f 0x10 4) && decide (f 0x10 4 ≤ 0xFFFFFE) && decide (f 0x10 4 < f 0x0C 4), 0x10),
   rng 0x18 1 0 1, rng 0x19 1 0 32, rng 0x1A 1 1 32, rng 0x1B 1 0 0, rng 0x1C 2 1 65535,
   (decide (f 0x20 4 ≤ 1048575) && decide (f 0x20 4 < f 0x24 4), 0x20), rng 0x24 4 1 1048576, rng 0x28 2 0 4096, rng 0x2A 2 100 10000,
   rng 0x2C 4 1000 1000000, rng 0x30 2 24 8760, rng 0x32 2 0 0] ++
  (List.range 8).map (fun k => rng (0x34 + 2 * k) 2 0 4095) ++ [rng 0x44 4 0 16777216, (f 0x48 180 = 0, 0x48)]

/-- A TENANT record: one whose VALID is clear is read for that bit alone (R432). -/
def tenantFields (r base : Nat) : List (Bool × Nat) :=
  if !(bit (fld r 0x12 1) 7) then []
  else [(fld r 0x10 1 = 2 || fld r 0x10 1 = 3, base + 0x10), (fld r 0x11 1 / 2 = 0, base + 0x11), (bits (fld r 0x12 1) 4 3 = 0, base + 0x12),
        (fld r 0x13 9 = 0, base + 0x13)]

def peerFields (r base : Nat) : List (Bool × Nat) :=
  [(decide (fld r 0 2 ≤ 4095), base), (decide (fld r 2 1 < 36), base + 2), (fld r 3 5 = 0, base + 3), (decide (fld r 8 8 < 2 ^ 36), base + 8)]

def linkFields (r base : Nat) : List (Bool × Nat) := [(bits r 12 4 = 0 && bits r 17 47 = 0, base)]

/-- One gate list (R347). -/
def gateFields (bs : List Byte) (base : Nat) (factory : Bool) : List (Bool × Nat) :=
  let take := imgAt bs (base + 8) 1
  let len := imgAt bs (base + 9) 1
  [(decide (take ≤ 1), base + 8), (imgAt bs (base + 10) 6 = 0, base + 10),
   (gateListCause len ((gateEntries bs base).take len) (take = 1) factory false = 0, base + 9)]

/-- One link's quanta and marks (R357). -/
def queueFields (bs : List Byte) (base : Nat) : List (Bool × Nat) :=
  (List.range 6).map (fun k => (decide (129 ≤ imgAt bs (base + 2 * k) 2), base + 2 * k)) ++
    [(imgAt bs (base + 12) 4 == 0, base + 12), (imgAt bs (base + 23) 1 == 0, base + 23)]

def tmapFields (e base : Nat) : List (Bool × Nat) := [(bits e 12 4 = 0 && bits e 17 7 = 0, base)]

/-- Records with their offsets, every one checked. -/
def eachRecord (bs : List Byte) (off size n : Nat) (f : Nat → Nat → List (Bool × Nat)) : List (Bool × Nat) :=
  (List.zip (records size n (bs.drop off)) (List.range n)).flatMap (fun e => f e.1 (off + size * e.2))

/-- The FABRIC section (R431). -/
def fabricFields (bs : List Byte) (factory : Bool) : List (Bool × Nat) :=
  let x := fabricAt bs
  let count := fun (off n : Nat) => (imgAt bs off 4 == n, off)
  if bs.length ≠ x.fin + 4 then [(false, 0)]
  else eachRecord bs 4 16 x.peers peerFields ++ [count x.link 36] ++ eachRecord bs (x.link + 4) 8 36 linkFields ++ [count x.gate 36] ++
    (List.range 36).flatMap (fun k => gateFields bs (x.gate + 4 + 528 * k) factory) ++ [count x.queue 36] ++
    (List.range 36).flatMap (fun k => queueFields bs (x.queue + 4 + 24 * k)) ++ [count x.pol 8192] ++
    eachRecord bs (x.pol + 4) 32 8192 (fun e b => [(policerOk e, b)]) ++ [count x.tmap 131072] ++ eachRecord bs (x.tmap + 4) 4 131072 tmapFields

/-- A ring named by the LD section exists, with the right kind and LD, or is none (R431, R433). -/
def State.ldRingOk (s : State) (v ld : Nat) (kind : RingKind) : Bool :=
  v = 0xFFFFFFFF || (decide (v < 262144) && (s.ring v).rstate ≠ .free && (s.ring v).kind = kind && (s.ring v).ld = ld)

def State.ldFields (s : State) (bs : List Byte) : List (Bool × Nat) :=
  (List.range 16).flatMap (fun l => [(s.ldRingOk (imgAt bs (8 * l) 4) l .completion, 8 * l), (s.ldRingOk (imgAt bs (8 * l + 4) 4) l .event, 8 * l + 4)])

def modelFields (bs : List Byte) : List (Bool × Nat) :=
  let n := imgAt bs 0 4
  if bs.length ≠ 4 + 16 * n + 4 then [(false, 0)]
  else eachRecord bs 4 16 n (fun e b => [(decide (fld e 0 2 < 16384), b), (fld e 2 6 = 0, b + 2), (decide (fld e 8 8 < 2 ^ 48), b + 8)])

/-- Bytes of a section of fixed length; 0 for one whose length its counts give. -/
def secBytes : Nat → Nat
  | 1 => 256
  | 2 => 65536 * 32 + 4
  | 4 => 16 * 8 + 4
  | _ => 0

/-- The first field of the image that fails R433's check 4: its offset in the image, and its section. -/
def State.imgBad (s : State) (img : List Byte) (version : Nat) : Option (Nat × Nat) :=
  let head := [(imgAt img 0 2 == version, 0), (imgAt img 2 2 == 1, 2), (imgAt img 4 4 == img.length, 4)] ++
    (List.range 5).map (fun k =>
      let len := (secSpan img (k + 1)).2
      ((k + 1 ≠ 1 || s.cfg.current.isSome || len ≠ 0) && (len = 0 || secBytes (k + 1) = 0 || len = secBytes (k + 1)), 0x0C + 8 * k)) ++
    [(imgAt img 0x30 12 == 0, 0x30)]
  let inSec := fun (k : Nat) (f : List Byte → List (Bool × Nat)) =>
    match imgSection img k with
    | none => none
    | some bs => (firstBad (f bs)).map (fun o => ((secSpan img k).1 + o, k))
  match firstBad head with
  | some o => some (o, 0)
  | none =>
    (inSec 1 (fun bs => deviceFields bs (if s.cfg.current.isSome then s.cfg.dev.fabricId else 0))).or
      ((inSec 2 (fun bs => eachRecord bs 0 32 65536 tenantFields)).or
        ((inSec 3 (fun bs => fabricFields bs s.inFactory)).or ((inSec 4 s.ldFields).or (inSec 5 modelFields))))

/-- R433's check 3, the digest apart: the header's CRC, every section's, and those of the records of tenants that may have
work. A section that leaves the image holds none. -/
def imgCrcs (img : List Byte) : Bool :=
  imgAt img 0x3C 4 == crc32c (img.take 0x3C) &&
    (List.range 5).all (fun k =>
      let sp := secSpan img (k + 1)
      sp.2 = 0 || (decide (4 ≤ sp.2) && decide (sp.1 + sp.2 ≤ img.length) && sectionCrcOk ((img.drop sp.1).take sp.2))) &&
    (match imgSection img 2 with
      | none => true
      | some bs => (records 32 65536 bs).all (fun r => !(bit (fld r 0x12 1) 7) || crcOk r 32))

/-- Address of a version slot: 8 MiB each, in the configuration area of the system region (R228, R429). -/
def versionSlotAt (k : Nat) : Nat := 0x10013000000 + 0x800000 * k

/-- The slot that takes the version staged next: the one without the current version (R429). -/
def CfgState.nextSlot (c : CfgState) : Nat := 1 - c.slot

/-- The version that may be staged next (R429). -/
def nextVersion (v : Nat) : Nat := if v = 0xFFFF then 1 else v + 1

/-- The status of RMP_CFG_STAGE on an image (R433), with the failing field's DETAIL (R423). -/
def State.stageStatus (s : State) (img : List Byte) (version digest : Nat) : Nat × Nat :=
  if s.cfg.staged.isSome || s.cfg.prev.isSome then (Stat.busy, 0)
  else if version ≠ nextVersion s.curVersion then (Stat.versionStale, 0)
  else if shake256 img ≠ digest || !(imgCrcs img) then (Stat.checkFailed, 0)
  else match s.imgBad img version with
    | some (o, k) => (Stat.invalidField, o + k * 2 ^ 32)
    | none => (Stat.ok, 0)

/-! ## HELLO (R274, R277, R431) -/

/-- The FABRIC section in force for the staged version. -/
def CfgState.stagedFabric (c : CfgState) : Option (List Byte) :=
  match c.staged with
  | none => none
  | some i => (imgSection i.bytes 3).or c.fabric

/-- SHAKE256 of a FABRIC section in force; zero when none is. -/
def fabricDigest (x : Option (List Byte)) : Nat :=
  match x with
  | none => 0
  | some bs => shake256 bs

/-- Firmware writes the local HELLO record (R274). -/
def State.writeLocal (s : State) : State :=
  let staged := match s.cfg.staged with
    | some i => i.version
    | none => 0
  let r := ofBytes (packFields [(8, s.sec.otp.uid), (4, s.sec.fwVersion), (1, s.sec.otp.lc), (1, 0), (2, s.curVersion), (2, staged),
    (2, s.cfg.dev.fabricId), (12, 0), (32, if s.cfg.current.isSome then fabricDigest s.cfg.fabric else 0), (32, fabricDigest s.cfg.stagedFabric)])
  { s with fab := { s.fab with local_ := r } }

/-- HELLO UPDATE after a change of version (R277). -/
def State.helloChanged (s : State) : State := s.writeLocal.helloUpdateAll

/-! ## What a commit applies (R435) -/

/-- The DEVICE section's fields. -/
def devOfImg (bs : List Byte) : DevCfg :=
  let f := imgAt bs
  { personality := f 0 1, compat := f 1 1 = 1, fabricId := f 2 2, adminLd := f 4 1, stepsInFlight := f 5 1, preemptEnable := f 6 1 = 1,
    killMax := f 7 1, stepTargetUs := f 8 4, slowThreshold := f 0x0C 4, slowClear := f 0x10 4, slowMinAclk := f 0x14 4,
    swingEnable := f 0x18 1 = 1, swingMinPrefill := f 0x19 1, swingStepMax := f 0x1A 1, swingHoldSteps := f 0x1C 2, swingLendBelow := f 0x20 4,
    swingReclaimAbove := f 0x24 4, pruneGrace := f 0x1E 2, rebalance := f 0x28 2, wearSpread := f 0x2A 2, readDisturb := f 0x2C 4,
    refreshHours := f 0x30 2, promptPeers := (List.range 8).map (fun k => f (0x34 + 2 * k) 2), chsetShortMax := f 0x44 4 }

/-- A tenant's entry from its record (R206, R432). -/
def State.applyTenant (s : State) (tn r : Nat) : State :=
  if bit (fld r 0x12 1) 7 then
    (s.updTenant tn (fun t => { t with quota := (List.range 4).map (fun k => fld r (4 * k) 4), lowest := fld r 0x10 1, t3Compress := bit (fld r 0x11 1) 0,
                                       ld := bits (fld r 0x12 1) 0 4, valid := true })).writeTenant tn
  else if (Tbl.find? s.tenants tn).isNone then s
  else (s.updTenant tn (fun t => { t with quota := [0, 0, 0, 0], lowest := 2, t3Compress := false, valid := false })).writeTenant tn

/-- One peer's entry: LINK_SET and MSF_LINK are firmware's; a peer behind a switch is greeted (R273, R303). -/
def State.applyPeer (s : State) (r : Nat) : State :=
  let f := bits r 0 12
  let e := withCrc (setFld (setFld (s.peer f) 8 8 (fld r 8 8)) 0x10 1 (fld r 2 1)) 32
  if e = s.peer f then s else (s.setPeer f e).greetPeer f

/-- One link's EXPECT_ID and ENABLE (R301). -/
def State.applyLink (s : State) (lk r : Nat) : Option State :=
  match (if h : lk < 36 then execLinkEnable ⟨lk, h⟩ (bit r 16) (s.updLink lk (fun l => { l with expectId := bits r 0 12 })) else .next s) with
  | .next s => some s
  | _ => none

/-- One link's gate list, written to its administrative bank and armed (R347, R351). -/
def State.applyGates (s : State) (lk : Nat) (bs : List Byte) (off : Nat) : State :=
  s.updLink lk (fun l =>
    let g := l.gates
    let bank := b2n (!g.operBank)
    let es := gateEntries bs off
    let tbl := (List.zip (List.range 64) es).foldl (fun (t : Tbl Nat) e => Tbl.put t (64 * bank + e.1) e.2) g.bank
    { l with gates := { g with bank := tbl, adminLen := imgAt bs (off + 9) 1, sync := imgAt bs (off + 8) 1 = 1, adminBase := imgAt bs off 8,
                               pending := false, takeAt := none }.arm s.ltu s.inFactory })

/-- One link's quanta and marks (R357). -/
def State.applyQueues (s : State) (lk : Nat) (bs : List Byte) (off : Nat) : State :=
  s.updLink lk (fun l => { l with quantum := (List.range 6).map (fun k => imgAt bs (off + 2 * k) 2), mark := (List.range 7).map (fun k => imgAt bs (off + 16 + k) 1) })

/-- The FABRIC section (R351, R435). -/
def State.applyFabric (s : State) (bs : List Byte) : State :=
  let x := fabricAt bs
  let s := (records 16 x.peers (bs.drop 4)).foldl State.applyPeer s
  let s := (List.range 36).foldl (fun (s : State) k => (s.applyLink k (imgAt bs (x.link + 4 + 8 * k) 8)).getD s) s
  let s := (List.range 36).foldl (fun (s : State) k => s.applyGates k bs (x.gate + 4 + 528 * k)) s
  let s := (List.range 36).foldl (fun (s : State) k => s.applyQueues k bs (x.queue + 4 + 24 * k)) s
  let s := (List.zip (List.range 8192) (records 32 8192 (bs.drop (x.pol + 4)))).foldl (fun (s : State) e =>
    s.updLnd (e.1 / 4096) (fun d => { d with pols := Tbl.upd d.pols (e.1 % 4096) {} (fun p => p.rewrite (withCrc e.2 32) s.ltu) })) s
  let s := (List.zip (List.range 131072) (records 4 131072 (bs.drop (x.tmap + 4)))).foldl (fun (s : State) e =>
    let v := bits e.2 0 24
    s.updLnd (e.1 / 65536) (fun d => { d with tmap := Tbl.put d.tmap (e.1 % 65536) (v + crc8 (toBytes 3 v) * 2 ^ 24) })) s
  { s with cfg := { s.cfg with fabric := some bs } }

/-- The LD section (R370, R384). -/
def State.applyLds (s : State) (bs : List Byte) : State :=
  let set := fun (t : Tbl Nat) (l v : Nat) => if v = 0xFFFFFFFF then Tbl.del t l else Tbl.put t l v
  (List.range 16).foldl (fun (s : State) l =>
    { s with cfg := { s.cfg with defCq := set s.cfg.defCq l (imgAt bs (8 * l) 4), eventRing := set s.cfg.eventRing l (imgAt bs (8 * l + 4) 4) } }) s

/-- One table flip: the slot's descriptor becomes the new one, and the old version waits for its last reader (R254). -/
def State.flipTable (s : State) (k desc : Nat) : State :=
  let m := s.slot k
  if m.embDesc = desc || (m.st ≠ .loaded && m.st ≠ .loading) then s
  else
    let old := if m.embDesc = 0 then m.oldTables else m.oldTables ++ [(tdVersion (s.rd m.embDesc 64), m.embDesc)]
    s.updSlot k (fun m => { m with embDesc := desc, oldTables := old })

/-- Under CACHE every tile is held OFF (R513). -/
def State.cacheTiles (s : State) : State :=
  if s.cfg.dev.personality ≠ 3 then s
  else (List.range 48).foldl (fun (s : State) t => if s.tileEmpty t && !(s.tpwr t).sweep then s.setTpwr t 3 else s) s

/-! ## Requests and versions (R436, R437) -/

/-- A personality accepts a request's state (R436). -/
def acceptsState (p : Nat) : ReqSt → ReqSt → Bool
  | .free, _ => true
  | .admitted, _ | .prefill, _ | .handover, _ => hasPrompt p
  | .decode, _ | .parking, _ | .parked, _ | .resuming, _ | .expired, _ => hasGeneration p
  | .reprefill, b => match b with
    | .admitted | .prefill | .handover => hasPrompt p
    | _ => hasGeneration p

/-- Requests of an older version are rebound where the current personality accepts their state, or is theirs already
(R436, R437). -/
def State.rebindAll (s : State) : State :=
  let v := s.curVersion
  let p := s.cfg.dev.personality
  let same := s.cfg.prevDev.personality = p
  ({ s with reqs := Tbl.mapAll s.reqs (fun r => if r.cfg ≠ v && (same || acceptsState p r.st r.backTo) then { r with cfg := v } else r) }).commitDone

/-- The commit of the staged version (R435). -/
def State.commitVersion (s : State) (step : Nat) : State :=
  match s.cfg.staged with
  | none => s
  | some img =>
    let was := s.curVersion
    let first := s.cfg.current.isNone
    let dev := match imgSection img.bytes 1 with
      | some bs => devOfImg bs
      | none => s.cfg.dev
    let s := { s with cfg := { s.cfg with prev := s.cfg.current, prevDev := s.cfg.dev, dev := dev, current := some img, staged := none, cond := none, slot := s.cfg.nextSlot } }
    let s := match imgSection img.bytes 2 with
      | some bs => (List.zip (List.range 65536) (records 32 65536 bs)).foldl (fun (s : State) e => s.applyTenant e.1 e.2) s
      | none => s
    let s := match imgSection img.bytes 3 with
      | some bs => s.applyFabric bs
      | none => s
    let s := match imgSection img.bytes 4 with
      | some bs => s.applyLds bs
      | none => s
    let s := match imgSection img.bytes 5 with
      | some bs => (records 16 (imgAt bs 0 4) (bs.drop 4)).foldl (fun (s : State) e => s.flipTable (fld e 0 2) (fld e 8 8)) s
      | none => s
    let s := s.cacheTiles
    let s := (s.devEvent 0x80 img.version step was).helloChanged
    if first then s.devEvent 0x0C img.version 0 0 else s.rebindAll

/-- The commit condition of the staged version is met at this boundary (R434). -/
def State.commitDue (s : State) : Bool :=
  match s.cfg.cond with
  | none => false
  | some .step => true
  | some (.time t) => decide (t ≤ s.ltu)

/-- Step 1 of a boundary (R381, R434 to R436). -/
def State.boundaryVersion (s : State) (step : Nat) : State :=
  if s.commitDue then s.commitVersion step else if s.cfg.prev.isSome then s.rebindAll else s

end Sys2Proof.Machine
end

