-- ==== Sys2Proof/Machine/Commit.lean ====
section
/-!
DEFINITION. Sys2Proof/Machine/Commit.lean: the commit of a group, kills, re-runs and what firmware does with completions
(R27 to R30, R34, R36, R111, R112, R115 to R117, R155, R366, R371, R378, R379, R386 to R390, R394, R461 to R463).
-/
namespace Sys2Proof.Machine

/-! ## What a member leaves (R111, R112, R116) -/

/-- Fields of a publication entry (R112). -/
def pbKind (e : Nat) : Nat := fld e 0 1
def pbLayer (e : Nat) : Nat := fld e 2 2
def pbReq (e : Nat) : Nat := bits e 32 17
def pbValue (e : Nat) : Nat := fld e 8 4

/-- Reserved bits of an entry are 0, its KIND is one of the two (R15, R112). -/
def pbFieldsOk (e : Nat) : Bool := (pbKind e = 1 || pbKind e = 2) && fld e 1 1 = 0 && bits e 49 15 = 0 && (pbKind e = 1 || pbLayer e = 0)

/-- The command of a member, while its tile holds it. -/
def State.memberCmd (s : State) (m : Nat) : Option TileCmd :=
  match (s.tile (s.tag m).tile).cur with
  | some c => if cdTag c.desc = m then some c else none
  | none => none

/-- Members in TAG order. -/
def Group.byTag (g : Group) : List Nat := sortNat g.members

/-- Publication entries of a group, member by member (R116). -/
def State.groupPubs (s : State) (g : Nat) : List Nat := (s.group g).byTag.flatMap (fun m => match s.memberCmd m with
  | some c => c.pubs
  | none => [])

/-- Deferred operations of a group with the member's tag and tile, in the order they are performed (R116). -/
def State.groupDeferred (s : State) (g : Nat) : List (Nat × Nat × Deferred) := (s.group g).byTag.flatMap (fun m => match s.memberCmd m with
  | some c => c.deferred.map (fun d => (m, (s.tag m).tile, d))
  | none => [])

/-- Tokens a group's SAMPLE and ACCEPT operations gave (R371). -/
def State.groupLps (s : State) (g : Nat) : List (Nat × Nat × Bool) := (s.group g).byTag.flatMap (fun m => match s.memberCmd m with
  | some c => c.lps
  | none => [])

/-- A request's part in a group counts no more (R387). -/
def Group.gone (g : Group) (i : Nat) : Bool := g.works.any (fun w => w.req = i && w.dead)

/-- Step 3 of R116 for one entry (R112). An entry of a request that has gone is discarded, not judged. -/
def State.pubOk (s : State) (g : Group) (e : Nat) : Bool :=
  let i := pbReq e
  let r := s.req i
  g.gone i || (pbFieldsOk e && r.isLive && r.tenant = g.tenant &&
    (pbKind e ≠ 1 || (decide (pbLayer e < r.seq.vlen.length) && decide (nth r.seq.vlen (pbLayer e) 0 ≤ pbValue e) &&
      decide (pbValue e ≤ r.seq.reservedLen))))

/-- A deadline has passed (R385). -/
def State.overdue (s : State) (r : Req) : Bool := r.deadline ≠ 0 && decide (r.deadline < s.ltu)

/-- Requests of a group whose deadline step 3 finds passed, without LATE_OK (R386). -/
def State.groupMissed (s : State) (g : Group) : List Nat :=
  (g.works.filter (fun w => !w.dead && (s.req w.req).isLive && !(s.req w.req).lateOk && s.overdue (s.req w.req))).map (·.req)

/-! ## Steps 4 to 7 (R116) -/

/-- A deferred operation on this device: performed, or dropped with its status (R463). -/
def State.performLocal (s : State) (tile : Nat) (d : Deferred) : State × Nat :=
  let st := s.accStatus (.tile tile) (if d.kind = .store then .write else .atomic) d.addr d.size
  if st ≠ Stat.ok then (s, st) else (s.coreWrite d.addr d.size (bankResult d.kind d.size (s.rd d.addr d.size) d.val), Stat.ok)

/-- One deferred operation: a remote one goes to the MSF in its turn (R293). -/
def State.performDeferred (s : State) (tenant : Nat) (e : Nat × Nat × Deferred) : State × Nat :=
  let d := e.2.2
  if inAperture d.addr then
    let mop := match d.kind with
      | .store => mopStore
      | .addInt => mopAdd
      | _ => mopSwap
    ({ s with fab := { s.fab with commitOps := s.fab.commitOps ++ [⟨e.1, mop, d.addr, d.val, tenant⟩] } }, Stat.ok)
  else s.performLocal e.2.1 d

/-- Step 5: the operations in order; those lost, by tag, with the first status and the count (R463). -/
def State.performAll (s : State) (tenant : Nat) : List (Nat × Nat × Deferred) → State × List (Nat × Nat × Nat)
  | [] => (s, [])
  | e :: es =>
    let x := s.performDeferred tenant e
    let y := State.performAll x.1 tenant es
    if x.2 = Stat.ok then y
    else
      let more := match y.2.find? (fun l => l.1 = e.1) with
        | some l => l.2.2
        | none => 0
      (y.1, (e.1, x.2, more + 1) :: y.2.filter (fun l => l.1 ≠ e.1))

/-- A valid length advances (R27). -/
def State.publishLen (s : State) (e : Nat) : State :=
  s.updReq (pbReq e) (fun r => { r with seq := { r.seq with vlen := setNth r.seq.vlen (pbLayer e) (pbValue e) } })

/-- The status with which a token ends its request, or OK (R45). -/
def State.tokenEnds (s : State) (r : Req) (tok : Nat) : Nat :=
  if (s.slot r.slot).stop.contains tok then Stat.okStop else if r.maxNew ≤ r.nextIndex + 1 then Stat.okLength else Stat.ok

/-- A token is journalled and written to its request's ring (R20, R36, R371, R386). -/
def State.publishToken (s : State) (i tok lp : Nat) (draft : Bool) : State × Nat :=
  let r := s.req i
  let st := s.tokenEnds r tok
  let late := r.lateOk && s.overdue r
  let raw := tokenEntry r.reqId r.nextIndex tok lp r.epoch s.fid (st ≠ Stat.ok) draft late
  let s := (s.journalAdd i [tok]).putToken r.tokenRing raw
  let s := (s.updReq i (fun r => { r with nextIndex := r.nextIndex + 1 })).updAcct r.tenant (fun a => { a with tokens := wrap64 (a.tokens + 1) })
  (if late then { s with reqRegs := { s.reqRegs with late := satAdd 32 s.reqRegs.late 1 } } else s, st)

/-- The log-probability that goes with a token: that of the operation which gave it (log 10), once each. -/
def takeLp (tok : Nat) : List (Nat × Nat × Bool) → Option (Nat × Bool) × List (Nat × Nat × Bool)
  | [] => (none, [])
  | e :: es => if e.1 = tok then (some e.2, es) else let r := takeLp tok es; (r.1, e :: r.2)

/-- Step 6 for the entries of a group in order; requests that a token ends, with their status. Entries after the token
that ends a request are discarded; a recomputation writes no token (R36). -/
def State.publishAll (s : State) (g : Group) (skip : List Nat) : List Nat → List (Nat × Nat × Bool) → List (Nat × Nat) → State × List (Nat × Nat)
  | [], _, ended => (s, ended)
  | e :: es, lps, ended =>
    let i := pbReq e
    if g.gone i || skip.contains i || ended.any (fun x => x.1 = i) then State.publishAll s g skip es lps ended
    else if pbKind e = 1 then State.publishAll (s.publishLen e) g skip es lps ended
    else if g.kind = .recompute || g.draft then State.publishAll s g skip es lps ended
    else
      let x := takeLp (pbValue e) lps
      let y := match x.1 with
        | some (lp, d) => s.publishToken i (pbValue e) lp d
        | none => s.draw.publishToken i (pbValue e) (Config.logProb s.fresh).toNat false
      State.publishAll y.1 g skip es x.2 (if y.2 = Stat.ok then ended else ended ++ [(i, y.2)])

/-- Pages that hold positions `a` up to but not `b`, as graft work (R28). -/
def Req.pageWork (r : Req) (a b : Nat) : List GWork :=
  (r.seq.pagesFor a b).filterMap (fun p => (Tbl.find? r.pages p).map (fun x => GWork.page p x))

/-- The push by which a request's plots leave, once it is acknowledged. -/
def State.pushOf (s : State) (i : Nat) : Option Nat := s.findGraft (fun g => g.send && g.mode = .push && g.req = i && g.phase = .moving)

/-- New plots of a chunk are pushed; after the last one the rest of the journal goes, and COMMIT may follow (R28, R30). -/
def State.pushChunk (s : State) (i first len : Nat) (last : Bool) : State :=
  let r := s.req i
  match s.pushOf i with
  | none => if last && (s.sending i).isNone then s.noDest i 0 0 else s
  | some k => s.updGraft k (fun g => { g with todo := g.todo ++ r.pageWork first (first + len) ++ (if last then r.journalWork r.promptLen r.journal.length else []),
                                              lastPosted := g.lastPosted || last })

/-- A prompt chunk has committed (R26, R28, R29, R35). -/
def State.chunkDone (s : State) (w : Work) (draft : Bool) : State :=
  let i := w.req
  let r := s.req i
  if draft then
    s.updReq i (fun r => { r with draftPos := w.first + w.len, draftReady := decide (w.len < 8192) })
  else
    let done := decide (r.promptLen ≤ w.first + w.len)
    let s := s.updReq i (fun r => { r with prefilled := w.first + w.len })
    if r.dest.any (· ≠ 0) then
      (if done then s.updReq i (fun r => { r with st := .handover }) else s).pushChunk i w.first w.len done
    else if done then s.updReq i (fun r => { r with firstDone := true }) else s

/-- A recomputation's chunk has committed; after the last one the request returns to where it was (R44, R155). -/
def State.recomputed (s : State) (w : Work) (tn : Nat) : State :=
  let i := w.req
  let r := s.req i
  let s := s.updAcct tn (fun a => { a with recomputed := wrap64 (a.recomputed + w.len) })
  if r.st ≠ .reprefill then s
  else
    let done := decide (r.recomputeTo ≤ w.first + w.len)
    let s := if done then s.updReq i (fun (r : Req) => { r with st := if r.backTo = .decode then .reprefill else r.backTo, firstDone := r.backTo = .decode, recomputeTo := 0, seq := { r.seq with reprefillPending := false, grace := (s.devOf r.cfg).pruneGrace } })
      else s
    if r.backTo = .handover then s.pushChunk i w.first w.len done else s

/-- What a commit does to each request of its batch beside the publications (R136, R382). -/
def State.workDone (s : State) (g : Group) (skip : List Nat) (w : Work) : State :=
  let i := w.req
  if w.dead || !(s.req i).isLive || skip.contains i then s
  else
    let s := s.updReq i (fun r => { r with lastStep := g.step, seq := { r.seq with lastActive := s.ltu } })
    match g.kind with
    | .prefill => s.chunkDone w g.draft
    | .recompute => s.recomputed w g.tenant
    | _ => s

/-- The sums of R394 take a committed group in. -/
def State.slowAdd (s : State) (g : Group) : State :=
  let first := g.members.foldl (fun m k => Nat.min m (s.tag k).start) s.ltu
  let est := g.members.foldl (fun m k => Nat.max m (cdEst (s.tag k).desc)) 0
  s.updAcct g.tenant (fun a => { a with curAct := a.curAct + 8 * (s.ltu - first), curEst := a.curEst + est, curCmds := a.curCmds + g.members.length })

/-- Step 2 of R116: the member tiles are released. -/
def State.releaseMembers (s : State) (g : Nat) : State := (s.group g).byTag.foldl (fun (s : State) m => s.releaseTile (s.tag m).tile) s

/-- Step 7 of R116: the members are COMMITTED with status OK. -/
def State.markCommitted (s : State) (g : Nat) (shadow : Bool) : State :=
  (s.group g).byTag.foldl (fun (s : State) m =>
    let t := (s.tag m).tile
    let s := s.updTag m (fun x => { x with st := .committed, status := Stat.ok })
    if shadow then s
    else (s.updTile t (fun x => { x with committed := satAdd 32 x.committed 1 })).updAcct (cdTenant (s.tag m).desc) (fun a => { a with committed := wrap64 (a.committed + 1) })) s

/-- A committed group is over: its room is given back, its completions are posted, its tags freed (R378, R382). -/
def State.finishGroup (s : State) (g : Nat) : State :=
  let s := (s.freeRoom (s.group g).works).updGroup g (fun x => { x with open_ := false, status := Stat.ok })
  (s.group g).members.foldl (fun (s : State) m => (s.updTag m (fun x => { x with rerun := false, posted := true })).freeTag m) s

/-- A failed check at commit fails every member, and nothing is published (R112, R116). -/
def State.failAll (s : State) (g status : Nat) : State :=
  ((s.group g).members.foldl (fun (s : State) m => (s.updTag m (fun x => { x with st := .ended })).stopMember m true status) s).closeGroup g status

/-- Every channel that deferred operations reach serves memory (R169). -/
def State.deferredOpen (s : State) (ds : List (Nat × Nat × Deferred)) : Bool :=
  ds.all (fun e => inAperture e.2.2.addr || (s.heldChan e.2.2.addr e.2.2.size).isNone)

/-- Steps 1 to 4 of R116: the members' queues are copied and checked, the tiles released, the commit record written. -/
def State.commitCopy (s : State) (g : Nat) : State :=
  let x := s.group g
  let c : CommitCopy := { defs := s.groupDeferred g, pubs := s.groupPubs g, lps := s.groupLps g, missed := s.groupMissed x }
  ((((s.journalRec .commit g c.defs.length [] c.pubs c.defs).flushJournal).slowAdd x).releaseMembers g).updGroup g (fun x => { x with copy := some c })

/-- Steps 5 to 7 of R116: the deferred operations, the publications, the completions. -/
def State.commitRest (s : State) (g : Nat) (c : CommitCopy) : State :=
  let x := s.group g
  let s := s.updGroup g (fun x => { x with copy := none })
  let p := s.performAll x.tenant c.defs
  let s := p.2.foldl (fun (s : State) l => s.devEvent 0x45 l.1 l.2.1 l.2.2) p.1
  let q := s.publishAll x c.missed c.pubs c.lps []
  let s := x.works.foldl (fun (s : State) w => (s.workDone x (c.missed ++ q.2.map (·.1)) w).writeReq w.req) q.1
  let s := { s with reqRegs := { s.reqRegs with commits := satAdd 32 s.reqRegs.commits 1 } }
  let s := (s.markCommitted g false).finishGroup g
  let s := q.2.foldl (fun (s : State) e => s.endRequest e.1 e.2) s
  (c.missed.foldl (fun (s : State) i => s.endRequest i Stat.deadlineMissed) s).graftPump

/-- The commit of a group of tenant work, from the check on (R116); step 5 waits for channels outside MEMORY. -/
def State.commitGroup (s : State) (g : Nat) : State :=
  if !((s.groupPubs g).all (s.pubOk (s.group g))) then s.failAll g Stat.publishInvalid
  else
    let s := s.commitCopy g
    match (s.group g).copy with
    | some c => if s.deferredOpen c.defs then s.commitRest g c else s
    | none => s

/-- A SHADOW command runs steps 1 to 3 and completes with OK (R116). -/
def State.commitShadow (s : State) (g : Nat) : State :=
  if !((s.groupPubs g).all (s.pubOk (s.group g))) then s.failAll g Stat.publishInvalid
  else ((s.releaseMembers g).markCommitted g true).finishGroup g

/-- COMMIT (R115, R116): every member is COMMITTING; a commit whose step 5 waits goes on. -/
def execCommit (group : Fin 1024) (s : State) : Host.Outcome State Fault Refusal :=
  let g := group.val
  let x := s.group g
  let shadow := x.members.any (fun m => cdShadow (s.tag m).desc)
  if !s.live || !x.open_ || x.members.isEmpty || !(x.members.all (fun m => (s.tag m).st = .committing)) then .next s
  else match x.copy with
    | some c => if s.deferredOpen c.defs then .next (s.commitRest g c) else .next s
    | none => if shadow then .next (s.commitShadow g) else .next (s.commitGroup g)

/-! ## Kills (R117, R387 to R389) -/

/-- A group's members that are queued or running. -/
def State.liveMembers (s : State) (g : Nat) : List Nat := (s.group g).members.filter (fun m => (s.tag m).live)

/-- Highest PRIO among a group's requests. -/
def State.groupPrio (s : State) (g : Nat) : Nat := (s.group g).works.foldl (fun m w => if w.dead then m else Nat.max m (s.req w.req).prio) 0

/-- The compiler's estimate of a group in ticks: 8 ACLK each (R389). -/
def State.groupTicks (s : State) (g : Nat) : Nat := cdiv ((s.group g).members.foldl (fun m k => Nat.max m (cdEst (s.tag k).desc)) 0) 8

/-- A group that waits on a tile of group `x`, for a request of higher PRIO that would miss its deadline if `x` ran on
(R389). -/
def State.urgentOver (s : State) (x y : Nat) : Bool :=
  let gx := s.group x
  let gy := s.group y
  let start := gx.members.foldl (fun m k => Nat.min m (s.tag k).start) s.ltu
  let left := start + s.groupTicks x - s.ltu
  y ≠ x && gy.open_ && gy.members.any (fun m => (s.tag m).st = .queued && gx.members.any (fun k => (s.tag k).tile = (s.tag m).tile)) &&
    gy.works.any (fun w => !w.dead && decide (s.groupPrio x < (s.req w.req).prio) && (s.req w.req).deadline ≠ 0 &&
      decide ((s.req w.req).deadline < s.ltu + left + s.groupTicks y))

/-- A group that R389 lets firmware pre-empt, were a group to wait on its tiles. -/
def State.eligibleX (s : State) (x : Nat) : Bool :=
  let g := s.group x
  s.cfg.dev.preemptEnable && g.open_ && decide (g.preempts < s.cfg.dev.killMax) && (s.liveMembers x).all (fun m => (s.tag m).st ≠ .committing)

/-- LTU time at which a group entered RUNNING. -/
def State.runningSince (s : State) (x : Nat) : Nat := (s.group x).members.foldl (fun m k => Nat.max m (s.tag k).start) 0

/-- R389 permits pre-empting a group: some group waits for it, and of the groups eligible for that one it entered RUNNING
most recently. -/
def State.preemptible (s : State) (x : Nat) : Bool :=
  s.eligibleX x && (Tbl.keys s.groups).any (fun y => s.urgentOver x y &&
    (Tbl.keys s.groups).all (fun z => !(s.eligibleX z && s.urgentOver z y) || decide (s.runningSince z ≤ s.runningSince x)))

/-- KILL_CMD (R388, R396): refused while BUSY, for a tag not in flight, or COMMITTING. -/
def execKillCmd (tag : Fin 1024) (s : State) : Host.Outcome State Fault Refusal :=
  let x := s.tag tag.val
  if !s.live then .next s
  else if s.reqRegs.killBusy.isSome || !x.live || x.st = .committing || !(s.group x.group).open_ then
    .next { s with reqRegs := { s.reqRegs with killReject := true } }
  else .next { s with reqRegs := { s.reqRegs with killBusy := some (x.group, s.preemptible x.group) } }

/-- A member of the group being killed leaves its tile; the time of a pre-empted run is counted apart (R391, R392). -/
def State.killMember (s : State) (m : Nat) (preempt : Bool) : State :=
  let n := match s.memberCmd m with
    | some c => s.runAclk (s.tag m).tile c
    | none => 0
  let s := s.stopMember m false Stat.killed
  if preempt then s.updAcct (cdTenant (s.tag m).desc) (fun a => { a with preemptAclk := wrap64 (a.preemptAclk + n) }) else s

/-- Steps 4 and 5 of R388: the group is marked for re-run, and DONE sets. -/
def State.killDone (s : State) (g : Nat) (preempt : Bool) : State :=
  let s := { s with reqRegs := { s.reqRegs with killBusy := none, killDone := true } }
  if !(s.group g).open_ then s
  else
    let s := (s.markRerun g).updGroup g (fun x => { x with status := Stat.killed, preempts := if preempt then x.preempts + 1 else x.preempts })
    { s with reqRegs := { s.reqRegs with kills := satAdd 16 s.reqRegs.kills 1,
                                         preempts := if preempt then satAdd 16 s.reqRegs.preempts 1 else s.reqRegs.preempts } }

/-- COMMAND_KILL (R117, R388): the kill reaches one member; with the last one the kill is done. -/
def execCommandKill (tag : Fin 1024) (s : State) : Host.Outcome State Fault Refusal :=
  match s.reqRegs.killBusy with
  | none => .next s
  | some (g, pre) =>
    if !s.live || !((s.group g).members.contains tag.val) then .next s
    else
      let s := if (s.tag tag.val).live then s.killMember tag.val pre else s
      .next (if (s.liveMembers g).isEmpty then s.killDone g pre else s)

/-- GROUP_REPLAY (R462): an open group that names a fenced tile is stopped, to be re-run elsewhere. -/
def execGroupReplay (group : Fin 1024) (s : State) : Host.Outcome State Fault Refusal :=
  let g := group.val
  let x := s.group g
  if !s.live || !x.open_ || x.members.isEmpty || x.replayed || !(s.groupFenced g) || x.members.any (fun m => (s.tag m).st = .committing) then .next s
  else
    let s := if (s.liveMembers g).isEmpty then s else s.stopGroup g none Stat.killed
    .next (((s.markRerun g).updGroup g (fun x => { x with replayed := true })).devEvent 0x44 g x.step x.members.length)

/-! ## Re-runs (R388, R462) -/

/-- A descriptor put in a tile's queue ahead of every one of the same or lower PRIO. -/
def State.queueAhead (s : State) (t d prio : Nat) : State :=
  s.updTile t (fun x =>
    let p := fun (q : Nat) => decide (prio < s.groupPrio (cdGroup q))
    { x with queue := x.queue.takeWhile p ++ d :: x.queue.dropWhile p })

/-- The descriptor of a re-run on another tile (R113, R388). -/
def retile (d t : Nat) : Nat := withCrc (setBits d 40 6 t) 64

/-- Resident plots pinned for a slot on one tile, by offset (R202). -/
def Slot.pinnedOn (m : Slot) (t : Nat) : List Nat := (m.pinned.filter (fun p => p.1 = t)).map (·.2)

/-- Another tile can take a member: of the same kind, not fenced, in service, of the same resident size, with the plots
its plan assumes, and with room in its queue (R462). -/
def State.canTake (s : State) (slot old t : Nat) : Bool :=
  let m := s.slot slot
  decide (t < 32) = decide (old < 32) && !(s.tile t).fenced && (s.tile t).qual.isNone && !(s.tpwr t).sweep && !(s.tpwr t).leftOut &&
    (s.tile t).resMib = (s.tile old).resMib && (m.pinnedOn old).all (fun o => (m.pinnedOn t).contains o) && decide ((s.tile t).queue.length < 32)

/-- RERUN_DELIVERY (R388, R461, R462): the stopped group is delivered again with its tags on the tiles given. -/
def execRerunDelivery (group : Fin 1024) (tiles : List (Fin 48)) (s : State) : Host.Outcome State Fault Refusal :=
  let g := group.val
  let x := s.group g
  let ts := tiles.map (·.val)
  let ready := x.members.all (fun m => (s.tag m).held && (s.tag m).rerun && (s.tag m).drain = 0)
  let fits := (List.zip x.members ts).all (fun e => s.canTake x.slot (s.tag e.1).tile e.2)
  if !s.live || !x.open_ || x.members.isEmpty || ts.length ≠ x.members.length || ts.eraseDups.length ≠ ts.length || !ready || !fits then .next s
  else
    let prio := s.groupPrio g
    let s := (s.updGroup g (fun x => { x with replayed := false, status := 0 })).journalRec .dispatch g x.planPos
      ((List.zip x.members ts).map (fun e => retile (s.tag e.1).desc e.2)) [] []
    .next ((List.zip x.members ts).foldl (fun (s : State) e =>
      let d := retile (s.tag e.1).desc e.2
      (s.updTag e.1 (fun y => { y with tile := e.2, desc := d, st := .queued, rerun := false, status := 0 })).queueAhead e.2 d prio) s.flushJournal)

/-! ## Completions and ends of steps (R378 to R380) -/

/-- TILE_COMPLETION (R379): firmware matches a completion by its tag. -/
def execTileCompletion (tag : Fin 1024) (s : State) : Host.Outcome State Fault Refusal :=
  if !s.live || !(s.tag tag.val).posted then .next s else .next (s.updTag tag.val (fun x => { x with posted := false }))

/-- Every command of a step has committed, or has failed without a re-run (R380). -/
def State.stepOver (s : State) (n : Nat) : Bool :=
  s.groups.all (fun e => e.2.step ≠ n || (!e.2.open_ && e.2.members.all (fun m => !((s.tag m).group = e.1 && (s.tag m).posted))))

/-- STEP_END (R380). -/
def execStepEnd (step : Nat) (s : State) : Host.Outcome State Fault Refusal :=
  if !s.live || !(s.reqRegs.inFlight.contains step) || !(s.stepOver step) then .next s
  else .next { s with reqRegs := { s.reqRegs with inFlight := s.reqRegs.inFlight.filter (· ≠ step) } }

/-- REQ_CNT_CLR (R396). -/
def execReqCntClr (s : State) : Host.Outcome State Fault Refusal :=
  if !s.live then .next s
  else .next { s with reqRegs := { s.reqRegs with admitted := 0, ended := 0, commits := 0, kills := 0, preempts := 0, late := 0, missed := 0 } }

/-- TAG_DRAIN_WRITE (R396). -/
def execTagDrainWrite (tag : Fin 1024) (s : State) : Host.Outcome State Fault Refusal :=
  if !s.live then .next s else .next { s with reqRegs := { s.reqRegs with drainTag := tag.val } }

/-! ## Slow-down and accounting (R393 to R395) -/

/-- SLOW_RATIO (R394). -/
def slowRatio (act est : Nat) : Nat := Nat.min 0xFFFFFFFF (act * 65536 / Nat.max 1 est)

/-- One tenant's period is judged (R394, R395). -/
def State.judgeTenant (s : State) (tn period : Nat) : State :=
  let a := s.acctOf tn
  let d := s.cfg.dev
  let r := slowRatio a.curAct a.curEst
  let clear := fun (a : Acct) => { a with slowAct := a.curAct, slowEst := a.curEst, curAct := 0, curEst := 0, curCmds := 0 }
  if a.curEst = 0 || a.curEst < d.slowMinAclk then s.updAcct tn clear
  else
    let up := decide (d.slowThreshold ≤ r) && !a.slow
    let down := decide (r < d.slowClear) && a.slow
    let s := s.updAcct tn (fun a => clear { a with slowRatio := r, slow := (a.slow || up) && !down,
                                                   slowPeriods := if d.slowThreshold ≤ r then (a.slowPeriods + 1) % 2 ^ 32 else a.slowPeriods })
    if up then s.tenantEvent tn 0x09 r 0 period a.curCmds else if down then s.tenantEvent tn 0x0A r 0 period a.curCmds else s

/-- The accounting record (R392). -/
def Acct.enc (a : Acct) (tn : Nat) : Nat :=
  let lks := fun (t : Tbl Nat) => (List.range 36).map (fun k => ((8 : Nat), Tbl.getD t k 0))
  withCrc (ofBytes (packFields ([(2, tn), (2, 0), (4, a.seq), (8, a.ctAclk), (8, a.btAclk), (8, a.bauAclk), (8, a.preemptAclk), (8, a.committed),
    (8, a.killed), (8, a.failed), (8, a.tokens), (8, a.recomputed)] ++ (List.range 6).map (fun k => (8, Tbl.getD a.bytes k 0)) ++ [(8, a.energy)] ++
    lks a.tx ++ lks a.rx ++ [(4, a.slowRatio), (4, a.slowPeriods), (8, a.slowAct), (8, a.slowEst), (284, 0), (4, 0)]))) 1024

/-- A record is rewritten whole in the accounting area, its energy estimate brought up to date (R228, R391, R393). -/
def State.rewriteAcct (s : State) (tn : Nat) : State :=
  let e := (Config.energyEst s.fresh).toNat
  let s := s.draw.updAcct tn (fun a =>
    let a := { a with seq := (a.seq + 1) % 2 ^ 32, energy := wrap64 (a.energy + e) }
    { a with record := a.enc tn })
  s.wr (0x10015000000 + 1024 * tn) 1024 (s.acctOf tn).record

/-- A tenant that has a model slot, or whose record lets it have work (R393). -/
def State.tenantActive (s : State) (tn : Nat) : Bool := (s.tenant tn).valid || s.slots.any (fun e => e.2.st ≠ .empty && e.2.tenant = tn)

/-- ACCT_REWRITE (R393). -/
def execAcctRewrite (tenant : BitVec 16) (s : State) : Host.Outcome State Fault Refusal :=
  if !s.live || !(s.tenantActive tenant.toNat) then .next s else .next (s.rewriteAcct tenant.toNat)

/-- SLOWDOWN_PERIOD (R394, R395): every 100 ms each tenant is judged and its record rewritten. -/
def execSlowdownPeriod (s : State) : Host.Outcome State Fault Refusal :=
  if !s.live || s.ltu < s.reqRegs.slowStart + 10000000 then .next s
  else
    let n := s.reqRegs.slowPeriod
    let s := (Tbl.keys s.acct).foldl (fun (s : State) tn => (s.judgeTenant tn n).rewriteAcct tn) s
    .next { s with reqRegs := { s.reqRegs with slowPeriod := n + 1, slowStart := s.reqRegs.slowStart + 10000000 } }

end Sys2Proof.Machine
end

