-- ==== Sys2Proof/Machine/Sched.lean ====
section
/-!
DEFINITION. Sys2Proof/Machine/Sched.lean: the composition of a step (R26, R49 to R51, R147, R148, R155 to R157, R380 to R386, R428, R434,
R464).
-/
namespace Sys2Proof.Machine

/-! ## Swing (R49 to R51) -/

/-- Pending prefill tokens (R49). -/
def State.pendingPrefill (s : State) : Nat :=
  (s.reqs.map (fun e => if e.2.isLive && (e.2.st = .admitted || e.2.st = .prefill) then e.2.promptLen - e.2.prefilled else 0)).sum

/-- A tile has not moved within the last SWING_HOLD_STEPS steps (R50). -/
def State.swingReady (s : State) (n t : Nat) : Bool :=
  match (s.tile t).lastMoved with
  | none => true
  | some m => decide (m / 64 + s.cfg.dev.swingHoldSteps ≤ n)

/-- The tiles lending takes, in order: the die with the most prefill C-tiles first, its highest-numbered tile first (R50). -/
def State.lendOrder (s : State) : List Nat :=
  let ts := s.prefillTiles
  let count := fun (d : Nat) => (ts.filter (fun t => dieOfTile t = d)).length
  let dies := sortBy (fun (a b : Nat) => decide (count b < count a) || (count a = count b && decide (a ≤ b))) [0, 1, 2, 3]
  dies.flatMap (fun d => (ts.filter (fun t => dieOfTile t = d)).reverse)

/-- One tile lent, the k-th move of boundary n. -/
def State.lendOne (s : State) (n k : Nat) : Option State :=
  if s.prefillTiles.length ≤ s.cfg.dev.swingMinPrefill then none
  else (s.lendOrder.find? (s.swingReady n)).map (fun t => s.updTile t (fun x => { x with lent := true, lastMoved := some (64 * n + k) }))

/-- One lent tile reclaimed, the most recently lent first. -/
def State.reclaimOne (s : State) (n k : Nat) : Option State :=
  let ts := (List.range 32).filter (fun t => (s.tile t).lent && !(s.tile t).fenced && s.swingReady n t)
  match ts with
  | [] => none
  | t :: ts =>
    let at_ := fun (t : Nat) => (s.tile t).lastMoved.getD 0
    let b := ts.foldl (fun b t => if at_ b < at_ t then t else b) t
    some (s.updTile b (fun x => { x with lent := false, lastMoved := some (64 * n + k) }))

/-- The states after none, one, two … moves, as far as moves go. -/
def swingSteps (move : State → Nat → Option State) : Nat → Nat → State → List State
  | 0, _, s => [s]
  | f + 1, k, s => match move s k with
    | none => [s]
    | some s' => s :: swingSteps move f (k + 1) s'

/-- Every loaded slot has a plan for a count of prefill C-tiles (R51). -/
def State.plansFor (s : State) (n : Nat) : Bool :=
  s.slots.all (fun e => e.2.st ≠ .loaded || e.2.plans.isEmpty || e.2.plans.any (fun p => p.1 = n || p.1 = 0xFFFF))

/-- The moves of one boundary: swing stops at the nearest count that has a plan, and says so (R51). -/
def State.swingTo (s : State) (ss : List State) : State :=
  match ss.reverse with
  | [] => s
  | last :: rest =>
    if s.plansFor last.prefillTiles.length || rest.isEmpty then last
    else
      let s' := (rest.find? (fun x => s.plansFor x.prefillTiles.length)).getD s
      s'.devEvent 0x04 s'.prefillTiles.length 0 0

/-- Step 2 of a boundary (R50, R381). -/
def State.swing (s : State) (n : Nat) : State :=
  let d := s.cfg.dev
  let p := s.pendingPrefill
  if d.personality ≠ 4 || !d.swingEnable then s
  else if p < d.swingLendBelow then s.swingTo (swingSteps (fun s k => s.lendOne n k) d.swingStepMax 0 s)
  else if d.swingReclaimAbove < p then s.swingTo (swingSteps (fun s k => s.reclaimOne n k) d.swingStepMax 0 s)
  else s

/-! ## Pending state changes (R29, R30, R42, R155, R208) -/

/-- A RESUME completes when the request is back in DECODE (R23, R42, R44). -/
def State.resumeServed (s : State) (i : Nat) : State :=
  let r := s.req i
  if r.st = .decode && r.opResume.isSome then (s.updReq i (fun r => { r with opResume := none })).completeIf r.opResume r.reqId 3 Stat.ok 0 else s

/-- One request's changes at a boundary. -/
def State.boundaryReq (s : State) (i : Nat) : State :=
  let r := s.req i
  if !r.isLive then s
  else
    let s := if r.seq.grace = 0 then s else s.updReq i (fun (r : Req) => { r with seq := { r.seq with grace := r.seq.grace - 1 } })
    let s :=
      if r.arrived then (s.updReq i (fun r => { r with arrived := false })).enterDecode i
      else if r.st = .resuming && r.pullDone && r.pull.isEmpty then
        ((s.updReq i (fun r => { r with pullDone := false, parkTarget := 0, peer := 0 })).enterDecode i).resumeServed i
      else if r.firstDone then (s.updReq i (fun r => { r with firstDone := false })).enterDecode i
      else if r.st = .admitted && r.opAdmit.isNone then s.updReq i (fun r => { r with st := .prefill })
      else s
    let r := s.req i
    if r.isLive && r.seq.reprefillPending && (r.st = .decode || r.st = .prefill) && !(s.reqNamed i) then
      s.updReq i (fun r => { r with st := .reprefill, backTo := r.st })
    else s

/-- Step 3 of a boundary (R381). -/
def State.boundaryChanges (s : State) : State :=
  let s := s.liveReqs.foldl (fun (s : State) i => (s.boundaryReq i).resumeServed i) s
  { s with pools := { s.pools with rebalanced := 0 } }

/-- Step 4 of a boundary (R386). -/
def State.boundaryDeadlines (s : State) : State :=
  s.liveReqs.foldl (fun (s : State) i =>
    let r := s.req i
    if !r.lateOk && s.overdue r && r.st ≠ .parked && r.st ≠ .expired then s.endRequest i Stat.deadlineMissed else s) s

/-! ## Plans (R51, R428) -/

/-- The template of a slot for a batch kind under the present count of prefill C-tiles, with the plan's count. -/
def State.template? (s : State) (k : Nat) (kind : BatchKind) : Option (Nat × Template) :=
  let n := s.prefillTiles.length
  let has := fun (p : Nat × List Template) => p.2.any (fun t => t.kind = kind)
  match (s.slot k).plans.find? (fun p => p.1 = n && has p), (s.slot k).plans.find? (fun p => p.1 = 0xFFFF && has p) with
  | some p, _ => (p.2.find? (fun t => t.kind = kind)).map (fun t => (p.1, t))
  | none, some p => (p.2.find? (fun t => t.kind = kind)).map (fun t => (p.1, t))
  | none, none => none

/-- A tile may take a member of a group: in service, its resident plots pinned, room in its queue (R202, R378, R464). -/
def State.tileOpen (s : State) (k count t : Nat) : Bool :=
  let m := s.slot k
  !(s.tile t).fenced && (s.tile t).qual.isNone && !(s.tpwr t).leftOut && !(s.tpwr t).sweep && decide ((s.tile t).queue.length < 32) &&
    (m.resident.all (fun e => e.2.1 ≠ t || (e.1 ≠ count && e.1 ≠ 0xFFFF) || m.pinned.contains (t, e.2.2.1)))

/-! ## What a step takes in (R147, R381, R382) -/

/-- R147: every page below the valid length lies in T1 or T2, and none is MOVING. -/
def State.pagesReady (s : State) (i : Nat) : Bool :=
  let r := s.req i
  !(s.moving i) && (r.seq.pagesFor 0 r.seq.maxLen).all (fun p => match Tbl.find? r.pages p with
    | some x => x.tier = 1 || x.tier = 2
    | none => false)

/-- Ring entries a request's decode step may write (R382). -/
def Req.decodeRoom (r : Req) : Nat := if r.speculate && r.draftReady then r.treeMax + 1 else 1

/-- The bound version's personality runs the phase (R1, R155, R382, R436). -/
def State.phaseRuns (s : State) (r : Req) : Bool :=
  let p := (s.devOf r.cfg).personality
  match r.st with
  | .decode => hasGeneration p
  | .prefill => hasPrompt p
  | .reprefill => true
  | _ => false

/-- A request takes part in the step (R155, R382, R455). -/
def State.takesPart (s : State) (i : Nat) : Bool :=
  let r := s.req i
  r.isLive && !r.lost && !r.firstDone && (r.st = .reprefill || !r.seq.reprefillPending) && s.phaseRuns r && !(s.reqNamed i) && !(s.reqHeld i) && s.pagesReady i && !(s.cutOff r) &&
    (r.st ≠ .decode || decide ((s.ring r.tokenRing).used + (s.ring r.tokenRing).resv + r.decodeRoom ≤ 2 ^ (s.ring r.tokenRing).log2))

/-- Order of R381, step 5; requests that recompute are served in the order they were pruned (R155). -/
def Req.before (i j : Nat) (a b : Req) : Bool :=
  let dl := fun (r : Req) => if r.deadline = 0 then 2 ^ 64 else r.deadline
  if a.st = .reprefill && b.st = .reprefill && a.prunedAt ≠ b.prunedAt then decide (a.prunedAt < b.prunedAt)
  else if a.prio ≠ b.prio then decide (b.prio < a.prio)
  else if dl a ≠ dl b then decide (dl a < dl b)
  else if a.seq.lastActive ≠ b.seq.lastActive then decide (a.seq.lastActive < b.seq.lastActive)
  else decide (i ≤ j)

/-- Step 5 of a boundary (R381). -/
def State.selected (s : State) : List Nat := sortBy (fun i j => Req.before i j (s.req i) (s.req j)) (s.liveReqs.filter s.takesPart)

/-- The batch a request's work belongs to: slot, version, kind, of the draft model or not. -/
structure BatchKey where
  slot : Nat
  cfg : Nat
  kind : BatchKind
  draft : Bool
  deriving DecidableEq

/-- Kind of a request's work in this step. -/
def State.kindOf (s : State) (i : Nat) : BatchKind :=
  let r := s.req i
  match r.st with
  | .prefill => .prefill
  | .reprefill => .recompute
  | _ => if r.speculate && r.draftReady && (s.template? r.slot .verify).isSome then .verify else .decode

def State.keyOf (s : State) (i : Nat) : BatchKey := ⟨(s.req i).slot, (s.req i).cfg, s.kindOf i, false⟩

/-! ## Chunks (R383) -/

/-- D: the estimate of the step's decode batches (R383). -/
def State.decodeEst (s : State) (is : List Nat) : Nat :=
  let keys := (is.map s.keyOf).eraseDups
  (keys.map (fun k =>
    let b := (is.filter (fun i => s.keyOf i = k)).length
    let n := match s.template? k.slot k.kind with
      | some (_, t) => cdiv b (Nat.max 1 t.maxBatch)
      | none => 1
    n * (s.slot k.slot).estBase + b * (s.slot k.slot).estPer)).sum

/-- Positions a request in PREFILL or REPREFILL has left. -/
def Req.left (r : Req) : Nat := if r.st = .prefill then r.promptLen - r.prefilled else r.recomputeTo - r.seq.minLen

/-- The chunk of one request: the pseudocode of R383, `none` when it waits. -/
def chunkOf (left per budget used : Nat) : Option Nat :=
  let est := fun (l : Nat) => cdiv l 512 * per
  if left ≤ 8192 && decide (used + est left ≤ budget) then some left
  else match (List.range 16).find? (fun k => decide (512 * (16 - k) ≤ Nat.min 8192 left) && decide (used + est (512 * (16 - k)) ≤ budget)) with
    | some k => some (512 * (16 - k))
    | none => if 0 < used then none else some (Nat.min 512 left)

/-- Chunks of the requests in order: (request, positions). -/
def State.chunks (s : State) (budget : Nat) : List Nat → Nat → List (Nat × Nat)
  | [], _ => []
  | i :: is, used =>
    let r := s.req i
    let per := (s.slot r.slot).estPrefill
    if r.left = 0 then State.chunks s budget is used
    else match chunkOf r.left per budget used with
      | none => State.chunks s budget is used
      | some l => (i, l) :: State.chunks s budget is (used + cdiv l 512 * per)

/-- The prefill budget of a step, halved while the power cap shortens chunks (R383, R510; DESIGN CHOICE log 37). -/
def State.budget (s : State) (d : Nat) : Nat :=
  let b := Nat.max d (s.cfg.dev.stepTargetUs * 800)
  if s.pwr.shorten then b / 2 else b

/-! ## Key-value space (R148, R151, R155 to R157) -/

/-- Positions `first` up to `last` get their pages; false when the request waits, or has ended for want of space. -/
def State.ensureKv (s : State) (i last : Nat) (mayPrune : Bool) : State × Bool :=
  let r := s.req i
  if last ≤ r.seq.reservedLen then (s, true)
  else
    let compat := s.cfg.dev.compat
    if !compat && decide (s.quotaSum r.tenant < (r.seq.pagesFor 0 last).length) then (s.endRequest i Stat.noKvSpace, false)
    else match s.allocPages i (s.permitted r.tenant) (mayPrune && !compat) (r.seq.pagesFor r.seq.reservedLen last) with
      | (s, true) => ((s.updReq i (fun (r : Req) => { r with seq := { r.seq with reservedLen := last } })).writeSeq i, true)
      | (s, false) => if compat then (s.endRequest i Stat.noKvSpace, false) else (s, false)

/-- The work of a request in this step; `chunk` is its positions when it is a chunk. -/
def State.workOf (s : State) (i chunk : Nat) : Work :=
  let r := s.req i
  match s.kindOf i with
  | .prefill => { req := i, first := r.prefilled, len := chunk, w := b2n (r.promptLen ≤ r.prefilled + chunk), ring := r.tokenRing }
  | .recompute => { req := i, first := r.seq.minLen, len := chunk, w := 0, ring := r.tokenRing }
  | .verify => { req := i, first := r.seq.minLen, len := r.treeMax + 1, w := r.treeMax + 1, ring := r.tokenRing }
  | .decode => { req := i, first := r.seq.minLen, len := 1, w := 1, ring := r.tokenRing }

/-- Step 7 of a boundary for one request: its work when it has its space, unless an allocation before it has pruned it. A
recomputation takes the space of its whole span, and prunes nobody (R148, R155). -/
def State.allocWork (s : State) (i chunk : Nat) : State × Option (BatchKey × Work) :=
  let w := s.workOf i chunk
  let key := s.keyOf i
  let re := key.kind = .recompute
  if !(s.takesPart i) then (s, none)
  else match s.ensureKv i (if re then (s.req i).recomputeTo else w.first + w.len) (!re) with
  | (s, true) => (s, some (key, w))
  | (s, false) => (s, none)

/-- A work still stands once every allocation is done: its request was not pruned by a later one (R148). -/
def State.workStands (s : State) (w : Work) : Bool := s.takesPart w.req && decide (w.first + w.len ≤ (s.req w.req).seq.reservedLen)

def State.allocAll (s : State) : List (Nat × Nat) → State × List (BatchKey × Work)
  | [] => (s, [])
  | e :: es =>
    let x := s.allocWork e.1 e.2
    let y := State.allocAll x.1 es
    (y.1, match x.2 with
      | some w => w :: y.2
      | none => y.2)

/-- A chunk for a draft model that lags behind (R35). -/
def State.draftWork (s : State) (i : Nat) : Option (BatchKey × Work) :=
  let r := s.req i
  let n := r.journal.length - 1
  if r.st = .decode && r.speculate && !r.draftReady && decide (r.draftPos < n) && s.slotLoaded r.draftSlot r.tenant then
    some (⟨r.draftSlot, r.cfg, .prefill, true⟩, { req := i, first := r.draftPos, len := Nat.min 8192 (n - r.draftPos), w := 0, ring := r.tokenRing })
  else none

/-! ## Delivery (R113, R378, R428) -/

/-- Firmware's buffer for the draft tree of a request's step (R143; log 36). -/
def treeBuf (i : Nat) : Nat := 0x10004000000 + 512 * (i % 65536)

/-- Virtual address of a request's bias row, 0 for none (R249, R255, R428). -/
def State.biasVa (s : State) (r : Req) : Nat :=
  let m := s.slot r.slot
  if r.biasRow = 0xFF || m.embDesc = 0 then 0
  else let d := s.rd m.embDesc 64; tdBias d + r.biasRow * roundUp (2 * tdVocab d) 64

/-- The value a patch writes (R428). -/
def State.patchVal (s : State) (kind : Nat) (ws : List Work) (w : Work) : Nat :=
  let r := s.req w.req
  match kind with
  | 0x01 => w.req
  | 0x02 => r.seq.minLen
  | 0x03 => seqAddr w.req
  | 0x04 => r.seq.base
  | 0x05 => w.first
  | 0x06 => w.len
  | 0x07 => r.journal.getLastD 0
  | 0x08 => reqAddr w.req + 0x48
  | 0x09 => s.biasVa r
  | 0x0A => treeBuf w.req
  | 0x0C => ws.length
  | _ => 0

/-- Bytes put over a list from an offset on. -/
def putAt (bs : List Byte) (off : Nat) (v : List Byte) : List Byte := bs.take off ++ v ++ bs.drop (off + v.length)

/-- The argument block of an instance (R428); a patch for a request the batch has not is not written. -/
def State.argBlock (s : State) (t : Template) (ws : List Work) : List Byte :=
  t.patches.foldl (fun bs p =>
    match (if p.2.1 = 0x0C then some (nth ws 0 ⟨0, 0, 0, 0, 0, false⟩) else ws[p.2.2.2]?) with
    | some w => if p.1 + p.2.2.1 ≤ bs.length then putAt bs p.1 (toBytes p.2.2.1 (s.patchVal p.2.1 ws w)) else bs
    | none => bs) t.args

/-- Tags that are free, the lowest first (R378). -/
def State.freeTags (s : State) (n : Nat) : List Nat := ((List.range 1024).filter (fun k => !(s.tag k).held && !(s.tag k).posted)).take n

/-- A template's descriptor with the fields firmware writes (R113, R428). -/
def fillDesc (d tag group tenant slot cfg asid step : Nat) : Nat :=
  withCrc (setFld (setFld (setFld (setFld (setFld (setFld (setFld d 0 2 tag) 2 2 group) 8 2 tenant) 0x0A 2 slot) 0x0C 2 cfg) 0x0E 2 asid) 0x24 4 step) 64

/-- One member delivered to its tile's queue. -/
def State.deliverMember (s : State) (group tag d : Nat) (args : List Byte) : State :=
  let t := cdTile d
  (s.updTag tag (fun _ => { held := true, group := group, tile := t, desc := d, args := args })).updTile t (fun x => { x with queue := x.queue ++ [d] })

/-- A batch delivered whole, or none when tags, tiles or queue room are missing (R378, R461). -/
def State.deliverBatch (s : State) (step : Nat) (k : BatchKey) (ws : List Work) : Option State :=
  match s.template? k.slot k.kind with
  | none => none
  | some (count, t) =>
    let n := t.members.length
    let tags := s.freeTags n
    let tiles := t.members.map cdTile
    match tags with
    | [] => none
    | g :: _ =>
      if tags.length < n || tiles.eraseDups.length ≠ n || !(tiles.all (s.tileOpen k.slot count)) then none
      else
        let tn := (s.slot k.slot).tenant
        let args := s.argBlock t ws
        let s := ws.foldl (fun (s : State) w => (s.updRing w.ring (fun r => { r with resv := r.resv + w.w })).writeReq w.req) s
        let s := { s with groups := Tbl.put s.groups g { members := tags, kind := k.kind, works := ws, slot := k.slot, tenant := tn, cfg := k.cfg, step := step, draft := k.draft } }
        let ds := (List.zip tags t.members).map (fun e => (e.1, fillDesc e.2 e.1 g tn k.slot k.cfg (s.tenant tn).asid (step % 2 ^ 32)))
        let s := (s.journalRec .dispatch g 0 (ds.map (·.2)) [] []).flushJournal
        some (ds.foldl (fun (s : State) e => s.deliverMember g e.1 e.2 args) s)

/-- Works in batches, in order: a decode batch takes requests up to MAX_BATCH, a chunk stands alone (R380). -/
def State.batches (s : State) (ws : List (BatchKey × Work)) : List (BatchKey × List Work) :=
  ws.foldl (fun (bs : List (BatchKey × List Work)) e =>
    let cap := match s.template? e.1.slot e.1.kind with
      | some (_, t) => if e.1.kind = .decode || e.1.kind = .verify then t.maxBatch else 1
      | none => 1
    match bs.findIdx? (fun b => b.1 = e.1 && decide (b.2.length < cap)) with
    | some j => bs.mapIdx (fun n b => if n = j then (b.1, b.2 ++ [e.2]) else b)
    | none => bs ++ [(e.1, [e.2])]) []

/-- Step 8 of a boundary: whether anything was delivered. -/
def State.deliverAll (s : State) (step : Nat) : List (BatchKey × List Work) → State × Bool
  | [] => (s, false)
  | b :: bs => match s.deliverBatch step b.1 b.2 with
    | some s => ((State.deliverAll s step bs).1, true)
    | none => State.deliverAll s step bs

/-! ## Shadow runs (R464) -/

/-- A tile in qualification by REF TILE runs one of the step's commands of a tile of its kind again (R464). -/
def State.shadowOn (s : State) (step t : Nat) : State :=
  let want := match (s.tile t).qual with
    | some (ref, _, _) => ref = 1
    | none => false
  let src := (List.range 1024).find? (fun k =>
    let x := s.tag k
    x.held && x.st = .queued && (s.group x.group).step = step && decide (x.tile < 32) = decide (t < 32) && (s.tile x.tile).resMib = (s.tile t).resMib && !(cdShadow x.desc))
  match src, s.freeTags 1 with
  | some k, g :: _ =>
    if !want || (s.tile t).fenced || 32 ≤ (s.tile t).queue.length then s
    else
      let x := s.group (s.tag k).group
      let d := withCrc (setFld (setBits (setBits (setFld (setFld (s.tag k).desc 0 2 g) 2 2 g) 32 8 1) 40 6 t) 6 1 1) 64
      let s := { s with groups := Tbl.put s.groups g { members := [g], kind := x.kind, slot := x.slot, tenant := x.tenant, cfg := x.cfg, step := step } }
      (((s.journalRec .dispatch g 0 [d] [] []).flushJournal).deliverMember g g d (s.tag k).args).updTile t (fun y => { y with against := some (s.tag k).tile })
  | _, _ => s

/-! ## The boundary (R380, R381) -/

/-- Steps 5 to 8. -/
def State.compose (s : State) (n : Nat) : State :=
  let sel := s.selected
  let decs := sel.filter (fun i => (s.req i).st = .decode)
  let pres := sel.filter (fun i => (s.req i).st ≠ .decode)
  let cs := s.chunks (s.budget (s.decodeEst decs)) pres 0
  let plan := sel.filterMap (fun i => if (s.req i).st = .decode then some (i, 1) else cs.find? (fun c => c.1 = i))
  let x := s.allocAll plan
  let s := x.1
  let ws := x.2.filter (fun e => s.workStands e.2) ++ (decs.filter s.takesPart).filterMap s.draftWork
  match s.deliverAll n (s.batches ws) with
  | (s, false) => s
  | (s, true) =>
    let s := (List.range 48).foldl (fun (s : State) t => (s.shadowOn n t).updTpwr t (fun p => { p with leftOut := false })) s
    { s with reqRegs := { s.reqRegs with step := n, inFlight := s.reqRegs.inFlight ++ [n] } }

/-! ## Qualification (R464) -/

/-- A tile leaves qualification. -/
def State.qualEnd (s : State) (t : Nat) : State := s.updTile t (fun x => { x with qual := none, against := none })

/-- One comparison's outcome. -/
def State.qualCompare (s : State) (t disagree : Nat) : State :=
  match (s.tile t).qual with
  | none => s
  | some (ref, runs, k) =>
    if disagree ≠ 0 then ((s.qualEnd t).devEvent 0x47 t (k + 1) disagree).fence 1 t
    else if runs ≤ k + 1 then (s.qualEnd t).devEvent 0x46 t runs 0
    else s.updTile t (fun x => { x with qual := some (ref, runs, k + 1), against := none })

end Sys2Proof.Machine
end

