-- ==== Sys2Proof/Machine/Intake.lean ====
section
/-!
DEFINITION. Sys2Proof/Machine/Intake.lean: the ring engine's intake of submission entries (R23, R363 to R365, R367, R374).
-/
namespace Sys2Proof.Machine

/-- An ACTIVE submission ring with an entry to take (R364, R411). -/
def State.submits (s : State) (r : Nat) : Bool :=
  let g := s.ring r
  g.kind = .submission && g.rstate = .active && !g.disabled && g.head ≠ g.tail && (s.ld g.ld).bound

/-- The completion ring of a submission ring is full, or HALTED and so treated as full (R365). -/
def State.cplFull (s : State) (r : Nat) : Bool := !((s.ring (s.ring r).bind).takes && (s.ring (s.ring r).bind).due.isEmpty)

/-- The ring's turn has come in the round robin: it was not served in this turn, or every ring that can be served was
(R364). -/
def State.ringTurn (s : State) (r : Nat) : Bool :=
  !(s.ringRegs.turn.contains r) || (Tbl.keys s.rings).all (fun k => !(s.submits k) || s.cplFull k || s.ringRegs.turn.contains k)

/-- The turn after a ring has been served. -/
def State.ringServed (s : State) (r : Nat) : State :=
  { s with ringRegs := { s.ringRegs with turn := if s.ringRegs.turn.contains r then [r] else r :: s.ringRegs.turn } }

/-- An operation by its OP; a reserved OP completes with INVALID_FIELD (R15, R367). -/
def State.applyEntry (s : State) (r e : Nat) : State :=
  match seOp e with
  | 1 => s.admitNew r e
  | 2 => s.parkOp r e
  | 3 => s.resumeOp r e
  | 4 => s.cancelOp r e
  | 5 => s.redirectOp r e
  | op => (s.opTaken r).completeOp ⟨seSubId e, r⟩ (seReqId e) op Stat.invalidField 0

/-- The entry at HEAD: from the window, or by a CXL.cache read that returns `host`; none when that read fails (R363,
R397). -/
def State.readEntry (s : State) (r : Nat) (host : Option (BitVec 1024)) : State × Option Nat :=
  let g := s.ring r
  if g.window then (s, some (s.rd (0x10800000000 + g.base + 128 * (g.head % 2 ^ g.log2)) 128))
  else if s.cxl.state ≠ 2 then (s, none)
  else ({ s with cxl := { s.cxl with cacheReads := satAdd 32 s.cxl.cacheReads 1 } }, host.map (·.toNat))

/-- An entry whose CRC holds is taken: HEAD moves on, then its operation applies (R364). -/
def State.takeSub (s : State) (r e : Nat) : State :=
  let s := s.updRing r (fun g => { g with head := (g.head + 1) % 2 ^ 32 })
  ({ s with ringRegs := { s.ringRegs with subTaken := satAdd 32 s.ringRegs.subTaken 1 } }).applyEntry r e

/-- RING_ENTRY_TAKE (R364, R365, R367). -/
def execRingEntryTake (ring : Nat) (host : Option (BitVec 1024)) (s : State) : Host.Outcome State Fault Refusal :=
  if !s.live || s.devState ≠ .ready || !(s.submits ring) then .next s
  else if s.cplFull ring then .next { s with ringRegs := { s.ringRegs with cplStalls := satAdd 8 s.ringRegs.cplStalls 1 } }
  else if !(s.ringTurn ring) then .next s
  else match (s.ringServed ring).readEntry ring host with
    | (s, none) => .next (s.haltRing ring 4)
    | (s, some e) => if crcOk e 128 then .next (s.takeSub ring e) else .next (s.haltRing ring 1)

end Sys2Proof.Machine
end

