-- ==== Sys2Proof/Machine/Mailbox.lean ====
section
/-!
DEFINITION. Sys2Proof/Machine/Mailbox.lean: the Rinix Mailbox Protocol: mailboxes, messages, the common checks and replies
(R405, R406, R416 to R424, R473, R505, R531).
-/
namespace Sys2Proof.Machine

/-! ## Mailboxes and their buffers (R405, R406) -/

/-- Address of a mailbox's buffer (R406). -/
def mbAddr : MbId → Nat
  | .ld l m => 0x28000400000 + 0x10000 * l.val + 0x1000 * m.val
  | .fabric => 0x28000409000

/-- A mailbox by number, 9 x LD + m; 144 is the fabric mailbox. -/
def mbNum : MbId → Nat
  | .ld l m => 9 * l.val + m.val
  | .fabric => 144

def mbOf (n : Nat) : MbId := if h : n < 144 then .ld ⟨n / 9, by omega⟩ ⟨n % 9, by omega⟩ else .fabric

def State.mbox (s : State) : MbId → Mailbox
  | .ld l m => Tbl.getD (s.ld l.val).mbs m.val {}
  | .fabric => s.fabricMb

def State.updMb (s : State) (mb : MbId) (f : Mailbox → Mailbox) : State :=
  match mb with
  | .ld l m => s.updLd l.val (fun d => { d with mbs := Tbl.upd d.mbs m.val {} f })
  | .fabric => { s with fabricMb := f s.fabricMb }

/-- A window offset as an address (R65). -/
def hostWin (off : Nat) : Nat := 0x10800000000 + off

/-- A range of the window that a message taken on a mailbox may name (R408); in recovery the whole of BAR4-5 while it maps
the window (R549). -/
def State.winOk (s : State) (mb : MbId) (off n : Nat) : Bool :=
  if s.devState = .recovery then s.boot.recWindow && decide (off + n ≤ 2 ^ 36)
  else match mb with
  | .ld l _ => s.inWindow l.val off n
  | .fabric => decide (off + n ≤ 2 ^ 36)

/-! ## Messages (R417, R421) -/

def msgOp (m : Nat) : Nat := fld m 0 2
def msgLen (m : Nat) : Nat := fld m 4 2
def msgTag (m : Nat) : Nat := fld m 8 8

/-- CRC-32C over bytes 0x00 to 0x1B and 0x20 to LEN - 1 (R417). -/
def msgCrc (bs : List Byte) : Nat := crc32c (bs.take 0x1C ++ bs.drop 0x20)

/-- A reply or a notice as it lies in the buffer (R417). -/
def State.message (s : State) (op status flags tag detail : Nat) (payload : List Byte) : List Byte :=
  let h := packFields [(2, op), (2, status), (2, 32 + payload.length), (1, flags), (1, 0), (8, tag), (2, s.curVersion), (2, s.cmap.cur), (8, detail)]
  h ++ toBytes 4 (crc32c (h ++ payload)) ++ payload

/-- DONE sets, and the LD's MSI-X message is sent when MB_VECTOR enables it (R405). -/
def State.mbDone (s : State) (mb : MbId) : State :=
  let s := s.updMb mb (fun x => { x with busy := false, done := true, msg := 0, waits := false })
  match mb with
  | .ld l _ => if (s.ld l.val).mbVecEn then s.msix l.val (s.ld l.val).mbVec else s
  | .fabric => s

/-- A reply: written over the request, BUSY clear and DONE set, then the MSI-X message when it is enabled; discarded when
the LD was unbound meanwhile (R418, R438). -/
def State.reply (s : State) (mb : MbId) (status detail : Nat) (payload : List Byte) : State :=
  let x := s.mbox mb
  if x.abandoned then s.updMb mb (fun x => { x with busy := false, abandoned := false, msg := 0, waits := false })
  else (s.wrBytes (mbAddr mb) (s.message (msgOp x.msg) status 1 (msgTag x.msg) detail payload)).mbDone mb

/-- A status alone. -/
def State.answer (s : State) (mb : MbId) (status : Nat) : State := s.reply mb status 0 []

/-- INVALID_FIELD at an offset (R423). -/
def State.answerBad (s : State) (mb : MbId) (off : Nat) : State := s.reply mb Stat.invalidField off []

/-! ## Who may send what (R422, R473, R505, R531) -/

/-- Mailbox classes of R422. -/
inductive MbClass where
  | any | admin | device | ofLd
  deriving DecidableEq, Repr

/-- Class of a defined opcode. -/
def opClass : Nat → Option MbClass
  | 0x0001 => some .any
  | 0x0101 | 0x0102 | 0x0103 | 0x0104 | 0x0201 | 0x0601 => some .device
  | 0x0202 | 0x0401 | 0x0402 | 0x0901 | 0x0905 => some .admin
  | 0x0301 | 0x0302 | 0x0303 | 0x0304 | 0x0305 | 0x0501 | 0x0502 | 0x0903 | 0x0904 => some .ofLd
  | 0x0701 | 0x0702 | 0x0703 | 0x0704 | 0x0705 => some .device
  | 0x0801 | 0x0802 | 0x0803 | 0x0804 | 0x0805 | 0x0806 | 0x0807 => some .device
  | 0x0902 | 0x0906 => some .device
  | _ => none

/-- A mailbox is permitted for a class. -/
def State.mbPermits (s : State) (mb : MbId) (c : MbClass) : Bool :=
  match mb, c with
  | _, .any => true
  | .fabric, c => c ≠ .ofLd
  | .ld _ m, .admin => m = 0
  | .ld l m, .device => m = 0 && l.val = s.cfg.dev.adminLd
  | .ld _ _, .ofLd => true

/-- A tenant belongs to a mailbox's LD (R421). -/
def State.belongs (s : State) (mb : MbId) (tn : Nat) : Bool :=
  match mb with
  | .fabric => true
  | .ld l m => (m = 0 && l.val = s.cfg.dev.adminLd) || (s.tenant tn).ld = l.val

/-- The tenant a message names. -/
def msgTenant (m : Nat) : Option Nat :=
  match msgOp m with
  | 0x0301 => if (fld m 0x20 1 = 1 || fld m 0x20 1 = 3) && fld m 0x34 2 ≠ 0xFFFF then some (fld m 0x34 2) else none
  | 0x0305 | 0x0502 => some (fld m 0x28 2)
  | 0x0401 => some (fld m 0x22 2)
  | 0x0501 => some (fld m 0x20 2)
  | _ => none

/-! ## Fields (R408, R423, R473, R505, R531) -/

/-- Bytes of an opcode's payload. -/
def payloadLen (m : Nat) : Nat :=
  match msgOp m with
  | 0x0101 => 48
  | 0x0102 => 16
  | 0x0103 | 0x0402 | 0x0501 => 2
  | 0x0104 => 24
  | 0x0301 => 24
  | 0x0302 | 0x0304 => 4
  | 0x0303 => 8
  | 0x0305 => 32
  | 0x0401 => 48
  | 0x0502 | 0x0601 => 10
  | 0x0702 => 16
  | 0x0703 => 1
  | 0x0704 => 2
  | 0x0705 => 8
  | 0x0801 | 0x0902 => 4
  | 0x0802 => 128
  | 0x0803 | 0x0903 => 16
  | 0x0804 => 24
  | 0x0805 => 24
  | 0x0806 => 4 + 2 * fld m 0x22 2
  | 0x0807 => 8
  | 0x0904 | 0x0906 => 1
  | _ => 0

/-- A field between bounds, at its offset. -/
def inField (m off n lo hi : Nat) : Bool × Nat := (decide (lo ≤ fld m off n) && decide (fld m off n ≤ hi), off)

/-- Reserved bytes. -/
def resField (m off n : Nat) : Bool × Nat := (fld m off n == 0, off)

/-- A window offset field of 8 bytes, a multiple of `align`, with `n` bytes behind it. -/
def State.winField (s : State) (mb : MbId) (m off align n : Nat) : Bool × Nat :=
  (decide (fld m off 8 < 2 ^ 36) && fld m off 8 % align == 0 && s.winOk mb (fld m off 8) n, off)

/-- BASE and BIND of a ring to be created (R359, R408, R422). -/
def State.ringFields (s : State) (mb : MbId) (m : Nat) : List (Bool × Nat) :=
  let k := fld m 0x20 1
  let base := fld m 0x28 8
  let bind := fld m 0x30 4
  let bytes := 2 ^ fld m 0x21 1 * (if k = 1 then 128 else 32)
  let own := match mb with
    | .ld l _ => (s.ring bind).ld == l.val
    | .fabric => false
  [inField m 0x20 1 1 4, inField m 0x21 1 4 16, (fld m 0x22 1 / 2 == 0, 0x22), resField m 0x23 1, (bits (fld m 0x24 2) 11 4 == 0, 0x24),
   (base % 4096 == 0 && (!(bit (fld m 0x22 1) 0) || (decide (base < 2 ^ 36) && s.winOk mb base bytes)), 0x28),
   (if k = 1 then decide (bind < 262144) && (s.ring bind).rstate ≠ .free && (s.ring bind).kind = .completion && own else bind = 0, 0x30),
   (k = 1 || k = 3 || fld m 0x34 2 = 0xFFFF, 0x34), resField m 0x36 2]

/-- A unit kind with its index, as FCL_FENCE_CMD takes them (R474). -/
def unitField (m : Nat) : List (Bool × Nat) :=
  let op := fld m 0x20 1
  let kind := fld m 0x21 1
  let qual := op = 3 || (op = 2 && kind = 1)
  [inField m 0x20 1 1 3, (if op = 3 then kind = 1 else 1 ≤ kind && kind ≤ 5, 0x21),
   (if qual then fld m 0x22 1 = 1 || fld m 0x22 1 = 2 else fld m 0x22 1 = 0, 0x22), (if qual then fld m 0x23 1 ≠ 0 else fld m 0x23 1 = 0, 0x23),
   (if op = 3 then fld m 0x24 4 = 0 else fenceIdxOk kind (fld m 0x24 4), 0x24), (if op = 3 then decide (fld m 0x28 8 < 2 ^ 48) else fld m 0x28 8 = 0, 0x28)]

/-- Registers named lie in one block of the register space (R74, R423). -/
def regField (m : Nat) : List (Bool × Nat) :=
  let a := fld m 0x20 8
  let n := fld m 0x28 2
  [(decide (0x30000000000 ≤ a) && decide (a < 0x30010000000) && a % 8 == 0, 0x20),
   (1 ≤ n && n ≤ 64 && decide (a / 0x8000 = (a + 8 * n - 1) / 0x8000), 0x28)]

/-- The fields of an opcode's payload, in their order (R15, R423). -/
def State.payloadFields (s : State) (mb : MbId) (m : Nat) : List (Bool × Nat) :=
  match msgOp m with
  | 0x0101 => [s.winField mb m 0x20 64 (fld m 0x28 4), (64 ≤ fld m 0x28 4 && fld m 0x28 4 ≤ 8388608 && fld m 0x28 4 % 64 == 0, 0x28), resField m 0x2E 2]
  | 0x0102 => [inField m 0x22 1 1 2, resField m 0x23 5, (fld m 0x22 1 ≠ 1 || fld m 0x28 8 = 0, 0x28)]
  | 0x0104 => [inField m 0x20 1 1 2, resField m 0x21 3, inField m 0x28 4 1 8388608, resField m 0x2C 4, s.winField mb m 0x30 1 (fld m 0x28 4)]
  | 0x0301 => s.ringFields mb m
  | 0x0305 => [resField m 0x2A 2, inField m 0x30 4 1 1048576, resField m 0x34 4, s.winField mb m 0x38 4 (4 * fld m 0x30 4)]
  | 0x0401 => [inField m 0x20 2 0 16383, s.winField mb m 0x28 1 (fld m 0x24 4)]
  | 0x0402 => [inField m 0x20 2 0 16383]
  | 0x0601 => regField m
  | 0x0702 => [s.winField mb m 0x20 1 (fld m 0x28 4), inField m 0x28 4 0 (32 * 2 ^ 20), resField m 0x2C 4]
  | 0x0703 => [inField m 0x20 1 0 1]
  | 0x0704 => [inField m 0x20 1 1 2, inField m 0x21 1 0 1]
  | 0x0705 => [inField m 0x20 1 1 6, resField m 0x21 7]
  | 0x0801 => [(decide (fld m 0x20 2 < 1024), 0x20), (1 ≤ fld m 0x22 2 && fld m 0x22 2 ≤ 512 && decide (fld m 0x20 2 + fld m 0x22 2 ≤ 1024), 0x22)]
  | 0x0803 => unitField m
  | 0x0804 =>
    [inField m 0x20 2 0 1, inField m 0x22 1 0 1, resField m 0x23 5,
     if fld m 0x22 1 = 1 then s.winField mb m 0x28 1 (fld m 0x30 8) else (true, 0x28)]
  | 0x0805 => [s.winField mb m 0x20 1 64, s.winField mb m 0x28 1 (fld m 0x30 4), resField m 0x34 4]
  | 0x0806 =>
    [inField m 0x20 2 0 4095, inField m 0x22 2 1 1000] ++
      (List.range (fld m 0x22 2)).map (fun k => inField m (0x24 + 2 * k) 2 0 16383)
  | 0x0807 => [(fld m 0x20 2 ≤ 65535 && bits (fld m 0x20 8) 18 14 == 0 && 1 ≤ bits (fld m 0x20 8) 16 2 && bits (fld m 0x20 8) 42 22 == 0, 0x20)]
  | 0x0902 => [inField m 0x20 4 600 2100]
  | 0x0903 => [inField m 0x2C 1 1 3, resField m 0x2D 3]
  | 0x0904 => [inField m 0x20 1 0 63]
  | 0x0906 => [inField m 0x20 1 0 16]
  | _ => []

/-- The header's fields of a request (R417). -/
def headFields (m : Nat) : List (Bool × Nat) :=
  [resField m 2 2, (decide (32 + payloadLen m ≤ msgLen m), 4), resField m 6 1, resField m 7 1, resField m 0x10 2, resField m 0x12 2, resField m 0x14 8]

/-- DETAIL of an INVALID_FIELD reply: for RMP_CFG_STAGE, [39:32] says that the field lies in the message (R423). -/
def badDetail (m off : Nat) : Nat := if msgOp m = 0x0101 then off + 0xFF * 2 ^ 32 else off

/-- STATE admits an opcode: READY every one, RECOVERY those of R549, any state RMP_IDENTIFY (R421). -/
def State.admits (s : State) (op : Nat) : Bool :=
  op = 0x0001 || s.devState = .ready || (s.devState = .recovery && (op = 0x0701 || op = 0x0702 || op = 0x0703 || op = 0x0705))

/-- R421, checks 1 to 6 on a message whose bytes are `bs`: its status and DETAIL. -/
def State.msgCheck (s : State) (mb : MbId) (bs : List Byte) : Nat × Nat :=
  let m := ofBytes bs
  let len := msgLen m
  if len < 32 || 4096 < len || len % 4 ≠ 0 then (Stat.invalidField, 4)
  else if msgCrc bs ≠ fld m 0x1C 4 then (Stat.checkFailed, 0)
  else if !(s.admits (msgOp m)) then (Stat.notReady, 0)
  else if msgOp m = 0x0002 then (Stat.wrongMailbox, 0)
  else match opClass (msgOp m) with
    | none => (Stat.unknownOpcode, 0)
    | some c =>
      let owns := match msgTenant m with
        | none => true
        | some tn => s.belongs mb tn
      if !(s.mbPermits mb c) || !owns then (Stat.wrongMailbox, 0)
      else match firstBad (headFields m ++ s.payloadFields mb m) with
        | some o => (Stat.invalidField, badDetail m o)
        | none => (Stat.ok, 0)

/-! ## GO and the taking of messages (R416, R418, R420) -/

/-- MB_GO (R405, R420); RECOVERY takes messages too (R549). The fabric mailbox has no MB_CTRL: FM_VENDOR_RMP submits its messages (R406). -/
def execMbGo (mb : MbId) (s : State) : Host.Outcome State Fault Refusal :=
  match mb with
  | .fabric => .next s
  | .ld l _ =>
    let x := s.mbox mb
    if !s.boot.good || !s.boot.released || !s.presents l.val then .next s
    else if x.busy || x.done || (s.devState ≠ .ready && s.devState ≠ .recovery) || !(s.ld l.val).bound then .next (s.updMb mb (fun x => { x with reject := true }))
    else .next (s.updMb mb (fun x => { x with go := true }))

/-- A mailbox of a bound LD has a message that waits. -/
def State.mbWaits (s : State) (l m : Nat) : Bool := (s.ld l).bound && (Tbl.getD (s.ld l).mbs m {}).go && !(Tbl.getD (s.ld l).mbs m {}).busy

/-- The mailbox whose message firmware takes next (R416): operational mailboxes by 8 x LD + m - 1 go round. -/
def State.nextMb (s : State) : Option MbId :=
  if s.fabricMb.go && !s.fabricMb.busy then some .fabric
  else match firstBelow 16 (fun l => s.mbWaits l 0) with
    | some l => some (.ld (Fin.ofNat 16 l) 0)
    | none =>
      (firstFrom (fun k => s.mbWaits (k % 128 / 8) (k % 8 + 1)) 128 (s.mbTurn + 1)).map (fun k =>
        .ld (Fin.ofNat 16 (k % 128 / 8)) (Fin.ofNat 9 (k % 8 + 1)))

/-- The turn after a mailbox was taken. -/
def State.mbServed (s : State) (mb : MbId) : State :=
  match mb with
  | .ld l m => if m = 0 then s else { s with mbTurn := 8 * l.val + m.val - 1 }
  | .fabric => s

/-- The message as the buffer stands: LEN bytes of it, at least the header (R419). -/
def State.readMsg (s : State) (mb : MbId) : List Byte :=
  s.bytes (mbAddr mb) (Nat.max 32 (Nat.min 4096 (s.rd (mbAddr mb + 4) 2)))

/-- A mailbox's message is taken: GO clears, BUSY sets, and the checks of R421 up to the sixth run; a message that fails
one is answered at once, and has no other effect. -/
def State.takeMsg (s : State) (mb : MbId) : State :=
  let bs := s.readMsg mb
  let s := (s.mbServed mb).updMb mb (fun x => { x with go := false, busy := true, msg := ofBytes bs })
  match s.msgCheck mb bs with
  | (st, d) => if st = Stat.ok then s else s.reply mb st d []

/-- MESSAGE_TAKE (R416, R418, R421). -/
def execMessageTake (s : State) : Host.Outcome State Fault Refusal :=
  match s.nextMb with
  | none => .next s
  | some mb => if !s.live then .next s else .next (s.takeMsg mb)

/-- The message a mailbox holds for an opcode that firmware has taken and not begun to answer. -/
def State.held (s : State) (mb : MbId) (op : Nat) : Option Nat :=
  let x := s.mbox mb
  if s.live && x.busy && !x.waits && msgOp x.msg = op then some x.msg else none

/-! ## Identity (R422 to R424) -/

/-- The payload of an RMP_IDENTIFY reply (R423). -/
def State.identity (s : State) : List Byte :=
  packFields [(8, s.sec.otp.uid), (4, s.sec.fwVersion), (1, s.sec.otp.lc), (1, s.cfg.dev.personality), (2, s.cfg.dev.fabricId),
    (2, match s.cfg.staged with
      | some i => i.version
      | none => 0), (1, if s.cxl.mld then 16 else 1), (1, s.cfg.dev.adminLd), (4, 0)]

/-- RMP_IDENTIFY. -/
def execRmpIdentify (mb : MbId) (s : State) : Host.Outcome State Fault Refusal :=
  match s.held mb 0x0001 with
  | none => .next s
  | some _ => .next (s.reply mb Stat.ok 0 s.identity)

/-- The RMP_READY notice in every bound LD's admin mailbox (R424). -/
def State.readyNotices (s : State) : State :=
  (List.range (if s.cxl.mld then 16 else 1)).foldl (fun (s : State) l =>
    if !(s.ld l).bound then s
    else
      let mb := MbId.ld (Fin.ofNat 16 l) 0
      (s.wrBytes (mbAddr mb) (s.message 0x0002 0 3 0 0 s.identity)).mbDone mb) s

end Sys2Proof.Machine
end

