-- ==== Sys2Proof/Machine/RmpHost.lean ====
section
/-!
DEFINITION. Sys2Proof/Machine/RmpHost.lean: RMP opcodes on configuration versions, rings, journals and records (R422, R423,
R433, R434, R438, R439).
-/
namespace Sys2Proof.Machine

/-! ## Configuration versions -/

/-- RMP_CFG_STAGE (R429, R433, R277). -/
def execRmpCfgStage (mb : MbId) (s : State) : Host.Outcome State Fault Refusal :=
  match s.held mb 0x0101 with
  | none => .next s
  | some m =>
    let img := s.bytes (hostWin (fld m 0x20 8)) (fld m 0x28 4)
    match s.stageStatus img (fld m 0x2C 2) (fld m 0x30 32) with
    | (0, _) =>
      let s := s.wrBytes (versionSlotAt s.cfg.nextSlot) img
      let s := { s with cfg := { s.cfg with staged := some { version := fld m 0x2C 2, bytes := img } } }
      .next (s.helloChanged.answer mb Stat.ok)
    | (st, d) => .next (s.reply mb st d [])

/-- The staged version has a number. -/
def State.isStaged (s : State) (v : Nat) : Bool :=
  match s.cfg.staged with
  | some i => i.version = v
  | none => false

/-- RMP_CFG_COMMIT (R434). -/
def execRmpCfgCommit (mb : MbId) (s : State) : Host.Outcome State Fault Refusal :=
  match s.held mb 0x0102 with
  | none => .next s
  | some m =>
    if !(s.isStaged (fld m 0x20 2)) then .next (s.answer mb Stat.versionStale)
    else if s.cfg.cond.isSome then .next (s.answer mb Stat.busy)
    else
      let c := if fld m 0x22 1 = 1 then CommitWhen.step else .time (fld m 0x28 8)
      .next ({ s with cfg := { s.cfg with cond := some c } }.answer mb Stat.ok)

/-- RMP_CFG_DISCARD (R422, R438). -/
def execRmpCfgDiscard (mb : MbId) (s : State) : Host.Outcome State Fault Refusal :=
  match s.held mb 0x0103 with
  | none => .next s
  | some m =>
    if !(s.isStaged (fld m 0x20 2)) then .next (s.answer mb Stat.versionStale)
    else .next ({ s with cfg := { s.cfg with staged := none, cond := none } }.helloChanged.answer mb Stat.ok)

/-- RMP_CFG_READ (R423): from the version's slot (R429). -/
def execRmpCfgRead (mb : MbId) (s : State) : Host.Outcome State Fault Refusal :=
  match s.held mb 0x0104 with
  | none => .next s
  | some m =>
    match (if fld m 0x20 1 = 1 then s.cfg.current else s.cfg.staged) with
    | none => .next (s.answer mb Stat.versionStale)
    | some i =>
      let off := fld m 0x24 4
      let n := fld m 0x28 4
      let slot := if fld m 0x20 1 = 1 then s.cfg.slot else s.cfg.nextSlot
      if i.bytes.length ≤ off then .next (s.answerBad mb 0x24)
      else if i.bytes.length < off + n then .next (s.answerBad mb 0x28)
      else .next ((s.wrBytes (hostWin (fld m 0x30 8)) (s.bytes (versionSlotAt slot + off) n)).answer mb Stat.ok)

/-! ## Rings -/

/-- A ring number that is free, the lowest (R422; log 35). -/
def State.freeRing (s : State) : Option Nat :=
  firstBelow (Nat.min 262144 (s.rings.length + 1)) (fun r => (s.ring r).rstate = .free)

/-- The ring a message describes (R359, R423). -/
def ringOf (m ld : Nat) : Ring :=
  { kind := (kindOf (fld m 0x20 1)).getD .submission, rstate := .active, ld := ld, log2 := fld m 0x21 1, vector := bits (fld m 0x24 2) 0 11,
    irq := bit (fld m 0x24 2) 15, window := bit (fld m 0x22 1) 0, base := fld m 0x28 8, bind := fld m 0x30 4, tenant := fld m 0x34 2,
    coalesceUs := fld m 0x26 2 }

/-- RMP_RING_CREATE (R422): an ACTIVE ring of the mailbox's LD. -/
def execRmpRingCreate (mb : MbId) (s : State) : Host.Outcome State Fault Refusal :=
  match s.held mb 0x0301, mb with
  | some m, .ld l _ =>
    match s.freeRing with
    | none => .next (s.answer mb Stat.noResource)
    | some r =>
      let s := { s with rings := Tbl.put s.rings r (ringOf m l.val) }
      .next ((s.writeRing r).reply mb Stat.ok 0 (toBytes 4 r))
  | _, _ => .next s

/-- The ring a message names is one of the mailbox's LD (R422). -/
def State.ownRing (s : State) (mb : MbId) (r : Nat) : Bool :=
  match mb with
  | .ld l _ => decide (r < 262144) && (s.ring r).rstate ≠ .free && (s.ring r).ld = l.val
  | .fabric => false

/-- The LD section of the current or of the staged version names a ring (R422). -/
def State.cfgNames (s : State) (r : Nat) : Bool :=
  s.cfg.defCq.any (fun e => e.2 = r) || s.cfg.eventRing.any (fun e => e.2 = r) ||
    (match s.cfg.staged with
      | none => false
      | some i => match imgSection i.bytes 4 with
        | none => false
        | some bs => (List.range 32).any (fun k => imgAt bs (4 * k) 4 = r))

/-- A token ring is bound to a request or drains; a HALTED one by the state it was in. -/
def Ring.holds (g : Ring) : Bool :=
  g.kind = .token && (g.rstate = .bound || g.rstate = .draining || (g.rstate = .halted && (g.was = .bound || g.was = .draining)))

/-- RMP_RING_DESTROY is BUSY (R422). -/
def State.ringBusy (s : State) (r : Nat) : Bool :=
  (s.ring r).holds || (s.ring r).destroying || s.cfgNames r ||
    s.rings.any (fun e => e.2.kind = .submission && e.2.rstate ≠ .free && e.2.bind = r) ||
    s.reqs.any (fun e => (e.2.isLive || e.2.ending) && e.2.cplRing = r)

/-- A ring becomes FREE (R359). -/
def State.freeRingNum (s : State) (r : Nat) : State :=
  let s := s.updRing r (fun g => { g with rstate := .free })
  let s := s.writeRing r
  { s with rings := Tbl.del s.rings r }

/-- RMP_RING_DESTROY (R422). -/
def execRmpRingDestroy (mb : MbId) (s : State) : Host.Outcome State Fault Refusal :=
  match s.held mb 0x0302 with
  | none => .next s
  | some m =>
    let r := fld m 0x20 4
    if !(s.ownRing mb r) then .next (s.answerBad mb 0x20)
    else if s.ringBusy r then .next (s.answer mb Stat.busy)
    else if (s.ring r).kind = .submission then .next ((s.updRing r (fun g => { g with disabled := true, destroying := true })).answer mb Stat.ok)
    else .next ((s.freeRingNum r).answer mb Stat.ok)

/-- SUBMISSION_RING_FREED (R422): every operation taken from it has posted its completion. -/
def execSubmissionRingFreed (ring : BitVec 18) (s : State) : Host.Outcome State Fault Refusal :=
  let g := s.ring ring.toNat
  if !s.live || !g.destroying || g.taken ≠ 0 || (s.ring g.bind).due.any (fun e => fld e 0x12 1 ≠ 0) then .next s
  else .next (s.freeRingNum ring.toNat)

/-- RMP_RING_RESUME (R364, R422, R423). -/
def execRmpRingResume (mb : MbId) (s : State) : Host.Outcome State Fault Refusal :=
  match s.held mb 0x0303 with
  | none => .next s
  | some m =>
    let r := fld m 0x20 4
    let h := fld m 0x24 4
    let g := s.ring r
    let headOk := h = 0xFFFFFFFF || (g.kind = .submission && decide ((h + 2 ^ 32 - g.head) % 2 ^ 32 ≤ g.used))
    if !(s.ownRing mb r) then .next (s.answerBad mb 0x20)
    else if !headOk then .next (s.answerBad mb 0x24)
    else if g.rstate ≠ .halted || g.destroying then .next (s.answer mb Stat.wrongState)
    else
      let s := s.updRing r (fun g => { g with head := if h = 0xFFFFFFFF then g.head else h })
      .next ((s.resumeRing r).answer mb Stat.ok)

/-- RMP_RING_QUERY (R422). -/
def execRmpRingQuery (mb : MbId) (s : State) : Host.Outcome State Fault Refusal :=
  match s.held mb 0x0304 with
  | none => .next s
  | some m =>
    let r := fld m 0x20 4
    if !(s.ownRing mb r) then .next (s.answerBad mb 0x20) else .next (s.reply mb Stat.ok 0 (toBytes 64 (s.ring r).desc))

/-! ## Journals and records -/

/-- RMP_TOKEN_FETCH (R439): tokens by their index, 0 the first generated. -/
def execRmpTokenFetch (mb : MbId) (s : State) : Host.Outcome State Fault Refusal :=
  match s.held mb 0x0305 with
  | none => .next s
  | some m =>
    match s.reqBy (fld m 0x20 8) (fld m 0x28 2) with
    | none => .next (s.answer mb Stat.wrongState)
    | some i =>
      let r := s.req i
      let ts := ((r.journal.drop r.promptLen).drop (fld m 0x2C 4)).take (fld m 0x30 4)
      .next ((s.wrBytes (hostWin (fld m 0x38 8)) (packFields (ts.map (fun t => (4, t))))).reply mb Stat.ok 0 (toBytes 4 ts.length))

/-- RMP_ACCT_READ (R393): the last rewrite. -/
def execRmpAcctRead (mb : MbId) (s : State) : Host.Outcome State Fault Refusal :=
  match s.held mb 0x0501 with
  | none => .next s
  | some m => .next (s.reply mb Stat.ok 0 (toBytes 1024 (s.acctOf (fld m 0x20 2)).record))

/-- RMP_REQ_QUERY (R367, R376). -/
def execRmpReqQuery (mb : MbId) (s : State) : Host.Outcome State Fault Refusal :=
  match s.held mb 0x0502 with
  | none => .next s
  | some m =>
    match s.reqBy (fld m 0x20 8) (fld m 0x28 2) with
    | none => .next (s.answer mb Stat.wrongState)
    | some i => .next (s.reply mb Stat.ok 0 (toBytes 256 (s.req i).enc))

end Sys2Proof.Machine
end

