-- ==== Sys2Proof/Machine/Models.lean ====
section
/-!
DEFINITION. Sys2Proof/Machine/Models.lean: model slots: Usian objects, loading and unloading (R377, R427, R428).
-/
namespace Sys2Proof.Machine

/-! ## The container (R427) -/

/-- A section of an object: SKIND, SFLAGS, ARG, and its bytes. -/
structure Section where
  kind : Nat
  flags : Nat
  arg : Nat
  bytes : List Byte

/-- The section-table entries. -/
def objEntries (o : List Byte) : List Nat := records 32 (imgAt o 6 2) (o.drop 0x80)

/-- The bytes a section-table entry names. -/
def objSpan (o : List Byte) (e : Nat) : List Byte := (o.drop (fld e 8 8)).take (fld e 0x10 8)

/-- The sections in their order. -/
def objSections (o : List Byte) : List Section := (objEntries o).map (fun e => ⟨fld e 0 1, fld e 1 1, fld e 2 2, objSpan o e⟩)

/-- The sections of a kind. -/
def sectionsOf (o : List Byte) (k : Nat) : List Section := (objSections o).filter (fun x => x.kind = k)

/-- The bytes of the one section of a kind. -/
def sectionOf (o : List Byte) (k : Nat) : List Byte :=
  match sectionsOf o k with
  | x :: _ => x.bytes
  | [] => []

/-- R427's first check, the digest apart: the header's CRC over the table too, and every SCRC. -/
def objCrcs (o : List Byte) : Bool :=
  let n := imgAt o 6 2
  decide (0x80 + 32 * n ≤ o.length) && imgAt o 0x7C 4 == crc32c (o.take 0x7C ++ (o.drop 0x80).take (32 * n)) &&
    (objEntries o).all (fun e => decide (fld e 8 8 + fld e 0x10 8 ≤ o.length) && fld e 0x1C 4 == crc32c (objSpan o e))

/-! ## Plans (R428) -/

def batchKind : Nat → Option BatchKind
  | 1 => some .decode
  | 2 => some .verify
  | 3 => some .prefill
  | 4 => some .recompute
  | _ => none

/-- The fields of a member's descriptor that firmware fills are zero: TAG, GROUP, TENANT, MODEL_SLOT, CFG_VERSION, ASID,
STEP and CRC. -/
def memberZero (d : Nat) : Bool := fld d 0 4 == 0 && fld d 8 8 == 0 && fld d 0x24 4 == 0 && fld d 0x3C 4 == 0

/-- A patch record within its argument block. -/
def patchOk (argBytes maxBatch p : Nat) : Bool :=
  let k := fld p 4 1
  let w := fld p 5 1
  1 ≤ k && k ≤ 0x0C && (w = 2 || w = 4 || w = 8) && decide (fld p 0 4 + w ≤ argBytes) && (k = 0x0C || decide (fld p 6 2 < maxBatch))

/-- One group template at the front of a PLAN section, and what follows it; none when it is malformed. -/
def parseTemplate (bs : List Byte) : Option (Template × List Byte) :=
  let n := imgAt bs 1 1
  let mb := imgAt bs 2 2
  let a := imgAt bs 4 4
  let p := imgAt bs 8 4
  let fin := 32 + 64 * n + a + 8 * p
  let ms := records 64 n (bs.drop 32)
  let ps := records 8 p (bs.drop (32 + 64 * n + a))
  match batchKind (imgAt bs 0 1) with
  | none => none
  | some k =>
    if n = 0 || 48 < n || mb = 0 || imgAt bs 12 20 ≠ 0 || bs.length < fin || !(ms.all memberZero) || !(ps.all (patchOk a mb)) then none
    else
      some ({ kind := k, maxBatch := mb, members := ms, args := (bs.drop (32 + 64 * n)).take a,
              patches := ps.map (fun e => (fld e 0 4, fld e 4 1, fld e 5 1, fld e 6 2)) }, bs.drop fin)

/-- The templates of a plan: at most one for each batch kind, and nothing else. -/
def parsePlan : Nat → List Byte → Option (List Template)
  | _, [] => some []
  | 0, _ => none
  | f + 1, bs => match parseTemplate bs with
    | none => none
    | some (t, rest) => match parsePlan f rest with
      | none => none
      | some ts => if ts.any (fun x => x.kind = t.kind) then none else some (t :: ts)

/-- The plans of an object by the C-tile count they serve. -/
def objPlans (o : List Byte) : List (Nat × List Template) :=
  (sectionsOf o 2).map (fun x => (x.arg, (parsePlan 4 x.bytes).getD []))

/-! ## Plots (R427) -/

/-- Records and plots of a RESIDENT or WEIGHTS section: each record with its plot. -/
def plotRecords (bs : List Byte) : List (Nat × List Byte) :=
  let n := imgAt bs 0 4
  (List.zip (records 8 n (bs.drop 4)) (List.range n)).map (fun e => (e.1, (bs.drop (4 + 8 * n + 65536 * e.2)).take 65536))

/-- The section's length is what its count gives. -/
def plotsLen (bs : List Byte) : Bool := decide (4 ≤ bs.length) && bs.length == 4 + (8 + 65536) * imgAt bs 0 4

/-- Bytes cut into plots, the last one filled up with zeros. -/
def cutPlots : Nat → List Byte → List (List Byte)
  | 0, _ => []
  | n + 1, bs => (bs.take 65536 ++ List.replicate (65536 - (bs.take 65536).length) 0#8) :: cutPlots n (bs.drop 65536)

/-- The plots that hold some bytes. -/
def asPlots (bs : List Byte) : List (List Byte) := cutPlots (cdiv bs.length 65536) bs

/-! ## Checks of the object (R134 to R137, R377, R427) -/

/-- The geometry of a SLOT image (R134 to R136, R377). -/
def slotGeometryOk (e : Nat) : Bool :=
  let l := fld e 0x10 1
  let h := fld e 0x11 1
  let d := fld e 0x12 1
  let f := fld e 0x13 1
  let lim := fun (v lo hi : Nat) => decide (lo ≤ v) && decide (v ≤ hi)
  lim l 1 128 && lim h 1 64 && (((f = 1 || f = 2) && lim d 1 3) || (f = 0x0B && lim d 2 3)) && lim (fld e 0x14 1) 1 128 && lim (fld e 0x15 1) 0 64 &&
    lim (fld e 0x16 1) 0 18 && lim (fld e 0x17 1) 0 8 && lim (fld e 0x18 4) 1 262144 && decide (l * h * 2 ^ fld e 0x16 1 * 65536 ≤ 2 ^ 44)

/-- The fields of a SLOT image that firmware fills are zero, and the reserved ones (R377, R427). -/
def slotZero (e : Nat) : Bool :=
  fld e 0 0x10 == 0 && fld e 0x1C 4 == 0 && fld e 0x40 24 == 0 && fld e 0x64 156 == 0

/-- A section-table entry's own fields. -/
def State.sectionOk (s : State) (x : Nat) : Bool :=
  let k := fld x 0 1
  let arg := fld x 2 2
  1 ≤ k && k ≤ 8 && fld x 4 4 == 0 && fld x 0x18 4 == 0 && fld x 8 8 % 64 == 0 && (if k = 8 then fld x 1 1 / 4 = 0 else fld x 1 1 = 0) &&
    (if k = 2 || k = 3 then arg = 0xFFFF || (s.cfg.dev.swingMinPrefill ≤ arg && arg ≤ 32) else arg = 0)

/-- R427's second check. -/
def State.objFieldsOk (s : State) (o : List Byte) : Bool :=
  let n := fun (k : Nat) => (sectionsOf o k).length
  let e := ofBytes (sectionOf o 1)
  imgAt o 0 4 == 0x55534F42 && imgAt o 4 2 == 1 && imgAt o 8 8 == o.length && decide (imgAt o 0x10 2 ≤ 0x0100) && Config.planAbiOk (imgAt o 0x12 2) &&
    imgAt o 0x14 104 == 0 && 1 ≤ imgAt o 6 2 && imgAt o 6 2 ≤ 1024 && (objEntries o).all s.sectionOk &&
    n 1 = 1 && 1 ≤ n 2 && n 5 = 1 && n 6 = 1 && n 7 ≤ 1 && 1 ≤ n 8 && ((sectionsOf o 2).map (·.arg)).eraseDups.length = n 2 &&
    (sectionOf o 1).length = 256 && slotGeometryOk e && slotZero e && (sectionOf o 5).length = 65536 &&
    (sectionOf o 6).length = 8 * fld e 0x10 1 * fld e 0x11 1 &&
    (sectionsOf o 2).all (fun x => (parsePlan 4 x.bytes).isSome) && (sectionsOf o 3).all (fun x => plotsLen x.bytes && (plotRecords x.bytes).all (fun r =>
      decide (fld r.1 0 1 < 48) && fld r.1 1 3 == 0 && fld r.1 4 4 % 65536 == 0)) &&
    (sectionsOf o 4).all (fun x => plotsLen x.bytes && (plotRecords x.bytes).all (fun r => bits r.1 0 16 == 0 && bits r.1 56 8 == 0)) &&
    (sectionsOf o 7).all (fun x => decide (64 ≤ x.bytes.length) && crcOk (imgAt x.bytes 0 64) 64) && (sectionsOf o 8).all (fun x => decide (4 ≤ x.bytes.length))

/-! ## Placing (R151, R202, R427) -/

/-- First virtual address of what firmware maps for a slot: bias table, key-value scales, embedding table (log 18). -/
def slotVa (k : Nat) : Nat := 2 ^ 54 + k * 2 ^ 34
def slotScalesVa (k : Nat) : Nat := slotVa k + 65536
def slotTableVa (k : Nat) : Nat := slotVa k + 2 ^ 33

/-- One plot of a slot allocated, written and mapped (R151, R202); none when no tier has room. -/
def State.placeSlot (s : State) (k : Nat) (tiers : List Nat) (vpn : Nat) (bs : List Byte) : Option State :=
  let tn := (s.slot k).tenant
  match s.allocTiers tn (vpn % 128) tiers with
  | none => none
  | some (s, p) => (s.fillPlace tn p bs).map (fun s =>
      (s.setPage (s.tenant tn).asid vpn ((s.slot k).leaf vpn p)).updSlot k (fun m => { m with plots := Tbl.put m.plots vpn p }))

/-- Plots placed in order, from the virtual pages named. -/
def State.placeSlots (s : State) (k : Nat) (tiers : List Nat) : List (Nat × List Byte) → Option State
  | [] => some s
  | e :: es => match s.placeSlot k tiers e.1 e.2 with
    | none => none
    | some s => State.placeSlots s k tiers es

/-- Consecutive virtual pages from an address. -/
def fromVa (va : Nat) (ps : List (List Byte)) : List (Nat × List Byte) := List.zip (rangeFrom (va / 65536) ps.length) ps

/-- The table descriptor at the head of an EMBED section, its offsets made addresses (R249, R427). -/
def rebaseTable (d va : Nat) : Nat :=
  let add := fun (d off : Nat) => setFld d off 8 (fld d off 7 + va)
  let d := add (add (add (add d 0) 8) 0x10) 0x18
  withCrc (if tdBiasRows d = 0 then d else add d 0x28) 64

/-- The EMBED section: its first plot, which holds the descriptor, in T2 (R249), the others under R151. -/
def State.placeTable (s : State) (k : Nat) (tiers : List Nat) (bs : List Byte) : Option State :=
  let va := slotTableVa k
  let bs := toBytes 64 (rebaseTable (imgAt bs 0 64) va) ++ bs.drop 64
  match fromVa va (asPlots bs) with
  | [] => some s
  | e :: es => match s.placeSlot k [2] e.1 e.2 with
    | none => none
    | some s => (State.placeSlots s k tiers es).map (fun s =>
        s.updSlot k (fun m => { m with embDesc := ((Tbl.find? m.plots e.1).bind Place.addr).getD 0 }))

/-- The tenant has an ASID, the lowest that no tenant has (R125; log 18). -/
def State.needAsid (s : State) (tn : Nat) : State :=
  if (s.tenant tn).asid ≠ 0 then s
  else match firstFrom (fun a => !(s.tenants.any (fun e => e.2.asid = a))) (s.tenants.length + 1) 1 with
    | some a => ((s.updTenant tn (fun t => { t with asid := a })).writeTenant tn).openAsid a tn
    | none => s

/-- The records of the plots to be pinned for a count of prefill C-tiles (R202, R427). -/
def residentsFor (o : List Byte) (count : Nat) : List (Nat × List Byte) :=
  ((sectionsOf o 3).filter (fun x => x.arg = count || x.arg = 0xFFFF)).flatMap (fun x => plotRecords x.bytes)

/-- Every resident plot the object names: count, tile, offset, and where it lies in memory. -/
def objResident (o : List Byte) (addr : Nat) : List (Nat × Nat × Nat × Nat) :=
  (objEntries o).flatMap (fun e =>
    if fld e 0 1 ≠ 3 then []
    else
      let bs := objSpan o e
      let n := imgAt bs 0 4
      (List.zip (records 8 n (bs.drop 4)) (List.range n)).map (fun r =>
        (fld e 2 2, fld r.1 0 1, fld r.1 4 4, addr + fld e 8 8 + 4 + 8 * n + 65536 * r.2)))

/-- One resident plot pinned at load, when its tile can take it now; else a later PIN brings it (R107, R202). -/
def State.pinAtLoad (s : State) (k : Nat) (r : Nat × List Byte) : State :=
  let t := fld r.1 0 1
  let off := fld r.1 4 4
  if !(s.pinOk t off) then s
  else
    let m := s.slot k
    let s := if m.pinned.contains (t, off) then s
      else (s.charge m.tenant 0).updSlot k (fun x => { x with pinned := (t, off) :: x.pinned })
    s.placeBytes (tileBase t + off) r.2

/-- What the SLOT image says of the slot (R377). -/
def slotOf (m : Slot) (e : Nat) (o : List Byte) (k addr cfg : Nat) : Slot :=
  { m with cfg := cfg, layers := fld e 0x10 1, kvHeads := fld e 0x11 1, headDim := fld e 0x12 1, kvFmt := fld e 0x13 1, qHeads := fld e 0x14 1,
           sinkN := fld e 0x15 1, pageBits := fld e 0x16 1, vocab := fld e 0x18 4, stop := (List.range (fld e 0x17 1)).map (fun j => fld e (0x20 + 4 * j) 4),
           planTable := addr, biasTbl := slotVa k, kvScales := slotScalesVa k, estBase := fld e 0x58 4, estPer := fld e 0x5C 4,
           estPrefill := fld e 0x60 4, plans := objPlans o, resident := objResident o addr, qual := true }

/-- R427's third check and the placing: none when a plot finds no room in the tenant's quotas or the tiers. -/
def State.placeObject (s : State) (k addr : Nat) (o : List Byte) : Option State :=
  let tn := (s.slot k).tenant
  let s := s.needAsid tn
  let tiers := s.permitted tn
  let pins := residentsFor o s.prefillTiles.length
  let s := s.updSlot k (fun m => slotOf m (ofBytes (sectionOf o 1)) o k addr s.curVersion)
  let plots := (sectionsOf o 4).flatMap (fun x => (plotRecords x.bytes).map (fun r => (bits r.1 16 40, r.2))) ++
    fromVa (slotVa k) [sectionOf o 5] ++ fromVa (slotScalesVa k) (asPlots (sectionOf o 6))
  if s.quotaLeft tn 0 < ((pins.map (fun r => (fld r.1 0 1, fld r.1 4 4))).eraseDups).length then none
  else match s.placeSlots k tiers plots with
    | none => none
    | some s => match (if (sectionsOf o 7).isEmpty then some s else s.placeTable k tiers (sectionOf o 7)) with
      | none => none
      | some s => some (pins.foldl (fun (s : State) r => s.pinAtLoad k r) s)

/-- The load of an object into a slot that is LOADING: its status, and the state with the slot LOADED when it is OK. -/
def State.loadObject (s : State) (k addr digest : Nat) (o : List Byte) : State × Nat :=
  if shake256 o ≠ digest || !(objCrcs o) then (s, Stat.checkFailed)
  else if !(s.objFieldsOk o) then (s, Stat.invalidField)
  else match s.placeObject k addr o with
    | none => (s, Stat.quotaExceeded)
    | some s => (s.updSlot k (fun m => { m with st := .loaded }), Stat.ok)

/-! ## The entry (R228, R377) -/

def MState.code : MState → Nat
  | .empty => 0
  | .loading => 1
  | .loaded => 2
  | .unloading => 3

/-- The 256-byte entry. -/
def Slot.enc (m : Slot) : Nat :=
  withCrc (ofBytes (packFields ([(2, m.tenant), (1, m.st.code), (1, 0), (2, m.cfg), (2, 0), (8, m.embDesc), (1, m.layers), (1, m.kvHeads), (1, m.headDim),
    (1, m.kvFmt), (1, m.qHeads), (1, m.sinkN), (1, m.pageBits), (1, m.stop.length), (4, m.vocab), (4, 0)] ++
    (List.range 8).map (fun j => (4, nth m.stop j 0)) ++ [(8, m.planTable), (8, m.biasTbl), (8, m.kvScales), (4, m.estBase), (4, m.estPer), (4, m.estPrefill)]))) 256

/-- The entry in the model-slot table. -/
def State.writeSlot (s : State) (k : Nat) : State := s.wr (0x10014400000 + 256 * k) 256 (s.slot k).enc

/-- A slot goes back to EMPTY. -/
def State.emptySlot (s : State) (k : Nat) : State :=
  let s := { s with slots := Tbl.del s.slots k }
  s.writeSlot k

/-! ## Rows -/

/-- RMP_MODEL_LOAD (R422, R427): the reply; the load itself ends with MODEL_LOADED. -/
def execRmpModelLoad (mb : MbId) (s : State) : Host.Outcome State Fault Refusal :=
  match s.held mb 0x0401 with
  | none => .next s
  | some m =>
    let k := fld m 0x20 2
    if (s.slot k).st ≠ .empty then .next (s.answer mb Stat.wrongState)
    else if 16 ≤ (s.slots.filter (fun e => e.2.st = .loading)).length then .next (s.answer mb Stat.noResource)
    else
      let x : Slot := { tenant := fld m 0x22 2, st := .loading, cfg := s.curVersion, object := (hostWin (fld m 0x28 8), fld m 0x24 4, fld m 0x30 32) }
      let s := { s with slots := Tbl.put s.slots k x }
      .next ((s.writeSlot k).answer mb Stat.ok)

/-- MODEL_LOADED (R426, R427): the load ends with the status of the first check that fails, or OK. -/
def execModelLoaded (slot : Fin 16384) (s : State) : Host.Outcome State Fault Refusal :=
  let k := slot.val
  let m := s.slot k
  if !s.live || m.st ≠ .loading then .next s
  else match s.loadObject k m.object.1 m.object.2.2 (s.bytes m.object.1 m.object.2.1) with
    | (s, 0) => .next ((s.writeSlot k).tenantEvent m.tenant 0x83 k 0 0 Stat.ok)
    | (s, st) => .next ((s.emptySlot k).tenantEvent m.tenant 0x83 k 0 0 st)

/-- A live request names a slot, as its model or its draft model (R422). -/
def State.slotWanted (s : State) (k : Nat) : Bool := s.liveReqs.any (fun i => (s.req i).slot = k || (s.req i).draftSlot = k)

/-- RMP_MODEL_UNLOAD (R422). -/
def execRmpModelUnload (mb : MbId) (s : State) : Host.Outcome State Fault Refusal :=
  match s.held mb 0x0402 with
  | none => .next s
  | some m =>
    let k := fld m 0x20 2
    if (s.slot k).st ≠ .loaded || s.slotWanted k then .next (s.answer mb Stat.wrongState)
    else .next (((s.updSlot k (fun x => { x with st := .unloading })).writeSlot k).answer mb Stat.ok)

/-- MODEL_UNLOADED (R204, R393, R422, R426): no command uses the slot, so everything placed for it is freed. -/
def execModelUnloaded (slot : Fin 16384) (s : State) : Host.Outcome State Fault Refusal :=
  let k := slot.val
  let m := s.slot k
  if !s.live || m.st ≠ .unloading || s.slotNamed k || m.pins.any (fun e => e.2 ≠ 0) then .next s
  else
    let s := m.plots.foldl (fun (s : State) e => s.freeSlotPlot k e.1) s
    let s := m.pinned.foldl (fun (s : State) _ => s.credit m.tenant 0) s
    let s := s.emptySlot k
    let s := if s.slots.any (fun e => e.2.tenant = m.tenant) then s else s.rewriteAcct m.tenant
    .next (s.tenantEvent m.tenant 0x84 k 0 0 0)

end Sys2Proof.Machine
end

