-- ==== Sys2Proof/Machine/Map.lean ====
section
/-!
DEFINITION. Sys2Proof/Machine/Map.lean: logical devices and the composition map: what unbinding and a Function Level Reset do,
RMP_MAP_SET, the Fabric Manager's commands, the window as a host reads and writes it, PERST_N (R398 to R415, R442, R544).
-/
namespace Sys2Proof.Machine

/-! ## What an LD loses (R407, R415, R518) -/

/-- A submission ring that does not exist: an operation taken from it completes without an entry. -/
def noRing : Nat := 262144

/-- The rings of LDs that lose them. -/
def State.ringsOf (s : State) (ls : List Nat) : List Nat :=
  (Tbl.keys s.rings).filter (fun r => (s.ring r).rstate ≠ .free && ls.contains (s.ring r).ld)

/-- A pending operation whose submission ring goes (R415). -/
def State.orphanOp (s : State) (ls : List Nat) (p : Option PendOp) : Option PendOp :=
  p.map (fun (o : PendOp) => if ls.contains (s.ring o.ring).ld then { o with ring := noRing } else o)

/-- Operations whose rings go complete without an entry; END entries due on those rings are discarded (R407, R415). -/
def State.orphan (s : State) (ls : List Nat) : State :=
  let s := { s with reqs := Tbl.mapAll s.reqs (fun (r : Req) =>
    { r with opAdmit := s.orphanOp ls r.opAdmit, opPark := s.orphanOp ls r.opPark, opResume := s.orphanOp ls r.opResume,
             opRedirect := s.orphanOp ls r.opRedirect, opCancel := s.orphanOp ls r.opCancel }) }
  { s with reqs := s.reqs.filter (fun e => !(e.2.ending && ls.contains (s.ring e.2.cplRing).ld)) }

/-- Every ring of the LDs becomes FREE (R407, R415). -/
def State.freeRings (s : State) (ls : List Nat) : State :=
  let rs := s.ringsOf ls
  rs.foldl (fun (s : State) r => s.freeRingNum r) (s.orphan ls)

/-- A request's entries written by steps under way go to its new ring, which keeps their room (R382, R415). -/
def State.moveRoom (s : State) (i ring : Nat) : State :=
  (Tbl.keys s.groups).foldl (fun (s : State) g =>
    let mine := fun (w : Work) => w.req = i && !w.dead
    if !(s.group g).open_ then s
    else
      let n := (((s.group g).works.filter mine).map (·.w)).sum
      (s.updGroup g (fun x => { x with works := x.works.map (fun (w : Work) => if mine w then { w with ring := ring } else w) })).updRing ring
        (fun r => { r with resv := r.resv + n })) s

/-- The ring, LD and completion ring that a request of an LD that is gone is rebound to: those of its tenant's TENANT_LD,
which is another LD, bound, with a free ring and a DEF_CQ (R415). -/
def State.newHome (s : State) (i : Nat) : Option (Nat × Nat × Nat) :=
  let r := s.req i
  let l := (s.tenant r.tenant).ld
  if l = r.ld || !(s.ld l).bound then none
  else match s.freeTokenRing l r.tenant, Tbl.find? s.cfg.defCq l with
    | some t, some q => if (s.ring q).rstate = .free then none else some (t, l, q)
    | _, _ => none

/-- A request is rebound to its new home (R366, R415). -/
def State.rehome (s : State) (i : Nat) (h : Nat × Nat × Nat) : State :=
  let s := (s.updReq i (fun r => { r with tokenRing := h.1, ld := h.2.1, cplRing := h.2.2 })).bindRing h.1 i
  (s.moveRoom i h.1).arrivedEvent i s.fid

/-- One request of an LD that is gone: rebound, or ended with HOST_REMOVED and no END entry. The counts are of requests
rebound and ended. -/
def State.rehost (x : State × Nat × Nat) (i : Nat) : State × Nat × Nat :=
  match x.1.newHome i with
  | some h => (x.1.rehome i h, x.2.1 + 1, x.2.2)
  | none => ((x.1.updReq i (fun r => { r with cplRing := noRing })).endRequest i Stat.hostRemoved, x.2.1, x.2.2 + 1)

/-- A graft being received whose reserved ring went: a new one, or the graft is dropped (R328, R366). -/
def State.rehostGraft (s : State) (k : Nat) : State :=
  let g := s.graft k
  match s.newHome g.dreq with
  | some h => s.rehome g.dreq h
  | none => ((s.sendCtl g.peer g.mapEpoch gkAbort g.recFor).pumpCtl).dropReceived k

/-- The LDs lose their rings, their comparators and their requests: how many were rebound and how many ended. -/
def State.dropLds (s : State) (ls : List Nat) : State × Nat × Nat :=
  let s := ls.foldl (fun (s : State) l => s.freeCmps l) (s.freeRings ls)
  let grafts := (List.range s.fab.grafts.length).filter (fun k =>
    let g := s.graft k
    !g.send && g.live && (g.mode = .push || g.mode = .handover) && (s.req g.dreq).st = .free && ls.contains (s.req g.dreq).ld)
  let x := (s.liveReqs.filter (fun i => ls.contains (s.req i).ld)).foldl State.rehost (s, 0, 0)
  (grafts.foldl (fun (s : State) k => s.rehostGraft k) x.1, x.2)

/-- The effects of a Function Level Reset on LDs (R407): messages are abandoned, the mailbox registers are reset and their
buffers undefined. -/
def State.resetLds (s : State) (ls : List Nat) : State :=
  let s := (s.dropLds ls).1
  let s := ls.foldl (fun (s : State) l => s.updLd l (fun d => { d with mbs := [], mbVecEn := false, mbVec := 0 })) s
  let isBuf := fun (a : Nat) => ls.any (fun l => decide (0x28000400000 + 0x10000 * l ≤ a) && decide (a < 0x28000400000 + 0x10000 * l + 0x9000))
  let m := (Config.memAfterReset s.fresh).foldl (fun (m : List Host.Cell) (c : Nat × Byte) => if isBuf c.1 then memSet m c.1 c.2 else m)
    (s.mem.filter (fun c => !(isBuf c.1)))
  { s.draw with mem := m }

/-- FUNCTION_LEVEL_RESET (R407, R442). -/
def execFunctionLevelReset (ld : Fin 16) (s : State) : Host.Outcome State Fault Refusal :=
  if !s.live || !s.presents ld.val then .next s
  else
    let s := s.resetLds [ld.val]
    .next { s with cxl := { s.cxl with flr := satAdd 16 s.cxl.flr 1 } }

/-! ## RMP_MAP_SET (R410, R411, R414, R415) -/

/-- LFLAGS.BOUND and HOST_ID of LD l in a map. -/
def mapBound (m l : Nat) : Bool := bit (fld m (0x30 + 16 * l) 1) 0
def mapHost (m l : Nat) : Nat := fld m (0x28 + 16 * l) 8

/-- The PEER entries of a map. -/
def mapPeerWords (m : Nat) : List Nat := (List.range (fld m 0x22 2)).map (fun k => fld m (0x128 + 4 * k) 4)

/-- The fields of a map (R410); `m` is a message. -/
def mapFields (m : Nat) : List (Bool × Nat) :=
  let ps := mapPeerWords m
  [(decide (fld m 0x22 2 ≤ 64), 0x22), (decide (0x128 + 4 * fld m 0x22 2 ≤ msgLen m), 4), resField m 0x24 4] ++
    (List.range 16).flatMap (fun l => [(fld m (0x30 + 16 * l) 1 / 2 == 0, 0x30 + 16 * l), resField m (0x31 + 16 * l) 7]) ++
    (List.zip ps (List.range ps.length)).map (fun e =>
      (bits e.1 0 12 ≠ 0 && bits e.1 12 4 == 0 && bits e.1 19 13 == 0 && !((ps.take e.2).any (fun p => bits p 0 12 = bits e.1 0 12)), 0x128 + 4 * e.2))

/-- The peers of a map; one that names this device is ignored (R410). -/
def State.mapPeers (s : State) (m : Nat) : List MapPeer :=
  ((mapPeerWords m).map (fun w => { fabricId := bits w 0 12, prompt := bit w 16, generation := bit w 17, cache := bit w 18 : MapPeer })).filter
    (fun p => p.fabricId ≠ s.fid || s.fid = 0)

/-- The epoch is the next one; any under epoch 0 (R411). -/
def State.epochOk (s : State) (e : Nat) : Bool :=
  if s.cmap.cur = 0 then e ≠ 0 else e = (if s.cmap.cur = 0xFFFF then 1 else s.cmap.cur + 1)

/-- Step 3 of R411: the map is adopted, and its predecessor kept while a graft was opened under it (R414). -/
def State.adopt (s : State) (m : Nat) : State :=
  let c := s.cmap
  let s := { s with cmap := { cur := fld m 0x20 2, old := some c.cur, peers := s.mapPeers m, oldPeers := c.peers, payload := m >>> 256 } }
  let s := (List.range 16).foldl (fun (s : State) l => s.updLd l (fun d => { d with bound := mapBound m l, host := mapHost m l })) s
  s.mapRetire

/-- What R415 does to one graft whose peer the map has removed. -/
def State.graftRemoved (s : State) (k : Nat) : State :=
  let g := s.graft k
  if !g.live || s.present g.peer then s
  else if g.send then (if g.mode = .push then (s.abortGraft k).tryDest g.req 0 g.peer else s)
  else s.recvFailed k

/-- What R415 does to one request parked on, or pulled from, a peer that the map has removed. -/
def State.parkRemoved (s : State) (i : Nat) : State :=
  let r := s.req i
  if r.parkTarget ≠ 4 || s.present r.peer then s
  else if r.st = .parked then s.expire i
  else if r.st = .resuming && r.resumeDev = 0 && r.pages.any (fun e => e.2 = .holder) then s.recover i
  else s

/-- Step 4 of R411 for peers. -/
def State.dropPeers (s : State) : State :=
  let s := (List.range s.fab.grafts.length).foldl (fun (s : State) k => s.graftRemoved k) s
  s.liveReqs.foldl (fun (s : State) i => s.parkRemoved i) s

/-- LDs that a map unbinds, those whose HOST_ID changes among them (R411). -/
def State.unboundBy (s : State) (m : Nat) : List Nat :=
  (List.range 16).filter (fun l => (s.ld l).bound && (!(mapBound m l) || mapHost m l ≠ (s.ld l).host))

/-- GO that waits on an unbound LD is ignored; the reply to a message in progress is discarded (R415, R438). -/
def State.quietMbs (s : State) (ls : List Nat) : State :=
  ls.foldl (fun (s : State) l => s.updLd l (fun d => { d with mbs := Tbl.mapAll d.mbs (fun (x : Mailbox) =>
    { x with go := false, abandoned := x.abandoned || x.busy }) })) s

/-- Steps 2 to 5 of R411. While an LD whose HOST_ID changes is dispositioned it is unbound. -/
def State.setMap (s : State) (mb : MbId) (m : Nat) : State :=
  let ls := s.unboundBy m
  let s := (s.adopt m).quietMbs ls
  let s := ls.foldl (fun (s : State) l => s.updLd l (fun d => { d with bound := false })) s
  let s := s.dropPeers
  let x := s.dropLds ls
  let s := ls.foldl (fun (s : State) l => s.updLd l (fun d => { d with bound := mapBound m l })) x.1
  ((s.answer mb Stat.ok).devEvent 0x81 (fld m 0x20 2) x.2.1 x.2.2).graftPump

/-- RMP_MAP_SET (R411). -/
def execRmpMapSet (mb : MbId) (s : State) : Host.Outcome State Fault Refusal :=
  match s.held mb 0x0201 with
  | none => .next s
  | some m =>
    if s.cmap.old.isSome then .next (s.answer mb Stat.busy)
    else if !(s.epochOk (fld m 0x20 2)) then .next (s.answer mb Stat.epochStale)
    else match firstBad (mapFields m) with
      | some o => .next (s.answerBad mb o)
      | none => .next (s.setMap mb m)

/-- RMP_MAP_GET (R410, R422): the current map, DETAIL the old epoch. -/
def execRmpMapGet (mb : MbId) (s : State) : Host.Outcome State Fault Refusal :=
  match s.held mb 0x0202 with
  | none => .next s
  | some _ =>
    let n := bits s.cmap.payload 16 16
    let p := if s.cmap.cur = 0 then
        toBytes 8 0 ++ (List.range 16).flatMap (fun _ => toBytes 8 0 ++ toBytes 8 1)
      else toBytes (0x108 + 4 * n) s.cmap.payload
    .next (s.reply mb Stat.ok (s.cmap.old.getD 0) p)

/-- INFLIGHT (R414, R442). -/
def State.mapInflight (s : State) : Nat :=
  match s.cmap.old with
  | none => 0
  | some e => (s.fab.grafts.filter (fun g => g.live && g.mapEpoch = e)).length

/-! ## The Fabric Manager (R403, R408) -/

/-- The FM-owned LD answers: the port works under an MLD switch port (R403). -/
def State.fmOn (s : State) : Bool := s.live && s.cxl.state = 2 && s.cxl.mld

def State.fmAnswer (s : State) (code : Nat) (bs : List Byte) : State := { s with cxl := { s.cxl with fmResp := (code, bs) } }

/-- GET_LD_INFO (R408): the memory the LDs share, and how many they are (layout of the CXL 4.0 command, PRESUMED log 39). -/
def execGetLdInfo (s : State) : Host.Outcome State Fault Refusal :=
  if !s.fmOn then .next s else .next (s.fmAnswer 0 (toBytes 8 (256 * 2 ^ 28) ++ toBytes 2 16 ++ toBytes 1 0))

/-- GET_LD_ALLOCATIONS (R408): base and size of every LD's range in 256 MiB units (log 39). -/
def execGetLdAllocations (s : State) : Host.Outcome State Fault Refusal :=
  if !s.fmOn then .next s
  else .next (s.fmAnswer 0 (toBytes 1 16 ++ toBytes 1 0 ++ toBytes 2 0 ++ (List.range 16).flatMap (fun l =>
    toBytes 8 (s.ld l).winBase ++ toBytes 8 (s.ld l).winUnits)))

/-- Ranges from LD `first` on, in 256 MiB units: within the window, and no two LDs' ranges meet (R408). -/
def State.rangesOk (s : State) (first : Nat) (rs : List (Nat × Nat)) : Bool :=
  let of_ := fun (l : Nat) => if first ≤ l && l < first + rs.length then nth rs (l - first) (0, 0) else ((s.ld l).winBase, (s.ld l).winUnits)
  decide (first + rs.length ≤ 16) && rs.all (fun r => decide (r.1 + r.2 ≤ 256) && decide (r.1 < 256)) &&
    (List.range 16).all (fun a => (List.range 16).all (fun b =>
      a = b || (of_ a).2 = 0 || (of_ b).2 = 0 || decide ((of_ a).1 + (of_ a).2 ≤ (of_ b).1) || decide ((of_ b).1 + (of_ b).2 ≤ (of_ a).1)))

/-- SET_LD_ALLOCATIONS (R408): refused while the decoder of an LD whose range it changes is committed. -/
def execSetLdAllocations (first : Fin 16) (ranges : List (Nat × Nat)) (s : State) : Host.Outcome State Fault Refusal :=
  let pick := (List.zip (rangeFrom first.val ranges.length) ranges).filter (fun e => ((s.ld e.1).winBase, (s.ld e.1).winUnits) ≠ e.2)
  if !s.fmOn then .next s
  else if !(s.rangesOk first.val ranges) || pick.any (fun e => (s.ld e.1).decoder) then .next (s.fmAnswer 1 [])
  else .next ((pick.foldl (fun (s : State) e => s.updLd e.1 (fun d => { d with winBase := e.2.1, winUnits := e.2.2 })) s).fmAnswer 0 [])

/-- FM_QOS_COMMAND (R408): control, status, allocated bandwidth and bandwidth limit. Status is of timing: it reports no
congestion (log 39). -/
def execFmQosCommand (c : QosCmd) (s : State) : Host.Outcome State Fault Refusal :=
  if !s.fmOn then .next s
  else match c with
    | .getControl => .next (s.fmAnswer 0 (toBytes 8 s.cxl.qosControl))
    | .setControl v => .next ({ s with cxl := { s.cxl with qosControl := v } }.fmAnswer 0 [])
    | .getStatus => .next (s.fmAnswer 0 (toBytes 1 0))
    | .getAlloc l => .next (s.fmAnswer 0 (toBytes 1 (s.ld l.val).qosAlloc))
    | .setAlloc l v => .next ((s.updLd l.val (fun d => { d with qosAlloc := v.toNat })).fmAnswer 0 [])
    | .getLimit l => .next (s.fmAnswer 0 (toBytes 1 (s.ld l.val).qosLimit))
    | .setLimit l v => .next ((s.updLd l.val (fun d => { d with qosLimit := v.toNat })).fmAnswer 0 [])

/-- FM_VENDOR_RMP (R406, R408): one RMP message goes to the fabric mailbox; its reply is returned from the buffer. A message
while another is in progress is refused. -/
def execFmVendorRmp (msg : List Byte) (s : State) : Host.Outcome State Fault Refusal :=
  if !s.fmOn then .next s
  else if s.fabricMb.go || s.fabricMb.busy then .next (s.fmAnswer 1 [])
  else
    let s := s.wrBytes (mbAddr .fabric) (msg.take 4096)
    .next (s.updMb .fabric (fun x => { x with go := true, done := false }))

/-- CXL_CNT_CLR (R442). -/
def execCxlCntClr (s : State) : Host.Outcome State Fault Refusal :=
  if !s.live then .next s else .next { s with cxl := { s.cxl with cacheReads := 0, hostWrFail := 0, flr := 0 } }

/-! ## The window as a host sees it (R71, R399, R408, R415) -/

/-- HDM_DECODER_COMMIT (R408, R442). -/
def execHdmDecoderCommit (ld : Fin 16) (on : Bool) (s : State) : Host.Outcome State Fault Refusal :=
  if !s.boot.good || !s.boot.released || s.cxl.state ≠ 2 || !s.cxl.cfgReady || !s.presents ld.val then .next s else .next (s.updLd ld.val (fun d => { d with decoder := on }))

/-- A host's access at an offset of its LD's range: its address, when the range holds it. -/
def State.hostRange (s : State) (ld off n : Nat) : Option Nat :=
  let d := s.ld ld
  if off + n ≤ d.winUnits * 2 ^ 28 then some (hostWin (d.winBase * 2 ^ 28 + off)) else none

/-- CXL_MEM_REQUEST (R71, R399, R400, R415): `off` counts from the start of the LD's range. On an unbound LD a write is
dropped and a read is poisoned; so is an access outside the range. The port, Memory_Active and the decoder must be on; a halt of the device leaves all
three working (R456). -/
def execCxlMemRequest (ld : Fin 16) (off : Nat) (r : MemReq) (s : State) : Host.Outcome State Fault Refusal :=
  let d := s.ld ld.val
  if !s.boot.good || !s.boot.released || s.cxl.state ≠ 2 || !s.cxl.memActive || !d.decoder || !s.presents ld.val then .next s
  else match r with
    | .read n => match s.hostRange ld.val off n with
      | some a => .next { s with cxl := { s.cxl with memRead := if d.bound then some (s.bytes a n) else none } }
      | none => .next { s with cxl := { s.cxl with memRead := none } }
    | .write bs => match s.hostRange ld.val off bs.length with
      | some a => if d.bound then .next (s.wrBytes a bs) else .next s
      | none => .next s

/-! ## PERST_N and link training (R399, R403, R544) -/

/-- The port after training; none while no partner answers. -/
def State.trainCxl (s : State) (t : Option CxlTrain) : State :=
  match t with
  | none => { s with cxl := { s.cxl with state := 1 } }
  | some t => { s with cxl := { s.cxl with rate := t.rate, width := t.width, mld := t.mld, state := 2 } }

/-- PERST_N (R407, R544): the port is reset, and every LD takes the effects of a Function Level Reset. -/
def execPerstN (s : State) : Host.Outcome State Fault Refusal :=
  if !s.boot.good || !s.boot.perst then .next s
  else
    let s := if s.live then s.resetLds (List.range 16) else s
    .next { s with
      boot := { s.boot with perst := false },
      cxl := { s.cxl with rate := 0, width := 0, mld := false, state := 0, memActive := false, cfgReady := false } }

/-- PERST_N_RELEASE (R399, R544): with RESET_N released and start-up run, the link trains, and Rinix sets up configuration
space again; before that, training follows RESET_N. -/
def execPerstNRelease (tr : Option CxlTrain) (s : State) : Host.Outcome State Fault Refusal :=
  if !s.boot.good || s.boot.perst then .next s
  else
    let s := { s with boot := { s.boot with perst := true } }
    if !s.live || !s.boot.started then .next s
    else
      let up := s.devState = .ready
      let s := s.trainCxl tr
      .next { s with cxl := { s.cxl with cfgReady := up, memActive := up } }

end Sys2Proof.Machine
end

