-- ==== Sys2Proof/Machine/Recovery.lean ====
section
/-!
DEFINITION. Sys2Proof/Machine/Recovery.lean: RMP opcodes on faults, fences and qualification, checkpoints and their restoring, and loads
from a partner (R452, R460, R464 to R473).
-/
namespace Sys2Proof.Machine

/-! ## Faults -/

/-- RMP_FAULT_READ (R473): FCL_STICKY, FCL_WIRE and counters. -/
def execRmpFaultRead (mb : MbId) (s : State) : Host.Outcome State Fault Refusal :=
  match s.held mb 0x0801 with
  | none => .next s
  | some m =>
    let cs := (rangeFrom (fld m 0x20 2) (fld m 0x22 2)).map (fun k => ((4 : Nat), Tbl.getD s.fcl.cnt k 0))
    .next (s.reply mb Stat.ok 0 (toBytes 128 s.fcl.sticky.toNat ++ toBytes 128 s.fcl.wire.toNat ++ packFields cs))

/-- RMP_FAULT_CLEAR (R452, R473). -/
def execRmpFaultClear (mb : MbId) (s : State) : Host.Outcome State Fault Refusal :=
  match s.held mb 0x0802 with
  | none => .next s
  | some m =>
    let mask := BitVec.ofNat 1024 (fld m 0x20 128)
    .next ({ s with fcl := { s.fcl with sticky := s.fcl.sticky &&& ~~~mask } }.answer mb Stat.ok)

/-- RMP_INJECT (R460, R473): FCL_INJECT's word; outside FACTORY INJECT_DENIED. -/
def execRmpInject (mb : MbId) (s : State) : Host.Outcome State Fault Refusal :=
  match s.held mb 0x0807 with
  | none => .next s
  | some m =>
    let w := fld m 0x20 8
    let src := bits w 32 10
    if !s.inFactory then .next (s.injectDenied.answer mb Stat.injectDenied)
    else
      let s := match bits w 16 2 with
        | 1 => s.injectPair src (bits w 0 16)
        | 2 => { s with fcl := { s.fcl with injectSync := some (src, bits w 0 16) } }
        | _ => { s with fcl := { s.fcl with wireInj := src :: s.fcl.wireInj.filter (· ≠ src) } }
      .next (s.answer mb Stat.ok)

/-! ## Fences and qualification (R453, R464, R473) -/

/-- RMP_UNIT_FENCE's message when its OP is the row's. -/
def State.heldFence (s : State) (mb : MbId) (op : Nat) : Option Nat :=
  (s.held mb 0x0803).bind (fun m => if fld m 0x20 1 = op then some m else none)

/-- RMP_UNIT_FENCE with OP FENCE. -/
def execRmpUnitFenceFence (mb : MbId) (s : State) : Host.Outcome State Fault Refusal :=
  match s.heldFence mb 1 with
  | none => .next s
  | some m => .next (((s.fence (fld m 0x21 1) (fld m 0x24 4)).fenceDone).answer mb Stat.ok)

/-- RMP_UNIT_FENCE with OP UNFENCE: a tile begins the qualification that REF and RUNS name; an unfence that R453 refuses
sets REJECT and answers WRONG_STATE (DESIGN CHOICE log 41). -/
def execRmpUnitFenceUnfence (mb : MbId) (s : State) : Host.Outcome State Fault Refusal :=
  match s.heldFence mb 2 with
  | none => .next s
  | some m =>
    let kind := fld m 0x21 1
    let idx := fld m 0x24 4
    if !(s.isFenced kind idx) then .next (s.answer mb Stat.notFenced)
    else if !(s.unfenceOk kind idx) then .next (s.fenceReject.answer mb Stat.wrongState)
    else if kind = 1 then .next (((s.unfence 1 idx (fld m 0x22 1) (fld m 0x23 1)).fenceDone).answer mb Stat.ok)
    else .next (((s.unfence kind idx 1 16).fenceDone).answer mb Stat.ok)

/-- The tiles of a mask for which `p` holds, as a mask. -/
def maskOf (mask : Nat) (p : Nat → Bool) : Nat := (List.range 48).foldl (fun m t => if bit mask t && p t then m + 2 ^ t else m) 0

/-- The answer to QUALIFY: tiles whose runs are over are counted, and with none left the reply goes out (R464, R473). -/
def State.qualSettle (s : State) : State :=
  match s.fcl.qualRun with
  | none => s
  | some (n, left, ok, bad) =>
    let ok := ok + maskOf left (fun t => !(s.tile t).fenced && (s.tile t).qual.isNone)
    let bad := bad + maskOf left (fun t => (s.tile t).fenced)
    let left := maskOf left (fun t => !(s.tile t).fenced && (s.tile t).qual.isSome)
    if left ≠ 0 then { s with fcl := { s.fcl with qualRun := some (n, left, ok, bad) } }
    else
      let s := { s with fcl := { s.fcl with qualRun := none } }
      let x := s.mbox (mbOf n)
      if x.busy && x.waits && msgOp x.msg = 0x0803 then
        s.reply (mbOf n) (if bad = 0 then Stat.ok else Stat.qualFailed) 0 (toBytes 8 ok ++ toBytes 8 bad)
      else s

/-- A tile is fenced when it is not, then unfenced into its qualification; one that no UNFENCE may free stays fenced and
fails (R464, R527). -/
def State.qualify (s : State) (t ref runs : Nat) : State :=
  if (s.fence 1 t).unfenceOk 1 t then (s.fence 1 t).unfence 1 t ref runs else s.fence 1 t

/-- RMP_UNIT_FENCE with OP QUALIFY: every tile named is qualified; the reply waits for the runs. One qualification runs at a time: BUSY (DESIGN CHOICE log 41). -/
def execRmpUnitFenceQualify (mb : MbId) (s : State) : Host.Outcome State Fault Refusal :=
  match s.heldFence mb 3 with
  | none => .next s
  | some m =>
    if s.fcl.qualRun.isSome then .next (s.answer mb Stat.busy)
    else
      let mask := fld m 0x28 8
      let s := (List.range 48).foldl (fun (s : State) t =>
        if bit mask t then s.qualify t (fld m 0x22 1) (fld m 0x23 1) else s) s
      let s := s.updMb mb (fun x => { x with waits := true })
      .next ({ s with fcl := { s.fcl with qualRun := some (mbNum mb, mask, 0, 0) } }).qualSettle

/-- QUALIFICATION_COMPARE (R464): one comparison of a tile in qualification, with its count of disagreeing elements. -/
def execQualificationCompare (tile : Fin 48) (disagree : Nat) (s : State) : Host.Outcome State Fault Refusal :=
  if !s.live then .next s else .next (s.qualCompare tile.val disagree).qualSettle

/-! ## Checkpoint images (R465, R466) -/

/-- TIER of a manifest record (R230). -/
def manifestRec (va tier : Nat) : List Byte := toBytes 16 (withCrc (va + tier * 2 ^ 64) 16)

/-- A request's tier manifest: plots on this device, and pruned pages (R230). -/
def Req.manifest (r : Req) : List (List Byte) :=
  ((Tbl.keys r.pages).filterMap (fun p => match Tbl.find? r.pages p with
    | some x => if x.tier ≤ 3 then some (manifestRec (r.seq.base + 65536 * p) x.tier) else none
    | none => none)) ++ (sortNat r.pruned).map (fun p => manifestRec (r.seq.base + 65536 * p) 4)

/-- One request record (R466), the journal from entry `first` on. -/
def Req.record (r : Req) (i first : Nat) : List Byte :=
  let ts := r.journal.drop first
  let toks := packFields (ts.map (fun t => (4, t)))
  let toks := toks ++ List.replicate (roundUp toks.length 16 - toks.length) 0#8
  let man := r.manifest
  let body := toks ++ man.flatten
  let n := 352 + body.length + 4
  let head := toBytes 256 r.enc ++ toBytes 64 (r.seq.enc i) ++ packFields [(4, first), (4, ts.length), (4, man.length), (4, n), (12, 0)]
  head ++ toBytes 4 (crc32c head) ++ body ++ toBytes 4 (crc32c body)

/-- A record for a request that ended, or left, after BASE_STEP: STATE 0 (R466). -/
def goneRecord (e : Nat × Nat × Nat) : List Byte := Req.record { reqId := e.1, tenant := e.2.1, seq := {} } 0 e.2.2

/-- The records of an image: live requests, and in an incremental one those gone since the previous image. -/
def State.ckptRecords (s : State) (inc : Bool) : List (List Byte) :=
  let kept := fun (e : Nat × Nat × Nat) => match s.reqBy e.1 e.2.1 with
    | some i => (s.req i).ckptLen.isSome
    | none => false
  s.liveReqs.map (fun i => (s.req i).record i (if inc then (s.req i).ckptLen.getD 0 else 0)) ++
    (if inc then (s.ckpt.reqs.filter (fun e => !(kept e))).map goneRecord else [])

/-- The whole image (R465). -/
def State.ckptImage (s : State) (step : Nat) (inc : Bool) (recs : List (List Byte)) : List Byte :=
  let body := recs.flatten
  let h := packFields [(2, 1), (2, b2n inc), (2, s.cfg.dev.fabricId), (2, s.curVersion), (8, s.sec.otp.uid), (8, step),
    (8, if inc then s.ckpt.step else 0), (4, recs.length), (4, 0), (8, 64 + body.length), (12, 0)]
  h ++ toBytes 4 (crc32c h) ++ body

/-- The image goes to host memory or into the window (R465); a host write with the port down fails and is counted (R442). -/
def State.ckptWrite (s : State) (m : Nat) (img : List Byte) : State :=
  if fld m 0x22 1 = 1 then s.wrBytes (hostWin (fld m 0x28 8)) img
  else if s.cxl.state = 2 then s.hostPut s.cfg.dev.adminLd (fld m 0x28 8) img
  else { s with cxl := { s.cxl with hostWrFail := satAdd 16 s.cxl.hostWrFail 1 } }

/-- A checkpoint that waits is taken at boundary `step` (R465, R472, R473). -/
def State.ckptTake (s : State) (mb : MbId) (step : Nat) : State :=
  let m := (s.mbox mb).msg
  let inc := bit (fld m 0x20 2) 0
  let recs := s.ckptRecords inc
  let img := s.ckptImage step inc recs
  if fld m 0x30 8 < img.length then s.reply mb Stat.ckptSpace img.length []
  else
    let s := s.ckptWrite m img
    let s := { s with ckpt := { step := step, reqs := s.liveReqs.map (fun i => ((s.req i).reqId, (s.req i).tenant, (s.req i).journal.length)) } }
    let s := s.liveReqs.foldl (fun (s : State) i => s.updReq i (fun r => { r with ckptLen := some r.journal.length })) s
    (s.devEvent 0x48 recs.length step (img.length / 4096)).reply mb Stat.ok 0 (packFields [(8, img.length), (8, step), (4, recs.length)])

/-- Every checkpoint that waits, at a step boundary (R465, R470). -/
def State.ckptBoundary (s : State) (step : Nat) : State :=
  (List.range 145).foldl (fun (s : State) n =>
    let x := s.mbox (mbOf n)
    if x.busy && x.waits && msgOp x.msg = 0x0804 then s.ckptTake (mbOf n) step else s) s

/-- RMP_CKPT_TAKE (R465): the image is taken, and the reply sent, at the next step boundary. -/
def execRmpCkptTake (mb : MbId) (s : State) : Host.Outcome State Fault Refusal :=
  match s.held mb 0x0804 with
  | none => .next s
  | some _ => .next (s.updMb mb (fun x => { x with waits := true }))

/-! ## Restoring (R467, R468) -/

/-- One record of an image as it is read. -/
structure CkptRec where
  entry : Nat
  seq : Nat
  first : Nat
  tokens : List Nat
  manifest : List Nat

/-- The records of an image's body; none when a length or a CRC does not hold. -/
def parseRecords : Nat → List Byte → Option (List CkptRec)
  | 0, bs => if bs.isEmpty then some [] else none
  | k + 1, bs =>
    let h := imgAt bs 0 352
    let jc := fld h 0x144 4
    let mc := fld h 0x148 4
    let tb := roundUp (4 * jc) 16
    let n := 352 + tb + 16 * mc + 4
    let body := (bs.drop 352).take (tb + 16 * mc)
    if bs.length < n || fld h 0x14C 4 ≠ n || !(crcOk h 352) || !(crcOk (fld h 0 256) 256) || !(crcOk (fld h 0x100 64) 64) ||
        imgAt bs (n - 4) 4 ≠ crc32c body || !((records 16 mc (body.drop tb)).all (fun e => crcOk e 16)) then none
    else (parseRecords k (bs.drop n)).map (fun rs =>
      { entry := fld h 0 256, seq := fld h 0x100 64, first := fld h 0x140 4, tokens := records 4 jc body, manifest := records 16 mc (body.drop tb) } :: rs)

/-- The entries of an appendix: REQ_ID, FIRST and tokens; one that does not fit ends the list. -/
def parseAppendix : Nat → List Byte → List (Nat × Nat × List Nat)
  | 0, _ => []
  | f + 1, bs =>
    let n := imgAt bs 0x0C 4
    if bs.length < 16 || bs.length < 16 + 4 * n then []
    else (imgAt bs 0 8, imgAt bs 8 4, records 4 n (bs.drop 16)) :: parseAppendix f (bs.drop (16 + 4 * n))

/-- FABRIC section digest of a version this device knows: its current, previous or staged one (R468). -/
def State.fabricOf (s : State) (v : Nat) : Option Nat :=
  let known : Option CfgImg → Bool := fun x => match x with
    | some i => i.version == v
    | none => false
  if known s.cfg.current then some (fabricDigest s.cfg.fabric)
  else if known s.cfg.staged then some (fabricDigest s.cfg.stagedFabric)
  else if known s.cfg.prev then
    match s.cfg.prev.bind (fun i => imgSection i.bytes 3) with
    | some bs => some (fabricDigest (some bs))
    | none => some (fabricDigest s.cfg.fabric)
  else none

/-- R468's step 1: checks 4 to 6 of R24 up to the entry itself. -/
def State.restoreCheck (s : State) (e : Req) : Nat :=
  let m := s.slot e.slot
  if !(s.slotLoaded e.slot e.tenant) then Stat.modelNotLoaded
  else if e.speculate && !(s.slotLoaded e.draftSlot e.tenant) then Stat.modelNotLoaded
  else if m.limit < e.promptLen + e.maxNew then Stat.seqTooLong
  else if e.biasRow ≠ 0xFF && decide (s.biasRows m ≤ e.biasRow) then Stat.invalidField
  else if s.idLive e.reqId then Stat.duplicateId
  else Stat.ok

/-- The journal rebuilt: an appendix entry counts when its FIRST is the journal length so far. -/
def rebuild (j : List Nat) (reqId : Nat) (appx : List (Nat × Nat × List Nat)) : List Nat :=
  appx.foldl (fun (j : List Nat) a => if a.1 = reqId && a.2.1 = j.length then j ++ a.2.2 else j) j

/-- Positions that a manifest's records hold (R468 step 5). -/
def Seq.manifestPositions (q : Seq) (n : Nat) : Nat := cdiv n (Nat.max 1 (q.layers * q.kvHeads)) * q.tp

/-- A request restored (R468, R148): EXPIRED when it was parked, else recovered as lost; one that this device recovers
itself has its space at once when there is room. -/
def State.restored (s : State) (i was plots : Nat) : State :=
  if was = 5 || was = 6 || was = 7 then s.updReq i (fun r => { r with st := .expired, lost := false })
  else
    let s := s.recover i
    let r := s.req i
    if r.st = .prefill || r.st = .reprefill then
      let n := Nat.min (r.promptLen + r.maxNew) (r.seq.manifestPositions plots)
      match s.ensureKv i n true with
      | (s', true) => s'
      | (_, false) => s
    else s

/-- One record: the state, and the status when it is skipped (R468). -/
def State.restoreOne (s : State) (fid : Nat) (appx : List (Nat × Nat × List Nat)) (x : CkptRec) : State × Nat :=
  let e := { Req.ofEntry x.entry with ttlMs := fld x.entry 0x60 4 }
  let st := s.restoreCheck e
  let ld := (s.tenant e.tenant).ld
  if st ≠ Stat.ok then (s, st)
  else match Tbl.find? s.cfg.defCq ld with
    | none => (s, Stat.noRequestSlot)
    | some cq =>
      let j := rebuild x.tokens e.reqId appx
      match s.newEntry e.tenant ld (e.promptLen + e.maxNew) (fld x.seq 0x24 4) (s.slot e.slot) (fun (q : Req) =>
          { e with st := .decode, ld := ld, cfg := s.curVersion, jplots := q.jplots, tokenRing := q.tokenRing, seq := q.seq, cplRing := cq,
                   epoch := (fld x.entry 0x10 2 + 1) % 65536, nextIndex := j.length - e.promptLen, firstIdx := j.length - e.promptLen,
                   draftReady := false, prefilled := 0, lost := true }) with
      | none => (s, Stat.noRequestSlot)
      | some (s, i) =>
        let s := (s.journalAdd i j).updReq i (fun r => { r with nextIndex := j.length - r.promptLen })
        ((s.restored i (fld x.entry 0x0E 1) x.manifest.length).arrivedEvent i fid, Stat.ok)

/-- Every record in turn: how many were restored and how many skipped. -/
def State.restoreAll (s : State) (fid : Nat) (appx : List (Nat × Nat × List Nat)) : List CkptRec → State × Nat × Nat
  | [] => (s, 0, 0)
  | x :: xs =>
    if fld x.entry 0x0E 1 = 0 then State.restoreAll s fid appx xs
    else match s.restoreOne fid appx x with
      | (s, 0) => match State.restoreAll s fid appx xs with
        | (s, a, b) => (s, a + 1, b)
      | (s, st) => match State.restoreAll (s.eventTo s.cfg.dev.adminLd (eventRaw 0x49 0xFFFF st (fld x.entry 0 8) fid 0)) fid appx xs with
        | (s, a, b) => (s, a, b + 1)

/-- RMP_CKPT_RESTORE (R468). An image longer than the window it begins in has an invalid IMAGE_OFF. -/
def execRmpCkptRestore (mb : MbId) (s : State) : Host.Outcome State Fault Refusal :=
  match s.held mb 0x0805 with
  | none => .next s
  | some m =>
    let off := fld m 0x20 8
    let h := s.rd (hostWin off) 64
    if fld h 0 2 ≠ 1 || !(crcOk h 64) || bit (fld h 2 2) 0 || fld h 0x28 8 < 64 then .next (s.answer mb Stat.ckptInvalid)
    else if !(s.winOk mb off (fld h 0x28 8)) then .next (s.answerBad mb 0x20)
    else match parseRecords (fld h 0x20 4) (s.bytes (hostWin off + 64) (fld h 0x28 8 - 64)) with
      | none => .next (s.answer mb Stat.ckptInvalid)
      | some recs =>
        if s.fabricOf (fld h 6 2) ≠ some (fabricDigest s.cfg.fabric) then .next (s.answer mb Stat.ckptMismatch)
        else
          let n := fld m 0x30 4
          let appx := parseAppendix (n / 16 + 1) (s.bytes (hostWin (fld m 0x28 8)) n)
          match s.restoreAll (bits (fld h 4 2) 0 12) appx recs with
          | (s, a, b) => .next (s.graftPump.reply mb Stat.ok 0 (toBytes 4 a ++ toBytes 4 b))

/-! ## Loads from a partner (R469, R473) -/

/-- First virtual addresses of a pulled slot's plans and of its resident plots in T2, which a later PIN reads (log 18). -/
def slotPlanVa (k : Nat) : Nat := slotVa k + 2 ^ 31
def slotResVa (k : Nat) : Nat := slotVa k + 2 ^ 32

/-- The plots behind a slot's plan table and resident sections are kept in T2, since no window object stands behind it. -/
def State.keepPulled (s : State) (k : Nat) (o : List Byte) : Option State :=
  let plan := fromVa (slotPlanVa k) (asPlots ((sectionsOf o 2).flatMap (fun x => x.bytes)))
  let res := fromVa (slotResVa k) ((sectionsOf o 3).flatMap (fun x => (plotRecords x.bytes).map (·.2)))
  (State.placeSlots s k [2] (plan ++ res)).map (fun s =>
    let at_ := fun (va : Nat) => ((Tbl.find? (s.slot k).plots (va / 65536)).bind Place.addr).getD 0
    s.updSlot k (fun m => { m with planTable := at_ (slotPlanVa k),
                                   resident := (List.zip m.resident (List.range m.resident.length)).map (fun e =>
                                     (e.1.1, e.1.2.1, e.1.2.2.1, at_ (slotResVa k + 65536 * e.2))) }))

/-- One slot pulled from the partner: its status. -/
def State.pullSlot (s0 : State) (k : Nat) (entry : Nat) (o : List Byte) : State × Nat :=
  let s := { s0 with slots := Tbl.put s0.slots k { tenant := fld entry 0 2, st := .loading, cfg := s0.curVersion } }
  if !(s.objFieldsOk o) then (s0, Stat.invalidField)
  else match (s.placeObject k 0 o).bind (fun s => s.keepPulled k o) with
    | none => (s0, Stat.quotaExceeded)
    | some s =>
      let s := s.updSlot k (fun m => { m with st := .loaded })
      ((s.writeSlot k).tenantEvent (fld entry 0 2) 0x83 k 0 0 Stat.ok, Stat.ok)

/-- The slots in turn, up to the first that fails: how many entered LOADED, and the status. -/
def State.pullSlots (s : State) (o : PartnerOffer) : List Nat → Nat → State × Nat × Nat
  | [], n => (s, n, Stat.ok)
  | k :: ks, n => match (o.slots.find? (fun e => e.1 = k)).bind (·.2) with
    | none => (s, n, Stat.modelNotLoaded)
    | some x =>
      let r := s.pullSlot k x.1.toNat x.2
      if r.2 = Stat.ok then r.1.pullSlots o ks (n + 1) else (r.1, n, r.2)

/-- RMP_PARTNER_LOAD (R469, R473). A slot that is not EMPTY here answers WRONG_STATE, as RMP_MODEL_LOAD does (log 41). -/
def execRmpPartnerLoad (mb : MbId) (o : PartnerOffer) (s : State) : Host.Outcome State Fault Refusal :=
  match s.held mb 0x0806 with
  | none => .next s
  | some m =>
    let peer := fld m 0x20 2
    let ks := (List.range (fld m 0x22 2)).map (fun j => fld m (0x24 + 2 * j) 2)
    let offered := fun (k : Nat) => ((o.slots.find? (fun e => e.1 = k)).bind (·.2)).isSome
    if !((List.range 36).any (fun lk => s.activeToward lk peer)) then .next (s.answer mb Stat.peerMismatch)
    else if !(ks.all offered) then .next (s.answer mb Stat.modelNotLoaded)
    else if ks.any (fun k => (s.slot k).st ≠ .empty) then .next (s.answer mb Stat.wrongState)
    else match s.pullSlots o ks 0 with
      | (s, n, st) => .next (s.reply mb st 0 (toBytes 2 n))

end Sys2Proof.Machine
end

