-- ==== Sys2Proof/Machine/Boundary.lean ====
section
/-!
DEFINITION. Sys2Proof/Machine/Boundary.lean: the step boundary and the idle boundary (R380, R381, R434, R465).
-/
namespace Sys2Proof.Machine

/-- The request table entry of a park holder: the request's identity, state PARKED, the recorded device and epoch of R43
and the time to live (R328, R376; log 15). -/
def HolderRec.entry (h : HolderRec) : Req :=
  { reqId := h.reqId, tenant := h.tenant, st := .parked, epoch := h.epoch, peer := h.dev, ttlMs := (h.ttl.map (·.2)).getD 0, seq := h.seq }

/-- What the tier manager, the ring engine and firmware hold of requests, tenants, rings and model slots stands in the tables of the system region
after each boundary; a tenant entry whose CRC fails is reported and rewritten (R136, R206, R228, R328,
R359, R376, R377; log 15). -/
def State.writeTables (s : State) : State :=
  let s := (Tbl.keys s.reqs).foldl (fun (s : State) i => s.writeReq i) s.flushJournal
  let s := s.holders.foldl (fun (s : State) h => s.wr (reqAddr h.idx) 256 h.entry.enc) s
  let s := (Tbl.keys s.tenants).foldl (fun (s : State) tn => (s.tenantCheck tn).writeTenant tn) s
  let s := (Tbl.keys s.rings).foldl (fun (s : State) r => s.syncRing r) s
  (Tbl.keys s.slots).foldl (fun (s : State) k => s.writeSlot k) s

/-- STEP_BOUNDARY (R380, R381): the eight steps in their order; a checkpoint is taken once the version current there and
the state changes stand (R465, R470). -/
def execStepBoundary (s : State) : Host.Outcome State Fault Refusal :=
  if !s.live || s.devState ≠ .ready || s.cfg.dev.stepsInFlight ≤ s.reqRegs.inFlight.length then .next s
  else
    let n := s.reqRegs.step + 1
    let s := ((s.boundaryVersion n).swing n).boundaryChanges.ckptBoundary n
    let s := (s.applyPlans.powerCap).boundaryDeadlines.retryOpens
    .next ((s.compose n).graftPump.writeTables)

/-- IDLE_BOUNDARY (R434): while no step is in flight, every LTU millisecond is a boundary for a commit condition. -/
def execIdleBoundary (s : State) : Host.Outcome State Fault Refusal :=
  if !s.live || s.devState ≠ .ready || !s.reqRegs.inFlight.isEmpty || s.ltu % 100000 ≠ 0 then .next s
  else .next ((s.boundaryVersion s.reqRegs.step).applyPlans.powerCap.writeTables)

end Sys2Proof.Machine
end

