-- ==== Sys2Proof/Machine/Pins.lean ====
section
/-!
DEFINITION. Sys2Proof/Machine/Pins.lean: supply and reset pins, the sideband bridge and its window, the progress record,
boundary scan (R541 to R545, R547, R550 to R556).
-/
namespace Sys2Proof.Machine

/-! ## Supply and reset (R541 to R545) -/

/-- POWER_UP (R541, R552): rails regulate and PWR_GOOD is released, RESET_N held low by the board; SEC_TAMPER is
cleared, the SBW's contents are undefined. -/
def execPowerUp (s : State) : Host.Outcome State Fault Refusal :=
  if s.boot.good then .next s
  else
    let s := s.deviceReset 1 false
    let sbw := Config.sbwAfterPower s.fresh
    let isSbw := fun (k : Nat) => regionOf k = .sbw
    let mem := sbw.foldl (fun m c => if isSbw c.1 then memSet m c.1 c.2 else m) (s.mem.filter (fun c => !(isSbw c.1)))
    .next { s.draw with
      mem := mem, bridge := {}, sec := { s.sec with tamper := 0, wipes := 0, wipeDone := false },
      boot := { s.boot with good := true, railHeld := false } }

/-- RAIL_FAULT (R542): PWR_GOOD falls and the device holds itself in reset until the rail recovers and the board cycles
RESET_N; beyond ±15 % TAMPER_VOLT trips first. -/
def execRailFault (beyond15 : Bool) (s : State) : Host.Outcome State Fault Refusal :=
  if !s.boot.good then .next s
  else
    let s := if beyond15 then s.trip 0 else s
    let s := s.deviceReset 2 s.boot.released
    .next { s with boot := { s.boot with good := false, railHeld := true } }

/-- RESET_N_ASSERT (R543). The sideband transfer under way completes, SBW contents stand (R556). A rail that has recovered
releases PWR_GOOD (R542). -/
def execResetNAssert (s : State) : Host.Outcome State Fault Refusal :=
  if !s.boot.good && !s.boot.railHeld then .next s
  else
    let s := s.deviceReset 2 false
    .next { s with boot := { s.boot with good := true, railHeld := false } }

/-- POWER_DOWN (R545): in order, RESET_N came first; without it TAMPER_VOLT trips, secure SRAM is wiped and the device
halts before the rails fail. -/
def execPowerDown (ordered : Bool) (s : State) : Host.Outcome State Fault Refusal :=
  if !s.boot.good then .next s
  else
    let s := if ordered && !s.boot.released then s else s.trip 0
    let s := s.deviceReset 1 false
    .next { s with boot := { s.boot with good := false, railHeld := false }, bridge := { up := false } }

/-! ## The progress record (R547) -/

/-- First address of the SBW (R65). -/
def sbwBase : Nat := 0x28000500000

/-- Slot as the progress record shows it. -/
def State.slotCode (s : State) : Nat := if s.boot.phase = 0x0E || s.boot.phase = 0x0F then 0xFF else s.sec.bootSlot

/-- A phase and an error are recorded: BOOT_PROGRESS and the record that it mirrors (R547). -/
def State.progress (s : State) (phase error : Nat) : State :=
  let s := { s with boot := { s.boot with phase := phase % 256, error := error % 65536 } }
  s.wr sbwBase 64 (withCrc (s.boot.phase + s.boot.error * 2 ^ 16 + s.ltu * 2 ^ 64 + s.boot.strap * 2 ^ 128 + s.slotCode * 2 ^ 136) 64)

/-- BOOT_PROGRESS_WRITE (R547, R557). -/
def execBootProgressWrite (v : BitVec 32) (s : State) : Host.Outcome State Fault Refusal :=
  if !s.live then .next s else .next (s.progress (bits v.toNat 0 8) (bits v.toNat 16 16))

/-! ## The sideband (R550 to R552, R558) -/

/-- Port A is warned. -/
def State.warnA (s : State) : State := { s with boot := { s.boot with collideA := true, cntA := satAdd 32 s.boot.cntA 1 } }
/-- Port B is warned: COLLIDE sets and SBW_BUSY_N is low until SB_STATUS is read. -/
def State.warnB (s : State) : State :=
  { s with bridge := { s.bridge with collideB := true }, boot := { s.boot with cntB := satAdd 32 s.boot.cntB 1 } }

/-- Warnings of a collision: the port whose address phase is later, or both (R551). -/
def State.warn (s : State) (o : SbOverlap) : State :=
  let s := if o.aWarned then s.warnA else s
  if o.bWarned then s.warnB else s

def State.sbResp (s : State) (bs : List Byte) : State := { s with bridge := { s.bridge with resp := bs } }
/-- The data is NACKed and BAD_CMD sets (R550). -/
def State.sbBad (s : State) : State := { s with bridge := { s.bridge with badCmd := true, resp := [] } }
/-- The bridge answers: from PWR_GOOD on, in reset and halted too (R541, R552). -/
def State.sbUp (s : State) : Bool := s.boot.good && s.bridge.up

/-- Offset and length of a transfer (R550): multiples of 8, 8 to 256 bytes, within 1 MiB. -/
def sbOk (off len : Nat) : Bool :=
  off % 8 = 0 && len % 8 = 0 && decide (8 ≤ len) && decide (len ≤ 256) && decide (off + len ≤ 0x100000)

/-- SB_STATUS (R550): reading it clears COLLIDE and BAD_CMD and releases SBW_BUSY_N. -/
def execSbStatus (s : State) : Host.Outcome State Fault Refusal :=
  if !s.sbUp then .next s
  else
    let b := b2n s.bridge.collideB + 2 * b2n s.fcl.halted + 4 * b2n (s.devState = .ready) + 8 * b2n s.bridge.badCmd
    .next { s with bridge := { s.bridge with collideB := false, badCmd := false, resp := [BitVec.ofNat 8 b] } }

/-- SB_READ (R550, R551): a word that port A writes meanwhile reads undefined, the write completes. -/
def execSbRead (off : BitVec 24) (len : BitVec 16) (ov : Option SbOverlap) (s : State) : Host.Outcome State Fault Refusal :=
  let a := off.toNat
  let n := len.toNat
  if !s.sbUp then .next s
  else if !(sbOk a n) then .next s.sbBad
  else match ov with
    | none => .next (s.sbResp (s.bytes (sbwBase + a) n))
    | some o =>
      let k := 8 * (o.word % (n / 8))
      let w := Config.sbwWord s.fresh
      let bs := s.bytes (sbwBase + a) k ++ toBytes 8 w.toNat ++ s.bytes (sbwBase + a + k + 8) (n - k - 8)
      .next (((s.draw.wr (sbwBase + a + k) 8 o.val.toNat).sbResp bs).warn o)

/-- Port B's writes to the progress record and the halt record are dropped (R550). -/
def sbProtected (off : Nat) : Bool := decide (off < 64) || decide (0xFF000 ≤ off)

/-- Words of a sideband write, the protected ones dropped. -/
def State.sbPut (s : State) (off : Nat) : Nat → List Byte → State
  | 0, _ => s
  | n + 1, bs =>
    let s := if sbProtected off then s else s.wrBytes (sbwBase + off) (bs.take 8)
    s.sbPut (off + 8) n (bs.drop 8)

/-- SB_WRITE (R550, R551): the write completes; a control core's read of the word meanwhile is undefined. -/
def execSbWrite (off : BitVec 24) (data : List Byte) (ov : Option SbOverlap) (s : State) : Host.Outcome State Fault Refusal :=
  if !s.sbUp then .next s
  else if !(sbOk off.toNat data.length) then .next s.sbBad
  else
    let s := (s.sbPut off.toNat (data.length / 8) data).sbResp []
    match ov with
    | none => .next s
    | some o =>
      let w := (Config.sbwWord s.fresh).toNat
      .next ({ s.draw with boot := { s.boot with portA := w } }.warn o)

/-- SB_IDENT (R550): DEVICE_UID reads 0 before the ROM starts. -/
def execSbIdent (s : State) : Host.Outcome State Fault Refusal :=
  if !s.sbUp then .next s
  else .next (s.sbResp (toBytes 8 (if s.boot.started then s.sec.otp.uid else 0) ++ toBytes 1 s.sec.otp.lc ++ toBytes 1 s.boot.phase))

/-- SB_DYNAMIC_ADDRESS (R550, R558): BRIDGE_UP and DYN_ADDR. -/
def execSbDynamicAddress (addr : BitVec 7) (s : State) : Host.Outcome State Fault Refusal :=
  if !s.sbUp then .next s else .next { s with bridge := { s.bridge with addr := some addr.toNat } }

/-- SBW_CNT_CLR (R558). -/
def execSbwCntClr (s : State) : Host.Outcome State Fault Refusal :=
  if !s.live then .next s else .next { s with boot := { s.boot with cntA := 0, cntB := 0 } }

/-! ## Boundary scan (R553, R554) -/

/-- BYPASS is selected: a one-bit register that captures 0; the pins follow the device. -/
def State.toBypass (s : State) : State :=
  { s with jtag := { s.jtag with ir := .bypass, capture := 0, drive := .system } }

/-- An instruction that takes effect only while RESET_N is low, and selects BYPASS otherwise (R554). -/
def State.scan (s : State) (ir : JIr) (d : PinDrive) (pins : Option (List Bool)) : State :=
  if !s.boot.good then s
  else if s.boot.released then s.toBypass
  else { s with jtag := { s.jtag with ir := ir, drive := d, capture := 0, sampled := pins.getD s.jtag.sampled } }

/-- BYPASS (R553). -/
def execBypass (s : State) : Host.Outcome State Fault Refusal := if !s.boot.good then .next s else .next s.toBypass

/-- IDCODE (R553): 0x1720_054F. -/
def execIdcode (s : State) : Host.Outcome State Fault Refusal :=
  if !s.boot.good then .next s
  else .next { s with jtag := { s.jtag with ir := .idcode, capture := 0x1720054F, drive := .system } }

/-- SAMPLE/PRELOAD (R553): the cells capture the pins, and the update stage takes the preload. -/
def execSamplePreload (pins preload : List Bool) (s : State) : Host.Outcome State Fault Refusal :=
  if !s.boot.good then .next s
  else .next { s with jtag := { s.jtag with ir := .sample, sampled := pins, cells := preload, drive := .system } }

/-- EXTEST (R554): the outputs follow the boundary register, the cells capture the pins. -/
def execExtest (pins : List Bool) (s : State) : Host.Outcome State Fault Refusal := .next (s.scan .extest .boundary (some pins))

/-- CLAMP (R554). -/
def execClamp (s : State) : Host.Outcome State Fault Refusal := .next (s.scan .clamp .boundary none)

/-- HIGHZ (R554). -/
def execHighz (s : State) : Host.Outcome State Fault Refusal := .next (s.scan .highz .float none)

/-- EXTEST_PULSE (R553, R554). -/
def execExtestPulse (pins : List Bool) (s : State) : Host.Outcome State Fault Refusal := .next (s.scan .extestPulse .pulse (some pins))

/-- EXTEST_TRAIN (R553, R554). -/
def execExtestTrain (pins : List Bool) (s : State) : Host.Outcome State Fault Refusal := .next (s.scan .extestTrain .train (some pins))

/-- R554: the debug instructions select BYPASS but in BLANK, FACTORY and RETURN. -/
def State.debugOpen (s : State) : Bool := s.sec.otp.lc = 1 || s.sec.otp.lc = 2 || s.sec.otp.lc = 5

/-- DTMCS as a reader sees it: version 1, seven address bits (The RISC-V Debug Specification 1.0, log 21). -/
def dtmcsValue : Nat := 1 + 7 * 16

/-- DBG_DTMCS (R554, R555). -/
def execDbgDtmcs (s : State) : Host.Outcome State Fault Refusal :=
  if !s.boot.good then .next s
  else if !s.debugOpen then .next s.toBypass
  else .next { s with jtag := { s.jtag with ir := .dtmcs, capture := dtmcsValue, drive := .system } }

end Sys2Proof.Machine
end

