-- ==== Sys2Proof/Machine/RmpSys.lean ====
section
/-!
DEFINITION. Sys2Proof/Machine/RmpSys.lean: RMP opcodes on security, firmware and life cycle (R501, R502, R504 to R506) and on power,
timers and ageing (R510, R518, R520, R528, R531).
-/
namespace Sys2Proof.Machine

/-! ## Security -/

/-- RMP_SEC_QUERY (R505). -/
def execRmpSecQuery (mb : MbId) (s : State) : Host.Outcome State Fault Refusal :=
  match s.held mb 0x0701 with
  | none => .next s
  | some _ =>
    let o := s.sec.otp
    .next (s.reply mb Stat.ok 0 (packFields ([(1, o.lc), (1, s.sec.bootSlot), (1, o.firstSvn), (1, o.mainSvn), (4, 0), (16, s.sec.nonce)] ++
      (List.range 4).map (fun k => (32, Tbl.getD s.sec.mr k 0)))))

/-- R496 on a staged image: the status of the first stage that fails. -/
def State.imageStatus (s : State) (img : List Byte) : Nat :=
  let stage := fun (off k : Nat) => s.sec.otp.stageStatus ((img.drop off).take 256) (fun n => (img.drop (off + 256)).take n) k
  let a := stage 0 1
  if a ≠ Stat.ok then a else stage 0x800000 2

/-- RMP_FW_STAGE (R505, R506): the inactive slot is written once both stages pass. The write ends within the command, so
BUSY does not arise (log 42). -/
def execRmpFwStage (mb : MbId) (s : State) : Host.Outcome State Fault Refusal :=
  match s.held mb 0x0702 with
  | none => .next s
  | some m =>
    let img := s.bytes (hostWin (fld m 0x20 8)) (fld m 0x28 4)
    let slot := 1 - s.activeSlot
    let h := ofBytes ((img.drop 0x800000).take 256)
    let st := s.imageStatus img
    let tell := fun (s : State) => s.devEvent 0xC0 slot (hdVersion h + hdSvn h * 2 ^ 32) st
    if st ≠ Stat.ok then .next ((tell s).answer mb st)
    else .next ((tell (s.qspiPut (slotBase slot) img)).reply mb Stat.ok 0 (toBytes 1 slot))

/-- RMP_FW_ACTIVATE (R505, R516): the boot-select block names the slot from the next reset on. -/
def execRmpFwActivate (mb : MbId) (s : State) : Host.Outcome State Fault Refusal :=
  match s.held mb 0x0703 with
  | none => .next s
  | some m =>
    let slot := fld m 0x20 1
    let st := s.slotStatus slot
    if st ≠ Stat.ok then .next (s.answer mb st)
    else .next (((s.writeBootBlock slot s.bootUnits s.resetCount).devEvent 0xC1 slot 0 0).answer mb Stat.ok)

/-- SVN of the running image of a stage. -/
def Sec.runSvn (x : Sec) (stage : Nat) : Nat := if stage = 1 then x.runFirst else x.runMain

/-- The OTP counter of a stage raised; fuses only gain (R495). -/
def State.burnSvn (s : State) (stage v : Nat) : State :=
  let o := s.sec.otp
  let o := if stage = 1 then { o with firstSvn := Nat.max o.firstSvn v } else { o with mainSvn := Nat.max o.mainSvn v }
  { s with sec := { s.sec with otp := o } }

/-- The inactive slot holds a valid image whose SVN for the stage is below the running one's (R504). -/
def State.lowerSpare (s : State) (stage : Nat) : Bool :=
  let slot := 1 - s.activeSlot
  s.slotStatus slot = Stat.ok && decide (hdSvn (s.slotHdr slot stage) < s.sec.runSvn stage)

/-- RMP_ROLLBACK_ADVANCE (R504 to R506); the fuses of a stage are spent at 63 (R495). -/
def execRmpRollbackAdvance (mb : MbId) (s : State) : Host.Outcome State Fault Refusal :=
  match s.held mb 0x0704 with
  | none => .next s
  | some m =>
    let stage := fld m 0x20 1
    let was := s.sec.otp.svn stage
    if fld m 0x21 1 = 0 && s.lowerSpare stage then .next (s.answer mb Stat.wrongState)
    else if 63 ≤ was then .next (s.answer mb Stat.noResource)
    else
      let s := s.burnSvn stage (s.sec.runSvn stage)
      let now := s.sec.otp.svn stage
      let s := if now = was then s else s.devEvent 0xC2 stage now 0
      .next (s.reply mb Stat.ok 0 (toBytes 1 now))

/-- RMP_LC_TRANSITION (R501, R502, R504): the reply, then the fuse word, the wipe and the reset. -/
def execRmpLcTransition (mb : MbId) (s : State) : Host.Outcome State Fault Refusal :=
  match s.held mb 0x0705 with
  | none => .next s
  | some m =>
    let target := fld m 0x20 1
    let st := s.transitionStatus false target (BitVec.ofNat 1536 (fld m 0x28 192))
    if !s.liveReqs.isEmpty || s.cfg.staged.isSome then .next (s.answer mb Stat.wrongState)
    else if st ≠ Stat.ok then .next (s.answer mb st)
    else .next ((s.answer mb Stat.ok).transition target)

/-! ## Power, timers and ageing -/

/-- PWR_CLAMP.CAUSE (R532): bit 0 power, bit 1 input voltage, bit 2 thermal of the field. -/
def Pwr.cause (p : Pwr) : Nat := b2n p.clampPower + 2 * b2n p.clampVin + 4 * b2n (!p.clampTherm.isEmpty)

/-- RMP_POWER_QUERY (R531); CLAMP cause is the register's field (log 42). -/
def execRmpPowerQuery (mb : MbId) (s : State) : Host.Outcome State Fault Refusal :=
  match s.held mb 0x0901 with
  | none => .next s
  | some _ =>
    let p := s.pwr
    .next (s.reply mb Stat.ok 0 (packFields ([(4, p.pcap), (4, p.avg1s), (4, p.avg1ms), (1, p.cause), (3, 0)] ++
      (List.range 32).map (fun k => (1, ofInt 8 (s.therm k).temp)))))

/-- RMP_POWER_CAP (R510, R531). -/
def execRmpPowerCap (mb : MbId) (s : State) : Host.Outcome State Fault Refusal :=
  match s.held mb 0x0902 with
  | none => .next s
  | some m => .next ({ s with pwr := { s.pwr with pcap := fld m 0x20 4 } }.answer mb Stat.ok)

/-- RMP_TIMER_ALLOC (R518, R531): the lowest comparator from 6 up that no LD has, armed; one that would drive SYNC_OUT while
another does is not granted (R519). -/
def execRmpTimerAlloc (mb : MbId) (s : State) : Host.Outcome State Fault Refusal :=
  match s.held mb 0x0903, mb with
  | some m, .ld l _ =>
    match firstFrom (fun k => (s.cmp k).owner.isNone) 58 6 with
    | none => .next (s.answer mb Stat.noResource)
    | some k =>
      if bit (fld m 0x2C 1) 1 && s.syncOutTaken k then .next (s.answer mb Stat.noResource)
      else
      let s := s.updCmp k (fun _ => { mtch := fld m 0x20 8, period := fld m 0x28 4, action := fld m 0x2C 1, enable := true, owner := some l.val })
      .next (s.reply mb Stat.ok 0 (toBytes 1 k))
  | _, _ => .next s

/-- RMP_TIMER_FREE (R518, R531). -/
def execRmpTimerFree (mb : MbId) (s : State) : Host.Outcome State Fault Refusal :=
  match s.held mb 0x0904, mb with
  | some m, .ld l _ =>
    let k := fld m 0x20 1
    if (s.cmp k).owner ≠ some l.val then .next (s.answer mb Stat.wrongState)
    else .next ((s.updCmp k (fun _ => {})).answer mb Stat.ok)
  | _, _ => .next s

/-- One tile's 8 bytes of the ageing report: plan, MARGIN_USED, worst in-place slack, hours since its sweep (R528, R531). -/
def State.ageOf (s : State) (t : Nat) : List Byte :=
  let p := s.tpwr t
  let worst := match p.slack with
    | [] => (0 : Int)
    | x :: xs => xs.foldl (fun a b => if b < a then b else a) x
  packFields [(2, p.plan.1), (1, p.plan.2), (1, marginUsed p.v0 p.plan), (2, ofInt 16 worst), (2, Nat.min 65535 ((s.ltu - p.sweptAt) / hour))]

/-- RMP_AGE_REPORT (R528, R531). -/
def execRmpAgeReport (mb : MbId) (s : State) : Host.Outcome State Fault Refusal :=
  match s.held mb 0x0905 with
  | none => .next s
  | some _ => .next (s.reply mb Stat.ok 0 ((List.range 48).flatMap s.ageOf))

/-- RMP_BOOT_PARAM_SET (R516, R520): COMP_UNITS of the next boot; the reset count stands. -/
def execRmpBootParamSet (mb : MbId) (s : State) : Host.Outcome State Fault Refusal :=
  match s.held mb 0x0906 with
  | none => .next s
  | some m => .next ((s.writeBootBlock s.activeSlot (fld m 0x20 1) s.resetCount).answer mb Stat.ok)

end Sys2Proof.Machine
end

