-- ==== Sys2Proof/Machine/Startup.lean ====
section
/-!
DEFINITION. Sys2Proof/Machine/Startup.lean: start-up from the release of RESET_N to READY, and the recovery boot (R64, R197, R222 to R225,
R273, R399, R424, R496 to R498, R501, R516, R520, R525, R539, R546 to R549).

The LTU count at which start-up ends comes with the command; every phase is stamped with it.
-/
namespace Sys2Proof.Machine

/-- Start-up goes on: nothing has halted the device, and it has not left BOOTING (R405, R546). -/
def State.boots (s : State) : Bool := !s.fcl.halted && s.devState = .booting

/-- The next phase, while start-up goes on. -/
def State.phase (s : State) (f : State → State) : State := if s.boots then f s else s

/-! ## ROM (R64, R497, R498, R514, R539) -/

/-- RESET_N goes high: straps are latched, clocks measured (R514, R532, R539). -/
def State.romStart (s : State) (i : StartupIn) : State :=
  let s := { s with
    ltu := wrap64 (s.ltu + i.ticks)
    boot := { s.boot with released := true, started := true, strap := i.straps.toNat, strapBad := bits i.straps.toNat 1 2 == 3 }
    jtag := { s.jtag with drive := .system }
    pwr := { s.pwr with refKhz := i.refKhz, pllLock := true, refOk := decide (99990 ≤ i.refKhz) && decide (i.refKhz ≤ 100010) } }
  let s := s.zeroSecure
  let s := { s.draw with sec := { s.sec with nonce := (Config.nonce s.fresh).toNat, mr := Tbl.put s.sec.mr 0 Config.romDigest } }
  s.progress 0x01 0

/-- Modules of a port's edge that did not train, named at either end. -/
def lostOn (lost : List (Nat × Nat × Nat)) (site port : Nat) : Nat :=
  let p := peerOf site port
  ((lost.filter (fun e => (e.1, e.2.1) = (site, port) || (e.1, e.2.1) = p)).map (·.2.2)).sum

/-- Every edge trains its modules; those that fail are left out, and an edge left with none halts the device (R64). -/
def State.trainTrellis (s : State) (lost : List (Nat × Nat × Nat)) : State :=
  let s := (List.range 7).foldl (fun (s : State) d => (List.range (portsOf d)).foldl (fun (s : State) p =>
    let n := modulesFitted d p - lostOn lost d p
    s.updPort d p (fun o => { o with modulesUp := n, state := if n = 0 then .failed else .up })) s) s
  let s := lost.foldl (fun (s : State) e =>
    if 7 ≤ e.1 || portsOf e.1 ≤ e.2.1 || e.2.2 = 0 then s
    else s.raise (trellisSrc e.1 (if ((s.die e.1).port e.2.1).modulesUp = 0 then 3 else 2))) s
  s.sample.phase (fun s => s.progress 0x02 0)

/-! ## First stage (R457, R496, R497, R501) -/

/-- The recovery boot: an endpoint, LD 0 only, without CXL protocols (R549). -/
def State.recoveryBoot (s : State) (i : StartupIn) (status : Nat) : State :=
  let s := { s with devState := .recovery }
  let s := if s.boot.perst then s.trainCxl i.cxl else s
  { s with cxl := { s.cxl with mld := false, cfgReady := s.boot.perst } }.progress 0x0E status

/-- The first stage starts: its measurement and keys, and its first kick of BEAT (R457, R497). -/
def State.firstStarts (s : State) (h slot : Nat) : State :=
  let o := s.sec.otp
  let s := { s with sec := { s.sec with bootSlot := slot, firstKey := hdKey h, runFirst := hdSvn h, udsLocked := true, mr := Tbl.put s.sec.mr 1 (hdDigest h) } }
  let s := { s with sec := { s.sec with mr := Tbl.put s.sec.mr 3 (mr3Of o.lc o.firstSvn o.mainSvn (hdKey h) s.sec.mainKey slot) } }
  { s with fcl := { s.fcl with lastKick := some s.ltu, running := true, lastBeat := s.ltu } }

/-- The ROM chooses a slot and starts its first stage, or takes the recovery path (R496, R501, R549). In BLANK it waits on
JTAG, in END it stops. -/
def State.romBoots (s : State) (i : StartupIn) : State :=
  if s.sec.otp.lc = 1 || s.sec.otp.lc = 6 then s
  else if bit i.straps.toNat 0 then s.recoveryBoot i 0
  else match s.bootSlot? with
    | none => s.recoveryBoot i (s.slotStatus s.activeSlot)
    | some slot =>
      let h := s.slotHdr slot 1
      let body := s.qspiBytes (stageAt slot 1 + 256) (hdLength h)
      let main := s.slotHdr slot 2
      let s := { s with sec := { s.sec with mainKey := hdKey main } }
      (((s.wrBytes (hdLoad h) body).firstStarts h slot).progress 0x03 0)

/-- Start-up has got past the ROM's choice of an image. -/
def State.pastRom (s : State) : Bool := s.boots && s.boot.phase ≠ 0x02

/-- CXL configuration space is set up once the port's link can train (R399, R544, R546). -/
def State.bootCxl (s : State) (i : StartupIn) : State :=
  if !s.boot.perst then s
  else
    let s := s.trainCxl i.cxl
    { s with cxl := { s.cxl with cfgReady := true } }

/-- The packages train, and the system region is zeroed (R232, R399, R546). -/
def State.bootLpddr (s : State) (failed : List Nat) (active : Bool) : State :=
  let s := (List.range 16).foldl (fun (s : State) k =>
    if failed.contains k then (s.updLpc k (fun l => { l with state := 3 })).raise (0x340 + 4 * k + 1)
    else s.updLpc k (fun l => { l with state := 2, rate := 107 })) s
  s.sample.phase (fun s =>
    let s := s.zero 0x10000000000 0x800000000
    { s with cxl := { s.cxl with memActive := active && s.boot.perst } }.progress 0x04 0)

/-! ## Main Rinix (R496, R497, R516, R520) -/

/-- Main Rinix is read into its region and starts: its measurement, the alias key, the reset count and the staging split. -/
def State.bootMain (s : State) : State :=
  let slot := s.sec.bootSlot
  let h := s.slotHdr slot 2
  let s := s.wrBytes (hdLoad h) (s.qspiBytes (stageAt slot 2 + 256) (hdLength h))
  let x := s.sec
  let s := { s with sec := { x with runMain := hdSvn h, fwVersion := hdVersion h, mr := Tbl.put x.mr 2 (hdDigest h),
                                    alias_ := aliasOf x.otp.uds (Tbl.getD x.mr 1 0) (hdDigest h) (Tbl.getD x.mr 3 0),
                                    aliasCert := aliasCertOf x.otp.uds (aliasOf x.otp.uds (Tbl.getD x.mr 1 0) (hdDigest h) (Tbl.getD x.mr 3 0)),
                                    certs := x.otp.lc = 3 || x.otp.lc = 4 } }
  let n := s.resetCount + 1
  let s := s.writeBootBlock s.activeSlot s.bootUnits n
  let s := { s with pwr := { s.pwr with harts := 0xFF, boot := n % 65536, bootSet := true } }
  (s.splitStaging (Nat.min 16 s.bootUnits)).progress 0x05 0

/-- The stacks train; a channel that fails after repair halts the device (R197, R546). -/
def State.bootHbm (s : State) (failed : List Nat) : State :=
  let s := failed.foldl (fun (s : State) c => if c < 128 then s.raise (0x240 + 0x20 * (c / 16) + 0x12) else s) s
  s.sample.phase (fun s => s.progress 0x06 0)

/-! ## Flash and tiles (R222 to R226, R525, R526) -/

/-- Raw capacity of the medium in bytes (R223). -/
def flashBytes (i : StartupIn) : Nat := i.blocks * i.blockSectors * 4096

/-- T3 can be used: eight channels with the same enables and LUNs, identical packages, and a raw capacity of 2.5 TB to
16 TB (R223). -/
def flashUsable (i : StartupIn) : Bool :=
  match i.onfi with
  | [] => false
  | e :: es => i.flashOk && decide (2500000000000 ≤ flashBytes i) && decide (flashBytes i ≤ 16000000000000) && (i.onfi.map (·.1)).eraseDups.length = 8 && i.onfi.all (fun x => decide (x.1 < 8) && !x.2.2.2) &&
      decide (0 < e.2.1 * e.2.2.1) && es.all (fun x => x.2.1 = e.2.1 && x.2.2.1 = e.2.2.1)

/-- LUNs of the medium. -/
def lunsOf (i : StartupIn) : Nat := (i.onfi.map (fun e => e.2.1 * e.2.2.1)).sum

/-- A block as start-up finds it: what its tables record of it persists; a block they do not record has its factory
mark and the count found (R225, R226). -/
def blockBoot (old : Tbl FlashBlock) (i : StartupIn) (b : Nat) : FlashBlock :=
  match Tbl.find? old b with
  | some k => { erases := k.erases, bad := k.bad || i.bad.contains b }
  | none => { erases := Tbl.getD i.erases b 0, bad := i.bad.contains b }

/-- The flash translation layer as start-up leaves it (R224, R225): every handle discarded, every good block free, the
bad marks and erase counts in `old` kept. -/
def ftlBoot (old : Tbl FlashBlock) (i : StartupIn) : Ftl :=
  let bs := (Tbl.keys old ++ i.bad ++ i.erases.map (·.1)).eraseDups
  let blk : Tbl FlashBlock := bs.map (fun b => (b, blockBoot old i b))
  let f : Ftl := { blocks := i.blocks, blockSectors := i.blockSectors, luns := lunsOf i, blk := blk,
                   badBlocks := (blk.filter (fun e => e.2.bad && decide (e.1 < i.blocks))).length,
                   chState := i.onfi.map (fun e => (e.1, if e.2.2.2 then 3 else 2)), ce := i.onfi.map (fun e => (e.1, e.2.1)), chLuns := i.onfi.map (fun e => (e.1, e.2.2.1)) }
  if flashUsable i then { f with userPlots := f.good * f.blockSectors * 4096 * 7 / 8 / 65536 } else { f with unusable := true }

/-- The ONFI channels are brought up; flash that fails leaves T3 unusable and does not stop start-up (R223, R546). -/
def State.bootFlash (s : State) (i : StartupIn) : State :=
  let s := { s with ftl := ftlBoot s.ftl.blk i }
  let s := if s.ftl.unusable then s.devEvent 0x06 0 0 0 else s
  s.progress 0x07 0

/-- Every tile is swept and planned before READY (R525, R526). -/
def State.bootTiles (s : State) (i : StartupIn) : State :=
  ((List.range 48).foldl (fun (s : State) t => s.planTile t (nth i.sweeps t []) true) s).progress 0x08 0

/-- All links are enabled with EXPECT_ID 0 and begin to train (R273, R546). -/
def State.bootLinks (s : State) : State :=
  ((List.range 36).foldl (fun (s : State) k =>
    s.updLink k (fun l => { l with enable := true, expectId := 0, state := .training, since := s.ltu, prev := none, retrains := satAdd 8 l.retrains 1 })) s).progress 0x09 0

/-- READY: the notices are posted and BOOT_READY records the count (R424, R546, R557). -/
def State.bootReady (s : State) : State :=
  let s := { s with devState := .ready, boot := { s.boot with readyTick := s.ltu } }
  s.writeLocal.readyNotices.progress 0x0A 0

/-- Start-up past the ROM. -/
def State.bootOn (s : State) (i : StartupIn) : State :=
  if !s.pastRom then s
  else
    let s := ((s.bootCxl i).bootLpddr i.lpddrFailed true).phase State.bootMain
    let s := s.phase (fun s => s.bootHbm i.hbmFailed)
    s.phase (fun s => ((((s.bootFlash i).bootTiles i).bootLinks).bootReady))

/-- STARTUP (R546): the release of RESET_N runs start-up; once for each release. A device whose rail failed waits for
RESET_N to be cycled (R542). -/
def execStartup (i : StartupIn) (s : State) : Host.Outcome State Fault Refusal :=
  if !s.boot.good || s.boot.started then .next s
  else .next ((((s.romStart i).trainTrellis i.modulesLost).phase (fun s => s.romBoots i)).bootOn i)

/-! ## Recovery boot (R549) -/

/-- First address of the staging SRAM, where BAR4-5 puts a recovery image. -/
def stagingBase : Nat := 0x28001000000

/-- The bytes of a recovery image after its header, as far as LENGTH goes. -/
def State.recBody (s : State) (len n : Nat) : List Byte := s.bytes (stagingBase + 256) (Nat.min n (len - 256))

/-- REC_GO (R496, R549): the ROM checks the first stage and starts it; the packages are trained, and BAR4-5 maps the window.
A write once a first stage runs finds no ROM to answer it. -/
def execRecGo (len : BitVec 32) (s : State) : Host.Outcome State Fault Refusal :=
  if !s.live || s.devState ≠ .recovery || s.boot.recState = 2 then .next s
  else
    let s := { s with boot := { s.boot with recLen := len.toNat } }
    let hdr := s.bytes stagingBase 256
    let h := ofBytes hdr
    let st := if len.toNat < 256 then Stat.checkFailed else s.sec.otp.stageStatus hdr (s.recBody len.toNat) 1
    if st ≠ Stat.ok then .next { s with boot := { s.boot with recStatus := st, recState := 3 } }
    else
      let s := (s.wrBytes (hdLoad h) (s.recBody len.toNat (hdLength h))).firstStarts h 0
      let s := (List.range 16).foldl (fun (s : State) k => s.updLpc k (fun l => { l with state := 2, rate := 107 })) s
      let s := s.zero 0x10000000000 0x800000000
      .next { s with boot := { s.boot with recStatus := st, recState := 2, recWindow := true } }

end Sys2Proof.Machine
end

