-- ==== Sys2Proof/Machine/Regs.lean ====
section
/-!
DEFINITION. Sys2Proof/Machine/Regs.lean: the register space as it reads (R74 to R76 and the register table of every chapter),
and RMP_REG_READ.

A register is named by its 8-byte offset in its block. Write-only fields and unimplemented offsets read 0 (R13, R75).
-/
namespace Sys2Proof.Machine

/-! ## Blocks (R53, R74, R76) -/

/-- Fields of a register, (lowest bit, value), as one word. -/
def pk (fs : List (Nat × Nat)) : Nat := (fs.map (fun f => f.2 * 2 ^ f.1)).sum

/-- KIND of DIE_INFO by DIE_SITE (R77); none for CL, which has no register space. -/
def siteKind (site : Nat) : Option Nat :=
  if site < 4 then some 1 else if site = 4 then some 2 else if site < 7 then some 3 else if site = 7 then none
  else if site < 16 then some 4 else if site < 32 then some 5 else none

/-- The block is implemented on the site (R76). -/
def blockOk (site blk : Nat) : Bool :=
  match siteKind site with
  | none => false
  | some 1 => blk ≤ 1 || (0x10 ≤ blk && blk ≤ 0x1B) || (0x20 ≤ blk && blk ≤ 0x25) || (0x30 ≤ blk && blk ≤ 0x33)
  | some 2 => (blk ≤ 0x0E && blk ≠ 0x07) || blk = 0x30 || blk = 0x33
  | some 3 => blk ≤ 4 || (0x10 ≤ blk && blk ≤ 0x21)
  | some 4 => blk = 0 || (0x10 ≤ blk && blk ≤ 0x1F)
  | some _ => blk = 0

/-- DIE_SITE, BLOCK and offset of an address of the register space (R74). -/
def regSite (a : Nat) : Nat := (a - 0x30000000000) / 0x800000
def regBlock (a : Nat) : Nat := (a - 0x30000000000) % 0x800000 / 0x8000
def regOff (a : Nat) : Nat := a % 0x8000

/-- The address names an implemented block (R75). -/
def regMapped (a : Nat) : Bool := regionOf a == .regs && blockOk (regSite a) (regBlock a)

/-! ## The dies (R77 to R83) -/

/-- A port shows DEGRADED (R81). -/
def State.degraded (s : State) (site p : Nat) : Bool :=
  s.portUp site p && decide (((s.die site).port p).modulesUp < modulesFitted site p)

/-- TILE_FENCED of a compute die (R78). -/
def State.dieTileFences (s : State) (site : Nat) : Nat :=
  pk ((List.range 12).map (fun i => (i, b2n (site < 4 && (s.tile (tileOfLocal site i)).fenced))))

/-- DIE block (R77 to R80). The M-site block mirrors the package's mode registers (R76). -/
def State.dieReg (s : State) (site off : Nat) : Nat :=
  let d := s.die site
  let ps := List.range (portsOf site)
  if off = 0 then pk [(0, site), (16, (siteKind site).getD 0), (24, (Config.stepping site).toNat)]
  else if 7 ≤ site then (if 16 ≤ site && 0x20 < off then (Config.modeReg site off).toNat else 0)
  else if off = 0x08 then
    pk [(0, s.dieTileFences site), (16, b2n d.fenced), (17, b2n (ps.any (s.degraded site))), (18, b2n (ps.all (s.portUp site)))]
  else if off = 0x10 then (if site = 4 then s.trellis.timeoutUs else 0)
  else if off = 0x18 then pk [(0, d.addrViolations), (16, d.trellisTimeouts), (48, d.tableCheck)]
  else 0

def PortState.code : PortState → Nat
  | .down => 0
  | .training => 1
  | .up => 2
  | .failed => 3

/-- TRELLIS block (R81 to R83). -/
def State.trellisReg (s : State) (site off : Nat) : Nat :=
  let p := (off - 0x100) / 0x20
  let x := (s.die site).port p
  if off < 0x100 || portsOf site ≤ p then 0
  else match off % 0x20 with
    | 0x00 => pk [(0, x.state.code), (8, x.modulesUp), (16, modulesFitted site p), (24, (peerOf site p).1), (32, b2n (s.degraded site p))]
    | 0x08 => pk [(0, x.retry), (32, x.hdrCheck)]
    | 0x10 => 2 * b2n x.retrain
    | _ => 0

/-! ## Tiles (R119 to R123, R534) -/

/-- STATE of TILE_STATUS (R119): zeroing and killing end within the step that begins them. -/
def Tile.stateCode (t : Tile) : Nat :=
  match t.cur with
  | none => 0
  | some c => match c.phase with
    | .running => 2
    | .ended => 3
    | .committing => 4

def TPwr.code : TPwr → Nat
  | .run => 0
  | .idle => 1
  | .retain => 2
  | .off => 3

/-- TILE block: status, counters, power and path-delay monitors. -/
def State.tileReg (s : State) (t off : Nat) : Nat :=
  let x := s.tile t
  let p := s.tpwr t
  if off = 0x00 then
    pk [(0, x.stateCode), (16, match x.cur with
      | some c => cdTag c.desc
      | none => 0), (29, b2n x.fenced), (30, b2n x.resLock), (31, b2n x.workValid), (32, x.workTenant)]
  else if off = 0x08 then pk [(0, x.resMib), (7, b2n x.cfgReject)]
  else if off = 0x10 then pk [(0, x.failed), (16, x.killed), (32, x.committed)]
  else if 0x100 ≤ off && off ≤ 0x150 then (if off = 0x150 && t < 32 then 0 else Tbl.getD x.conf ((off - 0x100) / 8) 0)
  else if off = 0x200 then pk [(0, p.vdd s.ltu), (16, p.req), (24, p.st.code)]
  else if off = 0x208 then pk [(0, p.ageDiv), (4, p.fwDiv), (8, s.divOf t)]
  else if off = 0x210 then p.vset
  else if off = 0x218 then pk [(0, b2n p.sweep), (1, b2n p.insitu), (8, p.sel)]
  else if 0x300 ≤ off && off < 0x380 then
    pk [(0, ofInt 16 (nth p.slack ((off - 0x300) / 8) 0)), (16, nth (nth p.delays p.sel []) ((off - 0x300) / 8) 0 % 65536)]
  else 0

/-! ## Memory controllers and BAUs (R188 to R196, R232) -/

def ChMode.code : ChMode → Nat
  | .memory => 0
  | .entering => 1
  | .processor => 2
  | .exiting => 3

/-- HBMC block of a stack. -/
def State.hbmcReg (s : State) (stack off : Nat) : Nat :=
  let ch := fun (i : Nat) => s.chan (16 * stack + i)
  if off = 0 then pk ((List.range 16).map (fun i => (2 * i, (ch i).mode.code)))
  else if off = 0x08 then pk ((List.range 16).flatMap (fun i => [(i, b2n (ch i).disable), (32 + i, b2n (ch i).fenced)]))
  else if 0x100 ≤ off && off < 0x180 then
    let k := ch ((off - 0x100) / 8)
    pk [(0, Nat.min 64 k.hold.length), (16, k.maxWait), (32, k.held)]
  else if 0x200 ≤ off && off < 0x280 then
    let k := ch ((off - 0x200) / 8)
    pk [(0, k.holdTimeout), (16, k.overrun), (32, k.programs)]
  else 0

/-- STATE of BAU_STATUS (R193), by the channel's mode while a program runs. -/
def Chan.bauState (k : Chan) : Nat :=
  match k.prog with
  | none => 0
  | some p => if p.stopping then 4 else match k.mode with
    | .processor => 2
    | .exiting => 3
    | _ => 1

/-- BAU block of a channel. -/
def State.bauReg (s : State) (c off : Nat) : Nat :=
  let k := s.chan c
  match off with
  | 0x00 => pk (match k.prog with
    | some p => [(0, k.bauState), (16, p.tag), (32, p.tenant)]
    | none => [])
  | 0x08 => k.busyAclk
  | 0x10 => pk [(0, k.eccUncorrected), (32, k.eccCorrected)]
  | 0x20 => pk [(0, k.ownFirst), (16, k.ownCountM1)]
  | 0x28 => k.ownValue
  | 0x38 => pk [(0, b2n k.ownBusy), (1, b2n k.ownDone), (2, b2n k.ownReject)]
  | _ => 0

/-- LPC block of a package. -/
def State.lpcReg (s : State) (k off : Nat) : Nat :=
  let l := s.lpcOf k
  match off with
  | 0x00 => pk [(0, l.state), (8, l.rate)]
  | 0x08 => pk [(0, l.poisoned), (16, l.linkRetried), (32, l.linkCorrected)]
  | 0x10 => l.onDie
  | _ => 0

/-! ## DMA, SIEVE, COMP, ATU, ONFI (R159 to R163, R231, R233, R264, R265) -/

def DmaState.code : DmaState → Nat
  | .idle => 0
  | .active => 1
  | .stopping => 2
  | .halted => 3

/-- DMA block of an engine. -/
def State.dmaReg (s : State) (e off : Nat) : Nat :=
  let c := (off - 0x400) / 0x40
  let k := s.dch e c
  if off = 0 then (if e < 4 then pk [(0, 32), (8, 4)] else pk [(0, 64), (8, 2)])
  else if off = 0x08 then (s.eng e).irqPend.toNat
  else if off < 0x400 || !(dchExists e c) then 0
  else match off % 0x40 with
    | 0x00 => pk [(0, b2n k.enable), (3, b2n (!(isRing e c))), (4, k.prio), (8, k.ringLog2), (12, k.ringBase / 4096)]
    | 0x08 => pk [(8, k.cplLog2), (12, k.cplBase / 4096)]
    | 0x10 => pk [(0, k.cplTail), (16, k.cplHead), (32, k.sqTail), (48, k.sqHead)]
    | 0x18 => pk [(0, k.state.code), (8, b2n k.checkErr), (32, k.bursts)]
    | _ => 0

/-- The compressor of a die is in an operation: a tile's or a ring channel's. -/
def State.compBusy (s : State) (d : Nat) : Bool :=
  (List.range 12).any (fun i => match (s.tile (tileOfLocal d i)).cur with
    | some c => c.ops.any (fun o => o.phase = .active && fld o.desc 0 1 = 0x32)
    | none => false) ||
  (s.eng d).chans.any (fun e => match e.2.xfer with
    | some f => decide (24 ≤ e.1) && decide (3 ≤ rdKind f.desc)
    | none => false)

/-- COMP block. -/
def State.compReg (s : State) (d off : Nat) : Nat :=
  let c := s.compOf d
  match off with
  | 0x00 => pk [(0, b2n (s.compBusy d)), (16, c.share)]
  | 0x08 => c.bytesIn
  | 0x10 => c.bytesOut
  | 0x18 => pk [(0, c.refused), (16, c.unchanged), (32, c.frames)]
  | _ => 0

/-- SIEVE block: an operation that waits for remote rows shows FETCHING; every other runs whole (log 43). -/
def State.sieveReg (s : State) (d off : Nat) : Nat :=
  let v := s.sieveOf d
  if off = 0x00 then match v.run.bind (fun r => s.cmd? r.1) with
    | some c => pk [(0, 2), (16, cdTag c.desc)]
    | none => 0
  else if off = 0x08 then pk [(0, v.rows), (32, v.ops)]
  else if off = 0x10 then pk [(0, v.replMiss), (32, v.replHit)]
  else if 0x100 ≤ off && off < 0x160 then
    let e := (s.tile (tileOfLocal d ((off - 0x100) / 8))).emb
    pk [(0, b2n e.valid), (6, e.desc / 64), (48, e.version)]
  else 0

/-- ATU block of a slice; the HD slice also has the invalidation registers. ATU_CTRL and ASID_TBL read alike on all. -/
def State.atuReg (s : State) (sl off : Nat) : Nat :=
  let a := s.slice sl
  match off with
  | 0x00 => b2n s.atu.enable
  | 0x08 => s.atu.asidTbl
  | 0x18 => if sl = 4 then s.atu.invVa else 0
  | 0x20 => if sl = 4 then pk [(0, b2n s.atu.invBusy.isSome), (1, b2n s.atu.invDone), (2, b2n s.atu.invReject)] else 0
  | 0x28 => pk [(0, a.uncorrected), (16, a.corrected), (32, a.walks)]
  | 0x40 => pk [(0, a.faultCause), (16, a.faultVpn), (63, b2n a.faultValid)]
  | 0x48 => pk [(0, a.faultAsid), (16, a.faultTile)]
  | _ => 0

/-- Erase counts of the good blocks, the highest and the lowest (R233). -/
def Ftl.wear (f : Ftl) : Nat × Nat :=
  let es := (List.range f.blocks).filterMap (fun b => if (f.block b).bad then none else some (f.block b).erases)
  (es.foldl Nat.max 0, match es with
    | [] => 0
    | e :: t => t.foldl Nat.min e)

/-- ONFI block. -/
def State.onfiReg (s : State) (off : Nat) : Nat :=
  let f := s.ftl
  if off = 0 then f.userPlots
  else if off = 0x08 then pk [(0, f.freeSectors / 16), (32, f.badBlocks)]
  else if off = 0x10 then pk [(0, f.wear.2), (32, f.wear.1)]
  else if off = 0x18 then pk [(0, f.uncorrectable), (16, f.retried), (32, f.soft)]
  else if 0x100 ≤ off && off < 0x180 then
    let k := (off - 0x100) / 8
    pk [(0, Tbl.getD f.chState k 0), (8, Tbl.getD f.ce k 0), (16, Tbl.getD f.chLuns k 0)]
  else 0

/-! ## Links, MSF, RAE, EGR (R301, R302, R334, R357) -/

def LinkState.code : LinkState → Nat
  | .down => 0
  | .training => 1
  | .linkUp => 2
  | .active => 3
  | .managementOnly => 4
  | .failed => 5

/-- LINK block. -/
def State.linkReg (s : State) (lk off : Nat) : Nat :=
  let l := s.link lk
  match off with
  | 0x00 => pk [(0, l.state.code), (3, b2n l.partnerSwitch), (8, l.retrains), (16, l.mismatch), (36, l.partnerId)]
  | 0x08 => l.partnerUid
  | 0x10 => pk [(0, l.fecUncorrected), (32, l.fecCorrected)]
  | 0x18 => pk [(0, l.dropped), (16, l.hdrCheck), (32, l.replays)]
  | 0x20 => pk [(0, b2n l.enable), (8, l.expectId)]
  | 0x28 => 2 * b2n l.retrainBit
  | _ => 0

/-- One of four 64-bit parts of a table's data registers. -/
def dataPart (w off : Nat) : Nat := bits w (8 * (off - 0x48)) 64

/-- MSF block of a link die; table commands complete in the step that runs them, so TBL_STATUS.BUSY reads 0. -/
def State.msfReg (s : State) (d off : Nat) : Nat :=
  let x := s.lnd d
  let out := x.txn.filter (fun e => e.2.ag.isSome)
  match off with
  | 0x00 => x.timeoutUs
  | 0x08 => pk [(0, out.length), (16, (out.filter (fun e => e.2.anchored)).length)]
  | 0x10 => pk [(0, x.lateResp), (32, x.timeouts)]
  | 0x18 => pk [(0, x.refusedIn), (32, x.refusedOut)]
  | 0x20 => pk [(0, x.faultAgent), (36, x.faultDest), (48, x.faultCause), (63, b2n x.faultValid)]
  | 0x28 => x.faultAddr
  | 0x68 => pk [(1, b2n x.tblDone), (2, b2n x.tblReject)]
  | _ => if 0x48 ≤ off && off ≤ 0x60 then dataPart x.tblData off else 0

/-- RAE block of a link die. -/
def State.raeReg (s : State) (d off : Nat) : Nat :=
  let x := s.lnd d
  let q := s.sq (256 * d + (off - 0x1000) / 0x20)
  let c := s.cq (256 * d + (off - 0x3000) / 0x20)
  if 0x1000 ≤ off && off < 0x3000 then match off % 0x20 with
    | 0x00 => pk [(0, q.cq), (8, q.log2), (12, q.base / 4096)]
    | 0x08 => pk [(0, q.tail), (16, q.head)]
    | 0x10 => b2n q.enable
    | _ => 0
  else if 0x3000 ≤ off && off < 0x5000 then match off % 0x20 with
    | 0x00 => pk [(0, b2n c.irq), (8, c.log2), (12, c.base / 4096)]
    | 0x08 => pk [(0, c.tail), (16, c.head)]
    | _ => 0
  else match off with
    | 0x00 => pk [(0, s.bitmaps d), (32, (s.fab.conns.filter (fun e => e.2.home = d && e.2.cached)).length)]
    | 0x08 => pk [(0, x.retrans), (32, x.dup)]
    | 0x10 => pk [(0, x.missDrop), (16, x.spills), (32, x.fills)]
    | 0x18 => pk [(0, x.raeLate), (16, x.cqHold), (32, x.notReady), (48, x.connErrors)]
    | 0x28 => pk [(0, b2n x.resetting.isSome), (1, b2n x.connDone), (2, b2n x.connReject)]
    | 0x38 => pk [(0, b2n (d = 0 && s.fab.revoking.isSome)), (1, b2n x.revDone), (2, b2n x.revReject), (32, match s.fab.revoking with
      | some r => s.inflightOn d r
      | none => 0)]
    | 0x40 => s.fab.keyEpoch
    | _ => 0

/-- EGR block of a link die. -/
def State.egrReg (s : State) (d off : Nat) : Nat :=
  let x := s.lnd d
  let l := s.link (18 * d + (off - 0x1000) / 0x40)
  let g := l.gates
  if 0x1000 ≤ off && off < 0x1480 then match off % 0x40 with
    | 0x00 => pk ((List.range 4).map (fun i => (16 * i, nth l.quantum i 0)))
    | 0x08 => pk [(0, nth l.quantum 4 0), (16, nth l.quantum 5 0)]
    | 0x10 => pk ((List.range 7).map (fun i => (8 * i, nth l.mark i 0)))
    | 0x18 => pk [(2, b2n g.sync), (16, g.adminLen)]
    | 0x20 => g.adminBase
    | 0x28 => pk [(0, b2n g.operBank), (1, b2n g.pending), (3, b2n g.armReject), (4, b2n g.fallback), (5, b2n g.operValid), (8, g.rejectCause),
        (32, g.operLen), (40, g.curEntry)]
    | 0x30 => g.operBase
    | _ => pk [(0, l.overrun), (16, l.holdFit), (32, l.ecnMarked)]
  else match off with
    | 0x38 => x.egrFails
    | 0x68 => pk [(1, b2n x.egrDone), (2, b2n x.egrReject)]
    | _ => if 0x48 ≤ off && off ≤ 0x60 then dataPart x.egrData off else 0

/-! ## The hub die (R335, R396, R397, R442, R474, R507, R532, R533, R535, R557, R558) -/

/-- GRAFT block. -/
def State.graftReg (s : State) (off : Nat) : Nat :=
  let f := s.fab
  match off with
  | 0x00 => pk [(0, f.landFree), (32, (f.grafts.filter Graft.live).length)]
  | 0x08 => pk [(0, f.landSlots), (8, f.landCredits)]
  | 0x10 => pk [(0, f.gRefused), (16, f.gAborted), (32, f.gCommitted)]
  | 0x18 => f.gBytes
  | _ => 0

/-- REQ block. -/
def State.reqReg (s : State) (off : Nat) : Nat :=
  let q := s.reqRegs
  match off with
  | 0x00 => pk [(0, (s.tags.filter (fun e => e.2.held)).length), (16, q.inFlight.length), (32, s.liveReqs.length)]
  | 0x08 => q.step
  | 0x10 => pk [(0, q.ended), (32, q.admitted)]
  | 0x18 => pk [(0, q.preempts), (16, q.kills), (32, q.commits)]
  | 0x20 => pk [(0, q.missed), (32, q.late)]
  | 0x30 => pk [(0, b2n q.killBusy.isSome), (1, b2n q.killDone), (2, b2n q.killReject)]
  | 0x38 => pk [(0, (s.tag q.drainTag).drain), (16, q.drainTag)]
  | _ => 0

/-- RING block. -/
def State.ringReg (s : State) (off : Nat) : Nat :=
  let r := s.ringRegs
  match off with
  | 0x00 => pk [(0, (s.rings.filter (fun e => e.2.rstate ≠ .free)).length), (32, (s.rings.filter (fun e => e.2.rstate = .bound)).length)]
  | 0x08 => pk [(0, r.haltRing), (24, r.haltCause), (63, b2n r.haltValid)]
  | 0x10 => pk [(0, r.cplPosted), (32, r.subTaken)]
  | 0x18 => pk [(0, r.cplStalls), (8, r.badDoorbell), (16, r.eventsLost), (32, r.tokens)]
  | 0x28 => pk [(1, b2n r.cmdDone), (2, b2n r.cmdReject)]
  | _ => 0

/-- GO of mailboxes m to m + 3, 16 bits a mailbox (R442). -/
def State.mbPend (s : State) (m n : Nat) : Nat :=
  pk ((List.range n).flatMap (fun j => (List.range 16).map (fun l => (16 * j + l, b2n (Tbl.getD (s.ld l).mbs (m + j) {}).go))))

/-- CXL block. -/
def State.cxlReg (s : State) (off : Nat) : Nat :=
  let x := s.cxl
  let c := s.cfg
  let ver := fun (i : Option CfgImg) => match i with
    | some i => i.version
    | none => 0
  if off = 0 then pk [(0, x.state), (4, b2n x.mld), (8, x.width), (16, x.rate)]
  else if off = 0x08 then pk [(0, s.cmap.cur), (16, s.cmap.old.getD 0), (32, b2n s.cmap.old.isSome), (40, s.mapInflight)]
  else if off = 0x10 then
    pk [(0, ver c.current), (16, ver c.staged), (32, ver c.prev), (48, b2n c.cond.isSome), (49, b2n c.prev.isSome)]
  else if 0x100 ≤ off && off < 0x180 then
    let l := s.ld ((off - 0x100) / 8)
    pk [(0, b2n l.bound), (1, b2n l.decoder), (32, l.winBase), (40, l.winUnits)]
  else if off = 0x200 then s.mbPend 0 4
  else if off = 0x208 then s.mbPend 4 4
  else if off = 0x210 then pk [(0, s.mbPend 8 1), (16, b2n s.fabricMb.go)]
  else if off = 0x218 then pk [(0, x.flr), (16, x.hostWrFail), (32, x.cacheReads)]
  else 0

/-- SINCE_KICK in microseconds, saturating (R474). -/
def State.sinceKick (s : State) : Nat :=
  match s.fcl.lastKick with
  | some k => Nat.min 0xFFFF ((s.ltu - k) / 100)
  | none => Nat.min 0xFFFF (s.ltu / 100)

/-- FCL block; FCL_CNT holds two counters to the 8-byte word. -/
def State.fclReg (s : State) (off : Nat) : Nat :=
  let f := s.fcl
  if off = 0 then f.status
  else if off = 0x08 then f.pend
  else if off = 0x18 then pk [(0, b2n f.level), (1, b2n f.running), (8, f.badKick), (32, s.sinceKick)]
  else if off = 0x28 then pk [(1, b2n f.fenceDone), (2, b2n f.fenceReject)]
  else if off = 0x30 then pk ((List.range 48).map (fun t => (t, b2n (s.tile t).fenced)))
  else if off = 0x48 then pk ((List.range 7).map (fun d => (d, b2n (Tbl.getD f.dieFence d false))))
  else if 0x100 ≤ off && off < 0x180 then bits f.sticky.toNat (8 * (off - 0x100)) 64
  else if 0x180 ≤ off && off < 0x200 then bits f.wire.toNat (8 * (off - 0x180)) 64
  else if 0x400 ≤ off && off < 0x500 then
    pk ((List.range 32).map (fun j => (2 * j, classOf (4 * (off - 0x400) + j))))
  else if 0x2000 ≤ off && off < 0x3000 then
    pk [(0, Tbl.getD f.cnt ((off - 0x2000) / 4) 0), (32, Tbl.getD f.cnt ((off - 0x2000) / 4 + 1) 0)]
  else 0

/-- LTU block. -/
def State.ltuReg (s : State) (off : Nat) : Nat :=
  let k := (off - 0x100) / 0x20
  let c := s.cmp k
  if off = 0 then s.ltu
  else if off = 0x08 then s.pwr.boot
  else if off < 0x100 || 64 ≤ k then 0
  else match off % 0x20 with
    | 0x00 => c.mtch
    | 0x08 => c.period
    | 0x10 => pk [(0, b2n c.enable), (1, c.action)]
    | _ => b2n c.fired

/-- SSRAM block. -/
def State.ssramReg (s : State) (off : Nat) : Nat :=
  let x := s.sec
  if off = 0 then
    pk [(0, x.wipes), (16, x.mainKey), (32, x.bootSlot), (40, x.otp.firstSvn), (48, x.otp.mainSvn), (56, x.otp.lc)]
  else if off = 0x08 then pk [(0, x.tamper), (8, b2n x.wipeDone)]
  else if off = 0x18 then s.feed.stall
  else if 0x100 ≤ off && off < 0x180 then bits (Tbl.getD x.mr ((off - 0x100) / 0x20) 0) (8 * (off % 0x20)) 64
  else 0

/-- SBW, BOOT, CLK and CCX blocks. -/
def State.sbwReg (s : State) (off : Nat) : Nat :=
  match off with
  | 0x00 => pk [(0, b2n s.bridge.addr.isSome), (1, b2n s.boot.collideA), (2, b2n s.bridge.collideB)]
  | 0x08 => pk [(0, s.boot.cntB), (32, s.boot.cntA)]
  | 0x10 => s.bridge.addr.getD 0
  | _ => 0

def State.bootReg (s : State) (off : Nat) : Nat :=
  let b := s.boot
  match off with
  | 0x00 => pk [(0, b.strap), (8, b2n b.strapBad)]
  | 0x08 => pk [(0, b.phase), (16, b.error)]
  | 0x10 => b.cause
  | 0x18 => b.readyTick
  | _ => 0

def State.clkReg (s : State) (off : Nat) : Nat :=
  let p := s.pwr
  let site := (off - 0x100) / 8
  if off = 0 then pk [(0, b2n p.refOk), (1, b2n p.pllLock), (32, p.refKhz)]
  else if off = 0x08 then pk [(0, p.avg1ms), (32, p.avg1s)]
  else if off = 0x10 then p.pcap
  else if off = 0x18 then pk [(0, b2n (p.cause ≠ 0)), (1, p.cause)]
  else if off < 0x100 || 32 ≤ site || site = 7 then 0
  else pk [(0, ofInt 8 (s.therm site).temp), (8, (s.therm site).level)]

def State.ccxReg (s : State) (off : Nat) : Nat :=
  match off with
  | 0x00 => pk [(0, s.pwr.compUnits), (8, b2n s.pwr.splitLocked), (16, s.pwr.dmaUnits)]
  | 0x08 => s.pwr.harts
  | _ => 0

/-! ## One register -/

/-- The 8-byte register at a block and offset of HD (R76). -/
def State.hdReg (s : State) (blk off : Nat) : Nat :=
  match blk with
  | 0x01 => s.trellisReg 4 off
  | 0x02 => s.ccxReg off
  | 0x03 => s.cxlReg off
  | 0x04 => s.graftReg off
  | 0x05 => s.reqReg off
  | 0x06 => s.ringReg off
  | 0x08 => s.fclReg off
  | 0x09 => s.ltuReg off
  | 0x0A => s.onfiReg off
  | 0x0B => s.ssramReg off
  | 0x0C => s.sbwReg off
  | 0x0D => s.bootReg off
  | 0x0E => s.clkReg off
  | 0x30 => s.dmaReg 4 off
  | 0x33 => s.atuReg 4 off
  | _ => 0

/-- The 8-byte register at a block and offset of a compute die. -/
def State.cdReg (s : State) (d blk off : Nat) : Nat :=
  if blk = 1 then s.trellisReg d off
  else if blk < 0x20 then s.tileReg (tileOfLocal d (blk - 0x10)) off
  else if blk < 0x22 then s.hbmcReg (2 * d + (blk - 0x20)) off
  else if blk < 0x26 then s.lpcReg (4 * d + (blk - 0x22)) off
  else match blk with
    | 0x30 => s.dmaReg d off
    | 0x31 => s.sieveReg d off
    | 0x32 => s.compReg d off
    | _ => s.atuReg d off

/-- The 8-byte register at a block and offset of a link die. -/
def State.ldReg (s : State) (d blk off : Nat) : Nat :=
  match blk with
  | 0x01 => s.trellisReg (5 + d) off
  | 0x02 => s.raeReg d off
  | 0x03 => s.msfReg d off
  | 0x04 => s.egrReg d off
  | _ => s.linkReg (18 * d + (blk - 0x10)) off

/-- The 8-byte register at an address, 0 where the block has none there; none where no block is (R74, R75). -/
def State.readReg (s : State) (a : Nat) : Option Nat :=
  let site := regSite a
  let blk := regBlock a
  let off := regOff a / 8 * 8
  if !(regMapped a) then none
  else if blk = 0 then some (s.dieReg site off)
  else if site < 4 then some (s.cdReg site blk off)
  else if site = 4 then some (s.hdReg blk off)
  else if site < 7 then some (s.ldReg (site - 5) blk off)
  else some (s.bauReg (16 * (site - 8) + (blk - 0x10)) off)

/-- RMP_REG_READ (R422, R423): COUNT registers of one block from ADDR. -/
def execRmpRegRead (mb : MbId) (s : State) : Host.Outcome State Fault Refusal :=
  match s.held mb 0x0601 with
  | none => .next s
  | some m =>
    let a := fld m 0x20 8
    if !(regMapped a) then .next (s.answer mb Stat.addrUnmapped)
    else .next (s.reply mb Stat.ok 0 ((List.range (fld m 0x28 2)).flatMap (fun i => toBytes 8 ((s.readReg (a + 8 * i)).getD 0))))

end Sys2Proof.Machine
end

