-- ==== Sys2Proof/Machine/RegWrite.lean ====
section
/-!
DEFINITION. Sys2Proof/Machine/RegWrite.lean: REGISTER_ACCESS: a write of a register, performed or refused under R13, R14 and
R71 to R76.

A field whose write has a row of its own takes that row's effect here too. A write-only command acts when the access
covers its low half (notes/assumptions/43.md).
-/
namespace Sys2Proof.Machine

/-- A register write: the value in its byte lanes, and the lanes written (R75). -/
structure RegW where
  v : Nat
  k : Nat
  deriving DecidableEq, Repr

/-- The register as it would read with the written lanes replaced. -/
def RegW.mix (w : RegW) (cur : Nat) : Nat := (List.range 64).foldl (fun n i => n + (if w.k.testBit i then b2n (w.v.testBit i) else b2n (cur.testBit i)) * 2 ^ i) 0

/-- A 1 is written to bit i. -/
def RegW.one (w : RegW) (i : Nat) : Bool := w.k.testBit i && w.v.testBit i

/-- The access covers the register's low half, its high half. -/
def RegW.low (w : RegW) : Bool := w.k.testBit 0
def RegW.high (w : RegW) : Bool := w.k.testBit 32

/-- Bits written. -/
def RegW.get (w : RegW) (lo n : Nat) : Nat := bits (w.v &&& w.k) lo n

/-- The state a command leaves: every command of the block answers one. -/
def State.after (s : State) (o : Host.Outcome State Fault Refusal) : State :=
  match o with
  | .next t => t
  | _ => s

/-- A command that a register write gives, when its condition holds. -/
def State.does (s : State) (c : Bool) (f : State → Host.Outcome State Fault Refusal) : State := if c then s.after (f s) else s

/-- The same for a command on a unit by number, when the number is in range. -/
def State.doesAt {n : Nat} (s : State) (c : Bool) (i : Nat) (f : Fin n → State → Host.Outcome State Fault Refusal) : State :=
  if h : i < n then s.does c (f ⟨i, h⟩) else s

/-! ## Dies, ports, tiles -/

def State.dieWrite (s : State) (site off : Nat) (w : RegW) : State :=
  if off = 0x10 && site = 4 then s.does w.low (execTrellisTimeoutWrite (BitVec.ofNat 32 (w.get 0 32)))
  else if off = 0x20 then s.doesAt w.low site (fun i => execDieErrclr i (BitVec.ofNat 32 (w.get 0 32)))
  else s

def State.trellisWrite (s : State) (site off : Nat) (w : RegW) : State :=
  let p := (off - 0x100) / 0x20
  if off < 0x100 || off % 0x20 ≠ 0x10 || portsOf site ≤ p then s
  else if hs : site < 7 then
    (s.doesAt (w.one 0) p (fun p => execPortCntClr ⟨site, hs⟩ p)).doesAt (w.one 1) p (fun p => execPortRetrain ⟨site, hs⟩ p)
  else s

def State.tileWrite (s : State) (t off : Nat) (w : RegW) : State :=
  let v := BitVec.ofNat 32 (w.get 0 32)
  match off with
  | 0x08 => s.doesAt w.low t (fun t => execTileCfgWrite t v)
  | 0x18 => (s.doesAt (w.one 1) t execCmdcntClr).doesAt (w.one 0) t execConfClr
  | 0x200 => s.doesAt w.low t (fun t => execTilePwrReq t (BitVec.ofNat 3 (w.get 16 3)))
  | 0x208 => s.doesAt w.low t (fun t => execTileDivWrite t v)
  | 0x210 => s.doesAt w.low t (fun t => execTileVsetWrite t v)
  | 0x218 =>
    if !w.low then s
    else (s.updTpwr t (fun p => { p with sel := w.get 8 4, insitu := w.one 1 })).doesAt (w.one 0) t execPdmSweep
  | _ => s

/-! ## Memory controllers and BAUs -/

def State.hbmcWrite (s : State) (stack off : Nat) (w : RegW) : State :=
  match off with
  | 0x08 => (s.doesAt w.low stack (fun k => execHbmcBauDisableWrite k (BitVec.ofNat 16 (w.get 0 16)))).doesAt w.low stack
      (fun k => execBauUnfence k (BitVec.ofNat 16 (w.get 16 16)))
  | 0x10 => s.doesAt (w.one 0) stack execHbmcStatClr
  | _ => s

def State.bauWrite (s : State) (c off : Nat) (w : RegW) : State :=
  match off with
  | 0x20 => if w.low then s.updChan c (fun k => { k with ownFirst := w.get 0 16, ownCountM1 := w.get 16 16 }) else s
  | 0x28 => if w.low then s.updChan c (fun k => { k with ownValue := w.get 0 18 }) else s
  | 0x30 => s.doesAt (w.one 0) c execOwnCmdGo
  | 0x38 => s.updChan c (fun k => { k with ownReject := k.ownReject && !w.one 2, ownDone := k.ownDone && !w.one 1 })
  | 0x40 => s.doesAt (w.one 0) c execBauCntClr
  | _ => s

/-! ## DMA, compressor, Sieve, ATU -/

/-- A LOG2 field takes 4 to 12; another value leaves it (R231, R334). -/
def log2Field (x old : Nat) : Nat := if 4 ≤ x && x ≤ 12 then x else old

def State.dmaWrite (s : State) (e off : Nat) (w : RegW) : State :=
  let c := (off - 0x400) / 0x40
  let x := w.mix (s.dmaReg e off)
  if he : e < 5 then
    let e' : Fin 5 := ⟨e, he⟩
    if off = 0x08 then s.updEng e (fun g => { g with irqPend := g.irqPend &&& ~~~(BitVec.ofNat 64 (w.v &&& w.k)) })
    else if off < 0x400 || !(dchExists e c) then s
    else match off % 0x40 with
      | 0x00 =>
        if !(isRing e c) then s
        else s.updDch e c (fun k => { k with
          ringBase := bits x 12 36 * 4096, ringLog2 := log2Field (bits x 8 4) k.ringLog2, prio := bits x 4 2, enable := bit x 0 })
      | 0x08 =>
        if !(isRing e c) then s
        else s.updDch e c (fun k => { k with cplBase := bits x 12 36 * 4096, cplLog2 := log2Field (bits x 8 4) k.cplLog2 })
      | 0x10 => (s.doesAt w.low c (fun c => execDmaCplHeadWrite e' c (BitVec.ofNat 16 (w.get 16 16)))).doesAt w.high c
          (fun c => execDmaSqTailWrite e' c (BitVec.ofNat 16 (w.get 32 16)))
      | 0x18 => s.updDch e c (fun k => { k with checkErr := k.checkErr && !w.one 8 })
      | 0x20 => ((s.doesAt (w.one 2) c (execDmaCntClr e')).doesAt (w.one 1) c (execDmaResume e')).doesAt (w.one 0) c (execDmaStop e')
      | _ => s
  else s

/-- INV_CMD (R161). -/
def State.invWrite (s : State) (w : RegW) : State :=
  let a := BitVec.ofNat 16 (w.get 0 16)
  match w.get 32 2 with
  | 0 => s.after (execInvOneAsid a s)
  | 1 => s.after (execInvRange a (BitVec.ofNat 16 (w.get 16 16)) s)
  | 2 => s.after (execInvAll s)
  | _ => if s.live && s.atu.invBusy.isSome then { s with atu := { s.atu with invReject := true } } else s

/-- ATU block: the enable, the ASID table and invalidations are HD's (R159 to R161). A base outside the T2 system region
is ignored. -/
def State.atuWrite (s : State) (sl off : Nat) (w : RegW) : State :=
  let x := w.mix (s.atuReg sl off)
  let base := bits x 20 28 * 2 ^ 20
  match off with
  | 0x00 => s.does (w.low && sl = 4) (execAtuCtrlWrite (BitVec.ofNat 32 (w.get 0 32)))
  | 0x08 => if sl = 4 && regionOf base = .t2sys then { s with atu := { s.atu with asidTbl := base } } else s
  | 0x10 => if w.low && sl = 4 then s.invWrite w else s
  | 0x18 => if sl = 4 then { s with atu := { s.atu with invVa := bits x 16 40 * 65536 } } else s
  | 0x20 =>
    if sl = 4 then { s with atu := { s.atu with invDone := s.atu.invDone && !w.one 1, invReject := s.atu.invReject && !w.one 2 } } else s
  | 0x30 => s.doesAt (w.one 0) sl execAtuCtrlClr
  | 0x40 => s.updSlice sl (fun a => { a with faultValid := a.faultValid && !w.one 63 })
  | _ => s

/-! ## Links and link dies -/

def State.linkWrite (s : State) (lk off : Nat) (w : RegW) : State :=
  match off with
  | 0x20 =>
    if !w.low then s
    else (s.updLink lk (fun l => { l with expectId := w.get 8 12 })).doesAt true lk (fun k => execLinkEnable k (w.one 0))
  | 0x28 => ((s.doesAt (w.one 0) lk execLinkCntClr).doesAt (w.one 1) lk execLinkCtrlRetrain).doesAt (w.one 2) lk execLinkCtrlHello
  | _ => s

/-- TBL_CMD of the MSF and of the EGR (R302, R357). -/
def State.msfTbl (s : State) (d : Fin 2) (w : RegW) : State :=
  let t : Fin 4 := ⟨w.get 32 2, Nat.mod_lt _ (by decide)⟩
  let i := BitVec.ofNat 14 (w.get 0 14)
  s.after (if w.one 16 then execMsfTblWrite d t i s else execMsfTblRead d t i s)

def State.egrTbl (s : State) (d : Fin 2) (w : RegW) : State :=
  let t : Fin 4 := ⟨w.get 32 2, Nat.mod_lt _ (by decide)⟩
  let i := BitVec.ofNat 16 (w.get 0 16)
  s.after (if w.one 31 then execEgrTblWrite d t i s else execEgrTblRead d t i s)

def State.msfWrite (s : State) (d : Fin 2) (off : Nat) (w : RegW) : State :=
  match off with
  | 0x00 => s.does w.low (execMsfCfgWrite d (BitVec.ofNat 32 (w.get 0 32)))
  | 0x20 =>
    let s := s.updLnd d.val (fun x => { x with faultValid := x.faultValid && !w.one 63 })
    if w.one 63 then { s with fab := { s.fab with msfIrq := 0#8 } } else s
  | 0x30 => s.does (w.one 0) (execMsfCntClr d)
  | 0x38 => s.does w.low (execMsfAbandon d (BitVec.ofNat 12 (w.get 0 12)))
  | 0x40 => if w.low then s.msfTbl d w else s
  | 0x68 => s.updLnd d.val (fun x => { x with tblDone := x.tblDone && !w.one 1, tblReject := x.tblReject && !w.one 2 })
  | _ =>
    if 0x48 ≤ off && off ≤ 0x60 then
      s.updLnd d.val (fun x => { x with tblData := setBits x.tblData (8 * (off - 0x48)) 64 (w.mix (dataPart x.tblData off)) })
    else s

/-- CONN_CMD (R334). -/
def State.connWrite (s : State) (d : Fin 2) (w : RegW) : State :=
  let c := BitVec.ofNat 20 (w.get 0 20)
  match w.get 24 2 with
  | 1 => s.after (execConnActivate d c s)
  | 2 => s.after (execConnReset d c s)
  | 3 => s.after (execConnForceError d c s)
  | _ => s

/-- A send queue's registers; SQ_CFG is taken only while the queue is off (R334). -/
def State.sqWrite (s : State) (d : Fin 2) (q : Fin 256) (off : Nat) (w : RegW) : State :=
  let i := sqIdx d q
  let x := w.mix (s.raeReg d.val off)
  match off % 0x20 with
  | 0x00 =>
    if (s.sq i).enable then s
    else s.updSq i (fun k => { k with base := bits x 12 36 * 4096, log2 := log2Field (bits x 8 4) k.log2, cq := bits x 0 8 })
  | 0x08 => s.does w.low (execSqTailWrite d q (BitVec.ofNat 16 (w.get 0 16)))
  | 0x10 => if w.low then (s.updSq i (fun k => { k with enable := w.one 0 })).sqSweep (i / 256) else s
  | _ => s

/-- A completion queue's registers; CQ_CFG is taken only while no send queue bound to it is on (R334). -/
def State.cqWrite (s : State) (d : Fin 2) (q : Fin 256) (off : Nat) (w : RegW) : State :=
  let i := sqIdx d q
  let x := w.mix (s.raeReg d.val off)
  match off % 0x20 with
  | 0x00 =>
    if s.fab.sqs.any (fun e => e.1 / 256 = d.val && e.2.cq = q.val && e.2.enable) then s
    else s.updCq i (fun k => { k with base := bits x 12 36 * 4096, log2 := log2Field (bits x 8 4) k.log2, irq := bit x 0 })
  | 0x08 => s.does w.low (execCqHeadWrite d q (BitVec.ofNat 16 (w.get 16 16)))
  | _ => s

def State.raeWrite (s : State) (d : Fin 2) (off : Nat) (w : RegW) : State :=
  let q : Fin 256 := ⟨(off - 0x1000) / 0x20 % 256, Nat.mod_lt _ (by decide)⟩
  if 0x1000 ≤ off && off < 0x3000 then s.sqWrite d q off w
  else if 0x3000 ≤ off && off < 0x5000 then s.cqWrite d q off w
  else match off with
    | 0x20 => if w.low then s.connWrite d w else s
    | 0x28 => s.updLnd d.val (fun x => { x with connDone := x.connDone && !w.one 1, connReject := x.connReject && !w.one 2 })
    | 0x30 => s.does w.low (execRaeRevoke d (BitVec.ofNat 14 (w.get 0 14)))
    | 0x38 => s.updLnd d.val (fun x => { x with revDone := x.revDone && !w.one 1, revReject := x.revReject && !w.one 2 })
    | 0x48 => s.does (w.one 0) (execRaeCntClr d)
    | _ => s

/-- Quanta from a word, 129 at least each; a smaller one leaves its queue's (R357). -/
def quanta (x : Nat) (old : List Nat) : Nat → List Nat
  | 0 => []
  | n + 1 => quanta x old n ++ [if 129 ≤ bits x (16 * n) 16 then bits x (16 * n) 16 else nth old n 0]

/-- The registers of a link's egress scheduler (R357). -/
def State.egrLinkWrite (s : State) (lk : Fin 36) (off : Nat) (x : Nat) (w : RegW) : State :=
  let gates := fun (f : Gates → Gates) => s.updLink lk.val (fun l => { l with gates := f l.gates })
  match off with
  | 0x00 => s.updLink lk.val (fun l => { l with quantum := quanta x l.quantum 4 ++ l.quantum.drop 4 })
  | 0x08 => s.updLink lk.val (fun l => { l with quantum := l.quantum.take 4 ++ quanta x (l.quantum.drop 4) 2 })
  | 0x10 => s.updLink lk.val (fun l => { l with mark := (List.range 7).map (fun i => bits x (8 * i) 8) })
  | 0x18 =>
    if !w.low then s
    else ((gates (fun g => if g.pending then g else { g with adminLen := w.get 16 7, sync := w.one 2 })).does (w.one 1)
      (execGateDisarm lk)).does (w.one 0) (execGateArm lk)
  | 0x20 => gates (fun g => if g.pending then g else { g with adminBase := x })
  | 0x28 => gates (fun g => { g with armReject := g.armReject && !w.one 3 })
  | _ => s

def State.egrWrite (s : State) (d : Fin 2) (off : Nat) (w : RegW) : State :=
  let lk : Fin 36 := ⟨(18 * d.val + (off - 0x1000) / 0x40) % 36, Nat.mod_lt _ (by decide)⟩
  if 0x1000 ≤ off && off < 0x1480 then s.egrLinkWrite lk (off % 0x40) (w.mix (s.egrReg d.val off)) w
  else match off with
    | 0x30 => s.does (w.one 0) (execEgrCntClr d)
    | 0x40 => if w.low then s.egrTbl d w else s
    | 0x68 => s.updLnd d.val (fun x => { x with egrDone := x.egrDone && !w.one 1, egrReject := x.egrReject && !w.one 2 })
    | _ =>
      if 0x48 ≤ off && off ≤ 0x60 then
        s.updLnd d.val (fun x => { x with egrData := setBits x.egrData (8 * (off - 0x48)) 64 (w.mix (dataPart x.egrData off)) })
      else s

/-! ## The hub die -/

def State.reqWrite (s : State) (off : Nat) (w : RegW) : State :=
  let q := s.reqRegs
  match off with
  | 0x28 => s.doesAt w.low (w.get 0 10) execKillCmd
  | 0x30 => { s with reqRegs := { q with killDone := q.killDone && !w.one 1, killReject := q.killReject && !w.one 2 } }
  | 0x38 => s.doesAt w.low (w.get 16 10) execTagDrainWrite
  | 0x40 => s.does (w.one 0) execReqCntClr
  | _ => s

def State.ringWrite (s : State) (off : Nat) (w : RegW) : State :=
  let q := s.ringRegs
  let r := BitVec.ofNat 18 (w.get 0 18)
  match off with
  | 0x08 => { s with ringRegs := { q with haltValid := q.haltValid && !w.one 63 } }
  | 0x20 =>
    ((s.does (w.low && w.get 24 2 = 1) (execRingLoad r)).does (w.low && w.get 24 2 = 2) (execRingCmdResume r)).does
      (w.low && w.get 24 2 = 3) (execRingDisable r)
  | 0x28 => { s with ringRegs := { q with cmdDone := q.cmdDone && !w.one 1, cmdReject := q.cmdReject && !w.one 2 } }
  | 0x30 => s.does (w.one 0) execRingCntClr
  | _ => s

/-- FCL_FENCE_CMD and FCL_INJECT (R460, R474). -/
def State.fenceWrite (s : State) (w : RegW) : State :=
  let k := BitVec.ofNat 3 (w.get 32 3)
  let i := BitVec.ofNat 8 (w.get 0 8)
  (s.does (w.get 16 2 = 1) (execFclFence k i)).does (w.get 16 2 = 2) (execFclUnfence k i)

def State.injectWrite (s : State) (w : RegW) : State :=
  let x : Fin 1024 := ⟨w.get 32 10, Nat.mod_lt _ (by decide)⟩
  let n := BitVec.ofNat 16 (w.get 0 16)
  ((s.does (w.get 16 2 = 1) (execFclInjectNow x n)).does (w.get 16 2 = 2) (execFclInjectSync x n)).does (w.get 16 2 = 3)
    (execFclInjectWire x)

def State.fclWrite (s : State) (off : Nat) (w : RegW) : State :=
  let f := s.fcl
  if 0x100 ≤ off && off < 0x180 then s.doesAt true ((off - 0x100) / 8) (fun k => execFclStickyClear k (BitVec.ofNat 64 (w.v &&& w.k)))
  else match off with
    | 0x00 => { s with fcl := { f with injectReject := f.injectReject && !w.one 61 } }
    | 0x08 => { s with fcl := { f with pend := f.pend - (f.pend &&& w.v &&& w.k) } }
    | 0x10 => s.does w.low (execFclKick (BitVec.ofNat 8 (w.get 0 8)))
    | 0x20 => if w.low then s.fenceWrite w else s
    | 0x28 => { s with fcl := { f with fenceDone := f.fenceDone && !w.one 1, fenceReject := f.fenceReject && !w.one 2 } }
    | 0x38 => if w.low then s.injectWrite w else s
    | 0x40 => s.does (w.one 0) execFclCntClr
    | _ => s

/-- LTU block: an ACTION that names SYNC_OUT is ignored while another comparator's does (R533). -/
def State.ltuWrite (s : State) (off : Nat) (w : RegW) : State :=
  let k := (off - 0x100) / 0x20
  let x := w.mix (s.ltuReg off)
  if off = 0x08 then s.does w.low (execLtuBootWrite (BitVec.ofNat 16 (w.get 0 16)))
  else if off < 0x100 || 64 ≤ k then s
  else match off % 0x20 with
    | 0x00 => s.updCmp k (fun c => { c with mtch := x })
    | 0x08 => s.updCmp k (fun c => { c with period := bits x 0 32 })
    | 0x10 =>
      let taken := bit x 2 && s.syncOutTaken k
      s.updCmp k (fun c => { c with enable := bit x 0, action := if taken then c.action else bits x 1 2 })
    | _ => s.updCmp k (fun c => { c with fired := c.fired && !w.one 0 })

/-- The registers of HD's other blocks. -/
def State.hdWrite (s : State) (blk off : Nat) (w : RegW) : State :=
  let v := BitVec.ofNat 32 (w.get 0 32)
  match blk with
  | 0x01 => s.trellisWrite 4 off w
  | 0x02 => s.does (off = 0 && w.low) (execStageSplitWrite v)
  | 0x03 => s.does (off = 0x220 && w.one 0) execCxlCntClr
  | 0x04 =>
    let s := if off = 0x08 && w.low then { s with fab := { s.fab with landSlots := w.get 0 8, landCredits := w.get 8 8 } } else s
    s.does (off = 0x20 && w.one 0) execGraftCntClr
  | 0x05 => s.reqWrite off w
  | 0x06 => s.ringWrite off w
  | 0x08 => s.fclWrite off w
  | 0x09 => s.ltuWrite off w
  | 0x0A => s.does (off = 0x20 && w.one 0) execFtlCntClr
  | 0x0B => s.does (off = 0x10 && w.low) (execSecWipeWrite (BitVec.ofNat 8 (w.get 0 8)))
  | 0x0C =>
    let s := { s with boot := { s.boot with collideA := s.boot.collideA && !(off = 0 && w.one 1) } }
    s.does (off = 0x18 && w.one 0) execSbwCntClr
  | 0x0D => s.does (off = 0x08 && w.low) (execBootProgressWrite v)
  | 0x0E => (s.does (off = 0x10 && w.low) (execPwrCapWrite v)).does (off = 0x18 && w.one 8) execClampClr
  | 0x30 => s.dmaWrite 4 off w
  | 0x33 => s.atuWrite 4 off w
  | _ => s

/-! ## One write -/

def State.cdWrite (s : State) (d blk off : Nat) (w : RegW) : State :=
  if blk = 1 then s.trellisWrite d off w
  else if blk < 0x20 then s.tileWrite (tileOfLocal d (blk - 0x10)) off w
  else if blk < 0x22 then s.hbmcWrite (2 * d + (blk - 0x20)) off w
  else if blk < 0x26 then s.doesAt (off = 0x18 && w.one 0) (4 * d + (blk - 0x22)) execLpcCntClr
  else match blk with
    | 0x30 => s.dmaWrite d off w
    | 0x31 => s.doesAt (off = 0x18 && w.one 0) d execSieveCntClr
    | 0x32 => s.doesAt (off = 0x20 && w.one 0) d execCompCntClr
    | _ => s.atuWrite d off w

def State.ldWrite (s : State) (d : Fin 2) (blk off : Nat) (w : RegW) : State :=
  match blk with
  | 0x01 => s.trellisWrite (5 + d.val) off w
  | 0x02 => s.raeWrite d off w
  | 0x03 => s.msfWrite d off w
  | 0x04 => s.egrWrite d off w
  | _ => s.linkWrite (18 * d.val + (blk - 0x10)) off w

/-- The write of a register of an implemented block; read-only fields, reserved bits and unimplemented offsets ignore it
(R13, R14, R75). -/
def State.regWrite (s : State) (a : Nat) (w : RegW) : State :=
  let site := regSite a
  let blk := regBlock a
  let off := regOff a / 8 * 8
  if blk = 0 then s.dieWrite site off w
  else if site < 4 then s.cdWrite site blk off w
  else if site = 4 then s.hdWrite blk off w
  else if site = 5 then s.ldWrite 0 blk off w
  else if site = 6 then s.ldWrite 1 blk off w
  else s.bauWrite (16 * (site - 8) + (blk - 0x10)) off w

/-- The access of `size` bytes at `a` as lanes of an 8-byte register. -/
def regLanes (a size v : Nat) : RegW :=
  { v := v % 2 ^ (8 * size) * 2 ^ (8 * (a % 8)), k := (2 ^ (8 * size) - 1) * 2 ^ (8 * (a % 8)) }

/-- The status of a register write by a master (R71, R72, R75, R76). -/
def regStatus (m : Master) (a size : Nat) : Nat :=
  if m ≠ .control || (size ≠ 4 && size ≠ 8) || a % size ≠ 0 then Stat.accessDenied
  else if !(regMapped a) then Stat.addrUnmapped
  else if 16 ≤ regSite a then Stat.accessDenied
  else Stat.ok

/-- An access that is refused is dropped and faults its issuer; the die where it was decoded counts and raises
ADDR_VIOLATION (R72). -/
def State.refuseAccess (s : State) (m : Master) (status : Nat) : State :=
  match m with
  | .tile t => (s.violate (dieOfTile t)).failCmd t status
  | m => s.violate (if Master.site m < 5 then Master.site m else 4)

/-! ## What a host reaches by CXL.io (R71, R404, R405) -/

/-- A pending vector whose mask is lifted sends its message (R402, R405). -/
def State.unmask (s : State) (ld vec : Nat) : State :=
  if (s.ld ld).pba.contains vec && !((Tbl.getD (s.ld ld).msix vec (2 ^ 96)).testBit 96) then
    (s.updLd ld (fun d => { d with pba := d.pba.filter (· ≠ vec) })).msix ld vec
  else s

/-- A write in the LD page or the MSI-X table of an LD. -/
def State.pageWrite (s : State) (l : Fin 16) (off : Nat) (w : RegW) : State :=
  let m := (off - 0x100) / 0x10
  if 0x8000 ≤ off then
    let vec := (off - 0x8000) / 16
    let lo := 64 * (off / 8 % 2)
    (s.updLd l.val (fun d =>
      let e := Tbl.getD d.msix vec (2 ^ 96)
      { d with msix := Tbl.put d.msix vec (setBits e lo 64 (w.mix (bits e lo 64))) })).unmask l.val vec
  else if off = 0 then s.does (w.low && w.high) (execDoorbell l (BitVec.ofNat 64 w.v))
  else if off = 0x200 then
    if w.low then s.updLd l.val (fun d => { d with mbVecEn := w.one 15, mbVec := w.get 0 11 }) else s
  else if off = 0x300 then s.does (w.low && l.val = 0) (execRecGo (BitVec.ofNat 32 (w.get 0 32)))
  else if hm : 0x100 ≤ off ∧ m < 9 then
    let mb : MbId := .ld l ⟨m, hm.2⟩
    if off % 0x10 = 0 then s.does (w.one 0) (execMbGo mb)
    else s.updMb mb (fun x => { x with done := x.done && !w.one 1, reject := x.reject && !w.one 2 })
  else s

/-- A write of a host to its LD's BARs: the LD page, its own mailbox buffers; the rest ignores writes. BAR 0 to 2 stand at
multiples of 64 KiB (notes/assumptions/40.md). -/
def State.hostIoWrite (s : State) (l : Fin 16) (a size v : Nat) : State :=
  if a < 0x10000 then
    if (size = 4 || size = 8) && a % size = 0 then s.pageWrite l (a / 8 * 8) (regLanes a size v) else s.refuseAccess (.hostIo l.val) Stat.accessDenied
  else if a < 0x19000 && a % 0x1000 + size ≤ 0x1000 && size ≤ 8 then
    s.wr (0x28000400000 + 0x10000 * l.val + (a - 0x10000)) size v
  else s

/-- REGISTER_ACCESS (R13, R14, R71 to R76): a write of a register, performed or refused. -/
def execRegisterAccess (m : Master) (addr size : Nat) (v : BitVec 64) (s : State) : Host.Outcome State Fault Refusal :=
  match m with
  | .hostIo l =>
    if !s.boot.good || !s.boot.released then .next s
    else if h : l < 16 then .next (s.hostIoWrite ⟨l, h⟩ addr size v.toNat) else .next s
  | m =>
    if !s.live || regionOf addr ≠ .regs then .next s
    else
      let st := regStatus m addr size
      if st ≠ Stat.ok then .next (s.refuseAccess m st) else .next (s.regWrite addr (regLanes addr size v.toNat))

end Sys2Proof.Machine
end

