-- ==== Sys2Proof/Machine/Debug.lean ====
section
/-!
DEFINITION. Sys2Proof/Machine/Debug.lean: DBG_DMI and the debug module it reaches (R555).

Register numbers, fields and error codes are those of The RISC-V Debug Specification, version 1.0, which R555 names; the
module has two data registers, no program buffer, and 8- to 64-bit system-bus accesses (PRESUMED, notes/assumptions/21.md).
-/
namespace Sys2Proof.Machine

def State.updDbg (s : State) (f : Dbg → Dbg) : State := { s with jtag := { s.jtag with dbg := f s.jtag.dbg } }

/-- The thread of a hart index, if its tile runs one (R555). -/
def State.hartThread (s : State) (h : Nat) : Option Thread :=
  if h < 8 || 1544 ≤ h then none
  else match s.cmd? ((h - 8) / 32) with
    | none => none
    | some c => c.thread? ((h - 8) % 32)

/-- The hart can run: a control core that runs, or a thread of a command. -/
def State.hartThere (s : State) (h : Nat) : Bool := if h < 8 then s.pwr.harts.testBit h else (s.hartThread h).isSome

/-! ## Registers as read -/

def Dbg.control (d : Dbg) : Nat := pk [(0, b2n d.active), (6, bits d.sel 10 10), (16, bits d.sel 0 10)]

/-- dmstatus of the selected hart: version 3, authenticated. -/
def State.dmStatus (s : State) : Nat :=
  let d := s.jtag.dbg
  let gone := decide (1544 ≤ d.sel)
  let halted := d.halted.contains d.sel
  let both := fun (i : Nat) (b : Bool) => (i, 3 * b2n b)
  pk [(0, 3), (7, 1), both 8 (!gone && halted), both 10 (!gone && !halted && s.hartThere d.sel),
      both 12 (!gone && !halted && !(s.hartThere d.sel)), both 14 gone, both 16 (!gone && d.resumed.contains d.sel)]

def Dbg.sbcs (d : Dbg) : Nat :=
  pk [(0, 15), (5, 48), (12, d.sbError), (15, b2n d.sbRoD), (16, b2n d.sbAuto), (17, d.sbAccess), (20, b2n d.sbRoA), (29, 1)]

/-- A register of the module as read; all but dmcontrol and dmstatus read 0 while dmactive is 0. -/
def State.dmRead (s : State) (a : Nat) : Nat :=
  let d := s.jtag.dbg
  match a with
  | 0x10 => d.control
  | 0x11 => s.dmStatus
  | _ =>
    if !d.active then 0
    else match a with
      | 0x04 => Tbl.getD d.data 0 0
      | 0x05 => Tbl.getD d.data 1 0
      | 0x16 => pk [(0, 2), (8, d.cmderr)]
      | 0x17 => 0
      | 0x38 => d.sbcs
      | 0x39 => bits d.sbAddr 0 32
      | 0x3A => bits d.sbAddr 32 32
      | 0x3C => bits d.sbData 0 32
      | 0x3D => bits d.sbData 32 32
      | _ => 0

/-! ## Halt, resume and abstract commands -/

/-- dmcontrol: dmactive 0 resets the module; haltreq and resumereq act on the hart selected. -/
def State.dmControl (s : State) (v : Nat) : State :=
  if !(bit v 0) then s.updDbg (fun _ => {})
  else
    let sel := bits v 16 10 + bits v 6 10 * 1024
    s.updDbg (fun d =>
      let d := { d with active := true, sel := sel }
      if 1544 ≤ sel then d
      else if bit v 31 then { d with halted := if d.halted.contains sel then d.halted else sel :: d.halted }
      else if bit v 30 then
        { d with halted := d.halted.filter (· ≠ sel), resumed := if d.resumed.contains sel then d.resumed else sel :: d.resumed }
      else d)

/-- A hart's register: x0 to x31 at 0x1000, f0 to f31 at 0x1020, dpc. -/
def State.hartReg (s : State) (h regno : Nat) : Option Nat :=
  let ch := Tbl.getD s.jtag.dbg.harts h {}
  match s.hartThread h with
  | some th =>
    if 0x1000 ≤ regno && regno < 0x1020 then some (if regno = 0x1000 then 0 else Tbl.getD th.x (regno - 0x1000) 0)
    else if 0x1020 ≤ regno && regno < 0x1040 then some (Tbl.getD th.f (regno - 0x1020) 0)
    else if regno = 0x7B1 then some th.pc else none
  | none =>
    if 8 ≤ h then none
    else if 0x1000 ≤ regno && regno < 0x1020 then some (if regno = 0x1000 then 0 else Tbl.getD ch.x (regno - 0x1000) 0)
    else if regno = 0x7B1 then some ch.pc else none

/-- A write of a hart's register; x0 discards it. -/
def State.setHartReg (s : State) (h regno v : Nat) : State :=
  if regno = 0x1000 then s
  else if h < 8 then
    s.updDbg (fun d => { d with harts := Tbl.upd d.harts h {} (fun c =>
      if regno = 0x7B1 then { c with pc := v } else { c with x := Tbl.put c.x (regno - 0x1000) v }) })
  else s.updTile ((h - 8) / 32) (fun t => { t with cur := t.cur.map (fun c => { c with threads := Tbl.upd c.threads ((h - 8) % 32) {} (fun th =>
    if regno = 0x7B1 then { th with pc := v % 2 ^ 26 }
    else if 0x1020 ≤ regno then { th with f := Tbl.put th.f (regno - 0x1020) (v % 2 ^ 32) }
    else { th with x := Tbl.put th.x (regno - 0x1000) v }) }) })

def State.cmdErr (s : State) (e : Nat) : State := s.updDbg (fun d => { d with cmderr := e })

/-- An abstract command: Access Register on the halted hart selected. cmderr: 2 not supported, 4 not halted. -/
def State.abstract (s : State) (v : Nat) : State :=
  let d := s.jtag.dbg
  let n := 8 * 2 ^ bits v 20 3
  let s := s.updDbg (fun d => { d with command := v })
  if d.cmderr ≠ 0 then s
  else if bits v 24 8 ≠ 0 || bit v 18 || bit v 19 || (n ≠ 32 && n ≠ 64) then s.cmdErr 2
  else if !(d.halted.contains d.sel) then s.cmdErr 4
  else if !(bit v 17) then s
  else match s.hartReg d.sel (bits v 0 16) with
    | none => s.cmdErr 2
    | some old =>
      let arg := Tbl.getD d.data 0 0 + (if n = 64 then Tbl.getD d.data 1 0 * 2 ^ 32 else 0)
      if bit v 16 then s.setHartReg d.sel (bits v 0 16) (setBits old 0 n arg)
      else s.updDbg (fun d =>
        { d with data := Tbl.put (if n = 64 then Tbl.put d.data 1 (bits old 32 32) else d.data) 0 (bits old 0 32) })

/-! ## The system bus (R555) -/

/-- What stops an access: 2 bad address, 3 alignment, 4 size, 0 nothing. Secure SRAM answers (R555); the remote aperture
does not (log 21). -/
def State.sbCheck (s : State) (acc : Acc) (a n : Nat) : Nat :=
  if 8 < n then 4 else if a % n ≠ 0 then 3
  else if regionOf a = .regs then (if regMapped a && (n = 4 || n = 8) then 0 else 2)
  else if regionOf a = .remote || s.accStatus .control acc a n ≠ Stat.ok then 2 else 0

def Dbg.step (d : Dbg) (n : Nat) : Dbg := { d with sbAddr := if d.sbAuto then wrap64 (d.sbAddr + n) else d.sbAddr }

/-- A read into sbdata: secure SRAM reads 0. -/
def State.sbRead (s : State) : State :=
  let d := s.jtag.dbg
  let n := 2 ^ d.sbAccess
  let e := s.sbCheck .read d.sbAddr n
  if d.sbError ≠ 0 then s
  else if e ≠ 0 then s.updDbg (fun d => { d with sbError := e })
  else
    let v := match regionOf d.sbAddr with
      | .ssram => 0
      | .regs => bits ((s.readReg d.sbAddr).getD 0) (8 * (d.sbAddr % 8)) (8 * n)
      | _ => s.rd d.sbAddr n
    s.updDbg (fun d => { d.step n with sbData := v })

/-- A write of sbdata: one to secure SRAM is dropped. -/
def State.sbPutWord (s : State) : State :=
  let d := s.jtag.dbg
  let n := 2 ^ d.sbAccess
  let e := s.sbCheck .write d.sbAddr n
  if d.sbError ≠ 0 then s
  else if e ≠ 0 then s.updDbg (fun d => { d with sbError := e })
  else
    let s := match regionOf d.sbAddr with
      | .ssram => s
      | .regs => if 16 ≤ regSite d.sbAddr then s else s.regWrite d.sbAddr (regLanes d.sbAddr n d.sbData)
      | _ => s.wr d.sbAddr n d.sbData
    s.updDbg (fun d => d.step n)

/-- A register of the module as written; all but dmcontrol ignore writes while dmactive is 0. -/
def State.dmWrite (s : State) (a v : Nat) : State :=
  let d := s.jtag.dbg
  if a = 0x10 then s.dmControl v
  else if !d.active then s
  else match a with
    | 0x04 => s.updDbg (fun d => { d with data := Tbl.put d.data 0 v })
    | 0x05 => s.updDbg (fun d => { d with data := Tbl.put d.data 1 v })
    | 0x16 => s.updDbg (fun d => { d with cmderr := d.cmderr - (d.cmderr &&& bits v 8 3) })
    | 0x17 => s.abstract v
    | 0x38 => s.updDbg (fun d =>
        { d with sbRoA := bit v 20, sbAccess := bits v 17 3, sbAuto := bit v 16, sbRoD := bit v 15, sbError := d.sbError - (d.sbError &&& bits v 12 3) })
    | 0x39 =>
      let s := s.updDbg (fun d => { d with sbAddr := setBits d.sbAddr 0 32 v })
      if d.sbRoA then s.sbRead else s
    | 0x3A => s.updDbg (fun d => { d with sbAddr := setBits d.sbAddr 32 32 v })
    | 0x3C => (s.updDbg (fun d => { d with sbData := setBits d.sbData 0 32 v })).sbPutWord
    | 0x3D => s.updDbg (fun d => { d with sbData := setBits d.sbData 32 32 v })
    | _ => s

/-- The DMI register as captured: address, data, and status 0, success. -/
def State.dmiResult (s : State) (a data : Nat) : State :=
  { s with jtag := { s.jtag with ir := .dmi, drive := .system, capture := a * 2 ^ 34 + data % 2 ^ 32 * 4 } }

/-- An operation on the module. Reading sbdata0 reads on when sbreadondata is set. -/
def State.dmi (s : State) (op : DmiOp) : State :=
  match op with
  | .nop => { s with jtag := { s.jtag with ir := .dmi, drive := .system } }
  | .read a =>
    let v := s.dmRead a.toNat
    let s := s.dmiResult a.toNat v
    if a.toNat = 0x3C && s.jtag.dbg.active && s.jtag.dbg.sbRoD then s.sbRead else s
  | .write a v => (s.dmiResult a.toNat v.toNat).dmWrite a.toNat v.toNat

/-- The next system-bus access meets a channel outside MEMORY and is held (R165). -/
def State.sbHeld (s : State) : Bool :=
  regionOf s.jtag.dbg.sbAddr = .t1 && (s.heldChan s.jtag.dbg.sbAddr 1).isSome

/-- DBG_DMI (R554, R555): in a locked state it selects BYPASS, and the module is in reset; so it is while RESET_N is low. -/
def execDbgDmi (op : DmiOp) (s : State) : Host.Outcome State Fault Refusal :=
  if !s.boot.good then .next s
  else if !s.debugOpen then .next (s.toBypass.updDbg (fun _ => {}))
  else if !s.boot.released then .next { s with jtag := { s.jtag with ir := .dmi, drive := .system, capture := 0, dbg := {} } }
  else if s.sbHeld then .next s
  else .next (s.dmi op)

end Sys2Proof.Machine
end

