-- ==== Sys2Proof/Machine/Dispatch.lean ====
section
/-!
DEFINITION. Sys2Proof/Machine/Dispatch.lean: one arm per command, each one direct call of that command's meaning.
-/
namespace Sys2Proof.Machine

/-- The effect of a command on everything but the queue (spec/95 says what each step holds). -/
def exec (i : Instr) (s : State) : Host.Outcome State Fault Refusal :=
  match i with
  | .admitOp ring e => Sys2Proof.Machine.execAdmitOp ring e s
  | .park ring e => Sys2Proof.Machine.execPark ring e s
  | .resume ring e => Sys2Proof.Machine.execResume ring e s
  | .cancel ring e => Sys2Proof.Machine.execCancel ring e s
  | .redirect ring e => Sys2Proof.Machine.execRedirect ring e s
  | .graftDestFailed req status => Sys2Proof.Machine.execGraftDestFailed req status s
  | .parkExpiry req => Sys2Proof.Machine.execParkExpiry req s
  | .recordHandover req dest => Sys2Proof.Machine.execRecordHandover req dest s
  | .reprefill req => Sys2Proof.Machine.execReprefill req s
  | .trellisPacket site inPort p => Sys2Proof.Machine.execTrellisPacket site inPort p s
  | .trellisTimeout txn => Sys2Proof.Machine.execTrellisTimeout txn s
  | .trellisModuleFail site port => Sys2Proof.Machine.execTrellisModuleFail site port s
  | .portRetrain site port => Sys2Proof.Machine.execPortRetrain site port s
  | .portCntClr site port => Sys2Proof.Machine.execPortCntClr site port s
  | .trellisTimeoutWrite v => Sys2Proof.Machine.execTrellisTimeoutWrite v s
  | .dieErrclr site v => Sys2Proof.Machine.execDieErrclr site v s
  | .registerAccess m addr size v => Sys2Proof.Machine.execRegisterAccess m addr size v s
  | .topIssue tile th rd rs1 => Sys2Proof.Machine.execTopIssue tile th rd rs1 s
  | .topWait tile th rs1 => Sys2Proof.Machine.execTopWait tile th rs1 s
  | .topFence tile th => Sys2Proof.Machine.execTopFence tile th s
  | .topFencet tile th => Sys2Proof.Machine.execTopFencet tile th s
  | .topPub tile th rs1 => Sys2Proof.Machine.execTopPub tile th rs1 s
  | .topFadd tile th form rd rs1 rs2 => Sys2Proof.Machine.execTopFadd tile th form rd rs1 rs2 s
  | .topCrc16 tile th rd rs1 rs2 => Sys2Proof.Machine.execTopCrc16 tile th rd rs1 rs2 s
  | .topEnd tile th => Sys2Proof.Machine.execTopEnd tile th s
  | .coreMemoryAccess tile th a => Sys2Proof.Machine.execCoreMemoryAccess tile th a s
  | .mm tile h => Sys2Proof.Machine.execMm tile h s
  | .vew tile h a => Sys2Proof.Machine.execVew tile h a s
  | .vfn tile h a => Sys2Proof.Machine.execVfn tile h a s
  | .vred tile h a => Sys2Proof.Machine.execVred tile h a s
  | .softmaxOnline tile h a => Sys2Proof.Machine.execSoftmaxOnline tile h a s
  | .norm tile h a => Sys2Proof.Machine.execNorm tile h a s
  | .quantMx tile h a => Sys2Proof.Machine.execQuantMx tile h a s
  | .sample tile h a => Sys2Proof.Machine.execSample tile h a s
  | .accept tile h a => Sys2Proof.Machine.execAccept tile h a s
  | .compare tile h a => Sys2Proof.Machine.execCompare tile h a s
  | .attnBias tile h => Sys2Proof.Machine.execAttnBias tile h s
  | .operationComplete tile h => Sys2Proof.Machine.execOperationComplete tile h s
  | .commandStart tile => Sys2Proof.Machine.execCommandStart tile s
  | .commandEnded tile => Sys2Proof.Machine.execCommandEnded tile s
  | .commit group => Sys2Proof.Machine.execCommit group s
  | .commandKill tag => Sys2Proof.Machine.execCommandKill tag s
  | .commandFail tile status => Sys2Proof.Machine.execCommandFail tile status s
  | .cmdOverrun tile => Sys2Proof.Machine.execCmdOverrun tile s
  | .drainWriteComplete tag => Sys2Proof.Machine.execDrainWriteComplete tag s
  | .tileCfgWrite tile v => Sys2Proof.Machine.execTileCfgWrite tile v s
  | .cmdcntClr tile => Sys2Proof.Machine.execCmdcntClr tile s
  | .confClr tile => Sys2Proof.Machine.execConfClr tile s
  | .invOneAsid asid => Sys2Proof.Machine.execInvOneAsid asid s
  | .invRange asid count => Sys2Proof.Machine.execInvRange asid count s
  | .invAll => Sys2Proof.Machine.execInvAll s
  | .invalidationDone => Sys2Proof.Machine.execInvalidationDone s
  | .atuCtrlWrite v => Sys2Proof.Machine.execAtuCtrlWrite v s
  | .atuCtrlClr slice => Sys2Proof.Machine.execAtuCtrlClr slice s
  | .channelEnter ch => Sys2Proof.Machine.execChannelEnter ch s
  | .channelExit ch => Sys2Proof.Machine.execChannelExit ch s
  | .holdAccess ch a => Sys2Proof.Machine.execHoldAccess ch a s
  | .holdWatchdog ch => Sys2Proof.Machine.execHoldWatchdog ch s
  | .bauOverrun ch => Sys2Proof.Machine.execBauOverrun ch s
  | .attend run => Sys2Proof.Machine.execAttend run s
  | .bauCopy run => Sys2Proof.Machine.execBauCopy run s
  | .bauQuantise run => Sys2Proof.Machine.execBauQuantise run s
  | .bauZero run => Sys2Proof.Machine.execBauZero run s
  | .bauProgramStop ch => Sys2Proof.Machine.execBauProgramStop ch s
  | .ownCmdGo ch => Sys2Proof.Machine.execOwnCmdGo ch s
  | .ownWriteDone ch => Sys2Proof.Machine.execOwnWriteDone ch s
  | .bauUnfence stack mask => Sys2Proof.Machine.execBauUnfence stack mask s
  | .hbmcStatClr stack => Sys2Proof.Machine.execHbmcStatClr stack s
  | .bauCntClr ch => Sys2Proof.Machine.execBauCntClr ch s
  | .hbmcBauDisableWrite stack mask => Sys2Proof.Machine.execHbmcBauDisableWrite stack mask s
  | .tierFree asid vpn => Sys2Proof.Machine.execTierFree asid vpn s
  | .tierMove asid vpn tier => Sys2Proof.Machine.execTierMove asid vpn tier s
  | .moveCopyDone asid vpn fin => Sys2Proof.Machine.execMoveCopyDone asid vpn fin s
  | .pin tile slot off src => Sys2Proof.Machine.execPin tile slot off src s
  | .localPark req => Sys2Proof.Machine.execLocalPark req s
  | .pullPlace req page => Sys2Proof.Machine.execPullPlace req page s
  | .dmaTileTransfer tile h => Sys2Proof.Machine.execDmaTileTransfer tile h s
  | .dmaRingCopy eng ch => Sys2Proof.Machine.execDmaRingCopy eng ch s
  | .dmaRingFill eng ch => Sys2Proof.Machine.execDmaRingFill eng ch s
  | .dmaHalfEntry eng ch => Sys2Proof.Machine.execDmaHalfEntry eng ch s
  | .dmaTransferEnd eng ch => Sys2Proof.Machine.execDmaTransferEnd eng ch s
  | .dmaSqTailWrite eng ch v => Sys2Proof.Machine.execDmaSqTailWrite eng ch v s
  | .dmaCplHeadWrite eng ch v => Sys2Proof.Machine.execDmaCplHeadWrite eng ch v s
  | .dmaStop eng ch => Sys2Proof.Machine.execDmaStop eng ch s
  | .dmaResume eng ch => Sys2Proof.Machine.execDmaResume eng ch s
  | .dmaCntClr eng ch => Sys2Proof.Machine.execDmaCntClr eng ch s
  | .lpddrReadRetry pkg o => Sys2Proof.Machine.execLpddrReadRetry pkg o s
  | .odeccPoll pkg n => Sys2Proof.Machine.execOdeccPoll pkg n s
  | .lpcCntClr pkg => Sys2Proof.Machine.execLpcCntClr pkg s
  | .ftlCntClr => Sys2Proof.Machine.execFtlCntClr s
  | .ftlRead handle dst o => Sys2Proof.Machine.execFtlRead handle dst o s
  | .ftlRelocation block why => Sys2Proof.Machine.execFtlRelocation block why s
  | .compress tile h => Sys2Proof.Machine.execCompress tile h s
  | .decompress tile h => Sys2Proof.Machine.execDecompress tile h s
  | .ringCompress eng ch => Sys2Proof.Machine.execRingCompress eng ch s
  | .ringDecompress eng ch => Sys2Proof.Machine.execRingDecompress eng ch s
  | .compCntClr cd => Sys2Proof.Machine.execCompCntClr cd s
  | .sieveUnique tile h => Sys2Proof.Machine.execSieveUnique tile h s
  | .sieveGather tile h => Sys2Proof.Machine.execSieveGather tile h s
  | .scatterAdd tile h => Sys2Proof.Machine.execScatterAdd tile h s
  | .scatterWrite tile h => Sys2Proof.Machine.execScatterWrite tile h s
  | .tableOldFree slot version => Sys2Proof.Machine.execTableOldFree slot version s
  | .sieveCntClr cd => Sys2Proof.Machine.execSieveCntClr cd s
  | .linkEnable lk on => Sys2Proof.Machine.execLinkEnable lk on s
  | .linkBringupRetry lk => Sys2Proof.Machine.execLinkBringupRetry lk s
  | .linkInit lk switch credit => Sys2Proof.Machine.execLinkInit lk switch credit s
  | .linkPacketReceive lk p fec => Sys2Proof.Machine.execLinkPacketReceive lk p fec s
  | .linkAck lk seq credit => Sys2Proof.Machine.execLinkAck lk seq credit s
  | .linkNak lk seq credit => Sys2Proof.Machine.execLinkNak lk seq credit s
  | .replayStart lk => Sys2Proof.Machine.execReplayStart lk s
  | .linkAckTimer lk => Sys2Proof.Machine.execLinkAckTimer lk s
  | .linkRetrain lk => Sys2Proof.Machine.execLinkRetrain lk s
  | .linkRetrainTimeout lk => Sys2Proof.Machine.execLinkRetrainTimeout lk s
  | .linkCtrlHello lk => Sys2Proof.Machine.execLinkCtrlHello lk s
  | .linkCtrlRetrain lk => Sys2Proof.Machine.execLinkCtrlRetrain lk s
  | .linkCntClr lk => Sys2Proof.Machine.execLinkCntClr lk s
  | .helloRequest lk src r => Sys2Proof.Machine.execHelloRequest lk src r s
  | .helloReply lk src r => Sys2Proof.Machine.execHelloReply lk src r s
  | .helloUpdate lk src r => Sys2Proof.Machine.execHelloUpdate lk src r s
  | .helloTimeout t => Sys2Proof.Machine.execHelloTimeout t s
  | .mgmtMessage lk src msg crc => Sys2Proof.Machine.execMgmtMessage lk src msg crc s
  | .ownerClaim src reqId tail => Sys2Proof.Machine.execOwnerClaim src reqId tail s
  | .msfLoad ag addr => Sys2Proof.Machine.execMsfLoad ag addr s
  | .msfStore ag addr v => Sys2Proof.Machine.execMsfStore ag addr v s
  | .msfAdd ag addr v => Sys2Proof.Machine.execMsfAdd ag addr v s
  | .msfSwap ag addr v => Sys2Proof.Machine.execMsfSwap ag addr v s
  | .msfCas ag addr cmp new => Sys2Proof.Machine.execMsfCas ag addr cmp new s
  | .readBurst ag addr len => Sys2Proof.Machine.execReadBurst ag addr len s
  | .writeBurst ag addr len => Sys2Proof.Machine.execWriteBurst ag addr len s
  | .msfRequestReceive die p poison => Sys2Proof.Machine.execMsfRequestReceive die p poison s
  | .msfResponseReceive die p => Sys2Proof.Machine.execMsfResponseReceive die p s
  | .msfTimeout die slot => Sys2Proof.Machine.execMsfTimeout die slot s
  | .msfAbandon die dest => Sys2Proof.Machine.execMsfAbandon die dest s
  | .msfCfgWrite die v => Sys2Proof.Machine.execMsfCfgWrite die v s
  | .msfCntClr die => Sys2Proof.Machine.execMsfCntClr die s
  | .msfTblRead die table idx => Sys2Proof.Machine.execMsfTblRead die table idx s
  | .msfTblWrite die table idx => Sys2Proof.Machine.execMsfTblWrite die table idx s
  | .connActivate die conn => Sys2Proof.Machine.execConnActivate die conn s
  | .connReset die conn => Sys2Proof.Machine.execConnReset die conn s
  | .connForceError die conn => Sys2Proof.Machine.execConnForceError die conn s
  | .connError conn status => Sys2Proof.Machine.execConnError conn status s
  | .contextFill die conn => Sys2Proof.Machine.execContextFill die conn s
  | .sqTailWrite die q v => Sys2Proof.Machine.execSqTailWrite die q v s
  | .raeWrite die q => Sys2Proof.Machine.execRaeWrite die q s
  | .raeWriteImm die q => Sys2Proof.Machine.execRaeWriteImm die q s
  | .raeRead die q => Sys2Proof.Machine.execRaeRead die q s
  | .raeNotify die q => Sys2Proof.Machine.execRaeNotify die q s
  | .graftData die q => Sys2Proof.Machine.execGraftData die q s
  | .graftFrame die q => Sys2Proof.Machine.execGraftFrame die q s
  | .control die q => Sys2Proof.Machine.execControl die q s
  | .rqWriteReceive p => Sys2Proof.Machine.execRqWriteReceive p s
  | .rqReadReqReceive p poison => Sys2Proof.Machine.execRqReadReqReceive p poison s
  | .rqReadRespReceive p => Sys2Proof.Machine.execRqReadRespReceive p s
  | .rqAckReceive p => Sys2Proof.Machine.execRqAckReceive p s
  | .rqErrReceive p => Sys2Proof.Machine.execRqErrReceive p s
  | .rqAckTimer conn => Sys2Proof.Machine.execRqAckTimer conn s
  | .graftDataReceive p => Sys2Proof.Machine.execGraftDataReceive p s
  | .graftFrameReceive p => Sys2Proof.Machine.execGraftFrameReceive p s
  | .rtoExpiry conn msn => Sys2Proof.Machine.execRtoExpiry conn msn s
  | .pathLossResend lk => Sys2Proof.Machine.execPathLossResend lk s
  | .raeRevoke die region => Sys2Proof.Machine.execRaeRevoke die region s
  | .revokeDone => Sys2Proof.Machine.execRevokeDone s
  | .raeCntClr die => Sys2Proof.Machine.execRaeCntClr die s
  | .openRec src mapEpoch r => Sys2Proof.Machine.execOpenRec src mapEpoch r s
  | .openAck src mapEpoch r => Sys2Proof.Machine.execOpenAck src mapEpoch r s
  | .graftCommit src mapEpoch r => Sys2Proof.Machine.execGraftCommit src mapEpoch r s
  | .commitAck src mapEpoch r => Sys2Proof.Machine.execCommitAck src mapEpoch r s
  | .abortRec src mapEpoch r => Sys2Proof.Machine.execAbortRec src mapEpoch r s
  | .pull src mapEpoch r => Sys2Proof.Machine.execPull src mapEpoch r s
  | .pullDone src mapEpoch r => Sys2Proof.Machine.execPullDone src mapEpoch r s
  | .pullDoneAck src mapEpoch r => Sys2Proof.Machine.execPullDoneAck src mapEpoch r s
  | .releaseRec src mapEpoch r => Sys2Proof.Machine.execReleaseRec src mapEpoch r s
  | .expiredRec src mapEpoch r => Sys2Proof.Machine.execExpiredRec src mapEpoch r s
  | .graftCntClr => Sys2Proof.Machine.execGraftCntClr s
  | .egressSelect lk => Sys2Proof.Machine.execEgressSelect lk s
  | .gateArm lk => Sys2Proof.Machine.execGateArm lk s
  | .gateDisarm lk => Sys2Proof.Machine.execGateDisarm lk s
  | .gateTakeover lk => Sys2Proof.Machine.execGateTakeover lk s
  | .gateInterval lk => Sys2Proof.Machine.execGateInterval lk s
  | .egrTblRead die table idx => Sys2Proof.Machine.execEgrTblRead die table idx s
  | .egrTblWrite die table idx => Sys2Proof.Machine.execEgrTblWrite die table idx s
  | .egrCntClr die => Sys2Proof.Machine.execEgrCntClr die s
  | .doorbell ld v => Sys2Proof.Machine.execDoorbell ld v s
  | .ringEntryTake ring host => Sys2Proof.Machine.execRingEntryTake ring host s
  | .ringLoad ring => Sys2Proof.Machine.execRingLoad ring s
  | .ringCmdResume ring => Sys2Proof.Machine.execRingCmdResume ring s
  | .ringDisable ring => Sys2Proof.Machine.execRingDisable ring s
  | .ringCntClr => Sys2Proof.Machine.execRingCntClr s
  | .killCmd tag => Sys2Proof.Machine.execKillCmd tag s
  | .rerunDelivery group tiles => Sys2Proof.Machine.execRerunDelivery group tiles s
  | .reqCntClr => Sys2Proof.Machine.execReqCntClr s
  | .tagDrainWrite tag => Sys2Proof.Machine.execTagDrainWrite tag s
  | .tileCompletion tag => Sys2Proof.Machine.execTileCompletion tag s
  | .stepBoundary => Sys2Proof.Machine.execStepBoundary s
  | .stepEnd step => Sys2Proof.Machine.execStepEnd step s
  | .slowdownPeriod => Sys2Proof.Machine.execSlowdownPeriod s
  | .acctRewrite tenant => Sys2Proof.Machine.execAcctRewrite tenant s
  | .mbGo mb => Sys2Proof.Machine.execMbGo mb s
  | .messageTake => Sys2Proof.Machine.execMessageTake s
  | .rmpIdentify mb => Sys2Proof.Machine.execRmpIdentify mb s
  | .rmpCfgStage mb => Sys2Proof.Machine.execRmpCfgStage mb s
  | .rmpCfgCommit mb => Sys2Proof.Machine.execRmpCfgCommit mb s
  | .rmpCfgDiscard mb => Sys2Proof.Machine.execRmpCfgDiscard mb s
  | .rmpCfgRead mb => Sys2Proof.Machine.execRmpCfgRead mb s
  | .idleBoundary => Sys2Proof.Machine.execIdleBoundary s
  | .rmpMapSet mb => Sys2Proof.Machine.execRmpMapSet mb s
  | .rmpMapGet mb => Sys2Proof.Machine.execRmpMapGet mb s
  | .rmpRingCreate mb => Sys2Proof.Machine.execRmpRingCreate mb s
  | .rmpRingDestroy mb => Sys2Proof.Machine.execRmpRingDestroy mb s
  | .submissionRingFreed ring => Sys2Proof.Machine.execSubmissionRingFreed ring s
  | .rmpRingResume mb => Sys2Proof.Machine.execRmpRingResume mb s
  | .rmpRingQuery mb => Sys2Proof.Machine.execRmpRingQuery mb s
  | .rmpTokenFetch mb => Sys2Proof.Machine.execRmpTokenFetch mb s
  | .rmpModelLoad mb => Sys2Proof.Machine.execRmpModelLoad mb s
  | .modelLoaded slot => Sys2Proof.Machine.execModelLoaded slot s
  | .rmpModelUnload mb => Sys2Proof.Machine.execRmpModelUnload mb s
  | .modelUnloaded slot => Sys2Proof.Machine.execModelUnloaded slot s
  | .rmpAcctRead mb => Sys2Proof.Machine.execRmpAcctRead mb s
  | .rmpReqQuery mb => Sys2Proof.Machine.execRmpReqQuery mb s
  | .rmpRegRead mb => Sys2Proof.Machine.execRmpRegRead mb s
  | .functionLevelReset ld => Sys2Proof.Machine.execFunctionLevelReset ld s
  | .getLdInfo => Sys2Proof.Machine.execGetLdInfo s
  | .getLdAllocations => Sys2Proof.Machine.execGetLdAllocations s
  | .setLdAllocations first ranges => Sys2Proof.Machine.execSetLdAllocations first ranges s
  | .fmQosCommand c => Sys2Proof.Machine.execFmQosCommand c s
  | .fmVendorRmp msg => Sys2Proof.Machine.execFmVendorRmp msg s
  | .cxlCntClr => Sys2Proof.Machine.execCxlCntClr s
  | .fclLatch ext => Sys2Proof.Machine.execFclLatch ext s
  | .brokenPair src => Sys2Proof.Machine.execBrokenPair src s
  | .reactionEnd => Sys2Proof.Machine.execReactionEnd s
  | .fclKick key => Sys2Proof.Machine.execFclKick key s
  | .kickLapse => Sys2Proof.Machine.execKickLapse s
  | .beatToggle => Sys2Proof.Machine.execBeatToggle s
  | .fclFence kind idx => Sys2Proof.Machine.execFclFence kind idx s
  | .fclUnfence kind idx => Sys2Proof.Machine.execFclUnfence kind idx s
  | .fclInjectNow src width => Sys2Proof.Machine.execFclInjectNow src width s
  | .fclInjectSync src width => Sys2Proof.Machine.execFclInjectSync src width s
  | .fclInjectWire src => Sys2Proof.Machine.execFclInjectWire src s
  | .fclStickyClear w mask => Sys2Proof.Machine.execFclStickyClear w mask s
  | .fclCntClr => Sys2Proof.Machine.execFclCntClr s
  | .groupReplay group => Sys2Proof.Machine.execGroupReplay group s
  | .qualificationCompare tile disagree => Sys2Proof.Machine.execQualificationCompare tile disagree s
  | .rmpFaultRead mb => Sys2Proof.Machine.execRmpFaultRead mb s
  | .rmpFaultClear mb => Sys2Proof.Machine.execRmpFaultClear mb s
  | .rmpUnitFenceFence mb => Sys2Proof.Machine.execRmpUnitFenceFence mb s
  | .rmpUnitFenceUnfence mb => Sys2Proof.Machine.execRmpUnitFenceUnfence mb s
  | .rmpUnitFenceQualify mb => Sys2Proof.Machine.execRmpUnitFenceQualify mb s
  | .rmpCkptTake mb => Sys2Proof.Machine.execRmpCkptTake mb s
  | .rmpCkptRestore mb => Sys2Proof.Machine.execRmpCkptRestore mb s
  | .rmpPartnerLoad mb o => Sys2Proof.Machine.execRmpPartnerLoad mb o s
  | .rmpInject mb => Sys2Proof.Machine.execRmpInject mb s
  | .feedWindowClose => Sys2Proof.Machine.execFeedWindowClose s
  | .feedFrameReceive frame energy elapsedNs => Sys2Proof.Machine.execFeedFrameReceive frame energy elapsedNs s
  | .feedDown energy => Sys2Proof.Machine.execFeedDown energy s
  | .recordSign => Sys2Proof.Machine.execRecordSign s
  | .clocheRestart why => Sys2Proof.Machine.execClocheRestart why s
  | .sealBroken => Sys2Proof.Machine.execSealBroken s
  | .clIdentify => Sys2Proof.Machine.execClIdentify s
  | .certRead off len => Sys2Proof.Machine.execCertRead off len s
  | .recordRead no => Sys2Proof.Machine.execRecordRead no s
  | .snapshotRead no first count => Sys2Proof.Machine.execSnapshotRead no first count s
  | .liveRead tenant => Sys2Proof.Machine.execLiveRead tenant s
  | .logRead seq => Sys2Proof.Machine.execLogRead seq s
  | .nonceGet => Sys2Proof.Machine.execNonceGet s
  | .paramSet c => Sys2Proof.Machine.execParamSet c s
  | .labelSet c => Sys2Proof.Machine.execLabelSet c s
  | .keySet c => Sys2Proof.Machine.execKeySet c s
  | .archive c => Sys2Proof.Machine.execArchive c s
  | .reseal c loopClosed => Sys2Proof.Machine.execReseal c loopClosed s
  | .fwChunk off data => Sys2Proof.Machine.execFwChunk off data s
  | .fwCommit c => Sys2Proof.Machine.execFwCommit c s
  | .getVersion ld => Sys2Proof.Machine.execGetVersion ld s
  | .getCapabilities ld => Sys2Proof.Machine.execGetCapabilities ld s
  | .negotiateAlgorithms ld a => Sys2Proof.Machine.execNegotiateAlgorithms ld a s
  | .getDigests ld => Sys2Proof.Machine.execGetDigests ld s
  | .getCertificate ld slot off len => Sys2Proof.Machine.execGetCertificate ld slot off len s
  | .challenge ld slot nonce => Sys2Proof.Machine.execChallenge ld slot nonce s
  | .getMeasurements ld index signed nonce => Sys2Proof.Machine.execGetMeasurements ld index signed nonce s
  | .keyExchange ld slot sid share => Sys2Proof.Machine.execKeyExchange ld slot sid share s
  | .finish ld sid verify => Sys2Proof.Machine.execFinish ld sid verify s
  | .heartbeat ld sid => Sys2Proof.Machine.execHeartbeat ld sid s
  | .keyUpdate ld sid => Sys2Proof.Machine.execKeyUpdate ld sid s
  | .endSession ld sid => Sys2Proof.Machine.execEndSession ld sid s
  | .ideKmQuery ld sid => Sys2Proof.Machine.execIdeKmQuery ld sid s
  | .keyProg ld sid sub set key => Sys2Proof.Machine.execKeyProg ld sid sub set key s
  | .kSetGo ld sid sub set => Sys2Proof.Machine.execKSetGo ld sid sub set s
  | .kSetStop ld sid sub set => Sys2Proof.Machine.execKSetStop ld sid sub set s
  | .tamperTrip src => Sys2Proof.Machine.execTamperTrip src s
  | .secWipeWrite key => Sys2Proof.Machine.execSecWipeWrite key s
  | .rmpSecQuery mb => Sys2Proof.Machine.execRmpSecQuery mb s
  | .rmpFwStage mb => Sys2Proof.Machine.execRmpFwStage mb s
  | .rmpFwActivate mb => Sys2Proof.Machine.execRmpFwActivate mb s
  | .rmpRollbackAdvance mb => Sys2Proof.Machine.execRmpRollbackAdvance mb s
  | .rmpLcTransition mb => Sys2Proof.Machine.execRmpLcTransition mb s
  | .jtagLcTransition target token => Sys2Proof.Machine.execJtagLcTransition target token s
  | .powerReport mw100us mw1ms mw1s => Sys2Proof.Machine.execPowerReport mw100us mw1ms mw1s s
  | .vinRange mv => Sys2Proof.Machine.execVinRange mv s
  | .clampClr => Sys2Proof.Machine.execClampClr s
  | .pwrCapWrite v => Sys2Proof.Machine.execPwrCapWrite v s
  | .tilePwrReq tile req => Sys2Proof.Machine.execTilePwrReq tile req s
  | .tileWake tile => Sys2Proof.Machine.execTileWake tile s
  | .tileDivWrite tile v => Sys2Proof.Machine.execTileDivWrite tile v s
  | .tileVsetWrite tile v => Sys2Proof.Machine.execTileVsetWrite tile v s
  | .comparatorFire k => Sys2Proof.Machine.execComparatorFire k s
  | .ltuBootWrite v => Sys2Proof.Machine.execLtuBootWrite v s
  | .stageSplitWrite v => Sys2Proof.Machine.execStageSplitWrite v s
  | .thermalSample site temp => Sys2Proof.Machine.execThermalSample site temp s
  | .pdmSweep tile => Sys2Proof.Machine.execPdmSweep tile s
  | .sweepDone tile delays => Sys2Proof.Machine.execSweepDone tile delays s
  | .ageScheduler => Sys2Proof.Machine.execAgeScheduler s
  | .insituSlackCheck tile slack => Sys2Proof.Machine.execInsituSlackCheck tile slack s
  | .rmpPowerQuery mb => Sys2Proof.Machine.execRmpPowerQuery mb s
  | .rmpPowerCap mb => Sys2Proof.Machine.execRmpPowerCap mb s
  | .rmpTimerAlloc mb => Sys2Proof.Machine.execRmpTimerAlloc mb s
  | .rmpTimerFree mb => Sys2Proof.Machine.execRmpTimerFree mb s
  | .rmpAgeReport mb => Sys2Proof.Machine.execRmpAgeReport mb s
  | .rmpBootParamSet mb => Sys2Proof.Machine.execRmpBootParamSet mb s
  | .syncInEdge => Sys2Proof.Machine.execSyncInEdge s
  | .powerUp => Sys2Proof.Machine.execPowerUp s
  | .railFault beyond15 => Sys2Proof.Machine.execRailFault beyond15 s
  | .resetNAssert => Sys2Proof.Machine.execResetNAssert s
  | .startup inp => Sys2Proof.Machine.execStartup inp s
  | .perstN => Sys2Proof.Machine.execPerstN s
  | .powerDown ordered => Sys2Proof.Machine.execPowerDown ordered s
  | .recGo len => Sys2Proof.Machine.execRecGo len s
  | .sbStatus => Sys2Proof.Machine.execSbStatus s
  | .sbRead off len ov => Sys2Proof.Machine.execSbRead off len ov s
  | .sbWrite off data ov => Sys2Proof.Machine.execSbWrite off data ov s
  | .sbIdent => Sys2Proof.Machine.execSbIdent s
  | .sbwCntClr => Sys2Proof.Machine.execSbwCntClr s
  | .bootProgressWrite v => Sys2Proof.Machine.execBootProgressWrite v s
  | .bypass => Sys2Proof.Machine.execBypass s
  | .idcode => Sys2Proof.Machine.execIdcode s
  | .samplePreload pins preload => Sys2Proof.Machine.execSamplePreload pins preload s
  | .extest pins => Sys2Proof.Machine.execExtest pins s
  | .clamp => Sys2Proof.Machine.execClamp s
  | .highz => Sys2Proof.Machine.execHighz s
  | .extestPulse pins => Sys2Proof.Machine.execExtestPulse pins s
  | .extestTrain pins => Sys2Proof.Machine.execExtestTrain pins s
  | .dbgDtmcs => Sys2Proof.Machine.execDbgDtmcs s
  | .dbgDmi op => Sys2Proof.Machine.execDbgDmi op s
  | .linkRetrainDone lk => Sys2Proof.Machine.execLinkRetrainDone lk s
  | .portRetrainDone site port restored => Sys2Proof.Machine.execPortRetrainDone site port restored s
  | .txnSlotReissue die slot => Sys2Proof.Machine.execTxnSlotReissue die slot s
  | .ringCoalesceTimer ring => Sys2Proof.Machine.execRingCoalesceTimer ring s
  | .cqHeadWrite die q v => Sys2Proof.Machine.execCqHeadWrite die q v s
  | .perstNRelease tr => Sys2Proof.Machine.execPerstNRelease tr s
  | .cxlMemRequest ld off r => Sys2Proof.Machine.execCxlMemRequest ld off r s
  | .hdmDecoderCommit ld on => Sys2Proof.Machine.execHdmDecoderCommit ld on s
  | .clVauxLoss => Sys2Proof.Machine.execClVauxLoss s
  | .sbDynamicAddress addr => Sys2Proof.Machine.execSbDynamicAddress addr s
  | .clDynamicAddress setdasa addr => Sys2Proof.Machine.execClDynamicAddress setdasa addr s

end Sys2Proof.Machine
end

