-- ==== Sys2Proof/Machine/Tick.lean ====
section
/-!
DEFINITION. Sys2Proof/Machine/Tick.lean: the passing of time when no command waits (notes/assumptions/3.md): what
happens with time alone and has no row of the table.
-/
namespace Sys2Proof.Machine

/-- PCLK in which a tap waits for the feed concentrator are counted, two to the tick (R479, R507). -/
def Feed.tick (f : Feed) : Feed := if f.held.isEmpty then f else { f with stall := satAdd 32 f.stall 2 }

/-- What time does to the units of a device that runs: held packets meet their policers again (R354), voltages slew
(R526), taps wait (R479), connections send what they can (R317), and firmware acts on failed grafts (R32), on finished
qualifications (R464), and holds the tiles of a CACHE device OFF (R1, R513). -/
def State.tickUnits (s : State) : State :=
  if !s.live then s else { s with feed := s.feed.tick }.tickPolicers.tickPlans.settle.pumpAll.qualSettle.cacheTiles

/-- What time does to a device out of reset: the LTU counts, halted or not (R516), and pairs return to idle (R444). -/
def State.tickDevice (s : State) : State :=
  if !s.boot.good || !s.boot.released then s else ({ s with ltu := wrap64 (s.ltu + 1) }.tickFcl).tickUnits

/-- One tick of the LTU, 10 ns (R533); the Cloche keeps its own time (R485). -/
def State.tick (s : State) : State := { s with cloche := s.cloche.tick }.tickDevice

end Sys2Proof.Machine
end

