-- ==== Sys2Proof/Certificates/Slice0/Obligations.lean ====
section
/-!
DEFINITION. Sys2Proof/Certificates/Slice0/Obligations.lean: the statements for the provers, family by family. `Claims.` holds the
definitions they share. A clause of the form t = { s with f := t.f } says that nothing but field f has changed.
-/
open Sys2Proof Sys2Proof.Machine



/-- Every byte memory of the block is in canonical form: addresses strictly rising, no entry equal to what an unlisted address
reads as. -/
def Claims.canonical (s : State) : Prop :=
  Memory.wf s.mem = true ∧ Memory.wf s.t3 = true ∧ Memory.wf s.hostMem = true ∧ Memory.wf s.sec.qspi = true ∧ Memory.wf s.cloche.half = true

/-- The commands that are the Cloche's own: its supply, reset pin, seal, feed and I3C port (R475, R480, R492). -/
def Claims.forCloche : Instr → Bool
  | .feedFrameReceive .. | .feedDown .. | .recordSign | .clocheRestart .. | .clVauxLoss | .sealBroken | .clDynamicAddress .. | .clIdentify
  | .certRead .. | .recordRead .. | .snapshotRead .. | .liveRead .. | .logRead .. | .nonceGet | .paramSet .. | .labelSet .. | .keySet ..
  | .archive .. | .reseal .. | .fwChunk .. | .fwCommit .. => true
  | _ => false

/-- A step takes the command at the front of the queue and runs it on the state with the queue's rest; with none, an LTU tick
passes (the model's choice, log 3); no row of the table has bits, so no word spells a command. -/
def Obligations.StepRunsFront : Prop :=
  (∀ (c : Instr) (s : State), step { s with pending := c :: s.pending } = exec c s) ∧
  (∀ s : State, s.pending = [] → step s = .next s.tick) ∧
  (∀ (s : State) (nbits w : Nat), s.withFetchWord nbits w = s)

/-- The machine right after reset where the spec gives values (R61, R362, R410, R457, R474, R479, R516, R533): the queue is empty and time
is 0, no map is set, no pair, sticky or wire bit is set, BEAT is low, no ring, mailbox
message, tile command or request exists; the byte memories are canonical, and the life cycle is one of R501's (the value BLANK
itself, like the empty memories, is the model's choice, log 1 and 2). -/
def Obligations.ResetState : Prop :=
  State.reset.pending = [] ∧ State.reset.ltu = 0 ∧ State.reset.mem = [] ∧ State.reset.cmap.cur = 0 ∧ State.reset.cmap.old = none ∧
  State.reset.fcl.sticky = 0#1024 ∧ State.reset.fcl.wire = 0#1024 ∧ State.reset.fcl.running = false ∧ State.reset.fcl.level = false ∧
  State.reset.fcl.halted = false ∧ State.reset.feed.window = 0 ∧ State.reset.feed.first = true ∧ State.reset.liveReqs = [] ∧
  (∀ r, (State.reset.ring r).rstate = .free) ∧ (∀ t, (State.reset.tile t).cur = none ∧ (State.reset.tile t).fenced = false) ∧
  (∀ mb, (State.reset.mbox mb).busy = false ∧ (State.reset.mbox mb).done = false ∧ (State.reset.mbox mb).go = false) ∧
  (∀ k, (State.reset.link k).fenced = false) ∧ Claims.canonical State.reset ∧ State.reset.sec.otp.lc ≤ 6

/-- Every step, of any command and of a tick, from any state whatever, keeps the byte memories canonical; a command leaves the
queue as the step left it. -/
def Obligations.StepsKeepMemories : Prop :=
  (∀ s t : State, Claims.canonical s → step s = .next t → Claims.canonical t) ∧
  (∀ (c : Instr) (s t : State), exec c s = .next t → t.pending = s.pending)

/-- The Cloche is sealed (R54, R475): nothing but the commands that are its own changes any of its state, time passing apart. -/
def Obligations.ClocheSealed : Prop :=
  (∀ (c : Instr) (s t : State), Claims.forCloche c = false → exec c s = .next t → t.cloche = s.cloche) ∧
  (∀ s t : State, s.pending = [] → step s = .next t → t.cloche = s.cloche.tick)

/-- Fuses only gain (R495, R501, R504): no step lowers a rollback counter, and none takes the life cycle back. -/
def Obligations.FusesOnlyGain : Prop :=
  ∀ s t : State, step s = .next t → s.sec.otp.firstSvn ≤ t.sec.otp.firstSvn ∧ s.sec.otp.mainSvn ≤ t.sec.otp.mainSvn ∧
    (s.sec.otp.lc ≤ 6 → s.sec.otp.lc ≤ t.sec.otp.lc ∧ t.sec.otp.lc ≤ 6)

/-- Nothing of the dies but ports of two edge ends differs. -/
def Claims.portsOnly (s t : State) (a b : Nat × Nat) : Prop :=
  ∀ k, (t.die k) = { s.die k with ports := (t.die k).ports } ∧
    ∀ j, (k, j) ≠ a → (k, j) ≠ b → (t.die k).port j = (s.die k).port j

/-- Trellis packets (R60 to R63). A packet of its source die for another die leaves by the port of R60's route, and a request then
waits for its response; one that arrives with a good header and is for another die is sent on by its route; one whose route has
no port that is up, or that names no die, is discarded; a response that arrives at its die ends its request, or is late and
counted; a bad header is discarded, counted on the port it came in by, and raised on its die; a request not answered in time is
dropped, counted and raised, and its issuer sees its read fail. A packet that its port does not hold, and a timer that has not run out,
change nothing. -/
def Obligations.TrellisPackets : Prop :=
  (∀ (s : State) (site : Fin 7) (p : TPkt), p.src = site.val → crc16 p.hdr = p.crc.toNat → p.dst ≠ site.val →
    exec (.trellisPacket site none p) s = .next { s with trellis := { s.trellis with
      waiting := if p.cls = .request then ⟨p.txn, p.src, p.dst, p.isRead, p.issuer, s.ltu⟩ :: s.trellis.waiting else s.trellis.waiting
      vcs := if p.dst < 7 ∧ ((s.die site.val).port (routePort site.val p.dst)).state = .up
        then s.trellis.vcs ++ [⟨site.val, routePort site.val p.dst, p.cls, p.src, p.dst, p.txn⟩] else s.trellis.vcs } }) ∧
  (∀ (s : State) (site : Fin 7) (q : Fin 4) (p : TPkt) (v : TrellisHeld), q.val < portsOf site.val →
    s.trellis.vcs.find? (fun v => v.site = (peerOf site.val q.val).1 && v.port = (peerOf site.val q.val).2 && v.cls = p.cls) = some v →
    v.src = p.src → v.dst = p.dst → v.txn = p.txn → crc16 p.hdr = p.crc.toNat → p.dst ≠ site.val →
    ∃ t, exec (.trellisPacket site (some q) p) s = .next t ∧ t = { s with dies := t.dies, trellis := t.trellis } ∧
      t.trellis = { s.trellis with vcs := s.trellis.vcs.erase v ++
        (if p.dst < 7 ∧ ((s.die site.val).port (routePort site.val p.dst)).state = .up
          then [⟨site.val, routePort site.val p.dst, p.cls, p.src, p.dst, p.txn⟩] else []) } ∧
      Claims.portsOnly s t (site.val, q.val) (site.val, q.val) ∧
      (t.die site.val).port q.val = { (s.die site.val).port q.val with retry := satAdd 32 ((s.die site.val).port q.val).retry p.retries }) ∧
  (∀ (s : State) (site : Fin 7) (q : Fin 4) (p : TPkt) (v : TrellisHeld), q.val < portsOf site.val →
    s.trellis.vcs.find? (fun v => v.site = (peerOf site.val q.val).1 && v.port = (peerOf site.val q.val).2 && v.cls = p.cls) = some v →
    v.src = p.src → v.dst = p.dst → v.txn = p.txn → crc16 p.hdr = p.crc.toNat → p.dst = site.val →
    ∃ t, exec (.trellisPacket site (some q) p) s = .next t ∧ t = { s with dies := t.dies, trellis := t.trellis } ∧
      t.trellis = (if p.cls = .response then
          match s.trellis.waiting.find? (fun w => w.txn = p.txn) with
          | some w => { s.trellis with vcs := s.trellis.vcs.erase v, waiting := s.trellis.waiting.erase w }
          | none => { s.trellis with vcs := s.trellis.vcs.erase v, lateResp := s.trellis.lateResp + 1 }
        else { s.trellis with vcs := s.trellis.vcs.erase v }) ∧
      Claims.portsOnly s t (site.val, q.val) (site.val, q.val) ∧
      (t.die site.val).port q.val = { (s.die site.val).port q.val with retry := satAdd 32 ((s.die site.val).port q.val).retry p.retries }) ∧
  (∀ (s : State) (site : Fin 7) (q : Fin 4) (p : TPkt) (v : TrellisHeld), q.val < portsOf site.val →
    s.trellis.vcs.find? (fun v => v.site = (peerOf site.val q.val).1 && v.port = (peerOf site.val q.val).2 && v.cls = p.cls) = some v →
    v.src = p.src → v.dst = p.dst → v.txn = p.txn → crc16 p.hdr ≠ p.crc.toNat →
    ∃ t, exec (.trellisPacket site (some q) p) s = .next t ∧ t = { s with dies := t.dies, trellis := t.trellis, fcl := t.fcl } ∧
      t.trellis = { s.trellis with vcs := s.trellis.vcs.erase v } ∧
      Claims.portsOnly s t (site.val, q.val) (site.val, q.val) ∧
      (t.die site.val).port q.val = { (s.die site.val).port q.val with
        retry := satAdd 32 ((s.die site.val).port q.val).retry p.retries
        hdrCheck := satAdd 32 ((s.die site.val).port q.val).hdrCheck 1 } ∧
      t.fcl = (s.raise (trellisSrc site.val 0)).fcl) ∧
  (∀ (s : State) (txn : Nat) (w : TrellisReq), s.trellis.waiting.find? (fun x => x.txn = txn) = some w →
    w.sent + 100 * s.trellis.timeoutUs < s.ltu →
    let u := ({ s with trellis := { s.trellis with waiting := s.trellis.waiting.erase w } }.updDie w.src
      (fun d => { d with trellisTimeouts := satAdd 16 d.trellisTimeouts 1 })).raise (trellisSrc w.src 1)
    (w.isRead = false ∨ w.issuer = none → exec (.trellisTimeout txn) s = .next u) ∧
    (w.isRead = true → ∀ tl th n, w.issuer = some (.core tl th n) →
      exec (.trellisTimeout txn) s = .next (u.failCmd tl.val Stat.trellisTimeout)) ∧
    (w.isRead = true → ∀ h, w.issuer = some (.control h) → exec (.trellisTimeout txn) s = .next (u.ctlFail h mopLoad)) ∧
    (w.isRead = true → ∀ ag, (∃ e c, ag = .dma e c) ∨ (∃ t c, ag = .tileDma t c) → w.issuer = some ag →
      exec (.trellisTimeout txn) s = .next (u.dmaFail ag Stat.trellisTimeout 0))) ∧
  (∀ (s : State) (site : Fin 7) (p : TPkt),
    (p.src ≠ site.val → exec (.trellisPacket site none p) s = .next s) ∧
    (p.src = site.val → crc16 p.hdr ≠ p.crc.toNat →
      ∃ t, exec (.trellisPacket site none p) s = .next t ∧ t = { s with trellis := t.trellis, fcl := t.fcl } ∧
        t.trellis.vcs = s.trellis.vcs ∧ t.fcl = (s.raise (trellisSrc site.val 0)).fcl)) ∧
  (∀ (s : State) (site : Fin 7) (q : Fin 4) (p : TPkt),
    (portsOf site.val ≤ q.val ∨ ∀ v ∈ s.trellis.vcs, ¬(v.site = (peerOf site.val q.val).1 ∧ v.port = (peerOf site.val q.val).2 ∧
      v.cls = p.cls ∧ v.src = p.src ∧ v.dst = p.dst ∧ v.txn = p.txn)) → exec (.trellisPacket site (some q) p) s = .next s) ∧
  (∀ (s : State) (txn : Nat), (∀ w ∈ s.trellis.waiting, w.txn = txn → s.ltu ≤ w.sent + 100 * s.trellis.timeoutUs) →
    exec (.trellisTimeout txn) s = .next s)

/-- Trellis ports and the DIE block's registers (R64, R79 to R83): a lost module narrows its edge at both ends, and the last one
fails it; a port retrains; counters clear; nothing else changes. -/
def Obligations.TrellisPorts : Prop :=
  (∀ (s : State) (site : Fin 7) (port : Fin 4), port.val < portsOf site.val → ((s.die site.val).port port.val).modulesUp ≠ 0 →
    ∃ t, exec (.trellisModuleFail site port) s = .next t ∧ t = { s with dies := t.dies, fcl := t.fcl } ∧
      Claims.portsOnly s t (site.val, port.val) (peerOf site.val port.val) ∧
      (∀ k j, (k, j) = (site.val, port.val) ∨ (k, j) = peerOf site.val port.val → (t.die k).port j = { (s.die k).port j with
        modulesUp := ((s.die k).port j).modulesUp - 1
        state := if ((s.die k).port j).modulesUp ≤ 1 then .failed else ((s.die k).port j).state }) ∧
      t.fcl = (s.raise (trellisSrc site.val (if ((s.die site.val).port port.val).modulesUp = 1 then 3 else 2))).fcl) ∧
  (∀ (s : State) (site : Fin 7) (port : Fin 4), s.live = true → port.val < portsOf site.val →
    ∃ t, exec (.portRetrain site port) s = .next t ∧ t = { s with dies := t.dies } ∧
      Claims.portsOnly s t (site.val, port.val) (site.val, port.val) ∧
      (t.die site.val).port port.val = { (s.die site.val).port port.val with retrain := true }) ∧
  (∀ (s : State) (site : Fin 7) (port : Fin 4) (restored : Nat), port.val < portsOf site.val →
    ((s.die site.val).port port.val).retrain = true →
    ∃ t, exec (.portRetrainDone site port restored) s = .next t ∧ t = { s with dies := t.dies } ∧
      Claims.portsOnly s t (site.val, port.val) (peerOf site.val port.val) ∧
      (∀ k j, (k, j) = (site.val, port.val) ∨ (k, j) = peerOf site.val port.val → (t.die k).port j = { (s.die k).port j with
        retrain := if (k, j) = (site.val, port.val) then false else ((s.die k).port j).retrain
        modulesUp := Nat.min (modulesFitted site.val port.val) (((s.die k).port j).modulesUp + restored)
        state := if ((s.die k).port j).state = .failed ∧ 0 < restored then .up else ((s.die k).port j).state })) ∧
  (∀ (s : State) (site : Fin 7) (port : Fin 4), s.live = true → port.val < portsOf site.val →
    ∃ t, exec (.portCntClr site port) s = .next t ∧ t = { s with dies := t.dies } ∧
      Claims.portsOnly s t (site.val, port.val) (site.val, port.val) ∧
      (t.die site.val).port port.val = { (s.die site.val).port port.val with hdrCheck := 0, retry := 0 }) ∧
  (∀ (s : State) (v : BitVec 32), s.live = true →
    exec (.trellisTimeoutWrite v) s = .next (if 200 ≤ bits v.toNat 0 14 ∧ bits v.toNat 0 14 ≤ 10000
      then { s with trellis := { s.trellis with timeoutUs := bits v.toNat 0 14 } } else s)) ∧
  (∀ (s : State) (site : Fin 7) (v : BitVec 32), s.live = true →
    ∃ t, exec (.dieErrclr site v) s = .next t ∧ t = { s with dies := t.dies } ∧
      t.die site.val = (if v.getLsbD 0 then { s.die site.val with tableCheck := 0, trellisTimeouts := 0, addrViolations := 0 }
        else s.die site.val) ∧
      ∀ k, k ≠ site.val → t.die k = s.die k)

/-- Writes of the ATU's registers (R131, R159, R161, R162): an invalidation is taken when none is in progress and refused
with REJECT when one is; when it is done every slice has dropped the translations it names, BUSY is clear and DONE set, the MOVEs
that waited for it go on, and the next one that waits for the unit takes it. -/
def Obligations.AtuCommands : Prop :=
  (∀ (s : State) (asid : BitVec 16), s.live = true → exec (.invOneAsid asid) s = .next (match s.atu.invBusy with
    | none => { s with atu := { s.atu with invBusy := some (.asid asid.toNat) } }
    | some _ => { s with atu := { s.atu with invReject := true } })) ∧
  (∀ (s : State) (asid count : BitVec 16), s.live = true → exec (.invRange asid count) s = .next (match s.atu.invBusy with
    | none => { s with atu := { s.atu with invBusy := some (.range asid.toNat (s.atu.invVa / 65536) (count.toNat + 1)) } }
    | some _ => { s with atu := { s.atu with invReject := true } })) ∧
  (∀ (s : State), s.live = true → exec .invAll s = .next (match s.atu.invBusy with
    | none => { s with atu := { s.atu with invBusy := some .all } }
    | some _ => { s with atu := { s.atu with invReject := true } })) ∧
  (∀ (s : State) (sc : InvScope), s.live = true → s.atu.invBusy = some sc →
    ∃ u : State, u = { s with atu := { s.atu with slices := u.atu.slices, invBusy := none, invDone := true } } ∧
      (∀ sl, u.slice sl = { s.slice sl with
        tlb := (s.slice sl).tlb.filter (fun e => !(sc.names e.1 e.2.1 e.2.2.1)) }) ∧
      exec .invalidationDone s = .next (State.secondInv
        ((s.pools.moves.filter (fun m => sc.names m.asid m.vpn 0)).foldl State.moveInvalidated u))) ∧
  (∀ (s : State) (v : BitVec 32), s.live = true →
    exec (.atuCtrlWrite v) s = .next { s with atu := { s.atu with enable := v.getLsbD 0 } }) ∧
  (∀ (s : State) (sl : Fin 5), s.live = true →
    ∃ t, exec (.atuCtrlClr sl) s = .next t ∧ t = { s with atu := { s.atu with slices := t.atu.slices } } ∧
      t.slice sl.val = { s.slice sl.val with walks := 0, corrected := 0, uncorrected := 0 } ∧
      ∀ k, k ≠ sl.val → t.slice k = s.slice k)

/-- The thread of a tile's running command, by number. -/
def Claims.threadAt (s : State) (tile th : Nat) : Option Thread := (s.cmd? tile).bind (fun c => c.thread? th)

/-- The instructions of a running thread that touch only its command (R100, R102, R103, R105, R112): each advances its thread by
four bytes; TOP.ISSUE queues the descriptor and hands out its handle, TOP.WAIT, TOP.FENCE and TOP.FENCET wait for what is not
complete, TOP.PUB appends its entry, TOP.CRC16 gives the code of the bytes, TOP.END ends the thread. -/
def Obligations.TileInstructions : Prop :=
  ∀ (s : State) (tile : Fin 48) (th : Fin 32) (c : TileCmd) (h : Thread), s.running? tile.val th.val = some (c, h) →
  (∀ (rd rs1 : Fin 32) (u : Nat), inScratch tile.val (h.xr rs1) 64 = true →
    issueUnit tile.val c (s.wrd tile.val (h.xr rs1) 64) = some u → c.queuedIn u < 16 →
    ∃ t, exec (.topIssue tile th rd rs1) s = .next t ∧ t = { s with tiles := t.tiles } ∧
      Claims.threadAt t tile.val th.val = some ((h.adv 4).xw rd (c.lastHandle + 1)) ∧
      (t.cmd? tile.val).map (·.ops) =
        some (c.ops ++ [{ handle := c.lastHandle + 1, unit := u, desc := s.wrd tile.val (h.xr rs1) 64 }])) ∧
  (∀ rs1 : Fin 32, ∃ t, exec (.topWait tile th rs1) s = .next t ∧ t = { s with tiles := t.tiles } ∧
    Claims.threadAt t tile.val th.val = some { h.adv 4 with
      wait := if c.depOk (h.xr rs1 % 2 ^ 32) then none else some (.op (h.xr rs1 % 2 ^ 32)) }) ∧
  (∃ t, exec (.topFence tile th) s = .next t ∧ t = { s with tiles := t.tiles } ∧
    Claims.threadAt t tile.val th.val = some { h.adv 4 with wait := if h.outst = 0 then none else some .fence }) ∧
  (∃ t, exec (.topFencet tile th) s = .next t ∧ t = { s with tiles := t.tiles } ∧
    Claims.threadAt t tile.val th.val = some { h.adv 4 with
      wait := if c.quiet && c.opsDoneTo c.lastHandle then none else some (.fencet c.lastHandle) }) ∧
  (∀ rs1 : Fin 32, inScratch tile.val (h.xr rs1) 16 = true → crcOk (s.wrd tile.val (h.xr rs1) 16) 16 = true →
    c.pubs.length < 4096 →
    ∃ t, exec (.topPub tile th rs1) s = .next t ∧ t = { s with tiles := t.tiles } ∧
      Claims.threadAt t tile.val th.val = some (h.adv 4) ∧
      (t.cmd? tile.val).map (·.pubs) = some (c.pubs ++ [s.wrd tile.val (h.xr rs1) 16])) ∧
  (∀ rd rs1 rs2 : Fin 32, inScratch tile.val (h.xr rs1) (h.xr rs2) = true →
    ∃ t, exec (.topCrc16 tile th rd rs1 rs2) s = .next t ∧ t = { s with tiles := t.tiles } ∧
      Claims.threadAt t tile.val th.val =
        some ((h.adv 4).xw rd (crc16 (s.wbytes tile.val (h.xr rs1) (h.xr rs2))))) ∧
  (∃ t, exec (.topEnd tile th) s = .next t ∧ t = { s with tiles := t.tiles } ∧
    Claims.threadAt t tile.val th.val = some { h.adv 4 with ended := true })

/-- Memory accesses of a running thread (R100, R101, R107, R110, R111). `va` is the address, aligned and with bits 63 to 56
clear; `pa` its translation. A load returns the bytes at `pa`; a store waits while its core's 16 store buffer entries are taken; a store, a bank atomic and a read-modify-write of the own
scratchpad write them and leave every other byte; LR reserves and SC stores only where it is reserved; a store or an atomic
on the remote aperture, and an atomic outside the own scratchpad, is deferred. -/
def Obligations.CoreAccesses : Prop :=
  ∀ (s : State) (tile : Fin 48) (th : Fin 32) (c : TileCmd) (h : Thread), s.running? tile.val th.val = some (c, h) →
  ∀ (a : CoreAcc) (u : State) (pa : Nat),
    let va := ofInt 64 ((h.xr a.rs1 : Int) + a.imm)
    let n := accSize a
    accLegal a = true → va % n = 0 → bits va 56 8 = 0 → s.coreAddr tile.val c va (kindAcc a.kind) = (u, .ok pa) →
  (a.kind = .load → inAperture pa = false → u.accStatus (.tile tile.val) .read pa n = Stat.ok → u.heldChan pa n = none →
    ∃ t, exec (.coreMemoryAccess tile th a) s = .next t ∧ t.mem = s.mem ∧ t.reqs = s.reqs ∧
      Claims.threadAt t tile.val th.val = some ((h.adv a.ilen).loaded a (s.rd pa n))) ∧
  (a.kind = .load → inAperture pa = true →
    ∃ t, exec (.coreMemoryAccess tile th a) s = .next t ∧ t.mem = s.mem ∧ t.reqs = s.reqs ∧
      Claims.threadAt t tile.val th.val = some { h.adv a.ilen with wait := some (.issue pa a) }) ∧
  (a.kind = .store → inAperture pa = false → c.buffered th.val < 16 → u.accStatus (.tile tile.val) .write pa n = Stat.ok →
    u.heldChan pa n = none →
    ∃ t, exec (.coreMemoryAccess tile th a) s = .next t ∧ t.mem = memPut memKey s.mem pa (toBytes n (accValue a h)) ∧
      (∀ k, (∀ i, i < n → memKey (pa + i) ≠ k) → memGet t.mem k = memGet s.mem k) ∧ t.reqs = s.reqs ∧
      (Claims.threadAt t tile.val th.val).map (fun x => (x.pc, x.x, x.f, x.wait)) = some (h.pc + a.ilen, h.x, h.f, h.wait)) ∧
  (a.kind = .store → inAperture pa = false → 16 ≤ c.buffered th.val →
    ∃ t, exec (.coreMemoryAccess tile th a) s = .next t ∧ t.mem = s.mem ∧ t.reqs = s.reqs ∧
      Claims.threadAt t tile.val th.val = some { h with wait := some .storeBuf }) ∧
  ((a.kind = .store ∨ a.kind = .amoAdd ∨ a.kind = .amoSwap) → inAperture pa = true → n = 8 → (a.kind ≠ .store → a.rd = 0) →
    c.deferred.length < 4096 →
    ∃ t, exec (.coreMemoryAccess tile th a) s = .next t ∧ t.mem = s.mem ∧ t.reqs = s.reqs ∧
      Claims.threadAt t tile.val th.val = some (h.adv a.ilen) ∧
      (t.cmd? tile.val).map (·.deferred) = some (c.deferred ++
        [⟨if a.kind = .store then .store else if a.kind = .amoAdd then .addInt else .swap, pa, n, accValue a h⟩])) ∧
  ((a.kind = .amoAdd ∨ a.kind = .amoSwap) → inAperture pa = false → u.accStatus (.tile tile.val) .atomic pa n = Stat.ok →
    ownOff tile.val pa = none → a.rd = 0 → c.deferred.length < 4096 →
    ∃ t, exec (.coreMemoryAccess tile th a) s = .next t ∧ t.mem = s.mem ∧ t.reqs = s.reqs ∧
      Claims.threadAt t tile.val th.val = some (h.adv a.ilen) ∧
      (t.cmd? tile.val).map (·.deferred) =
        some (c.deferred ++ [⟨if a.kind = .amoAdd then .addInt else .swap, pa, n, accValue a h⟩])) ∧
  (∀ off, (a.kind = .amoAdd ∨ a.kind = .amoSwap) → inAperture pa = false →
    u.accStatus (.tile tile.val) .atomic pa n = Stat.ok → ownOff tile.val pa = some off →
    ∃ t, exec (.coreMemoryAccess tile th a) s = .next t ∧
      t.mem = memPut memKey s.mem pa
        (toBytes n (bankResult (if a.kind = .amoAdd then .addInt else .swap) n (s.rd pa n) (accValue a h))) ∧
      (∀ k, (∀ i, i < n → memKey (pa + i) ≠ k) → memGet t.mem k = memGet s.mem k) ∧ t.reqs = s.reqs ∧
      (Claims.threadAt t tile.val th.val).map (fun x => (x.pc, x.xr a.rd)) = some (h.pc + a.ilen,
        if a.rd = 0 then 0 else ofInt 64 (toSigned (8 * n) (s.rd pa n)))) ∧
  (∀ off, a.kind = .lr → u.accStatus (.tile tile.val) .read pa n = Stat.ok → ownOff tile.val pa = some off →
    ∃ t, exec (.coreMemoryAccess tile th a) s = .next t ∧ t.mem = s.mem ∧ t.reqs = s.reqs ∧
      Claims.threadAt t tile.val th.val =
        some { (h.adv a.ilen).xw a.rd (ofInt 64 (toSigned (8 * n) (s.rd pa n))) with resv := some off }) ∧
  (∀ off, a.kind = .sc → u.accStatus (.tile tile.val) .write pa n = Stat.ok → ownOff tile.val pa = some off →
    ∃ t, exec (.coreMemoryAccess tile th a) s = .next t ∧ t.reqs = s.reqs ∧
      t.mem = (if h.resv = some off then memPut memKey s.mem pa (toBytes n (accValue a h)) else s.mem) ∧
      (Claims.threadAt t tile.val th.val).map (fun x => (x.pc, x.xr a.rd, x.resv)) = some (h.pc + a.ilen,
        if a.rd = 0 then 0 else if h.resv = some off then 0 else 1, none)) ∧
  (∀ off, kindAcc a.kind = .atomic → a.kind ≠ .amoAdd → a.kind ≠ .amoSwap →
    u.accStatus (.tile tile.val) .atomic pa n = Stat.ok → ownOff tile.val pa = some off →
    ∃ t, exec (.coreMemoryAccess tile th a) s = .next t ∧ t.reqs = s.reqs ∧
      t.mem = memPut memKey s.mem pa (toBytes n (amoResult a.kind (8 * n) (s.rd pa n) (accValue a h))) ∧
      (∀ k, (∀ i, i < n → memKey (pa + i) ≠ k) → memGet t.mem k = memGet s.mem k) ∧
      (Claims.threadAt t tile.val th.val).map (fun x => (x.pc, x.xr a.rd)) = some (h.pc + a.ilen,
        if a.rd = 0 then 0 else ofInt 64 (toSigned (8 * n) (s.rd pa n))))

/-- TOP.FADD (R100, R110, R111): in the own scratchpad the lanes at the address become their sums and the old value goes to
rd; outside it, with rd x0, the add is deferred to commit. -/
def Obligations.FaddAtomics : Prop :=
  ∀ (s : State) (tile : Fin 48) (th : Fin 32) (c : TileCmd) (h : Thread), s.running? tile.val th.val = some (c, h) →
  ∀ (form : FaddForm) (rd rs1 rs2 : Fin 32) (u : State) (pa : Nat),
    let k := (faddKind form).1
    let n := (faddKind form).2
    h.xr rs1 % n = 0 → bits (h.xr rs1) 56 8 = 0 → s.coreAddr tile.val c (h.xr rs1) .atomic = (u, .ok pa) →
    inAperture pa = false → u.accStatus (.tile tile.val) .atomic pa n = Stat.ok →
  (∀ off, ownOff tile.val pa = some off →
    ∃ t, exec (.topFadd tile th form rd rs1 rs2) s = .next t ∧
      t.mem = memPut memKey s.mem pa (toBytes n (bankResult k n (s.rd pa n) (h.xr rs2))) ∧
      (∀ b, (∀ i, i < n → memKey (pa + i) ≠ b) → memGet t.mem b = memGet s.mem b) ∧ t.reqs = s.reqs ∧
      (Claims.threadAt t tile.val th.val).map (fun x => (x.pc, x.xr rd)) = some (h.pc + 4,
        if rd = 0 then 0 else ofInt 64 (toSigned (8 * n) (s.rd pa n)))) ∧
  (ownOff tile.val pa = none → rd = 0 → c.deferred.length < 4096 →
    ∃ t, exec (.topFadd tile th form rd rs1 rs2) s = .next t ∧ t.mem = s.mem ∧ t.reqs = s.reqs ∧
      Claims.threadAt t tile.val th.val = some (h.adv 4) ∧
      (t.cmd? tile.val).map (·.deferred) = some (c.deferred ++ [⟨k, pa, n, h.xr rs2⟩]))

/-- A tile as it stands but for the reservations of its command's threads. -/
def Claims.noResv (x : Tile) : Tile :=
  { x with cur := x.cur.map (fun c => { c with threads := Tbl.mapAll c.threads (fun h => { h with resv := none }) }) }

/-- The life of a tile command (R102, R105, R109, R114, R115, R117, R118). An operation whose work is done completes; the head
of an idle tile's queue that passes R114's checks enters RUNNING with its working region prepared and its threads started;
a command all of whose threads, operations and direct writes are over is ENDED, and with the last of its group's commands the
group is COMMITTING; a fault, and LIMIT_ACLK run out, fail the
command with their status and release its tile. -/
def Obligations.TileCommandLife : Prop :=
  (∀ (s : State) (tile : Fin 48) (h : Nat) (c : TileCmd) (o : Op), s.live = true → s.cmd? tile.val = some c → c.op? h = some o →
    o.phase = .executed →
    ∃ t, exec (.operationComplete tile h) s = .next t ∧ t = { s with tiles := t.tiles } ∧
      (t.cmd? tile.val).map (·.ops) = some (c.ops.map (fun o => if o.handle = h then { o with phase := .complete } else o)) ∧
      ∀ k, k ≠ tile.val → t.tile k = s.tile k) ∧
  (∀ (s : State) (tile : Fin 48) (d : Nat) (rest : List Nat), s.live = true → (s.tile tile.val).queue = d :: rest →
    (s.tile tile.val).cur = none → s.tilePowered tile.val = true → startStatus tile.val (s.tile tile.val) d = Stat.ok →
    cdProgram d < (s.tile tile.val).resBytes →
    ∃ t, exec (.commandStart tile) s = .next t ∧
      t.cmd? tile.val = some { desc := d, start := s.ltu, threads := startThreads d } ∧ (t.tile tile.val).queue = rest ∧
      (t.tile tile.val).resLock = true ∧ (t.tile tile.val).workTenant = cdTenant d ∧ (t.tile tile.val).workValid = true ∧
      (t.tag (cdTag d)).st = .running ∧ (∀ k, k ≠ tile.val → t.tile k = s.tile k) ∧ t.reqs = s.reqs ∧ t.rings = s.rings ∧
      t.fcl = s.fcl) ∧
  (∀ (s : State) (tile : Fin 48) (c : TileCmd), s.live = true → s.cmd? tile.val = some c → c.phase = .running →
    c.finished = true →
    let u := (s.updTile tile.val (fun x => { x with cur := some { c with phase := .ended } })).updTag (cdTag c.desc)
      (fun g => { g with st := .ended })
    let allOver := (∀ m ∈ (s.group (cdGroup c.desc)).members, (u.tag m).st = .ended) ∧
      ∀ k ∈ s.reqRegs.killBusy, k.1 ≠ cdGroup c.desc
    (¬ allOver → exec (.commandEnded tile) s = .next u) ∧
    (allOver → exec (.commandEnded tile) s = .next (u.enterCommit (cdGroup c.desc)))) ∧
  (∀ (s : State) (tile : Fin 48) (status : Nat) (c : TileCmd), s.live = true → faultStatus status = true →
    s.cmd? tile.val = some c → c.phase ≠ .committing → (s.group (cdGroup c.desc)).members = [cdTag c.desc] →
    (s.tag (cdTag c.desc)).tile = tile.val → (s.tag (cdTag c.desc)).st = .running →
    ∃ t, exec (.commandFail tile status) s = .next t ∧ (t.tile tile.val).cur = none ∧ (t.tile tile.val).resLock = false ∧
      (t.tile tile.val).failed = satAdd 16 (s.tile tile.val).failed 1 ∧ (t.tag (cdTag c.desc)).st = .failed ∧
      (t.tag (cdTag c.desc)).status = status ∧ (t.group (cdGroup c.desc)).status = status ∧
      ∀ k, k ≠ tile.val → Claims.noResv (t.tile k) = Claims.noResv (s.tile k)) ∧
  (∀ (s : State) (tile : Fin 48) (c : TileCmd), s.live = true → s.cmd? tile.val = some c → cdLimit c.desc ≠ 0 →
    cdLimit c.desc ≤ s.runAclk tile.val c → c.phase ≠ .committing →
    (s.group (cdGroup c.desc)).members = [cdTag c.desc] → (s.tag (cdTag c.desc)).tile = tile.val →
    (s.tag (cdTag c.desc)).st = .running →
    ∃ t, exec (.cmdOverrun tile) s = .next t ∧ (t.tile tile.val).cur = none ∧ (t.tile tile.val).resLock = false ∧
      (t.tag (cdTag c.desc)).st = .failed ∧ (t.tag (cdTag c.desc)).status = Stat.cmdOverrun ∧
      ∀ k, k ≠ tile.val → Claims.noResv (t.tile k) = Claims.noResv (s.tile k))

/-- The TILE registers and the drain count (R106, R109, R117, R120, R122, R378). RES_MIB is taken when the tile is idle with
an empty queue and the value is within the tile's range, and refused with CFG_REJECT otherwise. -/
def Obligations.TileRegisters : Prop :=
  (∀ (s : State) (tag : Fin 1024), s.live = true → (s.tag tag.val).drain ≠ 0 →
    let u := s.updTag tag.val (fun x => { x with drain := x.drain - 1 })
    let drained := (s.tag tag.val).held = true ∧ (s.tag tag.val).drain = 1 ∧
      ((s.tag tag.val).st = .committed ∨ (s.tag tag.val).st = .failed ∨ (s.tag tag.val).st = .killed)
    exec (.drainWriteComplete tag) s = .next (if drained then
      (if (s.tag tag.val).rerun then u.unpin tag.val else (u.unpin tag.val).updTag tag.val (fun x => { x with held := false }))
      else u)) ∧
  (∀ (s : State) (tile : Fin 48) (v : BitVec 32), s.live = true →
    ∃ t, exec (.tileCfgWrite tile v) s = .next t ∧ t = { s with tiles := t.tiles } ∧
      (∀ k, k ≠ tile.val → t.tile k = s.tile k) ∧
      t.tile tile.val = (if (s.tile tile.val).cur = none ∧ (s.tile tile.val).queue = [] ∧ bits v.toNat 0 6 ≤ resMax tile.val
        then { s.tile tile.val with
          resMib := bits v.toNat 0 6
          cfgReject := (s.tile tile.val).cfgReject && !(v.getLsbD 7)
          workValid := if (s.tile tile.val).resMib = bits v.toNat 0 6 then (s.tile tile.val).workValid else false }
        else { s.tile tile.val with cfgReject := true })) ∧
  (∀ (s : State) (tile : Fin 48), s.live = true →
    ∃ t, exec (.cmdcntClr tile) s = .next t ∧ t = { s with tiles := t.tiles } ∧ (∀ k, k ≠ tile.val → t.tile k = s.tile k) ∧
      t.tile tile.val = { s.tile tile.val with committed := 0, killed := 0, failed := 0 }) ∧
  (∀ (s : State) (tile : Fin 48), s.live = true →
    ∃ t, exec (.confClr tile) s = .next t ∧ t = { s with tiles := t.tiles } ∧ (∀ k, k ≠ tile.val → t.tile k = s.tile k) ∧
      t.tile tile.val = { s.tile tile.val with conf := [] })

/-- The bytes that codes of width `w` make at an own-window offset; the rest of a last partial byte keeps its bits. -/
def Claims.codeBytes (s : State) (tile off w : Nat) (cs : List Nat) : List Byte :=
  let nb := cdiv (cs.length * w) 8
  toBytes nb ((s.wrd tile off nb >>> (cs.length * w)) <<< (cs.length * w) + packWord w cs)

/-- Every byte outside the own-window ranges (offset, length) reads as before. -/
def Claims.outside (s t : State) (tile : Nat) (rs : List (Nat × Nat)) : Prop :=
  ∀ k, (∀ r ∈ rs, ∀ i, i < r.2 → memKey (tileBase tile + r.1 + i) ≠ k) → memGet t.mem k = memGet s.mem k

/-- An operation of a tile has done its work: only the tiles, memory and the draw counter may have changed, no other tile has,
and of its command's operations this one is executed. -/
def Claims.opRan (s t : State) (tile h : Nat) (c : TileCmd) : Prop :=
  t = { s with tiles := t.tiles, mem := t.mem, fresh := t.fresh } ∧ (∀ k, k ≠ tile → t.tile k = s.tile k) ∧
    (t.cmd? tile).map (·.ops) = some (c.ops.map (fun o => if o.handle = h then { o with phase := .executed } else o))

/-- It wrote one array of codes, and nothing else. -/
def Claims.wrote (s t : State) (tile h : Nat) (c : TileCmd) (off w : Nat) (cs : List Nat) : Prop :=
  Claims.opRan s t tile h c ∧
    t.mem = memPut memKey s.mem (tileBase tile + off) (Claims.codeBytes s tile off w cs) ∧
    Claims.outside s t tile [(off, cdiv (cs.length * w) 8)]

/-- It wrote two arrays of codes, the second after the first, and nothing else. -/
def Claims.wroteTwo (s t : State) (tile h : Nat) (c : TileCmd) (off w : Nat) (cs : List Nat) (off2 w2 : Nat) (cs2 : List Nat) :
    Prop :=
  Claims.opRan s t tile h c ∧
    t.mem = memPut memKey (memPut memKey s.mem (tileBase tile + off) (Claims.codeBytes s tile off w cs))
      (tileBase tile + off2) (Claims.codeBytes (s.putCodes tile off w cs) tile off2 w2 cs2) ∧
    Claims.outside s t tile [(off, cdiv (cs.length * w) 8), (off2, cdiv (cs2.length * w2) 8)]

/-- An operation `i` of opcode `opc` whose fields are not `ok`, or whose ranges have status `st`, fails its command, with no other
effect; one that is not at the head of its queue changes nothing (R103 to R107). -/
def Claims.turnedAway (s : State) (tile h opc : Nat) (ok : Prop) (st : Nat) (i : Instr) : Prop :=
  (s.engine? tile h opc = none → exec i s = .next s) ∧
  ∀ c o, s.engine? tile h opc = some (c, o) →
    (¬ok → exec i s = .next (s.failCmd tile Stat.opInvalid)) ∧ (ok → st ≠ Stat.ok → exec i s = .next (s.failAccess tile st))

/-- MM (R90, R94, R95, R104): an operation at the head of the matrix queue with valid fields and ranges computes its M x N
accumulator entries in the set ACC_IN selects, writes them converted at C_ADDR unless KEEP is set, and is executed. -/
def Obligations.MatrixMultiply : Prop :=
  ∀ (s : State) (tile : Fin 48) (h : Nat) (c : TileCmd) (o : Op) (x : MmOp), s.engine? tile.val h 0x01 = some (c, o) →
    mmFields o.desc = some x →
    extentStatus tile.val (s.tile tile.val).resBytes (x.reads tile.val) (x.writes tile.val) = Stat.ok →
    let y := s.tile tile.val
    let set := y.mmSet x.accIn
    let old := if set then y.acc1 else y.acc0
    let n := mmN tile.val
    ∃ t, exec (.mm tile h) s = .next t ∧ Claims.opRan s t tile.val h c ∧ (t.tile tile.val).accLast = set ∧
      (∀ i, i < x.m * n → Tbl.getD (if set then (t.tile tile.val).acc1 else (t.tile tile.val).acc0) i 0 =
        s.mmEntry tile.val x old (i / n) (i % n)) ∧
      (if set then (t.tile tile.val).acc0 = y.acc0 else (t.tile tile.val).acc1 = y.acc1) ∧
      (x.keep = true → t.mem = s.mem) ∧
      (x.keep = false → Claims.wrote s t tile.val h c x.cAddr x.fc.w
        ((List.range (x.m * n)).map (fun i => s.mmConv tile.val x (i % n) (s.mmEntry tile.val x old (i / n) (i % n)))))

/-- Elementwise operations and functions (R97): the results of each element, in order, at the destination. -/
def Obligations.VectorElementwise : Prop :=
  (∀ (s : State) (tile : Fin 48) (h : Nat) (c : TileCmd) (o : Op) (a : VewArgs) (f : Fmt),
    s.engine? tile.val h 0x10 = some (c, o) → fmtOf a.outFmt = some f → 0 < a.n → a.outFmt ≠ 0x0D → f.mx = false →
    extentStatus tile.val (s.tile tile.val).resBytes
      ([(a.a, vecBytes a.inBf16 a.n)] ++
        (if 2 ≤ vewInputs a.op then [(a.b, vecBytes a.inBf16 (if a.bScalar then 1 else a.n))] else []) ++
        (if 3 ≤ vewInputs a.op then [(a.c, vecBytes a.inBf16 (if a.cScalar then 1 else a.n))] else []))
      [(a.dst, cdiv (a.n * f.w) 8)] = Stat.ok →
    ∃ t, exec (.vew tile h a) s = .next t ∧ t.fresh = s.fresh ∧
      Claims.wrote s t tile.val h c a.dst f.w ((List.range a.n).map (fun i => f.enc
        (vewOne a.op (s.vecAt tile.val a.inBf16 a.a i) (s.vecAt tile.val a.inBf16 a.b (if a.bScalar then 0 else i))
          (s.vecAt tile.val a.inBf16 a.c (if a.cScalar then 0 else i)))))) ∧
  (∀ (s : State) (tile : Fin 48) (h : Nat) (c : TileCmd) (o : Op) (a : VfnArgs), s.engine? tile.val h 0x11 = some (c, o) →
    0 < a.n →
    extentStatus tile.val (s.tile tile.val).resBytes [(a.src, vecBytes a.inBf16 a.n)] [(a.dst, vecBytes a.outBf16 a.n)] = Stat.ok →
    ∃ t, exec (.vfn tile h a) s = .next t ∧ t.fresh = s.fresh ∧
      Claims.wrote s t tile.val h c a.dst (if a.outBf16 then 16 else 32)
        ((s.vecRow tile.val a.inBf16 a.src a.n).map (fun v => vecOut a.outBf16 (match a.op with
          | .exp => vexp (toF32 v)
          | .reciprocal => vrecip (toF32 v)
          | .rsqrt => vrsqrt (toF32 v))))) ∧
  (∀ (s : State) (tile : Fin 48) (h : Nat) (c : TileCmd) (o : Op) (a : QuantArgs) (f : Fmt),
    s.engine? tile.val h 0x15 = some (c, o) → fmtOf a.fmt = some f → f.mx = true → 0 < a.rows * a.n → a.n % 32 = 0 →
    extentStatus tile.val (s.tile tile.val).resBytes [(a.src, vecBytes a.inBf16 (a.rows * a.n))]
      [(a.dst, a.rows * a.n * f.w / 8), (a.dstScale, a.rows * a.n / 32)] = Stat.ok →
    let bs := (List.range (a.rows * a.n / 32)).map (fun b =>
      quantBlock f (((s.vecRow tile.val a.inBf16 a.src (a.rows * a.n)).drop (32 * b)).take 32))
    ∃ t, exec (.quantMx tile h a) s = .next t ∧ t.fresh = s.fresh ∧
      Claims.wroteTwo s t tile.val h c a.dst f.w (bs.map (·.2)).flatten a.dstScale 8 (bs.map (·.1))) ∧
  (∀ (s : State) (tile : Fin 48) (h : Nat) (c : TileCmd) (o : Op) (a : CompareArgs) (f : Fmt),
    s.engine? tile.val h 0x18 = some (c, o) → fmtOf a.fmt = some f →
    extentStatus tile.val (s.tile tile.val).resBytes ([(a.a, cdiv (a.n * f.w) 8), (a.b, cdiv (a.n * f.w) 8)] ++
      (if f.mx then [(a.aScale, cdiv a.n 32), (a.bScale, cdiv a.n 32)] else [])) [(a.dst, 8)] = Stat.ok →
    let bad := (List.range a.n).filter (fun i =>
      !(agree a.bound.toNat (s.elemAt tile.val f a.a a.aScale i) (s.elemAt tile.val f a.b a.bScale i)))
    ∃ t, exec (.compare tile h a) s = .next t ∧ t.fresh = s.fresh ∧
      Claims.wrote s t tile.val h c a.dst 32 [bad.length, bad.headD 0xFFFFFFFF])

/-- Reductions and normalisation (R91, R92, R97): one value for each row; a sum, an updated pair and accumulator, and a normalised
element, none of which the spec promises bit-exactly, are within the command's bound of the value the rule gives (`nearF32`, the
model's free value, log 9; the order of NORM's operations is the model's, log 31). Counts of 0 and ranges outside the scratchpad or in
the resident region fail the command. -/
def Obligations.VectorRows : Prop :=
  (∀ (s : State) (tile : Fin 48) (h : Nat) (c : TileCmd) (o : Op) (a : VredArgs), s.engine? tile.val h 0x12 = some (c, o) →
    0 < a.n → 0 < a.rows →
    extentStatus tile.val (s.tile tile.val).resBytes [(a.src, a.rows * vecBytes a.inBf16 a.n)] [(a.dst, 4 * a.rows)] = Stat.ok →
    let row := fun r => s.vecRow tile.val a.inBf16 (a.src + r * vecBytes a.inBf16 a.n) a.n
    ∃ t, exec (.vred tile h a) s = .next t ∧ t.fresh = s.fresh + 1 ∧
      Claims.wrote s t tile.val h c a.dst 32 ((List.range a.rows).map (fun r => match a.op with
        | .sum => nearF32 (cdBound c.desc) (s.fresh * 2 ^ 24 + r) (sum32 (row r))
        | .max => toF32 ((row r).foldl Sys2Proof.Machine.Num.max (.inf true))
        | .argmax => argmax (row r)))) ∧
  (∀ (s : State) (tile : Fin 48) (h : Nat) (c : TileCmd) (o : Op) (a : SoftmaxArgs), s.engine? tile.val h 0x13 = some (c, o) →
    0 < a.n →
    extentStatus tile.val (s.tile tile.val).resBytes [(a.score, 4 * a.n)] [(a.pair, 8), (a.acc, 4 * a.accN)] = Stat.ok →
    let x := (s.vecRow tile.val false a.score a.n).map toF32
    let m := s.wrd tile.val a.pair 4
    let l := s.wrd tile.val (a.pair + 4) 4
    let m' := toF32 ((x.map f32).foldl Sys2Proof.Machine.Num.max (f32 m))
    let near := nearF32 (cdBound c.desc)
    ∃ t, exec (.softmaxOnline tile h a) s = .next t ∧ t.fresh = s.fresh + 1 ∧
      Claims.wroteTwo s t tile.val h c
        a.pair 32 [m', near (s.fresh * 2 ^ 24) ((x.map (fun v => expDiff v m')).foldl fadd32 (fmul32 l (expDiff m m')))]
        a.acc 32 ((s.vecRow tile.val false a.acc a.accN).mapIdx (fun i v =>
          near (s.fresh * 2 ^ 24 + 1 + i) (fmul32 (toF32 v) (expDiff m m'))))) ∧
  (∀ (s : State) (tile : Fin 48) (h : Nat) (c : TileCmd) (o : Op) (a : NormArgs), s.engine? tile.val h 0x14 = some (c, o) →
    0 < a.n → 0 < a.rows →
    extentStatus tile.val (s.tile tile.val).resBytes ([(a.src, a.rows * vecBytes a.inBf16 a.n), (a.gain, 4 * a.n)] ++
      a.bias.toList.map (fun b => (b, 4 * a.n))) [(a.dst, a.rows * vecBytes a.outBf16 a.n)] = Stat.ok →
    let gain := s.vecRow tile.val false a.gain a.n
    let bias := match a.bias with
      | some b => s.vecRow tile.val false b a.n
      | none => List.replicate a.n (.fin true 0 0)
    let ref := (List.range a.rows).flatMap (fun r =>
      normRow a.layer (s.vecRow tile.val a.inBf16 (a.src + r * vecBytes a.inBf16 a.n) a.n) gain bias a.eps.toNat)
    ref.length = a.rows * a.n ∧
    ∃ t, exec (.norm tile h a) s = .next t ∧ t.fresh = s.fresh + 1 ∧
      Claims.wrote s t tile.val h c a.dst (if a.outBf16 then 16 else 32)
        (ref.mapIdx (fun i v => vecOut a.outBf16 (nearF32 (cdBound c.desc) (s.fresh * 2 ^ 24 + i) v)))) ∧
  (∀ (s : State) (tile : Fin 48) (h : Nat) (a : VredArgs), Claims.turnedAway s tile.val h 0x12 (0 < a.n ∧ 0 < a.rows)
    (extentStatus tile.val (s.tile tile.val).resBytes [(a.src, a.rows * vecBytes a.inBf16 a.n)] [(a.dst, 4 * a.rows)])
    (.vred tile h a)) ∧
  (∀ (s : State) (tile : Fin 48) (h : Nat) (a : SoftmaxArgs), Claims.turnedAway s tile.val h 0x13 (0 < a.n)
    (extentStatus tile.val (s.tile tile.val).resBytes [(a.score, 4 * a.n)] [(a.pair, 8), (a.acc, 4 * a.accN)])
    (.softmaxOnline tile h a)) ∧
  (∀ (s : State) (tile : Fin 48) (h : Nat) (a : NormArgs), Claims.turnedAway s tile.val h 0x14 (0 < a.n ∧ 0 < a.rows)
    (extentStatus tile.val (s.tile tile.val).resBytes ([(a.src, a.rows * vecBytes a.inBf16 a.n), (a.gain, 4 * a.n)] ++
      a.bias.toList.map (fun b => (b, 4 * a.n))) [(a.dst, a.rows * vecBytes a.outBf16 a.n)]) (.norm tile h a))

/-- The sampler, tree acceptance and the attention bias (R97 to R99, R139 to R144, R146). SAMPLE draws a token from R98's distribution
and reports its log-probability; ACCEPT walks the draft tree; each writes its results and adds its tokens to the command's list. The
random numbers and ACCEPT's log-probabilities are the model's free values (log 10). ATTN_BIAS adds to each score the bias that its
position's table entry names, with or without an ancestor matrix. Fields out of range and bad ranges fail the command. -/
def Obligations.SamplerAndBias : Prop :=
  (∀ (s : State) (tile : Fin 48) (h : Nat) (c : TileCmd) (o : Op) (a : SampleArgs), s.engine? tile.val h 0x16 = some (c, o) →
    SampleParams.ok a.p a.v = true →
    extentStatus tile.val (s.tile tile.val).resBytes ((a.logits, 4 * a.v) :: a.bias.map (fun b => (b, 2 * a.v)))
      [(a.dstTok, 4), (a.dstLp, 4)] = Stat.ok →
    let ws := targetDist a.p (s.logitRow tile.val a.v a.logits a.bias)
    let tok := drawFrom s.fresh a.v ws
    let lp := lpOf (cdBound c.desc) s.fresh a.p ws tok
    ((f32 a.p.temp.toNat).isZero = true → ws = [(argmax (s.logitRow tile.val a.v a.logits a.bias), Sys2Proof.Machine.Num.fin false 1 0)]) ∧
    ∃ t, exec (.sample tile h a) s = .next t ∧ t.fresh = s.fresh + 1 ∧
      (t.cmd? tile.val).map (·.lps) = some (c.lps ++ [(tok, lp, false)]) ∧
      Claims.wroteTwo s t tile.val h c a.dstTok 32 [tok] a.dstLp 32 [lp]) ∧
  (∀ (s : State) (tile : Fin 48) (h : Nat) (c : TileCmd) (o : Op) (a : AcceptArgs), s.engine? tile.val h 0x17 = some (c, o) →
    AcceptArgs.treeOk a = true → SampleParams.ok a.p a.v = true → (∀ x ∈ a.tokens, x < a.v) →
    extentStatus tile.val (s.tile tile.val).resBytes ([(a.logits, (a.parents.length + 1) * (4 * a.v))] ++
      a.bias.map (fun b => (b, 2 * a.v)) ++ (if a.greedy then [] else
        [(a.draft, ((List.range a.parents.length).filter (fun i => a.parents.contains i)).length * (2 * a.v))]))
      [(a.outTok, 4 * (a.parents.length + 2)), (a.outPath, 4 * (a.parents.length + 1))] = Stat.ok →
    let z := fun node => s.logitRow tile.val a.v (a.logits + node * (4 * a.v)) a.bias
    let r := acceptFrom a
      (fun node => if a.greedy then [(argmax (z node), Sys2Proof.Machine.Num.fin false 1 0)] else targetDist a.p (z node))
      (fun node x => s.vecAt tile.val true (a.draft + AcceptArgs.draftRow a node * (2 * a.v)) x) a.parents.length 0 (s.fresh * 64)
    let toks := r.1
    let path := r.2.1
    toks.length = path.length + 1 ∧ path.length ≤ a.parents.length ∧
    ∃ t, exec (.accept tile h a) s = .next t ∧ t.fresh = s.fresh + 1 ∧
      (t.cmd? tile.val).map (·.lps) = some (c.lps ++ (List.range toks.length).map (fun k =>
        (nth toks k 0, (Config.logProb (s.fresh * 64 + 32 + k)).toNat, decide (k < path.length)))) ∧
      Claims.wroteTwo s t tile.val h c a.outTok 32 (toks.length :: toks) a.outPath 32 (path.length :: path)) ∧
  (∀ (s : State) (tile : Fin 48) (h : Nat) (c : TileCmd) (o : Op), s.engine? tile.val h 0x19 = some (c, o) →
    let d := o.desc
    let score := fun r => fld d 0x10 4 + r * fld d 0x30 2 * 128
    let tbl := fld d 0x18 4
    let ovl := fld d 0x1C 4
    let anc := fld d 0x20 4
    let kpos0 := fld d 0x24 4
    let rows := fld d 0x2C 2
    let cols := fld d 0x2E 2
    let head := fld d 0x32 1
    let node0 := fld d 0x34 1
    let base := if anc = 0 then 2 ^ 32 else fld d 0x28 4
    1 ≤ rows → rows ≤ 1024 → 1 ≤ cols → cols ≤ 8192 → cdiv (cols * 4) 128 ≤ fld d 0x30 2 → head < 128 → fld d 0x35 9 = 0 →
    (anc ≠ 0 → node0 + rows ≤ 17 ∧ (base < kpos0 + cols → kpos0 + cols - 1 - base ≤ 16)) →
    extentStatus tile.val (s.tile tile.val).resBytes ([(fld d 0x14 4, 4 * rows), (tbl, 65536)] ++
      (if ovl = 0 then [] else [(ovl, 65536)]) ++ (if anc = 0 then [] else [(anc, 289)]))
      [(fld d 0x10 4, (rows - 1) * fld d 0x30 2 * 128 + 4 * cols)] = Stat.ok →
    let entry := fun r j => biasEntry base (fld d 0x33 1) (s.wrd tile.val (fld d 0x14 4 + 4 * r) 4) (kpos0 + j)
      (fun k => s.wrd tile.val (anc + 17 * (node0 + r) + k) 1)
    let bias : Nat → Nat → Sys2Proof.Machine.Num := fun r j => if entry r j = 255 then .inf true
      else s.vecAt tile.val true (if ovl ≠ 0 ∧ 184 ≤ entry r j then ovl + head * 512 else tbl + head * 512) (entry r j)
    ∃ t, exec (.attnBias tile h) s = .next t ∧ t.fresh = s.fresh ∧ Claims.opRan s t tile.val h c ∧
      t.mem = ((List.range rows).foldl (fun (u : State) r => u.putCodes tile.val (score r) 32
        ((List.range cols).map (fun j => toF32 ((f32 (s.wrd tile.val (score r + 4 * j) 4)).add (bias r j))))) s).mem ∧
      Claims.outside s t tile.val ((List.range rows).map (fun r => (score r, 4 * cols)))) ∧
  (∀ (s : State) (tile : Fin 48) (h : Nat) (a : SampleArgs), Claims.turnedAway s tile.val h 0x16 (SampleParams.ok a.p a.v = true)
    (extentStatus tile.val (s.tile tile.val).resBytes ((a.logits, 4 * a.v) :: a.bias.map (fun b => (b, 2 * a.v)))
      [(a.dstTok, 4), (a.dstLp, 4)]) (.sample tile h a)) ∧
  (∀ (s : State) (tile : Fin 48) (h : Nat) (a : AcceptArgs), Claims.turnedAway s tile.val h 0x17
    (AcceptArgs.treeOk a = true ∧ SampleParams.ok a.p a.v = true ∧ ∀ x ∈ a.tokens, x < a.v)
    (extentStatus tile.val (s.tile tile.val).resBytes ([(a.logits, (a.parents.length + 1) * (4 * a.v))] ++
      a.bias.map (fun b => (b, 2 * a.v)) ++ (if a.greedy then [] else
        [(a.draft, ((List.range a.parents.length).filter (fun i => a.parents.contains i)).length * (2 * a.v))]))
      [(a.outTok, 4 * (a.parents.length + 2)), (a.outPath, 4 * (a.parents.length + 1))]) (.accept tile h a)) ∧
  (∀ (s : State) (tile : Fin 48) (h : Nat) (c : TileCmd) (o : Op),
    (s.engine? tile.val h 0x19 = none → exec (.attnBias tile h) s = .next s) ∧
    (s.engine? tile.val h 0x19 = some (c, o) → fld o.desc 0x2C 2 = 0 ∨ 1024 < fld o.desc 0x2C 2 ∨ fld o.desc 0x2E 2 = 0 ∨
        8192 < fld o.desc 0x2E 2 ∨ fld o.desc 0x30 2 < cdiv (fld o.desc 0x2E 2 * 4) 128 ∨ 128 ≤ fld o.desc 0x32 1 ∨
        fld o.desc 0x35 9 ≠ 0 ∨ (fld o.desc 0x20 4 ≠ 0 ∧ 17 < fld o.desc 0x34 1 + fld o.desc 0x2C 2) →
      exec (.attnBias tile h) s = .next (s.failCmd tile.val Stat.opInvalid)))

/-- The program that a channel takes for an operation: its parameter block and page list are loaded into the operand buffer (R164). -/
def Claims.program (s : State) (ch : Nat) (c : TileCmd) (o : Op) : BauProg :=
  let t := btileOfChan ch
  { tile := t, handle := o.handle, tag := cdTag c.desc, tenant := cdTenant c.desc, start := s.ltu, shadow := cdShadow c.desc,
    desc := o.desc
    param := if buOp o.desc = 1 then s.wbytes t (atParam o.desc) (atParamBytes o.desc) else []
    pages := if buOp o.desc = 1 then s.pageList t o.desc (ch % 8) else []
    units := if buOp o.desc = 1 then 0 else mvUnits o.desc }

/-- The modes of a channel (R165 to R172). A channel in MEMORY with nothing held takes the operation at the head of its queue: it
enters the program when R181's and R184's rules and the ownership of its plots allow it, writes the empty record of an ATTEND
without pages, and fails the command otherwise. A channel whose program is over chains the next one, or exits and serves what was
held, in order. An access that arrives meanwhile is held; one held longer than 100 us completes poisoned. -/
def Obligations.ChannelModes : Prop :=
  (∀ (s : State) (ch : Fin 128) (c : TileCmd) (o : Op), s.live = true → (s.chan ch.val).mode = .memory →
    (s.chan ch.val).hold = [] → s.bauNext ch.val = some (c, o) →
    let t := btileOfChan ch.val
    let st := s.bauStatus t o.desc ch.val
    let empty := buOp o.desc = 1 ∧ s.listCount t o.desc (ch.val % 8) = 0
    let p := Claims.program s ch.val c o
    let rs := if buOp o.desc = 1 then p.pages.map pePlot else (mvReads o.desc).flatMap (fun r => plotsOf r.1 r.2)
    let ws := if buOp o.desc = 1 then [] else (mvWrites o.desc).flatMap (fun r => plotsOf r.1 r.2)
    let bad := ∃ q ∈ rs ++ ws, ownCheckOk (s.ownEntry ch.val q) = false
    let own := (∀ q ∈ rs, s.ownOk ch.val p.tenant q false = true) ∧ ∀ q ∈ ws, s.ownOk ch.val p.tenant q true = true
    let u := s.updChan ch.val (fun k => { k with mode := .processor, prog := some p })
    (st ≠ Stat.ok → exec (.channelEnter ch) s = .next (s.failAccess t st)) ∧
    (st = Stat.ok → empty → exec (.channelEnter ch) s = .next
      ((s.placeBytes (tileBase t + atRet o.desc (ch.val % 8)) (emptyRecord o.desc)).chanDone t o.handle (ch.val % 8))) ∧
    (st = Stat.ok → ¬ empty → own → exec (.channelEnter ch) s = .next u) ∧
    (st = Stat.ok → ¬ empty → ¬ own → ¬ bad → exec (.channelEnter ch) s = .next (u.failAccess t Stat.accessDenied)) ∧
    (st = Stat.ok → ¬ empty → ¬ own → bad → exec (.channelEnter ch) s = .next
      (((u.tableCheck (dieOfChan ch.val)).raise (0x240 + 0x20 * (ch.val / 16) + 0x10)).failAccess t Stat.accessDenied))) ∧
  (∀ (s : State) (ch : Fin 128), s.live = true → (s.chan ch.val).prog = none →
    ((s.chan ch.val).mode = .exiting ∨ ((s.chan ch.val).mode = .processor ∧ s.bauNext ch.val = none)) →
    exec (.channelExit ch) s = .next ((s.updChan ch.val (fun k => { k with mode := .memory })).serveHold ch.val)) ∧
  (∀ (s : State) (ch : Fin 128) (c : TileCmd) (o : Op), s.live = true → (s.chan ch.val).prog = none →
    (s.chan ch.val).mode = .processor → s.bauNext ch.val = some (c, o) →
    exec (.channelExit ch) s = .next (if (s.chan ch.val).hold = [] ∧ (s.chan ch.val).fenced = false ∧ (s.chan ch.val).disable = false
      then s.bauEnter ch.val c o else (s.updChan ch.val (fun k => { k with mode := .memory })).serveHold ch.val)) ∧
  (∀ (s : State) (ch : Fin 128), s.live = true → (s.chan ch.val).prog = none → (s.chan ch.val).mode = .exiting →
    (s.chan ch.val).hold = [] → (s.lnd 0).msfIn = [] → (s.lnd 1).msfIn = [] →
    ∃ t, exec (.channelExit ch) s = .next t ∧ t = { s with chans := t.chans, fab := t.fab } ∧
      t.chan ch.val = { s.chan ch.val with mode := .memory } ∧ ∀ k, k ≠ ch.val → t.chan k = s.chan k) ∧
  (∀ (s : State) (ch : Fin 128) (a : HeldAcc), s.live = true → (s.chan ch.val).mode ≠ .memory → a.who = .nobody →
    a.off + Nat.max a.len a.data.length ≤ 0x100000000 →
    ∃ t, exec (.holdAccess ch a) s = .next t ∧ t = { s with chans := t.chans } ∧
      (∀ k, k ≠ ch.val → t.chan k = s.chan k) ∧
      t.chan ch.val = { s.chan ch.val with
        hold := (s.chan ch.val).hold ++ [⟨a, s.ltu⟩]
        held := if (s.chan ch.val).hold.length < 64 then satAdd 32 (s.chan ch.val).held 1 else (s.chan ch.val).held }) ∧
  (∀ (s : State) (ch : Fin 128) (h : Held) (rest : List Held), s.live = true → (s.chan ch.val).mode ≠ .memory →
    (s.chan ch.val).hold = h :: rest → h.since + 10000 < s.ltu →
    ∃ u : State, u = { s with chans := u.chans } ∧ (∀ k, k ≠ ch.val → u.chan k = s.chan k) ∧
      u.chan ch.val = { s.chan ch.val with
        maxWait := Nat.min 65535 (Nat.max (s.chan ch.val).maxWait ((s.ltu - h.since) / 10))
        hold := if 64 ≤ rest.length then shiftHold s.ltu rest else rest
        held := if 64 ≤ rest.length then satAdd 32 (s.chan ch.val).held 1 else (s.chan ch.val).held
        holdTimeout := satAdd 16 (s.chan ch.val).holdTimeout 1 } ∧
      exec (.holdWatchdog ch) s = .next ((u.performHeld ch.val h.acc true).raise (0x240 + 0x20 * (ch.val / 16) + ch.val % 16)) ∧
      (h.acc.who = .nobody → u.performHeld ch.val h.acc true = u) ∧
      ∀ tl th a, h.acc.who = .thread tl th a → u.performHeld ch.val h.acc true = u.failCmd tl.val Stat.poisoned)

/-- What the end of a channel's program leaves when `n` units of its reads were corrected (R167, R183, R192, R391): the program is
gone and counted, its bytes read and written and its time are charged, its channel stays as it was until it exits or chains, its
operation is executed when this was the last channel of its mask. -/
def Claims.programOver (s t : State) (ch : Nat) (p : BauProg) (o : Op) (n rd wr : Nat) : Prop :=
  t = { s with fresh := t.fresh, mem := t.mem, tiles := t.tiles, chans := t.chans, acct := t.acct, feed := t.feed } ∧
    (∀ k, k ≠ ch → t.chan k = s.chan k) ∧
    t.chan ch = { s.chan ch with
      prog := none
      programs := satAdd 32 (s.chan ch).programs 1
      eccCorrected := satAdd 32 (s.chan ch).eccCorrected n
      busyAclk := satAdd 64 (s.chan ch).busyAclk (8 * (s.ltu - p.start)) } ∧
    t.acct = ((s.countBau p rd wr).chargeProg ch p).acct ∧ t.feed = ((s.countBau p rd wr).chargeProg ch p).feed ∧
    (t.cmd? p.tile).map (fun x => x.op? o.handle) = (s.cmd? p.tile).map (fun x => (x.op? o.handle).map (fun o =>
      { o with
        chDone := o.chDone ||| BitVec.ofNat 8 (2 ^ (ch % 8))
        phase := if buMask o.desc &&& (o.chDone ||| BitVec.ofNat 8 (2 ^ (ch % 8))).toNat = buMask o.desc then .executed
          else o.phase }))

/-- A program one of whose reads could not be corrected (R183): `n` units were corrected and one not, which is counted and raised;
the program is to stop, and its command fails with POISONED. -/
def Claims.programPoisoned (s : State) (ch : Nat) (p : BauProg) (n : Nat) : State :=
  let u := s.updChan ch (fun k => { k with eccCorrected := satAdd 32 k.eccCorrected n, eccUncorrected := satAdd 32 k.eccUncorrected 1 })
  ((u.stopProg ch).raise (0x240 + 0x20 * (ch / 16) + 0x11)).failCmd p.tile Stat.poisoned

/-- The BAU's operations (R177, R180 to R183, R192): COPY, QUANTISE and ZERO write their destination within the channel and no
other byte; ATTEND returns its record to the B-tile (elements within the command's bound of R180's sequence are the model's free
values, log 9); an uncorrectable read stops the program instead. -/
def Obligations.BauOperations : Prop :=
  (∀ (s : State) (ch : Fin 128) (p : BauProg) (c : TileCmd) (o : Op) (n : Nat), s.program? ch.val 2 = some (p, c, o) →
    let d := p.desc
    exec (.bauCopy ⟨ch, .bad n⟩) s = .next (Claims.programPoisoned s ch.val p n) ∧
    ∃ t, exec (.bauCopy ⟨ch, .good n⟩) s = .next t ∧ Claims.programOver s t ch.val p o n (mvLen d) (mvLen d) ∧ t.fresh = s.fresh ∧
      t.mem = memPut memKey s.mem (aliasAddr ch.val (mvDst d)) (s.bytes (aliasAddr ch.val (mvSrc d)) (mvLen d)) ∧
      (∀ k, (∀ i, i < mvLen d → memKey (aliasAddr ch.val (mvDst d) + i) ≠ k) → memGet t.mem k = memGet s.mem k)) ∧
  (∀ (s : State) (ch : Fin 128) (p : BauProg) (c : TileCmd) (o : Op) (n : Nat) (f : Fmt), s.program? ch.val 3 = some (p, c, o) →
    fmtOf (mvDstFmt p.desc) = some f →
    let d := p.desc
    let vs := (List.range (mvLen d)).map (fun i =>
      if mvSrcFmt d = 0x0B then bf16 (s.rd (aliasAddr ch.val (mvSrc d) + 2 * i) 2)
      else f32 (s.rd (aliasAddr ch.val (mvSrc d) + 4 * i) 4))
    let bs := (List.range (mvLen d / 32)).map (fun b => quantBlock f ((vs.drop (32 * b)).take 32))
    let els := packAll f.w (if f.mx then (bs.map (·.2)).flatten else vs.map f.enc)
    let scales := if f.mx then packAll 8 (bs.map (·.1)) else []
    exec (.bauQuantise ⟨ch, .bad n⟩) s = .next (Claims.programPoisoned s ch.val p n) ∧
    ∃ t, exec (.bauQuantise ⟨ch, .good n⟩) s = .next t ∧
      Claims.programOver s t ch.val p o n (mvSrcLen d) (els.length + scales.length) ∧ t.fresh = s.fresh ∧
      t.mem = memPut memKey (memPut memKey s.mem (aliasAddr ch.val (mvDst d)) els) (aliasAddr ch.val (mvScl d)) scales ∧
      (∀ k, (∀ i, i < els.length → memKey (aliasAddr ch.val (mvDst d) + i) ≠ k) →
        (∀ i, i < scales.length → memKey (aliasAddr ch.val (mvScl d) + i) ≠ k) → memGet t.mem k = memGet s.mem k)) ∧
  (∀ (s : State) (ch : Fin 128) (p : BauProg) (c : TileCmd) (o : Op) (n : Nat), s.program? ch.val 4 = some (p, c, o) →
    let d := p.desc
    exec (.bauZero ⟨ch, .bad n⟩) s = .next (Claims.programPoisoned s ch.val p n) ∧
    ∃ t, exec (.bauZero ⟨ch, .good n⟩) s = .next t ∧ Claims.programOver s t ch.val p o n 0 (mvLen d) ∧ t.fresh = s.fresh ∧
      t.mem = memPut memKey s.mem (aliasAddr ch.val (mvDst d)) (List.replicate (mvLen d) 0#8) ∧
      (∀ k, (∀ i, i < mvLen d → memKey (aliasAddr ch.val (mvDst d) + i) ≠ k) → memGet t.mem k = memGet s.mem k)) ∧
  (∀ (s : State) (ch : Fin 128) (p : BauProg) (c : TileCmd) (o : Op) (n : Nat), s.program? ch.val 1 = some (p, c, o) →
    let ret := tileBase p.tile + atRet p.desc (ch.val % 8)
    let record := s.attendRecord ch.val p (cdBound c.desc)
    exec (.attend ⟨ch, .bad n⟩) s = .next (Claims.programPoisoned s ch.val p n) ∧
    ∃ t, exec (.attend ⟨ch, .good n⟩) s = .next t ∧ Claims.programOver s t ch.val p o n p.kvBytes 0 ∧ t.fresh = s.fresh + 1 ∧
      t.mem = memPut memKey s.mem ret record ∧
      (∀ k, (∀ i, i < record.length → memKey (ret + i) ≠ k) → memGet t.mem k = memGet s.mem k))

/-- A program that overruns or is stopped (R171, R172, R185): after 64 us the channel counts it, its program is to stop and
its command fails; a program that is to stop is abandoned: no record is written, what it had written lands (how much is the model's
free value, log 11), its time is charged, the channel is EXITING, and its writes leave its tag's drain count. -/
def Obligations.BauStops : Prop :=
  (∀ (s : State) (ch : Fin 128) (p : BauProg), s.live = true → (s.chan ch.val).prog = some p → p.stopping = false →
    p.start + 6400 < s.ltu →
    ∃ u : State, u = { s with chans := u.chans, fresh := s.fresh + 1 } ∧ (∀ k, k ≠ ch.val → u.chan k = s.chan k) ∧
      u.chan ch.val = { s.chan ch.val with
        overrun := satAdd 16 (s.chan ch.val).overrun 1
        prog := some { p with
          stopping := true
          written := Config.bauWritten s.fresh % (p.units + 1)
          flying := Config.bauFlying s.fresh % (Nat.min (Config.bauWritten s.fresh % (p.units + 1)) 255 + 1) } } ∧
      exec (.bauOverrun ch) s = .next (u.failCmd p.tile Stat.bauOverrun)) ∧
  (∀ (s : State) (ch : Fin 128) (p : BauProg), s.live = true → (s.chan ch.val).prog = some p → p.stopping = true →
    let u := if buOp p.desc = 1 then s else s.moveLand ch.val p.desc p.written
    ∃ v : State, v = { u with chans := v.chans, acct := (u.chargeProg ch.val p).acct, feed := (u.chargeProg ch.val p).feed } ∧
      (∀ k, k ≠ ch.val → v.chan k = s.chan k) ∧
      v.chan ch.val = { s.chan ch.val with
        prog := none
        mode := .exiting
        busyAclk := satAdd 64 (s.chan ch.val).busyAclk (8 * (s.ltu - p.start)) } ∧
      exec (.bauProgramStop ch) s = .next
        ((v.updTag p.tag (fun x => { x with drain := x.drain - p.flying })).freeTag p.tag))

/-- The HBMC and BAU registers (R173, R189, R190, R195, R196). -/
def Obligations.HbmRegisters : Prop :=
  (∀ (s : State) (ch : Fin 128), s.live = true →
    ∃ t, exec (.ownCmdGo ch) s = .next t ∧ t = { s with chans := t.chans } ∧ (∀ k, k ≠ ch.val → t.chan k = s.chan k) ∧
      t.chan ch.val = (if (s.chan ch.val).ownBusy = true ∨ 65535 < (s.chan ch.val).ownFirst + (s.chan ch.val).ownCountM1
        then { s.chan ch.val with ownReject := true } else { s.chan ch.val with ownBusy := true })) ∧
  (∀ (s : State) (ch : Fin 128), s.live = true → (s.chan ch.val).ownBusy = true → (s.chan ch.val).prog = none →
    ∃ t, exec (.ownWriteDone ch) s = .next t ∧ t = { s with chans := t.chans } ∧ (∀ k, k ≠ ch.val → t.chan k = s.chan k) ∧
      t.chan ch.val = { s.chan ch.val with ownBusy := false, ownDone := true, owner := (t.chan ch.val).owner } ∧
      (∀ i, i ≤ (s.chan ch.val).ownCountM1 →
        t.ownEntry ch.val ((s.chan ch.val).ownFirst + i) = ownEntryOf (s.chan ch.val).ownValue) ∧
      (∀ p, (p < (s.chan ch.val).ownFirst ∨ (s.chan ch.val).ownFirst + (s.chan ch.val).ownCountM1 < p) →
        t.ownEntry ch.val p = s.ownEntry ch.val p)) ∧
  (∀ (s : State) (stack : Fin 8) (mask : BitVec 16), s.live = true →
    ∃ t, exec (.bauUnfence stack mask) s = .next t ∧ t = { s with chans := t.chans } ∧
      (∀ i, i < 16 → t.chan (16 * stack.val + i) =
        (if mask.getLsbD i = true ∧ (s.chan (16 * stack.val + i)).mode = .memory
          then { s.chan (16 * stack.val + i) with fenced := false } else s.chan (16 * stack.val + i))) ∧
      ∀ k, (k < 16 * stack.val ∨ 16 * stack.val + 16 ≤ k) → t.chan k = s.chan k) ∧
  (∀ (s : State) (stack : Fin 8), s.live = true →
    ∃ t, exec (.hbmcStatClr stack) s = .next t ∧ t = { s with chans := t.chans } ∧
      (∀ i, i < 16 → t.chan (16 * stack.val + i) = { s.chan (16 * stack.val + i) with held := 0, maxWait := 0, programs := 0, overrun := 0, holdTimeout := 0 }) ∧
      ∀ k, (k < 16 * stack.val ∨ 16 * stack.val + 16 ≤ k) → t.chan k = s.chan k) ∧
  (∀ (s : State) (ch : Fin 128), s.live = true →
    ∃ t, exec (.bauCntClr ch) s = .next t ∧ t = { s with chans := t.chans } ∧ (∀ k, k ≠ ch.val → t.chan k = s.chan k) ∧
      t.chan ch.val = { s.chan ch.val with busyAclk := 0, eccCorrected := 0, eccUncorrected := 0 }) ∧
  (∀ (s : State) (stack : Fin 8) (mask : BitVec 16), s.live = true →
    ∃ t, exec (.hbmcBauDisableWrite stack mask) s = .next t ∧ t = { s with chans := t.chans } ∧
      (∀ i, i < 16 → t.chan (16 * stack.val + i) = { s.chan (16 * stack.val + i) with disable := mask.getLsbD i }) ∧
      ∀ k, (k < 16 * stack.val ∨ 16 * stack.val + 16 ≤ k) → t.chan k = s.chan k)

/-- FREE, MOVE and the end of a copy (R202 to R210): FREE takes a page that no command can reach and no other operation of the
tier manager touches, or a slot's plot that no command uses, its leaf EMPTY and its place given back; MOVE of a request's page
takes a record, its leaf becomes MOVING and its range is invalidated, and a model slot's plot does not move; when the copy ends
the plot's place is the destination, or the source again when the copy failed, and a plot whose source is lost is lost. -/
def Obligations.TierMoves : Prop :=
  (∀ (s : State) (asid : BitVec 16) (vpn i page : Nat) (p : Place), s.live = true → s.inMove asid.toNat vpn = false →
    s.pageReq asid.toNat vpn = some (i, page, p) → Tbl.find? (s.req i).pages page = some p → s.reqNamed i = false →
    s.tierBusy i = false → p ≠ .holder →
    ∃ t, exec (.tierFree asid vpn) s = .next t ∧
      t = (((s.setPage (s.req i).seq.asid ((s.req i).seq.vpn page) leafEmpty).updReq i
        (fun r => { r with pages := Tbl.del r.pages page })).givePlot p).credit (s.req i).tenant p.tier ∧
      t.reqs = (s.updReq i (fun r => { r with pages := Tbl.del r.pages page })).reqs ∧
      nth (t.tenant (s.req i).tenant).used p.tier 0 =
        (if p.tier < (s.tenant (s.req i).tenant).used.length then nth (s.tenant (s.req i).tenant).used p.tier 0 - 1 else 0)) ∧
  (∀ (s : State) (asid : BitVec 16) (vpn k : Nat) (p : Place), s.live = true → s.inMove asid.toNat vpn = false →
    s.pageReq asid.toNat vpn = none → s.pageSlot asid.toNat vpn = some (k, p) → Tbl.find? (s.slot k).plots vpn = some p →
    s.slotNamed k = false → p ≠ .holder →
    ∃ t, exec (.tierFree asid vpn) s = .next t ∧
      t = (((s.setPage (s.tenant (s.slot k).tenant).asid vpn leafEmpty).updSlot k
        (fun m => { m with plots := Tbl.del m.plots vpn })).givePlot p).credit (s.slot k).tenant p.tier ∧
      t.reqs = s.reqs ∧ t.slot k = { s.slot k with plots := Tbl.del (s.slot k).plots vpn }) ∧
  (∀ (s : State) (asid : BitVec 16) (vpn : Nat), s.live = true → (s.inMove asid.toNat vpn = true ∨
    ∃ i page p, s.pageReq asid.toNat vpn = some (i, page, p) ∧ (s.reqNamed i = true ∨ s.tierBusy i = true ∨ p = .holder)) →
    exec (.tierFree asid vpn) s = .next s) ∧
  (∀ (s u : State) (asid : BitVec 16) (vpn i page : Nat) (tier : Tier) (p d : Place), s.live = true → s.atu.invBusy = none →
    s.inMove asid.toNat vpn = false → s.pageReq asid.toNat vpn = some (i, page, p) → s.moveDst i page p = some (u, d) →
    d.tier = tierCode tier →
    exec (.tierMove asid vpn tier) s = .next (u.beginMove
      { stage := .first, asid := asid.toNat, vpn := vpn, req := i, page := page, src := p, dst := d })) ∧
  (∀ (s : State) (asid : BitVec 16) (vpn : Nat) (tier : Tier), s.live = true → s.pageReq asid.toNat vpn = none →
    exec (.tierMove asid vpn tier) s = .next s) ∧
  (∀ (s : State) (m : MoveRec), s.live = true → s.atu.invBusy = none →
    ∃ t, t = s.beginMove m ∧ t.pools.moves = m :: s.pools.moves ∧ t.atu.invBusy = some (.range m.asid m.vpn 1) ∧
      t.atu.invVa = m.vpn * 65536 ∧ t.reqs = s.reqs ∧ t.slots = s.slots) ∧
  (∀ (s : State) (asid : BitVec 16) (vpn status : Nat) (o : LdpcOutcome) (m : MoveRec), s.live = true →
    s.pools.moves.find? (fun m => m.asid = asid.toNat && m.vpn = vpn && m.stage = .copy) = some m → s.placeOpen m.src = true →
    let v := s.placeRead m.src o
    let tn := v.moveTenant m
    let back := (((v.freePlace tn m.dst).remap m m.src).moveFailed m status).endMove m
    (status = Stat.poisoned ∨ v.placeLost m.src = true →
      exec (.moveCopyDone asid vpn ⟨status, o⟩) s = .next ((v.freePlace tn m.dst).moveLost m)) ∧
    (status ≠ Stat.poisoned → v.placeLost m.src = false →
      (status ≠ Stat.ok → exec (.moveCopyDone asid vpn ⟨status, o⟩) s = .next back) ∧
      (status = Stat.ok → (v.countRead tn m.src).fillPlace tn m.dst (v.placeData m.src) = none →
        exec (.moveCopyDone asid vpn ⟨status, o⟩) s = .next back) ∧
      (∀ u, status = Stat.ok → (v.countRead tn m.src).fillPlace tn m.dst (v.placeData m.src) = some u →
        exec (.moveCopyDone asid vpn ⟨status, o⟩) s = .next
          (if m.src.tier = 3 then ((u.remap m m.dst).freePlace tn m.src).endMove m
           else ((u.remap m m.dst).setMove m .remapped).secondInv)))) ∧
  (∀ (u : State) (m : MoveRec),
    ∃ t, t = ((u.remap m m.dst).setMove m .remapped).secondInv ∧ Tbl.find? (t.req m.req).pages m.page = some m.dst ∧
      ∀ k, k ≠ m.req → t.req k = u.req k) ∧
  (∀ (s : State) (asid : BitVec 16) (vpn status i page : Nat) (o : LdpcOutcome) (d p : Place), s.live = true →
    s.pools.moves.find? (fun m => m.asid = asid.toNat && m.vpn = vpn && m.stage = .copy) = none →
    s.parkCopyOf asid.toNat vpn = some (i, page, d) → Tbl.find? (s.req i).pages page = some p → s.placeOpen p = true →
    (status = Stat.poisoned ∨ s.placeLost p = true → exec (.moveCopyDone asid vpn ⟨status, o⟩) s = .next
      ((s.killPark i Stat.graftFailed 0).updReq i (fun r => { r with lost := true }))) ∧
    (status ≠ Stat.poisoned → s.placeLost p = false → status ≠ Stat.ok →
      exec (.moveCopyDone asid vpn ⟨status, o⟩) s = .next (s.killPark i Stat.graftFailed 0)) ∧
    (∀ u, status = Stat.ok → s.placeLost p = false →
      (s.countRead (s.req i).tenant p).fillPlace (s.req i).tenant d (s.placeData p) = some u →
      let w := u.updReq i (fun r => { r with
        parkCopies := r.parkCopies.map (fun c => if c.1 = page then (c.1, c.2.1, true) else c) })
      exec (.moveCopyDone asid vpn ⟨status, o⟩) s = .next (if (w.req i).parkCopies.all (fun c => c.2.2) then w.commitPark i else w)))

/-- PIN, the park in the owner's tiers, the placing of a pull and the end of a superseded table (R42, R107, R202, R209 to R211,
R254). -/
def Obligations.TierOperations : Prop :=
  (∀ (s : State) (tile : Fin 48) (slot off src : Nat), s.live = true →
    ((s.slot slot).st = .loading ∨ (s.slot slot).st = .loaded) → (s.slot slot).pinned.contains (tile.val, off) = true →
    (∀ k, k ≠ slot → (s.slot k).pinned.contains (tile.val, off) = false) → s.pinOk tile.val off = true →
    s.accStatus .control .read src 65536 = Stat.ok → s.memOpen src 65536 = true →
    ∃ t, exec (.pin tile slot off src) s = .next t ∧ t = s.placeBytes (tileBase tile.val + off) (s.bytes src 65536) ∧
      t.mem = memPut memKey s.mem (tileBase tile.val + off) (s.bytes src 65536) ∧
      (∀ k, (∀ i, i < 65536 → memKey (tileBase tile.val + off + i) ≠ k) → memGet t.mem k = memGet s.mem k)) ∧
  (∀ (s : State) (tile : Fin 48) (slot off src : Nat), s.live = true →
    ((s.slot slot).st = .loading ∨ (s.slot slot).st = .loaded) → (s.slot slot).pinned.contains (tile.val, off) = false →
    0 < s.quotaLeft (s.slot slot).tenant 0 → s.pinOk tile.val off = true →
    s.accStatus .control .read src 65536 = Stat.ok → s.memOpen src 65536 = true →
    let others := (Tbl.keys s.slots).filter (fun k => k ≠ slot && (s.slot k).pinned.contains (tile.val, off))
    let u := others.foldl (fun (s : State) k => (s.credit (s.slot k).tenant 0).updSlot k
      (fun x => { x with pinned := x.pinned.filter (· ≠ (tile.val, off)) })) s
    let v := (u.charge (s.slot slot).tenant 0).updSlot slot (fun x => { x with pinned := (tile.val, off) :: x.pinned })
    exec (.pin tile slot off src) s = .next (v.placeBytes (tileBase tile.val + off) (v.bytes src 65536))) ∧
  (∀ (s u : State) (req : Nat) (cs : List (Nat × Place × Bool)), s.live = true → (s.req req).isLive = true →
    (s.req req).st = .parking → ((s.req req).parkTarget = 2 ∨ (s.req req).parkTarget = 3) → (s.req req).parkCopies = [] →
    s.reqNamed req = false → s.tierBusy req = false →
    let ps := ((s.req req).pages.filter (fun e => (parkFrom (s.req req).parkTarget).contains e.2.tier)).map (·.1)
    (ps = [] → exec (.localPark req) s = .next (((s.updReq req (fun r => { r with
        st := .parked, parkCopies := [], opPark := none, parkAt := s.ltu, ttlOn := true })).completeIf (s.req req).opPark
          (s.req req).reqId 2 Stat.ok (s.req req).pages.length).rebind req)) ∧
    (ps ≠ [] → s.quotaLeft (s.req req).tenant (s.req req).parkTarget < ps.length ∨ s.reservePark (s.req req).parkTarget ps = none →
      exec (.localPark req) s = .next (s.killPark req Stat.quotaExceeded 0)) ∧
    (ps ≠ [] → ps.length ≤ s.quotaLeft (s.req req).tenant (s.req req).parkTarget →
      s.reservePark (s.req req).parkTarget ps = some (u, cs) →
      exec (.localPark req) s = .next (u.updReq req (fun r => { r with parkCopies := cs })))) ∧
  (∀ (s : State) (req page : Nat) (o : LdpcOutcome) (p : Place), s.live = true → (s.req req).isLive = true →
    (s.req req).st = .resuming → (s.req req).resumeDev = 0 → (s.req req).pull.contains page = true →
    Tbl.find? (s.req req).pages page = some p →
    let kept := s.updReq req (fun r => { r with
      pull := r.pull.filter (· ≠ page), pullDone := (r.pull.filter (· ≠ page)).isEmpty })
    (p = .holder → exec (.pullPlace req ⟨page, o⟩) s = .next (s.pullRemote req page).graftPump) ∧
    (p ≠ .holder → s.placeLost p = true → exec (.pullPlace req ⟨page, o⟩) s = .next (s.recover req)) ∧
    (p ≠ .holder → s.placeLost p = false → s.placeOpen p = true →
      (p.tier = 1 ∨ (p.tier = 2 ∧ s.roomT1 req page = false ∧ s.cfg.dev.compat = false) →
        exec (.pullPlace req ⟨page, o⟩) s = .next kept) ∧
      (p.tier ≠ 1 → (p.tier = 2 → s.roomT1 req page = true ∨ s.cfg.dev.compat = true) →
        (let v := s.placeRead p o
         v.placeLost p = true → exec (.pullPlace req ⟨page, o⟩) s = .next (v.recover req)) ∧
        ((s.placeRead p o).placeLost p = false →
          (s.roomPulled req page = none → exec (.pullPlace req ⟨page, o⟩) s = .next s) ∧
          (∀ u, s.roomPulled req page = some u → exec (.pullPlace req ⟨page, o⟩) s = .next
            ((((u.fillPulled req page (s.placeData p)).countRead (s.req req).tenant p).placeRead p o).freePlace
              (s.req req).tenant p)))))) ∧
  (∀ (s : State) (slot : Fin 16384) (version : BitVec 16) (o : Nat × Nat), s.live = true →
    (s.slot slot.val).oldTables.find? (fun o => o.1 = version.toNat) = some o → Tbl.getD (s.slot slot.val).pins o.2 0 = 0 →
    let m := s.slot slot.val
    let kept := if m.embDesc = 0 then [] else s.tablePages m m.embDesc
    let gone := (s.tablePages m o.2).filter (fun v => !(kept.contains v))
    ∃ t, exec (.tableOldFree slot version) s = .next t ∧
      t = (gone.foldl (fun (s : State) v => s.freeSlotPlot slot.val v) s).updSlot slot.val
        (fun m => { m with oldTables := m.oldTables.erase o, pins := Tbl.del m.pins o.2 }) ∧
      t.slot slot.val = { m with
        oldTables := m.oldTables.erase o
        pins := Tbl.del m.pins o.2
        plots := gone.foldl (fun q v => Tbl.del q v) m.plots })

/-- A channel takes a transfer whose pieces are all local and meet no channel outside MEMORY (R215, R216, R218, R219): it is
ACTIVE with its bursts counted, every piece's destination takes the fill pattern or its source's bytes in transfer order, and
the transfer waits for its end. -/
def Claims.tookXfer (s t : State) (e c : Nat) (k : DmaCh) (tn desc handle status : Nat) (x : XferSpec) (ps : List Piece) : Prop :=
  let srcs := if x.fill.isSome then [] else ps.map (fun p => (p.src, p.n))
  t.dch e c = { k with
    state := .active
    bursts := satAdd 32 k.bursts ((ps.map (Piece.count x.len)).sum)
    xfer := some { desc := desc, handle := handle, status := status, cap := (ps.map (·.n)).sum, tn := tn, srcs := srcs } } ∧
  t.mem = ps.foldl (fun m p => memPut memKey m p.dst (match x.fill with
    | some f => fillBytes f p.dst p.n
    | none => s.readFor srcs p.src p.dst p.n)) s.mem ∧ t.reqs = s.reqs ∧ t.rings = s.rings ∧ t.chans = s.chans

/-- DMA_RING_COPY, DMA_RING_FILL and DMA_TILE_TRANSFER (R111, R215 to R219): a valid descriptor's transfer starts at its
channel; one that fails its CRC halts the channel, one with reserved fields ends with INVALID_FIELD; a tile's transfer of
invalid fields or to the remote aperture fails its command. -/
def Obligations.DmaTransfers : Prop :=
  (∀ (s u : State) (eng : Fin 5) (ch : Fin 64) (d : Nat) (x : XferSpec) (ps : List Piece) (st : Nat),
    s.nextDesc eng.val ch.val = some d → crcOk d 64 = true → rdKind d = 1 ∨ rdKind d = 2 → ringXfer d = some x →
    State.placePieces (.dma eng.val true) x.fill.isSome none (fun s a _ => (s, .ok a)) x.pieces s = (u, ps, st) →
    ∃ t, t = (u.updDch eng.val ch.val DmaCh.fetched).startXfer (.dma eng ch) eng.val ch.val (rdTenant d) d 0 x ps st ∧
      (rdKind d = 1 → exec (.dmaRingCopy eng ch) s = .next t) ∧ (rdKind d = 2 → exec (.dmaRingFill eng ch) s = .next t) ∧
      ((∀ p ∈ ps, Piece.isLocal x.fill.isSome p = true ∧ s.pieceHeld x.fill.isSome p = none) →
        Claims.tookXfer s t eng.val ch.val { s.dch eng.val ch.val with
          sqHead := ((s.dch eng.val ch.val).sqHead + 1) % 2 ^ (s.dch eng.val ch.val).ringLog2 } (rdTenant d) d 0 st x ps)) ∧
  (∀ (s : State) (eng : Fin 5) (ch : Fin 64) (d : Nat), s.nextDesc eng.val ch.val = some d →
    (crcOk d 64 = false → ∃ t, exec (.dmaRingCopy eng ch) s = .next t ∧ exec (.dmaRingFill eng ch) s = .next t ∧
      t = (s.endDesc eng.val ch.val d Stat.checkFailed).updDch eng.val ch.val (fun k => { k with state := .halted, checkErr := true })) ∧
    (crcOk d 64 = true → rdKind d = 0 ∨ 4 < rdKind d →
      exec (.dmaRingCopy eng ch) s = .next (s.endDesc eng.val ch.val d Stat.invalidField) ∧
      exec (.dmaRingFill eng ch) s = .next (s.endDesc eng.val ch.val d Stat.invalidField)) ∧
    (crcOk d 64 = true → rdKind d = 1 → ringXfer d = none →
      exec (.dmaRingCopy eng ch) s = .next (s.endDesc eng.val ch.val d Stat.invalidField)) ∧
    (crcOk d 64 = true → rdKind d = 2 → ringXfer d = none →
      exec (.dmaRingFill eng ch) s = .next (s.endDesc eng.val ch.val d Stat.invalidField))) ∧
  (∀ (s u : State) (tile : Fin 48) (h : Nat) (c : TileCmd) (o : Op) (x : XferSpec) (ps : List Piece) (st : Nat),
    s.engine? tile.val h 0x30 = some (c, o) → tileXfer o.desc = some x →
    extentStatus tile.val (s.tile tile.val).resBytes [] [(fld o.desc 0x30 4, 32)] = Stat.ok →
    (s.dch (dieOfTile tile.val) (s.tileDch tile.val h)).xfer = none →
    (s.dch (dieOfTile tile.val) (s.tileDch tile.val h)).state ≠ .halted →
    State.placePieces (.dma (dieOfTile tile.val) false) x.fill.isSome (some (cdTenant c.desc)) (State.tileAddr tile.val c) x.pieces s =
      (u, ps, st) →
    (s.dstRemote tile.val c (x.pieces.map (·.dst)) = true →
      exec (.dmaTileTransfer tile h) s = .next (s.failAccess tile.val Stat.accessDenied)) ∧
    (s.dstRemote tile.val c (x.pieces.map (·.dst)) = false →
      ∃ v t, v = u.startXfer (.tileDma tile h) (dieOfTile tile.val) (s.tileDch tile.val h) (cdTenant c.desc) o.desc h x ps st ∧
        t = v.updCmd tile.val (fun c => TileCmd.wake (c.setOp h (fun o => { o with phase := .active }))) ∧
        exec (.dmaTileTransfer tile h) s = .next t ∧
        ((∀ p ∈ ps, Piece.isLocal x.fill.isSome p = true ∧ s.pieceHeld x.fill.isSome p = none) →
          Claims.tookXfer s t (dieOfTile tile.val) (s.tileDch tile.val h) (s.dch (dieOfTile tile.val) (s.tileDch tile.val h))
            (cdTenant c.desc) o.desc h st x ps))) ∧
  (∀ (s : State) (tile : Fin 48) (h : Nat) (c : TileCmd) (o : Op), s.engine? tile.val h 0x30 = some (c, o) →
    (tileXfer o.desc = none → exec (.dmaTileTransfer tile h) s = .next (s.failCmd tile.val Stat.opInvalid)) ∧
    (∀ e, tileXfer o.desc ≠ none → extentStatus tile.val (s.tile tile.val).resBytes [] [(fld o.desc 0x30 4, 32)] = e →
      e ≠ Stat.ok → exec (.dmaTileTransfer tile h) s = .next (s.failAccess tile.val e)))

/-- What the end of a transfer and its half entry leave (R219, R220, R242): a RING channel's entry is written at CPL_TAIL,
which advances, a tile's at its CPL_ADDR; the half entry precedes the full one; a channel that was stopped halts; a tile
operation is done, or fails its command. -/
def Obligations.DmaEntries : Prop :=
  (∀ (s : State) (eng : Fin 5) (ch : Fin 64) (f : Xfer), s.live = true → (s.dch eng.val ch.val).xfer = some f →
    tileOfDch eng.val ch.val = none → s.halfDue eng ch f = true → wantsHalf false f.desc = true →
    (s.dch eng.val ch.val).cplFull = false →
    let k := s.dch eng.val ch.val
    ∃ t, exec (.dmaHalfEntry eng ch) s = .next t ∧ t = { s with mem := t.mem, dma := t.dma } ∧
      t.mem = memPut memKey s.mem (k.cplBase + 16 * (k.cplTail % 2 ^ k.cplLog2))
        (toBytes 16 (dmaEntry (rdId f.desc) Stat.ok 1 (s.xferDone (chanAgent eng ch f) f / 16))) ∧
      t.dch eng.val ch.val = { k with cplTail := (k.cplTail + 1) % 2 ^ k.cplLog2, xfer := some { f with half := true } }) ∧
  (∀ (s : State) (eng : Fin 5) (ch : Fin 64) (f : Xfer) (tile : Nat), s.live = true → (s.dch eng.val ch.val).xfer = some f →
    tileOfDch eng.val ch.val = some tile → s.halfDue eng ch f = true →
    exec (.dmaHalfEntry eng ch) s = .next ((s.placeBytes (tileBase tile + (fld f.desc 0x30 4 + 16))
        (toBytes 16 (dmaEntry f.handle Stat.ok 1 (s.xferDone (chanAgent eng ch f) f / 16)))).updDch eng.val ch.val
      (fun k => { k with xfer := k.xfer.map (fun f => { f with half := true }) }))) ∧
  (∀ (s : State) (eng : Fin 5) (ch : Fin 64) (f : Xfer), s.live = true → (s.dch eng.val ch.val).xfer = some f →
    f.todo = false → f.held = [] → tileOfDch eng.val ch.val = none → s.waiting (chanAgent eng ch f) = [] →
    s.halfDue eng ch f = false → (s.dch eng.val ch.val).cplFull = false →
    let k := s.dch eng.val ch.val
    ∃ t, exec (.dmaTransferEnd eng ch) s = .next t ∧ t = { s with mem := t.mem, dma := t.dma } ∧
      t.mem = memPut memKey s.mem (k.cplBase + 16 * (k.cplTail % 2 ^ k.cplLog2))
        (toBytes 16 (dmaEntry (rdId f.desc) f.status 2 (s.xferDone (chanAgent eng ch f) f / 16))) ∧
      t.dch eng.val ch.val = { k with
        cplTail := (k.cplTail + 1) % 2 ^ k.cplLog2
        xfer := none
        state := if k.state = .stopping then .halted else .idle }) ∧
  (∀ (s : State) (eng : Fin 5) (ch : Fin 64) (f : Xfer) (tile : Nat), s.live = true → (s.dch eng.val ch.val).xfer = some f →
    f.todo = false → f.held = [] → tileOfDch eng.val ch.val = some tile → s.waiting (chanAgent eng ch f) = [] →
    s.halfDue eng ch f = false →
    let u := (s.updDch eng.val ch.val (fun k => { k with
      xfer := none, state := if k.state = .stopping then .halted else .idle })).placeBytes (tileBase tile + fld f.desc 0x30 4)
        (toBytes 16 (dmaEntry f.handle f.status 2 (s.xferDone (chanAgent eng ch f) f / 16)))
    exec (.dmaTransferEnd eng ch) s = .next (if f.status = Stat.ok
      then u.updCmd tile (fun c => c.setOp f.handle (fun o => { o with phase := .executed })) else u.failCmd tile f.status)) ∧
  (∀ (s : State) (eng : Fin 5) (ch : Fin 64) (f : Xfer), s.live = true → (s.dch eng.val ch.val).xfer = some f →
    f.todo = false → f.held = [] → s.waiting (chanAgent eng ch f) = [] → s.halfDue eng ch f = true →
    tileOfDch eng.val ch.val = none → (s.dch eng.val ch.val).cplFull = false →
    let u := s.postHalf eng.val ch.val (s.xferDone (chanAgent eng ch f) f) f
    exec (.dmaTransferEnd eng ch) s =
      .next (if (u.dch eng.val ch.val).cplFull then u else u.endXfer eng ch { f with half := true }))

/-- The channel registers of the DMA engines and the LPDDR5X counters (R218 to R221, R231, R232). -/
def Obligations.DmaRegisters : Prop :=
  (∀ (s : State) (eng : Fin 5) (ch : Fin 64) (v : BitVec 16), s.live = true → isRing eng.val ch.val = true →
    ∃ t, exec (.dmaSqTailWrite eng ch v) s = .next t ∧
      t = s.updDch eng.val ch.val (fun k => { k with sqTail := v.toNat }) ∧
      t.dch eng.val ch.val = { s.dch eng.val ch.val with sqTail := v.toNat }) ∧
  (∀ (s : State) (eng : Fin 5) (ch : Fin 64) (v : BitVec 16), s.live = true → isRing eng.val ch.val = true →
    ∃ t, exec (.dmaCplHeadWrite eng ch v) s = .next t ∧
      t = s.updDch eng.val ch.val (fun k => { k with cplHead := v.toNat }) ∧
      t.dch eng.val ch.val = { s.dch eng.val ch.val with cplHead := v.toNat }) ∧
  (∀ (s : State) (eng : Fin 5) (ch : Fin 64), s.live = true → dchExists eng.val ch.val = true →
    let k := s.dch eng.val ch.val
    (k.xfer = none → ∃ t, exec (.dmaStop eng ch) s = .next t ∧
      t = s.updDch eng.val ch.val (fun k => { k with state := .halted }) ∧
      t.dch eng.val ch.val = { k with state := .halted }) ∧
    (∀ f, k.xfer = some f →
      let ag := chanAgent eng ch f
      let gone := s.fab.bursts.filter (fun b => b.ag = ag && !b.issued)
      let g : Xfer → Xfer := fun f => { f with
        status := if f.status = Stat.ok then Stat.aborted else f.status, todo := false, cap := leastPos f.cap gone }
      ∃ t, exec (.dmaStop eng ch) s = .next t ∧
        t = ({ s with fab := { s.fab with bursts := s.fab.bursts.filter (fun b => b.ag ≠ ag || b.issued) } }).updDch eng.val ch.val
          (fun k => { k with state := .stopping, xfer := k.xfer.map g }) ∧
        t.dch eng.val ch.val = { k with state := .stopping, xfer := some (g f) })) ∧
  (∀ (s : State) (eng : Fin 5) (ch : Fin 64), s.live = true → (s.dch eng.val ch.val).state = .halted →
    ∃ t, exec (.dmaResume eng ch) s = .next t ∧
      t = s.updDch eng.val ch.val (fun k => { k with state := .idle }) ∧
      t.dch eng.val ch.val = { s.dch eng.val ch.val with state := .idle }) ∧
  (∀ (s : State) (eng : Fin 5) (ch : Fin 64), s.live = true → dchExists eng.val ch.val = true →
    ∃ t, exec (.dmaCntClr eng ch) s = .next t ∧
      t = s.updDch eng.val ch.val (fun k => { k with bursts := 0 }) ∧
      t.dch eng.val ch.val = { s.dch eng.val ch.val with bursts := 0 }) ∧
  (∀ (s : State) (pkg : Fin 16), s.live = true → (s.lpcOf pkg.val).state = 2 →
    let l := s.lpcOf pkg.val
    (∃ t, exec (.lpddrReadRetry pkg .corrected) s = .next t ∧
      t = s.updLpc pkg.val (fun k => { k with linkCorrected := satAdd 32 k.linkCorrected 1 }) ∧
      t.lpcOf pkg.val = { l with linkCorrected := satAdd 32 l.linkCorrected 1 }) ∧
    (∃ t, exec (.lpddrReadRetry pkg .retried) s = .next t ∧
      t = s.updLpc pkg.val (fun k => { k with linkRetried := satAdd 16 k.linkRetried 1 }) ∧
      t.lpcOf pkg.val = { l with linkRetried := satAdd 16 l.linkRetried 1 }) ∧
    (∃ t, exec (.lpddrReadRetry pkg (.poisoned none)) s = .next t ∧
      t = (s.updLpc pkg.val (fun k => { k with
        linkRetried := satAdd 16 k.linkRetried 1, poisoned := satAdd 16 k.poisoned 1 })).raise (0x340 + 4 * pkg.val) ∧
      t.lpcOf pkg.val = { l with linkRetried := satAdd 16 l.linkRetried 1, poisoned := satAdd 16 l.poisoned 1 } ∧
      (∀ tile th rd, exec (.lpddrReadRetry pkg (.poisoned (some (.core tile th rd)))) s = .next (t.failCmd tile.val Stat.poisoned)) ∧
      (∀ hart, exec (.lpddrReadRetry pkg (.poisoned (some (.control hart)))) s = .next (t.ctlFail hart mopLoad)) ∧
      (∀ e c, exec (.lpddrReadRetry pkg (.poisoned (some (.dma e c)))) s = .next (t.dmaFail (.dma e c) Stat.poisoned 0)) ∧
      (∀ tile h, exec (.lpddrReadRetry pkg (.poisoned (some (.tileDma tile h)))) s =
        .next (t.dmaFail (.tileDma tile h) Stat.poisoned 0)) ∧
      exec (.lpddrReadRetry pkg (.poisoned (some .commit))) s = .next t)) ∧
  (∀ (s : State) (pkg : Fin 16) (n : Nat), s.live = true → (s.lpcOf pkg.val).state = 2 →
    ∃ t, exec (.odeccPoll pkg n) s = .next t ∧
      t = s.updLpc pkg.val (fun k => { k with onDie := satAdd 32 k.onDie n }) ∧
      t.lpcOf pkg.val = { s.lpcOf pkg.val with onDie := satAdd 32 (s.lpcOf pkg.val).onDie n }) ∧
  (∀ (s : State) (pkg : Fin 16), s.live = true →
    ∃ t, exec (.lpcCntClr pkg) s = .next t ∧
      t = s.updLpc pkg.val (fun k => { k with linkCorrected := 0, linkRetried := 0, poisoned := 0, onDie := 0 }) ∧
      t.lpcOf pkg.val = { s.lpcOf pkg.val with linkCorrected := 0, linkRetried := 0, poisoned := 0, onDie := 0 })

/-- The flash translation layer (R201, R224 to R227, R233, R453): a plot read out lands whole at its destination and counts one
read of its block; one that no read method decodes is marked LOST, its block retired and the fault raised; one on a fenced
channel is marked LOST; a block relocated is emptied, then erased or retired, its valid runs copied; the counters clear. -/
def Obligations.FlashCommands : Prop :=
  (∀ (s : State) (handle : BitVec 28) (dst : Nat) (o : LdpcOutcome) (p : FlashPlot), s.live = true →
    Tbl.find? s.ftl.map handle.toNat = some p → p.held = false → p.lost = false →
    Tbl.getD s.ftl.chState (s.ftl.chanOfBlock p.block) 0 ≠ 3 → o ≠ .uncorrectable →
    let u := s.updFtl (fun f => (f.decoded o).updBlock p.block (fun k => { k with reads := k.reads + 1, weak := k.weak || o = .hard true }))
    let v := u.countT3 (u.handleTenant handle.toNat) handle.toNat false
    (s.accStatus (.dma 4 true) .write dst 65536 ≠ Stat.ok ∨ inAperture dst = true →
      exec (.ftlRead handle dst o) s = .next v) ∧
    (s.accStatus (.dma 4 true) .write dst 65536 = Stat.ok → inAperture dst = false →
    ∃ t, exec (.ftlRead handle dst o) s = .next t ∧ t = v.placeBytes dst (s.t3Bytes handle.toNat 65536) ∧
      t.mem = memPut memKey s.mem dst (s.t3Bytes handle.toNat 65536) ∧
      (∀ k, (∀ i, i < 65536 → memKey (dst + i) ≠ k) → memGet t.mem k = memGet s.mem k) ∧
      (t.ftl.block p.block).reads = (s.ftl.block p.block).reads + 1 ∧
      t.ftl.map = s.ftl.map ∧ t.t3 = s.t3 ∧ t.reqs = s.reqs ∧ t.fcl = s.fcl ∧
      t.ftl.soft = (if o = .soft then satAdd 32 s.ftl.soft 1 else s.ftl.soft) ∧
      t.ftl.uncorrectable = s.ftl.uncorrectable)) ∧
  (∀ (s : State) (handle : BitVec 28) (dst : Nat) (p : FlashPlot), s.live = true →
    Tbl.find? s.ftl.map handle.toNat = some p → p.held = false → p.lost = false →
    Tbl.getD s.ftl.chState (s.ftl.chanOfBlock p.block) 0 ≠ 3 →
    ∃ t, exec (.ftlRead handle dst .uncorrectable) s = .next t ∧
      t = ((s.updFtl (fun f => { (f.decoded .uncorrectable).updBlock p.block (fun k => { k with reads := k.reads + 1 }) with
        map := Tbl.put f.map handle.toNat { p with lost := true } })).raise (srcOf 4 0x08)).retireBlock p.block ∧
      Tbl.find? t.ftl.map handle.toNat = some { p with lost := true } ∧
      (t.ftl.block p.block).bad = true ∧ t.ftl.uncorrectable = satAdd 16 s.ftl.uncorrectable 1 ∧
      t.ftl.soft = satAdd 32 s.ftl.soft 1 ∧ t.fcl = (s.raise (srcOf 4 0x08)).fcl ∧ t.t3 = s.t3) ∧
  (∀ (s : State) (handle : BitVec 28) (dst : Nat) (o : LdpcOutcome) (p : FlashPlot), s.live = true →
    Tbl.find? s.ftl.map handle.toNat = some p → p.held = false → p.lost = false →
    Tbl.getD s.ftl.chState (s.ftl.chanOfBlock p.block) 0 = 3 →
    exec (.ftlRead handle dst o) s = .next (s.updFtl (fun f => { f with map := Tbl.put f.map handle.toNat { p with lost := true } }))) ∧
  (∀ (s : State) (block : Nat) (why : RelocWhy), s.live = true → block < s.ftl.blocks → s.ftl.reserved block = false →
    ((s.ftl.block block).used ≠ 0 ∨ why = .badBlock) → s.relocDue block why = true →
    let shut : Ftl := { s.ftl with openBlock := s.ftl.openBlock.filter (fun e => e.2 ≠ block) }
    (moveRuns block s.ltu s.ftl.map shut = none → exec (.ftlRelocation block why) s = .next s) ∧
    (∀ f, moveRuns block s.ltu s.ftl.map shut = some f →
      let u := if why = .badBlock then ({ s with ftl := f } : State).retireBlock block else { s with ftl := f }
      ∃ t, exec (.ftlRelocation block why) s = .next t ∧
        t = u.updFtl (fun f => f.updBlock block (fun k => { k with
          used := 0, reads := 0, weak := false, erases := if k.bad then k.erases else k.erases + 1, clean := k.clean || !k.bad })) ∧
        (why ≠ .badBlock → t = { s with ftl := t.ftl } ∧ ∀ b, b ≠ block → t.ftl.block b = f.block b) ∧
        (why = .badBlock → (t.ftl.block block).bad = true))) ∧
  (∀ (s : State), s.live = true →
    exec .ftlCntClr s = .next { s with ftl := { s.ftl with soft := 0, retried := 0, uncorrectable := 0 } })

/-- What a tile's compressor operation leaves after a run that came to `p`, with `e` what stopped it: a failed access or
frame fails the command, remote ranges are fetched first, an operation that waits keeps how far it came, one whose frames all
came through writes its full entry, 4,096 x COUNT units done, and is executed (R219, R240, R243, R245). -/
def Claims.compTile (u : State) (tile : Fin 48) (h : Nat) (o : Op) (a : CompArgs) (p : CompProg) (e : Option FrameEnd) : State :=
  let keep := fun (s : State) (p : CompProg) =>
    s.updCmd tile.val (fun c => TileCmd.wake (c.setOp h (fun o => { o with phase := .active, prog := p })))
  match e with
  | some (.failed st) => u.failCmd tile.val st
  | some (.need ps) => keep (u.fetchRemote (.tileDma tile h) ps) { p with fetched := p.fetched ++ ps }
  | some _ => keep u p
  | none => (u.placeBytes (tileBase tile.val + fld o.desc 0x38 4)
      (toBytes 16 (dmaEntry h Stat.ok 2 (a.count * 4096)))).updCmd tile.val (fun c => c.setOp h (fun o => { o with phase := .executed }))

/-- What a RING channel's compressor descriptor leaves after a run (R219, R242, R243): the transfer has as many whole plots
done as frames came through, and nothing left to do when all came through or one failed. -/
def Claims.compRing (u : State) (eng : Fin 5) (ch : Fin 64) (f : Xfer) (p : CompProg) (e : Option FrameEnd) : State :=
  let put := fun (s : State) (g : Xfer) => s.updDch eng.val ch.val (fun k => { k with state := .active, xfer := some g })
  let f := { f with cap := p.frames * 65536, prog := p }
  match e with
  | some (.failed st) => put u { f with todo := false, status := st }
  | some (.need ps) => put (u.fetchRemote (.dma eng ch) ps) { f with prog := { p with fetched := p.fetched ++ ps } }
  | some _ => put u f
  | none => put u { f with todo := false }

/-- The compressor (R239 to R245, R248, R264). The operation's and the descriptor's checks, then as many frames as can be
finished; a RING descriptor that fails its checks ends with its status; the counters clear. What the frames leave in memory
is that of `u`. -/
def Obligations.CompressorRuns : Prop :=
  (∀ (s u : State) (tile : Fin 48) (h : Nat) (c : TileCmd) (o : Op) (a : CompArgs) (p : CompProg) (e : Option FrameEnd),
    s.compOp? tile.val h (.tileDma tile h) = some (c, o) → tileComp o.desc = some a →
    extentStatus tile.val (s.tile tile.val).resBytes [] [(fld o.desc 0x38 4, 16)] = Stat.ok →
    (o.phase ≠ .active → s.dstRemote tile.val c a.dsts = false) →
    State.compRun { ag := .tileDma tile h, eng := dieOfTile tile.val, fw := false, tenant := cdTenant c.desc, addr := State.tileAddr tile.val c }
      a a.moves o.prog s = (u, p, e) →
    (fld o.desc 0x24 1 = 1 → 3 ≤ (s.compOf (dieOfTile tile.val)).share →
      exec (.compress tile h) s = .next (Claims.compTile u tile h o a p e)) ∧
    (fld o.desc 0x24 1 = 2 → exec (.decompress tile h) s = .next (Claims.compTile u tile h o a p e)) ∧
    (∃ t, t = Claims.compTile u tile h o a p none ∧
      t.mem = memPut memKey u.mem (tileBase tile.val + fld o.desc 0x38 4) (toBytes 16 (dmaEntry h Stat.ok 2 (a.count * 4096))) ∧
      t = { u with mem := t.mem, tiles := t.tiles } ∧ ∀ k, k ≠ tile.val → t.tile k = u.tile k)) ∧
  (∀ (s : State) (tile : Fin 48) (h : Nat) (c : TileCmd) (o : Op), s.compOp? tile.val h (.tileDma tile h) = some (c, o) →
    (fld o.desc 0x24 1 = 1 → tileComp o.desc = none → exec (.compress tile h) s = .next (s.failCmd tile.val Stat.opInvalid)) ∧
    (fld o.desc 0x24 1 = 2 → tileComp o.desc = none → exec (.decompress tile h) s = .next (s.failCmd tile.val Stat.opInvalid)) ∧
    (∀ a, tileComp o.desc = some a → o.phase ≠ .active → s.dstRemote tile.val c a.dsts = true →
      extentStatus tile.val (s.tile tile.val).resBytes [] [(fld o.desc 0x38 4, 16)] = Stat.ok →
      (fld o.desc 0x24 1 = 1 → exec (.compress tile h) s = .next (s.failAccess tile.val Stat.accessDenied)) ∧
      (fld o.desc 0x24 1 = 2 → exec (.decompress tile h) s = .next (s.failAccess tile.val Stat.accessDenied)))) ∧
  (∀ (s u : State) (eng : Fin 5) (ch : Fin 64) (f : Xfer) (p : CompProg) (e : Option FrameEnd), s.live = true →
    (s.dch eng.val ch.val).xfer = some f → f.todo = true → s.waiting (.dma eng ch) = [] →
    (s.dch eng.val ch.val).state ≠ .stopping → (s.die eng.val).clockLost = false →
    State.compRun { ag := .dma eng ch, eng := eng.val, fw := true, tenant := rdTenant f.desc, addr := fun s a _ => (s, .ok a) }
      (ringComp f.desc) (ringComp f.desc).moves f.prog s = (u, p, e) →
    (rdKind f.desc = 3 → exec (.ringCompress eng ch) s = .next (Claims.compRing u eng ch f p e)) ∧
    (rdKind f.desc = 4 → exec (.ringDecompress eng ch) s = .next (Claims.compRing u eng ch f p e))) ∧
  (∀ (s u : State) (eng : Fin 5) (ch : Fin 64) (d : Nat) (p : CompProg) (e : Option FrameEnd),
    s.nextDesc eng.val ch.val = some d → (s.dch eng.val ch.val).xfer = none → crcOk d 64 = true → rdKind d = 3 ∨ rdKind d = 4 →
    let ends := s.endDesc eng.val ch.val d
    (ringCompStatus eng.val d ≠ Stat.ok → (rdKind d = 3 → exec (.ringCompress eng ch) s = .next (ends (ringCompStatus eng.val d))) ∧
      (rdKind d = 4 → exec (.ringDecompress eng ch) s = .next (ends (ringCompStatus eng.val d)))) ∧
    (ringCompStatus eng.val d = Stat.ok → (s.die eng.val).clockLost = false →
      (rdKind d = 3 → (s.compOf eng.val).share < 3 → exec (.ringCompress eng ch) s = .next (ends Stat.noResource)) ∧
      (State.compRun { ag := .dma eng ch, eng := eng.val, fw := true, tenant := rdTenant d, addr := fun s a _ => (s, .ok a) }
          (ringComp d) (ringComp d).moves {} (s.updDch eng.val ch.val DmaCh.fetched) = (u, p, e) →
        (rdKind d = 3 → 3 ≤ (s.compOf eng.val).share →
          exec (.ringCompress eng ch) s = .next (Claims.compRing u eng ch { desc := d, cap := 0, todo := true } p e)) ∧
        (rdKind d = 4 →
          exec (.ringDecompress eng ch) s = .next (Claims.compRing u eng ch { desc := d, cap := 0, todo := true } p e))))) ∧
  (∀ (s : State) (cd : Fin 4), s.live = true →
    ∃ t, exec (.compCntClr cd) s = .next t ∧
      t = s.updComp cd.val (fun c => { c with bytesIn := 0, bytesOut := 0, frames := 0, unchanged := 0, refused := 0 }) ∧
      (∀ k, k ≠ cd.val → t.compOf k = s.compOf k) ∧
      t.compOf cd.val = { s.compOf cd.val with bytesIn := 0, bytesOut := 0, frames := 0, unchanged := 0, refused := 0 })

/-- A Sieve operation has done its work in `w`: the operation is executed, its die's Sieve is free and has completed one more;
only the tiles, memory, the draw counter and the Sieve counters have changed since `s`, and no other tile has. -/
def Claims.sieveRan (s w t : State) (tile h : Nat) (c : TileCmd) : Prop :=
  t = (w.updCmd tile (fun c => c.setOp h (fun o => { o with phase := .executed }))).updSieve (dieOfTile tile)
    (fun v => { v with run := none, ops := satAdd 32 v.ops 1 }) ∧
  t = { s with tiles := t.tiles, mem := t.mem, fresh := t.fresh, sieve := t.sieve } ∧ (∀ k, k ≠ tile → t.tile k = s.tile k) ∧
    (t.cmd? tile).map (·.ops) = some (c.ops.map (fun o => if o.handle = h then { o with phase := .executed } else o)) ∧
    t.sieveOf (dieOfTile tile) = { s.sieveOf (dieOfTile tile) with
      run := none, ops := satAdd 32 (s.sieveOf (dieOfTile tile)).ops 1 }

/-- UNIQUE writes the unique indices in order of first occurrence, each index's place among them, the counts, the last places
and the number of unique indices, one array after the other at OUT (R254, R255); SCATTER_ADD adds every value row to its
target row lane by lane, in an order the spec leaves open (R259); SCATTER_WRITE writes for each unique index the row of its
last occurrence (R260); an index out of range, or fields that break R256, fail the command. -/
def Obligations.SieveUpdates : Prop :=
  (∀ (s : State) (tile : Fin 48) (h : Nat) (c : TileCmd) (o : Op) (idx : List Nat),
    s.sieveOp? tile.val h 1 (.tileDma tile h) = some (c, o) → svCommonOk o.desc = true → svOut o.desc % 128 = 0 →
    extentStatus tile.val (s.tile tile.val).resBytes [(svIdx o.desc, 4 * svN o.desc)]
      [(svOut o.desc, 16 * svN o.desc + 4)] = Stat.ok →
    s.indices tile.val (svIdx o.desc) (svN o.desc) (2 ^ 31) = some idx →
    let n := svN o.desc
    let out := svOut o.desc
    let r := orderOf idx
    let w := ((((s.putCodes tile.val out 32 r.u).putCodes tile.val (out + 4 * n) 32 r.inv).putCodes tile.val (out + 8 * n) 32
      r.cnt).putCodes tile.val (out + 12 * n) 32 r.last).putCodes tile.val (out + 16 * n) 32 [r.u.length]
    ∃ t, exec (.sieveUnique tile h) s = .next t ∧ Claims.sieveRan s w t tile.val h c ∧ t.mem = w.mem) ∧
  (∀ (s : State) (tile : Fin 48) (h : Nat) (c : TileCmd) (o : Op) (idx : List Nat),
    s.sieveOp? tile.val h 3 (.tileDma tile h) = some (c, o) → scatterOk o.desc = true →
    let d := o.desc
    let bytes := svElems d * svWidth d
    extentStatus tile.val (s.tile tile.val).resBytes [(svIdx d, 4 * svN d), (svVal d, rowsSpan (svN d) (svStride d) bytes)]
      [(svTgt d, rowsSpan (svTgtRows d) (svTgtStride d) bytes)] = Stat.ok →
    s.indices tile.val (svIdx d) (svN d) (svTgtRows d) = some idx →
    let w := ((arrivalOrder s.fresh idx.length (rowAtoms bytes)).foldl (fun (u : State) (e : Nat × Nat × Nat) =>
      u.scatterAtom s tile.val d e.1 (nth idx e.1 0) e.2.1 e.2.2) s).draw
    ∃ t, exec (.scatterAdd tile h) s = .next t ∧ Claims.sieveRan s w t tile.val h c ∧ t.fresh = s.fresh + 1 ∧ t.mem = w.mem) ∧
  (∀ (s : State) (tile : Fin 48) (h : Nat) (c : TileCmd) (o : Op) (idx : List Nat),
    s.sieveOp? tile.val h 4 (.tileDma tile h) = some (c, o) → scatterOk o.desc = true →
    let d := o.desc
    let bytes := svElems d * svWidth d
    extentStatus tile.val (s.tile tile.val).resBytes [(svIdx d, 4 * svN d), (svVal d, rowsSpan (svN d) (svStride d) bytes)]
      [(svTgt d, rowsSpan (svTgtRows d) (svTgtStride d) bytes)] = Stat.ok →
    s.indices tile.val (svIdx d) (svN d) (svTgtRows d) = some idx →
    let w := (List.zip (orderOf idx).u (orderOf idx).last).foldl (fun (u : State) (e : Nat × Nat) =>
      u.placeBytes (tileBase tile.val + svTgt d + e.1 * svTgtStride d)
        (s.wbytes tile.val (svVal d + e.2 * svStride d) bytes)) s
    ∃ t, exec (.scatterWrite tile h) s = .next t ∧ Claims.sieveRan s w t tile.val h c ∧ t.fresh = s.fresh ∧ t.mem = w.mem) ∧
  (∀ (s : State) (tile : Fin 48) (h sop : Nat) (c : TileCmd) (o : Op), s.sieveOp? tile.val h sop (.tileDma tile h) = some (c, o) →
    let d := o.desc
    let bytes := svElems d * svWidth d
    (sop = 1 → svCommonOk d = false → exec (.sieveUnique tile h) s = .next (s.failCmd tile.val Stat.opInvalid)) ∧
    (sop = 3 → scatterOk d = false → exec (.scatterAdd tile h) s = .next (s.failCmd tile.val Stat.opInvalid)) ∧
    (sop = 4 → scatterOk d = false → exec (.scatterWrite tile h) s = .next (s.failCmd tile.val Stat.opInvalid)) ∧
    (extentStatus tile.val (s.tile tile.val).resBytes [(svIdx d, 4 * svN d), (svVal d, rowsSpan (svN d) (svStride d) bytes)]
        [(svTgt d, rowsSpan (svTgtRows d) (svTgtStride d) bytes)] = Stat.ok →
      scatterOk d = true → s.indices tile.val (svIdx d) (svN d) (svTgtRows d) = none →
      (sop = 3 → exec (.scatterAdd tile h) s = .next (s.failCmd tile.val Stat.indexRange)) ∧
      (sop = 4 → exec (.scatterWrite tile h) s = .next (s.failCmd tile.val Stat.indexRange))))

/-- GATHER (R257, R258, R261, R263, R265): with the pinned table in order the unique rows are fetched one by one, counted as
they come (`u`); when all are at hand they are written one per index in batch order; an operation that waits for remote bytes
or a channel keeps what it has and keeps the Sieve; a bad check code or entry fails the command. SIEVE_CNT_CLR clears the
counters. -/
def Obligations.SieveGather : Prop :=
  (∀ (s u : State) (tile : Fin 48) (h : Nat) (c : TileCmd) (o : Op) (f : Fmt) (idx : List Nat) (got : List (Nat × List Byte))
    (e : Option (Reach Unit)),
    s.sieveOp? tile.val h 2 (.tileDma tile h) = some (c, o) → svCommonOk o.desc = true → svOut o.desc % 128 = 0 →
    (svFmt o.desc = 0x0B ∨ svFmt o.desc = 0x0C) → (s.tile tile.val).emb.valid = true →
    let tbl := s.rd (s.tile tile.val).emb.desc 64
    crcOk tbl 64 = true → tableOk tbl = true → fmtOf (svFmt o.desc) = some f →
    tdDim tbl * f.w / 8 ≤ svStride o.desc →
    extentStatus tile.val (s.tile tile.val).resBytes [(svIdx o.desc, 4 * svN o.desc)]
      [(svOut o.desc, rowsSpan (svN o.desc) (svStride o.desc) (tdDim tbl * f.w / 8))] = Stat.ok →
    (if o.prog.idx.isEmpty then s.indices tile.val (svIdx o.desc) (svN o.desc) (tdRows tbl) else some o.prog.idx) = some idx →
    State.gatherRows { ag := .tileDma tile h, eng := dieOfTile tile.val, fw := false, tenant := cdTenant c.desc, addr := State.tileAddr tile.val c }
      tile.val tbl o.prog.fetched ((orderOf idx).u.drop o.prog.rows.length) o.prog.rows s = (u, got, e) →
    (e = none → ∃ t, exec (.sieveGather tile h) s = .next t ∧
      t = ((u.gatherWrite tile.val o.desc f (orderOf idx).inv (got.map (fun v => rowValues tbl v.1 v.2))).updCmd tile.val
        (fun c => c.setOp h (fun o => { o with phase := .executed }))).updSieve (dieOfTile tile.val)
          (fun v => { v with run := none, ops := satAdd 32 v.ops 1 })) ∧
    (∀ ps, e = some (.need ps) → exec (.sieveGather tile h) s = .next ((u.fetchRemote (.tileDma tile h) ps).gatherWait tile.val h
      { o.prog with idx := idx, rows := got, fetched := o.prog.fetched ++ ps })) ∧
    (e = some .busy → exec (.sieveGather tile h) s = .next (u.gatherWait tile.val h { o.prog with idx := idx, rows := got })) ∧
    (∀ st, e = some (.failed st) → exec (.sieveGather tile h) s =
      .next (if st = Stat.checkFailed then u.embCheck tile.val else u.failCmd tile.val st))) ∧
  (∀ (s : State) (t h : Nat) (p : CompProg), ∃ u, u = s.gatherWait t h p ∧
    u = (s.updCmd t (fun c => TileCmd.wake (c.setOp h (fun o => { o with phase := .active, prog := p })))).updSieve (dieOfTile t)
      (fun v => { v with run := some (t, h) })) ∧
  (∀ (s : State) (tile : Fin 48) (h : Nat) (c : TileCmd) (o : Op), s.sieveOp? tile.val h 2 (.tileDma tile h) = some (c, o) →
    svCommonOk o.desc = true → svOut o.desc % 128 = 0 → (svFmt o.desc = 0x0B ∨ svFmt o.desc = 0x0C) →
    let tbl := s.rd (s.tile tile.val).emb.desc 64
    ((s.tile tile.val).emb.valid = false → exec (.sieveGather tile h) s = .next (s.failCmd tile.val Stat.tableInvalid)) ∧
    ((s.tile tile.val).emb.valid = true → crcOk tbl 64 = false → exec (.sieveGather tile h) s =
      .next (((s.tableCheck (dieOfTile tile.val)).raise (srcOf (dieOfTile tile.val) 0x18)).failCmd tile.val Stat.checkFailed)) ∧
    ((s.tile tile.val).emb.valid = true → crcOk tbl 64 = true → tableOk tbl = false →
      exec (.sieveGather tile h) s = .next (s.failCmd tile.val Stat.tableInvalid))) ∧
  (∀ (s : State) (cd : Fin 4), s.live = true →
    ∃ t, exec (.sieveCntClr cd) s = .next t ∧ t = s.updSieve cd.val (fun v => { run := v.run }) ∧
      (∀ k, k ≠ cd.val → t.sieveOf k = s.sieveOf k) ∧ t.sieveOf cd.val = { run := (s.sieveOf cd.val).run })

/-- Only one link, what its link die polices by, and the fault lines may have changed; no other link has. -/
def Claims.linkOnly (s t : State) (lk : Nat) : Prop :=
  t = { s with fab := { s.fab with links := t.fab.links, lds := t.fab.lds }, fcl := t.fcl } ∧ ∀ k, k ≠ lk → t.link k = s.link k

/-- A packet stands in an egress queue of a link, or waits for room in one (R336, R337). -/
def Claims.sent (t : State) (lk : Nat) (p : Pkt) : Prop :=
  ∃ x ∈ (t.link lk).queueOf p.queue ++ (t.link lk).wait, x.p = p

/-- A LINK_CTRL packet of this device, given to a link (R269, R272): kind 0x1 ACK, 0x2 NAK, 0x3 REPLAY_START, 0x4 INIT. -/
def Claims.ctl (s : State) (lk kind seq credit : Nat) : State :=
  s.enq lk { p := mkPkt 0x01 0 0 s.fid 0 s.cmap.cur (kind % 256 + seq % 4096 * 2 ^ 16 + credit % 2 ^ 64 * 2 ^ 32) [] }

/-- A HELLO packet of this device, given to a link (R274): kind 1 REQUEST, 2 REPLY, 3 UPDATE, with the record the link
sends. -/
def Claims.hello (s : State) (lk dst kind : Nat) : State :=
  s.enq lk { p := mkPkt 0x02 7 0 s.fid dst s.cmap.cur (kind % 256 + lk % 256 * 2 ^ 8) (toBytes 96 (s.helloOut lk)) }

/-- Packets on a link that carries them (R267, R270 to R272, R276, R337): one in order is accepted and delivered, or dropped
and counted; one that fails a check is discarded and one NAK sent with the LSEQ expected; a LINK_CTRL packet is outside the
numbering; an ACK releases packets and returns credit; a NAK starts a replay from the LSEQ it names; REPLAY_START ends the
discarding; an ACK is sent after 64 packets or 1 us. A packet given to a link stands in its queue or waits for room. -/
def Obligations.LinkTraffic : Prop :=
  (∀ (s : State) (lk : Nat) (x : Queued), Claims.linkOnly s (s.enq lk x) lk ∧ Claims.sent (s.enq lk x) lk x.p ∧
    (s.enq lk x).link lk = { s.link lk with q := ((s.enq lk x).link lk).q, wait := ((s.enq lk x).link lk).wait }) ∧
  (∀ (s : State) (lk : Fin 36) (p : Pkt) (fec : FecOutcome), s.live = true → (s.link lk.val).carries = true →
    (s.link lk.val).nakSent = false → p.hcrcOk = true → fecBad fec = false →
    (p.ptype = 1 → exec (.linkPacketReceive lk p fec) s = .next (s.updLink lk.val (fun l => l.fecCount fec))) ∧
    (p.ptype ≠ 1 → p.lseq = (s.link lk.val).rxSeq →
      let took := fun (l : Link) => { l.fecCount fec with
        rxSeq := (l.rxSeq + 1) % 4096
        accepted := l.accepted + 1
        acceptedAt := if l.accepted = 0 then s.ltu else l.acceptedAt }
      (ptypeKnown p.ptype = true → p.dst = s.fid →
        ((s.link lk.val).state ≠ .managementOnly ∧ s.peerActive p.src = true ∨ (2 ≤ p.ptype ∧ p.ptype ≤ 5)) →
        exec (.linkPacketReceive lk p fec) s = .next (s.updLink lk.val (fun l => { took l with rx := l.rx ++ [p] }))) ∧
      (ptypeKnown p.ptype = false ∨ (p.dst ≠ s.fid ∧ p.dst ≠ 0) ∨
          (((s.link lk.val).state = .managementOnly ∨ s.peerActive p.src = false) ∧ 6 ≤ p.ptype) →
        exec (.linkPacketReceive lk p fec) s = .next (s.updLink lk.val (fun l => { took l with
          dropped := satAdd 16 l.dropped 1, freed := Tbl.upd l.freed p.queue 0 (· + p.flits) }))))) ∧
  (∀ (s : State) (lk : Fin 36) (p : Pkt) (fec : FecOutcome), s.live = true → (s.link lk.val).carries = true →
    let u := s.updLink lk.val (fun l => { l.fecCount fec with hdrCheck := if p.hcrcOk then l.hdrCheck else satAdd 16 l.hdrCheck 1 })
    ((s.link lk.val).nakSent = true → exec (.linkPacketReceive lk p fec) s = .next u) ∧
    ((s.link lk.val).nakSent = false →
      (p.hcrcOk = false ∨ fecBad fec = true ∨ (p.ptype ≠ 1 ∧ p.lseq ≠ (s.link lk.val).rxSeq)) →
      exec (.linkPacketReceive lk p fec) s =
        .next (Claims.ctl (u.updLink lk.val (fun l => { l with nakSent := true })) lk.val 0x2 (s.link lk.val).rxSeq 0))) ∧
  (∀ (s : State) (lk : Fin 36) (seq : BitVec 12) (credit : BitVec 64), s.live = true → (s.link lk.val).carries = true →
    let n := match (s.link lk.val).replay with
      | [] => 0
      | (k, _) :: _ => if seqDist k seq.toNat < (s.link lk.val).replay.length then seqDist k seq.toNat + 1 else 0
    exec (.linkAck lk seq credit) s = .next (s.updLink lk.val (fun l => { l with
      freed := Tbl.upd l.freed 0 0 (· + 1)
      credit := (List.range 8).foldl (fun c k => Tbl.upd c k 0 (· + 8 * fld credit.toNat k 1)) l.credit
      replay := l.replay.drop n
      lastAck := s.ltu
      naks := if n = 0 then l.naks else 0
      replayAt := match l.replayAt with
        | some a => if (l.replay.drop n).any (fun e => e.1 = a) then some a else (l.replay.drop n).head?.map (·.1)
        | none => none }))) ∧
  (∀ (s : State) (lk : Fin 36) (seq : BitVec 12) (credit : BitVec 64), s.live = true → (s.link lk.val).carries = true →
    exec (.linkNak lk seq credit) s = .next (Claims.ctl (s.updLink lk.val (fun l => { l with
      freed := Tbl.upd l.freed 0 0 (· + 1)
      credit := (List.range 8).foldl (fun c k => Tbl.upd c k 0 (· + 8 * fld credit.toNat k 1)) l.credit
      naks := if l.nakSeq = seq.toNat then l.naks + 1 else 1
      nakSeq := seq.toNat
      replayAt := if l.replay.any (fun e => e.1 = seq.toNat) then some seq.toNat else none
      replays := satAdd 32 l.replays 1 })) lk.val 0x3 0 0)) ∧
  (∀ (s : State) (lk : Fin 36), s.live = true → (s.link lk.val).carries = true →
    exec (.replayStart lk) s =
      .next (s.updLink lk.val (fun l => { l with freed := Tbl.upd l.freed 0 0 (· + 1), nakSent := false }))) ∧
  (∀ (s : State) (lk : Fin 36), s.live = true → (s.link lk.val).carries = true →
    (64 ≤ (s.link lk.val).accepted ∨ (0 < (s.link lk.val).accepted ∧ (s.link lk.val).acceptedAt + 100 ≤ s.ltu)) →
    let l := s.link lk.val
    let u := fun k => Nat.min 255 (Tbl.getD l.freed k 0 / 8)
    exec (.linkAckTimer lk) s = .next (Claims.ctl (s.updLink lk.val (fun l => { l with
        accepted := 0, freed := (List.range 8).map (fun k => (k, Tbl.getD l.freed k 0 - 8 * u k)) }))
      lk.val 0x1 ((l.rxSeq + 4095) % 4096) ((List.range 8).foldl (fun c k => c + u k * 256 ^ k) 0)))

/-- A link's life (R272, R273, R301, R317, R356, R453): enabling starts bring-up and disabling takes it DOWN with what it held,
the packets of messages going back to their connections; INIT leaves LINK_UP, sends this end's INIT, and to a device a HELLO;
eight NAKs or 100 us without an ACK retrain it; after the retrain it is in the state it left and replays; 10 ms without LINK_UP
leaves it FAILED with its fault raised. -/
def Obligations.LinkLife : Prop :=
  (∀ (s : State) (lk : Nat), ∃ t, t = s.discardLink lk ∧ t.link lk = (s.link lk).discard ∧ (∀ k, k ≠ lk → t.link k = s.link k) ∧
    t = { s with fab := { s.fab with links := t.fab.links, conns := t.fab.conns } } ∧
    ∀ c, t.conn c = ((((s.link lk).q.flatMap (·.2) ++ (s.link lk).wait).filterMap (·.rae)).filter (·.1 = c)).foldl
      (fun y e => y.unqueued e.2.1 e.2.2) (s.conn c)) ∧
  (∀ (s : State) (lk : Fin 36), s.live = true →
    exec (.linkEnable lk false) s = .next ((s.discardLink lk.val).updLink lk.val (fun l => { l with
      enable := false, state := if (s.link lk.val).fenced then .failed else .down }))) ∧
  (∀ (s : State) (lk : Fin 36), s.live = true → ((s.link lk.val).state ≠ .down ∨ (s.link lk.val).fenced = true) →
    exec (.linkEnable lk true) s = .next (s.updLink lk.val (fun l => { l with enable := true }))) ∧
  (∀ (s : State) (lk : Fin 36), s.live = true → (s.link lk.val).state = .down → (s.link lk.val).fenced = false →
    exec (.linkEnable lk true) s = .next (s.updLink lk.val (fun l => { l with
      enable := true, state := .training, since := s.ltu, prev := none, retrains := satAdd 8 l.retrains 1 }))) ∧
  (∀ (s : State) (lk : Fin 36), s.live = true → (s.link lk.val).state = .training → (s.link lk.val).prev = none →
    (s.link lk.val).enable = true → (s.link lk.val).since + 25000000 < s.ltu →
    exec (.linkBringupRetry lk) s =
      .next (s.updLink lk.val (fun l => { l with since := s.ltu, retrains := satAdd 8 l.retrains 1 }))) ∧
  (∀ (s : State) (lk : Fin 36) (switch : Bool) (credit : BitVec 64), s.live = true → (s.link lk.val).state = .training →
    (s.link lk.val).prev = none →
    let u := Claims.ctl ((s.discardLink lk.val).updLink lk.val (fun l => { l with
      credit := (List.range 8).foldl (fun c k => Tbl.upd c k 0 (· + 8 * fld credit.toNat k 1)) []
      state := .linkUp
      partnerSwitch := switch
      txSeq := 0
      rxSeq := 0
      freed := [(0, 1)]
      lastAck := s.ltu
      partnerId := 0 })) lk.val 0x4 0 0x4040404040404040
    (switch = false → exec (.linkInit lk switch credit) s =
      .next ((Claims.hello u lk.val 0 1).updLink lk.val (fun l => { l with helloTries := 1, helloAt := some (s.ltu + 100) }))) ∧
    (switch = true → exec (.linkInit lk switch credit) s = .next ((Tbl.keys u.fab.peers).foldl (fun (v : State) f =>
      if lowestLink (v.peer f) = some lk.val && peerState (v.peer f) = 0 then
        let w := Claims.hello v lk.val f 1
        { w with fab := { w.fab with helloPeer := Tbl.put w.fab.helloPeer f (1, w.ltu) } }
      else v) u))) ∧
  (∀ (s : State) (lk : Fin 36), s.live = true → (s.link lk.val).carries = true →
    (8 ≤ (s.link lk.val).naks ∨ ((s.link lk.val).replay ≠ [] ∧ (s.link lk.val).lastAck + 10000 < s.ltu)) →
    exec (.linkRetrain lk) s = .next (s.updLink lk.val (fun l => { l with
      prev := some l.state, state := .training, since := s.ltu, retrains := satAdd 8 l.retrains 1, replayAt := none, sending := none }))) ∧
  (∀ (s : State) (lk : Fin 36), s.live = true → (s.link lk.val).carries = true →
    exec (.linkCtrlRetrain lk) s = .next (s.updLink lk.val (fun l => { l with
      prev := some l.state, state := .training, since := s.ltu, retrains := satAdd 8 l.retrains 1, replayAt := none, sending := none,
      retrainBit := true }))) ∧
  (∀ (s : State) (lk : Fin 36) (st : LinkState), s.live = true → (s.link lk.val).state = .training →
    (s.link lk.val).prev = some st →
    let up := fun (l : Link) => { l with state := st, prev := none, retrainBit := false, naks := 0, lastAck := s.ltu, nakSent := false }
    ((s.link lk.val).replay = [] → exec (.linkRetrainDone lk) s = .next (s.updLink lk.val up)) ∧
    (∀ k p rest, (s.link lk.val).replay = (k, p) :: rest → exec (.linkRetrainDone lk) s =
      .next (Claims.ctl (s.updLink lk.val (fun l => { up l with replayAt := some k, replays := satAdd 32 l.replays 1 })) lk.val 0x3 0 0))) ∧
  (∀ (s : State) (lk : Fin 36) (st : LinkState), s.live = true → (s.link lk.val).state = .training →
    (s.link lk.val).prev = some st → (s.link lk.val).since + 1000000 < s.ltu →
    exec (.linkRetrainTimeout lk) s = .next (((s.discardLink lk.val).updLink lk.val (fun l => { l with state := .failed })).raise
      (0x180 + 0x60 * (lk.val / 18) + lk.val % 18))) ∧
  (∀ (s : State) (lk : Fin 36), s.live = true → (s.link lk.val).carries = true → (s.link lk.val).partnerSwitch = false →
    let u := Claims.hello s lk.val (s.link lk.val).partnerId 3
    ((s.link lk.val).helloRec = none → exec (.linkCtrlHello lk) s = .next u) ∧
    (∀ r, (s.link lk.val).helloRec = some r → exec (.linkCtrlHello lk) s = .next (u.judge lk.val (s.link lk.val).partnerId r))) ∧
  (∀ (s : State) (lk : Fin 36), s.live = true → (s.link lk.val).carries = true → (s.link lk.val).partnerSwitch = true →
    exec (.linkCtrlHello lk) s = .next ((Tbl.keys s.fab.peers).foldl (fun (v : State) f =>
      if lowestLink (v.peer f) = some lk.val && peerState (v.peer f) ≠ 3 then
        let w := Claims.hello v lk.val f 3
        match Tbl.find? v.fab.helloRec f with
        | some r => w.judge lk.val f r
        | none => w
      else v) s)) ∧
  (∀ (s : State) (lk : Fin 36), s.live = true →
    exec (.linkCntClr lk) s = .next (s.updLink lk.val (fun l => { l with
      fecCorrected := 0, fecUncorrected := 0, replays := 0, hdrCheck := 0, dropped := 0 })))

/-- Agreement between devices and the tables of the MSF (R270, R271, R273 to R277, R282, R302, R303): a REQUEST is answered;
a record that is judged sets the link and the peer entry by the first check of R275 it fails; a REPLY that nothing waits for is
counted; a HELLO without a REPLY is sent three times; a message with a good CRC-32C is kept; table entries are read and
written through TBL_DATA, or REJECTed. -/
def Obligations.Agreement : Prop :=
  (∀ (s : State) (lk : Fin 36) (src : BitVec 12) (r : BitVec 768), s.live = true → (s.link lk.val).carries = true →
    exec (.helloRequest lk src r) s =
      .next (Claims.hello ((s.takeHello src.toNat 1).keepHello lk.val src.toNat r.toNat) lk.val src.toNat 2)) ∧
  (∀ (s : State) (lk : Fin 36) (src : BitVec 12) (r : BitVec 768), s.live = true → (s.link lk.val).carries = true →
    (s.helloAwaited lk.val src.toNat = true →
      exec (.helloReply lk src r) s = .next ((s.takeHello src.toNat 2).judge lk.val src.toNat r.toNat)) ∧
    (s.helloAwaited lk.val src.toNat = false → exec (.helloReply lk src r) s =
      .next ((s.takeHello src.toNat 2).updLnd (dieOfLink lk.val) (fun d => { d with lateResp := satAdd 32 d.lateResp 1 }))) ∧
    exec (.helloUpdate lk src r) s = .next ((s.takeHello src.toNat 3).judge lk.val src.toNat r.toNat)) ∧
  (∀ (s : State) (lk f r : Nat), f ≠ 0 → (s.link lk).partnerSwitch = false →
    let v := helloVerdict (s.helloOut lk) r (s.peer (helloFid r))
    (v = 0 ∨ s.peerActive f = false) →
    ∃ t, t = s.judge lk f r ∧ t = { s with fab := t.fab } ∧
      t.link lk = { (s.link lk).agree v with partnerId := f, partnerUid := fld r 0 8, helloRec := some r, helloAt := none, helloTries := 0 } ∧
      t.peer f = (if v = 0 ∨ (3 ≤ v ∧ v ≤ 6) then peerLearn (s.peer f) r v else peerMark (s.peer f) 2 v) ∧
      ∀ g, g ≠ f → t.peer g = s.peer g) ∧
  (∀ (s : State) (lk : Fin 36) (at_ : Nat), s.live = true → (s.link lk.val).carries = true →
    (s.link lk.val).helloAt = some at_ → at_ + 1000000 < s.ltu →
    ((s.link lk.val).helloTries < 3 → exec (.helloTimeout (.link lk)) s = .next ((Claims.hello s lk.val 0 1).updLink lk.val
      (fun l => { l with helloTries := l.helloTries + 1, helloAt := some s.ltu }))) ∧
    (3 ≤ (s.link lk.val).helloTries → exec (.helloTimeout (.link lk)) s =
      .next (s.updLink lk.val (fun l => { l.agree 7 with helloAt := none, helloTries := 0 })))) ∧
  (∀ (s : State) (f : BitVec 12) (n at_ : Nat), s.live = true → Tbl.find? s.fab.helloPeer f.toNat = some (n, at_) →
    at_ + 1000000 < s.ltu →
    (∀ lk, n < 3 → lowestLink (s.peer f.toNat) = some lk →
      let u := Claims.hello s lk f.toNat 1
      exec (.helloTimeout (.peer f)) s =
        .next { u with fab := { u.fab with helloPeer := Tbl.put u.fab.helloPeer f.toNat (n + 1, u.ltu) } }) ∧
    (3 ≤ n ∨ lowestLink (s.peer f.toNat) = none → exec (.helloTimeout (.peer f)) s =
      .next { s with fab := { s.fab with
        peers := Tbl.put s.fab.peers f.toNat (peerMark (s.peer f.toNat) 3 (fld (s.peer f.toNat) 0x12 1))
        helloPeer := Tbl.del s.fab.helloPeer f.toNat } })) ∧
  (∀ (s : State) (lk : Fin 36) (src : BitVec 12) (msg : List Byte) (crc : BitVec 32), s.live = true →
    (s.link lk.val).carries = true →
    let u := (s.takeRxLike (fun p => p.ptype = 3 && p.src = src.toNat)).1
    (crc32c msg ≠ crc.toNat → exec (.mgmtMessage lk src msg crc) s = .next u) ∧
    (crc32c msg = crc.toNat → exec (.mgmtMessage lk src msg crc) s =
      .next { u with fab := { u.fab with mgmtIn := u.fab.mgmtIn ++ [(src.toNat, msg)] } })) ∧
  (∀ (s : State) (die : Fin 2) (idx : BitVec 14), s.live = true →
    let done := fun v => s.updLnd die.val (fun d => { d with tblData := v, tblDone := true })
    let reject := s.updLnd die.val (fun d => { d with tblReject := true })
    exec (.msfTblRead die 0 idx) s =
      .next (if idx.toNat < 2048 then done (Tbl.getD (s.lnd die.val).windows idx.toNat 0) else reject) ∧
    exec (.msfTblRead die 1 idx) s = .next (done (s.region idx.toNat)) ∧
    exec (.msfTblRead die 2 idx) s = .next (if idx.toNat < 4096 then done (s.peer idx.toNat) else reject) ∧
    exec (.msfTblRead die 3 idx) s = .next (if idx.toNat < 3 then done (bits s.fab.local_ (256 * idx.toNat) 256) else reject)) ∧
  (∀ (s : State) (die : Fin 2) (idx : BitVec 14), s.live = true →
    exec (.msfTblWrite die 0 idx) s = .next (if idx.toNat < 2048
      then s.updLnd die.val (fun d => { d with windows := Tbl.put d.windows idx.toNat d.tblData, tblDone := true })
      else s.updLnd die.val (fun d => { d with tblReject := true }))) ∧
  (∀ (s : State) (idx : BitVec 14), s.live = true →
    let v := (s.lnd 0).tblData
    let reject := s.updLnd 0 (fun d => { d with tblReject := true })
    exec (.msfTblWrite 0 1 idx) s = .next (({ s with fab := { s.fab with regions := Tbl.put s.fab.regions idx.toNat v } }).updLnd 0
      (fun d => { d with tblDone := true })) ∧
    exec (.msfTblWrite 0 2 idx) s = .next (if idx.toNat < 4096
      then (({ s with fab := { s.fab with peers := Tbl.put s.fab.peers idx.toNat v } } : State).greetPeer idx.toNat).updLnd 0
        (fun d => { d with tblDone := true })
      else reject) ∧
    exec (.msfTblWrite 0 3 idx) s = .next (if idx.toNat < 3
      then ({ s with fab := { s.fab with local_ := setBits s.fab.local_ (256 * idx.toNat) 256 v } }).updLnd 0
        (fun d => { d with tblDone := true })
      else reject)) ∧
  (∀ (s : State) (table : Fin 4) (idx : BitVec 14), s.live = true → table.val ≠ 0 →
    exec (.msfTblWrite 1 table idx) s = .next (s.updLnd 1 (fun d => { d with tblReject := true })))

/-- The slot that the next request of a link die takes: the lowest free one (R298). -/
def Claims.msfSlot (s : State) (die : Nat) : Option Nat :=
  firstBelow 4096 (fun i => match Tbl.find? (s.lnd die).txn i with
    | some t => t.ag.isNone && t.retired.isNone
    | none => true)

/-- What a request writes in its slot `i` (R290, R292, R298): who issued it, what it does, its next generation and the time. -/
def Claims.msfTxn (s : State) (ag : Agent) (addr n mop i : Nat) : Txn :=
  { gen := ((Tbl.getD (s.lnd (apDie addr)).txn i {}).gen + 1) % 16, ag := some ag, agent := s.agentCode ag, mop := mop
    addr := addr, len := n, dest := wnDest (s.window addr), tenant := wnTenant (s.window addr)
    link := peerMsfLink (s.peer (wnDest (s.window addr))), anchored := wnFlag (s.window addr) 3, sent := s.ltu, retired := none }

/-- The packet of a request in slot `i` (R289, R290): KEY and REGION of the window, MOP, ANCHORED, TXN with the generation, the
offset within the region, AGENT, and the operand or the burst's bytes. -/
def Claims.msfPkt (s : State) (ag : Agent) (addr n mop : Nat) (data : List Byte) (i : Nat) : Pkt :=
  let w := s.window addr
  let gen := ((Tbl.getD (s.lnd (apDie addr)).txn i {}).gen + 1) % 16
  mkPkt 0x04 (if wnFlag w 3 then 1 else 5) (if mop = mopReadBurst || mop = mopWriteBurst then n - 1 else 0) s.fid
    (wnDest w) s.cmap.cur (fld w 0x10 4 + fld w 0x14 2 * 2 ^ 32 + mop * 2 ^ 48 + b2n (wnFlag w 3) * 2 ^ 56 +
      (i + gen * 2 ^ 12) * 2 ^ 64 + (bits w 0 40 + apOffset addr) % 2 ^ 40 * 2 ^ 80 + s.agentCode ag * 2 ^ 120) data

/-- A request leaves in slot `i`: the slot is written and the packet given to the destination's MSF_LINK. -/
def Claims.msfSent (s : State) (ag : Agent) (addr n mop : Nat) (data : List Byte) (i : Nat) : State :=
  (s.updLnd (apDie addr) (fun d => { d with txn := Tbl.put d.txn i (Claims.msfTxn s ag addr n mop i) })).enq
    (peerMsfLink (s.peer (wnDest (s.window addr))))
    { p := Claims.msfPkt s ag addr n mop data i, tenant := some (wnTenant (s.window addr)) }

/-- An access that R285 refuses: a window whose CRC fails is counted and reported, MSF_FAULT keeps the first fault, and the
issuer has the status (R285, R293, R302). -/
def Claims.msfRefused (s : State) (ag : Agent) (addr mop status cause : Nat) : State :=
  let u := if crcOk (s.window addr) 32 then s else (s.tableCheck (5 + apDie addr)).raise (0x180 + 0x60 * apDie addr + 0x16)
  (u.msfFault (apDie addr) cause (wnDest (s.window addr)) (u.agentCode ag) addr).msfFail ag mop status

/-- Accesses to the aperture (R283 to R300). One that passes R285 leaves as one request when a slot is free and no write to its
peer is left on another link, else it waits and nothing changes; one that fails has its status. A control core's operation
clears that hart's fault bit; a thread's load then waits for its slot; a committed store, add or swap leaves the commit unit's
list; a DMA burst is marked issued and counted. -/
def Obligations.MsfIssue : Prop :=
  (∀ (s : State) (ag : Agent) (addr n mop : Nat) (data : List Byte),
    (∀ st cause, s.windowCheck ag addr n mop = some (st, cause) →
      s.msfIssue ag addr n mop data = (Claims.msfRefused s ag addr mop st cause, none)) ∧
    (s.windowCheck ag addr n mop = none →
      (s.linkMoving (wnDest (s.window addr)) = true ∨ Claims.msfSlot s (apDie addr) = none →
        s.msfIssue ag addr n mop data = (s, none)) ∧
      (∀ i, s.linkMoving (wnDest (s.window addr)) = false → Claims.msfSlot s (apDie addr) = some i →
        let t := Claims.msfSent s ag addr n mop data i
        s.msfIssue ag addr n mop data = (t, some i) ∧ t = { s with fab := t.fab, fcl := t.fcl } ∧
        Claims.sent t (peerMsfLink (s.peer (wnDest (s.window addr)))) (Claims.msfPkt s ag addr n mop data i) ∧
        (∀ k, Tbl.getD (t.lnd (apDie addr)).txn k {} =
          if k = i then Claims.msfTxn s ag addr n mop i else Tbl.getD (s.lnd (apDie addr)).txn k {})))) ∧
  (∀ (s : State) (h : Fin 8) (addr : Nat) (v w : BitVec 64) (c : Instr) (mop : Nat) (data : List Byte), s.live = true →
    inAperture addr = true →
    (c, mop, data) ∈ [(.msfLoad (.control h) addr, 1, []), (.msfStore (.control h) addr v, 2, toBytes 32 v.toNat),
      (.msfAdd (.control h) addr v, 3, toBytes 32 v.toNat), (.msfSwap (.control h) addr v, 4, toBytes 32 v.toNat),
      (.msfCas (.control h) addr v w, 5, toBytes 8 v.toNat ++ toBytes 24 w.toNat)] →
    (addr % 8 ≠ 0 → exec c s = .next s) ∧
    (addr % 8 = 0 → exec c s =
      .next ({ s with fab := { s.fab with ctlFault := s.fab.ctlFault &&& ~~~(1#8 <<< h.val) } }.msfIssue (.control h) addr 8 mop data).1)) ∧
  (∀ (s : State) (tile : Fin 48) (th : Fin 32) (rd : Fin 32) (addr : Nat) (c : TileCmd) (h : Thread) (acc : CoreAcc),
    s.live = true → inAperture addr = true → s.cmd? tile.val = some c → c.thread? th.val = some h →
    h.wait = some (.issue addr acc) → acc.rd = rd →
    let r := s.msfIssue (.core tile th rd) (addr / 8 * 8) 8 1 []
    (∀ i, r.2 = some i → exec (.msfLoad (.core tile th rd) addr) s =
      .next (r.1.updThread tile.val th.val (fun x => { x with wait := some (.remote (apDie addr) i (addr % 8) acc) }))) ∧
    (r.2 = none → exec (.msfLoad (.core tile th rd) addr) s = .next r.1)) ∧
  (∀ (s : State) (addr : Nat) (v : BitVec 64) (o : CommitOp) (rest : List CommitOp) (c : Instr) (mop : Nat),
    s.live = true → inAperture addr = true → s.fab.commitOps = o :: rest →
    (c, mop) ∈ [(.msfStore .commit addr v, 2), (.msfAdd .commit addr v, 3), (.msfSwap .commit addr v, 4)] →
    (o.addr ≠ addr ∨ o.mop ≠ mop ∨ o.val ≠ v.toNat → exec c s = .next s) ∧
    (o.addr = addr → o.mop = mop → o.val = v.toNat →
      let r := s.msfIssue .commit addr 8 mop (toBytes 32 v.toNat)
      let u := { r.1 with fab := { r.1.fab with commitOps := rest } }
      (s.windowCheck .commit addr 8 mop ≠ none →
        exec c s = .next (u.deferLost o.tag o.tenant (wnDest (s.window addr)))) ∧
      (s.windowCheck .commit addr 8 mop = none →
        (∀ i, r.2 = some i → exec c s = .next (u.updLnd (apDie addr) (fun d => { d with
          txn := Tbl.upd d.txn i {} (fun t => { t with agent := t.agent + o.tag * 2 ^ 32 + o.tenant * 2 ^ 48 }) }))) ∧
        (r.2 = none → exec c s = .next s)))) ∧
  (∀ (s : State) (ag : Agent) (addr len : Nat) (wr : Bool) (b : Burst), s.live = true → s.burst? ag addr len wr = some b →
    let c := if wr then Instr.writeBurst ag addr len else .readBurst ag addr len
    let r := s.msfIssue ag addr len (if wr then 7 else 6) (if wr then b.data.getD (s.bytes b.loc len) else [])
    let u := { r.1 with fab := { r.1.fab with bursts := r.1.fab.bursts.map (fun x => if x = b then { x with issued := true } else x) } }
    (wr = true → b.data = none → s.heldChan b.loc len ≠ none → exec c s = .next s) ∧
    ((wr = true → b.data = none → s.heldChan b.loc len = none) →
      (r.2 = none → exec c s = .next r.1) ∧
      (r.2 ≠ none →
        (∀ e k, u.chanOfAgent ag = some (e, k) →
          exec c s = .next (u.updDch e k (fun x => { x with bursts := satAdd 32 x.bursts 1 }))) ∧
        (u.chanOfAgent ag = none → exec c s = .next u)))) ∧
  (∀ (s : State) (ag : Agent) (addr len : Nat), s.burst? ag addr len false = none → exec (.readBurst ag addr len) s = .next s) ∧
  (∀ (s : State) (ag : Agent) (addr len : Nat), s.burst? ag addr len true = none → exec (.writeBurst ag addr len) s = .next s)

/-- The bytes that a received request stores, none when it stores nothing (R289). -/
def Claims.mopStored (s : State) (p : Pkt) : Option (List Byte) :=
  let old := s.rd (s.mqAddr p) 8
  let op := ofBytes (p.data.take 8)
  match mqMop p with
  | 2 => some (toBytes 8 op)
  | 3 => some (toBytes 8 (wrap64 (old + op)))
  | 4 => some (toBytes 8 op)
  | 5 => if old = op then some ((p.data.drop 8).take 8) else none
  | 7 => some (p.data.take (mqLen p))
  | _ => none

/-- The data that the response of a received request carries (R289). -/
def Claims.mopReturned (s : State) (p : Pkt) : List Byte :=
  match mqMop p with
  | 1 => toBytes 32 (s.rd (s.mqAddr p) 8)
  | 3 => toBytes 32 (s.rd (s.mqAddr p) 8)
  | 4 => toBytes 32 (s.rd (s.mqAddr p) 8)
  | 5 => toBytes 32 (s.rd (s.mqAddr p) 8)
  | 6 => s.bytes (s.mqAddr p) (mqLen p)
  | _ => []

/-- The response to a request (R290). -/
def Claims.response (s : State) (p : Pkt) (st : Nat) (data : List Byte) : Pkt :=
  mkPkt 0x05 p.queue (if st = 0 && mqMop p = 6 then mqLen p - 1 else 0) s.fid p.src s.cmap.cur
    (mqTxn p + st * 2 ^ 16 + mqMop p * 2 ^ 24) (if st = 0 then data else [])

/-- The link an answer takes: the peer's MSF_LINK, else the lowest link that reaches it (R286). -/
def Claims.answerLink (s : State) (p : Pkt) : Option Nat :=
  if s.peer p.src ≠ 0 then some (peerMsfLink (s.peer p.src))
  else firstBelow 36 (fun k => (s.link k).carries && (s.link k).partnerId = p.src)

/-- An outstanding request's slot is free again, or retired with the time, and its burst is no longer waited for (R298). -/
def Claims.freed (s : State) (die slot : Nat) (x : Txn) (ag : Agent) (retire : Bool) : State :=
  let u := s.updLnd die (fun d =>
    { d with txn := Tbl.put d.txn slot { x with ag := none, retired := if retire then some s.ltu else none } })
  match u.fab.bursts.find? (fun b => b.ag = ag && b.addr = x.addr && b.len = x.len && b.issued) with
  | some b => { u with fab := { u.fab with bursts := u.fab.bursts.erase b } }
  | none => u

/-- Requests received, their answers and the slots of R298 (R289 to R302). A request that fails a check is answered with that
status and performs no access; one that passes is held with its channel, waits behind an earlier write of its source, or is
performed and answered; a response that matches frees its slot and gives its issuer the result; a late one is discarded and
counted; a timeout and ABANDON end requests with a fault. -/
def Obligations.MsfReceive : Prop :=
  (∀ (s : State) (die : Nat) (p : Pkt) (st : Nat) (data : List Byte),
    let t := s.msfRespond die p st data
    (∀ d, (t.lnd d).refusedIn = if d = die ∧ st ≠ 0 then satAdd 32 (s.lnd d).refusedIn 1 else (s.lnd d).refusedIn) ∧
    (Claims.answerLink s p = none →
      t = if st = 0 then s else s.updLnd die (fun d => { d with refusedIn := satAdd 32 d.refusedIn 1 })) ∧
    (∀ lk, Claims.answerLink s p = some lk → t = { s with fab := t.fab, fcl := t.fcl } ∧
      Claims.sent t lk (Claims.response s p st data))) ∧
  (∀ (s : State) (die : Nat) (p : Pkt),
    s.msfPerform die p true = s.msfRespond die p 0x07 [] ∧
    (1 ≤ mqMop p → mqMop p ≤ 7 →
      let t := s.msfPerform die p false
      t.mem = (match Claims.mopStored s p with
        | some bs => memPut memKey s.mem (s.mqAddr p) bs
        | none => s.mem) ∧
      t = { s with fab := t.fab, fcl := t.fcl, mem := t.mem, tiles := t.tiles, acct := t.acct, feed := t.feed } ∧
      ∀ lk, Claims.answerLink s p = some lk → Claims.sent t lk (Claims.response s p 0 (Claims.mopReturned s p)))) ∧
  (∀ (s : State) (die : Nat) (p : Pkt) (poison : Bool),
    let behind := mopWrites (mqMop p) = true ∧ s.earlierHeld p (s.heldChan (s.mqAddr p) (mqLen p)) = true
    (behind → s.msfReach die p poison = s.updLnd die (fun d => { d with msfIn := d.msfIn ++ [p] })) ∧
    (¬ behind →
      (s.heldChan (s.mqAddr p) (mqLen p) = none → s.msfReach die p poison = s.msfPerform die p poison) ∧
      (∀ ch, s.heldChan (s.mqAddr p) (mqLen p) = some ch → s.msfReach die p poison =
        s.holdAcc ch ⟨.fabric die, mopWrites (mqMop p), chanOff (s.mqAddr p), mqLen p, [],
          .msf ⟨die % 2, Nat.mod_lt _ (by decide)⟩ p⟩))) ∧
  (∀ (s : State) (die : Fin 2) (p : Pkt) (poison : Bool), s.live = true → p.ptype = 4 →
    let q := (s.arrive p).2
    let u := (s.takeRx q).1
    let st := u.msfReqStatus die.val q
    u = { s with fab := { s.fab with links := u.fab.links } } ∧
    (st = 0 → exec (.msfRequestReceive die p poison) s = .next (u.msfReach die.val q poison)) ∧
    (st ≠ 0 → u.mqCheck q ≠ 0 → st ≠ 3 → exec (.msfRequestReceive die p poison) s = .next (u.msfRespond die.val q st [])) ∧
    (st ≠ 0 → u.mqCheck q ≠ 0 → st = 3 →
      exec (.msfRequestReceive die p poison) s = .next ((u.regionCrc die.val (mqRegion q)).msfRespond die.val q st [])) ∧
    (st ≠ 0 → u.mqCheck q = 0 →
      st ≠ 3 ∧ exec (.msfRequestReceive die p poison) s =
        .next ((u.violateAt (.fabric die.val) (u.mqAddr q)).msfRespond die.val q st []))) ∧
  (∀ (s : State) (die slot : Nat) (x : Txn) (ag : Agent) (data : List Byte) (retire : Bool),
    let w := Claims.freed s die slot x ag retire
    let v := ofBytes (data.take 8)
    let done := s.fab.bursts.find? (fun b => b.ag = ag && b.addr = x.addr && b.len = x.len && b.issued)
    (∀ d k, Tbl.getD (w.lnd d).txn k {} = if d = die ∧ k = slot then
      { x with ag := none, retired := if retire then some s.ltu else none } else Tbl.getD (s.lnd d).txn k {}) ∧
    (∀ h, ag = .control h → s.msfEnd die slot x ag 0 data retire =
      if x.mop = 2 then w else { w with fab := { w.fab with ctlResult := v } }) ∧
    (ag = .commit → s.msfEnd die slot x ag 0 data retire = w) ∧
    (∀ tl th rd c h lane acc, ag = .core tl th rd → s.cmd? tl.val = some c → c.thread? th.val = some h →
      h.wait = some (.remote die slot lane acc) → s.msfEnd die slot x ag 0 data retire =
        (w.updThread tl.val th.val (fun y => { y.loaded acc (v >>> (8 * lane)) with wait := none })).updCmd tl.val TileCmd.wake) ∧
    (∀ e c b, ag = .dma e c → done = some b → s.msfEnd die slot x ag 0 data retire =
      if b.write then w else w.burstData ag b ((data.drop b.skip).take b.used)) ∧
    (∀ tl h b, ag = .tileDma tl h → done = some b → s.msfEnd die slot x ag 0 data retire =
      if b.write then w else w.burstData ag b ((data.drop b.skip).take b.used)) ∧
    (∀ st, st ≠ 0 →
      let f := w.msfFault die st x.dest (x.agent % 2 ^ 24) x.addr
      f = { w with fab := { w.fab with lds := f.fab.lds } } ∧ (f.lnd die).faultValid = true ∧
      ((s.lnd die).faultValid = false → (f.lnd die).faultCause = st ∧ (f.lnd die).faultDest = x.dest ∧
        (f.lnd die).faultAgent = x.agent % 2 ^ 24 ∧ (f.lnd die).faultAddr = x.addr) ∧
      (∀ h, ag = .control h → s.msfEnd die slot x ag st data retire = f.ctlFail h x.mop) ∧
      (∀ tl th rd, ag = .core tl th rd → s.msfEnd die slot x ag st data retire = f.failCmd tl.val Stat.remoteFault) ∧
      (ag = .commit → s.msfEnd die slot x ag st data retire =
        f.deferLost (bits x.agent 32 10) (bits x.agent 48 16) x.dest) ∧
      (∀ e c, ag = .dma e c → s.msfEnd die slot x ag st data retire =
        f.dmaFail ag Stat.remoteFault ((done.map (fun b => b.pos + 1)).getD 0)) ∧
      (∀ tl h, ag = .tileDma tl h → s.msfEnd die slot x ag st data retire =
        f.dmaFail ag Stat.remoteFault ((done.map (fun b => b.pos + 1)).getD 0)))) ∧
  (∀ (s : State) (die : Fin 2) (p : Pkt) (x : Txn), s.live = true → p.ptype = 5 →
    let q := (s.arrive p).2
    let u := (s.takeRx q).1
    let slot := bits (bits p.h 96 16) 0 12
    let st := fld p.h 0x0E 1
    Tbl.getD (s.lnd die.val).txn slot {} = x →
    u = { s with fab := { s.fab with links := u.fab.links } } ∧
    (x.ag = none ∨ x.gen ≠ bits (bits p.h 96 16) 12 4 → exec (.msfResponseReceive die p) s =
      .next (u.updLnd die.val (fun d => { d with lateResp := satAdd 32 d.lateResp 1 }))) ∧
    (∀ ag, x.ag = some ag → x.gen = bits (bits p.h 96 16) 12 4 →
      let v := if st = 0 then u else u.updLnd die.val (fun d => { d with refusedOut := satAdd 32 d.refusedOut 1 })
      let w := if p.data.isEmpty then v else v.countRx x.tenant q.via (32 * p.flits)
      exec (.msfResponseReceive die p) s = .next (w.msfEnd die.val slot x ag st p.data false))) ∧
  (∀ (s : State) (die : Fin 2) (slot : Fin 4096) (x : Txn) (ag : Agent), s.live = true →
    Tbl.getD (s.lnd die.val).txn slot.val {} = x → x.ag = some ag →
    (x.anchored = true ∨ s.ltu ≤ x.sent + 100 * (s.lnd die.val).timeoutUs → exec (.msfTimeout die slot) s = .next s) ∧
    (x.anchored = false → x.sent + 100 * (s.lnd die.val).timeoutUs < s.ltu → exec (.msfTimeout die slot) s =
      .next ((s.updLnd die.val (fun d => { d with timeouts := satAdd 32 d.timeouts 1 })).msfEnd die.val slot.val x ag 0x10 [] true))) ∧
  (∀ (s : State) (die : Fin 2) (slot : Fin 4096), (Tbl.getD (s.lnd die.val).txn slot.val {}).ag = none →
    exec (.msfTimeout die slot) s = .next s) ∧
  (∀ (s : State) (die : Fin 2) (slot : Fin 4096) (x : Txn) (r : Nat), s.live = true →
    Tbl.getD (s.lnd die.val).txn slot.val {} = x → x.retired = some r →
    (s.ltu ≤ r + 100 * (s.lnd die.val).timeoutUs → exec (.txnSlotReissue die slot) s = .next s) ∧
    (r + 100 * (s.lnd die.val).timeoutUs < s.ltu → exec (.txnSlotReissue die slot) s =
      .next (s.updLnd die.val (fun d => { d with txn := Tbl.put d.txn slot.val { x with retired := none } })))) ∧
  (∀ (s : State) (die : Fin 2) (dest : BitVec 12), s.live = true → dest.toNat ≠ 0 →
    exec (.msfAbandon die dest) s = .next ((Tbl.keys (s.lnd die.val).txn).foldl (fun u i =>
      let x := Tbl.getD (u.lnd die.val).txn i {}
      match x.ag with
      | some ag => if x.dest = dest.toNat then u.msfEnd die.val i x ag 0x12 [] false else u
      | none => u) s)) ∧
  (∀ (s : State) (die : Fin 2) (dest : BitVec 12), s.live = true → dest.toNat ≠ 0 →
    (∀ i ag, (Tbl.getD (s.lnd die.val).txn i {}).ag = some ag → (Tbl.getD (s.lnd die.val).txn i {}).dest = dest.toNat →
      ∃ h, ag = .control h) →
    ∃ t, exec (.msfAbandon die dest) s = .next t ∧ t = { s with fab := t.fab } ∧
      (∀ i ag, (Tbl.getD (t.lnd die.val).txn i {}).ag = some ag → (Tbl.getD (t.lnd die.val).txn i {}).dest ≠ dest.toNat) ∧
      ∀ i, (Tbl.getD (s.lnd die.val).txn i {}).dest ≠ dest.toNat →
        Tbl.getD (t.lnd die.val).txn i {} = Tbl.getD (s.lnd die.val).txn i {}) ∧
  (∀ (s : State) (die : Fin 2) (v : BitVec 32), s.live = true → 10 ≤ bits v.toNat 0 17 → bits v.toNat 0 17 ≤ 100000 →
    exec (.msfCfgWrite die v) s = .next (s.updLnd die.val (fun d => { d with timeoutUs := bits v.toNat 0 17 }))) ∧
  (∀ (s : State) (die : Fin 2) (v : BitVec 32), (bits v.toNat 0 17 < 10 ∨ 100000 < bits v.toNat 0 17) →
    exec (.msfCfgWrite die v) s = .next s) ∧
  (∀ (s : State) (die : Fin 2), s.live = true →
    exec (.msfCntClr die) s = .next (s.updLnd die.val (fun d => { d with
      timeouts := 0, lateResp := 0, refusedOut := 0, refusedIn := 0 })))

/-- What a link keeps when only its egress queues have changed. -/
def Claims.queuesOnly (a b : Link) : Prop := b = { a with q := b.q, wait := b.wait }

/-- A packet of queue k is marked as it leaves (R343): the queue it leaves behind is at its mark, or its policer said so. -/
def Claims.ecn (l : Link) (k : Nat) (x : Queued) : Bool :=
  k ≠ 0 && ((nth l.mark (k - 1) 0 ≠ 0 && decide (16 * nth l.mark (k - 1) 0 ≤ l.flitsIn k - x.p.flits)) ||
    (x.pol.isSome && x.colour.getD .green ≠ .green))

/-- A link once a packet of queue k has left it, its queues apart (R272, R337, R341 to R343): credit, the wire, and for Q1 to Q7
the next LSEQ, the replay buffer and the time its first packet stands there; the deficit of Q2 to Q7; the count of marks. -/
def Claims.afterSend (l : Link) (k i start now : Nat) (x : Queued) : Link :=
  let rest := (l.queueOf k).take i ++ (l.queueOf k).drop (i + 1)
  { l with
    credit := Tbl.upd l.credit k 0 (· - x.p.flits)
    sending := some (k, start + 32 * x.p.flits)
    txSeq := if k = 0 then l.txSeq else (l.txSeq + 1) % 4096
    replay := if k = 0 then l.replay
      else l.replay ++ [(l.txSeq, (if Claims.ecn l k x then x.p.mark else x.p).stamp l.txSeq)]
    lastAck := if k = 0 then l.lastAck else if l.replay.isEmpty then now else l.lastAck
    deficit := if k < 2 then l.deficit
      else setNth l.deficit (k - 2) (if rest.isEmpty then 0 else nth l.deficit (k - 2) 0 - x.p.flits)
    ecnMarked := if Claims.ecn l k x then satAdd 32 l.ecnMarked 1 else l.ecnMarked }

/-- A link at a packet boundary (R337 to R343): Q0's candidate goes when its credit allows, unsequenced; then a replay's next
packet; then Q1's candidate; then the pick of the weighted group; else nothing. A packet of Q1 to Q7 takes the next LSEQ, its
stamp and a place in the replay buffer. -/
def Obligations.EgressSelect : Prop :=
  (∀ (s : State) (lk : Fin 36), (s.live = false ∨ (s.link lk.val).carries = false ∨ (s.link lk.val).decision s.ltu = none) →
    exec (.egressSelect lk) s = .next s) ∧
  (∀ (s : State) (lk : Fin 36) (start : Nat), s.live = true → (s.link lk.val).carries = true →
    (s.link lk.val).decision s.ltu = some start →
    let r := (s.updLink lk.val (fun l => { l with sending := none })).cand lk.val 0
    (∀ i x, r.2 = some (i, x) → x.p.flits ≤ Tbl.getD (s.link lk.val).credit 0 0 →
      exec (.egressSelect lk) s = .next (r.1.sendFrom lk.val 0 i start)) ∧
    ((∀ i x, r.2 = some (i, x) → Tbl.getD (s.link lk.val).credit 0 0 < x.p.flits) →
      exec (.egressSelect lk) s = .next (r.1.selectRest lk.val start))) ∧
  (∀ (s : State) (lk start : Nat),
    (∀ seq, (s.link lk).replayAt = some seq →
      (∀ k p, (s.link lk).replay.find? (fun e => e.1 = seq) = some (k, p) →
        s.selectRest lk start = s.updLink lk (fun l => { l with
          sending := some (8, start + 32 * p.flits)
          replayAt := if l.replay.any (fun e => e.1 = (seq + 1) % 4096) then some ((seq + 1) % 4096) else none })) ∧
      ((s.link lk).replay.find? (fun e => e.1 = seq) = none →
        s.selectRest lk start = s.updLink lk (fun l => { l with replayAt := none }))) ∧
    ((s.link lk).replayAt = none →
      let r1 := s.cand lk 1
      (∀ i x, r1.2 = some (i, x) → (r1.1.link lk).open_ 1 x = true → s.selectRest lk start = r1.1.sendFrom lk 1 i start) ∧
      ((∀ i x, r1.2 = some (i, x) → (r1.1.link lk).open_ 1 x = false) →
        let r := (List.range 6).foldl (fun (a : State × List (Option (Nat × Queued))) j =>
          ((a.1.cand lk (2 + j)).1, a.2 ++ [(a.1.cand lk (2 + j)).2])) (r1.1, [])
        let l := match nth r.2 0 none with
          | some (_, x) => if (r.1.link lk).open_ 2 x && !((r.1.link lk).fitsWindow start x.p.flits)
              then { r.1.link lk with holdFit := satAdd 16 (r.1.link lk).holdFit 1 } else r.1.link lk
          | none => r.1.link lk
        let w := l.weighted start r.2
        let v := r.1.updLink lk (fun _ => w.1)
        (w.2 = none → s.selectRest lk start = v) ∧
        (∀ k, w.2 = some k → (∀ i x, nth r.2 (k - 2) none = some (i, x) → s.selectRest lk start = v.sendFrom lk k i start) ∧
          (nth r.2 (k - 2) none = none → s.selectRest lk start = v))))) ∧
  (∀ (s : State) (lk k i start : Nat) (x : Queued), ((s.link lk).queueOf k)[i]? = some x →
    let t := s.sendFrom lk k i start
    Claims.queuesOnly (Claims.afterSend (s.link lk) k i start s.ltu x) (t.link lk) ∧ ∀ j, j ≠ lk → t.link j = s.link j) ∧
  (∀ (s : State) (lk : Fin 36) (start : Nat) (x : Queued) (rest : List Queued), s.live = true →
    (s.link lk.val).carries = true → (s.link lk.val).decision s.ltu = some start → (s.link lk.val).queueOf 0 = x :: rest →
    x.tenant = none → (x.colour = none ∨ x.colour = some .green) → x.p.flits ≤ Tbl.getD (s.link lk.val).credit 0 0 →
    ∃ t, exec (.egressSelect lk) s = .next t ∧
      Claims.queuesOnly { s.link lk.val with
        credit := Tbl.upd (s.link lk.val).credit 0 0 (· - x.p.flits)
        sending := some (0, start + 32 * x.p.flits) } (t.link lk.val) ∧ ∀ k, k ≠ lk.val → t.link k = s.link k) ∧
  (∀ (s : State) (lk : Fin 36) (start : Nat) (x : Queued) (rest : List Queued), s.live = true →
    (s.link lk.val).carries = true → (s.link lk.val).decision s.ltu = some start → (s.link lk.val).queueOf 0 = [] →
    (s.link lk.val).replayAt = none → (s.link lk.val).queueOf 1 = x :: rest → x.tenant = none →
    (x.colour = none ∨ x.colour = some .green) → (s.link lk.val).open_ 1 x = true →
    let l := s.link lk.val
    let marked := decide (nth l.mark 0 0 ≠ 0 ∧ 16 * nth l.mark 0 0 ≤ l.flitsIn 1 - x.p.flits)
    ∃ t, exec (.egressSelect lk) s = .next t ∧
      Claims.queuesOnly { l with
        credit := Tbl.upd l.credit 1 0 (· - x.p.flits)
        sending := some (1, start + 32 * x.p.flits)
        txSeq := (l.txSeq + 1) % 4096
        replay := l.replay ++ [(l.txSeq, (if marked then x.p.mark else x.p).stamp l.txSeq)]
        lastAck := if l.replay.isEmpty then s.ltu else l.lastAck
        ecnMarked := if marked then satAdd 32 l.ecnMarked 1 else l.ecnMarked } (t.link lk.val) ∧
      ∀ k, k ≠ lk.val → t.link k = s.link k)

/-- A packet of Q1 to Q7 is still on the wire as its gate closes (R346, R349). -/
def Claims.gateCut (l : Link) (g : Gates) (now : Nat) : Bool :=
  match l.sending with
  | some (k, e) => 1 ≤ k && k ≤ 7 && decide (1000 * now < e) && l.gates.isOpen k && !(g.isOpen k)
  | none => false

/-- An entry starts to run on a link (R345, R346, R350): a CHECK that fails opens every gate and is counted, a packet cut by its
gate is counted. -/
def Claims.entryRuns (s : State) (lk : Nat) (g : Gates) : State :=
  let bad := !(gateCheckOk (g.oper g.curEntry))
  (s.updLink lk (fun l => { l with
    gates := { g with fallback := bad }
    overrun := if Claims.gateCut l { g with fallback := bad } s.ltu then satAdd 16 l.overrun 1 else l.overrun })).egrCheck
    (lk / 18) (b2n bad)

/-- Gate lists and the egress tables (R344 to R357): arming checks the administrative list and sets PENDING and the takeover
moment, or ARM_REJECT with its cause; takeover swaps the banks and starts entry 0; each interval starts the next entry; the
table commands read and write the policers, the tenant map, the gate banks and the policer counts, or are rejected. -/
def Obligations.GatesAndTables : Prop :=
  (∀ (s : State) (lk : Fin 36), s.live = true →
    let g := (s.link lk.val).gates
    let es := (List.range (Nat.min 64 g.adminLen)).map g.admin
    let cause := gateListCause g.adminLen es g.sync s.inFactory g.pending
    (cause = 0 → exec (.gateArm lk) s = .next (s.updLink lk.val (fun l => { l with gates := { l.gates with
      pending := true
      takeAt := if g.sync then none else some (takeoverAt s.ltu g.adminBase (es.map gateInterval).sum) } }))) ∧
    (cause ≠ 0 → exec (.gateArm lk) s = .next (s.updLink lk.val (fun l => { l with gates := { l.gates with
      armReject := true, rejectCause := cause } })))) ∧
  (∀ (s : State) (lk : Fin 36), s.live = true → exec (.gateDisarm lk) s =
    .next (s.updLink lk.val (fun l => { l with gates := { l.gates with pending := false, takeAt := none } }))) ∧
  (∀ (s : State) (lk : Fin 36),
    ((s.link lk.val).gates.pending = false ∨ (s.link lk.val).gates.takeAt = none ∨
      (∃ m, (s.link lk.val).gates.takeAt = some m ∧ s.ltu < m)) → exec (.gateTakeover lk) s = .next s) ∧
  (∀ (s : State) (lk : Fin 36) (m : Nat), s.live = true → (s.link lk.val).gates.pending = true →
    (s.link lk.val).gates.takeAt = some m → m ≤ s.ltu →
    let g := (s.link lk.val).gates
    exec (.gateTakeover lk) s = .next (Claims.entryRuns s lk.val { g with
      operBank := !g.operBank, operLen := g.adminLen, operBase := m, curEntry := 0, curStart := m
      pending := false, takeAt := none, operValid := true, fallback := false })) ∧
  (∀ (s : State) (lk : Fin 36), s.live = true → (s.link lk.val).gates.operValid = true →
    (s.link lk.val).gates.fallback = false →
    let g := (s.link lk.val).gates
    let e := g.curStart + gateInterval (g.oper g.curEntry)
    (s.ltu < e → exec (.gateInterval lk) s = .next s) ∧
    (e ≤ s.ltu → exec (.gateInterval lk) s = .next (Claims.entryRuns s lk.val { g with
      curEntry := (g.curEntry + 1) % Nat.max 1 g.operLen, curStart := e }))) ∧
  (∀ (s : State) (lk : Fin 36), ((s.link lk.val).gates.operValid = false ∨ (s.link lk.val).gates.fallback = true) →
    exec (.gateInterval lk) s = .next s) ∧
  (∀ (s : State) (d n : Nat), n ≠ 0 → ((s.egrCheck d n).lnd d).egrFails = satAdd 32 (s.lnd d).egrFails n) ∧
  (∀ (s : State) (die : Fin 2) (tb : Fin 4) (idx : BitVec 16) (v : Nat), s.live = true →
    (tb, v) ∈ [((0 : Fin 4), (Tbl.getD (s.lnd die.val).pols idx.toNat {}).raw),
      (1, Tbl.getD (s.lnd die.val).tmap idx.toNat 0),
      (2, Tbl.getD (s.link (18 * die.val + idx.toNat / 128)).gates.bank (idx.toNat % 128) 0),
      (3, (Tbl.getD (s.lnd die.val).pols idx.toNat {}).green + (Tbl.getD (s.lnd die.val).pols idx.toNat {}).yellow * 2 ^ 64 +
        (Tbl.getD (s.lnd die.val).pols idx.toNat {}).red * 2 ^ 128 +
        (Tbl.getD (s.lnd die.val).pols idx.toNat {}).heldPkts * 2 ^ 224)] →
    let size := if tb.val = 1 then 65536 else if tb.val = 2 then 2304 else 4096
    exec (.egrTblRead die tb idx) s = .next (s.updLnd die.val (fun d =>
      if idx.toNat < size then { d with egrData := v, egrDone := true } else { d with egrReject := true }))) ∧
  (∀ (s : State) (die : Fin 2) (idx : BitVec 16), s.live = true →
    exec (.egrTblWrite die 0 idx) s = .next (s.updLnd die.val (fun d =>
      if idx.toNat < 4096 ∧ policerOk (s.lnd die.val).egrData = true then { d with
        pols := Tbl.upd d.pols idx.toNat {} (fun p => p.rewrite (s.lnd die.val).egrData s.ltu), egrDone := true }
      else { d with egrReject := true }))) ∧
  (∀ (s : State) (die : Fin 2) (idx : BitVec 16), s.live = true →
    exec (.egrTblWrite die 1 idx) s = .next (s.updLnd die.val (fun d => { d with
      tmap := Tbl.put d.tmap idx.toNat (bits (s.lnd die.val).egrData 0 24 +
        crc8 (toBytes 3 (bits (s.lnd die.val).egrData 0 24)) * 2 ^ 24), egrDone := true }))) ∧
  (∀ (s : State) (die : Fin 2) (idx : BitVec 16), s.live = true →
    let lk := 18 * die.val + idx.toNat / 128
    let g := (s.link lk).gates
    let bank := decide (64 ≤ idx.toNat % 128)
    let e := bits (s.lnd die.val).egrData 0 56
    ((2304 ≤ idx.toNat ∨ (g.operValid = true ∧ bank = g.operBank) ∨ (g.pending = true ∧ bank ≠ g.operBank)) →
      exec (.egrTblWrite die 2 idx) s = .next (s.updLnd die.val (fun d => { d with egrReject := true }))) ∧
    (idx.toNat < 2304 → (g.operValid = true → bank ≠ g.operBank) → (g.pending = true → bank = g.operBank) →
      exec (.egrTblWrite die 2 idx) s = .next ((s.updLink lk (fun l => { l with gates := { l.gates with
        bank := Tbl.put l.gates.bank (idx.toNat % 128) (e + crc8 (toBytes 7 e) * 2 ^ 56) } })).updLnd die.val
          (fun d => { d with egrDone := true })))) ∧
  (∀ (s : State) (die : Fin 2) (idx : BitVec 16), s.live = true →
    exec (.egrTblWrite die 3 idx) s = .next (s.updLnd die.val (fun d =>
      if idx.toNat < 4096 then { d with
        pols := Tbl.upd d.pols idx.toNat {} (fun p => { p with green := 0, yellow := 0, red := 0, heldPkts := 0 })
        egrDone := true }
      else { d with egrReject := true }))) ∧
  (∀ (s : State) (die : Fin 2), s.live = true →
    ∃ t, exec (.egrCntClr die) s = .next t ∧ t = { s with fab := { s.fab with links := t.fab.links } } ∧
      ∀ k, t.link k = if k / 18 = die.val then { s.link k with ecnMarked := 0, holdFit := 0, overrun := 0 } else s.link k)

/-- A message without its progress: what R311 made of a work entry. -/
def Claims.message (m : OutMsg) : OutMsg :=
  { m with nextP := 0, resend := [], inQ := [], sent := [], placed := 0, reported := false, rtoFrom := none, retries := 0 }

/-- The messages of a connection that are not complete, in order (R311, R317). -/
def Claims.messages (c : Conn) : List OutMsg := (c.out ++ c.backlog).map Claims.message

/-- A work entry is taken from the head of send queue `i` (R309, R311): the head advances, the entry is open on its connection,
and its messages take the next MSNs. -/
def Claims.taken (s : State) (i : Nat) : State :=
  let e := s.sqEntry i
  let k := weConn e
  let n := (s.messagesOf e (s.conn k).nextEntry (s.conn k).nextMsn).length
  (s.updSq i (fun q => { q with head := (q.head + 1) % 65536, open_ := q.open_ + 1 })).updConn k (fun y => { y with
    entries := y.entries ++ [{ id := (s.conn k).nextEntry, sq := i, raw := e, left := n }]
    nextEntry := y.nextEntry + 1
    nextMsn := (y.nextMsn + n) % 65536
    used := s.ltu })

/-- The entry at the head of send queue `i` may start (R309, R313, R317, R319): its queue takes entries, it passes its checks,
its connection is READY with its context in the cache, and its fence allows it. -/
def Claims.mayStart (s : State) (i wop : Nat) : Prop :=
  let e := s.sqEntry i
  s.sqReady i = true ∧ weWop e = wop ∧ s.entryStop i e = none ∧ (s.conn (weConn e)).state = .ready ∧
    (s.conn (weConn e)).cached = true ∧ (bit e 9 = true → (s.sq i).open_ = 0)

/-- Work entries (R309 to R313, R317, R319, R320). One that may start is taken, its messages follow those under way, and packets
leave as the window and the paths allow; one whose local address the map refuses puts the connection in ERROR; one that may not
start waits. Entries at the heads of a link die's queues that cannot start complete at once. Sending changes only a
connection's progress, never which messages it has. -/
def Obligations.RaeEntries : Prop :=
  (∀ (s : State) (die : Fin 2) (q : Fin 256) (c : Instr) (wop : Nat), s.live = true →
    (c, wop) ∈ [(.raeWrite die q, 1), (.raeWriteImm die q, 2), (.raeRead die q, 3), (.raeNotify die q, 4),
      (.graftData die q, 5), (.graftFrame die q, 6), (.control die q, 7)] →
    let i := 256 * die.val + q.val
    let e := s.sqEntry i
    let k := weConn e
    let ms := s.messagesOf e (s.conn k).nextEntry (s.conn k).nextMsn
    let st := s.accStatus (.dma (5 + i / 256) true) (if wop = 3 then .write else .read) (weLocal e) (weLen e)
    (¬ Claims.mayStart s i wop → exec c s = .next s) ∧
    (Claims.mayStart s i wop → wop = 4 ∨ st = Stat.ok → exec c s =
      .next ((((Claims.taken s i).updConn k (fun y => { y with backlog := y.backlog ++ ms })).pump k).sqSweep (i / 256))) ∧
    (Claims.mayStart s i wop → wop ≠ 4 → st ≠ Stat.ok → exec c s =
      .next ((((Claims.taken s i).violateAt (.dma (5 + i / 256) true) (weLocal e)).connError k st
        (some (s.conn k).nextEntry)).sqSweep (i / 256)))) ∧
  (∀ (s : State) (c : Nat),
    let t := s.pump c
    t = { s with chans := t.chans, fcl := t.fcl, acct := t.acct, feed := t.feed, fab := { s.fab with
      conns := t.fab.conns, links := t.fab.links, lds := t.fab.lds, gBytes := t.fab.gBytes } } ∧
    (∀ j, j ≠ c → t.conn j = s.conn j) ∧
    t.conn c = { s.conn c with
      out := (t.conn c).out, backlog := (t.conn c).backlog, resp := (t.conn c).resp, lastLink := (t.conn c).lastLink } ∧
    Claims.messages (t.conn c) = Claims.messages (s.conn c)) ∧
  (∀ (s : State) (die : Fin 2) (q : Fin 256) (v : BitVec 16), s.live = true → exec (.sqTailWrite die q v) s =
    .next ((s.updSq (256 * die.val + q.val) (fun x => { x with tail := v.toNat })).sqSweep die.val)) ∧
  (∀ (s : State) (d n : Nat), (∀ q, q < 256 → s.sqStop (256 * d + q) = none) →
    s.sqRun d n = s ∧ s.sqSweep d = s.finishReset d) ∧
  (∀ (s : State) (d n q st : Nat), q < 256 → (∀ j, j < q → s.sqStop (256 * d + j) = none) → s.sqStop (256 * d + q) = some st →
    s.sqRun d (n + 1) = (s.sqDrop (256 * d + q) st).sqRun d n) ∧
  (∀ (s : State) (i st : Nat),
    let e := s.sqEntry i
    let u := (s.updSq i (fun q => { q with head := (q.head + 1) % 65536, open_ := q.open_ + 1 })).endEntry (weConn e)
      { id := 0, sq := i, raw := e, left := 0 } st
    (st ≠ Stat.checkFailed → s.sqDrop i st = u) ∧
    (st = Stat.checkFailed → s.sqDrop i st = u.connFail (weConn e) Stat.checkFailed none)) ∧
  (∀ (s : State) (c st : Nat) (w : WorkEntry), weWop w.raw ≠ 5 → weWop w.raw ≠ 6 →
    let u := s.updSq w.sq (fun q => { q with open_ := q.open_ - 1 })
    (st = Stat.ok → bit w.raw 8 = false → s.endEntry c w st = u) ∧
    (st ≠ Stat.ok ∨ bit w.raw 8 = true →
      s.endEntry c w st = u.postCpl (u.cqOf w.sq) (cplRaw (weWrId w.raw) c 1 st w.bytes 0))) ∧
  (∀ (s : State) (i raw : Nat),
    let q := s.cq i
    (q.full = true → s.postCpl i raw = s.updCq i (fun q => { q with due := q.due ++ [raw] })) ∧
    (q.full = false →
      let t := s.postCpl i raw
      t = { s with mem := t.mem, fab := { s.fab with cqs := t.fab.cqs } } ∧
      t.mem = memPut memKey s.mem (q.base + 32 * (q.tail % 2 ^ q.log2)) (toBytes 32 (withCrc raw 32)) ∧
      t.cq i = { q with tail := (q.tail + 1) % 65536 } ∧ ∀ j, j ≠ i → t.cq j = s.cq j))

/-- Connections (R305, R306, R308, R316, R317, R320, R321, R334): activation and reset write CSTATE and the context's slot, a
forced ERROR flushes, a command that may not run is rejected; a context leaves the cache only with nothing open; acknowledgements
once a microsecond; what a lost link carried is sent again; a region is revoked and freed; the counters clear. -/
def Obligations.RaeConnections : Prop :=
  (∀ (s : State) (die : Fin 2) (c : BitVec 20), s.live = true →
    let e := s.rd (connSlot c.toNat) 64
    let ok := (s.lnd die.val).resetting = none ∧ bits e 80 1 = die.val ∧ (s.conn c.toNat).state = .reset ∧ connDescOk e = true
    (¬ ok → exec (.connActivate die c) s = .next (s.updLnd die.val (fun x => { x with connReject := true }))) ∧
    (ok →
      let u := (s.makeRoom die.val).getD s
      let x := { connOf e u.ltu with cached := (s.makeRoom die.val).isSome }
      let v := { u with fab := { u.fab with conns := Tbl.put u.fab.conns c.toNat x } }
      exec (.connActivate die c) s = .next
        (((v.writeCstate c.toNat 1).writeContext c.toNat).updLnd die.val (fun x => { x with connDone := true })))) ∧
  (∀ (s : State) (d : Nat),
    let idle := (s.cachedOn d).filter (fun c => (s.conn c).quiet)
    ((s.cachedOn d).length < 16384 → s.makeRoom d = some s) ∧
    (16384 ≤ (s.cachedOn d).length → idle = [] → s.makeRoom d = none) ∧
    (16384 ≤ (s.cachedOn d).length → idle ≠ [] → ∃ k ∈ idle, (∀ j ∈ idle, (s.conn k).used ≤ (s.conn j).used) ∧
      s.makeRoom d = some (((s.writeContext k).updConn k (fun x => { x with cached := false })).updLnd d
        (fun x => { x with spills := satAdd 16 x.spills 1 })))) ∧
  (∀ (s : State) (c : Nat),
    (s.writeContext c).mem = memPut memKey (memPut memKey s.mem (connSlot c) (toBytes 64 (s.conn c).descRaw)) (connSlot c + 64)
      (s.conn c).hwBytes ∧ s.writeContext c = { s with mem := (s.writeContext c).mem }) ∧
  (∀ (s : State) (die : Fin 2) (c : BitVec 20), s.live = true →
    let ok := (s.lnd die.val).resetting = none ∧ (s.conn c.toNat).home = die.val ∧ (s.conn c.toNat).state ≠ .reset
    (¬ ok → exec (.connReset die c) s = .next (s.updLnd die.val (fun x => { x with connReject := true }))) ∧
    (ok → exec (.connReset die c) s = .next
      (((s.updLnd die.val (fun x => { x with resetting := some c.toNat })).connError c.toNat Stat.flushed none).sqSweep die.val))) ∧
  (∀ (s : State) (d : Nat),
    ((s.lnd d).resetting = none → s.finishReset d = s) ∧
    (∀ c, (s.lnd d).resetting = some c →
      (s.stillPosted d c = true → s.finishReset d = s) ∧
      (s.stillPosted d c = false →
        let u := { s with fab := { s.fab with conns := Tbl.put s.fab.conns c { home := d } } }
        s.finishReset d = (u.writeCstate c 0).updLnd d (fun x => { x with resetting := none, connDone := true })))) ∧
  (∀ (s : State) (c v : Nat),
    (s.writeCstate c v).mem =
      memPut memKey s.mem (connSlot c) (toBytes 64 (withCrc (setFld (s.rd (connSlot c) 64) 0x08 1 v) 64)) ∧
    s.writeCstate c v = { s with mem := (s.writeCstate c v).mem }) ∧
  (∀ (s : State) (c status : Nat) (who : Option Nat),
    ((s.conn c).state ≠ .ready → s.connError c status who = s) ∧
    ((s.conn c).state = .ready →
      let t := s.connFail c status who
      s.connError c status who = t.sqSweep (s.conn c).home ∧
      t = { s with fab := t.fab, fcl := t.fcl, acct := t.acct, feed := t.feed, mem := t.mem } ∧
      t.conn c = { s.conn c with
        state := .error, errStatus := status, entries := [], out := [], backlog := [], resp := [], inm := [], ackFrom := none } ∧
      (∀ j, j ≠ c → t.conn j = s.conn j) ∧
      (t.lnd (s.conn c).home).connErrors = satAdd 16 (s.lnd (s.conn c).home).connErrors 1)) ∧
  (∀ (s : State) (die : Fin 2) (c : BitVec 20), s.live = true →
    let ok := (s.lnd die.val).resetting = none ∧ (s.conn c.toNat).home = die.val ∧ (s.conn c.toNat).state = .ready
    (¬ ok → exec (.connForceError die c) s = .next (s.updLnd die.val (fun x => { x with connReject := true }))) ∧
    (ok → exec (.connForceError die c) s =
      .next ((s.connError c.toNat Stat.flushed none).updLnd die.val (fun x => { x with connDone := true })))) ∧
  (∀ (s : State) (c : BitVec 20) (since : Nat), s.live = true → (s.conn c.toNat).state = .ready →
    (s.conn c.toNat).cached = true → (s.conn c.toNat).ackFrom = some since →
    let x := s.conn c.toNat
    let path := ((List.range 36).map (fun i => (x.lastLink + 1 + i) % 36)).find? (fun k => bit x.paths k && s.activeToward k x.dest)
    (s.ltu < since + 100 → exec (.rqAckTimer c) s = .next s) ∧
    (since + 100 ≤ s.ltu →
      (path = none → exec (.rqAckTimer c) s = .next (s.updConn c.toNat (fun y => { y with ecn := 0, ackFrom := none }))) ∧
      (∀ lk, path = some lk → exec (.rqAckTimer c) s = .next ((s.enq lk
        { p := mkPkt 0x13 x.queue 0 s.fid x.dest s.cmap.cur (x.rconn % 2 ^ 20 + x.base * 2 ^ 32) x.ackData, conn := some c.toNat }).updConn
          c.toNat (fun y => { y with ecn := 0, ackFrom := none }))))) ∧
  (∀ (s : State) (c : BitVec 20), ((s.conn c.toNat).ackFrom = none ∨ (s.conn c.toNat).state ≠ .ready ∨
    (s.conn c.toNat).cached = false) → exec (.rqAckTimer c) s = .next s) ∧
  (∀ (s : State) (lk : Fin 36), s.live = true →
    ((s.link lk.val).carries = true → exec (.pathLossResend lk) s = .next s) ∧
    ((s.link lk.val).carries = false →
      let lost := fun (m : OutMsg) => (m.sent.filter (fun t => t.2.1 = lk.val && !(m.placed.testBit t.1) &&
        !(m.resend.contains t.1) && !(m.inQ.contains t.1))).map (·.1)
      exec (.pathLossResend lk) s = .next ((Tbl.keys s.fab.conns).foldl (fun u c =>
        let x := u.conn c
        let n := (x.out.map (fun m => (lost m).length)).sum
        if x.state ≠ .ready ∨ u.activeToward lk.val x.dest = true ∨ n = 0 then u
        else ((u.updConn c (fun y => { y with out := y.out.map (fun m => { m with resend := m.resend ++ lost m }) })).updLnd x.home
          (fun d => { d with retrans := satAdd 32 d.retrans n })).pump c) s))) ∧
  (∀ (s : State) (die : Fin 2) (region : BitVec 14), s.live = true →
    let r := s.region region.toNat
    let ok := die = 0 ∧ s.fab.revoking = none ∧ rgState r = 1
    let k := (s.fab.keyEpoch + 1) % 65536
    (¬ ok → exec (.raeRevoke die region) s = .next (s.updLnd die.val (fun d => { d with revReject := true }))) ∧
    (ok → exec (.raeRevoke die region) s = .next { s with fab := { s.fab with
      keyEpoch := k, revoking := some region.toNat
      regions := Tbl.put s.fab.regions region.toNat (rgMark r 2 k (rgKey r)) } })) ∧
  (∀ (s : State), s.fab.revoking = none → exec .revokeDone s = .next s) ∧
  (∀ (s : State) (i : Nat), s.live = true → s.fab.revoking = some i →
    (s.inflight i ≠ 0 → exec .revokeDone s = .next s) ∧
    (s.inflight i = 0 → exec .revokeDone s = .next ({ s with fab := { s.fab with
      revoking := none
      regions := Tbl.put s.fab.regions i (rgMark (s.region i) 0 (fld (s.region i) 0x16 2) 0) } }.updLnd 0
        (fun d => { d with revDone := true })))) ∧
  (∀ (s : State) (die : Fin 2), s.live = true → exec (.raeCntClr die) s = .next (s.updLnd die.val (fun d => { d with
    dup := 0, retrans := 0, fills := 0, spills := 0, missDrop := 0, connErrors := 0, notReady := 0, cqHold := 0, raeLate := 0 })))

/-- What follows when the bytes of READ data, `m` the message as it stood, have reached their place (R316). -/
def Claims.readCame (s : State) (c : Nat) (m : OutMsg) (p : Pkt) : State :=
  let m' := { m with placed := m.placed ||| (1 <<< rqPidx p) }
  let u := s.updConn c (fun y => { y with out := y.out.map (fun o => if o.msn = m.msn then m' else o) })
  if (List.range (m.npktM1 + 1)).all (fun i => m'.placed.testBit i) then (u.msgDone c m').pump c else u

/-- Packets that a connection receives (R307, R308, R313, R315, R316). A packet of a connection that is not READY is dropped and
counted, one whose context is not in the cache waits for it; data is checked against its region and placed at the region's base
plus its own page, or held with its channel; a packet that carries only the immediate is not placed; a refused one is answered
by RQ_ERR; a READ is served from its region; READ data goes to LOCAL plus 4,096 bytes for each packet index; an RQ_ACK and an
RQ_ERR act on their connection; a context that is missed is filled from its slot; room in a completion queue lets waiting
completions in. -/
def Obligations.RaeReceive : Prop :=
  (∀ (s : State) (p : Pkt),
    let c := rqConn p
    let x := s.conn c
    (x.state ≠ .ready → s.contextFor p = (s.updLnd x.home (fun y => { y with notReady := satAdd 16 y.notReady 1 }), none)) ∧
    (x.state = .ready → x.cached = true → s.contextFor p = (s.updConn c (fun y => { y with used := s.ltu }), some c)) ∧
    (x.state = .ready → x.cached = false → (s.lnd x.home).miss.length < 256 →
      s.contextFor p = (s.updLnd x.home (fun y => { y with miss := y.miss ++ [p] }), none)) ∧
    (x.state = .ready → x.cached = false → 256 ≤ (s.lnd x.home).miss.length →
      s.contextFor p = (s.updLnd x.home (fun y => { y with missDrop := satAdd 16 y.missDrop 1 }), none))) ∧
  (∀ (s : State) (p : Pkt) (c : Nat),
    let x := s.conn c
    let k := msnDist x.base (rqMsn p)
    let u := s.updConn c (fun y => { y with ecn := y.ecn + b2n p.ecn, ackFrom := some (y.ackFrom.getD s.ltu) })
    (32768 ≤ k → s.openMsg c p = ((u.countDup x.home).sendAck c, none)) ∧
    (k < 32768 → 64 ≤ k → s.openMsg c p = (u.countDup x.home, none)) ∧
    (k < 64 →
      (∀ m, x.inm.find? (fun m => m.msn = rqMsn p) = some m →
        (m.done = true ∨ m.bitmap.testBit (rqPidx p) = true → s.openMsg c p = (u.countDup x.home, none)) ∧
        (m.done = false → m.bitmap.testBit (rqPidx p) = false → s.openMsg c p = (u, some c))) ∧
      (x.inm.find? (fun m => m.msn = rqMsn p) = none →
        (4096 ≤ u.bitmaps x.home →
          s.openMsg c p = (u.updLnd x.home (fun y => { y with missDrop := satAdd 16 y.missDrop 1 }), none)) ∧
        (u.bitmaps x.home < 4096 → s.openMsg c p =
          (u.updConn c (fun y => { y with inm := y.inm ++ [{ msn := rqMsn p, npktM1 := rqNpktM1 p }] }), some c))))) ∧
  (∀ (s : State) (q : Pkt), s.live = true →
    let p := (s.arrive q).2
    let v := (s.arrive q).1
    v = { s with fab := { s.fab with links := v.fab.links } } ∧
    (∀ u, v.admitData p = (u, none) → exec (.rqWriteReceive q) s = .next u) ∧
    (∀ u c, v.admitData p = (u, some c) →
      let d := (u.conn c).home
      let r := u.region (rqRegion p)
      let a := rgBase r + rqOffset p
      let w := if notifyPacket p then u else u.regionCrc d (rqRegion p)
      let st := if notifyPacket p then 0
        else if immPacket p then w.regionCheck (rqRegion p) (rqKey p) (4096 * rqPage p) 0 4 true false none
        else w.regionCheck (rqRegion p) (rqKey p) (rqOffset p) p.data.length 4 true false none
      let ms := w.keyedStatus d (rgTenant r) .write a p.data.length
      (st ≠ 0 → exec (.rqWriteReceive q) s = .next (w.sendErr c (rqMsn p) (0x300 + st))) ∧
      (st = 0 → immPacket p = true → exec (.rqWriteReceive q) s = .next (w.placed c p 0)) ∧
      (st = 0 → immPacket p = false → ms ≠ Stat.ok → exec (.rqWriteReceive q) s =
        .next ((w.violateAt (.fabric d) a).sendErr c (rqMsn p) (rqRefusal ms))) ∧
      (st = 0 → immPacket p = false → ms = Stat.ok →
        (∀ ch, w.heldChan a p.data.length = some ch → exec (.rqWriteReceive q) s =
          .next (w.holdAcc ch ⟨.fabric (w.conn c).home, true, chanOff a, 0, [], .rae p⟩)) ∧
        (w.heldChan a p.data.length = none → exec (.rqWriteReceive q) s = .next
          ((((w.placeBytes a p.data).countTier (rgTenant r) a p.data.length true).countRx (rgTenant r) p.via
            (32 * p.flits)).placed c p p.data.length))))) ∧
  (∀ (s : State) (q : Pkt) (poison : Bool), s.live = true →
    let p := (s.arrive q).2
    let v := (s.arrive q).1
    (∀ u, v.contextFor p = (u, none) → exec (.rqReadReqReceive q poison) s = .next u) ∧
    (∀ u c, v.contextFor p = (u, some c) →
      let d := (u.conn c).home
      let r := u.region (rqRegion p)
      let a := rgBase r + 4096 * rqPage p
      let len := Nat.min (4096 * (rqNpktM1 p + 1)) (rgSize r - 4096 * rqPage p)
      let w := u.regionCrc d (rqRegion p)
      let st := w.regionCheck (rqRegion p) (rqKey p) (4096 * rqPage p) (4096 * rqNpktM1 p + 32) 4 false false none
      let ms := w.keyedStatus d (rgTenant r) .read a len
      (st ≠ 0 → exec (.rqReadReqReceive q poison) s = .next (w.sendErr c (rqMsn p) (0x300 + st))) ∧
      (st = 0 → ms ≠ Stat.ok → exec (.rqReadReqReceive q poison) s =
        .next ((w.violateAt (.fabric d) a).sendErr c (rqMsn p) (rqRefusal ms))) ∧
      (st = 0 → ms = Stat.ok → poison = true →
        exec (.rqReadReqReceive q poison) s = .next (w.sendErr c (rqMsn p) 0x307)) ∧
      (st = 0 → ms = Stat.ok → poison = false → exec (.rqReadReqReceive q poison) s =
        .next ((w.updConn c (fun y =>
          let seen := 32768 ≤ msnDist y.base (rqMsn p) || y.inm.any (fun m => m.msn = rqMsn p)
          Conn.advance { y with
            inm := if seen then y.inm else y.inm ++ [{ msn := rqMsn p, npktM1 := 0, bitmap := 1, done := true }]
            resp := y.resp ++ [{ msn := rqMsn p, npktM1 := rqNpktM1 p, loc := a, len := len, tn := rgTenant r, queue := p.queue }] }
            65)).pump c)))) ∧
  (∀ (s : State) (q : Pkt), s.live = true →
    let p := (s.arrive q).2
    let v := (s.arrive q).1
    (∀ u, v.contextFor p = (u, none) → exec (.rqReadRespReceive q) s = .next u) ∧
    (∀ u c, v.contextFor p = (u, some c) →
      ((u.conn c).readOf p = none → exec (.rqReadRespReceive q) s =
        .next (u.updLnd (u.conn c).home (fun d => { d with raeLate := satAdd 16 d.raeLate 1 }))) ∧
      (∀ m, (u.conn c).readOf p = some m →
        let a := m.loc + 4096 * rqPidx p
        let w := u.updConn c (fun y => { y with ecn := y.ecn + b2n p.ecn })
        let data := p.data.take (m.len - 4096 * rqPidx p)
        let tn := (w.conn c).tenant
        (∀ ch, w.heldChan a (Nat.min 4096 (m.len - 4096 * rqPidx p)) = some ch → exec (.rqReadRespReceive q) s =
          .next (w.holdAcc ch ⟨.dma (5 + (w.conn c).home) true, true, chanOff a, 0, [], .rae p⟩)) ∧
        (w.heldChan a (Nat.min 4096 (m.len - 4096 * rqPidx p)) = none → exec (.rqReadRespReceive q) s = .next
          (Claims.readCame (((w.placeBytes a data).countTier tn a data.length true).countRx tn p.via (32 * p.flits)) c m p))))) ∧
  (∀ (s : State) (q : Pkt), s.live = true →
    let p := (s.arrive q).2
    let v := (s.arrive q).1
    exec (.rqAckReceive q) s = .next ((v.raeAck p).graftPump) ∧
    (∀ u, v.contextFor p = (u, none) → v.raeAck p = u ∧ exec (.rqErrReceive q) s = .next u) ∧
    (∀ u c, v.contextFor p = (u, some c) →
      let x := u.conn c
      let who := if rqStatus p = Stat.remoteError then (x.entries.head?.map (·.id))
        else (x.out.find? (fun m => m.msn = rqMsn p)).map (·.entry)
      exec (.rqErrReceive q) s = .next ((u.connError c (rqStatus p) who).settle) ∧
      (let w := ofBytes p.data
       let maps := (List.range 4).map (fun i => (bits w (64 + 1040 * i) 16, bits w (80 + 1040 * i) 1024))
       let isDone := fun (m : OutMsg) => m.ptype ≠ 0x11 && (32768 ≤ msnDist (rqMsn p) m.msn ||
         (msnDist (rqMsn p) m.msn < 64 && (bits w 0 64).testBit (msnDist (rqMsn p) m.msn)))
       let seen := fun (m : OutMsg) => (maps.find? (fun r => r.1 = m.msn && r.2 ≠ 0)).map (·.2)
       let fresh := fun (m : OutMsg) => m.sent.filter (fun t => !(m.placed.testBit t.1) &&
         (isDone m || ((seen m).map (fun b => b.testBit t.1)).getD false))
       let news := x.out.flatMap fresh
       let y := x.onAck news.length (bits w (64 + 4160) 32) u.ltu
       let z := { y with
         srtt := ((news.head?).map (fun t => Config.srtt y.srtt (u.ltu - t.2.2))).getD y.srtt
         out := y.out.map (fun m => ((seen m).map (fun b => { m with
           placed := m.placed ||| b, reported := true, resend := m.resend.filter (fun k => !(b.testBit k)) })).getD m) }
       v.raeAck p = ((x.out.filter isDone).foldl (fun s m => s.msgDone c m) (u.updConn c (fun _ => z))).pump c))) ∧
  (∀ (s : State) (c : BitVec 20) (status : Nat), s.live = true →
    ((s.conn c.toNat).state ≠ .ready → exec (.connError c status) s = .next s) ∧
    ((s.conn c.toNat).state = .ready → exec (.connError c status) s =
      .next ((s.connError c.toNat status ((s.conn c.toNat).entries.head?.map (·.id))).settle))) ∧
  (∀ (s : State) (c : BitVec 20) (msn : BitVec 16) (m : OutMsg) (since : Nat), s.live = true →
    (s.conn c.toNat).state = .ready → (s.conn c.toNat).out.find? (fun m => m.msn = msn.toNat) = some m → m.rtoFrom = some since →
    let x := s.conn c.toNat
    (s.ltu ≤ since + 100 * x.rtoUs → exec (.rtoExpiry c msn) s = .next s) ∧
    (since + 100 * x.rtoUs < s.ltu → x.retryMax ≤ m.retries → exec (.rtoExpiry c msn) s =
      .next ((s.connError c.toNat Stat.retryExceeded (some m.entry)).settle)) ∧
    (since + 100 * x.rtoUs < s.ltu → m.retries < x.retryMax →
      let holes := (List.range m.count).filter (fun k =>
        (!m.reported || m.ptype = 0x11 || !(m.placed.testBit k)) && decide (k < m.nextP) && !(m.inQ.contains k))
      exec (.rtoExpiry c msn) s = .next (((s.updConn c.toNat (fun y => { y with
        window := 64 * 65536
        out := y.out.map (fun o => if o.msn = m.msn then { o with
          retries := o.retries + 1, resend := holes, rtoFrom := if s.anyPath x then none else some s.ltu } else o) })).updLnd x.home
            (fun d => { d with retrans := satAdd 32 d.retrans holes.length })).pump c.toNat))) ∧
  (∀ (s : State) (c : BitVec 20) (msn : BitVec 16),
    ((s.conn c.toNat).out.find? (fun m => m.msn = msn.toNat)).bind (·.rtoFrom) = none → exec (.rtoExpiry c msn) s = .next s) ∧
  (∀ (s : State) (die : Fin 2) (c : BitVec 20), s.live = true →
    let x := s.conn c.toNat
    let wanted := x.home = die.val ∧ x.cached = false ∧ x.state ≠ .reset ∧ s.wantsContext die.val c.toNat = true
    (¬ wanted ∨ s.makeRoom die.val = none → exec (.contextFill die c) s = .next s) ∧
    (∀ u, wanted → s.makeRoom die.val = some u →
      let v := (u.updConn c.toNat (fun _ => connAt (u.rd (connSlot c.toNat) 64) (u.rd (connSlot c.toNat + 64) 192) u.ltu)).updLnd
        die.val (fun y => { y with fills := satAdd 32 y.fills 1 })
      exec (.contextFill die c) s = .next (((v.lnd die.val).miss.filter (fun p => rqConn p = c.toNat)).foldl
        (fun s p => s.raePacket p) (v.updLnd die.val (fun y => { y with miss := y.miss.filter (fun p => rqConn p ≠ c.toNat) }))))) ∧
  (∀ (s : State) (die : Fin 2) (q : Fin 256) (v : BitVec 16), s.live = true →
    let i := 256 * die.val + q.val
    let u := (((s.cq i).due).foldl (fun s r => s.postCpl i r) (s.updCq i (fun x => { x with head := v.toNat, due := [] })))
    exec (.cqHeadWrite die q v) s = .next (((Tbl.keys u.fab.conns).foldl (fun s c =>
      if (s.conn c).rcq ≠ i then s
      else ((s.conn c).inm.filter (·.held)).foldl (fun s m =>
        if (s.cq i).full then s
        else (s.updConn c (fun y => { y with inm := y.inm.map (fun o => if o.msn = m.msn then { m with held := false } else o) })).wholeMsg
          c { m with held := false }) s) u).sqSweep die.val))

/-- What a graft record does when it is acted on, and whether it may name an epoch this device does not honour (R328, R413). -/
def Claims.records (src : BitVec 12) (ep : BitVec 16) (r : GRec) : List (Instr × Bool × (State → State)) :=
  [(.openRec src ep r, true, fun s => s.openIn src.toNat ep.toNat r), (.openAck src ep r, false, fun s => s.openAckIn src.toNat ep.toNat r),
   (.graftCommit src ep r, false, fun s => s.commitIn src.toNat ep.toNat r), (.commitAck src ep r, false, fun s => s.commitAckIn src.toNat ep.toNat r),
   (.abortRec src ep r, false, fun s => s.abortIn src.toNat ep.toNat r), (.pull src ep r, false, fun s => s.pullIn src.toNat ep.toNat r),
   (.pullDone src ep r, false, fun s => s.pullDoneIn src.toNat ep.toNat r),
   (.pullDoneAck src ep r, false, fun s => s.pullDoneAckIn src.toNat ep.toNat r),
   (.releaseRec src ep r, false, fun s => s.releaseIn src.toNat ep.toNat r), (.expiredRec src ep r, false, fun s => s.expiredIn src.toNat ep.toNat r)]

/-- The graft that an accepted OPEN adds at the receiver (R327, R328): its tag is the next one, never 0. -/
def Claims.accepted (s : State) (src ep : Nat) (r : GRec) (i started : Nat) (slots : List Nat) : Graft :=
  { send := false, mode := gmodeOf r.gmode, req := i, reqId := r.reqId.toNat, tenant := r.tenant.toNat, peer := src,
    gtag := if s.fab.nextGtag % 65536 = 0 then 1 else s.fab.nextGtag % 65536, dreq := i, epoch := r.epoch, mapEpoch := ep,
    phase := .moving, credits := slots.length, slots := slots, answered := some Stat.ok, rec_ := some r, started := started }

/-- The state in which that graft stands, its tag taken. -/
def Claims.withGraft (s : State) (g : Graft) : State :=
  { s with fab := { s.fab with nextGtag := g.gtag + 1, grafts := s.fab.grafts ++ [g] } }

/-- Another OPEN refused (R335). -/
def Claims.oneRefused (s : State) : State := { s with fab := { s.fab with gRefused := satAdd 16 s.fab.gRefused 1 } }

/-- Opening and closing grafts (R30 to R32, R39, R43, R152, R279, R323 to R332, R413). A record acts when it passes its CRC and
its epoch is honoured; then an OPEN is answered again, refused, taken under a fresh tag, or kept until there is space; OPEN_ACK
starts the sender or fails it; COMMIT is answered again or waits for the data under way; COMMIT_ACK hands the request over; ABORT
fails either side. -/
def Obligations.GraftRecords : Prop :=
  (∀ (s u : State) (src : BitVec 12) (ep : BitVec 16) (r : GRec) (c : Instr) (o : Bool) (act : State → State),
    (c, o, act) ∈ Claims.records src ep r →
    (s.live = false → exec c s = .next s) ∧
    (s.live = true → s.recordIn src.toNat ep.toNat r o = (u, false) → exec c s = .next u) ∧
    (s.live = true → s.recordIn src.toNat ep.toNat r o = (u, true) → exec c s = .next (act u))) ∧
  (∀ (s u v : State) (src ep : Nat) (r : GRec) (o : Bool) (p : Pkt) (c : Nat),
    (s.takeRxLike (fun p => p.ptype = 0x17 && p.src = src) = (u, none) → u.ctlConn src = none →
      s.recordIn src ep r o = (u, r.crcOk && (o || u.honours ep))) ∧
    (s.takeRxLike (fun p => p.ptype = 0x17 && p.src = src) = (u, none) → u.ctlConn src = some c →
      s.recordIn src ep r o = u.judgeRecord c none ep r o) ∧
    (s.takeRxLike (fun p => p.ptype = 0x17 && p.src = src) = (u, some p) → u.admitData p = (v, none) →
      s.recordIn src ep r o = (v, false)) ∧
    (s.takeRxLike (fun p => p.ptype = 0x17 && p.src = src) = (u, some p) → u.admitData p = (v, some c) →
      s.recordIn src ep r o = v.judgeRecord c (some p) ep r o)) ∧
  (∀ (s : State) (c : Nat) (p : Option Pkt) (ep : Nat) (r : GRec) (o : Bool),
    (r.crcOk = false → s.judgeRecord c p ep r o =
      (((s.sendErr c ((p.map rqMsn).getD 0) Stat.checkFailed).connError c Stat.checkFailed none).settle, false)) ∧
    (r.crcOk = true → o = false → s.honours ep = false →
      s.judgeRecord c p ep r o = (s.sendErr c ((p.map rqMsn).getD 0) Stat.graftInvalid, false)) ∧
    (r.crcOk = true → o = true ∨ s.honours ep = true → (p = none → s.judgeRecord c p ep r o = (s, true)) ∧
      (∀ x, p = some x → s.judgeRecord c p ep r o = (s.placed c x 0, true)))) ∧
  (∀ (s : State) (ep : Nat), (s.honours ep = true ↔
    ep = s.cmap.cur ∨ s.cmap.old = some ep ∨ ep = (if s.cmap.cur = 65535 then 1 else s.cmap.cur + 1))) ∧
  (∀ (s : State) (src epoch id : Nat),
    (s.liveReqs.find? (fun i => (s.req i).reqId = id) = none → s.meetClaim src epoch id = s) ∧
    (∀ i, s.liveReqs.find? (fun i => (s.req i).reqId = id) = some i → s.meetClaim src epoch id =
      if (s.req i).epoch ≠ epoch ∧ claimLower ((s.req i).epoch, s.fid) (epoch, src) = true then s.yieldReq i src else s)) ∧
  (∀ (s v : State) (src ep : Nat) (r : GRec), s.meetClaim src r.epoch r.reqId.toNat = v →
    let same := fun (g : Graft) => !g.send && g.mode ≠ .pull && g.peer = src && g.reqId = r.reqId.toNat && g.epoch = r.epoch && g.answered.isSome
    (∀ k, v.findGraft same = some k →
      s.openIn src ep r = v.ackOpen src ep r Stat.ok (v.graft k).gtag (v.graft k).dreq (v.graft k).credits) ∧
    (v.findGraft same = none → (∃ w ∈ v.pools.opens, w.src = src ∧ w.rec_.reqId = r.reqId ∧ w.rec_.epoch = r.epoch) → s.openIn src ep r = v) ∧
    (v.findGraft same = none → (∀ w ∈ v.pools.opens, ¬ (w.src = src ∧ w.rec_.reqId = r.reqId ∧ w.rec_.epoch = r.epoch)) →
      s.openIn src ep r = v.openTry src ep r)) ∧
  (∀ (s : State) (src ep : Nat) (r : GRec) (e : Req), Req.ofEntry r.entry.toNat = e →
    (s.honours ep = false ∨ s.presentIn ep src = false →
      s.openTry src ep r = (Claims.oneRefused s).ackOpen src ep r Stat.mapStale 0 0 0) ∧
    (s.honours ep = true → s.presentIn ep src = true → r.gmode ≠ 3 → s.openCheck r e ≠ Stat.ok →
      s.openTry src ep r = (Claims.oneRefused s).ackOpen src ep r (s.openCheck r e) 0 0 0) ∧
    (∀ x st i, s.honours ep = true → s.presentIn ep src = true → r.gmode ≠ 3 → s.openCheck r e = Stat.ok →
      s.openTake r e src = (x, some st, i) → st ≠ Stat.ok →
      s.openTry src ep r = (Claims.oneRefused x).ackOpen src ep r st 0 0 0) ∧
    (∀ x i, s.honours ep = true → s.presentIn ep src = true → r.gmode ≠ 3 → s.openCheck r e = Stat.ok →
      s.openTake r e src = (x, none, i) →
      s.openTry src ep r = { x with pools := { x.pools with opens := x.pools.opens ++ [⟨src, ep, r⟩] } }) ∧
    (∀ x i g, s.honours ep = true → s.presentIn ep src = true → r.gmode ≠ 3 → s.openCheck r e = Stat.ok →
      s.openTake r e src = (x, some Stat.ok, i) → Claims.accepted x src ep r i s.ltu [] = g →
      s.openTry src ep r = (Claims.withGraft x g).ackOpen src ep r Stat.ok g.gtag i 0) ∧
    (∀ x st i, s.honours ep = true → s.presentIn ep src = true → r.gmode = 3 → s.openPark r e src = (x, st, i) → st ≠ Stat.ok →
      s.openTry src ep r = (Claims.oneRefused x).ackOpen src ep r st 0 0 0) ∧
    (∀ x y i ks g, s.honours ep = true → s.presentIn ep src = true → r.gmode = 3 → s.openPark r e src = (x, Stat.ok, i) →
      x.takeSlots x.fab.landCredits = (y, ks) → Claims.accepted x src ep r i s.ltu ks = g →
      s.openTry src ep r = (Claims.withGraft y g).ackOpen src ep r Stat.ok g.gtag i ks.length)) ∧
  (∀ (s : State) (n : Nat), s.takeSlots n = ({ s with fab := { s.fab with landFree := s.fab.landFree - (s.takeSlots n).2.length } },
    ((List.range 256).filter (fun k => !((s.fab.grafts.flatMap (·.slots)).contains k))).take (Nat.min n s.fab.landFree))) ∧
  (∀ (s : State) (src ep : Nat) (r : GRec),
    let mine := fun (g : Graft) => g.send && g.phase = .opening && g.peer = src && g.reqId = r.reqId.toNat && g.epoch = r.epoch
    (s.findGraft mine = none → s.openAckIn src ep r = s) ∧
    (∀ k, s.findGraft mine = some k → r.status ≠ Stat.ok → s.openAckIn src ep r = (s.sendFailed k r.status).graftPump) ∧
    (∀ k v, s.findGraft mine = some k → r.status = Stat.ok →
      s.updGraft k (fun g => { g with phase := .moving, gtag := r.gtag, dreq := r.dreq, credits := r.landCredits, answered := some Stat.ok }) = v →
      ((s.graft k).mode = .push → s.openAckIn src ep r =
        ((v.updReq (s.graft k).req (fun q => { q with peer := src, gtag := r.gtag })).pushOpened k).graftPump) ∧
      ((s.graft k).mode = .handover → s.openAckIn src ep r =
        ((v.updReq (s.graft k).req (fun q => { q with gtag := r.gtag })).updGraft k (fun g =>
          { g with todo := (s.req (s.graft k).req).journalWork 0 (s.req (s.graft k).req).journal.length, lastPosted := true })).graftPump) ∧
      ((s.graft k).mode = .park → s.openAckIn src ep r =
        (v.updReq (s.graft k).req (fun q => { q with peer := src, gtag := r.gtag })).graftPump))) ∧
  (∀ (s : State) (src ep : Nat) (r : GRec),
    let mine := fun (g : Graft) => !g.send && g.mode ≠ .pull && g.peer = src && g.reqId = r.reqId.toNat && g.gtag = r.gtag && g.answered.isSome
    (s.findGraft mine = none → s.commitIn src ep r = s.meetClaim src r.epoch r.reqId.toNat) ∧
    (∀ k, s.findGraft mine = some k → (s.graft k).phase = .done → s.commitIn src ep r =
      (s.sendCtl (s.graft k).peer (s.graft k).mapEpoch gkCommitAck { (s.graft k).recFor with status := Stat.ok }).pumpCtl) ∧
    (∀ k, s.findGraft mine = some k → (s.graft k).phase ≠ .done → s.commitIn src ep r =
      (s.updGraft k (fun g => { g with phase := .committing, commit := some r, commitAt := if g.commit.isSome then g.commitAt else s.ltu })).tryCommits)) ∧
  (∀ (s : State) (src ep : Nat) (r : GRec),
    let mine := fun (g : Graft) => g.send && g.mode ≠ .pull && g.phase = .committing && g.peer = src && g.gtag = r.gtag && g.reqId = r.reqId.toNat
    (s.findGraft mine = none → s.commitAckIn src ep r = s) ∧
    (∀ k, s.findGraft mine = some k → r.status ≠ Stat.ok → s.commitAckIn src ep r = s.sendFailed k r.status) ∧
    (∀ k i v, s.findGraft mine = some k → r.status = Stat.ok → (s.graft k).req = i → s.closeGraft k true = v →
      ((s.graft k).mode = .push → s.commitAckIn src ep r = v.ownerGone i src) ∧
      ((s.graft k).mode = .handover → s.commitAckIn src ep r = (v.keepAsHolder i src (((s.graft k).epoch + 1) % 65536)).ownerGone i src) ∧
      ((s.graft k).mode = .park → s.commitAckIn src ep r = v.parkCommitted i src) ∧
      v.reqs = s.reqs ∧ v.holders = s.holders ∧ (v.graft k).phase = .done ∧ v.fab.gCommitted = satAdd 32 s.fab.gCommitted 1)) ∧
  (∀ (s : State) (src ep : Nat) (r : GRec),
    let mine := fun (g : Graft) => g.live && g.peer = src && g.reqId = r.reqId.toNat && (g.gtag = r.gtag || (!g.send && r.gtag = 0))
    (s.findGraft mine = none → s.abortIn src ep r =
      { s with pools := { s.pools with opens := s.pools.opens.filter (fun w => !(w.is src r.reqId.toNat)) } }) ∧
    (∀ k, s.findGraft mine = some k → (s.graft k).send = true → s.abortIn src ep r = s.sendFailed k Stat.aborted) ∧
    (∀ k, s.findGraft mine = some k → (s.graft k).send = false → (s.graft k).mode = .pull →
      s.abortIn src ep r = (s.closeGraft k false).recover (s.graft k).req) ∧
    (∀ k, s.findGraft mine = some k → (s.graft k).send = false → (s.graft k).mode ≠ .pull → s.abortIn src ep r = s.dropReceived k))

/-- The time to live of a request held here stops (R41). -/
def Claims.held (s : State) (h : HolderRec) : State :=
  { s with holders := s.holders.map (fun (x : HolderRec) => if x.idx = h.idx && x.reqId = h.reqId then { x with ttl := none } else x) }

/-- The graft by which a holder sends a pulled request's frames (R41, R328). -/
def Claims.pullGraft (s : State) (src ep : Nat) (r : GRec) (h : HolderRec) : Graft :=
  { send := true, mode := .pull, req := h.idx, reqId := h.reqId, tenant := h.tenant, peer := src, gtag := r.gtag, dreq := r.dreq,
    epoch := r.epoch, mapEpoch := ep, phase := .moving, credits := r.landCredits,
    todo := h.pages.map (fun e => .frame e.1 e.2 (Tbl.getD h.lens e.1 0)), compress := (s.tenant h.tenant).t3Compress,
    lastPosted := true, answered := some Stat.ok, started := s.ltu }

/-- Pulls, the holders they pull from, ownership claims, and graft data (R40 to R47, R279, R324 to R326, R328, R329, R331, R333,
R558). -/
def Obligations.GraftPulls : Prop :=
  (∀ (s : State) (h : HolderRec),
    (s.holderOver h = true ↔ ∃ t ms, h.ttl = some (t, ms) ∧ h.parked = true ∧ t + ttlTicks ms < s.ltu) ∧
    s.expireHolder h = ((s.dropHolder h).sendCtl h.dev s.cmap.cur gkExpired
      { epoch := h.epoch, reqId := BitVec.ofNat 64 h.reqId, tenant := BitVec.ofNat 16 h.tenant }).pumpCtl ∧
    s.dropHolder h = h.pages.foldl (fun s e => s.freePlace h.tenant e.2)
      { s with holders := s.holders.filter (fun x => !(x.idx = h.idx && x.reqId = h.reqId)) }) ∧
  (∀ (s : State) (src epoch id : Nat),
    ((∀ h ∈ s.holders, ¬ (h.reqId = id ∧ h.parked = true)) → s.holderFor src epoch id = (s, none)) ∧
    (∀ h, s.holders.find? (fun h => h.reqId = id && h.parked) = some h →
      (h.dev = src → h.epoch = epoch → s.holderFor src epoch id = (s, some h)) ∧
      (h.epoch ≠ epoch → claimLower (h.epoch, h.dev) (epoch, src) = true → s.holderFor src epoch id =
        ({ s with holders := s.holders.map (fun x => if x.idx = h.idx && x.reqId = id then { h with dev := src, epoch := epoch } else x) },
          some { h with dev := src, epoch := epoch })) ∧
      (h.epoch = epoch → h.dev ≠ src → s.holderFor src epoch id = (s, none)) ∧
      (h.epoch ≠ epoch → claimLower (h.epoch, h.dev) (epoch, src) = false → s.holderFor src epoch id = (s, none)))) ∧
  (∀ (s u v : State) (src ep : Nat) (r : GRec), s.meetClaim src r.epoch r.reqId.toNat = u →
    (match u.holders.find? (fun h => h.reqId = r.reqId.toNat && u.holderOver h) with
      | some h => u.expireHolder h
      | none => u) = v →
    ((∀ h ∈ v.holders, h.reqId ≠ r.reqId.toNat) → s.pullIn src ep r = (v.sendCtl src ep gkPullDone
      { gtag := r.gtag, status := Stat.expired, epoch := r.epoch, reqId := r.reqId, tenant := r.tenant, dreq := r.dreq }).pumpCtl) ∧
    (∀ w, (∃ h ∈ v.holders, h.reqId = r.reqId.toNat) → v.holderFor src r.epoch r.reqId.toNat = (w, none) → s.pullIn src ep r = w) ∧
    (∀ w h, (∃ h ∈ v.holders, h.reqId = r.reqId.toNat) → v.holderFor src r.epoch r.reqId.toNat = (w, some h) →
      ((∃ g ∈ w.fab.grafts, g.send = true ∧ g.mode = .pull ∧ g.live = true ∧ g.peer = src ∧ g.gtag = r.gtag) →
        s.pullIn src ep r = Claims.held w h) ∧
      ((∀ g ∈ w.fab.grafts, ¬ (g.send = true ∧ g.mode = .pull ∧ g.live = true ∧ g.peer = src ∧ g.gtag = r.gtag)) →
        s.pullIn src ep r = { Claims.held w h with fab := { w.fab with grafts := w.fab.grafts ++ [Claims.pullGraft w src ep r h] } }.graftPump))) ∧
  (∀ (s : State) (src ep : Nat) (r : GRec),
    let mine := fun (g : Graft) => !g.send && g.mode = .pull && g.live && g.peer = src && g.gtag = r.gtag && g.reqId = r.reqId.toNat
    (s.findGraft mine = none → s.pullDoneIn src ep r = s) ∧
    (∀ k, s.findGraft mine = some k → r.status ≠ Stat.ok → s.pullDoneIn src ep r = (s.closeGraft k false).plotsGone (s.graft k).req) ∧
    (∀ k v, s.findGraft mine = some k → r.status = Stat.ok → s.updGraft k (fun g => { g with phase := .committing }) = v →
      ((s.req (s.graft k).req).pull ≠ [] → s.pullDoneIn src ep r = v) ∧
      ((s.req (s.graft k).req).pull = [] → s.pullDoneIn src ep r =
        ((v.sendCtl (s.graft k).peer (s.graft k).mapEpoch gkPullDoneAck (s.graft k).recFor).closeGraft k true).pumpCtl))) ∧
  (∀ (s u : State) (src ep : Nat) (r : GRec),
    (match s.findGraft (fun g => g.send && g.mode = .pull && g.live && g.peer = src && g.gtag = r.gtag) with
      | some k => s.closeGraft k true
      | none => s) = u →
    (∀ h, u.holders.find? (fun h => h.reqId = r.reqId.toNat && h.dev = src && h.epoch = r.epoch) = some h →
      s.pullDoneAckIn src ep r = u.dropHolder h) ∧
    ((∀ h ∈ u.holders, ¬ (h.reqId = r.reqId.toNat ∧ h.dev = src ∧ h.epoch = r.epoch)) → s.pullDoneAckIn src ep r = u)) ∧
  (∀ (s v : State) (src ep : Nat) (r : GRec),
    ((s.meetClaim src r.epoch r.reqId.toNat).holderFor src r.epoch r.reqId.toNat = (v, none) → s.releaseIn src ep r = v) ∧
    (∀ h, (s.meetClaim src r.epoch r.reqId.toNat).holderFor src r.epoch r.reqId.toNat = (v, some h) →
      (v.findGraft (fun g => g.send && g.mode = .pull && g.live && g.reqId = h.reqId) = none → s.releaseIn src ep r = v.dropHolder h) ∧
      (∀ k, v.findGraft (fun g => g.send && g.mode = .pull && g.live && g.reqId = h.reqId) = some k →
        s.releaseIn src ep r = (v.closeGraft k false).dropHolder h))) ∧
  (∀ (s v : State) (src ep : Nat) (r : GRec), s.meetClaim src r.epoch r.reqId.toNat = v →
    (v.reqBy r.reqId.toNat r.tenant.toNat = none → s.expiredIn src ep r = v) ∧
    (∀ i, v.reqBy r.reqId.toNat r.tenant.toNat = some i →
      let mine := (v.req i).peer = src ∧ (∃ e ∈ (v.req i).pages, e.2 = .holder) ∧ ((v.req i).st = .parked ∨ (v.req i).st = .resuming)
      (¬ mine → s.expiredIn src ep r = v) ∧
      (mine → v.findGraft (fun g => !g.send && g.mode = .pull && g.live && g.req = i) = none → s.expiredIn src ep r = v.plotsGone i) ∧
      (∀ k, mine → v.findGraft (fun g => !g.send && g.mode = .pull && g.live && g.req = i) = some k →
        s.expiredIn src ep r = (v.closeGraft k false).plotsGone i))) ∧
  (∀ (s : State) (i : Nat), s.plotsGone i = (s.dropPlots i).updReq i (fun r =>
    { r with pages := [], parkTarget := 0, peer := 0, pullDone := false,
             st := if (s.req i).st = .parked then .expired else r.st, backTo := if (s.req i).st = .parked then r.backTo else .expired })) ∧
  (∀ (s u : State) (src : BitVec 12) (id : BitVec 64) (ep : BitVec 16) (crc : BitVec 32), 
    (s.takeRxLike (fun p => p.ptype = 3 && p.src = src.toNat)).1 = u →
    (s.live = false → exec (.ownerClaim src id ⟨ep, crc⟩) s = .next s) ∧
    (s.live = true → crc32c (mgmtMsg 1 ep.toNat id.toNat) ≠ crc.toNat → exec (.ownerClaim src id ⟨ep, crc⟩) s = .next u) ∧
    (s.live = true → crc32c (mgmtMsg 1 ep.toNat id.toNat) = crc.toNat → u.liveReqs.find? (fun i => (u.req i).reqId = id.toNat) = none →
      exec (.ownerClaim src id ⟨ep, crc⟩) s = .next (u.sendMgmt src.toNat 2 ep.toNat id.toNat)) ∧
    (∀ i, s.live = true → crc32c (mgmtMsg 1 ep.toNat id.toNat) = crc.toNat →
      u.liveReqs.find? (fun i => (u.req i).reqId = id.toNat) = some i →
      (claimLower ((u.req i).epoch, u.fid) (ep.toNat, src.toNat) = true → exec (.ownerClaim src id ⟨ep, crc⟩) s =
        .next ((u.endRequest i Stat.ownerYielded).sendMgmt src.toNat 2 (u.req i).epoch (u.req i).reqId)) ∧
      (claimLower ((u.req i).epoch, u.fid) (ep.toNat, src.toNat) = false →
        exec (.ownerClaim src id ⟨ep, crc⟩) s = .next (u.sendMgmt src.toNat 1 (u.req i).epoch (u.req i).reqId)))) ∧
  (∀ a b : Nat × Nat, let d := (b.1 + 65536 - a.1) % 65536
    claimLower a b = if d = 0 ∨ d = 32768 then decide (b.2 < a.2) else decide (d < 32768)) ∧
  (∀ (s u : State) (p q : Pkt), (s.takeRx p).1 = u → { p with via := (s.takeRx p).2.getD (peerMsfLink (s.peer p.src)) } = q →
    ∀ c ∈ [(.graftDataReceive p, u.graftDataIn q), (.graftFrameReceive p, u.graftFrameIn q)],
      (s.live = false → exec c.1 s = .next s) ∧ (s.live = true → exec c.1 s = .next c.2)) ∧
  (∀ (s u : State) (p : Pkt),
    (s.admitData p = (u, none) → s.graftDataIn p = u ∧ s.graftFrameIn p = u) ∧
    (∀ c, s.admitData p = (u, some c) → u.graftFor c p = none →
      s.graftDataIn p = u.sendErr c (rqMsn p) Stat.graftInvalid ∧ s.graftFrameIn p = u.sendErr c (rqMsn p) Stat.graftInvalid) ∧
    (∀ c k v st, s.admitData p = (u, some c) → u.graftFor c p = some k → (u.tagMsg c p none).graftAddr p = (v, .error st) →
      s.graftDataIn p = v.sendErr c (rqMsn p) st) ∧
    (∀ c k v a st, s.admitData p = (u, some c) → u.graftFor c p = some k → (u.tagMsg c p none).graftAddr p = (v, .ok a) →
      (if rqJournal p then v.accStatus (.fabric (v.conn c).home) .write a p.data.length
        else v.keyedStatus (v.conn c).home 0xFFFF .write a p.data.length) = st →
      (st ≠ Stat.ok → s.graftDataIn p = (v.violateAt (.fabric (v.conn c).home) a).sendErr c (rqMsn p) Stat.graftInvalid) ∧
      (st = Stat.ok → v.heldChan a p.data.length = none → s.graftDataIn p = (v.putInbound c p a (v.conn c).tenant).tryCommits) ∧
      (∀ ch, st = Stat.ok → v.heldChan a p.data.length = some ch → s.graftDataIn p =
        (v.holdAcc ch ⟨.fabric (v.conn c).home, true, chanOff a, 0, [], .rae p⟩).tryCommits))) ∧
  (∀ (s v : State) (p : Pkt), let off := 4096 * (gPage p + rqPidx p)
    let r := s.req (gDreq p)
    (rqJournal p = true → s.graftAddr p = (s, if off + p.data.length ≤ 65536 * r.jplots.length then
      .ok (journalAddr (nth r.jplots (off / 65536) 0) + off % 65536) else .error Stat.graftInvalid)) ∧
    (∀ a, rqJournal p = false → s.translate 4 r.seq.asid r.tenant (r.seq.base + off) .write 63 = (v, .ok a) → s.graftAddr p = (v, .ok a)) ∧
    (∀ x, rqJournal p = false → s.translate 4 r.seq.asid r.tenant (r.seq.base + off) .write 63 = (v, .error x) →
      s.graftAddr p = (v, .error Stat.translationFault))) ∧
  (∀ (s u : State) (p : Pkt) (c k : Nat), s.admitData p = (u, some c) → u.graftFor c p = some k →
    ((u.conn c).inm.find? (fun m => m.msn = rqMsn p) = none → s.graftFrameIn p = u.sendErr c (rqMsn p) Stat.graftInvalid) ∧
    (∀ m, (u.conn c).inm.find? (fun m => m.msn = rqMsn p) = some m → m.slot = none → u.freeSlot (u.graft k) = none →
      s.graftFrameIn p = u.sendErr c (rqMsn p) Stat.graftInvalid) ∧
    (∀ m x, (u.conn c).inm.find? (fun m => m.msn = rqMsn p) = some m → (m.slot = some x ∨ m.slot = none ∧ u.freeSlot (u.graft k) = some x) →
      ((u.graft k).mode ≠ .park ∧ (u.graft k).mode ≠ .pull ∨ 16 ≤ rqPidx p → s.graftFrameIn p = u.sendErr c (rqMsn p) Stat.graftInvalid) ∧
      (∀ v, (u.graft k).mode = .park ∨ (u.graft k).mode = .pull → rqPidx p < 16 →
        ((((u.tagMsg c p (some x)).placeBytes (slotAddr x + 4096 * rqPidx p) p.data).countRx (u.graft k).tenant p.via
          (32 * p.flits)).placed c p p.data.length) = v →
        let whole := ∀ i, i ≤ m.npktM1 → m.bitmap.testBit i = true ∨ i = rqPidx p
        (¬ whole → s.graftFrameIn p = v.tryCommits) ∧
        (whole → (u.graft k).mode = .pull → s.graftFrameIn p = (v.framePulled k (gPage p / 16) x (m.bytes + p.data.length)).tryCommits) ∧
        (whole → (u.graft k).mode = .park → s.graftFrameIn p = (v.frameParked k (gPage p / 16) x (m.bytes + p.data.length)).tryCommits)))) ∧
  (∀ (s : State), (s.live = false → exec .graftCntClr s = .next s) ∧
    (s.live = true → exec .graftCntClr s = .next { s with fab := { s.fab with gCommitted := 0, gAborted := 0, gRefused := 0, gBytes := 0 } }))

/-- The status of the first check that fails, OK when none does (R24). -/
def Claims.firstFailing (checks : List (Bool × Nat)) : Nat := ((checks.find? (·.1)).map (·.2)).getD Stat.ok

/-- What each operation of a submission entry does, by its OP (R367). -/
def Claims.operations (s : State) (ring : Nat) (x : BitVec 1024) : List (Instr × Nat × State) :=
  [(.admitOp ring x, 1, s.admitNew ring x.toNat), (.park ring x, 2, s.parkOp ring x.toNat), (.resume ring x, 3, s.resumeOp ring x.toNat),
   (.cancel ring x, 4, s.cancelOp ring x.toNat), (.redirect ring x, 5, s.redirectOp ring x.toNat)]

/-- An operation of an entry ends with a status and no detail (R369). -/
def Claims.ends (u : State) (ring e op st : Nat) : State := u.completeOp ⟨seSubId e, ring⟩ (seReqId e) op st 0

/-- Operations of a request (R1, R4, R18 to R25, R32, R38 to R48, R156, R157, R212, R366 to R374, R415, R436). An operation acts when
its ring is a submission ring in use and its OP is the row's; what turns it down completes it with a status; one that runs gives
the request its next state. The retention time ends a parked request's plots; a failed push tries the next destination. -/
def Obligations.RequestOperations : Prop :=
  (∀ (s : State) (ring : Nat) (x : BitVec 1024) (c : Instr) (op : Nat) (t : State), (c, op, t) ∈ Claims.operations s ring x →
    let on := s.live = true ∧ (s.ring ring).kind = .submission ∧ (s.ring ring).rstate ≠ .free ∧ fld x.toNat 0 1 = op
    (on → exec c s = .next t) ∧ (¬ on → exec c s = .next s)) ∧
  (∀ (s : State) (ring e : Nat), let m := s.slot (fld e 0x18 2)
    let p := s.cfg.dev.personality
    let n := fld e 0x20 4
    let all := n + fld e 0x24 4
    s.admitCheck ring e = Claims.firstFailing
      [(decide (p = 0), Stat.notConfigured), (!(hasPrompt p), Stat.wrongPersonality), (!(s.admitFieldsOk ring e), Stat.invalidField),
       (decide (n = 0 ∨ 16777216 < all), Stat.seqTooLong), (!(s.slotLoaded (fld e 0x18 2) (seTenant e)), Stat.modelNotLoaded),
       (bit (fld e 0x1C 1) 1 && !(s.slotLoaded (fld e 0x1A 2) (seTenant e)), Stat.modelNotLoaded), (decide (m.limit < all), Stat.seqTooLong),
       (decide (fld e 0x1F 1 ≠ 0xFF ∧ s.biasRows m ≤ fld e 0x1F 1), Stat.invalidField), (s.idLive (seReqId e), Stat.duplicateId)]) ∧
  (∀ (s u : State) (ring e : Nat), s.updRing ring (fun g => { g with taken := g.taken + 1 }) = u →
    (u.admitCheck ring e ≠ Stat.ok → s.admitNew ring e = Claims.ends u ring e 1 (u.admitCheck ring e)) ∧
    (u.admitCheck ring e = Stat.ok → u.admitEntry ring e = none → s.admitNew ring e = Claims.ends u ring e 1 Stat.noRequestSlot) ∧
    (∀ v w i, u.admitCheck ring e = Stat.ok → u.admitEntry ring e = some (v, i) → v.kvSpace i (fld e 0x20 4) = (w, false) →
      s.admitNew ring e = Claims.ends u ring e 1 Stat.noKvSpace) ∧
    (∀ v w i, u.admitCheck ring e = Stat.ok → u.admitEntry ring e = some (v, i) → v.kvSpace i (fld e 0x20 4) = (w, true) →
      ((∀ d ∈ seDests e, d = 0) → s.admitNew ring e = w.admitDone i) ∧
      ((∃ d ∈ seDests e, d ≠ 0) → s.admitNew ring e = w.tryDest i 0 0))) ∧
  (∀ (s : State) (i : Nat),
    (∀ k d, s.nextDest (s.req i) = some (k, d) → s.tryDest i 0 0 =
      (s.updReq i (fun r => { r with destTried := k, peer := d, stalled := false })).openGraft i .push d 0) ∧
    (∀ p, (s.req i).opAdmit = some p → s.admitDone i =
      (((s.updReq i (fun r => { r with opAdmit := none })).countAdmitted).completeOp p (s.req i).reqId 1 Stat.ok 0).heldCancel i)) ∧
  (∀ (s u : State) (ring e : Nat), s.updRing ring (fun g => { g with taken := g.taken + 1 }) = u →
    (hasGeneration (u.opPersonality e) = false → s.parkOp ring e = Claims.ends u ring e 2 Stat.wrongPersonality) ∧
    (hasGeneration (u.opPersonality e) = true → u.parkFieldsOk ring e = false → s.parkOp ring e = Claims.ends u ring e 2 Stat.invalidField) ∧
    (hasGeneration (u.opPersonality e) = true → u.parkFieldsOk ring e = true →
      (∀ i, u.reqBy (seReqId e) (seTenant e) = some i → (u.req i).st ≠ .decode) → s.parkOp ring e = Claims.ends u ring e 2 Stat.wrongState) ∧
    (∀ i, hasGeneration (u.opPersonality e) = true → u.parkFieldsOk ring e = true → u.reqBy (seReqId e) (seTenant e) = some i →
      (u.req i).st = .decode →
      (fld e 0x18 1 = 4 → u.present (bits e 208 12) = false → s.parkOp ring e = Claims.ends u ring e 2 Stat.graftFailed) ∧
      (fld e 0x18 1 ≠ 4 → s.parkOp ring e =
        u.updReq i (fun r => { r with st := .parking, parkTarget := fld e 0x18 1, ttlMs := fld e 0x1C 4, opPark := some ⟨seSubId e, ring⟩ })) ∧
      (fld e 0x18 1 = 4 → u.present (bits e 208 12) = true → s.parkOp ring e =
        (u.updReq i (fun r => { r with st := .parking, parkTarget := 4, ttlMs := fld e 0x1C 4, opPark := some ⟨seSubId e, ring⟩, peer := bits e 208 12 })).openGraft i .park (bits e 208 12) 0))) ∧
  (∀ (s u : State) (ring e d : Nat), s.updRing ring (fun g => { g with taken := g.taken + 1 }) = u → bits e 192 12 = d →
    let here := d = 0 ∨ d = u.fid
    (here → hasGeneration (u.opPersonality e) = false → s.resumeOp ring e = Claims.ends u ring e 3 Stat.wrongPersonality) ∧
    (¬ here ∨ hasGeneration (u.opPersonality e) = true → u.resumeFieldsOk ring e = false →
      s.resumeOp ring e = Claims.ends u ring e 3 Stat.invalidField) ∧
    (¬ here ∨ hasGeneration (u.opPersonality e) = true → u.resumeFieldsOk ring e = true →
      (u.reqBy (seReqId e) (seTenant e) = none → s.resumeOp ring e = Claims.ends u ring e 3 Stat.wrongState) ∧
      (∀ i v, u.reqBy (seReqId e) (seTenant e) = some i → (if u.ttlOver (u.req i) then u.expire i else u) = v →
        ((v.req i).st ≠ .parking → (v.req i).st ≠ .parked → (v.req i).st ≠ .expired →
          s.resumeOp ring e = Claims.ends v ring e 3 Stat.wrongState) ∧
        (here → (v.req i).st = .parking → s.resumeOp ring e = Claims.ends (v.killPark i Stat.killedByResume 0) ring e 3 Stat.ok) ∧
        (¬ here → (v.req i).st = .parking → s.resumeOp ring e = (v.killPark i Stat.killedByResume 0).updReq i (fun q =>
          { q with st := .resuming, opResume := some ⟨seSubId e, ring⟩, backTo := .decode, resumeDev := d })) ∧
        (¬ here → (v.req i).st = .parked ∨ (v.req i).st = .expired → s.resumeOp ring e = v.updReq i (fun q =>
          { q with st := .resuming, opResume := some ⟨seSubId e, ring⟩, backTo := (v.req i).st, resumeDev := d })) ∧
        (here → (v.req i).st = .expired → s.resumeOp ring e = v.updReq i (fun q =>
          { q with st := .resuming, opResume := some ⟨seSubId e, ring⟩, backTo := .expired, resumeDev := 0 })) ∧
        (here → (v.req i).st = .parked → s.resumeOp ring e = (v.updReq i (fun q =>
          { q with st := .resuming, opResume := some ⟨seSubId e, ring⟩, backTo := .parked, resumeDev := 0 })).startPull i)))) ∧
  (∀ (s v : State) (i : Nat), s.updReq i (fun r => { r with ttlOn := false, pull := r.pages.map (·.1), pullDone := r.pages.isEmpty }) = v →
    ((∃ e ∈ (s.req i).pages, e.2 = .holder) → s.startPull i = v.sendPull i) ∧ ((∀ e ∈ (s.req i).pages, e.2 ≠ .holder) → s.startPull i = v)) ∧
  (∀ (s u : State) (ring e : Nat), s.updRing ring (fun g => { g with taken := g.taken + 1 }) = u →
    ((u.headOk ring e && zeroBytes e 0x18 0x7C) = false → s.cancelOp ring e = Claims.ends u ring e 4 Stat.invalidField) ∧
    ((u.headOk ring e && zeroBytes e 0x18 0x7C) = true → (∀ i, u.reqBy (seReqId e) (seTenant e) = some i → (u.req i).opCancel.isSome = true) →
      s.cancelOp ring e = Claims.ends u ring e 4 Stat.wrongState) ∧
    (∀ i, (u.headOk ring e && zeroBytes e 0x18 0x7C) = true → u.reqBy (seReqId e) (seTenant e) = some i → (u.req i).opCancel = none →
      ((u.req i).opAdmit.isSome = true ∨ u.moving i = true → s.cancelOp ring e =
        u.updReq i (fun r => { r with cancelHeld := true, opCancel := some ⟨seSubId e, ring⟩ })) ∧
      ((u.req i).opAdmit = none → u.moving i = false → s.cancelOp ring e =
        ((((u.completeIf (u.req i).opPark (u.req i).reqId 2 Stat.cancelled 0).updReq i (fun r => { r with opPark := none })).completeOp
          ⟨seSubId e, ring⟩ (u.req i).reqId 4 Stat.ok 0).endRequest i Stat.cancelled)))) ∧
  (∀ (s u : State) (ring e : Nat), s.updRing ring (fun g => { g with taken := g.taken + 1 }) = u →
    ((u.headOk ring e && zeroBytes e 0x18 0x44 && destsOk e && zeroBytes e 0x4C 0x7C) = false →
      s.redirectOp ring e = Claims.ends u ring e 5 Stat.invalidField) ∧
    ((u.headOk ring e && zeroBytes e 0x18 0x44 && destsOk e && zeroBytes e 0x4C 0x7C) = true →
      (∀ i, u.reqBy (seReqId e) (seTenant e) = some i → (u.req i).st ≠ .handover ∨ (u.req i).opRedirect.isSome = true) →
      s.redirectOp ring e = Claims.ends u ring e 5 Stat.wrongState) ∧
    (∀ i v, (u.headOk ring e && zeroBytes e 0x18 0x44 && destsOk e && zeroBytes e 0x4C 0x7C) = true →
      u.reqBy (seReqId e) (seTenant e) = some i → (u.req i).st = .handover → (u.req i).opRedirect = none →
      (match u.sending i with
        | some k => u.abortGraft k
        | none => u) = v →
      s.redirectOp ring e = (v.updReq i (fun r => { r with dest := seDests e, destTried := 0, opRedirect := some ⟨seSubId e, ring⟩ })).tryDest i 0 0)) ∧
  (∀ (s : State) (i status : Nat),
    let failed := s.findGraft (fun g => g.send && g.mode = .push && g.req = i && g.phase = .failed && g.answered.isSome)
    (s.live = false ∨ (s.req i).isLive = false ∨ failed = none → exec (.graftDestFailed i status) s = .next s) ∧
    (∀ k, s.live = true → (s.req i).isLive = true → failed = some k →
      exec (.graftDestFailed i status) s = .next ((s.abortGraft k).tryDest i status (s.graft k).peer))) ∧
  (∀ (s : State) (i : Nat), (s.ttlOver (s.req i) = true ↔ (s.req i).st = .parked ∧ (s.req i).ending = false ∧ (s.req i).ttlOn = true ∧
      (s.req i).parkAt + 100000 * (if (s.req i).ttlMs = 0 then 2 ^ 32 else (s.req i).ttlMs) < s.ltu) ∧
    (s.live = false → exec (.parkExpiry i) s = .next s) ∧
    (s.live = true → s.ttlOver (s.req i) = true → exec (.parkExpiry i) s =
      .next ((s.dropPlots i).updReq i (fun r => { r with st := .expired, ttlOn := false, parkTarget := 0, peer := 0 }))) ∧
    (s.live = true → s.ttlOver (s.req i) = false → s.holders.find? (fun h => h.idx = i && h.parked) = none → exec (.parkExpiry i) s = .next s) ∧
    (∀ h, s.live = true → s.ttlOver (s.req i) = false → s.holders.find? (fun h => h.idx = i && h.parked) = some h →
      exec (.parkExpiry i) s = .next (if s.holderOver h then s.expireHolder h else s))) ∧
  (∀ (s : State) (i dest : Nat), let r := s.req i
    let due := s.live = true ∧ r.st = .resuming ∧ r.ending = false ∧ r.resumeDev = dest ∧ dest ≠ 0 ∧ s.sending i = none ∧ s.reqNamed i = false
    (due → exec (.recordHandover i dest) s = .next (s.openGraft i .handover dest
      (if r.pages = [] then 0 else if ∃ e ∈ r.pages, e.2 = .holder then r.peer else s.fid))) ∧
    (¬ due → exec (.recordHandover i dest) s = .next s)) ∧
  (∀ (s : State) (i peer holder : Nat) (mode : GMode) (g : Graft),
    ({ send := true, mode := mode, req := i, reqId := (s.req i).reqId, tenant := (s.req i).tenant, peer := peer, epoch := (s.req i).epoch,
       mapEpoch := s.cmap.cur, started := s.ltu, compress := mode = .park && (s.tenant (s.req i).tenant).t3Compress } : Graft) = g →
    ∀ v, { s with fab := { s.fab with grafts := s.fab.grafts ++ [g] } } = v →
    s.openGraft i mode peer holder = (v.sendCtl peer s.cmap.cur gkOpen (v.openRec i g holder)).pumpCtl) ∧
  (∀ (s : State) (i : Nat), let r := s.req i
    let due := s.live = true ∧ r.isLive = true ∧ r.fallback = false ∧ (r.st = .resuming ∧ r.resumeDev = 0 ∧ r.backTo = .expired ∨
      r.lost = true ∧ s.reqNamed i = false ∧ s.moving i = false)
    (due → exec (.reprefill i) s = .next (if hasPrompt ((s.dropPlots i).devOf ((s.dropPlots i).req i).cfg).personality
      then (s.dropPlots i).startReprefill i else ((s.dropPlots i).updReq i (fun r => { r with peerTry := 0 })).tryPeer i 0 0)) ∧
    (¬ due → exec (.reprefill i) s = .next s))

/-- Rings (R356 to R369, R397, R440): a doorbell moves TAIL or HEAD within what the ring allows and halts it beyond; RING_LOAD,
RING_CMD and their rejection; the coalescing timer; the counters; the entry that a turn takes. -/
def Obligations.RingCommands : Prop :=
  (∀ (s : State) (ld : Fin 16) (v : BitVec 64), let r := bits v.toNat 0 18
    let x := bits v.toNat 32 32
    let mine := s.live = true ∧ (ld.val = 0 ∨ s.cxl.mld = true)
    (¬ mine → exec (.doorbell ld v) s = .next s) ∧
    (mine → (s.ring r).rstate = .free ∨ (s.ring r).ld ≠ ld.val → exec (.doorbell ld v) s =
      .next { s with ringRegs := { s.ringRegs with badDoorbell := satAdd 8 s.ringRegs.badDoorbell 1 } }) ∧
    (mine → (s.ring r).rstate ≠ .free → (s.ring r).ld = ld.val →
      ((s.ring r).kind = .submission → (x + 2 ^ 32 - (s.ring r).head) % 2 ^ 32 ≤ 2 ^ (s.ring r).log2 →
        exec (.doorbell ld v) s = .next (s.updRing r (fun g => { g with tail := x }))) ∧
      ((s.ring r).kind ≠ .submission → (x + 2 ^ 32 - (s.ring r).head) % 2 ^ 32 ≤ (s.ring r).used →
        exec (.doorbell ld v) s = .next ((s.updRing r (fun g => { g with head := x })).ringMoved r)) ∧
      ((if (s.ring r).kind = .submission then 2 ^ (s.ring r).log2 else (s.ring r).used) < (x + 2 ^ 32 - (s.ring r).head) % 2 ^ 32 →
        exec (.doorbell ld v) s = .next (s.haltRing r 3)))) ∧
  (∀ (s : State) (r cause : Nat), ((s.ring r).rstate = .halted → s.haltRing r cause = s) ∧
    ((s.ring r).rstate ≠ .halted → ∀ u,
      ({ s.updRing r (fun g => { g with rstate := .halted, was := g.rstate }) with
         ringRegs := if s.ringRegs.haltValid then s.ringRegs else { s.ringRegs with haltValid := true, haltCause := cause, haltRing := r } }) = u →
      s.haltRing r cause = u.eventTo (match Tbl.find? s.cfg.eventRing (s.ring r).ld with
        | some e => if e = r then s.cfg.dev.adminLd else (s.ring r).ld
        | none => s.cfg.dev.adminLd) (eventRaw 0x0B 0xFFFF r 0 cause 0))) ∧
  (∀ (s : State) (r : Nat), s.ringMoved r = (((s.updRing r (fun g =>
    if g.rstate = .draining ∧ g.head = g.tail ∧ g.resv = 0 then { g with rstate := .active, bind := 0 } else g)).flushDue r).reportLost r)) ∧
  (∀ (s : State) (ring : BitVec 18) (d : Nat), s.rd (0x10012000000 + 64 * ring.toNat) 64 = d →
    (s.live = false → exec (.ringLoad ring) s = .next s) ∧
    (s.live = true → crcOk d 64 = false → exec (.ringLoad ring) s =
      .next { s.haltRing ring.toNat 2 with ringRegs := { (s.haltRing ring.toNat 2).ringRegs with cmdReject := true } }) ∧
    (s.live = true → crcOk d 64 = true →
      (kindOf (fld d 0 1) = none ∨ (∃ k, kindOf (fld d 0 1) = some k ∧ (ringDescOk d k = false ∨
        (s.ring ring.toNat).rstate = .free ∧ rstateOf (fld d 1 1) = .free))) →
      exec (.ringLoad ring) s = .next { s with ringRegs := { s.ringRegs with cmdReject := true } }) ∧
    (∀ k, s.live = true → crcOk d 64 = true → kindOf (fld d 0 1) = some k → ringDescOk d k = true →
      ((s.ring ring.toNat).rstate ≠ .free ∨ rstateOf (fld d 1 1) ≠ .free) → exec (.ringLoad ring) s =
      .next { s.updRing ring.toNat (fun g => g.loaded d k) with ringRegs := { s.ringRegs with cmdDone := true } })) ∧
  (∀ (s : State) (ring : BitVec 18), let r := ring.toNat
    (s.live = false → exec (.ringCmdResume ring) s = .next s ∧ exec (.ringDisable ring) s = .next s ∧ exec .ringCntClr s = .next s) ∧
    (s.live = true → (s.ring r).rstate ≠ .halted → exec (.ringCmdResume ring) s =
      .next { s with ringRegs := { s.ringRegs with cmdReject := true } }) ∧
    (∀ u, s.live = true → (s.ring r).rstate = .halted → (s.updRing r (fun g => { g with rstate := g.was })).ringMoved r = u →
      exec (.ringCmdResume ring) s = .next { u with ringRegs := { u.ringRegs with cmdDone := true } }) ∧
    (s.live = true → (s.ring r).rstate = .free → exec (.ringDisable ring) s = .next { s with ringRegs := { s.ringRegs with cmdReject := true } }) ∧
    (s.live = true → (s.ring r).rstate ≠ .free → exec (.ringDisable ring) s =
      .next { s.updRing r (fun g => { g with disabled := true }) with ringRegs := { s.ringRegs with cmdDone := true } }) ∧
    (s.live = true → exec .ringCntClr s = .next { s with ringRegs :=
      { s.ringRegs with subTaken := 0, cplPosted := 0, tokens := 0, eventsLost := 0, badDoorbell := 0, cplStalls := 0 } })) ∧
  (∀ (s : State) (ring : BitVec 18), let g := s.ring ring.toNat
    let due := s.live = true ∧ g.unannounced = true ∧ g.irq = true ∧ ∀ x, g.lastIrq = some x → x + 100 * g.coalesceUs ≤ s.ltu
    (due → exec (.ringCoalesceTimer ring) s =
      .next ((s.updRing ring.toNat (fun g => { g with unannounced := false, lastIrq := some s.ltu })).msix g.ld g.vector)) ∧
    (¬ due → exec (.ringCoalesceTimer ring) s = .next s)) ∧
  (∀ (s : State) (ld vec : Nat),
    (∀ e, Tbl.find? (s.ld ld).msix vec = some e → e.testBit 96 = false →
      s.msix ld vec = s.hostPut ld (bits e 0 64) (toBytes 4 (bits e 64 32))) ∧
    ((∀ e, Tbl.find? (s.ld ld).msix vec = some e → e.testBit 96 = true) →
      s.msix ld vec = s.updLd ld (fun l => { l with pba := if l.pba.contains vec then l.pba else vec :: l.pba }))) ∧
  (∀ (s : State) (ring : Nat) (host : Option (BitVec 1024)), let g := s.ring ring
    let at_ := g.head % 2 ^ g.log2
    let entry := s.rd (0x10800000000 + g.base + 128 * at_) 128
    let asks := s.live = true ∧ s.devState = .ready ∧ s.submits ring = true
    let served := s.ringServed ring
    let fetched := { served with cxl := { s.cxl with cacheReads := satAdd 32 s.cxl.cacheReads 1 } }
    (¬ asks → exec (.ringEntryTake ring host) s = .next s) ∧
    (asks → s.cplFull ring = true → exec (.ringEntryTake ring host) s =
      .next { s with ringRegs := { s.ringRegs with cplStalls := satAdd 8 s.ringRegs.cplStalls 1 } }) ∧
    (asks → s.cplFull ring = false → s.ringTurn ring = false → exec (.ringEntryTake ring host) s = .next s) ∧
    (asks → s.cplFull ring = false → s.ringTurn ring = true →
      (g.window = true → exec (.ringEntryTake ring host) s =
        .next (if crcOk entry 128 then served.takeSub ring entry else served.haltRing ring 1)) ∧
      (g.window = false → s.cxl.state ≠ 2 → exec (.ringEntryTake ring host) s = .next (served.haltRing ring 4)) ∧
      (g.window = false → s.cxl.state = 2 → host = none → exec (.ringEntryTake ring host) s = .next (fetched.haltRing ring 4)) ∧
      (∀ e, g.window = false → s.cxl.state = 2 → host = some e → exec (.ringEntryTake ring host) s =
        .next (if crcOk e.toNat 128 then fetched.takeSub ring e.toNat else fetched.haltRing ring 1)))) ∧
  (∀ (s : State) (r : Nat), s.ringServed r =
    { s with ringRegs := { s.ringRegs with turn := if s.ringRegs.turn.contains r then [r] else r :: s.ringRegs.turn } }) ∧
  (∀ (s u : State) (r e : Nat), { s.updRing r (fun g => { g with head := (g.head + 1) % 2 ^ 32 }) with
      ringRegs := { s.ringRegs with subTaken := satAdd 32 s.ringRegs.subTaken 1 } } = u →
    (seOp e = 1 → s.takeSub r e = u.admitNew r e) ∧ (seOp e = 2 → s.takeSub r e = u.parkOp r e) ∧
    (seOp e = 3 → s.takeSub r e = u.resumeOp r e) ∧ (seOp e = 4 → s.takeSub r e = u.cancelOp r e) ∧
    (seOp e = 5 → s.takeSub r e = u.redirectOp r e) ∧
    (seOp e = 0 ∨ 5 < seOp e → s.takeSub r e = Claims.ends (u.updRing r (fun g => { g with taken := g.taken + 1 })) r e (seOp e) Stat.invalidField))

/-- The work of a step boundary, in its order (R380, R381, R465). -/
def Claims.stepWork (s : State) (n : Nat) : State :=
  (((((((s.boundaryVersion n).swing n).boundaryChanges.ckptBoundary n).applyPlans.powerCap).boundaryDeadlines.retryOpens).compose n).graftPump).writeTables

/-- Every member of a group is COMMITTING (R115). -/
def Claims.committing (s : State) (g : Nat) : Prop :=
  s.live = true ∧ (s.group g).open_ = true ∧ (s.group g).members ≠ [] ∧ ∀ m ∈ (s.group g).members, (s.tag m).st = .committing

/-- Steps, groups and kills (R33 to R38, R111, R112, R115 to R117, R378 to R396, R434, R461 to R464): the boundary's work in its order;
a group commits when all its members are COMMITTING, publishing nothing unless all its publications check, and performing its
deferred operations once the channels they reach serve memory; a kill takes one group at a time and its members one by one; a
replayed group runs again on fresh tiles; what firmware clears, sweeps and counts. -/
def Obligations.StepsAndGroups : Prop :=
  (∀ (s : State), let due := s.live = true ∧ s.devState = .ready ∧ s.reqRegs.inFlight.length < s.cfg.dev.stepsInFlight
    (due → exec .stepBoundary s = .next (Claims.stepWork s (s.reqRegs.step + 1))) ∧ (¬ due → exec .stepBoundary s = .next s)) ∧
  (∀ (s : State), let due := s.live = true ∧ s.devState = .ready ∧ s.reqRegs.inFlight = [] ∧ s.ltu % 100000 = 0
    (due → exec .idleBoundary s = .next ((s.boundaryVersion s.reqRegs.step).applyPlans.powerCap.writeTables)) ∧
    (¬ due → exec .idleBoundary s = .next s)) ∧
  (∀ (s : State) (g : Fin 1024), ¬ Claims.committing s g.val → exec (.commit g) s = .next s) ∧
  (∀ (s : State) (g : Fin 1024) (c : CommitCopy), Claims.committing s g.val → (s.group g.val).copy = some c →
    exec (.commit g) s = .next (if s.deferredOpen c.defs then s.commitRest g.val c else s)) ∧
  (∀ (s : State) (g : Fin 1024), Claims.committing s g.val → (s.group g.val).copy = none →
    let ok := ∀ e ∈ s.groupPubs g.val, s.pubOk (s.group g.val) e = true
    let shadow := ∃ m ∈ (s.group g.val).members, cdShadow (s.tag m).desc = true
    (¬ ok → exec (.commit g) s = .next (s.failAll g.val Stat.publishInvalid)) ∧
    (ok → shadow → exec (.commit g) s = .next (((s.releaseMembers g.val).markCommitted g.val true).finishGroup g.val)) ∧
    (ok → ¬ shadow → ∀ c v, ({ defs := s.groupDeferred g.val, pubs := s.groupPubs g.val, lps := s.groupLps g.val, missed := s.groupMissed (s.group g.val) } : CommitCopy) = c →
      ((((s.journalRec .commit g.val c.defs.length [] c.pubs c.defs).flushJournal).slowAdd (s.group g.val)).releaseMembers g.val).updGroup g.val (fun x => { x with copy := some c }) = v →
      exec (.commit g) s = .next (if v.deferredOpen c.defs then v.commitRest g.val c else v))) ∧
  (∀ (s p q u : State) (g : Nat) (c : CommitCopy) (lost : List (Nat × Nat × Nat)) (over_ : List (Nat × Nat)),
    (s.updGroup g (fun x => { x with copy := none })).performAll (s.group g).tenant c.defs = (p, lost) →
    (lost.foldl (fun (s : State) l => s.devEvent 0x45 l.1 l.2.1 l.2.2) p).publishAll (s.group g) c.missed c.pubs c.lps [] = (q, over_) →
    (s.group g).works.foldl (fun (x : State) w => (x.workDone (s.group g) (c.missed ++ over_.map (·.1)) w).writeReq w.req) q = u →
    ∀ v, (({ u with reqRegs := { u.reqRegs with commits := satAdd 32 u.reqRegs.commits 1 } }).markCommitted g false).finishGroup g = v →
      s.commitRest g c = ((c.missed.foldl (fun (s : State) i => s.endRequest i Stat.deadlineMissed)
        (over_.foldl (fun (s : State) e => s.endRequest e.1 e.2) v)).graftPump) ∧
      (v.group g).open_ = false ∧ (v.group g).status = Stat.ok) ∧
  (∀ (s : State) (g : Nat), ((s.finishGroup g).group g).open_ = false ∧ ((s.finishGroup g).group g).status = Stat.ok) ∧
  (∀ (s : State) (tag : Fin 1024), let x := s.tag tag.val
    let may := s.reqRegs.killBusy = none ∧ x.live = true ∧ x.st ≠ .committing ∧ (s.group x.group).open_ = true
    (s.live = false → exec (.killCmd tag) s = .next s) ∧
    (s.live = true → ¬ may → exec (.killCmd tag) s = .next { s with reqRegs := { s.reqRegs with killReject := true } }) ∧
    (s.live = true → may → exec (.killCmd tag) s =
      .next { s with reqRegs := { s.reqRegs with killBusy := some (x.group, s.preemptible x.group) } })) ∧
  (∀ (s : State) (tag : Fin 1024),
    (s.live = false ∨ s.reqRegs.killBusy = none → exec (.commandKill tag) s = .next s) ∧
    (∀ g pre, s.live = true → s.reqRegs.killBusy = some (g, pre) → tag.val ∉ (s.group g).members → exec (.commandKill tag) s = .next s) ∧
    (∀ g pre u, s.live = true → s.reqRegs.killBusy = some (g, pre) → tag.val ∈ (s.group g).members →
      (if (s.tag tag.val).live then s.killMember tag.val pre else s) = u →
      exec (.commandKill tag) s = .next (if u.liveMembers g = [] then u.killDone g pre else u))) ∧
  (∀ (s t : State) (m : Nat), (s.tag m).st = .queued → s.stopMember m false Stat.killed = t →
    s.killMember m false = t ∧ t.tag m = { s.tag m with st := .killed, status := Stat.killed } ∧
    (t.tile (s.tag m).tile).queue = (s.tile (s.tag m).tile).queue.filter (fun d => cdTag d ≠ m) ∧
    t = { s with tiles := t.tiles, tags := t.tags, acct := t.acct }) ∧
  (∀ (s u : State) (g : Nat) (pre : Bool), { s with reqRegs := { s.reqRegs with killBusy := none, killDone := true } } = u →
    ((s.group g).open_ = false → s.killDone g pre = u) ∧
    ((s.group g).open_ = true → s.killDone g pre =
      { (u.markRerun g).updGroup g (fun x => { x with status := Stat.killed, preempts := if pre then x.preempts + 1 else x.preempts }) with
        reqRegs := { u.reqRegs with kills := satAdd 16 s.reqRegs.kills 1, preempts := if pre then satAdd 16 s.reqRegs.preempts 1 else s.reqRegs.preempts } }) ∧
    (∀ m ∈ (s.group g).members, ((s.markRerun g).tag m).rerun = true)) ∧
  (∀ (s : State) (g : Fin 1024), let x := s.group g.val
    let due := s.live = true ∧ x.open_ = true ∧ x.members ≠ [] ∧ x.replayed = false ∧ s.groupFenced g.val = true ∧
      ∀ m ∈ x.members, (s.tag m).st ≠ .committing
    (¬ due → exec (.groupReplay g) s = .next s) ∧
    (∀ u, due → (if s.liveMembers g.val = [] then s else s.stopGroup g.val none Stat.killed) = u → exec (.groupReplay g) s =
      .next (((u.markRerun g.val).updGroup g.val (fun y => { y with replayed := true })).devEvent 0x44 g.val x.step x.members.length))) ∧
  (∀ (s : State) (g : Fin 1024) (tiles : List (Fin 48)), let x := s.group g.val
    let pairs := List.zip x.members (tiles.map (·.val))
    let may := s.live = true ∧ x.open_ = true ∧ x.members ≠ [] ∧ tiles.length = x.members.length ∧
      (tiles.map (·.val)).eraseDups.length = tiles.length ∧
      (∀ m ∈ x.members, (s.tag m).held = true ∧ (s.tag m).rerun = true ∧ (s.tag m).drain = 0) ∧
      (∀ e ∈ pairs, s.canTake x.slot (s.tag e.1).tile e.2 = true)
    (¬ may → exec (.rerunDelivery g tiles) s = .next s) ∧
    (may → exec (.rerunDelivery g tiles) s = .next (pairs.foldl (fun (u : State) e =>
      (u.updTag e.1 (fun y => { y with tile := e.2, desc := retile (u.tag e.1).desc e.2, st := .queued, rerun := false, status := 0 })).queueAhead e.2 (retile (u.tag e.1).desc e.2) (s.groupPrio g.val))
      (((s.updGroup g.val (fun x => { x with replayed := false, status := 0 })).journalRec .dispatch g.val x.planPos (pairs.map (fun e => retile (s.tag e.1).desc e.2)) [] []).flushJournal)))) ∧
  (∀ (s : State) (tag : Fin 1024), (s.live = true → (s.tag tag.val).posted = true →
      exec (.tileCompletion tag) s = .next (s.updTag tag.val (fun x => { x with posted := false }))) ∧
    (s.live = false ∨ (s.tag tag.val).posted = false → exec (.tileCompletion tag) s = .next s)) ∧
  (∀ (s : State) (step : Nat), let over_ := s.live = true ∧ step ∈ s.reqRegs.inFlight ∧ ∀ e ∈ s.groups, e.2.step = step →
      e.2.open_ = false ∧ ∀ m ∈ e.2.members, ¬ ((s.tag m).group = e.1 ∧ (s.tag m).posted = true)
    (over_ → exec (.stepEnd step) s = .next { s with reqRegs := { s.reqRegs with inFlight := s.reqRegs.inFlight.filter (· ≠ step) } }) ∧
    (¬ over_ → exec (.stepEnd step) s = .next s)) ∧
  (∀ (s : State), (s.live = true →
    exec .reqCntClr s = .next { s with reqRegs := { s.reqRegs with admitted := 0, ended := 0, commits := 0, kills := 0, preempts := 0, late := 0, missed := 0 } }) ∧
    (s.live = false → exec .reqCntClr s = .next s)) ∧
  (∀ (s : State) (tag : Fin 1024), (s.live = true → exec (.tagDrainWrite tag) s = .next { s with reqRegs := { s.reqRegs with drainTag := tag.val } }) ∧
    (s.live = false → exec (.tagDrainWrite tag) s = .next s)) ∧
  (∀ (s : State) (tn : BitVec 16), (s.live = true → s.tenantActive tn.toNat = true → exec (.acctRewrite tn) s = .next (s.rewriteAcct tn.toNat)) ∧
    (s.live = false ∨ s.tenantActive tn.toNat = false → exec (.acctRewrite tn) s = .next s)) ∧
  (∀ (s t : State) (tn : Nat) (a : Acct), s.rewriteAcct tn = t →
    { s.acctOf tn with seq := ((s.acctOf tn).seq + 1) % 2 ^ 32, energy := wrap64 ((s.acctOf tn).energy + (Config.energyEst s.fresh).toNat) } = a →
    t.acctOf tn = { a with record := a.enc tn } ∧ (∀ k, k ≠ tn → t.acctOf k = s.acctOf k) ∧
    t.mem = memPut memKey s.mem (0x10015000000 + 1024 * tn) (toBytes 1024 (a.enc tn)) ∧
    t = { s with fresh := s.fresh + 1, acct := t.acct, mem := t.mem }) ∧
  (∀ (s : State), (s.live = false ∨ s.ltu < s.reqRegs.slowStart + 10000000 → exec .slowdownPeriod s = .next s) ∧
    (∀ u, s.live = true → s.reqRegs.slowStart + 10000000 ≤ s.ltu →
      (Tbl.keys s.acct).foldl (fun (x : State) tn => (x.judgeTenant tn s.reqRegs.slowPeriod).rewriteAcct tn) s = u →
      exec .slowdownPeriod s = .next { u with reqRegs := { u.reqRegs with slowPeriod := s.reqRegs.slowPeriod + 1, slowStart := u.reqRegs.slowStart + 10000000 } })) ∧
  (∀ (s : State) (tn n : Nat), let a := s.acctOf tn
    let d := s.cfg.dev
    let r := slowRatio a.curAct a.curEst
    let clear := fun (a : Acct) => { a with slowAct := a.curAct, slowEst := a.curEst, curAct := 0, curEst := 0, curCmds := 0 }
    (a.curEst = 0 ∨ a.curEst < d.slowMinAclk → s.judgeTenant tn n = s.updAcct tn clear) ∧
    (a.curEst ≠ 0 → d.slowMinAclk ≤ a.curEst → ∀ u,
      s.updAcct tn (fun a => clear { a with slowRatio := r, slow := (a.slow || decide (d.slowThreshold ≤ r)) && !(decide (r < d.slowClear) && a.slow), slowPeriods := if d.slowThreshold ≤ r then (a.slowPeriods + 1) % 2 ^ 32 else a.slowPeriods }) = u →
      (d.slowThreshold ≤ r → a.slow = false → s.judgeTenant tn n = u.tenantEvent tn 0x09 r 0 n a.curCmds) ∧
      (r < d.slowClear → a.slow = true → s.judgeTenant tn n = u.tenantEvent tn 0x0A r 0 n a.curCmds) ∧
      (¬ (d.slowThreshold ≤ r ∧ a.slow = false) → ¬ (r < d.slowClear ∧ a.slow = true) → s.judgeTenant tn n = u)))

/-- An access of a master to the register space (R13, R71 to R76, R81, R82, R541): one that R82 refuses is dropped, counted at the
master's site and, for a tile, fails its command; any other writes the register of the unit that owns the address; a host reaches
its own LD's page, mailbox buffers and nothing else; a counter's clearing bit acts as its own command does. -/
def Obligations.RegisterAccesses : Prop :=
  (∀ (s : State) (addr size : Nat) (v : BitVec 64) (m : Master), (∀ l, m ≠ .hostIo l) →
    (s.live = false ∨ regionOf addr ≠ .regs → exec (.registerAccess m addr size v) s = .next s) ∧
    (s.live = true → regionOf addr = .regs →
      (regStatus m addr size = Stat.ok → exec (.registerAccess m addr size v) s = .next (s.regWrite addr (regLanes addr size v.toNat))) ∧
      (regStatus m addr size ≠ Stat.ok →
        (∀ t, m = .tile t → exec (.registerAccess m addr size v) s =
          .next ((s.violate (dieOfTile t)).failCmd t (regStatus m addr size))) ∧
        ((∀ t, m ≠ .tile t) → exec (.registerAccess m addr size v) s =
          .next (s.violate (if Machine.Master.site m < 5 then Machine.Master.site m else 4)))))) ∧
  (∀ (m : Master) (addr size : Nat), regStatus m addr size = Claims.firstFailing
    [(decide (m ≠ .control ∨ (size ≠ 4 ∧ size ≠ 8) ∨ addr % size ≠ 0), Stat.accessDenied), (!(regMapped addr), Stat.addrUnmapped),
     (decide (16 ≤ regSite addr), Stat.accessDenied)]) ∧
  (∀ (s : State) (a : Nat) (w : RegW), let off := regOff a / 8 * 8
    (regBlock a = 0 → s.regWrite a w = s.dieWrite (regSite a) off w) ∧
    (regBlock a ≠ 0 → (regSite a < 4 → s.regWrite a w = s.cdWrite (regSite a) (regBlock a) off w) ∧
      (regSite a = 4 → s.regWrite a w = s.hdWrite (regBlock a) off w) ∧ (regSite a = 5 → s.regWrite a w = s.ldWrite 0 (regBlock a) off w) ∧
      (regSite a = 6 → s.regWrite a w = s.ldWrite 1 (regBlock a) off w) ∧
      (7 ≤ regSite a → s.regWrite a w = s.bauWrite (16 * (regSite a - 8) + (regBlock a - 0x10)) off w))) ∧
  (∀ (s : State) (c : Instr) (addr : Nat) (v : BitVec 64), s.live = true → v.toNat.testBit 0 = true →
    (c, addr) ∈ [(.cxlCntClr, 0x30002018220), (.graftCntClr, 0x30002020020), (.ftlCntClr, 0x30002050020), (.sbwCntClr, 0x30002060018),
      (.fclCntClr, 0x30002040040)] →
    exec (.registerAccess .control addr 4 v) s = exec c s) ∧
  (∀ (s : State) (l addr size : Nat) (v : BitVec 64),
    (s.boot.good = false ∨ s.boot.released = false ∨ 16 ≤ l → exec (.registerAccess (.hostIo l) addr size v) s = .next s) ∧
    (∀ h : l < 16, s.boot.good = true → s.boot.released = true →
      (addr < 0x10000 → (size = 4 ∨ size = 8) → addr % size = 0 → exec (.registerAccess (.hostIo l) addr size v) s =
        .next (s.pageWrite ⟨l, h⟩ (addr / 8 * 8) (regLanes addr size v.toNat))) ∧
      (addr < 0x10000 → (size ≠ 4 ∧ size ≠ 8 ∨ addr % size ≠ 0) → exec (.registerAccess (.hostIo l) addr size v) s = .next (s.violate 4)) ∧
      (0x10000 ≤ addr → addr < 0x19000 → addr % 0x1000 + size ≤ 0x1000 → size ≤ 8 → exec (.registerAccess (.hostIo l) addr size v) s =
        .next (s.wr (0x28000400000 + 0x10000 * l + (addr - 0x10000)) size v.toNat)) ∧
      (0x10000 ≤ addr → (0x19000 ≤ addr ∨ 0x1000 < addr % 0x1000 + size ∨ 8 < size) →
        exec (.registerAccess (.hostIo l) addr size v) s = .next s)))

/-- Mailbox `mb` of state `u` has been answered (R418, R438): the reply lies over the request in the mailbox's buffer, BUSY is
clear and DONE set, and an LD's MSI-X message is sent where MB_VECTOR enables it; the reply of a message whose LD was unbound
meanwhile is discarded. Nothing else has changed. -/
def Claims.replied (u t : State) (mb : MbId) (status detail : Nat) (payload : List Byte) : Prop :=
  ((u.mbox mb).abandoned = true → t = u.updMb mb (fun x => { x with busy := false, abandoned := false, msg := 0, waits := false })) ∧
  ((u.mbox mb).abandoned = false → ∀ v : State, v = (u.wrBytes (mbAddr mb) (u.message (msgOp (u.mbox mb).msg) status 1 (msgTag (u.mbox mb).msg) detail payload)).updMb mb
      (fun x => { x with busy := false, done := true, msg := 0, waits := false }) →
    (mb = .fabric → t = v) ∧
    (∀ l m, mb = .ld l m → (u.ld l.val).mbVecEn = true → t = v.msix l.val (u.ld l.val).mbVec) ∧
    (∀ l m, mb = .ld l m → (u.ld l.val).mbVecEn = false → t = v)) ∧
  t = { u with mem := t.mem, lds := t.lds, fabricMb := t.fabricMb, hostMem := t.hostMem } ∧
  t.mem = (if (u.mbox mb).abandoned then u.mem
    else memPut memKey u.mem (mbAddr mb) (u.message (msgOp (u.mbox mb).msg) status 1 (msgTag (u.mbox mb).msg) detail payload)) ∧
  t.mbox mb = { u.mbox mb with busy := false, msg := 0, waits := false, abandoned := false, done := (u.mbox mb).done || !(u.mbox mb).abandoned } ∧
  ∀ k, k ≠ mb → t.mbox k = u.mbox k

/-- The Rinix Mailbox Protocol (R405, R406, R416 to R424): GO queues a message, is rejected, or reaches no mailbox; the service
takes the next message and checks it, and answers a bad one at once; a query replies with what its opcode names and changes
nothing else. First, what a reply is and what a change of one mailbox leaves alone. -/
def Obligations.MailboxQueries : Prop :=
  (∀ (u : State) (mb : MbId) (st d : Nat) (payload : List Byte), Claims.replied u (u.reply mb st d payload) mb st d payload) ∧
  (∀ (s : State) (mb : MbId) (f : Mailbox → Mailbox), (s.updMb mb f).mbox mb = f (s.mbox mb) ∧ (∀ k, k ≠ mb → (s.updMb mb f).mbox k = s.mbox k) ∧
    s.updMb mb f = { s with lds := (s.updMb mb f).lds, fabricMb := (s.updMb mb f).fabricMb }) ∧
  (∀ (s : State) (l : Fin 16) (m : Fin 9), s.boot.good = true → s.boot.released = true → s.presents l.val = true →
    (((s.mbox (.ld l m)).busy = true ∨ (s.mbox (.ld l m)).done = true ∨ (s.devState ≠ .ready ∧ s.devState ≠ .recovery) ∨ (s.ld l.val).bound = false) →
      exec (.mbGo (.ld l m)) s = .next (s.updMb (.ld l m) (fun x => { x with reject := true }))) ∧
    ((s.mbox (.ld l m)).busy = false → (s.mbox (.ld l m)).done = false → (s.devState = .ready ∨ s.devState = .recovery) → (s.ld l.val).bound = true →
      exec (.mbGo (.ld l m)) s = .next (s.updMb (.ld l m) (fun x => { x with go := true })))) ∧
  (∀ (s : State) (l : Fin 16) (m : Fin 9), s.boot.good = false ∨ s.boot.released = false ∨ s.presents l.val = false →
    exec (.mbGo (.ld l m)) s = .next s) ∧
  (∀ s : State, exec (.mbGo .fabric) s = .next s) ∧
  (∀ s : State, s.live = false ∨ s.nextMb = none → exec .messageTake s = .next s) ∧
  (∀ (s u : State) (mb : MbId) (st d : Nat), s.live = true → s.nextMb = some mb →
    u = ({ s with mbTurn := (match mb with | .ld l m => if m = 0 then s.mbTurn else 8 * l.val + m.val - 1 | .fabric => s.mbTurn) } : State).updMb mb
      (fun x => { x with go := false, busy := true, msg := ofBytes (s.readMsg mb) }) →
    u.msgCheck mb (s.readMsg mb) = (st, d) →
    (st = Stat.ok → exec .messageTake s = .next u) ∧ (st ≠ Stat.ok → exec .messageTake s = .next (u.reply mb st d []))) ∧
  (∀ (s : State) (mb : MbId) (m : Nat) (c : Instr) (op : Nat) (payload : List Byte), s.held mb op = some m →
    (c, op, payload) ∈ [
      (.rmpIdentify mb, 0x0001, s.identity), (.rmpAcctRead mb, 0x0501, toBytes 1024 (s.acctOf (fld m 0x20 2)).record),
      (.rmpSecQuery mb, 0x0701, packFields ([(1, s.sec.otp.lc), (1, s.sec.bootSlot), (1, s.sec.otp.firstSvn), (1, s.sec.otp.mainSvn), (4, 0), (16, s.sec.nonce)] ++
        (List.range 4).map (fun k => (32, Tbl.getD s.sec.mr k 0)))),
      (.rmpPowerQuery mb, 0x0901, packFields ([(4, s.pwr.pcap), (4, s.pwr.avg1s), (4, s.pwr.avg1ms), (1, s.pwr.cause), (3, 0)] ++
        (List.range 32).map (fun k => (1, ofInt 8 (s.therm k).temp)))),
      (.rmpAgeReport mb, 0x0905, (List.range 48).flatMap s.ageOf),
      (.rmpFaultRead mb, 0x0801, toBytes 128 s.fcl.sticky.toNat ++ toBytes 128 s.fcl.wire.toNat ++
        packFields ((rangeFrom (fld m 0x20 2) (fld m 0x22 2)).map (fun k => (4, Tbl.getD s.fcl.cnt k 0))))] →
    exec c s = .next (s.reply mb Stat.ok 0 payload)) ∧
  (∀ (s : State) (mb : MbId) (m : Nat), s.held mb 0x0304 = some m →
    (s.ownRing mb (fld m 0x20 4) = true → exec (.rmpRingQuery mb) s = .next (s.reply mb Stat.ok 0 (toBytes 64 (s.ring (fld m 0x20 4)).desc))) ∧
    (s.ownRing mb (fld m 0x20 4) = false → exec (.rmpRingQuery mb) s = .next (s.reply mb Stat.invalidField 0x20 []))) ∧
  (∀ (s : State) (mb : MbId) (m : Nat), s.held mb 0x0502 = some m →
    (∀ i, s.reqBy (fld m 0x20 8) (fld m 0x28 2) = some i → exec (.rmpReqQuery mb) s = .next (s.reply mb Stat.ok 0 (toBytes 256 (s.req i).enc))) ∧
    (s.reqBy (fld m 0x20 8) (fld m 0x28 2) = none → exec (.rmpReqQuery mb) s = .next (s.reply mb Stat.wrongState 0 []))) ∧
  (∀ (s : State) (mb : MbId) (m : Nat), s.held mb 0x0601 = some m →
    (regMapped (fld m 0x20 8) = true → exec (.rmpRegRead mb) s = .next (s.reply mb Stat.ok 0
      ((List.range (fld m 0x28 2)).flatMap (fun i => toBytes 8 ((s.readReg (fld m 0x20 8 + 8 * i)).getD 0))))) ∧
    (regMapped (fld m 0x20 8) = false → exec (.rmpRegRead mb) s = .next (s.reply mb Stat.addrUnmapped 0 []))) ∧
  (∀ (s : State) (mb : MbId) (m slot : Nat) (o : Option CfgImg), s.held mb 0x0104 = some m →
    (fld m 0x20 1 = 1 → o = s.cfg.current ∧ slot = s.cfg.slot) → (fld m 0x20 1 ≠ 1 → o = s.cfg.staged ∧ slot = s.cfg.nextSlot) →
    (o = none → exec (.rmpCfgRead mb) s = .next (s.reply mb Stat.versionStale 0 [])) ∧
    (∀ x, o = some x →
      (x.bytes.length ≤ fld m 0x24 4 → exec (.rmpCfgRead mb) s = .next (s.reply mb Stat.invalidField 0x24 [])) ∧
      (fld m 0x24 4 < x.bytes.length → x.bytes.length < fld m 0x24 4 + fld m 0x28 4 → exec (.rmpCfgRead mb) s = .next (s.reply mb Stat.invalidField 0x28 [])) ∧
      (fld m 0x24 4 < x.bytes.length → fld m 0x24 4 + fld m 0x28 4 ≤ x.bytes.length → exec (.rmpCfgRead mb) s =
        .next (({ s with mem := memPut memKey s.mem (hostWin (fld m 0x30 8)) (s.bytes (versionSlotAt slot + fld m 0x24 4) (fld m 0x28 4)) } : State).reply
          mb Stat.ok 0 [])))) ∧
  (∀ (s : State) (mb : MbId) (m : Nat), s.held mb 0x0305 = some m →
    (s.reqBy (fld m 0x20 8) (fld m 0x28 2) = none → exec (.rmpTokenFetch mb) s = .next (s.reply mb Stat.wrongState 0 [])) ∧
    (∀ i ts, s.reqBy (fld m 0x20 8) (fld m 0x28 2) = some i →
      (((s.req i).journal.drop (s.req i).promptLen).drop (fld m 0x2C 4)).take (fld m 0x30 4) = ts →
      exec (.rmpTokenFetch mb) s = .next (({ s with mem := memPut memKey s.mem (hostWin (fld m 0x38 8)) (packFields (ts.map (fun x => (4, x)))) } : State).reply
        mb Stat.ok 0 (toBytes 4 ts.length))))

/-- Configuration, rings and models by mailbox (R353, R363, R425 to R431, R339 to R341): what each opcode changes before its
reply, and the statuses that turn it down. First, what the ring and model tables' entries in memory become. -/
def Obligations.HostCommands : Prop :=
  (∀ (s : State) (k : Nat),
    s.writeRing k = { s with mem := memPut memKey s.mem (ringSlot k) (toBytes 64 (s.ring k).desc) } ∧
    s.writeSlot k = { s with mem := memPut memKey s.mem (0x10014400000 + 256 * k) (toBytes 256 (s.slot k).enc) } ∧
    s.freeRingNum k = { s with rings := (s.freeRingNum k).rings, mem := memPut memKey s.mem (ringSlot k) (toBytes 64 { s.ring k with rstate := .free }.desc) } ∧
    (s.freeRingNum k).ring k = {} ∧ (∀ j, j ≠ k → (s.freeRingNum k).ring j = s.ring j) ∧
    s.emptySlot k = { s with slots := Tbl.del s.slots k, mem := memPut memKey s.mem (0x10014400000 + 256 * k) (toBytes 256 (({} : Slot)).enc) } ∧
    (s.emptySlot k).slot k = {} ∧ (∀ j, j ≠ k → (s.emptySlot k).slot j = s.slot j)) ∧
  (∀ (s : State) (mb : MbId) (m : Nat) (img : List Byte), s.held mb 0x0101 = some m →
    s.bytes (hostWin (fld m 0x20 8)) (fld m 0x28 4) = img →
    (∀ d, s.stageStatus img (fld m 0x2C 2) (fld m 0x30 32) = (0, d) → exec (.rmpCfgStage mb) s =
      .next (({ s with mem := memPut memKey s.mem (versionSlotAt s.cfg.nextSlot) img, cfg := { s.cfg with staged := some { version := fld m 0x2C 2, bytes := img } } } : State).helloChanged.reply mb Stat.ok 0 [])) ∧
    (∀ st d, s.stageStatus img (fld m 0x2C 2) (fld m 0x30 32) = (st, d) → st ≠ 0 → exec (.rmpCfgStage mb) s = .next (s.reply mb st d []))) ∧
  (∀ (s : State) (mb : MbId) (m : Nat), s.held mb 0x0102 = some m →
    (s.isStaged (fld m 0x20 2) = false → exec (.rmpCfgCommit mb) s = .next (s.reply mb Stat.versionStale 0 [])) ∧
    (s.isStaged (fld m 0x20 2) = true → s.cfg.cond.isSome = true → exec (.rmpCfgCommit mb) s = .next (s.reply mb Stat.busy 0 [])) ∧
    (s.isStaged (fld m 0x20 2) = true → s.cfg.cond = none → exec (.rmpCfgCommit mb) s =
      .next (({ s with cfg := { s.cfg with cond := some (if fld m 0x22 1 = 1 then .step else .time (fld m 0x28 8)) } } : State).reply mb Stat.ok 0 []))) ∧
  (∀ (s : State) (mb : MbId) (m : Nat), s.held mb 0x0103 = some m →
    (s.isStaged (fld m 0x20 2) = false → exec (.rmpCfgDiscard mb) s = .next (s.reply mb Stat.versionStale 0 [])) ∧
    (s.isStaged (fld m 0x20 2) = true → exec (.rmpCfgDiscard mb) s =
      .next (({ s with cfg := { s.cfg with staged := none, cond := none } } : State).helloChanged.reply mb Stat.ok 0 []))) ∧
  (∀ (s : State) (l : Fin 16) (k : Fin 9) (m : Nat), s.held (.ld l k) 0x0301 = some m →
    (s.freeRing = none → exec (.rmpRingCreate (.ld l k)) s = .next (s.reply (.ld l k) Stat.noResource 0 [])) ∧
    (∀ r, s.freeRing = some r → exec (.rmpRingCreate (.ld l k)) s =
      .next ((({ s with rings := Tbl.put s.rings r (ringOf m l.val) } : State).writeRing r).reply (.ld l k) Stat.ok 0 (toBytes 4 r)))) ∧
  (∀ (s : State) (l : Fin 16) (k : Fin 9), s.held (.ld l k) 0x0301 = none → exec (.rmpRingCreate (.ld l k)) s = .next s) ∧
  (∀ s : State, exec (.rmpRingCreate .fabric) s = .next s) ∧
  (∀ (s : State) (mb : MbId) (m r : Nat), s.held mb 0x0302 = some m → fld m 0x20 4 = r →
    (s.ownRing mb r = false → exec (.rmpRingDestroy mb) s = .next (s.reply mb Stat.invalidField 0x20 [])) ∧
    (s.ownRing mb r = true → s.ringBusy r = true → exec (.rmpRingDestroy mb) s = .next (s.reply mb Stat.busy 0 [])) ∧
    (s.ownRing mb r = true → s.ringBusy r = false → (s.ring r).kind = .submission → exec (.rmpRingDestroy mb) s =
      .next ((s.updRing r (fun g => { g with disabled := true, destroying := true })).reply mb Stat.ok 0 [])) ∧
    (s.ownRing mb r = true → s.ringBusy r = false → (s.ring r).kind ≠ .submission → exec (.rmpRingDestroy mb) s =
      .next ((s.freeRingNum r).reply mb Stat.ok 0 []))) ∧
  (∀ (s : State) (ring : BitVec 18),
    (s.live = true → (s.ring ring.toNat).destroying = true → (s.ring ring.toNat).taken = 0 →
      (∀ e ∈ (s.ring (s.ring ring.toNat).bind).due, fld e 0x12 1 = 0) → exec (.submissionRingFreed ring) s = .next (s.freeRingNum ring.toNat)) ∧
    (s.live = false ∨ (s.ring ring.toNat).destroying = false ∨ (s.ring ring.toNat).taken ≠ 0 ∨
      (∃ e ∈ (s.ring (s.ring ring.toNat).bind).due, fld e 0x12 1 ≠ 0) → exec (.submissionRingFreed ring) s = .next s)) ∧
  (∀ (s : State) (mb : MbId) (m r h : Nat), s.held mb 0x0303 = some m → fld m 0x20 4 = r → fld m 0x24 4 = h →
    (s.ownRing mb r = false → exec (.rmpRingResume mb) s = .next (s.reply mb Stat.invalidField 0x20 [])) ∧
    (s.ownRing mb r = true → h ≠ 0xFFFFFFFF → ((s.ring r).kind ≠ .submission ∨ (s.ring r).used < (h + 2 ^ 32 - (s.ring r).head) % 2 ^ 32) →
      exec (.rmpRingResume mb) s = .next (s.reply mb Stat.invalidField 0x24 [])) ∧
    (s.ownRing mb r = true → (h = 0xFFFFFFFF ∨ ((s.ring r).kind = .submission ∧ (h + 2 ^ 32 - (s.ring r).head) % 2 ^ 32 ≤ (s.ring r).used)) →
      ((s.ring r).rstate ≠ .halted ∨ (s.ring r).destroying = true) → exec (.rmpRingResume mb) s = .next (s.reply mb Stat.wrongState 0 [])) ∧
    (s.ownRing mb r = true → (h = 0xFFFFFFFF ∨ ((s.ring r).kind = .submission ∧ (h + 2 ^ 32 - (s.ring r).head) % 2 ^ 32 ≤ (s.ring r).used)) →
      (s.ring r).rstate = .halted → (s.ring r).destroying = false → ∃ u : State, exec (.rmpRingResume mb) s = .next ((u.ringMoved r).reply mb Stat.ok 0 []) ∧
      u = { s with rings := u.rings } ∧ (∀ j, j ≠ r → u.ring j = s.ring j) ∧
      u.ring r = { s.ring r with head := if h = 0xFFFFFFFF then (s.ring r).head else h, rstate := (s.ring r).was })) ∧
  (∀ (s : State) (mb : MbId) (m k : Nat), s.held mb 0x0401 = some m → fld m 0x20 2 = k →
    ((s.slot k).st ≠ .empty → exec (.rmpModelLoad mb) s = .next (s.reply mb Stat.wrongState 0 [])) ∧
    ((s.slot k).st = .empty → 16 ≤ (s.slots.filter (fun e => e.2.st = .loading)).length →
      exec (.rmpModelLoad mb) s = .next (s.reply mb Stat.noResource 0 [])) ∧
    ((s.slot k).st = .empty → (s.slots.filter (fun e => e.2.st = .loading)).length < 16 → exec (.rmpModelLoad mb) s =
      .next ((({ s with slots := Tbl.put s.slots k { tenant := fld m 0x22 2, st := .loading, cfg := s.curVersion, object := (hostWin (fld m 0x28 8), fld m 0x24 4, fld m 0x30 32) } } : State).writeSlot k).reply mb Stat.ok 0 []))) ∧
  (∀ (s : State) (slot : Fin 16384), s.live = false ∨ (s.slot slot.val).st ≠ .loading → exec (.modelLoaded slot) s = .next s) ∧
  (∀ (s : State) (slot : Fin 16384) (m : Slot), s.live = true → s.slot slot.val = m → m.st = .loading →
    (∀ u, s.loadObject slot.val m.object.1 m.object.2.2 (s.bytes m.object.1 m.object.2.1) = (u, 0) →
      exec (.modelLoaded slot) s = .next ((u.writeSlot slot.val).tenantEvent m.tenant 0x83 slot.val 0 0 Stat.ok)) ∧
    (∀ u st, s.loadObject slot.val m.object.1 m.object.2.2 (s.bytes m.object.1 m.object.2.1) = (u, st) → st ≠ 0 →
      exec (.modelLoaded slot) s = .next ((u.emptySlot slot.val).tenantEvent m.tenant 0x83 slot.val 0 0 st))) ∧
  (∀ (s : State) (k addr digest : Nat) (o : List Byte),
    (shake256 o ≠ digest ∨ objCrcs o = false → s.loadObject k addr digest o = (s, Stat.checkFailed)) ∧
    (shake256 o = digest → objCrcs o = true → s.objFieldsOk o = false → s.loadObject k addr digest o = (s, Stat.invalidField)) ∧
    (shake256 o = digest → objCrcs o = true → s.objFieldsOk o = true →
      (s.placeObject k addr o = none → s.loadObject k addr digest o = (s, Stat.quotaExceeded)) ∧
      (∀ u, s.placeObject k addr o = some u → s.loadObject k addr digest o = (u.updSlot k (fun m => { m with st := .loaded }), Stat.ok)))) ∧
  (∀ (s : State) (mb : MbId) (m k : Nat), s.held mb 0x0402 = some m → fld m 0x20 2 = k →
    (((s.slot k).st ≠ .loaded ∨ s.slotWanted k = true) → exec (.rmpModelUnload mb) s = .next (s.reply mb Stat.wrongState 0 [])) ∧
    ((s.slot k).st = .loaded → s.slotWanted k = false → exec (.rmpModelUnload mb) s =
      .next (((s.updSlot k (fun x => { x with st := .unloading })).writeSlot k).reply mb Stat.ok 0 []))) ∧
  (∀ (s : State) (slot : Fin 16384), (s.live = false ∨ (s.slot slot.val).st ≠ .unloading ∨ s.slotNamed slot.val = true ∨ (∃ e ∈ (s.slot slot.val).pins, e.2 ≠ 0)) →
    exec (.modelUnloaded slot) s = .next s) ∧
  (∀ (s u : State) (slot : Fin 16384) (m : Slot), s.live = true → s.slot slot.val = m → m.st = .unloading → s.slotNamed slot.val = false →
    (∀ e ∈ m.pins, e.2 = 0) →
    u = State.emptySlot (m.pinned.foldl (fun v _ => v.credit m.tenant 0) (m.plots.foldl (fun v e => v.freeSlotPlot slot.val e.1) s)) slot.val →
    ((∃ e ∈ u.slots, e.2.tenant = m.tenant) → exec (.modelUnloaded slot) s = .next (u.tenantEvent m.tenant 0x84 slot.val 0 0 0)) ∧
    ((∀ e ∈ u.slots, e.2.tenant ≠ m.tenant) → exec (.modelUnloaded slot) s = .next ((u.rewriteAcct m.tenant).tenantEvent m.tenant 0x84 slot.val 0 0 0))) ∧
  (∀ (s : State) (k vpn : Nat),
    (Tbl.find? (s.slot k).plots vpn = none → s.freeSlotPlot k vpn = s) ∧
    (∀ p, Tbl.find? (s.slot k).plots vpn = some p → s.freeSlotPlot k vpn =
      ((s.setPage (s.tenant (s.slot k).tenant).asid vpn leafEmpty).updSlot k (fun m => { m with plots := Tbl.del m.plots vpn })).freePlace (s.slot k).tenant p))

/-- Firmware images, life cycle, power and timers by mailbox (R505 to R507, R531, R533, R482); and a row whose mailbox holds no
message of its opcode does nothing. -/
def Obligations.SystemCommands : Prop :=
  (∀ (s : State) (mb : MbId) (m st : Nat) (img : List Byte) (tell : State → State), s.held mb 0x0702 = some m →
    s.bytes (hostWin (fld m 0x20 8)) (fld m 0x28 4) = img → s.imageStatus img = st →
    tell = (fun u => u.devEvent 0xC0 (1 - s.activeSlot)
      (hdVersion (ofBytes ((img.drop 0x800000).take 256)) + hdSvn (ofBytes ((img.drop 0x800000).take 256)) * 2 ^ 32) st) →
    (st ≠ Stat.ok → exec (.rmpFwStage mb) s = .next ((tell s).reply mb st 0 [])) ∧
    (st = Stat.ok → exec (.rmpFwStage mb) s =
      .next ((tell { s with sec := { s.sec with qspi := memPut id s.sec.qspi (slotBase (1 - s.activeSlot)) img } }).reply mb Stat.ok 0 (toBytes 1 (1 - s.activeSlot))))) ∧
  (∀ (s : State) (mb : MbId) (m k : Nat), s.held mb 0x0703 = some m → fld m 0x20 1 = k →
    (s.slotStatus k ≠ Stat.ok → exec (.rmpFwActivate mb) s = .next (s.reply mb (s.slotStatus k) 0 [])) ∧
    (s.slotStatus k = Stat.ok → exec (.rmpFwActivate mb) s =
      .next ((State.devEvent { s with sec := { s.sec with qspi := memPut id s.sec.qspi bootSelect (toBytes 16 (withCrc (k + s.bootUnits * 256 + s.resetCount % 2 ^ 64 * 2 ^ 32) 16)) } } 0xC1 k 0 0).reply mb Stat.ok 0 []))) ∧
  (∀ (s : State) (mb : MbId) (m stage : Nat), s.held mb 0x0704 = some m → fld m 0x20 1 = stage →
    (fld m 0x21 1 = 0 → s.lowerSpare stage = true → exec (.rmpRollbackAdvance mb) s = .next (s.reply mb Stat.wrongState 0 [])) ∧
    ((fld m 0x21 1 ≠ 0 ∨ s.lowerSpare stage = false) → 63 ≤ s.sec.otp.svn stage →
      exec (.rmpRollbackAdvance mb) s = .next (s.reply mb Stat.noResource 0 [])) ∧
    ((fld m 0x21 1 ≠ 0 ∨ s.lowerSpare stage = false) → s.sec.otp.svn stage < 63 → ∀ u : State, u = s.burnSvn stage (s.sec.runSvn stage) →
      (u.sec.otp.svn stage = s.sec.otp.svn stage → exec (.rmpRollbackAdvance mb) s = .next (u.reply mb Stat.ok 0 (toBytes 1 (u.sec.otp.svn stage)))) ∧
      (u.sec.otp.svn stage ≠ s.sec.otp.svn stage → exec (.rmpRollbackAdvance mb) s =
        .next ((u.devEvent 0xC2 stage (u.sec.otp.svn stage) 0).reply mb Stat.ok 0 (toBytes 1 (u.sec.otp.svn stage)))))) ∧
  (∀ (s u : State) (stage v : Nat), u = s.burnSvn stage v → u = { s with sec := { s.sec with otp := u.sec.otp } } ∧
    u.sec.otp = { s.sec.otp with firstSvn := u.sec.otp.firstSvn, mainSvn := u.sec.otp.mainSvn } ∧
    u.sec.otp.svn stage = Nat.max (s.sec.otp.svn stage) v ∧ s.sec.otp.firstSvn ≤ u.sec.otp.firstSvn ∧ s.sec.otp.mainSvn ≤ u.sec.otp.mainSvn) ∧
  (∀ (s : State) (mb : MbId) (m st : Nat), s.held mb 0x0705 = some m →
    s.transitionStatus false (fld m 0x20 1) (BitVec.ofNat 1536 (fld m 0x28 192)) = st →
    ((s.liveReqs ≠ [] ∨ s.cfg.staged.isSome = true) → exec (.rmpLcTransition mb) s = .next (s.reply mb Stat.wrongState 0 [])) ∧
    (s.liveReqs = [] → s.cfg.staged = none → st ≠ Stat.ok → exec (.rmpLcTransition mb) s = .next (s.reply mb st 0 [])) ∧
    (s.liveReqs = [] → s.cfg.staged = none → st = Stat.ok → exec (.rmpLcTransition mb) s = .next ((s.reply mb Stat.ok 0 []).transition (fld m 0x20 1)))) ∧
  (∀ (s u : State) (k : Nat), u = { s with sec := { s.sec with otp := { s.sec.otp with lc := k, udsGone := s.sec.otp.udsGone || decide (k = 5) } } } →
    s.transition k = u.wipe.deviceReset 3 true) ∧
  (∀ (s : State) (mb : MbId) (m : Nat), s.held mb 0x0902 = some m →
    exec (.rmpPowerCap mb) s = .next (({ s with pwr := { s.pwr with pcap := fld m 0x20 4 } } : State).reply mb Stat.ok 0 [])) ∧
  (∀ (s : State) (l : Fin 16) (b : Fin 9) (m : Nat), s.held (.ld l b) 0x0903 = some m →
    (firstFrom (fun k => (s.cmp k).owner.isNone) 58 6 = none → exec (.rmpTimerAlloc (.ld l b)) s = .next (s.reply (.ld l b) Stat.noResource 0 [])) ∧
    (∀ k, firstFrom (fun k => (s.cmp k).owner.isNone) 58 6 = some k →
      (bit (fld m 0x2C 1) 1 = true → s.syncOutTaken k = true → exec (.rmpTimerAlloc (.ld l b)) s = .next (s.reply (.ld l b) Stat.noResource 0 [])) ∧
      ((bit (fld m 0x2C 1) 1 = false ∨ s.syncOutTaken k = false) → exec (.rmpTimerAlloc (.ld l b)) s =
        .next ((s.updCmp k (fun _ => { mtch := fld m 0x20 8, period := fld m 0x28 4, action := fld m 0x2C 1, enable := true, owner := some l.val })).reply
          (.ld l b) Stat.ok 0 (toBytes 1 k))))) ∧
  (∀ (s : State) (k : Nat) (x : Cmp), (s.updCmp k (fun _ => x)).cmp k = x ∧ (∀ j, j ≠ k → (s.updCmp k (fun _ => x)).cmp j = s.cmp j) ∧
    s.updCmp k (fun _ => x) = { s with pwr := { s.pwr with cmps := (s.updCmp k (fun _ => x)).pwr.cmps } }) ∧
  (∀ (s : State) (l : Fin 16) (b : Fin 9) (m k : Nat), s.held (.ld l b) 0x0904 = some m → fld m 0x20 1 = k →
    ((s.cmp k).owner ≠ some l.val → exec (.rmpTimerFree (.ld l b)) s = .next (s.reply (.ld l b) Stat.wrongState 0 [])) ∧
    ((s.cmp k).owner = some l.val → exec (.rmpTimerFree (.ld l b)) s = .next ((s.updCmp k (fun _ => {})).reply (.ld l b) Stat.ok 0 []))) ∧
  (∀ (s : State) (l : Fin 16) (b : Fin 9), (s.held (.ld l b) 0x0903 = none → exec (.rmpTimerAlloc (.ld l b)) s = .next s) ∧
    (s.held (.ld l b) 0x0904 = none → exec (.rmpTimerFree (.ld l b)) s = .next s)) ∧
  (∀ s : State, exec (.rmpTimerAlloc .fabric) s = .next s ∧ exec (.rmpTimerFree .fabric) s = .next s) ∧
  (∀ (s : State) (mb : MbId) (m : Nat), s.held mb 0x0906 = some m → exec (.rmpBootParamSet mb) s =
    .next (({ s with sec := { s.sec with qspi := memPut id s.sec.qspi bootSelect (toBytes 16 (withCrc (s.activeSlot + fld m 0x20 1 * 256 + s.resetCount % 2 ^ 64 * 2 ^ 32) 16)) } } : State).reply mb Stat.ok 0 [])) ∧
  (∀ (s : State) (mb : MbId) (c : Instr) (op : Nat), s.held mb op = none →
    (c, op) ∈ [(.rmpIdentify mb, 0x0001), (.rmpCfgStage mb, 0x0101), (.rmpCfgCommit mb, 0x0102), (.rmpCfgDiscard mb, 0x0103), (.rmpCfgRead mb, 0x0104),
      (.rmpRingDestroy mb, 0x0302), (.rmpRingResume mb, 0x0303), (.rmpRingQuery mb, 0x0304), (.rmpTokenFetch mb, 0x0305), (.rmpModelLoad mb, 0x0401),
      (.rmpModelUnload mb, 0x0402), (.rmpAcctRead mb, 0x0501), (.rmpReqQuery mb, 0x0502), (.rmpRegRead mb, 0x0601), (.rmpSecQuery mb, 0x0701),
      (.rmpFwStage mb, 0x0702), (.rmpFwActivate mb, 0x0703), (.rmpRollbackAdvance mb, 0x0704), (.rmpLcTransition mb, 0x0705), (.rmpFaultRead mb, 0x0801),
      (.rmpPowerQuery mb, 0x0901), (.rmpPowerCap mb, 0x0902), (.rmpAgeReport mb, 0x0905), (.rmpBootParamSet mb, 0x0906)] →
    exec c s = .next s)

/-- What LDs of `ls` lose at a Function Level Reset, after their rings and requests are gone in `u` (R407): their mailbox
registers are reset and the contents of their buffers undefined. No other LD, and no byte outside the buffers, changes. -/
def Claims.ldsReset (u t : State) (ls : List Nat) : Prop :=
  t = { u with lds := t.lds, mem := t.mem, fresh := u.fresh + 1 } ∧
  (∀ l ∈ ls, t.ld l = { u.ld l with mbs := [], mbVecEn := false, mbVec := 0 }) ∧ (∀ l, l ∉ ls → t.ld l = u.ld l) ∧
  ∀ a, (∀ l ∈ ls, ¬(0x28000400000 + 0x10000 * l ≤ memKey a ∧ memKey a < 0x28000400000 + 0x10000 * l + 0x9000)) → t.byte a = u.byte a

/-- What follows a map's adoption in `v` (R411 steps 3 to 5, R414, R415): the old epoch is dropped if nothing was opened under
it; GO on the unbound LDs is discarded; peers that left are dispositioned, then the LDs' rings and requests; the LDs whose host
changed are bound again; the reply is OK and MAP_ADOPTED is posted. -/
def Claims.afterAdoption (v : State) (mb : MbId) (m : Nat) (ls : List Nat) : State :=
  let quiet := ls.foldl (fun (s : State) l => s.updLd l (fun d => { d with bound := false })) (v.mapRetire.quietMbs ls)
  let gone := quiet.dropPeers.dropLds ls
  let back := ls.foldl (fun (s : State) l => s.updLd l (fun d => { d with bound := mapBound m l })) gone.1
  ((back.answer mb Stat.ok).devEvent 0x81 (fld m 0x20 2) gone.2.1 gone.2.2).graftPump

/-- The composition map (R410, R411, R414, R415, R422): when a map is turned down, what its adoption writes, when the old epoch
is dropped, and what the LDs and the peers that go lose. -/
def Obligations.CompositionMap : Prop :=
  (∀ (s : State) (mb : MbId) (m : Nat), s.held mb 0x0201 = some m → s.cmap.old.isSome = true →
    exec (.rmpMapSet mb) s = .next (s.reply mb Stat.busy 0 [])) ∧
  (∀ (s : State) (mb : MbId) (m : Nat), s.held mb 0x0201 = some m → s.cmap.old = none →
    (s.cmap.cur ≠ 0 → fld m 0x20 2 ≠ (if s.cmap.cur = 0xFFFF then 1 else s.cmap.cur + 1)) → (s.cmap.cur = 0 → fld m 0x20 2 = 0) →
    exec (.rmpMapSet mb) s = .next (s.reply mb Stat.epochStale 0 [])) ∧
  (∀ (s : State) (mb : MbId) (m : Nat), s.held mb 0x0201 = some m → s.cmap.old = none →
    (s.cmap.cur ≠ 0 → fld m 0x20 2 = (if s.cmap.cur = 0xFFFF then 1 else s.cmap.cur + 1)) → (s.cmap.cur = 0 → fld m 0x20 2 ≠ 0) →
    (∀ o, firstBad (mapFields m) = some o → exec (.rmpMapSet mb) s = .next (s.reply mb Stat.invalidField o [])) ∧
    (firstBad (mapFields m) = none → ∃ v : State, exec (.rmpMapSet mb) s = .next (Claims.afterAdoption v mb m (s.unboundBy m)) ∧
      v = { s with cmap := { cur := fld m 0x20 2, old := some s.cmap.cur, peers := s.mapPeers m, oldPeers := s.cmap.peers, payload := m >>> 256 }, lds := v.lds } ∧
      (∀ l, l < 16 → v.ld l = { s.ld l with bound := mapBound m l, host := mapHost m l }) ∧ ∀ l, 16 ≤ l → v.ld l = s.ld l)) ∧
  (∀ v : State,
    (v.cmap.old = none → v.mapRetire = v) ∧
    (∀ e, v.cmap.old = some e →
      ((∃ g ∈ v.fab.grafts, g.live = true ∧ g.mapEpoch = e) → v.mapRetire = v) ∧
      ((∀ g ∈ v.fab.grafts, g.live = true → g.mapEpoch ≠ e) →
        v.mapRetire = State.devEvent { v with cmap := { v.cmap with old := none, oldPeers := [] } } 0x82 e 0 0))) ∧
  (∀ s u : State, u = (List.range s.fab.grafts.length).foldl (fun v k => v.graftRemoved k) s → s.dropPeers = u.liveReqs.foldl (fun v i => v.parkRemoved i) u) ∧
  (∀ (s : State) (k : Nat) (g : Graft), s.graft k = g →
    (g.live = false ∨ s.present g.peer = true ∨ (g.send = true ∧ g.mode ≠ .push) → s.graftRemoved k = s) ∧
    (g.live = true → s.present g.peer = false → g.send = true → g.mode = .push → s.graftRemoved k = (s.abortGraft k).tryDest g.req 0 g.peer) ∧
    (g.live = true → s.present g.peer = false → g.send = false → s.graftRemoved k = s.recvFailed k)) ∧
  (∀ (s : State) (i : Nat) (r : Req), s.req i = r →
    (r.parkTarget = 4 → s.present r.peer = false → r.st = .parked → s.parkRemoved i = s.expire i) ∧
    (r.parkTarget = 4 → s.present r.peer = false → r.st = .resuming → r.resumeDev = 0 → (∃ e ∈ r.pages, e.2 = .holder) → s.parkRemoved i = s.recover i) ∧
    (r.parkTarget ≠ 4 ∨ s.present r.peer = true ∨ (r.st ≠ .parked ∧ (r.st ≠ .resuming ∨ r.resumeDev ≠ 0 ∨ ∀ e ∈ r.pages, e.2 ≠ .holder)) →
      s.parkRemoved i = s)) ∧
  (∀ (s : State) (ls : List Nat), (s.freeRings ls) = { s with reqs := (s.orphan ls).reqs, rings := (s.freeRings ls).rings, mem := (s.freeRings ls).mem } ∧
    (∀ r, ls.contains (s.ring r).ld = true → ((s.freeRings ls).ring r).rstate = .free) ∧
    (∀ r, ls.contains (s.ring r).ld = false → (s.freeRings ls).ring r = s.ring r)) ∧
  (∀ (s u : State) (ls : List Nat), u = ls.foldl (fun v l => v.freeCmps l) (s.freeRings ls) → ∀ x : State × Nat × Nat,
    x = (u.liveReqs.filter (fun i => ls.contains (u.req i).ld)).foldl State.rehost (u, 0, 0) →
    s.dropLds ls = (((List.range u.fab.grafts.length).filter (fun k => !(u.graft k).send && (u.graft k).live &&
      ((u.graft k).mode = .push || (u.graft k).mode = .handover) && (u.req (u.graft k).dreq).st = .free && ls.contains (u.req (u.graft k).dreq).ld)).foldl
        (fun v k => v.rehostGraft k) x.1, x.2)) ∧
  (∀ (s : State) (a b i : Nat), (s.newHome i = none → State.rehost (s, a, b) i = ((s.updReq i (fun r => { r with cplRing := noRing })).endRequest i Stat.hostRemoved, a, b + 1)) ∧
    (∀ t l q, s.newHome i = some (t, l, q) → State.rehost (s, a, b) i =
      (((((s.updReq i (fun r => { r with tokenRing := t, ld := l, cplRing := q })).updRing t (fun g => { g with rstate := .bound, bind := i })).moveRoom i t).arrivedEvent i s.fid,
        a + 1, b)))) ∧
  (∀ (s : State) (mb : MbId) (m : Nat), s.held mb 0x0202 = some m →
    (s.cmap.cur ≠ 0 → exec (.rmpMapGet mb) s =
      .next (s.reply mb Stat.ok (s.cmap.old.getD 0) (toBytes (0x108 + 4 * bits s.cmap.payload 16 16) s.cmap.payload))) ∧
    (s.cmap.cur = 0 → exec (.rmpMapGet mb) s =
      .next (s.reply mb Stat.ok (s.cmap.old.getD 0) (toBytes 8 0 ++ (List.range 16).flatMap (fun _ => toBytes 8 0 ++ toBytes 8 1))))) ∧
  (∀ (s : State) (ld : Fin 16),
    (s.live = true → s.presents ld.val = true → exec (.functionLevelReset ld) s =
      .next { s.resetLds [ld.val] with cxl := { (s.resetLds [ld.val]).cxl with flr := satAdd 16 (s.resetLds [ld.val]).cxl.flr 1 } }) ∧
    (s.live = false ∨ s.presents ld.val = false → exec (.functionLevelReset ld) s = .next s)) ∧
  (∀ (s : State) (ls : List Nat), ls.Nodup → Claims.ldsReset (s.dropLds ls).1 (s.resetLds ls) ls) ∧
  (∀ (s : State) (mb : MbId), (s.held mb 0x0201 = none → exec (.rmpMapSet mb) s = .next s) ∧ (s.held mb 0x0202 = none → exec (.rmpMapGet mb) s = .next s))

/-- The port, the Fabric Manager and the window as hosts see it (R399, R400, R403, R408, R415, R442, R544). -/
def Obligations.PortAndFabricManager : Prop :=
  (∀ (s : State) (f : Fin 16) (rs : List (Nat × Nat)) (q : QosCmd) (msg : List Byte) (c : Instr), s.fmOn = false →
    c ∈ [.getLdInfo, .getLdAllocations, .setLdAllocations f rs, .fmQosCommand q, .fmVendorRmp msg] → exec c s = .next s) ∧
  (∀ s : State, s.fmOn = true →
    exec .getLdInfo s = .next { s with cxl := { s.cxl with fmResp := (0, toBytes 8 0x1000000000 ++ toBytes 2 16 ++ toBytes 1 0) } } ∧
    exec .getLdAllocations s = .next { s with cxl := { s.cxl with fmResp := (0, toBytes 1 16 ++ toBytes 1 0 ++ toBytes 2 0 ++ (List.range 16).flatMap (fun l => toBytes 8 (s.ld l).winBase ++ toBytes 8 (s.ld l).winUnits)) } }) ∧
  (∀ (s : State) (first : Fin 16) (rs : List (Nat × Nat)), s.fmOn = true →
    ((∃ k, k < rs.length ∧ nth rs k (0, 0) ≠ ((s.ld (first.val + k)).winBase, (s.ld (first.val + k)).winUnits) ∧ (s.ld (first.val + k)).decoder = true) ∨
      s.rangesOk first.val rs = false) →
    exec (.setLdAllocations first rs) s = .next { s with cxl := { s.cxl with fmResp := (1, []) } }) ∧
  (∀ (s : State) (first : Fin 16) (rs : List (Nat × Nat)), s.fmOn = true → s.rangesOk first.val rs = true →
    (∀ k, k < rs.length → nth rs k (0, 0) = ((s.ld (first.val + k)).winBase, (s.ld (first.val + k)).winUnits) ∨ (s.ld (first.val + k)).decoder = false) →
    ∃ t, exec (.setLdAllocations first rs) s = .next t ∧ t = { s with lds := t.lds, cxl := { s.cxl with fmResp := (0, []) } } ∧
      (∀ k, k < rs.length → t.ld (first.val + k) = { s.ld (first.val + k) with winBase := (nth rs k (0, 0)).1, winUnits := (nth rs k (0, 0)).2 }) ∧
      ∀ l, (l < first.val ∨ first.val + rs.length ≤ l) → t.ld l = s.ld l) ∧
  (∀ (s : State) (l : Fin 16) (v : Nat) (b : BitVec 8), s.fmOn = true →
    exec (.fmQosCommand .getControl) s = .next { s with cxl := { s.cxl with fmResp := (0, toBytes 8 s.cxl.qosControl) } } ∧
    exec (.fmQosCommand (.setControl v)) s = .next { s with cxl := { s.cxl with qosControl := v, fmResp := (0, []) } } ∧
    exec (.fmQosCommand .getStatus) s = .next { s with cxl := { s.cxl with fmResp := (0, toBytes 1 0) } } ∧
    exec (.fmQosCommand (.getAlloc l)) s = .next { s with cxl := { s.cxl with fmResp := (0, toBytes 1 (s.ld l.val).qosAlloc) } } ∧
    exec (.fmQosCommand (.getLimit l)) s = .next { s with cxl := { s.cxl with fmResp := (0, toBytes 1 (s.ld l.val).qosLimit) } } ∧
    exec (.fmQosCommand (.setAlloc l b)) s = .next { s.updLd l.val (fun d => { d with qosAlloc := b.toNat }) with cxl := { s.cxl with fmResp := (0, []) } } ∧
    exec (.fmQosCommand (.setLimit l b)) s = .next { s.updLd l.val (fun d => { d with qosLimit := b.toNat }) with cxl := { s.cxl with fmResp := (0, []) } }) ∧
  (∀ (s : State) (l : Nat) (f : LDev → LDev), (s.updLd l f).ld l = f (s.ld l) ∧ (∀ j, j ≠ l → (s.updLd l f).ld j = s.ld j) ∧
    s.updLd l f = { s with lds := (s.updLd l f).lds }) ∧
  (∀ (s : State) (msg : List Byte), s.fmOn = true →
    ((s.fabricMb.go = true ∨ s.fabricMb.busy = true) → exec (.fmVendorRmp msg) s = .next { s with cxl := { s.cxl with fmResp := (1, []) } }) ∧
    (s.fabricMb.go = false → s.fabricMb.busy = false → exec (.fmVendorRmp msg) s = .next { s with mem := memPut memKey s.mem (mbAddr .fabric) (msg.take 4096), fabricMb := { s.fabricMb with go := true, done := false } })) ∧
  (∀ s : State, (s.live = true → exec .cxlCntClr s = .next { s with cxl := { s.cxl with cacheReads := 0, hostWrFail := 0, flr := 0 } }) ∧
    (s.live = false → exec .cxlCntClr s = .next s)) ∧
  (∀ (s : State) (ld : Fin 16) (on : Bool),
    (s.boot.good = true → s.boot.released = true → s.cxl.state = 2 → s.cxl.cfgReady = true → s.presents ld.val = true →
      exec (.hdmDecoderCommit ld on) s = .next (s.updLd ld.val (fun d => { d with decoder := on }))) ∧
    (s.boot.good = false ∨ s.boot.released = false ∨ s.cxl.state ≠ 2 ∨ s.cxl.cfgReady = false ∨ s.presents ld.val = false →
      exec (.hdmDecoderCommit ld on) s = .next s)) ∧
  (∀ (s : State) (ld : Fin 16) (off : Nat) (r : MemReq),
    (s.boot.good = false ∨ s.boot.released = false ∨ s.cxl.state ≠ 2 ∨ s.cxl.memActive = false ∨ (s.ld ld.val).decoder = false ∨ s.presents ld.val = false) →
    exec (.cxlMemRequest ld off r) s = .next s) ∧
  (∀ (s : State) (ld : Fin 16) (off n : Nat) (bs : List Byte), s.boot.good = true → s.boot.released = true → s.cxl.state = 2 → s.cxl.memActive = true →
    (s.ld ld.val).decoder = true → s.presents ld.val = true →
    (off + n ≤ (s.ld ld.val).winUnits * 2 ^ 28 → (s.ld ld.val).bound = true → exec (.cxlMemRequest ld off (.read n)) s =
      .next { s with cxl := { s.cxl with memRead := some (s.bytes (hostWin ((s.ld ld.val).winBase * 2 ^ 28 + off)) n) } }) ∧
    (((s.ld ld.val).winUnits * 2 ^ 28 < off + n ∨ (s.ld ld.val).bound = false) →
      exec (.cxlMemRequest ld off (.read n)) s = .next { s with cxl := { s.cxl with memRead := none } }) ∧
    (off + bs.length ≤ (s.ld ld.val).winUnits * 2 ^ 28 → (s.ld ld.val).bound = true → exec (.cxlMemRequest ld off (.write bs)) s =
      .next { s with mem := memPut memKey s.mem (hostWin ((s.ld ld.val).winBase * 2 ^ 28 + off)) bs }) ∧
    (((s.ld ld.val).winUnits * 2 ^ 28 < off + bs.length ∨ (s.ld ld.val).bound = false) → exec (.cxlMemRequest ld off (.write bs)) s = .next s)) ∧
  (∀ s : State,
    (s.boot.good = false ∨ s.boot.perst = false → exec .perstN s = .next s) ∧
    (s.boot.good = true → s.boot.perst = true → ∀ u : State, (s.live = false → u = s) → (s.live = true → u = s.resetLds (List.range 16)) →
      exec .perstN s = .next { u with boot := { u.boot with perst := false }, cxl := { u.cxl with rate := 0, width := 0, mld := false, state := 0, memActive := false, cfgReady := false } })) ∧
  (∀ (s : State) (tr : Option CxlTrain), (s.boot.good = false ∨ s.boot.perst = true) → exec (.perstNRelease tr) s = .next s) ∧
  (∀ (s : State) (tr : Option CxlTrain), s.boot.good = true → s.boot.perst = false →
    ((s.live = false ∨ s.boot.started = false) → exec (.perstNRelease tr) s = .next { s with boot := { s.boot with perst := true } }) ∧
    (s.live = true → s.boot.started = true → tr = none → exec (.perstNRelease tr) s =
      .next { s with boot := { s.boot with perst := true }, cxl := { s.cxl with state := 1, cfgReady := decide (s.devState = .ready), memActive := decide (s.devState = .ready) } }) ∧
    (∀ x : CxlTrain, s.live = true → s.boot.started = true → tr = some x → exec (.perstNRelease tr) s =
      .next { s with boot := { s.boot with perst := true }, cxl := { s.cxl with rate := x.rate, width := x.width, mld := x.mld, state := 2, cfgReady := decide (s.devState = .ready), memActive := decide (s.devState = .ready) } }))

/-- The device after a DEVICE reaction (R456): halted, BEAT still, the control cores held in reset, every link down and emptied,
and the collector's registers copied to the last 4 KiB of the SBW (the order within the record is the model's, log 22). -/
def Claims.deviceHalt (s t : State) : Prop :=
  (∃ w : State, w = (List.range 36).foldl (fun u lk => (u.discardLink lk).updLink lk (fun l => { l with state := .down }))
      { s with fcl := { s.fcl with halted := true, running := false }, devState := .halted, pwr := { s.pwr with harts := 0 } } ∧
    t = { w with mem := t.mem }) ∧
  t = { s with fcl := { s.fcl with halted := true, running := false }, devState := .halted, pwr := { s.pwr with harts := 0 }, fab := t.fab, mem := t.mem } ∧
  (∀ lk, lk < 36 → t.link lk = { (s.link lk).discard with state := .down }) ∧
  t.mem = memPut memKey (memPut memKey (memPut memKey s.mem 0x280005FF000 (toBytes 8 t.fcl.status)) 0x280005FF008 (toBytes 128 s.fcl.sticky.toNat))
    0x280005FF088 (toBytes 128 s.fcl.wire.toNat)

/-- What a sample in which `news` are new leaves before the reaction (R445): their sticky bits are set, as are those of every pair
asserted, the latch is counted, and nothing but the collector changes. -/
def Claims.latched (s t : State) (now news : List Nat) : Prop :=
  t = { s with fcl := t.fcl } ∧ t.fcl = { s.fcl with prev := now, sticky := t.fcl.sticky, cnt := t.fcl.cnt, pend := t.fcl.pend, latches := t.fcl.latches, lastSource := t.fcl.lastSource } ∧
  t.fcl.latches = (if news = [] then s.fcl.latches else satAdd 32 s.fcl.latches 1) ∧
  t.fcl.lastSource = (match news with
    | [] => s.fcl.lastSource
    | x :: _ => x) ∧
  t.fcl.pend = news.foldl (fun p x => p ||| (1 <<< (x / 64))) s.fcl.pend ∧
  t.fcl.cnt = news.foldl (fun c x => Tbl.upd c x 0 (fun n => satAdd 32 n 1)) s.fcl.cnt ∧
  (∀ x, x < 1024 → t.fcl.sticky.getLsbD x = (s.fcl.sticky.getLsbD x || now.contains x || news.contains x)) ∧
  (news.Nodup → ∀ x, Tbl.getD t.fcl.cnt x 0 = if news.contains x then satAdd 32 (Tbl.getD s.fcl.cnt x 0) 1 else Tbl.getD s.fcl.cnt x 0)

/-- The fault collector's samples and reactions (R445, R446, R450 to R452, R456 to R458, R460, R474). -/
def Obligations.FaultSamples : Prop :=
  (∀ (s : State) (ext : List (Fin 1024)),
    (s.boot.good = true → s.boot.released = true → exec (.fclLatch ext) s = .next (ext.foldl (fun s x => s.raise x.val) s).sample) ∧
    (s.boot.good = false ∨ s.boot.released = false → exec (.fclLatch ext) s = .next s)) ∧
  (∀ (s : State) (x : Nat), (sourceClass x = none → s.raise x = s) ∧
    (∀ c, sourceClass x = some c → s.raise x = { s with fcl := { s.fcl with asserted := (x, if c = 3 then none else some (s.ltu + 4)) :: s.fcl.asserted.filter (fun p => p.1 ≠ x || p.2 = none) } })) ∧
  (∀ s : State, s.fcl.reacting.isSome = true → s.sample = s) ∧
  (∀ (s : State) (now news : List Nat), s.fcl.reacting = none →
    s.fcl.pairs = now → sortNat (now.filter (fun x => !(s.fcl.prev.contains x))) = news →
    ∃ t, Claims.latched s t now news ∧ s.sample = if news = [] then t else t.react news) ∧
  (∀ (s : State) (news : List Nat) (top : Nat), top = news.foldl (fun m x => Nat.max m (classOf x)) 0 →
    (top = 3 → s.react news = State.halt { s with fcl := { s.fcl with reacting := some 3 } }) ∧
    (top ≠ 3 → ∀ u : State, u = news.foldl (fun v x => if classOf x = 0 then v else v.devEvent 0x40 x (classOf x) (Tbl.getD v.fcl.cnt x 0))
        { s with fcl := { s.fcl with reacting := some top } } →
      s.react news = news.foldl (fun v x => match fenceTarget x with
        | some (k, i) => if k = 2 && x < 0x100 && x % 0x40 = 0x1A then (v.fence k i).updDie i (fun d => { d with clockLost := true }) else v.fence k i
        | none => v) u)) ∧
  (∀ s : State, Claims.deviceHalt s s.halt) ∧
  (∀ (s : State) (news : List Nat) (x : Nat), x ∈ news → sourceClass x = some 3 → Claims.deviceHalt { s with fcl := { s.fcl with reacting := some 3 } } (s.react news)) ∧
  (∀ (s : State) (src : Fin 1024) (c : Nat), s.live = true → s.fcl.reacting = none → s.fcl.wire.getLsbD src.val = false → sourceClass src.val = some c →
    ∃ t : State, t = { s with fcl := t.fcl } ∧ t.fcl = { s.fcl with sticky := t.fcl.sticky, wire := t.fcl.wire, cnt := t.fcl.cnt, pend := s.fcl.pend ||| (1 <<< (src.val / 64)), prev := s.fcl.prev.filter (· ≠ src.val) } ∧
      (∀ x, x < 1024 → t.fcl.sticky.getLsbD x = (s.fcl.sticky.getLsbD x || x == src.val) ∧
        t.fcl.wire.getLsbD x = (s.fcl.wire.getLsbD x || x == src.val) ∧
        Tbl.getD t.fcl.cnt x 0 = if x = src.val then satAdd 32 (Tbl.getD s.fcl.cnt x 0) 1 else Tbl.getD s.fcl.cnt x 0) ∧
      (c ≠ 0 → exec (.brokenPair src) s = .next (t.react [src.val])) ∧
      (c = 0 → exec (.brokenPair src) s = .next (t.devEvent 0x43 src.val 0 0))) ∧
  (∀ (s : State) (src : Fin 1024), s.live = false ∨ s.fcl.reacting.isSome = true ∨ s.fcl.wire.getLsbD src.val = true ∨ sourceClass src.val = none →
    exec (.brokenPair src) s = .next s) ∧
  (∀ (s : State), (s.live = true → s.fcl.reacting.isSome = true → exec .reactionEnd s = .next (State.sample { s with fcl := { s.fcl with reacting := none, asserted := s.fcl.asserted.filter (fun p => match p.2 with | none => true | some t => decide (s.ltu < t)) } })) ∧
    (s.live = false ∨ s.fcl.reacting = none → exec .reactionEnd s = .next s)) ∧
  (∀ (s : State) (key : BitVec 8), (s.live = false → exec (.fclKick key) s = .next s) ∧ (s.live = true →
    (key ≠ 0xA5#8 → exec (.fclKick key) s = .next { s with fcl := { s.fcl with badKick := satAdd 8 s.fcl.badKick 1 } }) ∧
    (key = 0xA5#8 → s.fcl.lastKick = none → exec (.fclKick key) s = .next { s with fcl := { s.fcl with lastKick := some s.ltu, running := true, lastBeat := s.ltu } }) ∧
    (key = 0xA5#8 → s.fcl.lastKick.isSome = true → exec (.fclKick key) s = .next { s with fcl := { s.fcl with lastKick := some s.ltu } }))) ∧
  (∀ (s : State), (∀ t, s.live = true → s.fcl.lastKick = some t → t + 1000000 < s.ltu → exec .kickLapse s = .next (s.raise 0x115).sample) ∧
    (s.live = false ∨ (∀ t, s.fcl.lastKick = some t → s.ltu ≤ t + 1000000) → exec .kickLapse s = .next s)) ∧
  (∀ (s : State) (t : Nat), s.live = true → s.fcl.lastKick = some t → t + 1000000 < s.ltu → s.fcl.reacting = none → 0x115 ∉ s.fcl.prev →
    s.fcl.wire.getLsbD 0x115 = false → 0x115 ∉ s.fcl.wireInj →
    ∃ u, exec .kickLapse s = .next u ∧ u.fcl.halted = true ∧ u.devState = .halted ∧ u.fcl.running = false ∧ u.fcl.sticky.getLsbD 0x115 = true) ∧
  (∀ (s : State) (t : Nat), s.live = true → s.fcl.lastKick = some t → s.fcl.running = true → s.fcl.lastBeat + 5000 ≤ s.ltu →
    (s.ltu ≤ t + 1000000 → exec .beatToggle s = .next { s with fcl := { s.fcl with level := !s.fcl.level, lastBeat := s.ltu } }) ∧
    (t + 1000000 < s.ltu → exec .beatToggle s = .next { s with fcl := { s.fcl with running := false } })) ∧
  (State.reset.fcl.level = false ∧ ∀ s : State, (s.live = false ∨ s.fcl.lastKick = none ∨ s.fcl.running = false ∨ s.ltu < s.fcl.lastBeat + 5000) →
    exec .beatToggle s = .next s) ∧
  (∀ (s : State) (src : Fin 1024) (width : BitVec 16), s.live = true →
    (s.sec.otp.lc ≠ 2 → ∀ c ∈ [Instr.fclInjectNow src width, .fclInjectSync src width, .fclInjectWire src],
      exec c s = .next { s with fcl := { s.fcl with injectReject := true } }) ∧
    (s.sec.otp.lc = 2 → (sourceClass src.val).isSome = true → exec (.fclInjectNow src width) s = .next { s with fcl := { s.fcl with asserted := (src.val, some (s.ltu + cdiv (Nat.max 8 width.toNat) 2)) :: s.fcl.asserted.filter (fun p => p.1 ≠ src.val || p.2.isNone) } }) ∧
    (s.sec.otp.lc = 2 → sourceClass src.val = none → exec (.fclInjectNow src width) s = .next s) ∧
    (s.sec.otp.lc = 2 → exec (.fclInjectSync src width) s = .next { s with fcl := { s.fcl with injectSync := some (src.val, width.toNat) } }) ∧
    (s.sec.otp.lc = 2 → exec (.fclInjectWire src) s = .next { s with fcl := { s.fcl with wireInj := src.val :: s.fcl.wireInj.filter (· ≠ src.val) } })) ∧
  (∀ (s : State) (w : Fin 16) (mask : BitVec 64), s.live = true → ∃ t, exec (.fclStickyClear w mask) s = .next t ∧
    t = { s with fcl := { s.fcl with sticky := t.fcl.sticky } } ∧
    ∀ x, x < 1024 → t.fcl.sticky.getLsbD x = (s.fcl.sticky.getLsbD x && !(decide (x / 64 = w.val) && mask.getLsbD (x % 64)))) ∧
  (∀ s : State, s.live = true → exec .fclCntClr s = .next { s with fcl := { s.fcl with cnt := [] } }) ∧
  (∀ (s : State) (src : Fin 1024) (width : BitVec 16) (w : Fin 16) (mask : BitVec 64) (c : Instr), s.live = false →
    c ∈ [.fclInjectNow src width, .fclInjectSync src width, .fclInjectWire src, .fclStickyClear w mask, .fclCntClr] → exec c s = .next s)

/-- What a fence of a unit does before FENCED is posted (R453, R454): of a tile, a compute die (all its tiles), a link die (all its
links), a link, a BAU (with and without a program), an ONFI channel. -/
def Claims.fencedUnit (s x : State) (kind idx : Nat) : Prop :=
  (kind = 1 → x = s.fenceTileHw idx) ∧
  (kind = 2 → ∀ y : State, y = ({ s with fcl := { s.fcl with dieFence := Tbl.put s.fcl.dieFence idx true } } : State).updDie idx (fun d => { d with fenced := true }) →
    (idx < 4 → x = (List.range 12).foldl (fun s i => s.fenceTileHw (tileOfLocal idx i)) y) ∧
    (4 < idx → x = (List.range 18).foldl (fun s i => (s.discardLink (18 * (idx - 5) + i)).updLink (18 * (idx - 5) + i) (fun l => { l with state := .failed, fenced := true })) y ∧
      x = { y with fab := x.fab } ∧
      (∀ i, i < 18 → x.link (18 * (idx - 5) + i) = { (s.link (18 * (idx - 5) + i)).discard with state := .failed, fenced := true }) ∧
      ∀ j, (j < 18 * (idx - 5) ∨ 18 * (idx - 5) + 18 ≤ j) → x.link j = s.link j)) ∧
  (kind = 3 → x = (s.discardLink idx).updLink idx (fun l => { l with state := .failed, fenced := true }) ∧
    x = { s with fab := x.fab } ∧ x.link idx = { (s.link idx).discard with state := .failed, fenced := true } ∧ ∀ j, j ≠ idx → x.link j = s.link j) ∧
  (kind = 4 →
    ((s.chan idx).prog = none ∨ (∃ p, (s.chan idx).prog = some p ∧ p.stopping = true) → x = s.updChan idx (fun k => { k with fenced := true })) ∧
    (∀ p, (s.chan idx).prog = some p → p.stopping = false →
      x = ((s.updChan idx (fun k => { k with fenced := true })).stopProg idx).failCmd p.tile Stat.bauFenced)) ∧
  (kind = 5 → x = { s with ftl := { s.ftl with chState := Tbl.put s.ftl.chState idx 3, unusable := true } })

/-- What an unfence does before UNFENCED is posted (R453, R464); a tile begins its qualification. -/
def Claims.unfencedUnit (s x : State) (kind idx ref runs : Nat) : Prop :=
  (kind = 1 → x = s.updTile idx (fun t => { t with fenced := false, qual := some (ref, runs, 0) })) ∧
  (kind = 2 → ∀ y : State, y = ({ s with fcl := { s.fcl with dieFence := Tbl.del s.fcl.dieFence idx } } : State).updDie idx (fun d => { d with fenced := false, clockLost := false }) →
    (idx < 4 → x = (List.range 12).foldl (fun s i => s.unfenceTile (tileOfLocal idx i) ref runs) y) ∧
    (4 < idx → x = { y with fab := x.fab } ∧ (∀ i, i < 18 → x.link (18 * (idx - 5) + i) = { s.link (18 * (idx - 5) + i) with fenced := false }) ∧
      ∀ j, (j < 18 * (idx - 5) ∨ 18 * (idx - 5) + 18 ≤ j) → x.link j = s.link j)) ∧
  (kind = 3 → x = s.updLink idx (fun l => { l with fenced := false })) ∧
  (kind = 4 → x = s.updChan idx (fun k => { k with fenced := false }))

/-- Fences, their ends and qualification, by the collector's command and by mailbox (R453 to R455, R464, R472 to R474). -/
def Obligations.FenceCommands : Prop :=
  (∀ (s : State) (kind : BitVec 3) (idx : BitVec 8),
    (s.live = false → exec (.fclFence kind idx) s = .next s ∧ exec (.fclUnfence kind idx) s = .next s) ∧
    (s.live = true → fenceIdxOk kind.toNat idx.toNat = false → exec (.fclFence kind idx) s = .next { s with fcl := { s.fcl with fenceReject := true } }) ∧
    (s.live = true → fenceIdxOk kind.toNat idx.toNat = true → exec (.fclFence kind idx) s = .next (s.fence kind.toNat idx.toNat).fenceDone) ∧
    (s.live = true → fenceIdxOk kind.toNat idx.toNat = false ∨ s.unfenceOk kind.toNat idx.toNat = false →
      exec (.fclUnfence kind idx) s = .next { s with fcl := { s.fcl with fenceReject := true } }) ∧
    (s.live = true → fenceIdxOk kind.toNat idx.toNat = true → s.unfenceOk kind.toNat idx.toNat = true →
      exec (.fclUnfence kind idx) s = .next (s.unfence kind.toNat idx.toNat 1 16).fenceDone)) ∧
  (∀ s : State, s.fenceDone = { s with fcl := { s.fcl with fenceDone := true } }) ∧
  (∀ kind idx, fenceIdxOk kind idx = true ↔ (kind = 1 ∧ idx < 48) ∨ (kind = 2 ∧ (idx < 4 ∨ idx = 5 ∨ idx = 6)) ∨ (kind = 3 ∧ idx < 36) ∨
    (kind = 4 ∧ idx < 128) ∨ (kind = 5 ∧ idx < 8)) ∧
  (∀ (s : State) (kind idx : Nat), s.isFenced kind idx = true → s.fence kind idx = s ∧ s.fenceUnit kind idx = s) ∧
  (∀ (s : State) (kind idx : Nat), s.isFenced kind idx = false →
    s.fence kind idx = (s.comparing (fenceTiles kind idx)).foldl State.qualLost (s.fenceUnit kind idx)) ∧
  (∀ (s : State) (kind idx : Nat), fenceIdxOk kind idx = true → s.isFenced kind idx = false →
    ∃ x : State, Claims.fencedUnit s x kind idx ∧ s.fenceUnit kind idx = x.devEvent 0x41 kind idx (b2n (!s.stranded && x.stranded))) ∧
  (∀ (s : State) (ts : List Nat) (c n : Nat), (c, n) ∈ s.comparing ts ↔ c < 48 ∧ ∃ ref runs k w, (s.tile c).qual = some (ref, runs, k) ∧
    (s.tile c).against = some w ∧ (s.tile c).fenced = false ∧ (c ∈ ts ∨ w ∈ ts) ∧ n = k + 1) ∧
  (∀ (s : State) (c n : Nat), s.qualLost (c, n) =
    ((s.updTile c (fun x => { x with qual := none, against := none })).devEvent 0x47 c n 0).fenceUnit 1 c) ∧
  (∀ (s : State) (t : Nat), (s.tile t).fenced = true → s.fenceTileHw t = s) ∧
  (∀ (s w : State) (t : Nat), (s.tile t).fenced = false → w = (s.updTile t (fun x => { x with fenced := true, qual := none, against := none })).failCmd t Stat.tileFenced →
    ((32 ≤ t ∨ (w.tile t).lent = true ∨ w.lastLent = none) → s.fenceTileHw t = w) ∧
    (∀ k, t < 32 → (w.tile t).lent = false → w.lastLent = some k → s.fenceTileHw t = w.updTile k (fun x => { x with lent := false }))) ∧
  (∀ (s : State) (kind idx ref runs : Nat), s.isFenced kind idx = false → s.unfence kind idx ref runs = s) ∧
  (∀ (s : State) (kind idx ref runs : Nat), fenceIdxOk kind idx = true → s.unfenceOk kind idx = true → s.isFenced kind idx = true →
    ∃ x : State, Claims.unfencedUnit s x kind idx ref runs ∧ s.unfence kind idx ref runs = x.devEvent 0x42 kind idx 0) ∧
  (∀ (s : State) (t ref runs : Nat), ((s.tile t).fenced = false ∨ (s.tpwr t).alarm = true → s.unfenceTile t ref runs = s) ∧
    ((s.tile t).fenced = true → (s.tpwr t).alarm = false → s.unfenceTile t ref runs = s.updTile t (fun x => { x with fenced := false, qual := some (ref, runs, 0) }))) ∧
  (∀ (s : State) (idx : Nat), s.unfenceOk 1 idx = !(s.tpwr idx).alarm ∧ s.unfenceOk 3 idx = true ∧ s.unfenceOk 4 idx = true ∧ s.unfenceOk 5 idx = false ∧
    (s.unfenceOk 2 idx = true ↔ ∀ p ∈ s.fcl.asserted, if idx < 4 then p.1 ≠ 0x40 * idx + 0x19 ∧ p.1 ≠ 0x40 * idx + 0x1A else p.1 ≠ 0x180 + 0x60 * (idx - 5) + 0x18)) ∧
  (∀ (s : State) (mb : MbId) (m : Nat), s.held mb 0x0803 = some m → fld m 0x20 1 = 1 →
    exec (.rmpUnitFenceFence mb) s = .next ((s.fence (fld m 0x21 1) (fld m 0x24 4)).fenceDone.reply mb Stat.ok 0 [])) ∧
  (∀ (s : State) (mb : MbId) (m kind idx : Nat), s.held mb 0x0803 = some m → fld m 0x20 1 = 2 → fld m 0x21 1 = kind → fld m 0x24 4 = idx →
    (s.isFenced kind idx = false → exec (.rmpUnitFenceUnfence mb) s = .next (s.reply mb Stat.notFenced 0 [])) ∧
    (s.isFenced kind idx = true → s.unfenceOk kind idx = false → exec (.rmpUnitFenceUnfence mb) s =
      .next (({ s with fcl := { s.fcl with fenceReject := true } } : State).reply mb Stat.wrongState 0 [])) ∧
    (s.isFenced kind idx = true → s.unfenceOk kind idx = true → exec (.rmpUnitFenceUnfence mb) s =
      .next ((s.unfence kind idx (if kind = 1 then fld m 0x22 1 else 1) (if kind = 1 then fld m 0x23 1 else 16)).fenceDone.reply mb Stat.ok 0 []))) ∧
  (∀ (s : State) (mb : MbId) (m : Nat), s.held mb 0x0803 = some m → fld m 0x20 1 = 3 →
    (s.fcl.qualRun.isSome = true → exec (.rmpUnitFenceQualify mb) s = .next (s.reply mb Stat.busy 0 [])) ∧
    (s.fcl.qualRun = none → ∀ u : State, u = ((List.range 48).foldl (fun (s : State) t =>
        if bit (fld m 0x28 8) t then s.qualify t (fld m 0x22 1) (fld m 0x23 1) else s) s).updMb mb (fun x => { x with waits := true }) →
      exec (.rmpUnitFenceQualify mb) s = .next (State.qualSettle { u with fcl := { u.fcl with qualRun := some (mbNum mb, fld m 0x28 8, 0, 0) } }))) ∧
  (∀ (s : State) (t ref runs : Nat), ((s.fence 1 t).unfenceOk 1 t = true → s.qualify t ref runs = (s.fence 1 t).unfence 1 t ref runs) ∧
    ((s.fence 1 t).unfenceOk 1 t = false → s.qualify t ref runs = s.fence 1 t)) ∧
  (∀ s : State, s.fcl.qualRun = none → s.qualSettle = s) ∧
  (∀ (s : State) (n left ok bad ok' bad' left' : Nat), s.fcl.qualRun = some (n, left, ok, bad) →
    ok' = ok + maskOf left (fun t => !(s.tile t).fenced && (s.tile t).qual.isNone) → bad' = bad + maskOf left (fun t => (s.tile t).fenced) →
    left' = maskOf left (fun t => !(s.tile t).fenced && (s.tile t).qual.isSome) →
    (left' ≠ 0 → s.qualSettle = { s with fcl := { s.fcl with qualRun := some (n, left', ok', bad') } }) ∧
    (left' = 0 → ∀ x, s.mbox (mbOf n) = x →
      (x.busy = true → x.waits = true → msgOp x.msg = 0x0803 → s.qualSettle = ({ s with fcl := { s.fcl with qualRun := none } } : State).reply (mbOf n)
        (if bad' = 0 then Stat.ok else Stat.qualFailed) 0 (toBytes 8 ok' ++ toBytes 8 bad')) ∧
      ((x.busy = false ∨ x.waits = false ∨ msgOp x.msg ≠ 0x0803) → s.qualSettle = { s with fcl := { s.fcl with qualRun := none } }))) ∧
  (∀ (s : State) (tile : Fin 48) (d ref runs k : Nat), s.live = true → (s.tile tile.val).qual = some (ref, runs, k) →
    (d = 0 → k + 1 < runs → exec (.qualificationCompare tile d) s =
      .next (s.updTile tile.val (fun x => { x with qual := some (ref, runs, k + 1), against := none })).qualSettle) ∧
    (d = 0 → runs ≤ k + 1 → exec (.qualificationCompare tile d) s =
      .next ((s.updTile tile.val (fun x => { x with qual := none, against := none })).devEvent 0x46 tile.val runs 0).qualSettle) ∧
    (d ≠ 0 → exec (.qualificationCompare tile d) s =
      .next (((s.updTile tile.val (fun x => { x with qual := none, against := none })).devEvent 0x47 tile.val (k + 1) d).fence 1 tile.val).qualSettle)) ∧
  (∀ (s : State) (tile : Fin 48) (d : Nat), (s.live = false → exec (.qualificationCompare tile d) s = .next s) ∧
    (s.live = true → (s.tile tile.val).qual = none → exec (.qualificationCompare tile d) s = .next s.qualSettle)) ∧
  (∀ (s : State) (mb : MbId) (op : Nat) (c : Instr), (∀ m, s.held mb 0x0803 = some m → fld m 0x20 1 ≠ op) →
    (op, c) ∈ [(1, .rmpUnitFenceFence mb), (2, .rmpUnitFenceUnfence mb), (3, .rmpUnitFenceQualify mb)] → exec c s = .next s)

/-- Fault records by mailbox, checkpoints and loads from a partner (R452, R460, R465, R468, R469, R473). -/
def Obligations.RecoveryCommands : Prop :=
  (∀ (s : State) (mb : MbId) (m : Nat), s.held mb 0x0802 = some m → exec (.rmpFaultClear mb) s =
    .next (({ s with fcl := { s.fcl with sticky := s.fcl.sticky &&& ~~~(BitVec.ofNat 1024 (fld m 0x20 128)) } } : State).reply mb Stat.ok 0 [])) ∧
  (∀ (s : State) (mb : MbId) (m w : Nat), s.held mb 0x0807 = some m → fld m 0x20 8 = w →
    (s.sec.otp.lc ≠ 2 → exec (.rmpInject mb) s = .next (({ s with fcl := { s.fcl with injectReject := true } } : State).reply mb Stat.injectDenied 0 [])) ∧
    (s.sec.otp.lc = 2 → bits w 16 2 = 1 → exec (.rmpInject mb) s = .next ((s.injectPair (bits w 32 10) (bits w 0 16)).reply mb Stat.ok 0 [])) ∧
    (s.sec.otp.lc = 2 → bits w 16 2 = 2 → exec (.rmpInject mb) s =
      .next (({ s with fcl := { s.fcl with injectSync := some (bits w 32 10, bits w 0 16) } } : State).reply mb Stat.ok 0 [])) ∧
    (s.sec.otp.lc = 2 → bits w 16 2 ≠ 1 → bits w 16 2 ≠ 2 → exec (.rmpInject mb) s =
      .next (({ s with fcl := { s.fcl with wireInj := bits w 32 10 :: s.fcl.wireInj.filter (· ≠ bits w 32 10) } } : State).reply mb Stat.ok 0 []))) ∧
  (∀ (s : State) (src width : Nat), (sourceClass src = none → s.injectPair src width = s) ∧
    ((sourceClass src).isSome = true → s.injectPair src width = { s with fcl := { s.fcl with asserted := (src, some (s.ltu + cdiv (Nat.max 8 width) 2)) :: s.fcl.asserted.filter (fun p => p.1 ≠ src || p.2.isNone) } })) ∧
  (∀ (s : State) (mb : MbId) (m : Nat), s.held mb 0x0804 = some m → exec (.rmpCkptTake mb) s = .next (s.updMb mb (fun x => { x with waits := true }))) ∧
  (∀ (s u : State) (mb : MbId) (step m : Nat) (img : List Byte) (recs : List (List Byte)), (s.mbox mb).msg = m →
    s.ckptRecords (bit (fld m 0x20 2) 0) = recs → s.ckptImage step (bit (fld m 0x20 2) 0) recs = img →
    (fld m 0x30 8 < img.length → s.ckptTake mb step = s.reply mb Stat.ckptSpace img.length []) ∧
    (img.length ≤ fld m 0x30 8 →
      u = { s.ckptWrite m img with ckpt := { step := step, reqs := (s.ckptWrite m img).liveReqs.map (fun i => (((s.ckptWrite m img).req i).reqId, ((s.ckptWrite m img).req i).tenant, ((s.ckptWrite m img).req i).journal.length)) } } →
      s.ckptTake mb step = ((u.liveReqs.foldl (fun v i => v.updReq i (fun r => { r with ckptLen := some r.journal.length })) u).devEvent 0x48 recs.length step (img.length / 4096)).reply
        mb Stat.ok 0 (packFields [(8, img.length), (8, step), (4, recs.length)]))) ∧
  (∀ (s : State) (m : Nat) (img : List Byte),
    (fld m 0x22 1 = 1 → s.ckptWrite m img = { s with mem := memPut memKey s.mem (hostWin (fld m 0x28 8)) img }) ∧
    (fld m 0x22 1 ≠ 1 → s.cxl.state = 2 → s.ckptWrite m img = s.hostPut s.cfg.dev.adminLd (fld m 0x28 8) img) ∧
    (fld m 0x22 1 ≠ 1 → s.cxl.state ≠ 2 → s.ckptWrite m img = { s with cxl := { s.cxl with hostWrFail := satAdd 16 s.cxl.hostWrFail 1 } })) ∧
  (∀ (s : State) (step : Nat), s.ckptBoundary step = (List.range 145).foldl (fun u n =>
    if (u.mbox (mbOf n)).busy && (u.mbox (mbOf n)).waits && msgOp (u.mbox (mbOf n)).msg = 0x0804 then u.ckptTake (mbOf n) step else u) s) ∧
  (∀ (s : State) (mb : MbId) (m h : Nat), s.held mb 0x0805 = some m → s.rd (hostWin (fld m 0x20 8)) 64 = h →
    ((fld h 0 2 ≠ 1 ∨ crcOk h 64 = false ∨ bit (fld h 2 2) 0 = true ∨ fld h 0x28 8 < 64) → exec (.rmpCkptRestore mb) s = .next (s.reply mb Stat.ckptInvalid 0 [])) ∧
    (fld h 0 2 = 1 → crcOk h 64 = true → bit (fld h 2 2) 0 = false → 64 ≤ fld h 0x28 8 → s.winOk mb (fld m 0x20 8) (fld h 0x28 8) = false →
      exec (.rmpCkptRestore mb) s = .next (s.reply mb Stat.invalidField 0x20 [])) ∧
    (fld h 0 2 = 1 → crcOk h 64 = true → bit (fld h 2 2) 0 = false → 64 ≤ fld h 0x28 8 → s.winOk mb (fld m 0x20 8) (fld h 0x28 8) = true →
      (parseRecords (fld h 0x20 4) (s.bytes (hostWin (fld m 0x20 8) + 64) (fld h 0x28 8 - 64)) = none →
        exec (.rmpCkptRestore mb) s = .next (s.reply mb Stat.ckptInvalid 0 [])) ∧
      (∀ recs, parseRecords (fld h 0x20 4) (s.bytes (hostWin (fld m 0x20 8) + 64) (fld h 0x28 8 - 64)) = some recs →
        s.fabricOf (fld h 6 2) ≠ some (fabricDigest s.cfg.fabric) → exec (.rmpCkptRestore mb) s = .next (s.reply mb Stat.ckptMismatch 0 [])) ∧
      (∀ recs u a b, parseRecords (fld h 0x20 4) (s.bytes (hostWin (fld m 0x20 8) + 64) (fld h 0x28 8 - 64)) = some recs →
        s.fabricOf (fld h 6 2) = some (fabricDigest s.cfg.fabric) → s.restoreAll (bits (fld h 4 2) 0 12)
          (parseAppendix (fld m 0x30 4 / 16 + 1) (s.bytes (hostWin (fld m 0x28 8)) (fld m 0x30 4))) recs = (u, a, b) →
        exec (.rmpCkptRestore mb) s = .next (u.graftPump.reply mb Stat.ok 0 (toBytes 4 a ++ toBytes 4 b))))) ∧
  (∀ (s : State) (fid : Nat) (appx : List (Nat × Nat × List Nat)) (x : CkptRec) (xs : List CkptRec),
    s.restoreAll fid appx [] = (s, 0, 0) ∧
    (fld x.entry 0x0E 1 = 0 → s.restoreAll fid appx (x :: xs) = s.restoreAll fid appx xs) ∧
    (fld x.entry 0x0E 1 ≠ 0 → ∀ u st a b, s.restoreOne fid appx x = (u, st) →
      (st = 0 → u.restoreAll fid appx xs = (a, b) → s.restoreAll fid appx (x :: xs) = (a, b.1 + 1, b.2)) ∧
      (st ≠ 0 → State.restoreAll (u.eventTo u.cfg.dev.adminLd (eventRaw 0x49 0xFFFF st (fld x.entry 0 8) fid 0)) fid appx xs = (a, b) →
        s.restoreAll fid appx (x :: xs) = (a, b.1, b.2 + 1)))) ∧
  (∀ (s : State) (fid : Nat) (appx : List (Nat × Nat × List Nat)) (x : CkptRec) (e : Req), e = { Req.ofEntry x.entry with ttlMs := fld x.entry 0x60 4 } →
    (s.restoreCheck e ≠ Stat.ok → s.restoreOne fid appx x = (s, s.restoreCheck e)) ∧
    (s.restoreCheck e = Stat.ok →
      (Tbl.find? s.cfg.defCq (s.tenant e.tenant).ld = none → s.restoreOne fid appx x = (s, Stat.noRequestSlot)) ∧
      (∀ cq j o, Tbl.find? s.cfg.defCq (s.tenant e.tenant).ld = some cq → rebuild x.tokens e.reqId appx = j →
        s.newEntry e.tenant (s.tenant e.tenant).ld (e.promptLen + e.maxNew) (fld x.seq 0x24 4) (s.slot e.slot) (fun (q : Req) =>
          { e with st := .decode, ld := (s.tenant e.tenant).ld, cfg := s.curVersion, jplots := q.jplots, tokenRing := q.tokenRing, seq := q.seq, cplRing := cq, epoch := (fld x.entry 0x10 2 + 1) % 65536, nextIndex := j.length - e.promptLen, firstIdx := j.length - e.promptLen, draftReady := false, prefilled := 0, lost := true }) = o →
        (o = none → s.restoreOne fid appx x = (s, Stat.noRequestSlot)) ∧
        (∀ u i, o = some (u, i) → s.restoreOne fid appx x =
          (((((u.journalAdd i j).updReq i (fun r => { r with nextIndex := j.length - r.promptLen })).restored i (fld x.entry 0x0E 1) x.manifest.length).arrivedEvent i fid), Stat.ok))))) ∧
  (∀ (s : State) (i was plots : Nat),
    ((was = 5 ∨ was = 6 ∨ was = 7) → s.restored i was plots = s.updReq i (fun r => { r with st := .expired, lost := false })) ∧
    (was ≠ 5 → was ≠ 6 → was ≠ 7 → ∀ u : State, u = s.recover i →
      ((u.req i).st ≠ .prefill → (u.req i).st ≠ .reprefill → s.restored i was plots = u) ∧
      (((u.req i).st = .prefill ∨ (u.req i).st = .reprefill) → ∀ v b,
        u.ensureKv i (Nat.min ((u.req i).promptLen + (u.req i).maxNew) ((u.req i).seq.manifestPositions plots)) true = (v, b) →
        s.restored i was plots = if b then v else u))) ∧
  (∀ (s : State) (mb : MbId) (o : PartnerOffer) (m : Nat) (ks : List Nat), s.held mb 0x0806 = some m →
    (List.range (fld m 0x22 2)).map (fun j => fld m (0x24 + 2 * j) 2) = ks →
    ((∀ lk, lk < 36 → s.activeToward lk (fld m 0x20 2) = false) → exec (.rmpPartnerLoad mb o) s = .next (s.reply mb Stat.peerMismatch 0 [])) ∧
    (∀ lk k, lk < 36 → s.activeToward lk (fld m 0x20 2) = true → k ∈ ks → (o.slots.find? (fun e => e.1 = k)).bind (·.2) = none →
      exec (.rmpPartnerLoad mb o) s = .next (s.reply mb Stat.modelNotLoaded 0 [])) ∧
    (∀ lk k, lk < 36 → s.activeToward lk (fld m 0x20 2) = true → (∀ k ∈ ks, ((o.slots.find? (fun e => e.1 = k)).bind (·.2)).isSome = true) →
      k ∈ ks → (s.slot k).st ≠ .empty → exec (.rmpPartnerLoad mb o) s = .next (s.reply mb Stat.wrongState 0 [])) ∧
    (∀ lk u n st, lk < 36 → s.activeToward lk (fld m 0x20 2) = true → (∀ k ∈ ks, ((o.slots.find? (fun e => e.1 = k)).bind (·.2)).isSome = true) →
      (∀ k ∈ ks, (s.slot k).st = .empty) → s.pullSlots o ks 0 = (u, n, st) → exec (.rmpPartnerLoad mb o) s = .next (u.reply mb st 0 (toBytes 2 n)))) ∧
  (∀ (s : State) (o : PartnerOffer) (k n : Nat) (ks : List Nat), s.pullSlots o [] n = (s, n, Stat.ok) ∧
    ((o.slots.find? (fun e => e.1 = k)).bind (·.2) = none → s.pullSlots o (k :: ks) n = (s, n, Stat.modelNotLoaded)) ∧
    (∀ x u st, (o.slots.find? (fun e => e.1 = k)).bind (·.2) = some x → s.pullSlot k x.1.toNat x.2 = (u, st) →
      (st = Stat.ok → s.pullSlots o (k :: ks) n = u.pullSlots o ks (n + 1)) ∧ (st ≠ Stat.ok → s.pullSlots o (k :: ks) n = (u, n, st)))) ∧
  (∀ (s u : State) (k entry : Nat) (o : List Byte), u = { s with slots := Tbl.put s.slots k { tenant := fld entry 0 2, st := .loading, cfg := s.curVersion } } →
    (u.objFieldsOk o = false → s.pullSlot k entry o = (s, Stat.invalidField)) ∧
    (u.objFieldsOk o = true → ((u.placeObject k 0 o).bind (fun v => v.keepPulled k o) = none → s.pullSlot k entry o = (s, Stat.quotaExceeded)) ∧
      (∀ v, (u.placeObject k 0 o).bind (fun v => v.keepPulled k o) = some v → s.pullSlot k entry o =
        (((v.updSlot k (fun m => { m with st := .loaded })).writeSlot k).tenantEvent (fld entry 0 2) 0x83 k 0 0 Stat.ok, Stat.ok)))) ∧
  (∀ (s : State) (mb : MbId) (o : PartnerOffer) (op : Nat) (c : Instr), s.held mb op = none →
    (c, op) ∈ [(.rmpFaultClear mb, 0x0802), (.rmpInject mb, 0x0807), (.rmpCkptTake mb, 0x0804), (.rmpCkptRestore mb, 0x0805), (.rmpPartnerLoad mb o, 0x0806)] →
    exec c s = .next s)

/-- `parts` of energy added one after the other to counter sets (R482). -/
def Claims.addParts (c : Cloche) (parts : List (Nat × Nat)) : Cloche := parts.foldl (fun (c : Cloche) p => c.addEnergy p.1 p.2) c

/-- The windows the feed sends and the frames the Cloche takes (R478 to R484): what a close sends, which frames are refused, what
an accepted record counts, when a window's energy is left unattributed, and that attribution loses none of it. -/
def Obligations.MeterFeed : Prop :=
  (∀ (s : State), s.live = true → s.feed.since + 10000 ≤ s.ltu → exec .feedWindowClose s = .next { s with feed := s.feed.held.foldl Feed.report { s.feed with table := [], held := [], line := s.feed.line ++ feedFrames s.feed.window s.feed.first s.sec.otp.lc s.sec.otp.uid 9 s.feed.table, window := (s.feed.window + 1) % 2 ^ 32, since := s.ltu, first := false } }) ∧
  (∀ (rs : List (Nat × Nat × Nat × Nat)) (f : Feed), (rs.foldl Feed.report f).line = f.line ∧ (rs.foldl Feed.report f).window = f.window ∧
    (rs.foldl Feed.report f).since = f.since ∧ (rs.foldl Feed.report f).first = f.first) ∧
  (∀ s : State, (s.live = false ∨ s.ltu < s.feed.since + 10000) → exec .feedWindowClose s = .next s) ∧
  (∀ (w lc uid n : Nat) (first : Bool) (es : List (Nat × Nat × Nat × Nat)), es.length ≤ 512 * n → 0 < n → (∀ b ∈ feedFrames w first lc uid n es, b.length ≤ 8212) ∧
    ∃ k, k ≤ n ∧ feedFrames w first lc uid n es = (List.range k).map (fun j => feedFrame w ((es.drop (512 * j)).take 512) (j + 1 == k) first lc uid) ∧
      es.length ≤ 512 * k ∧ (es = [] → k = 1) ∧ (es ≠ [] → 512 * (k - 1) < es.length)) ∧
  (∀ (s : State) (frame : List Byte) (energy : List Nat) (ns : Nat), s.cloche.on = false →
    exec (.feedFrameReceive frame energy ns) s = .next { s with feed := { s.feed with line := s.feed.line.drop 1 } }) ∧
  (∀ (s : State) (frame : List Byte) (energy : List Nat) (ns h : Nat), s.cloche.on = true → ofBytes (frame.take 16) = h →
    (512 < fld h 4 2 ∨ frame.length ≠ 20 + 16 * fld h 4 2 ∨ fld h 8 8 ≠ s.cloche.uid ∨
      ofBytes (frame.drop (16 + 16 * fld h 4 2)) ≠ crc32c (frame.take (16 + 16 * fld h 4 2))) →
    exec (.feedFrameReceive frame energy ns) s = .next { s with feed := { s.feed with line := s.feed.line.drop 1 }, cloche := { s.cloche with framesLost := satAdd 32 s.cloche.framesLost 1, rejected := true } }) ∧
  (∀ (s : State) (frame : List Byte) (energy : List Nat) (ns h : Nat), s.cloche.on = true → ofBytes (frame.take 16) = h → fld h 4 2 ≤ 512 →
    frame.length = 20 + 16 * fld h 4 2 → fld h 8 8 = s.cloche.uid →
    ofBytes (frame.drop (16 + 16 * fld h 4 2)) = crc32c (frame.take (16 + 16 * fld h 4 2)) →
    ∃ c : Cloche, c = { (feedRecords (fld h 4 2) (frame.drop 16)).foldl Cloche.count { s.cloche with framesOk := satAdd 32 s.cloche.framesOk 1, lc := fld h 7 1 } with winNo := fld h 0 4, win := (if s.cloche.winNo = fld h 0 4 then s.cloche.win else []) ++ feedRecords (fld h 4 2) (frame.drop 16) } ∧
      (bit h 48 = false → exec (.feedFrameReceive frame energy ns) s = .next { s with feed := { s.feed with line := s.feed.line.drop 1 }, cloche := c }) ∧
      (∀ p, bit h 48 = true → s.cloche.rejected = false → s.cloche.down = false → (bit h 49 = true ∨ (s.cloche.lastWindow = some p ∧ (p + 1) % 2 ^ 32 = fld h 0 4)) →
        exec (.feedFrameReceive frame energy ns) s = .next { s with feed := { s.feed with line := s.feed.line.drop 1 }, cloche := Cloche.snapIfDue { c.attribute energy ns with lastWindow := some (fld h 0 4), lastAt := (c.attribute energy ns).time, down := false, rejected := false, win := [] } }) ∧
      (bit h 48 = true → (s.cloche.rejected = true ∨ s.cloche.down = true ∨ (bit h 49 = false ∧ ∀ p, s.cloche.lastWindow = some p → (p + 1) % 2 ^ 32 ≠ fld h 0 4)) →
        exec (.feedFrameReceive frame energy ns) s = .next { s with feed := { s.feed with line := s.feed.line.drop 1 }, cloche := Cloche.snapIfDue { c.unattributed energy ns with lastWindow := some (fld h 0 4), lastAt := (c.unattributed energy ns).time, down := false, rejected := false, win := [] } })) ∧
  (∀ (c : Cloche) (k d tn n : Nat), ∃ x, c.count (k, d, tn, n) = { c with sets := (c.count (k, d, tn, n)).sets } ∧ (c.count (k, d, tn, n)).set tn = x ∧
    (∀ j, j ≠ tn → (c.count (k, d, tn, n)).set j = c.set j) ∧ x.energyNj = (c.set tn).energyNj ∧ x.label = (c.set tn).label ∧
    x.engine = (if k = 1 then wrap64 ((c.set tn).engine + n) else (c.set tn).engine) ∧ x.t1 = (if k = 2 then wrap64 ((c.set tn).t1 + n) else (c.set tn).t1) ∧
    x.t2 = (if k = 3 then wrap64 ((c.set tn).t2 + n) else (c.set tn).t2) ∧ x.t3 = (if k = 4 then wrap64 ((c.set tn).t3 + n) else (c.set tn).t3) ∧
    x.tx = (if k = 5 then wrap64 ((c.set tn).tx + n) else (c.set tn).tx) ∧ x.rx = (if k = 6 then wrap64 ((c.set tn).rx + n) else (c.set tn).rx)) ∧
  (∀ (c : Cloche) (raw : List Nat) (ns : Nat), (c.attribute raw ns).totalNj =
      (c.totalNj + ((c.energies raw ns).take 19).sum + lossOf (c.energies raw ns)) % (1000 * 2 ^ 64) ∧
    ∃ parts, c.attribute raw ns = { Claims.addParts c parts with totalNj := (c.attribute raw ns).totalNj } ∧
      (parts.map (·.2)).sum = ((c.energies raw ns).take 19).sum + lossOf (c.energies raw ns)) ∧
  (∀ (c : Cloche) (raw : List Nat) (ns : Nat), c.unattributed raw ns = { Claims.addParts c [(0xFFFF, ((c.energies raw ns).take 19).sum + lossOf (c.energies raw ns))] with totalNj := (c.unattributed raw ns).totalNj, unattrib := satAdd 32 c.unattrib 1 } ∧
    (c.unattributed raw ns).totalNj = (c.totalNj + ((c.energies raw ns).take 19).sum + lossOf (c.energies raw ns)) % (1000 * 2 ^ 64)) ∧
  (∀ (s : State) (energy : List Nat), s.cloche.on = true → s.cloche.down = false → s.cloche.lastAt + 1000000 < s.cloche.time → ∃ c : Cloche,
    c = { s.cloche.unattributed energy (s.cloche.time - s.cloche.lastAt) with down := true, feedDownSeen := true } ∧ exec (.feedDown energy) s = .next { s with cloche := c.snapIfDue }) ∧
  (∀ (s : State) (energy : List Nat), (s.cloche.on = false ∨ s.cloche.down = true ∨ s.cloche.time ≤ s.cloche.lastAt + 1000000) → exec (.feedDown energy) s = .next s) ∧
  (∀ c : Cloche, (c.due = true → c.snapIfDue = { c with due := false, snap := some c.sets }) ∧ (c.due = false → c.snapIfDue = c))

/-- A signed Cloche command that no check refuses (R488, R489, R493). -/
def Claims.signedOk (s : State) (x : BitVec 2080) (cmd used : Nat) (operator authority param : Bool) : Prop :=
  s.cloche.on = true ∧ s.cloche.nonce = some (scNonce x) ∧ scCmd x = cmd ∧ scZero x used param = true ∧
  ((operator = true ∧ scSigner x = 1 ∧ scKey x = s.cloche.opKey) ∨ (authority = true ∧ scSigner x = 2 ∧ keyDigest (scKey x) = s.cloche.authDigest)) ∧
  Config.sigOk (keyDigest (scKey x)) (toBytes 8 s.cloche.uid ++ toBytes 0x92 x.toNat) (scSig x) = true ∧ s.cloche.log.length < 4032

/-- The Cloche `c` after entry `e` of kind, signer, parameter, old, new and tag went on its log (R489). -/
def Claims.logged (c d : Cloche) (kind signer param old new tag : Nat) : Prop :=
  ∃ e, e = c.auditEntry c.log.length kind signer param old new tag ∧ d = { c with log := c.log ++ [e], digest := shake256 (toBytes 32 c.digest ++ toBytes 64 e) }

/-- The Cloche's own commands (R475, R485 to R493): records, restarts, the seal, reads over I3C, and the signed commands: each
refusal leaves no trace but its status and the spent nonce, and each acceptance is logged. -/
def Obligations.ClocheCommands : Prop :=
  (∀ (s : State) (snap : Tbl CSet), s.cloche.on = true → s.cloche.snap = some snap → ∃ (c : Cloche) (rec_ : Nat), exec .recordSign s = .next { s with cloche := c } ∧ c = s.cloche.signRecord snap ∧
    c.recordNo = s.cloche.recordNo + 1 ∧ c.records = ((s.cloche.recordNo + 1, rec_) :: s.cloche.records).take 1440 ∧
    c.snaps = ((s.cloche.recordNo + 1, snap) :: s.cloche.snaps).take 2 ∧ c.snap = none ∧ c.sets = s.cloche.sets ∧ c.log = s.cloche.log ∧ c.sealBroken = s.cloche.sealBroken ∧
    c.framesOk = 0 ∧ c.framesLost = 0 ∧ c.unattrib = 0 ∧ c.restarted = false ∧ c.paramChanged = false ∧
    rec_ = ofBytes (s.cloche.recordBody (s.cloche.recordNo + 1) snap ++ (Config.sign s.cloche.key (s.cloche.recordBody (s.cloche.recordNo + 1) snap)).take 114)) ∧
  (∀ (s : State) (why : RestartWhy) (w : Nat), ((why = .supply ∧ s.cloche.on = false ∧ w = 1) ∨ (why = .pin ∧ s.cloche.on = true ∧ w = 2)) →
    ∃ c : Cloche, exec (.clocheRestart why) s = .next { s with cloche := c } ∧ c = s.cloche.restart w ∧ c.on = true ∧ c.restarted = true ∧ c.nonce = none ∧ c.recordNo = s.cloche.recordNo ∧
      c.records = s.cloche.records ∧ (∀ x xs, s.cloche.snaps = x :: xs → c.sets = x.2 ∧ c.totalNj = totalOf x.2) ∧ (s.cloche.snaps = [] → c.sets = [] ∧ c.totalNj = 0) ∧
      (s.cloche.log.length < 4096 → c.log = s.cloche.log ++ [s.cloche.auditEntry s.cloche.log.length 8 0 0 w 0 0]) ∧
      (4096 ≤ s.cloche.log.length → c.log = s.cloche.log ∧ c.overflow = true)) ∧
  (∀ s : State, ((s.cloche.on = true → exec (.clocheRestart .supply) s = .next s) ∧ (s.cloche.on = false → exec (.clocheRestart .pin) s = .next s) ∧
    exec (.clocheRestart .activation) s = .next s ∧ ((s.cloche.on = false ∨ s.cloche.snap = none) → exec .recordSign s = .next s))) ∧
  (∀ s : State, exec .clVauxLoss s = .next { s with cloche := { s.cloche with on := false, addr := none, resp := [], nonce := none } }) ∧
  (∀ s : State, s.cloche.on = true → ∃ c : Cloche, exec .sealBroken s = .next { s with cloche := { c with sealBroken := true, loopOpen := true } } ∧
    (s.cloche.log.length < 4096 → Claims.logged s.cloche c 6 0 0 0 0 0) ∧ (4096 ≤ s.cloche.log.length → c = { s.cloche with overflow := true })) ∧
  (∀ (s : State) (b : Bool) (a : BitVec 7), s.cloche.on = true → exec (.clDynamicAddress b a) s = .next { s with cloche := { s.cloche with addr := some a.toNat } }) ∧
  (∀ (s : State) (tenant : BitVec 16), s.cloche.on = true →
    exec .clIdentify s = .next { s with cloche := { s.cloche with resp := 0#8 :: (toBytes 8 s.cloche.uid ++ toBytes 4 s.cloche.fw ++ toBytes 2 s.cloche.fwCount ++ toBytes 4 s.cloche.logGen ++ toBytes 2 s.cloche.log.length ++ toBytes 8 s.cloche.recordNo ++ toBytes 57 s.cloche.pubKey) } } ∧
    exec (.liveRead tenant) s = .next { s with cloche := { s.cloche with resp := 0#8 :: (s.cloche.set tenant.toNat).bytes } }) ∧
  (∀ (s : State) (off : BitVec 32) (len : BitVec 16), s.cloche.on = true →
    (1 ≤ len.toNat → len.toNat ≤ 256 → off.toNat + len.toNat ≤ s.cloche.cert.length →
      exec (.certRead off len) s = .next { s with cloche := { s.cloche with resp := 0#8 :: (s.cloche.cert.drop off.toNat).take len.toNat } }) ∧
    ((len.toNat = 0 ∨ 256 < len.toNat ∨ s.cloche.cert.length < off.toNat + len.toNat) →
      exec (.certRead off len) s = .next { s with cloche := { s.cloche with resp := [4#8] } })) ∧
  (∀ (s : State) (no : BitVec 64), s.cloche.on = true →
    (∀ r, (if no = 0#64 then s.cloche.records.head? else s.cloche.records.find? (fun r => r.1 = no.toNat)) = some r →
      exec (.recordRead no) s = .next { s with cloche := { s.cloche with resp := 0#8 :: toBytes 256 r.2 } }) ∧
    ((if no = 0#64 then s.cloche.records.head? else s.cloche.records.find? (fun r => r.1 = no.toNat)) = none →
      exec (.recordRead no) s = .next { s with cloche := { s.cloche with resp := [6#8] } })) ∧
  (∀ (s : State) (no : BitVec 64) (first count : BitVec 16), s.cloche.on = true → 1 ≤ count.toNat → count.toNat ≤ 64 → first.toNat + count.toNat ≤ 65536 →
    (∀ x, s.cloche.snaps.find? (fun x => x.1 = no.toNat) = some x → exec (.snapshotRead no first count) s = .next { s with cloche := { s.cloche with resp := 0#8 :: (rangeFrom first.toNat count.toNat).flatMap (fun i => (Tbl.getD x.2 i {}).bytes) } }) ∧
    (s.cloche.snaps.find? (fun x => x.1 = no.toNat) = none → exec (.snapshotRead no first count) s = .next { s with cloche := { s.cloche with resp := [6#8] } })) ∧
  (∀ (s : State) (no : BitVec 64) (first count : BitVec 16), s.cloche.on = true → (count.toNat = 0 ∨ 64 < count.toNat ∨ 65536 < first.toNat + count.toNat) →
    exec (.snapshotRead no first count) s = .next { s with cloche := { s.cloche with resp := [4#8] } }) ∧
  (∀ (s : State) (seq : BitVec 16), s.cloche.on = true →
    (∀ e, s.cloche.log[seq.toNat]? = some e → exec (.logRead seq) s = .next { s with cloche := { s.cloche with resp := 0#8 :: toBytes 64 e } }) ∧
    (s.cloche.log[seq.toNat]? = none → exec (.logRead seq) s = .next { s with cloche := { s.cloche with resp := [4#8] } })) ∧
  (∀ s : State, s.cloche.on = true → exec .nonceGet s = .next { s with fresh := s.fresh + 1, cloche := { s.cloche with nonce := some (Config.nonce s.fresh).toNat, resp := 0#8 :: toBytes 16 (Config.nonce s.fresh).toNat } }) ∧
  (∀ (s : State) (off : BitVec 32) (data : List Byte), s.cloche.on = true →
    (1 ≤ data.length → data.length ≤ 256 → exec (.fwChunk off data) s = .next { s with cloche := { s.cloche with half := memPut id s.cloche.half off.toNat data, resp := [0#8] } }) ∧
    ((data.length = 0 ∨ 256 < data.length) → exec (.fwChunk off data) s = .next { s with cloche := { s.cloche with resp := [4#8] } })) ∧
  (∀ (c : Cloche) (x : BitVec 2080) (cmd : Nat) (o a r n : Bool), c.signedStatus x cmd o a r n = (if c.nonce ≠ some (scNonce x) then 2
    else if ¬((o = true ∧ scSigner x = 1 ∧ scKey x = c.opKey) ∨ (a = true ∧ scSigner x = 2 ∧ keyDigest (scKey x) = c.authDigest)) then 3
    else if Config.sigOk (keyDigest (scKey x)) (toBytes 8 c.uid ++ toBytes 0x92 x.toNat) (scSig x) = false then 1
    else if r = false ∨ scCmd x ≠ cmd then 4 else if n = true ∧ 4032 ≤ c.log.length then 5 else 0)) ∧
  (∀ (s : State) (x : BitVec 2080) (st : Nat), s.cloche.on = true → st ≠ 0 →
    (s.cloche.signedStatus x 0x10 false true (paramRange (scParam x) (scArg x % 2 ^ 64) && scZero x 8 true) true = st →
      exec (.paramSet x) s = .next { s with cloche := { s.cloche with nonce := none, resp := [BitVec.ofNat 8 st] } }) ∧
    (s.cloche.signedStatus x 0x11 true false (scZero x 8 true) true = st → exec (.labelSet x) s = .next { s with cloche := { s.cloche with nonce := none, resp := [BitVec.ofNat 8 st] } }) ∧
    (s.cloche.signedStatus x 0x12 true true (scZero x 57 false) true = st → exec (.keySet x) s = .next { s with cloche := { s.cloche with nonce := none, resp := [BitVec.ofNat 8 st] } }) ∧
    (s.cloche.signedStatus x 0x13 false true (scZero x 0 false) false = st → exec (.archive x) s = .next { s with cloche := { s.cloche with nonce := none, resp := [BitVec.ofNat 8 st] } }) ∧
    (∀ b, s.cloche.signedStatus x 0x14 false true (b && scZero x 0 false) true = st →
      exec (.reseal x b) s = .next { s with cloche := { s.cloche with nonce := none, loopOpen := !b, resp := [BitVec.ofNat 8 st] } }) ∧
    (s.cloche.signedStatus x 0x21 false true (scZero x 40 false) true = st → exec (.fwCommit x) s = .next { s with cloche := { s.cloche with nonce := none, resp := [BitVec.ofNat 8 st] } })) ∧
  (∀ (s : State) (x : BitVec 2080) (p v : Nat), Claims.signedOk s x 0x10 8 false true true → scParam x = p → scArg x % 2 ^ 64 = v → paramRange p v = true →
    ∃ c d : Cloche, exec (.paramSet x) s = .next { s with cloche := { d with paramChanged := true, resp := [0#8] } } ∧
      Claims.logged { s.cloche with nonce := none } c 1 2 p (s.cloche.paramOld p) v (keyTag (scKey x)) ∧
      d = { c with gain := d.gain, offset := d.offset, idle := d.idle } ∧
      (p < 20 → d.gain = Tbl.put c.gain p v ∧ d.offset = c.offset ∧ d.idle = c.idle) ∧
      (20 ≤ p → p < 0x200 → d.offset = Tbl.put c.offset (p - 0x100) (toSigned 64 v) ∧ d.gain = c.gain ∧ d.idle = c.idle) ∧
      (0x200 ≤ p → d.idle = Tbl.put c.idle (p - 0x200) v ∧ d.gain = c.gain ∧ d.offset = c.offset)) ∧
  (∀ (s : State) (x : BitVec 2080), Claims.signedOk s x 0x11 8 true false true → ∃ c d : Cloche, exec (.labelSet x) s = .next { s with cloche := { d with resp := [0#8] } } ∧
      Claims.logged { s.cloche with nonce := none } c 2 1 (scParam x) (s.cloche.set (scParam x)).label (scArg x % 2 ^ 64) (keyTag (scKey x)) ∧
      d = { c with sets := d.sets } ∧ d.set (scParam x) = { c.set (scParam x) with label := scArg x % 2 ^ 64 } ∧ ∀ j, j ≠ scParam x → d.set j = c.set j) ∧
  (∀ (s : State) (x : BitVec 2080), Claims.signedOk s x 0x12 57 true true false → ∃ c : Cloche, exec (.keySet x) s = .next { s with cloche := { c with opKey := scArg x % 2 ^ 456, resp := [0#8] } } ∧
      Claims.logged { s.cloche with nonce := none } c 3 (scSigner x) 0 s.cloche.opKey (scArg x % 2 ^ 456) (keyTag (scArg x % 2 ^ 456))) ∧
  (∀ (s : State) (x : BitVec 2080), s.cloche.on = true → s.cloche.nonce = some (scNonce x) → scCmd x = 0x13 → scZero x 0 false = true → scSigner x = 2 → keyDigest (scKey x) = s.cloche.authDigest →
    Config.sigOk (keyDigest (scKey x)) (toBytes 8 s.cloche.uid ++ toBytes 0x92 x.toNat) (scSig x) = true →
    ∃ c : Cloche, exec (.archive x) s = .next { s with cloche := { c with resp := [0#8] } } ∧
      Claims.logged { s.cloche with nonce := none, log := [], logGen := (s.cloche.logGen + 1) % 2 ^ 32, overflow := false } c 4 2 0 0 0 (keyTag (scKey x))) ∧
  (∀ (s : State) (x : BitVec 2080), Claims.signedOk s x 0x14 0 false true false → ∃ c : Cloche,
    exec (.reseal x true) s = .next { s with cloche := { c with sealBroken := false, resp := [0#8] } } ∧
    Claims.logged { s.cloche with nonce := none, loopOpen := false } c 5 2 0 0 0 (keyTag (scKey x))) ∧
  (∀ (s : State) (x : BitVec 2080) (len ver : Nat), Claims.signedOk s x 0x21 40 false true false → bits (scArg x) 256 32 = ver → bits (scArg x) 288 32 = len →
    (shake256 ((List.range len).map (memGet s.cloche.half)) ≠ scArg x % 2 ^ 256 → exec (.fwCommit x) s = .next { s with cloche := { s.cloche with nonce := none, resp := [1#8] } }) ∧
    (shake256 ((List.range len).map (memGet s.cloche.half)) = scArg x % 2 ^ 256 → 255 ≤ s.cloche.fwCount → exec (.fwCommit x) s = .next { s with cloche := { s.cloche with nonce := none, resp := [7#8] } }) ∧
    (shake256 ((List.range len).map (memGet s.cloche.half)) = scArg x % 2 ^ 256 → s.cloche.fwCount < 255 → ∃ c d : Cloche, Claims.logged { s.cloche with nonce := none, fwCount := s.cloche.fwCount + 1 } c 7 2 0 s.cloche.fw ver (keyTag (scKey x)) ∧
      d = Cloche.signRecord { c with fwChange := true } c.sets ∧ d.fwCount = s.cloche.fwCount + 1 ∧ d.sets = s.cloche.sets ∧
      exec (.fwCommit x) s = .next { s with cloche := { (Cloche.restart { d with otherFw := s.cloche.fw, fw := ver, half := [] } 3) with resp := [0#8] } })) ∧
  (∀ (s : State) (x : BitVec 2080) (b : Bool) (a : BitVec 7) (o : BitVec 32) (l : BitVec 16) (no : BitVec 64) (n m : BitVec 16) (data : List Byte), s.cloche.on = false →
    ∀ c ∈ [Instr.paramSet x, .labelSet x, .keySet x, .archive x, .fwCommit x, .reseal x b, .clIdentify, .nonceGet, .sealBroken, .recordSign, .clDynamicAddress b a,
      .certRead o l, .recordRead no, .snapshotRead no n m, .liveRead l, .logRead l, .fwChunk o data], exec c s = .next s)

/-- Only one SPDM responder has changed; the others are as before. -/
def Claims.spdmOnly (s t : State) (ld : Nat) : Prop :=
  t = { s with sec := { s.sec with spdm := t.sec.spdm } } ∧ ∀ j, j ≠ ld → t.spdm j = s.spdm j

/-- SPDM, IDE_KM and a life-cycle transition over JTAG (R499 to R502, R506; message codes PRESUMED from SPDM 1.3, log 27; keys, digests and
signatures uninterpreted, log 23). -/
def Obligations.SecurityCommands : Prop :=
  (∀ (s : State) (k : Nat) (f : Spdm → Spdm), Claims.spdmOnly s (s.updSpdm k f) k ∧ (s.updSpdm k f).spdm k = f (s.spdm k)) ∧
  (∀ (s : State) (k c : Nat) (bs : List Byte), s.spdmAnswer k c bs = s.updSpdm k (fun r => { r with resp := (c, bs) })) ∧
  (∀ (s : State) (k : Nat), s.doe k = true ↔ s.live = true ∧ s.cxl.state = 2 ∧ s.cxl.cfgReady = true ∧ s.devState ≠ .recovery ∧ (k = 0 ∨ s.cxl.mld = true)) ∧
  (∀ (s : State) (ld : Fin 17) (c : Instr) (slot off len index : Nat) (signed : Bool) (nonce : BitVec 256) (a : SpdmAlgs) (sid : BitVec 16) (share : BitVec 768)
      (id : BitVec 32) (verify : BitVec 512) (sub : Fin 8) (set : Fin 2) (key : BitVec 256), s.doe ld.val = false →
    c ∈ [Instr.getVersion ld, .getCapabilities ld, .negotiateAlgorithms ld a, .getDigests ld, .getCertificate ld slot off len, .challenge ld slot nonce,
      .getMeasurements ld index signed nonce, .keyExchange ld slot sid share, .finish ld id verify, .heartbeat ld id, .keyUpdate ld id, .endSession ld id, .ideKmQuery ld id,
      .keyProg ld id sub set key, .kSetGo ld id sub set, .kSetStop ld id sub set] → exec c s = .next s) ∧
  (∀ (s : State) (ld : Fin 17), s.doe ld.val = true →
    exec (.getVersion ld) s = .next ((s.updSpdm ld.val (fun r => { r with stage := 1 })).spdmAnswer ld.val 0x04 (toBytes 1 1 ++ toBytes 2 0x1300))) ∧
  (∀ (s : State) (ld : Fin 17), s.doe ld.val = true → 1 ≤ (s.spdm ld.val).stage → 
    exec (.getCapabilities ld) s = .next ((s.updSpdm ld.val (fun r => { r with stage := Nat.max 2 r.stage })).spdmAnswer ld.val 0x61 (toBytes 4 spdmCaps))) ∧
  (∀ (s : State) (ld : Fin 17) (a : SpdmAlgs), s.doe ld.val = true → 2 ≤ (s.spdm ld.val).stage →
    (a.ed448 = true → a.sha3 = true → 
      exec (.negotiateAlgorithms ld a) s = .next ((s.updSpdm ld.val (fun r => { r with stage := 3 })).spdmAnswer ld.val 0x63 [1#8, 1#8])) ∧
    (a.ed448 = false ∨ a.sha3 = false → exec (.negotiateAlgorithms ld a) s = .next (s.spdmAnswer ld.val 0x7F (toBytes 2 0x01)))) ∧
  (∀ (s : State) (ld : Fin 17) (c : Instr) (n slot off len index : Nat) (signed : Bool) (nonce : BitVec 256) (a : SpdmAlgs) (sid : BitVec 16) (share : BitVec 768)
      (id : BitVec 32) (verify : BitVec 512), s.doe ld.val = true → (s.spdm ld.val).stage < n →
    (c, n) ∈ [(.getCapabilities ld, 1), (.negotiateAlgorithms ld a, 2), (.getDigests ld, 3), (.getCertificate ld slot off len, 3), (.challenge ld slot nonce, 3),
      (.getMeasurements ld index signed nonce, 3), (.keyExchange ld slot sid share, 3), (.finish ld id verify, 3)] →
    exec c s = .next (s.spdmAnswer ld.val 0x7F (toBytes 2 0x04))) ∧
  (∀ (s : State) (ld : Fin 17) (c : Instr) (slot off len : Nat) (nonce : BitVec 256) (sid : BitVec 16) (share : BitVec 768),
    s.doe ld.val = true → 3 ≤ (s.spdm ld.val).stage → s.attests = false →
    c ∈ [Instr.getDigests ld, .getCertificate ld slot off len, .challenge ld slot nonce, .keyExchange ld slot sid share] →
    exec c s = .next (s.spdmAnswer ld.val 0x7F (toBytes 2 0x07))) ∧
  (∀ (s : State) (ld : Fin 17) (slot off len : Nat) (nonce : BitVec 256) (dig : List Byte), s.doe ld.val = true → 3 ≤ (s.spdm ld.val).stage → s.attests = true →
    toBytes 64 (sha3_512 s.certChain) = dig →
    (exec (.getDigests ld) s = .next (s.spdmAnswer ld.val 0x01 dig)) ∧
    (slot = 0 → off ≤ s.certChain.length → exec (.getCertificate ld slot off len) s = .next (s.spdmAnswer ld.val 0x02 ((s.certChain.drop off).take len))) ∧
    (slot ≠ 0 ∨ s.certChain.length < off → exec (.getCertificate ld slot off len) s = .next (s.spdmAnswer ld.val 0x7F (toBytes 2 0x01))) ∧
    (slot = 0 → exec (.challenge ld slot nonce) s = .next (s.spdmAnswer ld.val 0x03 (toBytes 32 nonce.toNat ++ dig ++ (Config.sign s.sec.alias_ (toBytes 32 nonce.toNat ++ dig)).take 114))) ∧
    (slot ≠ 0 → exec (.challenge ld slot nonce) s = .next (s.spdmAnswer ld.val 0x7F (toBytes 2 0x01)))) ∧
  (∀ (s : State) (ld : Fin 17) (index : Nat) (signed : Bool) (nonce : BitVec 256) (b : List Byte), s.doe ld.val = true → 3 ≤ (s.spdm ld.val).stage →
    (if index = 0 then [5#8] else if index = 0xFF then (rangeFrom 1 5).flatMap (fun i => BitVec.ofNat 8 i :: s.measurement i) else BitVec.ofNat 8 index :: s.measurement index) = b →
    (5 < index → index ≠ 0xFF → exec (.getMeasurements ld index signed nonce) s = .next (s.spdmAnswer ld.val 0x7F (toBytes 2 0x01))) ∧
    ((index ≤ 5 ∨ index = 0xFF) → signed = true → s.attests = false → exec (.getMeasurements ld index signed nonce) s = .next (s.spdmAnswer ld.val 0x7F (toBytes 2 0x07))) ∧
    ((index ≤ 5 ∨ index = 0xFF) → signed = false → exec (.getMeasurements ld index signed nonce) s = .next (s.spdmAnswer ld.val 0x60 b)) ∧
    ((index ≤ 5 ∨ index = 0xFF) → signed = true → s.attests = true → exec (.getMeasurements ld index signed nonce) s = .next (s.spdmAnswer ld.val 0x60 (b ++ toBytes 32 nonce.toNat ++ (Config.sign s.sec.alias_ (b ++ toBytes 32 nonce.toNat)).take 114)))) ∧
  (∀ (s : State) (c : CfgImg), s.cfg.current = some c → s.measurement 5 = toBytes 32 (shake256 c.bytes)) ∧
  (∀ (s : State) (i : Nat), 1 ≤ i → i ≤ 4 → s.measurement i = toBytes 32 (Tbl.getD s.sec.mr (i - 1) 0)) ∧
  (∀ (s : State) (ld : Fin 17) (slot : Nat) (sid : BitVec 16) (share : BitVec 768), s.doe ld.val = true → 3 ≤ (s.spdm ld.val).stage → s.attests = true →
    (slot ≠ 0 → exec (.keyExchange ld slot sid share) s = .next (s.spdmAnswer ld.val 0x7F (toBytes 2 0x01))) ∧
    (slot = 0 → (∀ h, 1 ≤ h → h ≤ 4 → ∃ x ∈ (s.spdm ld.val).sessions, x.sid / 65536 = h) → exec (.keyExchange ld slot sid share) s = .next (s.spdmAnswer ld.val 0x7F (toBytes 2 0x0A))) ∧
    (∀ h, slot = 0 → 1 ≤ h → h ≤ 4 → (∀ x ∈ (s.spdm ld.val).sessions, x.sid / 65536 ≠ h) → (∀ k, 1 ≤ k → k < h → ∃ x ∈ (s.spdm ld.val).sessions, x.sid / 65536 = k) →
      ∃ sec m, sec = Config.spdmKey [sid.toNat + 65536 * h, share.toNat, s.fresh] ∧ m = toBytes 2 h ++ toBytes 64 sec ∧
        exec (.keyExchange ld slot sid share) s = .next ((State.updSpdm { s with fresh := s.fresh + 1 } ld.val (fun r => { r with sessions := { sid := sid.toNat + 65536 * h, secret := sec } :: r.sessions })).spdmAnswer
          ld.val 0x64 (m ++ (Config.sign s.sec.alias_ m).take 114)))) ∧
  (∀ (s : State) (ld : Fin 17) (sid : BitVec 32) (verify : BitVec 512), s.doe ld.val = true → 3 ≤ (s.spdm ld.val).stage →
    ((s.spdm ld.val).session? sid.toNat = none → exec (.finish ld sid verify) s = .next (s.spdmAnswer ld.val 0x7F (toBytes 2 0x02))) ∧
    (∀ x, (s.spdm ld.val).session? sid.toNat = some x → x.up = true → exec (.finish ld sid verify) s = .next (s.spdmAnswer ld.val 0x7F (toBytes 2 0x04))) ∧
    (∀ x, (s.spdm ld.val).session? sid.toNat = some x → x.up = false → verify.toNat ≠ Config.spdmKey [x.secret, 1] % 2 ^ 512 →
      exec (.finish ld sid verify) s = .next ((s.updSpdm ld.val (fun r => { r with sessions := r.sessions.filter (fun x => x.sid ≠ sid.toNat) })).spdmAnswer ld.val 0x7F (toBytes 2 0x06))) ∧
    (∀ x, (s.spdm ld.val).session? sid.toNat = some x → x.up = false → verify.toNat = Config.spdmKey [x.secret, 1] % 2 ^ 512 →
      exec (.finish ld sid verify) s = .next (((s.updSpdm ld.val (fun r => { r with sessions := r.sessions.map (fun x => if x.sid = sid.toNat then { x with up := true } else x) })).spdmAnswer ld.val 0x65 []).devEvent
        0xC3 ld.val sid.toNat 1))) ∧
  (∀ (s : State) (ld : Fin 17) (sid : BitVec 32) (c : Instr) (sub : Fin 8) (set : Fin 2) (key : BitVec 256), s.doe ld.val = true →
    c ∈ [Instr.heartbeat ld sid, .keyUpdate ld sid, .endSession ld sid, .ideKmQuery ld sid, .keyProg ld sid sub set key, .kSetGo ld sid sub set, .kSetStop ld sid sub set] →
    ((s.spdm ld.val).session? sid.toNat = none → exec c s = .next (s.spdmAnswer ld.val 0x7F (toBytes 2 0x02))) ∧
    (∀ x, (s.spdm ld.val).session? sid.toNat = some x → x.up = false → exec c s = .next (s.spdmAnswer ld.val 0x7F (toBytes 2 0x04)))) ∧
  (∀ (s : State) (ld : Fin 17) (sid : BitVec 32) (x : Session), s.doe ld.val = true → (s.spdm ld.val).session? sid.toNat = some x → x.up = true →
    (exec (.heartbeat ld sid) s = .next (s.spdmAnswer ld.val 0x68 [])) ∧
    exec (.keyUpdate ld sid) s = .next ((s.updSpdm ld.val (fun r => { r with sessions := r.sessions.map (fun y => if y.sid = sid.toNat then { y with updates := y.updates + 1, secret := Config.spdmKey [x.secret, 2] } else y) })).spdmAnswer ld.val 0x69 []) ∧
    exec (.endSession ld sid) s = .next (((s.updSpdm ld.val (fun r => { r with sessions := r.sessions.filter (fun x => x.sid ≠ sid.toNat) })).spdmAnswer ld.val 0x6C []).devEvent 0xC3 ld.val sid.toNat 0)) ∧
  (∀ (s : State) (ld : Fin 17) (sid : BitVec 32) (x : Session) (c : Instr) (sub : Fin 8) (set : Fin 2) (key : BitVec 256), s.doe ld.val = true →
    (s.spdm ld.val).session? sid.toNat = some x → x.up = true → ld.val ≠ (if s.cxl.mld = true then 16 else 0) →
    c ∈ [Instr.ideKmQuery ld sid, .keyProg ld sid sub set key, .kSetGo ld sid sub set, .kSetStop ld sid sub set] →
    exec c s = .next (s.spdmAnswer ld.val 0x7F (toBytes 2 0x07))) ∧
  (∀ (s : State) (ld : Fin 17) (sid : BitVec 32) (x : Session) (sub : Fin 8) (set : Fin 2) (key : BitVec 256) (n : Nat), s.doe ld.val = true →
    (s.spdm ld.val).session? sid.toNat = some x → x.up = true → ld.val = (if s.cxl.mld = true then 16 else 0) → 2 * sub.val + set.val = n →
    exec (.ideKmQuery ld sid) s = .next (s.spdmAnswer ld.val 0x7E ((List.range 8).map (fun k =>
      BitVec.ofNat 8 (b2n (s.sec.ideKeys.any (fun e => e.1 = 2 * k)) + 2 * b2n (s.sec.ideKeys.any (fun e => e.1 = 2 * k + 1)) +
        4 * ((Tbl.find? s.sec.ideSet k).map (1 + ·)).getD 0)))) ∧
    exec (.keyProg ld sid sub set key) s = .next (State.spdmAnswer { s with sec := { s.sec with ideKeys := Tbl.put s.sec.ideKeys n key.toNat } } ld.val 0x7E [2#8]) ∧
    (Tbl.find? s.sec.ideKeys n = none → exec (.kSetGo ld sid sub set) s = .next (s.spdmAnswer ld.val 0x7F (toBytes 2 0x01))) ∧
    (Tbl.find? s.sec.ideKeys n ≠ none →
      exec (.kSetGo ld sid sub set) s = .next ((State.spdmAnswer { s with sec := { s.sec with ideSet := Tbl.put s.sec.ideSet sub.val set.val } } ld.val 0x7E [4#8]).devEvent 0xC4 sub.val set.val 0)) ∧
    exec (.kSetStop ld sid sub set) s = .next (State.spdmAnswer { s with sec := { s.sec with ideKeys := Tbl.del s.sec.ideKeys n, ideSet := if Tbl.find? s.sec.ideSet sub.val = some set.val then Tbl.del s.sec.ideSet sub.val else s.sec.ideSet } } ld.val 0x7E [4#8])) ∧
  (∀ (s : State) (target : BitVec 8) (token : BitVec 1536), (s.boot.good = false ∨ s.boot.released = false) → exec (.jtagLcTransition target token) s = .next s) ∧
  (∀ (s : State) (target : BitVec 8) (token : BitVec 1536) (k lc : Nat), s.boot.good = true → s.boot.released = true → target.toNat = k → s.sec.otp.lc = lc →
    ((k = 6 ∧ lc ≠ 6) ∨ (lc = 1 ∧ k = 2) ∨ (lc = 2 ∧ k = 3 ∧ s.tokenOk 3 token = true ∧ s.sec.otp.keysDone = true) → ∃ u t, u = { s with sec := { s.sec with otp := { s.sec.otp with lc := k } } } ∧
      exec (.jtagLcTransition target token) s = .next t ∧ t = u.wipe.deviceReset 3 true ∧ t.sec.otp.lc = k) ∧
    (¬((k = 6 ∧ lc ≠ 6) ∨ (lc = 1 ∧ k = 2) ∨ (lc = 2 ∧ k = 3 ∧ s.tokenOk 3 token = true ∧ s.sec.otp.keysDone = true)) →
      exec (.jtagLcTransition target token) s = .next s))

/-- What a change of dividers does first (R118, R512): every running command's time so far is counted at the divider it had, and starts
again from now. -/
def Claims.accounted (s u : State) : Prop :=
  u = { s with tiles := u.tiles } ∧ (∀ j, (s.tile j).cur = none → u.tile j = s.tile j) ∧
  ∀ j c, j < 48 → (s.tile j).cur = some c → u.tile j = { s.tile j with cur := some { c with run7 := c.run7 + (s.ltu - c.start) * rate7 (s.divOf j), start := s.ltu } }

/-- Only one tile's power registers have changed. -/
def Claims.tpwrOnly (s t : State) (k : Nat) : Prop :=
  t = { s with pwr := { s.pwr with tiles := t.pwr.tiles } } ∧ ∀ j, j ≠ k → t.tpwr j = s.tpwr j

/-- The tile of compute die `d` that AGE_SCHEDULER would have swept (R525, R527): of its tiles without work that are due, the first with
an AGE_ALARM, else the first of those swept longest ago. -/
def Claims.sweepPick (s : State) (d : Nat) : Option Nat :=
  let due := ((List.range 12).map (tileOfLocal d)).filter (fun t => (s.tile t).cur.isNone && (s.tile t).queue.isEmpty && ((s.tpwr t).alarm || decide (12 * hour ≤ s.ltu - (s.tpwr t).sweptAt)))
  match due.find? (fun t => (s.tpwr t).alarm) with
  | some t => some t
  | none => due.find? (fun t => due.all (fun k => decide ((s.tpwr t).sweptAt ≤ (s.tpwr k).sweptAt)))

/-- Power limits, power states, dividers, voltages and timers (R509 to R520, R525 to R527, R532 to R535; what RETAIN and OFF leave of the
accumulators is a free value, log 25). -/
def Obligations.PowerCommands : Prop :=
  (∀ (s : State) (f : State → State), ∃ u, Claims.accounted s u ∧ s.redivide f = f u) ∧
  (∀ (s : State) (k : Nat) (f : TilePwr → TilePwr), Claims.tpwrOnly s (s.updTpwr k f) k ∧ (s.updTpwr k f).tpwr k = f (s.tpwr k)) ∧
  (∀ (s : State) (c k : Nat), s.clampEvent c k = s.devEvent 0xE0 c k s.pwr.avg100us) ∧
  (∀ (s : State) (a b c : Nat) (v : BitVec 32) (k : Fin 48) (q : BitVec 3) (w : BitVec 16) (d : List (List Nat)) (slack : List Int) (site : Fin 32) (temp : Int), s.live = false →
    ∀ i ∈ [Instr.powerReport a b c, .clampClr, .pwrCapWrite v, .tilePwrReq k q, .tileWake k, .tileDivWrite k v, .tileVsetWrite k v, .ltuBootWrite w, .stageSplitWrite v,
      .syncInEdge, .pdmSweep k, .sweepDone k d, .ageScheduler, .insituSlackCheck k slack, .thermalSample site temp], exec i s = .next s) ∧
  (∀ (s : State) (a b c : Nat), s.live = true →
    (a ≤ 2400000 ∨ s.pwr.clampPower = true → exec (.powerReport a b c) s = .next { s with pwr := { s.pwr with avg100us := a, avg1ms := b, avg1s := c } }) ∧
    (2400000 < a → s.pwr.clampPower = false → exec (.powerReport a b c) s =
      .next (((State.redivide { s with pwr := { s.pwr with avg100us := a, avg1ms := b, avg1s := c } } (fun u => { u with pwr := { u.pwr with clampPower := true } })).raise 0x3C1).clampEvent 1 0xFF))) ∧
  (∀ s : State, s.live = true →
    (s.pwr.clampPower = true → s.pwr.clampVin = false → s.pwr.clampTherm = [] → s.pwr.avg1ms < 1000 * s.pwr.pcap →
      exec .clampClr s = .next ((s.redivide (fun u => { u with pwr := { u.pwr with clampPower := false } })).clampEvent 0 0xFF)) ∧
    (s.pwr.clampPower = false ∨ s.pwr.clampVin = true ∨ s.pwr.clampTherm ≠ [] ∨ 1000 * s.pwr.pcap ≤ s.pwr.avg1ms → exec .clampClr s = .next s)) ∧
  (∀ (s : State) (mv : Nat),
    (s.boot.good = false → exec (.vinRange mv) s = .next s) ∧
    (s.boot.good = true → mv < 44000 ∨ 64000 < mv → exec (.vinRange mv) s = .next (s.trip 0)) ∧
    (44000 ≤ mv → mv ≤ 64000 → (s.live = false ∨ s.pwr.clampVin = decide (mv < 48000 ∨ 60000 < mv)) → exec (.vinRange mv) s = .next s) ∧
    ((44000 ≤ mv ∧ mv < 48000) ∨ (60000 < mv ∧ mv ≤ 64000) → s.live = true → s.pwr.clampVin = false →
      exec (.vinRange mv) s = .next (((s.redivide (fun u => { u with pwr := { u.pwr with clampVin := true } })).raise 0x3C0).clampEvent 2 0xFF)) ∧
    (48000 ≤ mv → mv ≤ 60000 → s.live = true → s.pwr.clampVin = true →
      exec (.vinRange mv) s = .next ((s.redivide (fun u => { u with pwr := { u.pwr with clampVin := false } })).clampEvent 0 0xFF))) ∧
  (∀ (s : State) (v : BitVec 32) (w : Nat), s.live = true → bits v.toNat 0 12 = w →
    exec (.pwrCapWrite v) s = .next (if 600 ≤ w ∧ w ≤ 2100 then { s with pwr := { s.pwr with pcap := w } } else s)) ∧
  (∀ (s : State) (k : Fin 48) (req : BitVec 3), s.live = true →
    ((s.tile k.val).cur.isSome = true ∨ (s.tile k.val).queue ≠ [] ∨ 3 < req.toNat ∨ s.cfg.dev.personality = 3 ∨ (s.tpwr k.val).sweep = true →
      exec (.tilePwrReq k req) s = .next s) ∧
    ((s.tile k.val).cur = none → (s.tile k.val).queue = [] → req.toNat ≤ 3 → s.cfg.dev.personality ≠ 3 → (s.tpwr k.val).sweep = false →
      ∃ t, exec (.tilePwrReq k req) s = .next t ∧ t = s.setTpwr k.val req.toNat ∧ t = { s with pwr := { s.pwr with tiles := t.pwr.tiles }, tiles := t.tiles, mem := t.mem, fresh := t.fresh } ∧
        (t.tpwr k.val).req = req.toNat ∧
        (t.tpwr k.val).st = (if req.toNat = 0 then .run else if req.toNat = 1 then .idle else if req.toNat = 2 then .retain else .off) ∧
        (∀ j, j ≠ k.val → t.tpwr j = s.tpwr j ∧ t.tile j = s.tile j) ∧
        (∀ a, req.toNat ≠ 3 ∨ a < tileBase k.val ∨ tileBase k.val + scratchBytes k.val ≤ a → memGet t.mem a = memGet s.mem a) ∧
        ((s.tpwr k.val).st = .off → req.toNat ≠ 3 → (t.tile k.val).resMib = 0 ∧ (t.tile k.val).workValid = false) ∧
        (req.toNat < 2 → (s.tpwr k.val).st = .retain → (t.tpwr k.val).wakeAt = some (s.ltu + 2000) ∧ t.tile k.val = s.tile k.val) ∧
        (req.toNat < 2 → (s.tpwr k.val).st = .off → (t.tpwr k.val).wakeAt = some (s.ltu + 20000)))) ∧
  (∀ (s : State) (k : Fin 48), s.live = true →
    ((s.tile k.val).queue = [] ∨ (s.tpwr k.val).st = .run ∨ (s.tpwr k.val).st = .idle → exec (.tileWake k) s = .next s) ∧
    ((s.tile k.val).queue ≠ [] → (s.tpwr k.val).st = .retain → exec (.tileWake k) s = .next (s.updTpwr k.val (fun p => { p with st := .run, req := 0, wakeAt := some (s.ltu + 2000) }))) ∧
    ((s.tile k.val).queue ≠ [] → (s.tpwr k.val).st = .off →
      exec (.tileWake k) s = .next ((s.updTpwr k.val (fun p => { p with st := .run, req := 0, wakeAt := some (s.ltu + 20000) })).updTile k.val (fun x => { x with resMib := 0, workValid := false })))) ∧
  (∀ (s : State) (k : Fin 48) (v : BitVec 32) (fw age : Nat), s.live = true → bits v.toNat 4 3 = fw → bits v.toNat 0 3 = age →
    exec (.tileDivWrite k v) s = .next (s.redivide (fun u => u.updTpwr k.val (fun p => { p with fwDiv := if fw = 6 ∨ fw = 7 ∨ fw = 8 then fw else p.fwDiv, ageDiv := if age = 6 ∨ age = 7 ∨ age = 8 then age else p.ageDiv })))) ∧
  (∀ (s : State) (k : Fin 48) (v : BitVec 32) (mv : Nat), s.live = true → bits v.toNat 0 12 = mv →
    (mv < 650 ∨ 850 < mv ∨ mv % 5 ≠ 0 → exec (.tileVsetWrite k v) s = .next s) ∧
    (650 ≤ mv → mv ≤ 850 → mv % 5 = 0 →
      exec (.tileVsetWrite k v) s = .next (s.updTpwr k.val (fun p => { p with vFrom := p.vdd s.ltu, vAt := s.ltu, vset := mv, vOn := true })))) ∧
  (∀ (s : State) (k : Fin 64) (c : Cmp), s.cmp k.val = c →
    (s.boot.good = false ∨ s.boot.released = false ∨ c.enable = false ∨ s.ltu < c.mtch → exec (.comparatorFire k) s = .next s) ∧
    (s.boot.good = true → s.boot.released = true → c.enable = true → c.mtch ≤ s.ltu → ∃ u, u = { s with pwr := { s.pwr with cmps := u.pwr.cmps, syncOut := if bit c.action 1 then s.ltu + 10 else s.pwr.syncOut } } ∧
      u.cmp k.val = (if c.period = 0 then { c with fired := true, enable := false } else { c with fired := true, mtch := (c.mtch + c.period) % 2 ^ 64 }) ∧
      (∀ j, j ≠ k.val → u.cmp j = s.cmp j) ∧ (bit c.action 0 = false ∨ s.live = false ∨ c.owner = none → exec (.comparatorFire k) s = .next u) ∧
      (∀ ld, bit c.action 0 = true → s.live = true → c.owner = some ld → exec (.comparatorFire k) s = .next (u.eventTo ld (eventRaw 0xE5 0xFFFF k.val 0 s.ltu 0))))) ∧
  (∀ (s : State) (v : BitVec 16), s.live = true →
    exec (.ltuBootWrite v) s = .next (if s.pwr.bootSet = true then s else { s with pwr := { s.pwr with boot := v.toNat, bootSet := true } })) ∧
  (∀ (s : State) (v : BitVec 32) (u : Nat), s.live = true → bits v.toNat 0 5 = u →
    (s.pwr.splitLocked = true ∨ 16 < u → exec (.stageSplitWrite v) s = .next s) ∧
    (s.pwr.splitLocked = false → u ≤ 16 → ∃ t, exec (.stageSplitWrite v) s = .next t ∧ t = s.splitStaging u ∧
      t = { s with pwr := { s.pwr with compUnits := u, dmaUnits := 256 - 4 * u, splitLocked := true }, comp := t.comp, fab := { s.fab with landSlots := Nat.min s.fab.landSlots (256 - 4 * u), landFree := Nat.min s.fab.landSlots (256 - 4 * u) } } ∧
      (∀ c, c < 4 → t.compOf c = { s.compOf c with share := u }) ∧ ∀ c, 4 ≤ c → t.compOf c = s.compOf c)) ∧
  (∀ s : State, s.live = true →
    (s.sec.otp.lc = 2 → s.fcl.injectSync = none → exec .syncInEdge s = .next s) ∧
    (∀ src w, s.sec.otp.lc = 2 → s.fcl.injectSync = some (src, w) → exec .syncInEdge s = .next (State.injectPair { s with fcl := { s.fcl with injectSync := none } } src w)) ∧
    (s.sec.otp.lc ≠ 2 → ∃ t, exec .syncInEdge s = .next t ∧ t = s.syncGates ∧ t = { s with fab := t.fab } ∧ ∀ lk, lk < 36 → t.link lk =
      if (s.link lk).gates.pending = true ∧ (s.link lk).gates.sync = true ∧ (s.link lk).gates.adminBase ≤ s.ltu ∧ (s.link lk).gates.takeAt = none
      then { s.link lk with gates := { (s.link lk).gates with takeAt := some (s.ltu + 1) } } else s.link lk)) ∧
  (∀ (s : State) (k : Fin 48), s.live = true →
    ((s.tile k.val).cur.isSome = true ∨ (s.tile k.val).queue ≠ [] ∨ (∃ j, j < 48 ∧ dieOfTile j = dieOfTile k.val ∧ (s.tpwr j).sweep = true) →
      exec (.pdmSweep k) s = .next s) ∧
    ((s.tile k.val).cur = none → (s.tile k.val).queue = [] → (∀ j, j < 48 → dieOfTile j = dieOfTile k.val → (s.tpwr j).sweep = false) →
      exec (.pdmSweep k) s = .next (s.updTpwr k.val (fun p => { p with sweep := true })))) ∧
  (∀ (s : State) (k : Fin 48) (d : List (List Nat)), s.live = true →
    ((s.tpwr k.val).sweep = false → exec (.sweepDone k d) s = .next s) ∧
    ((s.tpwr k.val).sweep = true → ∃ u, u = s.updTpwr k.val (fun p => { p with delays := d, sweep := false, sweptAt := s.ltu, leftOut := false, alarm := false }) ∧
      (planOf d = none → exec (.sweepDone k d) s = .next ((u.fence 1 k.val).devEvent 0xE4 k.val 8 (ofInt 32 ((periodPs 8 : Int) - (worstAt d 8 : Int))))) ∧
      (∀ pl, planOf d = some pl → ∃ w, w = u.updTpwr k.val (fun p => { p with plan := pl, v0 := if p.v0 = 0 then pl.1 else p.v0 }) ∧
        (pl = (s.tpwr k.val).plan → exec (.sweepDone k d) s = .next w) ∧
        (pl ≠ (s.tpwr k.val).plan → exec (.sweepDone k d) s = .next ((w.updTpwr k.val (fun p => { p with next := some pl })).devEvent 0xE3 k.val (pl.1 + pl.2 * 65536)
          (marginUsed (if (s.tpwr k.val).v0 = 0 then pl.1 else (s.tpwr k.val).v0) pl)))))) ∧
  (∀ s : State, s.live = true → ∃ t, exec .ageScheduler s = .next t ∧ t = { s with pwr := { s.pwr with tiles := t.pwr.tiles } } ∧
    ∀ k, k < 48 → t.tpwr k = { s.tpwr k with sweep := (t.tpwr k).sweep, leftOut := (s.tpwr k).leftOut || (!(t.tpwr k).sweep && decide (23 * hour ≤ s.ltu - (s.tpwr k).sweptAt)) } ∧
      (t.tpwr k).sweep = ((s.tpwr k).sweep || (decide (Claims.sweepPick s (dieOfTile k) = some k) && !(List.range 48).any (fun j => decide (dieOfTile j = dieOfTile k) && (s.tpwr j).sweep)))) ∧
  (∀ (s : State) (k : Fin 48) (slack : List Int), s.live = true →
    ((s.tpwr k.val).insitu = false ∨ (s.tpwr k.val).st = .off ∨ (s.tpwr k.val).st = .retain → exec (.insituSlackCheck k slack) s = .next s) ∧
    ((s.tpwr k.val).insitu = true → ((s.tpwr k.val).st = .run ∨ (s.tpwr k.val).st = .idle) → ∃ u, u = s.updTpwr k.val (fun p => { p with slack := slack.take 16 }) ∧
      ((∀ x ∈ slack.take 16, 20 ≤ x) → exec (.insituSlackCheck k slack) s = .next u) ∧
      ((∃ x ∈ slack.take 16, x < 20) → exec (.insituSlackCheck k slack) s = .next ((u.updTpwr k.val (fun p => { p with alarm := true })).raise (0x3D0 + k.val))))) ∧
  (∀ (s : State) (site : Fin 32) (temp : Int) (lvl was : Nat), s.live = true → thermLevel site.val (s.therm site.val).level temp = lvl → (s.therm site.val).level = was →
    (site.val = 7 → exec (.thermalSample site temp) s = .next s) ∧
    (site.val ≠ 7 → ∃ u v w, u = { s with pwr := { s.pwr with therm := u.pwr.therm } } ∧ u.therm site.val = ⟨lvl, temp⟩ ∧ (∀ j, j ≠ site.val → u.therm j = s.therm j) ∧
      v = (if was = 0 then (u.raise 0x3C3).redivide (fun x => (List.range 48).foldl (fun s k =>
          if heatDie site.val = some (dieOfTile k) then s.updTpwr k (fun p => { p with fwDiv := Nat.min 8 (p.fwDiv + 1) }) else s) x) else u) ∧
      w = (if was < 2 ∧ 2 ≤ lvl then ((v.redivide (fun x => { x with pwr := { x.pwr with clampTherm := site.val :: x.pwr.clampTherm } })).raise 0x3C4).clampEvent 3 site.val
        else if 2 ≤ was ∧ lvl < 2 then (v.redivide (fun x => { x with pwr := { x.pwr with clampTherm := x.pwr.clampTherm.filter (· ≠ site.val) } })).clampEvent 0 site.val else v) ∧
      (lvl = was → exec (.thermalSample site temp) s = .next u) ∧
      (lvl ≠ was → lvl = 3 → exec (.thermalSample site temp) s = .next (w.raise 0x3C5).sample) ∧
      (lvl ≠ was → lvl ≠ 3 → exec (.thermalSample site temp) s = .next (w.devEvent 0xE2 site.val lvl (ofInt 32 temp))))) ∧
  (∀ (site was : Nat) (t : Int), thermLevel site was t = (let w : Int := if site < 7 then 95 else 85
    if w + 20 ≤ t ∨ (3 ≤ was ∧ w + 15 < t) then 3 else if w + 10 ≤ t ∨ (2 ≤ was ∧ w + 5 < t) then 2 else if w ≤ t ∨ (1 ≤ was ∧ w - 5 < t) then 1 else 0))

/-- A wipe (R498, R507): secure SRAM reads zero, every other byte stands, the secrets kept there are gone, sessions end, and the wipe
is counted. -/
def Claims.wiped (s t : State) : Prop :=
  t = { s with mem := t.mem, sec := { s.sec with alias_ := 0, ideKeys := [], ideSet := [], spdm := t.sec.spdm, wipes := satAdd 16 s.sec.wipes 1, wipeDone := true } } ∧
  (∀ a, 0x28000000000 ≤ a → a < 0x28000400000 → memGet t.mem a = 0#8) ∧ (∀ a, a < 0x28000000000 ∨ 0x28000400000 ≤ a → memGet t.mem a = memGet s.mem a) ∧
  ∀ ld, t.spdm ld = { s.spdm ld with sessions := [] }

/-- What a reset of the device leaves (R543): everything is at its reset value but the Cloche, OTP, the boot flash, SEC_TAMPER and the wipe
count, the SBW, the bridge, the flash medium, the host's memory, the pins and the JTAG port; what the other memories hold is a free value
(log 12). -/
def Claims.resetTo (s t : State) (cause : Nat) (released : Bool) : Prop :=
  t = { State.reset with pending := s.pending, fresh := s.fresh + 1, mem := t.mem, hostMem := s.hostMem, ftl := t.ftl, cloche := s.cloche, sec := { otp := s.sec.otp, qspi := s.sec.qspi, tamper := s.sec.tamper, wipeDone := s.sec.wipeDone, wipes := s.sec.wipes }, pwr := { tiles := t.pwr.tiles }, boot := { good := s.boot.good, railHeld := s.boot.railHeld, released := released, perst := s.boot.perst, cause := cause }, bridge := s.bridge, jtag := { s.jtag with dbg := {} } } ∧
  (∀ a, regionOf a = .sbw → memGet t.mem a = memGet s.mem a) ∧ (∀ b, t.ftl.block b = { s.ftl.block b with reads := 0 }) ∧ t.ftl = { blk := t.ftl.blk } ∧
  ∀ k, t.tpwr k = { v0 := (s.tpwr k).v0 }

/-- A tamper trip (R503): the wipe, the bit of SEC_TAMPER, and the source of class DEVICE, sampled at once (log 55). -/
def Claims.tripped (s t : State) (k : Nat) : Prop :=
  ∃ u, Claims.wiped s u ∧ t = (State.raise { u with sec := { u.sec with tamper := u.sec.tamper ||| (1 <<< k) } } (0x380 + k)).sample

/-- Supply and reset pins, tamper trips, start-up by its phases, and the recovery boot (R64, R457, R496 to R507, R539 to R549; the order of
the phases' parts is the model's reading). -/
def Obligations.PinsAndStart : Prop :=
  (∀ (s : State) (c : Nat) (r : Bool), Claims.resetTo s (s.deviceReset c r) c r) ∧
  (∀ (s : State) (k : Nat), Claims.tripped s (s.trip k) k) ∧ (∀ k : Fin 5, sourceClass (0x380 + k.val) = some 3) ∧
  (∀ (s : State) (src : Fin 5), (s.boot.good = true → exec (.tamperTrip src) s = .next (s.trip src.val)) ∧ (s.boot.good = false → exec (.tamperTrip src) s = .next s)) ∧
  (∀ s : State, Claims.wiped s s.wipe) ∧
  (∀ (s : State) (key : BitVec 8), (s.live = false ∨ key ≠ 0x5A#8 → exec (.secWipeWrite key) s = .next s) ∧
    (s.live = true → key = 0x5A#8 → exec (.secWipeWrite key) s = .next s.wipe)) ∧
  (∀ s : State, (s.boot.good = true → exec .powerUp s = .next s) ∧
    (s.boot.good = false → ∃ u t, u = s.deviceReset 1 false ∧ exec .powerUp s = .next t ∧ t = { u with fresh := u.fresh + 1, mem := t.mem, bridge := {}, sec := { u.sec with tamper := 0, wipes := 0, wipeDone := false }, boot := { u.boot with good := true, railHeld := false } } ∧
      t.mem = (Config.sbwAfterPower u.fresh).foldl (fun m c => if regionOf c.1 = .sbw then memSet m c.1 c.2 else m) (u.mem.filter (fun c => !(decide (regionOf c.1 = .sbw)))) ∧
      ∀ a, regionOf a ≠ .sbw → memGet t.mem a = memGet u.mem a)) ∧
  (∀ (s : State) (beyond : Bool), (s.boot.good = false → exec (.railFault beyond) s = .next s) ∧
    (s.boot.good = true → ∃ v u, v = (if beyond = true then s.trip 0 else s) ∧ u = v.deviceReset 2 v.boot.released ∧
      exec (.railFault beyond) s = .next { u with boot := { u.boot with good := false, railHeld := true } })) ∧
  (∀ s : State, (s.boot.good = false → s.boot.railHeld = false → exec .resetNAssert s = .next s) ∧
    ((s.boot.good = true ∨ s.boot.railHeld = true) → ∃ u, u = s.deviceReset 2 false ∧
      exec .resetNAssert s = .next { u with boot := { u.boot with good := true, railHeld := false } })) ∧
  (∀ (s : State) (ordered : Bool), (s.boot.good = false → exec (.powerDown ordered) s = .next s) ∧
    (s.boot.good = true → ∃ v u, v = (if ordered = true ∧ s.boot.released = false then s else s.trip 0) ∧ u = v.deviceReset 1 false ∧
      exec (.powerDown ordered) s = .next { u with boot := { u.boot with good := false, railHeld := false }, bridge := { up := false } })) ∧
  (∀ (s : State) (phase error : Nat), phase < 256 → error < 65536 → s.progress phase error = { s with boot := { s.boot with phase := phase, error := error }, mem := memPut memKey s.mem 0x28000500000 (toBytes 64 (withCrc (phase + error * 2 ^ 16 + s.ltu * 2 ^ 64 + s.boot.strap * 2 ^ 128 + (if phase = 0x0E ∨ phase = 0x0F then 0xFF else s.sec.bootSlot) * 2 ^ 136) 64)) }) ∧
  (∀ (s : State) (v : BitVec 32), (s.live = true → exec (.bootProgressWrite v) s = .next (s.progress (bits v.toNat 0 8) (bits v.toNat 16 16))) ∧ (s.live = false → exec (.bootProgressWrite v) s = .next s)) ∧
  (∀ (s : State) (i : StartupIn), (s.boot.good = false ∨ s.boot.started = true → exec (.startup i) s = .next s) ∧
    (s.boot.good = true → s.boot.started = false → exec (.startup i) s = .next ((((s.romStart i).trainTrellis i.modulesLost).phase (fun s => s.romBoots i)).bootOn i))) ∧
  (∀ (s : State) (f : State → State), s.phase f = if s.fcl.halted = false ∧ s.devState = .booting then f s else s) ∧
  (∀ (s : State) (i : StartupIn), ∃ t, s.romStart i = t ∧ t = { s with fresh := s.fresh + 1, ltu := (s.ltu + i.ticks) % 2 ^ 64, mem := t.mem, jtag := { s.jtag with drive := .system }, pwr := { s.pwr with refKhz := i.refKhz, pllLock := true, refOk := decide (99990 ≤ i.refKhz ∧ i.refKhz ≤ 100010) }, boot := { s.boot with released := true, started := true, strap := i.straps.toNat, strapBad := decide (bits i.straps.toNat 1 2 = 3), phase := 1, error := 0 }, sec := { s.sec with alias_ := 0, ideKeys := [], ideSet := [], spdm := t.sec.spdm, nonce := (Config.nonce s.fresh).toNat, mr := t.sec.mr } } ∧
    t.mem = memPut memKey (memZero s.mem 0x28000000000 0x400000) 0x28000500000 (toBytes 64 (withCrc (1 + 0 * 2 ^ 16 + (s.ltu + i.ticks) % 2 ^ 64 * 2 ^ 64 + i.straps.toNat * 2 ^ 128 + s.sec.bootSlot * 2 ^ 136) 64)) ∧
    (∀ ld, t.spdm ld = { s.spdm ld with sessions := [] }) ∧ t.sec.mr = Tbl.put s.sec.mr 0 Config.romDigest ∧
    (∀ a, 0x28000000000 ≤ a → a < 0x28000400000 → memGet t.mem a = 0#8) ∧ Tbl.getD t.sec.mr 0 0 = Config.romDigest) ∧
  (∀ (s : State) (lost : List (Nat × Nat × Nat)), ∃ u : State, u = { s with dies := u.dies } ∧
    s.trainTrellis lost = (lost.foldl (fun (s : State) e => if 7 ≤ e.1 ∨ portsOf e.1 ≤ e.2.1 ∨ e.2.2 = 0 then s
      else s.raise (trellisSrc e.1 (if ((s.die e.1).port e.2.1).modulesUp = 0 then 3 else 2))) u).sample.phase (fun s => s.progress 0x02 0) ∧
    ∀ d p n, d < 7 → p < portsOf d → n = modulesFitted d p - lostOn lost d p → ((u.die d).port p).modulesUp = n ∧ ((u.die d).port p).state = (if n = 0 then .failed else .up)) ∧
  (∀ (s : State) (i : StartupIn),
    (s.sec.otp.lc = 1 ∨ s.sec.otp.lc = 6 → s.romBoots i = s) ∧
    (s.sec.otp.lc ≠ 1 → s.sec.otp.lc ≠ 6 → bit i.straps.toNat 0 = true → s.romBoots i = s.recoveryBoot i 0) ∧
    (s.sec.otp.lc ≠ 1 → s.sec.otp.lc ≠ 6 → bit i.straps.toNat 0 = false → s.slotStatus s.activeSlot ≠ Stat.ok → s.slotStatus (1 - s.activeSlot) ≠ Stat.ok →
      s.romBoots i = s.recoveryBoot i (s.slotStatus s.activeSlot)) ∧
    (∀ slot u, s.sec.otp.lc ≠ 1 → s.sec.otp.lc ≠ 6 → bit i.straps.toNat 0 = false → s.slotStatus slot = Stat.ok →
      (slot = s.activeSlot ∨ (slot = 1 - s.activeSlot ∧ s.slotStatus s.activeSlot ≠ Stat.ok)) → u = { s with mem := memPut memKey s.mem (hdLoad (s.slotHdr slot 1)) (s.qspiBytes (stageAt slot 1 + 256) (hdLength (s.slotHdr slot 1))), sec := { s.sec with mainKey := hdKey (s.slotHdr slot 2) } } →
      s.romBoots i = (u.firstStarts (s.slotHdr slot 1) slot).progress 0x03 0)) ∧
  (∀ (s : State) (i : StartupIn) (status : Nat), ∃ u, u = { s with devState := .recovery, cxl := { (if s.boot.perst = true then (s.trainCxl i.cxl).cxl else s.cxl) with mld := false, cfgReady := s.boot.perst } } ∧
    s.recoveryBoot i status = u.progress 0x0E status) ∧
  (∀ (s : State) (h slot : Nat), s.firstStarts h slot = { s with sec := { s.sec with bootSlot := slot, firstKey := hdKey h, runFirst := hdSvn h, udsLocked := true, mr := Tbl.put (Tbl.put s.sec.mr 1 (hdDigest h)) 3 (mr3Of s.sec.otp.lc s.sec.otp.firstSvn s.sec.otp.mainSvn (hdKey h) s.sec.mainKey slot) }, fcl := { s.fcl with lastKick := some s.ltu, running := true, lastBeat := s.ltu } }) ∧
  (∀ (s : State) (i : StartupIn), (s.fcl.halted = true ∨ s.devState ≠ .booting ∨ s.boot.phase = 0x02 → s.bootOn i = s) ∧
    (s.fcl.halted = false → s.devState = .booting → s.boot.phase ≠ 0x02 → s.bootOn i = ((((s.bootCxl i).bootLpddr i.lpddrFailed true).phase State.bootMain).phase (fun s => s.bootHbm i.hbmFailed)).phase (fun s => (((s.bootFlash i).bootTiles i).bootLinks).bootReady))) ∧
  (∀ (s : State) (i : StartupIn), s.bootCxl i = (if s.boot.perst = true then { s with cxl := { (s.trainCxl i.cxl).cxl with cfgReady := true } } else s)) ∧
  (∀ (s : State) (failed : List Nat) (active : Bool), ∃ u, u = (List.range 16).foldl (fun (s : State) k => if failed.contains k then (s.updLpc k (fun l => { l with state := 3 })).raise (0x340 + 4 * k + 1)
      else s.updLpc k (fun l => { l with state := 2, rate := 107 })) s ∧
    s.bootLpddr failed active = u.sample.phase (fun s => State.progress { (s.zero 0x10000000000 0x800000000) with cxl := { s.cxl with memActive := active && s.boot.perst } } 0x04 0)) ∧
  (∀ (s : State) (failed : List Nat), s.bootHbm failed = (failed.foldl (fun (s : State) c => if c < 128 then s.raise (0x240 + 0x20 * (c / 16) + 0x12) else s) s).sample.phase (fun s => s.progress 0x06 0)) ∧
  (∀ (s : State) (i : StartupIn), ∃ u, u = { s with ftl := ftlBoot s.ftl.blk i } ∧ s.bootFlash i = (if u.ftl.unusable = true then u.devEvent 0x06 0 0 0 else u).progress 0x07 0) ∧
  (∀ (old : Tbl FlashBlock) (i : StartupIn), (ftlBoot old i).unusable = !(flashUsable i) ∧ (flashUsable i = false → (ftlBoot old i).userPlots = 0) ∧
    (flashUsable i = true → (ftlBoot old i).userPlots = (ftlBoot old i).good * i.blockSectors * 4096 * 7 / 8 / 65536)) ∧
  (∀ (s : State) (i : StartupIn), s.bootTiles i = ((List.range 48).foldl (fun (s : State) t => s.planTile t (nth i.sweeps t []) true) s).progress 0x08 0) ∧
  (∀ s : State, ∃ u : State, u = { s with fab := u.fab } ∧ s.bootLinks = u.progress 0x09 0 ∧ ∀ k, k < 36 → u.link k = { s.link k with enable := true, expectId := 0, state := .training, since := s.ltu, prev := none, retrains := satAdd 8 (s.link k).retrains 1 }) ∧
  (∀ s : State, s.bootReady = (State.writeLocal { s with devState := .ready, boot := { s.boot with readyTick := s.ltu } }).readyNotices.progress 0x0A 0) ∧
  (∀ (s : State) (len : BitVec 32),
    (s.live = false ∨ s.devState ≠ .recovery ∨ s.boot.recState = 2 → exec (.recGo len) s = .next s) ∧
    (∀ st, s.live = true → s.devState = .recovery → s.boot.recState ≠ 2 → (if len.toNat < 256 then Stat.checkFailed else s.sec.otp.stageStatus (s.bytes 0x28001000000 256) (s.recBody len.toNat) 1) = st →
      (st ≠ Stat.ok → exec (.recGo len) s = .next { s with boot := { s.boot with recLen := len.toNat, recStatus := st, recState := 3 } }) ∧
      (st = Stat.ok → ∃ u t, u = { s with boot := { s.boot with recLen := len.toNat }, mem := memPut memKey s.mem (hdLoad (ofBytes (s.bytes 0x28001000000 256))) (s.recBody len.toNat (hdLength (ofBytes (s.bytes 0x28001000000 256)))) } ∧
        exec (.recGo len) s = .next t ∧ t = { ((List.range 16).foldl (fun (s : State) k => s.updLpc k (fun l => { l with state := 2, rate := 107 })) (u.firstStarts (ofBytes (s.bytes 0x28001000000 256)) 0)).zero 0x10000000000 0x800000000 with boot := { s.boot with recLen := len.toNat, recStatus := Stat.ok, recState := 2, recWindow := true } } ∧
        t = { u.firstStarts (ofBytes (s.bytes 0x28001000000 256)) 0 with lpc := t.lpc, mem := t.mem, boot := { s.boot with recLen := len.toNat, recStatus := Stat.ok, recState := 2, recWindow := true } } ∧
        (∀ k, k < 16 → t.lpcOf k = { s.lpcOf k with state := 2, rate := 107 }) ∧ (∀ a, 0x10000000000 ≤ a → a < 0x10800000000 → memGet t.mem a = 0#8) ∧
        ∀ a, a < 0x10000000000 ∨ 0x10800000000 ≤ a → memGet t.mem a = memGet u.mem a)))

/-- A transfer of the sideband in its limits (R550). -/
def Claims.sbFits (off len : Nat) : Prop := off % 8 = 0 ∧ len % 8 = 0 ∧ 8 ≤ len ∧ len ≤ 256 ∧ off + len ≤ 0x100000

/-- The sideband bridge, boundary scan and the debug transport (R550 to R556; the word of a collision is a free value, log 26; the debug
module's layout PRESUMED from The RISC-V Debug Specification, log 21). -/
def Obligations.SidebandAndTest : Prop :=
  (∀ s : State, s.boot.good = true → s.bridge.up = true → exec .sbStatus s = .next { s with bridge := { s.bridge with collideB := false, badCmd := false, resp := [BitVec.ofNat 8 (b2n s.bridge.collideB + 2 * b2n s.fcl.halted + 4 * b2n (s.devState = .ready) + 8 * b2n s.bridge.badCmd)] } }) ∧
  (∀ (s : State) (off : BitVec 24) (len : BitVec 16) (data : List Byte) (ov : Option SbOverlap), s.boot.good = true → s.bridge.up = true →
    (¬Claims.sbFits off.toNat len.toNat → exec (.sbRead off len ov) s = .next { s with bridge := { s.bridge with badCmd := true, resp := [] } }) ∧
    (¬Claims.sbFits off.toNat data.length → exec (.sbWrite off data ov) s = .next { s with bridge := { s.bridge with badCmd := true, resp := [] } }) ∧
    (Claims.sbFits off.toNat len.toNat → exec (.sbRead off len none) s = .next { s with bridge := { s.bridge with resp := s.bytes (0x28000500000 + off.toNat) len.toNat } }) ∧
    (Claims.sbFits off.toNat data.length → ∃ t, exec (.sbWrite off data none) s = .next t ∧ t = (s.sbPut off.toNat (data.length / 8) data).sbResp [] ∧ t = { s with mem := t.mem, bridge := { s.bridge with resp := [] } } ∧
      ∀ a, (a < 0x28000500000 + off.toNat ∨ 0x28000500000 + off.toNat + data.length ≤ a ∨ a < 0x28000500000 + 64 ∨ 0x28000500000 + 0xFF000 ≤ a) → memGet t.mem a = memGet s.mem a)) ∧
  (∀ (s : State) (off n : Nat) (bs : List Byte), s.sbPut off 0 bs = s ∧
    s.sbPut off (n + 1) bs = State.sbPut (if off < 64 ∨ 0xFF000 ≤ off then s else s.wrBytes (0x28000500000 + off) (bs.take 8)) (off + 8) n (bs.drop 8)) ∧
  (∀ (s : State) (off : BitVec 24) (v : BitVec 64), s.boot.good = true → s.bridge.up = true → Claims.sbFits off.toNat 8 → 64 ≤ off.toNat → off.toNat < 0xFF000 →
    ∃ t, exec (.sbWrite off (toBytes 8 v.toNat) none) s = .next t ∧ t.mem = memPut memKey s.mem (0x28000500000 + off.toNat) (toBytes 8 v.toNat)) ∧
  (∀ (s : State) (off : BitVec 24) (len : BitVec 16) (data : List Byte) (o : SbOverlap) (k : Nat), s.boot.good = true → s.bridge.up = true →
    (Claims.sbFits off.toNat len.toNat → 8 * (o.word % (len.toNat / 8)) = k → ∃ t, exec (.sbRead off len (some o)) s = .next t ∧
      t = { s with fresh := s.fresh + 1, mem := memPut memKey s.mem (0x28000500000 + off.toNat + k) (toBytes 8 o.val.toNat), bridge := t.bridge, boot := { s.boot with collideA := s.boot.collideA || o.aWarned, cntA := if o.aWarned then satAdd 32 s.boot.cntA 1 else s.boot.cntA, cntB := if o.bWarned then satAdd 32 s.boot.cntB 1 else s.boot.cntB } } ∧
      t.bridge = { s.bridge with collideB := s.bridge.collideB || o.bWarned, resp := s.bytes (0x28000500000 + off.toNat) k ++ toBytes 8 (Config.sbwWord s.fresh).toNat ++ s.bytes (0x28000500000 + off.toNat + k + 8) (len.toNat - k - 8) }) ∧
    (Claims.sbFits off.toNat data.length → ∃ t u, exec (.sbWrite off data none) s = .next u ∧ exec (.sbWrite off data (some o)) s = .next t ∧
      t = { u with fresh := s.fresh + 1, bridge := { u.bridge with collideB := s.bridge.collideB || o.bWarned }, boot := { s.boot with portA := (Config.sbwWord s.fresh).toNat, collideA := s.boot.collideA || o.aWarned, cntA := if o.aWarned then satAdd 32 s.boot.cntA 1 else s.boot.cntA, cntB := if o.bWarned then satAdd 32 s.boot.cntB 1 else s.boot.cntB } })) ∧
  (∀ s : State, s.boot.good = true → s.bridge.up = true → exec .sbIdent s = .next { s with bridge := { s.bridge with resp := toBytes 8 (if s.boot.started = true then s.sec.otp.uid else 0) ++ toBytes 1 s.sec.otp.lc ++ toBytes 1 s.boot.phase } }) ∧
  (∀ (s : State) (addr : BitVec 7), s.boot.good = true → s.bridge.up = true → exec (.sbDynamicAddress addr) s = .next { s with bridge := { s.bridge with addr := some addr.toNat } }) ∧
  (∀ (s : State) (c : Instr) (off : BitVec 24) (len : BitVec 16) (data : List Byte) (ov : Option SbOverlap) (addr : BitVec 7), (s.boot.good = false ∨ s.bridge.up = false) →
    c ∈ [Instr.sbStatus, .sbRead off len ov, .sbWrite off data ov, .sbIdent, .sbDynamicAddress addr] → exec c s = .next s) ∧
  (∀ s : State, (s.live = true → exec .sbwCntClr s = .next { s with boot := { s.boot with cntA := 0, cntB := 0 } }) ∧ (s.live = false → exec .sbwCntClr s = .next s)) ∧
  (∀ (s : State) (pins pre : List Bool) (op : DmiOp), s.boot.good = false →
    ∀ c ∈ [Instr.bypass, .idcode, .samplePreload pins pre, .extest pins, .clamp, .highz, .extestPulse pins, .extestTrain pins, .dbgDtmcs, .dbgDmi op], exec c s = .next s) ∧
  (∀ s : State, s.boot.good = true → exec .bypass s = .next { s with jtag := { s.jtag with ir := .bypass, capture := 0, drive := .system } }) ∧
  (∀ s : State, s.boot.good = true → exec .idcode s = .next { s with jtag := { s.jtag with ir := .idcode, capture := 0x1720054F, drive := .system } }) ∧
  (∀ (s : State) (pins pre : List Bool), s.boot.good = true → exec (.samplePreload pins pre) s = .next { s with jtag := { s.jtag with ir := .sample, sampled := pins, cells := pre, drive := .system } }) ∧
  (∀ (s : State) (pins : List Bool) (c : Instr) (ir : JIr) (d : PinDrive) (q : List Bool), s.boot.good = true →
    (c, ir, d, q) ∈ [(Instr.extest pins, JIr.extest, PinDrive.boundary, pins), (.clamp, .clamp, .boundary, s.jtag.sampled), (.highz, .highz, .float, s.jtag.sampled),
      (.extestPulse pins, .extestPulse, .pulse, pins), (.extestTrain pins, .extestTrain, .train, pins)] →
    (s.boot.released = true → exec c s = .next { s with jtag := { s.jtag with ir := .bypass, capture := 0, drive := .system } }) ∧
    (s.boot.released = false → exec c s = .next { s with jtag := { s.jtag with ir := ir, drive := d, capture := 0, sampled := q } })) ∧
  (∀ s : State, s.boot.good = true →
    ((s.sec.otp.lc = 1 ∨ s.sec.otp.lc = 2 ∨ s.sec.otp.lc = 5) → exec .dbgDtmcs s = .next { s with jtag := { s.jtag with ir := .dtmcs, capture := 0x71, drive := .system } }) ∧
    (s.sec.otp.lc ≠ 1 → s.sec.otp.lc ≠ 2 → s.sec.otp.lc ≠ 5 → exec .dbgDtmcs s = .next { s with jtag := { s.jtag with ir := .bypass, capture := 0, drive := .system } } ∧
      ∀ op, exec (.dbgDmi op) s = .next { s with jtag := { s.jtag with ir := .bypass, capture := 0, drive := .system, dbg := {} } })) ∧
  (∀ (s : State) (op : DmiOp) (a : BitVec 7) (v : BitVec 32), s.boot.good = true → (s.sec.otp.lc = 1 ∨ s.sec.otp.lc = 2 ∨ s.sec.otp.lc = 5) →
    (s.boot.released = false → exec (.dbgDmi op) s = .next { s with jtag := { s.jtag with ir := .dmi, drive := .system, capture := 0, dbg := {} } }) ∧
    (s.boot.released = true → s.sbHeld = true → exec (.dbgDmi op) s = .next s) ∧
    (s.boot.released = true → s.sbHeld = false →
      exec (.dbgDmi .nop) s = .next { s with jtag := { s.jtag with ir := .dmi, drive := .system } } ∧
      ((a.toNat ≠ 0x3C ∨ s.jtag.dbg.active = false ∨ s.jtag.dbg.sbRoD = false) → exec (.dbgDmi (.read a)) s = .next { s with jtag := { s.jtag with ir := .dmi, drive := .system, capture := a.toNat * 2 ^ 34 + s.dmRead a.toNat % 2 ^ 32 * 4 } }) ∧
      (a.toNat = 0x3C → s.jtag.dbg.active = true → s.jtag.dbg.sbRoD = true → exec (.dbgDmi (.read a)) s = .next (State.sbRead { s with jtag := { s.jtag with ir := .dmi, drive := .system, capture := a.toNat * 2 ^ 34 + s.dmRead a.toNat % 2 ^ 32 * 4 } })) ∧
      (s.jtag.dbg.active = false → a.toNat ≠ 0x10 → exec (.dbgDmi (.write a v)) s = .next { s with jtag := { s.jtag with ir := .dmi, drive := .system, capture := a.toNat * 2 ^ 34 + v.toNat % 2 ^ 32 * 4 } }) ∧
      (a.toNat = 0x10 → v.getLsbD 0 = false → exec (.dbgDmi (.write a v)) s = .next { s with jtag := { s.jtag with ir := .dmi, drive := .system, capture := 0x10 * 2 ^ 34 + v.toNat % 2 ^ 32 * 4, dbg := {} } }) ∧
      (a.toNat = 0x10 ∨ s.jtag.dbg.active = true → exec (.dbgDmi (.write a v)) s = .next (State.dmWrite { s with jtag := { s.jtag with ir := .dmi, drive := .system, capture := a.toNat * 2 ^ 34 + v.toNat % 2 ^ 32 * 4 } } a.toNat v.toNat)))) ∧
  (∀ (s : State) (v sel : Nat), bits v 16 10 + bits v 6 10 * 1024 = sel → bit v 0 = true → ∃ d : Dbg, d = { s.jtag.dbg with active := true, sel := sel } ∧
    (1544 ≤ sel ∨ (bit v 31 = false ∧ bit v 30 = false) → s.dmWrite 0x10 v = s.updDbg (fun _ => d)) ∧
    (sel < 1544 → bit v 31 = true → s.dmWrite 0x10 v = s.updDbg (fun _ => { d with halted := if d.halted.contains sel then d.halted else sel :: d.halted })) ∧
    (sel < 1544 → bit v 31 = false → bit v 30 = true → s.dmWrite 0x10 v =
      s.updDbg (fun _ => { d with halted := d.halted.filter (· ≠ sel), resumed := if d.resumed.contains sel then d.resumed else sel :: d.resumed }))) ∧
  (∀ (s : State) (v : Nat), s.jtag.dbg.active = true →
    s.dmWrite 0x04 v = s.updDbg (fun d => { d with data := Tbl.put d.data 0 v }) ∧ s.dmWrite 0x05 v = s.updDbg (fun d => { d with data := Tbl.put d.data 1 v }) ∧
    s.dmWrite 0x16 v = s.updDbg (fun d => { d with cmderr := d.cmderr - (d.cmderr &&& bits v 8 3) }) ∧ s.dmWrite 0x17 v = s.abstract v ∧
    s.dmWrite 0x38 v = s.updDbg (fun d => { d with sbRoA := bit v 20, sbAccess := bits v 17 3, sbAuto := bit v 16, sbRoD := bit v 15, sbError := d.sbError - (d.sbError &&& bits v 12 3) }) ∧
    (s.jtag.dbg.sbRoA = false → s.dmWrite 0x39 v = s.updDbg (fun d => { d with sbAddr := setBits d.sbAddr 0 32 v })) ∧
    (s.jtag.dbg.sbRoA = true → s.dmWrite 0x39 v = (s.updDbg (fun d => { d with sbAddr := setBits d.sbAddr 0 32 v })).sbRead) ∧
    s.dmWrite 0x3A v = s.updDbg (fun d => { d with sbAddr := setBits d.sbAddr 32 32 v }) ∧
    s.dmWrite 0x3C v = (s.updDbg (fun d => { d with sbData := setBits d.sbData 0 32 v })).sbPutWord ∧ s.dmWrite 0x3D v = s.updDbg (fun d => { d with sbData := setBits d.sbData 32 32 v }))
end

