-- ==== Sys2Proof/Laws/Memory.lean ====
section
/-!
SUPPORT. Sys2Proof/Laws/Memory.lean: the canonical form of byte memory: every operation keeps it, a byte just written reads
back, and every other byte is left alone.
-/
namespace Sys2Proof.Machine

theorem Memory.wfFrom_cons {lo : Option Nat} {k : Nat} {v : Byte} {t : List Host.Cell} :
    Memory.wfFrom lo ((k, v) :: t) = true ↔ (∀ l, lo = some l → l < k) ∧ v ≠ 0#8 ∧ Memory.wfFrom (some k) t = true := by
  cases lo <;> simp [Memory.wfFrom, and_assoc]

theorem Memory.wfFrom_mono {m : List Host.Cell} {lo hi : Option Nat} (h : ∀ l, lo = some l → ∃ u, hi = some u ∧ l ≤ u)
    (w : Memory.wfFrom hi m = true) : Memory.wfFrom lo m = true := by
  cases m with
  | nil => cases lo <;> rfl
  | cons c t =>
    obtain ⟨k, v⟩ := c
    rw [Memory.wfFrom_cons] at w ⊢
    refine ⟨fun l hl => ?_, w.2⟩
    obtain ⟨u, hu, le⟩ := h l hl
    exact Nat.lt_of_le_of_lt le (w.1 u hu)

theorem Memory.wfFrom_none {m : List Host.Cell} {hi : Option Nat} (w : Memory.wfFrom hi m = true) : Memory.wf m = true :=
  Memory.wfFrom_mono (lo := none) (by simp) w

theorem Memory.wfFrom_weaken {m : List Host.Cell} {a b : Nat} (h : a ≤ b) (w : Memory.wfFrom (some b) m = true) :
    Memory.wfFrom (some a) m = true :=
  Memory.wfFrom_mono (by simp_all) w

/-- A write keeps the canonical form above any bound below its key. -/
theorem memSet_wfFrom {m : List Host.Cell} {lo : Option Nat} {a : Nat} {v : Byte} (ha : ∀ l, lo = some l → l < a)
    (w : Memory.wfFrom lo m = true) : Memory.wfFrom lo (memSet m a v) = true := by
  induction m generalizing lo with
  | nil =>
    unfold memSet
    split
    · exact w
    · rw [Memory.wfFrom_cons]; exact ⟨ha, ‹_›, rfl⟩
  | cons c t ih =>
    obtain ⟨k, x⟩ := c
    have w' := Memory.wfFrom_cons.mp w
    unfold memSet
    split
    · split
      · exact w
      · rw [Memory.wfFrom_cons, Memory.wfFrom_cons]
        refine ⟨ha, ‹_›, ?_, w'.2⟩
        intro l hl
        simp at hl
        omega
    · split
      · split
        · exact Memory.wfFrom_mono (fun l hl => ⟨k, rfl, Nat.le_of_lt (w'.1 l hl)⟩) w'.2.2
        · subst_vars
          rw [Memory.wfFrom_cons]
          exact ⟨w'.1, ‹_›, w'.2.2⟩
      · rw [Memory.wfFrom_cons]
        refine ⟨w'.1, w'.2.1, ih ?_ w'.2.2⟩
        intro l hl
        simp at hl
        omega

/-- A write keeps the canonical form. -/
theorem memSet_wf {m : List Host.Cell} (a : Nat) (v : Byte) (w : Memory.wf m = true) : Memory.wf (memSet m a v) = true :=
  memSet_wfFrom (by simp) w

/-- A byte just written reads back. -/
theorem memGet_memSet_self {m : List Host.Cell} (a : Nat) (v : Byte) (w : Memory.wf m = true) : memGet (memSet m a v) a = v := by
  suffices h : ∀ lo, Memory.wfFrom lo m = true → memGet (memSet m a v) a = v from h none w
  have low : ∀ (t : List Host.Cell) (k : Nat), Memory.wfFrom (some k) t = true → ∀ b, b ≤ k → memGet t b = 0#8 := by
    intro t
    induction t with
    | nil => intros; rfl
    | cons c t ih =>
      intro k h b hb
      obtain ⟨k', x⟩ := c
      have h' := Memory.wfFrom_cons.mp h
      have := h'.1 k rfl
      simp only [memGet]
      rw [if_neg (by omega)]
      exact ih k' h'.2.2 b (by omega)
  clear w
  induction m with
  | nil => intro lo _; by_cases hv : v = 0#8 <;> simp [memSet, memGet, hv]
  | cons c t ih =>
    intro lo h
    obtain ⟨k, x⟩ := c
    have h' := Memory.wfFrom_cons.mp h
    unfold memSet
    split
    · split
      · subst_vars
        simp only [memGet]
        rw [if_neg (by omega)]
        exact low t k h'.2.2 a (by omega)
      · simp [memGet]
    · split
      · split
        · subst_vars; exact low t _ h'.2.2 _ (Nat.le_refl _)
        · simp [memGet]
      · simp only [memGet]
        rw [if_neg (by omega)]
        exact ih _ h'.2.2

/-- A write leaves every other byte alone. -/
theorem memGet_memSet_ne {m : List Host.Cell} {a b : Nat} (v : Byte) (h : a ≠ b) : memGet (memSet m a v) b = memGet m b := by
  induction m with
  | nil => by_cases hv : v = 0#8 <;> simp [memSet, memGet, hv, h]
  | cons c t ih =>
    obtain ⟨k, x⟩ := c
    unfold memSet
    split
    · split
      · rfl
      · simp [memGet, h]
    · split
      · split
        · subst_vars; simp [memGet, h]
        · subst_vars; simp [memGet, h]
      · simp only [memGet]
        split
        · rfl
        · exact ih

/-- Listing fewer cells keeps the canonical form. -/
theorem filter_wfFrom (p : Host.Cell → Bool) {m : List Host.Cell} {lo : Option Nat} (w : Memory.wfFrom lo m = true) :
    Memory.wfFrom lo (m.filter p) = true := by
  induction m generalizing lo with
  | nil => exact w
  | cons c t ih =>
    obtain ⟨k, x⟩ := c
    have w' := Memory.wfFrom_cons.mp w
    simp only [List.filter_cons]
    split
    · rw [Memory.wfFrom_cons]; exact ⟨w'.1, w'.2.1, ih w'.2.2⟩
    · exact Memory.wfFrom_mono (fun l hl => ⟨k, rfl, Nat.le_of_lt (w'.1 l hl)⟩) (ih w'.2.2)

theorem filter_wf (p : Host.Cell → Bool) {m : List Host.Cell} (w : Memory.wf m = true) : Memory.wf (m.filter p) = true :=
  filter_wfFrom p w

/-- Zeroing a range keeps the canonical form. -/
theorem memZero_wf {m : List Host.Cell} (a n : Nat) (w : Memory.wf m = true) : Memory.wf (memZero m a n) = true :=
  filter_wf _ w

/-- Writing bytes keeps the canonical form. -/
theorem memPut_wf (key : Nat → Nat) {m : List Host.Cell} (a : Nat) (bs : List Byte) (w : Memory.wf m = true) :
    Memory.wf (memPut key m a bs) = true := by
  induction bs generalizing m a with
  | nil => exact w
  | cons b bs ih => exact ih _ (memSet_wf _ _ w)

/-- Writes that a list of cells names, those of them that pass a test, keep the canonical form. -/
theorem foldl_memSet_wf (p : Host.Cell → Bool) (cs : List Host.Cell) {m : List Host.Cell} (w : Memory.wf m = true) :
    Memory.wf (cs.foldl (fun m c => if p c then memSet m c.1 c.2 else m) m) = true := by
  induction cs generalizing m with
  | nil => exact w
  | cons c cs ih =>
    simp only [List.foldl_cons]
    refine ih ?_
    split
    · exact memSet_wf _ _ w
    · exact w

/-- The same for a condition that is a proposition. -/
theorem foldl_memSet_prop_wf (p : Host.Cell → Prop) [DecidablePred p] (cs : List Host.Cell) {m : List Host.Cell}
    (w : Memory.wf m = true) : Memory.wf (cs.foldl (fun m c => if p c then memSet m c.1 c.2 else m) m) = true := by
  induction cs generalizing m with
  | nil => exact w
  | cons c cs ih =>
    refine ih ?_
    dsimp only
    split
    · exact memSet_wf _ _ w
    · exact w

/-- Writing cells in any order keeps the canonical form. -/
theorem foldl_memSet_all_wf (cs : List Host.Cell) {m : List Host.Cell} (w : Memory.wf m = true) :
    Memory.wf (cs.foldl (fun m c => memSet m c.1 c.2) m) = true := by
  induction cs generalizing m with
  | nil => exact w
  | cons c cs ih => exact ih (memSet_wf _ _ w)

/-- Cells in any order come into canonical form. -/
theorem memCanon_wf (cs : List Host.Cell) : Memory.wf (memCanon cs) = true := foldl_memSet_all_wf cs rfl

/-- Bytes outside the keys written read as before. -/
theorem memGet_memPut_ne (key : Nat → Nat) {m : List Host.Cell} (a : Nat) (bs : List Byte) {b : Nat}
    (h : ∀ i, i < bs.length → key (a + i) ≠ b) : memGet (memPut key m a bs) b = memGet m b := by
  induction bs generalizing m a with
  | nil => rfl
  | cons x bs ih =>
    simp only [memPut]
    rw [ih _ (fun i hi => by have := h (i + 1) (by simp; omega); rwa [show a + 1 + i = a + (i + 1) by omega])]
    exact memGet_memSet_ne _ (by have := h 0 (by simp); simpa using this)

end Sys2Proof.Machine
end

