-- ==== Sys2Proof/Laws/Frame.lean ====
section
/-!
SUPPORT. Sys2Proof/Laws/Frame.lean: what no shared operation does: it leaves the queue and the Cloche alone, OTP never loses a
fuse, and every byte memory stays in canonical form. `Keeps` says so once; every operation of Machine/ has a lemma for it.
-/
namespace Sys2Proof.Machine

/-- Fuses only gain (R495, R501): rollback counters do not fall, and neither does a life cycle among the six of R501. -/
structure OtpLe (a b : Otp) : Prop where
  lc : a.lc ≤ 6 → a.lc ≤ b.lc ∧ b.lc ≤ 6
  first : a.firstSvn ≤ b.firstSvn
  main : a.mainSvn ≤ b.mainSvn

/-- Every byte memory of the machine is in canonical form. -/
structure MemOk (s : State) : Prop where
  mem : Memory.wf s.mem = true
  t3 : Memory.wf s.t3 = true
  host : Memory.wf s.hostMem = true
  qspi : Memory.wf s.sec.qspi = true
  half : Memory.wf s.cloche.half = true

/-- What `t` keeps of `s`. -/
structure Keeps (s t : State) : Prop where
  queue : t.pending = s.pending
  otp : OtpLe s.sec.otp t.sec.otp
  cloche : t.cloche = s.cloche
  mem : MemOk s → MemOk t

theorem OtpLe.refl (a : Otp) : OtpLe a a := ⟨fun h => ⟨Nat.le_refl _, h⟩, Nat.le_refl _, Nat.le_refl _⟩

theorem OtpLe.trans {a b c : Otp} (h : OtpLe a b) (k : OtpLe b c) : OtpLe a c :=
  ⟨fun w => ⟨Nat.le_trans (h.lc w).1 (k.lc (h.lc w).2).1, (k.lc (h.lc w).2).2⟩, Nat.le_trans h.first k.first, Nat.le_trans h.main k.main⟩

theorem Keeps.refl (s : State) : Keeps s s := ⟨rfl, OtpLe.refl _, rfl, id⟩

theorem Keeps.trans {r s t : State} (h : Keeps r s) (k : Keeps s t) : Keeps r t :=
  ⟨k.queue.trans h.queue, h.otp.trans k.otp, k.cloche.trans h.cloche, fun w => k.mem (h.mem w)⟩

/-- An update of fields that `Keeps` does not name. -/
theorem Keeps.set {r t : State} {x1 : Nat} {x2 : Nat} {x6 : Tbl Die} {x7 : Trellis} {x8 : Tbl Tile} {x9 : Atu} {x10
    : Tbl Chan} {x11 : Tbl DmaEng} {x12 : Tbl Lpc} {x13 : Ftl} {x14 : Tbl Comp} {x15 : Tbl Sieve} {x16 : Tbl Ring}
    {x17 : RingRegs} {x18 : Tbl Tag} {x19 : Tbl Group} {x20 : List JRec} {x21 : ReqRegs} {x22 : Tbl Acct} {x23 : Tbl
    Req} {x24 : Tbl Tenant} {x25 : Tbl Slot} {x26 : List HolderRec} {x27 : Pools} {x28 : Tbl LDev} {x29 : Mailbox}
    {x30 : Nat} {x31 : Fabric} {x32 : CMap} {x33 : CfgState} {x34 : CxlPort} {x35 : DevState} {x36 : Feed} {x39 :
    Fcl} {x40 : Ckpt} {x41 : Pwr} {x42 : Boot} {x43 : Bridge} {x44 : Jtag} (h : Keeps r t) : Keeps r (State.mk
    t.pending x1 x2 t.mem t.t3 t.hostMem x6 x7 x8 x9 x10 x11 x12 x13 x14 x15 x16 x17 x18 x19 x20 x21 x22 x23 x24 x25
    x26 x27 x28 x29 x30 x31 x32 x33 x34 x35 x36 t.cloche t.sec x39 x40 x41 x42 x43 x44) :=
  h.trans ⟨rfl, OtpLe.refl _, rfl, fun w => ⟨w.mem, w.t3, w.host, w.qspi, w.half⟩⟩

/-- An update that changes the security block but not OTP or QSPI. -/
theorem Keeps.setSec {r t : State} {sec : Sec} {x1 : Nat} {x2 : Nat} {x6 : Tbl Die} {x7 : Trellis} {x8 : Tbl Tile}
    {x9 : Atu} {x10 : Tbl Chan} {x11 : Tbl DmaEng} {x12 : Tbl Lpc} {x13 : Ftl} {x14 : Tbl Comp} {x15 : Tbl Sieve}
    {x16 : Tbl Ring} {x17 : RingRegs} {x18 : Tbl Tag} {x19 : Tbl Group} {x20 : List JRec} {x21 : ReqRegs} {x22 : Tbl
    Acct} {x23 : Tbl Req} {x24 : Tbl Tenant} {x25 : Tbl Slot} {x26 : List HolderRec} {x27 : Pools} {x28 : Tbl LDev}
    {x29 : Mailbox} {x30 : Nat} {x31 : Fabric} {x32 : CMap} {x33 : CfgState} {x34 : CxlPort} {x35 : DevState} {x36 :
    Feed} {x39 : Fcl} {x40 : Ckpt} {x41 : Pwr} {x42 : Boot} {x43 : Bridge} {x44 : Jtag} (h : Keeps r t) (ho :
    sec.otp = t.sec.otp) (hq : sec.qspi = t.sec.qspi) : Keeps r (State.mk t.pending x1 x2 t.mem t.t3 t.hostMem x6 x7
    x8 x9 x10 x11 x12 x13 x14 x15 x16 x17 x18 x19 x20 x21 x22 x23 x24 x25 x26 x27 x28 x29 x30 x31 x32 x33 x34 x35
    x36 t.cloche sec x39 x40 x41 x42 x43 x44) :=
  h.trans ⟨rfl, by rw [ho]; exact OtpLe.refl _, rfl, fun w => ⟨w.mem, w.t3, w.host, (by rw [hq]; exact w.qspi), w.half⟩⟩

/-- An update that changes byte memories and keeps their form. -/
theorem Keeps.setMem {r t : State} {m m3 mh : List Host.Cell} {x1 : Nat} {x2 : Nat} {x6 : Tbl Die} {x7 : Trellis}
    {x8 : Tbl Tile} {x9 : Atu} {x10 : Tbl Chan} {x11 : Tbl DmaEng} {x12 : Tbl Lpc} {x13 : Ftl} {x14 : Tbl Comp} {x15
    : Tbl Sieve} {x16 : Tbl Ring} {x17 : RingRegs} {x18 : Tbl Tag} {x19 : Tbl Group} {x20 : List JRec} {x21 :
    ReqRegs} {x22 : Tbl Acct} {x23 : Tbl Req} {x24 : Tbl Tenant} {x25 : Tbl Slot} {x26 : List HolderRec} {x27 :
    Pools} {x28 : Tbl LDev} {x29 : Mailbox} {x30 : Nat} {x31 : Fabric} {x32 : CMap} {x33 : CfgState} {x34 : CxlPort}
    {x35 : DevState} {x36 : Feed} {x39 : Fcl} {x40 : Ckpt} {x41 : Pwr} {x42 : Boot} {x43 : Bridge} {x44 : Jtag} (h :
    Keeps r t) (hm : Memory.wf t.mem = true → Memory.wf m = true) (h3 : Memory.wf t.t3 = true → Memory.wf m3 = true)
    (hh : Memory.wf t.hostMem = true → Memory.wf mh = true) : Keeps r (State.mk t.pending x1 x2 m m3 mh x6 x7 x8 x9
    x10 x11 x12 x13 x14 x15 x16 x17 x18 x19 x20 x21 x22 x23 x24 x25 x26 x27 x28 x29 x30 x31 x32 x33 x34 x35 x36
    t.cloche t.sec x39 x40 x41 x42 x43 x44) :=
  h.trans ⟨rfl, OtpLe.refl _, rfl, fun w => ⟨hm w.mem, h3 w.t3, hh w.host, w.qspi, w.half⟩⟩

theorem Keeps.ite {r a b : State} {c : Prop} [Decidable c] (h : Keeps r a) (k : Keeps r b) : Keeps r (if c then a else b) := by
  split <;> assumption

theorem Keeps.cut {C : Prop} {r t : State} (h : Keeps r t) (k : Keeps r t → C) : C := k h

theorem Keeps.foldl {α : Type} {r s : State} {f : State → α → State} {l : List α} (hf : ∀ t a, Keeps r t → Keeps r (f t a))
    (h : Keeps r s) : Keeps r (l.foldl f s) := by
  induction l generalizing s with
  | nil => exact h
  | cons a l ih => exact ih (hf s a h)

/-! ## Answers that carry a state -/

/-- A pair whose state keeps. -/
def KeepsP {α : Type} (r : State) (p : State × α) : Prop := Keeps r p.1

/-- A state, if there is one, keeps. -/
def KeepsO (r : State) (o : Option State) : Prop := ∀ t, o = some t → Keeps r t

/-- A pair, if there is one, keeps. -/
def KeepsOP {α : Type} (r : State) (o : Option (State × α)) : Prop := ∀ p, o = some p → Keeps r p.1

theorem KeepsP.mk {α : Type} {r t : State} {x : α} (h : Keeps r t) : KeepsP r (t, x) := h

theorem KeepsP.cut {C : Prop} {α : Type} {r : State} {p : State × α} (h : KeepsP r p) (k : KeepsP r p → C) : C := k h

theorem KeepsP.proj {α : Type} {r : State} {p : State × α} (h : KeepsP r p) : Keeps r p.1 := h

theorem KeepsP.fst {α : Type} {r t : State} {x : α} {p : State × α} (e : p = (t, x)) (h : KeepsP r p) : Keeps r t := by
  subst e; exact h

theorem KeepsP.ite {α : Type} {r : State} {a b : State × α} {c : Prop} [Decidable c] (h : KeepsP r a) (k : KeepsP r b) :
    KeepsP r (if c then a else b) := by
  split <;> assumption

theorem KeepsP.foldl {α β : Type} {r : State} {p : State × β} {f : State × β → α → State × β} {l : List α}
    (hf : ∀ q a, KeepsP r q → KeepsP r (f q a)) (h : KeepsP r p) : KeepsP r (l.foldl f p) := by
  induction l generalizing p with
  | nil => exact h
  | cons a l ih => exact ih (hf p a h)

theorem KeepsO.none {r : State} : KeepsO r Option.none := fun _ e => nomatch e

theorem KeepsO.some {r t : State} (h : Keeps r t) : KeepsO r (Option.some t) := fun _ e => by cases e; exact h

theorem KeepsO.cut {C : Prop} {r : State} {o : Option State} (h : KeepsO r o) (k : KeepsO r o → C) : C := k h

theorem KeepsO.get {r t : State} {o : Option State} (e : o = Option.some t) (h : KeepsO r o) : Keeps r t := h t e

theorem KeepsO.ite {r : State} {a b : Option State} {c : Prop} [Decidable c] (h : KeepsO r a) (k : KeepsO r b) :
    KeepsO r (if c then a else b) := by
  split <;> assumption

theorem KeepsOP.none {α : Type} {r : State} : KeepsOP (α := α) r Option.none := fun _ e => nomatch e

theorem KeepsOP.some {α : Type} {r t : State} {x : α} (h : Keeps r t) : KeepsOP r (Option.some (t, x)) :=
  fun _ e => by cases e; exact h

theorem KeepsOP.cut {C : Prop} {α : Type} {r : State} {o : Option (State × α)} (h : KeepsOP r o) (k : KeepsOP r o → C) : C :=
  k h

theorem KeepsOP.get {α : Type} {r t : State} {x : α} {o : Option (State × α)} (e : o = Option.some (t, x))
    (h : KeepsOP r o) : Keeps r t := h _ e

theorem KeepsOP.ite {α : Type} {r : State} {a b : Option (State × α)} {c : Prop} [Decidable c] (h : KeepsOP r a)
    (k : KeepsOP r b) : KeepsOP r (if c then a else b) := by
  split <;> assumption

theorem KeepsP.of_mk {α : Type} {r t : State} {x : α} (h : KeepsP r (t, x)) : Keeps r t := h

theorem KeepsP.re {α : Type} {r : State} {p q : State × α} (e : p = q) (h : KeepsP r p) : KeepsP r q := e ▸ h

theorem KeepsOP.re {α : Type} {r : State} {o : Option (State × α)} {p : State × α} (e : o = Option.some p) (h : KeepsOP r o) :
    KeepsOP r (Option.some p) := e ▸ h

theorem KeepsOP.fst {α : Type} {r : State} {o : Option (State × α)} {p : State × α} (e : o = Option.some p) (h : KeepsOP r o) :
    KeepsP r p := h p e

theorem KeepsO.mapP {α : Type} {r : State} {o : Option (State × α)} {f : State × α → State}
    (hf : ∀ p, KeepsP r p → Keeps r (f p)) (h : KeepsOP r o) : KeepsO r (o.map f) := by
  intro t e
  cases o with
  | none => simp at e
  | some p => simp at e; subst e; exact hf p (h p rfl)

theorem KeepsOP.mapP {α β : Type} {r : State} {o : Option (State × α)} {f : State × α → State × β}
    (hf : ∀ p, KeepsP r p → KeepsP r (f p)) (h : KeepsOP r o) : KeepsOP r (o.map f) := by
  intro t e
  cases o with
  | none => simp at e
  | some p => simp at e; subst e; exact hf p (h p rfl)

theorem KeepsO.mapV {α : Type} {r : State} {o : Option α} {f : α → State} (hf : ∀ a, Keeps r (f a)) : KeepsO r (o.map f) := by
  intro t e
  cases o with
  | none => simp at e
  | some p => simp at e; subst e; exact hf p

theorem KeepsOP.mapV {α β : Type} {r : State} {o : Option α} {f : α → State × β} (hf : ∀ a, KeepsP r (f a)) :
    KeepsOP r (o.map f) := by
  intro t e
  cases o with
  | none => simp at e
  | some p => simp at e; subst e; exact hf p

theorem Keeps.getD {r s : State} {o : Option State} (h : KeepsO r o) (k : Keeps r s) : Keeps r (o.getD s) := by
  cases o with
  | none => exact k
  | some t => exact h t rfl

/-- The next state of an outcome, if it is one, keeps. -/
def KeepsX (r : State) (o : Host.Outcome State Fault Refusal) : Prop := ∀ t, o = .next t → Keeps r t

theorem KeepsX.next {r t : State} (h : Keeps r t) : KeepsX r (.next t) := fun _ e => by cases e; exact h

theorem KeepsX.get {r t : State} {o : Host.Outcome State Fault Refusal} (e : o = .next t) (h : KeepsX r o) : Keeps r t := h t e

/-- What the Cloche's own commands and its clock keep: all of `Keeps` but the Cloche itself. -/
structure KeepsB (s t : State) : Prop where
  queue : t.pending = s.pending
  otp : OtpLe s.sec.otp t.sec.otp
  mem : MemOk s → MemOk t

theorem Keeps.base {s t : State} (h : Keeps s t) : KeepsB s t := ⟨h.queue, h.otp, h.mem⟩

theorem KeepsB.refl (s : State) : KeepsB s s := (Keeps.refl s).base

theorem KeepsB.trans {r s t : State} (h : KeepsB r s) (k : KeepsB s t) : KeepsB r t :=
  ⟨k.queue.trans h.queue, h.otp.trans k.otp, fun w => k.mem (h.mem w)⟩

/-- An update of the Cloche that keeps the form of its flash half. -/
theorem KeepsB.cloche {r s : State} {c : Cloche} (hc : Memory.wf s.cloche.half = true → Memory.wf c.half = true) (h : KeepsB r s) :
    KeepsB r { s with cloche := c } :=
  h.trans ⟨rfl, OtpLe.refl _, fun w => ⟨w.mem, w.t3, w.host, w.qspi, hc w.half⟩⟩

theorem KeepsB.ite {r a b : State} {c : Prop} [Decidable c] (h : KeepsB r a) (k : KeepsB r b) : KeepsB r (if c then a else b) := by
  split <;> assumption

/-- The next state of an outcome, if it is one, keeps all but the Cloche. -/
def KeepsXB (r : State) (o : Host.Outcome State Fault Refusal) : Prop := ∀ t, o = .next t → KeepsB r t

theorem KeepsXB.next {r t : State} (h : KeepsB r t) : KeepsXB r (.next t) := fun _ e => by cases e; exact h

theorem KeepsXB.ite {r : State} {a b : Host.Outcome State Fault Refusal} {c : Prop} [Decidable c] (h : KeepsXB r a)
    (k : KeepsXB r b) : KeepsXB r (if c then a else b) := by
  split <;> assumption

theorem KeepsX.base {r : State} {o : Host.Outcome State Fault Refusal} (h : KeepsX r o) : KeepsXB r o := fun t e => (h t e).base

theorem KeepsX.ite {r : State} {a b : Host.Outcome State Fault Refusal} {c : Prop} [Decidable c] (h : KeepsX r a)
    (k : KeepsX r b) : KeepsX r (if c then a else b) := by
  split <;> assumption

theorem KeepsO.mapS {r : State} {o : Option State} {f : State → State} (hf : ∀ t, Keeps r t → Keeps r (f t)) (h : KeepsO r o) :
    KeepsO r (o.map f) := by
  intro t e
  cases o with
  | none => simp at e
  | some p => simp at e; subst e; exact hf p (h p rfl)

theorem KeepsOP.mapS {β : Type} {r : State} {o : Option State} {f : State → State × β}
    (hf : ∀ t, Keeps r t → KeepsP r (f t)) (h : KeepsO r o) : KeepsOP r (o.map f) := by
  intro t e
  cases o with
  | none => simp at e
  | some p => simp at e; subst e; exact hf p (h p rfl)

theorem KeepsO.bindS {r : State} {o : Option State} {f : State → Option State} (hf : ∀ t, Keeps r t → KeepsO r (f t))
    (h : KeepsO r o) : KeepsO r (o.bind f) := by
  intro t e
  cases o with
  | none => simp at e
  | some p => exact hf p (h p rfl) t e

end Sys2Proof.Machine
end

