-- ==== Sys2Proof/Laws/Cloche.lean ====
section
/-!
SUPPORT. Sys2Proof/Laws/Cloche.lean: what the Cloche's own commands leave alone (R475, R490): everything but the Cloche and
the feed's line, with its flash half in canonical form.
-/
namespace Sys2Proof.Machine

@[simp] theorem Cloche.updSet_half (c : Cloche) (tn : Nat) (f : CSet → CSet) : (c.updSet tn f).half = c.half := rfl
@[simp] theorem Cloche.addEnergy_half (c : Cloche) (tn nj : Nat) : (c.addEnergy tn nj).half = c.half := Cloche.updSet_half _ _ _
@[simp] theorem Cloche.count_half (c : Cloche) (e : Nat × Nat × Nat × Nat) : (c.count e).half = c.half := rfl
@[simp] theorem Cloche.meter_half (c : Cloche) (e : List Nat) : (c.meter e).half = c.half := by
  unfold Cloche.meter
  dsimp only
@[simp] theorem Cloche.append_half (c : Cloche) (kind signer param old new tag : Nat) :
    (c.append kind signer param old new tag).half = c.half := rfl
@[simp] theorem Cloche.signRecord_half (c : Cloche) (t : Tbl CSet) : (c.signRecord t).half = c.half := rfl
@[simp] theorem Cloche.unattributed_half (c : Cloche) (raw : List Nat) (ns : Nat) : (c.unattributed raw ns).half = c.half := by
  unfold Cloche.unattributed
  simp only [Cloche.addEnergy_half, Cloche.meter_half]

@[simp] theorem Cloche.appendEvent_half (c : Cloche) (kind old new : Nat) : (c.appendEvent kind old new).half = c.half := by
  unfold Cloche.appendEvent
  split <;> rfl

@[simp] theorem Cloche.restart_half (c : Cloche) (why : Nat) : (c.restart why).half = c.half := by
  unfold Cloche.restart
  exact Cloche.appendEvent_half ..

@[simp] theorem Cloche.snapIfDue_half (c : Cloche) : c.snapIfDue.half = c.half := by
  unfold Cloche.snapIfDue
  split <;> rfl

@[simp] theorem Cloche.tick_half (c : Cloche) : c.tick.half = c.half := by
  unfold Cloche.tick
  split
  · rfl
  · dsimp only
    split
    · rfl
    · split
      · exact Cloche.snapIfDue_half _
      · rfl

@[simp] theorem Cloche.paramSet_half (c : Cloche) (p v : Nat) : (c.paramSet p v).half = c.half := by
  unfold Cloche.paramSet
  split
  · rfl
  · split <;> rfl

theorem Cloche.foldl_count_half (rs : List (Nat × Nat × Nat × Nat)) (c : Cloche) : (rs.foldl Cloche.count c).half = c.half := by
  induction rs generalizing c with
  | nil => rfl
  | cons r rs ih => exact ih _

theorem Cloche.foldl_share_half (q : List (Nat × Nat)) (dyn sum : Nat) (a : Cloche × Nat) :
    (q.foldl (fun (a : Cloche × Nat) x =>
      if x.1 = 0xFFFF then a else let n := dyn * x.2 / sum; (a.1.addEnergy x.1 n, a.2 - n)) a).1.half = a.1.half := by
  induction q generalizing a with
  | nil => rfl
  | cons x q ih =>
    rw [List.foldl_cons, ih]
    split <;> rfl

@[simp] theorem Cloche.share_half (c : Cloche) (un e idle : Nat) (q : List (Nat × Nat)) : (c.share un e idle q).1.half = c.half := by
  unfold Cloche.share
  extract_lets dyn un' sum
  split
  · rfl
  · exact Cloche.foldl_share_half ..

theorem Cloche.foldl_steps_half {f : Cloche × Nat → Nat → Cloche × Nat} (hf : ∀ a d, (f a d).1.half = a.1.half) (l : List Nat)
    (a : Cloche × Nat) : (l.foldl f a).1.half = a.1.half := by
  induction l generalizing a with
  | nil => rfl
  | cons x l ih => rw [List.foldl_cons, ih, hf]

@[simp] theorem Cloche.attribute_half (c : Cloche) (raw : List Nat) (ns : Nat) : (c.attribute raw ns).half = c.half := by
  unfold Cloche.attribute
  extract_lets e at_ c1 un step a1 a2 a3 a4
  have hc : c1.half = c.half := Cloche.meter_half c e
  have hs : ∀ a ds p, (step a ds p).1.half = a.1.half := fun a ds p =>
    Cloche.share_half a.1 a.2 (at_ ds) (a.1.idleNj ds ns) (a.1.quantities p)
  clear_value step un at_ c1
  have h1 : a1.1.half = c1.half := Cloche.foldl_steps_half (fun a d => hs _ _ _) _ _
  have h2 : a2.1.half = a1.1.half := hs _ _ _
  have h3 : a3.1.half = a2.1.half := hs _ _ _
  have h4 : a4.1.half = a3.1.half := Cloche.foldl_steps_half (fun a d => hs _ _ _) _ _
  rw [Cloche.addEnergy_half, h4, h3, h2, h1, hc]

/-- An update of the Cloche that leaves its flash half. -/
theorem KeepsB.same {r s : State} {c : Cloche} (hc : c.half = s.cloche.half) (h : KeepsB r s) : KeepsB r { s with cloche := c } :=
  KeepsB.cloche (fun w => by rw [hc]; exact w) h

theorem State.clAnswer_keepsB {r₀ s : State} (st : Nat) (bs : List Byte) (hk : KeepsB r₀ s) : KeepsB r₀ (s.clAnswer st bs) :=
  KeepsB.same rfl hk

theorem State.signed_keepsB {r₀ s : State} {f : Cloche → Cloche} (st : Nat) (hf : ∀ c, (f c).half = c.half ∨ (f c).half = [])
    (hk : KeepsB r₀ s) : KeepsB r₀ (s.signed st f) := by
  unfold State.signed
  refine KeepsB.ite hk ?_
  extract_lets _ s1
  have h1 : KeepsB r₀ s1 := KeepsB.same rfl hk
  refine KeepsB.ite (State.clAnswer_keepsB _ _ h1) (State.clAnswer_keepsB _ _ (KeepsB.cloche ?_ h1))
  intro w
  rcases hf s1.cloche with e | e
  · rw [e]; exact w
  · rw [e]; rfl

/-- Time on the Cloche's own oscillator (R485). -/
theorem KeepsB.clock (s : State) : KeepsB s { s with cloche := s.cloche.tick } := KeepsB.same (Cloche.tick_half _) (KeepsB.refl s)

theorem execFeedFrameReceive_keepsB {r₀ s : State} (frame : List Byte) (energy : List Nat) (elapsedNs : Nat) (hk : KeepsB r₀ s) :
    KeepsXB r₀ (execFeedFrameReceive frame energy elapsedNs s) := by
  unfold execFeedFrameReceive
  extract_lets +onlyGivenNames _ s1 c0
  have h1 : KeepsB r₀ s1 := hk.trans ⟨rfl, OtpLe.refl _, fun w => ⟨w.mem, w.t3, w.host, w.qspi, w.half⟩⟩
  have e0 : c0 = s1.cloche := rfl
  clear_value c0 s1
  subst e0
  refine KeepsXB.ite (KeepsXB.next h1) ?_
  extract_lets +onlyGivenNames h n ok
  clear_value ok n h
  refine KeepsXB.ite (KeepsXB.next (KeepsB.same rfl h1)) ?_
  extract_lets +onlyGivenNames rs w last seen c1 c2
  have e1 : c1.half = s1.cloche.half := Cloche.foldl_count_half rs _
  have e2 : c2.half = s1.cloche.half := by
    unfold c2
    split <;> exact e1
  clear_value c2 last seen
  refine KeepsXB.ite (KeepsXB.next (KeepsB.same e2 h1)) ?_
  extract_lets +onlyGivenNames follows c3 c4
  have e3 : c3.half = s1.cloche.half := by
    unfold c3
    split
    · exact (Cloche.unattributed_half c2 energy elapsedNs).trans e2
    · exact (Cloche.attribute_half c2 energy elapsedNs).trans e2
  clear_value c3
  exact KeepsXB.next (KeepsB.same ((Cloche.snapIfDue_half c4).trans e3) h1)

theorem execFeedDown_keepsB {r₀ s : State} (energy : List Nat) (hk : KeepsB r₀ s) : KeepsXB r₀ (execFeedDown energy s) := by
  unfold execFeedDown
  extract_lets +onlyGivenNames c
  refine KeepsXB.ite (KeepsXB.next hk) ?_
  have e := Cloche.unattributed_half c energy (c.time - c.lastAt)
  generalize c.unattributed energy (c.time - c.lastAt) = u at e ⊢
  exact KeepsXB.next (KeepsB.same ((Cloche.snapIfDue_half _).trans e) hk)

theorem execRecordSign_keepsB {r₀ s : State} (hk : KeepsB r₀ s) : KeepsXB r₀ (execRecordSign s) := by
  unfold execRecordSign
  split
  · exact KeepsXB.next hk
  · exact KeepsXB.ite (KeepsXB.next hk) (KeepsXB.next (KeepsB.same rfl hk))

theorem execClocheRestart_keepsB {r₀ s : State} (why : RestartWhy) (hk : KeepsB r₀ s) : KeepsXB r₀ (execClocheRestart why s) := by
  unfold execClocheRestart
  split
  · exact KeepsXB.next (KeepsB.same (Cloche.restart_half _ _) hk)
  · exact KeepsXB.next (KeepsB.same (Cloche.restart_half _ _) hk)
  · exact KeepsXB.next hk

theorem execClVauxLoss_keepsB {r₀ s : State} (hk : KeepsB r₀ s) : KeepsXB r₀ (execClVauxLoss s) := KeepsXB.next (KeepsB.same rfl hk)

theorem execSealBroken_keepsB {r₀ s : State} (hk : KeepsB r₀ s) : KeepsXB r₀ (execSealBroken s) :=
  KeepsXB.ite (KeepsXB.next hk) (KeepsXB.next (KeepsB.same (Cloche.appendEvent_half _ _ _ _) hk))

theorem execClDynamicAddress_keepsB {r₀ s : State} (setdasa : Bool) (addr : BitVec 7) (hk : KeepsB r₀ s) :
    KeepsXB r₀ (execClDynamicAddress setdasa addr s) :=
  KeepsXB.ite (KeepsXB.next hk) (KeepsXB.next (KeepsB.same rfl hk))

theorem execClIdentify_keepsB {r₀ s : State} (hk : KeepsB r₀ s) : KeepsXB r₀ (execClIdentify s) :=
  KeepsXB.ite (KeepsXB.next hk) (KeepsXB.next (State.clAnswer_keepsB _ _ hk))

theorem execCertRead_keepsB {r₀ s : State} (off : BitVec 32) (len : BitVec 16) (hk : KeepsB r₀ s) :
    KeepsXB r₀ (execCertRead off len s) :=
  KeepsXB.ite (KeepsXB.next hk) (KeepsXB.ite (KeepsXB.next (State.clAnswer_keepsB _ _ hk)) (KeepsXB.next (State.clAnswer_keepsB _ _ hk)))

theorem execRecordRead_keepsB {r₀ s : State} (no : BitVec 64) (hk : KeepsB r₀ s) : KeepsXB r₀ (execRecordRead no s) := by
  unfold execRecordRead
  refine KeepsXB.ite (KeepsXB.next hk) ?_
  split <;> exact KeepsXB.next (State.clAnswer_keepsB _ _ hk)

theorem execSnapshotRead_keepsB {r₀ s : State} (no : BitVec 64) (first count : BitVec 16) (hk : KeepsB r₀ s) :
    KeepsXB r₀ (execSnapshotRead no first count s) := by
  unfold execSnapshotRead
  refine KeepsXB.ite (KeepsXB.next hk) (KeepsXB.ite (KeepsXB.next (State.clAnswer_keepsB _ _ hk)) ?_)
  split <;> exact KeepsXB.next (State.clAnswer_keepsB _ _ hk)

theorem execLiveRead_keepsB {r₀ s : State} (tenant : BitVec 16) (hk : KeepsB r₀ s) : KeepsXB r₀ (execLiveRead tenant s) :=
  KeepsXB.ite (KeepsXB.next hk) (KeepsXB.next (State.clAnswer_keepsB _ _ hk))

theorem execLogRead_keepsB {r₀ s : State} (seq : BitVec 16) (hk : KeepsB r₀ s) : KeepsXB r₀ (execLogRead seq s) := by
  unfold execLogRead
  refine KeepsXB.ite (KeepsXB.next hk) ?_
  split <;> exact KeepsXB.next (State.clAnswer_keepsB _ _ hk)

theorem execNonceGet_keepsB {r₀ s : State} (hk : KeepsB r₀ s) : KeepsXB r₀ (execNonceGet s) := by
  refine KeepsXB.ite (KeepsXB.next hk) (KeepsXB.next (State.clAnswer_keepsB _ _ ?_))
  exact hk.trans ⟨rfl, OtpLe.refl _, fun w => ⟨w.mem, w.t3, w.host, w.qspi, w.half⟩⟩

theorem execParamSet_keepsB {r₀ s : State} (x : BitVec 2080) (hk : KeepsB r₀ s) : KeepsXB r₀ (execParamSet x s) :=
  KeepsXB.next (State.signed_keepsB _ (fun _ => .inl (Cloche.paramSet_half _ _ _)) hk)

theorem execLabelSet_keepsB {r₀ s : State} (x : BitVec 2080) (hk : KeepsB r₀ s) : KeepsXB r₀ (execLabelSet x s) :=
  KeepsXB.next (State.signed_keepsB _ (fun _ => .inl rfl) hk)

theorem execKeySet_keepsB {r₀ s : State} (x : BitVec 2080) (hk : KeepsB r₀ s) : KeepsXB r₀ (execKeySet x s) :=
  KeepsXB.next (State.signed_keepsB _ (fun _ => .inl rfl) hk)

theorem execArchive_keepsB {r₀ s : State} (x : BitVec 2080) (hk : KeepsB r₀ s) : KeepsXB r₀ (execArchive x s) :=
  KeepsXB.next (State.signed_keepsB _ (fun _ => .inl rfl) hk)

theorem execReseal_keepsB {r₀ s : State} (x : BitVec 2080) (loopClosed : Bool) (hk : KeepsB r₀ s) :
    KeepsXB r₀ (execReseal x loopClosed s) := by
  unfold execReseal
  extract_lets _ s1
  have h1 : KeepsB r₀ s1 := KeepsB.ite (KeepsB.same rfl hk) hk
  exact KeepsXB.next (State.signed_keepsB _ (fun _ => .inl rfl) h1)

theorem execFwChunk_keepsB {r₀ s : State} (off : BitVec 32) (data : List Byte) (hk : KeepsB r₀ s) :
    KeepsXB r₀ (execFwChunk off data s) :=
  KeepsXB.ite (KeepsXB.next hk) (KeepsXB.ite (KeepsXB.next (State.clAnswer_keepsB _ _ hk))
    (KeepsXB.next (State.clAnswer_keepsB _ _ (KeepsB.cloche (fun w => memPut_wf _ _ _ w) hk))))

theorem execFwCommit_keepsB {r₀ s : State} (x : BitVec 2080) (hk : KeepsB r₀ s) : KeepsXB r₀ (execFwCommit x s) :=
  KeepsXB.next (State.signed_keepsB _ (fun _ => .inr (Cloche.restart_half _ _)) hk)

end Sys2Proof.Machine
end

