-- ==== Sys2Proof/Laws/FrameOps.lean ====
section
/-!
SUPPORT. Sys2Proof/Laws/FrameOps.lean: what the operations and commands of Machine/Ops.lean keep (`Keeps`): the queue, the
Cloche, programmed fuses and the canonical form of every byte memory.
-/
namespace Sys2Proof.Machine

theorem State.updDie_keeps {r₀ : State} {s : State} (i : Nat) (f : Die → Die) (hk : Keeps r₀ s) :
    Keeps r₀ (State.updDie s i f) := by
  unfold State.updDie
  repeat' (with_reducible apply Keeps.set; with_reducible assumption)

theorem State.updTile_keeps {r₀ : State} {s : State} (i : Nat) (f : Tile → Tile) (hk : Keeps r₀ s) :
    Keeps r₀ (State.updTile s i f) := by
  unfold State.updTile
  repeat' (with_reducible apply Keeps.set; with_reducible assumption)

theorem State.updChan_keeps {r₀ : State} {s : State} (i : Nat) (f : Chan → Chan) (hk : Keeps r₀ s) :
    Keeps r₀ (State.updChan s i f) := by
  unfold State.updChan
  repeat' (with_reducible apply Keeps.set; with_reducible assumption)

theorem State.updSlice_keeps {r₀ : State} {s : State} (i : Nat) (f : AtuSlice → AtuSlice) (hk : Keeps r₀ s) :
    Keeps r₀ (State.updSlice s i f) := by
  unfold State.updSlice
  repeat' first
    | extract_lets +onlyGivenNames kx; subst kx
    | with_reducible apply Keeps.set; with_reducible assumption

theorem State.updEng_keeps {r₀ : State} {s : State} (i : Nat) (f : DmaEng → DmaEng) (hk : Keeps r₀ s) :
    Keeps r₀ (State.updEng s i f) := by
  unfold State.updEng
  repeat' (with_reducible apply Keeps.set; with_reducible assumption)

theorem State.updDch_keeps {r₀ : State} {s : State} (e c : Nat) (f : DmaCh → DmaCh) (hk : Keeps r₀ s) :
    Keeps r₀ (State.updDch s e c f) := by
  unfold State.updDch
  repeat' first
    | with_reducible assumption
    | with_reducible apply State.updEng_keeps

theorem State.updLpc_keeps {r₀ : State} {s : State} (i : Nat) (f : Lpc → Lpc) (hk : Keeps r₀ s) :
    Keeps r₀ (State.updLpc s i f) := by
  unfold State.updLpc
  repeat' (with_reducible apply Keeps.set; with_reducible assumption)

theorem State.updComp_keeps {r₀ : State} {s : State} (i : Nat) (f : Comp → Comp) (hk : Keeps r₀ s) :
    Keeps r₀ (State.updComp s i f) := by
  unfold State.updComp
  repeat' (with_reducible apply Keeps.set; with_reducible assumption)

theorem State.updSieve_keeps {r₀ : State} {s : State} (i : Nat) (f : Sieve → Sieve) (hk : Keeps r₀ s) :
    Keeps r₀ (State.updSieve s i f) := by
  unfold State.updSieve
  repeat' (with_reducible apply Keeps.set; with_reducible assumption)

theorem State.updRing_keeps {r₀ : State} {s : State} (i : Nat) (f : Ring → Ring) (hk : Keeps r₀ s) :
    Keeps r₀ (State.updRing s i f) := by
  unfold State.updRing
  repeat' (with_reducible apply Keeps.set; with_reducible assumption)

theorem State.updTag_keeps {r₀ : State} {s : State} (i : Nat) (f : Tag → Tag) (hk : Keeps r₀ s) :
    Keeps r₀ (State.updTag s i f) := by
  unfold State.updTag
  repeat' (with_reducible apply Keeps.set; with_reducible assumption)

theorem State.updGroup_keeps {r₀ : State} {s : State} (i : Nat) (f : Group → Group) (hk : Keeps r₀ s) :
    Keeps r₀ (State.updGroup s i f) := by
  unfold State.updGroup
  repeat' (with_reducible apply Keeps.set; with_reducible assumption)

theorem State.updReq_keeps {r₀ : State} {s : State} (i : Nat) (f : Req → Req) (hk : Keeps r₀ s) :
    Keeps r₀ (State.updReq s i f) := by
  unfold State.updReq
  repeat' (with_reducible apply Keeps.set; with_reducible assumption)

theorem State.updTenant_keeps {r₀ : State} {s : State} (i : Nat) (f : Tenant → Tenant) (hk : Keeps r₀ s) :
    Keeps r₀ (State.updTenant s i f) := by
  unfold State.updTenant
  repeat' (with_reducible apply Keeps.set; with_reducible assumption)

theorem State.updSlot_keeps {r₀ : State} {s : State} (i : Nat) (f : Slot → Slot) (hk : Keeps r₀ s) :
    Keeps r₀ (State.updSlot s i f) := by
  unfold State.updSlot
  repeat' (with_reducible apply Keeps.set; with_reducible assumption)

theorem State.updLd_keeps {r₀ : State} {s : State} (i : Nat) (f : LDev → LDev) (hk : Keeps r₀ s) :
    Keeps r₀ (State.updLd s i f) := by
  unfold State.updLd
  repeat' (with_reducible apply Keeps.set; with_reducible assumption)

theorem State.updTpwr_keeps {r₀ : State} {s : State} (t : Nat) (f : TilePwr → TilePwr) (hk : Keeps r₀ s) :
    Keeps r₀ (State.updTpwr s t f) := by
  unfold State.updTpwr
  repeat' first
    | extract_lets +onlyGivenNames kx; subst kx
    | with_reducible apply Keeps.set; with_reducible assumption

theorem State.updCmp_keeps {r₀ : State} {s : State} (k : Nat) (f : Cmp → Cmp) (hk : Keeps r₀ s) :
    Keeps r₀ (State.updCmp s k f) := by
  unfold State.updCmp
  repeat' first
    | extract_lets +onlyGivenNames kx; subst kx
    | with_reducible apply Keeps.set; with_reducible assumption

theorem State.updAcct_keeps {r₀ : State} {s : State} (i : Nat) (f : Acct → Acct) (hk : Keeps r₀ s) :
    Keeps r₀ (State.updAcct s i f) := by
  unfold State.updAcct
  repeat' (with_reducible apply Keeps.set; with_reducible assumption)

theorem State.updLink_keeps {r₀ : State} {s : State} (i : Nat) (f : Link → Link) (hk : Keeps r₀ s) :
    Keeps r₀ (State.updLink s i f) := by
  unfold State.updLink
  repeat' first
    | extract_lets +onlyGivenNames kx; subst kx
    | with_reducible apply Keeps.set; with_reducible assumption

theorem State.updLnd_keeps {r₀ : State} {s : State} (d : Nat) (f : LinkDie → LinkDie) (hk : Keeps r₀ s) :
    Keeps r₀ (State.updLnd s d f) := by
  unfold State.updLnd
  repeat' first
    | extract_lets +onlyGivenNames kx; subst kx
    | with_reducible apply Keeps.set; with_reducible assumption

theorem State.updConn_keeps {r₀ : State} {s : State} (c : Nat) (f : Conn → Conn) (hk : Keeps r₀ s) :
    Keeps r₀ (State.updConn s c f) := by
  unfold State.updConn
  repeat' first
    | extract_lets +onlyGivenNames kx; subst kx
    | with_reducible apply Keeps.set; with_reducible assumption

theorem State.updSq_keeps {r₀ : State} {s : State} (i : Nat) (f : SendQ → SendQ) (hk : Keeps r₀ s) :
    Keeps r₀ (State.updSq s i f) := by
  unfold State.updSq
  repeat' first
    | extract_lets +onlyGivenNames kx; subst kx
    | with_reducible apply Keeps.set; with_reducible assumption

theorem State.updCq_keeps {r₀ : State} {s : State} (i : Nat) (f : CplQ → CplQ) (hk : Keeps r₀ s) :
    Keeps r₀ (State.updCq s i f) := by
  unfold State.updCq
  repeat' first
    | extract_lets +onlyGivenNames kx; subst kx
    | with_reducible apply Keeps.set; with_reducible assumption

theorem State.draw_keeps {r₀ : State} {s : State} (hk : Keeps r₀ s) : Keeps r₀ (State.draw s) := by
  unfold State.draw
  repeat' (with_reducible apply Keeps.set; with_reducible assumption)

theorem State.wrBytes_keeps {r₀ : State} {s : State} (a : Nat) (bs : List Byte) (hk : Keeps r₀ s) :
    Keeps r₀ (State.wrBytes s a bs) := by
  exact Keeps.setMem hk (memPut_wf _ _ _) id id

theorem State.wr_keeps {r₀ : State} {s : State} (a n v : Nat) (hk : Keeps r₀ s) : Keeps r₀ (State.wr s a n v) := by
  unfold State.wr
  repeat' first
    | with_reducible assumption
    | with_reducible apply State.wrBytes_keeps

theorem State.zero_keeps {r₀ : State} {s : State} (a n : Nat) (hk : Keeps r₀ s) : Keeps r₀ (State.zero s a n) := by
  exact Keeps.setMem hk (memZero_wf _ _) id id

theorem State.wwr_keeps {r₀ : State} {s : State} (t off n v : Nat) (hk : Keeps r₀ s) :
    Keeps r₀ (State.wwr s t off n v) := by
  unfold State.wwr
  repeat' first
    | with_reducible assumption
    | with_reducible apply State.wr_keeps

theorem State.wwrBytes_keeps {r₀ : State} {s : State} (t off : Nat) (bs : List Byte) (hk : Keeps r₀ s) :
    Keeps r₀ (State.wwrBytes s t off bs) := by
  unfold State.wwrBytes
  repeat' first
    | with_reducible assumption
    | with_reducible apply State.wrBytes_keeps

theorem State.t3Put_keeps {r₀ : State} {s : State} (h : Nat) (bs : List Byte) (hk : Keeps r₀ s) :
    Keeps r₀ (State.t3Put s h bs) := by
  exact Keeps.setMem hk id (fun w => memPut_wf _ _ _ (memZero_wf _ _ w)) id

theorem State.t3Zero_keeps {r₀ : State} {s : State} (h : Nat) (hk : Keeps r₀ s) : Keeps r₀ (State.t3Zero s h) := by
  exact Keeps.setMem hk id (memZero_wf _ _) id

theorem State.hostPut_keeps {r₀ : State} {s : State} (ld a : Nat) (bs : List Byte) (hk : Keeps r₀ s) :
    Keeps r₀ (State.hostPut s ld a bs) := by
  exact Keeps.setMem hk id id (memPut_wf _ _ _)

theorem State.raise_keeps {r₀ : State} {s : State} (src : Nat) (hk : Keeps r₀ s) : Keeps r₀ (State.raise s src) := by
  unfold State.raise
  repeat' first
    | with_reducible assumption
    | extract_lets +onlyGivenNames kx; subst kx
    | with_reducible apply Keeps.set; with_reducible assumption
    | split

theorem State.violate_keeps {r₀ : State} {s : State} (site : Nat) (hk : Keeps r₀ s) : Keeps r₀ (State.violate s site) := by
  unfold State.violate
  repeat' first
    | with_reducible assumption
    | extract_lets +onlyGivenNames kx; refine @Keeps.cut _ r₀ kx ?_ ?_; subst kx; rotate_left; clear_value kx; intro hkx
    | with_reducible apply State.updDie_keeps
    | with_reducible apply State.raise_keeps

theorem State.tableCheck_keeps {r₀ : State} {s : State} (site : Nat) (hk : Keeps r₀ s) :
    Keeps r₀ (State.tableCheck s site) := by
  unfold State.tableCheck
  repeat' first
    | with_reducible assumption
    | with_reducible apply State.updDie_keeps

theorem State.violateAt_keeps {r₀ : State} {s : State} (m : Master) (a : Nat) (hk : Keeps r₀ s) :
    Keeps r₀ (State.violateAt s m a) := by
  unfold State.violateAt
  repeat' first
    | with_reducible assumption
    | with_reducible apply State.violate_keeps

theorem State.msix_keeps {r₀ : State} {s : State} (ld vec : Nat) (hk : Keeps r₀ s) : Keeps r₀ (State.msix s ld vec) := by
  unfold State.msix
  repeat' first
    | with_reducible assumption
    | with_reducible apply State.updLd_keeps
    | with_reducible apply State.hostPut_keeps
    | with_reducible apply Keeps.ite
    | split

theorem State.markHalt_keeps {r₀ : State} {s : State} (r cause : Nat) (hk : Keeps r₀ s) :
    Keeps r₀ (State.markHalt s r cause) := by
  unfold State.markHalt
  repeat' first
    | with_reducible assumption
    | extract_lets +onlyGivenNames kx; refine @Keeps.cut _ r₀ kx ?_ ?_; subst kx; rotate_left; clear_value kx; intro hkx
    | extract_lets +onlyGivenNames kx; subst kx
    | with_reducible apply State.updRing_keeps
    | with_reducible apply Keeps.ite
    | with_reducible apply Keeps.set; with_reducible assumption

theorem State.announce_keeps {r₀ : State} {s : State} (r : Nat) (hk : Keeps r₀ s) : Keeps r₀ (State.announce s r) := by
  unfold State.announce
  repeat' first
    | with_reducible assumption
    | extract_lets +onlyGivenNames kx; subst kx
    | with_reducible apply State.updRing_keeps
    | with_reducible apply State.msix_keeps
    | with_reducible apply Keeps.ite

theorem State.putEntry_keeps {r₀ : State} {s : State} (r raw : Nat) (hk : Keeps r₀ s) :
    Keeps r₀ (State.putEntry s r raw) := by
  unfold State.putEntry
  repeat' first
    | with_reducible assumption
    | extract_lets +onlyGivenNames kx; subst kx
    | with_reducible apply State.updRing_keeps
    | with_reducible apply State.wr_keeps
    | with_reducible apply State.hostPut_keeps
    | with_reducible apply State.markHalt_keeps
    | with_reducible apply State.announce_keeps
    | with_reducible apply Keeps.ite
    | with_reducible apply Keeps.set; with_reducible assumption

theorem State.dropEvent_keeps {r₀ : State} {s : State} (r : Option Nat) (hk : Keeps r₀ s) :
    Keeps r₀ (State.dropEvent s r) := by
  unfold State.dropEvent
  repeat' first
    | with_reducible assumption
    | extract_lets +onlyGivenNames kx; refine @Keeps.cut _ r₀ kx ?_ ?_; subst kx; rotate_left; clear_value kx; intro hkx
    | extract_lets +onlyGivenNames kx; subst kx
    | with_reducible apply State.updRing_keeps
    | with_reducible apply Keeps.set; with_reducible assumption
    | split

theorem State.eventTo_keeps {r₀ : State} {s : State} (ld raw : Nat) (hk : Keeps r₀ s) :
    Keeps r₀ (State.eventTo s ld raw) := by
  unfold State.eventTo
  repeat' first
    | with_reducible assumption
    | extract_lets +onlyGivenNames kx; subst kx
    | with_reducible apply State.putEntry_keeps
    | with_reducible apply State.dropEvent_keeps
    | with_reducible apply Keeps.ite
    | split

theorem State.devEvent_keeps {r₀ : State} {s : State} (kind arg0 arg1 arg2 : Nat) (hk : Keeps r₀ s) :
    Keeps r₀ (State.devEvent s kind arg0 arg1 arg2) := by
  unfold State.devEvent
  repeat' first
    | with_reducible assumption
    | with_reducible apply State.eventTo_keeps

theorem State.tenantEvent_keeps {r₀ : State} {s : State} (tn kind arg0 reqId arg1 arg2 : Nat) (hk : Keeps r₀ s) :
    Keeps r₀ (State.tenantEvent s tn kind arg0 reqId arg1 arg2) := by
  unfold State.tenantEvent
  repeat' first
    | with_reducible assumption
    | with_reducible apply State.eventTo_keeps

theorem State.haltRing_keeps {r₀ : State} {s : State} (r cause : Nat) (hk : Keeps r₀ s) :
    Keeps r₀ (State.haltRing s r cause) := by
  unfold State.haltRing
  repeat' first
    | with_reducible assumption
    | extract_lets +onlyGivenNames kx; refine @Keeps.cut _ r₀ kx ?_ ?_; subst kx; rotate_left; clear_value kx; intro hkx
    | extract_lets +onlyGivenNames kx; subst kx
    | with_reducible apply State.markHalt_keeps
    | with_reducible apply State.eventTo_keeps
    | with_reducible apply Keeps.ite
    | split

theorem State.postEntry_keeps {r₀ : State} {s : State} (r raw : Nat) (hk : Keeps r₀ s) :
    Keeps r₀ (State.postEntry s r raw) := by
  unfold State.postEntry
  repeat' first
    | with_reducible assumption
    | extract_lets +onlyGivenNames kx; refine @Keeps.cut _ r₀ kx ?_ ?_; subst kx; rotate_left; clear_value kx; intro hkx
    | extract_lets +onlyGivenNames kx; subst kx
    | with_reducible apply State.putEntry_keeps
    | with_reducible apply State.haltRing_keeps
    | with_reducible apply Keeps.ite
    | with_reducible apply Keeps.set; with_reducible assumption

theorem State.tap_keeps {r₀ : State} {s : State} (kind domain tn n : Nat) (hk : Keeps r₀ s) :
    Keeps r₀ (State.tap s kind domain tn n) := by
  unfold State.tap
  repeat' first
    | with_reducible assumption
    | with_reducible apply Keeps.ite
    | with_reducible apply Keeps.set; with_reducible assumption

theorem State.countBytes_keeps {r₀ : State} {s : State} (tn i n : Nat) (hk : Keeps r₀ s) :
    Keeps r₀ (State.countBytes s tn i n) := by
  unfold State.countBytes
  repeat' first
    | with_reducible assumption
    | with_reducible apply State.updAcct_keeps
    | with_reducible apply State.tap_keeps

theorem State.countTx_keeps {r₀ : State} {s : State} (tn lk n : Nat) (hk : Keeps r₀ s) :
    Keeps r₀ (State.countTx s tn lk n) := by
  unfold State.countTx
  repeat' first
    | with_reducible assumption
    | with_reducible apply State.updAcct_keeps
    | with_reducible apply State.tap_keeps

theorem State.countRx_keeps {r₀ : State} {s : State} (tn lk n : Nat) (hk : Keeps r₀ s) :
    Keeps r₀ (State.countRx s tn lk n) := by
  unfold State.countRx
  repeat' first
    | with_reducible assumption
    | with_reducible apply State.updAcct_keeps
    | with_reducible apply State.tap_keeps

theorem State.redivide_keeps {r₀ s : State} {f : State → State} (hf : ∀ t, Keeps r₀ t → Keeps r₀ (f t)) (hk : Keeps r₀ s) :
    Keeps r₀ (s.redivide f) := by
  unfold State.redivide
  apply hf
  refine Keeps.foldl ?_ hk
  intro t a ht
  try dsimp only
  split
  · exact ht
  · exact State.updTile_keeps _ _ ht

end Sys2Proof.Machine
end

