-- ==== Sys2Proof/Laws/FrameAtu.lean ====
section
/-!
SUPPORT. Sys2Proof/Laws/FrameAtu.lean: what the operations and commands of Machine/Atu.lean keep (`Keeps`): the queue, the
Cloche, programmed fuses and the canonical form of every byte memory.
-/
namespace Sys2Proof.Machine

theorem State.atuC_keeps {r₀ : State} {s : State} (sl : Nat) (hk : Keeps r₀ s) : Keeps r₀ (State.atuC s sl) := by
  unfold State.atuC
  repeat' first
    | with_reducible assumption
    | with_reducible apply State.raise_keeps

theorem State.atuU_keeps {r₀ : State} {s : State} (sl : Nat) (hk : Keeps r₀ s) : Keeps r₀ (State.atuU s sl) := by
  unfold State.atuU
  repeat' first
    | with_reducible assumption
    | with_reducible apply State.raise_keeps

theorem State.walkEntry_keeps {r₀ : State} {s : State} (sl level table va : Nat) (hk : Keeps r₀ s) :
    KeepsP r₀ (State.walkEntry s sl level table va) := by
  unfold State.walkEntry
  repeat' first
    | with_reducible assumption
    | extract_lets +onlyGivenNames kx; refine @Keeps.cut _ r₀ kx ?_ ?_; subst kx; rotate_left; clear_value kx; intro hkx
    | extract_lets +onlyGivenNames kx; subst kx
    | with_reducible apply State.updSlice_keeps
    | with_reducible apply State.atuC_keeps
    | with_reducible apply State.atuU_keeps
    | with_reducible apply Keeps.ite
    | with_reducible apply KeepsP.mk; fail_if_success (with_reducible apply KeepsP.proj)
    | split

theorem State.walk_keeps {r₀ s : State} (sl va n table : Nat) (hk : Keeps r₀ s) : KeepsP r₀ (s.walk sl va n table) := by
  induction n generalizing s table with
  | zero => exact State.walkEntry_keeps sl 0 table va hk
  | succ l ih =>
    unfold State.walk
    have h := State.walkEntry_keeps sl (l + 1) table va hk
    split
    rename_i e
    have h2 := KeepsP.fst e h
    split
    · exact ih _ h2
    · exact KeepsP.mk h2

theorem State.recordFault_keeps {r₀ : State} {s : State} (sl va cause tile asid : Nat) (hk : Keeps r₀ s) :
    Keeps r₀ (State.recordFault s sl va cause tile asid) := by
  unfold State.recordFault
  repeat' first
    | with_reducible assumption
    | with_reducible apply State.updSlice_keeps

theorem State.translate_keeps {r₀ : State} {s : State} (sl asid tenant va : Nat) (acc : Acc) (tile : Nat)
    (hk : Keeps r₀ s) :
    KeepsP r₀ (State.translate s sl asid tenant va acc tile) := by
  unfold State.translate
  repeat' first
    | with_reducible assumption
    | extract_lets +onlyGivenNames kx; refine @Keeps.cut _ r₀ kx ?_ ?_; subst kx; rotate_left; clear_value kx; intro hkx
    | extract_lets +onlyGivenNames kx; subst kx
    | with_reducible apply State.updSlice_keeps
    | with_reducible apply State.atuC_keeps
    | with_reducible apply State.walk_keeps
    | with_reducible apply State.recordFault_keeps
    | with_reducible apply KeepsP.ite
    | with_reducible apply KeepsP.mk; fail_if_success (with_reducible apply KeepsP.proj)
    | with_reducible apply Keeps.set; with_reducible refine KeepsP.fst (by assumption) ?_
    | split

theorem State.translateRange_keeps {r₀ s : State} (sl asid tenant : Nat) (acc : Acc) (tile f va len : Nat) (hk :
    Keeps r₀ s) :
    KeepsP r₀ (s.translateRange sl asid tenant acc tile f va len) := by
  induction f generalizing s va len with
  | zero => exact KeepsP.mk hk
  | succ f ih =>
    unfold State.translateRange
    split
    · exact KeepsP.mk hk
    · extract_lets n
      have h := State.translate_keeps sl asid tenant va acc tile hk
      split
      · exact KeepsP.mk (KeepsP.fst ‹_› h)
      · have h3 := ih (va + n) (len - n) (KeepsP.fst ‹_› h)
        split
        · exact KeepsP.mk (KeepsP.fst ‹_› h3)
        · exact KeepsP.mk (KeepsP.fst ‹_› h3)

theorem State.ptAlloc_keeps {r₀ : State} {s : State} (n : Nat) (hk : Keeps r₀ s) : KeepsP r₀ (State.ptAlloc s n) := by
  unfold State.ptAlloc
  repeat' first
    | extract_lets +onlyGivenNames kx; subst kx
    | with_reducible apply State.zero_keeps
    | with_reducible apply KeepsP.mk; fail_if_success (with_reducible apply KeepsP.proj)
    | with_reducible apply Keeps.set; with_reducible assumption

theorem State.openAsid_keeps {r₀ : State} {s : State} (asid tenant : Nat) (hk : Keeps r₀ s) :
    Keeps r₀ (State.openAsid s asid tenant) := by
  unfold State.openAsid
  repeat' first
    | with_reducible assumption
    | with_reducible apply State.wr_keeps
    | with_reducible apply State.ptAlloc_keeps
    | with_reducible apply KeepsP.proj

theorem State.leafAddr_keeps {r₀ s : State} (va n table : Nat) (hk : Keeps r₀ s) : KeepsP r₀ (s.leafAddr va n table) := by
  induction n generalizing s table with
  | zero => exact KeepsP.mk hk
  | succ l ih =>
    unfold State.leafAddr
    extract_lets ea e
    split
    · exact ih _ hk
    · have h := State.ptAlloc_keeps tableBytes hk
      exact ih _ (State.wr_keeps _ _ _ h)

theorem State.setLeaf_keeps {r₀ : State} {s : State} (asid vpn entry : Nat) (hk : Keeps r₀ s) :
    Keeps r₀ (State.setLeaf s asid vpn entry) := by
  unfold State.setLeaf
  repeat' first
    | with_reducible assumption
    | with_reducible apply State.wr_keeps
    | with_reducible apply State.leafAddr_keeps
    | with_reducible apply KeepsP.proj

theorem State.dropTlb_keeps {r₀ : State} {s : State} (sc : InvScope) (hk : Keeps r₀ s) : Keeps r₀ (State.dropTlb s sc) := by
  unfold State.dropTlb
  repeat' first
    | extract_lets +onlyGivenNames kx; subst kx
    | with_reducible apply Keeps.set; with_reducible assumption

theorem State.invCmd_keeps {r₀ : State} {s : State} (sc : InvScope) (hk : Keeps r₀ s) : Keeps r₀ (State.invCmd s sc) := by
  unfold State.invCmd
  repeat' first
    | with_reducible assumption
    | extract_lets +onlyGivenNames kx; subst kx
    | with_reducible apply Keeps.ite
    | with_reducible apply Keeps.set; with_reducible assumption

theorem execInvOneAsid_keeps {r₀ : State} (asid : BitVec 16) {s : State} (hk : Keeps r₀ s) :
    KeepsX r₀ (execInvOneAsid asid s) := by
  unfold execInvOneAsid
  repeat' first
    | with_reducible assumption
    | with_reducible apply State.invCmd_keeps
    | with_reducible apply KeepsX.next

theorem execInvRange_keeps {r₀ : State} (asid count : BitVec 16) {s : State} (hk : Keeps r₀ s) :
    KeepsX r₀ (execInvRange asid count s) := by
  unfold execInvRange
  repeat' first
    | with_reducible assumption
    | with_reducible apply State.invCmd_keeps
    | with_reducible apply KeepsX.next

theorem execInvAll_keeps {r₀ : State} {s : State} (hk : Keeps r₀ s) : KeepsX r₀ (execInvAll s) := by
  unfold execInvAll
  repeat' first
    | with_reducible assumption
    | with_reducible apply State.invCmd_keeps
    | with_reducible apply KeepsX.next

theorem execAtuCtrlWrite_keeps {r₀ : State} (v : BitVec 32) {s : State} (hk : Keeps r₀ s) :
    KeepsX r₀ (execAtuCtrlWrite v s) := by
  unfold execAtuCtrlWrite
  repeat' first
    | with_reducible assumption
    | extract_lets +onlyGivenNames kx; subst kx
    | with_reducible apply KeepsX.next
    | with_reducible apply KeepsX.ite
    | with_reducible apply Keeps.set; with_reducible assumption

theorem execAtuCtrlClr_keeps {r₀ : State} (slice : Fin 5) {s : State} (hk : Keeps r₀ s) :
    KeepsX r₀ (execAtuCtrlClr slice s) := by
  unfold execAtuCtrlClr
  repeat' first
    | with_reducible assumption
    | with_reducible apply State.updSlice_keeps
    | with_reducible apply KeepsX.next
    | with_reducible apply KeepsX.ite

end Sys2Proof.Machine
end

