-- ==== Sys2Proof/Laws/FrameTileOps.lean ====
section
/-!
SUPPORT. Sys2Proof/Laws/FrameTileOps.lean: what the operations and commands of Machine/TileOps.lean keep (`Keeps`): the queue, the
Cloche, programmed fuses and the canonical form of every byte memory.
-/
namespace Sys2Proof.Machine

theorem State.updCmd_keeps {r₀ : State} {s : State} (t : Nat) (f : TileCmd → TileCmd) (hk : Keeps r₀ s) :
    Keeps r₀ (State.updCmd s t f) := by
  unfold State.updCmd
  repeat' first
    | with_reducible assumption
    | with_reducible apply State.updTile_keeps

theorem State.updThread_keeps {r₀ : State} {s : State} (t th : Nat) (f : Thread → Thread) (hk : Keeps r₀ s) :
    Keeps r₀ (State.updThread s t th f) := by
  unfold State.updThread
  repeat' first
    | with_reducible assumption
    | with_reducible apply State.updCmd_keeps

theorem State.killResv_keeps {r₀ : State} {s : State} (a n : Nat) (hk : Keeps r₀ s) : Keeps r₀ (State.killResv s a n) := by
  unfold State.killResv
  repeat' first
    | with_reducible assumption
    | with_reducible apply State.updTile_keeps
    | split

theorem State.placeBytes_keeps {r₀ : State} {s : State} (a : Nat) (bs : List Byte) (hk : Keeps r₀ s) :
    Keeps r₀ (State.placeBytes s a bs) := by
  unfold State.placeBytes
  repeat' first
    | with_reducible assumption
    | with_reducible apply State.wrBytes_keeps
    | with_reducible apply State.killResv_keeps

theorem State.chargeRun_keeps {r₀ : State} {s : State} (t : Nat) (c : TileCmd) (hk : Keeps r₀ s) :
    Keeps r₀ (State.chargeRun s t c) := by
  unfold State.chargeRun
  repeat' first
    | with_reducible assumption
    | extract_lets +onlyGivenNames kx; subst kx
    | with_reducible apply State.updAcct_keeps
    | with_reducible apply State.tap_keeps
    | with_reducible apply Keeps.ite

theorem State.stopProg_keeps {r₀ : State} {s : State} (ch : Nat) (hk : Keeps r₀ s) : Keeps r₀ (State.stopProg s ch) := by
  unfold State.stopProg
  repeat' first
    | with_reducible assumption
    | extract_lets +onlyGivenNames kx; subst kx
    | with_reducible apply State.updChan_keeps
    | with_reducible apply State.draw_keeps

theorem State.stopProgs_keeps {r₀ : State} {s : State} (t : Nat) (hk : Keeps r₀ s) : Keeps r₀ (State.stopProgs s t) := by
  unfold State.stopProgs
  repeat' first
    | with_reducible assumption
    | with_reducible apply State.stopProg_keeps
    | with_reducible apply Keeps.ite
    | with_reducible refine Keeps.foldl ?_ ?_; intro _ _ _
    | split

theorem State.killWork_keeps {r₀ : State} {s : State} (t : Nat) (hk : Keeps r₀ s) : Keeps r₀ (State.killWork s t) := by
  unfold State.killWork
  exact State.draw_keeps (Keeps.setMem (t := s) hk (fun w => foldl_memSet_all_wf _ (memZero_wf _ _ w)) id id)

theorem State.detachHeld_keeps {r₀ : State} {s : State} (t : Nat) (hk : Keeps r₀ s) : Keeps r₀ (State.detachHeld s t) := by
  unfold State.detachHeld
  repeat' (with_reducible apply Keeps.set; with_reducible assumption)

theorem State.tileEntry_keeps {r₀ : State} {s : State} (t kind status done : Nat) (f : Xfer) (hk : Keeps r₀ s) :
    Keeps r₀ (State.tileEntry s t kind status done f) := by
  unfold State.tileEntry
  repeat' first
    | with_reducible assumption
    | extract_lets +onlyGivenNames kx; subst kx
    | with_reducible apply State.placeBytes_keeps

theorem State.killXfer_keeps {r₀ : State} {s : State} (tile : Fin 48) (c : Nat) (hk : Keeps r₀ s) :
    Keeps r₀ (State.killXfer s tile c) := by
  unfold State.killXfer
  repeat' first
    | with_reducible assumption
    | extract_lets +onlyGivenNames kx; refine @Keeps.cut _ r₀ kx ?_ ?_; subst kx; rotate_left; clear_value kx; intro hkx
    | extract_lets +onlyGivenNames kx; subst kx
    | with_reducible apply State.updDch_keeps
    | with_reducible apply State.tileEntry_keeps
    | split

theorem State.dropTileDma_keeps {r₀ : State} {s : State} (t : Nat) (hk : Keeps r₀ s) :
    Keeps r₀ (State.dropTileDma s t) := by
  unfold State.dropTileDma
  repeat' first
    | with_reducible assumption
    | extract_lets +onlyGivenNames kx; refine @Keeps.cut _ r₀ kx ?_ ?_; subst kx; rotate_left; clear_value kx; intro hkx
    | extract_lets +onlyGivenNames kx; subst kx
    | with_reducible apply State.killXfer_keeps
    | with_reducible apply Keeps.set; with_reducible assumption

theorem State.leaveSieve_keeps {r₀ : State} {s : State} (t : Nat) (hk : Keeps r₀ s) : Keeps r₀ (State.leaveSieve s t) := by
  unfold State.leaveSieve
  repeat' first
    | with_reducible assumption
    | with_reducible apply State.updSieve_keeps

theorem State.releaseTile_keeps {r₀ : State} {s : State} (t : Nat) (hk : Keeps r₀ s) :
    Keeps r₀ (State.releaseTile s t) := by
  unfold State.releaseTile
  repeat' first
    | with_reducible assumption
    | extract_lets +onlyGivenNames kx; refine @Keeps.cut _ r₀ kx ?_ ?_; subst kx; rotate_left; clear_value kx; intro hkx
    | with_reducible apply State.updTile_keeps
    | with_reducible apply State.chargeRun_keeps
    | with_reducible apply State.stopProgs_keeps
    | with_reducible apply State.killWork_keeps
    | with_reducible apply State.detachHeld_keeps
    | with_reducible apply State.dropTileDma_keeps
    | with_reducible apply State.leaveSieve_keeps
    | split

theorem State.unpin_keeps {r₀ : State} {s : State} (g : Nat) (hk : Keeps r₀ s) : Keeps r₀ (State.unpin s g) := by
  unfold State.unpin
  repeat' first
    | with_reducible assumption
    | with_reducible apply State.updTag_keeps
    | with_reducible apply State.updSlot_keeps
    | split

theorem State.freeTag_keeps {r₀ : State} {s : State} (g : Nat) (hk : Keeps r₀ s) : Keeps r₀ (State.freeTag s g) := by
  unfold State.freeTag
  repeat' first
    | with_reducible assumption
    | extract_lets +onlyGivenNames kx; subst kx
    | with_reducible apply State.updTag_keeps
    | with_reducible apply State.unpin_keeps
    | with_reducible apply Keeps.ite

theorem State.freeRoom_keeps {r₀ : State} {s : State} (ws : List Work) (hk : Keeps r₀ s) :
    Keeps r₀ (State.freeRoom s ws) := by
  unfold State.freeRoom
  repeat' first
    | with_reducible assumption
    | with_reducible apply State.updRing_keeps
    | with_reducible apply Keeps.ite
    | with_reducible refine Keeps.foldl ?_ ?_; intro _ _ _

theorem State.stopMember_keeps {r₀ : State} {s : State} (g : Nat) (failed : Bool) (status : Nat) (hk : Keeps r₀ s) :
    Keeps r₀ (State.stopMember s g failed status) := by
  unfold State.stopMember
  repeat' first
    | with_reducible assumption
    | extract_lets +onlyGivenNames kx; refine @Keeps.cut _ r₀ kx ?_ ?_; subst kx; rotate_left; clear_value kx; intro hkx
    | extract_lets +onlyGivenNames kx; subst kx
    | with_reducible apply State.updTile_keeps
    | with_reducible apply State.updTag_keeps
    | with_reducible apply State.updAcct_keeps
    | with_reducible apply State.draw_keeps
    | with_reducible apply State.releaseTile_keeps
    | split

theorem State.journalRec_keeps {r₀ : State} {s : State} (kind : JKind) (g planPos : Nat) (descs pubs : List Nat)
    (defs : List (Nat × Nat × Deferred)) (hk : Keeps r₀ s) :
    Keeps r₀ (State.journalRec s kind g planPos descs pubs defs) := by
  unfold State.journalRec
  repeat' first
    | extract_lets +onlyGivenNames kx; subst kx
    | with_reducible apply Keeps.set; with_reducible assumption

theorem State.putJRec_keeps {r₀ : State} {s : State} (r : JRec) (hk : Keeps r₀ s) : Keeps r₀ (State.putJRec s r) := by
  unfold State.putJRec
  repeat' first
    | with_reducible assumption
    | extract_lets +onlyGivenNames kx; refine @Keeps.cut _ r₀ kx ?_ ?_; subst kx; rotate_left; clear_value kx; intro hkx
    | extract_lets +onlyGivenNames kx; subst kx
    | with_reducible apply State.wrBytes_keeps
    | with_reducible apply Keeps.set; with_reducible assumption

theorem State.flushJournal_keeps {r₀ : State} {s : State} (hk : Keeps r₀ s) : Keeps r₀ (State.flushJournal s) := by
  unfold State.flushJournal
  repeat' first
    | with_reducible assumption
    | with_reducible apply State.putJRec_keeps
    | with_reducible refine Keeps.foldl ?_ ?_; intro _ _ _

theorem State.stopGroup_keeps {r₀ : State} {s : State} (g : Nat) (failing : Option Nat) (status : Nat) (hk : Keeps r₀ s) :
    Keeps r₀ (State.stopGroup s g failing status) := by
  unfold State.stopGroup
  repeat' first
    | with_reducible assumption
    | extract_lets +onlyGivenNames kx; refine @Keeps.cut _ r₀ kx ?_ ?_; subst kx; rotate_left; clear_value kx; intro hkx
    | extract_lets +onlyGivenNames kx; subst kx
    | with_reducible apply State.updGroup_keeps
    | with_reducible apply State.stopMember_keeps
    | with_reducible apply Keeps.ite
    | with_reducible apply Keeps.set; with_reducible assumption
    | with_reducible refine Keeps.foldl ?_ ?_; intro _ _ _

theorem State.markRerun_keeps {r₀ : State} {s : State} (g : Nat) (hk : Keeps r₀ s) : Keeps r₀ (State.markRerun s g) := by
  unfold State.markRerun
  repeat' first
    | with_reducible assumption
    | with_reducible apply State.updTag_keeps
    | with_reducible apply State.freeTag_keeps
    | with_reducible refine Keeps.foldl ?_ ?_; intro _ _ _

theorem State.closeGroup_keeps {r₀ : State} {s : State} (g status : Nat) (hk : Keeps r₀ s) :
    Keeps r₀ (State.closeGroup s g status) := by
  unfold State.closeGroup
  repeat' first
    | with_reducible assumption
    | extract_lets +onlyGivenNames kx; refine @Keeps.cut _ r₀ kx ?_ ?_; subst kx; rotate_left; clear_value kx; intro hkx
    | with_reducible apply State.updTag_keeps
    | with_reducible apply State.updGroup_keeps
    | with_reducible apply State.freeTag_keeps
    | with_reducible apply State.freeRoom_keeps
    | with_reducible apply State.journalRec_keeps
    | with_reducible refine Keeps.foldl ?_ ?_; intro _ _ _

theorem State.failGroup_keeps {r₀ : State} {s : State} (g : Nat) (failing : Nat) (status : Nat) (hk : Keeps r₀ s) :
    Keeps r₀ (State.failGroup s g failing status) := by
  unfold State.failGroup
  repeat' first
    | with_reducible assumption
    | extract_lets +onlyGivenNames kx; refine @Keeps.cut _ r₀ kx ?_ ?_; subst kx; rotate_left; clear_value kx; intro hkx
    | with_reducible apply State.stopGroup_keeps
    | with_reducible apply State.markRerun_keeps
    | with_reducible apply State.closeGroup_keeps
    | with_reducible apply Keeps.ite

theorem State.failCmd_keeps {r₀ : State} {s : State} (t status : Nat) (hk : Keeps r₀ s) :
    Keeps r₀ (State.failCmd s t status) := by
  unfold State.failCmd
  repeat' first
    | with_reducible assumption
    | with_reducible apply State.failGroup_keeps
    | with_reducible apply Keeps.ite
    | split

theorem State.failAccess_keeps {r₀ : State} {s : State} (t status : Nat) (hk : Keeps r₀ s) :
    Keeps r₀ (State.failAccess s t status) := by
  unfold State.failAccess
  repeat' first
    | with_reducible assumption
    | extract_lets +onlyGivenNames kx; refine @Keeps.cut _ r₀ kx ?_ ?_; subst kx; rotate_left; clear_value kx; intro hkx
    | with_reducible apply State.violate_keeps
    | with_reducible apply State.failCmd_keeps
    | with_reducible apply Keeps.ite

end Sys2Proof.Machine
end

