-- ==== Sys2Proof/Laws/FrameLinks.lean ====
section
/-!
SUPPORT. Sys2Proof/Laws/FrameLinks.lean: what the operations and commands of Machine/Links.lean keep (`Keeps`): the queue, the
Cloche, programmed fuses and the canonical form of every byte memory.
-/
namespace Sys2Proof.Machine

theorem State.egrCheck_keeps {r₀ : State} {s : State} (d n : Nat) (hk : Keeps r₀ s) : Keeps r₀ (State.egrCheck s d n) := by
  unfold State.egrCheck
  repeat' first
    | with_reducible assumption
    | with_reducible apply State.updLnd_keeps
    | with_reducible apply State.raise_keeps
    | with_reducible apply Keeps.ite

theorem State.evalPkt_keeps {r₀ : State} {s : State} (lk : Nat) (x : Queued) (hk : Keeps r₀ s) :
    KeepsP r₀ (State.evalPkt s lk x) := by
  unfold State.evalPkt
  repeat' first
    | with_reducible assumption
    | extract_lets +onlyGivenNames kx; refine @Keeps.cut _ r₀ kx ?_ ?_; subst kx; rotate_left; clear_value kx; intro hkx
    | extract_lets +onlyGivenNames kx; subst kx
    | with_reducible apply State.updLnd_keeps
    | with_reducible apply State.egrCheck_keeps
    | with_reducible apply KeepsP.mk; fail_if_success (with_reducible apply KeepsP.proj)
    | split

theorem State.findCand_keeps {r₀ s : State} (lk i : Nat) (stuck : List (Option Nat)) (done xs : List Queued) (hk :
    Keeps r₀ s) :
    KeepsP r₀ (s.findCand lk i stuck done xs) := by
  induction xs generalizing s i stuck done with
  | nil => exact KeepsP.mk hk
  | cons x rest ih =>
    unfold State.findCand
    repeat' first
      | with_reducible apply ih
      | with_reducible assumption
      | extract_lets +onlyGivenNames kx; refine @KeepsP.cut _ _ r₀ kx ?_ ?_; subst kx; rotate_left; clear_value kx; intro hkx
      | with_reducible apply State.evalPkt_keeps
      | with_reducible apply KeepsP.ite
      | with_reducible apply KeepsP.mk; fail_if_success (with_reducible apply KeepsP.proj)
      | with_reducible apply KeepsP.of_mk; with_reducible assumption
      | split
      | with_reducible apply KeepsP.mk; with_reducible apply KeepsP.proj; first | with_reducible assumption | with_reducible apply State.evalPkt_keeps

theorem State.evalQueue_keeps {r₀ : State} {s : State} (lk k : Nat) (hk : Keeps r₀ s) :
    Keeps r₀ (State.evalQueue s lk k) := by
  unfold State.evalQueue
  repeat' first
    | with_reducible assumption
    | extract_lets +onlyGivenNames kx; refine @KeepsP.cut _ _ r₀ kx ?_ ?_; subst kx; rotate_left; clear_value kx; intro hkx
    | with_reducible apply State.updLink_keeps
    | with_reducible apply State.findCand_keeps
    | with_reducible apply KeepsP.of_mk; with_reducible assumption

theorem State.push_keeps {r₀ : State} {s : State} (lk : Nat) (x : Queued) (hk : Keeps r₀ s) :
    Keeps r₀ (State.push s lk x) := by
  unfold State.push
  repeat' first
    | with_reducible assumption
    | extract_lets +onlyGivenNames kx; subst kx
    | with_reducible apply State.updLink_keeps
    | with_reducible apply State.evalQueue_keeps

theorem State.enq_keeps {r₀ : State} {s : State} (lk : Nat) (x : Queued) (hk : Keeps r₀ s) :
    Keeps r₀ (State.enq s lk x) := by
  unfold State.enq
  repeat' first
    | with_reducible assumption
    | extract_lets +onlyGivenNames kx; subst kx
    | with_reducible apply State.updLink_keeps
    | with_reducible apply State.push_keeps
    | with_reducible apply Keeps.ite

theorem State.refillQueues_keeps {r₀ : State} {s : State} (lk : Nat) (hk : Keeps r₀ s) :
    Keeps r₀ (State.refillQueues s lk) := by
  unfold State.refillQueues
  repeat' first
    | with_reducible assumption
    | extract_lets +onlyGivenNames kx; refine @Keeps.cut _ r₀ kx ?_ ?_; subst kx; rotate_left; clear_value kx; intro hkx
    | extract_lets +onlyGivenNames kx; subst kx
    | with_reducible apply State.updLink_keeps
    | with_reducible apply State.enq_keeps
    | with_reducible refine Keeps.foldl ?_ ?_; intro _ _ _

theorem State.linkCtl_keeps {r₀ : State} {s : State} (lk kind seq credit : Nat) (hk : Keeps r₀ s) :
    Keeps r₀ (State.linkCtl s lk kind seq credit) := by
  unfold State.linkCtl
  repeat' first
    | with_reducible assumption
    | extract_lets +onlyGivenNames kx; subst kx
    | with_reducible apply State.enq_keeps

theorem State.sendHello_keeps {r₀ : State} {s : State} (lk dst kind : Nat) (hk : Keeps r₀ s) :
    Keeps r₀ (State.sendHello s lk dst kind) := by
  unfold State.sendHello
  repeat' first
    | with_reducible assumption
    | extract_lets +onlyGivenNames kx; subst kx
    | with_reducible apply State.enq_keeps

theorem State.setPeer_keeps {r₀ : State} {s : State} (f e : Nat) (hk : Keeps r₀ s) : Keeps r₀ (State.setPeer s f e) := by
  unfold State.setPeer
  repeat' first
    | extract_lets +onlyGivenNames kx; subst kx
    | with_reducible apply Keeps.set; with_reducible assumption

theorem State.discardLink_keeps {r₀ : State} {s : State} (lk : Nat) (hk : Keeps r₀ s) :
    Keeps r₀ (State.discardLink s lk) := by
  unfold State.discardLink
  repeat' first
    | with_reducible assumption
    | extract_lets +onlyGivenNames kx; subst kx
    | with_reducible apply State.updLink_keeps
    | with_reducible apply State.updConn_keeps
    | with_reducible refine Keeps.foldl ?_ ?_; intro _ _ _

theorem State.freeRx_keeps {r₀ : State} {s : State} (lk : Nat) (p : Pkt) (hk : Keeps r₀ s) :
    Keeps r₀ (State.freeRx s lk p) := by
  unfold State.freeRx
  repeat' first
    | with_reducible assumption
    | with_reducible apply State.updLink_keeps

theorem State.takeRx_keeps {r₀ : State} {s : State} (p : Pkt) (hk : Keeps r₀ s) : KeepsP r₀ (State.takeRx s p) := by
  unfold State.takeRx
  repeat' first
    | with_reducible assumption
    | with_reducible apply State.freeRx_keeps
    | with_reducible apply KeepsP.mk; fail_if_success (with_reducible apply KeepsP.proj)
    | split

theorem State.arrive_keeps {r₀ : State} {s : State} (p : Pkt) (hk : Keeps r₀ s) : KeepsP r₀ (State.arrive s p) := by
  unfold State.arrive
  repeat' first
    | with_reducible assumption
    | extract_lets +onlyGivenNames kx; refine @KeepsP.cut _ _ r₀ kx ?_ ?_; subst kx; rotate_left; clear_value kx; intro hkx
    | with_reducible apply State.takeRx_keeps
    | with_reducible apply KeepsP.mk; with_reducible apply KeepsP.proj; first | with_reducible assumption | with_reducible apply State.takeRx_keeps

theorem State.takeRxLike_keeps {r₀ : State} {s : State} (f : Pkt → Bool) (hk : Keeps r₀ s) :
    KeepsP r₀ (State.takeRxLike s f) := by
  unfold State.takeRxLike
  repeat' first
    | with_reducible assumption
    | with_reducible apply State.freeRx_keeps
    | with_reducible apply KeepsP.mk; fail_if_success (with_reducible apply KeepsP.proj)
    | split

theorem State.deliver_keeps {r₀ : State} {s : State} (lk : Nat) (p : Pkt) (hk : Keeps r₀ s) :
    Keeps r₀ (State.deliver s lk p) := by
  unfold State.deliver
  repeat' first
    | with_reducible assumption
    | extract_lets +onlyGivenNames kx; subst kx
    | with_reducible apply State.updLink_keeps
    | with_reducible apply Keeps.ite

theorem State.nak_keeps {r₀ : State} {s : State} (lk : Nat) (hk : Keeps r₀ s) : Keeps r₀ (State.nak s lk) := by
  unfold State.nak
  repeat' first
    | with_reducible assumption
    | extract_lets +onlyGivenNames kx; subst kx
    | with_reducible apply State.updLink_keeps
    | with_reducible apply State.linkCtl_keeps
    | with_reducible apply Keeps.ite

theorem execLinkPacketReceive_keeps {r₀ : State} (lk : Fin 36) (p : Pkt) (fec : FecOutcome) {s : State} (hk : Keeps r₀ s) :
    KeepsX r₀ (execLinkPacketReceive lk p fec s) := by
  unfold execLinkPacketReceive
  repeat' first
    | with_reducible assumption
    | extract_lets +onlyGivenNames kx; refine @Keeps.cut _ r₀ kx ?_ ?_; subst kx; rotate_left; clear_value kx; intro hkx
    | extract_lets +onlyGivenNames kx; subst kx
    | with_reducible apply State.updLink_keeps
    | with_reducible apply State.deliver_keeps
    | with_reducible apply State.nak_keeps
    | with_reducible apply Keeps.ite
    | with_reducible apply KeepsX.next
    | with_reducible apply KeepsX.ite

theorem execLinkAck_keeps {r₀ : State} (lk : Fin 36) (seq : BitVec 12) (credit : BitVec 64) {s : State} (hk : Keeps r₀ s) :
    KeepsX r₀ (execLinkAck lk seq credit s) := by
  unfold execLinkAck
  repeat' first
    | with_reducible assumption
    | extract_lets +onlyGivenNames kx; subst kx
    | with_reducible apply State.updLink_keeps
    | with_reducible apply KeepsX.next
    | with_reducible apply KeepsX.ite

theorem State.startReplay_keeps {r₀ : State} {s : State} (lk seq : Nat) (hk : Keeps r₀ s) :
    Keeps r₀ (State.startReplay s lk seq) := by
  unfold State.startReplay
  repeat' first
    | with_reducible assumption
    | with_reducible apply State.updLink_keeps
    | with_reducible apply State.linkCtl_keeps

theorem execLinkNak_keeps {r₀ : State} (lk : Fin 36) (seq : BitVec 12) (credit : BitVec 64) {s : State} (hk : Keeps r₀ s) :
    KeepsX r₀ (execLinkNak lk seq credit s) := by
  unfold execLinkNak
  repeat' first
    | with_reducible assumption
    | extract_lets +onlyGivenNames kx; refine @Keeps.cut _ r₀ kx ?_ ?_; subst kx; rotate_left; clear_value kx; intro hkx
    | extract_lets +onlyGivenNames kx; subst kx
    | with_reducible apply State.updLink_keeps
    | with_reducible apply State.startReplay_keeps
    | with_reducible apply KeepsX.next
    | with_reducible apply KeepsX.ite

theorem execReplayStart_keeps {r₀ : State} (lk : Fin 36) {s : State} (hk : Keeps r₀ s) :
    KeepsX r₀ (execReplayStart lk s) := by
  unfold execReplayStart
  repeat' first
    | with_reducible assumption
    | with_reducible apply State.updLink_keeps
    | with_reducible apply KeepsX.next
    | with_reducible apply KeepsX.ite

theorem execLinkAckTimer_keeps {r₀ : State} (lk : Fin 36) {s : State} (hk : Keeps r₀ s) :
    KeepsX r₀ (execLinkAckTimer lk s) := by
  unfold execLinkAckTimer
  repeat' first
    | with_reducible assumption
    | extract_lets +onlyGivenNames kx; refine @Keeps.cut _ r₀ kx ?_ ?_; subst kx; rotate_left; clear_value kx; intro hkx
    | extract_lets +onlyGivenNames kx; subst kx
    | with_reducible apply State.updLink_keeps
    | with_reducible apply State.linkCtl_keeps
    | with_reducible apply KeepsX.next
    | with_reducible apply KeepsX.ite

theorem State.retrain_keeps {r₀ : State} {s : State} (lk : Nat) (hk : Keeps r₀ s) : Keeps r₀ (State.retrain s lk) := by
  unfold State.retrain
  repeat' first
    | with_reducible assumption
    | with_reducible apply State.updLink_keeps

theorem execLinkRetrain_keeps {r₀ : State} (lk : Fin 36) {s : State} (hk : Keeps r₀ s) :
    KeepsX r₀ (execLinkRetrain lk s) := by
  unfold execLinkRetrain
  repeat' first
    | with_reducible assumption
    | extract_lets +onlyGivenNames kx; subst kx
    | with_reducible apply State.retrain_keeps
    | with_reducible apply KeepsX.next
    | with_reducible apply KeepsX.ite

theorem execLinkCtrlRetrain_keeps {r₀ : State} (lk : Fin 36) {s : State} (hk : Keeps r₀ s) :
    KeepsX r₀ (execLinkCtrlRetrain lk s) := by
  unfold execLinkCtrlRetrain
  repeat' first
    | with_reducible assumption
    | with_reducible apply State.updLink_keeps
    | with_reducible apply State.retrain_keeps
    | with_reducible apply KeepsX.next
    | with_reducible apply KeepsX.ite

theorem execLinkRetrainDone_keeps {r₀ : State} (lk : Fin 36) {s : State} (hk : Keeps r₀ s) :
    KeepsX r₀ (execLinkRetrainDone lk s) := by
  unfold execLinkRetrainDone
  repeat' first
    | with_reducible assumption
    | extract_lets +onlyGivenNames kx; refine @Keeps.cut _ r₀ kx ?_ ?_; subst kx; rotate_left; clear_value kx; intro hkx
    | extract_lets +onlyGivenNames kx; subst kx
    | with_reducible apply State.updLink_keeps
    | with_reducible apply State.startReplay_keeps
    | with_reducible apply KeepsX.next
    | with_reducible apply KeepsX.ite
    | split

theorem execLinkRetrainTimeout_keeps {r₀ : State} (lk : Fin 36) {s : State} (hk : Keeps r₀ s) :
    KeepsX r₀ (execLinkRetrainTimeout lk s) := by
  unfold execLinkRetrainTimeout
  repeat' first
    | with_reducible assumption
    | extract_lets +onlyGivenNames kx; refine @Keeps.cut _ r₀ kx ?_ ?_; subst kx; rotate_left; clear_value kx; intro hkx
    | extract_lets +onlyGivenNames kx; subst kx
    | with_reducible apply State.updLink_keeps
    | with_reducible apply State.raise_keeps
    | with_reducible apply State.discardLink_keeps
    | with_reducible apply KeepsX.next
    | with_reducible apply KeepsX.ite

theorem execLinkEnable_keeps {r₀ : State} (lk : Fin 36) (on : Bool) {s : State} (hk : Keeps r₀ s) :
    KeepsX r₀ (execLinkEnable lk on s) := by
  unfold execLinkEnable
  repeat' first
    | with_reducible assumption
    | extract_lets +onlyGivenNames kx; refine @Keeps.cut _ r₀ kx ?_ ?_; subst kx; rotate_left; clear_value kx; intro hkx
    | extract_lets +onlyGivenNames kx; subst kx
    | with_reducible apply State.updLink_keeps
    | with_reducible apply State.discardLink_keeps
    | with_reducible apply KeepsX.next
    | with_reducible apply KeepsX.ite

theorem execLinkBringupRetry_keeps {r₀ : State} (lk : Fin 36) {s : State} (hk : Keeps r₀ s) :
    KeepsX r₀ (execLinkBringupRetry lk s) := by
  unfold execLinkBringupRetry
  repeat' first
    | with_reducible assumption
    | extract_lets +onlyGivenNames kx; subst kx
    | with_reducible apply State.updLink_keeps
    | with_reducible apply KeepsX.next
    | with_reducible apply KeepsX.ite

theorem State.greet_keeps {r₀ : State} {s : State} (lk f : Nat) (hk : Keeps r₀ s) : Keeps r₀ (State.greet s lk f) := by
  unfold State.greet
  repeat' first
    | with_reducible assumption
    | extract_lets +onlyGivenNames kx; refine @Keeps.cut _ r₀ kx ?_ ?_; subst kx; rotate_left; clear_value kx; intro hkx
    | extract_lets +onlyGivenNames kx; subst kx
    | with_reducible apply State.sendHello_keeps
    | with_reducible apply Keeps.set; with_reducible assumption

theorem State.greetBehind_keeps {r₀ : State} {s : State} (lk : Nat) (hk : Keeps r₀ s) :
    Keeps r₀ (State.greetBehind s lk) := by
  unfold State.greetBehind
  repeat' first
    | with_reducible assumption
    | with_reducible apply State.greet_keeps
    | with_reducible apply Keeps.ite
    | with_reducible refine Keeps.foldl ?_ ?_; intro _ _ _

theorem execLinkInit_keeps {r₀ : State} (lk : Fin 36) (switch : Bool) (credit : BitVec 64) {s : State} (hk : Keeps r₀ s) :
    KeepsX r₀ (execLinkInit lk switch credit s) := by
  unfold execLinkInit
  repeat' first
    | with_reducible assumption
    | extract_lets +onlyGivenNames kx; refine @Keeps.cut _ r₀ kx ?_ ?_; subst kx; rotate_left; clear_value kx; intro hkx
    | extract_lets +onlyGivenNames kx; subst kx
    | with_reducible apply State.updLink_keeps
    | with_reducible apply State.linkCtl_keeps
    | with_reducible apply State.sendHello_keeps
    | with_reducible apply State.discardLink_keeps
    | with_reducible apply State.greetBehind_keeps
    | with_reducible apply KeepsX.next
    | with_reducible apply KeepsX.ite

theorem execLinkCntClr_keeps {r₀ : State} (lk : Fin 36) {s : State} (hk : Keeps r₀ s) :
    KeepsX r₀ (execLinkCntClr lk s) := by
  unfold execLinkCntClr
  repeat' first
    | with_reducible assumption
    | with_reducible apply State.updLink_keeps
    | with_reducible apply KeepsX.next
    | with_reducible apply KeepsX.ite

end Sys2Proof.Machine
end

