-- ==== Sys2Proof/Laws/FrameEgress.lean ====
section
/-!
SUPPORT. Sys2Proof/Laws/FrameEgress.lean: what the operations and commands of Machine/Egress.lean keep (`Keeps`): the queue, the
Cloche, programmed fuses and the canonical form of every byte memory.
-/
namespace Sys2Proof.Machine

theorem State.cand_keeps {r₀ : State} {s : State} (lk k : Nat) (hk : Keeps r₀ s) : KeepsP r₀ (State.cand s lk k) := by
  unfold State.cand
  repeat' first
    | with_reducible assumption
    | extract_lets +onlyGivenNames kx; refine @Keeps.cut _ r₀ kx ?_ ?_; subst kx; rotate_left; clear_value kx; intro hkx
    | extract_lets +onlyGivenNames kx; refine @KeepsP.cut _ _ r₀ kx ?_ ?_; subst kx; rotate_left; clear_value kx; intro hkx
    | with_reducible apply State.updLink_keeps
    | with_reducible apply State.findCand_keeps
    | with_reducible apply KeepsP.mk; fail_if_success (with_reducible apply KeepsP.proj)
    | with_reducible apply KeepsP.of_mk; with_reducible assumption

theorem State.sendFrom_keeps {r₀ : State} {s : State} (lk k i start : Nat) (hk : Keeps r₀ s) :
    Keeps r₀ (State.sendFrom s lk k i start) := by
  unfold State.sendFrom
  repeat' first
    | with_reducible assumption
    | extract_lets +onlyGivenNames kx; refine @Keeps.cut _ r₀ kx ?_ ?_; subst kx; rotate_left; clear_value kx; intro hkx
    | extract_lets +onlyGivenNames kx; subst kx
    | with_reducible apply State.updLink_keeps
    | with_reducible apply State.updLnd_keeps
    | with_reducible apply State.updConn_keeps
    | with_reducible apply State.countTx_keeps
    | with_reducible apply State.evalQueue_keeps
    | with_reducible apply State.refillQueues_keeps
    | split

theorem State.sendReplay_keeps {r₀ : State} {s : State} (lk seq start : Nat) (hk : Keeps r₀ s) :
    Keeps r₀ (State.sendReplay s lk seq start) := by
  unfold State.sendReplay
  repeat' first
    | with_reducible assumption
    | extract_lets +onlyGivenNames kx; subst kx
    | with_reducible apply State.updLink_keeps
    | split

theorem State.selectRest_keeps {r₀ : State} {s : State} (lk start : Nat) (hk : Keeps r₀ s) :
    Keeps r₀ (State.selectRest s lk start) := by
  unfold State.selectRest
  repeat' first
    | with_reducible assumption
    | extract_lets +onlyGivenNames kx; refine @Keeps.cut _ r₀ kx ?_ ?_; subst kx; rotate_left; clear_value kx; intro hkx
    | extract_lets +onlyGivenNames kx; refine @KeepsP.cut _ _ r₀ kx ?_ ?_; subst kx; rotate_left; clear_value kx; intro hkx
    | extract_lets +onlyGivenNames kx; subst kx
    | with_reducible apply State.updLink_keeps
    | with_reducible apply State.cand_keeps
    | with_reducible apply State.sendFrom_keeps
    | with_reducible apply State.sendReplay_keeps
    | with_reducible refine KeepsP.foldl ?_ ?_; intro _ _ _
    | with_reducible apply KeepsP.of_mk; with_reducible assumption
    | split
    | with_reducible apply KeepsP.mk; with_reducible apply KeepsP.proj; first | with_reducible assumption | with_reducible apply State.updLink_keeps | with_reducible apply State.cand_keeps | with_reducible apply State.sendFrom_keeps | with_reducible apply State.sendReplay_keeps

theorem execEgressSelect_keeps {r₀ : State} (lk : Fin 36) {s : State} (hk : Keeps r₀ s) :
    KeepsX r₀ (execEgressSelect lk s) := by
  unfold execEgressSelect
  repeat' first
    | with_reducible assumption
    | extract_lets +onlyGivenNames kx; refine @Keeps.cut _ r₀ kx ?_ ?_; subst kx; rotate_left; clear_value kx; intro hkx
    | extract_lets +onlyGivenNames kx; refine @KeepsP.cut _ _ r₀ kx ?_ ?_; subst kx; rotate_left; clear_value kx; intro hkx
    | extract_lets +onlyGivenNames kx; subst kx
    | with_reducible apply State.updLink_keeps
    | with_reducible apply State.cand_keeps
    | with_reducible apply State.sendFrom_keeps
    | with_reducible apply State.selectRest_keeps
    | with_reducible apply KeepsX.next
    | with_reducible apply KeepsX.ite
    | with_reducible apply KeepsP.of_mk; with_reducible assumption
    | split

theorem execGateArm_keeps {r₀ : State} (lk : Fin 36) {s : State} (hk : Keeps r₀ s) : KeepsX r₀ (execGateArm lk s) := by
  unfold execGateArm
  repeat' first
    | with_reducible assumption
    | with_reducible apply State.updLink_keeps
    | with_reducible apply KeepsX.next
    | with_reducible apply KeepsX.ite

theorem execGateDisarm_keeps {r₀ : State} (lk : Fin 36) {s : State} (hk : Keeps r₀ s) :
    KeepsX r₀ (execGateDisarm lk s) := by
  unfold execGateDisarm
  repeat' first
    | with_reducible assumption
    | with_reducible apply State.updLink_keeps
    | with_reducible apply KeepsX.next
    | with_reducible apply KeepsX.ite

theorem State.startEntry_keeps {r₀ : State} {s : State} (lk : Nat) (g : Gates) (hk : Keeps r₀ s) :
    Keeps r₀ (State.startEntry s lk g) := by
  unfold State.startEntry
  repeat' first
    | with_reducible assumption
    | extract_lets +onlyGivenNames kx; subst kx
    | with_reducible apply State.updLink_keeps
    | with_reducible apply State.egrCheck_keeps

theorem execGateTakeover_keeps {r₀ : State} (lk : Fin 36) {s : State} (hk : Keeps r₀ s) :
    KeepsX r₀ (execGateTakeover lk s) := by
  unfold execGateTakeover
  repeat' first
    | with_reducible assumption
    | extract_lets +onlyGivenNames kx; subst kx
    | with_reducible apply State.startEntry_keeps
    | with_reducible apply KeepsX.next
    | with_reducible apply KeepsX.ite
    | split

theorem execGateInterval_keeps {r₀ : State} (lk : Fin 36) {s : State} (hk : Keeps r₀ s) :
    KeepsX r₀ (execGateInterval lk s) := by
  unfold execGateInterval
  repeat' first
    | with_reducible assumption
    | extract_lets +onlyGivenNames kx; subst kx
    | with_reducible apply State.startEntry_keeps
    | with_reducible apply KeepsX.next
    | with_reducible apply KeepsX.ite

theorem State.syncGates_keeps {r₀ : State} {s : State} (hk : Keeps r₀ s) : Keeps r₀ (State.syncGates s) := by
  unfold State.syncGates
  repeat' first
    | with_reducible assumption
    | extract_lets +onlyGivenNames kx; subst kx
    | with_reducible apply State.updLink_keeps
    | with_reducible apply Keeps.ite
    | with_reducible refine Keeps.foldl ?_ ?_; intro _ _ _

theorem State.factoryGates_keeps {r₀ : State} {s : State} (hk : Keeps r₀ s) : Keeps r₀ (State.factoryGates s) := by
  unfold State.factoryGates
  repeat' first
    | with_reducible assumption
    | extract_lets +onlyGivenNames kx; subst kx
    | with_reducible apply State.updLink_keeps
    | with_reducible apply Keeps.ite
    | with_reducible refine Keeps.foldl ?_ ?_; intro _ _ _

theorem State.reQueue_keeps {r₀ s : State} (lk : Nat) (xs : List Queued) (hk : Keeps r₀ s) :
    KeepsP r₀ (s.reQueue lk xs) := by
  induction xs generalizing s with
  | nil => exact KeepsP.mk hk
  | cons x rest ih =>
    unfold State.reQueue
    repeat' first
      | with_reducible apply ih
      | with_reducible assumption
      | extract_lets +onlyGivenNames kx; refine @KeepsP.cut _ _ r₀ kx ?_ ?_; subst kx; rotate_left; clear_value kx; intro hkx
      | with_reducible apply State.evalPkt_keeps
      | with_reducible apply KeepsP.ite
      | with_reducible apply KeepsP.mk; fail_if_success (with_reducible apply KeepsP.proj)
      | with_reducible apply KeepsP.of_mk; with_reducible assumption
      | with_reducible apply KeepsP.mk; with_reducible apply KeepsP.proj; first | with_reducible assumption | with_reducible apply State.evalPkt_keeps

theorem State.tickPolicers_keeps {r₀ : State} {s : State} (hk : Keeps r₀ s) : Keeps r₀ (State.tickPolicers s) := by
  unfold State.tickPolicers
  repeat' first
    | with_reducible assumption
    | extract_lets +onlyGivenNames kx; refine @KeepsP.cut _ _ r₀ kx ?_ ?_; subst kx; rotate_left; clear_value kx; intro hkx
    | extract_lets +onlyGivenNames kx; subst kx
    | with_reducible apply State.updLink_keeps
    | with_reducible apply State.evalQueue_keeps
    | with_reducible apply State.reQueue_keeps
    | with_reducible apply Keeps.ite
    | with_reducible refine Keeps.foldl ?_ ?_; intro _ _ _
    | with_reducible apply KeepsP.of_mk; with_reducible assumption

theorem State.egrDone_keeps {r₀ : State} {s : State} (d : Nat) (hk : Keeps r₀ s) : Keeps r₀ (State.egrDone s d) := by
  unfold State.egrDone
  repeat' first
    | with_reducible assumption
    | with_reducible apply State.updLnd_keeps

theorem State.egrReject_keeps {r₀ : State} {s : State} (d : Nat) (hk : Keeps r₀ s) : Keeps r₀ (State.egrReject s d) := by
  unfold State.egrReject
  repeat' first
    | with_reducible assumption
    | with_reducible apply State.updLnd_keeps

theorem execEgrTblRead_keeps {r₀ : State} (die : Fin 2) (table : Fin 4) (idx : BitVec 16) {s : State} (hk : Keeps r₀ s) :
    KeepsX r₀ (execEgrTblRead die table idx s) := by
  unfold execEgrTblRead
  repeat' first
    | with_reducible assumption
    | extract_lets +onlyGivenNames kx; subst kx
    | with_reducible apply State.updLnd_keeps
    | with_reducible apply State.egrDone_keeps
    | with_reducible apply State.egrReject_keeps
    | with_reducible apply KeepsX.next
    | with_reducible apply KeepsX.ite
    | split

theorem execEgrTblWrite_keeps {r₀ : State} (die : Fin 2) (table : Fin 4) (idx : BitVec 16) {s : State} (hk : Keeps r₀ s) :
    KeepsX r₀ (execEgrTblWrite die table idx s) := by
  unfold execEgrTblWrite
  repeat' first
    | with_reducible assumption
    | extract_lets +onlyGivenNames kx; subst kx
    | with_reducible apply State.updLink_keeps
    | with_reducible apply State.updLnd_keeps
    | with_reducible apply State.egrDone_keeps
    | with_reducible apply State.egrReject_keeps
    | with_reducible apply KeepsX.next
    | with_reducible apply KeepsX.ite
    | split

theorem execEgrCntClr_keeps {r₀ : State} (die : Fin 2) {s : State} (hk : Keeps r₀ s) : KeepsX r₀ (execEgrCntClr die s) := by
  unfold execEgrCntClr
  repeat' first
    | with_reducible assumption
    | with_reducible apply State.updLink_keeps
    | with_reducible apply KeepsX.next
    | with_reducible apply KeepsX.ite
    | with_reducible refine Keeps.foldl ?_ ?_; intro _ _ _

end Sys2Proof.Machine
end

