-- ==== Sys2Proof/Laws/FrameAccess.lean ====
section
/-!
SUPPORT. Sys2Proof/Laws/FrameAccess.lean: what the operations and commands of Machine/Access.lean keep (`Keeps`): the queue, the
Cloche, programmed fuses and the canonical form of every byte memory.
-/
namespace Sys2Proof.Machine

theorem State.holdAcc_keeps {r₀ : State} {s : State} (ch : Nat) (acc : HeldAcc) (hk : Keeps r₀ s) :
    Keeps r₀ (State.holdAcc s ch acc) := by
  unfold State.holdAcc
  repeat' first
    | with_reducible assumption
    | with_reducible apply State.updChan_keeps

theorem State.putMem_keeps {r₀ : State} {s : State} (m : Master) (a : Nat) (bs : List Byte) (hk : Keeps r₀ s) :
    Keeps r₀ (State.putMem s m a bs) := by
  unfold State.putMem
  repeat' first
    | with_reducible assumption
    | extract_lets +onlyGivenNames kx; subst kx
    | with_reducible apply State.placeBytes_keeps
    | with_reducible apply State.holdAcc_keeps
    | with_reducible refine Keeps.foldl ?_ ?_; intro _ _ _
    | split

theorem State.countTier_keeps {r₀ : State} {s : State} (tn a n : Nat) (write : Bool) (hk : Keeps r₀ s) :
    Keeps r₀ (State.countTier s tn a n write) := by
  unfold State.countTier
  repeat' first
    | with_reducible assumption
    | with_reducible apply State.countBytes_keeps
    | split

theorem State.setRegion_keeps {r₀ : State} {s : State} (i v : Nat) (hk : Keeps r₀ s) :
    Keeps r₀ (State.setRegion s i v) := by
  unfold State.setRegion
  repeat' first
    | extract_lets +onlyGivenNames kx; subst kx
    | with_reducible apply Keeps.set; with_reducible assumption

theorem State.regionCrc_keeps {r₀ : State} {s : State} (die region : Nat) (hk : Keeps r₀ s) :
    Keeps r₀ (State.regionCrc s die region) := by
  unfold State.regionCrc
  repeat' first
    | with_reducible assumption
    | with_reducible apply State.raise_keeps
    | with_reducible apply State.tableCheck_keeps
    | with_reducible apply Keeps.ite

end Sys2Proof.Machine
end

