-- ==== Sys2Proof/Laws/FrameRae.lean ====
section
/-!
SUPPORT. Sys2Proof/Laws/FrameRae.lean: what the operations and commands of Machine/Rae.lean keep (`Keeps`): the queue, the
Cloche, programmed fuses and the canonical form of every byte memory.
-/
namespace Sys2Proof.Machine

theorem State.writeCstate_keeps {r₀ : State} {s : State} (c v : Nat) (hk : Keeps r₀ s) :
    Keeps r₀ (State.writeCstate s c v) := by
  unfold State.writeCstate
  repeat' first
    | with_reducible assumption
    | with_reducible apply State.wr_keeps

theorem State.writeContext_keeps {r₀ : State} {s : State} (c : Nat) (hk : Keeps r₀ s) :
    Keeps r₀ (State.writeContext s c) := by
  unfold State.writeContext
  repeat' first
    | with_reducible assumption
    | with_reducible apply State.wrBytes_keeps
    | with_reducible apply State.wr_keeps

theorem State.spill_keeps {r₀ : State} {s : State} (d c : Nat) (hk : Keeps r₀ s) : Keeps r₀ (State.spill s d c) := by
  unfold State.spill
  repeat' first
    | with_reducible assumption
    | with_reducible apply State.updLnd_keeps
    | with_reducible apply State.updConn_keeps
    | with_reducible apply State.writeContext_keeps

theorem State.makeRoom_keeps {r₀ : State} {s : State} (d : Nat) (hk : Keeps r₀ s) : KeepsO r₀ (State.makeRoom s d) := by
  unfold State.makeRoom
  repeat' first
    | with_reducible assumption
    | with_reducible intro hkf
    | extract_lets +onlyGivenNames kx; subst kx
    | with_reducible apply State.spill_keeps
    | with_reducible apply KeepsO.ite
    | with_reducible apply KeepsO.some
    | with_reducible apply KeepsO.mapV

theorem State.postCpl_keeps {r₀ : State} {s : State} (i raw : Nat) (hk : Keeps r₀ s) :
    Keeps r₀ (State.postCpl s i raw) := by
  unfold State.postCpl
  repeat' first
    | with_reducible assumption
    | extract_lets +onlyGivenNames kx; subst kx
    | with_reducible apply State.updCq_keeps
    | with_reducible apply State.wr_keeps
    | with_reducible apply Keeps.ite

theorem State.flushCq_keeps {r₀ : State} {s : State} (i : Nat) (hk : Keeps r₀ s) : Keeps r₀ (State.flushCq s i) := by
  unfold State.flushCq
  repeat' first
    | with_reducible assumption
    | extract_lets +onlyGivenNames kx; refine @Keeps.cut _ r₀ kx ?_ ?_; subst kx; rotate_left; clear_value kx; intro hkx
    | extract_lets +onlyGivenNames kx; subst kx
    | with_reducible apply State.updCq_keeps
    | with_reducible apply State.postCpl_keeps
    | with_reducible refine Keeps.foldl ?_ ?_; intro _ _ _

theorem State.endEntry_keeps {r₀ : State} {s : State} (c : Nat) (w : WorkEntry) (status : Nat) (hk : Keeps r₀ s) :
    Keeps r₀ (State.endEntry s c w status) := by
  unfold State.endEntry
  repeat' first
    | with_reducible assumption
    | extract_lets +onlyGivenNames kx; refine @Keeps.cut _ r₀ kx ?_ ?_; subst kx; rotate_left; clear_value kx; intro hkx
    | extract_lets +onlyGivenNames kx; subst kx
    | with_reducible apply State.updSq_keeps
    | with_reducible apply State.postCpl_keeps
    | with_reducible apply Keeps.ite
    | with_reducible apply Keeps.set; with_reducible assumption

theorem State.sendLoose_keeps {r₀ : State} {s : State} (c : Nat) (ptype body epoch : Nat) (data : List Byte)
    (hk : Keeps r₀ s) :
    Keeps r₀ (State.sendLoose s c ptype body epoch data) := by
  unfold State.sendLoose
  repeat' first
    | with_reducible assumption
    | extract_lets +onlyGivenNames kx; subst kx
    | with_reducible apply State.enq_keeps
    | split

theorem State.sendErr_keeps {r₀ : State} {s : State} (c msn status : Nat) (hk : Keeps r₀ s) :
    Keeps r₀ (State.sendErr s c msn status) := by
  unfold State.sendErr
  repeat' first
    | with_reducible assumption
    | extract_lets +onlyGivenNames kx; subst kx
    | with_reducible apply State.sendLoose_keeps

theorem State.connFail_keeps {r₀ : State} {s : State} (c status : Nat) (who : Option Nat) (hk : Keeps r₀ s) :
    Keeps r₀ (State.connFail s c status who) := by
  unfold State.connFail
  repeat' first
    | with_reducible assumption
    | extract_lets +onlyGivenNames kx; refine @Keeps.cut _ r₀ kx ?_ ?_; subst kx; rotate_left; clear_value kx; intro hkx
    | extract_lets +onlyGivenNames kx; subst kx
    | with_reducible apply State.updLink_keeps
    | with_reducible apply State.updLnd_keeps
    | with_reducible apply State.updConn_keeps
    | with_reducible apply State.writeCstate_keeps
    | with_reducible apply State.writeContext_keeps
    | with_reducible apply State.endEntry_keeps
    | with_reducible apply State.sendErr_keeps
    | with_reducible apply Keeps.ite
    | with_reducible apply Keeps.set; with_reducible assumption
    | with_reducible refine Keeps.foldl ?_ ?_; intro _ _ _

theorem State.sqDrop_keeps {r₀ : State} {s : State} (i st : Nat) (hk : Keeps r₀ s) : Keeps r₀ (State.sqDrop s i st) := by
  unfold State.sqDrop
  repeat' first
    | with_reducible assumption
    | extract_lets +onlyGivenNames kx; refine @Keeps.cut _ r₀ kx ?_ ?_; subst kx; rotate_left; clear_value kx; intro hkx
    | extract_lets +onlyGivenNames kx; subst kx
    | with_reducible apply State.updSq_keeps
    | with_reducible apply State.endEntry_keeps
    | with_reducible apply State.connFail_keeps
    | with_reducible apply Keeps.ite

theorem State.sqRun_keeps {r₀ s : State} (i n : Nat) (hk : Keeps r₀ s) : Keeps r₀ (s.sqRun i n) := by
  induction n generalizing s with
  | zero => exact hk
  | succ n ih =>
    unfold State.sqRun
    repeat' first
      | with_reducible apply ih
      | with_reducible assumption
      | with_reducible apply State.sqDrop_keeps
      | split

theorem State.finishReset_keeps {r₀ : State} {s : State} (d : Nat) (hk : Keeps r₀ s) :
    Keeps r₀ (State.finishReset s d) := by
  unfold State.finishReset
  repeat' first
    | with_reducible assumption
    | extract_lets +onlyGivenNames kx; refine @Keeps.cut _ r₀ kx ?_ ?_; subst kx; rotate_left; clear_value kx; intro hkx
    | extract_lets +onlyGivenNames kx; subst kx
    | with_reducible apply State.updLnd_keeps
    | with_reducible apply State.writeCstate_keeps
    | with_reducible apply Keeps.ite
    | with_reducible apply Keeps.set; with_reducible assumption
    | split

theorem State.sqSweep_keeps {r₀ : State} {s : State} (d : Nat) (hk : Keeps r₀ s) : Keeps r₀ (State.sqSweep s d) := by
  unfold State.sqSweep
  repeat' first
    | with_reducible assumption
    | with_reducible apply State.sqRun_keeps
    | with_reducible apply State.finishReset_keeps

theorem State.connError_keeps {r₀ : State} {s : State} (c status : Nat) (who : Option Nat) (hk : Keeps r₀ s) :
    Keeps r₀ (State.connError s c status who) := by
  unfold State.connError
  repeat' first
    | with_reducible assumption
    | with_reducible apply State.connFail_keeps
    | with_reducible apply State.sqSweep_keeps
    | with_reducible apply Keeps.ite

theorem State.peerConnsError_keeps {r₀ : State} {s : State} (dest : Nat) (hk : Keeps r₀ s) :
    Keeps r₀ (State.peerConnsError s dest) := by
  unfold State.peerConnsError
  repeat' first
    | with_reducible assumption
    | with_reducible apply State.connError_keeps
    | with_reducible apply Keeps.ite
    | with_reducible refine Keeps.foldl ?_ ?_; intro _ _ _

theorem State.sendResp_keeps {r₀ : State} {s : State} (c lk : Nat) (d : ReadData) (hk : Keeps r₀ s) :
    Keeps r₀ (State.sendResp s c lk d) := by
  unfold State.sendResp
  repeat' first
    | with_reducible assumption
    | extract_lets +onlyGivenNames kx; subst kx
    | with_reducible apply State.enq_keeps
    | with_reducible apply State.countTier_keeps

theorem State.sendPacket_keeps {r₀ : State} {s : State} (c lk : Nat) (m : OutMsg) (k : Nat) (hk : Keeps r₀ s) :
    Keeps r₀ (State.sendPacket s c lk m k) := by
  unfold State.sendPacket
  repeat' first
    | with_reducible assumption
    | extract_lets +onlyGivenNames kx; refine @Keeps.cut _ r₀ kx ?_ ?_; subst kx; rotate_left; clear_value kx; intro hkx
    | extract_lets +onlyGivenNames kx; subst kx
    | with_reducible apply State.enq_keeps
    | with_reducible apply Keeps.ite
    | with_reducible apply Keeps.set; with_reducible assumption

theorem State.launch_keeps {r₀ : State} {s : State} (c lk : Nat) (m : OutMsg) (k : Nat) (hk : Keeps r₀ s) :
    Keeps r₀ (State.launch s c lk m k) := by
  unfold State.launch
  repeat' first
    | with_reducible assumption
    | extract_lets +onlyGivenNames kx; refine @Keeps.cut _ r₀ kx ?_ ?_; subst kx; rotate_left; clear_value kx; intro hkx
    | extract_lets +onlyGivenNames kx; subst kx
    | with_reducible apply State.updConn_keeps
    | with_reducible apply State.holdAcc_keeps
    | with_reducible apply State.sendPacket_keeps
    | split

theorem State.launchResp_keeps {r₀ : State} {s : State} (c lk : Nat) (d : ReadData) (hk : Keeps r₀ s) :
    Keeps r₀ (State.launchResp s c lk d) := by
  unfold State.launchResp
  repeat' first
    | with_reducible assumption
    | extract_lets +onlyGivenNames kx; refine @Keeps.cut _ r₀ kx ?_ ?_; subst kx; rotate_left; clear_value kx; intro hkx
    | extract_lets +onlyGivenNames kx; subst kx
    | with_reducible apply State.updConn_keeps
    | with_reducible apply State.holdAcc_keeps
    | with_reducible apply State.sendResp_keeps
    | split

theorem State.startRto_keeps {r₀ : State} {s : State} (c : Nat) (hk : Keeps r₀ s) : KeepsO r₀ (State.startRto s c) := by
  unfold State.startRto
  repeat' first
    | with_reducible assumption
    | extract_lets +onlyGivenNames kx; subst kx
    | with_reducible apply State.updConn_keeps
    | with_reducible apply KeepsO.ite
    | with_reducible apply KeepsO.none
    | with_reducible apply KeepsO.some

theorem State.pumpOne_keeps {r₀ : State} {s : State} (c : Nat) (hk : Keeps r₀ s) : KeepsO r₀ (State.pumpOne s c) := by
  unfold State.pumpOne
  repeat' first
    | with_reducible assumption
    | with_reducible intro hkf
    | extract_lets +onlyGivenNames kx; subst kx
    | with_reducible apply State.launch_keeps
    | with_reducible apply State.launchResp_keeps
    | with_reducible apply State.startRto_keeps
    | with_reducible apply KeepsO.ite
    | with_reducible apply KeepsO.none
    | with_reducible apply KeepsO.some
    | with_reducible apply KeepsO.mapV
    | split

theorem State.pumpN_keeps {r₀ s : State} (c n : Nat) (hk : Keeps r₀ s) : Keeps r₀ (s.pumpN c n) := by
  induction n generalizing s with
  | zero => exact hk
  | succ n ih =>
    unfold State.pumpN
    repeat' first
      | with_reducible apply ih
      | with_reducible assumption
      | with_reducible apply State.pumpOne_keeps
      | with_reducible apply Keeps.set; with_reducible refine KeepsO.get (by assumption) ?_
      | split

theorem State.pump_keeps {r₀ : State} {s : State} (c : Nat) (hk : Keeps r₀ s) : Keeps r₀ (State.pump s c) := by
  unfold State.pump
  repeat' first
    | with_reducible assumption
    | extract_lets +onlyGivenNames kx; refine @Keeps.cut _ r₀ kx ?_ ?_; subst kx; rotate_left; clear_value kx; intro hkx
    | extract_lets +onlyGivenNames kx; subst kx
    | with_reducible apply State.updConn_keeps
    | with_reducible apply State.pumpN_keeps

theorem State.pumpAll_keeps {r₀ : State} {s : State} (hk : Keeps r₀ s) : Keeps r₀ (State.pumpAll s) := by
  unfold State.pumpAll
  repeat' first
    | with_reducible assumption
    | with_reducible apply State.pump_keeps
    | with_reducible refine Keeps.foldl ?_ ?_; intro _ _ _

theorem State.takeEntry_keeps {r₀ : State} {s : State} (i wop : Nat) (hk : Keeps r₀ s) :
    Keeps r₀ (State.takeEntry s i wop) := by
  unfold State.takeEntry
  repeat' first
    | with_reducible assumption
    | extract_lets +onlyGivenNames kx; refine @Keeps.cut _ r₀ kx ?_ ?_; subst kx; rotate_left; clear_value kx; intro hkx
    | extract_lets +onlyGivenNames kx; subst kx
    | with_reducible apply State.updConn_keeps
    | with_reducible apply State.updSq_keeps
    | with_reducible apply State.violateAt_keeps
    | with_reducible apply State.sqSweep_keeps
    | with_reducible apply State.connError_keeps
    | with_reducible apply State.pump_keeps
    | with_reducible apply Keeps.ite

theorem execRaeWrite_keeps {r₀ : State} (die : Fin 2) (q : Fin 256) {s : State} (hk : Keeps r₀ s) :
    KeepsX r₀ (execRaeWrite die q s) := by
  unfold execRaeWrite
  repeat' first
    | with_reducible assumption
    | with_reducible apply State.takeEntry_keeps
    | with_reducible apply KeepsX.next

theorem execRaeWriteImm_keeps {r₀ : State} (die : Fin 2) (q : Fin 256) {s : State} (hk : Keeps r₀ s) :
    KeepsX r₀ (execRaeWriteImm die q s) := by
  unfold execRaeWriteImm
  repeat' first
    | with_reducible assumption
    | with_reducible apply State.takeEntry_keeps
    | with_reducible apply KeepsX.next

theorem execRaeRead_keeps {r₀ : State} (die : Fin 2) (q : Fin 256) {s : State} (hk : Keeps r₀ s) :
    KeepsX r₀ (execRaeRead die q s) := by
  unfold execRaeRead
  repeat' first
    | with_reducible assumption
    | with_reducible apply State.takeEntry_keeps
    | with_reducible apply KeepsX.next

theorem execRaeNotify_keeps {r₀ : State} (die : Fin 2) (q : Fin 256) {s : State} (hk : Keeps r₀ s) :
    KeepsX r₀ (execRaeNotify die q s) := by
  unfold execRaeNotify
  repeat' first
    | with_reducible assumption
    | with_reducible apply State.takeEntry_keeps
    | with_reducible apply KeepsX.next

theorem execGraftData_keeps {r₀ : State} (die : Fin 2) (q : Fin 256) {s : State} (hk : Keeps r₀ s) :
    KeepsX r₀ (execGraftData die q s) := by
  unfold execGraftData
  repeat' first
    | with_reducible assumption
    | with_reducible apply State.takeEntry_keeps
    | with_reducible apply KeepsX.next

theorem execGraftFrame_keeps {r₀ : State} (die : Fin 2) (q : Fin 256) {s : State} (hk : Keeps r₀ s) :
    KeepsX r₀ (execGraftFrame die q s) := by
  unfold execGraftFrame
  repeat' first
    | with_reducible assumption
    | with_reducible apply State.takeEntry_keeps
    | with_reducible apply KeepsX.next

theorem execControl_keeps {r₀ : State} (die : Fin 2) (q : Fin 256) {s : State} (hk : Keeps r₀ s) :
    KeepsX r₀ (execControl die q s) := by
  unfold execControl
  repeat' first
    | with_reducible assumption
    | with_reducible apply State.takeEntry_keeps
    | with_reducible apply KeepsX.next

theorem execSqTailWrite_keeps {r₀ : State} (die : Fin 2) (q : Fin 256) (v : BitVec 16) {s : State} (hk : Keeps r₀ s) :
    KeepsX r₀ (execSqTailWrite die q v s) := by
  unfold execSqTailWrite
  repeat' first
    | with_reducible assumption
    | with_reducible apply State.updSq_keeps
    | with_reducible apply State.sqSweep_keeps
    | with_reducible apply KeepsX.next
    | with_reducible apply KeepsX.ite

theorem State.connCmd_keeps {r₀ : State} {s : State} (d : Nat) (ok : Bool) (hk : Keeps r₀ s) :
    Keeps r₀ (State.connCmd s d ok) := by
  unfold State.connCmd
  repeat' first
    | with_reducible assumption
    | with_reducible apply State.updLnd_keeps

theorem execConnActivate_keeps {r₀ : State} (die : Fin 2) (conn : BitVec 20) {s : State} (hk : Keeps r₀ s) :
    KeepsX r₀ (execConnActivate die conn s) := by
  unfold execConnActivate
  repeat' first
    | with_reducible assumption
    | extract_lets +onlyGivenNames kx; refine @Keeps.cut _ r₀ kx ?_ ?_; subst kx; rotate_left; clear_value kx; intro hkx
    | extract_lets +onlyGivenNames kx; refine @KeepsO.cut _ r₀ kx ?_ ?_; subst kx; rotate_left; clear_value kx; intro hkx
    | extract_lets +onlyGivenNames kx; subst kx
    | with_reducible apply State.writeCstate_keeps
    | with_reducible apply State.writeContext_keeps
    | with_reducible apply State.makeRoom_keeps
    | with_reducible apply State.connCmd_keeps
    | with_reducible apply KeepsX.next
    | with_reducible apply KeepsX.ite
    | with_reducible apply Keeps.getD
    | with_reducible apply Keeps.set; with_reducible assumption

theorem execConnReset_keeps {r₀ : State} (die : Fin 2) (conn : BitVec 20) {s : State} (hk : Keeps r₀ s) :
    KeepsX r₀ (execConnReset die conn s) := by
  unfold execConnReset
  repeat' first
    | with_reducible assumption
    | extract_lets +onlyGivenNames kx; subst kx
    | with_reducible apply State.updLnd_keeps
    | with_reducible apply State.sqSweep_keeps
    | with_reducible apply State.connError_keeps
    | with_reducible apply State.connCmd_keeps
    | with_reducible apply KeepsX.next
    | with_reducible apply KeepsX.ite

theorem execConnForceError_keeps {r₀ : State} (die : Fin 2) (conn : BitVec 20) {s : State} (hk : Keeps r₀ s) :
    KeepsX r₀ (execConnForceError die conn s) := by
  unfold execConnForceError
  repeat' first
    | with_reducible assumption
    | extract_lets +onlyGivenNames kx; subst kx
    | with_reducible apply State.connError_keeps
    | with_reducible apply State.connCmd_keeps
    | with_reducible apply KeepsX.next
    | with_reducible apply KeepsX.ite

theorem State.sendAck_keeps {r₀ : State} {s : State} (c : Nat) (hk : Keeps r₀ s) : Keeps r₀ (State.sendAck s c) := by
  unfold State.sendAck
  repeat' first
    | with_reducible assumption
    | extract_lets +onlyGivenNames kx; refine @Keeps.cut _ r₀ kx ?_ ?_; subst kx; rotate_left; clear_value kx; intro hkx
    | extract_lets +onlyGivenNames kx; subst kx
    | with_reducible apply State.updConn_keeps
    | with_reducible apply State.sendLoose_keeps

theorem State.wholeMsg_keeps {r₀ : State} {s : State} (c : Nat) (m : InMsg) (hk : Keeps r₀ s) :
    Keeps r₀ (State.wholeMsg s c m) := by
  unfold State.wholeMsg
  repeat' first
    | with_reducible assumption
    | extract_lets +onlyGivenNames kx; refine @Keeps.cut _ r₀ kx ?_ ?_; subst kx; rotate_left; clear_value kx; intro hkx
    | extract_lets +onlyGivenNames kx; subst kx
    | with_reducible apply State.updLnd_keeps
    | with_reducible apply State.updConn_keeps
    | with_reducible apply State.postCpl_keeps
    | with_reducible apply State.sendAck_keeps
    | with_reducible apply Keeps.ite
    | with_reducible apply Keeps.set; with_reducible assumption
    | split

theorem State.placed_keeps {r₀ : State} {s : State} (c : Nat) (p : Pkt) (n : Nat) (hk : Keeps r₀ s) :
    Keeps r₀ (State.placed s c p n) := by
  unfold State.placed
  repeat' first
    | with_reducible assumption
    | extract_lets +onlyGivenNames kx; refine @Keeps.cut _ r₀ kx ?_ ?_; subst kx; rotate_left; clear_value kx; intro hkx
    | extract_lets +onlyGivenNames kx; subst kx
    | with_reducible apply State.updConn_keeps
    | with_reducible apply State.wholeMsg_keeps
    | with_reducible apply Keeps.ite
    | split

theorem State.countDup_keeps {r₀ : State} {s : State} (d : Nat) (hk : Keeps r₀ s) : Keeps r₀ (State.countDup s d) := by
  unfold State.countDup
  repeat' first
    | with_reducible assumption
    | with_reducible apply State.updLnd_keeps

theorem State.contextFor_keeps {r₀ : State} {s : State} (p : Pkt) (hk : Keeps r₀ s) : KeepsP r₀ (State.contextFor s p) := by
  unfold State.contextFor
  repeat' first
    | with_reducible assumption
    | extract_lets +onlyGivenNames kx; subst kx
    | with_reducible apply State.updLnd_keeps
    | with_reducible apply State.updConn_keeps
    | with_reducible apply KeepsP.ite
    | with_reducible apply KeepsP.mk; fail_if_success (with_reducible apply KeepsP.proj)

theorem State.openMsg_keeps {r₀ : State} {s : State} (c : Nat) (p : Pkt) (hk : Keeps r₀ s) :
    KeepsP r₀ (State.openMsg s c p) := by
  unfold State.openMsg
  repeat' first
    | with_reducible assumption
    | extract_lets +onlyGivenNames kx; refine @Keeps.cut _ r₀ kx ?_ ?_; subst kx; rotate_left; clear_value kx; intro hkx
    | extract_lets +onlyGivenNames kx; subst kx
    | with_reducible apply State.updLnd_keeps
    | with_reducible apply State.updConn_keeps
    | with_reducible apply State.sendAck_keeps
    | with_reducible apply State.countDup_keeps
    | with_reducible apply KeepsP.ite
    | with_reducible apply KeepsP.mk; fail_if_success (with_reducible apply KeepsP.proj)
    | split

theorem State.admitData_keeps {r₀ : State} {s : State} (p : Pkt) (hk : Keeps r₀ s) : KeepsP r₀ (State.admitData s p) := by
  unfold State.admitData
  repeat' first
    | with_reducible assumption
    | with_reducible apply State.contextFor_keeps
    | with_reducible apply State.openMsg_keeps
    | with_reducible apply KeepsP.mk; fail_if_success (with_reducible apply KeepsP.proj)
    | with_reducible apply Keeps.set; with_reducible refine KeepsP.fst (by assumption) ?_
    | split

theorem State.putInbound_keeps {r₀ : State} {s : State} (c : Nat) (p : Pkt) (a tn : Nat) (hk : Keeps r₀ s) :
    Keeps r₀ (State.putInbound s c p a tn) := by
  unfold State.putInbound
  repeat' first
    | with_reducible assumption
    | extract_lets +onlyGivenNames kx; subst kx
    | with_reducible apply State.countRx_keeps
    | with_reducible apply State.placeBytes_keeps
    | with_reducible apply State.countTier_keeps
    | with_reducible apply State.placed_keeps

theorem State.putOrHold_keeps {r₀ : State} {s : State} (c : Nat) (p : Pkt) (a tn : Nat) (hk : Keeps r₀ s) :
    Keeps r₀ (State.putOrHold s c p a tn) := by
  unfold State.putOrHold
  repeat' first
    | with_reducible assumption
    | with_reducible apply State.holdAcc_keeps
    | with_reducible apply State.putInbound_keeps
    | split

theorem State.rqWrite_keeps {r₀ : State} {s : State} (p : Pkt) (hk : Keeps r₀ s) : Keeps r₀ (State.rqWrite s p) := by
  unfold State.rqWrite
  repeat' first
    | with_reducible assumption
    | extract_lets +onlyGivenNames kx; refine @Keeps.cut _ r₀ kx ?_ ?_; subst kx; rotate_left; clear_value kx; intro hkx
    | extract_lets +onlyGivenNames kx; subst kx
    | with_reducible apply State.violateAt_keeps
    | with_reducible apply State.regionCrc_keeps
    | with_reducible apply State.sendErr_keeps
    | with_reducible apply State.placed_keeps
    | with_reducible apply State.admitData_keeps
    | with_reducible apply State.putOrHold_keeps
    | with_reducible apply Keeps.ite
    | with_reducible apply Keeps.set; with_reducible refine KeepsP.fst (by assumption) ?_
    | split

theorem execRqWriteReceive_keeps {r₀ : State} (p : Pkt) {s : State} (hk : Keeps r₀ s) :
    KeepsX r₀ (execRqWriteReceive p s) := by
  unfold execRqWriteReceive
  repeat' first
    | with_reducible assumption
    | with_reducible apply State.arrive_keeps
    | with_reducible apply State.rqWrite_keeps
    | with_reducible apply KeepsX.next
    | with_reducible apply KeepsX.ite
    | with_reducible apply KeepsP.proj

theorem State.rqReadReq_keeps {r₀ : State} {s : State} (p : Pkt) (poison : Bool) (hk : Keeps r₀ s) :
    Keeps r₀ (State.rqReadReq s p poison) := by
  unfold State.rqReadReq
  repeat' first
    | with_reducible assumption
    | extract_lets +onlyGivenNames kx; refine @Keeps.cut _ r₀ kx ?_ ?_; subst kx; rotate_left; clear_value kx; intro hkx
    | extract_lets +onlyGivenNames kx; subst kx
    | with_reducible apply State.updConn_keeps
    | with_reducible apply State.violateAt_keeps
    | with_reducible apply State.regionCrc_keeps
    | with_reducible apply State.sendErr_keeps
    | with_reducible apply State.pump_keeps
    | with_reducible apply State.contextFor_keeps
    | with_reducible apply Keeps.ite
    | with_reducible apply Keeps.set; with_reducible refine KeepsP.fst (by assumption) ?_
    | split

theorem execRqReadReqReceive_keeps {r₀ : State} (p : Pkt) (poison : Bool) {s : State} (hk : Keeps r₀ s) :
    KeepsX r₀ (execRqReadReqReceive p poison s) := by
  unfold execRqReadReqReceive
  repeat' first
    | with_reducible assumption
    | with_reducible apply State.arrive_keeps
    | with_reducible apply State.rqReadReq_keeps
    | with_reducible apply KeepsX.next
    | with_reducible apply KeepsX.ite
    | with_reducible apply KeepsP.proj

theorem State.msgDone_keeps {r₀ : State} {s : State} (c : Nat) (m : OutMsg) (hk : Keeps r₀ s) :
    Keeps r₀ (State.msgDone s c m) := by
  unfold State.msgDone
  repeat' first
    | with_reducible assumption
    | extract_lets +onlyGivenNames kx; refine @Keeps.cut _ r₀ kx ?_ ?_; subst kx; rotate_left; clear_value kx; intro hkx
    | with_reducible apply State.updConn_keeps
    | with_reducible apply State.endEntry_keeps
    | split

theorem State.readPlaced_keeps {r₀ : State} {s : State} (c : Nat) (m : OutMsg) (k : Nat) (hk : Keeps r₀ s) :
    Keeps r₀ (State.readPlaced s c m k) := by
  unfold State.readPlaced
  repeat' first
    | with_reducible assumption
    | extract_lets +onlyGivenNames kx; refine @Keeps.cut _ r₀ kx ?_ ?_; subst kx; rotate_left; clear_value kx; intro hkx
    | extract_lets +onlyGivenNames kx; subst kx
    | with_reducible apply State.updConn_keeps
    | with_reducible apply State.pump_keeps
    | with_reducible apply State.msgDone_keeps
    | with_reducible apply Keeps.ite

theorem State.putRead_keeps {r₀ : State} {s : State} (c : Nat) (m : OutMsg) (p : Pkt) (a : Nat) (hk : Keeps r₀ s) :
    Keeps r₀ (State.putRead s c m p a) := by
  unfold State.putRead
  repeat' first
    | with_reducible assumption
    | extract_lets +onlyGivenNames kx; subst kx
    | with_reducible apply State.countRx_keeps
    | with_reducible apply State.placeBytes_keeps
    | with_reducible apply State.countTier_keeps
    | with_reducible apply State.readPlaced_keeps

theorem State.rqReadResp_keeps {r₀ : State} {s : State} (p : Pkt) (hk : Keeps r₀ s) : Keeps r₀ (State.rqReadResp s p) := by
  unfold State.rqReadResp
  repeat' first
    | with_reducible assumption
    | extract_lets +onlyGivenNames kx; refine @Keeps.cut _ r₀ kx ?_ ?_; subst kx; rotate_left; clear_value kx; intro hkx
    | extract_lets +onlyGivenNames kx; subst kx
    | with_reducible apply State.updLnd_keeps
    | with_reducible apply State.updConn_keeps
    | with_reducible apply State.holdAcc_keeps
    | with_reducible apply State.contextFor_keeps
    | with_reducible apply State.putRead_keeps
    | with_reducible apply Keeps.set; with_reducible refine KeepsP.fst (by assumption) ?_
    | split

theorem execRqReadRespReceive_keeps {r₀ : State} (p : Pkt) {s : State} (hk : Keeps r₀ s) :
    KeepsX r₀ (execRqReadRespReceive p s) := by
  unfold execRqReadRespReceive
  repeat' first
    | with_reducible assumption
    | with_reducible apply State.arrive_keeps
    | with_reducible apply State.rqReadResp_keeps
    | with_reducible apply KeepsX.next
    | with_reducible apply KeepsX.ite
    | with_reducible apply KeepsP.proj

theorem State.raeAck_keeps {r₀ : State} {s : State} (p : Pkt) (hk : Keeps r₀ s) : Keeps r₀ (State.raeAck s p) := by
  unfold State.raeAck
  repeat' first
    | with_reducible assumption
    | extract_lets +onlyGivenNames kx; refine @Keeps.cut _ r₀ kx ?_ ?_; subst kx; rotate_left; clear_value kx; intro hkx
    | extract_lets +onlyGivenNames kx; subst kx
    | with_reducible apply State.updConn_keeps
    | with_reducible apply State.pump_keeps
    | with_reducible apply State.contextFor_keeps
    | with_reducible apply State.msgDone_keeps
    | with_reducible apply Keeps.set; with_reducible refine KeepsP.fst (by assumption) ?_
    | with_reducible refine Keeps.foldl ?_ ?_; intro _ _ _
    | split

theorem execRqAckTimer_keeps {r₀ : State} (conn : BitVec 20) {s : State} (hk : Keeps r₀ s) :
    KeepsX r₀ (execRqAckTimer conn s) := by
  unfold execRqAckTimer
  repeat' first
    | with_reducible assumption
    | extract_lets +onlyGivenNames kx; subst kx
    | with_reducible apply State.sendAck_keeps
    | with_reducible apply KeepsX.next
    | with_reducible apply KeepsX.ite
    | split

theorem execPathLossResend_keeps {r₀ : State} (lk : Fin 36) {s : State} (hk : Keeps r₀ s) :
    KeepsX r₀ (execPathLossResend lk s) := by
  unfold execPathLossResend
  repeat' first
    | with_reducible assumption
    | extract_lets +onlyGivenNames kx; refine @Keeps.cut _ r₀ kx ?_ ?_; subst kx; rotate_left; clear_value kx; intro hkx
    | extract_lets +onlyGivenNames kx; subst kx
    | with_reducible apply State.updLnd_keeps
    | with_reducible apply State.updConn_keeps
    | with_reducible apply State.pump_keeps
    | with_reducible apply Keeps.ite
    | with_reducible apply KeepsX.next
    | with_reducible apply KeepsX.ite
    | with_reducible refine Keeps.foldl ?_ ?_; intro _ _ _

theorem execRaeRevoke_keeps {r₀ : State} (die : Fin 2) (region : BitVec 14) {s : State} (hk : Keeps r₀ s) :
    KeepsX r₀ (execRaeRevoke die region s) := by
  unfold execRaeRevoke
  repeat' first
    | with_reducible assumption
    | extract_lets +onlyGivenNames kx; refine @Keeps.cut _ r₀ kx ?_ ?_; subst kx; rotate_left; clear_value kx; intro hkx
    | extract_lets +onlyGivenNames kx; subst kx
    | with_reducible apply State.updLnd_keeps
    | with_reducible apply State.setRegion_keeps
    | with_reducible apply KeepsX.next
    | with_reducible apply KeepsX.ite
    | with_reducible apply Keeps.set; with_reducible assumption

theorem execRevokeDone_keeps {r₀ : State} {s : State} (hk : Keeps r₀ s) : KeepsX r₀ (execRevokeDone s) := by
  unfold execRevokeDone
  repeat' first
    | with_reducible assumption
    | extract_lets +onlyGivenNames kx; refine @Keeps.cut _ r₀ kx ?_ ?_; subst kx; rotate_left; clear_value kx; intro hkx
    | extract_lets +onlyGivenNames kx; subst kx
    | with_reducible apply State.updLnd_keeps
    | with_reducible apply State.setRegion_keeps
    | with_reducible apply KeepsX.next
    | with_reducible apply KeepsX.ite
    | with_reducible apply Keeps.set; with_reducible assumption
    | split

theorem execRaeCntClr_keeps {r₀ : State} (die : Fin 2) {s : State} (hk : Keeps r₀ s) : KeepsX r₀ (execRaeCntClr die s) := by
  unfold execRaeCntClr
  repeat' first
    | with_reducible assumption
    | with_reducible apply State.updLnd_keeps
    | with_reducible apply KeepsX.next
    | with_reducible apply KeepsX.ite

theorem execCqHeadWrite_keeps {r₀ : State} (die : Fin 2) (q : Fin 256) (v : BitVec 16) {s : State} (hk : Keeps r₀ s) :
    KeepsX r₀ (execCqHeadWrite die q v s) := by
  unfold execCqHeadWrite
  repeat' first
    | with_reducible assumption
    | extract_lets +onlyGivenNames kx; refine @Keeps.cut _ r₀ kx ?_ ?_; subst kx; rotate_left; clear_value kx; intro hkx
    | extract_lets +onlyGivenNames kx; subst kx
    | with_reducible apply State.updConn_keeps
    | with_reducible apply State.updCq_keeps
    | with_reducible apply State.flushCq_keeps
    | with_reducible apply State.sqSweep_keeps
    | with_reducible apply State.wholeMsg_keeps
    | with_reducible apply Keeps.ite
    | with_reducible apply KeepsX.next
    | with_reducible apply KeepsX.ite
    | with_reducible refine Keeps.foldl ?_ ?_; intro _ _ _

end Sys2Proof.Machine
end

