-- ==== Sys2Proof/Laws/FrameMsf.lean ====
section
/-!
SUPPORT. Sys2Proof/Laws/FrameMsf.lean: what the operations and commands of Machine/Msf.lean keep (`Keeps`): the queue, the
Cloche, programmed fuses and the canonical form of every byte memory.
-/
namespace Sys2Proof.Machine

theorem State.msfFault_keeps {r₀ : State} {s : State} (die cause dest agent addr : Nat) (hk : Keeps r₀ s) :
    Keeps r₀ (State.msfFault s die cause dest agent addr) := by
  unfold State.msfFault
  repeat' first
    | with_reducible assumption
    | with_reducible apply State.updLnd_keeps

theorem State.cutXfer_keeps {r₀ : State} {s : State} (ag : Agent) (e c status : Nat) (failed : Nat) (hk : Keeps r₀ s) :
    Keeps r₀ (State.cutXfer s ag e c status failed) := by
  unfold State.cutXfer
  repeat' first
    | with_reducible assumption
    | extract_lets +onlyGivenNames kx; refine @Keeps.cut _ r₀ kx ?_ ?_; subst kx; rotate_left; clear_value kx; intro hkx
    | extract_lets +onlyGivenNames kx; subst kx
    | with_reducible apply State.updDch_keeps
    | with_reducible apply Keeps.set; with_reducible assumption

theorem State.dmaFail_keeps {r₀ : State} {s : State} (ag : Agent) (status failed : Nat) (hk : Keeps r₀ s) :
    Keeps r₀ (State.dmaFail s ag status failed) := by
  unfold State.dmaFail
  repeat' first
    | with_reducible assumption
    | extract_lets +onlyGivenNames kx; subst kx
    | with_reducible apply State.failCmd_keeps
    | with_reducible apply State.cutXfer_keeps
    | with_reducible apply Keeps.set; with_reducible assumption
    | split

theorem State.ctlFail_keeps {r₀ : State} {s : State} (h : Fin 8) (mop : Nat) (hk : Keeps r₀ s) :
    Keeps r₀ (State.ctlFail s h mop) := by
  unfold State.ctlFail
  repeat' first
    | extract_lets +onlyGivenNames kx; subst kx
    | with_reducible apply Keeps.ite
    | with_reducible apply Keeps.set; with_reducible assumption

theorem State.msfFail_keeps {r₀ : State} {s : State} (ag : Agent) (mop status : Nat) (hk : Keeps r₀ s) :
    Keeps r₀ (State.msfFail s ag mop status) := by
  unfold State.msfFail
  repeat' first
    | with_reducible assumption
    | with_reducible apply State.failCmd_keeps
    | with_reducible apply State.dmaFail_keeps
    | with_reducible apply State.ctlFail_keeps
    | split

theorem State.deferLost_keeps {r₀ : State} {s : State} (tag tenant dest : Nat) (hk : Keeps r₀ s) :
    Keeps r₀ (State.deferLost s tag tenant dest) := by
  unfold State.deferLost
  repeat' first
    | with_reducible assumption
    | extract_lets +onlyGivenNames kx; refine @Keeps.cut _ r₀ kx ?_ ?_; subst kx; rotate_left; clear_value kx; intro hkx
    | extract_lets +onlyGivenNames kx; subst kx
    | with_reducible apply State.tenantEvent_keeps
    | with_reducible apply Keeps.set; with_reducible assumption

theorem State.msfSend_keeps {r₀ : State} {s : State} (ag : Agent) (addr n mop : Nat) (data : List Byte) (hk : Keeps r₀ s) :
    KeepsP r₀ (State.msfSend s ag addr n mop data) := by
  unfold State.msfSend
  repeat' first
    | with_reducible assumption
    | extract_lets +onlyGivenNames kx; refine @Keeps.cut _ r₀ kx ?_ ?_; subst kx; rotate_left; clear_value kx; intro hkx
    | extract_lets +onlyGivenNames kx; subst kx
    | with_reducible apply State.updLnd_keeps
    | with_reducible apply State.enq_keeps
    | with_reducible apply KeepsP.ite
    | with_reducible apply KeepsP.mk; fail_if_success (with_reducible apply KeepsP.proj)
    | split

theorem State.msfIssue_keeps {r₀ : State} {s : State} (ag : Agent) (addr n mop : Nat) (data : List Byte) (hk : Keeps r₀ s) :
    KeepsP r₀ (State.msfIssue s ag addr n mop data) := by
  unfold State.msfIssue
  repeat' first
    | with_reducible assumption
    | extract_lets +onlyGivenNames kx; refine @Keeps.cut _ r₀ kx ?_ ?_; subst kx; rotate_left; clear_value kx; intro hkx
    | extract_lets +onlyGivenNames kx; subst kx
    | with_reducible apply State.raise_keeps
    | with_reducible apply State.tableCheck_keeps
    | with_reducible apply State.msfFault_keeps
    | with_reducible apply State.msfFail_keeps
    | with_reducible apply State.msfSend_keeps
    | with_reducible apply Keeps.ite
    | with_reducible apply KeepsP.mk; fail_if_success (with_reducible apply KeepsP.proj)
    | split

theorem State.commitIssue_keeps {r₀ : State} {s : State} (addr mop v : Nat) (hk : Keeps r₀ s) :
    Keeps r₀ (State.commitIssue s addr mop v) := by
  unfold State.commitIssue
  repeat' first
    | with_reducible assumption
    | extract_lets +onlyGivenNames kx; refine @Keeps.cut _ r₀ kx ?_ ?_; subst kx; rotate_left; clear_value kx; intro hkx
    | extract_lets +onlyGivenNames kx; refine @KeepsP.cut _ _ r₀ kx ?_ ?_; subst kx; rotate_left; clear_value kx; intro hkx
    | extract_lets +onlyGivenNames kx; subst kx
    | with_reducible apply State.updLnd_keeps
    | with_reducible apply State.deferLost_keeps
    | with_reducible apply State.msfIssue_keeps
    | with_reducible apply Keeps.ite
    | with_reducible apply Keeps.set; with_reducible assumption
    | with_reducible apply KeepsP.of_mk; with_reducible assumption
    | split

theorem State.controlIssue_keeps {r₀ : State} {s : State} (h : Fin 8) (addr mop : Nat) (data : List Byte)
    (hk : Keeps r₀ s) :
    Keeps r₀ (State.controlIssue s h addr mop data) := by
  unfold State.controlIssue
  repeat' first
    | with_reducible assumption
    | extract_lets +onlyGivenNames kx; subst kx
    | with_reducible apply State.msfIssue_keeps
    | with_reducible apply Keeps.ite
    | with_reducible apply Keeps.set; with_reducible assumption
    | with_reducible apply KeepsP.proj

theorem execMsfLoad_keeps {r₀ : State} (ag : Agent) (addr : Nat) {s : State} (hk : Keeps r₀ s) :
    KeepsX r₀ (execMsfLoad ag addr s) := by
  unfold execMsfLoad
  repeat' first
    | with_reducible assumption
    | extract_lets +onlyGivenNames kx; refine @KeepsP.cut _ _ r₀ kx ?_ ?_; subst kx; rotate_left; clear_value kx; intro hkx
    | with_reducible apply State.updThread_keeps
    | with_reducible apply State.msfIssue_keeps
    | with_reducible apply State.controlIssue_keeps
    | with_reducible apply KeepsX.next
    | with_reducible apply KeepsX.ite
    | with_reducible apply KeepsP.of_mk; with_reducible assumption
    | split

theorem execMsfStore_keeps {r₀ : State} (ag : Agent) (addr : Nat) (v : BitVec 64) {s : State} (hk : Keeps r₀ s) :
    KeepsX r₀ (execMsfStore ag addr v s) := by
  unfold execMsfStore
  repeat' first
    | with_reducible assumption
    | with_reducible apply State.commitIssue_keeps
    | with_reducible apply State.controlIssue_keeps
    | with_reducible apply KeepsX.next
    | with_reducible apply KeepsX.ite
    | split

theorem execMsfAdd_keeps {r₀ : State} (ag : Agent) (addr : Nat) (v : BitVec 64) {s : State} (hk : Keeps r₀ s) :
    KeepsX r₀ (execMsfAdd ag addr v s) := by
  unfold execMsfAdd
  repeat' first
    | with_reducible assumption
    | with_reducible apply State.commitIssue_keeps
    | with_reducible apply State.controlIssue_keeps
    | with_reducible apply KeepsX.next
    | with_reducible apply KeepsX.ite
    | split

theorem execMsfSwap_keeps {r₀ : State} (ag : Agent) (addr : Nat) (v : BitVec 64) {s : State} (hk : Keeps r₀ s) :
    KeepsX r₀ (execMsfSwap ag addr v s) := by
  unfold execMsfSwap
  repeat' first
    | with_reducible assumption
    | with_reducible apply State.commitIssue_keeps
    | with_reducible apply State.controlIssue_keeps
    | with_reducible apply KeepsX.next
    | with_reducible apply KeepsX.ite
    | split

theorem execMsfCas_keeps {r₀ : State} (ag : Agent) (addr : Nat) (cmp new : BitVec 64) {s : State} (hk : Keeps r₀ s) :
    KeepsX r₀ (execMsfCas ag addr cmp new s) := by
  unfold execMsfCas
  repeat' first
    | with_reducible assumption
    | with_reducible apply State.controlIssue_keeps
    | with_reducible apply KeepsX.next
    | with_reducible apply KeepsX.ite
    | split

theorem State.burstIssue_keeps {r₀ : State} {s : State} (ag : Agent) (addr len : Nat) (write : Bool) (hk : Keeps r₀ s) :
    Keeps r₀ (State.burstIssue s ag addr len write) := by
  unfold State.burstIssue
  repeat' first
    | with_reducible assumption
    | extract_lets +onlyGivenNames kx; refine @Keeps.cut _ r₀ kx ?_ ?_; subst kx; rotate_left; clear_value kx; intro hkx
    | extract_lets +onlyGivenNames kx; refine @KeepsP.cut _ _ r₀ kx ?_ ?_; subst kx; rotate_left; clear_value kx; intro hkx
    | extract_lets +onlyGivenNames kx; subst kx
    | with_reducible apply State.updDch_keeps
    | with_reducible apply State.msfIssue_keeps
    | with_reducible apply Keeps.ite
    | with_reducible apply Keeps.set; with_reducible assumption
    | with_reducible apply KeepsP.of_mk; with_reducible assumption
    | split

theorem execReadBurst_keeps {r₀ : State} (ag : Agent) (addr : Nat) (len : Nat) {s : State} (hk : Keeps r₀ s) :
    KeepsX r₀ (execReadBurst ag addr len s) := by
  unfold execReadBurst
  repeat' first
    | with_reducible assumption
    | with_reducible apply State.burstIssue_keeps
    | with_reducible apply KeepsX.next
    | with_reducible apply KeepsX.ite

theorem execWriteBurst_keeps {r₀ : State} (ag : Agent) (addr : Nat) (len : Nat) {s : State} (hk : Keeps r₀ s) :
    KeepsX r₀ (execWriteBurst ag addr len s) := by
  unfold execWriteBurst
  repeat' first
    | with_reducible assumption
    | with_reducible apply State.burstIssue_keeps
    | with_reducible apply KeepsX.next
    | with_reducible apply KeepsX.ite

theorem State.msfRespond_keeps {r₀ : State} {s : State} (die : Nat) (p : Pkt) (st : Nat) (data : List Byte)
    (hk : Keeps r₀ s) :
    Keeps r₀ (State.msfRespond s die p st data) := by
  unfold State.msfRespond
  repeat' first
    | with_reducible assumption
    | extract_lets +onlyGivenNames kx; refine @Keeps.cut _ r₀ kx ?_ ?_; subst kx; rotate_left; clear_value kx; intro hkx
    | extract_lets +onlyGivenNames kx; subst kx
    | with_reducible apply State.updLnd_keeps
    | with_reducible apply State.enq_keeps
    | with_reducible apply Keeps.ite
    | split

theorem State.msfPerform_keeps {r₀ : State} {s : State} (die : Nat) (p : Pkt) (poison : Bool) (hk : Keeps r₀ s) :
    Keeps r₀ (State.msfPerform s die p poison) := by
  unfold State.msfPerform
  repeat' first
    | with_reducible assumption
    | extract_lets +onlyGivenNames kx; refine @Keeps.cut _ r₀ kx ?_ ?_; subst kx; rotate_left; clear_value kx; intro hkx
    | extract_lets +onlyGivenNames kx; subst kx
    | with_reducible apply State.countRx_keeps
    | with_reducible apply State.placeBytes_keeps
    | with_reducible apply State.countTier_keeps
    | with_reducible apply State.msfRespond_keeps
    | with_reducible apply Keeps.ite

theorem State.msfReach_keeps {r₀ : State} {s : State} (die : Nat) (p : Pkt) (poison : Bool) (hk : Keeps r₀ s) :
    Keeps r₀ (State.msfReach s die p poison) := by
  unfold State.msfReach
  repeat' first
    | with_reducible assumption
    | extract_lets +onlyGivenNames kx; subst kx
    | with_reducible apply State.updLnd_keeps
    | with_reducible apply State.holdAcc_keeps
    | with_reducible apply State.msfPerform_keeps
    | with_reducible apply Keeps.ite
    | split

theorem State.msfRelease_keeps {r₀ : State} {s : State} (hk : Keeps r₀ s) : Keeps r₀ (State.msfRelease s) := by
  unfold State.msfRelease
  repeat' first
    | with_reducible assumption
    | extract_lets +onlyGivenNames kx; refine @Keeps.cut _ r₀ kx ?_ ?_; subst kx; rotate_left; clear_value kx; intro hkx
    | extract_lets +onlyGivenNames kx; subst kx
    | with_reducible apply State.updLnd_keeps
    | with_reducible apply State.msfReach_keeps
    | with_reducible refine Keeps.foldl ?_ ?_; intro _ _ _

theorem execMsfRequestReceive_keeps {r₀ : State} (die : Fin 2) (p : Pkt) (poison : Bool) {s : State} (hk : Keeps r₀ s) :
    KeepsX r₀ (execMsfRequestReceive die p poison s) := by
  unfold execMsfRequestReceive
  repeat' first
    | with_reducible assumption
    | extract_lets +onlyGivenNames kx; refine @Keeps.cut _ r₀ kx ?_ ?_; subst kx; rotate_left; clear_value kx; intro hkx
    | extract_lets +onlyGivenNames kx; subst kx
    | with_reducible apply State.violateAt_keeps
    | with_reducible apply State.takeRx_keeps
    | with_reducible apply State.regionCrc_keeps
    | with_reducible apply State.msfRespond_keeps
    | with_reducible apply State.msfReach_keeps
    | with_reducible apply Keeps.ite
    | with_reducible apply KeepsX.next
    | with_reducible apply KeepsX.ite
    | with_reducible apply KeepsP.proj

theorem State.burstData_keeps {r₀ : State} {s : State} (ag : Agent) (b : Burst) (bs : List Byte) (hk : Keeps r₀ s) :
    Keeps r₀ (State.burstData s ag b bs) := by
  unfold State.burstData
  repeat' first
    | with_reducible assumption
    | extract_lets +onlyGivenNames kx; subst kx
    | with_reducible apply State.updDch_keeps
    | with_reducible apply State.placeBytes_keeps
    | with_reducible apply Keeps.ite
    | with_reducible apply Keeps.set; with_reducible assumption
    | split

theorem State.msfEnd_keeps {r₀ : State} {s : State} (die slot : Nat) (t : Txn) (ag : Agent) (st : Nat)
    (data : List Byte) (retire : Bool) (hk : Keeps r₀ s) :
    Keeps r₀ (State.msfEnd s die slot t ag st data retire) := by
  unfold State.msfEnd
  repeat' first
    | with_reducible assumption
    | extract_lets +onlyGivenNames kx; refine @Keeps.cut _ r₀ kx ?_ ?_; subst kx; rotate_left; clear_value kx; intro hkx
    | extract_lets +onlyGivenNames kx; subst kx
    | with_reducible apply State.updLnd_keeps
    | with_reducible apply State.updCmd_keeps
    | with_reducible apply State.updThread_keeps
    | with_reducible apply State.msfFault_keeps
    | with_reducible apply State.dmaFail_keeps
    | with_reducible apply State.msfFail_keeps
    | with_reducible apply State.deferLost_keeps
    | with_reducible apply State.burstData_keeps
    | with_reducible apply Keeps.ite
    | with_reducible apply Keeps.set; with_reducible assumption
    | split

theorem execMsfResponseReceive_keeps {r₀ : State} (die : Fin 2) (p : Pkt) {s : State} (hk : Keeps r₀ s) :
    KeepsX r₀ (execMsfResponseReceive die p s) := by
  unfold execMsfResponseReceive
  repeat' first
    | with_reducible assumption
    | extract_lets +onlyGivenNames kx; refine @Keeps.cut _ r₀ kx ?_ ?_; subst kx; rotate_left; clear_value kx; intro hkx
    | extract_lets +onlyGivenNames kx; subst kx
    | with_reducible apply State.updLnd_keeps
    | with_reducible apply State.countRx_keeps
    | with_reducible apply State.takeRx_keeps
    | with_reducible apply State.msfEnd_keeps
    | with_reducible apply Keeps.ite
    | with_reducible apply KeepsX.next
    | with_reducible apply KeepsX.ite
    | with_reducible apply KeepsP.proj
    | split

theorem execMsfTimeout_keeps {r₀ : State} (die : Fin 2) (slot : Fin 4096) {s : State} (hk : Keeps r₀ s) :
    KeepsX r₀ (execMsfTimeout die slot s) := by
  unfold execMsfTimeout
  repeat' first
    | with_reducible assumption
    | extract_lets +onlyGivenNames kx; refine @Keeps.cut _ r₀ kx ?_ ?_; subst kx; rotate_left; clear_value kx; intro hkx
    | extract_lets +onlyGivenNames kx; subst kx
    | with_reducible apply State.updLnd_keeps
    | with_reducible apply State.msfEnd_keeps
    | with_reducible apply KeepsX.next
    | with_reducible apply KeepsX.ite
    | split

theorem execTxnSlotReissue_keeps {r₀ : State} (die : Fin 2) (slot : Fin 4096) {s : State} (hk : Keeps r₀ s) :
    KeepsX r₀ (execTxnSlotReissue die slot s) := by
  unfold execTxnSlotReissue
  repeat' first
    | with_reducible assumption
    | extract_lets +onlyGivenNames kx; subst kx
    | with_reducible apply State.updLnd_keeps
    | with_reducible apply KeepsX.next
    | with_reducible apply KeepsX.ite
    | split

theorem execMsfAbandon_keeps {r₀ : State} (die : Fin 2) (dest : BitVec 12) {s : State} (hk : Keeps r₀ s) :
    KeepsX r₀ (execMsfAbandon die dest s) := by
  unfold execMsfAbandon
  repeat' first
    | with_reducible assumption
    | extract_lets +onlyGivenNames kx; subst kx
    | with_reducible apply State.msfEnd_keeps
    | with_reducible apply Keeps.ite
    | with_reducible apply KeepsX.next
    | with_reducible apply KeepsX.ite
    | with_reducible refine Keeps.foldl ?_ ?_; intro _ _ _
    | split

theorem execMsfCfgWrite_keeps {r₀ : State} (die : Fin 2) (v : BitVec 32) {s : State} (hk : Keeps r₀ s) :
    KeepsX r₀ (execMsfCfgWrite die v s) := by
  unfold execMsfCfgWrite
  repeat' first
    | with_reducible assumption
    | extract_lets +onlyGivenNames kx; subst kx
    | with_reducible apply State.updLnd_keeps
    | with_reducible apply KeepsX.next
    | with_reducible apply KeepsX.ite

theorem execMsfCntClr_keeps {r₀ : State} (die : Fin 2) {s : State} (hk : Keeps r₀ s) : KeepsX r₀ (execMsfCntClr die s) := by
  unfold execMsfCntClr
  repeat' first
    | with_reducible assumption
    | with_reducible apply State.updLnd_keeps
    | with_reducible apply KeepsX.next
    | with_reducible apply KeepsX.ite

end Sys2Proof.Machine
end

