-- ==== Sys2Proof/Laws/FrameHello.lean ====
section
/-!
SUPPORT. Sys2Proof/Laws/FrameHello.lean: what the operations and commands of Machine/Hello.lean keep (`Keeps`): the queue, the
Cloche, programmed fuses and the canonical form of every byte memory.
-/
namespace Sys2Proof.Machine

theorem State.judge_keeps {r₀ : State} {s : State} (lk f r : Nat) (hk : Keeps r₀ s) : Keeps r₀ (State.judge s lk f r) := by
  unfold State.judge
  repeat' first
    | with_reducible assumption
    | extract_lets +onlyGivenNames kx; refine @Keeps.cut _ r₀ kx ?_ ?_; subst kx; rotate_left; clear_value kx; intro hkx
    | extract_lets +onlyGivenNames kx; subst kx
    | with_reducible apply State.updLink_keeps
    | with_reducible apply State.setPeer_keeps
    | with_reducible apply State.peerConnsError_keeps
    | with_reducible apply Keeps.ite
    | with_reducible apply Keeps.set; with_reducible assumption

theorem State.takeHello_keeps {r₀ : State} {s : State} (src kind : Nat) (hk : Keeps r₀ s) :
    Keeps r₀ (State.takeHello s src kind) := by
  unfold State.takeHello
  repeat' first
    | with_reducible assumption
    | with_reducible apply State.takeRxLike_keeps
    | with_reducible apply KeepsP.proj

theorem State.keepHello_keeps {r₀ : State} {s : State} (lk f r : Nat) (hk : Keeps r₀ s) :
    Keeps r₀ (State.keepHello s lk f r) := by
  unfold State.keepHello
  repeat' first
    | with_reducible assumption
    | extract_lets +onlyGivenNames kx; refine @Keeps.cut _ r₀ kx ?_ ?_; subst kx; rotate_left; clear_value kx; intro hkx
    | extract_lets +onlyGivenNames kx; subst kx
    | with_reducible apply State.updLink_keeps
    | with_reducible apply Keeps.ite
    | with_reducible apply Keeps.set; with_reducible assumption

theorem execHelloRequest_keeps {r₀ : State} (lk : Fin 36) (src : BitVec 12) (r : BitVec 768) {s : State} (hk : Keeps r₀ s) :
    KeepsX r₀ (execHelloRequest lk src r s) := by
  unfold execHelloRequest
  repeat' first
    | with_reducible assumption
    | with_reducible apply State.sendHello_keeps
    | with_reducible apply State.takeHello_keeps
    | with_reducible apply State.keepHello_keeps
    | with_reducible apply KeepsX.next
    | with_reducible apply KeepsX.ite

theorem execHelloReply_keeps {r₀ : State} (lk : Fin 36) (src : BitVec 12) (r : BitVec 768) {s : State} (hk : Keeps r₀ s) :
    KeepsX r₀ (execHelloReply lk src r s) := by
  unfold execHelloReply
  repeat' first
    | with_reducible assumption
    | extract_lets +onlyGivenNames kx; refine @Keeps.cut _ r₀ kx ?_ ?_; subst kx; rotate_left; clear_value kx; intro hkx
    | with_reducible apply State.updLnd_keeps
    | with_reducible apply State.judge_keeps
    | with_reducible apply State.takeHello_keeps
    | with_reducible apply KeepsX.next
    | with_reducible apply KeepsX.ite

theorem execHelloUpdate_keeps {r₀ : State} (lk : Fin 36) (src : BitVec 12) (r : BitVec 768) {s : State} (hk : Keeps r₀ s) :
    KeepsX r₀ (execHelloUpdate lk src r s) := by
  unfold execHelloUpdate
  repeat' first
    | with_reducible assumption
    | with_reducible apply State.judge_keeps
    | with_reducible apply State.takeHello_keeps
    | with_reducible apply KeepsX.next
    | with_reducible apply KeepsX.ite

theorem execHelloTimeout_keeps {r₀ : State} (t : HelloTarget) {s : State} (hk : Keeps r₀ s) :
    KeepsX r₀ (execHelloTimeout t s) := by
  unfold execHelloTimeout
  repeat' first
    | with_reducible assumption
    | extract_lets +onlyGivenNames kx; refine @Keeps.cut _ r₀ kx ?_ ?_; subst kx; rotate_left; clear_value kx; intro hkx
    | extract_lets +onlyGivenNames kx; subst kx
    | with_reducible apply State.updLink_keeps
    | with_reducible apply State.sendHello_keeps
    | with_reducible apply State.setPeer_keeps
    | with_reducible apply KeepsX.next
    | with_reducible apply KeepsX.ite
    | with_reducible apply Keeps.set; with_reducible assumption
    | split

theorem State.updatePeer_keeps {r₀ : State} {s : State} (lk f : Nat) (last : Option Nat) (hk : Keeps r₀ s) :
    Keeps r₀ (State.updatePeer s lk f last) := by
  unfold State.updatePeer
  repeat' first
    | with_reducible assumption
    | extract_lets +onlyGivenNames kx; refine @Keeps.cut _ r₀ kx ?_ ?_; subst kx; rotate_left; clear_value kx; intro hkx
    | with_reducible apply State.sendHello_keeps
    | with_reducible apply State.judge_keeps
    | split

theorem State.updateOn_keeps {r₀ : State} {s : State} (lk : Nat) (hk : Keeps r₀ s) : Keeps r₀ (State.updateOn s lk) := by
  unfold State.updateOn
  repeat' first
    | with_reducible assumption
    | extract_lets +onlyGivenNames kx; subst kx
    | with_reducible apply State.updatePeer_keeps
    | with_reducible apply Keeps.ite
    | with_reducible refine Keeps.foldl ?_ ?_; intro _ _ _

theorem State.helloUpdateAll_keeps {r₀ : State} {s : State} (hk : Keeps r₀ s) : Keeps r₀ (State.helloUpdateAll s) := by
  unfold State.helloUpdateAll
  repeat' first
    | with_reducible assumption
    | with_reducible apply State.updateOn_keeps
    | with_reducible refine Keeps.foldl ?_ ?_; intro _ _ _

theorem execLinkCtrlHello_keeps {r₀ : State} (lk : Fin 36) {s : State} (hk : Keeps r₀ s) :
    KeepsX r₀ (execLinkCtrlHello lk s) := by
  unfold execLinkCtrlHello
  repeat' first
    | with_reducible assumption
    | with_reducible apply State.updateOn_keeps
    | with_reducible apply KeepsX.next
    | with_reducible apply KeepsX.ite

theorem execMgmtMessage_keeps {r₀ : State} (lk : Fin 36) (src : BitVec 12) (msg : List Byte)
    (crc : BitVec 32) {s : State} (hk : Keeps r₀ s) :
    KeepsX r₀ (execMgmtMessage lk src msg crc s) := by
  unfold execMgmtMessage
  repeat' first
    | with_reducible assumption
    | extract_lets +onlyGivenNames kx; refine @Keeps.cut _ r₀ kx ?_ ?_; subst kx; rotate_left; clear_value kx; intro hkx
    | extract_lets +onlyGivenNames kx; refine @KeepsP.cut _ _ r₀ kx ?_ ?_; subst kx; rotate_left; clear_value kx; intro hkx
    | extract_lets +onlyGivenNames kx; subst kx
    | with_reducible apply State.takeRxLike_keeps
    | with_reducible apply KeepsX.next
    | with_reducible apply KeepsX.ite
    | with_reducible apply Keeps.set; with_reducible assumption
    | with_reducible apply KeepsP.of_mk; with_reducible assumption

theorem State.tblDone_keeps {r₀ : State} {s : State} (d : Nat) (hk : Keeps r₀ s) : Keeps r₀ (State.tblDone s d) := by
  unfold State.tblDone
  repeat' first
    | with_reducible assumption
    | with_reducible apply State.updLnd_keeps

theorem State.tblReject_keeps {r₀ : State} {s : State} (d : Nat) (hk : Keeps r₀ s) : Keeps r₀ (State.tblReject s d) := by
  unfold State.tblReject
  repeat' first
    | with_reducible assumption
    | with_reducible apply State.updLnd_keeps

theorem execMsfTblRead_keeps {r₀ : State} (die : Fin 2) (table : Fin 4) (idx : BitVec 14) {s : State} (hk : Keeps r₀ s) :
    KeepsX r₀ (execMsfTblRead die table idx s) := by
  unfold execMsfTblRead
  repeat' first
    | with_reducible assumption
    | extract_lets +onlyGivenNames kx; subst kx
    | with_reducible apply State.updLnd_keeps
    | with_reducible apply State.tblDone_keeps
    | with_reducible apply State.tblReject_keeps
    | with_reducible apply KeepsX.next
    | with_reducible apply KeepsX.ite
    | split

theorem State.greetPeer_keeps {r₀ : State} {s : State} (f : Nat) (hk : Keeps r₀ s) : Keeps r₀ (State.greetPeer s f) := by
  unfold State.greetPeer
  repeat' first
    | with_reducible assumption
    | with_reducible apply State.greet_keeps
    | with_reducible apply Keeps.ite
    | split

theorem execMsfTblWrite_keeps {r₀ : State} (die : Fin 2) (table : Fin 4) (idx : BitVec 14) {s : State} (hk : Keeps r₀ s) :
    KeepsX r₀ (execMsfTblWrite die table idx s) := by
  unfold execMsfTblWrite
  repeat' first
    | with_reducible assumption
    | extract_lets +onlyGivenNames kx; subst kx
    | with_reducible apply State.updLnd_keeps
    | with_reducible apply State.setPeer_keeps
    | with_reducible apply State.setRegion_keeps
    | with_reducible apply State.tblDone_keeps
    | with_reducible apply State.tblReject_keeps
    | with_reducible apply State.greetPeer_keeps
    | with_reducible apply KeepsX.next
    | with_reducible apply KeepsX.ite
    | with_reducible apply Keeps.set; with_reducible assumption
    | split

end Sys2Proof.Machine
end

