-- ==== Sys2Proof/Laws/FrameFcl.lean ====
section
/-!
SUPPORT. Sys2Proof/Laws/FrameFcl.lean: what the operations and commands of Machine/Fcl.lean keep (`Keeps`): the queue, the
Cloche, programmed fuses and the canonical form of every byte memory.
-/
namespace Sys2Proof.Machine

theorem State.fenceTileHw_keeps {r₀ : State} {s : State} (t : Nat) (hk : Keeps r₀ s) :
    Keeps r₀ (State.fenceTileHw s t) := by
  unfold State.fenceTileHw
  repeat' first
    | with_reducible assumption
    | extract_lets +onlyGivenNames kx; refine @Keeps.cut _ r₀ kx ?_ ?_; subst kx; rotate_left; clear_value kx; intro hkx
    | with_reducible apply State.updTile_keeps
    | with_reducible apply State.failCmd_keeps
    | with_reducible apply Keeps.ite
    | split

theorem State.fenceLinkHw_keeps {r₀ : State} {s : State} (lk : Nat) (hk : Keeps r₀ s) :
    Keeps r₀ (State.fenceLinkHw s lk) := by
  unfold State.fenceLinkHw
  repeat' first
    | with_reducible assumption
    | with_reducible apply State.updLink_keeps
    | with_reducible apply State.discardLink_keeps

theorem State.fenceBauHw_keeps {r₀ : State} {s : State} (ch : Nat) (hk : Keeps r₀ s) :
    Keeps r₀ (State.fenceBauHw s ch) := by
  unfold State.fenceBauHw
  repeat' first
    | with_reducible assumption
    | extract_lets +onlyGivenNames kx; refine @Keeps.cut _ r₀ kx ?_ ?_; subst kx; rotate_left; clear_value kx; intro hkx
    | with_reducible apply State.updChan_keeps
    | with_reducible apply State.stopProg_keeps
    | with_reducible apply State.failCmd_keeps
    | with_reducible apply Keeps.ite
    | split

theorem State.fenceOnfiHw_keeps {r₀ : State} {s : State} (k : Nat) (hk : Keeps r₀ s) :
    Keeps r₀ (State.fenceOnfiHw s k) := by
  unfold State.fenceOnfiHw
  repeat' first
    | extract_lets +onlyGivenNames kx; subst kx
    | with_reducible apply Keeps.set; with_reducible assumption

theorem State.fenceDieHw_keeps {r₀ : State} {s : State} (d : Nat) (hk : Keeps r₀ s) : Keeps r₀ (State.fenceDieHw s d) := by
  unfold State.fenceDieHw
  repeat' first
    | with_reducible assumption
    | extract_lets +onlyGivenNames kx; refine @Keeps.cut _ r₀ kx ?_ ?_; subst kx; rotate_left; clear_value kx; intro hkx
    | extract_lets +onlyGivenNames kx; subst kx
    | with_reducible apply State.updDie_keeps
    | with_reducible apply State.fenceTileHw_keeps
    | with_reducible apply State.fenceLinkHw_keeps
    | with_reducible apply Keeps.ite
    | with_reducible apply Keeps.set; with_reducible assumption
    | with_reducible refine Keeps.foldl ?_ ?_; intro _ _ _

theorem State.fenceUnit_keeps {r₀ : State} {s : State} (kind idx : Nat) (hk : Keeps r₀ s) :
    Keeps r₀ (State.fenceUnit s kind idx) := by
  unfold State.fenceUnit
  repeat' first
    | with_reducible assumption
    | extract_lets +onlyGivenNames kx; refine @Keeps.cut _ r₀ kx ?_ ?_; subst kx; rotate_left; clear_value kx; intro hkx
    | extract_lets +onlyGivenNames kx; subst kx
    | with_reducible apply State.devEvent_keeps
    | with_reducible apply State.fenceTileHw_keeps
    | with_reducible apply State.fenceLinkHw_keeps
    | with_reducible apply State.fenceBauHw_keeps
    | with_reducible apply State.fenceOnfiHw_keeps
    | with_reducible apply State.fenceDieHw_keeps
    | with_reducible apply Keeps.ite
    | split

theorem State.qualLost_keeps {r₀ : State} {s : State} (c : Nat × Nat) (hk : Keeps r₀ s) :
    Keeps r₀ (State.qualLost s c) := by
  unfold State.qualLost
  repeat' first
    | with_reducible assumption
    | with_reducible apply State.updTile_keeps
    | with_reducible apply State.devEvent_keeps
    | with_reducible apply State.fenceUnit_keeps

theorem State.fence_keeps {r₀ : State} {s : State} (kind idx : Nat) (hk : Keeps r₀ s) :
    Keeps r₀ (State.fence s kind idx) := by
  unfold State.fence
  repeat' first
    | with_reducible assumption
    | extract_lets +onlyGivenNames kx; subst kx
    | with_reducible apply State.fenceUnit_keeps
    | with_reducible apply State.qualLost_keeps
    | with_reducible apply Keeps.ite
    | with_reducible refine Keeps.foldl ?_ ?_; intro _ _ _

theorem State.halt_keeps {r₀ : State} {s : State} (hk : Keeps r₀ s) : Keeps r₀ (State.halt s) := by
  unfold State.halt
  repeat' first
    | with_reducible assumption
    | extract_lets +onlyGivenNames kx; refine @Keeps.cut _ r₀ kx ?_ ?_; subst kx; rotate_left; clear_value kx; intro hkx
    | extract_lets +onlyGivenNames kx; subst kx
    | with_reducible apply State.updLink_keeps
    | with_reducible apply State.wr_keeps
    | with_reducible apply State.discardLink_keeps
    | with_reducible apply Keeps.set; with_reducible assumption
    | with_reducible refine Keeps.foldl ?_ ?_; intro _ _ _

theorem State.react_keeps {r₀ : State} {s : State} (news : List Nat) (hk : Keeps r₀ s) : Keeps r₀ (State.react s news) := by
  unfold State.react
  repeat' first
    | with_reducible assumption
    | extract_lets +onlyGivenNames kx; refine @Keeps.cut _ r₀ kx ?_ ?_; subst kx; rotate_left; clear_value kx; intro hkx
    | extract_lets +onlyGivenNames kx; subst kx
    | with_reducible apply State.updDie_keeps
    | with_reducible apply State.devEvent_keeps
    | with_reducible apply State.fence_keeps
    | with_reducible apply State.halt_keeps
    | with_reducible apply Keeps.ite
    | with_reducible apply Keeps.set; with_reducible assumption
    | with_reducible refine Keeps.foldl ?_ ?_; intro _ _ _
    | split

theorem State.sample_keeps {r₀ : State} {s : State} (hk : Keeps r₀ s) : Keeps r₀ (State.sample s) := by
  unfold State.sample
  repeat' first
    | with_reducible assumption
    | extract_lets +onlyGivenNames kx; subst kx
    | with_reducible apply State.react_keeps
    | with_reducible apply Keeps.ite
    | with_reducible apply Keeps.set; with_reducible assumption
    | split

theorem execFclLatch_keeps {r₀ : State} (ext : List (Fin 1024)) {s : State} (hk : Keeps r₀ s) :
    KeepsX r₀ (execFclLatch ext s) := by
  unfold execFclLatch
  repeat' first
    | with_reducible assumption
    | with_reducible apply State.raise_keeps
    | with_reducible apply State.sample_keeps
    | with_reducible apply KeepsX.next
    | with_reducible apply KeepsX.ite
    | with_reducible refine Keeps.foldl ?_ ?_; intro _ _ _

theorem execBrokenPair_keeps {r₀ : State} (src : Fin 1024) {s : State} (hk : Keeps r₀ s) :
    KeepsX r₀ (execBrokenPair src s) := by
  unfold execBrokenPair
  repeat' first
    | with_reducible assumption
    | extract_lets +onlyGivenNames kx; refine @Keeps.cut _ r₀ kx ?_ ?_; subst kx; rotate_left; clear_value kx; intro hkx
    | extract_lets +onlyGivenNames kx; subst kx
    | with_reducible apply State.devEvent_keeps
    | with_reducible apply State.react_keeps
    | with_reducible apply KeepsX.next
    | with_reducible apply KeepsX.ite
    | with_reducible apply Keeps.set; with_reducible assumption

theorem execReactionEnd_keeps {r₀ : State} {s : State} (hk : Keeps r₀ s) : KeepsX r₀ (execReactionEnd s) := by
  unfold execReactionEnd
  repeat' first
    | with_reducible assumption
    | extract_lets +onlyGivenNames kx; subst kx
    | with_reducible apply State.sample_keeps
    | with_reducible apply KeepsX.next
    | with_reducible apply KeepsX.ite
    | with_reducible apply Keeps.set; with_reducible assumption

theorem State.tickFcl_keeps {r₀ : State} {s : State} (hk : Keeps r₀ s) : Keeps r₀ (State.tickFcl s) := by
  unfold State.tickFcl
  repeat' first
    | with_reducible assumption
    | extract_lets +onlyGivenNames kx; subst kx
    | with_reducible apply Keeps.ite
    | with_reducible apply Keeps.set; with_reducible assumption

theorem execFclKick_keeps {r₀ : State} (key : BitVec 8) {s : State} (hk : Keeps r₀ s) : KeepsX r₀ (execFclKick key s) := by
  unfold execFclKick
  repeat' first
    | with_reducible assumption
    | extract_lets +onlyGivenNames kx; subst kx
    | with_reducible apply KeepsX.next
    | with_reducible apply KeepsX.ite
    | with_reducible apply Keeps.set; with_reducible assumption

theorem execKickLapse_keeps {r₀ : State} {s : State} (hk : Keeps r₀ s) : KeepsX r₀ (execKickLapse s) := by
  unfold execKickLapse
  repeat' first
    | with_reducible assumption
    | with_reducible apply State.raise_keeps
    | with_reducible apply State.sample_keeps
    | with_reducible apply KeepsX.next
    | with_reducible apply KeepsX.ite
    | split

theorem execBeatToggle_keeps {r₀ : State} {s : State} (hk : Keeps r₀ s) : KeepsX r₀ (execBeatToggle s) := by
  unfold execBeatToggle
  repeat' first
    | with_reducible assumption
    | extract_lets +onlyGivenNames kx; subst kx
    | with_reducible apply KeepsX.next
    | with_reducible apply KeepsX.ite
    | with_reducible apply Keeps.set; with_reducible assumption
    | split

theorem State.fenceReject_keeps {r₀ : State} {s : State} (hk : Keeps r₀ s) : Keeps r₀ (State.fenceReject s) := by
  unfold State.fenceReject
  repeat' first
    | extract_lets +onlyGivenNames kx; subst kx
    | with_reducible apply Keeps.set; with_reducible assumption

theorem State.fenceDone_keeps {r₀ : State} {s : State} (hk : Keeps r₀ s) : Keeps r₀ (State.fenceDone s) := by
  unfold State.fenceDone
  repeat' first
    | extract_lets +onlyGivenNames kx; subst kx
    | with_reducible apply Keeps.set; with_reducible assumption

theorem execFclFence_keeps {r₀ : State} (kind : BitVec 3) (idx : BitVec 8) {s : State} (hk : Keeps r₀ s) :
    KeepsX r₀ (execFclFence kind idx s) := by
  unfold execFclFence
  repeat' first
    | with_reducible assumption
    | with_reducible apply State.fence_keeps
    | with_reducible apply State.fenceReject_keeps
    | with_reducible apply State.fenceDone_keeps
    | with_reducible apply KeepsX.next
    | with_reducible apply KeepsX.ite

theorem State.unfenceTile_keeps {r₀ : State} {s : State} (t ref runs : Nat) (hk : Keeps r₀ s) :
    Keeps r₀ (State.unfenceTile s t ref runs) := by
  unfold State.unfenceTile
  repeat' first
    | with_reducible assumption
    | with_reducible apply State.updTile_keeps
    | with_reducible apply Keeps.ite

theorem State.unfence_keeps {r₀ : State} {s : State} (kind idx ref runs : Nat) (hk : Keeps r₀ s) :
    Keeps r₀ (State.unfence s kind idx ref runs) := by
  unfold State.unfence
  repeat' first
    | with_reducible assumption
    | extract_lets +onlyGivenNames kx; refine @Keeps.cut _ r₀ kx ?_ ?_; subst kx; rotate_left; clear_value kx; intro hkx
    | extract_lets +onlyGivenNames kx; subst kx
    | with_reducible apply State.updDie_keeps
    | with_reducible apply State.updChan_keeps
    | with_reducible apply State.updLink_keeps
    | with_reducible apply State.devEvent_keeps
    | with_reducible apply State.unfenceTile_keeps
    | with_reducible apply Keeps.ite
    | with_reducible apply Keeps.set; with_reducible assumption
    | with_reducible refine Keeps.foldl ?_ ?_; intro _ _ _
    | split

theorem execFclUnfence_keeps {r₀ : State} (kind : BitVec 3) (idx : BitVec 8) {s : State} (hk : Keeps r₀ s) :
    KeepsX r₀ (execFclUnfence kind idx s) := by
  unfold execFclUnfence
  repeat' first
    | with_reducible assumption
    | with_reducible apply State.fenceReject_keeps
    | with_reducible apply State.fenceDone_keeps
    | with_reducible apply State.unfence_keeps
    | with_reducible apply KeepsX.next
    | with_reducible apply KeepsX.ite

theorem State.injectPair_keeps {r₀ : State} {s : State} (src width : Nat) (hk : Keeps r₀ s) :
    Keeps r₀ (State.injectPair s src width) := by
  unfold State.injectPair
  repeat' first
    | with_reducible assumption
    | extract_lets +onlyGivenNames kx; subst kx
    | with_reducible apply Keeps.ite
    | with_reducible apply Keeps.set; with_reducible assumption

theorem State.injectDenied_keeps {r₀ : State} {s : State} (hk : Keeps r₀ s) : Keeps r₀ (State.injectDenied s) := by
  unfold State.injectDenied
  repeat' first
    | extract_lets +onlyGivenNames kx; subst kx
    | with_reducible apply Keeps.set; with_reducible assumption

theorem execFclInjectNow_keeps {r₀ : State} (src : Fin 1024) (width : BitVec 16) {s : State} (hk : Keeps r₀ s) :
    KeepsX r₀ (execFclInjectNow src width s) := by
  unfold execFclInjectNow
  repeat' first
    | with_reducible assumption
    | with_reducible apply State.injectPair_keeps
    | with_reducible apply State.injectDenied_keeps
    | with_reducible apply KeepsX.next
    | with_reducible apply KeepsX.ite

theorem execFclInjectSync_keeps {r₀ : State} (src : Fin 1024) (width : BitVec 16) {s : State} (hk : Keeps r₀ s) :
    KeepsX r₀ (execFclInjectSync src width s) := by
  unfold execFclInjectSync
  repeat' first
    | with_reducible assumption
    | extract_lets +onlyGivenNames kx; subst kx
    | with_reducible apply State.injectDenied_keeps
    | with_reducible apply KeepsX.next
    | with_reducible apply KeepsX.ite
    | with_reducible apply Keeps.set; with_reducible assumption

theorem execFclInjectWire_keeps {r₀ : State} (src : Fin 1024) {s : State} (hk : Keeps r₀ s) :
    KeepsX r₀ (execFclInjectWire src s) := by
  unfold execFclInjectWire
  repeat' first
    | with_reducible assumption
    | extract_lets +onlyGivenNames kx; subst kx
    | with_reducible apply State.injectDenied_keeps
    | with_reducible apply KeepsX.next
    | with_reducible apply KeepsX.ite
    | with_reducible apply Keeps.set; with_reducible assumption

theorem execFclStickyClear_keeps {r₀ : State} (w : Fin 16) (mask : BitVec 64) {s : State} (hk : Keeps r₀ s) :
    KeepsX r₀ (execFclStickyClear w mask s) := by
  unfold execFclStickyClear
  repeat' first
    | with_reducible assumption
    | extract_lets +onlyGivenNames kx; subst kx
    | with_reducible apply KeepsX.next
    | with_reducible apply KeepsX.ite
    | with_reducible apply Keeps.set; with_reducible assumption

theorem execFclCntClr_keeps {r₀ : State} {s : State} (hk : Keeps r₀ s) : KeepsX r₀ (execFclCntClr s) := by
  unfold execFclCntClr
  repeat' first
    | with_reducible assumption
    | extract_lets +onlyGivenNames kx; subst kx
    | with_reducible apply KeepsX.next
    | with_reducible apply KeepsX.ite
    | with_reducible apply Keeps.set; with_reducible assumption

end Sys2Proof.Machine
end

