-- ==== Sys2Proof/Laws/FrameReset.lean ====
section
/-!
SUPPORT. Sys2Proof/Laws/FrameReset.lean: what the operations and commands of Machine/Reset.lean keep (`Keeps`): the queue, the
Cloche, programmed fuses and the canonical form of every byte memory.
-/
namespace Sys2Proof.Machine

theorem State.memAfter_wf {s : State} (w : Memory.wf s.mem = true) : Memory.wf s.memAfter = true :=
  foldl_memSet_wf _ _ (filter_wf _ w)

theorem State.deviceReset_keeps {r₀ s : State} (cause : Nat) (released : Bool) (hk : Keeps r₀ s) :
    Keeps r₀ (s.deviceReset cause released) :=
  hk.trans ⟨rfl, OtpLe.refl _, rfl, fun w => ⟨State.memAfter_wf w.mem, rfl, w.host, w.qspi, w.half⟩⟩

theorem State.zeroSecure_keeps {r₀ : State} {s : State} (hk : Keeps r₀ s) : Keeps r₀ (State.zeroSecure s) := by
  unfold State.zeroSecure
  repeat' first
    | with_reducible assumption
    | extract_lets +onlyGivenNames kx; refine @Keeps.cut _ r₀ kx ?_ ?_; subst kx; rotate_left; clear_value kx; intro hkx
    | extract_lets +onlyGivenNames kx; subst kx
    | with_reducible apply State.zero_keeps
    | with_reducible refine Keeps.setSec ?_ rfl rfl; with_reducible assumption

theorem State.wipe_keeps {r₀ : State} {s : State} (hk : Keeps r₀ s) : Keeps r₀ (State.wipe s) := by
  unfold State.wipe
  repeat' first
    | with_reducible assumption
    | extract_lets +onlyGivenNames kx; refine @Keeps.cut _ r₀ kx ?_ ?_; subst kx; rotate_left; clear_value kx; intro hkx
    | extract_lets +onlyGivenNames kx; subst kx
    | with_reducible apply State.zeroSecure_keeps
    | with_reducible refine Keeps.setSec ?_ rfl rfl; with_reducible assumption

theorem State.trip_keeps {r₀ : State} {s : State} (k : Nat) (hk : Keeps r₀ s) : Keeps r₀ (State.trip s k) := by
  unfold State.trip
  repeat' first
    | with_reducible assumption
    | extract_lets +onlyGivenNames kx; refine @Keeps.cut _ r₀ kx ?_ ?_; subst kx; rotate_left; clear_value kx; intro hkx
    | extract_lets +onlyGivenNames kx; subst kx
    | with_reducible apply State.raise_keeps
    | with_reducible apply State.sample_keeps
    | with_reducible apply State.wipe_keeps
    | with_reducible refine Keeps.setSec ?_ rfl rfl; with_reducible assumption

theorem execTamperTrip_keeps {r₀ : State} (src : Fin 5) {s : State} (hk : Keeps r₀ s) :
    KeepsX r₀ (execTamperTrip src s) := by
  unfold execTamperTrip
  repeat' first
    | with_reducible assumption
    | with_reducible apply State.trip_keeps
    | with_reducible apply KeepsX.next
    | with_reducible apply KeepsX.ite

theorem execSecWipeWrite_keeps {r₀ : State} (key : BitVec 8) {s : State} (hk : Keeps r₀ s) :
    KeepsX r₀ (execSecWipeWrite key s) := by
  unfold execSecWipeWrite
  repeat' first
    | with_reducible assumption
    | with_reducible apply State.wipe_keeps
    | with_reducible apply KeepsX.next
    | with_reducible apply KeepsX.ite

end Sys2Proof.Machine
end

