-- ==== Sys2Proof/Laws/FrameCloche.lean ====
section
/-!
SUPPORT. Sys2Proof/Laws/FrameCloche.lean: what the operations and commands of Machine/Cloche.lean keep (`Keeps`): the queue, the
Cloche, programmed fuses and the canonical form of every byte memory.
-/
namespace Sys2Proof.Machine

theorem execFeedWindowClose_keeps {r₀ : State} {s : State} (hk : Keeps r₀ s) : KeepsX r₀ (execFeedWindowClose s) := by
  unfold execFeedWindowClose
  repeat' first
    | with_reducible assumption
    | extract_lets +onlyGivenNames kx; subst kx
    | with_reducible apply KeepsX.next
    | with_reducible apply KeepsX.ite
    | with_reducible apply Keeps.set; with_reducible assumption

end Sys2Proof.Machine
end

