-- ==== Sys2Proof/Laws/FrameSecurity.lean ====
section
/-!
SUPPORT. Sys2Proof/Laws/FrameSecurity.lean: what the operations and commands of Machine/Security.lean keep (`Keeps`): the queue, the
Cloche, programmed fuses and the canonical form of every byte memory.
-/
namespace Sys2Proof.Machine

theorem State.qspiPut_keeps {r₀ s : State} (a : Nat) (bs : List Byte) (hk : Keeps r₀ s) : Keeps r₀ (s.qspiPut a bs) :=
  hk.trans ⟨rfl, OtpLe.refl _, rfl, fun w => ⟨w.mem, w.t3, w.host, memPut_wf _ _ _ w.qspi, w.half⟩⟩

theorem State.writeBootBlock_keeps {r₀ : State} {s : State} (slot units count : Nat) (hk : Keeps r₀ s) :
    Keeps r₀ (State.writeBootBlock s slot units count) := by
  unfold State.writeBootBlock
  repeat' first
    | with_reducible assumption
    | with_reducible apply State.qspiPut_keeps

theorem State.transition_keeps {r₀ s : State} (target : Nat)
    (ht : s.sec.otp.lc ≤ 6 → s.sec.otp.lc ≤ target ∧ target ≤ 6) (hk :
    Keeps r₀ s) :
    Keeps r₀ (s.transition target) := by
  unfold State.transition
  refine State.deviceReset_keeps _ _ (State.wipe_keeps ?_)
  exact hk.trans ⟨rfl, ⟨ht, Nat.le_refl _, Nat.le_refl _⟩, rfl, fun w => ⟨w.mem, w.t3, w.host, w.qspi, w.half⟩⟩

theorem State.transitionStatus_le {s : State} {jtag : Bool} {target : Nat} {token : BitVec 1536}
    (h : s.transitionStatus jtag target token = Stat.ok) (w : s.sec.otp.lc ≤ 6) : s.sec.otp.lc ≤ target ∧ target ≤ 6 := by
  unfold State.transitionStatus at h
  extract_lets lc at h
  have e : s.sec.otp.lc = lc := rfl
  rw [e] at w ⊢
  clear_value lc
  simp only [Bool.and_eq_true, decide_eq_true_eq, bne_iff_ne, Bool.or_eq_true, Bool.not_eq_true'] at h
  by_cases h1 : target = 6 ∧ ¬ lc = 6
  · omega
  by_cases h2 : (lc = 1 ∧ target = 2) ∧ jtag = true
  · omega
  by_cases h3 : lc = 2 ∧ target = 3
  · omega
  by_cases h4 : (lc = 3 ∧ target = 4) ∧ jtag = false
  · omega
  by_cases h5 : ((lc = 3 ∨ lc = 4) ∧ target = 5) ∧ jtag = false
  · omega
  rw [if_neg (by simpa using h1), if_neg (by simpa using h2), if_neg (by simpa using h3), if_neg (by simpa using h4),
    if_neg (by simpa using h5)] at h
  simp [Stat.ok, Stat.wrongState] at h

theorem execJtagLcTransition_keeps {r₀ : State} (target : BitVec 8) (token : BitVec 1536) {s : State} (hk : Keeps r₀ s) :
    KeepsX r₀ (execJtagLcTransition target token s) := by
  unfold execJtagLcTransition
  split
  · exact KeepsX.next hk
  · split
    · exact KeepsX.next (State.transition_keeps _ (State.transitionStatus_le ‹_›) hk)
    · exact KeepsX.next hk

theorem State.updSpdm_keeps {r₀ : State} {s : State} (ld : Nat) (f : Spdm → Spdm) (hk : Keeps r₀ s) :
    Keeps r₀ (State.updSpdm s ld f) := by
  unfold State.updSpdm
  repeat' first
    | extract_lets +onlyGivenNames kx; subst kx
    | with_reducible refine Keeps.setSec ?_ rfl rfl; with_reducible assumption

theorem State.spdmAnswer_keeps {r₀ : State} {s : State} (ld code : Nat) (bs : List Byte) (hk : Keeps r₀ s) :
    Keeps r₀ (State.spdmAnswer s ld code bs) := by
  unfold State.spdmAnswer
  repeat' first
    | with_reducible assumption
    | with_reducible apply State.updSpdm_keeps

theorem State.spdmError_keeps {r₀ : State} {s : State} (ld e : Nat) (hk : Keeps r₀ s) :
    Keeps r₀ (State.spdmError s ld e) := by
  unfold State.spdmError
  repeat' first
    | with_reducible assumption
    | with_reducible apply State.spdmAnswer_keeps

theorem State.spdmAt_keeps {r₀ s : State} {f : State → State} (ld stage : Nat) (hf : ∀ t, Keeps r₀ t → Keeps r₀ (f t))
    (hk : Keeps r₀ s) : Keeps r₀ (s.spdmAt ld stage f) := by
  unfold State.spdmAt
  repeat' first
    | apply hf
    | with_reducible assumption
    | with_reducible apply State.spdmError_keeps
    | with_reducible apply Keeps.ite

theorem execGetVersion_keeps {r₀ : State} (ld : Fin 17) {s : State} (hk : Keeps r₀ s) :
    KeepsX r₀ (execGetVersion ld s) := by
  unfold execGetVersion
  repeat' first
    | with_reducible assumption
    | with_reducible apply State.updSpdm_keeps
    | with_reducible apply State.spdmAnswer_keeps
    | with_reducible apply KeepsX.next
    | with_reducible apply KeepsX.ite

theorem execGetCapabilities_keeps {r₀ : State} (ld : Fin 17) {s : State} (hk : Keeps r₀ s) :
    KeepsX r₀ (execGetCapabilities ld s) := by
  unfold execGetCapabilities
  repeat' first
    | with_reducible assumption
    | with_reducible intro hkf
    | with_reducible apply State.updSpdm_keeps
    | with_reducible apply State.spdmAnswer_keeps
    | with_reducible apply State.spdmAt_keeps
    | with_reducible apply KeepsX.next

theorem execNegotiateAlgorithms_keeps {r₀ : State} (ld : Fin 17) (a : SpdmAlgs) {s : State} (hk : Keeps r₀ s) :
    KeepsX r₀ (execNegotiateAlgorithms ld a s) := by
  unfold execNegotiateAlgorithms
  repeat' first
    | with_reducible assumption
    | with_reducible intro hkf
    | with_reducible apply State.updSpdm_keeps
    | with_reducible apply State.spdmAnswer_keeps
    | with_reducible apply State.spdmError_keeps
    | with_reducible apply State.spdmAt_keeps
    | with_reducible apply Keeps.ite
    | with_reducible apply KeepsX.next

theorem execGetDigests_keeps {r₀ : State} (ld : Fin 17) {s : State} (hk : Keeps r₀ s) :
    KeepsX r₀ (execGetDigests ld s) := by
  unfold execGetDigests
  repeat' first
    | with_reducible assumption
    | with_reducible intro hkf
    | with_reducible apply State.spdmAnswer_keeps
    | with_reducible apply State.spdmError_keeps
    | with_reducible apply State.spdmAt_keeps
    | with_reducible apply Keeps.ite
    | with_reducible apply KeepsX.next

theorem execGetCertificate_keeps {r₀ : State} (ld : Fin 17) (slot off len : Nat) {s : State} (hk : Keeps r₀ s) :
    KeepsX r₀ (execGetCertificate ld slot off len s) := by
  unfold execGetCertificate
  repeat' first
    | with_reducible assumption
    | with_reducible intro hkf
    | with_reducible apply State.spdmAnswer_keeps
    | with_reducible apply State.spdmError_keeps
    | with_reducible apply State.spdmAt_keeps
    | with_reducible apply Keeps.ite
    | with_reducible apply KeepsX.next

theorem execChallenge_keeps {r₀ : State} (ld : Fin 17) (slot : Nat) (nonce : BitVec 256) {s : State} (hk : Keeps r₀ s) :
    KeepsX r₀ (execChallenge ld slot nonce s) := by
  unfold execChallenge
  repeat' first
    | with_reducible assumption
    | with_reducible intro hkf
    | extract_lets +onlyGivenNames kx; subst kx
    | with_reducible apply State.spdmAnswer_keeps
    | with_reducible apply State.spdmError_keeps
    | with_reducible apply State.spdmAt_keeps
    | with_reducible apply Keeps.ite
    | with_reducible apply KeepsX.next

theorem execGetMeasurements_keeps {r₀ : State} (ld : Fin 17) (index : Nat) (signed : Bool)
    (nonce : BitVec 256) {s : State} (hk : Keeps r₀ s) :
    KeepsX r₀ (execGetMeasurements ld index signed nonce s) := by
  unfold execGetMeasurements
  repeat' first
    | with_reducible assumption
    | with_reducible intro hkf
    | extract_lets +onlyGivenNames kx; subst kx
    | with_reducible apply State.spdmAnswer_keeps
    | with_reducible apply State.spdmError_keeps
    | with_reducible apply State.spdmAt_keeps
    | with_reducible apply Keeps.ite
    | with_reducible apply KeepsX.next

theorem execKeyExchange_keeps {r₀ : State} (ld : Fin 17) (slot : Nat) (sid : BitVec 16)
    (share : BitVec 768) {s : State} (hk : Keeps r₀ s) :
    KeepsX r₀ (execKeyExchange ld slot sid share s) := by
  unfold execKeyExchange
  repeat' first
    | with_reducible assumption
    | with_reducible intro hkf
    | extract_lets +onlyGivenNames kx; subst kx
    | with_reducible apply State.draw_keeps
    | with_reducible apply State.updSpdm_keeps
    | with_reducible apply State.spdmAnswer_keeps
    | with_reducible apply State.spdmError_keeps
    | with_reducible apply State.spdmAt_keeps
    | with_reducible apply Keeps.ite
    | with_reducible apply KeepsX.next
    | split

theorem State.updSession_keeps {r₀ : State} {s : State} (ld sid : Nat) (f : Session → Session) (hk : Keeps r₀ s) :
    Keeps r₀ (State.updSession s ld sid f) := by
  unfold State.updSession
  repeat' first
    | with_reducible assumption
    | with_reducible apply State.updSpdm_keeps

theorem State.dropSession_keeps {r₀ : State} {s : State} (ld sid : Nat) (hk : Keeps r₀ s) :
    Keeps r₀ (State.dropSession s ld sid) := by
  unfold State.dropSession
  repeat' first
    | with_reducible assumption
    | with_reducible apply State.updSpdm_keeps

theorem execFinish_keeps {r₀ : State} (ld : Fin 17) (sid : BitVec 32) (verify : BitVec 512) {s : State} (hk : Keeps r₀ s) :
    KeepsX r₀ (execFinish ld sid verify s) := by
  unfold execFinish
  repeat' first
    | with_reducible assumption
    | with_reducible intro hkf
    | with_reducible apply State.devEvent_keeps
    | with_reducible apply State.spdmAnswer_keeps
    | with_reducible apply State.spdmError_keeps
    | with_reducible apply State.spdmAt_keeps
    | with_reducible apply State.updSession_keeps
    | with_reducible apply State.dropSession_keeps
    | with_reducible apply Keeps.ite
    | with_reducible apply KeepsX.next
    | split

theorem State.inSession_keeps {r₀ s : State} {f : State → Session → State} (ld sid : Nat)
    (hf : ∀ t x, Keeps r₀ t → Keeps r₀ (f t x)) (hk : Keeps r₀ s) : Keeps r₀ (s.inSession ld sid f) := by
  unfold State.inSession
  repeat' first
    | apply hf
    | with_reducible assumption
    | with_reducible apply State.spdmError_keeps
    | with_reducible apply Keeps.ite
    | split

theorem execHeartbeat_keeps {r₀ : State} (ld : Fin 17) (sid : BitVec 32) {s : State} (hk : Keeps r₀ s) :
    KeepsX r₀ (execHeartbeat ld sid s) := by
  unfold execHeartbeat
  repeat' first
    | with_reducible assumption
    | with_reducible intro hkf
    | with_reducible apply State.spdmAnswer_keeps
    | with_reducible apply State.inSession_keeps
    | with_reducible apply KeepsX.next

theorem execKeyUpdate_keeps {r₀ : State} (ld : Fin 17) (sid : BitVec 32) {s : State} (hk : Keeps r₀ s) :
    KeepsX r₀ (execKeyUpdate ld sid s) := by
  unfold execKeyUpdate
  repeat' first
    | with_reducible assumption
    | with_reducible intro hkf
    | with_reducible apply State.spdmAnswer_keeps
    | with_reducible apply State.updSession_keeps
    | with_reducible apply State.inSession_keeps
    | with_reducible apply KeepsX.next

theorem execEndSession_keeps {r₀ : State} (ld : Fin 17) (sid : BitVec 32) {s : State} (hk : Keeps r₀ s) :
    KeepsX r₀ (execEndSession ld sid s) := by
  unfold execEndSession
  repeat' first
    | with_reducible assumption
    | with_reducible intro hkf
    | with_reducible apply State.devEvent_keeps
    | with_reducible apply State.spdmAnswer_keeps
    | with_reducible apply State.dropSession_keeps
    | with_reducible apply State.inSession_keeps
    | with_reducible apply KeepsX.next

theorem State.ideKm_keeps {r₀ s : State} {f : State → State} (ld sid : Nat) (hf : ∀ t, Keeps r₀ t → Keeps r₀ (f t))
    (hk : Keeps r₀ s) : Keeps r₀ (s.ideKm ld sid f) := by
  unfold State.ideKm
  repeat' first
    | with_reducible apply hf
    | with_reducible assumption
    | with_reducible intro hkf
    | with_reducible apply State.spdmError_keeps
    | with_reducible apply State.inSession_keeps
    | with_reducible apply Keeps.ite

theorem execIdeKmQuery_keeps {r₀ : State} (ld : Fin 17) (sid : BitVec 32) {s : State} (hk : Keeps r₀ s) :
    KeepsX r₀ (execIdeKmQuery ld sid s) := by
  unfold execIdeKmQuery
  repeat' first
    | with_reducible assumption
    | with_reducible intro hkf
    | with_reducible apply State.spdmAnswer_keeps
    | with_reducible apply State.ideKm_keeps
    | with_reducible apply KeepsX.next

theorem execKeyProg_keeps {r₀ : State} (ld : Fin 17) (sid : BitVec 32) (sub : Fin 8) (set : Fin 2)
    (key : BitVec 256) {s : State} (hk : Keeps r₀ s) :
    KeepsX r₀ (execKeyProg ld sid sub set key s) := by
  unfold execKeyProg
  repeat' first
    | with_reducible assumption
    | with_reducible intro hkf
    | extract_lets +onlyGivenNames kx; subst kx
    | with_reducible apply State.spdmAnswer_keeps
    | with_reducible apply State.ideKm_keeps
    | with_reducible apply KeepsX.next
    | with_reducible refine Keeps.setSec ?_ rfl rfl; with_reducible assumption

theorem execKSetGo_keeps {r₀ : State} (ld : Fin 17) (sid : BitVec 32) (sub : Fin 8) (set : Fin 2) {s : State}
    (hk : Keeps r₀ s) :
    KeepsX r₀ (execKSetGo ld sid sub set s) := by
  unfold execKSetGo
  repeat' first
    | with_reducible assumption
    | with_reducible intro hkf
    | extract_lets +onlyGivenNames kx; subst kx
    | with_reducible apply State.devEvent_keeps
    | with_reducible apply State.spdmAnswer_keeps
    | with_reducible apply State.spdmError_keeps
    | with_reducible apply State.ideKm_keeps
    | with_reducible apply Keeps.ite
    | with_reducible apply KeepsX.next
    | with_reducible refine Keeps.setSec ?_ rfl rfl; with_reducible assumption

theorem execKSetStop_keeps {r₀ : State} (ld : Fin 17) (sid : BitVec 32) (sub : Fin 8) (set : Fin 2) {s : State}
    (hk : Keeps r₀ s) :
    KeepsX r₀ (execKSetStop ld sid sub set s) := by
  unfold execKSetStop
  repeat' first
    | with_reducible assumption
    | with_reducible intro hkf
    | extract_lets +onlyGivenNames kx; subst kx
    | with_reducible apply State.spdmAnswer_keeps
    | with_reducible apply State.ideKm_keeps
    | with_reducible apply KeepsX.next
    | with_reducible refine Keeps.setSec ?_ rfl rfl; with_reducible assumption

end Sys2Proof.Machine
end

