-- ==== Sys2Proof/Laws/FramePower.lean ====
section
/-!
SUPPORT. Sys2Proof/Laws/FramePower.lean: what the operations and commands of Machine/Power.lean keep (`Keeps`): the queue, the
Cloche, programmed fuses and the canonical form of every byte memory.
-/
namespace Sys2Proof.Machine

theorem State.clampEvent_keeps {r₀ : State} {s : State} (cause site : Nat) (hk : Keeps r₀ s) :
    Keeps r₀ (State.clampEvent s cause site) := by
  unfold State.clampEvent
  repeat' first
    | with_reducible assumption
    | with_reducible apply State.devEvent_keeps

theorem execPowerReport_keeps {r₀ : State} (mw100us mw1ms mw1s : Nat) {s : State} (hk : Keeps r₀ s) :
    KeepsX r₀ (execPowerReport mw100us mw1ms mw1s s) := by
  unfold execPowerReport
  repeat' first
    | with_reducible assumption
    | with_reducible intro hkf
    | extract_lets +onlyGivenNames kx; refine @Keeps.cut _ r₀ kx ?_ ?_; subst kx; rotate_left; clear_value kx; intro hkx
    | extract_lets +onlyGivenNames kx; subst kx
    | with_reducible apply State.raise_keeps
    | with_reducible apply State.redivide_keeps
    | with_reducible apply State.clampEvent_keeps
    | with_reducible apply KeepsX.next
    | with_reducible apply KeepsX.ite
    | with_reducible apply Keeps.set; with_reducible assumption

theorem execClampClr_keeps {r₀ : State} {s : State} (hk : Keeps r₀ s) : KeepsX r₀ (execClampClr s) := by
  unfold execClampClr
  repeat' first
    | with_reducible assumption
    | with_reducible intro hkf
    | extract_lets +onlyGivenNames kx; subst kx
    | with_reducible apply State.redivide_keeps
    | with_reducible apply State.clampEvent_keeps
    | with_reducible apply KeepsX.next
    | with_reducible apply KeepsX.ite
    | with_reducible apply Keeps.set; with_reducible assumption

theorem execVinRange_keeps {r₀ : State} (mv : Nat) {s : State} (hk : Keeps r₀ s) : KeepsX r₀ (execVinRange mv s) := by
  unfold execVinRange
  repeat' first
    | with_reducible assumption
    | with_reducible intro hkf
    | extract_lets +onlyGivenNames kx; subst kx
    | with_reducible apply State.raise_keeps
    | with_reducible apply State.redivide_keeps
    | with_reducible apply State.trip_keeps
    | with_reducible apply State.clampEvent_keeps
    | with_reducible apply KeepsX.next
    | with_reducible apply KeepsX.ite
    | with_reducible apply Keeps.set; with_reducible assumption

theorem execPwrCapWrite_keeps {r₀ : State} (v : BitVec 32) {s : State} (hk : Keeps r₀ s) :
    KeepsX r₀ (execPwrCapWrite v s) := by
  unfold execPwrCapWrite
  repeat' first
    | with_reducible assumption
    | extract_lets +onlyGivenNames kx; subst kx
    | with_reducible apply KeepsX.next
    | with_reducible apply KeepsX.ite
    | with_reducible apply Keeps.set; with_reducible assumption

theorem State.raiseDiv_keeps {r₀ : State} {s : State} (ts : List Nat) (hk : Keeps r₀ s) :
    Keeps r₀ (State.raiseDiv s ts) := by
  unfold State.raiseDiv
  repeat' first
    | with_reducible assumption
    | with_reducible intro hkf
    | with_reducible apply State.updTpwr_keeps
    | with_reducible apply State.redivide_keeps
    | with_reducible refine Keeps.foldl ?_ ?_; intro _ _ _

theorem State.powerCap_keeps {r₀ : State} {s : State} (hk : Keeps r₀ s) : Keeps r₀ (State.powerCap s) := by
  unfold State.powerCap
  repeat' first
    | with_reducible assumption
    | extract_lets +onlyGivenNames kx; refine @Keeps.cut _ r₀ kx ?_ ?_; subst kx; rotate_left; clear_value kx; intro hkx
    | extract_lets +onlyGivenNames kx; subst kx
    | with_reducible apply State.devEvent_keeps
    | with_reducible apply State.raiseDiv_keeps
    | with_reducible apply Keeps.ite
    | with_reducible apply Keeps.set; with_reducible assumption

theorem State.powerDownTile_keeps {r₀ s : State} (t : Nat) (off : Bool) (hk : Keeps r₀ s) :
    Keeps r₀ (s.powerDownTile t off) := by
  unfold State.powerDownTile
  extract_lets acc s1 s2 keep
  have h1 : Keeps r₀ s1 := State.updTile_keeps _ _ (State.draw_keeps hk)
  split
  · exact h1
  · have h2 : Keeps r₀ s2 := State.zero_keeps _ _ h1
    exact Keeps.setMem (t := s2.draw) (State.draw_keeps h2) (fun w => foldl_memSet_wf _ _ w) id id

theorem State.wakeTile_keeps {r₀ : State} {s : State} (t : Nat) (hk : Keeps r₀ s) : Keeps r₀ (State.wakeTile s t) := by
  unfold State.wakeTile
  repeat' first
    | with_reducible assumption
    | extract_lets +onlyGivenNames kx; subst kx
    | with_reducible apply State.updTile_keeps
    | with_reducible apply State.updTpwr_keeps
    | split

theorem State.setTpwr_keeps {r₀ : State} {s : State} (t req : Nat) (hk : Keeps r₀ s) :
    Keeps r₀ (State.setTpwr s t req) := by
  unfold State.setTpwr
  repeat' first
    | with_reducible assumption
    | extract_lets +onlyGivenNames kx; subst kx
    | with_reducible apply State.updTpwr_keeps
    | with_reducible apply State.powerDownTile_keeps
    | with_reducible apply State.wakeTile_keeps
    | with_reducible apply Keeps.ite
    | split

theorem execTilePwrReq_keeps {r₀ : State} (tile : Fin 48) (req : BitVec 3) {s : State} (hk : Keeps r₀ s) :
    KeepsX r₀ (execTilePwrReq tile req s) := by
  unfold execTilePwrReq
  repeat' first
    | with_reducible assumption
    | with_reducible apply State.setTpwr_keeps
    | with_reducible apply KeepsX.next
    | with_reducible apply KeepsX.ite

theorem execTileWake_keeps {r₀ : State} (tile : Fin 48) {s : State} (hk : Keeps r₀ s) :
    KeepsX r₀ (execTileWake tile s) := by
  unfold execTileWake
  repeat' first
    | with_reducible assumption
    | with_reducible apply State.wakeTile_keeps
    | with_reducible apply KeepsX.next
    | with_reducible apply KeepsX.ite

theorem execTileDivWrite_keeps {r₀ : State} (tile : Fin 48) (v : BitVec 32) {s : State} (hk : Keeps r₀ s) :
    KeepsX r₀ (execTileDivWrite tile v s) := by
  unfold execTileDivWrite
  repeat' first
    | with_reducible assumption
    | with_reducible intro hkf
    | extract_lets +onlyGivenNames kx; subst kx
    | with_reducible apply State.updTpwr_keeps
    | with_reducible apply State.redivide_keeps
    | with_reducible apply KeepsX.next
    | with_reducible apply KeepsX.ite

theorem execTileVsetWrite_keeps {r₀ : State} (tile : Fin 48) (v : BitVec 32) {s : State} (hk : Keeps r₀ s) :
    KeepsX r₀ (execTileVsetWrite tile v s) := by
  unfold execTileVsetWrite
  repeat' first
    | with_reducible assumption
    | extract_lets +onlyGivenNames kx; subst kx
    | with_reducible apply State.updTpwr_keeps
    | with_reducible apply KeepsX.next
    | with_reducible apply KeepsX.ite

theorem execComparatorFire_keeps {r₀ : State} (k : Fin 64) {s : State} (hk : Keeps r₀ s) :
    KeepsX r₀ (execComparatorFire k s) := by
  unfold execComparatorFire
  repeat' first
    | with_reducible assumption
    | extract_lets +onlyGivenNames kx; refine @Keeps.cut _ r₀ kx ?_ ?_; subst kx; rotate_left; clear_value kx; intro hkx
    | extract_lets +onlyGivenNames kx; subst kx
    | with_reducible apply State.updCmp_keeps
    | with_reducible apply State.eventTo_keeps
    | with_reducible apply Keeps.ite
    | with_reducible apply KeepsX.next
    | with_reducible apply KeepsX.ite
    | with_reducible apply Keeps.set; with_reducible assumption
    | split

theorem execLtuBootWrite_keeps {r₀ : State} (v : BitVec 16) {s : State} (hk : Keeps r₀ s) :
    KeepsX r₀ (execLtuBootWrite v s) := by
  unfold execLtuBootWrite
  repeat' first
    | with_reducible assumption
    | extract_lets +onlyGivenNames kx; subst kx
    | with_reducible apply KeepsX.next
    | with_reducible apply KeepsX.ite
    | with_reducible apply Keeps.set; with_reducible assumption

theorem State.freeCmps_keeps {r₀ : State} {s : State} (ld : Nat) (hk : Keeps r₀ s) : Keeps r₀ (State.freeCmps s ld) := by
  unfold State.freeCmps
  repeat' first
    | extract_lets +onlyGivenNames kx; subst kx
    | with_reducible apply Keeps.set; with_reducible assumption

theorem State.splitStaging_keeps {r₀ : State} {s : State} (units : Nat) (hk : Keeps r₀ s) :
    Keeps r₀ (State.splitStaging s units) := by
  unfold State.splitStaging
  repeat' first
    | with_reducible assumption
    | extract_lets +onlyGivenNames kx; refine @Keeps.cut _ r₀ kx ?_ ?_; subst kx; rotate_left; clear_value kx; intro hkx
    | extract_lets +onlyGivenNames kx; subst kx
    | with_reducible apply State.updComp_keeps
    | with_reducible apply Keeps.set; with_reducible assumption
    | with_reducible refine Keeps.foldl ?_ ?_; intro _ _ _

theorem execStageSplitWrite_keeps {r₀ : State} (v : BitVec 32) {s : State} (hk : Keeps r₀ s) :
    KeepsX r₀ (execStageSplitWrite v s) := by
  unfold execStageSplitWrite
  repeat' first
    | with_reducible assumption
    | extract_lets +onlyGivenNames kx; subst kx
    | with_reducible apply State.splitStaging_keeps
    | with_reducible apply KeepsX.next
    | with_reducible apply KeepsX.ite

theorem execSyncInEdge_keeps {r₀ : State} {s : State} (hk : Keeps r₀ s) : KeepsX r₀ (execSyncInEdge s) := by
  unfold execSyncInEdge
  repeat' first
    | with_reducible assumption
    | extract_lets +onlyGivenNames kx; subst kx
    | with_reducible apply State.syncGates_keeps
    | with_reducible apply State.injectPair_keeps
    | with_reducible apply KeepsX.next
    | with_reducible apply KeepsX.ite
    | with_reducible apply Keeps.set; with_reducible assumption
    | split

theorem execThermalSample_keeps {r₀ : State} (site : Fin 32) (temp : Int) {s : State} (hk : Keeps r₀ s) :
    KeepsX r₀ (execThermalSample site temp s) := by
  unfold execThermalSample
  repeat' first
    | with_reducible assumption
    | with_reducible intro hkf
    | extract_lets +onlyGivenNames kx; refine @Keeps.cut _ r₀ kx ?_ ?_; subst kx; rotate_left; clear_value kx; intro hkx
    | extract_lets +onlyGivenNames kx; subst kx
    | with_reducible apply State.raise_keeps
    | with_reducible apply State.devEvent_keeps
    | with_reducible apply State.redivide_keeps
    | with_reducible apply State.sample_keeps
    | with_reducible apply State.clampEvent_keeps
    | with_reducible apply State.raiseDiv_keeps
    | with_reducible apply Keeps.ite
    | with_reducible apply KeepsX.next
    | with_reducible apply KeepsX.ite
    | with_reducible apply Keeps.set; with_reducible assumption

theorem execPdmSweep_keeps {r₀ : State} (tile : Fin 48) {s : State} (hk : Keeps r₀ s) :
    KeepsX r₀ (execPdmSweep tile s) := by
  unfold execPdmSweep
  repeat' first
    | with_reducible assumption
    | with_reducible apply State.updTpwr_keeps
    | with_reducible apply KeepsX.next
    | with_reducible apply KeepsX.ite

set_option maxRecDepth 20000 in
theorem State.planTile_keeps {r₀ s : State} (t : Nat) (d : List (List Nat)) (now : Bool) (hk : Keeps r₀ s) :
    Keeps r₀ (s.planTile t d now) := by
  unfold State.planTile
  extract_lets s1
  have h1 : Keeps r₀ s1 := State.updTpwr_keeps _ _ hk
  clear_value s1
  split
  · exact State.devEvent_keeps _ _ _ _ (State.fence_keeps _ _ h1)
  · rename_i pl hpl
    extract_lets s2 s3
    have h2 : Keeps r₀ s2 := State.updTpwr_keeps _ _ h1
    have h3 : Keeps r₀ s3 := Keeps.ite (State.updTpwr_keeps _ _ h2) (Keeps.ite h2 (State.updTpwr_keeps _ _ h2))
    exact Keeps.ite h3 (State.devEvent_keeps _ _ _ _ h3)

theorem execSweepDone_keeps {r₀ : State} (tile : Fin 48) (delays : List (List Nat)) {s : State} (hk : Keeps r₀ s) :
    KeepsX r₀ (execSweepDone tile delays s) := by
  unfold execSweepDone
  repeat' first
    | with_reducible assumption
    | with_reducible apply State.planTile_keeps
    | with_reducible apply KeepsX.next
    | with_reducible apply KeepsX.ite

theorem State.applyPlans_keeps {r₀ : State} {s : State} (hk : Keeps r₀ s) : Keeps r₀ (State.applyPlans s) := by
  unfold State.applyPlans
  repeat' first
    | with_reducible assumption
    | with_reducible apply State.updTpwr_keeps
    | with_reducible apply Keeps.ite
    | with_reducible refine Keeps.foldl ?_ ?_; intro _ _ _
    | split

theorem State.tickPlans_keeps {r₀ : State} {s : State} (hk : Keeps r₀ s) : Keeps r₀ (State.tickPlans s) := by
  unfold State.tickPlans
  repeat' first
    | with_reducible assumption
    | with_reducible intro hkf
    | extract_lets +onlyGivenNames kx; subst kx
    | with_reducible apply State.updTpwr_keeps
    | with_reducible apply State.redivide_keeps
    | with_reducible apply Keeps.ite
    | with_reducible refine Keeps.foldl ?_ ?_; intro _ _ _
    | split

theorem execAgeScheduler_keeps {r₀ : State} {s : State} (hk : Keeps r₀ s) : KeepsX r₀ (execAgeScheduler s) := by
  unfold execAgeScheduler
  repeat' first
    | with_reducible assumption
    | extract_lets +onlyGivenNames kx; refine @Keeps.cut _ r₀ kx ?_ ?_; subst kx; rotate_left; clear_value kx; intro hkx
    | extract_lets +onlyGivenNames kx; subst kx
    | with_reducible apply State.updTpwr_keeps
    | with_reducible apply Keeps.ite
    | with_reducible apply KeepsX.next
    | with_reducible apply KeepsX.ite
    | with_reducible refine Keeps.foldl ?_ ?_; intro _ _ _
    | split

theorem execInsituSlackCheck_keeps {r₀ : State} (tile : Fin 48) (slack : List Int) {s : State} (hk : Keeps r₀ s) :
    KeepsX r₀ (execInsituSlackCheck tile slack s) := by
  unfold execInsituSlackCheck
  repeat' first
    | with_reducible assumption
    | extract_lets +onlyGivenNames kx; refine @Keeps.cut _ r₀ kx ?_ ?_; subst kx; rotate_left; clear_value kx; intro hkx
    | extract_lets +onlyGivenNames kx; subst kx
    | with_reducible apply State.updTpwr_keeps
    | with_reducible apply State.raise_keeps
    | with_reducible apply KeepsX.next
    | with_reducible apply KeepsX.ite

end Sys2Proof.Machine
end

