-- ==== Sys2Proof/Laws/FrameTile.lean ====
section
/-!
SUPPORT. Sys2Proof/Laws/FrameTile.lean: what the operations and commands of Machine/Tile.lean keep (`Keeps`): the queue, the
Cloche, programmed fuses and the canonical form of every byte memory.
-/
namespace Sys2Proof.Machine

theorem State.yieldCore_keeps {r₀ : State} {s : State} (t th : Nat) (hk : Keeps r₀ s) :
    Keeps r₀ (State.yieldCore s t th) := by
  unfold State.yieldCore
  repeat' first
    | with_reducible assumption
    | with_reducible apply State.updTile_keeps

theorem State.coreWrite_keeps {r₀ : State} {s : State} (a n v : Nat) (hk : Keeps r₀ s) :
    Keeps r₀ (State.coreWrite s a n v) := by
  unfold State.coreWrite
  repeat' first
    | with_reducible assumption
    | with_reducible apply State.placeBytes_keeps

theorem State.deferOp_keeps {r₀ : State} {s : State} (t th ilen : Nat) (d : Deferred) (hk : Keeps r₀ s) :
    Keeps r₀ (State.deferOp s t th ilen d) := by
  unfold State.deferOp
  repeat' first
    | with_reducible assumption
    | with_reducible apply State.updCmd_keeps
    | with_reducible apply State.updThread_keeps
    | with_reducible apply State.failCmd_keeps
    | with_reducible apply Keeps.ite
    | split

theorem State.coreAddr_keeps {r₀ : State} {s : State} (t : Nat) (c : TileCmd) (va : Nat) (acc : Acc) (hk : Keeps r₀ s) :
    KeepsP r₀ (State.coreAddr s t c va acc) := by
  unfold State.coreAddr
  repeat' first
    | with_reducible assumption
    | with_reducible apply State.translate_keeps
    | with_reducible apply KeepsP.ite
    | with_reducible apply KeepsP.mk; fail_if_success (with_reducible apply KeepsP.proj)

theorem State.coreAtomic_keeps {r₀ : State} {s : State} (t th ilen : Nat) (rd : Fin 32) (k : DeferKind)
    (size pa val : Nat) (hk : Keeps r₀ s) :
    Keeps r₀ (State.coreAtomic s t th ilen rd k size pa val) := by
  unfold State.coreAtomic
  repeat' first
    | with_reducible assumption
    | extract_lets +onlyGivenNames kx; refine @Keeps.cut _ r₀ kx ?_ ?_; subst kx; rotate_left; clear_value kx; intro hkx
    | extract_lets +onlyGivenNames kx; subst kx
    | with_reducible apply State.updThread_keeps
    | with_reducible apply State.failCmd_keeps
    | with_reducible apply State.failAccess_keeps
    | with_reducible apply State.yieldCore_keeps
    | with_reducible apply State.coreWrite_keeps
    | with_reducible apply State.deferOp_keeps
    | with_reducible apply Keeps.ite
    | split

theorem State.coreLoad_keeps {r₀ : State} {s : State} (t : Fin 48) (th : Fin 32) (a : CoreAcc) (pa : Nat)
    (hk : Keeps r₀ s) :
    Keeps r₀ (State.coreLoad s t th a pa) := by
  unfold State.coreLoad
  repeat' first
    | with_reducible assumption
    | extract_lets +onlyGivenNames kx; refine @Keeps.cut _ r₀ kx ?_ ?_; subst kx; rotate_left; clear_value kx; intro hkx
    | extract_lets +onlyGivenNames kx; subst kx
    | with_reducible apply State.updThread_keeps
    | with_reducible apply State.failAccess_keeps
    | with_reducible apply State.holdAcc_keeps
    | with_reducible apply State.yieldCore_keeps
    | with_reducible apply Keeps.ite
    | split

theorem State.coreStore_keeps {r₀ : State} {s : State} (t : Fin 48) (th : Fin 32) (a : CoreAcc) (c : TileCmd)
    (h : Thread) (pa : Nat) (hk : Keeps r₀ s) :
    Keeps r₀ (State.coreStore s t th a c h pa) := by
  unfold State.coreStore
  repeat' first
    | with_reducible assumption
    | extract_lets +onlyGivenNames kx; subst kx
    | with_reducible apply State.updThread_keeps
    | with_reducible apply State.failCmd_keeps
    | with_reducible apply State.failAccess_keeps
    | with_reducible apply State.holdAcc_keeps
    | with_reducible apply State.yieldCore_keeps
    | with_reducible apply State.coreWrite_keeps
    | with_reducible apply State.deferOp_keeps
    | with_reducible apply Keeps.ite
    | split

theorem State.coreOwn_keeps {r₀ : State} {s : State} (t th : Nat) (a : CoreAcc) (h : Thread) (pa off : Nat)
    (hk : Keeps r₀ s) :
    Keeps r₀ (State.coreOwn s t th a h pa off) := by
  unfold State.coreOwn
  repeat' first
    | with_reducible assumption
    | extract_lets +onlyGivenNames kx; subst kx
    | with_reducible apply State.updThread_keeps
    | with_reducible apply State.failAccess_keeps
    | with_reducible apply State.coreWrite_keeps
    | with_reducible apply Keeps.ite
    | split

theorem execCoreMemoryAccess_keeps {r₀ : State} (tile : Fin 48) (th : Fin 32) (a : CoreAcc) {s : State} (hk : Keeps r₀ s) :
    KeepsX r₀ (execCoreMemoryAccess tile th a s) := by
  unfold execCoreMemoryAccess
  repeat' first
    | with_reducible assumption
    | extract_lets +onlyGivenNames kx; subst kx
    | with_reducible apply State.failCmd_keeps
    | with_reducible apply State.coreAddr_keeps
    | with_reducible apply State.coreAtomic_keeps
    | with_reducible apply State.coreLoad_keeps
    | with_reducible apply State.coreStore_keeps
    | with_reducible apply State.coreOwn_keeps
    | with_reducible apply KeepsX.next
    | with_reducible apply KeepsX.ite
    | with_reducible apply Keeps.set; with_reducible refine KeepsP.fst (by assumption) ?_
    | split

theorem execTopIssue_keeps {r₀ : State} (tile : Fin 48) (th : Fin 32) (rd rs1 : Fin 32) {s : State} (hk : Keeps r₀ s) :
    KeepsX r₀ (execTopIssue tile th rd rs1 s) := by
  unfold execTopIssue
  repeat' first
    | with_reducible assumption
    | extract_lets +onlyGivenNames kx; refine @Keeps.cut _ r₀ kx ?_ ?_; subst kx; rotate_left; clear_value kx; intro hkx
    | extract_lets +onlyGivenNames kx; subst kx
    | with_reducible apply State.updCmd_keeps
    | with_reducible apply State.updThread_keeps
    | with_reducible apply State.failCmd_keeps
    | with_reducible apply State.failAccess_keeps
    | with_reducible apply KeepsX.next
    | with_reducible apply KeepsX.ite
    | split

theorem execTopWait_keeps {r₀ : State} (tile : Fin 48) (th : Fin 32) (rs1 : Fin 32) {s : State} (hk : Keeps r₀ s) :
    KeepsX r₀ (execTopWait tile th rs1 s) := by
  unfold execTopWait
  repeat' first
    | with_reducible assumption
    | extract_lets +onlyGivenNames kx; subst kx
    | with_reducible apply State.updThread_keeps
    | with_reducible apply KeepsX.next
    | split

theorem execTopFence_keeps {r₀ : State} (tile : Fin 48) (th : Fin 32) {s : State} (hk : Keeps r₀ s) :
    KeepsX r₀ (execTopFence tile th s) := by
  unfold execTopFence
  repeat' first
    | with_reducible assumption
    | with_reducible apply State.updThread_keeps
    | with_reducible apply KeepsX.next
    | split

theorem execTopFencet_keeps {r₀ : State} (tile : Fin 48) (th : Fin 32) {s : State} (hk : Keeps r₀ s) :
    KeepsX r₀ (execTopFencet tile th s) := by
  unfold execTopFencet
  repeat' first
    | with_reducible assumption
    | with_reducible apply State.updThread_keeps
    | with_reducible apply KeepsX.next
    | split

theorem execTopPub_keeps {r₀ : State} (tile : Fin 48) (th : Fin 32) (rs1 : Fin 32) {s : State} (hk : Keeps r₀ s) :
    KeepsX r₀ (execTopPub tile th rs1 s) := by
  unfold execTopPub
  repeat' first
    | with_reducible assumption
    | extract_lets +onlyGivenNames kx; refine @Keeps.cut _ r₀ kx ?_ ?_; subst kx; rotate_left; clear_value kx; intro hkx
    | extract_lets +onlyGivenNames kx; subst kx
    | with_reducible apply State.updCmd_keeps
    | with_reducible apply State.updThread_keeps
    | with_reducible apply State.failCmd_keeps
    | with_reducible apply State.failAccess_keeps
    | with_reducible apply KeepsX.next
    | with_reducible apply KeepsX.ite
    | split

theorem execTopFadd_keeps {r₀ : State} (tile : Fin 48) (th : Fin 32) (form : FaddForm)
    (rd rs1 rs2 : Fin 32) {s : State} (hk : Keeps r₀ s) :
    KeepsX r₀ (execTopFadd tile th form rd rs1 rs2 s) := by
  unfold execTopFadd
  repeat' first
    | with_reducible assumption
    | extract_lets +onlyGivenNames kx; subst kx
    | with_reducible apply State.failCmd_keeps
    | with_reducible apply State.coreAddr_keeps
    | with_reducible apply State.coreAtomic_keeps
    | with_reducible apply KeepsX.next
    | with_reducible apply KeepsX.ite
    | with_reducible apply Keeps.set; with_reducible refine KeepsP.fst (by assumption) ?_
    | split

theorem execTopCrc16_keeps {r₀ : State} (tile : Fin 48) (th : Fin 32) (rd rs1 rs2 : Fin 32) {s : State} (hk : Keeps r₀ s) :
    KeepsX r₀ (execTopCrc16 tile th rd rs1 rs2 s) := by
  unfold execTopCrc16
  repeat' first
    | with_reducible assumption
    | extract_lets +onlyGivenNames kx; subst kx
    | with_reducible apply State.updThread_keeps
    | with_reducible apply State.failAccess_keeps
    | with_reducible apply KeepsX.next
    | with_reducible apply KeepsX.ite
    | split

theorem execTopEnd_keeps {r₀ : State} (tile : Fin 48) (th : Fin 32) {s : State} (hk : Keeps r₀ s) :
    KeepsX r₀ (execTopEnd tile th s) := by
  unfold execTopEnd
  repeat' first
    | with_reducible assumption
    | with_reducible apply State.updThread_keeps
    | with_reducible apply KeepsX.next
    | split

theorem execOperationComplete_keeps {r₀ : State} (tile : Fin 48) (h : Nat) {s : State} (hk : Keeps r₀ s) :
    KeepsX r₀ (execOperationComplete tile h s) := by
  unfold execOperationComplete
  repeat' first
    | with_reducible assumption
    | with_reducible apply State.updCmd_keeps
    | with_reducible apply KeepsX.next
    | with_reducible apply KeepsX.ite
    | split

theorem State.zeroWork_keeps {r₀ : State} {s : State} (t tenant : Nat) (hk : Keeps r₀ s) :
    Keeps r₀ (State.zeroWork s t tenant) := by
  unfold State.zeroWork
  repeat' first
    | with_reducible assumption
    | extract_lets +onlyGivenNames kx; subst kx
    | with_reducible apply State.updTile_keeps
    | with_reducible apply State.zero_keeps
    | with_reducible apply Keeps.ite

theorem State.pinTable_keeps {r₀ : State} {s : State} (t : Nat) (d : Nat) (hk : Keeps r₀ s) :
    Keeps r₀ (State.pinTable s t d) := by
  unfold State.pinTable
  repeat' first
    | with_reducible assumption
    | extract_lets +onlyGivenNames kx; refine @Keeps.cut _ r₀ kx ?_ ?_; subst kx; rotate_left; clear_value kx; intro hkx
    | extract_lets +onlyGivenNames kx; subst kx
    | with_reducible apply State.updTile_keeps
    | with_reducible apply State.updTag_keeps
    | with_reducible apply State.updSlot_keeps
    | with_reducible apply State.unpin_keeps
    | with_reducible apply Keeps.ite

theorem State.startCmd_keeps {r₀ : State} {s : State} (t : Nat) (d : Nat) (hk : Keeps r₀ s) :
    Keeps r₀ (State.startCmd s t d) := by
  unfold State.startCmd
  repeat' first
    | with_reducible assumption
    | extract_lets +onlyGivenNames kx; refine @Keeps.cut _ r₀ kx ?_ ?_; subst kx; rotate_left; clear_value kx; intro hkx
    | extract_lets +onlyGivenNames kx; subst kx
    | with_reducible apply State.updTile_keeps
    | with_reducible apply State.updTag_keeps
    | with_reducible apply State.updTpwr_keeps
    | with_reducible apply State.wwrBytes_keeps
    | with_reducible apply State.failCmd_keeps
    | with_reducible apply State.zeroWork_keeps
    | with_reducible apply State.pinTable_keeps
    | with_reducible apply Keeps.ite

theorem execCommandStart_keeps {r₀ : State} (tile : Fin 48) {s : State} (hk : Keeps r₀ s) :
    KeepsX r₀ (execCommandStart tile s) := by
  unfold execCommandStart
  repeat' first
    | with_reducible assumption
    | extract_lets +onlyGivenNames kx; refine @Keeps.cut _ r₀ kx ?_ ?_; subst kx; rotate_left; clear_value kx; intro hkx
    | extract_lets +onlyGivenNames kx; subst kx
    | with_reducible apply State.updTile_keeps
    | with_reducible apply State.failGroup_keeps
    | with_reducible apply State.startCmd_keeps
    | with_reducible apply KeepsX.next
    | with_reducible apply KeepsX.ite
    | split

theorem State.enterCommit_keeps {r₀ : State} {s : State} (g : Nat) (hk : Keeps r₀ s) :
    Keeps r₀ (State.enterCommit s g) := by
  unfold State.enterCommit
  repeat' first
    | with_reducible assumption
    | with_reducible apply State.updTile_keeps
    | with_reducible apply State.updTag_keeps
    | with_reducible refine Keeps.foldl ?_ ?_; intro _ _ _

theorem execCommandEnded_keeps {r₀ : State} (tile : Fin 48) {s : State} (hk : Keeps r₀ s) :
    KeepsX r₀ (execCommandEnded tile s) := by
  unfold execCommandEnded
  repeat' first
    | with_reducible assumption
    | extract_lets +onlyGivenNames kx; refine @Keeps.cut _ r₀ kx ?_ ?_; subst kx; rotate_left; clear_value kx; intro hkx
    | with_reducible apply State.updTile_keeps
    | with_reducible apply State.updTag_keeps
    | with_reducible apply State.enterCommit_keeps
    | with_reducible apply Keeps.ite
    | with_reducible apply KeepsX.next
    | with_reducible apply KeepsX.ite
    | split

theorem execCommandFail_keeps {r₀ : State} (tile : Fin 48) (status : Nat) {s : State} (hk : Keeps r₀ s) :
    KeepsX r₀ (execCommandFail tile status s) := by
  unfold execCommandFail
  repeat' first
    | with_reducible assumption
    | with_reducible apply State.failCmd_keeps
    | with_reducible apply KeepsX.next
    | with_reducible apply KeepsX.ite

theorem execCmdOverrun_keeps {r₀ : State} (tile : Fin 48) {s : State} (hk : Keeps r₀ s) :
    KeepsX r₀ (execCmdOverrun tile s) := by
  unfold execCmdOverrun
  repeat' first
    | with_reducible assumption
    | with_reducible apply State.failCmd_keeps
    | with_reducible apply KeepsX.next
    | with_reducible apply KeepsX.ite
    | split

theorem execDrainWriteComplete_keeps {r₀ : State} (tag : Fin 1024) {s : State} (hk : Keeps r₀ s) :
    KeepsX r₀ (execDrainWriteComplete tag s) := by
  unfold execDrainWriteComplete
  repeat' first
    | with_reducible assumption
    | with_reducible apply State.updTag_keeps
    | with_reducible apply State.freeTag_keeps
    | with_reducible apply KeepsX.next
    | with_reducible apply KeepsX.ite

theorem execTileCfgWrite_keeps {r₀ : State} (tile : Fin 48) (v : BitVec 32) {s : State} (hk : Keeps r₀ s) :
    KeepsX r₀ (execTileCfgWrite tile v s) := by
  unfold execTileCfgWrite
  repeat' first
    | with_reducible assumption
    | extract_lets +onlyGivenNames kx; refine @Keeps.cut _ r₀ kx ?_ ?_; subst kx; rotate_left; clear_value kx; intro hkx
    | extract_lets +onlyGivenNames kx; subst kx
    | with_reducible apply State.updTile_keeps
    | with_reducible apply Keeps.ite
    | with_reducible apply KeepsX.next
    | with_reducible apply KeepsX.ite

theorem execCmdcntClr_keeps {r₀ : State} (tile : Fin 48) {s : State} (hk : Keeps r₀ s) :
    KeepsX r₀ (execCmdcntClr tile s) := by
  unfold execCmdcntClr
  repeat' first
    | with_reducible assumption
    | with_reducible apply State.updTile_keeps
    | with_reducible apply KeepsX.next
    | with_reducible apply KeepsX.ite

theorem execConfClr_keeps {r₀ : State} (tile : Fin 48) {s : State} (hk : Keeps r₀ s) : KeepsX r₀ (execConfClr tile s) := by
  unfold execConfClr
  repeat' first
    | with_reducible assumption
    | with_reducible apply State.updTile_keeps
    | with_reducible apply KeepsX.next
    | with_reducible apply KeepsX.ite

end Sys2Proof.Machine
end

