-- ==== Sys2Proof/Laws/FrameEngine.lean ====
section
/-!
SUPPORT. Sys2Proof/Laws/FrameEngine.lean: what the operations and commands of Machine/Engine.lean keep (`Keeps`): the queue, the
Cloche, programmed fuses and the canonical form of every byte memory.
-/
namespace Sys2Proof.Machine

theorem State.opDone_keeps {r₀ : State} {s : State} (t h : Nat) (hk : Keeps r₀ s) : Keeps r₀ (State.opDone s t h) := by
  unfold State.opDone
  repeat' first
    | with_reducible assumption
    | with_reducible apply State.updCmd_keeps

theorem State.runOp_keeps {r₀ s : State} {f : State → State} (t h : Nat) (ok : Bool) (rs ws : List (Nat × Nat))
    (hf : ∀ t, Keeps r₀ t → Keeps r₀ (f t)) (hk : Keeps r₀ s) : Keeps r₀ (s.runOp t h ok rs ws f) := by
  unfold State.runOp
  repeat' first
    | apply hf
    | with_reducible assumption
    | extract_lets +onlyGivenNames kx; subst kx
    | with_reducible apply State.failCmd_keeps
    | with_reducible apply State.failAccess_keeps
    | with_reducible apply State.opDone_keeps
    | with_reducible apply Keeps.ite

theorem State.putCodes_keeps {r₀ : State} {s : State} (t off w : Nat) (cs : List Nat) (hk : Keeps r₀ s) :
    Keeps r₀ (State.putCodes s t off w cs) := by
  unfold State.putCodes
  repeat' first
    | with_reducible assumption
    | extract_lets +onlyGivenNames kx; subst kx
    | with_reducible apply State.placeBytes_keeps

theorem State.mmRun_keeps {r₀ : State} {s : State} (t : Nat) (x : MmOp) (hk : Keeps r₀ s) :
    Keeps r₀ (State.mmRun s t x) := by
  unfold State.mmRun
  repeat' first
    | with_reducible assumption
    | extract_lets +onlyGivenNames kx; refine @Keeps.cut _ r₀ kx ?_ ?_; subst kx; rotate_left; clear_value kx; intro hkx
    | extract_lets +onlyGivenNames kx; subst kx
    | with_reducible apply State.updTile_keeps
    | with_reducible apply State.putCodes_keeps
    | with_reducible apply Keeps.ite

theorem execMm_keeps {r₀ : State} (tile : Fin 48) (h : Nat) {s : State} (hk : Keeps r₀ s) :
    KeepsX r₀ (execMm tile h s) := by
  unfold execMm
  repeat' first
    | with_reducible assumption
    | with_reducible intro hkf
    | with_reducible apply State.failCmd_keeps
    | with_reducible apply State.runOp_keeps
    | with_reducible apply State.mmRun_keeps
    | with_reducible apply KeepsX.next
    | split

theorem execVew_keeps {r₀ : State} (tile : Fin 48) (h : Nat) (a : VewArgs) {s : State} (hk : Keeps r₀ s) :
    KeepsX r₀ (execVew tile h a s) := by
  unfold execVew
  repeat' first
    | with_reducible assumption
    | with_reducible intro hkf
    | extract_lets +onlyGivenNames kx; subst kx
    | with_reducible apply State.failCmd_keeps
    | with_reducible apply State.runOp_keeps
    | with_reducible apply State.putCodes_keeps
    | with_reducible apply Keeps.ite
    | with_reducible apply KeepsX.next
    | split

theorem execVfn_keeps {r₀ : State} (tile : Fin 48) (h : Nat) (a : VfnArgs) {s : State} (hk : Keeps r₀ s) :
    KeepsX r₀ (execVfn tile h a s) := by
  unfold execVfn
  repeat' first
    | with_reducible assumption
    | with_reducible intro hkf
    | extract_lets +onlyGivenNames kx; subst kx
    | with_reducible apply State.runOp_keeps
    | with_reducible apply State.putCodes_keeps
    | with_reducible apply KeepsX.next
    | split

theorem execVred_keeps {r₀ : State} (tile : Fin 48) (h : Nat) (a : VredArgs) {s : State} (hk : Keeps r₀ s) :
    KeepsX r₀ (execVred tile h a s) := by
  unfold execVred
  repeat' first
    | with_reducible assumption
    | with_reducible intro hkf
    | extract_lets +onlyGivenNames kx; subst kx
    | with_reducible apply State.draw_keeps
    | with_reducible apply State.runOp_keeps
    | with_reducible apply State.putCodes_keeps
    | with_reducible apply KeepsX.next
    | split

theorem execSoftmaxOnline_keeps {r₀ : State} (tile : Fin 48) (h : Nat) (a : SoftmaxArgs) {s : State} (hk : Keeps r₀ s) :
    KeepsX r₀ (execSoftmaxOnline tile h a s) := by
  unfold execSoftmaxOnline
  repeat' first
    | with_reducible assumption
    | with_reducible intro hkf
    | extract_lets +onlyGivenNames kx; subst kx
    | with_reducible apply State.draw_keeps
    | with_reducible apply State.runOp_keeps
    | with_reducible apply State.putCodes_keeps
    | with_reducible apply KeepsX.next
    | split

theorem execNorm_keeps {r₀ : State} (tile : Fin 48) (h : Nat) (a : NormArgs) {s : State} (hk : Keeps r₀ s) :
    KeepsX r₀ (execNorm tile h a s) := by
  unfold execNorm
  repeat' first
    | with_reducible assumption
    | with_reducible intro hkf
    | extract_lets +onlyGivenNames kx; subst kx
    | with_reducible apply State.draw_keeps
    | with_reducible apply State.runOp_keeps
    | with_reducible apply State.putCodes_keeps
    | with_reducible apply KeepsX.next
    | split

theorem execQuantMx_keeps {r₀ : State} (tile : Fin 48) (h : Nat) (a : QuantArgs) {s : State} (hk : Keeps r₀ s) :
    KeepsX r₀ (execQuantMx tile h a s) := by
  unfold execQuantMx
  repeat' first
    | with_reducible assumption
    | with_reducible intro hkf
    | extract_lets +onlyGivenNames kx; subst kx
    | with_reducible apply State.failCmd_keeps
    | with_reducible apply State.runOp_keeps
    | with_reducible apply State.putCodes_keeps
    | with_reducible apply KeepsX.next
    | split

theorem State.addLps_keeps {r₀ : State} {s : State} (t : Nat) (es : List (Nat × Nat × Bool)) (hk : Keeps r₀ s) :
    Keeps r₀ (State.addLps s t es) := by
  unfold State.addLps
  repeat' first
    | with_reducible assumption
    | with_reducible apply State.updTile_keeps

theorem execSample_keeps {r₀ : State} (tile : Fin 48) (h : Nat) (a : SampleArgs) {s : State} (hk : Keeps r₀ s) :
    KeepsX r₀ (execSample tile h a s) := by
  unfold execSample
  repeat' first
    | with_reducible assumption
    | with_reducible intro hkf
    | extract_lets +onlyGivenNames kx; subst kx
    | with_reducible apply State.draw_keeps
    | with_reducible apply State.runOp_keeps
    | with_reducible apply State.putCodes_keeps
    | with_reducible apply State.addLps_keeps
    | with_reducible apply KeepsX.next
    | split

theorem execAccept_keeps {r₀ : State} (tile : Fin 48) (h : Nat) (a : AcceptArgs) {s : State} (hk : Keeps r₀ s) :
    KeepsX r₀ (execAccept tile h a s) := by
  unfold execAccept
  repeat' first
    | with_reducible assumption
    | with_reducible intro hkf
    | extract_lets +onlyGivenNames kx; subst kx
    | with_reducible apply State.draw_keeps
    | with_reducible apply State.runOp_keeps
    | with_reducible apply State.putCodes_keeps
    | with_reducible apply State.addLps_keeps
    | with_reducible apply KeepsX.next
    | split

theorem execCompare_keeps {r₀ : State} (tile : Fin 48) (h : Nat) (a : CompareArgs) {s : State} (hk : Keeps r₀ s) :
    KeepsX r₀ (execCompare tile h a s) := by
  unfold execCompare
  repeat' first
    | with_reducible assumption
    | with_reducible intro hkf
    | extract_lets +onlyGivenNames kx; subst kx
    | with_reducible apply State.failCmd_keeps
    | with_reducible apply State.runOp_keeps
    | with_reducible apply State.putCodes_keeps
    | with_reducible apply KeepsX.next
    | split

theorem execAttnBias_keeps {r₀ : State} (tile : Fin 48) (h : Nat) {s : State} (hk : Keeps r₀ s) :
    KeepsX r₀ (execAttnBias tile h s) := by
  unfold execAttnBias
  repeat' first
    | with_reducible assumption
    | with_reducible intro hkf
    | extract_lets +onlyGivenNames kx; subst kx
    | with_reducible apply State.runOp_keeps
    | with_reducible apply State.putCodes_keeps
    | with_reducible apply KeepsX.next
    | with_reducible refine Keeps.foldl ?_ ?_; intro _ _ _
    | split

end Sys2Proof.Machine
end

