-- ==== Sys2Proof/Laws/FrameHbm.lean ====
section
/-!
SUPPORT. Sys2Proof/Laws/FrameHbm.lean: what the operations and commands of Machine/Hbm.lean keep (`Keeps`): the queue, the
Cloche, programmed fuses and the canonical form of every byte memory.
-/
namespace Sys2Proof.Machine

theorem State.dmaUnheld_keeps {r₀ : State} {s : State} (e c pos : Nat) (hk : Keeps r₀ s) :
    Keeps r₀ (State.dmaUnheld s e c pos) := by
  unfold State.dmaUnheld
  repeat' first
    | with_reducible assumption
    | with_reducible apply State.updDch_keeps

theorem State.dmaPut_keeps {r₀ : State} {s : State} (ag : Agent) (e c pos tn dst : Nat) (bs : List Byte) (hk : Keeps r₀ s) :
    Keeps r₀ (State.dmaPut s ag e c pos tn dst bs) := by
  unfold State.dmaPut
  repeat' first
    | with_reducible assumption
    | with_reducible apply State.draw_keeps
    | with_reducible apply State.placeBytes_keeps
    | with_reducible apply State.holdAcc_keeps
    | with_reducible apply State.countTier_keeps
    | with_reducible apply State.dmaUnheld_keeps
    | split

theorem State.dmaHeld_keeps {r₀ : State} {s : State} (a : HeldAcc) (pa : Nat) (ag : Agent) (pos dst : Nat)
    (poison : Bool) (hk : Keeps r₀ s) :
    Keeps r₀ (State.dmaHeld s a pa ag pos dst poison) := by
  unfold State.dmaHeld
  repeat' first
    | with_reducible assumption
    | with_reducible apply State.placeBytes_keeps
    | with_reducible apply State.countTier_keeps
    | with_reducible apply State.cutXfer_keeps
    | with_reducible apply State.dmaUnheld_keeps
    | with_reducible apply State.dmaPut_keeps
    | with_reducible apply Keeps.ite
    | split

theorem State.raeHeld_keeps {r₀ : State} {s : State} (p : Pkt) (pa : Nat) (poison : Bool) (hk : Keeps r₀ s) :
    Keeps r₀ (State.raeHeld s p pa poison) := by
  unfold State.raeHeld
  repeat' first
    | with_reducible assumption
    | extract_lets +onlyGivenNames kx; subst kx
    | with_reducible apply State.sendErr_keeps
    | with_reducible apply State.connError_keeps
    | with_reducible apply State.putInbound_keeps
    | with_reducible apply State.putRead_keeps
    | with_reducible apply Keeps.ite
    | split

theorem State.raeSource_keeps {r₀ : State} {s : State} (c msn k lk : Nat) (poison : Bool) (hk : Keeps r₀ s) :
    Keeps r₀ (State.raeSource s c msn k lk poison) := by
  unfold State.raeSource
  repeat' first
    | with_reducible assumption
    | extract_lets +onlyGivenNames kx; subst kx
    | with_reducible apply State.updConn_keeps
    | with_reducible apply State.connError_keeps
    | with_reducible apply State.sendPacket_keeps
    | with_reducible apply Keeps.ite
    | split

theorem State.performHeld_keeps {r₀ : State} {s : State} (ch : Nat) (a : HeldAcc) (poison : Bool) (hk : Keeps r₀ s) :
    Keeps r₀ (State.performHeld s ch a poison) := by
  unfold State.performHeld
  repeat' first
    | with_reducible assumption
    | extract_lets +onlyGivenNames kx; subst kx
    | with_reducible apply State.updCmd_keeps
    | with_reducible apply State.updThread_keeps
    | with_reducible apply State.placeBytes_keeps
    | with_reducible apply State.failCmd_keeps
    | with_reducible apply State.sendErr_keeps
    | with_reducible apply State.sendResp_keeps
    | with_reducible apply State.msfPerform_keeps
    | with_reducible apply State.dmaHeld_keeps
    | with_reducible apply State.raeHeld_keeps
    | with_reducible apply State.raeSource_keeps
    | with_reducible apply Keeps.ite
    | split

theorem State.serveHold_keeps {r₀ : State} {s : State} (ch : Nat) (hk : Keeps r₀ s) : Keeps r₀ (State.serveHold s ch) := by
  unfold State.serveHold
  repeat' first
    | with_reducible assumption
    | extract_lets +onlyGivenNames kx; refine @Keeps.cut _ r₀ kx ?_ ?_; subst kx; rotate_left; clear_value kx; intro hkx
    | extract_lets +onlyGivenNames kx; subst kx
    | with_reducible apply State.updChan_keeps
    | with_reducible apply State.msfRelease_keeps
    | with_reducible apply State.performHeld_keeps
    | with_reducible refine Keeps.foldl ?_ ?_; intro _ _ _

theorem execHoldAccess_keeps {r₀ : State} (ch : Fin 128) (a : HeldAcc) {s : State} (hk : Keeps r₀ s) :
    KeepsX r₀ (execHoldAccess ch a s) := by
  unfold execHoldAccess
  repeat' first
    | with_reducible assumption
    | with_reducible apply State.holdAcc_keeps
    | with_reducible apply KeepsX.next
    | with_reducible apply KeepsX.ite

theorem execHoldWatchdog_keeps {r₀ : State} (ch : Fin 128) {s : State} (hk : Keeps r₀ s) :
    KeepsX r₀ (execHoldWatchdog ch s) := by
  unfold execHoldWatchdog
  repeat' first
    | with_reducible assumption
    | extract_lets +onlyGivenNames kx; refine @Keeps.cut _ r₀ kx ?_ ?_; subst kx; rotate_left; clear_value kx; intro hkx
    | with_reducible apply State.updChan_keeps
    | with_reducible apply State.raise_keeps
    | with_reducible apply State.performHeld_keeps
    | with_reducible apply KeepsX.next
    | with_reducible apply KeepsX.ite
    | split

theorem State.ownerCheck_keeps {r₀ : State} {s : State} (ch tenant : Nat) (rs ws : List Nat) (hk : Keeps r₀ s) :
    KeepsP r₀ (State.ownerCheck s ch tenant rs ws) := by
  unfold State.ownerCheck
  repeat' first
    | with_reducible assumption
    | extract_lets +onlyGivenNames kx; refine @Keeps.cut _ r₀ kx ?_ ?_; subst kx; rotate_left; clear_value kx; intro hkx
    | extract_lets +onlyGivenNames kx; subst kx
    | with_reducible apply State.raise_keeps
    | with_reducible apply State.tableCheck_keeps
    | with_reducible apply Keeps.ite
    | with_reducible apply KeepsP.mk; fail_if_success (with_reducible apply KeepsP.proj)

theorem State.chanDone_keeps {r₀ : State} {s : State} (t h i : Nat) (hk : Keeps r₀ s) :
    Keeps r₀ (State.chanDone s t h i) := by
  unfold State.chanDone
  repeat' first
    | with_reducible assumption
    | with_reducible apply State.updCmd_keeps

theorem State.bauEnter_keeps {r₀ : State} {s : State} (ch : Nat) (c : TileCmd) (o : Op) (hk : Keeps r₀ s) :
    Keeps r₀ (State.bauEnter s ch c o) := by
  unfold State.bauEnter
  repeat' first
    | with_reducible assumption
    | extract_lets +onlyGivenNames kx; refine @Keeps.cut _ r₀ kx ?_ ?_; subst kx; rotate_left; clear_value kx; intro hkx
    | extract_lets +onlyGivenNames kx; subst kx
    | with_reducible apply State.updChan_keeps
    | with_reducible apply State.placeBytes_keeps
    | with_reducible apply State.failAccess_keeps
    | with_reducible apply State.ownerCheck_keeps
    | with_reducible apply State.chanDone_keeps
    | with_reducible apply Keeps.ite
    | with_reducible apply Keeps.set; with_reducible refine KeepsP.fst (by assumption) ?_
    | split

theorem execChannelEnter_keeps {r₀ : State} (ch : Fin 128) {s : State} (hk : Keeps r₀ s) :
    KeepsX r₀ (execChannelEnter ch s) := by
  unfold execChannelEnter
  repeat' first
    | with_reducible assumption
    | extract_lets +onlyGivenNames kx; subst kx
    | with_reducible apply State.bauEnter_keeps
    | with_reducible apply KeepsX.next
    | with_reducible apply KeepsX.ite
    | split

theorem State.chargeProg_keeps {r₀ : State} {s : State} (ch : Nat) (p : BauProg) (hk : Keeps r₀ s) :
    Keeps r₀ (State.chargeProg s ch p) := by
  unfold State.chargeProg
  repeat' first
    | with_reducible assumption
    | extract_lets +onlyGivenNames kx; refine @Keeps.cut _ r₀ kx ?_ ?_; subst kx; rotate_left; clear_value kx; intro hkx
    | extract_lets +onlyGivenNames kx; subst kx
    | with_reducible apply State.updChan_keeps
    | with_reducible apply State.updAcct_keeps
    | with_reducible apply State.tap_keeps
    | with_reducible apply Keeps.ite

theorem State.countBau_keeps {r₀ : State} {s : State} (p : BauProg) (rd wr : Nat) (hk : Keeps r₀ s) :
    Keeps r₀ (State.countBau s p rd wr) := by
  unfold State.countBau
  repeat' first
    | with_reducible assumption
    | with_reducible apply State.countBytes_keeps

theorem State.progOk_keeps {r₀ : State} {s : State} (ch : Nat) (p : BauProg) (hk : Keeps r₀ s) :
    Keeps r₀ (State.progOk s ch p) := by
  unfold State.progOk
  repeat' first
    | with_reducible assumption
    | extract_lets +onlyGivenNames kx; refine @Keeps.cut _ r₀ kx ?_ ?_; subst kx; rotate_left; clear_value kx; intro hkx
    | with_reducible apply State.updChan_keeps
    | with_reducible apply State.chanDone_keeps
    | with_reducible apply State.chargeProg_keeps

theorem State.eccEnd_keeps {r₀ s : State} {f : State → State} (ch : Nat) (p : BauProg) (o : EccOutcome)
    (hf : ∀ t, Keeps r₀ t → Keeps r₀ (f t)) (hk : Keeps r₀ s) : Keeps r₀ (s.eccEnd ch p o f) := by
  unfold State.eccEnd
  repeat' first
    | with_reducible apply hf
    | with_reducible assumption
    | extract_lets +onlyGivenNames kx; refine @Keeps.cut _ r₀ kx ?_ ?_; subst kx; rotate_left; clear_value kx; intro hkx
    | with_reducible apply State.updChan_keeps
    | with_reducible apply State.raise_keeps
    | with_reducible apply State.stopProg_keeps
    | with_reducible apply State.failCmd_keeps
    | split

theorem State.attendEnd_keeps {r₀ : State} {s : State} (ch : Nat) (p : BauProg) (bound : Nat) (hk : Keeps r₀ s) :
    Keeps r₀ (State.attendEnd s ch p bound) := by
  unfold State.attendEnd
  repeat' first
    | with_reducible assumption
    | extract_lets +onlyGivenNames kx; refine @Keeps.cut _ r₀ kx ?_ ?_; subst kx; rotate_left; clear_value kx; intro hkx
    | with_reducible apply State.draw_keeps
    | with_reducible apply State.placeBytes_keeps
    | with_reducible apply State.countBau_keeps
    | with_reducible apply State.progOk_keeps

theorem execAttend_keeps {r₀ : State} (run : BauRun) {s : State} (hk : Keeps r₀ s) :
    KeepsX r₀ (execAttend run s) := by
  unfold execAttend
  repeat' first
    | with_reducible assumption
    | with_reducible intro hkf
    | with_reducible apply State.eccEnd_keeps
    | with_reducible apply State.attendEnd_keeps
    | with_reducible apply KeepsX.next
    | split

theorem State.moveLand_keeps {r₀ : State} {s : State} (ch d n : Nat) (hk : Keeps r₀ s) :
    Keeps r₀ (State.moveLand s ch d n) := by
  unfold State.moveLand
  repeat' first
    | with_reducible assumption
    | extract_lets +onlyGivenNames kx; subst kx
    | with_reducible apply State.wrBytes_keeps

theorem State.moveEnd_keeps {r₀ : State} {s : State} (ch : Nat) (p : BauProg) (hk : Keeps r₀ s) :
    Keeps r₀ (State.moveEnd s ch p) := by
  unfold State.moveEnd
  repeat' first
    | with_reducible assumption
    | extract_lets +onlyGivenNames kx; refine @Keeps.cut _ r₀ kx ?_ ?_; subst kx; rotate_left; clear_value kx; intro hkx
    | extract_lets +onlyGivenNames kx; subst kx
    | with_reducible apply State.wrBytes_keeps
    | with_reducible apply State.countBau_keeps
    | with_reducible apply State.progOk_keeps

theorem execBauCopy_keeps {r₀ : State} (run : BauRun) {s : State} (hk : Keeps r₀ s) :
    KeepsX r₀ (execBauCopy run s) := by
  unfold execBauCopy
  repeat' first
    | with_reducible assumption
    | with_reducible intro hkf
    | with_reducible apply State.eccEnd_keeps
    | with_reducible apply State.moveEnd_keeps
    | with_reducible apply KeepsX.next
    | split

theorem execBauQuantise_keeps {r₀ : State} (run : BauRun) {s : State} (hk : Keeps r₀ s) :
    KeepsX r₀ (execBauQuantise run s) := by
  unfold execBauQuantise
  repeat' first
    | with_reducible assumption
    | with_reducible intro hkf
    | with_reducible apply State.eccEnd_keeps
    | with_reducible apply State.moveEnd_keeps
    | with_reducible apply KeepsX.next
    | split

theorem execBauZero_keeps {r₀ : State} (run : BauRun) {s : State} (hk : Keeps r₀ s) :
    KeepsX r₀ (execBauZero run s) := by
  unfold execBauZero
  repeat' first
    | with_reducible assumption
    | with_reducible intro hkf
    | with_reducible apply State.eccEnd_keeps
    | with_reducible apply State.moveEnd_keeps
    | with_reducible apply KeepsX.next
    | split

theorem execBauOverrun_keeps {r₀ : State} (ch : Fin 128) {s : State} (hk : Keeps r₀ s) :
    KeepsX r₀ (execBauOverrun ch s) := by
  unfold execBauOverrun
  repeat' first
    | with_reducible assumption
    | extract_lets +onlyGivenNames kx; refine @Keeps.cut _ r₀ kx ?_ ?_; subst kx; rotate_left; clear_value kx; intro hkx
    | with_reducible apply State.updChan_keeps
    | with_reducible apply State.stopProg_keeps
    | with_reducible apply State.failCmd_keeps
    | with_reducible apply KeepsX.next
    | with_reducible apply KeepsX.ite
    | split

theorem execBauProgramStop_keeps {r₀ : State} (ch : Fin 128) {s : State} (hk : Keeps r₀ s) :
    KeepsX r₀ (execBauProgramStop ch s) := by
  unfold execBauProgramStop
  repeat' first
    | with_reducible assumption
    | extract_lets +onlyGivenNames kx; refine @Keeps.cut _ r₀ kx ?_ ?_; subst kx; rotate_left; clear_value kx; intro hkx
    | with_reducible apply State.updChan_keeps
    | with_reducible apply State.updTag_keeps
    | with_reducible apply State.freeTag_keeps
    | with_reducible apply State.chargeProg_keeps
    | with_reducible apply State.moveLand_keeps
    | with_reducible apply Keeps.ite
    | with_reducible apply KeepsX.next
    | with_reducible apply KeepsX.ite
    | split

theorem execChannelExit_keeps {r₀ : State} (ch : Fin 128) {s : State} (hk : Keeps r₀ s) :
    KeepsX r₀ (execChannelExit ch s) := by
  unfold execChannelExit
  repeat' first
    | with_reducible assumption
    | extract_lets +onlyGivenNames kx; refine @Keeps.cut _ r₀ kx ?_ ?_; subst kx; rotate_left; clear_value kx; intro hkx
    | extract_lets +onlyGivenNames kx; subst kx
    | with_reducible apply State.updChan_keeps
    | with_reducible apply State.serveHold_keeps
    | with_reducible apply State.bauEnter_keeps
    | with_reducible apply KeepsX.next
    | with_reducible apply KeepsX.ite
    | split

theorem execOwnCmdGo_keeps {r₀ : State} (ch : Fin 128) {s : State} (hk : Keeps r₀ s) : KeepsX r₀ (execOwnCmdGo ch s) := by
  unfold execOwnCmdGo
  repeat' first
    | with_reducible assumption
    | extract_lets +onlyGivenNames kx; subst kx
    | with_reducible apply State.updChan_keeps
    | with_reducible apply KeepsX.next
    | with_reducible apply KeepsX.ite

theorem execOwnWriteDone_keeps {r₀ : State} (ch : Fin 128) {s : State} (hk : Keeps r₀ s) :
    KeepsX r₀ (execOwnWriteDone ch s) := by
  unfold execOwnWriteDone
  repeat' first
    | with_reducible assumption
    | extract_lets +onlyGivenNames kx; subst kx
    | with_reducible apply State.updChan_keeps
    | with_reducible apply KeepsX.next
    | with_reducible apply KeepsX.ite

theorem execBauUnfence_keeps {r₀ : State} (stack : Fin 8) (mask : BitVec 16) {s : State} (hk : Keeps r₀ s) :
    KeepsX r₀ (execBauUnfence stack mask s) := by
  unfold execBauUnfence
  repeat' first
    | with_reducible assumption
    | with_reducible apply State.updChan_keeps
    | with_reducible apply KeepsX.next
    | with_reducible apply KeepsX.ite
    | with_reducible refine Keeps.foldl ?_ ?_; intro _ _ _

theorem execHbmcStatClr_keeps {r₀ : State} (stack : Fin 8) {s : State} (hk : Keeps r₀ s) :
    KeepsX r₀ (execHbmcStatClr stack s) := by
  unfold execHbmcStatClr
  repeat' first
    | with_reducible assumption
    | with_reducible apply State.updChan_keeps
    | with_reducible apply KeepsX.next
    | with_reducible apply KeepsX.ite
    | with_reducible refine Keeps.foldl ?_ ?_; intro _ _ _

theorem execBauCntClr_keeps {r₀ : State} (ch : Fin 128) {s : State} (hk : Keeps r₀ s) : KeepsX r₀ (execBauCntClr ch s) := by
  unfold execBauCntClr
  repeat' first
    | with_reducible assumption
    | with_reducible apply State.updChan_keeps
    | with_reducible apply KeepsX.next
    | with_reducible apply KeepsX.ite

theorem execHbmcBauDisableWrite_keeps {r₀ : State} (stack : Fin 8) (mask : BitVec 16) {s : State} (hk : Keeps r₀ s) :
    KeepsX r₀ (execHbmcBauDisableWrite stack mask s) := by
  unfold execHbmcBauDisableWrite
  repeat' first
    | with_reducible assumption
    | with_reducible apply State.updChan_keeps
    | with_reducible apply KeepsX.next
    | with_reducible apply KeepsX.ite
    | with_reducible refine Keeps.foldl ?_ ?_; intro _ _ _

end Sys2Proof.Machine
end

