-- ==== Sys2Proof/Laws/FrameTrellis.lean ====
section
/-!
SUPPORT. Sys2Proof/Laws/FrameTrellis.lean: what the operations and commands of Machine/Trellis.lean keep (`Keeps`): the queue, the
Cloche, programmed fuses and the canonical form of every byte memory.
-/
namespace Sys2Proof.Machine

theorem State.updPort_keeps {r₀ : State} {s : State} (site p : Nat) (f : Port → Port) (hk : Keeps r₀ s) :
    Keeps r₀ (State.updPort s site p f) := by
  unfold State.updPort
  repeat' first
    | with_reducible assumption
    | with_reducible apply State.updDie_keeps

theorem execTrellisPacket_keeps {r₀ : State} (site : Fin 7) (inPort : Option (Fin 4)) (p : TPkt) {s : State}
    (hk : Keeps r₀ s) :
    KeepsX r₀ (execTrellisPacket site inPort p s) := by
  unfold execTrellisPacket
  repeat' first
    | with_reducible assumption
    | extract_lets +onlyGivenNames kx; refine @Keeps.cut _ r₀ kx ?_ ?_; subst kx; rotate_left; clear_value kx; intro hkx
    | extract_lets +onlyGivenNames kx; subst kx
    | with_reducible apply State.raise_keeps
    | with_reducible apply State.updPort_keeps
    | with_reducible apply KeepsX.next
    | with_reducible apply KeepsX.ite
    | with_reducible apply Keeps.set; with_reducible assumption
    | split

theorem execTrellisModuleFail_keeps {r₀ : State} (site : Fin 7) (port : Fin 4) {s : State} (hk : Keeps r₀ s) :
    KeepsX r₀ (execTrellisModuleFail site port s) := by
  unfold execTrellisModuleFail
  repeat' first
    | with_reducible assumption
    | extract_lets +onlyGivenNames kx; refine @Keeps.cut _ r₀ kx ?_ ?_; subst kx; rotate_left; clear_value kx; intro hkx
    | extract_lets +onlyGivenNames kx; subst kx
    | with_reducible apply State.raise_keeps
    | with_reducible apply State.updPort_keeps
    | with_reducible apply KeepsX.next
    | with_reducible apply KeepsX.ite

theorem execPortRetrain_keeps {r₀ : State} (site : Fin 7) (port : Fin 4) {s : State} (hk : Keeps r₀ s) :
    KeepsX r₀ (execPortRetrain site port s) := by
  unfold execPortRetrain
  repeat' first
    | with_reducible assumption
    | with_reducible apply State.updPort_keeps
    | with_reducible apply KeepsX.next
    | with_reducible apply KeepsX.ite

theorem execPortRetrainDone_keeps {r₀ : State} (site : Fin 7) (port : Fin 4) (restored : Nat) {s : State}
    (hk : Keeps r₀ s) :
    KeepsX r₀ (execPortRetrainDone site port restored s) := by
  unfold execPortRetrainDone
  repeat' first
    | with_reducible assumption
    | extract_lets +onlyGivenNames kx; refine @Keeps.cut _ r₀ kx ?_ ?_; subst kx; rotate_left; clear_value kx; intro hkx
    | extract_lets +onlyGivenNames kx; subst kx
    | with_reducible apply State.updPort_keeps
    | with_reducible apply KeepsX.next
    | with_reducible apply KeepsX.ite

theorem execPortCntClr_keeps {r₀ : State} (site : Fin 7) (port : Fin 4) {s : State} (hk : Keeps r₀ s) :
    KeepsX r₀ (execPortCntClr site port s) := by
  unfold execPortCntClr
  repeat' first
    | with_reducible assumption
    | with_reducible apply State.updPort_keeps
    | with_reducible apply KeepsX.next
    | with_reducible apply KeepsX.ite

theorem execTrellisTimeoutWrite_keeps {r₀ : State} (v : BitVec 32) {s : State} (hk : Keeps r₀ s) :
    KeepsX r₀ (execTrellisTimeoutWrite v s) := by
  unfold execTrellisTimeoutWrite
  repeat' first
    | with_reducible assumption
    | extract_lets +onlyGivenNames kx; subst kx
    | with_reducible apply KeepsX.next
    | with_reducible apply KeepsX.ite
    | with_reducible apply Keeps.set; with_reducible assumption

theorem execDieErrclr_keeps {r₀ : State} (site : Fin 7) (v : BitVec 32) {s : State} (hk : Keeps r₀ s) :
    KeepsX r₀ (execDieErrclr site v s) := by
  unfold execDieErrclr
  repeat' first
    | with_reducible assumption
    | with_reducible apply State.updDie_keeps
    | with_reducible apply KeepsX.next
    | with_reducible apply KeepsX.ite

end Sys2Proof.Machine
end

