-- ==== Sys2Proof/Laws/FrameDma.lean ====
section
/-!
SUPPORT. Sys2Proof/Laws/FrameDma.lean: what the operations and commands of Machine/Dma.lean keep (`Keeps`): the queue, the
Cloche, programmed fuses and the canonical form of every byte memory.
-/
namespace Sys2Proof.Machine

theorem State.placePieces_keeps {r₀ s : State} (m : Master) (fill : Bool) (tn : Option Nat)
    {addr : State → Nat → Acc → State × Except Nat Nat} (ps : List Piece)
    (hx : ∀ t a c, Keeps r₀ t → KeepsP r₀ (addr t a c)) (hk : Keeps r₀ s) :
    KeepsP r₀ (State.placePieces m fill tn addr ps s) := by
  induction ps generalizing s with
  | nil => exact KeepsP.mk hk
  | cons p ps ih =>
    unfold State.placePieces
    extract_lets sr
    have hsr : KeepsP r₀ sr := by
      unfold sr
      split
      · exact KeepsP.mk hk
      · exact hx _ _ _ hk
    clear_value sr
    repeat' first
      | apply ih
      | apply hx
      | extract_lets +onlyGivenNames kx; refine @KeepsP.cut _ _ r₀ kx ?_ ?_; subst kx; rotate_left; clear_value kx; intro hkx
      | extract_lets +onlyGivenNames kx; subst kx
      | with_reducible apply State.violateAt_keeps
      | with_reducible apply Keeps.ite
      | with_reducible apply KeepsP.ite
      | with_reducible apply KeepsP.mk; fail_if_success (with_reducible apply KeepsP.proj)
      | with_reducible apply Keeps.set; with_reducible refine KeepsP.fst (by assumption) ?_
      | with_reducible apply KeepsP.of_mk; with_reducible assumption
      | split
      | with_reducible apply KeepsP.mk; with_reducible apply KeepsP.proj; first | with_reducible assumption | with_reducible apply State.violateAt_keeps

theorem State.movePieces_keeps {r₀ : State} {s : State} (tn : Nat) (x : XferSpec) (ls : List Piece) (hk : Keeps r₀ s) :
    Keeps r₀ (State.movePieces s tn x ls) := by
  unfold State.movePieces
  repeat' first
    | with_reducible assumption
    | extract_lets +onlyGivenNames kx; refine @Keeps.cut _ r₀ kx ?_ ?_; subst kx; rotate_left; clear_value kx; intro hkx
    | extract_lets +onlyGivenNames kx; subst kx
    | with_reducible apply State.draw_keeps
    | with_reducible apply State.placeBytes_keeps
    | with_reducible apply State.countTier_keeps
    | with_reducible apply Keeps.ite
    | with_reducible refine Keeps.foldl ?_ ?_; intro _ _ _

theorem State.holdPiece_keeps {r₀ : State} {s : State} (ag : Agent) (e tn : Nat) (x : XferSpec) (srcs : List
    (Nat × Nat)) (p : Piece) (hk : Keeps r₀ s) :
    Keeps r₀ (State.holdPiece s ag e tn x srcs p) := by
  unfold State.holdPiece
  repeat' first
    | with_reducible assumption
    | extract_lets +onlyGivenNames kx; subst kx
    | with_reducible apply State.holdAcc_keeps
    | with_reducible apply State.countTier_keeps
    | with_reducible apply Keeps.ite
    | split

theorem State.startXfer_keeps {r₀ : State} {s : State} (ag : Agent) (e c : Nat) (tn desc handle : Nat) (x : XferSpec)
    (ps : List Piece) (st : Nat) (hk : Keeps r₀ s) :
    Keeps r₀ (State.startXfer s ag e c tn desc handle x ps st) := by
  unfold State.startXfer
  repeat' first
    | with_reducible assumption
    | extract_lets +onlyGivenNames kx; refine @Keeps.cut _ r₀ kx ?_ ?_; subst kx; rotate_left; clear_value kx; intro hkx
    | extract_lets +onlyGivenNames kx; subst kx
    | with_reducible apply State.updDch_keeps
    | with_reducible apply State.movePieces_keeps
    | with_reducible apply State.holdPiece_keeps
    | with_reducible apply Keeps.set; with_reducible assumption
    | with_reducible refine Keeps.foldl ?_ ?_; intro _ _ _

theorem State.tileAddr_keeps {r₀ : State} (t : Nat) (c : TileCmd) {s : State} (va : Nat) (acc : Acc) (hk : Keeps r₀ s) :
    KeepsP r₀ (State.tileAddr t c s va acc) := by
  unfold State.tileAddr
  repeat' first
    | with_reducible assumption
    | with_reducible apply State.translate_keeps
    | with_reducible apply KeepsP.ite
    | with_reducible apply KeepsP.mk; fail_if_success (with_reducible apply KeepsP.proj)

theorem execDmaTileTransfer_keeps {r₀ : State} (tile : Fin 48) (h : Nat) {s : State} (hk : Keeps r₀ s) :
    KeepsX r₀ (execDmaTileTransfer tile h s) := by
  unfold execDmaTileTransfer
  repeat' first
    | with_reducible assumption
    | with_reducible intro hkf
    | extract_lets +onlyGivenNames kx; refine @Keeps.cut _ r₀ kx ?_ ?_; subst kx; rotate_left; clear_value kx; intro hkx
    | extract_lets +onlyGivenNames kx; refine @KeepsP.cut _ _ r₀ kx ?_ ?_; subst kx; rotate_left; clear_value kx; intro hkx
    | extract_lets +onlyGivenNames kx; subst kx
    | with_reducible apply State.updCmd_keeps
    | with_reducible apply State.failCmd_keeps
    | with_reducible apply State.failAccess_keeps
    | with_reducible apply State.placePieces_keeps
    | with_reducible apply State.startXfer_keeps
    | with_reducible apply State.tileAddr_keeps
    | with_reducible apply KeepsX.next
    | with_reducible apply KeepsX.ite
    | with_reducible apply KeepsP.of_mk; with_reducible assumption
    | split

theorem State.ringEntry_keeps {r₀ : State} {s : State} (e c entry : Nat) (hk : Keeps r₀ s) :
    Keeps r₀ (State.ringEntry s e c entry) := by
  unfold State.ringEntry
  repeat' first
    | with_reducible assumption
    | extract_lets +onlyGivenNames kx; subst kx
    | with_reducible apply State.updDch_keeps
    | with_reducible apply State.wr_keeps

theorem State.dmaIrq_keeps {r₀ : State} {s : State} (e c : Nat) (hk : Keeps r₀ s) : Keeps r₀ (State.dmaIrq s e c) := by
  unfold State.dmaIrq
  repeat' first
    | with_reducible assumption
    | with_reducible apply State.updEng_keeps

theorem State.endDesc_keeps {r₀ : State} {s : State} (e c d status : Nat) (hk : Keeps r₀ s) :
    Keeps r₀ (State.endDesc s e c d status) := by
  unfold State.endDesc
  repeat' first
    | with_reducible assumption
    | extract_lets +onlyGivenNames kx; refine @Keeps.cut _ r₀ kx ?_ ?_; subst kx; rotate_left; clear_value kx; intro hkx
    | with_reducible apply State.updDch_keeps
    | with_reducible apply State.ringEntry_keeps
    | with_reducible apply State.dmaIrq_keeps
    | with_reducible apply Keeps.ite

theorem State.takeDesc_keeps {r₀ s : State} {f : State → Nat → State} (e c kind : Nat)
    (hf : ∀ t d, Keeps r₀ t → Keeps r₀ (f t d)) (hk : Keeps r₀ s) : Keeps r₀ (s.takeDesc e c kind f) := by
  unfold State.takeDesc
  repeat' first
    | apply hf
    | with_reducible assumption
    | with_reducible apply State.updDch_keeps
    | with_reducible apply State.endDesc_keeps
    | with_reducible apply Keeps.ite
    | split

theorem State.ringTransfer_keeps {r₀ : State} {s : State} (eng : Fin 5) (ch : Fin 64) (d : Nat) (hk : Keeps r₀ s) :
    Keeps r₀ (State.ringTransfer s eng ch d) := by
  unfold State.ringTransfer
  repeat' first
    | with_reducible assumption
    | with_reducible intro hkf
    | extract_lets +onlyGivenNames kx; refine @KeepsP.cut _ _ r₀ kx ?_ ?_; subst kx; rotate_left; clear_value kx; intro hkx
    | extract_lets +onlyGivenNames kx; subst kx
    | with_reducible apply State.updDch_keeps
    | with_reducible apply State.placePieces_keeps
    | with_reducible apply State.startXfer_keeps
    | with_reducible apply State.endDesc_keeps
    | with_reducible apply KeepsP.mk; fail_if_success (with_reducible apply KeepsP.proj)
    | with_reducible apply KeepsP.of_mk; with_reducible assumption
    | split

theorem execDmaRingCopy_keeps {r₀ : State} (eng : Fin 5) (ch : Fin 64) {s : State} (hk : Keeps r₀ s) :
    KeepsX r₀ (execDmaRingCopy eng ch s) := by
  unfold execDmaRingCopy
  repeat' first
    | with_reducible assumption
    | with_reducible intro hkf
    | with_reducible apply State.takeDesc_keeps
    | with_reducible apply State.ringTransfer_keeps
    | with_reducible apply KeepsX.next

theorem execDmaRingFill_keeps {r₀ : State} (eng : Fin 5) (ch : Fin 64) {s : State} (hk : Keeps r₀ s) :
    KeepsX r₀ (execDmaRingFill eng ch s) := by
  unfold execDmaRingFill
  repeat' first
    | with_reducible assumption
    | with_reducible intro hkf
    | with_reducible apply State.takeDesc_keeps
    | with_reducible apply State.ringTransfer_keeps
    | with_reducible apply KeepsX.next

theorem State.postHalf_keeps {r₀ : State} {s : State} (e c done : Nat) (f : Xfer) (hk : Keeps r₀ s) :
    Keeps r₀ (State.postHalf s e c done f) := by
  unfold State.postHalf
  repeat' first
    | with_reducible assumption
    | extract_lets +onlyGivenNames kx; refine @Keeps.cut _ r₀ kx ?_ ?_; subst kx; rotate_left; clear_value kx; intro hkx
    | with_reducible apply State.updDch_keeps
    | with_reducible apply State.tileEntry_keeps
    | with_reducible apply State.ringEntry_keeps
    | with_reducible apply State.dmaIrq_keeps
    | with_reducible apply Keeps.ite
    | split

theorem execDmaHalfEntry_keeps {r₀ : State} (eng : Fin 5) (ch : Fin 64) {s : State} (hk : Keeps r₀ s) :
    KeepsX r₀ (execDmaHalfEntry eng ch s) := by
  unfold execDmaHalfEntry
  repeat' first
    | with_reducible assumption
    | with_reducible apply State.postHalf_keeps
    | with_reducible apply KeepsX.next
    | with_reducible apply KeepsX.ite
    | split

theorem State.endXfer_keeps {r₀ : State} {s : State} (eng : Fin 5) (ch : Fin 64) (f : Xfer) (hk : Keeps r₀ s) :
    Keeps r₀ (State.endXfer s eng ch f) := by
  unfold State.endXfer
  repeat' first
    | with_reducible assumption
    | extract_lets +onlyGivenNames kx; refine @Keeps.cut _ r₀ kx ?_ ?_; subst kx; rotate_left; clear_value kx; intro hkx
    | extract_lets +onlyGivenNames kx; subst kx
    | with_reducible apply State.updDch_keeps
    | with_reducible apply State.tileEntry_keeps
    | with_reducible apply State.failCmd_keeps
    | with_reducible apply State.opDone_keeps
    | with_reducible apply State.ringEntry_keeps
    | with_reducible apply State.dmaIrq_keeps
    | with_reducible apply Keeps.ite
    | split

theorem execDmaTransferEnd_keeps {r₀ : State} (eng : Fin 5) (ch : Fin 64) {s : State} (hk : Keeps r₀ s) :
    KeepsX r₀ (execDmaTransferEnd eng ch s) := by
  unfold execDmaTransferEnd
  repeat' first
    | with_reducible assumption
    | extract_lets +onlyGivenNames kx; refine @Keeps.cut _ r₀ kx ?_ ?_; subst kx; rotate_left; clear_value kx; intro hkx
    | extract_lets +onlyGivenNames kx; subst kx
    | with_reducible apply State.postHalf_keeps
    | with_reducible apply State.endXfer_keeps
    | with_reducible apply KeepsX.next
    | with_reducible apply KeepsX.ite
    | split

theorem execDmaSqTailWrite_keeps {r₀ : State} (eng : Fin 5) (ch : Fin 64) (v : BitVec 16) {s : State} (hk : Keeps r₀ s) :
    KeepsX r₀ (execDmaSqTailWrite eng ch v s) := by
  unfold execDmaSqTailWrite
  repeat' first
    | with_reducible assumption
    | with_reducible apply State.updDch_keeps
    | with_reducible apply KeepsX.next
    | with_reducible apply KeepsX.ite

theorem execDmaCplHeadWrite_keeps {r₀ : State} (eng : Fin 5) (ch : Fin 64) (v : BitVec 16) {s : State} (hk : Keeps r₀ s) :
    KeepsX r₀ (execDmaCplHeadWrite eng ch v s) := by
  unfold execDmaCplHeadWrite
  repeat' first
    | with_reducible assumption
    | with_reducible apply State.updDch_keeps
    | with_reducible apply KeepsX.next
    | with_reducible apply KeepsX.ite

theorem execDmaStop_keeps {r₀ : State} (eng : Fin 5) (ch : Fin 64) {s : State} (hk : Keeps r₀ s) :
    KeepsX r₀ (execDmaStop eng ch s) := by
  unfold execDmaStop
  repeat' first
    | with_reducible assumption
    | extract_lets +onlyGivenNames kx; refine @Keeps.cut _ r₀ kx ?_ ?_; subst kx; rotate_left; clear_value kx; intro hkx
    | with_reducible apply State.updDch_keeps
    | with_reducible apply State.cutXfer_keeps
    | with_reducible apply KeepsX.next
    | with_reducible apply KeepsX.ite
    | split

theorem execDmaResume_keeps {r₀ : State} (eng : Fin 5) (ch : Fin 64) {s : State} (hk : Keeps r₀ s) :
    KeepsX r₀ (execDmaResume eng ch s) := by
  unfold execDmaResume
  repeat' first
    | with_reducible assumption
    | with_reducible apply State.updDch_keeps
    | with_reducible apply KeepsX.next
    | with_reducible apply KeepsX.ite

theorem execDmaCntClr_keeps {r₀ : State} (eng : Fin 5) (ch : Fin 64) {s : State} (hk : Keeps r₀ s) :
    KeepsX r₀ (execDmaCntClr eng ch s) := by
  unfold execDmaCntClr
  repeat' first
    | with_reducible assumption
    | with_reducible apply State.updDch_keeps
    | with_reducible apply KeepsX.next
    | with_reducible apply KeepsX.ite

theorem State.readFail_keeps {r₀ : State} {s : State} (ag : Agent) (status : Nat) (hk : Keeps r₀ s) :
    Keeps r₀ (State.readFail s ag status) := by
  unfold State.readFail
  repeat' first
    | with_reducible assumption
    | with_reducible apply State.failCmd_keeps
    | with_reducible apply State.dmaFail_keeps
    | with_reducible apply State.ctlFail_keeps
    | split

theorem execLpddrReadRetry_keeps {r₀ : State} (pkg : Fin 16) (o : LinkOutcome) {s : State} (hk : Keeps r₀ s) :
    KeepsX r₀ (execLpddrReadRetry pkg o s) := by
  unfold execLpddrReadRetry
  repeat' first
    | with_reducible assumption
    | extract_lets +onlyGivenNames kx; refine @Keeps.cut _ r₀ kx ?_ ?_; subst kx; rotate_left; clear_value kx; intro hkx
    | with_reducible apply State.updLpc_keeps
    | with_reducible apply State.raise_keeps
    | with_reducible apply State.readFail_keeps
    | with_reducible apply KeepsX.next
    | with_reducible apply KeepsX.ite
    | split

theorem execOdeccPoll_keeps {r₀ : State} (pkg : Fin 16) (n : Nat) {s : State} (hk : Keeps r₀ s) :
    KeepsX r₀ (execOdeccPoll pkg n s) := by
  unfold execOdeccPoll
  repeat' first
    | with_reducible assumption
    | with_reducible apply State.updLpc_keeps
    | with_reducible apply KeepsX.next
    | with_reducible apply KeepsX.ite

theorem execLpcCntClr_keeps {r₀ : State} (pkg : Fin 16) {s : State} (hk : Keeps r₀ s) :
    KeepsX r₀ (execLpcCntClr pkg s) := by
  unfold execLpcCntClr
  repeat' first
    | with_reducible assumption
    | with_reducible apply State.updLpc_keeps
    | with_reducible apply KeepsX.next
    | with_reducible apply KeepsX.ite

theorem execTrellisTimeout_keeps {r₀ : State} (txn : Nat) {s : State} (hk : Keeps r₀ s) :
    KeepsX r₀ (execTrellisTimeout txn s) := by
  unfold execTrellisTimeout
  repeat' first
    | with_reducible assumption
    | extract_lets +onlyGivenNames kx; refine @Keeps.cut _ r₀ kx ?_ ?_; subst kx; rotate_left; clear_value kx; intro hkx
    | extract_lets +onlyGivenNames kx; subst kx
    | with_reducible apply State.updDie_keeps
    | with_reducible apply State.raise_keeps
    | with_reducible apply State.readFail_keeps
    | with_reducible apply KeepsX.next
    | with_reducible apply KeepsX.ite
    | with_reducible apply Keeps.set; with_reducible assumption
    | split

end Sys2Proof.Machine
end

