-- ==== Sys2Proof/Laws/FrameCompress.lean ====
section
/-!
SUPPORT. Sys2Proof/Laws/FrameCompress.lean: what the operations and commands of Machine/Compress.lean keep (`Keeps`): the queue, the
Cloche, programmed fuses and the canonical form of every byte memory.
-/
namespace Sys2Proof.Machine

theorem State.resolve_keeps {r₀ s : State} (x : CompCtx) (acc : Acc) (ps : List (Nat × Nat))
    (hx : ∀ t a c, Keeps r₀ t → KeepsP r₀ (x.addr t a c)) (hk :
    Keeps r₀ s) :
    KeepsP r₀ (State.resolve x acc ps s) := by
  induction ps generalizing s with
  | nil => exact KeepsP.mk hk
  | cons p ps ih =>
    unfold State.resolve
    repeat' first
      | with_reducible apply ih
      | with_reducible apply hx
      | with_reducible assumption
      | extract_lets +onlyGivenNames kx; subst kx
      | with_reducible apply State.violate_keeps
      | with_reducible apply KeepsP.ite
      | with_reducible apply KeepsP.mk; fail_if_success (with_reducible apply KeepsP.proj)
      | with_reducible apply Keeps.set; with_reducible refine KeepsP.fst (by assumption) ?_
      | split

theorem State.reachRead_keeps {r₀ s : State} (x : CompCtx) (fs : List (Nat × Nat)) (va n : Nat)
    (hx : ∀ t a c, Keeps r₀ t → KeepsP r₀ (x.addr t a c)) (hk :
    Keeps r₀ s) :
    KeepsP r₀ (s.reachRead x fs va n) := by
  unfold State.reachRead
  repeat' first
    | assumption
    | extract_lets +onlyGivenNames kx; subst kx
    | with_reducible apply State.resolve_keeps
    | with_reducible apply KeepsP.ite
    | with_reducible apply KeepsP.mk; fail_if_success (with_reducible apply KeepsP.proj)
    | with_reducible apply Keeps.set; with_reducible refine KeepsP.fst (by assumption) ?_
    | split

theorem State.writeParts_keeps {r₀ s : State} (x : CompCtx) (pos : Nat) (ps : List (Nat × Nat)) (bs : List Byte) (hk :
    Keeps r₀ s) :
    Keeps r₀ (State.writeParts x pos ps bs s) := by
  induction ps generalizing s bs with
  | nil => exact hk
  | cons p ps ih =>
    unfold State.writeParts
    repeat' first
      | with_reducible apply ih
      | with_reducible assumption
      | extract_lets +onlyGivenNames kx; subst kx
      | with_reducible apply State.placeBytes_keeps
      | with_reducible apply Keeps.ite
      | with_reducible apply Keeps.set; with_reducible assumption

theorem State.reachWrite_keeps {r₀ s : State} (x : CompCtx) (pos va : Nat) (bs : List Byte)
    (hx : ∀ t a c, Keeps r₀ t → KeepsP r₀ (x.addr t a c)) (hk :
    Keeps r₀ s) :
    KeepsP r₀ (s.reachWrite x pos va bs) := by
  unfold State.reachWrite
  repeat' first
    | with_reducible exact hx
    | with_reducible assumption
    | with_reducible apply State.violate_keeps
    | with_reducible apply State.resolve_keeps
    | with_reducible apply State.writeParts_keeps
    | with_reducible apply KeepsP.ite
    | with_reducible apply KeepsP.mk; fail_if_success (with_reducible apply KeepsP.proj)
    | with_reducible apply Keeps.set; with_reducible refine KeepsP.fst (by assumption) ?_
    | split

theorem State.countAt_keeps {r₀ : State} {s : State} (x : CompCtx) (va n : Nat) (write : Bool) (hk : Keeps r₀ s) :
    Keeps r₀ (State.countAt s x va n write) := by
  unfold State.countAt
  repeat' first
    | with_reducible assumption
    | with_reducible apply State.countTier_keeps
    | split

theorem State.firstPass_keeps {r₀ : State} {s : State} (e i : Nat) (plot : List Byte) (hk : Keeps r₀ s) :
    Keeps r₀ (State.firstPass s e i plot) := by
  unfold State.firstPass
  repeat' first
    | with_reducible assumption
    | with_reducible apply State.wrBytes_keeps

theorem State.countComp_keeps {r₀ : State} {s : State} (die n : Nat) (hk : Keeps r₀ s) :
    Keeps r₀ (State.countComp s die n) := by
  unfold State.countComp
  repeat' first
    | with_reducible assumption
    | with_reducible apply State.updComp_keeps

theorem State.compressFrame_keeps {r₀ s : State} (x : CompCtx) (a : CompArgs) (p : CompProg)
    (hx : ∀ t a c, Keeps r₀ t → KeepsP r₀ (x.addr t a c)) (hk :
    Keeps r₀ s) :
    KeepsP r₀ (s.compressFrame x a p) := by
  unfold State.compressFrame
  repeat' first
    | with_reducible exact hx
    | with_reducible assumption
    | extract_lets +onlyGivenNames kx; subst kx
    | with_reducible apply State.reachRead_keeps
    | with_reducible apply State.reachWrite_keeps
    | with_reducible apply State.countAt_keeps
    | with_reducible apply State.firstPass_keeps
    | with_reducible apply KeepsP.mk; fail_if_success (with_reducible apply KeepsP.proj)
    | with_reducible apply Keeps.set; with_reducible refine KeepsP.fst (by assumption) ?_
    | split

theorem State.compressOne_keeps {r₀ s : State} (x : CompCtx) (a : CompArgs) (p : CompProg)
    (hx : ∀ t a c, Keeps r₀ t → KeepsP r₀ (x.addr t a c)) (hk :
    Keeps r₀ s) :
    KeepsP r₀ (s.compressOne x a p) := by
  unfold State.compressOne
  repeat' first
    | with_reducible exact hx
    | with_reducible assumption
    | with_reducible apply State.reachWrite_keeps
    | with_reducible apply State.countComp_keeps
    | with_reducible apply State.compressFrame_keeps
    | with_reducible apply KeepsP.mk; fail_if_success (with_reducible apply KeepsP.proj)
    | with_reducible apply Keeps.set; with_reducible refine KeepsP.fst (by assumption) ?_
    | split

theorem State.countRefused_keeps {r₀ : State} {s : State} (e st : Nat) (hk : Keeps r₀ s) :
    Keeps r₀ (State.countRefused s e st) := by
  unfold State.countRefused
  repeat' first
    | with_reducible assumption
    | extract_lets +onlyGivenNames kx; refine @Keeps.cut _ r₀ kx ?_ ?_; subst kx; rotate_left; clear_value kx; intro hkx
    | with_reducible apply State.updComp_keeps
    | with_reducible apply State.raise_keeps
    | with_reducible apply Keeps.ite

theorem State.refuseFrame_keeps {r₀ : State} {s : State} (x : CompCtx) (st : Nat) (hk : Keeps r₀ s) :
    KeepsP r₀ (State.refuseFrame s x st) := by
  unfold State.refuseFrame
  repeat' first
    | with_reducible assumption
    | with_reducible apply State.countRefused_keeps
    | with_reducible apply KeepsP.mk; fail_if_success (with_reducible apply KeepsP.proj)

theorem State.decompressOne_keeps {r₀ s : State} (x : CompCtx) (a : CompArgs) (p : CompProg)
    (hx : ∀ t a c, Keeps r₀ t → KeepsP r₀ (x.addr t a c)) (hk :
    Keeps r₀ s) :
    KeepsP r₀ (s.decompressOne x a p) := by
  unfold State.decompressOne
  repeat' first
    | with_reducible exact hx
    | with_reducible assumption
    | extract_lets +onlyGivenNames kx; subst kx
    | with_reducible apply State.reachRead_keeps
    | with_reducible apply State.reachWrite_keeps
    | with_reducible apply State.countAt_keeps
    | with_reducible apply State.refuseFrame_keeps
    | with_reducible apply KeepsP.ite
    | with_reducible apply KeepsP.mk; fail_if_success (with_reducible apply KeepsP.proj)
    | with_reducible apply Keeps.set; with_reducible refine KeepsP.fst (by assumption) ?_
    | split
    | dsimp only

theorem State.compRun_keeps {r₀ s : State} (x : CompCtx) (a : CompArgs) (k : Nat) (p : CompProg)
    (hx : ∀ t a c, Keeps r₀ t → KeepsP r₀ (x.addr t a c)) (hk :
    Keeps r₀ s) :
    KeepsP r₀ (State.compRun x a k p s) := by
  induction k generalizing s p with
  | zero => exact KeepsP.mk hk
  | succ k ih =>
    unfold State.compRun
    have hh : KeepsP r₀ (if a.decomp then s.decompressOne x a p else s.compressOne x a p) :=
      KeepsP.ite (State.decompressOne_keeps x a p hx hk) (State.compressOne_keeps x a p hx hk)
    repeat' first
      | with_reducible apply ih
      | with_reducible assumption
      | with_reducible apply KeepsP.ite
      | with_reducible apply KeepsP.mk; fail_if_success (with_reducible apply KeepsP.proj)
      | with_reducible apply Keeps.set; with_reducible refine KeepsP.fst (by assumption) ?_
      | split

theorem State.fetchRemote_keeps {r₀ : State} {s : State} (ag : Agent) (ps : List (Nat × Nat)) (hk : Keeps r₀ s) :
    Keeps r₀ (State.fetchRemote s ag ps) := by
  unfold State.fetchRemote
  repeat' first
    | extract_lets +onlyGivenNames kx; subst kx
    | with_reducible apply Keeps.set; with_reducible assumption

theorem State.compTile_keeps {r₀ : State} {s : State} (tile : Fin 48) (h cop : Nat) (hk : Keeps r₀ s) :
    Keeps r₀ (State.compTile s tile h cop) := by
  unfold State.compTile
  repeat' first
    | with_reducible assumption
    | with_reducible intro hkf
    | extract_lets +onlyGivenNames kx; refine @KeepsP.cut _ _ r₀ kx ?_ ?_; subst kx; rotate_left; clear_value kx; intro hkx
    | extract_lets +onlyGivenNames kx; subst kx
    | with_reducible apply State.updCmd_keeps
    | with_reducible apply State.placeBytes_keeps
    | with_reducible apply State.failCmd_keeps
    | with_reducible apply State.failAccess_keeps
    | with_reducible apply State.opDone_keeps
    | with_reducible apply State.tileAddr_keeps
    | with_reducible apply State.compRun_keeps
    | with_reducible apply State.fetchRemote_keeps
    | with_reducible apply Keeps.ite
    | with_reducible apply KeepsP.of_mk; with_reducible assumption
    | split

theorem execCompress_keeps {r₀ : State} (tile : Fin 48) (h : Nat) {s : State} (hk : Keeps r₀ s) :
    KeepsX r₀ (execCompress tile h s) := by
  unfold execCompress
  repeat' first
    | with_reducible assumption
    | with_reducible apply State.compTile_keeps
    | with_reducible apply KeepsX.next

theorem execDecompress_keeps {r₀ : State} (tile : Fin 48) (h : Nat) {s : State} (hk : Keeps r₀ s) :
    KeepsX r₀ (execDecompress tile h s) := by
  unfold execDecompress
  repeat' first
    | with_reducible assumption
    | with_reducible apply State.compTile_keeps
    | with_reducible apply KeepsX.next

theorem State.compChan_keeps {r₀ : State} {s : State} (eng : Fin 5) (ch : Fin 64) (f : Xfer) (a : CompArgs)
    (hk : Keeps r₀ s) :
    Keeps r₀ (State.compChan s eng ch f a) := by
  unfold State.compChan
  repeat' first
    | with_reducible assumption
    | with_reducible intro hkf
    | extract_lets +onlyGivenNames kx; refine @KeepsP.cut _ _ r₀ kx ?_ ?_; subst kx; rotate_left; clear_value kx; intro hkx
    | extract_lets +onlyGivenNames kx; subst kx
    | with_reducible apply State.updDch_keeps
    | with_reducible apply State.compRun_keeps
    | with_reducible apply State.fetchRemote_keeps
    | with_reducible apply KeepsP.mk; fail_if_success (with_reducible apply KeepsP.proj)
    | with_reducible apply KeepsP.of_mk; with_reducible assumption
    | split

theorem State.compRing_keeps {r₀ : State} {s : State} (eng : Fin 5) (ch : Fin 64) (kind : Nat) (hk : Keeps r₀ s) :
    Keeps r₀ (State.compRing s eng ch kind) := by
  unfold State.compRing
  repeat' first
    | with_reducible assumption
    | with_reducible intro hkf
    | extract_lets +onlyGivenNames kx; subst kx
    | with_reducible apply State.updDch_keeps
    | with_reducible apply State.endDesc_keeps
    | with_reducible apply State.takeDesc_keeps
    | with_reducible apply State.compChan_keeps
    | with_reducible apply Keeps.ite
    | split

theorem execRingCompress_keeps {r₀ : State} (eng : Fin 5) (ch : Fin 64) {s : State} (hk : Keeps r₀ s) :
    KeepsX r₀ (execRingCompress eng ch s) := by
  unfold execRingCompress
  repeat' first
    | with_reducible assumption
    | with_reducible apply State.compRing_keeps
    | with_reducible apply KeepsX.next

theorem execRingDecompress_keeps {r₀ : State} (eng : Fin 5) (ch : Fin 64) {s : State} (hk : Keeps r₀ s) :
    KeepsX r₀ (execRingDecompress eng ch s) := by
  unfold execRingDecompress
  repeat' first
    | with_reducible assumption
    | with_reducible apply State.compRing_keeps
    | with_reducible apply KeepsX.next

theorem execCompCntClr_keeps {r₀ : State} (cd : Fin 4) {s : State} (hk : Keeps r₀ s) : KeepsX r₀ (execCompCntClr cd s) := by
  unfold execCompCntClr
  repeat' first
    | with_reducible assumption
    | with_reducible apply State.updComp_keeps
    | with_reducible apply KeepsX.next
    | with_reducible apply KeepsX.ite

end Sys2Proof.Machine
end

