-- ==== Sys2Proof/Laws/FrameSieve.lean ====
section
/-!
SUPPORT. Sys2Proof/Laws/FrameSieve.lean: what the operations and commands of Machine/Sieve.lean keep (`Keeps`): the queue, the
Cloche, programmed fuses and the canonical form of every byte memory.
-/
namespace Sys2Proof.Machine

theorem State.sieveDone_keeps {r₀ : State} {s : State} (t h : Nat) (hk : Keeps r₀ s) :
    Keeps r₀ (State.sieveDone s t h) := by
  unfold State.sieveDone
  repeat' first
    | with_reducible assumption
    | with_reducible apply State.updSieve_keeps
    | with_reducible apply State.opDone_keeps

theorem execSieveUnique_keeps {r₀ : State} (tile : Fin 48) (h : Nat) {s : State} (hk : Keeps r₀ s) :
    KeepsX r₀ (execSieveUnique tile h s) := by
  unfold execSieveUnique
  repeat' first
    | with_reducible assumption
    | extract_lets +onlyGivenNames kx; refine @Keeps.cut _ r₀ kx ?_ ?_; subst kx; rotate_left; clear_value kx; intro hkx
    | extract_lets +onlyGivenNames kx; subst kx
    | with_reducible apply State.failCmd_keeps
    | with_reducible apply State.failAccess_keeps
    | with_reducible apply State.putCodes_keeps
    | with_reducible apply State.sieveDone_keeps
    | with_reducible apply KeepsX.next
    | with_reducible apply KeepsX.ite
    | split

theorem State.embCheck_keeps {r₀ : State} {s : State} (t : Nat) (hk : Keeps r₀ s) : Keeps r₀ (State.embCheck s t) := by
  unfold State.embCheck
  repeat' first
    | with_reducible assumption
    | extract_lets +onlyGivenNames kx; subst kx
    | with_reducible apply State.raise_keeps
    | with_reducible apply State.tableCheck_keeps
    | with_reducible apply State.failCmd_keeps

theorem State.rowFetched_keeps {r₀ : State} {s : State} (t : Nat) (repl hit : Bool) (hk : Keeps r₀ s) :
    Keeps r₀ (State.rowFetched s t repl hit) := by
  unfold State.rowFetched
  repeat' first
    | with_reducible assumption
    | with_reducible apply State.updSieve_keeps

theorem State.gatherRow_keeps {r₀ s : State} (x : CompCtx) (t d : Nat) (fs : List (Nat × Nat)) (r : Nat)
    (hx : ∀ t a c, Keeps r₀ t → KeepsP r₀ (x.addr t a c)) (hk : Keeps r₀ s) :
    KeepsP r₀ (State.gatherRow x t d fs r s) := by
  unfold State.gatherRow
  repeat' first
    | with_reducible exact hx
    | with_reducible assumption
    | extract_lets +onlyGivenNames kx; subst kx
    | with_reducible apply State.reachRead_keeps
    | with_reducible apply State.countAt_keeps
    | with_reducible apply State.rowFetched_keeps
    | with_reducible apply KeepsP.ite
    | with_reducible apply KeepsP.mk; fail_if_success (with_reducible apply KeepsP.proj)
    | with_reducible apply Keeps.set; with_reducible refine KeepsP.fst (by assumption) ?_
    | split

theorem State.gatherRows_keeps {r₀ s : State} (x : CompCtx) (t d : Nat) (fs : List (Nat × Nat)) (rs : List Nat)
    (got : List (Nat × List Byte)) (hx : ∀ t a c, Keeps r₀ t → KeepsP r₀ (x.addr t a c)) (hk : Keeps r₀ s) :
    KeepsP r₀ (State.gatherRows x t d fs rs got s) := by
  induction rs generalizing s got with
  | nil => exact KeepsP.mk hk
  | cons r rs ih =>
    unfold State.gatherRows
    repeat' first
      | with_reducible apply ih
      | with_reducible exact hx
      | with_reducible assumption
      | with_reducible apply State.gatherRow_keeps
      | with_reducible apply KeepsP.mk; fail_if_success (with_reducible apply KeepsP.proj)
      | with_reducible apply Keeps.set; with_reducible refine KeepsP.fst (by assumption) ?_
      | split

theorem State.gatherWrite_keeps {r₀ : State} {s : State} (t d : Nat) (f : Fmt) (inv : List Nat) (rows : List
    (List Num)) (hk : Keeps r₀ s) :
    Keeps r₀ (State.gatherWrite s t d f inv rows) := by
  unfold State.gatherWrite
  repeat' first
    | with_reducible assumption
    | with_reducible apply State.putCodes_keeps
    | with_reducible refine Keeps.foldl ?_ ?_; intro _ _ _

theorem State.gatherWait_keeps {r₀ : State} {s : State} (t h : Nat) (p : CompProg) (hk : Keeps r₀ s) :
    Keeps r₀ (State.gatherWait s t h p) := by
  unfold State.gatherWait
  repeat' first
    | with_reducible assumption
    | with_reducible apply State.updSieve_keeps
    | with_reducible apply State.updCmd_keeps

theorem State.gatherGo_keeps {r₀ : State} {s : State} (tile : Fin 48) (h : Nat) (c : TileCmd) (o : Op) (tbl : Nat)
    (f : Fmt) (idx : List Nat) (hk : Keeps r₀ s) :
    Keeps r₀ (State.gatherGo s tile h c o tbl f idx) := by
  unfold State.gatherGo
  repeat' first
    | with_reducible assumption
    | with_reducible intro hkf
    | extract_lets +onlyGivenNames kx; subst kx
    | with_reducible apply State.failCmd_keeps
    | with_reducible apply State.tileAddr_keeps
    | with_reducible apply State.fetchRemote_keeps
    | with_reducible apply State.sieveDone_keeps
    | with_reducible apply State.embCheck_keeps
    | with_reducible apply State.gatherRows_keeps
    | with_reducible apply State.gatherWrite_keeps
    | with_reducible apply State.gatherWait_keeps
    | with_reducible apply Keeps.ite
    | with_reducible apply Keeps.set; with_reducible refine KeepsP.fst (by assumption) ?_
    | split

theorem State.gatherRun_keeps {r₀ : State} {s : State} (tile : Fin 48) (h : Nat) (c : TileCmd) (o : Op) (tbl : Nat)
    (f : Fmt) (hk : Keeps r₀ s) :
    Keeps r₀ (State.gatherRun s tile h c o tbl f) := by
  unfold State.gatherRun
  repeat' first
    | with_reducible assumption
    | extract_lets +onlyGivenNames kx; subst kx
    | with_reducible apply State.failCmd_keeps
    | with_reducible apply State.failAccess_keeps
    | with_reducible apply State.gatherGo_keeps
    | with_reducible apply Keeps.ite
    | split

theorem execSieveGather_keeps {r₀ : State} (tile : Fin 48) (h : Nat) {s : State} (hk : Keeps r₀ s) :
    KeepsX r₀ (execSieveGather tile h s) := by
  unfold execSieveGather
  repeat' first
    | with_reducible assumption
    | extract_lets +onlyGivenNames kx; subst kx
    | with_reducible apply State.failCmd_keeps
    | with_reducible apply State.embCheck_keeps
    | with_reducible apply State.gatherRun_keeps
    | with_reducible apply KeepsX.next
    | with_reducible apply KeepsX.ite
    | split

theorem State.scatterRun_keeps {r₀ s : State} {f : State → Nat → List Nat → State} (tile : Fin 48) (h sop : Nat)
    (hf : ∀ t d i, Keeps r₀ t → Keeps r₀ (f t d i)) (hk : Keeps r₀ s) : Keeps r₀ (s.scatterRun tile h sop f) := by
  unfold State.scatterRun
  repeat' first
    | with_reducible apply hf
    | with_reducible assumption
    | extract_lets +onlyGivenNames kx; subst kx
    | with_reducible apply State.failCmd_keeps
    | with_reducible apply State.failAccess_keeps
    | with_reducible apply State.sieveDone_keeps
    | with_reducible apply Keeps.ite
    | split

theorem State.scatterAtom_keeps {r₀ : State} {s : State} (v : State) (t d i j b n : Nat) (hk : Keeps r₀ s) :
    Keeps r₀ (State.scatterAtom s v t d i j b n) := by
  unfold State.scatterAtom
  repeat' first
    | with_reducible assumption
    | extract_lets +onlyGivenNames kx; subst kx
    | with_reducible apply State.placeBytes_keeps

theorem execScatterAdd_keeps {r₀ : State} (tile : Fin 48) (h : Nat) {s : State} (hk : Keeps r₀ s) :
    KeepsX r₀ (execScatterAdd tile h s) := by
  unfold execScatterAdd
  repeat' first
    | with_reducible assumption
    | with_reducible intro hkf
    | with_reducible apply State.draw_keeps
    | with_reducible apply State.scatterRun_keeps
    | with_reducible apply State.scatterAtom_keeps
    | with_reducible apply KeepsX.next
    | with_reducible refine Keeps.foldl ?_ ?_; intro _ _ _

theorem execScatterWrite_keeps {r₀ : State} (tile : Fin 48) (h : Nat) {s : State} (hk : Keeps r₀ s) :
    KeepsX r₀ (execScatterWrite tile h s) := by
  unfold execScatterWrite
  repeat' first
    | with_reducible assumption
    | with_reducible intro hkf
    | extract_lets +onlyGivenNames kx; subst kx
    | with_reducible apply State.placeBytes_keeps
    | with_reducible apply State.scatterRun_keeps
    | with_reducible apply KeepsX.next
    | with_reducible refine Keeps.foldl ?_ ?_; intro _ _ _

theorem execSieveCntClr_keeps {r₀ : State} (cd : Fin 4) {s : State} (hk : Keeps r₀ s) :
    KeepsX r₀ (execSieveCntClr cd s) := by
  unfold execSieveCntClr
  repeat' first
    | with_reducible assumption
    | with_reducible apply State.updSieve_keeps
    | with_reducible apply KeepsX.next
    | with_reducible apply KeepsX.ite

end Sys2Proof.Machine
end

