-- ==== Sys2Proof/Laws/FrameFtl.lean ====
section
/-!
SUPPORT. Sys2Proof/Laws/FrameFtl.lean: what the operations and commands of Machine/Ftl.lean keep (`Keeps`): the queue, the
Cloche, programmed fuses and the canonical form of every byte memory.
-/
namespace Sys2Proof.Machine

theorem State.updFtl_keeps {r₀ : State} {s : State} (g : Ftl → Ftl) (hk : Keeps r₀ s) : Keeps r₀ (State.updFtl s g) := by
  unfold State.updFtl
  repeat' (with_reducible apply Keeps.set; with_reducible assumption)

theorem State.wornCheck_keeps {r₀ : State} {s : State} (hk : Keeps r₀ s) : Keeps r₀ (State.wornCheck s) := by
  unfold State.wornCheck
  repeat' first
    | with_reducible assumption
    | extract_lets +onlyGivenNames kx; subst kx
    | with_reducible apply State.devEvent_keeps
    | with_reducible apply State.updFtl_keeps
    | with_reducible apply Keeps.ite

theorem State.retireBlock_keeps {r₀ : State} {s : State} (b : Nat) (hk : Keeps r₀ s) :
    Keeps r₀ (State.retireBlock s b) := by
  unfold State.retireBlock
  repeat' first
    | with_reducible assumption
    | with_reducible apply State.updFtl_keeps
    | with_reducible apply State.wornCheck_keeps
    | with_reducible apply Keeps.ite

theorem State.holdHandle_keeps {r₀ : State} {s : State} (hk : Keeps r₀ s) : KeepsOP r₀ (State.holdHandle s) := by
  unfold State.holdHandle
  repeat' first
    | with_reducible assumption
    | with_reducible intro hkf
    | with_reducible apply State.draw_keeps
    | with_reducible apply State.updFtl_keeps
    | with_reducible apply KeepsOP.ite
    | with_reducible apply KeepsP.mk; fail_if_success (with_reducible apply KeepsP.proj)
    | with_reducible apply KeepsOP.none
    | with_reducible apply KeepsOP.mapV

theorem State.ftlWrite_keeps {r₀ : State} {s : State} (h : Nat) (compress : Bool) (bs : List Byte) (hk : Keeps r₀ s) :
    KeepsO r₀ (State.ftlWrite s h compress bs) := by
  unfold State.ftlWrite
  repeat' first
    | with_reducible intro hkf
    | extract_lets +onlyGivenNames kx; subst kx
    | with_reducible apply State.t3Put_keeps
    | with_reducible apply Keeps.set; with_reducible assumption
    | with_reducible apply KeepsO.mapV

theorem State.ftlFree_keeps {r₀ : State} {s : State} (h : Nat) (hk : Keeps r₀ s) : Keeps r₀ (State.ftlFree s h) := by
  unfold State.ftlFree
  repeat' first
    | with_reducible assumption
    | with_reducible apply State.t3Zero_keeps
    | with_reducible apply State.updFtl_keeps

theorem State.countT3_keeps {r₀ : State} {s : State} (tn : Option Nat) (h : Nat) (write : Bool) (hk : Keeps r₀ s) :
    Keeps r₀ (State.countT3 s tn h write) := by
  unfold State.countT3
  repeat' first
    | with_reducible assumption
    | with_reducible apply State.countBytes_keeps
    | split

theorem State.t3Read_keeps {r₀ : State} {s : State} (h : Nat) (o : LdpcOutcome) (hk : Keeps r₀ s) :
    Keeps r₀ (State.t3Read s h o) := by
  unfold State.t3Read
  repeat' first
    | with_reducible assumption
    | extract_lets +onlyGivenNames kx; refine @Keeps.cut _ r₀ kx ?_ ?_; subst kx; rotate_left; clear_value kx; intro hkx
    | with_reducible apply State.raise_keeps
    | with_reducible apply State.updFtl_keeps
    | with_reducible apply State.retireBlock_keeps
    | with_reducible apply Keeps.ite
    | split

theorem State.placeRead_keeps {r₀ : State} {s : State} (p : Place) (o : LdpcOutcome) (hk : Keeps r₀ s) :
    Keeps r₀ (State.placeRead s p o) := by
  unfold State.placeRead
  repeat' first
    | with_reducible assumption
    | with_reducible apply State.t3Read_keeps
    | split

theorem execFtlRead_keeps {r₀ : State} (handle : BitVec 28) (dst : Nat) (o : LdpcOutcome) {s : State} (hk : Keeps r₀ s) :
    KeepsX r₀ (execFtlRead handle dst o s) := by
  unfold execFtlRead
  repeat' first
    | with_reducible assumption
    | extract_lets +onlyGivenNames kx; refine @Keeps.cut _ r₀ kx ?_ ?_; subst kx; rotate_left; clear_value kx; intro hkx
    | extract_lets +onlyGivenNames kx; subst kx
    | with_reducible apply State.placeBytes_keeps
    | with_reducible apply State.countT3_keeps
    | with_reducible apply State.t3Read_keeps
    | with_reducible apply KeepsX.next
    | with_reducible apply KeepsX.ite
    | split

theorem execFtlRelocation_keeps {r₀ : State} (block : Nat) (why : RelocWhy) {s : State} (hk : Keeps r₀ s) :
    KeepsX r₀ (execFtlRelocation block why s) := by
  unfold execFtlRelocation
  repeat' first
    | with_reducible assumption
    | extract_lets +onlyGivenNames kx; refine @Keeps.cut _ r₀ kx ?_ ?_; subst kx; rotate_left; clear_value kx; intro hkx
    | extract_lets +onlyGivenNames kx; subst kx
    | with_reducible apply State.updFtl_keeps
    | with_reducible apply State.retireBlock_keeps
    | with_reducible apply Keeps.ite
    | with_reducible apply KeepsX.next
    | with_reducible apply KeepsX.ite
    | with_reducible apply Keeps.set; with_reducible assumption
    | split

theorem execFtlCntClr_keeps {r₀ : State} {s : State} (hk : Keeps r₀ s) : KeepsX r₀ (execFtlCntClr s) := by
  unfold execFtlCntClr
  repeat' first
    | with_reducible assumption
    | with_reducible apply State.updFtl_keeps
    | with_reducible apply KeepsX.next
    | with_reducible apply KeepsX.ite

end Sys2Proof.Machine
end

