-- ==== Sys2Proof/Laws/FramePlots.lean ====
section
/-!
SUPPORT. Sys2Proof/Laws/FramePlots.lean: what the operations and commands of Machine/Plots.lean keep (`Keeps`): the queue, the
Cloche, programmed fuses and the canonical form of every byte memory.
-/
namespace Sys2Proof.Machine

theorem State.writeTenant_keeps {r₀ : State} {s : State} (tn : Nat) (hk : Keeps r₀ s) :
    Keeps r₀ (State.writeTenant s tn) := by
  unfold State.writeTenant
  repeat' first
    | with_reducible assumption
    | with_reducible apply State.wr_keeps

theorem State.tenantCheck_keeps {r₀ : State} {s : State} (tn : Nat) (hk : Keeps r₀ s) :
    Keeps r₀ (State.tenantCheck s tn) := by
  unfold State.tenantCheck
  repeat' first
    | with_reducible assumption
    | with_reducible apply State.raise_keeps
    | with_reducible apply State.tableCheck_keeps
    | with_reducible apply State.writeTenant_keeps
    | with_reducible apply Keeps.ite

theorem State.charge_keeps {r₀ : State} {s : State} (tn k : Nat) (hk : Keeps r₀ s) : Keeps r₀ (State.charge s tn k) := by
  unfold State.charge
  repeat' first
    | with_reducible assumption
    | with_reducible apply State.updTenant_keeps
    | with_reducible apply State.writeTenant_keeps

theorem State.credit_keeps {r₀ : State} {s : State} (tn k : Nat) (hk : Keeps r₀ s) : Keeps r₀ (State.credit s tn k) := by
  unfold State.credit
  repeat' first
    | with_reducible assumption
    | with_reducible apply State.updTenant_keeps
    | with_reducible apply State.writeTenant_keeps

theorem State.takePlot_keeps {r₀ : State} {s : State} (tier ch : Nat) (hk : Keeps r₀ s) :
    KeepsOP r₀ (State.takePlot s tier ch) := by
  unfold State.takePlot
  repeat' first
    | with_reducible assumption
    | with_reducible intro hkf
    | extract_lets +onlyGivenNames kx; refine @Keeps.cut _ r₀ kx ?_ ?_; subst kx; rotate_left; clear_value kx; intro hkx
    | extract_lets +onlyGivenNames kx; subst kx
    | with_reducible apply State.draw_keeps
    | with_reducible apply State.holdHandle_keeps
    | with_reducible apply KeepsP.mk; fail_if_success (with_reducible apply KeepsP.proj)
    | with_reducible apply Keeps.set; with_reducible assumption
    | with_reducible apply KeepsOP.mapP
    | with_reducible apply KeepsOP.mapV
    | split
    | with_reducible apply KeepsP.mk; with_reducible apply KeepsP.proj; first | with_reducible assumption | with_reducible apply State.draw_keeps | with_reducible apply State.holdHandle_keeps

theorem State.givePlot_keeps {r₀ : State} {s : State} (p : Place) (hk : Keeps r₀ s) : Keeps r₀ (State.givePlot s p) := by
  unfold State.givePlot
  repeat' first
    | with_reducible assumption
    | extract_lets +onlyGivenNames kx; subst kx
    | with_reducible apply State.ftlFree_keeps
    | with_reducible apply Keeps.set; with_reducible assumption
    | split

theorem State.allocIn_keeps {r₀ : State} {s : State} (tn tier ch : Nat) (hk : Keeps r₀ s) :
    KeepsOP r₀ (State.allocIn s tn tier ch) := by
  unfold State.allocIn
  repeat' first
    | with_reducible assumption
    | with_reducible intro hkf
    | with_reducible apply State.charge_keeps
    | with_reducible apply State.takePlot_keeps
    | with_reducible apply KeepsOP.ite
    | with_reducible apply KeepsP.mk; fail_if_success (with_reducible apply KeepsP.proj)
    | with_reducible apply KeepsOP.none
    | with_reducible apply KeepsP.of_mk; with_reducible assumption
    | with_reducible apply KeepsOP.mapP

theorem State.allocTiers_keeps {r₀ s : State} (tn ch : Nat) (ks : List Nat) (hk : Keeps r₀ s) :
    KeepsOP r₀ (s.allocTiers tn ch ks) := by
  induction ks with
  | nil => exact KeepsOP.none
  | cons k ks ih =>
    unfold State.allocTiers
    repeat' first
      | with_reducible exact ih
      | with_reducible assumption
      | with_reducible apply State.allocIn_keeps
      | with_reducible apply KeepsOP.some
      | with_reducible apply Keeps.set; with_reducible refine KeepsOP.get (by assumption) ?_
      | split

theorem State.freePlace_keeps {r₀ : State} {s : State} (tn : Nat) (p : Place) (hk : Keeps r₀ s) :
    Keeps r₀ (State.freePlace s tn p) := by
  unfold State.freePlace
  repeat' first
    | with_reducible assumption
    | with_reducible apply State.credit_keeps
    | with_reducible apply State.givePlot_keeps
    | with_reducible apply Keeps.ite

theorem State.setPage_keeps {r₀ : State} {s : State} (asid vpn leaf : Nat) (hk : Keeps r₀ s) :
    Keeps r₀ (State.setPage s asid vpn leaf) := by
  unfold State.setPage
  repeat' first
    | with_reducible assumption
    | with_reducible apply State.setLeaf_keeps
    | with_reducible apply State.dropTlb_keeps
    | with_reducible apply Keeps.ite

theorem State.writeSeq_keeps {r₀ : State} {s : State} (i : Nat) (hk : Keeps r₀ s) : Keeps r₀ (State.writeSeq s i) := by
  unfold State.writeSeq
  repeat' first
    | with_reducible assumption
    | extract_lets +onlyGivenNames kx; subst kx
    | with_reducible apply State.wrBytes_keeps
    | with_reducible apply State.wr_keeps

theorem State.allocPage_keeps {r₀ : State} {s : State} (i page : Nat) (tiers : List Nat) (hk : Keeps r₀ s) :
    KeepsO r₀ (State.allocPage s i page tiers) := by
  unfold State.allocPage
  repeat' first
    | with_reducible assumption
    | with_reducible intro hkf
    | extract_lets +onlyGivenNames kx; subst kx
    | with_reducible apply State.updReq_keeps
    | with_reducible apply State.allocTiers_keeps
    | with_reducible apply State.setPage_keeps
    | with_reducible apply KeepsO.ite
    | with_reducible apply KeepsO.some
    | with_reducible apply KeepsP.of_mk; with_reducible assumption
    | with_reducible apply KeepsO.mapP

theorem State.freePage_keeps {r₀ : State} {s : State} (i page leaf : Nat) (hk : Keeps r₀ s) :
    Keeps r₀ (State.freePage s i page leaf) := by
  unfold State.freePage
  repeat' first
    | with_reducible assumption
    | extract_lets +onlyGivenNames kx; refine @Keeps.cut _ r₀ kx ?_ ?_; subst kx; rotate_left; clear_value kx; intro hkx
    | extract_lets +onlyGivenNames kx; subst kx
    | with_reducible apply State.updReq_keeps
    | with_reducible apply State.freePlace_keeps
    | with_reducible apply State.setPage_keeps
    | split

theorem State.freePages_keeps {r₀ : State} {s : State} (i leaf : Nat) (hk : Keeps r₀ s) :
    Keeps r₀ (State.freePages s i leaf) := by
  unfold State.freePages
  repeat' first
    | with_reducible assumption
    | with_reducible apply State.freePage_keeps
    | with_reducible refine Keeps.foldl ?_ ?_; intro _ _ _

theorem State.prune_keeps {r₀ : State} {s : State} (i c : Nat) (hk : Keeps r₀ s) : Keeps r₀ (State.prune s i c) := by
  unfold State.prune
  repeat' first
    | with_reducible assumption
    | extract_lets +onlyGivenNames kx; refine @Keeps.cut _ r₀ kx ?_ ?_; subst kx; rotate_left; clear_value kx; intro hkx
    | extract_lets +onlyGivenNames kx; subst kx
    | with_reducible apply State.updReq_keeps
    | with_reducible apply State.writeSeq_keeps
    | with_reducible apply State.freePage_keeps
    | with_reducible refine Keeps.foldl ?_ ?_; intro _ _ _

theorem State.makeSpace_keeps {r₀ s : State} (by_ : Option Nat) (tn tier need fuel : Nat) (hk : Keeps r₀ s) :
    KeepsP r₀ (s.makeSpace by_ tn tier need fuel) := by
  induction fuel generalizing s with
  | zero => exact KeepsP.mk hk
  | succ fuel ih =>
    unfold State.makeSpace
    repeat' first
      | with_reducible apply ih
      | with_reducible assumption
      | extract_lets +onlyGivenNames kx; subst kx
      | with_reducible apply State.prune_keeps
      | with_reducible apply KeepsP.ite
      | with_reducible apply KeepsP.mk; fail_if_success (with_reducible apply KeepsP.proj)
      | split

theorem State.allocOrPrune_keeps {r₀ : State} {s : State} (i page : Nat) (tiers : List Nat) (mayPrune : Bool)
    (hk : Keeps r₀ s) :
    KeepsP r₀ (State.allocOrPrune s i page tiers mayPrune) := by
  unfold State.allocOrPrune
  repeat' first
    | with_reducible assumption
    | extract_lets +onlyGivenNames kx; subst kx
    | with_reducible apply State.allocPage_keeps
    | with_reducible apply State.makeSpace_keeps
    | with_reducible apply KeepsP.ite
    | with_reducible apply KeepsP.mk; fail_if_success (with_reducible apply KeepsP.proj)
    | with_reducible apply Keeps.set; with_reducible refine KeepsP.fst (by assumption) ?_
    | with_reducible apply Keeps.set; with_reducible refine KeepsO.get (by assumption) ?_
    | split

theorem State.allocPages_keeps {r₀ s : State} (i : Nat) (tiers : List Nat) (mayPrune : Bool) (ps : List Nat) (hk :
    Keeps r₀ s) :
    KeepsP r₀ (s.allocPages i tiers mayPrune ps) := by
  induction ps generalizing s with
  | nil => exact KeepsP.mk hk
  | cons p ps ih =>
    unfold State.allocPages
    repeat' first
      | with_reducible apply ih
      | with_reducible assumption
      | with_reducible apply State.allocOrPrune_keeps
      | with_reducible apply KeepsP.mk; fail_if_success (with_reducible apply KeepsP.proj)
      | with_reducible apply Keeps.set; with_reducible refine KeepsP.fst (by assumption) ?_
      | split

theorem State.dropCopies_keeps {r₀ : State} {s : State} (i : Nat) (hk : Keeps r₀ s) : Keeps r₀ (State.dropCopies s i) := by
  unfold State.dropCopies
  repeat' first
    | with_reducible assumption
    | extract_lets +onlyGivenNames kx; subst kx
    | with_reducible apply State.updReq_keeps
    | with_reducible apply State.givePlot_keeps
    | with_reducible refine Keeps.foldl ?_ ?_; intro _ _ _

theorem State.dropMoves_keeps {r₀ : State} {s : State} (i : Nat) (hk : Keeps r₀ s) : Keeps r₀ (State.dropMoves s i) := by
  unfold State.dropMoves
  repeat' first
    | with_reducible assumption
    | extract_lets +onlyGivenNames kx; refine @Keeps.cut _ r₀ kx ?_ ?_; subst kx; rotate_left; clear_value kx; intro hkx
    | extract_lets +onlyGivenNames kx; subst kx
    | with_reducible apply State.givePlot_keeps
    | with_reducible apply State.freePlace_keeps
    | with_reducible apply Keeps.set; with_reducible assumption
    | with_reducible refine Keeps.foldl ?_ ?_; intro _ _ _
    | split

theorem State.dropPlots_keeps {r₀ : State} {s : State} (i : Nat) (hk : Keeps r₀ s) : Keeps r₀ (State.dropPlots s i) := by
  unfold State.dropPlots
  repeat' first
    | with_reducible assumption
    | with_reducible apply State.updReq_keeps
    | with_reducible apply State.writeSeq_keeps
    | with_reducible apply State.freePages_keeps
    | with_reducible apply State.dropCopies_keeps
    | with_reducible apply State.dropMoves_keeps

end Sys2Proof.Machine
end

