-- ==== Sys2Proof/Laws/FrameRings.lean ====
section
/-!
SUPPORT. Sys2Proof/Laws/FrameRings.lean: what the operations and commands of Machine/Rings.lean keep (`Keeps`): the queue, the
Cloche, programmed fuses and the canonical form of every byte memory.
-/
namespace Sys2Proof.Machine

theorem State.writeRing_keeps {r₀ : State} {s : State} (r : Nat) (hk : Keeps r₀ s) : Keeps r₀ (State.writeRing s r) := by
  unfold State.writeRing
  repeat' first
    | with_reducible assumption
    | with_reducible apply State.wr_keeps

theorem State.syncRing_keeps {r₀ : State} {s : State} (r : Nat) (hk : Keeps r₀ s) : Keeps r₀ (State.syncRing s r) := by
  unfold State.syncRing
  repeat' first
    | with_reducible assumption
    | extract_lets +onlyGivenNames kx; subst kx
    | with_reducible apply State.wr_keeps
    | with_reducible apply Keeps.ite

theorem State.endPosted_keeps {r₀ : State} {s : State} (r raw : Nat) (hk : Keeps r₀ s) :
    Keeps r₀ (State.endPosted s r raw) := by
  unfold State.endPosted
  repeat' first
    | with_reducible assumption
    | extract_lets +onlyGivenNames kx; refine @Keeps.cut _ r₀ kx ?_ ?_; subst kx; rotate_left; clear_value kx; intro hkx
    | extract_lets +onlyGivenNames kx; subst kx
    | with_reducible apply Keeps.ite
    | with_reducible apply Keeps.set; with_reducible assumption

theorem State.putCpl_keeps {r₀ : State} {s : State} (r raw : Nat) (hk : Keeps r₀ s) : Keeps r₀ (State.putCpl s r raw) := by
  unfold State.putCpl
  repeat' first
    | with_reducible assumption
    | extract_lets +onlyGivenNames kx; refine @Keeps.cut _ r₀ kx ?_ ?_; subst kx; rotate_left; clear_value kx; intro hkx
    | extract_lets +onlyGivenNames kx; subst kx
    | with_reducible apply State.postEntry_keeps
    | with_reducible apply State.endPosted_keeps
    | with_reducible apply Keeps.set; with_reducible assumption

theorem State.postCompletion_keeps {r₀ : State} {s : State} (r raw : Nat) (hk : Keeps r₀ s) :
    Keeps r₀ (State.postCompletion s r raw) := by
  unfold State.postCompletion
  repeat' first
    | with_reducible assumption
    | extract_lets +onlyGivenNames kx; subst kx
    | with_reducible apply State.updRing_keeps
    | with_reducible apply State.endPosted_keeps
    | with_reducible apply State.putCpl_keeps
    | with_reducible apply Keeps.ite

theorem State.flushDue_keeps {r₀ : State} {s : State} (r : Nat) (hk : Keeps r₀ s) : Keeps r₀ (State.flushDue s r) := by
  unfold State.flushDue
  repeat' first
    | with_reducible assumption
    | with_reducible apply State.updRing_keeps
    | with_reducible apply State.putCpl_keeps
    | with_reducible apply Keeps.ite
    | with_reducible refine Keeps.foldl ?_ ?_; intro _ _ _

theorem State.completeOp_keeps {r₀ : State} {s : State} (p : PendOp) (reqId op status detail : Nat) (hk : Keeps r₀ s) :
    Keeps r₀ (State.completeOp s p reqId op status detail) := by
  unfold State.completeOp
  repeat' first
    | with_reducible assumption
    | extract_lets +onlyGivenNames kx; refine @Keeps.cut _ r₀ kx ?_ ?_; subst kx; rotate_left; clear_value kx; intro hkx
    | extract_lets +onlyGivenNames kx; subst kx
    | with_reducible apply State.updRing_keeps
    | with_reducible apply State.postCompletion_keeps
    | with_reducible apply Keeps.ite

theorem State.completeIf_keeps {r₀ : State} {s : State} (p : Option PendOp) (reqId op status detail : Nat)
    (hk : Keeps r₀ s) :
    Keeps r₀ (State.completeIf s p reqId op status detail) := by
  unfold State.completeIf
  repeat' first
    | with_reducible assumption
    | with_reducible apply State.completeOp_keeps
    | split

theorem State.putToken_keeps {r₀ : State} {s : State} (r raw : Nat) (hk : Keeps r₀ s) :
    Keeps r₀ (State.putToken s r raw) := by
  unfold State.putToken
  repeat' first
    | with_reducible assumption
    | extract_lets +onlyGivenNames kx; refine @Keeps.cut _ r₀ kx ?_ ?_; subst kx; rotate_left; clear_value kx; intro hkx
    | extract_lets +onlyGivenNames kx; subst kx
    | with_reducible apply State.postEntry_keeps
    | with_reducible apply Keeps.ite
    | with_reducible apply Keeps.set; with_reducible assumption

theorem State.bindRing_keeps {r₀ : State} {s : State} (r req : Nat) (hk : Keeps r₀ s) :
    Keeps r₀ (State.bindRing s r req) := by
  unfold State.bindRing
  repeat' first
    | with_reducible assumption
    | with_reducible apply State.updRing_keeps

theorem State.unbindRing_keeps {r₀ : State} {s : State} (r : Nat) (hk : Keeps r₀ s) : Keeps r₀ (State.unbindRing s r) := by
  unfold State.unbindRing
  repeat' first
    | with_reducible assumption
    | with_reducible apply State.updRing_keeps

theorem State.reportLost_keeps {r₀ : State} {s : State} (r : Nat) (hk : Keeps r₀ s) : Keeps r₀ (State.reportLost s r) := by
  unfold State.reportLost
  repeat' first
    | with_reducible assumption
    | extract_lets +onlyGivenNames kx; subst kx
    | with_reducible apply State.updRing_keeps
    | with_reducible apply State.postEntry_keeps
    | with_reducible apply Keeps.ite

theorem State.ringMoved_keeps {r₀ : State} {s : State} (r : Nat) (hk : Keeps r₀ s) : Keeps r₀ (State.ringMoved s r) := by
  unfold State.ringMoved
  repeat' first
    | with_reducible assumption
    | with_reducible apply State.updRing_keeps
    | with_reducible apply State.flushDue_keeps
    | with_reducible apply State.reportLost_keeps

theorem execDoorbell_keeps {r₀ : State} (ld : Fin 16) (v : BitVec 64) {s : State} (hk : Keeps r₀ s) :
    KeepsX r₀ (execDoorbell ld v s) := by
  unfold execDoorbell
  repeat' first
    | with_reducible assumption
    | extract_lets +onlyGivenNames kx; subst kx
    | with_reducible apply State.updRing_keeps
    | with_reducible apply State.haltRing_keeps
    | with_reducible apply State.ringMoved_keeps
    | with_reducible apply KeepsX.next
    | with_reducible apply KeepsX.ite
    | with_reducible apply Keeps.set; with_reducible assumption

theorem State.ringCmd_keeps {r₀ : State} {s : State} (ok : Bool) (hk : Keeps r₀ s) : Keeps r₀ (State.ringCmd s ok) := by
  unfold State.ringCmd
  repeat' first
    | extract_lets +onlyGivenNames kx; subst kx
    | with_reducible apply Keeps.set; with_reducible assumption

theorem execRingLoad_keeps {r₀ : State} (ring : BitVec 18) {s : State} (hk : Keeps r₀ s) :
    KeepsX r₀ (execRingLoad ring s) := by
  unfold execRingLoad
  repeat' first
    | with_reducible assumption
    | extract_lets +onlyGivenNames kx; subst kx
    | with_reducible apply State.updRing_keeps
    | with_reducible apply State.haltRing_keeps
    | with_reducible apply State.ringCmd_keeps
    | with_reducible apply KeepsX.next
    | with_reducible apply KeepsX.ite
    | split

theorem State.resumeRing_keeps {r₀ : State} {s : State} (r : Nat) (hk : Keeps r₀ s) : Keeps r₀ (State.resumeRing s r) := by
  unfold State.resumeRing
  repeat' first
    | with_reducible assumption
    | with_reducible apply State.updRing_keeps
    | with_reducible apply State.ringMoved_keeps

theorem execRingCmdResume_keeps {r₀ : State} (ring : BitVec 18) {s : State} (hk : Keeps r₀ s) :
    KeepsX r₀ (execRingCmdResume ring s) := by
  unfold execRingCmdResume
  repeat' first
    | with_reducible assumption
    | with_reducible apply State.ringCmd_keeps
    | with_reducible apply State.resumeRing_keeps
    | with_reducible apply KeepsX.next
    | with_reducible apply KeepsX.ite

theorem execRingDisable_keeps {r₀ : State} (ring : BitVec 18) {s : State} (hk : Keeps r₀ s) :
    KeepsX r₀ (execRingDisable ring s) := by
  unfold execRingDisable
  repeat' first
    | with_reducible assumption
    | with_reducible apply State.updRing_keeps
    | with_reducible apply State.ringCmd_keeps
    | with_reducible apply KeepsX.next
    | with_reducible apply KeepsX.ite

theorem execRingCntClr_keeps {r₀ : State} {s : State} (hk : Keeps r₀ s) : KeepsX r₀ (execRingCntClr s) := by
  unfold execRingCntClr
  repeat' first
    | with_reducible assumption
    | extract_lets +onlyGivenNames kx; subst kx
    | with_reducible apply KeepsX.next
    | with_reducible apply KeepsX.ite
    | with_reducible apply Keeps.set; with_reducible assumption

theorem execRingCoalesceTimer_keeps {r₀ : State} (ring : BitVec 18) {s : State} (hk : Keeps r₀ s) :
    KeepsX r₀ (execRingCoalesceTimer ring s) := by
  unfold execRingCoalesceTimer
  repeat' first
    | with_reducible assumption
    | extract_lets +onlyGivenNames kx; subst kx
    | with_reducible apply State.updRing_keeps
    | with_reducible apply State.msix_keeps
    | with_reducible apply KeepsX.next
    | with_reducible apply KeepsX.ite

end Sys2Proof.Machine
end

