-- ==== Sys2Proof/Laws/FrameGraftSend.lean ====
section
/-!
SUPPORT. Sys2Proof/Laws/FrameGraftSend.lean: what the operations and commands of Machine/GraftSend.lean keep (`Keeps`): the queue, the
Cloche, programmed fuses and the canonical form of every byte memory.
-/
namespace Sys2Proof.Machine

theorem State.writeReq_keeps {r₀ : State} {s : State} (i : Nat) (hk : Keeps r₀ s) : Keeps r₀ (State.writeReq s i) := by
  unfold State.writeReq
  repeat' first
    | with_reducible assumption
    | with_reducible apply State.wr_keeps
    | with_reducible apply State.writeSeq_keeps

theorem State.takeJournal_keeps {r₀ s : State} (n : Nat) (hk : Keeps r₀ s) : KeepsOP r₀ (s.takeJournal n) := by
  induction n generalizing s with
  | zero => exact KeepsOP.some hk
  | succ n ih =>
    unfold State.takeJournal
    split
    · exact KeepsOP.none
    · rename_i k hkx
      have h2 : Keeps r₀ { s.draw with pools := { s.pools with journal := k :: s.pools.journal } } :=
        Keeps.set (t := s.draw) (State.draw_keeps hk)
      have h3 := ih h2
      split
      · exact KeepsOP.none
      · exact KeepsOP.some (h3 _ ‹_›)

theorem State.giveJournal_keeps {r₀ : State} {s : State} (ks : List Nat) (hk : Keeps r₀ s) :
    Keeps r₀ (State.giveJournal s ks) := by
  unfold State.giveJournal
  repeat' first
    | extract_lets +onlyGivenNames kx; subst kx
    | with_reducible apply Keeps.set; with_reducible assumption

theorem State.journalAdd_keeps {r₀ : State} {s : State} (i : Nat) (ts : List Nat) (hk : Keeps r₀ s) :
    Keeps r₀ (State.journalAdd s i ts) := by
  unfold State.journalAdd
  repeat' first
    | with_reducible assumption
    | extract_lets +onlyGivenNames kx; subst kx
    | with_reducible apply State.updReq_keeps
    | with_reducible apply State.wr_keeps
    | with_reducible refine Keeps.foldl ?_ ?_; intro _ _ _

theorem State.sendCtl_keeps {r₀ : State} {s : State} (peer mapEpoch kind : Nat) (g : GRec) (hk : Keeps r₀ s) :
    Keeps r₀ (State.sendCtl s peer mapEpoch kind g) := by
  unfold State.sendCtl
  repeat' first
    | extract_lets +onlyGivenNames kx; subst kx
    | with_reducible apply Keeps.set; with_reducible assumption

theorem State.postWork_keeps {r₀ : State} {s : State} (c raw : Nat) (hk : Keeps r₀ s) :
    KeepsO r₀ (State.postWork s c raw) := by
  unfold State.postWork
  repeat' first
    | with_reducible assumption
    | extract_lets +onlyGivenNames kx; subst kx
    | with_reducible apply State.updSq_keeps
    | with_reducible apply State.wr_keeps
    | with_reducible apply State.sqSweep_keeps
    | with_reducible apply KeepsO.none
    | with_reducible apply KeepsO.some
    | split

theorem State.pumpCtl_keeps {r₀ : State} {s : State} (hk : Keeps r₀ s) : Keeps r₀ (State.pumpCtl s) := by
  unfold State.pumpCtl
  repeat' first
    | with_reducible assumption
    | extract_lets +onlyGivenNames kx; subst kx
    | with_reducible apply State.wrBytes_keeps
    | with_reducible apply State.postWork_keeps
    | with_reducible apply Keeps.ite
    | with_reducible apply Keeps.set; with_reducible refine KeepsO.get (by assumption) ?_
    | with_reducible refine Keeps.foldl ?_ ?_; intro _ _ _
    | split

theorem State.newGtag_keeps {r₀ : State} {s : State} (hk : Keeps r₀ s) : KeepsP r₀ (State.newGtag s) := by
  unfold State.newGtag
  repeat' first
    | extract_lets +onlyGivenNames kx; subst kx
    | with_reducible apply KeepsP.mk; fail_if_success (with_reducible apply KeepsP.proj)
    | with_reducible apply Keeps.set; with_reducible assumption

theorem State.updGraft_keeps {r₀ : State} {s : State} (k : Nat) (f : Graft → Graft) (hk : Keeps r₀ s) :
    Keeps r₀ (State.updGraft s k f) := by
  unfold State.updGraft
  repeat' first
    | extract_lets +onlyGivenNames kx; subst kx
    | with_reducible apply Keeps.set; with_reducible assumption

theorem State.openGraft_keeps {r₀ : State} {s : State} (i : Nat) (mode : GMode) (peer holder : Nat) (hk : Keeps r₀ s) :
    Keeps r₀ (State.openGraft s i mode peer holder) := by
  unfold State.openGraft
  repeat' first
    | with_reducible assumption
    | extract_lets +onlyGivenNames kx; refine @Keeps.cut _ r₀ kx ?_ ?_; subst kx; rotate_left; clear_value kx; intro hkx
    | extract_lets +onlyGivenNames kx; subst kx
    | with_reducible apply State.sendCtl_keeps
    | with_reducible apply State.pumpCtl_keeps
    | with_reducible apply Keeps.set; with_reducible assumption

theorem State.mapRetire_keeps {r₀ : State} {s : State} (hk : Keeps r₀ s) : Keeps r₀ (State.mapRetire s) := by
  unfold State.mapRetire
  repeat' first
    | with_reducible assumption
    | extract_lets +onlyGivenNames kx; subst kx
    | with_reducible apply State.devEvent_keeps
    | with_reducible apply Keeps.ite
    | with_reducible apply Keeps.set; with_reducible assumption
    | split

theorem State.takeSlots_keeps {r₀ : State} {s : State} (n : Nat) (hk : Keeps r₀ s) : KeepsP r₀ (State.takeSlots s n) := by
  unfold State.takeSlots
  repeat' first
    | extract_lets +onlyGivenNames kx; subst kx
    | with_reducible apply KeepsP.mk; fail_if_success (with_reducible apply KeepsP.proj)
    | with_reducible apply Keeps.set; with_reducible assumption

theorem State.giveSlots_keeps {r₀ : State} {s : State} (k : Nat) (hk : Keeps r₀ s) : Keeps r₀ (State.giveSlots s k) := by
  unfold State.giveSlots
  repeat' first
    | with_reducible assumption
    | extract_lets +onlyGivenNames kx; refine @Keeps.cut _ r₀ kx ?_ ?_; subst kx; rotate_left; clear_value kx; intro hkx
    | extract_lets +onlyGivenNames kx; subst kx
    | with_reducible apply State.updGraft_keeps
    | with_reducible apply Keeps.set; with_reducible assumption

theorem State.closeGraft_keeps {r₀ : State} {s : State} (k : Nat) (committed : Bool) (hk : Keeps r₀ s) :
    Keeps r₀ (State.closeGraft s k committed) := by
  unfold State.closeGraft
  repeat' first
    | with_reducible assumption
    | extract_lets +onlyGivenNames kx; refine @Keeps.cut _ r₀ kx ?_ ?_; subst kx; rotate_left; clear_value kx; intro hkx
    | extract_lets +onlyGivenNames kx; subst kx
    | with_reducible apply State.updGraft_keeps
    | with_reducible apply State.mapRetire_keeps
    | with_reducible apply State.giveSlots_keeps
    | with_reducible apply Keeps.ite
    | with_reducible apply Keeps.set; with_reducible assumption

theorem State.abortGraft_keeps {r₀ : State} {s : State} (k : Nat) (hk : Keeps r₀ s) : Keeps r₀ (State.abortGraft s k) := by
  unfold State.abortGraft
  repeat' first
    | with_reducible assumption
    | extract_lets +onlyGivenNames kx; subst kx
    | with_reducible apply State.sendCtl_keeps
    | with_reducible apply State.pumpCtl_keeps
    | with_reducible apply State.closeGraft_keeps
    | with_reducible apply Keeps.ite

theorem State.buffer_keeps {r₀ : State} {s : State} (bs : List Byte) (hk : Keeps r₀ s) : KeepsP r₀ (State.buffer s bs) := by
  unfold State.buffer
  repeat' first
    | with_reducible assumption
    | extract_lets +onlyGivenNames kx; refine @Keeps.cut _ r₀ kx ?_ ?_; subst kx; rotate_left; clear_value kx; intro hkx
    | extract_lets +onlyGivenNames kx; subst kx
    | with_reducible apply State.wrBytes_keeps
    | with_reducible apply KeepsP.mk; fail_if_success (with_reducible apply KeepsP.proj)
    | with_reducible apply Keeps.set; with_reducible assumption

theorem State.packPlot_keeps {r₀ : State} {s : State} (d : Nat) (bs : List Byte) (hk : Keeps r₀ s) :
    KeepsP r₀ (State.packPlot s d bs) := by
  unfold State.packPlot
  repeat' first
    | with_reducible assumption
    | with_reducible apply State.firstPass_keeps
    | with_reducible apply State.countComp_keeps
    | with_reducible apply KeepsP.mk; fail_if_success (with_reducible apply KeepsP.proj)
    | split

theorem State.frameOf_keeps {r₀ : State} {s : State} (compress : Bool) (p : Place) (len : Nat) (hk : Keeps r₀ s) :
    KeepsP r₀ (State.frameOf s compress p len) := by
  unfold State.frameOf
  repeat' first
    | with_reducible assumption
    | extract_lets +onlyGivenNames kx; subst kx
    | with_reducible apply KeepsP.ite
    | with_reducible apply KeepsP.mk; fail_if_success (with_reducible apply KeepsP.proj)
    | with_reducible apply KeepsP.mk; with_reducible apply KeepsP.proj; first | with_reducible assumption | with_reducible apply State.packPlot_keeps

theorem State.postOne_keeps {r₀ : State} {s : State} (k : Nat) (hk : Keeps r₀ s) : KeepsO r₀ (State.postOne s k) := by
  unfold State.postOne
  repeat' first
    | with_reducible assumption
    | with_reducible intro hkf
    | extract_lets +onlyGivenNames kx; refine @KeepsP.cut _ _ r₀ kx ?_ ?_; subst kx; rotate_left; clear_value kx; intro hkx
    | extract_lets +onlyGivenNames kx; subst kx
    | with_reducible apply State.placeRead_keeps
    | with_reducible apply State.postWork_keeps
    | with_reducible apply State.updGraft_keeps
    | with_reducible apply State.buffer_keeps
    | with_reducible apply State.frameOf_keeps
    | with_reducible apply KeepsO.ite
    | with_reducible apply KeepsP.mk; fail_if_success (with_reducible apply KeepsP.proj)
    | with_reducible apply KeepsO.none
    | with_reducible apply KeepsP.of_mk; with_reducible assumption
    | with_reducible apply KeepsO.mapS
    | split

theorem State.postAll_keeps {r₀ s : State} (k n : Nat) (hk : Keeps r₀ s) : Keeps r₀ (s.postAll k n) := by
  induction n generalizing s with
  | zero => exact hk
  | succ n ih =>
    unfold State.postAll
    repeat' first
      | with_reducible apply ih
      | with_reducible assumption
      | with_reducible apply State.postOne_keeps
      | with_reducible apply Keeps.set; with_reducible refine KeepsO.get (by assumption) ?_
      | split

theorem State.fillPark_keeps {r₀ : State} {s : State} (k : Nat) (hk : Keeps r₀ s) : Keeps r₀ (State.fillPark s k) := by
  unfold State.fillPark
  repeat' first
    | with_reducible assumption
    | extract_lets +onlyGivenNames kx; subst kx
    | with_reducible apply State.updGraft_keeps
    | with_reducible apply Keeps.ite

theorem State.graftAdvance_keeps {r₀ : State} {s : State} (k : Nat) (hk : Keeps r₀ s) :
    Keeps r₀ (State.graftAdvance s k) := by
  unfold State.graftAdvance
  repeat' first
    | with_reducible assumption
    | extract_lets +onlyGivenNames kx; subst kx
    | with_reducible apply State.sendCtl_keeps
    | with_reducible apply State.updGraft_keeps
    | with_reducible apply Keeps.ite

theorem State.graftPump_keeps {r₀ : State} {s : State} (hk : Keeps r₀ s) : Keeps r₀ (State.graftPump s) := by
  unfold State.graftPump
  repeat' first
    | with_reducible assumption
    | extract_lets +onlyGivenNames kx; refine @Keeps.cut _ r₀ kx ?_ ?_; subst kx; rotate_left; clear_value kx; intro hkx
    | with_reducible apply State.pumpCtl_keeps
    | with_reducible apply State.postAll_keeps
    | with_reducible apply State.fillPark_keeps
    | with_reducible apply State.graftAdvance_keeps
    | with_reducible refine Keeps.foldl ?_ ?_; intro _ _ _

end Sys2Proof.Machine
end

