-- ==== Sys2Proof/Laws/FrameReqOps.lean ====
section
/-!
SUPPORT. Sys2Proof/Laws/FrameReqOps.lean: what the operations and commands of Machine/ReqOps.lean keep (`Keeps`): the queue, the
Cloche, programmed fuses and the canonical form of every byte memory.
-/
namespace Sys2Proof.Machine

theorem State.commitDone_keeps {r₀ : State} {s : State} (hk : Keeps r₀ s) : Keeps r₀ (State.commitDone s) := by
  unfold State.commitDone
  repeat' first
    | with_reducible assumption
    | extract_lets +onlyGivenNames kx; subst kx
    | with_reducible apply State.devEvent_keeps
    | with_reducible apply Keeps.ite
    | with_reducible apply Keeps.set; with_reducible assumption
    | split

theorem State.rebind_keeps {r₀ : State} {s : State} (i : Nat) (hk : Keeps r₀ s) : Keeps r₀ (State.rebind s i) := by
  unfold State.rebind
  repeat' first
    | with_reducible assumption
    | with_reducible apply State.updReq_keeps
    | with_reducible apply State.commitDone_keeps
    | with_reducible apply Keeps.ite

theorem State.releaseReq_keeps {r₀ : State} {s : State} (i : Nat) (hk : Keeps r₀ s) : Keeps r₀ (State.releaseReq s i) := by
  unfold State.releaseReq
  repeat' first
    | with_reducible assumption
    | extract_lets +onlyGivenNames kx; subst kx
    | with_reducible apply State.freePages_keeps
    | with_reducible apply State.dropCopies_keeps
    | with_reducible apply State.dropMoves_keeps
    | with_reducible apply State.unbindRing_keeps
    | with_reducible apply State.giveJournal_keeps

theorem State.killWorks_keeps {r₀ : State} {s : State} (i : Nat) (hk : Keeps r₀ s) : Keeps r₀ (State.killWorks s i) := by
  unfold State.killWorks
  repeat' first
    | with_reducible assumption
    | extract_lets +onlyGivenNames kx; refine @Keeps.cut _ r₀ kx ?_ ?_; subst kx; rotate_left; clear_value kx; intro hkx
    | extract_lets +onlyGivenNames kx; subst kx
    | with_reducible apply State.updGroup_keeps
    | with_reducible apply State.stopGroup_keeps
    | with_reducible apply State.closeGroup_keeps
    | with_reducible apply Keeps.ite
    | with_reducible refine Keeps.foldl ?_ ?_; intro _ _ _

theorem State.dropGrafts_keeps {r₀ : State} {s : State} (i : Nat) (hk : Keeps r₀ s) : Keeps r₀ (State.dropGrafts s i) := by
  unfold State.dropGrafts
  repeat' first
    | with_reducible assumption
    | extract_lets +onlyGivenNames kx; refine @Keeps.cut _ r₀ kx ?_ ?_; subst kx; rotate_left; clear_value kx; intro hkx
    | extract_lets +onlyGivenNames kx; subst kx
    | with_reducible apply State.sendCtl_keeps
    | with_reducible apply State.pumpCtl_keeps
    | with_reducible apply State.abortGraft_keeps
    | with_reducible apply Keeps.ite
    | with_reducible refine Keeps.foldl ?_ ?_; intro _ _ _

theorem State.endRequest_keeps {r₀ : State} {s : State} (i status : Nat) (hk : Keeps r₀ s) :
    Keeps r₀ (State.endRequest s i status) := by
  unfold State.endRequest
  repeat' first
    | with_reducible assumption
    | extract_lets +onlyGivenNames kx; refine @Keeps.cut _ r₀ kx ?_ ?_; subst kx; rotate_left; clear_value kx; intro hkx
    | extract_lets +onlyGivenNames kx; subst kx
    | with_reducible apply State.updReq_keeps
    | with_reducible apply State.postCompletion_keeps
    | with_reducible apply State.completeIf_keeps
    | with_reducible apply State.writeReq_keeps
    | with_reducible apply State.commitDone_keeps
    | with_reducible apply State.releaseReq_keeps
    | with_reducible apply State.killWorks_keeps
    | with_reducible apply State.dropGrafts_keeps
    | with_reducible apply Keeps.ite
    | with_reducible apply Keeps.set; with_reducible assumption

theorem State.forget_keeps {r₀ : State} {s : State} (i : Nat) (hk : Keeps r₀ s) : Keeps r₀ (State.forget s i) := by
  unfold State.forget
  repeat' first
    | with_reducible assumption
    | extract_lets +onlyGivenNames kx; refine @Keeps.cut _ r₀ kx ?_ ?_; subst kx; rotate_left; clear_value kx; intro hkx
    | with_reducible apply State.writeReq_keeps
    | with_reducible apply State.commitDone_keeps
    | with_reducible apply State.releaseReq_keeps
    | with_reducible apply Keeps.set; with_reducible assumption

theorem State.cancelReq_keeps {r₀ : State} {s : State} (i : Nat) (p : PendOp) (hk : Keeps r₀ s) :
    Keeps r₀ (State.cancelReq s i p) := by
  unfold State.cancelReq
  repeat' first
    | with_reducible assumption
    | extract_lets +onlyGivenNames kx; refine @Keeps.cut _ r₀ kx ?_ ?_; subst kx; rotate_left; clear_value kx; intro hkx
    | extract_lets +onlyGivenNames kx; subst kx
    | with_reducible apply State.updReq_keeps
    | with_reducible apply State.completeOp_keeps
    | with_reducible apply State.completeIf_keeps
    | with_reducible apply State.endRequest_keeps
    | with_reducible apply Keeps.ite

theorem State.heldCancel_keeps {r₀ : State} {s : State} (i : Nat) (hk : Keeps r₀ s) : Keeps r₀ (State.heldCancel s i) := by
  unfold State.heldCancel
  repeat' first
    | with_reducible assumption
    | with_reducible apply State.updReq_keeps
    | with_reducible apply State.cancelReq_keeps
    | with_reducible apply Keeps.ite
    | split

theorem State.noDest_keeps {r₀ : State} {s : State} (i status last : Nat) (hk : Keeps r₀ s) :
    Keeps r₀ (State.noDest s i status last) := by
  unfold State.noDest
  repeat' first
    | with_reducible assumption
    | extract_lets +onlyGivenNames kx; refine @Keeps.cut _ r₀ kx ?_ ?_; subst kx; rotate_left; clear_value kx; intro hkx
    | extract_lets +onlyGivenNames kx; subst kx
    | with_reducible apply State.updReq_keeps
    | with_reducible apply State.tenantEvent_keeps
    | with_reducible apply State.completeOp_keeps
    | with_reducible apply State.completeIf_keeps
    | with_reducible apply State.forget_keeps
    | with_reducible apply Keeps.ite
    | split

theorem State.tryDest_keeps {r₀ : State} {s : State} (i status last : Nat) (hk : Keeps r₀ s) :
    Keeps r₀ (State.tryDest s i status last) := by
  unfold State.tryDest
  repeat' first
    | with_reducible assumption
    | with_reducible apply State.updReq_keeps
    | with_reducible apply State.openGraft_keeps
    | with_reducible apply State.noDest_keeps
    | split

theorem State.enterDecode_keeps {r₀ : State} {s : State} (i : Nat) (hk : Keeps r₀ s) :
    Keeps r₀ (State.enterDecode s i) := by
  unfold State.enterDecode
  repeat' first
    | with_reducible assumption
    | extract_lets +onlyGivenNames kx; refine @Keeps.cut _ r₀ kx ?_ ?_; subst kx; rotate_left; clear_value kx; intro hkx
    | with_reducible apply State.updReq_keeps
    | with_reducible apply State.rebind_keeps
    | with_reducible apply State.noDest_keeps
    | with_reducible apply Keeps.ite

theorem State.startReprefill_keeps {r₀ : State} {s : State} (i : Nat) (hk : Keeps r₀ s) :
    Keeps r₀ (State.startReprefill s i) := by
  unfold State.startReprefill
  repeat' first
    | with_reducible assumption
    | extract_lets +onlyGivenNames kx; refine @Keeps.cut _ r₀ kx ?_ ?_; subst kx; rotate_left; clear_value kx; intro hkx
    | extract_lets +onlyGivenNames kx; subst kx
    | with_reducible apply State.updReq_keeps
    | with_reducible apply State.dropPlots_keeps
    | with_reducible apply State.tryDest_keeps
    | with_reducible apply Keeps.ite

theorem State.tryPeer_keeps {r₀ : State} {s : State} (i status last : Nat) (hk : Keeps r₀ s) :
    Keeps r₀ (State.tryPeer s i status last) := by
  unfold State.tryPeer
  repeat' first
    | with_reducible assumption
    | extract_lets +onlyGivenNames kx; refine @Keeps.cut _ r₀ kx ?_ ?_; subst kx; rotate_left; clear_value kx; intro hkx
    | extract_lets +onlyGivenNames kx; subst kx
    | with_reducible apply State.updReq_keeps
    | with_reducible apply State.completeIf_keeps
    | with_reducible apply State.openGraft_keeps
    | split

theorem State.recover_keeps {r₀ : State} {s : State} (i : Nat) (hk : Keeps r₀ s) : Keeps r₀ (State.recover s i) := by
  unfold State.recover
  repeat' first
    | with_reducible assumption
    | extract_lets +onlyGivenNames kx; refine @Keeps.cut _ r₀ kx ?_ ?_; subst kx; rotate_left; clear_value kx; intro hkx
    | with_reducible apply State.updReq_keeps
    | with_reducible apply State.dropPlots_keeps
    | with_reducible apply State.startReprefill_keeps
    | with_reducible apply State.tryPeer_keeps
    | with_reducible apply Keeps.ite

theorem State.arrivedEvent_keeps {r₀ : State} {s : State} (i previous : Nat) (hk : Keeps r₀ s) :
    Keeps r₀ (State.arrivedEvent s i previous) := by
  unfold State.arrivedEvent
  repeat' first
    | with_reducible assumption
    | extract_lets +onlyGivenNames kx; subst kx
    | with_reducible apply State.eventTo_keeps

theorem State.leftEvent_keeps {r₀ : State} {s : State} (i owner epoch : Nat) (hk : Keeps r₀ s) :
    Keeps r₀ (State.leftEvent s i owner epoch) := by
  unfold State.leftEvent
  repeat' first
    | with_reducible assumption
    | extract_lets +onlyGivenNames kx; subst kx
    | with_reducible apply State.eventTo_keeps

end Sys2Proof.Machine
end

