-- ==== Sys2Proof/Laws/FrameRequests.lean ====
section
/-!
SUPPORT. Sys2Proof/Laws/FrameRequests.lean: what the operations and commands of Machine/Requests.lean keep (`Keeps`): the queue, the
Cloche, programmed fuses and the canonical form of every byte memory.
-/
namespace Sys2Proof.Machine

theorem State.newEntry_keeps {r₀ : State} {s : State} (tn ld positions floor : Nat) (m : Slot) (f : Req → Req)
    (hk : Keeps r₀ s) :
    KeepsOP r₀ (State.newEntry s tn ld positions floor m f) := by
  unfold State.newEntry
  repeat' first
    | with_reducible assumption
    | extract_lets +onlyGivenNames kx; subst kx
    | with_reducible apply State.bindRing_keeps
    | with_reducible apply State.writeReq_keeps
    | with_reducible apply State.takeJournal_keeps
    | with_reducible apply KeepsOP.none
    | with_reducible apply KeepsOP.some
    | with_reducible apply Keeps.set; with_reducible refine KeepsOP.get (by assumption) ?_
    | split

theorem State.admitEntry_keeps {r₀ : State} {s : State} (ring e : Nat) (hk : Keeps r₀ s) :
    KeepsOP r₀ (State.admitEntry s ring e) := by
  unfold State.admitEntry
  repeat' first
    | with_reducible assumption
    | with_reducible intro hkf
    | extract_lets +onlyGivenNames kx; subst kx
    | with_reducible apply State.journalAdd_keeps
    | with_reducible apply State.newEntry_keeps
    | with_reducible apply KeepsP.mk; fail_if_success (with_reducible apply KeepsP.proj)
    | with_reducible apply KeepsP.of_mk; with_reducible assumption
    | with_reducible apply KeepsOP.mapP

theorem State.kvSpace_keeps {r₀ : State} {s : State} (i positions : Nat) (hk : Keeps r₀ s) :
    KeepsP r₀ (State.kvSpace s i positions) := by
  unfold State.kvSpace
  repeat' first
    | with_reducible assumption
    | extract_lets +onlyGivenNames kx; refine @KeepsP.cut _ _ r₀ kx ?_ ?_; subst kx; rotate_left; clear_value kx; intro hkx
    | extract_lets +onlyGivenNames kx; subst kx
    | with_reducible apply State.updReq_keeps
    | with_reducible apply State.writeSeq_keeps
    | with_reducible apply State.allocPages_keeps
    | with_reducible apply KeepsP.ite
    | with_reducible apply KeepsP.mk; fail_if_success (with_reducible apply KeepsP.proj)
    | with_reducible apply KeepsP.of_mk; with_reducible assumption

theorem State.countAdmitted_keeps {r₀ : State} {s : State} (hk : Keeps r₀ s) : Keeps r₀ (State.countAdmitted s) := by
  unfold State.countAdmitted
  repeat' first
    | extract_lets +onlyGivenNames kx; subst kx
    | with_reducible apply Keeps.set; with_reducible assumption

theorem State.opTaken_keeps {r₀ : State} {s : State} (ring : Nat) (hk : Keeps r₀ s) : Keeps r₀ (State.opTaken s ring) := by
  unfold State.opTaken
  repeat' first
    | with_reducible assumption
    | with_reducible apply State.updRing_keeps

theorem State.admitDone_keeps {r₀ : State} {s : State} (i : Nat) (hk : Keeps r₀ s) : Keeps r₀ (State.admitDone s i) := by
  unfold State.admitDone
  repeat' first
    | with_reducible assumption
    | extract_lets +onlyGivenNames kx; refine @Keeps.cut _ r₀ kx ?_ ?_; subst kx; rotate_left; clear_value kx; intro hkx
    | extract_lets +onlyGivenNames kx; subst kx
    | with_reducible apply State.updReq_keeps
    | with_reducible apply State.completeIf_keeps
    | with_reducible apply State.heldCancel_keeps
    | with_reducible apply State.countAdmitted_keeps

theorem State.admitNew_keeps {r₀ : State} {s0 : State} (ring e : Nat) (hk : Keeps r₀ s0) :
    Keeps r₀ (State.admitNew s0 ring e) := by
  unfold State.admitNew
  repeat' first
    | with_reducible assumption
    | extract_lets +onlyGivenNames kx; refine @Keeps.cut _ r₀ kx ?_ ?_; subst kx; rotate_left; clear_value kx; intro hkx
    | extract_lets +onlyGivenNames kx; subst kx
    | with_reducible apply State.completeOp_keeps
    | with_reducible apply State.tryDest_keeps
    | with_reducible apply State.admitEntry_keeps
    | with_reducible apply State.kvSpace_keeps
    | with_reducible apply State.opTaken_keeps
    | with_reducible apply State.admitDone_keeps
    | with_reducible apply Keeps.ite
    | with_reducible apply Keeps.set; with_reducible refine KeepsP.fst (by assumption) ?_
    | with_reducible apply Keeps.set; with_reducible refine KeepsOP.get (by assumption) ?_
    | split

theorem State.killPark_keeps {r₀ : State} {s : State} (i status detail : Nat) (hk : Keeps r₀ s) :
    Keeps r₀ (State.killPark s i status detail) := by
  unfold State.killPark
  repeat' first
    | with_reducible assumption
    | extract_lets +onlyGivenNames kx; refine @Keeps.cut _ r₀ kx ?_ ?_; subst kx; rotate_left; clear_value kx; intro hkx
    | extract_lets +onlyGivenNames kx; subst kx
    | with_reducible apply State.updReq_keeps
    | with_reducible apply State.dropCopies_keeps
    | with_reducible apply State.completeIf_keeps
    | with_reducible apply State.abortGraft_keeps
    | split

theorem State.parkOp_keeps {r₀ : State} {s : State} (ring e : Nat) (hk : Keeps r₀ s) :
    Keeps r₀ (State.parkOp s ring e) := by
  unfold State.parkOp
  repeat' first
    | with_reducible assumption
    | extract_lets +onlyGivenNames kx; refine @Keeps.cut _ r₀ kx ?_ ?_; subst kx; rotate_left; clear_value kx; intro hkx
    | extract_lets +onlyGivenNames kx; subst kx
    | with_reducible apply State.updReq_keeps
    | with_reducible apply State.completeOp_keeps
    | with_reducible apply State.openGraft_keeps
    | with_reducible apply State.opTaken_keeps
    | with_reducible apply Keeps.ite
    | split

theorem State.dropHolder_keeps {r₀ : State} {s : State} (h : HolderRec) (hk : Keeps r₀ s) :
    Keeps r₀ (State.dropHolder s h) := by
  unfold State.dropHolder
  repeat' first
    | with_reducible assumption
    | extract_lets +onlyGivenNames kx; refine @Keeps.cut _ r₀ kx ?_ ?_; subst kx; rotate_left; clear_value kx; intro hkx
    | with_reducible apply State.freePlace_keeps
    | with_reducible apply Keeps.set; with_reducible assumption
    | with_reducible refine Keeps.foldl ?_ ?_; intro _ _ _

theorem State.expire_keeps {r₀ : State} {s : State} (i : Nat) (hk : Keeps r₀ s) : Keeps r₀ (State.expire s i) := by
  unfold State.expire
  repeat' first
    | with_reducible assumption
    | with_reducible apply State.updReq_keeps
    | with_reducible apply State.dropPlots_keeps

theorem State.expireDue_keeps {r₀ : State} {s : State} (i : Nat) (hk : Keeps r₀ s) : Keeps r₀ (State.expireDue s i) := by
  unfold State.expireDue
  repeat' first
    | with_reducible assumption
    | with_reducible apply State.expire_keeps
    | with_reducible apply Keeps.ite

theorem State.expireHolder_keeps {r₀ : State} {s : State} (h : HolderRec) (hk : Keeps r₀ s) :
    Keeps r₀ (State.expireHolder s h) := by
  unfold State.expireHolder
  repeat' first
    | with_reducible assumption
    | with_reducible apply State.sendCtl_keeps
    | with_reducible apply State.pumpCtl_keeps
    | with_reducible apply State.dropHolder_keeps

theorem State.sendPull_keeps {r₀ : State} {s : State} (i : Nat) (hk : Keeps r₀ s) : Keeps r₀ (State.sendPull s i) := by
  unfold State.sendPull
  repeat' first
    | with_reducible assumption
    | extract_lets +onlyGivenNames kx; refine @Keeps.cut _ r₀ kx ?_ ?_; subst kx; rotate_left; clear_value kx; intro hkx
    | extract_lets +onlyGivenNames kx; refine @KeepsP.cut _ _ r₀ kx ?_ ?_; subst kx; rotate_left; clear_value kx; intro hkx
    | extract_lets +onlyGivenNames kx; subst kx
    | with_reducible apply State.sendCtl_keeps
    | with_reducible apply State.pumpCtl_keeps
    | with_reducible apply State.newGtag_keeps
    | with_reducible apply State.takeSlots_keeps
    | with_reducible apply Keeps.ite
    | with_reducible apply Keeps.set; with_reducible assumption
    | with_reducible apply KeepsP.of_mk; with_reducible assumption

theorem State.startPull_keeps {r₀ : State} {s : State} (i : Nat) (hk : Keeps r₀ s) : Keeps r₀ (State.startPull s i) := by
  unfold State.startPull
  repeat' first
    | with_reducible assumption
    | extract_lets +onlyGivenNames kx; refine @Keeps.cut _ r₀ kx ?_ ?_; subst kx; rotate_left; clear_value kx; intro hkx
    | extract_lets +onlyGivenNames kx; subst kx
    | with_reducible apply State.updReq_keeps
    | with_reducible apply State.sendPull_keeps
    | with_reducible apply Keeps.ite

theorem State.resumeOp_keeps {r₀ : State} {s : State} (ring e : Nat) (hk : Keeps r₀ s) :
    Keeps r₀ (State.resumeOp s ring e) := by
  unfold State.resumeOp
  repeat' first
    | with_reducible assumption
    | extract_lets +onlyGivenNames kx; refine @Keeps.cut _ r₀ kx ?_ ?_; subst kx; rotate_left; clear_value kx; intro hkx
    | extract_lets +onlyGivenNames kx; subst kx
    | with_reducible apply State.updReq_keeps
    | with_reducible apply State.completeOp_keeps
    | with_reducible apply State.opTaken_keeps
    | with_reducible apply State.killPark_keeps
    | with_reducible apply State.expireDue_keeps
    | with_reducible apply State.startPull_keeps
    | with_reducible apply Keeps.ite
    | split

theorem State.cancelOp_keeps {r₀ : State} {s : State} (ring e : Nat) (hk : Keeps r₀ s) :
    Keeps r₀ (State.cancelOp s ring e) := by
  unfold State.cancelOp
  repeat' first
    | with_reducible assumption
    | extract_lets +onlyGivenNames kx; refine @Keeps.cut _ r₀ kx ?_ ?_; subst kx; rotate_left; clear_value kx; intro hkx
    | extract_lets +onlyGivenNames kx; subst kx
    | with_reducible apply State.completeOp_keeps
    | with_reducible apply State.cancelReq_keeps
    | with_reducible apply State.opTaken_keeps
    | with_reducible apply Keeps.ite
    | split

theorem State.redirectOp_keeps {r₀ : State} {s : State} (ring e : Nat) (hk : Keeps r₀ s) :
    Keeps r₀ (State.redirectOp s ring e) := by
  unfold State.redirectOp
  repeat' first
    | with_reducible assumption
    | extract_lets +onlyGivenNames kx; refine @Keeps.cut _ r₀ kx ?_ ?_; subst kx; rotate_left; clear_value kx; intro hkx
    | extract_lets +onlyGivenNames kx; subst kx
    | with_reducible apply State.updReq_keeps
    | with_reducible apply State.completeOp_keeps
    | with_reducible apply State.abortGraft_keeps
    | with_reducible apply State.tryDest_keeps
    | with_reducible apply State.opTaken_keeps
    | with_reducible apply Keeps.ite
    | split

theorem execAdmitOp_keeps {r₀ : State} (ring : Nat) (e : BitVec 1024) {s : State} (hk : Keeps r₀ s) :
    KeepsX r₀ (execAdmitOp ring e s) := by
  unfold execAdmitOp
  repeat' first
    | with_reducible assumption
    | with_reducible apply State.admitNew_keeps
    | with_reducible apply KeepsX.next
    | with_reducible apply KeepsX.ite

theorem execPark_keeps {r₀ : State} (ring : Nat) (e : BitVec 1024) {s : State} (hk : Keeps r₀ s) :
    KeepsX r₀ (execPark ring e s) := by
  unfold execPark
  repeat' first
    | with_reducible assumption
    | with_reducible apply State.parkOp_keeps
    | with_reducible apply KeepsX.next
    | with_reducible apply KeepsX.ite

theorem execResume_keeps {r₀ : State} (ring : Nat) (e : BitVec 1024) {s : State} (hk : Keeps r₀ s) :
    KeepsX r₀ (execResume ring e s) := by
  unfold execResume
  repeat' first
    | with_reducible assumption
    | with_reducible apply State.resumeOp_keeps
    | with_reducible apply KeepsX.next
    | with_reducible apply KeepsX.ite

theorem execCancel_keeps {r₀ : State} (ring : Nat) (e : BitVec 1024) {s : State} (hk : Keeps r₀ s) :
    KeepsX r₀ (execCancel ring e s) := by
  unfold execCancel
  repeat' first
    | with_reducible assumption
    | with_reducible apply State.cancelOp_keeps
    | with_reducible apply KeepsX.next
    | with_reducible apply KeepsX.ite

theorem execRedirect_keeps {r₀ : State} (ring : Nat) (e : BitVec 1024) {s : State} (hk : Keeps r₀ s) :
    KeepsX r₀ (execRedirect ring e s) := by
  unfold execRedirect
  repeat' first
    | with_reducible assumption
    | with_reducible apply State.redirectOp_keeps
    | with_reducible apply KeepsX.next
    | with_reducible apply KeepsX.ite

theorem execGraftDestFailed_keeps {r₀ : State} (req : Nat) (status : Nat) {s : State} (hk : Keeps r₀ s) :
    KeepsX r₀ (execGraftDestFailed req status s) := by
  unfold execGraftDestFailed
  repeat' first
    | with_reducible assumption
    | with_reducible apply State.abortGraft_keeps
    | with_reducible apply State.tryDest_keeps
    | with_reducible apply KeepsX.next
    | with_reducible apply KeepsX.ite
    | split

theorem execParkExpiry_keeps {r₀ : State} (req : Nat) {s : State} (hk : Keeps r₀ s) : KeepsX r₀ (execParkExpiry req s) := by
  unfold execParkExpiry
  repeat' first
    | with_reducible assumption
    | with_reducible apply State.expire_keeps
    | with_reducible apply State.expireHolder_keeps
    | with_reducible apply KeepsX.next
    | with_reducible apply KeepsX.ite
    | split

theorem execRecordHandover_keeps {r₀ : State} (req : Nat) (dest : Nat) {s : State} (hk : Keeps r₀ s) :
    KeepsX r₀ (execRecordHandover req dest s) := by
  unfold execRecordHandover
  repeat' first
    | with_reducible assumption
    | extract_lets +onlyGivenNames kx; subst kx
    | with_reducible apply State.openGraft_keeps
    | with_reducible apply KeepsX.next
    | with_reducible apply KeepsX.ite

theorem execReprefill_keeps {r₀ : State} (req : Nat) {s : State} (hk : Keeps r₀ s) : KeepsX r₀ (execReprefill req s) := by
  unfold execReprefill
  repeat' first
    | with_reducible assumption
    | extract_lets +onlyGivenNames kx; subst kx
    | with_reducible apply State.recover_keeps
    | with_reducible apply KeepsX.next
    | with_reducible apply KeepsX.ite

end Sys2Proof.Machine
end

