-- ==== Sys2Proof/Laws/FrameGraftRecv.lean ====
section
/-!
SUPPORT. Sys2Proof/Laws/FrameGraftRecv.lean: what the operations and commands of Machine/GraftRecv.lean keep (`Keeps`): the queue, the
Cloche, programmed fuses and the canonical form of every byte memory.
-/
namespace Sys2Proof.Machine

theorem State.sendMgmt_keeps {r₀ : State} {s : State} (dest kind epoch reqId : Nat) (hk : Keeps r₀ s) :
    Keeps r₀ (State.sendMgmt s dest kind epoch reqId) := by
  unfold State.sendMgmt
  repeat' first
    | with_reducible assumption
    | extract_lets +onlyGivenNames kx; subst kx
    | with_reducible apply State.enq_keeps
    | split

theorem State.yieldReq_keeps {r₀ : State} {s : State} (i src : Nat) (hk : Keeps r₀ s) :
    Keeps r₀ (State.yieldReq s i src) := by
  unfold State.yieldReq
  repeat' first
    | with_reducible assumption
    | extract_lets +onlyGivenNames kx; subst kx
    | with_reducible apply State.endRequest_keeps
    | with_reducible apply State.sendMgmt_keeps

theorem State.meetClaim_keeps {r₀ : State} {s : State} (src epoch reqId : Nat) (hk : Keeps r₀ s) :
    Keeps r₀ (State.meetClaim s src epoch reqId) := by
  unfold State.meetClaim
  repeat' first
    | with_reducible assumption
    | extract_lets +onlyGivenNames kx; subst kx
    | with_reducible apply State.yieldReq_keeps
    | with_reducible apply Keeps.ite
    | split

theorem execOwnerClaim_keeps {r₀ : State} (src : BitVec 12) (reqId : BitVec 64) (tail : ClaimTail)
    {s : State} (hk : Keeps r₀ s) :
    KeepsX r₀ (execOwnerClaim src reqId tail s) := by
  unfold execOwnerClaim
  repeat' first
    | with_reducible assumption
    | extract_lets +onlyGivenNames kx; refine @Keeps.cut _ r₀ kx ?_ ?_; subst kx; rotate_left; clear_value kx; intro hkx
    | extract_lets +onlyGivenNames kx; subst kx
    | with_reducible apply State.takeRxLike_keeps
    | with_reducible apply State.sendMgmt_keeps
    | with_reducible apply State.yieldReq_keeps
    | with_reducible apply KeepsX.next
    | with_reducible apply KeepsX.ite
    | with_reducible apply KeepsP.proj
    | split

theorem State.dropReceived_keeps {r₀ : State} {s : State} (k : Nat) (hk : Keeps r₀ s) :
    Keeps r₀ (State.dropReceived s k) := by
  unfold State.dropReceived
  repeat' first
    | with_reducible assumption
    | extract_lets +onlyGivenNames kx; refine @Keeps.cut _ r₀ kx ?_ ?_; subst kx; rotate_left; clear_value kx; intro hkx
    | extract_lets +onlyGivenNames kx; subst kx
    | with_reducible apply State.freePlace_keeps
    | with_reducible apply State.updGraft_keeps
    | with_reducible apply State.closeGraft_keeps
    | with_reducible apply State.releaseReq_keeps
    | with_reducible apply State.dropHolder_keeps
    | with_reducible apply Keeps.set; with_reducible assumption
    | with_reducible refine Keeps.foldl ?_ ?_; intro _ _ _
    | split

theorem State.takeAway_keeps {r₀ : State} {s : State} (i : Nat) (hk : Keeps r₀ s) : Keeps r₀ (State.takeAway s i) := by
  unfold State.takeAway
  repeat' first
    | with_reducible assumption
    | extract_lets +onlyGivenNames kx; refine @Keeps.cut _ r₀ kx ?_ ?_; subst kx; rotate_left; clear_value kx; intro hkx
    | extract_lets +onlyGivenNames kx; subst kx
    | with_reducible apply State.updReq_keeps
    | with_reducible apply Keeps.set; with_reducible assumption
    | split

theorem State.becomeOwner_keeps {r₀ : State} {s : State} (i epoch journalLen next : Nat) (deadline : Nat)
    (hk : Keeps r₀ s) :
    Keeps r₀ (State.becomeOwner s i epoch journalLen next deadline) := by
  unfold State.becomeOwner
  repeat' first
    | with_reducible assumption
    | extract_lets +onlyGivenNames kx; subst kx
    | with_reducible apply State.updReq_keeps
    | with_reducible apply State.countAdmitted_keeps
    | with_reducible apply State.takeAway_keeps

theorem State.claim_keeps {r₀ : State} {s : State} (k : Nat) (hk : Keeps r₀ s) : Keeps r₀ (State.claim s k) := by
  unfold State.claim
  repeat' first
    | with_reducible assumption
    | extract_lets +onlyGivenNames kx; refine @Keeps.cut _ r₀ kx ?_ ?_; subst kx; rotate_left; clear_value kx; intro hkx
    | extract_lets +onlyGivenNames kx; subst kx
    | with_reducible apply State.updReq_keeps
    | with_reducible apply State.closeGraft_keeps
    | with_reducible apply State.recover_keeps
    | with_reducible apply State.sendMgmt_keeps
    | with_reducible apply State.becomeOwner_keeps
    | split

theorem State.resumeFailed_keeps {r₀ : State} {s : State} (i status dev : Nat) (hk : Keeps r₀ s) :
    Keeps r₀ (State.resumeFailed s i status dev) := by
  unfold State.resumeFailed
  repeat' first
    | with_reducible assumption
    | extract_lets +onlyGivenNames kx; subst kx
    | with_reducible apply State.updReq_keeps
    | with_reducible apply State.completeIf_keeps

theorem State.sendFailed_keeps {r₀ : State} {s : State} (k status : Nat) (hk : Keeps r₀ s) :
    Keeps r₀ (State.sendFailed s k status) := by
  unfold State.sendFailed
  repeat' first
    | with_reducible assumption
    | extract_lets +onlyGivenNames kx; refine @Keeps.cut _ r₀ kx ?_ ?_; subst kx; rotate_left; clear_value kx; intro hkx
    | extract_lets +onlyGivenNames kx; subst kx
    | with_reducible apply State.updGraft_keeps
    | with_reducible apply State.closeGraft_keeps
    | with_reducible apply State.abortGraft_keeps
    | with_reducible apply State.tryDest_keeps
    | with_reducible apply State.tryPeer_keeps
    | with_reducible apply State.killPark_keeps
    | with_reducible apply State.resumeFailed_keeps
    | with_reducible apply Keeps.ite
    | split

theorem State.recvFailed_keeps {r₀ : State} {s : State} (k : Nat) (hk : Keeps r₀ s) : Keeps r₀ (State.recvFailed s k) := by
  unfold State.recvFailed
  repeat' first
    | with_reducible assumption
    | extract_lets +onlyGivenNames kx; subst kx
    | with_reducible apply State.abortGraft_keeps
    | with_reducible apply State.recover_keeps
    | with_reducible apply State.dropReceived_keeps
    | with_reducible apply State.claim_keeps
    | with_reducible apply Keeps.ite
    | split

theorem State.settleOne_keeps {r₀ : State} {s : State} (k : Nat) (hk : Keeps r₀ s) : Keeps r₀ (State.settleOne s k) := by
  unfold State.settleOne
  repeat' first
    | with_reducible assumption
    | extract_lets +onlyGivenNames kx; subst kx
    | with_reducible apply State.sendFailed_keeps
    | with_reducible apply State.recvFailed_keeps
    | with_reducible apply Keeps.ite

theorem State.settle_keeps {r₀ : State} {s : State} (hk : Keeps r₀ s) : Keeps r₀ (State.settle s) := by
  unfold State.settle
  repeat' first
    | with_reducible assumption
    | with_reducible apply State.graftPump_keeps
    | with_reducible apply State.settleOne_keeps
    | with_reducible refine Keeps.foldl ?_ ?_; intro _ _ _

theorem execConnError_keeps {r₀ : State} (conn : BitVec 20) (status : Nat) {s : State} (hk : Keeps r₀ s) :
    KeepsX r₀ (execConnError conn status s) := by
  unfold execConnError
  repeat' first
    | with_reducible assumption
    | with_reducible apply State.connError_keeps
    | with_reducible apply State.settle_keeps
    | with_reducible apply KeepsX.next
    | with_reducible apply KeepsX.ite

theorem State.rqErr_keeps {r₀ : State} {s : State} (p : Pkt) (hk : Keeps r₀ s) : Keeps r₀ (State.rqErr s p) := by
  unfold State.rqErr
  repeat' first
    | with_reducible assumption
    | extract_lets +onlyGivenNames kx; subst kx
    | with_reducible apply State.connError_keeps
    | with_reducible apply State.contextFor_keeps
    | with_reducible apply State.settle_keeps
    | with_reducible apply Keeps.set; with_reducible refine KeepsP.fst (by assumption) ?_
    | split

theorem execRqErrReceive_keeps {r₀ : State} (p : Pkt) {s : State} (hk : Keeps r₀ s) : KeepsX r₀ (execRqErrReceive p s) := by
  unfold execRqErrReceive
  repeat' first
    | with_reducible assumption
    | with_reducible apply State.arrive_keeps
    | with_reducible apply State.rqErr_keeps
    | with_reducible apply KeepsX.next
    | with_reducible apply KeepsX.ite
    | with_reducible apply KeepsP.proj

theorem execRtoExpiry_keeps {r₀ : State} (conn : BitVec 20) (msn : BitVec 16) {s : State} (hk : Keeps r₀ s) :
    KeepsX r₀ (execRtoExpiry conn msn s) := by
  unfold execRtoExpiry
  repeat' first
    | with_reducible assumption
    | extract_lets +onlyGivenNames kx; refine @Keeps.cut _ r₀ kx ?_ ?_; subst kx; rotate_left; clear_value kx; intro hkx
    | extract_lets +onlyGivenNames kx; subst kx
    | with_reducible apply State.updLnd_keeps
    | with_reducible apply State.updConn_keeps
    | with_reducible apply State.connError_keeps
    | with_reducible apply State.pump_keeps
    | with_reducible apply State.settle_keeps
    | with_reducible apply KeepsX.next
    | with_reducible apply KeepsX.ite
    | split

theorem execRqAckReceive_keeps {r₀ : State} (p : Pkt) {s : State} (hk : Keeps r₀ s) : KeepsX r₀ (execRqAckReceive p s) := by
  unfold execRqAckReceive
  repeat' first
    | with_reducible assumption
    | with_reducible apply State.arrive_keeps
    | with_reducible apply State.raeAck_keeps
    | with_reducible apply State.graftPump_keeps
    | with_reducible apply KeepsX.next
    | with_reducible apply KeepsX.ite
    | with_reducible apply KeepsP.proj

theorem State.judgeRecord_keeps {r₀ : State} {s : State} (c : Nat) (p : Option Pkt) (epoch : Nat) (r : GRec)
    (isOpen : Bool) (hk : Keeps r₀ s) :
    KeepsP r₀ (State.judgeRecord s c p epoch r isOpen) := by
  unfold State.judgeRecord
  repeat' first
    | with_reducible assumption
    | extract_lets +onlyGivenNames kx; subst kx
    | with_reducible apply State.sendErr_keeps
    | with_reducible apply State.connError_keeps
    | with_reducible apply State.placed_keeps
    | with_reducible apply State.settle_keeps
    | with_reducible apply KeepsP.ite
    | with_reducible apply KeepsP.mk; fail_if_success (with_reducible apply KeepsP.proj)
    | split

theorem State.recordIn_keeps {r₀ : State} {s : State} (src epoch : Nat) (r : GRec) (isOpen : Bool) (hk : Keeps r₀ s) :
    KeepsP r₀ (State.recordIn s src epoch r isOpen) := by
  unfold State.recordIn
  repeat' first
    | with_reducible assumption
    | with_reducible apply State.takeRxLike_keeps
    | with_reducible apply State.admitData_keeps
    | with_reducible apply State.judgeRecord_keeps
    | with_reducible apply KeepsP.mk; fail_if_success (with_reducible apply KeepsP.proj)
    | with_reducible apply Keeps.set; with_reducible refine KeepsP.fst (by assumption) ?_
    | split

theorem State.onRecord_keeps {r₀ s : State} {act : State → State} (src epoch : Nat) (r : GRec) (isOpen : Bool)
    (hf : ∀ t, Keeps r₀ t → Keeps r₀ (act t)) (hk : Keeps r₀ s) : KeepsX r₀ (s.onRecord src epoch r isOpen act) := by
  unfold State.onRecord
  repeat' first
    | with_reducible apply hf
    | with_reducible assumption
    | with_reducible apply State.recordIn_keeps
    | with_reducible apply KeepsX.next
    | with_reducible apply KeepsX.ite
    | with_reducible apply Keeps.set; with_reducible refine KeepsP.fst (by assumption) ?_
    | split

theorem State.openSpace_keeps {r₀ : State} {s : State} (i plots : Nat) (hk : Keeps r₀ s) :
    KeepsP r₀ (State.openSpace s i plots) := by
  unfold State.openSpace
  repeat' first
    | with_reducible assumption
    | extract_lets +onlyGivenNames kx; subst kx
    | with_reducible apply State.allocPages_keeps
    | with_reducible apply KeepsP.ite
    | with_reducible apply KeepsP.mk; fail_if_success (with_reducible apply KeepsP.proj)
    | with_reducible apply Keeps.set; with_reducible refine KeepsP.fst (by assumption) ?_
    | split

theorem State.openTake_keeps {r₀ : State} {s0 : State} (r : GRec) (e : Req) (src : Nat) (hk : Keeps r₀ s0) :
    KeepsP r₀ (State.openTake s0 r e src) := by
  unfold State.openTake
  repeat' first
    | with_reducible assumption
    | extract_lets +onlyGivenNames kx; subst kx
    | with_reducible apply State.eventTo_keeps
    | with_reducible apply State.writeReq_keeps
    | with_reducible apply State.forget_keeps
    | with_reducible apply State.newEntry_keeps
    | with_reducible apply State.openSpace_keeps
    | with_reducible apply KeepsP.mk; fail_if_success (with_reducible apply KeepsP.proj)
    | with_reducible apply Keeps.set; with_reducible refine KeepsP.fst (by assumption) ?_
    | with_reducible apply Keeps.set; with_reducible refine KeepsOP.get (by assumption) ?_
    | split

theorem State.parkRoom_keeps {r₀ s : State} (tn : Nat) (tiers : List Nat) (n : Nat) (hk : Keeps r₀ s) :
    KeepsOP r₀ (s.parkRoom tn tiers n) := by
  induction n generalizing s with
  | zero => exact KeepsOP.some hk
  | succ n ih =>
    unfold State.parkRoom
    repeat' first
      | with_reducible apply ih
      | with_reducible assumption
      | with_reducible apply State.allocTiers_keeps
      | with_reducible apply KeepsOP.none
      | with_reducible apply KeepsOP.some
      | with_reducible apply Keeps.set; with_reducible refine KeepsOP.get (by assumption) ?_
      | split

theorem State.openPark_keeps {r₀ : State} {s : State} (r : GRec) (e : Req) (src : Nat) (hk : Keeps r₀ s) :
    KeepsP r₀ (State.openPark s r e src) := by
  unfold State.openPark
  repeat' first
    | with_reducible assumption
    | extract_lets +onlyGivenNames kx; subst kx
    | with_reducible apply State.parkRoom_keeps
    | with_reducible apply KeepsP.ite
    | with_reducible apply KeepsP.mk; fail_if_success (with_reducible apply KeepsP.proj)
    | with_reducible apply Keeps.set; with_reducible refine KeepsOP.get (by assumption) ?_
    | split

theorem State.ackOpen_keeps {r₀ : State} {s : State} (src epoch : Nat) (r : GRec) (status gtag dreq credits : Nat)
    (hk : Keeps r₀ s) :
    Keeps r₀ (State.ackOpen s src epoch r status gtag dreq credits) := by
  unfold State.ackOpen
  repeat' first
    | with_reducible assumption
    | with_reducible apply State.sendCtl_keeps
    | with_reducible apply State.pumpCtl_keeps

theorem State.openTry_keeps {r₀ : State} {s : State} (src epoch : Nat) (r : GRec) (hk : Keeps r₀ s) :
    Keeps r₀ (State.openTry s src epoch r) := by
  unfold State.openTry
  repeat' first
    | with_reducible assumption
    | extract_lets +onlyGivenNames kx; refine @Keeps.cut _ r₀ kx ?_ ?_; subst kx; rotate_left; clear_value kx; intro hkx
    | extract_lets +onlyGivenNames kx; refine @KeepsP.cut _ _ r₀ kx ?_ ?_; subst kx; rotate_left; clear_value kx; intro hkx
    | extract_lets +onlyGivenNames kx; subst kx
    | with_reducible apply State.newGtag_keeps
    | with_reducible apply State.takeSlots_keeps
    | with_reducible apply State.openTake_keeps
    | with_reducible apply State.ackOpen_keeps
    | with_reducible apply Keeps.ite
    | with_reducible apply KeepsP.ite
    | with_reducible apply KeepsP.mk; fail_if_success (with_reducible apply KeepsP.proj)
    | with_reducible apply Keeps.set; with_reducible assumption
    | with_reducible apply KeepsP.of_mk; with_reducible assumption
    | split
    | with_reducible apply KeepsP.mk; with_reducible apply KeepsP.proj; first | with_reducible assumption | with_reducible apply State.newGtag_keeps | with_reducible apply State.takeSlots_keeps | with_reducible apply State.openTake_keeps | with_reducible apply State.openPark_keeps | with_reducible apply State.ackOpen_keeps | with_reducible apply State.phase_keeps

theorem State.retryOpens_keeps {r₀ : State} {s : State} (hk : Keeps r₀ s) : Keeps r₀ (State.retryOpens s) := by
  unfold State.retryOpens
  repeat' first
    | with_reducible assumption
    | extract_lets +onlyGivenNames kx; subst kx
    | with_reducible apply State.openTry_keeps
    | with_reducible apply Keeps.ite
    | with_reducible apply Keeps.set; with_reducible assumption
    | with_reducible refine Keeps.foldl ?_ ?_; intro _ _ _

theorem State.openIn_keeps {r₀ : State} {s : State} (src epoch : Nat) (r : GRec) (hk : Keeps r₀ s) :
    Keeps r₀ (State.openIn s src epoch r) := by
  unfold State.openIn
  repeat' first
    | with_reducible assumption
    | extract_lets +onlyGivenNames kx; refine @Keeps.cut _ r₀ kx ?_ ?_; subst kx; rotate_left; clear_value kx; intro hkx
    | extract_lets +onlyGivenNames kx; subst kx
    | with_reducible apply State.meetClaim_keeps
    | with_reducible apply State.ackOpen_keeps
    | with_reducible apply State.openTry_keeps
    | with_reducible apply Keeps.ite
    | split

theorem execOpenRec_keeps {r₀ : State} (src : BitVec 12) (mapEpoch : BitVec 16) (r : GRec) {s : State} (hk : Keeps r₀ s) :
    KeepsX r₀ (execOpenRec src mapEpoch r s) := by
  unfold execOpenRec
  repeat' first
    | with_reducible assumption
    | with_reducible intro hkf
    | with_reducible apply State.onRecord_keeps
    | with_reducible apply State.openIn_keeps

theorem State.pushOpened_keeps {r₀ : State} {s : State} (k : Nat) (hk : Keeps r₀ s) : Keeps r₀ (State.pushOpened s k) := by
  unfold State.pushOpened
  repeat' first
    | with_reducible assumption
    | extract_lets +onlyGivenNames kx; refine @Keeps.cut _ r₀ kx ?_ ?_; subst kx; rotate_left; clear_value kx; intro hkx
    | extract_lets +onlyGivenNames kx; subst kx
    | with_reducible apply State.updReq_keeps
    | with_reducible apply State.completeIf_keeps
    | with_reducible apply State.updGraft_keeps
    | with_reducible apply State.admitDone_keeps
    | with_reducible apply Keeps.ite

theorem State.openAckIn_keeps {r₀ : State} {s : State} (src epoch : Nat) (r : GRec) (hk : Keeps r₀ s) :
    Keeps r₀ (State.openAckIn s src epoch r) := by
  unfold State.openAckIn
  repeat' first
    | with_reducible assumption
    | extract_lets +onlyGivenNames kx; refine @Keeps.cut _ r₀ kx ?_ ?_; subst kx; rotate_left; clear_value kx; intro hkx
    | extract_lets +onlyGivenNames kx; subst kx
    | with_reducible apply State.updReq_keeps
    | with_reducible apply State.updGraft_keeps
    | with_reducible apply State.graftPump_keeps
    | with_reducible apply State.sendFailed_keeps
    | with_reducible apply State.pushOpened_keeps
    | with_reducible apply Keeps.ite
    | split

theorem execOpenAck_keeps {r₀ : State} (src : BitVec 12) (mapEpoch : BitVec 16) (r : GRec) {s : State} (hk : Keeps r₀ s) :
    KeepsX r₀ (execOpenAck src mapEpoch r s) := by
  unfold execOpenAck
  repeat' first
    | with_reducible assumption
    | with_reducible intro hkf
    | with_reducible apply State.onRecord_keeps
    | with_reducible apply State.openAckIn_keeps

theorem State.takeCommit_keeps {r₀ : State} {s : State} (k : Nat) (r : GRec) (hk : Keeps r₀ s) :
    Keeps r₀ (State.takeCommit s k r) := by
  unfold State.takeCommit
  repeat' first
    | with_reducible assumption
    | extract_lets +onlyGivenNames kx; refine @Keeps.cut _ r₀ kx ?_ ?_; subst kx; rotate_left; clear_value kx; intro hkx
    | extract_lets +onlyGivenNames kx; subst kx
    | with_reducible apply State.updReq_keeps
    | with_reducible apply State.freePlace_keeps
    | with_reducible apply State.writeReq_keeps
    | with_reducible apply State.sendCtl_keeps
    | with_reducible apply State.pumpCtl_keeps
    | with_reducible apply State.updGraft_keeps
    | with_reducible apply State.closeGraft_keeps
    | with_reducible apply State.countAdmitted_keeps
    | with_reducible apply State.startPull_keeps
    | with_reducible apply State.becomeOwner_keeps
    | with_reducible apply Keeps.ite
    | with_reducible apply Keeps.set; with_reducible assumption
    | with_reducible refine Keeps.foldl ?_ ?_; intro _ _ _
    | split

theorem State.tryCommits_keeps {r₀ : State} {s : State} (hk : Keeps r₀ s) : Keeps r₀ (State.tryCommits s) := by
  unfold State.tryCommits
  repeat' first
    | with_reducible assumption
    | extract_lets +onlyGivenNames kx; subst kx
    | with_reducible apply State.takeCommit_keeps
    | with_reducible apply Keeps.ite
    | with_reducible refine Keeps.foldl ?_ ?_; intro _ _ _
    | split

theorem State.commitIn_keeps {r₀ : State} {s : State} (src epoch : Nat) (r : GRec) (hk : Keeps r₀ s) :
    Keeps r₀ (State.commitIn s src epoch r) := by
  unfold State.commitIn
  repeat' first
    | with_reducible assumption
    | extract_lets +onlyGivenNames kx; subst kx
    | with_reducible apply State.sendCtl_keeps
    | with_reducible apply State.pumpCtl_keeps
    | with_reducible apply State.updGraft_keeps
    | with_reducible apply State.meetClaim_keeps
    | with_reducible apply State.tryCommits_keeps
    | with_reducible apply Keeps.ite
    | split

theorem execGraftCommit_keeps {r₀ : State} (src : BitVec 12) (mapEpoch : BitVec 16) (r : GRec) {s : State}
    (hk : Keeps r₀ s) :
    KeepsX r₀ (execGraftCommit src mapEpoch r s) := by
  unfold execGraftCommit
  repeat' first
    | with_reducible assumption
    | with_reducible intro hkf
    | with_reducible apply State.onRecord_keeps
    | with_reducible apply State.commitIn_keeps

theorem State.keepAsHolder_keeps {r₀ : State} {s : State} (i dev epoch : Nat) (hk : Keeps r₀ s) :
    Keeps r₀ (State.keepAsHolder s i dev epoch) := by
  unfold State.keepAsHolder
  repeat' first
    | with_reducible assumption
    | extract_lets +onlyGivenNames kx; refine @Keeps.cut _ r₀ kx ?_ ?_; subst kx; rotate_left; clear_value kx; intro hkx
    | extract_lets +onlyGivenNames kx; subst kx
    | with_reducible apply State.updReq_keeps
    | with_reducible apply State.setPage_keeps
    | with_reducible apply Keeps.ite
    | with_reducible apply Keeps.set; with_reducible assumption
    | with_reducible refine Keeps.foldl ?_ ?_; intro _ _ _

theorem State.parkCommitted_keeps {r₀ : State} {s : State} (i src : Nat) (hk : Keeps r₀ s) :
    Keeps r₀ (State.parkCommitted s i src) := by
  unfold State.parkCommitted
  repeat' first
    | with_reducible assumption
    | extract_lets +onlyGivenNames kx; refine @Keeps.cut _ r₀ kx ?_ ?_; subst kx; rotate_left; clear_value kx; intro hkx
    | extract_lets +onlyGivenNames kx; subst kx
    | with_reducible apply State.updReq_keeps
    | with_reducible apply State.freePages_keeps
    | with_reducible apply State.completeIf_keeps
    | with_reducible apply State.rebind_keeps

theorem State.ownerGone_keeps {r₀ : State} {s : State} (i src : Nat) (hk : Keeps r₀ s) :
    Keeps r₀ (State.ownerGone s i src) := by
  unfold State.ownerGone
  repeat' first
    | with_reducible assumption
    | extract_lets +onlyGivenNames kx; refine @Keeps.cut _ r₀ kx ?_ ?_; subst kx; rotate_left; clear_value kx; intro hkx
    | extract_lets +onlyGivenNames kx; subst kx
    | with_reducible apply State.updReq_keeps
    | with_reducible apply State.completeIf_keeps
    | with_reducible apply State.forget_keeps
    | with_reducible apply State.leftEvent_keeps
    | with_reducible apply Keeps.set; with_reducible assumption
    | split

theorem State.commitAckIn_keeps {r₀ : State} {s : State} (src epoch : Nat) (r : GRec) (hk : Keeps r₀ s) :
    Keeps r₀ (State.commitAckIn s src epoch r) := by
  unfold State.commitAckIn
  repeat' first
    | with_reducible assumption
    | extract_lets +onlyGivenNames kx; refine @Keeps.cut _ r₀ kx ?_ ?_; subst kx; rotate_left; clear_value kx; intro hkx
    | extract_lets +onlyGivenNames kx; subst kx
    | with_reducible apply State.closeGraft_keeps
    | with_reducible apply State.sendFailed_keeps
    | with_reducible apply State.keepAsHolder_keeps
    | with_reducible apply State.parkCommitted_keeps
    | with_reducible apply State.ownerGone_keeps
    | with_reducible apply Keeps.ite
    | split

theorem execCommitAck_keeps {r₀ : State} (src : BitVec 12) (mapEpoch : BitVec 16) (r : GRec) {s : State} (hk : Keeps r₀ s) :
    KeepsX r₀ (execCommitAck src mapEpoch r s) := by
  unfold execCommitAck
  repeat' first
    | with_reducible assumption
    | with_reducible intro hkf
    | with_reducible apply State.onRecord_keeps
    | with_reducible apply State.commitAckIn_keeps

theorem State.abortIn_keeps {r₀ : State} {s : State} (src epoch : Nat) (r : GRec) (hk : Keeps r₀ s) :
    Keeps r₀ (State.abortIn s src epoch r) := by
  unfold State.abortIn
  repeat' first
    | with_reducible assumption
    | extract_lets +onlyGivenNames kx; subst kx
    | with_reducible apply State.closeGraft_keeps
    | with_reducible apply State.recover_keeps
    | with_reducible apply State.dropReceived_keeps
    | with_reducible apply State.sendFailed_keeps
    | with_reducible apply Keeps.ite
    | with_reducible apply Keeps.set; with_reducible assumption
    | split

theorem execAbortRec_keeps {r₀ : State} (src : BitVec 12) (mapEpoch : BitVec 16) (r : GRec) {s : State} (hk : Keeps r₀ s) :
    KeepsX r₀ (execAbortRec src mapEpoch r s) := by
  unfold execAbortRec
  repeat' first
    | with_reducible assumption
    | with_reducible intro hkf
    | with_reducible apply State.onRecord_keeps
    | with_reducible apply State.abortIn_keeps

theorem State.holderFor_keeps {r₀ : State} {s : State} (src epoch reqId : Nat) (hk : Keeps r₀ s) :
    KeepsP r₀ (State.holderFor s src epoch reqId) := by
  unfold State.holderFor
  repeat' first
    | with_reducible assumption
    | extract_lets +onlyGivenNames kx; subst kx
    | with_reducible apply KeepsP.ite
    | with_reducible apply KeepsP.mk; fail_if_success (with_reducible apply KeepsP.proj)
    | with_reducible apply Keeps.set; with_reducible assumption
    | split

theorem State.pullIn_keeps {r₀ : State} {s : State} (src epoch : Nat) (r : GRec) (hk : Keeps r₀ s) :
    Keeps r₀ (State.pullIn s src epoch r) := by
  unfold State.pullIn
  repeat' first
    | with_reducible assumption
    | extract_lets +onlyGivenNames kx; refine @Keeps.cut _ r₀ kx ?_ ?_; subst kx; rotate_left; clear_value kx; intro hkx
    | extract_lets +onlyGivenNames kx; subst kx
    | with_reducible apply State.sendCtl_keeps
    | with_reducible apply State.pumpCtl_keeps
    | with_reducible apply State.graftPump_keeps
    | with_reducible apply State.expireHolder_keeps
    | with_reducible apply State.meetClaim_keeps
    | with_reducible apply State.holderFor_keeps
    | with_reducible apply Keeps.ite
    | with_reducible apply Keeps.set; with_reducible assumption
    | with_reducible apply Keeps.set; with_reducible refine KeepsP.fst (by assumption) ?_
    | split

theorem execPull_keeps {r₀ : State} (src : BitVec 12) (mapEpoch : BitVec 16) (r : GRec) {s : State} (hk : Keeps r₀ s) :
    KeepsX r₀ (execPull src mapEpoch r s) := by
  unfold execPull
  repeat' first
    | with_reducible assumption
    | with_reducible intro hkf
    | with_reducible apply State.onRecord_keeps
    | with_reducible apply State.pullIn_keeps

theorem State.pullWhole_keeps {r₀ : State} {s : State} (k : Nat) (hk : Keeps r₀ s) : Keeps r₀ (State.pullWhole s k) := by
  unfold State.pullWhole
  repeat' first
    | with_reducible assumption
    | extract_lets +onlyGivenNames kx; subst kx
    | with_reducible apply State.sendCtl_keeps
    | with_reducible apply State.pumpCtl_keeps
    | with_reducible apply State.closeGraft_keeps
    | with_reducible apply Keeps.ite

theorem State.plotsGone_keeps {r₀ : State} {s : State} (i : Nat) (hk : Keeps r₀ s) : Keeps r₀ (State.plotsGone s i) := by
  unfold State.plotsGone
  repeat' first
    | with_reducible assumption
    | extract_lets +onlyGivenNames kx; refine @Keeps.cut _ r₀ kx ?_ ?_; subst kx; rotate_left; clear_value kx; intro hkx
    | extract_lets +onlyGivenNames kx; subst kx
    | with_reducible apply State.updReq_keeps
    | with_reducible apply State.dropPlots_keeps
    | with_reducible apply Keeps.ite

theorem State.pullDoneIn_keeps {r₀ : State} {s : State} (src epoch : Nat) (r : GRec) (hk : Keeps r₀ s) :
    Keeps r₀ (State.pullDoneIn s src epoch r) := by
  unfold State.pullDoneIn
  repeat' first
    | with_reducible assumption
    | with_reducible apply State.updGraft_keeps
    | with_reducible apply State.closeGraft_keeps
    | with_reducible apply State.pullWhole_keeps
    | with_reducible apply State.plotsGone_keeps
    | with_reducible apply Keeps.ite
    | split

theorem execPullDone_keeps {r₀ : State} (src : BitVec 12) (mapEpoch : BitVec 16) (r : GRec) {s : State} (hk : Keeps r₀ s) :
    KeepsX r₀ (execPullDone src mapEpoch r s) := by
  unfold execPullDone
  repeat' first
    | with_reducible assumption
    | with_reducible intro hkf
    | with_reducible apply State.onRecord_keeps
    | with_reducible apply State.pullDoneIn_keeps

theorem State.pullDoneAckIn_keeps {r₀ : State} {s : State} (src epoch : Nat) (r : GRec) (hk : Keeps r₀ s) :
    Keeps r₀ (State.pullDoneAckIn s src epoch r) := by
  unfold State.pullDoneAckIn
  repeat' first
    | with_reducible assumption
    | extract_lets +onlyGivenNames kx; refine @Keeps.cut _ r₀ kx ?_ ?_; subst kx; rotate_left; clear_value kx; intro hkx
    | with_reducible apply State.closeGraft_keeps
    | with_reducible apply State.dropHolder_keeps
    | split

theorem execPullDoneAck_keeps {r₀ : State} (src : BitVec 12) (mapEpoch : BitVec 16) (r : GRec) {s : State}
    (hk : Keeps r₀ s) :
    KeepsX r₀ (execPullDoneAck src mapEpoch r s) := by
  unfold execPullDoneAck
  repeat' first
    | with_reducible assumption
    | with_reducible intro hkf
    | with_reducible apply State.onRecord_keeps
    | with_reducible apply State.pullDoneAckIn_keeps

theorem State.releaseIn_keeps {r₀ : State} {s : State} (src epoch : Nat) (r : GRec) (hk : Keeps r₀ s) :
    Keeps r₀ (State.releaseIn s src epoch r) := by
  unfold State.releaseIn
  repeat' first
    | with_reducible assumption
    | extract_lets +onlyGivenNames kx; refine @Keeps.cut _ r₀ kx ?_ ?_; subst kx; rotate_left; clear_value kx; intro hkx
    | with_reducible apply State.closeGraft_keeps
    | with_reducible apply State.dropHolder_keeps
    | with_reducible apply State.meetClaim_keeps
    | with_reducible apply State.holderFor_keeps
    | with_reducible apply Keeps.set; with_reducible refine KeepsP.fst (by assumption) ?_
    | split

theorem execReleaseRec_keeps {r₀ : State} (src : BitVec 12) (mapEpoch : BitVec 16) (r : GRec) {s : State}
    (hk : Keeps r₀ s) :
    KeepsX r₀ (execReleaseRec src mapEpoch r s) := by
  unfold execReleaseRec
  repeat' first
    | with_reducible assumption
    | with_reducible intro hkf
    | with_reducible apply State.onRecord_keeps
    | with_reducible apply State.releaseIn_keeps

theorem State.expiredIn_keeps {r₀ : State} {s : State} (src epoch : Nat) (r : GRec) (hk : Keeps r₀ s) :
    Keeps r₀ (State.expiredIn s src epoch r) := by
  unfold State.expiredIn
  repeat' first
    | with_reducible assumption
    | extract_lets +onlyGivenNames kx; refine @Keeps.cut _ r₀ kx ?_ ?_; subst kx; rotate_left; clear_value kx; intro hkx
    | extract_lets +onlyGivenNames kx; subst kx
    | with_reducible apply State.closeGraft_keeps
    | with_reducible apply State.meetClaim_keeps
    | with_reducible apply State.plotsGone_keeps
    | with_reducible apply Keeps.ite
    | split

theorem execExpiredRec_keeps {r₀ : State} (src : BitVec 12) (mapEpoch : BitVec 16) (r : GRec) {s : State}
    (hk : Keeps r₀ s) :
    KeepsX r₀ (execExpiredRec src mapEpoch r s) := by
  unfold execExpiredRec
  repeat' first
    | with_reducible assumption
    | with_reducible intro hkf
    | with_reducible apply State.onRecord_keeps
    | with_reducible apply State.expiredIn_keeps

theorem execGraftCntClr_keeps {r₀ : State} {s : State} (hk : Keeps r₀ s) : KeepsX r₀ (execGraftCntClr s) := by
  unfold execGraftCntClr
  repeat' first
    | with_reducible assumption
    | extract_lets +onlyGivenNames kx; subst kx
    | with_reducible apply KeepsX.next
    | with_reducible apply KeepsX.ite
    | with_reducible apply Keeps.set; with_reducible assumption

theorem State.tagMsg_keeps {r₀ : State} {s : State} (c : Nat) (p : Pkt) (slot : Option Nat) (hk : Keeps r₀ s) :
    Keeps r₀ (State.tagMsg s c p slot) := by
  unfold State.tagMsg
  repeat' first
    | with_reducible assumption
    | with_reducible apply State.updConn_keeps

theorem State.graftAddr_keeps {r₀ : State} {s : State} (p : Pkt) (hk : Keeps r₀ s) : KeepsP r₀ (State.graftAddr s p) := by
  unfold State.graftAddr
  repeat' first
    | with_reducible assumption
    | extract_lets +onlyGivenNames kx; subst kx
    | with_reducible apply State.translate_keeps
    | with_reducible apply KeepsP.ite
    | with_reducible apply KeepsP.mk; fail_if_success (with_reducible apply KeepsP.proj)
    | with_reducible apply Keeps.set; with_reducible refine KeepsP.fst (by assumption) ?_
    | split

theorem State.graftDataIn_keeps {r₀ : State} {s : State} (p : Pkt) (hk : Keeps r₀ s) :
    Keeps r₀ (State.graftDataIn s p) := by
  unfold State.graftDataIn
  repeat' first
    | with_reducible assumption
    | extract_lets +onlyGivenNames kx; subst kx
    | with_reducible apply State.violateAt_keeps
    | with_reducible apply State.sendErr_keeps
    | with_reducible apply State.admitData_keeps
    | with_reducible apply State.putOrHold_keeps
    | with_reducible apply State.tryCommits_keeps
    | with_reducible apply State.tagMsg_keeps
    | with_reducible apply State.graftAddr_keeps
    | with_reducible apply Keeps.ite
    | with_reducible apply Keeps.set; with_reducible refine KeepsP.fst (by assumption) ?_
    | split

theorem execGraftDataReceive_keeps {r₀ : State} (p : Pkt) {s : State} (hk : Keeps r₀ s) :
    KeepsX r₀ (execGraftDataReceive p s) := by
  unfold execGraftDataReceive
  repeat' first
    | with_reducible assumption
    | with_reducible apply State.arrive_keeps
    | with_reducible apply State.graftDataIn_keeps
    | with_reducible apply KeepsX.next
    | with_reducible apply KeepsX.ite
    | with_reducible apply KeepsP.proj

theorem State.roomPulled_keeps {r₀ : State} {s : State} (i page : Nat) (hk : Keeps r₀ s) :
    KeepsO r₀ (State.roomPulled s i page) := by
  unfold State.roomPulled
  repeat' first
    | with_reducible assumption
    | extract_lets +onlyGivenNames kx; refine @Keeps.cut _ r₀ kx ?_ ?_; subst kx; rotate_left; clear_value kx; intro hkx
    | extract_lets +onlyGivenNames kx; subst kx
    | with_reducible apply State.updReq_keeps
    | with_reducible apply State.allocOrPrune_keeps
    | with_reducible apply KeepsO.none
    | with_reducible apply KeepsO.some
    | with_reducible apply Keeps.set; with_reducible refine KeepsP.fst (by assumption) ?_
    | split

theorem State.pullKept_keeps {r₀ : State} {s : State} (i page : Nat) (hk : Keeps r₀ s) :
    Keeps r₀ (State.pullKept s i page) := by
  unfold State.pullKept
  repeat' first
    | with_reducible assumption
    | with_reducible apply State.updReq_keeps

theorem State.fillPulled_keeps {r₀ : State} {s : State} (i page : Nat) (data : List Byte) (hk : Keeps r₀ s) :
    Keeps r₀ (State.fillPulled s i page data) := by
  unfold State.fillPulled
  repeat' first
    | with_reducible assumption
    | with_reducible apply State.putMem_keeps
    | with_reducible apply State.pullKept_keeps
    | split

theorem State.placePulled_keeps {r₀ : State} {s : State} (i page : Nat) (data : List Byte) (hk : Keeps r₀ s) :
    KeepsP r₀ (State.placePulled s i page data) := by
  unfold State.placePulled
  repeat' first
    | with_reducible assumption
    | with_reducible apply State.roomPulled_keeps
    | with_reducible apply State.fillPulled_keeps
    | with_reducible apply KeepsP.mk; fail_if_success (with_reducible apply KeepsP.proj)
    | with_reducible apply Keeps.set; with_reducible refine KeepsO.get (by assumption) ?_
    | split

theorem State.framePulled_keeps {r₀ : State} {s : State} (k page slot n : Nat) (hk : Keeps r₀ s) :
    Keeps r₀ (State.framePulled s k page slot n) := by
  unfold State.framePulled
  repeat' first
    | with_reducible assumption
    | extract_lets +onlyGivenNames kx; refine @Keeps.cut _ r₀ kx ?_ ?_; subst kx; rotate_left; clear_value kx; intro hkx
    | extract_lets +onlyGivenNames kx; subst kx
    | with_reducible apply State.countRefused_keeps
    | with_reducible apply State.updGraft_keeps
    | with_reducible apply State.abortGraft_keeps
    | with_reducible apply State.recover_keeps
    | with_reducible apply State.pullWhole_keeps
    | with_reducible apply State.roomPulled_keeps
    | with_reducible apply State.fillPulled_keeps
    | with_reducible apply Keeps.set; with_reducible refine KeepsO.get (by assumption) ?_
    | split

theorem State.frameParked_keeps {r₀ : State} {s : State} (k page slot n : Nat) (hk : Keeps r₀ s) :
    Keeps r₀ (State.frameParked s k page slot n) := by
  unfold State.frameParked
  repeat' first
    | with_reducible assumption
    | extract_lets +onlyGivenNames kx; refine @Keeps.cut _ r₀ kx ?_ ?_; subst kx; rotate_left; clear_value kx; intro hkx
    | extract_lets +onlyGivenNames kx; subst kx
    | with_reducible apply State.t3Put_keeps
    | with_reducible apply State.placeBytes_keeps
    | with_reducible apply State.countTier_keeps
    | with_reducible apply State.updFtl_keeps
    | with_reducible apply State.countT3_keeps
    | with_reducible apply Keeps.set; with_reducible assumption
    | split

theorem State.graftFrameIn_keeps {r₀ : State} {s : State} (p : Pkt) (hk : Keeps r₀ s) :
    Keeps r₀ (State.graftFrameIn s p) := by
  unfold State.graftFrameIn
  repeat' first
    | with_reducible assumption
    | extract_lets +onlyGivenNames kx; refine @Keeps.cut _ r₀ kx ?_ ?_; subst kx; rotate_left; clear_value kx; intro hkx
    | extract_lets +onlyGivenNames kx; subst kx
    | with_reducible apply State.countRx_keeps
    | with_reducible apply State.placeBytes_keeps
    | with_reducible apply State.sendErr_keeps
    | with_reducible apply State.placed_keeps
    | with_reducible apply State.admitData_keeps
    | with_reducible apply State.tryCommits_keeps
    | with_reducible apply State.tagMsg_keeps
    | with_reducible apply State.framePulled_keeps
    | with_reducible apply State.frameParked_keeps
    | with_reducible apply Keeps.ite
    | with_reducible apply Keeps.set; with_reducible refine KeepsP.fst (by assumption) ?_
    | split

theorem execGraftFrameReceive_keeps {r₀ : State} (p : Pkt) {s : State} (hk : Keeps r₀ s) :
    KeepsX r₀ (execGraftFrameReceive p s) := by
  unfold execGraftFrameReceive
  repeat' first
    | with_reducible assumption
    | with_reducible apply State.arrive_keeps
    | with_reducible apply State.graftFrameIn_keeps
    | with_reducible apply KeepsX.next
    | with_reducible apply KeepsX.ite
    | with_reducible apply KeepsP.proj

theorem State.actRecord_keeps {r₀ s : State} (src epoch : Nat) (x : Nat × GRec) (hk : Keeps r₀ s) :
    Keeps r₀ (s.actRecord src epoch x) := by
  unfold State.actRecord
  repeat' first
    | with_reducible assumption
    | with_reducible apply State.openIn_keeps
    | with_reducible apply State.openAckIn_keeps
    | with_reducible apply State.commitIn_keeps
    | with_reducible apply State.commitAckIn_keeps
    | with_reducible apply State.abortIn_keeps
    | with_reducible apply State.pullIn_keeps
    | with_reducible apply State.pullDoneIn_keeps
    | with_reducible apply State.pullDoneAckIn_keeps
    | with_reducible apply State.releaseIn_keeps
    | with_reducible apply State.expiredIn_keeps
    | split

theorem State.recordPacket_keeps {r₀ : State} {s : State} (p : Pkt) (hk : Keeps r₀ s) :
    Keeps r₀ (State.recordPacket s p) := by
  unfold State.recordPacket
  repeat' first
    | with_reducible assumption
    | extract_lets +onlyGivenNames kx; subst kx
    | with_reducible apply State.admitData_keeps
    | with_reducible apply State.judgeRecord_keeps
    | with_reducible apply State.actRecord_keeps
    | with_reducible apply Keeps.set; with_reducible refine KeepsP.fst (by assumption) ?_
    | split

theorem State.raePacket_keeps {r₀ : State} {s : State} (p : Pkt) (hk : Keeps r₀ s) : Keeps r₀ (State.raePacket s p) := by
  unfold State.raePacket
  repeat' first
    | with_reducible assumption
    | with_reducible apply State.rqWrite_keeps
    | with_reducible apply State.rqReadReq_keeps
    | with_reducible apply State.rqReadResp_keeps
    | with_reducible apply State.raeAck_keeps
    | with_reducible apply State.graftPump_keeps
    | with_reducible apply State.rqErr_keeps
    | with_reducible apply State.graftDataIn_keeps
    | with_reducible apply State.graftFrameIn_keeps
    | with_reducible apply State.recordPacket_keeps
    | split

theorem State.missRun_keeps {r₀ : State} {s : State} (d c : Nat) (hk : Keeps r₀ s) : Keeps r₀ (State.missRun s d c) := by
  unfold State.missRun
  repeat' first
    | with_reducible assumption
    | extract_lets +onlyGivenNames kx; refine @Keeps.cut _ r₀ kx ?_ ?_; subst kx; rotate_left; clear_value kx; intro hkx
    | extract_lets +onlyGivenNames kx; subst kx
    | with_reducible apply State.updLnd_keeps
    | with_reducible apply State.raePacket_keeps
    | with_reducible refine Keeps.foldl ?_ ?_; intro _ _ _

theorem execContextFill_keeps {r₀ : State} (die : Fin 2) (conn : BitVec 20) {s : State} (hk : Keeps r₀ s) :
    KeepsX r₀ (execContextFill die conn s) := by
  unfold execContextFill
  repeat' first
    | with_reducible assumption
    | extract_lets +onlyGivenNames kx; subst kx
    | with_reducible apply State.updLnd_keeps
    | with_reducible apply State.updConn_keeps
    | with_reducible apply State.makeRoom_keeps
    | with_reducible apply State.missRun_keeps
    | with_reducible apply KeepsX.next
    | with_reducible apply KeepsX.ite
    | with_reducible apply Keeps.set; with_reducible refine KeepsO.get (by assumption) ?_
    | split

end Sys2Proof.Machine
end

