-- ==== Sys2Proof/Laws/FrameTiers.lean ====
section
/-!
SUPPORT. Sys2Proof/Laws/FrameTiers.lean: what the operations and commands of Machine/Tiers.lean keep (`Keeps`): the queue, the
Cloche, programmed fuses and the canonical form of every byte memory.
-/
namespace Sys2Proof.Machine

theorem State.freeSlotPlot_keeps {r₀ : State} {s : State} (k vpn : Nat) (hk : Keeps r₀ s) :
    Keeps r₀ (State.freeSlotPlot s k vpn) := by
  unfold State.freeSlotPlot
  repeat' first
    | with_reducible assumption
    | extract_lets +onlyGivenNames kx; subst kx
    | with_reducible apply State.updSlot_keeps
    | with_reducible apply State.freePlace_keeps
    | with_reducible apply State.setPage_keeps
    | split

theorem execTierFree_keeps {r₀ : State} (asid : BitVec 16) (vpn : Nat) {s : State} (hk : Keeps r₀ s) :
    KeepsX r₀ (execTierFree asid vpn s) := by
  unfold execTierFree
  repeat' first
    | with_reducible assumption
    | extract_lets +onlyGivenNames kx; subst kx
    | with_reducible apply State.freePage_keeps
    | with_reducible apply State.freeSlotPlot_keeps
    | with_reducible apply KeepsX.next
    | with_reducible apply KeepsX.ite
    | split

theorem State.moveDst_keeps {r₀ : State} {s : State} (i page : Nat) (p : Place) (hk : Keeps r₀ s) :
    KeepsOP r₀ (State.moveDst s i page p) := by
  unfold State.moveDst
  repeat' first
    | with_reducible assumption
    | with_reducible intro hkf
    | extract_lets +onlyGivenNames kx; refine @Keeps.cut _ r₀ kx ?_ ?_; subst kx; rotate_left; clear_value kx; intro hkx
    | extract_lets +onlyGivenNames kx; subst kx
    | with_reducible apply State.takePlot_keeps
    | with_reducible apply State.makeSpace_keeps
    | with_reducible apply KeepsOP.ite
    | with_reducible apply KeepsP.mk; fail_if_success (with_reducible apply KeepsP.proj)
    | with_reducible apply KeepsOP.none
    | with_reducible apply KeepsOP.some
    | with_reducible apply Keeps.set; with_reducible assumption
    | with_reducible apply Keeps.set; with_reducible refine KeepsP.fst (by assumption) ?_
    | with_reducible apply Keeps.set; with_reducible refine KeepsOP.get (by assumption) ?_
    | with_reducible apply KeepsP.of_mk; with_reducible assumption
    | with_reducible apply KeepsOP.mapP
    | split

theorem State.startInv_keeps {r₀ : State} {s : State} (asid vpn : Nat) (hk : Keeps r₀ s) :
    Keeps r₀ (State.startInv s asid vpn) := by
  unfold State.startInv
  repeat' first
    | extract_lets +onlyGivenNames kx; subst kx
    | with_reducible apply State.invCmd_keeps
    | with_reducible apply Keeps.set; with_reducible assumption

theorem State.beginMove_keeps {r₀ : State} {s : State} (m : MoveRec) (hk : Keeps r₀ s) :
    Keeps r₀ (State.beginMove s m) := by
  unfold State.beginMove
  repeat' first
    | extract_lets +onlyGivenNames kx; subst kx
    | with_reducible apply State.setLeaf_keeps
    | with_reducible apply State.startInv_keeps
    | with_reducible apply Keeps.set; with_reducible assumption

theorem execTierMove_keeps {r₀ : State} (asid : BitVec 16) (vpn : Nat) (tier : Tier) {s : State} (hk : Keeps r₀ s) :
    KeepsX r₀ (execTierMove asid vpn tier s) := by
  unfold execTierMove
  repeat' first
    | with_reducible assumption
    | extract_lets +onlyGivenNames kx; subst kx
    | with_reducible apply State.moveDst_keeps
    | with_reducible apply State.beginMove_keeps
    | with_reducible apply KeepsX.next
    | with_reducible apply KeepsX.ite
    | with_reducible apply Keeps.set; with_reducible refine KeepsOP.get (by assumption) ?_
    | split

theorem State.setMove_keeps {r₀ : State} {s : State} (m : MoveRec) (stage : MoveStage) (hk : Keeps r₀ s) :
    Keeps r₀ (State.setMove s m stage) := by
  unfold State.setMove
  repeat' first
    | extract_lets +onlyGivenNames kx; subst kx
    | with_reducible apply Keeps.set; with_reducible assumption

theorem State.endMove_keeps {r₀ : State} {s : State} (m : MoveRec) (hk : Keeps r₀ s) : Keeps r₀ (State.endMove s m) := by
  unfold State.endMove
  repeat' first
    | extract_lets +onlyGivenNames kx; subst kx
    | with_reducible apply State.heldCancel_keeps
    | with_reducible apply Keeps.set; with_reducible assumption

theorem State.moveInvalidated_keeps {r₀ : State} {s : State} (m : MoveRec) (hk : Keeps r₀ s) :
    Keeps r₀ (State.moveInvalidated s m) := by
  unfold State.moveInvalidated
  repeat' first
    | with_reducible assumption
    | with_reducible apply State.charge_keeps
    | with_reducible apply State.freePlace_keeps
    | with_reducible apply State.setMove_keeps
    | with_reducible apply State.endMove_keeps
    | split

theorem State.secondInv_keeps {r₀ : State} {s : State} (hk : Keeps r₀ s) : Keeps r₀ (State.secondInv s) := by
  unfold State.secondInv
  repeat' first
    | with_reducible assumption
    | with_reducible apply State.startInv_keeps
    | with_reducible apply State.setMove_keeps
    | with_reducible apply Keeps.ite
    | split

theorem execInvalidationDone_keeps {r₀ : State} {s : State} (hk : Keeps r₀ s) : KeepsX r₀ (execInvalidationDone s) := by
  unfold execInvalidationDone
  repeat' first
    | with_reducible assumption
    | extract_lets +onlyGivenNames kx; refine @Keeps.cut _ r₀ kx ?_ ?_; subst kx; rotate_left; clear_value kx; intro hkx
    | extract_lets +onlyGivenNames kx; subst kx
    | with_reducible apply State.dropTlb_keeps
    | with_reducible apply State.moveInvalidated_keeps
    | with_reducible apply State.secondInv_keeps
    | with_reducible apply Keeps.ite
    | with_reducible apply KeepsX.next
    | with_reducible apply KeepsX.ite
    | with_reducible apply Keeps.set; with_reducible assumption
    | with_reducible refine Keeps.foldl ?_ ?_; intro _ _ _
    | split

theorem State.fillPlace_keeps {r₀ : State} {s : State} (tn : Nat) (p : Place) (bs : List Byte) (hk : Keeps r₀ s) :
    KeepsO r₀ (State.fillPlace s tn p bs) := by
  unfold State.fillPlace
  repeat' first
    | with_reducible assumption
    | with_reducible intro hkf
    | extract_lets +onlyGivenNames kx; refine @Keeps.cut _ r₀ kx ?_ ?_; subst kx; rotate_left; clear_value kx; intro hkx
    | extract_lets +onlyGivenNames kx; subst kx
    | with_reducible apply State.putMem_keeps
    | with_reducible apply State.countTier_keeps
    | with_reducible apply State.ftlWrite_keeps
    | with_reducible apply State.countT3_keeps
    | with_reducible apply State.packPlot_keeps
    | with_reducible apply Keeps.ite
    | with_reducible apply KeepsO.none
    | with_reducible apply KeepsO.some
    | with_reducible apply KeepsO.mapS
    | with_reducible apply KeepsP.proj
    | split

theorem State.countRead_keeps {r₀ : State} {s : State} (tn : Nat) (p : Place) (hk : Keeps r₀ s) :
    Keeps r₀ (State.countRead s tn p) := by
  unfold State.countRead
  repeat' first
    | with_reducible assumption
    | with_reducible apply State.countTier_keeps
    | with_reducible apply State.countT3_keeps
    | split

theorem State.moveFailed_keeps {r₀ : State} {s : State} (m : MoveRec) (status : Nat) (hk : Keeps r₀ s) :
    Keeps r₀ (State.moveFailed s m status) := by
  unfold State.moveFailed
  repeat' first
    | with_reducible assumption
    | with_reducible apply State.tenantEvent_keeps

theorem State.remap_keeps {r₀ : State} {s : State} (m : MoveRec) (p : Place) (hk : Keeps r₀ s) :
    Keeps r₀ (State.remap s m p) := by
  unfold State.remap
  repeat' first
    | with_reducible assumption
    | with_reducible apply State.updReq_keeps
    | with_reducible apply State.setLeaf_keeps

theorem State.moveLost_keeps {r₀ : State} {s : State} (m : MoveRec) (hk : Keeps r₀ s) : Keeps r₀ (State.moveLost s m) := by
  unfold State.moveLost
  repeat' first
    | with_reducible assumption
    | with_reducible apply State.updReq_keeps
    | with_reducible apply State.freePage_keeps
    | with_reducible apply State.endMove_keeps

theorem State.moveCopied_keeps {r₀ : State} {s : State} (m : MoveRec) (status : Nat) (hk : Keeps r₀ s) :
    Keeps r₀ (State.moveCopied s m status) := by
  unfold State.moveCopied
  repeat' first
    | with_reducible assumption
    | extract_lets +onlyGivenNames kx; refine @Keeps.cut _ r₀ kx ?_ ?_; subst kx; rotate_left; clear_value kx; intro hkx
    | extract_lets +onlyGivenNames kx; subst kx
    | with_reducible apply State.freePlace_keeps
    | with_reducible apply State.setMove_keeps
    | with_reducible apply State.endMove_keeps
    | with_reducible apply State.secondInv_keeps
    | with_reducible apply State.fillPlace_keeps
    | with_reducible apply State.countRead_keeps
    | with_reducible apply State.moveFailed_keeps
    | with_reducible apply State.remap_keeps
    | with_reducible apply State.moveLost_keeps
    | with_reducible apply Keeps.ite
    | with_reducible apply Keeps.set; with_reducible refine KeepsO.get (by assumption) ?_
    | split

theorem State.commitPark_keeps {r₀ : State} {s : State} (i : Nat) (hk : Keeps r₀ s) : Keeps r₀ (State.commitPark s i) := by
  unfold State.commitPark
  repeat' first
    | with_reducible assumption
    | extract_lets +onlyGivenNames kx; refine @Keeps.cut _ r₀ kx ?_ ?_; subst kx; rotate_left; clear_value kx; intro hkx
    | extract_lets +onlyGivenNames kx; subst kx
    | with_reducible apply State.updReq_keeps
    | with_reducible apply State.charge_keeps
    | with_reducible apply State.freePlace_keeps
    | with_reducible apply State.setPage_keeps
    | with_reducible apply State.completeIf_keeps
    | with_reducible apply State.rebind_keeps
    | with_reducible refine Keeps.foldl ?_ ?_; intro _ _ _
    | split

theorem State.reservePark_keeps {r₀ s : State} (tier : Nat) (ps : List Nat) (hk : Keeps r₀ s) :
    KeepsOP r₀ (s.reservePark tier ps) := by
  induction ps generalizing s with
  | nil => exact KeepsOP.some hk
  | cons p ps ih =>
    unfold State.reservePark
    repeat' first
      | with_reducible apply ih
      | with_reducible assumption
      | with_reducible intro hkf
      | with_reducible apply State.takePlot_keeps
      | with_reducible apply KeepsOP.none
      | with_reducible apply Keeps.set; with_reducible refine KeepsOP.get (by assumption) ?_
      | with_reducible apply KeepsOP.mapP
      | split
      | with_reducible apply KeepsP.mk; with_reducible apply KeepsP.proj; first | with_reducible assumption | with_reducible apply State.takePlot_keeps

theorem execLocalPark_keeps {r₀ : State} (req : Nat) {s : State} (hk : Keeps r₀ s) : KeepsX r₀ (execLocalPark req s) := by
  unfold execLocalPark
  repeat' first
    | with_reducible assumption
    | extract_lets +onlyGivenNames kx; subst kx
    | with_reducible apply State.updReq_keeps
    | with_reducible apply State.killPark_keeps
    | with_reducible apply State.commitPark_keeps
    | with_reducible apply State.reservePark_keeps
    | with_reducible apply KeepsX.next
    | with_reducible apply KeepsX.ite
    | with_reducible apply Keeps.set; with_reducible refine KeepsOP.get (by assumption) ?_
    | split

theorem State.parkCopied_keeps {r₀ : State} {s : State} (i page : Nat) (dst : Place) (status : Nat) (hk : Keeps r₀ s) :
    Keeps r₀ (State.parkCopied s i page dst status) := by
  unfold State.parkCopied
  repeat' first
    | with_reducible assumption
    | extract_lets +onlyGivenNames kx; refine @Keeps.cut _ r₀ kx ?_ ?_; subst kx; rotate_left; clear_value kx; intro hkx
    | extract_lets +onlyGivenNames kx; subst kx
    | with_reducible apply State.updReq_keeps
    | with_reducible apply State.killPark_keeps
    | with_reducible apply State.fillPlace_keeps
    | with_reducible apply State.countRead_keeps
    | with_reducible apply State.commitPark_keeps
    | with_reducible apply Keeps.ite
    | with_reducible apply Keeps.set; with_reducible refine KeepsO.get (by assumption) ?_
    | split

theorem execMoveCopyDone_keeps {r₀ : State} (asid : BitVec 16) (vpn : Nat) (fin : CopyEnd)
    {s : State} (hk : Keeps r₀ s) :
    KeepsX r₀ (execMoveCopyDone asid vpn fin s) := by
  unfold execMoveCopyDone
  repeat' first
    | with_reducible assumption
    | extract_lets +onlyGivenNames kx; subst kx
    | with_reducible apply State.placeRead_keeps
    | with_reducible apply State.moveCopied_keeps
    | with_reducible apply State.parkCopied_keeps
    | with_reducible apply KeepsX.next
    | with_reducible apply KeepsX.ite
    | split

theorem State.pullLocal_keeps {r₀ : State} {s : State} (i page : Nat) (old : Place) (o : LdpcOutcome) (hk : Keeps r₀ s) :
    Keeps r₀ (State.pullLocal s i page old o) := by
  unfold State.pullLocal
  repeat' first
    | with_reducible assumption
    | extract_lets +onlyGivenNames kx; subst kx
    | with_reducible apply State.placeRead_keeps
    | with_reducible apply State.freePlace_keeps
    | with_reducible apply State.recover_keeps
    | with_reducible apply State.pullKept_keeps
    | with_reducible apply State.placePulled_keeps
    | with_reducible apply State.countRead_keeps
    | with_reducible apply Keeps.ite
    | with_reducible apply Keeps.set; with_reducible refine KeepsP.fst (by assumption) ?_
    | split

theorem State.pullRemote_keeps {r₀ : State} {s : State} (i page : Nat) (hk : Keeps r₀ s) :
    Keeps r₀ (State.pullRemote s i page) := by
  unfold State.pullRemote
  repeat' first
    | with_reducible assumption
    | with_reducible apply State.sendPull_keeps
    | with_reducible apply State.framePulled_keeps
    | split

theorem execPullPlace_keeps {r₀ : State} (req : Nat) (page : PulledPage) {s : State} (hk : Keeps r₀ s) :
    KeepsX r₀ (execPullPlace req page s) := by
  unfold execPullPlace
  repeat' first
    | with_reducible assumption
    | extract_lets +onlyGivenNames kx; subst kx
    | with_reducible apply State.graftPump_keeps
    | with_reducible apply State.pullKept_keeps
    | with_reducible apply State.pullLocal_keeps
    | with_reducible apply State.pullRemote_keeps
    | with_reducible apply KeepsX.next
    | with_reducible apply KeepsX.ite
    | split

theorem State.pinPlot_keeps {r₀ : State} {s : State} (tile slot off src : Nat) (hk : Keeps r₀ s) :
    Keeps r₀ (State.pinPlot s tile slot off src) := by
  unfold State.pinPlot
  repeat' first
    | with_reducible assumption
    | extract_lets +onlyGivenNames kx; refine @Keeps.cut _ r₀ kx ?_ ?_; subst kx; rotate_left; clear_value kx; intro hkx
    | extract_lets +onlyGivenNames kx; subst kx
    | with_reducible apply State.updSlot_keeps
    | with_reducible apply State.placeBytes_keeps
    | with_reducible apply State.charge_keeps
    | with_reducible apply State.credit_keeps
    | with_reducible apply Keeps.ite
    | with_reducible refine Keeps.foldl ?_ ?_; intro _ _ _

theorem execPin_keeps {r₀ : State} (tile : Fin 48) (slot : Nat) (off : Nat) (src : Nat) {s : State} (hk : Keeps r₀ s) :
    KeepsX r₀ (execPin tile slot off src s) := by
  unfold execPin
  repeat' first
    | with_reducible assumption
    | extract_lets +onlyGivenNames kx; subst kx
    | with_reducible apply State.pinPlot_keeps
    | with_reducible apply KeepsX.next
    | with_reducible apply KeepsX.ite

theorem execTableOldFree_keeps {r₀ : State} (slot : Fin 16384) (version : BitVec 16) {s : State} (hk : Keeps r₀ s) :
    KeepsX r₀ (execTableOldFree slot version s) := by
  unfold execTableOldFree
  repeat' first
    | with_reducible assumption
    | extract_lets +onlyGivenNames kx; refine @Keeps.cut _ r₀ kx ?_ ?_; subst kx; rotate_left; clear_value kx; intro hkx
    | extract_lets +onlyGivenNames kx; subst kx
    | with_reducible apply State.updSlot_keeps
    | with_reducible apply State.freeSlotPlot_keeps
    | with_reducible apply KeepsX.next
    | with_reducible apply KeepsX.ite
    | with_reducible refine Keeps.foldl ?_ ?_; intro _ _ _
    | split

end Sys2Proof.Machine
end

