-- ==== Sys2Proof/Laws/FrameVersions.lean ====
section
/-!
SUPPORT. Sys2Proof/Laws/FrameVersions.lean: what the operations and commands of Machine/Versions.lean keep (`Keeps`): the queue, the
Cloche, programmed fuses and the canonical form of every byte memory.
-/
namespace Sys2Proof.Machine

theorem State.writeLocal_keeps {r₀ : State} {s : State} (hk : Keeps r₀ s) : Keeps r₀ (State.writeLocal s) := by
  unfold State.writeLocal
  repeat' first
    | extract_lets +onlyGivenNames kx; subst kx
    | with_reducible apply Keeps.set; with_reducible assumption

theorem State.helloChanged_keeps {r₀ : State} {s : State} (hk : Keeps r₀ s) : Keeps r₀ (State.helloChanged s) := by
  unfold State.helloChanged
  repeat' first
    | with_reducible assumption
    | with_reducible apply State.helloUpdateAll_keeps
    | with_reducible apply State.writeLocal_keeps

theorem State.applyTenant_keeps {r₀ : State} {s : State} (tn r : Nat) (hk : Keeps r₀ s) :
    Keeps r₀ (State.applyTenant s tn r) := by
  unfold State.applyTenant
  repeat' first
    | with_reducible assumption
    | with_reducible apply State.updTenant_keeps
    | with_reducible apply State.writeTenant_keeps
    | with_reducible apply Keeps.ite

theorem State.applyPeer_keeps {r₀ : State} {s : State} (r : Nat) (hk : Keeps r₀ s) : Keeps r₀ (State.applyPeer s r) := by
  unfold State.applyPeer
  repeat' first
    | with_reducible assumption
    | extract_lets +onlyGivenNames kx; subst kx
    | with_reducible apply State.setPeer_keeps
    | with_reducible apply State.greetPeer_keeps
    | with_reducible apply Keeps.ite

theorem State.applyLink_keeps {r₀ : State} {s : State} (lk r : Nat) (hk : Keeps r₀ s) :
    KeepsO r₀ (State.applyLink s lk r) := by
  unfold State.applyLink
  repeat' first
    | with_reducible assumption
    | with_reducible apply State.updLink_keeps
    | with_reducible apply execLinkEnable_keeps
    | with_reducible apply KeepsX.next
    | with_reducible refine KeepsX.get (by assumption) ?_
    | with_reducible apply KeepsO.none
    | with_reducible apply KeepsO.some
    | split

theorem State.applyGates_keeps {r₀ : State} {s : State} (lk : Nat) (bs : List Byte) (off : Nat) (hk : Keeps r₀ s) :
    Keeps r₀ (State.applyGates s lk bs off) := by
  unfold State.applyGates
  repeat' first
    | with_reducible assumption
    | extract_lets +onlyGivenNames kx; subst kx
    | with_reducible apply State.updLink_keeps

theorem State.applyQueues_keeps {r₀ : State} {s : State} (lk : Nat) (bs : List Byte) (off : Nat) (hk : Keeps r₀ s) :
    Keeps r₀ (State.applyQueues s lk bs off) := by
  unfold State.applyQueues
  repeat' first
    | with_reducible assumption
    | with_reducible apply State.updLink_keeps

theorem State.applyFabric_keeps {r₀ : State} {s : State} (bs : List Byte) (hk : Keeps r₀ s) :
    Keeps r₀ (State.applyFabric s bs) := by
  unfold State.applyFabric
  repeat' first
    | with_reducible assumption
    | extract_lets +onlyGivenNames kx; refine @Keeps.cut _ r₀ kx ?_ ?_; subst kx; rotate_left; clear_value kx; intro hkx
    | extract_lets +onlyGivenNames kx; subst kx
    | with_reducible apply State.updLnd_keeps
    | with_reducible apply State.applyPeer_keeps
    | with_reducible apply State.applyLink_keeps
    | with_reducible apply State.applyGates_keeps
    | with_reducible apply State.applyQueues_keeps
    | with_reducible apply Keeps.getD
    | with_reducible apply Keeps.set; with_reducible assumption
    | with_reducible refine Keeps.foldl ?_ ?_; intro _ _ _

theorem State.applyLds_keeps {r₀ : State} {s : State} (bs : List Byte) (hk : Keeps r₀ s) :
    Keeps r₀ (State.applyLds s bs) := by
  unfold State.applyLds
  repeat' first
    | with_reducible assumption
    | extract_lets +onlyGivenNames kx; subst kx
    | with_reducible apply Keeps.set; with_reducible assumption
    | with_reducible refine Keeps.foldl ?_ ?_; intro _ _ _

theorem State.flipTable_keeps {r₀ : State} {s : State} (k desc : Nat) (hk : Keeps r₀ s) :
    Keeps r₀ (State.flipTable s k desc) := by
  unfold State.flipTable
  repeat' first
    | with_reducible assumption
    | extract_lets +onlyGivenNames kx; subst kx
    | with_reducible apply State.updSlot_keeps
    | with_reducible apply Keeps.ite

theorem State.cacheTiles_keeps {r₀ : State} {s : State} (hk : Keeps r₀ s) : Keeps r₀ (State.cacheTiles s) := by
  unfold State.cacheTiles
  repeat' first
    | with_reducible assumption
    | with_reducible apply State.setTpwr_keeps
    | with_reducible apply Keeps.ite
    | with_reducible refine Keeps.foldl ?_ ?_; intro _ _ _

theorem State.rebindAll_keeps {r₀ : State} {s : State} (hk : Keeps r₀ s) : Keeps r₀ (State.rebindAll s) := by
  unfold State.rebindAll
  repeat' first
    | extract_lets +onlyGivenNames kx; subst kx
    | with_reducible apply State.commitDone_keeps
    | with_reducible apply Keeps.set; with_reducible assumption

theorem State.commitVersion_keeps {r₀ : State} {s : State} (step : Nat) (hk : Keeps r₀ s) :
    Keeps r₀ (State.commitVersion s step) := by
  unfold State.commitVersion
  repeat' first
    | with_reducible assumption
    | extract_lets +onlyGivenNames kx; refine @Keeps.cut _ r₀ kx ?_ ?_; subst kx; rotate_left; clear_value kx; intro hkx
    | extract_lets +onlyGivenNames kx; subst kx
    | with_reducible apply State.devEvent_keeps
    | with_reducible apply State.helloChanged_keeps
    | with_reducible apply State.applyTenant_keeps
    | with_reducible apply State.applyFabric_keeps
    | with_reducible apply State.applyLds_keeps
    | with_reducible apply State.flipTable_keeps
    | with_reducible apply State.cacheTiles_keeps
    | with_reducible apply State.rebindAll_keeps
    | with_reducible apply Keeps.ite
    | with_reducible apply Keeps.set; with_reducible assumption
    | with_reducible refine Keeps.foldl ?_ ?_; intro _ _ _
    | split

theorem State.boundaryVersion_keeps {r₀ : State} {s : State} (step : Nat) (hk : Keeps r₀ s) :
    Keeps r₀ (State.boundaryVersion s step) := by
  unfold State.boundaryVersion
  repeat' first
    | with_reducible assumption
    | with_reducible apply State.rebindAll_keeps
    | with_reducible apply State.commitVersion_keeps
    | with_reducible apply Keeps.ite

end Sys2Proof.Machine
end

