-- ==== Sys2Proof/Laws/FrameCommit.lean ====
section
/-!
SUPPORT. Sys2Proof/Laws/FrameCommit.lean: what the operations and commands of Machine/Commit.lean keep (`Keeps`): the queue, the
Cloche, programmed fuses and the canonical form of every byte memory.
-/
namespace Sys2Proof.Machine

theorem State.performLocal_keeps {r₀ : State} {s : State} (tile : Nat) (d : Deferred) (hk : Keeps r₀ s) :
    KeepsP r₀ (State.performLocal s tile d) := by
  unfold State.performLocal
  repeat' first
    | with_reducible assumption
    | extract_lets +onlyGivenNames kx; subst kx
    | with_reducible apply State.coreWrite_keeps
    | with_reducible apply KeepsP.ite
    | with_reducible apply KeepsP.mk; fail_if_success (with_reducible apply KeepsP.proj)

theorem State.performDeferred_keeps {r₀ : State} {s : State} (tenant : Nat) (e : Nat × Nat × Deferred) (hk : Keeps r₀ s) :
    KeepsP r₀ (State.performDeferred s tenant e) := by
  unfold State.performDeferred
  repeat' first
    | with_reducible assumption
    | extract_lets +onlyGivenNames kx; subst kx
    | with_reducible apply State.performLocal_keeps
    | with_reducible apply KeepsP.ite
    | with_reducible apply KeepsP.mk; fail_if_success (with_reducible apply KeepsP.proj)
    | with_reducible apply Keeps.set; with_reducible assumption

theorem State.performAll_keeps {r₀ s : State} (tenant : Nat) (es : List (Nat × Nat × Deferred)) (hk : Keeps r₀ s) :
    KeepsP r₀ (s.performAll tenant es) := by
  induction es generalizing s with
  | nil => exact KeepsP.mk hk
  | cons e es ih =>
    unfold State.performAll
    repeat' first
      | with_reducible apply ih
      | with_reducible assumption
      | extract_lets +onlyGivenNames kx; refine @KeepsP.cut _ _ r₀ kx ?_ ?_; subst kx; rotate_left; clear_value kx; intro hkx
      | extract_lets +onlyGivenNames kx; subst kx
      | with_reducible apply State.performDeferred_keeps
      | with_reducible apply KeepsP.ite
      | with_reducible apply KeepsP.of_mk; with_reducible assumption
      | split
      | with_reducible apply KeepsP.mk; with_reducible apply KeepsP.proj; first | with_reducible assumption | with_reducible apply State.performDeferred_keeps

theorem State.publishLen_keeps {r₀ : State} {s : State} (e : Nat) (hk : Keeps r₀ s) : Keeps r₀ (State.publishLen s e) := by
  unfold State.publishLen
  repeat' first
    | with_reducible assumption
    | with_reducible apply State.updReq_keeps

theorem State.publishToken_keeps {r₀ : State} {s : State} (i tok lp : Nat) (draft : Bool) (hk : Keeps r₀ s) :
    KeepsP r₀ (State.publishToken s i tok lp draft) := by
  unfold State.publishToken
  repeat' first
    | with_reducible assumption
    | extract_lets +onlyGivenNames kx; refine @Keeps.cut _ r₀ kx ?_ ?_; subst kx; rotate_left; clear_value kx; intro hkx
    | extract_lets +onlyGivenNames kx; subst kx
    | with_reducible apply State.updReq_keeps
    | with_reducible apply State.updAcct_keeps
    | with_reducible apply State.putToken_keeps
    | with_reducible apply State.journalAdd_keeps
    | with_reducible apply Keeps.ite
    | with_reducible apply KeepsP.mk; fail_if_success (with_reducible apply KeepsP.proj)
    | with_reducible apply Keeps.set; with_reducible assumption

theorem State.publishAll_keeps {r₀ s : State} (g : Group) (skip es : List Nat) (lps : List (Nat × Nat × Bool))
    (ended : List (Nat × Nat)) (hk : Keeps r₀ s) : KeepsP r₀ (s.publishAll g skip es lps ended) := by
  induction es generalizing s lps ended with
  | nil => exact KeepsP.mk hk
  | cons e es ih =>
    unfold State.publishAll
    repeat' first
      | with_reducible apply ih
      | with_reducible assumption
      | extract_lets +onlyGivenNames kx; refine @KeepsP.cut _ _ r₀ kx ?_ ?_; subst kx; rotate_left; clear_value kx; intro hkx
      | extract_lets +onlyGivenNames kx; subst kx
      | with_reducible apply State.draw_keeps
      | with_reducible apply State.publishLen_keeps
      | with_reducible apply State.publishToken_keeps
      | with_reducible apply KeepsP.ite
      | with_reducible apply KeepsP.of_mk; with_reducible assumption
      | split

theorem State.pushChunk_keeps {r₀ : State} {s : State} (i first len : Nat) (last : Bool) (hk : Keeps r₀ s) :
    Keeps r₀ (State.pushChunk s i first len last) := by
  unfold State.pushChunk
  repeat' first
    | with_reducible assumption
    | extract_lets +onlyGivenNames kx; subst kx
    | with_reducible apply State.updGraft_keeps
    | with_reducible apply State.noDest_keeps
    | with_reducible apply Keeps.ite
    | split

theorem State.chunkDone_keeps {r₀ : State} {s : State} (w : Work) (draft : Bool) (hk : Keeps r₀ s) :
    Keeps r₀ (State.chunkDone s w draft) := by
  unfold State.chunkDone
  repeat' first
    | with_reducible assumption
    | extract_lets +onlyGivenNames kx; refine @Keeps.cut _ r₀ kx ?_ ?_; subst kx; rotate_left; clear_value kx; intro hkx
    | extract_lets +onlyGivenNames kx; subst kx
    | with_reducible apply State.updReq_keeps
    | with_reducible apply State.pushChunk_keeps
    | with_reducible apply Keeps.ite

theorem State.recomputed_keeps {r₀ : State} {s : State} (w : Work) (tn : Nat) (hk : Keeps r₀ s) :
    Keeps r₀ (State.recomputed s w tn) := by
  unfold State.recomputed
  repeat' first
    | with_reducible assumption
    | extract_lets +onlyGivenNames kx; refine @Keeps.cut _ r₀ kx ?_ ?_; subst kx; rotate_left; clear_value kx; intro hkx
    | extract_lets +onlyGivenNames kx; subst kx
    | with_reducible apply State.updReq_keeps
    | with_reducible apply State.updAcct_keeps
    | with_reducible apply State.pushChunk_keeps
    | with_reducible apply Keeps.ite

theorem State.workDone_keeps {r₀ : State} {s : State} (g : Group) (skip : List Nat) (w : Work) (hk : Keeps r₀ s) :
    Keeps r₀ (State.workDone s g skip w) := by
  unfold State.workDone
  repeat' first
    | with_reducible assumption
    | extract_lets +onlyGivenNames kx; refine @Keeps.cut _ r₀ kx ?_ ?_; subst kx; rotate_left; clear_value kx; intro hkx
    | extract_lets +onlyGivenNames kx; subst kx
    | with_reducible apply State.updReq_keeps
    | with_reducible apply State.chunkDone_keeps
    | with_reducible apply State.recomputed_keeps
    | with_reducible apply Keeps.ite
    | split

theorem State.slowAdd_keeps {r₀ : State} {s : State} (g : Group) (hk : Keeps r₀ s) : Keeps r₀ (State.slowAdd s g) := by
  unfold State.slowAdd
  repeat' first
    | with_reducible assumption
    | extract_lets +onlyGivenNames kx; subst kx
    | with_reducible apply State.updAcct_keeps

theorem State.releaseMembers_keeps {r₀ : State} {s : State} (g : Nat) (hk : Keeps r₀ s) :
    Keeps r₀ (State.releaseMembers s g) := by
  unfold State.releaseMembers
  repeat' first
    | with_reducible assumption
    | with_reducible apply State.releaseTile_keeps
    | with_reducible refine Keeps.foldl ?_ ?_; intro _ _ _

theorem State.markCommitted_keeps {r₀ : State} {s : State} (g : Nat) (shadow : Bool) (hk : Keeps r₀ s) :
    Keeps r₀ (State.markCommitted s g shadow) := by
  unfold State.markCommitted
  repeat' first
    | with_reducible assumption
    | extract_lets +onlyGivenNames kx; refine @Keeps.cut _ r₀ kx ?_ ?_; subst kx; rotate_left; clear_value kx; intro hkx
    | extract_lets +onlyGivenNames kx; subst kx
    | with_reducible apply State.updTile_keeps
    | with_reducible apply State.updTag_keeps
    | with_reducible apply State.updAcct_keeps
    | with_reducible apply Keeps.ite
    | with_reducible refine Keeps.foldl ?_ ?_; intro _ _ _

theorem State.finishGroup_keeps {r₀ : State} {s : State} (g : Nat) (hk : Keeps r₀ s) :
    Keeps r₀ (State.finishGroup s g) := by
  unfold State.finishGroup
  repeat' first
    | with_reducible assumption
    | extract_lets +onlyGivenNames kx; refine @Keeps.cut _ r₀ kx ?_ ?_; subst kx; rotate_left; clear_value kx; intro hkx
    | with_reducible apply State.updTag_keeps
    | with_reducible apply State.updGroup_keeps
    | with_reducible apply State.freeTag_keeps
    | with_reducible apply State.freeRoom_keeps
    | with_reducible refine Keeps.foldl ?_ ?_; intro _ _ _

theorem State.failAll_keeps {r₀ : State} {s : State} (g status : Nat) (hk : Keeps r₀ s) :
    Keeps r₀ (State.failAll s g status) := by
  unfold State.failAll
  repeat' first
    | with_reducible assumption
    | with_reducible apply State.updTag_keeps
    | with_reducible apply State.stopMember_keeps
    | with_reducible apply State.closeGroup_keeps
    | with_reducible refine Keeps.foldl ?_ ?_; intro _ _ _

theorem State.commitCopy_keeps {r₀ : State} {s : State} (g : Nat) (hk : Keeps r₀ s) : Keeps r₀ (State.commitCopy s g) := by
  unfold State.commitCopy
  repeat' first
    | with_reducible assumption
    | extract_lets +onlyGivenNames kx; subst kx
    | with_reducible apply State.updGroup_keeps
    | with_reducible apply State.journalRec_keeps
    | with_reducible apply State.flushJournal_keeps
    | with_reducible apply State.slowAdd_keeps
    | with_reducible apply State.releaseMembers_keeps

theorem State.commitRest_keeps {r₀ : State} {s : State} (g : Nat) (c : CommitCopy) (hk : Keeps r₀ s) :
    Keeps r₀ (State.commitRest s g c) := by
  unfold State.commitRest
  repeat' first
    | with_reducible assumption
    | extract_lets +onlyGivenNames kx; refine @Keeps.cut _ r₀ kx ?_ ?_; subst kx; rotate_left; clear_value kx; intro hkx
    | extract_lets +onlyGivenNames kx; refine @KeepsP.cut _ _ r₀ kx ?_ ?_; subst kx; rotate_left; clear_value kx; intro hkx
    | extract_lets +onlyGivenNames kx; subst kx
    | with_reducible apply State.updGroup_keeps
    | with_reducible apply State.devEvent_keeps
    | with_reducible apply State.writeReq_keeps
    | with_reducible apply State.graftPump_keeps
    | with_reducible apply State.endRequest_keeps
    | with_reducible apply State.performAll_keeps
    | with_reducible apply State.publishAll_keeps
    | with_reducible apply State.workDone_keeps
    | with_reducible apply State.markCommitted_keeps
    | with_reducible apply State.finishGroup_keeps
    | with_reducible apply Keeps.set; with_reducible assumption
    | with_reducible refine Keeps.foldl ?_ ?_; intro _ _ _
    | with_reducible apply KeepsP.of_mk; with_reducible assumption

theorem State.commitGroup_keeps {r₀ : State} {s : State} (g : Nat) (hk : Keeps r₀ s) :
    Keeps r₀ (State.commitGroup s g) := by
  unfold State.commitGroup
  repeat' first
    | with_reducible assumption
    | extract_lets +onlyGivenNames kx; refine @Keeps.cut _ r₀ kx ?_ ?_; subst kx; rotate_left; clear_value kx; intro hkx
    | with_reducible apply State.failAll_keeps
    | with_reducible apply State.commitCopy_keeps
    | with_reducible apply State.commitRest_keeps
    | with_reducible apply Keeps.ite
    | split

theorem State.commitShadow_keeps {r₀ : State} {s : State} (g : Nat) (hk : Keeps r₀ s) :
    Keeps r₀ (State.commitShadow s g) := by
  unfold State.commitShadow
  repeat' first
    | with_reducible assumption
    | with_reducible apply State.releaseMembers_keeps
    | with_reducible apply State.markCommitted_keeps
    | with_reducible apply State.finishGroup_keeps
    | with_reducible apply State.failAll_keeps
    | with_reducible apply Keeps.ite

theorem execCommit_keeps {r₀ : State} (group : Fin 1024) {s : State} (hk : Keeps r₀ s) :
    KeepsX r₀ (execCommit group s) := by
  unfold execCommit
  repeat' first
    | with_reducible assumption
    | extract_lets +onlyGivenNames kx; subst kx
    | with_reducible apply State.commitRest_keeps
    | with_reducible apply State.commitGroup_keeps
    | with_reducible apply State.commitShadow_keeps
    | with_reducible apply KeepsX.next
    | with_reducible apply KeepsX.ite
    | split

theorem execKillCmd_keeps {r₀ : State} (tag : Fin 1024) {s : State} (hk : Keeps r₀ s) : KeepsX r₀ (execKillCmd tag s) := by
  unfold execKillCmd
  repeat' first
    | with_reducible assumption
    | extract_lets +onlyGivenNames kx; subst kx
    | with_reducible apply KeepsX.next
    | with_reducible apply KeepsX.ite
    | with_reducible apply Keeps.set; with_reducible assumption

theorem State.killMember_keeps {r₀ : State} {s : State} (m : Nat) (preempt : Bool) (hk : Keeps r₀ s) :
    Keeps r₀ (State.killMember s m preempt) := by
  unfold State.killMember
  repeat' first
    | with_reducible assumption
    | extract_lets +onlyGivenNames kx; refine @Keeps.cut _ r₀ kx ?_ ?_; subst kx; rotate_left; clear_value kx; intro hkx
    | extract_lets +onlyGivenNames kx; subst kx
    | with_reducible apply State.updAcct_keeps
    | with_reducible apply State.stopMember_keeps
    | with_reducible apply Keeps.ite

theorem State.killDone_keeps {r₀ : State} {s : State} (g : Nat) (preempt : Bool) (hk : Keeps r₀ s) :
    Keeps r₀ (State.killDone s g preempt) := by
  unfold State.killDone
  repeat' first
    | with_reducible assumption
    | extract_lets +onlyGivenNames kx; refine @Keeps.cut _ r₀ kx ?_ ?_; subst kx; rotate_left; clear_value kx; intro hkx
    | extract_lets +onlyGivenNames kx; subst kx
    | with_reducible apply State.updGroup_keeps
    | with_reducible apply State.markRerun_keeps
    | with_reducible apply Keeps.ite
    | with_reducible apply Keeps.set; with_reducible assumption

theorem execCommandKill_keeps {r₀ : State} (tag : Fin 1024) {s : State} (hk : Keeps r₀ s) :
    KeepsX r₀ (execCommandKill tag s) := by
  unfold execCommandKill
  repeat' first
    | with_reducible assumption
    | extract_lets +onlyGivenNames kx; refine @Keeps.cut _ r₀ kx ?_ ?_; subst kx; rotate_left; clear_value kx; intro hkx
    | with_reducible apply State.killMember_keeps
    | with_reducible apply State.killDone_keeps
    | with_reducible apply Keeps.ite
    | with_reducible apply KeepsX.next
    | with_reducible apply KeepsX.ite
    | split

theorem execGroupReplay_keeps {r₀ : State} (group : Fin 1024) {s : State} (hk : Keeps r₀ s) :
    KeepsX r₀ (execGroupReplay group s) := by
  unfold execGroupReplay
  repeat' first
    | with_reducible assumption
    | extract_lets +onlyGivenNames kx; refine @Keeps.cut _ r₀ kx ?_ ?_; subst kx; rotate_left; clear_value kx; intro hkx
    | extract_lets +onlyGivenNames kx; subst kx
    | with_reducible apply State.updGroup_keeps
    | with_reducible apply State.devEvent_keeps
    | with_reducible apply State.stopGroup_keeps
    | with_reducible apply State.markRerun_keeps
    | with_reducible apply Keeps.ite
    | with_reducible apply KeepsX.next
    | with_reducible apply KeepsX.ite

theorem State.queueAhead_keeps {r₀ : State} {s : State} (t d prio : Nat) (hk : Keeps r₀ s) :
    Keeps r₀ (State.queueAhead s t d prio) := by
  unfold State.queueAhead
  repeat' first
    | with_reducible assumption
    | extract_lets +onlyGivenNames kx; subst kx
    | with_reducible apply State.updTile_keeps

theorem execRerunDelivery_keeps {r₀ : State} (group : Fin 1024) (tiles : List (Fin 48)) {s : State} (hk : Keeps r₀ s) :
    KeepsX r₀ (execRerunDelivery group tiles s) := by
  unfold execRerunDelivery
  repeat' first
    | with_reducible assumption
    | extract_lets +onlyGivenNames kx; refine @Keeps.cut _ r₀ kx ?_ ?_; subst kx; rotate_left; clear_value kx; intro hkx
    | extract_lets +onlyGivenNames kx; subst kx
    | with_reducible apply State.updTag_keeps
    | with_reducible apply State.updGroup_keeps
    | with_reducible apply State.journalRec_keeps
    | with_reducible apply State.flushJournal_keeps
    | with_reducible apply State.queueAhead_keeps
    | with_reducible apply KeepsX.next
    | with_reducible apply KeepsX.ite
    | with_reducible refine Keeps.foldl ?_ ?_; intro _ _ _

theorem execTileCompletion_keeps {r₀ : State} (tag : Fin 1024) {s : State} (hk : Keeps r₀ s) :
    KeepsX r₀ (execTileCompletion tag s) := by
  unfold execTileCompletion
  repeat' first
    | with_reducible assumption
    | with_reducible apply State.updTag_keeps
    | with_reducible apply KeepsX.next
    | with_reducible apply KeepsX.ite

theorem execStepEnd_keeps {r₀ : State} (step : Nat) {s : State} (hk : Keeps r₀ s) : KeepsX r₀ (execStepEnd step s) := by
  unfold execStepEnd
  repeat' first
    | with_reducible assumption
    | extract_lets +onlyGivenNames kx; subst kx
    | with_reducible apply KeepsX.next
    | with_reducible apply KeepsX.ite
    | with_reducible apply Keeps.set; with_reducible assumption

theorem execReqCntClr_keeps {r₀ : State} {s : State} (hk : Keeps r₀ s) : KeepsX r₀ (execReqCntClr s) := by
  unfold execReqCntClr
  repeat' first
    | with_reducible assumption
    | extract_lets +onlyGivenNames kx; subst kx
    | with_reducible apply KeepsX.next
    | with_reducible apply KeepsX.ite
    | with_reducible apply Keeps.set; with_reducible assumption

theorem execTagDrainWrite_keeps {r₀ : State} (tag : Fin 1024) {s : State} (hk : Keeps r₀ s) :
    KeepsX r₀ (execTagDrainWrite tag s) := by
  unfold execTagDrainWrite
  repeat' first
    | with_reducible assumption
    | extract_lets +onlyGivenNames kx; subst kx
    | with_reducible apply KeepsX.next
    | with_reducible apply KeepsX.ite
    | with_reducible apply Keeps.set; with_reducible assumption

theorem State.judgeTenant_keeps {r₀ : State} {s : State} (tn period : Nat) (hk : Keeps r₀ s) :
    Keeps r₀ (State.judgeTenant s tn period) := by
  unfold State.judgeTenant
  repeat' first
    | with_reducible assumption
    | extract_lets +onlyGivenNames kx; refine @Keeps.cut _ r₀ kx ?_ ?_; subst kx; rotate_left; clear_value kx; intro hkx
    | extract_lets +onlyGivenNames kx; subst kx
    | with_reducible apply State.updAcct_keeps
    | with_reducible apply State.tenantEvent_keeps
    | with_reducible apply Keeps.ite

theorem State.rewriteAcct_keeps {r₀ : State} {s : State} (tn : Nat) (hk : Keeps r₀ s) :
    Keeps r₀ (State.rewriteAcct s tn) := by
  unfold State.rewriteAcct
  repeat' first
    | with_reducible assumption
    | extract_lets +onlyGivenNames kx; refine @Keeps.cut _ r₀ kx ?_ ?_; subst kx; rotate_left; clear_value kx; intro hkx
    | extract_lets +onlyGivenNames kx; subst kx
    | with_reducible apply State.updAcct_keeps
    | with_reducible apply State.draw_keeps
    | with_reducible apply State.wr_keeps

theorem execAcctRewrite_keeps {r₀ : State} (tenant : BitVec 16) {s : State} (hk : Keeps r₀ s) :
    KeepsX r₀ (execAcctRewrite tenant s) := by
  unfold execAcctRewrite
  repeat' first
    | with_reducible assumption
    | with_reducible apply State.rewriteAcct_keeps
    | with_reducible apply KeepsX.next
    | with_reducible apply KeepsX.ite

theorem execSlowdownPeriod_keeps {r₀ : State} {s : State} (hk : Keeps r₀ s) : KeepsX r₀ (execSlowdownPeriod s) := by
  unfold execSlowdownPeriod
  repeat' first
    | with_reducible assumption
    | extract_lets +onlyGivenNames kx; refine @Keeps.cut _ r₀ kx ?_ ?_; subst kx; rotate_left; clear_value kx; intro hkx
    | extract_lets +onlyGivenNames kx; subst kx
    | with_reducible apply State.judgeTenant_keeps
    | with_reducible apply State.rewriteAcct_keeps
    | with_reducible apply KeepsX.next
    | with_reducible apply KeepsX.ite
    | with_reducible apply Keeps.set; with_reducible assumption
    | with_reducible refine Keeps.foldl ?_ ?_; intro _ _ _

end Sys2Proof.Machine
end

