-- ==== Sys2Proof/Laws/FrameSched.lean ====
section
/-!
SUPPORT. Sys2Proof/Laws/FrameSched.lean: what the operations and commands of Machine/Sched.lean keep (`Keeps`): the queue, the
Cloche, programmed fuses and the canonical form of every byte memory.
-/
namespace Sys2Proof.Machine

theorem State.lendOne_keeps {r₀ s : State} (n k : Nat) (hk : Keeps r₀ s) : KeepsO r₀ (s.lendOne n k) := by
  unfold State.lendOne
  refine KeepsO.ite KeepsO.none (KeepsO.mapV fun t => State.updTile_keeps _ _ hk)

theorem State.reclaimOne_keeps {r₀ : State} {s : State} (n k : Nat) (hk : Keeps r₀ s) :
    KeepsO r₀ (State.reclaimOne s n k) := by
  unfold State.reclaimOne
  repeat' first
    | with_reducible assumption
    | extract_lets +onlyGivenNames kx; subst kx
    | with_reducible apply State.updTile_keeps
    | with_reducible apply KeepsO.none
    | with_reducible apply KeepsO.some
    | split

theorem swingSteps_keeps {r₀ : State} {move : State → Nat → Option State} (hm : ∀ t k, Keeps r₀ t → KeepsO r₀ (move t k))
    (f k : Nat) {s : State} (hk : Keeps r₀ s) : ∀ x ∈ swingSteps move f k s, Keeps r₀ x := by
  induction f generalizing k s with
  | zero => intro x hx; simp [swingSteps] at hx; exact hx ▸ hk
  | succ f ih =>
    unfold swingSteps
    split
    · intro x hx; simp at hx; exact hx ▸ hk
    · intro x hx
      rcases List.mem_cons.mp hx with rfl | hx
      · exact hk
      · exact ih _ (hm _ _ hk _ ‹_›) x hx

theorem State.swingTo_keeps {r₀ s : State} (ss : List State) (hs : ∀ x ∈ ss, Keeps r₀ x) (hk : Keeps r₀ s) :
    Keeps r₀ (s.swingTo ss) := by
  unfold State.swingTo
  split
  · exact hk
  · rename_i last rest e
    have hm : ∀ x ∈ last :: rest, Keeps r₀ x := fun x hx => hs x (by rw [← List.mem_reverse, e]; exact hx)
    refine Keeps.ite (hm _ (List.mem_cons_self ..)) ?_
    refine State.devEvent_keeps _ _ _ _ ?_
    refine Keeps.getD (fun y he => ?_) hk
    exact hm _ (List.mem_cons_of_mem _ (List.mem_of_find?_eq_some he))

theorem State.swing_keeps {r₀ s : State} (n : Nat) (hk : Keeps r₀ s) : Keeps r₀ (s.swing n) := by
  unfold State.swing
  extract_lets d p
  refine Keeps.ite hk (Keeps.ite ?_ (Keeps.ite ?_ hk))
  · exact State.swingTo_keeps _ (swingSteps_keeps (fun _ _ h => State.lendOne_keeps _ _ h) _ _ hk) hk
  · exact State.swingTo_keeps _ (swingSteps_keeps (fun _ _ h => State.reclaimOne_keeps _ _ h) _ _ hk) hk

theorem State.resumeServed_keeps {r₀ : State} {s : State} (i : Nat) (hk : Keeps r₀ s) :
    Keeps r₀ (State.resumeServed s i) := by
  unfold State.resumeServed
  repeat' first
    | with_reducible assumption
    | extract_lets +onlyGivenNames kx; subst kx
    | with_reducible apply State.updReq_keeps
    | with_reducible apply State.completeIf_keeps
    | with_reducible apply Keeps.ite

theorem State.boundaryReq_keeps {r₀ : State} {s : State} (i : Nat) (hk : Keeps r₀ s) :
    Keeps r₀ (State.boundaryReq s i) := by
  unfold State.boundaryReq
  repeat' first
    | with_reducible assumption
    | extract_lets +onlyGivenNames kx; refine @Keeps.cut _ r₀ kx ?_ ?_; subst kx; rotate_left; clear_value kx; intro hkx
    | extract_lets +onlyGivenNames kx; subst kx
    | with_reducible apply State.updReq_keeps
    | with_reducible apply State.enterDecode_keeps
    | with_reducible apply State.resumeServed_keeps
    | with_reducible apply Keeps.ite

theorem State.boundaryChanges_keeps {r₀ : State} {s : State} (hk : Keeps r₀ s) : Keeps r₀ (State.boundaryChanges s) := by
  unfold State.boundaryChanges
  repeat' first
    | with_reducible assumption
    | extract_lets +onlyGivenNames kx; refine @Keeps.cut _ r₀ kx ?_ ?_; subst kx; rotate_left; clear_value kx; intro hkx
    | extract_lets +onlyGivenNames kx; subst kx
    | with_reducible apply State.resumeServed_keeps
    | with_reducible apply State.boundaryReq_keeps
    | with_reducible apply Keeps.set; with_reducible assumption
    | with_reducible refine Keeps.foldl ?_ ?_; intro _ _ _

theorem State.boundaryDeadlines_keeps {r₀ : State} {s : State} (hk : Keeps r₀ s) :
    Keeps r₀ (State.boundaryDeadlines s) := by
  unfold State.boundaryDeadlines
  repeat' first
    | with_reducible assumption
    | extract_lets +onlyGivenNames kx; subst kx
    | with_reducible apply State.endRequest_keeps
    | with_reducible apply Keeps.ite
    | with_reducible refine Keeps.foldl ?_ ?_; intro _ _ _

theorem State.ensureKv_keeps {r₀ : State} {s : State} (i last : Nat) (mayPrune : Bool) (hk : Keeps r₀ s) :
    KeepsP r₀ (State.ensureKv s i last mayPrune) := by
  unfold State.ensureKv
  repeat' first
    | with_reducible assumption
    | extract_lets +onlyGivenNames kx; subst kx
    | with_reducible apply State.updReq_keeps
    | with_reducible apply State.writeSeq_keeps
    | with_reducible apply State.allocPages_keeps
    | with_reducible apply State.endRequest_keeps
    | with_reducible apply KeepsP.ite
    | with_reducible apply KeepsP.mk; fail_if_success (with_reducible apply KeepsP.proj)
    | with_reducible apply Keeps.set; with_reducible refine KeepsP.fst (by assumption) ?_
    | split

theorem State.allocWork_keeps {r₀ : State} {s : State} (i chunk : Nat) (hk : Keeps r₀ s) :
    KeepsP r₀ (State.allocWork s i chunk) := by
  unfold State.allocWork
  repeat' first
    | with_reducible assumption
    | extract_lets +onlyGivenNames kx; subst kx
    | with_reducible apply State.ensureKv_keeps
    | with_reducible apply KeepsP.ite
    | with_reducible apply KeepsP.mk; fail_if_success (with_reducible apply KeepsP.proj)
    | with_reducible apply Keeps.set; with_reducible refine KeepsP.fst (by assumption) ?_
    | split

theorem State.allocAll_keeps {r₀ s : State} (es : List (Nat × Nat)) (hk : Keeps r₀ s) : KeepsP r₀ (s.allocAll es) := by
  induction es generalizing s with
  | nil => exact KeepsP.mk hk
  | cons e es ih => exact KeepsP.mk (ih (State.allocWork_keeps _ _ hk))

theorem State.deliverMember_keeps {r₀ : State} {s : State} (group tag d : Nat) (args : List Byte) (hk : Keeps r₀ s) :
    Keeps r₀ (State.deliverMember s group tag d args) := by
  unfold State.deliverMember
  repeat' first
    | with_reducible assumption
    | extract_lets +onlyGivenNames kx; subst kx
    | with_reducible apply State.updTile_keeps
    | with_reducible apply State.updTag_keeps

theorem State.deliverBatch_keeps {r₀ : State} {s : State} (step : Nat) (k : BatchKey) (ws : List Work) (hk : Keeps r₀ s) :
    KeepsO r₀ (State.deliverBatch s step k ws) := by
  unfold State.deliverBatch
  repeat' first
    | with_reducible assumption
    | extract_lets +onlyGivenNames kx; refine @Keeps.cut _ r₀ kx ?_ ?_; subst kx; rotate_left; clear_value kx; intro hkx
    | extract_lets +onlyGivenNames kx; subst kx
    | with_reducible apply State.updRing_keeps
    | with_reducible apply State.journalRec_keeps
    | with_reducible apply State.flushJournal_keeps
    | with_reducible apply State.writeReq_keeps
    | with_reducible apply State.deliverMember_keeps
    | with_reducible apply KeepsO.ite
    | with_reducible apply KeepsO.none
    | with_reducible apply KeepsO.some
    | with_reducible apply Keeps.set; with_reducible assumption
    | with_reducible refine Keeps.foldl ?_ ?_; intro _ _ _
    | split

theorem State.deliverAll_keeps {r₀ s : State} (step : Nat) (bs : List (BatchKey × List Work)) (hk : Keeps r₀ s) :
    KeepsP r₀ (s.deliverAll step bs) := by
  induction bs generalizing s with
  | nil => exact KeepsP.mk hk
  | cons b bs ih =>
    unfold State.deliverAll
    split
    · exact KeepsP.mk (ih (State.deliverBatch_keeps _ _ _ hk _ ‹_›))
    · exact ih hk

theorem State.shadowOn_keeps {r₀ : State} {s : State} (step t : Nat) (hk : Keeps r₀ s) :
    Keeps r₀ (State.shadowOn s step t) := by
  unfold State.shadowOn
  repeat' first
    | with_reducible assumption
    | extract_lets +onlyGivenNames kx; refine @Keeps.cut _ r₀ kx ?_ ?_; subst kx; rotate_left; clear_value kx; intro hkx
    | extract_lets +onlyGivenNames kx; subst kx
    | with_reducible apply State.updTile_keeps
    | with_reducible apply State.journalRec_keeps
    | with_reducible apply State.flushJournal_keeps
    | with_reducible apply State.deliverMember_keeps
    | with_reducible apply Keeps.ite
    | with_reducible apply Keeps.set; with_reducible assumption
    | split

theorem State.compose_keeps {r₀ : State} {s : State} (n : Nat) (hk : Keeps r₀ s) : Keeps r₀ (State.compose s n) := by
  unfold State.compose
  repeat' first
    | with_reducible assumption
    | extract_lets +onlyGivenNames kx; refine @Keeps.cut _ r₀ kx ?_ ?_; subst kx; rotate_left; clear_value kx; intro hkx
    | extract_lets +onlyGivenNames kx; refine @KeepsP.cut _ _ r₀ kx ?_ ?_; subst kx; rotate_left; clear_value kx; intro hkx
    | extract_lets +onlyGivenNames kx; subst kx
    | with_reducible apply State.updTpwr_keeps
    | with_reducible apply State.allocAll_keeps
    | with_reducible apply State.deliverAll_keeps
    | with_reducible apply State.shadowOn_keeps
    | with_reducible apply Keeps.set; with_reducible assumption
    | with_reducible apply Keeps.set; with_reducible refine KeepsP.fst (by assumption) ?_
    | with_reducible refine Keeps.foldl ?_ ?_; intro _ _ _
    | with_reducible apply KeepsP.of_mk; with_reducible assumption
    | split

theorem State.qualEnd_keeps {r₀ : State} {s : State} (t : Nat) (hk : Keeps r₀ s) : Keeps r₀ (State.qualEnd s t) := by
  unfold State.qualEnd
  repeat' first
    | with_reducible assumption
    | with_reducible apply State.updTile_keeps

theorem State.qualCompare_keeps {r₀ : State} {s : State} (t disagree : Nat) (hk : Keeps r₀ s) :
    Keeps r₀ (State.qualCompare s t disagree) := by
  unfold State.qualCompare
  repeat' first
    | with_reducible assumption
    | with_reducible apply State.updTile_keeps
    | with_reducible apply State.devEvent_keeps
    | with_reducible apply State.fence_keeps
    | with_reducible apply State.qualEnd_keeps
    | with_reducible apply Keeps.ite
    | split

end Sys2Proof.Machine
end

