-- ==== Sys2Proof/Laws/FrameIntake.lean ====
section
/-!
SUPPORT. Sys2Proof/Laws/FrameIntake.lean: what the operations and commands of Machine/Intake.lean keep (`Keeps`): the queue, the
Cloche, programmed fuses and the canonical form of every byte memory.
-/
namespace Sys2Proof.Machine

theorem State.ringServed_keeps {r₀ : State} {s : State} (r : Nat) (hk : Keeps r₀ s) : Keeps r₀ (State.ringServed s r) := by
  unfold State.ringServed
  repeat' first
    | extract_lets +onlyGivenNames kx; subst kx
    | with_reducible apply Keeps.set; with_reducible assumption

theorem State.applyEntry_keeps {r₀ : State} {s : State} (r e : Nat) (hk : Keeps r₀ s) :
    Keeps r₀ (State.applyEntry s r e) := by
  unfold State.applyEntry
  repeat' first
    | with_reducible assumption
    | with_reducible apply State.completeOp_keeps
    | with_reducible apply State.opTaken_keeps
    | with_reducible apply State.admitNew_keeps
    | with_reducible apply State.parkOp_keeps
    | with_reducible apply State.resumeOp_keeps
    | with_reducible apply State.cancelOp_keeps
    | with_reducible apply State.redirectOp_keeps
    | split

theorem State.readEntry_keeps {r₀ : State} {s : State} (r : Nat) (host : Option (BitVec 1024)) (hk : Keeps r₀ s) :
    KeepsP r₀ (State.readEntry s r host) := by
  unfold State.readEntry
  repeat' first
    | with_reducible assumption
    | extract_lets +onlyGivenNames kx; subst kx
    | with_reducible apply KeepsP.ite
    | with_reducible apply KeepsP.mk; fail_if_success (with_reducible apply KeepsP.proj)
    | with_reducible apply Keeps.set; with_reducible assumption

theorem State.takeSub_keeps {r₀ : State} {s : State} (r e : Nat) (hk : Keeps r₀ s) : Keeps r₀ (State.takeSub s r e) := by
  unfold State.takeSub
  repeat' first
    | with_reducible assumption
    | extract_lets +onlyGivenNames kx; refine @Keeps.cut _ r₀ kx ?_ ?_; subst kx; rotate_left; clear_value kx; intro hkx
    | extract_lets +onlyGivenNames kx; subst kx
    | with_reducible apply State.updRing_keeps
    | with_reducible apply State.applyEntry_keeps
    | with_reducible apply Keeps.set; with_reducible assumption

theorem execRingEntryTake_keeps {r₀ : State} (ring : Nat) (host : Option (BitVec 1024)) {s : State} (hk : Keeps r₀ s) :
    KeepsX r₀ (execRingEntryTake ring host s) := by
  unfold execRingEntryTake
  repeat' first
    | with_reducible assumption
    | extract_lets +onlyGivenNames kx; subst kx
    | with_reducible apply State.haltRing_keeps
    | with_reducible apply State.ringServed_keeps
    | with_reducible apply State.readEntry_keeps
    | with_reducible apply State.takeSub_keeps
    | with_reducible apply KeepsX.next
    | with_reducible apply KeepsX.ite
    | with_reducible apply Keeps.set; with_reducible assumption
    | with_reducible apply Keeps.set; with_reducible refine KeepsP.fst (by assumption) ?_
    | split

end Sys2Proof.Machine
end

