-- ==== Sys2Proof/Laws/FrameMailbox.lean ====
section
/-!
SUPPORT. Sys2Proof/Laws/FrameMailbox.lean: what the operations and commands of Machine/Mailbox.lean keep (`Keeps`): the queue, the
Cloche, programmed fuses and the canonical form of every byte memory.
-/
namespace Sys2Proof.Machine

theorem State.updMb_keeps {r₀ : State} {s : State} (mb : MbId) (f : Mailbox → Mailbox) (hk : Keeps r₀ s) :
    Keeps r₀ (State.updMb s mb f) := by
  unfold State.updMb
  repeat' first
    | with_reducible assumption
    | with_reducible apply State.updLd_keeps
    | with_reducible apply Keeps.set; with_reducible assumption
    | split

theorem State.mbDone_keeps {r₀ : State} {s : State} (mb : MbId) (hk : Keeps r₀ s) : Keeps r₀ (State.mbDone s mb) := by
  unfold State.mbDone
  repeat' first
    | with_reducible assumption
    | extract_lets +onlyGivenNames kx; refine @Keeps.cut _ r₀ kx ?_ ?_; subst kx; rotate_left; clear_value kx; intro hkx
    | with_reducible apply State.msix_keeps
    | with_reducible apply State.updMb_keeps
    | with_reducible apply Keeps.ite
    | split

theorem State.reply_keeps {r₀ : State} {s : State} (mb : MbId) (status detail : Nat) (payload : List Byte)
    (hk : Keeps r₀ s) :
    Keeps r₀ (State.reply s mb status detail payload) := by
  unfold State.reply
  repeat' first
    | with_reducible assumption
    | extract_lets +onlyGivenNames kx; subst kx
    | with_reducible apply State.wrBytes_keeps
    | with_reducible apply State.updMb_keeps
    | with_reducible apply State.mbDone_keeps
    | with_reducible apply Keeps.ite

theorem State.answer_keeps {r₀ : State} {s : State} (mb : MbId) (status : Nat) (hk : Keeps r₀ s) :
    Keeps r₀ (State.answer s mb status) := by
  unfold State.answer
  repeat' first
    | with_reducible assumption
    | with_reducible apply State.reply_keeps

theorem State.answerBad_keeps {r₀ : State} {s : State} (mb : MbId) (off : Nat) (hk : Keeps r₀ s) :
    Keeps r₀ (State.answerBad s mb off) := by
  unfold State.answerBad
  repeat' first
    | with_reducible assumption
    | with_reducible apply State.reply_keeps

theorem execMbGo_keeps {r₀ : State} (mb : MbId) {s : State} (hk : Keeps r₀ s) : KeepsX r₀ (execMbGo mb s) := by
  unfold execMbGo
  repeat' first
    | with_reducible assumption
    | extract_lets +onlyGivenNames kx; subst kx
    | with_reducible apply State.updMb_keeps
    | with_reducible apply KeepsX.next
    | with_reducible apply KeepsX.ite
    | split

theorem State.mbServed_keeps {r₀ : State} {s : State} (mb : MbId) (hk : Keeps r₀ s) : Keeps r₀ (State.mbServed s mb) := by
  unfold State.mbServed
  repeat' first
    | with_reducible assumption
    | with_reducible apply Keeps.ite
    | with_reducible apply Keeps.set; with_reducible assumption
    | split

theorem State.takeMsg_keeps {r₀ : State} {s : State} (mb : MbId) (hk : Keeps r₀ s) : Keeps r₀ (State.takeMsg s mb) := by
  unfold State.takeMsg
  repeat' first
    | with_reducible assumption
    | extract_lets +onlyGivenNames kx; refine @Keeps.cut _ r₀ kx ?_ ?_; subst kx; rotate_left; clear_value kx; intro hkx
    | extract_lets +onlyGivenNames kx; subst kx
    | with_reducible apply State.updMb_keeps
    | with_reducible apply State.reply_keeps
    | with_reducible apply State.mbServed_keeps
    | with_reducible apply Keeps.ite

theorem execMessageTake_keeps {r₀ : State} {s : State} (hk : Keeps r₀ s) : KeepsX r₀ (execMessageTake s) := by
  unfold execMessageTake
  repeat' first
    | with_reducible assumption
    | with_reducible apply State.takeMsg_keeps
    | with_reducible apply KeepsX.next
    | with_reducible apply KeepsX.ite
    | split

theorem execRmpIdentify_keeps {r₀ : State} (mb : MbId) {s : State} (hk : Keeps r₀ s) :
    KeepsX r₀ (execRmpIdentify mb s) := by
  unfold execRmpIdentify
  repeat' first
    | with_reducible assumption
    | with_reducible apply State.reply_keeps
    | with_reducible apply KeepsX.next
    | split

theorem State.readyNotices_keeps {r₀ : State} {s : State} (hk : Keeps r₀ s) : Keeps r₀ (State.readyNotices s) := by
  unfold State.readyNotices
  repeat' first
    | with_reducible assumption
    | extract_lets +onlyGivenNames kx; subst kx
    | with_reducible apply State.wrBytes_keeps
    | with_reducible apply State.mbDone_keeps
    | with_reducible apply Keeps.ite
    | with_reducible refine Keeps.foldl ?_ ?_; intro _ _ _

end Sys2Proof.Machine
end

