-- ==== Sys2Proof/Laws/FrameRmpHost.lean ====
section
/-!
SUPPORT. Sys2Proof/Laws/FrameRmpHost.lean: what the operations and commands of Machine/RmpHost.lean keep (`Keeps`): the queue, the
Cloche, programmed fuses and the canonical form of every byte memory.
-/
namespace Sys2Proof.Machine

theorem execRmpCfgStage_keeps {r₀ : State} (mb : MbId) {s : State} (hk : Keeps r₀ s) :
    KeepsX r₀ (execRmpCfgStage mb s) := by
  unfold execRmpCfgStage
  repeat' first
    | with_reducible assumption
    | extract_lets +onlyGivenNames kx; refine @Keeps.cut _ r₀ kx ?_ ?_; subst kx; rotate_left; clear_value kx; intro hkx
    | extract_lets +onlyGivenNames kx; subst kx
    | with_reducible apply State.wrBytes_keeps
    | with_reducible apply State.helloChanged_keeps
    | with_reducible apply State.reply_keeps
    | with_reducible apply State.answer_keeps
    | with_reducible apply KeepsX.next
    | with_reducible apply Keeps.set; with_reducible assumption
    | split

theorem execRmpCfgCommit_keeps {r₀ : State} (mb : MbId) {s : State} (hk : Keeps r₀ s) :
    KeepsX r₀ (execRmpCfgCommit mb s) := by
  unfold execRmpCfgCommit
  repeat' first
    | with_reducible assumption
    | extract_lets +onlyGivenNames kx; subst kx
    | with_reducible apply State.answer_keeps
    | with_reducible apply KeepsX.next
    | with_reducible apply KeepsX.ite
    | with_reducible apply Keeps.set; with_reducible assumption
    | split

theorem execRmpCfgDiscard_keeps {r₀ : State} (mb : MbId) {s : State} (hk : Keeps r₀ s) :
    KeepsX r₀ (execRmpCfgDiscard mb s) := by
  unfold execRmpCfgDiscard
  repeat' first
    | with_reducible assumption
    | extract_lets +onlyGivenNames kx; subst kx
    | with_reducible apply State.helloChanged_keeps
    | with_reducible apply State.answer_keeps
    | with_reducible apply KeepsX.next
    | with_reducible apply KeepsX.ite
    | with_reducible apply Keeps.set; with_reducible assumption
    | split

theorem execRmpCfgRead_keeps {r₀ : State} (mb : MbId) {s : State} (hk : Keeps r₀ s) : KeepsX r₀ (execRmpCfgRead mb s) := by
  unfold execRmpCfgRead
  repeat' first
    | with_reducible assumption
    | extract_lets +onlyGivenNames kx; subst kx
    | with_reducible apply State.wrBytes_keeps
    | with_reducible apply State.answer_keeps
    | with_reducible apply State.answerBad_keeps
    | with_reducible apply KeepsX.next
    | with_reducible apply KeepsX.ite
    | split

theorem execRmpRingCreate_keeps {r₀ : State} (mb : MbId) {s : State} (hk : Keeps r₀ s) :
    KeepsX r₀ (execRmpRingCreate mb s) := by
  unfold execRmpRingCreate
  repeat' first
    | with_reducible assumption
    | extract_lets +onlyGivenNames kx; refine @Keeps.cut _ r₀ kx ?_ ?_; subst kx; rotate_left; clear_value kx; intro hkx
    | with_reducible apply State.writeRing_keeps
    | with_reducible apply State.reply_keeps
    | with_reducible apply State.answer_keeps
    | with_reducible apply KeepsX.next
    | with_reducible apply Keeps.set; with_reducible assumption
    | split

theorem State.freeRingNum_keeps {r₀ : State} {s : State} (r : Nat) (hk : Keeps r₀ s) :
    Keeps r₀ (State.freeRingNum s r) := by
  unfold State.freeRingNum
  repeat' first
    | with_reducible assumption
    | extract_lets +onlyGivenNames kx; refine @Keeps.cut _ r₀ kx ?_ ?_; subst kx; rotate_left; clear_value kx; intro hkx
    | with_reducible apply State.updRing_keeps
    | with_reducible apply State.writeRing_keeps
    | with_reducible apply Keeps.set; with_reducible assumption

theorem execRmpRingDestroy_keeps {r₀ : State} (mb : MbId) {s : State} (hk : Keeps r₀ s) :
    KeepsX r₀ (execRmpRingDestroy mb s) := by
  unfold execRmpRingDestroy
  repeat' first
    | with_reducible assumption
    | extract_lets +onlyGivenNames kx; subst kx
    | with_reducible apply State.updRing_keeps
    | with_reducible apply State.answer_keeps
    | with_reducible apply State.answerBad_keeps
    | with_reducible apply State.freeRingNum_keeps
    | with_reducible apply KeepsX.next
    | with_reducible apply KeepsX.ite
    | split

theorem execSubmissionRingFreed_keeps {r₀ : State} (ring : BitVec 18) {s : State} (hk : Keeps r₀ s) :
    KeepsX r₀ (execSubmissionRingFreed ring s) := by
  unfold execSubmissionRingFreed
  repeat' first
    | with_reducible assumption
    | extract_lets +onlyGivenNames kx; subst kx
    | with_reducible apply State.freeRingNum_keeps
    | with_reducible apply KeepsX.next
    | with_reducible apply KeepsX.ite

theorem execRmpRingResume_keeps {r₀ : State} (mb : MbId) {s : State} (hk : Keeps r₀ s) :
    KeepsX r₀ (execRmpRingResume mb s) := by
  unfold execRmpRingResume
  repeat' first
    | with_reducible assumption
    | extract_lets +onlyGivenNames kx; refine @Keeps.cut _ r₀ kx ?_ ?_; subst kx; rotate_left; clear_value kx; intro hkx
    | extract_lets +onlyGivenNames kx; subst kx
    | with_reducible apply State.updRing_keeps
    | with_reducible apply State.resumeRing_keeps
    | with_reducible apply State.answer_keeps
    | with_reducible apply State.answerBad_keeps
    | with_reducible apply KeepsX.next
    | with_reducible apply KeepsX.ite
    | split

theorem execRmpRingQuery_keeps {r₀ : State} (mb : MbId) {s : State} (hk : Keeps r₀ s) :
    KeepsX r₀ (execRmpRingQuery mb s) := by
  unfold execRmpRingQuery
  repeat' first
    | with_reducible assumption
    | extract_lets +onlyGivenNames kx; subst kx
    | with_reducible apply State.reply_keeps
    | with_reducible apply State.answerBad_keeps
    | with_reducible apply KeepsX.next
    | with_reducible apply KeepsX.ite
    | split

theorem execRmpTokenFetch_keeps {r₀ : State} (mb : MbId) {s : State} (hk : Keeps r₀ s) :
    KeepsX r₀ (execRmpTokenFetch mb s) := by
  unfold execRmpTokenFetch
  repeat' first
    | with_reducible assumption
    | extract_lets +onlyGivenNames kx; subst kx
    | with_reducible apply State.wrBytes_keeps
    | with_reducible apply State.reply_keeps
    | with_reducible apply State.answer_keeps
    | with_reducible apply KeepsX.next
    | split

theorem execRmpAcctRead_keeps {r₀ : State} (mb : MbId) {s : State} (hk : Keeps r₀ s) :
    KeepsX r₀ (execRmpAcctRead mb s) := by
  unfold execRmpAcctRead
  repeat' first
    | with_reducible assumption
    | with_reducible apply State.reply_keeps
    | with_reducible apply KeepsX.next
    | split

theorem execRmpReqQuery_keeps {r₀ : State} (mb : MbId) {s : State} (hk : Keeps r₀ s) :
    KeepsX r₀ (execRmpReqQuery mb s) := by
  unfold execRmpReqQuery
  repeat' first
    | with_reducible assumption
    | with_reducible apply State.reply_keeps
    | with_reducible apply State.answer_keeps
    | with_reducible apply KeepsX.next
    | split

end Sys2Proof.Machine
end

