-- ==== Sys2Proof/Laws/FrameModels.lean ====
section
/-!
SUPPORT. Sys2Proof/Laws/FrameModels.lean: what the operations and commands of Machine/Models.lean keep (`Keeps`): the queue, the
Cloche, programmed fuses and the canonical form of every byte memory.
-/
namespace Sys2Proof.Machine

theorem State.placeSlot_keeps {r₀ : State} {s : State} (k : Nat) (tiers : List Nat) (vpn : Nat) (bs : List Byte)
    (hk : Keeps r₀ s) :
    KeepsO r₀ (State.placeSlot s k tiers vpn bs) := by
  unfold State.placeSlot
  repeat' first
    | with_reducible assumption
    | with_reducible intro hkf
    | extract_lets +onlyGivenNames kx; subst kx
    | with_reducible apply State.updSlot_keeps
    | with_reducible apply State.allocTiers_keeps
    | with_reducible apply State.setPage_keeps
    | with_reducible apply State.fillPlace_keeps
    | with_reducible apply KeepsO.none
    | with_reducible apply Keeps.set; with_reducible refine KeepsOP.get (by assumption) ?_
    | with_reducible apply KeepsO.mapS
    | split

theorem State.placeSlots_keeps {r₀ s : State} (k : Nat) (tiers : List Nat) (es : List (Nat × List Byte)) (hk : Keeps r₀ s) :
    KeepsO r₀ (s.placeSlots k tiers es) := by
  induction es generalizing s with
  | nil => exact KeepsO.some hk
  | cons e es ih =>
    unfold State.placeSlots
    repeat' first
      | with_reducible apply ih
      | with_reducible assumption
      | with_reducible apply State.placeSlot_keeps
      | with_reducible apply KeepsO.none
      | with_reducible apply Keeps.set; with_reducible refine KeepsO.get (by assumption) ?_
      | split

set_option maxRecDepth 20000 in
theorem State.placeTable_keeps {r₀ s : State} (k : Nat) (tiers : List Nat) (bs : List Byte) (hk : Keeps r₀ s) :
    KeepsO r₀ (s.placeTable k tiers bs) := by
  unfold State.placeTable
  extract_lets va bs'
  clear_value bs'
  split
  · exact KeepsO.some hk
  · split
    · exact KeepsO.none
    · have h2 := State.placeSlot_keeps _ _ _ _ hk _ ‹_›
      exact KeepsO.mapS (fun _ h => State.updSlot_keeps _ _ h) (State.placeSlots_keeps _ _ _ h2)

theorem State.needAsid_keeps {r₀ : State} {s : State} (tn : Nat) (hk : Keeps r₀ s) : Keeps r₀ (State.needAsid s tn) := by
  unfold State.needAsid
  repeat' first
    | with_reducible assumption
    | with_reducible apply State.updTenant_keeps
    | with_reducible apply State.openAsid_keeps
    | with_reducible apply State.writeTenant_keeps
    | with_reducible apply Keeps.ite
    | split

theorem State.pinAtLoad_keeps {r₀ : State} {s : State} (k : Nat) (r : Nat × List Byte) (hk : Keeps r₀ s) :
    Keeps r₀ (State.pinAtLoad s k r) := by
  unfold State.pinAtLoad
  repeat' first
    | with_reducible assumption
    | extract_lets +onlyGivenNames kx; refine @Keeps.cut _ r₀ kx ?_ ?_; subst kx; rotate_left; clear_value kx; intro hkx
    | extract_lets +onlyGivenNames kx; subst kx
    | with_reducible apply State.updSlot_keeps
    | with_reducible apply State.placeBytes_keeps
    | with_reducible apply State.charge_keeps
    | with_reducible apply Keeps.ite

theorem State.placeObject_keeps {r₀ : State} {s : State} (k addr : Nat) (o : List Byte) (hk : Keeps r₀ s) :
    KeepsO r₀ (State.placeObject s k addr o) := by
  unfold State.placeObject
  repeat' first
    | with_reducible assumption
    | extract_lets +onlyGivenNames kx; refine @Keeps.cut _ r₀ kx ?_ ?_; subst kx; rotate_left; clear_value kx; intro hkx
    | extract_lets +onlyGivenNames kx; subst kx
    | with_reducible apply State.updSlot_keeps
    | with_reducible apply State.placeSlots_keeps
    | with_reducible apply State.placeTable_keeps
    | with_reducible apply State.needAsid_keeps
    | with_reducible apply State.pinAtLoad_keeps
    | with_reducible apply KeepsO.ite
    | with_reducible apply KeepsO.none
    | with_reducible apply KeepsO.some
    | with_reducible apply Keeps.set; with_reducible refine KeepsO.get (by assumption) ?_
    | with_reducible refine Keeps.foldl ?_ ?_; intro _ _ _
    | split

theorem State.loadObject_keeps {r₀ : State} {s : State} (k addr digest : Nat) (o : List Byte) (hk : Keeps r₀ s) :
    KeepsP r₀ (State.loadObject s k addr digest o) := by
  unfold State.loadObject
  repeat' first
    | with_reducible assumption
    | with_reducible apply State.updSlot_keeps
    | with_reducible apply State.placeObject_keeps
    | with_reducible apply KeepsP.ite
    | with_reducible apply KeepsP.mk; fail_if_success (with_reducible apply KeepsP.proj)
    | with_reducible apply Keeps.set; with_reducible refine KeepsO.get (by assumption) ?_
    | split

theorem State.writeSlot_keeps {r₀ : State} {s : State} (k : Nat) (hk : Keeps r₀ s) : Keeps r₀ (State.writeSlot s k) := by
  unfold State.writeSlot
  repeat' first
    | with_reducible assumption
    | with_reducible apply State.wr_keeps

theorem State.emptySlot_keeps {r₀ : State} {s : State} (k : Nat) (hk : Keeps r₀ s) : Keeps r₀ (State.emptySlot s k) := by
  unfold State.emptySlot
  repeat' first
    | with_reducible assumption
    | extract_lets +onlyGivenNames kx; refine @Keeps.cut _ r₀ kx ?_ ?_; subst kx; rotate_left; clear_value kx; intro hkx
    | with_reducible apply State.writeSlot_keeps
    | with_reducible apply Keeps.set; with_reducible assumption

theorem execRmpModelLoad_keeps {r₀ : State} (mb : MbId) {s : State} (hk : Keeps r₀ s) :
    KeepsX r₀ (execRmpModelLoad mb s) := by
  unfold execRmpModelLoad
  repeat' first
    | with_reducible assumption
    | extract_lets +onlyGivenNames kx; refine @Keeps.cut _ r₀ kx ?_ ?_; subst kx; rotate_left; clear_value kx; intro hkx
    | extract_lets +onlyGivenNames kx; subst kx
    | with_reducible apply State.answer_keeps
    | with_reducible apply State.writeSlot_keeps
    | with_reducible apply KeepsX.next
    | with_reducible apply KeepsX.ite
    | with_reducible apply Keeps.set; with_reducible assumption
    | split

theorem execModelLoaded_keeps {r₀ : State} (slot : Fin 16384) {s : State} (hk : Keeps r₀ s) :
    KeepsX r₀ (execModelLoaded slot s) := by
  unfold execModelLoaded
  repeat' first
    | with_reducible assumption
    | extract_lets +onlyGivenNames kx; subst kx
    | with_reducible apply State.tenantEvent_keeps
    | with_reducible apply State.loadObject_keeps
    | with_reducible apply State.writeSlot_keeps
    | with_reducible apply State.emptySlot_keeps
    | with_reducible apply KeepsX.next
    | with_reducible apply KeepsX.ite
    | with_reducible apply Keeps.set; with_reducible refine KeepsP.fst (by assumption) ?_
    | split

theorem execRmpModelUnload_keeps {r₀ : State} (mb : MbId) {s : State} (hk : Keeps r₀ s) :
    KeepsX r₀ (execRmpModelUnload mb s) := by
  unfold execRmpModelUnload
  repeat' first
    | with_reducible assumption
    | extract_lets +onlyGivenNames kx; subst kx
    | with_reducible apply State.updSlot_keeps
    | with_reducible apply State.answer_keeps
    | with_reducible apply State.writeSlot_keeps
    | with_reducible apply KeepsX.next
    | with_reducible apply KeepsX.ite
    | split

theorem execModelUnloaded_keeps {r₀ : State} (slot : Fin 16384) {s : State} (hk : Keeps r₀ s) :
    KeepsX r₀ (execModelUnloaded slot s) := by
  unfold execModelUnloaded
  repeat' first
    | with_reducible assumption
    | extract_lets +onlyGivenNames kx; refine @Keeps.cut _ r₀ kx ?_ ?_; subst kx; rotate_left; clear_value kx; intro hkx
    | extract_lets +onlyGivenNames kx; subst kx
    | with_reducible apply State.tenantEvent_keeps
    | with_reducible apply State.credit_keeps
    | with_reducible apply State.freeSlotPlot_keeps
    | with_reducible apply State.rewriteAcct_keeps
    | with_reducible apply State.emptySlot_keeps
    | with_reducible apply Keeps.ite
    | with_reducible apply KeepsX.next
    | with_reducible apply KeepsX.ite
    | with_reducible refine Keeps.foldl ?_ ?_; intro _ _ _

end Sys2Proof.Machine
end

