-- ==== Sys2Proof/Laws/FrameMap.lean ====
section
/-!
SUPPORT. Sys2Proof/Laws/FrameMap.lean: what the operations and commands of Machine/Map.lean keep (`Keeps`): the queue, the
Cloche, programmed fuses and the canonical form of every byte memory.
-/
namespace Sys2Proof.Machine

theorem State.orphan_keeps {r₀ : State} {s : State} (ls : List Nat) (hk : Keeps r₀ s) : Keeps r₀ (State.orphan s ls) := by
  unfold State.orphan
  repeat' first
    | extract_lets +onlyGivenNames kx; refine @Keeps.cut _ r₀ kx ?_ ?_; subst kx; rotate_left; clear_value kx; intro hkx
    | with_reducible apply Keeps.set; with_reducible assumption

theorem State.freeRings_keeps {r₀ : State} {s : State} (ls : List Nat) (hk : Keeps r₀ s) :
    Keeps r₀ (State.freeRings s ls) := by
  unfold State.freeRings
  repeat' first
    | with_reducible assumption
    | extract_lets +onlyGivenNames kx; subst kx
    | with_reducible apply State.freeRingNum_keeps
    | with_reducible apply State.orphan_keeps
    | with_reducible refine Keeps.foldl ?_ ?_; intro _ _ _

theorem State.moveRoom_keeps {r₀ : State} {s : State} (i ring : Nat) (hk : Keeps r₀ s) :
    Keeps r₀ (State.moveRoom s i ring) := by
  unfold State.moveRoom
  repeat' first
    | with_reducible assumption
    | extract_lets +onlyGivenNames kx; subst kx
    | with_reducible apply State.updRing_keeps
    | with_reducible apply State.updGroup_keeps
    | with_reducible apply Keeps.ite
    | with_reducible refine Keeps.foldl ?_ ?_; intro _ _ _

theorem State.rehome_keeps {r₀ : State} {s : State} (i : Nat) (h : Nat × Nat × Nat) (hk : Keeps r₀ s) :
    Keeps r₀ (State.rehome s i h) := by
  unfold State.rehome
  repeat' first
    | with_reducible assumption
    | extract_lets +onlyGivenNames kx; refine @Keeps.cut _ r₀ kx ?_ ?_; subst kx; rotate_left; clear_value kx; intro hkx
    | with_reducible apply State.updReq_keeps
    | with_reducible apply State.bindRing_keeps
    | with_reducible apply State.arrivedEvent_keeps
    | with_reducible apply State.moveRoom_keeps

theorem State.rehost_keeps {r₀ : State} (x : State × Nat × Nat) (i : Nat) (hk : KeepsP r₀ x) :
    KeepsP r₀ (State.rehost x i) := by
  unfold State.rehost
  split
  · exact KeepsP.mk (State.rehome_keeps _ _ hk)
  · exact KeepsP.mk (State.endRequest_keeps _ _ (State.updReq_keeps _ _ hk))

theorem State.rehostGraft_keeps {r₀ : State} {s : State} (k : Nat) (hk : Keeps r₀ s) :
    Keeps r₀ (State.rehostGraft s k) := by
  unfold State.rehostGraft
  repeat' first
    | with_reducible assumption
    | extract_lets +onlyGivenNames kx; subst kx
    | with_reducible apply State.sendCtl_keeps
    | with_reducible apply State.pumpCtl_keeps
    | with_reducible apply State.dropReceived_keeps
    | with_reducible apply State.rehome_keeps
    | split

theorem State.dropLds_keeps {r₀ : State} {s : State} (ls : List Nat) (hk : Keeps r₀ s) :
    KeepsP r₀ (State.dropLds s ls) := by
  unfold State.dropLds
  repeat' first
    | with_reducible assumption
    | extract_lets +onlyGivenNames kx; refine @Keeps.cut _ r₀ kx ?_ ?_; subst kx; rotate_left; clear_value kx; intro hkx
    | extract_lets +onlyGivenNames kx; refine @KeepsP.cut _ _ r₀ kx ?_ ?_; subst kx; rotate_left; clear_value kx; intro hkx
    | extract_lets +onlyGivenNames kx; subst kx
    | with_reducible apply State.freeCmps_keeps
    | with_reducible apply State.freeRings_keeps
    | with_reducible apply State.rehost_keeps
    | with_reducible apply State.rehostGraft_keeps
    | with_reducible apply KeepsP.mk; fail_if_success (with_reducible apply KeepsP.proj)
    | with_reducible refine Keeps.foldl ?_ ?_; intro _ _ _
    | with_reducible refine KeepsP.foldl ?_ ?_; intro _ _ _
    | with_reducible apply KeepsP.of_mk; with_reducible assumption

theorem State.resetLds_keeps {r₀ s : State} (ls : List Nat) (hk : Keeps r₀ s) : Keeps r₀ (s.resetLds ls) := by
  unfold State.resetLds
  extract_lets s1 s2 isBuf m
  have h1 : Keeps r₀ s1 := State.dropLds_keeps ls hk
  have h2 : Keeps r₀ s2 := Keeps.foldl (fun _ _ h => State.updLd_keeps _ _ h) h1
  exact Keeps.setMem (t := s2.draw) (State.draw_keeps h2) (fun w => foldl_memSet_wf _ _ (filter_wf _ w)) id id

theorem execFunctionLevelReset_keeps {r₀ : State} (ld : Fin 16) {s : State} (hk : Keeps r₀ s) :
    KeepsX r₀ (execFunctionLevelReset ld s) := by
  unfold execFunctionLevelReset
  repeat' first
    | with_reducible assumption
    | extract_lets +onlyGivenNames kx; refine @Keeps.cut _ r₀ kx ?_ ?_; subst kx; rotate_left; clear_value kx; intro hkx
    | extract_lets +onlyGivenNames kx; subst kx
    | with_reducible apply State.resetLds_keeps
    | with_reducible apply KeepsX.next
    | with_reducible apply KeepsX.ite
    | with_reducible apply Keeps.set; with_reducible assumption

theorem State.adopt_keeps {r₀ : State} {s : State} (m : Nat) (hk : Keeps r₀ s) : Keeps r₀ (State.adopt s m) := by
  unfold State.adopt
  repeat' first
    | with_reducible assumption
    | extract_lets +onlyGivenNames kx; refine @Keeps.cut _ r₀ kx ?_ ?_; subst kx; rotate_left; clear_value kx; intro hkx
    | extract_lets +onlyGivenNames kx; subst kx
    | with_reducible apply State.updLd_keeps
    | with_reducible apply State.mapRetire_keeps
    | with_reducible apply Keeps.set; with_reducible assumption
    | with_reducible refine Keeps.foldl ?_ ?_; intro _ _ _

theorem State.graftRemoved_keeps {r₀ : State} {s : State} (k : Nat) (hk : Keeps r₀ s) :
    Keeps r₀ (State.graftRemoved s k) := by
  unfold State.graftRemoved
  repeat' first
    | with_reducible assumption
    | extract_lets +onlyGivenNames kx; subst kx
    | with_reducible apply State.abortGraft_keeps
    | with_reducible apply State.tryDest_keeps
    | with_reducible apply State.recvFailed_keeps
    | with_reducible apply Keeps.ite

theorem State.parkRemoved_keeps {r₀ : State} {s : State} (i : Nat) (hk : Keeps r₀ s) :
    Keeps r₀ (State.parkRemoved s i) := by
  unfold State.parkRemoved
  repeat' first
    | with_reducible assumption
    | extract_lets +onlyGivenNames kx; subst kx
    | with_reducible apply State.recover_keeps
    | with_reducible apply State.expire_keeps
    | with_reducible apply Keeps.ite

theorem State.dropPeers_keeps {r₀ : State} {s : State} (hk : Keeps r₀ s) : Keeps r₀ (State.dropPeers s) := by
  unfold State.dropPeers
  repeat' first
    | with_reducible assumption
    | extract_lets +onlyGivenNames kx; refine @Keeps.cut _ r₀ kx ?_ ?_; subst kx; rotate_left; clear_value kx; intro hkx
    | with_reducible apply State.graftRemoved_keeps
    | with_reducible apply State.parkRemoved_keeps
    | with_reducible refine Keeps.foldl ?_ ?_; intro _ _ _

theorem State.quietMbs_keeps {r₀ : State} {s : State} (ls : List Nat) (hk : Keeps r₀ s) :
    Keeps r₀ (State.quietMbs s ls) := by
  unfold State.quietMbs
  repeat' first
    | with_reducible assumption
    | with_reducible apply State.updLd_keeps
    | with_reducible refine Keeps.foldl ?_ ?_; intro _ _ _

theorem State.setMap_keeps {r₀ : State} {s : State} (mb : MbId) (m : Nat) (hk : Keeps r₀ s) :
    Keeps r₀ (State.setMap s mb m) := by
  unfold State.setMap
  repeat' first
    | with_reducible assumption
    | extract_lets +onlyGivenNames kx; refine @Keeps.cut _ r₀ kx ?_ ?_; subst kx; rotate_left; clear_value kx; intro hkx
    | extract_lets +onlyGivenNames kx; refine @KeepsP.cut _ _ r₀ kx ?_ ?_; subst kx; rotate_left; clear_value kx; intro hkx
    | extract_lets +onlyGivenNames kx; subst kx
    | with_reducible apply State.updLd_keeps
    | with_reducible apply State.devEvent_keeps
    | with_reducible apply State.graftPump_keeps
    | with_reducible apply State.answer_keeps
    | with_reducible apply State.dropLds_keeps
    | with_reducible apply State.adopt_keeps
    | with_reducible apply State.dropPeers_keeps
    | with_reducible apply State.quietMbs_keeps
    | with_reducible refine Keeps.foldl ?_ ?_; intro _ _ _
    | with_reducible apply KeepsP.of_mk; with_reducible assumption

theorem execRmpMapSet_keeps {r₀ : State} (mb : MbId) {s : State} (hk : Keeps r₀ s) : KeepsX r₀ (execRmpMapSet mb s) := by
  unfold execRmpMapSet
  repeat' first
    | with_reducible assumption
    | with_reducible apply State.answer_keeps
    | with_reducible apply State.answerBad_keeps
    | with_reducible apply State.setMap_keeps
    | with_reducible apply KeepsX.next
    | with_reducible apply KeepsX.ite
    | split

theorem execRmpMapGet_keeps {r₀ : State} (mb : MbId) {s : State} (hk : Keeps r₀ s) : KeepsX r₀ (execRmpMapGet mb s) := by
  unfold execRmpMapGet
  repeat' first
    | with_reducible assumption
    | extract_lets +onlyGivenNames kx; subst kx
    | with_reducible apply State.reply_keeps
    | with_reducible apply KeepsX.next
    | split

theorem State.fmAnswer_keeps {r₀ : State} {s : State} (code : Nat) (bs : List Byte) (hk : Keeps r₀ s) :
    Keeps r₀ (State.fmAnswer s code bs) := by
  unfold State.fmAnswer
  repeat' first
    | extract_lets +onlyGivenNames kx; subst kx
    | with_reducible apply Keeps.set; with_reducible assumption

theorem execGetLdInfo_keeps {r₀ : State} {s : State} (hk : Keeps r₀ s) : KeepsX r₀ (execGetLdInfo s) := by
  unfold execGetLdInfo
  repeat' first
    | with_reducible assumption
    | with_reducible apply State.fmAnswer_keeps
    | with_reducible apply KeepsX.next
    | with_reducible apply KeepsX.ite

theorem execGetLdAllocations_keeps {r₀ : State} {s : State} (hk : Keeps r₀ s) : KeepsX r₀ (execGetLdAllocations s) := by
  unfold execGetLdAllocations
  repeat' first
    | with_reducible assumption
    | with_reducible apply State.fmAnswer_keeps
    | with_reducible apply KeepsX.next
    | with_reducible apply KeepsX.ite

theorem execSetLdAllocations_keeps {r₀ : State} (first : Fin 16) (ranges : List (Nat × Nat)) {s : State} (hk : Keeps r₀ s) :
    KeepsX r₀ (execSetLdAllocations first ranges s) := by
  unfold execSetLdAllocations
  repeat' first
    | with_reducible assumption
    | extract_lets +onlyGivenNames kx; subst kx
    | with_reducible apply State.updLd_keeps
    | with_reducible apply State.fmAnswer_keeps
    | with_reducible apply KeepsX.next
    | with_reducible apply KeepsX.ite
    | with_reducible refine Keeps.foldl ?_ ?_; intro _ _ _

theorem execFmQosCommand_keeps {r₀ : State} (c : QosCmd) {s : State} (hk : Keeps r₀ s) :
    KeepsX r₀ (execFmQosCommand c s) := by
  unfold execFmQosCommand
  repeat' first
    | with_reducible assumption
    | extract_lets +onlyGivenNames kx; subst kx
    | with_reducible apply State.updLd_keeps
    | with_reducible apply State.fmAnswer_keeps
    | with_reducible apply KeepsX.next
    | with_reducible apply KeepsX.ite
    | with_reducible apply Keeps.set; with_reducible assumption
    | split

theorem execFmVendorRmp_keeps {r₀ : State} (msg : List Byte) {s : State} (hk : Keeps r₀ s) :
    KeepsX r₀ (execFmVendorRmp msg s) := by
  unfold execFmVendorRmp
  repeat' first
    | with_reducible assumption
    | extract_lets +onlyGivenNames kx; refine @Keeps.cut _ r₀ kx ?_ ?_; subst kx; rotate_left; clear_value kx; intro hkx
    | with_reducible apply State.wrBytes_keeps
    | with_reducible apply State.updMb_keeps
    | with_reducible apply State.fmAnswer_keeps
    | with_reducible apply KeepsX.next
    | with_reducible apply KeepsX.ite

theorem execCxlCntClr_keeps {r₀ : State} {s : State} (hk : Keeps r₀ s) : KeepsX r₀ (execCxlCntClr s) := by
  unfold execCxlCntClr
  repeat' first
    | with_reducible assumption
    | extract_lets +onlyGivenNames kx; subst kx
    | with_reducible apply KeepsX.next
    | with_reducible apply KeepsX.ite
    | with_reducible apply Keeps.set; with_reducible assumption

theorem execHdmDecoderCommit_keeps {r₀ : State} (ld : Fin 16) (on : Bool) {s : State} (hk : Keeps r₀ s) :
    KeepsX r₀ (execHdmDecoderCommit ld on s) := by
  unfold execHdmDecoderCommit
  repeat' first
    | with_reducible assumption
    | with_reducible apply State.updLd_keeps
    | with_reducible apply KeepsX.next
    | with_reducible apply KeepsX.ite

theorem execCxlMemRequest_keeps {r₀ : State} (ld : Fin 16) (off : Nat) (r : MemReq) {s : State} (hk : Keeps r₀ s) :
    KeepsX r₀ (execCxlMemRequest ld off r s) := by
  unfold execCxlMemRequest
  repeat' first
    | with_reducible assumption
    | extract_lets +onlyGivenNames kx; subst kx
    | with_reducible apply State.wrBytes_keeps
    | with_reducible apply KeepsX.next
    | with_reducible apply KeepsX.ite
    | with_reducible apply Keeps.set; with_reducible assumption
    | split

theorem State.trainCxl_keeps {r₀ : State} {s : State} (t : Option CxlTrain) (hk : Keeps r₀ s) :
    Keeps r₀ (State.trainCxl s t) := by
  unfold State.trainCxl
  repeat' first
    | extract_lets +onlyGivenNames kx; subst kx
    | with_reducible apply Keeps.set; with_reducible assumption
    | split

theorem execPerstN_keeps {r₀ : State} {s : State} (hk : Keeps r₀ s) : KeepsX r₀ (execPerstN s) := by
  unfold execPerstN
  repeat' first
    | with_reducible assumption
    | extract_lets +onlyGivenNames kx; refine @Keeps.cut _ r₀ kx ?_ ?_; subst kx; rotate_left; clear_value kx; intro hkx
    | extract_lets +onlyGivenNames kx; subst kx
    | with_reducible apply State.resetLds_keeps
    | with_reducible apply Keeps.ite
    | with_reducible apply KeepsX.next
    | with_reducible apply KeepsX.ite
    | with_reducible apply Keeps.set; with_reducible assumption

theorem execPerstNRelease_keeps {r₀ : State} (tr : Option CxlTrain) {s : State} (hk : Keeps r₀ s) :
    KeepsX r₀ (execPerstNRelease tr s) := by
  unfold execPerstNRelease
  repeat' first
    | with_reducible assumption
    | extract_lets +onlyGivenNames kx; refine @Keeps.cut _ r₀ kx ?_ ?_; subst kx; rotate_left; clear_value kx; intro hkx
    | extract_lets +onlyGivenNames kx; subst kx
    | with_reducible apply State.trainCxl_keeps
    | with_reducible apply KeepsX.next
    | with_reducible apply KeepsX.ite
    | with_reducible apply Keeps.set; with_reducible assumption

end Sys2Proof.Machine
end

