-- ==== Sys2Proof/Laws/FrameRecovery.lean ====
section
/-!
SUPPORT. Sys2Proof/Laws/FrameRecovery.lean: what the operations and commands of Machine/Recovery.lean keep (`Keeps`): the queue, the
Cloche, programmed fuses and the canonical form of every byte memory.
-/
namespace Sys2Proof.Machine

theorem execRmpFaultRead_keeps {r₀ : State} (mb : MbId) {s : State} (hk : Keeps r₀ s) :
    KeepsX r₀ (execRmpFaultRead mb s) := by
  unfold execRmpFaultRead
  repeat' first
    | with_reducible assumption
    | extract_lets +onlyGivenNames kx; subst kx
    | with_reducible apply State.reply_keeps
    | with_reducible apply KeepsX.next
    | split

theorem execRmpFaultClear_keeps {r₀ : State} (mb : MbId) {s : State} (hk : Keeps r₀ s) :
    KeepsX r₀ (execRmpFaultClear mb s) := by
  unfold execRmpFaultClear
  repeat' first
    | with_reducible assumption
    | extract_lets +onlyGivenNames kx; subst kx
    | with_reducible apply State.answer_keeps
    | with_reducible apply KeepsX.next
    | with_reducible apply Keeps.set; with_reducible assumption
    | split

theorem execRmpInject_keeps {r₀ : State} (mb : MbId) {s : State} (hk : Keeps r₀ s) : KeepsX r₀ (execRmpInject mb s) := by
  unfold execRmpInject
  repeat' first
    | with_reducible assumption
    | extract_lets +onlyGivenNames kx; refine @Keeps.cut _ r₀ kx ?_ ?_; subst kx; rotate_left; clear_value kx; intro hkx
    | extract_lets +onlyGivenNames kx; subst kx
    | with_reducible apply State.injectPair_keeps
    | with_reducible apply State.injectDenied_keeps
    | with_reducible apply State.answer_keeps
    | with_reducible apply KeepsX.next
    | with_reducible apply KeepsX.ite
    | with_reducible apply Keeps.set; with_reducible assumption
    | split

theorem execRmpUnitFenceFence_keeps {r₀ : State} (mb : MbId) {s : State} (hk : Keeps r₀ s) :
    KeepsX r₀ (execRmpUnitFenceFence mb s) := by
  unfold execRmpUnitFenceFence
  repeat' first
    | with_reducible assumption
    | with_reducible apply State.fence_keeps
    | with_reducible apply State.fenceDone_keeps
    | with_reducible apply State.answer_keeps
    | with_reducible apply KeepsX.next
    | split

theorem execRmpUnitFenceUnfence_keeps {r₀ : State} (mb : MbId) {s : State} (hk : Keeps r₀ s) :
    KeepsX r₀ (execRmpUnitFenceUnfence mb s) := by
  unfold execRmpUnitFenceUnfence
  repeat' first
    | with_reducible assumption
    | extract_lets +onlyGivenNames kx; subst kx
    | with_reducible apply State.fenceReject_keeps
    | with_reducible apply State.fenceDone_keeps
    | with_reducible apply State.unfence_keeps
    | with_reducible apply State.answer_keeps
    | with_reducible apply KeepsX.next
    | with_reducible apply KeepsX.ite
    | split

theorem State.qualSettle_keeps {r₀ : State} {s : State} (hk : Keeps r₀ s) : Keeps r₀ (State.qualSettle s) := by
  unfold State.qualSettle
  repeat' first
    | with_reducible assumption
    | extract_lets +onlyGivenNames kx; refine @Keeps.cut _ r₀ kx ?_ ?_; subst kx; rotate_left; clear_value kx; intro hkx
    | extract_lets +onlyGivenNames kx; subst kx
    | with_reducible apply State.reply_keeps
    | with_reducible apply Keeps.ite
    | with_reducible apply Keeps.set; with_reducible assumption
    | split

theorem State.qualify_keeps {r₀ : State} {s : State} (t ref runs : Nat) (hk : Keeps r₀ s) : Keeps r₀ (s.qualify t ref runs) := by
  unfold State.qualify
  split
  · exact State.unfence_keeps _ _ _ _ (State.fence_keeps _ _ hk)
  · exact State.fence_keeps _ _ hk

theorem execRmpUnitFenceQualify_keeps {r₀ : State} (mb : MbId) {s : State} (hk : Keeps r₀ s) :
    KeepsX r₀ (execRmpUnitFenceQualify mb s) := by
  unfold execRmpUnitFenceQualify
  repeat' first
    | with_reducible assumption
    | extract_lets +onlyGivenNames kx; refine @Keeps.cut _ r₀ kx ?_ ?_; subst kx; rotate_left; clear_value kx; intro hkx
    | extract_lets +onlyGivenNames kx; subst kx
    | with_reducible apply State.qualify_keeps
    | with_reducible apply State.updMb_keeps
    | with_reducible apply State.answer_keeps
    | with_reducible apply State.qualSettle_keeps
    | with_reducible apply Keeps.ite
    | with_reducible apply KeepsX.next
    | with_reducible apply KeepsX.ite
    | with_reducible apply Keeps.set; with_reducible assumption
    | with_reducible refine Keeps.foldl ?_ ?_; intro _ _ _
    | split

theorem execQualificationCompare_keeps {r₀ : State} (tile : Fin 48) (disagree : Nat) {s : State} (hk : Keeps r₀ s) :
    KeepsX r₀ (execQualificationCompare tile disagree s) := by
  unfold execQualificationCompare
  repeat' first
    | with_reducible assumption
    | with_reducible apply State.qualCompare_keeps
    | with_reducible apply State.qualSettle_keeps
    | with_reducible apply KeepsX.next
    | with_reducible apply KeepsX.ite

theorem State.ckptWrite_keeps {r₀ : State} {s : State} (m : Nat) (img : List Byte) (hk : Keeps r₀ s) :
    Keeps r₀ (State.ckptWrite s m img) := by
  unfold State.ckptWrite
  repeat' first
    | with_reducible assumption
    | extract_lets +onlyGivenNames kx; subst kx
    | with_reducible apply State.wrBytes_keeps
    | with_reducible apply State.hostPut_keeps
    | with_reducible apply Keeps.ite
    | with_reducible apply Keeps.set; with_reducible assumption

theorem State.ckptTake_keeps {r₀ : State} {s : State} (mb : MbId) (step : Nat) (hk : Keeps r₀ s) :
    Keeps r₀ (State.ckptTake s mb step) := by
  unfold State.ckptTake
  repeat' first
    | with_reducible assumption
    | extract_lets +onlyGivenNames kx; refine @Keeps.cut _ r₀ kx ?_ ?_; subst kx; rotate_left; clear_value kx; intro hkx
    | extract_lets +onlyGivenNames kx; subst kx
    | with_reducible apply State.updReq_keeps
    | with_reducible apply State.devEvent_keeps
    | with_reducible apply State.reply_keeps
    | with_reducible apply State.ckptWrite_keeps
    | with_reducible apply Keeps.ite
    | with_reducible apply Keeps.set; with_reducible assumption
    | with_reducible refine Keeps.foldl ?_ ?_; intro _ _ _

theorem State.ckptBoundary_keeps {r₀ : State} {s : State} (step : Nat) (hk : Keeps r₀ s) :
    Keeps r₀ (State.ckptBoundary s step) := by
  unfold State.ckptBoundary
  repeat' first
    | with_reducible assumption
    | extract_lets +onlyGivenNames kx; subst kx
    | with_reducible apply State.ckptTake_keeps
    | with_reducible apply Keeps.ite
    | with_reducible refine Keeps.foldl ?_ ?_; intro _ _ _

theorem execRmpCkptTake_keeps {r₀ : State} (mb : MbId) {s : State} (hk : Keeps r₀ s) :
    KeepsX r₀ (execRmpCkptTake mb s) := by
  unfold execRmpCkptTake
  repeat' first
    | with_reducible assumption
    | with_reducible apply State.updMb_keeps
    | with_reducible apply KeepsX.next
    | split

theorem State.restored_keeps {r₀ : State} {s : State} (i was plots : Nat) (hk : Keeps r₀ s) :
    Keeps r₀ (State.restored s i was plots) := by
  unfold State.restored
  repeat' first
    | with_reducible assumption
    | extract_lets +onlyGivenNames kx; refine @Keeps.cut _ r₀ kx ?_ ?_; subst kx; rotate_left; clear_value kx; intro hkx
    | extract_lets +onlyGivenNames kx; subst kx
    | with_reducible apply State.updReq_keeps
    | with_reducible apply State.recover_keeps
    | with_reducible apply State.ensureKv_keeps
    | with_reducible apply Keeps.ite
    | with_reducible apply Keeps.set; with_reducible refine KeepsP.fst (by assumption) ?_
    | split

theorem State.restoreOne_keeps {r₀ : State} {s : State} (fid : Nat) (appx : List (Nat × Nat × List Nat)) (x : CkptRec)
    (hk : Keeps r₀ s) :
    KeepsP r₀ (State.restoreOne s fid appx x) := by
  unfold State.restoreOne
  repeat' first
    | with_reducible assumption
    | extract_lets +onlyGivenNames kx; refine @Keeps.cut _ r₀ kx ?_ ?_; subst kx; rotate_left; clear_value kx; intro hkx
    | extract_lets +onlyGivenNames kx; subst kx
    | with_reducible apply State.updReq_keeps
    | with_reducible apply State.journalAdd_keeps
    | with_reducible apply State.arrivedEvent_keeps
    | with_reducible apply State.newEntry_keeps
    | with_reducible apply State.restored_keeps
    | with_reducible apply KeepsP.ite
    | with_reducible apply KeepsP.mk; fail_if_success (with_reducible apply KeepsP.proj)
    | with_reducible apply Keeps.set; with_reducible refine KeepsOP.get (by assumption) ?_
    | split

theorem State.restoreAll_keeps {r₀ s : State} (fid : Nat) (appx : List (Nat × Nat × List Nat)) (xs : List CkptRec) (hk :
    Keeps r₀ s) :
    KeepsP r₀ (s.restoreAll fid appx xs) := by
  induction xs generalizing s with
  | nil => exact KeepsP.mk hk
  | cons x xs ih =>
    unfold State.restoreAll
    repeat' first
      | with_reducible apply ih
      | with_reducible assumption
      | with_reducible apply State.eventTo_keeps
      | with_reducible apply State.restoreOne_keeps
      | with_reducible apply KeepsP.ite
      | with_reducible apply KeepsP.mk; fail_if_success (with_reducible apply KeepsP.proj)
      | with_reducible apply Keeps.set; with_reducible refine KeepsP.fst (by assumption) ?_
      | split

theorem execRmpCkptRestore_keeps {r₀ : State} (mb : MbId) {s : State} (hk : Keeps r₀ s) :
    KeepsX r₀ (execRmpCkptRestore mb s) := by
  unfold execRmpCkptRestore
  repeat' first
    | with_reducible assumption
    | extract_lets +onlyGivenNames kx; subst kx
    | with_reducible apply State.graftPump_keeps
    | with_reducible apply State.reply_keeps
    | with_reducible apply State.answer_keeps
    | with_reducible apply State.answerBad_keeps
    | with_reducible apply State.restoreAll_keeps
    | with_reducible apply KeepsX.next
    | with_reducible apply KeepsX.ite
    | with_reducible apply KeepsP.proj
    | split

theorem State.keepPulled_keeps {r₀ : State} {s : State} (k : Nat) (o : List Byte) (hk : Keeps r₀ s) :
    KeepsO r₀ (State.keepPulled s k o) := by
  unfold State.keepPulled
  repeat' first
    | with_reducible assumption
    | with_reducible intro hkf
    | extract_lets +onlyGivenNames kx; subst kx
    | with_reducible apply State.updSlot_keeps
    | with_reducible apply State.placeSlots_keeps
    | with_reducible apply KeepsO.mapS

theorem State.pullSlot_keeps {r₀ : State} {s0 : State} (k : Nat) (entry : Nat) (o : List Byte) (hk : Keeps r₀ s0) :
    KeepsP r₀ (State.pullSlot s0 k entry o) := by
  unfold State.pullSlot
  repeat' first
    | with_reducible assumption
    | with_reducible intro hkf
    | extract_lets +onlyGivenNames kx; refine @Keeps.cut _ r₀ kx ?_ ?_; subst kx; rotate_left; clear_value kx; intro hkx
    | with_reducible apply State.updSlot_keeps
    | with_reducible apply State.tenantEvent_keeps
    | with_reducible apply State.placeObject_keeps
    | with_reducible apply State.writeSlot_keeps
    | with_reducible apply State.keepPulled_keeps
    | with_reducible apply KeepsP.ite
    | with_reducible apply KeepsP.mk; fail_if_success (with_reducible apply KeepsP.proj)
    | with_reducible apply Keeps.set; with_reducible assumption
    | with_reducible apply Keeps.set; with_reducible refine KeepsO.get (by assumption) ?_
    | with_reducible apply KeepsO.bindS
    | split

theorem State.pullSlots_keeps {r₀ s : State} (o : PartnerOffer) (ks : List Nat) (n : Nat) (hk : Keeps r₀ s) :
    KeepsP r₀ (s.pullSlots o ks n) := by
  induction ks generalizing s n with
  | nil => exact KeepsP.mk hk
  | cons k ks ih =>
    unfold State.pullSlots
    split
    · exact KeepsP.mk hk
    · rename_i x e
      have h2 := State.pullSlot_keeps k x.1.toNat x.2 hk
      exact KeepsP.ite (ih _ h2) (KeepsP.mk h2)

theorem execRmpPartnerLoad_keeps {r₀ : State} (mb : MbId) (o : PartnerOffer) {s : State} (hk : Keeps r₀ s) :
    KeepsX r₀ (execRmpPartnerLoad mb o s) := by
  unfold execRmpPartnerLoad
  repeat' first
    | with_reducible assumption
    | extract_lets +onlyGivenNames kx; subst kx
    | with_reducible apply State.reply_keeps
    | with_reducible apply State.answer_keeps
    | with_reducible apply State.pullSlots_keeps
    | with_reducible apply KeepsX.next
    | with_reducible apply KeepsX.ite
    | with_reducible apply KeepsP.proj
    | split

end Sys2Proof.Machine
end

