-- ==== Sys2Proof/Laws/FrameBoundary.lean ====
section
/-!
SUPPORT. Sys2Proof/Laws/FrameBoundary.lean: what the operations and commands of Machine/Boundary.lean keep (`Keeps`): the queue, the
Cloche, programmed fuses and the canonical form of every byte memory.
-/
namespace Sys2Proof.Machine

theorem State.writeTables_keeps {r₀ : State} {s : State} (hk : Keeps r₀ s) : Keeps r₀ (State.writeTables s) := by
  unfold State.writeTables
  repeat' first
    | with_reducible assumption
    | extract_lets +onlyGivenNames kx; refine @Keeps.cut _ r₀ kx ?_ ?_; subst kx; rotate_left; clear_value kx; intro hkx
    | with_reducible apply State.flushJournal_keeps
    | with_reducible apply State.wr_keeps
    | with_reducible apply State.writeTenant_keeps
    | with_reducible apply State.tenantCheck_keeps
    | with_reducible apply State.syncRing_keeps
    | with_reducible apply State.writeReq_keeps
    | with_reducible apply State.writeSlot_keeps
    | with_reducible refine Keeps.foldl ?_ ?_; intro _ _ _

theorem execStepBoundary_keeps {r₀ : State} {s : State} (hk : Keeps r₀ s) : KeepsX r₀ (execStepBoundary s) := by
  unfold execStepBoundary
  repeat' first
    | with_reducible assumption
    | extract_lets +onlyGivenNames kx; refine @Keeps.cut _ r₀ kx ?_ ?_; subst kx; rotate_left; clear_value kx; intro hkx
    | extract_lets +onlyGivenNames kx; subst kx
    | with_reducible apply State.powerCap_keeps
    | with_reducible apply State.applyPlans_keeps
    | with_reducible apply State.graftPump_keeps
    | with_reducible apply State.retryOpens_keeps
    | with_reducible apply State.boundaryVersion_keeps
    | with_reducible apply State.swing_keeps
    | with_reducible apply State.boundaryChanges_keeps
    | with_reducible apply State.boundaryDeadlines_keeps
    | with_reducible apply State.compose_keeps
    | with_reducible apply State.ckptBoundary_keeps
    | with_reducible apply State.writeTables_keeps
    | with_reducible apply KeepsX.next
    | with_reducible apply KeepsX.ite

theorem execIdleBoundary_keeps {r₀ : State} {s : State} (hk : Keeps r₀ s) : KeepsX r₀ (execIdleBoundary s) := by
  unfold execIdleBoundary
  repeat' first
    | with_reducible assumption
    | with_reducible apply State.powerCap_keeps
    | with_reducible apply State.applyPlans_keeps
    | with_reducible apply State.boundaryVersion_keeps
    | with_reducible apply State.writeTables_keeps
    | with_reducible apply KeepsX.next
    | with_reducible apply KeepsX.ite

end Sys2Proof.Machine
end

