-- ==== Sys2Proof/Laws/FramePins.lean ====
section
/-!
SUPPORT. Sys2Proof/Laws/FramePins.lean: what the operations and commands of Machine/Pins.lean keep (`Keeps`): the queue, the
Cloche, programmed fuses and the canonical form of every byte memory.
-/
namespace Sys2Proof.Machine

theorem execPowerUp_keeps {r₀ s : State} (hk : Keeps r₀ s) : KeepsX r₀ (execPowerUp s) := by
  unfold execPowerUp
  refine KeepsX.ite (KeepsX.next hk) (KeepsX.next ?_)
  have h1 := State.deviceReset_keeps 1 false hk
  refine h1.trans ⟨rfl, OtpLe.refl _, rfl, fun w => ⟨?_, w.t3, w.host, w.qspi, w.half⟩⟩
  exact foldl_memSet_prop_wf (fun c => regionOf c.1 = .sbw) _ (filter_wf _ w.mem)

theorem execRailFault_keeps {r₀ : State} (beyond15 : Bool) {s : State} (hk : Keeps r₀ s) :
    KeepsX r₀ (execRailFault beyond15 s) := by
  unfold execRailFault
  repeat' first
    | with_reducible assumption
    | extract_lets +onlyGivenNames kx; refine @Keeps.cut _ r₀ kx ?_ ?_; subst kx; rotate_left; clear_value kx; intro hkx
    | extract_lets +onlyGivenNames kx; subst kx
    | with_reducible apply State.deviceReset_keeps
    | with_reducible apply State.trip_keeps
    | with_reducible apply Keeps.ite
    | with_reducible apply KeepsX.next
    | with_reducible apply KeepsX.ite
    | with_reducible apply Keeps.set; with_reducible assumption

theorem execResetNAssert_keeps {r₀ : State} {s : State} (hk : Keeps r₀ s) : KeepsX r₀ (execResetNAssert s) := by
  unfold execResetNAssert
  repeat' first
    | with_reducible assumption
    | extract_lets +onlyGivenNames kx; refine @Keeps.cut _ r₀ kx ?_ ?_; subst kx; rotate_left; clear_value kx; intro hkx
    | extract_lets +onlyGivenNames kx; subst kx
    | with_reducible apply State.deviceReset_keeps
    | with_reducible apply KeepsX.next
    | with_reducible apply KeepsX.ite
    | with_reducible apply Keeps.set; with_reducible assumption

theorem execPowerDown_keeps {r₀ : State} (ordered : Bool) {s : State} (hk : Keeps r₀ s) :
    KeepsX r₀ (execPowerDown ordered s) := by
  unfold execPowerDown
  repeat' first
    | with_reducible assumption
    | extract_lets +onlyGivenNames kx; refine @Keeps.cut _ r₀ kx ?_ ?_; subst kx; rotate_left; clear_value kx; intro hkx
    | extract_lets +onlyGivenNames kx; subst kx
    | with_reducible apply State.deviceReset_keeps
    | with_reducible apply State.trip_keeps
    | with_reducible apply Keeps.ite
    | with_reducible apply KeepsX.next
    | with_reducible apply KeepsX.ite
    | with_reducible apply Keeps.set; with_reducible assumption

theorem State.progress_keeps {r₀ : State} {s : State} (phase error : Nat) (hk : Keeps r₀ s) :
    Keeps r₀ (State.progress s phase error) := by
  unfold State.progress
  repeat' first
    | with_reducible assumption
    | extract_lets +onlyGivenNames kx; refine @Keeps.cut _ r₀ kx ?_ ?_; subst kx; rotate_left; clear_value kx; intro hkx
    | extract_lets +onlyGivenNames kx; subst kx
    | with_reducible apply State.wr_keeps
    | with_reducible apply Keeps.set; with_reducible assumption

theorem execBootProgressWrite_keeps {r₀ : State} (v : BitVec 32) {s : State} (hk : Keeps r₀ s) :
    KeepsX r₀ (execBootProgressWrite v s) := by
  unfold execBootProgressWrite
  repeat' first
    | with_reducible assumption
    | with_reducible apply State.progress_keeps
    | with_reducible apply KeepsX.next
    | with_reducible apply KeepsX.ite

theorem State.warnA_keeps {r₀ : State} {s : State} (hk : Keeps r₀ s) : Keeps r₀ (State.warnA s) := by
  unfold State.warnA
  repeat' first
    | extract_lets +onlyGivenNames kx; subst kx
    | with_reducible apply Keeps.set; with_reducible assumption

theorem State.warnB_keeps {r₀ : State} {s : State} (hk : Keeps r₀ s) : Keeps r₀ (State.warnB s) := by
  unfold State.warnB
  repeat' first
    | extract_lets +onlyGivenNames kx; subst kx
    | with_reducible apply Keeps.set; with_reducible assumption

theorem State.warn_keeps {r₀ : State} {s : State} (o : SbOverlap) (hk : Keeps r₀ s) : Keeps r₀ (State.warn s o) := by
  unfold State.warn
  repeat' first
    | with_reducible assumption
    | extract_lets +onlyGivenNames kx; refine @Keeps.cut _ r₀ kx ?_ ?_; subst kx; rotate_left; clear_value kx; intro hkx
    | with_reducible apply State.warnA_keeps
    | with_reducible apply State.warnB_keeps
    | with_reducible apply Keeps.ite

theorem State.sbResp_keeps {r₀ : State} {s : State} (bs : List Byte) (hk : Keeps r₀ s) : Keeps r₀ (State.sbResp s bs) := by
  unfold State.sbResp
  repeat' first
    | extract_lets +onlyGivenNames kx; subst kx
    | with_reducible apply Keeps.set; with_reducible assumption

theorem State.sbBad_keeps {r₀ : State} {s : State} (hk : Keeps r₀ s) : Keeps r₀ (State.sbBad s) := by
  unfold State.sbBad
  repeat' first
    | extract_lets +onlyGivenNames kx; subst kx
    | with_reducible apply Keeps.set; with_reducible assumption

theorem execSbStatus_keeps {r₀ : State} {s : State} (hk : Keeps r₀ s) : KeepsX r₀ (execSbStatus s) := by
  unfold execSbStatus
  repeat' first
    | with_reducible assumption
    | extract_lets +onlyGivenNames kx; subst kx
    | with_reducible apply KeepsX.next
    | with_reducible apply KeepsX.ite
    | with_reducible apply Keeps.set; with_reducible assumption

theorem execSbRead_keeps {r₀ : State} (off : BitVec 24) (len : BitVec 16) (ov : Option SbOverlap) {s : State}
    (hk : Keeps r₀ s) :
    KeepsX r₀ (execSbRead off len ov s) := by
  unfold execSbRead
  repeat' first
    | with_reducible assumption
    | extract_lets +onlyGivenNames kx; subst kx
    | with_reducible apply State.draw_keeps
    | with_reducible apply State.wr_keeps
    | with_reducible apply State.warn_keeps
    | with_reducible apply State.sbResp_keeps
    | with_reducible apply State.sbBad_keeps
    | with_reducible apply KeepsX.next
    | with_reducible apply KeepsX.ite
    | split

theorem State.sbPut_keeps {r₀ s : State} (off n : Nat) (bs : List Byte) (hk : Keeps r₀ s) :
    Keeps r₀ (s.sbPut off n bs) := by
  induction n generalizing s off bs with
  | zero => exact hk
  | succ n ih =>
    unfold State.sbPut
    repeat' first
      | with_reducible apply ih
      | with_reducible assumption
      | with_reducible apply State.wrBytes_keeps
      | with_reducible apply Keeps.ite

theorem execSbWrite_keeps {r₀ : State} (off : BitVec 24) (data : List Byte) (ov : Option SbOverlap) {s : State}
    (hk : Keeps r₀ s) :
    KeepsX r₀ (execSbWrite off data ov s) := by
  unfold execSbWrite
  repeat' first
    | with_reducible assumption
    | extract_lets +onlyGivenNames kx; refine @Keeps.cut _ r₀ kx ?_ ?_; subst kx; rotate_left; clear_value kx; intro hkx
    | extract_lets +onlyGivenNames kx; subst kx
    | with_reducible apply State.draw_keeps
    | with_reducible apply State.warn_keeps
    | with_reducible apply State.sbResp_keeps
    | with_reducible apply State.sbBad_keeps
    | with_reducible apply State.sbPut_keeps
    | with_reducible apply KeepsX.next
    | with_reducible apply KeepsX.ite
    | with_reducible apply Keeps.set; with_reducible assumption
    | split

theorem execSbIdent_keeps {r₀ : State} {s : State} (hk : Keeps r₀ s) : KeepsX r₀ (execSbIdent s) := by
  unfold execSbIdent
  repeat' first
    | with_reducible assumption
    | with_reducible apply State.sbResp_keeps
    | with_reducible apply KeepsX.next
    | with_reducible apply KeepsX.ite

theorem execSbDynamicAddress_keeps {r₀ : State} (addr : BitVec 7) {s : State} (hk : Keeps r₀ s) :
    KeepsX r₀ (execSbDynamicAddress addr s) := by
  unfold execSbDynamicAddress
  repeat' first
    | with_reducible assumption
    | extract_lets +onlyGivenNames kx; subst kx
    | with_reducible apply KeepsX.next
    | with_reducible apply KeepsX.ite
    | with_reducible apply Keeps.set; with_reducible assumption

theorem execSbwCntClr_keeps {r₀ : State} {s : State} (hk : Keeps r₀ s) : KeepsX r₀ (execSbwCntClr s) := by
  unfold execSbwCntClr
  repeat' first
    | with_reducible assumption
    | extract_lets +onlyGivenNames kx; subst kx
    | with_reducible apply KeepsX.next
    | with_reducible apply KeepsX.ite
    | with_reducible apply Keeps.set; with_reducible assumption

theorem State.toBypass_keeps {r₀ : State} {s : State} (hk : Keeps r₀ s) : Keeps r₀ (State.toBypass s) := by
  unfold State.toBypass
  repeat' first
    | extract_lets +onlyGivenNames kx; subst kx
    | with_reducible apply Keeps.set; with_reducible assumption

theorem State.scan_keeps {r₀ : State} {s : State} (ir : JIr) (d : PinDrive) (pins : Option (List Bool)) (hk : Keeps r₀ s) :
    Keeps r₀ (State.scan s ir d pins) := by
  unfold State.scan
  repeat' first
    | with_reducible assumption
    | extract_lets +onlyGivenNames kx; subst kx
    | with_reducible apply State.toBypass_keeps
    | with_reducible apply Keeps.ite
    | with_reducible apply Keeps.set; with_reducible assumption

theorem execBypass_keeps {r₀ : State} {s : State} (hk : Keeps r₀ s) : KeepsX r₀ (execBypass s) := by
  unfold execBypass
  repeat' first
    | with_reducible assumption
    | with_reducible apply State.toBypass_keeps
    | with_reducible apply KeepsX.next
    | with_reducible apply KeepsX.ite

theorem execIdcode_keeps {r₀ : State} {s : State} (hk : Keeps r₀ s) : KeepsX r₀ (execIdcode s) := by
  unfold execIdcode
  repeat' first
    | with_reducible assumption
    | extract_lets +onlyGivenNames kx; subst kx
    | with_reducible apply KeepsX.next
    | with_reducible apply KeepsX.ite
    | with_reducible apply Keeps.set; with_reducible assumption

theorem execSamplePreload_keeps {r₀ : State} (pins preload : List Bool) {s : State} (hk : Keeps r₀ s) :
    KeepsX r₀ (execSamplePreload pins preload s) := by
  unfold execSamplePreload
  repeat' first
    | with_reducible assumption
    | extract_lets +onlyGivenNames kx; subst kx
    | with_reducible apply KeepsX.next
    | with_reducible apply KeepsX.ite
    | with_reducible apply Keeps.set; with_reducible assumption

theorem execExtest_keeps {r₀ : State} (pins : List Bool) {s : State} (hk : Keeps r₀ s) : KeepsX r₀ (execExtest pins s) := by
  unfold execExtest
  repeat' first
    | with_reducible assumption
    | with_reducible apply State.scan_keeps
    | with_reducible apply KeepsX.next

theorem execClamp_keeps {r₀ : State} {s : State} (hk : Keeps r₀ s) : KeepsX r₀ (execClamp s) := by
  unfold execClamp
  repeat' first
    | with_reducible assumption
    | with_reducible apply State.scan_keeps
    | with_reducible apply KeepsX.next

theorem execHighz_keeps {r₀ : State} {s : State} (hk : Keeps r₀ s) : KeepsX r₀ (execHighz s) := by
  unfold execHighz
  repeat' first
    | with_reducible assumption
    | with_reducible apply State.scan_keeps
    | with_reducible apply KeepsX.next

theorem execExtestPulse_keeps {r₀ : State} (pins : List Bool) {s : State} (hk : Keeps r₀ s) :
    KeepsX r₀ (execExtestPulse pins s) := by
  unfold execExtestPulse
  repeat' first
    | with_reducible assumption
    | with_reducible apply State.scan_keeps
    | with_reducible apply KeepsX.next

theorem execExtestTrain_keeps {r₀ : State} (pins : List Bool) {s : State} (hk : Keeps r₀ s) :
    KeepsX r₀ (execExtestTrain pins s) := by
  unfold execExtestTrain
  repeat' first
    | with_reducible assumption
    | with_reducible apply State.scan_keeps
    | with_reducible apply KeepsX.next

theorem execDbgDtmcs_keeps {r₀ : State} {s : State} (hk : Keeps r₀ s) : KeepsX r₀ (execDbgDtmcs s) := by
  unfold execDbgDtmcs
  repeat' first
    | with_reducible assumption
    | extract_lets +onlyGivenNames kx; subst kx
    | with_reducible apply State.toBypass_keeps
    | with_reducible apply KeepsX.next
    | with_reducible apply KeepsX.ite
    | with_reducible apply Keeps.set; with_reducible assumption

end Sys2Proof.Machine
end

