-- ==== Sys2Proof/Laws/FrameRmpSys.lean ====
section
/-!
SUPPORT. Sys2Proof/Laws/FrameRmpSys.lean: what the operations and commands of Machine/RmpSys.lean keep (`Keeps`): the queue, the
Cloche, programmed fuses and the canonical form of every byte memory.
-/
namespace Sys2Proof.Machine

theorem execRmpSecQuery_keeps {r₀ : State} (mb : MbId) {s : State} (hk : Keeps r₀ s) :
    KeepsX r₀ (execRmpSecQuery mb s) := by
  unfold execRmpSecQuery
  repeat' first
    | with_reducible assumption
    | extract_lets +onlyGivenNames kx; subst kx
    | with_reducible apply State.reply_keeps
    | with_reducible apply KeepsX.next
    | split

theorem execRmpFwStage_keeps {r₀ : State} (mb : MbId) {s : State} (hk : Keeps r₀ s) : KeepsX r₀ (execRmpFwStage mb s) := by
  unfold execRmpFwStage
  repeat' first
    | with_reducible assumption
    | extract_lets +onlyGivenNames kx; subst kx
    | with_reducible apply State.devEvent_keeps
    | with_reducible apply State.qspiPut_keeps
    | with_reducible apply State.reply_keeps
    | with_reducible apply State.answer_keeps
    | with_reducible apply KeepsX.next
    | with_reducible apply KeepsX.ite
    | split

theorem execRmpFwActivate_keeps {r₀ : State} (mb : MbId) {s : State} (hk : Keeps r₀ s) :
    KeepsX r₀ (execRmpFwActivate mb s) := by
  unfold execRmpFwActivate
  repeat' first
    | with_reducible assumption
    | extract_lets +onlyGivenNames kx; subst kx
    | with_reducible apply State.devEvent_keeps
    | with_reducible apply State.writeBootBlock_keeps
    | with_reducible apply State.answer_keeps
    | with_reducible apply KeepsX.next
    | with_reducible apply KeepsX.ite
    | split

theorem State.burnSvn_keeps {r₀ s : State} (stage v : Nat) (hk : Keeps r₀ s) : Keeps r₀ (s.burnSvn stage v) := by
  refine hk.trans ⟨rfl, ?_, rfl, fun w => ⟨w.mem, w.t3, w.host, w.qspi, w.half⟩⟩
  show OtpLe s.sec.otp (if stage = 1 then _ else _)
  split
  · exact ⟨fun h => ⟨Nat.le_refl _, h⟩, Nat.le_max_left _ _, Nat.le_refl _⟩
  · exact ⟨fun h => ⟨Nat.le_refl _, h⟩, Nat.le_refl _, Nat.le_max_left _ _⟩

theorem execRmpRollbackAdvance_keeps {r₀ : State} (mb : MbId) {s : State} (hk : Keeps r₀ s) :
    KeepsX r₀ (execRmpRollbackAdvance mb s) := by
  unfold execRmpRollbackAdvance
  repeat' first
    | with_reducible assumption
    | extract_lets +onlyGivenNames kx; refine @Keeps.cut _ r₀ kx ?_ ?_; subst kx; rotate_left; clear_value kx; intro hkx
    | extract_lets +onlyGivenNames kx; subst kx
    | with_reducible apply State.devEvent_keeps
    | with_reducible apply State.reply_keeps
    | with_reducible apply State.answer_keeps
    | with_reducible apply State.burnSvn_keeps
    | with_reducible apply Keeps.ite
    | with_reducible apply KeepsX.next
    | with_reducible apply KeepsX.ite
    | split

theorem State.mbDone_otp (s : State) (mb : MbId) : (s.mbDone mb).sec.otp = s.sec.otp := by
  have hx : ∀ (t : State) (ld vec : Nat), (t.msix ld vec).sec = t.sec := by
    intro t ld vec
    unfold State.msix
    repeat' split
    all_goals rfl
  have hu : ∀ f : Mailbox → Mailbox, (s.updMb mb f).sec = s.sec := fun f => by
    unfold State.updMb
    split <;> rfl
  unfold State.mbDone
  extract_lets s1
  have h1 : s1.sec.otp = s.sec.otp := congrArg _ (hu _)
  clear_value s1
  split
  · split
    · rw [hx]; exact h1
    · exact h1
  · exact h1

theorem State.reply_otp (s : State) (mb : MbId) (st bad : Nat) (bs : List Byte) :
    (s.reply mb st bad bs).sec.otp = s.sec.otp := by
  unfold State.reply
  repeat' split
  all_goals dsimp only
  all_goals repeat' split
  all_goals first | rfl | (rw [State.mbDone_otp]; rfl) | (unfold State.updMb; split <;> rfl)

theorem execRmpLcTransition_keeps {r₀ s : State} (mb : MbId) (hk : Keeps r₀ s) : KeepsX r₀ (execRmpLcTransition mb s) := by
  unfold execRmpLcTransition
  split
  · exact KeepsX.next hk
  · rename_i m hm
    extract_lets target st
    refine KeepsX.ite (KeepsX.next (State.answer_keeps _ _ hk)) ?_
    split
    · exact KeepsX.next (State.answer_keeps _ _ hk)
    · have h : st = Stat.ok := Classical.not_not.mp ‹_›
      refine KeepsX.next (State.transition_keeps _ ?_ (State.answer_keeps _ _ hk))
      intro w
      have e : (s.answer mb Stat.ok).sec.otp = s.sec.otp := State.reply_otp ..
      rw [e] at w ⊢
      exact State.transitionStatus_le h w

theorem execRmpPowerQuery_keeps {r₀ : State} (mb : MbId) {s : State} (hk : Keeps r₀ s) :
    KeepsX r₀ (execRmpPowerQuery mb s) := by
  unfold execRmpPowerQuery
  repeat' first
    | with_reducible assumption
    | extract_lets +onlyGivenNames kx; subst kx
    | with_reducible apply State.reply_keeps
    | with_reducible apply KeepsX.next
    | split

theorem execRmpPowerCap_keeps {r₀ : State} (mb : MbId) {s : State} (hk : Keeps r₀ s) :
    KeepsX r₀ (execRmpPowerCap mb s) := by
  unfold execRmpPowerCap
  repeat' first
    | with_reducible assumption
    | extract_lets +onlyGivenNames kx; subst kx
    | with_reducible apply State.answer_keeps
    | with_reducible apply KeepsX.next
    | with_reducible apply Keeps.set; with_reducible assumption
    | split

theorem execRmpTimerAlloc_keeps {r₀ : State} (mb : MbId) {s : State} (hk : Keeps r₀ s) :
    KeepsX r₀ (execRmpTimerAlloc mb s) := by
  unfold execRmpTimerAlloc
  repeat' first
    | with_reducible assumption
    | extract_lets +onlyGivenNames kx; refine @Keeps.cut _ r₀ kx ?_ ?_; subst kx; rotate_left; clear_value kx; intro hkx
    | with_reducible apply State.updCmp_keeps
    | with_reducible apply State.reply_keeps
    | with_reducible apply State.answer_keeps
    | with_reducible apply KeepsX.next
    | with_reducible apply KeepsX.ite
    | split

theorem execRmpTimerFree_keeps {r₀ : State} (mb : MbId) {s : State} (hk : Keeps r₀ s) :
    KeepsX r₀ (execRmpTimerFree mb s) := by
  unfold execRmpTimerFree
  repeat' first
    | with_reducible assumption
    | extract_lets +onlyGivenNames kx; subst kx
    | with_reducible apply State.updCmp_keeps
    | with_reducible apply State.answer_keeps
    | with_reducible apply KeepsX.next
    | with_reducible apply KeepsX.ite
    | split

theorem execRmpAgeReport_keeps {r₀ : State} (mb : MbId) {s : State} (hk : Keeps r₀ s) :
    KeepsX r₀ (execRmpAgeReport mb s) := by
  unfold execRmpAgeReport
  repeat' first
    | with_reducible assumption
    | with_reducible apply State.reply_keeps
    | with_reducible apply KeepsX.next
    | split

theorem execRmpBootParamSet_keeps {r₀ : State} (mb : MbId) {s : State} (hk : Keeps r₀ s) :
    KeepsX r₀ (execRmpBootParamSet mb s) := by
  unfold execRmpBootParamSet
  repeat' first
    | with_reducible assumption
    | with_reducible apply State.writeBootBlock_keeps
    | with_reducible apply State.answer_keeps
    | with_reducible apply KeepsX.next
    | split

end Sys2Proof.Machine
end

