-- ==== Sys2Proof/Laws/FrameStartup.lean ====
section
/-!
SUPPORT. Sys2Proof/Laws/FrameStartup.lean: what the operations and commands of Machine/Startup.lean keep (`Keeps`): the queue, the
Cloche, programmed fuses and the canonical form of every byte memory.
-/
namespace Sys2Proof.Machine

theorem State.phase_keeps {r₀ s : State} {f : State → State} (hf : ∀ t, Keeps r₀ t → Keeps r₀ (f t)) (hk : Keeps r₀ s) :
    Keeps r₀ (s.phase f) := Keeps.ite (hf _ hk) hk

theorem State.romStart_keeps {r₀ s : State} (i : StartupIn) (hk : Keeps r₀ s) : Keeps r₀ (s.romStart i) := by
  unfold State.romStart
  extract_lets _ _ _ s1 s2 _ _ s3
  have h1 : Keeps r₀ s1 := Keeps.set (t := s) hk
  have h2 : Keeps r₀ s2 := State.zeroSecure_keeps h1
  have h3 : Keeps r₀ s3 := Keeps.setSec (t := s2) h2 rfl rfl
  exact State.progress_keeps _ _ h3

theorem State.trainTrellis_keeps {r₀ : State} {s : State} (lost : List (Nat × Nat × Nat)) (hk : Keeps r₀ s) :
    Keeps r₀ (State.trainTrellis s lost) := by
  unfold State.trainTrellis
  repeat' first
    | with_reducible assumption
    | with_reducible intro hkf
    | extract_lets +onlyGivenNames kx; refine @Keeps.cut _ r₀ kx ?_ ?_; subst kx; rotate_left; clear_value kx; intro hkx
    | extract_lets +onlyGivenNames kx; subst kx
    | with_reducible apply State.raise_keeps
    | with_reducible apply State.sample_keeps
    | with_reducible apply State.updPort_keeps
    | with_reducible apply State.progress_keeps
    | with_reducible apply State.phase_keeps
    | with_reducible apply Keeps.ite
    | with_reducible refine Keeps.foldl ?_ ?_; intro _ _ _

theorem State.recoveryBoot_keeps {r₀ : State} {s : State} (i : StartupIn) (status : Nat) (hk : Keeps r₀ s) :
    Keeps r₀ (State.recoveryBoot s i status) := by
  unfold State.recoveryBoot
  repeat' first
    | with_reducible assumption
    | extract_lets +onlyGivenNames kx; refine @Keeps.cut _ r₀ kx ?_ ?_; subst kx; rotate_left; clear_value kx; intro hkx
    | extract_lets +onlyGivenNames kx; subst kx
    | with_reducible apply State.trainCxl_keeps
    | with_reducible apply State.progress_keeps
    | with_reducible apply Keeps.ite
    | with_reducible apply Keeps.set; with_reducible assumption

theorem State.firstStarts_keeps {r₀ : State} {s : State} (h slot : Nat) (hk : Keeps r₀ s) :
    Keeps r₀ (State.firstStarts s h slot) := by
  unfold State.firstStarts
  repeat' first
    | extract_lets +onlyGivenNames kx; refine @Keeps.cut _ r₀ kx ?_ ?_; subst kx; rotate_left; clear_value kx; intro hkx
    | extract_lets +onlyGivenNames kx; subst kx
    | with_reducible apply Keeps.set; with_reducible assumption
    | with_reducible refine Keeps.setSec ?_ rfl rfl; with_reducible assumption

theorem State.romBoots_keeps {r₀ : State} {s : State} (i : StartupIn) (hk : Keeps r₀ s) :
    Keeps r₀ (State.romBoots s i) := by
  unfold State.romBoots
  repeat' first
    | with_reducible assumption
    | extract_lets +onlyGivenNames kx; refine @Keeps.cut _ r₀ kx ?_ ?_; subst kx; rotate_left; clear_value kx; intro hkx
    | extract_lets +onlyGivenNames kx; subst kx
    | with_reducible apply State.wrBytes_keeps
    | with_reducible apply State.progress_keeps
    | with_reducible apply State.recoveryBoot_keeps
    | with_reducible apply State.firstStarts_keeps
    | with_reducible apply Keeps.ite
    | with_reducible refine Keeps.setSec ?_ rfl rfl; with_reducible assumption
    | split

theorem State.bootCxl_keeps {r₀ : State} {s : State} (i : StartupIn) (hk : Keeps r₀ s) : Keeps r₀ (State.bootCxl s i) := by
  unfold State.bootCxl
  repeat' first
    | with_reducible assumption
    | extract_lets +onlyGivenNames kx; refine @Keeps.cut _ r₀ kx ?_ ?_; subst kx; rotate_left; clear_value kx; intro hkx
    | extract_lets +onlyGivenNames kx; subst kx
    | with_reducible apply State.trainCxl_keeps
    | with_reducible apply Keeps.ite
    | with_reducible apply Keeps.set; with_reducible assumption

theorem State.bootLpddr_keeps {r₀ : State} {s : State} (failed : List Nat) (active : Bool) (hk : Keeps r₀ s) :
    Keeps r₀ (State.bootLpddr s failed active) := by
  unfold State.bootLpddr
  repeat' first
    | with_reducible assumption
    | with_reducible intro hkf
    | extract_lets +onlyGivenNames kx; refine @Keeps.cut _ r₀ kx ?_ ?_; subst kx; rotate_left; clear_value kx; intro hkx
    | extract_lets +onlyGivenNames kx; subst kx
    | with_reducible apply State.updLpc_keeps
    | with_reducible apply State.zero_keeps
    | with_reducible apply State.raise_keeps
    | with_reducible apply State.sample_keeps
    | with_reducible apply State.progress_keeps
    | with_reducible apply State.phase_keeps
    | with_reducible apply Keeps.ite
    | with_reducible apply Keeps.set; with_reducible assumption
    | with_reducible refine Keeps.foldl ?_ ?_; intro _ _ _

theorem State.bootMain_keeps {r₀ : State} {s : State} (hk : Keeps r₀ s) : Keeps r₀ (State.bootMain s) := by
  unfold State.bootMain
  repeat' first
    | with_reducible assumption
    | extract_lets +onlyGivenNames kx; refine @Keeps.cut _ r₀ kx ?_ ?_; subst kx; rotate_left; clear_value kx; intro hkx
    | extract_lets +onlyGivenNames kx; subst kx
    | with_reducible apply State.wrBytes_keeps
    | with_reducible apply State.writeBootBlock_keeps
    | with_reducible apply State.splitStaging_keeps
    | with_reducible apply State.progress_keeps
    | with_reducible apply Keeps.set; with_reducible assumption
    | with_reducible refine Keeps.setSec ?_ rfl rfl; with_reducible assumption

theorem State.bootHbm_keeps {r₀ : State} {s : State} (failed : List Nat) (hk : Keeps r₀ s) :
    Keeps r₀ (State.bootHbm s failed) := by
  unfold State.bootHbm
  repeat' first
    | with_reducible assumption
    | with_reducible intro hkf
    | extract_lets +onlyGivenNames kx; refine @Keeps.cut _ r₀ kx ?_ ?_; subst kx; rotate_left; clear_value kx; intro hkx
    | with_reducible apply State.raise_keeps
    | with_reducible apply State.sample_keeps
    | with_reducible apply State.progress_keeps
    | with_reducible apply State.phase_keeps
    | with_reducible apply Keeps.ite
    | with_reducible refine Keeps.foldl ?_ ?_; intro _ _ _

theorem State.bootFlash_keeps {r₀ : State} {s : State} (i : StartupIn) (hk : Keeps r₀ s) :
    Keeps r₀ (State.bootFlash s i) := by
  unfold State.bootFlash
  repeat' first
    | with_reducible assumption
    | extract_lets +onlyGivenNames kx; refine @Keeps.cut _ r₀ kx ?_ ?_; subst kx; rotate_left; clear_value kx; intro hkx
    | with_reducible apply State.devEvent_keeps
    | with_reducible apply State.progress_keeps
    | with_reducible apply Keeps.ite
    | with_reducible apply Keeps.set; with_reducible assumption

theorem State.bootTiles_keeps {r₀ : State} {s : State} (i : StartupIn) (hk : Keeps r₀ s) :
    Keeps r₀ (State.bootTiles s i) := by
  unfold State.bootTiles
  repeat' first
    | with_reducible assumption
    | with_reducible apply State.planTile_keeps
    | with_reducible apply State.progress_keeps
    | with_reducible refine Keeps.foldl ?_ ?_; intro _ _ _

theorem State.bootLinks_keeps {r₀ : State} {s : State} (hk : Keeps r₀ s) : Keeps r₀ (State.bootLinks s) := by
  unfold State.bootLinks
  repeat' first
    | with_reducible assumption
    | with_reducible apply State.updLink_keeps
    | with_reducible apply State.progress_keeps
    | with_reducible refine Keeps.foldl ?_ ?_; intro _ _ _

theorem State.bootReady_keeps {r₀ : State} {s : State} (hk : Keeps r₀ s) : Keeps r₀ (State.bootReady s) := by
  unfold State.bootReady
  repeat' first
    | with_reducible assumption
    | extract_lets +onlyGivenNames kx; refine @Keeps.cut _ r₀ kx ?_ ?_; subst kx; rotate_left; clear_value kx; intro hkx
    | extract_lets +onlyGivenNames kx; subst kx
    | with_reducible apply State.writeLocal_keeps
    | with_reducible apply State.readyNotices_keeps
    | with_reducible apply State.progress_keeps
    | with_reducible apply Keeps.set; with_reducible assumption

theorem State.bootOn_keeps {r₀ : State} {s : State} (i : StartupIn) (hk : Keeps r₀ s) : Keeps r₀ (State.bootOn s i) := by
  unfold State.bootOn
  repeat' first
    | with_reducible assumption
    | with_reducible intro hkf
    | extract_lets +onlyGivenNames kx; refine @Keeps.cut _ r₀ kx ?_ ?_; subst kx; rotate_left; clear_value kx; intro hkx
    | with_reducible apply State.phase_keeps
    | with_reducible apply State.bootCxl_keeps
    | with_reducible apply State.bootLpddr_keeps
    | with_reducible apply State.bootMain_keeps
    | with_reducible apply State.bootHbm_keeps
    | with_reducible apply State.bootFlash_keeps
    | with_reducible apply State.bootTiles_keeps
    | with_reducible apply State.bootLinks_keeps
    | with_reducible apply State.bootReady_keeps
    | with_reducible apply Keeps.ite

theorem execStartup_keeps {r₀ : State} (i : StartupIn) {s : State} (hk : Keeps r₀ s) : KeepsX r₀ (execStartup i s) := by
  unfold execStartup
  repeat' first
    | with_reducible assumption
    | with_reducible intro hkf
    | with_reducible apply State.phase_keeps
    | with_reducible apply State.romStart_keeps
    | with_reducible apply State.trainTrellis_keeps
    | with_reducible apply State.romBoots_keeps
    | with_reducible apply State.bootOn_keeps
    | with_reducible apply KeepsX.next
    | with_reducible apply KeepsX.ite

theorem execRecGo_keeps {r₀ : State} (len : BitVec 32) {s : State} (hk : Keeps r₀ s) : KeepsX r₀ (execRecGo len s) := by
  unfold execRecGo
  repeat' first
    | with_reducible assumption
    | extract_lets +onlyGivenNames kx; refine @Keeps.cut _ r₀ kx ?_ ?_; subst kx; rotate_left; clear_value kx; intro hkx
    | extract_lets +onlyGivenNames kx; subst kx
    | with_reducible apply State.updLpc_keeps
    | with_reducible apply State.wrBytes_keeps
    | with_reducible apply State.zero_keeps
    | with_reducible apply State.firstStarts_keeps
    | with_reducible apply KeepsX.next
    | with_reducible apply KeepsX.ite
    | with_reducible apply Keeps.set; with_reducible assumption
    | with_reducible refine Keeps.foldl ?_ ?_; intro _ _ _

end Sys2Proof.Machine
end

