-- ==== Sys2Proof/Laws/FrameRegs.lean ====
section
/-!
SUPPORT. Sys2Proof/Laws/FrameRegs.lean: what the operations and commands of Machine/Regs.lean keep (`Keeps`): the queue, the
Cloche, programmed fuses and the canonical form of every byte memory.
-/
namespace Sys2Proof.Machine

theorem execRmpRegRead_keeps {r₀ : State} (mb : MbId) {s : State} (hk : Keeps r₀ s) : KeepsX r₀ (execRmpRegRead mb s) := by
  unfold execRmpRegRead
  repeat' first
    | with_reducible assumption
    | extract_lets +onlyGivenNames kx; subst kx
    | with_reducible apply State.reply_keeps
    | with_reducible apply State.answer_keeps
    | with_reducible apply KeepsX.next
    | with_reducible apply KeepsX.ite
    | split

end Sys2Proof.Machine
end

