-- ==== Sys2Proof/Laws/FrameRegWrite.lean ====
section
/-!
SUPPORT. Sys2Proof/Laws/FrameRegWrite.lean: what the operations and commands of Machine/RegWrite.lean keep (`Keeps`): the queue, the
Cloche, programmed fuses and the canonical form of every byte memory.
-/
namespace Sys2Proof.Machine

theorem State.after_keeps {r₀ s : State} {o : Host.Outcome State Fault Refusal} (ho : KeepsX r₀ o) (hk : Keeps r₀ s) :
    Keeps r₀ (s.after o) := by
  unfold State.after
  split
  · exact ho _ rfl
  · exact hk

theorem State.does_keeps {r₀ s : State} {f : State → Host.Outcome State Fault Refusal} (c : Bool)
    (hf : ∀ t, Keeps r₀ t → KeepsX r₀ (f t)) (hk : Keeps r₀ s) : Keeps r₀ (s.does c f) :=
  Keeps.ite (State.after_keeps (hf _ hk) hk) hk

theorem State.doesAt_keeps {r₀ s : State} {n : Nat} {f : Fin n → State → Host.Outcome State Fault Refusal} (c : Bool)
    (i : Nat)
    (hf : ∀ k t, Keeps r₀ t → KeepsX r₀ (f k t)) (hk : Keeps r₀ s) : Keeps r₀ (s.doesAt c i f) := by
  unfold State.doesAt
  split
  · exact State.does_keeps _ (hf _) hk
  · exact hk

theorem State.dieWrite_keeps {r₀ : State} {s : State} (site off : Nat) (w : RegW) (hk : Keeps r₀ s) :
    Keeps r₀ (State.dieWrite s site off w) := by
  unfold State.dieWrite
  repeat' first
    | with_reducible assumption
    | with_reducible intro hkf
    | with_reducible apply execTrellisTimeoutWrite_keeps
    | with_reducible apply execDieErrclr_keeps
    | with_reducible apply State.does_keeps
    | with_reducible apply State.doesAt_keeps
    | with_reducible apply Keeps.ite

theorem State.trellisWrite_keeps {r₀ : State} {s : State} (site off : Nat) (w : RegW) (hk : Keeps r₀ s) :
    Keeps r₀ (State.trellisWrite s site off w) := by
  unfold State.trellisWrite
  repeat' first
    | with_reducible assumption
    | with_reducible intro hkf
    | extract_lets +onlyGivenNames kx; subst kx
    | with_reducible apply execPortRetrain_keeps
    | with_reducible apply execPortCntClr_keeps
    | with_reducible apply State.doesAt_keeps
    | with_reducible apply Keeps.ite
    | split

theorem State.tileWrite_keeps {r₀ : State} {s : State} (t off : Nat) (w : RegW) (hk : Keeps r₀ s) :
    Keeps r₀ (State.tileWrite s t off w) := by
  unfold State.tileWrite
  repeat' first
    | with_reducible assumption
    | with_reducible intro hkf
    | extract_lets +onlyGivenNames kx; subst kx
    | with_reducible apply State.updTpwr_keeps
    | with_reducible apply execTilePwrReq_keeps
    | with_reducible apply execTileDivWrite_keeps
    | with_reducible apply execTileVsetWrite_keeps
    | with_reducible apply execPdmSweep_keeps
    | with_reducible apply execTileCfgWrite_keeps
    | with_reducible apply execCmdcntClr_keeps
    | with_reducible apply execConfClr_keeps
    | with_reducible apply State.doesAt_keeps
    | with_reducible apply Keeps.ite
    | split

theorem State.hbmcWrite_keeps {r₀ : State} {s : State} (stack off : Nat) (w : RegW) (hk : Keeps r₀ s) :
    Keeps r₀ (State.hbmcWrite s stack off w) := by
  unfold State.hbmcWrite
  repeat' first
    | with_reducible assumption
    | with_reducible intro hkf
    | with_reducible apply execBauUnfence_keeps
    | with_reducible apply execHbmcStatClr_keeps
    | with_reducible apply execHbmcBauDisableWrite_keeps
    | with_reducible apply State.doesAt_keeps
    | split

theorem State.bauWrite_keeps {r₀ : State} {s : State} (c off : Nat) (w : RegW) (hk : Keeps r₀ s) :
    Keeps r₀ (State.bauWrite s c off w) := by
  unfold State.bauWrite
  repeat' first
    | with_reducible assumption
    | with_reducible intro hkf
    | with_reducible apply State.updChan_keeps
    | with_reducible apply execOwnCmdGo_keeps
    | with_reducible apply execBauCntClr_keeps
    | with_reducible apply State.doesAt_keeps
    | with_reducible apply Keeps.ite
    | split

theorem State.dmaWrite_keeps {r₀ : State} {s : State} (e off : Nat) (w : RegW) (hk : Keeps r₀ s) :
    Keeps r₀ (State.dmaWrite s e off w) := by
  unfold State.dmaWrite
  repeat' first
    | with_reducible assumption
    | with_reducible intro hkf
    | extract_lets +onlyGivenNames kx; subst kx
    | with_reducible apply State.updEng_keeps
    | with_reducible apply State.updDch_keeps
    | with_reducible apply execDmaSqTailWrite_keeps
    | with_reducible apply execDmaCplHeadWrite_keeps
    | with_reducible apply execDmaStop_keeps
    | with_reducible apply execDmaResume_keeps
    | with_reducible apply execDmaCntClr_keeps
    | with_reducible apply State.doesAt_keeps
    | with_reducible apply Keeps.ite
    | split

theorem State.invWrite_keeps {r₀ : State} {s : State} (w : RegW) (hk : Keeps r₀ s) : Keeps r₀ (State.invWrite s w) := by
  unfold State.invWrite
  repeat' first
    | with_reducible assumption
    | extract_lets +onlyGivenNames kx; subst kx
    | with_reducible apply execInvOneAsid_keeps
    | with_reducible apply execInvRange_keeps
    | with_reducible apply execInvAll_keeps
    | with_reducible apply State.after_keeps
    | with_reducible apply Keeps.ite
    | with_reducible apply Keeps.set; with_reducible assumption
    | split

theorem State.atuWrite_keeps {r₀ : State} {s : State} (sl off : Nat) (w : RegW) (hk : Keeps r₀ s) :
    Keeps r₀ (State.atuWrite s sl off w) := by
  unfold State.atuWrite
  repeat' first
    | with_reducible assumption
    | with_reducible intro hkf
    | extract_lets +onlyGivenNames kx; subst kx
    | with_reducible apply State.updSlice_keeps
    | with_reducible apply execAtuCtrlWrite_keeps
    | with_reducible apply execAtuCtrlClr_keeps
    | with_reducible apply State.does_keeps
    | with_reducible apply State.doesAt_keeps
    | with_reducible apply State.invWrite_keeps
    | with_reducible apply Keeps.ite
    | with_reducible apply Keeps.set; with_reducible assumption
    | split

theorem State.linkWrite_keeps {r₀ : State} {s : State} (lk off : Nat) (w : RegW) (hk : Keeps r₀ s) :
    Keeps r₀ (State.linkWrite s lk off w) := by
  unfold State.linkWrite
  repeat' first
    | with_reducible assumption
    | with_reducible intro hkf
    | with_reducible apply State.updLink_keeps
    | with_reducible apply execLinkCtrlRetrain_keeps
    | with_reducible apply execLinkEnable_keeps
    | with_reducible apply execLinkCntClr_keeps
    | with_reducible apply execLinkCtrlHello_keeps
    | with_reducible apply State.doesAt_keeps
    | with_reducible apply Keeps.ite
    | split

theorem State.msfTbl_keeps {r₀ : State} {s : State} (d : Fin 2) (w : RegW) (hk : Keeps r₀ s) :
    Keeps r₀ (State.msfTbl s d w) := by
  unfold State.msfTbl
  repeat' first
    | with_reducible assumption
    | extract_lets +onlyGivenNames kx; subst kx
    | with_reducible apply execMsfTblRead_keeps
    | with_reducible apply execMsfTblWrite_keeps
    | with_reducible apply State.after_keeps
    | with_reducible apply KeepsX.ite

theorem State.egrTbl_keeps {r₀ : State} {s : State} (d : Fin 2) (w : RegW) (hk : Keeps r₀ s) :
    Keeps r₀ (State.egrTbl s d w) := by
  unfold State.egrTbl
  repeat' first
    | with_reducible assumption
    | extract_lets +onlyGivenNames kx; subst kx
    | with_reducible apply execEgrTblRead_keeps
    | with_reducible apply execEgrTblWrite_keeps
    | with_reducible apply State.after_keeps
    | with_reducible apply KeepsX.ite

theorem State.msfWrite_keeps {r₀ : State} {s : State} (d : Fin 2) (off : Nat) (w : RegW) (hk : Keeps r₀ s) :
    Keeps r₀ (State.msfWrite s d off w) := by
  unfold State.msfWrite
  repeat' first
    | with_reducible assumption
    | with_reducible intro hkf
    | extract_lets +onlyGivenNames kx; refine @Keeps.cut _ r₀ kx ?_ ?_; subst kx; rotate_left; clear_value kx; intro hkx
    | extract_lets +onlyGivenNames kx; subst kx
    | with_reducible apply State.updLnd_keeps
    | with_reducible apply execMsfAbandon_keeps
    | with_reducible apply execMsfCfgWrite_keeps
    | with_reducible apply execMsfCntClr_keeps
    | with_reducible apply State.does_keeps
    | with_reducible apply State.msfTbl_keeps
    | with_reducible apply Keeps.ite
    | with_reducible apply Keeps.set; with_reducible assumption
    | split

theorem State.connWrite_keeps {r₀ : State} {s : State} (d : Fin 2) (w : RegW) (hk : Keeps r₀ s) :
    Keeps r₀ (State.connWrite s d w) := by
  unfold State.connWrite
  repeat' first
    | with_reducible assumption
    | extract_lets +onlyGivenNames kx; subst kx
    | with_reducible apply execConnActivate_keeps
    | with_reducible apply execConnReset_keeps
    | with_reducible apply execConnForceError_keeps
    | with_reducible apply State.after_keeps
    | split

theorem State.sqWrite_keeps {r₀ : State} {s : State} (d : Fin 2) (q : Fin 256) (off : Nat) (w : RegW) (hk : Keeps r₀ s) :
    Keeps r₀ (State.sqWrite s d q off w) := by
  unfold State.sqWrite
  repeat' first
    | with_reducible assumption
    | with_reducible intro hkf
    | extract_lets +onlyGivenNames kx; subst kx
    | with_reducible apply State.updSq_keeps
    | with_reducible apply State.sqSweep_keeps
    | with_reducible apply execSqTailWrite_keeps
    | with_reducible apply State.does_keeps
    | with_reducible apply Keeps.ite
    | split

theorem State.cqWrite_keeps {r₀ : State} {s : State} (d : Fin 2) (q : Fin 256) (off : Nat) (w : RegW) (hk : Keeps r₀ s) :
    Keeps r₀ (State.cqWrite s d q off w) := by
  unfold State.cqWrite
  repeat' first
    | with_reducible assumption
    | with_reducible intro hkf
    | extract_lets +onlyGivenNames kx; subst kx
    | with_reducible apply State.updCq_keeps
    | with_reducible apply execCqHeadWrite_keeps
    | with_reducible apply State.does_keeps
    | with_reducible apply Keeps.ite
    | split

theorem State.raeWrite_keeps {r₀ : State} {s : State} (d : Fin 2) (off : Nat) (w : RegW) (hk : Keeps r₀ s) :
    Keeps r₀ (State.raeWrite s d off w) := by
  unfold State.raeWrite
  repeat' first
    | with_reducible assumption
    | with_reducible intro hkf
    | extract_lets +onlyGivenNames kx; subst kx
    | with_reducible apply State.updLnd_keeps
    | with_reducible apply execRaeRevoke_keeps
    | with_reducible apply execRaeCntClr_keeps
    | with_reducible apply State.does_keeps
    | with_reducible apply State.connWrite_keeps
    | with_reducible apply State.sqWrite_keeps
    | with_reducible apply State.cqWrite_keeps
    | with_reducible apply Keeps.ite
    | split

theorem State.egrLinkWrite_keeps {r₀ : State} {s : State} (lk : Fin 36) (off : Nat) (x : Nat) (w : RegW) (hk : Keeps r₀ s) :
    Keeps r₀ (State.egrLinkWrite s lk off x w) := by
  unfold State.egrLinkWrite
  repeat' first
    | with_reducible assumption
    | with_reducible intro hkf
    | extract_lets +onlyGivenNames kx; subst kx
    | with_reducible apply State.updLink_keeps
    | with_reducible apply execGateArm_keeps
    | with_reducible apply execGateDisarm_keeps
    | with_reducible apply State.does_keeps
    | with_reducible apply Keeps.ite
    | split

theorem State.egrWrite_keeps {r₀ : State} {s : State} (d : Fin 2) (off : Nat) (w : RegW) (hk : Keeps r₀ s) :
    Keeps r₀ (State.egrWrite s d off w) := by
  unfold State.egrWrite
  repeat' first
    | with_reducible assumption
    | with_reducible intro hkf
    | extract_lets +onlyGivenNames kx; subst kx
    | with_reducible apply State.updLnd_keeps
    | with_reducible apply execEgrCntClr_keeps
    | with_reducible apply State.does_keeps
    | with_reducible apply State.egrTbl_keeps
    | with_reducible apply State.egrLinkWrite_keeps
    | with_reducible apply Keeps.ite
    | split

theorem State.reqWrite_keeps {r₀ : State} {s : State} (off : Nat) (w : RegW) (hk : Keeps r₀ s) :
    Keeps r₀ (State.reqWrite s off w) := by
  unfold State.reqWrite
  repeat' first
    | with_reducible assumption
    | with_reducible intro hkf
    | extract_lets +onlyGivenNames kx; subst kx
    | with_reducible apply execKillCmd_keeps
    | with_reducible apply execReqCntClr_keeps
    | with_reducible apply execTagDrainWrite_keeps
    | with_reducible apply State.does_keeps
    | with_reducible apply State.doesAt_keeps
    | with_reducible apply Keeps.set; with_reducible assumption
    | split

theorem State.ringWrite_keeps {r₀ : State} {s : State} (off : Nat) (w : RegW) (hk : Keeps r₀ s) :
    Keeps r₀ (State.ringWrite s off w) := by
  unfold State.ringWrite
  repeat' first
    | with_reducible assumption
    | with_reducible intro hkf
    | extract_lets +onlyGivenNames kx; subst kx
    | with_reducible apply execRingLoad_keeps
    | with_reducible apply execRingCmdResume_keeps
    | with_reducible apply execRingDisable_keeps
    | with_reducible apply execRingCntClr_keeps
    | with_reducible apply State.does_keeps
    | with_reducible apply Keeps.set; with_reducible assumption
    | split

theorem State.fenceWrite_keeps {r₀ : State} {s : State} (w : RegW) (hk : Keeps r₀ s) : Keeps r₀ (State.fenceWrite s w) := by
  unfold State.fenceWrite
  repeat' first
    | with_reducible assumption
    | with_reducible intro hkf
    | extract_lets +onlyGivenNames kx; subst kx
    | with_reducible apply execFclFence_keeps
    | with_reducible apply execFclUnfence_keeps
    | with_reducible apply State.does_keeps

theorem State.injectWrite_keeps {r₀ : State} {s : State} (w : RegW) (hk : Keeps r₀ s) :
    Keeps r₀ (State.injectWrite s w) := by
  unfold State.injectWrite
  repeat' first
    | with_reducible assumption
    | with_reducible intro hkf
    | extract_lets +onlyGivenNames kx; subst kx
    | with_reducible apply execFclInjectNow_keeps
    | with_reducible apply execFclInjectSync_keeps
    | with_reducible apply execFclInjectWire_keeps
    | with_reducible apply State.does_keeps

theorem State.fclWrite_keeps {r₀ : State} {s : State} (off : Nat) (w : RegW) (hk : Keeps r₀ s) :
    Keeps r₀ (State.fclWrite s off w) := by
  unfold State.fclWrite
  repeat' first
    | with_reducible assumption
    | with_reducible intro hkf
    | extract_lets +onlyGivenNames kx; subst kx
    | with_reducible apply execFclKick_keeps
    | with_reducible apply execFclStickyClear_keeps
    | with_reducible apply execFclCntClr_keeps
    | with_reducible apply State.does_keeps
    | with_reducible apply State.doesAt_keeps
    | with_reducible apply State.fenceWrite_keeps
    | with_reducible apply State.injectWrite_keeps
    | with_reducible apply Keeps.ite
    | with_reducible apply Keeps.set; with_reducible assumption
    | split

theorem State.ltuWrite_keeps {r₀ : State} {s : State} (off : Nat) (w : RegW) (hk : Keeps r₀ s) :
    Keeps r₀ (State.ltuWrite s off w) := by
  unfold State.ltuWrite
  repeat' first
    | with_reducible assumption
    | with_reducible intro hkf
    | extract_lets +onlyGivenNames kx; subst kx
    | with_reducible apply State.updCmp_keeps
    | with_reducible apply execLtuBootWrite_keeps
    | with_reducible apply State.does_keeps
    | with_reducible apply Keeps.ite
    | split

theorem State.hdWrite_keeps {r₀ : State} {s : State} (blk off : Nat) (w : RegW) (hk : Keeps r₀ s) :
    Keeps r₀ (State.hdWrite s blk off w) := by
  unfold State.hdWrite
  repeat' first
    | with_reducible assumption
    | with_reducible intro hkf
    | extract_lets +onlyGivenNames kx; refine @Keeps.cut _ r₀ kx ?_ ?_; subst kx; rotate_left; clear_value kx; intro hkx
    | extract_lets +onlyGivenNames kx; subst kx
    | with_reducible apply execSecWipeWrite_keeps
    | with_reducible apply execClampClr_keeps
    | with_reducible apply execPwrCapWrite_keeps
    | with_reducible apply execStageSplitWrite_keeps
    | with_reducible apply execFtlCntClr_keeps
    | with_reducible apply execGraftCntClr_keeps
    | with_reducible apply execCxlCntClr_keeps
    | with_reducible apply execBootProgressWrite_keeps
    | with_reducible apply execSbwCntClr_keeps
    | with_reducible apply State.does_keeps
    | with_reducible apply State.trellisWrite_keeps
    | with_reducible apply State.dmaWrite_keeps
    | with_reducible apply State.atuWrite_keeps
    | with_reducible apply State.reqWrite_keeps
    | with_reducible apply State.ringWrite_keeps
    | with_reducible apply State.fclWrite_keeps
    | with_reducible apply State.ltuWrite_keeps
    | with_reducible apply Keeps.ite
    | with_reducible apply Keeps.set; with_reducible assumption
    | split

theorem State.cdWrite_keeps {r₀ : State} {s : State} (d blk off : Nat) (w : RegW) (hk : Keeps r₀ s) :
    Keeps r₀ (State.cdWrite s d blk off w) := by
  unfold State.cdWrite
  repeat' first
    | with_reducible assumption
    | with_reducible intro hkf
    | with_reducible apply execLpcCntClr_keeps
    | with_reducible apply execCompCntClr_keeps
    | with_reducible apply execSieveCntClr_keeps
    | with_reducible apply State.doesAt_keeps
    | with_reducible apply State.trellisWrite_keeps
    | with_reducible apply State.tileWrite_keeps
    | with_reducible apply State.hbmcWrite_keeps
    | with_reducible apply State.dmaWrite_keeps
    | with_reducible apply State.atuWrite_keeps
    | with_reducible apply Keeps.ite
    | split

theorem State.ldWrite_keeps {r₀ : State} {s : State} (d : Fin 2) (blk off : Nat) (w : RegW) (hk : Keeps r₀ s) :
    Keeps r₀ (State.ldWrite s d blk off w) := by
  unfold State.ldWrite
  repeat' first
    | with_reducible assumption
    | with_reducible apply State.trellisWrite_keeps
    | with_reducible apply State.linkWrite_keeps
    | with_reducible apply State.msfWrite_keeps
    | with_reducible apply State.raeWrite_keeps
    | with_reducible apply State.egrWrite_keeps
    | split

theorem State.regWrite_keeps {r₀ : State} {s : State} (a : Nat) (w : RegW) (hk : Keeps r₀ s) :
    Keeps r₀ (State.regWrite s a w) := by
  unfold State.regWrite
  repeat' first
    | with_reducible assumption
    | extract_lets +onlyGivenNames kx; subst kx
    | with_reducible apply State.dieWrite_keeps
    | with_reducible apply State.bauWrite_keeps
    | with_reducible apply State.hdWrite_keeps
    | with_reducible apply State.cdWrite_keeps
    | with_reducible apply State.ldWrite_keeps
    | with_reducible apply Keeps.ite

theorem State.refuseAccess_keeps {r₀ : State} {s : State} (m : Master) (status : Nat) (hk : Keeps r₀ s) :
    Keeps r₀ (State.refuseAccess s m status) := by
  unfold State.refuseAccess
  repeat' first
    | with_reducible assumption
    | with_reducible apply State.violate_keeps
    | with_reducible apply State.failCmd_keeps
    | split

theorem State.unmask_keeps {r₀ : State} {s : State} (ld vec : Nat) (hk : Keeps r₀ s) :
    Keeps r₀ (State.unmask s ld vec) := by
  unfold State.unmask
  repeat' first
    | with_reducible assumption
    | with_reducible apply State.updLd_keeps
    | with_reducible apply State.msix_keeps
    | with_reducible apply Keeps.ite

theorem State.pageWrite_keeps {r₀ : State} {s : State} (l : Fin 16) (off : Nat) (w : RegW) (hk : Keeps r₀ s) :
    Keeps r₀ (State.pageWrite s l off w) := by
  unfold State.pageWrite
  repeat' first
    | with_reducible assumption
    | with_reducible intro hkf
    | extract_lets +onlyGivenNames kx; subst kx
    | with_reducible apply State.updLd_keeps
    | with_reducible apply execDoorbell_keeps
    | with_reducible apply State.updMb_keeps
    | with_reducible apply execMbGo_keeps
    | with_reducible apply execRecGo_keeps
    | with_reducible apply State.does_keeps
    | with_reducible apply State.unmask_keeps
    | with_reducible apply Keeps.ite
    | split

theorem State.hostIoWrite_keeps {r₀ : State} {s : State} (l : Fin 16) (a size v : Nat) (hk : Keeps r₀ s) :
    Keeps r₀ (State.hostIoWrite s l a size v) := by
  unfold State.hostIoWrite
  repeat' first
    | with_reducible assumption
    | with_reducible apply State.wr_keeps
    | with_reducible apply State.refuseAccess_keeps
    | with_reducible apply State.pageWrite_keeps
    | with_reducible apply Keeps.ite

theorem execRegisterAccess_keeps {r₀ : State} (m : Master) (addr size : Nat) (v : BitVec 64) {s : State} (hk : Keeps r₀ s) :
    KeepsX r₀ (execRegisterAccess m addr size v s) := by
  unfold execRegisterAccess
  repeat' first
    | with_reducible assumption
    | extract_lets +onlyGivenNames kx; subst kx
    | with_reducible apply State.regWrite_keeps
    | with_reducible apply State.refuseAccess_keeps
    | with_reducible apply State.hostIoWrite_keeps
    | with_reducible apply KeepsX.next
    | with_reducible apply KeepsX.ite
    | split

end Sys2Proof.Machine
end

