-- ==== Sys2Proof/Laws/FrameDebug.lean ====
section
/-!
SUPPORT. Sys2Proof/Laws/FrameDebug.lean: what the operations and commands of Machine/Debug.lean keep (`Keeps`): the queue, the
Cloche, programmed fuses and the canonical form of every byte memory.
-/
namespace Sys2Proof.Machine

theorem State.updDbg_keeps {r₀ : State} {s : State} (f : Dbg → Dbg) (hk : Keeps r₀ s) : Keeps r₀ (State.updDbg s f) := by
  unfold State.updDbg
  repeat' first
    | extract_lets +onlyGivenNames kx; subst kx
    | with_reducible apply Keeps.set; with_reducible assumption

theorem State.dmControl_keeps {r₀ : State} {s : State} (v : Nat) (hk : Keeps r₀ s) : Keeps r₀ (State.dmControl s v) := by
  unfold State.dmControl
  repeat' first
    | with_reducible assumption
    | extract_lets +onlyGivenNames kx; subst kx
    | with_reducible apply State.updDbg_keeps
    | with_reducible apply Keeps.ite

theorem State.setHartReg_keeps {r₀ : State} {s : State} (h regno v : Nat) (hk : Keeps r₀ s) :
    Keeps r₀ (State.setHartReg s h regno v) := by
  unfold State.setHartReg
  repeat' first
    | with_reducible assumption
    | with_reducible apply State.updTile_keeps
    | with_reducible apply State.updDbg_keeps
    | with_reducible apply Keeps.ite

theorem State.cmdErr_keeps {r₀ : State} {s : State} (e : Nat) (hk : Keeps r₀ s) : Keeps r₀ (State.cmdErr s e) := by
  unfold State.cmdErr
  repeat' first
    | with_reducible assumption
    | with_reducible apply State.updDbg_keeps

theorem State.abstract_keeps {r₀ : State} {s : State} (v : Nat) (hk : Keeps r₀ s) : Keeps r₀ (State.abstract s v) := by
  unfold State.abstract
  repeat' first
    | with_reducible assumption
    | extract_lets +onlyGivenNames kx; refine @Keeps.cut _ r₀ kx ?_ ?_; subst kx; rotate_left; clear_value kx; intro hkx
    | extract_lets +onlyGivenNames kx; subst kx
    | with_reducible apply State.updDbg_keeps
    | with_reducible apply State.setHartReg_keeps
    | with_reducible apply State.cmdErr_keeps
    | with_reducible apply Keeps.ite
    | split

theorem State.sbRead_keeps {r₀ : State} {s : State} (hk : Keeps r₀ s) : Keeps r₀ (State.sbRead s) := by
  unfold State.sbRead
  repeat' first
    | with_reducible assumption
    | extract_lets +onlyGivenNames kx; subst kx
    | with_reducible apply State.updDbg_keeps
    | with_reducible apply Keeps.ite

theorem State.sbPutWord_keeps {r₀ : State} {s : State} (hk : Keeps r₀ s) : Keeps r₀ (State.sbPutWord s) := by
  unfold State.sbPutWord
  repeat' first
    | with_reducible assumption
    | extract_lets +onlyGivenNames kx; refine @Keeps.cut _ r₀ kx ?_ ?_; subst kx; rotate_left; clear_value kx; intro hkx
    | extract_lets +onlyGivenNames kx; subst kx
    | with_reducible apply State.wr_keeps
    | with_reducible apply State.regWrite_keeps
    | with_reducible apply State.updDbg_keeps
    | with_reducible apply Keeps.ite
    | split

theorem State.dmWrite_keeps {r₀ : State} {s : State} (a v : Nat) (hk : Keeps r₀ s) : Keeps r₀ (State.dmWrite s a v) := by
  unfold State.dmWrite
  repeat' first
    | with_reducible assumption
    | extract_lets +onlyGivenNames kx; refine @Keeps.cut _ r₀ kx ?_ ?_; subst kx; rotate_left; clear_value kx; intro hkx
    | extract_lets +onlyGivenNames kx; subst kx
    | with_reducible apply State.updDbg_keeps
    | with_reducible apply State.dmControl_keeps
    | with_reducible apply State.abstract_keeps
    | with_reducible apply State.sbRead_keeps
    | with_reducible apply State.sbPutWord_keeps
    | with_reducible apply Keeps.ite
    | split

theorem State.dmiResult_keeps {r₀ : State} {s : State} (a data : Nat) (hk : Keeps r₀ s) :
    Keeps r₀ (State.dmiResult s a data) := by
  unfold State.dmiResult
  repeat' first
    | extract_lets +onlyGivenNames kx; subst kx
    | with_reducible apply Keeps.set; with_reducible assumption

theorem State.dmi_keeps {r₀ : State} {s : State} (op : DmiOp) (hk : Keeps r₀ s) : Keeps r₀ (State.dmi s op) := by
  unfold State.dmi
  repeat' first
    | with_reducible assumption
    | extract_lets +onlyGivenNames kx; refine @Keeps.cut _ r₀ kx ?_ ?_; subst kx; rotate_left; clear_value kx; intro hkx
    | extract_lets +onlyGivenNames kx; subst kx
    | with_reducible apply State.sbRead_keeps
    | with_reducible apply State.dmWrite_keeps
    | with_reducible apply State.dmiResult_keeps
    | with_reducible apply Keeps.ite
    | with_reducible apply Keeps.set; with_reducible assumption
    | split

theorem execDbgDmi_keeps {r₀ : State} (op : DmiOp) {s : State} (hk : Keeps r₀ s) : KeepsX r₀ (execDbgDmi op s) := by
  unfold execDbgDmi
  repeat' first
    | with_reducible assumption
    | extract_lets +onlyGivenNames kx; subst kx
    | with_reducible apply State.toBypass_keeps
    | with_reducible apply State.updDbg_keeps
    | with_reducible apply State.dmi_keeps
    | with_reducible apply KeepsX.next
    | with_reducible apply KeepsX.ite
    | with_reducible apply Keeps.set; with_reducible assumption

end Sys2Proof.Machine
end

