-- ==== Sys2Proof/Laws/FrameTick.lean ====
section
/-!
SUPPORT. Sys2Proof/Laws/FrameTick.lean: what the operations and commands of Machine/Tick.lean keep (`Keeps`): the queue, the
Cloche, programmed fuses and the canonical form of every byte memory.
-/
namespace Sys2Proof.Machine

theorem State.tickUnits_keeps {r₀ : State} {s : State} (hk : Keeps r₀ s) : Keeps r₀ (State.tickUnits s) := by
  unfold State.tickUnits
  repeat' first
    | with_reducible assumption
    | with_reducible apply State.tickPolicers_keeps
    | with_reducible apply State.pumpAll_keeps
    | with_reducible apply State.tickPlans_keeps
    | with_reducible apply State.settle_keeps
    | with_reducible apply State.cacheTiles_keeps
    | with_reducible apply State.qualSettle_keeps
    | with_reducible apply Keeps.ite
    | with_reducible apply Keeps.set; with_reducible assumption

theorem State.tickDevice_keeps {r₀ : State} {s : State} (hk : Keeps r₀ s) : Keeps r₀ (State.tickDevice s) := by
  unfold State.tickDevice
  repeat' first
    | with_reducible assumption
    | with_reducible apply State.tickFcl_keeps
    | with_reducible apply State.tickUnits_keeps
    | with_reducible apply Keeps.ite
    | with_reducible apply Keeps.set; with_reducible assumption

end Sys2Proof.Machine
end

