-- ==== Sys2Proof/Laws/Table.lean ====
section
/-!
SUPPORT. Sys2Proof/Laws/Table.lean: sparse tables by number: a record just written reads back, every other record stands.
-/
namespace Sys2Proof.Machine

variable {α : Type}

@[simp] theorem Tbl.find?_del_self (t : Tbl α) (i : Nat) : Tbl.find? (Tbl.del t i) i = none := by
  induction t with
  | nil => rfl
  | cons e t ih =>
    obtain ⟨k, v⟩ := e
    by_cases h : k = i <;> simp [Tbl.del, Tbl.find?, h, ih]

@[simp] theorem Tbl.find?_del_ne {i j : Nat} (t : Tbl α) (h : j ≠ i) : Tbl.find? (Tbl.del t i) j = Tbl.find? t j := by
  induction t with
  | nil => rfl
  | cons e t ih =>
    obtain ⟨k, v⟩ := e
    by_cases hk : k = i
    · subst hk
      simp [Tbl.del, Tbl.find?, ih, Ne.symm h]
    · simp [Tbl.del, Tbl.find?, hk, ih]

@[simp] theorem Tbl.find?_put_self (t : Tbl α) (i : Nat) (v : α) : Tbl.find? (Tbl.put t i v) i = some v := by
  simp [Tbl.put, Tbl.find?]

@[simp] theorem Tbl.find?_put_ne {i j : Nat} (t : Tbl α) (v : α) (h : j ≠ i) : Tbl.find? (Tbl.put t i v) j = Tbl.find? t j := by
  simp [Tbl.put, Tbl.find?, h, Ne.symm h]

@[simp] theorem Tbl.getD_put_self (t : Tbl α) (i : Nat) (v d : α) : Tbl.getD (Tbl.put t i v) i d = v := by simp [Tbl.getD]

@[simp] theorem Tbl.getD_put_ne {i j : Nat} (t : Tbl α) (v d : α) (h : j ≠ i) : Tbl.getD (Tbl.put t i v) j d = Tbl.getD t j d := by
  simp [Tbl.getD, h]

@[simp] theorem Tbl.getD_upd_self (t : Tbl α) (i : Nat) (d : α) (f : α → α) : Tbl.getD (Tbl.upd t i d f) i d = f (Tbl.getD t i d) := by
  simp [Tbl.upd]

@[simp] theorem Tbl.getD_upd_ne {i j : Nat} (t : Tbl α) (d e : α) (f : α → α) (h : j ≠ i) :
    Tbl.getD (Tbl.upd t i d f) j e = Tbl.getD t j e := by
  simp [Tbl.upd, h]

theorem Tbl.getD_upd (t : Tbl α) (i j : Nat) (d : α) (f : α → α) :
    Tbl.getD (Tbl.upd t i d f) j d = if j = i then f (Tbl.getD t i d) else Tbl.getD t j d := by
  by_cases h : j = i
  · subst h; simp
  · simp [h]

@[simp] theorem Tbl.getD_del_self (t : Tbl α) (i : Nat) (d : α) : Tbl.getD (Tbl.del t i) i d = d := by simp [Tbl.getD]

@[simp] theorem Tbl.getD_del_ne {i j : Nat} (t : Tbl α) (d : α) (h : j ≠ i) : Tbl.getD (Tbl.del t i) j d = Tbl.getD t j d := by
  simp [Tbl.getD, h]

@[simp] theorem Tbl.find?_mapAll (t : Tbl α) (f : α → α) (i : Nat) : Tbl.find? (Tbl.mapAll t f) i = (Tbl.find? t i).map f := by
  induction t with
  | nil => rfl
  | cons e t ih =>
    obtain ⟨k, v⟩ := e
    by_cases h : k = i
    · simp [Tbl.mapAll, Tbl.find?, h]
    · simp only [Tbl.mapAll, List.map_cons, Tbl.find?, h, if_false] at ih ⊢
      exact ih

theorem Tbl.getD_mapAll (t : Tbl α) (f : α → α) (i : Nat) (d : α) (hf : f d = d) :
    Tbl.getD (Tbl.mapAll t f) i d = f (Tbl.getD t i d) := by
  simp only [Tbl.getD, Tbl.find?_mapAll]
  cases Tbl.find? t i <;> simp [hf]

end Sys2Proof.Machine
end

