-- ==== Sys2Proof/Laws/State.lean ====
section
/-!
SUPPORT. Sys2Proof/Laws/State.lean: what each update of one record leaves of every field of the state, and what the record
reads afterwards. No later proof unfolds a record update.
-/
namespace Sys2Proof.Machine

variable (s : State)

/-! ## updDie -/

@[simp] theorem State.updDie_pending (i : Nat) (f : Die → Die) : (s.updDie i f).pending = s.pending := rfl
@[simp] theorem State.updDie_fresh (i : Nat) (f : Die → Die) : (s.updDie i f).fresh = s.fresh := rfl
@[simp] theorem State.updDie_ltu (i : Nat) (f : Die → Die) : (s.updDie i f).ltu = s.ltu := rfl
@[simp] theorem State.updDie_mem (i : Nat) (f : Die → Die) : (s.updDie i f).mem = s.mem := rfl
@[simp] theorem State.updDie_t3 (i : Nat) (f : Die → Die) : (s.updDie i f).t3 = s.t3 := rfl
@[simp] theorem State.updDie_hostMem (i : Nat) (f : Die → Die) : (s.updDie i f).hostMem = s.hostMem := rfl
@[simp] theorem State.updDie_trellis (i : Nat) (f : Die → Die) : (s.updDie i f).trellis = s.trellis := rfl
@[simp] theorem State.updDie_tiles (i : Nat) (f : Die → Die) : (s.updDie i f).tiles = s.tiles := rfl
@[simp] theorem State.updDie_atu (i : Nat) (f : Die → Die) : (s.updDie i f).atu = s.atu := rfl
@[simp] theorem State.updDie_chans (i : Nat) (f : Die → Die) : (s.updDie i f).chans = s.chans := rfl
@[simp] theorem State.updDie_dma (i : Nat) (f : Die → Die) : (s.updDie i f).dma = s.dma := rfl
@[simp] theorem State.updDie_lpc (i : Nat) (f : Die → Die) : (s.updDie i f).lpc = s.lpc := rfl
@[simp] theorem State.updDie_ftl (i : Nat) (f : Die → Die) : (s.updDie i f).ftl = s.ftl := rfl
@[simp] theorem State.updDie_comp (i : Nat) (f : Die → Die) : (s.updDie i f).comp = s.comp := rfl
@[simp] theorem State.updDie_sieve (i : Nat) (f : Die → Die) : (s.updDie i f).sieve = s.sieve := rfl
@[simp] theorem State.updDie_rings (i : Nat) (f : Die → Die) : (s.updDie i f).rings = s.rings := rfl
@[simp] theorem State.updDie_ringRegs (i : Nat) (f : Die → Die) : (s.updDie i f).ringRegs = s.ringRegs := rfl
@[simp] theorem State.updDie_tags (i : Nat) (f : Die → Die) : (s.updDie i f).tags = s.tags := rfl
@[simp] theorem State.updDie_groups (i : Nat) (f : Die → Die) : (s.updDie i f).groups = s.groups := rfl
@[simp] theorem State.updDie_cjournal (i : Nat) (f : Die → Die) : (s.updDie i f).cjournal = s.cjournal := rfl
@[simp] theorem State.updDie_reqRegs (i : Nat) (f : Die → Die) : (s.updDie i f).reqRegs = s.reqRegs := rfl
@[simp] theorem State.updDie_acct (i : Nat) (f : Die → Die) : (s.updDie i f).acct = s.acct := rfl
@[simp] theorem State.updDie_reqs (i : Nat) (f : Die → Die) : (s.updDie i f).reqs = s.reqs := rfl
@[simp] theorem State.updDie_tenants (i : Nat) (f : Die → Die) : (s.updDie i f).tenants = s.tenants := rfl
@[simp] theorem State.updDie_slots (i : Nat) (f : Die → Die) : (s.updDie i f).slots = s.slots := rfl
@[simp] theorem State.updDie_holders (i : Nat) (f : Die → Die) : (s.updDie i f).holders = s.holders := rfl
@[simp] theorem State.updDie_pools (i : Nat) (f : Die → Die) : (s.updDie i f).pools = s.pools := rfl
@[simp] theorem State.updDie_lds (i : Nat) (f : Die → Die) : (s.updDie i f).lds = s.lds := rfl
@[simp] theorem State.updDie_fabricMb (i : Nat) (f : Die → Die) : (s.updDie i f).fabricMb = s.fabricMb := rfl
@[simp] theorem State.updDie_mbTurn (i : Nat) (f : Die → Die) : (s.updDie i f).mbTurn = s.mbTurn := rfl
@[simp] theorem State.updDie_fab (i : Nat) (f : Die → Die) : (s.updDie i f).fab = s.fab := rfl
@[simp] theorem State.updDie_cmap (i : Nat) (f : Die → Die) : (s.updDie i f).cmap = s.cmap := rfl
@[simp] theorem State.updDie_cfg (i : Nat) (f : Die → Die) : (s.updDie i f).cfg = s.cfg := rfl
@[simp] theorem State.updDie_cxl (i : Nat) (f : Die → Die) : (s.updDie i f).cxl = s.cxl := rfl
@[simp] theorem State.updDie_devState (i : Nat) (f : Die → Die) : (s.updDie i f).devState = s.devState := rfl
@[simp] theorem State.updDie_feed (i : Nat) (f : Die → Die) : (s.updDie i f).feed = s.feed := rfl
@[simp] theorem State.updDie_cloche (i : Nat) (f : Die → Die) : (s.updDie i f).cloche = s.cloche := rfl
@[simp] theorem State.updDie_sec (i : Nat) (f : Die → Die) : (s.updDie i f).sec = s.sec := rfl
@[simp] theorem State.updDie_fcl (i : Nat) (f : Die → Die) : (s.updDie i f).fcl = s.fcl := rfl
@[simp] theorem State.updDie_ckpt (i : Nat) (f : Die → Die) : (s.updDie i f).ckpt = s.ckpt := rfl
@[simp] theorem State.updDie_pwr (i : Nat) (f : Die → Die) : (s.updDie i f).pwr = s.pwr := rfl
@[simp] theorem State.updDie_boot (i : Nat) (f : Die → Die) : (s.updDie i f).boot = s.boot := rfl
@[simp] theorem State.updDie_bridge (i : Nat) (f : Die → Die) : (s.updDie i f).bridge = s.bridge := rfl
@[simp] theorem State.updDie_jtag (i : Nat) (f : Die → Die) : (s.updDie i f).jtag = s.jtag := rfl
@[simp] theorem State.updDie_die_self (i : Nat) (f : Die → Die) : (s.updDie i f).die i = f (s.die i) := Tbl.getD_upd_self ..
@[simp] theorem State.updDie_die_ne {i j : Nat} (f : Die → Die) (h : j ≠ i) : (s.updDie i f).die j = s.die j := Tbl.getD_upd_ne _ _ _ _ h

/-! ## updTile -/

@[simp] theorem State.updTile_pending (i : Nat) (f : Tile → Tile) : (s.updTile i f).pending = s.pending := rfl
@[simp] theorem State.updTile_fresh (i : Nat) (f : Tile → Tile) : (s.updTile i f).fresh = s.fresh := rfl
@[simp] theorem State.updTile_ltu (i : Nat) (f : Tile → Tile) : (s.updTile i f).ltu = s.ltu := rfl
@[simp] theorem State.updTile_mem (i : Nat) (f : Tile → Tile) : (s.updTile i f).mem = s.mem := rfl
@[simp] theorem State.updTile_t3 (i : Nat) (f : Tile → Tile) : (s.updTile i f).t3 = s.t3 := rfl
@[simp] theorem State.updTile_hostMem (i : Nat) (f : Tile → Tile) : (s.updTile i f).hostMem = s.hostMem := rfl
@[simp] theorem State.updTile_dies (i : Nat) (f : Tile → Tile) : (s.updTile i f).dies = s.dies := rfl
@[simp] theorem State.updTile_trellis (i : Nat) (f : Tile → Tile) : (s.updTile i f).trellis = s.trellis := rfl
@[simp] theorem State.updTile_atu (i : Nat) (f : Tile → Tile) : (s.updTile i f).atu = s.atu := rfl
@[simp] theorem State.updTile_chans (i : Nat) (f : Tile → Tile) : (s.updTile i f).chans = s.chans := rfl
@[simp] theorem State.updTile_dma (i : Nat) (f : Tile → Tile) : (s.updTile i f).dma = s.dma := rfl
@[simp] theorem State.updTile_lpc (i : Nat) (f : Tile → Tile) : (s.updTile i f).lpc = s.lpc := rfl
@[simp] theorem State.updTile_ftl (i : Nat) (f : Tile → Tile) : (s.updTile i f).ftl = s.ftl := rfl
@[simp] theorem State.updTile_comp (i : Nat) (f : Tile → Tile) : (s.updTile i f).comp = s.comp := rfl
@[simp] theorem State.updTile_sieve (i : Nat) (f : Tile → Tile) : (s.updTile i f).sieve = s.sieve := rfl
@[simp] theorem State.updTile_rings (i : Nat) (f : Tile → Tile) : (s.updTile i f).rings = s.rings := rfl
@[simp] theorem State.updTile_ringRegs (i : Nat) (f : Tile → Tile) : (s.updTile i f).ringRegs = s.ringRegs := rfl
@[simp] theorem State.updTile_tags (i : Nat) (f : Tile → Tile) : (s.updTile i f).tags = s.tags := rfl
@[simp] theorem State.updTile_groups (i : Nat) (f : Tile → Tile) : (s.updTile i f).groups = s.groups := rfl
@[simp] theorem State.updTile_cjournal (i : Nat) (f : Tile → Tile) : (s.updTile i f).cjournal = s.cjournal := rfl
@[simp] theorem State.updTile_reqRegs (i : Nat) (f : Tile → Tile) : (s.updTile i f).reqRegs = s.reqRegs := rfl
@[simp] theorem State.updTile_acct (i : Nat) (f : Tile → Tile) : (s.updTile i f).acct = s.acct := rfl
@[simp] theorem State.updTile_reqs (i : Nat) (f : Tile → Tile) : (s.updTile i f).reqs = s.reqs := rfl
@[simp] theorem State.updTile_tenants (i : Nat) (f : Tile → Tile) : (s.updTile i f).tenants = s.tenants := rfl
@[simp] theorem State.updTile_slots (i : Nat) (f : Tile → Tile) : (s.updTile i f).slots = s.slots := rfl
@[simp] theorem State.updTile_holders (i : Nat) (f : Tile → Tile) : (s.updTile i f).holders = s.holders := rfl
@[simp] theorem State.updTile_pools (i : Nat) (f : Tile → Tile) : (s.updTile i f).pools = s.pools := rfl
@[simp] theorem State.updTile_lds (i : Nat) (f : Tile → Tile) : (s.updTile i f).lds = s.lds := rfl
@[simp] theorem State.updTile_fabricMb (i : Nat) (f : Tile → Tile) : (s.updTile i f).fabricMb = s.fabricMb := rfl
@[simp] theorem State.updTile_mbTurn (i : Nat) (f : Tile → Tile) : (s.updTile i f).mbTurn = s.mbTurn := rfl
@[simp] theorem State.updTile_fab (i : Nat) (f : Tile → Tile) : (s.updTile i f).fab = s.fab := rfl
@[simp] theorem State.updTile_cmap (i : Nat) (f : Tile → Tile) : (s.updTile i f).cmap = s.cmap := rfl
@[simp] theorem State.updTile_cfg (i : Nat) (f : Tile → Tile) : (s.updTile i f).cfg = s.cfg := rfl
@[simp] theorem State.updTile_cxl (i : Nat) (f : Tile → Tile) : (s.updTile i f).cxl = s.cxl := rfl
@[simp] theorem State.updTile_devState (i : Nat) (f : Tile → Tile) : (s.updTile i f).devState = s.devState := rfl
@[simp] theorem State.updTile_feed (i : Nat) (f : Tile → Tile) : (s.updTile i f).feed = s.feed := rfl
@[simp] theorem State.updTile_cloche (i : Nat) (f : Tile → Tile) : (s.updTile i f).cloche = s.cloche := rfl
@[simp] theorem State.updTile_sec (i : Nat) (f : Tile → Tile) : (s.updTile i f).sec = s.sec := rfl
@[simp] theorem State.updTile_fcl (i : Nat) (f : Tile → Tile) : (s.updTile i f).fcl = s.fcl := rfl
@[simp] theorem State.updTile_ckpt (i : Nat) (f : Tile → Tile) : (s.updTile i f).ckpt = s.ckpt := rfl
@[simp] theorem State.updTile_pwr (i : Nat) (f : Tile → Tile) : (s.updTile i f).pwr = s.pwr := rfl
@[simp] theorem State.updTile_boot (i : Nat) (f : Tile → Tile) : (s.updTile i f).boot = s.boot := rfl
@[simp] theorem State.updTile_bridge (i : Nat) (f : Tile → Tile) : (s.updTile i f).bridge = s.bridge := rfl
@[simp] theorem State.updTile_jtag (i : Nat) (f : Tile → Tile) : (s.updTile i f).jtag = s.jtag := rfl
@[simp] theorem State.updTile_tile_self (i : Nat) (f : Tile → Tile) : (s.updTile i f).tile i = f (s.tile i) := Tbl.getD_upd_self ..
@[simp] theorem State.updTile_tile_ne {i j : Nat} (f : Tile → Tile) (h : j ≠ i) : (s.updTile i f).tile j = s.tile j := Tbl.getD_upd_ne _ _ _ _ h

/-! ## updChan -/

@[simp] theorem State.updChan_pending (i : Nat) (f : Chan → Chan) : (s.updChan i f).pending = s.pending := rfl
@[simp] theorem State.updChan_fresh (i : Nat) (f : Chan → Chan) : (s.updChan i f).fresh = s.fresh := rfl
@[simp] theorem State.updChan_ltu (i : Nat) (f : Chan → Chan) : (s.updChan i f).ltu = s.ltu := rfl
@[simp] theorem State.updChan_mem (i : Nat) (f : Chan → Chan) : (s.updChan i f).mem = s.mem := rfl
@[simp] theorem State.updChan_t3 (i : Nat) (f : Chan → Chan) : (s.updChan i f).t3 = s.t3 := rfl
@[simp] theorem State.updChan_hostMem (i : Nat) (f : Chan → Chan) : (s.updChan i f).hostMem = s.hostMem := rfl
@[simp] theorem State.updChan_dies (i : Nat) (f : Chan → Chan) : (s.updChan i f).dies = s.dies := rfl
@[simp] theorem State.updChan_trellis (i : Nat) (f : Chan → Chan) : (s.updChan i f).trellis = s.trellis := rfl
@[simp] theorem State.updChan_tiles (i : Nat) (f : Chan → Chan) : (s.updChan i f).tiles = s.tiles := rfl
@[simp] theorem State.updChan_atu (i : Nat) (f : Chan → Chan) : (s.updChan i f).atu = s.atu := rfl
@[simp] theorem State.updChan_dma (i : Nat) (f : Chan → Chan) : (s.updChan i f).dma = s.dma := rfl
@[simp] theorem State.updChan_lpc (i : Nat) (f : Chan → Chan) : (s.updChan i f).lpc = s.lpc := rfl
@[simp] theorem State.updChan_ftl (i : Nat) (f : Chan → Chan) : (s.updChan i f).ftl = s.ftl := rfl
@[simp] theorem State.updChan_comp (i : Nat) (f : Chan → Chan) : (s.updChan i f).comp = s.comp := rfl
@[simp] theorem State.updChan_sieve (i : Nat) (f : Chan → Chan) : (s.updChan i f).sieve = s.sieve := rfl
@[simp] theorem State.updChan_rings (i : Nat) (f : Chan → Chan) : (s.updChan i f).rings = s.rings := rfl
@[simp] theorem State.updChan_ringRegs (i : Nat) (f : Chan → Chan) : (s.updChan i f).ringRegs = s.ringRegs := rfl
@[simp] theorem State.updChan_tags (i : Nat) (f : Chan → Chan) : (s.updChan i f).tags = s.tags := rfl
@[simp] theorem State.updChan_groups (i : Nat) (f : Chan → Chan) : (s.updChan i f).groups = s.groups := rfl
@[simp] theorem State.updChan_cjournal (i : Nat) (f : Chan → Chan) : (s.updChan i f).cjournal = s.cjournal := rfl
@[simp] theorem State.updChan_reqRegs (i : Nat) (f : Chan → Chan) : (s.updChan i f).reqRegs = s.reqRegs := rfl
@[simp] theorem State.updChan_acct (i : Nat) (f : Chan → Chan) : (s.updChan i f).acct = s.acct := rfl
@[simp] theorem State.updChan_reqs (i : Nat) (f : Chan → Chan) : (s.updChan i f).reqs = s.reqs := rfl
@[simp] theorem State.updChan_tenants (i : Nat) (f : Chan → Chan) : (s.updChan i f).tenants = s.tenants := rfl
@[simp] theorem State.updChan_slots (i : Nat) (f : Chan → Chan) : (s.updChan i f).slots = s.slots := rfl
@[simp] theorem State.updChan_holders (i : Nat) (f : Chan → Chan) : (s.updChan i f).holders = s.holders := rfl
@[simp] theorem State.updChan_pools (i : Nat) (f : Chan → Chan) : (s.updChan i f).pools = s.pools := rfl
@[simp] theorem State.updChan_lds (i : Nat) (f : Chan → Chan) : (s.updChan i f).lds = s.lds := rfl
@[simp] theorem State.updChan_fabricMb (i : Nat) (f : Chan → Chan) : (s.updChan i f).fabricMb = s.fabricMb := rfl
@[simp] theorem State.updChan_mbTurn (i : Nat) (f : Chan → Chan) : (s.updChan i f).mbTurn = s.mbTurn := rfl
@[simp] theorem State.updChan_fab (i : Nat) (f : Chan → Chan) : (s.updChan i f).fab = s.fab := rfl
@[simp] theorem State.updChan_cmap (i : Nat) (f : Chan → Chan) : (s.updChan i f).cmap = s.cmap := rfl
@[simp] theorem State.updChan_cfg (i : Nat) (f : Chan → Chan) : (s.updChan i f).cfg = s.cfg := rfl
@[simp] theorem State.updChan_cxl (i : Nat) (f : Chan → Chan) : (s.updChan i f).cxl = s.cxl := rfl
@[simp] theorem State.updChan_devState (i : Nat) (f : Chan → Chan) : (s.updChan i f).devState = s.devState := rfl
@[simp] theorem State.updChan_feed (i : Nat) (f : Chan → Chan) : (s.updChan i f).feed = s.feed := rfl
@[simp] theorem State.updChan_cloche (i : Nat) (f : Chan → Chan) : (s.updChan i f).cloche = s.cloche := rfl
@[simp] theorem State.updChan_sec (i : Nat) (f : Chan → Chan) : (s.updChan i f).sec = s.sec := rfl
@[simp] theorem State.updChan_fcl (i : Nat) (f : Chan → Chan) : (s.updChan i f).fcl = s.fcl := rfl
@[simp] theorem State.updChan_ckpt (i : Nat) (f : Chan → Chan) : (s.updChan i f).ckpt = s.ckpt := rfl
@[simp] theorem State.updChan_pwr (i : Nat) (f : Chan → Chan) : (s.updChan i f).pwr = s.pwr := rfl
@[simp] theorem State.updChan_boot (i : Nat) (f : Chan → Chan) : (s.updChan i f).boot = s.boot := rfl
@[simp] theorem State.updChan_bridge (i : Nat) (f : Chan → Chan) : (s.updChan i f).bridge = s.bridge := rfl
@[simp] theorem State.updChan_jtag (i : Nat) (f : Chan → Chan) : (s.updChan i f).jtag = s.jtag := rfl
@[simp] theorem State.updChan_chan_self (i : Nat) (f : Chan → Chan) : (s.updChan i f).chan i = f (s.chan i) := Tbl.getD_upd_self ..
@[simp] theorem State.updChan_chan_ne {i j : Nat} (f : Chan → Chan) (h : j ≠ i) : (s.updChan i f).chan j = s.chan j := Tbl.getD_upd_ne _ _ _ _ h

/-! ## updEng -/

@[simp] theorem State.updEng_pending (i : Nat) (f : DmaEng → DmaEng) : (s.updEng i f).pending = s.pending := rfl
@[simp] theorem State.updEng_fresh (i : Nat) (f : DmaEng → DmaEng) : (s.updEng i f).fresh = s.fresh := rfl
@[simp] theorem State.updEng_ltu (i : Nat) (f : DmaEng → DmaEng) : (s.updEng i f).ltu = s.ltu := rfl
@[simp] theorem State.updEng_mem (i : Nat) (f : DmaEng → DmaEng) : (s.updEng i f).mem = s.mem := rfl
@[simp] theorem State.updEng_t3 (i : Nat) (f : DmaEng → DmaEng) : (s.updEng i f).t3 = s.t3 := rfl
@[simp] theorem State.updEng_hostMem (i : Nat) (f : DmaEng → DmaEng) : (s.updEng i f).hostMem = s.hostMem := rfl
@[simp] theorem State.updEng_dies (i : Nat) (f : DmaEng → DmaEng) : (s.updEng i f).dies = s.dies := rfl
@[simp] theorem State.updEng_trellis (i : Nat) (f : DmaEng → DmaEng) : (s.updEng i f).trellis = s.trellis := rfl
@[simp] theorem State.updEng_tiles (i : Nat) (f : DmaEng → DmaEng) : (s.updEng i f).tiles = s.tiles := rfl
@[simp] theorem State.updEng_atu (i : Nat) (f : DmaEng → DmaEng) : (s.updEng i f).atu = s.atu := rfl
@[simp] theorem State.updEng_chans (i : Nat) (f : DmaEng → DmaEng) : (s.updEng i f).chans = s.chans := rfl
@[simp] theorem State.updEng_lpc (i : Nat) (f : DmaEng → DmaEng) : (s.updEng i f).lpc = s.lpc := rfl
@[simp] theorem State.updEng_ftl (i : Nat) (f : DmaEng → DmaEng) : (s.updEng i f).ftl = s.ftl := rfl
@[simp] theorem State.updEng_comp (i : Nat) (f : DmaEng → DmaEng) : (s.updEng i f).comp = s.comp := rfl
@[simp] theorem State.updEng_sieve (i : Nat) (f : DmaEng → DmaEng) : (s.updEng i f).sieve = s.sieve := rfl
@[simp] theorem State.updEng_rings (i : Nat) (f : DmaEng → DmaEng) : (s.updEng i f).rings = s.rings := rfl
@[simp] theorem State.updEng_ringRegs (i : Nat) (f : DmaEng → DmaEng) : (s.updEng i f).ringRegs = s.ringRegs := rfl
@[simp] theorem State.updEng_tags (i : Nat) (f : DmaEng → DmaEng) : (s.updEng i f).tags = s.tags := rfl
@[simp] theorem State.updEng_groups (i : Nat) (f : DmaEng → DmaEng) : (s.updEng i f).groups = s.groups := rfl
@[simp] theorem State.updEng_cjournal (i : Nat) (f : DmaEng → DmaEng) : (s.updEng i f).cjournal = s.cjournal := rfl
@[simp] theorem State.updEng_reqRegs (i : Nat) (f : DmaEng → DmaEng) : (s.updEng i f).reqRegs = s.reqRegs := rfl
@[simp] theorem State.updEng_acct (i : Nat) (f : DmaEng → DmaEng) : (s.updEng i f).acct = s.acct := rfl
@[simp] theorem State.updEng_reqs (i : Nat) (f : DmaEng → DmaEng) : (s.updEng i f).reqs = s.reqs := rfl
@[simp] theorem State.updEng_tenants (i : Nat) (f : DmaEng → DmaEng) : (s.updEng i f).tenants = s.tenants := rfl
@[simp] theorem State.updEng_slots (i : Nat) (f : DmaEng → DmaEng) : (s.updEng i f).slots = s.slots := rfl
@[simp] theorem State.updEng_holders (i : Nat) (f : DmaEng → DmaEng) : (s.updEng i f).holders = s.holders := rfl
@[simp] theorem State.updEng_pools (i : Nat) (f : DmaEng → DmaEng) : (s.updEng i f).pools = s.pools := rfl
@[simp] theorem State.updEng_lds (i : Nat) (f : DmaEng → DmaEng) : (s.updEng i f).lds = s.lds := rfl
@[simp] theorem State.updEng_fabricMb (i : Nat) (f : DmaEng → DmaEng) : (s.updEng i f).fabricMb = s.fabricMb := rfl
@[simp] theorem State.updEng_mbTurn (i : Nat) (f : DmaEng → DmaEng) : (s.updEng i f).mbTurn = s.mbTurn := rfl
@[simp] theorem State.updEng_fab (i : Nat) (f : DmaEng → DmaEng) : (s.updEng i f).fab = s.fab := rfl
@[simp] theorem State.updEng_cmap (i : Nat) (f : DmaEng → DmaEng) : (s.updEng i f).cmap = s.cmap := rfl
@[simp] theorem State.updEng_cfg (i : Nat) (f : DmaEng → DmaEng) : (s.updEng i f).cfg = s.cfg := rfl
@[simp] theorem State.updEng_cxl (i : Nat) (f : DmaEng → DmaEng) : (s.updEng i f).cxl = s.cxl := rfl
@[simp] theorem State.updEng_devState (i : Nat) (f : DmaEng → DmaEng) : (s.updEng i f).devState = s.devState := rfl
@[simp] theorem State.updEng_feed (i : Nat) (f : DmaEng → DmaEng) : (s.updEng i f).feed = s.feed := rfl
@[simp] theorem State.updEng_cloche (i : Nat) (f : DmaEng → DmaEng) : (s.updEng i f).cloche = s.cloche := rfl
@[simp] theorem State.updEng_sec (i : Nat) (f : DmaEng → DmaEng) : (s.updEng i f).sec = s.sec := rfl
@[simp] theorem State.updEng_fcl (i : Nat) (f : DmaEng → DmaEng) : (s.updEng i f).fcl = s.fcl := rfl
@[simp] theorem State.updEng_ckpt (i : Nat) (f : DmaEng → DmaEng) : (s.updEng i f).ckpt = s.ckpt := rfl
@[simp] theorem State.updEng_pwr (i : Nat) (f : DmaEng → DmaEng) : (s.updEng i f).pwr = s.pwr := rfl
@[simp] theorem State.updEng_boot (i : Nat) (f : DmaEng → DmaEng) : (s.updEng i f).boot = s.boot := rfl
@[simp] theorem State.updEng_bridge (i : Nat) (f : DmaEng → DmaEng) : (s.updEng i f).bridge = s.bridge := rfl
@[simp] theorem State.updEng_jtag (i : Nat) (f : DmaEng → DmaEng) : (s.updEng i f).jtag = s.jtag := rfl
@[simp] theorem State.updEng_eng_self (i : Nat) (f : DmaEng → DmaEng) : (s.updEng i f).eng i = f (s.eng i) := Tbl.getD_upd_self ..
@[simp] theorem State.updEng_eng_ne {i j : Nat} (f : DmaEng → DmaEng) (h : j ≠ i) : (s.updEng i f).eng j = s.eng j := Tbl.getD_upd_ne _ _ _ _ h

/-! ## updLpc -/

@[simp] theorem State.updLpc_pending (i : Nat) (f : Lpc → Lpc) : (s.updLpc i f).pending = s.pending := rfl
@[simp] theorem State.updLpc_fresh (i : Nat) (f : Lpc → Lpc) : (s.updLpc i f).fresh = s.fresh := rfl
@[simp] theorem State.updLpc_ltu (i : Nat) (f : Lpc → Lpc) : (s.updLpc i f).ltu = s.ltu := rfl
@[simp] theorem State.updLpc_mem (i : Nat) (f : Lpc → Lpc) : (s.updLpc i f).mem = s.mem := rfl
@[simp] theorem State.updLpc_t3 (i : Nat) (f : Lpc → Lpc) : (s.updLpc i f).t3 = s.t3 := rfl
@[simp] theorem State.updLpc_hostMem (i : Nat) (f : Lpc → Lpc) : (s.updLpc i f).hostMem = s.hostMem := rfl
@[simp] theorem State.updLpc_dies (i : Nat) (f : Lpc → Lpc) : (s.updLpc i f).dies = s.dies := rfl
@[simp] theorem State.updLpc_trellis (i : Nat) (f : Lpc → Lpc) : (s.updLpc i f).trellis = s.trellis := rfl
@[simp] theorem State.updLpc_tiles (i : Nat) (f : Lpc → Lpc) : (s.updLpc i f).tiles = s.tiles := rfl
@[simp] theorem State.updLpc_atu (i : Nat) (f : Lpc → Lpc) : (s.updLpc i f).atu = s.atu := rfl
@[simp] theorem State.updLpc_chans (i : Nat) (f : Lpc → Lpc) : (s.updLpc i f).chans = s.chans := rfl
@[simp] theorem State.updLpc_dma (i : Nat) (f : Lpc → Lpc) : (s.updLpc i f).dma = s.dma := rfl
@[simp] theorem State.updLpc_ftl (i : Nat) (f : Lpc → Lpc) : (s.updLpc i f).ftl = s.ftl := rfl
@[simp] theorem State.updLpc_comp (i : Nat) (f : Lpc → Lpc) : (s.updLpc i f).comp = s.comp := rfl
@[simp] theorem State.updLpc_sieve (i : Nat) (f : Lpc → Lpc) : (s.updLpc i f).sieve = s.sieve := rfl
@[simp] theorem State.updLpc_rings (i : Nat) (f : Lpc → Lpc) : (s.updLpc i f).rings = s.rings := rfl
@[simp] theorem State.updLpc_ringRegs (i : Nat) (f : Lpc → Lpc) : (s.updLpc i f).ringRegs = s.ringRegs := rfl
@[simp] theorem State.updLpc_tags (i : Nat) (f : Lpc → Lpc) : (s.updLpc i f).tags = s.tags := rfl
@[simp] theorem State.updLpc_groups (i : Nat) (f : Lpc → Lpc) : (s.updLpc i f).groups = s.groups := rfl
@[simp] theorem State.updLpc_cjournal (i : Nat) (f : Lpc → Lpc) : (s.updLpc i f).cjournal = s.cjournal := rfl
@[simp] theorem State.updLpc_reqRegs (i : Nat) (f : Lpc → Lpc) : (s.updLpc i f).reqRegs = s.reqRegs := rfl
@[simp] theorem State.updLpc_acct (i : Nat) (f : Lpc → Lpc) : (s.updLpc i f).acct = s.acct := rfl
@[simp] theorem State.updLpc_reqs (i : Nat) (f : Lpc → Lpc) : (s.updLpc i f).reqs = s.reqs := rfl
@[simp] theorem State.updLpc_tenants (i : Nat) (f : Lpc → Lpc) : (s.updLpc i f).tenants = s.tenants := rfl
@[simp] theorem State.updLpc_slots (i : Nat) (f : Lpc → Lpc) : (s.updLpc i f).slots = s.slots := rfl
@[simp] theorem State.updLpc_holders (i : Nat) (f : Lpc → Lpc) : (s.updLpc i f).holders = s.holders := rfl
@[simp] theorem State.updLpc_pools (i : Nat) (f : Lpc → Lpc) : (s.updLpc i f).pools = s.pools := rfl
@[simp] theorem State.updLpc_lds (i : Nat) (f : Lpc → Lpc) : (s.updLpc i f).lds = s.lds := rfl
@[simp] theorem State.updLpc_fabricMb (i : Nat) (f : Lpc → Lpc) : (s.updLpc i f).fabricMb = s.fabricMb := rfl
@[simp] theorem State.updLpc_mbTurn (i : Nat) (f : Lpc → Lpc) : (s.updLpc i f).mbTurn = s.mbTurn := rfl
@[simp] theorem State.updLpc_fab (i : Nat) (f : Lpc → Lpc) : (s.updLpc i f).fab = s.fab := rfl
@[simp] theorem State.updLpc_cmap (i : Nat) (f : Lpc → Lpc) : (s.updLpc i f).cmap = s.cmap := rfl
@[simp] theorem State.updLpc_cfg (i : Nat) (f : Lpc → Lpc) : (s.updLpc i f).cfg = s.cfg := rfl
@[simp] theorem State.updLpc_cxl (i : Nat) (f : Lpc → Lpc) : (s.updLpc i f).cxl = s.cxl := rfl
@[simp] theorem State.updLpc_devState (i : Nat) (f : Lpc → Lpc) : (s.updLpc i f).devState = s.devState := rfl
@[simp] theorem State.updLpc_feed (i : Nat) (f : Lpc → Lpc) : (s.updLpc i f).feed = s.feed := rfl
@[simp] theorem State.updLpc_cloche (i : Nat) (f : Lpc → Lpc) : (s.updLpc i f).cloche = s.cloche := rfl
@[simp] theorem State.updLpc_sec (i : Nat) (f : Lpc → Lpc) : (s.updLpc i f).sec = s.sec := rfl
@[simp] theorem State.updLpc_fcl (i : Nat) (f : Lpc → Lpc) : (s.updLpc i f).fcl = s.fcl := rfl
@[simp] theorem State.updLpc_ckpt (i : Nat) (f : Lpc → Lpc) : (s.updLpc i f).ckpt = s.ckpt := rfl
@[simp] theorem State.updLpc_pwr (i : Nat) (f : Lpc → Lpc) : (s.updLpc i f).pwr = s.pwr := rfl
@[simp] theorem State.updLpc_boot (i : Nat) (f : Lpc → Lpc) : (s.updLpc i f).boot = s.boot := rfl
@[simp] theorem State.updLpc_bridge (i : Nat) (f : Lpc → Lpc) : (s.updLpc i f).bridge = s.bridge := rfl
@[simp] theorem State.updLpc_jtag (i : Nat) (f : Lpc → Lpc) : (s.updLpc i f).jtag = s.jtag := rfl
@[simp] theorem State.updLpc_lpcOf_self (i : Nat) (f : Lpc → Lpc) : (s.updLpc i f).lpcOf i = f (s.lpcOf i) := Tbl.getD_upd_self ..
@[simp] theorem State.updLpc_lpcOf_ne {i j : Nat} (f : Lpc → Lpc) (h : j ≠ i) : (s.updLpc i f).lpcOf j = s.lpcOf j := Tbl.getD_upd_ne _ _ _ _ h

/-! ## updComp -/

@[simp] theorem State.updComp_pending (i : Nat) (f : Comp → Comp) : (s.updComp i f).pending = s.pending := rfl
@[simp] theorem State.updComp_fresh (i : Nat) (f : Comp → Comp) : (s.updComp i f).fresh = s.fresh := rfl
@[simp] theorem State.updComp_ltu (i : Nat) (f : Comp → Comp) : (s.updComp i f).ltu = s.ltu := rfl
@[simp] theorem State.updComp_mem (i : Nat) (f : Comp → Comp) : (s.updComp i f).mem = s.mem := rfl
@[simp] theorem State.updComp_t3 (i : Nat) (f : Comp → Comp) : (s.updComp i f).t3 = s.t3 := rfl
@[simp] theorem State.updComp_hostMem (i : Nat) (f : Comp → Comp) : (s.updComp i f).hostMem = s.hostMem := rfl
@[simp] theorem State.updComp_dies (i : Nat) (f : Comp → Comp) : (s.updComp i f).dies = s.dies := rfl
@[simp] theorem State.updComp_trellis (i : Nat) (f : Comp → Comp) : (s.updComp i f).trellis = s.trellis := rfl
@[simp] theorem State.updComp_tiles (i : Nat) (f : Comp → Comp) : (s.updComp i f).tiles = s.tiles := rfl
@[simp] theorem State.updComp_atu (i : Nat) (f : Comp → Comp) : (s.updComp i f).atu = s.atu := rfl
@[simp] theorem State.updComp_chans (i : Nat) (f : Comp → Comp) : (s.updComp i f).chans = s.chans := rfl
@[simp] theorem State.updComp_dma (i : Nat) (f : Comp → Comp) : (s.updComp i f).dma = s.dma := rfl
@[simp] theorem State.updComp_lpc (i : Nat) (f : Comp → Comp) : (s.updComp i f).lpc = s.lpc := rfl
@[simp] theorem State.updComp_ftl (i : Nat) (f : Comp → Comp) : (s.updComp i f).ftl = s.ftl := rfl
@[simp] theorem State.updComp_sieve (i : Nat) (f : Comp → Comp) : (s.updComp i f).sieve = s.sieve := rfl
@[simp] theorem State.updComp_rings (i : Nat) (f : Comp → Comp) : (s.updComp i f).rings = s.rings := rfl
@[simp] theorem State.updComp_ringRegs (i : Nat) (f : Comp → Comp) : (s.updComp i f).ringRegs = s.ringRegs := rfl
@[simp] theorem State.updComp_tags (i : Nat) (f : Comp → Comp) : (s.updComp i f).tags = s.tags := rfl
@[simp] theorem State.updComp_groups (i : Nat) (f : Comp → Comp) : (s.updComp i f).groups = s.groups := rfl
@[simp] theorem State.updComp_cjournal (i : Nat) (f : Comp → Comp) : (s.updComp i f).cjournal = s.cjournal := rfl
@[simp] theorem State.updComp_reqRegs (i : Nat) (f : Comp → Comp) : (s.updComp i f).reqRegs = s.reqRegs := rfl
@[simp] theorem State.updComp_acct (i : Nat) (f : Comp → Comp) : (s.updComp i f).acct = s.acct := rfl
@[simp] theorem State.updComp_reqs (i : Nat) (f : Comp → Comp) : (s.updComp i f).reqs = s.reqs := rfl
@[simp] theorem State.updComp_tenants (i : Nat) (f : Comp → Comp) : (s.updComp i f).tenants = s.tenants := rfl
@[simp] theorem State.updComp_slots (i : Nat) (f : Comp → Comp) : (s.updComp i f).slots = s.slots := rfl
@[simp] theorem State.updComp_holders (i : Nat) (f : Comp → Comp) : (s.updComp i f).holders = s.holders := rfl
@[simp] theorem State.updComp_pools (i : Nat) (f : Comp → Comp) : (s.updComp i f).pools = s.pools := rfl
@[simp] theorem State.updComp_lds (i : Nat) (f : Comp → Comp) : (s.updComp i f).lds = s.lds := rfl
@[simp] theorem State.updComp_fabricMb (i : Nat) (f : Comp → Comp) : (s.updComp i f).fabricMb = s.fabricMb := rfl
@[simp] theorem State.updComp_mbTurn (i : Nat) (f : Comp → Comp) : (s.updComp i f).mbTurn = s.mbTurn := rfl
@[simp] theorem State.updComp_fab (i : Nat) (f : Comp → Comp) : (s.updComp i f).fab = s.fab := rfl
@[simp] theorem State.updComp_cmap (i : Nat) (f : Comp → Comp) : (s.updComp i f).cmap = s.cmap := rfl
@[simp] theorem State.updComp_cfg (i : Nat) (f : Comp → Comp) : (s.updComp i f).cfg = s.cfg := rfl
@[simp] theorem State.updComp_cxl (i : Nat) (f : Comp → Comp) : (s.updComp i f).cxl = s.cxl := rfl
@[simp] theorem State.updComp_devState (i : Nat) (f : Comp → Comp) : (s.updComp i f).devState = s.devState := rfl
@[simp] theorem State.updComp_feed (i : Nat) (f : Comp → Comp) : (s.updComp i f).feed = s.feed := rfl
@[simp] theorem State.updComp_cloche (i : Nat) (f : Comp → Comp) : (s.updComp i f).cloche = s.cloche := rfl
@[simp] theorem State.updComp_sec (i : Nat) (f : Comp → Comp) : (s.updComp i f).sec = s.sec := rfl
@[simp] theorem State.updComp_fcl (i : Nat) (f : Comp → Comp) : (s.updComp i f).fcl = s.fcl := rfl
@[simp] theorem State.updComp_ckpt (i : Nat) (f : Comp → Comp) : (s.updComp i f).ckpt = s.ckpt := rfl
@[simp] theorem State.updComp_pwr (i : Nat) (f : Comp → Comp) : (s.updComp i f).pwr = s.pwr := rfl
@[simp] theorem State.updComp_boot (i : Nat) (f : Comp → Comp) : (s.updComp i f).boot = s.boot := rfl
@[simp] theorem State.updComp_bridge (i : Nat) (f : Comp → Comp) : (s.updComp i f).bridge = s.bridge := rfl
@[simp] theorem State.updComp_jtag (i : Nat) (f : Comp → Comp) : (s.updComp i f).jtag = s.jtag := rfl
@[simp] theorem State.updComp_compOf_self (i : Nat) (f : Comp → Comp) : (s.updComp i f).compOf i = f (s.compOf i) := Tbl.getD_upd_self ..
@[simp] theorem State.updComp_compOf_ne {i j : Nat} (f : Comp → Comp) (h : j ≠ i) : (s.updComp i f).compOf j = s.compOf j := Tbl.getD_upd_ne _ _ _ _ h

/-! ## updSieve -/

@[simp] theorem State.updSieve_pending (i : Nat) (f : Sieve → Sieve) : (s.updSieve i f).pending = s.pending := rfl
@[simp] theorem State.updSieve_fresh (i : Nat) (f : Sieve → Sieve) : (s.updSieve i f).fresh = s.fresh := rfl
@[simp] theorem State.updSieve_ltu (i : Nat) (f : Sieve → Sieve) : (s.updSieve i f).ltu = s.ltu := rfl
@[simp] theorem State.updSieve_mem (i : Nat) (f : Sieve → Sieve) : (s.updSieve i f).mem = s.mem := rfl
@[simp] theorem State.updSieve_t3 (i : Nat) (f : Sieve → Sieve) : (s.updSieve i f).t3 = s.t3 := rfl
@[simp] theorem State.updSieve_hostMem (i : Nat) (f : Sieve → Sieve) : (s.updSieve i f).hostMem = s.hostMem := rfl
@[simp] theorem State.updSieve_dies (i : Nat) (f : Sieve → Sieve) : (s.updSieve i f).dies = s.dies := rfl
@[simp] theorem State.updSieve_trellis (i : Nat) (f : Sieve → Sieve) : (s.updSieve i f).trellis = s.trellis := rfl
@[simp] theorem State.updSieve_tiles (i : Nat) (f : Sieve → Sieve) : (s.updSieve i f).tiles = s.tiles := rfl
@[simp] theorem State.updSieve_atu (i : Nat) (f : Sieve → Sieve) : (s.updSieve i f).atu = s.atu := rfl
@[simp] theorem State.updSieve_chans (i : Nat) (f : Sieve → Sieve) : (s.updSieve i f).chans = s.chans := rfl
@[simp] theorem State.updSieve_dma (i : Nat) (f : Sieve → Sieve) : (s.updSieve i f).dma = s.dma := rfl
@[simp] theorem State.updSieve_lpc (i : Nat) (f : Sieve → Sieve) : (s.updSieve i f).lpc = s.lpc := rfl
@[simp] theorem State.updSieve_ftl (i : Nat) (f : Sieve → Sieve) : (s.updSieve i f).ftl = s.ftl := rfl
@[simp] theorem State.updSieve_comp (i : Nat) (f : Sieve → Sieve) : (s.updSieve i f).comp = s.comp := rfl
@[simp] theorem State.updSieve_rings (i : Nat) (f : Sieve → Sieve) : (s.updSieve i f).rings = s.rings := rfl
@[simp] theorem State.updSieve_ringRegs (i : Nat) (f : Sieve → Sieve) : (s.updSieve i f).ringRegs = s.ringRegs := rfl
@[simp] theorem State.updSieve_tags (i : Nat) (f : Sieve → Sieve) : (s.updSieve i f).tags = s.tags := rfl
@[simp] theorem State.updSieve_groups (i : Nat) (f : Sieve → Sieve) : (s.updSieve i f).groups = s.groups := rfl
@[simp] theorem State.updSieve_cjournal (i : Nat) (f : Sieve → Sieve) : (s.updSieve i f).cjournal = s.cjournal := rfl
@[simp] theorem State.updSieve_reqRegs (i : Nat) (f : Sieve → Sieve) : (s.updSieve i f).reqRegs = s.reqRegs := rfl
@[simp] theorem State.updSieve_acct (i : Nat) (f : Sieve → Sieve) : (s.updSieve i f).acct = s.acct := rfl
@[simp] theorem State.updSieve_reqs (i : Nat) (f : Sieve → Sieve) : (s.updSieve i f).reqs = s.reqs := rfl
@[simp] theorem State.updSieve_tenants (i : Nat) (f : Sieve → Sieve) : (s.updSieve i f).tenants = s.tenants := rfl
@[simp] theorem State.updSieve_slots (i : Nat) (f : Sieve → Sieve) : (s.updSieve i f).slots = s.slots := rfl
@[simp] theorem State.updSieve_holders (i : Nat) (f : Sieve → Sieve) : (s.updSieve i f).holders = s.holders := rfl
@[simp] theorem State.updSieve_pools (i : Nat) (f : Sieve → Sieve) : (s.updSieve i f).pools = s.pools := rfl
@[simp] theorem State.updSieve_lds (i : Nat) (f : Sieve → Sieve) : (s.updSieve i f).lds = s.lds := rfl
@[simp] theorem State.updSieve_fabricMb (i : Nat) (f : Sieve → Sieve) : (s.updSieve i f).fabricMb = s.fabricMb := rfl
@[simp] theorem State.updSieve_mbTurn (i : Nat) (f : Sieve → Sieve) : (s.updSieve i f).mbTurn = s.mbTurn := rfl
@[simp] theorem State.updSieve_fab (i : Nat) (f : Sieve → Sieve) : (s.updSieve i f).fab = s.fab := rfl
@[simp] theorem State.updSieve_cmap (i : Nat) (f : Sieve → Sieve) : (s.updSieve i f).cmap = s.cmap := rfl
@[simp] theorem State.updSieve_cfg (i : Nat) (f : Sieve → Sieve) : (s.updSieve i f).cfg = s.cfg := rfl
@[simp] theorem State.updSieve_cxl (i : Nat) (f : Sieve → Sieve) : (s.updSieve i f).cxl = s.cxl := rfl
@[simp] theorem State.updSieve_devState (i : Nat) (f : Sieve → Sieve) : (s.updSieve i f).devState = s.devState := rfl
@[simp] theorem State.updSieve_feed (i : Nat) (f : Sieve → Sieve) : (s.updSieve i f).feed = s.feed := rfl
@[simp] theorem State.updSieve_cloche (i : Nat) (f : Sieve → Sieve) : (s.updSieve i f).cloche = s.cloche := rfl
@[simp] theorem State.updSieve_sec (i : Nat) (f : Sieve → Sieve) : (s.updSieve i f).sec = s.sec := rfl
@[simp] theorem State.updSieve_fcl (i : Nat) (f : Sieve → Sieve) : (s.updSieve i f).fcl = s.fcl := rfl
@[simp] theorem State.updSieve_ckpt (i : Nat) (f : Sieve → Sieve) : (s.updSieve i f).ckpt = s.ckpt := rfl
@[simp] theorem State.updSieve_pwr (i : Nat) (f : Sieve → Sieve) : (s.updSieve i f).pwr = s.pwr := rfl
@[simp] theorem State.updSieve_boot (i : Nat) (f : Sieve → Sieve) : (s.updSieve i f).boot = s.boot := rfl
@[simp] theorem State.updSieve_bridge (i : Nat) (f : Sieve → Sieve) : (s.updSieve i f).bridge = s.bridge := rfl
@[simp] theorem State.updSieve_jtag (i : Nat) (f : Sieve → Sieve) : (s.updSieve i f).jtag = s.jtag := rfl
@[simp] theorem State.updSieve_sieveOf_self (i : Nat) (f : Sieve → Sieve) : (s.updSieve i f).sieveOf i = f (s.sieveOf i) := Tbl.getD_upd_self ..
@[simp] theorem State.updSieve_sieveOf_ne {i j : Nat} (f : Sieve → Sieve) (h : j ≠ i) : (s.updSieve i f).sieveOf j = s.sieveOf j := Tbl.getD_upd_ne _ _ _ _ h

/-! ## updRing -/

@[simp] theorem State.updRing_pending (i : Nat) (f : Ring → Ring) : (s.updRing i f).pending = s.pending := rfl
@[simp] theorem State.updRing_fresh (i : Nat) (f : Ring → Ring) : (s.updRing i f).fresh = s.fresh := rfl
@[simp] theorem State.updRing_ltu (i : Nat) (f : Ring → Ring) : (s.updRing i f).ltu = s.ltu := rfl
@[simp] theorem State.updRing_mem (i : Nat) (f : Ring → Ring) : (s.updRing i f).mem = s.mem := rfl
@[simp] theorem State.updRing_t3 (i : Nat) (f : Ring → Ring) : (s.updRing i f).t3 = s.t3 := rfl
@[simp] theorem State.updRing_hostMem (i : Nat) (f : Ring → Ring) : (s.updRing i f).hostMem = s.hostMem := rfl
@[simp] theorem State.updRing_dies (i : Nat) (f : Ring → Ring) : (s.updRing i f).dies = s.dies := rfl
@[simp] theorem State.updRing_trellis (i : Nat) (f : Ring → Ring) : (s.updRing i f).trellis = s.trellis := rfl
@[simp] theorem State.updRing_tiles (i : Nat) (f : Ring → Ring) : (s.updRing i f).tiles = s.tiles := rfl
@[simp] theorem State.updRing_atu (i : Nat) (f : Ring → Ring) : (s.updRing i f).atu = s.atu := rfl
@[simp] theorem State.updRing_chans (i : Nat) (f : Ring → Ring) : (s.updRing i f).chans = s.chans := rfl
@[simp] theorem State.updRing_dma (i : Nat) (f : Ring → Ring) : (s.updRing i f).dma = s.dma := rfl
@[simp] theorem State.updRing_lpc (i : Nat) (f : Ring → Ring) : (s.updRing i f).lpc = s.lpc := rfl
@[simp] theorem State.updRing_ftl (i : Nat) (f : Ring → Ring) : (s.updRing i f).ftl = s.ftl := rfl
@[simp] theorem State.updRing_comp (i : Nat) (f : Ring → Ring) : (s.updRing i f).comp = s.comp := rfl
@[simp] theorem State.updRing_sieve (i : Nat) (f : Ring → Ring) : (s.updRing i f).sieve = s.sieve := rfl
@[simp] theorem State.updRing_ringRegs (i : Nat) (f : Ring → Ring) : (s.updRing i f).ringRegs = s.ringRegs := rfl
@[simp] theorem State.updRing_tags (i : Nat) (f : Ring → Ring) : (s.updRing i f).tags = s.tags := rfl
@[simp] theorem State.updRing_groups (i : Nat) (f : Ring → Ring) : (s.updRing i f).groups = s.groups := rfl
@[simp] theorem State.updRing_cjournal (i : Nat) (f : Ring → Ring) : (s.updRing i f).cjournal = s.cjournal := rfl
@[simp] theorem State.updRing_reqRegs (i : Nat) (f : Ring → Ring) : (s.updRing i f).reqRegs = s.reqRegs := rfl
@[simp] theorem State.updRing_acct (i : Nat) (f : Ring → Ring) : (s.updRing i f).acct = s.acct := rfl
@[simp] theorem State.updRing_reqs (i : Nat) (f : Ring → Ring) : (s.updRing i f).reqs = s.reqs := rfl
@[simp] theorem State.updRing_tenants (i : Nat) (f : Ring → Ring) : (s.updRing i f).tenants = s.tenants := rfl
@[simp] theorem State.updRing_slots (i : Nat) (f : Ring → Ring) : (s.updRing i f).slots = s.slots := rfl
@[simp] theorem State.updRing_holders (i : Nat) (f : Ring → Ring) : (s.updRing i f).holders = s.holders := rfl
@[simp] theorem State.updRing_pools (i : Nat) (f : Ring → Ring) : (s.updRing i f).pools = s.pools := rfl
@[simp] theorem State.updRing_lds (i : Nat) (f : Ring → Ring) : (s.updRing i f).lds = s.lds := rfl
@[simp] theorem State.updRing_fabricMb (i : Nat) (f : Ring → Ring) : (s.updRing i f).fabricMb = s.fabricMb := rfl
@[simp] theorem State.updRing_mbTurn (i : Nat) (f : Ring → Ring) : (s.updRing i f).mbTurn = s.mbTurn := rfl
@[simp] theorem State.updRing_fab (i : Nat) (f : Ring → Ring) : (s.updRing i f).fab = s.fab := rfl
@[simp] theorem State.updRing_cmap (i : Nat) (f : Ring → Ring) : (s.updRing i f).cmap = s.cmap := rfl
@[simp] theorem State.updRing_cfg (i : Nat) (f : Ring → Ring) : (s.updRing i f).cfg = s.cfg := rfl
@[simp] theorem State.updRing_cxl (i : Nat) (f : Ring → Ring) : (s.updRing i f).cxl = s.cxl := rfl
@[simp] theorem State.updRing_devState (i : Nat) (f : Ring → Ring) : (s.updRing i f).devState = s.devState := rfl
@[simp] theorem State.updRing_feed (i : Nat) (f : Ring → Ring) : (s.updRing i f).feed = s.feed := rfl
@[simp] theorem State.updRing_cloche (i : Nat) (f : Ring → Ring) : (s.updRing i f).cloche = s.cloche := rfl
@[simp] theorem State.updRing_sec (i : Nat) (f : Ring → Ring) : (s.updRing i f).sec = s.sec := rfl
@[simp] theorem State.updRing_fcl (i : Nat) (f : Ring → Ring) : (s.updRing i f).fcl = s.fcl := rfl
@[simp] theorem State.updRing_ckpt (i : Nat) (f : Ring → Ring) : (s.updRing i f).ckpt = s.ckpt := rfl
@[simp] theorem State.updRing_pwr (i : Nat) (f : Ring → Ring) : (s.updRing i f).pwr = s.pwr := rfl
@[simp] theorem State.updRing_boot (i : Nat) (f : Ring → Ring) : (s.updRing i f).boot = s.boot := rfl
@[simp] theorem State.updRing_bridge (i : Nat) (f : Ring → Ring) : (s.updRing i f).bridge = s.bridge := rfl
@[simp] theorem State.updRing_jtag (i : Nat) (f : Ring → Ring) : (s.updRing i f).jtag = s.jtag := rfl
@[simp] theorem State.updRing_ring_self (i : Nat) (f : Ring → Ring) : (s.updRing i f).ring i = f (s.ring i) := Tbl.getD_upd_self ..
@[simp] theorem State.updRing_ring_ne {i j : Nat} (f : Ring → Ring) (h : j ≠ i) : (s.updRing i f).ring j = s.ring j := Tbl.getD_upd_ne _ _ _ _ h

/-! ## updTag -/

@[simp] theorem State.updTag_pending (i : Nat) (f : Tag → Tag) : (s.updTag i f).pending = s.pending := rfl
@[simp] theorem State.updTag_fresh (i : Nat) (f : Tag → Tag) : (s.updTag i f).fresh = s.fresh := rfl
@[simp] theorem State.updTag_ltu (i : Nat) (f : Tag → Tag) : (s.updTag i f).ltu = s.ltu := rfl
@[simp] theorem State.updTag_mem (i : Nat) (f : Tag → Tag) : (s.updTag i f).mem = s.mem := rfl
@[simp] theorem State.updTag_t3 (i : Nat) (f : Tag → Tag) : (s.updTag i f).t3 = s.t3 := rfl
@[simp] theorem State.updTag_hostMem (i : Nat) (f : Tag → Tag) : (s.updTag i f).hostMem = s.hostMem := rfl
@[simp] theorem State.updTag_dies (i : Nat) (f : Tag → Tag) : (s.updTag i f).dies = s.dies := rfl
@[simp] theorem State.updTag_trellis (i : Nat) (f : Tag → Tag) : (s.updTag i f).trellis = s.trellis := rfl
@[simp] theorem State.updTag_tiles (i : Nat) (f : Tag → Tag) : (s.updTag i f).tiles = s.tiles := rfl
@[simp] theorem State.updTag_atu (i : Nat) (f : Tag → Tag) : (s.updTag i f).atu = s.atu := rfl
@[simp] theorem State.updTag_chans (i : Nat) (f : Tag → Tag) : (s.updTag i f).chans = s.chans := rfl
@[simp] theorem State.updTag_dma (i : Nat) (f : Tag → Tag) : (s.updTag i f).dma = s.dma := rfl
@[simp] theorem State.updTag_lpc (i : Nat) (f : Tag → Tag) : (s.updTag i f).lpc = s.lpc := rfl
@[simp] theorem State.updTag_ftl (i : Nat) (f : Tag → Tag) : (s.updTag i f).ftl = s.ftl := rfl
@[simp] theorem State.updTag_comp (i : Nat) (f : Tag → Tag) : (s.updTag i f).comp = s.comp := rfl
@[simp] theorem State.updTag_sieve (i : Nat) (f : Tag → Tag) : (s.updTag i f).sieve = s.sieve := rfl
@[simp] theorem State.updTag_rings (i : Nat) (f : Tag → Tag) : (s.updTag i f).rings = s.rings := rfl
@[simp] theorem State.updTag_ringRegs (i : Nat) (f : Tag → Tag) : (s.updTag i f).ringRegs = s.ringRegs := rfl
@[simp] theorem State.updTag_groups (i : Nat) (f : Tag → Tag) : (s.updTag i f).groups = s.groups := rfl
@[simp] theorem State.updTag_cjournal (i : Nat) (f : Tag → Tag) : (s.updTag i f).cjournal = s.cjournal := rfl
@[simp] theorem State.updTag_reqRegs (i : Nat) (f : Tag → Tag) : (s.updTag i f).reqRegs = s.reqRegs := rfl
@[simp] theorem State.updTag_acct (i : Nat) (f : Tag → Tag) : (s.updTag i f).acct = s.acct := rfl
@[simp] theorem State.updTag_reqs (i : Nat) (f : Tag → Tag) : (s.updTag i f).reqs = s.reqs := rfl
@[simp] theorem State.updTag_tenants (i : Nat) (f : Tag → Tag) : (s.updTag i f).tenants = s.tenants := rfl
@[simp] theorem State.updTag_slots (i : Nat) (f : Tag → Tag) : (s.updTag i f).slots = s.slots := rfl
@[simp] theorem State.updTag_holders (i : Nat) (f : Tag → Tag) : (s.updTag i f).holders = s.holders := rfl
@[simp] theorem State.updTag_pools (i : Nat) (f : Tag → Tag) : (s.updTag i f).pools = s.pools := rfl
@[simp] theorem State.updTag_lds (i : Nat) (f : Tag → Tag) : (s.updTag i f).lds = s.lds := rfl
@[simp] theorem State.updTag_fabricMb (i : Nat) (f : Tag → Tag) : (s.updTag i f).fabricMb = s.fabricMb := rfl
@[simp] theorem State.updTag_mbTurn (i : Nat) (f : Tag → Tag) : (s.updTag i f).mbTurn = s.mbTurn := rfl
@[simp] theorem State.updTag_fab (i : Nat) (f : Tag → Tag) : (s.updTag i f).fab = s.fab := rfl
@[simp] theorem State.updTag_cmap (i : Nat) (f : Tag → Tag) : (s.updTag i f).cmap = s.cmap := rfl
@[simp] theorem State.updTag_cfg (i : Nat) (f : Tag → Tag) : (s.updTag i f).cfg = s.cfg := rfl
@[simp] theorem State.updTag_cxl (i : Nat) (f : Tag → Tag) : (s.updTag i f).cxl = s.cxl := rfl
@[simp] theorem State.updTag_devState (i : Nat) (f : Tag → Tag) : (s.updTag i f).devState = s.devState := rfl
@[simp] theorem State.updTag_feed (i : Nat) (f : Tag → Tag) : (s.updTag i f).feed = s.feed := rfl
@[simp] theorem State.updTag_cloche (i : Nat) (f : Tag → Tag) : (s.updTag i f).cloche = s.cloche := rfl
@[simp] theorem State.updTag_sec (i : Nat) (f : Tag → Tag) : (s.updTag i f).sec = s.sec := rfl
@[simp] theorem State.updTag_fcl (i : Nat) (f : Tag → Tag) : (s.updTag i f).fcl = s.fcl := rfl
@[simp] theorem State.updTag_ckpt (i : Nat) (f : Tag → Tag) : (s.updTag i f).ckpt = s.ckpt := rfl
@[simp] theorem State.updTag_pwr (i : Nat) (f : Tag → Tag) : (s.updTag i f).pwr = s.pwr := rfl
@[simp] theorem State.updTag_boot (i : Nat) (f : Tag → Tag) : (s.updTag i f).boot = s.boot := rfl
@[simp] theorem State.updTag_bridge (i : Nat) (f : Tag → Tag) : (s.updTag i f).bridge = s.bridge := rfl
@[simp] theorem State.updTag_jtag (i : Nat) (f : Tag → Tag) : (s.updTag i f).jtag = s.jtag := rfl
@[simp] theorem State.updTag_tag_self (i : Nat) (f : Tag → Tag) : (s.updTag i f).tag i = f (s.tag i) := Tbl.getD_upd_self ..
@[simp] theorem State.updTag_tag_ne {i j : Nat} (f : Tag → Tag) (h : j ≠ i) : (s.updTag i f).tag j = s.tag j := Tbl.getD_upd_ne _ _ _ _ h

/-! ## updGroup -/

@[simp] theorem State.updGroup_pending (i : Nat) (f : Group → Group) : (s.updGroup i f).pending = s.pending := rfl
@[simp] theorem State.updGroup_fresh (i : Nat) (f : Group → Group) : (s.updGroup i f).fresh = s.fresh := rfl
@[simp] theorem State.updGroup_ltu (i : Nat) (f : Group → Group) : (s.updGroup i f).ltu = s.ltu := rfl
@[simp] theorem State.updGroup_mem (i : Nat) (f : Group → Group) : (s.updGroup i f).mem = s.mem := rfl
@[simp] theorem State.updGroup_t3 (i : Nat) (f : Group → Group) : (s.updGroup i f).t3 = s.t3 := rfl
@[simp] theorem State.updGroup_hostMem (i : Nat) (f : Group → Group) : (s.updGroup i f).hostMem = s.hostMem := rfl
@[simp] theorem State.updGroup_dies (i : Nat) (f : Group → Group) : (s.updGroup i f).dies = s.dies := rfl
@[simp] theorem State.updGroup_trellis (i : Nat) (f : Group → Group) : (s.updGroup i f).trellis = s.trellis := rfl
@[simp] theorem State.updGroup_tiles (i : Nat) (f : Group → Group) : (s.updGroup i f).tiles = s.tiles := rfl
@[simp] theorem State.updGroup_atu (i : Nat) (f : Group → Group) : (s.updGroup i f).atu = s.atu := rfl
@[simp] theorem State.updGroup_chans (i : Nat) (f : Group → Group) : (s.updGroup i f).chans = s.chans := rfl
@[simp] theorem State.updGroup_dma (i : Nat) (f : Group → Group) : (s.updGroup i f).dma = s.dma := rfl
@[simp] theorem State.updGroup_lpc (i : Nat) (f : Group → Group) : (s.updGroup i f).lpc = s.lpc := rfl
@[simp] theorem State.updGroup_ftl (i : Nat) (f : Group → Group) : (s.updGroup i f).ftl = s.ftl := rfl
@[simp] theorem State.updGroup_comp (i : Nat) (f : Group → Group) : (s.updGroup i f).comp = s.comp := rfl
@[simp] theorem State.updGroup_sieve (i : Nat) (f : Group → Group) : (s.updGroup i f).sieve = s.sieve := rfl
@[simp] theorem State.updGroup_rings (i : Nat) (f : Group → Group) : (s.updGroup i f).rings = s.rings := rfl
@[simp] theorem State.updGroup_ringRegs (i : Nat) (f : Group → Group) : (s.updGroup i f).ringRegs = s.ringRegs := rfl
@[simp] theorem State.updGroup_tags (i : Nat) (f : Group → Group) : (s.updGroup i f).tags = s.tags := rfl
@[simp] theorem State.updGroup_cjournal (i : Nat) (f : Group → Group) : (s.updGroup i f).cjournal = s.cjournal := rfl
@[simp] theorem State.updGroup_reqRegs (i : Nat) (f : Group → Group) : (s.updGroup i f).reqRegs = s.reqRegs := rfl
@[simp] theorem State.updGroup_acct (i : Nat) (f : Group → Group) : (s.updGroup i f).acct = s.acct := rfl
@[simp] theorem State.updGroup_reqs (i : Nat) (f : Group → Group) : (s.updGroup i f).reqs = s.reqs := rfl
@[simp] theorem State.updGroup_tenants (i : Nat) (f : Group → Group) : (s.updGroup i f).tenants = s.tenants := rfl
@[simp] theorem State.updGroup_slots (i : Nat) (f : Group → Group) : (s.updGroup i f).slots = s.slots := rfl
@[simp] theorem State.updGroup_holders (i : Nat) (f : Group → Group) : (s.updGroup i f).holders = s.holders := rfl
@[simp] theorem State.updGroup_pools (i : Nat) (f : Group → Group) : (s.updGroup i f).pools = s.pools := rfl
@[simp] theorem State.updGroup_lds (i : Nat) (f : Group → Group) : (s.updGroup i f).lds = s.lds := rfl
@[simp] theorem State.updGroup_fabricMb (i : Nat) (f : Group → Group) : (s.updGroup i f).fabricMb = s.fabricMb := rfl
@[simp] theorem State.updGroup_mbTurn (i : Nat) (f : Group → Group) : (s.updGroup i f).mbTurn = s.mbTurn := rfl
@[simp] theorem State.updGroup_fab (i : Nat) (f : Group → Group) : (s.updGroup i f).fab = s.fab := rfl
@[simp] theorem State.updGroup_cmap (i : Nat) (f : Group → Group) : (s.updGroup i f).cmap = s.cmap := rfl
@[simp] theorem State.updGroup_cfg (i : Nat) (f : Group → Group) : (s.updGroup i f).cfg = s.cfg := rfl
@[simp] theorem State.updGroup_cxl (i : Nat) (f : Group → Group) : (s.updGroup i f).cxl = s.cxl := rfl
@[simp] theorem State.updGroup_devState (i : Nat) (f : Group → Group) : (s.updGroup i f).devState = s.devState := rfl
@[simp] theorem State.updGroup_feed (i : Nat) (f : Group → Group) : (s.updGroup i f).feed = s.feed := rfl
@[simp] theorem State.updGroup_cloche (i : Nat) (f : Group → Group) : (s.updGroup i f).cloche = s.cloche := rfl
@[simp] theorem State.updGroup_sec (i : Nat) (f : Group → Group) : (s.updGroup i f).sec = s.sec := rfl
@[simp] theorem State.updGroup_fcl (i : Nat) (f : Group → Group) : (s.updGroup i f).fcl = s.fcl := rfl
@[simp] theorem State.updGroup_ckpt (i : Nat) (f : Group → Group) : (s.updGroup i f).ckpt = s.ckpt := rfl
@[simp] theorem State.updGroup_pwr (i : Nat) (f : Group → Group) : (s.updGroup i f).pwr = s.pwr := rfl
@[simp] theorem State.updGroup_boot (i : Nat) (f : Group → Group) : (s.updGroup i f).boot = s.boot := rfl
@[simp] theorem State.updGroup_bridge (i : Nat) (f : Group → Group) : (s.updGroup i f).bridge = s.bridge := rfl
@[simp] theorem State.updGroup_jtag (i : Nat) (f : Group → Group) : (s.updGroup i f).jtag = s.jtag := rfl
@[simp] theorem State.updGroup_group_self (i : Nat) (f : Group → Group) : (s.updGroup i f).group i = f (s.group i) := Tbl.getD_upd_self ..
@[simp] theorem State.updGroup_group_ne {i j : Nat} (f : Group → Group) (h : j ≠ i) : (s.updGroup i f).group j = s.group j := Tbl.getD_upd_ne _ _ _ _ h

/-! ## updReq -/

@[simp] theorem State.updReq_pending (i : Nat) (f : Req → Req) : (s.updReq i f).pending = s.pending := rfl
@[simp] theorem State.updReq_fresh (i : Nat) (f : Req → Req) : (s.updReq i f).fresh = s.fresh := rfl
@[simp] theorem State.updReq_ltu (i : Nat) (f : Req → Req) : (s.updReq i f).ltu = s.ltu := rfl
@[simp] theorem State.updReq_mem (i : Nat) (f : Req → Req) : (s.updReq i f).mem = s.mem := rfl
@[simp] theorem State.updReq_t3 (i : Nat) (f : Req → Req) : (s.updReq i f).t3 = s.t3 := rfl
@[simp] theorem State.updReq_hostMem (i : Nat) (f : Req → Req) : (s.updReq i f).hostMem = s.hostMem := rfl
@[simp] theorem State.updReq_dies (i : Nat) (f : Req → Req) : (s.updReq i f).dies = s.dies := rfl
@[simp] theorem State.updReq_trellis (i : Nat) (f : Req → Req) : (s.updReq i f).trellis = s.trellis := rfl
@[simp] theorem State.updReq_tiles (i : Nat) (f : Req → Req) : (s.updReq i f).tiles = s.tiles := rfl
@[simp] theorem State.updReq_atu (i : Nat) (f : Req → Req) : (s.updReq i f).atu = s.atu := rfl
@[simp] theorem State.updReq_chans (i : Nat) (f : Req → Req) : (s.updReq i f).chans = s.chans := rfl
@[simp] theorem State.updReq_dma (i : Nat) (f : Req → Req) : (s.updReq i f).dma = s.dma := rfl
@[simp] theorem State.updReq_lpc (i : Nat) (f : Req → Req) : (s.updReq i f).lpc = s.lpc := rfl
@[simp] theorem State.updReq_ftl (i : Nat) (f : Req → Req) : (s.updReq i f).ftl = s.ftl := rfl
@[simp] theorem State.updReq_comp (i : Nat) (f : Req → Req) : (s.updReq i f).comp = s.comp := rfl
@[simp] theorem State.updReq_sieve (i : Nat) (f : Req → Req) : (s.updReq i f).sieve = s.sieve := rfl
@[simp] theorem State.updReq_rings (i : Nat) (f : Req → Req) : (s.updReq i f).rings = s.rings := rfl
@[simp] theorem State.updReq_ringRegs (i : Nat) (f : Req → Req) : (s.updReq i f).ringRegs = s.ringRegs := rfl
@[simp] theorem State.updReq_tags (i : Nat) (f : Req → Req) : (s.updReq i f).tags = s.tags := rfl
@[simp] theorem State.updReq_groups (i : Nat) (f : Req → Req) : (s.updReq i f).groups = s.groups := rfl
@[simp] theorem State.updReq_cjournal (i : Nat) (f : Req → Req) : (s.updReq i f).cjournal = s.cjournal := rfl
@[simp] theorem State.updReq_reqRegs (i : Nat) (f : Req → Req) : (s.updReq i f).reqRegs = s.reqRegs := rfl
@[simp] theorem State.updReq_acct (i : Nat) (f : Req → Req) : (s.updReq i f).acct = s.acct := rfl
@[simp] theorem State.updReq_tenants (i : Nat) (f : Req → Req) : (s.updReq i f).tenants = s.tenants := rfl
@[simp] theorem State.updReq_slots (i : Nat) (f : Req → Req) : (s.updReq i f).slots = s.slots := rfl
@[simp] theorem State.updReq_holders (i : Nat) (f : Req → Req) : (s.updReq i f).holders = s.holders := rfl
@[simp] theorem State.updReq_pools (i : Nat) (f : Req → Req) : (s.updReq i f).pools = s.pools := rfl
@[simp] theorem State.updReq_lds (i : Nat) (f : Req → Req) : (s.updReq i f).lds = s.lds := rfl
@[simp] theorem State.updReq_fabricMb (i : Nat) (f : Req → Req) : (s.updReq i f).fabricMb = s.fabricMb := rfl
@[simp] theorem State.updReq_mbTurn (i : Nat) (f : Req → Req) : (s.updReq i f).mbTurn = s.mbTurn := rfl
@[simp] theorem State.updReq_fab (i : Nat) (f : Req → Req) : (s.updReq i f).fab = s.fab := rfl
@[simp] theorem State.updReq_cmap (i : Nat) (f : Req → Req) : (s.updReq i f).cmap = s.cmap := rfl
@[simp] theorem State.updReq_cfg (i : Nat) (f : Req → Req) : (s.updReq i f).cfg = s.cfg := rfl
@[simp] theorem State.updReq_cxl (i : Nat) (f : Req → Req) : (s.updReq i f).cxl = s.cxl := rfl
@[simp] theorem State.updReq_devState (i : Nat) (f : Req → Req) : (s.updReq i f).devState = s.devState := rfl
@[simp] theorem State.updReq_feed (i : Nat) (f : Req → Req) : (s.updReq i f).feed = s.feed := rfl
@[simp] theorem State.updReq_cloche (i : Nat) (f : Req → Req) : (s.updReq i f).cloche = s.cloche := rfl
@[simp] theorem State.updReq_sec (i : Nat) (f : Req → Req) : (s.updReq i f).sec = s.sec := rfl
@[simp] theorem State.updReq_fcl (i : Nat) (f : Req → Req) : (s.updReq i f).fcl = s.fcl := rfl
@[simp] theorem State.updReq_ckpt (i : Nat) (f : Req → Req) : (s.updReq i f).ckpt = s.ckpt := rfl
@[simp] theorem State.updReq_pwr (i : Nat) (f : Req → Req) : (s.updReq i f).pwr = s.pwr := rfl
@[simp] theorem State.updReq_boot (i : Nat) (f : Req → Req) : (s.updReq i f).boot = s.boot := rfl
@[simp] theorem State.updReq_bridge (i : Nat) (f : Req → Req) : (s.updReq i f).bridge = s.bridge := rfl
@[simp] theorem State.updReq_jtag (i : Nat) (f : Req → Req) : (s.updReq i f).jtag = s.jtag := rfl
@[simp] theorem State.updReq_req_self (i : Nat) (f : Req → Req) : (s.updReq i f).req i = f (s.req i) := Tbl.getD_upd_self ..
@[simp] theorem State.updReq_req_ne {i j : Nat} (f : Req → Req) (h : j ≠ i) : (s.updReq i f).req j = s.req j := Tbl.getD_upd_ne _ _ _ _ h

/-! ## updTenant -/

@[simp] theorem State.updTenant_pending (i : Nat) (f : Tenant → Tenant) : (s.updTenant i f).pending = s.pending := rfl
@[simp] theorem State.updTenant_fresh (i : Nat) (f : Tenant → Tenant) : (s.updTenant i f).fresh = s.fresh := rfl
@[simp] theorem State.updTenant_ltu (i : Nat) (f : Tenant → Tenant) : (s.updTenant i f).ltu = s.ltu := rfl
@[simp] theorem State.updTenant_mem (i : Nat) (f : Tenant → Tenant) : (s.updTenant i f).mem = s.mem := rfl
@[simp] theorem State.updTenant_t3 (i : Nat) (f : Tenant → Tenant) : (s.updTenant i f).t3 = s.t3 := rfl
@[simp] theorem State.updTenant_hostMem (i : Nat) (f : Tenant → Tenant) : (s.updTenant i f).hostMem = s.hostMem := rfl
@[simp] theorem State.updTenant_dies (i : Nat) (f : Tenant → Tenant) : (s.updTenant i f).dies = s.dies := rfl
@[simp] theorem State.updTenant_trellis (i : Nat) (f : Tenant → Tenant) : (s.updTenant i f).trellis = s.trellis := rfl
@[simp] theorem State.updTenant_tiles (i : Nat) (f : Tenant → Tenant) : (s.updTenant i f).tiles = s.tiles := rfl
@[simp] theorem State.updTenant_atu (i : Nat) (f : Tenant → Tenant) : (s.updTenant i f).atu = s.atu := rfl
@[simp] theorem State.updTenant_chans (i : Nat) (f : Tenant → Tenant) : (s.updTenant i f).chans = s.chans := rfl
@[simp] theorem State.updTenant_dma (i : Nat) (f : Tenant → Tenant) : (s.updTenant i f).dma = s.dma := rfl
@[simp] theorem State.updTenant_lpc (i : Nat) (f : Tenant → Tenant) : (s.updTenant i f).lpc = s.lpc := rfl
@[simp] theorem State.updTenant_ftl (i : Nat) (f : Tenant → Tenant) : (s.updTenant i f).ftl = s.ftl := rfl
@[simp] theorem State.updTenant_comp (i : Nat) (f : Tenant → Tenant) : (s.updTenant i f).comp = s.comp := rfl
@[simp] theorem State.updTenant_sieve (i : Nat) (f : Tenant → Tenant) : (s.updTenant i f).sieve = s.sieve := rfl
@[simp] theorem State.updTenant_rings (i : Nat) (f : Tenant → Tenant) : (s.updTenant i f).rings = s.rings := rfl
@[simp] theorem State.updTenant_ringRegs (i : Nat) (f : Tenant → Tenant) : (s.updTenant i f).ringRegs = s.ringRegs := rfl
@[simp] theorem State.updTenant_tags (i : Nat) (f : Tenant → Tenant) : (s.updTenant i f).tags = s.tags := rfl
@[simp] theorem State.updTenant_groups (i : Nat) (f : Tenant → Tenant) : (s.updTenant i f).groups = s.groups := rfl
@[simp] theorem State.updTenant_cjournal (i : Nat) (f : Tenant → Tenant) : (s.updTenant i f).cjournal = s.cjournal := rfl
@[simp] theorem State.updTenant_reqRegs (i : Nat) (f : Tenant → Tenant) : (s.updTenant i f).reqRegs = s.reqRegs := rfl
@[simp] theorem State.updTenant_acct (i : Nat) (f : Tenant → Tenant) : (s.updTenant i f).acct = s.acct := rfl
@[simp] theorem State.updTenant_reqs (i : Nat) (f : Tenant → Tenant) : (s.updTenant i f).reqs = s.reqs := rfl
@[simp] theorem State.updTenant_slots (i : Nat) (f : Tenant → Tenant) : (s.updTenant i f).slots = s.slots := rfl
@[simp] theorem State.updTenant_holders (i : Nat) (f : Tenant → Tenant) : (s.updTenant i f).holders = s.holders := rfl
@[simp] theorem State.updTenant_pools (i : Nat) (f : Tenant → Tenant) : (s.updTenant i f).pools = s.pools := rfl
@[simp] theorem State.updTenant_lds (i : Nat) (f : Tenant → Tenant) : (s.updTenant i f).lds = s.lds := rfl
@[simp] theorem State.updTenant_fabricMb (i : Nat) (f : Tenant → Tenant) : (s.updTenant i f).fabricMb = s.fabricMb := rfl
@[simp] theorem State.updTenant_mbTurn (i : Nat) (f : Tenant → Tenant) : (s.updTenant i f).mbTurn = s.mbTurn := rfl
@[simp] theorem State.updTenant_fab (i : Nat) (f : Tenant → Tenant) : (s.updTenant i f).fab = s.fab := rfl
@[simp] theorem State.updTenant_cmap (i : Nat) (f : Tenant → Tenant) : (s.updTenant i f).cmap = s.cmap := rfl
@[simp] theorem State.updTenant_cfg (i : Nat) (f : Tenant → Tenant) : (s.updTenant i f).cfg = s.cfg := rfl
@[simp] theorem State.updTenant_cxl (i : Nat) (f : Tenant → Tenant) : (s.updTenant i f).cxl = s.cxl := rfl
@[simp] theorem State.updTenant_devState (i : Nat) (f : Tenant → Tenant) : (s.updTenant i f).devState = s.devState := rfl
@[simp] theorem State.updTenant_feed (i : Nat) (f : Tenant → Tenant) : (s.updTenant i f).feed = s.feed := rfl
@[simp] theorem State.updTenant_cloche (i : Nat) (f : Tenant → Tenant) : (s.updTenant i f).cloche = s.cloche := rfl
@[simp] theorem State.updTenant_sec (i : Nat) (f : Tenant → Tenant) : (s.updTenant i f).sec = s.sec := rfl
@[simp] theorem State.updTenant_fcl (i : Nat) (f : Tenant → Tenant) : (s.updTenant i f).fcl = s.fcl := rfl
@[simp] theorem State.updTenant_ckpt (i : Nat) (f : Tenant → Tenant) : (s.updTenant i f).ckpt = s.ckpt := rfl
@[simp] theorem State.updTenant_pwr (i : Nat) (f : Tenant → Tenant) : (s.updTenant i f).pwr = s.pwr := rfl
@[simp] theorem State.updTenant_boot (i : Nat) (f : Tenant → Tenant) : (s.updTenant i f).boot = s.boot := rfl
@[simp] theorem State.updTenant_bridge (i : Nat) (f : Tenant → Tenant) : (s.updTenant i f).bridge = s.bridge := rfl
@[simp] theorem State.updTenant_jtag (i : Nat) (f : Tenant → Tenant) : (s.updTenant i f).jtag = s.jtag := rfl
@[simp] theorem State.updTenant_tenant_self (i : Nat) (f : Tenant → Tenant) : (s.updTenant i f).tenant i = f (s.tenant i) := Tbl.getD_upd_self ..
@[simp] theorem State.updTenant_tenant_ne {i j : Nat} (f : Tenant → Tenant) (h : j ≠ i) : (s.updTenant i f).tenant j = s.tenant j := Tbl.getD_upd_ne _ _ _ _ h

/-! ## updSlot -/

@[simp] theorem State.updSlot_pending (i : Nat) (f : Slot → Slot) : (s.updSlot i f).pending = s.pending := rfl
@[simp] theorem State.updSlot_fresh (i : Nat) (f : Slot → Slot) : (s.updSlot i f).fresh = s.fresh := rfl
@[simp] theorem State.updSlot_ltu (i : Nat) (f : Slot → Slot) : (s.updSlot i f).ltu = s.ltu := rfl
@[simp] theorem State.updSlot_mem (i : Nat) (f : Slot → Slot) : (s.updSlot i f).mem = s.mem := rfl
@[simp] theorem State.updSlot_t3 (i : Nat) (f : Slot → Slot) : (s.updSlot i f).t3 = s.t3 := rfl
@[simp] theorem State.updSlot_hostMem (i : Nat) (f : Slot → Slot) : (s.updSlot i f).hostMem = s.hostMem := rfl
@[simp] theorem State.updSlot_dies (i : Nat) (f : Slot → Slot) : (s.updSlot i f).dies = s.dies := rfl
@[simp] theorem State.updSlot_trellis (i : Nat) (f : Slot → Slot) : (s.updSlot i f).trellis = s.trellis := rfl
@[simp] theorem State.updSlot_tiles (i : Nat) (f : Slot → Slot) : (s.updSlot i f).tiles = s.tiles := rfl
@[simp] theorem State.updSlot_atu (i : Nat) (f : Slot → Slot) : (s.updSlot i f).atu = s.atu := rfl
@[simp] theorem State.updSlot_chans (i : Nat) (f : Slot → Slot) : (s.updSlot i f).chans = s.chans := rfl
@[simp] theorem State.updSlot_dma (i : Nat) (f : Slot → Slot) : (s.updSlot i f).dma = s.dma := rfl
@[simp] theorem State.updSlot_lpc (i : Nat) (f : Slot → Slot) : (s.updSlot i f).lpc = s.lpc := rfl
@[simp] theorem State.updSlot_ftl (i : Nat) (f : Slot → Slot) : (s.updSlot i f).ftl = s.ftl := rfl
@[simp] theorem State.updSlot_comp (i : Nat) (f : Slot → Slot) : (s.updSlot i f).comp = s.comp := rfl
@[simp] theorem State.updSlot_sieve (i : Nat) (f : Slot → Slot) : (s.updSlot i f).sieve = s.sieve := rfl
@[simp] theorem State.updSlot_rings (i : Nat) (f : Slot → Slot) : (s.updSlot i f).rings = s.rings := rfl
@[simp] theorem State.updSlot_ringRegs (i : Nat) (f : Slot → Slot) : (s.updSlot i f).ringRegs = s.ringRegs := rfl
@[simp] theorem State.updSlot_tags (i : Nat) (f : Slot → Slot) : (s.updSlot i f).tags = s.tags := rfl
@[simp] theorem State.updSlot_groups (i : Nat) (f : Slot → Slot) : (s.updSlot i f).groups = s.groups := rfl
@[simp] theorem State.updSlot_cjournal (i : Nat) (f : Slot → Slot) : (s.updSlot i f).cjournal = s.cjournal := rfl
@[simp] theorem State.updSlot_reqRegs (i : Nat) (f : Slot → Slot) : (s.updSlot i f).reqRegs = s.reqRegs := rfl
@[simp] theorem State.updSlot_acct (i : Nat) (f : Slot → Slot) : (s.updSlot i f).acct = s.acct := rfl
@[simp] theorem State.updSlot_reqs (i : Nat) (f : Slot → Slot) : (s.updSlot i f).reqs = s.reqs := rfl
@[simp] theorem State.updSlot_tenants (i : Nat) (f : Slot → Slot) : (s.updSlot i f).tenants = s.tenants := rfl
@[simp] theorem State.updSlot_holders (i : Nat) (f : Slot → Slot) : (s.updSlot i f).holders = s.holders := rfl
@[simp] theorem State.updSlot_pools (i : Nat) (f : Slot → Slot) : (s.updSlot i f).pools = s.pools := rfl
@[simp] theorem State.updSlot_lds (i : Nat) (f : Slot → Slot) : (s.updSlot i f).lds = s.lds := rfl
@[simp] theorem State.updSlot_fabricMb (i : Nat) (f : Slot → Slot) : (s.updSlot i f).fabricMb = s.fabricMb := rfl
@[simp] theorem State.updSlot_mbTurn (i : Nat) (f : Slot → Slot) : (s.updSlot i f).mbTurn = s.mbTurn := rfl
@[simp] theorem State.updSlot_fab (i : Nat) (f : Slot → Slot) : (s.updSlot i f).fab = s.fab := rfl
@[simp] theorem State.updSlot_cmap (i : Nat) (f : Slot → Slot) : (s.updSlot i f).cmap = s.cmap := rfl
@[simp] theorem State.updSlot_cfg (i : Nat) (f : Slot → Slot) : (s.updSlot i f).cfg = s.cfg := rfl
@[simp] theorem State.updSlot_cxl (i : Nat) (f : Slot → Slot) : (s.updSlot i f).cxl = s.cxl := rfl
@[simp] theorem State.updSlot_devState (i : Nat) (f : Slot → Slot) : (s.updSlot i f).devState = s.devState := rfl
@[simp] theorem State.updSlot_feed (i : Nat) (f : Slot → Slot) : (s.updSlot i f).feed = s.feed := rfl
@[simp] theorem State.updSlot_cloche (i : Nat) (f : Slot → Slot) : (s.updSlot i f).cloche = s.cloche := rfl
@[simp] theorem State.updSlot_sec (i : Nat) (f : Slot → Slot) : (s.updSlot i f).sec = s.sec := rfl
@[simp] theorem State.updSlot_fcl (i : Nat) (f : Slot → Slot) : (s.updSlot i f).fcl = s.fcl := rfl
@[simp] theorem State.updSlot_ckpt (i : Nat) (f : Slot → Slot) : (s.updSlot i f).ckpt = s.ckpt := rfl
@[simp] theorem State.updSlot_pwr (i : Nat) (f : Slot → Slot) : (s.updSlot i f).pwr = s.pwr := rfl
@[simp] theorem State.updSlot_boot (i : Nat) (f : Slot → Slot) : (s.updSlot i f).boot = s.boot := rfl
@[simp] theorem State.updSlot_bridge (i : Nat) (f : Slot → Slot) : (s.updSlot i f).bridge = s.bridge := rfl
@[simp] theorem State.updSlot_jtag (i : Nat) (f : Slot → Slot) : (s.updSlot i f).jtag = s.jtag := rfl
@[simp] theorem State.updSlot_slot_self (i : Nat) (f : Slot → Slot) : (s.updSlot i f).slot i = f (s.slot i) := Tbl.getD_upd_self ..
@[simp] theorem State.updSlot_slot_ne {i j : Nat} (f : Slot → Slot) (h : j ≠ i) : (s.updSlot i f).slot j = s.slot j := Tbl.getD_upd_ne _ _ _ _ h

/-! ## updLd -/

@[simp] theorem State.updLd_pending (i : Nat) (f : LDev → LDev) : (s.updLd i f).pending = s.pending := rfl
@[simp] theorem State.updLd_fresh (i : Nat) (f : LDev → LDev) : (s.updLd i f).fresh = s.fresh := rfl
@[simp] theorem State.updLd_ltu (i : Nat) (f : LDev → LDev) : (s.updLd i f).ltu = s.ltu := rfl
@[simp] theorem State.updLd_mem (i : Nat) (f : LDev → LDev) : (s.updLd i f).mem = s.mem := rfl
@[simp] theorem State.updLd_t3 (i : Nat) (f : LDev → LDev) : (s.updLd i f).t3 = s.t3 := rfl
@[simp] theorem State.updLd_hostMem (i : Nat) (f : LDev → LDev) : (s.updLd i f).hostMem = s.hostMem := rfl
@[simp] theorem State.updLd_dies (i : Nat) (f : LDev → LDev) : (s.updLd i f).dies = s.dies := rfl
@[simp] theorem State.updLd_trellis (i : Nat) (f : LDev → LDev) : (s.updLd i f).trellis = s.trellis := rfl
@[simp] theorem State.updLd_tiles (i : Nat) (f : LDev → LDev) : (s.updLd i f).tiles = s.tiles := rfl
@[simp] theorem State.updLd_atu (i : Nat) (f : LDev → LDev) : (s.updLd i f).atu = s.atu := rfl
@[simp] theorem State.updLd_chans (i : Nat) (f : LDev → LDev) : (s.updLd i f).chans = s.chans := rfl
@[simp] theorem State.updLd_dma (i : Nat) (f : LDev → LDev) : (s.updLd i f).dma = s.dma := rfl
@[simp] theorem State.updLd_lpc (i : Nat) (f : LDev → LDev) : (s.updLd i f).lpc = s.lpc := rfl
@[simp] theorem State.updLd_ftl (i : Nat) (f : LDev → LDev) : (s.updLd i f).ftl = s.ftl := rfl
@[simp] theorem State.updLd_comp (i : Nat) (f : LDev → LDev) : (s.updLd i f).comp = s.comp := rfl
@[simp] theorem State.updLd_sieve (i : Nat) (f : LDev → LDev) : (s.updLd i f).sieve = s.sieve := rfl
@[simp] theorem State.updLd_rings (i : Nat) (f : LDev → LDev) : (s.updLd i f).rings = s.rings := rfl
@[simp] theorem State.updLd_ringRegs (i : Nat) (f : LDev → LDev) : (s.updLd i f).ringRegs = s.ringRegs := rfl
@[simp] theorem State.updLd_tags (i : Nat) (f : LDev → LDev) : (s.updLd i f).tags = s.tags := rfl
@[simp] theorem State.updLd_groups (i : Nat) (f : LDev → LDev) : (s.updLd i f).groups = s.groups := rfl
@[simp] theorem State.updLd_cjournal (i : Nat) (f : LDev → LDev) : (s.updLd i f).cjournal = s.cjournal := rfl
@[simp] theorem State.updLd_reqRegs (i : Nat) (f : LDev → LDev) : (s.updLd i f).reqRegs = s.reqRegs := rfl
@[simp] theorem State.updLd_acct (i : Nat) (f : LDev → LDev) : (s.updLd i f).acct = s.acct := rfl
@[simp] theorem State.updLd_reqs (i : Nat) (f : LDev → LDev) : (s.updLd i f).reqs = s.reqs := rfl
@[simp] theorem State.updLd_tenants (i : Nat) (f : LDev → LDev) : (s.updLd i f).tenants = s.tenants := rfl
@[simp] theorem State.updLd_slots (i : Nat) (f : LDev → LDev) : (s.updLd i f).slots = s.slots := rfl
@[simp] theorem State.updLd_holders (i : Nat) (f : LDev → LDev) : (s.updLd i f).holders = s.holders := rfl
@[simp] theorem State.updLd_pools (i : Nat) (f : LDev → LDev) : (s.updLd i f).pools = s.pools := rfl
@[simp] theorem State.updLd_fabricMb (i : Nat) (f : LDev → LDev) : (s.updLd i f).fabricMb = s.fabricMb := rfl
@[simp] theorem State.updLd_mbTurn (i : Nat) (f : LDev → LDev) : (s.updLd i f).mbTurn = s.mbTurn := rfl
@[simp] theorem State.updLd_fab (i : Nat) (f : LDev → LDev) : (s.updLd i f).fab = s.fab := rfl
@[simp] theorem State.updLd_cmap (i : Nat) (f : LDev → LDev) : (s.updLd i f).cmap = s.cmap := rfl
@[simp] theorem State.updLd_cfg (i : Nat) (f : LDev → LDev) : (s.updLd i f).cfg = s.cfg := rfl
@[simp] theorem State.updLd_cxl (i : Nat) (f : LDev → LDev) : (s.updLd i f).cxl = s.cxl := rfl
@[simp] theorem State.updLd_devState (i : Nat) (f : LDev → LDev) : (s.updLd i f).devState = s.devState := rfl
@[simp] theorem State.updLd_feed (i : Nat) (f : LDev → LDev) : (s.updLd i f).feed = s.feed := rfl
@[simp] theorem State.updLd_cloche (i : Nat) (f : LDev → LDev) : (s.updLd i f).cloche = s.cloche := rfl
@[simp] theorem State.updLd_sec (i : Nat) (f : LDev → LDev) : (s.updLd i f).sec = s.sec := rfl
@[simp] theorem State.updLd_fcl (i : Nat) (f : LDev → LDev) : (s.updLd i f).fcl = s.fcl := rfl
@[simp] theorem State.updLd_ckpt (i : Nat) (f : LDev → LDev) : (s.updLd i f).ckpt = s.ckpt := rfl
@[simp] theorem State.updLd_pwr (i : Nat) (f : LDev → LDev) : (s.updLd i f).pwr = s.pwr := rfl
@[simp] theorem State.updLd_boot (i : Nat) (f : LDev → LDev) : (s.updLd i f).boot = s.boot := rfl
@[simp] theorem State.updLd_bridge (i : Nat) (f : LDev → LDev) : (s.updLd i f).bridge = s.bridge := rfl
@[simp] theorem State.updLd_jtag (i : Nat) (f : LDev → LDev) : (s.updLd i f).jtag = s.jtag := rfl
@[simp] theorem State.updLd_ld_self (i : Nat) (f : LDev → LDev) : (s.updLd i f).ld i = f (s.ld i) := Tbl.getD_upd_self ..
@[simp] theorem State.updLd_ld_ne {i j : Nat} (f : LDev → LDev) (h : j ≠ i) : (s.updLd i f).ld j = s.ld j := Tbl.getD_upd_ne _ _ _ _ h

/-! ## updAcct -/

@[simp] theorem State.updAcct_pending (i : Nat) (f : Acct → Acct) : (s.updAcct i f).pending = s.pending := rfl
@[simp] theorem State.updAcct_fresh (i : Nat) (f : Acct → Acct) : (s.updAcct i f).fresh = s.fresh := rfl
@[simp] theorem State.updAcct_ltu (i : Nat) (f : Acct → Acct) : (s.updAcct i f).ltu = s.ltu := rfl
@[simp] theorem State.updAcct_mem (i : Nat) (f : Acct → Acct) : (s.updAcct i f).mem = s.mem := rfl
@[simp] theorem State.updAcct_t3 (i : Nat) (f : Acct → Acct) : (s.updAcct i f).t3 = s.t3 := rfl
@[simp] theorem State.updAcct_hostMem (i : Nat) (f : Acct → Acct) : (s.updAcct i f).hostMem = s.hostMem := rfl
@[simp] theorem State.updAcct_dies (i : Nat) (f : Acct → Acct) : (s.updAcct i f).dies = s.dies := rfl
@[simp] theorem State.updAcct_trellis (i : Nat) (f : Acct → Acct) : (s.updAcct i f).trellis = s.trellis := rfl
@[simp] theorem State.updAcct_tiles (i : Nat) (f : Acct → Acct) : (s.updAcct i f).tiles = s.tiles := rfl
@[simp] theorem State.updAcct_atu (i : Nat) (f : Acct → Acct) : (s.updAcct i f).atu = s.atu := rfl
@[simp] theorem State.updAcct_chans (i : Nat) (f : Acct → Acct) : (s.updAcct i f).chans = s.chans := rfl
@[simp] theorem State.updAcct_dma (i : Nat) (f : Acct → Acct) : (s.updAcct i f).dma = s.dma := rfl
@[simp] theorem State.updAcct_lpc (i : Nat) (f : Acct → Acct) : (s.updAcct i f).lpc = s.lpc := rfl
@[simp] theorem State.updAcct_ftl (i : Nat) (f : Acct → Acct) : (s.updAcct i f).ftl = s.ftl := rfl
@[simp] theorem State.updAcct_comp (i : Nat) (f : Acct → Acct) : (s.updAcct i f).comp = s.comp := rfl
@[simp] theorem State.updAcct_sieve (i : Nat) (f : Acct → Acct) : (s.updAcct i f).sieve = s.sieve := rfl
@[simp] theorem State.updAcct_rings (i : Nat) (f : Acct → Acct) : (s.updAcct i f).rings = s.rings := rfl
@[simp] theorem State.updAcct_ringRegs (i : Nat) (f : Acct → Acct) : (s.updAcct i f).ringRegs = s.ringRegs := rfl
@[simp] theorem State.updAcct_tags (i : Nat) (f : Acct → Acct) : (s.updAcct i f).tags = s.tags := rfl
@[simp] theorem State.updAcct_groups (i : Nat) (f : Acct → Acct) : (s.updAcct i f).groups = s.groups := rfl
@[simp] theorem State.updAcct_cjournal (i : Nat) (f : Acct → Acct) : (s.updAcct i f).cjournal = s.cjournal := rfl
@[simp] theorem State.updAcct_reqRegs (i : Nat) (f : Acct → Acct) : (s.updAcct i f).reqRegs = s.reqRegs := rfl
@[simp] theorem State.updAcct_reqs (i : Nat) (f : Acct → Acct) : (s.updAcct i f).reqs = s.reqs := rfl
@[simp] theorem State.updAcct_tenants (i : Nat) (f : Acct → Acct) : (s.updAcct i f).tenants = s.tenants := rfl
@[simp] theorem State.updAcct_slots (i : Nat) (f : Acct → Acct) : (s.updAcct i f).slots = s.slots := rfl
@[simp] theorem State.updAcct_holders (i : Nat) (f : Acct → Acct) : (s.updAcct i f).holders = s.holders := rfl
@[simp] theorem State.updAcct_pools (i : Nat) (f : Acct → Acct) : (s.updAcct i f).pools = s.pools := rfl
@[simp] theorem State.updAcct_lds (i : Nat) (f : Acct → Acct) : (s.updAcct i f).lds = s.lds := rfl
@[simp] theorem State.updAcct_fabricMb (i : Nat) (f : Acct → Acct) : (s.updAcct i f).fabricMb = s.fabricMb := rfl
@[simp] theorem State.updAcct_mbTurn (i : Nat) (f : Acct → Acct) : (s.updAcct i f).mbTurn = s.mbTurn := rfl
@[simp] theorem State.updAcct_fab (i : Nat) (f : Acct → Acct) : (s.updAcct i f).fab = s.fab := rfl
@[simp] theorem State.updAcct_cmap (i : Nat) (f : Acct → Acct) : (s.updAcct i f).cmap = s.cmap := rfl
@[simp] theorem State.updAcct_cfg (i : Nat) (f : Acct → Acct) : (s.updAcct i f).cfg = s.cfg := rfl
@[simp] theorem State.updAcct_cxl (i : Nat) (f : Acct → Acct) : (s.updAcct i f).cxl = s.cxl := rfl
@[simp] theorem State.updAcct_devState (i : Nat) (f : Acct → Acct) : (s.updAcct i f).devState = s.devState := rfl
@[simp] theorem State.updAcct_feed (i : Nat) (f : Acct → Acct) : (s.updAcct i f).feed = s.feed := rfl
@[simp] theorem State.updAcct_cloche (i : Nat) (f : Acct → Acct) : (s.updAcct i f).cloche = s.cloche := rfl
@[simp] theorem State.updAcct_sec (i : Nat) (f : Acct → Acct) : (s.updAcct i f).sec = s.sec := rfl
@[simp] theorem State.updAcct_fcl (i : Nat) (f : Acct → Acct) : (s.updAcct i f).fcl = s.fcl := rfl
@[simp] theorem State.updAcct_ckpt (i : Nat) (f : Acct → Acct) : (s.updAcct i f).ckpt = s.ckpt := rfl
@[simp] theorem State.updAcct_pwr (i : Nat) (f : Acct → Acct) : (s.updAcct i f).pwr = s.pwr := rfl
@[simp] theorem State.updAcct_boot (i : Nat) (f : Acct → Acct) : (s.updAcct i f).boot = s.boot := rfl
@[simp] theorem State.updAcct_bridge (i : Nat) (f : Acct → Acct) : (s.updAcct i f).bridge = s.bridge := rfl
@[simp] theorem State.updAcct_jtag (i : Nat) (f : Acct → Acct) : (s.updAcct i f).jtag = s.jtag := rfl
@[simp] theorem State.updAcct_acctOf_self (i : Nat) (f : Acct → Acct) : (s.updAcct i f).acctOf i = f (s.acctOf i) := Tbl.getD_upd_self ..
@[simp] theorem State.updAcct_acctOf_ne {i j : Nat} (f : Acct → Acct) (h : j ≠ i) : (s.updAcct i f).acctOf j = s.acctOf j := Tbl.getD_upd_ne _ _ _ _ h

/-! ## updSlice -/

@[simp] theorem State.updSlice_pending (i : Nat) (f : AtuSlice → AtuSlice) : (s.updSlice i f).pending = s.pending := rfl
@[simp] theorem State.updSlice_fresh (i : Nat) (f : AtuSlice → AtuSlice) : (s.updSlice i f).fresh = s.fresh := rfl
@[simp] theorem State.updSlice_ltu (i : Nat) (f : AtuSlice → AtuSlice) : (s.updSlice i f).ltu = s.ltu := rfl
@[simp] theorem State.updSlice_mem (i : Nat) (f : AtuSlice → AtuSlice) : (s.updSlice i f).mem = s.mem := rfl
@[simp] theorem State.updSlice_t3 (i : Nat) (f : AtuSlice → AtuSlice) : (s.updSlice i f).t3 = s.t3 := rfl
@[simp] theorem State.updSlice_hostMem (i : Nat) (f : AtuSlice → AtuSlice) : (s.updSlice i f).hostMem = s.hostMem := rfl
@[simp] theorem State.updSlice_dies (i : Nat) (f : AtuSlice → AtuSlice) : (s.updSlice i f).dies = s.dies := rfl
@[simp] theorem State.updSlice_trellis (i : Nat) (f : AtuSlice → AtuSlice) : (s.updSlice i f).trellis = s.trellis := rfl
@[simp] theorem State.updSlice_tiles (i : Nat) (f : AtuSlice → AtuSlice) : (s.updSlice i f).tiles = s.tiles := rfl
@[simp] theorem State.updSlice_chans (i : Nat) (f : AtuSlice → AtuSlice) : (s.updSlice i f).chans = s.chans := rfl
@[simp] theorem State.updSlice_dma (i : Nat) (f : AtuSlice → AtuSlice) : (s.updSlice i f).dma = s.dma := rfl
@[simp] theorem State.updSlice_lpc (i : Nat) (f : AtuSlice → AtuSlice) : (s.updSlice i f).lpc = s.lpc := rfl
@[simp] theorem State.updSlice_ftl (i : Nat) (f : AtuSlice → AtuSlice) : (s.updSlice i f).ftl = s.ftl := rfl
@[simp] theorem State.updSlice_comp (i : Nat) (f : AtuSlice → AtuSlice) : (s.updSlice i f).comp = s.comp := rfl
@[simp] theorem State.updSlice_sieve (i : Nat) (f : AtuSlice → AtuSlice) : (s.updSlice i f).sieve = s.sieve := rfl
@[simp] theorem State.updSlice_rings (i : Nat) (f : AtuSlice → AtuSlice) : (s.updSlice i f).rings = s.rings := rfl
@[simp] theorem State.updSlice_ringRegs (i : Nat) (f : AtuSlice → AtuSlice) : (s.updSlice i f).ringRegs = s.ringRegs := rfl
@[simp] theorem State.updSlice_tags (i : Nat) (f : AtuSlice → AtuSlice) : (s.updSlice i f).tags = s.tags := rfl
@[simp] theorem State.updSlice_groups (i : Nat) (f : AtuSlice → AtuSlice) : (s.updSlice i f).groups = s.groups := rfl
@[simp] theorem State.updSlice_cjournal (i : Nat) (f : AtuSlice → AtuSlice) : (s.updSlice i f).cjournal = s.cjournal := rfl
@[simp] theorem State.updSlice_reqRegs (i : Nat) (f : AtuSlice → AtuSlice) : (s.updSlice i f).reqRegs = s.reqRegs := rfl
@[simp] theorem State.updSlice_acct (i : Nat) (f : AtuSlice → AtuSlice) : (s.updSlice i f).acct = s.acct := rfl
@[simp] theorem State.updSlice_reqs (i : Nat) (f : AtuSlice → AtuSlice) : (s.updSlice i f).reqs = s.reqs := rfl
@[simp] theorem State.updSlice_tenants (i : Nat) (f : AtuSlice → AtuSlice) : (s.updSlice i f).tenants = s.tenants := rfl
@[simp] theorem State.updSlice_slots (i : Nat) (f : AtuSlice → AtuSlice) : (s.updSlice i f).slots = s.slots := rfl
@[simp] theorem State.updSlice_holders (i : Nat) (f : AtuSlice → AtuSlice) : (s.updSlice i f).holders = s.holders := rfl
@[simp] theorem State.updSlice_pools (i : Nat) (f : AtuSlice → AtuSlice) : (s.updSlice i f).pools = s.pools := rfl
@[simp] theorem State.updSlice_lds (i : Nat) (f : AtuSlice → AtuSlice) : (s.updSlice i f).lds = s.lds := rfl
@[simp] theorem State.updSlice_fabricMb (i : Nat) (f : AtuSlice → AtuSlice) : (s.updSlice i f).fabricMb = s.fabricMb := rfl
@[simp] theorem State.updSlice_mbTurn (i : Nat) (f : AtuSlice → AtuSlice) : (s.updSlice i f).mbTurn = s.mbTurn := rfl
@[simp] theorem State.updSlice_fab (i : Nat) (f : AtuSlice → AtuSlice) : (s.updSlice i f).fab = s.fab := rfl
@[simp] theorem State.updSlice_cmap (i : Nat) (f : AtuSlice → AtuSlice) : (s.updSlice i f).cmap = s.cmap := rfl
@[simp] theorem State.updSlice_cfg (i : Nat) (f : AtuSlice → AtuSlice) : (s.updSlice i f).cfg = s.cfg := rfl
@[simp] theorem State.updSlice_cxl (i : Nat) (f : AtuSlice → AtuSlice) : (s.updSlice i f).cxl = s.cxl := rfl
@[simp] theorem State.updSlice_devState (i : Nat) (f : AtuSlice → AtuSlice) : (s.updSlice i f).devState = s.devState := rfl
@[simp] theorem State.updSlice_feed (i : Nat) (f : AtuSlice → AtuSlice) : (s.updSlice i f).feed = s.feed := rfl
@[simp] theorem State.updSlice_cloche (i : Nat) (f : AtuSlice → AtuSlice) : (s.updSlice i f).cloche = s.cloche := rfl
@[simp] theorem State.updSlice_sec (i : Nat) (f : AtuSlice → AtuSlice) : (s.updSlice i f).sec = s.sec := rfl
@[simp] theorem State.updSlice_fcl (i : Nat) (f : AtuSlice → AtuSlice) : (s.updSlice i f).fcl = s.fcl := rfl
@[simp] theorem State.updSlice_ckpt (i : Nat) (f : AtuSlice → AtuSlice) : (s.updSlice i f).ckpt = s.ckpt := rfl
@[simp] theorem State.updSlice_pwr (i : Nat) (f : AtuSlice → AtuSlice) : (s.updSlice i f).pwr = s.pwr := rfl
@[simp] theorem State.updSlice_boot (i : Nat) (f : AtuSlice → AtuSlice) : (s.updSlice i f).boot = s.boot := rfl
@[simp] theorem State.updSlice_bridge (i : Nat) (f : AtuSlice → AtuSlice) : (s.updSlice i f).bridge = s.bridge := rfl
@[simp] theorem State.updSlice_jtag (i : Nat) (f : AtuSlice → AtuSlice) : (s.updSlice i f).jtag = s.jtag := rfl
@[simp] theorem State.updSlice_slice_self (i : Nat) (f : AtuSlice → AtuSlice) : (s.updSlice i f).slice i = f (s.slice i) := Tbl.getD_upd_self ..
@[simp] theorem State.updSlice_slice_ne {i j : Nat} (f : AtuSlice → AtuSlice) (h : j ≠ i) : (s.updSlice i f).slice j = s.slice j := Tbl.getD_upd_ne _ _ _ _ h

/-! ## updTpwr -/

@[simp] theorem State.updTpwr_pending (i : Nat) (f : TilePwr → TilePwr) : (s.updTpwr i f).pending = s.pending := rfl
@[simp] theorem State.updTpwr_fresh (i : Nat) (f : TilePwr → TilePwr) : (s.updTpwr i f).fresh = s.fresh := rfl
@[simp] theorem State.updTpwr_ltu (i : Nat) (f : TilePwr → TilePwr) : (s.updTpwr i f).ltu = s.ltu := rfl
@[simp] theorem State.updTpwr_mem (i : Nat) (f : TilePwr → TilePwr) : (s.updTpwr i f).mem = s.mem := rfl
@[simp] theorem State.updTpwr_t3 (i : Nat) (f : TilePwr → TilePwr) : (s.updTpwr i f).t3 = s.t3 := rfl
@[simp] theorem State.updTpwr_hostMem (i : Nat) (f : TilePwr → TilePwr) : (s.updTpwr i f).hostMem = s.hostMem := rfl
@[simp] theorem State.updTpwr_dies (i : Nat) (f : TilePwr → TilePwr) : (s.updTpwr i f).dies = s.dies := rfl
@[simp] theorem State.updTpwr_trellis (i : Nat) (f : TilePwr → TilePwr) : (s.updTpwr i f).trellis = s.trellis := rfl
@[simp] theorem State.updTpwr_tiles (i : Nat) (f : TilePwr → TilePwr) : (s.updTpwr i f).tiles = s.tiles := rfl
@[simp] theorem State.updTpwr_atu (i : Nat) (f : TilePwr → TilePwr) : (s.updTpwr i f).atu = s.atu := rfl
@[simp] theorem State.updTpwr_chans (i : Nat) (f : TilePwr → TilePwr) : (s.updTpwr i f).chans = s.chans := rfl
@[simp] theorem State.updTpwr_dma (i : Nat) (f : TilePwr → TilePwr) : (s.updTpwr i f).dma = s.dma := rfl
@[simp] theorem State.updTpwr_lpc (i : Nat) (f : TilePwr → TilePwr) : (s.updTpwr i f).lpc = s.lpc := rfl
@[simp] theorem State.updTpwr_ftl (i : Nat) (f : TilePwr → TilePwr) : (s.updTpwr i f).ftl = s.ftl := rfl
@[simp] theorem State.updTpwr_comp (i : Nat) (f : TilePwr → TilePwr) : (s.updTpwr i f).comp = s.comp := rfl
@[simp] theorem State.updTpwr_sieve (i : Nat) (f : TilePwr → TilePwr) : (s.updTpwr i f).sieve = s.sieve := rfl
@[simp] theorem State.updTpwr_rings (i : Nat) (f : TilePwr → TilePwr) : (s.updTpwr i f).rings = s.rings := rfl
@[simp] theorem State.updTpwr_ringRegs (i : Nat) (f : TilePwr → TilePwr) : (s.updTpwr i f).ringRegs = s.ringRegs := rfl
@[simp] theorem State.updTpwr_tags (i : Nat) (f : TilePwr → TilePwr) : (s.updTpwr i f).tags = s.tags := rfl
@[simp] theorem State.updTpwr_groups (i : Nat) (f : TilePwr → TilePwr) : (s.updTpwr i f).groups = s.groups := rfl
@[simp] theorem State.updTpwr_cjournal (i : Nat) (f : TilePwr → TilePwr) : (s.updTpwr i f).cjournal = s.cjournal := rfl
@[simp] theorem State.updTpwr_reqRegs (i : Nat) (f : TilePwr → TilePwr) : (s.updTpwr i f).reqRegs = s.reqRegs := rfl
@[simp] theorem State.updTpwr_acct (i : Nat) (f : TilePwr → TilePwr) : (s.updTpwr i f).acct = s.acct := rfl
@[simp] theorem State.updTpwr_reqs (i : Nat) (f : TilePwr → TilePwr) : (s.updTpwr i f).reqs = s.reqs := rfl
@[simp] theorem State.updTpwr_tenants (i : Nat) (f : TilePwr → TilePwr) : (s.updTpwr i f).tenants = s.tenants := rfl
@[simp] theorem State.updTpwr_slots (i : Nat) (f : TilePwr → TilePwr) : (s.updTpwr i f).slots = s.slots := rfl
@[simp] theorem State.updTpwr_holders (i : Nat) (f : TilePwr → TilePwr) : (s.updTpwr i f).holders = s.holders := rfl
@[simp] theorem State.updTpwr_pools (i : Nat) (f : TilePwr → TilePwr) : (s.updTpwr i f).pools = s.pools := rfl
@[simp] theorem State.updTpwr_lds (i : Nat) (f : TilePwr → TilePwr) : (s.updTpwr i f).lds = s.lds := rfl
@[simp] theorem State.updTpwr_fabricMb (i : Nat) (f : TilePwr → TilePwr) : (s.updTpwr i f).fabricMb = s.fabricMb := rfl
@[simp] theorem State.updTpwr_mbTurn (i : Nat) (f : TilePwr → TilePwr) : (s.updTpwr i f).mbTurn = s.mbTurn := rfl
@[simp] theorem State.updTpwr_fab (i : Nat) (f : TilePwr → TilePwr) : (s.updTpwr i f).fab = s.fab := rfl
@[simp] theorem State.updTpwr_cmap (i : Nat) (f : TilePwr → TilePwr) : (s.updTpwr i f).cmap = s.cmap := rfl
@[simp] theorem State.updTpwr_cfg (i : Nat) (f : TilePwr → TilePwr) : (s.updTpwr i f).cfg = s.cfg := rfl
@[simp] theorem State.updTpwr_cxl (i : Nat) (f : TilePwr → TilePwr) : (s.updTpwr i f).cxl = s.cxl := rfl
@[simp] theorem State.updTpwr_devState (i : Nat) (f : TilePwr → TilePwr) : (s.updTpwr i f).devState = s.devState := rfl
@[simp] theorem State.updTpwr_feed (i : Nat) (f : TilePwr → TilePwr) : (s.updTpwr i f).feed = s.feed := rfl
@[simp] theorem State.updTpwr_cloche (i : Nat) (f : TilePwr → TilePwr) : (s.updTpwr i f).cloche = s.cloche := rfl
@[simp] theorem State.updTpwr_sec (i : Nat) (f : TilePwr → TilePwr) : (s.updTpwr i f).sec = s.sec := rfl
@[simp] theorem State.updTpwr_fcl (i : Nat) (f : TilePwr → TilePwr) : (s.updTpwr i f).fcl = s.fcl := rfl
@[simp] theorem State.updTpwr_ckpt (i : Nat) (f : TilePwr → TilePwr) : (s.updTpwr i f).ckpt = s.ckpt := rfl
@[simp] theorem State.updTpwr_boot (i : Nat) (f : TilePwr → TilePwr) : (s.updTpwr i f).boot = s.boot := rfl
@[simp] theorem State.updTpwr_bridge (i : Nat) (f : TilePwr → TilePwr) : (s.updTpwr i f).bridge = s.bridge := rfl
@[simp] theorem State.updTpwr_jtag (i : Nat) (f : TilePwr → TilePwr) : (s.updTpwr i f).jtag = s.jtag := rfl
@[simp] theorem State.updTpwr_tpwr_self (i : Nat) (f : TilePwr → TilePwr) : (s.updTpwr i f).tpwr i = f (s.tpwr i) := Tbl.getD_upd_self ..
@[simp] theorem State.updTpwr_tpwr_ne {i j : Nat} (f : TilePwr → TilePwr) (h : j ≠ i) : (s.updTpwr i f).tpwr j = s.tpwr j := Tbl.getD_upd_ne _ _ _ _ h

/-! ## updCmp -/

@[simp] theorem State.updCmp_pending (i : Nat) (f : Cmp → Cmp) : (s.updCmp i f).pending = s.pending := rfl
@[simp] theorem State.updCmp_fresh (i : Nat) (f : Cmp → Cmp) : (s.updCmp i f).fresh = s.fresh := rfl
@[simp] theorem State.updCmp_ltu (i : Nat) (f : Cmp → Cmp) : (s.updCmp i f).ltu = s.ltu := rfl
@[simp] theorem State.updCmp_mem (i : Nat) (f : Cmp → Cmp) : (s.updCmp i f).mem = s.mem := rfl
@[simp] theorem State.updCmp_t3 (i : Nat) (f : Cmp → Cmp) : (s.updCmp i f).t3 = s.t3 := rfl
@[simp] theorem State.updCmp_hostMem (i : Nat) (f : Cmp → Cmp) : (s.updCmp i f).hostMem = s.hostMem := rfl
@[simp] theorem State.updCmp_dies (i : Nat) (f : Cmp → Cmp) : (s.updCmp i f).dies = s.dies := rfl
@[simp] theorem State.updCmp_trellis (i : Nat) (f : Cmp → Cmp) : (s.updCmp i f).trellis = s.trellis := rfl
@[simp] theorem State.updCmp_tiles (i : Nat) (f : Cmp → Cmp) : (s.updCmp i f).tiles = s.tiles := rfl
@[simp] theorem State.updCmp_atu (i : Nat) (f : Cmp → Cmp) : (s.updCmp i f).atu = s.atu := rfl
@[simp] theorem State.updCmp_chans (i : Nat) (f : Cmp → Cmp) : (s.updCmp i f).chans = s.chans := rfl
@[simp] theorem State.updCmp_dma (i : Nat) (f : Cmp → Cmp) : (s.updCmp i f).dma = s.dma := rfl
@[simp] theorem State.updCmp_lpc (i : Nat) (f : Cmp → Cmp) : (s.updCmp i f).lpc = s.lpc := rfl
@[simp] theorem State.updCmp_ftl (i : Nat) (f : Cmp → Cmp) : (s.updCmp i f).ftl = s.ftl := rfl
@[simp] theorem State.updCmp_comp (i : Nat) (f : Cmp → Cmp) : (s.updCmp i f).comp = s.comp := rfl
@[simp] theorem State.updCmp_sieve (i : Nat) (f : Cmp → Cmp) : (s.updCmp i f).sieve = s.sieve := rfl
@[simp] theorem State.updCmp_rings (i : Nat) (f : Cmp → Cmp) : (s.updCmp i f).rings = s.rings := rfl
@[simp] theorem State.updCmp_ringRegs (i : Nat) (f : Cmp → Cmp) : (s.updCmp i f).ringRegs = s.ringRegs := rfl
@[simp] theorem State.updCmp_tags (i : Nat) (f : Cmp → Cmp) : (s.updCmp i f).tags = s.tags := rfl
@[simp] theorem State.updCmp_groups (i : Nat) (f : Cmp → Cmp) : (s.updCmp i f).groups = s.groups := rfl
@[simp] theorem State.updCmp_cjournal (i : Nat) (f : Cmp → Cmp) : (s.updCmp i f).cjournal = s.cjournal := rfl
@[simp] theorem State.updCmp_reqRegs (i : Nat) (f : Cmp → Cmp) : (s.updCmp i f).reqRegs = s.reqRegs := rfl
@[simp] theorem State.updCmp_acct (i : Nat) (f : Cmp → Cmp) : (s.updCmp i f).acct = s.acct := rfl
@[simp] theorem State.updCmp_reqs (i : Nat) (f : Cmp → Cmp) : (s.updCmp i f).reqs = s.reqs := rfl
@[simp] theorem State.updCmp_tenants (i : Nat) (f : Cmp → Cmp) : (s.updCmp i f).tenants = s.tenants := rfl
@[simp] theorem State.updCmp_slots (i : Nat) (f : Cmp → Cmp) : (s.updCmp i f).slots = s.slots := rfl
@[simp] theorem State.updCmp_holders (i : Nat) (f : Cmp → Cmp) : (s.updCmp i f).holders = s.holders := rfl
@[simp] theorem State.updCmp_pools (i : Nat) (f : Cmp → Cmp) : (s.updCmp i f).pools = s.pools := rfl
@[simp] theorem State.updCmp_lds (i : Nat) (f : Cmp → Cmp) : (s.updCmp i f).lds = s.lds := rfl
@[simp] theorem State.updCmp_fabricMb (i : Nat) (f : Cmp → Cmp) : (s.updCmp i f).fabricMb = s.fabricMb := rfl
@[simp] theorem State.updCmp_mbTurn (i : Nat) (f : Cmp → Cmp) : (s.updCmp i f).mbTurn = s.mbTurn := rfl
@[simp] theorem State.updCmp_fab (i : Nat) (f : Cmp → Cmp) : (s.updCmp i f).fab = s.fab := rfl
@[simp] theorem State.updCmp_cmap (i : Nat) (f : Cmp → Cmp) : (s.updCmp i f).cmap = s.cmap := rfl
@[simp] theorem State.updCmp_cfg (i : Nat) (f : Cmp → Cmp) : (s.updCmp i f).cfg = s.cfg := rfl
@[simp] theorem State.updCmp_cxl (i : Nat) (f : Cmp → Cmp) : (s.updCmp i f).cxl = s.cxl := rfl
@[simp] theorem State.updCmp_devState (i : Nat) (f : Cmp → Cmp) : (s.updCmp i f).devState = s.devState := rfl
@[simp] theorem State.updCmp_feed (i : Nat) (f : Cmp → Cmp) : (s.updCmp i f).feed = s.feed := rfl
@[simp] theorem State.updCmp_cloche (i : Nat) (f : Cmp → Cmp) : (s.updCmp i f).cloche = s.cloche := rfl
@[simp] theorem State.updCmp_sec (i : Nat) (f : Cmp → Cmp) : (s.updCmp i f).sec = s.sec := rfl
@[simp] theorem State.updCmp_fcl (i : Nat) (f : Cmp → Cmp) : (s.updCmp i f).fcl = s.fcl := rfl
@[simp] theorem State.updCmp_ckpt (i : Nat) (f : Cmp → Cmp) : (s.updCmp i f).ckpt = s.ckpt := rfl
@[simp] theorem State.updCmp_boot (i : Nat) (f : Cmp → Cmp) : (s.updCmp i f).boot = s.boot := rfl
@[simp] theorem State.updCmp_bridge (i : Nat) (f : Cmp → Cmp) : (s.updCmp i f).bridge = s.bridge := rfl
@[simp] theorem State.updCmp_jtag (i : Nat) (f : Cmp → Cmp) : (s.updCmp i f).jtag = s.jtag := rfl
@[simp] theorem State.updCmp_cmp_self (i : Nat) (f : Cmp → Cmp) : (s.updCmp i f).cmp i = f (s.cmp i) := Tbl.getD_upd_self ..
@[simp] theorem State.updCmp_cmp_ne {i j : Nat} (f : Cmp → Cmp) (h : j ≠ i) : (s.updCmp i f).cmp j = s.cmp j := Tbl.getD_upd_ne _ _ _ _ h

/-! ## updLink -/

@[simp] theorem State.updLink_pending (i : Nat) (f : Link → Link) : (s.updLink i f).pending = s.pending := rfl
@[simp] theorem State.updLink_fresh (i : Nat) (f : Link → Link) : (s.updLink i f).fresh = s.fresh := rfl
@[simp] theorem State.updLink_ltu (i : Nat) (f : Link → Link) : (s.updLink i f).ltu = s.ltu := rfl
@[simp] theorem State.updLink_mem (i : Nat) (f : Link → Link) : (s.updLink i f).mem = s.mem := rfl
@[simp] theorem State.updLink_t3 (i : Nat) (f : Link → Link) : (s.updLink i f).t3 = s.t3 := rfl
@[simp] theorem State.updLink_hostMem (i : Nat) (f : Link → Link) : (s.updLink i f).hostMem = s.hostMem := rfl
@[simp] theorem State.updLink_dies (i : Nat) (f : Link → Link) : (s.updLink i f).dies = s.dies := rfl
@[simp] theorem State.updLink_trellis (i : Nat) (f : Link → Link) : (s.updLink i f).trellis = s.trellis := rfl
@[simp] theorem State.updLink_tiles (i : Nat) (f : Link → Link) : (s.updLink i f).tiles = s.tiles := rfl
@[simp] theorem State.updLink_atu (i : Nat) (f : Link → Link) : (s.updLink i f).atu = s.atu := rfl
@[simp] theorem State.updLink_chans (i : Nat) (f : Link → Link) : (s.updLink i f).chans = s.chans := rfl
@[simp] theorem State.updLink_dma (i : Nat) (f : Link → Link) : (s.updLink i f).dma = s.dma := rfl
@[simp] theorem State.updLink_lpc (i : Nat) (f : Link → Link) : (s.updLink i f).lpc = s.lpc := rfl
@[simp] theorem State.updLink_ftl (i : Nat) (f : Link → Link) : (s.updLink i f).ftl = s.ftl := rfl
@[simp] theorem State.updLink_comp (i : Nat) (f : Link → Link) : (s.updLink i f).comp = s.comp := rfl
@[simp] theorem State.updLink_sieve (i : Nat) (f : Link → Link) : (s.updLink i f).sieve = s.sieve := rfl
@[simp] theorem State.updLink_rings (i : Nat) (f : Link → Link) : (s.updLink i f).rings = s.rings := rfl
@[simp] theorem State.updLink_ringRegs (i : Nat) (f : Link → Link) : (s.updLink i f).ringRegs = s.ringRegs := rfl
@[simp] theorem State.updLink_tags (i : Nat) (f : Link → Link) : (s.updLink i f).tags = s.tags := rfl
@[simp] theorem State.updLink_groups (i : Nat) (f : Link → Link) : (s.updLink i f).groups = s.groups := rfl
@[simp] theorem State.updLink_cjournal (i : Nat) (f : Link → Link) : (s.updLink i f).cjournal = s.cjournal := rfl
@[simp] theorem State.updLink_reqRegs (i : Nat) (f : Link → Link) : (s.updLink i f).reqRegs = s.reqRegs := rfl
@[simp] theorem State.updLink_acct (i : Nat) (f : Link → Link) : (s.updLink i f).acct = s.acct := rfl
@[simp] theorem State.updLink_reqs (i : Nat) (f : Link → Link) : (s.updLink i f).reqs = s.reqs := rfl
@[simp] theorem State.updLink_tenants (i : Nat) (f : Link → Link) : (s.updLink i f).tenants = s.tenants := rfl
@[simp] theorem State.updLink_slots (i : Nat) (f : Link → Link) : (s.updLink i f).slots = s.slots := rfl
@[simp] theorem State.updLink_holders (i : Nat) (f : Link → Link) : (s.updLink i f).holders = s.holders := rfl
@[simp] theorem State.updLink_pools (i : Nat) (f : Link → Link) : (s.updLink i f).pools = s.pools := rfl
@[simp] theorem State.updLink_lds (i : Nat) (f : Link → Link) : (s.updLink i f).lds = s.lds := rfl
@[simp] theorem State.updLink_fabricMb (i : Nat) (f : Link → Link) : (s.updLink i f).fabricMb = s.fabricMb := rfl
@[simp] theorem State.updLink_mbTurn (i : Nat) (f : Link → Link) : (s.updLink i f).mbTurn = s.mbTurn := rfl
@[simp] theorem State.updLink_cmap (i : Nat) (f : Link → Link) : (s.updLink i f).cmap = s.cmap := rfl
@[simp] theorem State.updLink_cfg (i : Nat) (f : Link → Link) : (s.updLink i f).cfg = s.cfg := rfl
@[simp] theorem State.updLink_cxl (i : Nat) (f : Link → Link) : (s.updLink i f).cxl = s.cxl := rfl
@[simp] theorem State.updLink_devState (i : Nat) (f : Link → Link) : (s.updLink i f).devState = s.devState := rfl
@[simp] theorem State.updLink_feed (i : Nat) (f : Link → Link) : (s.updLink i f).feed = s.feed := rfl
@[simp] theorem State.updLink_cloche (i : Nat) (f : Link → Link) : (s.updLink i f).cloche = s.cloche := rfl
@[simp] theorem State.updLink_sec (i : Nat) (f : Link → Link) : (s.updLink i f).sec = s.sec := rfl
@[simp] theorem State.updLink_fcl (i : Nat) (f : Link → Link) : (s.updLink i f).fcl = s.fcl := rfl
@[simp] theorem State.updLink_ckpt (i : Nat) (f : Link → Link) : (s.updLink i f).ckpt = s.ckpt := rfl
@[simp] theorem State.updLink_pwr (i : Nat) (f : Link → Link) : (s.updLink i f).pwr = s.pwr := rfl
@[simp] theorem State.updLink_boot (i : Nat) (f : Link → Link) : (s.updLink i f).boot = s.boot := rfl
@[simp] theorem State.updLink_bridge (i : Nat) (f : Link → Link) : (s.updLink i f).bridge = s.bridge := rfl
@[simp] theorem State.updLink_jtag (i : Nat) (f : Link → Link) : (s.updLink i f).jtag = s.jtag := rfl
@[simp] theorem State.updLink_link_self (i : Nat) (f : Link → Link) : (s.updLink i f).link i = f (s.link i) := Tbl.getD_upd_self ..
@[simp] theorem State.updLink_link_ne {i j : Nat} (f : Link → Link) (h : j ≠ i) : (s.updLink i f).link j = s.link j := Tbl.getD_upd_ne _ _ _ _ h

/-! ## updLnd -/

@[simp] theorem State.updLnd_pending (i : Nat) (f : LinkDie → LinkDie) : (s.updLnd i f).pending = s.pending := rfl
@[simp] theorem State.updLnd_fresh (i : Nat) (f : LinkDie → LinkDie) : (s.updLnd i f).fresh = s.fresh := rfl
@[simp] theorem State.updLnd_ltu (i : Nat) (f : LinkDie → LinkDie) : (s.updLnd i f).ltu = s.ltu := rfl
@[simp] theorem State.updLnd_mem (i : Nat) (f : LinkDie → LinkDie) : (s.updLnd i f).mem = s.mem := rfl
@[simp] theorem State.updLnd_t3 (i : Nat) (f : LinkDie → LinkDie) : (s.updLnd i f).t3 = s.t3 := rfl
@[simp] theorem State.updLnd_hostMem (i : Nat) (f : LinkDie → LinkDie) : (s.updLnd i f).hostMem = s.hostMem := rfl
@[simp] theorem State.updLnd_dies (i : Nat) (f : LinkDie → LinkDie) : (s.updLnd i f).dies = s.dies := rfl
@[simp] theorem State.updLnd_trellis (i : Nat) (f : LinkDie → LinkDie) : (s.updLnd i f).trellis = s.trellis := rfl
@[simp] theorem State.updLnd_tiles (i : Nat) (f : LinkDie → LinkDie) : (s.updLnd i f).tiles = s.tiles := rfl
@[simp] theorem State.updLnd_atu (i : Nat) (f : LinkDie → LinkDie) : (s.updLnd i f).atu = s.atu := rfl
@[simp] theorem State.updLnd_chans (i : Nat) (f : LinkDie → LinkDie) : (s.updLnd i f).chans = s.chans := rfl
@[simp] theorem State.updLnd_dma (i : Nat) (f : LinkDie → LinkDie) : (s.updLnd i f).dma = s.dma := rfl
@[simp] theorem State.updLnd_lpc (i : Nat) (f : LinkDie → LinkDie) : (s.updLnd i f).lpc = s.lpc := rfl
@[simp] theorem State.updLnd_ftl (i : Nat) (f : LinkDie → LinkDie) : (s.updLnd i f).ftl = s.ftl := rfl
@[simp] theorem State.updLnd_comp (i : Nat) (f : LinkDie → LinkDie) : (s.updLnd i f).comp = s.comp := rfl
@[simp] theorem State.updLnd_sieve (i : Nat) (f : LinkDie → LinkDie) : (s.updLnd i f).sieve = s.sieve := rfl
@[simp] theorem State.updLnd_rings (i : Nat) (f : LinkDie → LinkDie) : (s.updLnd i f).rings = s.rings := rfl
@[simp] theorem State.updLnd_ringRegs (i : Nat) (f : LinkDie → LinkDie) : (s.updLnd i f).ringRegs = s.ringRegs := rfl
@[simp] theorem State.updLnd_tags (i : Nat) (f : LinkDie → LinkDie) : (s.updLnd i f).tags = s.tags := rfl
@[simp] theorem State.updLnd_groups (i : Nat) (f : LinkDie → LinkDie) : (s.updLnd i f).groups = s.groups := rfl
@[simp] theorem State.updLnd_cjournal (i : Nat) (f : LinkDie → LinkDie) : (s.updLnd i f).cjournal = s.cjournal := rfl
@[simp] theorem State.updLnd_reqRegs (i : Nat) (f : LinkDie → LinkDie) : (s.updLnd i f).reqRegs = s.reqRegs := rfl
@[simp] theorem State.updLnd_acct (i : Nat) (f : LinkDie → LinkDie) : (s.updLnd i f).acct = s.acct := rfl
@[simp] theorem State.updLnd_reqs (i : Nat) (f : LinkDie → LinkDie) : (s.updLnd i f).reqs = s.reqs := rfl
@[simp] theorem State.updLnd_tenants (i : Nat) (f : LinkDie → LinkDie) : (s.updLnd i f).tenants = s.tenants := rfl
@[simp] theorem State.updLnd_slots (i : Nat) (f : LinkDie → LinkDie) : (s.updLnd i f).slots = s.slots := rfl
@[simp] theorem State.updLnd_holders (i : Nat) (f : LinkDie → LinkDie) : (s.updLnd i f).holders = s.holders := rfl
@[simp] theorem State.updLnd_pools (i : Nat) (f : LinkDie → LinkDie) : (s.updLnd i f).pools = s.pools := rfl
@[simp] theorem State.updLnd_lds (i : Nat) (f : LinkDie → LinkDie) : (s.updLnd i f).lds = s.lds := rfl
@[simp] theorem State.updLnd_fabricMb (i : Nat) (f : LinkDie → LinkDie) : (s.updLnd i f).fabricMb = s.fabricMb := rfl
@[simp] theorem State.updLnd_mbTurn (i : Nat) (f : LinkDie → LinkDie) : (s.updLnd i f).mbTurn = s.mbTurn := rfl
@[simp] theorem State.updLnd_cmap (i : Nat) (f : LinkDie → LinkDie) : (s.updLnd i f).cmap = s.cmap := rfl
@[simp] theorem State.updLnd_cfg (i : Nat) (f : LinkDie → LinkDie) : (s.updLnd i f).cfg = s.cfg := rfl
@[simp] theorem State.updLnd_cxl (i : Nat) (f : LinkDie → LinkDie) : (s.updLnd i f).cxl = s.cxl := rfl
@[simp] theorem State.updLnd_devState (i : Nat) (f : LinkDie → LinkDie) : (s.updLnd i f).devState = s.devState := rfl
@[simp] theorem State.updLnd_feed (i : Nat) (f : LinkDie → LinkDie) : (s.updLnd i f).feed = s.feed := rfl
@[simp] theorem State.updLnd_cloche (i : Nat) (f : LinkDie → LinkDie) : (s.updLnd i f).cloche = s.cloche := rfl
@[simp] theorem State.updLnd_sec (i : Nat) (f : LinkDie → LinkDie) : (s.updLnd i f).sec = s.sec := rfl
@[simp] theorem State.updLnd_fcl (i : Nat) (f : LinkDie → LinkDie) : (s.updLnd i f).fcl = s.fcl := rfl
@[simp] theorem State.updLnd_ckpt (i : Nat) (f : LinkDie → LinkDie) : (s.updLnd i f).ckpt = s.ckpt := rfl
@[simp] theorem State.updLnd_pwr (i : Nat) (f : LinkDie → LinkDie) : (s.updLnd i f).pwr = s.pwr := rfl
@[simp] theorem State.updLnd_boot (i : Nat) (f : LinkDie → LinkDie) : (s.updLnd i f).boot = s.boot := rfl
@[simp] theorem State.updLnd_bridge (i : Nat) (f : LinkDie → LinkDie) : (s.updLnd i f).bridge = s.bridge := rfl
@[simp] theorem State.updLnd_jtag (i : Nat) (f : LinkDie → LinkDie) : (s.updLnd i f).jtag = s.jtag := rfl
@[simp] theorem State.updLnd_lnd_self (i : Nat) (f : LinkDie → LinkDie) : (s.updLnd i f).lnd i = f (s.lnd i) := Tbl.getD_upd_self ..
@[simp] theorem State.updLnd_lnd_ne {i j : Nat} (f : LinkDie → LinkDie) (h : j ≠ i) : (s.updLnd i f).lnd j = s.lnd j := Tbl.getD_upd_ne _ _ _ _ h

/-! ## updConn -/

@[simp] theorem State.updConn_pending (i : Nat) (f : Conn → Conn) : (s.updConn i f).pending = s.pending := rfl
@[simp] theorem State.updConn_fresh (i : Nat) (f : Conn → Conn) : (s.updConn i f).fresh = s.fresh := rfl
@[simp] theorem State.updConn_ltu (i : Nat) (f : Conn → Conn) : (s.updConn i f).ltu = s.ltu := rfl
@[simp] theorem State.updConn_mem (i : Nat) (f : Conn → Conn) : (s.updConn i f).mem = s.mem := rfl
@[simp] theorem State.updConn_t3 (i : Nat) (f : Conn → Conn) : (s.updConn i f).t3 = s.t3 := rfl
@[simp] theorem State.updConn_hostMem (i : Nat) (f : Conn → Conn) : (s.updConn i f).hostMem = s.hostMem := rfl
@[simp] theorem State.updConn_dies (i : Nat) (f : Conn → Conn) : (s.updConn i f).dies = s.dies := rfl
@[simp] theorem State.updConn_trellis (i : Nat) (f : Conn → Conn) : (s.updConn i f).trellis = s.trellis := rfl
@[simp] theorem State.updConn_tiles (i : Nat) (f : Conn → Conn) : (s.updConn i f).tiles = s.tiles := rfl
@[simp] theorem State.updConn_atu (i : Nat) (f : Conn → Conn) : (s.updConn i f).atu = s.atu := rfl
@[simp] theorem State.updConn_chans (i : Nat) (f : Conn → Conn) : (s.updConn i f).chans = s.chans := rfl
@[simp] theorem State.updConn_dma (i : Nat) (f : Conn → Conn) : (s.updConn i f).dma = s.dma := rfl
@[simp] theorem State.updConn_lpc (i : Nat) (f : Conn → Conn) : (s.updConn i f).lpc = s.lpc := rfl
@[simp] theorem State.updConn_ftl (i : Nat) (f : Conn → Conn) : (s.updConn i f).ftl = s.ftl := rfl
@[simp] theorem State.updConn_comp (i : Nat) (f : Conn → Conn) : (s.updConn i f).comp = s.comp := rfl
@[simp] theorem State.updConn_sieve (i : Nat) (f : Conn → Conn) : (s.updConn i f).sieve = s.sieve := rfl
@[simp] theorem State.updConn_rings (i : Nat) (f : Conn → Conn) : (s.updConn i f).rings = s.rings := rfl
@[simp] theorem State.updConn_ringRegs (i : Nat) (f : Conn → Conn) : (s.updConn i f).ringRegs = s.ringRegs := rfl
@[simp] theorem State.updConn_tags (i : Nat) (f : Conn → Conn) : (s.updConn i f).tags = s.tags := rfl
@[simp] theorem State.updConn_groups (i : Nat) (f : Conn → Conn) : (s.updConn i f).groups = s.groups := rfl
@[simp] theorem State.updConn_cjournal (i : Nat) (f : Conn → Conn) : (s.updConn i f).cjournal = s.cjournal := rfl
@[simp] theorem State.updConn_reqRegs (i : Nat) (f : Conn → Conn) : (s.updConn i f).reqRegs = s.reqRegs := rfl
@[simp] theorem State.updConn_acct (i : Nat) (f : Conn → Conn) : (s.updConn i f).acct = s.acct := rfl
@[simp] theorem State.updConn_reqs (i : Nat) (f : Conn → Conn) : (s.updConn i f).reqs = s.reqs := rfl
@[simp] theorem State.updConn_tenants (i : Nat) (f : Conn → Conn) : (s.updConn i f).tenants = s.tenants := rfl
@[simp] theorem State.updConn_slots (i : Nat) (f : Conn → Conn) : (s.updConn i f).slots = s.slots := rfl
@[simp] theorem State.updConn_holders (i : Nat) (f : Conn → Conn) : (s.updConn i f).holders = s.holders := rfl
@[simp] theorem State.updConn_pools (i : Nat) (f : Conn → Conn) : (s.updConn i f).pools = s.pools := rfl
@[simp] theorem State.updConn_lds (i : Nat) (f : Conn → Conn) : (s.updConn i f).lds = s.lds := rfl
@[simp] theorem State.updConn_fabricMb (i : Nat) (f : Conn → Conn) : (s.updConn i f).fabricMb = s.fabricMb := rfl
@[simp] theorem State.updConn_mbTurn (i : Nat) (f : Conn → Conn) : (s.updConn i f).mbTurn = s.mbTurn := rfl
@[simp] theorem State.updConn_cmap (i : Nat) (f : Conn → Conn) : (s.updConn i f).cmap = s.cmap := rfl
@[simp] theorem State.updConn_cfg (i : Nat) (f : Conn → Conn) : (s.updConn i f).cfg = s.cfg := rfl
@[simp] theorem State.updConn_cxl (i : Nat) (f : Conn → Conn) : (s.updConn i f).cxl = s.cxl := rfl
@[simp] theorem State.updConn_devState (i : Nat) (f : Conn → Conn) : (s.updConn i f).devState = s.devState := rfl
@[simp] theorem State.updConn_feed (i : Nat) (f : Conn → Conn) : (s.updConn i f).feed = s.feed := rfl
@[simp] theorem State.updConn_cloche (i : Nat) (f : Conn → Conn) : (s.updConn i f).cloche = s.cloche := rfl
@[simp] theorem State.updConn_sec (i : Nat) (f : Conn → Conn) : (s.updConn i f).sec = s.sec := rfl
@[simp] theorem State.updConn_fcl (i : Nat) (f : Conn → Conn) : (s.updConn i f).fcl = s.fcl := rfl
@[simp] theorem State.updConn_ckpt (i : Nat) (f : Conn → Conn) : (s.updConn i f).ckpt = s.ckpt := rfl
@[simp] theorem State.updConn_pwr (i : Nat) (f : Conn → Conn) : (s.updConn i f).pwr = s.pwr := rfl
@[simp] theorem State.updConn_boot (i : Nat) (f : Conn → Conn) : (s.updConn i f).boot = s.boot := rfl
@[simp] theorem State.updConn_bridge (i : Nat) (f : Conn → Conn) : (s.updConn i f).bridge = s.bridge := rfl
@[simp] theorem State.updConn_jtag (i : Nat) (f : Conn → Conn) : (s.updConn i f).jtag = s.jtag := rfl
@[simp] theorem State.updConn_conn_self (i : Nat) (f : Conn → Conn) : (s.updConn i f).conn i = f (s.conn i) := Tbl.getD_upd_self ..
@[simp] theorem State.updConn_conn_ne {i j : Nat} (f : Conn → Conn) (h : j ≠ i) : (s.updConn i f).conn j = s.conn j := Tbl.getD_upd_ne _ _ _ _ h

/-! ## updSq -/

@[simp] theorem State.updSq_pending (i : Nat) (f : SendQ → SendQ) : (s.updSq i f).pending = s.pending := rfl
@[simp] theorem State.updSq_fresh (i : Nat) (f : SendQ → SendQ) : (s.updSq i f).fresh = s.fresh := rfl
@[simp] theorem State.updSq_ltu (i : Nat) (f : SendQ → SendQ) : (s.updSq i f).ltu = s.ltu := rfl
@[simp] theorem State.updSq_mem (i : Nat) (f : SendQ → SendQ) : (s.updSq i f).mem = s.mem := rfl
@[simp] theorem State.updSq_t3 (i : Nat) (f : SendQ → SendQ) : (s.updSq i f).t3 = s.t3 := rfl
@[simp] theorem State.updSq_hostMem (i : Nat) (f : SendQ → SendQ) : (s.updSq i f).hostMem = s.hostMem := rfl
@[simp] theorem State.updSq_dies (i : Nat) (f : SendQ → SendQ) : (s.updSq i f).dies = s.dies := rfl
@[simp] theorem State.updSq_trellis (i : Nat) (f : SendQ → SendQ) : (s.updSq i f).trellis = s.trellis := rfl
@[simp] theorem State.updSq_tiles (i : Nat) (f : SendQ → SendQ) : (s.updSq i f).tiles = s.tiles := rfl
@[simp] theorem State.updSq_atu (i : Nat) (f : SendQ → SendQ) : (s.updSq i f).atu = s.atu := rfl
@[simp] theorem State.updSq_chans (i : Nat) (f : SendQ → SendQ) : (s.updSq i f).chans = s.chans := rfl
@[simp] theorem State.updSq_dma (i : Nat) (f : SendQ → SendQ) : (s.updSq i f).dma = s.dma := rfl
@[simp] theorem State.updSq_lpc (i : Nat) (f : SendQ → SendQ) : (s.updSq i f).lpc = s.lpc := rfl
@[simp] theorem State.updSq_ftl (i : Nat) (f : SendQ → SendQ) : (s.updSq i f).ftl = s.ftl := rfl
@[simp] theorem State.updSq_comp (i : Nat) (f : SendQ → SendQ) : (s.updSq i f).comp = s.comp := rfl
@[simp] theorem State.updSq_sieve (i : Nat) (f : SendQ → SendQ) : (s.updSq i f).sieve = s.sieve := rfl
@[simp] theorem State.updSq_rings (i : Nat) (f : SendQ → SendQ) : (s.updSq i f).rings = s.rings := rfl
@[simp] theorem State.updSq_ringRegs (i : Nat) (f : SendQ → SendQ) : (s.updSq i f).ringRegs = s.ringRegs := rfl
@[simp] theorem State.updSq_tags (i : Nat) (f : SendQ → SendQ) : (s.updSq i f).tags = s.tags := rfl
@[simp] theorem State.updSq_groups (i : Nat) (f : SendQ → SendQ) : (s.updSq i f).groups = s.groups := rfl
@[simp] theorem State.updSq_cjournal (i : Nat) (f : SendQ → SendQ) : (s.updSq i f).cjournal = s.cjournal := rfl
@[simp] theorem State.updSq_reqRegs (i : Nat) (f : SendQ → SendQ) : (s.updSq i f).reqRegs = s.reqRegs := rfl
@[simp] theorem State.updSq_acct (i : Nat) (f : SendQ → SendQ) : (s.updSq i f).acct = s.acct := rfl
@[simp] theorem State.updSq_reqs (i : Nat) (f : SendQ → SendQ) : (s.updSq i f).reqs = s.reqs := rfl
@[simp] theorem State.updSq_tenants (i : Nat) (f : SendQ → SendQ) : (s.updSq i f).tenants = s.tenants := rfl
@[simp] theorem State.updSq_slots (i : Nat) (f : SendQ → SendQ) : (s.updSq i f).slots = s.slots := rfl
@[simp] theorem State.updSq_holders (i : Nat) (f : SendQ → SendQ) : (s.updSq i f).holders = s.holders := rfl
@[simp] theorem State.updSq_pools (i : Nat) (f : SendQ → SendQ) : (s.updSq i f).pools = s.pools := rfl
@[simp] theorem State.updSq_lds (i : Nat) (f : SendQ → SendQ) : (s.updSq i f).lds = s.lds := rfl
@[simp] theorem State.updSq_fabricMb (i : Nat) (f : SendQ → SendQ) : (s.updSq i f).fabricMb = s.fabricMb := rfl
@[simp] theorem State.updSq_mbTurn (i : Nat) (f : SendQ → SendQ) : (s.updSq i f).mbTurn = s.mbTurn := rfl
@[simp] theorem State.updSq_cmap (i : Nat) (f : SendQ → SendQ) : (s.updSq i f).cmap = s.cmap := rfl
@[simp] theorem State.updSq_cfg (i : Nat) (f : SendQ → SendQ) : (s.updSq i f).cfg = s.cfg := rfl
@[simp] theorem State.updSq_cxl (i : Nat) (f : SendQ → SendQ) : (s.updSq i f).cxl = s.cxl := rfl
@[simp] theorem State.updSq_devState (i : Nat) (f : SendQ → SendQ) : (s.updSq i f).devState = s.devState := rfl
@[simp] theorem State.updSq_feed (i : Nat) (f : SendQ → SendQ) : (s.updSq i f).feed = s.feed := rfl
@[simp] theorem State.updSq_cloche (i : Nat) (f : SendQ → SendQ) : (s.updSq i f).cloche = s.cloche := rfl
@[simp] theorem State.updSq_sec (i : Nat) (f : SendQ → SendQ) : (s.updSq i f).sec = s.sec := rfl
@[simp] theorem State.updSq_fcl (i : Nat) (f : SendQ → SendQ) : (s.updSq i f).fcl = s.fcl := rfl
@[simp] theorem State.updSq_ckpt (i : Nat) (f : SendQ → SendQ) : (s.updSq i f).ckpt = s.ckpt := rfl
@[simp] theorem State.updSq_pwr (i : Nat) (f : SendQ → SendQ) : (s.updSq i f).pwr = s.pwr := rfl
@[simp] theorem State.updSq_boot (i : Nat) (f : SendQ → SendQ) : (s.updSq i f).boot = s.boot := rfl
@[simp] theorem State.updSq_bridge (i : Nat) (f : SendQ → SendQ) : (s.updSq i f).bridge = s.bridge := rfl
@[simp] theorem State.updSq_jtag (i : Nat) (f : SendQ → SendQ) : (s.updSq i f).jtag = s.jtag := rfl
@[simp] theorem State.updSq_sq_self (i : Nat) (f : SendQ → SendQ) : (s.updSq i f).sq i = f (s.sq i) := Tbl.getD_upd_self ..
@[simp] theorem State.updSq_sq_ne {i j : Nat} (f : SendQ → SendQ) (h : j ≠ i) : (s.updSq i f).sq j = s.sq j := Tbl.getD_upd_ne _ _ _ _ h

/-! ## updCq -/

@[simp] theorem State.updCq_pending (i : Nat) (f : CplQ → CplQ) : (s.updCq i f).pending = s.pending := rfl
@[simp] theorem State.updCq_fresh (i : Nat) (f : CplQ → CplQ) : (s.updCq i f).fresh = s.fresh := rfl
@[simp] theorem State.updCq_ltu (i : Nat) (f : CplQ → CplQ) : (s.updCq i f).ltu = s.ltu := rfl
@[simp] theorem State.updCq_mem (i : Nat) (f : CplQ → CplQ) : (s.updCq i f).mem = s.mem := rfl
@[simp] theorem State.updCq_t3 (i : Nat) (f : CplQ → CplQ) : (s.updCq i f).t3 = s.t3 := rfl
@[simp] theorem State.updCq_hostMem (i : Nat) (f : CplQ → CplQ) : (s.updCq i f).hostMem = s.hostMem := rfl
@[simp] theorem State.updCq_dies (i : Nat) (f : CplQ → CplQ) : (s.updCq i f).dies = s.dies := rfl
@[simp] theorem State.updCq_trellis (i : Nat) (f : CplQ → CplQ) : (s.updCq i f).trellis = s.trellis := rfl
@[simp] theorem State.updCq_tiles (i : Nat) (f : CplQ → CplQ) : (s.updCq i f).tiles = s.tiles := rfl
@[simp] theorem State.updCq_atu (i : Nat) (f : CplQ → CplQ) : (s.updCq i f).atu = s.atu := rfl
@[simp] theorem State.updCq_chans (i : Nat) (f : CplQ → CplQ) : (s.updCq i f).chans = s.chans := rfl
@[simp] theorem State.updCq_dma (i : Nat) (f : CplQ → CplQ) : (s.updCq i f).dma = s.dma := rfl
@[simp] theorem State.updCq_lpc (i : Nat) (f : CplQ → CplQ) : (s.updCq i f).lpc = s.lpc := rfl
@[simp] theorem State.updCq_ftl (i : Nat) (f : CplQ → CplQ) : (s.updCq i f).ftl = s.ftl := rfl
@[simp] theorem State.updCq_comp (i : Nat) (f : CplQ → CplQ) : (s.updCq i f).comp = s.comp := rfl
@[simp] theorem State.updCq_sieve (i : Nat) (f : CplQ → CplQ) : (s.updCq i f).sieve = s.sieve := rfl
@[simp] theorem State.updCq_rings (i : Nat) (f : CplQ → CplQ) : (s.updCq i f).rings = s.rings := rfl
@[simp] theorem State.updCq_ringRegs (i : Nat) (f : CplQ → CplQ) : (s.updCq i f).ringRegs = s.ringRegs := rfl
@[simp] theorem State.updCq_tags (i : Nat) (f : CplQ → CplQ) : (s.updCq i f).tags = s.tags := rfl
@[simp] theorem State.updCq_groups (i : Nat) (f : CplQ → CplQ) : (s.updCq i f).groups = s.groups := rfl
@[simp] theorem State.updCq_cjournal (i : Nat) (f : CplQ → CplQ) : (s.updCq i f).cjournal = s.cjournal := rfl
@[simp] theorem State.updCq_reqRegs (i : Nat) (f : CplQ → CplQ) : (s.updCq i f).reqRegs = s.reqRegs := rfl
@[simp] theorem State.updCq_acct (i : Nat) (f : CplQ → CplQ) : (s.updCq i f).acct = s.acct := rfl
@[simp] theorem State.updCq_reqs (i : Nat) (f : CplQ → CplQ) : (s.updCq i f).reqs = s.reqs := rfl
@[simp] theorem State.updCq_tenants (i : Nat) (f : CplQ → CplQ) : (s.updCq i f).tenants = s.tenants := rfl
@[simp] theorem State.updCq_slots (i : Nat) (f : CplQ → CplQ) : (s.updCq i f).slots = s.slots := rfl
@[simp] theorem State.updCq_holders (i : Nat) (f : CplQ → CplQ) : (s.updCq i f).holders = s.holders := rfl
@[simp] theorem State.updCq_pools (i : Nat) (f : CplQ → CplQ) : (s.updCq i f).pools = s.pools := rfl
@[simp] theorem State.updCq_lds (i : Nat) (f : CplQ → CplQ) : (s.updCq i f).lds = s.lds := rfl
@[simp] theorem State.updCq_fabricMb (i : Nat) (f : CplQ → CplQ) : (s.updCq i f).fabricMb = s.fabricMb := rfl
@[simp] theorem State.updCq_mbTurn (i : Nat) (f : CplQ → CplQ) : (s.updCq i f).mbTurn = s.mbTurn := rfl
@[simp] theorem State.updCq_cmap (i : Nat) (f : CplQ → CplQ) : (s.updCq i f).cmap = s.cmap := rfl
@[simp] theorem State.updCq_cfg (i : Nat) (f : CplQ → CplQ) : (s.updCq i f).cfg = s.cfg := rfl
@[simp] theorem State.updCq_cxl (i : Nat) (f : CplQ → CplQ) : (s.updCq i f).cxl = s.cxl := rfl
@[simp] theorem State.updCq_devState (i : Nat) (f : CplQ → CplQ) : (s.updCq i f).devState = s.devState := rfl
@[simp] theorem State.updCq_feed (i : Nat) (f : CplQ → CplQ) : (s.updCq i f).feed = s.feed := rfl
@[simp] theorem State.updCq_cloche (i : Nat) (f : CplQ → CplQ) : (s.updCq i f).cloche = s.cloche := rfl
@[simp] theorem State.updCq_sec (i : Nat) (f : CplQ → CplQ) : (s.updCq i f).sec = s.sec := rfl
@[simp] theorem State.updCq_fcl (i : Nat) (f : CplQ → CplQ) : (s.updCq i f).fcl = s.fcl := rfl
@[simp] theorem State.updCq_ckpt (i : Nat) (f : CplQ → CplQ) : (s.updCq i f).ckpt = s.ckpt := rfl
@[simp] theorem State.updCq_pwr (i : Nat) (f : CplQ → CplQ) : (s.updCq i f).pwr = s.pwr := rfl
@[simp] theorem State.updCq_boot (i : Nat) (f : CplQ → CplQ) : (s.updCq i f).boot = s.boot := rfl
@[simp] theorem State.updCq_bridge (i : Nat) (f : CplQ → CplQ) : (s.updCq i f).bridge = s.bridge := rfl
@[simp] theorem State.updCq_jtag (i : Nat) (f : CplQ → CplQ) : (s.updCq i f).jtag = s.jtag := rfl
@[simp] theorem State.updCq_cq_self (i : Nat) (f : CplQ → CplQ) : (s.updCq i f).cq i = f (s.cq i) := Tbl.getD_upd_self ..
@[simp] theorem State.updCq_cq_ne {i j : Nat} (f : CplQ → CplQ) (h : j ≠ i) : (s.updCq i f).cq j = s.cq j := Tbl.getD_upd_ne _ _ _ _ h

/-! ## Memory and free values -/

@[simp] theorem State.draw_pending  : (s.draw).pending = s.pending := rfl
@[simp] theorem State.draw_ltu  : (s.draw).ltu = s.ltu := rfl
@[simp] theorem State.draw_mem  : (s.draw).mem = s.mem := rfl
@[simp] theorem State.draw_t3  : (s.draw).t3 = s.t3 := rfl
@[simp] theorem State.draw_hostMem  : (s.draw).hostMem = s.hostMem := rfl
@[simp] theorem State.draw_dies  : (s.draw).dies = s.dies := rfl
@[simp] theorem State.draw_trellis  : (s.draw).trellis = s.trellis := rfl
@[simp] theorem State.draw_tiles  : (s.draw).tiles = s.tiles := rfl
@[simp] theorem State.draw_atu  : (s.draw).atu = s.atu := rfl
@[simp] theorem State.draw_chans  : (s.draw).chans = s.chans := rfl
@[simp] theorem State.draw_dma  : (s.draw).dma = s.dma := rfl
@[simp] theorem State.draw_lpc  : (s.draw).lpc = s.lpc := rfl
@[simp] theorem State.draw_ftl  : (s.draw).ftl = s.ftl := rfl
@[simp] theorem State.draw_comp  : (s.draw).comp = s.comp := rfl
@[simp] theorem State.draw_sieve  : (s.draw).sieve = s.sieve := rfl
@[simp] theorem State.draw_rings  : (s.draw).rings = s.rings := rfl
@[simp] theorem State.draw_ringRegs  : (s.draw).ringRegs = s.ringRegs := rfl
@[simp] theorem State.draw_tags  : (s.draw).tags = s.tags := rfl
@[simp] theorem State.draw_groups  : (s.draw).groups = s.groups := rfl
@[simp] theorem State.draw_cjournal  : (s.draw).cjournal = s.cjournal := rfl
@[simp] theorem State.draw_reqRegs  : (s.draw).reqRegs = s.reqRegs := rfl
@[simp] theorem State.draw_acct  : (s.draw).acct = s.acct := rfl
@[simp] theorem State.draw_reqs  : (s.draw).reqs = s.reqs := rfl
@[simp] theorem State.draw_tenants  : (s.draw).tenants = s.tenants := rfl
@[simp] theorem State.draw_slots  : (s.draw).slots = s.slots := rfl
@[simp] theorem State.draw_holders  : (s.draw).holders = s.holders := rfl
@[simp] theorem State.draw_pools  : (s.draw).pools = s.pools := rfl
@[simp] theorem State.draw_lds  : (s.draw).lds = s.lds := rfl
@[simp] theorem State.draw_fabricMb  : (s.draw).fabricMb = s.fabricMb := rfl
@[simp] theorem State.draw_mbTurn  : (s.draw).mbTurn = s.mbTurn := rfl
@[simp] theorem State.draw_fab  : (s.draw).fab = s.fab := rfl
@[simp] theorem State.draw_cmap  : (s.draw).cmap = s.cmap := rfl
@[simp] theorem State.draw_cfg  : (s.draw).cfg = s.cfg := rfl
@[simp] theorem State.draw_cxl  : (s.draw).cxl = s.cxl := rfl
@[simp] theorem State.draw_devState  : (s.draw).devState = s.devState := rfl
@[simp] theorem State.draw_feed  : (s.draw).feed = s.feed := rfl
@[simp] theorem State.draw_cloche  : (s.draw).cloche = s.cloche := rfl
@[simp] theorem State.draw_sec  : (s.draw).sec = s.sec := rfl
@[simp] theorem State.draw_fcl  : (s.draw).fcl = s.fcl := rfl
@[simp] theorem State.draw_ckpt  : (s.draw).ckpt = s.ckpt := rfl
@[simp] theorem State.draw_pwr  : (s.draw).pwr = s.pwr := rfl
@[simp] theorem State.draw_boot  : (s.draw).boot = s.boot := rfl
@[simp] theorem State.draw_bridge  : (s.draw).bridge = s.bridge := rfl
@[simp] theorem State.draw_jtag  : (s.draw).jtag = s.jtag := rfl
@[simp] theorem State.wrBytes_pending (a : Nat) (bs : List Byte) : (s.wrBytes a bs).pending = s.pending := rfl
@[simp] theorem State.wrBytes_fresh (a : Nat) (bs : List Byte) : (s.wrBytes a bs).fresh = s.fresh := rfl
@[simp] theorem State.wrBytes_ltu (a : Nat) (bs : List Byte) : (s.wrBytes a bs).ltu = s.ltu := rfl
@[simp] theorem State.wrBytes_t3 (a : Nat) (bs : List Byte) : (s.wrBytes a bs).t3 = s.t3 := rfl
@[simp] theorem State.wrBytes_hostMem (a : Nat) (bs : List Byte) : (s.wrBytes a bs).hostMem = s.hostMem := rfl
@[simp] theorem State.wrBytes_dies (a : Nat) (bs : List Byte) : (s.wrBytes a bs).dies = s.dies := rfl
@[simp] theorem State.wrBytes_trellis (a : Nat) (bs : List Byte) : (s.wrBytes a bs).trellis = s.trellis := rfl
@[simp] theorem State.wrBytes_tiles (a : Nat) (bs : List Byte) : (s.wrBytes a bs).tiles = s.tiles := rfl
@[simp] theorem State.wrBytes_atu (a : Nat) (bs : List Byte) : (s.wrBytes a bs).atu = s.atu := rfl
@[simp] theorem State.wrBytes_chans (a : Nat) (bs : List Byte) : (s.wrBytes a bs).chans = s.chans := rfl
@[simp] theorem State.wrBytes_dma (a : Nat) (bs : List Byte) : (s.wrBytes a bs).dma = s.dma := rfl
@[simp] theorem State.wrBytes_lpc (a : Nat) (bs : List Byte) : (s.wrBytes a bs).lpc = s.lpc := rfl
@[simp] theorem State.wrBytes_ftl (a : Nat) (bs : List Byte) : (s.wrBytes a bs).ftl = s.ftl := rfl
@[simp] theorem State.wrBytes_comp (a : Nat) (bs : List Byte) : (s.wrBytes a bs).comp = s.comp := rfl
@[simp] theorem State.wrBytes_sieve (a : Nat) (bs : List Byte) : (s.wrBytes a bs).sieve = s.sieve := rfl
@[simp] theorem State.wrBytes_rings (a : Nat) (bs : List Byte) : (s.wrBytes a bs).rings = s.rings := rfl
@[simp] theorem State.wrBytes_ringRegs (a : Nat) (bs : List Byte) : (s.wrBytes a bs).ringRegs = s.ringRegs := rfl
@[simp] theorem State.wrBytes_tags (a : Nat) (bs : List Byte) : (s.wrBytes a bs).tags = s.tags := rfl
@[simp] theorem State.wrBytes_groups (a : Nat) (bs : List Byte) : (s.wrBytes a bs).groups = s.groups := rfl
@[simp] theorem State.wrBytes_cjournal (a : Nat) (bs : List Byte) : (s.wrBytes a bs).cjournal = s.cjournal := rfl
@[simp] theorem State.wrBytes_reqRegs (a : Nat) (bs : List Byte) : (s.wrBytes a bs).reqRegs = s.reqRegs := rfl
@[simp] theorem State.wrBytes_acct (a : Nat) (bs : List Byte) : (s.wrBytes a bs).acct = s.acct := rfl
@[simp] theorem State.wrBytes_reqs (a : Nat) (bs : List Byte) : (s.wrBytes a bs).reqs = s.reqs := rfl
@[simp] theorem State.wrBytes_tenants (a : Nat) (bs : List Byte) : (s.wrBytes a bs).tenants = s.tenants := rfl
@[simp] theorem State.wrBytes_slots (a : Nat) (bs : List Byte) : (s.wrBytes a bs).slots = s.slots := rfl
@[simp] theorem State.wrBytes_holders (a : Nat) (bs : List Byte) : (s.wrBytes a bs).holders = s.holders := rfl
@[simp] theorem State.wrBytes_pools (a : Nat) (bs : List Byte) : (s.wrBytes a bs).pools = s.pools := rfl
@[simp] theorem State.wrBytes_lds (a : Nat) (bs : List Byte) : (s.wrBytes a bs).lds = s.lds := rfl
@[simp] theorem State.wrBytes_fabricMb (a : Nat) (bs : List Byte) : (s.wrBytes a bs).fabricMb = s.fabricMb := rfl
@[simp] theorem State.wrBytes_mbTurn (a : Nat) (bs : List Byte) : (s.wrBytes a bs).mbTurn = s.mbTurn := rfl
@[simp] theorem State.wrBytes_fab (a : Nat) (bs : List Byte) : (s.wrBytes a bs).fab = s.fab := rfl
@[simp] theorem State.wrBytes_cmap (a : Nat) (bs : List Byte) : (s.wrBytes a bs).cmap = s.cmap := rfl
@[simp] theorem State.wrBytes_cfg (a : Nat) (bs : List Byte) : (s.wrBytes a bs).cfg = s.cfg := rfl
@[simp] theorem State.wrBytes_cxl (a : Nat) (bs : List Byte) : (s.wrBytes a bs).cxl = s.cxl := rfl
@[simp] theorem State.wrBytes_devState (a : Nat) (bs : List Byte) : (s.wrBytes a bs).devState = s.devState := rfl
@[simp] theorem State.wrBytes_feed (a : Nat) (bs : List Byte) : (s.wrBytes a bs).feed = s.feed := rfl
@[simp] theorem State.wrBytes_cloche (a : Nat) (bs : List Byte) : (s.wrBytes a bs).cloche = s.cloche := rfl
@[simp] theorem State.wrBytes_sec (a : Nat) (bs : List Byte) : (s.wrBytes a bs).sec = s.sec := rfl
@[simp] theorem State.wrBytes_fcl (a : Nat) (bs : List Byte) : (s.wrBytes a bs).fcl = s.fcl := rfl
@[simp] theorem State.wrBytes_ckpt (a : Nat) (bs : List Byte) : (s.wrBytes a bs).ckpt = s.ckpt := rfl
@[simp] theorem State.wrBytes_pwr (a : Nat) (bs : List Byte) : (s.wrBytes a bs).pwr = s.pwr := rfl
@[simp] theorem State.wrBytes_boot (a : Nat) (bs : List Byte) : (s.wrBytes a bs).boot = s.boot := rfl
@[simp] theorem State.wrBytes_bridge (a : Nat) (bs : List Byte) : (s.wrBytes a bs).bridge = s.bridge := rfl
@[simp] theorem State.wrBytes_jtag (a : Nat) (bs : List Byte) : (s.wrBytes a bs).jtag = s.jtag := rfl
@[simp] theorem State.zero_pending (a n : Nat) : (s.zero a n).pending = s.pending := rfl
@[simp] theorem State.zero_fresh (a n : Nat) : (s.zero a n).fresh = s.fresh := rfl
@[simp] theorem State.zero_ltu (a n : Nat) : (s.zero a n).ltu = s.ltu := rfl
@[simp] theorem State.zero_t3 (a n : Nat) : (s.zero a n).t3 = s.t3 := rfl
@[simp] theorem State.zero_hostMem (a n : Nat) : (s.zero a n).hostMem = s.hostMem := rfl
@[simp] theorem State.zero_dies (a n : Nat) : (s.zero a n).dies = s.dies := rfl
@[simp] theorem State.zero_trellis (a n : Nat) : (s.zero a n).trellis = s.trellis := rfl
@[simp] theorem State.zero_tiles (a n : Nat) : (s.zero a n).tiles = s.tiles := rfl
@[simp] theorem State.zero_atu (a n : Nat) : (s.zero a n).atu = s.atu := rfl
@[simp] theorem State.zero_chans (a n : Nat) : (s.zero a n).chans = s.chans := rfl
@[simp] theorem State.zero_dma (a n : Nat) : (s.zero a n).dma = s.dma := rfl
@[simp] theorem State.zero_lpc (a n : Nat) : (s.zero a n).lpc = s.lpc := rfl
@[simp] theorem State.zero_ftl (a n : Nat) : (s.zero a n).ftl = s.ftl := rfl
@[simp] theorem State.zero_comp (a n : Nat) : (s.zero a n).comp = s.comp := rfl
@[simp] theorem State.zero_sieve (a n : Nat) : (s.zero a n).sieve = s.sieve := rfl
@[simp] theorem State.zero_rings (a n : Nat) : (s.zero a n).rings = s.rings := rfl
@[simp] theorem State.zero_ringRegs (a n : Nat) : (s.zero a n).ringRegs = s.ringRegs := rfl
@[simp] theorem State.zero_tags (a n : Nat) : (s.zero a n).tags = s.tags := rfl
@[simp] theorem State.zero_groups (a n : Nat) : (s.zero a n).groups = s.groups := rfl
@[simp] theorem State.zero_cjournal (a n : Nat) : (s.zero a n).cjournal = s.cjournal := rfl
@[simp] theorem State.zero_reqRegs (a n : Nat) : (s.zero a n).reqRegs = s.reqRegs := rfl
@[simp] theorem State.zero_acct (a n : Nat) : (s.zero a n).acct = s.acct := rfl
@[simp] theorem State.zero_reqs (a n : Nat) : (s.zero a n).reqs = s.reqs := rfl
@[simp] theorem State.zero_tenants (a n : Nat) : (s.zero a n).tenants = s.tenants := rfl
@[simp] theorem State.zero_slots (a n : Nat) : (s.zero a n).slots = s.slots := rfl
@[simp] theorem State.zero_holders (a n : Nat) : (s.zero a n).holders = s.holders := rfl
@[simp] theorem State.zero_pools (a n : Nat) : (s.zero a n).pools = s.pools := rfl
@[simp] theorem State.zero_lds (a n : Nat) : (s.zero a n).lds = s.lds := rfl
@[simp] theorem State.zero_fabricMb (a n : Nat) : (s.zero a n).fabricMb = s.fabricMb := rfl
@[simp] theorem State.zero_mbTurn (a n : Nat) : (s.zero a n).mbTurn = s.mbTurn := rfl
@[simp] theorem State.zero_fab (a n : Nat) : (s.zero a n).fab = s.fab := rfl
@[simp] theorem State.zero_cmap (a n : Nat) : (s.zero a n).cmap = s.cmap := rfl
@[simp] theorem State.zero_cfg (a n : Nat) : (s.zero a n).cfg = s.cfg := rfl
@[simp] theorem State.zero_cxl (a n : Nat) : (s.zero a n).cxl = s.cxl := rfl
@[simp] theorem State.zero_devState (a n : Nat) : (s.zero a n).devState = s.devState := rfl
@[simp] theorem State.zero_feed (a n : Nat) : (s.zero a n).feed = s.feed := rfl
@[simp] theorem State.zero_cloche (a n : Nat) : (s.zero a n).cloche = s.cloche := rfl
@[simp] theorem State.zero_sec (a n : Nat) : (s.zero a n).sec = s.sec := rfl
@[simp] theorem State.zero_fcl (a n : Nat) : (s.zero a n).fcl = s.fcl := rfl
@[simp] theorem State.zero_ckpt (a n : Nat) : (s.zero a n).ckpt = s.ckpt := rfl
@[simp] theorem State.zero_pwr (a n : Nat) : (s.zero a n).pwr = s.pwr := rfl
@[simp] theorem State.zero_boot (a n : Nat) : (s.zero a n).boot = s.boot := rfl
@[simp] theorem State.zero_bridge (a n : Nat) : (s.zero a n).bridge = s.bridge := rfl
@[simp] theorem State.zero_jtag (a n : Nat) : (s.zero a n).jtag = s.jtag := rfl
@[simp] theorem State.t3Put_pending (h : Nat) (bs : List Byte) : (s.t3Put h bs).pending = s.pending := rfl
@[simp] theorem State.t3Put_fresh (h : Nat) (bs : List Byte) : (s.t3Put h bs).fresh = s.fresh := rfl
@[simp] theorem State.t3Put_ltu (h : Nat) (bs : List Byte) : (s.t3Put h bs).ltu = s.ltu := rfl
@[simp] theorem State.t3Put_mem (h : Nat) (bs : List Byte) : (s.t3Put h bs).mem = s.mem := rfl
@[simp] theorem State.t3Put_hostMem (h : Nat) (bs : List Byte) : (s.t3Put h bs).hostMem = s.hostMem := rfl
@[simp] theorem State.t3Put_dies (h : Nat) (bs : List Byte) : (s.t3Put h bs).dies = s.dies := rfl
@[simp] theorem State.t3Put_trellis (h : Nat) (bs : List Byte) : (s.t3Put h bs).trellis = s.trellis := rfl
@[simp] theorem State.t3Put_tiles (h : Nat) (bs : List Byte) : (s.t3Put h bs).tiles = s.tiles := rfl
@[simp] theorem State.t3Put_atu (h : Nat) (bs : List Byte) : (s.t3Put h bs).atu = s.atu := rfl
@[simp] theorem State.t3Put_chans (h : Nat) (bs : List Byte) : (s.t3Put h bs).chans = s.chans := rfl
@[simp] theorem State.t3Put_dma (h : Nat) (bs : List Byte) : (s.t3Put h bs).dma = s.dma := rfl
@[simp] theorem State.t3Put_lpc (h : Nat) (bs : List Byte) : (s.t3Put h bs).lpc = s.lpc := rfl
@[simp] theorem State.t3Put_ftl (h : Nat) (bs : List Byte) : (s.t3Put h bs).ftl = s.ftl := rfl
@[simp] theorem State.t3Put_comp (h : Nat) (bs : List Byte) : (s.t3Put h bs).comp = s.comp := rfl
@[simp] theorem State.t3Put_sieve (h : Nat) (bs : List Byte) : (s.t3Put h bs).sieve = s.sieve := rfl
@[simp] theorem State.t3Put_rings (h : Nat) (bs : List Byte) : (s.t3Put h bs).rings = s.rings := rfl
@[simp] theorem State.t3Put_ringRegs (h : Nat) (bs : List Byte) : (s.t3Put h bs).ringRegs = s.ringRegs := rfl
@[simp] theorem State.t3Put_tags (h : Nat) (bs : List Byte) : (s.t3Put h bs).tags = s.tags := rfl
@[simp] theorem State.t3Put_groups (h : Nat) (bs : List Byte) : (s.t3Put h bs).groups = s.groups := rfl
@[simp] theorem State.t3Put_cjournal (h : Nat) (bs : List Byte) : (s.t3Put h bs).cjournal = s.cjournal := rfl
@[simp] theorem State.t3Put_reqRegs (h : Nat) (bs : List Byte) : (s.t3Put h bs).reqRegs = s.reqRegs := rfl
@[simp] theorem State.t3Put_acct (h : Nat) (bs : List Byte) : (s.t3Put h bs).acct = s.acct := rfl
@[simp] theorem State.t3Put_reqs (h : Nat) (bs : List Byte) : (s.t3Put h bs).reqs = s.reqs := rfl
@[simp] theorem State.t3Put_tenants (h : Nat) (bs : List Byte) : (s.t3Put h bs).tenants = s.tenants := rfl
@[simp] theorem State.t3Put_slots (h : Nat) (bs : List Byte) : (s.t3Put h bs).slots = s.slots := rfl
@[simp] theorem State.t3Put_holders (h : Nat) (bs : List Byte) : (s.t3Put h bs).holders = s.holders := rfl
@[simp] theorem State.t3Put_pools (h : Nat) (bs : List Byte) : (s.t3Put h bs).pools = s.pools := rfl
@[simp] theorem State.t3Put_lds (h : Nat) (bs : List Byte) : (s.t3Put h bs).lds = s.lds := rfl
@[simp] theorem State.t3Put_fabricMb (h : Nat) (bs : List Byte) : (s.t3Put h bs).fabricMb = s.fabricMb := rfl
@[simp] theorem State.t3Put_mbTurn (h : Nat) (bs : List Byte) : (s.t3Put h bs).mbTurn = s.mbTurn := rfl
@[simp] theorem State.t3Put_fab (h : Nat) (bs : List Byte) : (s.t3Put h bs).fab = s.fab := rfl
@[simp] theorem State.t3Put_cmap (h : Nat) (bs : List Byte) : (s.t3Put h bs).cmap = s.cmap := rfl
@[simp] theorem State.t3Put_cfg (h : Nat) (bs : List Byte) : (s.t3Put h bs).cfg = s.cfg := rfl
@[simp] theorem State.t3Put_cxl (h : Nat) (bs : List Byte) : (s.t3Put h bs).cxl = s.cxl := rfl
@[simp] theorem State.t3Put_devState (h : Nat) (bs : List Byte) : (s.t3Put h bs).devState = s.devState := rfl
@[simp] theorem State.t3Put_feed (h : Nat) (bs : List Byte) : (s.t3Put h bs).feed = s.feed := rfl
@[simp] theorem State.t3Put_cloche (h : Nat) (bs : List Byte) : (s.t3Put h bs).cloche = s.cloche := rfl
@[simp] theorem State.t3Put_sec (h : Nat) (bs : List Byte) : (s.t3Put h bs).sec = s.sec := rfl
@[simp] theorem State.t3Put_fcl (h : Nat) (bs : List Byte) : (s.t3Put h bs).fcl = s.fcl := rfl
@[simp] theorem State.t3Put_ckpt (h : Nat) (bs : List Byte) : (s.t3Put h bs).ckpt = s.ckpt := rfl
@[simp] theorem State.t3Put_pwr (h : Nat) (bs : List Byte) : (s.t3Put h bs).pwr = s.pwr := rfl
@[simp] theorem State.t3Put_boot (h : Nat) (bs : List Byte) : (s.t3Put h bs).boot = s.boot := rfl
@[simp] theorem State.t3Put_bridge (h : Nat) (bs : List Byte) : (s.t3Put h bs).bridge = s.bridge := rfl
@[simp] theorem State.t3Put_jtag (h : Nat) (bs : List Byte) : (s.t3Put h bs).jtag = s.jtag := rfl
@[simp] theorem State.t3Zero_pending (h : Nat) : (s.t3Zero h).pending = s.pending := rfl
@[simp] theorem State.t3Zero_fresh (h : Nat) : (s.t3Zero h).fresh = s.fresh := rfl
@[simp] theorem State.t3Zero_ltu (h : Nat) : (s.t3Zero h).ltu = s.ltu := rfl
@[simp] theorem State.t3Zero_mem (h : Nat) : (s.t3Zero h).mem = s.mem := rfl
@[simp] theorem State.t3Zero_hostMem (h : Nat) : (s.t3Zero h).hostMem = s.hostMem := rfl
@[simp] theorem State.t3Zero_dies (h : Nat) : (s.t3Zero h).dies = s.dies := rfl
@[simp] theorem State.t3Zero_trellis (h : Nat) : (s.t3Zero h).trellis = s.trellis := rfl
@[simp] theorem State.t3Zero_tiles (h : Nat) : (s.t3Zero h).tiles = s.tiles := rfl
@[simp] theorem State.t3Zero_atu (h : Nat) : (s.t3Zero h).atu = s.atu := rfl
@[simp] theorem State.t3Zero_chans (h : Nat) : (s.t3Zero h).chans = s.chans := rfl
@[simp] theorem State.t3Zero_dma (h : Nat) : (s.t3Zero h).dma = s.dma := rfl
@[simp] theorem State.t3Zero_lpc (h : Nat) : (s.t3Zero h).lpc = s.lpc := rfl
@[simp] theorem State.t3Zero_ftl (h : Nat) : (s.t3Zero h).ftl = s.ftl := rfl
@[simp] theorem State.t3Zero_comp (h : Nat) : (s.t3Zero h).comp = s.comp := rfl
@[simp] theorem State.t3Zero_sieve (h : Nat) : (s.t3Zero h).sieve = s.sieve := rfl
@[simp] theorem State.t3Zero_rings (h : Nat) : (s.t3Zero h).rings = s.rings := rfl
@[simp] theorem State.t3Zero_ringRegs (h : Nat) : (s.t3Zero h).ringRegs = s.ringRegs := rfl
@[simp] theorem State.t3Zero_tags (h : Nat) : (s.t3Zero h).tags = s.tags := rfl
@[simp] theorem State.t3Zero_groups (h : Nat) : (s.t3Zero h).groups = s.groups := rfl
@[simp] theorem State.t3Zero_cjournal (h : Nat) : (s.t3Zero h).cjournal = s.cjournal := rfl
@[simp] theorem State.t3Zero_reqRegs (h : Nat) : (s.t3Zero h).reqRegs = s.reqRegs := rfl
@[simp] theorem State.t3Zero_acct (h : Nat) : (s.t3Zero h).acct = s.acct := rfl
@[simp] theorem State.t3Zero_reqs (h : Nat) : (s.t3Zero h).reqs = s.reqs := rfl
@[simp] theorem State.t3Zero_tenants (h : Nat) : (s.t3Zero h).tenants = s.tenants := rfl
@[simp] theorem State.t3Zero_slots (h : Nat) : (s.t3Zero h).slots = s.slots := rfl
@[simp] theorem State.t3Zero_holders (h : Nat) : (s.t3Zero h).holders = s.holders := rfl
@[simp] theorem State.t3Zero_pools (h : Nat) : (s.t3Zero h).pools = s.pools := rfl
@[simp] theorem State.t3Zero_lds (h : Nat) : (s.t3Zero h).lds = s.lds := rfl
@[simp] theorem State.t3Zero_fabricMb (h : Nat) : (s.t3Zero h).fabricMb = s.fabricMb := rfl
@[simp] theorem State.t3Zero_mbTurn (h : Nat) : (s.t3Zero h).mbTurn = s.mbTurn := rfl
@[simp] theorem State.t3Zero_fab (h : Nat) : (s.t3Zero h).fab = s.fab := rfl
@[simp] theorem State.t3Zero_cmap (h : Nat) : (s.t3Zero h).cmap = s.cmap := rfl
@[simp] theorem State.t3Zero_cfg (h : Nat) : (s.t3Zero h).cfg = s.cfg := rfl
@[simp] theorem State.t3Zero_cxl (h : Nat) : (s.t3Zero h).cxl = s.cxl := rfl
@[simp] theorem State.t3Zero_devState (h : Nat) : (s.t3Zero h).devState = s.devState := rfl
@[simp] theorem State.t3Zero_feed (h : Nat) : (s.t3Zero h).feed = s.feed := rfl
@[simp] theorem State.t3Zero_cloche (h : Nat) : (s.t3Zero h).cloche = s.cloche := rfl
@[simp] theorem State.t3Zero_sec (h : Nat) : (s.t3Zero h).sec = s.sec := rfl
@[simp] theorem State.t3Zero_fcl (h : Nat) : (s.t3Zero h).fcl = s.fcl := rfl
@[simp] theorem State.t3Zero_ckpt (h : Nat) : (s.t3Zero h).ckpt = s.ckpt := rfl
@[simp] theorem State.t3Zero_pwr (h : Nat) : (s.t3Zero h).pwr = s.pwr := rfl
@[simp] theorem State.t3Zero_boot (h : Nat) : (s.t3Zero h).boot = s.boot := rfl
@[simp] theorem State.t3Zero_bridge (h : Nat) : (s.t3Zero h).bridge = s.bridge := rfl
@[simp] theorem State.t3Zero_jtag (h : Nat) : (s.t3Zero h).jtag = s.jtag := rfl
@[simp] theorem State.hostPut_pending (ld a : Nat) (bs : List Byte) : (s.hostPut ld a bs).pending = s.pending := rfl
@[simp] theorem State.hostPut_fresh (ld a : Nat) (bs : List Byte) : (s.hostPut ld a bs).fresh = s.fresh := rfl
@[simp] theorem State.hostPut_ltu (ld a : Nat) (bs : List Byte) : (s.hostPut ld a bs).ltu = s.ltu := rfl
@[simp] theorem State.hostPut_mem (ld a : Nat) (bs : List Byte) : (s.hostPut ld a bs).mem = s.mem := rfl
@[simp] theorem State.hostPut_t3 (ld a : Nat) (bs : List Byte) : (s.hostPut ld a bs).t3 = s.t3 := rfl
@[simp] theorem State.hostPut_dies (ld a : Nat) (bs : List Byte) : (s.hostPut ld a bs).dies = s.dies := rfl
@[simp] theorem State.hostPut_trellis (ld a : Nat) (bs : List Byte) : (s.hostPut ld a bs).trellis = s.trellis := rfl
@[simp] theorem State.hostPut_tiles (ld a : Nat) (bs : List Byte) : (s.hostPut ld a bs).tiles = s.tiles := rfl
@[simp] theorem State.hostPut_atu (ld a : Nat) (bs : List Byte) : (s.hostPut ld a bs).atu = s.atu := rfl
@[simp] theorem State.hostPut_chans (ld a : Nat) (bs : List Byte) : (s.hostPut ld a bs).chans = s.chans := rfl
@[simp] theorem State.hostPut_dma (ld a : Nat) (bs : List Byte) : (s.hostPut ld a bs).dma = s.dma := rfl
@[simp] theorem State.hostPut_lpc (ld a : Nat) (bs : List Byte) : (s.hostPut ld a bs).lpc = s.lpc := rfl
@[simp] theorem State.hostPut_ftl (ld a : Nat) (bs : List Byte) : (s.hostPut ld a bs).ftl = s.ftl := rfl
@[simp] theorem State.hostPut_comp (ld a : Nat) (bs : List Byte) : (s.hostPut ld a bs).comp = s.comp := rfl
@[simp] theorem State.hostPut_sieve (ld a : Nat) (bs : List Byte) : (s.hostPut ld a bs).sieve = s.sieve := rfl
@[simp] theorem State.hostPut_rings (ld a : Nat) (bs : List Byte) : (s.hostPut ld a bs).rings = s.rings := rfl
@[simp] theorem State.hostPut_ringRegs (ld a : Nat) (bs : List Byte) : (s.hostPut ld a bs).ringRegs = s.ringRegs := rfl
@[simp] theorem State.hostPut_tags (ld a : Nat) (bs : List Byte) : (s.hostPut ld a bs).tags = s.tags := rfl
@[simp] theorem State.hostPut_groups (ld a : Nat) (bs : List Byte) : (s.hostPut ld a bs).groups = s.groups := rfl
@[simp] theorem State.hostPut_cjournal (ld a : Nat) (bs : List Byte) : (s.hostPut ld a bs).cjournal = s.cjournal := rfl
@[simp] theorem State.hostPut_reqRegs (ld a : Nat) (bs : List Byte) : (s.hostPut ld a bs).reqRegs = s.reqRegs := rfl
@[simp] theorem State.hostPut_acct (ld a : Nat) (bs : List Byte) : (s.hostPut ld a bs).acct = s.acct := rfl
@[simp] theorem State.hostPut_reqs (ld a : Nat) (bs : List Byte) : (s.hostPut ld a bs).reqs = s.reqs := rfl
@[simp] theorem State.hostPut_tenants (ld a : Nat) (bs : List Byte) : (s.hostPut ld a bs).tenants = s.tenants := rfl
@[simp] theorem State.hostPut_slots (ld a : Nat) (bs : List Byte) : (s.hostPut ld a bs).slots = s.slots := rfl
@[simp] theorem State.hostPut_holders (ld a : Nat) (bs : List Byte) : (s.hostPut ld a bs).holders = s.holders := rfl
@[simp] theorem State.hostPut_pools (ld a : Nat) (bs : List Byte) : (s.hostPut ld a bs).pools = s.pools := rfl
@[simp] theorem State.hostPut_lds (ld a : Nat) (bs : List Byte) : (s.hostPut ld a bs).lds = s.lds := rfl
@[simp] theorem State.hostPut_fabricMb (ld a : Nat) (bs : List Byte) : (s.hostPut ld a bs).fabricMb = s.fabricMb := rfl
@[simp] theorem State.hostPut_mbTurn (ld a : Nat) (bs : List Byte) : (s.hostPut ld a bs).mbTurn = s.mbTurn := rfl
@[simp] theorem State.hostPut_fab (ld a : Nat) (bs : List Byte) : (s.hostPut ld a bs).fab = s.fab := rfl
@[simp] theorem State.hostPut_cmap (ld a : Nat) (bs : List Byte) : (s.hostPut ld a bs).cmap = s.cmap := rfl
@[simp] theorem State.hostPut_cfg (ld a : Nat) (bs : List Byte) : (s.hostPut ld a bs).cfg = s.cfg := rfl
@[simp] theorem State.hostPut_cxl (ld a : Nat) (bs : List Byte) : (s.hostPut ld a bs).cxl = s.cxl := rfl
@[simp] theorem State.hostPut_devState (ld a : Nat) (bs : List Byte) : (s.hostPut ld a bs).devState = s.devState := rfl
@[simp] theorem State.hostPut_feed (ld a : Nat) (bs : List Byte) : (s.hostPut ld a bs).feed = s.feed := rfl
@[simp] theorem State.hostPut_cloche (ld a : Nat) (bs : List Byte) : (s.hostPut ld a bs).cloche = s.cloche := rfl
@[simp] theorem State.hostPut_sec (ld a : Nat) (bs : List Byte) : (s.hostPut ld a bs).sec = s.sec := rfl
@[simp] theorem State.hostPut_fcl (ld a : Nat) (bs : List Byte) : (s.hostPut ld a bs).fcl = s.fcl := rfl
@[simp] theorem State.hostPut_ckpt (ld a : Nat) (bs : List Byte) : (s.hostPut ld a bs).ckpt = s.ckpt := rfl
@[simp] theorem State.hostPut_pwr (ld a : Nat) (bs : List Byte) : (s.hostPut ld a bs).pwr = s.pwr := rfl
@[simp] theorem State.hostPut_boot (ld a : Nat) (bs : List Byte) : (s.hostPut ld a bs).boot = s.boot := rfl
@[simp] theorem State.hostPut_bridge (ld a : Nat) (bs : List Byte) : (s.hostPut ld a bs).bridge = s.bridge := rfl
@[simp] theorem State.hostPut_jtag (ld a : Nat) (bs : List Byte) : (s.hostPut ld a bs).jtag = s.jtag := rfl
@[simp] theorem State.draw_fresh : s.draw.fresh = s.fresh + 1 := rfl

/-! ## Fault sources -/

/-- A raise touches the collector alone. -/
theorem State.raise_frame (src : Nat) : s.raise src = { s with fcl := (s.raise src).fcl } := by
  unfold State.raise
  split <;> rfl

@[simp] theorem State.raise_pending (src : Nat) : (s.raise src).pending = s.pending := by rw [State.raise_frame]
@[simp] theorem State.raise_fresh (src : Nat) : (s.raise src).fresh = s.fresh := by rw [State.raise_frame]
@[simp] theorem State.raise_ltu (src : Nat) : (s.raise src).ltu = s.ltu := by rw [State.raise_frame]
@[simp] theorem State.raise_mem (src : Nat) : (s.raise src).mem = s.mem := by rw [State.raise_frame]
@[simp] theorem State.raise_t3 (src : Nat) : (s.raise src).t3 = s.t3 := by rw [State.raise_frame]
@[simp] theorem State.raise_hostMem (src : Nat) : (s.raise src).hostMem = s.hostMem := by rw [State.raise_frame]
@[simp] theorem State.raise_dies (src : Nat) : (s.raise src).dies = s.dies := by rw [State.raise_frame]
@[simp] theorem State.raise_trellis (src : Nat) : (s.raise src).trellis = s.trellis := by rw [State.raise_frame]
@[simp] theorem State.raise_tiles (src : Nat) : (s.raise src).tiles = s.tiles := by rw [State.raise_frame]
@[simp] theorem State.raise_atu (src : Nat) : (s.raise src).atu = s.atu := by rw [State.raise_frame]
@[simp] theorem State.raise_chans (src : Nat) : (s.raise src).chans = s.chans := by rw [State.raise_frame]
@[simp] theorem State.raise_dma (src : Nat) : (s.raise src).dma = s.dma := by rw [State.raise_frame]
@[simp] theorem State.raise_lpc (src : Nat) : (s.raise src).lpc = s.lpc := by rw [State.raise_frame]
@[simp] theorem State.raise_ftl (src : Nat) : (s.raise src).ftl = s.ftl := by rw [State.raise_frame]
@[simp] theorem State.raise_comp (src : Nat) : (s.raise src).comp = s.comp := by rw [State.raise_frame]
@[simp] theorem State.raise_sieve (src : Nat) : (s.raise src).sieve = s.sieve := by rw [State.raise_frame]
@[simp] theorem State.raise_rings (src : Nat) : (s.raise src).rings = s.rings := by rw [State.raise_frame]
@[simp] theorem State.raise_ringRegs (src : Nat) : (s.raise src).ringRegs = s.ringRegs := by rw [State.raise_frame]
@[simp] theorem State.raise_tags (src : Nat) : (s.raise src).tags = s.tags := by rw [State.raise_frame]
@[simp] theorem State.raise_groups (src : Nat) : (s.raise src).groups = s.groups := by rw [State.raise_frame]
@[simp] theorem State.raise_cjournal (src : Nat) : (s.raise src).cjournal = s.cjournal := by rw [State.raise_frame]
@[simp] theorem State.raise_reqRegs (src : Nat) : (s.raise src).reqRegs = s.reqRegs := by rw [State.raise_frame]
@[simp] theorem State.raise_acct (src : Nat) : (s.raise src).acct = s.acct := by rw [State.raise_frame]
@[simp] theorem State.raise_reqs (src : Nat) : (s.raise src).reqs = s.reqs := by rw [State.raise_frame]
@[simp] theorem State.raise_tenants (src : Nat) : (s.raise src).tenants = s.tenants := by rw [State.raise_frame]
@[simp] theorem State.raise_slots (src : Nat) : (s.raise src).slots = s.slots := by rw [State.raise_frame]
@[simp] theorem State.raise_holders (src : Nat) : (s.raise src).holders = s.holders := by rw [State.raise_frame]
@[simp] theorem State.raise_pools (src : Nat) : (s.raise src).pools = s.pools := by rw [State.raise_frame]
@[simp] theorem State.raise_lds (src : Nat) : (s.raise src).lds = s.lds := by rw [State.raise_frame]
@[simp] theorem State.raise_fabricMb (src : Nat) : (s.raise src).fabricMb = s.fabricMb := by rw [State.raise_frame]
@[simp] theorem State.raise_mbTurn (src : Nat) : (s.raise src).mbTurn = s.mbTurn := by rw [State.raise_frame]
@[simp] theorem State.raise_fab (src : Nat) : (s.raise src).fab = s.fab := by rw [State.raise_frame]
@[simp] theorem State.raise_cmap (src : Nat) : (s.raise src).cmap = s.cmap := by rw [State.raise_frame]
@[simp] theorem State.raise_cfg (src : Nat) : (s.raise src).cfg = s.cfg := by rw [State.raise_frame]
@[simp] theorem State.raise_cxl (src : Nat) : (s.raise src).cxl = s.cxl := by rw [State.raise_frame]
@[simp] theorem State.raise_devState (src : Nat) : (s.raise src).devState = s.devState := by rw [State.raise_frame]
@[simp] theorem State.raise_feed (src : Nat) : (s.raise src).feed = s.feed := by rw [State.raise_frame]
@[simp] theorem State.raise_cloche (src : Nat) : (s.raise src).cloche = s.cloche := by rw [State.raise_frame]
@[simp] theorem State.raise_sec (src : Nat) : (s.raise src).sec = s.sec := by rw [State.raise_frame]
@[simp] theorem State.raise_ckpt (src : Nat) : (s.raise src).ckpt = s.ckpt := by rw [State.raise_frame]
@[simp] theorem State.raise_pwr (src : Nat) : (s.raise src).pwr = s.pwr := by rw [State.raise_frame]
@[simp] theorem State.raise_boot (src : Nat) : (s.raise src).boot = s.boot := by rw [State.raise_frame]
@[simp] theorem State.raise_bridge (src : Nat) : (s.raise src).bridge = s.bridge := by rw [State.raise_frame]
@[simp] theorem State.raise_jtag (src : Nat) : (s.raise src).jtag = s.jtag := by rw [State.raise_frame]

/-- Every condition under which the device runs but the collector's. -/
theorem State.raise_halted (src : Nat) : (s.raise src).fcl.halted = s.fcl.halted := by
  unfold State.raise
  split <;> rfl

@[simp] theorem State.raise_live (src : Nat) : (s.raise src).live = s.live := by
  unfold State.live
  rw [State.raise_halted, State.raise_boot]

end Sys2Proof.Machine
end

