-- ==== Sys2Proof/Laws/Reads.lean ====
section
/-!
SUPPORT. Sys2Proof/Laws/Reads.lean: what each update of one record leaves of every other table's records, and of whether the
device runs.
-/
namespace Sys2Proof.Machine

variable (s : State)

@[simp] theorem State.updDie_tile (i j : Nat) (f : Die → Die) : (s.updDie i f).tile j = s.tile j := rfl
@[simp] theorem State.updDie_chan (i j : Nat) (f : Die → Die) : (s.updDie i f).chan j = s.chan j := rfl
@[simp] theorem State.updDie_eng (i j : Nat) (f : Die → Die) : (s.updDie i f).eng j = s.eng j := rfl
@[simp] theorem State.updDie_lpcOf (i j : Nat) (f : Die → Die) : (s.updDie i f).lpcOf j = s.lpcOf j := rfl
@[simp] theorem State.updDie_compOf (i j : Nat) (f : Die → Die) : (s.updDie i f).compOf j = s.compOf j := rfl
@[simp] theorem State.updDie_sieveOf (i j : Nat) (f : Die → Die) : (s.updDie i f).sieveOf j = s.sieveOf j := rfl
@[simp] theorem State.updDie_ring (i j : Nat) (f : Die → Die) : (s.updDie i f).ring j = s.ring j := rfl
@[simp] theorem State.updDie_tag (i j : Nat) (f : Die → Die) : (s.updDie i f).tag j = s.tag j := rfl
@[simp] theorem State.updDie_group (i j : Nat) (f : Die → Die) : (s.updDie i f).group j = s.group j := rfl
@[simp] theorem State.updDie_req (i j : Nat) (f : Die → Die) : (s.updDie i f).req j = s.req j := rfl
@[simp] theorem State.updDie_tenant (i j : Nat) (f : Die → Die) : (s.updDie i f).tenant j = s.tenant j := rfl
@[simp] theorem State.updDie_slot (i j : Nat) (f : Die → Die) : (s.updDie i f).slot j = s.slot j := rfl
@[simp] theorem State.updDie_ld (i j : Nat) (f : Die → Die) : (s.updDie i f).ld j = s.ld j := rfl
@[simp] theorem State.updDie_acctOf (i j : Nat) (f : Die → Die) : (s.updDie i f).acctOf j = s.acctOf j := rfl
@[simp] theorem State.updDie_slice (i j : Nat) (f : Die → Die) : (s.updDie i f).slice j = s.slice j := rfl
@[simp] theorem State.updDie_tpwr (i j : Nat) (f : Die → Die) : (s.updDie i f).tpwr j = s.tpwr j := rfl
@[simp] theorem State.updDie_cmp (i j : Nat) (f : Die → Die) : (s.updDie i f).cmp j = s.cmp j := rfl
@[simp] theorem State.updDie_link (i j : Nat) (f : Die → Die) : (s.updDie i f).link j = s.link j := rfl
@[simp] theorem State.updDie_lnd (i j : Nat) (f : Die → Die) : (s.updDie i f).lnd j = s.lnd j := rfl
@[simp] theorem State.updDie_conn (i j : Nat) (f : Die → Die) : (s.updDie i f).conn j = s.conn j := rfl
@[simp] theorem State.updDie_sq (i j : Nat) (f : Die → Die) : (s.updDie i f).sq j = s.sq j := rfl
@[simp] theorem State.updDie_cq (i j : Nat) (f : Die → Die) : (s.updDie i f).cq j = s.cq j := rfl
@[simp] theorem State.updDie_live (i : Nat) (f : Die → Die) : (s.updDie i f).live = s.live := rfl

@[simp] theorem State.updTile_die (i j : Nat) (f : Tile → Tile) : (s.updTile i f).die j = s.die j := rfl
@[simp] theorem State.updTile_chan (i j : Nat) (f : Tile → Tile) : (s.updTile i f).chan j = s.chan j := rfl
@[simp] theorem State.updTile_eng (i j : Nat) (f : Tile → Tile) : (s.updTile i f).eng j = s.eng j := rfl
@[simp] theorem State.updTile_lpcOf (i j : Nat) (f : Tile → Tile) : (s.updTile i f).lpcOf j = s.lpcOf j := rfl
@[simp] theorem State.updTile_compOf (i j : Nat) (f : Tile → Tile) : (s.updTile i f).compOf j = s.compOf j := rfl
@[simp] theorem State.updTile_sieveOf (i j : Nat) (f : Tile → Tile) : (s.updTile i f).sieveOf j = s.sieveOf j := rfl
@[simp] theorem State.updTile_ring (i j : Nat) (f : Tile → Tile) : (s.updTile i f).ring j = s.ring j := rfl
@[simp] theorem State.updTile_tag (i j : Nat) (f : Tile → Tile) : (s.updTile i f).tag j = s.tag j := rfl
@[simp] theorem State.updTile_group (i j : Nat) (f : Tile → Tile) : (s.updTile i f).group j = s.group j := rfl
@[simp] theorem State.updTile_req (i j : Nat) (f : Tile → Tile) : (s.updTile i f).req j = s.req j := rfl
@[simp] theorem State.updTile_tenant (i j : Nat) (f : Tile → Tile) : (s.updTile i f).tenant j = s.tenant j := rfl
@[simp] theorem State.updTile_slot (i j : Nat) (f : Tile → Tile) : (s.updTile i f).slot j = s.slot j := rfl
@[simp] theorem State.updTile_ld (i j : Nat) (f : Tile → Tile) : (s.updTile i f).ld j = s.ld j := rfl
@[simp] theorem State.updTile_acctOf (i j : Nat) (f : Tile → Tile) : (s.updTile i f).acctOf j = s.acctOf j := rfl
@[simp] theorem State.updTile_slice (i j : Nat) (f : Tile → Tile) : (s.updTile i f).slice j = s.slice j := rfl
@[simp] theorem State.updTile_tpwr (i j : Nat) (f : Tile → Tile) : (s.updTile i f).tpwr j = s.tpwr j := rfl
@[simp] theorem State.updTile_cmp (i j : Nat) (f : Tile → Tile) : (s.updTile i f).cmp j = s.cmp j := rfl
@[simp] theorem State.updTile_link (i j : Nat) (f : Tile → Tile) : (s.updTile i f).link j = s.link j := rfl
@[simp] theorem State.updTile_lnd (i j : Nat) (f : Tile → Tile) : (s.updTile i f).lnd j = s.lnd j := rfl
@[simp] theorem State.updTile_conn (i j : Nat) (f : Tile → Tile) : (s.updTile i f).conn j = s.conn j := rfl
@[simp] theorem State.updTile_sq (i j : Nat) (f : Tile → Tile) : (s.updTile i f).sq j = s.sq j := rfl
@[simp] theorem State.updTile_cq (i j : Nat) (f : Tile → Tile) : (s.updTile i f).cq j = s.cq j := rfl
@[simp] theorem State.updTile_live (i : Nat) (f : Tile → Tile) : (s.updTile i f).live = s.live := rfl

@[simp] theorem State.updChan_die (i j : Nat) (f : Chan → Chan) : (s.updChan i f).die j = s.die j := rfl
@[simp] theorem State.updChan_tile (i j : Nat) (f : Chan → Chan) : (s.updChan i f).tile j = s.tile j := rfl
@[simp] theorem State.updChan_eng (i j : Nat) (f : Chan → Chan) : (s.updChan i f).eng j = s.eng j := rfl
@[simp] theorem State.updChan_lpcOf (i j : Nat) (f : Chan → Chan) : (s.updChan i f).lpcOf j = s.lpcOf j := rfl
@[simp] theorem State.updChan_compOf (i j : Nat) (f : Chan → Chan) : (s.updChan i f).compOf j = s.compOf j := rfl
@[simp] theorem State.updChan_sieveOf (i j : Nat) (f : Chan → Chan) : (s.updChan i f).sieveOf j = s.sieveOf j := rfl
@[simp] theorem State.updChan_ring (i j : Nat) (f : Chan → Chan) : (s.updChan i f).ring j = s.ring j := rfl
@[simp] theorem State.updChan_tag (i j : Nat) (f : Chan → Chan) : (s.updChan i f).tag j = s.tag j := rfl
@[simp] theorem State.updChan_group (i j : Nat) (f : Chan → Chan) : (s.updChan i f).group j = s.group j := rfl
@[simp] theorem State.updChan_req (i j : Nat) (f : Chan → Chan) : (s.updChan i f).req j = s.req j := rfl
@[simp] theorem State.updChan_tenant (i j : Nat) (f : Chan → Chan) : (s.updChan i f).tenant j = s.tenant j := rfl
@[simp] theorem State.updChan_slot (i j : Nat) (f : Chan → Chan) : (s.updChan i f).slot j = s.slot j := rfl
@[simp] theorem State.updChan_ld (i j : Nat) (f : Chan → Chan) : (s.updChan i f).ld j = s.ld j := rfl
@[simp] theorem State.updChan_acctOf (i j : Nat) (f : Chan → Chan) : (s.updChan i f).acctOf j = s.acctOf j := rfl
@[simp] theorem State.updChan_slice (i j : Nat) (f : Chan → Chan) : (s.updChan i f).slice j = s.slice j := rfl
@[simp] theorem State.updChan_tpwr (i j : Nat) (f : Chan → Chan) : (s.updChan i f).tpwr j = s.tpwr j := rfl
@[simp] theorem State.updChan_cmp (i j : Nat) (f : Chan → Chan) : (s.updChan i f).cmp j = s.cmp j := rfl
@[simp] theorem State.updChan_link (i j : Nat) (f : Chan → Chan) : (s.updChan i f).link j = s.link j := rfl
@[simp] theorem State.updChan_lnd (i j : Nat) (f : Chan → Chan) : (s.updChan i f).lnd j = s.lnd j := rfl
@[simp] theorem State.updChan_conn (i j : Nat) (f : Chan → Chan) : (s.updChan i f).conn j = s.conn j := rfl
@[simp] theorem State.updChan_sq (i j : Nat) (f : Chan → Chan) : (s.updChan i f).sq j = s.sq j := rfl
@[simp] theorem State.updChan_cq (i j : Nat) (f : Chan → Chan) : (s.updChan i f).cq j = s.cq j := rfl
@[simp] theorem State.updChan_live (i : Nat) (f : Chan → Chan) : (s.updChan i f).live = s.live := rfl

@[simp] theorem State.updEng_die (i j : Nat) (f : DmaEng → DmaEng) : (s.updEng i f).die j = s.die j := rfl
@[simp] theorem State.updEng_tile (i j : Nat) (f : DmaEng → DmaEng) : (s.updEng i f).tile j = s.tile j := rfl
@[simp] theorem State.updEng_chan (i j : Nat) (f : DmaEng → DmaEng) : (s.updEng i f).chan j = s.chan j := rfl
@[simp] theorem State.updEng_lpcOf (i j : Nat) (f : DmaEng → DmaEng) : (s.updEng i f).lpcOf j = s.lpcOf j := rfl
@[simp] theorem State.updEng_compOf (i j : Nat) (f : DmaEng → DmaEng) : (s.updEng i f).compOf j = s.compOf j := rfl
@[simp] theorem State.updEng_sieveOf (i j : Nat) (f : DmaEng → DmaEng) : (s.updEng i f).sieveOf j = s.sieveOf j := rfl
@[simp] theorem State.updEng_ring (i j : Nat) (f : DmaEng → DmaEng) : (s.updEng i f).ring j = s.ring j := rfl
@[simp] theorem State.updEng_tag (i j : Nat) (f : DmaEng → DmaEng) : (s.updEng i f).tag j = s.tag j := rfl
@[simp] theorem State.updEng_group (i j : Nat) (f : DmaEng → DmaEng) : (s.updEng i f).group j = s.group j := rfl
@[simp] theorem State.updEng_req (i j : Nat) (f : DmaEng → DmaEng) : (s.updEng i f).req j = s.req j := rfl
@[simp] theorem State.updEng_tenant (i j : Nat) (f : DmaEng → DmaEng) : (s.updEng i f).tenant j = s.tenant j := rfl
@[simp] theorem State.updEng_slot (i j : Nat) (f : DmaEng → DmaEng) : (s.updEng i f).slot j = s.slot j := rfl
@[simp] theorem State.updEng_ld (i j : Nat) (f : DmaEng → DmaEng) : (s.updEng i f).ld j = s.ld j := rfl
@[simp] theorem State.updEng_acctOf (i j : Nat) (f : DmaEng → DmaEng) : (s.updEng i f).acctOf j = s.acctOf j := rfl
@[simp] theorem State.updEng_slice (i j : Nat) (f : DmaEng → DmaEng) : (s.updEng i f).slice j = s.slice j := rfl
@[simp] theorem State.updEng_tpwr (i j : Nat) (f : DmaEng → DmaEng) : (s.updEng i f).tpwr j = s.tpwr j := rfl
@[simp] theorem State.updEng_cmp (i j : Nat) (f : DmaEng → DmaEng) : (s.updEng i f).cmp j = s.cmp j := rfl
@[simp] theorem State.updEng_link (i j : Nat) (f : DmaEng → DmaEng) : (s.updEng i f).link j = s.link j := rfl
@[simp] theorem State.updEng_lnd (i j : Nat) (f : DmaEng → DmaEng) : (s.updEng i f).lnd j = s.lnd j := rfl
@[simp] theorem State.updEng_conn (i j : Nat) (f : DmaEng → DmaEng) : (s.updEng i f).conn j = s.conn j := rfl
@[simp] theorem State.updEng_sq (i j : Nat) (f : DmaEng → DmaEng) : (s.updEng i f).sq j = s.sq j := rfl
@[simp] theorem State.updEng_cq (i j : Nat) (f : DmaEng → DmaEng) : (s.updEng i f).cq j = s.cq j := rfl
@[simp] theorem State.updEng_live (i : Nat) (f : DmaEng → DmaEng) : (s.updEng i f).live = s.live := rfl

@[simp] theorem State.updLpc_die (i j : Nat) (f : Lpc → Lpc) : (s.updLpc i f).die j = s.die j := rfl
@[simp] theorem State.updLpc_tile (i j : Nat) (f : Lpc → Lpc) : (s.updLpc i f).tile j = s.tile j := rfl
@[simp] theorem State.updLpc_chan (i j : Nat) (f : Lpc → Lpc) : (s.updLpc i f).chan j = s.chan j := rfl
@[simp] theorem State.updLpc_eng (i j : Nat) (f : Lpc → Lpc) : (s.updLpc i f).eng j = s.eng j := rfl
@[simp] theorem State.updLpc_compOf (i j : Nat) (f : Lpc → Lpc) : (s.updLpc i f).compOf j = s.compOf j := rfl
@[simp] theorem State.updLpc_sieveOf (i j : Nat) (f : Lpc → Lpc) : (s.updLpc i f).sieveOf j = s.sieveOf j := rfl
@[simp] theorem State.updLpc_ring (i j : Nat) (f : Lpc → Lpc) : (s.updLpc i f).ring j = s.ring j := rfl
@[simp] theorem State.updLpc_tag (i j : Nat) (f : Lpc → Lpc) : (s.updLpc i f).tag j = s.tag j := rfl
@[simp] theorem State.updLpc_group (i j : Nat) (f : Lpc → Lpc) : (s.updLpc i f).group j = s.group j := rfl
@[simp] theorem State.updLpc_req (i j : Nat) (f : Lpc → Lpc) : (s.updLpc i f).req j = s.req j := rfl
@[simp] theorem State.updLpc_tenant (i j : Nat) (f : Lpc → Lpc) : (s.updLpc i f).tenant j = s.tenant j := rfl
@[simp] theorem State.updLpc_slot (i j : Nat) (f : Lpc → Lpc) : (s.updLpc i f).slot j = s.slot j := rfl
@[simp] theorem State.updLpc_ld (i j : Nat) (f : Lpc → Lpc) : (s.updLpc i f).ld j = s.ld j := rfl
@[simp] theorem State.updLpc_acctOf (i j : Nat) (f : Lpc → Lpc) : (s.updLpc i f).acctOf j = s.acctOf j := rfl
@[simp] theorem State.updLpc_slice (i j : Nat) (f : Lpc → Lpc) : (s.updLpc i f).slice j = s.slice j := rfl
@[simp] theorem State.updLpc_tpwr (i j : Nat) (f : Lpc → Lpc) : (s.updLpc i f).tpwr j = s.tpwr j := rfl
@[simp] theorem State.updLpc_cmp (i j : Nat) (f : Lpc → Lpc) : (s.updLpc i f).cmp j = s.cmp j := rfl
@[simp] theorem State.updLpc_link (i j : Nat) (f : Lpc → Lpc) : (s.updLpc i f).link j = s.link j := rfl
@[simp] theorem State.updLpc_lnd (i j : Nat) (f : Lpc → Lpc) : (s.updLpc i f).lnd j = s.lnd j := rfl
@[simp] theorem State.updLpc_conn (i j : Nat) (f : Lpc → Lpc) : (s.updLpc i f).conn j = s.conn j := rfl
@[simp] theorem State.updLpc_sq (i j : Nat) (f : Lpc → Lpc) : (s.updLpc i f).sq j = s.sq j := rfl
@[simp] theorem State.updLpc_cq (i j : Nat) (f : Lpc → Lpc) : (s.updLpc i f).cq j = s.cq j := rfl
@[simp] theorem State.updLpc_live (i : Nat) (f : Lpc → Lpc) : (s.updLpc i f).live = s.live := rfl

@[simp] theorem State.updComp_die (i j : Nat) (f : Comp → Comp) : (s.updComp i f).die j = s.die j := rfl
@[simp] theorem State.updComp_tile (i j : Nat) (f : Comp → Comp) : (s.updComp i f).tile j = s.tile j := rfl
@[simp] theorem State.updComp_chan (i j : Nat) (f : Comp → Comp) : (s.updComp i f).chan j = s.chan j := rfl
@[simp] theorem State.updComp_eng (i j : Nat) (f : Comp → Comp) : (s.updComp i f).eng j = s.eng j := rfl
@[simp] theorem State.updComp_lpcOf (i j : Nat) (f : Comp → Comp) : (s.updComp i f).lpcOf j = s.lpcOf j := rfl
@[simp] theorem State.updComp_sieveOf (i j : Nat) (f : Comp → Comp) : (s.updComp i f).sieveOf j = s.sieveOf j := rfl
@[simp] theorem State.updComp_ring (i j : Nat) (f : Comp → Comp) : (s.updComp i f).ring j = s.ring j := rfl
@[simp] theorem State.updComp_tag (i j : Nat) (f : Comp → Comp) : (s.updComp i f).tag j = s.tag j := rfl
@[simp] theorem State.updComp_group (i j : Nat) (f : Comp → Comp) : (s.updComp i f).group j = s.group j := rfl
@[simp] theorem State.updComp_req (i j : Nat) (f : Comp → Comp) : (s.updComp i f).req j = s.req j := rfl
@[simp] theorem State.updComp_tenant (i j : Nat) (f : Comp → Comp) : (s.updComp i f).tenant j = s.tenant j := rfl
@[simp] theorem State.updComp_slot (i j : Nat) (f : Comp → Comp) : (s.updComp i f).slot j = s.slot j := rfl
@[simp] theorem State.updComp_ld (i j : Nat) (f : Comp → Comp) : (s.updComp i f).ld j = s.ld j := rfl
@[simp] theorem State.updComp_acctOf (i j : Nat) (f : Comp → Comp) : (s.updComp i f).acctOf j = s.acctOf j := rfl
@[simp] theorem State.updComp_slice (i j : Nat) (f : Comp → Comp) : (s.updComp i f).slice j = s.slice j := rfl
@[simp] theorem State.updComp_tpwr (i j : Nat) (f : Comp → Comp) : (s.updComp i f).tpwr j = s.tpwr j := rfl
@[simp] theorem State.updComp_cmp (i j : Nat) (f : Comp → Comp) : (s.updComp i f).cmp j = s.cmp j := rfl
@[simp] theorem State.updComp_link (i j : Nat) (f : Comp → Comp) : (s.updComp i f).link j = s.link j := rfl
@[simp] theorem State.updComp_lnd (i j : Nat) (f : Comp → Comp) : (s.updComp i f).lnd j = s.lnd j := rfl
@[simp] theorem State.updComp_conn (i j : Nat) (f : Comp → Comp) : (s.updComp i f).conn j = s.conn j := rfl
@[simp] theorem State.updComp_sq (i j : Nat) (f : Comp → Comp) : (s.updComp i f).sq j = s.sq j := rfl
@[simp] theorem State.updComp_cq (i j : Nat) (f : Comp → Comp) : (s.updComp i f).cq j = s.cq j := rfl
@[simp] theorem State.updComp_live (i : Nat) (f : Comp → Comp) : (s.updComp i f).live = s.live := rfl

@[simp] theorem State.updSieve_die (i j : Nat) (f : Sieve → Sieve) : (s.updSieve i f).die j = s.die j := rfl
@[simp] theorem State.updSieve_tile (i j : Nat) (f : Sieve → Sieve) : (s.updSieve i f).tile j = s.tile j := rfl
@[simp] theorem State.updSieve_chan (i j : Nat) (f : Sieve → Sieve) : (s.updSieve i f).chan j = s.chan j := rfl
@[simp] theorem State.updSieve_eng (i j : Nat) (f : Sieve → Sieve) : (s.updSieve i f).eng j = s.eng j := rfl
@[simp] theorem State.updSieve_lpcOf (i j : Nat) (f : Sieve → Sieve) : (s.updSieve i f).lpcOf j = s.lpcOf j := rfl
@[simp] theorem State.updSieve_compOf (i j : Nat) (f : Sieve → Sieve) : (s.updSieve i f).compOf j = s.compOf j := rfl
@[simp] theorem State.updSieve_ring (i j : Nat) (f : Sieve → Sieve) : (s.updSieve i f).ring j = s.ring j := rfl
@[simp] theorem State.updSieve_tag (i j : Nat) (f : Sieve → Sieve) : (s.updSieve i f).tag j = s.tag j := rfl
@[simp] theorem State.updSieve_group (i j : Nat) (f : Sieve → Sieve) : (s.updSieve i f).group j = s.group j := rfl
@[simp] theorem State.updSieve_req (i j : Nat) (f : Sieve → Sieve) : (s.updSieve i f).req j = s.req j := rfl
@[simp] theorem State.updSieve_tenant (i j : Nat) (f : Sieve → Sieve) : (s.updSieve i f).tenant j = s.tenant j := rfl
@[simp] theorem State.updSieve_slot (i j : Nat) (f : Sieve → Sieve) : (s.updSieve i f).slot j = s.slot j := rfl
@[simp] theorem State.updSieve_ld (i j : Nat) (f : Sieve → Sieve) : (s.updSieve i f).ld j = s.ld j := rfl
@[simp] theorem State.updSieve_acctOf (i j : Nat) (f : Sieve → Sieve) : (s.updSieve i f).acctOf j = s.acctOf j := rfl
@[simp] theorem State.updSieve_slice (i j : Nat) (f : Sieve → Sieve) : (s.updSieve i f).slice j = s.slice j := rfl
@[simp] theorem State.updSieve_tpwr (i j : Nat) (f : Sieve → Sieve) : (s.updSieve i f).tpwr j = s.tpwr j := rfl
@[simp] theorem State.updSieve_cmp (i j : Nat) (f : Sieve → Sieve) : (s.updSieve i f).cmp j = s.cmp j := rfl
@[simp] theorem State.updSieve_link (i j : Nat) (f : Sieve → Sieve) : (s.updSieve i f).link j = s.link j := rfl
@[simp] theorem State.updSieve_lnd (i j : Nat) (f : Sieve → Sieve) : (s.updSieve i f).lnd j = s.lnd j := rfl
@[simp] theorem State.updSieve_conn (i j : Nat) (f : Sieve → Sieve) : (s.updSieve i f).conn j = s.conn j := rfl
@[simp] theorem State.updSieve_sq (i j : Nat) (f : Sieve → Sieve) : (s.updSieve i f).sq j = s.sq j := rfl
@[simp] theorem State.updSieve_cq (i j : Nat) (f : Sieve → Sieve) : (s.updSieve i f).cq j = s.cq j := rfl
@[simp] theorem State.updSieve_live (i : Nat) (f : Sieve → Sieve) : (s.updSieve i f).live = s.live := rfl

@[simp] theorem State.updRing_die (i j : Nat) (f : Ring → Ring) : (s.updRing i f).die j = s.die j := rfl
@[simp] theorem State.updRing_tile (i j : Nat) (f : Ring → Ring) : (s.updRing i f).tile j = s.tile j := rfl
@[simp] theorem State.updRing_chan (i j : Nat) (f : Ring → Ring) : (s.updRing i f).chan j = s.chan j := rfl
@[simp] theorem State.updRing_eng (i j : Nat) (f : Ring → Ring) : (s.updRing i f).eng j = s.eng j := rfl
@[simp] theorem State.updRing_lpcOf (i j : Nat) (f : Ring → Ring) : (s.updRing i f).lpcOf j = s.lpcOf j := rfl
@[simp] theorem State.updRing_compOf (i j : Nat) (f : Ring → Ring) : (s.updRing i f).compOf j = s.compOf j := rfl
@[simp] theorem State.updRing_sieveOf (i j : Nat) (f : Ring → Ring) : (s.updRing i f).sieveOf j = s.sieveOf j := rfl
@[simp] theorem State.updRing_tag (i j : Nat) (f : Ring → Ring) : (s.updRing i f).tag j = s.tag j := rfl
@[simp] theorem State.updRing_group (i j : Nat) (f : Ring → Ring) : (s.updRing i f).group j = s.group j := rfl
@[simp] theorem State.updRing_req (i j : Nat) (f : Ring → Ring) : (s.updRing i f).req j = s.req j := rfl
@[simp] theorem State.updRing_tenant (i j : Nat) (f : Ring → Ring) : (s.updRing i f).tenant j = s.tenant j := rfl
@[simp] theorem State.updRing_slot (i j : Nat) (f : Ring → Ring) : (s.updRing i f).slot j = s.slot j := rfl
@[simp] theorem State.updRing_ld (i j : Nat) (f : Ring → Ring) : (s.updRing i f).ld j = s.ld j := rfl
@[simp] theorem State.updRing_acctOf (i j : Nat) (f : Ring → Ring) : (s.updRing i f).acctOf j = s.acctOf j := rfl
@[simp] theorem State.updRing_slice (i j : Nat) (f : Ring → Ring) : (s.updRing i f).slice j = s.slice j := rfl
@[simp] theorem State.updRing_tpwr (i j : Nat) (f : Ring → Ring) : (s.updRing i f).tpwr j = s.tpwr j := rfl
@[simp] theorem State.updRing_cmp (i j : Nat) (f : Ring → Ring) : (s.updRing i f).cmp j = s.cmp j := rfl
@[simp] theorem State.updRing_link (i j : Nat) (f : Ring → Ring) : (s.updRing i f).link j = s.link j := rfl
@[simp] theorem State.updRing_lnd (i j : Nat) (f : Ring → Ring) : (s.updRing i f).lnd j = s.lnd j := rfl
@[simp] theorem State.updRing_conn (i j : Nat) (f : Ring → Ring) : (s.updRing i f).conn j = s.conn j := rfl
@[simp] theorem State.updRing_sq (i j : Nat) (f : Ring → Ring) : (s.updRing i f).sq j = s.sq j := rfl
@[simp] theorem State.updRing_cq (i j : Nat) (f : Ring → Ring) : (s.updRing i f).cq j = s.cq j := rfl
@[simp] theorem State.updRing_live (i : Nat) (f : Ring → Ring) : (s.updRing i f).live = s.live := rfl

@[simp] theorem State.updTag_die (i j : Nat) (f : Tag → Tag) : (s.updTag i f).die j = s.die j := rfl
@[simp] theorem State.updTag_tile (i j : Nat) (f : Tag → Tag) : (s.updTag i f).tile j = s.tile j := rfl
@[simp] theorem State.updTag_chan (i j : Nat) (f : Tag → Tag) : (s.updTag i f).chan j = s.chan j := rfl
@[simp] theorem State.updTag_eng (i j : Nat) (f : Tag → Tag) : (s.updTag i f).eng j = s.eng j := rfl
@[simp] theorem State.updTag_lpcOf (i j : Nat) (f : Tag → Tag) : (s.updTag i f).lpcOf j = s.lpcOf j := rfl
@[simp] theorem State.updTag_compOf (i j : Nat) (f : Tag → Tag) : (s.updTag i f).compOf j = s.compOf j := rfl
@[simp] theorem State.updTag_sieveOf (i j : Nat) (f : Tag → Tag) : (s.updTag i f).sieveOf j = s.sieveOf j := rfl
@[simp] theorem State.updTag_ring (i j : Nat) (f : Tag → Tag) : (s.updTag i f).ring j = s.ring j := rfl
@[simp] theorem State.updTag_group (i j : Nat) (f : Tag → Tag) : (s.updTag i f).group j = s.group j := rfl
@[simp] theorem State.updTag_req (i j : Nat) (f : Tag → Tag) : (s.updTag i f).req j = s.req j := rfl
@[simp] theorem State.updTag_tenant (i j : Nat) (f : Tag → Tag) : (s.updTag i f).tenant j = s.tenant j := rfl
@[simp] theorem State.updTag_slot (i j : Nat) (f : Tag → Tag) : (s.updTag i f).slot j = s.slot j := rfl
@[simp] theorem State.updTag_ld (i j : Nat) (f : Tag → Tag) : (s.updTag i f).ld j = s.ld j := rfl
@[simp] theorem State.updTag_acctOf (i j : Nat) (f : Tag → Tag) : (s.updTag i f).acctOf j = s.acctOf j := rfl
@[simp] theorem State.updTag_slice (i j : Nat) (f : Tag → Tag) : (s.updTag i f).slice j = s.slice j := rfl
@[simp] theorem State.updTag_tpwr (i j : Nat) (f : Tag → Tag) : (s.updTag i f).tpwr j = s.tpwr j := rfl
@[simp] theorem State.updTag_cmp (i j : Nat) (f : Tag → Tag) : (s.updTag i f).cmp j = s.cmp j := rfl
@[simp] theorem State.updTag_link (i j : Nat) (f : Tag → Tag) : (s.updTag i f).link j = s.link j := rfl
@[simp] theorem State.updTag_lnd (i j : Nat) (f : Tag → Tag) : (s.updTag i f).lnd j = s.lnd j := rfl
@[simp] theorem State.updTag_conn (i j : Nat) (f : Tag → Tag) : (s.updTag i f).conn j = s.conn j := rfl
@[simp] theorem State.updTag_sq (i j : Nat) (f : Tag → Tag) : (s.updTag i f).sq j = s.sq j := rfl
@[simp] theorem State.updTag_cq (i j : Nat) (f : Tag → Tag) : (s.updTag i f).cq j = s.cq j := rfl
@[simp] theorem State.updTag_live (i : Nat) (f : Tag → Tag) : (s.updTag i f).live = s.live := rfl

@[simp] theorem State.updGroup_die (i j : Nat) (f : Group → Group) : (s.updGroup i f).die j = s.die j := rfl
@[simp] theorem State.updGroup_tile (i j : Nat) (f : Group → Group) : (s.updGroup i f).tile j = s.tile j := rfl
@[simp] theorem State.updGroup_chan (i j : Nat) (f : Group → Group) : (s.updGroup i f).chan j = s.chan j := rfl
@[simp] theorem State.updGroup_eng (i j : Nat) (f : Group → Group) : (s.updGroup i f).eng j = s.eng j := rfl
@[simp] theorem State.updGroup_lpcOf (i j : Nat) (f : Group → Group) : (s.updGroup i f).lpcOf j = s.lpcOf j := rfl
@[simp] theorem State.updGroup_compOf (i j : Nat) (f : Group → Group) : (s.updGroup i f).compOf j = s.compOf j := rfl
@[simp] theorem State.updGroup_sieveOf (i j : Nat) (f : Group → Group) : (s.updGroup i f).sieveOf j = s.sieveOf j := rfl
@[simp] theorem State.updGroup_ring (i j : Nat) (f : Group → Group) : (s.updGroup i f).ring j = s.ring j := rfl
@[simp] theorem State.updGroup_tag (i j : Nat) (f : Group → Group) : (s.updGroup i f).tag j = s.tag j := rfl
@[simp] theorem State.updGroup_req (i j : Nat) (f : Group → Group) : (s.updGroup i f).req j = s.req j := rfl
@[simp] theorem State.updGroup_tenant (i j : Nat) (f : Group → Group) : (s.updGroup i f).tenant j = s.tenant j := rfl
@[simp] theorem State.updGroup_slot (i j : Nat) (f : Group → Group) : (s.updGroup i f).slot j = s.slot j := rfl
@[simp] theorem State.updGroup_ld (i j : Nat) (f : Group → Group) : (s.updGroup i f).ld j = s.ld j := rfl
@[simp] theorem State.updGroup_acctOf (i j : Nat) (f : Group → Group) : (s.updGroup i f).acctOf j = s.acctOf j := rfl
@[simp] theorem State.updGroup_slice (i j : Nat) (f : Group → Group) : (s.updGroup i f).slice j = s.slice j := rfl
@[simp] theorem State.updGroup_tpwr (i j : Nat) (f : Group → Group) : (s.updGroup i f).tpwr j = s.tpwr j := rfl
@[simp] theorem State.updGroup_cmp (i j : Nat) (f : Group → Group) : (s.updGroup i f).cmp j = s.cmp j := rfl
@[simp] theorem State.updGroup_link (i j : Nat) (f : Group → Group) : (s.updGroup i f).link j = s.link j := rfl
@[simp] theorem State.updGroup_lnd (i j : Nat) (f : Group → Group) : (s.updGroup i f).lnd j = s.lnd j := rfl
@[simp] theorem State.updGroup_conn (i j : Nat) (f : Group → Group) : (s.updGroup i f).conn j = s.conn j := rfl
@[simp] theorem State.updGroup_sq (i j : Nat) (f : Group → Group) : (s.updGroup i f).sq j = s.sq j := rfl
@[simp] theorem State.updGroup_cq (i j : Nat) (f : Group → Group) : (s.updGroup i f).cq j = s.cq j := rfl
@[simp] theorem State.updGroup_live (i : Nat) (f : Group → Group) : (s.updGroup i f).live = s.live := rfl

@[simp] theorem State.updReq_die (i j : Nat) (f : Req → Req) : (s.updReq i f).die j = s.die j := rfl
@[simp] theorem State.updReq_tile (i j : Nat) (f : Req → Req) : (s.updReq i f).tile j = s.tile j := rfl
@[simp] theorem State.updReq_chan (i j : Nat) (f : Req → Req) : (s.updReq i f).chan j = s.chan j := rfl
@[simp] theorem State.updReq_eng (i j : Nat) (f : Req → Req) : (s.updReq i f).eng j = s.eng j := rfl
@[simp] theorem State.updReq_lpcOf (i j : Nat) (f : Req → Req) : (s.updReq i f).lpcOf j = s.lpcOf j := rfl
@[simp] theorem State.updReq_compOf (i j : Nat) (f : Req → Req) : (s.updReq i f).compOf j = s.compOf j := rfl
@[simp] theorem State.updReq_sieveOf (i j : Nat) (f : Req → Req) : (s.updReq i f).sieveOf j = s.sieveOf j := rfl
@[simp] theorem State.updReq_ring (i j : Nat) (f : Req → Req) : (s.updReq i f).ring j = s.ring j := rfl
@[simp] theorem State.updReq_tag (i j : Nat) (f : Req → Req) : (s.updReq i f).tag j = s.tag j := rfl
@[simp] theorem State.updReq_group (i j : Nat) (f : Req → Req) : (s.updReq i f).group j = s.group j := rfl
@[simp] theorem State.updReq_tenant (i j : Nat) (f : Req → Req) : (s.updReq i f).tenant j = s.tenant j := rfl
@[simp] theorem State.updReq_slot (i j : Nat) (f : Req → Req) : (s.updReq i f).slot j = s.slot j := rfl
@[simp] theorem State.updReq_ld (i j : Nat) (f : Req → Req) : (s.updReq i f).ld j = s.ld j := rfl
@[simp] theorem State.updReq_acctOf (i j : Nat) (f : Req → Req) : (s.updReq i f).acctOf j = s.acctOf j := rfl
@[simp] theorem State.updReq_slice (i j : Nat) (f : Req → Req) : (s.updReq i f).slice j = s.slice j := rfl
@[simp] theorem State.updReq_tpwr (i j : Nat) (f : Req → Req) : (s.updReq i f).tpwr j = s.tpwr j := rfl
@[simp] theorem State.updReq_cmp (i j : Nat) (f : Req → Req) : (s.updReq i f).cmp j = s.cmp j := rfl
@[simp] theorem State.updReq_link (i j : Nat) (f : Req → Req) : (s.updReq i f).link j = s.link j := rfl
@[simp] theorem State.updReq_lnd (i j : Nat) (f : Req → Req) : (s.updReq i f).lnd j = s.lnd j := rfl
@[simp] theorem State.updReq_conn (i j : Nat) (f : Req → Req) : (s.updReq i f).conn j = s.conn j := rfl
@[simp] theorem State.updReq_sq (i j : Nat) (f : Req → Req) : (s.updReq i f).sq j = s.sq j := rfl
@[simp] theorem State.updReq_cq (i j : Nat) (f : Req → Req) : (s.updReq i f).cq j = s.cq j := rfl
@[simp] theorem State.updReq_live (i : Nat) (f : Req → Req) : (s.updReq i f).live = s.live := rfl

@[simp] theorem State.updTenant_die (i j : Nat) (f : Tenant → Tenant) : (s.updTenant i f).die j = s.die j := rfl
@[simp] theorem State.updTenant_tile (i j : Nat) (f : Tenant → Tenant) : (s.updTenant i f).tile j = s.tile j := rfl
@[simp] theorem State.updTenant_chan (i j : Nat) (f : Tenant → Tenant) : (s.updTenant i f).chan j = s.chan j := rfl
@[simp] theorem State.updTenant_eng (i j : Nat) (f : Tenant → Tenant) : (s.updTenant i f).eng j = s.eng j := rfl
@[simp] theorem State.updTenant_lpcOf (i j : Nat) (f : Tenant → Tenant) : (s.updTenant i f).lpcOf j = s.lpcOf j := rfl
@[simp] theorem State.updTenant_compOf (i j : Nat) (f : Tenant → Tenant) : (s.updTenant i f).compOf j = s.compOf j := rfl
@[simp] theorem State.updTenant_sieveOf (i j : Nat) (f : Tenant → Tenant) : (s.updTenant i f).sieveOf j = s.sieveOf j := rfl
@[simp] theorem State.updTenant_ring (i j : Nat) (f : Tenant → Tenant) : (s.updTenant i f).ring j = s.ring j := rfl
@[simp] theorem State.updTenant_tag (i j : Nat) (f : Tenant → Tenant) : (s.updTenant i f).tag j = s.tag j := rfl
@[simp] theorem State.updTenant_group (i j : Nat) (f : Tenant → Tenant) : (s.updTenant i f).group j = s.group j := rfl
@[simp] theorem State.updTenant_req (i j : Nat) (f : Tenant → Tenant) : (s.updTenant i f).req j = s.req j := rfl
@[simp] theorem State.updTenant_slot (i j : Nat) (f : Tenant → Tenant) : (s.updTenant i f).slot j = s.slot j := rfl
@[simp] theorem State.updTenant_ld (i j : Nat) (f : Tenant → Tenant) : (s.updTenant i f).ld j = s.ld j := rfl
@[simp] theorem State.updTenant_acctOf (i j : Nat) (f : Tenant → Tenant) : (s.updTenant i f).acctOf j = s.acctOf j := rfl
@[simp] theorem State.updTenant_slice (i j : Nat) (f : Tenant → Tenant) : (s.updTenant i f).slice j = s.slice j := rfl
@[simp] theorem State.updTenant_tpwr (i j : Nat) (f : Tenant → Tenant) : (s.updTenant i f).tpwr j = s.tpwr j := rfl
@[simp] theorem State.updTenant_cmp (i j : Nat) (f : Tenant → Tenant) : (s.updTenant i f).cmp j = s.cmp j := rfl
@[simp] theorem State.updTenant_link (i j : Nat) (f : Tenant → Tenant) : (s.updTenant i f).link j = s.link j := rfl
@[simp] theorem State.updTenant_lnd (i j : Nat) (f : Tenant → Tenant) : (s.updTenant i f).lnd j = s.lnd j := rfl
@[simp] theorem State.updTenant_conn (i j : Nat) (f : Tenant → Tenant) : (s.updTenant i f).conn j = s.conn j := rfl
@[simp] theorem State.updTenant_sq (i j : Nat) (f : Tenant → Tenant) : (s.updTenant i f).sq j = s.sq j := rfl
@[simp] theorem State.updTenant_cq (i j : Nat) (f : Tenant → Tenant) : (s.updTenant i f).cq j = s.cq j := rfl
@[simp] theorem State.updTenant_live (i : Nat) (f : Tenant → Tenant) : (s.updTenant i f).live = s.live := rfl

@[simp] theorem State.updSlot_die (i j : Nat) (f : Slot → Slot) : (s.updSlot i f).die j = s.die j := rfl
@[simp] theorem State.updSlot_tile (i j : Nat) (f : Slot → Slot) : (s.updSlot i f).tile j = s.tile j := rfl
@[simp] theorem State.updSlot_chan (i j : Nat) (f : Slot → Slot) : (s.updSlot i f).chan j = s.chan j := rfl
@[simp] theorem State.updSlot_eng (i j : Nat) (f : Slot → Slot) : (s.updSlot i f).eng j = s.eng j := rfl
@[simp] theorem State.updSlot_lpcOf (i j : Nat) (f : Slot → Slot) : (s.updSlot i f).lpcOf j = s.lpcOf j := rfl
@[simp] theorem State.updSlot_compOf (i j : Nat) (f : Slot → Slot) : (s.updSlot i f).compOf j = s.compOf j := rfl
@[simp] theorem State.updSlot_sieveOf (i j : Nat) (f : Slot → Slot) : (s.updSlot i f).sieveOf j = s.sieveOf j := rfl
@[simp] theorem State.updSlot_ring (i j : Nat) (f : Slot → Slot) : (s.updSlot i f).ring j = s.ring j := rfl
@[simp] theorem State.updSlot_tag (i j : Nat) (f : Slot → Slot) : (s.updSlot i f).tag j = s.tag j := rfl
@[simp] theorem State.updSlot_group (i j : Nat) (f : Slot → Slot) : (s.updSlot i f).group j = s.group j := rfl
@[simp] theorem State.updSlot_req (i j : Nat) (f : Slot → Slot) : (s.updSlot i f).req j = s.req j := rfl
@[simp] theorem State.updSlot_tenant (i j : Nat) (f : Slot → Slot) : (s.updSlot i f).tenant j = s.tenant j := rfl
@[simp] theorem State.updSlot_ld (i j : Nat) (f : Slot → Slot) : (s.updSlot i f).ld j = s.ld j := rfl
@[simp] theorem State.updSlot_acctOf (i j : Nat) (f : Slot → Slot) : (s.updSlot i f).acctOf j = s.acctOf j := rfl
@[simp] theorem State.updSlot_slice (i j : Nat) (f : Slot → Slot) : (s.updSlot i f).slice j = s.slice j := rfl
@[simp] theorem State.updSlot_tpwr (i j : Nat) (f : Slot → Slot) : (s.updSlot i f).tpwr j = s.tpwr j := rfl
@[simp] theorem State.updSlot_cmp (i j : Nat) (f : Slot → Slot) : (s.updSlot i f).cmp j = s.cmp j := rfl
@[simp] theorem State.updSlot_link (i j : Nat) (f : Slot → Slot) : (s.updSlot i f).link j = s.link j := rfl
@[simp] theorem State.updSlot_lnd (i j : Nat) (f : Slot → Slot) : (s.updSlot i f).lnd j = s.lnd j := rfl
@[simp] theorem State.updSlot_conn (i j : Nat) (f : Slot → Slot) : (s.updSlot i f).conn j = s.conn j := rfl
@[simp] theorem State.updSlot_sq (i j : Nat) (f : Slot → Slot) : (s.updSlot i f).sq j = s.sq j := rfl
@[simp] theorem State.updSlot_cq (i j : Nat) (f : Slot → Slot) : (s.updSlot i f).cq j = s.cq j := rfl
@[simp] theorem State.updSlot_live (i : Nat) (f : Slot → Slot) : (s.updSlot i f).live = s.live := rfl

@[simp] theorem State.updLd_die (i j : Nat) (f : LDev → LDev) : (s.updLd i f).die j = s.die j := rfl
@[simp] theorem State.updLd_tile (i j : Nat) (f : LDev → LDev) : (s.updLd i f).tile j = s.tile j := rfl
@[simp] theorem State.updLd_chan (i j : Nat) (f : LDev → LDev) : (s.updLd i f).chan j = s.chan j := rfl
@[simp] theorem State.updLd_eng (i j : Nat) (f : LDev → LDev) : (s.updLd i f).eng j = s.eng j := rfl
@[simp] theorem State.updLd_lpcOf (i j : Nat) (f : LDev → LDev) : (s.updLd i f).lpcOf j = s.lpcOf j := rfl
@[simp] theorem State.updLd_compOf (i j : Nat) (f : LDev → LDev) : (s.updLd i f).compOf j = s.compOf j := rfl
@[simp] theorem State.updLd_sieveOf (i j : Nat) (f : LDev → LDev) : (s.updLd i f).sieveOf j = s.sieveOf j := rfl
@[simp] theorem State.updLd_ring (i j : Nat) (f : LDev → LDev) : (s.updLd i f).ring j = s.ring j := rfl
@[simp] theorem State.updLd_tag (i j : Nat) (f : LDev → LDev) : (s.updLd i f).tag j = s.tag j := rfl
@[simp] theorem State.updLd_group (i j : Nat) (f : LDev → LDev) : (s.updLd i f).group j = s.group j := rfl
@[simp] theorem State.updLd_req (i j : Nat) (f : LDev → LDev) : (s.updLd i f).req j = s.req j := rfl
@[simp] theorem State.updLd_tenant (i j : Nat) (f : LDev → LDev) : (s.updLd i f).tenant j = s.tenant j := rfl
@[simp] theorem State.updLd_slot (i j : Nat) (f : LDev → LDev) : (s.updLd i f).slot j = s.slot j := rfl
@[simp] theorem State.updLd_acctOf (i j : Nat) (f : LDev → LDev) : (s.updLd i f).acctOf j = s.acctOf j := rfl
@[simp] theorem State.updLd_slice (i j : Nat) (f : LDev → LDev) : (s.updLd i f).slice j = s.slice j := rfl
@[simp] theorem State.updLd_tpwr (i j : Nat) (f : LDev → LDev) : (s.updLd i f).tpwr j = s.tpwr j := rfl
@[simp] theorem State.updLd_cmp (i j : Nat) (f : LDev → LDev) : (s.updLd i f).cmp j = s.cmp j := rfl
@[simp] theorem State.updLd_link (i j : Nat) (f : LDev → LDev) : (s.updLd i f).link j = s.link j := rfl
@[simp] theorem State.updLd_lnd (i j : Nat) (f : LDev → LDev) : (s.updLd i f).lnd j = s.lnd j := rfl
@[simp] theorem State.updLd_conn (i j : Nat) (f : LDev → LDev) : (s.updLd i f).conn j = s.conn j := rfl
@[simp] theorem State.updLd_sq (i j : Nat) (f : LDev → LDev) : (s.updLd i f).sq j = s.sq j := rfl
@[simp] theorem State.updLd_cq (i j : Nat) (f : LDev → LDev) : (s.updLd i f).cq j = s.cq j := rfl
@[simp] theorem State.updLd_live (i : Nat) (f : LDev → LDev) : (s.updLd i f).live = s.live := rfl

@[simp] theorem State.updAcct_die (i j : Nat) (f : Acct → Acct) : (s.updAcct i f).die j = s.die j := rfl
@[simp] theorem State.updAcct_tile (i j : Nat) (f : Acct → Acct) : (s.updAcct i f).tile j = s.tile j := rfl
@[simp] theorem State.updAcct_chan (i j : Nat) (f : Acct → Acct) : (s.updAcct i f).chan j = s.chan j := rfl
@[simp] theorem State.updAcct_eng (i j : Nat) (f : Acct → Acct) : (s.updAcct i f).eng j = s.eng j := rfl
@[simp] theorem State.updAcct_lpcOf (i j : Nat) (f : Acct → Acct) : (s.updAcct i f).lpcOf j = s.lpcOf j := rfl
@[simp] theorem State.updAcct_compOf (i j : Nat) (f : Acct → Acct) : (s.updAcct i f).compOf j = s.compOf j := rfl
@[simp] theorem State.updAcct_sieveOf (i j : Nat) (f : Acct → Acct) : (s.updAcct i f).sieveOf j = s.sieveOf j := rfl
@[simp] theorem State.updAcct_ring (i j : Nat) (f : Acct → Acct) : (s.updAcct i f).ring j = s.ring j := rfl
@[simp] theorem State.updAcct_tag (i j : Nat) (f : Acct → Acct) : (s.updAcct i f).tag j = s.tag j := rfl
@[simp] theorem State.updAcct_group (i j : Nat) (f : Acct → Acct) : (s.updAcct i f).group j = s.group j := rfl
@[simp] theorem State.updAcct_req (i j : Nat) (f : Acct → Acct) : (s.updAcct i f).req j = s.req j := rfl
@[simp] theorem State.updAcct_tenant (i j : Nat) (f : Acct → Acct) : (s.updAcct i f).tenant j = s.tenant j := rfl
@[simp] theorem State.updAcct_slot (i j : Nat) (f : Acct → Acct) : (s.updAcct i f).slot j = s.slot j := rfl
@[simp] theorem State.updAcct_ld (i j : Nat) (f : Acct → Acct) : (s.updAcct i f).ld j = s.ld j := rfl
@[simp] theorem State.updAcct_slice (i j : Nat) (f : Acct → Acct) : (s.updAcct i f).slice j = s.slice j := rfl
@[simp] theorem State.updAcct_tpwr (i j : Nat) (f : Acct → Acct) : (s.updAcct i f).tpwr j = s.tpwr j := rfl
@[simp] theorem State.updAcct_cmp (i j : Nat) (f : Acct → Acct) : (s.updAcct i f).cmp j = s.cmp j := rfl
@[simp] theorem State.updAcct_link (i j : Nat) (f : Acct → Acct) : (s.updAcct i f).link j = s.link j := rfl
@[simp] theorem State.updAcct_lnd (i j : Nat) (f : Acct → Acct) : (s.updAcct i f).lnd j = s.lnd j := rfl
@[simp] theorem State.updAcct_conn (i j : Nat) (f : Acct → Acct) : (s.updAcct i f).conn j = s.conn j := rfl
@[simp] theorem State.updAcct_sq (i j : Nat) (f : Acct → Acct) : (s.updAcct i f).sq j = s.sq j := rfl
@[simp] theorem State.updAcct_cq (i j : Nat) (f : Acct → Acct) : (s.updAcct i f).cq j = s.cq j := rfl
@[simp] theorem State.updAcct_live (i : Nat) (f : Acct → Acct) : (s.updAcct i f).live = s.live := rfl

@[simp] theorem State.updSlice_die (i j : Nat) (f : AtuSlice → AtuSlice) : (s.updSlice i f).die j = s.die j := rfl
@[simp] theorem State.updSlice_tile (i j : Nat) (f : AtuSlice → AtuSlice) : (s.updSlice i f).tile j = s.tile j := rfl
@[simp] theorem State.updSlice_chan (i j : Nat) (f : AtuSlice → AtuSlice) : (s.updSlice i f).chan j = s.chan j := rfl
@[simp] theorem State.updSlice_eng (i j : Nat) (f : AtuSlice → AtuSlice) : (s.updSlice i f).eng j = s.eng j := rfl
@[simp] theorem State.updSlice_lpcOf (i j : Nat) (f : AtuSlice → AtuSlice) : (s.updSlice i f).lpcOf j = s.lpcOf j := rfl
@[simp] theorem State.updSlice_compOf (i j : Nat) (f : AtuSlice → AtuSlice) : (s.updSlice i f).compOf j = s.compOf j := rfl
@[simp] theorem State.updSlice_sieveOf (i j : Nat) (f : AtuSlice → AtuSlice) : (s.updSlice i f).sieveOf j = s.sieveOf j := rfl
@[simp] theorem State.updSlice_ring (i j : Nat) (f : AtuSlice → AtuSlice) : (s.updSlice i f).ring j = s.ring j := rfl
@[simp] theorem State.updSlice_tag (i j : Nat) (f : AtuSlice → AtuSlice) : (s.updSlice i f).tag j = s.tag j := rfl
@[simp] theorem State.updSlice_group (i j : Nat) (f : AtuSlice → AtuSlice) : (s.updSlice i f).group j = s.group j := rfl
@[simp] theorem State.updSlice_req (i j : Nat) (f : AtuSlice → AtuSlice) : (s.updSlice i f).req j = s.req j := rfl
@[simp] theorem State.updSlice_tenant (i j : Nat) (f : AtuSlice → AtuSlice) : (s.updSlice i f).tenant j = s.tenant j := rfl
@[simp] theorem State.updSlice_slot (i j : Nat) (f : AtuSlice → AtuSlice) : (s.updSlice i f).slot j = s.slot j := rfl
@[simp] theorem State.updSlice_ld (i j : Nat) (f : AtuSlice → AtuSlice) : (s.updSlice i f).ld j = s.ld j := rfl
@[simp] theorem State.updSlice_acctOf (i j : Nat) (f : AtuSlice → AtuSlice) : (s.updSlice i f).acctOf j = s.acctOf j := rfl
@[simp] theorem State.updSlice_tpwr (i j : Nat) (f : AtuSlice → AtuSlice) : (s.updSlice i f).tpwr j = s.tpwr j := rfl
@[simp] theorem State.updSlice_cmp (i j : Nat) (f : AtuSlice → AtuSlice) : (s.updSlice i f).cmp j = s.cmp j := rfl
@[simp] theorem State.updSlice_link (i j : Nat) (f : AtuSlice → AtuSlice) : (s.updSlice i f).link j = s.link j := rfl
@[simp] theorem State.updSlice_lnd (i j : Nat) (f : AtuSlice → AtuSlice) : (s.updSlice i f).lnd j = s.lnd j := rfl
@[simp] theorem State.updSlice_conn (i j : Nat) (f : AtuSlice → AtuSlice) : (s.updSlice i f).conn j = s.conn j := rfl
@[simp] theorem State.updSlice_sq (i j : Nat) (f : AtuSlice → AtuSlice) : (s.updSlice i f).sq j = s.sq j := rfl
@[simp] theorem State.updSlice_cq (i j : Nat) (f : AtuSlice → AtuSlice) : (s.updSlice i f).cq j = s.cq j := rfl
@[simp] theorem State.updSlice_live (i : Nat) (f : AtuSlice → AtuSlice) : (s.updSlice i f).live = s.live := rfl

@[simp] theorem State.updTpwr_die (i j : Nat) (f : TilePwr → TilePwr) : (s.updTpwr i f).die j = s.die j := rfl
@[simp] theorem State.updTpwr_tile (i j : Nat) (f : TilePwr → TilePwr) : (s.updTpwr i f).tile j = s.tile j := rfl
@[simp] theorem State.updTpwr_chan (i j : Nat) (f : TilePwr → TilePwr) : (s.updTpwr i f).chan j = s.chan j := rfl
@[simp] theorem State.updTpwr_eng (i j : Nat) (f : TilePwr → TilePwr) : (s.updTpwr i f).eng j = s.eng j := rfl
@[simp] theorem State.updTpwr_lpcOf (i j : Nat) (f : TilePwr → TilePwr) : (s.updTpwr i f).lpcOf j = s.lpcOf j := rfl
@[simp] theorem State.updTpwr_compOf (i j : Nat) (f : TilePwr → TilePwr) : (s.updTpwr i f).compOf j = s.compOf j := rfl
@[simp] theorem State.updTpwr_sieveOf (i j : Nat) (f : TilePwr → TilePwr) : (s.updTpwr i f).sieveOf j = s.sieveOf j := rfl
@[simp] theorem State.updTpwr_ring (i j : Nat) (f : TilePwr → TilePwr) : (s.updTpwr i f).ring j = s.ring j := rfl
@[simp] theorem State.updTpwr_tag (i j : Nat) (f : TilePwr → TilePwr) : (s.updTpwr i f).tag j = s.tag j := rfl
@[simp] theorem State.updTpwr_group (i j : Nat) (f : TilePwr → TilePwr) : (s.updTpwr i f).group j = s.group j := rfl
@[simp] theorem State.updTpwr_req (i j : Nat) (f : TilePwr → TilePwr) : (s.updTpwr i f).req j = s.req j := rfl
@[simp] theorem State.updTpwr_tenant (i j : Nat) (f : TilePwr → TilePwr) : (s.updTpwr i f).tenant j = s.tenant j := rfl
@[simp] theorem State.updTpwr_slot (i j : Nat) (f : TilePwr → TilePwr) : (s.updTpwr i f).slot j = s.slot j := rfl
@[simp] theorem State.updTpwr_ld (i j : Nat) (f : TilePwr → TilePwr) : (s.updTpwr i f).ld j = s.ld j := rfl
@[simp] theorem State.updTpwr_acctOf (i j : Nat) (f : TilePwr → TilePwr) : (s.updTpwr i f).acctOf j = s.acctOf j := rfl
@[simp] theorem State.updTpwr_slice (i j : Nat) (f : TilePwr → TilePwr) : (s.updTpwr i f).slice j = s.slice j := rfl
@[simp] theorem State.updTpwr_cmp (i j : Nat) (f : TilePwr → TilePwr) : (s.updTpwr i f).cmp j = s.cmp j := rfl
@[simp] theorem State.updTpwr_link (i j : Nat) (f : TilePwr → TilePwr) : (s.updTpwr i f).link j = s.link j := rfl
@[simp] theorem State.updTpwr_lnd (i j : Nat) (f : TilePwr → TilePwr) : (s.updTpwr i f).lnd j = s.lnd j := rfl
@[simp] theorem State.updTpwr_conn (i j : Nat) (f : TilePwr → TilePwr) : (s.updTpwr i f).conn j = s.conn j := rfl
@[simp] theorem State.updTpwr_sq (i j : Nat) (f : TilePwr → TilePwr) : (s.updTpwr i f).sq j = s.sq j := rfl
@[simp] theorem State.updTpwr_cq (i j : Nat) (f : TilePwr → TilePwr) : (s.updTpwr i f).cq j = s.cq j := rfl
@[simp] theorem State.updTpwr_live (i : Nat) (f : TilePwr → TilePwr) : (s.updTpwr i f).live = s.live := rfl

@[simp] theorem State.updCmp_die (i j : Nat) (f : Cmp → Cmp) : (s.updCmp i f).die j = s.die j := rfl
@[simp] theorem State.updCmp_tile (i j : Nat) (f : Cmp → Cmp) : (s.updCmp i f).tile j = s.tile j := rfl
@[simp] theorem State.updCmp_chan (i j : Nat) (f : Cmp → Cmp) : (s.updCmp i f).chan j = s.chan j := rfl
@[simp] theorem State.updCmp_eng (i j : Nat) (f : Cmp → Cmp) : (s.updCmp i f).eng j = s.eng j := rfl
@[simp] theorem State.updCmp_lpcOf (i j : Nat) (f : Cmp → Cmp) : (s.updCmp i f).lpcOf j = s.lpcOf j := rfl
@[simp] theorem State.updCmp_compOf (i j : Nat) (f : Cmp → Cmp) : (s.updCmp i f).compOf j = s.compOf j := rfl
@[simp] theorem State.updCmp_sieveOf (i j : Nat) (f : Cmp → Cmp) : (s.updCmp i f).sieveOf j = s.sieveOf j := rfl
@[simp] theorem State.updCmp_ring (i j : Nat) (f : Cmp → Cmp) : (s.updCmp i f).ring j = s.ring j := rfl
@[simp] theorem State.updCmp_tag (i j : Nat) (f : Cmp → Cmp) : (s.updCmp i f).tag j = s.tag j := rfl
@[simp] theorem State.updCmp_group (i j : Nat) (f : Cmp → Cmp) : (s.updCmp i f).group j = s.group j := rfl
@[simp] theorem State.updCmp_req (i j : Nat) (f : Cmp → Cmp) : (s.updCmp i f).req j = s.req j := rfl
@[simp] theorem State.updCmp_tenant (i j : Nat) (f : Cmp → Cmp) : (s.updCmp i f).tenant j = s.tenant j := rfl
@[simp] theorem State.updCmp_slot (i j : Nat) (f : Cmp → Cmp) : (s.updCmp i f).slot j = s.slot j := rfl
@[simp] theorem State.updCmp_ld (i j : Nat) (f : Cmp → Cmp) : (s.updCmp i f).ld j = s.ld j := rfl
@[simp] theorem State.updCmp_acctOf (i j : Nat) (f : Cmp → Cmp) : (s.updCmp i f).acctOf j = s.acctOf j := rfl
@[simp] theorem State.updCmp_slice (i j : Nat) (f : Cmp → Cmp) : (s.updCmp i f).slice j = s.slice j := rfl
@[simp] theorem State.updCmp_tpwr (i j : Nat) (f : Cmp → Cmp) : (s.updCmp i f).tpwr j = s.tpwr j := rfl
@[simp] theorem State.updCmp_link (i j : Nat) (f : Cmp → Cmp) : (s.updCmp i f).link j = s.link j := rfl
@[simp] theorem State.updCmp_lnd (i j : Nat) (f : Cmp → Cmp) : (s.updCmp i f).lnd j = s.lnd j := rfl
@[simp] theorem State.updCmp_conn (i j : Nat) (f : Cmp → Cmp) : (s.updCmp i f).conn j = s.conn j := rfl
@[simp] theorem State.updCmp_sq (i j : Nat) (f : Cmp → Cmp) : (s.updCmp i f).sq j = s.sq j := rfl
@[simp] theorem State.updCmp_cq (i j : Nat) (f : Cmp → Cmp) : (s.updCmp i f).cq j = s.cq j := rfl
@[simp] theorem State.updCmp_live (i : Nat) (f : Cmp → Cmp) : (s.updCmp i f).live = s.live := rfl

@[simp] theorem State.updLink_die (i j : Nat) (f : Link → Link) : (s.updLink i f).die j = s.die j := rfl
@[simp] theorem State.updLink_tile (i j : Nat) (f : Link → Link) : (s.updLink i f).tile j = s.tile j := rfl
@[simp] theorem State.updLink_chan (i j : Nat) (f : Link → Link) : (s.updLink i f).chan j = s.chan j := rfl
@[simp] theorem State.updLink_eng (i j : Nat) (f : Link → Link) : (s.updLink i f).eng j = s.eng j := rfl
@[simp] theorem State.updLink_lpcOf (i j : Nat) (f : Link → Link) : (s.updLink i f).lpcOf j = s.lpcOf j := rfl
@[simp] theorem State.updLink_compOf (i j : Nat) (f : Link → Link) : (s.updLink i f).compOf j = s.compOf j := rfl
@[simp] theorem State.updLink_sieveOf (i j : Nat) (f : Link → Link) : (s.updLink i f).sieveOf j = s.sieveOf j := rfl
@[simp] theorem State.updLink_ring (i j : Nat) (f : Link → Link) : (s.updLink i f).ring j = s.ring j := rfl
@[simp] theorem State.updLink_tag (i j : Nat) (f : Link → Link) : (s.updLink i f).tag j = s.tag j := rfl
@[simp] theorem State.updLink_group (i j : Nat) (f : Link → Link) : (s.updLink i f).group j = s.group j := rfl
@[simp] theorem State.updLink_req (i j : Nat) (f : Link → Link) : (s.updLink i f).req j = s.req j := rfl
@[simp] theorem State.updLink_tenant (i j : Nat) (f : Link → Link) : (s.updLink i f).tenant j = s.tenant j := rfl
@[simp] theorem State.updLink_slot (i j : Nat) (f : Link → Link) : (s.updLink i f).slot j = s.slot j := rfl
@[simp] theorem State.updLink_ld (i j : Nat) (f : Link → Link) : (s.updLink i f).ld j = s.ld j := rfl
@[simp] theorem State.updLink_acctOf (i j : Nat) (f : Link → Link) : (s.updLink i f).acctOf j = s.acctOf j := rfl
@[simp] theorem State.updLink_slice (i j : Nat) (f : Link → Link) : (s.updLink i f).slice j = s.slice j := rfl
@[simp] theorem State.updLink_tpwr (i j : Nat) (f : Link → Link) : (s.updLink i f).tpwr j = s.tpwr j := rfl
@[simp] theorem State.updLink_cmp (i j : Nat) (f : Link → Link) : (s.updLink i f).cmp j = s.cmp j := rfl
@[simp] theorem State.updLink_lnd (i j : Nat) (f : Link → Link) : (s.updLink i f).lnd j = s.lnd j := rfl
@[simp] theorem State.updLink_conn (i j : Nat) (f : Link → Link) : (s.updLink i f).conn j = s.conn j := rfl
@[simp] theorem State.updLink_sq (i j : Nat) (f : Link → Link) : (s.updLink i f).sq j = s.sq j := rfl
@[simp] theorem State.updLink_cq (i j : Nat) (f : Link → Link) : (s.updLink i f).cq j = s.cq j := rfl
@[simp] theorem State.updLink_live (i : Nat) (f : Link → Link) : (s.updLink i f).live = s.live := rfl

@[simp] theorem State.updLnd_die (i j : Nat) (f : LinkDie → LinkDie) : (s.updLnd i f).die j = s.die j := rfl
@[simp] theorem State.updLnd_tile (i j : Nat) (f : LinkDie → LinkDie) : (s.updLnd i f).tile j = s.tile j := rfl
@[simp] theorem State.updLnd_chan (i j : Nat) (f : LinkDie → LinkDie) : (s.updLnd i f).chan j = s.chan j := rfl
@[simp] theorem State.updLnd_eng (i j : Nat) (f : LinkDie → LinkDie) : (s.updLnd i f).eng j = s.eng j := rfl
@[simp] theorem State.updLnd_lpcOf (i j : Nat) (f : LinkDie → LinkDie) : (s.updLnd i f).lpcOf j = s.lpcOf j := rfl
@[simp] theorem State.updLnd_compOf (i j : Nat) (f : LinkDie → LinkDie) : (s.updLnd i f).compOf j = s.compOf j := rfl
@[simp] theorem State.updLnd_sieveOf (i j : Nat) (f : LinkDie → LinkDie) : (s.updLnd i f).sieveOf j = s.sieveOf j := rfl
@[simp] theorem State.updLnd_ring (i j : Nat) (f : LinkDie → LinkDie) : (s.updLnd i f).ring j = s.ring j := rfl
@[simp] theorem State.updLnd_tag (i j : Nat) (f : LinkDie → LinkDie) : (s.updLnd i f).tag j = s.tag j := rfl
@[simp] theorem State.updLnd_group (i j : Nat) (f : LinkDie → LinkDie) : (s.updLnd i f).group j = s.group j := rfl
@[simp] theorem State.updLnd_req (i j : Nat) (f : LinkDie → LinkDie) : (s.updLnd i f).req j = s.req j := rfl
@[simp] theorem State.updLnd_tenant (i j : Nat) (f : LinkDie → LinkDie) : (s.updLnd i f).tenant j = s.tenant j := rfl
@[simp] theorem State.updLnd_slot (i j : Nat) (f : LinkDie → LinkDie) : (s.updLnd i f).slot j = s.slot j := rfl
@[simp] theorem State.updLnd_ld (i j : Nat) (f : LinkDie → LinkDie) : (s.updLnd i f).ld j = s.ld j := rfl
@[simp] theorem State.updLnd_acctOf (i j : Nat) (f : LinkDie → LinkDie) : (s.updLnd i f).acctOf j = s.acctOf j := rfl
@[simp] theorem State.updLnd_slice (i j : Nat) (f : LinkDie → LinkDie) : (s.updLnd i f).slice j = s.slice j := rfl
@[simp] theorem State.updLnd_tpwr (i j : Nat) (f : LinkDie → LinkDie) : (s.updLnd i f).tpwr j = s.tpwr j := rfl
@[simp] theorem State.updLnd_cmp (i j : Nat) (f : LinkDie → LinkDie) : (s.updLnd i f).cmp j = s.cmp j := rfl
@[simp] theorem State.updLnd_link (i j : Nat) (f : LinkDie → LinkDie) : (s.updLnd i f).link j = s.link j := rfl
@[simp] theorem State.updLnd_conn (i j : Nat) (f : LinkDie → LinkDie) : (s.updLnd i f).conn j = s.conn j := rfl
@[simp] theorem State.updLnd_sq (i j : Nat) (f : LinkDie → LinkDie) : (s.updLnd i f).sq j = s.sq j := rfl
@[simp] theorem State.updLnd_cq (i j : Nat) (f : LinkDie → LinkDie) : (s.updLnd i f).cq j = s.cq j := rfl
@[simp] theorem State.updLnd_live (i : Nat) (f : LinkDie → LinkDie) : (s.updLnd i f).live = s.live := rfl

@[simp] theorem State.updConn_die (i j : Nat) (f : Conn → Conn) : (s.updConn i f).die j = s.die j := rfl
@[simp] theorem State.updConn_tile (i j : Nat) (f : Conn → Conn) : (s.updConn i f).tile j = s.tile j := rfl
@[simp] theorem State.updConn_chan (i j : Nat) (f : Conn → Conn) : (s.updConn i f).chan j = s.chan j := rfl
@[simp] theorem State.updConn_eng (i j : Nat) (f : Conn → Conn) : (s.updConn i f).eng j = s.eng j := rfl
@[simp] theorem State.updConn_lpcOf (i j : Nat) (f : Conn → Conn) : (s.updConn i f).lpcOf j = s.lpcOf j := rfl
@[simp] theorem State.updConn_compOf (i j : Nat) (f : Conn → Conn) : (s.updConn i f).compOf j = s.compOf j := rfl
@[simp] theorem State.updConn_sieveOf (i j : Nat) (f : Conn → Conn) : (s.updConn i f).sieveOf j = s.sieveOf j := rfl
@[simp] theorem State.updConn_ring (i j : Nat) (f : Conn → Conn) : (s.updConn i f).ring j = s.ring j := rfl
@[simp] theorem State.updConn_tag (i j : Nat) (f : Conn → Conn) : (s.updConn i f).tag j = s.tag j := rfl
@[simp] theorem State.updConn_group (i j : Nat) (f : Conn → Conn) : (s.updConn i f).group j = s.group j := rfl
@[simp] theorem State.updConn_req (i j : Nat) (f : Conn → Conn) : (s.updConn i f).req j = s.req j := rfl
@[simp] theorem State.updConn_tenant (i j : Nat) (f : Conn → Conn) : (s.updConn i f).tenant j = s.tenant j := rfl
@[simp] theorem State.updConn_slot (i j : Nat) (f : Conn → Conn) : (s.updConn i f).slot j = s.slot j := rfl
@[simp] theorem State.updConn_ld (i j : Nat) (f : Conn → Conn) : (s.updConn i f).ld j = s.ld j := rfl
@[simp] theorem State.updConn_acctOf (i j : Nat) (f : Conn → Conn) : (s.updConn i f).acctOf j = s.acctOf j := rfl
@[simp] theorem State.updConn_slice (i j : Nat) (f : Conn → Conn) : (s.updConn i f).slice j = s.slice j := rfl
@[simp] theorem State.updConn_tpwr (i j : Nat) (f : Conn → Conn) : (s.updConn i f).tpwr j = s.tpwr j := rfl
@[simp] theorem State.updConn_cmp (i j : Nat) (f : Conn → Conn) : (s.updConn i f).cmp j = s.cmp j := rfl
@[simp] theorem State.updConn_link (i j : Nat) (f : Conn → Conn) : (s.updConn i f).link j = s.link j := rfl
@[simp] theorem State.updConn_lnd (i j : Nat) (f : Conn → Conn) : (s.updConn i f).lnd j = s.lnd j := rfl
@[simp] theorem State.updConn_sq (i j : Nat) (f : Conn → Conn) : (s.updConn i f).sq j = s.sq j := rfl
@[simp] theorem State.updConn_cq (i j : Nat) (f : Conn → Conn) : (s.updConn i f).cq j = s.cq j := rfl
@[simp] theorem State.updConn_live (i : Nat) (f : Conn → Conn) : (s.updConn i f).live = s.live := rfl

@[simp] theorem State.updSq_die (i j : Nat) (f : SendQ → SendQ) : (s.updSq i f).die j = s.die j := rfl
@[simp] theorem State.updSq_tile (i j : Nat) (f : SendQ → SendQ) : (s.updSq i f).tile j = s.tile j := rfl
@[simp] theorem State.updSq_chan (i j : Nat) (f : SendQ → SendQ) : (s.updSq i f).chan j = s.chan j := rfl
@[simp] theorem State.updSq_eng (i j : Nat) (f : SendQ → SendQ) : (s.updSq i f).eng j = s.eng j := rfl
@[simp] theorem State.updSq_lpcOf (i j : Nat) (f : SendQ → SendQ) : (s.updSq i f).lpcOf j = s.lpcOf j := rfl
@[simp] theorem State.updSq_compOf (i j : Nat) (f : SendQ → SendQ) : (s.updSq i f).compOf j = s.compOf j := rfl
@[simp] theorem State.updSq_sieveOf (i j : Nat) (f : SendQ → SendQ) : (s.updSq i f).sieveOf j = s.sieveOf j := rfl
@[simp] theorem State.updSq_ring (i j : Nat) (f : SendQ → SendQ) : (s.updSq i f).ring j = s.ring j := rfl
@[simp] theorem State.updSq_tag (i j : Nat) (f : SendQ → SendQ) : (s.updSq i f).tag j = s.tag j := rfl
@[simp] theorem State.updSq_group (i j : Nat) (f : SendQ → SendQ) : (s.updSq i f).group j = s.group j := rfl
@[simp] theorem State.updSq_req (i j : Nat) (f : SendQ → SendQ) : (s.updSq i f).req j = s.req j := rfl
@[simp] theorem State.updSq_tenant (i j : Nat) (f : SendQ → SendQ) : (s.updSq i f).tenant j = s.tenant j := rfl
@[simp] theorem State.updSq_slot (i j : Nat) (f : SendQ → SendQ) : (s.updSq i f).slot j = s.slot j := rfl
@[simp] theorem State.updSq_ld (i j : Nat) (f : SendQ → SendQ) : (s.updSq i f).ld j = s.ld j := rfl
@[simp] theorem State.updSq_acctOf (i j : Nat) (f : SendQ → SendQ) : (s.updSq i f).acctOf j = s.acctOf j := rfl
@[simp] theorem State.updSq_slice (i j : Nat) (f : SendQ → SendQ) : (s.updSq i f).slice j = s.slice j := rfl
@[simp] theorem State.updSq_tpwr (i j : Nat) (f : SendQ → SendQ) : (s.updSq i f).tpwr j = s.tpwr j := rfl
@[simp] theorem State.updSq_cmp (i j : Nat) (f : SendQ → SendQ) : (s.updSq i f).cmp j = s.cmp j := rfl
@[simp] theorem State.updSq_link (i j : Nat) (f : SendQ → SendQ) : (s.updSq i f).link j = s.link j := rfl
@[simp] theorem State.updSq_lnd (i j : Nat) (f : SendQ → SendQ) : (s.updSq i f).lnd j = s.lnd j := rfl
@[simp] theorem State.updSq_conn (i j : Nat) (f : SendQ → SendQ) : (s.updSq i f).conn j = s.conn j := rfl
@[simp] theorem State.updSq_cq (i j : Nat) (f : SendQ → SendQ) : (s.updSq i f).cq j = s.cq j := rfl
@[simp] theorem State.updSq_live (i : Nat) (f : SendQ → SendQ) : (s.updSq i f).live = s.live := rfl

@[simp] theorem State.updCq_die (i j : Nat) (f : CplQ → CplQ) : (s.updCq i f).die j = s.die j := rfl
@[simp] theorem State.updCq_tile (i j : Nat) (f : CplQ → CplQ) : (s.updCq i f).tile j = s.tile j := rfl
@[simp] theorem State.updCq_chan (i j : Nat) (f : CplQ → CplQ) : (s.updCq i f).chan j = s.chan j := rfl
@[simp] theorem State.updCq_eng (i j : Nat) (f : CplQ → CplQ) : (s.updCq i f).eng j = s.eng j := rfl
@[simp] theorem State.updCq_lpcOf (i j : Nat) (f : CplQ → CplQ) : (s.updCq i f).lpcOf j = s.lpcOf j := rfl
@[simp] theorem State.updCq_compOf (i j : Nat) (f : CplQ → CplQ) : (s.updCq i f).compOf j = s.compOf j := rfl
@[simp] theorem State.updCq_sieveOf (i j : Nat) (f : CplQ → CplQ) : (s.updCq i f).sieveOf j = s.sieveOf j := rfl
@[simp] theorem State.updCq_ring (i j : Nat) (f : CplQ → CplQ) : (s.updCq i f).ring j = s.ring j := rfl
@[simp] theorem State.updCq_tag (i j : Nat) (f : CplQ → CplQ) : (s.updCq i f).tag j = s.tag j := rfl
@[simp] theorem State.updCq_group (i j : Nat) (f : CplQ → CplQ) : (s.updCq i f).group j = s.group j := rfl
@[simp] theorem State.updCq_req (i j : Nat) (f : CplQ → CplQ) : (s.updCq i f).req j = s.req j := rfl
@[simp] theorem State.updCq_tenant (i j : Nat) (f : CplQ → CplQ) : (s.updCq i f).tenant j = s.tenant j := rfl
@[simp] theorem State.updCq_slot (i j : Nat) (f : CplQ → CplQ) : (s.updCq i f).slot j = s.slot j := rfl
@[simp] theorem State.updCq_ld (i j : Nat) (f : CplQ → CplQ) : (s.updCq i f).ld j = s.ld j := rfl
@[simp] theorem State.updCq_acctOf (i j : Nat) (f : CplQ → CplQ) : (s.updCq i f).acctOf j = s.acctOf j := rfl
@[simp] theorem State.updCq_slice (i j : Nat) (f : CplQ → CplQ) : (s.updCq i f).slice j = s.slice j := rfl
@[simp] theorem State.updCq_tpwr (i j : Nat) (f : CplQ → CplQ) : (s.updCq i f).tpwr j = s.tpwr j := rfl
@[simp] theorem State.updCq_cmp (i j : Nat) (f : CplQ → CplQ) : (s.updCq i f).cmp j = s.cmp j := rfl
@[simp] theorem State.updCq_link (i j : Nat) (f : CplQ → CplQ) : (s.updCq i f).link j = s.link j := rfl
@[simp] theorem State.updCq_lnd (i j : Nat) (f : CplQ → CplQ) : (s.updCq i f).lnd j = s.lnd j := rfl
@[simp] theorem State.updCq_conn (i j : Nat) (f : CplQ → CplQ) : (s.updCq i f).conn j = s.conn j := rfl
@[simp] theorem State.updCq_sq (i j : Nat) (f : CplQ → CplQ) : (s.updCq i f).sq j = s.sq j := rfl
@[simp] theorem State.updCq_live (i : Nat) (f : CplQ → CplQ) : (s.updCq i f).live = s.live := rfl

@[simp] theorem State.raise_die (src j : Nat) : (s.raise src).die j = s.die j := by unfold State.raise; split <;> rfl
@[simp] theorem State.raise_tile (src j : Nat) : (s.raise src).tile j = s.tile j := by unfold State.raise; split <;> rfl
@[simp] theorem State.raise_chan (src j : Nat) : (s.raise src).chan j = s.chan j := by unfold State.raise; split <;> rfl
@[simp] theorem State.raise_eng (src j : Nat) : (s.raise src).eng j = s.eng j := by unfold State.raise; split <;> rfl
@[simp] theorem State.raise_lpcOf (src j : Nat) : (s.raise src).lpcOf j = s.lpcOf j := by unfold State.raise; split <;> rfl
@[simp] theorem State.raise_compOf (src j : Nat) : (s.raise src).compOf j = s.compOf j := by unfold State.raise; split <;> rfl
@[simp] theorem State.raise_sieveOf (src j : Nat) : (s.raise src).sieveOf j = s.sieveOf j := by unfold State.raise; split <;> rfl
@[simp] theorem State.raise_ring (src j : Nat) : (s.raise src).ring j = s.ring j := by unfold State.raise; split <;> rfl
@[simp] theorem State.raise_tag (src j : Nat) : (s.raise src).tag j = s.tag j := by unfold State.raise; split <;> rfl
@[simp] theorem State.raise_group (src j : Nat) : (s.raise src).group j = s.group j := by unfold State.raise; split <;> rfl
@[simp] theorem State.raise_req (src j : Nat) : (s.raise src).req j = s.req j := by unfold State.raise; split <;> rfl
@[simp] theorem State.raise_tenant (src j : Nat) : (s.raise src).tenant j = s.tenant j := by unfold State.raise; split <;> rfl
@[simp] theorem State.raise_slot (src j : Nat) : (s.raise src).slot j = s.slot j := by unfold State.raise; split <;> rfl
@[simp] theorem State.raise_ld (src j : Nat) : (s.raise src).ld j = s.ld j := by unfold State.raise; split <;> rfl
@[simp] theorem State.raise_acctOf (src j : Nat) : (s.raise src).acctOf j = s.acctOf j := by unfold State.raise; split <;> rfl
@[simp] theorem State.raise_slice (src j : Nat) : (s.raise src).slice j = s.slice j := by unfold State.raise; split <;> rfl
@[simp] theorem State.raise_tpwr (src j : Nat) : (s.raise src).tpwr j = s.tpwr j := by unfold State.raise; split <;> rfl
@[simp] theorem State.raise_cmp (src j : Nat) : (s.raise src).cmp j = s.cmp j := by unfold State.raise; split <;> rfl
@[simp] theorem State.raise_link (src j : Nat) : (s.raise src).link j = s.link j := by unfold State.raise; split <;> rfl
@[simp] theorem State.raise_lnd (src j : Nat) : (s.raise src).lnd j = s.lnd j := by unfold State.raise; split <;> rfl
@[simp] theorem State.raise_conn (src j : Nat) : (s.raise src).conn j = s.conn j := by unfold State.raise; split <;> rfl
@[simp] theorem State.raise_sq (src j : Nat) : (s.raise src).sq j = s.sq j := by unfold State.raise; split <;> rfl
@[simp] theorem State.raise_cq (src j : Nat) : (s.raise src).cq j = s.cq j := by unfold State.raise; split <;> rfl

end Sys2Proof.Machine
end

