-- ==== Sys2Proof/Laws/Tile.lean ====
section
/-!
SUPPORT. Sys2Proof/Laws/Tile.lean: what changing a tile's command or one of its threads does, and what translation leaves.
-/
namespace Sys2Proof.Machine

@[simp] theorem Tile.settle_cur (x : Tile) : x.settle.cur = x.cur := by
  unfold Tile.settle
  split <;> simp_all

@[simp] theorem State.updCmd_cmd? (s : State) (t : Nat) (f : TileCmd → TileCmd) : (s.updCmd t f).cmd? t = (s.cmd? t).map f := by
  simp [State.updCmd, State.cmd?]

/-- A change of a tile's command touches the tiles alone. -/
theorem State.updCmd_frame (s : State) (t : Nat) (f : TileCmd → TileCmd) : s.updCmd t f = { s with tiles := (s.updCmd t f).tiles } :=
  rfl

/-- A change of a thread touches the tiles alone. -/
theorem State.updThread_frame (s : State) (t th : Nat) (f : Thread → Thread) :
    s.updThread t th f = { s with tiles := (s.updThread t th f).tiles } := rfl

theorem State.updThread_cmd? (s : State) (t th : Nat) (f : Thread → Thread) :
    (s.updThread t th f).cmd? t = (s.cmd? t).map (fun c => { c with threads := Tbl.upd c.threads th {} f }) :=
  State.updCmd_cmd? ..

/-- The thread changed is the one named. -/
theorem TileCmd.thread?_upd {c : TileCmd} {th : Nat} {h : Thread} (f : Thread → Thread) (e : c.thread? th = some h) :
    TileCmd.thread? { c with threads := Tbl.upd c.threads th {} f } th = some (f h) := by
  simp only [TileCmd.thread?] at e ⊢
  simp [Tbl.upd, Tbl.getD, e]

/-- A running thread belongs to its tile's command. -/
theorem State.running?_cmd {s : State} {t th : Nat} {c : TileCmd} {h : Thread} (e : s.running? t th = some (c, h)) :
    s.cmd? t = some c ∧ c.thread? th = some h := by
  unfold State.running? at e
  split at e
  · cases e
  · split at e
    · cases e
    · rename_i c' hc
      split at e
      · cases e
      · rename_i h' hh
        split at e
        · injection e with e
          injection e with e1 e2
          subst e1 e2
          exact ⟨hc, hh⟩
        · cases e

/-- What a running thread does leaves it the thread of its tile's command. -/
theorem State.updThread_at {s : State} {t th : Nat} {c : TileCmd} {h : Thread} (f : Thread → Thread) (hc : s.cmd? t = some c)
    (hh : c.thread? th = some h) : ((s.updThread t th f).cmd? t).bind (fun c => c.thread? th) = some (f h) := by
  rw [State.updThread_cmd?, hc]
  exact TileCmd.thread?_upd f hh

/-- Switching a core changes which thread it runs, and nothing of the command. -/
@[simp] theorem State.yieldCore_cmd? (s : State) (t th : Nat) : (s.yieldCore t th).cmd? t = s.cmd? t := by
  unfold State.yieldCore State.cmd?
  simp only [State.updTile_tile_self]
  split <;> simp_all

theorem State.yieldCore_frame (s : State) (t th : Nat) : s.yieldCore t th = { s with tiles := (s.yieldCore t th).tiles } := rfl

@[simp] theorem State.yieldCore_mem (s : State) (t th : Nat) : (s.yieldCore t th).mem = s.mem := rfl
@[simp] theorem State.yieldCore_reqs (s : State) (t th : Nat) : (s.yieldCore t th).reqs = s.reqs := rfl
@[simp] theorem State.updThread_mem (s : State) (t th : Nat) (f : Thread → Thread) : (s.updThread t th f).mem = s.mem := rfl
@[simp] theorem State.updThread_reqs (s : State) (t th : Nat) (f : Thread → Thread) : (s.updThread t th f).reqs = s.reqs := rfl
@[simp] theorem State.updCmd_mem (s : State) (t : Nat) (f : TileCmd → TileCmd) : (s.updCmd t f).mem = s.mem := rfl
@[simp] theorem State.updCmd_reqs (s : State) (t : Nat) (f : TileCmd → TileCmd) : (s.updCmd t f).reqs = s.reqs := rfl

/-! ## Translation touches the ATU and the fault sources alone (R129, R163) -/

/-- What translation leaves. -/
def Translates (s t : State) : Prop := t = { s with atu := t.atu, fcl := t.fcl }

theorem Translates.refl (s : State) : Translates s s := rfl

theorem Translates.trans {r s t : State} (h : Translates r s) (k : Translates s t) : Translates r t := by
  unfold Translates at h k ⊢
  rw [k, h]

theorem Translates.updSlice {r s : State} (i : Nat) (f : AtuSlice → AtuSlice) (h : Translates r s) : Translates r (s.updSlice i f) :=
  h.trans rfl

theorem Translates.raise {r s : State} (src : Nat) (h : Translates r s) : Translates r (s.raise src) :=
  h.trans (by unfold Translates; rw [State.raise_frame])

theorem Translates.ite {r a b : State} {c : Prop} [Decidable c] (h : Translates r a) (k : Translates r b) :
    Translates r (if c then a else b) := by
  split <;> assumption

theorem State.walkEntry_translates (s : State) (sl level table va : Nat) : Translates s (s.walkEntry sl level table va).1 := by
  unfold State.walkEntry
  split
  · exact Translates.ite (Translates.raise _ (Translates.updSlice _ _ (Translates.refl s))) (Translates.refl s)
  · have h : Translates s ((s.updSlice sl (fun a => { a with corrected := satAdd 16 a.corrected 1 })).atuC sl) :=
      Translates.raise _ (Translates.updSlice _ _ (Translates.refl s))
    exact Translates.ite (Translates.raise _ (Translates.updSlice _ _ h)) h
  · exact Translates.raise _ (Translates.updSlice _ _ (Translates.refl s))

theorem State.walk_translates (s : State) (sl va n table : Nat) : Translates s (s.walk sl va n table).1 := by
  induction n generalizing s table with
  | zero => exact State.walkEntry_translates ..
  | succ n ih =>
    unfold State.walk
    have h := State.walkEntry_translates s sl (n + 1) table va
    split
    rename_i e
    rw [e] at h
    split
    · exact h.trans (ih _ _)
    · exact h

theorem State.translate_translates (s : State) (sl asid tenant va : Nat) (acc : Acc) (tile : Nat) :
    Translates s (s.translate sl asid tenant va acc tile).1 := by
  have hf : ∀ (t : State) (cause : Nat), Translates s t → Translates s (t.recordFault sl va cause tile asid) :=
    fun t cause h => Translates.updSlice _ _ h
  unfold State.translate
  extract_lets +onlyGivenNames fail
  have hx : ∀ (t : State) (cause : Nat), Translates s t → Translates s (fail t cause).1 := hf
  clear_value fail
  split
  · exact hx _ _ (Translates.refl s)
  · extract_lets +onlyGivenNames raw
    split
    · exact hx _ _ (Translates.raise _ (Translates.refl s))
    · split
      · exact hx _ _ (Translates.refl s)
      · split
        · split
          · exact Translates.refl s
          · exact hx _ _ (Translates.refl s)
        · split
          · exact hx _ _ (Translates.refl s)
          · extract_lets +onlyGivenNames s1
            have h1 : Translates s s1 := Translates.updSlice _ _ (Translates.refl s)
            clear_value s1
            have hw := State.walk_translates s1 sl va 3 (bits raw 12 36 * 2 ^ 12)
            split
            rename_i e
            rw [e] at hw
            have h2 := h1.trans hw
            split
            · extract_lets +onlyGivenNames s3
              have h3 : Translates s s3 := Translates.updSlice _ _ h2
              clear_value s3
              split
              · exact h3
              · exact hx _ _ h3
            · exact hx _ _ h2
            · exact hx _ _ h2

/-- A core's address translation touches the ATU and the fault sources alone. -/
theorem State.coreAddr_translates {s u : State} {t va pa : Nat} {c : TileCmd} {acc : Acc}
    (e : s.coreAddr t c va acc = (u, .ok pa)) : Translates s u := by
  unfold State.coreAddr at e
  split at e
  · injection e with e1 e2
    subst e1
    exact Translates.refl s
  · have h := State.translate_translates s (dieOfTile t) (cdAsid c.desc) (cdTenant c.desc) va acc t
    rw [e] at h
    exact h

end Sys2Proof.Machine
end

