-- ==== Sys2Proof/Safety.lean ====
section
/-!
DEFINITION. Sys2Proof/Safety.lean: what counts as a safe run.
-/
namespace Sys2Proof.Safety

/-- A step that ends in a next state: no stop of any kind. -/
def Goes (s : Machine.State) : Prop := ∃ t, Machine.step s = .next t

/-- A run of `n` steps in which every step answers a next state. -/
def SafeRun : Nat → Machine.State → Prop
  | 0, _ => True
  | n + 1, s => ∃ t, Machine.step s = .next t ∧ SafeRun n t

end Sys2Proof.Safety
end

