-- ==== Sys2Proof/WellFormed.lean ====
section
/-!
DEFINITION. Sys2Proof/WellFormed.lean: which operands the spec admits for each command.
-/
namespace Sys2Proof

/-- A ring number (R358). -/
def ringOk (r : Nat) : Bool := decide (r < 262144)
/-- A request table index (R376). -/
def reqOk (i : Nat) : Bool := decide (i < 131072)
/-- A completion status: two bytes of a completion entry (R369). -/
def statusOk (s : Nat) : Bool := decide (s < 65536)
/-- An operation's handle (R105). -/
def handleOk (h : Nat) : Bool := decide (0 < h) && decide (h < 2 ^ 64)
/-- A physical address, the remote aperture included (R65). -/
def addrOk (a : Nat) : Bool := decide (a < 2 ^ 48)
/-- A virtual page number of the 56-bit space (R101). -/
def pageOk (v : Nat) : Bool := decide (v < 2 ^ 40)
/-- Bytes that one message or transfer can carry (R406, R490, R550). -/
def bytesOk (b : List Byte) : Bool := decide (b.length ≤ 65536)
/-- One bit for each boundary cell that a vector gives (R553). -/
def boundaryOk (b : List Bool) : Bool := decide (b.length ≤ 65536)
/-- A certificate slot (R499). -/
def certSlotOk (s : Nat) : Bool := decide (s < 8)
/-- A packet: a header flit and at most 4,096 bytes of data (R267, R269). -/
def pktOk (p : Pkt) : Bool := decide (p.data.length ≤ 4096)
/-- A Trellis packet between two dies of the package (R53, R62). -/
def trellisOk (p : TPkt) : Bool := decide (p.src < 7) && decide (p.dst < 7) && decide (p.txn < 2 ^ 64)
/-- A master by its number (R57, R71). -/
def masterOk : Master → Bool
  | .tile t => decide (t < 48)
  | .dma e _ => decide (e < 5)
  | .fabric d => decide (d < 2)
  | .control => true
  | .hostMem l => decide (l < 16)
  | .hostIo l => decide (l < 16)
/-- The issuer of a remote access (R290). -/
def agentOk : Agent → Bool
  | .tileDma _ h => handleOk h
  | .core _ _ _ => true
  | .control _ => true
  | .commit => true
  | .dma _ _ => true
/-- An ordinary access to a channel of 4 GiB (R66, R169). -/
def eccOk : EccOutcome → Bool
  | .good n => decide (n < 2 ^ 32)
  | .bad n => decide (n < 2 ^ 32)
def heldOk (a : HeldAcc) : Bool := masterOk a.m && decide (a.off < 2 ^ 32) && decide (a.len ≤ 4096) && decide (a.data.length ≤ 4096)
/-- A sweep's result: nine points of sixteen monitors (R525). -/
def sweepOk (d : List (List Nat)) : Bool := decide (d.length = 9) && d.all (fun p => decide (p.length = 16))
/-- A temperature that the sensor's 8 bits hold (R532). -/
def tempOk (t : Int) : Bool := decide (-128 ≤ t) && decide (t < 128)
/-- A CXL.mem request of at most 64 bytes (R399). -/
def memReqOk : MemReq → Bool
  | .read n => decide (n ≤ 64)
  | .write d => decide (d.length ≤ 64)
/-- A QoS control value of one byte (R408). -/
def qosOk : QosCmd → Bool
  | .setControl v => decide (v < 256)
  | .getControl => true
  | .getStatus => true
  | .getAlloc _ => true
  | .setAlloc _ _ => true
  | .getLimit _ => true
  | .setLimit _ _ => true
/-- A trained port: 8 or 16 lanes (R398, R442). -/
def trainOk : Option CxlTrain → Bool
  | none => true
  | some t => decide (t.width = 8) || decide (t.width = 16)
/-- What start-up may find (R546): packages, channels and dies of the device. -/
def startupOk (i : StartupIn) : Bool :=
  trainOk i.cxl && i.lpddrFailed.all (fun k => decide (k < 16)) && i.hbmFailed.all (fun k => decide (k < 128)) &&
    i.modulesLost.all (fun m => decide (m.1 < 7) && decide (m.2.1 < 4))

/-- The operands of a command are ones that the spec admits. -/
def Instr.wf (i : Instr) : Bool :=
  match i with
  | .admitOp ring _ => ringOk ring
  | .park ring _ => ringOk ring
  | .resume ring _ => ringOk ring
  | .cancel ring _ => ringOk ring
  | .redirect ring _ => ringOk ring
  | .graftDestFailed req status => reqOk req && statusOk status
  | .parkExpiry req => reqOk req
  | .recordHandover req dest => reqOk req && decide (dest < 4096)
  | .reprefill req => reqOk req
  | .trellisPacket _ _ p => trellisOk p
  | .trellisTimeout txn => decide (txn < 2 ^ 64)
  | .trellisModuleFail _ _ => true
  | .portRetrain _ _ => true
  | .portCntClr _ _ => true
  | .trellisTimeoutWrite _ => true
  | .dieErrclr _ _ => true
  | .registerAccess m addr size _ => masterOk m && addrOk addr && decide (0 < size) && decide (size ≤ 8)
  | .topIssue _ _ _ _ => true
  | .topWait _ _ _ => true
  | .topFence _ _ => true
  | .topFencet _ _ => true
  | .topPub _ _ _ => true
  | .topFadd _ _ _ _ _ _ => true
  | .topCrc16 _ _ _ _ _ => true
  | .topEnd _ _ => true
  | .coreMemoryAccess _ _ _ => true
  | .mm _ h => handleOk h
  | .vew _ h _ => handleOk h
  | .vfn _ h _ => handleOk h
  | .vred _ h _ => handleOk h
  | .softmaxOnline _ h _ => handleOk h
  | .norm _ h _ => handleOk h
  | .quantMx _ h _ => handleOk h
  | .sample _ h _ => handleOk h
  | .accept _ h a => handleOk h && decide (a.parents.length = a.tokens.length)
  | .compare _ h _ => handleOk h
  | .attnBias _ h => handleOk h
  | .operationComplete _ h => handleOk h
  | .commandStart _ => true
  | .commandEnded _ => true
  | .commit _ => true
  | .commandKill _ => true
  | .commandFail _ status => statusOk status
  | .cmdOverrun _ => true
  | .drainWriteComplete _ => true
  | .tileCfgWrite _ _ => true
  | .cmdcntClr _ => true
  | .confClr _ => true
  | .invOneAsid _ => true
  | .invRange _ _ => true
  | .invAll => true
  | .invalidationDone => true
  | .atuCtrlWrite _ => true
  | .atuCtrlClr _ => true
  | .channelEnter _ => true
  | .channelExit _ => true
  | .holdAccess _ a => heldOk a
  | .holdWatchdog _ => true
  | .bauOverrun _ => true
  | .attend run => eccOk run.ecc
  | .bauCopy run => eccOk run.ecc
  | .bauQuantise run => eccOk run.ecc
  | .bauZero run => eccOk run.ecc
  | .bauProgramStop _ => true
  | .ownCmdGo _ => true
  | .ownWriteDone _ => true
  | .bauUnfence _ _ => true
  | .hbmcStatClr _ => true
  | .bauCntClr _ => true
  | .hbmcBauDisableWrite _ _ => true
  | .tierFree _ vpn => pageOk vpn
  | .tierMove _ vpn _ => pageOk vpn
  | .moveCopyDone _ vpn fin => pageOk vpn && statusOk fin.status
  | .pin _ slot off src => decide (slot < 16384) && decide (off < 2 ^ 26) && addrOk src
  | .localPark req => reqOk req
  | .pullPlace req page => reqOk req && decide (page.page < 65536)
  | .dmaTileTransfer _ h => handleOk h
  | .dmaRingCopy _ _ => true
  | .dmaRingFill _ _ => true
  | .dmaHalfEntry _ _ => true
  | .dmaTransferEnd _ _ => true
  | .dmaSqTailWrite _ _ _ => true
  | .dmaCplHeadWrite _ _ _ => true
  | .dmaStop _ _ => true
  | .dmaResume _ _ => true
  | .dmaCntClr _ _ => true
  | .lpddrReadRetry _ _ => true
  | .odeccPoll _ n => decide (n < 2 ^ 32)
  | .lpcCntClr _ => true
  | .ftlCntClr => true
  | .ftlRead _ dst _ => addrOk dst
  | .ftlRelocation block _ => decide (block < 2 ^ 64)
  | .compress _ h => handleOk h
  | .decompress _ h => handleOk h
  | .ringCompress _ _ => true
  | .ringDecompress _ _ => true
  | .compCntClr _ => true
  | .sieveUnique _ h => handleOk h
  | .sieveGather _ h => handleOk h
  | .scatterAdd _ h => handleOk h
  | .scatterWrite _ h => handleOk h
  | .tableOldFree _ _ => true
  | .sieveCntClr _ => true
  | .linkEnable _ _ => true
  | .linkBringupRetry _ => true
  | .linkInit _ _ _ => true
  | .linkPacketReceive _ p _ => pktOk p
  | .linkAck _ _ _ => true
  | .linkNak _ _ _ => true
  | .replayStart _ => true
  | .linkAckTimer _ => true
  | .linkRetrain _ => true
  | .linkRetrainTimeout _ => true
  | .linkCtrlHello _ => true
  | .linkCtrlRetrain _ => true
  | .linkCntClr _ => true
  | .helloRequest _ _ _ => true
  | .helloReply _ _ _ => true
  | .helloUpdate _ _ _ => true
  | .helloTimeout _ => true
  | .mgmtMessage _ _ msg _ => bytesOk msg
  | .ownerClaim _ _ _ => true
  | .msfLoad ag addr => agentOk ag && addrOk addr
  | .msfStore ag addr _ => agentOk ag && addrOk addr
  | .msfAdd ag addr _ => agentOk ag && addrOk addr
  | .msfSwap ag addr _ => agentOk ag && addrOk addr
  | .msfCas ag addr _ _ => agentOk ag && addrOk addr
  | .readBurst ag addr len => agentOk ag && addrOk addr && decide (0 < len) && decide (len ≤ 4096)
  | .writeBurst ag addr len => agentOk ag && addrOk addr && decide (0 < len) && decide (len ≤ 4096)
  | .msfRequestReceive _ p _ => pktOk p
  | .msfResponseReceive _ p => pktOk p
  | .msfTimeout _ _ => true
  | .msfAbandon _ _ => true
  | .msfCfgWrite _ _ => true
  | .msfCntClr _ => true
  | .msfTblRead _ _ _ => true
  | .msfTblWrite _ _ _ => true
  | .connActivate _ _ => true
  | .connReset _ _ => true
  | .connForceError _ _ => true
  | .connError _ status => statusOk status
  | .contextFill _ _ => true
  | .sqTailWrite _ _ _ => true
  | .raeWrite _ _ => true
  | .raeWriteImm _ _ => true
  | .raeRead _ _ => true
  | .raeNotify _ _ => true
  | .graftData _ _ => true
  | .graftFrame _ _ => true
  | .control _ _ => true
  | .rqWriteReceive p => pktOk p
  | .rqReadReqReceive p _ => pktOk p
  | .rqReadRespReceive p => pktOk p
  | .rqAckReceive p => pktOk p
  | .rqErrReceive p => pktOk p
  | .rqAckTimer _ => true
  | .graftDataReceive p => pktOk p
  | .graftFrameReceive p => pktOk p
  | .rtoExpiry _ _ => true
  | .pathLossResend _ => true
  | .raeRevoke _ _ => true
  | .revokeDone => true
  | .raeCntClr _ => true
  | .openRec _ _ _ => true
  | .openAck _ _ _ => true
  | .graftCommit _ _ _ => true
  | .commitAck _ _ _ => true
  | .abortRec _ _ _ => true
  | .pull _ _ _ => true
  | .pullDone _ _ _ => true
  | .pullDoneAck _ _ _ => true
  | .releaseRec _ _ _ => true
  | .expiredRec _ _ _ => true
  | .graftCntClr => true
  | .egressSelect _ => true
  | .gateArm _ => true
  | .gateDisarm _ => true
  | .gateTakeover _ => true
  | .gateInterval _ => true
  | .egrTblRead _ _ _ => true
  | .egrTblWrite _ _ _ => true
  | .egrCntClr _ => true
  | .doorbell _ _ => true
  | .ringEntryTake ring _ => ringOk ring
  | .ringLoad _ => true
  | .ringCmdResume _ => true
  | .ringDisable _ => true
  | .ringCntClr => true
  | .killCmd _ => true
  | .rerunDelivery _ tiles => tiles.Nodup
  | .reqCntClr => true
  | .tagDrainWrite _ => true
  | .tileCompletion _ => true
  | .stepBoundary => true
  | .stepEnd step => decide (step < 2 ^ 64)
  | .slowdownPeriod => true
  | .acctRewrite _ => true
  | .mbGo _ => true
  | .messageTake => true
  | .rmpIdentify _ => true
  | .rmpCfgStage _ => true
  | .rmpCfgCommit _ => true
  | .rmpCfgDiscard _ => true
  | .rmpCfgRead _ => true
  | .idleBoundary => true
  | .rmpMapSet _ => true
  | .rmpMapGet _ => true
  | .rmpRingCreate _ => true
  | .rmpRingDestroy _ => true
  | .submissionRingFreed _ => true
  | .rmpRingResume _ => true
  | .rmpRingQuery _ => true
  | .rmpTokenFetch _ => true
  | .rmpModelLoad _ => true
  | .modelLoaded _ => true
  | .rmpModelUnload _ => true
  | .modelUnloaded _ => true
  | .rmpAcctRead _ => true
  | .rmpReqQuery _ => true
  | .rmpRegRead _ => true
  | .functionLevelReset _ => true
  | .getLdInfo => true
  | .getLdAllocations => true
  | .setLdAllocations first ranges => decide (first.val + ranges.length ≤ 16)
  | .fmQosCommand c => qosOk c
  | .fmVendorRmp msg => bytesOk msg
  | .cxlCntClr => true
  | .fclLatch _ => true
  | .brokenPair _ => true
  | .reactionEnd => true
  | .fclKick _ => true
  | .kickLapse => true
  | .beatToggle => true
  | .fclFence _ _ => true
  | .fclUnfence _ _ => true
  | .fclInjectNow _ _ => true
  | .fclInjectSync _ _ => true
  | .fclInjectWire _ => true
  | .fclStickyClear _ _ => true
  | .fclCntClr => true
  | .groupReplay _ => true
  | .qualificationCompare _ disagree => decide (disagree < 2 ^ 32)
  | .rmpFaultRead _ => true
  | .rmpFaultClear _ => true
  | .rmpUnitFenceFence _ => true
  | .rmpUnitFenceUnfence _ => true
  | .rmpUnitFenceQualify _ => true
  | .rmpCkptTake _ => true
  | .rmpCkptRestore _ => true
  | .rmpPartnerLoad _ o => decide (o.slots.length ≤ 1000)
  | .rmpInject _ => true
  | .feedWindowClose => true
  | .feedFrameReceive frame energy _ => bytesOk frame && decide (energy.length = 20)
  | .feedDown energy => decide (energy.length = 20)
  | .recordSign => true
  | .clocheRestart _ => true
  | .sealBroken => true
  | .clIdentify => true
  | .certRead _ _ => true
  | .recordRead _ => true
  | .snapshotRead _ _ _ => true
  | .liveRead _ => true
  | .logRead _ => true
  | .nonceGet => true
  | .paramSet _ => true
  | .labelSet _ => true
  | .keySet _ => true
  | .archive _ => true
  | .reseal _ _ => true
  | .fwChunk _ data => bytesOk data
  | .fwCommit _ => true
  | .getVersion _ => true
  | .getCapabilities _ => true
  | .negotiateAlgorithms _ _ => true
  | .getDigests _ => true
  | .getCertificate _ slot off len => certSlotOk slot && decide (off < 65536) && decide (len < 65536)
  | .challenge _ slot _ => certSlotOk slot
  | .getMeasurements _ index _ _ => decide (index < 256)
  | .keyExchange _ slot _ _ => certSlotOk slot
  | .finish _ _ _ => true
  | .heartbeat _ _ => true
  | .keyUpdate _ _ => true
  | .endSession _ _ => true
  | .ideKmQuery _ _ => true
  | .keyProg _ _ _ _ _ => true
  | .kSetGo _ _ _ _ => true
  | .kSetStop _ _ _ _ => true
  | .tamperTrip _ => true
  | .secWipeWrite _ => true
  | .rmpSecQuery _ => true
  | .rmpFwStage _ => true
  | .rmpFwActivate _ => true
  | .rmpRollbackAdvance _ => true
  | .rmpLcTransition _ => true
  | .jtagLcTransition _ _ => true
  | .powerReport mw100us mw1ms mw1s => decide (mw100us < 2 ^ 32) && decide (mw1ms < 2 ^ 32) && decide (mw1s < 2 ^ 32)
  | .vinRange mv => decide (mv < 2 ^ 32)
  | .clampClr => true
  | .pwrCapWrite _ => true
  | .tilePwrReq _ _ => true
  | .tileWake _ => true
  | .tileDivWrite _ _ => true
  | .tileVsetWrite _ _ => true
  | .comparatorFire _ => true
  | .ltuBootWrite _ => true
  | .stageSplitWrite _ => true
  | .thermalSample _ temp => tempOk temp
  | .pdmSweep _ => true
  | .sweepDone _ delays => sweepOk delays
  | .ageScheduler => true
  | .insituSlackCheck _ slack => slack.length == 16
  | .rmpPowerQuery _ => true
  | .rmpPowerCap _ => true
  | .rmpTimerAlloc _ => true
  | .rmpTimerFree _ => true
  | .rmpAgeReport _ => true
  | .rmpBootParamSet _ => true
  | .syncInEdge => true
  | .powerUp => true
  | .railFault _ => true
  | .resetNAssert => true
  | .startup inp => startupOk inp
  | .perstN => true
  | .powerDown _ => true
  | .recGo _ => true
  | .sbStatus => true
  | .sbRead _ _ _ => true
  | .sbWrite _ data _ => bytesOk data
  | .sbIdent => true
  | .sbwCntClr => true
  | .bootProgressWrite _ => true
  | .bypass => true
  | .idcode => true
  | .samplePreload pins preload => boundaryOk pins && boundaryOk preload
  | .extest pins => boundaryOk pins
  | .clamp => true
  | .highz => true
  | .extestPulse pins => boundaryOk pins
  | .extestTrain pins => boundaryOk pins
  | .dbgDtmcs => true
  | .dbgDmi _ => true
  | .linkRetrainDone _ => true
  | .portRetrainDone _ _ restored => decide (restored ≤ 10)
  | .txnSlotReissue _ _ => true
  | .ringCoalesceTimer _ => true
  | .cqHeadWrite _ _ _ => true
  | .perstNRelease tr => trainOk tr
  | .cxlMemRequest _ off r => decide (off < 2 ^ 36) && memReqOk r
  | .hdmDecoderCommit _ _ => true
  | .clVauxLoss => true
  | .sbDynamicAddress _ => true
  | .clDynamicAddress _ _ => true

/-- Well-formed commands. -/
def WellFormed (i : Instr) : Prop := i.wf = true

end Sys2Proof
end

