-- ==== Sys2Proof/Tests/Slice0.lean ====
section
/-!
SUPPORT. Sys2Proof/Tests/Slice0.lean: small tests of the model: a refused term for each check of WellFormed, witnesses
for the hypotheses of the statements, and single steps on small states.
-/
namespace Sys2Proof.Tests
open Sys2Proof.Machine

section
set_option Elab.async false

/-! ## WellFormed refuses -/

/-- R358: 262,144 rings. -/
theorem test_wf_ring : Instr.wf (.park 262144 0) = false := by decide
/-- R358. -/
theorem test_wf_ring_admit : Instr.wf (.admitOp 262144 0) = false := by decide
/-- R358. -/
theorem test_wf_ring_resume : Instr.wf (.resume 262144 0) = false := by decide
/-- R358. -/
theorem test_wf_ring_cancel : Instr.wf (.cancel 262144 0) = false := by decide
/-- R358. -/
theorem test_wf_ring_redirect : Instr.wf (.redirect 262144 0) = false := by decide
/-- R358. -/
theorem test_wf_ring_take : Instr.wf (.ringEntryTake 262144 none) = false := by decide
/-- R376: 131,072 requests. -/
theorem test_wf_req : Instr.wf (.parkExpiry 131072) = false := by decide
/-- R376. -/
theorem test_wf_req_reprefill : Instr.wf (.reprefill 131072) = false := by decide
/-- R376. -/
theorem test_wf_req_local_park : Instr.wf (.localPark 131072) = false := by decide
/-- R376. -/
theorem test_wf_graft_dest_failed_req : Instr.wf (.graftDestFailed 131072 0) = false := by decide
/-- R369: a status is two bytes. -/
theorem test_wf_graft_dest_failed_status : Instr.wf (.graftDestFailed 0 65536) = false := by decide
/-- R267: a FABRIC_ID has 12 bits. -/
theorem test_wf_record_handover_dest : Instr.wf (.recordHandover 0 4096) = false := by decide
/-- R53: seven dies. -/
theorem test_wf_trellis_src : Instr.wf (.trellisPacket 0 none ⟨[], 0, .request, 7, 0, 0, true, none, [], 0⟩) = false := by decide
/-- R53: seven dies. -/
theorem test_wf_trellis_dst : Instr.wf (.trellisPacket 0 none ⟨[], 0, .request, 0, 7, 0, true, none, [], 0⟩) = false := by decide
/-- R63. -/
theorem test_wf_trellis_txn : Instr.wf (.trellisTimeout (2 ^ 64)) = false := by decide
/-- R81: an access has at least one byte. -/
theorem test_wf_access_size : Instr.wf (.registerAccess .control 0 0 0) = false := by decide
/-- R81: and at most 8. -/
theorem test_wf_access_size_max : Instr.wf (.registerAccess .control 0 9 0) = false := by decide
/-- R65: 48 address bits. -/
theorem test_wf_access_addr : Instr.wf (.registerAccess .control (2 ^ 48) 8 0) = false := by decide
/-- R53: 48 tiles. -/
theorem test_wf_access_tile : Instr.wf (.registerAccess (.tile 48) 0 8 0) = false := by decide
/-- R213: five engines. -/
theorem test_wf_access_dma : Instr.wf (.registerAccess (.dma 5 true) 0 8 0) = false := by decide
/-- R53: two link dies. -/
theorem test_wf_access_fabric : Instr.wf (.registerAccess (.fabric 2) 0 8 0) = false := by decide
/-- R410: 16 LDs. -/
theorem test_wf_access_host_mem : Instr.wf (.registerAccess (.hostMem 16) 0 8 0) = false := by decide
/-- R410: 16 LDs. -/
theorem test_wf_access_host_io : Instr.wf (.registerAccess (.hostIo 16) 0 8 0) = false := by decide
/-- R105: a handle is not 0. -/
theorem test_wf_handle_zero : Instr.wf (.mm 0 0) = false := by decide
/-- R105. -/
theorem test_wf_handle_max : Instr.wf (.operationComplete 0 (2 ^ 64)) = false := by decide
/-- R99: one parent per token. -/
theorem test_wf_accept_lists : Instr.wf (.accept 0 1 ⟨[0], [], 1, true, 1, 0, [], 0, ⟨0, 0, 0, 0⟩, 0, 0⟩) = false := by decide
/-- R369. -/
theorem test_wf_fail_status : Instr.wf (.commandFail 0 65536) = false := by decide
/-- R169: a channel has 4 GiB. -/
theorem test_wf_held_off : Instr.wf (.holdAccess 0 ⟨.control, false, 2 ^ 32, 8, [], .nobody⟩) = false := by decide
/-- R169. -/
theorem test_wf_held_len : Instr.wf (.holdAccess 0 ⟨.control, false, 0, 4097, [], .nobody⟩) = false := by decide
/-- R101: 40-bit page numbers. -/
theorem test_wf_free_page : Instr.wf (.tierFree 0 (2 ^ 40)) = false := by decide
/-- R101. -/
theorem test_wf_move_page : Instr.wf (.tierMove 0 (2 ^ 40) .t1) = false := by decide
/-- R369. -/
theorem test_wf_copy_status : Instr.wf (.moveCopyDone 0 0 ⟨65536, .soft⟩) = false := by decide
/-- 16,384 slots. -/
theorem test_wf_pin_slot : Instr.wf (.pin 0 16384 0 0) = false := by decide
/-- the offset lies in the table window. -/
theorem test_wf_pin_off : Instr.wf (.pin 0 0 (2 ^ 26) 0) = false := by decide
/-- a two-byte page index. -/
theorem test_wf_pull_page : Instr.wf (.pullPlace 0 ⟨65536, .soft⟩) = false := by decide
/-- a 32-bit count. -/
theorem test_wf_odecc : Instr.wf (.odeccPoll 0 (2 ^ 32)) = false := by decide
/-- R65. -/
theorem test_wf_flash_dst : Instr.wf (.ftlRead 0 (2 ^ 48) .uncorrectable) = false := by decide
/-- R222. -/
theorem test_wf_flash_block : Instr.wf (.ftlRelocation (2 ^ 64) .refresh) = false := by decide
/-- R105. -/
theorem test_wf_tile_dma_handle : Instr.wf (.msfLoad (.tileDma 0 0) 0) = false := by decide
/-- a burst has data. -/
theorem test_wf_burst_empty : Instr.wf (.readBurst .commit 0 0) = false := by decide
/-- at most 4,096 bytes. -/
theorem test_wf_burst_long : Instr.wf (.writeBurst .commit 0 4097) = false := by decide
/-- 64-bit steps. -/
theorem test_wf_step_number : Instr.wf (.stepEnd (2 ^ 64)) = false := by decide
/-- one result per tile. -/
theorem test_wf_rerun_twice : Instr.wf (.rerunDelivery 0 [0, 0]) = false := by decide
/-- R410: 16 LDs. -/
theorem test_wf_allocations : Instr.wf (.setLdAllocations 15 [(0, 0), (0, 0)]) = false := by decide
/-- R408: a byte. -/
theorem test_wf_qos : Instr.wf (.fmQosCommand (.setControl 256)) = false := by decide
/-- a 32-bit count. -/
theorem test_wf_disagree : Instr.wf (.qualificationCompare 0 (2 ^ 32)) = false := by decide
/-- 20 sampled energies. -/
theorem test_wf_feed_energy : Instr.wf (.feedDown []) = false := by decide
/-- 20 sampled energies. -/
theorem test_wf_frame_energy : Instr.wf (.feedFrameReceive [] [] 0) = false := by decide
/-- R499: eight slots. -/
theorem test_wf_cert_slot : Instr.wf (.challenge 0 8 0) = false := by decide
/-- R499. -/
theorem test_wf_certificate_slot : Instr.wf (.getCertificate 0 8 0 0) = false := by decide
/-- R499. -/
theorem test_wf_key_exchange_slot : Instr.wf (.keyExchange 0 8 0 0) = false := by decide
/-- R499: a two-byte offset. -/
theorem test_wf_certificate_off : Instr.wf (.getCertificate 0 0 65536 0) = false := by decide
/-- R500: a one-byte index. -/
theorem test_wf_measurement_index : Instr.wf (.getMeasurements 0 256 true 0) = false := by decide
/-- 32-bit averages. -/
theorem test_wf_power : Instr.wf (.powerReport (2 ^ 32) 0 0) = false := by decide
/-- 32-bit millivolts. -/
theorem test_wf_supply : Instr.wf (.vinRange (2 ^ 32)) = false := by decide
/-- R532: an 8-bit sensor. -/
theorem test_wf_temp : Instr.wf (.thermalSample 0 128) = false := by decide
/-- R532. -/
theorem test_wf_temp_low : Instr.wf (.thermalSample 0 (-129)) = false := by decide
/-- R525: nine points. -/
theorem test_wf_sweep : Instr.wf (.sweepDone 0 []) = false := by decide
/-- R525: 16 monitors. -/
theorem test_wf_slack : Instr.wf (.insituSlackCheck 0 []) = false := by decide
/-- R398: 8 or 16 lanes. -/
theorem test_wf_port_width : Instr.wf (.perstNRelease (some ⟨32, 4, false⟩)) = false := by decide
/-- R64: modules of a port. -/
theorem test_wf_port_restored : Instr.wf (.portRetrainDone 0 0 11) = false := by decide
/-- R66: an LD's window. -/
theorem test_wf_cxl_off : Instr.wf (.cxlMemRequest 0 (2 ^ 36) (.read 64)) = false := by decide
/-- R399: 64-byte requests. -/
theorem test_wf_cxl_len : Instr.wf (.cxlMemRequest 0 0 (.read 65)) = false := by decide
/-- R550: at most 65,536 bytes. -/
theorem test_wf_bytes (b) (h : List.length b = 65537) : Instr.wf (.sbWrite 0 b none) = false := by simp [Instr.wf, bytesOk, h]
/-- R490. -/
theorem test_wf_firmware_bytes (b) (h : List.length b = 65537) : Instr.wf (.fwChunk 0 b) = false := by simp [Instr.wf, bytesOk, h]
/-- R406. -/
theorem test_wf_message_bytes (b) (h : List.length b = 65537) : Instr.wf (.fmVendorRmp b) = false := by simp [Instr.wf, bytesOk, h]
/-- R277. -/
theorem test_wf_mgmt_bytes (b) (h : List.length b = 65537) : Instr.wf (.mgmtMessage 0 0 b 0) = false := by simp [Instr.wf, bytesOk, h]
/-- R269: at most 4,096 bytes of data. -/
theorem test_wf_packet (b) (h : List.length b = 4097) : Instr.wf (.linkPacketReceive 0 ⟨0, b, 36⟩ .clean) = false := by simp [Instr.wf, pktOk, h]
/-- R553: at most 65,536 cells. -/
theorem test_wf_cells (b) (h : List.length b = 65537) : Instr.wf (.extest b) = false := by simp [Instr.wf, boundaryOk, h]
/-- R469: at most 1,000 slots. -/
theorem test_wf_partner (b) (h : List.length b = 1001) : Instr.wf (.rmpPartnerLoad .fabric ⟨b⟩) = false := by simp [Instr.wf, h]

/-! ## Witnesses: states and operands that meet the hypotheses of the statements -/

/-- A state after reset that runs. -/
theorem wit_live : State.reset.live = true := by decide +kernel

/-- The header of a Trellis packet with its CRC. -/
def trellisPkt (cls : TClass) (src dst : Nat) : TPkt := ⟨[1#8], BitVec.ofNat 16 (crc16 [1#8]), cls, src, dst, 7, true, none, [], 1⟩

/-- A Trellis packet on its way to die 1, from die 0's port 0. -/
def trellisHeld (cls : TClass) (dst : Nat) : State :=
  { State.reset with trellis := { waiting := [⟨7, 1, 0, true, some (.control 0), 0⟩], vcs := [⟨0, 0, cls, 0, dst, 7⟩] } }

/-- TrellisPackets: sent at its source for the last die; sent on; delivered; with a bad header. -/
theorem wit_trellis_packets :
    (trellisPkt .request 0 6).src = 0 ∧ crc16 (trellisPkt .request 0 6).hdr = (trellisPkt .request 0 6).crc.toNat ∧ 3 < portsOf 0 ∧
    (∀ dst ∈ [1, 3], (trellisHeld .response dst).trellis.vcs.find? (fun v => v.site = (peerOf 1 0).1 && v.port = (peerOf 1 0).2 &&
      v.cls = .response) = some ⟨0, 0, .response, 0, dst, 7⟩) ∧ crc16 [0#8] ≠ (trellisPkt .request 0 6).crc.toNat := by decide +kernel

/-- TrellisPackets: a request whose time is up; one that has 1 tick left. -/
theorem wit_trellis_timeout : (trellisHeld .request 1).trellis.waiting.find? (fun x => x.txn = 7) =
      some ⟨7, 1, 0, true, some (.control 0), 0⟩ ∧ 0 + 100 * State.reset.trellis.timeoutUs < 50001 ∧
      (∀ w ∈ (trellisHeld .request 1).trellis.waiting, w.txn = 7 → 50000 ≤ w.sent + 100 * (trellisHeld .request 1).trellis.timeoutUs) := by
  decide +kernel

/-- A die 0 whose port 3 has one module, in training. -/
def portTrains : State := State.reset.updPort 0 3 (fun o => { o with modulesUp := 1, retrain := true, state := .up })

/-- TrellisPorts: the last port of a die, with a module to lose and in training. -/
theorem wit_trellis_ports : portTrains.live = true ∧ 3 < portsOf 0 ∧ ((portTrains.die 0).port 3).modulesUp ≠ 0 ∧
    ((portTrains.die 0).port 3).retrain = true := by decide +kernel

/-- AtuCommands: an invalidation in progress, and none. -/
theorem wit_atu : State.reset.live = true ∧ State.reset.atu.invBusy = none ∧
    ({ State.reset with atu := { State.reset.atu with invBusy := some .all } }).live = true := by decide +kernel


/-- A tile command descriptor: tag and group 5, one member, tile 0, one thread, LIMIT_ACLK 8. -/
def desc5 : Nat := withCrc (ofBytes (packFields [(2, 5), (2, 5), (1, 1), (19, 0), (4, 1), (12, 0), (4, 8), (16, 0)])) 64

/-- An operation descriptor with its CRC-16. -/
def opDesc (opc : Nat) : Nat := opc + 2 ^ 496 * crc16 (toBytes 62 opc)

/-- A state in which thread 0 of a tile's command runs, with its registers and operations. -/
def runs (tile : Nat) (h : Thread) (ops : List Op) : State :=
  State.reset.updTile tile (fun x => { x with
    cur := some { desc := desc5, threads := [(0, h)], ops := ops, lastHandle := ops.length }, core := [(0, some 0)], workValid := true })

/-- TileInstructions: a thread that runs, a descriptor that issues, a publication whose CRC holds, bytes up to the window's end. -/
theorem wit_tile_instructions :
    let s := (runs 0 { x := [(1, 0x100)] } []).wrBytes (tileBase 0 + 0x100) (toBytes 64 (opDesc 0x01))
    (s.running? 0 0).isSome = true ∧ inScratch 0 0x100 64 = true ∧ inScratch 0 (scratchBytes 0 - 16) 16 = true ∧
    (s.cmd? 0).map (fun c => (issueUnit 0 c (s.wrd 0 0x100 64), decide (c.queuedIn 0 < 16), decide (c.pubs.length < 4096))) =
      some (some 0, true, true) ∧ crcOk (withCrc 0 16) 16 = true := by decide +kernel

/-- The address of HD's staging SRAM, outside every tile, and one of T1. -/
theorem wit_core_accesses :
    let s := runs 0 { x := [(1, 0x100)] } []
    (s.running? 0 0).isSome = true ∧ s.accStatus (.tile 0) .read (tileBase 0 + 0x100) 8 = Stat.ok ∧
    s.accStatus (.tile 0) .write (tileBase 0 + 0x100) 8 = Stat.ok ∧ s.accStatus (.tile 0) .atomic (tileBase 0 + 0x100) 8 = Stat.ok ∧
    ownOff 0 (tileBase 0 + 0x100) = some 0x100 ∧ inAperture (tileBase 0 + 0x100) = false ∧ inAperture 0x800000000000 = true ∧
    s.heldChan (tileBase 0 + 0x100) 8 = none ∧ 0x100 % 8 = 0 ∧ bits 0x100 56 8 = 0 ∧
    s.accStatus (.tile 0) .atomic 0 8 = Stat.ok ∧ ownOff 0 0 = none ∧
    (s.cmd? 0).map (fun c => (c.buffered 0, c.deferred.length)) = some (0, 0) ∧
    ((runs 0 { outst := 16 } []).cmd? 0).map (fun c => c.buffered 0) = some 16 := by decide +kernel
theorem wit_core_address : ∀ c : TileCmd, State.reset.coreAddr 0 c 0x100 .write = (State.reset, .ok (tileBase 0 + 0x100)) := fun _ => rfl

/-- CoreAccesses: widths that each kind of access has. -/
theorem wit_core_widths : ∀ k ∈ [CoreAccKind.load, .store, .amoAdd, .amoSwap, .lr, .sc, .amoXor],
    accLegal { kind := k, lg := 3, fp := false, zext := false, rd := 1, rs1 := 1, rs2 := 2, imm := 0, ilen := 4 } = true := by decide +kernel

/-- TileCommandLife: an executed operation; a descriptor that starts; a finished command; a lone running member. -/
theorem wit_tile_command :
    let s := ((runs 0 { ended := true } [{ handle := 1, unit := 0, desc := 0, phase := .executed }]).updTag 5 (fun g =>
      { g with st := .running, tile := 0 })).updGroup 5 (fun g => { g with members := [5] })
    let s := { s with ltu := 1 }
    (s.cmd? 0).map (fun c => ((c.op? 1).map (·.phase), c.finished, decide (c.phase = .running), decide (cdLimit c.desc ≠ 0 ∧
      cdLimit c.desc ≤ s.runAclk 0 c))) = some (some .executed, false, true, true) ∧
    (runs 0 { ended := true } []).cmd? 0 = some { desc := desc5, threads := [(0, { ended := true })] } ∧
    cdGroup desc5 = 5 ∧ cdTag desc5 = 5 ∧ (s.group 5).members = [5] ∧ (s.tag 5).tile = 0 ∧ (s.tag 5).st = .running ∧
    faultStatus Stat.cmdOverrun = true ∧ startStatus 0 { resMib := 1 } (withCrc (desc5 + 2 ^ 56) 64) = Stat.ok ∧
    State.reset.tilePowered 0 = true := by decide +kernel

/-- TileRegisters: a tag with one write under way. -/
theorem wit_tile_registers : (State.reset.updTag 1023 (fun g => { g with drain := 1 })).live = true ∧
    ((State.reset.updTag 1023 (fun g => { g with drain := 1 })).tag 1023).drain ≠ 0 := by decide +kernel
/-- An operation at the head of its queue, by its opcode. -/
theorem wit_engine : ∀ opc ∈ [0x01, 0x10, 0x11, 0x12, 0x13, 0x14, 0x15, 0x16, 0x17, 0x18, 0x19],
    ((runs 0 {} [{ handle := 1, unit := 0, desc := opc }]).engine? 0 1 opc).isSome = true := by decide +kernel

/-- MatrixMultiply: INT8 by INT8 to INT32, one row and one K block, kept and written; A, B and C at their alignment. -/
theorem wit_mm : ∀ keep ∈ [0, 2],
    let d := 0x01 + 2 ^ 128 * (0x000 + 2 ^ 32 * 0x8000 + 2 ^ 128 * 0x10000 + 2 ^ 160 * 1 + 2 ^ 176 * 1 + 2 ^ 192 * 0x0D0909 + 2 ^ 216 * keep)
    (mmFields d).map (fun x => extentStatus 0 0 (x.reads 0) (x.writes 0)) = some Stat.ok := by decide +kernel

/-- VectorElementwise, VectorRows: one element, ending at the window's end. -/
theorem wit_vector : let e := scratchBytes 0
    extentStatus 0 0 [(0, 4), (4, 4), (8, 4)] [(e - 4, 4)] = Stat.ok ∧ extentStatus 0 0 [(0, 4)] [(e - 12, 8), (e - 4, 4)] = Stat.ok ∧
    extentStatus 0 0 [(0, 64)] [(e - 33, 32), (e - 1, 1)] = Stat.ok ∧ extentStatus 0 0 [(0, 4)] [(e, 4)] = Stat.opInvalid := by decide +kernel

/-- SamplerAndBias: the greatest vocabulary; a tree of 16 nodes in a line; a block of one row and one column. -/
theorem wit_sampler : SampleParams.ok ⟨0, 1024, 0, 0⟩ 262144 = true ∧ SampleParams.ok ⟨0, 1025, 0, 0⟩ 1 = false ∧
    AcceptArgs.treeOk ⟨List.range 16, List.replicate 16 0, 16, true, 1, 0, [], 0, ⟨0, 0, 0, 0⟩, 0, 0⟩ = true ∧
    AcceptArgs.treeOk ⟨[], [], 16, true, 1, 0, [], 0, ⟨0, 0, 0, 0⟩, 0, 0⟩ = false ∧
    extentStatus 0 0 [(0x100000, 4), (0x200000, 65536), (0x300000, 65536), (0x400000, 289)] [(0, 4)] = Stat.ok := by decide +kernel

/-- A ZERO of 32 bytes at the start of a channel, on channel 0 of its B-tile. -/
def zeroDesc : Nat := 0x31 + 2 ^ 128 * 4 + 2 ^ 136 * 1 + 2 ^ 256 * 32

/-- B-tile 32 with a BAU operation waiting, its channel 0 enabled, a held access or not. -/
def bauWaits (mode : ChMode) (hold : List Held) : State :=
  ((runs 32 {} [{ handle := 1, unit := 3, desc := zeroDesc }]).updChan 0 (fun k => { k with
    mode := mode, hold := hold, disable := false, owner := [(0, ownEntryOf 0x30000)] }))

/-- ChannelModes: an operation that may enter, one that may not; a chain; an exit; an access to hold and one held too long. -/
theorem wit_channel_modes :
    ((bauWaits .memory []).bauNext 0).isSome = true ∧ (bauWaits .memory []).bauStatus 32 zeroDesc 0 = Stat.ok ∧
    (bauWaits .memory []).bauStatus 32 0 0 = Stat.opInvalid ∧ (bauWaits .memory []).ownOk 0 0 0 true = true ∧
    ((bauWaits .processor []).bauNext 0).isSome = true ∧ ((bauWaits .exiting []).chan 0).prog = none ∧
    ((bauWaits .exiting []).chan 0).mode = .exiting ∧ (State.reset.bauNext 127) = none ∧
    0xFFFFFFC0 + Nat.max 64 ([] : List Byte).length ≤ 0x100000000 := by decide +kernel

/-- A channel whose B-tile's program runs, for each operation. -/
def bauRuns (op : Nat) (stopping : Bool) : State :=
  (runs 32 {} [{ handle := 1, unit := 3, desc := 0x31 + 2 ^ 128 * op + 2 ^ 296 * 0x0B }]).updChan 0 (fun k => { k with
    mode := .processor
    prog := some { tile := 32, handle := 1, tag := 5, tenant := 0, start := 0, stopping := stopping, desc := 0x31 + 2 ^ 128 * op + 2 ^ 296 * 0x0B } })

/-- BauOperations, BauStops: programs that run, one that is to stop, one past 64 us. -/
theorem wit_bau_operations :
    (∀ op ∈ [1, 2, 3, 4], ((bauRuns op false).program? 0 op).isSome = true) ∧
    fmtOf (mvDstFmt (0x31 + 2 ^ 128 * 3 + 2 ^ 296 * 0x0B)) ≠ none ∧ 0 + 6400 < 6401 ∧
    (((bauRuns 4 true).chan 0).prog.map (·.stopping)) = some true := by decide +kernel

/-- HbmRegisters: an owner write under way with no program running. -/
theorem wit_hbm_registers : let s := State.reset.updChan 127 (fun k => { k with ownBusy := true, ownFirst := 65535 })
    s.live = true ∧ (s.chan 127).ownBusy = true ∧ (s.chan 127).prog = none := by decide +kernel
/-- A state with one request of tenant 1: its state, its pages, key-value positions 0 to 63 valid; one plot allowed in each tier. -/
def req0 (st : ReqSt) (pages : List (Nat × Place)) (r : Req := {}) : State :=
  { State.reset with
    reqs := [(0, { r with reqId := 9, tenant := 1, st := st, pages := pages, seq := { base := 0x20000000000000, asid := 1, vlen := [64] } })]
    tenants := [(1, { quota := [1, 1, 1, 1], asid := 1, valid := false })] }

/-- TierMoves: a page that FREE takes; one in T3 that MOVE takes to T1; a MOVE and a park whose copies end. -/
theorem wit_tier_moves :
    let s := req0 .decode [(0, .t2 0x10800000000)]
    let m := req0 .prefill [(0, .t3 7)]
    s.pageReq 1 0x2000000000 = some (0, 0, .t2 0x10800000000) ∧ s.reqNamed 0 = false ∧ s.tierBusy 0 = false ∧ s.inMove 1 0x2000000000 = false ∧
    Tbl.find? (s.req 0).pages 0 = some (.t2 0x10800000000) ∧ m.atu.invBusy = none ∧ (m.moveDst 0 0 (.t3 7)).isSome = true ∧
    (m.moveDst 0 0 (.t3 7)).map (fun x => x.2.tier) = some (tierCode .t1) ∧
    (let c := { s with pools := { s.pools with moves := [⟨.copy, 1, 0x2000000000, 0, 0, .t2 0x10800000000, .t1 0 0⟩] } }
     (c.pools.moves.find? (fun m => m.asid = 1 && m.vpn = 0x2000000000 && m.stage = .copy)).isSome = true ∧
     c.placeOpen (.t2 0x10800000000) = true) ∧
    (req0 .parking [(0, .t1 0 0)] { parkCopies := [(0, .t2 0x10800000000, false)] }).parkCopyOf 1 0x2000000000 =
      some (0, 0, .t2 0x10800000000) ∧ (req0 .parking [(0, .t1 0 0)]).placeOpen (.t1 0 0) = true ∧
    s.placeLost (.t2 0x10800000000) = false ∧ m.placeLost (.t3 7) = true := by decide +kernel

/-- A model slot of tenant 1 with one plot, in use by no command. -/
def slot0 (m : Slot) : State := { req0 .free [] with slots := [(16383, { m with tenant := 1, st := .loaded, plots := [(5, .t2 0x10800000000)] })] }

/-- TierMoves on a slot's plot; TierOperations: a plot pinned before and one not; a park with nothing to move; a page to place; an
old table that nobody reads. -/
theorem wit_tier_operations :
    let s := slot0 { pinned := [(47, 0)], oldTables := [(3, 0x10800000000)] }
    let t := s.updTile 47 (fun x => { x with resMib := 1 })
    s.pageReq 1 5 = none ∧ s.pageSlot 1 5 = some (16383, .t2 0x10800000000) ∧ s.slotNamed 16383 = false ∧
    (t.slot 16383).pinned.contains (47, 0) = true ∧ t.pinOk 47 0 = true ∧ t.pinOk 47 0xF0000 = true ∧
    (t.slot 16383).pinned.contains (47, 0xF0000) = false ∧ 0 < t.quotaLeft 1 0 ∧
    t.accStatus .control .read 0x10800000000 65536 = Stat.ok ∧ t.memOpen 0x10800000000 65536 = true ∧
    (s.slot 16383).oldTables.find? (fun o => o.1 = 3) = some (3, 0x10800000000) ∧ Tbl.getD (s.slot 16383).pins 0x10800000000 0 = 0 ∧
    (let p := req0 .parking [(0, .t2 0x10800000000)] { parkTarget := 3 }
     (p.req 0).isLive = true ∧ (p.req 0).parkCopies = [] ∧ p.reqNamed 0 = false ∧ p.tierBusy 0 = false ∧
     1 ≤ p.quotaLeft 1 3) ∧
    ((req0 .parking [(0, .t1 0 0)] { parkTarget := 2 }).reservePark 2 [0]).isSome = true ∧
    (let p := req0 .resuming [(0, .t2 0x10800000000), (1, .holder), (2, .t3 0)] { pull := [0, 1, 2] }
     (p.req 0).isLive = true ∧ (p.req 0).resumeDev = 0 ∧ (p.req 0).pull.contains 2 = true ∧ p.placeLost (.t3 0) = true ∧
     p.roomT1 0 0 = true ∧ (p.roomPulled 0 0).isSome = true) := by decide +kernel

/-- A ring channel of HD's engine with a descriptor to take: a kind, a row of 64 bytes from T2 to T2. -/
def ringTakes (kind : Nat) : State :=
  (State.reset.wrBytes 0x10800000000 (toBytes 64 (withCrc (kind + 2 ^ 64 * 0x10800001000 + 2 ^ 128 * 0x10800002000 + 2 ^ 192 * 64 +
    2 ^ 224 * 1) 64))).updDch 4 63 (fun k => { k with enable := true, ringBase := 0x10800000000, sqTail := 1 })

/-- DmaTransfers: descriptors to take, good and bad; a tile's transfer, and the last byte of a window. -/
theorem wit_dma_transfers :
    (∀ kind ∈ [1, 2], ((ringTakes kind).nextDesc 4 63).map (fun d => (crcOk d 64, rdKind d, (ringXfer d).isSome)) =
      some (true, kind, true)) ∧
    (∀ kind ∈ [0, 5, 255], ((ringTakes kind).nextDesc 4 63).map (fun d => (crcOk d 64, rdKind d, (ringXfer d).isSome)) =
      some (true, kind, false)) ∧
    ((ringTakes 1).updDch 4 63 (fun k => { k with ringBase := 0x10800000001 })).nextDesc 4 63 ≠ none ∧
    (let d := 0x30 + 2 ^ 128 * 0x100 + 2 ^ 192 * 0x200 + 2 ^ 256 * 64 + 2 ^ 288 * 1
     let s := runs 0 {} [{ handle := 1, unit := 2, desc := d }]
     (s.engine? 0 1 0x30).isSome = true ∧ (tileXfer d).isSome = true ∧ extentStatus 0 0 [] [(scratchBytes 0 - 32, 32)] = Stat.ok ∧
     (s.dch 0 (s.tileDch 0 1)).xfer = none ∧ (s.dch 0 (s.tileDch 0 1)).state ≠ .halted ∧ (tileXfer 0) = none ∧
     (s.cmd? 0).map (fun c => (s.dstRemote 0 c [0x200], s.dstRemote 0 c [0x800000000000])) = some (false, false)) := by decide +kernel

/-- A channel with a transfer of 64 bytes that asks for a half entry, none of whose bursts is under way. -/
def xferEnds (e c : Nat) (half : Bool) : State := State.reset.updDch e c (fun k => { k with
  state := .active, xfer := some { desc := 0x401 + 2 ^ 192 * 64 + 2 ^ 224 * 1 + 2 ^ 416 * 1, cap := 64, handle := 3, half := half } })

/-- Of a channel's transfer: a half entry is due, work is left, accesses are held, bursts are under way. -/
def xferSays (s : State) (e : Fin 5) (c : Fin 64) : Option (List Bool) :=
  (s.dch e.val c.val).xfer.map (fun f => [s.halfDue e c f, f.todo, !f.held.isEmpty, !(s.waiting (chanAgent e c f)).isEmpty])

/-- DmaEntries: half and full entries of a ring channel and of a tile's. -/
theorem wit_dma_entries :
    (∀ half ∈ [true, false], xferSays (xferEnds 4 0 half) 4 0 = some [!half, false, false, false] ∧
      xferSays (xferEnds 3 23 half) 3 23 = some [!half, false, false, false]) ∧
    ((xferEnds 4 0 true).dch 4 0).cplFull = false ∧ tileOfDch 4 0 = none ∧ tileOfDch 3 23 = some 47 ∧
    wantsHalf false (0x401 + 2 ^ 192 * 64 + 2 ^ 224 * 1 + 2 ^ 416 * 1) = true := by decide +kernel

/-- DmaRegisters: the outer channels; a halted one; a trained package. -/
theorem wit_dma_registers : isRing 4 63 = true ∧ isRing 3 24 = true ∧ dchExists 3 31 = true ∧ dchExists 4 63 = true ∧
    ((State.reset.updDch 4 63 (fun k => { k with state := .halted })).dch 4 63).state = .halted ∧
    ((State.reset.updLpc 15 (fun k => { k with state := 2 })).lpcOf 15).state = 2 := by decide +kernel
/-- A medium of 16 blocks in 2 LUNs with one plot in block 2, its run written. -/
def flash1 (p : FlashPlot) (k : FlashBlock) : State :=
  { State.reset with ftl := { State.reset.ftl with blocks := 16, blockSectors := 64, luns := 2, map := [(0, p)], blk := [(2, k)] } }

/-- FlashCommands: a plot to read, to a free place and to one that is not; a block to relocate, with a place for its run and without. -/
theorem wit_flash :
    let s := flash1 { sectors := 16, block := 2, first := 0 } { used := 16, reads := 5, weak := true }
    s.live = true ∧ (Tbl.find? s.ftl.map 0).isSome = true ∧ Tbl.getD s.ftl.chState (s.ftl.chanOfBlock 2) 0 ≠ 3 ∧
    s.accStatus (.dma 4 true) .write 0x10800000000 65536 = Stat.ok ∧ inAperture 0x10800000000 = false ∧ inAperture 0x800000000000 = true ∧
    2 < s.ftl.blocks ∧ s.ftl.reserved 2 = false ∧ s.ftl.reserved 1 = true ∧ s.relocDue 2 .refresh = true ∧ s.relocDue 2 .badBlock = true ∧
    (moveRuns 2 s.ltu s.ftl.map s.ftl).isSome = true ∧ moveRuns 2 s.ltu s.ftl.map { s.ftl with blockSectors := 1 } = none := by decide +kernel

/-- A compressor operation of one plot, from T2 to T2: cop 1 compresses, 2 decompresses. -/
def compDesc (cop : Nat) : Nat := 0x32 + 2 ^ 128 * (0x10800000000 + 2 ^ 64 * 0x10800100000 + 2 ^ 128 * 1 + 2 ^ 160 * cop + 2 ^ 184 * 63 +
  2 ^ 192 * 65536 + 2 ^ 224 * 65536 + 2 ^ 320 * 0x100)

/-- A compressor descriptor of a ring channel: kind 3 compresses, 4 decompresses. -/
def ringDesc (kind : Nat) : Nat := withCrc (kind + 2 ^ 64 * 0x10800010000 + 2 ^ 128 * 0x10800020000 + 2 ^ 192 * 65536 + 2 ^ 224 * 1 +
  2 ^ 256 * 65536 + 2 ^ 320 * 65536 + 2 ^ 392 * 63) 64

/-- CompressorRuns: an operation in order and one out of order; a full share; a ring descriptor to take. -/
theorem wit_compressor :
    (∀ cop ∈ [1, 2], let s := (runs 47 {} [{ handle := 1, unit := 4, desc := compDesc cop }]).updComp 3 (fun k => { k with share := 3 })
      (s.compOp? 47 1 (.tileDma 47 1)).isSome = true ∧ (tileComp (compDesc cop)).isSome = true ∧ fld (compDesc cop) 0x24 1 = cop ∧
      extentStatus 47 0 [] [(fld (compDesc cop) 0x38 4, 16)] = Stat.ok ∧ 3 ≤ (s.compOf 3).share ∧
      (s.cmd? 47).map (fun c => s.dstRemote 47 c [0x10800100000]) = some false) ∧
    tileComp (0x32 + 2 ^ 288 * 1) = none ∧ tileComp (0x32 + 2 ^ 288 * 2) = none ∧
    (∀ kind ∈ [3, 4], let s := (State.reset.wrBytes 0x10800000000 (toBytes 64 (withCrc kind 64))).updDch 3 24 (fun k =>
        { k with enable := true, ringBase := 0x10800000000, sqTail := 1 })
      (s.nextDesc 3 24).map (fun d => (crcOk d 64, rdKind d)) = some (true, kind) ∧ ringCompStatus 3 (withCrc kind 64) ≠ Stat.ok) ∧
    (∀ kind ∈ [3, 4], crcOk (ringDesc kind) 64 = true ∧ rdKind (ringDesc kind) = kind) := by decide +kernel

/-- A Sieve operation of one index 0 and rows of 64 BF16 elements, indices at 0x1000. -/
def sieveDesc (sop n : Nat) : Nat := 0x33 + 2 ^ 128 * (sop + 2 ^ 8 * 0x0B + 2 ^ 16 * 64 + 2 ^ 32 * n + 2 ^ 64 * 0x1000 + 2 ^ 96 * 0x2000 +
  2 ^ 128 * 0x3000 + 2 ^ 160 * 0x4000 + 2 ^ 192 * 1 + 2 ^ 224 * 1 + 2 ^ 240 * 1)

/-- SieveUpdates: each operation with fields in order and out of order, the indices in the scratchpad, an index out of range. -/
theorem wit_sieve_updates :
    (∀ sop ∈ [1, 2, 3, 4], let s := runs 0 {} [{ handle := 1, unit := 4, desc := sieveDesc sop 1 }]
      (s.sieveOp? 0 1 sop (.tileDma 0 1)).isSome = true ∧ svCommonOk (sieveDesc sop 1) = true ∧ svOut (sieveDesc sop 1) % 128 = 0 ∧
      (2 < sop → scatterOk (sieveDesc sop 1) = true) ∧ s.indices 0 0x1000 1 1 = some [0] ∧ s.indices 0 0x1000 1 0 = none ∧
      extentStatus 0 0 [(0x1000, 4), (0x3000, 128)] [(0x4000, 128)] = Stat.ok ∧
      extentStatus 0 0 [(0x1000, 4)] [(0x2000, 20)] = Stat.ok) ∧
    (∀ sop ∈ [1, 3, 4], let s := runs 0 {} [{ handle := 1, unit := 4, desc := sieveDesc sop 0 }]
      (s.sieveOp? 0 1 sop (.tileDma 0 1)).isSome = true ∧ svCommonOk (sieveDesc sop 0) = false ∧
      scatterOk (sieveDesc sop 0) = false) := by decide +kernel

/-- A table descriptor of one row of 32 elements. -/
def tableDesc : Nat := withCrc (2 ^ 256 * 1 + 2 ^ 288 * 32 + 2 ^ 384 * 1 + 2 ^ 424 * 1) 64

/-- SieveGather: the pinned table in order, none pinned, one with a bad check code and one with a bad entry. -/
theorem wit_sieve_gather :
    (runs 0 {} []).live = true ∧ crcOk tableDesc 64 = true ∧ tableOk tableDesc = true ∧ crcOk (tableDesc + 1) 64 = false ∧
    crcOk (withCrc 0 64) 64 = true ∧ tableOk (withCrc 0 64) = false ∧ (fmtOf 0x0B).isSome = true ∧ (fmtOf 0x0C).isSome = true ∧
    tdDim tableDesc * 16 / 8 ≤ svStride (sieveDesc 2 1) ∧ extentStatus 0 0 [(0x1000, 4)] [(0x2000, 64)] = Stat.ok ∧
    ((State.reset.wrBytes 0x10800000000 (toBytes 64 tableDesc)).rd 0x10800000000 64) = tableDesc := by decide +kernel

/-- A state whose link 35 is as given. -/
def link35 (l : Link) : State := State.reset.updLink 35 (fun _ => l)

/-- A packet of type `pt` from device `src` for device 0, with its HCRC. -/
def pkt0 (pt src : Nat) : Pkt := (mkPkt pt 0 0 src 0 0 0 []).stamp 0

/-- LinkTraffic: a link that carries packets; packets in order for this device, known and unknown, from an active peer and from none;
one with a bad header; a replay buffer whose LSEQs an ACK names; ACKs due. -/
theorem wit_link_traffic :
    let s := link35 { state := .managementOnly, replay := [(4095, pkt0 2 0), (0, pkt0 2 0)], accepted := 64, acceptedAt := 0 }
    s.live = true ∧ (s.link 35).carries = true ∧ (s.link 35).nakSent = false ∧ (s.link 35).rxSeq = 0 ∧
    (∀ pt ∈ [1, 2, 5, 0x10, 0x17, 0xFF], (pkt0 pt 1).hcrcOk = true ∧ (pkt0 pt 1).ptype = pt ∧ (pkt0 pt 1).lseq = 0 ∧ (pkt0 pt 1).dst = s.fid ∧
      ptypeKnown pt = (pt != 0xFF)) ∧
    (mkPkt 2 0 0 1 0 0 0 []).hcrcOk = false ∧ fecBad (.uncorrectable 1) = true ∧ fecBad (.corrected 3) = false ∧ s.peerActive 1 = false ∧
    ({ s with fab := { s.fab with peers := [(1, 2 ^ 136)] } }).peerActive 1 = true ∧ seqDist 4095 0 = 1 ∧ 64 ≤ (s.link 35).accepted := by
  decide +kernel

/-- LinkLife: the link down, fenced, in training for the first time and again, up with a replay buffer; times that have run out. -/
theorem wit_link_life :
    (link35 {}).live = true ∧ ((link35 {}).link 35).state = .down ∧ ((link35 { fenced := true }).link 35).fenced = true ∧
    (let s := { link35 { state := .training, enable := true } with ltu := 25000001 }
     (s.link 35).prev = none ∧ (s.link 35).enable = true ∧ (s.link 35).since + 25000000 < s.ltu) ∧
    (let s := { link35 { state := .linkUp, naks := 8, replay := [(0, pkt0 2 0)] } with ltu := 10001 }
     (s.link 35).carries = true ∧ 8 ≤ (s.link 35).naks ∧ (s.link 35).replay ≠ [] ∧ (s.link 35).lastAck + 10000 < s.ltu ∧
     (s.link 35).helloRec = none) ∧
    (∀ r ∈ [[], [(7, pkt0 2 0)]], let s := { link35 { state := .training, prev := some .active, replay := r } with ltu := 1000001 }
     (s.link 35).prev = some .active ∧ (s.link 35).since + 1000000 < s.ltu) ∧
    ((link35 { state := .active, partnerSwitch := true }).link 35).carries = true := by decide +kernel

/-- Agreement: a record that fails the first check; a REPLY awaited and one that is not; timeouts before and after the third HELLO; a
message with its CRC; table indices where the tables end. -/
theorem wit_agreement :
    (let s := link35 { state := .linkUp }
     (s.link 35).partnerSwitch = false ∧ helloVerdict (s.helloOut 35) 1 (s.peer 0) = 1 ∧ s.helloAwaited 35 5 = false ∧
     s.peerActive 5 = false) ∧
    (∀ n ∈ [1, 2, 3], let s := { link35 { state := .linkUp, helloAt := some 0, helloTries := n } with ltu := 1000001 }
     s.helloAwaited 35 5 = true ∧ (s.link 35).helloAt = some 0 ∧ 0 + 1000000 < s.ltu) ∧
    (let s := { State.reset with ltu := 1000001, fab := { State.reset.fab with helloPeer := [(4095, (3, 0))], peers := [(4095, 2 ^ 99)] } }
     Tbl.find? s.fab.helloPeer 4095 = some (3, 0) ∧ (lowestLink (s.peer 4095)).isSome = true ∧ lowestLink (s.peer 1) = none) ∧
    crc32c [] = (BitVec.ofNat 32 (crc32c [])).toNat ∧ crc32c [1#8] ≠ crc32c [] ∧
    (2047 : Nat) < 2048 ∧ (BitVec.ofNat 14 4096).toNat = 4096 ∧ (BitVec.ofNat 14 3).toNat = 3 := by decide +kernel
/-- A fabric of one peer, device 5 over link 35: a window on its region, a region of this device in T2, and the given link. -/
def fab1 (l : Link) : State :=
  let s := (link35 l).updLnd 1 (fun d => { d with windows := [(0, withCrc (2 ^ 64 * 2 ^ 30 + 2 ^ 176 * 5 + 2 ^ 208 * 7) 32)] })
  { s with fab := { s.fab with
    peers := [(5, 35 * 2 ^ 128 + 2 ^ 136)]
    regions := [(16383, withCrc (0x11800000000 + 2 ^ 64 * 2 ^ 30 + 2 ^ 128 * 7 + 2 ^ 192 * 1 + 2 ^ 200 * 11) 32)] } }

/-- A request of device 5 for the region's offset 0: MOP `mop`, of 8 bytes. -/
def mopPkt (mop key : Nat) : Pkt :=
  mkPkt 0x04 5 0 5 0 0 (key + 16383 * 2 ^ 32 + mop * 2 ^ 48) (List.replicate 32 1#8)

/-- MsfIssue: the first and the last address of the window pass R285; one past it does not; a hart, a thread that waits for its load,
the commit unit's list and a burst that is to go; a slot to take, and no other link still moving. -/
theorem wit_msf_issue :
    (∀ mop ∈ [1, 2, 3, 4, 5], (fab1 { state := .active }).windowCheck (.control 7) 0xC00000000000 8 mop = none ∧
      (fab1 { state := .active }).windowCheck (.control 7) 0xC0003FFFFFF8 8 mop = none) ∧
    (fab1 { state := .active }).windowCheck (.control 7) 0xC00040000000 8 1 = some (Stat.addrUnmapped, 0x14) ∧
    (fab1 { state := .active }).linkMoving 5 = false ∧ (Claims.msfSlot (fab1 { state := .active }) 1) = some 0 ∧
    inAperture 0xC00000000000 = true ∧ inAperture 0x800000000000 = true ∧ inAperture 0xFFFFFFFFFFF8 = true ∧
    (let acc : CoreAcc := { kind := .load, lg := 3, fp := false, zext := false, rd := 3, rs1 := 1, rs2 := 2, imm := 0, ilen := 4 }
     let s := runs 47 { wait := some (.issue 0xC00000000000 acc) } []
     ((s.cmd? 47).map (fun c => (c.thread? 0).map (·.wait))) = some (some (some (.issue 0xC00000000000 acc)))) ∧
    (let b : Burst := { ag := .dma 4 63, addr := 0xC00000000000, len := 256, loc := 0x10800000000, write := true }
     let s := { fab1 {} with fab := { (fab1 {}).fab with bursts := [b], commitOps := [{ tag := 5, mop := 2, addr := 0xC00000000000, val := 1, tenant := 0 }] } }
     s.burst? (.dma 4 63) 0xC00000000000 256 true = some b ∧ s.heldChan b.loc 256 = none ∧ s.burst? (.dma 4 63) 0xC00000000000 256 false = none ∧
     s.chanOfAgent (.dma 4 63) ≠ none ∧ s.fab.commitOps.head?.isSome = true) := by decide +kernel

/-- MsfReceive: requests that pass every check and one whose key is wrong; a slot outstanding, one retired, one anchored; configured
timeouts at the ends of their range. -/
theorem wit_msf_receive :
    (∀ mop ∈ [1, 2, 3, 4, 5, 6, 7], (mopPkt mop 7).ptype = 4 ∧ mqMop (mopPkt mop 7) = mop ∧
      (fab1 {}).msfReqStatus 1 (mopPkt mop 7) = 0 ∧ (fab1 {}).mqCheck (mopPkt mop 8) = 1) ∧
    (fab1 {}).mqCheck (mopPkt 8 7) = 6 ∧ Claims.answerLink (fab1 {}) (mopPkt 1 7) = some 35 ∧
    (fab1 {}).earlierHeld (mopPkt 2 7) none = false ∧ (fab1 {}).heldChan 0x11800000000 8 = none ∧ (mkPkt 0x05 0 0 5 0 0 0 []).ptype = 5 ∧
    (let s := { (fab1 {}).updLnd 1 (fun d => { d with timeoutUs := 10, txn := [(0, { ag := some (.control 0), dest := 5 }), (4095, { retired := some 0 })] })
       with ltu := 1001 }
     (Tbl.getD (s.lnd 1).txn 0 {}).ag = some (.control 0) ∧ (Tbl.getD (s.lnd 1).txn 0 {}).anchored = false ∧
     0 + 100 * (s.lnd 1).timeoutUs < s.ltu ∧ (Tbl.getD (s.lnd 1).txn 4095 {}).retired = some 0 ∧ (Tbl.getD (s.lnd 1).txn 1 {}).ag = none) ∧
    bits (BitVec.ofNat 32 10).toNat 0 17 = 10 ∧ bits (BitVec.ofNat 32 100000).toNat 0 17 = 100000 ∧
    bits (BitVec.ofNat 32 9).toNat 0 17 < 10 ∧ 100000 < bits (BitVec.ofNat 32 100001).toNat 0 17 := by decide +kernel

/-- Link 35 with one packet of one flit in queue `k`, credit for it and its gates open. -/
def egress (k : Nat) (r : Option Nat) : State :=
  link35 { state := .active, q := [(k, [{ p := pkt0 4 0 }])], credit := [(k, 8)], replay := (r.map (fun n => (n, pkt0 4 0))).toList, replayAt := r }

/-- EgressSelect: a packet boundary with a packet in Q0, in Q1, in Q7, and with a replay under way; one before the wire is free. -/
theorem wit_egress :
    (∀ k ∈ [0, 1, 7], (egress k none).live = true ∧ ((egress k none).link 35).carries = true ∧ ((egress k none).link 35).decision 0 = some 0 ∧
      (((egress k none).link 35).queueOf k).map (fun x => (x.tenant, x.colour, decide (x.p.flits ≤ Tbl.getD ((egress k none).link 35).credit k 0))) =
        [(none, none, true)]) ∧
    ((egress 1 none).link 35).open_ 1 { p := pkt0 4 0 } = true ∧ ((egress 1 none).link 35).open_ 1 { p := mkPkt 4 0 0 0 0 0 0 (List.replicate 256 0#8) } = false ∧
    ((egress 1 none).link 35).queueOf 0 = [] ∧ ((egress 1 (some 4095)).link 35).replayAt = some 4095 ∧
    (((egress 1 (some 4095)).link 35).replay.find? (fun e => e.1 = 4095)).isSome = true ∧
    ((link35 { sending := some (1, 1000) }).link 35).decision 0 = none := by decide +kernel

/-- A gate entry of `n` ticks with every gate open. -/
def gateEntry (n : Nat) : Nat := (n + 127 * 2 ^ 20) + crc8 (toBytes 7 (n + 127 * 2 ^ 20)) * 2 ^ 56

/-- A link with an administrative list of `n` entries. -/
def gatesOf (n : Nat) (o : Gates) : State := link35 { gates := { o with adminLen := n, bank := (List.range n).map (fun i => (64 + i, gateEntry 100)) } }

/-- GatesAndTables: a list of one entry and of 64 that arm, of none and of 65 that do not; a takeover whose moment has come; an interval
that has ended; a policer entry in order; table indices at the ends of their tables. -/
theorem wit_gates :
    (∀ n ∈ [(1, 0), (64, 0), (0, 1), (65, 1)], let g := ((gatesOf n.1 {}).link 35).gates
      gateListCause g.adminLen ((List.range (Nat.min 64 g.adminLen)).map g.admin) g.sync (gatesOf n.1 {}).inFactory g.pending = n.2) ∧
    (let g := ((gatesOf 1 { pending := true, takeAt := some 0, operValid := true }).link 35).gates
     g.pending = true ∧ g.takeAt = some 0 ∧ g.operValid = true ∧ g.fallback = false ∧ g.curStart + gateInterval (g.oper g.curEntry) ≤ 0) ∧
    gateInterval (gateEntry 100) = 100 ∧ gateCheckOk (gateEntry 100) = true ∧
    policerOk (1 + 2 ^ 32 * 1800000 + 2 ^ 64 * 4128 + 2 ^ 96 * 16777215 + 2 ^ 128 * 1) = true ∧ policerOk 0 = false ∧
    (BitVec.ofNat 16 4095).toNat < 4096 ∧ (BitVec.ofNat 16 2303).toNat < 2304 ∧ (BitVec.ofNat 16 65535).toNat < 65536 := by decide +kernel
/-- A work entry of operation `wop` on connection 7, from T2, its lengths and fields as that operation has them. -/
def weOf (wop : Nat) : Nat := withCrc (wop + 2 ^ 32 * 7 + 2 ^ 128 * 0x11800000000 + 2 ^ 192 * (if wop = 4 then 0 else 32)) 64

/-- A device whose connection 7 is as given and whose send queue 0 of link die 0 has one entry at its head. -/
def rae1 (wop : Nat) (c : Conn) : State :=
  let s := (fab1 {}).wrBytes 0x11800010000 (toBytes 64 (weOf wop))
  { s with fab := { s.fab with
    conns := [(7, c)], sqs := [(0, { base := 0x11800010000, enable := true, tail := 1 })], cqs := [(0, { base := 0x11800020000 })] } }

/-- A connection ready, its context in the cache. -/
def ready7 : Conn := { state := .ready, cached := true, dest := 5, control := true, home := 0 }

/-- RaeEntries: entries of each operation that may start; one whose connection has failed; queues with nothing to stop; a completion
queue with room and a full one. -/
theorem wit_rae_entries :
    (∀ wop ∈ [1, 2, 3, 4, 5, 6, 7], let s := rae1 wop ready7
      s.sqReady 0 = true ∧ weWop (s.sqEntry 0) = wop ∧ s.entryStop 0 (s.sqEntry 0) = none ∧ weConn (s.sqEntry 0) = 7 ∧
      (s.conn 7).state = .ready ∧ bit (s.sqEntry 0) 9 = false ∧ s.sqStop 0 = none ∧
      (wop = 4 ∨ s.accStatus (.dma 5 true) (if wop = 3 then .write else .read) (weLocal (s.sqEntry 0)) (weLen (s.sqEntry 0)) = Stat.ok)) ∧
    (rae1 1 { ready7 with state := .error }).sqStop 0 = some Stat.flushed ∧
    (∀ q, q < 256 → (fab1 {}).sqStop (256 + q) = none) ∧
    ((rae1 1 ready7).cq 0).full = false ∧ ({ log2 := 0, tail := 1 } : CplQ).full = true := by decide +kernel

/-- A connection descriptor that passes its checks, RESET, of link die 0. -/
def connDesc : Nat := withCrc (5 + 2 ^ 32 * 9 + 2 ^ 72 * 2 + 2 ^ 88 * 7 + 2 ^ 96 * 64 + 2 ^ 112 * 4096 + 2 ^ 128 * 1 + 2 ^ 192 * 1000) 64

/-- RaeConnections: one to activate, to reset, to force; an ACK due; a link that carries nothing; a region to revoke and one that has
drained. -/
theorem wit_rae_connections :
    (let s := State.reset.wrBytes (connSlot 7) (toBytes 64 connDesc)
     (s.lnd 0).resetting = none ∧ bits (s.rd (connSlot 7) 64) 80 1 = 0 ∧ (s.conn 7).state = .reset ∧ connDescOk (s.rd (connSlot 7) 64) = true) ∧
    (let s := { rae1 1 { ready7 with ackFrom := some 0 } with ltu := 100 }
     s.live = true ∧ (s.lnd 0).resetting = none ∧ (s.conn 7).home = 0 ∧ (s.conn 7).state = .ready ∧ (s.conn 7).ackFrom = some 0 ∧
     0 + 100 ≤ s.ltu ∧ (s.cachedOn 0).length < 16384 ∧ (s.link 0).carries = false ∧ s.fab.revoking = none ∧
     rgState (s.region 16383) = 1 ∧ rgState (s.region 0) = 0) ∧
    ((link35 { state := .active }).link 35).carries = true ∧ (fab1 {}).inflight 16383 = 0 ∧
    ({ fab1 {} with fab := { (fab1 {}).fab with revoking := some 16383 } }).live = true := by decide +kernel

/-- A packet of connection 7: its MSN and its index. -/
def rq (pt msn idx : Nat) : Pkt := mkPkt pt 2 0 5 0 0 (7 + idx * 2 ^ 20 + msn * 2 ^ 32 + (16383 + 7 * 2 ^ 16) * 2 ^ 60) (List.replicate 32 1#8)

/-- A message open on connection 7. -/
def msg7 (pt : Nat) : OutMsg :=
  { msn := 3, entry := 0, ptype := pt, npktM1 := 0, loc := 0x11800000000, len := 32, epoch := 0, imm := none, rtoFrom := some 0 }

/-- RaeReceive: packets of a connection not READY, READY, not in the cache; MSNs at the ends of their windows; READ data awaited; a
timer run out with retries left and with none; a context that is wanted. -/
theorem wit_rae_receive :
    rqConn (rq 0x10 3 0) = 7 ∧ rqMsn (rq 0x10 3 0) = 3 ∧ msnDist 0 63 = 63 ∧ msnDist 0 64 = 64 ∧ msnDist 0 32767 = 32767 ∧ msnDist 0 32768 = 32768 ∧
    ((rae1 1 { ready7 with state := .error }).admitData (rq 0x10 3 0)).2 = none ∧
    ((rae1 1 { ready7 with cached := false }).contextFor (rq 0x10 3 0)).2 = none ∧
    ((rae1 1 ready7).contextFor (rq 0x10 3 0)).2 = some 7 ∧ ((rae1 1 ready7).admitData (rq 0x10 63 0)).2 = some 7 ∧
    ((rae1 1 ready7).admitData (rq 0x10 64 0)).2 = none ∧
    (({ ready7 with out := [msg7 0x11] } : Conn).readOf (rq 0x12 3 0)).isSome = true ∧ (ready7.readOf (rq 0x12 3 0)) = none ∧
    (let s := { rae1 1 { ready7 with out := [msg7 0x10] } with ltu := 100001 }
     ((s.conn 7).out.find? (fun m => m.msn = 3)).bind (·.rtoFrom) = some 0 ∧ 0 + 100 * (s.conn 7).rtoUs < s.ltu ∧ 0 < (s.conn 7).retryMax ∧
     (({ ready7 with retryMax := 0 } : Conn).retryMax ≤ 0)) ∧
    (rae1 1 { ready7 with cached := false }).wantsContext 0 7 = true ∧ ((rae1 1 ready7).makeRoom 0).isSome = true ∧
    immPacket (rq 0x10 3 0) = false := by decide +kernel

/-- A graft with device 5, as sender or receiver. -/
def graft5 (send : Bool) (mode : GMode) (phase : GPhase) (ans : Option Nat) : Graft :=
  { send := send, mode := mode, reqId := 9, tenant := 1, peer := 5, gtag := 1, phase := phase, answered := ans, req := 0 }

/-- A device with that graft and a request in decode. -/
def grafts (g : Graft) : State := let s := req0 .decode []; { s with fab := { s.fab with grafts := [g] } }

/-- A record of the graft. -/
def rec9 (gmode status gtag : Nat) : GRec := { gmode := gmode, status := status, gtag := gtag, reqId := 9#64, tenant := 1#16 }

/-- GraftRecords: records with a good check and a bad one; each record finds the graft it is for, in the mode it is for; epochs honoured
and not; an OPEN that is refused. -/
theorem wit_graft_records :
    (req0 .decode []).live = true ∧ (req0 .decode []).honours 0 = true ∧ (req0 .decode []).honours 1 = true ∧ (req0 .decode []).honours 2 = false ∧
    ((req0 .decode []).recordIn 5 0 (rec9 1 0 1) false).2 = true ∧ ((req0 .decode []).recordIn 5 2 (rec9 1 0 1) false).2 = false ∧
    ((req0 .decode []).recordIn 5 0 { rec9 1 0 1 with crcOk := false } true).2 = false ∧
    (∀ m ∈ [GMode.push, .handover, .park],
      (grafts (graft5 true m .opening none)).findGraft (fun g => g.send && g.phase = .opening && g.peer = 5 && g.reqId = 9 && g.epoch = 0) = some 0 ∧
      (grafts (graft5 false m .moving (some 0))).findGraft (fun g => !g.send && g.mode ≠ .pull && g.peer = 5 && g.reqId = 9 && g.gtag = 1 &&
        g.answered.isSome) = some 0 ∧
      (grafts (graft5 true m .committing (some 0))).findGraft (fun g => g.send && g.mode ≠ .pull && g.phase = .committing && g.peer = 5 &&
        g.gtag = 1 && g.reqId = 9) = some 0) ∧
    (req0 .decode []).openCheck (rec9 1 0 1) {} ≠ Stat.ok ∧ (req0 .decode []).presentIn 0 5 = true ∧
    (req0 .free []).liveReqs.find? (fun i => ((req0 .free []).req i).reqId = 9) = none := by decide +kernel

/-- A holder of request 9 for device 5. -/
def holder9 (t : Option (Nat × Nat)) : HolderRec := { idx := 0, reqId := 9, tenant := 1, dev := 5, epoch := 0, ttl := t }

/-- GraftPulls: a holder whose time is up and one whose time is not; a pull and its end; claims older and newer; pages to address. -/
theorem wit_graft_pulls :
    ({ State.reset with ltu := 100001 }).holderOver (holder9 (some (0, 1))) = true ∧ ({ State.reset with ltu := 100000 }).holderOver (holder9 (some (0, 1))) = false ∧
    (let s := { State.reset with holders := [holder9 none] }
     s.holders.find? (fun h => h.reqId = 9 && h.parked) = some (holder9 none) ∧ (s.holderFor 5 0 9).2 = some (holder9 none) ∧
     (s.holderFor 6 0 9).2 = none ∧ ((s.holderFor 6 1 9).2.map (·.dev)) = some 6) ∧
    claimLower (0, 5) (1, 6) = true ∧ claimLower (1, 6) (0, 5) = false ∧ claimLower (0, 5) (32768, 4) = true ∧
    (grafts (graft5 false .pull .moving (some 0))).findGraft (fun g => !g.send && g.mode = .pull && g.live && g.peer = 5 && g.gtag = 1 && g.reqId = 9) = some 0 ∧
    (req0 .decode []).reqBy 9 1 = some 0 ∧ ((req0 .decode []).reqBy 9 2) = none ∧ (mgmtMsg 1 0 9).length = 28 := by decide +kernel

/-- RequestOperations: a device that runs GENERATION and one that does not; a request in the state each operation takes; a park whose
time is up; a handover and a recomputation that are due. -/
theorem wit_request_operations :
    hasGeneration 2 = true ∧ hasGeneration 4 = true ∧ hasGeneration 1 = false ∧ hasPrompt 1 = true ∧ hasPrompt 2 = false ∧
    (∀ st ∈ [ReqSt.decode, .parking, .parked, .expired, .handover, .resuming], (req0 st []).reqBy 9 1 = some 0) ∧
    ({ req0 .parked [] { ttlOn := true, ttlMs := 1 } with ltu := 100001 }).ttlOver ((req0 .parked [] { ttlOn := true, ttlMs := 1 }).req 0) = true ∧
    ({ req0 .parked [] { ttlOn := true, ttlMs := 1 } with ltu := 100000 }).ttlOver ((req0 .parked [] { ttlOn := true, ttlMs := 1 }).req 0) = false ∧
    (let s := req0 .resuming [] { resumeDev := 5 }
     (s.req 0).st = .resuming ∧ (s.req 0).ending = false ∧ s.sending 0 = none ∧ s.reqNamed 0 = false) ∧
    (let s := req0 .resuming [] { backTo := .expired }
     (s.req 0).isLive = true ∧ (s.req 0).fallback = false ∧ (s.req 0).resumeDev = 0) ∧
    (req0 .decode []).admitCheck 0 0 = Stat.notConfigured ∧
    (let s := State.reset.updRing 262143 (fun g => { g with kind := .submission, rstate := .active })
     (s.ring 262143).kind = .submission ∧ (s.ring 262143).rstate ≠ .free) ∧
    (grafts (graft5 true .push .failed (some 0))).findGraft (fun g => g.send && g.mode = .push && g.req = 0 && g.phase = .failed &&
      g.answered.isSome) = some 0 := by decide +kernel
/-- A device whose ring 262143 is as given. -/
def lastRing (g : Ring) : State := { State.reset.updRing 262143 (fun _ => g) with devState := .ready }

/-- A ring descriptor that passes its checks: a submission ring, ACTIVE. -/
def ringRaw (st : Nat) : Nat := withCrc (1 + st * 2 ^ 8 + 4 * 2 ^ 24) 64

/-- RingCommands: a ring that moves to the end of what it allows and past it; descriptors with a good check, a bad one and bad fields; a
ring that halts, one whose interrupt is due, one whose entry a turn takes. -/
theorem wit_rings :
    (let s := lastRing { kind := .submission, rstate := .active, log2 := 4, head := 1, tail := 2 }
     s.live = true ∧ (s.ring 262143).rstate ≠ .free ∧ (s.ring 262143).ld = 0 ∧ (17 + 2 ^ 32 - 1) % 2 ^ 32 ≤ 2 ^ (s.ring 262143).log2 ∧
     2 ^ (s.ring 262143).log2 < (18 + 2 ^ 32 - 1) % 2 ^ 32 ∧ s.ringTurn 262143 = true ∧ (s.ring 262143).used = 1 ∧ (s.ring 0).rstate = .free) ∧
    crcOk (ringRaw 1) 64 = true ∧ kindOf (fld (ringRaw 1) 0 1) = some .submission ∧ ringDescOk (ringRaw 1) .submission = true ∧
    ringDescOk (ringRaw 3) .submission = false ∧ crcOk (ringRaw 1 + 1) 64 = false ∧ kindOf 5 = none ∧ kindOf 0 = none ∧
    ((lastRing { rstate := .halted, was := .active }).ring 262143).rstate = .halted ∧
    (let g : Ring := { unannounced := true, irq := true, lastIrq := some 0, coalesceUs := 1, rstate := .active }
     ∀ t ∈ [100, 99], decide (0 + 100 * ((lastRing g).ring 262143).coalesceUs ≤ t) = (t == 100)) ∧
    (Tbl.find? (State.reset.ld 0).msix 2047 = none) := by decide +kernel

/-- A group 1023 with one member, tag 1023, in the given state. -/
def group1 (st : TagSt) (o : Group) : State :=
  { (State.reset.updTag 1023 (fun g => { g with held := true, st := st, group := 1023, tile := 47 })).updGroup 1023 (fun _ =>
      { o with open_ := true, members := [1023] }) with devState := .ready, ltu := 100000 }

/-- StepsAndGroups: a boundary that is due; a group whose members are COMMITTING; one to kill; one fenced; a completion posted; an
active tenant; the slow-down period's end. -/
theorem wit_groups :
    (let s := group1 .committing {}
     s.live = true ∧ s.reqRegs.inFlight.length < 2 ∧ s.reqRegs.inFlight = [] ∧ s.ltu % 100000 = 0 ∧ (s.group 1023).open_ = true ∧
     (s.group 1023).copy = none ∧ (s.group 1023).members = [1023] ∧ (s.tag 1023).st = .committing ∧ s.groupPubs 1023 = [] ∧ s.deferredOpen [] = true) ∧
    (let s := { group1 .queued {} with cfg := { State.reset.cfg with dev := { State.reset.cfg.dev with stepsInFlight := 1 } } }
     s.reqRegs.inFlight.length < s.cfg.dev.stepsInFlight ∧ s.reqRegs.killBusy = none ∧ (s.tag 1023).live = true ∧ (s.tag 1023).st ≠ .committing) ∧
    ((group1 .queued {}).updTile 47 (fun x => { x with fenced := true })).groupFenced 1023 = true ∧
    (group1 .killed {}).liveMembers 1023 = [] ∧ (group1 .queued {}).liveMembers 1023 = [1023] ∧
    ((State.reset.updTag 1023 (fun g => { g with posted := true })).tag 1023).posted = true ∧
    (slot0 {}).tenantActive 1 = true ∧ (req0 .free []).tenantActive 2 = false ∧
    0 + 10000000 ≤ ({ State.reset with ltu := 10000000 }).ltu ∧ ({ State.reset with ltu := 9999999 }).ltu < 0 + 10000000 := by decide +kernel

/-- RegisterAccesses: the first and last registers of a site; a tile's access, a size of 2 and a misaligned one; a host page's edges. -/
theorem wit_registers :
    regionOf 0x30000000000 = .regs ∧ regionOf 0x3000FFFFFF8 = .regs ∧ regionOf 0x30010000000 ≠ .regs ∧
    regStatus .control 0x30002018220 4 = Stat.ok ∧ regStatus .control 0x30002018220 2 = Stat.accessDenied ∧
    regStatus .control 0x30002018221 4 = Stat.accessDenied ∧ regStatus (.tile 0) 0x30002018220 4 = Stat.accessDenied ∧
    regStatus .control 0x3000FFFFFF8 8 = Stat.addrUnmapped ∧ (BitVec.ofNat 64 1).toNat.testBit 0 = true ∧
    State.reset.boot.good = true ∧ (0xFFFC : Nat) < 0x10000 ∧ (0x18FF8 : Nat) % 0x1000 + 8 ≤ 0x1000 := by decide +kernel

/-- Mailbox 0 of LD 15 with a message of opcode `op` under way, its payload as given. -/
def asked (op payload : Nat) : State :=
  { State.reset.updMb (.ld 15 0) (fun x => { x with busy := true, msg := op + 2 ^ 256 * payload }) with
    devState := .ready, cxl := { State.reset.cxl with mld := true } }

/-- MailboxQueries: a message of each query under way; a mailbox that takes GO and one that rejects it; the next message, good or bad. -/
theorem wit_mailbox :
    (∀ op ∈ [0x0001, 0x0501, 0x0701, 0x0901, 0x0905, 0x0801, 0x0304, 0x0502, 0x0601, 0x0104, 0x0305], ((asked op 0).held (.ld 15 0) op).isSome = true) ∧
    (asked 1 0).boot.good = true ∧ (asked 1 0).boot.released = true ∧ (asked 1 0).presents 15 = true ∧ State.reset.presents 15 = false ∧
    ((asked 1 0).mbox (.ld 15 0)).busy = true ∧ ((asked 1 0).mbox (.ld 15 8)).busy = false ∧ ((asked 1 0).mbox (.ld 15 8)).done = false ∧
    State.reset.nextMb = none ∧ ((State.reset.updMb .fabric (fun x => { x with go := true })).nextMb) = some .fabric ∧
    (State.reset.msgCheck .fabric []) ≠ (Stat.ok, 0) ∧ (asked 0x304 262143).ownRing (.ld 15 0) 262143 = false ∧
    ({ (asked 0x304 262143).updRing 262143 (fun g => { g with rstate := .active, ld := 15 }) with ltu := 0 }).ownRing (.ld 15 0) 262143 = true ∧
    (asked 0x502 0).reqBy 0 0 = none ∧ regMapped 0x30002018220 = true ∧ regMapped 0 = false ∧ (asked 0x104 1).cfg.current = none := by decide +kernel

/-- HostCommands: a message of each command under way; a configuration staged and none; a ring and a slot in the states each takes. -/
theorem wit_host_commands :
    (∀ op ∈ [0x0101, 0x0102, 0x0103, 0x0301, 0x0302, 0x0303, 0x0401, 0x0402], ((asked op 0).held (.ld 15 0) op).isSome = true) ∧
    (asked 0x0102 1).isStaged 1 = false ∧
    ({ asked 0x0102 1 with cfg := { State.reset.cfg with staged := some { version := 1, bytes := [] } } }).isStaged 1 = true ∧
    (asked 0x0301 0).freeRing = some 0 ∧ (asked 0x0302 0).ringBusy 0 = false ∧
    ((lastRing { destroying := true }).ring 262143).taken = 0 ∧ ((asked 0x0401 0).slot 16383).st = .empty ∧
    ((asked 0x0401 0).slots.filter (fun e => e.2.st = .loading)).length < 16 ∧ ((slot0 {}).slot 16383).st = .loaded ∧
    (slot0 {}).slotWanted 16383 = false ∧ (slot0 {}).slotNamed 16383 = false ∧ (slot0 {}).slotWanted 0 = false ∧
    ((slot0 {}).updSlot 16383 (fun m => { m with st := .loading })).slot 16383 ≠ {} ∧ objCrcs [] = false ∧
    Tbl.find? ((slot0 {}).slot 16383).plots 5 = some (.t2 0x10800000000) := by decide +kernel

/-- SystemCommands: a message of each command under way; fuses at the ends of their count; a timer to take, and none left. -/
theorem wit_system_commands :
    (∀ op ∈ [0x0702, 0x0703, 0x0704, 0x0705, 0x0902, 0x0903, 0x0904, 0x0906], ((asked op 0).held (.ld 15 0) op).isSome = true) ∧
    (asked 0x702 0).imageStatus [] ≠ Stat.ok ∧ (asked 0x703 0).slotStatus 1 ≠ Stat.ok ∧ (asked 0x704 0).lowerSpare 1 = false ∧
    (asked 0x704 1).sec.otp.svn 1 < 63 ∧ (asked 0x705 6).transitionStatus false 6 0#1536 = Stat.ok ∧ (asked 0x705 7).transitionStatus false 7 0#1536 = Stat.wrongState ∧
    (asked 0x705 6).liveReqs = [] ∧ (asked 0x705 6).cfg.staged = none ∧
    firstFrom (fun k => ((asked 0x903 0).cmp k).owner.isNone) 58 6 = some 6 ∧
    (let s := { asked 0x903 0 with pwr := { State.reset.pwr with cmps := (List.range 64).map (fun k => (k, { owner := some 15 })) } }
     firstFrom (fun k => (s.cmp k).owner.isNone) 58 6 = none ∧ (s.cmp 63).owner = some 15) ∧
    (asked 0x903 0).syncOutTaken 6 = false ∧ (asked 1 0).held (.ld 15 0) 2 = none := by decide +kernel
/-- CompositionMap: a map set first, with the next epoch, with epoch 0, and while the old one is honoured; fields in order and not; a peer
that left; an LD whose tenant has a home elsewhere and one whose tenant has none. -/
theorem wit_map :
    (let s := asked 0x0201 1
     (s.held (.ld 15 0) 0x0201).isSome = true ∧ s.cmap.old = none ∧ s.cmap.cur = 0 ∧ ((asked 0x0202 0).held (.ld 15 0) 0x0202).isSome = true ∧
     (s.held (.ld 15 0) 0x0201).map (fun m => (fld m 0x20 2)) = some 1) ∧
    firstBad (mapFields (0x0201 + 2 ^ 32 * 0x128 + 2 ^ 256 * 1)) = none ∧ (firstBad (mapFields (0x0201 + 2 ^ 256 * (1 + 2 ^ 16 * 65)))).isSome = true ∧
    (if (0xFFFF : Nat) = 0xFFFF then 1 else 0) = 1 ∧
    (let s := { grafts (graft5 false .push .moving (some 0)) with cmap := { cur := 2, old := some 1, peers := [] } }
     s.present 5 = false ∧ (s.graft 0).live = true ∧ (∀ g ∈ s.fab.grafts, g.live = true → g.mapEpoch ≠ 1)) ∧
    (req0 .parked [] { parkTarget := 4, peer := 5 }).present 5 = true ∧ (req0 .decode []).newHome 0 = none ∧
    (asked 0x0201 1).presents 15 = true ∧ (asked 0x0201 1).live = true := by decide +kernel

/-- PortAndFabricManager: a device with the Fabric Manager on; ranges in order to the last LD, and one that overlaps; a window's end. -/
theorem wit_port :
    (let s := { State.reset with cxl := { State.reset.cxl with state := 2, mld := true, memActive := true, cfgReady := true } }
     s.fmOn = true ∧ s.rangesOk 15 [(255, 1)] = true ∧ s.rangesOk 0 [(0, 2), (1, 1)] = false ∧ s.rangesOk 15 [(0, 1), (1, 1)] = false ∧
     (s.ld 15).decoder = false ∧ s.presents 15 = true ∧ s.fabricMb.go = false ∧ s.fabricMb.busy = false ∧
     (let t := s.updLd 15 (fun d => { d with decoder := true, winUnits := 1, bound := true })
      (t.ld 15).decoder = true ∧ 2 ^ 28 - 64 + 64 ≤ (t.ld 15).winUnits * 2 ^ 28 ∧ (t.ld 15).winUnits * 2 ^ 28 < 2 ^ 28 - 63 + 64 ∧ (t.ld 15).bound = true)) ∧
    State.reset.fmOn = false ∧ State.reset.boot.perst = true ∧ State.reset.boot.good = true := by decide +kernel

/-- FaultSamples: sources of each class and one that does not exist; a sample with something new; a kick that lapsed and one in time. -/
theorem wit_faults :
    sourceClass 0 = some 1 ∧ sourceClass 0x10 = some 0 ∧ sourceClass 0x19 = some 2 ∧ sourceClass 0x115 = some 3 ∧ sourceClass 0x0C = none ∧
    sourceClass 1023 = some 1 ∧ State.reset.fcl.reacting = none ∧ (State.reset.raise 0x115).fcl.pairs = [0x115] ∧
    (let s := { State.reset with ltu := 1000001, fcl := { State.reset.fcl with lastKick := some 0, running := true } }
     s.live = true ∧ 0 + 1000000 < s.ltu ∧ 0x115 ∉ s.fcl.prev ∧ s.fcl.wire.getLsbD 0x115 = false ∧ 0x115 ∉ s.fcl.wireInj ∧ s.fcl.lastBeat + 5000 ≤ s.ltu) ∧
    classOf 0x115 = 3 ∧ State.reset.sec.otp.lc ≠ 2 := by decide +kernel

/-- FenceCommands: the last unit of each kind and the first beyond it; a tile with a lent partner; a tile under qualification. -/
theorem wit_fences :
    (∀ e ∈ [(1, 47), (2, 6), (3, 35), (4, 127), (5, 7)], fenceIdxOk e.1 e.2 = true ∧ fenceIdxOk e.1 (e.2 + 1) = false ∧
      State.reset.isFenced e.1 e.2 = false) ∧
    fenceIdxOk 2 4 = false ∧ State.reset.unfenceOk 1 47 = true ∧ State.reset.unfenceOk 5 7 = false ∧ State.reset.unfenceOk 2 6 = true ∧
    (State.reset.updTile 47 (fun x => { x with fenced := true })).isFenced 1 47 = true ∧
    (let s := State.reset.updTile 47 (fun x => { x with qual := some (1, 16, 0), against := some 46 })
     s.comparing [47] = [(47, 1)] ∧ s.comparing [46] = [(47, 1)] ∧ s.comparing [45] = []) := by decide +kernel

/-- A checkpoint image's header with no records. -/
def ckptHead : Nat := withCrc (1 + 2 ^ 320 * 64) 64

/-- RecoveryCommands: a message of each command under way; an image in order and one that is not; an offer with a slot and one without. -/
theorem wit_recovery :
    (∀ op ∈ [0x0802, 0x0807, 0x0804, 0x0805, 0x0806], ((asked op 0).held (.ld 15 0) op).isSome = true) ∧
    crcOk ckptHead 64 = true ∧ fld ckptHead 0 2 = 1 ∧ bit (fld ckptHead 2 2) 0 = false ∧ 64 ≤ fld ckptHead 0x28 8 ∧ fld 0 0 2 ≠ 1 ∧
    (parseRecords (fld ckptHead 0x20 4) []).isSome = true ∧ (parseRecords 1 []).isSome = false ∧ State.reset.activeToward 0 5 = false ∧
    ((link35 { state := .active, partnerId := 5 }).activeToward 35 5) = true ∧ (State.reset.slot 16383).st = .empty ∧
    ((asked 0x0804 0).ckptRecords false) = [] := by decide +kernel

/-- MeterFeed: a window that is due and one that is not; frames the Cloche takes, in sequence and out of it; a feed that is down. -/
theorem wit_feed :
    (let s := { State.reset with ltu := 10000 }
     s.live = true ∧ s.feed.since + 10000 ≤ s.ltu ∧ ({ s with ltu := 9999 }).ltu < s.feed.since + 10000) ∧
    (let f := feedFrame 0 [] true true 0 0
     fld (ofBytes (f.take 16)) 4 2 ≤ 512 ∧ f.length = 20 + 16 * fld (ofBytes (f.take 16)) 4 2 ∧ fld (ofBytes (f.take 16)) 8 8 = State.reset.cloche.uid ∧
     ofBytes (f.drop (16 + 16 * fld (ofBytes (f.take 16)) 4 2)) = crc32c (f.take (16 + 16 * fld (ofBytes (f.take 16)) 4 2)) ∧
     bit (ofBytes (f.take 16)) 48 = true ∧ bit (ofBytes (f.take 16)) 49 = true) ∧
    bit (ofBytes ((feedFrame 1 [] true false 0 0).take 16)) 49 = false ∧
    (let c : Cloche := { State.reset.cloche with on := true, time := 1000001, lastAt := 0, down := false }
     c.on = true ∧ c.down = false ∧ c.lastAt + 1000000 < c.time) := by decide +kernel

/-- A Cloche that is on, with a nonce and a record's snapshot. -/
def clocheOn : State := { State.reset with cloche := { State.reset.cloche with on := true, nonce := some 5, snap := some [] } }

/-- A signed command of the operator: nonce 5, key 0. -/
def signed (cmd param arg : Nat) : BitVec 2080 := BitVec.ofNat 2080 (cmd + 2 ^ 8 + 2 ^ 16 * param + 2 ^ 64 * arg + 2 ^ 576 * 5)

/-- ClocheCommands: signed commands that no check refuses, given that their signatures verify (verification is uninterpreted, log 23). -/
theorem wit_signed
    (sig : ∀ cmd param, Config.sigOk (keyDigest (scKey (signed cmd param 1))) (toBytes 8 clocheOn.cloche.uid ++ toBytes 0x92 (signed cmd param 1).toNat)
      (scSig (signed cmd param 1)) = true) :
    Claims.signedOk clocheOn (signed 0x11 65535 1) 0x11 8 true false true ∧ Claims.signedOk clocheOn (signed 0x12 0 1) 0x12 57 true true false :=
  ⟨⟨rfl, by decide +kernel, by decide +kernel, by decide +kernel, .inl (by decide +kernel), sig _ _, by decide +kernel⟩,
    ⟨rfl, by decide +kernel, by decide +kernel, by decide +kernel, .inl (by decide +kernel), sig _ _, by decide +kernel⟩⟩

/-- ClocheCommands: parameters at the ends of their ranges; records, snapshots and log entries to read, and none; counts at their ends. -/
theorem wit_cloche :
    clocheOn.cloche.on = true ∧ clocheOn.cloche.snap = some [] ∧ clocheOn.cloche.records.head? = none ∧ clocheOn.cloche.log.length < 4032 ∧
    paramRange 19 966367642 = true ∧ paramRange 0 0 = false ∧ paramRange 0x100 5000 = true ∧ paramRange 0x113 5001 = false ∧ paramRange 0x212 0 = true ∧
    paramRange 0x213 0 = false ∧ 0 + (BitVec.ofNat 16 64).toNat ≤ 65536 ∧ scZero (signed 0x12 0 1) 57 false = true ∧ scZero (signed 0x11 65535 1) 8 true = true ∧
    scZero (signed 0x12 1 1) 57 false = false ∧ State.reset.cloche.snaps.find? (fun x => x.1 = 1) = none ∧ State.reset.cloche.log[0]? = none := by decide +kernel
/-- A device whose port is up as an MLD, SPDM responder 16 at a stage, with sessions. -/
def spdmAt (stage : Nat) (ss : List Session) : State :=
  { State.reset with cxl := { State.reset.cxl with state := 2, cfgReady := true, mld := true } }.updSpdm 16 (fun r => { r with stage := stage, sessions := ss })

/-- SecurityCommands: a responder before and after each stage; sessions up, not up, unknown, and all four taken; the life cycles. -/
theorem wit_security :
    (spdmAt 3 []).doe 16 = true ∧ ({ spdmAt 3 [] with devState := .recovery }).doe 16 = false ∧ State.reset.doe 0 = false ∧ 3 ≤ ((spdmAt 3 []).spdm 16).stage ∧ ((spdmAt 0 []).spdm 16).stage < 1 ∧ ((spdmAt 2 []).spdm 16).stage < 3 ∧
    (spdmAt 3 []).attests = false ∧
    ({ spdmAt 3 [] with sec := { (spdmAt 3 []).sec with otp := { State.reset.sec.otp with lc := 4 }, certs := true, alias_ := 1 } }).attests = true ∧
    ((spdmAt 3 [{ sid := 65537, up := true }]).spdm 16).session? 65537 = some { sid := 65537, up := true } ∧ ((spdmAt 3 []).spdm 16).session? 65537 = none ∧
    (∀ h ∈ [1, 2, 3, 4], ∃ x ∈ ((spdmAt 3 ((List.range 4).map (fun k => { sid := 65536 * (k + 1) }))).spdm 16).sessions, x.sid / 65536 = h) ∧
    State.reset.sec.otp.lc = 1 ∧ State.reset.boot.good = true ∧ State.reset.boot.released = true ∧ State.reset.cxl.mld = false := by decide +kernel

/-- PowerCommands: limits crossed and cleared; a tile without work; voltages and divisors at the ends of their ranges; sweeps, sensors. -/
theorem wit_power :
    State.reset.live = true ∧ State.reset.pwr.clampPower = false ∧ State.reset.pwr.clampVin = false ∧ State.reset.pwr.clampTherm = [] ∧
    ({ State.reset with pwr := { State.reset.pwr with clampPower := true, avg1ms := 0, pcap := 600 } }).pwr.avg1ms < 1000 * 600 ∧
    (State.reset.tile 47).cur = none ∧ (State.reset.tile 47).queue = [] ∧ State.reset.cfg.dev.personality ≠ 3 ∧ (State.reset.tpwr 47).sweep = false ∧
    (BitVec.ofNat 3 3).toNat ≤ 3 ∧ bits (BitVec.ofNat 32 600).toNat 0 12 = 600 ∧ bits (BitVec.ofNat 32 2100).toNat 0 12 = 2100 ∧
    bits (BitVec.ofNat 32 650).toNat 0 12 % 5 = 0 ∧ bits (BitVec.ofNat 32 850).toNat 0 12 ≤ 850 ∧ State.reset.pwr.splitLocked = false ∧
    bits (BitVec.ofNat 32 16).toNat 0 5 = 16 ∧ bits (BitVec.ofNat 32 17).toNat 0 5 = 17 ∧ (planOf []).isSome = true ∧ planOf (List.replicate 64 (List.replicate 64 1000000)) = none ∧
    (State.reset.updTpwr 47 (fun p => { p with sweep := true, insitu := true })).tpwr 47 ≠ {} ∧
    thermLevel 0 0 95 = 1 ∧ thermLevel 0 0 94 = 0 ∧ thermLevel 0 1 91 = 1 ∧ thermLevel 31 2 91 = 2 ∧ thermLevel 31 0 105 = 3 ∧
    ((State.reset.updCmp 63 (fun _ => { enable := true, mtch := 0 })).cmp 63).enable = true := by decide +kernel

/-- PinsAndStart: the supply good and gone; start-up from each life cycle and strap; a flash that is not usable; a recovery image. -/
theorem wit_start :
    State.reset.boot.good = true ∧ State.reset.boot.started = false ∧ ({ State.reset with boot := { State.reset.boot with good := false, railHeld := true } }).boot.good = false ∧
    State.reset.fcl.halted = false ∧ State.reset.devState = .booting ∧ sourceClass 0x384 = some 3 ∧ sourceClass 0x385 = none ∧
    (let o := { State.reset.sec.otp with lc := 3 }
     o.lc ≠ 1 ∧ o.lc ≠ 6) ∧
    bit (BitVec.ofNat 4 1).toNat 0 = true ∧ bit (BitVec.ofNat 4 14).toNat 0 = false ∧ State.reset.slotStatus 0 ≠ Stat.ok ∧ State.reset.slotStatus 1 ≠ Stat.ok ∧
    (let s := { State.reset with devState := .recovery }
     s.live = true ∧ s.boot.recState ≠ 2 ∧ (BitVec.ofNat 32 255).toNat < 256 ∧ ¬((BitVec.ofNat 32 256).toNat < 256)) ∧
    portsOf 6 = 2 ∧ State.reset.boot.phase ≠ 0x02 := by decide +kernel

/-- SidebandAndTest: transfers at the ends of the range and one beyond; the bridge up; the debug module reached in the life cycles that open it. -/
theorem wit_sideband :
    State.reset.boot.good = true ∧ State.reset.bridge.up = true ∧ (0x100000 - 256) % 8 = 0 ∧ 256 % 8 = 0 ∧ 0x100000 - 256 + 256 ≤ 0x100000 ∧
    ¬(0x100000 - 248 + 256 ≤ 0x100000) ∧ 64 ≤ 0xFEFF8 ∧ 0xFEFF8 < 0xFF000 ∧ (toBytes 8 5).length = 8 ∧ State.reset.sbHeld = false ∧
    (∀ lc ∈ [1, 2, 5], ({ State.reset.sec.otp with lc := lc }).lc = lc) ∧ bits 0x03E00000 16 10 + bits 0x03E00000 6 10 * 1024 < 1544 ∧
    ({ State.reset.jtag.dbg with active := true, sbRoD := true }).active = true := by decide +kernel

/-- StepsKeepMemories, FusesOnlyGain: the state after reset meets what they ask for. -/
theorem wit_invariants : Claims.canonical State.reset ∧ State.reset.sec.otp.lc ≤ 6 := by
  unfold Claims.canonical
  decide +kernel

/-- ClocheSealed: a command that is not the Cloche's own, and one that is. -/
theorem wit_sealed : Claims.forCloche .powerUp = false ∧ Claims.forCloche .nonceGet = true := by decide +kernel

/-- StepRunsFront: an empty queue, which ticks; a command at the front, which runs. -/
theorem wit_step : State.reset.pending = [] ∧ (match step State.reset with
    | .next t => decide (t.ltu = 1)
    | _ => false) = true ∧ (match step { State.reset with pending := [.clVauxLoss] } with
    | .next t => !t.cloche.on && t.pending.isEmpty
    | _ => false) = true := by decide +kernel

end

end Sys2Proof.Tests
end

section
/-!
The operations of a request (R18 to R48, R366 to R374): one equation per case of each operation, and from them `RequestOperations`.
-/
namespace Sys2Proof.Machine

/-! ## Tables -/

@[simp] theorem Tbl.del_del {α : Type} (t : Tbl α) (i : Nat) : Tbl.del (Tbl.del t i) i = Tbl.del t i := by
  induction t with
  | nil => rfl
  | cons e t ih =>
    obtain ⟨k, v⟩ := e
    by_cases h : k = i <;> simp [Tbl.del, h, ih]

/-- Two changes of one request are one change. -/
theorem State.updReq_updReq (s : State) (i : Nat) (f g : Req → Req) : (s.updReq i f).updReq i g = s.updReq i (fun r => g (f r)) := by
  simp [State.updReq, Tbl.upd, Tbl.put, Tbl.del, Tbl.getD, Tbl.find?]

/-! ## When an operation acts (R364, R367) -/

theorem State.opOn_iff (s : State) (ring e op : Nat) : s.opOn ring e op = true ↔
    s.live = true ∧ (s.ring ring).kind = .submission ∧ (s.ring ring).rstate ≠ .free ∧ seOp e = op := by
  simp [State.opOn, and_assoc]

/-- Each row runs its operation when the operation is on, and changes nothing otherwise. -/
theorem exec_operation {s t : State} {ring op : Nat} {x : BitVec 1024} {c : Instr} (h : (c, op, t) ∈ Claims.operations s ring x) :
    exec c s = if s.opOn ring x.toNat op then .next t else .next s := by
  simp only [Claims.operations, List.mem_cons, List.not_mem_nil, or_false, Prod.mk.injEq] at h
  obtain ⟨rfl, rfl, rfl⟩ | ⟨rfl, rfl, rfl⟩ | ⟨rfl, rfl, rfl⟩ | ⟨rfl, rfl, rfl⟩ | ⟨rfl, rfl, rfl⟩ := h
  all_goals rfl

/-! ## ADMIT (R24, R25) -/

@[simp] theorem firstFailing_nil : Claims.firstFailing [] = Stat.ok := rfl

@[simp] theorem firstFailing_cons (b : Bool) (st : Nat) (checks : List (Bool × Nat)) :
    Claims.firstFailing ((b, st) :: checks) = if b then st else Claims.firstFailing checks := by
  cases b <;> rfl

/-- R24's nested checks, read as a list in the order they are made. -/
theorem State.admitCheck_eq_firstFailing (s : State) (ring e : Nat) : s.admitCheck ring e = Claims.firstFailing
    [(decide (s.cfg.dev.personality = 0), Stat.notConfigured), (!(hasPrompt s.cfg.dev.personality), Stat.wrongPersonality),
     (!(s.admitFieldsOk ring e), Stat.invalidField), (decide (fld e 0x20 4 = 0 ∨ 16777216 < fld e 0x20 4 + fld e 0x24 4), Stat.seqTooLong),
     (!(s.slotLoaded (fld e 0x18 2) (seTenant e)), Stat.modelNotLoaded),
     (bit (fld e 0x1C 1) 1 && !(s.slotLoaded (fld e 0x1A 2) (seTenant e)), Stat.modelNotLoaded),
     (decide ((s.slot (fld e 0x18 2)).limit < fld e 0x20 4 + fld e 0x24 4), Stat.seqTooLong),
     (decide (fld e 0x1F 1 ≠ 0xFF ∧ s.biasRows (s.slot (fld e 0x18 2)) ≤ fld e 0x1F 1), Stat.invalidField),
     (s.idLive (seReqId e), Stat.duplicateId)] := by
  simp [State.admitCheck]

section
variable {s u v w : State} {ring e i : Nat} (taken : s.opTaken ring = u)
include taken

theorem admitNew_of_check_fails (h : u.admitCheck ring e ≠ Stat.ok) :
    s.admitNew ring e = Claims.ends u ring e 1 (u.admitCheck ring e) := by
  simp only [State.admitNew, taken, h, Claims.ends, ne_eq, not_false_eq_true, if_true]

theorem admitNew_of_no_entry (h : u.admitCheck ring e = Stat.ok) (none_ : u.admitEntry ring e = none) :
    s.admitNew ring e = Claims.ends u ring e 1 Stat.noRequestSlot := by
  simp only [State.admitNew, taken, h, none_, Claims.ends, ne_eq, not_true_eq_false, if_false]

theorem admitNew_of_no_space (h : u.admitCheck ring e = Stat.ok) (entry : u.admitEntry ring e = some (v, i))
    (space : v.kvSpace i (fld e 0x20 4) = (w, false)) : s.admitNew ring e = Claims.ends u ring e 1 Stat.noKvSpace := by
  simp only [State.admitNew, taken, h, entry, space, Claims.ends, ne_eq, not_true_eq_false, if_false]

theorem admitNew_of_entry (h : u.admitCheck ring e = Stat.ok) (entry : u.admitEntry ring e = some (v, i))
    (space : v.kvSpace i (fld e 0x20 4) = (w, true)) :
    s.admitNew ring e = if ∀ d ∈ seDests e, d = 0 then w.admitDone i else w.tryDest i 0 0 := by
  simp only [State.admitNew, taken, h, entry, space, ne_eq, not_true_eq_false, if_false, List.all_eq_true, decide_eq_true_eq]

end

theorem State.tryDest_of_nextDest {s : State} {i k d : Nat} (h : s.nextDest (s.req i) = some (k, d)) (status last : Nat) :
    s.tryDest i status last =
      (s.updReq i (fun r => { r with destTried := k, peer := d, stalled := false })).openGraft i .push d 0 := by
  simp only [State.tryDest, h]

theorem State.admitDone_of_pending {s : State} {i : Nat} {p : PendOp} (h : (s.req i).opAdmit = some p) :
    s.admitDone i =
      (((s.updReq i (fun r => { r with opAdmit := none })).countAdmitted).completeOp p (s.req i).reqId 1 Stat.ok 0).heldCancel i := by
  simp only [State.admitDone, State.completeIf, h]

/-! ## PARK (R38, R41) -/

section
variable {s u : State} {ring e i : Nat} (taken : s.opTaken ring = u)
include taken

theorem parkOp_of_wrong_personality (gen : hasGeneration (u.opPersonality e) = false) :
    s.parkOp ring e = Claims.ends u ring e 2 Stat.wrongPersonality := by
  simp only [State.parkOp, taken, gen, Claims.ends, Bool.not_false, if_true]

theorem parkOp_of_bad_fields (gen : hasGeneration (u.opPersonality e) = true) (ok : u.parkFieldsOk ring e = false) :
    s.parkOp ring e = Claims.ends u ring e 2 Stat.invalidField := by
  simp [State.parkOp, taken, gen, ok, Claims.ends]

theorem parkOp_of_not_decode (gen : hasGeneration (u.opPersonality e) = true) (ok : u.parkFieldsOk ring e = true)
    (state : ∀ i, u.reqBy (seReqId e) (seTenant e) = some i → (u.req i).st ≠ .decode) :
    s.parkOp ring e = Claims.ends u ring e 2 Stat.wrongState := by
  cases found : u.reqBy (seReqId e) (seTenant e) with
  | none => simp [State.parkOp, taken, gen, ok, found, Claims.ends]
  | some i => simp [State.parkOp, taken, gen, ok, found, state i found, Claims.ends]

/-- PARK of a request in DECODE to a cache pool that has left the map (R415). -/
theorem parkOp_of_absent_pool (gen : hasGeneration (u.opPersonality e) = true) (ok : u.parkFieldsOk ring e = true)
    (found : u.reqBy (seReqId e) (seTenant e) = some i) (state : (u.req i).st = .decode) (pool : fld e 0x18 1 = 4)
    (gone : u.present (bits e 208 12) = false) : s.parkOp ring e = Claims.ends u ring e 2 Stat.graftFailed := by
  simp [State.parkOp, taken, gen, ok, found, state, pool, gone, Claims.ends]

theorem parkOp_of_own_tier (gen : hasGeneration (u.opPersonality e) = true) (ok : u.parkFieldsOk ring e = true)
    (found : u.reqBy (seReqId e) (seTenant e) = some i) (state : (u.req i).st = .decode) (own : fld e 0x18 1 ≠ 4) :
    s.parkOp ring e =
      u.updReq i (fun r => { r with st := .parking, parkTarget := fld e 0x18 1, ttlMs := fld e 0x1C 4, opPark := some ⟨seSubId e, ring⟩ }) := by
  simp [State.parkOp, taken, gen, ok, found, state, own]

theorem parkOp_of_present_pool (gen : hasGeneration (u.opPersonality e) = true) (ok : u.parkFieldsOk ring e = true)
    (found : u.reqBy (seReqId e) (seTenant e) = some i) (state : (u.req i).st = .decode) (pool : fld e 0x18 1 = 4)
    (there : u.present (bits e 208 12) = true) :
    s.parkOp ring e = (u.updReq i (fun r =>
      { r with st := .parking, parkTarget := 4, ttlMs := fld e 0x1C 4, opPark := some ⟨seSubId e, ring⟩, peer := bits e 208 12 })).openGraft
        i .park (bits e 208 12) 0 := by
  simp [State.parkOp, taken, gen, ok, found, state, pool, there, State.updReq_updReq]

end

/-! ## RESUME (R41, R42) -/

/-- The request waits in RESUMING for the plots, or for its handover to `dev`; a resume that fails takes it back to `back`. -/
def State.toResuming (v : State) (ring e i : Nat) (back : ReqSt) (dev : Nat) : State :=
  v.updReq i (fun q => { q with st := .resuming, opResume := some ⟨seSubId e, ring⟩, backTo := back, resumeDev := dev })

/-- The entry names another device exactly when it names neither none nor this one. -/
theorem namesOther_eq (d f : Nat) : (decide (d ≠ 0) && decide (d ≠ f)) = !decide (d = 0 ∨ d = f) := by simp

/-- A RESUME that another device serves, or that this one may by its personality, passes that check. -/
theorem resume_passes_personality {u : State} {e : Nat}
    (served : ¬ (bits e 192 12 = 0 ∨ bits e 192 12 = u.fid) ∨ hasGeneration (u.opPersonality e) = true) :
    (decide (bits e 192 12 = 0 ∨ bits e 192 12 = u.fid) && !hasGeneration (u.opPersonality e)) = false := by
  obtain away | gen := served
  · simp [away]
  · simp [gen]

section
variable {s u v : State} {ring e i : Nat} (taken : s.opTaken ring = u)
include taken

theorem resumeOp_of_wrong_personality (here : bits e 192 12 = 0 ∨ bits e 192 12 = u.fid)
    (gen : hasGeneration (u.opPersonality e) = false) : s.resumeOp ring e = Claims.ends u ring e 3 Stat.wrongPersonality := by
  simp only [State.resumeOp, taken, Nat.reduceMul, namesOther_eq, here, gen, Claims.ends, decide_true, Bool.not_true, Bool.not_false,
    Bool.and_true, if_true]

variable (served : (decide (bits e 192 12 = 0 ∨ bits e 192 12 = u.fid) && !hasGeneration (u.opPersonality e)) = false)
include served

theorem resumeOp_of_bad_fields (bad : u.resumeFieldsOk ring e = false) : s.resumeOp ring e = Claims.ends u ring e 3 Stat.invalidField := by
  simp only [State.resumeOp, taken, Nat.reduceMul, namesOther_eq, Bool.not_not, served, bad, Claims.ends, Bool.false_eq_true, if_false,
    Bool.not_false, if_true]

variable (ok : u.resumeFieldsOk ring e = true)
include ok

theorem resumeOp_of_no_request (found : u.reqBy (seReqId e) (seTenant e) = none) :
    s.resumeOp ring e = Claims.ends u ring e 3 Stat.wrongState := by
  simp only [State.resumeOp, taken, Nat.reduceMul, namesOther_eq, Bool.not_not, served, ok, found, Claims.ends, Bool.false_eq_true, if_false,
    Bool.not_true]

variable (found : u.reqBy (seReqId e) (seTenant e) = some i) (due : u.expireDue i = v)
include found due

/-- RESUME of a request it finds: a time to live that has passed is acted on first, then the state decides. -/
theorem resumeOp_of_found : s.resumeOp ring e =
    if (v.req i).st ≠ .parking && (v.req i).st ≠ .parked && (v.req i).st ≠ .expired then Claims.ends v ring e 3 Stat.wrongState
    else
      let w := if (v.req i).st = .parking then v.killPark i Stat.killedByResume 0 else v
      if (v.req i).st = .parking && decide (bits e 192 12 = 0 ∨ bits e 192 12 = u.fid) then Claims.ends w ring e 3 Stat.ok
      else
        let w := w.toResuming ring e i (v.req i).resumeFrom (if bits e 192 12 = 0 ∨ bits e 192 12 = u.fid then 0 else bits e 192 12)
        if (!decide (bits e 192 12 = 0 ∨ bits e 192 12 = u.fid)) || (v.req i).st = .expired then w else w.startPull i := by
  simp only [State.resumeOp, taken, Nat.reduceMul, namesOther_eq, Bool.not_not, served, ok, found, due, Claims.ends, Bool.false_eq_true,
    if_false, Bool.not_true, State.toResuming, Bool.not_eq_true', decide_eq_false_iff_not, ite_not]

theorem resumeOp_of_other_state (parking : (v.req i).st ≠ .parking) (parked : (v.req i).st ≠ .parked) (expired : (v.req i).st ≠ .expired) :
    s.resumeOp ring e = Claims.ends v ring e 3 Stat.wrongState := by
  simp [resumeOp_of_found taken served ok found due, parking, parked, expired]

theorem resumeOp_of_parking_here (here : bits e 192 12 = 0 ∨ bits e 192 12 = u.fid) (state : (v.req i).st = .parking) :
    s.resumeOp ring e = Claims.ends (v.killPark i Stat.killedByResume 0) ring e 3 Stat.ok := by
  simp [resumeOp_of_found taken served ok found due, here, state]

theorem resumeOp_of_parking_away (away : ¬ (bits e 192 12 = 0 ∨ bits e 192 12 = u.fid)) (state : (v.req i).st = .parking) :
    s.resumeOp ring e = (v.killPark i Stat.killedByResume 0).toResuming ring e i .decode (bits e 192 12) := by
  simp [resumeOp_of_found taken served ok found due, away, state, Req.resumeFrom]

theorem resumeOp_of_parked_away (away : ¬ (bits e 192 12 = 0 ∨ bits e 192 12 = u.fid))
    (state : (v.req i).st = .parked ∨ (v.req i).st = .expired) :
    s.resumeOp ring e = v.toResuming ring e i (v.req i).st (bits e 192 12) := by
  obtain state | state := state <;> simp [resumeOp_of_found taken served ok found due, away, state, Req.resumeFrom]

theorem resumeOp_of_expired_here (here : bits e 192 12 = 0 ∨ bits e 192 12 = u.fid) (state : (v.req i).st = .expired) :
    s.resumeOp ring e = v.toResuming ring e i .expired 0 := by
  simp [resumeOp_of_found taken served ok found due, here, state, Req.resumeFrom]

theorem resumeOp_of_parked_here (here : bits e 192 12 = 0 ∨ bits e 192 12 = u.fid) (state : (v.req i).st = .parked) :
    s.resumeOp ring e = (v.toResuming ring e i .parked 0).startPull i := by
  simp [resumeOp_of_found taken served ok found due, here, state, Req.resumeFrom]

end

/-! ## Pulls and pushes -/

theorem State.startPull_eq (s : State) (i : Nat) : s.startPull i =
    let v := s.updReq i (fun r => { r with ttlOn := false, pull := r.pages.map (·.1), pullDone := r.pages.isEmpty })
    if ∃ e ∈ (s.req i).pages, e.2 = .holder then v.sendPull i else v := by
  simp only [State.startPull, List.any_eq_true, decide_eq_true_eq]

/-! ## CANCEL (R45, R374) -/

section
variable {s u : State} {ring e i : Nat} (taken : s.opTaken ring = u)
include taken

theorem cancelOp_of_bad_fields (bad : (u.headOk ring e && zeroBytes e 0x18 0x7C) = false) :
    s.cancelOp ring e = Claims.ends u ring e 4 Stat.invalidField := by
  simp only [State.cancelOp, taken, bad, Claims.ends, Bool.not_false, if_true]

variable (ok : (u.headOk ring e && zeroBytes e 0x18 0x7C) = true)
include ok

theorem cancelOp_of_wrong_state (state : ∀ i, u.reqBy (seReqId e) (seTenant e) = some i → (u.req i).opCancel.isSome = true) :
    s.cancelOp ring e = Claims.ends u ring e 4 Stat.wrongState := by
  cases found : u.reqBy (seReqId e) (seTenant e) with
  | none => simp only [State.cancelOp, taken, ok, found, Claims.ends, Bool.not_true, Bool.false_eq_true, if_false]
  | some i => simp only [State.cancelOp, taken, ok, found, state i found, Claims.ends, Bool.not_true, Bool.false_eq_true, if_false, if_true]

theorem cancelOp_of_found (found : u.reqBy (seReqId e) (seTenant e) = some i) (first : (u.req i).opCancel = none) :
    s.cancelOp ring e = u.cancelReq i ⟨seSubId e, ring⟩ := by
  simp only [State.cancelOp, taken, ok, found, first, Option.isSome_none, Bool.not_true, Bool.false_eq_true, if_false]

end

/-- A CANCEL waits for an ADMIT still pending and for a MOVE under way (R209, log 60). -/
theorem State.cancelReq_of_held {s : State} {i : Nat} (held : (s.req i).opAdmit.isSome = true ∨ s.moving i = true) (p : PendOp) :
    s.cancelReq i p = s.updReq i (fun r => { r with cancelHeld := true, opCancel := some p }) := by
  simp only [State.cancelReq, Bool.or_eq_true, held, if_true]

theorem State.cancelReq_of_free {s : State} {i : Nat} (admitted : (s.req i).opAdmit = none) (still : s.moving i = false) (p : PendOp) :
    s.cancelReq i p = ((((s.completeIf (s.req i).opPark (s.req i).reqId 2 Stat.cancelled 0).updReq i
      (fun r => { r with opPark := none })).completeOp p (s.req i).reqId 4 Stat.ok 0).endRequest i Stat.cancelled) := by
  simp only [State.cancelReq, admitted, still, Option.isSome_none, Bool.or_self, Bool.false_eq_true, if_false]

/-! ## REDIRECT (R32) -/

/-- The graft by which this device sends the request, if there is one, is aborted. -/
def State.withoutPush (u : State) (i : Nat) : State :=
  match u.sending i with
  | some k => u.abortGraft k
  | none => u

section
variable {s u : State} {ring e i : Nat} (taken : s.opTaken ring = u)
include taken

theorem redirectOp_of_bad_fields (bad : (u.headOk ring e && zeroBytes e 0x18 0x44 && destsOk e && zeroBytes e 0x4C 0x7C) = false) :
    s.redirectOp ring e = Claims.ends u ring e 5 Stat.invalidField := by
  simp only [State.redirectOp, taken, bad, Claims.ends, Bool.not_false, if_true]

variable (ok : (u.headOk ring e && zeroBytes e 0x18 0x44 && destsOk e && zeroBytes e 0x4C 0x7C) = true)
include ok

theorem redirectOp_of_wrong_state
    (state : ∀ i, u.reqBy (seReqId e) (seTenant e) = some i → (u.req i).st ≠ .handover ∨ (u.req i).opRedirect.isSome = true) :
    s.redirectOp ring e = Claims.ends u ring e 5 Stat.wrongState := by
  cases found : u.reqBy (seReqId e) (seTenant e) with
  | none => simp [State.redirectOp, taken, ok, found, Claims.ends]
  | some i => simp [State.redirectOp, taken, ok, found, state i found, Claims.ends]

/-- A push still open is aborted before the new destinations are tried from the first (log 60). -/
theorem redirectOp_of_handover (found : u.reqBy (seReqId e) (seTenant e) = some i) (state : (u.req i).st = .handover)
    (first : (u.req i).opRedirect = none) : s.redirectOp ring e = ((u.withoutPush i).updReq i
      (fun r => { r with dest := seDests e, destTried := 0, opRedirect := some ⟨seSubId e, ring⟩ })).tryDest i 0 0 := by
  cases pushed : u.sending i <;> simp [State.redirectOp, State.withoutPush, taken, ok, found, state, first, pushed]

end

/-! ## What follows an operation on the owner -/

theorem exec_graftDestFailed_idle {s : State} {i : Nat} (h : s.live = false ∨ (s.req i).isLive = false ∨ s.pushFailed i = none)
    (status : Nat) : exec (.graftDestFailed i status) s = .next s := by
  show execGraftDestFailed i status s = .next s
  cases failed : s.pushFailed i with
  | none => simp only [execGraftDestFailed, failed]
  | some k =>
    have idle : (!s.live || !(s.req i).isLive) = true := by simpa [failed] using h
    simp only [execGraftDestFailed, failed, idle, if_true]

theorem exec_graftDestFailed_of_failed {s : State} {i k : Nat} (live : s.live = true) (req : (s.req i).isLive = true)
    (failed : s.pushFailed i = some k) (status : Nat) :
    exec (.graftDestFailed i status) s = .next ((s.abortGraft k).tryDest i status (s.graft k).peer) := by
  show execGraftDestFailed i status s = _
  simp only [execGraftDestFailed, failed, live, req, Bool.not_true, Bool.or_self, Bool.false_eq_true, if_false]

theorem State.ttlOver_iff (s : State) (r : Req) : s.ttlOver r = true ↔ r.st = .parked ∧ r.ending = false ∧ r.ttlOn = true ∧
    r.parkAt + 100000 * (if r.ttlMs = 0 then 2 ^ 32 else r.ttlMs) < s.ltu := by
  simp only [State.ttlOver, Req.isLive, ttlTicks, Bool.and_eq_true, Bool.not_eq_true', decide_eq_true_eq]
  constructor
  · rintro ⟨⟨⟨⟨-, ending⟩, state⟩, on⟩, late⟩
    exact ⟨state, ending, on, of_decide_eq_true late⟩
  · rintro ⟨state, ending, on, late⟩
    exact ⟨⟨⟨⟨by simp [state], ending⟩, state⟩, on⟩, decide_eq_true late⟩

theorem exec_parkExpiry_of_off {s : State} (off : s.live = false) (i : Nat) : exec (.parkExpiry i) s = .next s := by
  show execParkExpiry i s = _
  simp only [execParkExpiry, off, Bool.not_false, if_true]

theorem exec_parkExpiry_of_over {s : State} {i : Nat} (live : s.live = true) (late : s.ttlOver (s.req i) = true) :
    exec (.parkExpiry i) s = .next (s.expire i) := by
  show execParkExpiry i s = _
  simp only [execParkExpiry, live, late, Bool.not_true, Bool.false_eq_true, if_false, if_true]

theorem exec_parkExpiry_of_not_held {s : State} {i : Nat} (live : s.live = true) (time : s.ttlOver (s.req i) = false)
    (held : s.holders.find? (fun h => h.idx = i && h.parked) = none) : exec (.parkExpiry i) s = .next s := by
  show execParkExpiry i s = _
  simp only [execParkExpiry, live, time, held, Bool.not_true, Bool.false_eq_true, if_false]

theorem exec_parkExpiry_of_held {s : State} {i : Nat} {h : HolderRec} (live : s.live = true) (time : s.ttlOver (s.req i) = false)
    (held : s.holders.find? (fun h => h.idx = i && h.parked) = some h) :
    exec (.parkExpiry i) s = .next (if s.holderOver h then s.expireHolder h else s) := by
  show execParkExpiry i s = _
  simp only [execParkExpiry, live, time, held, Bool.not_true, Bool.false_eq_true, if_false, apply_ite Host.Outcome.next]

theorem State.holderOf_eq (s : State) (r : Req) :
    s.holderOf r = if r.pages = [] then 0 else if ∃ e ∈ r.pages, e.2 = .holder then r.peer else s.fid := by
  simp only [State.holderOf, List.isEmpty_iff, List.any_eq_true, decide_eq_true_eq]

/-- The record waits in RESUMING for a handover to that device, and nothing of it is under way (R42). -/
def State.HandoverDue (s : State) (i dest : Nat) : Prop :=
  s.live = true ∧ (s.req i).st = .resuming ∧ (s.req i).ending = false ∧ (s.req i).resumeDev = dest ∧ dest ≠ 0 ∧ s.sending i = none ∧
    s.reqNamed i = false

theorem exec_recordHandover_of_due {s : State} {i dest : Nat} (due : s.HandoverDue i dest) :
    exec (.recordHandover i dest) s = .next (s.openGraft i .handover dest (s.holderOf (s.req i))) := by
  obtain ⟨live, state, ending, named, away, sending, still⟩ := due
  show execRecordHandover i dest s = _
  simp [execRecordHandover, Req.isLive, live, state, ending, named, away, sending, still]

theorem exec_recordHandover_idle {s : State} {i dest : Nat} (idle : ¬ s.HandoverDue i dest) : exec (.recordHandover i dest) s = .next s := by
  show execRecordHandover i dest s = _
  refine if_pos (Decidable.byContradiction fun runs => ?_)
  simp only [Req.isLive, Bool.or_eq_true, not_or, Bool.not_eq_true, Bool.not_eq_false, Bool.and_eq_true, Bool.not_eq_true',
    decide_eq_true_eq, Decidable.not_not, Option.isSome_eq_false_iff, Option.isNone_iff_eq_none] at runs
  obtain ⟨⟨⟨⟨⟨⟨live, -, ending⟩, state⟩, away⟩, named⟩, sending⟩, still⟩ := runs
  exact idle ⟨live, state, ending, named, named ▸ away, sending, still⟩

/-- A re-prefill is asked for: of a request resumed from EXPIRED, or of one whose plots are lost with nothing of it under way (R44). -/
def State.ReprefillDue (s : State) (i : Nat) : Prop :=
  s.live = true ∧ (s.req i).isLive = true ∧ (s.req i).fallback = false ∧
    ((s.req i).st = .resuming ∧ (s.req i).resumeDev = 0 ∧ (s.req i).backTo = .expired ∨
      (s.req i).lost = true ∧ s.reqNamed i = false ∧ s.moving i = false)

theorem exec_reprefill_of_due {s : State} {i : Nat} (due : s.ReprefillDue i) : exec (.reprefill i) s = .next (s.recover i) := by
  show execReprefill i s = _
  obtain ⟨live, req, here, ⟨state, dev, back⟩ | ⟨lost, still, settled⟩⟩ := due
  · simp [execReprefill, live, req, here, state, dev, back]
  · simp [execReprefill, live, req, here, lost, still, settled]

theorem exec_reprefill_idle {s : State} {i : Nat} (idle : ¬ s.ReprefillDue i) : exec (.reprefill i) s = .next s := by
  show execReprefill i s = _
  refine if_pos (Decidable.byContradiction fun runs => ?_)
  simp only [Bool.or_eq_true, not_or, Bool.not_eq_false, Bool.and_eq_true, Bool.not_eq_true', decide_eq_true_eq] at runs
  obtain ⟨⟨live, req⟩, ⟨⟨⟨state, dev⟩, back⟩, here⟩ | ⟨⟨⟨lost, here⟩, still⟩, settled⟩⟩ := runs
  · exact idle ⟨live, req, here, .inl ⟨state, dev, back⟩⟩
  · exact idle ⟨live, req, here, .inr ⟨lost, still, settled⟩⟩

/-- Settles O43: each clause is the equations of one operation above, case by case. -/
theorem requestOperations : Obligations.RequestOperations := by
  unfold Obligations.RequestOperations
  refine ⟨?operation, ?check, ?admission, ?dest, ?park, ?resume, ?pull, ?cancel, ?redirect, ?failed, ?expiry, ?handover, ?openGraft, ?reprefill⟩
  case operation =>
    intro s ring x c op t row
    rw [exec_operation row]
    exact ⟨fun on => if_pos ((s.opOn_iff ring x.toNat op).mpr on), fun off => if_neg (off ∘ (s.opOn_iff ring x.toNat op).mp)⟩
  case check => exact State.admitCheck_eq_firstFailing
  case admission =>
    intro s u ring e taken
    refine ⟨admitNew_of_check_fails taken, admitNew_of_no_entry taken, fun v w i => admitNew_of_no_space taken, ?_⟩
    intro v w i ok entry space
    rw [admitNew_of_entry taken ok entry space]
    exact ⟨fun none_ => if_pos none_, fun ⟨d, named, used⟩ => if_neg (fun none_ => used (none_ d named))⟩
  case dest => exact fun s i => ⟨fun k d next => State.tryDest_of_nextDest next 0 0, fun p => State.admitDone_of_pending⟩
  case park =>
    exact fun s u ring e taken => ⟨parkOp_of_wrong_personality taken, parkOp_of_bad_fields taken, parkOp_of_not_decode taken,
      fun i gen ok found state => ⟨parkOp_of_absent_pool taken gen ok found state, parkOp_of_own_tier taken gen ok found state,
        parkOp_of_present_pool taken gen ok found state⟩⟩
  case resume =>
    rintro s u ring e _ taken rfl
    refine ⟨resumeOp_of_wrong_personality taken, fun served => resumeOp_of_bad_fields taken (resume_passes_personality served), ?_⟩
    intro served ok
    have served := resume_passes_personality served
    exact ⟨resumeOp_of_no_request taken served ok, fun i v found due =>
      ⟨resumeOp_of_other_state taken served ok found due, resumeOp_of_parking_here taken served ok found due,
        resumeOp_of_parking_away taken served ok found due, resumeOp_of_parked_away taken served ok found due,
        resumeOp_of_expired_here taken served ok found due, resumeOp_of_parked_here taken served ok found due⟩⟩
  case pull =>
    rintro s _ i rfl
    rw [State.startPull_eq]
    exact ⟨fun held => if_pos held, fun own => if_neg (fun ⟨page, listed, held⟩ => own page listed held)⟩
  case cancel =>
    refine fun s u ring e taken => ⟨cancelOp_of_bad_fields taken, cancelOp_of_wrong_state taken, fun i ok found first => ?_⟩
    rw [cancelOp_of_found taken ok found first]
    exact ⟨fun held => State.cancelReq_of_held held _, fun admitted still => State.cancelReq_of_free admitted still _⟩
  case redirect =>
    refine fun s u ring e taken => ⟨redirectOp_of_bad_fields taken, redirectOp_of_wrong_state taken, ?_⟩
    rintro i _ ok found state first rfl
    exact redirectOp_of_handover taken ok found state first
  case failed =>
    exact fun s i status => ⟨fun idle => exec_graftDestFailed_idle idle status,
      fun k live req failed => exec_graftDestFailed_of_failed live req failed status⟩
  case expiry =>
    exact fun s i => ⟨s.ttlOver_iff (s.req i), fun off => exec_parkExpiry_of_off off i, exec_parkExpiry_of_over,
      exec_parkExpiry_of_not_held, fun h => exec_parkExpiry_of_held⟩
  case handover =>
    intro s i dest
    refine ⟨fun due => ?_, exec_recordHandover_idle⟩
    rw [← s.holderOf_eq]
    exact exec_recordHandover_of_due due
  case openGraft => rintro s i peer holder mode _ rfl _ rfl; rfl
  case reprefill => exact fun s i => ⟨exec_reprefill_of_due, exec_reprefill_idle⟩

end Sys2Proof.Machine
end

section
/-!
Every command keeps the queue and every byte memory's form (R65), case by case from the command's own law, and from it
`StepsKeepMemories`.
-/
namespace Sys2Proof.Machine

/-! ## What a command keeps -/

/-- A command that is not the Cloche's own keeps all that `Keeps` names, the Cloche with it. -/
theorem exec_keepsX {c : Instr} {r s : State} (own : Claims.forCloche c = false) (hk : Keeps r s) : KeepsX r (exec c s) := by
  cases c with
  | admitOp ring e => exact execAdmitOp_keeps ring e hk
  | park ring e => exact execPark_keeps ring e hk
  | resume ring e => exact execResume_keeps ring e hk
  | cancel ring e => exact execCancel_keeps ring e hk
  | redirect ring e => exact execRedirect_keeps ring e hk
  | graftDestFailed req status => exact execGraftDestFailed_keeps req status hk
  | parkExpiry req => exact execParkExpiry_keeps req hk
  | recordHandover req dest => exact execRecordHandover_keeps req dest hk
  | reprefill req => exact execReprefill_keeps req hk
  | trellisPacket site inPort p => exact execTrellisPacket_keeps site inPort p hk
  | trellisTimeout txn => exact execTrellisTimeout_keeps txn hk
  | trellisModuleFail site port => exact execTrellisModuleFail_keeps site port hk
  | portRetrain site port => exact execPortRetrain_keeps site port hk
  | portCntClr site port => exact execPortCntClr_keeps site port hk
  | trellisTimeoutWrite v => exact execTrellisTimeoutWrite_keeps v hk
  | dieErrclr site v => exact execDieErrclr_keeps site v hk
  | registerAccess m addr size v => exact execRegisterAccess_keeps m addr size v hk
  | topIssue tile th rd rs1 => exact execTopIssue_keeps tile th rd rs1 hk
  | topWait tile th rs1 => exact execTopWait_keeps tile th rs1 hk
  | topFence tile th => exact execTopFence_keeps tile th hk
  | topFencet tile th => exact execTopFencet_keeps tile th hk
  | topPub tile th rs1 => exact execTopPub_keeps tile th rs1 hk
  | topFadd tile th form rd rs1 rs2 => exact execTopFadd_keeps tile th form rd rs1 rs2 hk
  | topCrc16 tile th rd rs1 rs2 => exact execTopCrc16_keeps tile th rd rs1 rs2 hk
  | topEnd tile th => exact execTopEnd_keeps tile th hk
  | coreMemoryAccess tile th a => exact execCoreMemoryAccess_keeps tile th a hk
  | mm tile h => exact execMm_keeps tile h hk
  | vew tile h a => exact execVew_keeps tile h a hk
  | vfn tile h a => exact execVfn_keeps tile h a hk
  | vred tile h a => exact execVred_keeps tile h a hk
  | softmaxOnline tile h a => exact execSoftmaxOnline_keeps tile h a hk
  | norm tile h a => exact execNorm_keeps tile h a hk
  | quantMx tile h a => exact execQuantMx_keeps tile h a hk
  | sample tile h a => exact execSample_keeps tile h a hk
  | accept tile h a => exact execAccept_keeps tile h a hk
  | compare tile h a => exact execCompare_keeps tile h a hk
  | attnBias tile h => exact execAttnBias_keeps tile h hk
  | operationComplete tile h => exact execOperationComplete_keeps tile h hk
  | commandStart tile => exact execCommandStart_keeps tile hk
  | commandEnded tile => exact execCommandEnded_keeps tile hk
  | commit group => exact execCommit_keeps group hk
  | commandKill tag => exact execCommandKill_keeps tag hk
  | commandFail tile status => exact execCommandFail_keeps tile status hk
  | cmdOverrun tile => exact execCmdOverrun_keeps tile hk
  | drainWriteComplete tag => exact execDrainWriteComplete_keeps tag hk
  | tileCfgWrite tile v => exact execTileCfgWrite_keeps tile v hk
  | cmdcntClr tile => exact execCmdcntClr_keeps tile hk
  | confClr tile => exact execConfClr_keeps tile hk
  | invOneAsid asid => exact execInvOneAsid_keeps asid hk
  | invRange asid count => exact execInvRange_keeps asid count hk
  | invAll => exact execInvAll_keeps hk
  | invalidationDone => exact execInvalidationDone_keeps hk
  | atuCtrlWrite v => exact execAtuCtrlWrite_keeps v hk
  | atuCtrlClr slice => exact execAtuCtrlClr_keeps slice hk
  | channelEnter ch => exact execChannelEnter_keeps ch hk
  | channelExit ch => exact execChannelExit_keeps ch hk
  | holdAccess ch a => exact execHoldAccess_keeps ch a hk
  | holdWatchdog ch => exact execHoldWatchdog_keeps ch hk
  | bauOverrun ch => exact execBauOverrun_keeps ch hk
  | attend run => exact execAttend_keeps run hk
  | bauCopy run => exact execBauCopy_keeps run hk
  | bauQuantise run => exact execBauQuantise_keeps run hk
  | bauZero run => exact execBauZero_keeps run hk
  | bauProgramStop ch => exact execBauProgramStop_keeps ch hk
  | ownCmdGo ch => exact execOwnCmdGo_keeps ch hk
  | ownWriteDone ch => exact execOwnWriteDone_keeps ch hk
  | bauUnfence stack mask => exact execBauUnfence_keeps stack mask hk
  | hbmcStatClr stack => exact execHbmcStatClr_keeps stack hk
  | bauCntClr ch => exact execBauCntClr_keeps ch hk
  | hbmcBauDisableWrite stack mask => exact execHbmcBauDisableWrite_keeps stack mask hk
  | tierFree asid vpn => exact execTierFree_keeps asid vpn hk
  | tierMove asid vpn tier => exact execTierMove_keeps asid vpn tier hk
  | moveCopyDone asid vpn fin => exact execMoveCopyDone_keeps asid vpn fin hk
  | pin tile slot off src => exact execPin_keeps tile slot off src hk
  | localPark req => exact execLocalPark_keeps req hk
  | pullPlace req page => exact execPullPlace_keeps req page hk
  | dmaTileTransfer tile h => exact execDmaTileTransfer_keeps tile h hk
  | dmaRingCopy eng ch => exact execDmaRingCopy_keeps eng ch hk
  | dmaRingFill eng ch => exact execDmaRingFill_keeps eng ch hk
  | dmaHalfEntry eng ch => exact execDmaHalfEntry_keeps eng ch hk
  | dmaTransferEnd eng ch => exact execDmaTransferEnd_keeps eng ch hk
  | dmaSqTailWrite eng ch v => exact execDmaSqTailWrite_keeps eng ch v hk
  | dmaCplHeadWrite eng ch v => exact execDmaCplHeadWrite_keeps eng ch v hk
  | dmaStop eng ch => exact execDmaStop_keeps eng ch hk
  | dmaResume eng ch => exact execDmaResume_keeps eng ch hk
  | dmaCntClr eng ch => exact execDmaCntClr_keeps eng ch hk
  | lpddrReadRetry pkg o => exact execLpddrReadRetry_keeps pkg o hk
  | odeccPoll pkg n => exact execOdeccPoll_keeps pkg n hk
  | lpcCntClr pkg => exact execLpcCntClr_keeps pkg hk
  | ftlCntClr => exact execFtlCntClr_keeps hk
  | ftlRead handle dst o => exact execFtlRead_keeps handle dst o hk
  | ftlRelocation block why => exact execFtlRelocation_keeps block why hk
  | compress tile h => exact execCompress_keeps tile h hk
  | decompress tile h => exact execDecompress_keeps tile h hk
  | ringCompress eng ch => exact execRingCompress_keeps eng ch hk
  | ringDecompress eng ch => exact execRingDecompress_keeps eng ch hk
  | compCntClr cd => exact execCompCntClr_keeps cd hk
  | sieveUnique tile h => exact execSieveUnique_keeps tile h hk
  | sieveGather tile h => exact execSieveGather_keeps tile h hk
  | scatterAdd tile h => exact execScatterAdd_keeps tile h hk
  | scatterWrite tile h => exact execScatterWrite_keeps tile h hk
  | tableOldFree slot version => exact execTableOldFree_keeps slot version hk
  | sieveCntClr cd => exact execSieveCntClr_keeps cd hk
  | linkEnable lk on => exact execLinkEnable_keeps lk on hk
  | linkBringupRetry lk => exact execLinkBringupRetry_keeps lk hk
  | linkInit lk switch credit => exact execLinkInit_keeps lk switch credit hk
  | linkPacketReceive lk p fec => exact execLinkPacketReceive_keeps lk p fec hk
  | linkAck lk seq credit => exact execLinkAck_keeps lk seq credit hk
  | linkNak lk seq credit => exact execLinkNak_keeps lk seq credit hk
  | replayStart lk => exact execReplayStart_keeps lk hk
  | linkAckTimer lk => exact execLinkAckTimer_keeps lk hk
  | linkRetrain lk => exact execLinkRetrain_keeps lk hk
  | linkRetrainTimeout lk => exact execLinkRetrainTimeout_keeps lk hk
  | linkCtrlHello lk => exact execLinkCtrlHello_keeps lk hk
  | linkCtrlRetrain lk => exact execLinkCtrlRetrain_keeps lk hk
  | linkCntClr lk => exact execLinkCntClr_keeps lk hk
  | helloRequest lk src r => exact execHelloRequest_keeps lk src r hk
  | helloReply lk src r => exact execHelloReply_keeps lk src r hk
  | helloUpdate lk src r => exact execHelloUpdate_keeps lk src r hk
  | helloTimeout t => exact execHelloTimeout_keeps t hk
  | mgmtMessage lk src msg crc => exact execMgmtMessage_keeps lk src msg crc hk
  | ownerClaim src reqId tail => exact execOwnerClaim_keeps src reqId tail hk
  | msfLoad ag addr => exact execMsfLoad_keeps ag addr hk
  | msfStore ag addr v => exact execMsfStore_keeps ag addr v hk
  | msfAdd ag addr v => exact execMsfAdd_keeps ag addr v hk
  | msfSwap ag addr v => exact execMsfSwap_keeps ag addr v hk
  | msfCas ag addr cmp new => exact execMsfCas_keeps ag addr cmp new hk
  | readBurst ag addr len => exact execReadBurst_keeps ag addr len hk
  | writeBurst ag addr len => exact execWriteBurst_keeps ag addr len hk
  | msfRequestReceive die p poison => exact execMsfRequestReceive_keeps die p poison hk
  | msfResponseReceive die p => exact execMsfResponseReceive_keeps die p hk
  | msfTimeout die slot => exact execMsfTimeout_keeps die slot hk
  | msfAbandon die dest => exact execMsfAbandon_keeps die dest hk
  | msfCfgWrite die v => exact execMsfCfgWrite_keeps die v hk
  | msfCntClr die => exact execMsfCntClr_keeps die hk
  | msfTblRead die table idx => exact execMsfTblRead_keeps die table idx hk
  | msfTblWrite die table idx => exact execMsfTblWrite_keeps die table idx hk
  | connActivate die conn => exact execConnActivate_keeps die conn hk
  | connReset die conn => exact execConnReset_keeps die conn hk
  | connForceError die conn => exact execConnForceError_keeps die conn hk
  | connError conn status => exact execConnError_keeps conn status hk
  | contextFill die conn => exact execContextFill_keeps die conn hk
  | sqTailWrite die q v => exact execSqTailWrite_keeps die q v hk
  | raeWrite die q => exact execRaeWrite_keeps die q hk
  | raeWriteImm die q => exact execRaeWriteImm_keeps die q hk
  | raeRead die q => exact execRaeRead_keeps die q hk
  | raeNotify die q => exact execRaeNotify_keeps die q hk
  | graftData die q => exact execGraftData_keeps die q hk
  | graftFrame die q => exact execGraftFrame_keeps die q hk
  | control die q => exact execControl_keeps die q hk
  | rqWriteReceive p => exact execRqWriteReceive_keeps p hk
  | rqReadReqReceive p poison => exact execRqReadReqReceive_keeps p poison hk
  | rqReadRespReceive p => exact execRqReadRespReceive_keeps p hk
  | rqAckReceive p => exact execRqAckReceive_keeps p hk
  | rqErrReceive p => exact execRqErrReceive_keeps p hk
  | rqAckTimer conn => exact execRqAckTimer_keeps conn hk
  | graftDataReceive p => exact execGraftDataReceive_keeps p hk
  | graftFrameReceive p => exact execGraftFrameReceive_keeps p hk
  | rtoExpiry conn msn => exact execRtoExpiry_keeps conn msn hk
  | pathLossResend lk => exact execPathLossResend_keeps lk hk
  | raeRevoke die region => exact execRaeRevoke_keeps die region hk
  | revokeDone => exact execRevokeDone_keeps hk
  | raeCntClr die => exact execRaeCntClr_keeps die hk
  | openRec src mapEpoch r => exact execOpenRec_keeps src mapEpoch r hk
  | openAck src mapEpoch r => exact execOpenAck_keeps src mapEpoch r hk
  | graftCommit src mapEpoch r => exact execGraftCommit_keeps src mapEpoch r hk
  | commitAck src mapEpoch r => exact execCommitAck_keeps src mapEpoch r hk
  | abortRec src mapEpoch r => exact execAbortRec_keeps src mapEpoch r hk
  | pull src mapEpoch r => exact execPull_keeps src mapEpoch r hk
  | pullDone src mapEpoch r => exact execPullDone_keeps src mapEpoch r hk
  | pullDoneAck src mapEpoch r => exact execPullDoneAck_keeps src mapEpoch r hk
  | releaseRec src mapEpoch r => exact execReleaseRec_keeps src mapEpoch r hk
  | expiredRec src mapEpoch r => exact execExpiredRec_keeps src mapEpoch r hk
  | graftCntClr => exact execGraftCntClr_keeps hk
  | egressSelect lk => exact execEgressSelect_keeps lk hk
  | gateArm lk => exact execGateArm_keeps lk hk
  | gateDisarm lk => exact execGateDisarm_keeps lk hk
  | gateTakeover lk => exact execGateTakeover_keeps lk hk
  | gateInterval lk => exact execGateInterval_keeps lk hk
  | egrTblRead die table idx => exact execEgrTblRead_keeps die table idx hk
  | egrTblWrite die table idx => exact execEgrTblWrite_keeps die table idx hk
  | egrCntClr die => exact execEgrCntClr_keeps die hk
  | doorbell ld v => exact execDoorbell_keeps ld v hk
  | ringEntryTake ring host => exact execRingEntryTake_keeps ring host hk
  | ringLoad ring => exact execRingLoad_keeps ring hk
  | ringCmdResume ring => exact execRingCmdResume_keeps ring hk
  | ringDisable ring => exact execRingDisable_keeps ring hk
  | ringCntClr => exact execRingCntClr_keeps hk
  | killCmd tag => exact execKillCmd_keeps tag hk
  | rerunDelivery group tiles => exact execRerunDelivery_keeps group tiles hk
  | reqCntClr => exact execReqCntClr_keeps hk
  | tagDrainWrite tag => exact execTagDrainWrite_keeps tag hk
  | tileCompletion tag => exact execTileCompletion_keeps tag hk
  | stepBoundary => exact execStepBoundary_keeps hk
  | stepEnd step => exact execStepEnd_keeps step hk
  | slowdownPeriod => exact execSlowdownPeriod_keeps hk
  | acctRewrite tenant => exact execAcctRewrite_keeps tenant hk
  | mbGo mb => exact execMbGo_keeps mb hk
  | messageTake => exact execMessageTake_keeps hk
  | rmpIdentify mb => exact execRmpIdentify_keeps mb hk
  | rmpCfgStage mb => exact execRmpCfgStage_keeps mb hk
  | rmpCfgCommit mb => exact execRmpCfgCommit_keeps mb hk
  | rmpCfgDiscard mb => exact execRmpCfgDiscard_keeps mb hk
  | rmpCfgRead mb => exact execRmpCfgRead_keeps mb hk
  | idleBoundary => exact execIdleBoundary_keeps hk
  | rmpMapSet mb => exact execRmpMapSet_keeps mb hk
  | rmpMapGet mb => exact execRmpMapGet_keeps mb hk
  | rmpRingCreate mb => exact execRmpRingCreate_keeps mb hk
  | rmpRingDestroy mb => exact execRmpRingDestroy_keeps mb hk
  | submissionRingFreed ring => exact execSubmissionRingFreed_keeps ring hk
  | rmpRingResume mb => exact execRmpRingResume_keeps mb hk
  | rmpRingQuery mb => exact execRmpRingQuery_keeps mb hk
  | rmpTokenFetch mb => exact execRmpTokenFetch_keeps mb hk
  | rmpModelLoad mb => exact execRmpModelLoad_keeps mb hk
  | modelLoaded slot => exact execModelLoaded_keeps slot hk
  | rmpModelUnload mb => exact execRmpModelUnload_keeps mb hk
  | modelUnloaded slot => exact execModelUnloaded_keeps slot hk
  | rmpAcctRead mb => exact execRmpAcctRead_keeps mb hk
  | rmpReqQuery mb => exact execRmpReqQuery_keeps mb hk
  | rmpRegRead mb => exact execRmpRegRead_keeps mb hk
  | functionLevelReset ld => exact execFunctionLevelReset_keeps ld hk
  | getLdInfo => exact execGetLdInfo_keeps hk
  | getLdAllocations => exact execGetLdAllocations_keeps hk
  | setLdAllocations first ranges => exact execSetLdAllocations_keeps first ranges hk
  | fmQosCommand c => exact execFmQosCommand_keeps c hk
  | fmVendorRmp msg => exact execFmVendorRmp_keeps msg hk
  | cxlCntClr => exact execCxlCntClr_keeps hk
  | fclLatch ext => exact execFclLatch_keeps ext hk
  | brokenPair src => exact execBrokenPair_keeps src hk
  | reactionEnd => exact execReactionEnd_keeps hk
  | fclKick key => exact execFclKick_keeps key hk
  | kickLapse => exact execKickLapse_keeps hk
  | beatToggle => exact execBeatToggle_keeps hk
  | fclFence kind idx => exact execFclFence_keeps kind idx hk
  | fclUnfence kind idx => exact execFclUnfence_keeps kind idx hk
  | fclInjectNow src width => exact execFclInjectNow_keeps src width hk
  | fclInjectSync src width => exact execFclInjectSync_keeps src width hk
  | fclInjectWire src => exact execFclInjectWire_keeps src hk
  | fclStickyClear w mask => exact execFclStickyClear_keeps w mask hk
  | fclCntClr => exact execFclCntClr_keeps hk
  | groupReplay group => exact execGroupReplay_keeps group hk
  | qualificationCompare tile disagree => exact execQualificationCompare_keeps tile disagree hk
  | rmpFaultRead mb => exact execRmpFaultRead_keeps mb hk
  | rmpFaultClear mb => exact execRmpFaultClear_keeps mb hk
  | rmpUnitFenceFence mb => exact execRmpUnitFenceFence_keeps mb hk
  | rmpUnitFenceUnfence mb => exact execRmpUnitFenceUnfence_keeps mb hk
  | rmpUnitFenceQualify mb => exact execRmpUnitFenceQualify_keeps mb hk
  | rmpCkptTake mb => exact execRmpCkptTake_keeps mb hk
  | rmpCkptRestore mb => exact execRmpCkptRestore_keeps mb hk
  | rmpPartnerLoad mb o => exact execRmpPartnerLoad_keeps mb o hk
  | rmpInject mb => exact execRmpInject_keeps mb hk
  | feedWindowClose => exact execFeedWindowClose_keeps hk
  | getVersion ld => exact execGetVersion_keeps ld hk
  | getCapabilities ld => exact execGetCapabilities_keeps ld hk
  | negotiateAlgorithms ld a => exact execNegotiateAlgorithms_keeps ld a hk
  | getDigests ld => exact execGetDigests_keeps ld hk
  | getCertificate ld slot off len => exact execGetCertificate_keeps ld slot off len hk
  | challenge ld slot nonce => exact execChallenge_keeps ld slot nonce hk
  | getMeasurements ld index signed nonce => exact execGetMeasurements_keeps ld index signed nonce hk
  | keyExchange ld slot sid share => exact execKeyExchange_keeps ld slot sid share hk
  | finish ld sid verify => exact execFinish_keeps ld sid verify hk
  | heartbeat ld sid => exact execHeartbeat_keeps ld sid hk
  | keyUpdate ld sid => exact execKeyUpdate_keeps ld sid hk
  | endSession ld sid => exact execEndSession_keeps ld sid hk
  | ideKmQuery ld sid => exact execIdeKmQuery_keeps ld sid hk
  | keyProg ld sid sub set key => exact execKeyProg_keeps ld sid sub set key hk
  | kSetGo ld sid sub set => exact execKSetGo_keeps ld sid sub set hk
  | kSetStop ld sid sub set => exact execKSetStop_keeps ld sid sub set hk
  | tamperTrip src => exact execTamperTrip_keeps src hk
  | secWipeWrite key => exact execSecWipeWrite_keeps key hk
  | rmpSecQuery mb => exact execRmpSecQuery_keeps mb hk
  | rmpFwStage mb => exact execRmpFwStage_keeps mb hk
  | rmpFwActivate mb => exact execRmpFwActivate_keeps mb hk
  | rmpRollbackAdvance mb => exact execRmpRollbackAdvance_keeps mb hk
  | rmpLcTransition mb => exact execRmpLcTransition_keeps mb hk
  | jtagLcTransition target token => exact execJtagLcTransition_keeps target token hk
  | powerReport mw100us mw1ms mw1s => exact execPowerReport_keeps mw100us mw1ms mw1s hk
  | vinRange mv => exact execVinRange_keeps mv hk
  | clampClr => exact execClampClr_keeps hk
  | pwrCapWrite v => exact execPwrCapWrite_keeps v hk
  | tilePwrReq tile req => exact execTilePwrReq_keeps tile req hk
  | tileWake tile => exact execTileWake_keeps tile hk
  | tileDivWrite tile v => exact execTileDivWrite_keeps tile v hk
  | tileVsetWrite tile v => exact execTileVsetWrite_keeps tile v hk
  | comparatorFire k => exact execComparatorFire_keeps k hk
  | ltuBootWrite v => exact execLtuBootWrite_keeps v hk
  | stageSplitWrite v => exact execStageSplitWrite_keeps v hk
  | thermalSample site temp => exact execThermalSample_keeps site temp hk
  | pdmSweep tile => exact execPdmSweep_keeps tile hk
  | sweepDone tile delays => exact execSweepDone_keeps tile delays hk
  | ageScheduler => exact execAgeScheduler_keeps hk
  | insituSlackCheck tile slack => exact execInsituSlackCheck_keeps tile slack hk
  | rmpPowerQuery mb => exact execRmpPowerQuery_keeps mb hk
  | rmpPowerCap mb => exact execRmpPowerCap_keeps mb hk
  | rmpTimerAlloc mb => exact execRmpTimerAlloc_keeps mb hk
  | rmpTimerFree mb => exact execRmpTimerFree_keeps mb hk
  | rmpAgeReport mb => exact execRmpAgeReport_keeps mb hk
  | rmpBootParamSet mb => exact execRmpBootParamSet_keeps mb hk
  | syncInEdge => exact execSyncInEdge_keeps hk
  | powerUp => exact execPowerUp_keeps hk
  | railFault beyond15 => exact execRailFault_keeps beyond15 hk
  | resetNAssert => exact execResetNAssert_keeps hk
  | startup inp => exact execStartup_keeps inp hk
  | perstN => exact execPerstN_keeps hk
  | powerDown ordered => exact execPowerDown_keeps ordered hk
  | recGo len => exact execRecGo_keeps len hk
  | sbStatus => exact execSbStatus_keeps hk
  | sbRead off len ov => exact execSbRead_keeps off len ov hk
  | sbWrite off data ov => exact execSbWrite_keeps off data ov hk
  | sbIdent => exact execSbIdent_keeps hk
  | sbwCntClr => exact execSbwCntClr_keeps hk
  | bootProgressWrite v => exact execBootProgressWrite_keeps v hk
  | bypass => exact execBypass_keeps hk
  | idcode => exact execIdcode_keeps hk
  | samplePreload pins preload => exact execSamplePreload_keeps pins preload hk
  | extest pins => exact execExtest_keeps pins hk
  | clamp => exact execClamp_keeps hk
  | highz => exact execHighz_keeps hk
  | extestPulse pins => exact execExtestPulse_keeps pins hk
  | extestTrain pins => exact execExtestTrain_keeps pins hk
  | dbgDtmcs => exact execDbgDtmcs_keeps hk
  | dbgDmi op => exact execDbgDmi_keeps op hk
  | linkRetrainDone lk => exact execLinkRetrainDone_keeps lk hk
  | portRetrainDone site port restored => exact execPortRetrainDone_keeps site port restored hk
  | txnSlotReissue die slot => exact execTxnSlotReissue_keeps die slot hk
  | ringCoalesceTimer ring => exact execRingCoalesceTimer_keeps ring hk
  | cqHeadWrite die q v => exact execCqHeadWrite_keeps die q v hk
  | perstNRelease tr => exact execPerstNRelease_keeps tr hk
  | cxlMemRequest ld off r => exact execCxlMemRequest_keeps ld off r hk
  | hdmDecoderCommit ld on => exact execHdmDecoderCommit_keeps ld on hk
  | sbDynamicAddress addr => exact execSbDynamicAddress_keeps addr hk
  | feedFrameReceive | feedDown | recordSign | clocheRestart | sealBroken | clIdentify | certRead | recordRead
  | snapshotRead | liveRead | logRead | nonceGet | paramSet | labelSet | keySet | archive | reseal | fwChunk
  | fwCommit | clVauxLoss | clDynamicAddress => cases own

theorem exec_keepsXB_of_forCloche {c : Instr} {r s : State} (own : Claims.forCloche c = true) (hk : KeepsB r s) :
    KeepsXB r (exec c s) := by
  cases c with
  | feedFrameReceive frame energy elapsedNs => exact execFeedFrameReceive_keepsB frame energy elapsedNs hk
  | feedDown energy => exact execFeedDown_keepsB energy hk
  | recordSign => exact execRecordSign_keepsB hk
  | clocheRestart why => exact execClocheRestart_keepsB why hk
  | sealBroken => exact execSealBroken_keepsB hk
  | clIdentify => exact execClIdentify_keepsB hk
  | certRead off len => exact execCertRead_keepsB off len hk
  | recordRead no => exact execRecordRead_keepsB no hk
  | snapshotRead no first count => exact execSnapshotRead_keepsB no first count hk
  | liveRead tenant => exact execLiveRead_keepsB tenant hk
  | logRead seq => exact execLogRead_keepsB seq hk
  | nonceGet => exact execNonceGet_keepsB hk
  | paramSet c => exact execParamSet_keepsB c hk
  | labelSet c => exact execLabelSet_keepsB c hk
  | keySet c => exact execKeySet_keepsB c hk
  | archive c => exact execArchive_keepsB c hk
  | reseal c loopClosed => exact execReseal_keepsB c loopClosed hk
  | fwChunk off data => exact execFwChunk_keepsB off data hk
  | fwCommit c => exact execFwCommit_keepsB c hk
  | clVauxLoss => exact execClVauxLoss_keepsB hk
  | clDynamicAddress setdasa addr => exact execClDynamicAddress_keepsB setdasa addr hk
  | _ => cases own

/-- Any command keeps the queue, the fuses and every byte memory's form. -/
theorem exec_keepsXB (c : Instr) (s : State) : KeepsXB s (exec c s) := by
  cases own : Claims.forCloche c with
  | false => exact (exec_keepsX own (Keeps.refl s)).base
  | true => exact exec_keepsXB_of_forCloche own (KeepsB.refl s)

/-! ## What a step keeps -/

theorem canonical_iff (s : State) : Claims.canonical s ↔ MemOk s :=
  ⟨fun ⟨mem, t3, host, qspi, half⟩ => ⟨mem, t3, host, qspi, half⟩,
    fun ⟨mem, t3, host, qspi, half⟩ => ⟨mem, t3, host, qspi, half⟩⟩

theorem State.tick_keepsB (s : State) : KeepsB s s.tick :=
  (KeepsB.clock s).trans (State.tickDevice_keeps (Keeps.refl _)).base

/-- The queue holds no byte memory. -/
theorem MemOk.setPending {s : State} (w : MemOk s) (q : List Instr) : MemOk { s with pending := q } :=
  ⟨w.mem, w.t3, w.host, w.qspi, w.half⟩

theorem step_memOk {s t : State} (w : MemOk s) (h : step s = .next t) : MemOk t := by
  unfold step at h
  split at h
  next => cases h; exact s.tick_keepsB.mem w
  next c rest _ => exact (exec_keepsXB c _ t h).mem (w.setPending rest)

/-- Settles O3: a tick and every command keep each memory's form, and no command touches the queue. -/
theorem stepsKeepMemories : Obligations.StepsKeepMemories := by
  unfold Obligations.StepsKeepMemories
  refine ⟨fun s t canon h => ?_, fun c s t h => (exec_keepsXB c s t h).queue⟩
  rw [canonical_iff] at canon ⊢
  exact step_memOk canon h

end Sys2Proof.Machine
end

section
/-!
The Trellis (R60 to R64, R77 to R83): what a change of one port leaves alone, one equation per case of each command, and from them
`TrellisPorts` and `TrellisPackets`.
-/
namespace Sys2Proof.Machine

/-! ## Ports -/

theorem State.updPort_port (s : State) (site p k j : Nat) (f : Port → Port) :
    ((s.updPort site p f).die k).port j = if (k, j) = (site, p) then f ((s.die k).port j) else (s.die k).port j := by
  by_cases hk : k = site
  · subst hk
    simp only [State.updPort, State.updDie_die_self, Die.port, Tbl.getD_upd, Prod.mk.injEq, true_and]
    split
    · subst j; rfl
    · rfl
  · simp [State.updPort, hk]

/-- A change of a port leaves every other field of its die, and every other die. -/
theorem State.updPort_die (s : State) (site p k : Nat) (f : Port → Port) :
    (s.updPort site p f).die k = { s.die k with ports := ((s.updPort site p f).die k).ports } := by
  by_cases hk : k = site
  · subst hk
    simp [State.updPort]
  · simp [State.updPort, hk]

/-- An edge joins two ports (R59). -/
theorem ne_peerOf (site : Fin 7) (port : Fin 4) : (site.val, port.val) ≠ peerOf site.val port.val := by
  revert site port
  decide

/-- Each end of an edge after a change at both. -/
theorem State.updPort_updPort_port (s : State) {a b : Nat × Nat} (apart : a ≠ b) (f g : Port → Port) {k j : Nat}
    (ends : (k, j) = a ∨ (k, j) = b) : (((s.updPort a.1 a.2 f).updPort b.1 b.2 g).die k).port j =
      if (k, j) = a then f ((s.die k).port j) else g ((s.die k).port j) := by
  simp only [State.updPort_port]
  obtain rfl | rfl := ends
  · simp [apart]
  · simp [apart.symm]

theorem portsOnly_refl (s : State) (a b : Nat × Nat) : Claims.portsOnly s s a b := fun _ => ⟨rfl, fun _ _ _ => rfl⟩

theorem portsOnly_of_dies {s t u : State} {a b : Nat × Nat} (h : Claims.portsOnly s t a b) (dies : u.dies = t.dies) :
    Claims.portsOnly s u a b := by
  unfold Claims.portsOnly State.die at *
  rwa [dies]

/-- A change of one of the two ports leaves the rest as it is. -/
theorem portsOnly_updPort {s t : State} {a b : Nat × Nat} {site p : Nat} (h : Claims.portsOnly s t a b)
    (of : (site, p) = a ∨ (site, p) = b) (f : Port → Port) : Claims.portsOnly s (t.updPort site p f) a b := by
  intro k
  obtain ⟨rest, other⟩ := h k
  refine ⟨?_, fun j ha hb => ?_⟩
  · rw [t.updPort_die, rest]
  · rw [t.updPort_port, if_neg, other j ha hb]
    exact fun here => of.elim (fun h => ha (here.trans h)) (fun h => hb (here.trans h))

/-- What a unit raises depends on the collector and the time alone (R444). -/
theorem State.raise_fcl_congr {s t : State} (fcl : s.fcl = t.fcl) (ltu : s.ltu = t.ltu) (src : Nat) :
    (s.raise src).fcl = (t.raise src).fcl := by
  unfold State.raise
  cases sourceClass src <;> simp [fcl, ltu]

/-! ## The ports' commands (R64, R79, R80, R83) -/

theorem exec_trellisModuleFail_of_up {s : State} {site : Fin 7} {port : Fin 4} (edge : port.val < portsOf site.val)
    (up : ((s.die site.val).port port.val).modulesUp ≠ 0) : exec (.trellisModuleFail site port) s =
      .next ((((s.updPort site.val port.val Port.loseModule).updPort (peerOf site.val port.val).1 (peerOf site.val port.val).2
        Port.loseModule)).raise (trellisSrc site.val (if ((s.die site.val).port port.val).modulesUp = 1 then 3 else 2))) := by
  have last : ((s.die site.val).port port.val).modulesUp ≤ 1 ↔ ((s.die site.val).port port.val).modulesUp = 1 := by omega
  show execTrellisModuleFail site port s = _
  simp only [execTrellisModuleFail, Nat.not_le.mpr edge, up, last, decide_false, Bool.or_self, Bool.false_eq_true, if_false]

theorem exec_portRetrain_of_live {s : State} {site : Fin 7} {port : Fin 4} (live : s.live = true) (edge : port.val < portsOf site.val) :
    exec (.portRetrain site port) s = .next (s.updPort site.val port.val (fun o => { o with retrain := true })) := by
  show execPortRetrain site port s = _
  simp only [execPortRetrain, live, Nat.not_le.mpr edge, Bool.not_true, decide_false, Bool.or_self, Bool.false_eq_true, if_false]

/-- A port whose modules have been trained, `fitted` at most (R83). -/
def Port.restore (fitted restored : Nat) (o : Port) : Port :=
  { o with modulesUp := Nat.min fitted (o.modulesUp + restored)
           state := if o.state = .failed ∧ 0 < restored then .up else o.state }

theorem exec_portRetrainDone_of_training {s : State} {site : Fin 7} {port : Fin 4} (restored : Nat) (edge : port.val < portsOf site.val)
    (training : ((s.die site.val).port port.val).retrain = true) : exec (.portRetrainDone site port restored) s =
      .next ((s.updPort site.val port.val
          (fun o => { o.restore (modulesFitted site.val port.val) restored with retrain := false })).updPort
        (peerOf site.val port.val).1 (peerOf site.val port.val).2 (Port.restore (modulesFitted site.val port.val) restored)) := by
  show execPortRetrainDone site port restored s = _
  simp only [execPortRetrainDone, Nat.not_le.mpr edge, training, Bool.not_true, decide_false, Bool.or_self, Bool.false_eq_true,
    if_false, Bool.and_eq_true, decide_eq_true_eq]
  rfl

theorem exec_portCntClr_of_live {s : State} {site : Fin 7} {port : Fin 4} (live : s.live = true) (edge : port.val < portsOf site.val) :
    exec (.portCntClr site port) s = .next (s.updPort site.val port.val (fun o => { o with hdrCheck := 0, retry := 0 })) := by
  show execPortCntClr site port s = _
  simp only [execPortCntClr, live, Nat.not_le.mpr edge, Bool.not_true, decide_false, Bool.or_self, Bool.false_eq_true, if_false]

theorem exec_trellisTimeoutWrite_of_live {s : State} (live : s.live = true) (v : BitVec 32) : exec (.trellisTimeoutWrite v) s =
    .next (if 200 ≤ bits v.toNat 0 14 ∧ bits v.toNat 0 14 ≤ 10000
      then { s with trellis := { s.trellis with timeoutUs := bits v.toNat 0 14 } } else s) := by
  show execTrellisTimeoutWrite v s = _
  by_cases range : 200 ≤ bits v.toNat 0 14 ∧ bits v.toNat 0 14 ≤ 10000
  · rw [if_pos range]
    refine if_neg ?_
    simp only [live, Bool.not_true, Bool.false_or, Bool.or_eq_true, decide_eq_true_eq]
    omega
  · rw [if_neg range]
    refine if_pos ?_
    simp only [Bool.or_eq_true, decide_eq_true_eq]
    omega

theorem exec_dieErrclr_of_live {s : State} (live : s.live = true) (site : Fin 7) (v : BitVec 32) : exec (.dieErrclr site v) s =
    .next (if v.getLsbD 0 then s.updDie site.val (fun d => { d with tableCheck := 0, trellisTimeouts := 0, addrViolations := 0 })
      else s) := by
  show execDieErrclr site v s = _
  cases clear : v.getLsbD 0 <;> simp only [execDieErrclr, live, clear, Bool.not_true, Bool.not_false, Bool.or_false, Bool.or_true,
    Bool.false_eq_true, if_true, if_false]

/-- Settles O7: each command is a change of the ports its equation names. -/
theorem trellisPorts : Obligations.TrellisPorts := by
  unfold Obligations.TrellisPorts
  refine ⟨?fail, ?retrain, ?done, ?counters, fun s v live => exec_trellisTimeoutWrite_of_live live v, ?errors⟩
  case fail =>
    intro s site port edge up
    refine ⟨_, exec_trellisModuleFail_of_up edge up, ?_, ?_, fun k j ends => ?_, State.raise_fcl_congr (by rfl) (by rfl) _⟩
    · rw [State.raise_frame]; rfl
    · exact portsOnly_of_dies (portsOnly_updPort (portsOnly_updPort (portsOnly_refl s _ _) (.inl rfl) _) (.inr rfl) _) (State.raise_dies ..)
    · rw [State.raise_die, s.updPort_updPort_port (ne_peerOf site port) _ _ ends, ite_self]
      rfl
  case retrain =>
    intro s site port live edge
    refine ⟨_, exec_portRetrain_of_live live edge, rfl, portsOnly_updPort (portsOnly_refl s _ _) (.inl rfl) _, ?_⟩
    rw [State.updPort_port, if_pos rfl]
  case done =>
    intro s site port restored edge training
    refine ⟨_, exec_portRetrainDone_of_training restored edge training, rfl, ?_, fun k j ends => ?_⟩
    · exact portsOnly_updPort (portsOnly_updPort (portsOnly_refl s _ _) (.inl rfl) _) (.inr rfl) _
    · rw [s.updPort_updPort_port (ne_peerOf site port) _ _ ends]
      split <;> rfl
  case counters =>
    intro s site port live edge
    refine ⟨_, exec_portCntClr_of_live live edge, rfl, portsOnly_updPort (portsOnly_refl s _ _) (.inl rfl) _, ?_⟩
    rw [State.updPort_port, if_pos rfl]
  case errors =>
    intro s site v live
    refine ⟨_, exec_dieErrclr_of_live live site v, ?_, ?_, fun k other => ?_⟩
    · split <;> rfl
    · split <;> simp
    · split <;> simp [other]

end Sys2Proof.Machine
end

section
/-!
Packets of the Trellis and requests that time out (R60 to R63): one equation per case of each command, and from them
`TrellisPackets`.
-/
namespace Sys2Proof.Machine

/-! ## A packet on its way (R60) -/

/-- The Trellis after a router of `s` has sent a packet on by its route, or has discarded it for want of a port that is up. -/
def State.sendOn (s : State) (tr : Trellis) (site : Nat) (p : TPkt) : Trellis :=
  { tr with vcs := tr.vcs ++ if p.dst < 7 ∧ ((s.die site).port (routePort site p.dst)).state = .up
    then [⟨site, routePort site p.dst, p.cls, p.src, p.dst, p.txn⟩] else [] }

theorem State.sendOn_of_up {s : State} {site : Nat} {p : TPkt} (tr : Trellis)
    (up : (decide (7 ≤ p.dst) || !(s.portUp site (routePort site p.dst))) = false) :
    s.sendOn tr site p = { tr with vcs := tr.vcs ++ [⟨site, routePort site p.dst, p.cls, p.src, p.dst, p.txn⟩] } := by
  simp only [Bool.or_eq_false_iff, decide_eq_false_iff_not, Nat.not_le, Bool.not_eq_false', State.portUp, decide_eq_true_eq] at up
  rw [State.sendOn, if_pos up]

theorem State.sendOn_of_no_port {s : State} {site : Nat} {p : TPkt} (tr : Trellis)
    (down : (decide (7 ≤ p.dst) || !(s.portUp site (routePort site p.dst))) = true) : s.sendOn tr site p = tr := by
  simp only [Bool.or_eq_true, decide_eq_true_eq, Bool.not_eq_true', State.portUp, decide_eq_false_iff_not] at down
  rw [State.sendOn, if_neg (fun ⟨near, up⟩ => down.elim (Nat.not_le.mpr near) (· up)), List.append_nil]

/-! ## A packet at its source (R60, R62, R63) -/

theorem Trellis.sent_of_away (t : Trellis) {site now : Nat} {p : TPkt} (away : p.dst ≠ site) : t.sent site now p =
    { t with waiting := if p.cls = .request then ⟨p.txn, p.src, p.dst, p.isRead, p.issuer, now⟩ :: t.waiting else t.waiting } := by
  by_cases request : p.cls = .request <;> simp [Trellis.sent, request, away]

@[simp] theorem Trellis.sent_vcs (t : Trellis) (site now : Nat) (p : TPkt) : (t.sent site now p).vcs = t.vcs := by
  unfold Trellis.sent
  split <;> rfl

section
variable {s : State} {site : Fin 7} {p : TPkt}

theorem exec_trellisPacket_from_elsewhere (src : p.src ≠ site.val) : exec (.trellisPacket site none p) s = .next s := by
  show execTrellisPacket site none p s = _
  simp only [execTrellisPacket, src, if_false]

theorem exec_trellisPacket_of_source_bad (src : p.src = site.val) (bad : crc16 p.hdr ≠ p.crc.toNat) :
    exec (.trellisPacket site none p) s =
      .next ({ s with trellis := s.trellis.sent site.val s.ltu p }.raise (trellisSrc site.val 0)) := by
  show execTrellisPacket site none p s = _
  simp only [execTrellisPacket, src, bad, if_true, ne_eq, not_false_eq_true]

theorem exec_trellisPacket_of_source (src : p.src = site.val) (good : crc16 p.hdr = p.crc.toNat) (away : p.dst ≠ site.val) :
    exec (.trellisPacket site none p) s =
      .next { s with trellis := s.sendOn (s.trellis.sent site.val s.ltu p) site.val p } := by
  show execTrellisPacket site none p s = _
  simp only [execTrellisPacket, src, good, away, if_true, if_false, ne_eq, not_true_eq_false]
  split
  · rw [State.sendOn_of_no_port _ ‹_›]
  · rw [State.sendOn_of_up _ (eq_false_of_ne_true ‹_›), src]

end

/-! ## A packet that arrives by a port (R60 to R62) -/

/-- The packet has crossed the edge of a port, which counts the retries its crossing took (R82). -/
def State.crossed (s : State) (site q : Nat) (p : TPkt) : State :=
  s.updPort site q (fun o => { o with retry := satAdd 32 o.retry p.retries })

theorem State.crossed_sendOn (s : State) (site q : Nat) (p : TPkt) (tr : Trellis) :
    (s.crossed site q p).sendOn tr site p = s.sendOn tr site p := by
  have state : (((s.crossed site q p).die site).port (routePort site p.dst)).state =
      ((s.die site).port (routePort site p.dst)).state := by
    rw [State.crossed, State.updPort_port]
    split <;> rfl
  simp only [State.sendOn, state]

theorem exec_trellisPacket_of_no_port {s : State} {site : Fin 7} {q : Fin 4} (p : TPkt) (edge : portsOf site.val ≤ q.val) :
    exec (.trellisPacket site (some q) p) s = .next s := by
  show execTrellisPacket site (some q) p s = _
  simp only [execTrellisPacket, Nat.not_lt.mpr edge, if_false]

theorem Trellis.arrive_of_held {t : Trellis} {site port : Nat} {p : TPkt} {v : TrellisHeld}
    (found : t.vcs.find? (fun v => v.site = site && v.port = port && v.cls = p.cls) = some v) (src : v.src = p.src)
    (dst : v.dst = p.dst) (txn : v.txn = p.txn) : t.arrive site port p = some { t with vcs := t.vcs.erase v } := by
  simp [Trellis.arrive, found, src, dst, txn]

/-- A port holds nothing like the packet: none of its class, or another one first. -/
theorem Trellis.arrive_eq_none {t : Trellis} {site port : Nat} {p : TPkt}
    (absent : ∀ v ∈ t.vcs, ¬(v.site = site ∧ v.port = port ∧ v.cls = p.cls ∧ v.src = p.src ∧ v.dst = p.dst ∧ v.txn = p.txn)) :
    t.arrive site port p = none := by
  unfold Trellis.arrive
  split
  next => rfl
  next v found =>
    have here := List.find?_some found
    have other := absent v (List.mem_of_find?_eq_some found)
    simp only [Bool.and_eq_true, decide_eq_true_eq] at here
    obtain ⟨⟨site_eq, port_eq⟩, cls⟩ := here
    refine if_neg fun same => ?_
    simp only [Bool.and_eq_true, decide_eq_true_eq] at same
    obtain ⟨⟨src, dst⟩, txn⟩ := same
    exact other ⟨site_eq, port_eq, cls, src, dst, txn⟩

theorem exec_trellisPacket_of_absent {s : State} {site : Fin 7} {q : Fin 4} {p : TPkt}
    (absent : s.trellis.arrive (peerOf site.val q.val).1 (peerOf site.val q.val).2 p = none) :
    exec (.trellisPacket site (some q) p) s = .next s := by
  show execTrellisPacket site (some q) p s = _
  simp only [execTrellisPacket, absent, ite_self]

section
variable {s : State} {site : Fin 7} {q : Fin 4} {p : TPkt} {tr : Trellis} (edge : q.val < portsOf site.val)
  (arrived : s.trellis.arrive (peerOf site.val q.val).1 (peerOf site.val q.val).2 p = some tr)
include edge arrived

theorem exec_trellisPacket_of_bad (bad : crc16 p.hdr ≠ p.crc.toNat) : exec (.trellisPacket site (some q) p) s =
    .next ({ (s.crossed site.val q.val p).updPort site.val q.val (fun o => { o with hdrCheck := satAdd 32 o.hdrCheck 1 })
      with trellis := tr }.raise (trellisSrc site.val 0)) := by
  show execTrellisPacket site (some q) p s = _
  simp only [execTrellisPacket, edge, arrived, bad, State.crossed, if_true, ne_eq, not_false_eq_true]

theorem exec_trellisPacket_delivered (good : crc16 p.hdr = p.crc.toNat) (here : p.dst = site.val) :
    exec (.trellisPacket site (some q) p) s =
      .next { s.crossed site.val q.val p with trellis := if p.cls = .response then tr.respond p else tr } := by
  show execTrellisPacket site (some q) p s = _
  simp only [execTrellisPacket, edge, arrived, good, here, State.crossed, if_true, if_false, ne_eq, not_true_eq_false]

theorem exec_trellisPacket_sent_on (good : crc16 p.hdr = p.crc.toNat) (away : p.dst ≠ site.val) :
    exec (.trellisPacket site (some q) p) s =
      .next { s.crossed site.val q.val p with trellis := s.sendOn tr site.val p } := by
  show execTrellisPacket site (some q) p s = _
  rw [← s.crossed_sendOn site.val q.val p tr]
  simp only [execTrellisPacket, edge, arrived, good, away, if_true, if_false, ne_eq, not_true_eq_false]
  split
  · rw [State.sendOn_of_no_port _ ‹_›]; rfl
  · rw [State.sendOn_of_up _ (eq_false_of_ne_true ‹_›)]; rfl

end

/-! ## A request that is not answered in time (R63) -/

/-- The request is given up: its die counts it and raises the source. -/
def State.giveUp (s : State) (w : TrellisReq) : State :=
  ({ s with trellis := { s.trellis with waiting := s.trellis.waiting.erase w } }.updDie w.src
    (fun d => { d with trellisTimeouts := satAdd 16 d.trellisTimeouts 1 })).raise (trellisSrc w.src 1)

section
variable {s : State} {txn : Nat} {w : TrellisReq} (found : s.trellis.waiting.find? (fun x => x.txn = txn) = some w)
  (late : w.sent + 100 * s.trellis.timeoutUs < s.ltu)
include found late

theorem exec_trellisTimeout_of_unread (unread : w.isRead = false ∨ w.issuer = none) :
    exec (.trellisTimeout txn) s = .next (s.giveUp w) := by
  show execTrellisTimeout txn s = _
  simp only [execTrellisTimeout, found, Nat.not_le.mpr late, if_false]
  obtain write | nobody := unread
  · rw [write]
    split <;> rfl
  · rw [nobody]
    rfl

theorem exec_trellisTimeout_of_read {ag : Agent} (read : w.isRead = true) (issuer : w.issuer = some ag) :
    exec (.trellisTimeout txn) s = .next ((s.giveUp w).readFail ag Stat.trellisTimeout) := by
  show execTrellisTimeout txn s = _
  simp only [execTrellisTimeout, found, Nat.not_le.mpr late, if_false, issuer, read, if_true, State.giveUp]

end

theorem exec_trellisTimeout_early {s : State} {txn : Nat}
    (early : ∀ w ∈ s.trellis.waiting, w.txn = txn → s.ltu ≤ w.sent + 100 * s.trellis.timeoutUs) :
    exec (.trellisTimeout txn) s = .next s := by
  show execTrellisTimeout txn s = _
  unfold execTrellisTimeout
  split
  next => rfl
  next w found =>
    have here := List.find?_some found
    exact if_pos (early w (List.mem_of_find?_eq_some found) (of_decide_eq_true here))

/-! ## The ports a packet crosses -/

theorem portsOnly_crossed (s : State) (site q : Nat) (p : TPkt) : Claims.portsOnly s (s.crossed site q p) (site, q) (site, q) :=
  portsOnly_updPort (portsOnly_refl s _ _) (.inl rfl) _

/-- Settles O6: a packet's fate is decided at its router, by its header and then by its route, and a request's by its timer. -/
theorem trellisPackets : Obligations.TrellisPackets := by
  unfold Obligations.TrellisPackets
  refine ⟨?source, ?sentOn, ?delivered, ?bad, ?timeout, ?idleSource, ?absent, fun s txn => exec_trellisTimeout_early⟩
  case source =>
    intro s site p src good away
    rw [exec_trellisPacket_of_source src good away, Trellis.sent_of_away _ away, State.sendOn]
    simp only [apply_ite (s.trellis.vcs ++ ·), List.append_nil]
  case sentOn =>
    intro s site q p v edge found src dst txn good away
    have arrived := Trellis.arrive_of_held found src dst txn
    refine ⟨_, exec_trellisPacket_sent_on edge arrived good away, rfl, rfl, ?_, ?_⟩
    · exact portsOnly_of_dies (portsOnly_crossed s site.val q.val p) rfl
    · exact (State.updPort_port ..).trans (if_pos rfl)
  case delivered =>
    intro s site q p v edge found src dst txn good here
    have arrived := Trellis.arrive_of_held found src dst txn
    refine ⟨_, exec_trellisPacket_delivered edge arrived good here, rfl, ?_, ?_, ?_⟩
    · split <;> rfl
    · exact portsOnly_of_dies (portsOnly_crossed s site.val q.val p) rfl
    · exact (State.updPort_port ..).trans (if_pos rfl)
  case bad =>
    intro s site q p v edge found src dst txn bad
    have arrived := Trellis.arrive_of_held found src dst txn
    refine ⟨_, exec_trellisPacket_of_bad edge arrived bad, ?_, ?_, ?_, ?_, State.raise_fcl_congr (by rfl) (by rfl) _⟩
    · rw [State.raise_frame]; rfl
    · exact State.raise_trellis ..
    · exact portsOnly_of_dies (portsOnly_updPort (portsOnly_crossed s site.val q.val p) (.inl rfl) _) (State.raise_dies ..)
    · rw [State.raise_die]
      refine (State.updPort_port ..).trans ?_
      rw [if_pos rfl, State.crossed, State.updPort_port, if_pos rfl]
  case timeout =>
    intro s txn w found late u
    have read := fun ag => exec_trellisTimeout_of_read (ag := ag) found late
    refine ⟨exec_trellisTimeout_of_unread found late, fun isRead tl th n => read _ isRead, fun isRead h => read _ isRead, ?_⟩
    rintro isRead _ (⟨e, c, rfl⟩ | ⟨t, c, rfl⟩) issuer
    · exact read _ isRead issuer
    · exact read _ isRead issuer
  case idleSource =>
    refine fun s site p => ⟨exec_trellisPacket_from_elsewhere, fun src bad => ?_⟩
    refine ⟨_, exec_trellisPacket_of_source_bad src bad, ?_, ?_, State.raise_fcl_congr (by rfl) (by rfl) _⟩
    · rw [State.raise_frame]
    · rw [State.raise_trellis, Trellis.sent_vcs]
  case absent =>
    rintro s site q p (edge | absent)
    · exact exec_trellisPacket_of_no_port p edge
    · exact exec_trellisPacket_of_absent (Trellis.arrive_eq_none absent)

end Sys2Proof.Machine
end

section
/-!
Accesses of a master to the register space (R71 to R76, R81, R82): which are refused and in what order, what a refusal does, which
block a write reaches, and from them `RegisterAccesses`.
-/
namespace Sys2Proof.Machine

/-! ## Accesses of the device's own masters (R71, R72, R75) -/

/-- R72's and R75's nested checks, read as a list in the order they are made. -/
theorem regStatus_eq_firstFailing (m : Master) (addr size : Nat) : regStatus m addr size = Claims.firstFailing
    [(decide (m ≠ .control ∨ (size ≠ 4 ∧ size ≠ 8) ∨ addr % size ≠ 0), Stat.accessDenied), (!(regMapped addr), Stat.addrUnmapped),
     (decide (16 ≤ regSite addr), Stat.accessDenied)] := by
  simp [regStatus, or_assoc]

theorem State.refuseAccess_of_not_tile (s : State) {m : Master} (other : ∀ t, m ≠ .tile t) (status : Nat) :
    s.refuseAccess m status = s.violate (if Machine.Master.site m < 5 then Machine.Master.site m else 4) := by
  cases m with
  | tile t => exact absurd rfl (other t)
  | _ => rfl

section
variable {s : State} {m : Master} {addr size : Nat} {v : BitVec 64} (own : ∀ l, m ≠ .hostIo l)
include own

theorem exec_registerAccess_of_own : exec (.registerAccess m addr size v) s =
    if !s.live || regionOf addr ≠ .regs then .next s
    else if regStatus m addr size ≠ Stat.ok then .next (s.refuseAccess m (regStatus m addr size))
    else .next (s.regWrite addr (regLanes addr size v.toNat)) := by
  cases m with
  | hostIo l => exact absurd rfl (own l)
  | _ => rfl

theorem exec_registerAccess_outside (outside : s.live = false ∨ regionOf addr ≠ .regs) :
    exec (.registerAccess m addr size v) s = .next s := by
  rw [exec_registerAccess_of_own own]
  exact if_pos (by simpa using outside)

variable (live : s.live = true) (space : regionOf addr = .regs)
include live space

theorem exec_registerAccess_of_ok (ok : regStatus m addr size = Stat.ok) :
    exec (.registerAccess m addr size v) s = .next (s.regWrite addr (regLanes addr size v.toNat)) := by
  simp only [exec_registerAccess_of_own own, live, space, ok, ne_eq, not_true_eq_false, decide_false, Bool.not_true, Bool.or_self,
    Bool.false_eq_true, if_false]

theorem exec_registerAccess_of_refused (refused : regStatus m addr size ≠ Stat.ok) :
    exec (.registerAccess m addr size v) s = .next (s.refuseAccess m (regStatus m addr size)) := by
  simp only [exec_registerAccess_of_own own, live, space, refused, ne_eq, not_true_eq_false, not_false_eq_true, decide_false,
    Bool.not_true, Bool.or_self, Bool.false_eq_true, if_false, if_true]

end

/-! ## The unit that owns an address (R74, R76) -/

theorem State.regWrite_of_die (s : State) {a : Nat} (w : RegW) (die : regBlock a = 0) :
    s.regWrite a w = s.dieWrite (regSite a) (regOff a / 8 * 8) w := by
  simp only [State.regWrite, die, if_true]

theorem State.regWrite_of_block (s : State) {a : Nat} (w : RegW) (block : regBlock a ≠ 0) : s.regWrite a w =
    if regSite a < 4 then s.cdWrite (regSite a) (regBlock a) (regOff a / 8 * 8) w
    else if regSite a = 4 then s.hdWrite (regBlock a) (regOff a / 8 * 8) w
    else if regSite a = 5 then s.ldWrite 0 (regBlock a) (regOff a / 8 * 8) w
    else if regSite a = 6 then s.ldWrite 1 (regBlock a) (regOff a / 8 * 8) w
    else s.bauWrite (16 * (regSite a - 8) + (regBlock a - 0x10)) (regOff a / 8 * 8) w := by
  simp only [State.regWrite, block, if_false]

/-! ## Clearing bits (R13, R81) -/

/-- A 4-byte access of an aligned low half writes bit 0 as it stands in the value. -/
theorem regLanes_one_zero {addr v : Nat} (aligned : addr % 8 = 0) : (regLanes addr 4 v).one 0 = v.testBit 0 := by
  simp [regLanes, RegW.one, aligned]

section
variable (s : State) {w : RegW} (one : w.one 0 = true)
include one

theorem State.hdWrite_cxlCtrl : s.hdWrite 0x03 0x220 w = s.after (execCxlCntClr s) := by
  simp [State.hdWrite, State.does, one]

theorem State.hdWrite_graftCtrl : s.hdWrite 0x04 0x20 w = s.after (execGraftCntClr s) := by
  simp [State.hdWrite, State.does, one]

theorem State.hdWrite_ftlCtrl : s.hdWrite 0x0A 0x20 w = s.after (execFtlCntClr s) := by
  simp [State.hdWrite, State.does, one]

theorem State.hdWrite_sbwCtrl : s.hdWrite 0x0C 0x18 w = s.after (execSbwCntClr s) := by
  simp [State.hdWrite, State.does, one]

theorem State.hdWrite_fclCtrl : s.hdWrite 0x08 0x40 w = s.after (execFclCntClr s) := by
  simp [State.hdWrite, State.fclWrite, State.does, one]

end

/-- HD's registers whose bit 0 clears counters: those of CXL, GRAFT, ONFI, SBW and FCL (R335, R233, R442, R474, R558). -/
def clearingRegisters : List Nat := [0x30002018220, 0x30002020020, 0x30002050020, 0x30002060018, 0x30002040040]

/-- A control core may write each of them, in an aligned low half. -/
theorem clearing_register {addr : Nat} (listed : addr ∈ clearingRegisters) :
    regionOf addr = .regs ∧ regStatus .control addr 4 = Stat.ok ∧ regSite addr = 4 ∧ regBlock addr ≠ 0 ∧ addr % 8 = 0 := by
  revert listed addr
  decide

/-- The bit acts as the command `f` that it gives. -/
theorem exec_registerAccess_of_clearing {s t : State} {addr : Nat} {v : BitVec 64} (f : State → Host.Outcome State Fault Refusal)
    (live : s.live = true) (one : v.toNat.testBit 0 = true) (listed : addr ∈ clearingRegisters)
    (gives : ∀ w : RegW, w.one 0 = true → s.hdWrite (regBlock addr) (regOff addr / 8 * 8) w = s.after (f s)) (answer : f s = .next t) :
    exec (.registerAccess .control addr 4 v) s = f s := by
  obtain ⟨space, ok, hub, block, aligned⟩ := clearing_register listed
  rw [exec_registerAccess_of_ok (by simp) live space ok, s.regWrite_of_block _ block, if_neg (by omega), if_pos hub,
    gives _ ((regLanes_one_zero aligned).trans one), answer, State.after]

/-! ## What a host reaches (R71, R404, R405) -/

theorem exec_registerAccess_of_host_off {s : State} {l addr size : Nat} {v : BitVec 64}
    (off : s.boot.good = false ∨ s.boot.released = false ∨ 16 ≤ l) : exec (.registerAccess (.hostIo l) addr size v) s = .next s := by
  show execRegisterAccess (.hostIo l) addr size v s = _
  obtain off | off | far := off
  · exact if_pos (by simp [off])
  · exact if_pos (by simp [off])
  · simp [execRegisterAccess, Nat.not_lt.mpr far]

theorem exec_registerAccess_of_host {s : State} {l addr size : Nat} {v : BitVec 64} (h : l < 16) (good : s.boot.good = true)
    (released : s.boot.released = true) :
    exec (.registerAccess (.hostIo l) addr size v) s = .next (s.hostIoWrite ⟨l, h⟩ addr size v.toNat) := by
  show execRegisterAccess (.hostIo l) addr size v s = _
  simp [execRegisterAccess, good, released, h]

section
variable (s : State) (l : Fin 16) {addr size : Nat} (v : Nat)

theorem State.hostIoWrite_of_page (page : addr < 0x10000) (width : size = 4 ∨ size = 8) (aligned : addr % size = 0) :
    s.hostIoWrite l addr size v = s.pageWrite l (addr / 8 * 8) (regLanes addr size v) := by
  simp [State.hostIoWrite, page, width, aligned]

theorem State.hostIoWrite_of_bad_page (page : addr < 0x10000) (bad : size ≠ 4 ∧ size ≠ 8 ∨ addr % size ≠ 0) :
    s.hostIoWrite l addr size v = s.violate 4 := by
  rw [State.hostIoWrite, if_pos page, if_neg]
  · rfl
  · simp only [Bool.and_eq_true, Bool.or_eq_true, decide_eq_true_eq]
    omega

theorem State.hostIoWrite_of_buffer (above : 0x10000 ≤ addr) (below : addr < 0x19000) (inside : addr % 0x1000 + size ≤ 0x1000)
    (width : size ≤ 8) : s.hostIoWrite l addr size v = s.wr (0x28000400000 + 0x10000 * l.val + (addr - 0x10000)) size v := by
  simp [State.hostIoWrite, Nat.not_lt.mpr above, below, inside, width]

theorem State.hostIoWrite_elsewhere (above : 0x10000 ≤ addr)
    (elsewhere : 0x19000 ≤ addr ∨ 0x1000 < addr % 0x1000 + size ∨ 8 < size) : s.hostIoWrite l addr size v = s := by
  rw [State.hostIoWrite, if_neg (Nat.not_lt.mpr above), if_neg]
  simp only [Bool.and_eq_true, decide_eq_true_eq]
  omega

end

/-- Settles O46: an access is judged by its master and its address, and then acts as the unit that owns the address does. -/
theorem registerAccesses : Obligations.RegisterAccesses := by
  unfold Obligations.RegisterAccesses
  refine ⟨?own, regStatus_eq_firstFailing, ?unit, ?clears, ?host⟩
  case own =>
    intro s addr size v m own
    refine ⟨exec_registerAccess_outside own, fun live space => ⟨exec_registerAccess_of_ok own live space, fun refused => ?_⟩⟩
    rw [exec_registerAccess_of_refused own live space refused]
    refine ⟨?_, fun other => by rw [s.refuseAccess_of_not_tile other]⟩
    rintro t rfl
    rfl
  case unit =>
    intro s a w
    refine ⟨s.regWrite_of_die w, fun block => ?_⟩
    rw [s.regWrite_of_block w block]
    refine ⟨fun compute => if_pos compute, fun hub => ?_, fun link => ?_, fun link => ?_, fun memory => ?_⟩
    · simp [hub]
    · simp [link]
    · simp [link]
    · rw [if_neg (by omega), if_neg (by omega), if_neg (by omega), if_neg (by omega)]
  case clears =>
    intro s c addr v live one row
    simp only [List.mem_cons, Prod.mk.injEq, List.not_mem_nil, or_false] at row
    obtain ⟨rfl, rfl⟩ | ⟨rfl, rfl⟩ | ⟨rfl, rfl⟩ | ⟨rfl, rfl⟩ | ⟨rfl, rfl⟩ := row
    · exact exec_registerAccess_of_clearing execCxlCntClr live one (by simp [clearingRegisters]) (fun w => s.hdWrite_cxlCtrl)
        (if_neg (by simp [live]))
    · exact exec_registerAccess_of_clearing execGraftCntClr live one (by simp [clearingRegisters]) (fun w => s.hdWrite_graftCtrl)
        (if_neg (by simp [live]))
    · exact exec_registerAccess_of_clearing execFtlCntClr live one (by simp [clearingRegisters]) (fun w => s.hdWrite_ftlCtrl)
        (if_neg (by simp [live]))
    · exact exec_registerAccess_of_clearing execSbwCntClr live one (by simp [clearingRegisters]) (fun w => s.hdWrite_sbwCtrl)
        (if_neg (by simp [live]))
    · exact exec_registerAccess_of_clearing execFclCntClr live one (by simp [clearingRegisters]) (fun w => s.hdWrite_fclCtrl)
        (if_neg (by simp [live]))
  case host =>
    refine fun s l addr size v => ⟨exec_registerAccess_of_host_off, fun h good released => ?_⟩
    rw [exec_registerAccess_of_host h good released]
    refine ⟨fun page width aligned => ?_, fun page bad => ?_, fun above below inside width => ?_, fun above elsewhere => ?_⟩
    · rw [s.hostIoWrite_of_page _ _ page width aligned]
    · rw [s.hostIoWrite_of_bad_page _ _ page bad]
    · rw [s.hostIoWrite_of_buffer _ _ above below inside width]
    · rw [s.hostIoWrite_elsewhere _ _ above elsewhere]

end Sys2Proof.Machine
end

section
/-!
Writes of the ATU's registers (R131, R159, R161, R162): a write of INV_CMD with the unit free and with it busy, the end of an
invalidation, and from them `AtuCommands`.
-/
namespace Sys2Proof.Machine

/-! ## A write of INV_CMD (R161) -/

section
variable {s : State} (live : s.live = true) (sc : InvScope)
include live

theorem State.invCmd_of_idle (idle : s.atu.invBusy = none) :
    s.invCmd sc = { s with atu := { s.atu with invBusy := some sc } } := by
  simp [State.invCmd, live, idle]

theorem State.invCmd_of_busy {running : InvScope} (busy : s.atu.invBusy = some running) :
    s.invCmd sc = { s with atu := { s.atu with invReject := true } } := by
  simp [State.invCmd, live, busy]

end

/-! ## The end of an invalidation (R131, R161) -/

theorem State.dropTlb_slice (s : State) (sc : InvScope) (sl : Nat) : (s.dropTlb sc).slice sl =
    { s.slice sl with tlb := (s.slice sl).tlb.filter (fun e => !(sc.names e.1 e.2.1 e.2.2.1)) } :=
  Tbl.getD_mapAll s.atu.slices (fun a => { a with tlb := a.tlb.filter (fun e => !(sc.names e.1 e.2.1 e.2.2.1)) }) sl {} rfl

/-- The unit at the end of an invalidation: the named translations dropped, BUSY clear, DONE set. -/
def State.invEnd (s : State) (sc : InvScope) : State :=
  { s with atu := { (s.dropTlb sc).atu with invBusy := none, invDone := true } }

/-- The MOVEs whose page the invalidation named go on in order, and the next invalidation that waits starts. -/
theorem exec_invalidationDone_of_busy {s : State} {sc : InvScope} (live : s.live = true) (busy : s.atu.invBusy = some sc) :
    exec .invalidationDone s = .next (State.secondInv
      ((s.pools.moves.filter (fun m => sc.names m.asid m.vpn 0)).foldl State.moveInvalidated (s.invEnd sc))) := by
  show execInvalidationDone s = _
  simp only [execInvalidationDone, busy, live, Bool.not_true, Bool.false_eq_true, if_false]
  rw [List.foldl_filter]
  rfl

/-! ## ENABLE and the counters (R159, R162) -/

theorem exec_atuCtrlWrite_of_live {s : State} (live : s.live = true) (v : BitVec 32) :
    exec (.atuCtrlWrite v) s = .next { s with atu := { s.atu with enable := v.getLsbD 0 } } :=
  if_neg (by simp [live])

theorem exec_atuCtrlClr_of_live {s : State} (live : s.live = true) (sl : Fin 5) :
    exec (.atuCtrlClr sl) s = .next (s.updSlice sl.val (fun a => { a with walks := 0, corrected := 0, uncorrected := 0 })) :=
  if_neg (by simp [live])

/-- Settles O8: a write of INV_CMD by whether the unit is free, each other command by its equation. -/
theorem atuCommands : Obligations.AtuCommands := by
  unfold Obligations.AtuCommands
  refine ⟨fun s asid live => ?asid, fun s asid count live => ?range, fun s live => ?all, fun s sc live busy => ?done,
    fun s v live => exec_atuCtrlWrite_of_live live v, fun s sl live => ?counters⟩
  case asid | range | all =>
    cases busy : s.atu.invBusy with
    | none => exact congrArg Host.Outcome.next (State.invCmd_of_idle live _ busy)
    | some running => exact congrArg Host.Outcome.next (State.invCmd_of_busy live _ busy)
  case done =>
    exact ⟨s.invEnd sc, rfl, s.dropTlb_slice sc, exec_invalidationDone_of_busy live busy⟩
  case counters =>
    exact ⟨_, exec_atuCtrlClr_of_live live sl, rfl, State.updSlice_slice_self .., fun _ other => State.updSlice_slice_ne _ _ other⟩

end Sys2Proof.Machine
end

section
/-!
The registers of the memory controllers and BAUs (R173, R189, R190, R195, R196): what a change of a stack's sixteen channels and a
range of a plot owner table read back, and from them `HbmRegisters`.
-/
namespace Sys2Proof.Machine

/-! ## One change for each channel of a stack (R189, R190) -/

/-- Each of `n` channels from `b` on is changed once; no other channel changes. -/
theorem State.foldl_updChan_range (s : State) (b n : Nat) (g : Nat → Chan → Chan) :
    ∃ t, (List.range n).foldl (fun s i => s.updChan (b + i) (g i)) s = t ∧ t = { s with chans := t.chans } ∧
      (∀ i, i < n → t.chan (b + i) = g i (s.chan (b + i))) ∧ ∀ k, (k < b ∨ b + n ≤ k) → t.chan k = s.chan k := by
  induction n with
  | zero => exact ⟨s, rfl, rfl, fun _ h => absurd h (Nat.not_lt_zero _), fun _ _ => rfl⟩
  | succ n ih =>
    obtain ⟨t, run, frame, inside, outside⟩ := ih
    refine ⟨t.updChan (b + n) (g n), by rw [List.range_succ, List.foldl_append, run]; rfl, by rw [frame]; rfl, fun i hi => ?_,
      fun k hk => ?_⟩
    · obtain below | rfl : i < n ∨ i = n := by omega
      · rw [State.updChan_chan_ne _ _ (by omega), inside i below]
      · rw [State.updChan_chan_self, outside _ (.inr (Nat.le_refl _))]
    · rw [State.updChan_chan_ne _ _ (by omega), outside k (by omega)]

/-! ## A range of the plot owner table (R173, R196) -/

/-- A range of a table is written: its `n` records from `b` on read the new one, every other reads as before. -/
theorem Tbl.getD_foldl_put_range {α : Type} (t : Tbl α) (b n : Nat) (e d : α) (p : Nat) :
    Tbl.getD ((List.range n).foldl (fun o i => Tbl.put o (b + i) e) t) p d = if b ≤ p ∧ p < b + n then e else Tbl.getD t p d := by
  induction n with
  | zero => rw [if_neg (by omega)]; rfl
  | succ n ih =>
    rw [List.range_succ, List.foldl_append, List.foldl_cons, List.foldl_nil]
    by_cases last : p = b + n
    · subst last
      rw [Tbl.getD_put_self, if_pos (by omega)]
    · rw [Tbl.getD_put_ne _ _ _ last, ih]
      exact ite_congr (propext (by omega)) (fun _ => rfl) (fun _ => rfl)

/-! ## The commands -/

/-- What a command that changes one channel does. -/
theorem exec_updChan {i : Instr} {s : State} {ch : Nat} {f : Chan → Chan} (run : exec i s = .next (s.updChan ch f)) :
    ∃ t, exec i s = .next t ∧ t = { s with chans := t.chans } ∧ (∀ k, k ≠ ch → t.chan k = s.chan k) ∧ t.chan ch = f (s.chan ch) :=
  ⟨_, run, rfl, fun _ other => State.updChan_chan_ne _ _ other, State.updChan_chan_self ..⟩

section
variable {s : State} (live : s.live = true)
include live

theorem exec_ownCmdGo_of_ignored {ch : Fin 128}
    (ignored : (s.chan ch.val).ownBusy = true ∨ 65535 < (s.chan ch.val).ownFirst + (s.chan ch.val).ownCountM1) :
    exec (.ownCmdGo ch) s = .next (s.updChan ch.val (fun k => { k with ownReject := true })) := by
  show execOwnCmdGo ch s = _
  simp [execOwnCmdGo, live, ignored]

theorem exec_ownCmdGo_of_taken {ch : Fin 128}
    (taken : ¬((s.chan ch.val).ownBusy = true ∨ 65535 < (s.chan ch.val).ownFirst + (s.chan ch.val).ownCountM1)) :
    exec (.ownCmdGo ch) s = .next (s.updChan ch.val (fun k => { k with ownBusy := true })) := by
  show execOwnCmdGo ch s = _
  simp [execOwnCmdGo, live, taken]

theorem exec_ownWriteDone_of_busy {ch : Fin 128} (busy : (s.chan ch.val).ownBusy = true) (idle : (s.chan ch.val).prog = none) :
    exec (.ownWriteDone ch) s = .next (s.updChan ch.val (fun k => { k with
      owner := (List.range (k.ownCountM1 + 1)).foldl
        (fun o i => Tbl.put o (k.ownFirst + i) (ownEntryOf (s.chan ch.val).ownValue)) k.owner
      ownBusy := false
      ownDone := true })) := by
  show execOwnWriteDone ch s = _
  simp [execOwnWriteDone, live, busy, idle]

theorem exec_bauUnfence_of_live (stack : Fin 8) (mask : BitVec 16) :
    exec (.bauUnfence stack mask) s = .next ((List.range 16).foldl (fun s i => s.updChan (16 * stack.val + i) (fun k =>
      if mask.getLsbD i && k.mode = .memory then { k with fenced := false } else k)) s) :=
  if_neg (by simp [live])

theorem exec_hbmcStatClr_of_live (stack : Fin 8) :
    exec (.hbmcStatClr stack) s = .next ((List.range 16).foldl (fun s i => s.updChan (16 * stack.val + i) (fun k =>
      { k with held := 0, maxWait := 0, programs := 0, overrun := 0, holdTimeout := 0 })) s) :=
  if_neg (by simp [live])

theorem exec_bauCntClr_of_live (ch : Fin 128) :
    exec (.bauCntClr ch) s = .next (s.updChan ch.val (fun k => { k with busyAclk := 0, eccCorrected := 0, eccUncorrected := 0 })) :=
  if_neg (by simp [live])

theorem exec_hbmcBauDisableWrite_of_live (stack : Fin 8) (mask : BitVec 16) :
    exec (.hbmcBauDisableWrite stack mask) s = .next ((List.range 16).foldl (fun s i => s.updChan (16 * stack.val + i) (fun k =>
      { k with disable := mask.getLsbD i })) s) :=
  if_neg (by simp [live])

end

/-- Settles O21: a GO by whether it is taken, each other command by its equation; the stack's registers change its sixteen channels
one after another, and OWN_WRITE_DONE writes its range of the owner table entry after entry. -/
theorem hbmRegisters : Obligations.HbmRegisters := by
  unfold Obligations.HbmRegisters
  refine ⟨fun s ch live => ?go, fun s ch live busy idle => ?done, fun s stack mask live => ?unfence, fun s stack live => ?stat,
    fun s ch live => exec_updChan (exec_bauCntClr_of_live live ch), fun s stack mask live => ?disable⟩
  case go =>
    by_cases ignored : (s.chan ch.val).ownBusy = true ∨ 65535 < (s.chan ch.val).ownFirst + (s.chan ch.val).ownCountM1
    · rw [if_pos ignored]
      exact exec_updChan (exec_ownCmdGo_of_ignored live ignored)
    · rw [if_neg ignored]
      exact exec_updChan (exec_ownCmdGo_of_taken live ignored)
  case done =>
    obtain ⟨t, run, frame, others, self⟩ := exec_updChan (exec_ownWriteDone_of_busy live busy idle)
    have entry : ∀ p, t.ownEntry ch.val p = if (s.chan ch.val).ownFirst ≤ p ∧
        p < (s.chan ch.val).ownFirst + ((s.chan ch.val).ownCountM1 + 1) then ownEntryOf (s.chan ch.val).ownValue
        else s.ownEntry ch.val p := fun p => by
      unfold State.ownEntry
      rw [self, Tbl.getD_foldl_put_range]
    refine ⟨t, run, frame, others, by rw [self], fun i hi => ?_, fun p hp => ?_⟩
    · rw [entry, if_pos (by omega)]
    · rw [entry, if_neg (by omega)]
  case unfence =>
    obtain ⟨t, run, frame, inside, outside⟩ := s.foldl_updChan_range (16 * stack.val) 16 (fun i k =>
      if mask.getLsbD i && k.mode = .memory then { k with fenced := false } else k)
    refine ⟨t, run ▸ exec_bauUnfence_of_live live stack mask, frame, fun i hi => ?_, outside⟩
    rw [inside i hi]
    exact ite_congr (by simp only [Bool.and_eq_true, decide_eq_true_eq]) (fun _ => rfl) (fun _ => rfl)
  case stat =>
    obtain ⟨t, run, frame, inside, outside⟩ := s.foldl_updChan_range (16 * stack.val) 16 (fun _ k =>
      { k with held := 0, maxWait := 0, programs := 0, overrun := 0, holdTimeout := 0 })
    exact ⟨t, run ▸ exec_hbmcStatClr_of_live live stack, frame, inside, outside⟩
  case disable =>
    obtain ⟨t, run, frame, inside, outside⟩ := s.foldl_updChan_range (16 * stack.val) 16 (fun i k =>
      { k with disable := mask.getLsbD i })
    exact ⟨t, run ▸ exec_hbmcBauDisableWrite_of_live live stack mask, frame, inside, outside⟩

end Sys2Proof.Machine
end

section
/-!
The accounts of a BAU program (R185, R391, R477): what charging its time and counting its bytes leave, and of what they depend on.
-/
namespace Sys2Proof.Machine

variable (s : State) (ch : Nat) (p : BauProg)

/-- The bytes of a program touch the accounts and the feed alone. -/
theorem State.countBau_frame (rd wr : Nat) :
    s.countBau p rd wr = { s with acct := (s.countBau p rd wr).acct, feed := (s.countBau p rd wr).feed } := by
  simp only [State.countBau, State.countBytes, State.tap]
  split <;> split <;> rfl

/-- The time of a program touches the channels, the accounts and the feed alone. -/
theorem State.chargeProg_frame : s.chargeProg ch p =
    { s with chans := (s.chargeProg ch p).chans, acct := (s.chargeProg ch p).acct, feed := (s.chargeProg ch p).feed } := by
  simp only [State.chargeProg, State.tap]
  split <;> split <;> rfl

theorem State.chargeProg_chan (k : Nat) : (s.chargeProg ch p).chan k =
    (s.updChan ch (fun k => { k with busyAclk := satAdd 64 k.busyAclk (8 * (s.ltu - p.start)) })).chan k := by
  simp only [State.chargeProg, State.tap]
  split <;> split <;> rfl

/-- What a program's bytes add depends on nothing of memory, the tiles, the channels and the free values. -/
theorem State.countBau_setTables (fresh : Nat) (mem : List Host.Cell) (tiles : Tbl Tile) (chans : Tbl Chan) (rd wr : Nat) :
    { s with fresh := fresh, mem := mem, tiles := tiles, chans := chans }.countBau p rd wr =
      { s.countBau p rd wr with fresh := fresh, mem := mem, tiles := tiles, chans := chans } := by
  simp only [State.countBau, State.countBytes, State.tap]
  split <;> split <;> rfl

/-- What a program's time adds depends on nothing of memory, the tiles, the channels and the free values. -/
theorem State.chargeProg_setTables (fresh : Nat) (mem : List Host.Cell) (tiles : Tbl Tile) (chans : Tbl Chan) :
    ({ s with fresh := fresh, mem := mem, tiles := tiles, chans := chans }.chargeProg ch p).acct = (s.chargeProg ch p).acct ∧
    ({ s with fresh := fresh, mem := mem, tiles := tiles, chans := chans }.chargeProg ch p).feed = (s.chargeProg ch p).feed := by
  simp only [State.chargeProg, State.tap]
  split <;> split <;> exact ⟨rfl, rfl⟩

variable {s} in
/-- States that differ in memory, the tiles, the channels and the free values alone are charged alike. -/
theorem State.charged_alike {u : State}
    (frame : u = { s with fresh := u.fresh, mem := u.mem, tiles := u.tiles, chans := u.chans }) (rd wr : Nat) :
    ((u.countBau p rd wr).chargeProg ch p).acct = ((s.countBau p rd wr).chargeProg ch p).acct ∧
      ((u.countBau p rd wr).chargeProg ch p).feed = ((s.countBau p rd wr).chargeProg ch p).feed := by
  rw [frame, State.countBau_setTables]
  exact State.chargeProg_setTables ..

end Sys2Proof.Machine
end

section
/-!
Programs that overrun or are stopped (R171, R172, R185): one equation for each of the two commands, and from them `BauStops`.
-/
namespace Sys2Proof.Machine

/-- A running program that is stopped: how much it had written, and of this how much was under way, are free values (log 11). -/
def BauProg.stopped (p : BauProg) (fresh : Nat) : BauProg :=
  { p with
    stopping := true
    written := Config.bauWritten fresh % (p.units + 1)
    flying := Config.bauFlying fresh % (Nat.min (Config.bauWritten fresh % (p.units + 1)) 255 + 1) }

variable {s : State} {ch : Fin 128} {p : BauProg}

theorem State.stopProg_chan (s : State) (i k : Nat) : (s.stopProg i).chan k = (s.updChan i (fun k => { k with
    prog := k.prog.map (fun p => if p.stopping then p else p.stopped s.fresh) })).chan k :=
  rfl

/-- The channel of a running program that is to stop. -/
theorem State.stopProg_chan_self {i : Nat} (prog : (s.chan i).prog = some p) (running : p.stopping = false) :
    (s.stopProg i).chan i = { s.chan i with prog := some (p.stopped s.fresh) } := by
  simp [State.stopProg_chan, prog, running]

theorem exec_bauOverrun_of_late (live : s.live = true) (prog : (s.chan ch.val).prog = some p) (running : p.stopping = false)
    (late : p.start + 6400 < s.ltu) : exec (.bauOverrun ch) s = .next
      (((s.updChan ch.val (fun k => { k with overrun := satAdd 16 k.overrun 1 })).stopProg ch.val).failCmd p.tile Stat.bauOverrun) := by
  show execBauOverrun ch s = _
  simp [execBauOverrun, prog, live, running, Nat.not_le.mpr late]

theorem exec_bauProgramStop_of_stopping (live : s.live = true) (prog : (s.chan ch.val).prog = some p) (stopping : p.stopping = true) :
    exec (.bauProgramStop ch) s = .next (((((if buOp p.desc = 1 then s else s.moveLand ch.val p.desc p.written).chargeProg ch.val p).updChan
      ch.val (fun k => { k with prog := none, mode := .exiting })).updTag p.tag (fun x => { x with drain := x.drain - p.flying })).freeTag
        p.tag) := by
  show execBauProgramStop ch s = _
  simp [execBauProgramStop, prog, live, stopping]

/-- Settles O20: the overrun is counted before the program is stopped; an abandoned program's output lands before its time is charged
and its channel becomes EXITING. -/
theorem bauStops : Obligations.BauStops := by
  unfold Obligations.BauStops
  refine ⟨fun s ch p live prog running late => ?overrun, fun s ch p live prog stopping => ?stop⟩
  case overrun =>
    have counted := s.updChan_chan_self ch.val (fun k => { k with overrun := satAdd 16 k.overrun 1 })
    refine ⟨_, rfl, fun k other => ?_, ?_, exec_bauOverrun_of_late live prog running late⟩
    · rw [State.stopProg_chan, State.updChan_chan_ne _ _ other, State.updChan_chan_ne _ _ other]
    · rw [State.stopProg_chan_self (by rw [counted]; exact prog) running, counted]
      rfl
  case stop =>
    intro u
    have chan : ∀ k, u.chan k = s.chan k := fun k => by
      unfold u
      split <;> rfl
    have ltu : u.ltu = s.ltu := by
      unfold u
      split <;> rfl
    refine ⟨_, ?_, fun k other => ?_, ?_, exec_bauProgramStop_of_stopping live prog stopping⟩
    · rw [State.chargeProg_frame]
      rfl
    · rw [State.updChan_chan_ne _ _ other, State.chargeProg_chan, State.updChan_chan_ne _ _ other, chan]
    · rw [State.updChan_chan_self, State.chargeProg_chan, State.updChan_chan_self, chan, ltu]

end Sys2Proof.Machine
end

section
/-!
The BAU's operations (R177 to R183, R192): what a program reads and writes, what the end of a program leaves, and from them
`BauOperations`.
-/
namespace Sys2Proof.Machine

/-! ## The program of a channel -/

/-- What holds of a program that is about to do its work. -/
theorem State.program?_eq_some {s : State} {ch op : Nat} {p : BauProg} {c : TileCmd} {o : Op}
    (program : s.program? ch op = some (p, c, o)) : buOp p.desc = op ∧ o.handle = p.handle := by
  unfold State.program? at program
  split at program
  · contradiction
  split at program
  · contradiction
  split at program
  · contradiction
  next runs =>
  split at program
  · contradiction
  split at program
  · contradiction
  next found =>
  split at program
  · cases program
    unfold TileCmd.op? at found
    exact ⟨by simp only [Bool.or_eq_true, not_or, decide_eq_true_eq, Decidable.not_not] at runs; exact runs.2,
      by simpa using List.find?_some found⟩
  · contradiction

/-! ## Reads look at memory alone -/

@[simp] theorem State.bytes_updChan (s : State) (i : Nat) (f : Chan → Chan) (a n : Nat) : (s.updChan i f).bytes a n = s.bytes a n := by
  induction n generalizing a with
  | zero => rfl
  | succ n ih => simp only [State.bytes, State.byte, State.updChan_mem, ih]

@[simp] theorem State.rd_updChan (s : State) (i : Nat) (f : Chan → Chan) (a n : Nat) : (s.updChan i f).rd a n = s.rd a n := by
  simp [State.rd]

theorem State.bytes_length (s : State) (a n : Nat) : (s.bytes a n).length = n := by
  induction n generalizing a with
  | zero => rfl
  | succ n ih => simp [State.bytes, ih]

@[simp] theorem State.attendRow_updChan (s : State) (i : Nat) (f : Chan → Chan) (ch : Nat) (p : BauProg) (r : Nat) :
    (s.updChan i f).attendRow ch p r = s.attendRow ch p r := by
  simp [State.attendRow, State.kvAt]

@[simp] theorem State.attendRecord_updChan (s : State) (i : Nat) (f : Chan → Chan) (ch : Nat) (p : BauProg) (bound : Nat) :
    (s.updChan i f).attendRecord ch p bound = s.attendRecord ch p bound := by
  simp [State.attendRecord]

@[simp] theorem State.moveOut_updChan (s : State) (i : Nat) (f : Chan → Chan) (ch d : Nat) :
    (s.updChan i f).moveOut ch d = s.moveOut ch d := by
  simp [State.moveOut, State.quantOut]

/-! ## Operations of a tile's command -/

/-- Changing an operation changes the one that its handle names. -/
theorem TileCmd.op?_setOp (c : TileCmd) (h : Nat) {f : Op → Op} (keeps : ∀ o, (f o).handle = o.handle) :
    (c.setOp h f).op? h = (c.op? h).map f := by
  have same : ((fun o => decide (o.handle = h)) ∘ fun o => if o.handle = h then f o else o) = fun o => decide (o.handle = h) := by
    funext o
    by_cases named : o.handle = h <;> simp [named, keeps]
  simp only [TileCmd.op?, TileCmd.setOp, List.find?_map, same]
  cases found : c.ops.find? (fun o => decide (o.handle = h)) with
  | none => rfl
  | some o =>
    have named : o.handle = h := by simpa using List.find?_some found
    simp [named]

/-- Bytes placed leave all but memory and the reservations of a tile's threads. -/
theorem State.placeBytes_frame (s : State) (a : Nat) (bs : List Byte) :
    s.placeBytes a bs = { s with mem := memPut memKey s.mem a bs, tiles := (s.placeBytes a bs).tiles } := by
  unfold State.placeBytes State.killResv
  split <;> rfl

theorem State.killResv_op? (s : State) (a n t h : Nat) :
    ((s.killResv a n).cmd? t).map (fun c => c.op? h) = (s.cmd? t).map (fun c => c.op? h) := by
  unfold State.killResv State.cmd?
  split
  · next u off _ =>
    by_cases same : t = u
    · rw [same, State.updTile_tile_self, Option.map_map]
      rfl
    · rw [State.updTile_tile_ne _ _ same]
  · rfl

theorem State.placeBytes_op? (s : State) (a : Nat) (bs : List Byte) (t h : Nat) :
    ((s.placeBytes a bs).cmd? t).map (fun c => c.op? h) = (s.cmd? t).map (fun c => c.op? h) :=
  (s.wrBytes a bs).killResv_op? ..

/-! ## The end of a program (R167, R183, R192, R391) -/

/-- Units that the code corrected on a channel's reads are counted. -/
def State.corrected (s : State) (ch n : Nat) : State :=
  s.updChan ch (fun k => { k with eccCorrected := satAdd 32 k.eccCorrected n })

theorem State.eccEnd_good (s : State) (ch : Nat) (p : BauProg) (n : Nat) (f : State → State) :
    s.eccEnd ch p (.good n) f = f (s.corrected ch n) := rfl

theorem State.eccEnd_bad (s : State) (ch : Nat) (p : BauProg) (n : Nat) (f : State → State) :
    s.eccEnd ch p (.bad n) f = Claims.programPoisoned s ch p n := rfl

/-- The end of a program after its bytes were counted leaves memory and the free values. -/
theorem State.progOk_countBau_frame (u : State) (ch : Nat) (p : BauProg) (rd wr : Nat) :
    (u.countBau p rd wr).progOk ch p = { u with
      tiles := ((u.countBau p rd wr).progOk ch p).tiles
      chans := ((u.countBau p rd wr).progOk ch p).chans
      acct := ((u.countBau p rd wr).chargeProg ch p).acct
      feed := ((u.countBau p rd wr).chargeProg ch p).feed } := by
  simp only [State.progOk, State.chanDone, State.updCmd, State.updTile, State.updChan]
  rw [State.chargeProg_frame, State.countBau_frame]

theorem State.progOk_countBau_fresh (u : State) (ch : Nat) (p : BauProg) (rd wr : Nat) :
    ((u.countBau p rd wr).progOk ch p).fresh = u.fresh := by
  rw [State.progOk_countBau_frame]

theorem State.progOk_countBau_mem (u : State) (ch : Nat) (p : BauProg) (rd wr : Nat) :
    ((u.countBau p rd wr).progOk ch p).mem = u.mem := by
  rw [State.progOk_countBau_frame]

theorem State.progOk_chan (s : State) (ch : Nat) (p : BauProg) (k : Nat) : (s.progOk ch p).chan k =
    ((s.chargeProg ch p).updChan ch (fun k => { k with prog := none, programs := satAdd 32 k.programs 1 })).chan k :=
  rfl

/-- An operation whose program has run on its tile's channel `i` (R176). -/
def Op.ranOn (i : Nat) (o : Op) : Op :=
  { o with
    chDone := o.chDone ||| BitVec.ofNat 8 (2 ^ i)
    phase := if buMask o.desc &&& (o.chDone ||| BitVec.ofNat 8 (2 ^ i)).toNat = buMask o.desc then .executed else o.phase }

theorem State.progOk_op? (s : State) (ch : Nat) (p : BauProg) : ((s.progOk ch p).cmd? p.tile).map (fun c => c.op? p.handle) =
    (((s.chargeProg ch p).cmd? p.tile).map (fun c => c.op? p.handle)).map (Option.map (Op.ranOn (ch % 8))) := by
  have run : (s.progOk ch p).cmd? p.tile = ((s.chargeProg ch p).cmd? p.tile).map (fun c => c.setOp p.handle (Op.ranOn (ch % 8))) :=
    State.updCmd_cmd? ..
  rw [run, Option.map_map, Option.map_map]
  exact congrArg (Option.map · _) (funext fun c => c.op?_setOp p.handle (fun _ => rfl))

/-- A program that has read and written ends: its channel had `n` units corrected, its output stands in memory. -/
theorem programOver_progOk {s u : State} {ch : Nat} {p : BauProg} {o : Op} {n : Nat} (handle : o.handle = p.handle)
    (frame : u = { s.corrected ch n with fresh := u.fresh, mem := u.mem, tiles := u.tiles })
    (ops : (u.cmd? p.tile).map (fun c => c.op? p.handle) = (s.cmd? p.tile).map (fun c => c.op? p.handle)) (rd wr : Nat) :
    Claims.programOver s ((u.countBau p rd wr).progOk ch p) ch p o n rd wr := by
  have tables : u = { s with fresh := u.fresh, mem := u.mem, tiles := u.tiles, chans := u.chans } := by rw [frame]; rfl
  have counted : u.countBau p rd wr = { u with acct := (u.countBau p rd wr).acct, feed := (u.countBau p rd wr).feed } :=
    State.countBau_frame ..
  have chan : ∀ k, (u.countBau p rd wr).chan k = (s.corrected ch n).chan k := fun k => by rw [counted, frame]; rfl
  have ltu : (u.countBau p rd wr).ltu = s.ltu := by rw [counted, frame]; rfl
  have cmd : ((u.countBau p rd wr).chargeProg ch p).cmd? p.tile = u.cmd? p.tile := by rw [State.chargeProg_frame, counted]; rfl
  refine ⟨?_, fun k other => ?_, ?_, (State.charged_alike ch p tables rd wr).1, (State.charged_alike ch p tables rd wr).2, ?_⟩
  · rw [State.progOk_countBau_frame, tables]
  · rw [State.progOk_chan, State.updChan_chan_ne _ _ other, State.chargeProg_chan, State.updChan_chan_ne _ _ other, chan]
    exact State.updChan_chan_ne _ _ other
  · rw [State.progOk_chan, State.updChan_chan_self, State.chargeProg_chan, State.updChan_chan_self, chan, ltu, State.corrected,
      State.updChan_chan_self]
  · rw [handle, State.progOk_op?, cmd, ops, Option.map_map]
    rfl

/-- What COPY, QUANTISE and ZERO leave: their output, elements and scales, stands in the channel, no other byte is changed, and
their program is over. -/
theorem State.moveEnd_corrected {s : State} {ch : Nat} {p : BauProg} {o : Op} (handle : o.handle = p.handle) {els scales : List Byte}
    (out : s.moveOut ch p.desc = (els, scales)) (n : Nat) {rd wr : Nat} (reads : (if buOp p.desc = 4 then 0 else mvSrcLen p.desc) = rd)
    (writes : els.length + scales.length = wr) : ∃ t, (s.corrected ch n).moveEnd ch p = t ∧
      Claims.programOver s t ch p o n rd wr ∧ t.fresh = s.fresh ∧
      t.mem = memPut memKey (memPut memKey s.mem (aliasAddr ch (mvDst p.desc)) els) (aliasAddr ch (mvScl p.desc)) scales ∧
      ∀ k, (∀ i, i < els.length → memKey (aliasAddr ch (mvDst p.desc) + i) ≠ k) →
        (∀ i, i < scales.length → memKey (aliasAddr ch (mvScl p.desc) + i) ≠ k) → memGet t.mem k = memGet s.mem k := by
  obtain ⟨u, moved⟩ : ∃ u, u = ((s.corrected ch n).wrBytes (aliasAddr ch (mvDst p.desc)) els).wrBytes (aliasAddr ch (mvScl p.desc))
    scales := ⟨_, rfl⟩
  have run : (s.corrected ch n).moveEnd ch p = (u.countBau p rd wr).progOk ch p := by
    simp only [State.moveEnd, State.corrected, State.moveOut_updChan, out, reads, writes, moved]
  have mem : ((u.countBau p rd wr).progOk ch p).mem =
      memPut memKey (memPut memKey s.mem (aliasAddr ch (mvDst p.desc)) els) (aliasAddr ch (mvScl p.desc)) scales :=
    (State.progOk_countBau_mem ..).trans (by rw [moved]; rfl)
  refine ⟨_, run, programOver_progOk handle (by rw [moved]; rfl) (by rw [moved]; rfl) rd wr,
    (State.progOk_countBau_fresh ..).trans (by rw [moved]; rfl), mem, fun k els_away scales_away => ?_⟩
  rw [mem, memGet_memPut_ne _ _ _ scales_away, memGet_memPut_ne _ _ _ els_away]

/-- What ATTEND leaves: its record stands in the B-tile, and its program is over. -/
theorem State.attendEnd_corrected {s : State} {ch : Nat} {p : BauProg} {o : Op} (handle : o.handle = p.handle) (n bound : Nat) :
    ∃ t, (s.corrected ch n).attendEnd ch p bound = t ∧ Claims.programOver s t ch p o n p.kvBytes 0 ∧ t.fresh = s.fresh + 1 ∧
      t.mem = memPut memKey s.mem (tileBase p.tile + atRet p.desc (ch % 8)) (s.attendRecord ch p bound) := by
  have record : (s.corrected ch n).attendRecord ch p bound = s.attendRecord ch p bound := State.attendRecord_updChan ..
  unfold State.attendEnd
  rw [record]
  generalize tileBase p.tile + atRet p.desc (ch % 8) = a, s.attendRecord ch p bound = bs
  obtain ⟨v, placed⟩ : ∃ v, v = (s.corrected ch n).placeBytes a bs := ⟨_, rfl⟩
  have frame : v = { s.corrected ch n with mem := memPut memKey s.mem a bs, tiles := v.tiles } := by
    rw [placed]
    exact State.placeBytes_frame ..
  have ops : (v.cmd? p.tile).map (fun c => c.op? p.handle) = (s.cmd? p.tile).map (fun c => c.op? p.handle) := by
    rw [placed]
    exact State.placeBytes_op? ..
  have tables : v.draw = { s.corrected ch n with fresh := v.draw.fresh, mem := v.draw.mem, tiles := v.draw.tiles } := by
    rw [frame]
    rfl
  rw [← placed]
  exact ⟨(v.draw.countBau p p.kvBytes 0).progOk ch p, rfl, programOver_progOk handle tables ops _ _,
    (State.progOk_countBau_fresh ..).trans (by rw [frame]; rfl), (State.progOk_countBau_mem ..).trans (by rw [frame]; rfl)⟩

/-! ## The commands -/

section
variable {s : State} {ch : Fin 128} {p : BauProg} {c : TileCmd} {o : Op} (ecc : EccOutcome)

theorem exec_bauCopy_of_program (program : s.program? ch.val 2 = some (p, c, o)) :
    exec (.bauCopy ⟨ch, ecc⟩) s = .next (s.eccEnd ch.val p ecc (fun s => s.moveEnd ch.val p)) := by
  show execBauCopy ⟨ch, ecc⟩ s = _
  simp only [execBauCopy, program]

theorem exec_bauQuantise_of_program (program : s.program? ch.val 3 = some (p, c, o)) :
    exec (.bauQuantise ⟨ch, ecc⟩) s = .next (s.eccEnd ch.val p ecc (fun s => s.moveEnd ch.val p)) := by
  show execBauQuantise ⟨ch, ecc⟩ s = _
  simp only [execBauQuantise, program]

theorem exec_bauZero_of_program (program : s.program? ch.val 4 = some (p, c, o)) :
    exec (.bauZero ⟨ch, ecc⟩) s = .next (s.eccEnd ch.val p ecc (fun s => s.moveEnd ch.val p)) := by
  show execBauZero ⟨ch, ecc⟩ s = _
  simp only [execBauZero, program]

theorem exec_attend_of_program (program : s.program? ch.val 1 = some (p, c, o)) :
    exec (.attend ⟨ch, ecc⟩) s = .next (s.eccEnd ch.val p ecc (fun s => s.attendEnd ch.val p (cdBound c.desc))) := by
  show execAttend ⟨ch, ecc⟩ s = _
  simp only [execAttend, program]

end

theorem State.moveOut_of_copy (s : State) (ch : Nat) {d : Nat} (op : buOp d = 2) :
    s.moveOut ch d = (s.bytes (aliasAddr ch (mvSrc d)) (mvLen d), []) := by
  simp only [State.moveOut, op]

theorem State.moveOut_of_zero (s : State) (ch : Nat) {d : Nat} (op : buOp d = 4) : s.moveOut ch d = (List.replicate (mvLen d) 0#8, []) := by
  simp only [State.moveOut, op]

theorem mvSrcLen_of_copy {d : Nat} (op : buOp d = 2) : mvSrcLen d = mvLen d := by simp [mvSrcLen, op]

/-- Settles O19: an uncorrectable read stops the program; otherwise each operation's output is what its rule gives, and its program
is over. -/
theorem bauOperations : Obligations.BauOperations := by
  unfold Obligations.BauOperations
  refine ⟨fun s ch p c o n program => ?copy, fun s ch p c o n f program fmt => ?quantise, fun s ch p c o n program => ?zero,
    fun s ch p c o n program => ?attend⟩
  all_goals obtain ⟨op, handle⟩ := State.program?_eq_some program
  case copy =>
    obtain ⟨t, run, ended, fresh, mem, frame⟩ := State.moveEnd_corrected handle (s.moveOut_of_copy ch.val op) n
      (by rw [if_neg (by omega), mvSrcLen_of_copy op]) (s.bytes_length ..)
    exact ⟨exec_bauCopy_of_program _ program, t, run ▸ exec_bauCopy_of_program _ program, ended, fresh, mem,
      fun k away => frame k (by rwa [State.bytes_length]) (fun i none => absurd none (Nat.not_lt_zero i))⟩
  case quantise =>
    intro d vs bs els scales
    have out : s.moveOut ch.val p.desc = (els, scales) := by
      simp only [State.moveOut, op, State.quantOut, fmt]
      rfl
    obtain ⟨t, run, ended⟩ := State.moveEnd_corrected handle out n (if_neg (by omega)) rfl
    exact ⟨exec_bauQuantise_of_program _ program, t, run ▸ exec_bauQuantise_of_program _ program, ended⟩
  case zero =>
    obtain ⟨t, run, ended, fresh, mem, frame⟩ := State.moveEnd_corrected handle (s.moveOut_of_zero ch.val op) n (if_pos op)
      List.length_replicate
    exact ⟨exec_bauZero_of_program _ program, t, run ▸ exec_bauZero_of_program _ program, ended, fresh, mem,
      fun k away => frame k (by rwa [List.length_replicate]) (fun i none => absurd none (Nat.not_lt_zero i))⟩
  case attend =>
    obtain ⟨t, run, ended, fresh, mem⟩ := State.attendEnd_corrected (s := s) (ch := ch.val) handle n (cdBound c.desc)
    refine ⟨exec_attend_of_program _ program, t, run ▸ exec_attend_of_program _ program, ended, fresh, mem, fun k away => ?_⟩
    rw [mem, memGet_memPut_ne _ _ _ away]

end Sys2Proof.Machine
end

section
/-!
The modes of a channel (R165 to R174, R181, R184): how a channel takes an operation, leaves a program that is over, and holds
accesses, and from them `ChannelModes`.
-/
namespace Sys2Proof.Machine

/-! ## The owner check (R173, R174) -/

/-- Every plot that a program touches is its tenant's, and writable where it writes (R174). -/
def State.Owns (s : State) (ch tenant : Nat) (rs ws : List Nat) : Prop :=
  (∀ q ∈ rs, s.ownOk ch tenant q false = true) ∧ ∀ q ∈ ws, s.ownOk ch tenant q true = true

/-- The entry of a plot that a program touches fails its CHECK (R173). -/
def State.BadEntry (s : State) (ch : Nat) (rs ws : List Nat) : Prop := ∃ q ∈ rs ++ ws, ownCheckOk (s.ownEntry ch q) = false

theorem State.ownCheckOk_of_ownOk {s : State} {ch tenant plot : Nat} {write : Bool} (ok : s.ownOk ch tenant plot write = true) :
    ownCheckOk (s.ownEntry ch plot) = true := by
  simp only [State.ownOk, Bool.and_eq_true] at ok
  obtain ⟨⟨⟨check, _⟩, _⟩, _⟩ := ok
  exact check

/-- A tenant's own plots have good entries. -/
theorem State.Owns.not_badEntry {s : State} {ch tenant : Nat} {rs ws : List Nat} (own : s.Owns ch tenant rs ws) :
    ¬ s.BadEntry ch rs ws := by
  rintro ⟨q, named, bad⟩
  have good : ownCheckOk (s.ownEntry ch q) = true := by
    rcases List.mem_append.mp named with read | written
    · exact State.ownCheckOk_of_ownOk (own.1 q read)
    · exact State.ownCheckOk_of_ownOk (own.2 q written)
  simp [good] at bad

section
variable {s : State} {ch tenant : Nat} {rs ws : List Nat}

theorem State.any_badEntry : (rs ++ ws).any (fun q => !(ownCheckOk (s.ownEntry ch q))) = true ↔ s.BadEntry ch rs ws := by
  simp only [List.any_eq_true, Bool.not_eq_true', State.BadEntry]

theorem State.ownerCheck_fst_of_good (good : ¬ s.BadEntry ch rs ws) : (s.ownerCheck ch tenant rs ws).1 = s :=
  if_neg (mt State.any_badEntry.mp good)

theorem State.ownerCheck_fst_of_bad (bad : s.BadEntry ch rs ws) :
    (s.ownerCheck ch tenant rs ws).1 = (s.tableCheck (dieOfChan ch)).raise (0x240 + 0x20 * (ch / 16) + 0x10) :=
  if_pos (State.any_badEntry.mpr bad)

/-- The check changes no entry of the table. -/
theorem State.ownerCheck_ownEntry (q : Nat) : (s.ownerCheck ch tenant rs ws).1.ownEntry ch q = s.ownEntry ch q := by
  by_cases bad : s.BadEntry ch rs ws
  · rw [State.ownerCheck_fst_of_bad bad, State.ownEntry, State.raise_chan]
    rfl
  · rw [State.ownerCheck_fst_of_good bad]

theorem State.ownerCheck_snd : (s.ownerCheck ch tenant rs ws).2 = true ↔ s.Owns ch tenant rs ws := by
  show (rs.all (fun q => (s.ownerCheck ch tenant rs ws).1.ownOk ch tenant q false) &&
    ws.all (fun q => (s.ownerCheck ch tenant rs ws).1.ownOk ch tenant q true)) = true ↔ _
  simp only [State.ownOk, State.ownerCheck_ownEntry, State.Owns, Bool.and_eq_true, List.all_eq_true]

end

/-! ## A channel takes an operation (R164, R166, R174, R181, R184) -/

/-- Plots that a program reads. -/
def BauProg.reads (p : BauProg) : List Nat :=
  if buOp p.desc = 1 then p.pages.map pePlot else (mvReads p.desc).flatMap (fun r => plotsOf r.1 r.2)

/-- Plots that a program writes. -/
def BauProg.writes (p : BauProg) : List Nat :=
  if buOp p.desc = 1 then [] else (mvWrites p.desc).flatMap (fun r => plotsOf r.1 r.2)

/-- The channel with its program in place, before the owner check. -/
def State.entered (s : State) (ch : Nat) (p : BauProg) : State :=
  s.updChan ch (fun k => { k with mode := .processor, prog := some p })

theorem State.entered_ownEntry (s : State) (ch : Nat) (p : BauProg) (q : Nat) : (s.entered ch p).ownEntry ch q = s.ownEntry ch q := by
  simp [State.ownEntry, State.entered]

theorem State.entered_owns (s : State) (ch : Nat) (p : BauProg) (tenant : Nat) (rs ws : List Nat) :
    (s.entered ch p).Owns ch tenant rs ws ↔ s.Owns ch tenant rs ws := by
  simp only [State.Owns, State.ownOk, State.entered_ownEntry]

theorem State.entered_badEntry (s : State) (ch : Nat) (p : BauProg) (rs ws : List Nat) :
    (s.entered ch p).BadEntry ch rs ws ↔ s.BadEntry ch rs ws := by
  simp only [State.BadEntry, State.entered_ownEntry]

section
variable {s : State} {ch : Nat} {c : TileCmd} {o : Op}

theorem State.bauEnter_of_refused (refused : s.bauStatus (btileOfChan ch) o.desc ch ≠ Stat.ok) :
    s.bauEnter ch c o = s.failAccess (btileOfChan ch) (s.bauStatus (btileOfChan ch) o.desc ch) :=
  if_pos refused

variable (ok : s.bauStatus (btileOfChan ch) o.desc ch = Stat.ok)
include ok

theorem State.bauEnter_of_empty (empty : buOp o.desc = 1 ∧ s.listCount (btileOfChan ch) o.desc (ch % 8) = 0) : s.bauEnter ch c o =
    (s.placeBytes (tileBase (btileOfChan ch) + atRet o.desc (ch % 8)) (emptyRecord o.desc)).chanDone (btileOfChan ch) o.handle (ch % 8) := by
  simp [State.bauEnter, ok, empty]

/-- A program enters, its plots checked. -/
theorem State.bauEnter_of_program (full : ¬ (buOp o.desc = 1 ∧ s.listCount (btileOfChan ch) o.desc (ch % 8) = 0))
    {p : BauProg} (program : Claims.program s ch c o = p) : s.bauEnter ch c o =
      if ((s.entered ch p).ownerCheck ch p.tenant p.reads p.writes).2 = true
        then ((s.entered ch p).ownerCheck ch p.tenant p.reads p.writes).1
        else ((s.entered ch p).ownerCheck ch p.tenant p.reads p.writes).1.failAccess (btileOfChan ch) Stat.accessDenied := by
  have pages : ¬ (buOp o.desc = 1 && s.listCount (btileOfChan ch) o.desc (ch % 8) = 0) = true := by simpa using full
  subst program
  unfold State.bauEnter
  rw [if_neg (not_not_intro ok), if_neg pages]
  show (match (s.entered ch (Claims.program s ch c o)).ownerCheck ch (Claims.program s ch c o).tenant
      (Claims.program s ch c o).reads (Claims.program s ch c o).writes with
    | (s, true) => s
    | (s, false) => s.failAccess (btileOfChan ch) Stat.accessDenied) = _
  cases check : ((s.entered ch (Claims.program s ch c o)).ownerCheck ch (Claims.program s ch c o).tenant
    (Claims.program s ch c o).reads (Claims.program s ch c o).writes) with
  | mk t owned => cases owned <;> rfl

section
variable (full : ¬ (buOp o.desc = 1 ∧ s.listCount (btileOfChan ch) o.desc (ch % 8) = 0)) {p : BauProg}
  (program : Claims.program s ch c o = p)
include full program

theorem State.bauEnter_of_owned (own : s.Owns ch p.tenant p.reads p.writes) : s.bauEnter ch c o = s.entered ch p := by
  have owned := (s.entered_owns ch p p.tenant p.reads p.writes).mpr own
  rw [State.bauEnter_of_program ok full program, if_pos (State.ownerCheck_snd.mpr owned),
    State.ownerCheck_fst_of_good owned.not_badEntry]

variable (foreign : ¬ s.Owns ch p.tenant p.reads p.writes)
include foreign

theorem State.bauEnter_of_foreign (good : ¬ s.BadEntry ch p.reads p.writes) :
    s.bauEnter ch c o = (s.entered ch p).failAccess (btileOfChan ch) Stat.accessDenied := by
  rw [State.bauEnter_of_program ok full program, if_neg (mt (State.ownerCheck_snd.trans (s.entered_owns ..)).mp foreign),
    State.ownerCheck_fst_of_good (mt (s.entered_badEntry ..).mp good)]

theorem State.bauEnter_of_bad_entry (bad : s.BadEntry ch p.reads p.writes) : s.bauEnter ch c o =
    (((s.entered ch p).tableCheck (dieOfChan ch)).raise (0x240 + 0x20 * (ch / 16) + 0x10)).failAccess (btileOfChan ch)
      Stat.accessDenied := by
  rw [State.bauEnter_of_program ok full program, if_neg (mt (State.ownerCheck_snd.trans (s.entered_owns ..)).mp foreign),
    State.ownerCheck_fst_of_bad ((s.entered_badEntry ..).mpr bad)]

end

end

theorem exec_channelEnter_of_next {s : State} {ch : Fin 128} {c : TileCmd} {o : Op} (live : s.live = true)
    (mode : (s.chan ch.val).mode = .memory) (hold : (s.chan ch.val).hold = []) (next : s.bauNext ch.val = some (c, o)) :
    exec (.channelEnter ch) s = .next (s.bauEnter ch.val c o) := by
  show execChannelEnter ch s = _
  simp [execChannelEnter, live, mode, hold, next]

/-! ## A channel leaves a program that is over (R167, R169, R172) -/

/-- The channel returns to MEMORY and its held accesses are served. -/
def State.toMemory (s : State) (ch : Nat) : State := (s.updChan ch (fun k => { k with mode := .memory })).serveHold ch

section
variable {s : State} {ch : Fin 128} (live : s.live = true) (prog : (s.chan ch.val).prog = none)
include live prog

theorem exec_channelExit_of_last (mode : (s.chan ch.val).mode = .exiting ∨ (s.chan ch.val).mode = .processor ∧ s.bauNext ch.val = none) :
    exec (.channelExit ch) s = .next (s.toMemory ch.val) := by
  show execChannelExit ch s = _
  rcases mode with exiting | ⟨processor, last⟩
  · cases next : s.bauNext ch.val <;> simp [execChannelExit, live, prog, exiting, next, State.toMemory]
  · simp [execChannelExit, live, prog, processor, last, State.toMemory]

theorem exec_channelExit_of_next {c : TileCmd} {o : Op} (mode : (s.chan ch.val).mode = .processor)
    (next : s.bauNext ch.val = some (c, o)) : exec (.channelExit ch) s = .next
      (if (s.chan ch.val).hold = [] ∧ (s.chan ch.val).fenced = false ∧ (s.chan ch.val).disable = false
        then s.bauEnter ch.val c o else s.toMemory ch.val) := by
  show execChannelExit ch s = _
  by_cases chains : (s.chan ch.val).hold = [] ∧ (s.chan ch.val).fenced = false ∧ (s.chan ch.val).disable = false
  · rw [if_pos chains]
    simp [execChannelExit, live, prog, mode, next, chains]
  · rw [if_neg chains]
    have stays : ((s.chan ch.val).hold.isEmpty && !(s.chan ch.val).fenced && !(s.chan ch.val).disable) = false := by
      simpa [and_assoc] using chains
    simp [execChannelExit, live, prog, mode, next, stays, State.toMemory]

end

/-- No fabric request waits behind another write of its source. -/
theorem State.msfRelease_of_none {s : State} (first : (s.lnd 0).msfIn = []) (second : (s.lnd 1).msfIn = []) :
    s.msfRelease = (s.updLnd 0 (fun d => { d with msfIn := [] })).updLnd 1 (fun d => { d with msfIn := [] }) := by
  simp [State.msfRelease, first, second]

/-- With nothing held the queue stays as it is, and only requests that waited go on. -/
theorem State.serveHold_of_none {s : State} {ch : Nat} (hold : (s.chan ch).hold = []) :
    s.serveHold ch = (s.updChan ch (fun k => { k with hold := [] })).msfRelease := by
  simp [State.serveHold, hold]

/-- Nothing is held and nothing waits: the channel alone returns to MEMORY. -/
theorem State.toMemory_of_none {s : State} {ch : Nat} (hold : (s.chan ch).hold = []) (first : (s.lnd 0).msfIn = [])
    (second : (s.lnd 1).msfIn = []) : ∃ t, s.toMemory ch = t ∧ t = { s with chans := t.chans, fab := t.fab } ∧
      t.chan ch = { s.chan ch with mode := .memory } ∧ ∀ k, k ≠ ch → t.chan k = s.chan k := by
  have still : ((s.updChan ch (fun k => { k with mode := .memory })).chan ch).hold = [] := by
    rw [State.updChan_chan_self]
    exact hold
  refine ⟨_, (State.serveHold_of_none still).trans (State.msfRelease_of_none first second), rfl, ?_, fun k other => ?_⟩
  · simp [hold]
  · simp [other]

/-! ## Held accesses (R169, R170) -/

/-- A channel whose oldest access the watchdog completes: the wait is recorded, and the 65th access enters the queue. -/
def Chan.timedOut (k : Chan) (since now : Nat) (rest : List Held) : Chan :=
  { k with
    maxWait := Nat.min 65535 (Nat.max k.maxWait ((now - since) / 10))
    hold := if 64 ≤ rest.length then shiftHold now rest else rest
    held := if 64 ≤ rest.length then satAdd 32 k.held 1 else k.held
    holdTimeout := satAdd 16 k.holdTimeout 1 }

section
variable {s : State} {ch : Fin 128} (live : s.live = true) (mode : (s.chan ch.val).mode ≠ .memory)
include live mode

theorem exec_holdAccess_of_busy {a : HeldAcc} (who : a.who = .nobody) (inside : a.off + Nat.max a.len a.data.length ≤ 0x100000000) :
    exec (.holdAccess ch a) s = .next (s.updChan ch.val (fun k => { k with
      hold := k.hold ++ [⟨a, s.ltu⟩]
      held := if k.hold.length < 64 then satAdd 32 k.held 1 else k.held })) := by
  show execHoldAccess ch a s = _
  exact if_neg (by simpa [live, mode, who] using inside)

theorem exec_holdWatchdog_of_late {h : Held} {rest : List Held} (hold : (s.chan ch.val).hold = h :: rest) (late : h.since + 10000 < s.ltu) :
    exec (.holdWatchdog ch) s = .next (((s.updChan ch.val (fun k => k.timedOut h.since s.ltu rest)).performHeld ch.val h.acc true).raise
      (0x240 + 0x20 * (ch.val / 16) + ch.val % 16)) := by
  show execHoldWatchdog ch s = _
  unfold execHoldWatchdog
  rw [hold]
  exact if_neg (by simp [live, mode, Nat.not_le.mpr late])

end

/-- An access of no one that is completed poisoned leaves everything: a write is dropped (R170). -/
theorem State.performHeld_of_nobody (s : State) (ch : Nat) {a : HeldAcc} (who : a.who = .nobody) : s.performHeld ch a true = s := by
  simp [State.performHeld, who]

/-- An access of a thread that is completed poisoned fails the command of its tile (R170). -/
theorem State.performHeld_of_thread (s : State) (ch : Nat) {a : HeldAcc} {tl : Fin 48} {th : Fin 32} {acc : CoreAcc}
    (who : a.who = .thread tl th acc) : s.performHeld ch a true = s.failCmd tl.val Stat.poisoned := by
  simp [State.performHeld, who]

/-- Settles O18: a channel in MEMORY by what its operation's status, pages and plots allow; a channel that leaves a program by whether
another follows; an access that arrives and one that waited too long by their equations. -/
theorem channelModes : Obligations.ChannelModes := by
  unfold Obligations.ChannelModes
  refine ⟨fun s ch c o live mode hold next => ?enter, fun s ch live prog mode => exec_channelExit_of_last live prog mode,
    fun s ch c o live prog mode next => exec_channelExit_of_next live prog mode next,
    fun s ch live prog mode hold first second => ?exit, fun s ch a live mode who inside => ?arrives,
    fun s ch h rest live mode hold late => ?late⟩
  case enter =>
    intro t st empty p rs ws bad own u
    rw [exec_channelEnter_of_next live mode hold next]
    exact ⟨fun refused => congrArg _ (State.bauEnter_of_refused refused),
      fun ok empty => congrArg _ (State.bauEnter_of_empty ok empty),
      fun ok full own => congrArg _ (State.bauEnter_of_owned ok full rfl own),
      fun ok full foreign good => congrArg _ (State.bauEnter_of_foreign ok full rfl foreign good),
      fun ok full foreign bad => congrArg _ (State.bauEnter_of_bad_entry ok full rfl foreign bad)⟩
  case exit =>
    obtain ⟨t, run, left⟩ := State.toMemory_of_none hold first second
    exact ⟨t, run ▸ exec_channelExit_of_last live prog (.inl mode), left⟩
  case arrives =>
    obtain ⟨t, run, frame, others, self⟩ := exec_updChan (exec_holdAccess_of_busy live mode who inside)
    exact ⟨t, run, frame, others, self⟩
  case late =>
    exact ⟨_, rfl, fun _ other => State.updChan_chan_ne _ _ other, State.updChan_chan_self .., exec_holdWatchdog_of_late live mode hold late,
      fun who => State.performHeld_of_nobody _ _ who, fun tl th acc who => State.performHeld_of_thread _ _ who⟩

end Sys2Proof.Machine
end

section
/-!
The channels of the DMA engines and the LPDDR5X controllers (R213, R218 to R221, R231, R232): what a change of one of them reads back,
and from it `DmaRegisters`.
-/
namespace Sys2Proof.Machine

/-! ## A change of one channel (R231) -/

section
variable (s : State) (e c : Nat) (f : DmaCh → DmaCh)

@[simp] theorem State.updDch_dch_self : (s.updDch e c f).dch e c = f (s.dch e c) := by
  simp [State.updDch, State.dch]

theorem State.updDch_updDch (g : DmaCh → DmaCh) : (s.updDch e c f).updDch e c g = s.updDch e c (fun k => g (f k)) := by
  simp [State.updDch, State.updEng, Tbl.upd, Tbl.put, Tbl.del, Tbl.getD, Tbl.find?]

end

/-- What a command that changes one channel does. -/
theorem exec_updDch {i : Instr} {s : State} {e c : Nat} {f : DmaCh → DmaCh} (run : exec i s = .next (s.updDch e c f)) :
    ∃ t, exec i s = .next t ∧ t = s.updDch e c f ∧ t.dch e c = f (s.dch e c) :=
  ⟨_, run, rfl, State.updDch_dch_self ..⟩

/-- What a command that changes one LPDDR5X controller does. -/
theorem exec_updLpc {i : Instr} {s : State} {n : Nat} {f : Lpc → Lpc} (run : exec i s = .next (s.updLpc n f)) :
    ∃ t, exec i s = .next t ∧ t = s.updLpc n f ∧ t.lpcOf n = f (s.lpcOf n) :=
  ⟨_, run, rfl, State.updLpc_lpcOf_self ..⟩

/-! ## The channels' commands (R218 to R220, R231) -/

section
variable {s : State} {eng : Fin 5} {ch : Fin 64} (live : s.live = true)
include live

theorem exec_dmaSqTailWrite_of_ring (ring : isRing eng.val ch.val = true) (v : BitVec 16) :
    exec (.dmaSqTailWrite eng ch v) s = .next (s.updDch eng.val ch.val (fun k => { k with sqTail := v.toNat })) :=
  if_neg (by simp [live, ring])

theorem exec_dmaCplHeadWrite_of_ring (ring : isRing eng.val ch.val = true) (v : BitVec 16) :
    exec (.dmaCplHeadWrite eng ch v) s = .next (s.updDch eng.val ch.val (fun k => { k with cplHead := v.toNat })) :=
  if_neg (by simp [live, ring])

theorem exec_dmaResume_of_halted (halted : (s.dch eng.val ch.val).state = .halted) :
    exec (.dmaResume eng ch) s = .next (s.updDch eng.val ch.val (fun k => { k with state := .idle })) :=
  if_neg (by simp [live, halted])

variable (here : dchExists eng.val ch.val = true)
include here

theorem exec_dmaCntClr_of_exists :
    exec (.dmaCntClr eng ch) s = .next (s.updDch eng.val ch.val (fun k => { k with bursts := 0 })) :=
  if_neg (by simp [live, here])

theorem exec_dmaStop_of_idle (idle : (s.dch eng.val ch.val).xfer = none) :
    exec (.dmaStop eng ch) s = .next (s.updDch eng.val ch.val (fun k => { k with state := .halted })) := by
  show execDmaStop eng ch s = _
  simp [execDmaStop, live, here, idle]

/-- The transfer is cut short, and its channel stops once its issued bursts are over (R220). -/
theorem exec_dmaStop_of_busy {f : Xfer} (busy : (s.dch eng.val ch.val).xfer = some f) : exec (.dmaStop eng ch) s =
    .next ((s.cutXfer (chanAgent eng ch f) eng.val ch.val Stat.aborted 0).updDch eng.val ch.val (fun k => { k with state := .stopping })) := by
  show execDmaStop eng ch s = _
  simp [execDmaStop, live, here, busy]

end

/-! ## LPDDR5X (R221, R232) -/

section
variable {s : State} {pkg : Fin 16} (live : s.live = true)
include live

theorem exec_lpcCntClr_of_live : exec (.lpcCntClr pkg) s =
    .next (s.updLpc pkg.val (fun l => { l with linkCorrected := 0, linkRetried := 0, poisoned := 0, onDie := 0 })) :=
  if_neg (by simp [live])

variable (up : (s.lpcOf pkg.val).state = 2)
include up

theorem exec_odeccPoll_of_up (n : Nat) :
    exec (.odeccPoll pkg n) s = .next (s.updLpc pkg.val (fun l => { l with onDie := satAdd 32 l.onDie n })) :=
  if_neg (by simp [live, up])

theorem exec_lpddrReadRetry_of_up (o : LinkOutcome) : exec (.lpddrReadRetry pkg o) s = match o with
    | .corrected => .next (s.updLpc pkg.val (fun l => { l with linkCorrected := satAdd 32 l.linkCorrected 1 }))
    | .retried => .next (s.updLpc pkg.val (fun l => { l with linkRetried := satAdd 16 l.linkRetried 1 }))
    | .poisoned who => .next (who.elim id (fun ag u => u.readFail ag Stat.poisoned) ((s.updLpc pkg.val (fun l =>
        { l with linkRetried := satAdd 16 l.linkRetried 1, poisoned := satAdd 16 l.poisoned 1 })).raise (0x340 + 4 * pkg.val))) := by
  refine (if_neg (by simp [live, up])).trans ?_
  cases o with
  | poisoned who => cases who <;> rfl
  | _ => rfl

end

/-- Settles O26: each command changes one channel or one controller as its equation says; a stop cuts the transfer short in the same
change, and a poisoned read then fails as its agent does. -/
theorem dmaRegisters : Obligations.DmaRegisters := by
  unfold Obligations.DmaRegisters
  refine ⟨fun s eng ch v live ring => exec_updDch (exec_dmaSqTailWrite_of_ring live ring v),
    fun s eng ch v live ring => exec_updDch (exec_dmaCplHeadWrite_of_ring live ring v),
    fun s eng ch live here => ⟨fun idle => exec_updDch (exec_dmaStop_of_idle live here idle), ?stop⟩,
    fun s eng ch live halted => exec_updDch (exec_dmaResume_of_halted live halted),
    fun s eng ch live here => exec_updDch (exec_dmaCntClr_of_exists live here),
    fun s pkg live up => ⟨exec_updLpc (exec_lpddrReadRetry_of_up live up .corrected),
      exec_updLpc (exec_lpddrReadRetry_of_up live up .retried), ?poisoned⟩,
    fun s pkg n live up => exec_updLpc (exec_odeccPoll_of_up live up n), fun s pkg live => exec_updLpc (exec_lpcCntClr_of_live live)⟩
  case stop =>
    intro f busy ag gone g
    refine ⟨_, exec_dmaStop_of_busy live here busy, State.updDch_updDch .., ?_⟩
    simp only [State.cutXfer, State.updDch_dch_self]
    show { s.dch eng.val ch.val with state := .stopping, xfer := ((s.dch eng.val ch.val).xfer.map g) } = _
    rw [busy]
    rfl
  case poisoned =>
    have run := fun who => exec_lpddrReadRetry_of_up live up (.poisoned who)
    refine ⟨_, run none, rfl, ?_, fun tile th rd => run _, fun hart => run _, fun e c => run _, fun tile h => run _, run _⟩
    exact (State.raise_lpcOf ..).trans (State.updLpc_lpcOf_self ..)

end Sys2Proof.Machine
end

section
/-!
Transfers of the DMA engines (R215, R216, R218, R219): what the placing of a transfer's pieces leaves, how a channel takes a transfer
whose pieces all move at once, what a channel does with the descriptor it fetches, and from them `DmaTransfers`.
-/
namespace Sys2Proof.Machine

/-! ## Reads of few fields -/

section
variable {s t : State}

theorem State.bytes_congr (mem : t.mem = s.mem) (a n : Nat) : t.bytes a n = s.bytes a n := by
  induction n generalizing a with
  | zero => rfl
  | succ n ih => simp only [State.bytes, State.byte, mem, ih]

theorem State.readFor_congr (mem : t.mem = s.mem) (fresh : t.fresh = s.fresh) (srcs : List (Nat × Nat)) (src dst n : Nat) :
    t.readFor srcs src dst n = s.readFor srcs src dst n := by
  simp only [State.readFor, State.bytes_congr mem, fresh]

theorem State.heldChan_congr (chans : t.chans = s.chans) (a n : Nat) : t.heldChan a n = s.heldChan a n := by
  unfold State.heldChan State.chan
  rw [chans]

theorem State.dch_congr (dma : t.dma = s.dma) (e c : Nat) : t.dch e c = s.dch e c := by
  simp only [State.dch, State.eng, dma]

theorem State.pieceHeld_congr (chans : t.chans = s.chans) (fill : Bool) (p : Piece) : t.pieceHeld fill p = s.pieceHeld fill p := by
  simp only [State.pieceHeld, State.heldChan_congr chans]

end

/-! ## Placing the pieces (R71, R109, R217) -/

/-- What the placing of pieces leaves: addresses are translated, and a refusal is counted on its die and raised. -/
def Placed (s t : State) : Prop := t = { s with atu := t.atu, fcl := t.fcl, dies := t.dies }

theorem Placed.refl (s : State) : Placed s s := rfl

theorem Placed.trans {r s t : State} (h : Placed r s) (k : Placed s t) : Placed r t := by
  unfold Placed at h k ⊢
  rw [k, h]

/-- What the placing of pieces leaves to a transfer. -/
theorem Placed.reads {s t : State} (h : Placed s t) :
    t.mem = s.mem ∧ t.fresh = s.fresh ∧ t.reqs = s.reqs ∧ t.rings = s.rings ∧ t.chans = s.chans ∧ t.dma = s.dma := by
  unfold Placed at h
  rw [h]
  exact ⟨rfl, rfl, rfl, rfl, rfl, rfl⟩

theorem Placed.of_translates {s t : State} (h : Translates s t) : Placed s t := by
  unfold Translates at h
  unfold Placed
  rw [h]

theorem Placed.violateAt (s : State) (m : Master) (a : Nat) : Placed s (s.violateAt m a) := by
  unfold Placed State.violateAt State.violate
  rw [State.raise_frame]
  rfl

theorem State.tileAddr_translates (t : Nat) (c : TileCmd) (s : State) (va : Nat) (acc : Acc) :
    Translates s (State.tileAddr t c s va acc).1 := by
  unfold State.tileAddr
  split
  · exact Translates.refl s
  · split
    · exact Translates.refl s
    · exact State.translate_translates ..

theorem State.placePieces_placed (m : Master) (fill : Bool) (tn : Option Nat) {addr : State → Nat → Acc → State × Except Nat Nat}
    (places : ∀ s a acc, Translates s (addr s a acc).1) (ps : List Piece) (s : State) :
    Placed s (State.placePieces m fill tn addr ps s).1 := by
  induction ps generalizing s with
  | nil => exact Placed.refl s
  | cons p ps ih =>
    unfold State.placePieces
    extract_lets source
    have read : Placed s source.1 := by
      unfold source
      split
      · exact Placed.refl s
      · exact .of_translates (places ..)
    clear_value source
    split
    · exact read
    · next u _ =>
      have write := read.trans (.of_translates (places u p.dst .write))
      split
      · next placed => rwa [placed] at write
      · next placed =>
        rw [placed] at write
        extract_lets _ _ st rest
        split
        · dsimp only
          split
          · exact write
          · exact write.trans (Placed.violateAt ..)
        · exact write.trans (ih _)

/-! ## Pieces that move at once (R165, R216) -/

/-- The bytes that a piece of a transfer brings: the pattern of a FILL, or its source's (R215, R216). -/
def State.pieceBytes (s : State) (x : XferSpec) (srcs : List (Nat × Nat)) (p : Piece) : List Byte :=
  match x.fill with
  | some f => fillBytes f p.dst p.n
  | none => s.readFor srcs p.src p.dst p.n

/-- What pieces that move leave: memory with a tile's reservations, the counts of their bytes, and a free value. -/
def Moved (s t : State) : Prop :=
  t = { s with mem := t.mem, tiles := t.tiles, acct := t.acct, feed := t.feed, fresh := t.fresh }

theorem Moved.trans {r s t : State} (h : Moved r s) (k : Moved s t) : Moved r t := by
  unfold Moved at h k ⊢
  rw [k, h]

/-- Bytes counted by tier touch the accounts and the feed alone. -/
theorem State.countBytes_frame (s : State) (tn i n : Nat) :
    s.countBytes tn i n = { s with acct := (s.countBytes tn i n).acct, feed := (s.countBytes tn i n).feed } := by
  unfold State.countBytes State.tap
  split <;> rfl

theorem State.countTier_frame (s : State) (tn a n : Nat) (write : Bool) : s.countTier tn a n write =
    { s with acct := (s.countTier tn a n write).acct, feed := (s.countTier tn a n write).feed } := by
  unfold State.countTier
  split
  · exact State.countBytes_frame ..
  · rfl

/-- One piece moves: its read and its write are counted, its bytes placed. -/
def State.movePiece (s : State) (tn : Nat) (fill : Bool) (w : Piece × List Byte) : State :=
  ((if fill then s else s.countTier tn w.1.src w.1.n false).countTier tn w.1.dst w.1.n true).placeBytes w.1.dst w.2

theorem State.movePiece_mem (s : State) (tn : Nat) (fill : Bool) (w : Piece × List Byte) :
    (s.movePiece tn fill w).mem = memPut memKey s.mem w.1.dst w.2 := by
  unfold State.movePiece
  rw [State.placeBytes_frame, State.countTier_frame]
  split
  · rfl
  · rw [State.countTier_frame]

theorem State.movePiece_moved (s : State) (tn : Nat) (fill : Bool) (w : Piece × List Byte) : Moved s (s.movePiece tn fill w) := by
  unfold Moved State.movePiece
  rw [State.placeBytes_frame, State.countTier_frame]
  split
  · rfl
  · rw [State.countTier_frame s]

theorem State.foldl_movePiece (s : State) (tn : Nat) (fill : Bool) (ws : List (Piece × List Byte)) :
    Moved s (ws.foldl (fun s w => s.movePiece tn fill w) s) ∧
      (ws.foldl (fun s w => s.movePiece tn fill w) s).mem = ws.foldl (fun m w => memPut memKey m w.1.dst w.2) s.mem := by
  induction ws generalizing s with
  | nil => exact ⟨rfl, rfl⟩
  | cons w ws ih =>
    obtain ⟨moved, mem⟩ := ih (s.movePiece tn fill w)
    exact ⟨(s.movePiece_moved tn fill w).trans moved, by rw [List.foldl_cons, mem, State.movePiece_mem]; rfl⟩

/-- Pieces that meet no channel outside MEMORY all move, in transfer order. -/
theorem State.movePieces_of_open {s : State} {x : XferSpec} {ps : List Piece}
    (unheld : ∀ p ∈ ps, s.pieceHeld x.fill.isSome p = none) (tn : Nat) :
    Moved s (s.movePieces tn x ps) ∧ (s.movePieces tn x ps).mem = ps.foldl (fun m p =>
      memPut memKey m p.dst (s.pieceBytes x (ps.map (fun p => (p.src, p.n))) p)) s.mem := by
  have all : ps.filter (fun p => (s.pieceHeld x.fill.isSome p).isNone) = ps :=
    List.filter_eq_self.mpr (fun p mem => by simp [unheld p mem])
  have run : s.movePieces tn x ps = ((ps.map (fun p => (p, s.pieceBytes x (ps.map (fun p => (p.src, p.n))) p))).foldl
      (fun s w => s.movePiece tn x.fill.isSome w) s).draw := by
    unfold State.movePieces
    rw [all]
    rfl
  obtain ⟨moved, mem⟩ := s.foldl_movePiece tn x.fill.isSome
    (ps.map (fun p => (p, s.pieceBytes x (ps.map (fun p => (p.src, p.n))) p)))
  rw [run]
  exact ⟨moved.trans rfl, by rw [State.draw_mem, mem, List.foldl_map]⟩

/-! ## A channel takes a transfer (R216, R219) -/

/-- The transfer of a channel whose pieces are all done but for its entries. -/
def Xfer.taken (tn desc handle status : Nat) (x : XferSpec) (ps : List Piece) : Xfer :=
  { desc := desc, handle := handle, status := status, cap := (ps.map (·.n)).sum, tn := tn,
    srcs := if x.fill.isSome then [] else ps.map (fun p => (p.src, p.n)) }

/-- Local pieces that meet no channel outside MEMORY move before the channel waits for its end: none is held, none makes a burst. -/
theorem State.startXfer_of_local {s : State} {x : XferSpec} {ps : List Piece}
    (here : ∀ p ∈ ps, Piece.isLocal x.fill.isSome p = true) (unheld : ∀ p ∈ ps, s.pieceHeld x.fill.isSome p = none)
    (ag : Agent) (e c tn desc handle st : Nat) :
    s.startXfer ag e c tn desc handle x ps st = (s.movePieces tn x ps).updDch e c (fun k => { k with
      state := .active
      bursts := satAdd 32 k.bursts ((ps.map (Piece.count x.len)).sum)
      xfer := some (Xfer.taken tn desc handle st x ps) }) := by
  have locals : ps.filter (Piece.isLocal x.fill.isSome) = ps := List.filter_eq_self.mpr here
  have held : ps.filter (fun p => (s.pieceHeld x.fill.isSome p).isSome) = [] :=
    List.filter_eq_nil_iff.mpr (fun p mem => by simp [unheld p mem])
  have remote : ps.filter (fun p => !(Piece.isLocal x.fill.isSome p)) = [] :=
    List.filter_eq_nil_iff.mpr (fun p mem => by simp [here p mem])
  simp [State.startXfer, locals, held, remote, Xfer.taken]

/-- A channel takes a transfer of local pieces that move at once, in a state that reads as `s` does. -/
theorem tookXfer_startXfer {s w : State} {x : XferSpec} {ps : List Piece} (mem : w.mem = s.mem) (fresh : w.fresh = s.fresh)
    (reqs : w.reqs = s.reqs) (rings : w.rings = s.rings) (chans : w.chans = s.chans)
    (here : ∀ p ∈ ps, Piece.isLocal x.fill.isSome p = true ∧ s.pieceHeld x.fill.isSome p = none)
    (ag : Agent) (e c tn desc handle st : Nat) :
    Claims.tookXfer s (w.startXfer ag e c tn desc handle x ps st) e c (w.dch e c) tn desc handle st x ps := by
  have unheld : ∀ p ∈ ps, w.pieceHeld x.fill.isSome p = none := fun p listed =>
    (State.pieceHeld_congr chans ..).trans (here p listed).2
  obtain ⟨moved, run⟩ := State.movePieces_of_open unheld tn
  rw [State.startXfer_of_local (fun p listed => (here p listed).1) unheld]
  refine ⟨?_, ?_, ?_, ?_, ?_⟩
  · rw [State.updDch_dch_self, moved]
    rfl
  · show (w.movePieces tn x ps).mem = _
    rw [run, mem]
    congr 1
    funext m p
    unfold State.pieceBytes
    cases x.fill with
    | some f => rfl
    | none => rw [State.readFor_congr mem fresh]; rfl
  · exact (congrArg State.reqs moved).trans reqs
  · exact (congrArg State.rings moved).trans rings
  · exact (congrArg State.chans moved).trans chans

/-! ## The descriptor of a RING channel (R218) -/

section
variable {s : State} {e c d kind : Nat} {f : State → Nat → State} (next : s.nextDesc e c = some d)
include next

theorem State.takeDesc_of_bad_crc (bad : crcOk d 64 = false) : s.takeDesc e c kind f =
    (s.endDesc e c d Stat.checkFailed).updDch e c (fun k => { k with state := .halted, checkErr := true }) := by
  simp [State.takeDesc, next, bad]

variable (good : crcOk d 64 = true)
include good

theorem State.takeDesc_of_reserved (reserved : rdKind d = 0 ∨ 4 < rdKind d) :
    s.takeDesc e c kind f = s.endDesc e c d Stat.invalidField := by
  simp [State.takeDesc, next, good, reserved]

theorem State.takeDesc_of_kind (own : rdKind d = kind) (one : 1 ≤ kind) (four : kind ≤ 4) : s.takeDesc e c kind f = f s d := by
  subst own
  simp [State.takeDesc, next, good, Nat.one_le_iff_ne_zero.mp one, Nat.not_lt.mpr four]

end

section
variable {s : State} {eng : Fin 5} {ch : Fin 64} {d : Nat} (next : s.nextDesc eng.val ch.val = some d) (good : crcOk d 64 = true)
include next good

theorem exec_dmaRingCopy_of_kind (kind : rdKind d = 1) : exec (.dmaRingCopy eng ch) s = .next (s.ringTransfer eng ch d) :=
  congrArg Host.Outcome.next (State.takeDesc_of_kind next good kind (by decide) (by decide))

theorem exec_dmaRingFill_of_kind (kind : rdKind d = 2) : exec (.dmaRingFill eng ch) s = .next (s.ringTransfer eng ch d) :=
  congrArg Host.Outcome.next (State.takeDesc_of_kind next good kind (by decide) (by decide))

end

theorem State.ringTransfer_of_invalid {s : State} {eng : Fin 5} {ch : Fin 64} {d : Nat} (invalid : ringXfer d = none) :
    s.ringTransfer eng ch d = s.endDesc eng.val ch.val d Stat.invalidField := by
  unfold State.ringTransfer
  rw [invalid]

theorem State.ringTransfer_of_valid {s u : State} {eng : Fin 5} {ch : Fin 64} {d : Nat} {x : XferSpec} {ps : List Piece} {st : Nat}
    (valid : ringXfer d = some x)
    (placed : State.placePieces (.dma eng.val true) x.fill.isSome none (fun s a _ => (s, .ok a)) x.pieces s = (u, ps, st)) :
    s.ringTransfer eng ch d =
      (u.updDch eng.val ch.val DmaCh.fetched).startXfer (.dma eng ch) eng.val ch.val (rdTenant d) d 0 x ps st := by
  unfold State.ringTransfer
  extract_lets
  rw [valid]
  dsimp only
  rw [placed]

/-! ## The operation of a tile (R109, R111, R217) -/

/-- The condition under which a channel cannot take a transfer, when it has none and is not HALTED. -/
theorem State.channel_free {s : State} {e c : Nat} (idle : (s.dch e c).xfer = none) (runs : (s.dch e c).state ≠ .halted) :
    ¬ ((s.dch e c).xfer.isSome || decide ((s.dch e c).state = .halted)) = true := by
  simp [idle, runs]

section
variable {s : State} {tile : Fin 48} {h : Nat} {c : TileCmd} {o : Op} (engine : s.engine? tile.val h 0x30 = some (c, o))
include engine

theorem exec_dmaTileTransfer_of_invalid (invalid : tileXfer o.desc = none) :
    exec (.dmaTileTransfer tile h) s = .next (s.failCmd tile.val Stat.opInvalid) := by
  show execDmaTileTransfer tile h s = _
  simp [execDmaTileTransfer, engine, invalid]

variable {x : XferSpec} (valid : tileXfer o.desc = some x)
include valid

theorem exec_dmaTileTransfer_of_bad_entry
    (bad : extentStatus tile.val (s.tile tile.val).resBytes [] [(fld o.desc 0x30 4, 32)] ≠ Stat.ok) : exec (.dmaTileTransfer tile h) s =
      .next (s.failAccess tile.val (extentStatus tile.val (s.tile tile.val).resBytes [] [(fld o.desc 0x30 4, 32)])) := by
  show execDmaTileTransfer tile h s = _
  simp [execDmaTileTransfer, engine, valid, bad]

variable (entry : extentStatus tile.val (s.tile tile.val).resBytes [] [(fld o.desc 0x30 4, 32)] = Stat.ok)
  (idle : (s.dch (dieOfTile tile.val) (s.tileDch tile.val h)).xfer = none)
  (runs : (s.dch (dieOfTile tile.val) (s.tileDch tile.val h)).state ≠ .halted)
include entry idle runs

theorem exec_dmaTileTransfer_of_remote (remote : s.dstRemote tile.val c (x.pieces.map (·.dst)) = true) :
    exec (.dmaTileTransfer tile h) s = .next (s.failAccess tile.val Stat.accessDenied) := by
  show execDmaTileTransfer tile h s = _
  simp only [execDmaTileTransfer, engine, valid, if_neg (not_not_intro entry), if_neg (State.channel_free idle runs),
    if_pos remote]

theorem exec_dmaTileTransfer_of_local (own : s.dstRemote tile.val c (x.pieces.map (·.dst)) = false) {u : State} {ps : List Piece}
    {st : Nat} (placed : State.placePieces (.dma (dieOfTile tile.val) false) x.fill.isSome (some (cdTenant c.desc))
      (State.tileAddr tile.val c) x.pieces s = (u, ps, st)) : exec (.dmaTileTransfer tile h) s =
    .next ((u.startXfer (.tileDma tile h) (dieOfTile tile.val) (s.tileDch tile.val h) (cdTenant c.desc) o.desc h x ps st).updCmd
      tile.val (fun c => TileCmd.wake (c.setOp h (fun o => { o with phase := .active })))) := by
  show execDmaTileTransfer tile h s = _
  simp only [execDmaTileTransfer, engine, valid, if_neg (not_not_intro entry), if_neg (State.channel_free idle runs),
    if_neg (ne_true_of_eq_false own), placed]

end

/-- Settles O24: a descriptor by its CRC, its KIND and its fields, a tile's operation by its fields and its destinations; pieces that
are all local move in the channel's step. -/
theorem dmaTransfers : Obligations.DmaTransfers := by
  unfold Obligations.DmaTransfers
  refine ⟨?ring, fun s eng ch d next => ?verdict, ?tile, fun s tile h c o engine => ⟨exec_dmaTileTransfer_of_invalid engine, ?_⟩⟩
  case ring =>
    intro s u eng ch d x ps st next good kind valid placed
    have frame := State.placePieces_placed (.dma eng.val true) x.fill.isSome none
      (addr := fun s a _ => (s, .ok a)) (fun s _ _ => Translates.refl s) x.pieces s
    rw [placed] at frame
    obtain ⟨mem, fresh, reqs, rings, chans, dma⟩ := frame.reads
    have run := State.ringTransfer_of_valid (s := s) (eng := eng) (ch := ch) valid placed
    refine ⟨_, rfl, fun copy => run ▸ exec_dmaRingCopy_of_kind next good copy, fun fill => run ▸ exec_dmaRingFill_of_kind next good fill,
      fun here => ?_⟩
    have took := tookXfer_startXfer (w := u.updDch eng.val ch.val DmaCh.fetched) mem fresh reqs rings chans here (.dma eng ch) eng.val
      ch.val (rdTenant d) d 0 st
    rwa [State.updDch_dch_self, State.dch_congr dma] at took
  case verdict =>
    refine ⟨fun bad => ⟨_, congrArg Host.Outcome.next (State.takeDesc_of_bad_crc next bad),
      congrArg Host.Outcome.next (State.takeDesc_of_bad_crc next bad), rfl⟩,
      fun good reserved => ⟨congrArg Host.Outcome.next (State.takeDesc_of_reserved next good reserved),
        congrArg Host.Outcome.next (State.takeDesc_of_reserved next good reserved)⟩, fun good kind invalid => ?_, fun good kind invalid => ?_⟩
    · rw [exec_dmaRingCopy_of_kind next good kind, State.ringTransfer_of_invalid invalid]
    · rw [exec_dmaRingFill_of_kind next good kind, State.ringTransfer_of_invalid invalid]
  case tile =>
    intro s u tile h c o x ps st engine valid entry idle runs placed
    refine ⟨exec_dmaTileTransfer_of_remote engine valid entry idle runs, fun own => ⟨_, _, rfl, rfl,
      exec_dmaTileTransfer_of_local engine valid entry idle runs own placed, fun here => ?_⟩⟩
    have frame := State.placePieces_placed (.dma (dieOfTile tile.val) false) x.fill.isSome (some (cdTenant c.desc))
      (State.tileAddr_translates tile.val c) x.pieces s
    rw [placed] at frame
    obtain ⟨mem, fresh, reqs, rings, chans, dma⟩ := frame.reads
    have took := tookXfer_startXfer mem fresh reqs rings chans here (.tileDma tile h) (dieOfTile tile.val) (s.tileDch tile.val h)
      (cdTenant c.desc) o.desc h st
    rw [State.dch_congr dma] at took
    exact took
  · rintro e some_ rfl bad
    obtain ⟨x, valid⟩ := Option.ne_none_iff_exists'.mp some_
    exact exec_dmaTileTransfer_of_bad_entry engine valid bad

end Sys2Proof.Machine
end

section
/-!
Entries of the DMA channels (R219, R220, R242): what an entry on a RING channel's completion ring leaves, the half entry and the end of
a transfer of either kind of channel, and from them `DmaEntries`.
-/
namespace Sys2Proof.Machine

/-! ## An entry and its interrupt (R219, R231) -/

section
variable (s : State) (e c : Nat)

/-- An interrupt changes no channel. -/
@[simp] theorem State.dmaIrq_dch (d k : Nat) : (s.dmaIrq e c).dch d k = s.dch d k := by
  by_cases same : d = e
  · subst same
    simp [State.dmaIrq, State.dch]
  · simp [State.dmaIrq, State.dch, same]

theorem State.wr_dch (a n v d k : Nat) : (s.wr a n v).dch d k = s.dch d k := rfl

@[simp] theorem State.ringEntry_dch (entry : Nat) :
    (s.ringEntry e c entry).dch e c = { s.dch e c with cplTail := ((s.dch e c).cplTail + 1) % 2 ^ (s.dch e c).cplLog2 } := by
  unfold State.ringEntry
  rw [State.updDch_dch_self, State.wr_dch]

theorem State.ringEntry_mem (entry : Nat) : (s.ringEntry e c entry).mem =
    memPut memKey s.mem ((s.dch e c).cplBase + 16 * ((s.dch e c).cplTail % 2 ^ (s.dch e c).cplLog2)) (toBytes 16 entry) := by
  unfold State.ringEntry State.wr State.wrBytes State.updDch
  rw [State.updEng_mem]

theorem State.dmaIrq_mem : (s.dmaIrq e c).mem = s.mem := State.updEng_mem ..

/-- An entry touches memory and its channel alone. -/
theorem State.ringEntry_frame (entry : Nat) :
    s.ringEntry e c entry = { s with mem := (s.ringEntry e c entry).mem, dma := (s.ringEntry e c entry).dma } := by
  unfold State.ringEntry State.wr State.wrBytes State.updDch State.updEng
  rfl

theorem State.dmaIrq_frame : s.dmaIrq e c = { s with dma := (s.dmaIrq e c).dma } := rfl

/-- An entry is written at CPL_TAIL, which advances, with an interrupt where one is asked for. -/
theorem State.ringEntry_irq (entry : Nat) (irq : Bool) :
    ∃ t, (if irq then (s.ringEntry e c entry).dmaIrq e c else s.ringEntry e c entry) = t ∧ t = { s with mem := t.mem, dma := t.dma } ∧
      t.mem = memPut memKey s.mem ((s.dch e c).cplBase + 16 * ((s.dch e c).cplTail % 2 ^ (s.dch e c).cplLog2)) (toBytes 16 entry) ∧
      t.dch e c = { s.dch e c with cplTail := ((s.dch e c).cplTail + 1) % 2 ^ (s.dch e c).cplLog2 } := by
  refine ⟨_, rfl, ?_, ?_, ?_⟩
  · split
    · rw [State.dmaIrq_frame, State.ringEntry_frame]
    · exact State.ringEntry_frame ..
  · split
    · rw [State.dmaIrq_mem, State.ringEntry_mem]
    · exact State.ringEntry_mem ..
  · split
    · rw [State.dmaIrq_dch, State.ringEntry_dch]
    · exact State.ringEntry_dch ..

end

/-! ## The half entry (R219) -/

section
variable {s : State} {eng : Fin 5} {ch : Fin 64} {f : Xfer} (live : s.live = true) (busy : (s.dch eng.val ch.val).xfer = some f)
include live busy

theorem exec_dmaHalfEntry_of_due (due : s.halfDue eng ch f = true)
    (room : tileOfDch eng.val ch.val = none → (s.dch eng.val ch.val).cplFull = false) :
    exec (.dmaHalfEntry eng ch) s = .next (s.postHalf eng.val ch.val (s.xferDone (chanAgent eng ch f) f) f) := by
  show execDmaHalfEntry eng ch s = _
  cases owner : tileOfDch eng.val ch.val with
  | none => simp [execDmaHalfEntry, live, busy, due, room owner]
  | some t => simp [execDmaHalfEntry, live, busy, due, owner]

end

/-- The half entry of a RING channel, with its interrupt where the descriptor asks for one. -/
theorem State.postHalf_of_ring {s : State} {e c : Nat} {f : Xfer} (ring : tileOfDch e c = none) (wants : wantsHalf false f.desc = true)
    (done : Nat) : s.postHalf e c done f =
      (if halfIrq false f.desc then (s.ringEntry e c (dmaEntry (rdId f.desc) Stat.ok 1 (done / 16))).dmaIrq e c
        else s.ringEntry e c (dmaEntry (rdId f.desc) Stat.ok 1 (done / 16))).updDch e c
          (fun k => { k with xfer := k.xfer.map (fun f => { f with half := true }) }) := by
  simp [State.postHalf, ring, wants]

/-- The half entry of a tile's transfer, 16 bytes above its CPL_ADDR (R217). -/
theorem State.postHalf_of_tile {s : State} {e c tile : Nat} {f : Xfer} (owner : tileOfDch e c = some tile) (done : Nat) :
    s.postHalf e c done f = (s.placeBytes (tileBase tile + (fld f.desc 0x30 4 + 16)) (toBytes 16 (dmaEntry f.handle Stat.ok 1 (done / 16)))).updDch
      e c (fun k => { k with xfer := k.xfer.map (fun f => { f with half := true }) }) := by
  simp [State.postHalf, owner, State.tileEntry]

/-! ## The end of a transfer (R219, R220) -/

/-- The channel of a transfer that is over: a stopped one halts. -/
def DmaCh.ended (k : DmaCh) : DmaCh := { k with xfer := none, state := if k.state = .stopping then .halted else .idle }

section
variable {s : State} {eng : Fin 5} {ch : Fin 64} {f : Xfer} (live : s.live = true) (busy : (s.dch eng.val ch.val).xfer = some f)
  (worked : f.todo = false) (free : f.held = []) (quiet : s.waiting (chanAgent eng ch f) = [])
  (room : tileOfDch eng.val ch.val = none → (s.dch eng.val ch.val).cplFull = false)
include live busy worked free quiet room

theorem exec_dmaTransferEnd_of_done : exec (.dmaTransferEnd eng ch) s =
    if s.halfDue eng ch f = false then .next (s.endXfer eng ch f)
    else if (tileOfDch eng.val ch.val).isNone &&
        ((s.postHalf eng.val ch.val (s.xferDone (chanAgent eng ch f) f) f).dch eng.val ch.val).cplFull
      then .next (s.postHalf eng.val ch.val (s.xferDone (chanAgent eng ch f) f) f)
      else .next ((s.postHalf eng.val ch.val (s.xferDone (chanAgent eng ch f) f) f).endXfer eng ch { f with half := true }) := by
  show execDmaTransferEnd eng ch s = _
  cases owner : tileOfDch eng.val ch.val with
  | none => simp [execDmaTransferEnd, live, busy, worked, free, quiet, owner, room owner]
  | some t => simp [execDmaTransferEnd, live, busy, worked, free, quiet, owner]

end

/-- The full entry of a RING channel's transfer, with its interrupt where the descriptor asks for one. -/
theorem State.endXfer_of_ring {s : State} {eng : Fin 5} {ch : Fin 64} {f : Xfer} (ring : tileOfDch eng.val ch.val = none) :
    s.endXfer eng ch f = if rdFlag f.desc 1
      then ((s.updDch eng.val ch.val DmaCh.ended).ringEntry eng.val ch.val
        (dmaEntry (rdId f.desc) f.status 2 (s.xferDone (chanAgent eng ch f) f / 16))).dmaIrq eng.val ch.val
      else (s.updDch eng.val ch.val DmaCh.ended).ringEntry eng.val ch.val
        (dmaEntry (rdId f.desc) f.status 2 (s.xferDone (chanAgent eng ch f) f / 16)) := by
  unfold State.endXfer
  extract_lets
  rw [ring]
  rfl

/-- The full entry of a tile's transfer, at its CPL_ADDR (R217): the operation is done, or its command fails. -/
theorem State.endXfer_of_tile {s : State} {eng : Fin 5} {ch : Fin 64} {f : Xfer} {tile : Nat}
    (owner : tileOfDch eng.val ch.val = some tile) {u : State}
    (entry : u = (s.updDch eng.val ch.val DmaCh.ended).placeBytes (tileBase tile + fld f.desc 0x30 4)
      (toBytes 16 (dmaEntry f.handle f.status 2 (s.xferDone (chanAgent eng ch f) f / 16)))) :
    s.endXfer eng ch f = if f.status = Stat.ok then u.updCmd tile (fun c => c.setOp f.handle (fun o => { o with phase := .executed }))
      else u.failCmd tile f.status := by
  subst entry
  unfold State.endXfer
  extract_lets
  rw [owner]
  rfl

/-- Settles O25: a half entry by the kind of its channel; the end of a transfer by whether its half entry is due, and then by the kind
of its channel. -/
theorem dmaEntries : Obligations.DmaEntries := by
  unfold Obligations.DmaEntries
  refine ⟨fun s eng ch f live busy ring due wants room => ?ringHalf, fun s eng ch f tile live busy owner due => ?tileHalf,
    fun s eng ch f live busy worked free ring quiet early room => ?ringEnd,
    fun s eng ch f tile live busy worked free owner quiet early => ?tileEnd,
    fun s eng ch f live busy worked free quiet due ring room => ?bothEntries⟩
  case ringHalf =>
    obtain ⟨t, run, frame, mem, dch⟩ := s.ringEntry_irq eng.val ch.val
      (dmaEntry (rdId f.desc) Stat.ok 1 (s.xferDone (chanAgent eng ch f) f / 16)) (halfIrq false f.desc)
    refine ⟨_, exec_dmaHalfEntry_of_due live busy due (fun _ => room), ?_, ?_, ?_⟩
    all_goals rw [State.postHalf_of_ring ring wants, run]
    · rw [frame]
      rfl
    · exact mem
    · rw [State.updDch_dch_self, dch, busy]
      rfl
  case tileHalf =>
    rw [exec_dmaHalfEntry_of_due live busy due (by simp [owner]), State.postHalf_of_tile owner]
  case ringEnd =>
    obtain ⟨t, run, frame, mem, dch⟩ := (s.updDch eng.val ch.val DmaCh.ended).ringEntry_irq eng.val ch.val
      (dmaEntry (rdId f.desc) f.status 2 (s.xferDone (chanAgent eng ch f) f / 16)) (rdFlag f.desc 1)
    rw [State.updDch_dch_self] at mem dch
    refine ⟨t, ?_, frame, mem, dch⟩
    rw [exec_dmaTransferEnd_of_done live busy worked free quiet (fun _ => room), if_pos early, State.endXfer_of_ring ring, run]
  case tileEnd =>
    intro u
    rw [exec_dmaTransferEnd_of_done live busy worked free quiet (by simp [owner]), if_pos early, State.endXfer_of_tile owner rfl]
    rfl
  case bothEntries =>
    intro u
    rw [exec_dmaTransferEnd_of_done live busy worked free quiet (fun _ => room), if_neg (by simp [due]), ring]
    exact (apply_ite Host.Outcome.next _ _ _).symm

end Sys2Proof.Machine
end

section
/-!
Events of the device and the tenants (R365, R372, R440): what posting one leaves.
-/
namespace Sys2Proof.Machine

/-- What an event leaves: its entry in memory or at the host, the ring's registers, and an interrupt of its LD. -/
def Posted (s t : State) : Prop :=
  t = { s with mem := t.mem, hostMem := t.hostMem, rings := t.rings, ringRegs := t.ringRegs, lds := t.lds, cxl := t.cxl }

theorem Posted.refl (s : State) : Posted s s := rfl

theorem Posted.trans {r s t : State} (h : Posted r s) (k : Posted s t) : Posted r t := by
  unfold Posted at h k ⊢
  rw [k, h]

variable (s : State)

theorem State.wr_posted (a n v : Nat) : Posted s (s.wr a n v) := rfl

theorem State.hostPut_posted (ld a : Nat) (bs : List Byte) : Posted s (s.hostPut ld a bs) := rfl

theorem State.updRing_posted (r : Nat) (f : Ring → Ring) : Posted s (s.updRing r f) := rfl

theorem State.msix_posted (ld vec : Nat) : Posted s (s.msix ld vec) := by
  unfold State.msix
  split
  · rfl
  · split <;> rfl

theorem State.announce_posted (r : Nat) : Posted s (s.announce r) := by
  unfold State.announce
  extract_lets g due
  split
  · exact Posted.refl s
  · split
    · exact (State.updRing_posted ..).trans (State.msix_posted ..)
    · exact State.updRing_posted ..

theorem State.markHalt_posted (r cause : Nat) : Posted s (s.markHalt r cause) := by
  unfold State.markHalt
  extract_lets u
  split <;> rfl

theorem State.putEntry_posted (r raw : Nat) : Posted s (s.putEntry r raw) := by
  unfold State.putEntry
  extract_lets g e off
  split
  · exact ((State.wr_posted ..).trans (State.updRing_posted ..)).trans (State.announce_posted ..)
  · split
    · exact ((State.hostPut_posted ..).trans (State.updRing_posted ..)).trans (State.announce_posted ..)
    · exact Posted.trans (s := { s with cxl := _ }) rfl (State.markHalt_posted ..)

theorem State.dropEvent_posted (r : Option Nat) : Posted s (s.dropEvent r) := by
  cases r <;> rfl

theorem State.eventTo_posted (ld raw : Nat) : Posted s (s.eventTo ld raw) := by
  unfold State.eventTo
  split
  · exact Posted.refl s
  · split
    · exact State.dropEvent_posted ..
    · extract_lets g
      split
      · exact State.dropEvent_posted ..
      · exact State.putEntry_posted ..

theorem State.devEvent_posted (kind arg0 arg1 arg2 : Nat) : Posted s (s.devEvent kind arg0 arg1 arg2) :=
  State.eventTo_posted ..

end Sys2Proof.Machine
end

section
/-!
The flash translation layer (R201, R224 to R227, R233, R453): what a read, a retired block and a block that is relocated leave, and from
them `FlashCommands`.
-/
namespace Sys2Proof.Machine

/-! ## Blocks and counts (R226, R233) -/

section
variable (f : Ftl) (b : Nat) (g : FlashBlock → FlashBlock)

@[simp] theorem Ftl.updBlock_block_self : (f.updBlock b g).block b = g (f.block b) := Tbl.getD_upd_self ..

@[simp] theorem Ftl.updBlock_block_ne {c : Nat} (other : c ≠ b) : (f.updBlock b g).block c = f.block c := Tbl.getD_upd_ne _ _ _ _ other

@[simp] theorem Ftl.decoded_map (o : LdpcOutcome) : (f.decoded o).map = f.map := by cases o <;> rfl

@[simp] theorem Ftl.decoded_block (o : LdpcOutcome) : (f.decoded o).block b = f.block b := by cases o <;> rfl

theorem Ftl.decoded_soft {o : LdpcOutcome} (readable : o ≠ .uncorrectable) :
    (f.decoded o).soft = if o = .soft then satAdd 32 f.soft 1 else f.soft := by
  cases o with
  | uncorrectable => exact absurd rfl readable
  | _ => rfl

theorem Ftl.decoded_uncorrectable {o : LdpcOutcome} (readable : o ≠ .uncorrectable) :
    (f.decoded o).uncorrectable = f.uncorrectable := by
  cases o with
  | uncorrectable => exact absurd rfl readable
  | _ => rfl

end

/-! ## A block is retired (R226) -/

/-- The check of the spare area sets at most the mark and posts its event. -/
theorem State.wornCheck_posted (s : State) : ∃ worn, Posted { s with ftl := { s.ftl with worn := worn } } s.wornCheck := by
  unfold State.wornCheck
  extract_lets f
  split
  · exact ⟨true, State.devEvent_posted ..⟩
  · exact ⟨s.ftl.worn, Posted.refl s⟩

/-- A block that is retired is bad; the map, the counts of reads, T3's plots and the collector stand. -/
theorem State.retireBlock_reads (s : State) (b : Nat) : ((s.retireBlock b).ftl.block b).bad = true ∧
    (s.retireBlock b).ftl.map = s.ftl.map ∧ (s.retireBlock b).ftl.uncorrectable = s.ftl.uncorrectable ∧
    (s.retireBlock b).ftl.soft = s.ftl.soft ∧ (s.retireBlock b).fcl = s.fcl ∧ (s.retireBlock b).t3 = s.t3 := by
  unfold State.retireBlock
  split
  · next bad => exact ⟨bad, rfl, rfl, rfl, rfl, rfl⟩
  · obtain ⟨worn, frame⟩ := State.wornCheck_posted (s.updFtl (fun f => { (f.updBlock b (fun k => { k with bad := true })) with
      badBlocks := f.badBlocks + 1, openBlock := f.openBlock.filter (fun e => e.2 ≠ b) }))
    unfold Posted at frame
    rw [frame]
    refine ⟨?_, rfl, rfl, rfl, rfl, rfl⟩
    show ((s.ftl.updBlock b (fun k => { k with bad := true })).block b).bad = true
    rw [Ftl.updBlock_block_self]

/-! ## Bytes of a flash run (R201, R391) -/

theorem State.countT3_frame (s : State) (tn : Option Nat) (h : Nat) (write : Bool) : s.countT3 tn h write =
    { s with acct := (s.countT3 tn h write).acct, feed := (s.countT3 tn h write).feed } := by
  unfold State.countT3
  split
  · exact State.countBytes_frame ..
  · rfl

/-- What the count of a flash run leaves to the read. -/
theorem State.countT3_reads (s : State) (tn : Option Nat) (h : Nat) (write : Bool) :
    (s.countT3 tn h write).mem = s.mem ∧ (s.countT3 tn h write).tiles = s.tiles ∧ (s.countT3 tn h write).t3 = s.t3 ∧
      (s.countT3 tn h write).ftl = s.ftl ∧ (s.countT3 tn h write).reqs = s.reqs ∧ (s.countT3 tn h write).fcl = s.fcl := by
  rw [State.countT3_frame]
  exact ⟨rfl, rfl, rfl, rfl, rfl, rfl⟩

/-- What bytes placed leave of flash, the requests and the collector. -/
theorem State.placeBytes_reads (s : State) (a : Nat) (bs : List Byte) : (s.placeBytes a bs).mem = memPut memKey s.mem a bs ∧
    (s.placeBytes a bs).t3 = s.t3 ∧ (s.placeBytes a bs).ftl = s.ftl ∧ (s.placeBytes a bs).reqs = s.reqs ∧
      (s.placeBytes a bs).fcl = s.fcl := by
  rw [State.placeBytes_frame]
  exact ⟨rfl, rfl, rfl, rfl, rfl⟩

theorem State.t3Bytes_congr {s t : State} (t3 : t.t3 = s.t3) (h n : Nat) : t.t3Bytes h n = s.t3Bytes h n := by
  simp only [State.t3Bytes, t3]

theorem State.t3Bytes_length (s : State) (h n : Nat) : (s.t3Bytes h n).length = n := by simp [State.t3Bytes]

theorem State.accStatus_congr {s t : State} (tiles : t.tiles = s.tiles) (m : Master) (acc : Acc) (a n : Nat) :
    t.accStatus m acc a n = s.accStatus m acc a n := by
  unfold State.accStatus State.tile
  rw [tiles]

/-! ## A read of a handle's run (R226, R453) -/

/-- A handle marked LOST. -/
def State.markLost (s : State) (h : Nat) (p : FlashPlot) : State :=
  s.updFtl (fun f => { f with map := Tbl.put f.map h { p with lost := true } })

/-- A read counted in its block and by how it decoded. -/
def State.flashRead (s : State) (p : FlashPlot) (o : LdpcOutcome) : State :=
  s.updFtl (fun f => (f.decoded o).updBlock p.block (fun k => { k with reads := k.reads + 1, weak := k.weak || o = .hard true }))

theorem State.flashRead_find (s : State) (p : FlashPlot) (o : LdpcOutcome) (h : Nat) :
    Tbl.find? (s.flashRead p o).ftl.map h = Tbl.find? s.ftl.map h :=
  congrArg (Tbl.find? · h) (s.ftl.decoded_map o)

theorem Ftl.readable_of_find {f : Ftl} {h : Nat} {p : FlashPlot} (found : Tbl.find? f.map h = some p) :
    f.readable h = (!p.held && !p.lost) := by
  unfold Ftl.readable
  rw [found]

theorem State.markLost_not_readable (s : State) (h : Nat) (p : FlashPlot) : (s.markLost h p).ftl.readable h = false := by
  rw [Ftl.readable_of_find (p := { p with lost := true }) (Tbl.find?_put_self ..)]
  simp

section
variable {s : State} {h : Nat} {p : FlashPlot} (found : Tbl.find? s.ftl.map h = some p) (full : p.held = false) (kept : p.lost = false)
include found full kept

theorem State.t3Read_of_fenced (fenced : Tbl.getD s.ftl.chState (s.ftl.chanOfBlock p.block) 0 = 3) (o : LdpcOutcome) :
    s.t3Read h o = s.markLost h p := by
  unfold State.t3Read
  rw [found]
  dsimp only
  rw [if_neg (by simp [full, kept]), if_pos fenced]
  rfl

variable (open_ : Tbl.getD s.ftl.chState (s.ftl.chanOfBlock p.block) 0 ≠ 3)
include open_

theorem State.t3Read_of_readable {o : LdpcOutcome} (readable : o ≠ .uncorrectable) : s.t3Read h o = s.flashRead p o := by
  unfold State.t3Read
  rw [found]
  dsimp only
  rw [if_neg (by simp [full, kept]), if_neg open_, if_neg readable]
  rfl

theorem State.t3Read_of_uncorrectable : s.t3Read h .uncorrectable =
    (((s.flashRead p .uncorrectable).markLost h p).raise (srcOf 4 0x08)).retireBlock p.block := by
  unfold State.t3Read
  rw [found]
  dsimp only
  rw [if_neg (by simp [full, kept]), if_neg open_, if_pos rfl]
  rfl

end

/-- A read that no method decodes does not judge its block weak. -/
theorem State.flashRead_uncorrectable (s : State) (p : FlashPlot) : s.flashRead p .uncorrectable =
    s.updFtl (fun f => (f.decoded .uncorrectable).updBlock p.block (fun k => { k with reads := k.reads + 1 })) := by
  simp [State.flashRead]

section
variable {s : State} {handle : BitVec 28} {dst : Nat} {o : LdpcOutcome} {p : FlashPlot} (live : s.live = true)
  (found : Tbl.find? s.ftl.map handle.toNat = some p) (full : p.held = false) (kept : p.lost = false)
include live found full kept

theorem exec_ftlRead_of_lost (lost : (s.t3Read handle.toNat o).ftl.readable handle.toNat = false) :
    exec (.ftlRead handle dst o) s = .next (s.t3Read handle.toNat o) := by
  show execFtlRead handle dst o s = _
  have readable : s.ftl.readable handle.toNat = true := by simp [Ftl.readable_of_find found, full, kept]
  simp [execFtlRead, found, live, readable, lost]

variable (open_ : Tbl.getD s.ftl.chState (s.ftl.chanOfBlock p.block) 0 ≠ 3) (decodes : o ≠ .uncorrectable)
include open_ decodes

/-- A plot that decodes is counted to its tenant, and lands where its destination may be written (R201, R391). -/
theorem exec_ftlRead_of_read {v : State}
    (counted : v = (s.flashRead p o).countT3 ((s.flashRead p o).handleTenant handle.toNat) handle.toNat false) :
    exec (.ftlRead handle dst o) s = .next
      (if v.accStatus (.dma 4 true) .write dst 65536 = Stat.ok && !(inAperture dst) then v.placeBytes dst (v.t3Bytes handle.toNat 65536)
        else v) := by
  show execFtlRead handle dst o s = _
  have readable : s.ftl.readable handle.toNat = true := by simp [Ftl.readable_of_find found, full, kept]
  have still : (s.flashRead p o).ftl.readable handle.toNat = true := by
    simp [Ftl.readable_of_find ((State.flashRead_find ..).trans found), full, kept]
  subst counted
  simp only [execFtlRead, found, live, readable, State.t3Read_of_readable found full kept open_ decodes, still, Bool.not_true, Bool.or_self,
    Bool.false_eq_true, if_false]
  exact (apply_ite Host.Outcome.next _ _ _).symm

end

/-! ## Relocation (R226, R227) -/

/-- A block whose runs were copied: it is erased unless it is bad. -/
def FlashBlock.emptied (k : FlashBlock) : FlashBlock :=
  { k with used := 0, reads := 0, weak := false, erases := if k.bad then k.erases else k.erases + 1, clean := k.clean || !k.bad }

theorem FlashBlock.emptied_eq (k : FlashBlock) : k.emptied = if k.bad then { k with used := 0, reads := 0, weak := false }
    else { k with erases := k.erases + 1, used := 0, reads := 0, weak := false, clean := true } := by
  cases bad : k.bad <;> simp [FlashBlock.emptied, bad]

/-- The medium with a block closed to new runs. -/
def Ftl.shut (f : Ftl) (block : Nat) : Ftl := { f with openBlock := f.openBlock.filter (fun e => e.2 ≠ block) }

section
variable {s : State} {block : Nat} {why : RelocWhy} (live : s.live = true) (inside : block < s.ftl.blocks)
  (user : s.ftl.reserved block = false) (work : (s.ftl.block block).used ≠ 0 ∨ why = .badBlock) (due : s.relocDue block why = true)
include live inside user work due

theorem exec_ftlRelocation_of_due : exec (.ftlRelocation block why) s = match moveRuns block s.ltu s.ftl.map (s.ftl.shut block) with
    | none => .next s
    | some f => .next ((if why = .badBlock then ({ s with ftl := f } : State).retireBlock block else { s with ftl := f }).updFtl
        (fun f => f.updBlock block FlashBlock.emptied)) := by
  have acts : ¬ (!s.live || decide (s.ftl.blocks ≤ block) || s.ftl.reserved block ||
      ((s.ftl.block block).used = 0 && why ≠ .badBlock) || !(s.relocDue block why)) = true := by
    simpa [live, user, due, Nat.not_le.mpr inside] using fun none_ => work.resolve_left (absurd none_)
  refine (if_neg acts).trans ?_
  rw [show FlashBlock.emptied = _ from funext FlashBlock.emptied_eq]
  rfl

end

/-- Settles O27: a read by whether its channel is fenced and how its run decodes; a relocation by whether the runs find a place, and then
by whether the block is a bad one. -/
theorem flashCommands : Obligations.FlashCommands := by
  unfold Obligations.FlashCommands
  refine ⟨fun s handle dst o p live found full kept open_ decodes => ?read, fun s handle dst p live found full kept open_ => ?lost,
    fun s handle dst o p live found full kept fenced => ?fenced, fun s block why live inside user work due => ?relocation,
    fun s live => if_neg (by simp [live])⟩
  case read =>
    intro u v
    obtain ⟨mem, tiles, t3, ftl, reqs, fcl⟩ : v.mem = s.mem ∧ v.tiles = s.tiles ∧ v.t3 = s.t3 ∧ v.ftl = u.ftl ∧ v.reqs = s.reqs ∧
      v.fcl = s.fcl := State.countT3_reads ..
    have run := exec_ftlRead_of_read (dst := dst) live found full kept open_ decodes (v := v) rfl
    rw [State.accStatus_congr tiles, State.t3Bytes_congr t3] at run
    refine ⟨fun refused => ?_, fun ok here => ⟨_, ?_, rfl, ?_⟩⟩
    · rw [run, if_neg]
      simpa using fun ok => refused.resolve_left (absurd ok)
    · rw [run, if_pos (by simp [ok, here])]
    · obtain ⟨placed, t3', ftl', reqs', fcl'⟩ := v.placeBytes_reads dst (s.t3Bytes handle.toNat 65536)
      rw [placed, t3', ftl', reqs', fcl', mem, t3, ftl, reqs, fcl]
      refine ⟨rfl, fun k away => memGet_memPut_ne _ _ _ (by rwa [State.t3Bytes_length]), ?_, Ftl.decoded_map .., rfl, rfl, rfl,
        Ftl.decoded_soft _ decodes, Ftl.decoded_uncorrectable _ decodes⟩
      show (((s.ftl.decoded o).updBlock p.block _).block p.block).reads = _
      rw [Ftl.updBlock_block_self, Ftl.decoded_block]
  case lost =>
    have read := State.t3Read_of_uncorrectable found full kept open_
    obtain ⟨bad, map, uncorrectable, soft, fcl, t3⟩ := State.retireBlock_reads
      (((s.flashRead p .uncorrectable).markLost handle.toNat p).raise (srcOf 4 0x08)) p.block
    have lost : (s.t3Read handle.toNat .uncorrectable).ftl.readable handle.toNat = false := by
      rw [read, Ftl.readable, map, State.raise_ftl]
      exact State.markLost_not_readable ..
    refine ⟨_, exec_ftlRead_of_lost live found full kept lost, ?_, ?_⟩
    · rw [read, State.flashRead_uncorrectable]
      rfl
    · rw [read, map, uncorrectable, soft, fcl, t3, State.raise_ftl, State.raise_t3]
      exact ⟨Tbl.find?_put_self .., bad, rfl, rfl, State.raise_fcl_congr rfl rfl _, rfl⟩
  case fenced =>
    have read := State.t3Read_of_fenced found full kept fenced o
    rw [exec_ftlRead_of_lost live found full kept (by rw [read]; exact State.markLost_not_readable ..), read]
    rfl
  case relocation =>
    intro shut
    have run := exec_ftlRelocation_of_due live inside user work due
    refine ⟨fun stuck => ?_, fun f moved => ?_⟩
    · rw [run, show moveRuns block s.ltu s.ftl.map (s.ftl.shut block) = none from stuck]
    · rw [show moveRuns block s.ltu s.ftl.map (s.ftl.shut block) = some f from moved] at run
      refine ⟨_, run, rfl, fun sound => ?_, fun bad => ?_⟩
      · rw [if_neg sound]
        exact ⟨rfl, fun b other => Ftl.updBlock_block_ne _ _ _ other⟩
      · rw [if_pos bad]
        show (((({ s with ftl := f } : State).retireBlock block).ftl.updBlock block FlashBlock.emptied).block block).bad = true
        rw [Ftl.updBlock_block_self]
        exact (State.retireBlock_reads ..).1

end Sys2Proof.Machine
end

section
/-!
Leaves, plots and quotas (R128, R161, R202, R206, R207): what the writing of a leaf, a plot given back and a quota credited leave.
-/
namespace Sys2Proof.Machine

/-! ## Leaves (R127, R132) -/

/-- What the writing of a leaf leaves: its table and the tables above it in memory and in the page-table pool, and translations dropped. -/
def Mapped (s t : State) : Prop :=
  t = { s with mem := t.mem, atu := { s.atu with slices := t.atu.slices }, pools := { s.pools with pt := t.pools.pt } }

theorem Mapped.refl (s : State) : Mapped s s := rfl

theorem Mapped.trans {r s t : State} (h : Mapped r s) (k : Mapped s t) : Mapped r t := by
  unfold Mapped at h k ⊢
  rw [k, h]

/-- What a leaf leaves to the tier manager. -/
theorem Mapped.reads {s t : State} (h : Mapped s t) : t.reqs = s.reqs ∧ t.slots = s.slots ∧ t.tenants = s.tenants := by
  unfold Mapped at h
  rw [h]
  exact ⟨rfl, rfl, rfl⟩

/-- A leaf leaves MOVEs and the invalidation unit as they are. -/
theorem Mapped.waits {s t : State} (h : Mapped s t) :
    t.live = s.live ∧ t.atu.invBusy = s.atu.invBusy ∧ t.pools.moves = s.pools.moves := by
  unfold Mapped at h
  rw [h]
  exact ⟨rfl, rfl, rfl⟩

section
variable (s : State)

theorem State.wr_mapped (a n v : Nat) : Mapped s (s.wr a n v) := rfl

theorem State.ptAlloc_mapped (n : Nat) : Mapped s (s.ptAlloc n).1 := rfl

theorem State.dropTlb_mapped (sc : InvScope) : Mapped s (s.dropTlb sc) := rfl

end

theorem State.leafAddr_mapped (s : State) (va n table : Nat) : Mapped s (s.leafAddr va n table).1 := by
  induction n generalizing s table with
  | zero => exact Mapped.refl s
  | succ n ih =>
    unfold State.leafAddr
    extract_lets ea e
    split
    · exact ih ..
    · exact ((State.ptAlloc_mapped ..).trans (State.wr_mapped ..)).trans (ih ..)

theorem State.setLeaf_mapped (s : State) (asid vpn entry : Nat) : Mapped s (s.setLeaf asid vpn entry) :=
  (s.leafAddr_mapped (vpn * 65536) 3 (s.rootOf asid)).trans
    ((s.leafAddr (vpn * 65536) 3 (s.rootOf asid)).1.wr_mapped (s.leafAddr (vpn * 65536) 3 (s.rootOf asid)).2 8 entry)

theorem State.setPage_mapped (s : State) (asid vpn leaf : Nat) : Mapped s (s.setPage asid vpn leaf) := by
  unfold State.setPage
  split
  · exact Mapped.refl s
  · exact (State.setLeaf_mapped ..).trans (State.dropTlb_mapped ..)

/-! ## Plots and quotas (R202, R206, R207) -/

theorem Place.tier_ne_four {p : Place} (here : p ≠ .holder) : p.tier ≠ 4 := by
  cases p with
  | holder => exact absurd rfl here
  | _ => simp [Place.tier]

theorem secdedWrite_mod (data : Nat) : secdedWrite data % 2 ^ 57 = data % 2 ^ 57 := by
  unfold secdedWrite bits
  rw [Nat.add_mul_mod_self_right, Nat.shiftRight_zero, Nat.mod_mod]

theorem leafEmpty_ne_leafPruned : leafEmpty ≠ leafPruned := by
  intro same
  have states : leafEmpty % 2 ^ 57 = leafPruned % 2 ^ 57 := congrArg (· % 2 ^ 57) same
  unfold leafEmpty leafPruned leafState at states
  rw [secdedWrite_mod, secdedWrite_mod] at states
  exact absurd states (by decide)

section
variable (s : State) (p : Place) (tn k : Nat)

@[simp] theorem State.givePlot_reqs : (s.givePlot p).reqs = s.reqs := by cases p <;> rfl
@[simp] theorem State.givePlot_slots : (s.givePlot p).slots = s.slots := by cases p <;> rfl
@[simp] theorem State.givePlot_tenants : (s.givePlot p).tenants = s.tenants := by cases p <;> rfl

@[simp] theorem State.writeTenant_reqs : (s.writeTenant tn).reqs = s.reqs := by
  rw [State.writeTenant, State.wr, State.wrBytes_reqs]

@[simp] theorem State.writeTenant_slots : (s.writeTenant tn).slots = s.slots := by
  rw [State.writeTenant, State.wr, State.wrBytes_slots]

@[simp] theorem State.writeTenant_tenants : (s.writeTenant tn).tenants = s.tenants := by
  rw [State.writeTenant, State.wr, State.wrBytes_tenants]

@[simp] theorem State.credit_reqs : (s.credit tn k).reqs = s.reqs := by
  rw [State.credit, State.writeTenant_reqs, State.updTenant_reqs]

@[simp] theorem State.credit_slots : (s.credit tn k).slots = s.slots := by
  rw [State.credit, State.writeTenant_slots, State.updTenant_slots]

theorem State.credit_tenant_self :
    (s.credit tn k).tenant tn = { s.tenant tn with used := setNth (s.tenant tn).used k (nth (s.tenant tn).used k 0 - 1) } := by
  rw [State.credit, State.tenant, State.writeTenant_tenants]
  exact State.updTenant_tenant_self ..

@[simp] theorem State.freePlace_reqs : (s.freePlace tn p).reqs = s.reqs := by
  unfold State.freePlace
  split
  · rfl
  · rw [State.credit_reqs, State.givePlot_reqs]

@[simp] theorem State.freePlace_slots : (s.freePlace tn p).slots = s.slots := by
  unfold State.freePlace
  split
  · rfl
  · rw [State.credit_slots, State.givePlot_slots]

theorem State.freePlace_of_here (here : p ≠ .holder) : s.freePlace tn p = (s.givePlot p).credit tn p.tier :=
  if_neg (Place.tier_ne_four here)

end

/-- An element of a list that was replaced, where there is one. -/
theorem nth_setNth_self {α : Type} (l : List α) (i : Nat) (v d : α) : nth (setNth l i v) i d = if i < l.length then v else d := by
  induction l generalizing i with
  | nil => rfl
  | cons a l ih =>
    cases i with
    | zero => rfl
    | succ i =>
      refine (ih i).trans (ite_congr ?_ (fun _ => rfl) (fun _ => rfl))
      simp

end Sys2Proof.Machine
end

section
/-!
FREE, MOVE and the end of a copy (R202 to R212): one equation per case of each command, and from them `TierMoves`.
-/
namespace Sys2Proof.Machine

/-! ## FREE (R202, R204) -/

/-- A page of a request is freed: its leaf EMPTY, its place given back. -/
theorem State.freePage_of_found {s : State} {i page : Nat} {p : Place} (found : Tbl.find? (s.req i).pages page = some p) :
    s.freePage i page leafEmpty = ((s.setPage (s.req i).seq.asid ((s.req i).seq.vpn page) leafEmpty).updReq i
      (fun r => { r with pages := Tbl.del r.pages page })).freePlace (s.req i).tenant p := by
  unfold State.freePage
  simp only [found, if_neg leafEmpty_ne_leafPruned]

/-- A plot of a model slot is freed: its leaf EMPTY, its place given back. -/
theorem State.freeSlotPlot_of_found {s : State} {k vpn : Nat} {p : Place} (found : Tbl.find? (s.slot k).plots vpn = some p) :
    s.freeSlotPlot k vpn = ((s.setPage (s.tenant (s.slot k).tenant).asid vpn leafEmpty).updSlot k
      (fun m => { m with plots := Tbl.del m.plots vpn })).freePlace (s.slot k).tenant p := by
  unfold State.freeSlotPlot
  extract_lets m
  rw [found]

section
variable {s : State} {asid : BitVec 16} {vpn : Nat}

theorem exec_tierFree_of_moving (moving : s.inMove asid.toNat vpn = true) : exec (.tierFree asid vpn) s = .next s :=
  if_pos (by simp [moving])

variable (live : s.live = true) (still : s.inMove asid.toNat vpn = false)
include live still

theorem exec_tierFree_of_page {i page : Nat} {p : Place} (own : s.pageReq asid.toNat vpn = some (i, page, p)) :
    exec (.tierFree asid vpn) s =
      if s.reqNamed i || s.tierBusy i || p = .holder then .next s else .next (s.freePage i page leafEmpty) := by
  show execTierFree asid vpn s = _
  cases slot : s.pageSlot asid.toNat vpn <;> simp [execTierFree, live, still, own, slot]

theorem exec_tierFree_of_slot {k : Nat} {p : Place} (none_ : s.pageReq asid.toNat vpn = none)
    (own : s.pageSlot asid.toNat vpn = some (k, p)) :
    exec (.tierFree asid vpn) s = if s.slotNamed k then .next s else .next (s.freeSlotPlot k vpn) := by
  show execTierFree asid vpn s = _
  simp [execTierFree, live, still, none_, own]

end

/-! ## MOVE (R161, R205, R208) -/

theorem State.startInv_of_idle {s : State} (live : s.live = true) (idle : s.atu.invBusy = none) (asid vpn : Nat) :
    s.startInv asid vpn = { s with atu := { s.atu with invVa := vpn * 65536, invBusy := some (.range asid vpn 1) } } :=
  State.invCmd_of_idle (s := { s with atu := { s.atu with invVa := vpn * 65536 } }) live _ idle

@[simp] theorem State.startInv_reqs (s : State) (asid vpn : Nat) : (s.startInv asid vpn).reqs = s.reqs := by
  unfold State.startInv State.invCmd
  split
  · rfl
  · split <;> rfl

@[simp] theorem State.secondInv_reqs (s : State) : s.secondInv.reqs = s.reqs := by
  unfold State.secondInv
  split
  · rfl
  · split
    · exact State.startInv_reqs ..
    · rfl

section
variable {s : State} {asid : BitVec 16} {vpn : Nat} {tier : Tier}

theorem exec_tierMove_of_none (none_ : s.pageReq asid.toNat vpn = none) :
    exec (.tierMove asid vpn tier) s = .next s := by
  show execTierMove asid vpn tier s = _
  simp [execTierMove, none_]

theorem exec_tierMove_of_dst {u : State} {i page : Nat} {p d : Place} (live : s.live = true) (idle : s.atu.invBusy = none)
    (still : s.inMove asid.toNat vpn = false) (own : s.pageReq asid.toNat vpn = some (i, page, p))
    (dst : s.moveDst i page p = some (u, d)) (right : d.tier = tierCode tier) : exec (.tierMove asid vpn tier) s =
      .next (u.beginMove { stage := .first, asid := asid.toNat, vpn := vpn, req := i, page := page, src := p, dst := d }) := by
  show execTierMove asid vpn tier s = _
  simp [execTierMove, live, idle, still, own, dst, right]

end

/-- A MOVE takes its record, and the invalidation of its range starts. -/
theorem State.beginMove_reads {s : State} (live : s.live = true) (idle : s.atu.invBusy = none) (m : MoveRec) :
    (s.beginMove m).pools.moves = m :: s.pools.moves ∧ (s.beginMove m).atu.invBusy = some (.range m.asid m.vpn 1) ∧
      (s.beginMove m).atu.invVa = m.vpn * 65536 ∧ (s.beginMove m).reqs = s.reqs ∧ (s.beginMove m).slots = s.slots := by
  have leaf := State.setLeaf_mapped { s with pools := { s.pools with moves := m :: s.pools.moves } } m.asid m.vpn leafMoving
  obtain ⟨runs, free, moves⟩ := leaf.waits
  obtain ⟨reqs, slots, -⟩ := leaf.reads
  unfold State.beginMove
  rw [State.startInv_of_idle (runs.trans live) (free.trans idle)]
  exact ⟨moves, rfl, rfl, reqs, slots⟩

/-! ## The end of a copy (R205, R210) -/

section
variable {v : State} {m : MoveRec} {status : Nat}

theorem State.moveCopied_of_lost (lost : status = Stat.poisoned ∨ v.placeLost m.src = true) :
    v.moveCopied m status = (v.freePlace (v.moveTenant m) m.dst).moveLost m :=
  if_pos (by simpa using lost)

variable (sound : status ≠ Stat.poisoned) (kept : v.placeLost m.src = false)
include sound kept

theorem State.moveCopied_of_kept : v.moveCopied m status =
    if status ≠ Stat.ok then (((v.freePlace (v.moveTenant m) m.dst).remap m m.src).moveFailed m status).endMove m
    else match (v.countRead (v.moveTenant m) m.src).fillPlace (v.moveTenant m) m.dst (v.placeData m.src) with
      | none => (((v.freePlace (v.moveTenant m) m.dst).remap m m.src).moveFailed m status).endMove m
      | some u => if m.src.tier = 3 then ((u.remap m m.dst).freePlace (v.moveTenant m) m.src).endMove m
        else ((u.remap m m.dst).setMove m .remapped).secondInv := by
  refine (if_neg (by simp [sound, kept])).trans ?_
  split <;> rfl

end

section
variable {s : State} {i page : Nat} {d p : Place} {status : Nat} (found : Tbl.find? (s.req i).pages page = some p)
include found

theorem State.parkCopied_of_lost (lost : status = Stat.poisoned ∨ s.placeLost p = true) :
    s.parkCopied i page d status = (s.killPark i Stat.graftFailed 0).updReq i (fun r => { r with lost := true }) := by
  unfold State.parkCopied
  extract_lets r
  rw [found]
  exact if_pos (by simpa using lost)

variable (kept : s.placeLost p = false)
include kept

theorem State.parkCopied_of_failed (sound : status ≠ Stat.poisoned) (failed : status ≠ Stat.ok) :
    s.parkCopied i page d status = s.killPark i Stat.graftFailed 0 := by
  unfold State.parkCopied
  extract_lets r
  rw [found]
  dsimp only
  rw [if_neg (by simp [sound, kept]), if_pos failed]

/-- A copy of a park is done; the last one commits the park. -/
theorem State.parkCopied_of_filled {u : State}
    (filled : (s.countRead (s.req i).tenant p).fillPlace (s.req i).tenant d (s.placeData p) = some u) {w : State}
    (marked : w = u.updReq i (fun r => { r with
      parkCopies := r.parkCopies.map (fun c => if c.1 = page then (c.1, c.2.1, true) else c) })) :
    s.parkCopied i page d Stat.ok = if (w.req i).parkCopies.all (fun c => c.2.2) then w.commitPark i else w := by
  subst marked
  unfold State.parkCopied
  extract_lets r
  rw [found]
  dsimp only
  rw [if_neg (by simp [kept, Stat.ok, Stat.poisoned]), if_neg (not_not_intro rfl), filled]

end

section
variable {s : State} {asid : BitVec 16} {vpn status : Nat} {o : LdpcOutcome} (live : s.live = true)
include live

theorem exec_moveCopyDone_of_move {m : MoveRec}
    (move : s.pools.moves.find? (fun m => m.asid = asid.toNat && m.vpn = vpn && m.stage = .copy) = some m)
    (open_ : s.placeOpen m.src = true) :
    exec (.moveCopyDone asid vpn ⟨status, o⟩) s = .next ((s.placeRead m.src o).moveCopied m status) := by
  show execMoveCopyDone asid vpn ⟨status, o⟩ s = _
  unfold execMoveCopyDone
  extract_lets a
  rw [if_neg (by simp [live]), show s.pools.moves.find? _ = some m from move]
  cases s.parkCopyOf a vpn <;> exact if_pos open_

theorem exec_moveCopyDone_of_park {i page : Nat} {d p : Place}
    (none_ : s.pools.moves.find? (fun m => m.asid = asid.toNat && m.vpn = vpn && m.stage = .copy) = none)
    (park : s.parkCopyOf asid.toNat vpn = some (i, page, d)) (found : Tbl.find? (s.req i).pages page = some p)
    (open_ : s.placeOpen p = true) :
    exec (.moveCopyDone asid vpn ⟨status, o⟩) s = .next (s.parkCopied i page d status) := by
  show execMoveCopyDone asid vpn ⟨status, o⟩ s = _
  unfold execMoveCopyDone
  extract_lets a
  rw [if_neg (by simp [live]), show s.pools.moves.find? _ = none from none_, show s.parkCopyOf a vpn = _ from park]
  exact if_pos (by simp [found, open_])

end

/-- A MOVE whose copy is done has its destination as the place of its page; no other request changes. -/
theorem State.remapped_req (u : State) (m : MoveRec) :
    Tbl.find? ((((u.remap m m.dst).setMove m .remapped).secondInv).req m.req).pages m.page = some m.dst ∧
      ∀ k, k ≠ m.req → (((u.remap m m.dst).setMove m .remapped).secondInv).req k = u.req k := by
  have reqs : (((u.remap m m.dst).setMove m .remapped).secondInv).reqs = (u.remap m m.dst).reqs := State.secondInv_reqs _
  obtain ⟨leaf, -, -⟩ := (u.setLeaf_mapped m.asid m.vpn m.dst.leaf).reads
  have req : ∀ k, (((u.remap m m.dst).setMove m .remapped).secondInv).req k = (u.remap m m.dst).req k := fun k => by
    unfold State.req
    rw [reqs]
  refine ⟨?_, fun k other => ?_⟩
  · rw [req, State.remap, State.updReq_req_self]
    exact Tbl.find?_put_self ..
  · rw [req, State.remap, State.updReq_req_ne _ _ other, State.req, leaf]
    rfl

/-- Settles O22: FREE and MOVE by whose page it is and what touches it, the end of a copy by what became of its source and of the copy. -/
theorem tierMoves : Obligations.TierMoves := by
  unfold Obligations.TierMoves
  refine ⟨fun s asid vpn i page p live still own found quiet free here => ?freePage,
    fun s asid vpn k p live still none_ own found quiet here => ?freePlot, fun s asid vpn live => ?stays,
    fun s u asid vpn i page tier p d live idle still own dst right => exec_tierMove_of_dst live idle still own dst right,
    fun s asid vpn tier live none_ => exec_tierMove_of_none none_, fun s m live idle => ⟨_, rfl, State.beginMove_reads live idle m⟩,
    fun s asid vpn status o m live move open_ => ?moveEnd, fun u m => ⟨_, rfl, u.remapped_req m⟩,
    fun s asid vpn status i page o d p live none_ park found open_ => ?parkEnd⟩
  case freePage =>
    obtain ⟨reqs, -, tenants⟩ := (s.setPage_mapped (s.req i).seq.asid ((s.req i).seq.vpn page) leafEmpty).reads
    refine ⟨_, ?_, rfl, ?_, ?_⟩
    · rw [exec_tierFree_of_page live still own, if_neg (by simp [quiet, free, here]), State.freePage_of_found found,
        State.freePlace_of_here _ _ _ here]
    · rw [State.credit_reqs, State.givePlot_reqs, State.updReq, reqs]
      rfl
    · rw [State.credit_tenant_self, nth_setNth_self, State.tenant, State.givePlot_tenants, State.updReq_tenants, tenants]
      rfl
  case freePlot =>
    obtain ⟨reqs, slots, -⟩ := (s.setPage_mapped (s.tenant (s.slot k).tenant).asid vpn leafEmpty).reads
    refine ⟨_, ?_, rfl, ?_, ?_⟩
    · rw [exec_tierFree_of_slot live still none_ own, if_neg (by simp [quiet]), State.freeSlotPlot_of_found found,
        State.freePlace_of_here _ _ _ here]
    · rw [State.credit_reqs, State.givePlot_reqs, State.updSlot_reqs, reqs]
    · rw [State.slot, State.credit_slots, State.givePlot_slots]
      refine (State.updSlot_slot_self ..).trans ?_
      rw [State.slot, slots]
      rfl
  case stays =>
    rintro (moving | ⟨i, page, p, own, touched⟩)
    · exact exec_tierFree_of_moving moving
    · cases still : s.inMove asid.toNat vpn with
      | true => exact exec_tierFree_of_moving still
      | false =>
        rw [exec_tierFree_of_page live still own, if_pos]
        simpa [or_assoc] using touched
  case moveEnd =>
    intro v tn back
    rw [exec_moveCopyDone_of_move live move open_]
    refine ⟨fun lost => congrArg _ (State.moveCopied_of_lost lost), fun sound kept => ?_⟩
    rw [State.moveCopied_of_kept sound kept]
    refine ⟨fun failed => by rw [if_pos failed], fun ok full => ?_, fun u ok filled => ?_⟩
    · rw [if_neg (not_not_intro ok), show State.fillPlace _ _ _ _ = none from full]
    · rw [if_neg (not_not_intro ok), show State.fillPlace _ _ _ _ = some u from filled]
  case parkEnd =>
    rw [exec_moveCopyDone_of_park live none_ park found open_]
    refine ⟨fun lost => congrArg _ (State.parkCopied_of_lost found lost),
      fun sound kept failed => congrArg _ (State.parkCopied_of_failed found kept sound failed), fun u ok kept filled => ?_⟩
    subst ok
    exact congrArg _ (State.parkCopied_of_filled found kept filled rfl)

end Sys2Proof.Machine
end

section
/-!
PIN, the park in the owner's tiers, the placing of a pull and the plots of a superseded table (R42, R107, R202, R209 to R211, R254): one
equation per case of each command, and from them `TierOperations`.
-/
namespace Sys2Proof.Machine

/-! ## PIN (R107, R202) -/

/-- The other slots that hold a resident plot. -/
def State.otherPins (s : State) (slot tile off : Nat) : List Nat :=
  (Tbl.keys s.slots).filter (fun k => k ≠ slot && (s.slot k).pinned.contains (tile, off))

/-- The other slots' hold on a resident plot is given up, and their charge taken back (R202, R207). -/
def State.unpinOthers (s : State) (slot tile off : Nat) : State :=
  (s.otherPins slot tile off).foldl (fun (s : State) k => (s.credit (s.slot k).tenant 0).updSlot k
    (fun x => { x with pinned := x.pinned.filter (· ≠ (tile, off)) })) s

theorem State.otherPins_of_sole {s : State} {slot tile off : Nat}
    (sole : ∀ k, k ≠ slot → (s.slot k).pinned.contains (tile, off) = false) : s.otherPins slot tile off = [] :=
  List.filter_eq_nil_iff.mpr (fun k _ => by by_cases own : k = slot <;> simp_all)

section
variable {s : State} {tile slot off : Nat} (src : Nat)

theorem State.pinPlot_of_pinned (pinned : (s.slot slot).pinned.contains (tile, off) = true) : s.pinPlot tile slot off src =
    (s.unpinOthers slot tile off).placeBytes (tileBase tile + off) ((s.unpinOthers slot tile off).bytes src 65536) := by
  unfold State.pinPlot
  simp only [if_pos pinned]
  rfl

theorem State.pinPlot_of_new (new : (s.slot slot).pinned.contains (tile, off) = false) {v : State}
    (charged : v = ((s.unpinOthers slot tile off).charge (s.slot slot).tenant 0).updSlot slot
      (fun x => { x with pinned := (tile, off) :: x.pinned })) :
    s.pinPlot tile slot off src = v.placeBytes (tileBase tile + off) (v.bytes src 65536) := by
  subst charged
  unfold State.pinPlot
  simp only [new, Bool.false_eq_true, if_false]
  rfl

end

theorem exec_pin_of_ok {s : State} {tile : Fin 48} {slot off src : Nat} (live : s.live = true)
    (held : (s.slot slot).st = .loading ∨ (s.slot slot).st = .loaded)
    (room : (s.slot slot).pinned.contains (tile.val, off) = true ∨ 0 < s.quotaLeft (s.slot slot).tenant 0)
    (ok : s.pinOk tile.val off = true) (access : s.accStatus .control .read src 65536 = Stat.ok) (open_ : s.memOpen src 65536 = true) :
    exec (.pin tile slot off src) s = .next (s.pinPlot tile.val slot off src) := by
  refine if_neg ?_
  simp only [live, ok, access, open_, Bool.or_eq_true, Bool.and_eq_true, Bool.not_eq_true', decide_eq_true_eq, ne_eq, not_true_eq_false,
    or_false, Bool.true_eq_false, Bool.or_eq_false_iff, decide_eq_false_iff_not, false_or, not_or, not_and]
  exact ⟨fun loading => not_not_intro (held.resolve_left loading), fun free => not_not_intro (room.resolve_left (ne_true_of_eq_false free))⟩

/-! ## LOCAL_PARK (R210, R212) -/

/-- The pages of a request that a park moves. -/
def Req.parkPages (r : Req) : List Nat := (r.pages.filter (fun e => (parkFrom r.parkTarget).contains e.2.tier)).map (·.1)

/-- A park with no copies commits at once. -/
theorem State.commitPark_of_none {s : State} {i : Nat} (none_ : (s.req i).parkCopies = []) : s.commitPark i =
    ((s.updReq i (fun r => { r with st := .parked, parkCopies := [], opPark := none, parkAt := s.ltu, ttlOn := true })).completeIf
      (s.req i).opPark (s.req i).reqId 2 Stat.ok (s.req i).pages.length).rebind i := by
  simp only [State.commitPark, none_, List.foldl_nil]

section
variable {s : State} {req : Nat} (live : s.live = true) (alive : (s.req req).isLive = true) (st : (s.req req).st = .parking)
  (target : (s.req req).parkTarget = 2 ∨ (s.req req).parkTarget = 3) (none_ : (s.req req).parkCopies = [])
  (quiet : s.reqNamed req = false) (free : s.tierBusy req = false)
include live alive st target none_ quiet free

theorem localPark_acts : ¬ (!s.live || !(s.req req).isLive || decide ((s.req req).st ≠ .parking) ||
    (decide ((s.req req).parkTarget ≠ 2) && decide ((s.req req).parkTarget ≠ 3)) || !(s.req req).parkCopies.isEmpty || s.reqNamed req ||
      s.tierBusy req) = true := by
  simpa [live, alive, st, none_, quiet, free] using fun two => target.resolve_left two

theorem exec_localPark_of_nothing (nothing : (s.req req).parkPages = []) : exec (.localPark req) s = .next (s.commitPark req) := by
  show execLocalPark req s = _
  unfold Req.parkPages at nothing
  simp only [execLocalPark, if_neg (localPark_acts live alive st target none_ quiet free), nothing, List.isEmpty_nil, if_true]

variable (moves : (s.req req).parkPages ≠ [])
include moves

theorem exec_localPark_of_refused (refused : s.quotaLeft (s.req req).tenant (s.req req).parkTarget < (s.req req).parkPages.length ∨
    s.reservePark (s.req req).parkTarget (s.req req).parkPages = none) :
    exec (.localPark req) s = .next (s.killPark req Stat.quotaExceeded 0) := by
  show execLocalPark req s = _
  unfold Req.parkPages at moves refused
  simp only [execLocalPark, if_neg (localPark_acts live alive st target none_ quiet free), if_neg (mt List.isEmpty_iff.mp moves)]
  rcases refused with quota | full
  · rw [if_pos quota]
  · rw [full, ite_self]

theorem exec_localPark_of_reserved (room : (s.req req).parkPages.length ≤ s.quotaLeft (s.req req).tenant (s.req req).parkTarget)
    {u : State} {cs : List (Nat × Place × Bool)}
    (reserved : s.reservePark (s.req req).parkTarget (s.req req).parkPages = some (u, cs)) :
    exec (.localPark req) s = .next (u.updReq req (fun r => { r with parkCopies := cs })) := by
  show execLocalPark req s = _
  unfold Req.parkPages at moves room reserved
  simp only [execLocalPark, if_neg (localPark_acts live alive st target none_ quiet free), if_neg (mt List.isEmpty_iff.mp moves),
    if_neg (Nat.not_lt.mpr room), reserved]

end

/-! ## PULL_PLACE (R42, R208, R211) -/

section
variable {s : State} {req page : Nat} {o : LdpcOutcome} {p : Place} (live : s.live = true) (alive : (s.req req).isLive = true)
  (st : (s.req req).st = .resuming) (own : (s.req req).resumeDev = 0) (due : (s.req req).pull.contains page = true)
  (found : Tbl.find? (s.req req).pages page = some p)
include live alive st own due found

theorem exec_pullPlace_of_page : exec (.pullPlace req ⟨page, o⟩) s =
    .next (if p = .holder then (s.pullRemote req page).graftPump else s.pullLocal req page p o) := by
  have acts : ¬ (!s.live || !(s.req req).isLive || decide ((s.req req).st ≠ .resuming) || decide ((s.req req).resumeDev ≠ 0) ||
      !((s.req req).pull.contains page)) = true := by
    simp only [live, alive, st, own, due]
    decide
  refine (if_neg acts).trans ?_
  rw [found]
  cases p <;> simp only [reduceCtorEq, if_true, if_false]

end

section
variable {s : State} {i page : Nat} {p : Place} {o : LdpcOutcome}

theorem State.pullLocal_of_lost (lost : s.placeLost p = true) : s.pullLocal i page p o = s.recover i :=
  if_pos lost

variable (kept : s.placeLost p = false) (open_ : s.placeOpen p = true)
include kept open_

/-- A page stays where it is: in T1, or in T2 without room in T1 outside compatibility mode (R208, R211). -/
theorem State.pullLocal_of_stays (stays : p.tier = 1 ∨ p.tier = 2 ∧ s.roomT1 i page = false ∧ s.cfg.dev.compat = false) :
    s.pullLocal i page p o = s.pullKept i page := by
  unfold State.pullLocal
  extract_lets tn
  rw [if_neg (by simp [kept]), if_neg (by simp [open_]), if_pos]
  simpa [and_assoc] using stays

variable (one : p.tier ≠ 1) (two : p.tier = 2 → s.roomT1 i page = true ∨ s.cfg.dev.compat = true)
include one two

theorem State.pullLocal_of_moves : s.pullLocal i page p o =
    if (s.placeRead p o).placeLost p then (s.placeRead p o).recover i
    else match s.roomPulled i page with
      | none => s
      | some u => (((u.fillPulled i page (s.placeData p)).countRead (s.req i).tenant p).placeRead p o).freePlace (s.req i).tenant p := by
  have moves : ¬ (decide (p.tier = 1) || (decide (p.tier = 2) && !(s.roomT1 i page) && !s.cfg.dev.compat)) = true := by
    simp only [Bool.or_eq_true, Bool.and_eq_true, decide_eq_true_eq, Bool.not_eq_true', one, false_or, not_and, Bool.not_eq_false]
    exact fun lower => (two lower.1).resolve_left (ne_true_of_eq_false lower.2)
  unfold State.pullLocal State.placePulled
  extract_lets tn
  rw [if_neg (by simp [kept]), if_neg (by simp [open_]), if_neg moves]
  cases s.roomPulled i page <;> rfl

end

/-! ## Superseded tables (R254) -/

theorem Tbl.del_of_find_none {α : Type} {t : Tbl α} {i : Nat} (none_ : Tbl.find? t i = none) : Tbl.del t i = t := by
  induction t with
  | nil => rfl
  | cons e t ih =>
    obtain ⟨k, v⟩ := e
    by_cases same : k = i
    · simp [Tbl.find?, same] at none_
    · simp only [Tbl.find?, same, if_false] at none_
      simp [Tbl.del, same, ih none_]

/-- A slot whose plot is freed maps its page no longer, and is otherwise as it was. -/
theorem State.freeSlotPlot_slot (s : State) (k vpn : Nat) :
    (s.freeSlotPlot k vpn).slot k = { s.slot k with plots := Tbl.del (s.slot k).plots vpn } := by
  cases found : Tbl.find? (s.slot k).plots vpn with
  | none =>
    rw [Tbl.del_of_find_none found]
    unfold State.freeSlotPlot
    extract_lets m
    rw [found]
  | some p =>
    obtain ⟨-, slots, -⟩ := (s.setPage_mapped (s.tenant (s.slot k).tenant).asid vpn leafEmpty).reads
    rw [State.freeSlotPlot_of_found found, State.slot, State.freePlace_slots]
    refine (State.updSlot_slot_self ..).trans ?_
    rw [State.slot, slots]
    rfl

theorem State.foldl_freeSlotPlot_slot (s : State) (k : Nat) (vpns : List Nat) :
    (vpns.foldl (fun (s : State) v => s.freeSlotPlot k v) s).slot k =
      { s.slot k with plots := vpns.foldl (fun q v => Tbl.del q v) (s.slot k).plots } := by
  induction vpns generalizing s with
  | nil => rfl
  | cons v vpns ih => rw [List.foldl_cons, ih, State.freeSlotPlot_slot]; rfl

/-- The pages of a superseded table that the slot's current one does not name. -/
def State.tableGone (s : State) (m : Slot) (desc : Nat) : List Nat :=
  (s.tablePages m desc).filter (fun v => !((if m.embDesc = 0 then [] else s.tablePages m m.embDesc).contains v))

theorem exec_tableOldFree_of_unused {s : State} {slot : Fin 16384} {version : BitVec 16} {o : Nat × Nat} (live : s.live = true)
    (old : (s.slot slot.val).oldTables.find? (fun o => o.1 = version.toNat) = some o)
    (unused : Tbl.getD (s.slot slot.val).pins o.2 0 = 0) : exec (.tableOldFree slot version) s =
      .next (((s.tableGone (s.slot slot.val) o.2).foldl (fun (s : State) v => s.freeSlotPlot slot.val v) s).updSlot slot.val
        (fun m => { m with oldTables := m.oldTables.erase o, pins := Tbl.del m.pins o.2 })) := by
  show execTableOldFree slot version s = _
  unfold execTableOldFree
  extract_lets m
  rw [show m.oldTables.find? _ = some o from old]
  exact if_neg (by simp [live, m, unused])

/-- Settles O23: PIN by whether its room already holds the plot, a park by the pages it moves and the room for them, a pull by where its
page lies and whether it can be read; a superseded table's pages go one after another. -/
theorem tierOperations : Obligations.TierOperations := by
  unfold Obligations.TierOperations
  refine ⟨fun s tile slot off src live held pinned sole ok access open_ => ?pinned,
    fun s tile slot off src live held new room ok access open_ => ?new,
    fun s u req cs live alive st target none_ quiet free => ?park,
    fun s req page o p live alive st own due found => ?pull, fun s slot version o live old unused => ?table⟩
  case pinned =>
    have run : exec (.pin tile slot off src) s = .next (s.placeBytes (tileBase tile.val + off) (s.bytes src 65536)) := by
      rw [exec_pin_of_ok live held (.inl pinned) ok access open_, State.pinPlot_of_pinned src pinned, State.unpinOthers,
        State.otherPins_of_sole sole, List.foldl_nil]
    obtain ⟨mem, -⟩ := s.placeBytes_reads (tileBase tile.val + off) (s.bytes src 65536)
    refine ⟨_, run, rfl, mem, fun k away => ?_⟩
    rw [mem]
    exact memGet_memPut_ne _ _ _ (by rwa [State.bytes_length])
  case new =>
    intro others u v
    rw [exec_pin_of_ok live held (.inr room) ok access open_, State.pinPlot_of_new src new (v := v) rfl]
  case park =>
    refine ⟨fun nothing => ?_, exec_localPark_of_refused live alive st target none_ quiet free,
      fun moves room reserved => exec_localPark_of_reserved live alive st target none_ quiet free moves room reserved⟩
    rw [exec_localPark_of_nothing live alive st target none_ quiet free nothing, State.commitPark_of_none none_]
  case pull =>
    intro kept
    have run := exec_pullPlace_of_page (o := o) live alive st own due found
    refine ⟨fun holder => ?_, fun here lost => ?_, fun here sound open_ => ⟨fun stays => ?_, fun one two => ?_⟩⟩
    · rw [run, if_pos holder]
    · rw [run, if_neg here, State.pullLocal_of_lost lost]
    · rw [run, if_neg here, State.pullLocal_of_stays sound open_ stays]
      rfl
    · rw [run, if_neg here, State.pullLocal_of_moves sound open_ one two]
      refine ⟨fun lost => ?_, fun readable => ⟨fun full => ?_, fun u room => ?_⟩⟩
      · rw [if_pos lost]
      · rw [if_neg (by simp [readable]), full]
      · rw [if_neg (by simp [readable]), room]
  case table =>
    intro m kept gone
    refine ⟨_, exec_tableOldFree_of_unused live old unused, rfl, ?_⟩
    rw [State.updSlot_slot_self, State.foldl_freeSlotPlot_slot]
    rfl

end Sys2Proof.Machine
end

section
/-!
The compressor (R239 to R245, R248, R264): what bytes placed in a tile's own scratchpad leave, then one equation per case of a tile's
operation and of a RING channel's descriptor, and from them `CompressorRuns`.
-/
namespace Sys2Proof.Machine

/-! ## Bytes in a tile's own scratchpad (R70, R84) -/

/-- A scratchpad's own offsets lie in its tile's window. -/
theorem regionOf_tileBase {t off : Nat} (tile : t < 48) (inside : off < scratchBytes t) : regionOf (tileBase t + off) = .tileWin t off := by
  have room : scratchBytes t < 0x4000000 := by
    unfold scratchBytes
    split <;> decide
  have place : tileBase t + off - 0x20000000000 = off + 0x4000000 * t := by
    unfold tileBase
    omega
  have window : (off + 0x4000000 * t) / 0x4000000 = t ∧ (off + 0x4000000 * t) % 0x4000000 = off := by omega
  have low : 0x20000000000 ≤ tileBase t + off ∧ tileBase t + off < 0x200C0000000 := by
    unfold tileBase
    omega
  unfold regionOf
  rw [if_neg (by omega), if_neg (by omega), if_neg (by omega), if_neg (by omega), if_pos low.2, place]
  simp only [window, inside, if_true]

theorem State.killResv_tile_ne (s : State) {a t off k : Nat} (window : regionOf a = .tileWin t off) (other : k ≠ t) (n : Nat) :
    (s.killResv a n).tile k = s.tile k := by
  unfold State.killResv
  rw [window]
  exact State.updTile_tile_ne _ _ other

theorem State.wrBytes_tile (s : State) (a : Nat) (bs : List Byte) (k : Nat) : (s.wrBytes a bs).tile k = s.tile k := by
  unfold State.tile
  rw [State.wrBytes_tiles]

/-- Bytes placed in a tile's window leave every other tile. -/
theorem State.placeBytes_tile_ne (s : State) {a t off k : Nat} (window : regionOf a = .tileWin t off) (other : k ≠ t) (bs : List Byte) :
    (s.placeBytes a bs).tile k = s.tile k := (State.killResv_tile_ne _ window other _).trans (s.wrBytes_tile ..)

theorem State.updCmd_tile_ne (s : State) {t k : Nat} (f : TileCmd → TileCmd) (other : k ≠ t) : (s.updCmd t f).tile k = s.tile k :=
  State.updTile_tile_ne _ _ other

/-- Every range of an operation whose ranges are in order lies in its tile's scratchpad. -/
theorem inside_of_extentStatus {t res : Nat} {rs ws : List (Nat × Nat)} (ok : extentStatus t res rs ws = Stat.ok) :
    ∀ r ∈ rs ++ ws, r.1 + r.2 ≤ scratchBytes t := by
  unfold extentStatus at ok
  split at ok
  · exact absurd ok (by decide)
  · next all =>
    intro r listed
    rw [Bool.not_eq_true', Bool.not_eq_false, List.all_eq_true] at all
    exact of_decide_eq_true (all r listed)

/-! ## A tile's operation (R239 to R241, R243, R245) -/

/-- The fields of a valid operation say what COP says. -/
theorem tileComp_decomp {d : Nat} {a : CompArgs} (valid : tileComp d = some a) : a.decomp = decide (fld d 0x24 1 = 2) := by
  unfold tileComp at valid
  extract_lets _ b at valid
  split at valid
  · exact (congrArg CompArgs.decomp (Option.some.inj valid)).symm
  · cases valid

section
variable {s : State} {tile : Fin 48} {h cop : Nat} {c : TileCmd} {o : Op} (op : s.compOp? tile.val h (.tileDma tile h) = some (c, o))
  (own : fld o.desc 0x24 1 = cop)
include op own

theorem State.compTile_of_invalid (invalid : tileComp o.desc = none) :
    s.compTile tile h cop = s.failCmd tile.val Stat.opInvalid := by
  simp [State.compTile, op, own, invalid]

variable {a : CompArgs} (valid : tileComp o.desc = some a)
  (entry : extentStatus tile.val (s.tile tile.val).resBytes [] [(fld o.desc 0x38 4, 16)] = Stat.ok)
include valid entry

theorem State.compTile_of_remote (begins : o.phase ≠ .active) (remote : s.dstRemote tile.val c a.dsts = true) :
    s.compTile tile h cop = s.failAccess tile.val Stat.accessDenied := by
  simp [State.compTile, op, own, valid, entry, begins, remote]

/-- An operation whose checks hold goes on as far as its frames come. -/
theorem State.compTile_of_run (near : o.phase ≠ .active → s.dstRemote tile.val c a.dsts = false)
    (room : a.decomp = true ∨ 3 ≤ (s.compOf (dieOfTile tile.val)).share) {u : State} {p : CompProg} {e : Option FrameEnd}
    (run : State.compRun { ag := .tileDma tile h, eng := dieOfTile tile.val, fw := false, tenant := cdTenant c.desc,
                           addr := State.tileAddr tile.val c } a a.moves o.prog s = (u, p, e)) :
    s.compTile tile h cop = Claims.compTile u tile h o a p e := by
  have here : ¬ (o.phase ≠ .active && s.dstRemote tile.val c a.dsts) = true := by simpa using near
  have share : ¬ (!a.decomp && decide ((s.compOf (dieOfTile tile.val)).share < 3)) = true := by
    rcases room with d | d <;> simp [d]
  unfold State.compTile
  simp only [op, valid]
  rw [if_neg (by simp [own]), if_neg (not_not_intro entry), if_neg here, if_neg share, run]
  rfl

end

/-- The end of an operation all of whose frames came through: its entry is written and nothing else of another tile. -/
theorem Claims.compTile_done (u : State) (tile : Fin 48) (h : Nat) (o : Op) (a : CompArgs) (p : CompProg) {res : Nat}
    (entry : extentStatus tile.val res [] [(fld o.desc 0x38 4, 16)] = Stat.ok) :
    let t := Claims.compTile u tile h o a p none
    t.mem = memPut memKey u.mem (tileBase tile.val + fld o.desc 0x38 4) (toBytes 16 (dmaEntry h Stat.ok 2 (a.count * 4096))) ∧
      t = { u with mem := t.mem, tiles := t.tiles } ∧ ∀ k, k ≠ tile.val → t.tile k = u.tile k := by
  intro t
  have run : t = (u.placeBytes (tileBase tile.val + fld o.desc 0x38 4) (toBytes 16 (dmaEntry h Stat.ok 2 (a.count * 4096)))).updCmd
      tile.val (fun c => c.setOp h (fun o => { o with phase := .executed })) := rfl
  have inside := inside_of_extentStatus entry (fld o.desc 0x38 4, 16) (by simp)
  rw [run]
  refine ⟨?mem, ?frame, fun k other => ?tiles⟩
  case mem => rw [State.updCmd_mem, (u.placeBytes_reads _ _).1]
  case frame => rw [State.updCmd_frame, State.placeBytes_frame]
  case tiles => rw [State.updCmd_tile_ne _ _ other, u.placeBytes_tile_ne (regionOf_tileBase tile.isLt (by omega)) other]

/-! ## A RING channel's descriptor (R239, R242, R243, R248) -/

section
variable {s u : State} {eng : Fin 5} {ch : Fin 64} {p : CompProg} {e : Option FrameEnd}

theorem State.compChan_of_run {f : Xfer} {a : CompArgs}
    (run : State.compRun { ag := .dma eng ch, eng := eng.val, fw := true, tenant := rdTenant f.desc, addr := fun s a _ => (s, .ok a) }
      a a.moves f.prog s = (u, p, e)) : s.compChan eng ch f a = Claims.compRing u eng ch f p e := by
  simp only [State.compChan, run]
  rfl

/-- A descriptor that the channel has begun goes on. -/
theorem State.compRing_of_begun {f : Xfer} {kind : Nat} (live : s.live = true) (begun : (s.dch eng.val ch.val).xfer = some f)
    (todo : f.todo = true) (fetched : s.waiting (.dma eng ch) = []) (runs : (s.dch eng.val ch.val).state ≠ .stopping)
    (clock : (s.die eng.val).clockLost = false) (own : rdKind f.desc = kind) :
    s.compRing eng ch kind = s.compChan eng ch f (ringComp f.desc) := by
  simp [State.compRing, live, begun, todo, fetched, runs, clock, own]

variable {d kind : Nat} (next : s.nextDesc eng.val ch.val = some d) (idle : (s.dch eng.val ch.val).xfer = none)
  (good : crcOk d 64 = true) (own : rdKind d = kind) (one : 1 ≤ kind) (four : kind ≤ 4)
include next idle good own one four

theorem State.compRing_of_invalid (invalid : ringCompStatus eng.val d ≠ Stat.ok) :
    s.compRing eng ch kind = s.endDesc eng.val ch.val d (ringCompStatus eng.val d) := by
  simp only [State.compRing, idle, State.takeDesc_of_kind next good own one four, if_pos invalid]

variable (valid : ringCompStatus eng.val d = Stat.ok) (clock : (s.die eng.val).clockLost = false)
include valid clock

theorem State.compRing_of_full (compress : kind = 3) (full : (s.compOf eng.val).share < 3) :
    s.compRing eng ch kind = s.endDesc eng.val ch.val d Stat.noResource := by
  simp only [State.compRing, idle, State.takeDesc_of_kind next good own one four]
  rw [if_neg (not_not_intro valid), if_neg (by simp [clock]), if_pos (by simp [compress, full])]

theorem State.compRing_of_taken (room : kind = 3 → 3 ≤ (s.compOf eng.val).share) : s.compRing eng ch kind =
    (s.updDch eng.val ch.val DmaCh.fetched).compChan eng ch { desc := d, cap := 0, todo := true } (ringComp d) := by
  simp only [State.compRing, idle, State.takeDesc_of_kind next good own one four]
  rw [if_neg (not_not_intro valid), if_neg (by simp [clock]), if_neg (by simpa using room)]

end

/-- Settles O28: a tile's operation by its fields, its destinations and the die's share, a descriptor by whether its channel has begun
it and then by its fields; both end as their frames do. -/
theorem compressorRuns : Obligations.CompressorRuns := by
  unfold Obligations.CompressorRuns
  refine ⟨?tile, fun s tile h c o op => ?checks, ?begun, ?fetched, fun s cd live => ⟨_, if_neg (by simp [live]), rfl,
    fun k other => s.updComp_compOf_ne _ other, s.updComp_compOf_self ..⟩⟩
  case tile =>
    intro s u tile h c o a p e op valid entry near run
    refine ⟨fun own room => congrArg _ (State.compTile_of_run op own valid entry near (.inr room) run), fun own => ?decompress,
      _, rfl, Claims.compTile_done u tile h o a p entry⟩
    have decomp : a.decomp = true := by rw [tileComp_decomp valid, own]; rfl
    exact congrArg _ (State.compTile_of_run op own valid entry near (.inl decomp) run)
  case checks =>
    exact ⟨fun own invalid => congrArg _ (State.compTile_of_invalid op own invalid),
      fun own invalid => congrArg _ (State.compTile_of_invalid op own invalid), fun a valid begins remote entry =>
        ⟨fun own => congrArg _ (State.compTile_of_remote op own valid entry begins remote),
          fun own => congrArg _ (State.compTile_of_remote op own valid entry begins remote)⟩⟩
  case begun =>
    intro s u eng ch f p e live begun todo fetched runs clock run
    have goes : ∀ kind, rdKind f.desc = kind → s.compRing eng ch kind = Claims.compRing u eng ch f p e := fun kind own =>
      (State.compRing_of_begun live begun todo fetched runs clock own).trans (State.compChan_of_run run)
    exact ⟨fun own => congrArg _ (goes 3 own), fun own => congrArg _ (goes 4 own)⟩
  case fetched =>
    intro s u eng ch d p e next idle good _ ends
    refine ⟨fun invalid => ⟨fun own => ?_, fun own => ?_⟩,
      fun valid clock => ⟨fun own full => ?_, fun run => ⟨fun own room => ?_, fun own => ?_⟩⟩⟩
    · exact congrArg _ (State.compRing_of_invalid next idle good own (by decide) (by decide) invalid)
    · exact congrArg _ (State.compRing_of_invalid next idle good own (by decide) (by decide) invalid)
    · exact congrArg _ (State.compRing_of_full next idle good own (by decide) (by decide) valid clock rfl full)
    · exact congrArg _ ((State.compRing_of_taken next idle good own (by decide) (by decide) valid clock (fun _ => room)).trans
        (State.compChan_of_run run))
    · exact congrArg _ ((State.compRing_of_taken next idle good own (by decide) (by decide) valid clock (by simp)).trans
        (State.compChan_of_run run))

end Sys2Proof.Machine
end

section
/-!
The Sieve's UNIQUE, SCATTER_ADD and SCATTER_WRITE (R254 to R260): work that stays in a tile's own scratchpad, where each operation writes,
one equation per case of each command, and from them `SieveUpdates`.
-/
namespace Sys2Proof.Machine

/-! ## Work that stays in a tile's own scratchpad -/

/-- What an operation that writes a tile's scratchpad leaves: memory, reservations of the tile's threads, and a free value. -/
def InWindow (t : Nat) (s u : State) : Prop :=
  u = { s with tiles := u.tiles, mem := u.mem, fresh := u.fresh } ∧ (∀ k, k ≠ t → u.tile k = s.tile k) ∧
    (u.cmd? t).map (·.ops) = (s.cmd? t).map (·.ops)

theorem InWindow.refl (t : Nat) (s : State) : InWindow t s s := ⟨rfl, fun _ _ => rfl, rfl⟩

theorem InWindow.trans {t : Nat} {r s u : State} (first : InWindow t r s) (second : InWindow t s u) : InWindow t r u := by
  obtain ⟨frame, tiles, ops⟩ := first
  obtain ⟨frame', tiles', ops'⟩ := second
  refine ⟨?_, fun k other => (tiles' k other).trans (tiles k other), ops'.trans ops⟩
  rw [frame', frame]

theorem InWindow.foldl {α : Type} {t : Nat} {f : State → α → State} {l : List α} (each : ∀ e ∈ l, ∀ s, InWindow t s (f s e))
    (s : State) : InWindow t s (l.foldl f s) := by
  induction l generalizing s with
  | nil => exact InWindow.refl t s
  | cons e l ih =>
    exact (each e (List.mem_cons_self ..) s).trans (ih (fun e' listed => each e' (List.mem_cons_of_mem _ listed)) (f s e))

theorem State.draw_inWindow (t : Nat) (s : State) : InWindow t s s.draw := ⟨rfl, fun _ _ => rfl, rfl⟩

/-- Reservations lost leave a command's operations. -/
theorem State.placeBytes_ops (s : State) (a : Nat) (bs : List Byte) (t : Nat) :
    ((s.placeBytes a bs).cmd? t).map (·.ops) = (s.cmd? t).map (·.ops) := by
  unfold State.placeBytes State.killResv State.cmd?
  split
  · next u off _ =>
    by_cases same : t = u
    · rw [same, State.updTile_tile_self, Option.map_map, State.wrBytes_tile]
      rfl
    · rw [State.updTile_tile_ne _ _ same, State.wrBytes_tile]
  · rw [State.wrBytes_tile]

theorem State.placeBytes_inWindow {a t off : Nat} (window : regionOf a = .tileWin t off) (s : State) (bs : List Byte) :
    InWindow t s (s.placeBytes a bs) :=
  ⟨by rw [State.placeBytes_frame], fun k other => s.placeBytes_tile_ne window other bs, s.placeBytes_ops ..⟩

theorem State.putCodes_inWindow {t off : Nat} (tile : t < 48) (inside : off < scratchBytes t) (w : Nat) (s : State) (cs : List Nat) :
    InWindow t s (s.putCodes t off w cs) := State.placeBytes_inWindow (regionOf_tileBase tile inside) s _

theorem State.sieveDone_mem (s : State) (t h : Nat) : (s.sieveDone t h).mem = s.mem := rfl
theorem State.sieveDone_fresh (s : State) (t h : Nat) : (s.sieveDone t h).fresh = s.fresh := rfl

/-- An operation whose writes stayed in its tile's scratchpad is executed, and its die's Sieve has completed one more. -/
theorem sieveRan_sieveDone {s w : State} {t h : Nat} {c : TileCmd} (cmd : s.cmd? t = some c) (work : InWindow t s w) :
    Claims.sieveRan s w (w.sieveDone t h) t h c := by
  obtain ⟨frame, tiles, ops⟩ := work
  rw [cmd] at ops
  have sieve : w.sieveOf (dieOfTile t) = s.sieveOf (dieOfTile t) := by
    unfold State.sieveOf
    rw [frame]
  refine ⟨rfl, ?frame, fun k other => ?tiles, ?ops, ?sieve⟩
  case frame =>
    rw [State.sieveDone, State.opDone, State.updCmd_frame, frame]
    rfl
  case tiles => exact (State.updCmd_tile_ne w _ other).trans (tiles k other)
  case ops =>
    show ((w.opDone t h).cmd? t).map (·.ops) = _
    rw [State.opDone, State.updCmd_cmd?, Option.map_map]
    obtain ⟨b, cur, same⟩ := Option.map_eq_some_iff.mp ops
    rw [cur, Option.map_some]
    exact congrArg (fun l : List Op => some (l.map (fun o => if o.handle = h then { o with phase := .executed } else o))) same
  case sieve =>
    rw [← sieve]
    exact State.updSieve_sieveOf_self ..

/-! ## The operation's command and indices (R256, R257) -/

theorem State.cmd?_of_engine? {s : State} {t h opc : Nat} {c : TileCmd} {o : Op} (op : s.engine? t h opc = some (c, o)) :
    s.cmd? t = some c := by
  unfold State.engine? at op
  split at op
  · cases op
  · split at op
    · cases op
    · next b cur =>
      split at op
      · cases op
      · split at op
        · cases op
          exact cur
        · cases op

/-- The operation that a Sieve row works on is one of its tile's command. -/
theorem State.cmd?_of_sieveOp? {s : State} {t h sop : Nat} {ag : Agent} {c : TileCmd} {o : Op}
    (op : s.sieveOp? t h sop ag = some (c, o)) : s.cmd? t = some c := by
  unfold State.sieveOp? at op
  extract_lets ours at op
  split at op
  · cases op
  · split at op
    · next r engine =>
      split at op
      · cases op
        exact State.cmd?_of_engine? engine
      · cases op
    · split at op
      · cases op
      · split at op
        · cases op
        · next b cur =>
          split at op
          · cases op
          · split at op
            · cases op
              exact cur
            · cases op

/-- Indices in order are below their limit. -/
theorem State.lt_of_indices {s : State} {t a n limit : Nat} {idx : List Nat} (read : s.indices t a n limit = some idx) :
    ∀ x ∈ idx, x < limit := by
  unfold State.indices at read
  extract_lets l at read
  split at read
  · next all =>
    rw [← Option.some.inj read]
    intro x listed
    have both := List.all_eq_true.mp all x listed
    simp only [Bool.and_eq_true, decide_eq_true_eq] at both
    exact both.2
  · cases read

/-- Runs of repeated elements cut to one bring no new element. -/
theorem mem_of_mem_eraseRepsByLoop {α : Type} {r : α → α → Bool} {x a : α} {l acc : List α}
    (kept : x ∈ List.eraseRepsBy.loop r a l acc) : x = a ∨ x ∈ l ∨ x ∈ acc := by
  induction l generalizing a acc with
  | nil => simpa [List.eraseRepsBy.loop, or_comm] using kept
  | cons b l ih =>
    rw [List.eraseRepsBy.loop] at kept
    split at kept
    · exact (ih kept).imp_right (Or.imp_left (List.mem_cons_of_mem b))
    · rcases ih kept with rfl | listed | done
      · exact .inr (.inl (List.mem_cons_self ..))
      · exact .inr (.inl (List.mem_cons_of_mem b listed))
      · exact (List.mem_cons.mp done).imp_right .inr

/-- The unique indices are among the indices. -/
theorem mem_of_mem_uniques {idx : List Nat} {x : Nat} (unique : x ∈ uniques idx) : x ∈ idx := by
  unfold uniques List.eraseReps List.eraseRepsBy at unique
  refine (List.mem_mergeSort (le := (· ≤ ·))).mp ?_
  generalize idx.mergeSort (· ≤ ·) = l at unique ⊢
  cases l with
  | nil => cases unique
  | cons a l =>
    simpa using mem_of_mem_eraseRepsByLoop unique

/-! ## Where a scatter writes (R259, R260) -/

/-- A byte of a row of the target lies in the target. -/
theorem row_lt_rowsSpan {rows stride bytes j b : Nat} (row : j < rows) (byte : b < bytes) :
    j * stride + b < rowsSpan rows stride bytes := by
  have : j * stride ≤ (rows - 1) * stride := Nat.mul_le_mul_right _ (by omega)
  unfold rowsSpan
  omega

/-- An atomic of a row starts in the row. -/
theorem lt_of_mem_rowAtoms {bytes : Nat} {a : Nat × Nat} (atom : a ∈ rowAtoms bytes) : a.1 < bytes := by
  simp only [rowAtoms, List.mem_append, List.mem_map, List.mem_range] at atom
  rcases atom with (⟨k, word, rfl⟩ | half) | lane
  · dsimp only
    omega
  · split at half
    · cases half
    · obtain rfl := List.mem_singleton.mp half
      dsimp only
      omega
  · split at lane
    · obtain rfl := List.mem_singleton.mp lane
      dsimp only
      omega
    · cases lane

/-- The contributions are those of the value rows, in whatever order they arrive. -/
theorem mem_arrivalOrder {draw n : Nat} {atoms : List (Nat × Nat)} {e : Nat × Nat × Nat} (arrives : e ∈ arrivalOrder draw n atoms) :
    e.1 < n ∧ e.2 ∈ atoms := by
  simp only [arrivalOrder, List.mem_mergeSort, List.mem_flatten, List.mem_map, List.mem_range] at arrives
  obtain ⟨_, ⟨i, row, rfl⟩, listed⟩ := arrives
  obtain ⟨a, atom, rfl⟩ := List.mem_map.mp listed
  exact ⟨row, atom⟩

theorem nth_mem {α : Type} {l : List α} {i : Nat} (within : i < l.length) (d : α) : nth l i d ∈ l := by
  have found : nth l i d = l[i] := by
    unfold nth
    rw [List.getD_eq_getElem?_getD, List.getElem?_eq_getElem within, Option.getD_some]
  rw [found]
  exact List.getElem_mem within

/-! ## UNIQUE (R254, R257) -/

/-- What UNIQUE writes, one array after the other: the unique indices, each index's place among them, their counts, their last places and
their number. -/
def State.putOrder (s : State) (t out n : Nat) (r : Order) : State :=
  ((((s.putCodes t out 32 r.u).putCodes t (out + 4 * n) 32 r.inv).putCodes t (out + 8 * n) 32 r.cnt).putCodes t (out + 12 * n) 32
    r.last).putCodes t (out + 16 * n) 32 [r.u.length]

theorem State.putOrder_inWindow {t out n : Nat} (tile : t < 48) (room : out + (16 * n + 4) ≤ scratchBytes t) (s : State) (r : Order) :
    InWindow t s (s.putOrder t out n r) := by
  have put : ∀ k, k ≤ 16 → ∀ (u : State) (cs : List Nat), InWindow t u (u.putCodes t (out + k * n) 32 cs) := fun k few =>
    State.putCodes_inWindow tile (by have := Nat.mul_le_mul_right n few; omega) 32
  have first := State.putCodes_inWindow tile (off := out) (by omega) 32 s r.u
  have counted := (first.trans (put 4 (by decide) _ r.inv)).trans (put 8 (by decide) _ r.cnt)
  exact (counted.trans (put 12 (by decide) _ _)).trans (put 16 (by decide) _ _)

section
variable {s : State} {tile : Fin 48} {h : Nat} {c : TileCmd} {o : Op} (op : s.sieveOp? tile.val h 1 (.tileDma tile h) = some (c, o))
include op

theorem exec_sieveUnique_of_invalid (invalid : svCommonOk o.desc = false) :
    exec (.sieveUnique tile h) s = .next (s.failCmd tile.val Stat.opInvalid) := by
  show execSieveUnique tile h s = _
  simp [execSieveUnique, op, invalid]

theorem exec_sieveUnique_of_indices {idx : List Nat} (valid : svCommonOk o.desc = true) (aligned : svOut o.desc % 128 = 0)
    (ranges : extentStatus tile.val (s.tile tile.val).resBytes [(svIdx o.desc, 4 * svN o.desc)] [(svOut o.desc, 16 * svN o.desc + 4)] =
      Stat.ok) (read : s.indices tile.val (svIdx o.desc) (svN o.desc) (2 ^ 31) = some idx) : exec (.sieveUnique tile h) s =
      .next ((s.putOrder tile.val (svOut o.desc) (svN o.desc) (orderOf idx)).sieveDone tile.val h) := by
  show execSieveUnique tile h s = _
  simp only [execSieveUnique, op]
  rw [if_neg (by simp [valid, aligned]), if_neg (not_not_intro ranges), read]
  rfl

end

/-! ## SCATTER_ADD and SCATTER_WRITE (R259, R260) -/

/-- The verdict on the ranges of a scatter's indices, value rows and target rows. -/
def State.scatterRanges (s : State) (t d : Nat) : Nat :=
  extentStatus t (s.tile t).resBytes [(svIdx d, 4 * svN d), (svVal d, rowsSpan (svN d) (svStride d) (svElems d * svWidth d))]
    [(svTgt d, rowsSpan (svTgtRows d) (svTgtStride d) (svElems d * svWidth d))]

section
variable {s : State} {tile : Fin 48} {h sop : Nat} {c : TileCmd} {o : Op} (op : s.sieveOp? tile.val h sop (.tileDma tile h) = some (c, o))
  {f : State → Nat → List Nat → State}
include op

theorem State.scatterRun_of_invalid (invalid : scatterOk o.desc = false) :
    s.scatterRun tile h sop f = s.failCmd tile.val Stat.opInvalid := by
  simp [State.scatterRun, op, invalid]

variable (valid : scatterOk o.desc = true) (ranges : s.scatterRanges tile.val o.desc = Stat.ok)
include valid ranges

theorem State.scatterRun_of_outOfRange (outside : s.indices tile.val (svIdx o.desc) (svN o.desc) (svTgtRows o.desc) = none) :
    s.scatterRun tile h sop f = s.failCmd tile.val Stat.indexRange := by
  unfold State.scatterRanges at ranges
  simp only [State.scatterRun, op]
  rw [if_neg (by simp [valid]), if_neg (not_not_intro ranges), outside]

theorem State.scatterRun_of_indices {idx : List Nat}
    (read : s.indices tile.val (svIdx o.desc) (svN o.desc) (svTgtRows o.desc) = some idx) :
    s.scatterRun tile h sop f = (f s o.desc idx).sieveDone tile.val h := by
  unfold State.scatterRanges at ranges
  simp only [State.scatterRun, op]
  rw [if_neg (by simp [valid]), if_neg (not_not_intro ranges), read]

end

/-- Every byte of the target rows of a scatter whose ranges are in order lies in its tile's scratchpad. -/
theorem State.target_inside {s : State} {t d j b : Nat} (ranges : s.scatterRanges t d = Stat.ok) (row : j < svTgtRows d)
    (byte : b < svElems d * svWidth d) : svTgt d + (j * svTgtStride d + b) < scratchBytes t := by
  have target := inside_of_extentStatus ranges (svTgt d, rowsSpan (svTgtRows d) (svTgtStride d) (svElems d * svWidth d)) (by simp)
  have inRow := row_lt_rowsSpan (stride := svTgtStride d) row byte
  dsimp only at target
  omega

/-- A valid scatter has rows of at least one byte. -/
theorem rowBytes_pos {d : Nat} (valid : scatterOk d = true) : 0 < svElems d * svWidth d := by
  have elems : 1 ≤ svElems d := by
    simp only [scatterOk, Bool.and_eq_true, decide_eq_true_eq] at valid
    omega
  have width : 0 < svWidth d := by
    unfold svWidth
    split <;> decide
  exact Nat.mul_pos elems width

theorem State.scatterAtom_inWindow {t d j b : Nat} (tile : t < 48) (inside : svTgt d + (j * svTgtStride d + b) < scratchBytes t)
    (s v : State) (i n : Nat) : InWindow t s (s.scatterAtom v t d i j b n) :=
  State.placeBytes_inWindow (regionOf_tileBase tile (by rwa [Nat.add_assoc])) s _

/-- The rows of a SCATTER_ADD added up stay in the tile's scratchpad, in whatever order their atomics arrive. -/
theorem State.scatterAdd_inWindow {s : State} {t d : Nat} {idx : List Nat} (tile : t < 48) (ranges : s.scatterRanges t d = Stat.ok)
    (below : ∀ x ∈ idx, x < svTgtRows d) (draw : Nat) :
    InWindow t s (((arrivalOrder draw idx.length (rowAtoms (svElems d * svWidth d))).foldl (fun (u : State) (e : Nat × Nat × Nat) =>
      u.scatterAtom s t d e.1 (nth idx e.1 0) e.2.1 e.2.2) s).draw) := by
  refine (InWindow.foldl (fun e arrives u => ?_) s).trans (State.draw_inWindow ..)
  obtain ⟨row, atom⟩ := mem_arrivalOrder arrives
  exact State.scatterAtom_inWindow tile (State.target_inside ranges (below _ (nth_mem row 0)) (lt_of_mem_rowAtoms atom)) u s e.1 e.2.2

/-- The rows of a SCATTER_WRITE stay in the tile's scratchpad. -/
theorem State.scatterWrite_inWindow {s : State} {t d : Nat} {idx : List Nat} (tile : t < 48) (valid : scatterOk d = true)
    (ranges : s.scatterRanges t d = Stat.ok) (below : ∀ x ∈ idx, x < svTgtRows d) :
    InWindow t s ((List.zip (orderOf idx).u (orderOf idx).last).foldl (fun (u : State) (e : Nat × Nat) =>
      u.placeBytes (tileBase t + svTgt d + e.1 * svTgtStride d)
        (s.wbytes t (svVal d + e.2 * svStride d) (svElems d * svWidth d))) s) := by
  refine InWindow.foldl (fun e listed u => ?_) s
  have unique : e.1 ∈ uniques idx := (List.of_mem_zip listed).1
  have inside := State.target_inside ranges (below _ (mem_of_mem_uniques unique)) (rowBytes_pos valid)
  refine State.placeBytes_inWindow (off := svTgt d + e.1 * svTgtStride d) ?_ u _
  rw [Nat.add_assoc]
  exact regionOf_tileBase tile inside

theorem State.foldl_scatterAtom_fresh (s v : State) (t d : Nat) (idx : List Nat) (es : List (Nat × Nat × Nat)) :
    (es.foldl (fun (u : State) (e : Nat × Nat × Nat) => u.scatterAtom v t d e.1 (nth idx e.1 0) e.2.1 e.2.2) s).fresh = s.fresh := by
  induction es generalizing s with
  | nil => rfl
  | cons e es ih => rw [List.foldl_cons, ih, State.scatterAtom, State.placeBytes_frame]

theorem State.foldl_placeBytes_fresh {α : Type} (s : State) (a : α → Nat) (bs : α → List Byte) (es : List α) :
    (es.foldl (fun (u : State) e => u.placeBytes (a e) (bs e)) s).fresh = s.fresh := by
  induction es generalizing s with
  | nil => rfl
  | cons e es ih => rw [List.foldl_cons, ih, State.placeBytes_frame]

/-- Settles O29: each command by its fields and its indices, UNIQUE's in the ascending order of `orderOf` (R257); what it writes stays in
the tile's scratchpad, so its command's other operations and the other tiles stand. -/
theorem sieveUpdates : Obligations.SieveUpdates := by
  unfold Obligations.SieveUpdates
  refine ⟨?unique, ?add, ?write, fun s tile h sop c o op => ⟨?_, ?_, ?_, fun ranges valid outside => ⟨?_, ?_⟩⟩⟩
  case unique =>
    intro s tile h c o idx op valid aligned ranges read n out r w
    have room := inside_of_extentStatus ranges (out, 16 * n + 4) (by simp [n, out])
    exact ⟨_, exec_sieveUnique_of_indices op valid aligned ranges read,
      sieveRan_sieveDone (State.cmd?_of_sieveOp? op) (State.putOrder_inWindow tile.isLt room s r),
      State.sieveDone_mem ..⟩
  case add =>
    intro s tile h c o idx op valid d bytes ranges read w
    refine ⟨_, congrArg Host.Outcome.next (State.scatterRun_of_indices op valid ranges read),
      sieveRan_sieveDone (State.cmd?_of_sieveOp? op) (State.scatterAdd_inWindow tile.isLt ranges (State.lt_of_indices read) s.fresh),
      ?_, State.sieveDone_mem ..⟩
    rw [State.sieveDone_fresh]
    exact congrArg (· + 1) (State.foldl_scatterAtom_fresh ..)
  case write =>
    intro s tile h c o idx op valid d bytes ranges read w
    exact ⟨_, congrArg Host.Outcome.next (State.scatterRun_of_indices op valid ranges read),
      sieveRan_sieveDone (State.cmd?_of_sieveOp? op) (State.scatterWrite_inWindow tile.isLt valid ranges (State.lt_of_indices read)),
      (State.sieveDone_fresh ..).trans (State.foldl_placeBytes_fresh ..), State.sieveDone_mem ..⟩
  · rintro rfl invalid
    exact exec_sieveUnique_of_invalid op invalid
  · rintro rfl invalid
    exact congrArg Host.Outcome.next (State.scatterRun_of_invalid op invalid)
  · rintro rfl invalid
    exact congrArg Host.Outcome.next (State.scatterRun_of_invalid op invalid)
  · rintro rfl
    exact congrArg Host.Outcome.next (State.scatterRun_of_outOfRange op valid ranges outside)
  · rintro rfl
    exact congrArg Host.Outcome.next (State.scatterRun_of_outOfRange op valid ranges outside)

end Sys2Proof.Machine
end

section
/-!
The Sieve's GATHER and its counters (R249 to R252, R257, R258, R261, R263, R265): the verdict on the operation's fields and on the pinned
table, then one equation per end of the fetching of the unique rows, and from them `SieveGather`.
-/
namespace Sys2Proof.Machine

/-! ## The ends of the fetching (R256, R258, R263) -/

section
variable {s u : State} {tile : Fin 48} {h : Nat} {c : TileCmd} {o : Op} {tbl : Nat} {f : Fmt} {idx : List Nat}
  {got : List (Nat × List Byte)} {e : Option (Reach Unit)}
  (run : State.gatherRows { ag := .tileDma tile h, eng := dieOfTile tile.val, fw := false, tenant := cdTenant c.desc,
                            addr := State.tileAddr tile.val c }
    tile.val tbl o.prog.fetched ((orderOf idx).u.drop o.prog.rows.length) o.prog.rows s = (u, got, e))
include run

/-- All rows are at hand: they are written, and the Sieve is done. -/
theorem State.gatherGo_of_all (all : e = none) : s.gatherGo tile h c o tbl f idx =
    (u.gatherWrite tile.val o.desc f (orderOf idx).inv (got.map (fun v => rowValues tbl v.1 v.2))).sieveDone tile.val h := by
  subst all
  simp only [State.gatherGo, run]

theorem State.gatherGo_of_need {ps : List (Nat × Nat)} (need : e = some (.need ps)) : s.gatherGo tile h c o tbl f idx =
    (u.fetchRemote (.tileDma tile h) ps).gatherWait tile.val h
      { o.prog with idx := idx, rows := got, fetched := o.prog.fetched ++ ps } := by
  subst need
  simp only [State.gatherGo, run]

theorem State.gatherGo_of_busy (busy : e = some .busy) : s.gatherGo tile h c o tbl f idx =
    u.gatherWait tile.val h { o.prog with idx := idx, rows := got } := by
  subst busy
  simp only [State.gatherGo, run]

theorem State.gatherGo_of_failed {st : Nat} (failed : e = some (.failed st)) : s.gatherGo tile h c o tbl f idx =
    if st = Stat.checkFailed then u.embCheck tile.val else u.failCmd tile.val st := by
  subst failed
  simp only [State.gatherGo, run]

end

/-- A GATHER whose rows fit their stride, whose ranges are in order and whose indices are below the table's rows goes on to its rows. -/
theorem State.gatherRun_of_indices {s : State} {tile : Fin 48} {h : Nat} {c : TileCmd} {o : Op} {tbl : Nat} {f : Fmt} {idx : List Nat}
    (fits : tdDim tbl * f.w / 8 ≤ svStride o.desc)
    (ranges : extentStatus tile.val (s.tile tile.val).resBytes [(svIdx o.desc, 4 * svN o.desc)]
      [(svOut o.desc, rowsSpan (svN o.desc) (svStride o.desc) (tdDim tbl * f.w / 8))] = Stat.ok)
    (read : (if o.prog.idx.isEmpty then s.indices tile.val (svIdx o.desc) (svN o.desc) (tdRows tbl) else some o.prog.idx) = some idx) :
    s.gatherRun tile h c o tbl f = s.gatherGo tile h c o tbl f idx := by
  unfold State.gatherRun
  extract_lets t d n bytes st
  rw [if_neg (Nat.not_lt.mpr fits), if_neg (not_not_intro ranges), read]

/-! ## The operation's fields and the pinned table (R249, R252, R256, R263) -/

/-- The verdict of R256 on a GATHER's fields does not stop one whose fields are in order. -/
theorem gather_fields_pass {d : Nat} (valid : svCommonOk d = true) (aligned : svOut d % 128 = 0)
    (vector : svFmt d = 0x0B ∨ svFmt d = 0x0C) :
    ¬ (!(svCommonOk d) || svOut d % 128 ≠ 0 || (svFmt d ≠ 0x0B && svFmt d ≠ 0x0C)) = true := by
  simpa [valid, aligned] using vector.resolve_left

section
variable {s : State} {tile : Fin 48} {h : Nat} {c : TileCmd} {o : Op} (op : s.sieveOp? tile.val h 2 (.tileDma tile h) = some (c, o))
  (valid : svCommonOk o.desc = true) (aligned : svOut o.desc % 128 = 0) (vector : svFmt o.desc = 0x0B ∨ svFmt o.desc = 0x0C)
include op valid aligned vector

theorem exec_sieveGather_of_unpinned (unpinned : (s.tile tile.val).emb.valid = false) :
    exec (.sieveGather tile h) s = .next (s.failCmd tile.val Stat.tableInvalid) := by
  show execSieveGather tile h s = _
  simp only [execSieveGather, op]
  rw [if_neg (gather_fields_pass valid aligned vector), if_pos (by simp [unpinned])]

variable (pinned : (s.tile tile.val).emb.valid = true)
include pinned

theorem exec_sieveGather_of_bad_crc (bad : crcOk (s.rd (s.tile tile.val).emb.desc 64) 64 = false) :
    exec (.sieveGather tile h) s = .next (s.embCheck tile.val) := by
  show execSieveGather tile h s = _
  simp only [execSieveGather, op]
  rw [if_neg (gather_fields_pass valid aligned vector), if_neg (by simp [pinned]), if_pos (by simp [bad])]

variable (good : crcOk (s.rd (s.tile tile.val).emb.desc 64) 64 = true)
include good

theorem exec_sieveGather_of_bad_table (bad : tableOk (s.rd (s.tile tile.val).emb.desc 64) = false) :
    exec (.sieveGather tile h) s = .next (s.failCmd tile.val Stat.tableInvalid) := by
  show execSieveGather tile h s = _
  simp only [execSieveGather, op]
  rw [if_neg (gather_fields_pass valid aligned vector), if_neg (by simp [pinned]), if_neg (by simp [good]), if_pos (by simp [bad])]

theorem exec_sieveGather_of_table (table : tableOk (s.rd (s.tile tile.val).emb.desc 64) = true) {f : Fmt}
    (fmt : fmtOf (svFmt o.desc) = some f) : exec (.sieveGather tile h) s =
      .next (s.gatherRun tile h c o (s.rd (s.tile tile.val).emb.desc 64) f) := by
  show execSieveGather tile h s = _
  simp only [execSieveGather, op]
  rw [if_neg (gather_fields_pass valid aligned vector), if_neg (by simp [pinned]), if_neg (by simp [good]), if_neg (by simp [table]), fmt]

end

/-- Settles O30: a GATHER with its table in order by what the fetching of its rows came to, one without by the first check that fails. -/
theorem sieveGather : Obligations.SieveGather := by
  unfold Obligations.SieveGather
  refine ⟨?rows, fun s t h p => ⟨_, rfl, rfl⟩, fun s tile h c o op valid aligned vector => ?_,
    fun s cd live => ⟨_, if_neg (by simp [live]), rfl, fun k other => s.updSieve_sieveOf_ne _ other, s.updSieve_sieveOf_self ..⟩⟩
  case rows =>
    intro s u tile h c o f idx got e op valid aligned vector pinned tbl good table fmt fits ranges read run
    have goes : exec (.sieveGather tile h) s = .next (s.gatherGo tile h c o tbl f idx) := by
      rw [exec_sieveGather_of_table op valid aligned vector pinned good table fmt, State.gatherRun_of_indices fits ranges read]
    exact ⟨fun all => ⟨_, goes.trans (congrArg _ (State.gatherGo_of_all run all)), rfl⟩,
      fun ps need => goes.trans (congrArg _ (State.gatherGo_of_need run need)),
      fun busy => goes.trans (congrArg _ (State.gatherGo_of_busy run busy)),
      fun st failed => goes.trans (congrArg _ (State.gatherGo_of_failed run failed))⟩
  · exact ⟨exec_sieveGather_of_unpinned op valid aligned vector, exec_sieveGather_of_bad_crc op valid aligned vector,
      exec_sieveGather_of_bad_table op valid aligned vector⟩

end Sys2Proof.Machine
end

section
/-!
Packets on a Tendril link (R267, R270 to R272, R276, R336, R337): what a packet given to a link changes, how a link delivers and
drops what it takes, and from them `LinkTraffic`.
-/
namespace Sys2Proof.Machine

/-! ## Changes of one link -/

/-- Two changes of one link are one change. -/
theorem State.updLink_updLink (s : State) (lk : Nat) (f g : Link → Link) :
    (s.updLink lk f).updLink lk g = s.updLink lk (fun l => g (f l)) := by
  simp [State.updLink, Tbl.upd, Tbl.put, Tbl.del, Tbl.getD, Tbl.find?]

/-- Changes that do the same to the link as it stands are the same change. -/
theorem State.updLink_congr {s : State} {lk : Nat} {f g : Link → Link} (same : f (s.link lk) = g (s.link lk)) :
    s.updLink lk f = s.updLink lk g := by
  unfold State.link at same
  simp only [State.updLink, Tbl.upd, same]

/-! ## What policing a packet changes (R350, R352 to R354) -/

/-- A link die but for its policers and their failed checks. -/
def Policed (a b : LinkDie) : Prop := b = { a with pols := b.pols, egrFails := b.egrFails }

/-- Only policers, their failed checks and the fault lines have changed. -/
structure Polices (s t : State) : Prop where
  frame : t = { s with fab := { s.fab with lds := t.fab.lds }, fcl := t.fcl }
  dies : ∀ d, Policed (s.lnd d) (t.lnd d)

theorem Policed.trans {a b c : LinkDie} (h : Policed a b) (k : Policed b c) : Policed a c := by
  unfold Policed at h k ⊢
  rw [k, h]

theorem Polices.refl (s : State) : Polices s s := ⟨rfl, fun _ => rfl⟩

theorem Polices.trans {r s t : State} (h : Polices r s) (k : Polices s t) : Polices r t :=
  ⟨by rw [k.frame, h.frame], fun d => (h.dies d).trans (k.dies d)⟩

theorem Polices.updLnd (s : State) (d : Nat) {f : LinkDie → LinkDie} (policed : ∀ a, Policed a (f a)) : Polices s (s.updLnd d f) := by
  refine ⟨rfl, fun e => ?_⟩
  by_cases same : e = d
  · subst same
    rw [State.updLnd_lnd_self]
    exact policed _
  · rw [State.updLnd_lnd_ne _ _ same]
    rfl

theorem Polices.raise (s : State) (src : Nat) : Polices s (s.raise src) :=
  ⟨by rw [State.raise_frame], fun d => by rw [State.raise_lnd]; rfl⟩

theorem Polices.link {s t : State} (h : Polices s t) (k : Nat) : t.link k = s.link k := by
  rw [h.frame]
  rfl

theorem State.egrCheck_polices (s : State) (d n : Nat) : Polices s (s.egrCheck d n) := by
  unfold State.egrCheck
  split
  · exact Polices.refl s
  · exact (Polices.updLnd s d (fun _ => by rfl)).trans (Polices.raise _ _)

theorem State.evalPkt_polices (s : State) (lk : Nat) (x : Queued) : Polices s (s.evalPkt lk x).1 := by
  unfold State.evalPkt
  split
  · exact Polices.refl s
  · extract_lets d r u
    have checked : Polices s u := State.egrCheck_polices ..
    split
    · exact checked
    · exact checked.trans (Polices.updLnd _ _ (fun _ => by rfl))

@[simp] theorem State.evalPkt_p (s : State) (lk : Nat) (x : Queued) : (s.evalPkt lk x).2.p = x.p := by
  unfold State.evalPkt
  split
  · rfl
  · extract_lets
    split <;> rfl

/-- The search for a queue's candidate polices packets. -/
theorem State.findCand_polices (s : State) (lk i : Nat) (stuck : List (Option Nat)) (done xs : List Queued) :
    Polices s (s.findCand lk i stuck done xs).1 := by
  induction xs generalizing s i stuck done with
  | nil => exact Polices.refl s
  | cons x rest ih =>
    unfold State.findCand
    split
    · exact ih ..
    · extract_lets r
      have met : Polices s r.1 := by
        unfold r
        split
        · exact State.evalPkt_polices ..
        · exact Polices.refl s
      split
      · exact met.trans (ih ..)
      · exact met

/-- The search for a queue's candidate keeps the queue's packets in their order. -/
theorem State.findCand_packets (s : State) (lk i : Nat) (stuck : List (Option Nat)) (done xs : List Queued) :
    (s.findCand lk i stuck done xs).2.1.map (·.p) = (done ++ xs).map (·.p) := by
  induction xs generalizing s i stuck done with
  | nil => simp [State.findCand]
  | cons x rest ih =>
    unfold State.findCand
    split
    · rw [ih]
      simp
    · extract_lets r
      have packet : r.2.p = x.p := by
        unfold r
        split
        · exact State.evalPkt_p ..
        · rfl
      split
      · rw [ih]
        simp [packet]
      · simp [packet]

/-! ## What a packet given to a link changes (R336, R337) -/

/-- Only a link's queues, what its die polices by, and the fault lines have changed. -/
structure Queues (s t : State) (lk : Nat) : Prop where
  only : Claims.linkOnly s t lk
  queues : Claims.queuesOnly (s.link lk) (t.link lk)
  dies : ∀ d, Policed (s.lnd d) (t.lnd d)

theorem Polices.queues {s t : State} (h : Polices s t) (lk : Nat) : Queues s t lk where
  only := ⟨by rw [h.frame], fun k _ => h.link k⟩
  queues := by rw [h.link]; rfl
  dies := h.dies

theorem Queues.trans {r s t : State} {lk : Nat} (h : Queues r s lk) (k : Queues s t lk) : Queues r t lk where
  only := ⟨by rw [k.only.1, h.only.1], fun j other => (k.only.2 j other).trans (h.only.2 j other)⟩
  queues := by
    have first := h.queues
    have second := k.queues
    unfold Claims.queuesOnly at first second ⊢
    rw [second, first]
  dies := fun d => (h.dies d).trans (k.dies d)

theorem Queues.updLink (s : State) (lk : Nat) {f : Link → Link} (queues : ∀ l, Claims.queuesOnly l (f l)) :
    Queues s (s.updLink lk f) lk where
  only := ⟨rfl, fun _ other => State.updLink_link_ne _ _ other⟩
  queues := by rw [State.updLink_link_self]; exact queues _
  dies := fun _ => rfl

theorem State.evalQueue_queues (s : State) (lk k : Nat) : Queues s (s.evalQueue lk k) lk :=
  ((s.findCand_polices lk 0 [] [] ((s.link lk).queueOf k)).queues lk).trans (Queues.updLink _ _ (fun _ => rfl))

/-- The evaluation of a queue's candidate keeps the queue's packets. -/
theorem State.evalQueue_packets (s : State) (lk k : Nat) :
    (((s.evalQueue lk k).link lk).queueOf k).map (·.p) = ((s.link lk).queueOf k).map (·.p) := by
  unfold State.evalQueue
  simp [Link.queueOf, State.findCand_packets]

theorem State.push_queues (s : State) (lk : Nat) (x : Queued) : Queues s (s.push lk x) lk :=
  (Queues.updLink s lk (fun _ => by rfl)).trans (State.evalQueue_queues ..)

theorem State.enq_queues (s : State) (lk : Nat) (x : Queued) : Queues s (s.enq lk x) lk := by
  unfold State.enq
  extract_lets
  split
  · exact State.push_queues ..
  · exact Queues.updLink _ _ (fun _ => rfl)

/-- A packet given to a link stands in its queue or waits for room. -/
theorem State.enq_sent (s : State) (lk : Nat) (x : Queued) : Claims.sent (s.enq lk x) lk x.p := by
  unfold Claims.sent State.enq
  extract_lets
  split
  · have inQueue : x.p ∈ (((s.push lk x).link lk).queueOf x.p.queue).map (·.p) := by
      unfold State.push
      rw [State.evalQueue_packets]
      simp [Link.queueOf]
    obtain ⟨y, mem, packet⟩ := List.mem_map.mp inQueue
    exact ⟨y, List.mem_append_left _ mem, packet⟩
  · exact ⟨x, by simp, rfl⟩

/-- What a packet given to a link leaves. -/
theorem State.enq_frame (s : State) (lk : Nat) (x : Queued) : s.enq lk x =
    { s with fab := { s.fab with links := (s.enq lk x).fab.links, lds := (s.enq lk x).fab.lds }, fcl := (s.enq lk x).fcl } :=
  (s.enq_queues lk x).only.1

@[simp] theorem State.enq_ltu (s : State) (lk : Nat) (x : Queued) : (s.enq lk x).ltu = s.ltu := by rw [State.enq_frame]

/-! ## Packets received (R267, R268, R270 to R272, R276) -/

@[simp] theorem Link.fecCount_rxSeq (l : Link) (fec : FecOutcome) : (l.fecCount fec).rxSeq = l.rxSeq := by cases fec <;> rfl
@[simp] theorem Link.fecCount_nakSent (l : Link) (fec : FecOutcome) : (l.fecCount fec).nakSent = l.nakSent := by cases fec <;> rfl
@[simp] theorem Link.fecCount_state (l : Link) (fec : FecOutcome) : (l.fecCount fec).state = l.state := by cases fec <;> rfl
@[simp] theorem Link.fecCount_accepted (l : Link) (fec : FecOutcome) : (l.fecCount fec).accepted = l.accepted := by cases fec <;> rfl
@[simp] theorem Link.fecCount_acceptedAt (l : Link) (fec : FecOutcome) : (l.fecCount fec).acceptedAt = l.acceptedAt := by
  cases fec <;> rfl
@[simp] theorem Link.fecCount_rx (l : Link) (fec : FecOutcome) : (l.fecCount fec).rx = l.rx := by cases fec <;> rfl
@[simp] theorem Link.fecCount_dropped (l : Link) (fec : FecOutcome) : (l.fecCount fec).dropped = l.dropped := by cases fec <;> rfl
@[simp] theorem Link.fecCount_freed (l : Link) (fec : FecOutcome) : (l.fecCount fec).freed = l.freed := by cases fec <;> rfl
@[simp] theorem Link.fecCount_hdrCheck (l : Link) (fec : FecOutcome) : (l.fecCount fec).hdrCheck = l.hdrCheck := by cases fec <;> rfl

/-- A link once it has accepted a packet in order (R267, R272): the next LSEQ, and what the next ACK answers for. -/
def Link.took (l : Link) (fec : FecOutcome) (now : Nat) : Link :=
  { l.fecCount fec with
    rxSeq := (l.rxSeq + 1) % 4096
    accepted := l.accepted + 1
    acceptedAt := if l.accepted = 0 then now else l.acceptedAt }

/-- A link once it has checked a packet: what its FEC and its header check found is counted (R267, R301). -/
def Link.checked (l : Link) (p : Pkt) (fec : FecOutcome) : Link :=
  { l.fecCount fec with hdrCheck := if p.hcrcOk then l.hdrCheck else satAdd 16 l.hdrCheck 1 }

@[simp] theorem Link.took_state (l : Link) (fec : FecOutcome) (now : Nat) : (l.took fec now).state = l.state :=
  l.fecCount_state fec
@[simp] theorem Link.checked_rxSeq (l : Link) (p : Pkt) (fec : FecOutcome) : (l.checked p fec).rxSeq = l.rxSeq := l.fecCount_rxSeq fec
@[simp] theorem Link.checked_nakSent (l : Link) (p : Pkt) (fec : FecOutcome) : (l.checked p fec).nakSent = l.nakSent :=
  l.fecCount_nakSent fec

/-- A packet for this device is delivered when its kind is known and its link and peer, or its kind, let it in. -/
theorem State.deliver_of_open {s : State} {lk : Nat} {p : Pkt} (known : ptypeKnown p.ptype = true) (here : p.dst = s.fid)
    (way : (s.link lk).state ≠ .managementOnly ∧ s.peerActive p.src = true ∨ 2 ≤ p.ptype ∧ p.ptype ≤ 5) :
    s.deliver lk p = s.updLink lk (fun l => { l with rx := l.rx ++ [p] }) := by
  have delivers : ¬ ((p.dst ≠ s.fid && !(p.ptype = 2 && p.dst = 0) || !(ptypeKnown p.ptype) ||
      ((s.link lk).state = .managementOnly || !(s.peerActive p.src)) && !(p.ptype = 2 || p.ptype = 3) &&
        !(p.ptype = 4 || p.ptype = 5)) = true) := by
    obtain ⟨state, active⟩ | ⟨low, high⟩ := way
    · simp [known, here, state, active]
    · have own : p.ptype = 2 ∨ p.ptype = 3 ∨ p.ptype = 4 ∨ p.ptype = 5 := by omega
      obtain h | h | h | h := own <;> simp [h, here, ptypeKnown]
  unfold State.deliver
  rw [if_neg delivers]

/-- A packet of an unknown kind, for another device, or kept out by its link or its peer is dropped and counted. -/
theorem State.deliver_of_shut {s : State} {lk : Nat} {p : Pkt} (shut : ptypeKnown p.ptype = false ∨ (p.dst ≠ s.fid ∧ p.dst ≠ 0) ∨
      (((s.link lk).state = .managementOnly ∨ s.peerActive p.src = false) ∧ 6 ≤ p.ptype)) :
    s.deliver lk p = s.updLink lk (fun l =>
      { l with dropped := satAdd 16 l.dropped 1, freed := Tbl.upd l.freed p.queue 0 (· + p.flits) }) := by
  have drops : (p.dst ≠ s.fid && !(p.ptype = 2 && p.dst = 0) || !(ptypeKnown p.ptype) ||
      ((s.link lk).state = .managementOnly || !(s.peerActive p.src)) && !(p.ptype = 2 || p.ptype = 3) &&
        !(p.ptype = 4 || p.ptype = 5)) = true := by
    obtain unknown | ⟨away, broadcast⟩ | ⟨closed, high⟩ := shut
    · simp [unknown]
    · simp [away, broadcast]
    · have other : p.ptype ≠ 2 ∧ p.ptype ≠ 3 ∧ p.ptype ≠ 4 ∧ p.ptype ≠ 5 := by omega
      simp [other, closed]
  unfold State.deliver
  rw [if_pos drops]

section
variable {s : State} {lk : Fin 36} (live : s.live = true) (carries : (s.link lk.val).carries = true)
include live carries

/-- What a link makes of a packet that passes its checks and is in order. -/
theorem exec_linkPacketReceive_of_good {p : Pkt} {fec : FecOutcome} (takes : (s.link lk.val).nakSent = false) (good : p.hcrcOk = true)
    (clean : fecBad fec = false) (packet : p.ptype ≠ 1) (seq : p.lseq = (s.link lk.val).rxSeq) :
    exec (.linkPacketReceive lk p fec) s = .next ((s.updLink lk.val (fun l => l.took fec s.ltu)).deliver lk.val p) := by
  show execLinkPacketReceive lk p fec s = _
  simp [execLinkPacketReceive, live, carries, takes, good, clean, packet, seq, State.updLink_updLink, Link.took]

/-- What a link makes of a packet while it discards, and of one that fails a check. -/
theorem exec_linkPacketReceive_of_bad {p : Pkt} {fec : FecOutcome}
    (bad : (s.link lk.val).nakSent = true ∨ p.hcrcOk = false ∨ fecBad fec = true ∨ (p.ptype ≠ 1 ∧ p.lseq ≠ (s.link lk.val).rxSeq)) :
    exec (.linkPacketReceive lk p fec) s = .next ((s.updLink lk.val (fun l => l.checked p fec)).nak lk.val) := by
  have counted : (if p.hcrcOk = true then s.updLink lk.val (fun l => l.fecCount fec) else (s.updLink lk.val (fun l => l.fecCount fec)).updLink
      lk.val (fun l => { l with hdrCheck := satAdd 16 l.hdrCheck 1 })) = s.updLink lk.val (fun l => l.checked p fec) := by
    split
    · next good => exact State.updLink_congr (by rw [Link.checked, if_pos good, ← Link.fecCount_hdrCheck])
    · next fails =>
      rw [State.updLink_updLink]
      exact State.updLink_congr (by rw [Link.checked, if_neg fails, Link.fecCount_hdrCheck])
  show execLinkPacketReceive lk p fec s = _
  by_cases discards : (s.link lk.val).nakSent = true
  · simp [execLinkPacketReceive, live, carries, counted, discards, State.nak]
  · have fails : p.hcrcOk = false ∨ fecBad fec = true ∨ (p.ptype ≠ 1 ∧ p.lseq ≠ (s.link lk.val).rxSeq) := bad.resolve_left discards
    have notCtl : ¬ (p.ptype = 1 ∧ p.hcrcOk = true ∧ fecBad fec = false) := by
      rintro ⟨ctl, good, clean⟩
      simp [ctl, good, clean] at fails
    simp only [execLinkPacketReceive, live, carries, counted]
    rw [if_neg (by simp), if_neg (by simpa [discards] using notCtl), if_pos (by simpa [or_assoc] using fails.imp_right (Or.imp_right And.right))]

/-- A LINK_CTRL packet that checks is outside the numbering. -/
theorem exec_linkPacketReceive_of_ctl {p : Pkt} {fec : FecOutcome} (good : p.hcrcOk = true) (clean : fecBad fec = false)
    (ctl : p.ptype = 1) : exec (.linkPacketReceive lk p fec) s = .next (s.updLink lk.val (fun l => l.fecCount fec)) := by
  show execLinkPacketReceive lk p fec s = _
  simp [execLinkPacketReceive, live, carries, good, clean, ctl]

end

theorem State.nak_of_discarding {s : State} {lk : Nat} (discards : (s.link lk).nakSent = true) : s.nak lk = s := by
  simp [State.nak, discards]

theorem State.nak_of_taking {s : State} {lk : Nat} (takes : (s.link lk).nakSent = false) :
    s.nak lk = (s.updLink lk (fun l => { l with nakSent := true })).linkCtl lk 0x2 (s.link lk).rxSeq 0 := by
  simp [State.nak, takes]

/-! ## ACK, NAK and replay (R272) -/

section
variable {s : State} {lk : Fin 36} (live : s.live = true) (carries : (s.link lk.val).carries = true)
include live carries

theorem exec_linkAck_of_carries (seq : BitVec 12) (credit : BitVec 64) :
    let n := match (s.link lk.val).replay with
      | [] => 0
      | (k, _) :: _ => if seqDist k seq.toNat < (s.link lk.val).replay.length then seqDist k seq.toNat + 1 else 0
    exec (.linkAck lk seq credit) s = .next (s.updLink lk.val (fun l => { l.tookCtl.addCredit credit.toNat with
      replay := l.replay.drop n
      lastAck := s.ltu
      naks := if n = 0 then l.naks else 0
      replayAt := match l.replayAt with
        | some a => if (l.replay.drop n).any (fun e => e.1 = a) then some a else (l.replay.drop n).head?.map (·.1)
        | none => none })) :=
  if_neg (by simp [live, carries])

theorem exec_linkNak_of_carries (seq : BitVec 12) (credit : BitVec 64) :
    exec (.linkNak lk seq credit) s = .next ((s.updLink lk.val (fun l => { l.tookCtl.addCredit credit.toNat with
      naks := if l.nakSeq = seq.toNat then l.naks + 1 else 1
      nakSeq := seq.toNat })).startReplay lk.val seq.toNat) :=
  if_neg (by simp [live, carries])

theorem exec_replayStart_of_carries :
    exec (.replayStart lk) s = .next (s.updLink lk.val (fun l => { l.tookCtl with nakSent := false })) :=
  if_neg (by simp [live, carries])

theorem exec_linkAckTimer_of_due (due : 64 ≤ (s.link lk.val).accepted ∨
      (0 < (s.link lk.val).accepted ∧ (s.link lk.val).acceptedAt + 100 ≤ s.ltu)) :
    exec (.linkAckTimer lk) s = .next ((s.updLink lk.val (fun _ => { (s.link lk.val).creditOut.2 with accepted := 0 })).linkCtl
      lk.val 0x1 (((s.link lk.val).rxSeq + 4095) % 4096) (s.link lk.val).creditOut.1) :=
  if_neg (by
    simp only [live, carries, Bool.not_true, Bool.false_or, Bool.or_eq_true, Bool.and_eq_true, decide_eq_true_eq]
    omega)

end

/-- A replay's two changes of its link are one. -/
theorem State.startReplay_updLink (s : State) (lk : Nat) (f : Link → Link) (seq : Nat) :
    (s.updLink lk f).startReplay lk seq = (s.updLink lk (fun l => { f l with
      replayAt := if (f l).replay.any (fun e => e.1 = seq) then some seq else none
      replays := satAdd 32 (f l).replays 1 })).linkCtl lk 0x3 0 0 := by
  unfold State.startReplay
  rw [State.updLink_updLink]

/-- Settles O31: the packets a link takes and discards, the LINK_CTRL packets it handles and sends, each by the equation of its
command, and what a packet given to a link leaves. -/
theorem linkTraffic : Obligations.LinkTraffic := by
  unfold Obligations.LinkTraffic
  refine ⟨fun s lk x => ⟨(s.enq_queues lk x).only, s.enq_sent lk x, (s.enq_queues lk x).queues⟩,
    fun s lk p fec live carries takes good clean => ⟨exec_linkPacketReceive_of_ctl live carries good clean, fun packet seq => ?order⟩,
    fun s lk p fec live carries => ⟨fun discards => ?discard, fun takes bad => ?nak⟩,
    fun s lk seq credit live carries => exec_linkAck_of_carries live carries seq credit,
    fun s lk seq credit live carries => ?replay,
    fun s lk live carries => exec_replayStart_of_carries live carries,
    fun s lk live carries due => ?ack⟩
  case order =>
    have run := exec_linkPacketReceive_of_good live carries takes good clean packet seq
    refine ⟨fun known here way => ?_, fun shut => ?_⟩
    · rw [run, State.deliver_of_open (s := s.updLink lk.val (fun l => l.took fec s.ltu)) known here
        (by rw [State.updLink_link_self, Link.took_state]; exact way), State.updLink_updLink]
      exact congrArg _ (State.updLink_congr (by simp [Link.took]))
    · rw [run, State.deliver_of_shut (s := s.updLink lk.val (fun l => l.took fec s.ltu))
        (by rw [State.updLink_link_self, Link.took_state]; exact shut), State.updLink_updLink]
      exact congrArg _ (State.updLink_congr (by simp [Link.took]))
  case discard =>
    rw [exec_linkPacketReceive_of_bad live carries (.inl discards), State.nak_of_discarding (by simpa using discards)]
    rfl
  case nak =>
    rw [exec_linkPacketReceive_of_bad live carries (.inr bad), State.nak_of_taking (by simpa using takes),
      State.updLink_link_self, Link.checked_rxSeq]
    rfl
  case replay =>
    rw [exec_linkNak_of_carries live carries, State.startReplay_updLink]
    rfl
  case ack =>
    rw [exec_linkAckTimer_of_due live carries due]
    rfl

end Sys2Proof.Machine
end

section
/-!
The life of a Tendril link (R272, R273, R301, R317, R356, R453): what a link loses, its bring-up, its retrain and its HELLO, one
equation per command, and from them `LinkLife`.
-/
namespace Sys2Proof.Machine

/-! ## What a link loses (R317, R356) -/

/-- Packets that go back to their connections: each connection takes its own, in order. -/
theorem State.foldl_unqueued (s : State) (es : List (Nat × Nat × Nat)) :
    let t := es.foldl (fun s e => s.updConn e.1 (fun y => y.unqueued e.2.1 e.2.2)) s
    t = { s with fab := { s.fab with conns := t.fab.conns } } ∧
      ∀ c, t.conn c = (es.filter (·.1 = c)).foldl (fun y e => y.unqueued e.2.1 e.2.2) (s.conn c) := by
  induction es generalizing s with
  | nil => exact ⟨rfl, fun _ => rfl⟩
  | cons e es ih =>
    obtain ⟨frame, conns⟩ := ih (s.updConn e.1 (fun y => y.unqueued e.2.1 e.2.2))
    refine ⟨frame, fun c => ?_⟩
    rw [List.foldl_cons, conns]
    by_cases own : e.1 = c
    · subst own
      simp
    · simp [own, Ne.symm own]

theorem State.discardLink_frame (s : State) (lk : Nat) : s.discardLink lk =
    { s with fab := { s.fab with links := (s.updLink lk Link.discard).fab.links, conns := (s.discardLink lk).fab.conns } } :=
  (State.foldl_unqueued _ _).1

theorem State.discardLink_link (s : State) (lk k : Nat) : (s.discardLink lk).link k = (s.updLink lk Link.discard).link k := by
  rw [State.discardLink_frame]
  rfl

@[simp] theorem State.discardLink_ltu (s : State) (lk : Nat) : (s.discardLink lk).ltu = s.ltu := by rw [State.discardLink_frame]

/-! ## Bring-up (R273, R453) -/

section
variable {s : State} {lk : Fin 36} (live : s.live = true)
include live

theorem exec_linkEnable_off : exec (.linkEnable lk false) s = .next ((s.discardLink lk.val).updLink lk.val (fun l => { l with
    enable := false, state := if l.fenced then .failed else .down })) := by
  show execLinkEnable lk false s = _
  simp [execLinkEnable, live]

theorem exec_linkEnable_on_of_busy (busy : (s.link lk.val).state ≠ .down ∨ (s.link lk.val).fenced = true) :
    exec (.linkEnable lk true) s = .next (s.updLink lk.val (fun l => { l with enable := true })) := by
  show execLinkEnable lk true s = _
  simp [execLinkEnable, live, busy]

theorem exec_linkEnable_on_of_down (down : (s.link lk.val).state = .down) (unfenced : (s.link lk.val).fenced = false) :
    exec (.linkEnable lk true) s = .next (s.updLink lk.val (fun l => { l with
      enable := true, state := .training, since := s.ltu, prev := none, retrains := satAdd 8 l.retrains 1 })) := by
  show execLinkEnable lk true s = _
  simp [execLinkEnable, live, down, unfenced, State.updLink_updLink]

variable (training : (s.link lk.val).state = .training)
include training

theorem exec_linkBringupRetry_of_late (first : (s.link lk.val).prev = none) (on : (s.link lk.val).enable = true)
    (late : (s.link lk.val).since + 25000000 < s.ltu) : exec (.linkBringupRetry lk) s =
      .next (s.updLink lk.val (fun l => { l with since := s.ltu, retrains := satAdd 8 l.retrains 1 })) := by
  show execLinkBringupRetry lk s = _
  simp [execLinkBringupRetry, live, training, first, on, Nat.not_le.mpr late]

theorem exec_linkInit_of_training (first : (s.link lk.val).prev = none) (switch : Bool) (credit : BitVec 64) :
    exec (.linkInit lk switch credit) s =
      let u := ((s.discardLink lk.val).updLink lk.val (fun l => { Link.addCredit { l with credit := [] } credit.toNat with
        state := .linkUp, partnerSwitch := switch, txSeq := 0, rxSeq := 0, freed := [(0, 1)], lastAck := s.ltu,
        partnerId := 0 })).linkCtl lk.val 0x4 0 0x4040404040404040
      .next (if switch then u.greetBehind lk.val
        else (u.sendHello lk.val 0 1).updLink lk.val (fun l => { l with helloTries := 1, helloAt := some (s.ltu + 100) })) := by
  show execLinkInit lk switch credit s = _
  cases switch <;> simp [execLinkInit, live, training, first, State.linkCtl]

/-! ## The end of a retrain (R272, R273) -/

variable {st : LinkState} (again : (s.link lk.val).prev = some st)
include again

theorem exec_linkRetrainDone_of_training : exec (.linkRetrainDone lk) s =
    let u := s.updLink lk.val (fun l =>
      { l with state := st, prev := none, retrainBit := false, naks := 0, lastAck := s.ltu, nakSent := false })
    .next (match (s.link lk.val).replay with
      | [] => u
      | (k, _) :: _ => u.startReplay lk.val k) := by
  show execLinkRetrainDone lk s = _
  unfold execLinkRetrainDone
  simp only [training, again, live]
  cases (s.link lk.val).replay <;> rfl

theorem exec_linkRetrainTimeout_of_late (late : (s.link lk.val).since + 1000000 < s.ltu) : exec (.linkRetrainTimeout lk) s =
    .next (((s.discardLink lk.val).updLink lk.val (fun l => { l with state := .failed })).raise
      (0x180 + 0x60 * dieOfLink lk.val + lk.val % 18)) := by
  show execLinkRetrainTimeout lk s = _
  simp [execLinkRetrainTimeout, live, training, again, Nat.not_le.mpr late]

end

/-! ## Retrain and HELLO of a link that carries packets (R272, R277, R301) -/

section
variable {s : State} {lk : Fin 36} (live : s.live = true) (carries : (s.link lk.val).carries = true)
include live carries

theorem exec_linkRetrain_of_due (due : 8 ≤ (s.link lk.val).naks ∨
      ((s.link lk.val).replay ≠ [] ∧ (s.link lk.val).lastAck + 10000 < s.ltu)) :
    exec (.linkRetrain lk) s = .next (s.retrain lk.val) := by
  show execLinkRetrain lk s = _
  obtain naks | ⟨unacked, late⟩ := due
  · simp [execLinkRetrain, live, carries, naks]
  · simp [execLinkRetrain, live, carries, unacked, late]

theorem exec_linkCtrlRetrain_of_carries :
    exec (.linkCtrlRetrain lk) s = .next ((s.retrain lk.val).updLink lk.val (fun l => { l with retrainBit := true })) :=
  if_neg (by simp [live, carries])

theorem exec_linkCtrlHello_of_partner (partner : (s.link lk.val).partnerSwitch = false) : exec (.linkCtrlHello lk) s =
    .next (s.updatePeer lk.val (s.link lk.val).partnerId (s.link lk.val).helloRec) := by
  show execLinkCtrlHello lk s = _
  simp [execLinkCtrlHello, State.updateOn, live, carries, partner]

theorem exec_linkCtrlHello_of_switch (switch : (s.link lk.val).partnerSwitch = true) : exec (.linkCtrlHello lk) s =
    .next ((Tbl.keys s.fab.peers).foldl (fun (s : State) f => if lowestLink (s.peer f) = some lk.val && peerState (s.peer f) ≠ 3
      then s.updatePeer lk.val f (Tbl.find? s.fab.helloRec f) else s) s) := by
  show execLinkCtrlHello lk s = _
  simp [execLinkCtrlHello, State.updateOn, live, carries, switch]

end

/-- Settles O32: each command of a link's life by its equation, and what a discarded link leaves. -/
theorem linkLife : Obligations.LinkLife := by
  unfold Obligations.LinkLife
  refine ⟨fun s lk => ⟨_, rfl, ?own, fun k other => ?others, ?frame, (State.foldl_unqueued _ _).2⟩,
    fun s lk live => ?off, fun s lk live busy => exec_linkEnable_on_of_busy live busy,
    fun s lk live down unfenced => exec_linkEnable_on_of_down live down unfenced,
    fun s lk live training first on late => exec_linkBringupRetry_of_late live training first on late,
    fun s lk switch credit live training first => ?init,
    fun s lk live carries due => exec_linkRetrain_of_due live carries due,
    fun s lk live carries => ?retrain,
    fun s lk st live training again => ?up,
    fun s lk st live training again late => exec_linkRetrainTimeout_of_late live training again late,
    fun s lk live carries partner => ?hello,
    fun s lk live carries switch => exec_linkCtrlHello_of_switch live carries switch,
    fun s lk live => if_neg (by simp [live])⟩
  case own => rw [State.discardLink_link, State.updLink_link_self]
  case others => rw [State.discardLink_link, State.updLink_link_ne _ _ other]
  case frame => rw [State.discardLink_frame]
  case off =>
    rw [exec_linkEnable_off live]
    exact congrArg _ (State.updLink_congr (by rw [State.discardLink_link, State.updLink_link_self]; rfl))
  case init =>
    rw [exec_linkInit_of_training live training first switch credit]
    exact ⟨fun device => by subst device; rfl, fun behind => by subst behind; rfl⟩
  case retrain =>
    rw [exec_linkCtrlRetrain_of_carries live carries, State.retrain, State.updLink_updLink]
  case up =>
    rw [exec_linkRetrainDone_of_training live training again]
    refine ⟨fun empty => by rw [empty], fun k p rest replay => ?_⟩
    rw [replay]
    dsimp only
    rw [State.startReplay_updLink]
    exact congrArg _ (congrArg (fun u => State.linkCtl u lk.val 0x3 0 0) (State.updLink_congr (by simp [replay])))
  case hello =>
    rw [exec_linkCtrlHello_of_partner live carries partner]
    exact ⟨fun none_ => by rw [none_]; rfl, fun r some_ => by rw [some_]; rfl⟩

end Sys2Proof.Machine
end

section
/-!
Agreement between devices and the tables of the MSF (R270, R271, R273 to R277, R282, R302, R303): what the judgement of a HELLO record
leaves, one equation per case of each command, and from them `Agreement`.
-/
namespace Sys2Proof.Machine

/-! ## HELLO (R273 to R277) -/

/-- A partner's record is judged on its link: the link agrees or not, and keeps what the record says (R273, R277). -/
def Link.judged (l : Link) (f r v : Nat) : Link :=
  { l.agree v with partnerId := f, partnerUid := fld r 0 8, helloRec := some r, helloAt := none, helloTries := 0 }

/-- The peer's entry once its record is judged: what HELLO teaches, or its state alone (R303). -/
def judgedEntry (e r v : Nat) : Nat := if v = 0 || v = 3 || v = 4 || v = 5 || v = 6 then peerLearn e r v else peerMark e 2 v

/-- A peer's record is its last, and no REQUEST to it waits for a REPLY (R273, R277). -/
def State.recordHello (s : State) (f r : Nat) : State :=
  { s with fab := { s.fab with helloRec := Tbl.put s.fab.helloRec f r, helloPeer := Tbl.del s.fab.helloPeer f } }

/-- A record that a link's partner sends is judged, and takes no connection of the peer into ERROR. -/
theorem State.judge_of_partner {s : State} {lk f r v : Nat} (named : f ≠ 0) (partner : (s.link lk).partnerSwitch = false)
    (verdict : helloVerdict (s.helloOut lk) r (s.peer (helloFid r)) = v) (keeps : v = 0 ∨ s.peerActive f = false) :
    s.judge lk f r = ((s.updLink lk (fun l => l.judged f r v)).setPeer f (judgedEntry (s.peer f) r v)).recordHello f r := by
  have peer : ∀ g : Link → Link, (s.updLink lk g).peer f = s.peer f := fun _ => rfl
  have was : ∀ g : Link → Link, (s.updLink lk g).peerActive f = s.peerActive f := fun _ => rfl
  have still : ¬ ((s.peerActive f && decide (v ≠ 0)) = true) := by
    obtain zero | inactive := keeps
    · simp [zero]
    · simp [inactive]
  unfold State.judge
  simp only [partner, Bool.false_eq_true, if_false, named, was, peer, verdict]
  rw [if_neg still]
  rfl

@[simp] theorem State.setPeer_peer_self (s : State) (f e : Nat) : (s.setPeer f e).peer f = e := Tbl.getD_put_self ..

@[simp] theorem State.setPeer_peer_ne (s : State) {f g : Nat} (e : Nat) (other : g ≠ f) : (s.setPeer f e).peer g = s.peer g :=
  Tbl.getD_put_ne _ _ _ other

/-- The verdicts that teach the peer's entry what HELLO says, as R275 numbers them. -/
theorem verdict_teaches_iff (v : Nat) : (v = 0 || v = 3 || v = 4 || v = 5 || v = 6) = true ↔ v = 0 ∨ (3 ≤ v ∧ v ≤ 6) := by
  simp only [Bool.or_eq_true, decide_eq_true_eq]
  omega

section
variable {s : State} {lk : Fin 36} (live : s.live = true) (carries : (s.link lk.val).carries = true)
include live carries

theorem State.helloOn_of_carries : s.helloOn lk.val = true := by simp [State.helloOn, live, carries]

theorem exec_helloRequest_of_on (src : BitVec 12) (r : BitVec 768) : exec (.helloRequest lk src r) s =
    .next (((s.takeHello src.toNat 1).keepHello lk.val src.toNat r.toNat).sendHello lk.val src.toNat 2) :=
  if_neg (by simp [State.helloOn_of_carries live carries])

theorem exec_helloReply_of_on (src : BitVec 12) (r : BitVec 768) : exec (.helloReply lk src r) s =
    .next (if s.helloAwaited lk.val src.toNat then (s.takeHello src.toNat 2).judge lk.val src.toNat r.toNat
      else (s.takeHello src.toNat 2).updLnd (dieOfLink lk.val) (fun d => { d with lateResp := satAdd 32 d.lateResp 1 })) :=
  (if_neg (by simp [State.helloOn_of_carries live carries])).trans (apply_ite _ _ _ _).symm

theorem exec_helloUpdate_of_on (src : BitVec 12) (r : BitVec 768) : exec (.helloUpdate lk src r) s =
    .next ((s.takeHello src.toNat 3).judge lk.val src.toNat r.toNat) :=
  if_neg (by simp [State.helloOn_of_carries live carries])

theorem exec_helloTimeout_of_link {at_ : Nat} (sent : (s.link lk.val).helloAt = some at_) (late : at_ + 1000000 < s.ltu) :
    exec (.helloTimeout (.link lk)) s = .next (if (s.link lk.val).helloTries < 3
      then (s.sendHello lk.val 0 1).updLink lk.val (fun l => { l with helloTries := l.helloTries + 1, helloAt := some s.ltu })
      else s.updLink lk.val (fun l => { l.agree 7 with helloAt := none, helloTries := 0 })) := by
  show execHelloTimeout (.link lk) s = _
  simp only [execHelloTimeout, sent, live, carries]
  rw [if_neg (by simpa using late)]
  split <;> rfl

theorem exec_mgmtMessage_of_on (src : BitVec 12) (msg : List Byte) (crc : BitVec 32) : exec (.mgmtMessage lk src msg crc) s =
    let u := (s.takeRxLike (fun p => p.ptype = 3 && p.src = src.toNat)).1
    .next (if crc32c msg ≠ crc.toNat then u else { u with fab := { u.fab with mgmtIn := u.fab.mgmtIn ++ [(src.toNat, msg)] } }) :=
  (if_neg (by simp [State.helloOn_of_carries live carries])).trans (apply_ite _ _ _ _).symm

end

section
variable {s : State} {f : BitVec 12} {n at_ : Nat} (live : s.live = true) (sent : Tbl.find? s.fab.helloPeer f.toNat = some (n, at_))
  (late : at_ + 1000000 < s.ltu)
include live sent late

theorem exec_helloTimeout_again {lk : Nat} (fewer : n < 3) (lowest : lowestLink (s.peer f.toNat) = some lk) :
    exec (.helloTimeout (.peer f)) s =
      let u := s.sendHello lk f.toNat 1
      .next { u with fab := { u.fab with helloPeer := Tbl.put u.fab.helloPeer f.toNat (n + 1, u.ltu) } } := by
  show execHelloTimeout (.peer f) s = _
  simp only [execHelloTimeout, sent, live]
  rw [if_neg (by simpa using late), lowest, decide_eq_true fewer]

theorem exec_helloTimeout_of_unreachable (spent : 3 ≤ n ∨ lowestLink (s.peer f.toNat) = none) : exec (.helloTimeout (.peer f)) s =
    let u := s.setPeer f.toNat (peerMark (s.peer f.toNat) 3 (fld (s.peer f.toNat) 0x12 1))
    .next { u with fab := { u.fab with helloPeer := Tbl.del u.fab.helloPeer f.toNat } } := by
  show execHelloTimeout (.peer f) s = _
  simp only [execHelloTimeout, sent, live]
  rw [if_neg (by simpa using late)]
  obtain three | unlinked := spent
  · rw [decide_eq_false (Nat.not_lt.mpr three)]
  · rw [unlinked]
    cases decide (n < 3) <;> rfl

end

/-! ## Tables of the MSF (R302, R303) -/

/-- An entry that is read stands in TBL_DATA. -/
def State.tblRead (s : State) (d v : Nat) : State := s.updLnd d (fun x => { x with tblData := v, tblDone := true })

/-- Two changes of one link die are one change. -/
theorem State.updLnd_updLnd (s : State) (d : Nat) (f g : LinkDie → LinkDie) :
    (s.updLnd d f).updLnd d g = s.updLnd d (fun x => g (f x)) := by
  simp [State.updLnd, Tbl.upd, Tbl.put, Tbl.del, Tbl.getD, Tbl.find?]

/-- Changes that do the same to the link die as it stands are the same change. -/
theorem State.updLnd_congr {s : State} {d : Nat} {f g : LinkDie → LinkDie} (same : f (s.lnd d) = g (s.lnd d)) :
    s.updLnd d f = s.updLnd d g := by
  unfold State.lnd at same
  simp only [State.updLnd, Tbl.upd, same]

theorem State.tblRead_eq (s : State) (d v : Nat) : (s.updLnd d (fun x => { x with tblData := v })).tblDone d = s.tblRead d v :=
  State.updLnd_updLnd ..

section
variable {s : State} (live : s.live = true)
include live

theorem exec_msfTblRead_window (die : Fin 2) (idx : BitVec 14) : exec (.msfTblRead die 0 idx) s = .next (if idx.toNat < 2048
    then s.tblRead die.val (Tbl.getD (s.lnd die.val).windows idx.toNat 0) else s.tblReject die.val) := by
  show execMsfTblRead die 0 idx s = _
  by_cases inside : idx.toNat < 2048 <;> simp [execMsfTblRead, live, inside, State.tblRead_eq]

theorem exec_msfTblRead_region (die : Fin 2) (idx : BitVec 14) : exec (.msfTblRead die 1 idx) s =
    .next (s.tblRead die.val (s.region idx.toNat)) := by
  show execMsfTblRead die 1 idx s = _
  simp [execMsfTblRead, live, State.tblRead_eq]

theorem exec_msfTblRead_peer (die : Fin 2) (idx : BitVec 14) : exec (.msfTblRead die 2 idx) s = .next (if idx.toNat < 4096
    then s.tblRead die.val (s.peer idx.toNat) else s.tblReject die.val) := by
  show execMsfTblRead die 2 idx s = _
  by_cases inside : idx.toNat < 4096 <;> simp [execMsfTblRead, live, inside, State.tblRead_eq]

theorem exec_msfTblRead_local (die : Fin 2) (idx : BitVec 14) : exec (.msfTblRead die 3 idx) s = .next (if idx.toNat < 3
    then s.tblRead die.val (bits s.fab.local_ (256 * idx.toNat) 256) else s.tblReject die.val) := by
  show execMsfTblRead die 3 idx s = _
  by_cases inside : idx.toNat < 3 <;> simp [execMsfTblRead, live, inside, State.tblRead_eq]

theorem exec_msfTblWrite_window (die : Fin 2) (idx : BitVec 14) : exec (.msfTblWrite die 0 idx) s = .next (if idx.toNat < 2048
    then s.updLnd die.val (fun d => { d with windows := Tbl.put d.windows idx.toNat d.tblData, tblDone := true })
    else s.tblReject die.val) := by
  show execMsfTblWrite die 0 idx s = _
  by_cases inside : idx.toNat < 2048
  · have written : (s.updLnd die.val (fun d => { d with windows := Tbl.put d.windows idx.toNat (s.lnd die.val).tblData })).tblDone die.val =
        s.updLnd die.val (fun d => { d with windows := Tbl.put d.windows idx.toNat d.tblData, tblDone := true }) :=
      (State.updLnd_updLnd ..).trans (State.updLnd_congr rfl)
    simp [execMsfTblWrite, live, inside, Nat.not_le.mpr inside, written]
  · simp [execMsfTblWrite, live, inside]

theorem exec_msfTblWrite_region (idx : BitVec 14) : exec (.msfTblWrite 0 1 idx) s =
    .next ((s.setRegion idx.toNat (s.lnd 0).tblData).tblDone 0) := by
  show execMsfTblWrite 0 1 idx s = _
  simp [execMsfTblWrite, live]

theorem exec_msfTblWrite_peer (idx : BitVec 14) : exec (.msfTblWrite 0 2 idx) s = .next (if idx.toNat < 4096
    then ((s.setPeer idx.toNat (s.lnd 0).tblData).greetPeer idx.toNat).tblDone 0 else s.tblReject 0) := by
  show execMsfTblWrite 0 2 idx s = _
  by_cases inside : idx.toNat < 4096
  · simp [execMsfTblWrite, live, inside, Nat.not_le.mpr inside]
  · simp [execMsfTblWrite, live, inside]

theorem exec_msfTblWrite_local (idx : BitVec 14) : exec (.msfTblWrite 0 3 idx) s = .next (if idx.toNat < 3
    then ({ s with fab := { s.fab with local_ := setBits s.fab.local_ (256 * idx.toNat) 256 (s.lnd 0).tblData } } : State).tblDone 0
    else s.tblReject 0) := by
  show execMsfTblWrite 0 3 idx s = _
  by_cases inside : idx.toNat < 3
  · simp [execMsfTblWrite, live, inside, Nat.not_le.mpr inside]
  · simp [execMsfTblWrite, live, inside]

/-- The tables of both dies but the windows are written through LD0 alone. -/
theorem exec_msfTblWrite_of_second {table : Fin 4} (shared : table.val ≠ 0) (idx : BitVec 14) :
    exec (.msfTblWrite 1 table idx) s = .next (s.tblReject 1) := by
  show execMsfTblWrite 1 table idx s = _
  obtain rfl | rfl | rfl : table = 1 ∨ table = 2 ∨ table = 3 := by omega
  all_goals simp [execMsfTblWrite, live]

end

/-- Settles O33: HELLO by what judging a record leaves and by its timeouts, management messages by their CRC, and the tables entry by
entry. -/
theorem agreement : Obligations.Agreement := by
  unfold Obligations.Agreement
  refine ⟨fun s lk src r live carries => exec_helloRequest_of_on live carries src r,
    fun s lk src r live carries => ?reply,
    fun s lk f r named partner keeps => ?judged,
    fun s lk at_ live carries sent late => ?link,
    fun s f n at_ live sent late => ⟨fun lk fewer lowest => exec_helloTimeout_again live sent late fewer lowest,
      fun spent => exec_helloTimeout_of_unreachable live sent late spent⟩,
    fun s lk src msg crc live carries => ?message,
    fun s die idx live => ⟨exec_msfTblRead_window live die idx, exec_msfTblRead_region live die idx,
      exec_msfTblRead_peer live die idx, exec_msfTblRead_local live die idx⟩,
    fun s die idx live => exec_msfTblWrite_window live die idx,
    fun s idx live => ⟨exec_msfTblWrite_region live idx, exec_msfTblWrite_peer live idx, exec_msfTblWrite_local live idx⟩,
    fun s table idx live shared => exec_msfTblWrite_of_second live shared idx⟩
  case reply =>
    rw [exec_helloReply_of_on live carries]
    exact ⟨fun awaited => by rw [if_pos awaited], fun late => by rw [if_neg (by simp [late])], exec_helloUpdate_of_on live carries src r⟩
  case judged =>
    have run := State.judge_of_partner named partner rfl keeps
    refine ⟨_, rfl, by rw [run]; rfl, ?_, ?_, fun g other => ?_⟩
    · rw [run]
      exact State.updLink_link_self s lk (fun l => l.judged f r _)
    · rw [run]
      exact (State.setPeer_peer_self ..).trans (ite_congr (propext (verdict_teaches_iff _)) (fun _ => rfl) (fun _ => rfl))
    · rw [run]
      exact State.setPeer_peer_ne (s.updLink lk _) _ other
  case link =>
    rw [exec_helloTimeout_of_link live carries sent late]
    exact ⟨fun fewer => by rw [if_pos fewer]; rfl, fun spent => by rw [if_neg (Nat.not_lt.mpr spent)]⟩
  case message =>
    rw [exec_mgmtMessage_of_on live carries]
    exact ⟨fun bad => congrArg _ (if_pos bad), fun good => congrArg _ (if_neg (not_not_intro good))⟩

end Sys2Proof.Machine
end

section
/-!
Accesses to the aperture (R283 to R300): how the MSF takes or refuses an access, what each issuer does with the answer, and from them
`MsfIssue`.
-/
namespace Sys2Proof.Machine

/-! ## Changes of the fabric alone -/

/-- Only the fabric and the fault lines have changed. -/
def OnFabric (s t : State) : Prop := t = { s with fab := t.fab, fcl := t.fcl }

theorem OnFabric.trans {r s t : State} (h : OnFabric r s) (k : OnFabric s t) : OnFabric r t := by
  unfold OnFabric at h k ⊢
  rw [k, h]

theorem OnFabric.updLnd (s : State) (d : Nat) (f : LinkDie → LinkDie) : OnFabric s (s.updLnd d f) := rfl

theorem Queues.onFabric {s t : State} {lk : Nat} (h : Queues s t lk) : OnFabric s t := by
  unfold OnFabric
  rw [h.only.1]

/-! ## One access (R285, R289, R290, R298, R300) -/

section
variable {s : State} {ag : Agent} {addr n mop : Nat} {data : List Byte}

theorem State.msfIssue_of_refused {st cause : Nat} (refused : s.windowCheck ag addr n mop = some (st, cause)) :
    s.msfIssue ag addr n mop data = (Claims.msfRefused s ag addr mop st cause, none) := by
  unfold State.msfIssue
  rw [refused]
  rfl

/-- A request leaves in the lowest free slot, unless a write to its peer is still out on another link. -/
theorem State.msfSend_eq (s : State) (ag : Agent) (addr n mop : Nat) (data : List Byte) : s.msfSend ag addr n mop data =
    if s.linkMoving (wnDest (s.window addr)) then (s, none)
    else match Claims.msfSlot s (apDie addr) with
      | none => (s, none)
      | some i => (Claims.msfSent s ag addr n mop data i, some i) := rfl

section
variable (passes : s.windowCheck ag addr n mop = none)
include passes

theorem State.msfIssue_of_passed : s.msfIssue ag addr n mop data = s.msfSend ag addr n mop data := by
  unfold State.msfIssue
  rw [passes]

theorem State.msfIssue_of_waiting
    (waits : s.linkMoving (wnDest (s.window addr)) = true ∨ Claims.msfSlot s (apDie addr) = none) :
    s.msfIssue ag addr n mop data = (s, none) := by
  rw [State.msfIssue_of_passed passes, State.msfSend_eq]
  obtain moving | full := waits
  · exact if_pos moving
  · rw [full]
    exact ite_self _

theorem State.msfIssue_of_sent {i : Nat} (still : s.linkMoving (wnDest (s.window addr)) = false)
    (slot : Claims.msfSlot s (apDie addr) = some i) :
    s.msfIssue ag addr n mop data = (Claims.msfSent s ag addr n mop data i, some i) := by
  rw [State.msfIssue_of_passed passes, State.msfSend_eq, if_neg (by simp [still]), slot]

end

/-- What a packet given to a link leaves of the slots. -/
theorem State.enq_txn (s : State) (lk d : Nat) (x : Queued) : ((s.enq lk x).lnd d).txn = (s.lnd d).txn := by
  rw [(s.enq_queues lk x).dies d]

theorem Claims.msfSent_onFabric (i : Nat) : OnFabric s (Claims.msfSent s ag addr n mop data i) :=
  (OnFabric.updLnd ..).trans (State.enq_queues ..).onFabric

theorem Claims.msfSent_txn (i k : Nat) : Tbl.getD ((Claims.msfSent s ag addr n mop data i).lnd (apDie addr)).txn k {} =
    if k = i then Claims.msfTxn s ag addr n mop i else Tbl.getD (s.lnd (apDie addr)).txn k {} := by
  unfold Claims.msfSent
  rw [State.enq_txn, State.updLnd_lnd_self]
  split
  · next same => rw [same, Tbl.getD_put_self]
  · next other => rw [Tbl.getD_put_ne _ _ _ other]

end

/-! ## Control cores, threads and the commit unit (R293, R294) -/

/-- The operations of a control core on the aperture, with their MOP and operand (R289). -/
theorem exec_control_operation {s : State} {h : Fin 8} {addr : Nat} {v w : BitVec 64} {c : Instr} {mop : Nat} {data : List Byte}
    (live : s.live = true) (aperture : inAperture addr = true)
    (operation : (c, mop, data) ∈ [(.msfLoad (.control h) addr, 1, []), (.msfStore (.control h) addr v, 2, toBytes 32 v.toNat),
      (.msfAdd (.control h) addr v, 3, toBytes 32 v.toNat), (.msfSwap (.control h) addr v, 4, toBytes 32 v.toNat),
      (.msfCas (.control h) addr v w, 5, toBytes 8 v.toNat ++ toBytes 24 w.toNat)]) :
    exec c s = .next (s.controlIssue h addr mop data) := by
  have acts : ¬ ((!s.live || !(inAperture addr)) = true) := by simp [live, aperture]
  simp only [List.mem_cons, List.not_mem_nil, or_false, Prod.mk.injEq] at operation
  obtain ⟨rfl, rfl, rfl⟩ | ⟨rfl, rfl, rfl⟩ | ⟨rfl, rfl, rfl⟩ | ⟨rfl, rfl, rfl⟩ | ⟨rfl, rfl, rfl⟩ := operation
  all_goals exact if_neg acts

/-- The committed operations, with their MOP (R289, R293). -/
theorem exec_commit_operation {s : State} {addr : Nat} {v : BitVec 64} {c : Instr} {mop : Nat} (live : s.live = true)
    (aperture : inAperture addr = true)
    (operation : (c, mop) ∈ [(.msfStore .commit addr v, 2), (.msfAdd .commit addr v, 3), (.msfSwap .commit addr v, 4)]) :
    exec c s = .next (s.commitIssue addr mop v.toNat) := by
  have acts : ¬ ((!s.live || !(inAperture addr)) = true) := by simp [live, aperture]
  simp only [List.mem_cons, List.not_mem_nil, or_false, Prod.mk.injEq] at operation
  obtain ⟨rfl, rfl⟩ | ⟨rfl, rfl⟩ | ⟨rfl, rfl⟩ := operation
  all_goals exact if_neg acts

theorem exec_msfLoad_of_thread {s : State} {tile : Fin 48} {th rd : Fin 32} {addr : Nat} {c : TileCmd} {h : Thread} {acc : CoreAcc}
    (live : s.live = true) (aperture : inAperture addr = true) (runs : s.cmd? tile.val = some c) (own : c.thread? th.val = some h)
    (waits : h.wait = some (.issue addr acc)) (target : acc.rd = rd) :
    exec (.msfLoad (.core tile th rd) addr) s =
      let r := s.msfIssue (.core tile th rd) (addr / 8 * 8) 8 1 []
      .next (match r.2 with
        | some i => r.1.updThread tile.val th.val (fun x => { x with wait := some (.remote (apDie addr) i (addr % 8) acc) })
        | none => r.1) := by
  show execMsfLoad (.core tile th rd) addr s = _
  unfold execMsfLoad
  rw [if_neg (by simp [live, aperture])]
  simp only [runs, own, waits, target, Option.bind_some, mopLoad]
  rw [if_neg (by simp)]
  cases (s.msfIssue (.core tile th rd) (addr / 8 * 8) 8 1 []).2 with
  | none => rfl
  | some i => rfl

section
variable {s : State} {addr mop v : Nat} {o : CommitOp} {rest : List CommitOp} (ops : s.fab.commitOps = o :: rest)
include ops

theorem State.commitIssue_of_other (other : o.addr ≠ addr ∨ o.mop ≠ mop ∨ o.val ≠ v) : s.commitIssue addr mop v = s := by
  unfold State.commitIssue
  rw [ops]
  exact if_pos (by simpa [or_assoc] using other)

section
variable (addr_ : o.addr = addr) (mop_ : o.mop = mop) (val : o.val = v)
include addr_ mop_ val

theorem State.commitIssue_of_refused (refused : s.windowCheck .commit addr 8 mop ≠ none) : s.commitIssue addr mop v =
    let r := s.msfIssue .commit addr 8 mop (toBytes 32 v)
    State.deferLost { r.1 with fab := { r.1.fab with commitOps := rest } } o.tag o.tenant (wnDest (s.window addr)) := by
  obtain ⟨cause, found⟩ := Option.ne_none_iff_exists'.mp refused
  unfold State.commitIssue
  rw [ops]
  dsimp only
  rw [if_neg (by simp [addr_, mop_, val]), found]

theorem State.commitIssue_of_passed (passes : s.windowCheck .commit addr 8 mop = none) : s.commitIssue addr mop v =
    let r := s.msfIssue .commit addr 8 mop (toBytes 32 v)
    match r.2 with
    | some i => State.updLnd { r.1 with fab := { r.1.fab with commitOps := rest } } (apDie addr) (fun d => { d with
        txn := Tbl.upd d.txn i {} (fun t => { t with agent := t.agent + o.tag * 2 ^ 32 + o.tenant * 2 ^ 48 }) })
    | none => s := by
  unfold State.commitIssue
  rw [ops]
  dsimp only
  rw [if_neg (by simp [addr_, mop_, val]), passes]
  split
  · next refused => cases refused
  · next slot => rw [slot]
  · next none_ => rw [none_]

end

end

/-! ## DMA bursts (R215, R294) -/

section
variable {s : State} {ag : Agent} {addr len : Nat} {wr : Bool}

theorem exec_burst (live : s.live = true) :
    exec (if wr then .writeBurst ag addr len else .readBurst ag addr len) s = .next (s.burstIssue ag addr len wr) := by
  have acts : ¬ ((!s.live) = true) := by simp [live]
  cases wr
  · exact if_neg acts
  · exact if_neg acts

theorem State.burstIssue_of_none (none_ : s.burst? ag addr len wr = none) : s.burstIssue ag addr len wr = s := by
  unfold State.burstIssue
  rw [none_]

variable {b : Burst} (waits : s.burst? ag addr len wr = some b)
include waits

theorem State.burstIssue_of_held (write : wr = true) (own : b.data = none) (held : s.heldChan b.loc len ≠ none) :
    s.burstIssue ag addr len wr = s := by
  unfold State.burstIssue
  rw [waits]
  exact if_pos (by simp [write, own, Option.isSome_iff_ne_none.mpr held])

/-- A burst whose bytes are at hand is issued; in its slot it is marked, and its channel counts it. -/
theorem State.burstIssue_of_free (free : wr = true → b.data = none → s.heldChan b.loc len = none) : s.burstIssue ag addr len wr =
    let r := s.msfIssue ag addr len (if wr then 7 else 6) (if wr then b.data.getD (s.bytes b.loc len) else [])
    let u : State := { r.1 with fab := { r.1.fab with bursts := r.1.fab.bursts.map (fun x => if x = b then { x with issued := true } else x) } }
    match r.2, u.chanOfAgent ag with
    | none, _ => r.1
    | some _, some (e, k) => u.updDch e k (fun x => { x with bursts := satAdd 32 x.bursts 1 })
    | some _, none => u := by
  have reads : ¬ ((wr && b.data.isNone && (s.heldChan b.loc len).isSome) = true) := by
    rintro held
    simp only [Bool.and_eq_true, Option.isNone_iff_eq_none] at held
    obtain ⟨⟨write, own⟩, held⟩ := held
    simp [free write own] at held
  unfold State.burstIssue
  rw [waits]
  dsimp only
  rw [if_neg reads]
  simp only [mopWriteBurst, mopReadBurst]
  split
  · next none_ => rw [none_]
  · next some_ =>
    rw [some_]
    split
    · next chan => rw [chan]
    · next chan => rw [chan]

end

/-- Settles O34: an access by what the MSF makes of it, and each issuer's command by what it does with that answer. -/
theorem msfIssue : Obligations.MsfIssue := by
  unfold Obligations.MsfIssue
  refine ⟨fun s ag addr n mop data => ⟨fun st cause refused => State.msfIssue_of_refused refused, fun passes =>
      ⟨State.msfIssue_of_waiting passes, fun i still slot => ⟨State.msfIssue_of_sent passes still slot, Claims.msfSent_onFabric i,
        State.enq_sent .., Claims.msfSent_txn i⟩⟩⟩,
    fun s h addr v w c mop data live aperture operation => ?control,
    fun s tile th rd addr c h acc live aperture runs own waits target => ?thread,
    fun s addr v o rest c mop live aperture ops operation => ?commit,
    fun s ag addr len wr b live waits => ?burst,
    fun s ag addr len none_ => ?noRead, fun s ag addr len none_ => ?noWrite⟩
  case control =>
    rw [exec_control_operation live aperture operation]
    exact ⟨fun odd => congrArg _ (if_pos odd), fun aligned => congrArg _ (if_neg (not_not_intro aligned))⟩
  case thread =>
    rw [exec_msfLoad_of_thread live aperture runs own waits target]
    exact ⟨fun i slot => by dsimp only; rw [slot], fun none_ => by dsimp only; rw [none_]⟩
  case commit =>
    rw [exec_commit_operation live aperture operation]
    refine ⟨fun other => by rw [State.commitIssue_of_other ops other], fun addr_ mop_ val => ⟨fun refused => ?_, fun passes => ?_⟩⟩
    · rw [State.commitIssue_of_refused ops addr_ mop_ val refused]
    · rw [State.commitIssue_of_passed ops addr_ mop_ val passes]
      exact ⟨fun i slot => by dsimp only; rw [slot], fun none_ => by dsimp only; rw [none_]⟩
  case burst =>
    dsimp only
    rw [exec_burst live]
    refine ⟨fun write own held => by rw [State.burstIssue_of_held waits write own held], fun free => ?_⟩
    rw [State.burstIssue_of_free waits free]
    refine ⟨fun none_ => by dsimp only; rw [none_], fun sent => ?_⟩
    obtain ⟨i, slot⟩ := Option.ne_none_iff_exists'.mp sent
    exact ⟨fun e k chan => by dsimp only; rw [slot, chan], fun none_ => by dsimp only; rw [slot, none_]⟩
  case noRead =>
    cases live : s.live
    · exact if_pos (by simp [live])
    · exact (exec_burst (wr := false) live).trans (congrArg _ (State.burstIssue_of_none none_))
  case noWrite =>
    cases live : s.live
    · exact if_pos (by simp [live])
    · exact (exec_burst (wr := true) live).trans (congrArg _ (State.burstIssue_of_none none_))

end Sys2Proof.Machine
end

section
/-!
Requests and responses of the MSF (R289 to R302): the answer to a request, what a request that is performed stores and returns, the
end of an outstanding request for each issuer, ABANDON slot by slot, and from them `MsfReceive`.
-/
namespace Sys2Proof.Machine

/-! ## The answer to a request (R286, R290) -/

/-- A request that is refused is counted (R302). -/
def State.countRefusal (s : State) (die st : Nat) : State :=
  if st = 0 then s else s.updLnd die (fun d => { d with refusedIn := satAdd 32 d.refusedIn 1 })

theorem State.countRefusal_onFabric (s : State) (die st : Nat) : OnFabric s (s.countRefusal die st) := by
  unfold State.countRefusal
  split <;> rfl

theorem State.countRefusal_refusedIn (s : State) (die st d : Nat) : ((s.countRefusal die st).lnd d).refusedIn =
    if d = die ∧ st ≠ 0 then satAdd 32 (s.lnd d).refusedIn 1 else (s.lnd d).refusedIn := by
  unfold State.countRefusal
  by_cases ok : st = 0
  · simp [ok]
  · by_cases own : d = die
    · subst own
      simp [ok]
    · simp [ok, own]

/-- The tenant a response is sent for, when its region is known (R352). -/
def State.responseTenant (s : State) (p : Pkt) (st : Nat) : Option Nat :=
  if st = 0x09 || st = 0x03 then none else some (rgTenant (s.region (mqRegion p)))

section
variable (s : State) (die : Nat) (p : Pkt) (st : Nat) (data : List Byte)

/-- A request is answered on the link that reaches its source, if there is one. -/
theorem State.msfRespond_eq : s.msfRespond die p st data = match Claims.answerLink s p with
    | none => s.countRefusal die st
    | some lk => (s.countRefusal die st).enq lk { p := Claims.response s p st data, tenant := s.responseTenant p st } := by
  unfold State.msfRespond State.countRefusal
  by_cases ok : st = 0
  · subst ok
    rfl
  · rw [if_neg ok]
    rfl

theorem State.msfRespond_onFabric : OnFabric s (s.msfRespond die p st data) := by
  rw [State.msfRespond_eq]
  split
  · exact s.countRefusal_onFabric die st
  · exact (s.countRefusal_onFabric die st).trans (State.enq_queues ..).onFabric

theorem State.msfRespond_refusedIn (d : Nat) : ((s.msfRespond die p st data).lnd d).refusedIn =
    if d = die ∧ st ≠ 0 then satAdd 32 (s.lnd d).refusedIn 1 else (s.lnd d).refusedIn := by
  rw [State.msfRespond_eq, ← State.countRefusal_refusedIn]
  split
  · rfl
  · rw [(State.enq_queues ..).dies d]

theorem State.msfRespond_sent {lk : Nat} (link : Claims.answerLink s p = some lk) :
    Claims.sent (s.msfRespond die p st data) lk (Claims.response s p st data) := by
  rw [State.msfRespond_eq, link]
  exact State.enq_sent ..

end

/-! ## A request that is performed (R289, R391) -/

/-- Only memory with a tile's reservations, and the counts of bytes, have changed. -/
def Stored (s t : State) : Prop := t = { s with mem := t.mem, tiles := t.tiles, acct := t.acct, feed := t.feed }

/-- The answer to a request that is performed comes on top of what it stored. -/
theorem Stored.answered {r s t : State} (h : Stored r s) (k : OnFabric s t) : t = { r with
    fab := t.fab, fcl := t.fcl, mem := t.mem, tiles := t.tiles, acct := t.acct, feed := t.feed } := by
  unfold Stored at h
  unfold OnFabric at k
  rw [k, h]

theorem Stored.answerLink {s t : State} (h : Stored s t) (p : Pkt) : Claims.answerLink t p = Claims.answerLink s p := by
  unfold Stored at h
  rw [h]
  rfl

theorem Stored.response {s t : State} (h : Stored s t) (p : Pkt) (st : Nat) (data : List Byte) :
    Claims.response t p st data = Claims.response s p st data := by
  unfold Stored at h
  rw [h]
  rfl

theorem State.countRx_frame (s : State) (tn lk n : Nat) :
    s.countRx tn lk n = { s with acct := (s.countRx tn lk n).acct, feed := (s.countRx tn lk n).feed } := by
  unfold State.countRx State.tap
  split <;> rfl

/-- The bytes of a request's access, and of its packet when it writes, are counted. -/
def State.countMop (s : State) (p : Pkt) : State :=
  let tn := rgTenant (s.region (mqRegion p))
  if mopWrites (mqMop p) then (s.countTier tn (s.mqAddr p) (mqLen p) true).countRx tn p.via (32 * p.flits)
  else s.countTier tn (s.mqAddr p) (mqLen p) false

theorem State.countMop_frame (s : State) (p : Pkt) :
    s.countMop p = { s with acct := (s.countMop p).acct, feed := (s.countMop p).feed } := by
  unfold State.countMop
  extract_lets tn
  split
  · rw [State.countRx_frame, State.countTier_frame]
  · exact State.countTier_frame ..

theorem State.countMop_mem (s : State) (p : Pkt) : (s.countMop p).mem = s.mem := by rw [State.countMop_frame]

/-- A request's access is counted, and its bytes stored when it stores any. -/
def State.storeMop (s : State) (p : Pkt) : State :=
  match Claims.mopStored s p with
  | some bs => (s.countMop p).placeBytes (s.mqAddr p) bs
  | none => s.countMop p

theorem State.storeMop_stored (s : State) (p : Pkt) : Stored s (s.storeMop p) := by
  unfold Stored State.storeMop
  split
  · rw [State.placeBytes_frame, State.countMop_frame]
  · rw [State.countMop_frame]

theorem State.storeMop_mem (s : State) (p : Pkt) : (s.storeMop p).mem = match Claims.mopStored s p with
    | some bs => memPut memKey s.mem (s.mqAddr p) bs
    | none => s.mem := by
  unfold State.storeMop
  cases Claims.mopStored s p with
  | none => exact s.countMop_mem p
  | some bs => exact (State.placeBytes_reads ..).1.trans (by rw [State.countMop_mem])

theorem State.msfPerform_of_poison (s : State) (die : Nat) (p : Pkt) : s.msfPerform die p true = s.msfRespond die p 0x07 [] := rfl

/-- A sound request stores what its operation stores, and is answered with what it returns. -/
theorem State.msfPerform_of_sound (s : State) (die : Nat) (p : Pkt) (low : 1 ≤ mqMop p) (high : mqMop p ≤ 7) :
    s.msfPerform die p false = (s.storeMop p).msfRespond die p 0 (Claims.mopReturned s p) := by
  have bytes : (s.countMop p).bytes (s.mqAddr p) (mqLen p) = s.bytes (s.mqAddr p) (mqLen p) :=
    State.bytes_congr (by rw [State.countMop_frame]) ..
  have operations : mqMop p = 1 ∨ mqMop p = 2 ∨ mqMop p = 3 ∨ mqMop p = 4 ∨ mqMop p = 5 ∨ mqMop p = 6 ∨ mqMop p = 7 := by omega
  obtain mop | mop | mop | mop | mop | mop | mop := operations
  all_goals simp [State.countMop, mop, mopWrites] at bytes
  all_goals simp [State.msfPerform, State.storeMop, State.countMop, Claims.mopStored, Claims.mopReturned, mop, mopWrites, mopLoad, mopStore,
      mopAdd, mopSwap, mopCas, mopReadBurst, bytes]
  split <;> rfl

/-! ## A request that is received (R169, R291, R295) -/

section
variable {s : State} {die : Nat} {p : Pkt} {poison : Bool}

theorem State.msfReach_of_behind (writes : mopWrites (mqMop p) = true)
    (behind : s.earlierHeld p (s.heldChan (s.mqAddr p) (mqLen p)) = true) :
    s.msfReach die p poison = s.updLnd die (fun d => { d with msfIn := d.msfIn ++ [p] }) :=
  if_pos (by simp [writes, behind])

theorem State.msfReach_of_first
    (first : ¬ (mopWrites (mqMop p) = true ∧ s.earlierHeld p (s.heldChan (s.mqAddr p) (mqLen p)) = true)) :
    s.msfReach die p poison = match s.heldChan (s.mqAddr p) (mqLen p) with
      | some ch => s.holdAcc ch ⟨.fabric die, mopWrites (mqMop p), chanOff (s.mqAddr p), mqLen p, [],
          .msf ⟨die % 2, Nat.mod_lt _ (by decide)⟩ p⟩
      | none => s.msfPerform die p poison :=
  if_neg (by simpa using first)

end

/-- A packet that is taken leaves its link alone changed. -/
theorem State.takeRx_frame (s : State) (p : Pkt) :
    (s.takeRx p).1 = { s with fab := { s.fab with links := (s.takeRx p).1.fab.links } } := by
  unfold State.takeRx
  split <;> rfl

theorem inboundStatus_ne_three (st : Nat) : inboundStatus st ≠ 3 := by
  unfold inboundStatus
  split
  · decide
  · split <;> decide

/-- A request whose own checks pass is refused, if at all, by the map. -/
theorem State.msfReqStatus_of_checked {s : State} {p : Pkt} (checked : s.mqCheck p = 0) (die : Nat) :
    s.msfReqStatus die p = inboundStatus (s.mqStatus die p) :=
  if_neg (not_not_intro checked)

/-- The count of a bad region entry is no part of a request's checks. -/
theorem State.regionCrc_mqCheck (s : State) (die region : Nat) (p : Pkt) : (s.regionCrc die region).mqCheck p = s.mqCheck p := by
  unfold State.regionCrc
  split
  · rw [State.raise_frame]
    rfl
  · rfl

section
variable {s : State} {die : Fin 2} {p : Pkt} {poison : Bool} (live : s.live = true) (kind : p.ptype = 4)
include live kind

/-- What the MSF makes of a request: its checks, what a failure counts and raises, then its answer or its access. -/
theorem exec_msfRequestReceive_of_live : exec (.msfRequestReceive die p poison) s =
    let q := (s.arrive p).2
    let u := (s.takeRx q).1
    let st := u.msfReqStatus die.val q
    let v := if st = 3 then u.regionCrc die.val (mqRegion q) else u
    let w := if v.mqCheck q = 0 && st ≠ 0 then v.violateAt (.fabric die.val) (v.mqAddr q) else v
    if st ≠ 0 then .next (w.msfRespond die.val q st []) else .next (w.msfReach die.val q poison) :=
  if_neg (by simp [live, kind])

variable {q : Pkt} {u : State} (packet : (s.arrive p).2 = q) (taken : (s.takeRx q).1 = u)
include packet taken

theorem exec_msfRequestReceive_of_ok (ok : u.msfReqStatus die.val q = 0) :
    exec (.msfRequestReceive die p poison) s = .next (u.msfReach die.val q poison) := by
  rw [exec_msfRequestReceive_of_live live kind]
  simp [packet, taken, ok]

theorem exec_msfRequestReceive_of_bad {st : Nat} (status : u.msfReqStatus die.val q = st) (bad : u.mqCheck q ≠ 0) (failed : st ≠ 0)
    (sound : st ≠ 3) : exec (.msfRequestReceive die p poison) s = .next (u.msfRespond die.val q st []) := by
  rw [exec_msfRequestReceive_of_live live kind]
  simp [packet, taken, status, bad, failed, sound]

theorem exec_msfRequestReceive_of_bad_region {st : Nat} (status : u.msfReqStatus die.val q = st) (bad : u.mqCheck q ≠ 0)
    (region : st = 3) :
    exec (.msfRequestReceive die p poison) s = .next ((u.regionCrc die.val (mqRegion q)).msfRespond die.val q st []) := by
  subst region
  rw [exec_msfRequestReceive_of_live live kind]
  simp [packet, taken, status, State.regionCrc_mqCheck, bad]

theorem exec_msfRequestReceive_of_unmapped {st : Nat} (status : u.msfReqStatus die.val q = st) (checked : u.mqCheck q = 0)
    (failed : st ≠ 0) : st ≠ 3 ∧ exec (.msfRequestReceive die p poison) s =
      .next ((u.violateAt (.fabric die.val) (u.mqAddr q)).msfRespond die.val q st []) := by
  have sound : st ≠ 3 := by
    rw [← status, State.msfReqStatus_of_checked checked]
    exact inboundStatus_ne_three _
  refine ⟨sound, ?_⟩
  rw [exec_msfRequestReceive_of_live live kind]
  simp [packet, taken, status, checked, failed, sound]

end

/-! ## An outstanding request ends (R293, R298) -/

/-- The burst of a DMA agent that a slot's request carries (R294). -/
def State.doneBurst (s : State) (x : Txn) (ag : Agent) : Option Burst :=
  s.fab.bursts.find? (fun b => b.ag = ag && b.addr = x.addr && b.len = x.len && b.issued)

section
variable (s : State) (die slot : Nat) (x : Txn) (ag : Agent) (retire : Bool)

/-- The slot alone has changed, and the burst that is no longer waited for. -/
theorem Claims.freed_frame : Claims.freed s die slot x ag retire = { s with fab := { s.fab with
    lds := (Claims.freed s die slot x ag retire).fab.lds, bursts := (Claims.freed s die slot x ag retire).fab.bursts } } := by
  unfold Claims.freed
  extract_lets u
  split <;> rfl

theorem Claims.freed_lnd (d : Nat) : (Claims.freed s die slot x ag retire).lnd d = (s.updLnd die (fun d =>
    { d with txn := Tbl.put d.txn slot { x with ag := none, retired := if retire then some s.ltu else none } })).lnd d := by
  unfold Claims.freed
  extract_lets u
  split <;> rfl

theorem Claims.freed_txn (d k : Nat) : Tbl.getD ((Claims.freed s die slot x ag retire).lnd d).txn k {} = if d = die ∧ k = slot
    then { x with ag := none, retired := if retire then some s.ltu else none } else Tbl.getD (s.lnd d).txn k {} := by
  rw [Claims.freed_lnd]
  by_cases own : d = die
  · subst own
    rw [State.updLnd_lnd_self]
    by_cases same : k = slot
    · simp [same]
    · simp [same]
  · simp [own]

theorem Claims.freed_faultValid (d : Nat) : ((Claims.freed s die slot x ag retire).lnd d).faultValid = (s.lnd d).faultValid := by
  rw [Claims.freed_lnd]
  by_cases own : d = die
  · subst own
    rw [State.updLnd_lnd_self]
  · rw [State.updLnd_lnd_ne _ _ own]

end

section
variable {s : State} {die slot : Nat} {x : Txn} {data : List Byte} {retire : Bool}

/-- A request that ended well gives its issuer the result: a value to a hart or to the thread that waits for this slot, a read's
bytes to a burst (R293, R294). -/
def State.msfResult (w : State) (die slot mop : Nat) (ag : Agent) (done : Option Burst) (data : List Byte) : State :=
  match ag with
  | .control _ => if mop = 2 then w else { w with fab := { w.fab with ctlResult := ofBytes (data.take 8) } }
  | .commit => w
  | .core tl th _ =>
    match (w.cmd? tl.val).bind (fun c => c.thread? th.val) with
    | some h => match h.wait with
      | some (.remote d k lane acc) =>
        if d = die && k = slot then
          (w.updThread tl.val th.val (fun y =>
            { y.loaded acc (ofBytes (data.take 8) >>> (8 * lane)) with wait := none })).updCmd tl.val TileCmd.wake
        else w
      | _ => w
    | none => w
  | .dma _ _ | .tileDma _ _ =>
    match done with
    | none => w
    | some b => if b.write then w else w.burstData ag b ((data.drop b.skip).take b.used)

theorem State.msfEnd_of_ok (ag : Agent) : s.msfEnd die slot x ag 0 data retire =
    (Claims.freed s die slot x ag retire).msfResult die slot x.mop ag (s.doneBurst x ag) data := by
  cases ag <;> rfl

theorem State.msfResult_of_thread {w : State} {mop : Nat} {tl : Fin 48} {th rd : Fin 32} {c : TileCmd} {h : Thread} {lane : Nat}
    {acc : CoreAcc} {done : Option Burst} (runs : w.cmd? tl.val = some c) (own : c.thread? th.val = some h)
    (waits : h.wait = some (.remote die slot lane acc)) : w.msfResult die slot mop (.core tl th rd) done data =
      (w.updThread tl.val th.val (fun y =>
        { y.loaded acc (ofBytes (data.take 8) >>> (8 * lane)) with wait := none })).updCmd tl.val TileCmd.wake := by
  simp [State.msfResult, runs, own, waits]

/-- A DMA agent's read places its burst's bytes, or sends them on; its write is over. -/
theorem State.msfResult_of_burst {w : State} {mop : Nat} {ag : Agent} (engine : (∃ e c, ag = .dma e c) ∨ ∃ tl h, ag = .tileDma tl h)
    (b : Burst) : w.msfResult die slot mop ag (some b) data =
      if b.write then w else w.burstData ag b ((data.drop b.skip).take b.used) := by
  obtain ⟨e, c, rfl⟩ | ⟨tl, h, rfl⟩ := engine
  · rfl
  · rfl

theorem State.msfEnd_of_burst {ag : Agent} {b : Burst} (engine : (∃ e c, ag = .dma e c) ∨ ∃ tl h, ag = .tileDma tl h)
    (done : s.doneBurst x ag = some b) : s.msfEnd die slot x ag 0 data retire =
      let w := Claims.freed s die slot x ag retire
      if b.write then w else w.burstData ag b ((data.drop b.skip).take b.used) := by
  rw [State.msfEnd_of_ok, done]
  exact State.msfResult_of_burst engine b

variable {st : Nat} (failed : st ≠ 0)
include failed

/-- A request that failed is reported, and its issuer has the failure. -/
theorem State.msfEnd_of_failed (ag : Agent) : s.msfEnd die slot x ag st data retire =
    let f := (Claims.freed s die slot x ag retire).msfFault die st x.dest (x.agent % 2 ^ 24) x.addr
    match ag with
    | .control h => f.ctlFail h x.mop
    | .core tl _ _ => f.failCmd tl.val Stat.remoteFault
    | .commit => f.deferLost (bits x.agent 32 10) (bits x.agent 48 16) x.dest
    | .dma _ _ | .tileDma _ _ => f.dmaFail ag Stat.remoteFault (((s.doneBurst x ag).map (fun b => b.pos + 1)).getD 0) := by
  unfold State.msfEnd
  dsimp only
  rw [if_pos failed]
  cases ag <;> rfl

end

/-- MSF_FAULT keeps the first fault (R302). -/
theorem State.msfFault_reads (s : State) (die cause dest agent addr : Nat) :
    ((s.msfFault die cause dest agent addr).lnd die).faultValid = true ∧
      ((s.lnd die).faultValid = false → ((s.msfFault die cause dest agent addr).lnd die).faultCause = cause ∧
        ((s.msfFault die cause dest agent addr).lnd die).faultDest = dest ∧
        ((s.msfFault die cause dest agent addr).lnd die).faultAgent = agent ∧
        ((s.msfFault die cause dest agent addr).lnd die).faultAddr = addr) := by
  unfold State.msfFault
  rw [State.updLnd_lnd_self]
  by_cases first : (s.lnd die).faultValid = true
  · simp [first]
  · simp [first]

/-! ## Responses and timeouts (R292, R298) -/

section
variable {s : State} {die : Fin 2} {p : Pkt} {x : Txn} (live : s.live = true) (kind : p.ptype = 5)
  (slot : Tbl.getD (s.lnd die.val).txn (bits (bits p.h 96 16) 0 12) {} = x) {q : Pkt} {u : State}
  (packet : (s.arrive p).2 = q) (taken : (s.takeRx q).1 = u)
include live kind slot packet taken

/-- What the MSF makes of a response: it ends its slot's request, or it is late. -/
theorem exec_msfResponseReceive_of_live : exec (.msfResponseReceive die p) s =
    let late := u.updLnd die.val (fun d => { d with lateResp := satAdd 32 d.lateResp 1 })
    let st := fld p.h 0x0E 1
    .next (match x.ag with
      | none => late
      | some ag => if x.gen ≠ bits (bits p.h 96 16) 12 4 then late
        else
          let v := if st = 0 then u else u.updLnd die.val (fun d => { d with refusedOut := satAdd 32 d.refusedOut 1 })
          let w := if p.data.isEmpty then v else v.countRx x.tenant q.via (32 * p.flits)
          w.msfEnd die.val (bits (bits p.h 96 16) 0 12) x ag st p.data false) := by
  have own : Tbl.getD (u.lnd die.val).txn (bits (bits p.h 96 16) 0 12) {} = x := by
    rw [← taken, State.takeRx_frame]
    exact slot
  have head : q.h = p.h ∧ q.data = p.data ∧ q.flits = p.flits := by
    subst packet
    exact ⟨rfl, rfl, rfl⟩
  obtain ⟨hdr, bytes, flits⟩ := head
  show execMsfResponseReceive die p s = _
  unfold execMsfResponseReceive
  rw [if_neg (by simp [live, kind])]
  simp only [packet, taken, hdr, bytes, flits, own]
  cases x.ag with
  | none => rfl
  | some ag => exact (apply_ite _ _ _ _).symm

end

section
variable {s : State} {die : Fin 2} {slot : Fin 4096} {x : Txn} (live : s.live = true)
  (own : Tbl.getD (s.lnd die.val).txn slot.val {} = x)
include live own

theorem exec_msfTimeout_of_live {ag : Agent} (out : x.ag = some ag) : exec (.msfTimeout die slot) s =
    if x.anchored = true ∨ s.ltu ≤ x.sent + 100 * (s.lnd die.val).timeoutUs then .next s
    else .next ((s.updLnd die.val (fun d => { d with timeouts := satAdd 32 d.timeouts 1 })).msfEnd die.val slot.val x ag 0x10 [] true) := by
  show execMsfTimeout die slot s = _
  simp [execMsfTimeout, own, out, live]

theorem exec_txnSlotReissue_of_live {r : Nat} (retired : x.retired = some r) : exec (.txnSlotReissue die slot) s =
    if s.ltu ≤ r + 100 * (s.lnd die.val).timeoutUs then .next s
    else .next (s.updLnd die.val (fun d => { d with txn := Tbl.put d.txn slot.val { x with retired := none } })) := by
  show execTxnSlotReissue die slot s = _
  simp [execTxnSlotReissue, own, retired, live]

end

theorem exec_msfTimeout_of_free {s : State} {die : Fin 2} {slot : Fin 4096}
    (free : (Tbl.getD (s.lnd die.val).txn slot.val {}).ag = none) : exec (.msfTimeout die slot) s = .next s := by
  show execMsfTimeout die slot s = _
  simp [execMsfTimeout, free]

/-! ## ABANDON (R299, R300) -/

/-- A slot once the requests to a destination are abandoned. -/
def Txn.abandoned (x : Txn) (dest : Nat) : Txn :=
  if x.ag.isSome = true ∧ x.dest = dest then { x with ag := none, retired := none } else x

theorem Txn.abandoned_abandoned (x : Txn) (dest : Nat) : (x.abandoned dest).abandoned dest = x.abandoned dest := by
  unfold Txn.abandoned
  by_cases out : x.ag.isSome = true ∧ x.dest = dest
  · simp [out]
  · simp [out]

/-- A slot that is still out is as it was, and its request goes elsewhere. -/
theorem Txn.abandoned_of_out {x : Txn} {dest : Nat} {ag : Agent} (out : (x.abandoned dest).ag = some ag) :
    x.abandoned dest = x ∧ x.dest ≠ dest := by
  unfold Txn.abandoned at out ⊢
  by_cases own : x.ag.isSome = true ∧ x.dest = dest
  · simp [own] at out
  · rw [if_neg own] at out ⊢
    exact ⟨rfl, fun same => own ⟨by simp [out], same⟩⟩

theorem Txn.abandoned_of_elsewhere {x : Txn} {dest : Nat} (elsewhere : x.dest ≠ dest) : x.abandoned dest = x :=
  if_neg (fun own => elsewhere own.2)

/-- One slot of a link die is abandoned when its request goes to the destination. -/
def State.abandonSlot (die dest : Nat) (s : State) (i : Nat) : State :=
  let x := Tbl.getD (s.lnd die).txn i {}
  match x.ag with
  | some ag => if x.dest = dest then s.msfEnd die i x ag 0x12 [] false else s
  | none => s

theorem exec_msfAbandon_of_dest {s : State} {die : Fin 2} {dest : BitVec 12} (live : s.live = true) (named : dest.toNat ≠ 0) :
    exec (.msfAbandon die dest) s = .next ((Tbl.keys (s.lnd die.val).txn).foldl (State.abandonSlot die.val dest.toNat) s) :=
  if_neg (by simp [live, named])

/-- Only control cores have requests out to a destination. -/
def State.ControlOnly (s : State) (die dest : Nat) : Prop :=
  ∀ i ag, (Tbl.getD (s.lnd die).txn i {}).ag = some ag → (Tbl.getD (s.lnd die).txn i {}).dest = dest → ∃ h, ag = .control h

theorem State.ctlFail_frame (s : State) (h : Fin 8) (mop : Nat) : s.ctlFail h mop = { s with fab := (s.ctlFail h mop).fab } := by
  unfold State.ctlFail
  split <;> rfl

theorem State.ctlFail_lnd (s : State) (h : Fin 8) (mop d : Nat) : (s.ctlFail h mop).lnd d = s.lnd d := by
  unfold State.ctlFail
  split <;> rfl

theorem State.msfFault_txn (s : State) (die cause dest agent addr : Nat) :
    ((s.msfFault die cause dest agent addr).lnd die).txn = (s.lnd die).txn := by
  unfold State.msfFault
  rw [State.updLnd_lnd_self]
  split <;> rfl

/-- A control core's request that failed changes its slot and the rest of the fabric alone. -/
theorem State.msfEnd_control_reads (s : State) (die slot : Nat) (x : Txn) (h : Fin 8) {st : Nat} (failed : st ≠ 0) (data : List Byte) :
    s.msfEnd die slot x (.control h) st data false = { s with fab := (s.msfEnd die slot x (.control h) st data false).fab } ∧
      ∀ k, Tbl.getD ((s.msfEnd die slot x (.control h) st data false).lnd die).txn k {} =
        if k = slot then { x with ag := none, retired := none } else Tbl.getD (s.lnd die).txn k {} := by
  rw [State.msfEnd_of_failed failed]
  refine ⟨?_, fun k => ?_⟩
  · dsimp only
    rw [State.ctlFail_frame, State.msfFault, Claims.freed_frame]
    rfl
  · dsimp only
    rw [State.ctlFail_lnd, State.msfFault_txn, Claims.freed_txn]
    simp

/-- An abandoned slot changes as its request says, and the rest of the fabric alone with it. -/
theorem State.abandonSlot_reads {s : State} {die dest : Nat} (control : s.ControlOnly die dest) (i : Nat) :
    s.abandonSlot die dest i = { s with fab := (s.abandonSlot die dest i).fab } ∧
      ∀ k, Tbl.getD ((s.abandonSlot die dest i).lnd die).txn k {} = if k = i then (Tbl.getD (s.lnd die).txn k {}).abandoned dest
        else Tbl.getD (s.lnd die).txn k {} := by
  by_cases own : (Tbl.getD (s.lnd die).txn i {}).ag.isSome = true ∧ (Tbl.getD (s.lnd die).txn i {}).dest = dest
  · obtain ⟨out, same⟩ := own
    obtain ⟨ag, agent⟩ := Option.isSome_iff_exists.mp out
    obtain ⟨h, rfl⟩ := control i ag agent same
    have ends : s.abandonSlot die dest i = s.msfEnd die i (Tbl.getD (s.lnd die).txn i {}) (.control h) 0x12 [] false := by
      simp [State.abandonSlot, agent, same]
    obtain ⟨frame, slots⟩ := s.msfEnd_control_reads die i (Tbl.getD (s.lnd die).txn i {}) h (st := 0x12) (by decide) []
    rw [ends]
    refine ⟨frame, fun k => (slots k).trans ?_⟩
    by_cases here : k = i
    · subst here
      simp [Txn.abandoned, out, same]
    · simp [here]
  · have stays : s.abandonSlot die dest i = s := by
      unfold State.abandonSlot
      dsimp only
      split
      · next ag agent => exact if_neg (fun same => own ⟨by simp [agent], same⟩)
      · rfl
    rw [stays]
    refine ⟨rfl, fun k => ?_⟩
    by_cases here : k = i
    · subst here
      simp [Txn.abandoned, own]
    · simp [here]

/-- Slots abandoned one after the other, in any order. -/
theorem State.foldl_abandonSlot {s : State} {die dest : Nat} (control : s.ControlOnly die dest) (ks : List Nat) :
    let t := ks.foldl (State.abandonSlot die dest) s
    t = { s with fab := t.fab } ∧ ∀ k, Tbl.getD (t.lnd die).txn k {} =
      if k ∈ ks then (Tbl.getD (s.lnd die).txn k {}).abandoned dest else Tbl.getD (s.lnd die).txn k {} := by
  induction ks generalizing s with
  | nil => exact ⟨rfl, fun _ => by simp⟩
  | cons i ks ih =>
    obtain ⟨frame, slots⟩ := State.abandonSlot_reads control i
    have still : (s.abandonSlot die dest i).ControlOnly die dest := by
      intro k ag out same
      rw [slots k] at out same
      split at out
      · next here =>
        rw [if_pos here] at same
        obtain ⟨kept, elsewhere⟩ := Txn.abandoned_of_out out
        exact absurd (kept ▸ same) elsewhere
      · next other =>
        rw [if_neg other] at same
        exact control k ag out same
    obtain ⟨frame', slots'⟩ := ih still
    refine ⟨?_, fun k => ?_⟩
    · rw [List.foldl_cons]
      generalize List.foldl (State.abandonSlot die dest) (s.abandonSlot die dest i) ks = t at frame'
      rw [frame', frame]
    · rw [List.foldl_cons, slots' k, slots k]
      by_cases here : k = i
      · simp [here, Txn.abandoned_abandoned]
      · simp [here]

/-! ### The slots a table holds -/

theorem mem_insertBy {α : Type} (le : α → α → Bool) (a b : α) (l : List α) : b ∈ insertBy le a l ↔ b = a ∨ b ∈ l := by
  induction l with
  | nil => simp [insertBy]
  | cons c l ih =>
    unfold insertBy
    split
    · simp
    · simp only [List.mem_cons, ih]
      exact or_left_comm

theorem mem_sortBy {α : Type} (le : α → α → Bool) (a : α) (l : List α) : a ∈ sortBy le l ↔ a ∈ l := by
  induction l with
  | nil => rfl
  | cons b l ih => rw [sortBy, mem_insertBy, ih, List.mem_cons]

/-- A table holds nothing at a number that is none of its keys. -/
theorem Tbl.find?_of_not_mem_keys {α : Type} {t : Tbl α} {i : Nat} (absent : i ∉ Tbl.keys t) : Tbl.find? t i = none := by
  unfold Tbl.keys sortNat at absent
  rw [mem_sortBy] at absent
  induction t with
  | nil => rfl
  | cons e t ih =>
    obtain ⟨k, v⟩ := e
    simp only [List.map_cons, List.mem_cons, not_or] at absent
    obtain ⟨other, rest⟩ := absent
    rw [Tbl.find?, if_neg (Ne.symm other)]
    exact ih rest

/-- After ABANDON of control cores' requests every slot is abandoned, and the fabric alone has changed. -/
theorem exec_msfAbandon_of_control {s : State} {die : Fin 2} {dest : BitVec 12} (live : s.live = true) (named : dest.toNat ≠ 0)
    (control : s.ControlOnly die.val dest.toNat) : ∃ t, exec (.msfAbandon die dest) s = .next t ∧ t = { s with fab := t.fab } ∧
      ∀ k, Tbl.getD (t.lnd die.val).txn k {} = (Tbl.getD (s.lnd die.val).txn k {}).abandoned dest.toNat := by
  obtain ⟨frame, slots⟩ := State.foldl_abandonSlot control (Tbl.keys (s.lnd die.val).txn)
  refine ⟨_, exec_msfAbandon_of_dest live named, frame, fun k => (slots k).trans ?_⟩
  split
  · rfl
  · next absent =>
    simp [Tbl.getD, Tbl.find?_of_not_mem_keys absent, Txn.abandoned]

theorem exec_msfCfgWrite_of_range {s : State} {v : BitVec 32} (live : s.live = true) (low : 10 ≤ bits v.toNat 0 17)
    (high : bits v.toNat 0 17 ≤ 100000) (die : Fin 2) : exec (.msfCfgWrite die v) s =
      .next (s.updLnd die.val (fun d => { d with timeoutUs := bits v.toNat 0 17 })) :=
  if_neg (by simp [live, low, high])

theorem exec_msfCfgWrite_of_outside {v : BitVec 32} (outside : bits v.toNat 0 17 < 10 ∨ 100000 < bits v.toNat 0 17) (s : State)
    (die : Fin 2) : exec (.msfCfgWrite die v) s = .next s := by
  show execMsfCfgWrite die v s = _
  simp [execMsfCfgWrite, or_assoc, outside]

/-- Settles O35: answers and accesses of requests by one equation each, the end of a slot's request for each issuer, and ABANDON by
what it makes of every slot. -/
theorem msfReceive : Obligations.MsfReceive := by
  unfold Obligations.MsfReceive
  refine ⟨fun s die p st data => ⟨s.msfRespond_refusedIn die p st data, fun none_ => ?unanswered, fun lk link =>
      ⟨s.msfRespond_onFabric die p st data, s.msfRespond_sent die p st data link⟩⟩,
    fun s die p => ⟨s.msfPerform_of_poison die p, fun low high => ?performed⟩,
    fun s die p poison => ⟨fun behind => State.msfReach_of_behind behind.1 behind.2, fun first =>
      ⟨fun none_ => by rw [State.msfReach_of_first first, none_], fun ch held => by rw [State.msfReach_of_first first, held]⟩⟩,
    fun s die p poison live kind => ⟨State.takeRx_frame .., exec_msfRequestReceive_of_ok live kind rfl rfl,
      fun failed bad sound => exec_msfRequestReceive_of_bad live kind rfl rfl rfl bad failed sound,
      fun _ bad region => exec_msfRequestReceive_of_bad_region live kind rfl rfl rfl bad region,
      fun failed checked => exec_msfRequestReceive_of_unmapped live kind rfl rfl rfl checked failed⟩,
    fun s die slot x ag data retire => ?ended,
    fun s die p x live kind own => ?response,
    fun s die slot x ag live own out => ?timeout,
    fun s die slot free => exec_msfTimeout_of_free free,
    fun s die slot x r live own retired => ?reissue,
    fun s die dest live named => exec_msfAbandon_of_dest live named,
    fun s die dest live named control => ?abandon,
    fun s die v live low high => exec_msfCfgWrite_of_range live low high die,
    fun s die v outside => exec_msfCfgWrite_of_outside outside s die,
    fun s die live => if_neg (by simp [live])⟩
  case unanswered =>
    rw [State.msfRespond_eq, none_]
    rfl
  case performed =>
    have answered := (s.storeMop p).msfRespond_onFabric die p 0 (Claims.mopReturned s p)
    have stored := s.storeMop_stored p
    rw [State.msfPerform_of_sound s die p low high]
    refine ⟨(congrArg State.mem answered).trans (s.storeMop_mem p), stored.answered answered, fun lk link => ?_⟩
    rw [← stored.response]
    exact State.msfRespond_sent _ die p 0 _ ((stored.answerLink p).trans link)
  case ended =>
    refine ⟨Claims.freed_txn s die slot x ag retire, fun h agent => ?_, fun agent => ?_, fun tl th rd c h lane acc agent runs own waits => ?_,
      fun e c b agent done => ?_, fun tl h b agent done => ?_, fun st failed => ?_⟩
    · subst agent
      exact State.msfEnd_of_ok _
    · subst agent
      exact State.msfEnd_of_ok _
    · subst agent
      exact (State.msfEnd_of_ok _).trans (State.msfResult_of_thread (by rw [Claims.freed_frame]; exact runs) own waits)
    · exact State.msfEnd_of_burst (.inl ⟨e, c, agent⟩) done
    · exact State.msfEnd_of_burst (.inr ⟨tl, h, agent⟩) done
    · obtain ⟨valid, first⟩ := (Claims.freed s die slot x ag retire).msfFault_reads die st x.dest (x.agent % 2 ^ 24) x.addr
      rw [Claims.freed_faultValid] at first
      refine ⟨rfl, valid, first, fun h agent => ?_, fun tl th rd agent => ?_, fun agent => ?_, fun e c agent => ?_, fun tl h agent => ?_⟩
      all_goals
        subst agent
        exact State.msfEnd_of_failed failed _
  case response =>
    refine ⟨State.takeRx_frame .., fun late => ?_, fun ag out gen => ?_⟩
    · rw [exec_msfResponseReceive_of_live live kind own rfl rfl]
      cases agent : x.ag with
      | none => rfl
      | some ag => exact congrArg _ (if_pos (late.resolve_left (by simp [agent])))
    · rw [exec_msfResponseReceive_of_live live kind own rfl rfl, out]
      exact congrArg _ (if_neg (not_not_intro gen))
  case timeout =>
    rw [exec_msfTimeout_of_live live own out]
    exact ⟨fun waits => if_pos waits, fun free late => if_neg (by simp [free, late])⟩
  case reissue =>
    rw [exec_txnSlotReissue_of_live live own retired]
    exact ⟨fun early => if_pos early, fun late => if_neg (Nat.not_le.mpr late)⟩
  case abandon =>
    obtain ⟨t, run, frame, slots⟩ := exec_msfAbandon_of_control live named control
    refine ⟨t, run, frame, fun i ag out => ?_, fun i elsewhere => (slots i).trans (Txn.abandoned_of_elsewhere elsewhere)⟩
    rw [slots i] at out ⊢
    obtain ⟨kept, elsewhere⟩ := Txn.abandoned_of_out out
    rwa [kept]

end Sys2Proof.Machine
end

section
/-!
Selection at a packet boundary (R337 to R343): a queue's candidate, what a packet leaves on its link as it goes, one equation per order
of the selection, and from them `EgressSelect`.
-/
namespace Sys2Proof.Machine

theorem queuesOnly_trans {a b c : Link} (h : Claims.queuesOnly a b) (k : Claims.queuesOnly b c) : Claims.queuesOnly a c := by
  unfold Claims.queuesOnly at h k ⊢
  rw [k, h]

/-! ## A queue's candidate (R338) -/

section
variable {s : State} {lk k : Nat}

theorem State.cand_of_empty (empty : (s.link lk).queueOf k = []) :
    s.cand lk k = (s.updLink lk (fun l => { l with q := Tbl.put l.q k [] }), none) := by
  simp [State.cand, empty, State.findCand]

/-- A packet that no policer colours is its queue's candidate as soon as it stands at the head. -/
theorem State.cand_of_unpoliced {x : Queued} {rest : List Queued} (head : (s.link lk).queueOf k = x :: rest) (tenant : x.tenant = none)
    (free : x.colour = none ∨ x.colour = some .green) : ∃ y : Queued, y.p = x.p ∧ y.colour = some .green ∧
      s.cand lk k = (s.updLink lk (fun l => { l with q := Tbl.put l.q k (y :: rest) }), some (0, y)) := by
  obtain unseen | green := free
  · refine ⟨{ x with colour := some .green, pol := none }, rfl, rfl, ?_⟩
    simp [State.cand, head, State.findCand, tenant, unseen, State.evalPkt, State.isHeld]
  · refine ⟨x, rfl, green, ?_⟩
    simp [State.cand, head, State.findCand, tenant, green, State.isHeld]

end

/-! ## A packet leaves its queue (R337, R341 to R343) -/

theorem State.foldl_enq_queues (s : State) (lk : Nat) (xs : List Queued) : Queues s (xs.foldl (fun s x => s.enq lk x) s) lk := by
  induction xs generalizing s with
  | nil => exact (Polices.refl s).queues lk
  | cons x xs ih => exact (s.enq_queues lk x).trans (ih _)

theorem State.refillQueues_queues (s : State) (lk : Nat) : Queues s (s.refillQueues lk) lk :=
  (Queues.updLink s lk (fun _ => by rfl)).trans (State.foldl_enq_queues ..)

@[simp] theorem State.countTx_link (s : State) (tn lk n j : Nat) : (s.countTx tn lk n).link j = s.link j := by
  unfold State.countTx State.tap
  split <;> rfl

/-- A packet's policer is debited as it goes (R354, R357). -/
def State.debitSent (s : State) (lk : Nat) (x : Queued) : State :=
  match x.pol with
  | none => s
  | some j => s.updLnd (dieOfLink lk) (fun d => { d with
      pols := Tbl.upd d.pols j {} (fun y => (y.refill s.ltu).debit (x.colour.getD .green) (32 * x.p.flits)) })

/-- A packet that goes is counted against its tenant, and its message knows it was sent (R317, R391). -/
def State.countSent (s : State) (lk : Nat) (x : Queued) : State :=
  let s := match x.tenant with
    | some tn => s.countTx tn lk (32 * x.p.flits)
    | none => s
  match x.rae with
  | some (c, msn, pidx) => s.updConn c (fun y => y.wasSent msn pidx lk s.ltu)
  | none => s

@[simp] theorem State.debitSent_link (s : State) (lk : Nat) (x : Queued) (j : Nat) : (s.debitSent lk x).link j = s.link j := by
  unfold State.debitSent
  split <;> rfl

@[simp] theorem State.debitSent_ltu (s : State) (lk : Nat) (x : Queued) : (s.debitSent lk x).ltu = s.ltu := by
  unfold State.debitSent
  split <;> rfl

@[simp] theorem State.countSent_link (s : State) (lk : Nat) (x : Queued) (j : Nat) : (s.countSent lk x).link j = s.link j := by
  unfold State.countSent
  cases x.tenant <;> cases x.rae <;> simp

/-- What a packet that goes changes: its policer, its link, what it is counted in, and then the link's queues. -/
theorem State.sendFrom_eq {s : State} {lk k i : Nat} {x : Queued} (packet : ((s.link lk).queueOf k)[i]? = some x) (start : Nat) :
    s.sendFrom lk k i start = ((((s.debitSent lk x).updLink lk (fun l => { Claims.afterSend l k i start (s.debitSent lk x).ltu x with
      q := Tbl.put l.q k ((l.queueOf k).take i ++ (l.queueOf k).drop (i + 1)) })).countSent lk x).refillQueues lk).evalQueue lk k := by
  unfold State.sendFrom
  extract_lets l xs m seq rest
  rw [show xs[i]? = some x from packet]
  dsimp -zeta only
  extract_lets f col ecn p q
  refine congrArg (fun u => ((State.countSent u lk x).refillQueues lk).evalQueue lk k)
    (State.updLink_congr (s := s.debitSent lk x) ?_)
  rw [State.debitSent_link]
  have marks : ecn = Claims.ecn (s.link lk) k x := rfl
  unfold Claims.afterSend
  rw [← marks]
  by_cases unsequenced : k = 0
  · subst unsequenced
    rfl
  · have number : seq = l.txSeq := if_neg unsequenced
    by_cases priority : k < 2 <;> by_cases marked : ecn = true <;>
      simp only [unsequenced, priority, marked, number, p, q, ↓reduceIte, Bool.false_eq_true] <;> rfl

/-- A green packet is marked by its queue alone (R343). -/
theorem ecn_of_green (l : Link) {k : Nat} {x : Queued} (sequenced : k ≠ 0) (green : x.colour = some .green) :
    Claims.ecn l k x = decide (nth l.mark (k - 1) 0 ≠ 0 ∧ 16 * nth l.mark (k - 1) 0 ≤ l.flitsIn k - x.p.flits) := by
  simp [Claims.ecn, sequenced, green]

/-- What the link of a packet that goes keeps, its queues apart, and that no other link changes. -/
theorem State.sendFrom_link {s : State} {lk k i : Nat} {x : Queued} (packet : ((s.link lk).queueOf k)[i]? = some x) (start : Nat) :
    Claims.queuesOnly (Claims.afterSend (s.link lk) k i start s.ltu x) ((s.sendFrom lk k i start).link lk) ∧
      ∀ j, j ≠ lk → (s.sendFrom lk k i start).link j = s.link j := by
  rw [State.sendFrom_eq packet]
  have queues := (State.refillQueues_queues (((s.debitSent lk x).updLink lk (fun l => { Claims.afterSend l k i start
    (s.debitSent lk x).ltu x with q := Tbl.put l.q k ((l.queueOf k).take i ++ (l.queueOf k).drop (i + 1)) })).countSent lk x)
    lk).trans (State.evalQueue_queues _ lk k)
  refine ⟨queuesOnly_trans ?_ queues.queues, fun j other => (queues.only.2 j other).trans ?_⟩
  · simp [Claims.queuesOnly]
  · simp [other]

/-- What the link of a green head of Q1 keeps as it goes, the queues apart: the candidate stands for the packet it was. -/
theorem State.sendFrom_of_green {s : State} {lk : Nat} {l : Link} {x y : Queued} {rest : List Queued} {q : Tbl (List Queued)}
    (link : s.link lk = { l with sending := none, q := Tbl.put q 1 (y :: rest) }) (head : l.queueOf 1 = x :: rest) (packet : y.p = x.p)
    (green : y.colour = some .green) (start : Nat) :
    let marked := decide (nth l.mark 0 0 ≠ 0 ∧ 16 * nth l.mark 0 0 ≤ l.flitsIn 1 - x.p.flits)
    Claims.queuesOnly { l with
      credit := Tbl.upd l.credit 1 0 (· - x.p.flits)
      sending := some (1, start + 32 * x.p.flits)
      txSeq := (l.txSeq + 1) % 4096
      replay := l.replay ++ [(l.txSeq, (if marked then x.p.mark else x.p).stamp l.txSeq)]
      lastAck := if l.replay.isEmpty then s.ltu else l.lastAck
      ecnMarked := if marked then satAdd 32 l.ecnMarked 1 else l.ecnMarked } ((s.sendFrom lk 1 0 start).link lk) ∧
      ∀ j, j ≠ lk → (s.sendFrom lk 1 0 start).link j = s.link j := by
  obtain ⟨own, others⟩ := State.sendFrom_link (s := s) (lk := lk) (k := 1) (i := 0) (x := y) (by rw [link]; simp [Link.queueOf]) start
  have flits : (s.link lk).flitsIn 1 = l.flitsIn 1 := by
    rw [link]
    simp [Link.flitsIn, packet, Link.queueOf, show Tbl.getD l.q 1 [] = x :: rest from head]
  have marks := ecn_of_green (s.link lk) (k := 1) (by decide) green
  rw [flits, link, packet] at marks
  rw [link] at own
  refine ⟨queuesOnly_trans ?_ own, others⟩
  simp [Claims.queuesOnly, Claims.afterSend, marks, packet]

/-! ## The orders of the selection (R339 to R341) -/

theorem Link.eligible_priority (l : Link) (start i : Nat) (x : Queued) : l.eligible start 1 (some (i, x)) = l.open_ 1 x := by
  simp [Link.eligible]

/-- The candidates of Q2 to Q7, in their order. -/
def State.groupCands (s : State) (lk : Nat) : State × List (Option (Nat × Queued)) :=
  (List.range 6).foldl (fun a j => ((a.1.cand lk (2 + j)).1, a.2 ++ [(a.1.cand lk (2 + j)).2])) (s, [])

/-- A Q2 candidate that only the rest of its window keeps back is counted (R346). -/
def Link.countFit (l : Link) (start : Nat) (c : Option (Nat × Queued)) : Link :=
  match c with
  | some (_, x) => if l.open_ 2 x && !(l.fitsWindow start x.p.flits) then { l with holdFit := satAdd 16 l.holdFit 1 } else l
  | none => l

/-- The queue that the weighted group picks sends its candidate. -/
def State.sendPicked (s : State) (lk start : Nat) (cs : List (Option (Nat × Queued))) (picked : Option Nat) : State :=
  match picked with
  | none => s
  | some k => match nth cs (k - 2) none with
    | some (i, _) => s.sendFrom lk k i start
    | none => s

theorem State.sendPicked_of_candidate {s : State} {cs : List (Option (Nat × Queued))} {k i : Nat} {x : Queued}
    (candidate : nth cs (k - 2) none = some (i, x)) (lk start : Nat) :
    s.sendPicked lk start cs (some k) = s.sendFrom lk k i start := by
  simp only [State.sendPicked, candidate]

theorem State.sendPicked_of_none {s : State} {cs : List (Option (Nat × Queued))} {k : Nat} (none_ : nth cs (k - 2) none = none)
    (lk start : Nat) : s.sendPicked lk start cs (some k) = s := by
  simp only [State.sendPicked, none_]

section
variable {s : State} {lk : Nat}

theorem State.selectRest_of_replay {seq : Nat} (replay : (s.link lk).replayAt = some seq) (start : Nat) :
    s.selectRest lk start = s.sendReplay lk seq start := by
  unfold State.selectRest
  rw [replay]

theorem State.sendReplay_of_held {seq k : Nat} {p : Pkt} (held : (s.link lk).replay.find? (fun e => e.1 = seq) = some (k, p))
    (start : Nat) : s.sendReplay lk seq start = s.updLink lk (fun l => { l with
      sending := some (8, start + 32 * p.flits)
      replayAt := if l.replay.any (fun e => e.1 = (seq + 1) % 4096) then some ((seq + 1) % 4096) else none }) := by
  unfold State.sendReplay
  extract_lets l
  rw [show l.replay.find? (fun e => e.1 = seq) = some (k, p) from held]
  rfl

theorem State.sendReplay_of_gone {seq : Nat} (gone : (s.link lk).replay.find? (fun e => e.1 = seq) = none) (start : Nat) :
    s.sendReplay lk seq start = s.updLink lk (fun l => { l with replayAt := none }) := by
  unfold State.sendReplay
  extract_lets l
  rw [show l.replay.find? (fun e => e.1 = seq) = none from gone]

variable (still : (s.link lk).replayAt = none) {r : State × Option (Nat × Queued)} (priority : s.cand lk 1 = r)
include still priority

theorem State.selectRest_of_priority {i : Nat} {x : Queued} (candidate : r.2 = some (i, x)) (goes : (r.1.link lk).open_ 1 x = true)
    (start : Nat) : s.selectRest lk start = r.1.sendFrom lk 1 i start := by
  unfold State.selectRest
  rw [still]
  simp [priority, candidate, Link.eligible_priority, goes]

theorem State.selectRest_of_group (waits : ∀ i x, r.2 = some (i, x) → (r.1.link lk).open_ 1 x = false) (start : Nat) :
    s.selectRest lk start =
      let g := r.1.groupCands lk
      let w := ((g.1.link lk).countFit start (nth g.2 0 none)).weighted start g.2
      (g.1.updLink lk (fun _ => w.1)).sendPicked lk start g.2 w.2 := by
  have closed : (r.1.link lk).eligible start 1 r.2 = false := by
    cases candidate : r.2 with
    | none => rfl
    | some c => exact (Link.eligible_priority ..).trans (waits _ _ candidate)
  subst priority
  unfold State.selectRest
  rw [still]
  dsimp -zeta only
  extract_lets r l
  split
  · next open_ => exact (Bool.false_ne_true (closed.symm.trans open_)).elim
  · rfl

end

section
variable {s : State} {lk : Fin 36} {start : Nat} (live : s.live = true) (carries : (s.link lk.val).carries = true)
  (boundary : (s.link lk.val).decision s.ltu = some start) {r : State × Option (Nat × Queued)}
  (control : (s.updLink lk.val (fun l => { l with sending := none })).cand lk.val 0 = r)
include live carries boundary control

theorem exec_egressSelect_of_control {i : Nat} {x : Queued} (candidate : r.2 = some (i, x))
    (credit : x.p.flits ≤ Tbl.getD (s.link lk.val).credit 0 0) :
    exec (.egressSelect lk) s = .next (r.1.sendFrom lk.val 0 i start) := by
  show execEgressSelect lk s = _
  simp [execEgressSelect, live, carries, boundary, control, candidate, credit]

theorem exec_egressSelect_of_rest (short : ∀ i x, r.2 = some (i, x) → Tbl.getD (s.link lk.val).credit 0 0 < x.p.flits) :
    exec (.egressSelect lk) s = .next (r.1.selectRest lk.val start) := by
  show execEgressSelect lk s = _
  cases candidate : r.2 with
  | none => simp [execEgressSelect, live, carries, boundary, control, candidate]
  | some c => simp [execEgressSelect, live, carries, boundary, control, candidate, Nat.not_le.mpr (short _ _ candidate)]

end

theorem exec_egressSelect_of_busy {s : State} {lk : Fin 36}
    (busy : s.live = false ∨ (s.link lk.val).carries = false ∨ (s.link lk.val).decision s.ltu = none) :
    exec (.egressSelect lk) s = .next s := by
  show execEgressSelect lk s = _
  obtain off | down | wire := busy
  · simp [execEgressSelect, off]
  · simp [execEgressSelect, down]
  · simp [execEgressSelect, wire]

/-- Settles O36: one equation for each order of the selection, what a packet leaves on its link as it goes, and the two priority queues
with a head that no policer colours. -/
theorem egressSelect : Obligations.EgressSelect := by
  unfold Obligations.EgressSelect
  refine ⟨fun s lk busy => exec_egressSelect_of_busy busy,
    fun s lk start live carries boundary => ⟨fun i x => exec_egressSelect_of_control live carries boundary rfl,
      exec_egressSelect_of_rest live carries boundary rfl⟩,
    fun s lk start => ⟨fun seq replay => ?replay, fun still => ⟨fun i x => ?priority, fun waits => ?group⟩⟩,
    fun s lk k i start x packet => State.sendFrom_link packet start,
    fun s lk start x rest live carries boundary head tenant free credit => ?control,
    fun s lk start x rest live carries boundary empty still head tenant free goes => ?first⟩
  case replay =>
    rw [State.selectRest_of_replay replay]
    exact ⟨fun k p held => State.sendReplay_of_held held start, fun gone => State.sendReplay_of_gone gone start⟩
  case priority => exact fun candidate goes => State.selectRest_of_priority still rfl candidate goes start
  case group =>
    rw [State.selectRest_of_group still rfl waits]
    exact ⟨fun none_ => congrArg (State.sendPicked _ lk start _) none_, fun k picked =>
      ⟨fun i x candidate => (congrArg (State.sendPicked _ lk start _) picked).trans (State.sendPicked_of_candidate candidate lk start),
        fun none_ => (congrArg (State.sendPicked _ lk start _) picked).trans (State.sendPicked_of_none none_ lk start)⟩⟩
  case control =>
    obtain ⟨y, packet, -, candidate⟩ := State.cand_of_unpoliced (s := s.updLink lk.val (fun l => { l with sending := none }))
      (by rw [State.updLink_link_self]; exact head) tenant free
    have sent := State.sendFrom_link (x := y) (i := 0) (k := 0) (lk := lk.val) (s := (s.updLink lk.val (fun l => { l with
      sending := none })).updLink lk.val (fun l => { l with q := Tbl.put l.q 0 (y :: rest) })) (by simp [Link.queueOf]) start
    refine ⟨_, exec_egressSelect_of_control live carries boundary candidate rfl (by rw [packet]; exact credit),
      queuesOnly_trans ?_ sent.1, fun k other => (sent.2 k other).trans (by simp [other])⟩
    simp [Claims.queuesOnly, Claims.afterSend, Claims.ecn, packet]
  case first =>
    have idle : (s.updLink lk.val (fun l => { l with sending := none })).cand lk.val 0 =
        (s.updLink lk.val (fun l => { l with sending := none, q := Tbl.put l.q 0 [] }), none) := by
      rw [State.cand_of_empty (by rw [State.updLink_link_self]; exact empty), State.updLink_updLink]
    obtain ⟨y, packet, green, candidate⟩ := State.cand_of_unpoliced (lk := lk.val) (k := 1)
      (s := s.updLink lk.val (fun l => { l with sending := none, q := Tbl.put l.q 0 [] }))
      (by rw [State.updLink_link_self]; simpa [Link.queueOf] using head) tenant free
    rw [State.updLink_updLink] at candidate
    obtain ⟨own, others⟩ := State.sendFrom_of_green (s := s.updLink lk.val (fun l => { l with
      sending := none, q := Tbl.put (Tbl.put l.q 0 []) 1 (y :: rest) })) (State.updLink_link_self ..) head packet green start
    refine ⟨_, (exec_egressSelect_of_rest live carries boundary idle (by simp)).trans (congrArg _
      (State.selectRest_of_priority (by rw [State.updLink_link_self]; exact still) candidate rfl ?_ start)), own,
      fun k other => (others k other).trans (State.updLink_link_ne _ _ other)⟩
    rw [State.updLink_link_self]
    unfold Link.open_ at goes ⊢
    rwa [packet]

end Sys2Proof.Machine
end

section
/-!
Gate lists and the egress tables (R344 to R357): arming, the start of an entry, one equation per case of each table command, and from
them `GatesAndTables`.
-/
namespace Sys2Proof.Machine

/-! ## Gate lists (R345 to R350) -/

/-- What a failed check on use counts (R357). -/
theorem State.egrCheck_fails (s : State) (d : Nat) {n : Nat} (some_ : n ≠ 0) :
    ((s.egrCheck d n).lnd d).egrFails = satAdd 32 (s.lnd d).egrFails n := by
  unfold State.egrCheck
  rw [if_neg some_, State.raise_lnd, State.updLnd_lnd_self]

/-- An entry of a list that runs starts. -/
theorem State.startEntry_eq (s : State) (lk : Nat) {g : Gates} (runs : g.operValid = true) (gated : g.fallback = false) :
    s.startEntry lk g = Claims.entryRuns s lk g := by
  simp only [State.startEntry, Claims.entryRuns, runs, gated, Bool.not_false, Bool.true_and, Bool.false_or]
  rfl

section
variable {s : State} {lk : Fin 36} (live : s.live = true)
include live

theorem exec_gateArm_of_live :
    exec (.gateArm lk) s = .next (s.updLink lk.val (fun l => { l with gates := l.gates.arm s.ltu s.inFactory })) :=
  if_neg (by simp [live])

theorem exec_gateTakeover_of_due {m : Nat} (pending : (s.link lk.val).gates.pending = true)
    (moment : (s.link lk.val).gates.takeAt = some m) (due : m ≤ s.ltu) :
    exec (.gateTakeover lk) s = .next (s.startEntry lk.val { (s.link lk.val).gates with
      operBank := !(s.link lk.val).gates.operBank, operLen := (s.link lk.val).gates.adminLen, operBase := m, curEntry := 0, curStart := m
      pending := false, takeAt := none, operValid := true, fallback := false }) := by
  show execGateTakeover lk s = _
  simp [execGateTakeover, live, pending, moment, Nat.not_lt.mpr due]

theorem exec_gateInterval_of_running (runs : (s.link lk.val).gates.operValid = true) (gated : (s.link lk.val).gates.fallback = false) :
    exec (.gateInterval lk) s =
      let g := (s.link lk.val).gates
      let e := g.curStart + gateInterval (g.oper g.curEntry)
      if s.ltu < e then .next s
      else .next (s.startEntry lk.val { g with curEntry := (g.curEntry + 1) % Nat.max 1 g.operLen, curStart := e }) := by
  show execGateInterval lk s = _
  simp [execGateInterval, live, runs, gated]

end

section
variable {s : State} {lk : Fin 36}

theorem exec_gateTakeover_of_early (early : (s.link lk.val).gates.pending = false ∨ (s.link lk.val).gates.takeAt = none ∨
    ∃ m, (s.link lk.val).gates.takeAt = some m ∧ s.ltu < m) : exec (.gateTakeover lk) s = .next s := by
  show execGateTakeover lk s = _
  unfold execGateTakeover
  dsimp only
  split
  · next m pending moment =>
    obtain idle | open_ | ⟨n, at_, later⟩ := early
    · simp [idle] at pending
    · simp [open_] at moment
    · obtain rfl : n = m := Option.some.inj (at_.symm.trans moment)
      exact if_pos (by simp [later])
  · rfl

theorem exec_gateInterval_of_stopped
    (stopped : (s.link lk.val).gates.operValid = false ∨ (s.link lk.val).gates.fallback = true) : exec (.gateInterval lk) s = .next s := by
  show execGateInterval lk s = _
  obtain none_ | opened := stopped
  · simp [execGateInterval, none_]
  · simp [execGateInterval, opened]

end

/-! ## The tables (R353 to R357) -/

/-- The number of entries of an egress table (R357). -/
def egrSize : Fin 4 → Nat
  | 1 => 65536
  | 2 => 2304
  | _ => 4096

/-- A table command that is taken: what it leaves in the link die, with DONE. -/
theorem State.egrDone_eq (s : State) (d : Nat) (f : LinkDie → LinkDie) :
    (s.updLnd d f).egrDone d = s.updLnd d (fun x => { f x with egrDone := true }) :=
  State.updLnd_updLnd ..

/-- What a table command reads: a policer, a tenant's queues, a gate entry, a policer's counts. -/
def State.egrEntry (s : State) (die : Fin 2) (tb : Fin 4) (idx : BitVec 16) : Nat :=
  let p := Tbl.getD (s.lnd die.val).pols idx.toNat {}
  match tb with
  | 0 => p.raw
  | 1 => Tbl.getD (s.lnd die.val).tmap idx.toNat 0
  | 2 => Tbl.getD (s.link (18 * die.val + idx.toNat / 128)).gates.bank (idx.toNat % 128) 0
  | 3 => p.green + p.yellow * 2 ^ 64 + p.red * 2 ^ 128 + p.heldPkts * 2 ^ 224

section
variable {s : State} (live : s.live = true) (die : Fin 2)
include live

theorem exec_egrTblRead_of_live (tb : Fin 4) (idx : BitVec 16) : exec (.egrTblRead die tb idx) s =
    .next (s.updLnd die.val (fun d => if idx.toNat < egrSize tb then { d with egrData := s.egrEntry die tb idx, egrDone := true }
      else { d with egrReject := true })) := by
  have whole : idx.toNat < 65536 := idx.isLt
  show execEgrTblRead die tb idx s = _
  by_cases inside : idx.toNat < egrSize tb
  · simp only [if_pos inside]
    match tb with
    | 0 | 1 | 2 | 3 =>
      simp only [egrSize] at inside
      simp [execEgrTblRead, live, inside, State.egrDone_eq, State.egrEntry]
  · simp only [if_neg inside]
    match tb with
    | 1 => exact absurd whole inside
    | 0 | 2 | 3 =>
      simp only [egrSize] at inside
      simp [execEgrTblRead, live, inside, State.egrReject]

theorem exec_egrTblWrite_policer (idx : BitVec 16) : exec (.egrTblWrite die 0 idx) s = .next (s.updLnd die.val (fun d =>
    if idx.toNat < 4096 ∧ policerOk (s.lnd die.val).egrData = true then { d with
      pols := Tbl.upd d.pols idx.toNat {} (fun p => p.rewrite (s.lnd die.val).egrData s.ltu), egrDone := true }
    else { d with egrReject := true })) := by
  show execEgrTblWrite die 0 idx s = _
  by_cases inside : idx.toNat < 4096
  · cases ranges : policerOk (s.lnd die.val).egrData
    · simp [execEgrTblWrite, live, ranges, State.egrReject]
    · simp [execEgrTblWrite, live, inside, Nat.not_le.mpr inside, ranges, State.egrDone_eq]
  · simp [execEgrTblWrite, live, inside, Nat.not_lt.mp inside, State.egrReject]

theorem exec_egrTblWrite_tenant (idx : BitVec 16) : exec (.egrTblWrite die 1 idx) s = .next (s.updLnd die.val (fun d => { d with
    tmap := Tbl.put d.tmap idx.toNat (bits (s.lnd die.val).egrData 0 24 +
      crc8 (toBytes 3 (bits (s.lnd die.val).egrData 0 24)) * 2 ^ 24), egrDone := true })) := by
  show execEgrTblWrite die 1 idx s = _
  simp [execEgrTblWrite, live, State.egrDone_eq]

theorem exec_egrTblWrite_counts (idx : BitVec 16) : exec (.egrTblWrite die 3 idx) s = .next (s.updLnd die.val (fun d =>
    if idx.toNat < 4096 then { d with
      pols := Tbl.upd d.pols idx.toNat {} (fun p => { p with green := 0, yellow := 0, red := 0, heldPkts := 0 })
      egrDone := true }
    else { d with egrReject := true })) := by
  show execEgrTblWrite die 3 idx s = _
  by_cases inside : idx.toNat < 4096
  · simp [execEgrTblWrite, live, inside, Nat.not_le.mpr inside, State.egrDone_eq]
  · simp [execEgrTblWrite, live, inside, Nat.not_lt.mp inside, State.egrReject]

/-- A gate entry of the bank that runs, or of the one that is armed, is not written (R356). -/
theorem exec_egrTblWrite_gate (idx : BitVec 16) : exec (.egrTblWrite die 2 idx) s =
    let g := (s.link (18 * die.val + idx.toNat / 128)).gates
    let bank := decide (64 ≤ idx.toNat % 128)
    let e := bits (s.lnd die.val).egrData 0 56
    if 2304 ≤ idx.toNat ∨ (g.operValid = true ∧ bank = g.operBank) ∨ (g.pending = true ∧ bank ≠ g.operBank) then
      .next (s.egrReject die.val)
    else .next ((s.updLink (18 * die.val + idx.toNat / 128) (fun l => { l with gates := { l.gates with
      bank := Tbl.put l.gates.bank (idx.toNat % 128) (e + crc8 (toBytes 7 e) * 2 ^ 56) } })).egrDone die.val) := by
  show execEgrTblWrite die 2 idx s = _
  unfold execEgrTblWrite
  rw [if_neg (by simp [live])]
  refine ite_congr ?_ (fun _ => rfl) (fun _ => rfl)
  simp only [Bool.or_eq_true, Bool.and_eq_true, decide_eq_true_eq, or_assoc]

end

/-- Each of `n` links from `b` on is changed once; no other link changes. -/
theorem State.foldl_updLink_range (s : State) (b n : Nat) (g : Link → Link) :
    ∃ t, (List.range n).foldl (fun s i => s.updLink (b + i) g) s = t ∧ t = { s with fab := { s.fab with links := t.fab.links } } ∧
      ∀ k, t.link k = if b ≤ k ∧ k < b + n then g (s.link k) else s.link k := by
  induction n with
  | zero => exact ⟨s, rfl, rfl, fun k => (if_neg (by omega)).symm⟩
  | succ n ih =>
    obtain ⟨t, run, frame, links⟩ := ih
    refine ⟨t.updLink (b + n) g, by rw [List.range_succ, List.foldl_append, run]; rfl, by rw [frame]; rfl, fun k => ?_⟩
    by_cases last : k = b + n
    · subst last
      rw [State.updLink_link_self, links, if_neg (by omega), if_pos (by omega)]
    · rw [State.updLink_link_ne _ _ last, links]
      exact ite_congr (propext (by omega)) (fun _ => rfl) (fun _ => rfl)

/-- Settles O37: arming by the cause its checks give, the entries that a takeover and the end of an interval start, each table command
by whether its entry may be read or written, and the counts of the eighteen links of a die one after another. -/
theorem gatesAndTables : Obligations.GatesAndTables := by
  unfold Obligations.GatesAndTables
  refine ⟨fun s lk live => ?arm, fun s lk live => if_neg (by simp [live]), fun s lk early => exec_gateTakeover_of_early early,
    fun s lk m live pending moment due => ?takeover, fun s lk live runs gated => ?interval,
    fun s lk stopped => exec_gateInterval_of_stopped stopped, fun s d n some_ => s.egrCheck_fails d some_,
    fun s die tb idx v live mem => ?read, fun s die idx live => exec_egrTblWrite_policer live die idx,
    fun s die idx live => exec_egrTblWrite_tenant live die idx,
    fun s die idx live => ⟨fun used => (exec_egrTblWrite_gate live die idx).trans (if_pos used),
      fun inside stopped disarmed => (exec_egrTblWrite_gate live die idx).trans (if_neg ?gate)⟩,
    fun s die idx live => exec_egrTblWrite_counts live die idx, fun s die live => ?clear⟩
  case arm =>
    rw [exec_gateArm_of_live live]
    exact ⟨fun passes => congrArg _ (State.updLink_congr (congrArg (fun g => { s.link lk.val with gates := g }) (if_pos passes))),
      fun fails => congrArg _ (State.updLink_congr (congrArg (fun g => { s.link lk.val with gates := g }) (if_neg fails)))⟩
  case takeover =>
    rw [exec_gateTakeover_of_due live pending moment due]
    exact congrArg _ (State.startEntry_eq s lk.val rfl rfl)
  case interval =>
    rw [exec_gateInterval_of_running live runs gated]
    exact ⟨fun early => if_pos early, fun ended => (if_neg (Nat.not_lt.mpr ended)).trans
      (congrArg _ (State.startEntry_eq s lk.val runs gated))⟩
  case read =>
    simp only [List.mem_cons, List.not_mem_nil, or_false, Prod.mk.injEq] at mem
    obtain ⟨rfl, rfl⟩ | ⟨rfl, rfl⟩ | ⟨rfl, rfl⟩ | ⟨rfl, rfl⟩ := mem <;> exact exec_egrTblRead_of_live live die _ idx
  case gate =>
    rintro (outside | ⟨runs, bank⟩ | ⟨pending, bank⟩)
    · exact Nat.not_le.mpr inside outside
    · exact stopped runs bank
    · exact bank (disarmed pending)
  case clear =>
    obtain ⟨t, run, frame, links⟩ := s.foldl_updLink_range (18 * die.val) 18 (fun l => { l with
      ecnMarked := 0, holdFit := 0, overrun := 0 })
    refine ⟨t, run ▸ if_neg (by simp [live]), frame, fun k => (links k).trans ?_⟩
    exact ite_congr (propext (by omega)) (fun _ => rfl) (fun _ => rfl)

end Sys2Proof.Machine
end

section
/-!
Rings (R356 to R369, R397, R440): doorbells, halts, the ring commands, the coalescing timer and the intake of an entry, one equation per
case of each, and from them `RingCommands`.
-/
namespace Sys2Proof.Machine

/-! ## Changes of one ring -/

/-- Changes that do the same to the ring as it stands are the same change. -/
theorem State.updRing_congr {s : State} {r : Nat} {f g : Ring → Ring} (same : f (s.ring r) = g (s.ring r)) :
    s.updRing r f = s.updRing r g := by
  unfold State.ring at same
  simp only [State.updRing, Tbl.upd, same]

/-- A word in memory reads the same whatever a command has changed elsewhere. -/
theorem State.rd_congr {s t : State} (mem : t.mem = s.mem) (a n : Nat) : t.rd a n = s.rd a n :=
  congrArg ofBytes (State.bytes_congr mem a n)

/-! ## Halts (R364, R372, R397) -/

section
variable {s : State} {r : Nat}

theorem State.haltRing_of_halted (halted : (s.ring r).rstate = .halted) (cause : Nat) : s.haltRing r cause = s := if_pos halted

/-- A ring that is not halted is marked, and the first cause is kept. -/
theorem State.markHalt_of_running (running : (s.ring r).rstate ≠ .halted) (cause : Nat) : s.markHalt r cause =
    { s.updRing r (fun g => { g with rstate := .halted, was := g.rstate }) with
      ringRegs := if s.ringRegs.haltValid then s.ringRegs
        else { s.ringRegs with haltValid := true, haltCause := cause, haltRing := r } } := by
  unfold State.markHalt
  rw [State.updRing_congr (g := fun g => { g with rstate := .halted, was := g.rstate }) (if_neg running)]
  by_cases valid : s.ringRegs.haltValid = true <;> simp only [State.updRing_ringRegs, valid] <;> rfl

/-- The LD whose event ring is told of a ring's halt. -/
def State.haltLd (s : State) (r : Nat) : Nat :=
  match Tbl.find? s.cfg.eventRing (s.ring r).ld with
  | some e => if e = r then s.cfg.dev.adminLd else (s.ring r).ld
  | none => s.cfg.dev.adminLd

theorem State.haltRing_of_running (running : (s.ring r).rstate ≠ .halted) (cause : Nat) : s.haltRing r cause =
    (s.markHalt r cause).eventTo (s.haltLd r) (eventRaw 0x0B 0xFFFF r 0 cause 0) := by
  have cfg : (s.markHalt r cause).cfg = s.cfg := by rw [State.markHalt_of_running running]; rfl
  unfold State.haltRing State.haltLd
  rw [if_neg running]
  simp only [cfg]
  cases Tbl.find? s.cfg.eventRing (s.ring r).ld with
  | none => rfl
  | some e => by_cases own : e = r <;> simp [own]

end

/-! ## Doorbells (R362) -/

/-- A token ring that has drained is free again (R366); then the entries due and the events owed follow. -/
theorem State.ringMoved_eq (s : State) (r : Nat) : s.ringMoved r = ((s.updRing r (fun g =>
    if g.rstate = .draining ∧ g.head = g.tail ∧ g.resv = 0 then { g with rstate := .active, bind := 0 }
    else g)).flushDue r).reportLost r := by
  unfold State.ringMoved
  refine congrArg (fun u => (State.flushDue u r).reportLost r) (State.updRing_congr ?_)
  simp only [Ring.drained, Bool.and_eq_true, decide_eq_true_eq, and_assoc]

section
variable {s : State} {ld : Fin 16} {v : BitVec 64}

theorem exec_doorbell_of_absent (absent : ¬ (s.live = true ∧ (ld.val = 0 ∨ s.cxl.mld = true))) : exec (.doorbell ld v) s = .next s :=
  if_pos (by
    cases live : s.live
    · rfl
    · simpa [State.presents, live] using absent)

variable {r x : Nat} (ring : bits v.toNat 0 18 = r) (index : bits v.toNat 32 32 = x)
  (mine : s.live = true ∧ (ld.val = 0 ∨ s.cxl.mld = true))
include ring index mine

/-- A doorbell that reaches its port acts on the ring it names. -/
theorem exec_doorbell_of_mine : exec (.doorbell ld v) s =
    if (s.ring r).rstate = .free || (s.ring r).ld ≠ ld.val then
      .next { s with ringRegs := { s.ringRegs with badDoorbell := satAdd 8 s.ringRegs.badDoorbell 1 } }
    else if (s.ring r).kind = .submission then
      if 2 ^ (s.ring r).log2 < (x + 2 ^ 32 - (s.ring r).head) % 2 ^ 32 then .next (s.haltRing r 3)
      else .next (s.updRing r (fun g => { g with tail := x }))
    else if (s.ring r).used < (x + 2 ^ 32 - (s.ring r).head) % 2 ^ 32 then .next (s.haltRing r 3)
    else .next ((s.updRing r (fun g => { g with head := x })).ringMoved r) := by
  obtain ⟨live, presents⟩ := mine
  subst ring index
  have port : s.presents ld.val = true := by simpa only [State.presents, Bool.or_eq_true, decide_eq_true_eq] using presents
  exact if_neg (by simp [live, port])

theorem exec_doorbell_of_bad (bad : (s.ring r).rstate = .free ∨ (s.ring r).ld ≠ ld.val) : exec (.doorbell ld v) s =
    .next { s with ringRegs := { s.ringRegs with badDoorbell := satAdd 8 s.ringRegs.badDoorbell 1 } } := by
  rw [exec_doorbell_of_mine ring index mine]
  exact if_pos (by simpa using bad)

variable (used : (s.ring r).rstate ≠ .free) (own : (s.ring r).ld = ld.val)
include used own

theorem exec_doorbell_of_submission (kind : (s.ring r).kind = .submission)
    (fits : (x + 2 ^ 32 - (s.ring r).head) % 2 ^ 32 ≤ 2 ^ (s.ring r).log2) :
    exec (.doorbell ld v) s = .next (s.updRing r (fun g => { g with tail := x })) := by
  rw [exec_doorbell_of_mine ring index mine, if_neg (by simp [used, own]), if_pos kind]
  exact if_neg (Nat.not_lt.mpr fits)

theorem exec_doorbell_of_read (kind : (s.ring r).kind ≠ .submission)
    (fits : (x + 2 ^ 32 - (s.ring r).head) % 2 ^ 32 ≤ (s.ring r).used) :
    exec (.doorbell ld v) s = .next ((s.updRing r (fun g => { g with head := x })).ringMoved r) := by
  rw [exec_doorbell_of_mine ring index mine, if_neg (by simp [used, own]), if_neg kind]
  exact if_neg (Nat.not_lt.mpr fits)

theorem exec_doorbell_of_beyond (beyond : (if (s.ring r).kind = .submission then 2 ^ (s.ring r).log2 else (s.ring r).used) <
    (x + 2 ^ 32 - (s.ring r).head) % 2 ^ 32) : exec (.doorbell ld v) s = .next (s.haltRing r 3) := by
  rw [exec_doorbell_of_mine ring index mine, if_neg (by simp [used, own])]
  split
  · next kind => exact if_pos (by rwa [if_pos kind] at beyond)
  · next kind => exact if_pos (by rwa [if_neg kind] at beyond)

end

/-! ## Ring commands (R359, R397) -/

section
variable {s : State} {ring : BitVec 18} (live : s.live = true)
include live

theorem exec_ringLoad_of_broken {d : Nat} (desc : s.rd (0x10012000000 + 64 * ring.toNat) 64 = d) (broken : crcOk d 64 = false) :
    exec (.ringLoad ring) s = .next ((s.haltRing ring.toNat 2).ringCmd false) := by
  show execRingLoad ring s = _
  simp [execRingLoad, live, ringSlot, desc, broken]

theorem exec_ringLoad_of_refused {d : Nat} (desc : s.rd (0x10012000000 + 64 * ring.toNat) 64 = d) (sound : crcOk d 64 = true)
    (refused : kindOf (fld d 0 1) = none ∨ ∃ k, kindOf (fld d 0 1) = some k ∧ (ringDescOk d k = false ∨
      (s.ring ring.toNat).rstate = .free ∧ rstateOf (fld d 1 1) = .free)) : exec (.ringLoad ring) s = .next (s.ringCmd false) := by
  show execRingLoad ring s = _
  obtain unknown | ⟨k, kind, bad⟩ := refused
  · simp [execRingLoad, live, ringSlot, desc, sound, unknown]
  · simp [execRingLoad, live, ringSlot, desc, sound, kind, bad]

theorem exec_ringLoad_of_taken {d : Nat} {k : RingKind} (desc : s.rd (0x10012000000 + 64 * ring.toNat) 64 = d)
    (sound : crcOk d 64 = true) (kind : kindOf (fld d 0 1) = some k) (fields : ringDescOk d k = true)
    (used : (s.ring ring.toNat).rstate ≠ .free ∨ rstateOf (fld d 1 1) ≠ .free) :
    exec (.ringLoad ring) s = .next ((s.updRing ring.toNat (fun g => g.loaded d k)).ringCmd true) := by
  show execRingLoad ring s = _
  obtain old | new := used
  · simp [execRingLoad, live, ringSlot, desc, sound, kind, fields, old]
  · simp [execRingLoad, live, ringSlot, desc, sound, kind, fields, new]

theorem exec_ringCmdResume_of_running (running : (s.ring ring.toNat).rstate ≠ .halted) :
    exec (.ringCmdResume ring) s = .next (s.ringCmd false) := by
  show execRingCmdResume ring s = _
  simp [execRingCmdResume, live, running]

theorem exec_ringCmdResume_of_halted (halted : (s.ring ring.toNat).rstate = .halted) :
    exec (.ringCmdResume ring) s = .next ((s.resumeRing ring.toNat).ringCmd true) := by
  show execRingCmdResume ring s = _
  simp [execRingCmdResume, live, halted]

theorem exec_ringDisable_of_free (free : (s.ring ring.toNat).rstate = .free) : exec (.ringDisable ring) s = .next (s.ringCmd false) := by
  show execRingDisable ring s = _
  simp [execRingDisable, live, free]

theorem exec_ringDisable_of_used (used : (s.ring ring.toNat).rstate ≠ .free) :
    exec (.ringDisable ring) s = .next ((s.updRing ring.toNat (fun g => { g with disabled := true })).ringCmd true) := by
  show execRingDisable ring s = _
  simp [execRingDisable, live, used]

theorem exec_ringCntClr_of_live : exec .ringCntClr s = .next { s with ringRegs :=
    { s.ringRegs with subTaken := 0, cplPosted := 0, tokens := 0, eventsLost := 0, badDoorbell := 0, cplStalls := 0 } } :=
  if_neg (by simp [live])

end

/-! ## Coalesced interrupts (R440) -/

/-- Entries of a ring that are not announced are to be, now. -/
def State.coalesced (s : State) (g : Ring) : Prop :=
  s.live = true ∧ g.unannounced = true ∧ g.irq = true ∧ ∀ x, g.lastIrq = some x → x + 100 * g.coalesceUs ≤ s.ltu

section
variable {s : State} {ring : BitVec 18}

theorem exec_ringCoalesceTimer_of_due (due : s.coalesced (s.ring ring.toNat)) : exec (.ringCoalesceTimer ring) s =
    .next ((s.updRing ring.toNat (fun g => { g with unannounced := false, lastIrq := some s.ltu })).msix
      (s.ring ring.toNat).ld (s.ring ring.toNat).vector) := by
  obtain ⟨live, unannounced, irq, passed⟩ := due
  show execRingCoalesceTimer ring s = _
  cases last : (s.ring ring.toNat).lastIrq with
  | none => simp [execRingCoalesceTimer, live, unannounced, irq, last]
  | some x => simp [execRingCoalesceTimer, live, unannounced, irq, last, passed x last]

theorem exec_ringCoalesceTimer_of_not_due (early : ¬ s.coalesced (s.ring ring.toNat)) : exec (.ringCoalesceTimer ring) s = .next s := by
  show execRingCoalesceTimer ring s = _
  unfold execRingCoalesceTimer
  extract_lets r g passed
  refine if_pos (Classical.byContradiction fun runs => early ?_)
  simp only [Bool.or_eq_true, Bool.not_eq_true', not_or, Bool.not_eq_false] at runs
  obtain ⟨⟨⟨live, unannounced⟩, irq⟩, late⟩ := runs
  refine ⟨live, unannounced, irq, fun x last => ?_⟩
  unfold passed at late
  rw [show g.lastIrq = some x from last] at late
  exact of_decide_eq_true late

end

/-! ## Interrupts of an LD (R402, R405) -/

theorem State.msix_of_unmasked {s : State} {ld vec e : Nat} (found : Tbl.find? (s.ld ld).msix vec = some e)
    (unmasked : e.testBit 96 = false) : s.msix ld vec = s.hostPut ld (bits e 0 64) (toBytes 4 (bits e 64 32)) := by
  unfold State.msix
  rw [found]
  exact if_neg (by simp [unmasked])

theorem State.msix_of_masked {s : State} {ld vec : Nat}
    (masked : ∀ e, Tbl.find? (s.ld ld).msix vec = some e → e.testBit 96 = true) :
    s.msix ld vec = s.updLd ld (fun l => { l with pba := if l.pba.contains vec then l.pba else vec :: l.pba }) := by
  unfold State.msix
  split
  · rfl
  · next e found => exact if_pos (masked e found)

/-! ## The intake of an entry (R363 to R365, R367) -/

section
variable {s : State} {r : Nat}

theorem State.readEntry_of_window (window : (s.ring r).window = true) (host : Option (BitVec 1024)) : s.readEntry r host =
    (s, some (s.rd (0x10800000000 + (s.ring r).base + 128 * ((s.ring r).head % 2 ^ (s.ring r).log2)) 128)) := if_pos window

variable (memory : (s.ring r).window = false)
include memory

theorem State.readEntry_of_down (down : s.cxl.state ≠ 2) (host : Option (BitVec 1024)) : s.readEntry r host = (s, none) := by
  simp [State.readEntry, memory, down]

theorem State.readEntry_of_up (up : s.cxl.state = 2) (host : Option (BitVec 1024)) : s.readEntry r host =
    ({ s with cxl := { s.cxl with cacheReads := satAdd 32 s.cxl.cacheReads 1 } }, host.map (·.toNat)) := by
  simp [State.readEntry, memory, up]

end

section
variable {s : State} {ring : Nat} {host : Option (BitVec 1024)}

theorem exec_ringEntryTake_of_idle (idle : ¬ (s.live = true ∧ s.devState = .ready ∧ s.submits ring = true)) :
    exec (.ringEntryTake ring host) s = .next s :=
  if_pos (Classical.byContradiction fun asks => idle (by simpa [and_assoc] using asks))

variable (asks : s.live = true ∧ s.devState = .ready ∧ s.submits ring = true)
include asks

theorem exec_ringEntryTake_of_stalled (full : s.cplFull ring = true) : exec (.ringEntryTake ring host) s =
    .next { s with ringRegs := { s.ringRegs with cplStalls := satAdd 8 s.ringRegs.cplStalls 1 } } := by
  obtain ⟨live, ready, submits⟩ := asks
  show execRingEntryTake ring host s = _
  simp [execRingEntryTake, live, ready, submits, full]

variable (room : s.cplFull ring = false)
include room

theorem exec_ringEntryTake_of_waiting (waits : s.ringTurn ring = false) : exec (.ringEntryTake ring host) s = .next s := by
  obtain ⟨live, ready, submits⟩ := asks
  show execRingEntryTake ring host s = _
  simp [execRingEntryTake, live, ready, submits, room, waits]

variable (turn : s.ringTurn ring = true) {u : State}
include turn

theorem exec_ringEntryTake_of_unread (read : (s.ringServed ring).readEntry ring host = (u, none)) :
    exec (.ringEntryTake ring host) s = .next (u.haltRing ring 4) := by
  obtain ⟨live, ready, submits⟩ := asks
  show execRingEntryTake ring host s = _
  simp [execRingEntryTake, live, ready, submits, room, turn, read]

theorem exec_ringEntryTake_of_read {e : Nat} (read : (s.ringServed ring).readEntry ring host = (u, some e)) :
    exec (.ringEntryTake ring host) s = .next (if crcOk e 128 then u.takeSub ring e else u.haltRing ring 1) := by
  obtain ⟨live, ready, submits⟩ := asks
  show execRingEntryTake ring host s = _
  cases sound : crcOk e 128 <;> simp [execRingEntryTake, live, ready, submits, room, turn, read, sound]

end

/-- An operation of none of the five codes ends with INVALID_FIELD (R15, R367). -/
theorem State.applyEntry_of_reserved {e : Nat} (reserved : seOp e = 0 ∨ 5 < seOp e) (s : State) (r : Nat) : s.applyEntry r e =
    Claims.ends (s.updRing r (fun g => { g with taken := g.taken + 1 })) r e (seOp e) Stat.invalidField := by
  unfold State.applyEntry
  split
  case h_6 => rfl
  all_goals omega

/-- Settles O44: a doorbell by the ring it names and the index it brings, a halt by whether the ring is halted already, each ring command
by its descriptor or the ring's state, and the entry of a turn by where it is read and what it holds. -/
theorem ringCommands : Obligations.RingCommands := by
  unfold Obligations.RingCommands
  refine ⟨fun s ld v => ⟨exec_doorbell_of_absent, exec_doorbell_of_bad rfl rfl, fun mine used own =>
      ⟨exec_doorbell_of_submission rfl rfl mine used own, exec_doorbell_of_read rfl rfl mine used own,
        exec_doorbell_of_beyond rfl rfl mine used own⟩⟩,
    fun s r cause => ⟨fun halted => State.haltRing_of_halted halted cause, fun running u marked => ?halt⟩,
    State.ringMoved_eq,
    fun s ring d desc => ⟨fun off => if_pos (by simp [off]), fun live broken => exec_ringLoad_of_broken live desc broken,
      fun live sound refused => exec_ringLoad_of_refused live desc sound refused,
      fun k live sound kind fields used => exec_ringLoad_of_taken live desc sound kind fields used⟩,
    fun s ring => ⟨fun off => ⟨if_pos (by simp [off]), if_pos (by simp [off]), if_pos (by simp [off])⟩,
      exec_ringCmdResume_of_running, fun u live halted moved => ?resume, exec_ringDisable_of_free, exec_ringDisable_of_used,
      exec_ringCntClr_of_live⟩,
    fun s ring => ⟨exec_ringCoalesceTimer_of_due, exec_ringCoalesceTimer_of_not_due⟩,
    fun s ld vec => ⟨fun e found unmasked => ?message, fun masked => ?pending⟩,
    fun s ring host => ⟨exec_ringEntryTake_of_idle, exec_ringEntryTake_of_stalled, exec_ringEntryTake_of_waiting,
      fun asks room turn => ⟨fun window => ?window, fun memory down => ?down, fun memory up failed => ?failed,
        fun e memory up entry => ?entry⟩⟩,
    fun s r => rfl,
    fun s u r e taken => ?ops⟩
  case halt =>
    subst marked
    rw [State.haltRing_of_running running, State.markHalt_of_running running]
    rfl
  case resume =>
    subst moved
    exact exec_ringCmdResume_of_halted live halted
  case message => exact State.msix_of_unmasked found unmasked
  case pending => exact State.msix_of_masked masked
  case window =>
    have read := State.readEntry_of_window (s := s.ringServed ring) window host
    rw [State.rd_congr (s := s) (t := s.ringServed ring) rfl] at read
    exact exec_ringEntryTake_of_read asks room turn read
  case down => exact exec_ringEntryTake_of_unread asks room turn (State.readEntry_of_down (s := s.ringServed ring) memory down host)
  case failed =>
    subst failed
    exact exec_ringEntryTake_of_unread asks room turn (State.readEntry_of_up (s := s.ringServed ring) memory up none)
  case entry =>
    subst entry
    exact exec_ringEntryTake_of_read asks room turn (State.readEntry_of_up (s := s.ringServed ring) memory up (some e))
  case ops =>
    have applied : s.takeSub r e = u.applyEntry r e := congrArg (State.applyEntry · r e) taken
    rw [applied]
    refine ⟨fun op => ?_, fun op => ?_, fun op => ?_, fun op => ?_, fun op => ?_, fun op => State.applyEntry_of_reserved op u r⟩
    all_goals simp only [State.applyEntry, op]

end Sys2Proof.Machine
end

section
/-!
Steps, groups and kills (R33 to R38, R111, R112, R115 to R117, R378 to R396, R434, R461 to R464): boundaries and their work, the commit of a
group, kills, re-runs, and the accounting of a period, one equation per case of each command, and from them `StepsAndGroups`.
-/
namespace Sys2Proof.Machine

/-! ## Changes of tags and pins alone (R254, R378) -/

/-- Only tags and model slots, which hold the tags' pins, have changed. -/
def TagsMoved (s t : State) : Prop := t = { s with tags := t.tags, slots := t.slots }

theorem TagsMoved.trans {r s t : State} (h : TagsMoved r s) (k : TagsMoved s t) : TagsMoved r t := by
  unfold TagsMoved at h k ⊢
  rw [k, h]

theorem TagsMoved.group {s t : State} (h : TagsMoved s t) (g : Nat) : t.group g = s.group g := by
  rw [h]
  rfl

theorem TagsMoved.reqRegs {s t : State} (h : TagsMoved s t) : t.reqRegs = s.reqRegs := by rw [h]

section
variable (s : State) (g : Nat)

theorem State.updTag_tagsMoved (f : Tag → Tag) : TagsMoved s (s.updTag g f) := rfl

theorem State.unpin_tagsMoved : TagsMoved s (s.unpin g) := by
  unfold State.unpin
  split <;> rfl

theorem State.freeTag_tagsMoved : TagsMoved s (s.freeTag g) := by
  simp only [State.freeTag]
  split
  · rfl
  · split
    · exact s.unpin_tagsMoved g
    · exact (s.unpin_tagsMoved g).trans (State.updTag_tagsMoved ..)

/-- A change that leaves a tag's mark for re-run alone leaves every tag's. -/
theorem State.updTag_rerun {f : Tag → Tag} (kept : ∀ x, (f x).rerun = x.rerun) (j : Nat) :
    ((s.updTag g f).tag j).rerun = (s.tag j).rerun := by
  by_cases own : j = g
  · subst own
    rw [State.updTag_tag_self, kept]
  · rw [State.updTag_tag_ne _ _ own]

theorem State.unpin_rerun (j : Nat) : ((s.unpin g).tag j).rerun = (s.tag j).rerun := by
  unfold State.unpin
  split
  · exact State.updTag_rerun (f := fun x => { x with pin := none }) s g (fun _ => rfl) j
  · rfl

theorem State.freeTag_rerun (j : Nat) : ((s.freeTag g).tag j).rerun = (s.tag j).rerun := by
  simp only [State.freeTag]
  split
  · rfl
  · split
    · exact s.unpin_rerun g j
    · exact (State.updTag_rerun (f := fun x => { x with held := false }) _ g (fun _ => rfl) j).trans (s.unpin_rerun g j)

end

theorem State.foldl_freeTag_tagsMoved (f : Tag → Tag) (ms : List Nat) (s : State) :
    TagsMoved s (ms.foldl (fun (s : State) m => (s.updTag m f).freeTag m) s) := by
  induction ms generalizing s with
  | nil => rfl
  | cons m ms ih => exact ((s.updTag_tagsMoved m f).trans (State.freeTag_tagsMoved ..)).trans (ih _)

theorem State.markRerun_tagsMoved (s : State) (g : Nat) : TagsMoved s (s.markRerun g) := State.foldl_freeTag_tagsMoved ..

/-- Marking tags for re-run keeps the marks there are and marks each tag it names. -/
theorem State.foldl_markRerun_rerun {m : Nat} (ms : List Nat) (s : State) (marked : m ∈ ms ∨ (s.tag m).rerun = true) :
    ((ms.foldl (fun (s : State) m => (s.updTag m (fun x => { x with rerun := true })).freeTag m) s).tag m).rerun = true := by
  induction ms generalizing s with
  | nil => exact marked.resolve_left List.not_mem_nil
  | cons k ms ih =>
    refine ih _ ?_
    rw [State.freeTag_rerun]
    by_cases own : m = k
    · subst own
      exact .inr (by rw [State.updTag_tag_self])
    · rw [State.updTag_tag_ne _ _ own]
      exact marked.imp_left fun listed => (List.mem_cons.mp listed).resolve_left own

theorem State.markRerun_rerun {s : State} {g m : Nat} (member : m ∈ (s.group g).members) : ((s.markRerun g).tag m).rerun = true :=
  State.foldl_markRerun_rerun _ _ (.inl member)

/-- A finished group is closed with OK. -/
theorem State.finishGroup_group (s : State) (g : Nat) :
    ((s.finishGroup g).group g).open_ = false ∧ ((s.finishGroup g).group g).status = Stat.ok := by
  unfold State.finishGroup
  rw [(State.foldl_freeTag_tagsMoved ..).group, State.updGroup_group_self]
  exact ⟨rfl, rfl⟩

/-! ## Boundaries and the ends of steps (R380, R381, R434) -/

section
variable {s : State}

theorem exec_stepBoundary_of_due
    (due : s.live = true ∧ s.devState = .ready ∧ s.reqRegs.inFlight.length < s.cfg.dev.stepsInFlight) :
    exec .stepBoundary s = .next (Claims.stepWork s (s.reqRegs.step + 1)) := by
  obtain ⟨live, ready, room⟩ := due
  exact if_neg (by simp [live, ready, room])

theorem exec_stepBoundary_of_not_due
    (early : ¬ (s.live = true ∧ s.devState = .ready ∧ s.reqRegs.inFlight.length < s.cfg.dev.stepsInFlight)) :
    exec .stepBoundary s = .next s :=
  if_pos (Classical.byContradiction fun due => early (by simpa [and_assoc] using due))

theorem exec_idleBoundary_of_due
    (due : s.live = true ∧ s.devState = .ready ∧ s.reqRegs.inFlight = [] ∧ s.ltu % 100000 = 0) :
    exec .idleBoundary s = .next ((s.boundaryVersion s.reqRegs.step).applyPlans.powerCap.writeTables) := by
  obtain ⟨live, ready, idle, millisecond⟩ := due
  exact if_neg (by simp [live, ready, idle, millisecond])

theorem exec_idleBoundary_of_not_due
    (early : ¬ (s.live = true ∧ s.devState = .ready ∧ s.reqRegs.inFlight = [] ∧ s.ltu % 100000 = 0)) :
    exec .idleBoundary s = .next s :=
  if_pos (Classical.byContradiction fun due => early (by simpa [and_assoc] using due))

/-- Every group of a step is closed, and firmware has matched the completions of its members. -/
theorem State.stepOver_iff {n : Nat} : s.stepOver n = true ↔ ∀ e ∈ s.groups, e.2.step = n →
    e.2.open_ = false ∧ ∀ m ∈ e.2.members, ¬ ((s.tag m).group = e.1 ∧ (s.tag m).posted = true) := by
  simp only [State.stepOver, List.all_eq_true, Bool.or_eq_true, Bool.and_eq_true, Bool.not_eq_true', decide_eq_true_eq, ne_eq,
    Bool.and_eq_false_iff, decide_eq_false_iff_not, not_and_or, Bool.not_eq_true, Decidable.imp_iff_not_or]

theorem exec_stepEnd_of_over {n : Nat} (over_ : s.live = true ∧ n ∈ s.reqRegs.inFlight ∧ s.stepOver n = true) :
    exec (.stepEnd n) s = .next { s with reqRegs := { s.reqRegs with inFlight := s.reqRegs.inFlight.filter (· ≠ n) } } := by
  obtain ⟨live, flies, over_⟩ := over_
  exact if_neg (by simp [live, flies, over_])

theorem exec_stepEnd_of_not_over {n : Nat} (runs : ¬ (s.live = true ∧ n ∈ s.reqRegs.inFlight ∧ s.stepOver n = true)) :
    exec (.stepEnd n) s = .next s :=
  if_pos (Classical.byContradiction fun over_ => runs (by simpa [and_assoc] using over_))

end

/-! ## Commits (R111, R112, R115, R116) -/

section
variable {s : State} {g : Fin 1024}

theorem exec_commit_of_not_committing (waits : ¬ Claims.committing s g.val) : exec (.commit g) s = .next s :=
  if_pos (Classical.byContradiction fun ready => waits (by simpa [Claims.committing, and_assoc] using ready))

variable (ready : Claims.committing s g.val)
include ready

/-- A commit whose check has passed goes on, once the channels its deferred operations reach serve memory. -/
theorem exec_commit_of_copied {c : CommitCopy} (copied : (s.group g.val).copy = some c) :
    exec (.commit g) s = .next (if s.deferredOpen c.defs then s.commitRest g.val c else s) := by
  obtain ⟨live, opened, named, all⟩ := ready
  show execCommit g s = _
  unfold execCommit
  rw [if_neg (by simpa [live, opened, named] using all), copied]
  exact (apply_ite _ _ _ _).symm

theorem exec_commit_of_uncopied (uncopied : (s.group g.val).copy = none) : exec (.commit g) s =
    .next (if (s.group g.val).members.any (fun m => cdShadow (s.tag m).desc) then s.commitShadow g.val else s.commitGroup g.val) := by
  obtain ⟨live, opened, named, all⟩ := ready
  show execCommit g s = _
  unfold execCommit
  rw [if_neg (by simpa [live, opened, named] using all), uncopied]
  exact (apply_ite _ _ _ _).symm

end

section
variable {s : State} {g : Nat}

/-- A publication that does not check fails tenant work and shadows alike. -/
theorem State.commit_of_bad (bad : ¬ ∀ e ∈ s.groupPubs g, s.pubOk (s.group g) e = true) :
    s.commitShadow g = s.failAll g Stat.publishInvalid ∧ s.commitGroup g = s.failAll g Stat.publishInvalid :=
  have refused : (!(s.groupPubs g).all (s.pubOk (s.group g))) = true := by
    rw [Bool.not_eq_true', ← Bool.not_eq_true, List.all_eq_true]
    exact bad
  ⟨if_pos refused, if_pos refused⟩

variable (ok : ∀ e ∈ s.groupPubs g, s.pubOk (s.group g) e = true)
include ok

theorem State.commitShadow_of_ok : s.commitShadow g = ((s.releaseMembers g).markCommitted g true).finishGroup g :=
  if_neg (by rw [List.all_eq_true.mpr ok]; decide)

theorem State.commitGroup_of_ok {c : CommitCopy} {v : State}
    (copied : { defs := s.groupDeferred g, pubs := s.groupPubs g, lps := s.groupLps g, missed := s.groupMissed (s.group g) } = c)
    (recorded : s.commitCopy g = v) : s.commitGroup g = if v.deferredOpen c.defs then v.commitRest g c else v := by
  have kept : (v.group g).copy = some c := by
    rw [← recorded, State.commitCopy, State.updGroup_group_self, copied]
  unfold State.commitGroup
  rw [if_neg (by rw [List.all_eq_true.mpr ok]; decide)]
  simp only [recorded, kept]

end

/-! ## Kills (R117, R387 to R389) -/

section
variable {s : State} {tag : Fin 1024}

/-- A command in flight can be killed: no kill is under way, it is not COMMITTING, and its group is open. -/
def State.mayKill (s : State) (x : Tag) : Prop :=
  s.reqRegs.killBusy = none ∧ x.live = true ∧ x.st ≠ .committing ∧ (s.group x.group).open_ = true

theorem exec_killCmd_of_refused (live : s.live = true) (refused : ¬ s.mayKill (s.tag tag.val)) :
    exec (.killCmd tag) s = .next { s with reqRegs := { s.reqRegs with killReject := true } } := by
  show execKillCmd tag s = _
  unfold execKillCmd
  rw [if_neg (by simp [live])]
  exact if_pos (Classical.byContradiction fun may => refused (by simpa [State.mayKill, and_assoc] using may))

theorem exec_killCmd_of_taken (live : s.live = true) (may : s.mayKill (s.tag tag.val)) : exec (.killCmd tag) s =
    .next { s with reqRegs := { s.reqRegs with killBusy := some ((s.tag tag.val).group, s.preemptible (s.tag tag.val).group) } } := by
  obtain ⟨idle, inFlight, state, opened⟩ := may
  show execKillCmd tag s = _
  unfold execKillCmd
  rw [if_neg (by simp [live])]
  exact if_neg (by simp [idle, inFlight, state, opened])

theorem exec_commandKill_of_idle (idle : s.live = false ∨ s.reqRegs.killBusy = none) : exec (.commandKill tag) s = .next s := by
  show execCommandKill tag s = _
  unfold execCommandKill
  cases busy : s.reqRegs.killBusy with
  | none => rfl
  | some k => exact if_pos (by simp [idle.resolve_right (by simp [busy])])

theorem exec_commandKill_of_other {g : Nat} {pre : Bool} (busy : s.reqRegs.killBusy = some (g, pre))
    (other : tag.val ∉ (s.group g).members) : exec (.commandKill tag) s = .next s := by
  show execCommandKill tag s = _
  unfold execCommandKill
  rw [busy]
  exact if_pos (by simp [other])

theorem exec_commandKill_of_member {g : Nat} {pre : Bool} {u : State} (live : s.live = true)
    (busy : s.reqRegs.killBusy = some (g, pre)) (member : tag.val ∈ (s.group g).members)
    (left : (if (s.tag tag.val).live then s.killMember tag.val pre else s) = u) :
    exec (.commandKill tag) s = .next (if u.liveMembers g = [] then u.killDone g pre else u) := by
  subst left
  show execCommandKill tag s = _
  unfold execCommandKill
  rw [busy]
  refine (if_neg (by simp [live, member])).trans ?_
  simp only [List.isEmpty_iff]

end

section
variable {s : State} {m : Nat} (queued : (s.tag m).st = .queued)
include queued

/-- A queued member that is killed is taken out of its tile's queue, and counted. -/
theorem State.stopMember_of_queued : s.stopMember m false Stat.killed =
    (((s.updTile (s.tag m).tile (fun y => { y with queue := y.queue.filter (fun d => cdTag d ≠ m) })).updTag m
      (fun x => { x with st := .killed, status := Stat.killed, drain := (s.tag m).drain })).updTile (s.tag m).tile
      (fun y => { y with killed := satAdd 16 y.killed 1 })).updAcct (cdTenant (s.tag m).desc)
      (fun a => { a with killed := wrap64 (a.killed + 1) }) := by
  simp only [State.stopMember, queued, Bool.false_eq_true, if_false]

end

section
variable {s u : State} {g : Nat} {pre : Bool}
  (done : { s with reqRegs := { s.reqRegs with killBusy := none, killDone := true } } = u)
include done

theorem State.killDone_of_closed (closed : (s.group g).open_ = false) : s.killDone g pre = u := by
  subst done
  exact if_pos (congrArg Bool.not closed)

theorem State.killDone_of_open (opened : (s.group g).open_ = true) : s.killDone g pre =
    { (u.markRerun g).updGroup g (fun x => { x with status := Stat.killed, preempts := if pre then x.preempts + 1 else x.preempts }) with
      reqRegs := { u.reqRegs with
        kills := satAdd 16 s.reqRegs.kills 1, preempts := if pre then satAdd 16 s.reqRegs.preempts 1 else s.reqRegs.preempts } } := by
  subst done
  refine (if_neg (by simpa [State.group] using opened)).trans ?_
  simp only [State.updGroup_reqRegs, (State.markRerun_tagsMoved ..).reqRegs]

end

/-! ## Replays and re-runs (R388, R461, R462) -/

section
variable {s : State} {g : Fin 1024}

/-- An open group names a fenced tile, none of its members is COMMITTING, and its present stop is not reported. -/
def State.replayDue (s : State) (g : Nat) : Prop :=
  s.live = true ∧ (s.group g).open_ = true ∧ (s.group g).members ≠ [] ∧ (s.group g).replayed = false ∧ s.groupFenced g = true ∧
    ∀ m ∈ (s.group g).members, (s.tag m).st ≠ .committing

theorem exec_groupReplay_of_not_due (early : ¬ s.replayDue g.val) : exec (.groupReplay g) s = .next s :=
  if_pos (Classical.byContradiction fun due => early (by simpa [State.replayDue, and_assoc] using due))

theorem exec_groupReplay_of_due {u : State} (due : s.replayDue g.val)
    (stopped : (if s.liveMembers g.val = [] then s else s.stopGroup g.val none Stat.killed) = u) : exec (.groupReplay g) s =
    .next (((u.markRerun g.val).updGroup g.val (fun y => { y with replayed := true })).devEvent 0x44 g.val
      (s.group g.val).step (s.group g.val).members.length) := by
  obtain ⟨live, opened, named, fresh, fenced, state⟩ := due
  subst stopped
  show execGroupReplay g s = _
  unfold execGroupReplay
  rw [if_neg (by simpa [live, opened, named, fresh, fenced] using state)]
  simp only [List.isEmpty_iff]

/-- A stopped group's members are drained and marked, and each of the tiles given, all different, can take its member. -/
def State.mayRerun (s : State) (g : Nat) (tiles : List (Fin 48)) : Prop :=
  s.live = true ∧ (s.group g).open_ = true ∧ (s.group g).members ≠ [] ∧ tiles.length = (s.group g).members.length ∧
    (tiles.map (·.val)).eraseDups.length = tiles.length ∧
    (∀ m ∈ (s.group g).members, (s.tag m).held = true ∧ (s.tag m).rerun = true ∧ (s.tag m).drain = 0) ∧
    (∀ e ∈ List.zip (s.group g).members (tiles.map (·.val)), s.canTake (s.group g).slot (s.tag e.1).tile e.2 = true)

theorem exec_rerunDelivery_of_refused {tiles : List (Fin 48)} (refused : ¬ s.mayRerun g.val tiles) :
    exec (.rerunDelivery g tiles) s = .next s :=
  if_pos (Classical.byContradiction fun may => refused (by simpa [State.mayRerun, and_assoc] using may))

theorem exec_rerunDelivery_of_taken {tiles : List (Fin 48)} (may : s.mayRerun g.val tiles) : exec (.rerunDelivery g tiles) s =
    .next ((List.zip (s.group g.val).members (tiles.map (·.val))).foldl (fun (u : State) e =>
      (u.updTag e.1 (fun y => { y with tile := e.2, desc := retile (u.tag e.1).desc e.2, st := .queued, rerun := false, status := 0 })).queueAhead
        e.2 (retile (u.tag e.1).desc e.2) (s.groupPrio g.val))
      (((s.updGroup g.val (fun x => { x with replayed := false, status := 0 })).journalRec .dispatch g.val (s.group g.val).planPos
        ((List.zip (s.group g.val).members (tiles.map (·.val))).map (fun e => retile (s.tag e.1).desc e.2)) [] []).flushJournal)) := by
  obtain ⟨live, opened, named, count, different, ready, fits⟩ := may
  refine if_neg ?_
  simp only [live, opened, List.length_map, count, different, List.all_eq_true.mpr fits]
  simpa [named] using ready

end

/-! ## Accounting and slow-down (R392 to R395) -/

section
variable {s t : State} {tn : Nat}

theorem State.updAcct_congr {f h : Acct → Acct} (same : f (s.acctOf tn) = h (s.acctOf tn)) : s.updAcct tn f = s.updAcct tn h := by
  unfold State.acctOf at same
  simp only [State.updAcct, Tbl.upd, same]

/-- A record rewritten for tenant `tn` (R393): the next sequence number, and the energy estimate `e` added. -/
def Acct.rewritten (a : Acct) (tn e : Nat) : Acct :=
  let b := { a with seq := (a.seq + 1) % 2 ^ 32, energy := wrap64 (a.energy + e) }
  { b with record := b.enc tn }

/-- A rewrite's draw of an energy estimate, taken into the tenant's record. -/
def State.accounted (s : State) (tn : Nat) : State := s.draw.updAcct tn (Acct.rewritten · tn (Config.energyEst s.fresh).toNat)

/-- A rewrite stores the new record in the accounting area. -/
theorem State.rewriteAcct_eq (s : State) (tn : Nat) : s.rewriteAcct tn =
    (s.accounted tn).wrBytes (0x10015000000 + 1024 * tn) (toBytes 1024 ((s.accounted tn).acctOf tn).record) := by
  unfold State.rewriteAcct State.wr
  rfl

theorem State.wrBytes_acctOf (s : State) (a : Nat) (bs : List Byte) (k : Nat) : (s.wrBytes a bs).acctOf k = s.acctOf k := rfl

theorem State.rewriteAcct_acctOf_self : (s.rewriteAcct tn).acctOf tn = (s.acctOf tn).rewritten tn (Config.energyEst s.fresh).toNat := by
  rw [State.rewriteAcct_eq, State.wrBytes_acctOf, State.accounted, State.updAcct_acctOf_self]
  rfl

theorem State.rewriteAcct_acctOf_ne {k : Nat} (other : k ≠ tn) : (s.rewriteAcct tn).acctOf k = s.acctOf k := by
  rw [State.rewriteAcct_eq, State.wrBytes_acctOf, State.accounted, State.updAcct_acctOf_ne _ _ other]
  rfl

theorem State.wrBytes_mem (s : State) (a : Nat) (bs : List Byte) : (s.wrBytes a bs).mem = memPut memKey s.mem a bs := rfl

theorem State.rewriteAcct_mem : (s.rewriteAcct tn).mem =
    memPut memKey s.mem (0x10015000000 + 1024 * tn) (toBytes 1024 ((s.rewriteAcct tn).acctOf tn).record) := by
  rw [State.rewriteAcct_eq, State.wrBytes_mem, State.wrBytes_acctOf]
  rfl

theorem State.accounted_wrBytes_frame (s : State) (tn a : Nat) (bs : List Byte) : (s.accounted tn).wrBytes a bs =
    { s with fresh := s.fresh + 1, acct := ((s.accounted tn).wrBytes a bs).acct, mem := ((s.accounted tn).wrBytes a bs).mem } := rfl

theorem State.rewriteAcct_frame : s.rewriteAcct tn =
    { s with fresh := s.fresh + 1, acct := (s.rewriteAcct tn).acct, mem := (s.rewriteAcct tn).mem } := by
  rw [State.rewriteAcct_eq]
  exact State.accounted_wrBytes_frame ..

theorem exec_slowdownPeriod_of_early (early : s.live = false ∨ s.ltu < s.reqRegs.slowStart + 10000000) :
    exec .slowdownPeriod s = .next s := if_pos (by simpa using early)

theorem exec_slowdownPeriod_of_due (live : s.live = true) (due : s.reqRegs.slowStart + 10000000 ≤ s.ltu)
    (judged : (Tbl.keys s.acct).foldl (fun (x : State) tn => (x.judgeTenant tn s.reqRegs.slowPeriod).rewriteAcct tn) s = t) :
    exec .slowdownPeriod s = .next { t with reqRegs :=
      { t.reqRegs with slowPeriod := s.reqRegs.slowPeriod + 1, slowStart := t.reqRegs.slowStart + 10000000 } } := by
  subst judged
  exact if_neg (by simp [live, Nat.not_lt.mpr due])

end

/-- The sums of a period that has ended become the last period's (R394). -/
def Acct.periodEnded (a : Acct) : Acct := { a with slowAct := a.curAct, slowEst := a.curEst, curAct := 0, curEst := 0, curCmds := 0 }

/-- A tenant's record once its period is judged, with ratio `r` (R394, R395): over the threshold it is slow and counts a period, and under
the lower bound it is slow no more. -/
def Acct.judged (a : Acct) (threshold lower r : Nat) : Acct :=
  { a with slowRatio := r, slow := (a.slow || decide (threshold ≤ r)) && !(decide (r < lower) && a.slow),
           slowPeriods := if threshold ≤ r then (a.slowPeriods + 1) % 2 ^ 32 else a.slowPeriods }.periodEnded

section
variable {s : State} {tn n : Nat}

theorem State.judgeTenant_of_little (little : (s.acctOf tn).curEst = 0 ∨ (s.acctOf tn).curEst < s.cfg.dev.slowMinAclk) :
    s.judgeTenant tn n = s.updAcct tn Acct.periodEnded := if_pos (by simpa using little)

/-- A judged tenant's events: one as it becomes slow, one as it is slow no more. -/
theorem State.judgeTenant_of_judged {r : Nat} {u : State} (ratio : slowRatio (s.acctOf tn).curAct (s.acctOf tn).curEst = r)
    (worked : (s.acctOf tn).curEst ≠ 0) (enough : s.cfg.dev.slowMinAclk ≤ (s.acctOf tn).curEst)
    (updated : s.updAcct tn (fun a => a.judged s.cfg.dev.slowThreshold s.cfg.dev.slowClear r) = u) : s.judgeTenant tn n =
    if s.cfg.dev.slowThreshold ≤ r ∧ (s.acctOf tn).slow = false then u.tenantEvent tn 0x09 r 0 n (s.acctOf tn).curCmds
    else if r < s.cfg.dev.slowClear ∧ (s.acctOf tn).slow = true then u.tenantEvent tn 0x0A r 0 n (s.acctOf tn).curCmds else u := by
  subst ratio updated
  unfold State.judgeTenant
  extract_lets a d r clear up down u
  rw [if_neg (by simp [a, d, worked, Nat.not_lt.mpr enough])]
  have same : u = s.updAcct tn (fun a => a.judged d.slowThreshold d.slowClear r) := State.updAcct_congr (by
    cases slow : (s.acctOf tn).slow <;> simp [up, down, a, slow, Acct.judged, Acct.periodEnded, clear])
  rw [same]
  simp only [up, down, Bool.and_eq_true, decide_eq_true_eq, Bool.not_eq_true']
  rfl

end

/-- Settles O45: each command by whether it is due, a commit by its check, its kind and the channels it waits for (R116), a kill by the member
it reaches (R388), a tenant's period by its ratio (R394). The order of checkpoint, plans and power cap at a boundary is log 41 and 56, an
estimate of 0 that is not judged and a KILL_CMD that counts as a pre-emption log 65, and the energy a record takes in log 90. -/
theorem stepsAndGroups : Obligations.StepsAndGroups := by
  unfold Obligations.StepsAndGroups
  refine ⟨fun s => ⟨exec_stepBoundary_of_due, exec_stepBoundary_of_not_due⟩,
    fun s => ⟨exec_idleBoundary_of_due, exec_idleBoundary_of_not_due⟩,
    fun s g => exec_commit_of_not_committing,
    fun s g c ready copied => exec_commit_of_copied ready copied,
    fun s g ready uncopied => ?commit,
    fun s p q u g c lost over_ performed published worked v finished => ?rest,
    State.finishGroup_group,
    fun s tag => ⟨fun off => if_pos (by simp [off]), exec_killCmd_of_refused, exec_killCmd_of_taken⟩,
    fun s tag => ⟨exec_commandKill_of_idle, fun g pre live busy => exec_commandKill_of_other busy,
      fun g pre u live busy => exec_commandKill_of_member live busy⟩,
    fun s t m queued stopped => ?queued,
    fun s u g pre done => ⟨State.killDone_of_closed done, State.killDone_of_open done, fun m => State.markRerun_rerun⟩,
    fun s g => ⟨exec_groupReplay_of_not_due, fun u => exec_groupReplay_of_due⟩,
    fun s g tiles => ⟨exec_rerunDelivery_of_refused, exec_rerunDelivery_of_taken⟩,
    fun s tag => ⟨fun live posted => if_neg (by simp [live, posted]), fun idle => if_pos (by simpa using idle)⟩,
    fun s n => ?stepEnd,
    fun s => ⟨fun live => if_neg (by simp [live]), fun off => if_pos (by simp [off])⟩,
    fun s tag => ⟨fun live => if_neg (by simp [live]), fun off => if_pos (by simp [off])⟩,
    fun s tn => ⟨fun live active => if_neg (by simp [live, active]), fun idle => if_pos (by simpa using idle)⟩,
    fun s t tn a rewritten updated => ?record,
    fun s => ⟨exec_slowdownPeriod_of_early, fun u => exec_slowdownPeriod_of_due⟩,
    fun s tn n => ⟨State.judgeTenant_of_little, fun worked enough u updated => ?judge⟩⟩
  case commit =>
    rw [exec_commit_of_uncopied ready uncopied]
    refine ⟨fun bad => ?_, fun ok shadow => ?_, fun ok real c v copied recorded => ?_⟩
    · obtain ⟨shadowFails, groupFails⟩ := State.commit_of_bad bad
      rw [shadowFails, groupFails, ite_self]
    · rw [if_pos (List.any_eq_true.mpr shadow), State.commitShadow_of_ok ok]
    · subst copied
      rw [if_neg (mt List.any_eq_true.mp real), State.commitGroup_of_ok ok rfl recorded]
  case rest =>
    refine ⟨?_, finished ▸ State.finishGroup_group _ g⟩
    subst finished worked
    simp only [State.commitRest, performed, published]
  case queued =>
    rw [State.stopMember_of_queued queued] at stopped
    subst stopped
    refine ⟨State.stopMember_of_queued queued, ?_, ?_, rfl⟩
    · rw [State.updAcct_tag, State.updTile_tag, State.updTag_tag_self]
      rfl
    · rw [State.updAcct_tile, State.updTile_tile_self, State.updTag_tile, State.updTile_tile_self]
  case stepEnd =>
    rw [← State.stepOver_iff]
    exact ⟨exec_stepEnd_of_over, exec_stepEnd_of_not_over⟩
  case record =>
    subst rewritten updated
    refine ⟨State.rewriteAcct_acctOf_self, fun k => State.rewriteAcct_acctOf_ne, ?_, State.rewriteAcct_frame⟩
    rw [State.rewriteAcct_mem, State.rewriteAcct_acctOf_self]
    rfl
  case judge =>
    have judged := State.judgeTenant_of_judged (n := n) rfl worked enough updated
    refine ⟨fun up was => judged.trans (if_pos ⟨up, was⟩),
      fun down was => judged.trans ((if_neg (by simp [was])).trans (if_pos ⟨down, was⟩)),
      fun up down => judged.trans ((if_neg up).trans (if_neg down))⟩

end Sys2Proof.Machine
end

section
/-!
The step, reset, the Cloche and the fuses (R54, R475, R495, R501, R504): what the laws on each command say of a whole step, and from
them `StepRunsFront`, `ResetState`, `ClocheSealed` and `FusesOnlyGain`.
-/
namespace Sys2Proof.Machine

/-- A step runs the queue's front command on the state with the rest of the queue. -/
theorem step_of_front (c : Instr) (q : List Instr) (s : State) : step { s with pending := c :: q } = exec c { s with pending := q } := rfl

theorem step_of_empty {s : State} (empty : s.pending = []) : step s = .next s.tick := by
  rw [step, empty]

/-- No row of the table has bits, so no word spells a command. -/
theorem State.withFetchWord_eq (s : State) (nbits w : Nat) : s.withFetchWord nbits w = s := by
  rw [State.withFetchWord]
  rfl

/-- Settles O1: the queue's front command, an empty queue (log 3), and a table without bits. -/
theorem stepRunsFront : Obligations.StepRunsFront := by
  unfold Obligations.StepRunsFront
  exact ⟨fun c s => step_of_front c s.pending s, fun s => step_of_empty, State.withFetchWord_eq⟩

theorem State.reset_canonical : Claims.canonical State.reset := ⟨rfl, rfl, rfl, rfl, rfl⟩

/-- Settles O2: every field at its reset value; the values the spec leaves open are log 1 and 2. -/
theorem resetState : Obligations.ResetState := by
  unfold Obligations.ResetState
  refine ⟨rfl, rfl, rfl, rfl, rfl, rfl, rfl, rfl, rfl, rfl, rfl, rfl, rfl, fun r => rfl, fun t => ⟨rfl, rfl⟩, fun mb => ?mailboxes, fun k => rfl,
    State.reset_canonical, by decide⟩
  cases mb <;> exact ⟨rfl, rfl, rfl⟩

/-- The Cloche's clock runs with the device's, and nothing else of a tick reaches the Cloche (R475, R485). -/
theorem State.tick_cloche (s : State) : s.tick.cloche = s.cloche.tick := (State.tickDevice_keeps (Keeps.refl _)).cloche

/-- Settles O4: a command that is not the Cloche's own keeps it (`exec_keepsX`), and a tick is its clock's. -/
theorem clocheSealed : Obligations.ClocheSealed := by
  unfold Obligations.ClocheSealed
  refine ⟨fun c s t other done => (exec_keepsX other (Keeps.refl s) t done).cloche, fun s t empty done => ?tick⟩
  rw [step_of_empty empty] at done
  cases done
  exact s.tick_cloche

/-- A step of any kind leaves OTP at or above what it was. -/
theorem step_otpLe {s t : State} (h : step s = .next t) : OtpLe s.sec.otp t.sec.otp := by
  cases queued : s.pending with
  | nil =>
    rw [step_of_empty queued] at h
    cases h
    exact s.tick_keepsB.otp
  | cons c rest =>
    rw [step, queued] at h
    exact (exec_keepsXB c _ t h).otp

/-- Settles O5: a tick and every command only add to OTP. -/
theorem fusesOnlyGain : Obligations.FusesOnlyGain := by
  unfold Obligations.FusesOnlyGain
  intro s t h
  obtain ⟨lc, first, main⟩ := step_otpLe h
  exact ⟨first, main, lc⟩

end Sys2Proof.Machine
end

section
/-!
The meter feed (R478 to R484): frames of a window, the check of a received frame, the counters, and the attribution of a window's
energy, which loses none of it; from them `MeterFeed`.
-/
namespace Sys2Proof.Machine

/-! ## The feed's windows (R478, R479) -/

theorem exec_feedWindowClose_of_due {s : State} (live : s.live = true) (due : s.feed.since + 10000 ≤ s.ltu) :
    exec .feedWindowClose s = .next { s with feed := s.feed.held.foldl Feed.report { s.feed with
      table := [], held := [], line := s.feed.line ++ feedFrames s.feed.window s.feed.first s.sec.otp.lc s.sec.otp.uid 9 s.feed.table,
      window := (s.feed.window + 1) % 2 ^ 32, since := s.ltu, first := false } } :=
  if_neg (by simp [live, Nat.not_lt.mpr due])

theorem exec_feedWindowClose_idle {s : State} (idle : s.live = false ∨ s.ltu < s.feed.since + 10000) :
    exec .feedWindowClose s = .next s :=
  if_pos (by simpa using idle)

/-- A report enters the table or is held; nothing else of the feed changes. -/
theorem Feed.report_frame (f : Feed) (r : Nat × Nat × Nat × Nat) :
    f.report r = { f with table := (f.report r).table, held := (f.report r).held } := by
  unfold Feed.report
  split
  · rfl
  · split <;> rfl

theorem Feed.foldl_report_frame (rs : List (Nat × Nat × Nat × Nat)) (f : Feed) : (rs.foldl Feed.report f).line = f.line ∧
    (rs.foldl Feed.report f).window = f.window ∧ (rs.foldl Feed.report f).since = f.since ∧ (rs.foldl Feed.report f).first = f.first := by
  induction rs generalizing f with
  | nil => exact ⟨rfl, rfl, rfl, rfl⟩
  | cons r rs ih =>
    obtain ⟨line, window, since, first⟩ := ih (f.report r)
    refine ⟨line.trans ?_, window.trans ?_, since.trans ?_, first.trans ?_⟩ <;> rw [f.report_frame r]

/-! ## Frames (R478, R479) -/

theorem toBytes_length (n w : Nat) : (toBytes n w).length = n := by
  induction n generalizing w with
  | zero => rfl
  | succ n ih => simp [toBytes, ih]

theorem feedRecord_length (e : Nat × Nat × Nat × Nat) : (feedRecord e).length = 16 := by simp [feedRecord, toBytes_length]

theorem feedFrame_length (w lc uid : Nat) (es : List (Nat × Nat × Nat × Nat)) (last first : Bool) :
    (feedFrame w es last first lc uid).length = 20 + 16 * es.length := by
  simp only [feedFrame, List.length_append, toBytes_length, List.length_flatMap, feedRecord_length, List.map_const', List.sum_replicate,
    smul_eq_mul]
  omega

section
variable (w lc uid : Nat) (first : Bool)

/-- Frame `j` of the `k` that carry the entries `es`, 512 to each. -/
def feedPart (es : List (Nat × Nat × Nat × Nat)) (k j : Nat) : List Byte :=
  feedFrame w ((es.drop (512 * j)).take 512) (j + 1 == k) first lc uid

theorem feedPart_succ (es : List (Nat × Nat × Nat × Nat)) (k j : Nat) :
    feedPart w lc uid first es (k + 1) (j + 1) = feedPart w lc uid first (es.drop 512) k j := by
  unfold feedPart
  rw [List.drop_drop, show 512 + 512 * j = 512 * (j + 1) by omega]
  congr 1
  exact Bool.eq_iff_iff.mpr (by simp)

/-- The window's entries go out in the fewest frames that hold them, and in one when there are none. -/
theorem feedFrames_eq {n : Nat} {es : List (Nat × Nat × Nat × Nat)} (room : es.length ≤ 512 * n) (some_ : 0 < n) :
    ∃ k, k ≤ n ∧ feedFrames w first lc uid n es = (List.range k).map (feedPart w lc uid first es k) ∧
      es.length ≤ 512 * k ∧ (es = [] → k = 1) ∧ (es ≠ [] → 512 * (k - 1) < es.length) := by
  induction n generalizing es with
  | zero => omega
  | succ n ih =>
    by_cases fits : es.length ≤ 512
    · refine ⟨1, by omega, ?_, by omega, fun _ => rfl, fun full => List.length_pos_iff.mpr full⟩
      rw [feedFrames, if_pos fits, List.range_one, List.map_singleton, feedPart, Nat.mul_zero, List.drop_zero, List.take_of_length_le fits]
      rfl
    · obtain ⟨k, fewer, frames, hold, empty, full⟩ := ih (es := es.drop 512) (by rw [List.length_drop]; omega) (by omega)
      have rest : es.drop 512 ≠ [] := fun none_ => fits (List.drop_eq_nil_iff.mp none_)
      have least := full rest
      rw [List.length_drop] at hold least
      have pos : k ≠ 0 := by rintro rfl; omega
      refine ⟨k + 1, by omega, ?_, by omega, fun none_ => absurd none_ (by rintro rfl; exact fits (by simp)), fun _ => by omega⟩
      rw [feedFrames, if_neg fits, frames, List.range_succ_eq_map, List.map_cons, List.map_map]
      congr 1
      · rw [feedPart, Nat.mul_zero, List.drop_zero]
        congr 1
        simpa using pos
      · exact List.map_congr_left fun j _ => (feedPart_succ w lc uid first es k j).symm

theorem length_le_of_mem_feedFrames {n : Nat} {es : List (Nat × Nat × Nat × Nat)} (room : es.length ≤ 512 * n) (some_ : 0 < n)
    {b : List Byte} (sent : b ∈ feedFrames w first lc uid n es) : b.length ≤ 8212 := by
  obtain ⟨k, -, frames, -⟩ := feedFrames_eq w lc uid first room some_
  rw [frames] at sent
  obtain ⟨j, -, rfl⟩ := List.mem_map.mp sent
  have short := List.length_take_le 512 (es.drop (512 * j))
  rw [feedPart, feedFrame_length]
  omega

end

/-! ## Counters (R480, R481) -/

@[simp] theorem Cloche.updSet_set_self (c : Cloche) (tn : Nat) (f : CSet → CSet) : (c.updSet tn f).set tn = f (c.set tn) := Tbl.getD_upd_self ..
@[simp] theorem Cloche.updSet_set_ne (c : Cloche) {tn j : Nat} (f : CSet → CSet) (other : j ≠ tn) : (c.updSet tn f).set j = c.set j :=
  Tbl.getD_upd_ne _ _ _ _ other

/-- Nothing but the counter sets has changed. -/
def SetsOnly (c d : Cloche) : Prop := d = { c with sets := d.sets }

theorem SetsOnly.trans {a b c : Cloche} (h : SetsOnly a b) (k : SetsOnly b c) : SetsOnly a c := by
  unfold SetsOnly at h k ⊢
  rw [k, h]

theorem Cloche.updSet_setsOnly (c : Cloche) (tn : Nat) (f : CSet → CSet) : SetsOnly c (c.updSet tn f) := rfl

theorem Cloche.foldl_count_setsOnly (rs : List (Nat × Nat × Nat × Nat)) (c : Cloche) : SetsOnly c (rs.foldl Cloche.count c) := by
  induction rs generalizing c with
  | nil => rfl
  | cons r rs ih => exact (c.updSet_setsOnly _ _).trans (ih _)

/-- A counter set with `n` more of the record's KIND (R480). -/
def CSet.counted (x : CSet) (kind n : Nat) : CSet :=
  { x with engine := if kind = 1 then wrap64 (x.engine + n) else x.engine, t1 := if kind = 2 then wrap64 (x.t1 + n) else x.t1,
           t2 := if kind = 3 then wrap64 (x.t2 + n) else x.t2, t3 := if kind = 4 then wrap64 (x.t3 + n) else x.t3,
           tx := if kind = 5 then wrap64 (x.tx + n) else x.tx, rx := if kind = 6 then wrap64 (x.rx + n) else x.rx }

theorem Cloche.count_set_self (c : Cloche) (k d tn n : Nat) : (c.count (k, d, tn, n)).set tn = (c.set tn).counted k n := by
  rw [Cloche.count, Cloche.updSet_set_self]
  dsimp only
  split
  case h_7 h1 h2 h3 h4 h5 h6 => simp [CSet.counted, show k ≠ 1 from h1, show k ≠ 2 from h2, show k ≠ 3 from h3, show k ≠ 4 from h4,
    show k ≠ 5 from h5, show k ≠ 6 from h6]
  all_goals rfl

/-! ## Attribution (R482, R484) -/

theorem addParts_append (c : Cloche) (ps qs : List (Nat × Nat)) : Claims.addParts c (ps ++ qs) = Claims.addParts (Claims.addParts c ps) qs :=
  List.foldl_append

theorem addParts_setTotal (c : Cloche) (n : Nat) (parts : List (Nat × Nat)) :
    Claims.addParts { c with totalNj := n } parts = { Claims.addParts c parts with totalNj := n } := by
  induction parts generalizing c with
  | nil => rfl
  | cons p parts ih => exact ih (c.addEnergy p.1 p.2)

/-- Of `total`, all but what `a` still holds back has gone to counter sets of `c`. -/
def Attributed (c : Cloche) (total : Nat) (a : Cloche × Nat) : Prop :=
  ∃ parts, a.1 = Claims.addParts c parts ∧ a.2 + (parts.map (·.2)).sum = total

theorem Attributed.start (c : Cloche) (un : Nat) : Attributed c un (c, un) := ⟨[], rfl, rfl⟩

section
variable {c : Cloche} {total : Nat} {a : Cloche × Nat}

/-- A tenant takes its share out of what is held back. -/
theorem Attributed.give (h : Attributed c total a) (tn : Nat) {n : Nat} (held : n ≤ a.2) : Attributed c total (a.1.addEnergy tn n, a.2 - n) := by
  obtain ⟨parts, given, sum⟩ := h
  refine ⟨parts ++ [(tn, n)], by rw [addParts_append, ← given]; rfl, ?_⟩
  rw [List.map_append, List.sum_append]
  simp only [List.map_cons, List.map_nil, List.sum_singleton]
  omega

theorem Attributed.hold (h : Attributed c total a) (n : Nat) : Attributed c (total + n) (a.1, a.2 + n) := by
  obtain ⟨parts, given, sum⟩ := h
  exact ⟨parts, given, by dsimp only; omega⟩

/-- Shares rounded down add up to no more than the whole. -/
theorem sum_shares_le (dyn sum : Nat) (q : List (Nat × Nat)) : (q.map (fun x => dyn * x.2 / sum)).sum ≤ dyn * (q.map (·.2)).sum / sum := by
  induction q with
  | nil => simp
  | cons x q ih =>
    simp only [List.map_cons, List.sum_cons, Nat.mul_add]
    exact (Nat.add_le_add_left ih _).trans (Nat.div_add_div_le_add_div ..)

theorem Attributed.shares {dyn sum : Nat} {q : List (Nat × Nat)} (h : Attributed c total a)
    (held : (q.map (fun x => dyn * x.2 / sum)).sum ≤ a.2) : Attributed c total (q.foldl (fun (a : Cloche × Nat) x =>
      if x.1 = 0xFFFF then a else let n := dyn * x.2 / sum; (a.1.addEnergy x.1 n, a.2 - n)) a) := by
  induction q generalizing a with
  | nil => exact h
  | cons x q ih =>
    rw [List.map_cons, List.sum_cons] at held
    rw [List.foldl_cons]
    split
    · exact ih h ((Nat.le_add_left ..).trans held)
    · exact ih (h.give x.1 ((Nat.le_add_right ..).trans held)) (Nat.le_sub_of_add_le (Nat.add_comm .. ▸ held))

/-- A group's energy `e` is attributed whole: shares by quantity, and the idle part with the rounding held back (R482). -/
theorem Attributed.share (h : Attributed c total a) (e idle : Nat) (q : List (Nat × Nat)) :
    Attributed c (total + e) (a.1.share a.2 e idle q) := by
  have whole : e - (e - idle) + (e - idle) = e := by omega
  unfold Cloche.share
  extract_lets dyn un sum r
  split
  next =>
    have := (h.hold (e - dyn)).hold dyn
    rwa [Nat.add_assoc, whole] at this
  next some_ =>
    have fits : (q.map (fun x => dyn * x.2 / sum)).sum ≤ dyn := by
      have := sum_shares_le dyn sum q
      rwa [Nat.mul_div_cancel _ (Nat.pos_of_ne_zero some_)] at this
    have shared : Attributed a.1 dyn r := (Attributed.start a.1 dyn).shares fits
    obtain ⟨parts, given, added⟩ := shared
    obtain ⟨before, earlier, held⟩ := h
    refine ⟨before ++ parts, by rw [addParts_append, ← earlier, ← given], ?_⟩
    simp only [List.map_append, List.sum_append] at added ⊢
    omega

theorem Attributed.foldl {step : Cloche × Nat → Nat → Cloche × Nat} {f : Nat → Nat}
    (each : ∀ t b d, Attributed c t b → Attributed c (t + f d) (step b d)) (l : List Nat) (h : Attributed c total a) :
    Attributed c (total + (l.map f).sum) (l.foldl step a) := by
  induction l generalizing total a with
  | nil => exact h
  | cons d l ih =>
    rw [List.map_cons, List.sum_cons, ← Nat.add_assoc]
    exact ih (each _ _ _ h)

end

/-- The energy of some domains. -/
def energyOf (e : List Nat) (ds : List Nat) : Nat := (ds.map (fun d => nth e d 0)).sum

/-- The energy of one group of domains shared by the quantities that `p` picks, what is not shared added to the rest (R482). -/
def shareGroup (e : List Nat) (ns : Nat) (a : Cloche × Nat) (ds : List Nat) (p : Nat × Nat → Bool) : Cloche × Nat :=
  a.1.share a.2 (energyOf e ds) (a.1.idleNj ds ns) (a.1.quantities p)

/-- Each compute die by itself, the two memories, and each link die by itself, from the loss and the base die on (R482). -/
def Cloche.shareGroups (c : Cloche) (e : List Nat) (ns : Nat) : Cloche × Nat :=
  let dies := (List.range 4).foldl (fun a d => shareGroup e ns a [d] (fun k => k.1 = 1 && k.2 = d)) (c.meter e, lossOf e + nth e 16 0)
  let memories := shareGroup e ns (shareGroup e ns dies (rangeFrom 4 8) (fun k => k.1 = 2)) (rangeFrom 12 4) (fun k => k.1 = 3)
  (List.range 2).foldl (fun a k => shareGroup e ns a [17 + k] (fun x => (x.1 = 5 || x.1 = 6) && x.2 = 5 + k)) memories

/-- A window's energies `e` shared out, the rest for set 0xFFFF: what `execFeedFrameReceive` does with a window that is whole (R482). -/
def Cloche.shareOut (c : Cloche) (e : List Nat) (ns : Nat) : Cloche := (c.shareGroups e ns).1.addEnergy 0xFFFF (c.shareGroups e ns).2

theorem Cloche.shareGroups_attributed (c : Cloche) (e : List Nat) (ns : Nat) : Attributed (c.meter e) (lossOf e + nth e 16 0 +
    ((List.range 4).map (fun d => energyOf e [d])).sum + energyOf e (rangeFrom 4 8) + energyOf e (rangeFrom 12 4) +
    ((List.range 2).map (fun k => energyOf e [17 + k])).sum) (c.shareGroups e ns) := by
  unfold Cloche.shareGroups
  extract_lets dies memories
  have group (t : Nat) (b : Cloche × Nat) (ds : List Nat) (p : Nat × Nat → Bool) (h : Attributed (c.meter e) t b) :
      Attributed (c.meter e) (t + energyOf e ds) (shareGroup e ns b ds p) := h.share ..
  have first : Attributed (c.meter e) (lossOf e + nth e 16 0 + ((List.range 4).map (fun d => energyOf e [d])).sum) dies :=
    Attributed.foldl (fun t b d => group t b [d] _) _ (Attributed.start ..)
  have second := group _ _ (rangeFrom 12 4) (fun k => k.1 = 3) (group _ _ (rangeFrom 4 8) (fun k => k.1 = 2) first)
  exact Attributed.foldl (f := fun k => energyOf e [17 + k]) (fun t b k => group t b [17 + k] _) _ second

/-- All of a window's energy reaches a counter set: the domains' and the loss (R482, R484). -/
theorem Cloche.shareOut_parts (c : Cloche) (raw : List Nat) (ns : Nat) : ∃ parts,
    c.shareOut (c.energies raw ns) ns = Claims.addParts (c.meter (c.energies raw ns)) parts ∧
      (parts.map (·.2)).sum = ((c.energies raw ns).take 19).sum + lossOf (c.energies raw ns) := by
  have each (d : Nat) (low : d < 20) : nth (c.energies raw ns) d 0 = c.calibrated raw ns d := by
    simp [nth, Cloche.energies, low]
  have domains : ((c.energies raw ns).take 19).sum = ((List.range 19).map (c.calibrated raw ns)).sum := by
    rw [Cloche.energies, ← List.map_take, List.take_range]
    rfl
  obtain ⟨parts, given, added⟩ := c.shareGroups_attributed (c.energies raw ns) ns
  unfold Cloche.shareOut
  generalize c.shareGroups (c.energies raw ns) ns = a at given added ⊢
  refine ⟨parts ++ [(0xFFFF, a.2)], by rw [addParts_append, ← given]; rfl, ?_⟩
  rw [List.map_append, List.sum_append, domains]
  simp only [List.map_cons, List.map_nil, List.sum_singleton]
  rw [Nat.add_comm, added]
  simp [energyOf, rangeFrom, List.range_succ, each]
  omega

/-! ## Frames the Cloche takes (R480, R482, R483) -/

/-- The frame is taken off the line. -/
def State.frameOff (s : State) : State := { s with feed := { s.feed with line := s.feed.line.drop 1 } }

/-- Its length, check code and device agree with the frame's header `h` (R480). -/
def Cloche.FrameOk (c : Cloche) (frame : List Byte) (h : Nat) : Prop :=
  fld h 4 2 ≤ 512 ∧ frame.length = 20 + 16 * fld h 4 2 ∧ fld h 8 8 = c.uid ∧
    ofBytes (frame.drop (16 + 16 * fld h 4 2)) = crc32c (frame.take (16 + 16 * fld h 4 2))

/-- The Cloche once a good frame's records are counted and kept for the window's attribution (R480, R482). -/
def Cloche.counted (c : Cloche) (frame : List Byte) (h : Nat) : Cloche :=
  { (feedRecords (fld h 4 2) (frame.drop 16)).foldl Cloche.count { c with framesOk := satAdd 32 c.framesOk 1, lc := fld h 7 1 } with
    winNo := fld h 0 4, win := (if c.winNo = fld h 0 4 then c.win else []) ++ feedRecords (fld h 4 2) (frame.drop 16) }

/-- The Cloche once the window's energy is accounted for: the next window begins (R483, R485). -/
def Cloche.nextWindow (c : Cloche) (w : Nat) : Cloche :=
  Cloche.snapIfDue { c with lastWindow := some w, lastAt := c.time, down := false, rejected := false, win := [] }

/-- Nothing of the window is missing: it follows the last one, and no frame of it was rejected (R483). -/
def Cloche.windowWhole (c : Cloche) (h : Nat) : Bool :=
  (bit h 49 || c.lastWindow.any (fun p => decide ((p + 1) % 2 ^ 32 = fld h 0 4))) && !c.rejected && !c.down

theorem Cloche.windowWhole_of_follows {c : Cloche} {h : Nat} {p : Nat} (accepted : c.rejected = false) (up : c.down = false)
    (follows : bit h 49 = true ∨ c.lastWindow = some p ∧ (p + 1) % 2 ^ 32 = fld h 0 4) : c.windowWhole h = true := by
  rcases follows with seen | ⟨last, next⟩
  · simp [Cloche.windowWhole, seen, accepted, up]
  · simp [-Nat.reducePow, Cloche.windowWhole, last, next, accepted, up]

theorem Cloche.windowWhole_of_gap {c : Cloche} {h : Nat} (gap : c.rejected = true ∨ c.down = true ∨
    (bit h 49 = false ∧ ∀ p, c.lastWindow = some p → (p + 1) % 2 ^ 32 ≠ fld h 0 4)) : c.windowWhole h = false := by
  rcases gap with rejected | down | ⟨later, apart⟩
  · simp [Cloche.windowWhole, rejected]
  · simp [Cloche.windowWhole, down]
  · have none_ : c.lastWindow.any (fun p => decide ((p + 1) % 2 ^ 32 = fld h 0 4)) = false := by
      cases last : c.lastWindow with
      | none => rfl
      | some p => exact decide_eq_false (apart p last)
    simp [-Nat.reducePow, Cloche.windowWhole, later, none_]

section
variable {s : State} {frame : List Byte} {energy : List Nat} {ns h : Nat}

theorem exec_feedFrameReceive_of_off (off : s.cloche.on = false) : exec (.feedFrameReceive frame energy ns) s = .next s.frameOff :=
  if_pos (by simp [off])

theorem exec_feedFrameReceive_of_bad (on : s.cloche.on = true) (header : ofBytes (frame.take 16) = h) (bad : ¬ s.cloche.FrameOk frame h) :
    exec (.feedFrameReceive frame energy ns) s = .next { s.frameOff with
      cloche := { s.cloche with framesLost := satAdd 32 s.cloche.framesLost 1, rejected := true } } := by
  subst header
  refine (if_neg (by simp [on])).trans (if_pos ?_)
  simp only [Cloche.FrameOk] at bad
  simp only [Bool.not_eq_true', Bool.and_eq_false_iff, decide_eq_false_iff_not]
  tauto

/-- What decides on a window's energy is as it was before the frame's records. -/
theorem Cloche.counted_windowWhole (c : Cloche) (frame : List Byte) (h k : Nat) :
    (c.counted frame h).windowWhole k = c.windowWhole k := by
  have same := Cloche.foldl_count_setsOnly (feedRecords (fld h 4 2) (frame.drop 16)) { c with framesOk := satAdd 32 c.framesOk 1, lc := fld h 7 1 }
  rw [Cloche.counted, same]
  rfl

/-- The records join those of the window's earlier frames, or begin its list. -/
theorem Cloche.counted_eq (c : Cloche) (frame : List Byte) (h : Nat) {rs : List (Nat × Nat × Nat × Nat)} {d : Cloche}
    (records : feedRecords (fld h 4 2) (frame.drop 16) = rs)
    (counts : rs.foldl Cloche.count { c with framesOk := satAdd 32 c.framesOk 1, lc := fld h 7 1 } = d) :
    (if d.winNo = fld h 0 4 then { d with win := d.win ++ rs } else { d with winNo := fld h 0 4, win := rs }) = c.counted frame h := by
  have same := Cloche.foldl_count_setsOnly rs { c with framesOk := satAdd 32 c.framesOk 1, lc := fld h 7 1 }
  rw [counts] at same
  have no : d.winNo = c.winNo := by rw [same]
  have win : d.win = c.win := by rw [same]
  rw [Cloche.counted, records, counts, no, win]
  split
  next this => rw [← this, ← no]
  next => rfl

/-- A good frame is counted; the last one of a window settles the window's energy. -/
theorem exec_feedFrameReceive_of_good (on : s.cloche.on = true) (header : ofBytes (frame.take 16) = h) (good : s.cloche.FrameOk frame h)
    {c : Cloche} (counted : s.cloche.counted frame h = c) : exec (.feedFrameReceive frame energy ns) s =
    if bit h 48 = false then .next { s.frameOff with cloche := c }
    else .next { s.frameOff with cloche :=
      (if s.cloche.windowWhole h then c.shareOut (c.energies energy ns) ns else c.unattributed energy ns).nextWindow (fld h 0 4) } := by
  obtain ⟨few, length, uid, crc⟩ := good
  subst header
  refine (if_neg (by simp [on])).trans ((if_neg ?_).trans ?_)
  · simp [few, length, uid, ← crc]
  extract_lets rs w last seen feed c1 c2 follows c3 c4
  have same : c2 = c := (Cloche.counted_eq s.cloche frame _ rfl rfl).trans counted
  have whole : (!follows || c2.rejected || c2.down) = !s.cloche.windowWhole (ofBytes (frame.take 16)) := by
    rw [← Cloche.counted_windowWhole s.cloche frame (ofBytes (frame.take 16)), counted, Cloche.windowWhole, Bool.not_and, Bool.not_and,
      Bool.not_not, Bool.not_not, ← same]
    simp only [follows]
    cases c2.lastWindow <;> rfl
  by_cases more : last = false
  · rw [if_pos (by rw [more]; rfl), if_pos more, same]
    rfl
  · rw [if_neg (by simpa using more), if_neg more]
    simp only [c4, c3, whole]
    simp only [same]
    cases s.cloche.windowWhole (ofBytes (frame.take 16)) <;> rfl

theorem exec_feedDown_of_late (on : s.cloche.on = true) (up : s.cloche.down = false) (late : s.cloche.lastAt + 1000000 < s.cloche.time) :
    exec (.feedDown energy) s = .next { s with cloche :=
      (Cloche.snapIfDue { s.cloche.unattributed energy (s.cloche.time - s.cloche.lastAt) with down := true, feedDownSeen := true }) } :=
  if_neg (by simp [on, up, late])

theorem exec_feedDown_idle (idle : s.cloche.on = false ∨ s.cloche.down = true ∨ s.cloche.time ≤ s.cloche.lastAt + 1000000) :
    exec (.feedDown energy) s = .next s :=
  if_pos (by simpa [or_assoc] using idle)

end

theorem Cloche.snapIfDue_of_due {c : Cloche} (due : c.due = true) : c.snapIfDue = { c with due := false, snap := some c.sets } := if_pos due

theorem Cloche.snapIfDue_of_not_due {c : Cloche} (early : c.due = false) : c.snapIfDue = c := if_neg (by simp [early])

theorem Cloche.shareOut_eq (c : Cloche) (raw : List Nat) (ns : Nat) : (c.shareOut (c.energies raw ns) ns).totalNj =
      (c.totalNj + ((c.energies raw ns).take 19).sum + lossOf (c.energies raw ns)) % (1000 * 2 ^ 64) ∧
    ∃ parts, c.shareOut (c.energies raw ns) ns = { Claims.addParts c parts with totalNj := (c.shareOut (c.energies raw ns) ns).totalNj } ∧
      (parts.map (·.2)).sum = ((c.energies raw ns).take 19).sum + lossOf (c.energies raw ns) := by
  obtain ⟨parts, given, sum⟩ := c.shareOut_parts raw ns
  rw [Cloche.meter, addParts_setTotal] at given
  exact ⟨by rw [given], parts, by rw [given], sum⟩

theorem Cloche.unattributed_eq (c : Cloche) (raw : List Nat) (ns : Nat) : c.unattributed raw ns =
    { Claims.addParts c [(0xFFFF, ((c.energies raw ns).take 19).sum + lossOf (c.energies raw ns))] with
      totalNj := (c.totalNj + ((c.energies raw ns).take 19).sum + lossOf (c.energies raw ns)) % (1000 * 2 ^ 64),
      unattrib := satAdd 32 c.unattrib 1 } := by
  unfold Cloche.unattributed Cloche.meter
  dsimp only
  generalize (c.energies raw ns).take 19 = e, lossOf (c.energies raw ns) = loss
  rfl

/-- Settles O55: a frame by its check and its place in the window (R480, R483), the frames of a window by recursion on their bound (R479),
and attribution by what each group holds back (R482). Energy and time are operands of the feed's commands (log 57), and a domain's energy
is calibrated as log 28 says. -/
theorem meterFeed : Obligations.MeterFeed := by
  unfold Obligations.MeterFeed
  refine ⟨fun s => exec_feedWindowClose_of_due, Feed.foldl_report_frame, fun s => exec_feedWindowClose_idle,
    fun w lc uid n first es room some_ =>
      ⟨fun b => length_le_of_mem_feedFrames w lc uid first room some_, feedFrames_eq w lc uid first room some_⟩,
    fun s frame energy ns => exec_feedFrameReceive_of_off,
    fun s frame energy ns h on header bad => exec_feedFrameReceive_of_bad on header ?bad,
    fun s frame energy ns h on header few length uid crc => ⟨s.cloche.counted frame h, rfl, ?good⟩,
    fun c k d tn n => ⟨_, rfl, c.count_set_self k d tn n, fun j other => c.updSet_set_ne _ other, rfl, rfl, rfl, rfl, rfl, rfl, rfl, rfl⟩,
    Cloche.shareOut_eq, fun c raw ns => ⟨c.unattributed_eq raw ns, rfl⟩,
    fun s energy on up late => ⟨_, rfl, exec_feedDown_of_late on up late⟩, fun s energy => exec_feedDown_idle,
    fun c => ⟨Cloche.snapIfDue_of_due, Cloche.snapIfDue_of_not_due⟩⟩
  case bad =>
    simp only [Cloche.FrameOk]
    omega
  case good =>
    have received := exec_feedFrameReceive_of_good (energy := energy) (ns := ns) on header ⟨few, length, uid, crc⟩ rfl
    generalize s.cloche.counted frame h = c at received ⊢
    refine ⟨fun more => received.trans (if_pos more), fun p last accepted up follows => received.trans ((if_neg (by simp [last])).trans ?_),
      fun last gap => received.trans ((if_neg (by simp [last])).trans ?_)⟩
    · rw [if_pos (Cloche.windowWhole_of_follows accepted up follows)]
      rfl
    · rw [if_neg (Bool.not_eq_true _ ▸ Cloche.windowWhole_of_gap gap)]
      rfl

end Sys2Proof.Machine
end

section
/-!
The Cloche's own commands (R475, R485 to R493): one equation per case of each, the log's two ways of taking an entry, the order of a
signed command's checks; from them `ClocheCommands`.
-/
namespace Sys2Proof.Machine

/-! ## The audit log (R489) -/

theorem Cloche.append_logged (c : Cloche) (kind signer param old new tag : Nat) :
    Claims.logged c (c.append kind signer param old new tag) kind signer param old new tag := ⟨_, rfl, rfl⟩

section
variable {c : Cloche} (kind old new : Nat)

theorem Cloche.appendEvent_of_room (room : c.log.length < 4096) : c.appendEvent kind old new = c.append kind 0 0 old new 0 := if_pos room

theorem Cloche.appendEvent_of_full (full : 4096 ≤ c.log.length) : c.appendEvent kind old new = { c with overflow := true } :=
  if_neg (Nat.not_lt.mpr full)

end

theorem Cloche.appendEvent_frame (c : Cloche) (kind old new : Nat) : c.appendEvent kind old new = { c with
    log := (c.appendEvent kind old new).log, digest := (c.appendEvent kind old new).digest, overflow := (c.appendEvent kind old new).overflow } := by
  unfold Cloche.appendEvent
  split <;> rfl

/-! ## Restarts (R487) -/

/-- What a restart leaves before its entry goes on the log: the counter sets of the last record, and nothing of the running period. -/
def Cloche.restored (c : Cloche) : Cloche :=
  { c with on := true, sets := c.savedSets, totalNj := totalOf c.savedSets, restarted := true, nonce := none, addr := none, resp := [],
           win := [], lastWindow := none, lastAt := c.time, down := false, rejected := false, due := false, snap := none, framesOk := 0,
           framesLost := 0, unattrib := 0, mark := c.time + 60000000000 }

theorem Cloche.restart_eq (c : Cloche) (why : Nat) : c.restart why = c.restored.appendEvent 8 why 0 := rfl

theorem Cloche.restart_frame (c : Cloche) (why : Nat) : c.restart why = { c.restored with
    log := (c.restart why).log, digest := (c.restart why).digest, overflow := (c.restart why).overflow } :=
  c.restored.appendEvent_frame 8 why 0

theorem Cloche.restart_reads (c : Cloche) (why : Nat) : (c.restart why).on = true ∧ (c.restart why).restarted = true ∧
    (c.restart why).nonce = none ∧ (c.restart why).recordNo = c.recordNo ∧ (c.restart why).records = c.records ∧
    (c.restart why).sets = c.savedSets ∧ (c.restart why).totalNj = totalOf c.savedSets := by
  rw [Cloche.restart_frame]
  exact ⟨rfl, rfl, rfl, rfl, rfl, rfl, rfl⟩

theorem Cloche.restart_log_of_room {c : Cloche} (room : c.log.length < 4096) (why : Nat) :
    (c.restart why).log = c.log ++ [c.auditEntry c.log.length 8 0 0 why 0 0] :=
  congrArg Cloche.log (Cloche.appendEvent_of_room (c := c.restored) 8 why 0 room)

theorem Cloche.restart_log_of_full {c : Cloche} (full : 4096 ≤ c.log.length) (why : Nat) :
    (c.restart why).log = c.log ∧ (c.restart why).overflow = true := by
  rw [Cloche.restart_eq, Cloche.appendEvent_of_full (c := c.restored) 8 why 0 full]
  exact ⟨rfl, rfl⟩

theorem exec_clocheRestart_of_cause {s : State} {why : RestartWhy} {w : Nat}
    (cause : (why = .supply ∧ s.cloche.on = false ∧ w = 1) ∨ (why = .pin ∧ s.cloche.on = true ∧ w = 2)) :
    exec (.clocheRestart why) s = .next { s with cloche := s.cloche.restart w } := by
  rcases cause with ⟨rfl, on, rfl⟩ | ⟨rfl, on, rfl⟩ <;> simp only [exec, execClocheRestart, on]

theorem exec_clocheRestart_idle {s : State} {why : RestartWhy} (idle : (why = .supply ∧ s.cloche.on = true) ∨
    (why = .pin ∧ s.cloche.on = false) ∨ why = .activation) : exec (.clocheRestart why) s = .next s := by
  rcases idle with ⟨rfl, on⟩ | ⟨rfl, on⟩ | rfl
  · simp only [exec, execClocheRestart, on]
  · simp only [exec, execClocheRestart, on]
  · cases on : s.cloche.on <;> simp only [exec, execClocheRestart]

/-! ## Records (R485, R486) -/

theorem exec_recordSign_of_snap {s : State} {snap : Tbl CSet} (on : s.cloche.on = true) (taken : s.cloche.snap = some snap) :
    exec .recordSign s = .next { s with cloche := s.cloche.signRecord snap } := by
  simp [exec, execRecordSign, taken, on]

theorem exec_recordSign_idle {s : State} (idle : s.cloche.on = false ∨ s.cloche.snap = none) : exec .recordSign s = .next s := by
  rcases idle with off | none_
  · cases taken : s.cloche.snap <;> simp [exec, execRecordSign, taken, off]
  · simp [exec, execRecordSign, none_]

/-! ## Reads over I3C (R486, R492) -/

section
variable {s : State}

theorem exec_certRead_of_ok {off : BitVec 32} {len : BitVec 16} (on : s.cloche.on = true) (some_ : 1 ≤ len.toNat) (few : len.toNat ≤ 256)
    (inside : off.toNat + len.toNat ≤ s.cloche.cert.length) :
    exec (.certRead off len) s = .next (s.clAnswer clOk ((s.cloche.cert.drop off.toNat).take len.toNat)) :=
  (if_neg (by simp [on])).trans (if_neg (by simp [← BitVec.toNat_inj]; omega))

theorem exec_certRead_of_range {off : BitVec 32} {len : BitVec 16} (on : s.cloche.on = true)
    (range : len.toNat = 0 ∨ 256 < len.toNat ∨ s.cloche.cert.length < off.toNat + len.toNat) :
    exec (.certRead off len) s = .next (s.clAnswer clRange []) :=
  (if_neg (by simp [on])).trans (if_pos (by simp [← BitVec.toNat_inj]; omega))

theorem exec_recordRead (no : BitVec 64) (on : s.cloche.on = true) : exec (.recordRead no) s =
    match (if no = 0#64 then s.cloche.records.head? else s.cloche.records.find? (fun r => r.1 = no.toNat)) with
    | some r => .next (s.clAnswer clOk (toBytes 256 r.2))
    | none => .next (s.clAnswer clGone []) :=
  if_neg (by simp [on])

theorem exec_snapshotRead_of_range {no : BitVec 64} {first count : BitVec 16} (on : s.cloche.on = true)
    (range : count.toNat = 0 ∨ 64 < count.toNat ∨ 65536 < first.toNat + count.toNat) :
    exec (.snapshotRead no first count) s = .next (s.clAnswer clRange []) :=
  (if_neg (by simp [on])).trans (if_pos (by simp [← BitVec.toNat_inj]; omega))

theorem exec_snapshotRead_of_ok {no : BitVec 64} {first count : BitVec 16} (on : s.cloche.on = true) (some_ : 1 ≤ count.toNat)
    (few : count.toNat ≤ 64) (inside : first.toNat + count.toNat ≤ 65536) : exec (.snapshotRead no first count) s =
    match s.cloche.snaps.find? (fun x => x.1 = no.toNat) with
    | some x => .next (s.clAnswer clOk ((rangeFrom first.toNat count.toNat).flatMap (fun i => (Tbl.getD x.2 i {}).bytes)))
    | none => .next (s.clAnswer clGone []) :=
  (if_neg (by simp [on])).trans (if_neg (by simp [← BitVec.toNat_inj]; omega))

theorem exec_logRead (seq : BitVec 16) (on : s.cloche.on = true) : exec (.logRead seq) s =
    match s.cloche.log[seq.toNat]? with
    | some e => .next (s.clAnswer clOk (toBytes 64 e))
    | none => .next (s.clAnswer clRange []) :=
  if_neg (by simp [on])

theorem exec_fwChunk_of_ok {off : BitVec 32} {data : List Byte} (on : s.cloche.on = true) (some_ : 1 ≤ data.length) (few : data.length ≤ 256) :
    exec (.fwChunk off data) s =
      .next { s with cloche := { s.cloche with half := memPut id s.cloche.half off.toNat data, resp := [0#8] } } :=
  (if_neg (by simp [on])).trans (if_neg (by simp only [Bool.or_eq_true, decide_eq_true_eq]; omega))

theorem exec_fwChunk_of_range {off : BitVec 32} {data : List Byte} (on : s.cloche.on = true) (range : data.length = 0 ∨ 256 < data.length) :
    exec (.fwChunk off data) s = .next (s.clAnswer clRange []) :=
  (if_neg (by simp [on])).trans (if_pos (by simpa using range))

end

/-! ## Signed commands (R488, R493) -/

theorem Cloche.keyOk_iff (c : Cloche) (x : BitVec 2080) (operator authority : Bool) : c.keyOk x operator authority = true ↔
    (operator = true ∧ scSigner x = 1 ∧ scKey x = c.opKey) ∨ (authority = true ∧ scSigner x = 2 ∧ keyDigest (scKey x) = c.authDigest) := by
  simp [Cloche.keyOk, and_assoc]

/-- R493's checks in their order. -/
theorem Cloche.signedStatus_eq (c : Cloche) (x : BitVec 2080) (cmd : Nat) (o a r n : Bool) : c.signedStatus x cmd o a r n =
    if c.nonce ≠ some (scNonce x) then 2
    else if ¬((o = true ∧ scSigner x = 1 ∧ scKey x = c.opKey) ∨ (a = true ∧ scSigner x = 2 ∧ keyDigest (scKey x) = c.authDigest)) then 3
    else if Config.sigOk (keyDigest (scKey x)) (toBytes 8 c.uid ++ toBytes 0x92 x.toNat) (scSig x) = false then 1
    else if r = false ∨ scCmd x ≠ cmd then 4 else if n = true ∧ 4032 ≤ c.log.length then 5 else 0 := by
  simp only [Cloche.signedStatus, ← Cloche.keyOk_iff]
  simp only [Bool.not_eq_true', Bool.not_eq_true, Bool.or_eq_true, Bool.and_eq_true, decide_eq_true_eq]
  rfl

/-- No check refuses the command. -/
theorem Cloche.signedStatus_of_ok {s : State} {x : BitVec 2080} {cmd used : Nat} {operator authority param range : Bool}
    (ok : Claims.signedOk s x cmd used operator authority param) (inRange : range = scZero x used param) :
    s.cloche.signedStatus x cmd operator authority range true = 0 := by
  obtain ⟨-, nonce, cmd, zero, key, sig, room⟩ := ok
  rw [Cloche.signedStatus_eq, if_neg (by simp [nonce]), if_neg (not_not_intro key), if_neg (by simp [sig]),
    if_neg (by simp [inRange, zero, cmd]), if_neg (by omega)]

section
variable {s : State} {f : Cloche → Cloche}

theorem State.signed_of_off (off : s.cloche.on = false) (st : Nat) : s.signed st f = s := if_pos (by simp [off])

/-- A refusal leaves its status and the spent nonce. -/
theorem State.signed_of_refused {st : Nat} (on : s.cloche.on = true) (refused : st ≠ 0) :
    s.signed st f = { s with cloche := { s.cloche with nonce := none, resp := [BitVec.ofNat 8 st] } } :=
  (if_neg (by simp [on])).trans (if_pos refused)

theorem State.signed_of_ok {st : Nat} (on : s.cloche.on = true) (ok : st = 0) :
    s.signed st f = { s with cloche := { f { s.cloche with nonce := none } with resp := [0#8] } } :=
  (if_neg (by simp [on])).trans (if_neg (not_not_intro ok))

end

/-- R490's status of a commit: the signed command's, then the image's digest, then the count of activations. -/
def Cloche.fwStatus (c : Cloche) (x : BitVec 2080) : Nat :=
  if c.signedStatus x 0x21 false true (scZero x 40 false) true ≠ 0 then c.signedStatus x 0x21 false true (scZero x 40 false) true
  else if shake256 ((List.range (bits (scArg x) 288 32)).map (memGet c.half)) ≠ scArg x % 2 ^ 256 then 1
  else if 255 ≤ c.fwCount then 7 else 0

/-- The entry of an activation is logged and a record of it signed (R490). -/
def Cloche.fwRecorded (c : Cloche) (x : BitVec 2080) : Cloche :=
  Cloche.signRecord { { c with fwCount := c.fwCount + 1 }.append 7 2 0 c.fw (bits (scArg x) 256 32) (keyTag (scKey x)) with fwChange := true } c.sets

theorem exec_fwCommit_eq (x : BitVec 2080) (s : State) : exec (.fwCommit x) s = .next (s.signed (s.cloche.fwStatus x)
    (fun c => Cloche.restart { c.fwRecorded x with otherFw := c.fw, fw := bits (scArg x) 256 32, half := [] } 3)) := rfl

theorem Cloche.fwStatus_of_refused {c : Cloche} {x : BitVec 2080} {st : Nat}
    (status : c.signedStatus x 0x21 false true (scZero x 40 false) true = st) (refused : st ≠ 0) : c.fwStatus x = st :=
  (if_pos (status ▸ refused)).trans status

/-- The status of a commit whose signed command passes: by the image's digest, then the count (R490). -/
theorem Cloche.fwStatus_of_signed {c : Cloche} {x : BitVec 2080}
    (status : c.signedStatus x 0x21 false true (scZero x 40 false) true = 0) : c.fwStatus x =
    if shake256 ((List.range (bits (scArg x) 288 32)).map (memGet c.half)) ≠ scArg x % 2 ^ 256 then 1
    else if 255 ≤ c.fwCount then 7 else 0 :=
  if_neg (not_not_intro status)

/-- What a parameter's new value changes, by its number (R488). -/
theorem Cloche.paramSet_eq {p v : Nat} (c : Cloche) :
    c.paramSet p v = { c with gain := (c.paramSet p v).gain, offset := (c.paramSet p v).offset, idle := (c.paramSet p v).idle } ∧
    (p < 20 → (c.paramSet p v).gain = Tbl.put c.gain p v ∧ (c.paramSet p v).offset = c.offset ∧ (c.paramSet p v).idle = c.idle) ∧
    (20 ≤ p → p < 0x200 → (c.paramSet p v).offset = Tbl.put c.offset (p - 0x100) (toSigned 64 v) ∧ (c.paramSet p v).gain = c.gain ∧
      (c.paramSet p v).idle = c.idle) ∧
    (0x200 ≤ p → (c.paramSet p v).idle = Tbl.put c.idle (p - 0x200) v ∧ (c.paramSet p v).gain = c.gain ∧
      (c.paramSet p v).offset = c.offset) := by
  unfold Cloche.paramSet
  split
  next low => exact ⟨rfl, fun _ => ⟨rfl, rfl, rfl⟩, fun high => by omega, fun high => by omega⟩
  next =>
    split
    next low => exact ⟨rfl, fun _ => by omega, fun _ _ => ⟨rfl, rfl, rfl⟩, fun high => by omega⟩
    next => exact ⟨rfl, fun _ => by omega, fun _ _ => by omega, fun _ => ⟨rfl, rfl, rfl⟩⟩

/-- The seal loop is read before a RESEAL is judged (R491). -/
theorem exec_reseal_eq {s : State} (on : s.cloche.on = true) (x : BitVec 2080) (closed : Bool) : exec (.reseal x closed) s =
    .next (State.signed { s with cloche := { s.cloche with loopOpen := !closed } }
      (s.cloche.signedStatus x 0x14 false true (closed && scZero x 0 false) true)
      (fun c => { c.append 5 2 0 0 0 (keyTag (scKey x)) with sealBroken := false })) := by
  simp only [exec, execReseal, on, if_true]
  rfl

/-- A Cloche without supply does nothing (R475). -/
theorem exec_of_off {s : State} (off : s.cloche.on = false) {x : BitVec 2080} {b : Bool} {a : BitVec 7} {o : BitVec 32} {l : BitVec 16}
    {no : BitVec 64} {n m : BitVec 16} {data : List Byte} {c : Instr} (listed : c ∈ [Instr.paramSet x, .labelSet x, .keySet x, .archive x,
      .fwCommit x, .reseal x b, .clIdentify, .nonceGet, .sealBroken, .recordSign, .clDynamicAddress b a, .certRead o l, .recordRead no,
      .snapshotRead no n m, .liveRead l, .logRead l, .fwChunk o data]) : exec c s = .next s := by
  have alone (st : Nat) (f : Cloche → Cloche) : Host.Outcome.next (σ := State) (φ := Fault) (ρ := Refusal) (s.signed st f) = .next s :=
    congrArg _ (State.signed_of_off off st)
  have stops : (!s.cloche.on) = true := by simp [off]
  simp only [List.mem_cons, List.not_mem_nil, or_false] at listed
  rcases listed with rfl | rfl | rfl | rfl | rfl | rfl | rfl | rfl | rfl | rfl | rfl | rfl | rfl | rfl | rfl | rfl | rfl
  · exact alone _ _
  · exact alone _ _
  · exact alone _ _
  · exact alone _ _
  · exact alone _ _
  · simp only [exec, execReseal, off]
    exact alone _ _
  · exact if_pos stops
  · exact if_pos stops
  · exact if_pos stops
  · exact exec_recordSign_idle (.inl off)
  all_goals exact if_pos stops

/-- Settles O56: each command by its conditions; a signed one by R493's checks in their order, and what its acceptance adds to the log.
TOTAL_UJ restored from the snapshot is log 57, RANGE for reserved bytes that are not 0 log 89. -/
theorem clocheCommands : Obligations.ClocheCommands := by
  unfold Obligations.ClocheCommands
  refine ⟨fun s snap on taken => ⟨_, _, exec_recordSign_of_snap on taken, rfl, rfl, rfl, rfl, rfl, rfl, rfl, rfl, rfl, rfl, rfl, rfl, rfl, rfl⟩,
    fun s why w cause => ⟨_, exec_clocheRestart_of_cause cause, rfl, ?restart⟩,
    fun s => ⟨fun on => exec_clocheRestart_idle (.inl ⟨rfl, on⟩), fun off => exec_clocheRestart_idle (.inr (.inl ⟨rfl, off⟩)),
      exec_clocheRestart_idle (.inr (.inr rfl)), exec_recordSign_idle⟩,
    fun s => rfl,
    fun s on => ⟨s.cloche.appendEvent 6 0 0, if_neg (by simp [on]), fun room => ?sealed, fun full => Cloche.appendEvent_of_full 6 0 0 full⟩,
    fun s b a on => if_neg (by simp [on]),
    fun s tenant on => ⟨if_neg (by simp [on]), if_neg (by simp [on])⟩,
    fun s off len on => ⟨exec_certRead_of_ok on, exec_certRead_of_range on⟩,
    fun s no on => ⟨fun r found => ?record, fun none_ => ?noRecord⟩,
    fun s no first count on some_ few inside => ⟨fun x found => ?snapshot, fun none_ => ?noSnapshot⟩,
    fun s no first count on => exec_snapshotRead_of_range on,
    fun s seq on => ⟨fun e found => ?entry, fun none_ => ?noEntry⟩,
    fun s on => if_neg (by simp [on]),
    fun s off data on => ⟨exec_fwChunk_of_ok on, exec_fwChunk_of_range on⟩,
    Cloche.signedStatus_eq,
    fun s x st on refused => ?refusals,
    fun s x p v ok param value range => ?param,
    fun s x ok => ⟨_, _, congrArg Host.Outcome.next (State.signed_of_ok ok.1 (Cloche.signedStatus_of_ok ok rfl)),
      Cloche.append_logged _ 2 1 _ _ _ _, rfl, Cloche.updSet_set_self .., fun j other => Cloche.updSet_set_ne _ _ other⟩,
    fun s x ok => ⟨Cloche.append { s.cloche with nonce := none } 3 (scSigner x) 0 s.cloche.opKey (scArg x % 2 ^ 456) (keyTag (scArg x % 2 ^ 456)),
      congrArg Host.Outcome.next (State.signed_of_ok ok.1 (Cloche.signedStatus_of_ok ok rfl)), Cloche.append_logged ..⟩,
    fun s x on nonce cmd zero signer key sig => ⟨_, congrArg Host.Outcome.next (State.signed_of_ok on ?archive), Cloche.append_logged _ 4 2 _ _ _ _⟩,
    fun s x ok => ?reseal,
    fun s x len ver ok version length => ?commit,
    fun s x b a o l no n m data off c listed => exec_of_off off listed⟩
  case restart =>
    obtain ⟨on, restarted, nonce, no, records, sets, total⟩ := s.cloche.restart_reads w
    refine ⟨on, restarted, nonce, no, records, fun x xs held => ?_, fun none_ => ?_, fun room => Cloche.restart_log_of_room room w,
      fun full => Cloche.restart_log_of_full full w⟩
    · rw [sets, total, Cloche.savedSets, held]
      exact ⟨rfl, rfl⟩
    · rw [sets, total, Cloche.savedSets, none_]
      exact ⟨rfl, rfl⟩
  case sealed =>
    rw [Cloche.appendEvent_of_room 6 0 0 room]
    exact Cloche.append_logged ..
  case record => rw [exec_recordRead no on, found]; rfl
  case noRecord => rw [exec_recordRead no on, none_]; rfl
  case snapshot => rw [exec_snapshotRead_of_ok on some_ few inside, found]; rfl
  case noSnapshot => rw [exec_snapshotRead_of_ok on some_ few inside, none_]; rfl
  case entry => rw [exec_logRead seq on, found]; rfl
  case noEntry => rw [exec_logRead seq on, none_]; rfl
  case refusals =>
    have spent {st' : Nat} {f : Cloche → Cloche} (status : st' = st) :
        Host.Outcome.next (φ := Fault) (ρ := Refusal) (s.signed st' f) = .next { s with cloche := { s.cloche with nonce := none, resp := [BitVec.ofNat 8 st] } } :=
      congrArg _ (status ▸ State.signed_of_refused on (status ▸ refused))
    refine ⟨fun status => spent status, fun status => spent status, fun status => spent status, fun status => spent status,
      fun b status => ?_, fun status => spent (Cloche.fwStatus_of_refused status refused)⟩
    rw [exec_reseal_eq on, State.signed_of_refused (by exact on) (status ▸ refused), status]
  case param =>
    subst param value
    have status : s.cloche.signedStatus x 0x10 false true (paramRange (scParam x) (scArg x % 2 ^ 64) && scZero x 8 true) true = 0 :=
      Cloche.signedStatus_of_ok ok (by rw [range, Bool.true_and])
    exact ⟨Cloche.append { s.cloche with nonce := none } 1 2 (scParam x) (s.cloche.paramOld (scParam x)) (scArg x % 2 ^ 64) (keyTag (scKey x)),
      Cloche.paramSet _ (scParam x) (scArg x % 2 ^ 64), congrArg Host.Outcome.next (State.signed_of_ok ok.1 status), Cloche.append_logged ..,
      Cloche.paramSet_eq _⟩
  case archive =>
    rw [Cloche.signedStatus_eq, if_neg (by simp [nonce]), if_neg (by simp [signer, key]), if_neg (by simp [sig]), if_neg (by simp [zero, cmd]),
      if_neg (by simp)]
  case reseal =>
    have status := Cloche.signedStatus_of_ok ok rfl
    rw [exec_reseal_eq ok.1, Bool.true_and, State.signed_of_ok (by exact ok.1) status]
    exact ⟨Cloche.append { s.cloche with nonce := none, loopOpen := false } 5 2 0 0 0 (keyTag (scKey x)), rfl, Cloche.append_logged ..⟩
  case commit =>
    subst version length
    have status := Cloche.fwStatus_of_signed (Cloche.signedStatus_of_ok ok rfl)
    rw [exec_fwCommit_eq, status]
    refine ⟨fun wrong => ?_, fun right spent => ?_, fun right left_ => ?_⟩
    · rw [if_pos wrong, State.signed_of_refused ok.1 (by decide)]
    · rw [if_neg (not_not_intro right), if_pos spent, State.signed_of_refused ok.1 (by decide)]
    · rw [if_neg (not_not_intro right), if_neg (Nat.not_le.mpr left_), State.signed_of_ok ok.1 rfl]
      exact ⟨_, _, Cloche.append_logged _ 7 2 _ _ _ _, rfl, rfl, rfl, rfl⟩

end Sys2Proof.Machine
end

section
/-!
Mailboxes (R405, R406, R416 to R424): what a change of one mailbox and a reply leave alone, GO, the service, and the queries that
change nothing; from them `MailboxQueries`.
-/
namespace Sys2Proof.Machine

/-! ## One mailbox (R405, R406) -/

section
variable (s : State) (mb : MbId) (f : Mailbox → Mailbox)

@[simp] theorem State.updMb_mbox_self : (s.updMb mb f).mbox mb = f (s.mbox mb) := by
  cases mb with
  | ld l m =>
    rw [State.updMb, State.mbox, State.updLd_ld_self]
    exact Tbl.getD_upd_self ..
  | fabric => rfl

@[simp] theorem State.updMb_mbox_ne {k : MbId} (other : k ≠ mb) : (s.updMb mb f).mbox k = s.mbox k := by
  cases mb with
  | ld l m =>
    cases k with
    | ld i j =>
      by_cases same : i = l
      · subst same
        have apart : j.val ≠ m.val := fun e => other (by rw [Fin.eq_of_val_eq e])
        rw [State.updMb, State.mbox, State.updLd_ld_self]
        exact Tbl.getD_upd_ne _ _ _ _ apart
      · rw [State.updMb, State.mbox, State.updLd_ld_ne s _ (fun e => same (Fin.eq_of_val_eq e))]
        rfl
    | fabric => rfl
  | fabric =>
    cases k with
    | ld i j => rfl
    | fabric => exact absurd rfl other

theorem State.updMb_frame : s.updMb mb f = { s with lds := (s.updMb mb f).lds, fabricMb := (s.updMb mb f).fabricMb } := by
  cases mb <;> rfl

@[simp] theorem State.updMb_mem : (s.updMb mb f).mem = s.mem := by cases mb <;> rfl

/-- A change of a mailbox keeps what its LD holds beside mailboxes. -/
theorem State.updMb_mbVec (l : Nat) : ((s.updMb mb f).ld l).mbVecEn = (s.ld l).mbVecEn ∧ ((s.updMb mb f).ld l).mbVec = (s.ld l).mbVec := by
  cases mb with
  | ld i m =>
    by_cases same : l = i.val
    · subst same
      rw [State.updMb, State.updLd_ld_self]
      exact ⟨rfl, rfl⟩
    · rw [State.updMb, State.updLd_ld_ne s _ same]
      exact ⟨rfl, rfl⟩
  | fabric => exact ⟨rfl, rfl⟩

end

/-! ## Replies (R405, R417, R418) -/

/-- Only memory, mailboxes with their LDs, and the host's memory have changed. -/
def OnMailboxes (s t : State) : Prop := t = { s with mem := t.mem, lds := t.lds, fabricMb := t.fabricMb, hostMem := t.hostMem }

theorem OnMailboxes.trans {r s t : State} (h : OnMailboxes r s) (k : OnMailboxes s t) : OnMailboxes r t := by
  unfold OnMailboxes at h k ⊢
  rw [k, h]

theorem State.updMb_onMailboxes (s : State) (mb : MbId) (f : Mailbox → Mailbox) : OnMailboxes s (s.updMb mb f) := by
  cases mb <;> rfl

theorem State.msix_onMailboxes (s : State) (ld vec : Nat) : OnMailboxes s (s.msix ld vec) := by
  unfold State.msix
  split
  · rfl
  · split <;> rfl

@[simp] theorem State.msix_mem (s : State) (ld vec : Nat) : (s.msix ld vec).mem = s.mem := by
  unfold State.msix
  split
  · rfl
  · split <;> rfl

@[simp] theorem State.msix_mbox (s : State) (ld vec : Nat) (k : MbId) : (s.msix ld vec).mbox k = s.mbox k := by
  have pending (g : LDev → LDev) (same : ∀ d, (g d).mbs = d.mbs) : (s.updLd ld g).mbox k = s.mbox k := by
    cases k with
    | ld l m => by_cases at_ : l.val = ld <;> simp [State.mbox, at_, same]
    | fabric => rfl
  unfold State.msix
  split
  · exact pending _ fun _ => rfl
  · split
    · exact pending _ fun _ => rfl
    · cases k <;> rfl

/-- The state once an answer stands in a mailbox's buffer (R417, R418). -/
def State.replyLaid (u : State) (mb : MbId) (status detail : Nat) (payload : List Byte) : State :=
  (u.wrBytes (mbAddr mb) (u.message (msgOp (u.mbox mb).msg) status 1 (msgTag (u.mbox mb).msg) detail payload)).updMb mb
    (fun x => { x with busy := false, done := true, msg := 0, waits := false })

section
variable {u : State} {mb : MbId} {status detail : Nat} {payload : List Byte}

theorem State.reply_of_abandoned (gone : (u.mbox mb).abandoned = true) : u.reply mb status detail payload =
    u.updMb mb (fun x => { x with busy := false, abandoned := false, msg := 0, waits := false }) := if_pos gone

theorem State.reply_of_present (present : (u.mbox mb).abandoned = false) : u.reply mb status detail payload =
    match mb with
    | .ld l _ => if (u.ld l.val).mbVecEn then (u.replyLaid mb status detail payload).msix l.val (u.ld l.val).mbVec
      else u.replyLaid mb status detail payload
    | .fabric => u.replyLaid mb status detail payload := by
  refine (if_neg (by simp [present])).trans ?_
  cases mb with
  | ld l m =>
    obtain ⟨enabled, vector⟩ := State.updMb_mbVec (u.wrBytes (mbAddr (.ld l m)) (u.message (msgOp (u.mbox (.ld l m)).msg) status 1
      (msgTag (u.mbox (.ld l m)).msg) detail payload)) (.ld l m) (fun x => { x with busy := false, done := true, msg := 0, waits := false }) l.val
    simp only [State.mbDone, enabled, vector]
    rfl
  | fabric => rfl

/-- What a reply leaves of the mailboxes and of memory. -/
theorem State.replyLaid_reads : (∀ k, (u.replyLaid mb status detail payload).mbox k = if k = mb then { u.mbox mb with
      busy := false, done := true, msg := 0, waits := false } else u.mbox k) ∧
    (u.replyLaid mb status detail payload).mem = memPut memKey u.mem (mbAddr mb)
      (u.message (msgOp (u.mbox mb).msg) status 1 (msgTag (u.mbox mb).msg) detail payload) := by
  refine ⟨fun k => ?_, by rw [State.replyLaid, State.updMb_mem, State.wrBytes_mem]⟩
  have stands (j : MbId) (a : Nat) (bs : List Byte) : (u.wrBytes a bs).mbox j = u.mbox j := by cases j <;> rfl
  split
  next same => rw [same, State.replyLaid, State.updMb_mbox_self, stands]
  next other => rw [State.replyLaid, State.updMb_mbox_ne _ _ _ other, stands]

theorem State.replyLaid_onMailboxes : OnMailboxes u (u.replyLaid mb status detail payload) :=
  OnMailboxes.trans (s := u.wrBytes _ _) rfl (State.updMb_onMailboxes ..)

end

/-- A reply is what it lays in memory and the mailbox, with at most an interrupt after it. -/
theorem State.reply_rings {u v : State} {mb : MbId} {status detail : Nat} {payload : List Byte} (present : (u.mbox mb).abandoned = false)
    (laid : u.replyLaid mb status detail payload = v) :
    u.reply mb status detail payload = v ∨ ∃ l vec, u.reply mb status detail payload = v.msix l vec := by
  rw [State.reply_of_present present, laid]
  cases mb with
  | fabric => exact .inl rfl
  | ld l m =>
    dsimp only
    split
    · exact .inr ⟨_, _, rfl⟩
    · exact .inl rfl

theorem replied_reply (u : State) (mb : MbId) (status detail : Nat) (payload : List Byte) :
    Claims.replied u (u.reply mb status detail payload) mb status detail payload := by
  unfold Claims.replied
  cases abandoned : (u.mbox mb).abandoned with
  | true =>
    rw [State.reply_of_abandoned abandoned]
    refine ⟨fun _ => rfl, fun present => by simp at present, ?_, State.updMb_mem .., ?_, fun k => State.updMb_mbox_ne _ _ _⟩
    · exact State.updMb_onMailboxes ..
    · simp
  | false =>
    refine ⟨fun gone => by simp at gone, fun _ v laid => ⟨fun fabric => ?_, fun l m own enabled => ?_, fun l m own off => ?_⟩, ?_⟩
    · subst fabric
      exact (State.reply_of_present abandoned).trans laid.symm
    · subst own
      exact (State.reply_of_present abandoned).trans ((if_pos enabled).trans (congrArg (State.msix · _ _) laid.symm))
    · subst own
      exact (State.reply_of_present abandoned).trans ((if_neg (by simp [off])).trans laid.symm)
    · obtain ⟨mailboxes, mem⟩ := State.replyLaid_reads (u := u) (mb := mb) (status := status) (detail := detail) (payload := payload)
      have rings := State.reply_rings (status := status) (detail := detail) (payload := payload) abandoned rfl
      have mine := mailboxes mb
      rw [if_pos rfl] at mine
      generalize u.reply mb status detail payload = t at rings ⊢
      generalize laid : u.replyLaid mb status detail payload = v at rings mailboxes mem mine
      have frame : OnMailboxes u v := laid ▸ State.replyLaid_onMailboxes
      have others (k : MbId) (other : k ≠ mb) : v.mbox k = u.mbox k := (mailboxes k).trans (if_neg other)
      rcases rings with rfl | ⟨l, vec, rfl⟩
      · exact ⟨frame, mem.trans (if_neg Bool.false_ne_true).symm, by rw [mine]; simp [abandoned], others⟩
      · exact ⟨frame.trans (State.msix_onMailboxes ..), ((State.msix_mem ..).trans mem).trans (if_neg Bool.false_ne_true).symm, by rw [State.msix_mbox, mine]; simp [abandoned],
          fun k other => (State.msix_mbox ..).trans (others k other)⟩

/-! ## GO and the service (R405, R416, R418 to R421) -/

section
variable {s : State}

theorem exec_mbGo_of_absent {l : Fin 16} {m : Fin 9} (absent : s.boot.good = false ∨ s.boot.released = false ∨ s.presents l.val = false) :
    exec (.mbGo (.ld l m)) s = .next s :=
  if_pos (by simpa [or_assoc] using absent)

/-- A GO of a mailbox that is present, by whether it may take one. -/
theorem exec_mbGo_of_present {l : Fin 16} {m : Fin 9} (good : s.boot.good = true) (released : s.boot.released = true)
    (presents : s.presents l.val = true) : exec (.mbGo (.ld l m)) s =
    if ((s.mbox (.ld l m)).busy || (s.mbox (.ld l m)).done || (s.devState ≠ .ready && s.devState ≠ .recovery) || !(s.ld l.val).bound) = true
    then .next (s.updMb (.ld l m) (fun x => { x with reject := true })) else .next (s.updMb (.ld l m) (fun x => { x with go := true })) :=
  if_neg (by simp [good, released, presents])

theorem exec_messageTake_idle (idle : s.live = false ∨ s.nextMb = none) : exec .messageTake s = .next s := by
  rcases idle with off | none_
  · cases next : s.nextMb <;> simp [exec, execMessageTake, next, off]
  · simp [exec, execMessageTake, none_]

/-- The mailbox with its message taken: the round robin moves on, and the message stands as it was read (R416, R418). -/
def State.taken (s : State) (mb : MbId) : State :=
  (s.mbServed mb).updMb mb (fun x => { x with go := false, busy := true, msg := ofBytes (s.readMsg mb) })

theorem exec_messageTake_of_next {mb : MbId} {st d : Nat} (live : s.live = true) (next : s.nextMb = some mb)
    (checked : (s.taken mb).msgCheck mb (s.readMsg mb) = (st, d)) : exec .messageTake s =
    if st = Stat.ok then .next (s.taken mb) else .next ((s.taken mb).reply mb st d []) := by
  have took : exec .messageTake s = .next (s.takeMsg mb) := by simp [exec, execMessageTake, next, live]
  have check : (State.updMb (s.mbServed mb) mb fun x => { x with go := false, busy := true, msg := ofBytes (s.readMsg mb) }).msgCheck mb
      (s.readMsg mb) = (st, d) := checked
  rw [took, State.takeMsg]
  simp only [check]
  exact apply_ite Host.Outcome.next _ _ _

end

/-! ## Queries (R393, R422, R423, R439) -/

section
variable {s : State} {mb : MbId} {m : Nat}

theorem exec_rmpRingQuery_of_held (held : s.held mb 0x0304 = some m) : exec (.rmpRingQuery mb) s =
    if (!s.ownRing mb (fld m 0x20 4)) = true then .next (s.answerBad mb 0x20)
    else .next (s.reply mb Stat.ok 0 (toBytes 64 (s.ring (fld m 0x20 4)).desc)) := by
  simp only [exec, execRmpRingQuery, held]

theorem exec_rmpReqQuery_of_held (held : s.held mb 0x0502 = some m) : exec (.rmpReqQuery mb) s =
    match s.reqBy (fld m 0x20 8) (fld m 0x28 2) with
    | none => .next (s.answer mb Stat.wrongState)
    | some i => .next (s.reply mb Stat.ok 0 (toBytes 256 (s.req i).enc)) := by
  simp only [exec, execRmpReqQuery, held] <;> rfl

theorem exec_rmpRegRead_of_held (held : s.held mb 0x0601 = some m) : exec (.rmpRegRead mb) s =
    if (!regMapped (fld m 0x20 8)) = true then .next (s.answer mb Stat.addrUnmapped)
    else .next (s.reply mb Stat.ok 0 ((List.range (fld m 0x28 2)).flatMap (fun i => toBytes 8 ((s.readReg (fld m 0x20 8 + 8 * i)).getD 0)))) := by
  simp only [exec, execRmpRegRead, held]

/-- A version is read from its slot, within its bytes (R423, R429). -/
theorem exec_rmpCfgRead_of_held {o : Option CfgImg} {slot : Nat} (held : s.held mb 0x0104 = some m)
    (active : fld m 0x20 1 = 1 → o = s.cfg.current ∧ slot = s.cfg.slot) (staged : fld m 0x20 1 ≠ 1 → o = s.cfg.staged ∧ slot = s.cfg.nextSlot) :
    exec (.rmpCfgRead mb) s = match (generalizing := false) o with
    | none => .next (s.answer mb Stat.versionStale)
    | some x => if x.bytes.length ≤ fld m 0x24 4 then .next (s.answerBad mb 0x24)
      else if x.bytes.length < fld m 0x24 4 + fld m 0x28 4 then .next (s.answerBad mb 0x28)
      else .next ((s.wrBytes (hostWin (fld m 0x30 8)) (s.bytes (versionSlotAt slot + fld m 0x24 4) (fld m 0x28 4))).answer mb Stat.ok) := by
  simp only [exec, execRmpCfgRead, held]
  by_cases which : fld m 0x20 1 = 1
  · obtain ⟨rfl, rfl⟩ := active which
    simp only [which, if_true] <;> rfl
  · obtain ⟨rfl, rfl⟩ := staged which
    simp only [which, if_false] <;> rfl

theorem exec_rmpTokenFetch_of_held (held : s.held mb 0x0305 = some m) : exec (.rmpTokenFetch mb) s =
    match s.reqBy (fld m 0x20 8) (fld m 0x28 2) with
    | none => .next (s.answer mb Stat.wrongState)
    | some i => .next ((s.wrBytes (hostWin (fld m 0x38 8)) (packFields (((((s.req i).journal.drop (s.req i).promptLen).drop (fld m 0x2C 4)).take
        (fld m 0x30 4)).map (fun x => (4, x))))).reply mb Stat.ok 0
        (toBytes 4 ((((s.req i).journal.drop (s.req i).promptLen).drop (fld m 0x2C 4)).take (fld m 0x30 4)).length)) := by
  simp only [exec, execRmpTokenFetch, held] <;> rfl

end

/-- Settles O47: a reply by whether the LD was unbound meanwhile, GO by what stands in its way (RECOVERY takes messages too, log 62), a
message by its check, each query by the table it reads. -/
theorem mailboxQueries : Obligations.MailboxQueries := by
  unfold Obligations.MailboxQueries
  refine ⟨replied_reply, fun s mb f => ⟨State.updMb_mbox_self .., fun k => State.updMb_mbox_ne s mb f, State.updMb_frame ..⟩,
    fun s l m good released presents => ⟨fun busy => ?rejected, fun idle taken state bound => ?queued⟩,
    fun s l m => exec_mbGo_of_absent, fun s => rfl, fun s => exec_messageTake_idle,
    fun s u mb st d live next took checked => ?take,
    fun s mb m c op payload held listed => ?fixed,
    fun s mb m held => ?ring,
    fun s mb m held => ⟨fun i found => ?req, fun none_ => ?noReq⟩,
    fun s mb m held => ?reg,
    fun s mb m slot o held active staged => ?cfg,
    fun s mb m held => ⟨fun none_ => ?noTokens, fun i ts found tokens => ?tokens⟩⟩
  case rejected => exact (exec_mbGo_of_present good released presents).trans (if_pos (by simpa [or_assoc] using busy))
  case queued => exact (exec_mbGo_of_present good released presents).trans (if_neg (by simp [idle, taken, bound]; tauto))
  case take =>
    have same : u = s.taken mb := by
      rw [took]
      cases mb with
      | ld l m => by_cases admin : m = 0 <;> simp [State.taken, State.mbServed, admin]
      | fabric => rfl
    rw [same] at checked ⊢
    rw [exec_messageTake_of_next live next checked]
    exact ⟨fun ok => if_pos ok, fun bad => if_neg bad⟩
  case fixed =>
    simp only [List.mem_cons, Prod.mk.injEq, List.not_mem_nil, or_false] at listed
    rcases listed with ⟨rfl, rfl, rfl⟩ | ⟨rfl, rfl, rfl⟩ | ⟨rfl, rfl, rfl⟩ | ⟨rfl, rfl, rfl⟩ | ⟨rfl, rfl, rfl⟩ | ⟨rfl, rfl, rfl⟩
    · simp only [exec, execRmpIdentify, held]
    · simp only [exec, execRmpAcctRead, held]
    · simp only [exec, execRmpSecQuery, held]
    · simp only [exec, execRmpPowerQuery, held]
    · simp only [exec, execRmpAgeReport, held]
    · simp only [exec, execRmpFaultRead, held]
  case ring =>
    rw [exec_rmpRingQuery_of_held held]
    exact ⟨fun own => if_neg (by simp [own]), fun foreign => if_pos (by simp [foreign])⟩
  case req => rw [exec_rmpReqQuery_of_held held, found]
  case noReq =>
    rw [exec_rmpReqQuery_of_held held, none_]
    rfl
  case reg =>
    rw [exec_rmpRegRead_of_held held]
    exact ⟨fun mapped => if_neg (by simp [mapped]), fun unmapped => if_pos (by simp [unmapped])⟩
  case cfg =>
    rw [exec_rmpCfgRead_of_held held active staged]
    refine ⟨fun none_ => by rw [none_]; rfl, fun x found => ?_⟩
    subst found
    exact ⟨fun past => if_pos past, fun from_ past => (if_neg (by omega)).trans (if_pos past),
      fun from_ inside => (if_neg (by omega)).trans (if_neg (by omega))⟩
  case noTokens =>
    rw [exec_rmpTokenFetch_of_held held, none_]
    rfl
  case tokens =>
    subst tokens
    rw [exec_rmpTokenFetch_of_held held, found]
    rfl

end Sys2Proof.Machine
end

section
/-!
Configuration versions, rings and models by mailbox (R358, R359, R364, R377, R422, R426 to R429, R433, R434): what the tables' entries in
memory become, one equation for each row's message, and from them `HostCommands`.
-/
namespace Sys2Proof.Machine

/-! ## Entries of the ring and the model-slot table (R228, R359, R377) -/

theorem State.freeRingNum_eq (s : State) (k : Nat) : s.freeRingNum k = { s with
    rings := (s.freeRingNum k).rings, mem := memPut memKey s.mem (ringSlot k) (toBytes 64 { s.ring k with rstate := .free }.desc) } := by
  dsimp only [State.freeRingNum, State.writeRing, State.wr, State.wrBytes]
  rw [State.updRing_ring_self]
  rfl

theorem State.freeRingNum_rings (s : State) (k : Nat) :
    (s.freeRingNum k).rings = Tbl.del (s.updRing k (fun g => { g with rstate := .free })).rings k := rfl

@[simp] theorem State.freeRingNum_ring_self (s : State) (k : Nat) : (s.freeRingNum k).ring k = {} := by
  rw [State.ring, State.freeRingNum_rings, Tbl.getD_del_self]

@[simp] theorem State.freeRingNum_ring_ne (s : State) {k j : Nat} (other : j ≠ k) : (s.freeRingNum k).ring j = s.ring j := by
  rw [State.ring, State.freeRingNum_rings, Tbl.getD_del_ne _ _ other]
  exact State.updRing_ring_ne s _ other

theorem State.emptySlot_eq (s : State) (k : Nat) : s.emptySlot k = { s with
    slots := Tbl.del s.slots k, mem := memPut memKey s.mem (0x10014400000 + 256 * k) (toBytes 256 (({} : Slot)).enc) } := by
  have empty : ({ s with slots := Tbl.del s.slots k } : State).slot k = {} := Tbl.getD_del_self ..
  rw [State.emptySlot, State.writeSlot, empty]
  rfl

@[simp] theorem State.emptySlot_slot_self (s : State) (k : Nat) : (s.emptySlot k).slot k = {} := Tbl.getD_del_self ..

@[simp] theorem State.emptySlot_slot_ne (s : State) {k j : Nat} (other : j ≠ k) : (s.emptySlot k).slot j = s.slot j := Tbl.getD_del_ne _ _ other

/-! ## Configuration versions (R429, R433, R434) -/

section
variable {s : State} {mb : MbId} {m : Nat}

theorem exec_rmpCfgStage_of_ok {d : Nat} (held : s.held mb 0x0101 = some m)
    (ok : s.stageStatus (s.bytes (hostWin (fld m 0x20 8)) (fld m 0x28 4)) (fld m 0x2C 2) (fld m 0x30 32) = (0, d)) :
    exec (.rmpCfgStage mb) s = .next (State.answer (State.helloChanged { s with
      mem := memPut memKey s.mem (versionSlotAt s.cfg.nextSlot) (s.bytes (hostWin (fld m 0x20 8)) (fld m 0x28 4)),
      cfg := { s.cfg with staged := some { version := fld m 0x2C 2, bytes := s.bytes (hostWin (fld m 0x20 8)) (fld m 0x28 4) } } }) mb Stat.ok) := by
  simp only [exec, execRmpCfgStage, held, ok]
  rfl

theorem exec_rmpCfgStage_of_bad {st d : Nat} (held : s.held mb 0x0101 = some m)
    (bad : s.stageStatus (s.bytes (hostWin (fld m 0x20 8)) (fld m 0x28 4)) (fld m 0x2C 2) (fld m 0x30 32) = (st, d)) (failed : st ≠ 0) :
    exec (.rmpCfgStage mb) s = .next (s.reply mb st d []) := by
  simp only [exec, execRmpCfgStage, held, bad]

theorem exec_rmpCfgCommit_of_held (held : s.held mb 0x0102 = some m) : exec (.rmpCfgCommit mb) s =
    if (!s.isStaged (fld m 0x20 2)) = true then .next (s.answer mb Stat.versionStale)
    else if s.cfg.cond.isSome = true then .next (s.answer mb Stat.busy)
    else .next (State.answer { s with cfg := { s.cfg with
      cond := some (if fld m 0x22 1 = 1 then .step else .time (fld m 0x28 8)) } } mb Stat.ok) := by
  simp only [exec, execRmpCfgCommit, held]

theorem exec_rmpCfgDiscard_of_held (held : s.held mb 0x0103 = some m) : exec (.rmpCfgDiscard mb) s =
    if (!s.isStaged (fld m 0x20 2)) = true then .next (s.answer mb Stat.versionStale)
    else .next (State.answer (State.helloChanged { s with cfg := { s.cfg with staged := none, cond := none } }) mb Stat.ok) := by
  simp only [exec, execRmpCfgDiscard, held]

/-! ## Rings (R358, R359, R364, R422) -/

theorem exec_rmpRingCreate_of_full {l : Fin 16} {k : Fin 9} (held : s.held (.ld l k) 0x0301 = some m) (full : s.freeRing = none) :
    exec (.rmpRingCreate (.ld l k)) s = .next (s.answer (.ld l k) Stat.noResource) := by
  simp only [exec, execRmpRingCreate, held, full]

theorem exec_rmpRingCreate_of_free {l : Fin 16} {k : Fin 9} {r : Nat} (held : s.held (.ld l k) 0x0301 = some m) (free : s.freeRing = some r) :
    exec (.rmpRingCreate (.ld l k)) s = .next (State.reply (State.writeRing { s with rings := Tbl.put s.rings r (ringOf m l.val) } r)
      (.ld l k) Stat.ok 0 (toBytes 4 r)) := by
  simp only [exec, execRmpRingCreate, held, free]

theorem exec_rmpRingCreate_of_none {l : Fin 16} {k : Fin 9} (none_ : s.held (.ld l k) 0x0301 = none) :
    exec (.rmpRingCreate (.ld l k)) s = .next s := by
  simp only [exec, execRmpRingCreate, none_]

theorem exec_rmpRingCreate_of_fabric (s : State) : exec (.rmpRingCreate .fabric) s = .next s := by
  cases held : s.held .fabric 0x0301 <;> simp only [exec, execRmpRingCreate, held]

theorem exec_rmpRingDestroy_of_held (held : s.held mb 0x0302 = some m) : exec (.rmpRingDestroy mb) s =
    if (!s.ownRing mb (fld m 0x20 4)) = true then .next (s.answerBad mb 0x20)
    else if s.ringBusy (fld m 0x20 4) = true then .next (s.answer mb Stat.busy)
    else if (s.ring (fld m 0x20 4)).kind = .submission
      then .next ((s.updRing (fld m 0x20 4) (fun g => { g with disabled := true, destroying := true })).answer mb Stat.ok)
    else .next ((s.freeRingNum (fld m 0x20 4)).answer mb Stat.ok) := by
  simp only [exec, execRmpRingDestroy, held]

/-- Every entry taken from a ring that is to go has been answered (R422). -/
def State.ringDone (s : State) (r : Nat) : Bool :=
  (s.ring r).destroying && (s.ring r).taken == 0 && (s.ring (s.ring r).bind).due.all (fun e => fld e 0x12 1 == 0)

theorem exec_submissionRingFreed_of_done {ring : BitVec 18} (live : s.live = true) (done : s.ringDone ring.toNat = true) :
    exec (.submissionRingFreed ring) s = .next (s.freeRingNum ring.toNat) := by
  simp only [State.ringDone, Bool.and_eq_true, beq_iff_eq, List.all_eq_true] at done
  obtain ⟨⟨destroying, taken⟩, due⟩ := done
  exact if_neg (by simpa [live, destroying, taken] using due)

theorem exec_submissionRingFreed_idle {ring : BitVec 18} (idle : s.live = false ∨ s.ringDone ring.toNat = false) :
    exec (.submissionRingFreed ring) s = .next s :=
  if_pos (by
    rcases idle with off | open_
    · simp [off]
    · simp only [State.ringDone, Bool.and_eq_false_iff, beq_eq_false_iff_ne, List.all_eq_false, beq_iff_eq] at open_
      rcases open_ with (stays | taken) | ⟨e, due, other⟩
      · simp [stays]
      · simp [taken]
      · simp only [Bool.or_eq_true, List.any_eq_true, decide_eq_true_eq]
        exact .inr ⟨e, due, other⟩)

/-- The index a resume names is one the ring can go back to (R364). -/
def State.resumesAt (s : State) (r h : Nat) : Prop :=
  h = 0xFFFFFFFF ∨ (s.ring r).kind = .submission ∧ (h + 2 ^ 32 - (s.ring r).head) % 2 ^ 32 ≤ (s.ring r).used

/-- The ring as the engine finds it again: with the index that was named, in the state it was halted in (R364; log 16). -/
def State.unhalted (s : State) (r h : Nat) : State :=
  (s.updRing r (fun g => { g with head := if h = 0xFFFFFFFF then g.head else h })).updRing r (fun g => { g with rstate := g.was })

theorem exec_rmpRingResume_of_foreign (held : s.held mb 0x0303 = some m) (foreign : s.ownRing mb (fld m 0x20 4) = false) :
    exec (.rmpRingResume mb) s = .next (s.answerBad mb 0x20) := by
  simp only [exec, execRmpRingResume, held, foreign, Bool.not_false, if_true]

section
variable {r h : Nat} (held : s.held mb 0x0303 = some m) (atR : fld m 0x20 4 = r) (atH : fld m 0x24 4 = h) (own : s.ownRing mb r = true)
include held atR atH own

theorem exec_rmpRingResume_of_bad_index (bad : ¬ s.resumesAt r h) : exec (.rmpRingResume mb) s = .next (s.answerBad mb 0x24) := by
  subst atR atH
  have test : fld m 0x24 4 ≠ 0xFFFFFFFF ∧ ((s.ring (fld m 0x20 4)).kind ≠ .submission ∨
      (fld m 0x24 4 + 2 ^ 32 - (s.ring (fld m 0x20 4)).head) % 2 ^ 32 > (s.ring (fld m 0x20 4)).used) := by
    simpa only [State.resumesAt, not_or, not_and_or, Nat.not_le, gt_iff_lt, ne_eq] using bad
  simp only [exec, execRmpRingResume, held, own]
  exact (if_neg (by simp)).trans (if_pos (by simpa using test))

theorem exec_rmpRingResume_of_index (good : s.resumesAt r h) : exec (.rmpRingResume mb) s =
    if ((s.ring r).rstate ≠ .halted || (s.ring r).destroying) = true then .next (s.answer mb Stat.wrongState)
    else .next (((s.unhalted r h).ringMoved r).answer mb Stat.ok) := by
  subst atR atH
  have test : ¬ (fld m 0x24 4 ≠ 0xFFFFFFFF ∧ ((s.ring (fld m 0x20 4)).kind ≠ .submission ∨
      (fld m 0x24 4 + 2 ^ 32 - (s.ring (fld m 0x20 4)).head) % 2 ^ 32 > (s.ring (fld m 0x20 4)).used)) := by
    simpa only [State.resumesAt, not_and_or, not_or, not_not, Nat.not_lt, gt_iff_lt] using good
  simp only [exec, execRmpRingResume, held, own]
  exact (if_neg (by simp)).trans (if_neg (by simpa using test))

end

theorem State.unhalted_reads (s : State) (r h : Nat) : s.unhalted r h = { s with rings := (s.unhalted r h).rings } ∧
    (∀ j, j ≠ r → (s.unhalted r h).ring j = s.ring j) ∧
    (s.unhalted r h).ring r = { s.ring r with head := if h = 0xFFFFFFFF then (s.ring r).head else h, rstate := (s.ring r).was } := by
  refine ⟨rfl, fun j other => ?_, ?_⟩
  · rw [State.unhalted, State.updRing_ring_ne _ _ other, State.updRing_ring_ne _ _ other]
  · rw [State.unhalted, State.updRing_ring_self, State.updRing_ring_self]

/-! ## Model slots (R204, R377, R393, R422, R426, R427) -/

theorem exec_rmpModelLoad_of_held (held : s.held mb 0x0401 = some m) : exec (.rmpModelLoad mb) s =
    if (s.slot (fld m 0x20 2)).st ≠ .empty then .next (s.answer mb Stat.wrongState)
    else if 16 ≤ (s.slots.filter (fun e => e.2.st = .loading)).length then .next (s.answer mb Stat.noResource)
    else .next (State.answer (State.writeSlot { s with slots := Tbl.put s.slots (fld m 0x20 2) { tenant := fld m 0x22 2, st := .loading, cfg := s.curVersion, object := (hostWin (fld m 0x28 8), fld m 0x24 4, fld m 0x30 32) } } (fld m 0x20 2)) mb Stat.ok) := by
  simp only [exec, execRmpModelLoad, held]

theorem exec_modelLoaded_idle {slot : Fin 16384} (idle : s.live = false ∨ (s.slot slot.val).st ≠ .loading) :
    exec (.modelLoaded slot) s = .next s :=
  if_pos (by simpa using idle)

/-- The load that ends, by the status of the object's checks. -/
theorem exec_modelLoaded_of_loading {slot : Fin 16384} {x : Slot} {u : State} {st : Nat} (live : s.live = true) (at_ : s.slot slot.val = x)
    (loading : x.st = .loading) (loads : s.loadObject slot.val x.object.1 x.object.2.2 (s.bytes x.object.1 x.object.2.1) = (u, st)) :
    exec (.modelLoaded slot) s = if st = 0 then .next ((u.writeSlot slot.val).tenantEvent x.tenant 0x83 slot.val 0 0 Stat.ok)
      else .next ((u.emptySlot slot.val).tenantEvent x.tenant 0x83 slot.val 0 0 st) := by
  subst at_
  refine (if_neg (by simp [live, loading])).trans ?_
  simp only [loads]
  cases st <;> rfl

theorem exec_rmpModelUnload_of_held (held : s.held mb 0x0402 = some m) : exec (.rmpModelUnload mb) s =
    if ((s.slot (fld m 0x20 2)).st ≠ .loaded || s.slotWanted (fld m 0x20 2)) = true then .next (s.answer mb Stat.wrongState)
    else .next (State.answer (State.writeSlot (s.updSlot (fld m 0x20 2) (fun x => { x with st := .unloading })) (fld m 0x20 2)) mb Stat.ok) := by
  simp only [exec, execRmpModelUnload, held]

theorem exec_modelUnloaded_idle {slot : Fin 16384} (idle : s.live = false ∨ (s.slot slot.val).st ≠ .unloading ∨ s.slotNamed slot.val = true ∨
    ∃ e ∈ (s.slot slot.val).pins, e.2 ≠ 0) : exec (.modelUnloaded slot) s = .next s :=
  if_pos (by simpa [or_assoc] using idle)

theorem exec_modelUnloaded_of_unused {slot : Fin 16384} {x : Slot} {u : State} (live : s.live = true) (at_ : s.slot slot.val = x)
    (unloading : x.st = .unloading) (unnamed : s.slotNamed slot.val = false) (unpinned : ∀ e ∈ x.pins, e.2 = 0)
    (freed : u = State.emptySlot (x.pinned.foldl (fun v _ => v.credit x.tenant 0) (x.plots.foldl (fun v e => v.freeSlotPlot slot.val e.1) s)) slot.val) :
    exec (.modelUnloaded slot) s = .next ((if u.slots.any (fun e => e.2.tenant = x.tenant) then u else u.rewriteAcct x.tenant).tenantEvent
      x.tenant 0x84 slot.val 0 0 0) := by
  subst at_ freed
  exact if_neg (by simpa [live, unloading, unnamed] using unpinned)

end

section
variable {s : State} {k addr digest : Nat} {o : List Byte}

theorem State.loadObject_of_bad_check (bad : shake256 o ≠ digest ∨ objCrcs o = false) :
    s.loadObject k addr digest o = (s, Stat.checkFailed) := if_pos (by simpa using bad)

/-- An object whose digest and checks hold, by its fields and the room for its plots. -/
theorem State.loadObject_of_checked (same : shake256 o = digest) (crcs : objCrcs o = true) : s.loadObject k addr digest o =
    if (!s.objFieldsOk o) = true then (s, Stat.invalidField)
    else match s.placeObject k addr o with
      | none => (s, Stat.quotaExceeded)
      | some u => (u.updSlot k (fun m => { m with st := .loaded }), Stat.ok) :=
  if_neg (by simp [same, crcs])

end

theorem State.freeSlotPlot_of_absent {s : State} {k vpn : Nat} (absent : Tbl.find? (s.slot k).plots vpn = none) :
    s.freeSlotPlot k vpn = s := by
  simp only [State.freeSlotPlot, absent]

/-- Settles O48: each command's row by the message it holds, as above. A version that is not staged is turned down before a commit
that waits (VERSION_STALE before BUSY, log 63), a destroyed submission ring is freed once its due entries are answered (log 64), a
resume gives a ring back the state it was halted in (log 16), and a loaded model takes its slot's entry as log 15 has it. -/
theorem hostCommands : Obligations.HostCommands := by
  unfold Obligations.HostCommands
  refine ⟨?entries, ?stage, ?commit, ?discard, ?create, fun s l k none_ => exec_rmpRingCreate_of_none none_, exec_rmpRingCreate_of_fabric,
    ?destroy, ?freed, ?resume, ?load, fun s slot idle => exec_modelLoaded_idle idle, ?loaded, ?object, ?unload,
    fun s slot idle => exec_modelUnloaded_idle idle, ?unloaded, ?plot⟩
  case entries =>
    intro s k
    exact ⟨rfl, rfl, s.freeRingNum_eq k, s.freeRingNum_ring_self k, fun j => s.freeRingNum_ring_ne, s.emptySlot_eq k,
      s.emptySlot_slot_self k, fun j => s.emptySlot_slot_ne⟩
  case stage =>
    rintro s mb m img held rfl
    exact ⟨fun d => exec_rmpCfgStage_of_ok held, fun st d => exec_rmpCfgStage_of_bad held⟩
  case commit =>
    intro s mb m held
    rw [exec_rmpCfgCommit_of_held held]
    exact ⟨fun other => if_pos (by simp [other]), fun staged waits => (if_neg (by simp [staged])).trans (if_pos waits),
      fun staged idle => (if_neg (by simp [staged])).trans (if_neg (by simp [idle]))⟩
  case discard =>
    intro s mb m held
    rw [exec_rmpCfgDiscard_of_held held]
    exact ⟨fun other => if_pos (by simp [other]), fun staged => if_neg (by simp [staged])⟩
  case create =>
    intro s l k m held
    exact ⟨exec_rmpRingCreate_of_full held, fun r => exec_rmpRingCreate_of_free held⟩
  case destroy =>
    rintro s mb m r held rfl
    rw [exec_rmpRingDestroy_of_held held]
    exact ⟨fun foreign => if_pos (by simp [foreign]), fun own busy => (if_neg (by simp [own])).trans (if_pos busy),
      fun own idle kind => (if_neg (by simp [own])).trans ((if_neg (by simp [idle])).trans (if_pos kind)),
      fun own idle kind => (if_neg (by simp [own])).trans ((if_neg (by simp [idle])).trans (if_neg kind))⟩
  case freed =>
    intro s ring
    constructor
    · intro live destroying taken due
      exact exec_submissionRingFreed_of_done live (by simpa [State.ringDone, destroying, taken] using due)
    · intro idle
      apply exec_submissionRingFreed_idle
      simpa [State.ringDone, or_assoc, imp_iff_not_or] using idle
  case resume =>
    intro s mb m r h held atR atH
    refine ⟨fun foreign => ?_, fun own named bad => ?_, fun own good stays => ?_, fun own good halted stays => ?_⟩
    · subst atR; exact exec_rmpRingResume_of_foreign held foreign
    · refine exec_rmpRingResume_of_bad_index held atR atH own ?_
      rintro (all | ⟨kind, within⟩)
      · exact named all
      · exact bad.elim (· kind) (fun beyond => absurd within (by omega))
    · rw [exec_rmpRingResume_of_index held atR atH own good]
      exact if_pos (by simpa using stays)
    · refine ⟨s.unhalted r h, ?_, s.unhalted_reads r h⟩
      rw [exec_rmpRingResume_of_index held atR atH own good]
      exact if_neg (by simp [halted, stays])
  case load =>
    rintro s mb m k held rfl
    rw [exec_rmpModelLoad_of_held held]
    exact ⟨fun taken => if_pos taken, fun empty full => (if_neg (not_not.mpr empty)).trans (if_pos full),
      fun empty room => (if_neg (not_not.mpr empty)).trans (if_neg (by omega))⟩
  case loaded =>
    intro s slot m live at_ loading
    refine ⟨fun u loads => ?_, fun u st loads failed => ?_⟩
    · rw [exec_modelLoaded_of_loading live at_ loading loads, if_pos rfl]
    · rw [exec_modelLoaded_of_loading live at_ loading loads, if_neg failed]
  case object =>
    intro s k addr digest o
    refine ⟨State.loadObject_of_bad_check, fun same crcs fields => ?_, fun same crcs fields => ⟨fun full => ?_, fun u places => ?_⟩⟩
      <;> rw [State.loadObject_of_checked same crcs]
    · simp [fields]
    · simp [fields, full]
    · simp [fields, places]
  case unload =>
    rintro s mb m k held rfl
    rw [exec_rmpModelUnload_of_held held]
    exact ⟨fun stays => if_pos (by simpa using stays), fun loaded idle => if_neg (by simp [loaded, idle])⟩
  case unloaded =>
    intro s u slot m live at_ unloading unnamed unpinned freed
    rw [exec_modelUnloaded_of_unused live at_ unloading unnamed unpinned freed]
    refine ⟨fun others => ?_, fun alone => ?_⟩
    · rw [if_pos (by simpa using others)]
    · rw [if_neg (by simpa using alone)]
  case plot =>
    exact fun s k vpn => ⟨State.freeSlotPlot_of_absent, fun p => s.freeSlotPlot_of_found⟩

end Sys2Proof.Machine
end

section
/-!
Firmware images, the life cycle, power and timers by mailbox (R501, R502, R504 to R506, R510, R518, R520, R531): one equation for each row's
message, what a burnt counter becomes, and from them `SystemCommands`.
-/
namespace Sys2Proof.Machine

/-! ## The rollback counters (R495) -/

/-- A burn touches the counters of the fuse word alone, and none of them falls. -/
theorem State.burnSvn_frame (s : State) (stage v : Nat) :
    s.burnSvn stage v = { s with sec := { s.sec with otp := (s.burnSvn stage v).sec.otp } } ∧
    (s.burnSvn stage v).sec.otp = { s.sec.otp with firstSvn := (s.burnSvn stage v).sec.otp.firstSvn, mainSvn := (s.burnSvn stage v).sec.otp.mainSvn } ∧
    s.sec.otp.firstSvn ≤ (s.burnSvn stage v).sec.otp.firstSvn ∧ s.sec.otp.mainSvn ≤ (s.burnSvn stage v).sec.otp.mainSvn := by
  unfold State.burnSvn
  by_cases first : stage = 1
  · simp only [if_pos first]
    exact ⟨trivial, trivial, Nat.le_max_left .., le_refl _⟩
  · simp only [if_neg first]
    exact ⟨trivial, trivial, le_refl _, Nat.le_max_left ..⟩

@[simp] theorem State.burnSvn_svn (s : State) (stage v : Nat) :
    (s.burnSvn stage v).sec.otp.svn stage = Nat.max (s.sec.otp.svn stage) v := by
  by_cases first : stage = 1 <;> simp only [State.burnSvn, Otp.svn, first, if_true, if_false]

/-! ## Rows by the message they hold -/

/-- A row whose mailbox holds no message of its opcode does nothing (R420). -/
theorem exec_of_not_held {s : State} {mb : MbId} {c : Instr} {op : Nat} (none_ : s.held mb op = none)
    (row : (c, op) ∈ [(.rmpIdentify mb, 0x0001), (.rmpCfgStage mb, 0x0101), (.rmpCfgCommit mb, 0x0102), (.rmpCfgDiscard mb, 0x0103), (.rmpCfgRead mb, 0x0104),
      (.rmpRingDestroy mb, 0x0302), (.rmpRingResume mb, 0x0303), (.rmpRingQuery mb, 0x0304), (.rmpTokenFetch mb, 0x0305), (.rmpModelLoad mb, 0x0401),
      (.rmpModelUnload mb, 0x0402), (.rmpAcctRead mb, 0x0501), (.rmpReqQuery mb, 0x0502), (.rmpRegRead mb, 0x0601), (.rmpSecQuery mb, 0x0701),
      (.rmpFwStage mb, 0x0702), (.rmpFwActivate mb, 0x0703), (.rmpRollbackAdvance mb, 0x0704), (.rmpLcTransition mb, 0x0705), (.rmpFaultRead mb, 0x0801),
      (.rmpPowerQuery mb, 0x0901), (.rmpPowerCap mb, 0x0902), (.rmpAgeReport mb, 0x0905), (.rmpBootParamSet mb, 0x0906)]) :
    exec c s = .next s := by
  simp only [List.mem_cons, List.not_mem_nil, or_false, Prod.mk.injEq] at row
  rcases row with ⟨rfl, rfl⟩ | ⟨rfl, rfl⟩ | ⟨rfl, rfl⟩ | ⟨rfl, rfl⟩ | ⟨rfl, rfl⟩ | ⟨rfl, rfl⟩ | ⟨rfl, rfl⟩ | ⟨rfl, rfl⟩ | ⟨rfl, rfl⟩ | ⟨rfl, rfl⟩ | ⟨rfl, rfl⟩ |
      ⟨rfl, rfl⟩ | ⟨rfl, rfl⟩ | ⟨rfl, rfl⟩ | ⟨rfl, rfl⟩ | ⟨rfl, rfl⟩ | ⟨rfl, rfl⟩ | ⟨rfl, rfl⟩ | ⟨rfl, rfl⟩ | ⟨rfl, rfl⟩ | ⟨rfl, rfl⟩ | ⟨rfl, rfl⟩ | ⟨rfl, rfl⟩ |
      ⟨rfl, rfl⟩ <;>
    simp only [exec, none_, execRmpIdentify, execRmpCfgStage, execRmpCfgCommit, execRmpCfgDiscard, execRmpCfgRead, execRmpRingDestroy, execRmpRingResume,
      execRmpRingQuery, execRmpTokenFetch, execRmpModelLoad, execRmpModelUnload, execRmpAcctRead, execRmpReqQuery, execRmpRegRead, execRmpSecQuery, execRmpFwStage,
      execRmpFwActivate, execRmpRollbackAdvance, execRmpLcTransition, execRmpFaultRead, execRmpPowerQuery, execRmpPowerCap, execRmpAgeReport, execRmpBootParamSet]

/-- FW_STAGED of an image, told whatever its checks say (R505; log 42). -/
def State.staged (s u : State) (img : List Byte) : State :=
  u.devEvent 0xC0 (1 - s.activeSlot) (hdVersion (ofBytes ((img.drop 0x800000).take 256)) + hdSvn (ofBytes ((img.drop 0x800000).take 256)) * 2 ^ 32) (s.imageStatus img)

section
variable {s : State} {mb : MbId} {m : Nat}

theorem exec_rmpFwStage_of_held {img : List Byte} (held : s.held mb 0x0702 = some m) (image : s.bytes (hostWin (fld m 0x20 8)) (fld m 0x28 4) = img) :
    exec (.rmpFwStage mb) s = if s.imageStatus img ≠ Stat.ok then .next ((s.staged s img).answer mb (s.imageStatus img))
      else .next ((s.staged (s.qspiPut (slotBase (1 - s.activeSlot)) img) img).reply mb Stat.ok 0 (toBytes 1 (1 - s.activeSlot))) := by
  subst image
  simp only [exec, execRmpFwStage, held]
  rfl

theorem exec_rmpFwActivate_of_held (held : s.held mb 0x0703 = some m) : exec (.rmpFwActivate mb) s =
    if s.slotStatus (fld m 0x20 1) ≠ Stat.ok then .next (s.answer mb (s.slotStatus (fld m 0x20 1)))
    else .next (((s.writeBootBlock (fld m 0x20 1) s.bootUnits s.resetCount).devEvent 0xC1 (fld m 0x20 1) 0 0).answer mb Stat.ok) := by
  simp only [exec, execRmpFwActivate, held]

/-- SVN_ADVANCED, told only where the counter rose (log 42). -/
def State.toldSvn (u : State) (stage was : Nat) : State :=
  if u.sec.otp.svn stage = was then u else u.devEvent 0xC2 stage (u.sec.otp.svn stage) 0

theorem exec_rmpRollbackAdvance_of_held {stage : Nat} {u : State} (held : s.held mb 0x0704 = some m) (at_ : fld m 0x20 1 = stage)
    (burnt : u = s.burnSvn stage (s.sec.runSvn stage)) : exec (.rmpRollbackAdvance mb) s =
      if (decide (fld m 0x21 1 = 0) && s.lowerSpare stage) = true then .next (s.answer mb Stat.wrongState)
      else if 63 ≤ s.sec.otp.svn stage then .next (s.answer mb Stat.noResource)
      else .next ((u.toldSvn stage (s.sec.otp.svn stage)).reply mb Stat.ok 0 (toBytes 1 (u.sec.otp.svn stage))) := by
  subst at_ burnt
  simp only [exec, execRmpRollbackAdvance, held]
  rfl

theorem exec_rmpLcTransition_of_held {st : Nat} (held : s.held mb 0x0705 = some m)
    (status : s.transitionStatus false (fld m 0x20 1) (BitVec.ofNat 1536 (fld m 0x28 192)) = st) : exec (.rmpLcTransition mb) s =
      if (!s.liveReqs.isEmpty || s.cfg.staged.isSome) = true then .next (s.answer mb Stat.wrongState)
      else if st ≠ Stat.ok then .next (s.answer mb st)
      else .next ((s.answer mb Stat.ok).transition (fld m 0x20 1)) := by
  subst status
  simp only [exec, execRmpLcTransition, held]

theorem exec_rmpPowerCap_of_held (held : s.held mb 0x0902 = some m) :
    exec (.rmpPowerCap mb) s = .next (State.answer { s with pwr := { s.pwr with pcap := fld m 0x20 4 } } mb Stat.ok) := by
  simp only [exec, execRmpPowerCap, held]

theorem exec_rmpBootParamSet_of_held (held : s.held mb 0x0906 = some m) :
    exec (.rmpBootParamSet mb) s = .next ((s.writeBootBlock s.activeSlot (fld m 0x20 1) s.resetCount).answer mb Stat.ok) := by
  simp only [exec, execRmpBootParamSet, held]

end

section
variable {s : State} {l : Fin 16} {b : Fin 9} {m k : Nat}

theorem exec_rmpTimerAlloc_of_full (held : s.held (.ld l b) 0x0903 = some m) (full : firstFrom (fun k => (s.cmp k).owner.isNone) 58 6 = none) :
    exec (.rmpTimerAlloc (.ld l b)) s = .next (s.answer (.ld l b) Stat.noResource) := by
  simp only [exec, execRmpTimerAlloc, held, full]

theorem exec_rmpTimerAlloc_of_free (held : s.held (.ld l b) 0x0903 = some m) (free : firstFrom (fun k => (s.cmp k).owner.isNone) 58 6 = some k) :
    exec (.rmpTimerAlloc (.ld l b)) s = if (bit (fld m 0x2C 1) 1 && s.syncOutTaken k) = true then .next (s.answer (.ld l b) Stat.noResource)
      else .next ((s.updCmp k (fun _ => { mtch := fld m 0x20 8, period := fld m 0x28 4, action := fld m 0x2C 1, enable := true, owner := some l.val })).reply
        (.ld l b) Stat.ok 0 (toBytes 1 k)) := by
  simp only [exec, execRmpTimerAlloc, held, free]

theorem exec_rmpTimerFree_of_held (held : s.held (.ld l b) 0x0904 = some m) : exec (.rmpTimerFree (.ld l b)) s =
    if (s.cmp (fld m 0x20 1)).owner ≠ some l.val then .next (s.answer (.ld l b) Stat.wrongState)
    else .next ((s.updCmp (fld m 0x20 1) (fun _ => {})).answer (.ld l b) Stat.ok) := by
  simp only [exec, execRmpTimerFree, held]

theorem exec_rmpTimerAlloc_of_none (none_ : s.held (.ld l b) 0x0903 = none) : exec (.rmpTimerAlloc (.ld l b)) s = .next s := by
  simp only [exec, execRmpTimerAlloc, none_]

theorem exec_rmpTimerFree_of_none (none_ : s.held (.ld l b) 0x0904 = none) : exec (.rmpTimerFree (.ld l b)) s = .next s := by
  simp only [exec, execRmpTimerFree, none_]

end

/-- Timers belong to LDs; the fabric mailbox has none (R518). -/
theorem exec_rmpTimer_fabric (s : State) : exec (.rmpTimerAlloc .fabric) s = .next s ∧ exec (.rmpTimerFree .fabric) s = .next s := by
  constructor
  · cases held : s.held .fabric 0x0903 <;> simp only [exec, execRmpTimerAlloc, held]
  · cases held : s.held .fabric 0x0904 <;> simp only [exec, execRmpTimerFree, held]

/-- Settles O49: each row by the message it holds, as above. FW_STAGED follows a failed check as well, NO_RESOURCE answers at 63, SVN_ADVANCED
is told only when the counter rises, and a life-cycle transition replies before the wipe (log 42); the boot-select block is laid out as log 29
has it. -/
theorem systemCommands : Obligations.SystemCommands := by
  unfold Obligations.SystemCommands
  refine ⟨?stage, ?activate, ?advance, ?burn, ?cycle, ?wipe, fun s mb m => exec_rmpPowerCap_of_held, ?alloc, ?comparator, ?free,
    fun s l b => ⟨exec_rmpTimerAlloc_of_none, exec_rmpTimerFree_of_none⟩, exec_rmpTimer_fabric, fun s mb m => exec_rmpBootParamSet_of_held,
    fun s mb c op => exec_of_not_held⟩
  case stage =>
    rintro s mb m st img tell held image rfl rfl
    rw [exec_rmpFwStage_of_held held image]
    exact ⟨fun bad => if_pos bad, fun ok => (if_neg (not_not.mpr ok)).trans rfl⟩
  case activate =>
    rintro s mb m k held rfl
    rw [exec_rmpFwActivate_of_held held]
    exact ⟨fun bad => if_pos bad, fun ok => if_neg (not_not.mpr ok)⟩
  case advance =>
    intro s mb m stage held at_
    rw [exec_rmpRollbackAdvance_of_held held at_ rfl]
    refine ⟨fun unforced lower => if_pos (by simp [unforced, lower]), fun allowed spent => ?_, fun allowed room u burnt => ?_⟩
    · exact (if_neg (by simpa [imp_iff_not_or] using allowed)).trans (if_pos spent)
    · subst burnt
      rw [if_neg (by simpa [imp_iff_not_or] using allowed), if_neg (by omega)]
      exact ⟨fun same => by rw [State.toldSvn, if_pos same], fun rose => by rw [State.toldSvn, if_neg rose]⟩
  case burn =>
    rintro s u stage v rfl
    obtain ⟨frame, fuses, first, main⟩ := s.burnSvn_frame stage v
    exact ⟨frame, fuses, s.burnSvn_svn stage v, first, main⟩
  case cycle =>
    intro s mb m st held status
    rw [exec_rmpLcTransition_of_held held status]
    refine ⟨fun busy => if_pos ?_, fun idle unstaged bad => ?_, fun idle unstaged ok => ?_⟩
    · rcases busy with live | staged
      · simp [live]
      · simp [staged]
    · exact (if_neg (by simp [idle, unstaged])).trans (if_pos bad)
    · exact (if_neg (by simp [idle, unstaged])).trans (if_neg (not_not.mpr ok))
  case wipe =>
    rintro s u k rfl
    rfl
  case alloc =>
    refine fun s l b m held => ⟨exec_rmpTimerAlloc_of_full held, fun k free => ?_⟩
    rw [exec_rmpTimerAlloc_of_free held free]
    exact ⟨fun drives taken => if_pos (by simp [drives, taken]), fun ok => if_neg (by simpa [imp_iff_not_or] using ok)⟩
  case comparator =>
    exact fun s k x => ⟨s.updCmp_cmp_self k _, fun j => s.updCmp_cmp_ne _, rfl⟩
  case free =>
    rintro s l b m k held rfl
    rw [exec_rmpTimerFree_of_held held]
    exact ⟨fun other => if_pos other, fun own => if_neg (not_not.mpr own)⟩

end Sys2Proof.Machine
end

section
/-!
The CXL port, the Fabric Manager's commands and the window as a host reads and writes it (R399, R400, R403, R408, R415, R442, R544): what a run of
changes to logical devices leaves, one equation for each command's case, and from them `PortAndFabricManager`.
-/
namespace Sys2Proof.Machine

/-! ## Several logical devices changed in turn -/

section
variable {α : Type} (key : α → Nat) (f : α → LDev → LDev)

/-- The devices that `xs` name by `key`, each changed by its `f`. -/
def State.updLds (s : State) (xs : List α) : State := xs.foldl (fun s x => s.updLd (key x) (f x)) s

theorem State.updLds_cons (s : State) (x : α) (xs : List α) : s.updLds key f (x :: xs) = (s.updLd (key x) (f x)).updLds key f xs := rfl

theorem State.updLds_frame (s : State) (xs : List α) : s.updLds key f xs = { s with lds := (s.updLds key f xs).lds } := by
  induction xs generalizing s with
  | nil => rfl
  | cons x xs ih =>
    rw [State.updLds_cons]
    exact ih (s.updLd (key x) (f x))

theorem State.updLds_ld_of_other (s : State) {xs : List α} {l : Nat} (other : ∀ x ∈ xs, key x ≠ l) : (s.updLds key f xs).ld l = s.ld l := by
  induction xs generalizing s with
  | nil => rfl
  | cons x xs ih =>
    rw [State.updLds_cons, ih _ (fun y mem => other y (.tail _ mem)), State.updLd_ld_ne _ _ (other x (.head _)).symm]

theorem State.updLds_ld_of_mem (s : State) {xs : List α} (apart : (xs.map key).Nodup) {x : α} (mem : x ∈ xs) :
    (s.updLds key f xs).ld (key x) = f x (s.ld (key x)) := by
  induction xs generalizing s with
  | nil => nomatch mem
  | cons y ys ih =>
    obtain ⟨first, rest⟩ := List.nodup_cons.mp apart
    rw [State.updLds_cons]
    have later : ∀ z ∈ ys, key z ≠ key y := fun z at_ same => first (same ▸ List.mem_map_of_mem at_)
    rcases List.mem_cons.mp mem with rfl | mem
    · rw [State.updLds_ld_of_other key f _ later, State.updLd_ld_self]
    · rw [ih _ rest mem, State.updLd_ld_ne _ _ (later x mem)]

end

/-! ## The Fabric Manager's commands (R403, R406, R408) -/

theorem exec_fm_off {s : State} {c : Instr} {f : Fin 16} {rs : List (Nat × Nat)} {q : QosCmd} {msg : List Byte} (off : s.fmOn = false)
    (mem : c ∈ [.getLdInfo, .getLdAllocations, .setLdAllocations f rs, .fmQosCommand q, .fmVendorRmp msg]) : exec c s = .next s := by
  have silent : (!s.fmOn) = true := by simp [off]
  simp only [List.mem_cons, List.not_mem_nil, or_false] at mem
  rcases mem with rfl | rfl | rfl | rfl | rfl <;> exact if_pos silent

theorem exec_getLdInfo_of_on {s : State} (on : s.fmOn = true) :
    exec .getLdInfo s = .next (s.fmAnswer 0 (toBytes 8 0x1000000000 ++ toBytes 2 16 ++ toBytes 1 0)) := if_neg (by simp [on])

theorem exec_getLdAllocations_of_on {s : State} (on : s.fmOn = true) : exec .getLdAllocations s =
    .next (s.fmAnswer 0 (toBytes 1 16 ++ toBytes 1 0 ++ toBytes 2 0 ++ (List.range 16).flatMap (fun l => toBytes 8 (s.ld l).winBase ++ toBytes 8 (s.ld l).winUnits))) :=
  if_neg (by simp [on])

theorem mem_zip_rangeFrom {a : Nat} {rs : List (Nat × Nat)} {e : Nat × Nat × Nat} :
    e ∈ List.zip (rangeFrom a rs.length) rs ↔ ∃ k, k < rs.length ∧ e = (a + k, nth rs k (0, 0)) := by
  rw [List.mem_iff_getElem]
  constructor
  · rintro ⟨k, within, rfl⟩
    have short : k < rs.length := by simpa [rangeFrom] using within
    exact ⟨k, short, by simp [rangeFrom, nth, short]⟩
  · rintro ⟨k, within, rfl⟩
    exact ⟨k, by simpa [rangeFrom] using within, by simp [rangeFrom, nth, within]⟩

section
variable (s : State) (first : Nat) (rs : List (Nat × Nat))

/-- The LDs whose range a SET_LD_ALLOCATIONS changes, with their new ranges (R408). -/
def State.newRanges : List (Nat × Nat × Nat) :=
  (List.zip (rangeFrom first rs.length) rs).filter (fun e => ((s.ld e.1).winBase, (s.ld e.1).winUnits) ≠ e.2)

theorem State.mem_newRanges {e : Nat × Nat × Nat} : e ∈ s.newRanges first rs ↔
    ∃ k, k < rs.length ∧ e = (first + k, nth rs k (0, 0)) ∧ nth rs k (0, 0) ≠ ((s.ld (first + k)).winBase, (s.ld (first + k)).winUnits) := by
  simp only [State.newRanges, List.mem_filter, mem_zip_rangeFrom, decide_eq_true_eq]
  constructor
  · rintro ⟨⟨k, within, rfl⟩, changed⟩
    exact ⟨k, within, rfl, changed.symm⟩
  · rintro ⟨k, within, rfl, changed⟩
    exact ⟨⟨k, within, rfl⟩, changed.symm⟩

theorem State.newRanges_apart : ((s.newRanges first rs).map (·.1)).Nodup := by
  refine List.Nodup.sublist (List.filter_sublist.map _) ?_
  rw [List.map_fst_zip (by simp [rangeFrom])]
  exact List.nodup_range.map (add_right_injective first)

/-- The devices with their new ranges. -/
def State.setRanges : State := s.updLds (·.1) (fun e d => { d with winBase := e.2.1, winUnits := e.2.2 }) (s.newRanges first rs)

theorem State.setRanges_frame : s.setRanges first rs = { s with lds := (s.setRanges first rs).lds } := State.updLds_frame ..

theorem State.setRanges_ld {k : Nat} (within : k < rs.length) : (s.setRanges first rs).ld (first + k) =
    { s.ld (first + k) with winBase := (nth rs k (0, 0)).1, winUnits := (nth rs k (0, 0)).2 } := by
  by_cases same : nth rs k (0, 0) = ((s.ld (first + k)).winBase, (s.ld (first + k)).winUnits)
  · rw [same]
    refine State.updLds_ld_of_other _ _ s fun e mem at_ => ?_
    obtain ⟨j, _, rfl, changed⟩ := (s.mem_newRanges first rs).mp mem
    obtain rfl : j = k := Nat.add_left_cancel at_
    exact changed same
  · exact State.updLds_ld_of_mem (·.1) _ s (s.newRanges_apart first rs) ((s.mem_newRanges first rs).mpr ⟨k, within, rfl, same⟩)

theorem State.setRanges_ld_of_out {l : Nat} (out : l < first ∨ first + rs.length ≤ l) : (s.setRanges first rs).ld l = s.ld l := by
  refine State.updLds_ld_of_other _ _ s fun e mem at_ => ?_
  obtain ⟨j, within, rfl, _⟩ := (s.mem_newRanges first rs).mp mem
  dsimp only at at_
  omega

end

theorem exec_setLdAllocations_of_on {s : State} {first : Fin 16} {rs : List (Nat × Nat)} (on : s.fmOn = true) : exec (.setLdAllocations first rs) s =
    if (!(s.rangesOk first.val rs) || (s.newRanges first.val rs).any (fun e => (s.ld e.1).decoder)) = true then .next (s.fmAnswer 1 [])
    else .next ((s.setRanges first.val rs).fmAnswer 0 []) := if_neg (by simp [on])

theorem exec_fmQosCommand_of_on {s : State} (on : s.fmOn = true) (q : QosCmd) : exec (.fmQosCommand q) s = match q with
    | .getControl => .next (s.fmAnswer 0 (toBytes 8 s.cxl.qosControl))
    | .setControl v => .next (State.fmAnswer { s with cxl := { s.cxl with qosControl := v } } 0 [])
    | .getStatus => .next (s.fmAnswer 0 (toBytes 1 0))
    | .getAlloc l => .next (s.fmAnswer 0 (toBytes 1 (s.ld l.val).qosAlloc))
    | .setAlloc l v => .next ((s.updLd l.val (fun d => { d with qosAlloc := v.toNat })).fmAnswer 0 [])
    | .getLimit l => .next (s.fmAnswer 0 (toBytes 1 (s.ld l.val).qosLimit))
    | .setLimit l v => .next ((s.updLd l.val (fun d => { d with qosLimit := v.toNat })).fmAnswer 0 []) :=
  (if_neg (by simp [on])).trans (by cases q <;> rfl)

theorem exec_fmVendorRmp_of_on {s : State} {msg : List Byte} (on : s.fmOn = true) : exec (.fmVendorRmp msg) s =
    if (s.fabricMb.go || s.fabricMb.busy) = true then .next (s.fmAnswer 1 [])
    else .next ((s.wrBytes (mbAddr .fabric) (msg.take 4096)).updMb .fabric (fun x => { x with go := true, done := false })) :=
  if_neg (by simp [on])

/-! ## The window as a host sees it (R71, R399, R400, R415) -/

/-- The port answers memory requests to an LD (R399, R400). -/
def State.memOn (s : State) (l : Nat) : Bool :=
  s.boot.good && s.boot.released && decide (s.cxl.state = 2) && s.cxl.memActive && (s.ld l).decoder && s.presents l

section
variable {s : State} {ld : Fin 16} {off : Nat}

theorem State.hostRange_of_within {n : Nat} (within : off + n ≤ (s.ld ld.val).winUnits * 2 ^ 28) :
    s.hostRange ld.val off n = some (hostWin ((s.ld ld.val).winBase * 2 ^ 28 + off)) := if_pos within

theorem State.hostRange_of_beyond {n : Nat} (beyond : (s.ld ld.val).winUnits * 2 ^ 28 < off + n) : s.hostRange ld.val off n = none :=
  if_neg (Nat.not_le.mpr beyond)

theorem exec_cxlMemRequest_of_off (off_ : s.memOn ld.val = false) (r : MemReq) : exec (.cxlMemRequest ld off r) s = .next s :=
  if_pos (by simpa [State.memOn, ← Bool.not_eq_true, imp_iff_not_or, or_assoc] using off_)

theorem exec_cxlMemRequest_read (on : s.memOn ld.val = true) (n : Nat) : exec (.cxlMemRequest ld off (.read n)) s = match s.hostRange ld.val off n with
    | some a => .next { s with cxl := { s.cxl with memRead := if (s.ld ld.val).bound then some (s.bytes a n) else none } }
    | none => .next { s with cxl := { s.cxl with memRead := none } } :=
  (if_neg (by
    simp only [State.memOn, Bool.and_eq_true, decide_eq_true_eq] at on
    obtain ⟨⟨⟨⟨⟨good, released⟩, up⟩, active⟩, decodes⟩, presents⟩ := on
    simp [good, released, up, active, decodes, presents])).trans rfl

theorem exec_cxlMemRequest_write (on : s.memOn ld.val = true) (bs : List Byte) :
    exec (.cxlMemRequest ld off (.write bs)) s = match s.hostRange ld.val off bs.length with
    | some a => if (s.ld ld.val).bound then .next (s.wrBytes a bs) else .next s
    | none => .next s :=
  (if_neg (by
    simp only [State.memOn, Bool.and_eq_true, decide_eq_true_eq] at on
    obtain ⟨⟨⟨⟨⟨good, released⟩, up⟩, active⟩, decodes⟩, presents⟩ := on
    simp [good, released, up, active, decodes, presents])).trans rfl

theorem exec_hdmDecoderCommit (s : State) (ld : Fin 16) (on : Bool) : exec (.hdmDecoderCommit ld on) s =
    if (!s.boot.good || !s.boot.released || decide (s.cxl.state ≠ 2) || !s.cxl.cfgReady || !s.presents ld.val) = true then .next s
    else .next (s.updLd ld.val (fun d => { d with decoder := on })) := rfl

end

/-! ## PERST_N (R399, R403, R407, R544) -/

section
variable {s : State}

theorem exec_perstN_idle (idle : s.boot.good = false ∨ s.boot.perst = false) : exec .perstN s = .next s := if_pos (by simpa using idle)

theorem exec_perstN_of_high {u : State} (good : s.boot.good = true) (high : s.boot.perst = true)
    (reset : u = if s.live = true then s.resetLds (List.range 16) else s) : exec .perstN s =
      .next { u with boot := { u.boot with perst := false }, cxl := { u.cxl with rate := 0, width := 0, mld := false, state := 0, memActive := false, cfgReady := false } } := by
  subst reset
  exact if_neg (by simp [good, high])

theorem exec_perstNRelease_idle (tr : Option CxlTrain) (idle : s.boot.good = false ∨ s.boot.perst = true) : exec (.perstNRelease tr) s = .next s :=
  if_pos (by simpa using idle)

theorem exec_perstNRelease_of_low (tr : Option CxlTrain) (good : s.boot.good = true) (low : s.boot.perst = false) :
    exec (.perstNRelease tr) s = if (!s.live || !s.boot.started) = true then .next { s with boot := { s.boot with perst := true } }
      else match tr with
        | none => .next { s with boot := { s.boot with perst := true }, cxl := { s.cxl with state := 1, cfgReady := decide (s.devState = .ready), memActive := decide (s.devState = .ready) } }
        | some x => .next { s with boot := { s.boot with perst := true }, cxl := { s.cxl with rate := x.rate, width := x.width, mld := x.mld, state := 2, cfgReady := decide (s.devState = .ready), memActive := decide (s.devState = .ready) } } := by
  refine (if_neg (by simp [good, low])).trans ?_
  cases tr <;> rfl

end

/-- Settles O51: each command by the state of the port, as above (layouts PRESUMED, log 39). -/
theorem portAndFabricManager : Obligations.PortAndFabricManager := by
  unfold Obligations.PortAndFabricManager
  refine ⟨fun s f rs q msg c => exec_fm_off, fun s on => ⟨exec_getLdInfo_of_on on, exec_getLdAllocations_of_on on⟩, ?refused, ?set, ?qos,
    fun s l f => ⟨s.updLd_ld_self l f, fun j => s.updLd_ld_ne f, rfl⟩, ?vendor, fun s => ⟨fun live => if_neg (by simp [live]), fun off => if_pos (by simp [off])⟩,
    ?decoder, ?off, ?window, ?perst, fun s tr => exec_perstNRelease_idle tr, ?release⟩
  case refused =>
    intro s first rs on bad
    rw [exec_setLdAllocations_of_on on]
    refine if_pos ?_
    rcases bad with ⟨k, within, changed, commits⟩ | ranges
    · have mem := (s.mem_newRanges first.val rs).mpr ⟨k, within, rfl, changed⟩
      rw [Bool.or_eq_true, List.any_eq_true]
      exact .inr ⟨_, mem, commits⟩
    · simp [ranges]
  case set =>
    intro s first rs on ranges free
    refine ⟨(s.setRanges first.val rs).fmAnswer 0 [], ?_, ?_, fun k => s.setRanges_ld first.val rs, fun l => s.setRanges_ld_of_out first.val rs⟩
    · rw [exec_setLdAllocations_of_on on]
      refine if_neg ?_
      simp only [ranges, Bool.not_true, Bool.false_or, List.any_eq_true, not_exists, not_and, Bool.not_eq_true]
      intro e mem
      obtain ⟨k, within, rfl, changed⟩ := (s.mem_newRanges first.val rs).mp mem
      exact (free k within).resolve_left changed
    · rw [State.fmAnswer, s.setRanges_frame first.val rs]
  case qos =>
    exact fun s l v b on => ⟨exec_fmQosCommand_of_on on _, exec_fmQosCommand_of_on on _, exec_fmQosCommand_of_on on _, exec_fmQosCommand_of_on on _,
      exec_fmQosCommand_of_on on _, exec_fmQosCommand_of_on on _, exec_fmQosCommand_of_on on _⟩
  case vendor =>
    intro s msg on
    rw [exec_fmVendorRmp_of_on on]
    exact ⟨fun busy => if_pos (by simpa using busy), fun idle done => if_neg (by simp [idle, done])⟩
  case decoder =>
    intro s ld on
    rw [exec_hdmDecoderCommit]
    exact ⟨fun good released up ready presents => if_neg (by simp [good, released, up, ready, presents]), fun off => if_pos (by simpa [or_assoc] using off)⟩
  case off =>
    intro s ld off r silent
    refine exec_cxlMemRequest_of_off ?_ r
    rcases silent with h | h | h | h | h | h <;> simp [State.memOn, h]
  case window =>
    intro s ld off n bs good released up active decodes presents
    have on : s.memOn ld.val = true := by simp [State.memOn, good, released, up, active, decodes, presents]
    rw [exec_cxlMemRequest_read on, exec_cxlMemRequest_write on]
    refine ⟨fun within bound => ?_, fun poisoned => ?_, fun within bound => ?_, fun dropped => ?_⟩
    · rw [State.hostRange_of_within within]; simp only [bound, if_true]
    · by_cases within : off + n ≤ (s.ld ld.val).winUnits * 2 ^ 28
      · rw [State.hostRange_of_within within]; simp [poisoned.resolve_left (Nat.not_lt.mpr within)]
      · rw [State.hostRange_of_beyond (Nat.not_le.mp within)]
    · rw [State.hostRange_of_within within]; exact if_pos bound
    · by_cases within : off + bs.length ≤ (s.ld ld.val).winUnits * 2 ^ 28
      · rw [State.hostRange_of_within within]; exact if_neg (by simp [dropped.resolve_left (Nat.not_lt.mpr within)])
      · rw [State.hostRange_of_beyond (Nat.not_le.mp within)]
  case perst =>
    refine fun s => ⟨exec_perstN_idle, fun good high u off on => exec_perstN_of_high good high ?_⟩
    cases live : s.live
    · exact off live
    · exact on live
  case release =>
    intro s tr good low
    rw [exec_perstNRelease_of_low tr good low]
    refine ⟨fun early => if_pos (by simpa using early), fun live started none_ => ?_, fun x live started some_ => ?_⟩
    · subst none_; exact if_neg (by simp [live, started])
    · subst some_; exact if_neg (by simp [live, started])

end Sys2Proof.Machine
end

section
/-!
The sideband bridge and its window, boundary scan, and the debug module (R550 to R556): which bytes a sideband write leaves, what a warning
changes, one equation for each case of the transport, and from them `SidebandAndTest`.
-/
namespace Sys2Proof.Machine

/-! ## The window (R550, R551) -/

theorem sbOk_iff (off len : Nat) : sbOk off len = true ↔ Claims.sbFits off len := by
  simp [sbOk, Claims.sbFits, and_assoc]

/-- Above T1's interleaved view an address is its own key. -/
theorem memKey_of_high {a : Nat} (high : 0x8000000000 ≤ a) : memKey a = a := if_neg (Nat.not_lt.mpr high)

theorem State.sbPut_succ (s : State) (off n : Nat) (bs : List Byte) : s.sbPut off (n + 1) bs =
    State.sbPut (if off < 64 ∨ 0xFF000 ≤ off then s else s.wrBytes (0x28000500000 + off) (bs.take 8)) (off + 8) n (bs.drop 8) := by
  by_cases guarded : off < 64 ∨ 0xFF000 ≤ off
  · rw [State.sbPut, if_pos guarded, if_pos (by simpa [sbProtected] using guarded)]
  · rw [State.sbPut, if_neg guarded, if_neg (by simpa [sbProtected] using guarded)]
    rfl

theorem State.sbPut_frame (s : State) (off n : Nat) (bs : List Byte) : s.sbPut off n bs = { s with mem := (s.sbPut off n bs).mem } := by
  induction n generalizing s off bs with
  | zero => rfl
  | succ n ih =>
    rw [State.sbPut_succ]
    split
    · exact ih s (off + 8) (bs.drop 8)
    · exact ih (s.wrBytes (0x28000500000 + off) (bs.take 8)) (off + 8) (bs.drop 8)

/-- Words written are those of the range, less the two records that port B may not write. -/
theorem State.sbPut_mem_of_out (s : State) {off a : Nat} (n : Nat) (bs : List Byte) (aligned : off % 8 = 0)
    (out : a < 0x28000500000 + off ∨ 0x28000500000 + off + 8 * n ≤ a ∨ a < 0x28000500000 + 64 ∨ 0x28000500000 + 0xFF000 ≤ a) :
    memGet (s.sbPut off n bs).mem a = memGet s.mem a := by
  induction n generalizing s off bs with
  | zero => rfl
  | succ n ih =>
    rw [State.sbPut_succ, ih _ _ (by omega) (by omega)]
    split
    · rfl
    · next open_ =>
      refine memGet_memPut_ne _ _ _ fun i within => ?_
      have short : i < 8 := lt_of_lt_of_le within (List.length_take_le ..)
      rw [memKey_of_high (by omega)]
      omega

/-- What a collision's warnings set (R551). -/
theorem State.warn_eq (s : State) (o : SbOverlap) : s.warn o = { s with
    bridge := { s.bridge with collideB := s.bridge.collideB || o.bWarned },
    boot := { s.boot with
      collideA := s.boot.collideA || o.aWarned, cntA := if o.aWarned then satAdd 32 s.boot.cntA 1 else s.boot.cntA,
      cntB := if o.bWarned then satAdd 32 s.boot.cntB 1 else s.boot.cntB } } := by
  rw [State.warn]
  cases o.aWarned <;> cases o.bWarned <;> simp [State.warnA, State.warnB]

section
variable {s : State} {off : BitVec 24} {len : BitVec 16} {data : List Byte}

theorem exec_sideband_off {c : Instr} {ov : Option SbOverlap} {addr : BitVec 7} (off_ : s.boot.good = false ∨ s.bridge.up = false)
    (mem : c ∈ [Instr.sbStatus, .sbRead off len ov, .sbWrite off data ov, .sbIdent, .sbDynamicAddress addr]) : exec c s = .next s := by
  have silent : (!s.sbUp) = true := by simpa [State.sbUp, imp_iff_not_or] using off_
  simp only [List.mem_cons, List.not_mem_nil, or_false] at mem
  rcases mem with rfl | rfl | rfl | rfl | rfl <;> exact if_pos silent

theorem State.sbUp_of (good : s.boot.good = true) (up : s.bridge.up = true) : ¬ (!s.sbUp) = true := by simp [State.sbUp, good, up]

variable (on : ¬ (!s.sbUp) = true)
include on

theorem exec_sbStatus_of_up : exec .sbStatus s = .next { s with bridge := { s.bridge with
    collideB := false, badCmd := false,
    resp := [BitVec.ofNat 8 (b2n s.bridge.collideB + 2 * b2n s.fcl.halted + 4 * b2n (s.devState = .ready) + 8 * b2n s.bridge.badCmd)] } } := if_neg on

theorem exec_sbRead_of_bad (ov : Option SbOverlap) (bad : ¬Claims.sbFits off.toNat len.toNat) : exec (.sbRead off len ov) s = .next s.sbBad :=
  (if_neg on).trans (if_pos (by simpa [← sbOk_iff] using bad))

theorem exec_sbWrite_of_bad (ov : Option SbOverlap) (bad : ¬Claims.sbFits off.toNat data.length) : exec (.sbWrite off data ov) s = .next s.sbBad :=
  (if_neg on).trans (if_pos (by simpa [← sbOk_iff] using bad))

theorem exec_sbRead_of_alone (fits : Claims.sbFits off.toNat len.toNat) :
    exec (.sbRead off len none) s = .next (s.sbResp (s.bytes (0x28000500000 + off.toNat) len.toNat)) :=
  (if_neg on).trans (if_neg (by simpa [← sbOk_iff] using fits))

theorem exec_sbRead_of_overlap (fits : Claims.sbFits off.toNat len.toNat) {o : SbOverlap} {k : Nat} (word : 8 * (o.word % (len.toNat / 8)) = k) :
    exec (.sbRead off len (some o)) s = .next (State.warn (State.sbResp (s.draw.wr (0x28000500000 + off.toNat + k) 8 o.val.toNat)
      (s.bytes (0x28000500000 + off.toNat) k ++ toBytes 8 (Config.sbwWord s.fresh).toNat ++ s.bytes (0x28000500000 + off.toNat + k + 8) (len.toNat - k - 8))) o) := by
  subst word
  exact (if_neg on).trans (if_neg (by simpa [← sbOk_iff] using fits))

theorem exec_sbWrite_of_alone (fits : Claims.sbFits off.toNat data.length) :
    exec (.sbWrite off data none) s = .next ((s.sbPut off.toNat (data.length / 8) data).sbResp []) :=
  (if_neg on).trans (if_neg (by simpa [← sbOk_iff] using fits))

theorem exec_sbWrite_of_overlap (fits : Claims.sbFits off.toNat data.length) (o : SbOverlap) : exec (.sbWrite off data (some o)) s =
    .next (State.warn { ((s.sbPut off.toNat (data.length / 8) data).sbResp []).draw with
      boot := { (s.sbPut off.toNat (data.length / 8) data).boot with portA := (Config.sbwWord (s.sbPut off.toNat (data.length / 8) data).fresh).toNat } } o) :=
  (if_neg on).trans (if_neg (by simpa [← sbOk_iff] using fits))

theorem exec_sbIdent_of_up : exec .sbIdent s =
    .next (s.sbResp (toBytes 8 (if s.boot.started = true then s.sec.otp.uid else 0) ++ toBytes 1 s.sec.otp.lc ++ toBytes 1 s.boot.phase)) := if_neg on

theorem exec_sbDynamicAddress_of_up (addr : BitVec 7) :
    exec (.sbDynamicAddress addr) s = .next { s with bridge := { s.bridge with addr := some addr.toNat } } := if_neg on

end

/-! ## Boundary scan (R553, R554) -/

theorem exec_jtag_off {s : State} {pins pre : List Bool} {op : DmiOp} {c : Instr} (off : s.boot.good = false)
    (mem : c ∈ [Instr.bypass, .idcode, .samplePreload pins pre, .extest pins, .clamp, .highz, .extestPulse pins, .extestTrain pins, .dbgDtmcs, .dbgDmi op]) :
    exec c s = .next s := by
  have silent : (!s.boot.good) = true := by simp [off]
  have unscanned : ∀ ir d q, s.scan ir d q = s := fun ir d q => if_pos silent
  simp only [List.mem_cons, List.not_mem_nil, or_false] at mem
  rcases mem with rfl | rfl | rfl | rfl | rfl | rfl | rfl | rfl | rfl | rfl
  case inr.inr.inr.inl | inr.inr.inr.inr.inl | inr.inr.inr.inr.inr.inl | inr.inr.inr.inr.inr.inr.inl | inr.inr.inr.inr.inr.inr.inr.inl =>
    exact congrArg _ (unscanned ..)
  all_goals exact if_pos silent

theorem State.scan_of_released {s : State} (good : s.boot.good = true) (released : s.boot.released = true) (ir : JIr) (d : PinDrive) (q : Option (List Bool)) :
    s.scan ir d q = s.toBypass := (if_neg (by simp [good])).trans (if_pos released)

theorem State.scan_of_held {s : State} (good : s.boot.good = true) (low : s.boot.released = false) (ir : JIr) (d : PinDrive) (q : Option (List Bool)) :
    s.scan ir d q = { s with jtag := { s.jtag with ir := ir, drive := d, capture := 0, sampled := q.getD s.jtag.sampled } } :=
  (if_neg (by simp [good])).trans (if_neg (by simp [low]))

/-- The instructions of the boundary register are one scan each. -/
theorem exec_scan {s : State} {pins q : List Bool} {c : Instr} {ir : JIr} {d : PinDrive}
    (mem : (c, ir, d, q) ∈ [(Instr.extest pins, JIr.extest, PinDrive.boundary, pins), (.clamp, .clamp, .boundary, s.jtag.sampled), (.highz, .highz, .float, s.jtag.sampled),
      (.extestPulse pins, .extestPulse, .pulse, pins), (.extestTrain pins, .extestTrain, .train, pins)]) :
    ∃ p : Option (List Bool), p.getD s.jtag.sampled = q ∧ exec c s = .next (s.scan ir d p) := by
  simp only [List.mem_cons, List.not_mem_nil, or_false, Prod.mk.injEq] at mem
  rcases mem with ⟨rfl, rfl, rfl, rfl⟩ | ⟨rfl, rfl, rfl, rfl⟩ | ⟨rfl, rfl, rfl, rfl⟩ | ⟨rfl, rfl, rfl, rfl⟩ | ⟨rfl, rfl, rfl, rfl⟩
  · exact ⟨some _, rfl, rfl⟩
  · exact ⟨none, rfl, rfl⟩
  · exact ⟨none, rfl, rfl⟩
  · exact ⟨some _, rfl, rfl⟩
  · exact ⟨some _, rfl, rfl⟩

/-! ## The debug transport and module (R554, R555) -/

section
variable {s : State}

theorem State.debugOpen_iff : s.debugOpen = true ↔ s.sec.otp.lc = 1 ∨ s.sec.otp.lc = 2 ∨ s.sec.otp.lc = 5 := by
  simp [State.debugOpen, or_assoc]

theorem exec_dbgDtmcs_of_good (good : s.boot.good = true) : exec .dbgDtmcs s = if (!s.debugOpen) = true then .next s.toBypass
    else .next { s with jtag := { s.jtag with ir := .dtmcs, capture := 0x71, drive := .system } } := if_neg (by simp [good])

theorem exec_dbgDmi_of_locked (good : s.boot.good = true) (locked : s.debugOpen = false) (op : DmiOp) :
    exec (.dbgDmi op) s = .next (s.toBypass.updDbg (fun _ => {})) := (if_neg (by simp [good])).trans (if_pos (by simp [locked]))

theorem exec_dbgDmi_of_open (good : s.boot.good = true) (open_ : s.debugOpen = true) (op : DmiOp) : exec (.dbgDmi op) s =
    if (!s.boot.released) = true then .next { s with jtag := { s.jtag with ir := .dmi, drive := .system, capture := 0, dbg := {} } }
    else if s.sbHeld = true then .next s else .next (s.dmi op) := (if_neg (by simp [good])).trans (if_neg (by simp [open_]))

theorem State.dmi_read_alone {a : BitVec 7} (alone : a.toNat ≠ 0x3C ∨ s.jtag.dbg.active = false ∨ s.jtag.dbg.sbRoD = false) :
    s.dmi (.read a) = s.dmiResult a.toNat (s.dmRead a.toNat) := by
  refine if_neg ?_
  simp only [State.dmiResult, Bool.and_eq_true, decide_eq_true_eq]
  rintro ⟨⟨data, active⟩, on⟩
  rcases alone with other | idle | off
  · exact other data
  · exact absurd (idle.symm.trans active) (by decide)
  · exact absurd (off.symm.trans on) (by decide)

theorem State.dmi_read_on {a : BitVec 7} (data : a.toNat = 0x3C) (active : s.jtag.dbg.active = true) (on : s.jtag.dbg.sbRoD = true) :
    s.dmi (.read a) = (s.dmiResult a.toNat (s.dmRead a.toNat)).sbRead := if_pos (by simp [State.dmiResult, data, active, on])

theorem State.dmWrite_of_inactive {a v : Nat} (inactive : s.jtag.dbg.active = false) (other : a ≠ 0x10) : s.dmWrite a v = s :=
  (if_neg other).trans (if_pos (by simp [inactive]))

theorem State.dmWrite_control (v : Nat) : s.dmWrite 0x10 v = s.dmControl v := by
  unfold State.dmWrite
  exact if_pos rfl

theorem State.dmControl_of_off {v : Nat} (off : bit v 0 = false) : s.dmControl v = s.updDbg (fun _ => {}) := if_pos (by simp [off])

/-- dmcontrol with dmactive: the hart selected is halted, resumed or left. -/
theorem State.dmControl_of_on {v sel : Nat} (selects : bits v 16 10 + bits v 6 10 * 1024 = sel) (on : bit v 0 = true) {d : Dbg}
    (is : d = { s.jtag.dbg with active := true, sel := sel }) : s.dmControl v = s.updDbg (fun _ =>
      if 1544 ≤ sel then d
      else if bit v 31 then { d with halted := if d.halted.contains sel then d.halted else sel :: d.halted }
      else if bit v 30 then { d with halted := d.halted.filter (· ≠ sel), resumed := if d.resumed.contains sel then d.resumed else sel :: d.resumed }
      else d) := by
  subst selects is
  exact if_neg (by simp [on])

theorem State.dmWrite_of_active {a v : Nat} (active : s.jtag.dbg.active = true) (other : a ≠ 0x10) : s.dmWrite a v = match (generalizing := false) a with
    | 0x04 => s.updDbg (fun d => { d with data := Tbl.put d.data 0 v })
    | 0x05 => s.updDbg (fun d => { d with data := Tbl.put d.data 1 v })
    | 0x16 => s.updDbg (fun d => { d with cmderr := d.cmderr - (d.cmderr &&& bits v 8 3) })
    | 0x17 => s.abstract v
    | 0x38 => s.updDbg (fun d =>
        { d with sbRoA := bit v 20, sbAccess := bits v 17 3, sbAuto := bit v 16, sbRoD := bit v 15, sbError := d.sbError - (d.sbError &&& bits v 12 3) })
    | 0x39 => if s.jtag.dbg.sbRoA then (s.updDbg (fun d => { d with sbAddr := setBits d.sbAddr 0 32 v })).sbRead
        else s.updDbg (fun d => { d with sbAddr := setBits d.sbAddr 0 32 v })
    | 0x3A => s.updDbg (fun d => { d with sbAddr := setBits d.sbAddr 32 32 v })
    | 0x3C => (s.updDbg (fun d => { d with sbData := setBits d.sbData 0 32 v })).sbPutWord
    | 0x3D => s.updDbg (fun d => { d with sbData := setBits d.sbData 32 32 v })
    | _ => s := by
  exact (if_neg other).trans (if_neg (by simp [active]))

end

/-- Settles O60: the window's transfers by fit and overlap, boundary scan by RESET_N, and the debug module by the life cycle, as above (the word of
a collision is a free value, log 26; the module's layout PRESUMED, log 21). -/
theorem sidebandAndTest : Obligations.SidebandAndTest := by
  unfold Obligations.SidebandAndTest
  refine ⟨fun s good up => exec_sbStatus_of_up (State.sbUp_of good up), ?transfer, fun s off n bs => ⟨rfl, s.sbPut_succ off n bs⟩, ?word, ?overlap,
    fun s good up => exec_sbIdent_of_up (State.sbUp_of good up), fun s addr good up => exec_sbDynamicAddress_of_up (State.sbUp_of good up) addr,
    fun s c off len data ov addr => exec_sideband_off, fun s => ⟨fun live => if_neg (by simp [live]), fun off => if_pos (by simp [off])⟩,
    fun s pins pre op off c => exec_jtag_off off, fun s good => if_neg (by simp [good]), fun s good => if_neg (by simp [good]),
    fun s pins pre good => if_neg (by simp [good]), ?scan, ?dtmcs, ?dmi, ?control, ?registers⟩
  case transfer =>
    intro s off len data ov good up
    have on := State.sbUp_of good up
    refine ⟨exec_sbRead_of_bad on ov, exec_sbWrite_of_bad on ov, exec_sbRead_of_alone on, fun fits => ⟨_, exec_sbWrite_of_alone on fits, rfl, ?_, fun a out => ?_⟩⟩
    · rw [State.sbResp, State.sbPut_frame]
    · obtain ⟨aligned, words, _, _, _⟩ := fits
      exact s.sbPut_mem_of_out _ data aligned (by omega)
  case word =>
    intro s off v good up fits low high
    have length := toBytes_length 8 v.toNat
    refine ⟨_, exec_sbWrite_of_alone (State.sbUp_of good up) (by rwa [length]), ?_⟩
    rw [length, s.sbPut_succ off.toNat 0, if_neg (by omega), List.take_of_length_le (le_of_eq length)]
    rfl
  case overlap =>
    intro s off len data o k good up
    have on := State.sbUp_of good up
    refine ⟨fun fits word => ⟨_, exec_sbRead_of_overlap on fits word, ?_, ?_⟩, fun fits => ⟨_, _, exec_sbWrite_of_alone on fits, exec_sbWrite_of_overlap on fits o, ?_⟩⟩
    · rw [State.warn_eq]; rfl
    · rw [State.warn_eq]; rfl
    · rw [State.warn_eq, State.sbPut_frame]; rfl
  case scan =>
    intro s pins c ir d q good mem
    obtain ⟨p, is, runs⟩ := exec_scan mem
    subst is
    rw [runs]
    exact ⟨fun released => by rw [State.scan_of_released good released]; rfl, fun low => by rw [State.scan_of_held good low]⟩
  case dtmcs =>
    refine fun s good => ⟨fun open_ => ?_, fun blank factory return_ => ?_⟩
    · rw [exec_dbgDtmcs_of_good good, if_neg (by simp [State.debugOpen_iff.mpr open_])]
    · have locked : s.debugOpen = false := by simp [State.debugOpen, blank, factory, return_]
      rw [exec_dbgDtmcs_of_good good, if_pos (by simp [locked])]
      exact ⟨rfl, exec_dbgDmi_of_locked good locked⟩
  case dmi =>
    intro s op a v good cycle
    have runs := exec_dbgDmi_of_open good (State.debugOpen_iff.mpr cycle)
    refine ⟨fun low => (runs op).trans (if_pos (by simp [low])), fun released held => (runs op).trans ((if_neg (by simp [released])).trans (if_pos held)),
      fun released free => ?_⟩
    have does : ∀ op, exec (.dbgDmi op) s = .next (s.dmi op) := fun op => (runs op).trans ((if_neg (by simp [released])).trans (if_neg (by simp [free])))
    refine ⟨does .nop, fun alone => ?_, fun data active reads => ?_, fun inactive other => ?_, fun control off => ?_, fun _ => does (.write a v)⟩
    · rw [does, State.dmi_read_alone alone]; rfl
    · rw [does, State.dmi_read_on data active reads]; rfl
    · rw [does]
      exact congrArg _ (State.dmWrite_of_inactive (s := s.dmiResult a.toNat v.toNat) inactive other)
    · rw [does, State.dmi, control, State.dmWrite_control, State.dmControl_of_off off]
      rfl
  case control =>
    intro s v sel selects on
    refine ⟨{ s.jtag.dbg with active := true, sel := sel }, rfl, ?_⟩
    rw [State.dmWrite_control, State.dmControl_of_on selects on rfl]
    refine ⟨fun left_ => ?_, fun there halts => ?_, fun there stays resumes => ?_⟩
    · rcases left_ with gone | ⟨stays, rests⟩
      · rw [if_pos gone]
      · simp [stays, rests]
    · rw [if_neg (Nat.not_le.mpr there), if_pos halts]
    · rw [if_neg (Nat.not_le.mpr there), if_neg (by simp [stays]), if_pos resumes]
  case registers =>
    intro s v active
    have write : ∀ a, a ≠ 0x10 → _ := fun a other => State.dmWrite_of_active (v := v) (a := a) active other
    refine ⟨write 0x04 (by decide), write 0x05 (by decide), write 0x16 (by decide), write 0x17 (by decide), write 0x38 (by decide), fun off => ?_, fun on => ?_,
      write 0x3A (by decide), write 0x3C (by decide), write 0x3D (by decide)⟩
    · rw [write 0x39 (by decide)]; exact if_neg (by simp [off])
    · rw [write 0x39 (by decide)]; exact if_pos on

end Sys2Proof.Machine
end

section
/-!
The composition map and what logical devices lose (R407, R410, R411, R414, R415): the rings that become free, the buffers a Function Level Reset
leaves undefined, one equation for each case of a map's row and of what its adoption drops, and from them `CompositionMap`.
-/
namespace Sys2Proof.Machine

/-! ## Memory of which a part is lost -/

theorem memGet_filter_of_kept {m : List Host.Cell} {b : Nat} {keeps : Host.Cell → Bool} (kept : ∀ c ∈ m, c.1 = b → keeps c = true) :
    memGet (m.filter keeps) b = memGet m b := by
  induction m with
  | nil => rfl
  | cons c m ih =>
    have rest := ih (fun d mem => kept d (.tail _ mem))
    by_cases here : c.1 = b
    · rw [List.filter_cons_of_pos (kept c (.head _) here), memGet, memGet, if_pos here, if_pos here]
    · rw [memGet, if_neg here, ← rest, List.filter_cons]
      split
      · rw [memGet, if_neg here]
      · rfl

/-- A byte outside the part lost is not among those filled in. -/
theorem memGet_foldl_memSet_of_skipped {cells m : List Host.Cell} {b : Nat} {lost : Nat → Bool} (kept : lost b = false) :
    memGet (cells.foldl (fun m c => if lost c.1 then memSet m c.1 c.2 else m) m) b = memGet m b := by
  induction cells generalizing m with
  | nil => rfl
  | cons c cells ih =>
    rw [List.foldl_cons, ih]
    split
    · next out => exact memGet_memSet_ne _ (fun same => by rw [same, kept] at out; cases out)
    · rfl

/-! ## Rings of LDs that lose them (R407, R415) -/

theorem State.foldl_freeRingNum_ring (s : State) (rs : List Nat) (r : Nat) :
    (rs.foldl (fun s r => s.freeRingNum r) s).ring r = if r ∈ rs then {} else s.ring r := by
  induction rs generalizing s with
  | nil => rfl
  | cons q rs ih =>
    rw [List.foldl_cons, ih]
    by_cases here : r = q
    · subst here; simp
    · simp [here]

theorem State.foldl_freeRingNum_frame (s : State) (rs : List Nat) : rs.foldl (fun s r => s.freeRingNum r) s =
    { s with rings := (rs.foldl (fun s r => s.freeRingNum r) s).rings, mem := (rs.foldl (fun s r => s.freeRingNum r) s).mem } := by
  induction rs generalizing s with
  | nil => rfl
  | cons r rs ih =>
    have rest := ih (s.freeRingNum r)
    rw [List.foldl_cons]
    generalize rs.foldl (fun s r => s.freeRingNum r) (s.freeRingNum r) = t at rest ⊢
    refine rest.trans ?_
    rw [State.freeRingNum_eq]

theorem State.freeRings_frame (s : State) (ls : List Nat) :
    s.freeRings ls = { s with reqs := (s.orphan ls).reqs, rings := (s.freeRings ls).rings, mem := (s.freeRings ls).mem } :=
  (s.orphan ls).foldl_freeRingNum_frame (s.ringsOf ls)

theorem State.freeRings_ring (s : State) (ls : List Nat) (r : Nat) :
    (s.freeRings ls).ring r = if r ∈ s.ringsOf ls then {} else s.ring r := (s.orphan ls).foldl_freeRingNum_ring (s.ringsOf ls) r

theorem State.mem_ringsOf {s : State} {ls : List Nat} {r : Nat} :
    r ∈ s.ringsOf ls ↔ (s.ring r).rstate ≠ .free ∧ ls.contains (s.ring r).ld = true := by
  simp only [State.ringsOf, List.mem_filter, Bool.and_eq_true, decide_eq_true_eq, and_iff_right_iff_imp]
  rintro ⟨used, _⟩
  by_contra absent
  exact used (by rw [State.ring, Tbl.getD, Tbl.find?_of_not_mem_keys absent]; rfl)

theorem State.freeRings_rstate {s : State} {ls : List Nat} {r : Nat} (of_ : ls.contains (s.ring r).ld = true) :
    ((s.freeRings ls).ring r).rstate = .free := by
  rw [State.freeRings_ring]
  split
  · rfl
  · next kept => exact not_not.mp fun used => kept (State.mem_ringsOf.mpr ⟨used, of_⟩)

theorem State.freeRings_ring_of_other {s : State} {ls : List Nat} {r : Nat} (other : ls.contains (s.ring r).ld = false) :
    (s.freeRings ls).ring r = s.ring r := by
  rw [State.freeRings_ring, if_neg (fun mem => by rw [(State.mem_ringsOf.mp mem).2] at other; cases other)]

/-! ## A Function Level Reset (R407) -/

/-- The buffers of the mailboxes of LDs, by key. -/
def bufferOf (ls : List Nat) (a : Nat) : Bool :=
  ls.any (fun l => decide (0x28000400000 + 0x10000 * l ≤ a) && decide (a < 0x28000400000 + 0x10000 * l + 0x9000))

/-- The LDs' mailbox registers as a reset leaves them. -/
def State.resetMbs (s : State) (ls : List Nat) : State := s.updLds id (fun _ d => { d with mbs := [], mbVecEn := false, mbVec := 0 }) ls

theorem State.resetLds_eq (s : State) (ls : List Nat) : s.resetLds ls = { ((s.dropLds ls).1.resetMbs ls).draw with
    mem := (Config.memAfterReset ((s.dropLds ls).1.resetMbs ls).fresh).foldl (fun m c => if bufferOf ls c.1 then memSet m c.1 c.2 else m)
      (((s.dropLds ls).1.resetMbs ls).mem.filter (fun c => !(bufferOf ls c.1))) } := rfl

theorem State.resetLds_loses (s : State) {ls : List Nat} (apart : ls.Nodup) : Claims.ldsReset (s.dropLds ls).1 (s.resetLds ls) ls := by
  rw [State.resetLds_eq]
  generalize (s.dropLds ls).1 = u
  have frame : u.resetMbs ls = { u with lds := (u.resetMbs ls).lds } := State.updLds_frame ..
  refine ⟨?_, fun l mem => ?_, fun l out => ?_, fun a out => ?_⟩
  · rw [State.draw, frame]
  · exact State.updLds_ld_of_mem id _ u (by rwa [List.map_id]) mem
  · exact State.updLds_ld_of_other id _ u (fun x mem same => out (same ▸ mem))
  · have kept : bufferOf ls (memKey a) = false := by simpa [bufferOf] using out
    calc memGet _ (memKey a) = _ := memGet_foldl_memSet_of_skipped kept
      _ = memGet (u.resetMbs ls).mem (memKey a) := memGet_filter_of_kept (fun c _ here => by simp [here, kept])
      _ = u.byte a := by rw [frame]; rfl

theorem exec_functionLevelReset (s : State) (ld : Fin 16) : exec (.functionLevelReset ld) s =
    if (!s.live || !s.presents ld.val) = true then .next s
    else .next { s.resetLds [ld.val] with cxl := { (s.resetLds [ld.val]).cxl with flr := satAdd 16 (s.resetLds [ld.val]).cxl.flr 1 } } := rfl

/-! ## Grafts, parked requests and requests whose LD or peer is gone (R415) -/

section
variable {s : State} {k i : Nat}

theorem State.graftRemoved_of_kept (kept : (s.graft k).live = false ∨ s.present (s.graft k).peer = true ∨ ((s.graft k).send = true ∧ (s.graft k).mode ≠ .push)) :
    s.graftRemoved k = s := by
  rw [State.graftRemoved]
  rcases kept with ended | present | ⟨sends, mode⟩
  · exact if_pos (by simp [ended])
  · exact if_pos (by simp [present])
  · simp only [sends, mode, if_true, if_false, ite_self]

theorem State.graftRemoved_of_gone (live : (s.graft k).live = true) (gone : s.present (s.graft k).peer = false) : s.graftRemoved k =
    if (s.graft k).send then (if (s.graft k).mode = .push then (s.abortGraft k).tryDest (s.graft k).req 0 (s.graft k).peer else s) else s.recvFailed k :=
  if_neg (by simp [live, gone])

theorem State.parkRemoved_of_gone (away : (s.req i).parkTarget = 4) (gone : s.present (s.req i).peer = false) : s.parkRemoved i =
    if (s.req i).st = .parked then s.expire i
    else if (decide ((s.req i).st = .resuming) && decide ((s.req i).resumeDev = 0) && (s.req i).pages.any (fun e => e.2 = .holder)) = true then s.recover i
    else s := if_neg (by simp [away, gone])

theorem State.parkRemoved_of_here (here : (s.req i).parkTarget ≠ 4 ∨ s.present (s.req i).peer = true) : s.parkRemoved i = s :=
  if_pos (by simpa using here)

/-- A request that neither waits with the peer nor comes back from it is left. -/
theorem State.parkRemoved_of_kept (parked : (s.req i).st ≠ .parked)
    (pulls : (s.req i).st ≠ .resuming ∨ (s.req i).resumeDev ≠ 0 ∨ ∀ e ∈ (s.req i).pages, e.2 ≠ .holder) : s.parkRemoved i = s := by
  by_cases here : (s.req i).parkTarget ≠ 4 ∨ s.present (s.req i).peer = true
  · exact State.parkRemoved_of_here here
  · simp only [not_or, not_not, Bool.not_eq_true] at here
    rw [State.parkRemoved_of_gone here.1 here.2, if_neg parked, if_neg]
    simp only [Bool.and_eq_true, decide_eq_true_eq, List.any_eq_true, not_and, not_exists, and_imp]
    intro resuming dev e mem held
    rcases pulls with other | other | none_
    · exact other resuming
    · exact other dev
    · exact none_ e mem held

end

theorem State.rehost_of_none {s : State} {a b i : Nat} (none_ : s.newHome i = none) : State.rehost (s, a, b) i =
    ((s.updReq i (fun r => { r with cplRing := noRing })).endRequest i Stat.hostRemoved, a, b + 1) := by
  simp only [State.rehost, none_]

theorem State.rehost_of_some {s : State} {a b i t l q : Nat} (home : s.newHome i = some (t, l, q)) : State.rehost (s, a, b) i =
    (((((s.updReq i (fun r => { r with tokenRing := t, ld := l, cplRing := q })).updRing t (fun g => { g with rstate := .bound, bind := i })).moveRoom i t).arrivedEvent i s.fid,
      a + 1, b)) := by
  simp only [State.rehost, home]
  rfl

theorem State.mapRetire_of_none {s : State} (none_ : s.cmap.old = none) : s.mapRetire = s := by
  simp only [State.mapRetire, none_]

theorem State.mapRetire_of_some {s : State} {e : Nat} (some_ : s.cmap.old = some e) : s.mapRetire =
    if s.fab.grafts.any (fun g => g.live && g.mapEpoch = e) = true then s
    else State.devEvent { s with cmap := { s.cmap with old := none, oldPeers := [] } } 0x82 e 0 0 := by
  simp only [State.mapRetire, some_]

/-! ## RMP_MAP_SET and RMP_MAP_GET (R410, R411, R422) -/

/-- The map of `m` as it stands once written, its predecessor kept (R411 step 3). -/
def State.mapWritten (s : State) (m : Nat) : State :=
  State.updLds id (fun l d => { d with bound := mapBound m l, host := mapHost m l })
    { s with cmap := { cur := fld m 0x20 2, old := some s.cmap.cur, peers := s.mapPeers m, oldPeers := s.cmap.peers, payload := m >>> 256 } } (List.range 16)

theorem State.setMap_eq (s : State) (mb : MbId) (m : Nat) : s.setMap mb m = Claims.afterAdoption (s.mapWritten m) mb m (s.unboundBy m) := rfl

theorem State.epochOk_iff {s : State} {e : Nat} : s.epochOk e = true ↔
    (s.cmap.cur ≠ 0 → e = (if s.cmap.cur = 0xFFFF then 1 else s.cmap.cur + 1)) ∧ (s.cmap.cur = 0 → e ≠ 0) := by
  by_cases first : s.cmap.cur = 0 <;> simp [State.epochOk, first]

section
variable {s : State} {mb : MbId} {m : Nat}

theorem exec_rmpMapSet_of_busy (held : s.held mb 0x0201 = some m) (busy : s.cmap.old.isSome = true) :
    exec (.rmpMapSet mb) s = .next (s.answer mb Stat.busy) := by
  simp only [exec, execRmpMapSet, held]
  exact if_pos busy

theorem exec_rmpMapSet_of_stale (held : s.held mb 0x0201 = some m) (idle : s.cmap.old = none) (stale : ¬ s.epochOk (fld m 0x20 2) = true) :
    exec (.rmpMapSet mb) s = .next (s.answer mb Stat.epochStale) := by
  simp only [exec, execRmpMapSet, held]
  exact (if_neg (by simp [idle])).trans (if_pos (by simpa using stale))

theorem exec_rmpMapSet_of_next (held : s.held mb 0x0201 = some m) (idle : s.cmap.old = none) (next : s.epochOk (fld m 0x20 2) = true) :
    exec (.rmpMapSet mb) s = match firstBad (mapFields m) with
      | some o => .next (s.answerBad mb o)
      | none => .next (s.setMap mb m) := by
  simp only [exec, execRmpMapSet, held]
  exact (if_neg (by simp [idle])).trans (if_neg (by simp [next]))

theorem exec_rmpMapSet_of_none (none_ : s.held mb 0x0201 = none) : exec (.rmpMapSet mb) s = .next s := by
  simp only [exec, execRmpMapSet, none_]

theorem exec_rmpMapGet_of_held (held : s.held mb 0x0202 = some m) : exec (.rmpMapGet mb) s = .next (s.reply mb Stat.ok (s.cmap.old.getD 0)
    (if s.cmap.cur = 0 then toBytes 8 0 ++ (List.range 16).flatMap (fun _ => toBytes 8 0 ++ toBytes 8 1)
      else toBytes (0x108 + 4 * bits s.cmap.payload 16 16) s.cmap.payload)) := by
  simp only [exec, execRmpMapGet, held]

theorem exec_rmpMapGet_of_none (none_ : s.held mb 0x0202 = none) : exec (.rmpMapGet mb) s = .next s := by
  simp only [exec, execRmpMapGet, none_]

end

/-- Settles O50: a map's row by its checks, and what an adoption drops, as above. The requests an LD loses are told of with this device's id, their END
entries go to a ring that does not exist, an adoption is one step, and grafts being received are bound again (log 62). -/
theorem compositionMap : Obligations.CompositionMap := by
  unfold Obligations.CompositionMap
  refine ⟨fun s mb m => exec_rmpMapSet_of_busy, ?stale, ?set, ?retire, ?peers, ?graft, ?park, fun s ls => ⟨s.freeRings_frame ls, fun r => State.freeRings_rstate,
    fun r => State.freeRings_ring_of_other⟩, ?lds, fun s a b i => ⟨State.rehost_of_none, fun t l q => State.rehost_of_some⟩, ?get, ?flr,
    fun s ls => s.resetLds_loses, fun s mb => ⟨exec_rmpMapSet_of_none, exec_rmpMapGet_of_none⟩⟩
  case stale =>
    refine fun s mb m held idle other first => exec_rmpMapSet_of_stale held idle fun ok => ?_
    obtain ⟨next, nonzero⟩ := State.epochOk_iff.mp ok
    by_cases zero : s.cmap.cur = 0
    · exact nonzero zero (first zero)
    · exact other zero (next zero)
  case set =>
    intro s mb m held idle next first
    rw [exec_rmpMapSet_of_next held idle (State.epochOk_iff.mpr ⟨next, first⟩)]
    refine ⟨fun o bad => by rw [bad]; rfl, fun good => ⟨s.mapWritten m, ?_, ?_, fun l low => ?_, fun l high => ?_⟩⟩
    · rw [good, ← State.setMap_eq]
    · exact State.updLds_frame ..
    · exact State.updLds_ld_of_mem id _ _ (by simpa using List.nodup_range) (List.mem_range.mpr low)
    · exact State.updLds_ld_of_other id _ _ (fun x mem same => by have := List.mem_range.mp mem; simp only [id] at same; omega)
  case retire =>
    refine fun v => ⟨State.mapRetire_of_none, fun e some_ => ?_⟩
    rw [State.mapRetire_of_some some_]
    exact ⟨fun open_ => if_pos (by simpa using open_), fun closed => if_neg (by simpa using closed)⟩
  case peers =>
    rintro s u rfl
    rfl
  case graft =>
    rintro s k g rfl
    refine ⟨State.graftRemoved_of_kept, fun live gone sends push => ?_, fun live gone receives => ?_⟩
    · rw [State.graftRemoved_of_gone live gone, if_pos sends, if_pos push]
    · rw [State.graftRemoved_of_gone live gone, if_neg (by simp [receives])]
  case park =>
    rintro s i r rfl
    refine ⟨fun away gone parked => ?_, fun away gone resuming dev held => ?_, fun kept => ?_⟩
    · rw [State.parkRemoved_of_gone away gone, if_pos parked]
    · rw [State.parkRemoved_of_gone away gone, if_neg (by simp [resuming]), if_pos (by simpa [resuming, dev] using held)]
    · rw [← or_assoc] at kept
      rcases kept with here | ⟨parked, pulls⟩
      · exact State.parkRemoved_of_here here
      · exact State.parkRemoved_of_kept parked pulls
  case lds =>
    rintro s u ls rfl x rfl
    rfl
  case get =>
    intro s mb m held
    rw [exec_rmpMapGet_of_held held]
    exact ⟨fun some_ => by rw [if_neg some_], fun none_ => by rw [if_pos none_]⟩
  case flr =>
    intro s ld
    rw [exec_functionLevelReset]
    exact ⟨fun live presents => if_neg (by simp [live, presents]), fun idle => if_pos (by simpa using idle)⟩

end Sys2Proof.Machine
end

section
/-!
The fault collector's samples, reactions, halt and BEAT (R445, R446, R450 to R452, R456 to R458, R460, R474): links cut in turn, the bits and counts
that a run of latches leaves, one equation for each command's case, and from them `FaultSamples`.
-/
namespace Sys2Proof.Machine

/-! ## Links cut in turn (R272, R356) -/

/-- Each link of a list loses its queues and is changed by `f`. -/
def State.cutLinks (s : State) (f : Link → Link) (ks : List Nat) : State := ks.foldl (fun s k => (s.discardLink k).updLink k f) s

theorem State.cutLinks_cons (s : State) (f : Link → Link) (k : Nat) (ks : List Nat) :
    s.cutLinks f (k :: ks) = ((s.discardLink k).updLink k f).cutLinks f ks := rfl

theorem State.cutLinks_frame (s : State) (f : Link → Link) (ks : List Nat) : s.cutLinks f ks = { s with fab := (s.cutLinks f ks).fab } := by
  induction ks generalizing s with
  | nil => rfl
  | cons k ks ih =>
    rw [State.cutLinks_cons]
    refine (ih _).trans ?_
    rw [State.updLink, State.discardLink_frame]

theorem State.cutLinks_link_of_out (s : State) (f : Link → Link) {ks : List Nat} {j : Nat} (out : j ∉ ks) : (s.cutLinks f ks).link j = s.link j := by
  induction ks generalizing s with
  | nil => rfl
  | cons k ks ih =>
    obtain ⟨other, rest⟩ := not_or.mp (List.mem_cons.not.mp out)
    rw [State.cutLinks_cons, ih _ rest, State.updLink_link_ne _ _ other, State.discardLink_link, State.updLink_link_ne _ _ other]

theorem State.cutLink_link (s : State) (f : Link → Link) (k : Nat) : ((s.discardLink k).updLink k f).link k = f (s.link k).discard := by
  rw [State.updLink_link_self, State.discardLink_link, State.updLink_link_self]

theorem State.cutLinks_link_of_mem (s : State) (f : Link → Link) {ks : List Nat} (apart : ks.Nodup) {j : Nat} (mem : j ∈ ks) :
    (s.cutLinks f ks).link j = f (s.link j).discard := by
  induction ks generalizing s with
  | nil => nomatch mem
  | cons k ks ih =>
    obtain ⟨first, rest⟩ := List.nodup_cons.mp apart
    rw [State.cutLinks_cons]
    rcases List.mem_cons.mp mem with rfl | later
    · rw [State.cutLinks_link_of_out _ _ first, State.cutLink_link]
    · have other : j ≠ k := fun same => first (same ▸ later)
      rw [ih _ rest later, State.updLink_link_ne _ _ other, State.discardLink_link, State.updLink_link_ne _ _ other]

/-! ## The halt (R456) -/

/-- The state halted, its links cut, before the halt record is written. -/
def State.stopped (s : State) : State := State.cutLinks
  { s with fcl := { s.fcl with halted := true, running := false }, devState := .halted, pwr := { s.pwr with harts := 0 } }
  (fun l => { l with state := .down }) (List.range 36)

theorem State.halt_eq (s : State) : s.halt =
    ((s.stopped.wr haltRecord 8 s.stopped.fcl.status).wr (haltRecord + 8) 128 s.stopped.fcl.sticky.toNat).wr (haltRecord + 136) 128 s.stopped.fcl.wire.toNat := by
  have cut : (List.range 36).foldl (fun s lk => (s.discardLink lk).updLink lk (fun l => { l with state := .down }))
      { s with fcl := { s.fcl with halted := true, running := false }, devState := .halted, pwr := { s.pwr with harts := 0 } } = s.stopped := by
    rw [State.stopped, State.cutLinks]
  unfold State.halt
  dsimp only
  rw [cut]

theorem State.stopped_frame (s : State) : s.stopped = { s with
    fcl := { s.fcl with halted := true, running := false }, devState := .halted, pwr := { s.pwr with harts := 0 }, fab := s.stopped.fab } :=
  State.cutLinks_frame ..

theorem State.wr_frame (s : State) (a n v : Nat) : s.wr a n v = { s with mem := memPut memKey s.mem a (toBytes n v) } := rfl

theorem State.halt_fcl (s : State) : s.halt.fcl = { s.fcl with halted := true, running := false } := by
  have same : s.halt.fcl = s.stopped.fcl := by
    rw [State.halt_eq, State.wr_frame, State.wr_frame, State.wr_frame]
  rw [same, State.stopped_frame]

theorem State.halt_of_stopped (s : State) : s.halt = { s.stopped with mem := s.halt.mem } := by
  rw [State.halt_eq, State.wr_frame, State.wr_frame, State.wr_frame]

theorem State.halt_mem (s : State) : s.halt.mem = memPut memKey (memPut memKey (memPut memKey s.mem 0x280005FF000 (toBytes 8 s.halt.fcl.status))
    0x280005FF008 (toBytes 128 s.fcl.sticky.toNat)) 0x280005FF088 (toBytes 128 s.fcl.wire.toNat) := by
  rw [State.halt_fcl]
  have mem : s.stopped.mem = s.mem := by rw [State.stopped_frame]
  have fcl : s.stopped.fcl = { s.fcl with halted := true, running := false } := by rw [State.stopped_frame]
  rw [State.halt_eq, State.wr_frame, State.wr_frame, State.wr_frame, mem, fcl, haltRecord]

theorem State.halt_halts (s : State) : Claims.deviceHalt s s.halt := by
  have fab : s.halt.fab = s.stopped.fab := by rw [State.halt_of_stopped]
  refine ⟨⟨s.stopped, rfl, s.halt_of_stopped⟩, ?_, fun lk low => ?_, s.halt_mem⟩
  · rw [fab]
    refine s.halt_of_stopped.trans ?_
    rw [State.stopped_frame]
  · rw [State.link, fab]
    exact State.cutLinks_link_of_mem _ _ List.nodup_range (List.mem_range.mpr low)

/-! ## Reactions (R450, R472) -/

theorem sourceClass_le {x c : Nat} (is : sourceClass x = some c) : c ≤ 3 := by
  unfold sourceClass at is
  dsimp only at is
  split_ifs at is <;> cases is <;> decide

theorem classOf_le (x : Nat) : classOf x ≤ 3 := by
  rw [classOf]
  cases is : sourceClass x with
  | none => exact Nat.zero_le 3
  | some c => exact sourceClass_le is

theorem classOf_of_some {x c : Nat} (is : sourceClass x = some c) : classOf x = c := by rw [classOf, is]; rfl

/-- The highest class among sources. -/
def topClass (news : List Nat) : Nat := news.foldl (fun m x => Nat.max m (classOf x)) 0

theorem le_foldl_max_classOf (news : List Nat) (m : Nat) : m ≤ news.foldl (fun m x => Nat.max m (classOf x)) m ∧
    (m ≤ 3 → news.foldl (fun m x => Nat.max m (classOf x)) m ≤ 3) ∧ ∀ x ∈ news, classOf x ≤ news.foldl (fun m x => Nat.max m (classOf x)) m := by
  induction news generalizing m with
  | nil => exact ⟨le_refl m, id, fun x mem => nomatch mem⟩
  | cons y ys ih =>
    obtain ⟨low, high, each⟩ := ih (Nat.max m (classOf y))
    refine ⟨(Nat.le_max_left ..).trans low, fun bound => high (Nat.max_le.mpr ⟨bound, classOf_le y⟩), fun x mem => ?_⟩
    rcases List.mem_cons.mp mem with rfl | later
    · exact (Nat.le_max_right ..).trans low
    · exact each x later

theorem topClass_of_device {news : List Nat} {x : Nat} (mem : x ∈ news) (device : sourceClass x = some 3) : topClass news = 3 := by
  obtain ⟨_, high, each⟩ := le_foldl_max_classOf news 0
  exact le_antisymm (high (by decide)) (classOf_of_some device ▸ each x mem)

theorem State.react_of_device (s : State) {news : List Nat} (top : topClass news = 3) :
    s.react news = State.halt { s with fcl := { s.fcl with reacting := some 3 } } := by
  rw [State.react]
  exact (if_pos top).trans (by rw [show news.foldl (fun m x => Nat.max m (classOf x)) 0 = 3 from top])

theorem State.react_of_lower (s : State) {news : List Nat} {top : Nat} (is : topClass news = top) (lower : top ≠ 3) {u : State}
    (told : u = news.foldl (fun v x => if classOf x = 0 then v else v.devEvent 0x40 x (classOf x) (Tbl.getD v.fcl.cnt x 0))
      { s with fcl := { s.fcl with reacting := some top } }) :
    s.react news = news.foldl (fun v x => match fenceTarget x with
      | some (k, i) => if k = 2 && x < 0x100 && x % 0x40 = 0x1A then (v.fence k i).updDie i (fun d => { d with clockLost := true }) else v.fence k i
      | none => v) u := by
  subst told is
  exact if_neg lower

/-! ## What a sample latches (R445) -/

theorem getLsbD_source {x y : Nat} (inside : x < 1024) : (1#1024 <<< y).getLsbD x = (x == y) := by
  rw [BitVec.getLsbD_shiftLeft, BitVec.getLsbD_one, Bool.eq_iff_iff]
  simp only [inside, decide_true, Bool.true_and, Bool.and_eq_true, Bool.not_eq_true', decide_eq_false_iff_not, decide_eq_true_eq, beq_iff_eq]
  omega

theorem getLsbD_foldl_mark (xs : List Nat) (v : BitVec 1024) {x : Nat} (inside : x < 1024) :
    (xs.foldl (fun v y => v ||| (1#1024 <<< y)) v).getLsbD x = (v.getLsbD x || xs.contains x) := by
  induction xs generalizing v with
  | nil => simp
  | cons y ys ih => rw [List.foldl_cons, ih, BitVec.getLsbD_or, getLsbD_source inside, Bool.or_assoc, List.contains_cons]

theorem getD_foldl_count (xs : List Nat) (c : Tbl Nat) (apart : xs.Nodup) (x : Nat) :
    Tbl.getD (xs.foldl (fun c x => Tbl.upd c x 0 (fun n => satAdd 32 n 1)) c) x 0 =
      if xs.contains x then satAdd 32 (Tbl.getD c x 0) 1 else Tbl.getD c x 0 := by
  induction xs generalizing c with
  | nil => rfl
  | cons y ys ih =>
    obtain ⟨first, rest⟩ := List.nodup_cons.mp apart
    rw [List.foldl_cons, ih _ rest]
    by_cases same : x = y
    · subst same
      simp [first]
    · simp [same]

theorem Fcl.foldl_mark (xs : List Nat) (f : Fcl) : xs.foldl (fun f x => { f with sticky := f.sticky ||| (1#1024 <<< x) }) f =
    { f with sticky := xs.foldl (fun v y => v ||| (1#1024 <<< y)) f.sticky } := by
  induction xs generalizing f with
  | nil => rfl
  | cons x xs ih => exact ih _

theorem Fcl.foldl_latch (xs : List Nat) (f : Fcl) : xs.foldl Fcl.latch f = { f with
    sticky := xs.foldl (fun v y => v ||| (1#1024 <<< y)) f.sticky, cnt := xs.foldl (fun c x => Tbl.upd c x 0 (fun n => satAdd 32 n 1)) f.cnt,
    pend := xs.foldl (fun p x => p ||| (1 <<< (x / 64))) f.pend } := by
  induction xs generalizing f with
  | nil => rfl
  | cons x xs ih => exact ih _

/-- The collector once a sample has met the pairs `now`, of which `news` are new (R445, R452). -/
def Fcl.latched (f : Fcl) (now news : List Nat) : Fcl := { f with
  prev := now, sticky := news.foldl (fun v y => v ||| (1#1024 <<< y)) (now.foldl (fun v y => v ||| (1#1024 <<< y)) f.sticky),
  cnt := news.foldl (fun c x => Tbl.upd c x 0 (fun n => satAdd 32 n 1)) f.cnt, pend := news.foldl (fun p x => p ||| (1 <<< (x / 64))) f.pend,
  latches := if news = [] then f.latches else satAdd 32 f.latches 1,
  lastSource := match news with
    | [] => f.lastSource
    | x :: _ => x }

theorem State.latched_claim (s : State) (now news : List Nat) : Claims.latched s { s with fcl := s.fcl.latched now news } now news := by
  refine ⟨rfl, rfl, rfl, rfl, rfl, rfl, fun x inside => ?_, fun apart x => getD_foldl_count news s.fcl.cnt apart x⟩
  exact (getLsbD_foldl_mark _ _ inside).trans (congrArg (· || _) (getLsbD_foldl_mark _ _ inside))

theorem State.sample_of_reacting {s : State} (reacts : s.fcl.reacting.isSome = true) : s.sample = s := if_pos reacts

theorem State.sample_of_idle {s : State} {now news : List Nat} (idle : s.fcl.reacting = none) (pairs : s.fcl.pairs = now)
    (new : sortNat (now.filter (fun x => !(s.fcl.prev.contains x))) = news) : s.sample =
      if news = [] then { s with fcl := s.fcl.latched now news } else State.react { s with fcl := s.fcl.latched now news } news := by
  rw [State.sample, if_neg (by simp [idle])]
  simp only [pairs, new, Fcl.foldl_mark, Fcl.foldl_latch]
  cases news <;> rfl

theorem exec_fclLatch (s : State) (ext : List (Fin 1024)) : exec (.fclLatch ext) s =
    if (!s.boot.good || !s.boot.released) = true then .next s else .next (ext.foldl (fun s x => s.raise x.val) s).sample := rfl

theorem State.raise_of_none {s : State} {x : Nat} (none_ : sourceClass x = none) : s.raise x = s := by rw [State.raise, none_]

theorem State.raise_of_class {s : State} {x c : Nat} (is : sourceClass x = some c) : s.raise x = { s with fcl := { s.fcl with
    asserted := (x, if c = 3 then none else some (s.ltu + 4)) :: s.fcl.asserted.filter (fun p => p.1 ≠ x || p.2 = none) } } := by
  rw [State.raise, is]
  by_cases device : c = 3 <;> simp [device]

/-! ## Broken pairs and the end of a reaction (R446, R450) -/

/-- The collector once a pair is broken: latched, its wire bit set, and met by no sample until reset. -/
def Fcl.broken (f : Fcl) (x : Nat) : Fcl := { f.latch x with wire := f.wire ||| (1#1024 <<< x), prev := f.prev.filter (· ≠ x) }

section
variable {s : State} {src : Fin 1024}

theorem exec_brokenPair_idle (idle : s.live = false ∨ s.fcl.reacting.isSome = true ∨ s.fcl.wire.getLsbD src.val = true ∨ sourceClass src.val = none) :
    exec (.brokenPair src) s = .next s := if_pos (by simpa [or_assoc] using idle)

theorem exec_brokenPair_of_class {c : Nat} (live : s.live = true) (idle : s.fcl.reacting = none) (whole : s.fcl.wire.getLsbD src.val = false)
    (is : sourceClass src.val = some c) : exec (.brokenPair src) s =
      if c = 0 then .next (State.devEvent { s with fcl := s.fcl.broken src.val } 0x43 src.val 0 0)
      else .next (State.react { s with fcl := s.fcl.broken src.val } [src.val]) := by
  rw [← classOf_of_some is]
  exact if_neg (by simp only [live, idle, whole, is]; exact Bool.false_ne_true)

theorem Fcl.broken_reads (f : Fcl) (y : Nat) {x : Nat} (inside : x < 1024) : (f.broken y).sticky.getLsbD x = (f.sticky.getLsbD x || x == y) ∧
    (f.broken y).wire.getLsbD x = (f.wire.getLsbD x || x == y) ∧
    Tbl.getD (f.broken y).cnt x 0 = if x = y then satAdd 32 (Tbl.getD f.cnt x 0) 1 else Tbl.getD f.cnt x 0 := by
  refine ⟨?_, ?_, ?_⟩
  · rw [← getLsbD_source inside]; exact BitVec.getLsbD_or
  · rw [← getLsbD_source inside]; exact BitVec.getLsbD_or
  · show Tbl.getD (Tbl.upd f.cnt y 0 (fun n => satAdd 32 n 1)) x 0 = _
    by_cases same : x = y <;> simp [same]

theorem exec_reactionEnd_of_reacting (live : s.live = true) (reacts : s.fcl.reacting.isSome = true) : exec .reactionEnd s =
    .next (State.sample { s with fcl := { s.fcl with
      reacting := none, asserted := s.fcl.asserted.filter (fun p => match p.2 with | none => true | some t => decide (s.ltu < t)) } }) :=
  (if_neg (by simp [live, Option.isNone_iff_eq_none, ← Option.isSome_iff_ne_none, reacts])).trans rfl

theorem exec_reactionEnd_idle (idle : s.live = false ∨ s.fcl.reacting = none) : exec .reactionEnd s = .next s := if_pos (by simpa using idle)

/-! ## BEAT (R457, R458) -/

theorem exec_fclKick_of_live (live : s.live = true) (key : BitVec 8) : exec (.fclKick key) s =
    if key ≠ 0xA5#8 then .next { s with fcl := { s.fcl with badKick := satAdd 8 s.fcl.badKick 1 } }
    else .next { s with fcl := { s.fcl with
      lastKick := some s.ltu, running := s.fcl.running || s.fcl.lastKick.isNone, lastBeat := if s.fcl.lastKick.isNone then s.ltu else s.fcl.lastBeat } } :=
  if_neg (by simp [live])

theorem exec_kickLapse_of_kicked {t : Nat} (kicked : s.fcl.lastKick = some t) : exec .kickLapse s =
    if (!s.live || decide (s.ltu ≤ t + 1000000)) = true then .next s else .next (s.raise 0x115).sample := by
  simp only [exec, execKickLapse, kicked]

theorem exec_kickLapse_of_unkicked (unkicked : s.fcl.lastKick = none) : exec .kickLapse s = .next s := by
  simp only [exec, execKickLapse, unkicked]

theorem exec_kickLapse_of_late {t : Nat} (live : s.live = true) (kicked : s.fcl.lastKick = some t) (late : t + 1000000 < s.ltu) :
    exec .kickLapse s = .next (s.raise 0x115).sample :=
  (exec_kickLapse_of_kicked kicked).trans (if_neg (by simp [live, late]))

theorem exec_beatToggle_of_kicked {t : Nat} (kicked : s.fcl.lastKick = some t) : exec .beatToggle s =
    if (!s.live || !s.fcl.running || decide (s.ltu < s.fcl.lastBeat + 5000)) = true then .next s
    else if t + 1000000 < s.ltu then .next { s with fcl := { s.fcl with running := false } }
    else .next { s with fcl := { s.fcl with level := !s.fcl.level, lastBeat := s.ltu } } := by
  simp only [exec, execBeatToggle, kicked]

theorem exec_beatToggle_of_unkicked (unkicked : s.fcl.lastKick = none) : exec .beatToggle s = .next s := by
  simp only [exec, execBeatToggle, unkicked]

/-- A DEVICE source that no sample has met yet halts the device at the next one (R450, R456). -/
theorem State.sample_raise_device {x : Nat} (device : sourceClass x = some 3) (inside : x < 1024) (idle : s.fcl.reacting = none) (new : x ∉ s.fcl.prev)
    (whole : s.fcl.wire.getLsbD x = false) (driven : x ∉ s.fcl.wireInj) :
    (s.raise x).sample.fcl.halted = true ∧ (s.raise x).sample.devState = .halted ∧ (s.raise x).sample.fcl.running = false ∧
      (s.raise x).sample.fcl.sticky.getLsbD x = true := by
  obtain ⟨u, is⟩ : ∃ u, u = s.raise x := ⟨_, rfl⟩
  have raised := is.trans (State.raise_of_class device)
  have pairs : x ∈ u.fcl.pairs := by subst raised; simp [Fcl.pairs, whole, driven]
  have resting : u.fcl.reacting = none := by subst raised; exact idle
  have unmet : x ∉ u.fcl.prev := by subst raised; exact new
  obtain ⟨news, sorted⟩ : ∃ news, sortNat (u.fcl.pairs.filter (fun x => !(u.fcl.prev.contains x))) = news := ⟨_, rfl⟩
  have mem : x ∈ news := by
    rw [← sorted, sortNat, mem_sortBy]
    simp [pairs, unmet]
  have halts : u.sample = State.halt { u with fcl := { u.fcl.latched u.fcl.pairs news with reacting := some 3 } } := by
    rw [State.sample_of_idle resting rfl sorted, if_neg (List.ne_nil_of_mem mem), State.react_of_device _ (topClass_of_device mem device)]
  obtain ⟨_, frame, _⟩ := State.halt_halts { u with fcl := { u.fcl.latched u.fcl.pairs news with reacting := some 3 } }
  obtain ⟨_, _, _, _, _, _, sticky, _⟩ := u.latched_claim u.fcl.pairs news
  rw [← is, halts, frame]
  refine ⟨rfl, rfl, rfl, ?_⟩
  exact (sticky x inside).trans (by simp [mem])

end

/-! ## Injection and the collector's registers (R452, R460, R474) -/

section
variable {s : State} {src : Fin 1024} {width : BitVec 16}

theorem exec_fclInject_denied (live : s.live = true) (locked : s.sec.otp.lc ≠ 2) {c : Instr}
    (mem : c ∈ [Instr.fclInjectNow src width, .fclInjectSync src width, .fclInjectWire src]) :
    exec c s = .next { s with fcl := { s.fcl with injectReject := true } } := by
  have on : ¬ (!s.live) = true := by simp [live]
  have denied : (!s.inFactory) = true := by simp [State.inFactory, locked]
  simp only [List.mem_cons, List.not_mem_nil, or_false] at mem
  rcases mem with rfl | rfl | rfl <;> exact (if_neg on).trans (if_pos denied)

theorem State.injectPair_of_class {x w : Nat} (some_ : (sourceClass x).isSome = true) : s.injectPair x w = { s with fcl := { s.fcl with
    asserted := (x, some (s.ltu + cdiv (Nat.max 8 w) 2)) :: s.fcl.asserted.filter (fun p => p.1 ≠ x || p.2.isNone) } } :=
  if_neg (by simpa [Option.isNone_iff_eq_none, ← Option.isSome_iff_ne_none] using some_)

theorem State.injectPair_of_none {x w : Nat} (none_ : sourceClass x = none) : s.injectPair x w = s := if_pos (by simp [none_])

theorem exec_fclInjectNow_of_factory (live : s.live = true) (factory : s.sec.otp.lc = 2) :
    exec (.fclInjectNow src width) s = .next (s.injectPair src.val width.toNat) :=
  (if_neg (by simp [live])).trans (if_neg (by simp [State.inFactory, factory]))

theorem exec_fclInjectSync_of_factory (live : s.live = true) (factory : s.sec.otp.lc = 2) :
    exec (.fclInjectSync src width) s = .next { s with fcl := { s.fcl with injectSync := some (src.val, width.toNat) } } :=
  (if_neg (by simp [live])).trans (if_neg (by simp [State.inFactory, factory]))

theorem exec_fclInjectWire_of_factory (live : s.live = true) (factory : s.sec.otp.lc = 2) : exec (.fclInjectWire src) s =
    .next { s with fcl := { s.fcl with wireInj := src.val :: s.fcl.wireInj.filter (· ≠ src.val) } } :=
  (if_neg (by simp [live])).trans (if_neg (by simp [State.inFactory, factory]))

theorem exec_fclStickyClear_of_live (live : s.live = true) (w : Fin 16) (mask : BitVec 64) : exec (.fclStickyClear w mask) s =
    .next { s with fcl := { s.fcl with sticky := s.fcl.sticky &&& ~~~((mask.setWidth 1024) <<< (64 * w.val)) } } := if_neg (by simp [live])

/-- The bit of source `x` in a mask of word `w`. -/
theorem getLsbD_word {x : Nat} (inside : x < 1024) (w : Nat) (mask : BitVec 64) :
    ((mask.setWidth 1024) <<< (64 * w)).getLsbD x = (decide (x / 64 = w) && mask.getLsbD (x % 64)) := by
  rw [BitVec.getLsbD_shiftLeft, BitVec.getLsbD_setWidth]
  by_cases before : x < 64 * w
  · have other : x / 64 ≠ w := by omega
    simp [before, other]
  · by_cases here : x / 64 = w
    · have at_ : x - 64 * w = x % 64 := by omega
      have low : x % 64 < 1024 := by omega
      simp [before, here, at_, inside, low]
    · have beyond : 64 ≤ x - 64 * w := by omega
      simp [here, BitVec.getLsbD_of_ge mask _ beyond]

theorem exec_fcl_off {w : Fin 16} {mask : BitVec 64} {c : Instr} (off : s.live = false)
    (mem : c ∈ [.fclInjectNow src width, .fclInjectSync src width, .fclInjectWire src, .fclStickyClear w mask, .fclCntClr]) : exec c s = .next s := by
  have silent : (!s.live) = true := by simp [off]
  simp only [List.mem_cons, List.not_mem_nil, or_false] at mem
  rcases mem with rfl | rfl | rfl | rfl | rfl <;> exact if_pos silent

end

/-- Settles O52: samples by the pairs they meet, reactions by the highest class, BEAT by its kicks, as above. REACTION_END and KICK_LAPSE take their
sample at once, a broken pair of a counting source is counted, and a clock fault is held (log 55). -/
theorem faultSamples : Obligations.FaultSamples := by
  unfold Obligations.FaultSamples
  refine ⟨?latch, fun s x => ⟨State.raise_of_none, fun c => State.raise_of_class⟩, fun s => State.sample_of_reacting, ?sample, ?react, State.halt_halts, ?device,
    ?broken, fun s src => exec_brokenPair_idle, fun s => ⟨exec_reactionEnd_of_reacting, exec_reactionEnd_idle⟩, ?kick, ?lapse, ?halts, ?beat,
    ⟨rfl, ?still⟩, ?inject, ?sticky, fun s live => if_neg (by simp [live]), fun s src width w mask c => exec_fcl_off⟩
  case latch =>
    intro s ext
    rw [exec_fclLatch]
    exact ⟨fun good released => if_neg (by simp [good, released]), fun off => if_pos (by simpa using off)⟩
  case sample =>
    exact fun s now news idle pairs new => ⟨_, s.latched_claim now news, State.sample_of_idle idle pairs new⟩
  case react =>
    rintro s news top rfl
    exact ⟨s.react_of_device, fun lower u => s.react_of_lower rfl lower⟩
  case device =>
    intro s news x mem device
    rw [s.react_of_device (topClass_of_device mem device)]
    exact State.halt_halts _
  case broken =>
    intro s src c live idle whole is
    refine ⟨{ s with fcl := s.fcl.broken src.val }, rfl, rfl, fun x => s.fcl.broken_reads src.val, fun reacts => ?_, fun counts => ?_⟩
    · rw [exec_brokenPair_of_class live idle whole is, if_neg reacts]
    · rw [exec_brokenPair_of_class live idle whole is, if_pos counts]
  case kick =>
    refine fun s key => ⟨fun off => if_pos (by simp [off]), fun live => ?_⟩
    rw [exec_fclKick_of_live live]
    refine ⟨fun bad => if_pos bad, fun kick first => ?_, fun kick again => ?_⟩
    · rw [if_neg (not_not.mpr kick)]; simp [first]
    · rw [if_neg (not_not.mpr kick)]; simp [Option.isNone_eq_false_iff.mpr again]
  case lapse =>
    refine fun s => ⟨fun t => exec_kickLapse_of_late, fun idle => ?_⟩
    cases kicked : s.fcl.lastKick with
    | none => exact exec_kickLapse_of_unkicked kicked
    | some t =>
      rw [exec_kickLapse_of_kicked kicked]
      exact if_pos (by simpa [kicked] using idle)
  case halts =>
    intro s t live kicked late idle new whole driven
    exact ⟨_, exec_kickLapse_of_late live kicked late, State.sample_raise_device (by decide) (by decide) idle new whole driven⟩
  case beat =>
    intro s t live kicked runs due
    rw [exec_beatToggle_of_kicked kicked, if_neg (by simp [live, runs, due])]
    exact ⟨fun early => if_neg (by omega), fun late => if_pos late⟩
  case still =>
    intro s idle
    cases kicked : s.fcl.lastKick with
    | none => exact exec_beatToggle_of_unkicked kicked
    | some t =>
      rw [exec_beatToggle_of_kicked kicked]
      exact if_pos (by simpa [kicked, or_assoc] using idle)
  case inject =>
    refine fun s src width live => ⟨fun locked c => exec_fclInject_denied live locked, fun factory some_ => ?_, fun factory none_ => ?_,
      exec_fclInjectSync_of_factory live, exec_fclInjectWire_of_factory live⟩
    · rw [exec_fclInjectNow_of_factory live factory, State.injectPair_of_class some_]
    · rw [exec_fclInjectNow_of_factory live factory, State.injectPair_of_none none_]
  case sticky =>
    refine fun s w mask live => ⟨_, exec_fclStickyClear_of_live live w mask, rfl, fun x inside => ?_⟩
    show (s.fcl.sticky &&& ~~~((mask.setWidth 1024) <<< (64 * w.val))).getLsbD x = _
    rw [BitVec.getLsbD_and, BitVec.getLsbD_not, getLsbD_word inside]
    simp [inside]

end Sys2Proof.Machine
end

section
/-!
Fences, their ends and qualification (R453 to R455, R464, R472 to R474): what each kind of unit becomes, the comparisons a fence falls on, one
equation for each command's case, and from them `FenceCommands`.
-/
namespace Sys2Proof.Machine

/-! ## What a fence of each unit does (R453, R454) -/

theorem fenceIdxOk_iff (kind idx : Nat) : fenceIdxOk kind idx = true ↔ (kind = 1 ∧ idx < 48) ∨ (kind = 2 ∧ (idx < 4 ∨ idx = 5 ∨ idx = 6)) ∨
    (kind = 3 ∧ idx < 36) ∨ (kind = 4 ∧ idx < 128) ∨ (kind = 5 ∧ idx < 8) := by
  rcases kind with _ | _ | _ | _ | _ | _ | kind <;> simp [fenceIdxOk] <;> omega

/-- The hardware's part of a fence, by the kind of unit. -/
def State.fenceHw (s : State) (kind idx : Nat) : State :=
  match kind with
  | 1 => s.fenceTileHw idx
  | 2 => s.fenceDieHw idx
  | 3 => s.fenceLinkHw idx
  | 4 => s.fenceBauHw idx
  | 5 => s.fenceOnfiHw idx
  | _ => s

section
variable {s : State} {kind idx t : Nat}

theorem State.fenceUnit_of_fenced (fenced : s.isFenced kind idx = true) : s.fenceUnit kind idx = s := if_pos fenced

theorem State.fenceUnit_of_unfenced (unfenced : s.isFenced kind idx = false) :
    s.fenceUnit kind idx = (s.fenceHw kind idx).devEvent 0x41 kind idx (b2n (!s.stranded && (s.fenceHw kind idx).stranded)) :=
  if_neg (by simp [unfenced])

theorem State.fence_of_fenced (fenced : s.isFenced kind idx = true) : s.fence kind idx = s := if_pos fenced

theorem State.fence_of_unfenced (unfenced : s.isFenced kind idx = false) :
    s.fence kind idx = (s.comparing (fenceTiles kind idx)).foldl State.qualLost (s.fenceUnit kind idx) := if_neg (by simp [unfenced])

theorem State.fenceTileHw_of_fenced (fenced : (s.tile t).fenced = true) : s.fenceTileHw t = s := if_pos fenced

theorem State.fenceTileHw_of_unfenced {w : State} (unfenced : (s.tile t).fenced = false)
    (failed : w = (s.updTile t (fun x => { x with fenced := true, qual := none, against := none })).failCmd t Stat.tileFenced) :
    s.fenceTileHw t = if (decide (t < 32) && !(w.tile t).lent) = true then
        (match (generalizing := false) w.lastLent with
        | some k => w.updTile k (fun x => { x with lent := false })
        | none => w)
      else w := by
  subst failed
  exact if_neg (by simp [unfenced])

/-- A link fenced is a link cut (R272, R453). -/
theorem State.fenceLinkHw_reads (s : State) (lk : Nat) : s.fenceLinkHw lk = { s with fab := (s.fenceLinkHw lk).fab } ∧
    (s.fenceLinkHw lk).link lk = { (s.link lk).discard with state := .failed, fenced := true } ∧ ∀ j, j ≠ lk → (s.fenceLinkHw lk).link j = s.link j := by
  have cut : s.fenceLinkHw lk = s.cutLinks (fun l => { l with state := .failed, fenced := true }) [lk] := rfl
  rw [cut]
  exact ⟨State.cutLinks_frame .., State.cutLinks_link_of_mem _ _ (List.nodup_singleton lk) (List.mem_singleton_self lk),
    fun j other => State.cutLinks_link_of_out _ _ (List.mem_singleton.not.mpr other)⟩

theorem State.fenceBauHw_of_idle (idle : (s.chan idx).prog = none ∨ ∃ p, (s.chan idx).prog = some p ∧ p.stopping = true) :
    s.fenceBauHw idx = s.updChan idx (fun k => { k with fenced := true }) := by
  rw [State.fenceBauHw]
  rcases idle with none_ | ⟨p, some_, stopping⟩
  · simp only [State.updChan_chan_self, none_]
  · simp only [State.updChan_chan_self, some_, stopping, if_true]

theorem State.fenceBauHw_of_running {p : BauProg} (some_ : (s.chan idx).prog = some p) (runs : p.stopping = false) :
    s.fenceBauHw idx = ((s.updChan idx (fun k => { k with fenced := true })).stopProg idx).failCmd p.tile Stat.bauFenced := by
  rw [State.fenceBauHw]
  simp only [State.updChan_chan_self, some_, runs, Bool.false_eq_true, if_false]

/-- The collector's and the die's mark of a die fenced whole. -/
def State.markDie (s : State) (d : Nat) : State :=
  State.updDie { s with fcl := { s.fcl with dieFence := Tbl.put s.fcl.dieFence d true } } d (fun d => { d with fenced := true })

theorem State.fenceDieHw_of_compute (low : idx < 4) :
    s.fenceDieHw idx = (List.range 12).foldl (fun s i => s.fenceTileHw (tileOfLocal idx i)) (s.markDie idx) := if_pos low

/-- The links of a link die. -/
def linksOfDie (d : Nat) : List Nat := (List.range 18).map (fun i => 18 * (d - 5) + i)

theorem linksOfDie_nodup (d : Nat) : (linksOfDie d).Nodup := List.nodup_range.map (add_right_injective _)

theorem mem_linksOfDie {d j : Nat} : j ∈ linksOfDie d ↔ 18 * (d - 5) ≤ j ∧ j < 18 * (d - 5) + 18 := by
  simp only [linksOfDie, List.mem_map, List.mem_range]
  exact ⟨fun ⟨i, low, at_⟩ => by omega, fun within => ⟨j - 18 * (d - 5), by omega, by omega⟩⟩

theorem State.fenceDieHw_of_link (high : 4 < idx) : s.fenceDieHw idx =
    (List.range 18).foldl (fun s i => s.fenceLinkHw (18 * (idx - 5) + i)) (s.markDie idx) := if_neg (by omega)

theorem State.foldl_fenceLinkHw (s : State) (d : Nat) : (List.range 18).foldl (fun s i => s.fenceLinkHw (18 * (d - 5) + i)) s =
    s.cutLinks (fun l => { l with state := .failed, fenced := true }) (linksOfDie d) := by
  rw [State.cutLinks, linksOfDie, List.foldl_map]
  rfl

theorem State.fenceHw_claim (s : State) (kind idx : Nat) : Claims.fencedUnit s (s.fenceHw kind idx) kind idx := by
  refine ⟨?tile, ?die, ?link, ?bau, ?onfi⟩
  case tile => rintro rfl; rfl
  case die =>
    rintro rfl y rfl
    refine ⟨State.fenceDieHw_of_compute, fun high => ⟨State.fenceDieHw_of_link high, ?_⟩⟩
    have cut : s.fenceHw 2 idx = (s.markDie idx).cutLinks (fun l => { l with state := .failed, fenced := true }) (linksOfDie idx) :=
      (State.fenceDieHw_of_link high).trans (State.foldl_fenceLinkHw ..)
    rw [cut]
    exact ⟨State.cutLinks_frame .., fun i low => State.cutLinks_link_of_mem _ _ (linksOfDie_nodup idx) (mem_linksOfDie.mpr (by omega)),
      fun j out => State.cutLinks_link_of_out _ _ (fun mem => by have := mem_linksOfDie.mp mem; omega)⟩
  case link => rintro rfl; exact ⟨rfl, s.fenceLinkHw_reads idx⟩
  case bau => rintro rfl; exact ⟨State.fenceBauHw_of_idle, fun p => State.fenceBauHw_of_running⟩
  case onfi => rintro rfl; rfl

/-! ## Comparisons that a fence falls on (R464) -/

theorem State.mem_comparing (s : State) (ts : List Nat) (c n : Nat) : (c, n) ∈ s.comparing ts ↔ c < 48 ∧ ∃ ref runs k w,
    (s.tile c).qual = some (ref, runs, k) ∧ (s.tile c).against = some w ∧ (s.tile c).fenced = false ∧ (c ∈ ts ∨ w ∈ ts) ∧ n = k + 1 := by
  simp only [State.comparing, List.mem_filterMap, List.mem_range]
  constructor
  · rintro ⟨d, low, is⟩
    split at is
    · next ref runs k w qual against =>
      split at is
      · next falls =>
        simp only [Option.some.injEq, Prod.mk.injEq] at is
        obtain ⟨rfl, rfl⟩ := is
        simp only [Bool.and_eq_true, Bool.not_eq_true', Bool.or_eq_true, List.contains_iff_mem] at falls
        exact ⟨low, ref, runs, k, w, qual, against, falls.1, falls.2, rfl⟩
      · cases is
    · cases is
  · rintro ⟨low, ref, runs, k, w, qual, against, free, falls, rfl⟩
    refine ⟨c, low, ?_⟩
    simp only [qual, against, free]
    exact if_pos (by simpa using falls)

/-! ## The end of a fence (R453, R464) -/

/-- The hardware's part of an unfence, by the kind of unit. -/
def State.unfenceHw (s : State) (kind idx ref runs : Nat) : State :=
  match kind with
  | 1 => s.unfenceTile idx ref runs
  | 2 =>
    let s := { s with fcl := { s.fcl with dieFence := Tbl.del s.fcl.dieFence idx } }
    let s := s.updDie idx (fun d => { d with fenced := false, clockLost := false })
    if idx < 4 then (List.range 12).foldl (fun s i => s.unfenceTile (tileOfLocal idx i) ref runs) s
    else (List.range 18).foldl (fun s i => s.updLink (18 * (idx - 5) + i) (fun l => { l with fenced := false })) s
  | 3 => s.updLink idx (fun l => { l with fenced := false })
  | 4 => s.updChan idx (fun k => { k with fenced := false })
  | _ => s

theorem State.unfence_of_unfenced {ref runs : Nat} (unfenced : s.isFenced kind idx = false) : s.unfence kind idx ref runs = s :=
  if_pos (by simp [unfenced])

theorem State.unfence_of_fenced {ref runs : Nat} (fenced : s.isFenced kind idx = true) :
    s.unfence kind idx ref runs = (s.unfenceHw kind idx ref runs).devEvent 0x42 kind idx 0 := if_neg (by simp [fenced])

theorem State.unfenceTile_of_kept {ref runs : Nat} (kept : (s.tile t).fenced = false ∨ (s.tpwr t).alarm = true) : s.unfenceTile t ref runs = s :=
  if_pos (by simpa using kept)

theorem State.unfenceTile_of_freed {ref runs : Nat} (fenced : (s.tile t).fenced = true) (quiet : (s.tpwr t).alarm = false) :
    s.unfenceTile t ref runs = s.updTile t (fun x => { x with fenced := false, qual := some (ref, runs, 0) }) := if_neg (by simp [fenced, quiet])

theorem State.unfenceHw_claim {ref runs : Nat} (allowed : s.unfenceOk kind idx = true) (fenced : s.isFenced kind idx = true) :
    Claims.unfencedUnit s (s.unfenceHw kind idx ref runs) kind idx ref runs := by
  refine ⟨?tile, ?die, ?link, ?bau⟩
  case tile =>
    rintro rfl
    exact State.unfenceTile_of_freed fenced (by simpa [State.unfenceOk] using allowed)
  case die =>
    rintro rfl y rfl
    refine ⟨fun low => if_pos low, fun high => ?_⟩
    generalize unmarked : (State.updDie _ idx _ : State) = u
    obtain ⟨t, run, frame, links⟩ := u.foldl_updLink_range (18 * (idx - 5)) 18 (fun l => { l with fenced := false })
    have is : s.unfenceHw 2 idx ref runs = t := by rw [← run, ← unmarked]; exact if_neg (by omega)
    have same : ∀ j, u.link j = s.link j := fun j => by rw [← unmarked]; rfl
    rw [is]
    refine ⟨by rw [frame], fun i low => ?_, fun j out => ?_⟩
    · rw [links, if_pos (by omega), same]
    · rw [links, if_neg (by omega), same]
  case link => rintro rfl; rfl
  case bau => rintro rfl; rfl

theorem State.unfenceOk_die_iff : s.unfenceOk 2 idx = true ↔ ∀ p ∈ s.fcl.asserted,
    if idx < 4 then p.1 ≠ 0x40 * idx + 0x19 ∧ p.1 ≠ 0x40 * idx + 0x1A else p.1 ≠ 0x180 + 0x60 * (idx - 5) + 0x18 := by
  by_cases low : idx < 4 <;> simp [State.unfenceOk, low, forall_and]

/-! ## The collector's commands (R474) -/

theorem exec_fclFence_of_live {k : BitVec 3} {i : BitVec 8} (live : s.live = true) : exec (.fclFence k i) s =
    if (!(fenceIdxOk k.toNat i.toNat)) = true then .next s.fenceReject else .next (s.fence k.toNat i.toNat).fenceDone := if_neg (by simp [live])

theorem exec_fclUnfence_of_live {k : BitVec 3} {i : BitVec 8} (live : s.live = true) : exec (.fclUnfence k i) s =
    if (!(fenceIdxOk k.toNat i.toNat) || !(s.unfenceOk k.toNat i.toNat)) = true then .next s.fenceReject
    else .next (s.unfence k.toNat i.toNat 1 16).fenceDone := if_neg (by simp [live])

end

/-! ## RMP_UNIT_FENCE (R464, R473) -/

section
variable {s : State} {mb : MbId} {m : Nat}

theorem State.heldFence_of_op {op : Nat} (held : s.held mb 0x0803 = some m) (is : fld m 0x20 1 = op) : s.heldFence mb op = some m := by
  rw [State.heldFence, held]
  exact if_pos is

theorem State.heldFence_of_other {op : Nat} (other : ∀ m, s.held mb 0x0803 = some m → fld m 0x20 1 ≠ op) : s.heldFence mb op = none := by
  rw [State.heldFence]
  cases held : s.held mb 0x0803 with
  | none => rfl
  | some m => exact if_neg (other m held)

theorem exec_unitFence_of_other {op : Nat} {c : Instr} (other : ∀ m, s.held mb 0x0803 = some m → fld m 0x20 1 ≠ op)
    (mem : (op, c) ∈ [(1, Instr.rmpUnitFenceFence mb), (2, .rmpUnitFenceUnfence mb), (3, .rmpUnitFenceQualify mb)]) : exec c s = .next s := by
  have none_ := State.heldFence_of_other other
  simp only [List.mem_cons, List.not_mem_nil, or_false, Prod.mk.injEq] at mem
  rcases mem with ⟨rfl, rfl⟩ | ⟨rfl, rfl⟩ | ⟨rfl, rfl⟩
  · simp only [exec, execRmpUnitFenceFence, none_]
  · simp only [exec, execRmpUnitFenceUnfence, none_]
  · simp only [exec, execRmpUnitFenceQualify, none_]

theorem exec_rmpUnitFenceFence_of_held (held : s.held mb 0x0803 = some m) (op : fld m 0x20 1 = 1) : exec (.rmpUnitFenceFence mb) s =
    .next ((s.fence (fld m 0x21 1) (fld m 0x24 4)).fenceDone.answer mb Stat.ok) := by
  simp only [exec, execRmpUnitFenceFence, State.heldFence_of_op held op]

theorem exec_rmpUnitFenceUnfence_of_held (held : s.held mb 0x0803 = some m) (op : fld m 0x20 1 = 2) : exec (.rmpUnitFenceUnfence mb) s =
    if (!(s.isFenced (fld m 0x21 1) (fld m 0x24 4))) = true then .next (s.answer mb Stat.notFenced)
    else if (!(s.unfenceOk (fld m 0x21 1) (fld m 0x24 4))) = true then .next (s.fenceReject.answer mb Stat.wrongState)
    else if fld m 0x21 1 = 1 then .next ((s.unfence 1 (fld m 0x24 4) (fld m 0x22 1) (fld m 0x23 1)).fenceDone.answer mb Stat.ok)
    else .next ((s.unfence (fld m 0x21 1) (fld m 0x24 4) 1 16).fenceDone.answer mb Stat.ok) := by
  simp only [exec, execRmpUnitFenceUnfence, State.heldFence_of_op held op]

/-- Every tile of QUALIFY's mask put to its qualification, with the reply left to wait. -/
def State.qualifyAll (s : State) (mb : MbId) (m : Nat) : State :=
  ((List.range 48).foldl (fun (s : State) t => if bit (fld m 0x28 8) t then s.qualify t (fld m 0x22 1) (fld m 0x23 1) else s) s).updMb mb
    (fun x => { x with waits := true })

theorem exec_rmpUnitFenceQualify_of_held {u : State} (held : s.held mb 0x0803 = some m) (op : fld m 0x20 1 = 3) (all : u = s.qualifyAll mb m) :
    exec (.rmpUnitFenceQualify mb) s = if s.fcl.qualRun.isSome = true then .next (s.answer mb Stat.busy)
      else .next (State.qualSettle { u with fcl := { u.fcl with qualRun := some (mbNum mb, fld m 0x28 8, 0, 0) } }) := by
  subst all
  simp only [exec, execRmpUnitFenceQualify, State.heldFence_of_op held op, State.qualifyAll]

theorem State.qualSettle_of_none (none_ : s.fcl.qualRun = none) : s.qualSettle = s := by simp only [State.qualSettle, none_]

/-- A qualification under way, by the tiles of its mask that have passed, failed and are left. -/
theorem State.qualSettle_of_some {n left ok bad ok' bad' left' : Nat} (run : s.fcl.qualRun = some (n, left, ok, bad))
    (passed : ok' = ok + maskOf left (fun t => !(s.tile t).fenced && (s.tile t).qual.isNone)) (failed : bad' = bad + maskOf left (fun t => (s.tile t).fenced))
    (stays : left' = maskOf left (fun t => !(s.tile t).fenced && (s.tile t).qual.isSome)) : s.qualSettle =
      if left' ≠ 0 then { s with fcl := { s.fcl with qualRun := some (n, left', ok', bad') } }
      else if ((s.mbox (mbOf n)).busy && (s.mbox (mbOf n)).waits && msgOp (s.mbox (mbOf n)).msg = 0x0803) = true then
        State.reply { s with fcl := { s.fcl with qualRun := none } } (mbOf n) (if bad' = 0 then Stat.ok else Stat.qualFailed) 0 (toBytes 8 ok' ++ toBytes 8 bad')
      else { s with fcl := { s.fcl with qualRun := none } } := by
  subst passed failed stays
  simp only [State.qualSettle, run]
  rfl

end

section
variable {s : State} {tile : Fin 48} {d ref runs k : Nat}

theorem exec_qualificationCompare_of_live (live : s.live = true) : exec (.qualificationCompare tile d) s = .next (s.qualCompare tile.val d).qualSettle :=
  if_neg (by simp [live])

theorem State.qualCompare_of_some {t : Nat} (qual : (s.tile t).qual = some (ref, runs, k)) : s.qualCompare t d =
    if d ≠ 0 then ((s.qualEnd t).devEvent 0x47 t (k + 1) d).fence 1 t
    else if runs ≤ k + 1 then (s.qualEnd t).devEvent 0x46 t runs 0
    else s.updTile t (fun x => { x with qual := some (ref, runs, k + 1), against := none }) := by
  simp only [State.qualCompare, qual]

theorem State.qualCompare_of_none {t : Nat} (none_ : (s.tile t).qual = none) : s.qualCompare t d = s := by simp only [State.qualCompare, none_]

end

/-- Settles O53: fences and their ends by the unit, comparisons by the runs left, RMP_UNIT_FENCE by its OP, as above. A comparison a fence falls on fails
without having been made, an unfence that R453 refuses answers WRONG_STATE, and one QUALIFY runs at a time (log 41). -/
theorem fenceCommands : Obligations.FenceCommands := by
  unfold Obligations.FenceCommands
  refine ⟨?commands, fun s => rfl, fenceIdxOk_iff, fun s kind idx fenced => ⟨State.fence_of_fenced fenced, State.fenceUnit_of_fenced fenced⟩,
    fun s kind idx => State.fence_of_unfenced, fun s kind idx _ unfenced => ⟨_, s.fenceHw_claim kind idx, State.fenceUnit_of_unfenced unfenced⟩,
    State.mem_comparing, fun s c n => rfl, fun s t => State.fenceTileHw_of_fenced, ?tile, fun s kind idx ref runs => State.unfence_of_unfenced,
    fun s kind idx ref runs _ allowed fenced => ⟨_, State.unfenceHw_claim allowed fenced, State.unfence_of_fenced fenced⟩,
    fun s t ref runs => ⟨State.unfenceTile_of_kept, State.unfenceTile_of_freed⟩, fun s idx => ⟨rfl, rfl, rfl, rfl, State.unfenceOk_die_iff⟩,
    fun s mb m => exec_rmpUnitFenceFence_of_held, ?unfence, ?qualify, ?one, fun s => State.qualSettle_of_none, ?settle, ?compare, ?idle,
    fun s mb op c => exec_unitFence_of_other⟩
  case commands =>
    refine fun s kind idx => ⟨fun off => ⟨if_pos (by simp [off]), if_pos (by simp [off])⟩, fun live bad => ?_, fun live good => ?_, fun live bad => ?_,
      fun live good allowed => ?_⟩
    · exact (exec_fclFence_of_live live).trans (if_pos (by simp [bad]))
    · exact (exec_fclFence_of_live live).trans (if_neg (by simp [good]))
    · exact (exec_fclUnfence_of_live live).trans (if_pos (by simpa using bad))
    · exact (exec_fclUnfence_of_live live).trans (if_neg (by simp [good, allowed]))
  case tile =>
    intro s w t unfenced failed
    rw [State.fenceTileHw_of_unfenced unfenced failed]
    refine ⟨fun kept => ?_, fun k low own last => ?_⟩
    · rcases kept with high | lent | none_
      · exact if_neg (by simp [high])
      · exact if_neg (by simp [lent])
      · simp only [none_, ite_self]
    · rw [if_pos (by simp [low, own])]
      simp only [last]
  case unfence =>
    rintro s mb m kind idx held op rfl rfl
    rw [exec_rmpUnitFenceUnfence_of_held held op]
    refine ⟨fun unfenced => if_pos (by simp [unfenced]), fun fenced refused => ?_, fun fenced allowed => ?_⟩
    · rw [if_neg (by simp [fenced]), if_pos (by simp [refused])]
      rfl
    · rw [if_neg (by simp [fenced]), if_neg (by simp [allowed])]
      by_cases tile : fld m 0x21 1 = 1
      · simp only [tile]; rfl
      · simp only [if_neg tile]; rfl
  case qualify =>
    refine fun s mb m held op => ⟨fun busy => ?_, fun idle u all => ?_⟩
    · exact (exec_rmpUnitFenceQualify_of_held held op rfl).trans (if_pos busy)
    · exact (exec_rmpUnitFenceQualify_of_held held op all).trans (if_neg (by simp [idle]))
  case one =>
    exact fun s t ref runs => ⟨fun allowed => if_pos allowed, fun refused => if_neg (by simp [refused])⟩
  case settle =>
    intro s n left ok bad ok' bad' left' run passed failed stays
    rw [State.qualSettle_of_some run passed failed stays]
    refine ⟨fun more => if_pos more, ?_⟩
    rintro settled x rfl
    rw [if_neg (not_not.mpr settled)]
    exact ⟨fun busy waits op => if_pos (by simp [busy, waits, op]), fun away => if_neg (by
      rcases away with h | h | h <;> simp [h])⟩
  case compare =>
    intro s tile d ref runs k live qual
    rw [exec_qualificationCompare_of_live live, State.qualCompare_of_some qual]
    refine ⟨fun agrees more => ?_, fun agrees last => ?_, fun differs => ?_⟩
    · rw [if_neg (not_not.mpr agrees), if_neg (by omega)]
    · rw [if_neg (not_not.mpr agrees), if_pos last]
      rfl
    · rw [if_pos differs]
      rfl
  case idle =>
    refine fun s tile d => ⟨fun off => if_pos (by simp [off]), fun live none_ => ?_⟩
    rw [exec_qualificationCompare_of_live live, State.qualCompare_of_none none_]

end Sys2Proof.Machine
end

section
/-!
Fault records by mailbox, checkpoints, restores and loads from a partner (R452, R460, R465, R468, R469, R473): one equation for each row's message, for
a record of an image and for a slot pulled, and from them `RecoveryCommands`.
-/
namespace Sys2Proof.Machine

/-! ## Fault records and injection (R452, R460) -/

section
variable {s : State} {mb : MbId} {m : Nat}

theorem exec_rmpFaultClear_of_held (held : s.held mb 0x0802 = some m) : exec (.rmpFaultClear mb) s =
    .next (State.answer { s with fcl := { s.fcl with sticky := s.fcl.sticky &&& ~~~(BitVec.ofNat 1024 (fld m 0x20 128)) } } mb Stat.ok) := by
  simp only [exec, execRmpFaultClear, held]

theorem exec_rmpInject_of_locked (held : s.held mb 0x0807 = some m) (locked : s.sec.otp.lc ≠ 2) :
    exec (.rmpInject mb) s = .next (s.injectDenied.answer mb Stat.injectDenied) := by
  simp only [exec, execRmpInject, held]
  exact if_pos (by simp [State.inFactory, locked])

/-- What FCL_INJECT's word asks for: a pair now, a pair at SYNC_IN, or a wire. -/
def State.injected (s : State) (w : Nat) : State :=
  if bits w 16 2 = 1 then s.injectPair (bits w 32 10) (bits w 0 16)
  else if bits w 16 2 = 2 then { s with fcl := { s.fcl with injectSync := some (bits w 32 10, bits w 0 16) } }
  else { s with fcl := { s.fcl with wireInj := bits w 32 10 :: s.fcl.wireInj.filter (· ≠ bits w 32 10) } }

theorem exec_rmpInject_of_factory {w : Nat} (held : s.held mb 0x0807 = some m) (word : fld m 0x20 8 = w) (factory : s.sec.otp.lc = 2) :
    exec (.rmpInject mb) s = .next ((s.injected w).answer mb Stat.ok) := by
  subst word
  simp only [exec, execRmpInject, held]
  refine (if_neg (by simp [State.inFactory, factory])).trans ?_
  rw [State.injected]
  split
  · next now => rw [if_pos now]
  · next sync => rw [if_neg (by simp [sync]), if_pos sync]
  · next now sync => rw [if_neg now, if_neg sync]

/-! ## Checkpoints (R465, R470) -/

theorem exec_rmpCkptTake_of_held (held : s.held mb 0x0804 = some m) : exec (.rmpCkptTake mb) s = .next (s.updMb mb (fun x => { x with waits := true })) := by
  simp only [exec, execRmpCkptTake, held]

/-- The state once an image has been written: what the next incremental one compares with. -/
def State.ckptKept (s : State) (step m : Nat) (img : List Byte) : State := { s.ckptWrite m img with
  ckpt := { step := step, reqs := (s.ckptWrite m img).liveReqs.map (fun i =>
    (((s.ckptWrite m img).req i).reqId, ((s.ckptWrite m img).req i).tenant, ((s.ckptWrite m img).req i).journal.length)) } }

theorem State.ckptTake_eq {step : Nat} {img : List Byte} {recs : List (List Byte)} (message : (s.mbox mb).msg = m)
    (records : s.ckptRecords (bit (fld m 0x20 2) 0) = recs) (image : s.ckptImage step (bit (fld m 0x20 2) 0) recs = img) : s.ckptTake mb step =
      if fld m 0x30 8 < img.length then s.reply mb Stat.ckptSpace img.length []
      else (((s.ckptKept step m img).liveReqs.foldl (fun v i => v.updReq i (fun r => { r with ckptLen := some r.journal.length })) (s.ckptKept step m img)).devEvent
        0x48 recs.length step (img.length / 4096)).reply mb Stat.ok 0 (packFields [(8, img.length), (8, step), (4, recs.length)]) := by
  subst message records image
  rfl

theorem State.ckptWrite_eq (s : State) (m : Nat) (img : List Byte) : s.ckptWrite m img =
    if fld m 0x22 1 = 1 then { s with mem := memPut memKey s.mem (hostWin (fld m 0x28 8)) img }
    else if s.cxl.state = 2 then s.hostPut s.cfg.dev.adminLd (fld m 0x28 8) img
    else { s with cxl := { s.cxl with hostWrFail := satAdd 16 s.cxl.hostWrFail 1 } } := rfl

/-! ## Restoring (R468) -/

/-- The image header at an offset is one that can be restored: version 1, its CRC, a whole image, at least its own length. -/
def imageOk (h : Nat) : Bool := decide (fld h 0 2 = 1) && crcOk h 64 && !(bit (fld h 2 2) 0) && decide (64 ≤ fld h 0x28 8)

theorem exec_rmpCkptRestore_of_held {h : Nat} (held : s.held mb 0x0805 = some m) (header : s.rd (hostWin (fld m 0x20 8)) 64 = h) : exec (.rmpCkptRestore mb) s =
    if imageOk h = false then .next (s.answer mb Stat.ckptInvalid)
    else if (!(s.winOk mb (fld m 0x20 8) (fld h 0x28 8))) = true then .next (s.answerBad mb 0x20)
    else match parseRecords (fld h 0x20 4) (s.bytes (hostWin (fld m 0x20 8) + 64) (fld h 0x28 8 - 64)) with
      | none => .next (s.answer mb Stat.ckptInvalid)
      | some recs =>
        if s.fabricOf (fld h 6 2) ≠ some (fabricDigest s.cfg.fabric) then .next (s.answer mb Stat.ckptMismatch)
        else match s.restoreAll (bits (fld h 4 2) 0 12) (parseAppendix (fld m 0x30 4 / 16 + 1) (s.bytes (hostWin (fld m 0x28 8)) (fld m 0x30 4))) recs with
          | (s, a, b) => .next (s.graftPump.reply mb Stat.ok 0 (toBytes 4 a ++ toBytes 4 b)) := by
  subst header
  simp only [exec, execRmpCkptRestore, held]
  refine ite_congr (propext ?_) (fun _ => rfl) (fun _ => rfl)
  simp [imageOk, imp_iff_not_or, or_assoc]

end

section
variable {s u : State} {fid : Nat} {appx : List (Nat × Nat × List Nat)} {x : CkptRec} {xs : List CkptRec}

theorem State.restoreAll_of_gone (gone : fld x.entry 0x0E 1 = 0) : s.restoreAll fid appx (x :: xs) = s.restoreAll fid appx xs := if_pos gone

theorem State.restoreAll_of_restored {a : State} {b : Nat × Nat} (kept : fld x.entry 0x0E 1 ≠ 0) (one : s.restoreOne fid appx x = (u, 0))
    (rest : u.restoreAll fid appx xs = (a, b)) : s.restoreAll fid appx (x :: xs) = (a, b.1 + 1, b.2) := by
  rw [State.restoreAll, if_neg kept, one]
  simp only [rest]

theorem State.restoreAll_of_skipped {a : State} {b : Nat × Nat} {st : Nat} (kept : fld x.entry 0x0E 1 ≠ 0) (one : s.restoreOne fid appx x = (u, st))
    (skipped : st ≠ 0) (rest : State.restoreAll (u.eventTo u.cfg.dev.adminLd (eventRaw 0x49 0xFFFF st (fld x.entry 0 8) fid 0)) fid appx xs = (a, b)) :
    s.restoreAll fid appx (x :: xs) = (a, b.1, b.2 + 1) := by
  rw [State.restoreAll, if_neg kept, one]
  cases st with
  | zero => exact absurd rfl skipped
  | succ n => simp only [rest]

variable {e : Req} (entry : e = { Req.ofEntry x.entry with ttlMs := fld x.entry 0x60 4 })
include entry

theorem State.restoreOne_of_refused (refused : s.restoreCheck e ≠ Stat.ok) : s.restoreOne fid appx x = (s, s.restoreCheck e) := by
  subst entry
  exact if_pos refused

theorem State.restoreOne_of_homeless (passes : s.restoreCheck e = Stat.ok) (homeless : Tbl.find? s.cfg.defCq (s.tenant e.tenant).ld = none) :
    s.restoreOne fid appx x = (s, Stat.noRequestSlot) := by
  subst entry
  refine (if_neg (not_not.mpr passes)).trans ?_
  simp only [homeless]

theorem State.restoreOne_of_passing {cq : Nat} {j : List Nat} {o : Option (State × Nat)} (passes : s.restoreCheck e = Stat.ok)
    (home : Tbl.find? s.cfg.defCq (s.tenant e.tenant).ld = some cq) (journal : rebuild x.tokens e.reqId appx = j)
    (new : s.newEntry e.tenant (s.tenant e.tenant).ld (e.promptLen + e.maxNew) (fld x.seq 0x24 4) (s.slot e.slot) (fun (q : Req) =>
      { e with st := .decode, ld := (s.tenant e.tenant).ld, cfg := s.curVersion, jplots := q.jplots, tokenRing := q.tokenRing, seq := q.seq, cplRing := cq, epoch := (fld x.entry 0x10 2 + 1) % 65536, nextIndex := j.length - e.promptLen, firstIdx := j.length - e.promptLen, draftReady := false, prefilled := 0, lost := true }) = o) :
    (o = none → s.restoreOne fid appx x = (s, Stat.noRequestSlot)) ∧
    (∀ u i, o = some (u, i) → s.restoreOne fid appx x =
      (((((u.journalAdd i j).updReq i (fun r => { r with nextIndex := j.length - r.promptLen })).restored i (fld x.entry 0x0E 1) x.manifest.length).arrivedEvent i fid), Stat.ok)) := by
  subst entry journal
  refine ⟨fun none_ => ?_, fun u i some_ => ?_⟩
  · subst none_
    refine (if_neg (not_not.mpr passes)).trans ?_
    simp only [home, new]
  · subst some_
    refine (if_neg (not_not.mpr passes)).trans ?_
    simp only [home, new]

end

section
variable {s u : State} {i was plots : Nat}

theorem State.restored_of_parked (parked : was = 5 ∨ was = 6 ∨ was = 7) :
    s.restored i was plots = s.updReq i (fun r => { r with st := .expired, lost := false }) := if_pos (by simpa [or_assoc] using parked)

theorem State.restored_of_running (parked : ¬ (was = 5 ∨ was = 6 ∨ was = 7)) (recovered : u = s.recover i) : s.restored i was plots =
    if (decide ((u.req i).st = .prefill) || decide ((u.req i).st = .reprefill)) = true then
      match u.ensureKv i (Nat.min ((u.req i).promptLen + (u.req i).maxNew) ((u.req i).seq.manifestPositions plots)) true with
      | (v, true) => v
      | (_, false) => u
    else u := by
  subst recovered
  exact if_neg (by simpa [or_assoc] using parked)

end

/-! ## Loads from a partner (R469) -/

section
variable {s u : State} {mb : MbId} {o : PartnerOffer} {k m n : Nat} {ks : List Nat}

theorem exec_rmpPartnerLoad_of_held (held : s.held mb 0x0806 = some m) (slots : (List.range (fld m 0x22 2)).map (fun j => fld m (0x24 + 2 * j) 2) = ks) :
    exec (.rmpPartnerLoad mb o) s = if (!((List.range 36).any (fun lk => s.activeToward lk (fld m 0x20 2)))) = true then .next (s.answer mb Stat.peerMismatch)
      else if (!(ks.all (fun k => ((o.slots.find? (fun e => e.1 = k)).bind (·.2)).isSome))) = true then .next (s.answer mb Stat.modelNotLoaded)
      else if ks.any (fun k => (s.slot k).st ≠ .empty) = true then .next (s.answer mb Stat.wrongState)
      else .next ((s.pullSlots o ks 0).1.reply mb (s.pullSlots o ks 0).2.2 0 (toBytes 2 (s.pullSlots o ks 0).2.1)) := by
  subst slots
  simp only [exec, execRmpPartnerLoad, held]

theorem State.pullSlots_of_missing (missing : (o.slots.find? (fun e => e.1 = k)).bind (·.2) = none) :
    s.pullSlots o (k :: ks) n = (s, n, Stat.modelNotLoaded) := by
  simp only [State.pullSlots, missing]

theorem State.pullSlots_of_offered {x : BitVec 2048 × List Byte} {st : Nat} (offered : (o.slots.find? (fun e => e.1 = k)).bind (·.2) = some x)
    (pulls : s.pullSlot k x.1.toNat x.2 = (u, st)) : s.pullSlots o (k :: ks) n = if st = Stat.ok then u.pullSlots o ks (n + 1) else (u, n, st) := by
  simp only [State.pullSlots, offered, pulls]

theorem State.pullSlot_eq {entry : Nat} {bs : List Byte}
    (loading : u = { s with slots := Tbl.put s.slots k { tenant := fld entry 0 2, st := .loading, cfg := s.curVersion } }) : s.pullSlot k entry bs =
      if (!(u.objFieldsOk bs)) = true then (s, Stat.invalidField)
      else match (u.placeObject k 0 bs).bind (fun v => v.keepPulled k bs) with
        | none => (s, Stat.quotaExceeded)
        | some v => (((v.updSlot k (fun m => { m with st := .loaded })).writeSlot k).tenantEvent (fld entry 0 2) 0x83 k 0 0 Stat.ok, Stat.ok) := by
  subst loading
  rfl

theorem exec_recovery_of_none {op : Nat} {c : Instr} (none_ : s.held mb op = none)
    (mem : (c, op) ∈ [(Instr.rmpFaultClear mb, 0x0802), (.rmpInject mb, 0x0807), (.rmpCkptTake mb, 0x0804), (.rmpCkptRestore mb, 0x0805), (.rmpPartnerLoad mb o, 0x0806)]) :
    exec c s = .next s := by
  simp only [List.mem_cons, List.not_mem_nil, or_false, Prod.mk.injEq] at mem
  rcases mem with ⟨rfl, rfl⟩ | ⟨rfl, rfl⟩ | ⟨rfl, rfl⟩ | ⟨rfl, rfl⟩ | ⟨rfl, rfl⟩ <;>
    simp only [exec, execRmpFaultClear, execRmpInject, execRmpCkptTake, execRmpCkptRestore, execRmpPartnerLoad, none_]

end

/-- Settles O54: fault records, images and their records, and slots pulled, each by its checks, as above. A slot that is not EMPTY answers a partner's load
with WRONG_STATE (log 41). -/
theorem recoveryCommands : Obligations.RecoveryCommands := by
  unfold Obligations.RecoveryCommands
  refine ⟨fun s mb m => exec_rmpFaultClear_of_held, ?inject, fun s src width => ⟨State.injectPair_of_none, State.injectPair_of_class⟩,
    fun s mb m => exec_rmpCkptTake_of_held, ?take, ?write, fun s step => rfl, ?restore, ?records, ?one, ?restored, ?load, ?slots, ?slot,
    fun s mb o op c => exec_recovery_of_none⟩
  case inject =>
    intro s mb m w held word
    refine ⟨fun locked => exec_rmpInject_of_locked held locked, fun factory now => ?_, fun factory sync => ?_, fun factory now sync => ?_⟩
      <;> rw [exec_rmpInject_of_factory held word factory, State.injected]
    · rw [if_pos now]; rfl
    · rw [if_neg (by simp [sync]), if_pos sync]; rfl
    · rw [if_neg now, if_neg sync]; rfl
  case take =>
    intro s u mb step m img recs message records image
    rw [State.ckptTake_eq message records image]
    refine ⟨fun short => if_pos short, fun fits kept => ?_⟩
    subst kept
    exact if_neg (Nat.not_lt.mpr fits)
  case write =>
    intro s m img
    rw [State.ckptWrite_eq]
    exact ⟨fun window => if_pos window, fun host up => (if_neg host).trans (if_pos up), fun host down => (if_neg host).trans (if_neg down)⟩
  case restore =>
    intro s mb m h held header
    rw [exec_rmpCkptRestore_of_held held header]
    refine ⟨fun bad => if_pos ?_, fun version crc whole long out => ?_, fun version crc whole long inside => ?_⟩
    · rcases bad with h | h | h | h
      · simp [imageOk, h]
      · simp [imageOk, h]
      · simp [imageOk, h]
      · simp [imageOk, Nat.not_le.mpr h]
    · exact (if_neg (by simp [imageOk, version, crc, whole, long])).trans (if_pos (by simp [out]))
    · rw [if_neg (by simp [imageOk, version, crc, whole, long]), if_neg (by simp [inside])]
      refine ⟨fun none_ => ?_, fun recs some_ other => ?_, fun recs u a b some_ same all => ?_⟩
      · simp only [none_]; rfl
      · simp only [some_]; exact if_pos other
      · simp only [some_]
        rw [if_neg (not_not.mpr same), all]
  case records =>
    exact fun s fid appx x xs => ⟨rfl, State.restoreAll_of_gone, fun kept u st a b one =>
      ⟨fun ok rest => State.restoreAll_of_restored kept (ok ▸ one) rest, fun skipped rest => State.restoreAll_of_skipped kept one skipped rest⟩⟩
  case one =>
    exact fun s fid appx x e entry => ⟨State.restoreOne_of_refused entry, fun passes => ⟨State.restoreOne_of_homeless entry passes,
      fun cq j o home journal new => State.restoreOne_of_passing entry passes home journal new⟩⟩
  case restored =>
    refine fun s i was plots => ⟨State.restored_of_parked, fun expired resuming leaving u recovered => ?_⟩
    rw [State.restored_of_running (by simp [expired, resuming, leaving]) recovered]
    refine ⟨fun fresh again => if_neg (by simp [fresh, again]), fun prefills v b ensured => ?_⟩
    rw [if_pos (by simpa using prefills), ensured]
    cases b <;> rfl
  case load =>
    intro s mb o m ks held slots
    rw [exec_rmpPartnerLoad_of_held held slots]
    refine ⟨fun away => if_pos (by simpa using away), fun lk k low toward mem missing => ?_, fun lk k low toward offered mem taken => ?_,
      fun lk u n st low toward offered empty pulls => ?_⟩
      <;> rw [if_neg (by simpa using ⟨lk, low, toward⟩)]
    · refine if_pos ?_
      simp only [Bool.not_eq_true', List.all_eq_false]
      exact ⟨k, mem, by simp [missing]⟩
    · rw [if_neg (by rw [Bool.not_eq_true', Bool.not_eq_false, List.all_eq_true]; exact offered)]
      exact if_pos (by simpa using ⟨k, mem, taken⟩)
    · rw [if_neg (by rw [Bool.not_eq_true', Bool.not_eq_false, List.all_eq_true]; exact offered), if_neg (by simpa using empty), pulls]
  case slots =>
    refine fun s o k n ks => ⟨rfl, State.pullSlots_of_missing, fun x u st offered pulls => ?_⟩
    rw [State.pullSlots_of_offered offered pulls]
    exact ⟨fun ok => if_pos ok, fun failed => if_neg failed⟩
  case slot =>
    intro s u k entry o loading
    rw [State.pullSlot_eq loading]
    refine ⟨fun bad => if_pos (by simp [bad]), fun good => ⟨fun none_ => ?_, fun v some_ => ?_⟩⟩
    · rw [if_neg (by simp [good])]; simp only [none_]
    · rw [if_neg (by simp [good])]; simp only [some_]

end Sys2Proof.Machine
end

section
/-!
SPDM, IDE_KM and life-cycle transitions over JTAG (R499 to R502, R506): what a request meets before its own checks, one equation for each request past
them, and from them `SecurityCommands`.
-/
namespace Sys2Proof.Machine

/-! ## The first number that is free -/

theorem firstFrom_eq_none {p : Nat → Bool} {n i : Nat} (none_ : ∀ k, i ≤ k → k < i + n → p k = false) : firstFrom p n i = none := by
  induction n generalizing i with
  | zero => rfl
  | succ n ih =>
    rw [firstFrom, if_neg (by simp [none_ i (le_refl i) (by omega)])]
    exact ih (fun k low high => none_ k (by omega) (by omega))

theorem firstFrom_eq_some {p : Nat → Bool} {n i k : Nat} (low : i ≤ k) (high : k < i + n) (free : p k = true) (taken : ∀ j, i ≤ j → j < k → p j = false) :
    firstFrom p n i = some k := by
  induction n generalizing i with
  | zero => omega
  | succ n ih =>
    rw [firstFrom]
    by_cases here : i = k
    · subst here; exact if_pos free
    · rw [if_neg (by simp [taken i (le_refl i) (by omega)])]
      exact ih (by omega) (by omega) (fun j from_ before => taken j (by omega) before)

/-! ## The responder (R499) -/

theorem State.updSpdm_only (s : State) (k : Nat) (f : Spdm → Spdm) : Claims.spdmOnly s (s.updSpdm k f) k := ⟨rfl, fun _ other => Tbl.getD_upd_ne _ _ _ _ other⟩

theorem State.updSpdm_spdm_self (s : State) (k : Nat) (f : Spdm → Spdm) : (s.updSpdm k f).spdm k = f (s.spdm k) := Tbl.getD_upd_self ..

section
variable {s : State} {k n : Nat}

theorem State.doe_iff : s.doe k = true ↔ s.live = true ∧ s.cxl.state = 2 ∧ s.cxl.cfgReady = true ∧ s.devState ≠ .recovery ∧ (k = 0 ∨ s.cxl.mld = true) := by
  simp [State.doe, State.presents, and_assoc]

theorem State.spdmAt_of_off {f : State → State} (off : s.doe k = false) : s.spdmAt k n f = s := if_pos (by simp [off])

theorem State.spdmAt_of_early {f : State → State} (on : s.doe k = true) (early : (s.spdm k).stage < n) : s.spdmAt k n f = s.spdmError k 0x04 :=
  (if_neg (by simp [on])).trans (if_pos early)

theorem State.spdmAt_of_reached {f : State → State} (on : s.doe k = true) (reached : n ≤ (s.spdm k).stage) : s.spdmAt k n f = f s :=
  (if_neg (by simp [on])).trans (if_neg (Nat.not_lt.mpr reached))

theorem State.inSession_of_off {f : State → Session → State} (off : s.doe k = false) : s.inSession k n f = s := if_pos (by simp [off])

theorem State.inSession_of_none {f : State → Session → State} (on : s.doe k = true) (none_ : (s.spdm k).session? n = none) :
    s.inSession k n f = s.spdmError k 0x02 := by
  refine (if_neg (by simp [on])).trans ?_
  simp only [none_]

theorem State.inSession_of_some {f : State → Session → State} {x : Session} (on : s.doe k = true) (some_ : (s.spdm k).session? n = some x) :
    s.inSession k n f = if x.up then f s x else s.spdmError k 0x04 := by
  refine (if_neg (by simp [on])).trans ?_
  simp only [some_]

theorem State.inSession_of_up {f : State → Session → State} {x : Session} (on : s.doe k = true) (some_ : (s.spdm k).session? n = some x) (up : x.up = true) :
    s.inSession k n f = f s x := (State.inSession_of_some on some_).trans (if_pos up)

theorem State.ideKm_of_up {f : State → State} {x : Session} (on : s.doe k = true) (some_ : (s.spdm k).session? n = some x) (up : x.up = true) :
    s.ideKm k n f = if k = (if s.cxl.mld then 16 else 0) then f s else s.spdmError k 0x07 := State.inSession_of_up on some_ up

end

section
variable {s : State} {ld : Fin 17} {c : Instr} {slot off len index : Nat} {signed : Bool} {nonce : BitVec 256} {a : SpdmAlgs} {sid : BitVec 16} {share : BitVec 768}
  {id : BitVec 32} {verify : BitVec 512} {sub : Fin 8} {set : Fin 2} {key : BitVec 256}

theorem exec_spdm_off (off_ : s.doe ld.val = false) (mem : c ∈ [Instr.getVersion ld, .getCapabilities ld, .negotiateAlgorithms ld a, .getDigests ld,
    .getCertificate ld slot off len, .challenge ld slot nonce, .getMeasurements ld index signed nonce, .keyExchange ld slot sid share, .finish ld id verify,
    .heartbeat ld id, .keyUpdate ld id, .endSession ld id, .ideKmQuery ld id, .keyProg ld id sub set key, .kSetGo ld id sub set, .kSetStop ld id sub set]) :
    exec c s = .next s := by
  simp only [List.mem_cons, List.not_mem_nil, or_false] at mem
  rcases mem with rfl | rfl | rfl | rfl | rfl | rfl | rfl | rfl | rfl | rfl | rfl | rfl | rfl | rfl | rfl | rfl
  case inl => exact if_pos (by simp [off_])
  case inr.inl | inr.inr.inl | inr.inr.inr.inl | inr.inr.inr.inr.inl | inr.inr.inr.inr.inr.inl | inr.inr.inr.inr.inr.inr.inl | inr.inr.inr.inr.inr.inr.inr.inl |
      inr.inr.inr.inr.inr.inr.inr.inr.inl => exact congrArg _ (State.spdmAt_of_off off_)
  all_goals exact congrArg _ (State.inSession_of_off off_)

theorem exec_spdm_early {n : Nat} (on : s.doe ld.val = true) (early : (s.spdm ld.val).stage < n)
    (mem : (c, n) ∈ [(Instr.getCapabilities ld, 1), (.negotiateAlgorithms ld a, 2), (.getDigests ld, 3), (.getCertificate ld slot off len, 3), (.challenge ld slot nonce, 3),
      (.getMeasurements ld index signed nonce, 3), (.keyExchange ld slot sid share, 3), (.finish ld id verify, 3)]) :
    exec c s = .next (s.spdmError ld.val 0x04) := by
  simp only [List.mem_cons, List.not_mem_nil, or_false, Prod.mk.injEq] at mem
  rcases mem with ⟨rfl, rfl⟩ | ⟨rfl, rfl⟩ | ⟨rfl, rfl⟩ | ⟨rfl, rfl⟩ | ⟨rfl, rfl⟩ | ⟨rfl, rfl⟩ | ⟨rfl, rfl⟩ | ⟨rfl, rfl⟩ <;>
    exact congrArg _ (State.spdmAt_of_early on early)

theorem exec_spdm_unattested (on : s.doe ld.val = true) (agreed : 3 ≤ (s.spdm ld.val).stage) (unable : s.attests = false)
    (mem : c ∈ [Instr.getDigests ld, .getCertificate ld slot off len, .challenge ld slot nonce, .keyExchange ld slot sid share]) :
    exec c s = .next (s.spdmError ld.val 0x07) := by
  simp only [List.mem_cons, List.not_mem_nil, or_false] at mem
  rcases mem with rfl | rfl | rfl | rfl <;>
    (refine congrArg _ ((State.spdmAt_of_reached on agreed).trans ?_); exact if_pos (by simp [unable]))

theorem exec_session_shut (on : s.doe ld.val = true) (mem : c ∈ [Instr.heartbeat ld id, .keyUpdate ld id, .endSession ld id, .ideKmQuery ld id,
    .keyProg ld id sub set key, .kSetGo ld id sub set, .kSetStop ld id sub set]) :
    ((s.spdm ld.val).session? id.toNat = none → exec c s = .next (s.spdmError ld.val 0x02)) ∧
    (∀ x, (s.spdm ld.val).session? id.toNat = some x → x.up = false → exec c s = .next (s.spdmError ld.val 0x04)) := by
  simp only [List.mem_cons, List.not_mem_nil, or_false] at mem
  rcases mem with rfl | rfl | rfl | rfl | rfl | rfl | rfl <;>
    exact ⟨fun none_ => congrArg _ (State.inSession_of_none on none_),
      fun x some_ shut => congrArg _ ((State.inSession_of_some on some_).trans (if_neg (by simp [shut])))⟩

theorem exec_ideKm_elsewhere {x : Session} (on : s.doe ld.val = true) (some_ : (s.spdm ld.val).session? id.toNat = some x) (up : x.up = true)
    (elsewhere : ld.val ≠ (if s.cxl.mld = true then 16 else 0))
    (mem : c ∈ [Instr.ideKmQuery ld id, .keyProg ld id sub set key, .kSetGo ld id sub set, .kSetStop ld id sub set]) :
    exec c s = .next (s.spdmError ld.val 0x07) := by
  simp only [List.mem_cons, List.not_mem_nil, or_false] at mem
  rcases mem with rfl | rfl | rfl | rfl <;> exact congrArg _ ((State.ideKm_of_up on some_ up).trans (if_neg elsewhere))

/-! ## Requests past their checks (R499) -/

section
variable (on : s.doe ld.val = true)
include on

theorem exec_negotiateAlgorithms_of_agreed (agreed : 2 ≤ (s.spdm ld.val).stage) : exec (.negotiateAlgorithms ld a) s =
    .next (if (a.ed448 && a.sha3) = true then (s.updSpdm ld.val (fun r => { r with stage := 3 })).spdmAnswer ld.val 0x63 [1#8, 1#8] else s.spdmError ld.val 0x01) :=
  congrArg _ (State.spdmAt_of_reached on agreed)

variable (agreed : 3 ≤ (s.spdm ld.val).stage)
include agreed

theorem exec_getMeasurements_of_agreed {b : List Byte} (block : (if index = 0 then [5#8]
      else if index = 0xFF then (rangeFrom 1 5).flatMap (fun i => BitVec.ofNat 8 i :: s.measurement i) else BitVec.ofNat 8 index :: s.measurement index) = b) :
    exec (.getMeasurements ld index signed nonce) s = .next (if (decide (5 < index) && decide (index ≠ 0xFF)) = true then s.spdmError ld.val 0x01
      else if (signed && !s.attests) = true then s.spdmError ld.val 0x07
      else s.spdmAnswer ld.val 0x60 (if signed then b ++ toBytes 32 nonce.toNat ++ (Config.sign s.sec.alias_ (b ++ toBytes 32 nonce.toNat)).take 114 else b)) := by
  subst block
  exact congrArg _ (State.spdmAt_of_reached on agreed)

theorem exec_finish_of_none (none_ : (s.spdm ld.val).session? id.toNat = none) : exec (.finish ld id verify) s = .next (s.spdmError ld.val 0x02) := by
  refine congrArg _ ((State.spdmAt_of_reached on agreed).trans ?_)
  simp only [none_]

theorem exec_finish_of_some {x : Session} (some_ : (s.spdm ld.val).session? id.toNat = some x) : exec (.finish ld id verify) s =
    .next (if x.up then s.spdmError ld.val 0x04
      else if verify.toNat ≠ Config.spdmKey [x.secret, 1] % 2 ^ 512 then (s.dropSession ld.val id.toNat).spdmError ld.val 0x06
      else ((s.updSession ld.val id.toNat (fun x => { x with up := true })).spdmAnswer ld.val 0x65 []).devEvent 0xC3 ld.val id.toNat 1) := by
  refine congrArg _ ((State.spdmAt_of_reached on agreed).trans ?_)
  simp only [some_]

variable (able : s.attests = true)
include able

theorem exec_getDigests_of_able : exec (.getDigests ld) s = .next (s.spdmAnswer ld.val 0x01 (toBytes 64 (sha3_512 s.certChain))) := by
  refine congrArg _ ((State.spdmAt_of_reached on agreed).trans ?_)
  exact if_neg (by simp [able])

theorem exec_getCertificate_of_able : exec (.getCertificate ld slot off len) s =
    .next (if (decide (slot ≠ 0) || decide (s.certChain.length < off)) = true then s.spdmError ld.val 0x01
      else s.spdmAnswer ld.val 0x02 ((s.certChain.drop off).take len)) := by
  refine congrArg _ ((State.spdmAt_of_reached on agreed).trans ?_)
  exact if_neg (by simp [able])

theorem exec_challenge_of_able {dig : List Byte} (digest : toBytes 64 (sha3_512 s.certChain) = dig) : exec (.challenge ld slot nonce) s =
    .next (if slot ≠ 0 then s.spdmError ld.val 0x01
      else s.spdmAnswer ld.val 0x03 (toBytes 32 nonce.toNat ++ dig ++ (Config.sign s.sec.alias_ (toBytes 32 nonce.toNat ++ dig)).take 114)) := by
  subst digest
  refine congrArg _ ((State.spdmAt_of_reached on agreed).trans ?_)
  exact if_neg (by simp [able])

/-- This end's half of a new session ID: the lowest of 1 to 4 that no session has. -/
def Spdm.freeHalf (r : Spdm) : Option Nat := firstFrom (fun h => !(r.sessions.any (fun x => x.sid / 65536 = h))) 4 1

omit on agreed able in
theorem Spdm.freeHalf_eq_none {r : Spdm} (full : ∀ h, 1 ≤ h → h ≤ 4 → ∃ x ∈ r.sessions, x.sid / 65536 = h) : r.freeHalf = none :=
  firstFrom_eq_none (fun h low high => by simpa using full h low (by omega))

omit on agreed able in
theorem Spdm.freeHalf_eq_some {r : Spdm} {h : Nat} (low : 1 ≤ h) (high : h ≤ 4) (free : ∀ x ∈ r.sessions, x.sid / 65536 ≠ h)
    (taken : ∀ k, 1 ≤ k → k < h → ∃ x ∈ r.sessions, x.sid / 65536 = k) : r.freeHalf = some h :=
  firstFrom_eq_some low (by omega) (by simpa using free) (fun k from_ before => by simpa using taken k from_ before)

theorem exec_keyExchange_of_slot (other : slot ≠ 0) : exec (.keyExchange ld slot sid share) s = .next (s.spdmError ld.val 0x01) := by
  refine congrArg _ ((State.spdmAt_of_reached on agreed).trans ?_)
  exact (if_neg (by simp [able])).trans (if_pos other)

theorem exec_keyExchange_of_full (slot0 : slot = 0) (full : (s.spdm ld.val).freeHalf = none) :
    exec (.keyExchange ld slot sid share) s = .next (s.spdmError ld.val 0x0A) := by
  refine congrArg _ ((State.spdmAt_of_reached on agreed).trans ?_)
  refine (if_neg (by simp [able])).trans ((if_neg (not_not.mpr slot0)).trans ?_)
  rw [Spdm.freeHalf] at full
  simp only [full]

theorem exec_keyExchange_of_free {h sec : Nat} {m : List Byte} (slot0 : slot = 0) (free : (s.spdm ld.val).freeHalf = some h)
    (secret : sec = Config.spdmKey [sid.toNat + 65536 * h, share.toNat, s.fresh]) (message : m = toBytes 2 h ++ toBytes 64 sec) :
    exec (.keyExchange ld slot sid share) s = .next ((State.updSpdm { s with fresh := s.fresh + 1 } ld.val
      (fun r => { r with sessions := { sid := sid.toNat + 65536 * h, secret := sec } :: r.sessions })).spdmAnswer ld.val 0x64 (m ++ (Config.sign s.sec.alias_ m).take 114)) := by
  subst message secret
  refine congrArg _ ((State.spdmAt_of_reached on agreed).trans ?_)
  refine (if_neg (by simp [able])).trans ((if_neg (not_not.mpr slot0)).trans ?_)
  rw [Spdm.freeHalf] at free
  simp only [free]
  rfl

end

/-! ## IDE_KM past its checks (R500) -/

section
variable {x : Session} (on : s.doe ld.val = true) (some_ : (s.spdm ld.val).session? id.toNat = some x) (up : x.up = true)
  (here : ld.val = (if s.cxl.mld = true then 16 else 0))
include on some_ up here

theorem State.ideKm_of_here {f : State → State} : s.ideKm ld.val id.toNat f = f s := (State.ideKm_of_up on some_ up).trans (if_pos here)

theorem exec_ideKmQuery_of_here : exec (.ideKmQuery ld id) s = .next (s.spdmAnswer ld.val 0x7E ((List.range 8).map (fun k =>
      BitVec.ofNat 8 (b2n (s.sec.ideKeys.any (fun e => e.1 = 2 * k)) + 2 * b2n (s.sec.ideKeys.any (fun e => e.1 = 2 * k + 1)) +
        4 * ((Tbl.find? s.sec.ideSet k).map (1 + ·)).getD 0)))) := by
  refine congrArg _ ((State.ideKm_of_here on some_ up here).trans (congrArg (s.spdmAnswer ld.val 0x7E) ?_))
  rw [List.map_eq_flatMap]
  refine List.flatMap_congr fun k _ => ?_
  cases Tbl.find? s.sec.ideSet k <;> rfl

theorem exec_kSetGo_of_here : exec (.kSetGo ld id sub set) s =
    .next (if (Tbl.find? s.sec.ideKeys (2 * sub.val + set.val)).isNone = true then s.spdmError ld.val 0x01
      else (State.spdmAnswer { s with sec := { s.sec with ideSet := Tbl.put s.sec.ideSet sub.val set.val } } ld.val 0x7E [4#8]).devEvent 0xC4 sub.val set.val 0) :=
  congrArg _ (State.ideKm_of_here on some_ up here)

end

end

/-! ## Transitions over JTAG (R502) -/

/-- R502's table for a transition asked for over JTAG. -/
theorem State.transitionStatus_jtag_iff {s : State} {k : Nat} {token : BitVec 1536} : s.transitionStatus true k token = Stat.ok ↔
    (k = 6 ∧ s.sec.otp.lc ≠ 6) ∨ (s.sec.otp.lc = 1 ∧ k = 2) ∨ (s.sec.otp.lc = 2 ∧ k = 3 ∧ s.tokenOk 3 token = true ∧ s.sec.otp.keysDone = true) := by
  have wrong : Stat.wrongState ≠ Stat.ok := by decide
  have failed : Stat.checkFailed ≠ Stat.ok := by decide
  simp only [State.transitionStatus, Bool.and_eq_true, decide_eq_true_eq, Bool.not_true, Bool.false_eq_true, and_false, and_true, if_false]
  split_ifs with any_ factory token_ good
  · exact iff_of_true rfl (.inl any_)
  · exact iff_of_true rfl (.inr (.inl factory))
  · exact iff_of_true rfl (.inr (.inr ⟨token_.1, token_.2, good⟩))
  · simp only [failed, false_iff]
    rintro (h | h | ⟨_, _, h⟩)
    · exact any_ h
    · exact factory h
    · exact good h
  · simp only [wrong, false_iff]
    rintro (h | h | ⟨lc, k, _⟩)
    · exact any_ h
    · exact factory h
    · exact token_ ⟨lc, k⟩

theorem exec_jtagLcTransition_of_on {s : State} {target : BitVec 8} {token : BitVec 1536} (good : s.boot.good = true) (released : s.boot.released = true) :
    exec (.jtagLcTransition target token) s = if s.transitionStatus true target.toNat token = Stat.ok then .next (s.transition target.toNat) else .next s :=
  if_neg (by simp [good, released])

/-- Settles O57: each request by the DOE, the agreement and the session it stands in, and JTAG's transitions by R502's table, as above (message codes
PRESUMED, log 27; keys, digests and signatures uninterpreted, log 23). -/
theorem securityCommands : Obligations.SecurityCommands := by
  unfold Obligations.SecurityCommands
  refine ⟨fun s k f => ⟨s.updSpdm_only k f, s.updSpdm_spdm_self k f⟩, fun s k c bs => rfl, fun s k => State.doe_iff,
    fun s ld c slot off len index signed nonce a sid share id verify sub set key => exec_spdm_off, fun s ld on => if_neg (by simp [on]),
    fun s ld on agreed => congrArg _ (State.spdmAt_of_reached on agreed), ?algorithms,
    fun s ld c n slot off len index signed nonce a sid share id verify => exec_spdm_early, fun s ld c slot off len nonce sid share => exec_spdm_unattested,
    ?certificates, ?measurements, ?configuration, ?registers, ?exchange, ?finish, fun s ld sid c sub set key => exec_session_shut, ?session,
    fun s ld sid x c sub set key => exec_ideKm_elsewhere, ?keys, fun s target token off => if_pos (by simpa using off), ?transition⟩
  case algorithms =>
    intro s ld a on agreed
    rw [exec_negotiateAlgorithms_of_agreed on agreed]
    exact ⟨fun ed sha => congrArg _ (if_pos (by simp [ed, sha])), fun other => congrArg _ (if_neg (by simpa [imp_iff_not_or] using other))⟩
  case certificates =>
    intro s ld slot off len nonce dig on agreed able digest
    rw [exec_getCertificate_of_able on agreed able, exec_challenge_of_able on agreed able digest]
    exact ⟨digest ▸ exec_getDigests_of_able on agreed able, fun zero within => congrArg _ (if_neg (by simp [zero, within])),
      fun out => congrArg _ (if_pos (by simpa using out)), fun zero => congrArg _ (if_neg (not_not.mpr zero)), fun other => congrArg _ (if_pos other)⟩
  case measurements =>
    intro s ld index signed nonce b on agreed block
    rw [exec_getMeasurements_of_agreed on agreed block]
    have named : index ≤ 5 ∨ index = 0xFF → ¬ (decide (5 < index) && decide (index ≠ 0xFF)) = true := fun of_ => by
      rcases of_ with low | all
      · simp [Nat.not_lt.mpr low]
      · simp [all]
    refine ⟨fun high some_ => congrArg _ (if_pos (by simp [high, some_])), fun of_ signs unable => ?_, fun of_ plain => ?_, fun of_ signs able => ?_⟩
    · rw [if_neg (named of_), if_pos (by simp [signs, unable])]; rfl
    · rw [if_neg (named of_), if_neg (by simp [plain]), if_neg (by simp [plain])]
    · rw [if_neg (named of_), if_neg (by simp [able]), if_pos signs]
  case configuration =>
    intro s c current
    simp only [State.measurement, current, if_true]
  case registers =>
    intro s i low high
    exact if_neg (by omega)
  case exchange =>
    intro s ld slot sid share on agreed able
    exact ⟨exec_keyExchange_of_slot on agreed able, fun zero full => exec_keyExchange_of_full on agreed able zero (Spdm.freeHalf_eq_none full),
      fun h zero low high free taken => ⟨_, _, rfl, rfl, exec_keyExchange_of_free on agreed able zero (Spdm.freeHalf_eq_some low high free taken) rfl rfl⟩⟩
  case finish =>
    intro s ld sid verify on agreed
    refine ⟨exec_finish_of_none on agreed, fun x some_ up => ?_, fun x some_ shut bad => ?_, fun x some_ shut right => ?_⟩ <;>
      rw [exec_finish_of_some on agreed some_]
    · rw [if_pos up]; rfl
    · rw [if_neg (by simp [shut]), if_pos bad]; rfl
    · rw [if_neg (by simp [shut]), if_neg (not_not.mpr right)]; rfl
  case session =>
    intro s ld sid x on some_ up
    exact ⟨congrArg _ (State.inSession_of_up on some_ up), congrArg _ (State.inSession_of_up on some_ up), congrArg _ (State.inSession_of_up on some_ up)⟩
  case keys =>
    rintro s ld sid x sub set key n on some_ up here rfl
    refine ⟨exec_ideKmQuery_of_here on some_ up here, congrArg _ (State.ideKm_of_here on some_ up here), fun none_ => ?_, fun programmed => ?_,
      congrArg _ (State.ideKm_of_here on some_ up here)⟩
    · rw [exec_kSetGo_of_here on some_ up here, if_pos (by simp [none_])]; rfl
    · rw [exec_kSetGo_of_here on some_ up here, if_neg (by simpa [Option.isNone_iff_eq_none] using programmed)]
  case transition =>
    rintro s target token k lc good released rfl rfl
    rw [exec_jtagLcTransition_of_on good released]
    refine ⟨fun allowed => ⟨_, _, rfl, if_pos (State.transitionStatus_jtag_iff.mpr allowed), ?_, rfl⟩, fun refused =>
      if_neg (State.transitionStatus_jtag_iff.not.mpr refused)⟩
    have kept : target.toNat ≠ 5 := by omega
    simp only [State.transition, kept, decide_false, Bool.or_false]

end Sys2Proof.Machine
end

section
/-!
What a run of changes to the entries of a table leaves, what a zeroed range of memory reads, and power limits and power states (R509, R511, R513,
R523): which parts of the state a change of dividers, a tile's waking and its powering down touch.
-/
namespace Sys2Proof.Machine

/-! ## A run that changes each entry once -/

/-- A run over distinct indices whose step changes the index's own entry, given what every step keeps. -/
theorem foldl_each {σ α : Type} (get : σ → Nat → α) {step : σ → Nat → σ} (Kept : σ → Prop) (g : Nat → α → α) {is : List Nat}
    (keeps : ∀ s, ∀ i ∈ is, Kept s → Kept (step s i)) (own : ∀ s, ∀ i ∈ is, Kept s → get (step s i) i = g i (get s i))
    (others : ∀ s, ∀ i ∈ is, ∀ j, j ≠ i → Kept s → get (step s i) j = get s j) (apart : is.Nodup) {s : σ} (start : Kept s) :
    Kept (is.foldl step s) ∧ ∀ j, get (is.foldl step s) j = if j ∈ is then g j (get s j) else get s j := by
  induction is generalizing s with
  | nil => exact ⟨start, fun j => rfl⟩
  | cons i is ih =>
    obtain ⟨first, rest⟩ := List.nodup_cons.mp apart
    obtain ⟨kept, reads⟩ := ih (fun s j mem => keeps s j (.tail _ mem)) (fun s j mem => own s j (.tail _ mem))
      (fun s j mem => others s j (.tail _ mem)) rest (keeps s i (.head _) start)
    refine ⟨kept, fun j => (reads j).trans ?_⟩
    by_cases here : j = i
    · subst here
      rw [if_neg first, if_pos (.head _), own s j (.head _) start]
    · rw [others s i (.head _) j here start]
      exact ite_congr (propext (by simp [here])) (fun _ => rfl) (fun _ => rfl)

/-! ## Zeroed and refilled ranges -/

theorem memGet_memZero_of_in {m : List Host.Cell} {a n b : Nat} (low : a ≤ b) (high : b < a + n) : memGet (memZero m a n) b = 0#8 := by
  induction m with
  | nil => rfl
  | cons c m ih =>
    rw [memZero, List.filter_cons]
    split
    · next kept =>
      have other : c.1 ≠ b := by rintro rfl; simp at kept; omega
      rw [memGet, if_neg other]
      exact ih
    · exact ih

theorem memGet_memZero_of_out {m : List Host.Cell} {a n b : Nat} (out : b < a ∨ a + n ≤ b) : memGet (memZero m a n) b = memGet m b :=
  memGet_filter_of_kept (fun c _ here => by subst here; simpa using out)

/-! ## Dividers (R118, R512, R521) -/

section
variable {s : State}

/-- A running command's time counted up to now, at the divider it had. -/
def State.countTile (s : State) (t : Nat) : State :=
  match (s.tile t).cur with
  | none => s
  | some c => s.updTile t (fun x => { x with cur := some { c with run7 := c.run7 + (s.ltu - c.start) * rate7 (s.divOf t), start := s.ltu } })

/-- Running commands' times counted up to now. -/
def State.counted (s : State) : State := (List.range 48).foldl State.countTile s

theorem State.redivide_eq (s : State) (f : State → State) : s.redivide f = f s.counted := rfl

theorem State.countTile_of_none {t : Nat} (none_ : (s.tile t).cur = none) : s.countTile t = s := by
  simp only [State.countTile, none_]

theorem State.countTile_of_some {t : Nat} {c : TileCmd} (some_ : (s.tile t).cur = some c) : s.countTile t =
    s.updTile t (fun x => { x with cur := some { c with run7 := c.run7 + (s.ltu - c.start) * rate7 (s.divOf t), start := s.ltu } }) := by
  simp only [State.countTile, some_]

theorem State.countTile_frame (s : State) (t : Nat) : s.countTile t = { s with tiles := (s.countTile t).tiles } := by
  cases cur : (s.tile t).cur with
  | none => rw [State.countTile_of_none cur]
  | some c => rw [State.countTile_of_some cur]; rfl

theorem State.countTile_tile_ne {t j : Nat} (other : j ≠ t) : (s.countTile t).tile j = s.tile j := by
  cases cur : (s.tile t).cur with
  | none => rw [State.countTile_of_none cur]
  | some c => rw [State.countTile_of_some cur, State.updTile_tile_ne _ _ other]

/-- The registers of tile `j` once its command's time is counted in `s`. -/
def State.tileCounted (s : State) (j : Nat) (x : Tile) : Tile :=
  { x with cur := x.cur.map (fun c => { c with run7 := c.run7 + (s.ltu - c.start) * rate7 (s.divOf j), start := s.ltu }) }

theorem State.countTile_tile_self (s : State) (t : Nat) : (s.countTile t).tile t = s.tileCounted t (s.tile t) := by
  cases cur : (s.tile t).cur with
  | none => rw [State.countTile_of_none cur, State.tileCounted, cur, Option.map_none, ← cur]
  | some c => rw [State.countTile_of_some cur, State.updTile_tile_self, State.tileCounted, cur, Option.map_some]

theorem State.counted_reads (s : State) : s.counted = { s with tiles := s.counted.tiles } ∧
    ∀ j, s.counted.tile j = if j ∈ List.range 48 then s.tileCounted j (s.tile j) else s.tile j := by
  refine foldl_each State.tile (fun u => u = { s with tiles := u.tiles }) s.tileCounted (fun u i _ kept => ?_) (fun u i _ kept => ?_)
    (fun u i _ j other kept => State.countTile_tile_ne other) List.nodup_range rfl
  · rw [State.countTile_frame, kept]
  · have same : u.tileCounted i = s.tileCounted i := by rw [kept]; rfl
    rw [State.countTile_tile_self, same]

theorem State.counted_accounts (s : State) : Claims.accounted s s.counted := by
  obtain ⟨frame, tiles⟩ := s.counted_reads
  refine ⟨frame, fun j none_ => ?_, fun j c low some_ => ?_⟩
  · have idle : s.tileCounted j (s.tile j) = s.tile j := by rw [State.tileCounted, none_, Option.map_none, ← none_]
    rw [tiles, idle, ite_self]
  · rw [tiles, if_pos (List.mem_range.mpr low), State.tileCounted, some_, Option.map_some]

theorem State.updTpwr_only (s : State) (k : Nat) (f : TilePwr → TilePwr) : Claims.tpwrOnly s (s.updTpwr k f) k :=
  ⟨rfl, fun _ other => State.updTpwr_tpwr_ne _ _ other⟩

/-! ## The clamp and the limit (R509, R511, R532) -/

theorem exec_power_off {a b c : Nat} {v : BitVec 32} {k : Fin 48} {q : BitVec 3} {w : BitVec 16} {d : List (List Nat)} {slack : List Int} {site : Fin 32} {temp : Int}
    {i : Instr} (off : s.live = false) (mem : i ∈ [Instr.powerReport a b c, .clampClr, .pwrCapWrite v, .tilePwrReq k q, .tileWake k, .tileDivWrite k v,
      .tileVsetWrite k v, .ltuBootWrite w, .stageSplitWrite v, .syncInEdge, .pdmSweep k, .sweepDone k d, .ageScheduler, .insituSlackCheck k slack,
      .thermalSample site temp]) : exec i s = .next s := by
  simp only [List.mem_cons, List.not_mem_nil, or_false] at mem
  rcases mem with rfl | rfl | rfl | rfl | rfl | rfl | rfl | rfl | rfl | rfl | rfl | rfl | rfl | rfl | rfl <;> exact if_pos (by simp [off])

theorem exec_powerReport_of_live {a b c : Nat} (live : s.live = true) : exec (.powerReport a b c) s =
    if (decide (a ≤ 2400000) || s.pwr.clampPower) = true then .next { s with pwr := { s.pwr with avg100us := a, avg1ms := b, avg1s := c } }
    else .next (((State.redivide { s with pwr := { s.pwr with avg100us := a, avg1ms := b, avg1s := c } }
      (fun u => { u with pwr := { u.pwr with clampPower := true } })).raise 0x3C1).clampEvent 1 0xFF) := if_neg (by simp [live])

/-- A clamp of the power average may be released (R511; log 56). -/
def State.releases (s : State) : Bool :=
  s.pwr.clampPower && !s.pwr.clampVin && s.pwr.clampTherm.isEmpty && decide (s.pwr.avg1ms < 1000 * s.pwr.pcap)

theorem exec_clampClr_of_live (live : s.live = true) : exec .clampClr s =
    if s.releases = false then .next s else .next ((s.redivide (fun u => { u with pwr := { u.pwr with clampPower := false } })).clampEvent 0 0xFF) := by
  refine ite_congr (propext ?_) (fun _ => rfl) (fun _ => rfl)
  simp [State.releases, live, ← Bool.not_eq_true, imp_iff_not_or, or_assoc]

theorem State.live_good (live : s.live = true) : s.boot.good = true := by
  simp only [State.live, Bool.and_eq_true] at live
  exact live.2

theorem exec_vinRange_of_good {mv : Nat} (good : s.boot.good = true) : exec (.vinRange mv) s =
    if mv < 44000 ∨ 64000 < mv then .next (s.trip 0)
    else if s.live = false then .next s
    else if mv < 48000 ∨ 60000 < mv then
      if s.pwr.clampVin then .next s
      else .next (((s.redivide (fun u => { u with pwr := { u.pwr with clampVin := true } })).raise 0x3C0).clampEvent 2 0xFF)
    else if s.pwr.clampVin then .next ((s.redivide (fun u => { u with pwr := { u.pwr with clampVin := false } })).clampEvent 0 0xFF)
    else .next s := by
  refine (if_neg (by simp [good])).trans ?_
  simp only [Bool.or_eq_true, decide_eq_true_eq, Bool.not_eq_true']

theorem exec_vinRange_of_bad {mv : Nat} (bad : s.boot.good = false) : exec (.vinRange mv) s = .next s := if_pos (by simp [bad])

theorem exec_pwrCapWrite_of_live {v : BitVec 32} {w : Nat} (live : s.live = true) (word : bits v.toNat 0 12 = w) :
    exec (.pwrCapWrite v) s = .next (if 600 ≤ w ∧ w ≤ 2100 then { s with pwr := { s.pwr with pcap := w } } else s) := by
  subst word
  by_cases within : 600 ≤ bits v.toNat 0 12 ∧ bits v.toNat 0 12 ≤ 2100
  · rw [if_pos within]
    exact if_neg (by simp [live, Nat.not_lt.mpr within.1, Nat.not_lt.mpr within.2])
  · rw [if_neg within]
    exact if_pos (by simp [live]; omega)

end

/-! ## Power states (R513) -/

/-- Only the memory, the free values drawn and one tile's registers have changed. -/
def OnTile (k : Nat) (s t : State) : Prop :=
  t = { s with pwr := { s.pwr with tiles := t.pwr.tiles }, tiles := t.tiles, mem := t.mem, fresh := t.fresh } ∧
    ∀ j, j ≠ k → t.tpwr j = s.tpwr j ∧ t.tile j = s.tile j

section
variable {s t u : State} {k : Nat}

theorem OnTile.trans (first : OnTile k s t) (next : OnTile k t u) : OnTile k s u := by
  obtain ⟨frame, others⟩ := first
  obtain ⟨frame', others'⟩ := next
  refine ⟨?_, fun j other => ⟨(others' j other).1.trans (others j other).1, (others' j other).2.trans (others j other).2⟩⟩
  refine frame'.trans ?_
  rw [frame]

theorem State.updTpwr_onTile (s : State) (k : Nat) (f : TilePwr → TilePwr) : OnTile k s (s.updTpwr k f) :=
  ⟨rfl, fun _ other => ⟨State.updTpwr_tpwr_ne _ _ other, rfl⟩⟩

theorem State.updTile_onTile (s : State) (k : Nat) (f : Tile → Tile) : OnTile k s (s.updTile k f) :=
  ⟨rfl, fun _ other => ⟨rfl, State.updTile_tile_ne _ _ other⟩⟩

/-! ### Waking -/

theorem State.wakeTile_of_retain (retain : (s.tpwr k).st = .retain) :
    s.wakeTile k = s.updTpwr k (fun p => { p with st := .run, req := 0, wakeAt := some (s.ltu + 2000) }) := by
  simp only [State.wakeTile, retain]

theorem State.wakeTile_of_off (off : (s.tpwr k).st = .off) : s.wakeTile k =
    (s.updTpwr k (fun p => { p with st := .run, req := 0, wakeAt := some (s.ltu + 20000) })).updTile k (fun x => { x with resMib := 0, workValid := false }) := by
  simp only [State.wakeTile, off]

theorem State.wakeTile_of_awake (awake : (s.tpwr k).st = .run ∨ (s.tpwr k).st = .idle) : s.wakeTile k = s := by
  rcases awake with st | st <;> simp only [State.wakeTile, st]

theorem State.wakeTile_onTile (s : State) (k : Nat) : OnTile k s (s.wakeTile k) ∧ (s.wakeTile k).mem = s.mem := by
  cases st : (s.tpwr k).st with
  | run => rw [State.wakeTile_of_awake (.inl st)]; exact ⟨⟨rfl, fun _ _ => ⟨rfl, rfl⟩⟩, rfl⟩
  | idle => rw [State.wakeTile_of_awake (.inr st)]; exact ⟨⟨rfl, fun _ _ => ⟨rfl, rfl⟩⟩, rfl⟩
  | retain => rw [State.wakeTile_of_retain st]; exact ⟨State.updTpwr_onTile .., rfl⟩
  | off => rw [State.wakeTile_of_off st]; exact ⟨(State.updTpwr_onTile ..).trans (State.updTile_onTile ..), rfl⟩

/-! ### Powering down -/

/-- The accumulators of a tile that enters RETAIN or OFF (log 25). -/
def State.loseAcc (s : State) (k : Nat) : State :=
  s.draw.updTile k (fun x => { x with acc0 := Config.accAfterOff s.fresh, acc1 := Config.accAfterOff s.fresh })

theorem State.powerDownTile_retain (s : State) (k : Nat) : s.powerDownTile k false = s.loseAcc k := by
  unfold State.powerDownTile
  exact if_pos rfl

/-- A tile's scratchpad, by address. -/
def scratchOf (k a : Nat) : Bool := decide (tileBase k ≤ a) && decide (a < tileBase k + scratchBytes k)

theorem State.powerDownTile_off (s : State) (k : Nat) : s.powerDownTile k true = { (s.loseAcc k).draw with
    mem := (Config.memAfterReset (s.loseAcc k).fresh).foldl (fun m c => if scratchOf k c.1 then memSet m c.1 c.2 else m)
      (memZero (s.loseAcc k).mem (tileBase k) (scratchBytes k)) } := by
  unfold State.powerDownTile
  exact if_neg (by decide)

theorem State.loseAcc_onTile (s : State) (k : Nat) : OnTile k s (s.loseAcc k) := ⟨rfl, fun _ other => ⟨rfl, State.updTile_tile_ne _ _ other⟩⟩

theorem State.loseAcc_tile (s : State) (k : Nat) : ((s.loseAcc k).tile k).resMib = (s.tile k).resMib ∧ ((s.loseAcc k).tile k).workValid = (s.tile k).workValid := by
  rw [State.loseAcc, State.updTile_tile_self]
  exact ⟨rfl, rfl⟩

theorem State.powerDownTile_off_reads (s : State) (k : Nat) : OnTile k s (s.powerDownTile k true) ∧ (s.powerDownTile k true).tpwr k = s.tpwr k ∧
    ∀ a, a < tileBase k ∨ tileBase k + scratchBytes k ≤ a → memGet (s.powerDownTile k true).mem a = memGet s.mem a := by
  rw [State.powerDownTile_off]
  refine ⟨(s.loseAcc_onTile k).trans ⟨rfl, fun _ _ => ⟨rfl, rfl⟩⟩, rfl, fun a out => ?_⟩
  have kept : scratchOf k a = false := by
    rcases out with below | beyond
    · simp [scratchOf, Nat.not_le.mpr below]
    · simp [scratchOf, Nat.not_lt.mpr beyond]
  calc _ = memGet (memZero (s.loseAcc k).mem (tileBase k) (scratchBytes k)) a := memGet_foldl_memSet_of_skipped kept
    _ = memGet (s.loseAcc k).mem a := memGet_memZero_of_out out
    _ = memGet s.mem a := rfl

/-! ### A power state set -/

theorem State.setTpwr_run (s : State) (k : Nat) : s.setTpwr k 0 = (s.wakeTile k).updTpwr k (fun p => { p with st := .run, req := 0 }) := rfl

theorem State.setTpwr_idle (s : State) (k : Nat) : s.setTpwr k 1 = (s.wakeTile k).updTpwr k (fun p => { p with st := .idle, req := 1 }) := rfl

theorem State.setTpwr_retain (s : State) (k : Nat) : s.setTpwr k 2 =
    if (s.tpwr k).st = .retain then s.updTpwr k (fun p => { p with req := 2 })
    else ((s.wakeTile k).loseAcc k).updTpwr k (fun p => { p with st := .retain, req := 2, wakeAt := none }) := by
  rw [← State.powerDownTile_retain]
  rfl

theorem State.setTpwr_off (s : State) (k : Nat) : s.setTpwr k 3 =
    if (s.tpwr k).st = .off then s.updTpwr k (fun p => { p with req := 3 })
    else (s.powerDownTile k true).updTpwr k (fun p => { p with st := .off, req := 3, wakeAt := none }) := rfl

/-- The state a request names (R513). -/
def pwrStateOf (req : Nat) : TPwr := if req = 0 then .run else if req = 1 then .idle else if req = 2 then .retain else .off

theorem State.setTpwr_onTile {req : Nat} (valid : req ≤ 3) : OnTile k s (s.setTpwr k req) := by
  have wakes := (s.wakeTile_onTile k).1
  interval_cases req
  · rw [State.setTpwr_run]; exact wakes.trans (State.updTpwr_onTile ..)
  · rw [State.setTpwr_idle]; exact wakes.trans (State.updTpwr_onTile ..)
  · rw [State.setTpwr_retain]
    split
    · exact State.updTpwr_onTile ..
    · exact (wakes.trans (State.loseAcc_onTile ..)).trans (State.updTpwr_onTile ..)
  · rw [State.setTpwr_off]
    split
    · exact State.updTpwr_onTile ..
    · exact (s.powerDownTile_off_reads k).1.trans (State.updTpwr_onTile ..)

theorem State.setTpwr_tpwr {req : Nat} (valid : req ≤ 3) :
    ((s.setTpwr k req).tpwr k).req = req ∧ ((s.setTpwr k req).tpwr k).st = pwrStateOf req := by
  interval_cases req
  · rw [State.setTpwr_run, State.updTpwr_tpwr_self]; exact ⟨rfl, rfl⟩
  · rw [State.setTpwr_idle, State.updTpwr_tpwr_self]; exact ⟨rfl, rfl⟩
  · rw [State.setTpwr_retain]
    split
    · next retain => rw [State.updTpwr_tpwr_self]; exact ⟨rfl, retain⟩
    · rw [State.updTpwr_tpwr_self]; exact ⟨rfl, rfl⟩
  · rw [State.setTpwr_off]
    split
    · next off => rw [State.updTpwr_tpwr_self]; exact ⟨rfl, off⟩
    · rw [State.updTpwr_tpwr_self]; exact ⟨rfl, rfl⟩

theorem State.setTpwr_mem {req a : Nat} (valid : req ≤ 3) (kept : req ≠ 3 ∨ a < tileBase k ∨ tileBase k + scratchBytes k ≤ a) :
    memGet (s.setTpwr k req).mem a = memGet s.mem a := by
  have wakes := (s.wakeTile_onTile k).2
  interval_cases req
  · rw [State.setTpwr_run, ← wakes]; rfl
  · rw [State.setTpwr_idle, ← wakes]; rfl
  · rw [State.setTpwr_retain]
    split
    · rfl
    · rw [← wakes]; rfl
  · rw [State.setTpwr_off]
    split
    · rfl
    · exact (s.powerDownTile_off_reads k).2.2 a (kept.resolve_left (fun other => other rfl))

/-- A tile that leaves OFF has no resident region and no valid work (R513). -/
theorem State.setTpwr_from_off {req : Nat} (below : req < 3) (off : (s.tpwr k).st = .off) :
    ((s.setTpwr k req).tile k).resMib = 0 ∧ ((s.setTpwr k req).tile k).workValid = false := by
  have wakes : ((s.wakeTile k).tile k).resMib = 0 ∧ ((s.wakeTile k).tile k).workValid = false := by
    rw [State.wakeTile_of_off off, State.updTile_tile_self]
    exact ⟨rfl, rfl⟩
  interval_cases req
  · exact wakes
  · exact wakes
  · rw [State.setTpwr_retain, if_neg (by simp [off])]
    obtain ⟨res, work⟩ := (s.wakeTile k).loseAcc_tile k
    exact ⟨res.trans wakes.1, work.trans wakes.2⟩

/-- The time a tile wakes at is its waking's (R513). -/
theorem State.setTpwr_wakeAt {req : Nat} (below : req < 2) : ((s.setTpwr k req).tpwr k).wakeAt = ((s.wakeTile k).tpwr k).wakeAt ∧
    (s.setTpwr k req).tile k = (s.wakeTile k).tile k := by
  interval_cases req
  · rw [State.setTpwr_run, State.updTpwr_tpwr_self]; exact ⟨rfl, rfl⟩
  · rw [State.setTpwr_idle, State.updTpwr_tpwr_self]; exact ⟨rfl, rfl⟩

end

section
variable {s : State} {k : Fin 48}

theorem State.tileEmpty_iff {t : Nat} : s.tileEmpty t = true ↔ (s.tile t).cur = none ∧ (s.tile t).queue = [] := by
  simp [State.tileEmpty, Tile.idle]

theorem exec_tilePwrReq_of_live {req : BitVec 3} (live : s.live = true) : exec (.tilePwrReq k req) s =
    if (!(s.tileEmpty k.val) || decide (3 < req.toNat) || decide (s.cfg.dev.personality = 3) || (s.tpwr k.val).sweep) = true then .next s
    else .next (s.setTpwr k.val req.toNat) := by
  refine ite_congr (propext ?_) (fun _ => rfl) (fun _ => rfl)
  simp [live]

theorem exec_tileWake_of_live (live : s.live = true) : exec (.tileWake k) s = if (s.tile k.val).queue = [] then .next s else .next (s.wakeTile k.val) := by
  refine ite_congr (propext ?_) (fun _ => rfl) (fun _ => rfl)
  simp [live]

end

end Sys2Proof.Machine
end

section
/-!
Dividers, voltages, timers, the staging split, temperature and ageing (R512, R516 to R520, R523, R525 to R527): one equation for each command, what
AGE_SCHEDULER starts on each die, and, with the power states, `PowerCommands`.
-/
namespace Sys2Proof.Machine

/-! ## Dividers and voltage (R512, R526, R534) -/

section
variable {s : State} {k : Fin 48} {v : BitVec 32}

theorem divOk_iff {d : Nat} : divOk d = true ↔ d = 6 ∨ d = 7 ∨ d = 8 := by simp [divOk, or_assoc]

theorem exec_tileDivWrite_of_live {fw age : Nat} (live : s.live = true) (fwIs : bits v.toNat 4 3 = fw) (ageIs : bits v.toNat 0 3 = age) :
    exec (.tileDivWrite k v) s = .next (s.redivide (fun u => u.updTpwr k.val (fun p =>
      { p with fwDiv := if fw = 6 ∨ fw = 7 ∨ fw = 8 then fw else p.fwDiv, ageDiv := if age = 6 ∨ age = 7 ∨ age = 8 then age else p.ageDiv }))) := by
  subst fwIs ageIs
  refine (if_neg (by simp [live])).trans ?_
  simp only [divOk_iff]

theorem exec_tileVsetWrite_of_live {mv : Nat} (live : s.live = true) (word : bits v.toNat 0 12 = mv) : exec (.tileVsetWrite k v) s =
    if mv < 650 ∨ 850 < mv ∨ mv % 5 ≠ 0 then .next s
    else .next (s.updTpwr k.val (fun p => { p with vFrom := p.vdd s.ltu, vAt := s.ltu, vset := mv, vOn := true })) := by
  subst word
  refine ite_congr (propext ?_) (fun _ => rfl) (fun _ => rfl)
  simp [live, or_assoc]

end

/-! ## The local timer unit, the split and SYNC_IN (R516 to R520) -/

section
variable {s : State}

/-- A comparator that has fired: armed again a period on, or disabled (R517). -/
def Cmp.fires (c : Cmp) : Cmp := if c.period = 0 then { c with fired := true, enable := false } else { c with fired := true, mtch := (c.mtch + c.period) % 2 ^ 64 }

/-- A comparator fires, and SYNC_OUT where its ACTION drives it (R517, R519). -/
def State.fires (s : State) (k : Nat) : State :=
  { s with pwr := { s.pwr with cmps := Tbl.upd s.pwr.cmps k {} Cmp.fires, syncOut := if bit (s.cmp k).action 1 then s.ltu + 10 else s.pwr.syncOut } }

theorem State.fires_cmp_self (s : State) (k : Nat) : (s.fires k).cmp k = (s.cmp k).fires := Tbl.getD_upd_self s.pwr.cmps k {} Cmp.fires

theorem State.fires_cmp_ne {k j : Nat} (other : j ≠ k) : (s.fires k).cmp j = s.cmp j := Tbl.getD_upd_ne s.pwr.cmps _ _ _ other

theorem exec_comparatorFire_idle {k : Fin 64} (idle : s.boot.good = false ∨ s.boot.released = false ∨ (s.cmp k.val).enable = false ∨ s.ltu < (s.cmp k.val).mtch) :
    exec (.comparatorFire k) s = .next s := if_pos (by simpa [or_assoc] using idle)

theorem exec_comparatorFire_of_due {k : Fin 64} (good : s.boot.good = true) (released : s.boot.released = true) (enabled : (s.cmp k.val).enable = true)
    (due : (s.cmp k.val).mtch ≤ s.ltu) : exec (.comparatorFire k) s = match bit (s.cmp k.val).action 0 && s.live, (s.cmp k.val).owner with
      | true, some ld => .next ((s.fires k.val).eventTo ld (eventRaw 0xE5 0xFFFF k.val 0 s.ltu 0))
      | _, _ => .next (s.fires k.val) := by
  refine (if_neg (by simp [good, released, enabled, due])).trans ?_
  dsimp only [State.fires]
  cases bit (s.cmp k.val).action 1 <;> rfl

theorem exec_ltuBootWrite_of_live {v : BitVec 16} (live : s.live = true) : exec (.ltuBootWrite v) s =
    .next (if s.pwr.bootSet = true then s else { s with pwr := { s.pwr with boot := v.toNat, bootSet := true } }) := by
  by_cases set_ : s.pwr.bootSet = true
  · rw [if_pos set_]; exact if_pos (by simp [set_])
  · rw [if_neg set_]; exact if_neg (by simp [live, set_])

theorem exec_stageSplitWrite_of_live {v : BitVec 32} {u : Nat} (live : s.live = true) (word : bits v.toNat 0 5 = u) : exec (.stageSplitWrite v) s =
    if s.pwr.splitLocked = true ∨ 16 < u then .next s else .next (s.splitStaging u) := by
  subst word
  refine ite_congr (propext ?_) (fun _ => rfl) (fun _ => rfl)
  simp [live]

/-- The compressors with their shares of the split. -/
def State.shareComps (s : State) (units : Nat) : State := (List.range 4).foldl (fun s c => s.updComp c (fun x => { x with share := units })) s

theorem State.shareComps_reads (s : State) (units : Nat) : s.shareComps units = { s with comp := (s.shareComps units).comp } ∧
    ∀ c, (s.shareComps units).compOf c = if c ∈ List.range 4 then { s.compOf c with share := units } else s.compOf c :=
  foldl_each State.compOf (fun u => u = { s with comp := u.comp }) (fun _ x => { x with share := units })
    (fun u c _ kept => by rw [kept]; rfl) (fun u c _ _ => State.updComp_compOf_self ..) (fun u c _ j other _ => State.updComp_compOf_ne _ _ other)
    List.nodup_range rfl

theorem State.splitStaging_eq (s : State) (units : Nat) : s.splitStaging units = { s with
    pwr := { s.pwr with compUnits := units, dmaUnits := 256 - 4 * units, splitLocked := true }, comp := (s.splitStaging units).comp,
    fab := { s.fab with landSlots := Nat.min s.fab.landSlots (256 - 4 * units), landFree := Nat.min s.fab.landSlots (256 - 4 * units) } } ∧
    ∀ c, (s.splitStaging units).compOf c = if c ∈ List.range 4 then { s.compOf c with share := units } else s.compOf c := by
  obtain ⟨frame, comps⟩ := State.shareComps_reads { s with pwr := { s.pwr with compUnits := units, dmaUnits := 256 - 4 * units, splitLocked := true } } units
  generalize shared : State.shareComps _ units = u at frame comps
  have split : s.splitStaging units = { u with
      fab := { u.fab with landSlots := Nat.min u.fab.landSlots (256 - 4 * units), landFree := Nat.min u.fab.landSlots (256 - 4 * units) } } := by
    subst shared
    rfl
  rw [split]
  refine ⟨?_, comps⟩
  have fab : u.fab = s.fab := by rw [frame]
  rw [fab]
  refine (congrArg (fun u : State => { u with
    fab := { s.fab with landSlots := Nat.min s.fab.landSlots (256 - 4 * units), landFree := Nat.min s.fab.landSlots (256 - 4 * units) } }) frame).trans ?_
  rfl

/-- A pending SYNC list that this edge starts (R345, R519). -/
def State.syncStarts (s : State) (l : Link) : Bool := l.gates.pending && l.gates.sync && decide (l.gates.adminBase ≤ s.ltu) && l.gates.takeAt.isNone

/-- SYNC_IN's edge at one link. -/
def State.syncLink (s : State) (lk : Nat) : State :=
  if s.syncStarts (s.link lk) then s.updLink lk (fun l => { l with gates := { l.gates with takeAt := some (s.ltu + 1) } }) else s

theorem State.syncGates_eq (s : State) : s.syncGates = (List.range 36).foldl State.syncLink s := rfl

theorem State.syncGates_reads (s : State) : s.syncGates = { s with fab := s.syncGates.fab } ∧ ∀ lk, s.syncGates.link lk =
    if lk ∈ List.range 36 then (if s.syncStarts (s.link lk) then { s.link lk with gates := { (s.link lk).gates with takeAt := some (s.ltu + 1) } } else s.link lk)
    else s.link lk := by
  rw [State.syncGates_eq]
  refine foldl_each State.link (fun u => u = { s with fab := u.fab })
    (fun _ l => if s.syncStarts l then { l with gates := { l.gates with takeAt := some (s.ltu + 1) } } else l)
    (fun u lk _ kept => ?_) (fun u lk _ kept => ?_) (fun u lk _ j other _ => ?_) List.nodup_range rfl
  · rw [State.syncLink]
    split
    · rw [kept]; rfl
    · exact kept
  · have time : u.ltu = s.ltu := by rw [kept]
    have starts : u.syncStarts = s.syncStarts := by unfold State.syncStarts; rw [time]
    rw [State.syncLink, starts, time]
    split
    · exact State.updLink_link_self ..
    · rfl
  · rw [State.syncLink]
    split
    · exact State.updLink_link_ne _ _ other
    · rfl

theorem exec_syncInEdge_of_factory_none (live : s.live = true) (factory : s.sec.otp.lc = 2) (none_ : s.fcl.injectSync = none) :
    exec .syncInEdge s = .next s := by
  refine (if_neg (by simp [live])).trans ((if_pos (by simp [State.inFactory, factory])).trans ?_)
  simp only [none_]

theorem exec_syncInEdge_of_factory_some {src w : Nat} (live : s.live = true) (factory : s.sec.otp.lc = 2) (some_ : s.fcl.injectSync = some (src, w)) :
    exec .syncInEdge s = .next (State.injectPair { s with fcl := { s.fcl with injectSync := none } } src w) := by
  refine (if_neg (by simp [live])).trans ((if_pos (by simp [State.inFactory, factory])).trans ?_)
  simp only [some_]

theorem exec_syncInEdge_of_field (live : s.live = true) (field : s.sec.otp.lc ≠ 2) : exec .syncInEdge s = .next s.syncGates :=
  (if_neg (by simp [live])).trans (if_neg (by simp [State.inFactory, field]))

end

/-! ## Sweeps and plans (R525, R526) -/

section
variable {s : State} {k : Fin 48}

theorem State.dieSweeping_iff {t : Nat} : s.dieSweeping t = true ↔ ∃ j, j < 48 ∧ dieOfTile j = dieOfTile t ∧ (s.tpwr j).sweep = true := by
  simp [State.dieSweeping]

theorem exec_pdmSweep_of_live (live : s.live = true) : exec (.pdmSweep k) s =
    if (!(s.tileEmpty k.val) || s.dieSweeping k.val) = true then .next s else .next (s.updTpwr k.val (fun p => { p with sweep := true })) := by
  refine ite_congr (propext ?_) (fun _ => rfl) (fun _ => rfl)
  simp [live]

theorem exec_sweepDone_of_swept {d : List (List Nat)} (live : s.live = true) (sweeps : (s.tpwr k.val).sweep = true) :
    exec (.sweepDone k d) s = .next (s.planTile k.val d false) := if_neg (by simp [live, sweeps])

/-! A sweep's plan is put in by the body of `planTile` as a function: unfolded at its arguments, the kernel would evaluate `planOf d`. -/

variable {t : Nat} {d : List (List Nat)} {u : State}
  (swept : u = s.updTpwr t (fun p => { p with delays := d, sweep := false, sweptAt := s.ltu, leftOut := false, alarm := false }))
include swept

theorem State.planTile_of_none {now : Bool} (none_ : planOf d = none) : s.planTile t d now =
    (u.fence 1 t).devEvent 0xE4 t 8 (ofInt 32 ((periodPs 8 : Int) - (worstAt d 8 : Int))) := by
  subst swept
  generalize plans : State.planTile = f
  delta State.planTile at plans
  rw [← plans]
  simp only [none_]

theorem State.planTile_of_some {pl : Nat × Nat} {w : State} (plan : planOf d = some pl)
    (planned : w = u.updTpwr t (fun p => { p with plan := pl, v0 := if p.v0 = 0 then pl.1 else p.v0 })) : s.planTile t d false =
      if pl = (s.tpwr t).plan then w
      else (w.updTpwr t (fun p => { p with next := some pl })).devEvent 0xE3 t (pl.1 + pl.2 * 65536) (marginUsed (if (s.tpwr t).v0 = 0 then pl.1 else (s.tpwr t).v0) pl) := by
  subst planned swept
  generalize plans : State.planTile = f
  delta State.planTile at plans
  rw [← plans]
  simp only [plan, State.updTpwr_tpwr_self, Bool.false_eq_true, if_false]
  by_cases same : pl = (s.tpwr t).plan
  · simp only [if_pos same]
  · simp only [if_neg same, State.updTpwr_tpwr_self]

end

/-! ## AGE_SCHEDULER (R525, R527) -/

theorem dieOfTile_tileOfLocal {d i : Nat} (low : d < 4) (index : i < 12) : dieOfTile (tileOfLocal d i) = d ∧ tileOfLocal d i < 48 := by
  unfold dieOfTile tileOfLocal
  split_ifs <;> omega

theorem dieOfTile_lt {k : Nat} (low : k < 48) : dieOfTile k < 4 := by
  unfold dieOfTile
  split_ifs <;> omega

/-- Of two tiles that are due, the one AGE_SCHEDULER keeps: an alarm first, else the one swept longer ago, else the earlier. -/
def sweepFirst (alarm : Nat → Bool) (at_ : Nat → Nat) (b : Option Nat) (t : Nat) : Option Nat :=
  match b with
  | none => some t
  | some k => if alarm k then some k else if alarm t || at_ t < at_ k then some t else some k

/-- No tile of the list was swept before tile `t`. -/
def sweptFirst (at_ : Nat → Nat) (due : List Nat) (t : Nat) : Bool := due.all (fun k => decide (at_ t ≤ at_ k))

theorem sweptFirst_iff {at_ : Nat → Nat} {due : List Nat} {t : Nat} : sweptFirst at_ due t = true ↔ ∀ k ∈ due, at_ t ≤ at_ k := by
  simp [sweptFirst]

/-- The first tile with an alarm, else the first of those swept longest ago. -/
def sweepBest (alarm : Nat → Bool) (at_ : Nat → Nat) (due : List Nat) : Option Nat :=
  match due.find? alarm with
  | some t => some t
  | none => due.find? (sweptFirst at_ due)

theorem foldl_sweepFirst_of_alarm {alarm : Nat → Bool} {at_ : Nat → Nat} {k : Nat} (alarms : alarm k = true) (ts : List Nat) :
    ts.foldl (sweepFirst alarm at_) (some k) = some k := by
  induction ts with
  | nil => rfl
  | cons t ts ih => rw [List.foldl_cons, sweepFirst, if_pos alarms, ih]

theorem sweepBest_of_alarm {alarm : Nat → Bool} {at_ : Nat → Nat} {k : Nat} (alarms : alarm k = true) (ts : List Nat) :
    sweepBest alarm at_ (k :: ts) = some k := by
  simp only [sweepBest, List.find?_cons_of_pos alarms]

/-- A tile without alarm that another one precedes is no candidate. -/
theorem sweepBest_drop {alarm : Nat → Bool} {at_ : Nat → Nat} {k t : Nat} (quiet : alarm k = false) (yields : alarm t = true ∨ at_ t < at_ k) (ts : List Nat) :
    sweepBest alarm at_ (k :: t :: ts) = sweepBest alarm at_ (t :: ts) := by
  simp only [sweepBest, List.find?_cons_of_neg (by simp [quiet] : ¬ alarm k = true)]
  cases first : (t :: ts).find? alarm with
  | some _ => rfl
  | none =>
    have later : at_ t < at_ k := yields.resolve_left fun alarms => by
      simp [alarms] at first
    have out : ¬ sweptFirst at_ (k :: t :: ts) k = true := fun least => by
      have := sweptFirst_iff.mp least t (.tail _ (.head _))
      omega
    dsimp only
    rw [List.find?_cons_of_neg out]
    refine List.find?_congr fun j _ => ?_
    rw [Bool.eq_iff_iff, sweptFirst_iff, sweptFirst_iff]
    refine ⟨fun least i mem => least i (.tail _ mem), fun least i mem => ?_⟩
    rcases List.mem_cons.mp mem with rfl | mem
    · exact (least t (.head _)).trans later.le
    · exact least i mem

/-- A tile that yields to the one before it is no candidate. -/
theorem sweepBest_skip {alarm : Nat → Bool} {at_ : Nat → Nat} {k t : Nat} (quiet : alarm k = false) (stays : alarm t = false) (before : at_ k ≤ at_ t)
    (ts : List Nat) : sweepBest alarm at_ (k :: t :: ts) = sweepBest alarm at_ (k :: ts) := by
  have same : (k :: t :: ts).find? alarm = (k :: ts).find? alarm := by simp [quiet, stays]
  rw [sweepBest, sweepBest, same]
  cases first : (k :: ts).find? alarm with
  | some _ => rfl
  | none =>
    have all_ : sweptFirst at_ (k :: t :: ts) = sweptFirst at_ (k :: ts) := by
      funext j
      rw [Bool.eq_iff_iff, sweptFirst_iff, sweptFirst_iff]
      refine ⟨fun least i mem => least i ?_, fun least i mem => ?_⟩
      · rcases List.mem_cons.mp mem with rfl | mem
        · exact .head _
        · exact .tail _ (.tail _ mem)
      · rcases List.mem_cons.mp mem with rfl | mem
        · exact least i (.head _)
        · rcases List.mem_cons.mp mem with rfl | mem
          · exact (least k (.head _)).trans before
          · exact least i (.tail _ mem)
    dsimp only
    rw [all_]
    by_cases least : sweptFirst at_ (k :: ts) k = true
    · rw [List.find?_cons_of_pos least, List.find?_cons_of_pos least]
    · have later : ¬ sweptFirst at_ (k :: ts) t = true := fun low =>
        least (sweptFirst_iff.mpr fun i mem => before.trans (sweptFirst_iff.mp low i mem))
      rw [List.find?_cons_of_neg least, List.find?_cons_of_neg least, List.find?_cons_of_neg later]

theorem foldl_sweepFirst_some (alarm : Nat → Bool) (at_ : Nat → Nat) (k : Nat) (ts : List Nat) :
    ts.foldl (sweepFirst alarm at_) (some k) = sweepBest alarm at_ (k :: ts) := by
  induction ts generalizing k with
  | nil =>
    cases quiet : alarm k with
    | true => rw [sweepBest_of_alarm quiet]; rfl
    | false => simp [sweepBest, sweptFirst, quiet]
  | cons t ts ih =>
    cases quiet : alarm k with
    | true => rw [foldl_sweepFirst_of_alarm quiet, sweepBest_of_alarm quiet]
    | false =>
      rw [List.foldl_cons, sweepFirst, if_neg (by simp [quiet])]
      split
      · next yields =>
        rw [ih, sweepBest_drop quiet (by simpa using yields)]
      · next stays =>
        simp only [Bool.or_eq_true, decide_eq_true_eq, not_or, Bool.not_eq_true, Nat.not_lt] at stays
        rw [ih, sweepBest_skip quiet stays.1 stays.2]

theorem foldl_sweepFirst (alarm : Nat → Bool) (at_ : Nat → Nat) (due : List Nat) : due.foldl (sweepFirst alarm at_) none = sweepBest alarm at_ due := by
  cases due with
  | nil => rfl
  | cons k ts => exact foldl_sweepFirst_some alarm at_ k ts

/-- The tiles of a die that AGE_SCHEDULER may have swept: without work, with an alarm or not swept for 12 h. -/
def State.sweepDue (s : State) (d : Nat) : List Nat :=
  ((List.range 12).map (tileOfLocal d)).filter (fun t => s.tileEmpty t && ((s.tpwr t).alarm || decide (12 * hour ≤ s.ltu - (s.tpwr t).sweptAt)))

theorem State.sweepPick_eq (s : State) (d : Nat) :
    Claims.sweepPick s d = sweepBest (fun t => (s.tpwr t).alarm) (fun t => (s.tpwr t).sweptAt) (s.sweepDue d) := by
  unfold Claims.sweepPick State.sweepDue State.tileEmpty Tile.idle
  rfl

/-- A die's pick is one of its tiles. -/
theorem State.sweepPick_dieOfTile {s : State} {d t : Nat} (low : d < 4) (pick : Claims.sweepPick s d = some t) : dieOfTile t = d ∧ t < 48 := by
  have mem : t ∈ s.sweepDue d := by
    rw [State.sweepPick_eq, sweepBest] at pick
    split at pick
    · next first => cases pick; exact List.mem_of_find?_eq_some first
    · exact List.mem_of_find?_eq_some pick
  obtain ⟨at_, _⟩ := List.mem_filter.mp mem
  obtain ⟨i, index, rfl⟩ := List.mem_map.mp at_
  exact dieOfTile_tileOfLocal low (List.mem_range.mp index)

/-- AGE_SCHEDULER at one die: its pick is swept, unless another tile of the die is. -/
def State.sweepDie (s : State) (d : Nat) : State :=
  match Claims.sweepPick s d with
  | some t => if s.dieSweeping t then s else s.updTpwr t (fun p => { p with sweep := true })
  | none => s

/-- AGE_SCHEDULER at one tile: 23 h without a window leave it out of a step (log 25). -/
def State.leaveOut (s : State) (t : Nat) : State :=
  if !(s.tpwr t).sweep && decide (23 * hour ≤ s.ltu - (s.tpwr t).sweptAt) then s.updTpwr t (fun p => { p with leftOut := true }) else s

theorem exec_ageScheduler_of_live {s : State} (live : s.live = true) :
    exec .ageScheduler s = .next ((List.range 48).foldl State.leaveOut ((List.range 4).foldl State.sweepDie s)) := by
  have dies : ∀ (u : State) (d : Nat), u.sweepDie d = match ((u.sweepDue d).foldl
      (sweepFirst (fun t => (u.tpwr t).alarm) (fun t => (u.tpwr t).sweptAt)) none) with
      | some t => if u.dieSweeping t then u else u.updTpwr t (fun p => { p with sweep := true })
      | none => u := fun u d => by
    rw [State.sweepDie, State.sweepPick_eq, foldl_sweepFirst]
  have run : State.sweepDie = _ := funext fun u => funext fun d => dies u d
  refine (if_neg (by simp [live])).trans ?_
  rw [run]
  rfl

/-- While AGE_SCHEDULER picks, the tiles' registers stand but for `sweep`. -/
def SweepsOnly (s u : State) : Prop :=
  u = { s with pwr := { s.pwr with tiles := u.pwr.tiles } } ∧ ∀ k, u.tpwr k = { s.tpwr k with sweep := (u.tpwr k).sweep }

theorem SweepsOnly.sweepPick {s u : State} (only : SweepsOnly s u) (d : Nat) : Claims.sweepPick u d = Claims.sweepPick s d := by
  obtain ⟨frame, tiles⟩ := only
  have alarm : (fun t => (u.tpwr t).alarm) = fun t => (s.tpwr t).alarm := funext fun t => by rw [tiles]
  have swept : (fun t => (u.tpwr t).sweptAt) = fun t => (s.tpwr t).sweptAt := funext fun t => by rw [tiles]
  have empty : u.tileEmpty = s.tileEmpty := by rw [frame]; rfl
  have time : u.ltu = s.ltu := by rw [frame]
  have due : u.sweepDue d = s.sweepDue d := by
    unfold State.sweepDue
    rw [empty, time]
    exact List.filter_congr fun t _ => by rw [congrFun alarm t, congrFun swept t]
  rw [State.sweepPick_eq, State.sweepPick_eq, alarm, swept, due]

theorem SweepsOnly.sweepDie {s u : State} (only : SweepsOnly s u) (d : Nat) : SweepsOnly s (u.sweepDie d) := by
  rw [State.sweepDie]
  split
  · next t pick =>
    split
    · exact only
    · obtain ⟨frame, tiles⟩ := only
      refine ⟨by rw [frame]; rfl, fun k => ?_⟩
      by_cases here : k = t
      · subst here
        rw [State.updTpwr_tpwr_self, tiles]
      · rw [State.updTpwr_tpwr_ne _ _ here]
        exact tiles k
  · exact only

/-- The tiles of a die that are being swept. -/
def State.sweptOn (s : State) (d k : Nat) : Bool := decide (dieOfTile k = d) && (s.tpwr k).sweep

/-- The sweeps of a die once AGE_SCHEDULER has been at it. -/
def State.sweepsAfter (s : State) (d : Nat) (v : Nat → Bool) (k : Nat) : Bool := v k || (decide (Claims.sweepPick s d = some k) && !(List.range 48).any v)

theorem State.sweepDie_own {s u : State} {d : Nat} (low : d < 4) (only : SweepsOnly s u) : (u.sweepDie d).sweptOn d = s.sweepsAfter d (u.sweptOn d) := by
  funext k
  rw [State.sweepDie, only.sweepPick, State.sweepsAfter]
  cases pick : Claims.sweepPick s d with
  | none => simp
  | some t =>
    obtain ⟨die, _⟩ := State.sweepPick_dieOfTile low pick
    have busy : u.dieSweeping t = (List.range 48).any (u.sweptOn d) := by rw [State.dieSweeping, die]; rfl
    dsimp only
    rw [busy]
    cases (List.range 48).any (u.sweptOn d) with
    | true => simp
    | false =>
      simp only [Bool.false_eq_true, if_false, Bool.not_false, Bool.and_true, State.sweptOn]
      by_cases here : k = t
      · subst here
        rw [State.updTpwr_tpwr_self]
        simp [die]
      · rw [State.updTpwr_tpwr_ne _ _ here]
        simp [Ne.symm here]

theorem State.sweepDie_others {s u : State} {d e : Nat} (low : d < 4) (other : e ≠ d) (only : SweepsOnly s u) : (u.sweepDie d).sweptOn e = u.sweptOn e := by
  funext k
  rw [State.sweepDie, only.sweepPick]
  cases pick : Claims.sweepPick s d with
  | none => rfl
  | some t =>
    obtain ⟨die, _⟩ := State.sweepPick_dieOfTile low pick
    dsimp only
    split
    · rfl
    · by_cases here : k = t
      · subst here
        simp [State.sweptOn, die, Ne.symm other]
      · rw [State.sweptOn, State.updTpwr_tpwr_ne _ _ here]
        rfl

theorem State.foldl_sweepDie (s : State) : SweepsOnly s ((List.range 4).foldl State.sweepDie s) ∧ ∀ k, k < 48 →
    (((List.range 4).foldl State.sweepDie s).tpwr k).sweep = ((s.tpwr k).sweep || (decide (Claims.sweepPick s (dieOfTile k) = some k) &&
      !(List.range 48).any (fun j => decide (dieOfTile j = dieOfTile k) && (s.tpwr j).sweep))) := by
  obtain ⟨only, sweeps⟩ := foldl_each State.sweptOn (SweepsOnly s) s.sweepsAfter (fun u d _ kept => kept.sweepDie d)
    (fun u d mem kept => State.sweepDie_own (List.mem_range.mp mem) kept) (fun u d mem e other kept => State.sweepDie_others (List.mem_range.mp mem) other kept)
    (List.nodup_range (n := 4)) (s := s) ⟨rfl, fun k => rfl⟩
  refine ⟨only, fun k low => ?_⟩
  have at_ := congrFun (sweeps (dieOfTile k)) k
  have own : ∀ u : State, u.sweptOn (dieOfTile k) k = (u.tpwr k).sweep := fun u => by simp [State.sweptOn]
  rw [if_pos (List.mem_range.mpr (dieOfTile_lt low)), State.sweepsAfter, own, own] at at_
  exact at_

theorem State.foldl_leaveOut (s : State) : (List.range 48).foldl State.leaveOut s = { s with
    pwr := { s.pwr with tiles := ((List.range 48).foldl State.leaveOut s).pwr.tiles } } ∧ ∀ k, ((List.range 48).foldl State.leaveOut s).tpwr k =
      if k ∈ List.range 48 then { s.tpwr k with leftOut := (s.tpwr k).leftOut || (!(s.tpwr k).sweep && decide (23 * hour ≤ s.ltu - (s.tpwr k).sweptAt)) }
      else s.tpwr k := by
  refine foldl_each State.tpwr (fun u => u = { s with pwr := { s.pwr with tiles := u.pwr.tiles } })
    (fun _ p => { p with leftOut := p.leftOut || (!p.sweep && decide (23 * hour ≤ s.ltu - p.sweptAt)) })
    (fun u t _ kept => ?_) (fun u t _ kept => ?_) (fun u t _ j other _ => ?_) List.nodup_range rfl
  · rw [State.leaveOut]
    split
    · rw [kept]; rfl
    · exact kept
  · have time : u.ltu = s.ltu := by rw [kept]
    rw [State.leaveOut, time]
    split
    · next long => rw [State.updTpwr_tpwr_self, long, Bool.or_true]
    · next short =>
      simp only [Bool.not_eq_true] at short
      rw [short, Bool.or_false]
  · rw [State.leaveOut]
    split
    · exact State.updTpwr_tpwr_ne _ _ other
    · rfl

/-! ## In-situ slack and temperature (R523, R527) -/

section
variable {s : State}

theorem exec_insituSlackCheck_idle {k : Fin 48} {slack : List Int} (live : s.live = true)
    (idle : (s.tpwr k.val).insitu = false ∨ (s.tpwr k.val).st = .off ∨ (s.tpwr k.val).st = .retain) : exec (.insituSlackCheck k slack) s = .next s :=
  if_pos (by simpa [live, or_assoc] using idle)

theorem exec_insituSlackCheck_of_on {k : Fin 48} {slack : List Int} {u : State} (live : s.live = true) (insitu : (s.tpwr k.val).insitu = true)
    (on : (s.tpwr k.val).st = .run ∨ (s.tpwr k.val).st = .idle) (taken : u = s.updTpwr k.val (fun p => { p with slack := slack.take 16 })) :
    exec (.insituSlackCheck k slack) s = if (slack.take 16).any (fun x => decide (x < 20)) = true then
        .next ((u.updTpwr k.val (fun p => { p with alarm := true })).raise (0x3D0 + k.val))
      else .next u := by
  subst taken
  refine if_neg ?_
  rcases on with run | idle
  · simp [live, insitu, run]
  · simp [live, insitu, idle]

/-- The limits of R523 are 10 degrees apart, and each level stands until 5 degrees below its own. -/
theorem thermLevel_eq (site was : Nat) (t : Int) : thermLevel site was t = (let w : Int := if site < 7 then 95 else 85
    if w + 20 ≤ t ∨ (3 ≤ was ∧ w + 15 < t) then 3 else if w + 10 ≤ t ∨ (2 ≤ was ∧ w + 5 < t) then 2 else if w ≤ t ∨ (1 ≤ was ∧ w - 5 < t) then 1 else 0) := by
  by_cases low : site < 7 <;>
    simp only [thermLevel, thermLimits, low, if_true, if_false, Bool.or_eq_true, Bool.and_eq_true, decide_eq_true_eq] <;> rfl

/-- WARN's effect at a site: the dividers of its die's tiles go up one step (R523; log 56). -/
def State.warned (s : State) (site : Nat) : State :=
  (s.raise 0x3C3).redivide (fun x => (List.range 48).foldl (fun s k =>
    if heatDie site = some (dieOfTile k) then s.updTpwr k (fun p => { p with fwDiv := Nat.min 8 (p.fwDiv + 1) }) else s) x)

theorem State.warned_eq (s : State) (site : Nat) : (s.raise 0x3C3).raiseDiv ((List.range 48).filter (fun t => heatDie site == some (dieOfTile t))) = s.warned site := by
  unfold State.raiseDiv State.warned
  refine congrArg _ (funext fun x => ?_)
  rw [List.foldl_filter]
  simp only [beq_iff_eq]

/-- THROTTLE's effect as a site's level passes it (R523). -/
def State.throttled (v : State) (site was lvl : Nat) : State :=
  if was < 2 ∧ 2 ≤ lvl then ((v.redivide (fun x => { x with pwr := { x.pwr with clampTherm := site :: x.pwr.clampTherm } })).raise 0x3C4).clampEvent 3 site
  else if 2 ≤ was ∧ lvl < 2 then (v.redivide (fun x => { x with pwr := { x.pwr with clampTherm := x.pwr.clampTherm.filter (· ≠ site) } })).clampEvent 0 site else v

theorem exec_thermalSample_of_live {site : Fin 32} {temp : Int} {lvl was : Nat} {u v w : State} (live : s.live = true) (there : site.val ≠ 7)
    (level : thermLevel site.val (s.therm site.val).level temp = lvl) (before : (s.therm site.val).level = was)
    (latched : u = { s with pwr := { s.pwr with therm := Tbl.put s.pwr.therm site.val ⟨lvl, temp⟩ } }) (warns : v = if was = 0 then u.warned site.val else u)
    (throttles : w = v.throttled site.val was lvl) : exec (.thermalSample site temp) s =
      if lvl = was then .next u else if lvl = 3 then .next (w.raise 0x3C5).sample else .next (w.devEvent 0xE2 site.val lvl (ofInt 32 temp)) := by
  subst throttles warns latched level before
  refine (if_neg (by simp [live, there])).trans ?_
  simp only [State.warned_eq, State.throttled, Bool.and_eq_true, decide_eq_true_eq]

end

/-- Settles O58: limits, power states, dividers, timers, sweeps and temperature by their guards, as above. Clamps of heat and of the supply end with their
cause, that of power by CLAMP_CLR alone, WARN raises FW_DIV one step with 5 degrees of hysteresis (log 56), TRIP samples at once (log 55), and RETAIN and OFF
leave free values in the accumulators (log 25). -/
theorem powerCommands : Obligations.PowerCommands := by
  unfold Obligations.PowerCommands
  refine ⟨fun s f => ⟨s.counted, s.counted_accounts, s.redivide_eq f⟩, fun s k f => ⟨s.updTpwr_only k f, State.updTpwr_tpwr_self ..⟩, fun s c k => rfl,
    fun s a b c v k q w d slack site temp off i => exec_power_off off, ?report, ?clear, ?supply, fun s v w => exec_pwrCapWrite_of_live, ?state, ?wake,
    fun s k v fw age => exec_tileDivWrite_of_live, ?voltage, ?comparator, fun s v => exec_ltuBootWrite_of_live, ?split, ?sync, ?sweep, ?swept, ?scheduler,
    ?insitu, ?thermal, thermLevel_eq⟩
  case report =>
    intro s a b c live
    rw [exec_powerReport_of_live live]
    exact ⟨fun held => if_pos (by simpa using held), fun high free => if_neg (by simp [high, free])⟩
  case clear =>
    intro s live
    rw [exec_clampClr_of_live live]
    refine ⟨fun power vin therm below => if_neg (by simp [State.releases, power, vin, therm, below]), fun held => if_pos ?_⟩
    rcases held with h | h | h | h <;> simp [State.releases, h]
  case supply =>
    intro s mv
    refine ⟨exec_vinRange_of_bad, fun good far => ?_, fun low high idle => ?_, fun near live free => ?_, fun low high live held => ?_⟩
    · rw [exec_vinRange_of_good good, if_pos far]
    · by_cases good : s.boot.good = true
      · rw [exec_vinRange_of_good good, if_neg (by omega)]
        rcases idle with off | same
        · rw [if_pos off]
        · by_cases near : mv < 48000 ∨ 60000 < mv <;> simp [near, same]
      · exact exec_vinRange_of_bad (by simpa using good)
    · rw [exec_vinRange_of_good (State.live_good live), if_neg (by omega), if_neg (by simp [live]), if_pos (by omega), if_neg (by simp [free])]
    · rw [exec_vinRange_of_good (State.live_good live), if_neg (by omega), if_neg (by simp [live]), if_neg (by omega), if_pos held]
  case state =>
    intro s k req live
    rw [exec_tilePwrReq_of_live live]
    refine ⟨fun refused => if_pos ?_, fun idle empty valid there still => ⟨_, if_neg ?_, rfl, ?_⟩⟩
    · simp only [Bool.or_eq_true, Bool.not_eq_true', decide_eq_true_eq, ← Bool.not_eq_true, State.tileEmpty_iff, not_and_or]
      rcases refused with busy | waiting | bad | cache | sweeps
      · exact .inl (.inl (.inl (.inl (by simpa [Option.isSome_iff_ne_none] using busy))))
      · exact .inl (.inl (.inl (.inr waiting)))
      · exact .inl (.inl (.inr bad))
      · exact .inl (.inr cache)
      · exact .inr sweeps
    · simp [State.tileEmpty_iff.mpr ⟨idle, empty⟩, there, still, valid]
    · obtain ⟨frame, others⟩ := State.setTpwr_onTile (s := s) (k := k.val) valid
      obtain ⟨requested, st⟩ := State.setTpwr_tpwr (s := s) (k := k.val) valid
      refine ⟨frame, requested, st, others, fun a => State.setTpwr_mem valid, fun off below => State.setTpwr_from_off (by omega) off,
        fun below retain => ?_, fun below off => ?_⟩
      · obtain ⟨at_, tile⟩ := State.setTpwr_wakeAt (s := s) (k := k.val) below
        rw [at_, tile, State.wakeTile_of_retain retain, State.updTpwr_tpwr_self]
        exact ⟨rfl, rfl⟩
      · rw [(State.setTpwr_wakeAt below).1, State.wakeTile_of_off off, State.updTile_tpwr, State.updTpwr_tpwr_self]
  case wake =>
    intro s k live
    rw [exec_tileWake_of_live live]
    refine ⟨fun idle => ?_, fun waiting retain => ?_, fun waiting off => ?_⟩
    · by_cases empty : (s.tile k.val).queue = []
      · exact if_pos empty
      · rw [if_neg empty, State.wakeTile_of_awake (idle.resolve_left empty)]
    · rw [if_neg waiting, State.wakeTile_of_retain retain]
    · rw [if_neg waiting, State.wakeTile_of_off off]
  case voltage =>
    intro s k v mv live word
    rw [exec_tileVsetWrite_of_live live word]
    exact ⟨fun bad => if_pos bad, fun low high step => if_neg (by omega)⟩
  case comparator =>
    rintro s k c rfl
    refine ⟨exec_comparatorFire_idle, fun good released enabled due => ⟨s.fires k.val, rfl, s.fires_cmp_self k.val, fun j => State.fires_cmp_ne,
      fun silent => ?_, fun ld posts live owner => ?_⟩⟩ <;> rw [exec_comparatorFire_of_due good released enabled due]
    · rcases silent with quiet | off | free
      · rw [quiet]; rfl
      · rw [off, Bool.and_false]
      · rw [free]; cases bit (s.cmp k.val).action 0 && s.live <;> rfl
    · rw [posts, live, owner]; rfl
  case split =>
    intro s v u live word
    rw [exec_stageSplitWrite_of_live live word]
    obtain ⟨frame, comps⟩ := s.splitStaging_eq u
    exact ⟨fun refused => if_pos refused, fun open_ valid => ⟨_, if_neg (by simp [open_, valid]), rfl, frame,
      fun c low => (comps c).trans (if_pos (List.mem_range.mpr low)), fun c high => (comps c).trans (if_neg (by simpa using high))⟩⟩
  case sync =>
    refine fun s live => ⟨exec_syncInEdge_of_factory_none live, fun src w => exec_syncInEdge_of_factory_some live,
      fun field => ⟨_, exec_syncInEdge_of_field live field, rfl, s.syncGates_reads.1, fun lk low => ?_⟩⟩
    rw [s.syncGates_reads.2, if_pos (List.mem_range.mpr low)]
    refine ite_congr (propext ?_) (fun _ => rfl) (fun _ => rfl)
    simp [State.syncStarts, and_assoc]
  case sweep =>
    intro s k live
    rw [exec_pdmSweep_of_live live]
    refine ⟨fun refused => if_pos ?_, fun idle empty still => if_neg ?_⟩
    · simp only [Bool.or_eq_true, Bool.not_eq_true', ← Bool.not_eq_true, State.tileEmpty_iff, not_and_or, State.dieSweeping_iff]
      rcases refused with busy | waiting | sweeps
      · exact .inl (.inl (by simpa [Option.isSome_iff_ne_none] using busy))
      · exact .inl (.inr waiting)
      · exact .inr sweeps
    · simp only [Bool.or_eq_true, Bool.not_eq_true', ← Bool.not_eq_true, State.tileEmpty_iff, State.dieSweeping_iff]
      rintro (busy | ⟨j, low, die, sweeps⟩)
      · exact busy ⟨idle, empty⟩
      · exact absurd sweeps (by simp [still j low die])
  case swept =>
    intro s k d live
    refine ⟨fun still => if_pos (by simp [still]), fun sweeps => ⟨_, rfl, fun none_ => ?_, fun pl plan => ⟨_, rfl, fun same => ?_, fun other => ?_⟩⟩⟩ <;>
      rw [exec_sweepDone_of_swept live sweeps]
    · rw [State.planTile_of_none rfl none_]
    · rw [State.planTile_of_some rfl plan rfl, if_pos same]
    · rw [State.planTile_of_some rfl plan rfl, if_neg other]
  case scheduler =>
    refine fun s live => ⟨_, exec_ageScheduler_of_live live, ?_, fun k low => ?_⟩
    · refine (State.foldl_leaveOut _).1.trans ?_
      rw [s.foldl_sweepDie.1.1]
    · obtain ⟨⟨frame, tiles⟩, sweeps⟩ := s.foldl_sweepDie
      have time : ((List.range 4).foldl State.sweepDie s).ltu = s.ltu := by rw [frame]
      have reads := (State.foldl_leaveOut ((List.range 4).foldl State.sweepDie s)).2 k
      rw [if_pos (List.mem_range.mpr low), time] at reads
      rw [reads]
      refine ⟨?_, sweeps k low⟩
      rw [tiles]
  case insitu =>
    intro s k slack live
    refine ⟨exec_insituSlackCheck_idle live, fun insitu on => ⟨_, rfl, fun wide => ?_, fun narrow => ?_⟩⟩ <;>
      rw [exec_insituSlackCheck_of_on live insitu on rfl]
    · exact if_neg (by simpa using wide)
    · exact if_pos (by simpa using narrow)
  case thermal =>
    intro s site temp lvl was live level before
    refine ⟨fun none_ => if_pos (by simp [none_]), fun there => ⟨{ s with pwr := { s.pwr with therm := Tbl.put s.pwr.therm site.val ⟨lvl, temp⟩ } }, _, _, rfl,
      Tbl.getD_put_self .., fun j => Tbl.getD_put_ne _ _ _, rfl, rfl, fun same => ?_, fun other trip => ?_, fun other below => ?_⟩⟩ <;>
      rw [exec_thermalSample_of_live live there level before rfl rfl rfl]
    · exact if_pos same
    · exact (if_neg other).trans (if_pos trip)
    · exact (if_neg other).trans (if_neg below)

end Sys2Proof.Machine
end

section
/-!
Supply and reset (R498, R503, R507, R541 to R545, R547): what a wipe, a reset of the device, power and the rails leave, and the progress record.
-/
namespace Sys2Proof.Machine

section
variable {s : State}

/-! ## The wipe and the reset (R498, R503, R507, R543) -/

theorem State.wipe_wiped (s : State) : Claims.wiped s s.wipe :=
  ⟨rfl, fun _ low high => memGet_memZero_of_in low high, fun _ out => memGet_memZero_of_out out,
    fun ld => Tbl.getD_mapAll s.sec.spdm (fun r => { r with sessions := [] }) ld {} rfl⟩

theorem State.trip_tripped (s : State) (k : Nat) : Claims.tripped s (s.trip k) k := ⟨s.wipe, s.wipe_wiped, rfl⟩

theorem memGet_memAfter_of_kept {a : Nat} (kept : resetLoses a = false) : memGet s.memAfter a = memGet s.mem a := by
  refine (memGet_foldl_memSet_of_skipped kept).trans (memGet_filter_of_kept fun c _ here => ?_)
  rw [here, kept]
  rfl

theorem resetLoses_of_sbw {a : Nat} (sbw : regionOf a = .sbw) : resetLoses a = false := by rw [resetLoses, sbw]

theorem State.deviceReset_resets (s : State) (cause : Nat) (released : Bool) : Claims.resetTo s (s.deviceReset cause released) cause released :=
  ⟨rfl, fun _ sbw => memGet_memAfter_of_kept (resetLoses_of_sbw sbw),
    fun b => Tbl.getD_mapAll s.ftl.blk (fun x => { x with reads := 0 }) b {} rfl, rfl,
    fun k => Tbl.getD_mapAll s.pwr.tiles (fun p => { v0 := p.v0 }) k {} rfl⟩

theorem exec_tamperTrip_of_good {src : Fin 5} (good : s.boot.good = true) : exec (.tamperTrip src) s = .next (s.trip src.val) := if_neg (by simp [good])

theorem exec_tamperTrip_off {src : Fin 5} (off : s.boot.good = false) : exec (.tamperTrip src) s = .next s := if_pos (by simp [off])

theorem exec_secWipeWrite_idle {key : BitVec 8} (idle : s.live = false ∨ key ≠ 0x5A#8) : exec (.secWipeWrite key) s = .next s := if_pos (by simpa using idle)

theorem exec_secWipeWrite_of_key {key : BitVec 8} (live : s.live = true) (right : key = 0x5A#8) : exec (.secWipeWrite key) s = .next s.wipe :=
  if_neg (by simp [live, right])

/-! ## Power and the rails (R541 to R545) -/

/-- Memory once power is up: the SBW holds what power leaves there (R541, R552). -/
def State.memPowered (s : State) : List Host.Cell :=
  (Config.sbwAfterPower s.fresh).foldl (fun m c => if regionOf c.1 = .sbw then memSet m c.1 c.2 else m) (s.mem.filter (fun c => !(decide (regionOf c.1 = .sbw))))

theorem memGet_memPowered_of_out {a : Nat} (out : regionOf a ≠ .sbw) : memGet s.memPowered a = memGet s.mem a := by
  have skipped : ∀ cells m, memGet (List.foldl (fun (m : List Host.Cell) (c : Host.Cell) => if regionOf c.1 = .sbw then memSet m c.1 c.2 else m) m cells) a = memGet m a := fun cells m => by
    simpa only [decide_eq_true_eq] using memGet_foldl_memSet_of_skipped (cells := cells) (m := m) (lost := fun b => decide (regionOf b = .sbw)) (decide_eq_false out)
  refine (skipped ..).trans (memGet_filter_of_kept fun c _ here => ?_)
  simp [here, out]

theorem exec_powerUp_of_off (off : s.boot.good = false) : exec .powerUp s = .next { (s.deviceReset 1 false).draw with
    mem := (s.deviceReset 1 false).memPowered, bridge := {}, sec := { (s.deviceReset 1 false).sec with tamper := 0, wipes := 0, wipeDone := false }
    boot := { (s.deviceReset 1 false).boot with good := true, railHeld := false } } :=
  if_neg (by simp [off])

theorem exec_railFault_of_good {beyond : Bool} {u v : State} (good : s.boot.good = true) (trips : v = if beyond = true then s.trip 0 else s)
    (resets : u = v.deviceReset 2 v.boot.released) : exec (.railFault beyond) s = .next { u with boot := { u.boot with good := false, railHeld := true } } := by
  subst resets trips
  exact if_neg (by simp [good])

theorem exec_resetNAssert_of_supplied {u : State} (supplied : s.boot.good = true ∨ s.boot.railHeld = true) (resets : u = s.deviceReset 2 false) :
    exec .resetNAssert s = .next { u with boot := { u.boot with good := true, railHeld := false } } := by
  subst resets
  refine if_neg ?_
  rcases supplied with h | h <;> simp [h]

theorem exec_powerDown_of_good {ordered : Bool} {u v : State} (good : s.boot.good = true) (trips : v = if ordered = true ∧ s.boot.released = false then s else s.trip 0)
    (resets : u = v.deviceReset 1 false) :
    exec (.powerDown ordered) s = .next { u with boot := { u.boot with good := false, railHeld := false }, bridge := { up := false } } := by
  subst resets trips
  refine (if_neg (by simp [good])).trans ?_
  simp only [Bool.and_eq_true, Bool.not_eq_true']

/-! ## The progress record (R547) -/

theorem State.progress_eq (s : State) {phase error : Nat} (fits : phase < 256) (short : error < 65536) : s.progress phase error = { s with
    boot := { s.boot with phase := phase, error := error }
    mem := memPut memKey s.mem 0x28000500000 (toBytes 64 (withCrc (phase + error * 2 ^ 16 + s.ltu * 2 ^ 64 + s.boot.strap * 2 ^ 128 +
      (if phase = 0x0E ∨ phase = 0x0F then 0xFF else s.sec.bootSlot) * 2 ^ 136) 64)) } := by
  unfold State.progress
  rw [Nat.mod_eq_of_lt fits, Nat.mod_eq_of_lt short, State.wr_frame]
  simp only [State.slotCode, Bool.or_eq_true, decide_eq_true_eq]
  rfl

theorem State.progress_mem (s : State) {phase error : Nat} (fits : phase < 256) (short : error < 65536) : (s.progress phase error).mem =
    memPut memKey s.mem 0x28000500000 (toBytes 64 (withCrc (phase + error * 2 ^ 16 + s.ltu * 2 ^ 64 + s.boot.strap * 2 ^ 128 +
      (if phase = 0x0E ∨ phase = 0x0F then 0xFF else s.sec.bootSlot) * 2 ^ 136) 64)) := by rw [s.progress_eq fits short]

theorem State.progress_frame (s : State) (phase error : Nat) : s.progress phase error = { s with
    boot := { s.boot with phase := phase % 256, error := error % 65536 }, mem := (s.progress phase error).mem } := by
  have frame : ∃ m, s.progress phase error = { s with boot := { s.boot with phase := phase % 256, error := error % 65536 }, mem := m } := ⟨_, rfl⟩
  obtain ⟨m, frame⟩ := frame
  rw [frame]

theorem exec_bootProgressWrite_of_live {v : BitVec 32} (live : s.live = true) : exec (.bootProgressWrite v) s =
    .next (s.progress (bits v.toNat 0 8) (bits v.toNat 16 16)) := if_neg (by simp [live])

end

end Sys2Proof.Machine
end

section
/-!
Start-up by its phases (R64, R223 to R226, R273, R399, R496, R497, R501, R516, R520, R525, R539, R546) and the recovery boot (R549): what each
phase leaves, and from these `PinsAndStart`.
-/
namespace Sys2Proof.Machine

section
variable {s : State}

/-! ## ROM (R64, R496, R501, R514, R539) -/

theorem State.phase_eq (s : State) (f : State → State) : s.phase f = if s.fcl.halted = false ∧ s.devState = .booting then f s else s := by
  simp only [State.phase, State.boots, Bool.and_eq_true, Bool.not_eq_true', decide_eq_true_eq]

/-- The pins' straps and clocks, latched (R514, R532, R539). -/
def State.strapped (s : State) (i : StartupIn) : State := { s with
  ltu := (s.ltu + i.ticks) % 2 ^ 64
  boot := { s.boot with released := true, started := true, strap := i.straps.toNat, strapBad := decide (bits i.straps.toNat 1 2 = 3) }
  jtag := { s.jtag with drive := .system }
  pwr := { s.pwr with refKhz := i.refKhz, pllLock := true, refOk := decide (99990 ≤ i.refKhz ∧ i.refKhz ≤ 100010) } }

/-- The ROM's nonce and its own measurement (R497, R498). -/
def State.measured (s : State) : State := { s with fresh := s.fresh + 1, sec := { s.sec with nonce := (Config.nonce s.fresh).toNat, mr := Tbl.put s.sec.mr 0 Config.romDigest } }

theorem State.romStart_eq (s : State) (i : StartupIn) : s.romStart i = (s.strapped i).zeroSecure.measured.progress 1 0 := by
  unfold State.romStart
  simp only [← Bool.decide_and]
  rfl

theorem State.romStart_mem (s : State) (i : StartupIn) : (s.romStart i).mem = memPut memKey (memZero s.mem 0x28000000000 0x400000) 0x28000500000
    (toBytes 64 (withCrc (1 + 0 * 2 ^ 16 + (s.ltu + i.ticks) % 2 ^ 64 * 2 ^ 64 + i.straps.toNat * 2 ^ 128 + s.sec.bootSlot * 2 ^ 136) 64)) := by
  have time : (s.strapped i).zeroSecure.measured.ltu = (s.ltu + i.ticks) % 2 ^ 64 := rfl
  have straps : (s.strapped i).zeroSecure.measured.boot.strap = i.straps.toNat := rfl
  have slot : (s.strapped i).zeroSecure.measured.sec.bootSlot = s.sec.bootSlot := rfl
  have mem : (s.strapped i).zeroSecure.measured.mem = memZero s.mem 0x28000000000 0x400000 := rfl
  rw [State.romStart_eq, State.progress_mem _ (by omega) (by omega), if_neg (by omega), time, straps, slot, mem]

theorem State.romStart_reads (s : State) (i : StartupIn) : s.romStart i = { s with
    fresh := s.fresh + 1, ltu := (s.ltu + i.ticks) % 2 ^ 64, mem := (s.romStart i).mem, jtag := { s.jtag with drive := .system }
    pwr := { s.pwr with refKhz := i.refKhz, pllLock := true, refOk := decide (99990 ≤ i.refKhz ∧ i.refKhz ≤ 100010) }
    boot := { s.boot with released := true, started := true, strap := i.straps.toNat, strapBad := decide (bits i.straps.toNat 1 2 = 3), phase := 1, error := 0 }
    sec := { s.sec with alias_ := 0, ideKeys := [], ideSet := [], spdm := (s.romStart i).sec.spdm, nonce := (Config.nonce s.fresh).toNat, mr := (s.romStart i).sec.mr } } := by
  obtain ⟨m, frame⟩ : ∃ m, (s.strapped i).zeroSecure.measured.progress 1 0 = { (s.strapped i).zeroSecure.measured with
    boot := { (s.strapped i).zeroSecure.measured.boot with phase := 1, error := 0 }, mem := m } := ⟨_, State.progress_frame ..⟩
  rw [State.romStart_eq, frame]
  rfl

theorem State.romStart_spdm (s : State) (i : StartupIn) (ld : Nat) : (s.romStart i).spdm ld = { s.spdm ld with sessions := [] } := by
  rw [State.romStart_eq, State.progress_frame]
  exact Tbl.getD_mapAll s.sec.spdm (fun r => { r with sessions := [] }) ld {} rfl

theorem State.romStart_mr (s : State) (i : StartupIn) : (s.romStart i).sec.mr = Tbl.put s.sec.mr 0 Config.romDigest := by
  rw [State.romStart_eq, State.progress_frame]
  rfl

/-- Secure SRAM reads zero after the ROM's start: the progress record stands above it. -/
theorem memGet_romStart_of_secure {i : StartupIn} {a : Nat} (low : 0x28000000000 ≤ a) (high : a < 0x28000400000) : memGet (s.romStart i).mem a = 0#8 := by
  rw [State.romStart_mem, memGet_memPut_ne]
  · exact memGet_memZero_of_in low (by omega)
  · intro k within
    rw [memKey_of_high (by omega)]
    omega

/-! ### The Trellis trains (R64) -/

/-- A port whose edge has trained with what is lost left out. -/
def trainedPort (lost : List (Nat × Nat × Nat)) (d p : Nat) (o : Port) : Port :=
  { o with modulesUp := modulesFitted d p - lostOn lost d p, state := if modulesFitted d p - lostOn lost d p = 0 then .failed else .up }

/-- A site's ports train. -/
def State.trainSite (s : State) (lost : List (Nat × Nat × Nat)) (d : Nat) : State := (List.range (portsOf d)).foldl (fun s p => s.updPort d p (trainedPort lost d p)) s

/-- Every site's ports train. -/
def State.trainSites (s : State) (lost : List (Nat × Nat × Nat)) : State := (List.range 7).foldl (fun s d => s.trainSite lost d) s

theorem State.trainSite_reads (s : State) (lost : List (Nat × Nat × Nat)) (d : Nat) :
    (s.trainSite lost d = { s with dies := (s.trainSite lost d).dies } ∧ ∀ e, e ≠ d → (s.trainSite lost d).die e = s.die e) ∧
    ∀ p, ((s.trainSite lost d).die d).port p = if p ∈ List.range (portsOf d) then trainedPort lost d p ((s.die d).port p) else (s.die d).port p :=
  foldl_each (fun (u : State) p => (u.die d).port p) (fun u => u = { s with dies := u.dies } ∧ ∀ e, e ≠ d → u.die e = s.die e) (fun p o => trainedPort lost d p o)
    (fun u p _ ⟨kept, others⟩ => ⟨congrArg (fun v : State => { v with dies := (u.updPort d p (trainedPort lost d p)).dies }) kept,
      fun e other => (State.updDie_die_ne _ _ other).trans (others e other)⟩)
    (fun u p _ _ => (u.updPort_port ..).trans (if_pos rfl)) (fun u p _ q other _ => (u.updPort_port ..).trans (if_neg (by simp [other]))) List.nodup_range
    ⟨rfl, fun _ _ => rfl⟩

/-- What training does to the ports of a site. -/
def trainedPorts (lost : List (Nat × Nat × Nat)) (d : Nat) (ports : Nat → Port) (p : Nat) : Port :=
  if p ∈ List.range (portsOf d) then trainedPort lost d p (ports p) else ports p

/-- A site's ports by number. -/
def State.portsAt (s : State) (d p : Nat) : Port := (s.die d).port p

theorem State.trainSites_reads (s : State) (lost : List (Nat × Nat × Nat)) : s.trainSites lost = { s with dies := (s.trainSites lost).dies } ∧
    ∀ d, (s.trainSites lost).portsAt d = if d ∈ List.range 7 then trainedPorts lost d (s.portsAt d) else s.portsAt d :=
  foldl_each State.portsAt (fun u => u = { s with dies := u.dies }) (trainedPorts lost)
    (fun u d _ kept => (u.trainSite_reads lost d).1.1.trans (congrArg (fun v : State => { v with dies := (u.trainSite lost d).dies }) kept))
    (fun u d _ _ => funext (u.trainSite_reads lost d).2) (fun u d _ e other _ => by unfold State.portsAt; rw [(u.trainSite_reads lost d).1.2 e other])
    List.nodup_range rfl

theorem State.trainSites_port {lost : List (Nat × Nat × Nat)} {d p : Nat} (site : d < 7) (port : p < portsOf d) :
    ((s.trainSites lost).die d).port p = trainedPort lost d p ((s.die d).port p) := by
  have reads := congrFun ((s.trainSites_reads lost).2 d) p
  rwa [if_pos (List.mem_range.mpr site), trainedPorts, if_pos (List.mem_range.mpr port)] at reads

theorem State.trainTrellis_eq (s : State) (lost : List (Nat × Nat × Nat)) :
    s.trainTrellis lost = (lost.foldl (fun (s : State) e => if 7 ≤ e.1 ∨ portsOf e.1 ≤ e.2.1 ∨ e.2.2 = 0 then s
      else s.raise (trellisSrc e.1 (if ((s.die e.1).port e.2.1).modulesUp = 0 then 3 else 2))) (s.trainSites lost)).sample.phase (fun s => s.progress 0x02 0) := by
  simp only [State.trainTrellis, Bool.or_eq_true, decide_eq_true_eq, or_assoc]
  rfl

/-! ### The choice of a stage (R496, R501, R549) -/

theorem State.romBoots_waits {i : StartupIn} (ends : s.sec.otp.lc = 1 ∨ s.sec.otp.lc = 6) : s.romBoots i = s := if_pos (by simpa using ends)

section
variable {i : StartupIn} (blank : s.sec.otp.lc ≠ 1) (ended : s.sec.otp.lc ≠ 6)
include blank ended

theorem State.romBoots_of_strap (strap : bit i.straps.toNat 0 = true) : s.romBoots i = s.recoveryBoot i 0 :=
  (if_neg (by simp [blank, ended])).trans (if_pos strap)

theorem State.romBoots_of_no_slot (strap : bit i.straps.toNat 0 = false) (active : s.slotStatus s.activeSlot ≠ Stat.ok)
    (other : s.slotStatus (1 - s.activeSlot) ≠ Stat.ok) : s.romBoots i = s.recoveryBoot i (s.slotStatus s.activeSlot) := by
  have none_ : s.bootSlot? = none := by simp only [State.bootSlot?, if_neg active, if_neg other]
  refine (if_neg (by simp [blank, ended])).trans ((if_neg (by simp [strap])).trans ?_)
  rw [none_]

theorem State.romBoots_of_slot (strap : bit i.straps.toNat 0 = false) {slot : Nat} (good : s.slotStatus slot = Stat.ok)
    (choice : slot = s.activeSlot ∨ (slot = 1 - s.activeSlot ∧ s.slotStatus s.activeSlot ≠ Stat.ok)) {u : State}
    (loaded : u = { s with mem := memPut memKey s.mem (hdLoad (s.slotHdr slot 1)) (s.qspiBytes (stageAt slot 1 + 256) (hdLength (s.slotHdr slot 1)))
                           sec := { s.sec with mainKey := hdKey (s.slotHdr slot 2) } }) :
    s.romBoots i = (u.firstStarts (s.slotHdr slot 1) slot).progress 0x03 0 := by
  have chosen : s.bootSlot? = some slot := by
    rcases choice with rfl | ⟨rfl, bad⟩
    · simp only [State.bootSlot?, if_pos good]
    · simp only [State.bootSlot?, if_neg bad, if_pos good]
  refine (if_neg (by simp [blank, ended])).trans ((if_neg (by simp [strap])).trans ?_)
  rw [chosen, loaded]
  rfl

end

theorem State.trainCxl_eq (s : State) (t : Option CxlTrain) : s.trainCxl t = { s with cxl := (s.trainCxl t).cxl } := by
  cases t <;> rfl

theorem State.recoveryBoot_eq (s : State) (i : StartupIn) (status : Nat) : s.recoveryBoot i status = State.progress { s with
    devState := .recovery
    cxl := { (if s.boot.perst = true then (s.trainCxl i.cxl).cxl else s.cxl) with mld := false, cfgReady := s.boot.perst } } 0x0E status := by
  have trains : State.trainCxl { s with devState := .recovery } i.cxl = { s with devState := .recovery, cxl := (s.trainCxl i.cxl).cxl } := by cases i.cxl <;> rfl
  unfold State.recoveryBoot
  refine congrArg (fun v : State => v.progress 0x0E status) ?_
  by_cases perst : s.boot.perst = true
  · simp only [if_pos perst, trains]
  · simp only [if_neg perst]

/-! ## The phases (R222 to R226, R273, R399, R525, R546) -/

theorem State.bootCxl_eq (s : State) (i : StartupIn) : s.bootCxl i = if s.boot.perst = true then { s with cxl := { (s.trainCxl i.cxl).cxl with cfgReady := true } } else s := by
  unfold State.bootCxl
  cases s.boot.perst
  · rfl
  · rw [State.trainCxl_eq]
    rfl

theorem State.bootOn_stays {i : StartupIn} (stays : s.fcl.halted = true ∨ s.devState ≠ .booting ∨ s.boot.phase = 0x02) : s.bootOn i = s := by
  refine if_pos ?_
  rcases stays with h | h | h <;> simp [State.pastRom, State.boots, h]

theorem State.bootOn_goes {i : StartupIn} (runs : s.fcl.halted = false) (booting : s.devState = .booting) (past : s.boot.phase ≠ 0x02) : s.bootOn i =
    ((((s.bootCxl i).bootLpddr i.lpddrFailed true).phase State.bootMain).phase (fun s => s.bootHbm i.hbmFailed)).phase
      (fun s => (((s.bootFlash i).bootTiles i).bootLinks).bootReady) := if_neg (by simp [State.pastRom, State.boots, runs, booting, past])

theorem ftlBoot_unusable (old : Tbl FlashBlock) (i : StartupIn) : (ftlBoot old i).unusable = !(flashUsable i) := by
  unfold ftlBoot
  cases flashUsable i <;> rfl

theorem ftlBoot_userPlots_of_unusable {old : Tbl FlashBlock} {i : StartupIn} (unusable : flashUsable i = false) : (ftlBoot old i).userPlots = 0 := by
  simp only [ftlBoot, unusable]
  rfl

theorem ftlBoot_userPlots_of_usable {old : Tbl FlashBlock} {i : StartupIn} (usable : flashUsable i = true) :
    (ftlBoot old i).userPlots = (ftlBoot old i).good * i.blockSectors * 4096 * 7 / 8 / 65536 := by
  simp only [ftlBoot, usable]
  rfl

/-- A link as start-up enables it (R273). -/
def State.enabled (s : State) (l : Link) : Link :=
  { l with enable := true, expectId := 0, state := .training, since := s.ltu, prev := none, retrains := satAdd 8 l.retrains 1 }

/-- Every link enabled. -/
def State.enableLinks (s : State) : State := (List.range 36).foldl (fun s k => s.updLink k s.enabled) s

theorem State.enableLinks_reads (s : State) : s.enableLinks = { s with fab := s.enableLinks.fab } ∧
    ∀ k, s.enableLinks.link k = if k ∈ List.range 36 then s.enabled (s.link k) else s.link k :=
  foldl_each State.link (fun u => u = { s with fab := u.fab }) (fun _ l => s.enabled l)
    (fun u k _ kept => congrArg (fun v : State => { v with fab := (u.updLink k u.enabled).fab }) kept)
    (fun u k _ kept => (State.updLink_link_self ..).trans (by rw [kept]; rfl)) (fun u k _ j other _ => State.updLink_link_ne _ _ other) List.nodup_range rfl

theorem State.bootLinks_eq (s : State) : s.bootLinks = s.enableLinks.progress 0x09 0 := rfl

theorem exec_startup_idle {i : StartupIn} (idle : s.boot.good = false ∨ s.boot.started = true) : exec (.startup i) s = .next s := if_pos (by simpa using idle)

theorem exec_startup_of_reset {i : StartupIn} (good : s.boot.good = true) (unstarted : s.boot.started = false) : exec (.startup i) s =
    .next ((((s.romStart i).trainTrellis i.modulesLost).phase (fun s => s.romBoots i)).bootOn i) := if_neg (by simp [good, unstarted])

/-! ## The recovery boot (R549) -/

/-- Every package trained. -/
def State.trainLpddr (s : State) : State := (List.range 16).foldl (fun s k => s.updLpc k (fun l => { l with state := 2, rate := 107 })) s

theorem State.trainLpddr_reads (s : State) : s.trainLpddr = { s with lpc := s.trainLpddr.lpc } ∧
    ∀ k, s.trainLpddr.lpcOf k = if k ∈ List.range 16 then { s.lpcOf k with state := 2, rate := 107 } else s.lpcOf k :=
  foldl_each State.lpcOf (fun u => u = { s with lpc := u.lpc }) (fun _ l => { l with state := 2, rate := 107 })
    (fun u k _ kept => congrArg (fun v : State => { v with lpc := (u.updLpc k (fun l => { l with state := 2, rate := 107 })).lpc }) kept)
    (fun _ _ _ _ => State.updLpc_lpcOf_self ..) (fun _ _ _ _ other _ => State.updLpc_lpcOf_ne _ _ other) List.nodup_range rfl

/-- A recovery image's first stage has its memory: the packages trained, the system region zeroed, the registers of the boot set. -/
def State.recovered (s : State) (b : Boot) : State := { s.trainLpddr.zero 0x10000000000 0x800000000 with boot := b }

theorem State.trainLpddr_mem (s : State) : s.trainLpddr.mem = s.mem := by rw [s.trainLpddr_reads.1]

theorem State.recovered_frame (s : State) (b : Boot) : s.recovered b = { s with lpc := (s.recovered b).lpc, mem := (s.recovered b).mem, boot := b } := by
  obtain ⟨l, frame⟩ : ∃ l, s.trainLpddr = { s with lpc := l } := ⟨_, s.trainLpddr_reads.1⟩
  unfold State.recovered
  rw [frame]
  rfl

theorem State.recovered_lpcOf (s : State) (b : Boot) {k : Nat} (low : k < 16) : (s.recovered b).lpcOf k = { s.lpcOf k with state := 2, rate := 107 } := by
  have trained := (s.trainLpddr_reads.2 k).trans (if_pos (List.mem_range.mpr low))
  have same : (s.recovered b).lpc = s.trainLpddr.lpc := rfl
  rwa [State.lpcOf, same]

theorem memGet_recovered_of_in {b : Boot} {a : Nat} (low : 0x10000000000 ≤ a) (high : a < 0x10800000000) : memGet (s.recovered b).mem a = 0#8 :=
  memGet_memZero_of_in low high

theorem memGet_recovered_of_out {b : Boot} {a : Nat} (out : a < 0x10000000000 ∨ 0x10800000000 ≤ a) : memGet (s.recovered b).mem a = memGet s.mem a :=
  (memGet_memZero_of_out out).trans (congrArg (memGet · a) s.trainLpddr_mem)

theorem State.bytes_of_boot (s : State) (b : Boot) (a n : Nat) : State.bytes { s with boot := b } a n = s.bytes a n := State.bytes_congr (by rfl) a n

theorem State.recBody_of_boot (s : State) (b : Boot) (len n : Nat) : State.recBody { s with boot := b } len n = s.recBody len n := State.bytes_of_boot ..

section
variable {len : BitVec 32} {st : Nat}

theorem exec_recGo_idle (idle : s.live = false ∨ s.devState ≠ .recovery ∨ s.boot.recState = 2) : exec (.recGo len) s = .next s :=
  if_pos (by simpa [or_assoc] using idle)

variable (live : s.live = true) (recovers : s.devState = .recovery) (waits : s.boot.recState ≠ 2)
  (status : (if len.toNat < 256 then Stat.checkFailed else s.sec.otp.stageStatus (s.bytes 0x28001000000 256) (s.recBody len.toNat) 1) = st)
include live recovers waits status

theorem exec_recGo_of_bad (bad : st ≠ Stat.ok) : exec (.recGo len) s =
    .next { s with boot := { s.boot with recLen := len.toNat, recStatus := st, recState := 3 } } := by
  refine (if_neg (by simp [live, recovers, waits])).trans ?_
  simp only [stagingBase, State.bytes_of_boot, funext (State.recBody_of_boot s _ len.toNat), status, if_pos bad]

theorem exec_recGo_of_ok (ok : st = Stat.ok) {h : Nat} (header : ofBytes (s.bytes 0x28001000000 256) = h) {u : State}
    (loaded : u = { s with boot := { s.boot with recLen := len.toNat }, mem := memPut memKey s.mem (hdLoad h) (s.recBody len.toNat (hdLength h)) }) :
    exec (.recGo len) s = .next ((u.firstStarts h 0).recovered { s.boot with recLen := len.toNat, recStatus := Stat.ok, recState := 2, recWindow := true }) := by
  subst header loaded ok
  refine (if_neg (by simp [live, recovers, waits])).trans ?_
  simp only [stagingBase, State.bytes_of_boot, funext (State.recBody_of_boot s _ len.toNat), State.recBody_of_boot, status, if_neg (not_not.mpr rfl)]
  rfl

end

end

end Sys2Proof.Machine
end

section
/-!
Supply, reset, tamper and start-up: `PinsAndStart` from the equations of the pins and of the phases.
-/
namespace Sys2Proof.Machine

/-- Settles O59: the wipe, the reset and the pins, then start-up phase by phase and the recovery boot. BLANK and END wait with the Trellis up, two failing
slots give RECOVERY with the active slot's status, and REC_GO trains, zeroes and opens its window (log 58); a trip samples at once (log 55); what memory holds
after a reset and the SBW after power are free values (log 12 and 26). -/
theorem pinsAndStart : Obligations.PinsAndStart := by
  unfold Obligations.PinsAndStart
  refine ⟨State.deviceReset_resets, State.trip_tripped, by decide, fun s src => ⟨exec_tamperTrip_of_good, exec_tamperTrip_off⟩, State.wipe_wiped,
    fun s key => ⟨exec_secWipeWrite_idle, exec_secWipeWrite_of_key⟩,
    fun s => ⟨fun good => if_pos good, fun off => ⟨_, _, rfl, exec_powerUp_of_off off, rfl, rfl, fun a => memGet_memPowered_of_out⟩⟩,
    fun s beyond => ⟨fun off => if_pos (by simp [off]), fun good => ⟨_, _, rfl, rfl, exec_railFault_of_good good rfl rfl⟩⟩,
    fun s => ⟨fun off unheld => if_pos (by simp [off, unheld]), fun supplied => ⟨_, rfl, exec_resetNAssert_of_supplied supplied rfl⟩⟩,
    fun s ordered => ⟨fun off => if_pos (by simp [off]), fun good => ⟨_, _, rfl, rfl, exec_powerDown_of_good good rfl rfl⟩⟩,
    fun s phase error => s.progress_eq, fun s v => ⟨exec_bootProgressWrite_of_live, fun off => if_pos (by simp [off])⟩,
    fun s i => ⟨exec_startup_idle, exec_startup_of_reset⟩, State.phase_eq, ?rom, ?trellis, ?choice, ?recovery, fun s h slot => rfl,
    fun s i => ⟨State.bootOn_stays, State.bootOn_goes⟩, State.bootCxl_eq, fun s failed active => ⟨_, rfl, rfl⟩, fun s failed => rfl,
    fun s i => ⟨_, rfl, rfl⟩, fun old i => ⟨ftlBoot_unusable old i, ftlBoot_userPlots_of_unusable, ftlBoot_userPlots_of_usable⟩, fun s i => rfl, ?links,
    fun s => rfl, ?recGo⟩
  case rom =>
    exact fun s i => ⟨_, rfl, s.romStart_reads i, s.romStart_mem i, s.romStart_spdm i, s.romStart_mr i, fun a => memGet_romStart_of_secure,
      by rw [State.romStart_mr, Tbl.getD_put_self]⟩
  case trellis =>
    refine fun s lost => ⟨_, (s.trainSites_reads lost).1, s.trainTrellis_eq lost, ?_⟩
    rintro d p n site port rfl
    rw [State.trainSites_port site port]
    exact ⟨rfl, rfl⟩
  case choice =>
    exact fun s i => ⟨State.romBoots_waits, State.romBoots_of_strap, State.romBoots_of_no_slot,
      fun slot u blank ended strap good choice => State.romBoots_of_slot blank ended strap good choice⟩
  case recovery => exact fun s i status => ⟨_, rfl, s.recoveryBoot_eq i status⟩
  case links =>
    exact fun s => ⟨_, s.enableLinks_reads.1, s.bootLinks_eq, fun k low => (s.enableLinks_reads.2 k).trans (if_pos (List.mem_range.mpr low))⟩
  case recGo =>
    intro s len
    refine ⟨exec_recGo_idle, fun st live recovers waits status => ⟨exec_recGo_of_bad live recovers waits status, fun ok =>
      ⟨_, _, rfl, exec_recGo_of_ok live recovers waits status ok rfl rfl, rfl, State.recovered_frame .., fun k => State.recovered_lpcOf _ _, fun a => memGet_recovered_of_in,
        fun a => memGet_recovered_of_out⟩⟩⟩

end Sys2Proof.Machine
end
